-- ==== Sys2Proof/Word.lean ====
section
/-!
DEFINITION. The word types of the TMV-412 package: bytes, 64-bit words, and the operand records that commands carry
(a record groups the fields of one packet, one descriptor or one measurement that the outside gives the block).
-/
namespace Sys2Proof

/-- One byte of memory or of a packet. -/
abbrev Byte := BitVec 8

/-- The 64-bit word of registers, address registers and global pointers (R504, R41). -/
abbrev Word := BitVec 64

end Sys2Proof
end

