-- ==== Sys2Proof/Machine/KMap.lean ====
section
/-!
DEFINITION. Keyed maps as plain data: a list of (key, value) pairs, keys strictly rising, no entry equal to the value
that an unlisted key has. Memory is one of these (Host.Cell), and so are the register file and every indexed group of
state.
-/
namespace Sys2Proof.Machine

/-- A keyed map; the default value of an unlisted key is an argument of each operation. -/
abbrev KMap (α : Type) := List (Nat × α)

/-- The value at key k, or d where the key is not listed. -/
def kget {α : Type} (d : α) : KMap α → Nat → α
  | [], _ => d
  | (j, v) :: m, k => if j = k then v else kget d m k

/-- Drop every entry of key k. -/
def kerase {α : Type} : KMap α → Nat → KMap α
  | [], _ => []
  | (j, v) :: m, k => if j = k then kerase m k else (j, v) :: kerase m k

/-- Insert (k, v) before the first larger key. -/
def kinsert {α : Type} : KMap α → Nat → α → KMap α
  | [], k, v => [(k, v)]
  | (j, w) :: m, k, v => if k < j then (k, v) :: (j, w) :: m else (j, w) :: kinsert m k v

/-- Set key k to v in canonical form: the default value removes the entry. -/
def kset {α : Type} [DecidableEq α] (d : α) (m : KMap α) (k : Nat) (v : α) : KMap α :=
  if v = d then kerase m k else kinsert (kerase m k) k v

/-- Change the value at key k. -/
def kmodify {α : Type} [DecidableEq α] (d : α) (m : KMap α) (k : Nat) (f : α → α) : KMap α :=
  kset d m k (f (kget d m k))

/-- Keys strictly rising from a bound. -/
def kRising {α : Type} : Nat → KMap α → Bool
  | _, [] => true
  | b, (j, _) :: m => decide (b ≤ j) && kRising (j + 1) m

/-- The canonical form: keys strictly rising and no entry equal to the default. -/
def kwf {α : Type} [DecidableEq α] (d : α) (m : KMap α) : Bool :=
  kRising 0 m && m.all (fun p => !decide (p.2 = d))

end Sys2Proof.Machine
end

