-- ==== Sys2Proof/Machine/RegShape.lean ====
section
/-!
DEFINITION. The shape of the BAR0 set-up space (R502, R504, R509, R11 to R17): registers, fields, access codes, reset letters.
-/
namespace Sys2Proof.Machine

/-- The set-up blocks of Table 21.1. -/
inductive Blk where
  | glb | mas | pool | pkg | pwr | sta | sec | st | err | red | upd | cor | host | core | flag | tal | vec | con | rem | rdg | cry | sb | trv | clr
  deriving DecidableEq, Repr

/-- The reset letters of Table 0.4. -/
inductive ResetLetter where
  | power | package | function | die | port | core | refuge
  deriving DecidableEq, Repr

/-- The access codes of Table 0.3. -/
inductive Access where
  | rw | ro | w1c | wo | rsv
  deriving DecidableEq, Repr

/-- One register, or an array of `count` registers `stride` bytes apart: its BAR0 offset on die 0 and index 0 (Table
21.1), whether each die has its own, and its reset value (`byDie` where it differs from die to die). -/
structure Reg where
  blk : Blk
  off : Nat
  perDie : Bool
  stride : Nat
  count : Nat
  init : Nat
  byDie : List Nat
  deriving DecidableEq, Repr

/-- A field [hi:lo] of a register. -/
structure Fld where
  reg : Reg
  hi : Nat
  lo : Nat
  deriving DecidableEq, Repr

/-- One row of a register field table: bits, access code, reset value and reset letters. -/
structure FldRow where
  hi : Nat
  lo : Nat
  acc : Access
  reset : Nat
  letters : List ResetLetter
  deriving DecidableEq, Repr

/-- One register with its field table. -/
structure RegRow where
  name : String
  reg : Reg
  rows : List FldRow
  deriving DecidableEq, Repr

/-- The BAR0 offset of index i on die d (R502). -/
def Reg.addr (r : Reg) (d i : Nat) : Nat :=
  r.off + (if r.perDie then d * 0x20000 else 0) + i * r.stride

/-- The reset value on die d. -/
def Reg.initOf (r : Reg) (d : Nat) : BitVec 64 := BitVec.ofNat 64 (r.byDie.getD d r.init)

/-- The field of a register value. -/
def Fld.get (f : Fld) (v : BitVec 64) : Nat := bits v.toNat f.hi f.lo

/-- The register value with a field replaced by the low bits of x. -/
def Fld.put (f : Fld) (v : BitVec 64) (x : Nat) : BitVec 64 :=
  BitVec.ofNat 64
    (v.toNat - bits v.toNat f.hi f.lo * 2 ^ f.lo + (x % 2 ^ (f.hi + 1 - f.lo)) * 2 ^ f.lo)

/-- The mask of the bits [hi:lo]. -/
def FldRow.mask (f : FldRow) : Nat := (2 ^ (f.hi + 1 - f.lo) - 1) * 2 ^ f.lo

end Sys2Proof.Machine
end

