-- ==== Sys2Proof/Words.lean ====
section
/-!
DEFINITION. The records that commands carry: what one packet, one descriptor or one measurement holds, as the spec lays
it out. They are operands only; the state keeps its own records.
-/
namespace Sys2Proof

/-- Symbol errors that a granule read meets (R164, R167): for word w, the symbols hit and the four-bit pattern each
received symbol differs by. -/
structure SymErr where
  word : Nat
  symbol : Nat
  flip : BitVec 4
  deriving DecidableEq, Repr

/-- An ECC error that a read of the accumulator file meets (R114): the aligned pair of words it lies in, and whether it cannot be corrected. -/
structure AccErr where
  pair : Fin 32768
  fatal : Bool
  deriving DecidableEq, Repr

/-- The fields of a remote operation segment header that the target reads (Table 7.2), with its payload and the poison
mark of each of its 4-byte units (the POISON flag says whether any is set). -/
structure Segment where
  cls : Nat
  w64 : Bool
  last : Bool
  job : Nat
  srcDev : Nat
  srcDie : Nat
  tag : Nat
  aop : Nat
  step : Nat
  address : Nat
  len64 : Nat
  seg64 : Nat
  payload : List Byte
  marks : List Bool
  deriving DecidableEq, Repr

/-- A packet on a Ridge link (R217): its route word (Table 8.4), its VC, whether it is a response, its 32-byte header
(Table 7.2) and its payload. -/
structure Packet where
  route : BitVec 64
  vc : Nat
  rsp : Bool
  header : List Byte
  payload : List Byte
  deriving DecidableEq, Repr

/-- The header of a remote operation packet (Table 7.2): OP, the fields of FLAGS, JOB, SRC and DST as 16-bit fields, TAG's entry and AOP,
EPOCH, STEP, STATUS, ADDRESS, LEN64, SEG64. -/
structure Header where
  op : Nat
  cls : Nat
  fence : Bool
  pois : Bool
  w64 : Bool
  last : Bool
  job : Nat
  src : Nat
  dst : Nat
  tag : Nat
  aop : Nat
  epoch : Nat
  step : Nat
  status : Nat
  address : Nat
  len64 : Nat
  seg64 : Nat
  deriving DecidableEq, Repr

/-- The fields of a flit on a Ridge link (Table 8.2), with the ENC bit and key slot of R483. -/
structure Flit where
  seq : Nat
  ack : Nat
  vc : Nat
  kind : Nat
  cvc : Nat
  crsp : Bool
  ccount : Nat
  enc : Bool
  slot : Nat
  deriving DecidableEq, Repr

/-- What a reset that completes meets: the Crest dies whose loaded image fails its digest (Table 19.2), whether SYS_REFCLK is
present (R523), the straps (Table 22.3), and the serial numbers that the base dies of stacks 0 to 11 give (R478). -/
structure BootInputs where
  badLoad : Fin 16
  sysClk : Bool
  sris : Bool
  sbAddr : Fin 8
  serials : List (BitVec 64)
  deriving DecidableEq, Repr

/-- What a self-test measured of one part of its target (Table 20.1): a lane, a wire (of a Saddle end as group × 80 + wire), a sensor (16 its
die's voltage, 17 its current sensor), or part 0. KINDs 1 and 2: the eye margin in 1/1,000 UI, the bit error ratio as FP64, the uncorrected codewords. 3 and 4: the
margin in 1/1,000 UI and the pattern errors. 5: how far from nominal, in ppm. 6: how far from the set point `nominal`, in mV, and the ripple in
mV as `errors`. 7: how far from the die's median in °C, or from the reference `nominal`. -/
structure TestReading where
  part : Fin 1280
  margin : Fin 65536
  ratio : BitVec 64
  errors : Nat
  nominal : Nat
  deriving DecidableEq, Repr

/-- A record of the package manifest (R478): position, DRAM partner, qualification identifier, stack serial number. -/
structure ManifestRecord where
  position : Fin 12
  partner : Nat
  qualification : Nat
  serial : BitVec 64
  deriving DecidableEq, Repr

end Sys2Proof
end

