-- ==== Sys2Proof/Syntax.lean ====
section
/-!
DEFINITION. The commands of the block, one constructor for each row of the opcode table: what the outside may do to the
package, with the operands each carries.
-/
namespace Sys2Proof

/-- One command. -/
inductive Instr where
  /-- REGISTER_WRITE (R505). A BAR0 write to a register that has no row of its own sets its fields under the access codes of Table 0.3. -/
  | registerWrite (offset : Fin 0x100000) (size : Fin 65) (value : Word)
  /-- MODE_WRITE (R510). A MODE write applies PRESET, then EXPERT, reloading the block's expert fields or refusing an unlisted preset. -/
  | modeWrite (block : Machine.Blk) (die : Fin 4) (expert : Bool) (preset : Fin 256)
  /-- BROADCAST_WRITE (R508). A write to the die broadcast window is applied, in ascending die order, to every RUNNING die. -/
  | broadcastWrite (offset : Fin 0x4000) (value : Word)
  /-- SETUP_LOCK (R512). A write of 1 to SETUP_LOCK locks MODE and expert registers until power-on or package reset. -/
  | setupLock
  /-- PATH_HOLD_RELEASE (R31). Requests held after a path change go on once every request sent on the old path has been delivered or completed. -/
  | pathHoldRelease (a : Fin 4) (b : Fin 4)
  /-- CALIBRATION_SAVE (R45). A shell saves its calibration image, one operation at a time in arrival order. -/
  | calibrationSave (kind : Fin 9) (inst : Fin 64)
  /-- CALIBRATION_RESTORE (R44). A shell restores a calibration image, or refuses it, keeps its calibration and sets its image-refused alarm. -/
  | calibrationRestore (kind : Fin 9) (inst : Fin 64) (image : List Byte)
  /-- TQ_PUSH (R59). The Spur core pushes a tile instruction word, capturing the TA registers it names, and stalls while the queue is full. -/
  | tqPush (d : Fin 4) (g : Fin 96) (insn : BitVec 32) (w : Word)
  /-- TQ_SETA (R59). The Spur core sets a tile address register, or raises an illegal-instruction exception for rd of 16 or more. -/
  | tqSeta (d : Fin 4) (g : Fin 96) (insn : BitVec 32) (v : Word)
  /-- TQ_STAT (R58). The Spur core reads the tile queue status. -/
  | tqStat (d : Fin 4) (g : Fin 96) (insn : BitVec 32)
  /-- TQ_ECRD (R59). The Spur core reads an event counter, or raises an illegal-instruction exception for an index of 16 or more. -/
  | tqEcrd (d : Fin 4) (g : Fin 96) (insn : BitVec 32)
  /-- TQ_CLEAR (R83). The Spur core discards every queued word, clears TQ_FAULT and resumes issue. -/
  | tqClear (d : Fin 4) (g : Fin 96) (insn : BitVec 32)
  /-- LD_TILE (R72). The tile queue issues LD_TILE, copying strided rows into own core scratch or ledge. -/
  | ldTile (d : Fin 4) (g : Fin 96)
  /-- ST_TILE (R72). The tile queue issues ST_TILE, copying own core scratch into strided rows. -/
  | stTile (d : Fin 4) (g : Fin 96)
  /-- MMA (R76). The accumulator pipe runs an MMA over the enabled cubes in fixed summation order. -/
  | mma (d : Fin 4) (g : Fin 96) (errs : List AccErr)
  /-- MMA_CONV (R56). The accumulator pipe runs a sliding-window convolution, reading each window row into the ledge once. -/
  | mmaConv (d : Fin 4) (g : Fin 96) (errs : List AccErr)
  /-- MMA_PAIR3 (R69). The accumulator pipe runs hi·hi, hi·lo and lo·hi passes of pair operands. -/
  | mmaPair3 (d : Fin 4) (g : Fin 96) (errs : List AccErr)
  /-- ACC_RD (R70). The accumulator pipe converts an accumulator tile and writes it to memory. -/
  | accRd (d : Fin 4) (g : Fin 96) (errs : List AccErr)
  /-- ACC_WR (R70). The accumulator pipe loads an accumulator tile from memory. -/
  | accWr (d : Fin 4) (g : Fin 96)
  /-- TILE_ADD (R71). The accumulator pipe adds two tiles elementwise with one rounding. -/
  | tileAdd (d : Fin 4) (g : Fin 96) (errs : List AccErr)
  /-- PERMUTE (R73). The move pipe writes destination rows from indexed source rows. -/
  | permute (d : Fin 4) (g : Fin 96)
  /-- MOVE (R74). The move pipe copies bytes on the cluster mover. -/
  | move (d : Fin 4) (g : Fin 96)
  /-- PUT (R197). The move pipe issues a remote PUT, or an ENQUEUE when it names a queue port. -/
  | put (d : Fin 4) (g : Fin 96)
  /-- GET (R197). The move pipe issues a remote GET. -/
  | get (d : Fin 4) (g : Fin 96)
  /-- ATOMIC (R200). The move pipe issues a remote ATOMIC, or a NOTIFY when it names a flag word. -/
  | atomic (d : Fin 4) (g : Fin 96)
  /-- LOCAL_MOVE_COMPLETE (R65). A local move-pipe instruction completes and increments its event counter when ECEN is 1. -/
  | localMoveComplete (d : Fin 4) (g : Fin 96) (n : Fin 16)
  /-- WAIT (R66). A WAIT at the queue head holds issue until its counter or idle condition holds. -/
  | wait (d : Fin 4) (g : Fin 96)
  /-- WAIT_SATISFIED (R66). The condition of a held WAIT becomes true, and the queue resumes issue. -/
  | waitSatisfied (d : Fin 4) (g : Fin 96)
  /-- SIGNAL (R65). SIGNAL adds INC to an event counter of a core in its cluster. -/
  | signal (d : Fin 4) (g : Fin 96)
  /-- SIGNAL_AFTER_IDLE (R65). A SIGNAL with AFTER = 1 adds its increment once every pipe of its core is idle. -/
  | signalAfterIdle (d : Fin 4) (g : Fin 96)
  /-- CORE_RUN (R403). A write to CORE_CTRL RUN starts the Spur core at SPUR_ENTRY or halts it. -/
  | coreRun (d : Fin 4) (g : Fin 96) (run : Bool)
  /-- CORE_RESET (R466). A CORE_RESET command resets one core: Spur core, tile queue, counters and TA registers, with its remote operations ABORTED. -/
  | coreReset (d : Fin 4) (core : Nat)
  /-- VEC_RUN (R135). The tile queue hands a VEC_RUN to the vector pipe, capturing the rounding key. -/
  | vecRun (d : Fin 4) (g : Fin 96)
  /-- VEC_RUN_BEGIN (R161). A pending run checks its image and instructions and begins issuing in the cycle after the previous run completes. -/
  | vecRunBegin (d : Fin 4) (g : Fin 96)
  /-- VEC_RUN_COMPLETE (R135). A run completes, latching its summary slots, setting its flags and incrementing its event counter. -/
  | vecRunComplete (d : Fin 4) (g : Fin 96)
  /-- VADD (R142). Crest add of VA and VB lanes. -/
  | vadd (d : Fin 4) (g : Fin 96)
  /-- VSUB (R142). Crest subtract. -/
  | vsub (d : Fin 4) (g : Fin 96)
  /-- VMUL (R142). Crest multiply. -/
  | vmul (d : Fin 4) (g : Fin 96)
  /-- VFMA (R142). Crest fused multiply-add with one rounding. -/
  | vfma (d : Fin 4) (g : Fin 96)
  /-- VFNMA (R142). Crest fused negative multiply-add with one rounding. -/
  | vfnma (d : Fin 4) (g : Fin 96)
  /-- VMIN (R143). Crest lane minimum. -/
  | vmin (d : Fin 4) (g : Fin 96)
  /-- VMAX (R143). Crest lane maximum. -/
  | vmax (d : Fin 4) (g : Fin 96)
  /-- VABS (R143). Crest absolute value. -/
  | vabs (d : Fin 4) (g : Fin 96)
  /-- VNEG (R143). Crest negate. -/
  | vneg (d : Fin 4) (g : Fin 96)
  /-- VRCP (R144). Crest reciprocal. -/
  | vrcp (d : Fin 4) (g : Fin 96)
  /-- VRSQRT (R144). Crest reciprocal square root. -/
  | vrsqrt (d : Fin 4) (g : Fin 96)
  /-- VEXP2 (R144). Crest power of two. -/
  | vexp2 (d : Fin 4) (g : Fin 96)
  /-- VLOG2 (R144). Crest base-2 logarithm. -/
  | vlog2 (d : Fin 4) (g : Fin 96)
  /-- VAND (R140). Crest bitwise AND. -/
  | vand (d : Fin 4) (g : Fin 96)
  /-- VOR (R140). Crest bitwise OR. -/
  | vor (d : Fin 4) (g : Fin 96)
  /-- VXOR (R140). Crest bitwise XOR. -/
  | vxor (d : Fin 4) (g : Fin 96)
  /-- VSHL (R140). Crest shift left. -/
  | vshl (d : Fin 4) (g : Fin 96)
  /-- VSHR (R140). Crest shift right, arithmetic or logical by type. -/
  | vshr (d : Fin 4) (g : Fin 96)
  /-- VCMP (R146). Crest compare that writes a predicate. -/
  | vcmp (d : Fin 4) (g : Fin 96)
  /-- VSEL (R140). Crest select by predicate. -/
  | vsel (d : Fin 4) (g : Fin 96)
  /-- PLOG (R147). Crest predicate logic. -/
  | plog (d : Fin 4) (g : Fin 96)
  /-- PACK (R148). Crest narrowing conversion into a position of VD. -/
  | pack (d : Fin 4) (g : Fin 96)
  /-- UNPACK (R149). Crest widening conversion from a position of VA. -/
  | unpack (d : Fin 4) (g : Fin 96)
  /-- MXPACK (R150). Crest encoding of two MX blocks. -/
  | mxpack (d : Fin 4) (g : Fin 96)
  /-- MXUNPACK (R150). Crest decoding of two MX blocks. -/
  | mxunpack (d : Fin 4) (g : Fin 96)
  /-- M8ENC (R151). Crest encoding of one M8 moment block. -/
  | m8enc (d : Fin 4) (g : Fin 96)
  /-- M8DEC (R151). Crest decoding of one M8 moment block. -/
  | m8dec (d : Fin 4) (g : Fin 96)
  /-- VPERM (R152). Crest permute by index. -/
  | vperm (d : Fin 4) (g : Fin 96)
  /-- VSHUF (R152). Crest fixed shuffle. -/
  | vshuf (d : Fin 4) (g : Fin 96)
  /-- VRED (R152). Crest lane-group SUM or MAX reduction. -/
  | vred (d : Fin 4) (g : Fin 96)
  /-- VIOTA (R140). Crest lane index. -/
  | viota (d : Fin 4) (g : Fin 96)
  /-- VITER (R140). Crest iteration number. -/
  | viter (d : Fin 4) (g : Fin 96)
  /-- VMOVH (R145). Crest immediate into the high halves of the lanes. -/
  | vmovh (d : Fin 4) (g : Fin 96)
  /-- VMOVL (R145). Crest immediate into the low halves of the lanes. -/
  | vmovl (d : Fin 4) (g : Fin 96)
  /-- LD (R141). Crest load from an input stream. -/
  | ld (d : Fin 4) (g : Fin 96)
  /-- ST (R141). Crest store to an output stream. -/
  | st (d : Fin 4) (g : Fin 96)
  /-- SUM (R153). Crest fold of lanes into a summary slot. -/
  | sum (d : Fin 4) (g : Fin 96)
  /-- VS_RD (R155). The Spur core reads a summary slot at once. -/
  | vsRd (d : Fin 4) (g : Fin 96) (insn : BitVec 32)
  /-- VS_RDW (R155). The Spur core stalls until earlier VEC_RUNs complete, then reads a summary slot. -/
  | vsRdw (d : Fin 4) (g : Fin 96) (insn : BitVec 32)
  /-- VS_RDW_RETURN (R156). A stalled VS.RDW returns when its runs complete, the queue faults or TQ.CLEAR runs. -/
  | vsRdwReturn (d : Fin 4) (g : Fin 96)
  /-- TALUS_READ (R167). A Talus controller reads a granule and decodes each word, correcting, poisoning or counting errors. -/
  | talusRead (t : Fin 12) (granule : Fin 536870912) (errs : List SymErr)
  /-- TALUS_WRITE (R165). A Talus controller writes a whole granule or performs a read-modify-write. -/
  | talusWrite (t : Fin 12) (granule : Fin 536870912) (first : Fin 128) (data : List Byte) (poison : Bool) (errs : List SymErr)
  /-- RETIRE (R170). A write of RETIRE to STACK_CTRL retires the stack. -/
  | retire (t : Fin 12)
  /-- CLEAR_COUNTS (R167). A write of CLEAR_COUNTS to STACK_CTRL sets CE_COUNT and UE_COUNT to 0. -/
  | clearCounts (t : Fin 12)
  /-- SCRUB_READ (R172). The scrub timer reads the next granule and writes back corrected data or marks poison. -/
  | scrubRead (t : Fin 12) (errs : List SymErr)
  /-- STACK_TEMP_UPDATE (R174). Every 1 ms the stack temperature is updated and the refresh rate doubles or returns. -/
  | stackTempUpdate (t : Fin 12) (temp : Fin 256)
  /-- STACK_TRAINING_COMPLETE (R175). A stack's training ends, moving it to ACTIVE with held accesses performed, or to RETIRED. -/
  | stackTrainingComplete (t : Fin 12) (pass : Bool) (wires : List (Fin 320))
  /-- POOLED_ACCESS (R179). A SPACE 0b10 access is sent as UIO, or completes UNREACHABLE or INVALID_DESCRIPTOR by its range entry. -/
  | pooledAccess (d : Fin 4) (id : Fin 4096)
  /-- UIO_COMPLETION (R180). A UIO completion arrives; an error or poison completion may declare its range LOST. -/
  | uioCompletion (d : Fin 4) (id : Fin 4096) (result : Fin 3) (data : List Byte) (marks : List Bool)
  /-- UIO_TIMEOUT (R181). A UIO request times out after UIO_TIMEOUT_US, completes TIMEOUT and its range becomes LOST. -/
  | uioTimeout (d : Fin 4) (id : Fin 4096)
  /-- EXPANDER_REMOVED (R180). The fabric manager reports an expander removed, and its range becomes LOST. -/
  | expanderRemoved (n : Fin 32)
  /-- RANGE_STATE_WRITE (R179). A write to RANGE_STATE sets VALID or EMPTY, or is refused with RANGE_ERR. -/
  | rangeStateWrite (n : Fin 32) (v : Fin 4)
  /-- TRACKER_GRANT (R187). A freed tracker entry is granted to the next waiting requester in round-robin order. -/
  | trackerGrant (d : Fin 4)
  /-- FENCE_RELEASE (R194). A FENCE operation is sent once every earlier remote operation of its core has completed. -/
  | fenceRelease (d : Fin 4) (id : Fin 4096)
  /-- PUT_ARRIVE (R197). A PUT segment arrives at its target, is checked and written, and is answered with an ACK. -/
  | putArrive (g : Segment)
  /-- GET_ARRIVE (R197). A GET segment arrives and is answered with DATA. -/
  | getArrive (g : Segment)
  /-- ATOMIC_ARRIVE (R200). An ATOMIC arrives and performs its read-modify-write indivisibly. -/
  | atomicArrive (g : Segment)
  /-- NOTIFY (R205). An ATOMIC on a flag word is performed and fires its trigger when it crosses THRESHOLD. -/
  | notify (g : Segment)
  /-- REMOTE_RESPONSE (R190). An ACK or DATA response arrives; the operation completes when all its segments are answered. -/
  | remoteResponse (d : Fin 4) (id : Fin 4096) (step : Nat) (seg64 : Nat) (status : Nat) (refused : Bool) (data : List Byte) (marks : List Bool)
  /-- REMOTE_TIMEOUT (R212). An operation's deadline passes; it completes TIMEOUT and frees its entry. -/
  | remoteTimeout (d : Fin 4) (id : Fin 4096)
  /-- CLEAR_HW (R185). A write of CLEAR_HW to TRACKER_STATUS sets HIGH_WATER to IN_USE. -/
  | clearHw (d : Fin 4)
  /-- PORT_TRAINED (R215). A Ridge port completes training at the widest width both ends pass and sends its TRAILHEAD. -/
  | portTrained (p : Fin 16) (lanes : Fin 16) (margins : Word)
  /-- RIDGE_FLIT (R218). A Ridge flit is received, checked and accepted or answered with NAK. -/
  | ridgeFlit (p : Fin 16) (raw : List Byte) (fec : Nat) (uncorrectable : Bool)
  /-- NAK (R218). A NAK arrives and the sender replays from the named SEQ, entering RETRAIN at RETRY_LIMIT. -/
  | nak (p : Fin 16) (seq : Fin 4096)
  /-- LANE_LOCK_LOSS (R232). A lane loses lock and its port enters RETRAIN. -/
  | laneLockLoss (p : Fin 16) (_lane : Fin 4)
  /-- RETRAIN_DONE (R232). A port in RETRAIN trains again, replays its buffer and returns to UP. -/
  | retrainDone (p : Fin 16) (lanes : Fin 16) (margins : Word)
  /-- RETRAIN_TIMEOUT (R232). RETRAIN_US passes without success and the port becomes FAILED. -/
  | retrainTimeout (p : Fin 16)
  /-- PORT_RESET (R233). A write of RESET to PORT_CTRL moves the port's flows, discards its packets and retrains it. -/
  | portReset (p : Fin 16)
  /-- PORT_CLEAR_COUNTS (R233). A write of CLEAR_COUNTS to PORT_CTRL zeroes PORT_ERRORS and PORT_FEC. -/
  | portClearCounts (p : Fin 16)
  /-- FLOW_RETURN (R234). Flows move back to a returning port once everything sent on the substitute is acknowledged. -/
  | flowReturn (p : Fin 16)
  /-- PACKET_FORWARD (R225). A package forwards a packet by its route word, choosing the port by hash. -/
  | packetForward (d : Fin 4) (from_ : Option (Fin 16)) (k : Packet)
  /-- TRAILHEAD (R239). A TRAILHEAD is received and checked, and the port becomes UP or FAILED or answers with its second TRAILHEAD. -/
  | trailhead (p : Fin 16) (body : List Byte) (delay : Nat)
  /-- LINK_REPORT_RECEIVE (R237). The summit takes a LINK_REPORT and publishes the resulting generation. -/
  | linkReportReceive (device : Fin 10240) (dir : Fin 6) (dead : Bool)
  /-- LINK_MAP (R231). A member receives a published generation and installs its trail table. -/
  | linkMap (term : Nat) (gen : Nat) (admitted : List Nat) (dead : List (Nat × Nat × Nat × Nat))
  /-- TRAIL_SIGN_SWITCH (R231). A die changes the signs for a destination once operations sent under the old signs have completed. -/
  | trailSignSwitch (d : Fin 4) (dst : Fin 10240)
  /-- BROADCAST_FORWARD (R240). A package forwards a broadcast along X, Y and Z. -/
  | broadcastForward (from_ : Option (Fin 16)) (skip : Nat) (left : Nat) (op : Nat) (fields : List Nat) (delay : Nat)
  /-- TRAILHEAD_WAIT_EXPIRY (R241). TRAILHEAD_WAIT_MS passes with no HEARTBEAT, and the package becomes CANDIDATE. -/
  | trailheadWaitExpiry
  /-- ELECT_TICK (R241). A CANDIDATE broadcasts ELECT every 1 ms. -/
  | electTick
  /-- ELECT (R241). An ELECT is received, and a lower identifier sends the package to JOINING. -/
  | elect (device : Fin 10240) (serial : Nat) (term : Nat)
  /-- ELECT_QUIET_EXPIRY (R241). ELECT_QUIET_MS passes with no lower identifier, and the candidate becomes SUMMIT. -/
  | electQuietExpiry
  /-- JOIN (R242). The summit takes a JOIN and admits or refuses it after the attestation and policy checks. -/
  | join (device : Fin 10240) (dims : Nat) (term : Nat) (version : Nat) (evidence : List Byte)
  /-- ADMIT (R241). A joiner receives ADMIT and becomes MEMBER, or a refusal and returns to ALONE. -/
  | admitReply (cause : Fin 4)
  /-- JOIN_RETRY (R241). One second after a refusal, the package sends JOIN again. -/
  | joinRetry
  /-- HEARTBEAT_TICK (R243). The summit broadcasts HEARTBEAT every 100 µs. -/
  | heartbeatTick
  /-- HEARTBEAT (R243). A member receives a HEARTBEAT, follows the highest TERM, sends SYNC or PRESENT as due. -/
  | heartbeat (term : Fin 65536) (summit : Fin 16384) (standby : Fin 16384) (version : Nat) (gen : Nat)
  /-- STANDBY_TAKEOVER (R243). After 2 ms with no HEARTBEAT, the standby becomes summit with TERM + 1. -/
  | standbyTakeover
  /-- MEMBER_SILENCE_TIMEOUT (R241). A member hears no HEARTBEAT for the larger of ELECT_QUIET_MS and 3 ms and becomes CANDIDATE. -/
  | memberSilenceTimeout
  /-- PRESENT (R244). The summit receives a member's PRESENT. -/
  | present (device : Fin 10240)
  /-- MEMBER_TIMEOUT (R244). No PRESENT arrives for MEMBER_TIMEOUT_MS and the summit declares the member departed. -/
  | memberTimeout (device : Fin 10240)
  /-- MEMBERSHIP (R244). A member adopts a MEMBERSHIP publication, including departures and the standby. -/
  | membership (term : Fin 65536) (version : Nat) (summit : Fin 16384) (standby : Fin 16384) (ms : List (Nat × Nat × Nat))
  /-- SYNC (R243). The summit answers SYNC with the current membership and map. -/
  | sync (device : Fin 10240)
  /-- LEAVE (R244). The summit receives LEAVE and publishes the departure. -/
  | leave (device : Fin 10240)
  /-- PARTITION_RECEIVE (R245). The summit takes a forwarded PARTITION and applies the job assignment at re-shard. -/
  | partitionReceive (assign : List (Nat × Nat))
  /-- CONTOUR (R249). A package takes a CONTOUR packet, adjusts fabric time and adopts a higher value of its job. -/
  | contour (job : Fin 65536) (term : Fin 65536) (delay : Nat) (value : Nat) (sendAt : Nat)
  /-- DEADLINE_FIRE (R257). A PENDING DEADLINE entry reaches its due fabric time and fires. -/
  | deadlineFire (d : Fin 4) (e : Fin 256)
  /-- LOCAL_POS_WRITE (R250). A write to LOCAL_POS raises the die's position, holds it in AHEAD_POS or is ignored with POS_ERR. -/
  | localPosWrite (d : Fin 4) (v : Word)
  /-- CONTOUR_REPORT (R250). The Camp die sends a risen package position to the summit, at most once every 5 µs. -/
  | contourReport
  /-- CONTOUR_REPORT_RECEIVE (R251). The summit records a member's position and publishes the next contour value as due. -/
  | contourReportReceive (device : Fin 10240) (job : Fin 65536) (position : Nat) (lastSeen : Nat)
  /-- IDLE_CONTOUR_TICK (R248). Every 100 ms the summit advances the idle contour of job 0x0000. -/
  | idleContourTick
  /-- CONTOUR_REPEAT_TICK (R252). The summit repeats the idle contour with REPEAT set after 1 ms without a CONTOUR packet. -/
  | contourRepeatTick
  /-- TAKEOVER_PUBLISH (R253). 100 µs after takeover the new summit publishes for each job the larger of its last value and the reported LAST_SEEN. -/
  | takeoverPublish
  /-- FTIME_VALID_EXPIRY (R254). No CONTOUR packet for 2 ms clears FTIME_VALID. -/
  | ftimeValidExpiry
  /-- EVENT_CTRL_WRITE (R258). A write to an event entry is refused, or sets it and makes an entry already past its threshold act at once. -/
  | eventCtrlWrite (d : Fin 4) (e : Fin 256) (r : Fin 5) (w : Word) (camp : Bool)
  /-- CHAIN_READ (R405). A chain reads its next descriptor once a handle is free. -/
  | chainRead (n : Fin 1024)
  /-- PREFETCH_COMPLETE (R258). A PREFETCH completes and its status is written to STATUS. -/
  | prefetchComplete (d : Fin 4)
  /-- STEP_READY (R266). A write of a step to STEP_READY writes BWD_DONE to LOCAL_POS, or is ignored or refused with CFG_ERR. -/
  | stepReady (d : Fin 4) (step : BitVec 40)
  /-- BUCKET_ADMIT (R267). A waiting bucket is admitted into flight once a slot and its stage reservation are available. -/
  | bucketAdmit (b : Fin 4096) (d : Fin 4)
  /-- QUARANTINE_SCAN_DONE (R287). The QUARANTINE scan of a bucket ends, sending START or ABSENT for every shard. -/
  | quarantineScanDone (b : Fin 4096)
  /-- START (R278). A parent receives START and sends GO once it holds the shard's reservation. -/
  | start (epoch : Fin 65536) (g : Segment)
  /-- GO (R278). A child receives GO and sends its output blocks in ascending order. -/
  | go (epoch : Fin 65536) (g : Segment)
  /-- PARTIAL (R278). A parent receives partial block records into its landing slots. -/
  | partialBlocks (epoch : Fin 65536) (g : Segment)
  /-- BLOCK_ADD (R272). An adder folds a block once all its present inputs have landed, checking each input's cairn word. -/
  | blockAdd (b : Fin 4096) (sh : Fin 16)
  /-- RESULT (R289). A rank receives RESULT blocks, checks them, writes its buffer and forwards them. -/
  | result (epoch : Fin 65536) (g : Segment)
  /-- ABSENT (R284). A parent receives ABSENT and handles the rank as missing under its straggler policy. -/
  | absent (epoch : Fin 65536) (g : Segment)
  /-- RESEND (R283). A rank receives RESEND and resends its retained output blocks. -/
  | resend (epoch : Fin 65536) (g : Segment)
  /-- OWN_REQ (R286). A rank or backup receives OWN_REQ and sends its own contribution blocks. -/
  | ownReq (epoch : Fin 65536) (g : Segment)
  /-- OWN (R286). An ancestor receives OWN contribution blocks for a bypassed position. -/
  | own (epoch : Fin 65536) (g : Segment)
  /-- BYPASSED (R285). A late rank receives BYPASSED and discards or carries its contribution. -/
  | bypassed (epoch : Fin 65536) (g : Segment)
  /-- FETCH (R285). A rank receives FETCH and replies with RESULT_FP32, or NO_RESOURCE after the seal. -/
  | fetchReq (epoch : Fin 65536) (g : Segment)
  /-- RESULT_FP32 (R285). A rejoined rank receives its shard's final values by RESULT_FP32. -/
  | resultFp32 (epoch : Fin 65536) (g : Segment)
  /-- SHARD_DEADLINE (R284). A shard's deadline passes and ranks without START are declared missing. -/
  | shardDeadline (b : Fin 4096) (sh : Fin 16)
  /-- PARTIAL_STALL (R284). A child's output blocks stop arriving for DEADLINE_US after GO and it is declared missing. -/
  | partialStall (b : Fin 4096) (sh : Fin 16) (p : Fin 10240)
  /-- START_CMD (R300). A write of START to UPD_CMD requests a bucket's update. -/
  | startCmd (b : Fin 4096)
  /-- STATE_FETCH_LAND (R319). Fetched outer-tier state lands in the window, or the fetch fails. -/
  | stateFetchLand (d : Fin 4) (j : Fin 3)
  /-- BLOCK_RUN (R316). An engine starts a block once its inputs are present and a journal slot and store room are free. -/
  | blockRun (d : Fin 4) (j : Fin 3) (bucket : Fin 4096)
  /-- SNAP (R314). A block's program finishes and its snapshot and VALID header are written. -/
  | snap (d : Fin 4) (j : Fin 3) (k : Fin 4)
  /-- MOMENTS (R314). The snapshot has landed and the new moments are written. -/
  | moments (d : Fin 4) (j : Fin 3) (k : Fin 4)
  /-- WEIGHTS (R314). The moments have landed, or an outer write failed, and the new weights and average are written. -/
  | weights (d : Fin 4) (j : Fin 3) (k : Fin 4)
  /-- TAG (R314). The weights have landed and the commit tag is written. -/
  | tag (d : Fin 4) (j : Fin 3) (k : Fin 4)
  /-- BLOCK_DONE (R316). A commit tag lands, the slot is freed and the block finishes. -/
  | blockDone (d : Fin 4) (j : Fin 3) (k : Fin 4)
  /-- RECOVER (R317). A write of RECOVER to UPD_CMD runs journal recovery on every die, or is refused. -/
  | recover
  /-- EXPORT_START (R322). An export begins once the step is sealed and the bucket's update is done. -/
  | exportStart (id : Nat) (outer : List Byte) (status : Fin 256)
  /-- EXPORT_DONE (R325). An export completes and writes its completion word. -/
  | exportDone (id : Nat)
  /-- STEP_STATE (R328). The summit takes a STEP_STATE report and publishes SEAL, COLLAPSE or RESUME as its state table gives. -/
  | stepState (device : Fin 10240) (job : Fin 65536) (step : Nat) (try_ : Nat) (state : Fin 5) (fenced : Fin 16) (status : Fin 256) (halted : Bool)
  /-- REJOIN_HOLD_EXPIRY (R329). REJOIN_HOLD_MS passes for a fenced die and the seal conditions are re-evaluated. -/
  | rejoinHoldExpiry (job : Fin 65536) (device : Fin 10240) (die : Fin 4)
  /-- COLLAPSE (R340). A member adopts COLLAPSE: closes gates, stops reduction and updates and starts discarding. -/
  | collapse (job : Fin 65536) (step : Nat) (try_ : Nat) (cause : Nat) (halt : Bool) (epoch : Option (Fin 65536))
  /-- COLLAPSE_RESEND_TICK (R339). The summit resends COLLAPSE every 1 ms until every member has reported. -/
  | collapseResendTick (job : Fin 65536)
  /-- COLLAPSE_DRAIN_DONE (R340). The collapse drain ends and the die recovers the journal and restores its store records. -/
  | collapseDrainDone (d : Fin 4)
  /-- COLLAPSE_RESTORE_DONE (R341). Store restores have landed, commit tags are written, the step is reset and RESTORED is reported. -/
  | collapseRestoreDone (d : Fin 4)
  /-- RESUME (R343). A member adopts RESUME and relaunches the step's reduction. -/
  | resume (job : Fin 65536) (step : Nat) (try_ : Nat) (sendAt : Nat)
  /-- REDUCE_CONTROL_RESEND (R340). A resumed rank resends a START or ABSENT answered COLLAPSED every 10 µs. -/
  | reduceControlResend
  /-- RESHARD_REQ (R344). The summit takes a re-shard request and schedules a DRAIN or orders an ABORT collapse. -/
  | reshardReq (job : Fin 65536) (mode : Fin 2)
  /-- RESHARD (R344). A member receives RESHARD and notes the pending DRAIN. -/
  | reshard (job : Fin 65536) (mode : Fin 2) (effective : Nat) (epoch : Fin 65536)
  /-- RESHARD_CMD (R344). A write of RESHARD to CORNICE_CMD sends RESHARD_REQ to the summit. -/
  | reshardCmd (mode : Fin 2)
  /-- RESUME_CMD (R346). A write of RESUME to CORNICE_CMD sends a resume request, or is refused when not halted. -/
  | resumeCmd
  /-- CLEAR_STALE (R331). A write of CLEAR_STALE clears the named dies' STALE bits. -/
  | clearStale (dies : Fin 16)
  /-- SB_START (R351). A write of START to SB_CMD sets step, entry and bank and runs the schedule. -/
  | sbStart (d : Fin 4) (bank : Fin 2) (step : BitVec 40) (entry : Fin 4096)
  /-- SB_STOP (R351). A write of STOP to SB_CMD ends dispatching. -/
  | sbStop (d : Fin 4)
  /-- CONTINUE (R350). A write of CONTINUE to SB_CMD leaves HELD or FAULTED. -/
  | sbContinue (d : Fin 4)
  /-- SB_ENTRY_READ (R347). The engine reads an entry as PTR comes near and issues its prefetch hint. -/
  | sbEntryRead (d : Fin 4)
  /-- SB_DISPATCH (R353). The entry at PTR is dispatched once its input, gate, hint and depth conditions hold. -/
  | sbDispatch (d : Fin 4)
  /-- HINT_COMPLETE (R358). A prefetch or offload completes; a failure is recorded or faults the engine. -/
  | hintComplete (d : Fin 4)
  /-- SB_STEP_END (R355). At END the engine waits for every entry to be done, then restarts at entry 0 of the next step. -/
  | sbStepEnd (d : Fin 4)
  /-- SB_BANK_SWITCH (R349). At the END of the DRAIN step, after the seal, the pending bank becomes active. -/
  | sbBankSwitch (d : Fin 4)
  /-- SB_COLLAPSE_SETTLE (R356). After a collapse, once dispatched entries are done, the engine resets PTR and continues or holds. -/
  | sbCollapseSettle (d : Fin 4)
  /-- ENQUEUE_RESERVATION (R362). A queue receives a reservation and lists it, or refuses it back when the list is full. -/
  | enqueueReservation (g : Segment)
  /-- RESERVATION_GRANT (R362). The oldest reservation is granted once the ring has room. -/
  | reservationGrant (d : Fin 4) (q : Fin 64)
  /-- RESERVATION_RESEND (R362). A refused reservation is sent again after 10 µs. -/
  | reservationResend (d : Fin 4) (id : Fin 4096)
  /-- ENQUEUE_SEGMENT (R363). An ENQUEUE segment lands; a packet commits and becomes visible in grant order. -/
  | enqueueSegment (g : Segment)
  /-- COMMIT_TIMEOUT (R364). COMMIT_US passes after a grant without commit and the packet is rewound. -/
  | commitTimeout (d : Fin 4) (q : Fin 64)
  /-- QUEUE_READ (R365). A read of the read window takes the next visible word, or underruns. -/
  | queueRead (d : Fin 4) (q : Fin 64)
  /-- DROP_REST (R367). A write of DROP_REST discards the unread words of the open packet. -/
  | dropRest (d : Fin 4) (q : Fin 64)
  /-- QUEUE_CLEAR_HW (R370). A write of CLEAR_HW to Q_HIGH_WATER sets it to the current occupancy. -/
  | queueClearHw (d : Fin 4) (q : Fin 64)
  /-- TRAV_HEAD_WRITE (R374). Software advances TRAV_HEAD, submitting descriptors. -/
  | travHeadWrite (d : Fin 4) (head : Fin 256)
  /-- DISPATCH (R377). A DISPATCH descriptor starts, opens its batch and sends one packet per listed expert. -/
  | dispatch (d : Fin 4)
  /-- COMBINE (R384). A COMBINE descriptor starts for an open batch. -/
  | combine (d : Fin 4)
  /-- RETURN (R382). The engine reads a RETURN packet and writes accepted rows to RET_BUF. -/
  | returnRows (d : Fin 4) (q : Fin 64)
  /-- RETURN_TIMEOUT (R383). RETURN_US passes after a DISPATCH and the batch's returns are complete. -/
  | returnTimeout (d : Fin 4) (batch : Fin 65536)
  /-- COMBINE_COMPUTE (R384). Once returns are complete the COMBINE sums each token's rows and writes its status record. -/
  | combineCompute (d : Fin 4) (batch : Fin 65536)
  /-- HOST_ENUMERATE (R394). The host enumerates the function and sets Bus Master Enable, and BOUND becomes 1. -/
  | hostEnumerate (hdm : Fin 3073)
  /-- UNBIND_NOTICE (R395). A signed unbind notice sets BOUND to 0, disables rings and clears the snoop filter. -/
  | unbindNotice (msg : List Byte)
  /-- CXL_LINK_DOWN (R395). The CXL link goes down, BOUND falls and every VALID pooled range becomes LOST. -/
  | cxlLinkDown
  /-- ATTACH (R396). A write of ATTACH sets ATTACHED, drains spilled completions and starts fetching. -/
  | attach
  /-- DETACH (R394). A write of DETACH sets ATTACHED to 0. -/
  | detach
  /-- RING_CFG_WRITE (R397). A RING_CFG write enables or disables a ring, resetting FETCHED or POSTED, or is refused. -/
  | ringCfgWrite (r : Fin 64) (sqEn : Bool) (cqEn : Bool) (sqLog : Fin 32) (cqLog : Fin 32) (vector : Fin 64) (modUs : Fin 65536) (modCount : Fin 65536)
  /-- DOORBELL_INVALIDATE (R399). A host store invalidates a cached doorbell line and the Camp die rereads it. -/
  | doorbellInvalidate (r : Fin 65) (line : List Byte)
  /-- DOORBELL_POLL (R399). Every POLL_US the Camp die reads each enabled doorbell line. -/
  | doorbellPoll (r : Fin 65) (line : List Byte)
  /-- RING_FETCH (R400). The ring front fetches descriptors round-robin and assigns handles. -/
  | ringFetch (data : List Byte)
  /-- NOP (R403). Descriptor NOP completes DONE. -/
  | nopDesc (handle : BitVec 32)
  /-- COPY (R403). Descriptor COPY moves data by MOVE, GET or PUT. -/
  | copy (handle : BitVec 32)
  /-- DESC_ATOMIC (R403). Descriptor ATOMIC performs an atomic or NOTIFY. -/
  | descAtomic (handle : BitVec 32)
  /-- LAUNCH (R403). Descriptor LAUNCH starts named Spur cores, or completes NO_RESOURCE. -/
  | launch (handle : BitVec 32)
  /-- POSITION (R403). Descriptor POSITION writes a contour value to LOCAL_POS of the masked dies. -/
  | position (handle : BitVec 32)
  /-- DESC_STEP_READY (R403). Descriptor STEP_READY writes the step to STEP_READY of the masked dies. -/
  | descStepReady (handle : BitVec 32)
  /-- UPDATE (R403). Descriptor UPDATE requests a bucket's update. -/
  | update (handle : BitVec 32)
  /-- EXPORT (R403). Descriptor EXPORT performs an export with the descriptor's step tag. -/
  | exportDesc (handle : BitVec 32)
  /-- ORDER_RELEASE (R404). A descriptor with ORDER = 1 starts once every earlier descriptor of its ring has completed. -/
  | orderRelease (handle : BitVec 32)
  /-- COMPLETION_POST (R410). A completion is written to its ring with its PHASE, or placed in the spill area. -/
  | completionPost
  /-- SPILL_DRAIN (R410). A spilled completion is written to its ring once the ring has a free slot. -/
  | spillDrain (r : Fin 64)
  /-- SPILL_LOSS (R412). When the spill area next has room after drops, a KIND 3 completion reports the loss. -/
  | spillLoss
  /-- MSI_MOD_TIMEOUT (R414). MOD_US passes after the oldest unsignalled completion and the ring's vector is sent. -/
  | msiModTimeout (r : Fin 64)
  /-- HDM_ACCESS (R391). A host access through the HDM decoder reaches Talus memory, tracked by the snoop filter. -/
  | hdmAccess (line : Fin 12884901888) (kind : Fin 4) (data : List Byte) (pois : Bool)
  /-- BISNP_COMPLETE (R392). A back-invalidation completes and the held package access proceeds. -/
  | bisnpComplete (line : Fin 12884901888) (data : List Byte) (pois : Bool)
  /-- IDE_KM (R390). An IDE_KM message over DOE installs IDE keys while BOUND is 1. -/
  | ideKm (kind : Fin 3) (stream : Fin 256) (key : BitVec 256)
  /-- FUNCTION_RESET (R416). A CXL function-level reset detaches rings, empties the spill area and resets F fields. -/
  | functionReset
  /-- HANDLE_CLEAR_HW (R408). A write of CLEAR_HW to HANDLE_COUNT sets HIGH_WATER to IN_FLIGHT. -/
  | handleClearHw
  /-- SADDLE_FLIT (R421). A Saddle flit is received and decoded; a width mismatch or uncorrectable word starts a retraining. -/
  | saddleFlit (l : Fin 4) (e : Fin 2) (width : Fin 4) (sel : Fin 4) (data : List Byte) (errs : List SymErr) (dst : Option (BitVec 48))
  /-- SADDLE_TRAINING_DONE (R422). A Saddle training ends at the first setting both ends pass, lowering the ledger if narrower. -/
  | saddleTrainingDone (l : Fin 4) (failed : List (Fin 16))
  /-- COL_FLIT (R427). A Col flit is received, replayed on CRC failure, and the link retrains after 16 replays. -/
  | colFlit (d : Fin 4) (up : Bool) (offered : List (Fin 4 × List Byte)) (flips : List (Fin 512))
  /-- COL_RETRAIN_TIMEOUT (R427). A Col link fails to retrain within 10 µs, goes DOWN and its die is fenced. -/
  | colRetrainTimeout (d : Fin 4)
  /-- CLOCK_LOSS (R430). A die's array clock stops or drifts and the die is fenced with CAUSE 2. -/
  | clockLoss (d : Fin 4)
  /-- DIE_RESET (R435). A write of RESET to DIE_CMD fences the named running dies or clears a FATAL_DIE cause. -/
  | dieReset (dies : Fin 16)
  /-- REJOIN (R433). A write of REJOIN to DIE_CMD moves a HELD die to RESETTING. -/
  | rejoin (dies : Fin 16)
  /-- CLOCK_STABLE_EXPIRY (R433). The clock stays stable for CLOCK_STABLE_MS and a fenced die proceeds to RESETTING or HELD. -/
  | clockStableExpiry (d : Fin 4)
  /-- DIE_STARTUP_DONE (R433). A die's start-up completes and it enters RESTORING, with images restored and links trained. -/
  | dieStartupDone (d : Fin 4)
  /-- DIE_RESTORE_COMPLETE (R434). A die's restores complete and it becomes RUNNING, reporting STEP_STATE. -/
  | dieRestoreComplete (d : Fin 4) (refused : List (Fin 3))
  /-- FATAL_DIE (R430). An error of class fatal-die fences its die. -/
  | fatalDie (d : Fin 4)
  /-- MCTP_CONTROL (R429). The sideband answers an MCTP control message. -/
  | mctpControl (other : Bool) (code : Fin 256)
  /-- PLDM_MONITOR (R429). The sideband answers a PLDM monitoring request. -/
  | pldmMonitor
  /-- PLDM_FIRMWARE_UPDATE (R470). PLDM firmware update writes and verifies the inactive slot or the manifest. -/
  | pldmFirmwareUpdate (manifest : Bool) (complete : Bool) (ok : Bool) (campSvn : Fin 256) (crestSvn : Fin 256) (campDigest : Nat) (crestDigest : Nat) (campBuild : Fin 4294967296) (records : List ManifestRecord)
  /-- INPUT_SAMPLE (R437). Every 1 µs the Camp die compares the input voltage with its thresholds. -/
  | inputSample (mv : Fin 65536)
  /-- HOLD_EXPIRY (R438). The 10 ms HOLD ends and the sequence enters RAMP. -/
  | holdExpiry
  /-- RAMP_EXPIRY (R438). The 1 ms RAMP ends and the supply limit is lifted. -/
  | rampExpiry
  /-- CONVERTER (R442). A stage-1 converter leaves its limits and is isolated, limiting the profile or shutting down. -/
  | converter (k : Fin 8)
  /-- STAGE2_FAULT (R443). A stage-2 regulator fault is fatal to its Crest die or to the package. -/
  | stage2Fault (unit : Fin 17)
  /-- TELEMETRY_TICK (R454). Every 1 ms the power telemetry updates and power cap pacing applies or releases. -/
  | telemetryTick (watts : Fin 65536) (amps : Fin 65536)
  /-- SENSOR_READ (R453). Every 100 µs the junction sensors are read (sixteen of each Crest die, four of the Camp die, that of each
  stage-1 converter), driving thermal pacing and sensor exclusion. -/
  | sensorRead (temps : List (Fin 256))
  /-- PACING_RELEASE (R445). A pacing cause's release condition holds for 10 ms and the die's duty rises. -/
  | pacingRelease (d : Fin 4)
  /-- THERMAL_FORCED (R450). A junction above 100 °C for 1 s forces Plateau and writes a record. -/
  | thermalForced
  /-- THERMAL_FORCE_CLEAR (R451). Every junction below 95 °C for 1 s clears FORCED. -/
  | thermalForceClear
  /-- CLUSTER_RESUME (R448). A cluster returned to service issues again after 20 µs. -/
  | clusterResume (d : Fin 4) (c : Fin 8)
  /-- POWER_ON_RESET (R455). Input in range for 10 ms with SYS_REFCLK present starts power-on reset and boot. -/
  | powerOnReset (b : BootInputs)
  /-- PERST_ASSERT (R526). PERST# low for 1 µs or more is a package reset. -/
  | perstAssert
  /-- PERST_RELEASE (R526). PERST# goes high and a held reset completes. -/
  | perstRelease (b : BootInputs)
  /-- CXL_CONVENTIONAL_RESET (R455). A CXL Hot Reset or Secondary Bus Reset is a package reset. -/
  | cxlConventionalReset (b : BootInputs)
  /-- SYS_REFCLK_LOSS (R523). SYS_REFCLK shows no edge for 10 µs: fatal-package, Crest issue stops and FAULT# asserts. -/
  | sysRefclkLoss
  /-- RDG_REFCLK_LOSS (R524). Loss of RDG_REFCLK sends every Ridge port into RETRAIN. -/
  | rdgRefclkLoss
  /-- CXL_REFCLK_LOSS (R524). Loss of CXL_REFCLK takes the CXL link down. -/
  | cxlRefclkLoss
  /-- BIVOUAC (R458). A write of BIVOUAC starts entry into Bivouac, or is refused. -/
  | bivouac
  /-- BIVOUAC_ENTRY_DONE (R458). Once pipes and trackers are idle, stacks self-refresh, links idle and clocks gate. -/
  | bivouacEntryDone
  /-- WAKE (R460). A write of WAKE, or a wake event, starts exit from Bivouac or resume from Refuge. -/
  | wake
  /-- BIVOUAC_EXIT_DONE (R460). Bivouac exit completes, contour values restored and head words released. -/
  | bivouacExitDone (refused : List (Fin 12))
  /-- REFUGE (R461). A write of REFUGE starts entry into Refuge, or is refused. -/
  | refuge
  /-- REFUGE_ENTRY_DONE (R461). After drain and LEAVE, the retention image is saved and the Crest dies powered off. -/
  | refugeEntryDone
  /-- REFUGE_RESUME_DONE (R463). Resume restores the retention image and calibration and the package is RUNNING as ALONE. -/
  | refugeResumeDone (refused : List (Fin 12)) (shells : List (Fin 9 × Fin 64))
  /-- SIGN_REQUEST (R472). A signature request reserves NEXT_INDEX by appending to the one-time index log. -/
  | signRequest
  /-- INDEX_RESERVED (R472). The index log program completes and the signature is computed with the reserved index. -/
  | indexReserved
  /-- TREE_BUILD_DONE (R473). The background build of the next level-2 tree stores its levels and clears BUILDING. -/
  | treeBuildDone
  /-- OPERATOR_KEY_SET (R476). Sideband command replacing the operator key record. -/
  | operatorKeySet (enrolLow : Bool) (msg : List Byte)
  /-- POLICY_SET (R481). Sideband command replacing the admission policy record. -/
  | policySet (msg : List Byte)
  /-- MASSIF_PLAN_SET (R477). Sideband command replacing the massif plan record for the next package reset. -/
  | massifPlanSet (msg : List Byte)
  /-- PARTITION (R245). Sideband command carrying a job assignment, forwarded to the summit. -/
  | partition (msg : List Byte)
  /-- PACKAGE_RESET (R455). Sideband command performing a package reset. -/
  | packageReset (msg : List Byte) (b : BootInputs)
  /-- STATE_WAKE (R477). Sideband command acting as a write of WAKE. -/
  | stateWake (msg : List Byte)
  /-- ATTEST (R480). An attestation request over DOE or MCTP returns a signed report. -/
  | attest (mctp : Bool) (msg : List Byte)
  /-- INSTALL_TX (R484). A write of INSTALL_TX installs the staged send key and salt, or is refused for the active slot. -/
  | installTx (p : Fin 16) (slot : Fin 2)
  /-- INSTALL_RX (R484). A write of INSTALL_RX installs the staged receive key and salt. -/
  | installRx (p : Fin 16) (slot : Fin 2)
  /-- REQUEST (R491). A write of REQUEST to ST_CMD, or the schedule, sends TEST_REQ for a target. -/
  | request (t : Fin 65536)
  /-- SELFTEST_SCHEDULE_TICK (R491). Each PERIOD_H the Camp die requests the next scheduled target. -/
  | selftestScheduleTick
  /-- TEST_REQ (R490). The summit grants or refuses a self-test request. -/
  | testReq (device : Fin 10240) (target : Fin 65536) (peer : Fin 16384) (blocked : Bool)
  /-- TEST_GRANT (R491). A grant arrives and the Camp die arms a SELFTEST entry at its threshold. -/
  | testGrant (device : Fin 10240) (target : Fin 65536) (refused : Option (Fin 4)) (threshold : Nat)
  /-- TEST_REQ_RETRY (R491). A refused request is sent again after 1 s. -/
  | testReqRetry
  /-- TEST_HOLD (R488). A peer receives TEST_HOLD, drains its port end and suspends its RETRAIN_US timer. -/
  | testHold (p : Fin 16) (target : Fin 65536)
  /-- SELFTEST_DRAIN_DONE (R488). The target has drained, its image is saved and the test runs. -/
  | selftestDrainDone
  /-- SELFTEST_TEST_DONE (R489). A test ends, the image is restored, limits are applied and a SELFTEST record is written. -/
  | selftestTestDone (readings : List TestReading) (refused : Bool)
  /-- TEST_DONE (R491). The summit or peer receives TEST_DONE and the slot ends. -/
  | testDone (device : Fin 10240) (target : Fin 65536)
  /-- SELFTEST_SLOT_EXPIRY (R491). SLOT_MS passes after the grant's threshold and the slot ends. -/
  | selftestSlotExpiry (device : Fin 10240)
  /-- ERROR_RECORD (R496). An error record is written to the error ring or held, and may signal its vector. -/
  | errorRecord
  /-- RECORD_WINDOW_EXPIRY (R497). A coalescing window closes and one record with the count is written. -/
  | recordWindowExpiry (n : Fin 256)
  /-- HOLD_DRAIN (R498). A held record is written to the ring once it is attached and has a free slot. -/
  | holdDrain
  /-- HOLD_OVERFLOW (R498). When the holding buffer has room after drops, a HOLD_OVERFLOW record is placed. -/
  | holdOverflow
  /-- EXTEST (R529). Loading EXTEST holds the package in package reset. -/
  | extest
  /-- EXTEST_PULSE (R529). Loading EXTEST_PULSE holds the package in package reset. -/
  | extestPulse
  /-- EXTEST_TRAIN (R529). Loading EXTEST_TRAIN holds the package in package reset. -/
  | extestTrain
  /-- SAMPLE_PRELOAD (R527). TAP instruction SAMPLE/PRELOAD selects the boundary scan register. -/
  | samplePreload (b : BootInputs)
  /-- IDCODE (R527). TAP instruction IDCODE selects the identification register. -/
  | idcode (b : BootInputs)
  /-- BYPASS (R527). TAP instruction BYPASS, or any other code, selects the bypass register. -/
  | bypass (code : Fin 256) (b : BootInputs)
  /-- TRST (R529). TRST# going low resets the test logic and ends a held EXTEST reset. -/
  | trst (b : BootInputs)
  /-- RESUME_REQUEST (R346). The summit receives a member's resume request and, in COLLAPSED with HALT set and the RESTORED and BWD_DONE conditions met, publishes RESUME and clears HALT. -/
  | resumeRequest (job : Fin 65536)
  /-- HOST_REQUEST_COMPLETION (R394). A host-directed CXL request ends, successfully or with Unsupported Request, Completer Abort or completion timeout; four consecutive failures drop BOUND, and a failed descriptor read sends its ring to ERROR. -/
  | hostRequestCompletion (ring : Option (Fin 64)) (d : Fin 4) (id : Fin 4096) (result : Fin 4) (data : List Byte) (marks : List Bool)
  /-- COL_LINK_TRAINED (R433). The Col link of a die fenced with COL_DOWN trains, clearing the fence cause so that the die can go to RESETTING or HELD. -/
  | colLinkTrained (d : Fin 4)
  /-- SPUR_LOAD_STORE (R494). A Spur core load or store reaches a package address (memory, mailbox, flag trigger or contour window), and a load of a poisoned word raises a load access fault. -/
  | spurLoadStore (d : Fin 4) (g : Fin 96) (store : Bool) (size : Fin 4) (sign : Bool) (rd : Fin 32) (addr : BitVec 48) (value : Word)
  /-- SPUR_CSR_WRITE (R213). A Spur core CSR write sets SRSTEP or SRBLOCK, or clears TFLAGS or REMOTE_FAIL bits as W1C. -/
  | spurCsrWrite (d : Fin 4) (g : Fin 96) (csr : Fin 4) (value : Word)
  /-- CXL_LINK_UP (R387). The CXL link trains and comes up at the best width and rate that both ends support, making the host and the pooled tier reachable again. -/
  | cxlLinkUp (width : Fin 4) (rate : Fin 4)
  /-- SIGN_RATE_RELEASE (R472). When the SIGN_RATE budget allows again, the oldest signature request that waited for the rate limit reserves its index. -/
  | signRateRelease
  deriving DecidableEq, Repr

end Sys2Proof
end

