-- ==== Sys2Proof/Config.lean ====
section
/-!
DEFINITION. What the spec leaves open as a value: the free values. Each is a constant with no body, applied to a counter
of the state, so a statement about it holds for every value it could have.
-/
namespace Sys2Proof

/-- Config.freeValue n: the n-th value that the spec leaves open and the machine goes on with (assumption 3). -/
opaque Config.freeValue : Nat → BitVec 64

/-- The KIND code and the VERSION of each shell kind in a calibration image header (Table 1.10), by the row of Table 1.9: the spec
gives neither (assumption 49). -/
opaque Config.shellKind : Nat → BitVec 16
opaque Config.shellVersion : Nat → BitVec 16

/-- The calibration that training number n of a shell finds, from its default start point or from its last calibration (R43: the
body's format belongs to the shell kind). Nothing is assumed of it. -/
opaque Config.calibrationBody : Nat → Nat → Bool → List (BitVec 8)

/-- The sixteen check bits of a 64-bit word in the (80,64) code of R164 and R418: the spec gives no check matrix. -/
opaque Config.checkBits : BitVec 64 → BitVec 16

/-- What the identity private seed, which never leaves the Camp die (R467), makes of each LMS tree of the identity key (level 1 or 2, tree
number): its identifier, its nodes by their number (node 1 is the root), and of each leaf the private chain starts and the randomizer. The
spec gives no way from the seed to them. -/
opaque Config.lmsId : BitVec 256 → Nat → Nat → BitVec 128
opaque Config.lmsNode : BitVec 256 → Nat → Nat → Nat → BitVec 256
opaque Config.otsSecret : BitVec 256 → Nat → Nat → Nat → Nat → BitVec 256
opaque Config.otsRandom : BitVec 256 → Nat → Nat → Nat → BitVec 256

/-- The ROM version and the fuse image, which are measured (Table 19.6), by the serial number and SVN_FUSE that the fuses hold. -/
opaque Config.romFuses : Nat → Nat → List (BitVec 8)

end Sys2Proof
end

