-- ==== Sys2Proof/Machine/Numerics.lean ====
section
/-!
DEFINITION. Number formats, exact values, rounding and numeric flags (chapter 03): R86 to R101, R103, R105 to R107.
Operands decode exactly; a result is formed exactly (with a sticky mark where it is irrational) and rounded once.
-/
namespace Sys2Proof.Machine

/-! ### Flags: bit order of Table 3.8 -/

/-- OF, a finite result overflowed. -/
def flagOF : Nat := 1
/-- UF, R96. -/
def flagUF : Nat := 2
/-- NX, a rounded or saturated result differs from the exact value. -/
def flagNX : Nat := 4
/-- NV, a NaN from operands that were not NaN, or where a rule names NV. -/
def flagNV : Nat := 8
/-- IS, an integer result was clamped. -/
def flagIS : Nat := 16

/-- The decoded internal form (R90): a class, a sign, and for finite values the magnitude m × 2^e. -/
inductive Num where
  | nan
  | inf (neg : Bool)
  | fin (neg : Bool) (m : Nat) (e : Int)
  deriving DecidableEq, Repr

/-- An exact finite value before rounding: (−1)^neg × m × 2^e, or strictly between m and m + 1 units where sticky. -/
structure Exact where
  neg : Bool
  m : Nat
  e : Int
  sticky : Bool
  deriving DecidableEq, Repr

/-- How a format uses its largest exponent codes: IEEE (infinities and NaNs), E4M3 (NaN at all ones only), or neither. -/
inductive FmtClass where
  | ieee | e4m3 | finite
  deriving DecidableEq, Repr

/-- A floating format: exponent bits, mantissa bits, bias, class, canonical NaN (Table 3.1). -/
structure Fmt where
  eb : Nat
  mb : Nat
  bias : Nat
  cls : FmtClass
  nan : Nat
  deriving DecidableEq, Repr

def fp64 : Fmt := ⟨11, 52, 1023, .ieee, 0x7FF8000000000000⟩
def fp32 : Fmt := ⟨8, 23, 127, .ieee, 0x7FC00000⟩
def fp16 : Fmt := ⟨5, 10, 15, .ieee, 0x7E00⟩
def bf16 : Fmt := ⟨8, 7, 127, .ieee, 0x7FC0⟩
def e4m3 : Fmt := ⟨4, 3, 7, .e4m3, 0x7F⟩
def e5m2 : Fmt := ⟨5, 2, 15, .ieee, 0x7E⟩
def e3m2 : Fmt := ⟨3, 2, 3, .finite, 0⟩
def e2m3 : Fmt := ⟨2, 3, 1, .finite, 0⟩
def e2m1 : Fmt := ⟨2, 1, 1, .finite, 0⟩

/-- Width of an element in bits. -/
def Fmt.width (f : Fmt) : Nat := f.eb + f.mb + 1

/-- Exponent of one unit of the subnormal spacing. -/
def Fmt.emin (f : Fmt) : Int := 1 - (f.bias : Int) - (f.mb : Int)

/-- Encoding of the largest finite magnitude. -/
def Fmt.maxBits (f : Fmt) : Nat :=
  match f.cls with
  | .ieee => (2 ^ f.eb - 1) * 2 ^ f.mb - 1
  | .e4m3 => 2 ^ (f.eb + f.mb) - 2
  | .finite => 2 ^ (f.eb + f.mb) - 1

/-- Sign bit of an encoding. -/
def Fmt.signBits (f : Fmt) (neg : Bool) : Nat := if neg then 2 ^ (f.eb + f.mb) else 0

/-- Decoding of an element, exact for every format (R86, R90). -/
def Fmt.decode (f : Fmt) (x : Nat) : Num :=
  let neg := x.testBit (f.eb + f.mb)
  let ex := (x >>> f.mb) % 2 ^ f.eb
  let mant := x % 2 ^ f.mb
  let fin : Num :=
    if ex = 0 then .fin neg mant f.emin else .fin neg (mant + 2 ^ f.mb) (f.emin + (ex : Int) - 1)
  match f.cls with
  | .ieee => if ex = 2 ^ f.eb - 1 then (if mant = 0 then .inf neg else .nan) else fin
  | .e4m3 => if ex = 2 ^ f.eb - 1 ∧ mant = 2 ^ f.mb - 1 then .nan else fin
  | .finite => fin

/-- How a rounding step chooses between the neighbours: nearest-even, stochastic with the 16-bit number of R101, or
toward +∞ (R106, magnitudes only). -/
inductive RoundMode where
  | ne
  | sr (r : Nat)
  | up
  deriving DecidableEq, Repr

/-- Floor of log2 of the magnitude m × 2^e, m above 0. -/
def topExp (m : Nat) (e : Int) : Int := (m.log2 : Int) + e

/-- The magnitude rounded to a multiple of 2^q: the count of units and whether anything was lost. -/
def roundUnits (mode : RoundMode) (m : Nat) (e q : Int) (sticky : Bool) : Nat × Bool :=
  if q ≤ e then
    (m * 2 ^ (e - q).toNat + (if sticky && decide (mode = .up) then 1 else 0), sticky)
  else
    let sh := (q - e).toNat
    let n := m >>> sh
    let rem := m % 2 ^ sh
    let half := 2 ^ (sh - 1)
    let lost := decide (rem ≠ 0) || sticky
    let up : Bool :=
      match mode with
      | .ne => decide (half < rem) || (decide (rem = half) && (sticky || n % 2 == 1))
      | .sr r => decide (r < (rem * 65536) >>> sh)
      | .up => lost
    (if up then n + 1 else n, lost)

/-- Encoding of n units of 2^q, where q is the spacing of that binade in the format. -/
def Fmt.encodeUnits (f : Fmt) (n : Nat) (q : Int) : Nat :=
  if n < 2 ^ f.mb then n else (q - f.emin).toNat * 2 ^ f.mb + n

/-- One rounding step: the magnitude's encoding (possibly beyond maxBits) and the flags UF and NX of R96. -/
def Fmt.roundMag (f : Fmt) (mode : RoundMode) (x : Exact) : Nat × Nat :=
  if x.m = 0 ∧ x.sticky = false then (0, 0)
  else
    let top := if x.m = 0 then x.e else topExp x.m x.e
    let q0 := top - (f.mb : Int)
    let q := if q0 < f.emin then f.emin else q0
    let (n, lost) := roundUnits mode x.m x.e q x.sticky
    let n0 := (roundUnits .ne x.m x.e q0 x.sticky).1
    -- below the smallest normal after nearest-even rounding with an unbounded exponent
    let tiny : Bool :=
      decide (q0 < f.emin) && decide ((n0 : Int) < 2 ^ (f.mb + (f.emin - q0).toNat))
    let fl := if lost then flagNX ||| (if tiny then flagUF else 0) else 0
    (f.encodeUnits n q, fl)

/-- Overflow result of a format (Table 3.4): infinity, or the largest finite magnitude, with OF and NX. -/
def Fmt.overflow (f : Fmt) (neg : Bool) : Nat × Nat :=
  match f.cls with
  | .ieee => (f.signBits neg + f.maxBits + 1, flagOF ||| flagNX)
  | .e4m3 => (f.signBits neg + f.maxBits, flagOF ||| flagNX)
  | .finite => (f.signBits neg + f.maxBits, flagNX)

/-- An exact finite value rounded once into a format, with its flags (R92, R96, R97). -/
def Fmt.round (f : Fmt) (mode : RoundMode) (x : Exact) : Nat × Nat :=
  let (b, fl) := f.roundMag mode x
  if f.maxBits < b then f.overflow x.neg else (f.signBits x.neg + b, fl)

/-- The encoding of an infinity; E4M3 has none and converts it to NaN with NV (Table 3.4). -/
def Fmt.infinity (f : Fmt) (neg : Bool) : Nat × Nat :=
  match f.cls with
  | .ieee => (f.signBits neg + f.maxBits + 1, 0)
  | .e4m3 => (f.nan, flagNV)
  | .finite => (f.signBits neg + f.maxBits, flagNV)

/-- A decoded value as an exact finite value. -/
def Exact.ofFin (neg : Bool) (m : Nat) (e : Int) : Exact := ⟨neg, m, e, false⟩

/-- A decoded value converted to a format (R97, Table 3.4). -/
def Fmt.convert (f : Fmt) (mode : RoundMode) : Num → Nat × Nat
  | .nan => (f.nan, 0)
  | .inf neg => f.infinity neg
  | .fin neg m e => f.round mode (Exact.ofFin neg m e)

/-- A decoded value encoded where it is exactly representable or rounds to nearest-even, flags dropped. -/
def Fmt.encodeNe (f : Fmt) (x : Num) : Nat := (f.convert .ne x).1

/-! ### Exact arithmetic on decoded values (Table 3.3) -/

/-- The exact sum of two finite values; an exact zero sum of nonzero operands is +0, and −0 only from −0 and −0. -/
def addFin (na : Bool) (ma : Nat) (ea : Int) (nb : Bool) (mb : Nat) (eb : Int) : Num :=
  let e := min ea eb
  let a : Int := (if na then -1 else 1) * ((ma * 2 ^ (ea - e).toNat : Nat) : Int)
  let b : Int := (if nb then -1 else 1) * ((mb * 2 ^ (eb - e).toNat : Nat) : Int)
  let s := a + b
  if s = 0 then .fin (na && nb && ma == 0 && mb == 0) 0 e
  else .fin (decide (s < 0)) s.natAbs e

/-- Exact addition with NaN and infinity rules; the Nat is the flags. -/
def numAdd : Num → Num → Num × Nat
  | .nan, _ => (.nan, 0)
  | _, .nan => (.nan, 0)
  | .inf a, .inf b => if a = b then (.inf a, 0) else (.nan, flagNV)
  | .inf a, .fin _ _ _ => (.inf a, 0)
  | .fin _ _ _, .inf b => (.inf b, 0)
  | .fin na ma ea, .fin nb mb eb => (addFin na ma ea nb mb eb, 0)

/-- Negation; a NaN stays a NaN. -/
def numNeg : Num → Num
  | .nan => .nan
  | .inf a => .inf (!a)
  | .fin n m e => .fin (!n) m e

/-- Exact multiplication (R92): the sign is the exclusive OR, also for zero products. -/
def numMul : Num → Num → Num × Nat
  | .nan, _ => (.nan, 0)
  | _, .nan => (.nan, 0)
  | .inf a, .inf b => (.inf (a != b), 0)
  | .inf a, .fin nb mb _ => if mb = 0 then (.nan, flagNV) else (.inf (a != nb), 0)
  | .fin na ma _, .inf b => if ma = 0 then (.nan, flagNV) else (.inf (na != b), 0)
  | .fin na ma ea, .fin nb mb eb => (.fin (na != nb) (ma * mb) (ea + eb), 0)

/-- Scaling by a power of two, exact. -/
def numScale (k : Int) : Num → Num
  | .fin n m e => .fin n m (e + k)
  | x => x

/-- Whether a value is a NaN. -/
def Num.isNan : Num → Bool
  | .nan => true
  | _ => false

/-- Whether a value is finite. -/
def Num.isFin : Num → Bool
  | .fin _ _ _ => true
  | _ => false

/-- Whether a finite value is zero. -/
def Num.isZero : Num → Bool
  | .fin _ m _ => m == 0
  | _ => false

/-- Comparison of two magnitudes m × 2^e. -/
def magLe (ma : Nat) (ea : Int) (mb : Nat) (eb : Int) : Bool :=
  let e := min ea eb
  decide (ma * 2 ^ (ea - e).toNat ≤ mb * 2 ^ (eb - e).toNat)

/-- a ≤ b for values that are not NaN, −0 equal to +0. -/
def numLe : Num → Num → Bool
  | .nan, _ => false
  | _, .nan => false
  | .inf true, _ => true
  | _, .inf false => true
  | .inf false, _ => false
  | _, .inf true => false
  | .fin na ma ea, .fin nb mb eb =>
    if ma = 0 ∧ mb = 0 then true
    else if ma = 0 then !nb
    else if mb = 0 then na
    else match na, nb with
      | true, false => true
      | false, true => false
      | false, false => magLe ma ea mb eb
      | true, true => magLe mb eb ma ea

/-- The total order of R143 on values that are not NaN: −0 below +0. -/
def numLeSigned (a b : Num) : Bool :=
  if a.isZero && b.isZero then
    match a, b with
    | .fin na _ _, .fin nb _ _ => na || !nb
    | _, _ => true
  else numLe a b

/-- An operation's exact result rounded into a format; the flags of both parts together. -/
def Fmt.finish (f : Fmt) (r : Num × Nat) : Nat × Nat :=
  let c := f.convert .ne r.1
  (c.1, c.2 ||| r.2)

/-- Sum of two encodings, one rounding to nearest-even (rne32 for FP32). -/
def Fmt.add (f : Fmt) (a b : Nat) : Nat × Nat := f.finish (numAdd (f.decode a) (f.decode b))

/-- Difference of two encodings, one rounding. -/
def Fmt.sub (f : Fmt) (a b : Nat) : Nat × Nat := f.finish (numAdd (f.decode a) (numNeg (f.decode b)))

/-- Product of two encodings, one rounding. -/
def Fmt.mul (f : Fmt) (a b : Nat) : Nat × Nat := f.finish (numMul (f.decode a) (f.decode b))

/-- a × b + c with one rounding; any NaN operand gives NaN and no flag (Table 3.3). -/
def Fmt.fma (f : Fmt) (a b c : Num) : Nat × Nat :=
  if a.isNan || b.isNan || c.isNan then (f.nan, 0)
  else
    let p := numMul a b
    let s := numAdd p.1 c
    f.finish (s.1, s.2 ||| p.2)

/-! ### Irrational and quotient results -/

/-- Exact quotient of two finite nonzero magnitudes, to 128 bits beyond the operands, with a sticky mark. -/
def quotient (neg : Bool) (ma : Nat) (ea : Int) (mb : Nat) (eb : Int) : Exact :=
  let k := 128 + mb.log2
  let n := ma * 2 ^ k
  ⟨neg, n / mb, ea - eb - (k : Int), decide (n % mb ≠ 0)⟩

/-- Exact division with IEEE 754 rules for zeros and infinities; the Nat is the flags. -/
def numDiv : Num → Num → (Num ⊕ Exact) × Nat
  | .nan, _ => (.inl .nan, 0)
  | _, .nan => (.inl .nan, 0)
  | .inf _, .inf _ => (.inl .nan, flagNV)
  | .inf a, .fin nb _ _ => (.inl (.inf (a != nb)), 0)
  | .fin na _ _, .inf b => (.inl (.fin (na != b) 0 0), 0)
  | .fin na ma ea, .fin nb mb eb =>
    if mb = 0 then (if ma = 0 then (.inl .nan, flagNV) else (.inl (.inf (na != nb)), 0))
    else if ma = 0 then (.inl (.fin (na != nb) 0 0), 0)
    else (.inr (quotient (na != nb) ma ea mb eb), 0)

/-- A result that is a decoded value or an exact value, rounded into a format. -/
def Fmt.finish2 (f : Fmt) (mode : RoundMode) (r : (Num ⊕ Exact) × Nat) : Nat × Nat :=
  let c := match r.1 with
    | .inl x => f.convert mode x
    | .inr x => f.round mode x
  (c.1, c.2 ||| r.2)

/-- Quotient of two encodings, one rounding. -/
def Fmt.div (f : Fmt) (a b : Nat) : Nat × Nat := f.finish2 .ne (numDiv (f.decode a) (f.decode b))

/-- Square root of a finite magnitude to 128 bits beyond the operand, with a sticky mark. -/
def sqrtExact (m : Nat) (e : Int) : Exact :=
  let odd := e % 2 = 1
  let m1 := if odd then m * 2 else m
  let e1 := if odd then e - 1 else e
  let n := m1 * 2 ^ 256
  let s := isqrt n
  ⟨false, s, e1 / 2 - 128, decide (s * s ≠ n)⟩

/-- Square root with the special cases of IEEE 754. -/
def numSqrt : Num → (Num ⊕ Exact) × Nat
  | .nan => (.inl .nan, 0)
  | .inf false => (.inl (.inf false), 0)
  | .inf true => (.inl .nan, flagNV)
  | .fin n m e =>
    if m = 0 then (.inl (.fin n 0 e), 0)
    else if n then (.inl .nan, flagNV)
    else (.inr (sqrtExact m e), 0)

/-- VRCP by Table 5.6. -/
def numRcp : Num → (Num ⊕ Exact) × Nat
  | .nan => (.inl .nan, 0)
  | .inf n => (.inl (.fin n 0 0), 0)
  | .fin n m e => if m = 0 then (.inl (.inf n), 0) else (.inr (quotient n 1 0 m e), 0)

/-- VRSQRT by Table 5.6. -/
def numRsqrt : Num → (Num ⊕ Exact) × Nat
  | .nan => (.inl .nan, 0)
  | .inf false => (.inl (.fin false 0 0), 0)
  | .inf true => (.inl .nan, flagNV)
  | .fin n m e =>
    if m = 0 then (.inl (.inf n), 0)
    else if n then (.inl .nan, flagNV)
    else
      let odd := e % 2 = 1
      let m1 := if odd then m * 2 else m
      let e1 := if odd then e - 1 else e
      let k := 128 + m1.log2
      let s := isqrt (2 ^ (2 * k) / m1)
      (.inr ⟨false, s, -(e1 / 2) - (k : Int), decide (s * s * m1 ≠ 2 ^ (2 * k))⟩, 0)

/-- Product, in 192-bit fixed point, of 2^(2^−i) over the set bits of a fraction, from its highest bit down; `root` is
2^(2^−i) for the current bit. -/
def exp2Go (frac : Nat) : Nat → Nat → Nat → Nat
  | 0, _, acc => acc
  | k + 1, root, acc =>
    let acc' := if frac.testBit k then (acc * root) >>> 192 else acc
    exp2Go frac k (isqrt (root * 2 ^ 192)) acc'

/-- 2^a of a finite nonzero value (R144), exact for an integer, else to 160 bits of its fraction with a sticky mark. -/
def exp2Exact (neg : Bool) (m : Nat) (e : Int) : Exact :=
  let v : Int := (if neg then -1 else 1) * ((m : Nat) : Int)
  -- a scaled by 2^160, rounded down
  let sc : Int := e + 160
  let fx : Int := if 0 ≤ sc then v * 2 ^ sc.toNat else v / 2 ^ (-sc).toNat
  let whole := fx / 2 ^ 160
  let frac := (fx % 2 ^ 160).toNat
  if frac = 0 ∧ (0 ≤ sc ∨ v % 2 ^ (-sc).toNat = 0) then ⟨false, 1, whole, false⟩
  else ⟨false, exp2Go frac 160 (isqrt (2 * 2 ^ 384)) (2 ^ 192), whole - 192, true⟩

/-- VEXP2 by Table 5.6. An exponent beyond ±2^20 gives the overflow or underflow of any format here. -/
def numExp2 : Num → (Num ⊕ Exact) × Nat
  | .nan => (.inl .nan, 0)
  | .inf false => (.inl (.inf false), 0)
  | .inf true => (.inl (.fin false 0 0), 0)
  | .fin n m e =>
    if m = 0 then (.inl (.fin false 1 0), 0)
    else if 20 ≤ topExp m e then
      (.inr (if n then ⟨false, 1, -1048576, true⟩ else ⟨false, 1, 1048576, true⟩), 0)
    else (.inr (exp2Exact n m e), 0)

/-- Bits of log2 of y, 1 ≤ y < 2 in 256-bit fixed point, by repeated squaring. -/
def log2Go : Nat → Nat → Nat → Nat
  | 0, _, acc => acc
  | k + 1, y, acc =>
    let z := (y * y) >>> 256
    if 2 ^ 257 ≤ z then log2Go k (z / 2) (2 * acc + 1) else log2Go k z (2 * acc)

/-- VLOG2 by Table 5.6: exact for a power of two, else to 160 bits with a sticky mark. -/
def numLog2 : Num → (Num ⊕ Exact) × Nat
  | .nan => (.inl .nan, 0)
  | .inf false => (.inl (.inf false), 0)
  | .inf true => (.inl .nan, flagNV)
  | .fin n m e =>
    if m = 0 then (.inl (.inf true), 0)
    else if n then (.inl .nan, flagNV)
    else
      let k := m.log2
      let w : Int := (k : Int) + e
      if m = 2 ^ k then (.inl (.fin (decide (w < 0)) w.natAbs 0), 0)
      else
        let tot : Int := w * 2 ^ 160 + ((log2Go 160 (m * 2 ^ (256 - k)) 0 : Nat) : Int)
        if tot < 0 then (.inr ⟨true, (-tot - 1).toNat, -160, true⟩, 0)
        else (.inr ⟨false, tot.toNat, -160, true⟩, 0)

/-! ### Integers -/

/-- An exact value rounded to an integer (R97, R100): magnitude and whether a fraction was lost. -/
def roundInt (mode : RoundMode) (m : Nat) (e : Int) (sticky : Bool) : Nat × Bool :=
  roundUnits mode m e 0 sticky

/-- An integer narrowed to w bits: clamped with IS where sat, else wrapped (R94, Table 3.4). -/
def narrowInt (w : Nat) (sat : Bool) (x : Int) : Nat × Nat :=
  let hi : Int := 2 ^ (w - 1) - 1
  let lo : Int := -(2 ^ (w - 1))
  if sat then
    (if hi < x then (unsigned w hi, flagIS) else if x < lo then (unsigned w lo, flagIS) else (unsigned w x, 0))
  else (unsigned w x, 0)

/-- A floating value converted to a w-bit integer (Table 3.4, last row). NX is set when a fraction is lost (R97); a
clamp sets IS alone, as the table's own row and Table 3.5 give. -/
def floatToInt (w : Nat) (sat : Bool) (mode : RoundMode) : Num → Nat × Nat
  | .nan => (0, flagNV)
  | .inf neg => (if neg then unsigned w (-(2 ^ (w - 1))) else 2 ^ (w - 1) - 1, flagNV ||| flagIS)
  | .fin neg m e =>
    let (n, lost) := roundInt mode m e false
    let v : Int := if neg then -(n : Int) else (n : Int)
    let (r, fl) := narrowInt w sat v
    (r, fl ||| (if lost then flagNX else 0))

/-- An integer as a decoded value; integer zero is +0 (R90). -/
def intNum (x : Int) : Num := .fin (decide (x < 0)) x.natAbs 0

/-- INT32 addition: clamped with IS where sat, else modulo 2^32 (R94, R119). -/
def addInt32 (sat : Bool) (a b : Nat) : Nat × Nat := narrowInt 32 sat (signed 32 a + signed 32 b)

/-! ### The random numbers of stochastic rounding -/

/-- The mixing function of R101. -/
def mix (z0 : Nat) : Nat :=
  let z := (((z0 ^^^ (z0 >>> 31)) * 0x9E6C63D0676A9A99) % 2 ^ 64)
  let y := (((z ^^^ (z >>> 27)) * 0xD6E8FEB86659FD93) % 2 ^ 64)
  y ^^^ (y >>> 33)

/-- The 16-bit random number of a key (R101). -/
def randomR (job step block element : Nat) : Nat :=
  mix (mix ((job <<< 40) ||| step) ^^^ ((block <<< 32) ||| element)) % 65536

/-! ### Element formats by code (Table 2.2, R87, R88) -/

/-- Element width in bits of a format code; the pairs and INT32 count one word. -/
def codeWidth (c : Nat) : Nat :=
  [32, 16, 16, 8, 8, 8, 8, 6, 6, 4, 8, 8, 4, 16, 16, 32].getD c 32

/-- Whether a code is an MX format, with block scales. -/
def codeMx (c : Nat) : Bool := decide (5 ≤ c ∧ c ≤ 10)

/-- Whether a code is INT8 or INT4. -/
def codeInt (c : Nat) : Bool := decide (c = 11 ∨ c = 12)

/-- Whether a code is a pair format. -/
def codePair (c : Nat) : Bool := decide (c = 13 ∨ c = 14)

/-- The K-step of a code (Table 2.1). -/
def codeKstep (c : Nat) : Nat :=
  [2, 8, 8, 16, 16, 16, 16, 16, 16, 32, 16, 16, 32, 8, 8, 2].getD c 2

/-- The floating format of a code's elements, where it has one. -/
def codeFmt (c : Nat) : Fmt :=
  match c with
  | 0 => fp32 | 1 => fp16 | 2 => bf16 | 3 => e4m3 | 4 => e5m2 | 5 => e4m3 | 6 => e5m2
  | 7 => e3m2 | 8 => e2m3 | 9 => e2m1 | 13 => bf16 | 14 => fp16 | _ => fp32

/-- An element of a code decoded (R87, R90), before any block scale. -/
def codeDecode (c x : Nat) : Num :=
  if c = 10 then numScale (-6) (intNum (signed 8 x))
  else if c = 11 then intNum (signed 8 x)
  else if c = 12 then intNum (signed 4 x)
  else if c = 15 then intNum (signed 32 x)
  else (codeFmt c).decode x

/-- A decoded element with its E8M0 block scale (R88): 0xFF is NaN. -/
def applyScale (s : Nat) (x : Num) : Num :=
  if s = 0xFF then .nan else numScale ((s : Int) - 127) x

/-! ### MX block encoding (R98) -/

/-- emax of an MX element format. -/
def mxEmax (c : Nat) : Int := [8, 15, 4, 2, 2, 0].getD (c - 5) 0

/-- Largest finite element code of an MX format. -/
def mxMaxCode (c : Nat) : Nat :=
  match c with
  | 6 => 0x7B
  | 10 => 127
  | _ => (codeFmt c).maxBits

/-- One element y[i] of an MX block encoded, saturating to the largest finite element: NX is its only flag (R98; its worked block sets NX only). -/
def mxElement (c : Nat) (mode : RoundMode) : Num → Nat × Nat
  | .fin neg m e =>
    if c = 10 then
      let (n, lost) := roundInt mode m (e + 6) false
      let k := if 127 < n then 127 else n
      (unsigned 8 (if neg then -(k : Int) else (k : Int)), if lost || decide (127 < n) then flagNX else 0)
    else
      let f := codeFmt c
      let (b, fl) := f.roundMag mode (Exact.ofFin neg m e)
      if mxMaxCode c < b then (f.signBits neg + mxMaxCode c, flagNX) else (f.signBits neg + b, fl &&& flagNX)
  | _ => (0, 0)

/-- The larger of two magnitudes. -/
def magMax (a b : Nat × Int) : Nat × Int := if magLe a.1 a.2 b.1 b.2 then b else a

/-- Largest magnitude of a list of decoded values. -/
def amax (xs : List Num) : Nat × Int :=
  xs.foldl (fun a x => match x with | .fin _ m e => magMax a (m, e) | _ => a) (0, 0)

/-- The encoding of one 32-element MX block (R98): scale, element codes, flags; `mode i` is the rounding of element i. -/
def mxEncode (c : Nat) (mode : Nat → RoundMode) (xs : List Num) : Nat × List Nat × Nat :=
  if xs.any (fun x => !x.isFin) then (0xFF, xs.map (fun _ => 0), flagNV)
  else
    let am := amax xs
    if am.1 = 0 then
      (0, xs.map (fun x => match x with
        | .fin true _ _ => if c = 10 then 0 else (codeFmt c).signBits true
        | _ => 0), 0)
    else
      let raw : Int := topExp am.1 am.2 - mxEmax c + 127
      let sc : Nat := if raw < 0 then 0 else if 254 < raw then 254 else raw.toNat
      let es := xs.zipIdx.map (fun p => mxElement c (mode p.2) (numScale (127 - (sc : Int)) p.1))
      (sc, es.map (·.1), es.foldl (fun a p => a ||| p.2) 0)

/-! ### Pairs (R103) -/

/-- A decoded FP32 value as a pair of base-format words (hi, lo) and flags; `mode` rounds the lo word. -/
def pairEncode (f : Fmt) (mode : RoundMode) (x : Num) : Nat × Nat × Nat :=
  let (hi, fh) := f.convert .ne x
  match f.decode hi with
  | .fin nh mh eh =>
    let d := (numAdd x (numNeg (.fin nh mh eh))).1
    let (lo, fl) := f.convert mode d
    let exact : Bool :=
      match (numAdd (.fin nh mh eh) (f.decode lo)).1, x with
      | s, y => numLe s y && numLe y s
    (hi, lo, ((fh ||| fl) &&& (flagOF ||| flagUF)) ||| ((fh ||| fl) &&& flagNV) ||| (if exact then 0 else flagNX))
  | _ => (hi, 0, fh)

/-- The value of a pair, the exact sum hi + lo, with the flags of that sum (Tables 3.3, 3.8). -/
def pairValue (f : Fmt) (hi lo : Nat) : Num × Nat := numAdd (f.decode hi) (f.decode lo)

/-! ### M8 moment blocks (R106, R107) -/

/-- rne32 of a / k for a finite magnitude. -/
def rneDivNat (x : Num) (k : Nat) : Nat := (fp32.finish2 .ne (numDiv x (.fin false k 0))).1

/-- round_up_bf16 of an FP32 magnitude. -/
def roundUpBf16 (x : Nat) : Nat := (bf16.convert .up (fp32.decode x)).1

/-- One M8 code: the FP32 quotient by the scale rounded to an integer, clamped to [0, lim] in magnitude. -/
def m8Code (mode : RoundMode) (lim : Nat) (x : Num) (scale : Nat) : Int × Nat :=
  if (bf16.decode scale).isZero then (0, 0)
  else
    match fp32.decode (fp32.finish2 .ne (numDiv x (bf16.decode scale))).1 with
    | .fin n m e =>
      let (k, lost) := roundInt mode m e false
      let c := if lim < k then lim else k
      (if n then -(c : Int) else (c : Int), if lost || decide (lim < k) then flagNX else 0)
    | .inf n => (if n then -(lim : Int) else (lim : Int), flagNX)
    | .nan => (0, 0)

/-- The encoding of an M8 block: (scale_m, m codes, scale_v, v codes, flags) from FP32 encodings. -/
def m8Encode (modeM modeV : Nat → RoundMode) (ms vs : List Nat) : Nat × List Nat × Nat × List Nat × Nat :=
  let mN := ms.map fp32.decode
  let vN := vs.map fp32.decode
  let (sm, cm, fm) :=
    if mN.any (fun x => !x.isFin) then (bf16.nan, mN.map (fun _ => 0), flagNV)
    else
      let am := amax mN
      let s := roundUpBf16 (rneDivNat (.fin false am.1 am.2) 127)
      let cs := mN.zipIdx.map (fun p => m8Code (modeM p.2) 127 p.1 s)
      (s, cs.map (fun c => unsigned 8 c.1), cs.foldl (fun a c => a ||| c.2) 0)
  let bad (x : Num) : Bool :=
    match x with
    | .fin n m _ => n && m != 0
    | _ => true
  let (sv, cv, fv) :=
    if vN.any bad then (bf16.nan, vN.map (fun _ => 0), flagNV)
    else
      let ss := vN.map (fun x => match x with
        | .fin _ m e => fp32.decode (fp32.finish2 .ne (numSqrt (.fin false m e))).1
        | y => y)
      let av := amax ss
      let s := roundUpBf16 (rneDivNat (.fin false av.1 av.2) 255)
      let cs := ss.zipIdx.map (fun p => m8Code (modeV p.2) 255 p.1 s)
      (s, cs.map (fun c => c.1.toNat % 256), cs.foldl (fun a c => a ||| c.2) 0)
  (sm, cm, sv, cv, fm ||| fv)

/-- m of one element: code × scale_m, exact (R107). -/
def m8DecodeM (scale code : Nat) : Nat :=
  fp32.encodeNe (numMul (intNum (signed 8 code)) (bf16.decode scale)).1

/-- v of one element: (code × scale_v)² rounded once, with its flags (R107). -/
def m8DecodeV (scale code : Nat) : Nat × Nat :=
  let s := numMul (intNum (code : Int)) (bf16.decode scale)
  let r := fp32.finish (numMul s.1 s.1)
  (r.1, if (bf16.decode scale).isNan then 0 else s.2 ||| r.2)

end Sys2Proof.Machine
end

