-- ==== Sys2Proof/Machine/RegsA.lean ====
section
/-!
DEFINITION. Global and package-wide blocks: every register and field, from the field tables of the spec.
-/
namespace Sys2Proof.Machine

/-! ### GLB -/

/-- MODE_GLB, R509. -/
def MODE_GLB : Reg :=
  ⟨.glb, 0x0, false, 0x0, 1, 0x0, []⟩
def MODE_GLB_EXPERT : Fld := ⟨MODE_GLB, 16, 16⟩
def MODE_GLB_PRESET : Fld := ⟨MODE_GLB, 7, 0⟩

/-- ID_PART, Table 21.4. -/
def ID_PART : Reg :=
  ⟨.glb, 0x8, false, 0x0, 1, 0xB100019C, []⟩
def ID_PART_STEPPING : Fld := ⟨ID_PART, 31, 24⟩
def ID_PART_CODE : Fld := ⟨ID_PART, 23, 16⟩
def ID_PART_PART : Fld := ⟨ID_PART, 15, 0⟩

/-- ID_SERIAL, Table 21.4. -/
def ID_SERIAL : Reg :=
  ⟨.glb, 0x10, false, 0x0, 1, 0x0, []⟩
def ID_SERIAL_SERIAL : Fld := ⟨ID_SERIAL, 63, 0⟩

/-- ID_VERSION, Table 21.4. -/
def ID_VERSION : Reg :=
  ⟨.glb, 0x18, false, 0x0, 1, 0x1, []⟩
def ID_VERSION_FW_BUILD : Fld := ⟨ID_VERSION, 63, 32⟩
def ID_VERSION_MAP_VERSION : Fld := ⟨ID_VERSION, 15, 0⟩

/-- CAP0, Table 21.4. -/
def CAP0 : Reg :=
  ⟨.glb, 0x20, false, 0x0, 1, 0xA00040100C0C0804, []⟩
def CAP0_MASSIF_MAX : Fld := ⟨CAP0, 63, 50⟩
def CAP0_RINGS : Fld := ⟨CAP0, 47, 40⟩
def CAP0_RIDGE_PORTS : Fld := ⟨CAP0, 39, 32⟩
def CAP0_STACKS : Fld := ⟨CAP0, 31, 24⟩
def CAP0_CORES_PER_CLUSTER : Fld := ⟨CAP0, 23, 16⟩
def CAP0_CLUSTERS_PER_DIE : Fld := ⟨CAP0, 15, 8⟩
def CAP0_DIES : Fld := ⟨CAP0, 7, 0⟩

/-- CAP1, Table 21.4. -/
def CAP1 : Reg :=
  ⟨.glb, 0x28, false, 0x0, 1, 0x10040001000FFFF, []⟩
def CAP1_EVENT_ENTRIES : Fld := ⟨CAP1, 63, 48⟩
def CAP1_HANDLES : Fld := ⟨CAP1, 47, 32⟩
def CAP1_TRACKER : Fld := ⟨CAP1, 31, 16⟩
def CAP1_FORMATS : Fld := ⟨CAP1, 15, 0⟩

/-- GLOBAL_CTRL, Table 21.4. -/
def GLOBAL_CTRL : Reg :=
  ⟨.glb, 0x30, false, 0x0, 1, 0x0, []⟩
def GLOBAL_CTRL_SETUP_LOCK : Fld := ⟨GLOBAL_CTRL, 0, 0⟩

/-- GLOBAL_STATUS, Table 21.4. -/
def GLOBAL_STATUS : Reg :=
  ⟨.glb, 0x38, false, 0x0, 1, 0x0, []⟩
def GLOBAL_STATUS_FIRST_VALID : Fld := ⟨GLOBAL_STATUS, 63, 63⟩
def GLOBAL_STATUS_FIRST_OFFSET : Fld := ⟨GLOBAL_STATUS, 51, 32⟩
def GLOBAL_STATUS_PRESET_ERR : Fld := ⟨GLOBAL_STATUS, 3, 3⟩
def GLOBAL_STATUS_LOCK_ERR : Fld := ⟨GLOBAL_STATUS, 2, 2⟩
def GLOBAL_STATUS_DIE_ACCESS_ERR : Fld := ⟨GLOBAL_STATUS, 1, 1⟩
def GLOBAL_STATUS_ACCESS_ERR : Fld := ⟨GLOBAL_STATUS, 0, 0⟩

/-- SCRATCH, Table 21.4. -/
def SCRATCH : Reg :=
  ⟨.glb, 0x40, false, 0x0, 1, 0x0, []⟩
def SCRATCH_VALUE : Fld := ⟨SCRATCH, 63, 0⟩

/-- The field tables of the GLB block. -/
def regsGLB : List RegRow := [
  ⟨"MODE_GLB", MODE_GLB, [
    ⟨63, 17, .rsv, 0x0, [.power, .package]⟩,
    ⟨16, 16, .rw, 0x0, [.power, .package]⟩,
    ⟨15, 8, .rsv, 0x0, [.power, .package]⟩,
    ⟨7, 0, .rw, 0x0, [.power, .package]⟩]⟩,
  ⟨"ID_PART", ID_PART, [
    ⟨63, 32, .rsv, 0x0, [.power, .package]⟩,
    ⟨31, 24, .ro, 0xB1, [.power, .package]⟩,
    ⟨23, 16, .ro, 0x0, [.power, .package]⟩,
    ⟨15, 0, .ro, 0x19C, [.power, .package]⟩]⟩,
  ⟨"ID_SERIAL", ID_SERIAL, [
    ⟨63, 0, .ro, 0x0, [.power, .package]⟩]⟩,
  ⟨"ID_VERSION", ID_VERSION, [
    ⟨63, 32, .ro, 0x0, [.power, .package]⟩,
    ⟨31, 16, .rsv, 0x0, [.power, .package]⟩,
    ⟨15, 0, .ro, 0x1, [.power, .package]⟩]⟩,
  ⟨"CAP0", CAP0, [
    ⟨63, 50, .ro, 0x2800, [.power, .package]⟩,
    ⟨49, 48, .rsv, 0x0, [.power, .package]⟩,
    ⟨47, 40, .ro, 0x40, [.power, .package]⟩,
    ⟨39, 32, .ro, 0x10, [.power, .package]⟩,
    ⟨31, 24, .ro, 0xC, [.power, .package]⟩,
    ⟨23, 16, .ro, 0xC, [.power, .package]⟩,
    ⟨15, 8, .ro, 0x8, [.power, .package]⟩,
    ⟨7, 0, .ro, 0x4, [.power, .package]⟩]⟩,
  ⟨"CAP1", CAP1, [
    ⟨63, 48, .ro, 0x100, [.power, .package]⟩,
    ⟨47, 32, .ro, 0x4000, [.power, .package]⟩,
    ⟨31, 16, .ro, 0x1000, [.power, .package]⟩,
    ⟨15, 0, .ro, 0xFFFF, [.power, .package]⟩]⟩,
  ⟨"GLOBAL_CTRL", GLOBAL_CTRL, [
    ⟨63, 1, .rsv, 0x0, [.power, .package]⟩,
    ⟨0, 0, .rw, 0x0, [.power, .package]⟩]⟩,
  ⟨"GLOBAL_STATUS", GLOBAL_STATUS, [
    ⟨63, 63, .w1c, 0x0, [.power, .package]⟩,
    ⟨62, 52, .rsv, 0x0, [.power, .package]⟩,
    ⟨51, 32, .ro, 0x0, [.power, .package]⟩,
    ⟨31, 4, .rsv, 0x0, [.power, .package]⟩,
    ⟨3, 3, .w1c, 0x0, [.power, .package]⟩,
    ⟨2, 2, .w1c, 0x0, [.power, .package]⟩,
    ⟨1, 1, .w1c, 0x0, [.power, .package]⟩,
    ⟨0, 0, .w1c, 0x0, [.power, .package]⟩]⟩,
  ⟨"SCRATCH", SCRATCH, [
    ⟨63, 0, .rw, 0x0, [.power]⟩]⟩]

/-! ### MAS -/

/-- MODE_MAS, R509. -/
def MODE_MAS : Reg :=
  ⟨.mas, 0x1000, false, 0x0, 1, 0x0, []⟩
def MODE_MAS_EXPERT : Fld := ⟨MODE_MAS, 16, 16⟩
def MODE_MAS_PRESET : Fld := ⟨MODE_MAS, 7, 0⟩

/-- MASSIF_EXPERT, Table 8.17. -/
def MASSIF_EXPERT : Reg :=
  ⟨.mas, 0x1008, false, 0x0, 1, 0xA050000C8, []⟩
def MASSIF_EXPERT_ELECT_QUIET_MS : Fld := ⟨MASSIF_EXPERT, 39, 32⟩
def MASSIF_EXPERT_MEMBER_TIMEOUT_MS : Fld := ⟨MASSIF_EXPERT, 31, 24⟩
def MASSIF_EXPERT_TRAILHEAD_WAIT_MS : Fld := ⟨MASSIF_EXPERT, 15, 0⟩

/-- MASSIF_BLK_STATUS, Table 8.17. -/
def MASSIF_BLK_STATUS : Reg :=
  ⟨.mas, 0x1010, false, 0x0, 1, 0x0, []⟩
def MASSIF_BLK_STATUS_PLAN_ERR : Fld := ⟨MASSIF_BLK_STATUS, 1, 1⟩
def MASSIF_BLK_STATUS_PRESET_ERR : Fld := ⟨MASSIF_BLK_STATUS, 0, 0⟩

/-- MASSIF_DIMS, Table 8.17. -/
def MASSIF_DIMS : Reg :=
  ⟨.mas, 0x1018, false, 0x0, 1, 0x0, []⟩
def MASSIF_DIMS_ZM1 : Fld := ⟨MASSIF_DIMS, 14, 10⟩
def MASSIF_DIMS_YM1 : Fld := ⟨MASSIF_DIMS, 9, 5⟩
def MASSIF_DIMS_XM1 : Fld := ⟨MASSIF_DIMS, 4, 0⟩

/-- MASSIF_COORD, Table 8.17. -/
def MASSIF_COORD : Reg :=
  ⟨.mas, 0x1020, false, 0x0, 1, 0x0, []⟩
def MASSIF_COORD_DEVICE : Fld := ⟨MASSIF_COORD, 29, 16⟩
def MASSIF_COORD_Z : Fld := ⟨MASSIF_COORD, 14, 10⟩
def MASSIF_COORD_Y : Fld := ⟨MASSIF_COORD, 9, 5⟩
def MASSIF_COORD_X : Fld := ⟨MASSIF_COORD, 4, 0⟩

/-- MEMBER_STATE, Table 8.17. -/
def MEMBER_STATE : Reg :=
  ⟨.mas, 0x1028, false, 0x0, 1, 0x0, []⟩
def MEMBER_STATE_JOB : Fld := ⟨MEMBER_STATE, 63, 48⟩
def MEMBER_STATE_TERM : Fld := ⟨MEMBER_STATE, 47, 32⟩
def MEMBER_STATE_CAUSE : Fld := ⟨MEMBER_STATE, 7, 4⟩
def MEMBER_STATE_ROLE : Fld := ⟨MEMBER_STATE, 2, 0⟩

/-- SUMMIT_INFO, Table 8.17. -/
def SUMMIT_INFO : Reg :=
  ⟨.mas, 0x1030, false, 0x0, 1, 0xFFFF, []⟩
def SUMMIT_INFO_STANDBY_ID : Fld := ⟨SUMMIT_INFO, 61, 48⟩
def SUMMIT_INFO_SUMMIT_ID : Fld := ⟨SUMMIT_INFO, 45, 32⟩
def SUMMIT_INFO_STALE_TERM : Fld := ⟨SUMMIT_INFO, 31, 16⟩
def SUMMIT_INFO_HEARTBEAT_AGE_US : Fld := ⟨SUMMIT_INFO, 15, 0⟩

/-- MEMBER_COUNTS, Table 8.17. -/
def MEMBER_COUNTS : Reg :=
  ⟨.mas, 0x1038, false, 0x0, 1, 0x0, []⟩
def MEMBER_COUNTS_JOB_MEMBERS : Fld := ⟨MEMBER_COUNTS, 45, 32⟩
def MEMBER_COUNTS_ADMITTED : Fld := ⟨MEMBER_COUNTS, 13, 0⟩

/-- The field tables of the MAS block. -/
def regsMAS : List RegRow := [
  ⟨"MODE_MAS", MODE_MAS, [
    ⟨63, 17, .rsv, 0x0, [.power, .package]⟩,
    ⟨16, 16, .rw, 0x0, [.power, .package]⟩,
    ⟨15, 8, .rsv, 0x0, [.power, .package]⟩,
    ⟨7, 0, .rw, 0x0, [.power, .package]⟩]⟩,
  ⟨"MASSIF_EXPERT", MASSIF_EXPERT, [
    ⟨63, 40, .rsv, 0x0, [.power, .package]⟩,
    ⟨39, 32, .rw, 0xA, [.power, .package]⟩,
    ⟨31, 24, .rw, 0x5, [.power, .package]⟩,
    ⟨23, 16, .rsv, 0x0, [.power, .package]⟩,
    ⟨15, 0, .rw, 0xC8, [.power, .package]⟩]⟩,
  ⟨"MASSIF_BLK_STATUS", MASSIF_BLK_STATUS, [
    ⟨63, 2, .rsv, 0x0, [.power, .package]⟩,
    ⟨1, 1, .w1c, 0x0, [.power, .package]⟩,
    ⟨0, 0, .w1c, 0x0, [.power, .package]⟩]⟩,
  ⟨"MASSIF_DIMS", MASSIF_DIMS, [
    ⟨63, 15, .rsv, 0x0, [.power, .package]⟩,
    ⟨14, 10, .rw, 0x0, [.power, .package]⟩,
    ⟨9, 5, .rw, 0x0, [.power, .package]⟩,
    ⟨4, 0, .rw, 0x0, [.power, .package]⟩]⟩,
  ⟨"MASSIF_COORD", MASSIF_COORD, [
    ⟨63, 30, .rsv, 0x0, [.power, .package]⟩,
    ⟨29, 16, .ro, 0x0, [.power, .package]⟩,
    ⟨15, 15, .rsv, 0x0, [.power, .package]⟩,
    ⟨14, 10, .rw, 0x0, [.power, .package]⟩,
    ⟨9, 5, .rw, 0x0, [.power, .package]⟩,
    ⟨4, 0, .rw, 0x0, [.power, .package]⟩]⟩,
  ⟨"MEMBER_STATE", MEMBER_STATE, [
    ⟨63, 48, .ro, 0x0, [.power, .package, .refuge]⟩,
    ⟨47, 32, .ro, 0x0, [.power, .package, .refuge]⟩,
    ⟨31, 8, .rsv, 0x0, [.power, .package]⟩,
    ⟨7, 4, .ro, 0x0, [.power, .package, .refuge]⟩,
    ⟨3, 3, .rsv, 0x0, [.power, .package]⟩,
    ⟨2, 0, .ro, 0x0, [.power, .package, .refuge]⟩]⟩,
  ⟨"SUMMIT_INFO", SUMMIT_INFO, [
    ⟨63, 62, .rsv, 0x0, [.power, .package]⟩,
    ⟨61, 48, .ro, 0x0, [.power, .package, .refuge]⟩,
    ⟨47, 46, .rsv, 0x0, [.power, .package]⟩,
    ⟨45, 32, .ro, 0x0, [.power, .package, .refuge]⟩,
    ⟨31, 16, .ro, 0x0, [.power, .package, .refuge]⟩,
    ⟨15, 0, .ro, 0xFFFF, [.power, .package, .refuge]⟩]⟩,
  ⟨"MEMBER_COUNTS", MEMBER_COUNTS, [
    ⟨63, 46, .rsv, 0x0, [.power, .package]⟩,
    ⟨45, 32, .ro, 0x0, [.power, .package, .refuge]⟩,
    ⟨31, 14, .rsv, 0x0, [.power, .package]⟩,
    ⟨13, 0, .ro, 0x0, [.power, .package, .refuge]⟩]⟩]

/-! ### POOL -/

/-- MODE_POOL, R509. -/
def MODE_POOL : Reg :=
  ⟨.pool, 0x2000, false, 0x0, 1, 0x0, []⟩
def MODE_POOL_EXPERT : Fld := ⟨MODE_POOL, 16, 16⟩
def MODE_POOL_PRESET : Fld := ⟨MODE_POOL, 7, 0⟩

/-- POOL_EXPERT, Table 6.16. -/
def POOL_EXPERT : Reg :=
  ⟨.pool, 0x2008, false, 0x0, 1, 0x32, []⟩
def POOL_EXPERT_LOSS_ON_POISON : Fld := ⟨POOL_EXPERT, 16, 16⟩
def POOL_EXPERT_UIO_TIMEOUT_US : Fld := ⟨POOL_EXPERT, 15, 0⟩

/-- POOL_BLK_STATUS, Table 6.16. -/
def POOL_BLK_STATUS : Reg :=
  ⟨.pool, 0x2010, false, 0x0, 1, 0x0, []⟩
def POOL_BLK_STATUS_RANGE_ERR : Fld := ⟨POOL_BLK_STATUS, 1, 1⟩
def POOL_BLK_STATUS_PRESET_ERR : Fld := ⟨POOL_BLK_STATUS, 0, 0⟩

/-- POOL_LOSS_COUNT, Table 6.16. -/
def POOL_LOSS_COUNT : Reg :=
  ⟨.pool, 0x2018, false, 0x0, 1, 0x0, []⟩
def POOL_LOSS_COUNT_COUNT : Fld := ⟨POOL_LOSS_COUNT, 63, 0⟩

/-- RANGE_BASE, Table 6.16. -/
def RANGE_BASE : Reg :=
  ⟨.pool, 0x2100, false, 0x20, 32, 0x0, []⟩
def RANGE_BASE_BASE : Fld := ⟨RANGE_BASE, 61, 12⟩

/-- RANGE_SIZE, Table 6.16. -/
def RANGE_SIZE : Reg :=
  ⟨.pool, 0x2108, false, 0x20, 32, 0x0, []⟩
def RANGE_SIZE_SIZE : Fld := ⟨RANGE_SIZE, 61, 12⟩

/-- RANGE_STATE, Table 6.16. -/
def RANGE_STATE : Reg :=
  ⟨.pool, 0x2110, false, 0x20, 32, 0x0, []⟩
def RANGE_STATE_CAUSE : Fld := ⟨RANGE_STATE, 15, 8⟩
def RANGE_STATE_STATE : Fld := ⟨RANGE_STATE, 1, 0⟩

/-- The field tables of the POOL block. -/
def regsPOOL : List RegRow := [
  ⟨"MODE_POOL", MODE_POOL, [
    ⟨63, 17, .rsv, 0x0, [.power, .package, .function]⟩,
    ⟨16, 16, .rw, 0x0, [.power, .package, .function]⟩,
    ⟨15, 8, .rsv, 0x0, [.power, .package, .function]⟩,
    ⟨7, 0, .rw, 0x0, [.power, .package, .function]⟩]⟩,
  ⟨"POOL_EXPERT", POOL_EXPERT, [
    ⟨63, 17, .rsv, 0x0, [.power, .package, .function]⟩,
    ⟨16, 16, .rw, 0x0, [.power, .package, .function]⟩,
    ⟨15, 0, .rw, 0x32, [.power, .package, .function]⟩]⟩,
  ⟨"POOL_BLK_STATUS", POOL_BLK_STATUS, [
    ⟨63, 2, .rsv, 0x0, [.power, .package, .function]⟩,
    ⟨1, 1, .w1c, 0x0, [.power, .package, .function]⟩,
    ⟨0, 0, .w1c, 0x0, [.power, .package, .function]⟩]⟩,
  ⟨"POOL_LOSS_COUNT", POOL_LOSS_COUNT, [
    ⟨63, 0, .ro, 0x0, [.power, .package, .function]⟩]⟩,
  ⟨"RANGE_BASE", RANGE_BASE, [
    ⟨63, 62, .rsv, 0x0, [.power, .package, .function]⟩,
    ⟨61, 12, .rw, 0x0, [.power, .package, .function]⟩,
    ⟨11, 0, .rsv, 0x0, [.power, .package, .function]⟩]⟩,
  ⟨"RANGE_SIZE", RANGE_SIZE, [
    ⟨63, 62, .rsv, 0x0, [.power, .package, .function]⟩,
    ⟨61, 12, .rw, 0x0, [.power, .package, .function]⟩,
    ⟨11, 0, .rsv, 0x0, [.power, .package, .function]⟩]⟩,
  ⟨"RANGE_STATE", RANGE_STATE, [
    ⟨63, 16, .rsv, 0x0, [.power, .package, .function]⟩,
    ⟨15, 8, .ro, 0x0, [.power, .package, .function]⟩,
    ⟨7, 2, .rsv, 0x0, [.power, .package, .function]⟩,
    ⟨1, 0, .rw, 0x0, [.power, .package, .function]⟩]⟩]

/-! ### PKG -/

/-- MODE_PKG, R509. -/
def MODE_PKG : Reg :=
  ⟨.pkg, 0x3000, false, 0x0, 1, 0x0, []⟩
def MODE_PKG_EXPERT : Fld := ⟨MODE_PKG, 16, 16⟩
def MODE_PKG_PRESET : Fld := ⟨MODE_PKG, 7, 0⟩

/-- PKG_EXPERT, Table 16.12. -/
def PKG_EXPERT : Reg :=
  ⟨.pkg, 0x3008, false, 0x0, 1, 0x101, []⟩
def PKG_EXPERT_DEAD_WIRE_DEGRADE : Fld := ⟨PKG_EXPERT, 16, 16⟩
def PKG_EXPERT_CLOCK_STABLE_MS : Fld := ⟨PKG_EXPERT, 15, 8⟩
def PKG_EXPERT_AUTO_REJOIN : Fld := ⟨PKG_EXPERT, 0, 0⟩

/-- PKG_BLK_STATUS, Table 16.12. -/
def PKG_BLK_STATUS : Reg :=
  ⟨.pkg, 0x3010, false, 0x0, 1, 0x0, []⟩
def PKG_BLK_STATUS_DIE_CMD_ERR : Fld := ⟨PKG_BLK_STATUS, 2, 2⟩
def PKG_BLK_STATUS_LEDGER_LOWERED : Fld := ⟨PKG_BLK_STATUS, 1, 1⟩
def PKG_BLK_STATUS_PRESET_ERR : Fld := ⟨PKG_BLK_STATUS, 0, 0⟩

/-- PKG_HEALTH, Table 16.12. -/
def PKG_HEALTH : Reg :=
  ⟨.pkg, 0x3018, false, 0x0, 1, 0x0, []⟩
def PKG_HEALTH_FENCED : Fld := ⟨PKG_HEALTH, 19, 16⟩
def PKG_HEALTH_SADDLE_NARROW : Fld := ⟨PKG_HEALTH, 15, 12⟩
def PKG_HEALTH_SADDLE_DOWN : Fld := ⟨PKG_HEALTH, 11, 8⟩
def PKG_HEALTH_STACK_RETIRED : Fld := ⟨PKG_HEALTH, 3, 3⟩
def PKG_HEALTH_RIDGE_PORT_LOST : Fld := ⟨PKG_HEALTH, 2, 2⟩
def PKG_HEALTH_DEGRADED : Fld := ⟨PKG_HEALTH, 0, 0⟩

/-- DIE_CMD, Table 16.12. -/
def DIE_CMD : Reg :=
  ⟨.pkg, 0x3020, false, 0x0, 1, 0x0, []⟩
def DIE_CMD_RESET : Fld := ⟨DIE_CMD, 63, 63⟩
def DIE_CMD_REJOIN : Fld := ⟨DIE_CMD, 62, 62⟩
def DIE_CMD_DIES : Fld := ⟨DIE_CMD, 3, 0⟩

/-- DIE_STATE, Table 16.12. -/
def DIE_STATE : Reg :=
  ⟨.pkg, 0x3100, false, 0x10, 4, 0x0, []⟩
def DIE_STATE_FENCES : Fld := ⟨DIE_STATE, 63, 48⟩
def DIE_STATE_CAUSE : Fld := ⟨DIE_STATE, 39, 32⟩
def DIE_STATE_STATE : Fld := ⟨DIE_STATE, 2, 0⟩

/-- SADDLE_LEDGER, Table 16.12. -/
def SADDLE_LEDGER : Reg :=
  ⟨.pkg, 0x3200, false, 0x40, 4, 0x0, []⟩
def SADDLE_LEDGER_WIDTH : Fld := ⟨SADDLE_LEDGER, 7, 6⟩
def SADDLE_LEDGER_SEL : Fld := ⟨SADDLE_LEDGER, 3, 0⟩

/-- SADDLE_STATUS, Table 16.12. -/
def SADDLE_STATUS : Reg :=
  ⟨.pkg, 0x3208, false, 0x40, 4, 0x0, []⟩
def SADDLE_STATUS_RETRAINS : Fld := ⟨SADDLE_STATUS, 63, 32⟩
def SADDLE_STATUS_WIDTH_MISMATCHES : Fld := ⟨SADDLE_STATUS, 31, 16⟩
def SADDLE_STATUS_STATE : Fld := ⟨SADDLE_STATUS, 10, 8⟩
def SADDLE_STATUS_WIDTH : Fld := ⟨SADDLE_STATUS, 7, 6⟩
def SADDLE_STATUS_SEL : Fld := ⟨SADDLE_STATUS, 3, 0⟩

/-- SADDLE_ERRORS_A, Table 16.12. -/
def SADDLE_ERRORS_A : Reg :=
  ⟨.pkg, 0x3210, false, 0x40, 4, 0x0, []⟩
def SADDLE_ERRORS_A_DEAD_MASK : Fld := ⟨SADDLE_ERRORS_A, 63, 48⟩
def SADDLE_ERRORS_A_UNCORRECTED : Fld := ⟨SADDLE_ERRORS_A, 47, 32⟩
def SADDLE_ERRORS_A_CORRECTED : Fld := ⟨SADDLE_ERRORS_A, 31, 0⟩

/-- SADDLE_ERRORS_B, Table 16.12. -/
def SADDLE_ERRORS_B : Reg :=
  ⟨.pkg, 0x3218, false, 0x40, 4, 0x0, []⟩
def SADDLE_ERRORS_B_DEAD_MASK : Fld := ⟨SADDLE_ERRORS_B, 63, 48⟩
def SADDLE_ERRORS_B_UNCORRECTED : Fld := ⟨SADDLE_ERRORS_B, 47, 32⟩
def SADDLE_ERRORS_B_CORRECTED : Fld := ⟨SADDLE_ERRORS_B, 31, 0⟩

/-- COL_STATUS, Table 16.12. -/
def COL_STATUS : Reg :=
  ⟨.pkg, 0x3400, false, 0x10, 4, 0x0, []⟩
def COL_STATUS_REPLAYS : Fld := ⟨COL_STATUS, 63, 32⟩
def COL_STATUS_STATE : Fld := ⟨COL_STATUS, 2, 0⟩

/-- The field tables of the PKG block. -/
def regsPKG : List RegRow := [
  ⟨"MODE_PKG", MODE_PKG, [
    ⟨63, 17, .rsv, 0x0, [.power, .package]⟩,
    ⟨16, 16, .rw, 0x0, [.power, .package]⟩,
    ⟨15, 8, .rsv, 0x0, [.power, .package]⟩,
    ⟨7, 0, .rw, 0x0, [.power, .package]⟩]⟩,
  ⟨"PKG_EXPERT", PKG_EXPERT, [
    ⟨63, 17, .rsv, 0x0, [.power, .package]⟩,
    ⟨16, 16, .rw, 0x0, [.power, .package]⟩,
    ⟨15, 8, .rw, 0x1, [.power, .package]⟩,
    ⟨7, 1, .rsv, 0x0, [.power, .package]⟩,
    ⟨0, 0, .rw, 0x1, [.power, .package]⟩]⟩,
  ⟨"PKG_BLK_STATUS", PKG_BLK_STATUS, [
    ⟨63, 3, .rsv, 0x0, [.power, .package]⟩,
    ⟨2, 2, .w1c, 0x0, [.power, .package]⟩,
    ⟨1, 1, .w1c, 0x0, [.power, .package]⟩,
    ⟨0, 0, .w1c, 0x0, [.power, .package]⟩]⟩,
  ⟨"PKG_HEALTH", PKG_HEALTH, [
    ⟨63, 20, .rsv, 0x0, [.power, .package]⟩,
    ⟨19, 16, .ro, 0x0, [.power, .package]⟩,
    ⟨15, 12, .ro, 0x0, [.power, .package]⟩,
    ⟨11, 8, .ro, 0x0, [.power, .package]⟩,
    ⟨7, 4, .rsv, 0x0, [.power, .package]⟩,
    ⟨3, 3, .ro, 0x0, [.power, .package]⟩,
    ⟨2, 2, .ro, 0x0, [.power, .package]⟩,
    ⟨1, 1, .rsv, 0x0, [.power, .package]⟩,
    ⟨0, 0, .ro, 0x0, [.power, .package]⟩]⟩,
  ⟨"DIE_CMD", DIE_CMD, [
    ⟨63, 63, .wo, 0x0, []⟩,
    ⟨62, 62, .wo, 0x0, []⟩,
    ⟨61, 4, .rsv, 0x0, []⟩,
    ⟨3, 0, .wo, 0x0, []⟩]⟩,
  ⟨"DIE_STATE", DIE_STATE, [
    ⟨63, 48, .ro, 0x0, [.power, .package]⟩,
    ⟨47, 40, .rsv, 0x0, [.power, .package]⟩,
    ⟨39, 32, .ro, 0x0, [.power, .package]⟩,
    ⟨31, 3, .rsv, 0x0, [.power, .package]⟩,
    ⟨2, 0, .ro, 0x0, [.power, .package]⟩]⟩,
  ⟨"SADDLE_LEDGER", SADDLE_LEDGER, [
    ⟨63, 8, .rsv, 0x0, [.power, .package]⟩,
    ⟨7, 6, .ro, 0x0, [.power, .package]⟩,
    ⟨5, 4, .rsv, 0x0, [.power, .package]⟩,
    ⟨3, 0, .ro, 0x0, [.power, .package]⟩]⟩,
  ⟨"SADDLE_STATUS", SADDLE_STATUS, [
    ⟨63, 32, .ro, 0x0, [.power, .package]⟩,
    ⟨31, 16, .ro, 0x0, [.power, .package]⟩,
    ⟨15, 11, .rsv, 0x0, [.power, .package]⟩,
    ⟨10, 8, .ro, 0x0, [.power, .package]⟩,
    ⟨7, 6, .ro, 0x0, [.power, .package]⟩,
    ⟨5, 4, .rsv, 0x0, [.power, .package]⟩,
    ⟨3, 0, .ro, 0x0, [.power, .package]⟩]⟩,
  ⟨"SADDLE_ERRORS_A", SADDLE_ERRORS_A, [
    ⟨63, 48, .ro, 0x0, [.power, .package]⟩,
    ⟨47, 32, .ro, 0x0, [.power, .package]⟩,
    ⟨31, 0, .ro, 0x0, [.power, .package]⟩]⟩,
  ⟨"SADDLE_ERRORS_B", SADDLE_ERRORS_B, [
    ⟨63, 48, .ro, 0x0, [.power, .package]⟩,
    ⟨47, 32, .ro, 0x0, [.power, .package]⟩,
    ⟨31, 0, .ro, 0x0, [.power, .package]⟩]⟩,
  ⟨"COL_STATUS", COL_STATUS, [
    ⟨63, 32, .ro, 0x0, [.power, .package]⟩,
    ⟨31, 3, .rsv, 0x0, [.power, .package]⟩,
    ⟨2, 0, .ro, 0x0, [.power, .package]⟩]⟩]

/-! ### PWR -/

/-- MODE_PWR, R509. -/
def MODE_PWR : Reg :=
  ⟨.pwr, 0x4000, false, 0x0, 1, 0x0, []⟩
def MODE_PWR_EXPERT : Fld := ⟨MODE_PWR, 16, 16⟩
def MODE_PWR_PRESET : Fld := ⟨MODE_PWR, 7, 0⟩

/-- PWR_EXPERT, Table 17.12. -/
def PWR_EXPERT : Reg :=
  ⟨.pwr, 0x4008, false, 0x0, 1, 0x5F0001, []⟩
def PWR_EXPERT_PACE_START_C : Fld := ⟨PWR_EXPERT, 23, 16⟩
def PWR_EXPERT_POWER_CAP : Fld := ⟨PWR_EXPERT, 0, 0⟩

/-- PWR_BLK_STATUS, Table 17.12. -/
def PWR_BLK_STATUS : Reg :=
  ⟨.pwr, 0x4010, false, 0x0, 1, 0x0, []⟩
def PWR_BLK_STATUS_SENSOR_EXCLUDED : Fld := ⟨PWR_BLK_STATUS, 4, 4⟩
def PWR_BLK_STATUS_SUPPLY_EVENT : Fld := ⟨PWR_BLK_STATUS, 3, 3⟩
def PWR_BLK_STATUS_THERMAL_EVENT : Fld := ⟨PWR_BLK_STATUS, 2, 2⟩
def PWR_BLK_STATUS_CFG_ERR : Fld := ⟨PWR_BLK_STATUS, 1, 1⟩
def PWR_BLK_STATUS_PRESET_ERR : Fld := ⟨PWR_BLK_STATUS, 0, 0⟩

/-- PROFILE_STATE, Table 17.12. -/
def PROFILE_STATE : Reg :=
  ⟨.pwr, 0x4018, false, 0x0, 1, 0x0, []⟩
def PROFILE_STATE_SELECTED : Fld := ⟨PROFILE_STATE, 13, 12⟩
def PROFILE_STATE_CURRENT : Fld := ⟨PROFILE_STATE, 11, 10⟩
def PROFILE_STATE_FORCED : Fld := ⟨PROFILE_STATE, 9, 9⟩
def PROFILE_STATE_CONVERTER_LIMIT : Fld := ⟨PROFILE_STATE, 8, 7⟩
def PROFILE_STATE_DUTY : Fld := ⟨PROFILE_STATE, 5, 4⟩
def PROFILE_STATE_CAP_ACTIVE : Fld := ⟨PROFILE_STATE, 1, 1⟩
def PROFILE_STATE_SUPPLY_ACTIVE : Fld := ⟨PROFILE_STATE, 0, 0⟩

/-- SUPPLY, Table 17.12. -/
def SUPPLY : Reg :=
  ⟨.pwr, 0x4020, false, 0x0, 1, 0x7F80000, []⟩
def SUPPLY_CONVERTERS_OK : Fld := ⟨SUPPLY, 26, 19⟩
def SUPPLY_STATE : Fld := ⟨SUPPLY, 18, 16⟩
def SUPPLY_INPUT_MV : Fld := ⟨SUPPLY, 15, 0⟩

/-- INPUT_POWER, Table 17.12. -/
def INPUT_POWER : Reg :=
  ⟨.pwr, 0x4028, false, 0x0, 1, 0x0, []⟩
def INPUT_POWER_AVG100_W : Fld := ⟨INPUT_POWER, 63, 48⟩
def INPUT_POWER_AVG10_W : Fld := ⟨INPUT_POWER, 47, 32⟩
def INPUT_POWER_INST_W : Fld := ⟨INPUT_POWER, 31, 16⟩
def INPUT_POWER_INPUT_I : Fld := ⟨INPUT_POWER, 15, 0⟩

/-- ENERGY, Table 17.12. -/
def ENERGY : Reg :=
  ⟨.pwr, 0x4030, false, 0x0, 1, 0x0, []⟩
def ENERGY_MJ : Fld := ⟨ENERGY, 63, 0⟩

/-- PACE_EVENTS, Table 17.12. -/
def PACE_EVENTS : Reg :=
  ⟨.pwr, 0x4038, false, 0x0, 1, 0x0, []⟩
def PACE_EVENTS_SUPPLY_EVENTS : Fld := ⟨PACE_EVENTS, 63, 32⟩
def PACE_EVENTS_CAP_EVENTS : Fld := ⟨PACE_EVENTS, 31, 16⟩
def PACE_EVENTS_THERMAL_EVENTS : Fld := ⟨PACE_EVENTS, 15, 0⟩

/-- DIE_THERMAL, Table 17.12. -/
def DIE_THERMAL : Reg :=
  ⟨.pwr, 0x4100, false, 0x10, 4, 0x0, []⟩
def DIE_THERMAL_PACED_MS : Fld := ⟨DIE_THERMAL, 63, 48⟩
def DIE_THERMAL_DUTY : Fld := ⟨DIE_THERMAL, 17, 16⟩
def DIE_THERMAL_CAUSE : Fld := ⟨DIE_THERMAL, 15, 12⟩
def DIE_THERMAL_SENSORS_OUT : Fld := ⟨DIE_THERMAL, 11, 8⟩
def DIE_THERMAL_HOTTEST_C : Fld := ⟨DIE_THERMAL, 7, 0⟩

/-- The field tables of the PWR block. -/
def regsPWR : List RegRow := [
  ⟨"MODE_PWR", MODE_PWR, [
    ⟨63, 17, .rsv, 0x0, [.power, .package]⟩,
    ⟨16, 16, .rw, 0x0, [.power, .package]⟩,
    ⟨15, 8, .rsv, 0x0, [.power, .package]⟩,
    ⟨7, 0, .rw, 0x0, [.power, .package]⟩]⟩,
  ⟨"PWR_EXPERT", PWR_EXPERT, [
    ⟨63, 24, .rsv, 0x0, [.power, .package]⟩,
    ⟨23, 16, .rw, 0x5F, [.power, .package]⟩,
    ⟨15, 1, .rsv, 0x0, [.power, .package]⟩,
    ⟨0, 0, .rw, 0x1, [.power, .package]⟩]⟩,
  ⟨"PWR_BLK_STATUS", PWR_BLK_STATUS, [
    ⟨63, 5, .rsv, 0x0, [.power, .package]⟩,
    ⟨4, 4, .w1c, 0x0, [.power, .package]⟩,
    ⟨3, 3, .w1c, 0x0, [.power, .package]⟩,
    ⟨2, 2, .w1c, 0x0, [.power, .package]⟩,
    ⟨1, 1, .w1c, 0x0, [.power, .package]⟩,
    ⟨0, 0, .w1c, 0x0, [.power, .package]⟩]⟩,
  ⟨"PROFILE_STATE", PROFILE_STATE, [
    ⟨63, 14, .rsv, 0x0, [.power, .package]⟩,
    ⟨13, 12, .ro, 0x0, [.power, .package]⟩,
    ⟨11, 10, .ro, 0x0, [.power, .package]⟩,
    ⟨9, 9, .ro, 0x0, [.power, .package]⟩,
    ⟨8, 7, .ro, 0x0, [.power]⟩,
    ⟨6, 6, .rsv, 0x0, [.power, .package]⟩,
    ⟨5, 4, .ro, 0x0, [.power, .package]⟩,
    ⟨3, 2, .rsv, 0x0, [.power, .package]⟩,
    ⟨1, 1, .ro, 0x0, [.power, .package]⟩,
    ⟨0, 0, .ro, 0x0, [.power, .package]⟩]⟩,
  ⟨"SUPPLY", SUPPLY, [
    ⟨63, 27, .rsv, 0x0, [.power, .package]⟩,
    ⟨26, 19, .ro, 0xFF, [.power]⟩,
    ⟨18, 16, .ro, 0x0, [.power, .package]⟩,
    ⟨15, 0, .ro, 0x0, [.power, .package]⟩]⟩,
  ⟨"INPUT_POWER", INPUT_POWER, [
    ⟨63, 48, .ro, 0x0, [.power, .package]⟩,
    ⟨47, 32, .ro, 0x0, [.power, .package]⟩,
    ⟨31, 16, .ro, 0x0, [.power, .package]⟩,
    ⟨15, 0, .ro, 0x0, [.power, .package]⟩]⟩,
  ⟨"ENERGY", ENERGY, [
    ⟨63, 0, .ro, 0x0, [.power]⟩]⟩,
  ⟨"PACE_EVENTS", PACE_EVENTS, [
    ⟨63, 32, .ro, 0x0, [.power, .package]⟩,
    ⟨31, 16, .ro, 0x0, [.power, .package]⟩,
    ⟨15, 0, .ro, 0x0, [.power, .package]⟩]⟩,
  ⟨"DIE_THERMAL", DIE_THERMAL, [
    ⟨63, 48, .ro, 0x0, [.power, .package]⟩,
    ⟨47, 18, .rsv, 0x0, [.power, .package]⟩,
    ⟨17, 16, .ro, 0x0, [.power, .package]⟩,
    ⟨15, 12, .ro, 0x0, [.power, .package]⟩,
    ⟨11, 8, .ro, 0x0, [.power, .package]⟩,
    ⟨7, 0, .ro, 0x0, [.power, .package]⟩]⟩]

/-! ### STA -/

/-- MODE_STA, R509. -/
def MODE_STA : Reg :=
  ⟨.sta, 0x5000, false, 0x0, 1, 0x0, []⟩
def MODE_STA_EXPERT : Fld := ⟨MODE_STA, 16, 16⟩
def MODE_STA_PRESET : Fld := ⟨MODE_STA, 7, 0⟩

/-- STATE_EXPERT, Table 18.6. -/
def STATE_EXPERT : Reg :=
  ⟨.sta, 0x5008, false, 0x0, 1, 0x3, []⟩
def STATE_EXPERT_WAKE_ON_DOORBELL : Fld := ⟨STATE_EXPERT, 1, 1⟩
def STATE_EXPERT_WAKE_ON_REQUEST : Fld := ⟨STATE_EXPERT, 0, 0⟩

/-- STATE_BLK_STATUS, Table 18.6. -/
def STATE_BLK_STATUS : Reg :=
  ⟨.sta, 0x5010, false, 0x0, 1, 0x0, []⟩
def STATE_BLK_STATUS_CMD_ERR : Fld := ⟨STATE_BLK_STATUS, 1, 1⟩
def STATE_BLK_STATUS_PRESET_ERR : Fld := ⟨STATE_BLK_STATUS, 0, 0⟩

/-- STATE_CMD, Table 18.6. -/
def STATE_CMD : Reg :=
  ⟨.sta, 0x5018, false, 0x0, 1, 0x0, []⟩
def STATE_CMD_BIVOUAC : Fld := ⟨STATE_CMD, 63, 63⟩
def STATE_CMD_REFUGE : Fld := ⟨STATE_CMD, 62, 62⟩
def STATE_CMD_WAKE : Fld := ⟨STATE_CMD, 61, 61⟩
def STATE_CMD_CORE_RESET : Fld := ⟨STATE_CMD, 60, 60⟩
def STATE_CMD_DIE : Fld := ⟨STATE_CMD, 8, 7⟩
def STATE_CMD_CORE : Fld := ⟨STATE_CMD, 6, 0⟩

/-- STATE_STATUS, Table 18.6. -/
def STATE_STATUS : Reg :=
  ⟨.sta, 0x5020, false, 0x0, 1, 0x0, []⟩
def STATE_STATUS_BIVOUACS : Fld := ⟨STATE_STATUS, 63, 48⟩
def STATE_STATUS_REFUGES : Fld := ⟨STATE_STATUS, 47, 32⟩
def STATE_STATUS_HDM_REFUSED : Fld := ⟨STATE_STATUS, 31, 16⟩
def STATE_STATUS_LAST_RESET : Fld := ⟨STATE_STATUS, 11, 8⟩
def STATE_STATUS_STATE : Fld := ⟨STATE_STATUS, 2, 0⟩

/-- The field tables of the STA block. -/
def regsSTA : List RegRow := [
  ⟨"MODE_STA", MODE_STA, [
    ⟨63, 17, .rsv, 0x0, [.power, .package]⟩,
    ⟨16, 16, .rw, 0x0, [.power, .package]⟩,
    ⟨15, 8, .rsv, 0x0, [.power, .package]⟩,
    ⟨7, 0, .rw, 0x0, [.power, .package]⟩]⟩,
  ⟨"STATE_EXPERT", STATE_EXPERT, [
    ⟨63, 2, .rsv, 0x0, [.power, .package]⟩,
    ⟨1, 1, .rw, 0x1, [.power, .package]⟩,
    ⟨0, 0, .rw, 0x1, [.power, .package]⟩]⟩,
  ⟨"STATE_BLK_STATUS", STATE_BLK_STATUS, [
    ⟨63, 2, .rsv, 0x0, [.power, .package]⟩,
    ⟨1, 1, .w1c, 0x0, [.power, .package]⟩,
    ⟨0, 0, .w1c, 0x0, [.power, .package]⟩]⟩,
  ⟨"STATE_CMD", STATE_CMD, [
    ⟨63, 63, .wo, 0x0, []⟩,
    ⟨62, 62, .wo, 0x0, []⟩,
    ⟨61, 61, .wo, 0x0, []⟩,
    ⟨60, 60, .wo, 0x0, []⟩,
    ⟨59, 9, .rsv, 0x0, []⟩,
    ⟨8, 7, .wo, 0x0, []⟩,
    ⟨6, 0, .wo, 0x0, []⟩]⟩,
  ⟨"STATE_STATUS", STATE_STATUS, [
    ⟨63, 48, .ro, 0x0, [.power]⟩,
    ⟨47, 32, .ro, 0x0, [.power]⟩,
    ⟨31, 16, .ro, 0x0, [.power, .package]⟩,
    ⟨15, 12, .rsv, 0x0, [.power, .package]⟩,
    ⟨11, 8, .ro, 0x0, [.power, .package]⟩,
    ⟨7, 3, .rsv, 0x0, [.power, .package]⟩,
    ⟨2, 0, .ro, 0x0, [.power, .package]⟩]⟩]

/-! ### SEC -/

/-- MODE_SEC, R509. -/
def MODE_SEC : Reg :=
  ⟨.sec, 0x6000, false, 0x0, 1, 0x0, []⟩
def MODE_SEC_EXPERT : Fld := ⟨MODE_SEC, 16, 16⟩
def MODE_SEC_PRESET : Fld := ⟨MODE_SEC, 7, 0⟩

/-- SEC_EXPERT, Table 19.10. -/
def SEC_EXPERT : Reg :=
  ⟨.sec, 0x6008, false, 0x0, 1, 0x10100, []⟩
def SEC_EXPERT_POLICY_EN : Fld := ⟨SEC_EXPERT, 16, 16⟩
def SEC_EXPERT_SIGN_RATE : Fld := ⟨SEC_EXPERT, 15, 0⟩

/-- SEC_BLK_STATUS, Table 19.10. -/
def SEC_BLK_STATUS : Reg :=
  ⟨.sec, 0x6010, false, 0x0, 1, 0x0, []⟩
def SEC_BLK_STATUS_CMD_REFUSED : Fld := ⟨SEC_BLK_STATUS, 1, 1⟩
def SEC_BLK_STATUS_PRESET_ERR : Fld := ⟨SEC_BLK_STATUS, 0, 0⟩

/-- SIG_STATUS, Table 19.10. -/
def SIG_STATUS : Reg :=
  ⟨.sec, 0x6018, false, 0x0, 1, 0x0, []⟩
def SIG_STATUS_NEXT_INDEX : Fld := ⟨SIG_STATUS, 63, 32⟩
def SIG_STATUS_BUILDING : Fld := ⟨SIG_STATUS, 1, 1⟩
def SIG_STATUS_EXHAUSTED : Fld := ⟨SIG_STATUS, 0, 0⟩

/-- BOOT_STATUS, Table 19.10. -/
def BOOT_STATUS : Reg :=
  ⟨.sec, 0x6020, false, 0x0, 1, 0x0, []⟩
def BOOT_STATUS_SVN_FUSE : Fld := ⟨BOOT_STATUS, 63, 48⟩
def BOOT_STATUS_CAMP_SVN : Fld := ⟨BOOT_STATUS, 47, 40⟩
def BOOT_STATUS_CREST_SVN : Fld := ⟨BOOT_STATUS, 39, 32⟩
def BOOT_STATUS_RECOVERY : Fld := ⟨BOOT_STATUS, 2, 2⟩
def BOOT_STATUS_FALLBACK : Fld := ⟨BOOT_STATUS, 1, 1⟩
def BOOT_STATUS_ACTIVE_SLOT : Fld := ⟨BOOT_STATUS, 0, 0⟩

/-- MEASURE, Table 19.10. -/
def MEASURE : Reg :=
  ⟨.sec, 0x6100, false, 0x8, 20, 0x0, []⟩
def MEASURE_DIGEST : Fld := ⟨MEASURE, 63, 0⟩

/-- The field tables of the SEC block. -/
def regsSEC : List RegRow := [
  ⟨"MODE_SEC", MODE_SEC, [
    ⟨63, 17, .rsv, 0x0, [.power, .package]⟩,
    ⟨16, 16, .rw, 0x0, [.power, .package]⟩,
    ⟨15, 8, .rsv, 0x0, [.power, .package]⟩,
    ⟨7, 0, .rw, 0x0, [.power, .package]⟩]⟩,
  ⟨"SEC_EXPERT", SEC_EXPERT, [
    ⟨63, 17, .rsv, 0x0, [.power, .package]⟩,
    ⟨16, 16, .rw, 0x1, [.power, .package]⟩,
    ⟨15, 0, .rw, 0x100, [.power, .package]⟩]⟩,
  ⟨"SEC_BLK_STATUS", SEC_BLK_STATUS, [
    ⟨63, 2, .rsv, 0x0, [.power, .package]⟩,
    ⟨1, 1, .w1c, 0x0, [.power, .package]⟩,
    ⟨0, 0, .w1c, 0x0, [.power, .package]⟩]⟩,
  ⟨"SIG_STATUS", SIG_STATUS, [
    ⟨63, 32, .ro, 0x0, []⟩,
    ⟨31, 2, .rsv, 0x0, [.power, .package]⟩,
    ⟨1, 1, .ro, 0x0, [.power, .package]⟩,
    ⟨0, 0, .ro, 0x0, []⟩]⟩,
  ⟨"BOOT_STATUS", BOOT_STATUS, [
    ⟨63, 48, .ro, 0x0, [.power, .package]⟩,
    ⟨47, 40, .ro, 0x0, [.power, .package]⟩,
    ⟨39, 32, .ro, 0x0, [.power, .package]⟩,
    ⟨31, 3, .rsv, 0x0, [.power, .package]⟩,
    ⟨2, 2, .ro, 0x0, [.power, .package]⟩,
    ⟨1, 1, .ro, 0x0, [.power, .package]⟩,
    ⟨0, 0, .ro, 0x0, [.power, .package]⟩]⟩,
  ⟨"MEASURE", MEASURE, [
    ⟨63, 0, .ro, 0x0, [.power, .package]⟩]⟩]

/-! ### ST -/

/-- MODE_ST, R509. -/
def MODE_ST : Reg :=
  ⟨.st, 0x7000, false, 0x0, 1, 0x1, []⟩
def MODE_ST_EXPERT : Fld := ⟨MODE_ST, 16, 16⟩
def MODE_ST_PRESET : Fld := ⟨MODE_ST, 7, 0⟩

/-- ST_EXPERT, Table 20.11. -/
def ST_EXPERT : Reg :=
  ⟨.st, 0x7008, false, 0x0, 1, 0x64001800FE, []⟩
def ST_EXPERT_SLOT_MS : Fld := ⟨ST_EXPERT, 47, 32⟩
def ST_EXPERT_PERIOD_H : Fld := ⟨ST_EXPERT, 23, 16⟩
def ST_EXPERT_KIND_MASK : Fld := ⟨ST_EXPERT, 7, 0⟩

/-- ST_BLK_STATUS, Table 20.11. -/
def ST_BLK_STATUS : Reg :=
  ⟨.st, 0x7010, false, 0x0, 1, 0x0, []⟩
def ST_BLK_STATUS_CMD_ERR : Fld := ⟨ST_BLK_STATUS, 1, 1⟩
def ST_BLK_STATUS_PRESET_ERR : Fld := ⟨ST_BLK_STATUS, 0, 0⟩

/-- ST_CMD, Table 20.11. -/
def ST_CMD : Reg :=
  ⟨.st, 0x7018, false, 0x0, 1, 0x0, []⟩
def ST_CMD_REQUEST : Fld := ⟨ST_CMD, 63, 63⟩
def ST_CMD_TARGET : Fld := ⟨ST_CMD, 15, 0⟩

/-- ST_STATUS, Table 20.11. -/
def ST_STATUS : Reg :=
  ⟨.st, 0x7020, false, 0x0, 1, 0x0, []⟩
def ST_STATUS_STATE : Fld := ⟨ST_STATUS, 63, 62⟩
def ST_STATUS_RESULT : Fld := ⟨ST_STATUS, 55, 48⟩
def ST_STATUS_MARGIN : Fld := ⟨ST_STATUS, 47, 32⟩
def ST_STATUS_TARGET : Fld := ⟨ST_STATUS, 15, 0⟩

/-- ST_COUNTS, Table 20.11. -/
def ST_COUNTS : Reg :=
  ⟨.st, 0x7028, false, 0x0, 1, 0x0, []⟩
def ST_COUNTS_PASSES : Fld := ⟨ST_COUNTS, 63, 32⟩
def ST_COUNTS_FAILS : Fld := ⟨ST_COUNTS, 31, 16⟩
def ST_COUNTS_ABORTS : Fld := ⟨ST_COUNTS, 15, 0⟩

/-- ST_SAVE_BASE, Table 20.11. -/
def ST_SAVE_BASE : Reg :=
  ⟨.st, 0x7100, false, 0x8, 4, 0x0, []⟩
def ST_SAVE_BASE_BASE : Fld := ⟨ST_SAVE_BASE, 47, 20⟩

/-- The field tables of the ST block. -/
def regsST : List RegRow := [
  ⟨"MODE_ST", MODE_ST, [
    ⟨63, 17, .rsv, 0x0, [.power, .package]⟩,
    ⟨16, 16, .rw, 0x0, [.power, .package]⟩,
    ⟨15, 8, .rsv, 0x0, [.power, .package]⟩,
    ⟨7, 0, .rw, 0x1, [.power, .package]⟩]⟩,
  ⟨"ST_EXPERT", ST_EXPERT, [
    ⟨63, 48, .rsv, 0x0, [.power, .package]⟩,
    ⟨47, 32, .rw, 0x64, [.power, .package]⟩,
    ⟨31, 24, .rsv, 0x0, [.power, .package]⟩,
    ⟨23, 16, .rw, 0x18, [.power, .package]⟩,
    ⟨15, 8, .rsv, 0x0, [.power, .package]⟩,
    ⟨7, 0, .rw, 0xFE, [.power, .package]⟩]⟩,
  ⟨"ST_BLK_STATUS", ST_BLK_STATUS, [
    ⟨63, 2, .rsv, 0x0, [.power, .package]⟩,
    ⟨1, 1, .w1c, 0x0, [.power, .package]⟩,
    ⟨0, 0, .w1c, 0x0, [.power, .package]⟩]⟩,
  ⟨"ST_CMD", ST_CMD, [
    ⟨63, 63, .wo, 0x0, []⟩,
    ⟨62, 16, .rsv, 0x0, []⟩,
    ⟨15, 0, .wo, 0x0, []⟩]⟩,
  ⟨"ST_STATUS", ST_STATUS, [
    ⟨63, 62, .ro, 0x0, [.power, .package]⟩,
    ⟨61, 56, .rsv, 0x0, [.power, .package]⟩,
    ⟨55, 48, .ro, 0x0, [.power, .package]⟩,
    ⟨47, 32, .ro, 0x0, [.power, .package]⟩,
    ⟨31, 16, .rsv, 0x0, [.power, .package]⟩,
    ⟨15, 0, .ro, 0x0, [.power, .package]⟩]⟩,
  ⟨"ST_COUNTS", ST_COUNTS, [
    ⟨63, 32, .ro, 0x0, [.power]⟩,
    ⟨31, 16, .ro, 0x0, [.power]⟩,
    ⟨15, 0, .ro, 0x0, [.power]⟩]⟩,
  ⟨"ST_SAVE_BASE", ST_SAVE_BASE, [
    ⟨63, 48, .rsv, 0x0, [.power, .package]⟩,
    ⟨47, 20, .rw, 0x0, [.power, .package]⟩,
    ⟨19, 0, .rsv, 0x0, [.power, .package]⟩]⟩]

/-! ### ERR -/

/-- MODE_ERR, R509. -/
def MODE_ERR : Reg :=
  ⟨.err, 0x8000, false, 0x0, 1, 0x0, []⟩
def MODE_ERR_EXPERT : Fld := ⟨MODE_ERR, 16, 16⟩
def MODE_ERR_PRESET : Fld := ⟨MODE_ERR, 7, 0⟩

/-- ERR_EXPERT, Table 20.11. -/
def ERR_EXPERT : Reg :=
  ⟨.err, 0x8008, false, 0x0, 1, 0x3E8, []⟩
def ERR_EXPERT_RECORD_WINDOW_MS : Fld := ⟨ERR_EXPERT, 15, 0⟩

/-- ERR_BLK_STATUS, Table 20.11. -/
def ERR_BLK_STATUS : Reg :=
  ⟨.err, 0x8010, false, 0x0, 1, 0x0, []⟩
def ERR_BLK_STATUS_PRESET_ERR : Fld := ⟨ERR_BLK_STATUS, 0, 0⟩

/-- ERR_RING_BASE, Table 20.11. -/
def ERR_RING_BASE : Reg :=
  ⟨.err, 0x8018, false, 0x0, 1, 0x0, []⟩
def ERR_RING_BASE_BASE : Fld := ⟨ERR_RING_BASE, 61, 12⟩

/-- ERR_DB_ADDR, Table 20.11. -/
def ERR_DB_ADDR : Reg :=
  ⟨.err, 0x8020, false, 0x0, 1, 0x0, []⟩
def ERR_DB_ADDR_ADDR : Fld := ⟨ERR_DB_ADDR, 61, 6⟩

/-- ERR_RING_CFG, Table 20.11. -/
def ERR_RING_CFG : Reg :=
  ⟨.err, 0x8028, false, 0x0, 1, 0x6000000000001, []⟩
def ERR_RING_CFG_EN : Fld := ⟨ERR_RING_CFG, 63, 63⟩
def ERR_RING_CFG_LOG2 : Fld := ⟨ERR_RING_CFG, 52, 48⟩
def ERR_RING_CFG_VECTOR : Fld := ⟨ERR_RING_CFG, 37, 32⟩
def ERR_RING_CFG_MOD_COUNT : Fld := ⟨ERR_RING_CFG, 15, 0⟩

/-- ERR_HOLD, Table 20.11. -/
def ERR_HOLD : Reg :=
  ⟨.err, 0x8030, false, 0x0, 1, 0x0, []⟩
def ERR_HOLD_HOLD_DROPPED : Fld := ⟨ERR_HOLD, 63, 32⟩
def ERR_HOLD_HELD : Fld := ⟨ERR_HOLD, 12, 0⟩

/-- ERR_COUNTS, Table 20.11. -/
def ERR_COUNTS : Reg :=
  ⟨.err, 0x8038, false, 0x0, 1, 0x0, []⟩
def ERR_COUNTS_CORRECTED : Fld := ⟨ERR_COUNTS, 63, 32⟩
def ERR_COUNTS_DEFERRED : Fld := ⟨ERR_COUNTS, 31, 16⟩
def ERR_COUNTS_FATAL_DIE : Fld := ⟨ERR_COUNTS, 15, 8⟩
def ERR_COUNTS_FATAL_PKG : Fld := ⟨ERR_COUNTS, 7, 0⟩

/-- ERR_FIRST_DEFERRED, Table 20.11. -/
def ERR_FIRST_DEFERRED : Reg :=
  ⟨.err, 0x8040, false, 0x0, 1, 0x0, []⟩
def ERR_FIRST_DEFERRED_VALID : Fld := ⟨ERR_FIRST_DEFERRED, 63, 63⟩
def ERR_FIRST_DEFERRED_KIND : Fld := ⟨ERR_FIRST_DEFERRED, 55, 48⟩
def ERR_FIRST_DEFERRED_DIE : Fld := ⟨ERR_FIRST_DEFERRED, 44, 42⟩
def ERR_FIRST_DEFERRED_CLASS : Fld := ⟨ERR_FIRST_DEFERRED, 41, 40⟩
def ERR_FIRST_DEFERRED_UNIT : Fld := ⟨ERR_FIRST_DEFERRED, 39, 24⟩
def ERR_FIRST_DEFERRED_SEQ : Fld := ⟨ERR_FIRST_DEFERRED, 23, 0⟩

/-- ERR_FIRST_FATAL, Table 20.11. -/
def ERR_FIRST_FATAL : Reg :=
  ⟨.err, 0x8048, false, 0x0, 1, 0x0, []⟩
def ERR_FIRST_FATAL_VALID : Fld := ⟨ERR_FIRST_FATAL, 63, 63⟩
def ERR_FIRST_FATAL_KIND : Fld := ⟨ERR_FIRST_FATAL, 55, 48⟩
def ERR_FIRST_FATAL_DIE : Fld := ⟨ERR_FIRST_FATAL, 44, 42⟩
def ERR_FIRST_FATAL_CLASS : Fld := ⟨ERR_FIRST_FATAL, 41, 40⟩
def ERR_FIRST_FATAL_UNIT : Fld := ⟨ERR_FIRST_FATAL, 39, 24⟩
def ERR_FIRST_FATAL_SEQ : Fld := ⟨ERR_FIRST_FATAL, 23, 0⟩

/-- The field tables of the ERR block. -/
def regsERR : List RegRow := [
  ⟨"MODE_ERR", MODE_ERR, [
    ⟨63, 17, .rsv, 0x0, [.power, .package]⟩,
    ⟨16, 16, .rw, 0x0, [.power, .package]⟩,
    ⟨15, 8, .rsv, 0x0, [.power, .package]⟩,
    ⟨7, 0, .rw, 0x0, [.power, .package]⟩]⟩,
  ⟨"ERR_EXPERT", ERR_EXPERT, [
    ⟨63, 16, .rsv, 0x0, [.power, .package]⟩,
    ⟨15, 0, .rw, 0x3E8, [.power, .package]⟩]⟩,
  ⟨"ERR_BLK_STATUS", ERR_BLK_STATUS, [
    ⟨63, 1, .rsv, 0x0, [.power, .package]⟩,
    ⟨0, 0, .w1c, 0x0, [.power, .package]⟩]⟩,
  ⟨"ERR_RING_BASE", ERR_RING_BASE, [
    ⟨63, 62, .rsv, 0x0, [.power, .package, .function]⟩,
    ⟨61, 12, .rw, 0x0, [.power, .package, .function]⟩,
    ⟨11, 0, .rsv, 0x0, [.power, .package, .function]⟩]⟩,
  ⟨"ERR_DB_ADDR", ERR_DB_ADDR, [
    ⟨63, 62, .rsv, 0x0, [.power, .package, .function]⟩,
    ⟨61, 6, .rw, 0x0, [.power, .package, .function]⟩,
    ⟨5, 0, .rsv, 0x0, [.power, .package, .function]⟩]⟩,
  ⟨"ERR_RING_CFG", ERR_RING_CFG, [
    ⟨63, 63, .rw, 0x0, [.power, .package, .function]⟩,
    ⟨62, 53, .rsv, 0x0, [.power, .package, .function]⟩,
    ⟨52, 48, .rw, 0x6, [.power, .package, .function]⟩,
    ⟨47, 38, .rsv, 0x0, [.power, .package, .function]⟩,
    ⟨37, 32, .rw, 0x0, [.power, .package, .function]⟩,
    ⟨31, 16, .rsv, 0x0, [.power, .package, .function]⟩,
    ⟨15, 0, .rw, 0x1, [.power, .package, .function]⟩]⟩,
  ⟨"ERR_HOLD", ERR_HOLD, [
    ⟨63, 32, .ro, 0x0, [.power, .package, .function]⟩,
    ⟨31, 13, .rsv, 0x0, [.power, .package, .function]⟩,
    ⟨12, 0, .ro, 0x0, [.power, .package, .function]⟩]⟩,
  ⟨"ERR_COUNTS", ERR_COUNTS, [
    ⟨63, 32, .ro, 0x0, [.power]⟩,
    ⟨31, 16, .ro, 0x0, [.power]⟩,
    ⟨15, 8, .ro, 0x0, [.power]⟩,
    ⟨7, 0, .ro, 0x0, [.power]⟩]⟩,
  ⟨"ERR_FIRST_DEFERRED", ERR_FIRST_DEFERRED, [
    ⟨63, 63, .w1c, 0x0, [.power]⟩,
    ⟨62, 56, .rsv, 0x0, [.power]⟩,
    ⟨55, 48, .ro, 0x0, [.power]⟩,
    ⟨47, 45, .rsv, 0x0, [.power]⟩,
    ⟨44, 42, .ro, 0x0, [.power]⟩,
    ⟨41, 40, .ro, 0x0, [.power]⟩,
    ⟨39, 24, .ro, 0x0, [.power]⟩,
    ⟨23, 0, .ro, 0x0, [.power]⟩]⟩,
  ⟨"ERR_FIRST_FATAL", ERR_FIRST_FATAL, [
    ⟨63, 63, .w1c, 0x0, [.power]⟩,
    ⟨62, 56, .rsv, 0x0, [.power]⟩,
    ⟨55, 48, .ro, 0x0, [.power]⟩,
    ⟨47, 45, .rsv, 0x0, [.power]⟩,
    ⟨44, 42, .ro, 0x0, [.power]⟩,
    ⟨41, 40, .ro, 0x0, [.power]⟩,
    ⟨39, 24, .ro, 0x0, [.power]⟩,
    ⟨23, 0, .ro, 0x0, [.power]⟩]⟩]

end Sys2Proof.Machine
end

