-- ==== Sys2Proof/Machine/RegsB.lean ====
section
/-!
DEFINITION. Reduction, update, cornice and host blocks: every register and field, from the field tables of the spec.
-/
namespace Sys2Proof.Machine

/-! ### RED -/

/-- MODE_RED, R509. -/
def MODE_RED : Reg :=
  ⟨.red, 0x10000, false, 0x0, 1, 0x0, []⟩
def MODE_RED_EXPERT : Fld := ⟨MODE_RED, 16, 16⟩
def MODE_RED_PRESET : Fld := ⟨MODE_RED, 7, 0⟩

/-- RED_EXPERT, Table 10.16. -/
def RED_EXPERT : Reg :=
  ⟨.red, 0x10008, false, 0x0, 1, 0x7D000000000, []⟩
def RED_EXPERT_DEADLINE_US : Fld := ⟨RED_EXPERT, 47, 32⟩
def RED_EXPERT_KEEP_CONTRIB : Fld := ⟨RED_EXPERT, 3, 3⟩
def RED_EXPERT_AVERAGE : Fld := ⟨RED_EXPERT, 1, 0⟩

/-- RED_BLK_STATUS, Table 10.16. -/
def RED_BLK_STATUS : Reg :=
  ⟨.red, 0x10010, false, 0x0, 1, 0x0, []⟩
def RED_BLK_STATUS_CARRY_LOST : Fld := ⟨RED_BLK_STATUS, 2, 2⟩
def RED_BLK_STATUS_CFG_ERR : Fld := ⟨RED_BLK_STATUS, 1, 1⟩
def RED_BLK_STATUS_PRESET_ERR : Fld := ⟨RED_BLK_STATUS, 0, 0⟩

/-- BUCKET_TABLE, Table 10.16. -/
def BUCKET_TABLE : Reg :=
  ⟨.red, 0x10018, false, 0x0, 1, 0x0, []⟩
def BUCKET_TABLE_BASE : Fld := ⟨BUCKET_TABLE, 47, 12⟩

/-- STATUS_ARRAY, Table 10.16. -/
def STATUS_ARRAY : Reg :=
  ⟨.red, 0x10020, false, 0x0, 1, 0x0, []⟩
def STATUS_ARRAY_BASE : Fld := ⟨STATUS_ARRAY, 47, 12⟩

/-- EPOCH, Table 10.16. -/
def EPOCH : Reg :=
  ⟨.red, 0x10028, false, 0x0, 1, 0x0, []⟩
def EPOCH_EPOCH : Fld := ⟨EPOCH, 15, 0⟩

/-- GROUP_CFG, Table 10.16. -/
def GROUP_CFG : Reg :=
  ⟨.red, 0x10100, false, 0x40, 16, 0x3000000, []⟩
def GROUP_CFG_ENABLE : Fld := ⟨GROUP_CFG, 63, 63⟩
def GROUP_CFG_ROLE : Fld := ⟨GROUP_CFG, 62, 62⟩
def GROUP_CFG_NRANKS : Fld := ⟨GROUP_CFG, 61, 48⟩
def GROUP_CFG_MY_RANK : Fld := ⟨GROUP_CFG, 47, 34⟩
def GROUP_CFG_CLASS : Fld := ⟨GROUP_CFG, 33, 33⟩
def GROUP_CFG_RING_EN : Fld := ⟨GROUP_CFG, 32, 32⟩
def GROUP_CFG_RING : Fld := ⟨GROUP_CFG, 31, 26⟩
def GROUP_CFG_STRAGGLER : Fld := ⟨GROUP_CFG, 25, 24⟩
def GROUP_CFG_NAN : Fld := ⟨GROUP_CFG, 23, 22⟩

/-- RANK_TABLE, Table 10.16. -/
def RANK_TABLE : Reg :=
  ⟨.red, 0x10108, false, 0x40, 16, 0x0, []⟩
def RANK_TABLE_BASE : Fld := ⟨RANK_TABLE, 47, 6⟩

/-- NOISE_ADDR, Table 10.16. -/
def NOISE_ADDR : Reg :=
  ⟨.red, 0x10110, false, 0x40, 16, 0x0, []⟩
def NOISE_ADDR_BASE : Fld := ⟨NOISE_ADDR, 47, 12⟩

/-- GROUP_STATUS, Table 10.16. -/
def GROUP_STATUS : Reg :=
  ⟨.red, 0x10118, false, 0x40, 16, 0x0, []⟩
def GROUP_STATUS_SUSPECT_HOPS : Fld := ⟨GROUP_STATUS, 63, 48⟩
def GROUP_STATUS_IN_FLIGHT : Fld := ⟨GROUP_STATUS, 39, 33⟩
def GROUP_STATUS_BUCKETS_FINAL : Fld := ⟨GROUP_STATUS, 32, 0⟩

/-- STAGE_BASE, Table 10.16. -/
def STAGE_BASE : Reg :=
  ⟨.red, 0x11000, false, 0x40, 4, 0x0, []⟩
def STAGE_BASE_BASE : Fld := ⟨STAGE_BASE, 47, 12⟩

/-- STAGE_SIZE, Table 10.16. -/
def STAGE_SIZE : Reg :=
  ⟨.red, 0x11008, false, 0x40, 4, 0x0, []⟩
def STAGE_SIZE_SIZE : Fld := ⟨STAGE_SIZE, 39, 12⟩

/-- STEP_READY, Table 10.16. -/
def STEP_READY : Reg :=
  ⟨.red, 0x11010, false, 0x40, 4, 0x0, []⟩
def STEP_READY_STEP : Fld := ⟨STEP_READY, 39, 0⟩

/-- ADMIT_STALL, Table 10.16. -/
def ADMIT_STALL : Reg :=
  ⟨.red, 0x11018, false, 0x40, 4, 0x0, []⟩
def ADMIT_STALL_CYCLES : Fld := ⟨ADMIT_STALL, 63, 0⟩

/-- CAIRN_COUNTS, Table 10.16. -/
def CAIRN_COUNTS : Reg :=
  ⟨.red, 0x11020, false, 0x40, 4, 0x0, []⟩
def CAIRN_COUNTS_RETRIES : Fld := ⟨CAIRN_COUNTS, 63, 32⟩
def CAIRN_COUNTS_FAILED : Fld := ⟨CAIRN_COUNTS, 31, 0⟩

/-- The field tables of the RED block. -/
def regsRED : List RegRow := [
  ⟨"MODE_RED", MODE_RED, [
    ⟨63, 17, .rsv, 0x0, [.power, .package, .function]⟩,
    ⟨16, 16, .rw, 0x0, [.power, .package, .function]⟩,
    ⟨15, 8, .rsv, 0x0, [.power, .package, .function]⟩,
    ⟨7, 0, .rw, 0x0, [.power, .package, .function]⟩]⟩,
  ⟨"RED_EXPERT", RED_EXPERT, [
    ⟨63, 48, .rsv, 0x0, [.power, .package, .function]⟩,
    ⟨47, 32, .rw, 0x7D0, [.power, .package, .function]⟩,
    ⟨31, 4, .rsv, 0x0, [.power, .package, .function]⟩,
    ⟨3, 3, .rw, 0x0, [.power, .package, .function]⟩,
    ⟨2, 2, .rsv, 0x0, [.power, .package, .function]⟩,
    ⟨1, 0, .rw, 0x0, [.power, .package, .function]⟩]⟩,
  ⟨"RED_BLK_STATUS", RED_BLK_STATUS, [
    ⟨63, 3, .rsv, 0x0, [.power, .package, .function]⟩,
    ⟨2, 2, .w1c, 0x0, [.power, .package, .function]⟩,
    ⟨1, 1, .w1c, 0x0, [.power, .package, .function]⟩,
    ⟨0, 0, .w1c, 0x0, [.power, .package, .function]⟩]⟩,
  ⟨"BUCKET_TABLE", BUCKET_TABLE, [
    ⟨63, 48, .rsv, 0x0, [.power, .package, .function]⟩,
    ⟨47, 12, .rw, 0x0, [.power, .package, .function]⟩,
    ⟨11, 0, .rsv, 0x0, [.power, .package, .function]⟩]⟩,
  ⟨"STATUS_ARRAY", STATUS_ARRAY, [
    ⟨63, 48, .rsv, 0x0, [.power, .package, .function]⟩,
    ⟨47, 12, .rw, 0x0, [.power, .package, .function]⟩,
    ⟨11, 0, .rsv, 0x0, [.power, .package, .function]⟩]⟩,
  ⟨"EPOCH", EPOCH, [
    ⟨63, 16, .rsv, 0x0, [.power, .package, .function]⟩,
    ⟨15, 0, .ro, 0x0, [.power, .package, .function]⟩]⟩,
  ⟨"GROUP_CFG", GROUP_CFG, [
    ⟨63, 63, .rw, 0x0, [.power, .package, .function]⟩,
    ⟨62, 62, .rw, 0x0, [.power, .package, .function]⟩,
    ⟨61, 48, .rw, 0x0, [.power, .package, .function]⟩,
    ⟨47, 34, .rw, 0x0, [.power, .package, .function]⟩,
    ⟨33, 33, .rw, 0x0, [.power, .package, .function]⟩,
    ⟨32, 32, .rw, 0x0, [.power, .package, .function]⟩,
    ⟨31, 26, .rw, 0x0, [.power, .package, .function]⟩,
    ⟨25, 24, .rw, 0x3, [.power, .package, .function]⟩,
    ⟨23, 22, .rw, 0x0, [.power, .package, .function]⟩,
    ⟨21, 0, .rsv, 0x0, [.power, .package, .function]⟩]⟩,
  ⟨"RANK_TABLE", RANK_TABLE, [
    ⟨63, 48, .rsv, 0x0, [.power, .package, .function]⟩,
    ⟨47, 6, .rw, 0x0, [.power, .package, .function]⟩,
    ⟨5, 0, .rsv, 0x0, [.power, .package, .function]⟩]⟩,
  ⟨"NOISE_ADDR", NOISE_ADDR, [
    ⟨63, 48, .rsv, 0x0, [.power, .package, .function]⟩,
    ⟨47, 12, .rw, 0x0, [.power, .package, .function]⟩,
    ⟨11, 0, .rsv, 0x0, [.power, .package, .function]⟩]⟩,
  ⟨"GROUP_STATUS", GROUP_STATUS, [
    ⟨63, 48, .ro, 0x0, [.power, .package, .function, .refuge]⟩,
    ⟨47, 40, .rsv, 0x0, [.power, .package, .function]⟩,
    ⟨39, 33, .ro, 0x0, [.power, .package, .function, .refuge]⟩,
    ⟨32, 0, .ro, 0x0, [.power, .package, .function, .refuge]⟩]⟩,
  ⟨"STAGE_BASE", STAGE_BASE, [
    ⟨63, 48, .rsv, 0x0, [.power, .package]⟩,
    ⟨47, 12, .rw, 0x0, [.power, .package]⟩,
    ⟨11, 0, .rsv, 0x0, [.power, .package]⟩]⟩,
  ⟨"STAGE_SIZE", STAGE_SIZE, [
    ⟨63, 40, .rsv, 0x0, [.power, .package]⟩,
    ⟨39, 12, .rw, 0x0, [.power, .package]⟩,
    ⟨11, 0, .rsv, 0x0, [.power, .package]⟩]⟩,
  ⟨"STEP_READY", STEP_READY, [
    ⟨63, 40, .rsv, 0x0, []⟩,
    ⟨39, 0, .wo, 0x0, []⟩]⟩,
  ⟨"ADMIT_STALL", ADMIT_STALL, [
    ⟨63, 0, .ro, 0x0, [.power, .package, .die, .refuge]⟩]⟩,
  ⟨"CAIRN_COUNTS", CAIRN_COUNTS, [
    ⟨63, 32, .ro, 0x0, [.power, .package, .die, .refuge]⟩,
    ⟨31, 0, .ro, 0x0, [.power, .package, .die, .refuge]⟩]⟩]

/-! ### UPD -/

/-- MODE_UPD, R509. -/
def MODE_UPD : Reg :=
  ⟨.upd, 0x12000, false, 0x0, 1, 0x0, []⟩
def MODE_UPD_EXPERT : Fld := ⟨MODE_UPD, 16, 16⟩
def MODE_UPD_PRESET : Fld := ⟨MODE_UPD, 7, 0⟩

/-- UPD_EXPERT, Table 11.13. -/
def UPD_EXPERT : Reg :=
  ⟨.upd, 0x12008, false, 0x0, 1, 0x110, []⟩
def UPD_EXPERT_AUTO_RECOVER : Fld := ⟨UPD_EXPERT, 8, 8⟩
def UPD_EXPERT_PREFETCH_DEPTH : Fld := ⟨UPD_EXPERT, 6, 0⟩

/-- UPD_BLK_STATUS, Table 11.13. -/
def UPD_BLK_STATUS : Reg :=
  ⟨.upd, 0x12010, false, 0x0, 1, 0x0, []⟩
def UPD_BLK_STATUS_DUP_START : Fld := ⟨UPD_BLK_STATUS, 63, 48⟩
def UPD_BLK_STATUS_CMD_ERR : Fld := ⟨UPD_BLK_STATUS, 1, 1⟩
def UPD_BLK_STATUS_PRESET_ERR : Fld := ⟨UPD_BLK_STATUS, 0, 0⟩

/-- STATE_TABLE, Table 11.13. -/
def STATE_TABLE : Reg :=
  ⟨.upd, 0x12018, false, 0x0, 1, 0x0, []⟩
def STATE_TABLE_BASE : Fld := ⟨STATE_TABLE, 47, 12⟩

/-- UPD_STATUS, Table 11.13. -/
def UPD_STATUS : Reg :=
  ⟨.upd, 0x12020, false, 0x0, 1, 0x0, []⟩
def UPD_STATUS_BASE : Fld := ⟨UPD_STATUS, 47, 12⟩

/-- PROG_BASE, Table 11.13. -/
def PROG_BASE : Reg :=
  ⟨.upd, 0x12028, false, 0x0, 1, 0x0, []⟩
def PROG_BASE_BASE : Fld := ⟨PROG_BASE, 47, 12⟩

/-- UPD_CMD, Table 11.13. -/
def UPD_CMD : Reg :=
  ⟨.upd, 0x12030, false, 0x0, 1, 0x0, []⟩
def UPD_CMD_RECOVER : Fld := ⟨UPD_CMD, 63, 63⟩
def UPD_CMD_START : Fld := ⟨UPD_CMD, 62, 62⟩
def UPD_CMD_BUCKET : Fld := ⟨UPD_CMD, 11, 0⟩

/-- JOURNAL_BASE, Table 11.13. -/
def JOURNAL_BASE : Reg :=
  ⟨.upd, 0x13000, false, 0x100, 4, 0x0, []⟩
def JOURNAL_BASE_BASE : Fld := ⟨JOURNAL_BASE, 47, 12⟩

/-- WINDOW_BASE, Table 11.13. -/
def WINDOW_BASE : Reg :=
  ⟨.upd, 0x13008, false, 0x100, 4, 0x0, []⟩
def WINDOW_BASE_BASE : Fld := ⟨WINDOW_BASE, 47, 12⟩

/-- ENG_STATUS, Table 11.13. -/
def ENG_STATUS : Reg :=
  ⟨.upd, 0x13040, false, 0x40, 15, 0x0, []⟩
def ENG_STATUS_COMMITTED : Fld := ⟨ENG_STATUS, 63, 32⟩
def ENG_STATUS_JOURNAL_USED : Fld := ⟨ENG_STATUS, 31, 23⟩
def ENG_STATUS_WINDOW_USED : Fld := ⟨ENG_STATUS, 22, 16⟩
def ENG_STATUS_IN_FLIGHT : Fld := ⟨ENG_STATUS, 2, 0⟩

/-- STATE_MISS, Table 11.13. -/
def STATE_MISS : Reg :=
  ⟨.upd, 0x13048, false, 0x40, 15, 0x0, []⟩
def STATE_MISS_COUNT : Fld := ⟨STATE_MISS, 63, 0⟩

/-- FETCH_WAIT_CYCLES, Table 11.13. -/
def FETCH_WAIT_CYCLES : Reg :=
  ⟨.upd, 0x13050, false, 0x40, 15, 0x0, []⟩
def FETCH_WAIT_CYCLES_CYCLES : Fld := ⟨FETCH_WAIT_CYCLES, 63, 0⟩

/-- JOURNAL_STALL, Table 11.13. -/
def JOURNAL_STALL : Reg :=
  ⟨.upd, 0x13058, false, 0x40, 15, 0x0, []⟩
def JOURNAL_STALL_CYCLES : Fld := ⟨JOURNAL_STALL, 63, 0⟩

/-- UPD_FAULT, Table 11.13. -/
def UPD_FAULT : Reg :=
  ⟨.upd, 0x13060, false, 0x40, 15, 0x0, []⟩
def UPD_FAULT_VALID : Fld := ⟨UPD_FAULT, 63, 63⟩
def UPD_FAULT_BUCKET : Fld := ⟨UPD_FAULT, 51, 40⟩
def UPD_FAULT_SLOT : Fld := ⟨UPD_FAULT, 39, 36⟩
def UPD_FAULT_PC : Fld := ⟨UPD_FAULT, 13, 8⟩
def UPD_FAULT_CODE : Fld := ⟨UPD_FAULT, 7, 0⟩

/-- The field tables of the UPD block. -/
def regsUPD : List RegRow := [
  ⟨"MODE_UPD", MODE_UPD, [
    ⟨63, 17, .rsv, 0x0, [.power, .package, .function]⟩,
    ⟨16, 16, .rw, 0x0, [.power, .package, .function]⟩,
    ⟨15, 8, .rsv, 0x0, [.power, .package, .function]⟩,
    ⟨7, 0, .rw, 0x0, [.power, .package, .function]⟩]⟩,
  ⟨"UPD_EXPERT", UPD_EXPERT, [
    ⟨63, 9, .rsv, 0x0, [.power, .package, .function]⟩,
    ⟨8, 8, .rw, 0x1, [.power, .package, .function]⟩,
    ⟨7, 7, .rsv, 0x0, [.power, .package, .function]⟩,
    ⟨6, 0, .rw, 0x10, [.power, .package, .function]⟩]⟩,
  ⟨"UPD_BLK_STATUS", UPD_BLK_STATUS, [
    ⟨63, 48, .ro, 0x0, [.power, .package, .function, .refuge]⟩,
    ⟨47, 2, .rsv, 0x0, [.power, .package, .function]⟩,
    ⟨1, 1, .w1c, 0x0, [.power, .package, .function]⟩,
    ⟨0, 0, .w1c, 0x0, [.power, .package, .function]⟩]⟩,
  ⟨"STATE_TABLE", STATE_TABLE, [
    ⟨63, 48, .rsv, 0x0, [.power, .package]⟩,
    ⟨47, 12, .rw, 0x0, [.power, .package]⟩,
    ⟨11, 0, .rsv, 0x0, [.power, .package]⟩]⟩,
  ⟨"UPD_STATUS", UPD_STATUS, [
    ⟨63, 48, .rsv, 0x0, [.power, .package]⟩,
    ⟨47, 12, .rw, 0x0, [.power, .package]⟩,
    ⟨11, 0, .rsv, 0x0, [.power, .package]⟩]⟩,
  ⟨"PROG_BASE", PROG_BASE, [
    ⟨63, 48, .rsv, 0x0, [.power, .package]⟩,
    ⟨47, 12, .rw, 0x0, [.power, .package]⟩,
    ⟨11, 0, .rsv, 0x0, [.power, .package]⟩]⟩,
  ⟨"UPD_CMD", UPD_CMD, [
    ⟨63, 63, .wo, 0x0, []⟩,
    ⟨62, 62, .wo, 0x0, []⟩,
    ⟨61, 12, .rsv, 0x0, []⟩,
    ⟨11, 0, .wo, 0x0, []⟩]⟩,
  ⟨"JOURNAL_BASE", JOURNAL_BASE, [
    ⟨63, 48, .rsv, 0x0, [.power, .package]⟩,
    ⟨47, 12, .rw, 0x0, [.power, .package]⟩,
    ⟨11, 0, .rsv, 0x0, [.power, .package]⟩]⟩,
  ⟨"WINDOW_BASE", WINDOW_BASE, [
    ⟨63, 48, .rsv, 0x0, [.power, .package]⟩,
    ⟨47, 12, .rw, 0x0, [.power, .package]⟩,
    ⟨11, 0, .rsv, 0x0, [.power, .package]⟩]⟩,
  ⟨"ENG_STATUS", ENG_STATUS, [
    ⟨63, 32, .ro, 0x0, [.power, .package, .die, .refuge]⟩,
    ⟨31, 23, .ro, 0x0, [.power, .package, .die, .refuge]⟩,
    ⟨22, 16, .ro, 0x0, [.power, .package, .die, .refuge]⟩,
    ⟨15, 3, .rsv, 0x0, [.power, .package, .die]⟩,
    ⟨2, 0, .ro, 0x0, [.power, .package, .die, .refuge]⟩]⟩,
  ⟨"STATE_MISS", STATE_MISS, [
    ⟨63, 0, .ro, 0x0, [.power, .package, .die, .refuge]⟩]⟩,
  ⟨"FETCH_WAIT_CYCLES", FETCH_WAIT_CYCLES, [
    ⟨63, 0, .ro, 0x0, [.power, .package, .die, .refuge]⟩]⟩,
  ⟨"JOURNAL_STALL", JOURNAL_STALL, [
    ⟨63, 0, .ro, 0x0, [.power, .package, .die, .refuge]⟩]⟩,
  ⟨"UPD_FAULT", UPD_FAULT, [
    ⟨63, 63, .w1c, 0x0, [.power, .package, .die, .refuge]⟩,
    ⟨62, 52, .rsv, 0x0, [.power, .package, .die]⟩,
    ⟨51, 40, .ro, 0x0, [.power, .package, .die, .refuge]⟩,
    ⟨39, 36, .ro, 0x0, [.power, .package, .die, .refuge]⟩,
    ⟨35, 14, .rsv, 0x0, [.power, .package, .die]⟩,
    ⟨13, 8, .ro, 0x0, [.power, .package, .die, .refuge]⟩,
    ⟨7, 0, .ro, 0x0, [.power, .package, .die, .refuge]⟩]⟩]

/-! ### COR -/

/-- MODE_COR, R509. -/
def MODE_COR : Reg :=
  ⟨.cor, 0x14000, false, 0x0, 1, 0x0, []⟩
def MODE_COR_EXPERT : Fld := ⟨MODE_COR, 16, 16⟩
def MODE_COR_PRESET : Fld := ⟨MODE_COR, 7, 0⟩

/-- CORNICE_EXPERT, Table 12.12. -/
def CORNICE_EXPERT : Reg :=
  ⟨.cor, 0x14008, false, 0x0, 1, 0x140F000303, []⟩
def CORNICE_EXPERT_REJOIN_HOLD_MS : Fld := ⟨CORNICE_EXPERT, 47, 32⟩
def CORNICE_EXPERT_GATE_FLAG : Fld := ⟨CORNICE_EXPERT, 27, 16⟩
def CORNICE_EXPERT_COLLAPSE_LIMIT : Fld := ⟨CORNICE_EXPERT, 11, 8⟩
def CORNICE_EXPERT_RUNAHEAD : Fld := ⟨CORNICE_EXPERT, 1, 1⟩
def CORNICE_EXPERT_CORNICE_EN : Fld := ⟨CORNICE_EXPERT, 0, 0⟩

/-- CORNICE_BLK_STATUS, Table 12.12. -/
def CORNICE_BLK_STATUS : Reg :=
  ⟨.cor, 0x14010, false, 0x0, 1, 0x0, []⟩
def CORNICE_BLK_STATUS_IGNORED_ORDERS : Fld := ⟨CORNICE_BLK_STATUS, 63, 48⟩
def CORNICE_BLK_STATUS_CMD_ERR : Fld := ⟨CORNICE_BLK_STATUS, 2, 2⟩
def CORNICE_BLK_STATUS_CFG_ERR : Fld := ⟨CORNICE_BLK_STATUS, 1, 1⟩
def CORNICE_BLK_STATUS_PRESET_ERR : Fld := ⟨CORNICE_BLK_STATUS, 0, 0⟩

/-- GATE_MAP, Table 12.12. -/
def GATE_MAP : Reg :=
  ⟨.cor, 0x14018, false, 0x0, 1, 0x0, []⟩
def GATE_MAP_BASE : Fld := ⟨GATE_MAP, 47, 12⟩

/-- CORNICE_STATUS, Table 12.12. -/
def CORNICE_STATUS : Reg :=
  ⟨.cor, 0x14020, false, 0x0, 1, 0x0, []⟩
def CORNICE_STATUS_STEP : Fld := ⟨CORNICE_STATUS, 63, 24⟩
def CORNICE_STATUS_STATE : Fld := ⟨CORNICE_STATUS, 23, 20⟩
def CORNICE_STATUS_TRY : Fld := ⟨CORNICE_STATUS, 19, 12⟩
def CORNICE_STATUS_STALE : Fld := ⟨CORNICE_STATUS, 11, 8⟩
def CORNICE_STATUS_RESHARD_PENDING : Fld := ⟨CORNICE_STATUS, 7, 7⟩
def CORNICE_STATUS_HALTED : Fld := ⟨CORNICE_STATUS, 6, 6⟩

/-- CORNICE_CMD, Table 12.12. -/
def CORNICE_CMD : Reg :=
  ⟨.cor, 0x14028, false, 0x0, 1, 0x0, []⟩
def CORNICE_CMD_RESHARD : Fld := ⟨CORNICE_CMD, 63, 63⟩
def CORNICE_CMD_MODE : Fld := ⟨CORNICE_CMD, 62, 62⟩
def CORNICE_CMD_RESUME : Fld := ⟨CORNICE_CMD, 61, 61⟩
def CORNICE_CMD_CLEAR_STALE : Fld := ⟨CORNICE_CMD, 60, 60⟩
def CORNICE_CMD_DIES : Fld := ⟨CORNICE_CMD, 3, 0⟩

/-- COLLAPSE_INFO, Table 12.12. -/
def COLLAPSE_INFO : Reg :=
  ⟨.cor, 0x14030, false, 0x0, 1, 0x0, []⟩
def COLLAPSE_INFO_COUNT : Fld := ⟨COLLAPSE_INFO, 63, 48⟩
def COLLAPSE_INFO_CAUSE : Fld := ⟨COLLAPSE_INFO, 47, 40⟩
def COLLAPSE_INFO_STEP : Fld := ⟨COLLAPSE_INFO, 39, 0⟩

/-- CSTORE_BASE, Table 12.12. -/
def CSTORE_BASE : Reg :=
  ⟨.cor, 0x15000, false, 0x40, 4, 0x0, []⟩
def CSTORE_BASE_BASE : Fld := ⟨CSTORE_BASE, 47, 12⟩

/-- CSTORE_SIZE, Table 12.12. -/
def CSTORE_SIZE : Reg :=
  ⟨.cor, 0x15008, false, 0x40, 4, 0x0, []⟩
def CSTORE_SIZE_SIZE : Fld := ⟨CSTORE_SIZE, 39, 12⟩

/-- CINDEX_BASE, Table 12.12. -/
def CINDEX_BASE : Reg :=
  ⟨.cor, 0x15010, false, 0x40, 4, 0x0, []⟩
def CINDEX_BASE_BASE : Fld := ⟨CINDEX_BASE, 47, 12⟩

/-- CSTORE_USE, Table 12.12. -/
def CSTORE_USE : Reg :=
  ⟨.cor, 0x15018, false, 0x40, 4, 0x0, []⟩
def CSTORE_USE_HIGH_WATER : Fld := ⟨CSTORE_USE, 63, 32⟩
def CSTORE_USE_USED : Fld := ⟨CSTORE_USE, 31, 0⟩

/-- The field tables of the COR block. -/
def regsCOR : List RegRow := [
  ⟨"MODE_COR", MODE_COR, [
    ⟨63, 17, .rsv, 0x0, [.power, .package, .function]⟩,
    ⟨16, 16, .rw, 0x0, [.power, .package, .function]⟩,
    ⟨15, 8, .rsv, 0x0, [.power, .package, .function]⟩,
    ⟨7, 0, .rw, 0x0, [.power, .package, .function]⟩]⟩,
  ⟨"CORNICE_EXPERT", CORNICE_EXPERT, [
    ⟨63, 48, .rsv, 0x0, [.power, .package, .function]⟩,
    ⟨47, 32, .rw, 0x14, [.power, .package, .function]⟩,
    ⟨31, 28, .rsv, 0x0, [.power, .package, .function]⟩,
    ⟨27, 16, .rw, 0xF00, [.power, .package, .function]⟩,
    ⟨15, 12, .rsv, 0x0, [.power, .package, .function]⟩,
    ⟨11, 8, .rw, 0x3, [.power, .package, .function]⟩,
    ⟨7, 2, .rsv, 0x0, [.power, .package, .function]⟩,
    ⟨1, 1, .rw, 0x1, [.power, .package, .function]⟩,
    ⟨0, 0, .rw, 0x1, [.power, .package, .function]⟩]⟩,
  ⟨"CORNICE_BLK_STATUS", CORNICE_BLK_STATUS, [
    ⟨63, 48, .ro, 0x0, [.power, .package, .function, .refuge]⟩,
    ⟨47, 3, .rsv, 0x0, [.power, .package, .function]⟩,
    ⟨2, 2, .w1c, 0x0, [.power, .package, .function]⟩,
    ⟨1, 1, .w1c, 0x0, [.power, .package, .function]⟩,
    ⟨0, 0, .w1c, 0x0, [.power, .package, .function]⟩]⟩,
  ⟨"GATE_MAP", GATE_MAP, [
    ⟨63, 48, .rsv, 0x0, [.power, .package, .function]⟩,
    ⟨47, 12, .rw, 0x0, [.power, .package, .function]⟩,
    ⟨11, 0, .rsv, 0x0, [.power, .package, .function]⟩]⟩,
  ⟨"CORNICE_STATUS", CORNICE_STATUS, [
    ⟨63, 24, .ro, 0x0, [.power, .package, .function, .refuge]⟩,
    ⟨23, 20, .ro, 0x0, [.power, .package, .function, .refuge]⟩,
    ⟨19, 12, .ro, 0x0, [.power, .package, .function, .refuge]⟩,
    ⟨11, 8, .ro, 0x0, [.power, .package, .function, .refuge]⟩,
    ⟨7, 7, .ro, 0x0, [.power, .package, .function, .refuge]⟩,
    ⟨6, 6, .ro, 0x0, [.power, .package, .function, .refuge]⟩,
    ⟨5, 0, .rsv, 0x0, [.power, .package, .function]⟩]⟩,
  ⟨"CORNICE_CMD", CORNICE_CMD, [
    ⟨63, 63, .wo, 0x0, []⟩,
    ⟨62, 62, .wo, 0x0, []⟩,
    ⟨61, 61, .wo, 0x0, []⟩,
    ⟨60, 60, .wo, 0x0, []⟩,
    ⟨59, 4, .rsv, 0x0, []⟩,
    ⟨3, 0, .wo, 0x0, []⟩]⟩,
  ⟨"COLLAPSE_INFO", COLLAPSE_INFO, [
    ⟨63, 48, .ro, 0x0, [.power, .package, .function, .refuge]⟩,
    ⟨47, 40, .ro, 0x0, [.power, .package, .function, .refuge]⟩,
    ⟨39, 0, .ro, 0x0, [.power, .package, .function, .refuge]⟩]⟩,
  ⟨"CSTORE_BASE", CSTORE_BASE, [
    ⟨63, 48, .rsv, 0x0, [.power, .package]⟩,
    ⟨47, 12, .rw, 0x0, [.power, .package]⟩,
    ⟨11, 0, .rsv, 0x0, [.power, .package]⟩]⟩,
  ⟨"CSTORE_SIZE", CSTORE_SIZE, [
    ⟨63, 40, .rsv, 0x0, [.power, .package]⟩,
    ⟨39, 12, .rw, 0x0, [.power, .package]⟩,
    ⟨11, 0, .rsv, 0x0, [.power, .package]⟩]⟩,
  ⟨"CINDEX_BASE", CINDEX_BASE, [
    ⟨63, 48, .rsv, 0x0, [.power, .package]⟩,
    ⟨47, 12, .rw, 0x0, [.power, .package]⟩,
    ⟨11, 0, .rsv, 0x0, [.power, .package]⟩]⟩,
  ⟨"CSTORE_USE", CSTORE_USE, [
    ⟨63, 32, .ro, 0x0, [.power, .package, .refuge]⟩,
    ⟨31, 0, .ro, 0x0, [.power, .package, .refuge]⟩]⟩]

/-! ### HOST -/

/-- MODE_HOST, R509. -/
def MODE_HOST : Reg :=
  ⟨.host, 0x20000, false, 0x0, 1, 0x0, []⟩
def MODE_HOST_EXPERT : Fld := ⟨MODE_HOST, 16, 16⟩
def MODE_HOST_PRESET : Fld := ⟨MODE_HOST, 7, 0⟩

/-- HOST_EXPERT, Table 15.11. -/
def HOST_EXPERT : Reg :=
  ⟨.host, 0x20008, false, 0x0, 1, 0x8000A0000, []⟩
def HOST_EXPERT_FETCH_BURST : Fld := ⟨HOST_EXPERT, 39, 32⟩
def HOST_EXPERT_POLL_US : Fld := ⟨HOST_EXPERT, 31, 16⟩
def HOST_EXPERT_DOORBELL_MODE : Fld := ⟨HOST_EXPERT, 0, 0⟩

/-- HOST_BLK_STATUS, Table 15.11. -/
def HOST_BLK_STATUS : Reg :=
  ⟨.host, 0x20010, false, 0x0, 1, 0x0, []⟩
def HOST_BLK_STATUS_ATTACHED : Fld := ⟨HOST_BLK_STATUS, 6, 6⟩
def HOST_BLK_STATUS_BOUND : Fld := ⟨HOST_BLK_STATUS, 5, 5⟩
def HOST_BLK_STATUS_HANDLES_FULL : Fld := ⟨HOST_BLK_STATUS, 4, 4⟩
def HOST_BLK_STATUS_CHAIN_ERR : Fld := ⟨HOST_BLK_STATUS, 3, 3⟩
def HOST_BLK_STATUS_RING_ERR : Fld := ⟨HOST_BLK_STATUS, 2, 2⟩
def HOST_BLK_STATUS_CFG_ERR : Fld := ⟨HOST_BLK_STATUS, 1, 1⟩
def HOST_BLK_STATUS_PRESET_ERR : Fld := ⟨HOST_BLK_STATUS, 0, 0⟩

/-- HANDLE_COUNT, Table 15.11. -/
def HANDLE_COUNT : Reg :=
  ⟨.host, 0x20018, false, 0x0, 1, 0x0, []⟩
def HANDLE_COUNT_CLEAR_HW : Fld := ⟨HANDLE_COUNT, 63, 63⟩
def HANDLE_COUNT_HIGH_WATER : Fld := ⟨HANDLE_COUNT, 46, 32⟩
def HANDLE_COUNT_IN_FLIGHT : Fld := ⟨HANDLE_COUNT, 14, 0⟩

/-- SPILL_BASE, Table 15.11. -/
def SPILL_BASE : Reg :=
  ⟨.host, 0x20020, false, 0x0, 1, 0x0, []⟩
def SPILL_BASE_BASE : Fld := ⟨SPILL_BASE, 47, 26⟩

/-- SPILL_STATUS, Table 15.11. -/
def SPILL_STATUS : Reg :=
  ⟨.host, 0x20028, false, 0x0, 1, 0x0, []⟩
def SPILL_STATUS_LOST : Fld := ⟨SPILL_STATUS, 63, 32⟩
def SPILL_STATUS_ENTRIES : Fld := ⟨SPILL_STATUS, 21, 0⟩

/-- HOST_CMD, Table 15.11. -/
def HOST_CMD : Reg :=
  ⟨.host, 0x20030, false, 0x0, 1, 0x0, []⟩
def HOST_CMD_ATTACH : Fld := ⟨HOST_CMD, 63, 63⟩
def HOST_CMD_DETACH : Fld := ⟨HOST_CMD, 62, 62⟩

/-- SF_STATUS, Table 15.11. -/
def SF_STATUS : Reg :=
  ⟨.host, 0x20038, false, 0x0, 1, 0x0, []⟩
def SF_STATUS_BISNP : Fld := ⟨SF_STATUS, 63, 32⟩
def SF_STATUS_OCCUPANCY : Fld := ⟨SF_STATUS, 18, 0⟩

/-- SQ_BASE, Table 15.11. -/
def SQ_BASE : Reg :=
  ⟨.host, 0x21000, false, 0x40, 64, 0x0, []⟩
def SQ_BASE_BASE : Fld := ⟨SQ_BASE, 61, 12⟩

/-- CQ_BASE, Table 15.11. -/
def CQ_BASE : Reg :=
  ⟨.host, 0x21008, false, 0x40, 64, 0x0, []⟩
def CQ_BASE_BASE : Fld := ⟨CQ_BASE, 61, 12⟩

/-- DB_ADDR, Table 15.11. -/
def DB_ADDR : Reg :=
  ⟨.host, 0x21010, false, 0x40, 64, 0x0, []⟩
def DB_ADDR_ADDR : Fld := ⟨DB_ADDR, 61, 6⟩

/-- RING_CFG, Table 15.11. -/
def RING_CFG : Reg :=
  ⟨.host, 0x21018, false, 0x40, 64, 0x6060000000001, []⟩
def RING_CFG_SQ_EN : Fld := ⟨RING_CFG, 63, 63⟩
def RING_CFG_CQ_EN : Fld := ⟨RING_CFG, 62, 62⟩
def RING_CFG_SQ_LOG2 : Fld := ⟨RING_CFG, 52, 48⟩
def RING_CFG_CQ_LOG2 : Fld := ⟨RING_CFG, 44, 40⟩
def RING_CFG_VECTOR : Fld := ⟨RING_CFG, 37, 32⟩
def RING_CFG_MOD_US : Fld := ⟨RING_CFG, 31, 16⟩
def RING_CFG_MOD_COUNT : Fld := ⟨RING_CFG, 15, 0⟩

/-- RING_COUNTS, Table 15.11. -/
def RING_COUNTS : Reg :=
  ⟨.host, 0x21020, false, 0x40, 64, 0x0, []⟩
def RING_COUNTS_POSTED : Fld := ⟨RING_COUNTS, 63, 32⟩
def RING_COUNTS_FETCHED : Fld := ⟨RING_COUNTS, 31, 0⟩

/-- RING_STATE, Table 15.11. -/
def RING_STATE : Reg :=
  ⟨.host, 0x21028, false, 0x40, 64, 0x0, []⟩
def RING_STATE_SPILLED : Fld := ⟨RING_STATE, 63, 32⟩
def RING_STATE_CAUSE : Fld := ⟨RING_STATE, 15, 8⟩
def RING_STATE_STATE : Fld := ⟨RING_STATE, 1, 0⟩

/-- The field tables of the HOST block. -/
def regsHOST : List RegRow := [
  ⟨"MODE_HOST", MODE_HOST, [
    ⟨63, 17, .rsv, 0x0, [.power, .package, .function]⟩,
    ⟨16, 16, .rw, 0x0, [.power, .package, .function]⟩,
    ⟨15, 8, .rsv, 0x0, [.power, .package, .function]⟩,
    ⟨7, 0, .rw, 0x0, [.power, .package, .function]⟩]⟩,
  ⟨"HOST_EXPERT", HOST_EXPERT, [
    ⟨63, 40, .rsv, 0x0, [.power, .package, .function]⟩,
    ⟨39, 32, .rw, 0x8, [.power, .package, .function]⟩,
    ⟨31, 16, .rw, 0xA, [.power, .package, .function]⟩,
    ⟨15, 1, .rsv, 0x0, [.power, .package, .function]⟩,
    ⟨0, 0, .rw, 0x0, [.power, .package, .function]⟩]⟩,
  ⟨"HOST_BLK_STATUS", HOST_BLK_STATUS, [
    ⟨63, 7, .rsv, 0x0, [.power, .package, .function]⟩,
    ⟨6, 6, .ro, 0x0, [.power, .package, .function]⟩,
    ⟨5, 5, .ro, 0x0, [.power, .package]⟩,
    ⟨4, 4, .ro, 0x0, [.power, .package, .function]⟩,
    ⟨3, 3, .w1c, 0x0, [.power, .package, .function]⟩,
    ⟨2, 2, .w1c, 0x0, [.power, .package, .function]⟩,
    ⟨1, 1, .w1c, 0x0, [.power, .package, .function]⟩,
    ⟨0, 0, .w1c, 0x0, [.power, .package, .function]⟩]⟩,
  ⟨"HANDLE_COUNT", HANDLE_COUNT, [
    ⟨63, 63, .wo, 0x0, []⟩,
    ⟨62, 47, .rsv, 0x0, [.power, .package, .function]⟩,
    ⟨46, 32, .ro, 0x0, [.power, .package, .function]⟩,
    ⟨31, 15, .rsv, 0x0, [.power, .package, .function]⟩,
    ⟨14, 0, .ro, 0x0, [.power, .package, .function]⟩]⟩,
  ⟨"SPILL_BASE", SPILL_BASE, [
    ⟨63, 48, .rsv, 0x0, [.power, .package]⟩,
    ⟨47, 26, .rw, 0x0, [.power, .package]⟩,
    ⟨25, 0, .rsv, 0x0, [.power, .package]⟩]⟩,
  ⟨"SPILL_STATUS", SPILL_STATUS, [
    ⟨63, 32, .ro, 0x0, [.power, .package, .function]⟩,
    ⟨31, 22, .rsv, 0x0, [.power, .package, .function]⟩,
    ⟨21, 0, .ro, 0x0, [.power, .package, .function]⟩]⟩,
  ⟨"HOST_CMD", HOST_CMD, [
    ⟨63, 63, .wo, 0x0, []⟩,
    ⟨62, 62, .wo, 0x0, []⟩,
    ⟨61, 0, .rsv, 0x0, []⟩]⟩,
  ⟨"SF_STATUS", SF_STATUS, [
    ⟨63, 32, .ro, 0x0, [.power, .package]⟩,
    ⟨31, 19, .rsv, 0x0, [.power, .package]⟩,
    ⟨18, 0, .ro, 0x0, [.power, .package]⟩]⟩,
  ⟨"SQ_BASE", SQ_BASE, [
    ⟨63, 62, .rsv, 0x0, [.power, .package, .function]⟩,
    ⟨61, 12, .rw, 0x0, [.power, .package, .function]⟩,
    ⟨11, 0, .rsv, 0x0, [.power, .package, .function]⟩]⟩,
  ⟨"CQ_BASE", CQ_BASE, [
    ⟨63, 62, .rsv, 0x0, [.power, .package, .function]⟩,
    ⟨61, 12, .rw, 0x0, [.power, .package, .function]⟩,
    ⟨11, 0, .rsv, 0x0, [.power, .package, .function]⟩]⟩,
  ⟨"DB_ADDR", DB_ADDR, [
    ⟨63, 62, .rsv, 0x0, [.power, .package, .function]⟩,
    ⟨61, 6, .rw, 0x0, [.power, .package, .function]⟩,
    ⟨5, 0, .rsv, 0x0, [.power, .package, .function]⟩]⟩,
  ⟨"RING_CFG", RING_CFG, [
    ⟨63, 63, .rw, 0x0, [.power, .package, .function]⟩,
    ⟨62, 62, .rw, 0x0, [.power, .package, .function]⟩,
    ⟨61, 53, .rsv, 0x0, [.power, .package, .function]⟩,
    ⟨52, 48, .rw, 0x6, [.power, .package, .function]⟩,
    ⟨47, 45, .rsv, 0x0, [.power, .package, .function]⟩,
    ⟨44, 40, .rw, 0x6, [.power, .package, .function]⟩,
    ⟨39, 38, .rsv, 0x0, [.power, .package, .function]⟩,
    ⟨37, 32, .rw, 0x0, [.power, .package, .function]⟩,
    ⟨31, 16, .rw, 0x0, [.power, .package, .function]⟩,
    ⟨15, 0, .rw, 0x1, [.power, .package, .function]⟩]⟩,
  ⟨"RING_COUNTS", RING_COUNTS, [
    ⟨63, 32, .ro, 0x0, [.power, .package, .function]⟩,
    ⟨31, 0, .ro, 0x0, [.power, .package, .function]⟩]⟩,
  ⟨"RING_STATE", RING_STATE, [
    ⟨63, 32, .ro, 0x0, [.power, .package, .function]⟩,
    ⟨31, 16, .rsv, 0x0, [.power, .package, .function]⟩,
    ⟨15, 8, .ro, 0x0, [.power, .package, .function]⟩,
    ⟨7, 2, .rsv, 0x0, [.power, .package, .function]⟩,
    ⟨1, 0, .ro, 0x0, [.power, .package, .function]⟩]⟩]

end Sys2Proof.Machine
end

