-- ==== Sys2Proof/Machine/RegsC.lean ====
section
/-!
DEFINITION. Blocks of a Crest die: every register and field, from the field tables of the spec.
-/
namespace Sys2Proof.Machine

/-! ### CORE -/

/-- MODE_CORE, R509. -/
def MODE_CORE : Reg :=
  ⟨.core, 0x80000, true, 0x0, 1, 0x0, []⟩
def MODE_CORE_EXPERT : Fld := ⟨MODE_CORE, 16, 16⟩
def MODE_CORE_PRESET : Fld := ⟨MODE_CORE, 7, 0⟩

/-- CORE_EXPERT, Table 2.25. -/
def CORE_EXPERT : Reg :=
  ⟨.core, 0x80008, true, 0x0, 1, 0xF0, []⟩
def CORE_EXPERT_CUBE_MASK : Fld := ⟨CORE_EXPERT, 7, 4⟩
def CORE_EXPERT_NARROW_ROUTE : Fld := ⟨CORE_EXPERT, 0, 0⟩

/-- CORE_BLK_STATUS, Table 2.26. -/
def CORE_BLK_STATUS : Reg :=
  ⟨.core, 0x80010, true, 0x0, 1, 0x0, []⟩
def CORE_BLK_STATUS_MASK_ERR : Fld := ⟨CORE_BLK_STATUS, 1, 1⟩
def CORE_BLK_STATUS_PRESET_ERR : Fld := ⟨CORE_BLK_STATUS, 0, 0⟩

/-- CORE_CTRL, Table 2.27. -/
def CORE_CTRL : Reg :=
  ⟨.core, 0x81000, true, 0x40, 96, 0x0, []⟩
def CORE_CTRL_RUN : Fld := ⟨CORE_CTRL, 0, 0⟩

/-- SPUR_ENTRY, Table 2.28. -/
def SPUR_ENTRY : Reg :=
  ⟨.core, 0x81008, true, 0x40, 96, 0x0, []⟩
def SPUR_ENTRY_ENTRY : Fld := ⟨SPUR_ENTRY, 47, 1⟩

/-- CORE_STATUS, Table 2.29. -/
def CORE_STATUS : Reg :=
  ⟨.core, 0x81010, true, 0x40, 96, 0x1000000, []⟩
def CORE_STATUS_FAULT_CODE : Fld := ⟨CORE_STATUS, 39, 32⟩
def CORE_STATUS_TQ_OCC : Fld := ⟨CORE_STATUS, 31, 26⟩
def CORE_STATUS_TQ_FAULT : Fld := ⟨CORE_STATUS, 25, 25⟩
def CORE_STATUS_SPUR_HALTED : Fld := ⟨CORE_STATUS, 24, 24⟩
def CORE_STATUS_TRAP_CAUSE : Fld := ⟨CORE_STATUS, 23, 16⟩
def CORE_STATUS_MOVE_OUT : Fld := ⟨CORE_STATUS, 14, 10⟩
def CORE_STATUS_ACC_BUSY : Fld := ⟨CORE_STATUS, 9, 9⟩
def CORE_STATUS_VEC_BUSY : Fld := ⟨CORE_STATUS, 8, 8⟩

/-- TQ_FAULT_WORD, Table 2.30. -/
def TQ_FAULT_WORD : Reg :=
  ⟨.core, 0x81018, true, 0x40, 96, 0x0, []⟩
def TQ_FAULT_WORD_WORD : Fld := ⟨TQ_FAULT_WORD, 63, 0⟩

/-- ISSUE_STALL, Table 2.30. -/
def ISSUE_STALL : Reg :=
  ⟨.core, 0x81020, true, 0x40, 96, 0x0, []⟩
def ISSUE_STALL_CYCLES : Fld := ⟨ISSUE_STALL, 63, 0⟩

/-- CUBE_BUSY, Table 2.30. -/
def CUBE_BUSY : Reg :=
  ⟨.core, 0x81028, true, 0x40, 96, 0x0, []⟩
def CUBE_BUSY_CYCLES : Fld := ⟨CUBE_BUSY, 63, 0⟩

/-- The field tables of the CORE block. -/
def regsCORE : List RegRow := [
  ⟨"MODE_CORE", MODE_CORE, [
    ⟨63, 17, .rsv, 0x0, [.power, .package, .die]⟩,
    ⟨16, 16, .rw, 0x0, [.power, .package, .die]⟩,
    ⟨15, 8, .rsv, 0x0, [.power, .package, .die]⟩,
    ⟨7, 0, .rw, 0x0, [.power, .package, .die]⟩]⟩,
  ⟨"CORE_EXPERT", CORE_EXPERT, [
    ⟨63, 8, .rsv, 0x0, [.power, .package]⟩,
    ⟨7, 4, .rw, 0xF, [.power, .package, .die]⟩,
    ⟨3, 1, .rsv, 0x0, [.power, .package]⟩,
    ⟨0, 0, .rw, 0x0, [.power, .package, .die]⟩]⟩,
  ⟨"CORE_BLK_STATUS", CORE_BLK_STATUS, [
    ⟨63, 2, .rsv, 0x0, [.power, .package]⟩,
    ⟨1, 1, .w1c, 0x0, [.power, .package, .die]⟩,
    ⟨0, 0, .w1c, 0x0, [.power, .package, .die]⟩]⟩,
  ⟨"CORE_CTRL", CORE_CTRL, [
    ⟨63, 1, .rsv, 0x0, [.power, .package, .die, .core]⟩,
    ⟨0, 0, .rw, 0x0, [.power, .package, .die, .core, .refuge]⟩]⟩,
  ⟨"SPUR_ENTRY", SPUR_ENTRY, [
    ⟨63, 48, .rsv, 0x0, [.power, .package, .die]⟩,
    ⟨47, 1, .rw, 0x0, [.power, .package, .die]⟩,
    ⟨0, 0, .rsv, 0x0, [.power, .package, .die]⟩]⟩,
  ⟨"CORE_STATUS", CORE_STATUS, [
    ⟨63, 40, .rsv, 0x0, [.power, .package, .die, .core]⟩,
    ⟨39, 32, .ro, 0x0, [.power, .package, .die, .core, .refuge]⟩,
    ⟨31, 26, .ro, 0x0, [.power, .package, .die, .core, .refuge]⟩,
    ⟨25, 25, .ro, 0x0, [.power, .package, .die, .core, .refuge]⟩,
    ⟨24, 24, .ro, 0x1, [.power, .package, .die, .core, .refuge]⟩,
    ⟨23, 16, .ro, 0x0, [.power, .package, .die, .core, .refuge]⟩,
    ⟨15, 15, .rsv, 0x0, [.power, .package, .die, .core]⟩,
    ⟨14, 10, .ro, 0x0, [.power, .package, .die, .core, .refuge]⟩,
    ⟨9, 9, .ro, 0x0, [.power, .package, .die, .core, .refuge]⟩,
    ⟨8, 8, .ro, 0x0, [.power, .package, .die, .core, .refuge]⟩,
    ⟨7, 0, .rsv, 0x0, [.power, .package, .die, .core]⟩]⟩,
  ⟨"TQ_FAULT_WORD", TQ_FAULT_WORD, [
    ⟨63, 0, .ro, 0x0, [.power, .package, .die, .core, .refuge]⟩]⟩,
  ⟨"ISSUE_STALL", ISSUE_STALL, [
    ⟨63, 0, .ro, 0x0, [.power, .package, .die, .core, .refuge]⟩]⟩,
  ⟨"CUBE_BUSY", CUBE_BUSY, [
    ⟨63, 0, .ro, 0x0, [.power, .package, .die, .core, .refuge]⟩]⟩]

/-! ### FLAG -/

/-- MODE_FLAG, R509. -/
def MODE_FLAG : Reg :=
  ⟨.flag, 0x84000, true, 0x0, 1, 0x1, []⟩
def MODE_FLAG_EXPERT : Fld := ⟨MODE_FLAG, 16, 16⟩
def MODE_FLAG_PRESET : Fld := ⟨MODE_FLAG, 7, 0⟩

/-- FLAG_EXPERT, Table 3.11. -/
def FLAG_EXPERT : Reg :=
  ⟨.flag, 0x84008, true, 0x0, 1, 0x8, []⟩
def FLAG_EXPERT_EVENT_MASK : Fld := ⟨FLAG_EXPERT, 4, 0⟩

/-- FLAG_BLK_STATUS, Table 3.11. -/
def FLAG_BLK_STATUS : Reg :=
  ⟨.flag, 0x84010, true, 0x0, 1, 0x0, []⟩
def FLAG_BLK_STATUS_PRESET_ERR : Fld := ⟨FLAG_BLK_STATUS, 0, 0⟩

/-- FLAG_SUMMARY, Table 3.11. -/
def FLAG_SUMMARY : Reg :=
  ⟨.flag, 0x84018, true, 0x0, 1, 0x0, []⟩
def FLAG_SUMMARY_CLUSTER_ANY : Fld := ⟨FLAG_SUMMARY, 15, 8⟩
def FLAG_SUMMARY_ANY : Fld := ⟨FLAG_SUMMARY, 4, 0⟩

/-- DIE_ENGINE_FLAGS, Table 3.12. -/
def DIE_ENGINE_FLAGS : Reg :=
  ⟨.flag, 0x84020, true, 0x0, 1, 0x0, []⟩
def DIE_ENGINE_FLAGS_TRAV : Fld := ⟨DIE_ENGINE_FLAGS, 24, 20⟩
def DIE_ENGINE_FLAGS_UPD2 : Fld := ⟨DIE_ENGINE_FLAGS, 19, 15⟩
def DIE_ENGINE_FLAGS_UPD1 : Fld := ⟨DIE_ENGINE_FLAGS, 14, 10⟩
def DIE_ENGINE_FLAGS_UPD0 : Fld := ⟨DIE_ENGINE_FLAGS, 9, 5⟩
def DIE_ENGINE_FLAGS_RED : Fld := ⟨DIE_ENGINE_FLAGS, 4, 0⟩

/-- CORE_FLAGS, Table 3.12. -/
def CORE_FLAGS : Reg :=
  ⟨.flag, 0x84100, true, 0x8, 96, 0x0, []⟩
def CORE_FLAGS_VEC : Fld := ⟨CORE_FLAGS, 9, 5⟩
def CORE_FLAGS_ARR : Fld := ⟨CORE_FLAGS, 4, 0⟩

/-- The field tables of the FLAG block. -/
def regsFLAG : List RegRow := [
  ⟨"MODE_FLAG", MODE_FLAG, [
    ⟨63, 17, .rsv, 0x0, [.power, .package, .die]⟩,
    ⟨16, 16, .rw, 0x0, [.power, .package, .die]⟩,
    ⟨15, 8, .rsv, 0x0, [.power, .package, .die]⟩,
    ⟨7, 0, .rw, 0x1, [.power, .package, .die]⟩]⟩,
  ⟨"FLAG_EXPERT", FLAG_EXPERT, [
    ⟨63, 5, .rsv, 0x0, [.power, .package]⟩,
    ⟨4, 0, .rw, 0x8, [.power, .package, .die]⟩]⟩,
  ⟨"FLAG_BLK_STATUS", FLAG_BLK_STATUS, [
    ⟨63, 1, .rsv, 0x0, [.power, .package]⟩,
    ⟨0, 0, .w1c, 0x0, [.power, .package, .die]⟩]⟩,
  ⟨"FLAG_SUMMARY", FLAG_SUMMARY, [
    ⟨63, 16, .rsv, 0x0, [.power, .package]⟩,
    ⟨15, 8, .ro, 0x0, [.power, .package, .function, .die, .refuge]⟩,
    ⟨7, 5, .rsv, 0x0, [.power, .package]⟩,
    ⟨4, 0, .ro, 0x0, [.power, .package, .function, .die, .refuge]⟩]⟩,
  ⟨"DIE_ENGINE_FLAGS", DIE_ENGINE_FLAGS, [
    ⟨63, 25, .rsv, 0x0, [.power, .package, .function, .die]⟩,
    ⟨24, 20, .w1c, 0x0, [.power, .package, .function, .die, .refuge]⟩,
    ⟨19, 15, .w1c, 0x0, [.power, .package, .function, .die, .refuge]⟩,
    ⟨14, 10, .w1c, 0x0, [.power, .package, .function, .die, .refuge]⟩,
    ⟨9, 5, .w1c, 0x0, [.power, .package, .function, .die, .refuge]⟩,
    ⟨4, 0, .w1c, 0x0, [.power, .package, .function, .die, .refuge]⟩]⟩,
  ⟨"CORE_FLAGS", CORE_FLAGS, [
    ⟨63, 10, .rsv, 0x0, [.power, .package, .function, .die, .core]⟩,
    ⟨9, 5, .w1c, 0x0, [.power, .package, .function, .die, .core, .refuge]⟩,
    ⟨4, 0, .w1c, 0x0, [.power, .package, .function, .die, .core, .refuge]⟩]⟩]

/-! ### TAL -/

/-- MODE_TAL, R509. -/
def MODE_TAL : Reg :=
  ⟨.tal, 0x85000, true, 0x0, 1, 0x0, []⟩
def MODE_TAL_EXPERT : Fld := ⟨MODE_TAL, 16, 16⟩
def MODE_TAL_PRESET : Fld := ⟨MODE_TAL, 7, 0⟩

/-- TALUS_EXPERT, Table 6.12. -/
def TALUS_EXPERT : Reg :=
  ⟨.tal, 0x85008, true, 0x0, 1, 0x1040001800, []⟩
def TALUS_EXPERT_UE_RETIRE_LIMIT : Fld := ⟨TALUS_EXPERT, 39, 32⟩
def TALUS_EXPERT_DEAD_WIRE_RUN : Fld := ⟨TALUS_EXPERT, 31, 24⟩
def TALUS_EXPERT_SCRUB_HOURS : Fld := ⟨TALUS_EXPERT, 15, 8⟩

/-- TALUS_BLK_STATUS, Table 6.12. -/
def TALUS_BLK_STATUS : Reg :=
  ⟨.tal, 0x85010, true, 0x0, 1, 0x0, []⟩
def TALUS_BLK_STATUS_PRESET_ERR : Fld := ⟨TALUS_BLK_STATUS, 0, 0⟩

/-- STACK_STATE, Table 6.13. -/
def STACK_STATE : Reg :=
  ⟨.tal, 0x85100, true, 0x40, 3, 0x0, []⟩
def STACK_STATE_CAUSE : Fld := ⟨STACK_STATE, 7, 4⟩
def STACK_STATE_STATE : Fld := ⟨STACK_STATE, 2, 0⟩

/-- STACK_CTRL, Table 6.13. -/
def STACK_CTRL : Reg :=
  ⟨.tal, 0x85108, true, 0x40, 3, 0x0, []⟩
def STACK_CTRL_CLEAR_COUNTS : Fld := ⟨STACK_CTRL, 1, 1⟩
def STACK_CTRL_RETIRE : Fld := ⟨STACK_CTRL, 0, 0⟩

/-- CE_COUNT, Table 6.13. -/
def CE_COUNT : Reg :=
  ⟨.tal, 0x85110, true, 0x40, 3, 0x0, []⟩
def CE_COUNT_COUNT : Fld := ⟨CE_COUNT, 31, 0⟩

/-- UE_COUNT, Table 6.13. -/
def UE_COUNT : Reg :=
  ⟨.tal, 0x85118, true, 0x40, 3, 0x0, []⟩
def UE_COUNT_COUNT : Fld := ⟨UE_COUNT, 31, 0⟩

/-- DEAD_WIRES_A, Table 6.13. -/
def DEAD_WIRES_A : Reg :=
  ⟨.tal, 0x85120, true, 0x40, 3, 0x0, []⟩
def DEAD_WIRES_A_VALID : Fld := ⟨DEAD_WIRES_A, 47, 40⟩
def DEAD_WIRES_A_SYM : Fld := ⟨DEAD_WIRES_A, 39, 0⟩

/-- DEAD_WIRES_B, Table 6.13. -/
def DEAD_WIRES_B : Reg :=
  ⟨.tal, 0x85128, true, 0x40, 3, 0x0, []⟩
def DEAD_WIRES_B_VALID : Fld := ⟨DEAD_WIRES_B, 47, 40⟩
def DEAD_WIRES_B_SYM : Fld := ⟨DEAD_WIRES_B, 39, 0⟩

/-- STACK_TEMP, Table 6.13. -/
def STACK_TEMP : Reg :=
  ⟨.tal, 0x85130, true, 0x40, 3, 0x0, []⟩
def STACK_TEMP_REFRESH_2X : Fld := ⟨STACK_TEMP, 8, 8⟩
def STACK_TEMP_TEMP : Fld := ⟨STACK_TEMP, 7, 0⟩

/-- SCRUB_POS, Table 6.13. -/
def SCRUB_POS : Reg :=
  ⟨.tal, 0x85138, true, 0x40, 3, 0x0, []⟩
def SCRUB_POS_NEXT_GRANULE : Fld := ⟨SCRUB_POS, 28, 0⟩

/-- The field tables of the TAL block. -/
def regsTAL : List RegRow := [
  ⟨"MODE_TAL", MODE_TAL, [
    ⟨63, 17, .rsv, 0x0, [.power, .package]⟩,
    ⟨16, 16, .rw, 0x0, [.power, .package]⟩,
    ⟨15, 8, .rsv, 0x0, [.power, .package]⟩,
    ⟨7, 0, .rw, 0x0, [.power, .package]⟩]⟩,
  ⟨"TALUS_EXPERT", TALUS_EXPERT, [
    ⟨63, 40, .rsv, 0x0, [.power, .package]⟩,
    ⟨39, 32, .rw, 0x10, [.power, .package]⟩,
    ⟨31, 24, .rw, 0x40, [.power, .package]⟩,
    ⟨23, 16, .rsv, 0x0, [.power, .package]⟩,
    ⟨15, 8, .rw, 0x18, [.power, .package]⟩,
    ⟨7, 0, .rsv, 0x0, [.power, .package]⟩]⟩,
  ⟨"TALUS_BLK_STATUS", TALUS_BLK_STATUS, [
    ⟨63, 1, .rsv, 0x0, [.power, .package]⟩,
    ⟨0, 0, .w1c, 0x0, [.power, .package, .die]⟩]⟩,
  ⟨"STACK_STATE", STACK_STATE, [
    ⟨63, 8, .rsv, 0x0, [.power, .package]⟩,
    ⟨7, 4, .ro, 0x0, [.power, .package]⟩,
    ⟨3, 3, .rsv, 0x0, [.power, .package]⟩,
    ⟨2, 0, .ro, 0x0, [.power, .package]⟩]⟩,
  ⟨"STACK_CTRL", STACK_CTRL, [
    ⟨63, 2, .rsv, 0x0, [.power, .package]⟩,
    ⟨1, 1, .wo, 0x0, []⟩,
    ⟨0, 0, .wo, 0x0, []⟩]⟩,
  ⟨"CE_COUNT", CE_COUNT, [
    ⟨63, 32, .rsv, 0x0, [.power, .package]⟩,
    ⟨31, 0, .ro, 0x0, [.power, .package]⟩]⟩,
  ⟨"UE_COUNT", UE_COUNT, [
    ⟨63, 32, .rsv, 0x0, [.power, .package]⟩,
    ⟨31, 0, .ro, 0x0, [.power, .package]⟩]⟩,
  ⟨"DEAD_WIRES_A", DEAD_WIRES_A, [
    ⟨63, 48, .rsv, 0x0, [.power, .package]⟩,
    ⟨47, 40, .ro, 0x0, [.power, .package]⟩,
    ⟨39, 0, .ro, 0x0, [.power, .package]⟩]⟩,
  ⟨"DEAD_WIRES_B", DEAD_WIRES_B, [
    ⟨63, 48, .rsv, 0x0, [.power, .package]⟩,
    ⟨47, 40, .ro, 0x0, [.power, .package]⟩,
    ⟨39, 0, .ro, 0x0, [.power, .package]⟩]⟩,
  ⟨"STACK_TEMP", STACK_TEMP, [
    ⟨63, 9, .rsv, 0x0, [.power, .package]⟩,
    ⟨8, 8, .ro, 0x0, [.power, .package]⟩,
    ⟨7, 0, .ro, 0x0, [.power, .package]⟩]⟩,
  ⟨"SCRUB_POS", SCRUB_POS, [
    ⟨63, 29, .rsv, 0x0, [.power, .package]⟩,
    ⟨28, 0, .ro, 0x0, [.power, .package]⟩]⟩]

/-! ### VEC -/

/-- MODE_VEC, R509. -/
def MODE_VEC : Reg :=
  ⟨.vec, 0x86000, true, 0x0, 1, 0x0, []⟩
def MODE_VEC_EXPERT : Fld := ⟨MODE_VEC, 16, 16⟩
def MODE_VEC_PRESET : Fld := ⟨MODE_VEC, 7, 0⟩

/-- VEC_EXPERT, Table 5.16. -/
def VEC_EXPERT : Reg :=
  ⟨.vec, 0x86008, true, 0x0, 1, 0x3, []⟩
def VEC_EXPERT_SKIP_AFTER_FAULT : Fld := ⟨VEC_EXPERT, 1, 1⟩
def VEC_EXPERT_RECORD_FAULT : Fld := ⟨VEC_EXPERT, 0, 0⟩

/-- VEC_BLK_STATUS, Table 5.16. -/
def VEC_BLK_STATUS : Reg :=
  ⟨.vec, 0x86010, true, 0x0, 1, 0x0, []⟩
def VEC_BLK_STATUS_PRESET_ERR : Fld := ⟨VEC_BLK_STATUS, 0, 0⟩

/-- VEC_FAULT, Table 5.17. -/
def VEC_FAULT : Reg :=
  ⟨.vec, 0x87000, true, 0x20, 96, 0x0, []⟩
def VEC_FAULT_VALID : Fld := ⟨VEC_FAULT, 63, 63⟩
def VEC_FAULT_SKIPPED : Fld := ⟨VEC_FAULT, 59, 52⟩
def VEC_FAULT_ITER : Fld := ⟨VEC_FAULT, 51, 32⟩
def VEC_FAULT_PROG : Fld := ⟨VEC_FAULT, 28, 16⟩
def VEC_FAULT_PC : Fld := ⟨VEC_FAULT, 13, 8⟩
def VEC_FAULT_CODE : Fld := ⟨VEC_FAULT, 7, 0⟩

/-- VEC_ACTIVE, Table 5.18. -/
def VEC_ACTIVE : Reg :=
  ⟨.vec, 0x87008, true, 0x20, 96, 0x0, []⟩
def VEC_ACTIVE_CYCLES : Fld := ⟨VEC_ACTIVE, 63, 0⟩

/-- VEC_STALL, Table 5.18. -/
def VEC_STALL : Reg :=
  ⟨.vec, 0x87010, true, 0x20, 96, 0x0, []⟩
def VEC_STALL_CYCLES : Fld := ⟨VEC_STALL, 63, 0⟩

/-- VEC_RUNS, Table 5.18. -/
def VEC_RUNS : Reg :=
  ⟨.vec, 0x87018, true, 0x20, 96, 0x0, []⟩
def VEC_RUNS_COUNT : Fld := ⟨VEC_RUNS, 63, 0⟩

/-- The field tables of the VEC block. -/
def regsVEC : List RegRow := [
  ⟨"MODE_VEC", MODE_VEC, [
    ⟨63, 17, .rsv, 0x0, [.power, .package, .die]⟩,
    ⟨16, 16, .rw, 0x0, [.power, .package, .die]⟩,
    ⟨15, 8, .rsv, 0x0, [.power, .package, .die]⟩,
    ⟨7, 0, .rw, 0x0, [.power, .package, .die]⟩]⟩,
  ⟨"VEC_EXPERT", VEC_EXPERT, [
    ⟨63, 2, .rsv, 0x0, [.power, .package]⟩,
    ⟨1, 1, .rw, 0x1, [.power, .package, .die]⟩,
    ⟨0, 0, .rw, 0x1, [.power, .package, .die]⟩]⟩,
  ⟨"VEC_BLK_STATUS", VEC_BLK_STATUS, [
    ⟨63, 1, .rsv, 0x0, [.power, .package]⟩,
    ⟨0, 0, .w1c, 0x0, [.power, .package, .die]⟩]⟩,
  ⟨"VEC_FAULT", VEC_FAULT, [
    ⟨63, 63, .w1c, 0x0, [.power, .package, .die, .core, .refuge]⟩,
    ⟨62, 60, .rsv, 0x0, [.power, .package, .die, .core]⟩,
    ⟨59, 52, .ro, 0x0, [.power, .package, .die, .core, .refuge]⟩,
    ⟨51, 32, .ro, 0x0, [.power, .package, .die, .core, .refuge]⟩,
    ⟨31, 29, .rsv, 0x0, [.power, .package, .die, .core]⟩,
    ⟨28, 16, .ro, 0x0, [.power, .package, .die, .core, .refuge]⟩,
    ⟨15, 14, .rsv, 0x0, [.power, .package, .die, .core]⟩,
    ⟨13, 8, .ro, 0x0, [.power, .package, .die, .core, .refuge]⟩,
    ⟨7, 0, .ro, 0x0, [.power, .package, .die, .core, .refuge]⟩]⟩,
  ⟨"VEC_ACTIVE", VEC_ACTIVE, [
    ⟨63, 0, .ro, 0x0, [.power, .package, .die, .core, .refuge]⟩]⟩,
  ⟨"VEC_STALL", VEC_STALL, [
    ⟨63, 0, .ro, 0x0, [.power, .package, .die, .core, .refuge]⟩]⟩,
  ⟨"VEC_RUNS", VEC_RUNS, [
    ⟨63, 0, .ro, 0x0, [.power, .package, .die, .core, .refuge]⟩]⟩]

/-! ### CON -/

/-- MODE_CON, R509. -/
def MODE_CON : Reg :=
  ⟨.con, 0x88000, true, 0x0, 1, 0x0, []⟩
def MODE_CON_EXPERT : Fld := ⟨MODE_CON, 16, 16⟩
def MODE_CON_PRESET : Fld := ⟨MODE_CON, 7, 0⟩

/-- CONTOUR_EXPERT, Table 9.7. -/
def CONTOUR_EXPERT : Reg :=
  ⟨.con, 0x88008, true, 0x0, 1, 0x3, []⟩
def CONTOUR_EXPERT_LATE_FIRE : Fld := ⟨CONTOUR_EXPERT, 1, 1⟩
def CONTOUR_EXPERT_RECORD_REFUSED : Fld := ⟨CONTOUR_EXPERT, 0, 0⟩

/-- CONTOUR_BLK_STATUS, Table 9.7. -/
def CONTOUR_BLK_STATUS : Reg :=
  ⟨.con, 0x88010, true, 0x0, 1, 0x0, []⟩
def CONTOUR_BLK_STATUS_STALE_CONTOUR : Fld := ⟨CONTOUR_BLK_STATUS, 63, 48⟩
def CONTOUR_BLK_STATUS_FTIME_VALID : Fld := ⟨CONTOUR_BLK_STATUS, 3, 3⟩
def CONTOUR_BLK_STATUS_POS_ERR : Fld := ⟨CONTOUR_BLK_STATUS, 2, 2⟩
def CONTOUR_BLK_STATUS_ENTRY_ERR : Fld := ⟨CONTOUR_BLK_STATUS, 1, 1⟩
def CONTOUR_BLK_STATUS_PRESET_ERR : Fld := ⟨CONTOUR_BLK_STATUS, 0, 0⟩

/-- CONTOUR_VALUE, Table 9.7. -/
def CONTOUR_VALUE : Reg :=
  ⟨.con, 0x88100, true, 0x0, 1, 0x0, []⟩
def CONTOUR_VALUE_VALUE : Fld := ⟨CONTOUR_VALUE, 63, 0⟩

/-- PUB_FTIME, Table 9.7. -/
def PUB_FTIME : Reg :=
  ⟨.con, 0x88108, true, 0x0, 1, 0x0, []⟩
def PUB_FTIME_FTIME : Fld := ⟨PUB_FTIME, 63, 0⟩

/-- FABRIC_TIME, Table 9.7. -/
def FABRIC_TIME : Reg :=
  ⟨.con, 0x88110, true, 0x0, 1, 0x0, []⟩
def FABRIC_TIME_FTIME : Fld := ⟨FABRIC_TIME, 63, 0⟩

/-- LOCAL_POS, Table 9.7. -/
def LOCAL_POS : Reg :=
  ⟨.con, 0x88118, true, 0x0, 1, 0x0, []⟩
def LOCAL_POS_POS : Fld := ⟨LOCAL_POS, 63, 0⟩

/-- AHEAD_POS, Table 9.7. -/
def AHEAD_POS : Reg :=
  ⟨.con, 0x88120, true, 0x0, 1, 0x0, []⟩
def AHEAD_POS_POS : Fld := ⟨AHEAD_POS, 63, 0⟩

/-- EVENT_CTRL, Table 9.7. -/
def EVENT_CTRL : Reg :=
  ⟨.con, 0x8C000, true, 0x40, 256, 0x0, []⟩
def EVENT_CTRL_ENABLE : Fld := ⟨EVENT_CTRL, 63, 63⟩
def EVENT_CTRL_ARMED : Fld := ⟨EVENT_CTRL, 62, 62⟩
def EVENT_CTRL_FIRED : Fld := ⟨EVENT_CTRL, 61, 61⟩
def EVENT_CTRL_PENDING : Fld := ⟨EVENT_CTRL, 60, 60⟩
def EVENT_CTRL_MODE : Fld := ⟨EVENT_CTRL, 56, 56⟩
def EVENT_CTRL_ACTION : Fld := ⟨EVENT_CTRL, 55, 52⟩
def EVENT_CTRL_STATUS : Fld := ⟨EVENT_CTRL, 47, 40⟩
def EVENT_CTRL_FIRE_COUNT : Fld := ⟨EVENT_CTRL, 39, 32⟩
def EVENT_CTRL_OFFSET_US : Fld := ⟨EVENT_CTRL, 31, 0⟩

/-- THRESHOLD, R509. -/
def THRESHOLD : Reg :=
  ⟨.con, 0x8C008, true, 0x40, 256, 0x0, []⟩
def THRESHOLD_THRESHOLD : Fld := ⟨THRESHOLD, 63, 0⟩

/-- ARG0, R509. -/
def ARG0 : Reg :=
  ⟨.con, 0x8C010, true, 0x40, 256, 0x0, []⟩
def ARG0_ARG0 : Fld := ⟨ARG0, 63, 0⟩

/-- ARG1, R509. -/
def ARG1 : Reg :=
  ⟨.con, 0x8C018, true, 0x40, 256, 0x0, []⟩
def ARG1_ARG1 : Fld := ⟨ARG1, 63, 0⟩

/-- ARG2, R509. -/
def ARG2 : Reg :=
  ⟨.con, 0x8C020, true, 0x40, 256, 0x0, []⟩
def ARG2_ARG2 : Fld := ⟨ARG2, 63, 0⟩

/-- FIRED_FTIME, R509. -/
def FIRED_FTIME : Reg :=
  ⟨.con, 0x8C028, true, 0x40, 256, 0x0, []⟩
def FIRED_FTIME_FIRED_FTIME : Fld := ⟨FIRED_FTIME, 63, 0⟩

/-- BASE_FTIME, R509. -/
def BASE_FTIME : Reg :=
  ⟨.con, 0x8C030, true, 0x40, 256, 0x0, []⟩
def BASE_FTIME_BASE_FTIME : Fld := ⟨BASE_FTIME, 63, 0⟩

/-- EVENT_RSV, R509. -/
def EVENT_RSV : Reg :=
  ⟨.con, 0x8C038, true, 0x40, 256, 0x0, []⟩

/-- The field tables of the CON block. -/
def regsCON : List RegRow := [
  ⟨"MODE_CON", MODE_CON, [
    ⟨63, 17, .rsv, 0x0, [.power, .package]⟩,
    ⟨16, 16, .rw, 0x0, [.power, .package]⟩,
    ⟨15, 8, .rsv, 0x0, [.power, .package]⟩,
    ⟨7, 0, .rw, 0x0, [.power, .package]⟩]⟩,
  ⟨"CONTOUR_EXPERT", CONTOUR_EXPERT, [
    ⟨63, 2, .rsv, 0x0, [.power, .package]⟩,
    ⟨1, 1, .rw, 0x1, [.power, .package]⟩,
    ⟨0, 0, .rw, 0x1, [.power, .package]⟩]⟩,
  ⟨"CONTOUR_BLK_STATUS", CONTOUR_BLK_STATUS, [
    ⟨63, 48, .ro, 0x0, [.power, .package, .refuge]⟩,
    ⟨47, 4, .rsv, 0x0, [.power, .package]⟩,
    ⟨3, 3, .ro, 0x0, [.power, .package, .refuge]⟩,
    ⟨2, 2, .w1c, 0x0, [.power, .package, .refuge]⟩,
    ⟨1, 1, .w1c, 0x0, [.power, .package, .refuge]⟩,
    ⟨0, 0, .w1c, 0x0, [.power, .package]⟩]⟩,
  ⟨"CONTOUR_VALUE", CONTOUR_VALUE, [
    ⟨63, 0, .ro, 0x0, [.power, .package, .refuge]⟩]⟩,
  ⟨"PUB_FTIME", PUB_FTIME, [
    ⟨63, 0, .ro, 0x0, [.power, .package, .refuge]⟩]⟩,
  ⟨"FABRIC_TIME", FABRIC_TIME, [
    ⟨63, 0, .ro, 0x0, [.power, .package, .refuge]⟩]⟩,
  ⟨"LOCAL_POS", LOCAL_POS, [
    ⟨63, 0, .rw, 0x0, [.power, .package, .die, .refuge]⟩]⟩,
  ⟨"AHEAD_POS", AHEAD_POS, [
    ⟨63, 0, .ro, 0x0, [.power, .package, .die, .refuge]⟩]⟩,
  ⟨"EVENT_CTRL", EVENT_CTRL, [
    ⟨63, 63, .rw, 0x0, [.power, .package, .refuge]⟩,
    ⟨62, 62, .rw, 0x0, [.power, .package, .refuge]⟩,
    ⟨61, 61, .w1c, 0x0, [.power, .package, .refuge]⟩,
    ⟨60, 60, .ro, 0x0, [.power, .package, .refuge]⟩,
    ⟨59, 57, .rsv, 0x0, [.power, .package, .refuge]⟩,
    ⟨56, 56, .rw, 0x0, [.power, .package, .refuge]⟩,
    ⟨55, 52, .rw, 0x0, [.power, .package, .refuge]⟩,
    ⟨51, 48, .rsv, 0x0, [.power, .package, .refuge]⟩,
    ⟨47, 40, .ro, 0x0, [.power, .package, .refuge]⟩,
    ⟨39, 32, .ro, 0x0, [.power, .package, .refuge]⟩,
    ⟨31, 0, .rw, 0x0, [.power, .package, .refuge]⟩]⟩,
  ⟨"THRESHOLD", THRESHOLD, [
    ⟨63, 0, .rw, 0x0, [.power, .package, .refuge]⟩]⟩,
  ⟨"ARG0", ARG0, [
    ⟨63, 0, .rw, 0x0, [.power, .package, .refuge]⟩]⟩,
  ⟨"ARG1", ARG1, [
    ⟨63, 0, .rw, 0x0, [.power, .package, .refuge]⟩]⟩,
  ⟨"ARG2", ARG2, [
    ⟨63, 0, .rw, 0x0, [.power, .package, .refuge]⟩]⟩,
  ⟨"FIRED_FTIME", FIRED_FTIME, [
    ⟨63, 0, .ro, 0x0, [.power, .package, .refuge]⟩]⟩,
  ⟨"BASE_FTIME", BASE_FTIME, [
    ⟨63, 0, .ro, 0x0, [.power, .package, .refuge]⟩]⟩,
  ⟨"EVENT_RSV", EVENT_RSV, [
    ⟨63, 0, .rsv, 0x0, [.power, .package, .refuge]⟩]⟩]

/-! ### REM -/

/-- MODE_REM, R509. -/
def MODE_REM : Reg :=
  ⟨.rem, 0x90000, true, 0x0, 1, 0x0, []⟩
def MODE_REM_EXPERT : Fld := ⟨MODE_REM, 16, 16⟩
def MODE_REM_PRESET : Fld := ⟨MODE_REM, 7, 0⟩

/-- REMOTE_EXPERT, Table 7.12. -/
def REMOTE_EXPERT : Reg :=
  ⟨.rem, 0x90008, true, 0x0, 1, 0x14000001388, []⟩
def REMOTE_EXPERT_RECORD_JOB_REJECT : Fld := ⟨REMOTE_EXPERT, 40, 40⟩
def REMOTE_EXPERT_MGMT_RESERVE : Fld := ⟨REMOTE_EXPERT, 39, 32⟩
def REMOTE_EXPERT_TIMEOUT_US : Fld := ⟨REMOTE_EXPERT, 15, 0⟩

/-- REMOTE_BLK_STATUS, Table 7.12. -/
def REMOTE_BLK_STATUS : Reg :=
  ⟨.rem, 0x90010, true, 0x0, 1, 0x0, []⟩
def REMOTE_BLK_STATUS_PRESET_ERR : Fld := ⟨REMOTE_BLK_STATUS, 0, 0⟩

/-- TRACKER_STATUS, Table 7.12. -/
def TRACKER_STATUS : Reg :=
  ⟨.rem, 0x90018, true, 0x0, 1, 0x0, []⟩
def TRACKER_STATUS_CLEAR_HW : Fld := ⟨TRACKER_STATUS, 63, 63⟩
def TRACKER_STATUS_HIGH_WATER : Fld := ⟨TRACKER_STATUS, 28, 16⟩
def TRACKER_STATUS_IN_USE : Fld := ⟨TRACKER_STATUS, 12, 0⟩

/-- TRACKER_STALL, Table 7.12. -/
def TRACKER_STALL : Reg :=
  ⟨.rem, 0x90020, true, 0x0, 1, 0x0, []⟩
def TRACKER_STALL_CYCLES : Fld := ⟨TRACKER_STALL, 63, 0⟩

/-- JOB_REJECT_COUNT, Table 7.12. -/
def JOB_REJECT_COUNT : Reg :=
  ⟨.rem, 0x90028, true, 0x0, 1, 0x0, []⟩
def JOB_REJECT_COUNT_COUNT : Fld := ⟨JOB_REJECT_COUNT, 63, 0⟩

/-- TIMEOUT_COUNT, Table 7.12. -/
def TIMEOUT_COUNT : Reg :=
  ⟨.rem, 0x90030, true, 0x0, 1, 0x0, []⟩
def TIMEOUT_COUNT_COUNT : Fld := ⟨TIMEOUT_COUNT, 63, 0⟩

/-- REMOTE_FAIL, Table 7.12. -/
def REMOTE_FAIL : Reg :=
  ⟨.rem, 0x91000, true, 0x10, 96, 0x0, []⟩
def REMOTE_FAIL_VALID : Fld := ⟨REMOTE_FAIL, 63, 63⟩
def REMOTE_FAIL_CODE : Fld := ⟨REMOTE_FAIL, 55, 48⟩
def REMOTE_FAIL_OPC : Fld := ⟨REMOTE_FAIL, 47, 42⟩
def REMOTE_FAIL_COUNT : Fld := ⟨REMOTE_FAIL, 31, 0⟩

/-- REMOTE_FAIL_PTR, Table 7.12. -/
def REMOTE_FAIL_PTR : Reg :=
  ⟨.rem, 0x91008, true, 0x10, 96, 0x0, []⟩
def REMOTE_FAIL_PTR_PTR : Fld := ⟨REMOTE_FAIL_PTR, 63, 0⟩

/-- The field tables of the REM block. -/
def regsREM : List RegRow := [
  ⟨"MODE_REM", MODE_REM, [
    ⟨63, 17, .rsv, 0x0, [.power, .package, .die]⟩,
    ⟨16, 16, .rw, 0x0, [.power, .package, .die]⟩,
    ⟨15, 8, .rsv, 0x0, [.power, .package, .die]⟩,
    ⟨7, 0, .rw, 0x0, [.power, .package, .die]⟩]⟩,
  ⟨"REMOTE_EXPERT", REMOTE_EXPERT, [
    ⟨63, 41, .rsv, 0x0, [.power, .package]⟩,
    ⟨40, 40, .rw, 0x1, [.power, .package, .die]⟩,
    ⟨39, 32, .rw, 0x40, [.power, .package, .die]⟩,
    ⟨31, 16, .rsv, 0x0, [.power, .package]⟩,
    ⟨15, 0, .rw, 0x1388, [.power, .package, .die]⟩]⟩,
  ⟨"REMOTE_BLK_STATUS", REMOTE_BLK_STATUS, [
    ⟨63, 1, .rsv, 0x0, [.power, .package]⟩,
    ⟨0, 0, .w1c, 0x0, [.power, .package, .die]⟩]⟩,
  ⟨"TRACKER_STATUS", TRACKER_STATUS, [
    ⟨63, 63, .wo, 0x0, []⟩,
    ⟨62, 29, .rsv, 0x0, [.power, .package, .die]⟩,
    ⟨28, 16, .ro, 0x0, [.power, .package, .die, .refuge]⟩,
    ⟨15, 13, .rsv, 0x0, [.power, .package, .die]⟩,
    ⟨12, 0, .ro, 0x0, [.power, .package, .die, .refuge]⟩]⟩,
  ⟨"TRACKER_STALL", TRACKER_STALL, [
    ⟨63, 0, .ro, 0x0, [.power, .package, .die, .refuge]⟩]⟩,
  ⟨"JOB_REJECT_COUNT", JOB_REJECT_COUNT, [
    ⟨63, 0, .ro, 0x0, [.power, .package, .die, .refuge]⟩]⟩,
  ⟨"TIMEOUT_COUNT", TIMEOUT_COUNT, [
    ⟨63, 0, .ro, 0x0, [.power, .package, .die, .refuge]⟩]⟩,
  ⟨"REMOTE_FAIL", REMOTE_FAIL, [
    ⟨63, 63, .w1c, 0x0, [.power, .package, .die, .core, .refuge]⟩,
    ⟨62, 56, .rsv, 0x0, [.power, .package, .die, .core]⟩,
    ⟨55, 48, .ro, 0x0, [.power, .package, .die, .core, .refuge]⟩,
    ⟨47, 42, .ro, 0x0, [.power, .package, .die, .core, .refuge]⟩,
    ⟨41, 32, .rsv, 0x0, [.power, .package, .die, .core]⟩,
    ⟨31, 0, .ro, 0x0, [.power, .package, .die, .core, .refuge]⟩]⟩,
  ⟨"REMOTE_FAIL_PTR", REMOTE_FAIL_PTR, [
    ⟨63, 0, .ro, 0x0, [.power, .package, .die, .core, .refuge]⟩]⟩]

/-! ### RDG -/

/-- MODE_RDG, R509. -/
def MODE_RDG : Reg :=
  ⟨.rdg, 0x92000, true, 0x0, 1, 0x0, []⟩
def MODE_RDG_EXPERT : Fld := ⟨MODE_RDG, 16, 16⟩
def MODE_RDG_PRESET : Fld := ⟨MODE_RDG, 7, 0⟩

/-- RIDGE_EXPERT, Table 8.14. -/
def RIDGE_EXPERT : Reg :=
  ⟨.rdg, 0x92008, true, 0x0, 1, 0x1F410000888, [0x1f410000888, 0x1f410000ac8, 0x1f4100008d0, 0x1f410000ad1]⟩
def RIDGE_EXPERT_RETRAIN_US : Fld := ⟨RIDGE_EXPERT, 47, 32⟩
def RIDGE_EXPERT_RETRY_LIMIT : Fld := ⟨RIDGE_EXPERT, 31, 24⟩
def RIDGE_EXPERT_DIRS : Fld := ⟨RIDGE_EXPERT, 11, 0⟩

/-- RIDGE_BLK_STATUS, Table 8.14. -/
def RIDGE_BLK_STATUS : Reg :=
  ⟨.rdg, 0x92010, true, 0x0, 1, 0x0, []⟩
def RIDGE_BLK_STATUS_DIR_ERR : Fld := ⟨RIDGE_BLK_STATUS, 1, 1⟩
def RIDGE_BLK_STATUS_PRESET_ERR : Fld := ⟨RIDGE_BLK_STATUS, 0, 0⟩

/-- TRAIL_ACCESS, Table 8.14. -/
def TRAIL_ACCESS : Reg :=
  ⟨.rdg, 0x92018, true, 0x0, 1, 0x0, []⟩
def TRAIL_ACCESS_ENTRY : Fld := ⟨TRAIL_ACCESS, 39, 32⟩
def TRAIL_ACCESS_INDEX : Fld := ⟨TRAIL_ACCESS, 13, 0⟩

/-- TRAIL_STATUS, Table 8.14. -/
def TRAIL_STATUS : Reg :=
  ⟨.rdg, 0x92020, true, 0x0, 1, 0x0, []⟩
def TRAIL_STATUS_GEN : Fld := ⟨TRAIL_STATUS, 63, 32⟩
def TRAIL_STATUS_INSTALLS : Fld := ⟨TRAIL_STATUS, 31, 0⟩

/-- DROPPED_PACKETS, Table 8.14. -/
def DROPPED_PACKETS : Reg :=
  ⟨.rdg, 0x92028, true, 0x0, 1, 0x0, []⟩
def DROPPED_PACKETS_COUNT : Fld := ⟨DROPPED_PACKETS, 63, 0⟩

/-- PORT_STATE, Table 8.14. -/
def PORT_STATE : Reg :=
  ⟨.rdg, 0x92100, true, 0x40, 4, 0x0, []⟩
def PORT_STATE_CAUSE : Fld := ⟨PORT_STATE, 15, 12⟩
def PORT_STATE_WIDTH : Fld := ⟨PORT_STATE, 7, 5⟩
def PORT_STATE_STATE : Fld := ⟨PORT_STATE, 2, 0⟩

/-- PORT_CTRL, Table 8.14. -/
def PORT_CTRL : Reg :=
  ⟨.rdg, 0x92108, true, 0x40, 4, 0x0, []⟩
def PORT_CTRL_CLEAR_COUNTS : Fld := ⟨PORT_CTRL, 1, 1⟩
def PORT_CTRL_RESET : Fld := ⟨PORT_CTRL, 0, 0⟩

/-- PORT_ERRORS, Table 8.14. -/
def PORT_ERRORS : Reg :=
  ⟨.rdg, 0x92110, true, 0x40, 4, 0x0, []⟩
def PORT_ERRORS_UNCORRECTED : Fld := ⟨PORT_ERRORS, 63, 32⟩
def PORT_ERRORS_REPLAYS : Fld := ⟨PORT_ERRORS, 31, 0⟩

/-- PORT_FEC, Table 8.14. -/
def PORT_FEC : Reg :=
  ⟨.rdg, 0x92118, true, 0x40, 4, 0x0, []⟩
def PORT_FEC_CORRECTED : Fld := ⟨PORT_FEC, 63, 0⟩

/-- LANE_MARGIN, Table 8.14. -/
def LANE_MARGIN : Reg :=
  ⟨.rdg, 0x92120, true, 0x40, 4, 0x0, []⟩
def LANE_MARGIN_MARGINS : Fld := ⟨LANE_MARGIN, 63, 0⟩

/-- The field tables of the RDG block. -/
def regsRDG : List RegRow := [
  ⟨"MODE_RDG", MODE_RDG, [
    ⟨63, 17, .rsv, 0x0, [.power, .package, .die]⟩,
    ⟨16, 16, .rw, 0x0, [.power, .package, .die]⟩,
    ⟨15, 8, .rsv, 0x0, [.power, .package, .die]⟩,
    ⟨7, 0, .rw, 0x0, [.power, .package, .die]⟩]⟩,
  ⟨"RIDGE_EXPERT", RIDGE_EXPERT, [
    ⟨63, 48, .rsv, 0x0, [.power, .package]⟩,
    ⟨47, 32, .rw, 0x1F4, [.power, .package, .die]⟩,
    ⟨31, 24, .rw, 0x10, [.power, .package, .die]⟩,
    ⟨23, 12, .rsv, 0x0, [.power, .package]⟩,
    ⟨11, 0, .rw, 0x888, [.power, .package, .die]⟩]⟩,
  ⟨"RIDGE_BLK_STATUS", RIDGE_BLK_STATUS, [
    ⟨63, 2, .rsv, 0x0, [.power, .package]⟩,
    ⟨1, 1, .w1c, 0x0, [.power, .package, .die]⟩,
    ⟨0, 0, .w1c, 0x0, [.power, .package, .die]⟩]⟩,
  ⟨"TRAIL_ACCESS", TRAIL_ACCESS, [
    ⟨63, 40, .rsv, 0x0, [.power, .package, .die]⟩,
    ⟨39, 32, .ro, 0x0, [.power, .package, .die, .refuge]⟩,
    ⟨31, 14, .rsv, 0x0, [.power, .package, .die]⟩,
    ⟨13, 0, .rw, 0x0, [.power, .package, .die, .refuge]⟩]⟩,
  ⟨"TRAIL_STATUS", TRAIL_STATUS, [
    ⟨63, 32, .ro, 0x0, [.power, .package, .die, .refuge]⟩,
    ⟨31, 0, .ro, 0x0, [.power, .package, .die, .refuge]⟩]⟩,
  ⟨"DROPPED_PACKETS", DROPPED_PACKETS, [
    ⟨63, 0, .ro, 0x0, [.power, .package, .die, .refuge]⟩]⟩,
  ⟨"PORT_STATE", PORT_STATE, [
    ⟨63, 16, .rsv, 0x0, [.power, .package, .die, .port]⟩,
    ⟨15, 12, .ro, 0x0, [.power, .package, .die, .port, .refuge]⟩,
    ⟨11, 8, .rsv, 0x0, [.power, .package, .die, .port]⟩,
    ⟨7, 5, .ro, 0x0, [.power, .package, .die, .port, .refuge]⟩,
    ⟨4, 3, .rsv, 0x0, [.power, .package, .die, .port]⟩,
    ⟨2, 0, .ro, 0x0, [.power, .package, .die, .port, .refuge]⟩]⟩,
  ⟨"PORT_CTRL", PORT_CTRL, [
    ⟨63, 2, .rsv, 0x0, [.power, .package, .die, .port]⟩,
    ⟨1, 1, .wo, 0x0, []⟩,
    ⟨0, 0, .wo, 0x0, []⟩]⟩,
  ⟨"PORT_ERRORS", PORT_ERRORS, [
    ⟨63, 32, .ro, 0x0, [.power, .package, .die, .port, .refuge]⟩,
    ⟨31, 0, .ro, 0x0, [.power, .package, .die, .port, .refuge]⟩]⟩,
  ⟨"PORT_FEC", PORT_FEC, [
    ⟨63, 0, .ro, 0x0, [.power, .package, .die, .port, .refuge]⟩]⟩,
  ⟨"LANE_MARGIN", LANE_MARGIN, [
    ⟨63, 0, .ro, 0x0, [.power, .package, .die, .port, .refuge]⟩]⟩]

/-! ### CRY -/

/-- MODE_CRY, R509. -/
def MODE_CRY : Reg :=
  ⟨.cry, 0x93000, true, 0x0, 1, 0x0, []⟩
def MODE_CRY_EXPERT : Fld := ⟨MODE_CRY, 16, 16⟩
def MODE_CRY_PRESET : Fld := ⟨MODE_CRY, 7, 0⟩

/-- CRYPT_EXPERT, Table 19.12. -/
def CRYPT_EXPERT : Reg :=
  ⟨.cry, 0x93008, true, 0x0, 1, 0x0, []⟩
def CRYPT_EXPERT_REQUIRE : Fld := ⟨CRYPT_EXPERT, 3, 0⟩

/-- CRYPT_BLK_STATUS, Table 19.12. -/
def CRYPT_BLK_STATUS : Reg :=
  ⟨.cry, 0x93010, true, 0x0, 1, 0x0, []⟩
def CRYPT_BLK_STATUS_CFG_ERR : Fld := ⟨CRYPT_BLK_STATUS, 1, 1⟩
def CRYPT_BLK_STATUS_PRESET_ERR : Fld := ⟨CRYPT_BLK_STATUS, 0, 0⟩

/-- KEY_CTRL, Table 19.12. -/
def KEY_CTRL : Reg :=
  ⟨.cry, 0x93100, true, 0x80, 4, 0x0, []⟩
def KEY_CTRL_INSTALL_TX : Fld := ⟨KEY_CTRL, 8, 8⟩
def KEY_CTRL_INSTALL_RX : Fld := ⟨KEY_CTRL, 7, 7⟩
def KEY_CTRL_SLOT : Fld := ⟨KEY_CTRL, 6, 6⟩
def KEY_CTRL_ACTIVE_TX : Fld := ⟨KEY_CTRL, 5, 5⟩
def KEY_CTRL_TX_VALID : Fld := ⟨KEY_CTRL, 3, 2⟩
def KEY_CTRL_RX_VALID : Fld := ⟨KEY_CTRL, 1, 0⟩

/-- TX_KEY0, Table 19.12. -/
def TX_KEY0 : Reg :=
  ⟨.cry, 0x93108, true, 0x80, 4, 0x0, []⟩
def TX_KEY0_KEY : Fld := ⟨TX_KEY0, 63, 0⟩

/-- TX_KEY1, Table 19.12. -/
def TX_KEY1 : Reg :=
  ⟨.cry, 0x93110, true, 0x80, 4, 0x0, []⟩
def TX_KEY1_KEY : Fld := ⟨TX_KEY1, 63, 0⟩

/-- TX_KEY2, Table 19.12. -/
def TX_KEY2 : Reg :=
  ⟨.cry, 0x93118, true, 0x80, 4, 0x0, []⟩
def TX_KEY2_KEY : Fld := ⟨TX_KEY2, 63, 0⟩

/-- TX_KEY3, Table 19.12. -/
def TX_KEY3 : Reg :=
  ⟨.cry, 0x93120, true, 0x80, 4, 0x0, []⟩
def TX_KEY3_KEY : Fld := ⟨TX_KEY3, 63, 0⟩

/-- RX_KEY0, Table 19.12. -/
def RX_KEY0 : Reg :=
  ⟨.cry, 0x93128, true, 0x80, 4, 0x0, []⟩
def RX_KEY0_KEY : Fld := ⟨RX_KEY0, 63, 0⟩

/-- RX_KEY1, Table 19.12. -/
def RX_KEY1 : Reg :=
  ⟨.cry, 0x93130, true, 0x80, 4, 0x0, []⟩
def RX_KEY1_KEY : Fld := ⟨RX_KEY1, 63, 0⟩

/-- RX_KEY2, Table 19.12. -/
def RX_KEY2 : Reg :=
  ⟨.cry, 0x93138, true, 0x80, 4, 0x0, []⟩
def RX_KEY2_KEY : Fld := ⟨RX_KEY2, 63, 0⟩

/-- RX_KEY3, Table 19.12. -/
def RX_KEY3 : Reg :=
  ⟨.cry, 0x93140, true, 0x80, 4, 0x0, []⟩
def RX_KEY3_KEY : Fld := ⟨RX_KEY3, 63, 0⟩

/-- SALTS, Table 19.12. -/
def SALTS : Reg :=
  ⟨.cry, 0x93148, true, 0x80, 4, 0x0, []⟩
def SALTS_TX_SALT : Fld := ⟨SALTS, 63, 32⟩
def SALTS_RX_SALT : Fld := ⟨SALTS, 31, 0⟩

/-- AUTH_FAIL, Table 19.12. -/
def AUTH_FAIL : Reg :=
  ⟨.cry, 0x93150, true, 0x80, 4, 0x0, []⟩
def AUTH_FAIL_COUNT : Fld := ⟨AUTH_FAIL, 63, 0⟩

/-- The field tables of the CRY block. -/
def regsCRY : List RegRow := [
  ⟨"MODE_CRY", MODE_CRY, [
    ⟨63, 17, .rsv, 0x0, [.power, .package, .die]⟩,
    ⟨16, 16, .rw, 0x0, [.power, .package, .die]⟩,
    ⟨15, 8, .rsv, 0x0, [.power, .package, .die]⟩,
    ⟨7, 0, .rw, 0x0, [.power, .package, .die]⟩]⟩,
  ⟨"CRYPT_EXPERT", CRYPT_EXPERT, [
    ⟨63, 4, .rsv, 0x0, [.power, .package, .die]⟩,
    ⟨3, 0, .rw, 0x0, [.power, .package, .die]⟩]⟩,
  ⟨"CRYPT_BLK_STATUS", CRYPT_BLK_STATUS, [
    ⟨63, 2, .rsv, 0x0, [.power, .package, .die]⟩,
    ⟨1, 1, .w1c, 0x0, [.power, .package, .die]⟩,
    ⟨0, 0, .w1c, 0x0, [.power, .package, .die]⟩]⟩,
  ⟨"KEY_CTRL", KEY_CTRL, [
    ⟨63, 9, .rsv, 0x0, [.power, .package, .die, .port]⟩,
    ⟨8, 8, .wo, 0x0, []⟩,
    ⟨7, 7, .wo, 0x0, []⟩,
    ⟨6, 6, .wo, 0x0, []⟩,
    ⟨5, 5, .rw, 0x0, [.power, .package, .die, .port, .refuge]⟩,
    ⟨4, 4, .rsv, 0x0, [.power, .package, .die, .port]⟩,
    ⟨3, 2, .ro, 0x0, [.power, .package, .die, .port, .refuge]⟩,
    ⟨1, 0, .ro, 0x0, [.power, .package, .die, .port, .refuge]⟩]⟩,
  ⟨"TX_KEY0", TX_KEY0, [
    ⟨63, 0, .wo, 0x0, []⟩]⟩,
  ⟨"TX_KEY1", TX_KEY1, [
    ⟨63, 0, .wo, 0x0, []⟩]⟩,
  ⟨"TX_KEY2", TX_KEY2, [
    ⟨63, 0, .wo, 0x0, []⟩]⟩,
  ⟨"TX_KEY3", TX_KEY3, [
    ⟨63, 0, .wo, 0x0, []⟩]⟩,
  ⟨"RX_KEY0", RX_KEY0, [
    ⟨63, 0, .wo, 0x0, []⟩]⟩,
  ⟨"RX_KEY1", RX_KEY1, [
    ⟨63, 0, .wo, 0x0, []⟩]⟩,
  ⟨"RX_KEY2", RX_KEY2, [
    ⟨63, 0, .wo, 0x0, []⟩]⟩,
  ⟨"RX_KEY3", RX_KEY3, [
    ⟨63, 0, .wo, 0x0, []⟩]⟩,
  ⟨"SALTS", SALTS, [
    ⟨63, 32, .wo, 0x0, []⟩,
    ⟨31, 0, .wo, 0x0, []⟩]⟩,
  ⟨"AUTH_FAIL", AUTH_FAIL, [
    ⟨63, 0, .ro, 0x0, [.power, .package, .die, .port, .refuge]⟩]⟩]

/-! ### SB -/

/-- MODE_SB, R509. -/
def MODE_SB : Reg :=
  ⟨.sb, 0x94000, true, 0x0, 1, 0x0, []⟩
def MODE_SB_EXPERT : Fld := ⟨MODE_SB, 16, 16⟩
def MODE_SB_PRESET : Fld := ⟨MODE_SB, 7, 0⟩

/-- SB_EXPERT, Table 13.8. -/
def SB_EXPERT : Reg :=
  ⟨.sb, 0x94008, true, 0x0, 1, 0x400020EF8, []⟩
def SB_EXPERT_PREFETCH_AHEAD : Fld := ⟨SB_EXPERT, 39, 32⟩
def SB_EXPERT_DEPTH : Fld := ⟨SB_EXPERT, 21, 16⟩
def SB_EXPERT_HINT_FAIL_STOP : Fld := ⟨SB_EXPERT, 12, 12⟩
def SB_EXPERT_SB_FLAG : Fld := ⟨SB_EXPERT, 11, 0⟩

/-- SB_BLK_STATUS, Table 13.8. -/
def SB_BLK_STATUS : Reg :=
  ⟨.sb, 0x94010, true, 0x0, 1, 0x0, []⟩
def SB_BLK_STATUS_CMD_ERR : Fld := ⟨SB_BLK_STATUS, 2, 2⟩
def SB_BLK_STATUS_CFG_ERR : Fld := ⟨SB_BLK_STATUS, 1, 1⟩
def SB_BLK_STATUS_PRESET_ERR : Fld := ⟨SB_BLK_STATUS, 0, 0⟩

/-- SB_BANK0, Table 13.8. -/
def SB_BANK0 : Reg :=
  ⟨.sb, 0x94018, true, 0x0, 1, 0x0, []⟩
def SB_BANK0_BASE : Fld := ⟨SB_BANK0, 47, 16⟩

/-- SB_BANK1, Table 13.8. -/
def SB_BANK1 : Reg :=
  ⟨.sb, 0x94020, true, 0x0, 1, 0x0, []⟩
def SB_BANK1_BASE : Fld := ⟨SB_BANK1, 47, 16⟩

/-- HINT_TABLE, Table 13.8. -/
def HINT_TABLE : Reg :=
  ⟨.sb, 0x94028, true, 0x0, 1, 0x0, []⟩
def HINT_TABLE_BASE : Fld := ⟨HINT_TABLE, 47, 13⟩

/-- SB_CMD, Table 13.8. -/
def SB_CMD : Reg :=
  ⟨.sb, 0x94030, true, 0x0, 1, 0x0, []⟩
def SB_CMD_START : Fld := ⟨SB_CMD, 63, 63⟩
def SB_CMD_STOP : Fld := ⟨SB_CMD, 62, 62⟩
def SB_CMD_CONTINUE : Fld := ⟨SB_CMD, 61, 61⟩
def SB_CMD_BANK : Fld := ⟨SB_CMD, 60, 60⟩
def SB_CMD_STEP : Fld := ⟨SB_CMD, 51, 12⟩
def SB_CMD_ENTRY : Fld := ⟨SB_CMD, 11, 0⟩

/-- SB_STATUS, Table 13.8. -/
def SB_STATUS : Reg :=
  ⟨.sb, 0x94038, true, 0x0, 1, 0x0, []⟩
def SB_STATUS_STEP : Fld := ⟨SB_STATUS, 63, 24⟩
def SB_STATUS_STATE : Fld := ⟨SB_STATUS, 23, 22⟩
def SB_STATUS_ACTIVE_BANK : Fld := ⟨SB_STATUS, 21, 21⟩
def SB_STATUS_IN_FLIGHT : Fld := ⟨SB_STATUS, 20, 12⟩
def SB_STATUS_PTR : Fld := ⟨SB_STATUS, 11, 0⟩

/-- SB_WAIT_INPUT, Table 13.8. -/
def SB_WAIT_INPUT : Reg :=
  ⟨.sb, 0x94040, true, 0x0, 1, 0x0, []⟩
def SB_WAIT_INPUT_CYCLES : Fld := ⟨SB_WAIT_INPUT, 63, 0⟩

/-- SB_WAIT_GATE, Table 13.8. -/
def SB_WAIT_GATE : Reg :=
  ⟨.sb, 0x94048, true, 0x0, 1, 0x0, []⟩
def SB_WAIT_GATE_CYCLES : Fld := ⟨SB_WAIT_GATE, 63, 0⟩

/-- SB_WAIT_HINT, Table 13.8. -/
def SB_WAIT_HINT : Reg :=
  ⟨.sb, 0x94050, true, 0x0, 1, 0x0, []⟩
def SB_WAIT_HINT_CYCLES : Fld := ⟨SB_WAIT_HINT, 63, 0⟩

/-- SB_WAIT_DEPTH, Table 13.8. -/
def SB_WAIT_DEPTH : Reg :=
  ⟨.sb, 0x94058, true, 0x0, 1, 0x0, []⟩
def SB_WAIT_DEPTH_CYCLES : Fld := ⟨SB_WAIT_DEPTH, 63, 0⟩

/-- SB_FAULT, Table 13.8. -/
def SB_FAULT : Reg :=
  ⟨.sb, 0x94060, true, 0x0, 1, 0x0, []⟩
def SB_FAULT_VALID : Fld := ⟨SB_FAULT, 63, 63⟩
def SB_FAULT_STATUS : Fld := ⟨SB_FAULT, 39, 32⟩
def SB_FAULT_HINT : Fld := ⟨SB_FAULT, 31, 24⟩
def SB_FAULT_CAUSE : Fld := ⟨SB_FAULT, 23, 22⟩
def SB_FAULT_ENTRY : Fld := ⟨SB_FAULT, 11, 0⟩

/-- The field tables of the SB block. -/
def regsSB : List RegRow := [
  ⟨"MODE_SB", MODE_SB, [
    ⟨63, 17, .rsv, 0x0, [.power, .package, .die]⟩,
    ⟨16, 16, .rw, 0x0, [.power, .package, .die]⟩,
    ⟨15, 8, .rsv, 0x0, [.power, .package, .die]⟩,
    ⟨7, 0, .rw, 0x0, [.power, .package, .die]⟩]⟩,
  ⟨"SB_EXPERT", SB_EXPERT, [
    ⟨63, 40, .rsv, 0x0, [.power, .package, .die]⟩,
    ⟨39, 32, .rw, 0x4, [.power, .package, .die]⟩,
    ⟨31, 22, .rsv, 0x0, [.power, .package, .die]⟩,
    ⟨21, 16, .rw, 0x2, [.power, .package, .die]⟩,
    ⟨15, 13, .rsv, 0x0, [.power, .package, .die]⟩,
    ⟨12, 12, .rw, 0x0, [.power, .package, .die]⟩,
    ⟨11, 0, .rw, 0xEF8, [.power, .package, .die]⟩]⟩,
  ⟨"SB_BLK_STATUS", SB_BLK_STATUS, [
    ⟨63, 3, .rsv, 0x0, [.power, .package, .die]⟩,
    ⟨2, 2, .w1c, 0x0, [.power, .package, .die]⟩,
    ⟨1, 1, .w1c, 0x0, [.power, .package, .die]⟩,
    ⟨0, 0, .w1c, 0x0, [.power, .package, .die]⟩]⟩,
  ⟨"SB_BANK0", SB_BANK0, [
    ⟨63, 48, .rsv, 0x0, [.power, .package, .die]⟩,
    ⟨47, 16, .rw, 0x0, [.power, .package, .die]⟩,
    ⟨15, 0, .rsv, 0x0, [.power, .package, .die]⟩]⟩,
  ⟨"SB_BANK1", SB_BANK1, [
    ⟨63, 48, .rsv, 0x0, [.power, .package, .die]⟩,
    ⟨47, 16, .rw, 0x0, [.power, .package, .die]⟩,
    ⟨15, 0, .rsv, 0x0, [.power, .package, .die]⟩]⟩,
  ⟨"HINT_TABLE", HINT_TABLE, [
    ⟨63, 48, .rsv, 0x0, [.power, .package, .die]⟩,
    ⟨47, 13, .rw, 0x0, [.power, .package, .die]⟩,
    ⟨12, 0, .rsv, 0x0, [.power, .package, .die]⟩]⟩,
  ⟨"SB_CMD", SB_CMD, [
    ⟨63, 63, .wo, 0x0, []⟩,
    ⟨62, 62, .wo, 0x0, []⟩,
    ⟨61, 61, .wo, 0x0, []⟩,
    ⟨60, 60, .wo, 0x0, []⟩,
    ⟨59, 52, .rsv, 0x0, []⟩,
    ⟨51, 12, .wo, 0x0, []⟩,
    ⟨11, 0, .wo, 0x0, []⟩]⟩,
  ⟨"SB_STATUS", SB_STATUS, [
    ⟨63, 24, .ro, 0x0, [.power, .package, .die, .refuge]⟩,
    ⟨23, 22, .ro, 0x0, [.power, .package, .die, .refuge]⟩,
    ⟨21, 21, .ro, 0x0, [.power, .package, .die, .refuge]⟩,
    ⟨20, 12, .ro, 0x0, [.power, .package, .die, .refuge]⟩,
    ⟨11, 0, .ro, 0x0, [.power, .package, .die, .refuge]⟩]⟩,
  ⟨"SB_WAIT_INPUT", SB_WAIT_INPUT, [
    ⟨63, 0, .ro, 0x0, [.power, .package, .die, .refuge]⟩]⟩,
  ⟨"SB_WAIT_GATE", SB_WAIT_GATE, [
    ⟨63, 0, .ro, 0x0, [.power, .package, .die, .refuge]⟩]⟩,
  ⟨"SB_WAIT_HINT", SB_WAIT_HINT, [
    ⟨63, 0, .ro, 0x0, [.power, .package, .die, .refuge]⟩]⟩,
  ⟨"SB_WAIT_DEPTH", SB_WAIT_DEPTH, [
    ⟨63, 0, .ro, 0x0, [.power, .package, .die, .refuge]⟩]⟩,
  ⟨"SB_FAULT", SB_FAULT, [
    ⟨63, 63, .w1c, 0x0, [.power, .package, .die, .refuge]⟩,
    ⟨62, 40, .rsv, 0x0, [.power, .package, .die]⟩,
    ⟨39, 32, .ro, 0x0, [.power, .package, .die, .refuge]⟩,
    ⟨31, 24, .ro, 0x0, [.power, .package, .die, .refuge]⟩,
    ⟨23, 22, .ro, 0x0, [.power, .package, .die, .refuge]⟩,
    ⟨21, 12, .rsv, 0x0, [.power, .package, .die]⟩,
    ⟨11, 0, .ro, 0x0, [.power, .package, .die, .refuge]⟩]⟩]

/-! ### TRV -/

/-- MODE_TRV, R509. -/
def MODE_TRV : Reg :=
  ⟨.trv, 0x95000, true, 0x0, 1, 0x0, []⟩
def MODE_TRV_EXPERT : Fld := ⟨MODE_TRV, 16, 16⟩
def MODE_TRV_PRESET : Fld := ⟨MODE_TRV, 7, 0⟩

/-- TRAV_EXPERT, Table 14.10. -/
def TRAV_EXPERT : Reg :=
  ⟨.trv, 0x95008, true, 0x0, 1, 0x113880000, []⟩
def TRAV_EXPERT_RECORD_DROPS : Fld := ⟨TRAV_EXPERT, 32, 32⟩
def TRAV_EXPERT_RETURN_US : Fld := ⟨TRAV_EXPERT, 31, 16⟩
def TRAV_EXPERT_OVERFLOW : Fld := ⟨TRAV_EXPERT, 0, 0⟩

/-- TRAV_BLK_STATUS, Table 14.10. -/
def TRAV_BLK_STATUS : Reg :=
  ⟨.trv, 0x95010, true, 0x0, 1, 0x0, []⟩
def TRAV_BLK_STATUS_CFG_ERR : Fld := ⟨TRAV_BLK_STATUS, 1, 1⟩
def TRAV_BLK_STATUS_PRESET_ERR : Fld := ⟨TRAV_BLK_STATUS, 0, 0⟩

/-- EXPERT_MAP, Table 14.10. -/
def EXPERT_MAP : Reg :=
  ⟨.trv, 0x95018, true, 0x0, 1, 0x0, []⟩
def EXPERT_MAP_BASE : Fld := ⟨EXPERT_MAP, 47, 19⟩

/-- TRAV_RING, Table 14.10. -/
def TRAV_RING : Reg :=
  ⟨.trv, 0x95020, true, 0x0, 1, 0x0, []⟩
def TRAV_RING_BASE : Fld := ⟨TRAV_RING, 47, 15⟩

/-- TRAV_HEAD, Table 14.10. -/
def TRAV_HEAD : Reg :=
  ⟨.trv, 0x95028, true, 0x0, 1, 0x0, []⟩
def TRAV_HEAD_HEAD : Fld := ⟨TRAV_HEAD, 7, 0⟩

/-- TRAV_TAIL, Table 14.10. -/
def TRAV_TAIL : Reg :=
  ⟨.trv, 0x95030, true, 0x0, 1, 0x0, []⟩
def TRAV_TAIL_OPEN : Fld := ⟨TRAV_TAIL, 23, 19⟩
def TRAV_TAIL_IN_PROGRESS : Fld := ⟨TRAV_TAIL, 18, 16⟩
def TRAV_TAIL_TAIL : Fld := ⟨TRAV_TAIL, 7, 0⟩

/-- TRAV_SENT, Table 14.10. -/
def TRAV_SENT : Reg :=
  ⟨.trv, 0x95038, true, 0x0, 1, 0x0, []⟩
def TRAV_SENT_RECORDS : Fld := ⟨TRAV_SENT, 63, 0⟩

/-- TRAV_DROPS, Table 14.10. -/
def TRAV_DROPS : Reg :=
  ⟨.trv, 0x95040, true, 0x0, 1, 0x0, []⟩
def TRAV_DROPS_SOURCE : Fld := ⟨TRAV_DROPS, 63, 32⟩
def TRAV_DROPS_DEPARTED : Fld := ⟨TRAV_DROPS, 31, 0⟩

/-- TRAV_ERRS, Table 14.10. -/
def TRAV_ERRS : Reg :=
  ⟨.trv, 0x95048, true, 0x0, 1, 0x0, []⟩
def TRAV_ERRS_UNMAPPED : Fld := ⟨TRAV_ERRS, 63, 32⟩
def TRAV_ERRS_STRAY : Fld := ⟨TRAV_ERRS, 31, 0⟩

/-- OPEN_STALL, Table 14.10. -/
def OPEN_STALL : Reg :=
  ⟨.trv, 0x95050, true, 0x0, 1, 0x0, []⟩
def OPEN_STALL_CYCLES : Fld := ⟨OPEN_STALL, 63, 0⟩

/-- The field tables of the TRV block. -/
def regsTRV : List RegRow := [
  ⟨"MODE_TRV", MODE_TRV, [
    ⟨63, 17, .rsv, 0x0, [.power, .package, .die]⟩,
    ⟨16, 16, .rw, 0x0, [.power, .package, .die]⟩,
    ⟨15, 8, .rsv, 0x0, [.power, .package, .die]⟩,
    ⟨7, 0, .rw, 0x0, [.power, .package, .die]⟩]⟩,
  ⟨"TRAV_EXPERT", TRAV_EXPERT, [
    ⟨63, 33, .rsv, 0x0, [.power, .package, .die]⟩,
    ⟨32, 32, .rw, 0x1, [.power, .package, .die]⟩,
    ⟨31, 16, .rw, 0x1388, [.power, .package, .die]⟩,
    ⟨15, 1, .rsv, 0x0, [.power, .package, .die]⟩,
    ⟨0, 0, .rw, 0x0, [.power, .package, .die]⟩]⟩,
  ⟨"TRAV_BLK_STATUS", TRAV_BLK_STATUS, [
    ⟨63, 2, .rsv, 0x0, [.power, .package, .die]⟩,
    ⟨1, 1, .w1c, 0x0, [.power, .package, .die]⟩,
    ⟨0, 0, .w1c, 0x0, [.power, .package, .die]⟩]⟩,
  ⟨"EXPERT_MAP", EXPERT_MAP, [
    ⟨63, 48, .rsv, 0x0, [.power, .package, .die]⟩,
    ⟨47, 19, .rw, 0x0, [.power, .package, .die]⟩,
    ⟨18, 0, .rsv, 0x0, [.power, .package, .die]⟩]⟩,
  ⟨"TRAV_RING", TRAV_RING, [
    ⟨63, 48, .rsv, 0x0, [.power, .package, .die]⟩,
    ⟨47, 15, .rw, 0x0, [.power, .package, .die]⟩,
    ⟨14, 0, .rsv, 0x0, [.power, .package, .die]⟩]⟩,
  ⟨"TRAV_HEAD", TRAV_HEAD, [
    ⟨63, 8, .rsv, 0x0, [.power, .package, .die]⟩,
    ⟨7, 0, .rw, 0x0, [.power, .package, .die, .refuge]⟩]⟩,
  ⟨"TRAV_TAIL", TRAV_TAIL, [
    ⟨63, 24, .rsv, 0x0, [.power, .package, .die]⟩,
    ⟨23, 19, .ro, 0x0, [.power, .package, .die, .refuge]⟩,
    ⟨18, 16, .ro, 0x0, [.power, .package, .die, .refuge]⟩,
    ⟨15, 8, .rsv, 0x0, [.power, .package, .die]⟩,
    ⟨7, 0, .ro, 0x0, [.power, .package, .die, .refuge]⟩]⟩,
  ⟨"TRAV_SENT", TRAV_SENT, [
    ⟨63, 0, .ro, 0x0, [.power, .package, .die, .refuge]⟩]⟩,
  ⟨"TRAV_DROPS", TRAV_DROPS, [
    ⟨63, 32, .ro, 0x0, [.power, .package, .die, .refuge]⟩,
    ⟨31, 0, .ro, 0x0, [.power, .package, .die, .refuge]⟩]⟩,
  ⟨"TRAV_ERRS", TRAV_ERRS, [
    ⟨63, 32, .ro, 0x0, [.power, .package, .die, .refuge]⟩,
    ⟨31, 0, .ro, 0x0, [.power, .package, .die, .refuge]⟩]⟩,
  ⟨"OPEN_STALL", OPEN_STALL, [
    ⟨63, 0, .ro, 0x0, [.power, .package, .die, .refuge]⟩]⟩]

/-! ### CLR -/

/-- MODE_CLR, R509. -/
def MODE_CLR : Reg :=
  ⟨.clr, 0x98000, true, 0x0, 1, 0x0, []⟩
def MODE_CLR_EXPERT : Fld := ⟨MODE_CLR, 16, 16⟩
def MODE_CLR_PRESET : Fld := ⟨MODE_CLR, 7, 0⟩

/-- COULOIR_EXPERT, Table 13.10. -/
def COULOIR_EXPERT : Reg :=
  ⟨.clr, 0x98008, true, 0x0, 1, 0x11388, []⟩
def COULOIR_EXPERT_RECORD_REWIND : Fld := ⟨COULOIR_EXPERT, 16, 16⟩
def COULOIR_EXPERT_COMMIT_US : Fld := ⟨COULOIR_EXPERT, 15, 0⟩

/-- COULOIR_BLK_STATUS, Table 13.10. -/
def COULOIR_BLK_STATUS : Reg :=
  ⟨.clr, 0x98010, true, 0x0, 1, 0x0, []⟩
def COULOIR_BLK_STATUS_CFG_ERR : Fld := ⟨COULOIR_BLK_STATUS, 1, 1⟩
def COULOIR_BLK_STATUS_PRESET_ERR : Fld := ⟨COULOIR_BLK_STATUS, 0, 0⟩

/-- RES_REFUSED, Table 13.10. -/
def RES_REFUSED : Reg :=
  ⟨.clr, 0x98018, true, 0x0, 1, 0x0, []⟩
def RES_REFUSED_COUNT : Fld := ⟨RES_REFUSED, 63, 0⟩

/-- Q_CFG, Table 13.10. -/
def Q_CFG : Reg :=
  ⟨.clr, 0x99000, true, 0x80, 64, 0x0, []⟩
def Q_CFG_ENABLE : Fld := ⟨Q_CFG, 63, 63⟩
def Q_CFG_BASE : Fld := ⟨Q_CFG, 47, 12⟩

/-- Q_SIZE, Table 13.10. -/
def Q_SIZE : Reg :=
  ⟨.clr, 0x99008, true, 0x80, 64, 0x10, []⟩
def Q_SIZE_SIZE : Fld := ⟨Q_SIZE, 20, 0⟩

/-- Q_STATUS, Table 13.10. -/
def Q_STATUS : Reg :=
  ⟨.clr, 0x99010, true, 0x80, 64, 0x8000000000000000, []⟩
def Q_STATUS_EMPTY : Fld := ⟨Q_STATUS, 63, 63⟩
def Q_STATUS_UNDERRUN : Fld := ⟨Q_STATUS, 62, 62⟩
def Q_STATUS_PACKETS : Fld := ⟨Q_STATUS, 47, 32⟩
def Q_STATUS_WORDS : Fld := ⟨Q_STATUS, 26, 0⟩

/-- Q_HEAD, Table 13.10. -/
def Q_HEAD : Reg :=
  ⟨.clr, 0x99018, true, 0x80, 64, 0x0, []⟩
def Q_HEAD_STEP : Fld := ⟨Q_HEAD, 63, 24⟩
def Q_HEAD_OPEN : Fld := ⟨Q_HEAD, 23, 23⟩
def Q_HEAD_REMAIN : Fld := ⟨Q_HEAD, 18, 0⟩

/-- Q_SRC, Table 13.10. -/
def Q_SRC : Reg :=
  ⟨.clr, 0x99020, true, 0x80, 64, 0x0, []⟩
def Q_SRC_SRC : Fld := ⟨Q_SRC, 15, 0⟩

/-- Q_CMD, Table 13.10. -/
def Q_CMD : Reg :=
  ⟨.clr, 0x99028, true, 0x80, 64, 0x0, []⟩
def Q_CMD_DROP_REST : Fld := ⟨Q_CMD, 63, 63⟩

/-- Q_HIGH_WATER, Table 13.10. -/
def Q_HIGH_WATER : Reg :=
  ⟨.clr, 0x99030, true, 0x80, 64, 0x0, []⟩
def Q_HIGH_WATER_CLEAR_HW : Fld := ⟨Q_HIGH_WATER, 63, 63⟩
def Q_HIGH_WATER_HIGH_WATER : Fld := ⟨Q_HIGH_WATER, 26, 0⟩

/-- Q_GRANT_WAIT, Table 13.10. -/
def Q_GRANT_WAIT : Reg :=
  ⟨.clr, 0x99038, true, 0x80, 64, 0x0, []⟩
def Q_GRANT_WAIT_CYCLES : Fld := ⟨Q_GRANT_WAIT, 63, 0⟩

/-- Q_REWINDS, Table 13.10. -/
def Q_REWINDS : Reg :=
  ⟨.clr, 0x99040, true, 0x80, 64, 0x0, []⟩
def Q_REWINDS_REWINDS : Fld := ⟨Q_REWINDS, 63, 32⟩
def Q_REWINDS_UNDERRUNS : Fld := ⟨Q_REWINDS, 31, 0⟩

/-- The field tables of the CLR block. -/
def regsCLR : List RegRow := [
  ⟨"MODE_CLR", MODE_CLR, [
    ⟨63, 17, .rsv, 0x0, [.power, .package, .die]⟩,
    ⟨16, 16, .rw, 0x0, [.power, .package, .die]⟩,
    ⟨15, 8, .rsv, 0x0, [.power, .package, .die]⟩,
    ⟨7, 0, .rw, 0x0, [.power, .package, .die]⟩]⟩,
  ⟨"COULOIR_EXPERT", COULOIR_EXPERT, [
    ⟨63, 17, .rsv, 0x0, [.power, .package, .die]⟩,
    ⟨16, 16, .rw, 0x1, [.power, .package, .die]⟩,
    ⟨15, 0, .rw, 0x1388, [.power, .package, .die]⟩]⟩,
  ⟨"COULOIR_BLK_STATUS", COULOIR_BLK_STATUS, [
    ⟨63, 2, .rsv, 0x0, [.power, .package, .die]⟩,
    ⟨1, 1, .w1c, 0x0, [.power, .package, .die]⟩,
    ⟨0, 0, .w1c, 0x0, [.power, .package, .die]⟩]⟩,
  ⟨"RES_REFUSED", RES_REFUSED, [
    ⟨63, 0, .ro, 0x0, [.power, .package, .die, .refuge]⟩]⟩,
  ⟨"Q_CFG", Q_CFG, [
    ⟨63, 63, .rw, 0x0, [.power, .package, .die]⟩,
    ⟨62, 48, .rsv, 0x0, [.power, .package, .die]⟩,
    ⟨47, 12, .rw, 0x0, [.power, .package, .die]⟩,
    ⟨11, 0, .rsv, 0x0, [.power, .package, .die]⟩]⟩,
  ⟨"Q_SIZE", Q_SIZE, [
    ⟨63, 21, .rsv, 0x0, [.power, .package, .die]⟩,
    ⟨20, 0, .rw, 0x10, [.power, .package, .die]⟩]⟩,
  ⟨"Q_STATUS", Q_STATUS, [
    ⟨63, 63, .ro, 0x1, [.power, .package, .die, .refuge]⟩,
    ⟨62, 62, .w1c, 0x0, [.power, .package, .die, .refuge]⟩,
    ⟨61, 48, .rsv, 0x0, [.power, .package, .die]⟩,
    ⟨47, 32, .ro, 0x0, [.power, .package, .die, .refuge]⟩,
    ⟨31, 27, .rsv, 0x0, [.power, .package, .die]⟩,
    ⟨26, 0, .ro, 0x0, [.power, .package, .die, .refuge]⟩]⟩,
  ⟨"Q_HEAD", Q_HEAD, [
    ⟨63, 24, .ro, 0x0, [.power, .package, .die, .refuge]⟩,
    ⟨23, 23, .ro, 0x0, [.power, .package, .die, .refuge]⟩,
    ⟨22, 19, .rsv, 0x0, [.power, .package, .die]⟩,
    ⟨18, 0, .ro, 0x0, [.power, .package, .die, .refuge]⟩]⟩,
  ⟨"Q_SRC", Q_SRC, [
    ⟨63, 16, .rsv, 0x0, [.power, .package, .die]⟩,
    ⟨15, 0, .ro, 0x0, [.power, .package, .die, .refuge]⟩]⟩,
  ⟨"Q_CMD", Q_CMD, [
    ⟨63, 63, .wo, 0x0, []⟩,
    ⟨62, 0, .rsv, 0x0, []⟩]⟩,
  ⟨"Q_HIGH_WATER", Q_HIGH_WATER, [
    ⟨63, 63, .wo, 0x0, []⟩,
    ⟨62, 27, .rsv, 0x0, [.power, .package, .die]⟩,
    ⟨26, 0, .ro, 0x0, [.power, .package, .die, .refuge]⟩]⟩,
  ⟨"Q_GRANT_WAIT", Q_GRANT_WAIT, [
    ⟨63, 0, .ro, 0x0, [.power, .package, .die, .refuge]⟩]⟩,
  ⟨"Q_REWINDS", Q_REWINDS, [
    ⟨63, 32, .ro, 0x0, [.power, .package, .die, .refuge]⟩,
    ⟨31, 0, .ro, 0x0, [.power, .package, .die, .refuge]⟩]⟩]

end Sys2Proof.Machine
end

