-- ==== Sys2Proof/Machine/RegTable.lean ====
section
/-!
DEFINITION. The whole field table, the lookup of an offset, and the presets of every block (R18 to R23).
-/
namespace Sys2Proof.Machine

/-- Every register of the set-up space (Table 21.6). -/
def regTable : List RegRow :=
  regsGLB ++ regsMAS ++ regsPOOL ++ regsPKG ++ regsPWR ++ regsSTA ++ regsSEC ++ regsST ++ regsERR ++ regsRED ++ regsUPD ++ regsCOR ++ regsHOST ++ regsCORE ++ regsFLAG ++ regsTAL ++ regsVEC ++ regsCON ++ regsREM ++ regsRDG ++ regsCRY ++ regsSB ++ regsTRV ++ regsCLR

/-- The MODE register of a block (R509). -/
def Blk.mode : Blk → Reg
  | .glb => MODE_GLB
  | .mas => MODE_MAS
  | .pool => MODE_POOL
  | .pkg => MODE_PKG
  | .pwr => MODE_PWR
  | .sta => MODE_STA
  | .sec => MODE_SEC
  | .st => MODE_ST
  | .err => MODE_ERR
  | .red => MODE_RED
  | .upd => MODE_UPD
  | .cor => MODE_COR
  | .host => MODE_HOST
  | .core => MODE_CORE
  | .flag => MODE_FLAG
  | .tal => MODE_TAL
  | .vec => MODE_VEC
  | .con => MODE_CON
  | .rem => MODE_REM
  | .rdg => MODE_RDG
  | .cry => MODE_CRY
  | .sb => MODE_SB
  | .trv => MODE_TRV
  | .clr => MODE_CLR

/-- The expert register of a block; the global block has none (its own MODE stands in, with no expert field). -/
def Blk.expert : Blk → Option Reg
  | .glb => none
  | .mas => some MASSIF_EXPERT
  | .pool => some POOL_EXPERT
  | .pkg => some PKG_EXPERT
  | .pwr => some PWR_EXPERT
  | .sta => some STATE_EXPERT
  | .sec => some SEC_EXPERT
  | .st => some ST_EXPERT
  | .err => some ERR_EXPERT
  | .red => some RED_EXPERT
  | .upd => some UPD_EXPERT
  | .cor => some CORNICE_EXPERT
  | .host => some HOST_EXPERT
  | .core => some CORE_EXPERT
  | .flag => some FLAG_EXPERT
  | .tal => some TALUS_EXPERT
  | .vec => some VEC_EXPERT
  | .con => some CONTOUR_EXPERT
  | .rem => some REMOTE_EXPERT
  | .rdg => some RIDGE_EXPERT
  | .cry => some CRYPT_EXPERT
  | .sb => some SB_EXPERT
  | .trv => some TRAV_EXPERT
  | .clr => some COULOIR_EXPERT

/-- The PRESET_ERR bit of a block (R23). -/
def Blk.presetErr : Blk → Fld
  | .glb => GLOBAL_STATUS_PRESET_ERR
  | .mas => MASSIF_BLK_STATUS_PRESET_ERR
  | .pool => POOL_BLK_STATUS_PRESET_ERR
  | .pkg => PKG_BLK_STATUS_PRESET_ERR
  | .pwr => PWR_BLK_STATUS_PRESET_ERR
  | .sta => STATE_BLK_STATUS_PRESET_ERR
  | .sec => SEC_BLK_STATUS_PRESET_ERR
  | .st => ST_BLK_STATUS_PRESET_ERR
  | .err => ERR_BLK_STATUS_PRESET_ERR
  | .red => RED_BLK_STATUS_PRESET_ERR
  | .upd => UPD_BLK_STATUS_PRESET_ERR
  | .cor => CORNICE_BLK_STATUS_PRESET_ERR
  | .host => HOST_BLK_STATUS_PRESET_ERR
  | .core => CORE_BLK_STATUS_PRESET_ERR
  | .flag => FLAG_BLK_STATUS_PRESET_ERR
  | .tal => TALUS_BLK_STATUS_PRESET_ERR
  | .vec => VEC_BLK_STATUS_PRESET_ERR
  | .con => CONTOUR_BLK_STATUS_PRESET_ERR
  | .rem => REMOTE_BLK_STATUS_PRESET_ERR
  | .rdg => RIDGE_BLK_STATUS_PRESET_ERR
  | .cry => CRYPT_BLK_STATUS_PRESET_ERR
  | .sb => SB_BLK_STATUS_PRESET_ERR
  | .trv => TRAV_BLK_STATUS_PRESET_ERR
  | .clr => COULOIR_BLK_STATUS_PRESET_ERR

/-- The expert register value that each listed preset implies on die d (the preset tables of the chapters), by code. -/
def Blk.presets (b : Blk) (d : Nat) : List (Nat × Nat) :=
  match b with
  | .glb => [(0, 0x0)]
  | .mas => [(0, 0xA050000C8), (1, 0x32140007D0)]
  | .pool => [(0, 0x32), (1, 0x10014)]
  | .pkg => [(0, 0x101), (1, 0x10A01), (2, 0x100)]
  | .pwr => [(0, 0x5F0001), (1, 0x5A0001)]
  | .sta => [(0, 0x3), (1, 0x0)]
  | .sec => [(0, 0x10100), (1, 0x100)]
  | .st => [(0, 0x6400000000), (1, 0x64001800FE), (2, 0x640018001E)]
  | .err => [(0, 0x3E8), (1, 0x0)]
  | .red => [(0, 0x7D000000000), (1, 0x7D000000001), (2, 0x7D000000008)]
  | .upd => [(0, 0x110), (1, 0x140), (2, 0x10)]
  | .cor => [(0, 0x140F000303), (1, 0x140F000301), (2, 0x140F000300)]
  | .host => [(0, 0x8000A0000), (1, 0x8000A0001), (2, 0x800640001)]
  | .core => [(0, 0xF0), (1, 0xF1), (2, 0x10)]
  | .flag => [(0, 0x0), (1, 0x8), (2, 0x1B)]
  | .tal => [(0, 0x1040001800), (1, 0x110000800), (2, 0x1040000000)]
  | .vec => [(0, 0x3), (1, 0x1), (2, 0x0)]
  | .con => [(0, 0x3), (1, 0x2), (2, 0x1)]
  | .rem => [(0, 0x14000001388), (1, 0x140000003E8), (2, 0x4000001388)]
  | .rdg => [(0, 0x1F410000000 + [0x888, 0xac8, 0x8d0, 0xad1].getD d 0), (1, 0x1F410000000 + [0x688, 0x688, 0x688, 0x688].getD d 0), (2, 0x1F410000000 + [0xdb6, 0xdb6, 0xdb6, 0xdb6].getD d 0)]
  | .cry => [(0, 0x0), (1, 0xF)]
  | .sb => [(0, 0x400020EF8), (1, 0x1000040EF8), (2, 0x400021EF8)]
  | .trv => [(0, 0x113880000), (1, 0x113880001), (2, 0x13880000)]
  | .clr => [(0, 0x11388), (1, 0x103E8), (2, 0x1388)]

/-- Whether offset `o` is an entry of register array r on die d: its index. -/
def Reg.indexOf (r : Reg) (d o : Nat) : Option Nat :=
  let a := r.addr d 0
  if o < a then none
  else if r.stride = 0 then (if o = a then some 0 else none)
  else if (o - a) % r.stride = 0 ∧ (o - a) / r.stride < r.count then some ((o - a) / r.stride)
  else none

/-- The Crest die whose region holds an offset (R502); 0 for the lower half, which belongs to no die. -/
def dieOfOffset (o : Nat) : Nat := if 0x80000 ≤ o then (o - 0x80000) / 0x20000 else 0

/-- Index 4d + j of the update engine registers exists for j below 3 only (Table 1.2: three update engines a die). -/
def Reg.hole (r : Reg) (i : Nat) : Bool :=
  r.blk == .upd && r.stride == 0x40 && i % 4 == 3

/-- The register at a BAR0 offset, its die and its index; none where the offset is unmapped (R502, R503). -/
def findReg (o : Nat) : Option (RegRow × Nat × Nat) :=
  let d := dieOfOffset o
  if 0x100000 ≤ o then none
  else
    (regTable.find? (fun e => (e.reg.perDie || o < 0x80000) && (e.reg.indexOf d o).isSome)).bind fun e =>
      match e.reg.indexOf d o with
      | some i => if e.reg.hole i then none else some (e, d, i)
      | none => none

end Sys2Proof.Machine
end

