-- ==== Sys2Proof/Machine/StFabric.lean ====
section
/-!
DEFINITION. State of the Ridge fabric (chapter 08): the sixteen ports' link layer, the trail generation, membership and
role timers, and what the summit role keeps.
-/
namespace Sys2Proof.Machine

open Sys2Proof

/-- A link of the torus: from coordinate (x, y, z) to the next one along dimension dim (0 X, 1 Y, 2 Z; R229). -/
structure TorusLink where
  dim : Nat
  x : Nat
  y : Nat
  z : Nat
  deriving DecidableEq, Repr

/-- A flit in a retry buffer: its sequence number, the ACK it was sent with, VC, kind, the packets with bytes in it, its packet bytes,
and where it went encrypted the key slot with the ciphertext and tag that were sent (R216 to R218, R483, R484). -/
structure TxFlit where
  seq : Nat
  ack : Nat
  vc : Nat
  rsp : Bool
  pkts : List Packet
  payload : List Byte
  sealed : Option (Nat × List Byte)
  deriving DecidableEq, Repr

/-- Bytes of one VC and kind that have entered no flit yet, with the packets they belong to (R217). -/
structure TxStream where
  pkts : List Packet
  bytes : List Byte
  deriving DecidableEq, Repr

/-- A packet in a receive buffer (R219): the flits it gives back when it has left, and whether it has been forwarded. -/
structure RxPacket where
  pkt : Packet
  flits : Nat
  taken : Bool
  deriving DecidableEq, Repr

/-- One pool of a receive buffer: the bytes of a packet that has not come in whole, the flits that end in it, and the packets that
have and whose flits are still held (R219). -/
structure RxPool where
  bytes : List Byte
  opened : Nat
  held : List RxPacket
  deriving DecidableEq, Repr

def RxPool.zero : RxPool := ⟨[], 0, []⟩

/-- One port beside its registers: the DIR of its present training and the lanes it runs on, sequence numbers, retry buffer,
bytes that wait by pool, credits used at the peer by pool, arbitration turns, the flit replayed last and how often, its
receive buffer by pool, the packets that wait while the port is in RETRAIN, its nonces and the peer's serial number, the width
before RETRAIN and its deadline, the delay that the exchange measured (R254), whether its trailhead exchange has passed, whether a
self-test has it out of its slot until it is UP again (R488), and the lanes (a mask) that a self-test excludes (R489). -/
structure Port where
  dir : Nat
  lanes : List Nat
  txNext : Nat
  buffer : List TxFlit
  streams : KMap TxStream
  used : KMap Nat
  turn : Nat
  rspTurn : KMap Bool
  replaySeq : Nat
  replays : Nat
  rxNext : Nat
  rx : KMap RxPool
  parked : List Packet
  nonceOwn : Nat
  noncePeer : Nat
  peerSerial : Option Nat
  peerDevice : Nat
  keepWidth : Nat
  deadline : Nat
  delay : Nat
  verified : Bool
  away : Bool
  excluded : Nat
  deriving DecidableEq, Repr

/-- A port after a reset: no DIR (6 is unused), nothing sent or received. -/
def Port.zero : Port :=
  ⟨6, [], 0, [], [], [], 2, [], 0, 0, 0, [], [], 0, 0, none, 0, 0, 0, 0, false, false, 0⟩

def TxStream.zero : TxStream := ⟨[], []⟩

/-- A packet that waits for its flow to move back (R234): the flow's key with its kind, the port it waits for, the packet. -/
structure ParkedFlow where
  key : Nat
  port : Nat
  pkt : Packet
  deriving DecidableEq, Repr

/-- One admitted member: device identifier, serial number, job; at the summit the fabric time of its last PRESENT and the
job that a partition assigns it next. -/
structure Member where
  device : Nat
  serial : Nat
  job : Nat
  present : Nat
  nextJob : Option Nat
  deriving DecidableEq, Repr

/-- An installed link key (R484): its four words, its salt, and the flits counted under it. -/
structure KeySlot where
  key : List Nat
  salt : Nat
  count : Nat
  deriving DecidableEq, Repr

def KeySlot.zero : KeySlot := ⟨[], 0, 0⟩

/-- The 32 bytes of a key: bytes 8k to 8k + 7 are word k (Table 19.12). -/
def KeySlot.bytes (k : KeySlot) : List Byte := k.key.flatMap (leBytes 8)

/-- The IV of the next flit under a key: the salt, then the count (R484; both little-endian, assumption 96). -/
def KeySlot.iv (k : KeySlot) : List Byte := leBytes 4 k.salt ++ leBytes 8 k.count

/-- The fabric: ports; link keys by port × 4 + direction × 2 + slot (direction 0 send, 1 receive); the port each flow of a kind used last and the packets that wait for a flow's return; the installed
generation (R229) with the sizes (MASSIF_DIMS) and the own identifier its trail table was computed from, old signs still in use by die × 16384 + device (R231), membership and its version, heartbeats heard and the TERM of the last,
timers, the TERM of the membership last adopted, a job that the summit has published for this package while it still had work in flight, with the EFFECTIVE_STEP of that
job's re-shard once one is heard (R47, R245), and at the summit the reported dead bundles, by device × 8 + DIR. -/
structure Fabric where
  ports : KMap Port
  keys : KMap KeySlot
  flowPort : KMap Nat
  parked : List ParkedFlow
  gen : Nat
  admitted : List Nat
  dead : List TorusLink
  tableDims : Nat
  tableDevice : Nat
  oldSigns : KMap Nat
  members : List Member
  version : Nat
  memberTerm : Nat
  termSeen : Nat
  beatTerm : Nat
  heard : Bool
  lastBeat : Nat
  beats : Nat
  aloneSince : Nat
  lowerHeard : Bool
  joinAt : Option Nat
  moveTo : Option (Nat × Option Nat)
  reports : List Nat
  nextBeat : Nat
  deriving DecidableEq, Repr

/-- After power-on: generation 0, no membership. -/
def Fabric.zero : Fabric := ⟨[], [], [], [], 0, [], [], 0, 0, [], [], 0, 0, 0, 0, false, 0, 0, 0, false, none, none, [], 0⟩

end Sys2Proof.Machine
end

