-- ==== Sys2Proof/Machine/StHost.lean ====
section
/-!
DEFINITION. State of the host link (chapter 15), as far as no register holds it: descriptors in flight, chains, doorbell
copies, completions that wait or are spilled, interrupts, the snoop filter, the CXL link.
-/
namespace Sys2Proof.Machine

open Sys2Proof

/-- A descriptor that has a handle (Tables 15.3, 15.5): a number of its own, since SQ_EN set anew may give a handle twice (R407), its ring, its
place in the ring's fetch order, its fields, whether its ORDER wait is over, whether it has started, and whether a function reset discards
its completion. -/
structure Desc where
  uid : Nat
  handle : Nat
  ring : Nat
  order : Nat
  opcode : Nat
  flags : Nat
  cq : Nat
  cls : Nat
  die : Nat
  mask : Nat
  step : Nat
  a0 : Nat
  a1 : Nat
  a2 : Nat
  a3 : Nat
  released : Bool
  started : Bool
  discard : Bool
  deriving DecidableEq, Repr

/-- A running chain (R405): the next descriptor's address, the ring, how many were read. -/
structure Chain where
  addr : Nat
  ring : Nat
  count : Nat
  deriving DecidableEq, Repr

/-- A completion (Table 15.6), with its IRQ flag, the number of the descriptor it completes, and its slot while it is spilled. -/
structure Completion where
  uid : Nat
  slot : Nat
  id : Nat
  status : Nat
  kind : Nat
  opcode : Nat
  unbound : Bool
  result : Nat
  step : Nat
  cq : Nat
  detail : Nat
  ftime : Nat
  irq : Bool
  deriving DecidableEq, Repr

/-- One ring pair beside its registers: the last doorbell values read, descriptors fetched in order, completions written
and not signalled, when the oldest of those was written, completions lost and not reported (R411, R412, R414). -/
structure RingPair where
  sqTail : Nat
  cqHead : Nat
  orders : Nat
  unsignalled : Nat
  oldest : Nat
  lost : Nat
  chained : Nat
  deriving DecidableEq, Repr

def RingPair.zero : RingPair := ⟨0, 0, 0, 0, 0, 0, 0⟩

/-- A host access to a line of HDM (R391): 0 a read that keeps no copy, 1 a read of a shared copy, 2 a read of a copy that the
host may modify, 3 a write that gives the line back; for a write its bytes and whether they carry poison. -/
structure HdmAccess where
  line : Nat
  kind : Nat
  data : List Byte
  pois : Bool
  deriving DecidableEq, Repr

/-- The host link: descriptors, chains, completions that wait for COMPLETION_POST, rings, the spill area in order of
arrival, the round-robin turn, MSI-X table words and pending bits, successive failed host requests, snoop filter lines in
grant order (line, whether the host may hold it modified), the line that is back-invalidated to make room (R392), the committed HDM size,
the IDE streams with keys (stream × 2^256 + key), CXL.cachemem IDE with its mode (true: skid) and key (R387, R390), the CXL link's state, and
descriptors numbered so far. -/
structure HostLink where
  descs : List Desc
  chains : List Chain
  due : List Completion
  rings : KMap RingPair
  spill : List Completion
  turn : Nat
  msix : KMap Nat
  pending : KMap Bool
  failedRun : Nat
  snoop : List (Nat × Bool)
  victim : Option Nat
  hdmSize : Nat
  ide : List Nat
  cxlIde : Option (Bool × Nat)
  linkUp : Bool
  linkWidth : Nat
  linkRate : Nat
  uids : Nat
  deriving DecidableEq, Repr

def HostLink.zero : HostLink :=
  ⟨[], [], [], [], [], 0, [], [], 0, [], none, 0, [], none, false, 0, 0, 0⟩

end Sys2Proof.Machine
end

