-- ==== Sys2Proof/Machine/StCore.lean ====
section
/-!
DEFINITION. State of one core (chapters 02 to 05): tile queue, tile address registers, event counters, pipes, vector
engine, Spur-side registers. The registers that BAR0 shows are in the register file of State.
-/
namespace Sys2Proof.Machine

open Sys2Proof

/-- One queued tile instruction word with what TQ.PUSH captured: the TA registers (R59), SRSTEP and SRBLOCK (R102, R136)
and the package's job. -/
structure TqEntry where
  word : Word
  ta : List Word
  srstep : Nat
  srblock : Nat
  job : Nat
  deriving DecidableEq, Repr

/-- One outstanding move-pipe instruction (R62): its queue entry, whether it is a remote operation, whether its bytes have been
copied, and the number by which its remote operation finds it. -/
structure MoveOp where
  entry : TqEntry
  remote : Bool
  copied : Bool
  uid : Nat
  deriving DecidableEq, Repr

/-- One accumulator-pipe instruction in flight (R62, R63, R76 to R78): its entry, the ECC errors its reads meet, its issue cycles, whether it has
started (its effect is whole then, assumption 7), and the times of its last issue cycle and of its landing. -/
structure AccOp where
  entry : TqEntry
  errs : List AccErr
  cycles : Nat
  begun : Bool
  last : Nat
  final : Nat
  deriving DecidableEq, Repr

/-- A vector register (R138): 256 bytes, and one poison mark for each byte (Table 20.5a). -/
structure VReg where
  data : BitVec 2048
  pois : BitVec 256
  deriving DecidableEq, Repr

/-- A predicate (R138): 128 bits, and a poison mark for each. -/
structure PReg where
  data : BitVec 128
  pois : BitVec 128
  deriving DecidableEq, Repr

/-- A 64-bit summary slot with its poison mark. -/
structure Slot where
  data : Word
  pois : Bool
  deriving DecidableEq, Repr

def VReg.zero : VReg := ⟨0, 0⟩
def PReg.zero : PReg := ⟨0, 0⟩
def Slot.zero : Slot := ⟨0, false⟩

/-- The register state of a vector engine or an update engine (R138, R153): registers, predicates, readable slots. -/
structure VecRegs where
  v : KMap VReg
  p : KMap PReg
  slots : KMap Slot
  deriving DecidableEq, Repr

/-- One VEC_RUN in the vector pipe (R62, R135): its entry; once begun, the image that was read (R131), where the run
stands, its working slots (R153), its accumulated flags, SKIP_AFTER_FAULT and RECORD_FAULT as they stood when it reached
the pipe, whether it faulted, and the issue model of R157 and R158: the cycle the next
instruction may issue, counted from the array cycle `base` in which the run began, the landing cycles of registers (0 to 31 vector, 32 to 39 predicates), issues so far, and the cycle
the last effect lands. An MMA on the vector route (R80, R137) stands here as `mma`, and its run fields are empty. -/
structure VecRun where
  entry : TqEntry
  skip : Bool
  record : Bool
  begun : Bool
  faulted : Bool
  code : List Nat
  outmask : Nat
  offsets : List Nat
  strides : List Nat
  pc : Nat
  iter : Nat
  done : Bool
  work : KMap Slot
  flags : Nat
  base : Nat
  ready : Nat
  land : KMap Nat
  issued : Nat
  endCycle : Nat
  mma : Option AccOp
  deriving DecidableEq, Repr

/-- An entry of the vector pipe as it enters. -/
def VecRun.enter (e : TqEntry) (skip record : Bool) (mma : Option AccOp) : VecRun :=
  ⟨e, skip, record, false, false, [], 0, [], [], 0, 0, false, [], 0, 0, 0, [], 0, 0, mma⟩

/-- A Spur core instruction that stalls: a TQ.PUSH to a full queue (R60), a VS.RDW (R155), or a load or store that its controller, a
tile-instruction boundary or a path change holds (Table 6.3, R31, R38). -/
inductive SpurStall where
  | push (word : Word)
  | rdw (rd slot upTo : Nat)
  | access (store : Bool) (n : Nat) (sign : Bool) (rd addr : Nat) (value : Word)
  deriving DecidableEq, Repr

/-- One core. `x` is the Spur core's register file as far as the custom instructions and loads write it; `mcause` the
cause of the latest exception; `extIrq` the machine external interrupt that a fault raises (R83, R161); `ecc` the ECC errors of its
accumulator file that no read has met yet (R114). -/
structure Core where
  ta : KMap Word
  ec : KMap Nat
  tq : List TqEntry
  held : Bool
  moves : List MoveOp
  moveSeq : Nat
  acc : List AccOp
  vec : List VecRun
  vecPushed : Nat
  vecDone : Nat
  regs : VecRegs
  x : KMap Word
  pc : Nat
  mcause : Option Nat
  extIrq : Bool
  stall : Option SpurStall
  srstep : Nat
  srblock : Nat
  ecc : List AccErr
  deriving DecidableEq, Repr

def VecRegs.zero : VecRegs := ⟨[], [], []⟩

/-- A core after core reset: counters and TA registers 0, queue empty, vector registers, predicates and slots 0 (R85,
R138). -/
def Core.zero : Core :=
  ⟨[], [], [], false, [], 0, [], [], 0, 0, VecRegs.zero, [], 0, none, false, none, 0, 0, []⟩

end Sys2Proof.Machine
end

