-- ==== Sys2Proof/Machine/StPackage.lean ====
section
/-!
DEFINITION. State of the Talus controllers (chapter 06), the package's shells, paths and links (chapters 01, 16), the
error unit and self-test (chapter 20), and the reset and low-power state (chapter 18), as far as no register holds it.
-/
namespace Sys2Proof.Machine

open Sys2Proof

/-- A controller access to a granule (R165): the symbol errors its granule read meets, and for a write the first byte and the
bytes. -/
inductive HeldAccess where
  | read (granule : Nat) (errs : List SymErr)
  | write (granule first : Nat) (data : List Byte) (poison : Bool) (errs : List SymErr)
  deriving DecidableEq, Repr

/-- Why a stack is in TRAINING (Table 6.4): at boot, after a refused restore, or in a self-test slot. -/
inductive TrainKind where
  | boot | restoreRefused | selftest
  deriving DecidableEq, Repr

/-- One Talus controller: the wire of the running streak of corrected errors and its length (R169), the kind of training, and the symbol
errors that stand in stored granules, by granule (R167, assumption 94). -/
structure Stack where
  streakWire : Nat
  streak : Nat
  training : TrainKind
  errs : List (Nat × SymErr)
  deriving DecidableEq, Repr

def Stack.zero : Stack := ⟨0, 0, .boot, []⟩

/-- The calibration a shell works with (R43): what its n-th training found, from the default start point or not, or the body of an
image that it restored. -/
inductive Calibration where
  | trained (n : Nat) (fromDefault : Bool)
  | image (body : List Byte)
  deriving DecidableEq, Repr

/-- One analogue shell (Table 1.9): the calibration it works with, the one its own image holds at the Camp die where it saved one
(Table 6.4, R463), its trainings so far, its image-refused alarm (R44), and whether it trains from its default start point when
next enabled. -/
structure Shell where
  present : Calibration
  saved : Option Calibration
  trainings : Nat
  refused : Bool
  defaultStart : Bool
  deriving DecidableEq, Repr

def Shell.zero : Shell := ⟨.trained 0 true, none, 0, false, false⟩

/-- The path of one (source, destination) die pair (R30, R31, R425): the dies it visits after the source (none listed: the
normal path), and whether requests issued since its last change wait for the old path to empty. -/
structure PairPath where
  path : List Nat
  waiting : Bool
  deriving DecidableEq, Repr

def PairPath.zero : PairPath := ⟨[], false⟩

/-- A flit in the hold buffer of a Saddle sender (R420): its 512 bytes, where they land if they are a transfer's data, when it was sent
(ticks), and whether the receiver discarded it. -/
structure SaddleFlit where
  data : List Byte
  dst : Option Nat
  sentAt : Nat
  discarded : Bool
  deriving DecidableEq, Repr

/-- One end of a Saddle link. As receiver: dead wires as (group, wire); by group × 4 + word the symbol corrected last and how many
words of the group in succession it was corrected in (R421); whether the link has trained since a package reset (kept at end
A). As sender: the hold buffer, oldest first (R420). -/
structure SaddleEnd where
  dead : List (Nat × Nat)
  streaks : KMap (Nat × Nat)
  trained : Bool
  hold : List SaddleFlit
  deriving DecidableEq, Repr

def SaddleEnd.zero : SaddleEnd := ⟨[], [], false, []⟩

/-- One direction of a Col link: flits that wait at the sender, each with its kind of traffic (R428; 0 first) and its 60 bytes; the replay
buffer, oldest first; whether its last flit is to be sent again; replays of that flit in succession (R427). -/
structure ColDir where
  queue : List (Nat × List Byte)
  sent : List (List Byte)
  again : Bool
  streak : Nat
  deriving DecidableEq, Repr

def ColDir.zero : ColDir := ⟨[], [], false, 0⟩

/-- A Col link beside its register: towards the Crest die, and towards the Camp die. -/
structure ColLink where
  down : ColDir
  up : ColDir
  deriving DecidableEq, Repr

def ColLink.zero : ColLink := ⟨ColDir.zero, ColDir.zero⟩

/-- One error record (Table 20.5), without its PHASE. -/
structure ErrRec where
  cls : Nat
  kind : Nat
  die : Nat
  status : Nat
  unit : Nat
  count : Nat
  step : Nat
  held : Bool
  persisted : Bool
  ftime : Nat
  arg0 : Nat
  arg1 : Nat
  arg2 : Nat
  seq : Nat
  deriving DecidableEq, Repr

/-- An open coalescing window (R497). -/
structure ErrWindow where
  kind : Nat
  die : Nat
  unit : Nat
  closes : Nat
  count : Nat
  last : ErrRec
  deriving DecidableEq, Repr

/-- The error unit: records raised and not yet processed, the next SEQ, the ring count c, how many the host has consumed,
open windows, the holding buffer, drops not yet reported, unsignalled class-0 records, and the records that the persistent
store keeps for after a shutdown, each with its CRC-32 (R10, R495 to R499). -/
structure ErrUnit where
  raised : List ErrRec
  nextSeq : Nat
  ringCount : Nat
  consumed : Nat
  windows : List ErrWindow
  holding : List ErrRec
  drops : Nat
  unsignalled : Nat
  persistent : List (ErrRec × Nat)
  deriving DecidableEq, Repr

def ErrUnit.zero : ErrUnit := ⟨[], 0, 0, 0, [], [], 0, 0, []⟩

/-- The self-test unit beside ST_STATUS (R488, R491): whether the target is draining, the granted threshold, when the slot
ends, the next scheduled round (fabric time) and the targets of the running round still to be
requested, when a refused request goes again, the peer of a far-end test, the ports held for peers' tests and until when; at
the summit the slots held as (requester, target, peer, end) and until when it grants none. -/
structure SelfTest where
  draining : Bool
  threshold : Nat
  slotEnds : Option Nat
  roundAt : Nat
  round : List Nat
  retryAt : Option Nat
  peer : Nat
  heldPorts : List (Nat × Nat)
  slots : List (Nat × Nat × Nat × Nat)
  graceUntil : Nat
  deriving DecidableEq, Repr

def SelfTest.zero : SelfTest := ⟨false, 0, none, 0, [], none, 0, [], [], 0⟩

/-- Why a die is fenced (R433): the causes of Table 16.5 that have not cleared, and AUTO_REJOIN, CLOCK_STABLE_MS and
DEAD_WIRE_DEGRADE as they stood at the package's latest fence. -/
structure DieFence where
  causes : List Nat
  auto : Bool
  stableMs : Nat
  degrade : Bool
  deriving DecidableEq, Repr

def DieFence.zero : DieFence := ⟨[], true, 1, false⟩

/-- A reset that is held until a low-power state is left (R457). -/
inductive HeldReset where
  | function
  | dies (mask : Nat)
  | port (p : Nat)
  | fence (d cause : Nat)
  deriving DecidableEq, Repr

/-- What a gated package has adopted for its dies, which act on it once they run again (R459, R460): a contour value with its SEND_FTIME,
the value before it and whether it is the first of a new job; a COLLAPSE; a RESUME. -/
inductive HeldOrder where
  | contour (value pub last : Nat) (fresh : Bool)
  | collapse (step try_ cause : Nat) (halt : Bool) (epoch : Option Nat)
  | resume (step try_ sendAt : Nat)
  deriving DecidableEq, Repr

/-- Whether an order of the cornice is held: the package leaves Bivouac for it (R460). -/
def HeldOrder.wakes : HeldOrder → Bool
  | .contour _ _ _ _ => false
  | _ => true

/-- What a low-power state keeps aside (R457, R459, R461): resets held until the state is left, the retention image: the Crest die
registers at entry into Refuge; the STATE_EXPERT in force since the latest entry into Bivouac; and what the dies are to act on, in order. -/
structure LowPower where
  heldResets : List HeldReset
  image : KMap Word
  expert : Word
  orders : List HeldOrder
  deriving DecidableEq, Repr

def LowPower.zero : LowPower := ⟨[], [], 0x3, []⟩

end Sys2Proof.Machine
end

