-- ==== Sys2Proof/Machine/StPins.lean ====
section
/-!
DEFINITION. State of the low-speed signals, reference clocks and the test access port (chapter 22).
-/
namespace Sys2Proof.Machine

/-- PERST# low; FAULT# low (R521); the straps CXL_SRIS and SB_ADDR as last read; whether SYS_REFCLK is
present; the instruction of the test access port (Table 22.6); the latest PKG_HEALTH noted and its changes that wait as PLDM events, while
which SMB_ALERT# is low (R436, Table 22.3); the Crest dies whose loaded image
failed its digest at the present boot (Table 19.2); whether the low-speed signals are high-impedance (R519). -/
structure Pins where
  perstLow : Bool
  faultLow : Bool
  sris : Bool
  sbAddr : Nat
  sysClk : Bool
  tapIr : Nat
  healthSeen : Nat
  healthEvents : List Nat
  badLoad : Nat
  floating : Bool
  deriving DecidableEq, Repr

/-- After power-on reset: SYS_REFCLK present, PERST# high, straps 0, IDCODE selected. -/
def Pins.zero : Pins := ⟨false, false, false, 0, true, 0x02, 0, [], 0, false⟩

end Sys2Proof.Machine
end

