-- ==== Sys2Proof/Machine/StPipe.lean ====
section
/-!
DEFINITION. State of the Couloir queues and the switchback engines (chapter 13), as far as no register holds it.
-/
namespace Sys2Proof.Machine

open Sys2Proof

/-- Where a packet stands: granted, committed behind an uncommitted one, or visible (R363). -/
inductive QPhase where
  | granted | committed | visible
  deriving DecidableEq, Repr

/-- One packet of a queue in grant order: header SRC (device and die), class, tracker tag, step tag, length in words, the
places of its words in the ring as (first, length) runs, the 4 KiB segments landed, words read, its phase, whether a dispatch claimed it, the commit deadline, and
whether the producer is this package, and RECORD_REWIND as its reservation was taken under. -/
structure QPacket where
  srcDev : Nat
  srcDie : Nat
  cls : Nat
  tag : Nat
  step : Nat
  words : Nat
  runs : List (Nat × Nat)
  landed : List Nat
  read : Nat
  phase : QPhase
  claimed : Bool
  deadline : Nat
  own : Bool
  record : Bool
  deriving DecidableEq, Repr

/-- A pending reservation (R362), with the queue it names and the COULOIR_EXPERT it was taken under. -/
structure QReserve where
  queue : Nat
  srcDev : Nat
  srcDie : Nat
  cls : Nat
  tag : Nat
  step : Nat
  words : Nat
  own : Bool
  expert : Word
  deriving DecidableEq, Repr

/-- One queue beside its registers: packets in grant order, the next ring place, the last word delivered and whether it
was delivered since reset, and whether the oldest visible packet is open (R367). A rewound packet stays named until its
later segments are answered: (SRC device, SRC die, tag, status, segments still to come). -/
structure Queue where
  packets : List QPacket
  next : Nat
  last : List Byte
  opened : Bool
  rewound : List (Nat × Nat × Nat × Nat × Nat)
  deriving DecidableEq, Repr

def Queue.zero : Queue := ⟨[], 0, [], false, []⟩

/-- A traverse record: token, rank, expert, weight, whether rerouted (R377). -/
structure TravRec where
  tok : Nat
  rank : Nat
  expert : Nat
  weight : Nat
  rerouted : Bool
  deriving DecidableEq, Repr

/-- A dispatch packet (R376, R382): its expert, cap[e], CAP of its header, records, the number of its ENQUEUE and its completion status, whether it
went to a replica or nowhere, whether its RETURN came, the slots returned. -/
structure TravPacket where
  expert : Nat
  cap : Nat
  capWord : Nat
  recs : List TravRec
  op : Nat
  status : Option Nat
  replica : Bool
  nowhere : Bool
  returned : Bool
  got : List Nat
  deriving DecidableEq, Repr

/-- A DISPATCH or COMBINE in progress or, for an open batch, its DISPATCH (Table 14.2), with its counts and the TRAV_EXPERT it started under. -/
structure TravDesc where
  op : Nat
  flags : Nat
  batch : Nat
  step : Nat
  k : Nat
  list : Nat
  fmt : Nat
  tokens : Nat
  row : Nat
  retRow : Nat
  retFmt : Nat
  retQ : Nat
  doneFlag : Nat
  nexperts : Nat
  route : Nat
  rows : Nat
  cap : Nat
  experts : Nat
  pos : Nat
  mask : Nat
  retBuf : Nat
  doneAddr : Nat
  expert : Word
  deriving DecidableEq, Repr

/-- An open batch (R381): its DISPATCH, its packets, REROUTED, DROP_SOURCE and DROP_UNMAPPED, when the DISPATCH completed,
whether RETURN_US has passed since. -/
structure TravBatch where
  desc : TravDesc
  packets : List TravPacket
  rerouted : Nat
  dropSource : Nat
  dropUnmapped : Nat
  completed : Option Nat
  expired : Bool
  deriving DecidableEq, Repr

/-- One traverse engine beside its registers: open batches, COMBINEs in progress, ring slots whose descriptors a collapse has
completed, operations numbered so far. -/
structure Traverse where
  batches : List TravBatch
  combines : List TravDesc
  dead : List Nat
  seq : Nat
  deriving DecidableEq, Repr

def Traverse.zero : Traverse := ⟨[], [], [], 0⟩

/-- A switchback entry that was read (R347): its index, words, the status of its prefetch once it has one, and the SB_EXPERT it was read under. -/
structure SbFetched where
  index : Nat
  word0 : Nat
  word1 : Nat
  prefetch : Option Nat
  expert : Word
  deriving DecidableEq, Repr

/-- A dispatched entry (R353): its index, words, step, and for each cluster the dispatch count that makes it done; the first flag word of its SB_FLAG. -/
structure SbFlight where
  index : Nat
  word0 : Nat
  word1 : Nat
  step : Nat
  upTo : List (Nat × Nat)
  flag : Nat
  deriving DecidableEq, Repr

/-- What a collapse asks of the engine once its dispatched entries are done (R350, R356). -/
inductive SbSettle where
  | restart (step : Nat)
  | reshard (step : Nat)
  deriving DecidableEq, Repr

/-- One switchback engine: entries read ahead, dispatches to each cluster since START, entries in flight, hint operations
outstanding as (entry, hint, whether a prefetch, a number no other outstanding one has), whether STOP was written, the pending settlement, whether
the faulted entry goes on, whether entry 4,095 was dispatched. -/
structure Switchback where
  fetched : List SbFetched
  counts : KMap Nat
  flights : List SbFlight
  hints : List (Nat × Nat × Bool × Nat)
  stopping : Bool
  settle : Option SbSettle
  passFault : Bool
  ended : Bool
  deriving DecidableEq, Repr

def Switchback.zero : Switchback := ⟨[], [], [], [], false, none, false, false⟩

end Sys2Proof.Machine
end

