-- ==== Sys2Proof/Machine/StPower.lean ====
section
/-!
DEFINITION. State of supply, profiles and cooling (chapter 17), as far as no register holds it.
-/
namespace Sys2Proof.Machine

/-- Power and cooling: when HOLD or RAMP ends (ticks), the lowest input voltage of the present dip, why the package stopped
its Crest dies (the KIND of its record: brownout, over-voltage, converter, trip, fatal-package; 0x144 a trip after its package reset until
the sensors have cooled; 0 recovery), whether a package reset is
held, the 1 ms power readings (latest first, up to 100), milliseconds that the 10 ms average has stayed below the cap's
release, readings by die × 16 + junction sensor (the Camp die is die 4), 68 + stage-1 converter, or 80 + stack, successive reads off the median, excluded sensors,
thermal duty and sensor pacing by die, since when (ticks plus one) the release condition of a row of Table 17.4 has held for a die, by die
× 2 + row (0 for 1/2, 1 for 1/4), since when (ticks
plus one) a junction is above 100 °C, by die × 16 + sensor, since when every junction is below 95 °C,
whether FORCED has cleared and the profile waits for the next contour value whose phase is OPEN (R451), clusters back in service that wait
(die × 8 + cluster, tick), since when the input is within the operating range (Table 17.1), until when an isolated converter paces
every die (R442), and since when the input is below 38.0 V (R439). -/
structure Power where
  due : Nat
  minMv : Nat
  stopped : Option Nat
  inReset : Bool
  watts : List Nat
  underMs : Nat
  temps : KMap Nat
  offRun : KMap Nat
  excluded : KMap Bool
  thermal : KMap Nat
  sensorPace : KMap Bool
  easedAt : KMap Nat
  hotAt : KMap Nat
  coolSince : Option Nat
  unforce : Bool
  waits : KMap Nat
  inRange : Option Nat
  convPace : Option Nat
  lowAt : Option Nat
  deriving DecidableEq, Repr

def Power.zero : Power :=
  ⟨0, 0, none, false, [], 0, [], [], [], [], [], [], [], none, false, [], none, none, none⟩

end Sys2Proof.Machine
end

