-- ==== Sys2Proof/Machine/StRemote.lean ====
section
/-!
DEFINITION. State of a die's remote request tracker (chapter 07): the operations that hold entries, the requesters that
wait, and the results that wait for their own unit to take them.
-/
namespace Sys2Proof.Machine

open Sys2Proof

/-- Who holds a tracker entry (R187): a core; a cluster mover for an event entry's PREFETCH; the reduction engine; the
traverse engine; an update engine; the ring front for a handle; the switchback engine for an entry's hint (whether it is
the prefetch); an event entry's EXPORT. -/
inductive Requester where
  | core (g : Nat)
  | mover (c entry : Nat)
  | reduction (n : Nat)
  | traverse (n : Nat)
  | update (j n : Nat)
  | ring (handle : Nat)
  | switchback (entry hint : Nat) (prefetch : Bool) (seq : Nat)
  | event (entry n : Nat)
  deriving DecidableEq, Repr

/-- The operations a tracker entry may hold (Table 7.1, the MOVE of a hint or descriptor, and REDUCE_PUT). -/
inductive RemKind where
  | put | get | atomic | enqueue | notify | move | reduce
  deriving DecidableEq, Repr

/-- One remote operation as its source describes it: tile opcode of a word, global pointer, local address, length in
bytes, class, atomic operation, operand width, operand bytes and the poison mark of each of their 4-byte units, where a fetched value goes, the
event counter of a tile word, step tag, job at issue, FENCE, whether its own form is malformed, and the number that links it
to its core's move pipe. -/
structure RemReq where
  who : Requester
  kind : RemKind
  opc : Nat
  ptr : Word
  loc : Nat
  len : Nat
  cls : Nat
  aop : Nat
  w64 : Bool
  operand : List Byte
  operandMarks : List Bool
  taf : Nat
  ecEn : Bool
  ec : Nat
  step : Nat
  job : Nat
  fence : Bool
  bad : Bool
  uid : Nat
  deriving DecidableEq, Repr

/-- Where an admitted operation stands: behind a FENCE (R194), held at a Talus controller (Table 6.3) or behind an earlier operation (R192),
its reservation sent (R362), its credits granted and its bytes not yet moved, refused back until a time, waiting behind such a refusal, sent on the fabric, waiting for the Camp die to serve a
pooled access (R179), in flight as UIO to a range entry under LOSS_ON_POISON as the request started (R22), its answer waiting to
land at a held stack, or in flight to the host. -/
inductive RemPhase where
  | fenced
  | held
  | reserving
  | granted
  | refused (until_ : Nat)
  | behind
  | sent
  | camp
  | uio (range : Nat) (lossOnPoison : Bool)
  | landing
  | host
  deriving DecidableEq, Repr

/-- One tracker entry (R185): its number, its operation, its admission order, its phase, how many segments it has and
which were answered, the status of highest precedence so far (R190), its deadline in fabric time and the TIMEOUT_US of its admission (R212), and the device it
goes to. -/
structure TrackEntry where
  id : Nat
  req : RemReq
  order : Nat
  phase : RemPhase
  total : Nat
  answered : List Nat
  status : Nat
  deadline : Nat
  dest : Nat
  limit : Nat
  deriving DecidableEq, Repr

/-- A completion that a unit other than a core has not taken yet. -/
structure RemDone where
  who : Requester
  status : Nat
  data : List Byte
  deriving DecidableEq, Repr

/-- The tracker of one die; `turn` is the round-robin position (R187), `orders` counts admissions; `late` are the responses that
may still come for operations that ended before them, as (entry, step tag, SEG64): they are discarded (R188, R212). -/
structure Tracker where
  entries : List TrackEntry
  waiters : List RemReq
  turn : Nat
  orders : Nat
  done : List RemDone
  late : List (Nat × Nat × Nat)
  deriving DecidableEq, Repr

def Tracker.zero : Tracker := ⟨[], [], 0, 0, [], []⟩

end Sys2Proof.Machine
end

