-- ==== Sys2Proof/Machine/Crypto.lean ====
section
/-!
DEFINITION. The cryptographic functions that chapter 19 names: SHA-256 (FIPS 180-4), LMS/HSS signatures with SHA-256 (RFC 8554,
NIST SP 800-208), AES-256-GCM (FIPS 197, NIST SP 800-38D). The spec names the standards and repeats none of them (PRESUMED,
assumption 126). Digest, key and signature bytes are in the order of the standards.
-/
namespace Sys2Proof.Machine

open Sys2Proof

/-- n big-endian bytes of a number, as the standards write numbers. -/
def beBytes (n x : Nat) : List Byte := (leBytes n x).reverse

/-- The big-endian number of a byte list. -/
def beNat (bs : List Byte) : Nat := bs.foldl (fun a b => a * 256 + b.toNat) 0

/-! ### SHA-256 (FIPS 180-4) -/

/-- The first eight hash words. -/
def shaInit : List Nat := [0x6a09e667, 0xbb67ae85, 0x3c6ef372, 0xa54ff53a, 0x510e527f, 0x9b05688c, 0x1f83d9ab, 0x5be0cd19]

/-- The sixty-four round constants. -/
def shaK : List Nat :=
  [0x428a2f98, 0x71374491, 0xb5c0fbcf, 0xe9b5dba5, 0x3956c25b, 0x59f111f1, 0x923f82a4, 0xab1c5ed5] ++
  [0xd807aa98, 0x12835b01, 0x243185be, 0x550c7dc3, 0x72be5d74, 0x80deb1fe, 0x9bdc06a7, 0xc19bf174] ++
  [0xe49b69c1, 0xefbe4786, 0x0fc19dc6, 0x240ca1cc, 0x2de92c6f, 0x4a7484aa, 0x5cb0a9dc, 0x76f988da] ++
  [0x983e5152, 0xa831c66d, 0xb00327c8, 0xbf597fc7, 0xc6e00bf3, 0xd5a79147, 0x06ca6351, 0x14292967] ++
  [0x27b70a85, 0x2e1b2138, 0x4d2c6dfc, 0x53380d13, 0x650a7354, 0x766a0abb, 0x81c2c92e, 0x92722c85] ++
  [0xa2bfe8a1, 0xa81a664b, 0xc24b8b70, 0xc76c51a3, 0xd192e819, 0xd6990624, 0xf40e3585, 0x106aa070] ++
  [0x19a4c116, 0x1e376c08, 0x2748774c, 0x34b0bcb5, 0x391c0cb3, 0x4ed8aa4a, 0x5b9cca4f, 0x682e6ff3] ++
  [0x748f82ee, 0x78a5636f, 0x84c87814, 0x8cc70208, 0x90befffa, 0xa4506ceb, 0xbef9a3f7, 0xc67178f2]

/-- Rotation of a 32-bit word to the right. -/
def rotr (n x : Nat) : Nat := (x >>> n) ||| (x <<< (32 - n)) % 2 ^ 32

/-- The message schedule, from the newest word back: each further word comes from four earlier ones. -/
def shaSchedule : Nat → List Nat → List Nat
  | 0, w => w
  | n + 1, w =>
    let a := w.getD 14 0
    let b := w.getD 1 0
    let s0 := rotr 7 a ^^^ rotr 18 a ^^^ (a >>> 3)
    let s1 := rotr 17 b ^^^ rotr 19 b ^^^ (b >>> 10)
    shaSchedule n ((s1 + w.getD 6 0 + s0 + w.getD 15 0) % 2 ^ 32 :: w)

/-- The eight working variables. -/
structure ShaVars where
  a : Nat
  b : Nat
  c : Nat
  d : Nat
  e : Nat
  f : Nat
  g : Nat
  h : Nat

/-- One round with the sum of its constant and schedule word. -/
def shaRound (v : ShaVars) (kw : Nat) : ShaVars :=
  let s1 := rotr 6 v.e ^^^ rotr 11 v.e ^^^ rotr 25 v.e
  let ch := (v.e &&& v.f) ^^^ ((2 ^ 32 - 1 - v.e) &&& v.g)
  let t1 := v.h + s1 + ch + kw
  let s0 := rotr 2 v.a ^^^ rotr 13 v.a ^^^ rotr 22 v.a
  let maj := (v.a &&& v.b) ^^^ (v.a &&& v.c) ^^^ (v.b &&& v.c)
  ⟨(t1 + s0 + maj) % 2 ^ 32, v.a, v.b, v.c, (v.d + t1) % 2 ^ 32, v.e, v.f, v.g⟩

/-- The hash words after one block of 64 bytes. -/
def shaBlock (h : List Nat) (block : List Byte) : List Nat :=
  let w := (shaSchedule 48 ((chunk 4 16 block).map beNat).reverse).reverse
  let v0 : ShaVars := ⟨h.getD 0 0, h.getD 1 0, h.getD 2 0, h.getD 3 0, h.getD 4 0, h.getD 5 0, h.getD 6 0, h.getD 7 0⟩
  let v := (List.zipWith (· + ·) shaK w).foldl shaRound v0
  List.zipWith (fun x y => (x + y) % 2 ^ 32) h [v.a, v.b, v.c, v.d, v.e, v.f, v.g, v.h]

/-- A message with its padding: a one bit, zeros, and the length in bits as 8 bytes. -/
def shaPad (m : List Byte) : List Byte :=
  m ++ [0x80] ++ List.replicate ((119 - m.length % 64) % 64) 0 ++ beBytes 8 (8 * m.length)

/-- The 32 bytes of SHA-256 of a message. -/
def sha256 (m : List Byte) : List Byte :=
  let p := shaPad m
  ((((chunk 64 (p.length / 64) p).foldl shaBlock shaInit).flatMap (beBytes 4)) ++ List.replicate 32 0).take 32

/-! ### LM-OTS and LMS (RFC 8554) -/

/-- Winternitz width w, chains p and checksum shift of an LM-OTS type: LMOTS_SHA256_N32_W1 to W8 (types 1 to 4). -/
def otsParams : Nat → Option (Nat × Nat × Nat)
  | 1 => some (1, 265, 7)
  | 2 => some (2, 133, 6)
  | 3 => some (4, 67, 4)
  | 4 => some (8, 34, 0)
  | _ => none

/-- Tree height of an LMS type: LMS_SHA256_M32_H5 to H25 (types 5 to 9). -/
def lmsHeight : Nat → Option Nat
  | 5 => some 5
  | 6 => some 10
  | 7 => some 15
  | 8 => some 20
  | 9 => some 25
  | _ => none

/-- Digit i of a string, w bits wide. -/
def otsDigit (s : List Byte) (w i : Nat) : Nat := ((s.getD (i * w / 8) 0).toNat >>> (8 - (w * (i % (8 / w)) + w))) % 2 ^ w

/-- The digest that is signed with its checksum: the string whose digits the chains follow. -/
def otsString (id : List Byte) (q w shift : Nat) (c msg : List Byte) : List Byte :=
  let d := sha256 (id ++ beBytes 4 q ++ [0x81, 0x81] ++ c ++ msg)
  let sum := (List.range (256 / w)).foldl (fun a i => a + (2 ^ w - 1 - otsDigit d w i)) 0
  d ++ beBytes 2 (sum * 2 ^ shift)

/-- n further steps of chain i, from step j. -/
def otsChain (id : List Byte) (q i : Nat) : Nat → Nat → List Byte → List Byte
  | 0, _, x => x
  | n + 1, j, x => otsChain id q i n (j + 1) (sha256 (id ++ beBytes 4 q ++ beBytes 2 i ++ beBytes 1 j ++ x))

/-- The LM-OTS public key that a signature (randomizer and p chain values) leads to. -/
def otsCandidate (id : List Byte) (q w p shift : Nat) (c y msg : List Byte) : List Byte :=
  let s := otsString id q w shift c msg
  let z := (chunk 32 p y).zipIdx.flatMap fun e =>
    let a := otsDigit s w e.2
    otsChain id q e.2 (2 ^ w - 1 - a) a e.1
  sha256 (id ++ beBytes 4 q ++ [0x80, 0x80] ++ z)

/-- The root that a node leads to along its authentication path. -/
def lmsClimb (id : List Byte) : Nat → List Byte → List (List Byte) → List Byte
  | _, x, [] => x
  | r, x, y :: ys =>
    let pair := if r % 2 = 1 then y ++ x else x ++ y
    lmsClimb id (r / 2) (sha256 (id ++ beBytes 4 (r / 2) ++ [0x83, 0x83] ++ pair)) ys

/-- An LMS public key: its LMS and LM-OTS types, its identifier, the root of its tree. -/
structure LmsKey where
  lms : Nat
  ots : Nat
  id : List Byte
  root : List Byte
  deriving DecidableEq, Repr

/-- The 56 bytes of an LMS public key. -/
def LmsKey.bytes (k : LmsKey) : List Byte := beBytes 4 k.lms ++ beBytes 4 k.ots ++ k.id ++ k.root

/-- An LMS public key from its 56 bytes. -/
def LmsKey.parse (bs : List Byte) : LmsKey :=
  ⟨beNat (bs.take 4), beNat ((bs.drop 4).take 4), (bs.drop 8).take 16, (bs.drop 24).take 32⟩

/-- An LMS signature: leaf number, LM-OTS type, randomizer, chain values, LMS type, authentication path. -/
structure LmsSig where
  q : Nat
  ots : Nat
  c : List Byte
  y : List Byte
  lms : Nat
  path : List Byte
  deriving DecidableEq, Repr

/-- The bytes of an LMS signature. -/
def LmsSig.bytes (g : LmsSig) : List Byte := beBytes 4 g.q ++ beBytes 4 g.ots ++ g.c ++ g.y ++ beBytes 4 g.lms ++ g.path

/-- The LMS signature at the front of a byte list, with the bytes behind it; none where its types are unknown or it is cut short. -/
def LmsSig.parse (bs : List Byte) : Option (LmsSig × List Byte) :=
  let ots := beNat ((bs.drop 4).take 4)
  match otsParams ots with
  | none => none
  | some (_, p, _) =>
    let rest := bs.drop (40 + 32 * p)
    let lms := beNat (rest.take 4)
    match lmsHeight lms with
    | none => none
    | some h =>
      if bs.length < 44 + 32 * p + 32 * h then none
      else some (⟨beNat (bs.take 4), ots, (bs.drop 8).take 32, (bs.drop 40).take (32 * p), lms, (rest.drop 4).take (32 * h)⟩,
        rest.drop (4 + 32 * h))

/-- The root that a signature of a message leads to under a tree's identifier. -/
def LmsSig.root (g : LmsSig) (id msg : List Byte) : List Byte :=
  match otsParams g.ots, lmsHeight g.lms with
  | some (w, p, shift), some h =>
    let k := otsCandidate id g.q w p shift g.c g.y msg
    lmsClimb id (2 ^ h + g.q) (sha256 (id ++ beBytes 4 (2 ^ h + g.q) ++ [0x82, 0x82] ++ k)) (chunk 32 h g.path)
  | _, _ => []

/-- Whether an LMS signature verifies: its types are the key's, its leaf lies in the tree, and it leads to the key's root. -/
def LmsKey.verify (k : LmsKey) (msg : List Byte) (g : LmsSig) : Bool :=
  g.ots == k.ots && g.lms == k.lms && decide (g.q < 2 ^ (lmsHeight g.lms).getD 0) && g.root k.id msg == k.root

/-! ### HSS (RFC 8554) -/

/-- Check a chain of n signed keys and then the signature of the message, which ends the bytes. -/
def hssCheck (msg : List Byte) : Nat → LmsKey → List Byte → Bool
  | 0, k, bs =>
    match LmsSig.parse bs with
    | some (g, []) => k.verify msg g
    | _ => false
  | n + 1, k, bs =>
    match LmsSig.parse bs with
    | some (g, rest) =>
      decide (56 ≤ rest.length) && k.verify (rest.take 56) g && hssCheck msg n (LmsKey.parse rest) (rest.drop 56)
    | none => false

/-- Whether an HSS signature of a message verifies under an HSS public key of 60 bytes. -/
def hssVerify (key msg sig : List Byte) : Bool :=
  let l := beNat (key.take 4)
  decide (key.length = 60) && decide (1 ≤ l ∧ l ≤ 8) && decide (4 ≤ sig.length) && beNat (sig.take 4) + 1 == l &&
    hssCheck msg (l - 1) (LmsKey.parse (key.drop 4)) (sig.drop 4)

/-! ### AES-256 (FIPS 197) -/

/-- The substitution box. -/
def aesSbox : List Nat :=
  [0x63, 0x7c, 0x77, 0x7b, 0xf2, 0x6b, 0x6f, 0xc5, 0x30, 0x01, 0x67, 0x2b, 0xfe, 0xd7, 0xab, 0x76] ++
  [0xca, 0x82, 0xc9, 0x7d, 0xfa, 0x59, 0x47, 0xf0, 0xad, 0xd4, 0xa2, 0xaf, 0x9c, 0xa4, 0x72, 0xc0] ++
  [0xb7, 0xfd, 0x93, 0x26, 0x36, 0x3f, 0xf7, 0xcc, 0x34, 0xa5, 0xe5, 0xf1, 0x71, 0xd8, 0x31, 0x15] ++
  [0x04, 0xc7, 0x23, 0xc3, 0x18, 0x96, 0x05, 0x9a, 0x07, 0x12, 0x80, 0xe2, 0xeb, 0x27, 0xb2, 0x75] ++
  [0x09, 0x83, 0x2c, 0x1a, 0x1b, 0x6e, 0x5a, 0xa0, 0x52, 0x3b, 0xd6, 0xb3, 0x29, 0xe3, 0x2f, 0x84] ++
  [0x53, 0xd1, 0x00, 0xed, 0x20, 0xfc, 0xb1, 0x5b, 0x6a, 0xcb, 0xbe, 0x39, 0x4a, 0x4c, 0x58, 0xcf] ++
  [0xd0, 0xef, 0xaa, 0xfb, 0x43, 0x4d, 0x33, 0x85, 0x45, 0xf9, 0x02, 0x7f, 0x50, 0x3c, 0x9f, 0xa8] ++
  [0x51, 0xa3, 0x40, 0x8f, 0x92, 0x9d, 0x38, 0xf5, 0xbc, 0xb6, 0xda, 0x21, 0x10, 0xff, 0xf3, 0xd2] ++
  [0xcd, 0x0c, 0x13, 0xec, 0x5f, 0x97, 0x44, 0x17, 0xc4, 0xa7, 0x7e, 0x3d, 0x64, 0x5d, 0x19, 0x73] ++
  [0x60, 0x81, 0x4f, 0xdc, 0x22, 0x2a, 0x90, 0x88, 0x46, 0xee, 0xb8, 0x14, 0xde, 0x5e, 0x0b, 0xdb] ++
  [0xe0, 0x32, 0x3a, 0x0a, 0x49, 0x06, 0x24, 0x5c, 0xc2, 0xd3, 0xac, 0x62, 0x91, 0x95, 0xe4, 0x79] ++
  [0xe7, 0xc8, 0x37, 0x6d, 0x8d, 0xd5, 0x4e, 0xa9, 0x6c, 0x56, 0xf4, 0xea, 0x65, 0x7a, 0xae, 0x08] ++
  [0xba, 0x78, 0x25, 0x2e, 0x1c, 0xa6, 0xb4, 0xc6, 0xe8, 0xdd, 0x74, 0x1f, 0x4b, 0xbd, 0x8b, 0x8a] ++
  [0x70, 0x3e, 0xb5, 0x66, 0x48, 0x03, 0xf6, 0x0e, 0x61, 0x35, 0x57, 0xb9, 0x86, 0xc1, 0x1d, 0x9e] ++
  [0xe1, 0xf8, 0x98, 0x11, 0x69, 0xd9, 0x8e, 0x94, 0x9b, 0x1e, 0x87, 0xe9, 0xce, 0x55, 0x28, 0xdf] ++
  [0x8c, 0xa1, 0x89, 0x0d, 0xbf, 0xe6, 0x42, 0x68, 0x41, 0x99, 0x2d, 0x0f, 0xb0, 0x54, 0xbb, 0x16]

def subByte (x : Nat) : Nat := aesSbox.getD x 0

/-- Multiplication by x in the field of AES. -/
def xtime (x : Nat) : Nat := if 128 ≤ x then (2 * x) ^^^ 0x11B else 2 * x

/-- The key schedule of AES-256, from the newest word back; a word is four bytes. -/
def aesExpand : Nat → Nat → Nat → List (List Nat) → List (List Nat)
  | 0, _, _, ws => ws
  | n + 1, i, rcon, ws =>
    let t := ws.getD 0 []
    let u :=
      if i % 8 = 0 then
        match (t.drop 1 ++ t.take 1).map subByte with
        | a :: rest => (a ^^^ rcon) :: rest
        | [] => []
      else if i % 8 = 4 then t.map subByte
      else t
    aesExpand n (i + 1) (if i % 8 = 0 then xtime rcon else rcon) (List.zipWith (· ^^^ ·) (ws.getD 7 []) u :: ws)

/-- The fifteen round keys of a 32-byte key, of 16 bytes each. -/
def aesKeys (key : List Byte) : List (List Nat) :=
  let ws := (chunk 4 8 key).map fun w => w.map (·.toNat)
  let all := (aesExpand 52 8 1 ws.reverse).reverse
  (List.range 15).map fun r => ((all.drop (4 * r)).take 4).flatten

/-- SubBytes and ShiftRows: byte r of column c comes from column c + r. -/
def aesShift (s : List Nat) : List Nat := (List.range 16).map fun i => subByte (s.getD ((i + 4 * (i % 4)) % 16) 0)

/-- MixColumns. -/
def aesMix (s : List Nat) : List Nat :=
  (List.range 16).map fun i =>
    let at' (j : Nat) : Nat := s.getD (i / 4 * 4 + (i + j) % 4) 0
    xtime (at' 0) ^^^ (xtime (at' 1) ^^^ at' 1) ^^^ at' 2 ^^^ at' 3

/-- The rounds after the first key: the last one does not mix columns. -/
def aesRounds : List (List Nat) → List Nat → List Nat
  | [], s => s
  | [k], s => List.zipWith (· ^^^ ·) (aesShift s) k
  | k :: ks, s => aesRounds ks (List.zipWith (· ^^^ ·) (aesMix (aesShift s)) k)

/-- One block under the round keys of aesKeys. -/
def aesBlock (keys : List (List Nat)) (block : List Byte) : List Byte :=
  match keys with
  | [] => block
  | k :: ks => (aesRounds ks (List.zipWith (· ^^^ ·) (block.map (·.toNat)) k)).map (BitVec.ofNat 8)

/-! ### GCM (NIST SP 800-38D) -/

/-- One bit of the product of GHASH: the shifted factor and the sum so far. -/
def ghashMul : Nat → Nat → Nat → Nat → Nat
  | 0, _, _, z => z
  | n + 1, x, v, z =>
    ghashMul n x (if v % 2 = 1 then (v / 2) ^^^ (0xE1 * 2 ^ 120) else v / 2) (if x.testBit n then z ^^^ v else z)

/-- GHASH under a hash key of blocks of 16 bytes. -/
def ghash (h : Nat) (blocks : List (List Byte)) : Nat :=
  blocks.foldl (fun y b => ghashMul 128 (y ^^^ beNat b) h 0) 0

/-- A byte list in blocks of 16, the last one filled with zeros. -/
def gcmBlocks (bs : List Byte) : List (List Byte) :=
  (chunk 16 ((bs.length + 15) / 16) bs).map fun b => (b ++ List.replicate 16 0).take 16

/-- Counter-mode encryption, or decryption, of a text from counter 2 on. -/
def gcmCrypt (keys : List (List Nat)) (iv text : List Byte) : List Byte :=
  (chunk 16 ((text.length + 15) / 16) text).zipIdx.flatMap fun e =>
    List.zipWith (· ^^^ ·) e.1 (aesBlock keys (iv ++ beBytes 4 (e.2 + 2)))

/-- The 16-byte tag of a ciphertext with its additional authenticated data. -/
def gcmTag (keys : List (List Nat)) (iv aad text : List Byte) : List Byte :=
  let h := beNat (aesBlock keys (List.replicate 16 0))
  let g := ghash h (gcmBlocks aad ++ gcmBlocks text ++ [beBytes 8 (8 * aad.length) ++ beBytes 8 (8 * text.length)])
  List.zipWith (· ^^^ ·) (beBytes 16 g) (aesBlock keys (iv ++ beBytes 4 1))

/-- AES-256-GCM of a plain text under a 32-byte key and a 12-byte IV: the ciphertext, then the 16-byte tag. -/
def gcmSeal (key iv aad text : List Byte) : List Byte :=
  let keys := aesKeys key
  let c := gcmCrypt keys iv text
  c ++ gcmTag keys iv aad c

/-- The plain text of a ciphertext with its 16-byte tag behind it; none where the tag fails. -/
def gcmOpen (key iv aad sealed : List Byte) : Option (List Byte) :=
  let keys := aesKeys key
  let n := sealed.length - 16
  if gcmTag keys iv aad (sealed.take n) == sealed.drop n then some (gcmCrypt keys iv (sealed.take n)) else none

end Sys2Proof.Machine
end

