-- ==== Sys2Proof/Machine/Identity.lean ====
section
/-!
DEFINITION. The identity of a package (chapter 19): the HSS identity key and its signatures (R471, Table 19.3), the identity certificate
(Table 19.4), identity proofs and their check (R474), the layout of the flash die (Table 19.1) and of sideband commands (R477).
-/
namespace Sys2Proof.Machine

open Sys2Proof

/-- The little-endian number in a field of n bytes at an offset. -/
def fieldOf (bs : List Byte) (off n : Nat) : Nat := leNat ((bs.drop off).take n)

/-! ### Flash (R467) -/

/-- A region of the flash die. -/
structure FlashRegion where
  offset : Nat
  size : Nat
  contents : String
  deriving DecidableEq, Repr

/-- Table 19.1. -/
def flashLayout : List FlashRegion := [
  ⟨0x00000000, 0x00100000, "Boot header"⟩, ⟨0x00100000, 0x01800000, "Slot A"⟩, ⟨0x01900000, 0x01800000, "Slot B"⟩,
  ⟨0x03100000, 0x00100000, "Package manifest"⟩, ⟨0x03200000, 0x00100000, "Identity certificate"⟩,
  ⟨0x03300000, 0x00100000, "Signing tree cache"⟩, ⟨0x03400000, 0x00100000, "One-time index log"⟩,
  ⟨0x03500000, 0x01000000, "Persistent record store"⟩, ⟨0x04500000, 0x03B00000, "Reserved"⟩]

/-- A typed record of the persistent record store: its type, its length, its bytes, their CRC-32 (R10, R467). -/
structure StoreRecord where
  kind : String
  length : Nat
  bytes : List Byte
  crc : Nat
  deriving DecidableEq, Repr

/-- A record as it is written. -/
def StoreRecord.of (kind : String) (bytes : List Byte) : StoreRecord := ⟨kind, bytes.length, bytes, crc32 bytes⟩

/-- A record's bytes, where its length and its CRC-32 hold. -/
def StoreRecord.read (r : StoreRecord) : Option (List Byte) :=
  if r.length = r.bytes.length ∧ r.crc = crc32 r.bytes then some r.bytes else none

/-! ### The identity key (R471, Table 19.3) -/

/-- LMS types of the two levels, LMS_SHA256_M32_H10 and LMS_SHA256_M32_H20. -/
def identityLms (level : Nat) : Nat := if level = 1 then 6 else 8

/-- The public key of a tree of the identity key. -/
def identityTree (seed : BitVec 256) (level tree : Nat) : LmsKey :=
  ⟨identityLms level, 3, beBytes 16 (Config.lmsId seed level tree).toNat, beBytes 32 (Config.lmsNode seed level tree 1).toNat⟩

/-- The HSS public key, 60 bytes. -/
def identityKey (seed : BitVec 256) : List Byte := beBytes 4 2 ++ (identityTree seed 1 0).bytes

/-- The LMS signature of a message by a leaf of a tree of the identity key, with LMOTS_SHA256_N32_W4 (RFC 8554). -/
def identitySign (seed : BitVec 256) (level tree leaf : Nat) (msg : List Byte) : LmsSig :=
  let k := identityTree seed level tree
  let h := (lmsHeight k.lms).getD 0
  let c := beBytes 32 (Config.otsRandom seed level tree leaf).toNat
  let digits := otsString k.id leaf 4 4 c msg
  let y := (List.range 67).flatMap fun i =>
    otsChain k.id leaf i (otsDigit digits 4 i) 0 (beBytes 32 (Config.otsSecret seed level tree leaf i).toNat)
  let path := (List.range h).flatMap fun n =>
    beBytes 32 (Config.lmsNode seed level tree (((2 ^ h + leaf) / 2 ^ n) ^^^ 1)).toNat
  ⟨leaf, 3, c, y, k.lms, path⟩

/-- The level-1 signature of the public key of level-2 tree t, by leaf t. -/
def treeSignature (seed : BitVec 256) (t : Nat) : List Byte := (identitySign seed 1 0 t (identityTree seed 2 t).bytes).bytes

/-- The HSS signature of a message with one-time index i: leaf i mod 2^20 of level-2 tree ⌊i / 2^20⌋, whose level-1 signature is `upper`. -/
def hssSign (seed : BitVec 256) (upper : List Byte) (i : Nat) (msg : List Byte) : List Byte :=
  let t := i / 1048576
  beBytes 4 1 ++ upper ++ (identityTree seed 2 t).bytes ++ (identitySign seed 2 t (i % 1048576) msg).bytes

/-! ### Certificate and identity proof (R474, Table 19.4) -/

/-- PART (Table 19.4). -/
def partCode (partE : Bool) : Nat := 412 + (if partE then 0x45 else 0x41) * 2 ^ 16 + 0xB1 * 2 ^ 24

/-- Bytes 0x00 to 0x53 of a certificate whose ISSUER_SIG has n bytes. -/
def certBody (n part serial : Nat) (idPubkey : List Byte) (issued issuer : Nat) : List Byte :=
  leBytes 2 1 ++ leBytes 2 (0x54 + n) ++ leBytes 4 part ++ leBytes 8 serial ++ idPubkey ++ leBytes 4 issued ++ leBytes 4 issuer

/-- Whether a certificate is one of Table 19.4 whose issuer signature verifies under a key of the own ROM. -/
def certHolds (issuerKeys : List (List Byte)) (cert : List Byte) : Bool :=
  let k := fieldOf cert 0x50 4
  fieldOf cert 0 2 == 1 && fieldOf cert 2 2 == cert.length && decide (k < 4) &&
    hssVerify (issuerKeys.getD k []) (cert.take 0x54) (cert.drop 0x54)

/-- Whether an identity proof over signed bytes holds (R474): its certificate, the identity signature of Table 19.3 under ID_PUBKEY, and
SERIAL and PART as in the signed message. -/
def proofHolds (issuerKeys : List (List Byte)) (part serial : Nat) (signed proof : List Byte) : Bool :=
  let cert := proof.take (fieldOf proof 2 2)
  let sig := proof.drop (fieldOf proof 2 2)
  certHolds issuerKeys cert && sig.length == 5396 && hssVerify ((cert.drop 0x10).take 60) signed sig &&
    fieldOf cert 4 4 == part && fieldOf cert 8 8 == serial

/-! ### Sideband commands (R477) -/

/-- A sideband command of the Adholt vendor-defined message type: SEQ, BODY, the bytes that its signature covers, SIGNATURE. -/
structure SideCommand where
  seq : Nat
  body : List Byte
  covered : List Byte
  signature : List Byte
  deriving DecidableEq, Repr

/-- A message as the command of a code whose BODY has a form: COMMAND, LENGTH (of BODY; assumption 127), SEQ, BODY, SIGNATURE; none where it is
malformed. -/
def sideCommand (code : Nat) (form : List Byte → Bool) (msg : List Byte) : Option SideCommand :=
  let n := fieldOf msg 2 2
  let body := (msg.drop 12).take n
  if msg.length < 12 + n ∨ fieldOf msg 0 2 ≠ code ∨ form body = false then none
  else some ⟨fieldOf msg 4 8, body, msg.take (12 + n), msg.drop (12 + n)⟩

end Sys2Proof.Machine
end

