-- ==== Sys2Proof/Machine/StSecurity.lean ====
section
/-!
DEFINITION. State of boot, identity and operator authority (chapter 19), as far as no register holds it.
-/
namespace Sys2Proof.Machine

open Sys2Proof

/-- What a signature is for (R472): a TRAILHEAD of a port, whether the second one; the report of a JOIN; an attestation report
with its nonce, over MCTP or DOE. -/
inductive SignJob where
  | trailhead (port : Nat) (second : Bool)
  | join
  | attest (mctp : Bool) (nonce : List Byte)
  deriving DecidableEq, Repr

/-- One firmware slot (R468, R469): whether its Camp and its Crest image pass their signature, their security versions, and
their digests as numbers, the build number of the Camp firmware. -/
structure BootSlot where
  campOk : Bool
  crestOk : Bool
  campSvn : Nat
  crestSvn : Nat
  campDigest : Nat
  crestDigest : Nat
  campBuild : Nat
  deriving DecidableEq, Repr

/-- The admission policy of a policy record (R481). -/
structure Policy where
  allowE : Bool
  required : Nat
  pairs : List (Nat × Nat)
  deriving DecidableEq, Repr

/-- A level-2 tree of the tree cache (R473): its number and its level-1 signature. The nodes of its upper ten levels, which the cache holds
too, are those of Config.lmsNode (assumption 46). -/
structure CachedTree where
  tree : Nat
  upper : List Byte
  deriving DecidableEq, Repr

/-- Identity and authority. In fuses, ROM and one-time storage: serial number, whether the part is TMV-412-E, SVN_FUSE and times it was
raised, the Adholt issuing keys, the identity private seed. In flash (Table 19.1): the active slot and whether an update made the other one
active at the next package reset, the two slots; whether the manifest's signature passes, its digest and its records, and a manifest
component that a package reset will take; the identity certificate; the tree cache; the one-time index log, newest first; the operator key, admission policy,
massif plan and last command sequence records (the shutdown records stand with the error unit). Beside them: the stack serial numbers read at boot (R478);
signature requests not yet at the signer, the one being signed with its index, those that wait, when the latest signatures were
reserved. -/
structure Security where
  serial : Nat
  partE : Bool
  svnFuse : Nat
  svnRaises : Nat
  issuerKeys : List (List Byte)
  seed : BitVec 256
  active : Nat
  switchSlot : Bool
  slotA : BootSlot
  slotB : BootSlot
  manifestOk : Bool
  manifestDigest : Nat
  manifest : List ManifestRecord
  staged : Option (Bool × Nat × List ManifestRecord)
  certificate : List Byte
  trees : List CachedTree
  indexLog : List Nat
  keyRecord : Option StoreRecord
  policyRecord : Option StoreRecord
  planRecord : Option StoreRecord
  seqRecord : Option StoreRecord
  stackSerials : List Nat
  wanted : List SignJob
  signing : Option (Nat × SignJob)
  waiting : List SignJob
  signed : List Nat
  deriving DecidableEq, Repr

/-- The issuer signature of a certificate as manufactured (assumption 32): LMS_SHA256_M32_H5 with LMOTS_SHA256_N32_W1, its values all 0. -/
def factorySig : LmsSig := ⟨0, 1, List.replicate 32 0, List.replicate 8480 0, 5, List.replicate 160 0⟩

/-- The signed bytes of the certificate as manufactured. -/
def factoryCert : List Byte := certBody (4 + factorySig.bytes.length) (partCode false) 0 (identityKey 0) 0 0

/-- The issuing key under which the certificate as manufactured verifies. -/
def factoryKey : List Byte := beBytes 4 1 ++ (LmsKey.mk 5 1 (List.replicate 16 0) (factorySig.root (List.replicate 16 0) factoryCert)).bytes

/-- As manufactured (assumption 32): both slots pass with version 0, every stack is qualified with serial number 0, the identity
certificate verifies under issuing key 0, no operator record, the first tree stored. -/
def Security.zero : Security where
  serial := 0
  partE := false
  svnFuse := 0
  svnRaises := 0
  issuerKeys := [factoryKey]
  seed := 0
  active := 0
  switchSlot := false
  slotA := ⟨true, true, 0, 0, 0, 0, 0⟩
  slotB := ⟨true, true, 0, 0, 0, 0, 0⟩
  manifestOk := true
  manifestDigest := 0
  manifest := (List.finRange 12).map fun t => ⟨t, 0, 0, 0⟩
  staged := none
  certificate := factoryCert ++ beBytes 4 0 ++ factorySig.bytes
  trees := [⟨0, treeSignature 0 0⟩]
  indexLog := []
  keyRecord := none
  policyRecord := none
  planRecord := none
  seqRecord := none
  stackSerials := []
  wanted := []
  signing := none
  waiting := []
  signed := []

/-! ### The records of the store (R467, R476, R477, R481, Table 8.17) -/

/-- The operator key: an HSS public key of 60 bytes. -/
def Security.operatorKey (x : Security) : Option (List Byte) := x.keyRecord.bind StoreRecord.read

/-- The body of OPERATOR_KEY_SET: one HSS public key of the parameter sets of RFC 8554 (R476). -/
def keyForm (body : List Byte) : Bool :=
  let l := beNat (body.take 4)
  body.length == 60 && decide (1 ≤ l ∧ l ≤ 8) && (lmsHeight (beNat ((body.drop 4).take 4))).isSome &&
    (otsParams (beNat ((body.drop 8).take 4))).isSome

/-- The body of POLICY_SET: ALLOW_E (1 byte), the REQUIRE mask (1), the number of pairs (2), and each pair as index (1) and digest (32)
(R481; assumption 127). -/
def policyForm (body : List Byte) : Bool :=
  let n := fieldOf body 2 2
  decide (n ≤ 64) && body.length == 4 + 33 * n && decide (fieldOf body 0 1 ≤ 1) && decide (fieldOf body 1 1 < 32) &&
    (chunk 33 n (body.drop 4)).all fun e => decide (fieldOf e 0 1 < 5)

/-- The policy of a policy record. -/
def policyOf (body : List Byte) : Policy :=
  ⟨fieldOf body 0 1 == 1, fieldOf body 1 1, (chunk 33 (fieldOf body 2 2) (body.drop 4)).map fun e => (fieldOf e 0 1, fieldOf e 1 32)⟩

/-- The admission policy. -/
def Security.policy (x : Security) : Option Policy := (x.policyRecord.bind StoreRecord.read).map policyOf

/-- The body of MASSIF_PLAN_SET: MASSIF_DIMS [14:0] and MASSIF_COORD [14:0], of 2 bytes each (Table 8.17; assumption 127). -/
def planForm (body : List Byte) : Bool := body.length == 4 && decide (fieldOf body 0 2 < 32768) && decide (fieldOf body 2 2 < 32768)

/-- The massif plan: DIMS and COORD. -/
def Security.plan (x : Security) : Option (Nat × Nat) :=
  (x.planRecord.bind StoreRecord.read).map fun b => (fieldOf b 0 2, fieldOf b 2 2)

/-- The last accepted command sequence, 0 before any. -/
def Security.lastSeq (x : Security) : Nat := ((x.seqRecord.bind StoreRecord.read).map leNat).getD 0

/-- The operator key, admission policy and massif plan records one after the other, which M4 is the digest of (Table 19.6). -/
def Security.recordBytes (x : Security) : List Byte :=
  [x.keyRecord, x.policyRecord, x.planRecord].flatMap fun r => (r.bind StoreRecord.read).getD []

/-- The cache's entry of a level-2 tree. -/
def Security.cached (x : Security) (t : Nat) : Option CachedTree := x.trees.find? fun c => c.tree == t

end Sys2Proof.Machine
end

