-- ==== Sys2Proof/Machine/StTrain.lean ====
section
/-!
DEFINITION. State of the contour (chapter 09), gradient reduction (chapter 10), the update engines (chapter 11) and the
cornice (chapter 12), as far as no register holds it, with what the summit role keeps for each job.
-/
namespace Sys2Proof.Machine

open Sys2Proof

/-- Fabric time (R254): its value at an anchor of time (ticks), and the correction still to be made there: 1 ns per µs up
to 1,000 either way, a hold where it is further ahead. -/
structure FtClock where
  base : Nat
  anchor : Nat
  corr : Int
  deriving DecidableEq, Repr

/-- The contour at a member: the fabric time of the last CONTOUR packet if any came, whether fabric time is taken whole from the next one
(R254), whether the next publication is adopted whatever its value (R249), when a report may go next, the position last reported
or fallen to. -/
structure Contour where
  lastPacket : Option Nat
  enter : Bool
  newJob : Bool
  nextReport : Nat
  reported : Nat
  deriving DecidableEq, Repr

def Contour.zero : Contour := ⟨none, false, false, 0, 0⟩

/-- A die that a member's STEP_STATE of a step first showed fenced at a fabric time, and whether REJOIN_HOLD_MS has passed since
(R329). -/
structure FencedSeen where
  device : Nat
  die : Nat
  step : Nat
  time : Nat
  passed : Bool
  deriving DecidableEq, Repr

/-- A STEP_STATE that came while a takeover waits to publish (Table 12.6). -/
structure StepTold where
  device : Nat
  step : Nat
  try_ : Nat
  state : Nat
  status : Nat
  halted : Bool
  deriving DecidableEq, Repr

/-- What the summit keeps for one job (Table 12.2, R251): the published contour and whether one was published, its step's
phase (0 OPEN, 1 LAUNCHED, 2 COLLAPSED), the last TRY of the step, collapses counted by R338, HALT and whether a RESUME
request came, the last collapse's cause, its new epoch if any, the job's epoch, positions and LAST_SEEN values by device plus
one, members that reported FINAL, RESTORED, BWD_DONE, or that they take part in the collapse for the present TRY, each member's
fenced dies by its latest report, when each was first reported in a step (R329), a pending DRAIN (step, epoch), when COLLAPSE goes
again, the reports taken while a takeover waits to publish, and the re-shard asked for meanwhile (0 DRAIN, 1 ABORT). -/
structure SumJob where
  job : Nat
  contour : Nat
  published : Bool
  phase : Nat
  tried : Nat
  count : Nat
  halt : Bool
  resumeAsked : Bool
  cause : Nat
  newEpoch : Option Nat
  epoch : Nat
  positions : KMap Nat
  seen : KMap Nat
  finals : List Nat
  restored : List Nat
  bwd : List Nat
  acked : List Nat
  masks : KMap Nat
  firsts : List FencedSeen
  drain : Option (Nat × Nat)
  resendAt : Nat
  told : List StepTold
  asked : Option Nat
  deriving DecidableEq, Repr

def SumJob.fresh (job : Nat) : SumJob where
  job := job
  contour := 0
  published := false
  phase := 0
  tried := 0
  count := 0
  halt := false
  resumeAsked := false
  cause := 0
  newEpoch := none
  epoch := 0
  positions := []
  seen := []
  finals := []
  restored := []
  bwd := []
  acked := []
  masks := []
  firsts := []
  drain := none
  resendAt := 0
  told := []
  asked := none

/-- A block record without its length (R275): SPECIAL, the cairn word, the data. -/
structure BlockRec where
  special : Bool
  cairn : Word
  data : List Byte
  deriving DecidableEq, Repr

/-- A bucket table entry (Table 10.1) as read at launch. -/
structure BucketCfg where
  buf : Nat
  carry : Nat
  comp : Bool
  fp16 : Bool
  mode : Nat
  auto : Bool
  carryEn : Bool
  group : Nat
  len64k : Nat
  deriving DecidableEq, Repr

/-- Why a rank's own contribution is withheld from a shard: poison (R288), QUARANTINE (R287), a fenced die (R284), or
BYPASSED (R285). -/
inductive Withheld where
  | poison | quarantine | fenced | bypassed
  deriving DecidableEq, Repr

/-- A position of the tree below the one that this rank folds: whether its START came (from the rank, from its backup),
whether GO was sent and when blocks last came, whether it is missing and filled by the bypass rule (with the own contribution
of a backup, of a suspect rank, or none), the landed blocks, its own-contribution blocks fetched by OWN_REQ, its norm, and
whether an ABSENT of a fenced die is held (WAIT). -/
structure RedNode where
  pos : Nat
  started : Bool
  backup : Bool
  goSent : Bool
  lastAt : Nat
  missing : Bool
  ownFrom : Option Nat
  blocks : KMap (Option BlockRec)
  owns : KMap (Option BlockRec)
  norm : Nat
  heldAbsent : Bool
  suspect : Bool
  deriving DecidableEq, Repr

/-- One shard of a bucket at this package (R278): admitted or not, its heap position, the position whose addition it folds
(above its own only where no ancestor is present, R286), GO received, next block to fold and the retained outputs, ranks that
asked for outputs (rank, block, count) not folded yet, next result block and the blocks received out of turn, counts, trailer,
norms, mismatch occurrences, whether the carry was copied, whether it waits for RESULT_FP32, ranks whose FETCH waits, its
stage reservation, its outcome once final. -/
structure ShardRun where
  bucket : Nat
  shard : Nat
  admitted : Bool
  started : Bool
  withheld : Option Withheld
  pos : Nat
  top : Nat
  goGot : Bool
  nodes : List RedNode
  outs : KMap (Option BlockRec)
  next : Nat
  asked : List (Nat × Nat × Nat)
  nextResult : Nat
  results : KMap (Option BlockRec)
  count : Nat
  running : Nat
  norm : Nat
  squares : Nat
  trailer : Option (Nat × Nat × Nat)
  checks : KMap Nat
  carried : Bool
  fetching : Bool
  fetchers : List Nat
  reserved : Nat
  status : Option Nat
  deriving DecidableEq, Repr

/-- One bucket of the present step at this package: its table entry, whether in flight, dies whose QUARANTINE scan is still
to end, whether a scan found a NaN, suspect hops seen, dies that recorded a NaN, dies whose shards its finality counted, outcome
once final. -/
structure BucketRun where
  bucket : Nat
  cfg : BucketCfg
  inFlight : Bool
  scan : List Nat
  quarantined : Bool
  suspects : Nat
  nanDies : List Nat
  counted : List Nat
  status : Option Nat
  deriving DecidableEq, Repr

/-- A packet of the reduction engine whose answer is awaited, or a START or ABSENT that goes again (R340, assumption 114): die,
destination, locator KIND, bucket, shard, block, payload with the marks of its units, step and group, and when it goes again. -/
structure RedSent where
  id : Nat
  die : Nat
  dst : Nat
  kind : Nat
  bucket : Nat
  shard : Nat
  block : Nat
  data : List Byte
  marks : List Bool
  step : Nat
  group : Nat
  resendAt : Option Nat
  deriving DecidableEq, Repr

/-- Buffer or carry bytes of a bucket that is not final, as they stood before the engine wrote over them (R295): bucket, address,
bytes, poison marks. -/
structure SavedRange where
  bucket : Nat
  addr : Nat
  data : List Byte
  marks : List Bool
  deriving DecidableEq, Repr

/-- Gradient reduction: the launched step, the deadline base (R284, R343), buckets and shards of the step, kept contributions
(bucket × 2^20 + shard × 2^16 + block), carries held (bucket × 16 + shard), REDUCE_PUTs sent, the last accepted STEP_READY of
each die plus one, groups whose step record is written (and whether PARTIAL), RED_EXPERT as latched at launch, and START and
ABSENT packets that came before the launch (step, KIND, locator, source device, first payload byte), and records received so
far of a REDUCE_PUT of more than one segment (source device × 2^16 + die × 2^12 + tag); GROUP_CFG of each group as latched at
launch (R264), shards for which ABSENT went out for a fenced die (bucket × 16 + shard), what a collapse puts back (R295), the
contributions kept in the present run, the carries held at launch, the step launched before, with its buckets (R333), and the
shards of fenced dies as they stood at the fence (R284). -/
structure Reduction where
  launched : Option Nat
  base : Nat
  buckets : List BucketRun
  shards : List ShardRun
  kept : KMap (List Byte)
  carries : List Nat
  sent : List RedSent
  seq : Nat
  ready : KMap Nat
  records : List (Nat × Bool)
  deadlineUs : Nat
  average : Nat
  keep : Bool
  early : List (Nat × Nat × Nat × Nat × Nat)
  parts : KMap Nat
  groups : KMap Word
  absent : List Nat
  saved : List SavedRange
  keepNow : KMap (List Byte)
  carries0 : List Nat
  prior : Option (Nat × List Nat)
  parked : List ShardRun
  deriving DecidableEq, Repr

def Reduction.zero : Reduction := ⟨none, 0, [], [], [], [], [], 0, [], [], 0, 0, false, [], [], [], [], [], [], [], none, []⟩

/-- What an update block does next (Table 11.8): write its snapshot, its moments, its weights, its commit tag, or finish. -/
inductive BlkPhase where
  | snap | moments | weights | tag | done
  deriving DecidableEq, Repr

/-- One block in flight in an engine: bucket, block, step, phase, journal slot, its old state by stream 1 to 5, the block
stage (the new state), and the outer writes not answered. -/
structure BlkRun where
  bucket : Nat
  block : Nat
  step : Nat
  phase : BlkPhase
  slot : Nat
  old : List (List Byte)
  new : List (List Byte)
  outer : Nat
  outerStatus : Nat
  deriving DecidableEq, Repr

/-- A block's outer-tier state in the fetch window (R318): bucket, block, window slot, fetches unanswered, status, and whether no update
waits for it any more, so that its slot is free with its last answer. -/
structure BlkFetch where
  bucket : Nat
  block : Nat
  slot : Nat
  left : Nat
  status : Nat
  dead : Bool
  deriving DecidableEq, Repr

/-- One bucket's update on one die: the state table entry's words, the program, hyperparameters, the next block of each
engine, the PREFETCH_DEPTH in force, blocks requeued by recovery, blocks that wait in FETCH_WAIT, blocks done and committed, the outcome of highest
precedence that no block gave, the engines' working slots by engine × 16 + slot, whether finished, the PREFETCH_DEPTH in force, the
completion ring where RING_EN = 1, blocks that ended with a failure and its status, and those of them that the working slots hold. -/
structure UpdRun where
  bucket : Nat
  die : Nat
  step : Nat
  len : Nat
  ptrs : List Nat
  commit : Nat
  buf : Nat
  tier : Nat
  avg : Bool
  prog : Nat
  code : List Nat
  hyper : List Byte
  hyperPois : Bool
  next : List Nat
  requeued : List Nat
  waiting : List Nat
  doneBlocks : Nat
  committed : Nat
  missed : Nat
  outcome : Nat
  slots : KMap (Option Word)
  finished : Bool
  depth : Nat
  ring : Option Nat
  failed : List (Nat × Nat)
  folded : List Nat
  deriving DecidableEq, Repr

/-- The update of one bucket at the package: its step, whether held, whether it ended, its status, whether it started, the bucket's
status once final for the step, dies that hold all their shards of it final, and dies with a shard that ended ABORTED (R306, R331). -/
structure UpdBucket where
  bucket : Nat
  step : Nat
  held : Bool
  ended : Bool
  status : Nat
  started : Bool
  final : Option Nat
  ready : List Nat
  lost : List Nat
  deriving DecidableEq, Repr

/-- A waiting or running export (R322): its die and entry or host handle, descriptor address, step; once started, bytes
placed, PUTs unanswered with the bytes of each by its offset, bytes that PUTs have written (R325), and for each frame under way its number, where
its reference copy lies and what it becomes, with poison marks (R324). -/
structure ExportRun where
  id : Nat
  die : Nat
  entry : Option Nat
  handle : Option Nat
  addr : Nat
  step : Nat
  started : Bool
  written : Nat
  status : Nat
  left : Nat
  puts : KMap Nat
  landed : Nat
  frames : List (Nat × Nat × List Byte × List Bool)
  deriving DecidableEq, Repr

/-- The update engines: requests of the present step, running updates, blocks in flight by die × 4 + engine, fetches,
exports, buckets whose last update on a die ended ABORTED (bucket × 4 + die), dies whose recovery waits for RECOVER, those whose
recovery waits for memory that it touches, and requests made before any launch. -/
structure Update where
  buckets : List UpdBucket
  runs : List UpdRun
  blocks : KMap (List BlkRun)
  fetches : KMap (List BlkFetch)
  exports : List ExportRun
  seq : Nat
  stale : List Nat
  waitRecover : List Nat
  recover : List Nat
  early : List Nat
  doneSteps : KMap Nat
  deriving DecidableEq, Repr

def Update.zero : Update := ⟨[], [], [], [], [], 0, [], [], [], [], []⟩

/-- The cornice at a member: gate values as the Camp die keeps them, dies that still owe the collapse's drain or restore,
dies that owe the collapse because they were fenced when it was adopted, dies fenced at a seal (die, step), the pending DRAIN
(step, epoch), the step of
the last DRAIN that took effect, the last step sealed, the CORNICE_EXPERT in force since the last step boundary, and how far a rejoined
die's restores have come (1 journal recovery, 2 the collapse's store; R342). -/
structure Cornice where
  gates : KMap Nat
  draining : List Nat
  restoring : List Nat
  owed : List Nat
  missedSeal : List (Nat × Nat)
  drain : Option (Nat × Nat)
  drained : Option Nat
  sealedStep : Option Nat
  expert : Word
  rejoin : KMap Nat
  deriving DecidableEq, Repr

def Cornice.zero : Cornice := ⟨[], [], [], [], [], none, none, none, 0x140F000303, []⟩

/-- The summit role, with the last contour value received for each job plus one, the last layout epoch heard of each job, and each job's pending DRAIN (step, epoch) (kept by every member,
R253, R344): one entry for each job, the idle contour's step, when it advances and when a CONTOUR packet was last
sent, when a new summit publishes, the RESHARD last sent. -/
structure Summit where
  jobs : List SumJob
  idle : Nat
  idleAt : Nat
  lastSent : Nat
  takeover : Option Nat
  heardValues : KMap Nat
  heardEpochs : KMap Nat
  heardDrains : KMap (Option (Nat × Nat))
  deriving DecidableEq, Repr

def Summit.zero : Summit := ⟨[], 0, 0, 0, none, [], [], []⟩

end Sys2Proof.Machine
end

