-- ==== Sys2Proof/Machine/State.lean ====
section
/-!
DEFINITION. The state of the package: the set-up registers as one register file (values that differ from reset), memory,
the cores, the engines and units that no register shows, and the queue of commands that wait.
-/
namespace Sys2Proof.Machine

open Sys2Proof

/-- Why the block stops. -/
inductive Fault where
  /-- REGISTER_WRITE of a nonzero value to an RSV field: R12 calls the effect undefined and names no effect. Safe: the
  hardware goes on with an effect nobody may rely on. -/
  | reservedFieldWritten
  deriving DecidableEq, Repr

/-- Why a command has no meaning here. -/
inductive Refusal where
  /-- The command's row has no meaning in this model. Safe. -/
  | notModelled (mnemonic : String)
  /-- REGISTER_WRITE to a CXL component register (BAR0 offset 0x4_0000): R513 lays that block out as the CXL 3.1 specification
  gives and says nothing of its own of any register in it. Safe. -/
  | cxlComponentRegister
  deriving DecidableEq, Repr

/-- The canonical form of memory: addresses strictly rising, no entry equal to 0, which an unlisted address reads as. -/
def Memory.wf (m : List Host.Cell) : Bool := kwf 0 m

/-- What leaves the package. Each constructor is one kind of output; `args` of the message are its fields in the order of
the spec's own table. -/
inductive MsgKind where
  | spurInterrupt | spurResult | request | response | uio | hostRequest | reserve
  | mgmt | broadcast | hostWrite | hostRead | msix | barRead | flit | talusData | queueData | other
  deriving DecidableEq, Repr

/-- One output of the package: its kind, its destination (a device, a core, a port or a ring, as the kind gives), its
fields and its bytes. -/
structure Msg where
  kind : MsgKind
  dst : Nat
  args : List Nat
  data : List Byte
  deriving DecidableEq, Repr

/-- An access that arrived and may not be performed yet: at a stack that holds it (Table 6.3), behind a back-invalidation (R392),
behind an earlier access to its granule (R166), behind an earlier operation of its source and class (R192), or in a package that
leaves Bivouac (R460). A request segment of PUT, GET, ATOMIC or NOTIFY by header OP; an ENQUEUE's reservation or segment; a
REDUCE_PUT segment by KIND; an own operation of die d by tracker entry and admission order; a local move of core g of die d; a load or
store of its Spur core; the bytes of a response to an operation of die d; the bytes and status that a pooled range or the host answers one with; a host access to HDM; a controller access to stack t;
the bytes of a line that the host gave back; bytes that an engine of die d writes. -/
inductive Arrival where
  | segment (op : Nat) (g : Segment)
  | enqueue (reservation : Bool) (g : Segment)
  | reduce (kind epoch : Nat) (g : Segment)
  | own (d id order : Nat)
  | move (d g uid : Nat)
  | spur (d g : Nat)
  | response (d id step seg64 status : Nat) (data : List Byte) (marks : List Bool)
  | landing (d id order status : Nat) (data : List Byte) (marks : List Bool)
  | hdm (w : HdmAccess)
  | talus (t : Nat) (h : HeldAccess)
  | line (line : Nat) (data : List Byte) (pois : Bool)
  | store (d unit a : Nat) (data : List Byte) (marks : List Bool)
  deriving DecidableEq, Repr

/-- A waiting arrival with the extents it touches: first address, length, whether it writes them. -/
structure Waiting where
  extents : List (Nat × Nat × Bool)
  what : Arrival
  deriving DecidableEq, Repr

/-- The machine. -/
structure State where
  /-- Commands that wait, first in, first out. -/
  pending : List Instr
  /-- Ticks of 1/17 ns since power was applied; an array cycle is ten. -/
  time : Nat
  /-- How many free values have been taken (the model's own). -/
  free : Nat
  /-- What the package has sent, latest last (the model's own record of its outputs). -/
  out : List Msg
  /-- The set-up registers by BAR0 offset, where they differ from their reset values. -/
  regs : KMap Word
  /-- Memory by package physical address (Talus in the home view), where it differs from 0. -/
  mem : List Host.Cell
  /-- Poisoned 4-byte words of memory, by address / 4 (R168, R494). -/
  poison : KMap Bool
  /-- Cores by global number (R32). -/
  cores : KMap Core
  /-- Remote request trackers by die. -/
  trackers : KMap Tracker
  /-- Accesses that arrived and wait, in order of arrival (R166, R192, Table 6.3). -/
  arrivals : List Waiting
  /-- Talus controllers by stack. -/
  talusCtl : KMap Stack
  /-- Analogue shells by kind (the row of Table 1.9, from 0) × 256 + number in the package. -/
  shells : KMap Shell
  /-- Paths by source × 4 + destination. -/
  paths : KMap PairPath
  /-- Saddle receiving ends by link × 2 + end. -/
  saddles : KMap SaddleEnd
  /-- Col links by die. -/
  cols : KMap ColLink
  /-- Fabric time (R254). -/
  clock : FtClock
  contour : Contour
  red : Reduction
  upd : Update
  cor : Cornice
  summit : Summit
  fabric : Fabric
  /-- Couloir queues by die × 64 + queue. -/
  queues : KMap Queue
  /-- Pending reservations by die, in arrival order (R362). -/
  reserves : KMap (List QReserve)
  /-- Switchback engines by die. -/
  switchbacks : KMap Switchback
  /-- Traverse engines by die. -/
  traverses : KMap Traverse
  host : HostLink
  /-- Why dies are fenced, by die (R433). -/
  fences : KMap DieFence
  sec : Security
  err : ErrUnit
  selftest : SelfTest
  low : LowPower
  power : Power
  pins : Pins
  deriving DecidableEq, Repr

/-- The package right after power-on reset. -/
def State.reset : State where
  pending := []
  time := 0
  free := 0
  out := []
  regs := []
  mem := []
  poison := []
  cores := []
  trackers := []
  arrivals := []
  talusCtl := []
  shells := []
  paths := []
  saddles := []
  cols := []
  clock := ⟨0, 0, 0⟩
  contour := Contour.zero
  red := Reduction.zero
  upd := Update.zero
  cor := Cornice.zero
  summit := Summit.zero
  fabric := Fabric.zero
  queues := []
  reserves := []
  switchbacks := []
  traverses := []
  host := HostLink.zero
  fences := []
  sec := Security.zero
  err := ErrUnit.zero
  selftest := SelfTest.zero
  low := LowPower.zero
  power := Power.zero
  pins := Pins.zero

end Sys2Proof.Machine
end

