-- ==== Sys2Proof/Machine/Ops.lean ====
section
/-!
DEFINITION. The named operations that meanings share: register fields, cores and trackers, outputs, free values, fabric
time, error records and numeric flags, status codes, and memory with its address map and poison.
-/
namespace Sys2Proof.Machine

open Sys2Proof

/-! ### Registers -/

/-- The stored value of a register (index i on die d). -/
def State.reg (s : State) (r : Reg) (d i : Nat) : Word := kget (r.initOf d) s.regs (r.addr d i)

/-- A register set whole. -/
def State.setReg (s : State) (r : Reg) (d i : Nat) (v : Word) : State :=
  { s with regs := kset (r.initOf d) s.regs (r.addr d i) v }

/-- A field's stored value. -/
def State.getF (s : State) (f : Fld) (d i : Nat) : Nat := f.get (s.reg f.reg d i)

/-- A field set. -/
def State.setF (s : State) (f : Fld) (d i x : Nat) : State :=
  s.setReg f.reg d i (f.put (s.reg f.reg d i) x)

/-- A counter field advanced by n, wrapping at its width. -/
def State.addF (s : State) (f : Fld) (d i n : Nat) : State := s.setF f d i (s.getF f d i + n)

/-- A counter field advanced by n, saturating at its width. -/
def State.satF (s : State) (f : Fld) (d i n : Nat) : State :=
  s.setF f d i (satAdd (f.hi + 1 - f.lo) (s.getF f d i) n)

/-- A one-bit field as a truth value. -/
def State.flag (s : State) (f : Fld) (d i : Nat) : Bool := s.getF f d i != 0

/-! ### Groups of state -/

def State.core (s : State) (g : Nat) : Core := kget Core.zero s.cores g
def State.setCore (s : State) (g : Nat) (c : Core) : State :=
  { s with cores := kset Core.zero s.cores g c }
def State.tracker (s : State) (d : Nat) : Tracker := kget Tracker.zero s.trackers d
def State.setTracker (s : State) (d : Nat) (t : Tracker) : State :=
  { s with trackers := kset Tracker.zero s.trackers d t }
def State.stack (s : State) (t : Nat) : Stack := kget Stack.zero s.talusCtl t
def State.setStack (s : State) (t : Nat) (x : Stack) : State :=
  { s with talusCtl := kset Stack.zero s.talusCtl t x }
def State.shell (s : State) (k : Nat) : Shell := kget Shell.zero s.shells k
def State.setShell (s : State) (k : Nat) (x : Shell) : State :=
  { s with shells := kset Shell.zero s.shells k x }

def State.fenceOf (s : State) (d : Nat) : DieFence := kget DieFence.zero s.fences d

/-! Changes of one group. -/

def State.setCor (s : State) (f : Cornice → Cornice) : State := { s with cor := f s.cor }
def State.setErr (s : State) (f : ErrUnit → ErrUnit) : State := { s with err := f s.err }
def State.setPins (s : State) (f : Pins → Pins) : State := { s with pins := f s.pins }
def State.setPower (s : State) (f : Power → Power) : State := { s with power := f s.power }
def State.setSec (s : State) (f : Security → Security) : State := { s with sec := f s.sec }
def State.setTest (s : State) (f : SelfTest → SelfTest) : State := { s with selftest := f s.selftest }
def State.setSummit (s : State) (f : Summit → Summit) : State := { s with summit := f s.summit }
def State.setUpd (s : State) (f : Update → Update) : State := { s with upd := f s.upd }
def State.setContour (s : State) (f : Contour → Contour) : State := { s with contour := f s.contour }
def State.setRed (s : State) (f : Reduction → Reduction) : State := { s with red := f s.red }
def State.setFabric (s : State) (f : Fabric → Fabric) : State := { s with fabric := f s.fabric }
def State.setHost (s : State) (f : HostLink → HostLink) : State := { s with host := f s.host }
def State.setArrivals (s : State) (l : List Waiting) : State := { s with arrivals := l }
def State.setLow (s : State) (f : LowPower → LowPower) : State := { s with low := f s.low }

/-- An access that arrived waits behind those that wait already. -/
def State.park (s : State) (extents : List (Nat × Nat × Bool)) (x : Arrival) : State :=
  s.setArrivals (s.arrivals ++ [⟨extents, x⟩])

/-! ### Analogue shells (R43, R44) -/

/-- The key of a shell: its row of Table 1.9, from 0, and its number in the package. -/
def shellKey (kind inst : Nat) : Nat := kind * 256 + inst

/-- The body of a shell's calibration. -/
def Calibration.body (k : Nat) : Calibration → List Byte
  | .trained n d => Config.calibrationBody k n d
  | .image b => b

/-- A shell trains: from its default start point where a restore was refused before (R44). -/
def State.shellTrain (s : State) (kind inst : Nat) : State :=
  let x := s.shell (shellKey kind inst)
  s.setShell (shellKey kind inst)
    { x with present := .trained (x.trainings + 1) x.defaultStart, trainings := x.trainings + 1, defaultStart := false }

/-- A shell's present calibration is saved to the Camp die. -/
def State.shellSave (s : State) (kind inst : Nat) : State :=
  let x := s.shell (shellKey kind inst)
  s.setShell (shellKey kind inst) { x with saved := some x.present }

/-- A shell's saved calibration is restored; one that saved none keeps its own. -/
def State.shellRestore (s : State) (kind inst : Nat) : State :=
  let x := s.shell (shellKey kind inst)
  s.setShell (shellKey kind inst) { x with present := x.saved.getD x.present, defaultStart := false }

/-- A shell refuses an image: it keeps its calibration, sets its alarm, and trains from its default start point when it is next
enabled (R44). -/
def State.shellRefuse (s : State) (kind inst : Nat) : State :=
  let x := s.shell (shellKey kind inst)
  s.setShell (shellKey kind inst) { x with refused := true, defaultStart := true }

/-- The lanes of Ridge port p, as shells. -/
def portShells (p : Nat) : List (Nat × Nat) := (List.range 4).map fun i => (0, 4 * p + i)

/-- The shells on the Crest dies: lanes, Saddle ends, their ends of the Col links, PHYs of stacks, their PLLs, regulators and sensors. -/
def crestShells : List (Nat × Nat) :=
  (List.range 64).map (fun i => (0, i)) ++ (List.range 8).map (fun i => (2, i)) ++ (List.range 12).map (fun i => (4, i)) ++
  (List.range 4).flatMap fun d => [(3, 2 * d), (6, d), (7, 8 + d), (8, d)]

/-- The shells of a self-test target (Table 20.1). -/
def testShells (t : Nat) : List (Nat × Nat) :=
  match t / 256 with
  | 1 => portShells (t % 256)
  | 2 => portShells (t % 256)
  | 3 => [(2, t % 256)]
  | 4 => [(4, t % 256)]
  | 5 => [(6, t % 256)]
  | 6 => [(7, t % 256)]
  | _ => [(8, t % 256)]

/-- Each of some shells trains, is saved, is restored, or refuses its image. -/
def State.trainShells (s : State) (l : List (Nat × Nat)) : State := l.foldl (fun u x => u.shellTrain x.1 x.2) s
def State.saveShells (s : State) (l : List (Nat × Nat)) : State := l.foldl (fun u x => u.shellSave x.1 x.2) s
def State.restoreShells (s : State) (l : List (Nat × Nat)) : State := l.foldl (fun u x => u.shellRestore x.1 x.2) s
def State.refuseShells (s : State) (l : List (Nat × Nat)) : State := l.foldl (fun u x => u.shellRefuse x.1 x.2) s

/-- Global core number of core g of die d (R32). -/
def globalCore (d g : Nat) : Nat := d * 96 + g

/-- Append one output. -/
def State.emit (s : State) (kind : MsgKind) (dst : Nat) (args : List Nat) (data : List Byte) : State :=
  { s with out := s.out ++ [⟨kind, dst, args, data⟩] }

/-- Append outputs. -/
def State.sends (s : State) (l : List Msg) : State := { s with out := s.out ++ l }

/-- The next free value and the state that has taken it (assumption 3). -/
def State.takeFree (s : State) : Word × State := (Config.freeValue s.free, { s with free := s.free + 1 })

/-- The fabric time a clock shows `el` ns after its anchor, and the correction still left (R254): slewing at 1 ns per µs,
or a hold where it is ahead by more than 1 µs. -/
def FtClock.after (c : FtClock) (el : Nat) : Nat × Int :=
  if 0 ≤ c.corr then
    let k := min c.corr.toNat (el / 1000)
    (c.base + el + k, c.corr - k)
  else if -1000 ≤ c.corr then
    let k := min (-c.corr).toNat (el / 1000)
    (c.base + el - k, c.corr + k)
  else
    let k := min (-c.corr).toNat el
    (c.base + el - k, c.corr + k)

/-- Nanoseconds since the clock's anchor (a tick is 1/17 ns). -/
def State.sinceAnchor (s : State) : Nat := (s.time - s.clock.anchor) / 17

/-- Fabric time in ns (R254). -/
def State.fabricNow (s : State) : Nat := (s.clock.after s.sinceAnchor).1

/-- The first ns after its anchor at which a clock shows `need` ns more than there (R254): slewed, or past its hold. -/
def FtClock.reach (c : FtClock) (need : Nat) : Nat :=
  let k := c.corr.natAbs
  if 0 ≤ c.corr then
    let el := 1000 * (need / 1001) + need % 1001
    if el / 1000 ≤ k then el else need - k
  else if k ≤ 1000 then
    let el := if need % 999 = 0 ∧ 0 < need then 1000 * (need / 999) - 1 else 1000 * (need / 999) + need % 999
    if el / 1000 ≤ k then el else need + k
  else need + k

/-- Move time forward to a fabric time, never back: a timer command carries the block's time to its deadline
(assumption 4). The clock runs on as R254 says, slewing or holding. -/
def State.timeTo (s : State) (ft : Nat) : State :=
  if s.fabricNow < ft then
    { s with time := max s.time (s.clock.anchor + 17 * s.clock.reach (ft - s.clock.base)) }
  else s

/-- Set fabric time to the estimate, or begin its correction (R254). -/
def State.correctClock (s : State) (estimate : Nat) (enter : Bool) : State :=
  let now := s.fabricNow
  let e : Int := (estimate : Int) - now
  let anchor := s.time
  if enter || decide (1000 < e) then { s with clock := ⟨estimate, anchor, 0⟩ }
  else { s with clock := ⟨now, anchor, e⟩ }

/-- The package's job (MEMBER_STATE, Table 8.17). -/
def State.job (s : State) : Nat := s.getF MEMBER_STATE_JOB 0 0

/-- The package's device identifier (MASSIF_COORD). -/
def State.device (s : State) : Nat :=
  s.getF MASSIF_COORD_X 0 0 + (s.getF MASSIF_DIMS_XM1 0 0 + 1) *
    (s.getF MASSIF_COORD_Y 0 0 + (s.getF MASSIF_DIMS_YM1 0 0 + 1) * s.getF MASSIF_COORD_Z 0 0)

/-- Whether a Crest die is RUNNING (Table 16.6), in a package that has not stopped its dies (R435, R439, R452) and is not
held in reset (R526) or in Refuge, where the Crest dies are off (R461). -/
def State.dieRunning (s : State) (d : Nat) : Bool :=
  s.getF DIE_STATE_STATE 0 d == 0 && s.power.stopped.isNone && !s.power.inReset &&
  decide (s.getF STATE_STATUS_STATE 0 0 < 5)

/-- Whether no port can carry fabric traffic: in Refuge and on the way out of it, in a held reset, and while the Crest dies are stopped (R435,
R439, R452, R462). -/
def State.deaf (s : State) : Bool :=
  s.power.inReset || s.power.stopped.isSome || decide (5 ≤ s.getF STATE_STATUS_STATE 0 0)

/-- Move time forward to a tick, never back. -/
def State.tickTo (s : State) (t : Nat) : State := if s.time < t then { s with time := t } else s

/-- A CORNICE_EXPERT field in force: expert fields apply from the next step boundary (chapter 12). -/
def State.corSet (s : State) (f : Fld) : Nat := f.get s.cor.expert
def State.corOn (s : State) (f : Fld) : Bool := f.get s.cor.expert == 1
/-- A STATE_EXPERT field in force: expert fields apply from the next entry into Bivouac (chapter 18). -/
def State.wakesOn (s : State) (f : Fld) : Bool := f.get s.low.expert == 1

/-- Ticks in a microsecond and in a millisecond (a tick is 1/17 ns, R7). -/
def usTicks : Nat := 17000
def msTicks : Nat := 17000000

/-- Whether the package is in the RUNNING state of chapter 18. -/
def State.awake (s : State) : Bool := s.getF STATE_STATUS_STATE 0 0 == 0

/-! ### Status codes (Table 0.5) -/

def stDONE : Nat := 0x00
def stDEGRADED : Nat := 0x01
def stSHORT : Nat := 0x02
def stPOISONED : Nat := 0x10
def stUNREACHABLE : Nat := 0x11
def stTIMEOUT : Nat := 0x12
def stEPOCH : Nat := 0x13
def stCOLLAPSED : Nat := 0x14
def stCHECK : Nat := 0x15
def stINVALID : Nat := 0x20
def stNORES : Nat := 0x21
def stABORTED : Nat := 0x22

/-- The Precedence column of Table 0.5. -/
def statusRank (c : Nat) : Nat :=
  if c = stINVALID then 1 else if c = stNORES then 2 else if c = stABORTED then 3
  else if c = stCOLLAPSED then 4 else if c = stEPOCH then 5 else if c = stCHECK then 6
  else if c = stUNREACHABLE then 7 else if c = stTIMEOUT then 8 else if c = stPOISONED then 9
  else if c = stSHORT then 10 else if c = stDEGRADED then 11 else 12

/-- Of two statuses that apply, the one reported (R27). -/
def statusMax (a b : Nat) : Nat := if statusRank b < statusRank a then b else a

/-! ### Error records -/

/-- The DIE code of the Camp die in a record (Table 20.5). -/
def campDie : Nat := 4

/-- The contour step of a die's copy, or the largest of them for the Camp die (R495). -/
def State.stepOf (s : State) (die : Nat) : Nat :=
  let v (d : Nat) : Nat := s.getF CONTOUR_VALUE_VALUE d 0 / 2 ^ 24
  if die < 4 then v die else max (max (v 0) (v 1)) (max (v 2) (v 3))

/-- Raise one error record: it waits for ERROR_RECORD to process it (R495, R496). -/
def State.raise (s : State) (cls kind die unit status a0 a1 a2 : Nat) : State :=
  let r : ErrRec := ⟨cls, kind, die, status, unit, 1, s.stepOf die, false, false, s.fabricNow, a0, a1, a2, 0⟩
  (s.setErr fun y => { y with raised := y.raised ++ [r] })

/-! ### Numeric flags (R108, R109, R111) -/

/-- The records of flags that rise in a set. -/
def raiseFlags (s : State) (d unit set rising : Nat) : State :=
  (List.range 5).foldl (fun s b =>
    if rising.testBit b && (s.getF FLAG_EXPERT_EVENT_MASK d 0).testBit b
    then s.raise 0 0x01 d unit 0 set b 0 else s) s

/-- Set sticky flags in a set held in field f (index i), with the records of those that rise (R111). -/
def State.orFlags (s : State) (f : Fld) (d i unit set fl : Nat) : State :=
  let old := s.getF f d i
  let s1 := s.setF f d i (old ||| fl)
  raiseFlags s1 d unit set (fl ^^^ (fl &&& old))

/-- The array set of core g of die d. -/
def State.arrFlags (s : State) (d g fl : Nat) : State := s.orFlags CORE_FLAGS_ARR d g g 0 fl

/-- The vector set of core g of die d. -/
def State.vecFlags (s : State) (d g fl : Nat) : State := s.orFlags CORE_FLAGS_VEC d g g 1 fl

/-! ### The package address map (Tables 1.5 to 1.7, 7.4) -/

/-- Where a package physical address lies. Core numbers are within the die. -/
inductive Place where
  | talus (t off : Nat)
  | clusterScratch (d c off : Nat)
  | coreScratch (d g off : Nat)
  | accumulator (d g off : Nat)
  | ledge (d g off : Nat)
  | queuePort (d q off : Nat)
  | contour (d off : Nat)
  | mailbox (d off : Nat)
  | flagWord (d f off : Nat)
  | trigger (d f off : Nat)
  | unmapped
  deriving DecidableEq, Repr

/-- Offset within a die's SRAM window (R37). -/
def sramPlace (d o : Nat) : Place :=
  let c := o / 0x4000000
  let p := o % 0x4000000
  if 8 ≤ c then .unmapped
  else if p < 0x1000000 then .clusterScratch d c p
  else
    let k := (p - 0x1000000) / 0x400000
    let q := (p - 0x1000000) % 0x400000
    let g := c * 12 + k
    if 12 ≤ k then .unmapped
    else if q < 0x200000 then .coreScratch d g q
    else if q < 0x240000 then .accumulator d g (q - 0x200000)
    else if q < 0x260000 then .ledge d g (q - 0x240000)
    else .unmapped

/-- Offset within a die's queue, contour and mailbox window. -/
def windowPlace (d o : Nat) : Place :=
  if o < 0x4000000 then .queuePort d (o / 0x100000) (o % 0x100000)
  else if o < 0x8000000 then (if o - 0x4000000 < 0x8000 then .contour d (o - 0x4000000) else .unmapped)
  else if o < 0xC000000 then
    let m := o - 0x8000000
    if m < 0x60000 then .mailbox d m
    else if 0x1000000 ≤ m ∧ m < 0x1008000 then .flagWord d ((m - 0x1000000) / 8) ((m - 0x1000000) % 8)
    else if 0x2000000 ≤ m ∧ m < 0x2008000 then .trigger d ((m - 0x2000000) / 8) ((m - 0x2000000) % 8)
    else .unmapped
  else .unmapped

/-- The home-view address of spread-view offset x of die d (R36). -/
def spreadHome (d x : Nat) : Nat :=
  let g := x / 4096
  (3 * d + g % 3) * 0x1000000000 + g / 3 * 4096 + x % 4096

/-- The place of a package physical address (R35). -/
def place (a : Nat) : Place :=
  if a < 0xC000000000 then .talus (a / 0x1000000000) (a % 0x1000000000)
  else if a < 0x100000000000 then .unmapped
  else if a < 0x10C000000000 then
    let h := spreadHome ((a - 0x100000000000) / 0x3000000000) ((a - 0x100000000000) % 0x3000000000)
    .talus (h / 0x1000000000) (h % 0x1000000000)
  else if a < 0x400000000000 then .unmapped
  else if a < 0x400400000000 then
    sramPlace ((a - 0x400000000000) / 0x100000000) ((a - 0x400000000000) % 0x100000000)
  else if a < 0x800000000000 then .unmapped
  else if a < 0x800040000000 then
    windowPlace ((a - 0x800000000000) / 0x10000000) ((a - 0x800000000000) % 0x10000000)
  else .unmapped

/-- The address under which memory keeps a byte: the home view for Talus, the address itself elsewhere (R36). -/
def memKey (a : Nat) : Nat :=
  if 0x100000000000 ≤ a ∧ a < 0x10C000000000 then
    spreadHome ((a - 0x100000000000) / 0x3000000000) ((a - 0x100000000000) % 0x3000000000)
  else a

/-- The part of stack t (of die t / 3) in the spread-view extent of n bytes from offset lo of the views, as first byte and length
in the home view (R36). -/
def spreadPart (lo n t : Nat) : Option (Nat × Nat) :=
  let base := t / 3 * 0x3000000000
  let first := max lo base
  let last := min (lo + n) (base + 0x3000000000)
  if last ≤ first then none
  else
    let x := first - base
    let y := last - 1 - base
    let up := (t % 3 + 3 - x / 4096 % 3) % 3
    let down := (y / 4096 % 3 + 3 - t % 3) % 3
    let x1 := if up = 0 then x else (x / 4096 + up) * 4096
    let y1 := if down = 0 then y + 1 else (y / 4096 + 1 - down) * 4096
    if y1 ≤ x1 then none
    else
      let a := spreadHome (t / 3) x1
      some (a, spreadHome (t / 3) (y1 - 1) + 1 - a)

/-- The home-view runs of cells that an extent covers (R36). -/
def homeSpans (a n : Nat) : List (Nat × Nat) :=
  if 0x100000000000 ≤ a ∧ a < 0x10C000000000 then (List.range 12).filterMap (spreadPart (a - 0x100000000000) n)
  else [(a, n)]

/-- Whether two extents share a granule of a stack (R166). -/
def shareGranule (a n b m : Nat) : Bool :=
  (homeSpans a n).any fun p => (homeSpans b m).any fun q =>
    decide (p.1 < 0xC000000000 ∧ p.1 / 128 * 128 < q.1 + q.2 ∧ q.1 / 128 * 128 < p.1 + p.2)

/-- Whether an access waits behind an earlier one that shares a granule with it, where either of them writes (R166). -/
def State.behind (s : State) (a n : Nat) (write : Bool) : Bool :=
  s.arrivals.any fun w => w.extents.any fun e => (write || e.2.2) && shareGranule a n e.1 e.2.1

/-- Package address of core g's block on die d (Table 2.3). -/
def coreBase (d g : Nat) : Nat :=
  0x400000000000 + d * 0x100000000 + g / 12 * 0x4000000 + 0x1000000 + g % 12 * 0x400000

/-- Package address of core g's ledge. -/
def ledgeBase (d g : Nat) : Nat := coreBase d g + 0x240000

/-- Package address of core g's accumulator file. -/
def accBase (d g : Nat) : Nat := coreBase d g + 0x200000

/-- Package address of cluster c's scratch. -/
def clusterBase (d c : Nat) : Nat := 0x400000000000 + d * 0x100000000 + c * 0x4000000

/-- Package address of flag word f of die d (Table 7.4). -/
def flagWordAddr (d f : Nat) : Nat := 0x800000000000 + d * 0x10000000 + 0x8000000 + 0x1000000 + f * 8

/-- Package address of the trigger of flag word f of die d (Table 7.4). -/
def triggerAddr (d f : Nat) : Nat := 0x800000000000 + d * 0x10000000 + 0x8000000 + 0x2000000 + f * 8

/-- The die that owns a place. -/
def Place.die : Place → Nat
  | .talus t _ => t / 3
  | .clusterScratch d _ _ => d
  | .coreScratch d _ _ => d
  | .accumulator d _ _ => d
  | .ledge d _ _ => d
  | .queuePort d _ _ => d
  | .contour d _ => d
  | .mailbox d _ => d
  | .flagWord d _ _ => d
  | .trigger d _ _ => d
  | .unmapped => 0

/-- The core, if any, whose accumulator file or ledge an address lies in. -/
def windowCore (a : Nat) : Option Nat :=
  match place a with
  | .accumulator d g _ => some (globalCore d g)
  | .ledge d g _ => some (globalCore d g)
  | _ => none

/-- How an access fares at one address: performed, held at the controller (Table 6.3), at a retired stack (R171), at a
fenced die (R39), or unmapped (R40). -/
inductive Reach where
  | ok | held | retired | unreachable | unmapped
  deriving DecidableEq, Repr

/-- The worse of two: the status of smaller precedence number first. -/
def Reach.rank : Reach → Nat
  | .unmapped => 0
  | .unreachable => 1
  | .retired => 2
  | .held => 3
  | .ok => 4

def Reach.worse (a b : Reach) : Reach := if b.rank < a.rank then b else a

/-- STATE of Talus stack t (Table 6.3). -/
def State.stackState (s : State) (t : Nat) : Nat := s.getF STACK_STATE_STATE (t / 3) (t % 3)

/-- How an access to stack t fares (Table 6.3, R39). -/
def State.stackReach (s : State) (t : Nat) : Reach :=
  match s.stackState t with
  | 0 => .unmapped
  | 1 => if s.dieRunning (t / 3) then .held else .unreachable
  | 2 => if s.dieRunning (t / 3) then .ok else .unreachable
  | 3 => if s.dieRunning (t / 3) then .held else .unreachable
  | _ => if s.dieRunning (t / 3) then .retired else .unreachable

/-- How an access at one address fares; a queue port answers only the accesses of R361, each of which has its own operation. -/
def State.reachAt (s : State) (a : Nat) : Reach :=
  match place a with
  | .unmapped => .unmapped
  | .talus t _ => s.stackReach t
  | .queuePort _ _ _ => .unmapped
  | p => if s.dieRunning p.die then .ok else .unreachable

/-- The first address past the run of mapped addresses of one kind that holds a. -/
def runEnd (a : Nat) : Nat :=
  match place a with
  | .talus _ _ => if a < 0xC000000000 then 0xC000000000 else 0x10C000000000
  | .clusterScratch d c _ => clusterBase d c + 0x1260000
  | .coreScratch d g _ => coreBase d g + 0x260000
  | .accumulator d g _ => coreBase d g + 0x260000
  | .ledge d g _ => coreBase d g + 0x260000
  | .queuePort d _ _ => 0x800000000000 + d * 0x10000000 + 0x4000000
  | .contour d _ => 0x800000000000 + d * 0x10000000 + 0x4008000
  | .mailbox d _ => 0x800000000000 + d * 0x10000000 + 0x8060000
  | .flagWord d _ _ => flagWordAddr d 0 + 0x8000
  | .trigger d _ _ => triggerAddr d 0 + 0x8000
  | .unmapped => a

/-- Addresses that decide how the extent a .. a + n − 1 fares: its ends, and in Talus one in each stack it may touch. -/
def extentProbes (a n : Nat) : List Nat :=
  let last := a + n - 1
  if a < 0xC000000000 then
    a :: (rangeFrom (a / 0x1000000000 + 1) (last / 0x1000000000 - a / 0x1000000000)).map (· * 0x1000000000)
  else if 0x100000000000 ≤ a ∧ a < 0x10C000000000 then
    -- three granules of the first die, the die borders between, three granules of the last die
    [a, min last (a + 4096), min last (a + 8192), last, max a (last - 4096), max a (last - 8192)] ++
      ((List.range 4).flatMap fun d =>
        let b := 0x100000000000 + d * 0x3000000000
        [b, b + 4096, b + 8192].filter (fun x => a ≤ x && x ≤ last))
  else [a, last]

/-- How an access to the whole extent a .. a + n − 1 fares. -/
def State.extentReach (s : State) (a n : Nat) : Reach :=
  if n = 0 then .ok
  else if runEnd a < a + n then .unmapped
  else (extentProbes a n).foldl (fun r x => r.worse (s.reachAt x)) .ok

/-- The status that a remote operation or descriptor gets from its extent (R39, R40, R171). -/
def Reach.status : Reach → Nat
  | .ok => stDONE
  | .held => stDONE
  | .retired => stPOISONED
  | .unreachable => stUNREACHABLE
  | .unmapped => stINVALID

/-! ### Memory bytes and poison -/

/-- The byte at an address; an address that nothing has written reads 0 (assumption 5). -/
def State.byte (s : State) (a : Nat) : Byte := kget 0 s.mem (memKey a)

/-- One byte stored. -/
def State.setByte (s : State) (a : Nat) (b : Byte) : State := { s with mem := kset 0 s.mem (memKey a) b }

/-- n bytes from a. -/
def State.bytes (s : State) (a n : Nat) : List Byte := (rangeFrom a n).map s.byte

/-- The little-endian number of n bytes at a (R9). -/
def State.readN (s : State) (a n : Nat) : Nat := leNat (s.bytes a n)

/-- Whether the 4-byte unit that holds address a is poisoned. -/
def State.poisonAt (s : State) (a : Nat) : Bool := kget false s.poison (memKey a / 4)

/-- Whether any unit of a .. a + n − 1 is poisoned. -/
def State.poisoned (s : State) (a n : Nat) : Bool :=
  (rangeFrom (a / 4) ((a + n + 3) / 4 - a / 4)).any fun u => s.poisonAt (u * 4)

/-- Word size by which poison is kept at an address: 4 bytes in an accumulator file, 8 elsewhere. -/
def poisonWord (a : Nat) : Nat :=
  match place a with
  | .accumulator _ _ _ => 4
  | _ => 8

/-- Mark or clear the words that a .. a + n − 1 touches. -/
def State.setPoison (s : State) (a n : Nat) (p : Bool) : State :=
  let w := poisonWord a
  let first := a / w * w
  let us := rangeFrom (first / 4) (((a + n + w - 1) / w * w - first) / 4)
  { s with poison := us.foldl (fun m u => kset false m (memKey (u * 4) / 4) p) s.poison }

/-- Clear the marks of the words of w bytes (8, or 4 in an accumulator file) that a .. a + n − 1 covers in full (R168,
R114). -/
def State.clearCovered (s : State) (w a n : Nat) : State :=
  let first := (a + w - 1) / w
  let last := (a + n) / w
  if first < last then s.setPoison (first * w) ((last - first) * w) false else s

/-- Store bytes without touching poison marks. -/
def State.storeBytes (s : State) : Nat → List Byte → State
  | _, [] => s
  | a, b :: bs => State.storeBytes (s.setByte a b) (a + 1) bs

/-- Store bytes; a word covered in full loses its poison mark (R168). -/
def State.write (s : State) (a : Nat) (bs : List Byte) : State :=
  (s.storeBytes a bs).clearCovered (poisonWord a) a bs.length

/-- Store the n little-endian bytes of a number. -/
def State.writeN (s : State) (a n x : Nat) : State := s.write a (leBytes n x)

/-- Store bytes as poisoned words (R168). -/
def State.writePoisoned (s : State) (a : Nat) (bs : List Byte) : State :=
  (s.write a bs).setPoison a bs.length true

/-- Store bytes, each 4-byte unit poisoned where its mark in ps says so (marks in address order from a). -/
def State.writeMarked (s : State) (a : Nat) (bs : List Byte) (ps : List Bool) : State :=
  ps.zipIdx.foldl (fun s p => if p.1 then s.setPoison (a + 4 * p.2) 1 true else s) (s.write a bs)

/-- The poison marks of the 4-byte units of a .. a + n − 1. -/
def State.marks (s : State) (a n : Nat) : List Bool :=
  (List.range ((n + 3) / 4)).map fun i => s.poisonAt (a + 4 * i)

/-- Record an access to an unmapped address, deferred, by unit `unit` of die d (R40). -/
def State.addressFault (s : State) (d unit a : Nat) : State := s.raise 1 0x03 d unit 0 a unit 0

/-- Whether an address lies at a retired stack (R171). -/
def State.retiredAt (s : State) (a : Nat) : Bool := s.reachAt a == .retired

/-- The bytes and marks of an extent that touches a retired stack: its part there reads zeros with poison (R171). -/
def State.readOpen (s : State) (a n : Nat) : List Byte × List Bool :=
  ((rangeFrom a n).map (fun x => if s.retiredAt x then 0 else s.byte x),
   (List.range ((n + 3) / 4)).map fun i => s.retiredAt (a + 4 * i) || s.poisonAt (a + 4 * i))

/-- Store bytes with their marks in the part of an extent that touches no retired stack (R171). -/
def State.writeOpen (s : State) (a : Nat) (bs : List Byte) (ps : List Bool) : State :=
  let s1 := bs.zipIdx.foldl (fun t p => if s.retiredAt (a + p.2) then t else t.setByte (a + p.2) p.1) s
  let s2 := (rangeFrom ((a + 7) / 8) ((a + bs.length) / 8 - (a + 7) / 8)).foldl (fun t w =>
    if s.retiredAt (8 * w) then t else t.setPoison (8 * w) 8 false) s1
  ps.zipIdx.foldl (fun t p => if p.1 && !s.retiredAt (a + 4 * p.2) then t.setPoison (a + 4 * p.2) 1 true else t) s2

/-- The bytes and marks that a local read of n bytes at a finds: zeros with poison where they are unmapped, at a fenced die, or at a
retired stack (R39, R40, R171). -/
def State.found (s : State) (a n : Nat) : List Byte × List Bool :=
  match s.extentReach a n with
  | .ok => (s.bytes a n, s.marks a n)
  | .held => (s.bytes a n, s.marks a n)
  | .retired => s.readOpen a n
  | _ => (List.replicate n 0, List.replicate ((n + 3) / 4) true)

/-- The bytes that a local read of n bytes at a finds. -/
def State.seen (s : State) (a n : Nat) : List Byte :=
  match s.extentReach a n with
  | .ok => s.bytes a n
  | .held => s.bytes a n
  | .retired => (s.readOpen a n).1
  | _ => List.replicate n 0

/-- The little-endian number of the n bytes that a local read at a finds (R9). -/
def State.seenN (s : State) (a n : Nat) : Nat := leNat (s.seen a n)

/-- Whether a local read of n bytes at a returns poison. -/
def State.seenPois (s : State) (a n : Nat) : Bool :=
  match s.extentReach a n with
  | .ok => s.poisoned a n
  | .held => s.poisoned a n
  | .retired => (s.readOpen a n).2.any id
  | _ => true

/-! ### The symbol code and the granules (chapter 06) -/

/-- A field of stack t (of die t / 3, controller t mod 3). -/
def State.stkF (s : State) (f : Fld) (t : Nat) : Nat := s.getF f (t / 3) (t % 3)
/-- Set a field of stack t. -/
def State.setStkF (s : State) (f : Fld) (t x : Nat) : State := s.setF f (t / 3) (t % 3) x

/-- Home-view address of a granule of stack t (Table 1.5). -/
def granuleAddr (t granule : Nat) : Nat := t * 0x1000000000 + granule * 128

/-- The dead symbol of word group w of stack t, if any (Table 6.13). -/
def State.deadSymbol (s : State) (t w : Nat) : Option Nat :=
  let v := if w < 8 then s.reg DEAD_WIRES_A (t / 3) (t % 3) else s.reg DEAD_WIRES_B (t / 3) (t % 3)
  let g := w % 8
  if v.toNat.testBit (40 + g) then some (bits v.toNat (5 * g + 4) (5 * g)) else none

/-- Record symbol j of group w as dead. -/
def State.setDead (s : State) (t w j : Nat) : State :=
  let r := if w < 8 then DEAD_WIRES_A else DEAD_WIRES_B
  let v := (s.reg r (t / 3) (t % 3)).toNat
  let g := w % 8
  s.setReg r (t / 3) (t % 3) (BitVec.ofNat 64 (v ||| 2 ^ (40 + g) ||| j * 2 ^ (5 * g)))

/-! ### PKG_HEALTH (Table 16.12, R436) -/

/-- STATE codes of a port (Table 8.15). -/
def portOFF : Nat := 0
def portTRAINING : Nat := 1
def portTRAILHEAD : Nat := 2
def portUP : Nat := 3
def portRETRAIN : Nat := 4
def portFAILED : Nat := 5

/-- A field of port p (die p / 4, port p mod 4). -/
def State.portF (s : State) (f : Fld) (p : Nat) : Nat := s.getF f (p / 4) (p % 4)
def State.setPortF (s : State) (f : Fld) (p x : Nat) : State := s.setF f (p / 4) (p % 4) x
def State.portState (s : State) (p : Nat) : Nat := s.portF PORT_STATE_STATE p

/-- DIR of a port as its die's Ridge block has it (R223). -/
def State.dirSet (s : State) (p : Nat) : Nat := bits (s.reg RIDGE_EXPERT (p / 4) 0).toNat (3 * (p % 4) + 2) (3 * (p % 4))

def State.dieState (s : State) (d : Nat) : Nat := s.getF DIE_STATE_STATE 0 d

/-- PKG_HEALTH (Table 16.12, R436). -/
def State.pkgHealth (s : State) : Nat :=
  let mask (n : Nat) (p : Nat → Bool) : Nat := (List.range n).foldl (fun m i => m + b2n (p i) * 2 ^ i) 0
  let fenced := mask 4 fun d => s.dieState d != 0
  let narrow := mask 4 fun l =>
    (s.getF SADDLE_STATUS_WIDTH 0 l == 1 || s.getF SADDLE_STATUS_WIDTH 0 l == 2) && decide (s.getF SADDLE_STATUS_STATE 0 l < 2)
  let down := mask 4 fun l => s.getF SADDLE_STATUS_STATE 0 l == 2
  let retired := (List.range 12).any fun t => s.stackState t == 4
  let lost := (List.range 16).any fun p => s.dirSet p != 6 && !(s.portState p == portUP && s.portF PORT_STATE_WIDTH p == 4)
  let v := fenced * 2 ^ 16 + narrow * 2 ^ 12 + down * 2 ^ 8 + b2n retired * 8 + b2n lost * 4
  v + b2n (v != 0)

/-- A change of PKG_HEALTH waits as a PLDM event (R436). -/
def State.noteHealth (s : State) : State :=
  let v := s.pkgHealth
  if v = s.pins.healthSeen then s
  else s.setPins fun r => { r with healthSeen := v, healthEvents := r.healthEvents ++ [v] }

/-! ### Retirement (R170, R171) -/

/-- Retire stack t for a cause, with its one deferred record. -/
def State.retireStack (s : State) (t cause : Nat) : State :=
  (((s.setStkF STACK_STATE_STATE t 4).setStkF STACK_STATE_CAUSE t cause).raise 1 0x12 (t / 3) t 0 cause 0 0).noteHealth

/-- Mark the wire of symbol j of group w dead (R169); a second wire of one group retires the stack (R170). -/
def State.markDead (s : State) (t w j : Nat) : State :=
  match s.deadSymbol t w with
  | none => s.setDead t w j
  | some k => if k = j then s else if s.stackState t = 4 then s else s.retireStack t 3

/-! ### Decoding (R167 to R169) -/

/-- One decoded word: its 64 bits and whether it returns with poison set. -/
structure TalusWord where
  data : Nat
  pois : Bool
  deriving DecidableEq, Repr

/-- The symbols of word w that differ from what was stored. -/
def badSymbols (errs : List SymErr) (w : Nat) : List Nat :=
  ((errs.filter fun e => e.word == w && decide (e.symbol < 20) && e.flip != 0).map (·.symbol)).eraseDups

/-- One corrected error counted, recorded, and added to the run of DEAD_WIRE_RUN (R167, R169). -/
def State.countCorrected (s : State) (t granule w j : Nat) : State :=
  let s1 := (s.satF CE_COUNT_COUNT (t / 3) (t % 3) 1).raise 0 0x10 (t / 3) t 0 granule j 0
  let k := s1.stack t
  let wire := 20 * w + j
  let n := if k.streakWire = wire then k.streak + 1 else 1
  if s1.getF TALUS_EXPERT_DEAD_WIRE_RUN (t / 3) 0 ≤ n then
    (s1.setStack t { k with streakWire := wire, streak := 0 }).markDead t w j
  else s1.setStack t { k with streakWire := wire, streak := n }

/-- One uncorrectable word: stored as poisoned, counted, recorded; the count may retire the stack (R168, R170). -/
def State.countUncorrectable (s : State) (t granule w : Nat) : State :=
  let s1 := ((s.setPoison (granuleAddr t granule + 8 * w) 8 true).satF UE_COUNT_COUNT (t / 3) (t % 3) 1).raise
    1 0x11 (t / 3) t 0 granule w 0
  let limit := s1.getF TALUS_EXPERT_UE_RETIRE_LIMIT (t / 3) 0
  if limit ≠ 0 ∧ limit ≤ s1.stkF UE_COUNT_COUNT t ∧ s1.stackState t ≠ 4 then s1.retireStack t 4 else s1

/-- What decoding finds in a stored word: `pois` its mark, `stored` its value. -/
def State.decodeStored (s : State) (t granule w : Nat) (errs : List SymErr) (pois : Bool) (stored : Nat) :
    State × TalusWord :=
  if pois then (s, ⟨stored, true⟩)
  else
    let bad := badSymbols errs w
    match s.deadSymbol t w with
    | some j => if (bad.filter (· != j)).isEmpty then (s, ⟨stored, false⟩) else (s.countUncorrectable t granule w, ⟨stored, true⟩)
    | none =>
      match bad with
      | [] => (s, ⟨stored, false⟩)
      | [j] => (s.countCorrected t granule w j, ⟨stored, false⟩)
      | [_, _] => (s.countUncorrectable t granule w, ⟨stored, true⟩)
      | _ =>
        let x := s.takeFree
        if x.1.getLsbD 0 then (x.2.countUncorrectable t granule w, ⟨stored, true⟩)
        else
          let y := x.2.takeFree
          (y.2, ⟨y.1.toNat, false⟩)

/-- Decode word w of a granule (Table 6.2). Errors in three or more symbols are detected or miscorrected by a free value,
and a miscorrected word is a free value. -/
def State.decodeWord (s : State) (t granule w : Nat) (errs : List SymErr) : State × TalusWord :=
  s.decodeStored t granule w errs (s.poisoned (granuleAddr t granule + 8 * w) 8) (s.readN (granuleAddr t granule + 8 * w) 8)

/-- Decode the sixteen words of a granule in order. -/
def State.decodeGranule (s : State) (t granule : Nat) (errs : List SymErr) : State × List TalusWord :=
  (List.range 16).foldl (fun (x : State × List TalusWord) w =>
    let y := x.1.decodeWord t granule w errs
    (y.1, x.2 ++ [y.2])) (s, [])

/-- The words of a granule as they were decoded: what every read of it finds until it is written (assumption 94). -/
def State.keepWords (s : State) (t granule : Nat) (ws : List TalusWord) : State :=
  ws.zipIdx.foldl (fun u w => if w.1.pois then u else u.storeBytes (granuleAddr t granule + 8 * w.2) (leBytes 8 w.1.data)) s

/-- The errors that stand in a granule of stack t. -/
def State.granuleErrs (s : State) (t granule : Nat) : List SymErr :=
  ((s.stack t).errs.filter fun e => e.1 == granule).map (·.2)

/-- Other errors stand in a granule of stack t. -/
def State.setGranuleErrs (s : State) (t granule : Nat) (errs : List SymErr) : State :=
  s.setStack t { s.stack t with errs := (s.stack t).errs.filter (fun e => e.1 != granule) ++ errs.map fun e => (granule, e) }

/-- Errors that a read leaves standing: those of words with one wrong symbol. The others are poisoned or miscorrected from then on. -/
def standing (errs : List SymErr) : List SymErr := errs.filter fun e => (badSymbols errs e.word).length == 1

/-- The controller reads a granule in which further errors have come to stand: every word is decoded (R167). The corrected data is not
written back, so a correctable error stands until the granule is written. -/
def State.readCells (s : State) (t granule : Nat) (errs : List SymErr) : State × List TalusWord :=
  let es := s.granuleErrs t granule ++ errs
  let x := s.decodeGranule t granule es
  ((x.1.keepWords t granule x.2).setGranuleErrs t granule (standing es), x.2)

/-- What writing bytes of a granule does to the errors that stand in it: a write of all of it stores whole words, any other is a
read-modify-write (R165). -/
def State.freshen (s : State) (t granule : Nat) (errs : List SymErr) (full : Bool) : State :=
  (if full then s else (s.readCells t granule errs).1).setGranuleErrs t granule []

/-- Accesses to a granule of stack t meet the errors that stand in it. -/
def State.meetGranule (s : State) (t granule : Nat) (write full : Bool) : State :=
  if s.stackState t ≠ 2 then s else if write then s.freshen t granule [] full else (s.readCells t granule []).1

/-- ECC errors that accesses to the accumulator file of core k meet in the word pairs lo .. hi − 1 (R114): a corrected one is repaired in
place and recorded, an uncorrectable one poisons both words and is recorded. A pair that a write covers in full keeps none. -/
def State.meetPairs (s : State) (k lo hi : Nat) (covered : Nat → Bool) : State :=
  let c := s.core k
  let met (x : AccErr) : Bool := decide (lo ≤ x.pair.val ∧ x.pair.val < hi)
  if !c.ecc.any met then s
  else
    (c.ecc.filter fun x => met x && !covered x.pair.val).foldl (fun u x =>
      (if x.fatal then u.setPoison (accBase (k / 96) (k % 96) + 8 * x.pair.val) 8 true else u).raise (b2n x.fatal) 0x04 (k / 96) (k % 96) 0
        (x.pair.val / 32) (x.pair.val % 32 * 2) 0)
      (s.setCore k { c with ecc := c.ecc.filter fun x => !met x })

/-- No errors stand in the granules of the stacks. -/
def State.quiet (s : State) : Bool := s.talusCtl.all fun k => k.2.errs.isEmpty

/-- An access to a .. a + n − 1 meets the errors that stand there: in Talus granules (R165 to R167), in an accumulator file (R38, R114). -/
def State.meetErrs (s : State) (a n : Nat) (write : Bool) : State :=
  match place a with
  | .accumulator d g off => s.meetPairs (globalCore d g) (off / 8) ((off + n + 7) / 8) fun p => write && decide (off ≤ 8 * p ∧ 8 * p + 8 ≤ off + n)
  | .talus _ _ =>
    s.talusCtl.foldl (fun u k => ((k.2.errs.map (·.1)).eraseDups).foldl (fun v g =>
      let b := granuleAddr k.1 g
      match (homeSpans a n).find? fun p => decide (p.1 < b + 128 ∧ b < p.1 + p.2) with
      | some p => v.meetGranule k.1 g write (decide (p.1 ≤ b ∧ b + 128 ≤ p.1 + p.2))
      | none => v) u) s
  | _ => s

/-! ### Accesses -/

/-- A local read of an engine: bytes and poison marks. An unmapped range and what lies at a retired stack read zeros with poison; the
unmapped one also records an address fault (R40, R171). -/
def State.localRead (s : State) (d unit a n : Nat) : State × List Byte × List Bool :=
  match s.extentReach a n with
  | .unmapped => (s.addressFault d unit a, List.replicate n 0, List.replicate ((n + 3) / 4) true)
  | .unreachable => (s, List.replicate n 0, List.replicate ((n + 3) / 4) true)
  | _ => let t := s.meetErrs a n false; (t, t.found a n)

/-- What a local read of an engine leaves behind, whatever it finds: `found` gives what that is (R40, R114, R167). -/
def State.look (s : State) (d unit a n : Nat) : State :=
  match s.extentReach a n with
  | .unmapped => s.addressFault d unit a
  | .unreachable => s
  | _ => s.meetErrs a n false

/-- A local write of an engine; not performed at an unmapped range, in its part at a retired stack, or at a fenced die (R39, R40,
R171). -/
def State.localWrite (s : State) (d unit a : Nat) (bs : List Byte) (ps : List Bool) : State :=
  match s.extentReach a bs.length with
  | .unmapped => s.addressFault d unit a
  | .retired => (s.meetErrs a bs.length true).writeOpen a bs ps
  | .unreachable => s
  | _ => (s.meetErrs a bs.length true).writeMarked a bs ps

/-! ### Global pointers (Table 1.8) -/

/-- SPACE of a global pointer. -/
def ptrSpace (p : Word) : Nat := bits p.toNat 63 62
/-- DEVICE of a global pointer. -/
def ptrDevice (p : Word) : Nat := bits p.toNat 61 48
/-- ADDRESS of a global pointer in SPACE 0b00 and 0b01. -/
def ptrAddr (p : Word) : Nat := bits p.toNat 47 0
/-- ADDRESS of a global pointer in SPACE 0b10 and 0b11. -/
def ptrAddr62 (p : Word) : Nat := bits p.toNat 61 0

/-- Whether a pointer names the own package as a SPACE 0b00 pointer with DEVICE 0. -/
def ptrLocal (p : Word) : Bool := ptrSpace p == 0 && ptrDevice p == 0

end Sys2Proof.Machine
end

