-- ==== Sys2Proof/Machine/RegOps.lean ====
section
/-!
DEFINITION. Resets of the set-up registers by letter (R14, R15, R456), and the reset of one core and one die's cores.
-/
namespace Sys2Proof.Machine

open Sys2Proof

/-- A register value with every field whose letters hold one of ls returned to its reset value (R15). -/
def resetFields (ls : List ResetLetter) (init : Word) (rows : List FldRow) (v : Word) : Word :=
  rows.foldl (fun v r =>
    if r.letters.any (fun l => ls.contains l) then
      let f : Fld := ⟨⟨.glb, 0, false, 0, 0, 0, []⟩, r.hi, r.lo⟩
      f.put v (f.get init)
    else v) v

/-- Apply a reset to every stored register that `scope` admits (given its row, die and index). -/
def State.resetRegs (s : State) (ls : List ResetLetter) (scope : RegRow → Nat → Nat → Bool) : State :=
  { s with regs := s.regs.foldl (fun m p =>
      match findReg p.1 with
      | some (row, d, i) =>
        if scope row d i then kset (row.reg.initOf d) m p.1 (resetFields ls (row.reg.initOf d) row.rows p.2) else m
      | none => m) s.regs }

/-- The Crest die that holds a register with a D letter: its own die region's, or by index in the lower half (per-die
registers of RED and UPD, and the three engines of each die). -/
def dieOfReg (row : RegRow) (d i : Nat) : Nat :=
  if row.reg.perDie then d
  else if row.reg.blk = .upd ∧ row.reg.stride = 0x40 then i / 4
  else i

/-- Reset the fields of core g of die d that carry the letter C (R85). -/
def State.resetCoreRegs (s : State) (d g : Nat) : State :=
  s.resetRegs [.core] (fun row d' i => row.reg.perDie && d' == d && i == g)

/-- Reset the fields of port p of die d that carry the letter T. -/
def State.resetPortRegs (s : State) (d p : Nat) : State :=
  s.resetRegs [.port] (fun row d' i => row.reg.perDie && d' == d && i == p)

/-- Reset the fields of die d that carry D, T or C (R456). -/
def State.resetDieRegs (s : State) (d : Nat) : State :=
  s.resetRegs [.die, .port, .core] (fun row d' i => dieOfReg row d' i == d)

/-- Reset every field that carries F. -/
def State.resetFunctionRegs (s : State) : State := s.resetRegs [.function] (fun _ _ _ => true)

/-- Reset every field that carries K or a letter that a package reset contains (R456). -/
def State.resetPackageRegs (s : State) : State :=
  s.resetRegs [.package, .function, .die, .port, .core] (fun _ _ _ => true)

/-- Reset every field that carries any reset letter but G (R456: power-on contains every other reset). -/
def State.resetPowerRegs (s : State) : State :=
  s.resetRegs [.power, .package, .function, .die, .port, .core] (fun _ _ _ => true)

/-- Reset every field that carries G (R463). -/
def State.resetRefugeRegs (s : State) : State := s.resetRegs [.refuge] (fun _ _ _ => true)

/-- Keep the entries of a keyed map whose key satisfies p. -/
def kfilter {α : Type} (p : Nat → Bool) (m : KMap α) : KMap α := m.filter (fun e => p e.1)

end Sys2Proof.Machine
end

