-- ==== Sys2Proof/Machine/HostOps.lean ====
section
/-!
DEFINITION. The host link as shared operations (chapter 15): descriptor form, handles, completions, interrupts, binding,
the snoop filter.
-/
namespace Sys2Proof.Machine

open Sys2Proof

def State.ring (s : State) (r : Nat) : RingPair := kget RingPair.zero s.host.rings r
def State.setRing (s : State) (r : Nat) (x : RingPair) : State :=
  (s.setHost fun y => { y with rings := kset RingPair.zero y.rings r x })

/-- Whether the package is bound (R394). -/
def State.bound (s : State) : Bool := s.flag HOST_BLK_STATUS_BOUND 0 0
/-- Whether rings may fetch and completions may be written (R394). -/
def State.attached (s : State) : Bool := s.flag HOST_BLK_STATUS_ATTACHED 0 0

/-- Whether the spill area is full (R411). -/
def State.spillFull (s : State) : Bool := decide (2097152 ≤ s.host.spill.length)

/-! ### Handles (R407, R408) -/

/-- Handles in flight: those of descriptors that a function reset left to run are free (R416). -/
def inFlight (ds : List Desc) : Nat := (ds.filter fun d => !d.discard).length

/-- Descriptors that hold handles, with IN_FLIGHT, HIGH_WATER and HANDLES_FULL (Table 15.11). -/
def State.setDescs (s : State) (ds : List Desc) : State :=
  let n := inFlight ds
  let s1 := (s.setHost fun r => { r with descs := ds })
  ((s1.setF HANDLE_COUNT_IN_FLIGHT 0 0 n).setF HANDLE_COUNT_HIGH_WATER 0 0
    (max (s1.getF HANDLE_COUNT_HIGH_WATER 0 0) n)).setF HOST_BLK_STATUS_HANDLES_FULL 0 0 (b2n (decide (16384 ≤ n)))

/-- Whether a further descriptor may be fetched or read (R408, R411). -/
def State.handleFree (s : State) : Bool := decide (inFlight s.host.descs < 16384) && !s.spillFull

/-- Whether argument a is a value that members may report (R247). -/
def reportable (v : Nat) : Bool :=
  let p := v % 2 ^ 24
  decide (p ≤ 0xEFFFFF) || p == 0xF00000 || p == 0xF80000

/-- Whether a descriptor's pointers and length fit COPY (Table 15.4). -/
def copyOk (cls a0 a1 a2 : Nat) : Bool :=
  a0 % 64 == 0 && a1 % 64 == 0 && (a0 / 2 ^ 62 == 0 || a1 / 2 ^ 62 == 0) && decide (1 ≤ cls ∧ cls ≤ 5) &&
  a2 % 64 == 0 && decide (64 ≤ a2 ∧ a2 ≤ 0x400000000)

/-- Whether a descriptor keeps the rules of R402, R403 and Table 15.4. `b` is its 64 bytes. -/
def descOk (b : List Byte) (d : Desc) : Bool :=
  let at_ (i : Nat) : Nat := (b.getD i 0).toNat
  let zero (i n : Nat) : Bool := ((b.drop i).take n).all (fun x => x == 0)
  decide (d.opcode ≤ 7) && at_ 1 / 8 % 16 == 0 && decide (at_ 2 < 64) && decide (at_ 3 < 8) && decide (at_ 4 < 4) &&
  decide (at_ 5 < 16) && zero 6 2 && zero 0x0D 3 && zero 0x30 16 &&
  (match d.opcode with
   | 0 => d.a0 == 0 && d.a1 == 0 && d.a2 == 0 && d.a3 == 0
   | 1 => d.a3 == 0 && copyOk d.cls d.a0 d.a1 d.a2
   | 2 => decide (d.a0 / 2 ^ 62 ≤ 1) && decide (d.a3 < 32) && decide (d.a3 % 16 ≤ 7) && !(d.a3 % 16 == 7 && d.a3 == 23) &&
       decide (1 ≤ d.cls ∧ d.cls ≤ 5) && d.a0 % (if d.a3 / 16 = 1 then 8 else 4) == 0
   | 3 => d.a0 / 2 ^ 48 == 0 && d.a0 % 2 == 0 && decide (d.a1 < 256) && decide (d.a2 < 4096) && d.a3 == 0
   | 4 => d.mask != 0 && reportable d.a0 && d.a1 == 0 && d.a2 == 0 && d.a3 == 0
   | 5 => d.mask != 0 && decide (d.a0 < 2 ^ 40) && d.a1 == 0 && d.a2 == 0 && d.a3 == 0
   | 6 => decide (d.a0 < 4096) && d.a1 == 0 && d.a2 == 0 && d.a3 == 0
   | _ => d.a0 / 2 ^ 48 == 0 && d.a1 == 0 && d.a2 == 0 && d.a3 == 0)

/-- The descriptor in 64 bytes (Table 15.3). -/
def descOf (b : List Byte) (uid handle ring order : Nat) : Desc :=
  let at_ (i : Nat) : Nat := (b.getD i 0).toNat
  let w (i n : Nat) : Nat := leNat ((b.drop i).take n)
  ⟨uid, handle, ring, order, at_ 0, at_ 1, at_ 2 % 64, at_ 3 % 8, at_ 4 % 4, at_ 5 % 16, w 8 5, w 0x10 8, w 0x18 8, w 0x20 8,
   w 0x28 8, at_ 1 % 2 == 0, false, false⟩

/-! ### Completions (R409 to R412) -/

/-- A completion waits for COMPLETION_POST. -/
def State.postDue (s : State) (c : Completion) : State :=
  (s.setHost fun r => { r with due := r.due ++ [c] })

/-- Dies that do not run, as a mask. -/
def State.absentMask (s : State) : Nat := ((List.range 4).filter fun d => !s.dieRunning d).foldl (fun m d => m + 2 ^ d) 0

/-- A completion of kind 1 or 2 for a ring: with DONE_DEGRADED, DETAIL holds the dies absent (Table 15.6). -/
def State.postKind (s : State) (kind id status result step cq : Nat) : State :=
  s.postDue ⟨0, 0, id, status, kind, 0, !s.bound, result, step, cq, if status = stDEGRADED then s.absentMask else 0, s.fabricNow, false⟩

/-- Free the handle of descriptor number `uid`. -/
def State.freeHandle (s : State) (uid : Nat) : State :=
  s.setDescs (s.host.descs.filter fun d => d.uid != uid)

/-- Whether a descriptor's completion waits to be placed. -/
def State.completed (s : State) (uid : Nat) : Bool := s.host.due.any fun c => c.kind == 0 && c.uid == uid

/-- Descriptor number `uid` completes, once (R403, R408, R409, R416). -/
def State.descDone (s : State) (uid status result detail : Nat) : State :=
  if s.completed uid then s else
  match s.host.descs.find? fun d => d.uid == uid with
  | none => s
  | some d =>
    if d.discard || (status == stDONE && d.flags.testBit 2) then s.freeHandle uid
    else s.postDue ⟨uid, 0, d.handle, status, 0, d.opcode, !s.bound, result, d.step, d.cq, detail, s.fabricNow, d.flags.testBit 1⟩

/-- The 32 bytes of a completion (Table 15.6). -/
def Completion.bytes (c : Completion) (phase : Nat) (spilled : Bool) : List Byte :=
  leBytes 4 c.id ++ leBytes 1 c.status ++ leBytes 1 c.kind ++ leBytes 1 c.opcode ++
  leBytes 1 (phase + 2 * b2n spilled + 4 * b2n c.unbound) ++ leBytes 8 c.result ++ leBytes 5 c.step ++ leBytes 1 c.cq ++
  leBytes 1 c.detail ++ leBytes 1 0 ++ leBytes 8 c.ftime

/-- Send vector v's message, or leave it pending while it is masked (R414). The table's reset value masks each vector. -/
def State.sendMsix (s : State) (v : Nat) : State :=
  if (kget 1 s.host.msix (4 * v + 3)).testBit 0 then
    (s.setHost fun r => { r with pending := kset false r.pending v true })
  else
    s.emit .msix v [kget 0 s.host.msix (4 * v), kget 0 s.host.msix (4 * v + 1), kget 0 s.host.msix (4 * v + 2)] []

/-- A ring's completions so far are signalled. -/
def State.signalRing (s : State) (r : Nat) : State :=
  (s.setRing r { s.ring r with unsignalled := 0 }).sendMsix (s.getF RING_CFG_VECTOR 0 r)

/-- Slots of a completion ring. -/
def State.cqSize (s : State) (r : Nat) : Nat := 2 ^ s.getF RING_CFG_CQ_LOG2 0 r
/-- Slots of a submission ring. -/
def State.sqSize (s : State) (r : Nat) : Nat := 2 ^ s.getF RING_CFG_SQ_LOG2 0 r

/-- Whether a completion may be written to its ring now (R410). -/
def State.cqReady (s : State) (r : Nat) : Bool :=
  s.attached && s.flag RING_CFG_CQ_EN 0 r && s.getF RING_STATE_STATE 0 r != 3 &&
  decide ((s.getF RING_COUNTS_POSTED 0 r + 2 ^ 32 - (s.ring r).cqHead) % 2 ^ 32 < s.cqSize r)

/-- Write a completion to its ring, and signal it as due (R410, R414). -/
def State.writeCompletion (s : State) (c : Completion) (spilled : Bool) : State :=
  let n := s.getF RING_COUNTS_POSTED 0 c.cq
  let size := s.cqSize c.cq
  let phase := 1 - n / size % 2
  let s1 := (s.emit .hostWrite (s.getF CQ_BASE_BASE 0 c.cq * 4096 + n % size * 32) [] (c.bytes phase spilled)).setF
    RING_COUNTS_POSTED 0 c.cq (n + 1)
  let x := s1.ring c.cq
  let s2 := s1.setRing c.cq { x with
    unsignalled := x.unsignalled + 1
    oldest := if x.unsignalled = 0 then s.fabricNow else x.oldest }
  if c.irq || decide (max 1 (s.getF RING_CFG_MOD_COUNT 0 c.cq) ≤ x.unsignalled + 1) then s2.signalRing c.cq else s2

/-- The spill area with its counts (Table 15.11). -/
def State.setSpill (s : State) (l : List Completion) (r : Nat) : State :=
  let s1 := (s.setHost fun r => { r with spill := l })
  (s1.setF SPILL_STATUS_ENTRIES 0 0 l.length).setF RING_STATE_SPILLED 0 r (l.filter fun c => c.cq == r).length

/-- Whether a completion goes to the spill area (R410). -/
def State.mustSpill (s : State) (c : Completion) : Bool :=
  !s.cqReady c.cq || s.host.spill.any fun x => x.cq == c.cq

/-! ### Chains (R405) -/

/-- Start a chain on a ring. -/
def State.startChain (s : State) (addr ring : Nat) : State :=
  (s.setHost fun r => { r with chains := r.chains ++ [⟨addr, ring, 0⟩] })

/-! ### Binding (R394, R395) -/

/-- Take a ring out of use; `both` clears its enables. -/
def State.ringOff (s : State) (r : Nat) : State :=
  ((s.setF RING_CFG_SQ_EN 0 r 0).setF RING_CFG_CQ_EN 0 r 0).setF RING_STATE_STATE 0 r 0

/-- BOUND falls (R393, R395). -/
def State.unbind (s : State) : State :=
  let s1 := (List.range 64).foldl (fun u r => (u.ringOff r).setRing r { u.ring r with sqTail := 0, cqHead := 0, unsignalled := 0 })
    ((s.setF HOST_BLK_STATUS_BOUND 0 0 0).setF HOST_BLK_STATUS_ATTACHED 0 0 0)
  let s2 := s1.setArrivals (s1.arrivals.filter fun w => match w.what with | .hdm h => h.kind == 3 | _ => true)
  (s2.setF SF_STATUS_OCCUPANCY 0 0 0).setHost fun r =>
    { r with snoop := [], victim := none, pending := [], ide := [], cxlIde := none, failedRun := 0 }

/-! ### Snoop filter (R392) -/

/-- Whether a package access to a .. a + n − 1 must wait for a back-invalidation. -/
def State.snooped (s : State) (a n : Nat) (write : Bool) : Bool :=
  s.host.snoop.any fun l =>
    (write || l.2) && (homeSpans a n).any fun p => decide (l.1 * 64 < p.1 + p.2 ∧ p.1 < l.1 * 64 + 64)

/-- Whether an access waits at a Talus controller: for a stack that it touches, for a back-invalidation, or behind an earlier one (Table
6.3, R166, R392). -/
def State.stackHeld (s : State) (a n : Nat) (write : Bool) : Bool :=
  match s.extentReach a n with
  | .unmapped => false
  | .unreachable => false
  | _ => (extentProbes a n).any (fun x => s.reachAt x == .held) || s.snooped a n write || s.behind a n write

/-- The snoop filter's lines, with OCCUPANCY. -/
def State.setSnoop (s : State) (l : List (Nat × Bool)) : State :=
  (s.setF SF_STATUS_OCCUPANCY 0 0 l.length).setHost fun r => { r with snoop := l }

end Sys2Proof.Machine
end

