-- ==== Sys2Proof/Machine/FabricOps.lean ====
section
/-!
DEFINITION. The torus as shared operations (chapter 08): coordinates, trail entries (R228 to R231), membership.
-/
namespace Sys2Proof.Machine

open Sys2Proof

/-- The sizes field of MASSIF_DIMS. -/
def State.dims (s : State) : Nat := (s.reg MASSIF_DIMS 0 0).toNat % 2 ^ 15

/-- Size of dimension dim by a sizes field. -/
def dimIn (dims dim : Nat) : Nat := 1 + bits dims (5 * dim + 4) (5 * dim)

/-- Size of dimension dim of the massif (MASSIF_DIMS). -/
def State.dimSize (s : State) (dim : Nat) : Nat := dimIn s.dims dim

/-- Packages in the torus. -/
def State.torusSize (s : State) : Nat := s.dimSize 0 * s.dimSize 1 * s.dimSize 2

/-- Coordinate of a device identifier along dim in a torus of given sizes (R222). -/
def coordIn (dims dev dim : Nat) : Nat :=
  if dim = 0 then dev % dimIn dims 0
  else if dim = 1 then dev / dimIn dims 0 % dimIn dims 1
  else dev / (dimIn dims 0 * dimIn dims 1)

/-- Coordinate of a device identifier along dim (R222). -/
def State.coordOf (s : State) (dev dim : Nat) : Nat := coordIn s.dims dev dim

/-- Device identifier of coordinates (R222). -/
def State.deviceAt (s : State) (x y z : Nat) : Nat := x + s.dimSize 0 * (y + s.dimSize 1 * z)

/-- Size of dimension dim in the installed generation. -/
def State.tableSize (s : State) (dim : Nat) : Nat := dimIn s.fabric.tableDims dim

/-- Whether a device is admitted in the installed generation; in generation 0 every identifier below X·Y·Z of the sizes it was
computed from (R229). -/
def State.genAdmits (s : State) (dev : Nat) : Bool :=
  if s.fabric.gen = 0 then decide (dev < s.tableSize 0 * s.tableSize 1 * s.tableSize 2) else s.fabric.admitted.contains dev

/-- The link from coordinate a of dimension dim on the ring through pos. -/
def ringLink (pos : List Nat) (dim a : Nat) : TorusLink :=
  let p := pos.set dim a
  ⟨dim, p.getD 0 0, p.getD 1 0, p.getD 2 0⟩

/-- Whether no dead link lies on the n links that follow coordinate a going plus. -/
def State.ringClear (s : State) (pos : List Nat) (dim a n : Nat) : Bool :=
  (List.range n).all fun i => !s.fabric.dead.contains (ringLink pos dim ((a + i) % s.tableSize dim))

/-- The sign (1 plus, 2 minus, 0 none) of one dimension, or none where neither way is clear (R230). -/
def State.trailSign (s : State) (pos : List Nat) (dim b : Nat) : Option Nat :=
  let n := s.tableSize dim
  let a := pos.getD dim 0
  if a = b then some 0
  else
    let up := (b + n - a) % n
    let down := (a + n - b) % n
    let okUp := s.ringClear pos dim a up
    let okDown := s.ringClear pos dim b down
    if okUp && (decide (up ≤ down) || !okDown) then some 1 else if okDown then some 2 else none

/-- The trail entry to a device by the link map alone (R230, Table 8.5): its signs where there is a way. -/
def State.trailWay (s : State) (dst : Nat) : Nat :=
  let at_ (dev dim : Nat) : Nat := coordIn s.fabric.tableDims dev dim
  let src := s.fabric.tableDevice
  let pos := [at_ src 0, at_ src 1, at_ src 2]
  match s.trailSign pos 0 (at_ dst 0) with
  | none => 0
  | some sx =>
    let pos := pos.set 0 (at_ dst 0)
    match s.trailSign pos 1 (at_ dst 1) with
    | none => 0
    | some sy =>
      let pos := pos.set 1 (at_ dst 1)
      match s.trailSign pos 2 (at_ dst 2) with
      | none => 0
      | some sz => sx * 64 + sy * 16 + sz * 4 + 1

/-- The trail entry of the installed generation for a device (R230, Table 8.5). -/
def State.trailNew (s : State) (dst : Nat) : Nat :=
  if dst = s.fabric.tableDevice then 2 else if s.genAdmits dst then s.trailWay dst else 0

/-- The trail entry that die d uses for a device: the old signs while operations sent under them are outstanding (R231),
else the installed generation's; 0 for an identifier of 10,240 or more. -/
def State.trailOf (s : State) (d dst : Nat) : Nat :=
  if 10240 ≤ dst then 0
  else
    let old := kget 0 s.fabric.oldSigns (d * 16384 + dst)
    if old = 0 then s.trailNew dst else old

/-- The package computes generation 0 from MASSIF_DIMS: no dead link, every identifier admitted (R229). -/
def State.firstGen (s : State) : State :=
  s.setFabric fun r => { r with gen := 0, admitted := [], dead := [], tableDims := s.dims, tableDevice := s.device }

/-- The member with a device identifier. -/
def State.memberOf (s : State) (dev : Nat) : Option Member := s.fabric.members.find? fun m => m.device == dev

/-- Whether a device is a member of this package's job (R42, R209). -/
def State.jobPeer (s : State) (dev : Nat) : Bool :=
  s.job != 0 && (match s.memberOf dev with
    | some m => m.job == s.job
    | none => false)

/-- Members of a job. -/
def State.jobMembers (s : State) (job : Nat) : List Member := s.fabric.members.filter fun m => m.job == job

/-- Whether the package holds the summit role. -/
def State.isSummit (s : State) : Bool := s.getF MEMBER_STATE_ROLE 0 0 == 5

/-- Whether the package discards an operation by its step tag and class while it collapses (R340): from the adoption of
COLLAPSE(n) to that of RESUME(n), step n + 1, and DP or EDP operations of step n. -/
def State.collapseDiscards (s : State) (step cls : Nat) : Bool :=
  let st := s.getF CORNICE_STATUS_STATE 0 0
  let n := s.getF CORNICE_STATUS_STEP 0 0
  (st == 4 || st == 5) && (step == n + 1 || (step == n && (cls == 2 || cls == 3)))

end Sys2Proof.Machine
end

