-- ==== Sys2Proof/Machine/PacketOps.lean ====
section
/-!
DEFINITION. Packets on the fabric: the header of Table 7.2, the route word of Table 8.4 with the signs of the trail table (R189,
R190, R225, R228), management packets (R46, Table 8.9).
-/
namespace Sys2Proof

open Sys2Proof.Machine

/-- SRC or DST of a header: a device identifier and a die. -/
def hostOf (dev die : Nat) : Nat := dev % 16384 + 16384 * (die % 4)

/-- The 32 bytes of a header (Table 7.2). -/
def Header.bytes (h : Header) : List Byte :=
  leBytes 1 h.op ++ leBytes 1 (h.cls % 8 + 8 * b2n h.fence + 16 * b2n h.pois + 32 * b2n h.w64 + 64 * b2n h.last) ++ leBytes 2 h.job ++
  leBytes 2 h.src ++ leBytes 2 h.dst ++ leBytes 2 (h.tag % 4096 + 4096 * (h.aop % 16)) ++ leBytes 2 h.epoch ++ leBytes 5 h.step ++
  leBytes 1 h.status ++ leBytes 6 h.address ++ leBytes 4 (h.len64 % 2 ^ 28) ++ leBytes 4 (h.seg64 % 2 ^ 28)

/-- The header of a received packet (Table 7.2). -/
def Packet.head (k : Packet) : Header :=
  let at_ (off n : Nat) : Nat := leNat ((k.header.drop off).take n)
  let f := at_ 1 1
  ⟨at_ 0 1, f % 8, f.testBit 3, f.testBit 4, f.testBit 5, f.testBit 6, at_ 2 2, at_ 4 2, at_ 6 2, at_ 8 2 % 4096, at_ 8 2 / 4096,
   at_ 0x0A 2, at_ 0x0C 5, at_ 0x11 1, at_ 0x12 6, at_ 0x18 4 % 2 ^ 28, at_ 0x1C 4 % 2 ^ 28⟩

/-- The segment that a request packet brings to its target, with the poison marks of its payload's units. -/
def Packet.segment (k : Packet) (marks : List Bool) : Segment :=
  let h := k.head
  ⟨h.cls, h.w64, h.last, h.job, h.src % 16384, h.src / 16384, h.tag, h.aop, h.step, h.address, h.len64, h.seg64, k.payload, marks⟩

/-- The header of a request segment of OP op as the target reads it. -/
def Segment.head (g : Segment) (op dst : Nat) : Header :=
  ⟨op, g.cls, false, g.marks.any id, g.w64, g.last, g.job, hostOf g.srcDev g.srcDie, dst, g.tag, g.aop, 0, g.step, 0, g.address, g.len64,
   g.seg64⟩

/-- The response to a request header (R190): TAG, STEP, SEG64, ADDRESS, LEN64 and CLASS copied, SRC and DST exchanged, AOP and EPOCH 0;
the target's JOB (R46). -/
def Header.reply (h : Header) (data : Bool) (job status : Nat) (pois : Bool) : Header :=
  { h with
    op := if data then 0x42 else 0x41, fence := false, pois := pois, job := job, src := h.dst, dst := h.src, aop := 0, epoch := 0
    status := status }

end Sys2Proof

namespace Sys2Proof.Machine

open Sys2Proof

/-- The route word that die d gives a packet (R225, R228, Table 8.4): the destination's coordinates, the signs of a trail entry. -/
def State.routeWord (s : State) (dst entry : Nat) : Nat :=
  s.coordOf dst 0 * 2 ^ 59 + s.coordOf dst 1 * 2 ^ 54 + s.coordOf dst 2 * 2 ^ 49 + bits entry 7 6 * 2 ^ 47 + bits entry 5 4 * 2 ^ 45 +
  bits entry 3 2 * 2 ^ 43

/-- Places of the poisoned units among the marks of a payload. -/
def poisonedUnits (marks : List Bool) : List Nat := (marks.zipIdx.filter (·.1)).map (·.2)

/-- The packet that die d sends, as an output: the die, the VC (R221: the class in half 0), the places of the poisoned 4-byte units of its
payload (assumption 87), and its bytes on the wire (R217). -/
def State.packetMsg (s : State) (kind : MsgKind) (d : Nat) (h : Header) (payload : List Byte) (marks : List Bool) : Msg :=
  let dst := h.dst % 16384
  ⟨kind, dst, d :: 2 * h.cls :: poisonedUnits marks, leBytes 8 (s.routeWord dst (s.trailOf d dst)) ++ h.bytes ++ payload⟩

/-- Send a packet from die d. -/
def State.sendPacket (s : State) (kind : MsgKind) (d : Nat) (h : Header) (payload : List Byte) (marks : List Bool) : State :=
  s.sends [s.packetMsg kind d h payload marks]

/-! ### Management packets -/

/-- The header of a management packet: class MGMT, the package's job (R46). The body's fields stand beside it; no table gives their bytes
(assumption 88). -/
def State.mgmtHeader (s : State) (op dst : Nat) : Header :=
  ⟨op, 0, false, false, false, true, s.job, s.device, dst, 0, 0, 0, 0, 0, 0, 0, 0⟩

/-- What a management packet sends: nothing where its trail entry is NONE (R228); ADMIT goes by the link map alone, since its destination
is not admitted yet (assumption 88). A broadcast has dst 0x3FFF. -/
def State.mgmtOut (s : State) (op dst : Nat) (fields : List Nat) : List Msg :=
  if dst = 0x3FFF then [⟨.broadcast, op, fields, (s.mgmtHeader op dst).bytes⟩]
  else
    let entry := if op = 0x83 ∧ dst ≠ s.device then s.trailWay dst else s.trailNew dst
    if entry % 4 = 0 then []
    else [⟨.mgmt, dst, op :: fields, leBytes 8 (s.routeWord dst entry) ++ (s.mgmtHeader op dst).bytes⟩]

/-- Send a management packet to one package, or to dst 0x3FFF for a broadcast (Table 8.9 and the tables of later chapters). -/
def State.mgmt (s : State) (op dst : Nat) (fields : List Nat) : State := s.sends (s.mgmtOut op dst fields)

/-! ### Ports and bundles (R223, R227, R237) -/

def State.port (s : State) (p : Nat) : Port := kget Port.zero s.fabric.ports p
def State.setPort (s : State) (p : Nat) (x : Port) : State :=
  (s.setFabric fun r => { r with ports := kset Port.zero r.ports p x })
/-- Whether a port drains or is tested in a self-test, of this package or of its peer (R488). -/
def State.portTested (s : State) (p : Nat) : Bool :=
  (s.getF ST_STATUS_STATE 0 0 == 3 && (s.getF ST_STATUS_TARGET 0 0 == 256 + p || s.getF ST_STATUS_TARGET 0 0 == 512 + p)) ||
  s.selftest.heldPorts.any fun h => h.1 == p

/-- Whether a self-test has taken a port out of its slot, which it takes back once it is UP again (R488, R234). -/
def State.portHeld (s : State) (p : Nat) : Bool := s.portTested p || (s.port p).away

/-- Whether a port holds its slot: UP, or in RETRAIN, where flows wait (R227, R232). -/
def State.portSlot (s : State) (p : Nat) : Bool :=
  (s.portState p == portUP || s.portState p == portRETRAIN) && !s.portHeld p && s.dieRunning (p / 4)

/-- Ports of a direction, in ascending order (R223). -/
def State.bundle (s : State) (dir : Nat) : List Nat := (List.range 16).filter fun p => (s.port p).dir == dir

/-- Whether a bundle has no port that is UP, or may be again without a new training (R235, Table 8.7). -/
def State.bundleDead (s : State) (dir : Nat) : Bool := (s.bundle dir).all fun p => !s.portSlot p

/-- The package's role (Table 8.10). -/
def State.role (s : State) : Nat := s.getF MEMBER_STATE_ROLE 0 0

/-- A member or standby follows the highest TERM that it has seen (R243). -/
def State.noteTerm (s : State) (term : Nat) : State :=
  let s1 := s.setFabric fun r => { r with termSeen := max r.termSeen term }
  if (s.role = 3 ∨ s.role = 4) ∧ s.getF MEMBER_STATE_TERM 0 0 < term then s1.setF MEMBER_STATE_TERM 0 0 term else s1

/-- Report a port and its bundle to the summit (R237). -/
def State.linkReport (s : State) (p : Nat) : State :=
  if s.role < 3 then s
  else s.mgmt 0x87 (s.getF SUMMIT_INFO_SUMMIT_ID 0 0) [s.device, p, (s.port p).dir, b2n (s.bundleDead (s.port p).dir)]

/-- Report port p's bundle where it has become dead, or has come back, since it was as `dead` says (R237). -/
def State.linkTell (s : State) (p : Nat) (dead : Bool) : State :=
  if s.bundleDead (s.port p).dir = dead then s else s.linkReport p

end Sys2Proof.Machine
end

