-- ==== Sys2Proof/Machine/PathOps.lean ====
section
/-!
DEFINITION. Paths between Crest dies (R30, R31, R425) and the Saddle links they use (R417).
-/
namespace Sys2Proof.Machine

open Sys2Proof

/-- The die that follows d in ring order C0, C1, C3, C2 (R30). -/
def ringNext (d : Nat) : Nat := [1, 3, 0, 2].getD d 0
/-- The die before d in ring order. -/
def ringPrev (d : Nat) : Nat := [2, 0, 3, 1].getD d 0

/-- The Saddle link between two adjacent dies (Table 16.1). -/
def linkOf (a b : Nat) : Nat :=
  match min a b, max a b with
  | 0, 1 => 0
  | 1, 3 => 1
  | 2, 3 => 2
  | _, _ => 3

/-- The dies at ends A and B of a link (Table 16.1). -/
def linkEnds (l : Nat) : Nat × Nat := [(0, 1), (1, 3), (3, 2), (2, 0)].getD l (0, 0)

def State.saddle (s : State) (k : Nat) : SaddleEnd := kget SaddleEnd.zero s.saddles k
def State.setSaddle (s : State) (k : Nat) (x : SaddleEnd) : State := { s with saddles := kset SaddleEnd.zero s.saddles k x }

/-- Whether a link carries traffic or will once its training ends: not DOWN and not FENCED. -/
def State.linkLive (s : State) (l : Nat) : Bool := decide (s.getF SADDLE_STATUS_STATE 0 l < 2)

/-- The ways from die a to die b in order of preference: the dies visited, b last (R30, R425). -/
def ways (a b : Nat) : List (List Nat) :=
  if ringNext a = b then [[b], [ringPrev a, ringPrev (ringPrev a), b]]
  else if ringPrev a = b then [[b], [ringNext a, ringNext (ringNext a), b]]
  else [[ringNext a, b], [ringPrev a, b]]

/-- Whether every die between is RUNNING and every link live on a way from a. -/
def State.wayClear (s : State) : Nat → List Nat → Bool
  | _, [] => true
  | a, b :: rest => s.linkLive (linkOf a b) && (rest.isEmpty || s.dieRunning b) && State.wayClear s b rest

/-- The way that traffic from a to b takes now; the normal one where none is clear. -/
def State.wayNow (s : State) (a b : Nat) : List Nat :=
  ((ways a b).find? fun w => s.wayClear a w).getD ((ways a b).getD 0 [])

def State.pairPath (s : State) (a b : Nat) : PairPath := kget PairPath.zero s.paths (a * 4 + b)

/-- The path in use from a to b: the one kept, or the normal one (R30). -/
def State.pathInUse (s : State) (a b : Nat) : List Nat :=
  let p := (s.pairPath a b).path
  if p.isEmpty then (ways a b).getD 0 [] else p

/-- Every pair whose way changed moves to the new one; its later requests wait (R31, R425). -/
def State.repath (s : State) : State :=
  (List.range 16).foldl (fun u k =>
    let a := k / 4
    let b := k % 4
    if a = b ∨ !u.dieRunning a ∨ !u.dieRunning b then u
    else
      let w := u.wayNow a b
      if w = u.pathInUse a b then u
      else { u with paths := kset PairPath.zero u.paths k ⟨if some w = (ways a b)[0]? then [] else w, true⟩ }) s

/-- Whether a link on a way from die a is in training: its senders hold their flits (R420, R422). -/
def State.wayTrains (s : State) : Nat → List Nat → Bool
  | _, [] => false
  | a, b :: rest => s.getF SADDLE_STATUS_STATE 0 (linkOf a b) == 1 || State.wayTrains s b rest

/-- Whether requests from die a to a package address wait: for a path change (R31), or for a link in training (R422). -/
def State.pairWaits (s : State) (a addr : Nat) : Bool :=
  let b := (place addr).die
  decide (place addr ≠ .unmapped) && b != a && ((s.pairPath a b).waiting || s.wayTrains a (s.pathInUse a b))

end Sys2Proof.Machine
end

