-- ==== Sys2Proof/Machine/QueueOps.lean ====
section
/-!
DEFINITION. Couloir queues as shared operations (R360 to R370): ring space, the described packet, reading a word, discards.
-/
namespace Sys2Proof.Machine

open Sys2Proof

def State.queue (s : State) (d q : Nat) : Queue := kget Queue.zero s.queues (d * 64 + q)
def State.setQueue (s : State) (d q : Nat) (x : Queue) : State :=
  { s with queues := kset Queue.zero s.queues (d * 64 + q) x }

def State.reserveList (s : State) (d : Nat) : List QReserve := kget [] s.reserves d
def State.setReserveList (s : State) (d : Nat) (l : List QReserve) : State :=
  { s with reserves := kset [] s.reserves d l }

/-- Words of a queue's ring (R360). -/
def State.ringWords (s : State) (d q : Nat) : Nat := s.getF Q_SIZE_SIZE d q * 64

/-- The place of word i in a list of runs. -/
def runPlace : List (Nat × Nat) → Nat → Nat
  | [], _ => 0
  | (a, n) :: rs, i => if i < n then a + i else runPlace rs (i - n)

/-- The runs without their first n words. -/
def runDrop : List (Nat × Nat) → Nat → List (Nat × Nat)
  | [], _ => []
  | (a, n) :: rs, k => if n ≤ k then runDrop rs (k - n) else (a + k, n - k) :: rs

/-- Places for `need` words in a ring of `size` words, from `cur` on, past the runs in use. -/
def runAlloc (size : Nat) (used : List (Nat × Nat)) : Nat → Nat → Nat → List (Nat × Nat)
  | 0, _, _ => []
  | fuel + 1, cur, need =>
    let cur := if size ≤ cur then 0 else cur
    if need = 0 then []
    else
      match used.find? fun r => decide (r.1 ≤ cur ∧ cur < r.1 + r.2) with
      | some r => runAlloc size used fuel (r.1 + r.2) need
      | none =>
        let stop := (used.filter fun r => decide (cur < r.1)).foldl (fun m r => min m r.1) size
        let k := min need (stop - cur)
        (cur, k) :: runAlloc size used fuel (cur + k) (need - k)

/-- Address of word i of a packet in the ring. -/
def State.ringAddr (s : State) (d q : Nat) (p : QPacket) (i : Nat) : Nat :=
  s.getF Q_CFG_BASE d q * 4096 + runPlace p.runs i * 64

/-- Words reserved or not yet read (R362, R370). -/
def Queue.occupied (x : Queue) : Nat := (x.packets.map fun p => p.words - p.read).foldl (· + ·) 0

/-- Visible packets, oldest first. -/
def Queue.visible (x : Queue) : List QPacket := x.packets.filter fun p => decide (p.phase = .visible)

/-- Visible unread words. -/
def Queue.unread (x : Queue) : Nat := (x.visible.map fun p => p.words - p.read).foldl (· + ·) 0

/-- Largest occupancy kept in Q_HIGH_WATER (R370). -/
def State.noteOccupied (s : State) (d q : Nat) : State :=
  s.setF Q_HIGH_WATER_HIGH_WATER d q (max (s.getF Q_HIGH_WATER_HIGH_WATER d q) (s.queue d q).occupied)

/-- Replace the oldest packet after a read: gone once all its words are read (R365, R367). -/
def Queue.advance (x : Queue) (p : QPacket) (last : List Byte) : Queue :=
  if p.words ≤ p.read + 1 then { x with packets := x.packets.drop 1, last := last, opened := false }
  else { x with packets := { p with read := p.read + 1 } :: x.packets.drop 1, last := last, opened := true }

/-- One word read through the read window (R365, R366): its bytes and poison marks. -/
def State.readQueueWord (s : State) (d q : Nat) : State × List Byte × List Bool :=
  let x := s.queue d q
  match x.visible with
  | p :: _ =>
    let a := s.ringAddr d q p p.read
    let r := s.localRead d 110 a 64
    (r.1.setQueue d q (x.advance p r.2.1), r.2)
  | [] =>
    let s1 := (s.setF Q_STATUS_UNDERRUN d q 1).satF Q_REWINDS_UNDERRUNS d q 1
    (s1, if x.last.isEmpty then List.replicate 64 0 else x.last, List.replicate 16 false)

/-- n words read in order. -/
def State.readQueueWords (s : State) (d q : Nat) : Nat → State × List Byte × List Bool
  | 0 => (s, [], [])
  | n + 1 =>
    let r := State.readQueueWords s d q n
    let w := r.1.readQueueWord d q
    (w.1, r.2.1 ++ w.2.1, r.2.2 ++ w.2.2)

/-- Whether a .. a + n − 1 lies in the read window of one queue port (Table 13.3), and which. -/
def readWindow (a n : Nat) : Option (Nat × Nat) :=
  match place a with
  | .queuePort d q off => if 0x80000 ≤ off ∧ off + n ≤ 0xF0000 then some (d, q) else none
  | _ => none

/-- Whether a place is any part of a queue port. -/
def isPort (a : Nat) : Bool :=
  match place a with
  | .queuePort _ _ _ => true
  | _ => false

end Sys2Proof.Machine
end

