-- ==== Sys2Proof/Machine/Operands.lean ====
section
/-!
DEFINITION. The operand forms of tile instructions (chapter 02): word fields, panels and row-major tiles in memory,
accumulator words, and the tile queue faults of Table 2.22.
-/
namespace Sys2Proof.Machine

open Sys2Proof

/-- The field [hi:lo] of a tile instruction word. -/
def TqEntry.f (e : TqEntry) (hi lo : Nat) : Nat := bits e.word.toNat hi lo

/-- The captured value of TA register n (R59). -/
def TqEntry.taOf (e : TqEntry) (n : Nat) : Word := e.ta.getD n 0

/-- Opcode of a word (Table 2.6). -/
def TqEntry.opc (e : TqEntry) : Nat := e.f 63 58

/-! ### Panels (R50) -/

/-- K rounded up to a multiple of 32. -/
def padK (k : Nat) : Nat := (k + 31) / 32 * 32

/-- Bytes of one panel of depth k in a format: elements, then MX scales. -/
def panelSize (fmt k : Nat) : Nat := padK k * codeWidth fmt + (if codeMx fmt then padK k / 32 * 8 else 0)

/-- Bytes of an operand of n rows or columns and depth k; a pair holds two arrays. -/
def operandSize (fmt n k : Nat) : Nat := (n + 7) / 8 * panelSize fmt k * (if codePair fmt then 2 else 1)

/-- The e-bit element at a bit offset from an address. -/
def State.elem (s : State) (a bitOff e : Nat) : Nat :=
  (s.readN (a + bitOff / 8) ((bitOff % 8 + e + 7) / 8) >>> (bitOff % 8)) % 2 ^ e

/-- Whether an element's bytes are poisoned. -/
def State.elemPoison (s : State) (a bitOff e : Nat) : Bool :=
  s.poisoned (a + bitOff / 8) ((bitOff % 8 + e + 7) / 8)

/-- Element (r, k) of a panel operand at `base`: row or column n, depth position k; decoded with its block scale, and
whether it is poisoned (R50, R88, R90). -/
def State.panelElem (s : State) (fmt base depth n k : Nat) : Num × Bool :=
  let p := base + n / 8 * panelSize fmt depth
  let e := codeWidth fmt
  let off := (k * 8 + n % 8) * e
  let x := codeDecode fmt (s.elem p off e)
  let pz := s.elemPoison p off e
  if codeMx fmt then
    let sa := p + padK depth * e + k / 32 * 8 + n % 8
    (applyScale (s.readN sa 1) x, pz || s.poisoned sa 1)
  else (x, pz)

/-! ### Accumulator words (R68, R113) -/

/-- Address of element (i, j) of a tile of n columns at block `acc`. -/
def accAddr (d g acc n i j : Nat) : Nat :=
  accBase d g + (acc + i / 8 * ((n + 7) / 8) + j / 8) * 256 + (i % 8 * 8 + j % 8) * 4

/-- Blocks of a plain tile. -/
def tileBlocks (m n : Nat) : Nat := (m + 7) / 8 * ((n + 7) / 8)

/-- An accumulator element: its word and its error word (0 in a plain tile), each with its poison mark (R114). -/
structure AccEl where
  v : Nat
  err : Nat
  pois : Bool
  epois : Bool
  deriving DecidableEq, Repr

/-- Read element (i, j) of a tile of m × n at block acc; `comp` reads the error word too. -/
def State.accRead (s : State) (d g acc m n i j : Nat) (comp : Bool) : AccEl :=
  let a := accAddr d g acc n i j
  let b := accAddr d g (acc + tileBlocks m n) n i j
  ⟨s.readN a 4, if comp then s.readN b 4 else 0, s.poisonAt a, comp && s.poisonAt b⟩

/-- Write element (i, j) of a tile. -/
def State.accWrite (s : State) (d g acc m n i j : Nat) (comp : Bool) (x : AccEl) : State :=
  let put (s : State) (a v : Nat) (p : Bool) : State := (s.storeBytes a (leBytes 4 v)).setPoison a 4 p
  let s1 := put s (accAddr d g acc n i j) x.v x.pois
  if comp then put s1 (accAddr d g (acc + tileBlocks m n) n i j) x.err x.epois else s1

/-- The (i, j) of a tile, rows outermost. -/
def tileIdx (m n : Nat) : List (Nat × Nat) :=
  (List.range m).flatMap fun i => (List.range n).map fun j => (i, j)

/-! ### Regions -/

/-- Whether a .. a + n − 1 lies wholly in base .. base + size − 1. -/
def within (base size a n : Nat) : Bool := decide (base ≤ a ∧ a + n ≤ base + size)

/-- Own core scratch. -/
def inScratch (d g a n : Nat) : Bool := within (coreBase d g) 0x200000 a n
/-- Own ledge. -/
def inLedge (d g a n : Nat) : Bool := within (ledgeBase d g) 0x20000 a n
/-- Own cluster scratch. -/
def inCluster (d g a n : Nat) : Bool := within (clusterBase d (g / 12)) 0x1000000 a n

/-! ### Tile queue faults (Table 2.22) -/

/-- A code where a condition holds. -/
def faultIf (c : Bool) (code : Nat) : List Nat := if c then [code] else []

/-- Faults common to the MMA-family formats: integer accumulator, SAT and COMP (R67, R94, R113). -/
def mmaModeFaults (fa fb : Nat) (comp sat : Bool) : List Nat :=
  let int := codeInt fa && codeInt fb
  faultIf (comp && int) 3 ++ faultIf (sat && !int) 7

/-- Whether the accumulator of a format pair is INT32 (R49). -/
def intAcc (fa fb : Nat) : Bool := codeInt fa && codeInt fb

/-- Faults of an MMA or MMA_PAIR3 word. -/
def mmaFaults (d g : Nat) (e : TqEntry) : List Nat :=
  let pair := e.opc == 0x0A
  let m := e.f 57 50 + 1
  let n := e.f 49 42 + 1
  let k := e.f 41 30
  let fa := e.f 29 26
  let fb := e.f 25 22
  let acc := e.f 21 12
  let comp := e.f 10 10 == 1
  let a := (e.taOf (e.f 8 5)).toNat
  let b := (e.taOf (e.f 4 1)).toNat
  let sa := operandSize fa m k
  let sb := operandSize fb n k
  faultIf (pair && e.f 0 0 == 1) 2 ++
  faultIf (if pair then !(codePair fa && codePair fb) else decide (12 < fa ∨ 12 < fb)) 3 ++
  mmaModeFaults fa fb comp (e.f 9 9 == 1) ++
  faultIf (decide (1024 < acc + tileBlocks m n * (if comp then 2 else 1))) 4 ++
  faultIf (!(inScratch d g a sa || inLedge d g a sa) || !inLedge d g b sb) 5 ++
  faultIf (a % 128 != 0 || b % 128 != 0) 6

/-- Faults of an MMA_CONV word. -/
def convFaults (d g : Nat) (e : TqEntry) : List Nat :=
  let rows := e.f 57 56 + 1
  let kh := e.f 55 53 + 1
  let n := e.f 52 45 + 1
  let kr := e.f 44 34
  let fa := e.f 33 30
  let fb := e.f 29 26
  let acc := e.f 25 16
  let comp := e.f 14 14 == 1
  let a := (e.taOf (e.f 12 9)).toNat
  let b := (e.taOf (e.f 8 5)).toNat
  faultIf (e.f 4 0 != 0) 2 ++
  faultIf (decide (12 < fa ∨ 12 < fb)) 3 ++
  mmaModeFaults fa fb comp (e.f 13 13 == 1) ++
  faultIf (decide (1024 < acc + tileBlocks (8 * rows) n * (if comp then 2 else 1))) 4 ++
  faultIf (!inLedge d g a ((rows + kh - 1) * panelSize fa kr) || !inLedge d g b (kh * operandSize fb n kr)) 5 ++
  faultIf (a % 128 != 0 || b % 128 != 0) 6

/-- Whether a format, layout, COMP and CPAIR combination is forbidden (R70, R125). -/
def accFormBad (fmt layout : Nat) (comp cpair : Bool) : Bool :=
  (codeMx fmt && layout == 0) || layout == 3 || (cpair && !comp) ||
  (cpair && fmt != 0 && fmt != 15) || (comp && codeInt fmt) || (comp && fmt == 15 && !cpair)

/-- Bytes of a tile of m × n in memory: one array, and the whole with its second array (R70, R125). -/
def tileArray (fmt layout m n stride : Nat) : Nat :=
  if layout = 0 then (m - 1) * (stride * 16) + (n * codeWidth fmt + 7) / 8
  else if layout = 1 then (m + 7) / 8 * panelSize fmt n
  else (n + 7) / 8 * panelSize fmt m

/-- Offset of the lo array or error array from the base (R70, R125). -/
def tileSecond (fmt layout m n stride : Nat) : Nat :=
  if layout = 0 then m * (stride * 16) else tileArray fmt layout m n stride

/-- Bytes from the base to the end of everything the form reads or writes. -/
def tileExtent (fmt layout m n stride : Nat) (two : Bool) : Nat :=
  if two then tileSecond fmt layout m n stride + tileArray fmt layout m n stride
  else tileArray fmt layout m n stride

/-- Alignment of the base: 128 bytes for panels, else the element's bytes (R70). -/
def tileAlign (fmt layout : Nat) : Nat := if layout = 0 then max 1 (codeWidth fmt / 8) else 128

/-- Faults of an ACC_RD or ACC_WR word. -/
def accFaults (d g : Nat) (e : TqEntry) : List Nat :=
  let wr := e.opc == 0x11
  let acc := e.f 57 48
  let m := e.f 47 40 + 1
  let n := e.f 39 32 + 1
  let fmt := e.f 31 28
  let layout := e.f 27 26
  let comp := if wr then e.f 25 25 == 1 else e.f 22 22 == 1
  let cpair := if wr then e.f 24 24 == 1 else e.f 23 23 == 1
  let a := (e.taOf (e.f 20 17)).toNat
  let len := tileExtent fmt layout m n (e.f 16 5) (codePair fmt || cpair)
  faultIf (e.f 4 0 != 0 || (wr && e.f 23 21 != 0)) 2 ++
  faultIf (accFormBad fmt layout comp cpair) 3 ++
  faultIf (decide (1024 < acc + tileBlocks m n * (if comp then 2 else 1))) 4 ++
  faultIf (!(inScratch d g a len || inLedge d g a len || inCluster d g a len)) 5 ++
  faultIf (a % tileAlign fmt layout != 0) 6

/-- Whether block ranges of one length overlap without being equal (R71). -/
def overlapBad (x y len : Nat) : Bool := decide (x ≠ y ∧ x < y + len ∧ y < x + len)

/-- Faults of a TILE_ADD word. -/
def tileAddFaults (e : TqEntry) : List Nat :=
  let dd := e.f 57 48
  let x := e.f 47 38
  let y := e.f 37 28
  let comp := e.f 11 11 == 1
  let int := e.f 10 10 == 1
  let len := tileBlocks (e.f 27 20 + 1) (e.f 19 12 + 1) * (if comp then 2 else 1)
  faultIf (e.f 8 0 != 0) 2 ++
  faultIf (comp && int) 3 ++
  faultIf (decide (1024 < dd + len ∨ 1024 < x + len ∨ 1024 < y + len) || overlapBad dd x len ||
    overlapBad dd y len) 4 ++
  faultIf (e.f 9 9 == 1 && !int) 7

/-- Faults of LD_TILE and ST_TILE words. -/
def rowFaults (d g : Nat) (e : TqEntry) : List Nat :=
  let src := e.taOf (e.f 52 49)
  let dst := e.taOf (e.f 48 45)
  let n := (e.f 44 33 + 1) * ((e.f 32 21 + 1) * 16)
  faultIf (e.f 0 0 != 0) 2 ++
  faultIf (if e.opc = 1 then !(inScratch d g dst.toNat n || inLedge d g dst.toNat n)
    else !inScratch d g src.toNat n) 5 ++
  faultIf (src.toNat % 16 != 0 || dst.toNat % 16 != 0) 6 ++
  faultIf (!(ptrLocal src && ptrLocal dst)) 8

/-- The rows of a PERMUTE word: the source row of row i, none where its index is 0xFFFF; and whether the index entry is
poisoned (R73). -/
def State.permuteRows (s : State) (e : TqEntry) : List (Option Nat × Bool × Nat × Nat) :=
  let src := (e.taOf (e.f 52 49)).toNat
  let dst := (e.taOf (e.f 48 45)).toNat
  let idx := (e.taOf (e.f 44 41)).toNat
  let rowb := (e.f 28 17 + 1) * 16
  (List.range (e.f 40 29 + 1)).map fun i =>
    let x := s.readN (idx + 2 * i) 2
    (if x = 0xFFFF then none else some (src + x * rowb), s.poisoned (idx + 2 * i) 2, dst + i * rowb, rowb)

/-- Whether the destination of a PERMUTE word overlaps a source row that its index vector names (R73). -/
def State.permuteOverlap (s : State) (e : TqEntry) : Bool :=
  let dst := (e.taOf (e.f 48 45)).toNat
  let rowb := (e.f 28 17 + 1) * 16
  let size := (e.f 40 29 + 1) * rowb
  (s.permuteRows e).any fun r =>
    match r.2.1, r.1 with
    | false, some a => decide (a < dst + size ∧ dst < a + rowb)
    | _, _ => false

/-- Faults of a PERMUTE word; a destination that overlaps its source breaks R73 and takes the code of a destination that the word does not
permit (assumption 92). -/
def State.permuteFaults (s : State) (d g : Nat) (e : TqEntry) : List Nat :=
  let src := e.taOf (e.f 52 49)
  let dst := e.taOf (e.f 48 45)
  let idx := (e.taOf (e.f 44 41)).toNat
  faultIf (e.f 16 0 != 0) 2 ++
  faultIf (!inScratch d g idx ((e.f 40 29 + 1) * 2) || s.permuteOverlap e) 5 ++
  faultIf (!(ptrLocal src && ptrLocal dst)) 8

/-- Faults of a MOVE word. -/
def moveFaults (e : TqEntry) : List Nat :=
  let src := e.taOf (e.f 52 49)
  let dst := e.taOf (e.f 48 45)
  faultIf (e.f 16 0 != 0) 2 ++
  faultIf (src.toNat % 64 != 0 || dst.toNat % 64 != 0) 6 ++
  faultIf (!(ptrLocal src && ptrLocal dst)) 8

/-- Whether a class code is not permitted from a tile queue (Table 2.18). -/
def classBad (c : Nat) : Bool := decide (c = 0 ∨ 5 < c)

/-- Faults of PUT and GET words. -/
def putFaults (e : TqEntry) : List Nat :=
  let l := e.taOf (e.f 52 49)
  let p := e.taOf (e.f 48 45)
  faultIf (e.f 12 0 != 0) 2 ++
  faultIf (l.toNat % 64 != 0 || p.toNat % 64 != 0) 6 ++
  faultIf (!ptrLocal l) 8 ++
  faultIf (classBad (e.f 44 42)) 10

/-- Faults of an ATOMIC word. -/
def atomicFaults (d g : Nat) (e : TqEntry) : List Nat :=
  let p := (e.taOf (e.f 52 49)).toNat
  let v := (e.taOf (e.f 48 45)).toNat
  let aop := e.f 41 38
  let w64 := e.f 37 37 == 1
  let fetch := aop == 1 || aop == 2
  let t := (e.taOf (e.f 36 33)).toNat
  faultIf (e.f 31 0 != 0) 2 ++
  faultIf (!inScratch d g v (if aop = 2 then 16 else 8) || (fetch && !inScratch d g t 8)) 5 ++
  faultIf (p % (if w64 then 8 else 4) != 0) 6 ++
  faultIf (classBad (e.f 44 42) || decide (7 < aop) || (aop == 7 && w64)) 10

/-- Every rule of Table 2.22 that a word breaks. -/
def State.tqFaults (s : State) (d g : Nat) (e : TqEntry) : List Nat :=
  match e.opc with
  | 0x01 => rowFaults d g e
  | 0x02 => rowFaults d g e
  | 0x08 => mmaFaults d g e
  | 0x0A => mmaFaults d g e
  | 0x09 => convFaults d g e
  | 0x10 => accFaults d g e
  | 0x11 => accFaults d g e
  | 0x12 => tileAddFaults e
  | 0x18 => faultIf (e.f 11 0 != 0) 2
  | 0x19 => s.permuteFaults d g e
  | 0x20 => moveFaults e
  | 0x21 => putFaults e
  | 0x22 => putFaults e
  | 0x23 => atomicFaults d g e
  | 0x30 => faultIf (e.f 35 0 != 0) 2 ++
      faultIf (e.f 57 56 != 0 && (e.f 55 52 != 0 || e.f 51 36 != 0)) 9
  | 0x31 => faultIf (e.f 32 0 != 0) 2 ++ faultIf (decide (12 ≤ e.f 53 50)) 9
  | _ => [1]

/-- The fault a word takes: the lowest code among the rules it breaks (R83). -/
def State.tqFault (s : State) (d g : Nat) (e : TqEntry) : Option Nat :=
  match s.tqFaults d g e with
  | [] => none
  | c :: cs => some (cs.foldl min c)

end Sys2Proof.Machine
end

