-- ==== Sys2Proof/Machine/Flags.lean ====
section
/-!
DEFINITION. The computations that set numeric flags in the cubes and the accumulator pipe (chapter 04): products, the
summation tree (R116), accumulator additions (R119, R122), and the conversions of ACC_RD and ACC_WR. Every result comes
with its flags.
-/
namespace Sys2Proof.Machine

open Sys2Proof

/-- One level of the tree: adjacent pairs, a pad (none) passing its partner through. -/
def treeLevel (add : Nat → Nat → Nat × Nat) : List (Option Nat) → List (Option Nat) × Nat
  | [] => ([], 0)
  | [x] => ([x], 0)
  | x :: y :: rest =>
    let r := treeLevel add rest
    match x, y with
    | some a, some b => let c := add a b; (some c.1 :: r.1, c.2 ||| r.2)
    | some a, none => (some a :: r.1, r.2)
    | none, b => (b :: r.1, r.2)

/-- The summation tree of R116 over a list whose length is 2^levels; none where every input is pad. -/
def treeSum (add : Nat → Nat → Nat × Nat) : Nat → List (Option Nat) → Option Nat × Nat
  | 0, xs => ((xs.head?).join, 0)
  | n + 1, xs =>
    let l := treeLevel add xs
    let r := treeSum add n l.1
    (r.1, l.2 ||| r.2)

/-- One slice's products with their flags and poison; pads are none. -/
structure Slice where
  products : List (Option Nat)
  flags : Nat
  pois : Bool
  deriving DecidableEq, Repr

/-- A floating product rounded once to FP32 (R92), or an INT32 product (R94). -/
def product (int : Bool) (a b : Num) : Nat × Nat :=
  if int then
    match a, b with
    | .fin na ma _, .fin nb mb _ => (unsigned 32 ((if na != nb then -1 else 1) * ((ma * mb : Nat) : Int)), 0)
    | _, _ => (0, 0)
  else fp32.finish (numMul a b)

/-- The tree's adder: FP32 with one rounding, or INT32 (R116, R117). -/
def treeAdd (int : Bool) (a b : Nat) : Nat × Nat := if int then addInt32 false a b else fp32.add a b

/-- One slice of width w from base, over depth k: product position j pairs fa (base + j) with fb (base + j). -/
def mkSlice (int : Bool) (w k base : Nat) (fa fb : Nat → Num × Bool) : Slice :=
  (List.range w).foldr (fun j acc =>
    if base + j < k then
      let a := fa (base + j)
      let b := fb (base + j)
      let p := product int a.1 b.1
      ⟨some p.1 :: acc.products, acc.flags ||| p.2, acc.pois || a.2 || b.2⟩
    else ⟨none :: acc.products, acc.flags, acc.pois⟩) ⟨[], 0, false⟩

/-- The compensated add of R122 of x, poisoned or not; the error path sets no flag. A word that a poisoned one enters is poisoned (R114). -/
def addComp (x : Nat) (pois : Bool) (el : AccEl) : AccEl × Nat :=
  let t := fp32.add el.v x
  match fp32.decode t.1 with
  | .fin nt mt et =>
    let e := (numAdd (numAdd (fp32.decode el.v) (fp32.decode x)).1 (numNeg (.fin nt mt et))).1
    let er := fp32.encodeNe (numAdd (fp32.decode el.err) e).1
    (⟨t.1, er, el.pois || pois, el.epois || el.pois || pois⟩, t.2)
  | _ => (⟨t.1, el.err, el.pois || pois, el.epois⟩, t.2)

/-- How an instruction adds into its accumulator (Table 4.3). -/
structure AccMode where
  int : Bool
  sat : Bool
  comp : Bool
  deriving DecidableEq, Repr

/-- One accumulator addition of tree output x (Table 4.3); `first` is the overwrite rule's first pass. -/
def accAdd (md : AccMode) (first : Bool) (x : Nat) (pois : Bool) (el : AccEl) : AccEl × Nat :=
  if first then (⟨x, 0, pois, false⟩, 0)
  else if md.int then
    let r := addInt32 md.sat el.v x
    (⟨r.1, el.err, el.pois || pois, el.epois⟩, r.2)
  else if md.comp then addComp x pois el
  else
    let r := fp32.add el.v x
    (⟨r.1, el.err, el.pois || pois, el.epois⟩, r.2)

/-- All passes of one element in order (R119): slices fold into the element, the first overwriting where accum is 0. -/
def accPasses (md : AccMode) (levels : Nat) : Bool → List Slice → AccEl → AccEl × Nat
  | _, [], el => (el, 0)
  | first, p :: ps, el =>
    let t := treeSum (treeAdd md.int) levels p.products
    let a := accAdd md first (t.1.getD 0) p.pois el
    let r := accPasses md levels false ps a.1
    (r.1, p.flags ||| t.2 ||| a.2 ||| r.2)

/-- The slice bases of a depth k at width w. -/
def sliceBases (k w : Nat) : List Nat := (List.range ((k + w - 1) / w)).map (· * w)

/-! ### Reading a tile out (R96 to R98, R124) -/

/-- The decoded value of an FP32 element for reading out: the word, or the exact sum acc + err of a compensated element,
where a special acc stands alone and else a special err stands alone (R124). A sum of −0 and +0 reads out as +0 (Table 3.3, assumption 93). -/
def accValue (comp : Bool) (el : AccEl) : Num :=
  let a := fp32.decode el.v
  if comp then
    let e := fp32.decode el.err
    if !a.isFin then a else if !e.isFin then e else (numAdd a e).1
  else a

/-- The code of an element in a destination that is neither MX nor a pair (Table 2.9, Table 3.4). An FP32 destination rounds to nearest-even
also where SR = 1 (R99, assumption 93). -/
def readOut (fmt : Nat) (comp sat : Bool) (mode : RoundMode) (el : AccEl) : Nat × Nat :=
  if fmt = 15 then (el.v, 0)
  else if fmt = 11 then narrowInt 8 sat (signed 32 el.v)
  else if fmt = 12 then narrowInt 4 sat (signed 32 el.v)
  else if fmt = 0 then (if comp then fp32.convert .ne (accValue true el) else (el.v, 0))
  else (codeFmt fmt).convert mode (accValue comp el)

/-- The accumulator word that a source element loads (Table 2.10), with its flags. -/
def loadIn (fmt : Nat) (raw : Nat) (x : Num) : Nat × Nat :=
  if fmt = 0 ∨ fmt = 15 then (raw, 0)
  else if fmt = 11 then (unsigned 32 (signed 8 raw), 0)
  else if fmt = 12 then (unsigned 32 (signed 4 raw), 0)
  else fp32.convert .ne x

end Sys2Proof.Machine
end

