-- ==== Sys2Proof/Machine/AccOps.lean ====
section
/-!
DEFINITION. The accumulator pipe as shared operations (chapters 02 to 04): what each of its instructions does to a tile, the ECC
errors that reads meet, and how instructions stand in the pipe (R62, R63, R76 to R80).
-/
namespace Sys2Proof.Machine

open Sys2Proof

/-- Clusters in service on each die under the current profile (Table 17.5). -/
def State.inService (s : State) : Nat := 8 - 2 * min 2 (s.getF PROFILE_STATE_CURRENT 0 0)

/-- Whether core g of die d may do anything now: its die runs, the package is awake, its cluster is in service and past the
20 µs after its return (R430, R448, R458). -/
def State.coreLive (s : State) (d g : Nat) : Bool :=
  s.dieRunning d && s.awake && decide (g / 12 < s.inService) && kget 0 s.power.waits (d * 8 + g / 12) == 0

/-- Whether the pipes of core g of die d may go on: as coreLive, but also while the package enters a low-power state and
waits for them (R458, R461). -/
def State.pipeLive (s : State) (d g : Nat) : Bool :=
  let st := s.getF STATE_STATUS_STATE 0 0
  s.dieRunning d && (st == 0 || st == 1 || st == 4) && decide (g / 12 < s.inService) &&
  kget 0 s.power.waits (d * 8 + g / 12) == 0

/-- Core g of die d. -/
def State.coreOf (s : State) (d g : Nat) : Core := s.core (globalCore d g)

/-- Change core g of die d. -/
def State.updCore (s : State) (d g : Nat) (f : Core → Core) : State :=
  s.setCore (globalCore d g) (f (s.coreOf d g))

/-- Enabled cubes of a die's cores (CUBE_MASK). -/
def State.cubes (s : State) (d : Nat) : Nat :=
  let m := s.getF CORE_EXPERT_CUBE_MASK d 0
  b2n (m.testBit 0) + b2n (m.testBit 1) + b2n (m.testBit 2) + b2n (m.testBit 3)

/-- ⌈a / b⌉. -/
def ceilDiv (a b : Nat) : Nat := (a + b - 1) / b

/-- Fold an instruction's elements into the tile: each is read, run through its passes and written; flags together. -/
def State.foldTile (s : State) (d g acc m n : Nat) (md : AccMode) (levels : Nat) (overF : Bool)
    (slices : Nat → Nat → List Slice) : State × Nat :=
  (tileIdx m n).foldl (fun r ij =>
    let el := r.1.accRead d g acc m n ij.1 ij.2 md.comp
    let x := accPasses md levels overF (slices ij.1 ij.2) el
    (r.1.accWrite d g acc m n ij.1 ij.2 md.comp x.1, r.2 ||| x.2)) (s, 0)

/-- An instruction of zero depth (R81): overwrite mode writes +0 to every element and error word. -/
def State.zeroTile (s : State) (d g acc m n : Nat) (comp : Bool) : State :=
  (tileIdx m n).foldl (fun s ij => s.accWrite d g acc m n ij.1 ij.2 comp ⟨0, 0, false, false⟩) s

/-- Slice width of a format pair (R48, R118) and its tree levels. -/
def sliceWidth (fa fb : Nat) : Nat := min (codeKstep fa) (codeKstep fb)

/-- The effect of an MMA word on the tile, and its flags (R54, R81, R82, R116 to R119). -/
def State.mmaTile (s : State) (d g : Nat) (e : TqEntry) : State × Nat :=
  let m := e.f 57 50 + 1
  let n := e.f 49 42 + 1
  let k := e.f 41 30
  let fa := e.f 29 26
  let fb := e.f 25 22
  let acc := e.f 21 12
  let overF := e.f 11 11 == 0
  let md : AccMode := ⟨intAcc fa fb, e.f 9 9 == 1, e.f 10 10 == 1⟩
  let a := (e.taOf (e.f 8 5)).toNat
  let b := (e.taOf (e.f 4 1)).toNat
  let w := sliceWidth fa fb
  if k = 0 then (if overF then s.zeroTile d g acc m n md.comp else s, 0)
  else
    s.foldTile d g acc m n md w.log2 overF fun i j =>
      (sliceBases k w).map fun base =>
        mkSlice md.int w k base (fun x => s.panelElem fa a k i x) (fun x => s.panelElem fb b k j x)

/-- The effect of an MMA_PAIR3 word: passes hi·hi, hi·lo and lo·hi for each slice (R69, R104, R118). -/
def State.pair3Tile (s : State) (d g : Nat) (e : TqEntry) : State × Nat :=
  let m := e.f 57 50 + 1
  let n := e.f 49 42 + 1
  let k := e.f 41 30
  let fa := e.f 29 26
  let fb := e.f 25 22
  let acc := e.f 21 12
  let overF := e.f 11 11 == 0
  let md : AccMode := ⟨false, false, e.f 10 10 == 1⟩
  let a := (e.taOf (e.f 8 5)).toNat
  let b := (e.taOf (e.f 4 1)).toNat
  let aLo := a + (m + 7) / 8 * panelSize fa k
  let bLo := b + (n + 7) / 8 * panelSize fb k
  if k = 0 then (if overF then s.zeroTile d g acc m n md.comp else s, 0)
  else
    s.foldTile d g acc m n md 3 overF fun i j =>
      (sliceBases k 8).flatMap fun base =>
        let sl (pa pb : Nat) : Slice :=
          mkSlice false 8 k base (fun x => s.panelElem fa pa k i x) (fun x => s.panelElem fb pb k j x)
        [sl a b, sl a bLo, sl aLo b]

/-- The effect of an MMA_CONV word: output row q sums window rows q + h by B_h, h ascending (R56, R57). -/
def State.convTile (s : State) (d g : Nat) (e : TqEntry) : State × Nat :=
  let rows := e.f 57 56 + 1
  let kh := e.f 55 53 + 1
  let n := e.f 52 45 + 1
  let kr := e.f 44 34
  let fa := e.f 33 30
  let fb := e.f 29 26
  let acc := e.f 25 16
  let overF := e.f 15 15 == 0
  let md : AccMode := ⟨intAcc fa fb, e.f 13 13 == 1, e.f 14 14 == 1⟩
  let a := (e.taOf (e.f 12 9)).toNat
  let b := (e.taOf (e.f 8 5)).toNat
  let w := sliceWidth fa fb
  let m := 8 * rows
  if kr = 0 then (if overF then s.zeroTile d g acc m n md.comp else s, 0)
  else
    s.foldTile d g acc m n md w.log2 overF fun i j =>
      (List.range kh).flatMap fun h =>
        let win := a + (i / 8 + h) * panelSize fa kr
        let wgt := b + h * operandSize fb n kr
        (sliceBases kr w).map fun base =>
          mkSlice md.int w kr base (fun x => s.panelElem fa win kr (i % 8) x)
            (fun x => s.panelElem fb wgt kr j x)

/-- Whether an MMA word takes the vector route (R80). -/
def State.vectorRoute (s : State) (d : Nat) (e : TqEntry) : Bool :=
  (e.f 57 50 == 0 || e.f 49 42 == 0) && e.f 41 30 != 0 &&
  (s.flag CORE_EXPERT_NARROW_ROUTE d 0 || e.f 0 0 == 1)

/-- Cube cycles of an instruction over mb row blocks (R76, R77); none where no slice issues. -/
def State.cubeCycles (s : State) (d mb rest : Nat) : Nat := ceilDiv mb (min mb (s.cubes d)) * rest

/-! ### ACC_RD -/

/-- Bytes of bit-packed codes of width e, first code lowest. -/
def packBytes (e : Nat) (codes : List Nat) : List Byte :=
  leBytes ((codes.length * e + 7) / 8) (codes.foldr (fun c acc => acc * 2 ^ e + c % 2 ^ e) 0)

/-- One tile element as it is read out: its code or codes (hi, lo), flags and the poison of each. -/
structure OutEl where
  code : Nat
  lo : Nat
  flags : Nat
  pois : Bool
  lopois : Bool
  deriving DecidableEq, Repr

/-- Codes of one MX block of a panel: the elements that lie inside the tile, then zeros (R70, R98). -/
def mxBlock (fmt : Nat) (mode : Nat → RoundMode) (xs : List Num) : Nat × List Nat × Nat := mxEncode fmt mode xs

/-- Panel bytes of a tile (R50, R70): `el r k` is the code at panel position r and depth k (none where padding), `scale b r`
the block scale. -/
def panelBytes (fmt depth : Nat) (el : Nat → Nat → Nat) (scale : Nat → Nat → Nat) : List Byte :=
  let kp := padK depth
  packBytes (codeWidth fmt) ((List.range kp).flatMap fun k => (List.range 8).map fun r => el r k) ++
    (if codeMx fmt then
      packBytes 8 ((List.range (kp / 32)).flatMap fun b => (List.range 8).map fun r => scale b r)
    else [])

/-- The panels of a tile whose panel axis has `np` elements and depth `dp`. -/
def panelImage (fmt np dp : Nat) (el : Nat → Nat → Nat) (scale : Nat → Nat → Nat) : List Byte :=
  (List.range ((np + 7) / 8)).flatMap fun p =>
    panelBytes fmt dp (fun r k => if p * 8 + r < np ∧ k < dp then el (p * 8 + r) k else 0)
      (fun b r => if p * 8 + r < np then scale b (p * 8 + r) else 0)

/-- The rounding of tile element (i, j): nearest-even, or the key of R102. -/
def accMode (e : TqEntry) (n i j : Nat) : RoundMode :=
  if e.f 24 24 = 1 then .sr (randomR e.job e.srstep e.srblock (i * n + j)) else .ne

/-- Element (i, j) read out to a format that is not MX. -/
def State.outEl (s : State) (d g : Nat) (e : TqEntry) (m n i j : Nat) : OutEl :=
  let fmt := e.f 31 28
  let comp := e.f 22 22 == 1
  let el := s.accRead d g (e.f 57 48) m n i j comp
  let p := el.pois || el.epois
  if e.f 23 23 = 1 then ⟨el.v, el.err, 0, el.pois, el.epois⟩
  else if codePair fmt then
    let r := pairEncode (codeFmt fmt) (accMode e n i j) (accValue comp el)
    ⟨r.1, r.2.1, r.2.2, p, p⟩
  else
    let r := readOut fmt comp (e.f 21 21 == 1) (accMode e n i j) el
    ⟨r.1, 0, r.2, p, false⟩

/-- The MX encoding of the block b of panel-axis position q: scale, codes, flags. In A layout the depth runs along columns,
in B layout along rows. -/
def State.outBlock (s : State) (d g : Nat) (e : TqEntry) (m n q b : Nat) : Nat × List Nat × Nat :=
  let rowsDepth := e.f 27 26 == 2
  let depth := if rowsDepth then m else n
  let len := min 32 (depth - b * 32)
  let idx (k : Nat) : Nat × Nat := if rowsDepth then (b * 32 + k, q) else (q, b * 32 + k)
  mxEncode (e.f 31 28) (fun k => accMode e n (idx k).1 (idx k).2)
    ((List.range len).map fun k =>
      accValue (e.f 22 22 == 1) (s.accRead d g (e.f 57 48) m n (idx k).1 (idx k).2 (e.f 22 22 == 1)))

/-- Poison the bytes of element (i, j) at the destination (R114), in the array that starts `second` bytes from the base. -/
def State.outPoison (s : State) (e : TqEntry) (m n i j second : Nat) : State :=
  let fmt := e.f 31 28
  let layout := e.f 27 26
  let base := (e.taOf (e.f 20 17)).toNat + second
  let w := codeWidth fmt
  if layout = 0 then s.setPoison (base + i * (e.f 16 5 * 16) + j * w / 8) ((j * w % 8 + w + 7) / 8) true
  else
    let q := if layout = 1 then i else j
    let k := if layout = 1 then j else i
    let dp := if layout = 1 then n else m
    let p := base + q / 8 * panelSize fmt dp
    let off := (k * 8 + q % 8) * w
    let s1 := s.setPoison (p + off / 8) ((off % 8 + w + 7) / 8) true
    if codeMx fmt then s1.setPoison (p + padK dp * w + k / 32 * 8 + q % 8) 1 true else s1

/-- Bytes of one row of a row-major tile; the odd last nibble of a 4-bit row keeps the upper half of its byte. -/
def State.rowBytes (s : State) (a w : Nat) (codes : List Nat) : List Byte :=
  if w * codes.length % 8 = 0 then packBytes w codes
  else packBytes w (codes ++ [s.readN (a + codes.length * w / 8) 1 / 16])

/-- Write one array of the tile from its element codes (R70). -/
def State.outArray (s : State) (e : TqEntry) (m n base : Nat) (code : Nat → Nat → Nat) (scale : Nat → Nat → Nat) :
    State :=
  let fmt := e.f 31 28
  match e.f 27 26 with
  | 0 => (List.range m).foldl (fun t i =>
      let a := base + i * (e.f 16 5 * 16)
      t.write a (t.rowBytes a (codeWidth fmt) ((List.range n).map (code i)))) s
  | 1 => s.write base (panelImage fmt m n (fun q k => code q k) scale)
  | _ => s.write base (panelImage fmt n m (fun q k => code k q) scale)

/-- ACC_RD on the state before it: the tile written out, its flags, and the tile zeroed where ZERO = 1 (R70, R124 to
R127). -/
def State.accRdTile (s : State) (d g : Nat) (e : TqEntry) : State × Nat :=
  let m := e.f 47 40 + 1
  let n := e.f 39 32 + 1
  let fmt := e.f 31 28
  let layout := e.f 27 26
  let base := (e.taOf (e.f 20 17)).toNat
  let two := codePair fmt || e.f 23 23 == 1
  let second := tileSecond fmt layout m n (e.f 16 5)
  let idx := tileIdx m n
  let res : State × Nat :=
    if codeMx fmt then
      let dp := if layout = 1 then n else m
      let np := if layout = 1 then m else n
      let blocks := (List.range np).map fun q => (List.range ((dp + 31) / 32)).map fun b => s.outBlock d g e m n q b
      let blk (q b : Nat) : Nat × List Nat × Nat := (blocks.getD q []).getD b (0, [], 0)
      let code (i j : Nat) : Nat :=
        let q := if layout = 1 then i else j
        let k := if layout = 1 then j else i
        (blk q (k / 32)).2.1.getD (k % 32) 0
      (s.outArray e m n base code (fun b q => (blk q b).1),
        (blocks.flatMap id).foldl (fun a x => a ||| x.2.2) 0)
    else
      let els := idx.map fun ij => s.outEl d g e m n ij.1 ij.2
      let el (i j : Nat) : OutEl := els.getD (i * n + j) ⟨0, 0, 0, false, false⟩
      let s1 := s.outArray e m n base (fun i j => (el i j).code) (fun _ _ => 0)
      let s2 := if two then s1.outArray e m n (base + second) (fun i j => (el i j).lo) (fun _ _ => 0) else s1
      (s2, els.foldl (fun a x => a ||| x.flags) 0)
  let s3 := idx.foldl (fun t ij =>
    let x := s.accRead d g (e.f 57 48) m n ij.1 ij.2 (e.f 22 22 == 1)
    let raw := e.f 23 23 == 1
    let t1 := if x.pois || (!raw && x.epois) then t.outPoison e m n ij.1 ij.2 0 else t
    if two && (if raw then x.epois else x.pois || x.epois) then t1.outPoison e m n ij.1 ij.2 second else t1) res.1
  let s4 := if e.f 25 25 = 1 then s3.zeroTile d g (e.f 57 48) m n (e.f 22 22 == 1) else s3
  (s4, res.2)

/-! ### ACC_WR -/

/-- The raw element (i, j) of the source array at `base`, its decoded value, and its poison (R70). -/
def State.inEl (s : State) (e : TqEntry) (m n base i j : Nat) : Nat × Num × Bool :=
  let fmt := e.f 31 28
  let w := codeWidth fmt
  if e.f 27 26 = 0 then
    let a := base + i * (e.f 16 5 * 16)
    let x := s.elem a (j * w) w
    (x, codeDecode fmt x, s.elemPoison a (j * w) w)
  else
    let q := if e.f 27 26 = 1 then i else j
    let k := if e.f 27 26 = 1 then j else i
    let dp := if e.f 27 26 = 1 then n else m
    let p := base + q / 8 * panelSize fmt dp
    let x := s.elem p ((k * 8 + q % 8) * w) w
    let r := s.panelElem fmt base dp q k
    (x, r.1, r.2)

/-- ACC_WR on a state: the tile loaded, and its flags (Table 2.10, R70, R125). -/
def State.accWrTile (s : State) (d g : Nat) (e : TqEntry) : State × Nat :=
  let m := e.f 47 40 + 1
  let n := e.f 39 32 + 1
  let fmt := e.f 31 28
  let comp := e.f 25 25 == 1
  let cpair := e.f 24 24 == 1
  let base := (e.taOf (e.f 20 17)).toNat
  let second := base + tileSecond fmt (e.f 27 26) m n (e.f 16 5)
  (tileIdx m n).foldl (fun r ij =>
    let x := s.inEl e m n base ij.1 ij.2
    let y := s.inEl e m n second ij.1 ij.2
    let w : AccEl × Nat :=
      if cpair then (⟨x.1, y.1, x.2.2, y.2.2⟩, 0)
      else if codePair fmt then
        let c := fp32.finish (numAdd x.2.1 y.2.1)
        (⟨c.1, 0, x.2.2 || y.2.2, false⟩, c.2)
      else
        let c := loadIn fmt x.1 x.2.1
        (⟨c.1, 0, x.2.2, false⟩, c.2)
    (r.1.accWrite d g (e.f 57 48) m n ij.1 ij.2 comp w.1, r.2 ||| w.2)) (s, 0)

/-! ### TILE_ADD -/

/-- The sum of two elements: FP32, INT32, or compensated (R71, R123). -/
def tileAddEl (comp int sat : Bool) (x y : AccEl) : AccEl × Nat :=
  let p := x.pois || y.pois
  let q := x.epois || y.epois
  if int then let r := addInt32 sat x.v y.v; (⟨r.1, 0, p, false⟩, r.2)
  else
    let t := fp32.add x.v y.v
    if comp then
      let dErr := (fp32.add x.err y.err).1
      match fp32.decode t.1 with
      | .fin nt mt et =>
        let e := (numAdd (numAdd (fp32.decode x.v) (fp32.decode y.v)).1 (numNeg (.fin nt mt et))).1
        (⟨t.1, fp32.encodeNe (numAdd (fp32.decode dErr) e).1, p, q || p⟩, t.2)
      | _ => (⟨t.1, dErr, p, q⟩, t.2)
    else (⟨t.1, 0, p, false⟩, t.2)

/-- TILE_ADD on a state: D = X + Y for every element, and the flags. -/
def State.tileAddAll (s : State) (d g : Nat) (e : TqEntry) : State × Nat :=
  let m := e.f 27 20 + 1
  let n := e.f 19 12 + 1
  let comp := e.f 11 11 == 1
  (tileIdx m n).foldl (fun r ij =>
    let x := r.1.accRead d g (e.f 47 38) m n ij.1 ij.2 comp
    let y := r.1.accRead d g (e.f 37 28) m n ij.1 ij.2 comp
    let z := tileAddEl comp (e.f 10 10 == 1) (e.f 9 9 == 1) x y
    (r.1.accWrite d g (e.f 57 48) m n ij.1 ij.2 comp z.1, r.2 ||| z.2)) (s, 0)

/-! ### The pipe (R62, R63, R76 to R80, R114) -/

/-- Whether an opcode is of the MMA family. -/
def accFamily (opc : Nat) : Bool := opc == 0x08 || opc == 0x09 || opc == 0x0A

/-- Whether an MMA-family word accumulates. -/
def TqEntry.accum (e : TqEntry) : Bool := if e.opc = 0x09 then e.f 15 15 == 1 else e.f 11 11 == 1

/-- Depth of an MMA-family word. -/
def TqEntry.depth (e : TqEntry) : Nat := if e.opc = 0x09 then e.f 44 34 else e.f 41 30

/-- The block range of a tile of m × n from block acc. -/
def tileRange (acc m n : Nat) (comp : Bool) : Nat × Nat := (acc, tileBlocks m n * (if comp then 2 else 1))

/-- The block range that an MMA, MMA_CONV, MMA_PAIR3, ACC_RD or ACC_WR word names. -/
def TqEntry.tile (e : TqEntry) : Nat × Nat :=
  match e.opc with
  | 0x09 => tileRange (e.f 25 16) (8 * (e.f 57 56 + 1)) (e.f 52 45 + 1) (e.f 14 14 == 1)
  | 0x10 => tileRange (e.f 57 48) (e.f 47 40 + 1) (e.f 39 32 + 1) (e.f 22 22 == 1)
  | 0x11 => tileRange (e.f 57 48) (e.f 47 40 + 1) (e.f 39 32 + 1) (e.f 25 25 == 1)
  | _ => tileRange (e.f 21 12) (e.f 57 50 + 1) (e.f 49 42 + 1) (e.f 10 10 == 1)

/-- The block ranges that an accumulator-pipe instruction reads: an overwrite reads what it wrote from its second slice on. -/
def TqEntry.accReads (e : TqEntry) : List (Nat × Nat) :=
  let n := tileBlocks (e.f 27 20 + 1) (e.f 19 12 + 1) * (if e.f 11 11 = 1 then 2 else 1)
  match e.opc with
  | 0x11 => []
  | 0x12 => [(e.f 47 38, n), (e.f 37 28, n)]
  | _ => [e.tile]

/-- The block ranges that an accumulator-pipe instruction writes. -/
def TqEntry.accWrites (e : TqEntry) : List (Nat × Nat) :=
  let n := tileBlocks (e.f 27 20 + 1) (e.f 19 12 + 1) * (if e.f 11 11 = 1 then 2 else 1)
  match e.opc with
  | 0x10 => if e.f 25 25 = 1 then [e.tile] else []
  | 0x12 => [(e.f 57 48, n)]
  | _ => [e.tile]

/-- Whether some range of one list overlaps one of another. -/
def rangesMeet (xs ys : List (Nat × Nat)) : Bool := xs.any fun x => ys.any fun y => decide (x.1 < y.1 + y.2 ∧ y.1 < x.1 + x.2)

/-- Whether a pair of words lies in one of some block ranges. -/
def inBlocks (blocks : List (Nat × Nat)) (x : AccErr) : Bool := blocks.any fun r => decide (r.1 ≤ x.pair.val / 32 ∧ x.pair.val / 32 < r.1 + r.2)

/-- ECC errors that come to stand in the accumulator file of core g. -/
def State.addEcc (s : State) (d g : Nat) (errs : List AccErr) : State :=
  if errs.isEmpty then s else s.updCore d g fun c => { c with ecc := c.ecc ++ errs }

/-- The errors that stand in some block ranges are gone: they were met, or their words written without being read (R114). -/
def State.dropEcc (s : State) (d g : Nat) (blocks : List (Nat × Nat)) : State :=
  s.updCore d g fun c => { c with ecc := c.ecc.filter fun x => !inBlocks blocks x }

/-- The ECC errors that reads of some block ranges meet (R114): a corrected one is repaired and recorded, an uncorrectable one poisons both
words and is recorded; the record names the block and the pair's even element. The others stand on. -/
def State.eccErrors (s : State) (d g : Nat) (blocks : List (Nat × Nat)) : State :=
  ((s.coreOf d g).ecc.filter (inBlocks blocks)).foldl (fun u x =>
    (if x.fatal then u.setPoison (accBase d g + 8 * x.pair.val) 8 true else u).raise (b2n x.fatal) 0x04 d g 0 (x.pair.val / 32)
      (x.pair.val % 32 * 2) 0)
    (s.dropEcc d g blocks)

/-- What an accumulator-pipe instruction does to the state, and its flags. -/
def State.accEffect (s : State) (d g : Nat) (e : TqEntry) : State × Nat :=
  match e.opc with
  | 0x08 => s.mmaTile d g e
  | 0x09 => s.convTile d g e
  | 0x0A => s.pair3Tile d g e
  | 0x10 => s.accRdTile d g e
  | 0x11 => s.accWrTile d g e
  | _ => s.tileAddAll d g e

/-- The error words of a compensated tile whose value words met an uncorrectable error after the first slice: the sum's error term takes the
value's poison (R114, R123). -/
def State.eccSpread (s : State) (d g : Nat) (e : TqEntry) (errs : List AccErr) : State :=
  let half := e.tile.2 / 2
  errs.foldl (fun u x =>
    if x.fatal && inBlocks [(e.tile.1, half)] x then u.setPoison (accBase d g + 8 * x.pair.val + half * 256) 8 true else u) s

/-- Whether the ECC errors of an instruction come after its first write: an overwrite of several slices reads only what it wrote. -/
def TqEntry.lateReads (e : TqEntry) : Bool := accFamily e.opc && !e.accum

/-- Whether an overwriting instruction reads its tile at all: from its second pass on. -/
def TqEntry.eccReads (e : TqEntry) : List (Nat × Nat) :=
  if !e.lateReads then (if accFamily e.opc && e.depth == 0 then [] else e.accReads)
  else
    let w := if e.opc = 0x09 then sliceWidth (e.f 33 30) (e.f 29 26) else sliceWidth (e.f 29 26) (e.f 25 22)
    let one := e.opc != 0x0A && decide (e.depth ≤ w) && (e.opc != 0x09 || e.f 55 53 == 0)
    if e.depth = 0 ∨ one then [] else e.accReads

/-- Whether an MMA-family word accumulates with error words. -/
def TqEntry.compOn (e : TqEntry) : Bool := accFamily e.opc && (if e.opc = 0x09 then e.f 14 14 == 1 else e.f 10 10 == 1)

/-- Errors that stood in the words an instruction wrote are gone. -/
def State.dropWritten (s : State) (d g : Nat) (e : TqEntry) : State :=
  if (s.coreOf d g).ecc.isEmpty then s else s.dropEcc d g e.accWrites

/-- An accumulator-pipe instruction takes effect, with the ECC errors that its reads meet: those that stand and `errs`, which came since; flags apart. -/
def State.accRun (s : State) (d g : Nat) (e : TqEntry) (errs : List AccErr) : State × Nat :=
  let s1 := s.addEcc d g errs
  if e.lateReads then
    let r := s1.accEffect d g e
    let met := ((r.1.coreOf d g).ecc.filter (inBlocks e.eccReads))
    let t := if met.isEmpty then r.1 else r.1.eccErrors d g e.eccReads
    let t1 := if e.compOn then t.eccSpread d g e met else t
    (t1.dropWritten d g e, r.2)
  else
    let r := ((if (s1.coreOf d g).ecc.isEmpty then s1 else s1.eccErrors d g e.eccReads)).accEffect d g e
    (r.1.dropWritten d g e, r.2)

/-- Issue cycles of an accumulator-pipe instruction on die d (R76 to R78, R81). -/
def State.accCycles (s : State) (d : Nat) (e : TqEntry) : Nat :=
  match e.opc with
  | 0x08 => if e.depth = 0 then 1 else
      s.cubeCycles d (e.f 57 50 / 8 + 1) ((e.f 49 42 / 8 + 1) * ceilDiv e.depth (sliceWidth (e.f 29 26) (e.f 25 22)))
  | 0x09 => if e.depth = 0 then 1 else
      s.cubeCycles d (e.f 57 56 + 1) ((e.f 52 45 / 8 + 1) * (e.f 55 53 + 1) * ceilDiv e.depth (sliceWidth (e.f 33 30) (e.f 29 26)))
  | 0x0A => if e.depth = 0 then 1 else s.cubeCycles d (e.f 57 50 / 8 + 1) ((e.f 49 42 / 8 + 1) * ceilDiv e.depth 8 * 3)
  | 0x12 => ceilDiv (tileBlocks (e.f 27 20 + 1) (e.f 19 12 + 1)) 2 * (if e.f 11 11 = 1 then 2 else 1)
  | _ =>
    let comp := if e.opc = 0x10 then e.f 22 22 else e.f 25 25
    ceilDiv (tileBlocks (e.f 47 40 + 1) (e.f 39 32 + 1)) 2 * (if comp = 1 then 2 else 1)

/-- Array cycles from one issue to the next on a die: k at duty 1/k (R444). -/
def State.pace (s : State) (d : Nat) : Nat := 2 ^ s.getF DIE_THERMAL_DUTY 0 d

/-- The time of the last of n issues from time `start` on, at duty 1/k (R444). -/
def lastIssue (k start n : Nat) : Nat :=
  (if k ≤ 1 then start else ceilDiv start (10 * k) * (10 * k)) + (n - 1) * (10 * k)

/-- Cycles from the last issue cycle to the landing (R76 to R78). -/
def accLatency (opc : Nat) : Nat := if opc = 0x12 then 8 else if opc = 0x10 ∨ opc = 0x11 then 12 else 24

/-- Issue cycles of an MMA on the vector route (R80). -/
def TqEntry.routeCycles (e : TqEntry) : Nat :=
  let l := max (e.f 57 50 + 1) (e.f 49 42 + 1)
  ceilDiv (l * padK e.depth) (if e.f 29 26 = 0 ∨ e.f 25 22 = 0 then 64 else 128)

/-- The time at which an instruction that may go now starts, behind instructions `ahead`, oldest first: after the last issue cycle of the one
before, and after every earlier write to a block that it touches has landed, but for an accumulating MMA-family instruction behind
MMA-family instructions alone (R62, R63). -/
def accStart (now : Nat) (e : TqEntry) (ahead : List AccOp) : Nat :=
  match ahead with
  | [] => now
  | p :: ps =>
    let chained := accFamily e.opc && e.accum && (p :: ps).all fun q => accFamily q.entry.opc
    let t := accStart now e ps
    let t1 := if ps.isEmpty then max t (p.last + 10) else t
    if !chained && rangesMeet p.entry.accWrites (e.accReads ++ e.accWrites) then max t1 (p.final + 10) else t1

/-- Array cycles between two issues of an accumulator-pipe instruction on a die at duty 1/k: slices alone are paced (R444). -/
def TqEntry.spacing (e : TqEntry) (k : Nat) : Nat := if accFamily e.opc && e.depth != 0 then k else 1

/-- An instruction whose latency is `lat` cycles and that still issues when its die's duty goes from 1/k to 1/k': its remaining issues come
at the new duty, or all of them where it waits behind `ahead` (R444). -/
def AccOp.repace (now k k' lat : Nat) (ahead : List AccOp) (o : AccOp) : AccOp :=
  let a := 10 * o.entry.spacing k
  let first := o.last - (o.cycles - 1) * a
  if !o.begun ∨ o.last < now then o
  else
    let last :=
      if first < now then lastIssue (o.entry.spacing k') now ((o.last - now) / a + 1)
      else lastIssue (o.entry.spacing k') (accStart now o.entry ahead) o.cycles
    { o with last := last, final := last + lat * 10 }

/-- The accumulator pipe when its die's duty changes, oldest first. -/
def repaceAll (now k k' : Nat) (ahead : List AccOp) : List AccOp → List AccOp
  | [] => ahead
  | o :: l => repaceAll now k k' (ahead ++ [o.repace now k k' (accLatency o.entry.opc) ahead]) l

/-- The instructions in progress on a die when its duty changes from 1/k to 1/k' (R444). -/
def State.repaceDie (s : State) (d k k' : Nat) : State :=
  if k = k' then s
  else (s.cores.map (·.1)).foldl (fun u g =>
    if g / 96 ≠ d then u
    else u.setCore g { u.core g with
      acc := repaceAll s.time k k' [] (u.core g).acc
      vec := (u.core g).vec.map fun r => { r with mma := r.mma.map (AccOp.repace s.time k k' 32 []) } }) s

/-- The MMA that runs on the vector engine of a core, or waits in its pipe. -/
def Core.routed (c : Core) : List AccOp := c.vec.filterMap (·.mma)

/-- An MMA on the vector route starts: its effect, its flags in the vector set, its times (R80, R109). -/
def State.startRouted (s : State) (d g : Nat) (r : VecRun) (o : AccOp) : State :=
  let c := s.coreOf d g
  let x := s.accRun d g o.entry o.errs
  let writes := c.acc.filter fun p => p.begun && rangesMeet p.entry.accWrites (o.entry.accReads ++ o.entry.accWrites)
  let start := writes.foldl (fun m p => max m (p.final + 10)) s.time
  let last := lastIssue (o.entry.spacing (s.pace d)) start o.cycles
  let o1 := { o with begun := true, last := last, final := last + 320 }
  (x.1.vecFlags d g x.2).updCore d g fun c => { c with vec := { r with mma := some o1 } :: c.vec.drop 1 }

/-- The vector pipe moves on: a routed MMA at its head starts, or leaves once its tile is final. -/
def State.settleVec (s : State) (d g : Nat) : State :=
  match (s.coreOf d g).vec with
  | [] => s
  | r :: rest =>
    match r.mma with
    | none => s
    | some o =>
      if o.begun = false then s.startRouted d g r o
      else if o.final < s.time then s.updCore d g fun c => { c with vec := rest }
      else s

/-- Whether an instruction that stands in the accumulator pipe waits for a routed MMA that has not started (R63, R80). -/
def Core.accBlocked (c : Core) (e : TqEntry) : Bool :=
  c.routed.any fun o => !o.begun && rangesMeet o.entry.accWrites (e.accReads ++ e.accWrites)

/-- The first instruction of the accumulator pipe that has not started starts (R62, R63): its effect is whole at once, its flags go to the
array set, and its times tell how long it occupies the pipe. -/
def State.settleAcc (s : State) (d g : Nat) : State :=
  let c := s.coreOf d g
  match c.acc.find? fun o => !o.begun with
  | none => s
  | some o =>
    if c.accBlocked o.entry then s
    else
      let e := o.entry
      let x := s.accRun d g e o.errs
      let started := c.acc.filter (·.begun)
      let wait := (c.routed.filter fun p => rangesMeet p.entry.accWrites (e.accReads ++ e.accWrites)).foldl (fun m p => max m (p.final + 10))
        (accStart s.time e started)
      let last := lastIssue (e.spacing (s.pace d)) wait o.cycles
      let o1 := { o with begun := true, last := last, final := last + accLatency e.opc * 10 }
      let s1 := (x.1.arrFlags d g x.2).addF CUBE_BUSY_CYCLES d g (if accFamily e.opc && e.depth != 0 then o.cycles else 0)
      s1.updCore d g fun c => { c with acc := c.acc.takeWhile (·.begun) ++ o1 :: (c.acc.dropWhile (·.begun)).drop 1 }

/-- Instructions of the accumulator pipe whose effects have landed leave it. -/
def State.retireAcc (s : State) (d g : Nat) : State :=
  if (s.coreOf d g).acc.all fun o => !o.begun || decide (s.time ≤ o.final) then s
  else s.updCore d g fun c => { c with acc := c.acc.filter fun o => !o.begun || decide (s.time ≤ o.final) }

/-- The accumulator pipe and the vector route of a core move as far as they can at this time. -/
def State.settlePipes (s : State) (d g : Nat) : State :=
  ((((s.retireAcc d g).settleVec d g).settleVec d g).settleAcc d g).settleAcc d g

/-- Whether the accumulator pipe has room for one more instruction: it holds one that is issuing and one that waits (R62). -/
def State.accRoom (s : State) (d g : Nat) : Bool :=
  decide (((s.coreOf d g).acc.filter fun o => !o.begun || decide (s.time ≤ o.last)).length < 2)

/-- Whether the accumulator pipe of a core holds nothing whose effect has still to land. -/
def State.accIdle (s : State) (d g : Nat) : Bool := (s.coreOf d g).acc.all fun o => o.begun && decide (o.final < s.time)

/-- An instruction enters the accumulator pipe, where it has room; it takes the package's job as it issues (R102). -/
def State.accEnter (s : State) (d g : Nat) (e : TqEntry) (errs : List AccErr) : Option State :=
  if s.accRoom d g then
    some ((s.updCore d g fun c => { c with acc := c.acc ++ [⟨{ e with job := s.job }, errs, s.accCycles d e, false, 0, 0⟩] }).settlePipes d g)
  else none

/-- An MMA enters the vector pipe (R80, R137), where it has room. -/
def State.routeEnter (s : State) (d g : Nat) (e : TqEntry) (errs : List AccErr) : Option State :=
  if 2 ≤ (s.coreOf d g).vec.length then none
  else
    some ((s.updCore d g fun c => { c with vec := c.vec ++ [VecRun.enter e false false (some ⟨e, errs, e.routeCycles, false, 0, 0⟩)] }).settlePipes d g)

end Sys2Proof.Machine
end

