-- ==== Sys2Proof/Machine/TileQueue.lean ====
section
/-!
DEFINITION. The tile queue as shared operations (R58 to R66, R83, R84): pushing, issuing from the head, faults, waits,
event counters, and the Spur core's exceptions.
-/
namespace Sys2Proof.Machine

open Sys2Proof

/-- Whether the Spur core of (d, g) can execute an instruction: live, started (R85, Table 2.27), not stalled. -/
def State.spurReady (s : State) (d g : Nat) : Bool :=
  s.coreLive d g && s.flag CORE_CTRL_RUN d g && (s.coreOf d g).stall.isNone

/-- Whether a 32-bit instruction word is the R-type custom instruction of an opcode with a funct3 and funct7 = 0 (R58, R155). -/
def spurIs (w : BitVec 32) (opc f3 : Nat) : Bool := bits w.toNat 6 0 == opc && bits w.toNat 14 12 == f3 && bits w.toNat 31 25 == 0

/-- rd of an R-type word. -/
def spurRd (w : BitVec 32) : Nat := bits w.toNat 11 7

/-- rs2 of an R-type word. -/
def spurRs2 (w : BitVec 32) : Nat := bits w.toNat 24 20

/-- A Spur register written; x0 stays 0. -/
def Core.setX (c : Core) (rd : Nat) (v : Word) : Core :=
  if rd = 0 then c else { c with x := kset 0 c.x rd v }

/-- An exception of the Spur core: its cause is recorded and the instruction has no other effect (R58, Table 20.5a). -/
def State.spurTrap (s : State) (d g cause : Nat) : State :=
  s.updCore d g fun c => { c with mcause := some cause }

/-- A machine external interrupt raised on the Spur core (R83, R161). -/
def State.spurInterrupt (s : State) (d g : Nat) : State :=
  (s.updCore d g fun c => { c with extIrq := true }).emit .spurInterrupt (globalCore d g) [] []

/-- Event counter n of a core (16 bits, wrapping). -/
def Core.ecOf (c : Core) (n : Nat) : Nat := kget 0 c.ec n

/-- Add to an event counter, modulo 65,536 (R65). -/
def Core.addEc (c : Core) (n inc : Nat) : Core := { c with ec := kset 0 c.ec n ((c.ecOf n + inc) % 65536) }

/-- The completion of an instruction: its event counter where ECEN = 1 (R65). -/
def Core.complete (c : Core) (e : TqEntry) : Core :=
  if e.f 57 57 = 1 then c.addEc (e.f 56 53) 1 else c

/-! ### Faults and issue -/

/-- A tile queue fault with a code on a word (R83). -/
def State.tqStop (s : State) (d g : Nat) (e : TqEntry) (code : Nat) : State :=
  (((s.setF CORE_STATUS_TQ_FAULT d g 1).setF CORE_STATUS_FAULT_CODE d g code).setF
    TQ_FAULT_WORD_WORD d g e.word.toNat).spurInterrupt d g

/-- Whether the queue of (d, g) is stopped on a fault. -/
def State.tqStopped (s : State) (d g : Nat) : Bool := s.flag CORE_STATUS_TQ_FAULT d g

/-- Decide the fault of the word at the head (R84). -/
def State.settleHead (s : State) (d g : Nat) : State :=
  if s.tqStopped d g then s
  else match (s.coreOf d g).tq with
    | [] => s
    | e :: _ =>
      match s.tqFault d g e with
      | some code => s.tqStop d g e code
      | none => s

/-- What TQ.PUSH captures with a word (R59, R102, R136). -/
def Core.capture (c : Core) (w : Word) (job : Nat) : TqEntry :=
  ⟨w, (List.range 16).map (fun n => kget 0 c.ta n), c.srstep, c.srblock, job⟩

/-- How far TQ.PUSH of a word advances SRBLOCK: 1 for an ACC_RD with SR = 1 (R102), NITER + 1 for a VEC_RUN (R136). -/
def srAdvance (w : Word) : Nat :=
  let op := bits w.toNat 63 58
  if op = 0x10 ∧ bits w.toNat 24 24 = 1 then 1
  else if op = 0x18 then bits w.toNat 31 12 + 1
  else 0

/-- A word enters the queue. -/
def Core.enqueue (c : Core) (w : Word) (job : Nat) : Core :=
  { c with
    tq := c.tq ++ [c.capture w job]
    srblock := (c.srblock + srAdvance w) % 2 ^ 32
    vecPushed := c.vecPushed + (if bits w.toNat 63 58 = 0x18 then 1 else 0) }

/-- A word leaves the head; a TQ.PUSH that stalled on the full queue then enters (R60), and the next head is decided. -/
def State.popHead (s : State) (d g : Nat) : State :=
  let s1 := s.updCore d g fun c =>
    let c1 := { c with tq := c.tq.drop 1, held := false }
    match c1.stall with
    | some (.push w) => { (c1.enqueue w s.job) with stall := none }
    | _ => c1
  s1.settleHead d g

/-- Whether an access through the SRAM window to core g's accumulator file or ledge waits for a tile-instruction boundary: the core's next
tile instruction comes after it (R38). -/
def State.windowWaits (s : State) (d g : Nat) : Bool :=
  s.arrivals.any fun w =>
    (match w.what with | .move e k _ => !(e == d && k == g) | _ => true) &&
    w.extents.any fun x => windowCore x.1 == some (globalCore d g)

/-- Issue the head of the queue of (d, g) where it is an instruction of opcode `opc` that may issue: a word that breaks a
rule stops the queue; otherwise `run` gives the state after it, or none where its pipe cannot accept it (R38, R61 to R63). -/
def State.issue (s : State) (d g opc : Nat) (run : TqEntry → Option State) : State :=
  if !s.coreLive d g || s.tqStopped d g || (s.coreOf d g).held || s.windowWaits d g then s
  else match (s.coreOf d g).tq with
    | [] => s
    | e :: _ =>
      if e.opc ≠ opc then s
      else match s.tqFault d g e with
        | some code => s.tqStop d g e code
        | none =>
          match run e with
          | some t => t.popHead d g
          | none => s

/-- Whether every pipe of a core is idle. -/
def State.coreIdle (s : State) (d g : Nat) : Bool :=
  s.accIdle d g && (s.coreOf d g).vec.isEmpty && (s.coreOf d g).moves.isEmpty

/-- Whether the condition of a WAIT word holds (R66, Table 2.19). -/
def State.waitHolds (s : State) (d g : Nat) (e : TqEntry) : Bool :=
  match e.f 57 56 with
  | 0 => decide (((s.coreOf d g).ecOf (e.f 55 52) + 65536 - e.f 51 36) % 65536 < 32768)
  | 1 => s.accIdle d g
  | 2 => (s.coreOf d g).vec.isEmpty
  | _ => s.coreIdle d g

/-- Add the increment of a SIGNAL to its counter in the own cluster (R65). -/
def State.signalEc (s : State) (d g : Nat) (e : TqEntry) : State :=
  s.updCore d (g / 12 * 12 + e.f 53 50) fun c => c.addEc (e.f 57 54) (e.f 48 33)

/-- The TQ.STAT word (Table 2.5). -/
def State.tqStatus (s : State) (d g : Nat) : Word :=
  let c := s.coreOf d g
  BitVec.ofNat 64 (c.tq.length + 256 * b2n (s.tqStopped d g) + 512 * b2n (!s.accIdle d g) + 1024 * b2n (!c.vec.isEmpty) + 2048 * b2n (!c.moves.isEmpty))

/-! ### Start of a core -/

/-- A write of CORE_CTRL RUN (Table 2.27): 1 while 0 starts the Spur core at SPUR_ENTRY, 0 halts it. -/
def State.coreRun (s : State) (d g : Nat) (run : Bool) : State :=
  if run then
    if s.flag CORE_CTRL_RUN d g then s
    else ((s.setF CORE_CTRL_RUN d g 1).setF CORE_STATUS_SPUR_HALTED d g 0).updCore d g
      fun c => { c with pc := s.getF SPUR_ENTRY_ENTRY d g * 2 }
  else (s.setF CORE_CTRL_RUN d g 0).setF CORE_STATUS_SPUR_HALTED d g 1

end Sys2Proof.Machine
end

