-- ==== Sys2Proof/Machine/RemoteOps.lean ====
section
/-!
DEFINITION. Remote operations as shared operations (chapter 07): admission to the tracker, checks at the source and the
target, the effect of PUT, GET, ATOMIC and NOTIFY, sending, completion. `FireFn` stands for the firing of a flag word's
trigger (R205), which NotifyOps supplies.
-/
namespace Sys2Proof.Machine

open Sys2Proof

/-- What a NOTIFY does after its word changed: die, flag word, value before, value after. -/
abbrev FireFn := State → Nat → Nat → Nat → Nat → State

/-- No trigger: for operations that are never a NOTIFY. -/
def noFire : FireFn := fun s _ _ _ _ => s

/-! ### Atomic semantics (R200, Table 7.3) -/

/-- The word after an atomic operation. -/
def atomicAfter (aop w old op new : Nat) : Nat :=
  match aop with
  | 0 => (old + op) % 2 ^ w
  | 1 => (old + op) % 2 ^ w
  | 2 => if old = op % 2 ^ w then new % 2 ^ w else old
  | 3 => if signed w old < signed w op then op % 2 ^ w else old
  | 4 => if signed w op < signed w old then op % 2 ^ w else old
  | 5 => max old (op % 2 ^ w)
  | 6 => min old (op % 2 ^ w)
  | _ => (fp32.add (old % 2 ^ 32) (op % 2 ^ 32)).1

/-- Whether an operation returns the old value. -/
def atomicFetches (aop : Nat) : Bool := aop == 1 || aop == 2

/-- The atomic operation on the word at a package address (R196, R200 to R202, R205): the state, the old value, and the
status. -/
def State.atomicAt (fire : FireFn) (s : State) (a aop : Nat) (w64 : Bool) (operand : List Byte) : State × Nat × Nat :=
  let n := if w64 then 8 else 4
  let w := 8 * n
  let t := s.meetErrs a n true
  if t.poisoned a n then (t, 0, stPOISONED)
  else
    let old := t.readN a n
    let op := leNat (operand.take n)
    let new := leNat ((operand.drop 8).take n)
    let after := atomicAfter aop w old op new
    let s1 := t.writeN a n after
    match place a with
    | .flagWord d f _ => (fire s1 d f (old % 2 ^ 32) (after % 2 ^ 32), old, stDONE)
    | _ => (s1, old, stDONE)

/-! ### The pooled range table (R179) -/

/-- First address and length of a range entry. -/
def State.rangeBase (s : State) (n : Nat) : Nat := s.getF RANGE_BASE_BASE 0 n * 4096
def State.rangeSize (s : State) (n : Nat) : Nat := s.getF RANGE_SIZE_SIZE 0 n * 4096
/-- STATE of a range entry: 0 EMPTY, 1 VALID, 2 LOST. -/
def State.rangeState (s : State) (n : Nat) : Nat := s.getF RANGE_STATE_STATE 0 n

/-! ### Checks (R184, R198, R203, Table 7.5) -/

/-- The status an access of a remote operation gets at a package address: closed regions, unmapped and fenced places,
retired stacks. `own` tells an operation of the own package's tile queues in SPACE 0b00, which may write triggers (R206). -/
def State.regionStatus (s : State) (own : Bool) (a n : Nat) : Nat :=
  match place a with
  | .contour _ _ => stINVALID
  | .queuePort _ _ _ => stINVALID
  | .trigger _ _ _ => if own then (s.extentReach a n).status else stINVALID
  | _ => (s.extentReach a n).status

/-- The status an ENQUEUE of n bytes gets at a port (R203, R362); a fenced die answers nothing of its queues (R369). -/
def State.portStatus (s : State) (a n : Nat) : Nat :=
  match place a with
  | .queuePort d q off =>
    if off ≠ 0 ∨ 0x1000000 < n then stINVALID
    else if !s.dieRunning d then stUNREACHABLE
    else if s.flag Q_CFG_ENABLE d q && decide (n ≤ s.ringWords d q * 64) then stDONE
    else stNORES
  | _ => stINVALID

/-- Whether a pointer names the own package (R42). -/
def State.ptrOwn (s : State) (p : Word) : Bool :=
  ptrSpace p == 0 || (ptrSpace p == 1 && ptrDevice p == s.device)

/-- Whether a request breaks a rule of form (R42, R184, R197, R200, R203, R205). An update engine moves exactly the bytes of a
stream's block, which may be 4 (assumption 28). -/
def RemReq.malformed (r : RemReq) : Bool :=
  let sp := ptrSpace r.ptr
  let a := ptrAddr r.ptr
  let width := if r.w64 then 8 else 4
  let upd := match r.who with | .update _ _ => true | _ => false
  let mem := !upd && (r.ptr.toNat % 64 != 0 || r.loc % 64 != 0 || r.len % 64 != 0 || r.len == 0 || decide (0x400000000 < r.len))
  r.bad || (sp == 0 && ptrDevice r.ptr != 0) || (sp == 1 && decide (10240 ≤ ptrDevice r.ptr)) ||
  (match r.kind with
   | .put => mem || classBad r.cls
   | .get => mem || classBad r.cls
   | .move => mem || sp != 0
   | .reduce => sp != 1 || !(r.cls == 2 || r.cls == 3)
   | .enqueue => mem || decide (2 ≤ sp) || !(r.cls == 1 || r.cls == 4 || r.cls == 5) ||
       a % 0x100000 != 0 || decide (0x1000000 < r.len)
   | .atomic => decide (2 ≤ sp) || classBad r.cls || decide (7 < r.aop) || (r.aop == 7 && r.w64) || a % width != 0
   | .notify => decide (2 ≤ sp) || classBad r.cls || decide (7 < r.aop) || (r.aop == 7 && r.w64) || a % 8 != 0)

/-- Whether a requester is a tile queue. -/
def Requester.isCore : Requester → Bool
  | .core _ => true
  | _ => false

/-- Place of a requester in the round robin of R187. -/
def Requester.index : Requester → Nat
  | .core g => g
  | .mover c _ => 96 + c
  | .reduction _ => 104
  | .traverse _ => 105
  | .update j _ => 106 + j
  | .ring _ => 109
  | .switchback _ _ _ _ => 110
  | .event _ _ => 111

/-- Whether any unit of a request's operand is poisoned. -/
def RemReq.operandPois (r : RemReq) : Bool := r.operandMarks.any id

/-- Whether a request carries its bytes itself: a PUT of an update engine's block stage, or of an export
(R320, R322), or a dispatch packet (R376). -/
def RemReq.staged (r : RemReq) : Bool := decide (r.kind = .put ∨ r.kind = .enqueue) && !r.operand.isEmpty

/-- The status of a request's local side. -/
def State.localSide (s : State) (r : RemReq) : Nat :=
  if r.staged then stDONE else
  match r.kind with
  | .atomic => stDONE
  | .notify => stDONE
  | .reduce => stDONE
  | _ => s.regionStatus r.who.isCore r.loc r.len

/-- The queue whose read window a MOVE of a hint or descriptor names as its source (R361). -/
def RemReq.window (r : RemReq) : Option (Nat × Nat) := if r.kind = .move then readWindow (ptrAddr r.ptr) r.len else none

/-- The status of a request's target in the own package. -/
def State.ownTarget (s : State) (r : RemReq) : Nat :=
  let a := ptrAddr r.ptr
  match r.kind with
  | .enqueue => s.portStatus a r.len
  | .atomic => s.regionStatus r.who.isCore a (if r.w64 then 8 else 4)
  | .notify => s.regionStatus false a (if r.w64 then 8 else 4)
  | .reduce => stINVALID
  | _ =>
    match r.window with
    | some (qd, _) => if s.dieRunning qd then stDONE else stUNREACHABLE
    | none => s.regionStatus r.who.isCore a r.len

/-- The entry, VALID or LOST, that contains an extent whole (R179). -/
def State.rangeOf (s : State) (a n : Nat) : Option Nat :=
  (List.range 32).find? fun i =>
    s.rangeState i != 0 && decide (s.rangeBase i ≤ a ∧ a + n ≤ s.rangeBase i + s.rangeSize i)

/-- The status a SPACE 0b10 extent gets by the range table (R179). -/
def State.poolStatus (s : State) (a n : Nat) : Nat :=
  match s.rangeOf a n with
  | none => stINVALID
  | some i => if s.rangeState i = 2 then stUNREACHABLE else stDONE

/-- The status a request of die d gets at its source; DONE lets it go on (Table 7.7, R42, R209, R340). Where a SPACE 0b10 access ends here
the range table counts too (R27). -/
def State.sourceStatus (s : State) (d : Nat) (r : RemReq) : Nat :=
  if r.malformed then stINVALID
  else
    let sp := ptrSpace r.ptr
    let target :=
      if s.ptrOwn r.ptr then s.ownTarget r
      else if sp = 1 then
        (if s.jobPeer (ptrDevice r.ptr) && s.trailOf d (ptrDevice r.ptr) % 4 == 1 then stDONE else stUNREACHABLE)
      else if sp = 3 then (if s.flag HOST_BLK_STATUS_BOUND 0 0 then stDONE else stUNREACHABLE)
      else stDONE
    let coll := if s.collapseDiscards r.step r.cls then stCOLLAPSED else stDONE
    let st := statusMax (statusMax coll (s.localSide r)) target
    if sp = 2 ∧ st ≠ stDONE then statusMax st (s.poolStatus (ptrAddr62 r.ptr) r.len) else st

/-- Whether an access to a core's accumulator file or ledge waits for tile instructions that the core issued before it: local moves not yet
copied, what stands in the vector pipe, and accumulator-pipe instructions not yet started (R38, assumption 86). `by_` is a core whose own tile instruction it is. -/
def State.windowBusy (s : State) (by_ : Option Nat) (a : Nat) : Bool :=
  match windowCore a with
  | none => false
  | some k => by_ != some k && (!(s.core k).vec.isEmpty || ((s.core k).acc.any fun o => !o.begun) || (s.core k).moves.any fun m => !m.remote && !m.copied)

/-- Whether an access waits: at a Talus controller (Table 6.3, R166, R392), or for a tile-instruction boundary (R38). -/
def State.accessHeld (s : State) (a n : Nat) (write : Bool) : Bool := s.stackHeld a n write || s.windowBusy none a

/-! ### Requests in the own package -/

/-- Whether an engine's access from die d waits: at a controller, for a tile-instruction boundary, or for a path change (R31). -/
def State.engineHeld (s : State) (d a n : Nat) (write : Bool) : Bool := s.pairWaits d a || s.accessHeld a n write

/-- An engine of die d writes bytes at once, or once what holds them lets go; later accesses to their granules wait behind them (R31, R38,
R166, R175). -/
def State.post (s : State) (d unit a : Nat) (bs : List Byte) (ps : List Bool) : State :=
  if s.engineHeld d a bs.length true || s.behind a bs.length true then
    s.park (if s.pairWaits d a then [] else [(a, bs.length, true)]) (.store d unit a bs ps)
  else s.localWrite d unit a bs ps

/-- What a request touches in the own package: address, length, whether it writes. -/
def State.ownExtents (s : State) (r : RemReq) : List (Nat × Nat × Bool) :=
  let target (n : Nat) (write : Bool) : List (Nat × Nat × Bool) := if s.ptrOwn r.ptr then [(ptrAddr r.ptr, n, write)] else []
  let source : List (Nat × Nat × Bool) := if r.staged then [] else [(r.loc, r.len, false)]
  match r.kind with
  | .put => source ++ target r.len true
  | .get => (r.loc, r.len, true) :: target r.len false
  | .move => [(r.loc, r.len, true), (ptrAddr r.ptr, r.len, false)]
  | .enqueue => source
  | .reduce => []
  | _ => target (if r.w64 then 8 else 4) true ++ (if r.who.isCore && atomicFetches r.aop then [(r.taf, 8, true)] else [])

/-- Whether a request of die d waits for a path change (R31). -/
def State.pathHeld (s : State) (d : Nat) (r : RemReq) : Bool := (s.ownExtents r).any fun x => s.pairWaits d x.1

/-- Whether the reservation of an ENQUEUE to a queue of the own package waits for a path change (R31). -/
def State.doorWaits (s : State) (d : Nat) (r : RemReq) : Bool := s.ptrOwn r.ptr && s.pairWaits d (ptrAddr r.ptr)

/-- Whether the ring of a queue lies at a stack that holds accesses (Table 6.3). -/
def State.ringHeld (s : State) (d q : Nat) : Bool := s.accessHeld (s.getF Q_CFG_BASE d q * 4096) (s.ringWords d q * 64) true

/-- Whether an extent that a request of die d touches in the own package is held. -/
def State.requestHeld (s : State) (d : Nat) (r : RemReq) : Bool :=
  s.pathHeld d r || ((s.ownExtents r).any fun x => s.accessHeld x.1 x.2.1 x.2.2) ||
  (match r.window with | some (qd, q) => s.ringHeld qd q | none => false)

/-! ### Completion -/

/-- Replace the tracker entries of die d, with IN_USE and HIGH_WATER (Table 7.12). -/
def State.setEntries (s : State) (d : Nat) (es : List TrackEntry) : State :=
  let s1 := s.setTracker d { s.tracker d with entries := es }
  (s1.setF TRACKER_STATUS_IN_USE d 0 es.length).setF TRACKER_STATUS_HIGH_WATER d 0
    (max (s1.getF TRACKER_STATUS_HIGH_WATER d 0) es.length)

/-- Change one entry. -/
def State.updEntry (s : State) (d id : Nat) (f : TrackEntry → TrackEntry) : State :=
  s.setTracker d { s.tracker d with entries := (s.tracker d).entries.map fun e => if e.id = id then f e else e }

/-- A failure recorded in REMOTE_FAIL (R213). -/
def State.remoteFail (s : State) (d g : Nat) (r : RemReq) (status : Nat) : State :=
  let s1 :=
    if s.flag REMOTE_FAIL_VALID d g then s
    else (((s.setF REMOTE_FAIL_VALID d g 1).setF REMOTE_FAIL_CODE d g status).setF REMOTE_FAIL_OPC d g r.opc).setReg
      REMOTE_FAIL_PTR d g r.ptr
  s1.satF REMOTE_FAIL_COUNT d g 1

/-- Deliver a completion: a core's event counter and REMOTE_FAIL, a
descriptor's completion, or the list its own unit takes from (R211, R213). -/
def State.deliver (s : State) (d : Nat) (r : RemReq) (status : Nat) (data : List Byte) : State :=
  match r.who with
  | .core g =>
    let s1 := s.updCore d g fun c =>
      let c1 := { c with moves := c.moves.filter fun m => !(m.remote && m.uid == r.uid) }
      if r.ecEn then c1.addEc r.ec 1 else c1
    if status = stDONE then s1 else s1.remoteFail d g r status
  | .ring h => s.descDone h status (leNat data) 0
  | w => s.setTracker d { s.tracker d with done := (s.tracker d).done ++ [⟨w, status, data⟩] }

/-- The responses and landings that wait for entry `id` of die d are dropped with its operation. -/
def State.unpark (s : State) (d id : Nat) : State :=
  s.setArrivals (s.arrivals.filter fun w =>
    match w.what with
    | .own e i _ => !(e == d && i == id)
    | .response e i _ _ _ _ _ => !(e == d && i == id)
    | .landing e i _ _ _ _ => !(e == d && i == id)
    | _ => true)

/-- End the operation of entry `id`: its status of highest precedence with `status`, the entry freed, the completion
delivered. -/
def State.finish (s : State) (d id status : Nat) (data : List Byte) : State :=
  match (s.tracker d).entries.find? fun e => e.id == id with
  | none => s
  | some e =>
    let s1 := (s.unpark d id).setEntries d ((s.tracker d).entries.filter fun x => x.id != id)
    s1.deliver d e.req (statusMax e.status status) data

/-- SEG64 of the completion of an operation in flight to the host or a pooled range, in the list of responses that come late. -/
def hostSeg : Nat := 0x10000000
/-- SEG64, in that list, of the answer of a queue of the own package to an own producer. -/
def doorSeg : Nat := 0x10000001

/-- The responses that an operation in flight still waits for. -/
def State.unanswered (s : State) (e : TrackEntry) : List (Nat × Nat × Nat) :=
  match e.phase with
  | .sent => if e.req.kind = .enqueue ∧ s.ptrOwn e.req.ptr then [(e.id, e.req.step, doorSeg)] else ((List.range e.total).filter fun i => !e.answered.contains i).map fun i => (e.id, e.req.step, i * 64)
  | .reserving => [(e.id, e.req.step, if s.ptrOwn e.req.ptr then doorSeg else 0x0FFFFFFF)]
  | .granted => if s.ptrOwn e.req.ptr then [(e.id, e.req.step, doorSeg)] else []
  | .host => [(e.id, e.req.step, hostSeg)]
  | .uio _ _ => [(e.id, e.req.step, hostSeg)]
  | _ => []

/-- An operation ends before its responses: those that come later will be discarded (R188, R212). -/
def State.abandon (s : State) (d id status : Nat) : State :=
  match (s.tracker d).entries.find? fun e => e.id == id with
  | none => s
  | some e => (s.setTracker d { s.tracker d with late := (s.tracker d).late ++ s.unanswered e }).finish d id status []

/-- A response that no operation awaits any more: it is discarded, and its entry number is free again (R188, R212). -/
def State.dropLate (s : State) (d : Nat) (l : Nat × Nat × Nat) : State :=
  s.setTracker d { s.tracker d with late := (s.tracker d).late.erase l }

/-- A queue of the own package answers an own producer: its ENQUEUE ends, unless it ended before (R204, R364). -/
def State.answerOwn (s : State) (d id step status : Nat) : State :=
  if (s.tracker d).late.contains (id, step, doorSeg) then s.dropLate d (id, step, doorSeg) else s.finish d id status []

/-- Take the first completion that waits for a requester satisfying p. -/
def State.takeDone (s : State) (d : Nat) (p : Requester → Bool) : Option (RemDone × State) :=
  match (s.tracker d).done.find? fun x => p x.who with
  | none => none
  | some x => some (x, s.setTracker d { s.tracker d with done := (s.tracker d).done.erase x })

/-! ### Effects in the own package -/

/-- Copy n bytes with their poison; the status is POISONED where any word was poisoned (R197). -/
def State.copyBytes (s : State) (src dst n : Nat) : State × Nat :=
  let t := (s.meetErrs src n false).meetErrs dst n true
  (t.writeMarked dst (t.bytes src n) (t.marks src n), if t.poisoned src n then stPOISONED else stDONE)

/-- The words of a queue's read window move to memory (R357, R361, R365). -/
def State.copyWords (s : State) (unit d q dst n : Nat) : State × Nat :=
  let r := s.readQueueWords d q (n / 64)
  (r.1.localWrite d unit dst r.2.1 r.2.2, if r.2.2.any id then stPOISONED else stDONE)

/-- The 8 bytes that FETCH_ADD and CSWAP write at TAF (R201). -/
def State.writeFetched (s : State) (d : Nat) (r : RemReq) (old : Nat) : State :=
  if r.who.isCore && atomicFetches r.aop then s.localWrite d r.who.index r.taf (leBytes 8 old) [] else s

/-- Perform a request whose target is the own package (R42), and complete it. -/
def State.performOwn (fire : FireFn) (s : State) (d : Nat) (e : TrackEntry) : State :=
  let r := e.req
  let a := ptrAddr r.ptr
  match r.kind with
  | .put =>
    if r.staged then
      (s.localWrite d r.who.index a r.operand r.operandMarks).finish d e.id (if r.operandPois then stPOISONED else stDONE) []
    else let x := s.copyBytes r.loc a r.len; x.1.finish d e.id x.2 []
  | .get => let x := s.copyBytes a r.loc r.len; x.1.finish d e.id x.2 []
  | .move =>
    let x := match r.window with
      | some (qd, q) => s.copyWords r.who.index qd q r.loc r.len
      | none => s.copyBytes a r.loc r.len
    x.1.finish d e.id x.2 []
  | .enqueue => s
  | .reduce => s
  | _ =>
    if r.operandPois then s.finish d e.id stPOISONED []
    else
      let x := s.atomicAt fire a r.aop r.w64 r.operand
      let s1 := if x.2.2 = stDONE then x.1.writeFetched d r x.2.1 else x.1
      s1.finish d e.id x.2.2 (if x.2.2 = stDONE ∧ atomicFetches r.aop then leBytes 8 x.2.1 else [])

/-! ### Sending -/

/-- Header OP of a request (Table 7.2). -/
def RemKind.op : RemKind → Nat
  | .put => 1
  | .get => 2
  | .atomic => 3
  | .reduce => 4
  | .enqueue => 5
  | .notify => 6
  | .move => 0

/-- Segments of an operation (R189). -/
def segCount (len : Nat) : Nat := max 1 ((len + 4095) / 4096)

/-- LEN64 of an operation. -/
def RemReq.len64 (r : RemReq) : Nat := r.len / 64 - 1

/-- The header of a segment at offset seg (R189). -/
def State.header (s : State) (d : Nat) (e : TrackEntry) (last pois : Bool) (seg : Nat) : Header :=
  let r := e.req
  ⟨r.kind.op, r.cls, r.fence, pois, r.w64, last, r.job, hostOf s.device d, ptrDevice r.ptr, e.id,
   (match r.kind with | .atomic => r.aop | .notify => r.aop | _ => 0),
   (if r.kind = .reduce then s.getF EPOCH_EPOCH 0 0 else 0), r.step, 0, ptrAddr r.ptr, r.len64, seg⟩

/-- The payload of segment i with the marks of its 4-byte units (R189, R197, R200). -/
def State.segPayload (s : State) (e : TrackEntry) (i : Nat) : List Byte × List Bool :=
  let r := e.req
  let n := min 4096 (r.len - i * 4096)
  match r.kind with
  | .get => ([], [])
  | .atomic => (r.operand, r.operandMarks)
  | .notify => (r.operand, r.operandMarks)
  | .reduce => ((r.operand.drop (i * 4096)).take n, (r.operandMarks.drop (i * 1024)).take ((n + 3) / 4))
  | _ =>
    if r.staged then ((r.operand.drop (i * 4096)).take n, (r.operandMarks.drop (i * 1024)).take ((n + 3) / 4))
    else (s.bytes (r.loc + i * 4096) n, s.marks (r.loc + i * 4096) n)

/-- Send segment i of an operation. -/
def State.sendSegment (s : State) (d : Nat) (e : TrackEntry) (i : Nat) : State :=
  let p := s.segPayload e i
  s.sendPacket .request d (s.header d e (decide (i + 1 = e.total)) (p.2.any id) (i * 64)) p.1 p.2

/-- Send every segment; the deadline runs from the first (R212). -/
def State.sendSegments (s : State) (d : Nat) (e : TrackEntry) : State :=
  let s1 := (if e.req.staged ∨ (e.req.kind ≠ .put ∧ e.req.kind ≠ .enqueue) then s else s.meetErrs e.req.loc e.req.len false).updEntry d e.id fun x =>
    { x with phase := .sent, deadline := s.fabricNow + x.limit * 1000 }
  (List.range e.total).foldl (fun u i => u.sendSegment d e i) s1

/-- A reservation reaches queue q of die qd of this package (R362): listed, answered NO_RESOURCE, or refused back. -/
inductive ReserveAnswer where
  | listed (s : State)
  | status (code : Nat)
  | refused (s : State)

/-- List a reservation, or refuse it. -/
def State.reserve (s : State) (qd : Nat) (x : QReserve) : ReserveAnswer :=
  if !s.flag Q_CFG_ENABLE qd x.queue then .status stNORES
  else if s.ringWords qd x.queue < x.words then .status stNORES
  else if 1024 ≤ (s.reserveList qd).length then .refused (s.addF RES_REFUSED_COUNT qd 0 1)
  else .listed (s.setReserveList qd (s.reserveList qd ++ [x]))

/-- Send the reservation of an ENQUEUE (R362). -/
def State.sendReservation (s : State) (d : Nat) (e : TrackEntry) : State :=
  let r := e.req
  if s.ptrOwn r.ptr then
    match place (ptrAddr r.ptr) with
    | .queuePort qd q _ =>
      match s.reserve qd ⟨q, s.device, d, r.cls, e.id, r.step, r.len / 64, true, s.reg COULOIR_EXPERT qd 0⟩ with
      | .listed t => t.updEntry d e.id fun x => { x with phase := .reserving }
      | .status c => s.finish d e.id c []
      | .refused t => t.updEntry d e.id fun x => { x with phase := .refused (s.fabricNow + 10000) }
    | _ => s.finish d e.id stINVALID []
  else
    (s.updEntry d e.id fun x => { x with phase := .reserving }).sendPacket .reserve d (s.header d e true false 0x0FFFFFFF) [] []

/-- Whether an earlier reservation of the die to the same queue was refused back and has not been sent again (R362). -/
def State.refusedAhead (s : State) (d : Nat) (e : TrackEntry) : Bool :=
  (s.tracker d).entries.any fun x =>
    decide (x.order < e.order) && decide (x.req.kind = .enqueue) && x.req.ptr == e.req.ptr &&
    (match x.phase with | .refused _ => true | .behind => true | _ => false)

/-- Whether an operation to a package has not left its source yet: it waits there for a FENCE, a controller, or queue credits. -/
def RemPhase.kept : RemPhase → Bool
  | .fenced => true
  | .held => true
  | .reserving => true
  | .granted => true
  | .refused _ => true
  | .behind => true
  | _ => false

/-- Whether an earlier operation of the die to the same package and class has not left its source yet (R192). -/
def State.heldAhead (s : State) (d : Nat) (e : TrackEntry) : Bool :=
  (s.tracker d).entries.any fun x =>
    decide (x.order < e.order) && x.phase.kept && x.req.cls == e.req.cls && decide (ptrSpace x.req.ptr < 2 ∧ ptrSpace e.req.ptr < 2) &&
    (if s.ptrOwn x.req.ptr then s.ptrOwn e.req.ptr else !s.ptrOwn e.req.ptr && x.dest == e.dest)

/-- The bytes that a PUT to the host or the pooled tier carries, with the marks of their units; none for a GET (R42, R197). -/
def State.putBytes (s : State) (r : RemReq) : List Byte × List Bool :=
  if r.kind ≠ .put then ([], [])
  else if r.staged then (r.operand, r.operandMarks)
  else (s.bytes r.loc r.len, s.marks r.loc r.len)

/-- Send an admitted operation that no FENCE holds back. A PUT to the host whose source reads as poison completes POISONED (R197). -/
def State.sendEntry (fire : FireFn) (s : State) (d : Nat) (e : TrackEntry) : State :=
  let r := e.req
  let st := s.sourceStatus d r
  if st ≠ stDONE then s.finish d e.id st []
  else if r.kind = .enqueue then
    if s.doorWaits d r then (s.updEntry d e.id fun x => { x with phase := .held }).park [] (.own d e.id e.order)
    else if s.refusedAhead d e then s.updEntry d e.id fun x => { x with phase := .behind }
    else s.sendReservation d e
  else if s.requestHeld d r || s.heldAhead d e then
    (s.updEntry d e.id fun x => { x with phase := .held }).park
      (if s.pathHeld d r || s.heldAhead d e then [] else s.ownExtents r) (.own d e.id e.order)
  else if s.ptrOwn r.ptr then s.performOwn fire d e
  else if ptrSpace r.ptr = 1 then s.sendSegments d e
  else if ptrSpace r.ptr = 2 then s.updEntry d e.id fun x => { x with phase := .camp }
  else
    let t := if r.kind = .put ∧ !r.staged then s.meetErrs r.loc r.len false else s
    let p := t.putBytes r
    (t.updEntry d e.id fun x => { x with
      phase := .host
      deadline := s.fabricNow + x.limit * 1000
      status := if p.2.any id then statusMax x.status stPOISONED else x.status }).emit .hostRequest e.id
      ([d, r.kind.op, ptrAddr62 r.ptr, r.len] ++ poisonedUnits p.2) p.1

/-! ### Admission (R185 to R188, R194) -/

/-- Entries that requesters other than management may hold (R186). -/
def State.trackerRoom (s : State) (d : Nat) : Nat := 4096 - s.getF REMOTE_EXPERT_MGMT_RESERVE d 0

/-- Whether an entry number is free for an operation with a step tag: no operation holds it, and no late response could be taken for
the new one's (R212). -/
def Tracker.idFree (t : Tracker) (step i : Nat) : Bool :=
  t.entries.all (fun e => e.id != i) && t.late.all fun l => l.1 != i || (l.2.1 != step && l.2.2 != hostSeg)

/-- The lowest entry number that is free. -/
def Tracker.freeId (t : Tracker) (step : Nat) : Nat :=
  ((List.range 4096).find? (t.idFree step)).getD
    (((List.range 4096).find? fun i => t.entries.all fun e => e.id != i).getD 0)

/-- Whether an operation has not been sent yet. -/
def RemPhase.unsent (p : RemPhase) : Bool := p.kept || decide (p = .camp)

/-- Whether an operation must wait behind a FENCE (R194): its own, behind every earlier one; an earlier one's until it is sent; and behind
what waits so already. -/
def Tracker.fenced (t : Tracker) (r : RemReq) (order : Nat) : Bool :=
  t.entries.any fun e => decide (e.order < order) && decide (e.req.who = r.who) &&
    (r.fence || decide (e.phase = .fenced) || (e.req.fence && e.phase.unsent))

/-- Admit a request to an entry, and send it unless a FENCE holds it. -/
def State.admitRemote (fire : FireFn) (s : State) (d : Nat) (r : RemReq) : State :=
  let t := s.tracker d
  let hold := r.who.isCore && t.fenced r t.orders
  let e : TrackEntry := ⟨t.freeId r.step, r, t.orders, if hold then .fenced else .sent, segCount r.len, [], stDONE, 0,
    ptrDevice r.ptr, s.getF REMOTE_EXPERT_TIMEOUT_US d 0⟩
  let s1 := (s.setTracker d { t with orders := t.orders + 1 }).setEntries d (t.entries ++ [e])
  if hold then s1 else s1.sendEntry fire d e

/-- A requester asks for an entry: admitted, or it waits for a grant (R187). -/
def State.remoteIssue (fire : FireFn) (s : State) (d : Nat) (r : RemReq) : State :=
  let t := s.tracker d
  if t.waiters.isEmpty && decide (t.entries.length < s.trackerRoom d) then s.admitRemote fire d r
  else s.setTracker d { t with waiters := t.waiters ++ [r] }

/-- Steps from the round-robin position to a requester. -/
def Tracker.distance (t : Tracker) (r : RemReq) : Nat := (r.who.index + 112 - t.turn % 112) % 112

/-- The waiting request that is granted next. -/
def Tracker.nextWaiter (t : Tracker) : Option RemReq :=
  t.waiters.foldl (fun best r =>
    match best with
    | none => some r
    | some b => if t.distance r < t.distance b then some r else some b) none

/-! ### Segments at the target -/

/-- Perform a segment whose checks passed: state, response status, response data with its poison. -/
def State.performSegment (fire : FireFn) (s : State) (op : Nat) (g : Segment) : State × Nat × List Byte × List Bool :=
  let a := g.address + g.seg64 * 64
  let len := (g.len64 + 1) * 64
  match op with
  | 1 =>
    let s1 := (s.meetErrs a g.payload.length true).writeMarked a g.payload g.marks
    (s1, if g.marks.any id then stPOISONED else stDONE, [], [])
  | 2 =>
    let n := min 4096 (len - g.seg64 * 64)
    let t := s.meetErrs a n false
    (t, if t.poisoned a n then stPOISONED else stDONE, t.bytes a n, t.marks a n)
  | _ =>
    if g.marks.any id then (s, stPOISONED, [], [])
    else
      let x := s.atomicAt fire g.address g.aop g.w64 g.payload
      (x.1, x.2.2, if x.2.2 = stDONE ∧ atomicFetches g.aop then leBytes 64 x.2.1 else [], [])

/-- The die of this package that a packet for an address goes to (R225). -/
def addressDie (a : Nat) : Nat := (place a).die

/-- Whether a GET or a fetching atomic: answered with DATA (R190). -/
def answersData (op : Nat) (g : Segment) : Bool :=
  op == 2 || ((op == 3 || op == 6) && atomicFetches g.aop)

/-- Die d answers a segment (R190). -/
def State.answerAt (s : State) (d op : Nat) (g : Segment) (status : Nat) (data : List Byte) (marks : List Bool) : State :=
  s.sendPacket .response d ((g.head op s.device).reply (answersData op g) s.job status (marks.any id)) data marks

/-- The die of a segment's address answers it. -/
def State.answer (s : State) (op : Nat) (g : Segment) (status : Nat) (data : List Byte) (marks : List Bool) : State :=
  s.answerAt (addressDie g.address) op g status data marks

/-- A refusal by job at die d (R209). -/
def State.jobRejectAt (s : State) (d : Nat) (g : Segment) : State :=
  let s1 := s.addF JOB_REJECT_COUNT_COUNT d 0 1
  if s1.flag REMOTE_EXPERT_RECORD_JOB_REJECT d 0 then s1.raise 0 0x20 d 0 0 (g.srcDev + g.srcDie * 16384) g.job 0 else s1

/-- A refusal by job (R209). -/
def State.jobReject (s : State) (g : Segment) : State := s.jobRejectAt (addressDie g.address) g

/-- The status a segment gets for its form and its extent. -/
def State.segmentForm (s : State) (op : Nat) (g : Segment) : Nat :=
  let width := if g.w64 then 8 else 4
  let bad :=
    classBad g.cls ||
    (match op with
     | 3 => decide (7 < g.aop) || (g.aop == 7 && g.w64) || g.address % width != 0
     | 6 => decide (7 < g.aop) || (g.aop == 7 && g.w64) || g.address % 8 != 0 ||
         (match place g.address with | .flagWord _ _ _ => false | _ => true)
     | _ => g.address % 64 != 0)
  if bad then stINVALID
  else
    let n := if op = 3 ∨ op = 6 then width else (g.len64 + 1) * 64
    s.regionStatus false g.address n

/-- The status a segment gets before it is performed. -/
def State.segmentStatus (s : State) (op : Nat) (g : Segment) : Nat :=
  statusMax (if s.collapseDiscards g.step g.cls then stCOLLAPSED else stDONE) (s.segmentForm op g)

/-- A request segment of PUT, GET, ATOMIC or NOTIFY is taken (R27, R190, R198, R209, R340). `op` is its header OP. -/
def State.segmentArrive (fire : FireFn) (s : State) (op : Nat) (g : Segment) : State :=
  if g.job ≠ s.job ∨ s.job = 0 then (s.jobReject g).answer op g (statusMax stUNREACHABLE (s.segmentForm op g)) [] []
  else
    let st := s.segmentStatus op g
    if st ≠ stDONE then s.answer op g st [] []
    else
      let x := s.performSegment fire op g
      x.1.answer op g x.2.1 x.2.2.1 x.2.2.2

/-! ### Packets that wait at the target -/

/-- Whether a request waits behind one of its source die and class that waits already (R192). -/
def State.queuedBehind (s : State) (g : Segment) : Bool :=
  s.arrivals.any fun w =>
    match w.what with
    | .segment _ h => h.srcDev == g.srcDev && h.srcDie == g.srcDie && h.cls == g.cls
    | .enqueue _ h => h.srcDev == g.srcDev && h.srcDie == g.srcDie && h.cls == g.cls
    | .reduce _ _ h => h.srcDev == g.srcDev && h.srcDie == g.srcDie && h.cls == g.cls
    | _ => false

/-- A request segment meets the package: nothing answers in Refuge, in reset or once stopped; in Bivouac it wakes the package or is answered
UNREACHABLE (R460); while the package leaves Bivouac, behind earlier ones (R192), or where its extents `ext` are held, it waits as `what`; else
it goes on, and the answer's second part says so. `d` answers. -/
def State.meet (s : State) (d op : Nat) (g : Segment) (what : Arrival) (ext : List (Nat × Nat × Bool)) : State × Bool :=
  let st := s.getF STATE_STATUS_STATE 0 0
  if st = 5 ∨ st = 6 ∨ s.power.stopped.isSome ∨ s.power.inReset then (s, false)
  else if st = 2 ∧ !s.wakesOn STATE_EXPERT_WAKE_ON_REQUEST then (s.answerAt d op g stUNREACHABLE [] [], false)
  else
    let s1 := if st = 2 then s.setF STATE_STATUS_STATE 0 0 3 else s
    if st = 2 ∨ st = 3 ∨ s.queuedBehind g then (s1.park [] what, false)
    else if ext.any fun x => s.accessHeld x.1 x.2.1 x.2.2 then (s1.park ext what, false)
    else (s1, true)

/-- What a segment of header OP op touches where it is performed. -/
def State.segExtents (s : State) (op : Nat) (g : Segment) : List (Nat × Nat × Bool) :=
  let n := if op = 3 ∨ op = 6 then (if g.w64 then 8 else 4) else (g.len64 + 1) * 64
  if g.job == s.job && s.job != 0 && s.segmentStatus op g == stDONE then [(g.address, n, op != 2)] else []

/-- A request segment of PUT, GET, ATOMIC or NOTIFY arrives. -/
def State.arrive (fire : FireFn) (s : State) (op : Nat) (g : Segment) : State :=
  let m := s.meet (addressDie g.address) op g (.segment op g) (s.segExtents op g)
  if m.2 then m.1.segmentArrive fire op g else m.1

/-- Operations of die d end early with a status. -/
def State.endWhere (s : State) (d status : Nat) (p : TrackEntry → Bool) : State :=
  ((s.tracker d).entries.filter p).foldl (fun u e => u.abandon d e.id status) s

/-- Requests of die d that wait for an entry end with a status (R187). -/
def State.dropWaiters (s : State) (d : Nat) (p : RemReq → Bool) (status : Nat) : State :=
  ((s.tracker d).waiters.filter p).foldl (fun u r => u.deliver d r status [])
    (s.setTracker d { s.tracker d with waiters := (s.tracker d).waiters.filter fun r => !p r })

/-- Accesses in flight to departed devices complete UNREACHABLE (R178). -/
def State.endDeparted (s : State) (gone : List Nat) : State :=
  (List.range 4).foldl (fun u d => u.endWhere d stUNREACHABLE fun e =>
    ptrSpace e.req.ptr == 1 && !u.ptrOwn e.req.ptr && gone.contains e.dest) s

/-- A core reset (R85, R466, Table 18.3): the Spur core stops, its queue is discarded, counters, TA registers, vector
registers and CSRs return to 0; its remote operations end ABORTED first, so that no trace of that stays in the registers that the reset
clears (assumption 91). Memory keeps its contents, and what its own moves and loads waited for is dropped. -/
def State.resetCore (s : State) (d g : Nat) : State :=
  let mine (r : RemReq) : Bool := decide (r.who = .core g)
  let s0 := s.setArrivals (s.arrivals.filter fun w => match w.what with
    | .move e k _ => !(e == d && k == g)
    | .spur e k => !(e == d && k == g)
    | _ => true)
  let s1 := (s0.dropWaiters d mine stABORTED).endWhere d stABORTED fun e => mine e.req
  (s1.setCore (globalCore d g) Core.zero).resetCoreRegs d g

/-! ### Answers at the source -/

/-- The bytes of an answered segment are written at the source: a GET's with their poison; an old value at TAF once DONE
(R197, R201, R202). -/
def State.takeAnswer (s : State) (d : Nat) (e : TrackEntry) (seg64 status : Nat) (data : List Byte) (marks : List Bool) : State :=
  let r := e.req
  match r.kind with
  | .get => if status = stDONE ∨ status = stPOISONED then s.localWrite d r.who.index (r.loc + seg64 * 64) data marks else s
  | .atomic => if status = stDONE then s.writeFetched d r (leNat (data.take 8)) else s
  | .notify => if status = stDONE then s.writeFetched d r (leNat (data.take 8)) else s
  | _ => s

/-- The status that n answered bytes leave where they land at a: a GET whose local extent no longer answers takes that extent's status
(R39, R40, R191). -/
def State.landStatus (s : State) (r : RemReq) (a n status : Nat) : Nat :=
  if r.kind = .get ∧ (status = stDONE ∨ status = stPOISONED) then statusMax status (s.extentReach a n).status else status

/-- Where the bytes of an answered segment land at the source: a GET's, or an old value at TAF. -/
def RemReq.landing (r : RemReq) (seg64 n : Nat) : List (Nat × Nat × Bool) :=
  if r.kind = .get then [(r.loc + seg64 * 64, n, true)]
  else if (r.kind = .atomic ∨ r.kind = .notify) ∧ r.who.isCore ∧ atomicFetches r.aop then [(r.taf, 8, true)] else []

/-- The response to segment seg64 / 64 of an operation in flight, unless it was answered before; it waits where the operation's local
extent is held (R175, R190). -/
def State.landResponse (s : State) (d id step seg64 status : Nat) (data : List Byte) (marks : List Bool) : State :=
  match (s.tracker d).entries.find? fun e => e.id == id with
  | none => s
  | some e =>
    if e.phase ≠ .sent ∨ (e.req.kind = .enqueue ∧ s.ptrOwn e.req.ptr) ∨ e.req.step ≠ step ∨ seg64 % 64 ≠ 0 ∨ e.total ≤ seg64 / 64 ∨ e.answered.contains (seg64 / 64) then s
    else if (e.req.landing seg64 data.length).any fun x => s.accessHeld x.1 x.2.1 x.2.2 then
      s.park (e.req.landing seg64 data.length) (.response d id step seg64 status data marks)
    else
      let st := s.landStatus e.req (e.req.loc + seg64 * 64) data.length status
      let s1 := (s.takeAnswer d e seg64 status data marks).updEntry d id fun x =>
        { x with answered := x.answered ++ [seg64 / 64], status := statusMax x.status st }
      if e.answered.length + 1 = e.total then
        s1.finish d id stDONE (if atomicFetches e.req.aop ∧ status = stDONE then data.take 8 else [])
      else s1

/-- A pooled range or the host answers an operation whole with a status: a GET's bytes land, at once or when their extent is held no longer
(R175), and the operation ends. -/
def State.landData (s : State) (d id order status : Nat) (data : List Byte) (marks : List Bool) : State :=
  match (s.tracker d).entries.find? fun e => e.id == id && e.order == order with
  | none => s
  | some e =>
    if e.req.kind ≠ .get ∨ !(status = stDONE ∨ status = stPOISONED) then s.finish d id status []
    else if s.accessHeld e.req.loc data.length true then
      (s.updEntry d id fun x => { x with phase := .landing }).park [(e.req.loc, data.length, true)] (.landing d id order status data marks)
    else (s.localWrite d e.req.who.index e.req.loc data marks).finish d id (s.landStatus e.req e.req.loc data.length status) []

end Sys2Proof.Machine
end

