-- ==== Sys2Proof/Machine/TravRows.lean ====
section
/-!
DEFINITION. Dispatch packets of the traverse engines: capacities, records, and how a packet's segments are formed from the descriptor's arrays
(R376 to R379).
-/
namespace Sys2Proof.Machine

open Sys2Proof

def State.traverse (s : State) (d : Nat) : Traverse := kget Traverse.zero s.traverses d

/-- The engine of die d with TRAV_TAIL's OPEN and IN_PROGRESS. -/
def State.setTraverse (s : State) (d : Nat) (x : Traverse) : State :=
  let s1 := { s with traverses := kset Traverse.zero s.traverses d x }
  (s1.setF TRAV_TAIL_OPEN d 0 x.batches.length).setF TRAV_TAIL_IN_PROGRESS d 0
    ((x.batches.filter fun b => b.completed.isNone).length + x.combines.length)

/-- Largest record count of a packet. -/
def travFit (row : Nat) : Nat := (16777216 - 64) / (64 + row)

/-- Capacity of an expert. -/
def State.travCapacity (s : State) (x : TravDesc) (e : Nat) : Nat := s.readN (x.cap + 2 * e) 2

/-- cap[e] of R377. -/
def State.travCap (s : State) (x : TravDesc) (e : Nat) : Nat := min (s.travCapacity x e) (travFit x.row)

/-- CAP of a packet's header: no limit where the capacity is 0xFFFF and cap[e] equals fit (Table 14.3). -/
def State.travCapWord (s : State) (x : TravDesc) (e : Nat) : Nat :=
  if s.travCapacity x e = 0xFFFF ∧ s.travCap x e = travFit x.row then 0xFFFFFFFF else s.travCap x e

/-! ### Packets (R376, R378, R379) -/

/-- Elements of a format code scaled by a weight, each rounded once (R378): bytes and flags. -/
def scaleRow (fmt w : Nat) (bs : List Byte) : List Byte × Nat :=
  let n := codeWidth fmt / 8
  let f := codeFmt fmt
  let ys := (chunk n (bs.length / n) bs).map fun e => f.finish (numMul (fp32.decode w) (f.decode (leNat e)))
  (ys.flatMap fun y => leBytes n y.1, (ys.map (·.2)).foldl (· ||| ·) 0)

/-- One record: token header (Table 14.4) and row, with the poison marks of its units; flags. A poisoned position entry marks the header. -/
def State.travRecord (s : State) (x : TravDesc) (r : TravRec) : List Byte × List Bool × Nat :=
  let posEn := x.flags.testBit 3
  let pos := if posEn then s.found (x.pos + 8 * r.tok) 8 else (List.replicate 8 0, [])
  let p := leNat pos.1
  let row := s.found (x.rows + r.tok * x.row) x.row
  let bad := row.2.any id
  let y := if x.flags.testBit 1 then scaleRow x.fmt r.weight row.1 else (row.1, 0)
  (leBytes 4 (r.tok * 8 + r.rank) ++ leBytes 4 (p % 2 ^ 18) ++ leBytes 4 (p / 2 ^ 32) ++ leBytes 4 r.weight ++
   leBytes 2 r.expert ++ leBytes 2 (b2n r.rerouted) ++ List.replicate 44 0 ++ y.1,
   List.replicate 16 (pos.2.any id) ++ List.replicate (x.row / 4) bad, y.2)

/-- The header word of a dispatch packet (Table 14.3). -/
def State.travHeader (s : State) (d : Nat) (x : TravDesc) (e cap count : Nat) : List Byte :=
  leBytes 1 1 ++ leBytes 1 x.fmt ++ leBytes 2 x.batch ++ leBytes 4 count ++ leBytes 4 cap ++ leBytes 4 x.row ++ leBytes 2 e ++
  leBytes 2 (s.device + d * 16384) ++ leBytes 1 x.retQ ++ leBytes 1 x.retFmt ++ leBytes 2 0 ++ leBytes 4 x.retRow ++
  List.replicate 36 0

/-- The dispatch packet that a request of die d carries, with its DISPATCH. -/
def State.dispatchOf (s : State) (d : Nat) (r : RemReq) : Option (TravDesc × TravPacket) :=
  match r.who with
  | .traverse n => (s.traverse d).batches.findSome? fun b =>
      (b.packets.find? fun p => p.op == n && p.status.isNone).map fun p => (b.desc, p)
  | _ => none

/-- What the segments of a dispatch packet are formed from: its rows and position entries (R376). -/
def State.gatherExtents (s : State) (d : Nat) (r : RemReq) : List (Nat × Nat × Bool) :=
  match s.dispatchOf d r with
  | none => []
  | some (x, k) => k.recs.flatMap fun c =>
      (x.rows + c.tok * x.row, x.row, false) :: if x.flags.testBit 3 then [(x.pos + 8 * c.tok, 8, false)] else []

/-- A dispatch packet's segments are formed directly from the descriptor's arrays, when they are sent (R376, R378); other operations stand as
they are. -/
def State.gather (s : State) (d : Nat) (e : TrackEntry) : State × TrackEntry :=
  match s.dispatchOf d e.req with
  | none => (s, e)
  | some (x, k) =>
    let t := (s.gatherExtents d e.req).foldl (fun u a => u.look d 105 a.1 a.2.1) s
    let parts := k.recs.map (t.travRecord x)
    let fl := (parts.map (·.2.2)).foldl (· ||| ·) 0
    (t.orFlags DIE_ENGINE_FLAGS_TRAV d 0 0 6 fl, { e with req := { e.req with
      operand := t.travHeader d x k.expert k.capWord k.recs.length ++ parts.flatMap (·.1)
      operandMarks := List.replicate 16 false ++ parts.flatMap (·.2.1) } })

end Sys2Proof.Machine
end

