-- ==== Sys2Proof/Machine/EnqOps.lean ====
section
/-!
DEFINITION. Couloir queues as shared operations (R362 to R364, R369): grants, landing segments, commit and visibility,
rewinds, the discards of a collapse and of a die reset.
-/
namespace Sys2Proof.Machine

open Sys2Proof

/-- The header of an ENQUEUE's reservation or segment as queue q of die d keeps it. -/
def enqHead (d q dst cls srcDev srcDie tag step words seg : Nat) : Header :=
  ⟨5, cls, false, false, false, true, 0, hostOf srcDev srcDie, dst, tag, 0, 0, step, 0,
   0x800000000000 + d * 0x10000000 + q * 0x100000, words - 1, seg⟩

/-- Answer one segment of a packet's ENQUEUE, or its reservation: an own producer's operation ends, another gets an ACK (R190, R204). -/
def State.enqAnswer (s : State) (d q : Nat) (own : Bool) (cls srcDev srcDie tag step words seg status : Nat) : State :=
  if own then s.answerOwn srcDie tag step status
  else
    s.sendPacket .response d ((enqHead d q s.device cls srcDev srcDie tag step words seg).reply false s.job status false) [] []

/-- Answer a pending reservation (R362). -/
def State.answerReserve (s : State) (d : Nat) (r : QReserve) (status : Nat) : State :=
  s.enqAnswer d r.queue r.own r.cls r.srcDev r.srcDie r.tag r.step r.words 0x0FFFFFFF status

/-- SEG64 of the last segment of a packet of n words. -/
def lastSeg (words : Nat) : Nat := (words - 1) / 64 * 64

/-- Answer a segment of a granted packet. -/
def State.answerPacket (s : State) (d q : Nat) (p : QPacket) (seg status : Nat) : State :=
  s.enqAnswer d q p.own p.cls p.srcDev p.srcDie p.tag p.step p.words seg status

/-- Packets become visible in grant order once committed (R363); the ACK of the last segment follows. -/
def State.visiblePass (s : State) (d q : Nat) : Nat → State
  | 0 => s
  | fuel + 1 =>
    match (s.queue d q).packets.find? fun p => !decide (p.phase = .visible) with
    | none => s
    | some p =>
      if p.phase = .committed then
        let x := s.queue d q
        let mark (y : QPacket) : QPacket := if y = p then { y with phase := .visible } else y
        let s1 := s.setQueue d q { x with packets := x.packets.map mark }
        State.visiblePass (s1.answerPacket d q p (lastSeg p.words) stDONE) d q fuel
      else s

/-- Every packet of queue q that may become visible does. -/
def State.showVisible (s : State) (d q : Nat) : State := s.visiblePass d q ((s.queue d q).packets.length + 1)

/-- Segments of a packet that have not landed. -/
def QPacket.left (p : QPacket) : Nat := (p.words + 63) / 64 - p.landed.length

/-- A granted packet leaves its queue (R364): its space is freed, its later segments will be answered `status`; a last segment that has
landed is answered so at once (R204); an own producer's ENQUEUE ends with it. -/
def State.unwind (s : State) (d q : Nat) (p : QPacket) (status : Nat) : State :=
  let x := s.queue d q
  let s1 := s.setQueue d q { x with
    packets := x.packets.filter (· != p)
    rewound := if p.own || p.left == 0 then x.rewound else x.rewound ++ [(p.srcDev, p.srcDie, p.tag, status, p.left)] }
  let s2 := s1.satF Q_REWINDS_REWINDS d q 1
  let s3 := if p.record then
      s2.raise 0 0x33 d q 0 (p.srcDev + p.srcDie * 16384) p.step 0 else s2
  if p.own || p.landed.contains (lastSeg p.words / 64) then s3.answerPacket d q p (lastSeg p.words) status else s3

/-- A granted packet is rewound, and what it kept back becomes visible (R363, R364). -/
def State.rewind (s : State) (d q : Nat) (p : QPacket) (status : Nat) : State := (s.unwind d q p status).showVisible d q

/-- Write words into a packet's granted space. -/
def State.storeWords (s : State) (d q : Nat) (p : QPacket) : Nat → List Byte → List Bool → Nat → State
  | _, _, _, 0 => s
  | i, bs, ms, n + 1 =>
    let s1 := s.localWrite d 110 (s.ringAddr d q p i) (bs.take 64) (ms.take 16)
    State.storeWords s1 d q p (i + 1) (bs.drop 64) (ms.drop 16) n

/-- Segment number k of a packet lands: stored, and the packet commits once all have landed. -/
def State.landWords (s : State) (d q : Nat) (p : QPacket) (seg : Nat) (bs : List Byte) (ms : List Bool) : State :=
  let s1 := s.storeWords d q p (seg * 64) bs ms (bs.length / 64)
  let x := s1.queue d q
  let landed := if p.landed.contains seg then p.landed else p.landed ++ [seg]
  let all := decide (landed.length = (p.words + 63) / 64)
  let p1 := { p with landed := landed, phase := if all then .committed else .granted }
  (s1.setQueue d q { x with packets := x.packets.map fun y => if y = p then p1 else y }).showVisible d q

/-- The packet of an ENQUEUE in a queue, not yet visible. -/
def State.packetOf (s : State) (d q srcDev srcDie tag : Nat) (own : Bool) : Option QPacket :=
  (s.queue d q).packets.find? fun p => p.own == own && p.srcDev == srcDev && p.srcDie == srcDie && p.tag == tag &&
    !decide (p.phase = .visible)

/-- The bytes and poison marks that an own ENQUEUE carries. -/
def State.enqBytes (s : State) (r : RemReq) : List Byte × List Bool :=
  if r.staged then (r.operand, r.operandMarks)
  else (s.bytes r.loc r.len, s.marks r.loc r.len)

/-- The packet granted to an own producer's ENQUEUE. -/
def State.ownPacket (s : State) (d q : Nat) (die : Nat) (e : TrackEntry) : Option QPacket :=
  (s.queue d q).packets.find? fun p => p.own && p.srcDie == die && p.tag == e.id && p.step == e.req.step && decide (p.phase = .granted)

/-- The words of an own producer's packet land in its granted space, all at once (R204, R363, R364). -/
def State.landOwn (s : State) (d q die : Nat) (e : TrackEntry) : State :=
  match s.ownPacket d q die e with
  | none => s
  | some p =>
    let s1 := if e.req.staged then s else s.meetErrs e.req.loc e.req.len false
    let b := s1.enqBytes e.req
    if b.2.any id then s1.rewind d q p stPOISONED
    else
      let s2 := (s1.updEntry die e.id fun x => { x with phase := .sent, deadline := s.fabricNow + x.limit * 1000 }).storeWords d q p 0 b.1 b.2 p.words
      let y := s2.queue d q
      let p1 := { p with landed := List.range ((p.words + 63) / 64), phase := .committed }
      (s2.setQueue d q { y with packets := y.packets.map fun z => if z = p then p1 else z }).showVisible d q

/-- An ENQUEUE whose credits are granted moves its bytes (R192, R204, R362): where its source no longer answers it ends, and its packet is
left to COMMIT_US (R39, R364); behind an earlier operation, or where what it touches is held, it waits. A dispatch packet's bytes are formed
now (R376). -/
def State.sendGranted (s : State) (d : Nat) (e : TrackEntry) : State :=
  let r := e.req
  let parts := s.gatherExtents d r
  let st := parts.foldl (fun c x => statusMax c (s.extentReach x.1 x.2.1).status) (s.localSide r)
  let away := s.pathHeld d r || s.heldAhead d e || parts.any fun x => s.pairWaits d x.1
  let door := if s.ptrOwn r.ptr then (match place (ptrAddr r.ptr) with | .queuePort qd q _ => some (qd, q) | _ => none) else none
  let ring := match door with | some (qd, q) => s.ringHeld qd q | none => false
  if st ≠ stDONE then (s.updEntry d e.id fun x => { x with phase := .granted }).abandon d e.id st
  else if s.requestHeld d r || away || ring || parts.any (fun x => s.accessHeld x.1 x.2.1 false) then
    (s.updEntry d e.id fun x => { x with phase := .granted }).park (if away then [] else s.ownExtents r ++ parts) (.own d e.id e.order)
  else
    let g := s.gather d e
    match door with
    | some (qd, q) => g.1.landOwn qd q d g.2
    | none => g.1.sendSegments d g.2

/-- The oldest reservation of a queue, whether it may be granted now (R362). -/
def State.grantable (s : State) (d q : Nat) : Option QReserve :=
  match (s.reserveList d).find? fun x => x.queue == q with
  | none => none
  | some x =>
    if x.words + (s.queue d q).occupied ≤ s.ringWords d q then some x else none

/-- Grant the oldest reservation of a queue (R362): space is set aside, the commit deadline runs, and the producer moves its bytes. One that
has ended leaves its packet to COMMIT_US (R364). -/
def State.grant (s : State) (d q : Nat) : State :=
  match s.grantable d q with
  | none => s
  | some r =>
    let x := s.queue d q
    let used := x.packets.flatMap fun p => runDrop p.runs p.read
    let size := s.ringWords d q
    let runs := runAlloc size used (2 * used.length + 3) x.next r.words
    let next := match runs.getLast? with | some y => (y.1 + y.2) % max 1 size | none => x.next
    let p : QPacket := ⟨r.srcDev, r.srcDie, r.cls, r.tag, r.step, r.words, runs, [], 0, .granted, false,
      s.fabricNow + max 1 (COULOIR_EXPERT_COMMIT_US.get r.expert) * 1000, r.own, COULOIR_EXPERT_RECORD_REWIND.get r.expert == 1⟩
    let s1 := (s.setReserveList d ((s.reserveList d).erase r)).setQueue d q { x with packets := x.packets ++ [p], next := next }
    let s2 := s1.noteOccupied d q
    if !r.own then s2.answerReserve d r stDONE
    else
      match (s2.tracker r.srcDie).entries.find? fun e => e.id == r.tag && e.req.step == r.step && decide (e.phase = .reserving) with
      | none => s2
      | some e => s2.sendGranted r.srcDie e

/-- A collapse discards every packet and reservation tagged `step` of a die's queues (R340, R364, Table 13.4). -/
def State.queueDiscard (s : State) (d step : Nat) : State :=
  let mine (r : QReserve) : Bool := r.step == step
  let s1 := ((s.reserveList d).filter mine).foldl (fun u r =>
    u.answerReserve d r stCOLLAPSED)
    (s.setReserveList d ((s.reserveList d).filter fun r => !mine r))
  (List.range 64).foldl (fun u q =>
    let x := u.queue d q
    let shown := x.packets.filter fun p => p.step == step && decide (p.phase = .visible)
    let opened := match x.visible with | p :: _ => x.opened && p.step != step | [] => x.opened
    let u1 := if shown.isEmpty then u
      else u.setQueue d q { x with packets := x.packets.filter (fun p => !(p.step == step && decide (p.phase = .visible))), opened := opened }
    let hidden := x.packets.filter fun p => p.step == step && !decide (p.phase = .visible)
    if hidden.isEmpty then u1 else (hidden.foldl (fun v p => v.unwind d q p stCOLLAPSED) u1).showVisible d q) s1

/-- A die reset discards every queue of the die (R369); own producers on other dies end UNREACHABLE (R39). -/
def State.queueReset (s : State) (d : Nat) : State :=
  let s1 := (s.reserveList d).foldl (fun u r => if r.own then u.answerOwn r.srcDie r.tag r.step stUNREACHABLE else u) s
  let s2 := (List.range 64).foldl (fun u q =>
    ((u.queue d q).packets.filter fun p => p.own && !decide (p.phase = .visible)).foldl (fun v p =>
      v.answerOwn p.srcDie p.tag p.step stUNREACHABLE) (u.setQueue d q Queue.zero)) s1
  s2.setReserveList d []

/-! ### ENQUEUE packets at the target (R203, R204, R362 to R364) -/

/-- A segment of a rewound packet is answered with the packet's status; after its last one the packet is forgotten. -/
def State.answerRewound (s : State) (d q : Nat) (g : Segment) : State :=
  match (s.queue d q).rewound.find? fun r => r.1 == g.srcDev && r.2.1 == g.srcDie && r.2.2.1 == g.tag with
  | none => s
  | some r =>
    let x := s.queue d q
    let rest := x.rewound.erase r
    let left := if r.2.2.2.2 ≤ 1 then rest else (r.1, r.2.1, r.2.2.1, r.2.2.2.1, r.2.2.2.2 - 1) :: rest
    (s.setQueue d q { x with rewound := left }).answerAt d 5 g r.2.2.2.1 [] []

/-- Take an ENQUEUE segment at queue q of die d: it lands in its packet, rewinds it where it is poisoned, or is answered as its rewound
packet gives (R363, R364). -/
def State.takeSegment (s : State) (d q : Nat) (g : Segment) : State :=
  match s.packetOf d q g.srcDev g.srcDie g.tag false with
  | some p =>
    if p.words < g.seg64 + g.payload.length / 64 ∨ g.payload.length % 64 ≠ 0 then s
    else if g.marks.any id then (s.rewind d q p stPOISONED).answerRewound d q g
    else
      let s1 := s.landWords d q p (g.seg64 / 64) g.payload g.marks
      if g.seg64 == lastSeg p.words then s1 else s1.answerAt d 5 g stDONE [] []
  | none => s.answerRewound d q g

/-- The status an ENQUEUE's reservation or segment gets for its form and its port (R184, R203). -/
def State.enqueueForm (s : State) (g : Segment) : Nat :=
  statusMax (if g.cls = 1 ∨ g.cls = 4 ∨ g.cls = 5 then stDONE else stINVALID) (s.portStatus g.address ((g.len64 + 1) * 64))

/-- The status of an ENQUEUE's reservation or segment before its queue sees it (R203, R340). -/
def State.enqueueStatus (s : State) (g : Segment) : Nat :=
  statusMax (if s.collapseDiscards g.step g.cls then stCOLLAPSED else stDONE) (s.enqueueForm g)

/-- A reservation is listed, answered, or refused back where the die's list is full (R362); the refusal goes back as the reservation came
(assumption 89). -/
def State.takeReservation (s : State) (g : Segment) : State :=
  let st := s.enqueueStatus g
  if st ≠ stDONE then s.answer 5 g st [] []
  else
    match place g.address with
    | .queuePort d q _ =>
      match s.reserve d ⟨q, g.srcDev, g.srcDie, g.cls, g.tag, g.step, g.len64 + 1, false, s.reg COULOIR_EXPERT d 0⟩ with
      | .listed t => t
      | .status c => s.answer 5 g c [] []
      | .refused t =>
        let h := g.head 5 t.device
        t.sendPacket .reserve d { h with src := h.dst, dst := h.src, job := t.job } [] []
    | _ => s.answer 5 g stINVALID [] []

/-- What an ENQUEUE segment stores: the words of its packet's space. -/
def State.enqExtents (s : State) (g : Segment) : List (Nat × Nat × Bool) :=
  match place g.address with
  | .queuePort d q _ =>
    match s.packetOf d q g.srcDev g.srcDie g.tag false with
    | some p => (List.range (g.payload.length / 64)).map fun i => (s.ringAddr d q p (g.seg64 + i), 64, true)
    | none => []
  | _ => []

/-- An ENQUEUE's reservation or segment is taken, once the package's job is checked (R209). -/
def State.takeEnqueue (s : State) (reservation : Bool) (g : Segment) : State :=
  if g.job ≠ s.job ∨ s.job = 0 then (s.jobReject g).answer 5 g (statusMax stUNREACHABLE (s.enqueueForm g)) [] []
  else if reservation then s.takeReservation g
  else
    match place g.address with
    | .queuePort d q _ => if s.dieRunning d then s.takeSegment d q g else s.answer 5 g stUNREACHABLE [] []
    | _ => s.answer 5 g stINVALID [] []

/-- An ENQUEUE's reservation or segment arrives. -/
def State.enqueueArrive (s : State) (reservation : Bool) (g : Segment) : State :=
  let m := s.meet (addressDie g.address) 5 g (.enqueue reservation g) (if reservation then [] else s.enqExtents g)
  if m.2 then m.1.takeEnqueue reservation g else m.1

end Sys2Proof.Machine
end

