-- ==== Sys2Proof/Machine/LocalOps.lean ====
section
/-!
DEFINITION. Accesses that a core makes itself: its local moves (R72 to R74), and the loads and stores of its Spur core in memory (R38 to
R40, R494); each performs its accesses or waits among those that arrived (R166, Table 6.3).
-/
namespace Sys2Proof.Machine

open Sys2Proof

/-! ### Local moves -/

/-- Whether an address lies in a contour window or a queue port, which local moves reach only as R361 gives (R507). -/
def windowOnly (a : Nat) : Bool :=
  match place a with
  | .contour _ _ => true
  | .queuePort _ _ _ => true
  | _ => false

/-- The read window a row's source names, for MOVE, and for LD_TILE with rows of whole words (R361). -/
def rowWindow (opc src n : Nat) : Option (Nat × Nat) :=
  if opc = 0x20 ∨ (opc = 0x01 ∧ n % 64 = 0) then readWindow src n else none

/-- One row copied with its poison (rows go in ascending order, so that a later row sees what an earlier one wrote; assumption 92): a local read, or queue words from a read window (R365), then a local write. -/
def State.copyRow (s : State) (d g opc src dst n : Nat) : State :=
  let r :=
    match rowWindow opc src n with
    | some (qd, q) =>
      if s.dieRunning qd then s.readQueueWords qd q (n / 64)
      else (s, List.replicate n 0, List.replicate ((n + 3) / 4) true)
    | none =>
      if windowOnly src then (s.addressFault d g src, List.replicate n 0, List.replicate ((n + 3) / 4) true)
      else s.localRead d g src n
  if windowOnly dst then r.1.addressFault d g dst else r.1.localWrite d g dst r.2.1 r.2.2

/-- The (source, destination, length) rows of an LD_TILE or ST_TILE word (R72). -/
def tileRows (e : TqEntry) : List (Nat × Nat × Nat) :=
  let src := (e.taOf (e.f 52 49)).toNat
  let dst := (e.taOf (e.f 48 45)).toNat
  let rowb := (e.f 32 21 + 1) * 16
  let stride := e.f 20 1 * 16
  (List.range (e.f 44 33 + 1)).map fun i =>
    if e.opc = 1 then (src + i * stride, dst + i * rowb, rowb) else (src + i * rowb, dst + i * stride, rowb)

/-- The extents a local move touches, each with whether it is written. -/
def State.moveExtents (s : State) (e : TqEntry) : List (Nat × Nat × Bool) :=
  if e.opc = 0x20 then
    let n := (e.f 44 17 + 1) * 64
    [((e.taOf (e.f 52 49)).toNat, n, false), ((e.taOf (e.f 48 45)).toNat, n, true)]
  else if e.opc = 0x19 then
    (s.permuteRows e).flatMap fun r =>
      (r.2.2.1, r.2.2.2, true) :: (match r.2.1, r.1 with | false, some a => [(a, r.2.2.2, false)] | _, _ => [])
  else (tileRows e).flatMap fun r => [(r.1, r.2.2, false), (r.2.1, r.2.2, true)]

/-- Whether a local move of core g must wait: at a Talus controller (Table 6.3, R166, R392), for another core's tile-instruction boundary
(R38), for the ring of a queue that it reads, or for a path change (R31). -/
def State.moveHeld (s : State) (d g : Nat) (e : TqEntry) : Bool :=
  (s.moveExtents e).any fun x =>
    match readWindow x.1 x.2.1 with
    | some (qd, q) => s.pairWaits d x.1 || s.ringHeld qd q
    | none => !windowOnly x.1 &&
        (s.pairWaits d x.1 || s.stackHeld x.1 x.2.1 x.2.2 || s.windowBusy (some (globalCore d g)) x.1)

/-- The bytes of a local move (R72 to R74), row by row; PERMUTE reads its index vector first, and MOVE copies as if through a temporary
buffer. -/
def State.moveBytes (s : State) (d g : Nat) (e : TqEntry) : State :=
  if e.opc = 0x20 then
    s.copyRow d g e.opc (e.taOf (e.f 52 49)).toNat (e.taOf (e.f 48 45)).toNat ((e.f 44 17 + 1) * 64)
  else if e.opc = 0x19 then
    (s.permuteRows e).foldl (fun t r =>
      let n := r.2.2.2
      match r.2.1, r.1 with
      | true, _ => t.localWrite d g r.2.2.1 (List.replicate n 0) (List.replicate (n / 4) true)
      | false, none => t.localWrite d g r.2.2.1 (List.replicate n 0) (List.replicate (n / 4) false)
      | false, some a => t.copyRow d g e.opc a r.2.2.1 n) s
  else (tileRows e).foldl (fun t r => t.copyRow d g e.opc r.1 r.2.1 r.2.2) s

/-- Whether what a local move touches has not arrived at its controllers yet: it waits for a path change or for a queue (R31, R361). -/
def State.moveAway (s : State) (d : Nat) (e : TqEntry) : Bool :=
  (s.moveExtents e).any fun x => s.pairWaits d x.1 || (readWindow x.1 x.2.1).isSome

/-- A local move that is held waits among the accesses that arrived. -/
def State.parkMove (s : State) (d g uid : Nat) (e : TqEntry) : State :=
  s.park (if s.moveAway d e then [] else s.moveExtents e) (.move d g uid)

/-- Issue a local move: it takes a place in the move pipe, and copies at once unless its accesses are held. -/
def State.startMove (s : State) (d g : Nat) (e : TqEntry) : Option State :=
  if 16 ≤ (s.coreOf d g).moves.length then none
  else
    let held := s.moveHeld d g e
    let t := if held then s else s.moveBytes d g e
    let t1 := t.updCore d g fun c => { c with moves := c.moves ++ [⟨e, false, !held, c.moveSeq⟩], moveSeq := c.moveSeq + 1 }
    some (if held then t1.parkMove d g (s.coreOf d g).moveSeq e else t1)

/-- A held local move meets its controllers again. -/
def State.retryMove (s : State) (d g uid : Nat) : State :=
  match (s.coreOf d g).moves.find? fun m => !m.remote && !m.copied && m.uid == uid with
  | none => s
  | some m =>
    if s.moveHeld d g m.entry then s.parkMove d g uid m.entry
    else (s.moveBytes d g m.entry).updCore d g fun c =>
      { c with moves := c.moves.map fun x => if x.uid = uid ∧ !x.remote then { x with copied := true } else x }

/-! ### Spur loads and stores in memory -/

/-- What a Spur core finds at an address: memory, a register seen through a window (its BAR0 offset), or nothing (R40). -/
inductive SpurPlace where
  | memory
  | window (offset : Nat)
  | nothing
  deriving DecidableEq, Repr

/-- The place of a Spur access of n bytes: the contour block takes aligned 8-byte accesses and aligned 4-byte loads (R507), a queue's
control page aligned 8-byte accesses to registers +0x10 to +0x40 (R361); every other port address is unmapped to it. -/
def spurPlace (a n : Nat) (store : Bool) : SpurPlace :=
  match place a with
  | .contour d o =>
    let b := 0x88000 + d * 0x20000 + o / 8 * 8
    if (n = 8 ∨ (n = 4 ∧ store = false)) ∧ a % n = 0 ∧ (findReg b).isSome then .window b else .nothing
  | .queuePort d q o =>
    if n = 8 ∧ a % 8 = 0 ∧ 0xF0010 ≤ o ∧ o ≤ 0xF0040 then .window (0x99000 + d * 0x20000 + q * 0x80 + (o - 0xF0000)) else .nothing
  | _ => .memory

/-- A value of n bytes as a register takes it, sign-extended or not. -/
def spurExtend (n : Nat) (sign : Bool) (x : Nat) : Word :=
  if sign then BitVec.ofInt 64 (signed (8 * n) x) else BitVec.ofNat 64 x

/-- A load of n bytes from memory (R40, R494): a poisoned word raises a load access fault. -/
def State.spurRead (s : State) (d g rd a n : Nat) (sign : Bool) : State :=
  let r := s.localRead d g a n
  if r.2.2.contains true || r.1.poisoned a n then r.1.spurTrap d g 5
  else r.1.updCore d g fun c => c.setX rd (spurExtend n sign (leNat r.2.1))

/-- Whether a Spur access in memory is held: at its controller, for a tile-instruction boundary, or for a path change (Table 6.3, R31, R38). -/
def State.spurHeld (s : State) (d a n : Nat) (store : Bool) : Bool := s.pairWaits d a || s.accessHeld a n store

/-- A Spur load or store in memory: performed, or the Spur core stalls on it while it waits among the accesses that arrived (R40, R165,
R168). -/
def State.spurMemory (s : State) (d g : Nat) (store : Bool) (n : Nat) (sign : Bool) (rd a : Nat) (v : Word) : State :=
  if s.spurHeld d a n store then
    (s.updCore d g fun c => { c with stall := some (.access store n sign rd a v) }).park (if s.pairWaits d a then [] else [(a, n, store)]) (.spur d g)
  else
    let t := s.updCore d g fun c => { c with stall := none }
    if store then t.localWrite d g a (leBytes n v.toNat) [] else t.spurRead d g rd a n sign

/-- A held Spur load or store meets its controller again. -/
def State.retrySpur (s : State) (d g : Nat) : State :=
  match (s.coreOf d g).stall with
  | some (.access store n sign rd a v) => if s.dieRunning d then s.spurMemory d g store n sign rd a v else s.park [] (.spur d g)
  | _ => s

end Sys2Proof.Machine
end

