-- ==== Sys2Proof/Machine/PowerOps.lean ====
section
/-!
DEFINITION. Profiles and pacing as shared operations (chapter 17).
-/
namespace Sys2Proof.Machine

open Sys2Proof

/-- The effective profile: the lightest of SELECTED, Plateau while FORCED and until the OPEN that follows (R451), and the limit of CONVERTER_LIMIT (R447). -/
def State.effective (s : State) : Nat :=
  max (max (s.getF PROFILE_STATE_SELECTED 0 0) (if s.flag PROFILE_STATE_FORCED 0 0 || s.power.unforce then 2 else 0))
    (s.getF PROFILE_STATE_CONVERTER_LIMIT 0 0)

/-- Duty code that the supply sequence requires (R438). -/
def State.supplyDuty (s : State) : Nat :=
  match s.getF SUPPLY_STATE 0 0 with
  | 0 => 0
  | 3 => 1
  | _ => 2

/-- DUTY and CAUSE of each die, and the package-wide limit; instructions in progress go on at the new duty (R442, R444, R445,
Table 17.12). -/
def State.refreshDuty (s : State) : State :=
  let sup := s.supplyDuty
  let cap := s.getF PROFILE_STATE_CAP_ACTIVE 0 0
  let pack := max (max sup cap) (if s.power.convPace.isSome then 2 else 0)
  let s1 := (s.setF PROFILE_STATE_SUPPLY_ACTIVE 0 0 (b2n (sup != 0))).setF PROFILE_STATE_DUTY 0 0 pack
  (List.range 4).foldl (fun u d =>
    let th := kget 0 s.power.thermal d
    let se := b2n (kget false s.power.sensorPace d)
    let duty := max pack (max th se)
    ((u.repaceDie d (u.pace d) (2 ^ duty)).setF DIE_THERMAL_DUTY 0 d duty).setF DIE_THERMAL_CAUSE 0 d
      (b2n (sup != 0) + 2 * cap + 4 * b2n (th != 0) + 8 * se)) s1

/-- Power limit of a profile in W (Table 17.5). -/
def profileLimit (p : Nat) : Nat := if p = 0 then 1500 else if p = 1 then 1200 else 900

/-- Power cap pacing begins where the 10 ms average exceeds the limit of the current profile, and ends where POWER_CAP is 0 (Table 17.4). -/
def State.capNow (s : State) : State :=
  if !s.flag PWR_EXPERT_POWER_CAP 0 0 then
    if s.flag PROFILE_STATE_CAP_ACTIVE 0 0 then
      ((s.setF PROFILE_STATE_CAP_ACTIVE 0 0 0).setPower fun p => { p with underMs := 0 }).refreshDuty
    else s
  else if !s.flag PROFILE_STATE_CAP_ACTIVE 0 0 && decide (profileLimit (s.getF PROFILE_STATE_CURRENT 0 0) < s.getF INPUT_POWER_AVG10_W 0 0)
  then (((s.setF PROFILE_STATE_CAP_ACTIVE 0 0 1).satF PACE_EVENTS_CAP_EVENTS 0 0 1).setPower fun p => { p with underMs := 0 }).refreshDuty
  else s

/-- CURRENT takes the effective profile; clusters that return to service wait 20 µs (R448). The power cap is held against
the new limit at once. -/
def State.applyProfile (s : State) : State :=
  let old := min 2 (s.getF PROFILE_STATE_CURRENT 0 0)
  let new := min 2 s.effective
  let s1 := s.setF PROFILE_STATE_CURRENT 0 0 new
  let back := (List.range 32).filter fun k => decide (8 - 2 * old ≤ k % 8) && decide (k % 8 < 8 - 2 * new)
  let gone := (List.range 32).filter fun k => decide (8 - 2 * new ≤ k % 8)
  let w := back.foldl (fun m k => kset 0 m k (s.time + 20 * usTicks)) s.power.waits
  (s1.setPower fun r => { r with waits := gone.foldl (fun m k => kset 0 m k 0) w }).capNow

/-- A PROFILE action sets SELECTED for all four dies (R447). -/
def State.selectProfile (s : State) (p : Nat) : State := (s.setF PROFILE_STATE_SELECTED 0 0 p).applyProfile

/-- A contour value whose phase is OPEN ends a forced Plateau whose FORCED has cleared (R451). -/
def State.openProfile (s : State) (v : Nat) : State :=
  if s.power.unforce ∧ v % 2 ^ 24 = 0 then ((s.setPower fun r => { r with unforce := false })).applyProfile else s

/-- The pacing of R442 step 1 ends once the profile limit has taken effect. -/
def State.convStep (s : State) : State :=
  match s.power.convPace with
  | some t => if t ≤ s.time then (s.setPower fun p => { p with convPace := none }).refreshDuty else s
  | none => s

/-- Junction sensors of a die (4 for the Camp die) that are in use. -/
def State.sensorsOf (s : State) (d : Nat) : List Nat :=
  (List.range (if d = 4 then 4 else 16)).filter fun i => !kget false s.power.excluded (d * 16 + i)

/-- A junction reading. -/
def State.junction (s : State) (d i : Nat) : Nat := kget 0 s.power.temps (d * 16 + i)

/-- The hottest junction in use of a die. -/
def State.hottest (s : State) (d : Nat) : Nat := ((s.sensorsOf d).map (s.junction d)).foldl max 0

/-- The hottest of a die's stacks. -/
def State.stackHeat (s : State) (d : Nat) : Nat :=
  ((List.range 3).map fun i => s.getF STACK_TEMP_TEMP d i).foldl max 0

/-- Thermal pacing of a die (Table 17.4): its level rises at once; for each of the two rows in force the time since its release condition
holds is kept. -/
def State.paceDie (s : State) (d : Nat) : State :=
  let p := s.getF PWR_EXPERT_PACE_START_C 0 0
  let hot := s.hottest d
  let stack := s.stackHeat d
  let old := kget 0 s.power.thermal d
  let level := if p + 3 ≤ hot then 2 else if p ≤ hot ∨ 95 ≤ stack then max old 1 else old
  let since (m : KMap Nat) (row : Nat) (eased : Bool) : KMap Nat :=
    kset 0 m (2 * d + row) (if !eased then 0 else if kget 0 m (2 * d + row) ≠ 0 then kget 0 m (2 * d + row) else s.time + 1)
  s.setPower fun x => { x with
    thermal := kset 0 x.thermal d level
    easedAt := since (since x.easedAt 0 (level != 0 && decide (hot + 2 < p) && decide (stack < 93))) 1
      (level == 2 && decide (hot < p + 1)) }

/-- What a change of the power block's expert fields does at once: the power cap begins or ends, and pacing follows the new start (R445,
Table 17.12). -/
def State.powerExpert (s : State) : State :=
  ((List.range 4).foldl (fun u d => u.paceDie d) s.capNow).refreshDuty

/-- Whether any Ridge port is UP. -/
def State.anyPortUp (s : State) : Bool :=
  (List.range 16).any fun p => s.getF PORT_STATE_STATE (p / 4) (p % 4) == portUP

/-- Send LEAVE to the summit where the package is a member (Table 8.10). -/
def State.sendLeave (s : State) : State :=
  if s.getF MEMBER_STATE_ROLE 0 0 == 3 || s.getF MEMBER_STATE_ROLE 0 0 == 4 || s.isSummit then
    s.mgmt 0x8A (s.getF SUMMIT_INFO_SUMMIT_ID 0 0) [s.device]
  else s

end Sys2Proof.Machine
end

