-- ==== Sys2Proof/Machine/EventOps.lean ====
section
/-!
DEFINITION. Event table entries as shared operations (R256 to R260): starting an action, firing, acting when already past;
update requests (R300); the firing of a flag word's trigger (R205) and the raising of gate words (R332).
-/
namespace Sys2Proof.Machine

open Sys2Proof

/-! ### Bucket and state tables (Tables 10.1, 11.2) -/

/-- Package address of bucket b's table entry. -/
def State.bucketAddr (s : State) (b : Nat) : Nat := s.getF BUCKET_TABLE_BASE 0 0 * 4096 + b * 32

/-- CTRL of a bucket table entry. -/
def State.bucketCtrl (s : State) (b : Nat) : Nat := s.seenN (s.bucketAddr b + 0x10) 4

/-- A bucket table entry (Table 10.1). -/
def State.bucketCfg (s : State) (b : Nat) : BucketCfg :=
  let a := s.bucketAddr b
  let c := s.bucketCtrl b
  ⟨s.seenN a 8, s.seenN (a + 8) 8, c.testBit 30, c.testBit 29, bits c 28 27, c.testBit 26, c.testBit 25, bits c 19 16,
   bits c 12 0⟩

/-- VALID of a bucket table entry. -/
def State.bucketValid (s : State) (b : Nat) : Bool := (s.bucketCtrl b).testBit 31

/-- Package address of bucket b's state table entry. -/
def State.stateAddr (s : State) (b : Nat) : Nat := s.getF STATE_TABLE_BASE 0 0 * 4096 + b * 64

/-- CTRL of a state table entry. -/
def State.stateCtrl (s : State) (b : Nat) : Nat := s.seenN (s.stateAddr b + 0x30) 4

/-! ### Update requests (R300) -/

/-- A request of bucket b's update: for the present reduction step, or held until a first launch; a repeated one is ignored
and counted. -/
def State.requestUpdate (s : State) (b : Nat) : State :=
  let dup := s.satF UPD_BLK_STATUS_DUP_START 0 0 1
  match s.red.launched with
  | none =>
    if s.upd.early.contains b then dup else (s.setUpd fun r => { r with early := r.early ++ [b] })
  | some n =>
    if s.upd.buckets.any (fun u => u.bucket == b && u.step == n) then dup
    else (s.setUpd fun r => { r with buckets := r.buckets ++ [⟨b, n, true, false, stDONE, false, none, [], []⟩] })

/-! ### Self-test start (R487, R488) -/

/-- Whether a target code is one of Table 20.1. -/
def targetOk (t : Nat) : Bool :=
  let i := t % 256
  match t / 256 with
  | 1 => decide (i < 16)
  | 2 => decide (i < 16)
  | 3 => decide (i < 8)
  | 4 => decide (i < 12)
  | 5 => decide (i < 6)
  | 6 => decide (i < 13)
  | 7 => decide (i < 5)
  | _ => false

/-- Send a management packet on one port: destination 65,536 plus the port's number. -/
def State.mgmtPort (s : State) (port op : Nat) (fields : List Nat) : State := s.emit .mgmt (65536 + port) (op :: fields)
    (s.mgmtHeader op (kget Port.zero s.fabric.ports port).peerDevice).bytes

/-- Whether a target is a stack that holds its die's save area (Table 20.11). -/
def State.savesItself (s : State) (t : Nat) : Bool :=
  t / 256 == 4 && s.getF ST_SAVE_BASE_BASE 0 (t % 256 / 3) * 1048576 / 0x1000000000 == t % 256

/-- A granted slot begins: the target drains, where its KIND is not one of 5 to 7, whose test begins at once (R488). A Saddle link is treated as DOWN, a stack shows TRAINING. -/
def State.startSelftest (s : State) (t : Nat) : State :=
  let s1 := (s.setF ST_STATUS_STATE 0 0 3).setF ST_STATUS_TARGET 0 0 t
  let s2 := (s1.setTest fun r => { r with
    draining := decide (t / 256 ≤ 4)
    slotEnds := some ((s1.reg PUB_FTIME 0 0).toNat + max 1 (s1.getF ST_EXPERT_SLOT_MS 0 0) * 1000000) })
  let i := t % 256
  match t / 256 with
  | 1 => (s2.linkTell i (s.bundleDead (s.port i).dir)).mgmtPort i 0x99 [t]
  | 2 => (s2.linkTell i (s.bundleDead (s.port i).dir)).mgmtPort i 0x99 [t]
  | 3 => (s2.setF SADDLE_STATUS_STATE 0 (i / 2) 2).noteHealth.repath
  | 4 =>
    if s2.stackState i = 2 then
      (s2.setF STACK_STATE_STATE (i / 3) (i % 3) 1).setStack i { s2.stack i with training := .selftest }
    else s2
  | _ => s2

/-! ### Actions (Table 9.4, R258) -/

/-- STATUS of an entry, with the record of a failure (R258). -/
def State.entryStatus (s : State) (d e status : Nat) : State :=
  let s1 := s.setF EVENT_CTRL_STATUS d e status
  if status ≠ stDONE ∧ s.flag CONTOUR_EXPERT_RECORD_REFUSED d 0 then
    s1.raise 0 0x21 d e status e (s.getF EVENT_CTRL_ACTION d e) 0
  else s1

/-- The GET of a PREFETCH action (Table 9.4). -/
def State.prefetchReq (s : State) (d e step : Nat) : RemReq :=
  let dst := (s.reg ARG1 d e).toNat
  ⟨.mover 0 e, .get, 0, s.reg ARG0 d e, dst % 2 ^ 48, (s.reg ARG2 d e).toNat, 1, 0, false, [], [], 0, false, 0, step, s.job,
   false, decide (dst / 2 ^ 48 ≠ 0), 0⟩

/-- Start the action of entry e of die d with a step tag: the state and the STATUS of the start. -/
def State.startAction (s : State) (d e step : Nat) : State × Nat :=
  let a0 := (s.reg ARG0 d e).toNat
  match s.getF EVENT_CTRL_ACTION d e with
  | 1 =>
    if a0 / 2 ^ 48 ≠ 0 ∨ a0 % 64 ≠ 0 then (s, stINVALID)
    else
      let st := (s.extentReach a0 64).status
      if st ≠ stDONE then (s, st) else (s.startChain a0 ((s.reg ARG1 d e).toNat % 64), stDONE)
  | 2 =>
    let r := s.prefetchReq d e step
    let st := s.sourceStatus d r
    if st ≠ stDONE then (s, st) else (s.remoteIssue noFire d r, stDONE)
  | 3 =>
    let b := a0 % 4096
    if bits (s.bucketCtrl b) 19 16 ≠ bits a0 15 12 then (s, stINVALID) else (s.requestUpdate b, stDONE)
  | 4 =>
    let st := if a0 / 2 ^ 48 ≠ 0 ∨ a0 % 64 ≠ 0 then stINVALID else (s.extentReach a0 64).status
    if st ≠ stDONE then (s, st)
    else
      let x : ExportRun := ⟨s.upd.seq, d, some e, none, a0, step, false, 0, stDONE, 0, [], 0, []⟩
      ((s.setUpd fun r => { r with exports := r.exports ++ [x], seq := r.seq + 1 }), stDONE)
  | 5 =>
    if s.getF ST_STATUS_STATE 0 0 = 3 then (s, stNORES)
    else if !targetOk (a0 % 65536) || s.savesItself (a0 % 65536) then (s, stINVALID)
    else (s.startSelftest (a0 % 65536), stDONE)
  | 6 => if 3 ≤ a0 % 4 then (s, stINVALID) else (s.selectProfile (a0 % 4), stDONE)
  | _ => (s, stDONE)

/-- What a firing does to an entry beside its ARMED and PENDING bits: FIRED, FIRED_FTIME, FIRE_COUNT, the action, STATUS
(R257). -/
def State.runEntry (s : State) (d e step : Nat) : State :=
  let s1 := ((s.setF EVENT_CTRL_FIRED d e 1).setReg FIRED_FTIME d e (BitVec.ofNat 64 s.fabricNow)).addF
    EVENT_CTRL_FIRE_COUNT d e 1
  let x := s1.startAction d e step
  x.1.entryStatus d e x.2

/-- Entry e of die d fires by the contour or its deadline (R257). -/
def State.fireEntry (s : State) (d e : Nat) : State :=
  ((s.setF EVENT_CTRL_ARMED d e 0).setF EVENT_CTRL_PENDING d e 0).runEntry d e ((s.reg THRESHOLD d e).toNat / 2 ^ 24)

/-- Whether an entry is enabled, armed and not pending, with the contour at or past its threshold. -/
def State.entryPast (s : State) (d e : Nat) : Bool :=
  let c := (s.reg EVENT_CTRL d e).toNat
  c.testBit 63 && c.testBit 62 && !c.testBit 60 &&
  decide ((s.reg THRESHOLD d e).toNat ≤ (s.reg CONTOUR_VALUE d 0).toNat)

/-- An entry that is past its threshold acts: a CONTOUR entry fires, in a low-power state after the exit (R460); a DEADLINE entry sets
PENDING and latches PUB_FTIME (R255, R257). -/
def State.actEntry (s : State) (d e : Nat) : State :=
  if s.entryPast d e then
    if s.flag EVENT_CTRL_MODE d e then (s.setF EVENT_CTRL_PENDING d e 1).setReg BASE_FTIME d e (s.reg PUB_FTIME d 0)
    else if s.awake then s.fireEntry d e
    else s
  else s

/-- Entries of die d act in ascending number (R259); none while the die is fenced (R260). -/
def State.actEntries (s : State) (d : Nat) : State :=
  if s.dieRunning d then (List.range 256).foldl (fun u e => u.actEntry d e) s else s

/-- A job change clears ARMED of an entry without firing it, which cancels a deadline (R249, R257). -/
def State.disarm (s : State) (d e : Nat) : State :=
  if s.flag EVENT_CTRL_ARMED d e || s.flag EVENT_CTRL_PENDING d e then
    (s.setF EVENT_CTRL_ARMED d e 0).setF EVENT_CTRL_PENDING d e 0
  else s

/-- The due time of a pending DEADLINE entry (R257). -/
def State.entryDue (s : State) (d e : Nat) : Nat :=
  (s.reg BASE_FTIME d e).toNat + s.getF EVENT_CTRL_OFFSET_US d e * 1000

/-- Whether a DEADLINE entry is due (R257). -/
def State.entryIsDue (s : State) (d e : Nat) : Bool :=
  s.flag EVENT_CTRL_PENDING d e && s.flag EVENT_CTRL_ENABLE d e && s.flag EVENT_CTRL_ARMED d e &&
  decide (s.entryDue d e ≤ s.fabricNow)

/-- DEADLINE entries of die d that are due fire in ascending number (R259). -/
def State.fireDue (s : State) (d : Nat) : State :=
  (List.range 256).foldl (fun u e => if u.entryIsDue d e then u.fireEntry d e else u) s

/-! ### Triggers and gates (R205, R332) -/

/-- The trigger of flag word f of die d after a NOTIFY changed its low word (R205). -/
def State.fireTrigger : FireFn := fun s d f before after =>
  let t := s.readN (triggerAddr d f) 8
  let th := t % 2 ^ 32
  if t.testBit 63 && decide (before < th) && decide (th ≤ after) then
    let s1 :=
      if t.testBit 41 then
        let e := bits t 49 42
        if s.flag EVENT_CTRL_ENABLE d e then s.runEntry d e (s.stepOf d) else s
      else s
    if t.testBit 62 && decide (bits t 56 50 < 96) then s1.updCore d (bits t 56 50) fun c => c.addEc (bits t 61 58) 1 else s1
  else s

/-- The flag word of gate g (R332). -/
def State.gateFlag (s : State) (g : Nat) : Nat := s.corSet CORNICE_EXPERT_GATE_FLAG + g

/-- The Camp die's value of gate g. -/
def State.gateValue (s : State) (g : Nat) : Nat := kget 0 s.cor.gates g

/-- The gate words of die d are written with the gates' values; nothing fires (R332, R434). -/
def State.showGates (s : State) (d : Nat) : State :=
  (List.range 256).foldl (fun u g => u.writeN (flagWordAddr d (u.gateFlag g)) 8 (u.gateValue g)) s

/-- Gate g rises to at least v: an atomic MAX_U on the word of every die that runs, which fires its trigger (R332). -/
def State.raiseGate (s : State) (g v : Nat) : State :=
  let v := v % 2 ^ 32
  let s1 := (s.setCor fun r => { r with gates := kset 0 r.gates g (max (s.gateValue g) v) })
  (List.range 4).foldl (fun u d =>
    if u.dieRunning d then (u.atomicAt State.fireTrigger (flagWordAddr d (u.gateFlag g)) 5 false (leBytes 8 v)).1 else u) s1

/-- Gate g falls to v in every die that runs; nothing fires (R332, R340). -/
def State.lowerGate (s : State) (g v : Nat) : State :=
  let v := v % 2 ^ 32
  let s1 := (s.setCor fun r => { r with gates := kset 0 r.gates g v })
  (List.range 4).foldl (fun u d =>
    if u.dieRunning d then u.writeN (flagWordAddr d (u.gateFlag g)) 8 v else u) s1

end Sys2Proof.Machine
end

