-- ==== Sys2Proof/Machine/RedMath.lean ====
section
/-!
DEFINITION. The arithmetic of gradient reduction (chapter 10): contributions, the adders of the three modes, limb streams,
the cairn word, results and norms.
-/
namespace Sys2Proof.Machine

open Sys2Proof

/-! ### Layout of a block (R261, R262, R273, R275) -/

/-- How a bucket's blocks travel: WIRE format and MODE. -/
structure WireForm where
  fp16 : Bool
  mode : Nat
  deriving DecidableEq, Repr

/-- WIRE as a format. -/
def WireForm.fmt (w : WireForm) : Fmt := if w.fp16 then Sys2Proof.Machine.fp16 else bf16

/-- K of R273 and R280. -/
def WireForm.k (w : WireForm) : Nat := if w.fp16 then 24 else 133

/-- Limbs of the widest window (R273). -/
def WireForm.limbs (w : WireForm) : Nat := if w.fp16 then 4 else 18

/-- n little-endian 16-bit words as bytes. -/
def wordsBytes (xs : List Nat) : List Byte := xs.flatMap (leBytes 2)

/-- Bytes as 16-bit words. -/
def bytesWords (bs : List Byte) : List Nat := (chunk 2 (bs.length / 2) bs).map leNat

/-- How many whole 16-bit limbs at the low end of n are zero, up to a bound. -/
def zeroLimbs : Nat → Nat → Nat
  | 0, _ => 0
  | k + 1, n => if n % 65536 = 0 then zeroLimbs k (n / 65536) + 1 else 0

/-- The fewest limbs that hold b in two's complement. -/
def limbCount (b : Int) : Nat :=
  ((rangeFrom 1 20).find? fun k =>
    decide (-((2 ^ (16 * k - 1) : Nat) : Int) ≤ b) && decide (b < ((2 ^ (16 * k - 1) : Nat) : Int))).getD 20

/-- The limb stream of an integer A (Table 10.3). -/
def limbsOf (w : WireForm) (a : Int) : List Nat :=
  if a = 0 then [0]
  else
    let off := zeroLimbs w.limbs a.natAbs
    let b := a / ((2 ^ (16 * off) : Nat) : Int)
    let nv := limbCount b
    (nv * 2048 + off * 64) :: (List.range nv).map fun i => unsigned (16 * nv) b / 2 ^ (16 * i) % 65536

/-- The exact integer value × 2^K of a finite value. -/
def imageInt (w : WireForm) (neg : Bool) (m : Nat) (e : Int) : Int :=
  let q := e + w.k
  let n : Nat := if 0 ≤ q then m * 2 ^ q.toNat else m / 2 ^ (-q).toNat
  if neg then -(n : Int) else n

/-- The limb stream of an element (Table 10.3). -/
def limbElem (w : WireForm) : Num → List Nat
  | .nan => [31 * 2048]
  | .inf neg => [31 * 2048 + (if neg then 32 else 16)]
  | .fin neg m e => limbsOf w (imageInt w neg m e)

/-- One element read from a limb stream, with the rest; none for a window beyond the limit or a short stream (R273). -/
def readLimb (w : WireForm) : List Nat → Option (Num × List Nat)
  | [] => none
  | h :: rest =>
    let nv := h / 2048
    let off := h / 64 % 32
    if nv = 31 then
      some (if h / 16 % 4 = 0 then .nan else .inf (h / 16 % 4 = 2), rest)
    else if w.limbs < off + nv ∨ rest.length < nv then none
    else if nv = 0 then some (.fin false 0 0, rest)
    else
      let u := (rest.take nv).foldr (fun x a => a * 65536 + x % 65536) 0
      let b := signed (16 * nv) u
      some (.fin (decide (b < 0)) b.natAbs (16 * off - (w.k : Int)), rest.drop nv)

/-- n elements read from a limb stream that they fill. -/
def readLimbs (w : WireForm) : Nat → List Nat → Option (List Num)
  | 0, [] => some []
  | 0, _ :: _ => none
  | n + 1, ws =>
    match readLimb w ws with
    | none => none
    | some (x, rest) => (readLimbs w n rest).map (x :: ·)

/-- The 64 elements of a block's data, each as its terms in order (hi then lo in TREE_PAIR); none for data that does not fit
the mode. A TREE_PAIR block holds its hi words and then its lo words (assumption 23). -/
def blockTerms (w : WireForm) (data : List Byte) : Option (List (List Num)) :=
  let ws := bytesWords data
  if w.mode = 2 then (if data.length % 2 = 1 then none else (readLimbs w 64 ws).map fun xs => xs.map fun x => [x])
  else if w.mode = 1 then
    if data.length ≠ 256 then none
    else some ((List.range 64).map fun i => [w.fmt.decode (ws.getD i 0), w.fmt.decode (ws.getD (64 + i) 0)])
  else if data.length ≠ 128 then none
  else some (ws.map fun x => [w.fmt.decode x])

/-- The exact value of an element's terms. -/
def termsValue (ts : List Num) : Num :=
  match ts with
  | [] => .fin false 0 0
  | x :: xs => xs.foldl (fun a y => (numAdd a y).1) x

/-! ### Residues (R279 to R281) -/

/-- ρ of one finite value mod m, where 2 has period p (R280). -/
def rho (w : WireForm) (m p : Nat) : Num → Nat
  | .fin neg mag e =>
    let r := mag % m * 2 ^ ((e + w.k) % (p : Int)).toNat % m
    if neg then (m - r) % m else r
  | _ => 0

/-- A pair of residues, mod 4,095 and mod 8,191. -/
structure Residue where
  a : Nat
  b : Nat
  deriving DecidableEq, Repr

def Residue.zero : Residue := ⟨0, 0⟩
def Residue.add (x y : Residue) : Residue := ⟨(x.a + y.a) % 4095, (x.b + y.b) % 8191⟩
def Residue.sum (xs : List Residue) : Residue := xs.foldl Residue.add Residue.zero

/-- ρ of a value for both moduli. -/
def residue (w : WireForm) (x : Num) : Residue := ⟨rho w 4095 12 x, rho w 8191 13 x⟩

/-- The cairn word (Table 10.8). -/
def cairnWord (count : Nat) (round exact : Residue) : Word :=
  BitVec.ofNat 64 (count * 2 ^ 50 + round.a * 2 ^ 38 + exact.a * 2 ^ 26 + round.b * 2 ^ 13 + exact.b)

def cairnCount (c : Word) : Nat := bits c.toNat 63 50
def cairnRound (c : Word) : Residue := ⟨bits c.toNat 49 38, bits c.toNat 25 13⟩
def cairnExact (c : Word) : Residue := ⟨bits c.toNat 37 26, bits c.toNat 12 0⟩

/-- ρ of a block's values. -/
def blockResidue (w : WireForm) (terms : List (List Num)) : Residue :=
  Residue.sum (terms.map fun ts => Residue.sum (ts.map (residue w)))

/-- Whether a block passes the check of R281; a SPECIAL block is not checked (R282). -/
def blockChecks (w : WireForm) (r : BlockRec) : Bool :=
  match blockTerms w r.data with
  | none => false
  | some ts =>
    r.special ||
      (let t := (blockResidue w ts).add (cairnRound r.cairn)
       t.a == (cairnExact r.cairn).a % 4095 && t.b == (cairnExact r.cairn).b % 8191)

/-! ### Contributions (R271) -/

/-- The exact sum of an element's buffer, compensation and carry words, or of an EXACT adder's inputs, with flags. Terms are taken in
order, so that +∞ and −∞ met before a NaN set NV (assumption 115). -/
def exactSum (xs : List Num) : Num × Nat :=
  match xs with
  | [] => (.fin false 0 0, 0)
  | x :: rest => rest.foldl (fun a y => let r := numAdd a.1 y; (r.1, a.2 ||| r.2)) (x, 0)

/-- One element in wire form: its terms, the words or limbs that carry it, and flags. -/
structure WireEl where
  terms : List Num
  codes : List Nat
  flags : Nat
  deriving DecidableEq, Repr

/-- A value put into wire form (R271, R272). -/
def wireEl (w : WireForm) (x : Num) : WireEl :=
  if w.mode = 1 then
    let r := pairEncode w.fmt .ne x
    ⟨[w.fmt.decode r.1, w.fmt.decode r.2.1], [r.1, r.2.1], r.2.2⟩
  else
    let r := w.fmt.convert .ne x
    ⟨[w.fmt.decode r.1], if w.mode = 2 then limbElem w (w.fmt.decode r.1) else [r.1], r.2⟩

/-- The block record of wire elements with given residues. -/
def blockOf (w : WireForm) (els : List WireEl) (special : Bool) (cairn : Word) : BlockRec :=
  let data :=
    if w.mode = 1 then wordsBytes (els.map fun e => e.codes.getD 0 0) ++ wordsBytes (els.map fun e => e.codes.getD 1 0)
    else wordsBytes (els.flatMap fun e => e.codes)
  ⟨special, cairn, data⟩

/-- Whether any term is a NaN or an infinity (R282). -/
def anySpecial (els : List WireEl) : Bool := els.any fun e => e.terms.any fun t => !t.isFin

/-- A rank's contribution block from its exact element values: the record, and flags (R271, R281, R287). `zeroNan` is
NAN = ZERO_ELEMENT. -/
def contribution (w : WireForm) (zeroNan : Bool) (xs : List (Num × Nat)) : BlockRec × Nat :=
  let els := xs.map fun x => wireEl w (if zeroNan && x.1.isNan then .fin false 0 0 else x.1)
  let terms := els.map (·.terms)
  (blockOf w els (anySpecial els) (cairnWord 1 Residue.zero (blockResidue w terms)),
    (xs.map (·.2)).foldl (· ||| ·) 0 ||| (els.map (·.flags)).foldl (· ||| ·) 0)

/-! ### Adders (R272, R273) -/

/-- State of one element's adder: t and c as FP32 encodings, r as residues, and flags of the sum path. -/
structure AddState where
  t : Nat
  c : Nat
  r : Residue
  flags : Nat
  deriving DecidableEq, Repr

/-- One further term: t1 = rne32(t + x), d exact, c1 = rne32(c + d), the rest kept as residues. -/
def addTerm (w : WireForm) (a : AddState) (x : Num) : AddState :=
  let exact := (numAdd (fp32.decode a.t) x).1
  let s := fp32.finish (numAdd (fp32.decode a.t) x)
  let d := (numAdd exact (numNeg (fp32.decode s.1))).1
  let cd := (numAdd (fp32.decode a.c) d).1
  let c1 := (fp32.convert .ne cd).1
  let lost := (numAdd cd (numNeg (fp32.decode c1))).1
  let ok := exact.isFin && (fp32.decode s.1).isFin && (fp32.decode c1).isFin
  ⟨s.1, if ok then c1 else a.c, if ok then a.r.add (residue w lost) else a.r, a.flags ||| s.2⟩

/-- A TREE or TREE_PAIR adder over an element's terms: its wire element, ρ(e), and whether its own sum made a NaN from terms that hold
none (R287). -/
def addTree (w : WireForm) (zeroNan : Bool) (xs : List Num) : WireEl × Residue × Bool :=
  match xs with
  | [] => (wireEl w (.fin false 0 0), Residue.zero, false)
  | x :: rest =>
    let a := rest.foldl (addTerm w) ⟨fp32.encodeNe x, 0, Residue.zero, 0⟩
    let total := (numAdd (fp32.decode a.t) (fp32.decode a.c)).1
    let total := if (fp32.decode a.t).isFin then total else fp32.decode a.t
    let keepNan := xs.any (·.isNan)
    let o := wireEl w (if zeroNan && total.isNan && !keepNan then .fin false 0 0 else total)
    let err := (numAdd total (numNeg (termsValue o.terms))).1
    ({ o with flags := o.flags ||| a.flags }, if err.isFin && total.isFin then a.r.add (residue w err) else a.r,
      total.isNan && !keepNan)

/-- An EXACT adder: the exact sum; at the root it is rounded once to the wire format (R273). The third part is as for addTree. -/
def addExact (w : WireForm) (zeroNan root : Bool) (xs : List Num) : WireEl × Residue × Bool :=
  let s := exactSum xs
  let new := s.1.isNan && !xs.any (·.isNan)
  let v := if zeroNan && new then .fin false 0 0 else s.1
  if root then
    let o := wireEl w v
    let err := (numAdd v (numNeg (termsValue o.terms))).1
    ({ o with flags := o.flags ||| s.2 }, residue w err, new)
  else (⟨[v], limbElem w v, s.2⟩, Residue.zero, new)

/-- A folded block, its flags, and the lowest element, if any, where the adder made a NaN from inputs that were not NaN (R287). -/
structure Folded where
  block : BlockRec
  flags : Nat
  newNan : Option Nat
  deriving DecidableEq, Repr

/-- One adder over its present input blocks, in order (R272, R281). A single input passes unchanged, but for the root's
rounding in EXACT. -/
def foldBlocks (w : WireForm) (zeroNan root : Bool) (inputs : List BlockRec) : Folded :=
  match inputs, w.mode == 2 && root with
  | [x], false => ⟨x, 0, none⟩
  | _, _ =>
    let ts := inputs.map fun i => (blockTerms w i.data).getD (List.replicate 64 [.fin false 0 0])
    let els := (List.range 64).map fun i =>
      let xs := ts.flatMap fun b => b.getD i []
      if w.mode = 2 then addExact w zeroNan root xs else addTree w zeroNan xs
    let outs := els.map (·.1)
    let special := inputs.any (·.special) || anySpecial outs
    let exact := Residue.sum (inputs.map fun i => cairnExact i.cairn)
    let round := (Residue.sum (inputs.map fun i => cairnRound i.cairn)).add (Residue.sum (els.map (·.2.1)))
    let count := (inputs.map fun i => cairnCount i.cairn).foldl (· + ·) 0
    let newNan := els.findIdx? (·.2.2)
    ⟨blockOf w outs special (cairnWord count round exact), (outs.map (·.flags)).foldl (· ||| ·) 0, newNan⟩

/-- The result block of a shard with no contribution: +0 values, COUNT 0, residues 0 (R289). -/
def zeroBlock (w : WireForm) : BlockRec :=
  blockOf w (List.replicate 64 (wireEl w (.fin false 0 0))) false 0

/-! ### Results and norms (R289, R292) -/

/-- The FP32 value word of a result element: rne32(x / C), or x rounded once where c is none (R289). -/
def resultWord (x : Num) (c : Option Nat) : Nat × Nat :=
  match c with
  | none => fp32.convert .ne x
  | some 0 => (0, 0)
  | some n => fp32.finish2 .ne (numDiv x (.fin false n 0))

/-- A block's sum of rne32(f × f) by the tree of R116 (R292). -/
def blockNorm (xs : List Num) : Nat :=
  let sq := xs.map fun x => let f := fp32.encodeNe x; some (fp32.mul f f).1
  (treeSum fp32.add 6 sq).1.getD 0

/-- The FP64 sum of squares continued over a block's result values in ascending order (R292). -/
def squaresFrom (acc : Nat) (xs : List Num) : Nat :=
  xs.foldl (fun a x => (fp64.add a (fp64.convert .ne (numMul x x).1).1).1) acc

/-- Heap positions and ranks (R270). -/
def heapShift (n sh : Nat) : Nat := sh * (n / 16)
def rankAt (n sh p : Nat) : Nat := (p + heapShift n sh) % max 1 n
def posOf (n sh r : Nat) : Nat := (r + n * (sh + 1) - heapShift n sh) % max 1 n
def heapParent (p : Nat) : Nat := (p - 1) / 2
def heapChildren (n p : Nat) : List Nat := [2 * p + 1, 2 * p + 2].filter (fun q => decide (q < n))

end Sys2Proof.Machine
end

