-- ==== Sys2Proof/Machine/RedOps.lean ====
section
/-!
DEFINITION. The reduction engines as shared operations (chapter 10): groups and trees, launch and admission, REDUCE_PUTs,
contributions, missing positions and the bypass rule, folding, results, finality.
-/
namespace Sys2Proof.Machine

open Sys2Proof

/-! ### Groups and ranks (R264, R270) -/

/-- A field of a group's GROUP_CFG as it stood at the step's launch (R264, chapter 10's set-up registers). -/
def State.groupF (s : State) (f : Fld) (g : Nat) : Nat := f.get (kget 0 s.red.groups g)
def State.groupN (s : State) (g : Nat) : Nat := s.groupF GROUP_CFG_NRANKS g
def State.groupRank (s : State) (g : Nat) : Nat := s.groupF GROUP_CFG_MY_RANK g
/-- Whether the package is a backup in a group (R265). -/
def State.groupBackup (s : State) (g : Nat) : Bool := s.groupF GROUP_CFG_ROLE g == 1
/-- STRAGGLER: 0 WAIT, 1 BACKUP, 2 DEFER, 3 DROP. -/
def State.straggler (s : State) (g : Nat) : Nat := s.groupF GROUP_CFG_STRAGGLER g
/-- NAN: 0 PROPAGATE, 1 ZERO_ELEMENT, 2 QUARANTINE. -/
def State.nanPolicy (s : State) (g : Nat) : Nat := s.groupF GROUP_CFG_NAN g
/-- A rank table entry (Table 10.2). -/
def State.rankEntry (s : State) (g r : Nat) : Nat := s.seenN (s.getF RANK_TABLE_BASE 0 g * 64 + 4 * r) 4
/-- Device of a rank's primary. -/
def State.rankDevice (s : State) (g r : Nat) : Nat := s.rankEntry g r % 16384
/-- Device of the rank at a heap position of a shard. -/
def State.posDevice (s : State) (g sh p : Nat) : Nat := s.rankDevice g (rankAt (s.groupN g) sh p)
/-- Whether the rank at a heap position is still a member of the job (R244). -/
def State.posPresent (s : State) (g sh p : Nat) : Bool :=
  s.posDevice g sh p == s.device || s.jobPeer (s.posDevice g sh p)

/-- The nearest ancestor of a position that is present, if any. -/
def State.nearestAncestor (s : State) (g sh : Nat) : Nat → Nat → Option Nat
  | 0, _ => none
  | fuel + 1, p =>
    if p = 0 then none
    else if s.posPresent g sh (heapParent p) then some (heapParent p)
    else State.nearestAncestor s g sh fuel (heapParent p)

/-- The lowest heap position below the root whose rank is present: where the root's addition goes while the root is missing
(R286). -/
def State.lowestBelow (s : State) (g sh : Nat) : Option Nat :=
  (rangeFrom 1 (s.groupN g - 1)).find? fun p => s.posPresent g sh p

/-- The device that a rank's rank table entry names as backup. -/
def State.backupDevice (s : State) (g sh p : Nat) : Option Nat :=
  let e := s.rankEntry g (rankAt (s.groupN g) sh p)
  if e.testBit 31 then some (bits e 29 16) else none

/-- The backup that a missing position is filled from where this rank saw no START of it: under BACKUP, the one named, if it is a
member (assumption 98). -/
def State.backupAt (s : State) (g sh p : Nat) : Option Nat :=
  if s.straggler g = 1 then (s.backupDevice g sh p).filter fun d => s.jobPeer d || d == s.device else none

/-! ### Buckets and shards of the step -/

def BucketCfg.wire (c : BucketCfg) : WireForm := ⟨c.fp16, c.mode⟩
/-- Elements of a bucket (R262). -/
def BucketCfg.elems (c : BucketCfg) : Nat := c.len64k * 16384
/-- Blocks of one shard (R269). -/
def BucketCfg.blocks (c : BucketCfg) : Nat := c.len64k * 16
/-- Bytes of the buffer, or of the carry area (R262). -/
def BucketCfg.bytes (c : BucketCfg) : Nat := c.elems * (if c.comp then 8 else 4)
/-- Stage reservation of one shard (Table 10.7). -/
def BucketCfg.stage (c : BucketCfg) : Nat :=
  c.blocks * (if c.mode = 2 then (if c.fp16 then 1944 else 7320) else if c.mode = 1 then 792 else 408)

def State.bucketRun (s : State) (b : Nat) : Option BucketRun := s.red.buckets.find? fun x => x.bucket == b
def State.shardRun (s : State) (b sh : Nat) : Option ShardRun :=
  s.red.shards.find? fun x => x.bucket == b && x.shard == sh
def State.setBucketRun (s : State) (x : BucketRun) : State :=
  (s.setRed fun r => { r with buckets := r.buckets.map fun y => if y.bucket = x.bucket then x else y })
def State.setShardRun (s : State) (x : ShardRun) : State :=
  (s.setRed fun r => { r with
      shards := r.shards.map fun y => if y.bucket = x.bucket ∧ y.shard = x.shard then x else y })
/-- Change one shard's run. -/
def State.updShard (s : State) (b sh : Nat) (f : ShardRun → ShardRun) : State :=
  match s.shardRun b sh with
  | some x => s.setShardRun (f x)
  | none => s

/-- The die that handles a shard (R269). -/
def shardDie (sh : Nat) : Nat := sh % 4

/-- The step being reduced. -/
def State.redStep (s : State) : Nat := s.red.launched.getD 0

/-- Whether a bucket table entry keeps the rules of R261 and R262. -/
def State.bucketOk (s : State) (b : Nat) : Bool :=
  let c := s.bucketCfg b
  let ctl := s.bucketCtrl b
  let inTalus (a : Nat) : Bool :=
    (match place a with | .talus _ _ => true | _ => false) && !decide (s.extentReach a c.bytes = .unmapped)
  decide (16 ≤ c.len64k ∧ c.len64k ≤ 4096) && decide (c.mode ≠ 3) && bits ctl 24 20 == 0 && bits ctl 15 13 == 0 &&
  s.seenN (s.bucketAddr b + 0x14) 12 == 0 && decide (c.buf < 2 ^ 48) && decide (c.carry < 2 ^ 48) && c.buf % 4096 == 0 &&
  c.carry % 4096 == 0 && inTalus c.buf && (!c.carryEn || inTalus c.carry)

/-! ### REDUCE_PUT (R275) -/

/-- A reduction locator (Table 10.5). -/
def locator (bucket shard kind group block : Nat) : Nat :=
  bucket * 2 ^ 36 + shard * 2 ^ 32 + kind * 2 ^ 28 + group * 2 ^ 24 + block
def locBucket (a : Nat) : Nat := bits a 47 36
def locShard (a : Nat) : Nat := bits a 35 32
def locKind (a : Nat) : Nat := bits a 31 28
def locGroup (a : Nat) : Nat := bits a 27 24
def locBlock (a : Nat) : Nat := bits a 15 0

/-- A payload padded with zeros to a multiple of 64 bytes, at least 64. -/
def padPayload (bs : List Byte) : List Byte :=
  let n := max 64 ((bs.length + 63) / 64 * 64)
  bs ++ List.replicate (n - bs.length) 0

/-- The bytes of a block record (R275). -/
def BlockRec.bytes (r : BlockRec) : List Byte :=
  leBytes 8 (b2n r.special + r.data.length * 65536) ++ leBytes 8 r.cairn.toNat ++ r.data ++
  List.replicate ((8 - r.data.length % 8) % 8) 0

/-- Issue a REDUCE_PUT to a device. -/
def State.redIssue (s : State) (x : RedSent) : State :=
  let pay := padPayload x.data
  let ptr : Word := BitVec.ofNat 64 (2 ^ 62 + x.dst * 2 ^ 48 + locator x.bucket x.shard x.kind x.group x.block)
  let r : RemReq := ⟨.reduction x.id, .reduce, 0, ptr, 0, pay.length, 2 + s.groupF GROUP_CFG_CLASS x.group, 0, false, pay,
    x.marks, 0, false, 0, x.step, s.job, false, false, 0⟩
  ((s.setRed fun r => { r with sent := r.sent ++ [{ x with resendAt := none }] })).remoteIssue noFire x.die r

/-- Send one REDUCE_PUT of the step's reduction, with the poison of its payload; none for a shard that ended EPOCH_MISMATCH (R294). -/
def State.redSendMarked (s : State) (die dst kind b sh block : Nat) (data : List Byte) (marks : List Bool) : State :=
  match s.bucketRun b with
  | none => s
  | some br =>
    if (s.shardRun b sh).any fun x => x.status == some stEPOCH then s else
    let x : RedSent := ⟨s.red.seq, die, dst, kind, b, sh, block, data, marks, s.redStep, br.cfg.group, none⟩
    ((s.setRed fun r => { r with seq := r.seq + 1 })).redIssue x

/-- Send one REDUCE_PUT whose payload holds no poison. -/
def State.redSend (s : State) (die dst kind b sh block : Nat) (data : List Byte) : State :=
  s.redSendMarked die dst kind b sh block data []

/-- Send to the rank at a heap position. -/
def State.redSendPos (s : State) (br : BucketRun) (sh p kind block : Nat) (data : List Byte) : State :=
  s.redSend (shardDie sh) (s.posDevice br.cfg.group sh p) kind br.bucket sh block data

/-! ### Outcomes of a shard -/

/-- A shard ends with a status; its reservation is released (R277). -/
def State.shardEnd (s : State) (b sh status : Nat) : State :=
  s.updShard b sh fun x => if x.status.isSome then x else { x with status := some status, reserved := 0 }

/-- STATE of CORNICE_STATUS: 0 IDLE, 1 RUNNING, 2 REDUCING, 3 FINAL, 4 COLLAPSING, 5 RESTORED (Table 12.12). -/
def State.corState (s : State) : Nat := s.getF CORNICE_STATUS_STATE 0 0
/-- The step that the state names. -/
def State.corStep (s : State) : Nat := s.getF CORNICE_STATUS_STEP 0 0

/-- Send STEP_STATE to the summit (R327, Table 12.3). -/
def State.sendStepState (s : State) (state status group bucket : Nat) : State :=
  s.mgmt 0x94 (s.getF SUMMIT_INFO_SUMMIT_ID 0 0)
    [s.job, s.getF CORNICE_STATUS_STEP 0 0, s.getF CORNICE_STATUS_TRY 0 0, state,
     ((List.range 4).filter fun d => !s.dieRunning d).foldl (fun m d => m + 2 ^ d) 0, status, group, bucket,
     s.getF CORNICE_STATUS_HALTED 0 0]


/-! ### Own contribution (R271, R288) -/

/-- The four FP32 words behind an element: value, compensation, carry value, carry compensation, as present. -/
def State.elemWords (s : State) (c : BucketCfg) (carry : Bool) (e : Nat) : List Num :=
  let w (a : Nat) : Num := fp32.decode (s.readN a 4)
  let pairAt (base : Nat) : List Num := w (base + 4 * e) :: (if c.comp then [w (base + 4 * c.elems + 4 * e)] else [])
  pairAt c.buf ++ (if carry then pairAt c.carry else [])

/-- The ranges of 256 bytes behind a block of 64 elements: value words, compensation words, and the carry's. -/
def BucketCfg.blockRanges (c : BucketCfg) (carry : Bool) (e0 : Nat) : List Nat :=
  let pair (base : Nat) : List Nat := (base + 4 * e0) :: (if c.comp then [base + 4 * c.elems + 4 * e0] else [])
  pair c.buf ++ (if carry then pair c.carry else [])

/-- Whether the words behind a block of 64 elements hold poison, or cannot be read. A held access is neither (R175). -/
def State.blockPoisoned (s : State) (c : BucketCfg) (carry : Bool) (e0 : Nat) : Bool :=
  (c.blockRanges carry e0).any fun a =>
    s.poisoned a 256 || decide (s.extentReach a 256 ≠ .ok ∧ s.extentReach a 256 ≠ .held)

/-- Whether die d's access to a block's words waits (R31, R166, R175). -/
def State.blockHeld (s : State) (c : BucketCfg) (d : Nat) (carry write : Bool) (e0 : Nat) : Bool :=
  (c.blockRanges carry e0).any fun a => s.engineHeld d a 256 write

/-- Key of a kept contribution. -/
def keptKey (bucket sh b : Nat) : Nat := bucket * 2 ^ 20 + sh * 2 ^ 16 + b

/-- Whether a carry is held for a shard of a bucket (R288). -/
def State.carryHeld (s : State) (bucket sh : Nat) : Bool := s.red.carries.contains (bucket * 16 + sh)

/-- Die d reads a block's words: a deferred record for what is unmapped, and what ECC finds (R40, R114). -/
def State.lookBlock (s : State) (c : BucketCfg) (d : Nat) (carry : Bool) (e0 : Nat) : State :=
  (c.blockRanges carry e0).foldl (fun u a => u.look d c.group a 256) s

/-- A rank's own contribution block: none where a buffer word is poisoned (R288); else the record, flags, its norm
(R292), and whether it holds a NaN. A kept contribution stands in for the buffer (R295), its norm then being that of the kept words; under
ZERO_ELEMENT the norm is that of the elements before they become +0 (R287, R292; assumption 115). -/
def State.ownBlock (s : State) (br : BucketRun) (sh b : Nat) : Option (BlockRec × Nat × Nat × Bool) :=
  let c := br.cfg
  let zeroNan := s.nanPolicy c.group == 1
  let kept := kget [] s.red.kept (keptKey br.bucket sh b)
  if !kept.isEmpty then
    let ts := (blockTerms c.wire kept).getD []
    let xs := ts.map fun t => (termsValue t, 0)
    some ((contribution c.wire zeroNan xs).1, 0, blockNorm (xs.map (·.1)), xs.any fun x => x.1.isNan)
  else
    let carry := s.carryHeld br.bucket sh
    let e0 := (sh * c.blocks + b) * 64
    if s.blockPoisoned c carry e0 then none
    else
      let xs := (List.range 64).map fun i => exactSum (s.elemWords c carry (e0 + i))
      let r := contribution c.wire zeroNan xs
      some (r.1, r.2, blockNorm (xs.map (·.1)), xs.any fun x => x.1.isNan)

/-- The lowest element of the shards that die d handles whose contribution is NaN. -/
def State.lowestNan (s : State) (br : BucketRun) (d : Nat) : Nat :=
  let c := br.cfg
  let n := c.blocks * 64
  (((List.range 4).flatMap fun k => rangeFrom ((4 * k + d) * n) n).find? fun e =>
    (exactSum (s.elemWords c (s.carryHeld br.bucket (e / n)) e)).1.isNan).getD 0

/-- The die that finds a NaN sets NV and writes one record per bucket, which names the lowest element that holds it (R287). -/
def State.nanFound (s : State) (br : BucketRun) (d elem : Nat) : State :=
  let s1 := s.orFlags DIE_ENGINE_FLAGS_RED d 0 br.cfg.group 2 flagNV
  if br.nanDies.contains d then s1
  else
    (s1.raise 0 0x31 d br.cfg.group 0 br.bucket elem (s.groupRank br.cfg.group)).setBucketRun
      { br with nanDies := br.nanDies ++ [d] }

/-! ### Sending results (R278, R285) -/

/-- The 24-byte noise trailer (R292). -/
def trailerBytes (t : Nat × Nat × Nat) : List Byte := leBytes 8 t.1 ++ leBytes 8 t.2.1 ++ leBytes 2 t.2.2 ++ List.replicate 6 0

/-- The trailer in 24 bytes. -/
def readTrailer (bs : List Byte) : Nat × Nat × Nat :=
  (leNat (bs.take 8), leNat ((bs.drop 8).take 8), leNat ((bs.drop 16).take 2))

/-- Devices that this rank sends results to: children, missing ranks below it that are still members, backups whose START
came, and the root's own backup, whose START has no parent to go to; and backups that a filled position's contribution is asked of (R278, R285, assumption 25). -/
def State.resultTargets (s : State) (br : BucketRun) (x : ShardRun) : List Nat :=
  let g := br.cfg.group
  let backupOf (p : Nat) : List Nat := (s.backupDevice g x.shard p).toList
  (x.nodes.flatMap fun n =>
    let dev := s.posDevice g x.shard n.pos
    (if dev ≠ s.device && s.jobPeer dev then [dev] else []) ++ ((backupOf n.pos).filter fun dev => n.backup || n.ownFrom == some dev)) ++
  (if x.pos = 0 ∧ s.straggler g = 1 ∧ !s.groupBackup g then backupOf 0 else [])

/-- The devices beside this rank in a shard's tree: its parent's, and those it sends results to or takes blocks from (R270). -/
def State.treeNeighbours (s : State) (br : BucketRun) (x : ShardRun) : List Nat :=
  let g := br.cfg.group
  let up : List Nat := if x.pos = 0 then [] else [s.posDevice g x.shard (heapParent x.pos)]
  ((up ++ (x.nodes.map fun (n : RedNode) => s.posDevice g x.shard n.pos) ++ s.resultTargets br x).eraseDups).filter fun dev =>
    dev != s.device && s.jobPeer dev

/-- A shard completes CHECK_FAILED, counts, and tells the ranks beside it in the tree, so that every rank of the shard completes so: by an
ABSENT whose first payload byte is 2 (R283; assumption 98). -/
def State.shardFailed (s : State) (br : BucketRun) (sh : Nat) : State :=
  match s.shardRun br.bucket sh with
  | some x =>
    if x.status.isSome then s
    else
      (s.treeNeighbours br x).foldl (fun u dev => u.redSend (shardDie sh) dev 3 br.bucket sh 0 (leBytes 1 2))
        ((s.shardEnd br.bucket sh stCHECK).satF CAIRN_COUNTS_FAILED 0 (shardDie sh) 1)
  | none => s

/-- A shard completes CHECK_FAILED at its checker, which decides and sends FAULT (R283, R291). -/
def State.checkFailed (s : State) (br : BucketRun) (sh : Nat) : State :=
  (s.shardFailed br sh).sendStepState 2 stCHECK br.cfg.group br.bucket

/-- Send result block b, with the trailer after the last (Table 10.6). -/
def State.sendResult (s : State) (br : BucketRun) (x : ShardRun) (b : Nat) (r : BlockRec) (toN : List Nat) : State :=
  let extra := if b + 1 = br.cfg.blocks then trailerBytes (x.trailer.getD (0, 0, 0)) else []
  toN.foldl (fun u dev => u.redSend (shardDie x.shard) dev 1 br.bucket x.shard b (r.bytes ++ extra)) s

/-! ### The tree below this rank (R278, R286) -/

def RedNode.fresh (pos : Nat) : RedNode := ⟨pos, false, false, false, 0, false, none, [], [], 0, false, false⟩

def ShardRun.node (x : ShardRun) (p : Nat) : Option RedNode := x.nodes.find? fun n => n.pos == p
def ShardRun.setNode (x : ShardRun) (n : RedNode) : ShardRun :=
  { x with nodes := x.nodes.map fun m => if m.pos = n.pos then n else m }

/-- A shard's run at launch. -/
def ShardRun.fresh (bucket shard pos : Nat) (kids : List Nat) : ShardRun where
  bucket := bucket
  shard := shard
  admitted := false
  started := false
  withheld := none
  pos := pos
  top := pos
  goGot := false
  nodes := kids.map RedNode.fresh
  outs := []
  next := 0
  asked := []
  nextResult := 0
  results := []
  count := 0
  running := 0
  norm := 0
  squares := 0
  trailer := none
  checks := []
  carried := false
  fetching := false
  fetchers := []
  reserved := 0
  status := none

/-- A count of blocks in the two bytes of RESEND and OWN_REQ: 65,536 is 0 there (Table 10.6, assumption 98). -/
def blockCount (bs : List Byte) : Nat :=
  let n := leNat (bs.take 2)
  if n = 0 then 65536 else n

/-- Fill a missing position by the bypass rule (R286): its children become inputs, fetched by RESEND; its own input comes
by OWN_REQ from `ownFrom`, or is zero. A child whose rank has departed is filled in turn. -/
def State.fillMissing (s : State) (br : BucketRun) (x : ShardRun) (ownFrom : Option Nat) : Nat → Nat → State × ShardRun
  | 0, _ => (s, x)
  | fuel + 1, p =>
    let g := br.cfg.group
    let n := (x.node p).getD (RedNode.fresh p)
    let x1 := x.setNode { n with missing := true, ownFrom := ownFrom, blocks := [], lastAt := s.fabricNow }
    let left := leBytes 2 (br.cfg.blocks - x.next)
    let ended := decide (br.cfg.blocks ≤ x.next)
    let s1 :=
      match ownFrom with
      | some dev => if ended then s else s.redSend (shardDie x.shard) dev 6 br.bucket x.shard x.next left
      | none => s
    (heapChildren (s.groupN g) p).foldl (fun (a : State × ShardRun) q =>
      if q = x.pos ∨ (a.2.node q).isSome then a
      else
        let y := { a.2 with nodes := a.2.nodes ++ [{ RedNode.fresh q with started := true, goSent := true, lastAt := s.fabricNow }] }
        if s.posPresent g x.shard q then (if ended then a.1 else a.1.redSendPos br x.shard q 5 x.next left, y)
        else State.fillMissing a.1 br y (s.backupAt g x.shard q) fuel q) (s1, x1)

/-- Fill a missing position, and send the result blocks at hand to the ranks that now get them from here (R286). -/
def State.fillAt (s : State) (br : BucketRun) (x : ShardRun) (ownFrom : Option Nat) (p : Nat) : State :=
  let r := s.fillMissing br x ownFrom 16 p
  let s1 := r.1.setShardRun r.2
  let new := (s1.resultTargets br r.2).filter fun dev => !(s.resultTargets br x).contains dev
  (List.range x.nextResult).foldl (fun u b =>
    match kget none x.results b with
    | some blk => u.sendResult br x b blk new
    | none => u) s1

/-- The rank at a position is missing for a shard (R284); under BACKUP its backup takes its place where its START came, which for
a child of another missing position this rank cannot see. -/
def State.declareMissing (s : State) (br : BucketRun) (x : ShardRun) (p : Nat) : State :=
  match x.node p with
  | none => s
  | some n =>
    if n.missing then s
    else
      let seen := n.backup || heapParent p != x.pos
      s.fillAt br x (if seen then s.backupAt br.cfg.group x.shard p else none) p

/-- The root is missing: the present rank at the lowest heap position below performs its addition, from the first block whose result
it does not hold (R286). -/
def State.electTop (s : State) (br : BucketRun) (x : ShardRun) : State :=
  let g := br.cfg.group
  if x.pos = 0 ∨ x.top = 0 ∨ s.lowestBelow g x.shard ≠ some x.pos then s
  else
    s.fillAt br { x with top := 0, next := x.nextResult, nodes := x.nodes ++ [RedNode.fresh 0] } (s.backupAt g x.shard 0) 0

/-- Send GO to a child that has sent START, once the reservation is held (R278). -/
def State.sendGo (s : State) (br : BucketRun) (x : ShardRun) (n : RedNode) : State :=
  if n.goSent || n.missing || !n.started || !x.admitted then s
  else
    (s.setShardRun (x.setNode { n with goSent := true, lastAt := s.fabricNow })).redSendPos br x.shard n.pos 4 0 []

/-- The node that a packet of a device is about: its rank, or the rank that it backs up. -/
def State.nodeOf (s : State) (br : BucketRun) (x : ShardRun) (dev : Nat) (backup : Bool) : Option RedNode :=
  let g := br.cfg.group
  x.nodes.find? fun n =>
    if backup then s.backupDevice g x.shard n.pos == some dev else s.posDevice g x.shard n.pos == dev

/-- START of a rank or of its backup reaches the parent: GO goes out where the reservation is held, again for a START that comes again; a
rank already declared missing is told BYPASSED (R278, Table 10.10a). -/
def State.takeStart (s : State) (br : BucketRun) (x : ShardRun) (dev : Nat) (backup : Bool) : State :=
  match s.nodeOf br x dev backup with
  | none => s
  | some n =>
    if backup then s.setShardRun (x.setNode { n with backup := true })
    else if n.missing then
      (if s.straggler br.cfg.group = 0 then s else s.redSendPos br x.shard n.pos 8 0 [])
    else
      let m := { n with started := true, heldAbsent := false, goSent := false }
      (s.setShardRun (x.setNode m)).sendGo br (x.setNode m) m

/-- ABSENT reaches the parent (R284, Table 10.10a). Its first payload byte is 1 for a poisoned word or QUARANTINE, 2 for a failed shard.
Under WAIT any other is held until START comes again. An ABSENT for a contribution asked for by OWN_REQ leaves zero in its place; that of
the root comes to the rank that takes the root's place (R286; assumptions 63, 98). -/
def State.takeAbsent (s : State) (br : BucketRun) (x : ShardRun) (dev code : Nat) : State :=
  let held := s.straggler br.cfg.group == 0 && code != 1
  if code = 2 then s.shardFailed br x.shard
  else match x.nodes.find? fun n => n.missing && n.ownFrom == some dev with
  | some n => if held then s else s.setShardRun (x.setNode { n with ownFrom := none })
  | none =>
    if x.pos ≠ 0 ∧ s.posDevice br.cfg.group x.shard 0 = dev then (if held then s else s.electTop br x)
    else
      match s.nodeOf br x dev false with
      | none => s
      | some n =>
        if n.missing then s
        else if held then s.setShardRun (x.setNode { n with heldAbsent := true, started := false, goSent := false })
        else s.declareMissing br x n.pos

/-- START and ABSENT packets of step n that came before the launch take effect. -/
def State.takeEarly (s : State) (n : Nat) : State :=
  let s1 := (s.setRed fun r => { r with early := r.early.filter fun e => decide (n < e.1) })
  (s.red.early.filter fun e => e.1 == n).foldl (fun (u : State) (e : Nat × Nat × Nat × Nat × Nat) =>
    match u.bucketRun (locBucket e.2.2.1), u.shardRun (locBucket e.2.2.1) (locShard e.2.2.1) with
    | some br, some x =>
      if e.2.1 = 2 then u.takeStart br x e.2.2.2.1 (e.2.2.2.2 % 2 == 1) else u.takeAbsent br x e.2.2.2.1 e.2.2.2.2
    | _, _ => u) s1

/-! ### Launch and admission (R266, R267, R277) -/

/-- A bucket that the step reduces: it neither broke a rule at launch nor collapsed. -/
def BucketRun.reduces (br : BucketRun) : Bool := br.status != some stINVALID && br.status != some stCOLLAPSED

/-- Launch the shards of one bucket that die d handles. -/
def State.launchShards (s : State) (br : BucketRun) (d : Nat) : State :=
  let g := br.cfg.group
  let n := s.groupN g
  let size := s.getF STAGE_SIZE_SIZE 0 d * 4096
  (List.range 4).foldl (fun u k =>
    let sh := 4 * k + d
    if (u.shardRun br.bucket sh).isSome then u
    else
      let p := posOf n sh (u.groupRank g)
      let x := ShardRun.fresh br.bucket sh p (if u.groupBackup g then [] else heapChildren n p)
      let x := if size < br.cfg.stage then { x with status := some stNORES } else x
      (u.setRed fun r => { r with shards := r.shards ++ [x] })) s

/-- Die d launches the step's reduction for every VALID bucket of every enabled group; under QUARANTINE its scan begins (R267,
R287). -/
def State.launchDie (s : State) (d : Nat) : State :=
  s.red.buckets.foldl (fun u br =>
    if !br.reduces then u
    else
      let v := u.launchShards br d
      if s.nanPolicy br.cfg.group = 2 ∧ !br.scan.contains d then v.setBucketRun { br with scan := br.scan ++ [d] } else v) s

/-- The buckets that take part in the step, in ascending order; one that breaks a rule completes INVALID_DESCRIPTOR. -/
def State.launchBuckets (s : State) : List BucketRun :=
  ((List.range 4096).filter fun b => s.bucketValid b && s.flag GROUP_CFG_ENABLE 0 (bits (s.bucketCtrl b) 19 16)).map fun b =>
    let c := s.bucketCfg b
    ⟨b, c, false, [], false, 0, [], [], if s.bucketOk b then none else some stINVALID⟩

/-- The launch reads the bucket table, the gate map and the rank tables of the enabled groups (R40, R261, R264). -/
def State.lookTables (s : State) : State :=
  let s1 := (s.look campDie 0 (s.bucketAddr 0) 131072).look campDie 0 (s.getF GATE_MAP_BASE 0 0 * 4096) 4096
  (List.range 16).foldl (fun u g =>
    if s.flag GROUP_CFG_ENABLE 0 g then u.look campDie g (s.getF RANK_TABLE_BASE 0 g * 64) (4 * s.getF GROUP_CFG_NRANKS 0 g) else u) s1

/-- Requests for updates that were taken before the launch. -/
def State.requestEarly (s : State) : State :=
  s.upd.early.foldl (fun u b => u.requestUpdate b) (s.setUpd fun r => { r with early := [] })

/-- What a launch of step n resets in the reduction engine. -/
def State.launchRecord (s : State) (n base : Nat) (resume : Bool) : State :=
  (s.setRed fun r => { r with
    launched := some n
    base := base
    buckets := s.launchBuckets
    shards := []
    records := []
    kept := if resume then r.keepNow.foldl (fun m e => kset [] m e.1 e.2) r.kept else []
    keepNow := []
    saved := []
    absent := []
    parked := []
    carries0 := r.carries
    prior := if r.launched = some n then r.prior else r.launched.map fun k => (k, r.buckets.map (·.bucket))
    groups := (List.range 16).foldl (fun m g => kset 0 m g (s.reg GROUP_CFG 0 g)) []
    deadlineUs := s.getF RED_EXPERT_DEADLINE_US 0 0
    average := s.getF RED_EXPERT_AVERAGE 0 0
    keep := s.flag RED_EXPERT_KEEP_CONTRIB 0 0 })

/-- Stage bytes reserved on a die. -/
def State.stageUsed (s : State) (d : Nat) : Nat :=
  ((s.red.shards.filter fun x => shardDie x.shard == d).map (·.reserved)).foldl (· + ·) 0

/-- Whether a bucket may enter flight: a slot of its group is free and no lower bucket of the group waits (R267). -/
def State.mayFly (s : State) (br : BucketRun) : Bool :=
  br.inFlight ||
  (decide (s.getF GROUP_STATUS_IN_FLIGHT 0 br.cfg.group < 64) &&
   s.red.buckets.all fun o =>
     !(o.cfg.group == br.cfg.group && decide (o.bucket < br.bucket) && !o.inFlight && o.status.isNone))

/-- Send START to the parent, or to the parent's place in the tree a backup serves (Table 10.6). -/
def State.sendStart (s : State) (br : BucketRun) (x : ShardRun) : State :=
  let backup := s.groupBackup br.cfg.group
  let s1 := s.setShardRun { x with started := true }
  if x.top = 0 ∧ !backup then s1
  else if x.pos = 0 then s1
  else s1.redSendPos br x.shard (heapParent x.pos) 2 0 (leBytes 1 (b2n backup))

/-- GO to every child that may have it. -/
def State.sendGos (s : State) (br : BucketRun) (sh : Nat) : State :=
  match s.shardRun br.bucket sh with
  | none => s
  | some x => x.nodes.foldl (fun u n =>
      match u.shardRun br.bucket sh with
      | some y => u.sendGo br y n
      | none => u) s

/-- The rank that takes the root's place where the root withholds its contribution (R286): the present one at the lowest position below. -/
def State.standIn (s : State) (br : BucketRun) (x : ShardRun) : Option Nat :=
  if x.pos = 0 ∧ !s.groupBackup br.cfg.group then s.lowestBelow br.cfg.group x.shard else none

/-- Rank r withholds its contribution to a shard: ABSENT goes to its parent, that of the root to the rank that takes its place and sends the
results; the first payload byte is 1 for a poisoned word or QUARANTINE (R286; assumptions 24, 63). -/
def State.withhold (s : State) (br : BucketRun) (x : ShardRun) (why : Withheld) : State :=
  let tell (u : State) (p : Nat) : State := u.redSendPos br x.shard p 3 0 (leBytes 1 (b2n (why == .poison || why == .quarantine)))
  match s.standIn br x with
  | some p => tell (s.setShardRun { x with withheld := some why, nodes := [] }) p
  | none =>
    let s1 := s.setShardRun { x with withheld := some why }
    if x.pos = 0 ∨ x.top = 0 then s1 else tell s1 (heapParent x.pos)

/-- Whether a block of a shard's own contribution cannot be read clean (R288). -/
def State.shardPoisoned (s : State) (br : BucketRun) (sh : Nat) : Bool :=
  (List.range br.cfg.blocks).any fun b =>
    (kget [] s.red.kept (keptKey br.bucket sh b)).isEmpty &&
    s.blockPoisoned br.cfg (s.carryHeld br.bucket sh) ((sh * br.cfg.blocks + b) * 64)

/-- The die of a shard reads the words behind its contribution (R40, R114, R288). -/
def State.lookShard (s : State) (br : BucketRun) (sh : Nat) : State :=
  let c := br.cfg
  let n := c.blocks * 256
  (c.blockRanges (s.carryHeld br.bucket sh) (sh * c.blocks * 64)).foldl (fun u a => u.look (shardDie sh) c.group a n) s

/-- A launched shard sends START, or ABSENT where a word of its contribution is poisoned or a scan found a NaN; it waits while its
die's scan runs (R278, R287, R288). -/
def State.releaseStart (s : State) (b sh : Nat) : State :=
  match s.bucketRun b, s.shardRun b sh with
  | some br, some x =>
    if x.started || x.fetching || x.withheld.isSome || x.status.isSome || br.scan.contains (shardDie sh) then s
    else if br.quarantined then s.withhold br x .quarantine
    else
      let t := s.lookShard br sh
      if t.shardPoisoned br sh then t.withhold br x .poison else t.sendStart br x
  | _, _ => s

/-- The four shards of bucket b that die d handles send START or ABSENT. -/
def State.startShards (s : State) (b d : Nat) : State :=
  (List.range 4).foldl (fun u k => u.releaseStart b (4 * k + d)) s

/-- Every shard launched sends START or ABSENT. -/
def State.startAll (s : State) : State :=
  s.red.buckets.foldl (fun u br => (List.range 4).foldl (fun v d => v.startShards br.bucket d) u) s

/-! ### Results (R289) -/

/-- Keep what stands in n bytes from a, until the bucket is final (R295). -/
def State.saveRange (s : State) (bucket a n : Nat) : State :=
  match s.bucketRun bucket with
  | some br =>
    if br.counted.isEmpty then s.setRed fun r => { r with saved := r.saved ++ [⟨bucket, a, s.bytes a n, s.marks a n⟩] } else s
  | none => s

/-- With KEEP_CONTRIB, a shard's whole contribution is kept in wire format before a result overwrites it (R295). -/
def State.keepShard (s : State) (br : BucketRun) (sh : Nat) : State :=
  if !s.red.keep then s
  else (List.range br.cfg.blocks).foldl (fun u b =>
    let k := keptKey br.bucket sh b
    if !(kget [] u.red.keepNow k).isEmpty then u
    else
      match u.ownBlock br sh b with
      | some o => u.setRed fun r => { r with keepNow := kset [] r.keepNow k o.1.data }
      | none => u) s

/-- Copy the shard's buffer words, with their poison, to the carry area, or count the loss (R288); +0 for the blocks below `from_`, whose
results stand in the buffer already (assumption 115). A backup, which is no rank, carries nothing. -/
def State.copyCarry (s : State) (br : BucketRun) (sh from_ : Nat) : State :=
  let c := br.cfg
  let unit := c.group
  let d := shardDie sh
  if s.straggler c.group ≠ 2 ∨ s.groupBackup c.group then s
  else if !c.carryEn then s.setF RED_BLK_STATUS_CARRY_LOST 0 0 1
  else
    let n := c.blocks * 256
    let o := sh * n
    let z := from_ * 256
    let copy (u : State) (at_ : Nat) : State :=
      let u1 := u.saveRange br.bucket (c.carry + at_) n
      let r := u1.localRead d unit (c.buf + at_ + z) (n - z)
      let u2 := r.1.localWrite d unit (c.carry + at_ + z) r.2.1 r.2.2
      if z = 0 then u2 else u2.localWrite d unit (c.carry + at_) (List.replicate z 0) []
    let s1 := copy s o
    let s2 := if c.comp then copy s1 (4 * c.elems + o) else s1
    let k := br.bucket * 16 + sh
    (s2.setRed fun r => { r with carries := if r.carries.contains k then r.carries else r.carries ++ [k] })

/-- C of R289: none where AVERAGE is 2. -/
def State.divisor (s : State) (g count : Nat) : Option Nat :=
  if count = 0 then some 0 else if s.red.average = 2 then none else if s.red.average = 1 then some (s.groupN g) else some count

/-- Write FP32 value words of block b of a shard, with their poison, and +0 compensation words. What stood there is kept until the bucket is
final (R295). -/
def State.writeValues (s : State) (br : BucketRun) (sh b : Nat) (ws : List Nat) (ps : List Bool) : State :=
  let c := br.cfg
  let o := (sh * c.blocks + b) * 256
  let put (u : State) (a : Nat) (bs : List Byte) (qs : List Bool) : State :=
    (u.saveRange br.bucket a 256).localWrite (shardDie sh) c.group a bs qs
  let s1 := put s (c.buf + o) (ws.flatMap (leBytes 4)) ps
  if c.comp then put s1 (c.buf + 4 * c.elems + o) (List.replicate 256 0) [] else s1

/-- Write one result block into the buffer (R289). -/
def State.writeResult (s : State) (br : BucketRun) (sh b : Nat) (r : BlockRec) : State :=
  let c := br.cfg
  let ts := (blockTerms c.wire r.data).getD []
  let div := s.divisor c.group (cairnCount r.cairn)
  let ws := ts.map fun t => resultWord (termsValue t) div
  (s.writeValues br sh b (ws.map (·.1)) []).orFlags DIE_ENGINE_FLAGS_RED (shardDie sh) 0 c.group 2
    ((ws.map (·.2)).foldl (· ||| ·) 0)

/-- The outcome of a shard whose results are all written (R289, Table 10.10a). -/
def State.shardOutcome (s : State) (br : BucketRun) (x : ShardRun) (count : Nat) : Nat :=
  let base := if count < s.groupN br.cfg.group then stDEGRADED else stDONE
  match x.withheld with
  | some .poison => statusMax stPOISONED base
  | _ => base

/-- Replies to FETCH: the shard's final values, one block a packet, the trailer after the last (R285). -/
def State.sendFinals (s : State) (br : BucketRun) (x : ShardRun) (dev : Nat) : State :=
  let c := br.cfg
  (List.range c.blocks).foldl (fun u b =>
    let o := (x.shard * c.blocks + b) * 256
    let extra := if b + 1 = c.blocks then trailerBytes (x.trailer.getD (0, 0, 0)) else []
    let r := u.localRead (shardDie x.shard) c.group (c.buf + o) 256
    r.1.redSendMarked (shardDie x.shard) dev 0xA br.bucket x.shard b (r.2.1 ++ extra) r.2.2) s

/-- A shard becomes final: its outcome, the carry it folded is cleared, waiting FETCHes are answered. -/
def State.shardFinal (s : State) (br : BucketRun) (sh : Nat) : State :=
  match s.shardRun br.bucket sh with
  | none => s
  | some x =>
    let k := br.bucket * 16 + sh
    let folded := x.withheld.isNone && !x.carried
    let s1 := (s.setRed fun r => { r with carries := if folded then r.carries.filter (· != k) else r.carries })
    let s2 := s1.shardEnd br.bucket sh (s1.shardOutcome br x x.count)
    x.fetchers.foldl (fun u dev => u.sendFinals br x dev) (s2.updShard br.bucket sh fun y => { y with fetchers := [] })

/-- Take result block b: the carry is copied first where the own contribution was not folded (R288); the block is written,
kept and forwarded, its values squared for the global norm (R292); the last one makes the shard final. -/
def State.takeResult (s : State) (br : BucketRun) (sh b : Nat) (r : BlockRec) (trailer : Option (Nat × Nat × Nat)) : State :=
  match s.shardRun br.bucket sh with
  | none => s
  | some x =>
    let folded := x.withheld.isNone && (x.goGot || x.top == 0 || !x.asked.isEmpty)
    let s0 := if b = 0 then s.keepShard br sh else s
    let s0 := if !folded && !x.carried then s0.copyCarry br sh x.nextResult else s0
    let n := cairnCount r.cairn
    let vals := ((blockTerms br.cfg.wire r.data).getD []).map termsValue
    let y := { x with
      carried := x.carried || !folded
      results := kset none x.results b (some r)
      nextResult := b + 1
      count := if b = 0 then n else min x.count n
      squares := squaresFrom x.squares vals
      trailer := if trailer.isSome then trailer else x.trailer }
    let s1 := (s0.setShardRun y).writeResult br sh b r
    let s2 := s1.sendResult br y b r (s1.resultTargets br y)
    if b + 1 = br.cfg.blocks then s2.shardFinal br sh else s2

/-! ### Folding (R272, R281, R283, R286) -/

/-- What the tree below a position gives for a block: still waiting, a block that fails its check (its producer's position
and whether that is a proxy's input), or the folded block if any, with flags and the lowest element, if any, where a new NaN
arose. -/
inductive Below where
  | wait
  | bad (pos : Nat) (own : Bool)
  | val (r : Option BlockRec) (flags : Nat) (newNan : Option Nat)
  deriving DecidableEq, Repr

/-- The smaller of two, where there is one. -/
def least : Option Nat → Option Nat → Option Nat
  | some a, some b => some (min a b)
  | some a, none => some a
  | none, b => b

/-- Fold the present inputs of one addition. -/
def joinInputs (w : WireForm) (zeroNan root : Bool) (ins : List Below) : Below :=
  if ins.any (fun i => decide (i = .wait)) then .wait
  else
    match ins.find? (fun i => match i with | .bad _ _ => true | _ => false) with
    | some i => i
    | none =>
      let rs := ins.filterMap fun i => match i with | .val (some r) _ _ => some r | _ => none
      let fl := (ins.map fun i => match i with | .val _ f _ => f | _ => 0).foldl (· ||| ·) 0
      let nn := ins.foldl (fun a i => match i with | .val _ _ n => least a n | _ => a) none
      if rs.isEmpty then .val none fl nn
      else
        let f := foldBlocks w zeroNan root rs
        .val (some f.block) (fl ||| f.flags) (least nn f.newNan)

/-- One landed block as an input: not landed, failing its check, or present. -/
def inputOf (w : WireForm) (p : Nat) (own : Bool) (r : Option BlockRec) : Below :=
  match r with
  | none => .wait
  | some b => if blockChecks w b then .val (some b) 0 none else .bad p own

/-- The output of a position for block b. `own` is this rank's contribution where it is folded; an output retained from before this
rank took the root's place stands as it is. -/
def ShardRun.below (x : ShardRun) (w : WireForm) (zeroNan : Bool) (n b : Nat) (own : Option BlockRec) : Nat → Nat → Below
  | 0, _ => .wait
  | fuel + 1, p =>
    let kids := heapChildren n p
    let root := p == 0
    if p = x.pos then
      match kget none x.outs b with
      | some r => .val (some r) 0 none
      | none => joinInputs w zeroNan root (.val own 0 none :: kids.map fun q => ShardRun.below x w zeroNan n b own fuel q)
    else
      match x.node p with
      | none => .wait
      | some nd =>
        if nd.missing then
          let first := match nd.ownFrom with
            | some _ => inputOf w p true (kget none nd.owns b)
            | none => .val none 0 none
          joinInputs w zeroNan root (first :: kids.map fun q => ShardRun.below x w zeroNan n b own fuel q)
        else inputOf w p false (kget none nd.blocks b)

/-- The hop at position p of a shard is suspect: a corrected record and SUSPECT_HOPS (R283). -/
def State.suspectHop (s : State) (br : BucketRun) (sh p : Nat) : State :=
  let g := br.cfg.group
  ((s.raise 0 0x30 (shardDie sh) g 0 br.bucket sh (p * 2 ^ 32 + rankAt (s.groupN g) sh p)).satF GROUP_STATUS_SUSPECT_HOPS 0 g
    1).setBucketRun { br with suspects := br.suspects + 1 }

/-- A block of the hop at position p fails its check (Table 10.9): first RESEND; at the second the hop is suspect and this rank takes
over its additions, or, where the block is a fetched contribution, asks for it again; at the third the shard fails. -/
def State.mismatch (s : State) (br : BucketRun) (x : ShardRun) (p b : Nat) (own : Bool) : State :=
  let key := p * 2 ^ 20 + b
  let n := kget 0 x.checks key + 1
  let x1 := { x with checks := kset 0 x.checks key n }
  let d := shardDie x.shard
  let g := br.cfg.group
  match x1.node p with
  | none => s
  | some nd =>
    if 3 ≤ n then s.checkFailed br x.shard
    else
      let nd1 := if own then { nd with owns := kset none nd.owns b none } else { nd with blocks := kset none nd.blocks b none }
      let again (u : State) : State :=
        match own, nd.ownFrom with
        | true, some dev => u.redSend d dev 6 br.bucket x.shard b (leBytes 2 1)
        | _, _ => u.redSendPos br x.shard p 5 b (leBytes 2 1)
      if n = 1 then again ((s.setShardRun (x1.setNode nd1)).satF CAIRN_COUNTS_RETRIES 0 d 1)
      else
        let rank := rankAt (s.groupN g) x.shard p
        let s1 := if nd.suspect then s else s.suspectHop br x.shard p
        let br1 := (s1.bucketRun br.bucket).getD br
        if own then again (s1.setShardRun (x1.setNode { nd1 with suspect := true }))
        else
          s1.fillAt br1 (x1.setNode { nd1 with suspect := true }) (some (s.rankDevice g rank)) p

/-- The exact norm accumulator of an FP32 block sum, in units of 2^−149; a sum that is not finite leaves a free value
(assumption 26). -/
def State.normUnits (s : State) (x : Nat) : State × Nat :=
  match fp32.decode x with
  | .fin _ m e => (s, m * 2 ^ (e + 149).toNat)
  | _ => let f := s.takeFree; (f.2, f.1.toNat)

/-- Output block b is ready: it is retained; the root writes and sends the result; another rank sends it once GO came, and
to every rank that asked for it (R278, R283). The last block carries the norm (assumption 27). -/
def State.putOutput (s : State) (br : BucketRun) (x : ShardRun) (b : Nat) (r : BlockRec) : State :=
  let c := br.cfg
  let last := decide (b + 1 = c.blocks)
  let extra := if last then leBytes 40 x.norm else []
  let x1 := { x with outs := kset none x.outs b (some r), next := b + 1 }
  let send (u : State) (dev : Nat) : State := u.redSend (shardDie x.shard) dev 0 br.bucket x.shard b (r.bytes ++ extra)
  if x.top = 0 then
    let vals := ((blockTerms c.wire r.data).getD []).map termsValue
    let tr := if last then
        some ((fp64.round .ne ⟨false, x.norm, -149, false⟩).1, squaresFrom x.squares vals, cairnCount r.cairn) else none
    (s.setShardRun x1).takeResult br x.shard b r tr
  else
    let s1 := s.setShardRun x1
    let s2 := if x.goGot then send s1 (s.posDevice c.group x.shard (heapParent x.pos)) else s1
    (x.asked.filter fun a => decide (a.2.1 ≤ b ∧ b < a.2.1 + a.2.2)).foldl (fun u a => send u a.1) s2

/-- Fold block `next` of a shard where its inputs have landed (R272). It waits while the block's words are held (R31, R175). -/
def State.foldNext (s : State) (br : BucketRun) (x : ShardRun) : State :=
  let c := br.cfg
  let d := shardDie x.shard
  let b := x.next
  let folds := x.withheld.isNone && (kget none x.outs b).isNone
  let carry := s.carryHeld br.bucket x.shard
  let e0 := (x.shard * c.blocks + b) * 64
  let held := s.blockHeld c d carry (x.top == 0) e0
  let s := if folds && !held then s.lookBlock c d carry e0 else s
  let own := if folds then s.ownBlock br x.shard b else none
  if held then s
  else if folds && own.isNone then
    s.withhold br x .poison
  else
    let zeroNan := s.nanPolicy c.group == 1
    match x.below c.wire zeroNan (s.groupN c.group) b (own.map (·.1)) 18 x.top with
    | .wait => s
    | .bad p o => s.mismatch br x p b o
    | .val r fl newNan =>
      let s1 := s.orFlags DIE_ENGINE_FLAGS_RED d 0 c.group 2 (fl ||| (own.map (·.2.1)).getD 0)
      let s2 :=
        if (own.map (·.2.2.2)).getD false then s1.nanFound br d (s.lowestNan br d)
        else match newNan with
          | some e => s1.nanFound br d (e0 + e)
          | none => s1
      let br := (s2.bucketRun br.bucket).getD br
      let run := match own with
        | some o => (fp32.add x.running o.2.2.1).1
        | none => x.running
      let y := { x with running := run }
      let z := if b + 1 = c.blocks then
          let n := s2.normUnits run
          (n.1, { y with norm := (y.nodes.filter fun m => !m.missing || m.ownFrom.isSome).foldl (fun a m => a + m.norm) n.2 })
        else (s2, y)
      let s3 := match own with
        | some o =>
          if s.red.keep then z.1.setRed fun q => { q with keepNow := kset [] q.keepNow (keptKey br.bucket x.shard b) o.1.data }
          else z.1
        | none => z.1
      match r with
      | some blk => s3.putOutput br z.2 b blk
      | none => if x.top = 0 then s3.putOutput br z.2 b (zeroBlock c.wire) else s3

/-! ### Departures and fences (R284, R285, R291) -/

/-- Whether a shard's outcome holds its bucket from becoming final (R291). -/
def State.shardHolds (s : State) (br : BucketRun) (x : ShardRun) : Bool :=
  x.status == some stCHECK || (x.status == some stUNREACHABLE && s.straggler br.cfg.group == 0)

/-- Departed ranks of a shard, from the MEMBERSHIP in force: under WAIT it completes UNREACHABLE, and the die of the nearest present
ancestor sends FAULT; else departed positions below are filled, and a rank with nothing present above performs the root's
addition; a root that withholds tells the rank that takes its place now, or has none left and performs its addition itself. -/
def State.shardDepartures (s : State) (br : BucketRun) (x : ShardRun) : State :=
  let g := br.cfg.group
  let n := s.groupN g
  let lost := (List.range n).filter fun p => !s.posPresent g x.shard p
  let gone := x.withheld == some .poison || x.withheld == some .quarantine
  if lost.isEmpty ∨ (x.status.isSome ∧ (s.straggler g = 0 ∨ x.nextResult < br.cfg.blocks)) then s
  else if s.straggler g = 0 then
    let s1 := s.shardEnd br.bucket x.shard stUNREACHABLE
    let decides := lost.any fun p =>
      match s.nearestAncestor g x.shard 16 p with
      | some a => a == x.pos
      | none => s.lowestBelow g x.shard == some x.pos
    if decides && !s.groupBackup g then s1.sendStepState 2 stUNREACHABLE g br.bucket else s1
  else
    let alone := gone && x.pos == 0 && x.nodes.isEmpty && (s.lowestBelow g x.shard).isNone
    let s0 := if alone then s.setShardRun { x with nodes := (heapChildren n 0).map RedNode.fresh } else s
    let s1 := lost.foldl (fun u p =>
      match u.shardRun br.bucket x.shard with
      | some y => u.declareMissing br y p
      | none => u) s0
    match s1.shardRun br.bucket x.shard with
    | some y =>
      if lost.contains 0 then s1.electTop br y
      else if gone && y.status.isNone && (s1.standIn br y).isSome then s1.withhold br y (if x.withheld == some .poison then .poison else .quarantine)
      else s1
    | none => s1

/-- Departed members leave every reduction in progress. -/
def State.redDepartures (s : State) : State :=
  s.red.shards.foldl (fun u x =>
    match u.bucketRun x.bucket, u.shardRun x.bucket x.shard with
    | some br, some y => u.shardDepartures br y
    | _, _ => u) s

/-- Adopting (n, REDUCE_LAUNCH) or RESUME(n) launches step n on every die that runs (R267, R343): shards send START (R278), packets
that came before take effect, members gone before it are departed ranks (R284). Update requests held for a first launch apply to
this step (R300). -/
def State.launchStep (s : State) (n base : Nat) (resume : Bool) : State :=
  let s1 := s.lookTables.launchRecord n base resume
  let s2 := (List.range 16).foldl (fun u g => u.setF GROUP_STATUS_IN_FLIGHT 0 g 0) s1
  let s3 := (List.range 4).foldl (fun u d => if u.dieRunning d then u.launchDie d else u) s2
  ((s3.startAll.takeEarly n).redDepartures).requestEarly

/-- Where the ABSENT of a shard's fenced die goes: to the parent; the root's to the rank that takes its place (assumption 98). -/
def State.absentTo (s : State) (br : BucketRun) (x : ShardRun) : Option Nat :=
  if x.pos = 0 then s.lowestBelow br.cfg.group x.shard else some (heapParent x.pos)

/-- The Camp die sends ABSENT for a fenced die's shards that are not final (R284, R432); the shards' work is lost, but for which STARTs and
ABSENTs came. -/
def State.redFence (s : State) (d : Nat) : State :=
  let via := ((List.range 4).find? fun e => s.dieRunning e).getD d
  let mine := s.red.shards.filter fun x => shardDie x.shard == d && x.status.isNone
  let s1 := mine.foldl (fun u x =>
    match u.bucketRun x.bucket with
    | some br =>
      match u.absentTo br x with
      | some p =>
        if u.groupBackup br.cfg.group then u
        else u.redSend via (u.posDevice br.cfg.group x.shard p) 3 x.bucket x.shard 0 (leBytes 1 0)
      | none => u
    | none => u) s
  (s1.setRed fun r => { r with
      absent := r.absent ++ mine.map fun x => x.bucket * 16 + x.shard
      parked := (r.parked.filter fun y => !mine.any fun x => x.bucket == y.bucket && x.shard == y.shard) ++ mine
      shards := r.shards.filter fun x => !(shardDie x.shard == d && x.status.isNone) })

/-- What a shard of a die knew of the ranks below it before its fence: the STARTs that came, and the ranks that withheld (Table 10.10a). -/
def State.recallShard (s : State) (br : BucketRun) (x : ShardRun) : State :=
  match s.red.parked.find? fun y => y.bucket == x.bucket && y.shard == x.shard with
  | none => s
  | some y =>
    let known (n : RedNode) : RedNode :=
      match y.node n.pos with
      | some m => { n with started := m.started, backup := m.backup, heldAbsent := m.heldAbsent }
      | none => n
    let s1 := s.setShardRun { x with nodes := x.nodes.map known }
    let s2 := (y.nodes.filter (·.missing)).foldl (fun u m =>
      match u.shardRun x.bucket x.shard with
      | some z => u.declareMissing br z m.pos
      | none => u) s1
    match s2.shardRun x.bucket x.shard with
    | some z => if y.top = 0 then s2.electTop br z else s2
    | none => s2

/-- Departures adopted while a die was fenced apply to its shards (R284). -/
def State.laterDepartures (s : State) (b sh : Nat) : State :=
  match s.bucketRun b, s.shardRun b sh with
  | some br, some x => s.shardDepartures br x
  | _, _ => s

/-- A rejoined die's shards of the step (R267, R285): a shard declared missing (its bucket final here, its ABSENT sent, or its due
time past) fetches the result from the nearest present rank above, but under WAIT; any other starts, GO going out anew to the children whose
START came before the fence, and departures adopted since taking effect (R284). -/
def State.redRejoin (s : State) (d : Nat) : State :=
  let had := s.red.shards
  let s1 := s.launchDie d
  let new : List ShardRun := s1.red.shards.filter fun x => !had.any fun y => y.bucket == x.bucket && y.shard == x.shard
  new.foldl (fun (u : State) (x : ShardRun) =>
    match u.bucketRun x.bucket with
    | none => u
    | some br =>
      let g := br.cfg.group
      let missed := !br.counted.isEmpty || u.red.absent.contains (x.bucket * 16 + x.shard) ||
        decide (u.red.base + u.red.deadlineUs * 1000 < u.fabricNow)
      if u.straggler g = 0 ∨ !missed ∨ u.groupBackup g then ((u.recallShard br x).releaseStart x.bucket x.shard).laterDepartures x.bucket x.shard
      else
        let src : Nat := match u.nearestAncestor g x.shard 16 x.pos with
          | some p => p
          | none => ((List.range (u.groupN g)).find? fun p => p != x.pos && u.posPresent g x.shard p).getD x.pos
        let w := u.setShardRun { x with fetching := true, withheld := some .fenced }
        if src = x.pos then w else w.redSendPos br x.shard src 9 0 []) s1

/-! ### Completions of the engine's own packets -/

/-- A shard that ended EPOCH_MISMATCH sends nothing more: its REDUCE_PUTs that have not left are withdrawn (R294). -/
def State.withdraw (s : State) (b sh : Nat) : State :=
  let ids := (s.red.sent.filter fun x => x.bucket == b && x.shard == sh).map (·.id)
  let mine (r : RemReq) : Bool := match r.who with | .reduction i => ids.contains i | _ => false
  (List.range 4).foldl (fun u d => (u.dropWaiters d mine stEPOCH).endWhere d stEPOCH fun e => mine e.req && e.phase.unsent)
    (s.setRed fun r => { r with sent := r.sent.filter fun x => !(x.bucket == b && x.shard == sh) })

/-- Whether a START or ABSENT that was answered goes again 10 µs later: answered COLLAPSED once RESUME was adopted (R340), or UNREACHABLE
by a member, whose die may rejoin, while the shard is open (Table 10.10a; assumption 114). -/
def State.goesAgain (s : State) (x : RedSent) (status : Nat) : Bool :=
  let st := s.corState
  (x.kind == 2 || x.kind == 3) && x.step == s.corStep && (st == 2 || st == 3) && !((s.shardRun x.bucket x.shard).any fun y => y.status.isSome) &&
  ((status == stCOLLAPSED && s.getF CORNICE_STATUS_TRY 0 0 != 0) || (status == stUNREACHABLE && s.jobPeer x.dst))

/-- Take the answers to REDUCE_PUTs of die d: EPOCH_MISMATCH ends the shard (R294), and so does CHECK_FAILED, without FAULT (R283, R291,
assumption 98); a START or ABSENT may go again; a FETCH answered NO_RESOURCE ends the shard ABORTED (R285). -/
def State.redAnswers (s : State) (d : Nat) : State :=
  let isRed (r : RemDone) : Bool := match r.who with | .reduction _ => true | _ => false
  let done := (s.tracker d).done.filter isRed
  let s1 := s.setTracker d { s.tracker d with done := (s.tracker d).done.filter fun r => !isRed r }
  done.foldl (fun u r =>
    match r.who with
    | .reduction id =>
      match u.red.sent.find? fun x => x.id == id with
      | none => u
      | some x =>
        let v := (u.setRed fun r => { r with sent := r.sent.filter fun y => y.id != id })
        if r.status = stEPOCH then (v.shardEnd x.bucket x.shard stEPOCH).withdraw x.bucket x.shard
        else if r.status = stCHECK then (match v.bucketRun x.bucket with | some br => v.shardFailed br x.shard | none => v)
        else if u.goesAgain x r.status then
          (v.setRed fun r => { r with sent := r.sent ++ [{ x with resendAt := some (u.fabricNow + 10000) }] })
        else if r.status = stNORES ∧ x.kind = 9 then v.shardEnd x.bucket x.shard stABORTED
        else v
    | _ => u) s1

/-! ### Finality (R291, R293) -/

/-- The shards of a bucket that dies which run handle. -/
def State.liveShards (s : State) (b : Nat) : List ShardRun :=
  s.red.shards.filter fun x => x.bucket == b && s.dieRunning (shardDie x.shard)

/-- Dies that run. -/
def State.liveDies (s : State) : List Nat := (List.range 4).filter fun d => s.dieRunning d

/-- Whether a bucket is final: every shard of a die that is not fenced is final, and none holds it (R291). -/
def State.bucketFinal (s : State) (br : BucketRun) : Bool :=
  let xs := s.liveShards br.bucket
  !s.liveDies.isEmpty && decide (xs.length = 4 * s.liveDies.length) &&
  xs.all fun x => x.status.isSome && !s.shardHolds br x

/-- The bucket's status over its shards (R291). -/
def State.bucketOutcome (s : State) (br : BucketRun) : Nat :=
  match br.status with
  | some c => c
  | none =>
    let xs := s.liveShards br.bucket
    statusMax (xs.foldl (fun a x => statusMax a (x.status.getD stDONE)) stDONE)
      (if s.liveDies.length < 4 then stDEGRADED else stDONE)

/-- Smallest and largest shard COUNT of a bucket. -/
def State.bucketCounts (s : State) (b : Nat) : Nat × Nat :=
  match (s.liveShards b).map (·.count) with
  | [] => (0, 0)
  | c :: cs => (cs.foldl min c, cs.foldl max c)

/-- Write the status entry of a bucket (Table 10.12), and its completion where RING_EN = 1. -/
def State.bucketReport (s : State) (br : BucketRun) (status : Nat) : State :=
  let n := s.redStep
  let c := s.bucketCounts br.bucket
  let s1 := s.post campDie br.cfg.group (s.getF STATUS_ARRAY_BASE 0 0 * 4096 + br.bucket * 16)
    (leBytes 5 n ++ leBytes 1 status ++ leBytes 2 c.1 ++ leBytes 2 c.2 ++ leBytes 2 br.suspects ++ leBytes 4 0) []
  let g := br.cfg.group
  if s.groupF GROUP_CFG_RING_EN g = 1 then
    s1.postKind 1 (g * 4096 + br.bucket) status (c.1 + c.2 * 65536) n (s.groupF GROUP_CFG_RING g)
  else s1

/-- A bucket becomes final at the package (R291). -/
def State.finalizeBucket (s : State) (br : BucketRun) (status : Nat) : State :=
  let g := br.cfg.group
  let s1 := (s.setBucketRun { br with status := some status, inFlight := false, counted := s.liveDies }).bucketReport br status
  let s1 := s1.setRed fun r => { r with saved := r.saved.filter fun v => v.bucket != br.bucket }
  let s2 := s1.addF GROUP_STATUS_BUCKETS_FINAL 0 g 1
  let s3 := if br.inFlight then s2.setF GROUP_STATUS_IN_FLIGHT 0 g (s2.getF GROUP_STATUS_IN_FLIGHT 0 g - 1) else s2
  if br.cfg.auto then s3.requestUpdate br.bucket else s3

/-- Buckets whose finality is due, and status entries written again for a rejoined die (R291). `counted` is empty until a
bucket's finality is reported. -/
def State.settleBuckets (s : State) : State :=
  s.red.buckets.foldl (fun u br =>
    if br.counted.isEmpty then
      (if br.status.isSome then (if u.liveDies.isEmpty then u else u.finalizeBucket br (u.bucketOutcome br))
       else if u.bucketFinal br then u.finalizeBucket br (u.bucketOutcome br) else u)
    else
      let back := u.liveDies.filter fun d => !br.counted.contains d
      let held := back.filter fun d =>
        let xs := u.red.shards.filter fun x => x.bucket == br.bucket && shardDie x.shard == d
        decide (xs.length = 4) && xs.all fun x => x.status.isSome
      if held.isEmpty || !br.status.isSome || br.status == some stINVALID || u.cor.sealedStep == u.red.launched then u
      else
        let o := u.bucketOutcome { br with status := none }
        (u.setBucketRun { br with status := some o, counted := br.counted ++ held }).bucketReport br o) s

/-- The noise record of a group (Table 10.13): the trailers of every shard that a die which runs handles (R293). -/
def State.noiseRecord (s : State) (g : Nat) (part : Bool) : List Byte :=
  let brs := s.red.buckets.filter fun b => b.cfg.group == g
  let xs := brs.flatMap fun br => ((List.range 16).filter fun sh => s.dieRunning (shardDie sh)).filterMap fun sh =>
    (s.shardRun br.bucket sh).bind fun x => x.trailer.map fun t => (br, t)
  let add (a b : Nat) : Nat := (fp64.add a b).1
  let l := xs.foldl (fun a x => add a x.2.1) 0
  let gl := xs.foldl (fun a x => add a x.2.2.1) 0
  let counts := xs.map fun x => x.2.2.2
  let least := match counts with | [] => 0 | c :: cs => cs.foldl min c
  let full := !part && decide (xs.length = 16 * brs.length) && counts.all fun c => c == s.groupN g
  let folded := (brs.filter fun br => xs.any fun x => x.1.bucket == br.bucket).length
  let elems := (xs.map fun x => x.1.cfg.elems / 16).foldl (· + ·) 0
  leBytes 8 s.redStep ++ leBytes 8 l ++ leBytes 8 gl ++ leBytes 2 least ++ leBytes 1 (b2n full) ++ leBytes 1 (b2n part) ++
  leBytes 4 folded ++ leBytes 8 elems ++ leBytes 24 0

/-- A group's step record is written once every bucket of the group is final on every die that runs, and again when a fenced die's
shards come final before the seal (R293). -/
def State.settleNoise (s : State) : State :=
  (List.range 16).foldl (fun u g =>
    let brs := u.red.buckets.filter fun b => b.cfg.group == g
    let part := decide (u.liveDies.length < 4)
    let ready := !brs.isEmpty && !u.liveDies.isEmpty && brs.all fun b =>
      b.status == some stINVALID || (b.reduces && u.liveDies.all fun d => b.counted.contains d)
    let old := u.red.records.find? fun r => r.1 == g
    let due := match old with
      | none => true
      | some r => r.2 && !part && u.cor.sealedStep != u.red.launched
    if ready && due then
      let w := u.post (u.liveDies.headD 0) g (u.getF NOISE_ADDR_BASE 0 g * 4096 + u.redStep % 64 * 64) (u.noiseRecord g part) []
      (w.setRed fun y => { y with records := (y.records.filter fun r => r.1 != g) ++ [(g, part)] })
    else u) s

end Sys2Proof.Machine
end

