-- ==== Sys2Proof/Machine/CrestOps.lean ====
section
/-!
DEFINITION. The crest instructions as pure operations on a vector engine's registers (chapter 05), shared by the vector
engines and the update engines: lanes, predicates, poison, conversions, permutes, summary folds, and the checks of
Table 5.13.
-/
namespace Sys2Proof.Machine

open Sys2Proof

/-! ### Word fields (Table 5.3) -/

def cOP (w : Nat) : Nat := bits w 31 26
def cVD (w : Nat) : Nat := bits w 25 21
def cVA (w : Nat) : Nat := bits w 20 16
def cVB (w : Nat) : Nat := bits w 15 11
def cVC (w : Nat) : Nat := bits w 10 6
def cTYPE (w : Nat) : Nat := bits w 5 3
def cP (w : Nat) : Nat := bits w 2 0
def cSTREAM (w : Nat) : Nat := bits w 20 18
def cSZ (w : Nat) : Nat := bits w 17 15
def cOFF (w : Nat) : Nat := bits w 14 3
def cIMM (w : Nat) : Nat := bits w 20 5

/-- Lane width of a TYPE (Table 5.2). -/
def laneW (t : Nat) : Nat := if t = 1 ∨ t = 2 then 16 else 32
/-- Lanes of a TYPE. -/
def laneN (t : Nat) : Nat := if t = 1 ∨ t = 2 then 128 else 64
/-- Floating format of a TYPE. -/
def laneFmt (t : Nat) : Fmt := if t = 1 then bf16 else if t = 2 then fp16 else fp32
/-- Whether a TYPE is floating. -/
def laneFloat (t : Nat) : Bool := decide (t ≤ 2)

/-! ### Lanes -/

/-- A lane's bits and whether it is poisoned. -/
structure Lane where
  v : Nat
  p : Bool
  deriving DecidableEq, Repr

/-- Vector register n. -/
def VecRegs.vreg (r : VecRegs) (n : Nat) : VReg := kget VReg.zero r.v n
/-- Vector register n replaced. -/
def VecRegs.setV (r : VecRegs) (n : Nat) (x : VReg) : VecRegs := { r with v := kset VReg.zero r.v n x }
/-- Predicate n; P0 reads as all ones (R138). -/
def VecRegs.preg (r : VecRegs) (n : Nat) : PReg :=
  if n = 0 then ⟨BitVec.allOnes 128, 0⟩ else kget PReg.zero r.p n
/-- Predicate n replaced; P0 is never written (R138). -/
def VecRegs.setP (r : VecRegs) (n : Nat) (x : PReg) : VecRegs :=
  if n = 0 then r else { r with p := kset PReg.zero r.p n x }

/-- Element i of width w bits of a register, poisoned where a byte of it is. -/
def VReg.elem (x : VReg) (w i : Nat) : Lane :=
  let n := (i * w % 8 + w + 7) / 8
  ⟨(x.data.toNat >>> (i * w)) % 2 ^ w, decide ((x.pois.toNat >>> (i * w / 8)) % 2 ^ n ≠ 0)⟩

/-- Lanes of width w, lane 0 first. -/
def VReg.lanes (x : VReg) (w : Nat) : List Lane := (List.range (2048 / w)).map (x.elem w)

/-- The bits of a list of elements of width w, first lowest. -/
def packNat (w : Nat) (xs : List Nat) : Nat := xs.foldr (fun x a => a * 2 ^ w + x % 2 ^ w) 0

/-- The byte poison marks of elements of width w from bit 0. -/
def packPois (w : Nat) (ps : List Bool) : Nat :=
  packNat 1 ((List.range ((ps.length * w + 7) / 8)).map fun b =>
    b2n ((rangeFrom (8 * b / w) ((8 * b + 7) / w + 1 - 8 * b / w)).any fun i => ps.getD i false))

/-- A register from its lanes. -/
def VReg.ofLanes (w : Nat) (ls : List Lane) : VReg :=
  ⟨BitVec.ofNat 2048 (packNat w (ls.map (·.v))), BitVec.ofNat 256 (packPois w (ls.map (·.p)))⟩

/-- Replace n bits at offset o of a number. -/
def spliceNat (x o n y : Nat) : Nat := x - ((x >>> o) % 2 ^ n) * 2 ^ o + (y % 2 ^ n) * 2 ^ o

/-- Elements of width w written at bit offset o (a whole number of bytes); other bits and marks kept. -/
def VReg.splice (x : VReg) (o w : Nat) (ls : List Lane) : VReg :=
  let n := ls.length * w
  ⟨BitVec.ofNat 2048 (spliceNat x.data.toNat o n (packNat w (ls.map (·.v)))),
   BitVec.ofNat 256 (spliceNat x.pois.toNat (o / 8) (n / 8) (packPois w (ls.map (·.p))))⟩

/-! ### Context and effect -/

/-- What an instruction sees beside the registers: its word, its index, the iteration, and the key of R136. -/
structure CrestCtx where
  word : Nat
  pc : Nat
  iter : Nat
  job : Nat
  step : Nat
  block : Nat
  deriving DecidableEq, Repr

/-- What an instruction does: registers after it, working summary slots after it, flags it sets. -/
structure CrestEff where
  regs : VecRegs
  work : KMap Slot
  flags : Nat
  deriving DecidableEq, Repr

/-- The kind of a crest operation. -/
abbrev CrestFn := CrestCtx → VecRegs → KMap Slot → CrestEff

/-- The rounding of destination element `lane` where SR selects stochastic rounding (R101, R136). -/
def CrestCtx.mode (c : CrestCtx) (sr : Bool) (sub lane : Nat) : RoundMode :=
  if sr then .sr (randomR c.job c.step c.block (c.pc * 256 + sub * 128 + lane)) else .ne

/-- Flags of a list of results. -/
def orAll (xs : List Nat) : Nat := xs.foldl (· ||| ·) 0

/-- Write lanes to VD under predicate P (R140): a lane whose bit is 0 keeps its value and marks and sets no flag; a poisoned bit
poisons the lane. `f` gives lane i's result and flags. -/
def laneWrite (c : CrestCtx) (r : VecRegs) (work : KMap Slot) (w : Nat) (f : Nat → Lane × Nat) : CrestEff :=
  let old := r.vreg (cVD c.word)
  let p := r.preg (cP c.word)
  let nb := w / 8
  let res := (List.range (2048 / w)).map fun i =>
    let pz := p.pois.getLsbD i
    if p.data.getLsbD i then
      let y := f i
      (y.1.v, if y.1.p || pz then 2 ^ nb - 1 else 0, y.2)
    else ((old.elem w i).v, if pz then 2 ^ nb - 1 else (old.pois.toNat >>> (nb * i)) % 2 ^ nb, 0)
  ⟨r.setV (cVD c.word) ⟨BitVec.ofNat 2048 (packNat w (res.map (·.1))), BitVec.ofNat 256 (packNat nb (res.map (·.2.1)))⟩, work,
   orAll (res.map (·.2.2))⟩

/-- A lane operation of one operand VA in the word's TYPE. -/
def lane1 (f : Nat → Nat → Nat × Nat) : CrestFn := fun c r work =>
  let t := cTYPE c.word
  let a := r.vreg (cVA c.word)
  laneWrite c r work (laneW t) fun i =>
    let x := a.elem (laneW t) i
    let y := f t x.v
    (⟨y.1, x.p⟩, y.2)

/-- A lane operation of VA and VB. -/
def lane2 (f : Nat → Nat → Nat → Nat × Nat) : CrestFn := fun c r work =>
  let t := cTYPE c.word
  let a := r.vreg (cVA c.word)
  let b := r.vreg (cVB c.word)
  laneWrite c r work (laneW t) fun i =>
    let x := a.elem (laneW t) i
    let y := b.elem (laneW t) i
    let z := f t x.v y.v
    (⟨z.1, x.p || y.p⟩, z.2)

/-- A lane operation of VA, VB and VC. -/
def lane3 (f : Nat → Nat → Nat → Nat → Nat × Nat) : CrestFn := fun c r work =>
  let t := cTYPE c.word
  let a := r.vreg (cVA c.word)
  let b := r.vreg (cVB c.word)
  let d := r.vreg (cVC c.word)
  laneWrite c r work (laneW t) fun i =>
    let x := a.elem (laneW t) i
    let y := b.elem (laneW t) i
    let z := d.elem (laneW t) i
    let u := f t x.v y.v z.v
    (⟨u.1, x.p || y.p || z.p⟩, u.2)

/-! ### Arithmetic (R142, R143) -/

def opVadd : CrestFn := lane2 fun t a b =>
  if laneFloat t then (laneFmt t).add a b else ((a + b) % 2 ^ 32, 0)

def opVsub : CrestFn := lane2 fun t a b =>
  if laneFloat t then (laneFmt t).sub a b else ((a + 2 ^ 32 - b) % 2 ^ 32, 0)

def opVmul : CrestFn := lane2 fun t a b =>
  if laneFloat t then (laneFmt t).mul a b else (a * b % 2 ^ 32, 0)

def opVfma : CrestFn := lane3 fun t a b c =>
  let f := laneFmt t
  f.fma (f.decode a) (f.decode b) (f.decode c)

def opVfnma : CrestFn := lane3 fun t a b c =>
  let f := laneFmt t
  f.fma (numNeg (f.decode a)) (f.decode b) (f.decode c)

/-- a ≤ b of an integer TYPE: signed for I32, unsigned for U32. -/
def intLe (t a b : Nat) : Bool := if t = 3 then decide (signed 32 a ≤ signed 32 b) else decide (a ≤ b)

/-- Minimum by R143: NaN where either is NaN, −0 below +0. -/
def laneMin (t a b : Nat) : Nat :=
  if laneFloat t then
    let f := laneFmt t
    if (f.decode a).isNan || (f.decode b).isNan then f.nan
    else if numLeSigned (f.decode a) (f.decode b) then a else b
  else if intLe t a b then a else b

/-- Maximum by R143. -/
def laneMax (t a b : Nat) : Nat :=
  if laneFloat t then
    let f := laneFmt t
    if (f.decode a).isNan || (f.decode b).isNan then f.nan
    else if numLeSigned (f.decode a) (f.decode b) then b else a
  else if intLe t a b then b else a

def opVmin : CrestFn := lane2 fun t a b => (laneMin t a b, 0)
def opVmax : CrestFn := lane2 fun t a b => (laneMax t a b, 0)

def opVabs : CrestFn := lane1 fun t a =>
  if laneFloat t then
    let f := laneFmt t
    (if (f.decode a).isNan then f.nan else a % 2 ^ (f.eb + f.mb), 0)
  else (if t = 3 ∧ signed 32 a < 0 then (2 ^ 32 - a) % 2 ^ 32 else a, 0)

def opVneg : CrestFn := lane1 fun t a =>
  if laneFloat t then
    let f := laneFmt t
    (if (f.decode a).isNan then f.nan else a ^^^ 2 ^ (f.eb + f.mb), 0)
  else ((2 ^ 32 - a) % 2 ^ 32, 0)

/-! ### Functions (R144, Table 5.6) -/

def opVrcp : CrestFn := lane1 fun t a => (laneFmt t).finish2 .ne (numRcp ((laneFmt t).decode a))
def opVrsqrt : CrestFn := lane1 fun t a => (laneFmt t).finish2 .ne (numRsqrt ((laneFmt t).decode a))
def opVexp2 : CrestFn := lane1 fun t a => (laneFmt t).finish2 .ne (numExp2 ((laneFmt t).decode a))
def opVlog2 : CrestFn := lane1 fun t a => (laneFmt t).finish2 .ne (numLog2 ((laneFmt t).decode a))

/-! ### Bitwise -/

def opVand : CrestFn := lane2 fun _ a b => (a &&& b, 0)
def opVor : CrestFn := lane2 fun _ a b => (a ||| b, 0)
def opVxor : CrestFn := lane2 fun _ a b => (a ^^^ b, 0)
def opVshl : CrestFn := lane2 fun _ a b => ((a <<< (b % 32)) % 2 ^ 32, 0)
def opVshr : CrestFn := lane2 fun t a b =>
  (if t = 3 then unsigned 32 (signed 32 a / 2 ^ (b % 32)) else a >>> (b % 32), 0)

/-! ### Compare, select, predicates (R146, R147) -/

/-- A VCMP condition on two lanes. -/
def cmpHolds (t cond a b : Nat) : Bool :=
  if laneFloat t then
    let x := (laneFmt t).decode a
    let y := (laneFmt t).decode b
    let un := x.isNan || y.isNan
    let le := numLe x y
    let ge := numLe y x
    match cond with
    | 0 => !un && le && ge
    | 1 => un || !(le && ge)
    | 2 => !un && le && !ge
    | 3 => !un && le
    | 4 => !un && ge && !le
    | 5 => !un && ge
    | 6 => un
    | _ => !un
  else
    let le := intLe t a b
    let ge := intLe t b a
    match cond with
    | 0 => a == b
    | 1 => a != b
    | 2 => le && !ge
    | 3 => le
    | 4 => ge && !le
    | 5 => ge
    | 6 => false
    | _ => true

def opVcmp : CrestFn := fun c r work =>
  let t := cTYPE c.word
  let a := r.vreg (cVA c.word)
  let b := r.vreg (cVB c.word)
  let p := r.preg (cP c.word)
  let ls := (List.range (laneN t)).map fun i =>
    let x := a.elem (laneW t) i
    let y := b.elem (laneW t) i
    (b2n (p.data.getLsbD i && cmpHolds t (bits (cVC c.word) 2 0) x.v y.v),
     b2n (p.pois.getLsbD i || (p.data.getLsbD i && (x.p || y.p))))
  ⟨r.setP (bits (cVD c.word) 2 0)
    ⟨BitVec.ofNat 128 (packNat 1 (ls.map (·.1))), BitVec.ofNat 128 (packNat 1 (ls.map (·.2)))⟩, work, 0⟩

def opVsel : CrestFn := fun c r work =>
  let t := cTYPE c.word
  let a := r.vreg (cVA c.word)
  let b := r.vreg (cVB c.word)
  let q := r.preg (bits (cVC c.word) 2 0)
  laneWrite c r work (laneW t) fun i =>
    let x := if q.data.getLsbD i then a.elem (laneW t) i else b.elem (laneW t) i
    (⟨x.v, x.p || q.pois.getLsbD i⟩, 0)

def opPlog : CrestFn := fun c r work =>
  let a := r.preg (bits (cVA c.word) 2 0)
  let b := r.preg (bits (cVB c.word) 2 0)
  let v := match bits (cVC c.word) 1 0 with
    | 0 => a.data &&& b.data
    | 1 => a.data ||| b.data
    | 2 => a.data &&& ~~~b.data
    | _ => a.data ^^^ b.data
  ⟨r.setP (bits (cVD c.word) 2 0) ⟨v, a.pois ||| b.pois⟩, work, 0⟩

/-! ### Conversions (R148 to R151) -/

/-- A lane of TYPE t as a decoded value; I32 as its integer. -/
def laneNum (t x : Nat) : Num := if t = 3 then intNum (signed 32 x) else (laneFmt t).decode x

/-- PACK of one lane to a format that is no pair. -/
def packLane (t fmt : Nat) (sat : Bool) (mode : RoundMode) (x : Nat) : Nat × Nat :=
  if codeInt fmt || fmt == 15 then
    if t = 3 then narrowInt (codeWidth fmt) sat (signed 32 x)
    else floatToInt (codeWidth fmt) sat (if fmt = 15 then .ne else mode) ((laneFmt t).decode x)
  else (codeFmt fmt).convert mode ((laneFmt t).decode x)

def opPack : CrestFn := fun c r work =>
  let t := cTYPE c.word
  let fmt := bits (cVC c.word) 3 0
  let sr := bits (cVC c.word) 4 4 == 1
  let sat := bits (cVB c.word) 3 3 == 1
  let pos := bits (cVB c.word) 2 0
  let n := laneN t
  let e := codeWidth fmt
  let src := ((r.vreg (cVA c.word)).lanes (laneW t)).take n
  let vd := cVD c.word
  if codePair fmt then
    let rs := src.zipIdx.map fun x => (pairEncode (codeFmt fmt) (c.mode sr 0 x.2) (fp32.decode x.1.v), x.1.p)
    let r1 := r.setV vd ((r.vreg vd).splice (pos * n * e) e (rs.map fun x => ⟨x.1.1, x.2⟩))
    let r2 := r1.setV (vd + 1) ((r1.vreg (vd + 1)).splice (pos * n * e) e (rs.map fun x => ⟨x.1.2.1, x.2⟩))
    ⟨r2, work, orAll (rs.map (·.1.2.2))⟩
  else
    let rs := src.zipIdx.map fun x => (packLane t fmt sat (c.mode sr 0 x.2) x.1.v, x.1.p)
    ⟨r.setV vd ((r.vreg vd).splice (pos * n * e) e (rs.map fun x => ⟨x.1.1, x.2⟩)), work, orAll (rs.map (·.1.2))⟩

def opUnpack : CrestFn := fun c r work =>
  let t := cTYPE c.word
  let fmt := bits (cVC c.word) 3 0
  let pos := bits (cVB c.word) 2 0
  let n := laneN t
  let e := codeWidth fmt
  let va := r.vreg (cVA c.word)
  let vb := r.vreg (cVA c.word + 1)
  laneWrite c r work (laneW t) fun i =>
    let x := va.elem e (pos * n + i)
    if codePair fmt then
      let y := vb.elem e (pos * n + i)
      let z := fp32.finish (pairValue (codeFmt fmt) x.v y.v)
      (⟨z.1, x.p || y.p⟩, z.2)
    else if t = 3 then (⟨unsigned 32 (signed e x.v), x.p⟩, 0)
    else
      let z := (laneFmt t).convert .ne (codeDecode fmt x.v)
      (⟨z.1, x.p⟩, z.2)

def opMxpack : CrestFn := fun c r work =>
  let fmt := bits (cVC c.word) 3 0
  let sr := bits (cVC c.word) 4 4 == 1
  let pos := bits (cVB c.word) 2 0
  let e := codeWidth fmt
  let src := (r.vreg (cVA c.word)).lanes 32
  let blk (b : Nat) : Nat × List Nat × Nat :=
    mxEncode fmt (fun i => c.mode sr 0 (b * 32 + i)) (((src.drop (b * 32)).take 32).map fun x => fp32.decode x.v)
  let pz (b : Nat) : Bool := ((src.drop (b * 32)).take 32).any (·.p)
  let vd := cVD c.word
  let codes := ((blk 0).2.1 ++ (blk 1).2.1).zipIdx.map fun x => (⟨x.1, pz (x.2 / 32)⟩ : Lane)
  let r1 := r.setV vd ((r.vreg vd).splice (pos * 64 * e) e codes)
  let r2 := r1.setV (vd + 1) ((r1.vreg (vd + 1)).splice (pos * 16) 8 [⟨(blk 0).1, pz 0⟩, ⟨(blk 1).1, pz 1⟩])
  ⟨r2, work, (blk 0).2.2 ||| (blk 1).2.2⟩

def opMxunpack : CrestFn := fun c r work =>
  let fmt := bits (cVC c.word) 3 0
  let pos := bits (cVB c.word) 2 0
  let e := codeWidth fmt
  let va := r.vreg (cVA c.word)
  let vs := r.vreg (cVA c.word + 1)
  laneWrite c r work 32 fun i =>
    let x := va.elem e (pos * 64 + i)
    let s := vs.elem 8 (2 * pos + i / 32)
    let z := fp32.convert .ne (applyScale s.v (codeDecode fmt x.v))
    (⟨z.1, x.p || s.p⟩, z.2)

def opM8enc : CrestFn := fun c r work =>
  let sr := bits (cVC c.word) 4 4 == 1
  let two (n : Nat) : List Lane := (r.vreg n).lanes 32 ++ (r.vreg (n + 1)).lanes 32
  let m := two (cVA c.word)
  let v := two (cVB c.word)
  let x := m8Encode (fun i => c.mode sr 0 i) (fun i => c.mode sr 1 i) (m.map (·.v)) (v.map (·.v))
  let pm := m.any (·.p)
  let pv := v.any (·.p)
  let codes := x.2.1.map (fun k => (⟨k, pm⟩ : Lane)) ++ x.2.2.2.1.map (fun k => (⟨k, pv⟩ : Lane))
  let vd := cVD c.word
  let r1 := r.setV vd (VReg.ofLanes 8 codes)
  let r2 := r1.setV (vd + 1) (VReg.ofLanes 16 [⟨x.1, pm⟩, ⟨x.2.2.1, pv⟩])
  ⟨r2, work, x.2.2.2.2⟩

/-- M8DEC: m goes to VD and v to VC, v last where they are one register (R151, assumption 102). -/
def opM8dec : CrestFn := fun c r work =>
  let codes := (r.vreg (cVA c.word)).lanes 8
  let sc := r.vreg (cVB c.word)
  let sm := sc.elem 16 0
  let sv := sc.elem 16 1
  let m := (codes.take 128).map fun x => (⟨m8DecodeM sm.v x.v, x.p || sm.p⟩ : Lane)
  let vs := (codes.drop 128).map fun x => (m8DecodeV sv.v x.v, x.p || sv.p)
  let v := vs.map fun x => (⟨x.1.1, x.2⟩ : Lane)
  let put (r : VecRegs) (n : Nat) (ls : List Lane) : VecRegs :=
    (r.setV n (VReg.ofLanes 32 (ls.take 64))).setV (n + 1) (VReg.ofLanes 32 (ls.drop 64))
  ⟨put (put r (cVD c.word) m) (cVC c.word) v, work, orAll (vs.map (·.1.2))⟩

/-! ### Permute, shuffle, reduce (R152) -/

def opVperm : CrestFn := fun c r work =>
  let t := cTYPE c.word
  let w := laneW t
  let n := laneN t
  let a := r.vreg (cVA c.word)
  let b := r.vreg (cVB c.word)
  let x := r.vreg (cVC c.word)
  laneWrite c r work w fun i =>
    let j := b.elem w i
    let y : Lane := if j.v < n then a.elem w j.v else if j.v < 2 * n then x.elem w (j.v - n) else ⟨0, false⟩
    (⟨y.v, y.p || j.p⟩, 0)

/-- Where lane i of a VSHUF comes from: whether from VB, and which lane. -/
def shufSource (mode n i : Nat) : Bool × Nat :=
  if mode ≤ 6 then (false, i ^^^ 2 ^ mode)
  else if mode = 8 then (i % 2 == 1, i / 2)
  else if mode = 9 then (i % 2 == 1, i / 2 + n / 2)
  else if mode = 0xA then (decide (n / 2 ≤ i), 2 * (i % (n / 2)))
  else if mode = 0xB then (decide (n / 2 ≤ i), 2 * (i % (n / 2)) + 1)
  else (false, i / 64 * 64 + i % 8 * 8 + i % 64 / 8)

def opVshuf : CrestFn := fun c r work =>
  let t := cTYPE c.word
  let w := laneW t
  let a := r.vreg (cVA c.word)
  let b := r.vreg (cVB c.word)
  laneWrite c r work w fun i =>
    let x := shufSource (cVC c.word) (laneN t) i
    (if x.1 then b.elem w x.2 else a.elem w x.2, 0)

/-- The reduction of one group of lanes: SUM by the tree of R116 in TYPE, or MAX. -/
def redGroup (t g : Nat) (max : Bool) (xs : List Nat) : Nat × Nat :=
  let f (a b : Nat) : Nat × Nat :=
    if max then (laneMax t a b, 0)
    else if laneFloat t then (laneFmt t).add a b else ((a + b) % 2 ^ 32, 0)
  let r := treeSum f g (xs.map some)
  let x := r.1.getD 0
  -- a group of one lane adds nothing, and its NaN is still the canonical one (R91)
  (if laneFloat t && ((laneFmt t).decode x).isNan then (laneFmt t).nan else x, r.2)

def opVred : CrestFn := fun c r work =>
  let t := cTYPE c.word
  let w := laneW t
  let g := bits (cVB c.word) 2 0
  let a := r.vreg (cVA c.word)
  let groups := (List.range (laneN t / 2 ^ g)).map fun k =>
    let ls := (List.range (2 ^ g)).map fun i => a.elem w (k * 2 ^ g + i)
    (redGroup t g (bits (cVC c.word) 0 0 == 1) (ls.map (·.v)), ls.any (·.p))
  let e := laneWrite c r work w fun i =>
    let x := groups.getD (i / 2 ^ g) ((0, 0), false)
    (⟨x.1.1, x.2⟩, x.1.2)
  e

/-! ### Index and immediate (R140, R145) -/

def opViota : CrestFn := fun c r work => laneWrite c r work 32 fun i => (⟨i, false⟩, 0)
def opViter : CrestFn := fun c r work => laneWrite c r work 32 fun _ => (⟨c.iter, false⟩, 0)
def opVmovh : CrestFn := fun c r work => laneWrite c r work 32 fun _ => (⟨cIMM c.word * 65536, false⟩, 0)
def opVmovl : CrestFn := fun c r work =>
  let old := r.vreg (cVD c.word)
  laneWrite c r work 32 fun i =>
    let x := old.elem 32 i
    (⟨x.v / 65536 * 65536 + cIMM c.word, (old.elem 16 (2 * i + 1)).p⟩, 0)

/-! ### Summary folds (R153, R154) -/

/-- The initial value of a working slot (Table 5.7). -/
def slotInit (kind : Nat) : Slot :=
  match kind with
  | 0 => ⟨0xFF800000, false⟩
  | 1 => ⟨0x80000000, false⟩
  | _ => ⟨0, false⟩

def opSum : CrestFn := fun c r work =>
  let t := cTYPE c.word
  let w := laneW t
  let n := laneN t
  let kind := bits (cVC c.word) 1 0
  let k := bits (cVB c.word) 2 0
  let p := r.preg (cP c.word)
  let a := r.vreg (cVA c.word)
  let old := kget (slotInit kind) work k
  let on := (List.range n).filter fun i => p.data.getLsbD i
  let pz := on.any (fun i => (kind != 2) && (a.elem w i).p) || (List.range n).any fun i => p.pois.getLsbD i
  -- lanes of a 16-bit type widen exactly to FP32
  let wide (i : Nat) : Nat := fp32.encodeNe ((laneFmt t).decode (a.elem w i).v)
  let res : Nat × Nat :=
    match kind with
    | 0 => (on.foldl (fun m i => laneMax 0 m (wide i)) old.data.toNat, 0)
    | 1 =>
      let x := treeSum fp32.add n.log2 ((List.range n).map fun i => if p.data.getLsbD i then some (wide i) else none)
      match x.1 with
      | some y => let z := fp32.add old.data.toNat y; (z.1, x.2 ||| z.2)
      | none => (old.data.toNat, x.2)
    | 2 => ((old.data.toNat + on.length) % 2 ^ 64, 0)
    | _ =>
      let has (q : Num → Bool) : Nat := b2n (on.any fun i => q (fp32.decode (wide i)))
      (old.data.toNat ||| (has Num.isNan + 2 * has (fun x => decide (x = .inf false)) +
        4 * has (fun x => decide (x = .inf true))), 0)
  -- stored even where it equals the initial value: the run latches every slot its program names
  ⟨r, kinsert (kerase work k) k ⟨BitVec.ofNat 64 res.1, old.pois || pz⟩, res.2⟩

/-- Every register operation by opcode; LD and ST (0x38, 0x39) move memory and stand apart. -/
def crestFn (op : Nat) : CrestFn :=
  match op with
  | 0x01 => opVadd | 0x02 => opVsub | 0x03 => opVmul | 0x04 => opVfma | 0x05 => opVfnma
  | 0x06 => opVmin | 0x07 => opVmax | 0x08 => opVabs | 0x09 => opVneg | 0x0A => opVrcp
  | 0x0B => opVrsqrt | 0x0C => opVexp2 | 0x0D => opVlog2 | 0x10 => opVand | 0x11 => opVor
  | 0x12 => opVxor | 0x13 => opVshl | 0x14 => opVshr | 0x18 => opVcmp | 0x19 => opVsel
  | 0x1A => opPlog | 0x20 => opPack | 0x21 => opUnpack | 0x22 => opMxpack | 0x23 => opMxunpack
  | 0x24 => opM8enc | 0x25 => opM8dec | 0x28 => opVperm | 0x29 => opVshuf | 0x2A => opVred
  | 0x30 => opViota | 0x31 => opViter | 0x32 => opVmovh | 0x33 => opVmovl | 0x3C => opSum
  | _ => fun _ r work => ⟨r, work, 0⟩

/-! ### LD and ST sizes (Table 5.5) -/

/-- Bytes an LD or ST moves. -/
def accessBytes (sz : Nat) : Nat := [256, 128, 64, 8, 4].getD sz 0

/-- The register an LD leaves: bytes from memory with their poison marks, the rest 0, or 4 bytes in every lane. -/
def ldReg (sz : Nat) (bs : List Byte) (ps : List Bool) : VReg :=
  if sz = 4 then VReg.ofLanes 32 (List.replicate 64 ⟨leNat bs, ps.any id⟩)
  else VReg.ofLanes 8 (bs.zipIdx.map fun b => ⟨b.1.toNat, ps.getD (b.2 / 4) false⟩)

/-- The bytes an ST stores and their 4-byte poison marks. -/
def stBytes (sz : Nat) (x : VReg) : List Byte × List Bool :=
  let n := accessBytes sz
  (leBytes n x.data.toNat, (List.range ((n + 3) / 4)).map fun i => (x.elem 32 i).p)

/-! ### Checks before the first issue (Table 5.13, R139 to R153) -/

/-- Opcodes of Table 5.4. -/
def crestOps : List Nat :=
  [1, 2, 3, 4, 5, 6, 7, 8, 9, 10, 11, 12, 13, 16, 17, 18, 19, 20, 24, 25, 26, 32, 33, 34, 35, 36, 37, 40, 41, 42,
   48, 49, 50, 51, 56, 57, 60]

/-- Whether TYPE is permitted for an R-format opcode. -/
def typeOk (op t kind : Nat) : Bool :=
  if op ≤ 3 ∨ op = 6 ∨ op = 7 ∨ op = 8 ∨ op = 9 ∨ op = 0x18 ∨ op = 0x19 ∨ op = 0x28 ∨ op = 0x29 ∨ op = 0x2A then
    decide (t ≤ 4)
  else if op ≤ 0x0D then decide (t ≤ 2)
  else if op ≤ 0x14 then decide (t = 3 ∨ t = 4)
  else if op = 0x1A then t == 0
  else if op = 0x20 ∨ op = 0x21 then decide (t ≤ 3)
  else if op ≤ 0x25 then t == 0
  else if op = 0x30 ∨ op = 0x31 then decide (t = 3 ∨ t = 4)
  else if op = 0x3C then (if kind = 2 then decide (t ≤ 4) else decide (t ≤ 2))
  else true

/-- Whether a PACK conversion is permitted (R148). -/
def packOk (t fmt : Nat) : Bool :=
  if t = 3 then codeInt fmt
  else if 1 ≤ fmt ∧ fmt ≤ 4 then true
  else t == 0 && (codeInt fmt || fmt == 15 || codePair fmt)

/-- Whether an UNPACK conversion is permitted (R149). -/
def unpackOk (t fmt : Nat) : Bool :=
  if t = 3 then codeInt fmt
  else if (1 ≤ fmt ∧ fmt ≤ 4) ∨ codeInt fmt then true
  else t == 0 && (fmt == 15 || codePair fmt)

/-- Largest POS of an MX format (R150). -/
def mxPosMax (fmt : Nat) : Nat := if fmt = 9 then 7 else if codeWidth fmt = 6 then 4 else 3

/-- Fields of an R-format word that must be 0 and are not (fault 0x03), by opcode. -/
def zeroFieldBad (op vd va vb vc p : Nat) : Bool :=
  match op with
  | 0x04 => false
  | 0x05 => false
  | 0x18 => vd / 8 != 0 || vc / 8 != 0
  | 0x19 => vc / 8 != 0
  | 0x1A => vd / 8 != 0 || va / 8 != 0 || vb / 8 != 0 || vc / 4 != 0 || p != 0
  | 0x20 => p != 0 || vb / 16 != 0 || (vb / 8 == 1 && !(codeInt (vc % 16) || vc % 16 == 15))
  | 0x21 => p != 0 || vb / 8 != 0 || vc / 16 != 0
  | 0x22 => p != 0 || vb / 8 != 0
  | 0x23 => p != 0 || vb / 8 != 0 || vc / 16 != 0
  | 0x24 => p != 0 || vc % 16 != 0
  | 0x25 => p != 0
  | 0x28 => p != 0
  | 0x29 => p != 0 || (!(decide (8 ≤ vc ∧ vc ≤ 0xB)) && vb != 0)
  | 0x2A => p != 0 || vc / 2 != 0 || vb / 8 != 0
  | 0x30 => va != 0 || vb != 0 || vc != 0
  | 0x31 => va != 0 || vb != 0 || vc != 0
  | 0x3C => vd != 0 || vb / 8 != 0 || vc / 4 != 0 || (vc == 2 && va != 0)
  | _ => if 8 ≤ op ∧ op ≤ 0x0D then vb != 0 || vc != 0 else vc != 0

/-- The rules a word breaks, as fault codes. -/
def crestFaults (outmask w : Nat) : List Nat :=
  let op := cOP w
  let vd := cVD w
  let va := cVA w
  let vb := cVB w
  let vc := cVC w
  let t := cTYPE w
  if !crestOps.contains op then [2]
  else if op = 0x38 ∨ op = 0x39 then
    faultIf (decide (4 < cSZ w) || bits w 2 0 != 0) 3 ++
    faultIf ((op == 0x38) == outmask.testBit (cSTREAM w)) 5
  else if op = 0x32 ∨ op = 0x33 then faultIf (bits w 4 3 != 0) 3
  else
    let fmt := vc % 16
    let pos := vb % 8
    let n := laneN t
    faultIf (!typeOk op t (vc % 4) || zeroFieldBad op vd va vb vc (cP w)) 3 ++
    faultIf (op == 0x29 && (vc == 7 || decide (0xC < vc) || (decide (vc ≤ 6) && decide (n ≤ 2 ^ vc)))) 3 ++
    faultIf ((op == 0x18 || op == 0x1A) && vd % 8 == 0) 4 ++
    faultIf (op == 0x20 && codePair fmt && vd % 2 == 1) 4 ++
    faultIf (op == 0x21 && codePair fmt && va % 2 == 1) 4 ++
    faultIf (op == 0x22 && vd % 2 == 1) 4 ++
    faultIf (op == 0x23 && va % 2 == 1) 4 ++
    faultIf (op == 0x24 && (va % 2 == 1 || vb % 2 == 1 || vd % 2 == 1)) 4 ++
    faultIf (op == 0x25 && (vd % 2 == 1 || vc % 2 == 1)) 4 ++
    faultIf (op == 0x20 && (!packOk t fmt || decide (2048 < (pos + 1) * n * codeWidth fmt) ||
      (fmt == 15 && pos != 0))) 8 ++
    faultIf (op == 0x21 && (!unpackOk t fmt || decide (2048 < (pos + 1) * n * codeWidth fmt) ||
      (fmt == 15 && pos != 0))) 8 ++
    faultIf ((op == 0x22 || op == 0x23) && (!codeMx fmt || decide (mxPosMax fmt < pos))) 8 ++
    faultIf (op == 0x2A && decide (n < 2 ^ pos)) 8

/-- The lowest code in a list. -/
def lowest : List Nat → Option Nat
  | [] => none
  | c :: cs => some (cs.foldl min c)

/-- The first fault of a program's words in index order, with its index; the kinds that slots were named with so far. -/
def programFault (outmask : Nat) : Nat → List Nat → KMap Nat → Option (Nat × Nat)
  | _, [], _ => none
  | pc, w :: ws, kinds =>
    let isSum := cOP w == 0x3C
    let slot := bits (cVB w) 2 0
    let kind := bits (cVC w) 1 0
    let two := isSum && kget 4 kinds slot != 4 && kget 4 kinds slot != kind
    match lowest (crestFaults outmask w ++ faultIf two 3) with
    | some c => some (c, pc)
    | none => programFault outmask (pc + 1) ws (if isSum then kset 4 kinds slot kind else kinds)

/-! ### Issue model (R157, R158) -/

/-- Issue occupancy (Table 5.9). -/
def crestOcc (op : Nat) : Nat :=
  if 0x0A ≤ op ∧ op ≤ 0x0D then 4 else if op = 0x22 then 2 else if op = 0x24 then 4 else if op = 0x25 then 2 else 1

/-- Latency (Table 5.9); an LD from cluster scratch has 20. -/
def crestLat (w : Nat) (cluster : Bool) : Nat :=
  let op := cOP w
  if 0x0A ≤ op ∧ op ≤ 0x0D then 12
  else if op = 0x2A then 4 + 2 * bits (cVB w) 2 0
  else if op = 0x22 then 12 else if op = 0x23 then 6 else if op = 0x24 then 24 else if op = 0x25 then 12
  else if op = 0x38 then (if cluster then 20 else 6)
  else if op = 0x39 then 2 else if op = 0x3C then 8 else 4

/-- Vector registers (0 to 31) and predicates (32 to 39) an instruction writes. -/
def crestDests (w : Nat) : List Nat :=
  let op := cOP w
  let vd := cVD w
  if op = 0x18 ∨ op = 0x1A then [32 + vd % 8]
  else if op = 0x39 ∨ op = 0x3C then []
  else if op = 0x22 ∨ op = 0x24 ∨ (op = 0x20 ∧ codePair (cVC w % 16)) then [vd, vd + 1]
  else if op = 0x25 then [vd, vd + 1, cVC w, cVC w + 1]
  else [vd]

/-- Vector registers and predicates an instruction reads, the destination included where part of it is kept (R158). -/
def crestSrcs (w : Nat) : List Nat :=
  let op := cOP w
  let va := cVA w
  let vb := cVB w
  let vc := cVC w
  let pred := if cP w = 0 then [] else [32 + cP w]
  let keep := if cP w = 0 then [] else [cVD w]
  if op = 0x38 then []
  else if op = 0x39 then [cVD w]
  else if op = 0x32 then pred ++ keep
  else if op = 0x33 then cVD w :: pred
  else if op = 0x1A then [32 + va % 8, 32 + vb % 8]
  else if op = 0x18 then [va, vb] ++ pred
  else if op = 0x19 then [va, vb, 32 + vc % 8] ++ pred ++ keep
  else if op = 0x20 then va :: crestDests w
  else if op = 0x21 then (if codePair (vc % 16) then [va, va + 1] else [va])
  else if op = 0x22 then va :: crestDests w
  else if op = 0x23 then [va, va + 1]
  else if op = 0x24 then [va, va + 1, vb, vb + 1]
  else if op = 0x25 then [va, vb]
  else if op = 0x28 then [va, vb, vc]
  else if op = 0x29 then (if 8 ≤ cVC w ∧ cVC w ≤ 0xB then [va, vb] else [va])
  else if op = 0x2A then [va]
  else if op = 0x30 ∨ op = 0x31 then pred ++ keep
  else if op = 0x3C then (if bits vc 1 0 = 2 then pred else va :: pred)
  else if op = 4 ∨ op = 5 then [va, vb, vc] ++ pred ++ keep
  else if 8 ≤ op ∧ op ≤ 0x0D then va :: (pred ++ keep)
  else [va, vb] ++ pred ++ keep

end Sys2Proof.Machine
end

