-- ==== Sys2Proof/Machine/PosOps.lean ====
section
/-!
DEFINITION. A die's own position in the schedule: LOCAL_POS and AHEAD_POS (R246, R247, R250).
-/
namespace Sys2Proof.Machine

open Sys2Proof

/-- A contour value from a step and a phase (R246). -/
def contourAt (step phase : Nat) : Nat := step * 2 ^ 24 + phase
/-- Step of a contour value. -/
def stepOfValue (v : Nat) : Nat := v / 2 ^ 24
/-- Phase of a contour value. -/
def phaseOf (v : Nat) : Nat := v % 2 ^ 24

/-- Phases of Table 9.1. -/
def phBWD : Nat := 0xF00000
def phLAUNCH : Nat := 0xF40000
def phUPDATE : Nat := 0xF80000
def phSEAL : Nat := 0xFF0000

def State.localPos (s : State) (d : Nat) : Nat := (s.reg LOCAL_POS d 0).toNat
def State.aheadPos (s : State) (d : Nat) : Nat := (s.reg AHEAD_POS d 0).toNat
def State.contourOf (s : State) (d : Nat) : Nat := (s.reg CONTOUR_VALUE d 0).toNat

/-- Whether die d has passed its step's update and the package its seal, so that held positions apply (R250). -/
def State.posOpen (s : State) (d : Nat) : Bool :=
  let n := stepOfValue (s.localPos d)
  decide (contourAt n phUPDATE ≤ s.localPos d) && decide (contourAt n phSEAL ≤ s.contourOf d)

/-- AHEAD_POS joins LOCAL_POS once both conditions hold (R250). -/
def State.advancePos (s : State) (d : Nat) : State :=
  if s.posOpen d && s.aheadPos d != 0 then
    (s.setReg LOCAL_POS d 0 (BitVec.ofNat 64 (max (s.localPos d) (s.aheadPos d)))).setReg AHEAD_POS d 0 0
  else s

/-- A write of v to LOCAL_POS of die d (R250). -/
def State.writePos (s : State) (d v : Nat) : State :=
  let err := s.setF CONTOUR_BLK_STATUS_POS_ERR d 0 1
  let n := stepOfValue (s.localPos d)
  if !reportable v ∨ v < s.localPos d then err
  else if stepOfValue v = n then (s.setReg LOCAL_POS d 0 (BitVec.ofNat 64 v)).advancePos d
  else if stepOfValue v = n + 1 then
    if s.posOpen d then s.setReg LOCAL_POS d 0 (BitVec.ofNat 64 v)
    else s.setReg AHEAD_POS d 0 (BitVec.ofNat 64 (max v (s.aheadPos d)))
  else err

/-- LOCAL_POS set to (n, OPEN), AHEAD_POS to 0 and the last accepted STEP_READY to n − 1, n the step of the die's contour
(R250, R266). -/
def State.enterPos (s : State) (d : Nat) : State :=
  let n := stepOfValue (s.contourOf d)
  let s1 := (s.setReg LOCAL_POS d 0 (BitVec.ofNat 64 (contourAt n 0))).setReg AHEAD_POS d 0 0
  (s1.setRed fun r => { r with ready := kset 0 r.ready d n })

end Sys2Proof.Machine
end

