-- ==== Sys2Proof/Machine/UpdProg.lean ====
section
/-!
DEFINITION. Programs of the update engines (R307 to R311, R313): the built-in programs, the stream rules, and the run of a
program on one block.
-/
namespace Sys2Proof.Machine

open Sys2Proof

/-! ### Built-in programs (Table 11.6 and its listing) -/

/-- A word of the R format (Table 5.3). -/
def asmR (op vd va vb vc : Nat) : Nat := op * 2 ^ 26 + vd * 2 ^ 21 + va * 2 ^ 16 + vb * 2 ^ 11 + vc * 2 ^ 6
/-- An LD or ST word: register, stream, offset in 4-byte units, size code (Tables 5.3, 5.5). -/
def asmM (op vd stream off sz : Nat) : Nat := op * 2 ^ 26 + vd * 2 ^ 21 + stream * 2 ^ 18 + sz * 2 ^ 15 + off * 2 ^ 3

/-- Instructions 0 to 21, common to the three programs. -/
def progHead : List Nat :=
  (List.range 10).map (fun w => asmM 0x38 w 6 w 4) ++
  [asmM 0x38 10 0 0 0, asmM 0x38 11 0 64 0, asmM 0x38 12 1 0 0, asmM 0x38 13 2 0 0, asmM 0x38 14 3 0 0,
   asmM 0x38 15 4 0 4, asmM 0x38 16 5 0 0, asmR 0x25 18 14 15 20,
   asmR 0x21 22 12 0 13, asmR 0x21 23 12 1 13, asmR 0x21 24 16 0 2, asmR 0x21 25 16 1 2]

/-- Instructions 52 to 63 of ADAMW, the last twelve of each program. -/
def progTail : List Nat :=
  [asmR 0x24 30 18 20 0, asmR 0x20 12 22 0 13, asmR 0x20 12 23 1 13, asmR 0x20 16 24 0 2, asmR 0x20 16 25 1 2,
   asmM 0x39 12 1 0 0, asmM 0x39 13 2 0 0, asmM 0x39 30 3 0 0, asmM 0x39 31 4 0 4, asmM 0x39 16 5 0 0,
   asmR 0x3C 0 22 0 3, asmR 0x3C 0 23 0 3]

/-- One half of ADAMW: g, m, v, w, a, and two temporaries. -/
def adamHalf (g m v w a t u : Nat) : List Nat :=
  [asmR 0x03 t m 0 0, asmR 0x04 m g 1 t, asmR 0x03 t v 2 0, asmR 0x03 u g g 0, asmR 0x04 v u 3 t, asmR 0x03 t v 4 0,
   asmR 0x0B u t 0 0, asmR 0x0A u u 0 0, asmR 0x01 u u 5 0, asmR 0x0A u u 0 0, asmR 0x03 u m u 0, asmR 0x03 t w 7 0,
   asmR 0x05 w u 6 t, asmR 0x03 t a 8 0, asmR 0x04 a w 9 t]

/-- One half of SGD_MOMENTUM. -/
def sgdHalf (g m w a t : Nat) : List Nat :=
  [asmR 0x03 t m 0 0, asmR 0x01 m t g 0, asmR 0x03 t w 7 0, asmR 0x05 w m 6 t, asmR 0x03 t a 8 0, asmR 0x04 a w 9 t]

/-- One half of SIGN_MOMENTUM; p and q are its predicates. -/
def signHalf (g m w a t u p q : Nat) : List Nat :=
  [asmR 0x03 t m 0 0, asmR 0x04 u g 1 t, asmR 0x09 t u 0 0, asmR 0x18 p u t 4, asmR 0x18 q u t 2, asmR 0x02 t 4 4 0,
   asmR 0x19 t 4 t p, asmR 0x19 t 5 t q, asmR 0x03 u w 7 0, asmR 0x05 w t 6 u, asmR 0x03 t m 2 0, asmR 0x04 m g 3 t,
   asmR 0x03 t a 8 0, asmR 0x04 a w 9 t]

def progADAMW : List Nat :=
  progHead ++ adamHalf 10 18 20 22 24 26 27 ++ adamHalf 11 19 21 23 25 28 29 ++ progTail
def progSGD : List Nat := progHead ++ sgdHalf 10 18 22 24 26 ++ sgdHalf 11 19 23 25 28 ++ progTail
def progSIGN : List Nat :=
  progHead ++ signHalf 10 18 22 24 26 27 1 2 ++ signHalf 11 19 23 25 28 29 3 4 ++ progTail

/-! ### Streams (Table 11.4, R309) -/

/-- Bytes per block of a stream. -/
def streamBytes (k : Nat) : Nat := [512, 256, 256, 256, 4, 256, 256].getD k 0

/-- The stream rules that a word breaks, as fault codes. -/
def streamFaults (w : Nat) : List Nat :=
  let op := cOP w
  if op ≠ 0x38 ∧ op ≠ 0x39 then []
  else
    let k := cSTREAM w
    let n := accessBytes (cSZ w)
    faultIf (if op = 0x38 then k == 7 else !decide (1 ≤ k ∧ k ≤ 5)) 5 ++
    faultIf (decide (streamBytes k < cOFF w * 4 + n)) 6 ++
    faultIf (decide (0 < n) && cOFF w * 4 % max 1 (min n 64) != 0) 7

/-- The first fault of an update program (R307, R309); it has no OUTMASK, so of the codes of an LD or ST only the stream
rules give 5. -/
def updFault (ws : List Nat) : Option (Nat × Nat) :=
  let asLoad (w : Nat) : Nat := if cOP w = 0x39 then w - 2 ^ 26 else w
  ws.zipIdx.findSome? fun w =>
    (lowest (crestFaults 0 (asLoad w.1) ++ streamFaults w.1 ++
      faultIf (cOP w.1 == 0x3C && (ws.take w.2).any fun v =>
        cOP v == 0x3C && bits (cVB v) 2 0 == bits (cVB w.1) 2 0 && bits (cVC v) 1 0 != bits (cVC w.1) 1 0) 3)).map
      fun c => (c, w.2)

/-! ### One block -/

/-- Where a block's program stands: registers, working slots, flags, the block stage by stream 1 to 5. -/
structure UpdExec where
  regs : VecRegs
  work : KMap Slot
  flags : Nat
  stage : List (List Byte)
  deriving DecidableEq, Repr

/-- Bytes replaced at an offset. -/
def spliceBytes (xs : List Byte) (o : Nat) (ys : List Byte) : List Byte := xs.take o ++ ys ++ xs.drop (o + ys.length)

/-- One instruction of an update program (R308, R309): an LD takes the block's old state, an ST writes the stage. -/
def updInstr (inputs : List (List Byte)) (avg : Bool) (c : CrestCtx) (x : UpdExec) : UpdExec :=
  let w := c.word
  let k := cSTREAM w
  let n := accessBytes (cSZ w)
  if cOP w = 0x38 then
    let bs := ((inputs.getD k []).drop (cOFF w * 4)).take n
    { x with regs := x.regs.setV (cVD w) (ldReg (cSZ w) bs []) }
  else if cOP w = 0x39 then
    if k = 5 && !avg then x
    else
      let y := spliceBytes (x.stage.getD (k - 1) []) (cOFF w * 4) (stBytes (cSZ w) (x.regs.vreg (cVD w))).1
      { x with stage := x.stage.set (k - 1) y }
  else
    let e := crestFn (cOP w) c x.regs x.work
    { x with regs := e.regs, work := e.work, flags := x.flags ||| e.flags }

/-- The program on one block. -/
def updRunBlock (inputs : List (List Byte)) (avg : Bool) (ctx : Nat → Nat → CrestCtx) (ws : List Nat) (x : UpdExec) : UpdExec :=
  ws.zipIdx.foldl (fun x w => updInstr inputs avg (ctx w.1 w.2) x) x

/-- Registers (0 to 31) and predicates (33 to 39) that a program reads before it writes them, in order; their values are
undefined (R310). -/
def readsBefore : List Nat → List Nat → List Nat → List Nat
  | [], _, acc => acc
  | w :: ws, written, acc =>
    let new := ((crestSrcs w).filter fun r => r != 32 && !written.contains r && !acc.contains r).eraseDups
    readsBefore ws (written ++ crestDests w) (acc ++ new)

/-- A number of k free 64-bit values. -/
def State.freeNat (s : State) : Nat → Nat × State
  | 0 => (0, s)
  | k + 1 =>
    let x := State.freeNat s k
    let y := x.2.takeFree
    (x.1 * 2 ^ 64 + y.1.toNat, y.2)

/-- Registers before a block's program: those read before they are written hold free values (assumption 3). -/
def State.freshRegs (s : State) (ws : List Nat) : VecRegs × State :=
  (readsBefore ws [] []).foldl (fun (a : VecRegs × State) r =>
    if r < 32 then
      let x := a.2.freeNat 32
      (a.1.setV r ⟨BitVec.ofNat 2048 x.1, 0⟩, x.2)
    else
      let x := a.2.freeNat 2
      (a.1.setP (r - 32) ⟨BitVec.ofNat 128 x.1, 0⟩, x.2)) (VecRegs.zero, s)

end Sys2Proof.Machine
end

