-- ==== Sys2Proof/Machine/UpdOps.lean ====
section
/-!
DEFINITION. The update engines as shared operations (chapter 11): runs and blocks, the journal and its recovery, outer-tier
state, finishing, and the restores of the cornice store (R341).
-/
namespace Sys2Proof.Machine

open Sys2Proof

/-! ### Runs, blocks, fetches -/

/-- A bucket's update on die d for a step. -/
def State.updRun (s : State) (b d step : Nat) : Option UpdRun :=
  s.upd.runs.find? fun r => r.bucket == b && r.die == d && r.step == step

/-- The oldest unfinished update of a bucket on die d that has read its program. -/
def State.updRunOpen (s : State) (b d : Nat) : Option UpdRun :=
  s.upd.runs.find? fun r => r.bucket == b && r.die == d && !r.finished && !r.code.isEmpty

/-- Put a run back, or add it. -/
def State.setUpdRun (s : State) (x : UpdRun) : State :=
  let same (r : UpdRun) : Bool := r.bucket == x.bucket && r.die == x.die && r.step == x.step
  s.setUpd fun u => { u with
    runs := if u.runs.any same then u.runs.map (fun r => if same r then x else r) else u.runs ++ [x] }

/-- Blocks in flight of engine j of die d; key 3 of a die holds restores that wait for outer writes. -/
def State.engBlocks (s : State) (d j : Nat) : List BlkRun := kget [] s.upd.blocks (d * 4 + j)

def State.setEngBlocks (s : State) (d j : Nat) (l : List BlkRun) : State :=
  let s1 := s.setUpd fun u => { u with blocks := kset [] u.blocks (d * 4 + j) l }
  if j < 3 then s1.setF ENG_STATUS_IN_FLIGHT 0 (d * 4 + j) l.length else s1

/-- Put back the block with the same bucket, number and step. -/
def State.setBlk (s : State) (d j : Nat) (x : BlkRun) : State :=
  s.setEngBlocks d j ((s.engBlocks d j).map fun y =>
    if y.bucket = x.bucket ∧ y.block = x.block ∧ y.step = x.step then x else y)

/-- Take a block out of flight. -/
def State.dropBlk (s : State) (d j : Nat) (x : BlkRun) : State :=
  s.setEngBlocks d j ((s.engBlocks d j).filter fun y =>
    !(y.bucket == x.bucket && y.block == x.block && y.step == x.step))

def State.engFetches (s : State) (d j : Nat) : List BlkFetch := kget [] s.upd.fetches (d * 4 + j)
def State.setEngFetches (s : State) (d j : Nat) (l : List BlkFetch) : State :=
  (s.setUpd fun u => { u with fetches := kset [] u.fetches (d * 4 + j) l }).setF ENG_STATUS_WINDOW_USED 0 (d * 4 + j) l.length

/-- The first block at or after b that engine j of die d updates; `per` is blocks per shard (R299). -/
def nextBlk (per d j b : Nat) : Option Nat :=
  let from_ (x : Nat) : Nat := x + (j + 3 - x % 3) % 3
  let sh := b / per
  let c := from_ (if sh % 4 = d then b else (sh + (d + 4 - sh % 4) % 4) * per)
  if c / per % 4 = d then (if c < 16 * per then some c else none)
  else
    let e := from_ ((c / per + 3) * per)
    if e < 16 * per then some e else none

/-- Blocks per shard of a run. -/
def UpdRun.per (r : UpdRun) : Nat := r.len / 2048

/-- The next block of engine j: the lowest of those that recovery requeued and those not started (R299, R317). -/
def UpdRun.nextBlock (r : UpdRun) (j : Nat) : Option Nat :=
  let fresh := nextBlk r.per r.die j (r.next.getD j 0)
  let again := (r.requeued.filter fun b => b % 3 == j)
  match fresh with
  | some f => some (again.foldl min f)
  | none => match again with
    | [] => none
    | b :: bs => some (bs.foldl min b)

/-- The run after block b has started. -/
def UpdRun.started (r : UpdRun) (b : Nat) : UpdRun :=
  if r.requeued.contains b then { r with requeued := r.requeued.erase b }
  else { r with next := r.next.set (b % 3) (b + 1) }

/-- Blocks of a bucket on one die (R299). -/
def UpdRun.blocksHere (r : UpdRun) : Nat := 4 * r.per

/-- Block b ends with an outcome; the run is over with its last. -/
def UpdRun.blockEnds (r : UpdRun) (b outcome : Nat) : UpdRun :=
  { r with
    doneBlocks := r.doneBlocks + 1
    committed := r.committed + b2n (outcome == stDONE)
    failed := if outcome = stDONE then r.failed else r.failed ++ [(b, outcome)]
    finished := r.finished || decide (r.blocksHere ≤ r.doneBlocks + 1) }

/-- Block b is to run again (R317): a failed one no longer counts as ended. -/
def UpdRun.again (r : UpdRun) (b : Nat) : UpdRun :=
  if r.requeued.contains b then r
  else
    { r with
      requeued := r.requeued ++ [b]
      finished := r.finished && r.code.isEmpty
      doneBlocks := if r.failed.any (fun f => f.1 == b) then r.doneBlocks - 1 else r.doneBlocks
      failed := r.failed.filter fun f => f.1 != b }

/-- The run's outcome of highest precedence (R302). -/
def UpdRun.result (r : UpdRun) : Nat := (r.failed.map (·.2)).foldl statusMax r.outcome

/-! ### The state table entry (R297, R298) -/

/-- Blocks ahead that may be fetched: PREFETCH_DEPTH, 1 to 64 (Table 11.13). -/
def State.prefetchDepth (s : State) : Nat := max 1 (min 64 (s.getF UPD_EXPERT_PREFETCH_DEPTH 0 0))

/-- A run from the state table entry as it stands (R297). -/
def State.openRun (s : State) (b d step : Nat) : UpdRun :=
  let a := s.stateAddr b
  let c := s.stateCtrl b
  let cfg := s.bucketCfg b
  ⟨b, d, step, cfg.elems, (List.range 4).map (fun i => s.seenN (a + 8 * i) 8), s.seenN (a + 0x20) 8, cfg.buf, bits c 30 29,
   c.testBit 28, bits c 20 17, [], [], false, [0, 0, 0], [], [], 0, 0, 0, stDONE, [], false, s.prefetchDepth,
   if c.testBit 27 then some (bits c 26 21) else none, [], []⟩

/-- The entry of a bucket on die d as its update of a step read it; as it stands where that never started (R297). -/
def State.entryRun (s : State) (b d step : Nat) : UpdRun := (s.updRun b d step).getD (s.openRun b d step)

/-- Whether two runs read the same state table entry. -/
def UpdRun.sameEntry (r x : UpdRun) : Bool :=
  r.len == x.len && r.ptrs == x.ptrs && r.tier == x.tier && r.avg == x.avg

/-- Bytes of the array behind each of the four pointers (R296). -/
def UpdRun.extents (r : UpdRun) : List Nat := [2 * r.len, 2 * r.len, r.len / 128 * 260, 2 * r.len]

/-- Whether a place is Talus memory. -/
def isTalus (a : Nat) : Bool :=
  match place a with
  | .talus _ _ => true
  | _ => false

/-- Whether a range of SPACE 0b00 lies in Talus memory. -/
def State.inTalus (s : State) (a n : Nat) : Bool := isTalus a && !decide (s.extentReach a n = .unmapped)

/-- Whether a run's state table entry keeps R298 and the form of Table 11.2. -/
def State.runOk (s : State) (r : UpdRun) : Bool :=
  let a := s.stateAddr r.bucket
  let hyper := s.seenN (a + 0x28) 8
  let p (i : Nat) : Word := BitVec.ofNat 64 (r.ptrs.getD i 0)
  decide (r.tier < 3) && bits (s.stateCtrl r.bucket) 16 0 == 0 && s.seenN (a + 0x34) 12 == 0 &&
  r.ptrs.all (fun x => x % 256 == 0) &&
  (List.range 4).all (fun i =>
    match r.tier with
    | 0 => ptrLocal (p i) && s.inTalus (ptrAddr (p i)) (r.extents.getD i 0)
    | 1 => ptrSpace (p i) == 1 && ptrDevice (p i) == ptrDevice (p 0) && s.jobPeer (ptrDevice (p i)) &&
        isTalus (ptrAddr (p i)) && decide (ptrAddr (p i) + r.extents.getD i 0 ≤ runEnd (ptrAddr (p i)))
    | _ => ptrSpace (p i) == 2 && (s.rangeOf (ptrAddr62 (p i)) (r.extents.getD i 0)).isSome) &&
  decide (r.commit < 2 ^ 48) && r.commit % 64 == 0 && s.inTalus r.commit (r.len / 64) &&
  decide (hyper < 2 ^ 48) && hyper % 256 == 0 && !decide (s.extentReach hyper 512 = .unmapped)

/-- Package address of a program slot's image (R307). -/
def State.progAddr (s : State) (slot : Nat) : Nat := s.getF PROG_BASE_BASE 0 0 * 4096 + slot * 512

/-- The image words of a program slot, or the fault of the image (R307). -/
def State.progImage (s : State) (slot : Nat) : List Nat ⊕ (Nat × Nat) :=
  match slot with
  | 0 => .inl progADAMW
  | 1 => .inl progSGD
  | 2 => .inl progSIGN
  | _ =>
    let a := s.progAddr slot
    let len := s.seenN a 1
    if len = 0 ∨ 64 < len then .inr (1, 0)
    else if (s.seen (a + 2) 62).any (fun b => b != 0) then .inr (3, 0)
    else
      let ws := (List.range len).map fun i => s.seenN (a + 0x80 + 4 * i) 4
      match updFault ws with
      | some f => .inr f
      | none => .inl ws

/-- UPD_FAULT of each engine of die d takes a first fault (Table 11.13). -/
def State.noteUpdFault (s : State) (d b slot code pc : Nat) : State :=
  (List.range 3).foldl (fun u j =>
    let i := d * 4 + j
    if u.flag UPD_FAULT_VALID 0 i then u
    else ((((u.setF UPD_FAULT_VALID 0 i 1).setF UPD_FAULT_BUCKET 0 i b).setF UPD_FAULT_SLOT 0 i slot).setF
      UPD_FAULT_PC 0 i pc).setF UPD_FAULT_CODE 0 i code) s

/-- A run that touches no block. -/
def UpdRun.refused (r : UpdRun) (status : Nat) : UpdRun := { r with outcome := status, finished := true }

/-! ### Outer-tier state (R318, R320) -/

/-- Stream 1 to 5 of block b: its pointer with the block's offset, as a global pointer. -/
def UpdRun.streamPtr (r : UpdRun) (k b : Nat) : Nat :=
  match k with
  | 1 => r.ptrs.getD 0 0 + 256 * b
  | 2 => r.ptrs.getD 1 0 + 256 * b
  | 3 => r.ptrs.getD 2 0 + 256 * b
  | 4 => r.ptrs.getD 2 0 + r.len / 128 * 256 + 4 * b
  | _ => r.ptrs.getD 3 0 + 256 * b

/-- Offset of stream 1 to 5 in a snapshot body (R315). -/
def bodyOffset (k : Nat) : Nat := [0, 0, 256, 512, 768, 772].getD k 0

/-- Streams that hold state: 5 only with AVG_EN = 1. -/
def UpdRun.streams (r : UpdRun) : List Nat := if r.avg then [1, 2, 3, 4, 5] else [1, 2, 3, 4]

/-- The number by which an engine knows its remote operations: bucket, block, stream, whether a write. -/
def updTag (b block k write : Nat) : Nat := ((b * 2 ^ 20 + block) * 8 + k) * 2 + write

/-- Address of a fetch window slot's body (R318): 64 bytes into the slot, as in the journal (assumption 29). -/
def State.windowBody (s : State) (d j slot : Nat) : Nat :=
  s.getF WINDOW_BASE_BASE 0 d * 4096 + j * 0x12000 + slot * 1152 + 64

/-- A GET or PUT of an engine on GEN. -/
def UpdRun.request (r : UpdRun) (s : State) (j k block loc : Nat) (data : List Byte) : RemReq :=
  ⟨.update j (updTag r.bucket block k (b2n (!data.isEmpty))), if data.isEmpty then .get else .put, 0,
   BitVec.ofNat 64 (r.streamPtr k block), loc, streamBytes k, 1, 0, false, data, [], 0, false, 0, r.step, s.job, false, false, 0⟩

/-- The next n blocks of engine j in commit order. -/
def UpdRun.ahead (r : UpdRun) (j : Nat) : Nat → List Nat
  | 0 => []
  | n + 1 =>
    match r.nextBlock j with
    | some b => b :: UpdRun.ahead (r.started b) j n
    | none => []

/-- Fetch one block's state into a free window slot. -/
def State.fetchBlock (s : State) (r : UpdRun) (j b : Nat) : State :=
  let d := r.die
  let l := s.engFetches d j
  match (List.range 64).find? fun i => l.all fun f => f.slot != i with
  | none => s
  | some slot =>
    let ks := r.streams
    let s1 := s.setEngFetches d j (l ++ [⟨r.bucket, b, slot, ks.length, stDONE, false⟩])
    ks.foldl (fun u k => u.remoteIssue noFire d (r.request u j k b (u.windowBody d j slot + bodyOffset k) [])) s1

/-- Fetch the next blocks of a run in an outer tier, on every engine of its die (R318). -/
def State.fetchAhead (s : State) (r : UpdRun) : State :=
  if r.tier = 0 ∨ r.finished then s
  else
    (List.range 3).foldl (fun u j =>
      (r.ahead j r.depth).foldl (fun v b =>
        if (v.engFetches r.die j).any (fun f => f.bucket == r.bucket && f.block == b && !f.dead) then v else v.fetchBlock r j b) u) s

/-- What the window of die d holds for a bucket is of no use any more: its slots are free once every fetch is answered. -/
def State.dropFetches (s : State) (d : Nat) (p : BlkFetch → Bool) : State :=
  (List.range 3).foldl (fun u j =>
    u.setEngFetches d j (((u.engFetches d j).map fun f => if p f then { f with dead := true } else f).filter fun f =>
      !(f.dead && f.left == 0))) s

/-- Whether the state of a block stands in the fetch window, and with what status. -/
def State.fetchOf (s : State) (d j bucket b : Nat) : Option BlkFetch :=
  (s.engFetches d j).find? fun f => f.bucket == bucket && f.block == b && !f.dead

/-- Whether a fetch has landed whole; none has where there is no fetch. -/
def fetchLanded : Option BlkFetch → Bool
  | some f => f.left == 0
  | none => false

/-- The status of a fetch. -/
def fetchStatus : Option BlkFetch → Nat
  | some f => f.status
  | none => stDONE

/-- The next block of each engine whose state has not landed enters FETCH_WAIT (R319). -/
def State.noteWaits (s : State) (r : UpdRun) : State :=
  if r.tier = 0 ∨ r.finished ∨ r.code.isEmpty then s
  else
    (List.range 3).foldl (fun u j =>
      match u.updRun r.bucket r.die r.step with
      | none => u
      | some x =>
        match x.nextBlock j with
        | none => u
        | some b =>
          if fetchLanded (u.fetchOf r.die j r.bucket b) || x.waiting.contains b then u
          else (u.setUpdRun { x with waiting := x.waiting ++ [b], missed := x.missed + 1 }).addF STATE_MISS_COUNT 0 (r.die * 4 + j) 1) s

/-! ### Requests and starts (R300, R301, R306, R307, R331) -/

/-- A request's first act in an outer tier: its fetches begin while it is held (R318). -/
def State.prefetchRequest (s : State) (b step : Nat) : State :=
  let c := s.stateCtrl b
  if !c.testBit 31 ∨ bits c 30 29 = 0 ∨ bits c 30 29 = 3 ∨ s.accessHeld (s.stateAddr b) 64 false then s
  else
    (List.range 4).foldl (fun u d =>
      if u.dieRunning d && (u.updRun b d step).isNone then
        let r := u.openRun b d step
        if u.runOk r then (u.setUpdRun r).fetchAhead r else u
      else u) s

/-- Whether the bucket's earlier update on die d ended ABORTED by R331 and still binds. -/
def State.staleOn (s : State) (b d : Nat) : Bool :=
  s.upd.stale.contains (b * 4 + d) && (s.getF CORNICE_STATUS_STALE 0 0).testBit d

/-- Shards of a bucket that die d handles. -/
def State.dieShards (s : State) (b d : Nat) : List ShardRun :=
  s.red.shards.filter fun x => x.bucket == b && shardDie x.shard == d

/-- The address of step `step`'s hyperparameter record of bucket b (R308). -/
def State.hyperAddr (s : State) (b step : Nat) : Nat := s.seenN (s.stateAddr b + 0x28) 8 + step % 2 * 256

/-- Whether something that die d reads at an update's start is held: the tables' entries, the program image, the hyperparameter record. -/
def State.armHeld (s : State) (b d step : Nat) : Bool :=
  let slot := bits (s.stateCtrl b) 20 17
  s.engineHeld d (s.stateAddr b) 64 false || s.engineHeld d (s.bucketAddr b) 32 false ||
  (decide (3 ≤ slot) && s.engineHeld d (s.progAddr slot) 512 false) || s.engineHeld d (s.hyperAddr b step) 256 false

/-- What die d's reading of the tables at an update's start leaves behind (R40, R297). -/
def State.armLook (s : State) (b d : Nat) : State :=
  let t := (s.look d 106 (s.stateAddr b) 64).look d 106 (s.bucketAddr b) 32
  let slot := bits (t.stateCtrl b) 20 17
  if 3 ≤ slot then t.look d 106 (t.progAddr slot) 512 else t

/-- The update of bucket b starts on die d, by the state table entry as it stands (R297): it ends at once where a rule forbids it, else
it has its program. `lost` tells a shard that ended ABORTED (R331). What was fetched by another entry is dropped. -/
def State.armRun (s : State) (b d step : Nat) (lost : Bool) : State :=
  let s := s.armLook b d
  let r := s.openRun b d step
  let drop (u : State) : State := u.dropFetches d fun f => f.bucket == b
  let refuse (u : State) (status : Nat) : State := (drop u).setUpdRun (r.refused status)
  let s := if (s.updRun b d step).any fun x => !x.sameEntry r then drop s else s
  if s.staleOn b d then refuse s stABORTED
  else if lost then
    (refuse s stABORTED).setUpd fun u => { u with stale := if u.stale.contains (b * 4 + d) then u.stale else u.stale ++ [b * 4 + d] }
  else if !s.runOk r then refuse s stINVALID
  else
    match s.progImage r.prog with
    | .inr f => refuse (s.noteUpdFault d b r.prog f.1 f.2) stINVALID
    | .inl ws =>
      let x := s.localRead d 106 (s.hyperAddr b step) 256
      let r1 := { r with code := ws, hyper := x.2.1, hyperPois := x.2.2.any id }
      let s1 := (s.setUpdRun r1).setUpd fun u => { u with stale := u.stale.filter (· != b * 4 + d) }
      (s1.fetchAhead r1).noteWaits r1

/-! ### The journal (R314, R315) -/

/-- Address of a journal slot. -/
def State.slotAddr (s : State) (d j slot : Nat) : Nat :=
  s.getF JOURNAL_BASE_BASE 0 d * 4096 + j * 0x48000 + slot * 1152

/-- Whether a journal slot is free: not VALID and not taken by a block in flight. -/
def State.slotFree (s : State) (d j slot : Nat) : Bool :=
  s.seenN (s.slotAddr d j slot) 1 != 1 && (s.engBlocks d j).all fun x => x.slot != slot

/-- The lowest free slot. -/
def State.freeSlot (s : State) (d j : Nat) : Option Nat := (List.range 256).find? fun k => s.slotFree d j k

/-- JOURNAL_USED by what memory holds. -/
def State.noteJournal (s : State) (d j : Nat) : State :=
  s.setF ENG_STATUS_JOURNAL_USED 0 (d * 4 + j)
    ((List.range 256).filter fun k => s.seenN (s.slotAddr d j k) 1 == 1).length

/-- Whether the package has adopted the seal of a step. -/
def State.isSealed (s : State) (step : Nat) : Bool :=
  match s.cor.sealedStep with
  | some k => decide (step ≤ k)
  | none => false

/-- Whether snapshots of step n go to the cornice store: enabled, and the step not sealed (R315, R330). -/
def State.storeUsed (s : State) (step : Nat) : Bool :=
  s.corOn CORNICE_EXPERT_CORNICE_EN && !s.isSealed step

/-- Records that the store of die d holds (R335). -/
def State.storeRoom (s : State) (d : Nat) : Nat := s.getF CSTORE_SIZE_SIZE 0 d * 4096 / 1028

/-- Whether the store of die d has room beside the blocks that will take a snapshot (R316, R336). -/
def State.storeFree (s : State) (d : Nat) : Bool :=
  let coming := ((List.range 3).map fun j => ((s.engBlocks d j).filter fun x => decide (x.phase = .snap)).length).foldl (· + ·) 0
  decide (s.getF CSTORE_USE_USED 0 d + coming < s.storeRoom d)

/-- A journal slot header (Table 11.7). -/
def slotHeader (b block step snap : Nat) : List Byte :=
  leBytes 1 1 ++ leBytes 1 0 ++ leBytes 2 b ++ leBytes 4 block ++ leBytes 5 step ++ List.replicate 3 0 ++ leBytes 8 snap ++
  List.replicate 40 0

/-- Address of the next record of die d's cornice store, and of its index entry (R335). -/
def State.storeAddr (s : State) (d k : Nat) : Nat := s.getF CSTORE_BASE_BASE 0 d * 4096 + k * 1028
def State.indexAddr (s : State) (d k : Nat) : Nat := s.getF CINDEX_BASE_BASE 0 d * 4096 + 4 * k

/-- Whether what a block's snapshot writes is held. -/
def State.snapHeld (s : State) (d j : Nat) (x : BlkRun) : Bool :=
  s.engineHeld d (s.slotAddr d j x.slot) 1152 true ||
  (s.storeUsed x.step &&
    (s.engineHeld d (s.storeAddr d (s.getF CSTORE_USE_USED 0 d)) 1028 true || s.engineHeld d (s.indexAddr d (s.getF CSTORE_USE_USED 0 d)) 4 true))

/-- Write a block's snapshot and its slot header (R314 step 1, R315, R335). -/
def State.writeSnap (s : State) (d j : Nat) (x : BlkRun) : State :=
  let body := x.old.flatMap id
  let slot := s.slotAddr d j x.slot
  let s1 :=
    if s.storeUsed x.step then
      let k := s.getF CSTORE_USE_USED 0 d
      let at_ := s.storeAddr d k
      let t := ((s.localWrite d (106 + j) at_ body []).localWrite d (106 + j) (s.indexAddr d k) (leBytes 4 (x.bucket * 2 ^ 20 + x.block)) []).setF
        CSTORE_USE_USED 0 d (k + 1)
      (t.setF CSTORE_USE_HIGH_WATER 0 d (max (k + 1) (t.getF CSTORE_USE_HIGH_WATER 0 d))).localWrite d (106 + j) slot
        (slotHeader x.bucket x.block x.step at_) []
    else
      (s.localWrite d (106 + j) (slot + 64) (body ++ List.replicate 60 0) []).localWrite d (106 + j) slot
        (slotHeader x.bucket x.block x.step (slot + 64)) []
  s1.noteJournal d j

/-- Write streams of a block to its state: in the near tier at once, else by PUTs; the number of PUTs sent. -/
def State.writeStreams (s : State) (r : UpdRun) (j block : Nat) (state : List (List Byte)) (ks : List Nat) : State × Nat :=
  let ks := ks.filter fun k => r.streams.contains k
  if r.tier = 0 then
    (ks.foldl (fun u k => u.localWrite r.die (106 + j) (r.streamPtr k block % 2 ^ 48) (state.getD (k - 1) []) []) s, 0)
  else
    (ks.foldl (fun u k => u.remoteIssue noFire r.die (r.request u j k block 0 (state.getD (k - 1) []))) s, ks.length)

/-- Whether a near-tier access to streams waits (R31, R175). -/
def State.streamsHeld (s : State) (r : UpdRun) (block : Nat) (write : Bool) (ks : List Nat) : Bool :=
  r.tier == 0 && (ks.filter fun k => r.streams.contains k).any fun k =>
    s.engineHeld r.die (r.streamPtr k block % 2 ^ 48) (streamBytes k) write

/-- Free a journal slot. -/
def State.freeJournal (s : State) (d j slot : Nat) : State := (s.localWrite d (106 + j) (s.slotAddr d j slot) [0] []).noteJournal d j

/-- Die d writes UPDATE_DONE, a block leaves its engine with an outcome: counts, window slot, further fetches. -/
def State.endBlock (s : State) (d j : Nat) (x : BlkRun) (outcome : Nat) : State :=
  let s1 := (s.dropBlk d j x).setEngFetches d j ((s.engFetches d j).filter fun f => !(f.bucket == x.bucket && f.block == x.block))
  let s2 := if outcome = stDONE then s1.addF ENG_STATUS_COMMITTED 0 (d * 4 + j) 1 else s1
  match s2.updRun x.bucket d x.step with
  | none => s2
  | some r =>
    let r1 := r.blockEnds x.block outcome
    let r2 := if outcome = stDONE ∨ x.phase = .snap then r1 else { r1 with folded := r1.folded ++ [x.block] }
    let s3 := s2.setUpdRun r2
    (s3.fetchAhead r2).noteWaits r2

/-- Take the answers of an engine's writes into its blocks and restores (R314, R320). -/
def State.collectOuter (s : State) (d : Nat) : State :=
  let isW (x : RemDone) : Bool := match x.who with | .update _ n => n % 2 == 1 | _ => false
  let done := (s.tracker d).done.filter isW
  let s1 := s.setTracker d { s.tracker d with done := (s.tracker d).done.filter fun x => !isW x }
  done.foldl (fun u x =>
    match x.who with
    | .update j n =>
      let b := n / 16 / 2 ^ 20
      let block := n / 16 % 2 ^ 20
      let hit (y : BlkRun) : Bool := y.bucket == b && y.block == block && decide (0 < y.outer)
      let upd (y : BlkRun) : BlkRun := { y with outer := y.outer - 1, outerStatus := statusMax y.outerStatus x.status }
      let bump (v : State) (e : Nat) : State :=
        match (v.engBlocks d e).find? hit with
        | some y => v.setBlk d e (upd y)
        | none => v
      if (u.engBlocks d j).any hit then bump u j else bump u 3
    | _ => u) s1

/-! ### Recovery (R317) and restore (R341) -/

/-- The five streams of a snapshot body. -/
def bodyStreams (bs : List Byte) : List (List Byte) :=
  [bs.take 256, (bs.drop 256).take 256, (bs.drop 512).take 256, (bs.drop 768).take 4, (bs.drop 772).take 256]

/-- Requeue a block (R317): it runs again, whether its run was over or not. -/
def State.requeue (s : State) (b d step block : Nat) : State :=
  match s.updRun b d step with
  | none => s
  | some r => s.setUpdRun (r.again block)

/-- A restore's writes have landed: the journal slot is freed and the block requeued, or the store record's commit tag is
written. `slot` is 256 × engine + slot for a journal slot, 65,536 + k for store record k. -/
def State.restoreLanded (s : State) (d : Nat) (x : BlkRun) : State :=
  if x.slot < 65536 then (s.freeJournal d (x.slot / 256) (x.slot % 256)).requeue x.bucket d x.step x.block
  else s.localWrite d 106 ((s.entryRun x.bucket d x.step).commit + 2 * x.block) (leBytes 2 ((x.step + 65535) % 65536)) []

/-- Whether what a landed restore then writes is held. -/
def State.landHeld (s : State) (d : Nat) (x : BlkRun) : Bool :=
  if x.slot < 65536 then s.engineHeld d (s.slotAddr d (x.slot / 256) (x.slot % 256)) 1 true
  else s.engineHeld d ((s.entryRun x.bucket d x.step).commit + 2 * x.block) 2 true

/-- Whether what the restore of one snapshot touches is held. -/
def State.recordHeld (s : State) (d b block step snap : Nat) : Bool :=
  let r := s.entryRun b d step
  s.engineHeld d (s.stateAddr b) 64 false || s.engineHeld d (r.commit + 2 * block) 2 true || s.streamsHeld r block true [1, 2, 3, 4, 5] ||
  s.engineHeld d snap 1028 false

/-- Write a snapshot back: streams 3 and 4, then 1, 2 and 5. -/
def State.restoreBlock (s : State) (d j b block step slot snap : Nat) : State :=
  let r := s.entryRun b d step
  let y := s.localRead d (106 + j) snap 1028
  let st := bodyStreams y.2.1
  let w := y.1.writeStreams r j block st [3, 4]
  let v := w.1.writeStreams r j block st [1, 2, 5]
  let x : BlkRun := ⟨b, block, step, .snap, slot, [], [], w.2 + v.2, stDONE⟩
  if w.2 + v.2 = 0 ∧ !v.1.landHeld d x then v.1.restoreLanded d x else v.1.setEngBlocks d 3 (v.1.engBlocks d 3 ++ [x])

/-- Recovery of one journal slot. -/
def State.recoverSlot (s : State) (d j slot : Nat) : State :=
  let a := s.slotAddr d j slot
  if s.seenN a 1 ≠ 1 then s
  else
    let b := s.seenN (a + 2) 2 % 4096
    let block := s.seenN (a + 4) 4
    let step := s.seenN (a + 8) 5
    let tagAt := (s.entryRun b d step).commit + 2 * block
    let t := s.look d (106 + j) tagAt 2
    if s.seenN tagAt 2 ≠ step % 65536 then t.restoreBlock d j b block step (256 * j + slot) (s.seenN (a + 0x10) 8)
    else t.freeJournal d j slot

/-- Whether something that recovery of a die's journals touches is held (R31, R175). -/
def State.journalHeld (s : State) (d : Nat) : Bool :=
  s.engineHeld d (s.slotAddr d 0 0) 0xD8000 true ||
  (List.range 768).any fun i =>
    let a := s.slotAddr d (i / 256) (i % 256)
    s.seenN a 1 == 1 && s.recordHeld d (s.seenN (a + 2) 2 % 4096) (s.seenN (a + 4) 4) (s.seenN (a + 8) 5) (s.seenN (a + 0x10) 8)

/-- Recovery of a die's three journals. -/
def State.recoverJournals (s : State) (d : Nat) : State :=
  (List.range 3).foldl (fun u j =>
    (List.range 256).foldl (fun v k => v.recoverSlot d j k) (u.look d (106 + j) (u.slotAddr d j 0) 0x48000)) s

/-- Recovery of a die's three journals, at once or once nothing that it touches is held. -/
def State.recover (s : State) (d : Nat) : State :=
  let u := s.setUpd fun u => { u with recover := u.recover.filter (· != d) }
  if u.journalHeld d then u.setUpd fun u => { u with recover := u.recover ++ [d] } else u.recoverJournals d

/-- Recovery of die d, which no longer waits for RECOVER. -/
def State.recoverDie (s : State) (d : Nat) : State :=
  (s.setUpd fun u => { u with waitRecover := u.waitRecover.filter (· != d) }).recover d

/-- Recoveries that waited for memory go on. -/
def State.settleRecover (s : State) (d : Nat) : State :=
  if s.upd.recover.contains d && s.dieRunning d then s.recover d else s

/-- Bucket and block of record k of die d's cornice store, as a number (R335). -/
def State.storeIndex (s : State) (d k : Nat) : Nat := s.seenN (s.indexAddr d k) 4

/-- Whether something that putting back the cornice store of die d touches is held. -/
def State.storeHeld (s : State) (d step : Nat) : Bool :=
  let n := s.getF CSTORE_USE_USED 0 d
  s.engineHeld d (s.indexAddr d 0) (4 * n) false ||
  (List.range n).any fun k => s.recordHeld d (s.storeIndex d k / 2 ^ 20) (s.storeIndex d k % 2 ^ 20) step (s.storeAddr d k)

/-- The cornice store of die d is put back, record by record (R340 step 5, R341). -/
def State.restoreStore (s : State) (d step : Nat) : State :=
  (List.range (s.getF CSTORE_USE_USED 0 d)).foldl (fun u k =>
    let i := u.storeIndex d k
    (u.look d 106 (u.indexAddr d k) 4).restoreBlock d 0 (i / 2 ^ 20) (i % 2 ^ 20) step (65536 + k) (u.storeAddr d k)) s

/-- Restores whose writes have all been answered end: landed ones take effect, failed ones leave slot and tag (R317,
R320). -/
def State.settleRestores (s : State) (d : Nat) : State :=
  let l := s.engBlocks d 3
  let overF := l.filter fun x => x.outer == 0 && !s.landHeld d x
  overF.foldl (fun u x => if x.outerStatus = stDONE then u.restoreLanded d x else u)
    (s.setEngBlocks d 3 (l.filter fun x => !(x.outer == 0 && !s.landHeld d x)))

/-- A die's engines stop: blocks in flight are lost where they stand (Table 11.8); a block without a VALID slot is requeued,
and working slots are lost (assumption 30). It writes UPDATE_DONE again once it has rejoined (R306). -/
def State.updFence (s : State) (d : Nat) : State :=
  let s1 := (List.range 3).foldl (fun u j =>
    (u.engBlocks d j).foldl (fun v x =>
      let w := v.dropBlk d j x
      match x.phase with
      | .snap => w.requeue x.bucket d x.step x.block
      | .done =>
        match w.updRun x.bucket d x.step with
        | some r => w.setUpdRun (r.blockEnds x.block stDONE)
        | none => w
      | _ => w) u) s
  let s2 := (List.range 3).foldl (fun u j => u.setEngFetches d j []) (s1.setEngBlocks d 3 [])
  let clear (r : UpdRun) : UpdRun := if r.die = d then { r with slots := [], waiting := [], folded := [] } else r
  s2.setUpd fun u => { u with runs := u.runs.map clear, doneSteps := kset 0 u.doneSteps d 0 }

/-! ### Finishing (R302 to R304) -/

/-- The kind that a program's SUM instructions give slot k. -/
def slotKind (ws : List Nat) (k : Nat) : Option Nat :=
  (ws.find? fun w => cOP w == 0x3C && bits (cVB w) 2 0 == k).map fun w => bits (cVC w) 1 0

/-- Two values of a summary slot combined by its kind (R303). -/
def slotJoin (kind a b : Nat) : Nat :=
  match kind with
  | 0 => laneMax 0 a b
  | 1 => (fp32.add a b).1
  | 2 => (a + b) % 2 ^ 64
  | _ => a ||| b

/-- Slot k of a bucket's update over the twelve engines (R303). -/
def State.updSlot (s : State) (b step k : Nat) : Nat :=
  let rs := (List.range 4).filterMap fun d => s.updRun b d step
  match (rs.find? fun r => !r.code.isEmpty) with
  | none => 0
  | some r0 =>
    match slotKind r0.code k with
    | none => 0
    | some kind =>
      rs.foldl (fun a r => (List.range 3).foldl (fun a j =>
        match r.slots.find? fun p => p.1 == j * 16 + k with
        | some p => slotJoin kind a (p.2.getD 0).toNat
        | none => a) a) (slotInit kind).data.toNat

/-- The update of a bucket ends at the package (R302); its ring is the one that its start read (R297). -/
def State.endUpdate (s : State) (x : UpdBucket) (status : Nat) : State :=
  let rs := s.upd.runs.filter fun r => r.bucket == x.bucket && r.step == x.step
  let total (f : UpdRun → Nat) : Nat := (rs.map f).foldl (· + ·) 0
  let done := total (·.committed)
  let s1 := s.post campDie 0 (s.getF UPD_STATUS_BASE 0 0 * 4096 + x.bucket * 32)
    (leBytes 5 x.step ++ leBytes 1 status ++ leBytes 2 0 ++ leBytes 4 done ++ leBytes 4 (total (·.missed)) ++
     leBytes 8 (s.updSlot x.bucket x.step 0) ++ leBytes 8 (s.updSlot x.bucket x.step 1)) []
  let c := s.stateCtrl x.bucket
  let ring := match rs.find? fun r => r.finished || !r.code.isEmpty with
    | some r => r.ring
    | none => if c.testBit 27 then some (bits c 26 21) else none
  let s2 := match ring with
    | some q => s1.postKind 2 x.bucket status done x.step q
    | none => s1
  let y := { x with ended := true, held := false, status := status }
  s2.setUpd fun u => { u with buckets := u.buckets.map fun z => if z.bucket = x.bucket ∧ z.step = x.step then y else z }

/-- Whether an export of the bucket for an earlier step still waits or reads (R322). -/
def State.exportHolds (s : State) (x : UpdBucket) : Bool :=
  s.upd.exports.any fun e => s.seenN (e.addr + 0x18) 4 / 2 ^ 20 == x.bucket && decide (e.step < x.step)

/-- Whether die d holds every shard of a bucket that it handles final (R306). -/
def State.dieFinal (s : State) (b d : Nat) : Bool :=
  let xs := s.dieShards b d
  decide (xs.length = 4) && xs.all fun x => x.status.isSome

/-- What an update needs to know of its bucket's reduction, noted while the step is the one launched: the bucket's status once final, and
the dies that hold their shards final (R300, R306, R331). -/
def State.noteFinal (s : State) (x : UpdBucket) : State :=
  if s.red.launched ≠ some x.step then s
  else
    match s.bucketRun x.bucket with
    | none => s
    | some br =>
      let aborted (d : Nat) : Bool := (s.dieShards x.bucket d).any fun y => y.status == some stABORTED
      -- a collapse of the next step has emptied the shards: what was noted of them stands
      let none_ (d : Nat) : Bool := (s.dieShards x.bucket d).isEmpty
      let y := { x with
        final := if br.counted.isEmpty then none else br.status
        ready := (List.range 4).filter fun d => if none_ d then x.ready.contains d else s.dieFinal x.bucket d && !aborted d
        lost := (List.range 4).filter fun d => if none_ d then x.lost.contains d else aborted d }
      s.setUpd fun u => { u with buckets := u.buckets.map fun z => if z.bucket = x.bucket ∧ z.step = x.step then y else z }

/-- An update that ends without running: what its request fetched ahead goes (R301, R318). -/
def State.endUnrun (s : State) (x : UpdBucket) (status : Nat) : State :=
  let s1 := (List.range 4).foldl (fun u d => u.dropFetches d fun f => f.bucket == x.bucket) s
  (s1.setUpd fun u => { u with runs := u.runs.filter fun r => !(r.bucket == x.bucket && r.step == x.step) }).endUpdate x status

/-- Start a held request whose bucket is final for its step (R27, R300, R301, R336). -/
def State.tryStart (s : State) (x : UpdBucket) : State :=
  if x.started || x.ended then s
  else
    match x.final with
    | none => s
    | some st =>
      if (!s.corOn CORNICE_EXPERT_CORNICE_EN && !s.isSealed x.step) || s.exportHolds x || s.accessHeld (s.stateAddr x.bucket) 64 false then s
      else
        let worst := if (s.stateCtrl x.bucket).testBit 31 then st else statusMax st stNORES
        if worst ≠ stDONE ∧ worst ≠ stDEGRADED then (s.look campDie 0 (s.stateAddr x.bucket) 64).endUnrun x worst
        else
          let y := { x with started := true, held := false }
          s.setUpd fun u => { u with buckets := u.buckets.map fun z => if z.bucket = x.bucket ∧ z.step = x.step then y else z }

/-- Whether a die's restores after a rejoin are endsAt (R306, R317, R342). -/
def State.restored (s : State) (d : Nat) : Bool :=
  !s.upd.waitRecover.contains d && !s.upd.recover.contains d && !s.cor.owed.contains d && kget 0 s.cor.rejoin d == 0 && (s.engBlocks d 3).isEmpty

/-- Runs that a started update still lacks on a live die (R306). -/
def State.armRuns (s : State) (x : UpdBucket) : State :=
  if !x.started then s
  else
    (List.range 4).foldl (fun u d =>
      let armed := match u.updRun x.bucket d x.step with
        | some r => r.finished || !r.code.isEmpty
        | none => false
      if u.dieRunning d && !armed && (x.ready.contains d || x.lost.contains d) && u.restored d && !u.armHeld x.bucket d x.step
      then u.armRun x.bucket d x.step (x.lost.contains d) else u) s

/-- Finish a started update once every live die has finished its blocks; one finished without a fenced die's blocks is DONE_DEGRADED
(R302). -/
def State.tryFinish (s : State) (x : UpdBucket) : State :=
  if !x.started || x.ended || s.liveDies.isEmpty then s
  else
    let rs := s.liveDies.map fun d => s.updRun x.bucket d x.step
    if rs.all fun r => match r with | some r => r.finished | none => false then
      let all := (List.range 4).map fun d => s.updRun x.bucket d x.step
      let st := all.foldl (fun a r => statusMax a ((r.map (·.result)).getD stDONE)) stDONE
      let whole := all.all fun r => r.any (·.finished)
      s.endUpdate x (statusMax st (if whole then stDONE else stDEGRADED))
    else s

/-- Fetches that an open window slot lets go out, and blocks that then wait (R318, R319). -/
def State.settleFetches (s : State) : State :=
  s.upd.runs.foldl (fun u r =>
    match u.updRun r.bucket r.die r.step with
    | some x => if x.finished ∨ x.tier = 0 ∨ !u.dieRunning x.die ∨ !u.restored x.die then u else (u.fetchAhead x).noteWaits x
    | none => u) s

/-- Requests, runs and finishes that are due. -/
def State.settleUpdates (s : State) : State :=
  let s0 := (List.range 4).foldl (fun u d => (u.collectOuter d).settleRestores d) s
  let each (u : State) (f : State → UpdBucket → State) : State := u.upd.buckets.foldl f u
  (each (each (each (each s0 State.noteFinal) State.tryStart) State.armRuns) State.tryFinish).settleFetches

/-- Buckets that R304 waits for: VALID, of an enabled group, with ENABLE = 1 in the state table. -/
def State.updEligible (s : State) : List Nat :=
  ((s.red.buckets.map (·.bucket)).filter fun b => (s.stateCtrl b).testBit 31)

/-- Whether a bucket's step n update is over on die d (R304). -/
def State.overOn (s : State) (b d n : Nat) : Bool :=
  match s.upd.buckets.find? fun x => x.bucket == b && x.step == n with
  | none => false
  | some x => (x.ended && !x.started) || (match s.updRun b d n with | some r => r.finished | none => false)

/-- Whether the package is between a collapse of a step and its relaunch. -/
def State.collapsing (s : State) (step : Nat) : Bool :=
  (s.getF CORNICE_STATUS_STATE 0 0 == 4 || s.getF CORNICE_STATUS_STATE 0 0 == 5) && s.getF CORNICE_STATUS_STEP 0 0 == step

/-- Dies whose updates of the launched step are over write UPDATE_DONE, once a step (R304); an update that a collapse ended is none
(R305). -/
def State.settleDone (s : State) : State :=
  match s.red.launched with
  | none => s
  | some n =>
    if s.collapsing n then s else
    (List.range 4).foldl (fun u d =>
      if u.dieRunning d && u.restored d && kget 0 u.upd.doneSteps d != n + 1 && u.updEligible.all (fun b => u.overOn b d n) then
        (u.setUpd fun x => { x with doneSteps := kset 0 x.doneSteps d (n + 1) }).writePos d (contourAt n phUPDATE)
      else u) s

end Sys2Proof.Machine
end

