-- ==== Sys2Proof/Machine/CorOps.lean ====
section
/-!
DEFINITION. The cornice at a member as shared operations (chapter 12): step state, gates, what settles after other work,
seal, collapse, resume.
-/
namespace Sys2Proof.Machine

open Sys2Proof

/-- Enter a step state, and send STEP_STATE (Table 12.1, R327). -/
def State.setStep (s : State) (st n : Nat) : State :=
  let s1 := (s.setF CORNICE_STATUS_STATE 0 0 st).setF CORNICE_STATUS_STEP 0 0 n
  if s.job = 0 then s1
  else s1.sendStepState (if st = 3 then 1 else if st = 5 then 3 else 4) stDONE 0 0

/-! ### Gates (R332, R333) -/

/-- The gate that a bucket maps to. -/
def State.gateOf (s : State) (b : Nat) : Nat := s.seenN (s.getF GATE_MAP_BASE 0 0 * 4096 + b) 1

/-- Whether the layer gates of step n + 1 may open at all. -/
def State.gatesMove (s : State) (n : Nat) : Bool :=
  let st := s.corState
  ((s.corStep == n && (st == 2 || st == 3)) || (s.isSealed n && s.corStep == n + 1 && (st == 1 || st == 2 || st == 3))) &&
  (s.isSealed n ||
    (!(s.corOn CORNICE_EXPERT_CORNICE_EN && !s.corOn CORNICE_EXPERT_RUNAHEAD) &&
     (match s.cor.drain with | some x => x.1 != n | none => true)))

/-- Layer gates whose buckets, among those launched for step n, have all finished step n open (R333). -/
def State.openGates (s : State) (n : Nat) (launched : List Nat) : State :=
  if !s.gatesMove n then s
  else
    let overF (b : Nat) : Bool := s.upd.buckets.any fun x => x.bucket == b && x.step == n && x.ended
    let shut := (launched.filter fun b => (s.stateCtrl b).testBit 31 && !overF b).map s.gateOf
    (List.range 254).foldl (fun u g =>
      if shut.contains g || decide (n + 1 ≤ u.gateValue g) then u else u.raiseGate g (n + 1)) s

/-- Layer gates of the launched step, and of the one before it where its updates go on, that may open (R333). -/
def State.settleGates (s : State) : State :=
  let s1 := match s.red.prior with
    | some p => s.openGates p.1 p.2
    | none => s
  match s.red.launched with
  | none => s1
  | some n => s1.openGates n (s.red.buckets.map (·.bucket))

/-- REDUCING becomes FINAL once every bucket of the step is final on every die that runs (Table 12.1). -/
def State.settleFinal (s : State) : State :=
  if s.corState == 2 && !s.liveDies.isEmpty && s.red.buckets.all (fun b => !b.counted.isEmpty) then s.setStep 3 s.corStep else s

/-- A held request's fetches begin (R318). -/
def State.settlePrefetch (s : State) : State :=
  s.upd.buckets.foldl (fun u x => if x.started || x.ended then u else u.prefetchRequest x.bucket x.step) s

/-- Step 6 of R340 on die d, as far as it is the die's own. -/
def State.collapseResetDie (s : State) (d : Nat) : State :=
  let n := s.corStep
  let s1 := ((s.setF CSTORE_USE_USED 0 d 0).setReg LOCAL_POS d 0 (BitVec.ofNat 64 (contourAt n 0xEFFFFF))).setReg AHEAD_POS d 0 0
  let s2 := (s1.setRed fun r => { r with ready := kset 0 r.ready d n })
  s2.setUpd fun u => { u with
    runs := u.runs.filter fun r => !(r.step == n && r.die == d)
    doneSteps := kset 0 u.doneSteps d 0 }

/-- A die that was fenced at a seal has its bit in STALE once its journal is recovered (R331). -/
def State.noteStale (s : State) (d : Nat) : State :=
  if s.cor.missedSeal.any fun x => x.1 == d then
    (s.setF CORNICE_STATUS_STALE 0 0 (s.getF CORNICE_STATUS_STALE 0 0 ||| 2 ^ d)).setCor fun c => { c with
      missedSeal := c.missedSeal.filter fun x => x.1 != d }
  else s

/-- A rejoined die's restores go on once what they wait for has landed: after journal recovery the store of a collapse that it owes,
then step 6 of R340 (R341, R342); after them R331. -/
def State.rejoinNext (s : State) (d : Nat) : State :=
  let owes := s.cor.owed.contains d
  let stage (u : State) (k : Nat) : State := u.setCor fun c => { c with rejoin := kset 0 c.rejoin d k }
  if !s.dieRunning d ∨ !(s.engBlocks d 3).isEmpty ∨ s.upd.recover.contains d then s
  else
    let s1 := if kget 0 s.cor.rejoin d = 1 ∧ (owes ∨ !s.upd.waitRecover.contains d) then
        (if owes ∧ s.storeHeld d s.corStep then s else if owes then stage (s.restoreStore d s.corStep) 2 else (stage s 0).noteStale d)
      else s
    if kget 0 s1.cor.rejoin d = 2 ∧ (s1.engBlocks d 3).isEmpty then
      let s2 := if owes then (s1.collapseResetDie d).setCor fun c => { c with owed := c.owed.filter (· != d) } else s1
      if s2.upd.waitRecover.contains d then stage s2 1 else (stage s2 0).noteStale d
    else s1

/-- The restores of every die that runs, as far as their writes have been answered. -/
def State.settleRejoins (s : State) : State :=
  (List.range 4).foldl (fun u d => ((u.settleRecover d |>.collectOuter d).settleRestores d).rejoinNext d) s

/-- One pass over everything that other work may have made due. -/
def State.settleOnce (s : State) : State :=
  s.settleRejoins.settleBuckets.settleNoise.settlePrefetch.settleUpdates.settleDone.settleGates.settleFinal

/-- What is due after other work: two passes, since a gate's trigger may request an update. -/
def State.settle (s : State) : State := s.settleOnce.settleOnce

/-! ### Seal (R330, R331) -/

/-- The shards of a bucket that die d handles and that are not final. -/
def State.openOn (s : State) (b d : Nat) : List Nat :=
  ((List.range 4).map (4 * · + d)).filter fun sh =>
    match s.shardRun b sh with
    | some x => x.status.isNone
    | none => true

/-- Shards of die d that are not final at the seal complete ABORTED; their buckets' updates on that die will (R291, R331). -/
def State.missSeal (s : State) (d : Nat) : State :=
  s.red.buckets.foldl (fun u br =>
    let missing := if br.reduces then u.openOn br.bucket d else []
    if missing.isEmpty then u
    else
      let keep := u.red.shards.filter fun x => !(x.bucket == br.bucket && missing.contains x.shard)
      let lost := missing.map fun sh => { ShardRun.fresh br.bucket sh 0 [] with status := some stABORTED }
      u.setRed fun r => { r with shards := keep ++ lost }) s

/-- The package adopts (n, SEAL). A die that rejoined too late for its shards ends them as one still fenced does, its bit in STALE set at
once (R291, R331). -/
def State.sealStep (s : State) (n : Nat) : State :=
  let s1 := (List.range 4).foldl (fun u d => u.setF CSTORE_USE_USED 0 d 0) s
  let gone := (List.range 4).filter fun d => !s.dieRunning d
  let late := s.liveDies.filter fun d => s.red.launched == some n && s.red.buckets.any fun br => br.reduces && !(s.openOn br.bucket d).isEmpty
  let s1 := if s.red.launched = some n then (gone ++ late).foldl (fun u d => u.missSeal d) s1 else s1
  let s1 := s1.setF CORNICE_STATUS_STALE 0 0 (late.foldl (fun m d => m ||| 2 ^ d) (s1.getF CORNICE_STATUS_STALE 0 0))
  let s2 := s1.setCor fun c => { c with
    sealedStep := some n
    missedSeal := c.missedSeal ++ gone.map fun d => (d, n)
    owed := [] }
  let s3 := (s2.setRed fun r => { r with kept := [], keepNow := [], saved := [] })
  let s4 := match s3.cor.drain with
    | some x => if x.1 ≤ n then
        ((s3.setF EPOCH_EPOCH 0 0 x.2).setF CORNICE_STATUS_RESHARD_PENDING 0 0 0).setCor fun c => { c with drain := none, drained := some n }
      else s3
    | none => s3
  ((s4.raiseGate 255 (n + 1)).setF CORNICE_STATUS_TRY 0 0 0).setStep 1 (n + 1)

/-! ### Collapse (R340 to R342) -/

/-- Whether an operation is one that a collapse of step n drops: tagged n + 1, or DP or EDP tagged n. -/
def dropsOp (n step cls : Nat) : Bool := step == n + 1 || (step == n && (cls == 2 || cls == 3))

/-- Buffers and carries of buckets that are not final hold their contributions again (R295). -/
def State.redRestore (s : State) : State :=
  let open_ (b : Nat) : Bool := s.red.buckets.any fun br => br.bucket == b && br.counted.isEmpty
  let s1 := s.red.saved.reverse.foldl (fun u v => u.writeOpen v.addr v.data v.marks) s
  s1.setRed fun r => { r with
    saved := []
    carries := (r.carries.filter fun k => !open_ (k / 16)) ++ r.carries0.filter fun k => open_ (k / 16) }

/-- Reduction stops (R295): buckets not final complete COLLAPSED and keep their contributions, shards and their reservations go. -/
def State.redStop (s : State) : State :=
  let s1 := s.redRestore
  let s1 := s1.red.buckets.foldl (fun u br =>
    if br.counted.isEmpty then
      let b1 := { br with status := some stCOLLAPSED, inFlight := false, counted := [0, 1, 2, 3] }
      (u.setBucketRun b1).bucketReport b1 stCOLLAPSED
    else u) s1
  let s2 := (List.range 16).foldl (fun u g => u.setF GROUP_STATUS_IN_FLIGHT 0 g 0) s1
  s2.setRed fun r => { r with shards := [], sent := [], early := [], parked := [] }

/-- Update engines stop (R305): a block that is being written goes on to its commit tag; the others are dropped, and every
unfinished update of step n completes COLLAPSED. -/
def State.updStop (s : State) (n : Nat) : State :=
  let s0 := (List.range 12).foldl (fun u i =>
    let d := i / 3
    let j := i % 3
    u.setEngBlocks d j ((u.engBlocks d j).filter fun x => !(x.step == n && decide (x.phase = .snap)))) s
  let s1 := (List.range 4).foldl (fun u d => u.dropFetches d fun _ => true) s0
  s1.upd.buckets.foldl (fun u x => if x.step = n ∧ !x.ended then u.endUpdate x stCOLLAPSED else u)
    (s1.setUpd fun u => { u with runs := u.runs.map fun r => if r.step = n ∧ !r.finished then r.refused stCOLLAPSED else r })

/-- Operations of the package that have not left complete COLLAPSED, and so do the host's handles whose step tag is n + 1 and
exports of step n that wait (R322, R340 step 3). -/
def State.dropWaiting (s : State) (n : Nat) : State :=
  let s1 := (List.range 4).foldl (fun u d =>
    u.dropWaiters d (fun r => dropsOp n r.step r.cls) stCOLLAPSED |>.endWhere d stCOLLAPSED fun e =>
      dropsOp n e.req.step e.req.cls && e.phase.unsent && decide (e.phase ≠ .reserving)) s
  let s2 := (s1.host.descs.filter fun x => x.step == n + 1).foldl (fun u x => u.descDone x.uid stCOLLAPSED 0 0) s1
  let gone (x : ExportRun) : Bool := x.step == n && !x.started
  let s3 := (s2.upd.exports.filter gone).foldl (fun u x =>
    match x.handle, x.entry with
    | some h, _ => u.descDone h stCOLLAPSED 0 0
    | none, some e => u.entryStatus x.die e stCOLLAPSED
    | none, none => u) s2
  s3.setUpd fun u => { u with exports := u.exports.filter fun x => !gone x }

/-- Whether a member takes a COLLAPSE of step n and try t (Table 12.1, R327). -/
def State.collapseTaken (s : State) (n t : Nat) : Bool :=
  let st := s.corState
  st != 0 && s.corStep == n && decide (s.getF CORNICE_STATUS_TRY 0 0 < t)

/-- Steps 1 and 2 of R340: the gates close, the collapse word becomes odd, EPOCH and COLLAPSE_INFO are written, the step state is
COLLAPSING. -/
def State.collapseEnter (s : State) (n t cause : Nat) (halt : Bool) (epoch : Option Nat) : State :=
  let odd := s.gateValue 254 % 2 == 1
  let s1 := (List.range 255).foldl (fun u g => if g = 254 then u.lowerGate 255 n else u.lowerGate g n) s
  let s2 := if odd then s1 else s1.raiseGate 254 (s1.gateValue 254 + 1)
  let s3 := match epoch with
    | some e => s2.setF EPOCH_EPOCH 0 0 e
    | none => s2
  let s4 := (((s3.satF COLLAPSE_INFO_COUNT 0 0 1).setF COLLAPSE_INFO_CAUSE 0 0 cause).setF COLLAPSE_INFO_STEP 0 0 n).setF
    CORNICE_STATUS_HALTED 0 0 (b2n halt)
  (s4.setF CORNICE_STATUS_TRY 0 0 t).setStep 4 n

/-- Step 3 of R340 on the dies that run, but for the queues and the traverse engine: reduction and the update engines stop, waiting
operations complete, the dies drain. -/
def State.collapseStop (s : State) (n : Nat) (epoch : Option Nat) : State :=
  let s1 := ((s.redStop).updStop n).dropWaiting n
  s1.setCor fun c => { c with
    draining := s1.liveDies
    restoring := []
    owed := (List.range 4).filter fun d => !s1.dieRunning d
    drain := if epoch.isSome then none else c.drain }

/-- Steps 1 to 3 of R340 on the dies that run, but for the queues and the traverse engine. -/
def State.collapseBegin (s : State) (n t cause : Nat) (halt : Bool) (epoch : Option Nat) : State :=
  (s.collapseEnter n t cause halt epoch).collapseStop n epoch

/-- Whether the drain of R340 is over on die d: no tracker entry left that the collapse drops, no block in flight. -/
def State.drainOver (s : State) (d : Nat) : Bool :=
  ((s.tracker d).entries.all fun e => !dropsOp s.corStep e.req.step e.req.cls) &&
  (List.range 3).all fun j => (s.engBlocks d j).isEmpty

/-- Step 5 of R340 on die d: journal recovery, then the store. -/
def State.collapseRestore (s : State) (d : Nat) : State := (s.recoverJournals d).restoreStore d s.corStep

/-- Step 6 of R340 on die d: every update of step n may be requested again. -/
def State.collapseReset (s : State) (d : Nat) : State :=
  (s.collapseResetDie d).setUpd fun u => { u with buckets := u.buckets.filter fun x => x.step != s.corStep }

/-- The smallest LOCAL_POS of the dies that run (R250). -/
def State.packagePos (s : State) : Nat :=
  match s.liveDies.map s.localPos with
  | [] => 0
  | p :: ps => ps.foldl min p

/-- Once every die that runs has restored: the collapse word rises, RESTORED is reported (R340 steps 6 and 7). -/
def State.collapseReport (s : State) : State :=
  if s.corState == 4 && s.cor.draining.isEmpty && s.cor.restoring.isEmpty then
    let s1 := (s.raiseGate 254 (s.gateValue 254 + 1)).setStep 5 s.corStep
    (s1.setContour fun r => { r with reported := s1.packagePos })
  else s

/-- A member adopts RESUME(n) (R343). -/
def State.resumeStep (s : State) (n sendAt : Nat) : State :=
  ((s.setF CORNICE_STATUS_HALTED 0 0 0).setStep 2 n).launchStep n sendAt true

end Sys2Proof.Machine
end

