-- ==== Sys2Proof/Machine/SbOps.lean ====
section
/-!
DEFINITION. The switchback engines as shared operations (R347 to R359): entries, hints, dispatch, done entries, collapse.
-/
namespace Sys2Proof.Machine

open Sys2Proof

def State.sb (s : State) (d : Nat) : Switchback := kget Switchback.zero s.switchbacks d

/-- The engine of die d with IN_FLIGHT. -/
def State.setSb (s : State) (d : Nat) (x : Switchback) : State :=
  { s with switchbacks := kset Switchback.zero s.switchbacks d x }.setF SB_STATUS_IN_FLIGHT d 0 x.flights.length

def State.sbState (s : State) (d : Nat) : Nat := s.getF SB_STATUS_STATE d 0
def State.sbStep (s : State) (d : Nat) : Nat := s.getF SB_STATUS_STEP d 0
def State.sbPtr (s : State) (d : Nat) : Nat := s.getF SB_STATUS_PTR d 0

/-! ### Entry fields (Table 13.1) -/

def sbKind (w : Nat) : Nat := bits w 63 62
def sbMicro (w : Nat) : Nat := bits w 58 47
def sbInEn (w : Nat) : Bool := w.testBit 46
def sbInQ (w : Nat) : Nat := bits w 45 40
def sbClusters (w : Nat) : List Nat := (List.range 8).filter fun c => w.testBit (9 + c)
/-- Whether an entry runs a pass: KIND FWD or BWD, with a cluster (R348). -/
def sbPass (w : Nat) : Bool := decide (sbKind w < 2) && !(sbClusters w).isEmpty
def sbWaitOff (w : Nat) : Bool := w.testBit 8
def sbPre (w : Nat) : Nat := bits w 47 40
def sbOff (w : Nat) : Nat := bits w 39 32
def sbGate (w : Nat) : Nat := bits w 31 24

/-- Address of entry i in the active bank (R347). -/
def State.sbEntryAddr (s : State) (d i : Nat) : Nat :=
  (if s.getF SB_STATUS_ACTIVE_BANK d 0 = 0 then s.getF SB_BANK0_BASE d 0 else s.getF SB_BANK1_BASE d 0) * 65536 + i * 16

/-- Address of a hint (R357). -/
def State.hintAddr (s : State) (d hint : Nat) : Nat := s.getF HINT_TABLE_BASE d 0 * 8192 + hint * 32

/-- Whether the engine's read of a hint waits; 255 names none. -/
def State.hintHeld (s : State) (d hint : Nat) : Bool := hint != 255 && s.engineHeld d (s.hintAddr d hint) 32 false

/-- Whether an entry is malformed (R348, R361). -/
def State.sbBad (s : State) (d w0 : Nat) : Bool :=
  sbKind w0 == 3 || (decide (sbKind w0 < 2) && (sbClusters w0).isEmpty) ||
  (decide (sbKind w0 < 2) && sbInEn w0 && !s.flag Q_CFG_ENABLE d (sbInQ w0))

/-! ### Failures (R358) -/

/-- A failure goes to SB_FAULT, the first kept, and posts a record. -/
def State.sbFail (s : State) (d entry hint cause status : Nat) : State :=
  let s1 :=
    if s.flag SB_FAULT_VALID d 0 then s
    else ((((s.setF SB_FAULT_VALID d 0 1).setF SB_FAULT_STATUS d 0 status).setF SB_FAULT_HINT d 0 hint).setF
      SB_FAULT_CAUSE d 0 cause).setF SB_FAULT_ENTRY d 0 entry
  s1.raise 0 0x34 d 0 status (s1.reg SB_FAULT d 0).toNat 0 0

/-- A hint operation ends (R358). A prefetch counts for the entry as it was last read: one that an earlier reading of the entry issued
does not (R351, R356). -/
def State.hintDone (s : State) (d entry hint : Nat) (pre : Bool) (seq status : Nat) : State :=
  let x := s.sb d
  let newer := x.hints.any fun h => h.1 == entry && h.2.2.1 && decide (seq < h.2.2.2)
  let upd (f : SbFetched) : SbFetched :=
    if pre && f.index == entry && sbPre f.word1 == hint && f.prefetch.isNone && !newer then { f with prefetch := some status } else f
  let drop := x.hints.find? fun h => h.1 == entry && h.2.1 == hint && h.2.2.1 == pre && h.2.2.2 == seq
  let s1 := s.setSb d { x with
    hints := match drop with | some h => x.hints.erase h | none => x.hints
    fetched := x.fetched.map upd }
  if status = stDONE then s1 else s1.sbFail d entry hint (if pre then 2 else 3) status

/-- Issue a hint operation of an entry (R357); a PUT to a queue port is carried as ENQUEUE (R75); one whose table entry reads as poison
completes POISONED (R493). -/
def State.issueHint (s : State) (d entry w0 hint step : Nat) (pre : Bool) : State :=
  let rd := s.localRead d 110 (s.hintAddr d hint) 32
  let word (i : Nat) : Nat := leNat ((rd.2.1.drop (8 * i)).take 8)
  let off := sbMicro w0 * word 3
  let src := (word 0 + off) % 2 ^ 64
  let dst := (word 1 + off) % 2 ^ 64
  let len := word 2
  let x := s.sb d
  let seq := (x.hints.map (·.2.2.2)).foldl max 0 + 1
  let s1 := rd.1.setSb d { x with hints := x.hints ++ [(entry, hint, pre, seq)] }
  let req (kind : RemKind) (ptr loc : Nat) : RemReq :=
    ⟨.switchback entry hint pre seq, kind, 0, BitVec.ofNat 64 ptr, loc % 2 ^ 48, len, 1, 0, false, [], [], 0, false, 0, step, s.job,
     false, decide (loc / 2 ^ 48 ≠ 0), 0⟩
  if rd.2.2.any id then s1.hintDone d entry hint pre seq stPOISONED
  else if src / 2 ^ 62 = 0 ∧ dst / 2 ^ 62 = 0 then s1.remoteIssue noFire d (req .move src dst)
  else if src / 2 ^ 62 = 0 then s1.remoteIssue noFire d (req (if dst / 2 ^ 62 = 1 && isPort (dst % 2 ^ 48) then .enqueue else .put) dst src)
  else if dst / 2 ^ 62 = 0 then s1.remoteIssue noFire d (req .get src dst)
  else s1.hintDone d entry hint pre seq stINVALID

/-! ### Reading and dispatch (R347, R352, R353) -/

/-- PREFETCH_AHEAD in its range. -/
def State.sbAhead (s : State) (d : Nat) : Nat := max 1 (min 64 (s.getF SB_EXPERT_PREFETCH_AHEAD d 0))
/-- DEPTH in its range, as an entry was read under. -/
def SbFetched.depth (f : SbFetched) : Nat := max 1 (min 32 (SB_EXPERT_DEPTH.get f.expert))

/-- The next entry to read, if any is due. -/
def State.sbNextRead (s : State) (d : Nat) : Option Nat :=
  let x := s.sb d
  if s.sbState d ≠ 1 ∨ x.ended then none
  else
    match x.fetched.getLast? with
    | none => some (s.sbPtr d)
    | some f => if sbKind f.word0 = 2 ∨ 4095 ≤ f.index ∨ s.sbPtr d + s.sbAhead d < f.index + 1 then none else some (f.index + 1)

/-- The entry at PTR, once read. -/
def State.sbHead (s : State) (d : Nat) : Option SbFetched :=
  let x := s.sb d
  if x.ended then none else x.fetched.find? fun f => f.index == s.sbPtr d

/-- The oldest unclaimed visible packet of a queue. -/
def State.unclaimed (s : State) (d q : Nat) : Option QPacket :=
  (s.queue d q).visible.find? fun p => !p.claimed

/-- Value of gate g in die d's flag word. -/
def State.gateWord (s : State) (d g : Nat) : Nat := s.readN (flagWordAddr d (s.gateFlag g)) 4

/-- The first condition of R352 that the entry at PTR fails: 1 input, 2 gate, 3 hints, 4 depth, where a cluster out of service counts (R449);
0 none. -/
def State.sbBlocked (s : State) (d : Nat) (f : SbFetched) : Nat :=
  let x := s.sb d
  let w0 := f.word0
  let w1 := f.word1
  let step := s.sbStep d % 2 ^ 32
  let gated := if sbKind w0 = 1 then some 255 else if sbGate w1 < 255 then some (sbGate w1) else none
  if sbInEn w0 && (s.unclaimed d (sbInQ w0)).isNone then 1
  else if (match gated with
    | some g => decide (s.gateWord d g < step) || s.gateWord d 254 % 2 == 1
    | none => false) then 2
  else if (sbPre w1 != 255 && f.prefetch.isNone) || (sbWaitOff w0 && x.hints.any fun h => !h.2.2.1) then 3
  else if (sbClusters w0).any fun c => decide (s.inService ≤ c) ||
      decide (f.depth ≤ (x.flights.filter fun y => y.upTo.any fun u => u.1 == c).length) then 4
  else 0

/-- Address of the dispatch record with SEQ n in core 0 of cluster c's mailbox. -/
def dispatchAddr (d c n : Nat) : Nat := 0x800000000000 + d * 0x10000000 + 0x8000000 + c * 12 * 0x1000 + 0x400 + n % 32 * 32

/-- Dispatch the entry at PTR (R353). -/
def State.sbDispatch (s : State) (d : Nat) (f : SbFetched) : State :=
  let x := s.sb d
  let claim := if sbInEn f.word0 then s.unclaimed d (sbInQ f.word0) else none
  let s1 := match claim with
    | some p =>
      let q := s.queue d (sbInQ f.word0)
      s.setQueue d (sbInQ f.word0) { q with packets := q.packets.map fun y => if y = p then { y with claimed := true } else y }
    | none => s
  let st := f.prefetch.getD 0
  let step := s.sbStep d
  let record := leBytes 8 f.word0 ++ leBytes 8 f.word1 ++ leBytes 5 step ++
    leBytes 1 (b2n (st != 0) + 2 * b2n claim.isSome) ++ leBytes 2 f.index ++ leBytes 4 ((claim.map (·.words)).getD 0) ++
    leBytes 1 st ++ leBytes 3 0
  let s2 := (sbClusters f.word0).foldl (fun u c =>
    let v := u.write (dispatchAddr d c (kget 0 x.counts c)) record
    (List.range 12).foldl (fun w k => w.updCore d (c * 12 + k) fun y => y.addEc 15 1) v) s1
  let counts := (sbClusters f.word0).foldl (fun m c => kset 0 m c (kget 0 m c + 1)) x.counts
  let fl : SbFlight := ⟨f.index, f.word0, f.word1, step, (sbClusters f.word0).map fun c => (c, kget 0 counts c), SB_EXPERT_SB_FLAG.get f.expert⟩
  let last := f.index == 4095
  (s2.setSb d { x with
    counts := counts
    flights := x.flights ++ [fl]
    fetched := x.fetched.filter fun y => y.index != f.index
    passFault := false
    ended := last }).setF SB_STATUS_PTR d 0 (f.index + 1)

/-- Whether an entry in flight is done for every cluster: by the whole of each cluster's flag word (R354). -/
def State.flightDone (s : State) (d : Nat) (x : SbFlight) : Bool :=
  x.upTo.all fun u => decide (u.2 ≤ s.readN (flagWordAddr d (x.flag + u.1)) 8)

/-- Entries that are done leave; their offloads are issued (R354, R357); a stopping engine with none left stops (R351). -/
def State.sbDone (s : State) (d : Nat) : State :=
  let x := s.sb d
  if x.flights.isEmpty then (if x.stopping then (s.setSb d { x with stopping := false }).setF SB_STATUS_STATE d 0 0 else s)
  else
    let ends (y : SbFlight) : Bool := s.flightDone d y && !s.hintHeld d (sbOff y.word1)
    let overF := x.flights.filter ends
    let left := x.flights.filter fun y => !ends y
    let s1 := overF.foldl (fun u y =>
      if sbOff y.word1 = 255 then u else u.issueHint d y.index y.word0 (sbOff y.word1) y.step false) (s.setSb d { x with flights := left })
    if left.isEmpty && x.stopping then (s1.setSb d { s1.sb d with stopping := false }).setF SB_STATUS_STATE d 0 0 else s1

/-- Whether the engine of die d stands at the end of its schedule with every entry done (R355). -/
def State.sbAtEnd (s : State) (d : Nat) : Bool :=
  let x := s.sb d
  s.sbState d == 1 && x.settle.isNone && !x.stopping && x.flights.isEmpty &&
  (x.ended || (match s.sbHead d with | some f => sbKind f.word0 == 2 | none => false))

/-- The engine starts a step at entry 0. -/
def State.sbRestart (s : State) (d step : Nat) : State :=
  ((s.setSb d { s.sb d with fetched := [], ended := false, passFault := false, settle := none }).setF SB_STATUS_PTR d 0 0).setF
    SB_STATUS_STEP d 0 step

/-- The other bank becomes active. -/
def State.sbSwitchBank (s : State) (d : Nat) : State :=
  s.setF SB_STATUS_ACTIVE_BANK d 0 (1 - s.getF SB_STATUS_ACTIVE_BANK d 0)

/-- Release the engine's claims (R356). -/
def State.releaseClaims (s : State) (d : Nat) : State :=
  (List.range 64).foldl (fun u q =>
    let x := u.queue d q
    if x.packets.any (·.claimed) then u.setQueue d q { x with packets := x.packets.map fun p => { p with claimed := false } } else u) s

/-- COLLAPSE(n) reaches the engine (R350, R356). -/
def State.sbCollapse (s : State) (d n cause : Nat) : State :=
  if s.sbState d = 0 then s
  else if cause = 3 then s.setSb d { s.sb d with settle := some (.reshard n) }
  else if s.sbStep d = n + 1 then (s.releaseClaims d).setSb d { s.sb d with settle := some (.restart (n + 1)) }
  else s

end Sys2Proof.Machine
end

