-- ==== Sys2Proof/Machine/TravOps.lean ====
section
/-!
DEFINITION. The traverse engines as shared operations (chapter 14): descriptors, the assignment of choices to packets,
sending, returns, combining, completion.
-/
namespace Sys2Proof.Machine

open Sys2Proof

/-! ### Descriptors (Table 14.2, R375) -/

/-- The address of a ring slot. -/
def State.travSlot (s : State) (d slot : Nat) : Nat := s.getF TRAV_RING_BASE d 0 * 32768 + slot * 128

/-- The descriptor that 128 bytes spell, under a value of TRAV_EXPERT. -/
def travDescOf (bs : List Byte) (expert : Word) : TravDesc :=
  let r (o n : Nat) : Nat := leNat ((bs.drop o).take n)
  ⟨r 0 1, r 1 1, r 2 2, r 4 5, r 9 1, r 0xA 1, r 0xB 1, r 0xC 4, r 0x10 4, r 0x14 4, r 0x18 1, r 0x19 1, r 0x1A 2, r 0x1C 2,
   r 0x20 8, r 0x28 8, r 0x30 8, r 0x38 8, r 0x40 8, r 0x48 8, r 0x50 8, r 0x58 8, expert⟩

/-- The descriptor that a read at an address finds. -/
def State.travDesc (s : State) (d a : Nat) : TravDesc := travDescOf (s.seen a 128) (s.reg TRAV_EXPERT d 0)

/-- An address field in SPACE 0b00 at a multiple of 64. -/
def travAddrOk (a : Nat) : Bool := decide (a < 2 ^ 48) && a % 64 == 0

/-- Row bytes in the range of Table 14.2. -/
def travRowOk (n : Nat) : Bool := n % 64 == 0 && decide (64 ≤ n ∧ n ≤ 65536)

/-- The expert list of a DISPATCH. -/
def State.travList (s : State) (x : TravDesc) : List Nat := (List.range x.nexperts).map fun i => s.readN (x.experts + 2 * i) 2

/-- Whether the bytes of a descriptor keep the rules of R375 that its own fields decide. -/
def travFormOk (bs : List Byte) (x : TravDesc) : Bool :=
  let addrs := [x.route, x.rows, x.cap, x.experts, x.pos, x.mask, x.retBuf, x.doneAddr].all travAddrOk
  let zero := leNat ((bs.drop 0x1E).take 2) == 0 && leNat (bs.drop 0x60) == 0
  if x.op = 1 then
    addrs && zero && decide (x.flags < 16) && decide (1 ≤ x.k ∧ x.k ≤ 8) && decide (x.k ≤ x.list ∧ x.list ≤ 8) &&
    decide (x.fmt ≤ 0xC) && decide (1 ≤ x.tokens ∧ x.tokens ≤ 65536) && travRowOk x.row && travRowOk x.retRow &&
    decide (x.retFmt ≤ 4) && decide (x.retQ < 64) && decide (x.doneFlag < 4096) && decide (1 ≤ x.nexperts ∧ x.nexperts ≤ 4096) &&
    (!x.flags.testBit 1 || decide (x.fmt ≤ 2))
  else if x.op = 2 then
    addrs && zero && decide (x.flags < 8) && x.k == 0 && x.list == 0 && decide (x.fmt ≤ 2) && x.tokens == 0 && x.row == 0 &&
    x.retRow == 0 && x.retFmt == 0 && x.retQ == 0 && decide (x.doneFlag < 4096) && x.nexperts == 0 && x.route == 0 &&
    x.cap == 0 && x.experts == 0 && x.pos == 0 && x.retBuf == 0
  else false

/-- Bytes of an output row of a COMBINE (R384). -/
def travOutRow (x y : TravDesc) : Nat := y.retRow * 8 / codeWidth y.retFmt * codeWidth x.fmt / 8

/-- The extents that a DISPATCH, or a COMBINE of batch `b`, names: address, length, whether it is written (Table 14.2). -/
def travExtents (x : TravDesc) (b : Option TravDesc) : List (Nat × Nat × Bool) :=
  let mask := x.flags.testBit 2
  if x.op = 1 then
    [(x.route, x.tokens * x.list * 8, false), (x.rows, x.tokens * x.row, false), (x.cap, 131072, false),
     (x.experts, x.nexperts * 2, false), (x.retBuf, x.tokens * x.k * x.retRow, true), (x.doneAddr, 64, true)] ++
    (if x.flags.testBit 3 then [(x.pos, x.tokens * 8, false)] else []) ++ (if mask then [(x.mask, x.tokens, false)] else [])
  else
    (x.doneAddr, 64, true) ::
      match b with
      | none => []
      | some y => (x.rows, y.tokens * travOutRow x y, true) :: (if mask then [(x.mask, y.tokens, true)] else [])

/-- The status that extents give: one that nothing backs, at a fenced die, at a retired stack (R39, R40, R171, R27). -/
def State.extentsStatus (s : State) (l : List (Nat × Nat × Bool)) : Nat :=
  l.foldl (fun st e => statusMax st (s.extentReach e.1 e.2.1).status) stDONE

/-- Whether an access of the engine of die d to one of the extents waits. -/
def State.extentsHeld (s : State) (d : Nat) (l : List (Nat × Nat × Bool)) : Bool :=
  l.any fun e => s.engineHeld d e.1 e.2.1 e.2.2

/-! ### Assignment (R377) -/

/-- Where the assignment stands: records by expert, REROUTED, DROP_SOURCE, DROP_UNMAPPED. -/
structure TravAssign where
  recs : KMap (List TravRec)
  rerouted : Nat
  dropSource : Nat
  dropUnmapped : Nat
  deriving DecidableEq, Repr

/-- A router entry: expert and weight. -/
def State.travRoute (s : State) (x : TravDesc) (t i : Nat) : Nat × Nat :=
  let a := x.route + (t * x.list + i) * 8
  (s.readN a 2, s.readN (a + 4) 4)

/-- Append a record to its expert's packet. -/
def TravAssign.push (a : TravAssign) (r : TravRec) : TravAssign :=
  { a with recs := kmodify [] a.recs r.expert fun l => l ++ [r] }

/-- Records of an expert so far. -/
def TravAssign.count (a : TravAssign) (e : Nat) : Nat := (kget [] a.recs e).length

/-- One choice of a token: the assignment and the list entries taken. -/
def State.travChoice (s : State) (x : TravDesc) (experts : List Nat) (reroute : Bool) (mask : Nat) (t : Nat)
    (st : TravAssign × List Nat) (r : Nat) : TravAssign × List Nat :=
  let a := st.1
  if x.flags.testBit 2 && !mask.testBit r then st
  else
    let taken := st.2 ++ [r]
    let y := s.travRoute x t r
    if !experts.contains y.1 then ({ a with dropUnmapped := a.dropUnmapped + 1 }, taken)
    else if reroute && decide (s.travCap x y.1 ≤ a.count y.1) then
      let free (j : Nat) : Bool :=
        let e := (s.travRoute x t j).1
        !taken.contains j && experts.contains e && decide (a.count e < s.travCap x e)
      match (rangeFrom x.k (x.list - x.k)).find? free with
      | none => ({ a with dropSource := a.dropSource + 1 }, taken)
      | some j =>
        let z := s.travRoute x t j
        ({ a.push ⟨t, r, z.1, z.2, true⟩ with rerouted := a.rerouted + 1 }, taken ++ [j])
    else if travFit x.row ≤ a.count y.1 then ({ a with dropSource := a.dropSource + 1 }, taken)
    else (a.push ⟨t, r, y.1, y.2, false⟩, taken)

/-- The assignment of every choice of a DISPATCH. -/
def State.travAssign (s : State) (x : TravDesc) : TravAssign :=
  let experts := s.travList x
  let reroute := TRAV_EXPERT_OVERFLOW.get x.expert == 1
  (List.range x.tokens).foldl (fun a t =>
    ((List.range x.k).foldl (s.travChoice x experts reroute (s.readN (x.mask + t) 1) t) (a, [])).1) ⟨[], 0, 0, 0⟩

/-- The address of an expert's map entry (R372). -/
def State.expertEntry (s : State) (d e : Nat) : Nat := s.getF EXPERT_MAP_BASE d 0 * 2 ^ 19 + 8 * e

/-- What a DISPATCH reads whole before its first packet: the route, the mask, its experts' capacities and map entries. -/
def State.travInputs (s : State) (d : Nat) (x : TravDesc) : List (Nat × Nat × Bool) :=
  (x.route, x.tokens * x.list * 8, false) :: (if x.flags.testBit 2 then [(x.mask, x.tokens, false)] else []) ++
  (s.travList x).flatMap fun e => [(x.cap + 2 * e, 2, false), (s.expertEntry d e, 8, false)]

/-- Read extents: address faults are recorded; whether a word read is poisoned. -/
def State.travReadAll (s : State) (d : Nat) (l : List (Nat × Nat × Bool)) : State × Bool :=
  l.foldl (fun st e => let r := st.1.localRead d 105 e.1 e.2.1; (r.1, st.2 || r.2.2.any id)) (s, false)

/-- Where a packet for expert e goes: device, die, queue and whether to the replica; none where neither lives (R372, R373), and where the
entry reads as poison (assumption 116). -/
def State.travDest (s : State) (d e : Nat) : Option (Nat × Nat × Nat × Bool) :=
  let m := if s.seenPois (s.expertEntry d e) 8 then 0 else s.seenN (s.expertEntry d e) 8
  let live (dev : Nat) : Bool := let k := s.trailOf d dev % 4; k == 1 || k == 2
  if m.testBit 63 && live (bits m 61 48) then some (bits m 61 48, bits m 47 46, bits m 45 40, false)
  else if m.testBit 62 && live (bits m 39 26) then some (bits m 39 26, bits m 25 24, bits m 23 18, true)
  else none

/-- The global pointer of a queue's port (Table 1.7). -/
def inboxPtr (device die q : Nat) : Word :=
  BitVec.ofNat 64 (2 ^ 62 + device * 2 ^ 48 + 0x800000000000 + die * 0x10000000 + q * 0x100000)

/-- Whether the next request of die d takes a tracker entry at once. -/
def State.entryFree (s : State) (d : Nat) : Bool := (s.tracker d).waiters.isEmpty && decide ((s.tracker d).entries.length < s.trackerRoom d)

/-- The request of the packet of expert e: its header and its records as the arrays hold them (Table 14.3). -/
def State.travRequest (s : State) (d : Nat) (x : TravDesc) (e : Nat) (rs : List TravRec) (ptr : Word) : RemReq :=
  ⟨.traverse (s.traverse d).seq, .enqueue, 0, ptr, 0, 64 + rs.length * (64 + x.row), 4, 0, false,
    s.travHeader d x e (s.travCapWord x e) rs.length, [], 0, false, 0, x.step, s.job, false, false, 0⟩

/-- The packet of operation n that waits still to be sent. -/
def TravPacket.waits (p : TravPacket) (n : Nat) : Bool := p.op == n && p.status.isNone

/-- k in the place of the packet of operation n that waits still to be sent. -/
def Traverse.mark (v : Traverse) (n : Nat) (k : TravPacket) : Traverse :=
  { v with batches := v.batches.map fun b => { b with packets := b.packets.map fun p => if p.waits n then k else p } }

/-- Begin to send the packet k, by request r, to the place that its expert has now; to no place where it has none (R373). -/
def State.travBegin (s : State) (d : Nat) (r : RemReq) (k : TravPacket) (place : Option (Nat × Nat × Nat × Bool)) : State × TravPacket :=
  match place with
  | none => (s, { k with status := some stDONE, nowhere := true, returned := true })
  | some p => ((s.remoteIssue State.fireTrigger d { r with ptr := inboxPtr p.1 p.2.1 p.2.2.1 }).addF TRAV_SENT_RECORDS d 0 k.recs.length,
      { k with replica := p.2.2.2 })

/-- Send the packet of one expert: the state and what the batch keeps of it. Where a tracker entry is free it begins at once, to where its
expert is now; else it waits for one, and chooses then (R373). -/
def State.travSend (s : State) (d : Nat) (x : TravDesc) (e : Nat) (rs : List TravRec) : State × TravPacket :=
  let n := (s.traverse d).seq
  let k : TravPacket := ⟨e, s.travCap x e, s.travCapWord x e, rs, n, none, false, false, false, []⟩
  let s1 := (s.look d 105 (s.expertEntry d e) 8).setTraverse d { s.traverse d with seq := n + 1 }
  if s.entryFree d then s1.travBegin d (s.travRequest d x e rs 0) k (s.travDest d e)
  else (s1.remoteIssue State.fireTrigger d (s.travRequest d x e rs 0), k)

/-- Aim the packet k of operation n, whose turn has come, at a place of its expert: nothing goes where it has none (R373). -/
def State.travAim (s : State) (d n : Nat) (r : RemReq) (k : TravPacket) (place : Option (Nat × Nat × Nat × Bool)) : State × Option RemReq :=
  match place with
  | none => (s.setTraverse d ((s.traverse d).mark n { k with status := some stDONE, replica := false, nowhere := true, returned := true }), none)
  | some p => ((s.setTraverse d ((s.traverse d).mark n { k with replica := p.2.2.2 })).addF TRAV_SENT_RECORDS d 0 k.recs.length,
      some { r with ptr := inboxPtr p.1 p.2.1 p.2.2.1 })

/-- A request is granted a tracker entry. A dispatch packet begins to be sent only then, and goes where its expert is now; where neither
of its places lives any more it is not sent (R373). -/
def State.travReaim (s : State) (d : Nat) (r : RemReq) : State × Option RemReq :=
  match r.who with
  | .traverse n =>
    match ((s.traverse d).batches.flatMap (·.packets)).find? (·.waits n) with
    | none => (s, some r)
    | some k =>
      let s1 := s.look d 105 (s.expertEntry d k.expert) 8
      s1.travAim d n r k (s.travDest d k.expert)
  | _ => (s, some r)

/-- A waiting request is granted an entry (R187). -/
def State.grantWaiter (s : State) (d : Nat) (r : RemReq) : State :=
  let x := s.travReaim d r
  match x.2 with
  | some q => x.1.admitRemote State.fireTrigger d q
  | none => x.1

/-! ### Status records and completion (R374, R385, Table 14.5) -/

/-- The counts of a batch: SENT, DROP_DEPARTED, TO_REPLICA, LOST, MISSING, ACCEPTED, DROP_EXPERT. -/
def TravBatch.counts (b : TravBatch) : List Nat :=
  let sum (f : TravPacket → Nat) : Nat := (b.packets.map f).foldl (· + ·) 0
  let lost (p : TravPacket) : Bool := !p.nowhere && p.status != some stDONE
  let gone (p : TravPacket) (past : Bool) : Nat :=
    if p.nowhere || lost p then 0
    else (p.recs.zipIdx.filter fun r => decide (p.cap ≤ r.2) == past && !p.got.contains (r.1.tok * 8 + r.1.rank)).length
  [sum fun p => if p.nowhere then 0 else p.recs.length, sum fun p => if p.nowhere then p.recs.length else 0,
   sum fun p => if p.replica then p.recs.length else 0, sum fun p => if lost p then p.recs.length else 0,
   sum fun p => gone p false, sum fun p => p.got.length, sum fun p => gone p true]

/-- Write a status record, then notify DONE_FLAG (R374). Where a descriptor's DONE_ADDR or DONE_FLAG breaks its own rule, nothing is written
there (R375; assumption 116). -/
def State.travStatus (s : State) (d op flags batch doneFlag doneAddr status : Nat) (words : List Nat) : State :=
  let s1 := if !travAddrOk doneAddr then s else s.localWrite d 105 doneAddr
    (leBytes 1 status ++ leBytes 1 op ++ leBytes 2 batch ++ (words.flatMap (leBytes 4)) ++
     List.replicate (60 - 4 * words.length) 0) []
  if flags.testBit 0 && decide (doneFlag < 4096) then (s1.atomicAt State.fireTrigger (flagWordAddr d doneFlag) 0 false (leBytes 8 1)).1 else s1

/-- A descriptor ends without running. -/
def State.travRefuse (s : State) (d : Nat) (x : TravDesc) (status : Nat) : State :=
  s.travStatus d x.op x.flags x.batch x.doneFlag x.doneAddr status (List.replicate 10 0)

/-- A DISPATCH or COMBINE that ran to its end: status, record, totals (R385, Table 14.10). `reach` is the status of what it could not
reach on the way. -/
def State.travFinish (s : State) (d : Nat) (x : TravDesc) (b : TravBatch) (reach : Nat) : State :=
  let c := b.counts
  let combine := x.op == 2
  let v (i : Nat) : Nat := c.getD i 0
  let missing := if combine then v 4 else 0
  let bad := b.dropUnmapped + v 1 + v 2 + v 3 + missing
  let st := if bad = 0 then stDONE else stDEGRADED
  let words := [v 0, b.rerouted, b.dropSource, b.dropUnmapped, v 1, v 2, v 3, missing, if combine then v 5 else 0,
    if combine then v 6 else 0]
  let s1 :=
    if st = stDEGRADED ∧ TRAV_EXPERT_RECORD_DROPS.get x.expert = 1 then
      s.raise 0 0x35 d 0 st (b.desc.batch + missing * 2 ^ 32) (b.dropUnmapped + v 1 * 2 ^ 32) (v 2 + v 3 * 2 ^ 32)
    else s
  s1.travStatus d x.op x.flags x.batch x.doneFlag x.doneAddr (statusMax reach st) words

/-- The totals that a DISPATCH adds when it completes. -/
def State.travTotals (s : State) (d : Nat) (b : TravBatch) : State :=
  let v (i : Nat) : Nat := b.counts.getD i 0
  ((s.satF TRAV_DROPS_SOURCE d 0 b.dropSource).satF TRAV_DROPS_DEPARTED d 0 (v 1 + v 3)).satF TRAV_ERRS_UNMAPPED d 0 b.dropUnmapped

/-- Take the answers to dispatch packets of die d; a DISPATCH whose packets have all completed completes (R379). -/
def State.travAnswers (s : State) (d : Nat) : State :=
  let isT (r : RemDone) : Bool := match r.who with | .traverse _ => true | _ => false
  let done := (s.tracker d).done.filter isT
  let s1 := if done.isEmpty then s else s.setTracker d { s.tracker d with done := (s.tracker d).done.filter fun r => !isT r }
  let stat (n : Nat) : Option Nat := (done.find? fun r => decide (r.who = .traverse n)).map (·.status)
  let upd (p : TravPacket) : TravPacket := if p.status.isNone then { p with status := stat p.op } else p
  let x := s1.traverse d
  let bs := x.batches.map fun b => { b with packets := b.packets.map upd }
  let overF (b : TravBatch) : Bool :=
    b.completed.isNone && (b.packets.all fun p => p.status.isSome) && !s1.engineHeld d b.desc.doneAddr 64 true
  let now := s1.fabricNow
  let s2 := s1.setTraverse d { x with batches := bs.map fun b => if overF b then { b with completed := some now } else b }
  (bs.filter overF).foldl (fun u b => (u.travTotals d b).travFinish d b.desc b stDONE) s2

/-! ### Starting (R374, R375, R381) -/

/-- Descriptors in progress. -/
def Traverse.busy (x : Traverse) : Nat := (x.batches.filter fun b => b.completed.isNone).length + x.combines.length

/-- The slot at the head of the ring, past those that a collapse completed; none where all are started. -/
def State.travNext (s : State) (d : Nat) : Nat → Option Nat × State
  | 0 => (none, s)
  | fuel + 1 =>
    let t := s.getF TRAV_TAIL_TAIL d 0
    if t = s.getF TRAV_HEAD_HEAD d 0 then (none, s)
    else if (s.traverse d).dead.contains t then
      let x := s.traverse d
      State.travNext ((s.setTraverse d { x with dead := x.dead.erase t }).setF TRAV_TAIL_TAIL d 0 (t + 1)) d fuel
    else (some t, s)

/-- Whether an earlier DISPATCH is still sending: a packet waits for a tracker entry, or has one and has not sent its segments (R374). -/
def State.travSending (s : State) (d : Nat) : Bool :=
  let isT (r : RemReq) : Bool := match r.who with | .traverse _ => true | _ => false
  ((s.tracker d).waiters.any isT) || (s.tracker d).entries.any fun e => isT e.req && e.phase.kept

/-- Start a DISPATCH whose form holds (R376, R377, R381). -/
def State.travDispatch (s : State) (d : Nat) (x : TravDesc) : State :=
  let a := s.travAssign x
  let r := (s.travList x).foldl (fun (st : State × List TravPacket) e =>
    let y := st.1.travSend d x e (kget [] a.recs e)
    (y.1, st.2 ++ [y.2])) (s, [])
  let b : TravBatch := ⟨x, r.2, a.rerouted, a.dropSource, a.dropUnmapped, none, false⟩
  let t := r.1.traverse d
  r.1.setTraverse d { t with batches := t.batches ++ [b] }

/-- The open batch of a number. -/
def Traverse.batch (x : Traverse) (n : Nat) : Option TravBatch := x.batches.find? fun b => b.desc.batch == n

/-- The status that a descriptor of die d ends with before it runs, of those that apply the first by R27: a rule of R375 broken, a
queue or batch that is not there, its step collapsed, an extent that it cannot reach. -/
def State.travVerdict (s : State) (d : Nat) (bs : List Byte) (x : TravDesc) : Nat :=
  let b := (s.traverse d).batch x.batch
  if !travFormOk bs x || (x.op == 1 && b.isSome) then stINVALID
  else
    let ext := travExtents x (b.map (·.desc))
    let twice := x.op == 1 && s.extentReach x.experts (x.nexperts * 2) == .ok && !s.poisoned x.experts (x.nexperts * 2) &&
      !decide ((s.travList x).Nodup)
    let there := if x.op = 1 then s.flag Q_CFG_ENABLE d x.retQ else b.isSome
    statusMax (if twice then stINVALID else stDONE)
      (statusMax (if there then stDONE else stNORES)
        (statusMax (if s.collapseDiscards x.step 4 then stCOLLAPSED else stDONE) (s.extentsStatus ext)))

/-- Start the descriptor at the head of the ring of die d where it is of kind `op`; an unknown OP ends with either command. One whose
words, or whose inputs, read as poison completes POISONED (R493). -/
def State.travStart (s : State) (d op : Nat) : State :=
  let nx := s.travNext d 256
  match nx.1 with
  | none => nx.2
  | some t =>
    let s := nx.2
    let a := s.travSlot d t
    if s.engineHeld d a 128 false then s
    else
      let rd := s.localRead d 105 a 128
      let x := travDescOf rd.2.1 (s.reg TRAV_EXPERT d 0)
      let v := s.traverse d
      let bad (o n : Nat) : Bool := ((rd.2.2.drop (o / 4)).take (n / 4)).any id
      let pop (u : State) : State := u.setF TRAV_TAIL_TAIL d 0 (t + 1)
      let form := travFormOk rd.2.1 x
      let ext := if form then travExtents x ((v.batch x.batch).map (·.desc)) else [(x.doneAddr, 64, true)]
      if (x.op = 1 ∨ x.op = 2) ∧ x.op ≠ op then s
      else if 4 ≤ v.busy then s
      else if bad 0 128 then
        -- the status record needs its own words of the descriptor
        if bad 0 8 || bad 0x18 8 || bad 0x58 8 then pop rd.1 else (pop rd.1).travRefuse d x stPOISONED
      else if s.extentsHeld d ext then s
      else
        let st := s.travVerdict d rd.2.1 x
        if st ≠ stDONE then (pop s).travRefuse d x st
        else if x.op = 2 then
          (pop s).setTraverse d { v with combines := v.combines ++ [x] }
        else if 16 ≤ v.batches.length ∨ s.travSending d then s
        else
          let list := s.localRead d 105 x.experts (x.nexperts * 2)
          let inp := s.travInputs d x
          if list.2.2.any id then (pop s).travRefuse d x stPOISONED
          else if s.extentsHeld d inp then s
          else
            let r := s.travReadAll d inp
            if r.2 then (pop r.1).travRefuse d x stPOISONED else ((pop r.1).travDispatch d x).travAnswers d

/-! ### Returns (R382, R383) -/

/-- Read the oldest visible packet of a return queue whole and match it to an open batch. -/
def State.travReturn (s : State) (d q : Nat) : State :=
  let v := s.traverse d
  if !(v.batches.any fun b => b.desc.retQ == q) then s
  else
    let x := s.queue d q
    match x.visible with
    | [] => s
    | p :: _ =>
      let at_ (i : Nat) : Nat := s.ringAddr d q p i
      let word (i : Nat) : List Byte × List Bool := s.found (at_ i) 64
      let h := word p.read
      let f (o n : Nat) : Nat := leNat ((h.1.drop o).take n)
      let left := p.words - p.read
      let drop (last : Nat) : State :=
        ((rangeFrom p.read left).foldl (fun u i => u.look d 110 (at_ i) 64) s).setQueue d q { x with packets := x.packets.drop 1, last := (word last).1, opened := false }
      let fits (b : TravBatch) : Bool := b.desc.retQ == q && b.desc.batch == f 2 2 && !b.expired && f 0 1 == 2 && !h.2.any id
      let hit (k : TravPacket) : Bool := k.expert == f 0x10 2 && !k.returned && (k.status.isNone || k.status == some stDONE)
      if (rangeFrom p.read left).any (fun i => s.engineHeld d (at_ i) 64 false) then s
      else
        match v.batches.find? fun b => fits b && b.packets.any hit with
        | none => (drop p.read).satF TRAV_ERRS_STRAY d 0 1
        | some b =>
          match b.packets.find? hit with
          | none => s
          | some k =>
            if s.engineHeld d b.desc.retBuf (b.desc.tokens * b.desc.k * b.desc.retRow) true then s
            else
              let rowW := b.desc.retRow / 64
              let n := min (f 4 4) ((left - 1) / (1 + rowW))
              let r := (List.range n).foldl (fun (st : State × List Nat × Nat) i =>
                let c := p.read + 1 + i * (1 + rowW)
                let hd := word c
                let slot := leNat (hd.1.take 4)
                let ok := (k.recs.any fun c => c.tok * 8 + c.rank == slot) && !st.2.1.contains slot && !hd.2.headD false
                if ok then
                  let row := (List.range rowW).map fun w => word (c + 1 + w)
                  let toN := b.desc.retBuf + (slot / 8 * b.desc.k + slot % 8) * b.desc.retRow
                  (st.1.localWrite d 105 toN (row.flatMap (·.1)) (row.flatMap (·.2)), st.2.1 ++ [slot], st.2.2)
                else (st.1, st.2.1, st.2.2 + 1)) (drop (p.words - 1), [], 0)
              let k1 := { k with returned := true, got := r.2.1 }
              let b1 := { b with packets := b.packets.map fun y => if y = k then k1 else y }
              let w := r.1.traverse d
              (r.1.setTraverse d { w with batches := w.batches.map fun y => if y = b then b1 else y }).satF TRAV_ERRS_STRAY d 0 r.2.2

/-- Whether a batch's returns are complete (R383). -/
def TravBatch.complete (b : TravBatch) : Bool :=
  b.completed.isSome && (b.expired || b.packets.all fun p => p.nowhere || p.returned || p.status != some stDONE)

/-! ### Combine (R384) -/

/-- One output row: its bytes, its flags, its mask byte, the poison marks of its 4-byte units: an element is poisoned where an input
element of it is (R494). -/
def State.combineRow (s : State) (x : TravDesc) (b : TravBatch) (slots : List (Nat × Nat)) (t : Nat) :
    List Byte × Nat × Nat × List Bool :=
  let y := b.desc
  let w := codeWidth y.retFmt
  let wo := codeWidth x.fmt
  let n := y.retRow * 8 / w
  let ins := (List.range y.k).filterMap fun r =>
    (slots.find? fun p => p.1 == t * 8 + r).map fun p =>
      (r, if x.flags.testBit 1 then 0x3F800000 else p.2, s.found (y.retBuf + (t * y.k + r) * y.retRow) y.retRow)
  let elem (i : Nat) : Nat × Nat × Bool :=
    let acc := ins.foldl (fun (a : Option Nat × Nat) p =>
      let e := codeDecode y.retFmt (leNat ((p.2.2.1.drop (i * w / 8)).take (w / 8)))
      let z := fp32.fma (fp32.decode p.2.1) e (fp32.decode (a.1.getD 0x80000000))
      (some z.1, a.2 ||| z.2)) (none, 0)
    let bad := ins.any fun p => p.2.2.2.getD (i * w / 32) false
    match acc.1 with
    | none => (0, 0, false)
    | some v => let z := (codeFmt x.fmt).convert .ne (fp32.decode v); (z.1, acc.2 ||| z.2, bad)
  let es := (List.range n).map elem
  let per := 32 / wo
  (es.flatMap fun e => leBytes (wo / 8) e.1, (es.map (·.2.1)).foldl (· ||| ·) 0, ins.foldl (fun m p => m + 2 ^ p.1) 0,
   (List.range ((n + per - 1) / per)).map fun u => ((es.drop (u * per)).take per).any (·.2.2))

/-- What a COMBINE touches: what it names, and the rows of its batch that returned. -/
def TravBatch.combineExtents (b : TravBatch) (x : TravDesc) : List (Nat × Nat × Bool) :=
  travExtents x (some b.desc) ++ [(b.desc.retBuf, b.desc.tokens * b.desc.k * b.desc.retRow, false)]

/-- A COMBINE computes, completes and closes its batch. -/
def State.combine (s : State) (d : Nat) (x : TravDesc) (b : TravBatch) : State :=
  let slots := b.packets.flatMap fun p => p.recs.filterMap fun r =>
    if p.got.contains (r.tok * 8 + r.rank) then some (r.tok * 8 + r.rank, r.weight) else none
  let s0 := slots.foldl (fun u p => u.look d 105 (b.desc.retBuf + (p.1 / 8 * b.desc.k + p.1 % 8) * b.desc.retRow) b.desc.retRow) s
  let s1 := (List.range b.desc.tokens).foldl (fun (u : State) t =>
    let r := s0.combineRow x b slots t
    let v := (u.localWrite d 105 (x.rows + t * travOutRow x b.desc) r.1 r.2.2.2).orFlags DIE_ENGINE_FLAGS_TRAV d 0 0 6 r.2.1
    if x.flags.testBit 2 then v.localWrite d 105 (x.mask + t) (leBytes 1 r.2.2.1) [] else v) s0
  let v := s1.traverse d
  (s1.setTraverse d { v with batches := v.batches.filter (· != b), combines := v.combines.filter (· != x) }).travFinish d x b
    (s.extentsStatus (b.combineExtents x))

/-! ### Collapse (Table 14.6) -/

/-- Descriptors tagged `step` complete COLLAPSED and their batches close. -/
def State.travCollapse (s : State) (d step : Nat) : State :=
  let v := s.traverse d
  let head := s.getF TRAV_HEAD_HEAD d 0
  let tail := s.getF TRAV_TAIL_TAIL d 0
  let waiting := ((List.range ((head + 256 - tail) % 256)).map fun i => (tail + i) % 256).filter fun t =>
    !v.dead.contains t && (s.travDesc d (s.travSlot d t)).step == step
  let s1 := s.setTraverse d { v with
    batches := v.batches.filter fun b => b.desc.step != step
    combines := v.combines.filter fun x => x.step != step
    dead := v.dead ++ waiting }
  let ended := ((v.batches.filter fun b => b.desc.step == step && b.completed.isNone).map (·.desc)) ++
    v.combines.filter (fun x => x.step == step) ++ waiting.map fun t => s.travDesc d (s.travSlot d t)
  ended.foldl (fun u x => u.travRefuse d x stCOLLAPSED) s1

end Sys2Proof.Machine
end

