-- ==== Sys2Proof/Machine/ContourOps.lean ====
section
/-!
DEFINITION. The contour at a member as shared operations (chapter 09): fabric time, adoption of a publication, entering a job,
membership; and what settles after other work.
-/
namespace Sys2Proof.Machine

open Sys2Proof

/-- What is due after other work: answers to the engines' own operations, done switchback entries, then the step (CorOps). -/
def State.afterWork (s : State) : State :=
  let s1 := (List.range 4).foldl (fun u d => if u.dieRunning d then ((u.redAnswers d).travAnswers d).sbDone d else u) s
  s1.settle

/-- Take fabric time from a CONTOUR packet (R254). -/
def State.takeClock (s : State) (sendAt delay : Nat) : State :=
  let est := sendAt + delay
  let now := s.fabricNow
  let near := decide (est ≤ now + 40 ∧ now ≤ est + 40)
  let first := s.contour.enter
  let s1 := s.correctClock est first
  let s2 := (List.range 4).foldl (fun u d => u.setF CONTOUR_BLK_STATUS_FTIME_VALID d 0 (b2n (near || first))) s1
  s2.setContour fun r => { r with lastPacket := some s2.fabricNow, enter := false }

/-- Entering a job at its first adopted contour: LOCAL_POS of every die, and in a job other than 0x0000 the gates and RUNNING(n) (R250, R332,
Table 12.1). The collapse word keeps its value, which is even (assumption 31). -/
def State.enterJob (s : State) (v : Nat) : State :=
  let n := stepOfValue v
  let s1 := (List.range 4).foldl (fun u d =>
    (List.range 256).foldl (fun w e => w.disarm d e) (u.enterPos d)) s
  let s2 := (List.range 255).foldl (fun u i =>
    let g := if i = 254 then 255 else i
    if u.gateValue g ≤ n then u.raiseGate g n else u.lowerGate g n) s1
  if s.job = 0 then s1 else (s2.setF CORNICE_STATUS_TRY 0 0 0).setStep 1 n

/-- The CORNICE_EXPERT fields take effect at a step boundary; where GATE_FLAG moves, the gate words of every die that runs show the gates at
their new place (R332, chapter 12; assumption 113). -/
def State.latchExpert (s : State) : State :=
  let old := s.corSet CORNICE_EXPERT_GATE_FLAG
  let t := s.setCor fun r => { r with expert := s.reg CORNICE_EXPERT 0 0 }
  if t.corSet CORNICE_EXPERT_GATE_FLAG = old then t else t.liveDies.foldl (fun u d => u.showGates d) t

/-- The dies' CONTOUR_VALUE and PUB_FTIME take a publication (R249, R255). -/
def State.adoptValue (s : State) (v pub : Nat) : State :=
  (List.range 4).foldl (fun u d =>
    (u.setReg CONTOUR_VALUE d 0 (BitVec.ofNat 64 v)).setReg PUB_FTIME d 0 (BitVec.ofNat 64 pub)) (s.openProfile v)

/-- The dies act on a value that the contour took after `last`, the first of a new job where it is `fresh` (R249, R255, R257, Table 12.1):
launch, seal, entries in ascending number, held positions. -/
def State.adoptWork (s : State) (v pub last : Nat) (fresh : Bool) : State :=
  let s1 := if fresh ∨ stepOfValue v ≠ stepOfValue last then s.latchExpert else s
  if fresh then
    let s2 := s1.enterJob v
    s2.setContour fun r => { r with newJob := false, reported := min r.reported s2.packagePos }
  else
    let n := s1.corStep
    let s2 := if s1.corState = 1 ∧ contourAt n phLAUNCH ≤ v then (s1.setStep 2 n).launchStep n pub false else s1
    let s3 := if (s2.corState = 2 ∨ s2.corState = 3) ∧ contourAt n phSEAL ≤ v then s2.sealStep n else s2
    (List.range 4).foldl (fun u d => (u.actEntries d).advancePos d) s3

/-- The largest CONTOUR_VALUE of the dies. -/
def State.lastContour (s : State) : Nat := max (max (s.contourOf 0) (s.contourOf 1)) (max (s.contourOf 2) (s.contourOf 3))

/-- The contour takes a value, with the effects of what it passes. -/
def State.adopt (s : State) (v pub : Nat) : State := (s.adoptValue v pub).adoptWork v pub s.lastContour s.contour.newJob

/-- A gated package takes a value on its dies' behalf (R459): DEADLINE entries that it passes become PENDING (R255); the rest of what it does
waits for the exit. -/
def State.adoptGated (s : State) (v pub : Nat) : State :=
  let s1 := s.adoptValue v pub
  let s2 := if s.contour.newJob then s1 else (List.range 4).foldl (fun u d => u.actEntries d) s1
  (s2.setLow fun r => { r with orders := r.orders ++ [.contour v pub s.lastContour s.contour.newJob] }).setContour fun r => { r with
    newJob := false }

/-- A package in Bivouac leaves it where an armed entry of its job has become due (R460). -/
def State.wakeByEntry (s : State) : State :=
  let due := (List.range 4).any fun d => (List.range 256).any fun e => s.entryPast d e
  if s.getF STATE_STATUS_STATE 0 0 = 2 ∧ s.job ≠ 0 ∧ due then s.setF STATE_STATUS_STATE 0 0 3 else s

/-- A package in Bivouac leaves it for its job's orders (R460). -/
def State.wakeByOrder (s : State) : State :=
  if s.getF STATE_STATUS_STATE 0 0 = 2 then s.setF STATE_STATUS_STATE 0 0 3 else s

/-- A publication of the package's job (R249). -/
def State.takeContour (s : State) (v pub : Nat) : State :=
  if s.contour.newJob ∨ s.lastContour < v then (if s.awake then (s.adopt v pub).afterWork else s.adoptGated v pub)
  else if v < s.lastContour then (List.range 4).foldl (fun u d => u.satF CONTOUR_BLK_STATUS_STALE_CONTOUR d 0 1) s
  else s

/-! ### Orders of the cornice at a member (Table 12.1) -/

/-- A COLLAPSE or RESUME that a member does not take (R327). -/
def State.ignoreOrder (s : State) : State := s.satF CORNICE_BLK_STATUS_IGNORED_ORDERS 0 0 1

/-- Step 3 of R340 for the queues, the traverse engines and the switchback engines of the dies that run. -/
def State.collapseFlush (s : State) (step cause : Nat) : State :=
  s.liveDies.foldl (fun u d => ((u.queueDiscard d (step + 1)).travCollapse d (step + 1)).sbCollapse d step cause) s

/-- A member adopts COLLAPSE(n), steps 1 to 3 of R340, or ignores it (R327, R340, R350, R356). -/
def State.memberCollapse (s : State) (step try_ cause : Nat) (halt : Bool) (epoch : Option Nat) : State :=
  if !s.collapseTaken step try_ then s.ignoreOrder
  else
    let s1 := (s.collapseBegin step try_ cause halt epoch).collapseFlush step cause
    (if epoch.isSome then s1.setF CORNICE_STATUS_RESHARD_PENDING 0 0 0 else s1).afterWork

/-- A member in RESTORED(n) relaunches the step (R343, Table 12.1). -/
def State.memberResume (s : State) (step try_ sendAt : Nat) : State :=
  if s.corState ≠ 5 ∨ s.corStep ≠ step ∨ s.getF CORNICE_STATUS_TRY 0 0 ≠ try_ then s else (s.resumeStep step sendAt).afterWork

/-- An order that comes to a gated package wakes it, and is acted on after the exit (R460). -/
def State.holdOrder (s : State) (o : HeldOrder) : State := (s.setLow fun r => { r with orders := r.orders ++ [o] }).wakeByOrder

/-- The dies run again: they act on what was adopted meanwhile, in order, then their due entries fire (R457, R459, R460). -/
def State.takeOrders (s : State) : State :=
  let s1 := s.low.orders.foldl (fun (u : State) o =>
    match o with
    | .contour v pub last fresh => (u.adoptWork v pub last fresh).afterWork
    | .collapse step try_ cause halt epoch => u.memberCollapse step try_ cause halt epoch
    | .resume step try_ sendAt => u.memberResume step try_ sendAt) (s.setLow fun r => { r with orders := [] })
  (List.range 4).foldl (fun u d => if u.dieRunning d then (u.actEntries d).fireDue d else u) s1

/-! ### Membership at a member (R241, R244, R245) -/

def State.setRole (s : State) (r : Nat) : State := s.setF MEMBER_STATE_ROLE 0 0 r

/-- Leave any job: the step state is IDLE, which is reported for the job left where it was another (R327), no step of the new job is
launched or sealed, and the next publication of the job then followed is adopted whatever its value (R249, Table 12.1; assumption 34). -/
def State.changeJob (s : State) (job : Nat) : State :=
  if s.job = job then s
  else
    let s1 := s.setF CORNICE_STATUS_STATE 0 0 0
    let s2 := if s.job = 0 ∨ s.corState = 0 then s1 else s1.sendStepState 4 stDONE 0 0
    let s3 := ((s2.setF CORNICE_STATUS_RESHARD_PENDING 0 0 0).setF MEMBER_STATE_JOB 0 0 job).setCor fun c => { c with
      sealedStep := none, missedSeal := [], drain := none, drained := none, draining := [], restoring := [], owed := [] }
    let s4 := s3.setRed fun r => { r with launched := none, buckets := [], shards := [], prior := none }
    (s4.setLow fun r => { r with orders := [] }).setContour fun r => { r with newJob := true }

/-- Whether a publication of a job passes the SEAL of the re-shard at which this package is to enter that job (R47, R344). -/
def State.moveDue (s : State) (job value : Nat) : Bool :=
  match s.fabric.moveTo with
  | some (j, some e) => j == job && decide (contourAt e phSEAL ≤ value)
  | _ => false

/-- A publication of a job passes the SEAL at which its pending DRAIN takes effect: the new epoch is the job's (R344). -/
def State.noteSeal (s : State) (job value : Nat) : State :=
  match kget none s.summit.heardDrains job with
  | some (n, e) =>
    if contourAt n phSEAL ≤ value then
      s.setSummit fun r => { r with heardEpochs := kset 0 r.heardEpochs job e, heardDrains := kset none r.heardDrains job none }
    else s
  | none => s

/-- A re-shard of a job is announced: a package that waits to enter that job notes its EFFECTIVE_STEP (R47, R344). -/
def State.noteReshard (s : State) (job effective : Nat) : State :=
  match s.fabric.moveTo with
  | some (j, _) => if j = job then s.setFabric fun r => { r with moveTo := some (j, some effective) } else s
  | none => s

/-- MEMBER_COUNTS follows the membership. -/
def State.countMembers (s : State) : State :=
  (s.setF MEMBER_COUNTS_ADMITTED 0 0 s.fabric.members.length).setF MEMBER_COUNTS_JOB_MEMBERS 0 0 (s.jobMembers s.job).length

/-- Back to ALONE: the role and its timers (Table 8.10). `heard` is whether a HEARTBEAT brought the package there; the generation, the
job and the last membership stay, since the rows name no other action (assumption 95). -/
def State.aloneAgain (s : State) (heard : Bool) : State :=
  let s1 := s.setRole 0
  s1.setFabric fun r => { r with
    heard := heard, lowerHeard := false, aloneSince := s1.fabricNow, joinAt := none, moveTo := none, reports := [] }

/-- ALONE after a resume from Refuge: generation 0, job 0x0000, no membership (Table 8.10, R229). -/
def State.aloneAnew (s : State) : State :=
  let s1 := ((s.aloneAgain false).changeJob 0).firstGen
  let s2 := s1.setFabric fun r => { r with members := [], version := 0, memberTerm := 0, oldSigns := [] }
  ((List.range 4).foldl (fun u d => u.setF TRAIL_STATUS_GEN d 0 0) s2).countMembers

/-- Whether the package has a remote request, a handle or a bucket in flight, so that it may not leave its job (R47). -/
def State.jobWork (s : State) : Bool :=
  s.getF HANDLE_COUNT_IN_FLIGHT 0 0 != 0 || ((List.range 16).any fun g => s.getF GROUP_STATUS_IN_FLIGHT 0 g != 0) ||
  (List.range 4).any fun d => !(s.tracker d).entries.isEmpty || !(s.tracker d).waiters.isEmpty

/-- The job published for this package: entered at once where nothing is in flight, else at the next re-shard of that job that finds
nothing in flight, and not before (R47, R245; assumption 34). -/
def State.takeJob (s : State) (job : Nat) : State :=
  if s.job = job then s.setFabric fun r => { r with moveTo := none }
  else if (s.fabric.moveTo.map (·.1)) = some job then s
  else if s.jobWork then s.setFabric fun r => { r with moveTo := some (job, none) }
  else (s.changeJob job).setFabric fun r => { r with moveTo := none }

/-- A re-shard of a job takes effect: a package that waits to enter that job does so where nothing is in flight any more, else it
waits for the next one (R47, R245). -/
def State.moveJob (s : State) (job : Nat) : State :=
  match s.fabric.moveTo with
  | some (j, _) =>
    if j ≠ job then s
    else if s.jobWork then s.setFabric fun r => { r with moveTo := some (j, none) }
    else (s.changeJob j).setFabric fun r => { r with moveTo := none }
  | none => s

/-- Adopt a membership: the package's job and role, and the departures of its job's members (R178, R244, R284). A STANDBY that is
named no longer keeps its role, since Table 8.10 has no row for it. -/
def State.adoptMembers (s : State) (version summitId standby : Nat) (ms : List Member) : State :=
  let gone := (s.fabric.members.filter fun m => !ms.any fun x => x.device == m.device).map (·.device)
  let s1 := (s.setFabric fun r => { r with members := ms, version := version, memberTerm := s.getF MEMBER_STATE_TERM 0 0 })
  let s2 := (s1.setF SUMMIT_INFO_SUMMIT_ID 0 0 summitId).setF SUMMIT_INFO_STANDBY_ID 0 0 standby
  match ms.find? fun m => m.device == s.device && m.serial == s.sec.serial with
  | none => ((s2.endDeparted (s.fabric.members.map (·.device))).aloneAgain false).countMembers
  | some me =>
    let s3 := s2.takeJob me.job
    let s4 := if !s3.isSummit ∧ standby = s.device then s3.setRole 4 else s3
    ((s4.countMembers.endDeparted gone).redDepartures).afterWork

/-- Install a trail generation (R229 to R231): destinations whose signs change keep the old ones while operations sent under
them are outstanding. -/
def State.installGen (s : State) (gen : Nat) (admitted : List Nat) (dead : List TorusLink) : State :=
  let keep := (List.range 4).flatMap fun d =>
    ((s.tracker d).entries.filterMap fun e =>
      if ptrSpace e.req.ptr = 1 ∧ e.dest ≠ s.device then some (d, e.dest, s.trailOf d e.dest) else none)
  let s1 := (s.setFabric fun r => { r with
    gen := gen, admitted := admitted, dead := dead, tableDims := s.dims, tableDevice := s.device })
  let s2 := keep.foldl (fun (u : State) (k : Nat × Nat × Nat) =>
    if k.2.2 % 4 = 1 ∧ u.trailNew k.2.1 % 4 = 1 ∧ k.2.2 ≠ u.trailNew k.2.1 then
      (u.setFabric fun r => { r with oldSigns := kset 0 r.oldSigns (k.1 * 16384 + k.2.1) k.2.2 })
    else u) s1
  (List.range 4).foldl (fun u d => (u.setF TRAIL_STATUS_GEN d 0 gen).addF TRAIL_STATUS_INSTALLS d 0 1) s2

end Sys2Proof.Machine
end

