-- ==== Sys2Proof/Machine/Reduction.lean ====
section
/-!
DEFINITION. Meanings of the commands of gradient reduction (chapter 10): readiness, admission, the REDUCE_PUTs that arrive
(R275, R276), one addition, deadlines.
-/
namespace Sys2Proof.Machine

open Sys2Proof

/-! ### Records in a payload (R275) -/

/-- The block records of a segment from block b on, and the bytes after the last. A record with a poisoned byte, whose data
does not fit, fails its check: it stands with no data. -/
def readRecords (blocks : Nat) : Nat → Nat → List Byte → List Bool → List (Nat × BlockRec) × List Byte
  | 0, _, bs, _ => ([], bs)
  | fuel + 1, b, bs, marks =>
    let n := leNat ((bs.drop 2).take 2)
    if blocks ≤ b ∨ n = 0 ∨ bs.length < 16 + n then ([], bs)
    else
      let size := (16 + n + 7) / 8 * 8
      let rest := readRecords blocks fuel (b + 1) (bs.drop size) (marks.drop (size / 4))
      let special := leNat (bs.take 1) % 2 == 1
      let r : BlockRec :=
        if (marks.take (size / 4)).any id then ⟨false, 0, []⟩
        else ⟨special, BitVec.ofNat 64 (leNat ((bs.drop 8).take 8)), (bs.drop 16).take n⟩
      ((b, r) :: rest.1, rest.2)

/-- Key of a REDUCE_PUT of more than one segment. -/
def partKey (g : Segment) : Nat := g.srcDev * 65536 + g.srcDie * 4096 + g.tag

/-- The records of a segment, numbered from the block its operation starts at; the state counts the records of earlier
segments. -/
def State.segRecords (s : State) (br : BucketRun) (g : Segment) : State × List (Nat × BlockRec) × List Byte :=
  let before := if g.seg64 = 0 then 0 else kget 0 s.red.parts (partKey g)
  let r := readRecords br.cfg.blocks (g.payload.length / 16 + 1) (locBlock g.address + before) g.payload g.marks
  ((s.setRed fun y => { y with
      parts := kset 0 y.parts (partKey g) (if g.last then 0 else before + r.1.length) }), r.1, r.2)

/-! ### Arrival (R276, R294, R295) -/

/-- Whether a bucket takes part in a step: by its entry as read at the launch of the present one (R261, R276). -/
def State.bucketIn (s : State) (b step : Nat) : Bool :=
  if s.red.launched = some step then (s.bucketRun b).isSome else s.bucketValid b

/-- Whether a group is enabled for a step: as latched at the launch of the present one (R264, R276). -/
def State.groupOn (s : State) (g step : Nat) : Bool :=
  if s.red.launched = some step then s.groupF GROUP_CFG_ENABLE g == 1 else s.flag GROUP_CFG_ENABLE 0 g

/-- The status of an arriving REDUCE_PUT (R27, R184, R209, R276). One that names another enabled group than its bucket's acts on the bucket
(assumption 115). -/
def State.reduceStatus (s : State) (epoch : Nat) (g : Segment) : Nat :=
  let a := g.address
  let k := locKind a
  let d := shardDie (locShard a)
  let on (b : Bool) (c : Nat) (x : Nat) : Nat := if b then statusMax c x else x
  on (g.job != s.job || s.job == 0) stUNREACHABLE <|
  on (decide (11 ≤ k) || !(g.cls == 2 || g.cls == 3)) stINVALID <|
  on (!s.bucketIn (locBucket a) g.step || !s.groupOn (locGroup a) g.step) stNORES <|
  on (k == 9 && s.isSealed g.step) stNORES <|
  on (s.collapseDiscards g.step g.cls) stCOLLAPSED <|
  on (epoch != s.getF EPOCH_EPOCH 0 0) stEPOCH <|
  on (!s.dieRunning d) stUNREACHABLE <|
  stDONE

/-! ### Folding while inputs have landed -/

/-- Whether this rank folds a shard: it contributes, or performs the root's addition, which a root that withholds leaves to the rank that
takes its place (R286; assumption 63); a backup folds none. -/
def State.folds (s : State) (br : BucketRun) (x : ShardRun) : Bool :=
  (br.inFlight || !br.counted.isEmpty) && x.admitted && x.status.isNone && !br.scan.contains (shardDie x.shard) && !x.fetching && decide (x.next < br.cfg.blocks) &&
  !s.groupBackup br.cfg.group && (x.withheld.isNone || (x.top == 0 && (s.standIn br x).isNone))

/-- One BLOCK_ADD of a shard. -/
def State.addBlock (s : State) (b sh : Nat) : State :=
  match s.bucketRun b, s.shardRun b sh with
  | some br, some x => if s.folds br x then s.foldNext br x else s
  | _, _ => s

/-- A leaf forms its contribution, block after block. -/
def State.addAll (s : State) (b sh : Nat) : Nat → State
  | 0 => s
  | fuel + 1 => (s.addBlock b sh).addAll b sh fuel

/-- Fold every block of a shard that has no children. -/
def State.addLeaf (s : State) (br : BucketRun) (x : ShardRun) : State :=
  if x.nodes.isEmpty then s.addAll br.bucket x.shard (br.cfg.blocks - x.next) else s

/-! ### Launch side -/

/-- A write of a step to STEP_READY of die d (R266): refused at or below the last accepted one. -/
def State.stepReady (s : State) (d step : Nat) : State :=
  if !s.dieRunning d ∨ step + 1 ≤ kget 0 s.red.ready d then s.setF RED_BLK_STATUS_CFG_ERR 0 0 1
  else ((s.setRed fun r => { r with ready := kset 0 r.ready d (step + 1) })).writePos d (contourAt step phBWD)

/-- STEP_READY: software declares die d's gradients of a step complete (R266). -/
def execStepReady (d : Fin 4) (step : BitVec 40) (s : State) : Host.Outcome State Fault Refusal := .next (s.stepReady d step.toNat)

/-- The shards of bucket b that die d handles take their stage reservations in turn, as far as the region holds them (R277). -/
def State.reserveShards (s : State) (br : BucketRun) (d : Nat) : State :=
  (List.range 4).foldl (fun (u : State) k =>
    match u.shardRun br.bucket (4 * k + d) with
    | some x =>
      if x.admitted || x.fetching || x.status.isSome || decide (u.getF STAGE_SIZE_SIZE 0 d * 4096 < u.stageUsed d + br.cfg.stage) then u
      else u.setShardRun { x with admitted := true, reserved := br.cfg.stage }
    | none => u) s

/-- A bucket is in flight (R267). -/
def State.flyBucket (s : State) (br : BucketRun) : State :=
  if br.inFlight then s
  else (s.setBucketRun { br with inFlight := true }).addF GROUP_STATUS_IN_FLIGHT 0 br.cfg.group 1

/-- The shards of bucket b on die d that hold their reservations send GO, and fold what no child holds up (R278). -/
def State.openShards (s : State) (b d : Nat) : State :=
  (List.range 4).foldl (fun (u : State) k =>
    match u.bucketRun b with
    | some r =>
      let v := u.sendGos r (4 * k + d)
      match v.shardRun b (4 * k + d) with
      | some x => if x.goGot || !x.asked.isEmpty then v.addLeaf r x else v
      | none => v
    | none => u) s

/-- Whether die d, back after its bucket became final here, has shards of it still to admit (R267, R291). -/
def State.lateDie (s : State) (br : BucketRun) (d : Nat) : Bool := br.reduces && !br.counted.isEmpty && !br.counted.contains d

/-- BUCKET_ADMIT: a waiting bucket enters flight, and the shards that die d handles take their stage reservations in turn, as
far as the region holds them (R267, R277). A rejoined die's shards of a bucket that is final already only take reservations. -/
def execBucketAdmit (b : Fin 4096) (d : Fin 4) (s : State) : Host.Outcome State Fault Refusal :=
  match s.bucketRun b with
  | none => .next s
  | some br =>
    let late := s.lateDie br d
    if !s.dieRunning d ∨ !s.awake ∨ (!late ∧ (br.status.isSome ∨ !s.mayFly br)) then .next s
    else
      let s1 := s.reserveShards br d
      if s1 = s then .next s else .next ((if late then s1 else s1.flyBucket br).openShards b d).afterWork

/-- Whether the range of a bucket that die d handles holds a NaN. -/
def State.rangeHasNan (s : State) (br : BucketRun) (d : Nat) : Bool :=
  let n := br.cfg.blocks * 64
  (List.range 4).any fun k => (List.range n).any fun i =>
    (exactSum (s.elemWords br.cfg (s.carryHeld br.bucket (4 * k + d)) ((4 * k + d) * n + i))).1.isNan

/-- QUARANTINE_SCAN_DONE: the scan of a bucket ends on every die that runs and scans it; with a NaN in what they hold, or found by an
earlier scan, the package withholds its shards there and all that sent no START, else they send START (R287). -/
def execQuarantineScanDone (b : Fin 4096) (s : State) : Host.Outcome State Fault Refusal :=
  match s.bucketRun b with
  | none => .next s
  | some br =>
    let dies := s.liveDies.filter fun d => br.scan.contains d
    if dies.isEmpty ∨ !s.awake then .next s
    else
      let bad := dies.filter fun d => s.rangeHasNan br d
      let s1 := s.setBucketRun { br with
        scan := br.scan.filter fun d => !dies.contains d
        quarantined := br.quarantined || !bad.isEmpty }
      let s2 := bad.foldl (fun u d => match u.bucketRun b with | some r => u.nanFound r d (u.lowestNan r d) | none => u) s1
      .next ((List.range 4).foldl (fun u d => u.startShards b d) s2).afterWork

/-! ### Control packets (Table 10.6) -/

/-- START: bit [0] of the first payload byte is 1 from a backup (R278, R284). -/
def State.onStart (u : State) (g : Segment) (br : BucketRun) (x : ShardRun) : State :=
  u.takeStart br x g.srcDev (leNat (g.payload.take 1) % 2 == 1)

/-- ABSENT (R284, R285). -/
def State.onAbsent (u : State) (g : Segment) (br : BucketRun) (x : ShardRun) : State :=
  u.takeAbsent br x g.srcDev (leNat (g.payload.take 1))

/-- Send output block b of a shard to a device, with the norm after the last. -/
def State.sendOutput (s : State) (br : BucketRun) (x : ShardRun) (b dev : Nat) : State :=
  match kget none x.outs b with
  | some r =>
    let extra := if b + 1 = br.cfg.blocks then leBytes 40 x.norm else []
    s.redSend (shardDie x.shard) dev 0 br.bucket x.shard b (r.bytes ++ extra)
  | none => s

/-- GO: the child sends its output blocks in ascending order (R278). -/
def State.onGo (u : State) (g : Segment) (br : BucketRun) (x : ShardRun) : State :=
    if x.pos = 0 ∨ x.status.isSome ∨ u.posDevice br.cfg.group x.shard (heapParent x.pos) ≠ g.srcDev then u
    else
      let y := { x with goGot := true }
      let u1 := (List.range x.next).foldl (fun v b => v.sendOutput br y b g.srcDev) (u.setShardRun y)
      u1.addLeaf br y

/-- RESEND: outputs go again to an ancestor, those not folded yet as soon as they are; results go again to a rank below
(R283, R286). -/
def State.onResend (u : State) (g : Segment) (br : BucketRun) (x : ShardRun) : State :=
    let b0 := locBlock g.address
    let n := min (blockCount g.payload) (br.cfg.blocks - b0)
    if (u.resultTargets br x).contains g.srcDev then
      (rangeFrom b0 n).foldl (fun v b =>
        match kget none x.results b with
        | some r => v.sendResult br x b r [g.srcDev]
        | none => v) u
    else
      let y := { x with asked := x.asked ++ [(g.srcDev, b0, n)] }
      let u1 := (rangeFrom b0 n).foldl (fun v b => if b < x.next then v.sendOutput br y b g.srcDev else v) (u.setShardRun y)
      u1.addLeaf br y

/-- The norm of a rank's own contribution to a shard: block sums added in ascending order (R292). -/
def State.ownNorm (s : State) (br : BucketRun) (sh : Nat) : Nat :=
  (List.range br.cfg.blocks).foldl (fun a b =>
    match s.ownBlock br sh b with
    | some o => (fp32.add a o.2.2.1).1
    | none => a) 0

/-- OWN_REQ: the rank or backup sends its own contribution blocks, or ABSENT where a word is poisoned (R286, R288). -/
def State.onOwnReq (u : State) (g : Segment) (br : BucketRun) (x : ShardRun) : State :=
    let d := shardDie x.shard
    let bs := rangeFrom (locBlock g.address) (min (blockCount g.payload) (br.cfg.blocks - locBlock g.address))
    if bs.any fun b => (u.ownBlock br x.shard b).isNone then
      (u.setShardRun { x with withheld := some .poison }).redSend d g.srcDev 3 br.bucket x.shard 0 (leBytes 1 1)
    else
      bs.foldl (fun (v : State) b =>
        match v.ownBlock br x.shard b with
        | none => v
        | some o =>
          let v1 := v.orFlags DIE_ENGINE_FLAGS_RED d 0 br.cfg.group 2 o.2.1
          let v2 := if o.2.2.2 then (match v1.bucketRun br.bucket with | some r => v1.nanFound r d (v1.lowestNan r d) | none => v1) else v1
          if b + 1 = br.cfg.blocks then
            let n := v2.normUnits (v2.ownNorm br x.shard)
            n.1.redSend d g.srcDev 7 br.bucket x.shard b (o.1.bytes ++ leBytes 40 n.2)
          else v2.redSend d g.srcDev 7 br.bucket x.shard b o.1.bytes) u

/-- BYPASSED: a late rank's contribution is discarded, or kept as carry when its results come (R285, R288). -/
def State.onBypassed (u : State) (g : Segment) (_br : BucketRun) (x : ShardRun) : State :=
    if x.withheld.isSome ∨ x.status.isSome then u else u.setShardRun { x with withheld := some .bypassed }

/-! ### Data packets -/

/-- PARTIAL: output blocks land in the slots of the child that sent them (R278). -/
def State.onPartial (u : State) (g : Segment) (br : BucketRun) (x : ShardRun) : State :=
    let r := u.segRecords br g
    match u.nodeOf br x g.srcDev false with
    | none => r.1
    | some n =>
      if n.missing then r.1
      else
        let full := r.2.1.any fun e => e.1 + 1 == br.cfg.blocks
        let m := { n with
          blocks := r.2.1.foldl (fun t e => kset none t e.1 (some e.2)) n.blocks
          lastAt := u.fabricNow
          norm := if full then leNat (r.2.2.take 40) else n.norm }
        r.1.setShardRun (x.setNode m)

/-- OWN: contribution blocks land for a position that this rank fills (R286). -/
def State.onOwn (u : State) (g : Segment) (br : BucketRun) (x : ShardRun) : State :=
    let r := u.segRecords br g
    match x.nodes.find? fun n => n.missing && n.ownFrom == some g.srcDev with
    | none => r.1
    | some n =>
      let full := r.2.1.any fun e => e.1 + 1 == br.cfg.blocks
      let m := { n with
        owns := r.2.1.foldl (fun t e => kset none t e.1 (some e.2)) n.owns
        norm := if full then leNat (r.2.2.take 40) else n.norm }
      r.1.setShardRun (x.setNode m)

/-- A RESULT block that fails its check (Table 10.9): asked for again; its hop, the root's addition, is suspect, once for a shard; the shard
fails. -/
def State.resultMismatch (s : State) (br : BucketRun) (x : ShardRun) (b src : Nat) : State :=
  let key := 2 ^ 40 + b
  let n := kget 0 x.checks key + 1
  let known := kget 0 x.checks (2 ^ 41) != 0
  let s1 := s.setShardRun { x with checks := kset 0 (if n = 2 then kset 0 x.checks (2 ^ 41) 1 else x.checks) key n }
  let g := br.cfg.group
  let again (u : State) : State := u.redSend (shardDie x.shard) src 5 br.bucket x.shard b (leBytes 2 1)
  if n = 1 then again (s1.satF CAIRN_COUNTS_RETRIES 0 (shardDie x.shard) 1)
  else if n = 2 then
    again (if known then s1 else s1.suspectHop br x.shard (if s.posPresent g x.shard 0 then 0 else (s.lowestBelow g x.shard).getD 0))
  else s1.checkFailed br x.shard

/-- Take the result blocks that are next in turn (R278, R289), as far as their buffer words are not held (R31, R175). -/
def State.drainResults (s : State) (br : BucketRun) (sh : Nat) : Nat → State
  | 0 => s
  | fuel + 1 =>
    match s.shardRun br.bucket sh with
    | none => s
    | some x =>
      match kget none x.results x.nextResult with
      | some r =>
        let e0 := (sh * br.cfg.blocks + x.nextResult) * 64
        if x.status.isSome ∨ s.blockHeld br.cfg (shardDie sh) x.carried true e0 then s else (s.takeResult br sh x.nextResult r none).drainResults br sh fuel
      | none => s

/-- BLOCK_ADD: an adder folds the next block of a shard once its present inputs have landed (R272, R278, R281); result blocks that
waited for their buffer words are written. -/
def execBlockAdd (b : Fin 4096) (sh : Fin 16) (s : State) : Host.Outcome State Fault Refusal :=
  if !s.awake then .next s else
  let t := s.addBlock b sh
  match t.bucketRun b, t.shardRun b sh with
  | some br, some x => .next (t.drainResults br sh (br.cfg.blocks - x.nextResult)).afterWork
  | _, _ => .next t.afterWork

/-- RESULT: blocks are checked, written into the buffer in turn, and forwarded; the shard becomes final with the last (R281,
R283, R289). -/
def State.onResult (u : State) (g : Segment) (br : BucketRun) (x : ShardRun) : State :=
    let r := u.segRecords br g
    if x.status.isSome then r.1
    else
      let full := r.2.1.any fun e => e.1 + 1 == br.cfg.blocks
      let x1 := { x with trailer := if full then some (readTrailer r.2.2) else x.trailer }
      let u1 := r.2.1.foldl (fun (v : State) e =>
        match v.bucketRun br.bucket, v.shardRun br.bucket x.shard with
        | some b2, some y =>
          if e.1 < y.nextResult ∨ y.status.isSome then v
          else if blockChecks br.cfg.wire e.2 then v.setShardRun { y with results := kset none y.results e.1 (some e.2) }
          else v.resultMismatch b2 y e.1 g.srcDev
        | _, _ => v) (r.1.setShardRun x1)
      u1.drainResults br x.shard (br.cfg.blocks - x.nextResult)

/-- FETCH: the shard's final values, at once or when it becomes final; NO_RESOURCE after the seal (R285). A shard that ended with no
result has none to send. -/
def State.onFetch (u : State) (g : Segment) (br : BucketRun) (x : ShardRun) : State :=
    if x.status.isSome then (if x.nextResult = br.cfg.blocks then u.sendFinals br x g.srcDev else u)
    else u.setShardRun { x with fetchers := x.fetchers ++ [g.srcDev] }

/-- RESULT_FP32: final values for a rejoined rank, 256 bytes a block, with their poison; the noise trailer after the last, in whichever
segment that falls, ends the shard (R197, R285). -/
def State.onResultFp32 (u : State) (g : Segment) (br : BucketRun) (x : ShardRun) : State :=
    if !x.fetching ∨ x.status.isSome then u
    else
      let b0 := locBlock g.address + g.seg64 / 4
      let n := min (g.payload.length / 256) (br.cfg.blocks - b0)
      let tail := g.payload.drop (n * 256)
      let tr := readTrailer tail
      let full := decide (br.cfg.blocks ≤ b0 + n) && decide (24 ≤ tail.length)
      let u0 := if x.carried then u else (u.keepShard br x.shard).copyCarry br x.shard 0
      let y := { x with
        carried := true
        nextResult := if n = 0 then x.nextResult else b0 + n
        trailer := if full then some tr else x.trailer
        count := if full then tr.2.2 else x.count }
      let u1 := (List.range n).foldl (fun (v : State) i =>
        v.writeValues br x.shard (b0 + i) ((List.range 64).map fun j => leNat ((g.payload.drop (i * 256 + 4 * j)).take 4))
          ((g.marks.drop (i * 64)).take 64))
        (u0.setShardRun y)
      if full then u1.shardFinal br x.shard else u1

/-! ### REDUCE_PUTs by KIND -/

/-- The effect of a REDUCE_PUT of one KIND on its shard (Tables 10.6, 10.7). -/
def State.reduceEffect (s : State) (kind : Nat) (g : Segment) (br : BucketRun) (x : ShardRun) : State :=
  match kind with
  | 0 => s.onPartial g br x
  | 1 => s.onResult g br x
  | 2 => s.onStart g br x
  | 3 => s.onAbsent g br x
  | 4 => s.onGo g br x
  | 5 => s.onResend g br x
  | 6 => s.onOwnReq g br x
  | 7 => s.onOwn g br x
  | 8 => s.onBypassed g br x
  | 9 => s.onFetch g br x
  | 10 => s.onResultFp32 g br x
  | _ => s

/-- A REDUCE_PUT segment of one KIND is taken at its shard's die: refused by job (R209), by R276, or as dropped by a collapse
(R295); else it takes effect on its shard, and is answered: with CHECK_FAILED for a shard that has failed here (R291, assumption
98). A reserved KIND may come under any command. -/
def State.takeReduce (s : State) (kind epoch : Nat) (g : Segment) : State :=
  let k := locKind g.address
  let d := shardDie (locShard g.address)
  if k ≠ kind ∧ k < 11 then s
  else if g.job ≠ s.job ∨ s.job = 0 then (s.jobRejectAt d g).answerAt d 4 g (s.reduceStatus epoch g) [] []
  else
    let st := s.reduceStatus epoch g
    if st ≠ stDONE then s.answerAt d 4 g st [] []
    else
      let s1 :=
        if s.red.launched = some g.step then
          match s.bucketRun (locBucket g.address), s.shardRun (locBucket g.address) (locShard g.address) with
          | some br, some x => s.reduceEffect kind g br x
          | _, _ => s
        else if (k = 2 ∨ k = 3) ∧ !s.isSealed g.step ∧ s.red.launched.getD 0 ≤ g.step then
          (s.setRed fun r => { r with
              early := r.early ++ [(g.step, k, g.address, g.srcDev, leNat (g.payload.take 1))] })
        else s
      let failed := (s1.shardRun (locBucket g.address) (locShard g.address)).any fun x => x.status == some stCHECK
      s1.answerAt d 4 g (if failed && s.red.launched == some g.step then stCHECK else if g.marks.any id then stPOISONED else stDONE) [] []

/-- What a RESULT_FP32 segment writes at once: its part of the shard's buffer. -/
def State.reduceExtents (s : State) (g : Segment) : List (Nat × Nat × Bool) :=
  match s.bucketRun (locBucket g.address) with
  | some br =>
    if locKind g.address = 10 ∧ s.red.launched = some g.step then
      [(br.cfg.buf + (locShard g.address * br.cfg.blocks + locBlock g.address + g.seg64 / 4) * 256, g.payload.length / 256 * 256, true)]
    else []
  | none => []

/-- A REDUCE_PUT segment arrives (R192, R460). -/
def State.reduceArrive (s : State) (kind epoch : Nat) (g : Segment) : State :=
  let m := s.meet (shardDie (locShard g.address)) 4 g (.reduce kind epoch g) (s.reduceExtents g)
  if m.2 then m.1.takeReduce kind epoch g else m.1

/-- START: bit [0] of the first payload byte is 1 from a backup (R278, R284). -/
def execStart (epoch : Fin 65536) (g : Segment) (s : State) : Host.Outcome State Fault Refusal :=
  .next (s.reduceArrive 2 epoch g)

/-- ABSENT (R284, R285). -/
def execAbsent (epoch : Fin 65536) (g : Segment) (s : State) : Host.Outcome State Fault Refusal :=
  .next (s.reduceArrive 3 epoch g).afterWork

/-- GO: the child sends its output blocks in ascending order (R278). -/
def execGo (epoch : Fin 65536) (g : Segment) (s : State) : Host.Outcome State Fault Refusal :=
  .next (s.reduceArrive 4 epoch g).afterWork

/-- RESEND: outputs go again to an ancestor, those not folded yet as soon as they are; results go again to a rank below
(R283, R286). -/
def execResend (epoch : Fin 65536) (g : Segment) (s : State) : Host.Outcome State Fault Refusal :=
  .next (s.reduceArrive 5 epoch g).afterWork

/-- OWN_REQ: the rank or backup sends its own contribution blocks, or ABSENT where a word is poisoned (R286, R288). -/
def execOwnReq (epoch : Fin 65536) (g : Segment) (s : State) : Host.Outcome State Fault Refusal :=
  .next (s.reduceArrive 6 epoch g).afterWork

/-- BYPASSED: a late rank's contribution is discarded, or kept as carry when its results come (R285, R288). -/
def execBypassed (epoch : Fin 65536) (g : Segment) (s : State) : Host.Outcome State Fault Refusal :=
  .next (s.reduceArrive 8 epoch g)

/-- PARTIAL: output blocks land in the slots of the child that sent them (R278). -/
def execPartialBlocks (epoch : Fin 65536) (g : Segment) (s : State) : Host.Outcome State Fault Refusal :=
  .next (s.reduceArrive 0 epoch g)

/-- OWN: contribution blocks land for a position that this rank fills (R286). -/
def execOwn (epoch : Fin 65536) (g : Segment) (s : State) : Host.Outcome State Fault Refusal :=
  .next (s.reduceArrive 7 epoch g)

/-- RESULT: blocks are checked, written into the buffer in turn, and forwarded; the shard becomes final with the last (R281,
R283, R289). -/
def execResult (epoch : Fin 65536) (g : Segment) (s : State) : Host.Outcome State Fault Refusal :=
  .next (s.reduceArrive 1 epoch g).afterWork

/-- FETCH: the shard's final values, at once or when it becomes final; NO_RESOURCE after the seal (R285). -/
def execFetchReq (epoch : Fin 65536) (g : Segment) (s : State) : Host.Outcome State Fault Refusal :=
  .next (s.reduceArrive 9 epoch g)

/-- RESULT_FP32: final values for a rejoined rank, 256 bytes a block, the noise trailer after the last (R285). -/
def execResultFp32 (epoch : Fin 65536) (g : Segment) (s : State) : Host.Outcome State Fault Refusal :=
  .next (s.reduceArrive 10 epoch g).afterWork

/-! ### Deadlines (R284) -/

/-- SHARD_DEADLINE: a shard's deadline passes and ranks without START are missing, but under WAIT. -/
def execShardDeadline (b : Fin 4096) (sh : Fin 16) (s : State) : Host.Outcome State Fault Refusal :=
  match s.bucketRun b, s.shardRun b sh with
  | some br, some x =>
    if x.status.isSome ∨ br.status.isSome then .next s
    else
      let t := s.timeTo (s.red.base + s.red.deadlineUs * 1000)
      if t.straggler br.cfg.group = 0 ∨ !t.dieRunning (shardDie sh) then .next t
      else
        .next (x.nodes.foldl (fun (u : State) n =>
          match u.shardRun b sh with
          | some y => if n.started || n.missing then u else u.declareMissing br y n.pos
          | none => u) t).afterWork
  | _, _ => .next s

/-- PARTIAL_STALL: after GO no block of the child at heap position p has come for DEADLINE_US while this rank waits for it: the child is
missing, and BYPASSED tells it, so that it keeps or discards its contribution (Table 10.10a; assumption 115). A backup that sends nothing for
so long is not available (R286, assumption 98). -/
def execPartialStall (b : Fin 4096) (sh : Fin 16) (p : Fin 10240) (s : State) : Host.Outcome State Fault Refusal :=
  match s.bucketRun b, s.shardRun b sh with
  | some br, some x =>
    match x.node p with
    | none => .next s
    | some n =>
      if x.status.isSome ∨ !s.dieRunning (shardDie sh) then .next s
      else if n.missing then
        (if n.ownFrom.isNone ∨ n.suspect ∨ (kget none n.owns x.next).isSome then .next s
         else
           let t := s.timeTo (n.lastAt + s.red.deadlineUs * 1000)
           .next (t.setShardRun (x.setNode { n with ownFrom := none })).afterWork)
      else if !n.goSent ∨ (kget none n.blocks x.next).isSome then .next s
      else
        let t := s.timeTo (n.lastAt + s.red.deadlineUs * 1000)
        if t.straggler br.cfg.group = 0 then .next t else .next ((t.declareMissing br x p).redSendPos br sh p 8 0 []).afterWork
  | _, _ => .next s

end Sys2Proof.Machine
end

