-- ==== Sys2Proof/Machine/Talus.lean ====
section
/-!
DEFINITION. The Talus controllers (chapter 06): granule reads and writes, the scrub, stack states.
-/
namespace Sys2Proof.Machine

open Sys2Proof

/-- A 16-bit mask of the words that carry poison. -/
def poisonMask (ws : List TalusWord) : Nat := ws.foldr (fun w m => 2 * m + b2n w.pois) 0

/-- The bytes of decoded words; a word with poison keeps no data. -/
def wordBytes (ws : List TalusWord) : List Byte := ws.flatMap fun w => leBytes 8 (if w.pois then 0 else w.data)

/-- Read a granule of an ACTIVE stack (R165, R167), in which errors `errs` have come to stand. -/
def State.readGranule (s : State) (t granule : Nat) (errs : List SymErr) : State :=
  let x := s.readCells t granule errs
  let m := poisonMask x.2
  x.1.emit .talusData t [granule, m, if m = 0 then stDONE else stPOISONED] (wordBytes x.2)

/-- Write the bytes of a granule from `first` on: one granule write where all of it is covered, else a read-modify-write (R165, R168). -/
def State.writeGranule (s : State) (t granule first : Nat) (data : List Byte) (poison : Bool) (errs : List SymErr) : State :=
  let bs := data.take (128 - first)
  let a := granuleAddr t granule
  let s1 := s.freshen t granule errs (first == 0 && bs.length == 128)
  let s2 := if poison then s1.writePoisoned (a + first) bs else s1.write (a + first) bs
  s2.emit .talusData t [granule, 0, stDONE] []

/-- The granule a controller access names, and whether it writes. -/
def HeldAccess.granule : HeldAccess → Nat
  | .read granule _ => granule
  | .write granule _ _ _ _ => granule

def HeldAccess.writes : HeldAccess → Bool
  | .read _ _ => false
  | .write _ _ _ _ _ => true

/-- Answer a controller access that is not performed: a read with zeros and poison, a write without effect (R39, R40, R171). -/
def State.refuseGranule (s : State) (t : Nat) (h : HeldAccess) (status : Nat) : State :=
  if h.writes then s.emit .talusData t [h.granule, 0, status] []
  else s.emit .talusData t [h.granule, 0xFFFF, status] (List.replicate 128 0)

/-- A controller access to a granule of stack t (Table 6.3): performed, waiting, or refused. -/
def State.talusAccess (s : State) (t : Nat) (h : HeldAccess) : State :=
  let a := granuleAddr t h.granule
  if s.stackHeld a 128 h.writes then s.park [(a, 128, h.writes)] (.talus t h)
  else
    match s.stackReach t with
    | .retired => s.refuseGranule t h stPOISONED
    | .unreachable => s.refuseGranule t h stUNREACHABLE
    | .unmapped => (s.addressFault (t / 3) 0 a).refuseGranule t h stDONE
    | _ =>
      match h with
      | .read granule errs => s.readGranule t granule errs
      | .write granule first data poison errs => s.writeGranule t granule first data poison errs

/-! ### Stack states (Table 6.4) -/

/-- The shell kinds of a stack's PHY and its delay locked loops are rows 4 and 5 of Table 1.9; both hold one image (Table 6.6). -/
def State.stackActive (s : State) (t : Nat) : State := s.setStkF STACK_STATE_STATE t 2

/-- Stack t enters self-refresh: its calibration image is saved, its contents are kept (Table 6.4). -/
def State.selfRefresh (s : State) (t : Nat) : State :=
  if s.stackState t = 2 then (s.setStkF STACK_STATE_STATE t 3).shellSave 4 t else s

/-- Stack t leaves self-refresh: ACTIVE with its image restored, or TRAINING where its shell refuses the image (Table 6.4, R44). -/
def State.leaveRefresh (s : State) (t : Nat) (refused : Bool) : State :=
  if s.stackState t = 3 then
    if refused then
      ((s.setStkF STACK_STATE_STATE t 1).setStack t { s.stack t with training := .restoreRefused }).shellRefuse 4 t
    else (s.shellRestore 4 t).stackActive t
  else s

/-! ### Meanings -/

/-- TALUS_READ (R163 to R171, Table 6.3). -/
def execTalusRead (t : Fin 12) (granule : Fin 536870912) (errs : List SymErr) (s : State) :
    Host.Outcome State Fault Refusal :=
  .next (s.talusAccess t (.read granule errs))

/-- TALUS_WRITE (R165, R168, R171, Table 6.3). -/
def execTalusWrite (t : Fin 12) (granule : Fin 536870912) (first : Fin 128) (data : List Byte) (poison : Bool)
    (errs : List SymErr) (s : State) : Host.Outcome State Fault Refusal :=
  .next (s.talusAccess t (.write granule first data poison errs))

/-- What a write of CLEAR_COUNTS to STACK_CTRL does (Table 6.13). -/
def State.stackClear (s : State) (t : Nat) : State :=
  ((s.setStkF CE_COUNT_COUNT t 0).setStkF UE_COUNT_COUNT t 0)

/-- CLEAR_COUNTS (Table 6.13). -/
def execClearCounts (t : Fin 12) (s : State) : Host.Outcome State Fault Refusal :=
  .next (s.stackClear t)

/-- SCRUB_READ: the next granule of an ACTIVE stack, corrected words written back, uncorrectable ones poisoned (R172,
R173). -/
def execScrubRead (t : Fin 12) (errs : List SymErr) (s : State) : Host.Outcome State Fault Refusal :=
  let g := s.stkF SCRUB_POS_NEXT_GRANULE t
  if s.stackState t = 2 ∧ s.dieRunning (t / 3) ∧ s.getF TALUS_EXPERT_SCRUB_HOURS (t / 3) 0 ≠ 0 ∧
      !s.stackHeld (granuleAddr t g) 128 (!errs.isEmpty) then
    .next ((s.setStkF SCRUB_POS_NEXT_GRANULE t ((g + 1) % 536870912)).freshen t g errs false)
  else .next s

end Sys2Proof.Machine
end

