-- ==== Sys2Proof/Machine/ArrivalOps.lean ====
section
/-!
DEFINITION. What waits and then goes on (R166, R192, R392, R460, Tables 6.3 and 6.4): host accesses to HDM, and every arrival in order.
-/
namespace Sys2Proof.Machine

open Sys2Proof

/-- STATE of the package (Table 18.6). -/
def State.powerState (s : State) : Nat := s.getF STATE_STATUS_STATE 0 0

/-! ### HDM (R391, R392, R460, R462) -/

/-- The answer to a host access, to a host that is bound: the line, a status, a mark for each 4 bytes that carry poison, the bytes. -/
def State.hdmAnswer (s : State) (line status : Nat) (marks : List Bool) (data : List Byte) : State :=
  if s.bound then s.emit .other 131073 (line :: status :: marks.map b2n) data else s

/-- A host access that is not performed: a read returns poison, a write is discarded (R40, R171, R462). -/
def State.hdmRefuse (s : State) (w : HdmAccess) (status : Nat) : State :=
  if w.kind = 3 then s.hdmAnswer w.line status [] []
  else s.hdmAnswer w.line status (List.replicate 16 true) (List.replicate 64 0)

/-- Whether an access takes a line into the snoop filter. -/
def HdmAccess.grants (w : HdmAccess) : Bool := w.kind == 1 || w.kind == 2

/-- The bytes of a line that the host gives back. -/
def State.giveBack (s : State) (line : Nat) (data : List Byte) (pois : Bool) : State :=
  if s.extentReach (line * 64) 64 ≠ .ok then s
  else if pois then (s.meetErrs (line * 64) 64 true).writePoisoned (line * 64) (data.take 64)
  else (s.meetErrs (line * 64) 64 true).write (line * 64) (data.take 64)

/-- Perform a host access; none where it waits: for its stack, behind an earlier access to its granule, or for room in the snoop filter
(R166, R391, R392). What gives a line back waits for its stack only. -/
def State.hdmPerform (s : State) (w : HdmAccess) : Option State :=
  let a := w.line * 64
  let others := s.host.snoop.filter fun l => l.1 != w.line
  match s.extentReach a 64 with
  | .held => none
  | .unmapped => some ((s.addressFault (place a).die 109 a).hdmRefuse w stDONE)
  | .ok =>
    if w.kind = 3 then some (((s.giveBack w.line w.data w.pois).setSnoop others).hdmAnswer w.line stDONE [] [])
    else if s.behind a 64 w.grants then none
    else
      let t := s.meetErrs a 64 false
      let st := if t.poisoned a 64 then stPOISONED else stDONE
      if w.grants then
        if 262144 ≤ others.length then none
        else some ((t.setSnoop (others ++ [(w.line, w.kind == 2)])).hdmAnswer w.line st (t.marks a 64) (t.bytes a 64))
      else some (t.hdmAnswer w.line st (t.marks a 64) (t.bytes a 64))
  | r => some (s.hdmRefuse w r.status)

/-- A grant that finds the snoop filter full has the line that was granted longest ago back-invalidated (R392). -/
def State.makeRoom (s : State) (w : HdmAccess) : State :=
  let others := s.host.snoop.filter fun l => l.1 != w.line
  match others with
  | [] => s
  | l :: _ =>
    if !w.grants || s.host.victim.isSome || decide (others.length < 262144) then s
    else ((s.setHost fun r => { r with victim := some l.1 }).addF SF_STATUS_BISNP 0 0 1).emit .other 131075 [l.1] []

/-- A host access meets the package (R460, R462): it waits in a low-power state that it leaves, is refused in Refuge, else is performed or
waits. What gives a line back goes before what waits for it. -/
def State.hdmAccess (s : State) (w : HdmAccess) : State :=
  match s.powerState with
  | 2 => (if s.wakesOn STATE_EXPERT_WAKE_ON_REQUEST then s.setF STATE_STATUS_STATE 0 0 3 else s).park [] (.hdm w)
  | 3 => s.park [] (.hdm w)
  | 5 => (s.hdmRefuse w stUNREACHABLE).satF STATE_STATUS_HDM_REFUSED 0 0 1
  | 6 => s.park [] (.hdm w)
  | _ =>
    match s.hdmPerform w with
    | some t => t
    | none =>
      let x : Waiting := ⟨[(w.line * 64, 64, decide (w.kind ≠ 0))], .hdm w⟩
      (s.makeRoom w).setArrivals (if w.kind = 3 then x :: s.arrivals else s.arrivals ++ [x])

/-- The bytes of a back-invalidated line are written, before anything that waits for it; at a stack that holds accesses they wait (R175,
R392). -/
def State.takeLine (s : State) (line : Nat) (data : List Byte) (pois : Bool) : State :=
  if s.extentReach (line * 64) 64 = .held then s.setArrivals (⟨[(line * 64, 64, true)], .line line data pois⟩ :: s.arrivals)
  else s.giveBack line data pois

/-! ### Going on -/

/-- One arrival meets the package again. -/
def State.retry (s : State) (x : Arrival) : State :=
  match x with
  | .segment op g => s.arrive State.fireTrigger op g
  | .enqueue reservation g => s.enqueueArrive reservation g
  | .reduce kind epoch g => s.reduceArrive kind epoch g
  | .own d id order =>
    match (s.tracker d).entries.find? fun e => e.id == id && e.order == order && decide (e.phase = .held ∨ e.phase = .granted) with
    | some e => if e.phase = .held then s.sendEntry State.fireTrigger d e else s.sendGranted d e
    | none => s
  | .move d g uid => s.retryMove d g uid
  | .spur d g => s.retrySpur d g
  | .response d id step seg64 status data marks => s.landResponse d id step seg64 status data marks
  | .landing d id order status data marks => s.landData d id order status data marks
  | .hdm w => s.hdmAccess w
  | .talus t h => s.talusAccess t h
  | .line line data pois => s.takeLine line data pois
  | .store d unit a data marks => s.post d unit a data marks

/-- What waits meets the package again in order of arrival; what must still wait keeps its place (Table 6.4, R166, R192, R460). -/
def State.releaseAll (s : State) : State :=
  (s.arrivals.foldl (fun u w => u.retry w.what) (s.setArrivals [])).afterWork

end Sys2Proof.Machine
end

