-- ==== Sys2Proof/Machine/SummitOps.lean ====
section
/-!
DEFINITION. The summit role as shared operations: membership and link map publications (R229, R242 to R245), the contour of
each job (R251 to R253), seal, collapse, resume and re-shard (R328, R329, R337 to R339, R344, R346).
-/
namespace Sys2Proof.Machine

open Sys2Proof

def State.term (s : State) : Nat := s.getF MEMBER_STATE_TERM 0 0

/-- The summit's entry for a job. -/
def State.sumJob (s : State) (job : Nat) : Option SumJob := s.summit.jobs.find? fun x => x.job == job

/-- Put an entry back, or add it. -/
def State.setSumJob (s : State) (x : SumJob) : State :=
  s.setSummit fun m => { m with
    jobs := if m.jobs.any (fun y => y.job == x.job) then m.jobs.map (fun y => if y.job = x.job then x else y) else m.jobs ++ [x] }

/-- Change the entry of a job. -/
def State.updSumJob (s : State) (job : Nat) (f : SumJob → SumJob) : State :=
  match s.sumJob job with
  | some x => s.setSumJob (f x)
  | none => s

/-! ### Membership and map -/

/-- The standby: the lowest-identifier member other than the summit (R242); the summit's own identifier where none is. -/
def standbyOf (summit : Nat) (ms : List Member) : Nat :=
  match (ms.map (·.device)).filter (· != summit) with
  | [] => summit
  | d :: ds => ds.foldl min d

/-- Fields of a MEMBERSHIP packet: TERM, version, summit, standby, then device, serial and job of each member. -/
def memberFields (term version summit standby : Nat) (ms : List Member) : List Nat :=
  [term, version, summit, standby] ++ ms.flatMap fun m => [m.device, m.serial, m.job]

/-- Send a membership's present publication. -/
def State.sendMembers (s : State) (dst : Nat) : State :=
  s.mgmt 0x86 dst (memberFields s.term s.fabric.version s.device (standbyOf s.device s.fabric.members) s.fabric.members)

/-- Fields of a LINK_MAP packet: TERM, generation, how many are admitted, their identifiers, then each dead link. -/
def State.mapFields (s : State) : List Nat :=
  [s.term, s.fabric.gen, s.fabric.admitted.length] ++ s.fabric.admitted ++
  s.fabric.dead.flatMap fun l => [l.dim, l.x, l.y, l.z]

/-- Send the present link map. -/
def State.sendMap (s : State) (dst : Nat) : State := s.mgmt 0x88 dst s.mapFields

/-- The link that a device's bundle DIR k leads over (R229). -/
def State.bundleLink (s : State) (dev k : Nat) : TorusLink :=
  let dim := k / 2
  let c := [s.coordOf dev 0, s.coordOf dev 1, s.coordOf dev 2]
  let n := s.dimSize dim
  let a := c.getD dim 0
  let p := c.set dim (if k % 2 = 0 then a else (a + n - 1) % n)
  ⟨dim, p.getD 0 0, p.getD 1 0, p.getD 2 0⟩

/-- Links dead by what members report (R237). -/
def State.deadLinks (s : State) : List TorusLink :=
  (s.fabric.reports.map fun r => s.bundleLink (r / 8) (r % 8)).eraseDups

/-- Links that end at a device. -/
def State.linksOf (s : State) (dev : Nat) : List TorusLink := (List.range 6).map fun k => s.bundleLink dev k

/-- Dead links that end at a device. -/
def State.deadOf (s : State) (dev : Nat) : Nat :=
  (s.deadLinks.filter fun l => (s.linksOf dev).contains l).length

/-- The member to drop while more than 1,024 links are dead: the most dead links, then the lowest identifier (R229). -/
def State.worstMember (s : State) : Option Nat :=
  (s.fabric.members.map (·.device)).foldl (fun b d =>
    match b with
    | none => some d
    | some x => if s.deadOf x < s.deadOf d ∨ (s.deadOf x = s.deadOf d ∧ d < x) then some d else some x) none

/-- Summit-side effect of departures on every job's conditions (R328). -/
def SumJob.drop (x : SumJob) (gone : List Nat) : SumJob :=
  let keep (l : List Nat) : List Nat := l.filter fun d => !gone.contains d
  { x with
    positions := kfilter (fun d => !gone.contains d) x.positions
    finals := keep x.finals
    restored := keep x.restored
    bwd := keep x.bwd
    acked := keep x.acked
    masks := kfilter (fun d => !gone.contains d) x.masks
    firsts := x.firsts.filter fun f => !gone.contains f.device }

/-- Publish the next generation from the membership and the reports (R229, R237). -/
def State.publishMap (s : State) : State :=
  let g := s.fabric.gen + 1
  (s.installGen g (s.fabric.members.map (·.device)) s.deadLinks).sendMap 0x3FFF

/-- The reports that stand for a link map: either end of each dead link (R237, R243). -/
def State.mapReports (s : State) : List Nat :=
  s.fabric.dead.flatMap fun l =>
    let c := [l.x, l.y, l.z]
    let d := c.set l.dim ((c.getD l.dim 0 + 1) % s.dimSize l.dim)
    let dev (p : List Nat) : Nat := s.deviceAt (p.getD 0 0) (p.getD 1 0) (p.getD 2 0)
    [dev c * 8 + 2 * l.dim, dev d * 8 + 2 * l.dim + 1]

/-- A job's entry as the summit opens it: its contour where the package heard it last, and the layout epoch (R253, R344; assumption 113). -/
def State.freshJob (s : State) (j : Nat) : SumJob :=
  let v := kget 0 s.summit.heardValues j - 1
  { SumJob.fresh j with
    contour := v
    phase := if contourAt (stepOfValue v) phLAUNCH ≤ v ∧ phaseOf v ≠ phSEAL then 1 else 0
    epoch := if j = s.job then s.getF EPOCH_EPOCH 0 0 else kget 0 s.summit.heardEpochs j
    drain := kget none s.summit.heardDrains j }

/-- Publish a membership, and adopt it (R242 to R245). -/
def State.publishMembers (s : State) (ms : List Member) : State :=
  let left (x : SumJob) : List Nat := (s.fabric.members.filter fun m => !ms.any fun y => y.device == m.device && y.job == x.job).map (·.device)
  let s1 := s.setSummit fun m => { m with jobs := m.jobs.map fun x => x.drop (left x) }
  let s2 := s1.adoptMembers (s1.fabric.version + 1) s1.device (standbyOf s1.device ms) ms
  let s3 := (ms.map (·.job)).eraseDups.foldl (fun (u : State) j =>
    if j = 0 ∨ (u.sumJob j).isSome then u else u.setSumJob (u.freshJob j)) s2
  s3.sendMembers 0x3FFF

/-- Declare members departed (R244): a new membership and a new generation. -/
def State.depart (s : State) (gone : List Nat) : State :=
  if s.fabric.members.any fun m => gone.contains m.device then
    (s.publishMembers (s.fabric.members.filter fun m => !gone.contains m.device)).publishMap
  else s

/-- Drop members until the link map fits; the dead links that end at a dropped member go with it, whoever reported them (R229). -/
def State.fitMap (s : State) : Nat → State
  | 0 => s
  | fuel + 1 =>
    if s.deadLinks.length ≤ 1024 then s
    else
      match s.worstMember with
      | none => s
      | some d =>
        let t := (s.setFabric fun y => { y with
          reports := y.reports.filter fun r => !(s.linksOf d).contains (s.bundleLink (r / 8) (r % 8)) })
        State.fitMap (t.publishMembers (t.fabric.members.filter fun m => m.device != d)) fuel

/-! ### Contour publications (R251, R252) -/

/-- Send a CONTOUR packet (Table 9.2). -/
def State.sendContour (s : State) (job flags value : Nat) : State :=
  (s.mgmt 0x90 0x3FFF [job, s.term, flags, 0, value, s.fabricNow]).setSummit fun m => { m with lastSent := s.fabricNow }

/-- Publish a contour value of a job. -/
def State.publish (s : State) (job value : Nat) : State :=
  (s.sendContour job 0 value).updSumJob job fun x => { x with contour := value, published := true }

/-- Devices of a job's present members. -/
def State.jobDevices (s : State) (job : Nat) : List Nat := (s.jobMembers job).map (·.device)

/-- The smallest reported position of the present members, once all have reported (R251). -/
def State.minPosition (s : State) (x : SumJob) : Option Nat :=
  let ps := (s.jobDevices x.job).map fun d => kget 0 x.positions d
  match ps with
  | [] => none
  | p :: qs => if ps.contains 0 then none else some (qs.foldl min p - 1)

/-- Whether a member's fenced die no longer holds the seal of step n: its hold has passed since it was first reported there (R329). -/
def SumJob.holdOver (x : SumJob) (n dev die : Nat) : Bool :=
  x.firsts.any fun f => f.device == dev && f.die == die && f.step == n && f.passed

/-- Whether the seal conditions hold (R329). -/
def State.sealOk (s : State) (x : SumJob) : Bool :=
  let ds := s.jobDevices x.job
  x.phase == 1 && !ds.isEmpty && ds.all (fun d => x.finals.contains d) &&
  (s.corSet CORNICE_EXPERT_REJOIN_HOLD_MS == 0 || ds.all fun d => (List.range 4).all fun k =>
    !(kget 0 x.masks d).testBit k || x.holdOver (stepOfValue x.contour) d k)

/-- Assignments that a re-shard of a job lets take effect (R47, R242, R245): members that enter it, and members that leave it for no
job. -/
def State.applyPartition (s : State) (job : Nat) : State :=
  let due (m : Member) : Bool := match m.nextJob with | some j => j == job || (j == 0 && m.job == job) | none => false
  if s.fabric.members.any due then
    s.publishMembers (s.fabric.members.map fun m =>
      match m.nextJob with
      | some j => if due m then { m with job := j, nextJob := none } else m
      | none => m)
  else s

/-- One publication of a job, where one is due (R251, Table 12.2). -/
def State.advanceJob (s : State) (job : Nat) : State :=
  match s.sumJob job with
  | none => s
  | some x =>
    let c := x.contour
    let n := stepOfValue c
    if !x.published then s.publish job c
    else if s.sealOk x then
      let s1 := (s.publish job (contourAt n phSEAL)).updSumJob job fun y => { y with
        phase := 0, tried := 0, count := 0, halt := false, resumeAsked := false, finals := [], restored := [], bwd := [],
        acked := [], firsts := x.firsts.filter fun f => decide (n < f.step) }
      match x.drain with
      | some e =>
        if e.1 = n then (s1.updSumJob job fun y => { y with drain := none, epoch := e.2 }).applyPartition job else s1
      | none => s1
    else
      match s.minPosition x with
      | none => if phaseOf c = phSEAL then s.publish job (contourAt (n + 1) 0) else s
      | some p =>
        if phaseOf c = phSEAL then
          let first := contourAt (n + 1) 0
          s.publish job (if first < p ∧ stepOfValue p = n + 1 ∧ phaseOf p < phBWD then p else first)
        else if stepOfValue p ≠ n then s
        else if phaseOf p < phBWD then (if c < p then s.publish job p else s)
        else if phaseOf p = phBWD then
          (if c < contourAt n phLAUNCH ∧ x.phase ≠ 2 then
            (s.publish job (contourAt n phLAUNCH)).updSumJob job fun y => { y with phase := 1 }
          else s)
        else if phaseOf p = phUPDATE ∧ c < p then s.publish job p
        else s

/-! ### Collapse, resume, re-shard -/

/-- Send the present COLLAPSE of a job (Table 12.3). -/
def State.sendCollapse (s : State) (x : SumJob) : State :=
  (s.mgmt 0x92 0x3FFF [x.job, stepOfValue x.contour, x.tried, x.cause, b2n x.halt + 2 * b2n x.newEpoch.isSome,
    x.newEpoch.getD 0, s.fabricNow]).updSumJob x.job fun y => { y with resendAt := s.fabricNow + 1000000 }

/-- Order a collapse of a job's step (R337, R338, Table 12.2). -/
def State.orderCollapse (s : State) (x : SumJob) (cause : Nat) (epoch : Option Nat) : State :=
  let limit := max 1 (s.corSet CORNICE_EXPERT_COLLAPSE_LIMIT)
  let count := if cause = 3 then 0 else x.count + 1
  let y := { x with
    phase := 2
    tried := x.tried + 1
    count := count
    halt := cause ≠ 3 ∧ (x.halt ∨ limit < count)
    resumeAsked := false
    cause := cause
    newEpoch := epoch
    epoch := epoch.getD x.epoch
    drain := if epoch.isSome then none else x.drain
    finals := []
    restored := []
    bwd := []
    acked := [] }
  (s.setSumJob y).sendCollapse y

/-- RESUME once every present member has restored and reported BWD_DONE (Table 12.2, R346). -/
def State.tryResume (s : State) (job : Nat) : State :=
  match s.sumJob job with
  | none => s
  | some x =>
    let ds := s.jobDevices job
    if x.phase = 2 ∧ !ds.isEmpty ∧ ds.all (fun d => x.restored.contains d && x.bwd.contains d) ∧ (!x.halt ∨ x.resumeAsked) then
      (s.setSumJob { x with phase := 1, halt := false, resumeAsked := false, finals := [] }).mgmt 0x93 0x3FFF
        [job, stepOfValue x.contour, x.tried, x.epoch, s.fabricNow]
    else s

/-- Everything that the summit's conditions for a job make due. -/
def State.driveJob (s : State) (job : Nat) : State :=
  let one (u : State) : State := (u.tryResume job).advanceJob job
  one (one (one s))

/-- Everything due for every job, once. -/
def State.drivePass (s : State) : State := (s.summit.jobs.map (·.job)).foldl (fun u j => u.driveJob j) s

/-- What a job's conditions make due, and, where that changed the membership, every other job's (R251). -/
def State.driveFrom (s : State) (job : Nat) : State :=
  let t := s.driveJob job
  if t.fabric.version = s.fabric.version then t else t.drivePass

/-- Everything due for every job; nothing before a takeover has published (R253). -/
def State.driveJobs (s : State) : State :=
  if s.summit.takeover.isSome then s
  else
    let t := s.drivePass
    if t.fabric.version = s.fabric.version then t else t.drivePass

/-- A re-shard request that the summit takes: ABORT, or any while the step is collapsed, is a collapse with CAUSE 3 at once; a DRAIN is
scheduled for the next step's SEAL, or merged into one that is pending (R344, Table 12.8). -/
def State.takeReshard (s : State) (x : SumJob) (mode : Nat) : State :=
  let next := (x.epoch + 1) % 65536
  if mode = 1 ∨ x.phase = 2 then ((s.orderCollapse x 3 (some next)).applyPartition x.job).driveJobs
  else if x.drain.isSome then s
  else
    let e := stepOfValue x.contour + 1
    (s.setSumJob { x with drain := some (e, next) }).mgmt 0x96 0x3FFF [x.job, 0, e, next]

end Sys2Proof.Machine
end

