-- ==== Sys2Proof/Machine/RidgeOps.lean ====
section
/-!
DEFINITION. The Ridge link layer and routing as shared operations (chapter 08): ports, flits, retry, route words, flows,
bundles, discards; the trailhead exchange; signature requests (R472).
-/
namespace Sys2Proof

open Sys2Proof.Machine

/-! ### Header fields of a packet (Table 7.2) -/

def Packet.hbits (k : Packet) (off n : Nat) : Nat := leNat ((k.header.drop off).take n)
def Packet.op (k : Packet) : Nat := k.hbits 0 1
def Packet.srcDev (k : Packet) : Nat := bits (k.hbits 4 2) 13 0
def Packet.srcDie (k : Packet) : Nat := bits (k.hbits 4 2) 15 14
def Packet.dstDev (k : Packet) : Nat := bits (k.hbits 6 2) 13 0
def Packet.tag (k : Packet) : Nat := bits (k.hbits 8 2) 11 0
def Packet.aop (k : Packet) : Nat := bits (k.hbits 8 2) 15 12
def Packet.stepTag (k : Packet) : Nat := k.hbits 0x0C 5
def Packet.seg (k : Packet) : Nat := bits (k.hbits 0x1C 4) 27 0
def Packet.bytes (k : Packet) : List Byte := leBytes 8 k.route.toNat ++ k.header ++ k.payload

/-- Whether a packet's request is answered with DATA. -/
def Packet.answersData (k : Packet) : Bool := k.op == 2 || ((k.op == 3 || k.op == 6) && atomicFetches k.aop)

/-- The flow key of R227. -/
def Packet.flow (k : Packet) : Nat :=
  (k.srcDev <<< 24) ||| (k.srcDie <<< 22) ||| (k.dstDev <<< 8) ||| k.vc

/-- A packet's flow with its kind: a response never waits behind a request of its flow (R220, R234). -/
def Packet.flowKind (k : Packet) : Nat := 2 * k.flow + b2n k.rsp

end Sys2Proof

namespace Sys2Proof.Machine

open Sys2Proof

/-! ### Ports -/

/-- Whether a port assignment keeps the conditions of R223. -/
def State.assignmentOk (s : State) : Bool :=
  (List.range 3).all fun dim =>
    let n (dir : Nat) : Nat := ((List.range 16).filter fun p => s.dirSet p == dir).length
    if s.dimSize dim = 1 then n (2 * dim) == 0 && n (2 * dim + 1) == 0 else n (2 * dim) != 0 && n (2 * dim + 1) != 0

/-- Clear a port's keys (R486). -/
def State.clearKeys (s : State) (p : Nat) : State :=
  (s.setFabric fun r => { r with keys := kfilter (fun k => k / 4 != p) r.keys })

/-- Flits, sequence numbers and counts of a port go; its DIR, its peer and the whole packets that it has received stay. -/
def Port.emptied (x : Port) : Port :=
  { Port.zero with
    dir := x.dir, peerSerial := x.peerSerial, peerDevice := x.peerDevice
    rx := x.rx.filterMap fun e =>
      let held := e.2.held.filterMap fun h => if h.taken then none else some { h with flits := 0 }
      if held.isEmpty then none else some (e.1, { RxPool.zero with held := held }) }

/-- A port begins a training of R215: its DIR takes effect; a port with DIR 6 is OFF. A package whose identity key is exhausted
trains none (R473). -/
def State.trainPort (s : State) (p : Nat) : State :=
  let dir := s.dirSet p
  let st := if dir = 6 ∨ s.flag SIG_STATUS_EXHAUSTED 0 0 then portOFF else portTRAINING
  (s.setPort p { Port.zero with dir := dir, rx := (s.port p).emptied.rx }).setPortF PORT_STATE_STATE p st

/-- The lanes that a port uses, by the lanes (a mask) on which both ends train: the first of ×4, ×2 on lanes 0 and 1, ×2 on lanes 2 and
3, ×1 on the lowest-numbered lane, not wider than a limit (R215, R232); none where no lane trains. -/
def trainLanes (mask limit : Nat) : Option (List Nat) :=
  let cands := [[0, 1, 2, 3], [0, 1], [2, 3], [0], [1], [2], [3]]
  cands.find? fun l => decide (l.length ≤ limit) && l.all fun i => mask.testBit i

/-! ### Signatures (R472) -/

/-- Ask for a signature; SIGN_REQUEST takes it to the signer. -/
def State.wantSign (s : State) (j : SignJob) : State := s.setSec fun x => { x with wanted := x.wanted ++ [j] }

/-! ### Route fields (Table 8.4) -/

/-- Destination coordinate of a route word along dim. -/
def routeCoord (r dim : Nat) : Nat := bits r (63 - 5 * dim) (59 - 5 * dim)
/-- Sign of a route word along dim. -/
def routeSign (r dim : Nat) : Nat := bits r (48 - 2 * dim) (47 - 2 * dim)
/-- TURNED bit of a route word along dim. -/
def routeTurned (r dim : Nat) : Bool := r.testBit (42 - dim)
/-- HOPS of a route word. -/
def routeHops (r : Nat) : Nat := bits r 39 32

/-- Bytes of payload that follow a header (R189, R200): data segments carry up to 4,096, an atomic its operand, a management
packet LEN64 + 1 words; a reservation, a GET and an ACK none. -/
def payloadLen (k : Packet) : Nat :=
  let len := bits (k.hbits 0x18 4) 27 0 + 1
  match k.op with
  | 2 => 0
  | 0x41 => 0
  | 3 => if k.aop = 2 then 16 else 8
  | 6 => if k.aop = 2 then 16 else 8
  | 5 => if k.seg = 0x0FFFFFFF then 0 else min 4096 ((len - k.seg) * 64)
  | op => if 0x80 ≤ op then len * 64 else min 4096 ((len - k.seg) * 64)

/-! ### Sending (R216 to R221, R483) -/

/-- Pool of a VC and kind. -/
def pool (vc : Nat) (rsp : Bool) : Nat := 2 * vc + b2n rsp

/-- Whether a credit is left for a pool: 8 of its own, then the 192 shared ones (R219). -/
def Port.credit (x : Port) (k : Nat) : Bool :=
  let overF := (x.used.map fun e => e.2 - 8).foldl (· + ·) 0
  decide (kget 0 x.used k < 8) || decide (overF < 192)

/-- The packets of a stream that have bytes in its next n bytes, `skip` bytes of the first being sent already. -/
def pktsIn (n skip : Nat) : List Packet → List Packet
  | [] => []
  | k :: ks => if k.bytes.length - skip < n then k :: pktsIn (n - (k.bytes.length - skip)) 0 ks else [k]

/-- The packets left once n further bytes went. -/
def pktsAfter (n skip : Nat) : List Packet → List Packet
  | [] => []
  | k :: ks => if k.bytes.length - skip ≤ n then pktsAfter (n - (k.bytes.length - skip)) 0 ks else k :: ks

/-- Bytes of a stream's first packet that went already. -/
def TxStream.skip (t : TxStream) : Nat := (t.pkts.map fun k => k.bytes.length).foldl (· + ·) 0 - t.bytes.length

/-- What is left of a stream after a flit of cap bytes. -/
def TxStream.cut (t : TxStream) (cap : Nat) : TxStream := ⟨pktsAfter cap t.skip t.pkts, t.bytes.drop cap⟩

/-- The next flit of a pool, where it has a credit: the packets of its VC and kind back to back. A flit that they do not fill goes with
zeros behind them (R217, assumption 33). -/
def Port.ready (x : Port) (cap vc : Nat) (rsp : Bool) : Option TxFlit :=
  let t := kget TxStream.zero x.streams (pool vc rsp)
  if t.bytes.isEmpty || !x.credit (pool vc rsp) then none
  else some ⟨x.txNext, (x.rxNext + 4095) % 4096, vc, rsp, pktsIn cap t.skip t.pkts, t.bytes.take cap, none⟩

/-- The flit of a VC that goes next: requests and responses alternate where both are ready. -/
def Port.nextOfVc (x : Port) (cap vc : Nat) : Option TxFlit :=
  match x.ready cap vc false, x.ready cap vc true with
  | some a, some b => some (if kget false x.rspTurn vc then b else a)
  | some a, none => some a
  | none, some b => some b
  | none, none => none

/-- The flit that the port sends next (R221): MGMT VCs first, then round robin. -/
def Port.next (x : Port) (cap : Nat) : Option TxFlit :=
  ([0, 1] ++ (List.range 10).map fun i => 2 + (x.turn - 2 + i) % 10).findSome? fun vc => x.nextOfVc cap vc

/-- A port once a flit has gone: its bytes leave their stream, it stands in the retry buffer, it holds a credit (R218, R219). -/
def Port.sent (x : Port) (cap : Nat) (f : TxFlit) : Port :=
  let k := pool f.vc f.rsp
  { x with
    streams := kset TxStream.zero x.streams k ((kget TxStream.zero x.streams k).cut cap)
    buffer := x.buffer ++ [f]
    txNext := (x.txNext + 1) % 4096
    used := kset 0 x.used k (kget 0 x.used k + 1)
    turn := if f.vc < 2 then x.turn else 2 + (f.vc - 1) % 10
    rspTurn := kset false x.rspTurn f.vc (!f.rsp) }

/-- Flits that the waiting bytes of a port can fill. -/
def Port.backlog (x : Port) : Nat := (x.streams.map fun t => t.2.bytes.length / 228 + 1).foldl (· + ·) 0

/-- The slot that port p encrypts with, if it holds a key (R484). -/
def State.txSlot (s : State) (p : Nat) : Option Nat :=
  let slot := s.portF KEY_CTRL_ACTIVE_TX p
  if (s.portF KEY_CTRL_TX_VALID p).testBit slot then some slot else none

/-- HEAD of a flit (Table 8.2). -/
def flitHead (seq ack vc kind : Nat) : Nat := seq % 4096 * 2 ^ 20 + ack % 4096 * 2 ^ 8 + vc % 16 * 2 ^ 4 + kind % 16

/-- CREDIT of a flit (Table 8.2). -/
def flitCredit (cvc : Nat) (crsp : Bool) (count : Nat) : Nat := cvc % 16 * 2 ^ 28 + b2n crsp * 2 ^ 27 + count % 2 ^ 11 * 2 ^ 16

/-- n bytes: the first ones of a list, then zeros. -/
def filled (n : Nat) (bs : List Byte) : List Byte := (bs ++ List.replicate n 0).take n

/-- The 256 bytes of a flit in clear (Table 8.2, R10). -/
def flitBytes (head credit : Nat) (area : List Byte) : List Byte :=
  let b := leBytes 4 head ++ leBytes 4 credit ++ filled 244 area
  b ++ leBytes 4 (crc32 b)

/-- HEAD of a REQ or RSP flit (Table 8.2). -/
def TxFlit.head (f : TxFlit) : Nat := flitHead f.seq f.ack f.vc (if f.rsp then 2 else 1)

/-- A REQ or RSP flit on the wires of port p. An encrypted one has ENC and its key slot in CREDIT, and in place of its packet bytes the
ciphertext and the tag as they were sent first (R483, R484). -/
def TxFlit.msg (p : Nat) (f : TxFlit) : Msg :=
  match f.sealed with
  | none => ⟨.flit, p, [], flitBytes f.head 0 f.payload⟩
  | some (slot, area) => ⟨.flit, p, [], flitBytes f.head (2 + slot % 2) area⟩

/-- Packet bytes that a flit of port p carries: 228 where it encrypts (R483). -/
def State.flitCap (s : State) (p : Nat) : Nat := if (s.txSlot p).isSome then 228 else 244

/-- A REQ or RSP flit of a port goes: under the active key it is encrypted with that key's count, its first 8 bytes being the additional
authenticated data (R483, R484). -/
def State.sendFlit (s : State) (p : Nat) (f : TxFlit) : State :=
  let x := s.port p
  match s.txSlot p with
  | none => (s.setPort p (x.sent 244 f)).sends [f.msg p]
  | some slot =>
    let key := p * 4 + slot
    let ks := kget KeySlot.zero s.fabric.keys key
    let aad := leBytes 4 f.head ++ leBytes 4 (2 + slot % 2)
    let g := { f with sealed := some (slot, gcmSeal ks.bytes ks.iv aad (filled 228 f.payload)) }
    let s1 := (s.setPort p (x.sent 228 g)).setFabric fun r => { r with keys := kset KeySlot.zero r.keys key { ks with count := ks.count + 1 } }
    s1.sends [g.msg p]

/-- A flit without packet bytes on the wires of port p: CREDIT or NAK; it names the SEQ that the next REQ or RSP flit will take and the
highest SEQ received in order (Table 8.2). -/
def State.bareFlit (s : State) (p kind credit : Nat) : Msg :=
  ⟨.flit, p, [], flitBytes (flitHead (s.port p).txNext ((s.port p).rxNext + 4095) 0 kind) credit []⟩

/-- Send flits while the retry buffer has room and credits last. -/
def State.pump (s : State) (p : Nat) : Nat → State
  | 0 => s
  | fuel + 1 =>
    let x := s.port p
    if s.portState p ≠ portUP ∨ 512 ≤ x.buffer.length then s
    else
      match x.next (s.flitCap p) with
      | none => s
      | some f => State.pump (s.sendFlit p f) p fuel

/-- Send all that may go. -/
def State.pumpAll (s : State) (p : Nat) : State := s.pump p (s.port p).backlog

/-- A packet joins the traffic of a port. -/
def State.pushPacket (s : State) (p : Nat) (k : Packet) : State :=
  let x := s.port p
  let key := pool k.vc k.rsp
  let t := kget TxStream.zero x.streams key
  (s.setPort p { x with streams := kset TxStream.zero x.streams key ⟨t.pkts ++ [k], t.bytes ++ k.bytes⟩ }).pumpAll p

/-! ### Choice of a port (R227, R232 to R234) -/

/-- The port of a bundle that a packet hashes to, past those that have left their slots. -/
def State.choosePort (s : State) (dir : Nat) (k : Packet) : Option Nat :=
  let ps := s.bundle dir
  let start := mix k.flow % max 1 ps.length
  (ps.drop start ++ ps.take start).find? fun p => s.portSlot p

/-- Whether a port still holds a packet of a flow and kind that the peer has not acknowledged. -/
def State.flowOn (s : State) (p key : Nat) : Bool :=
  let x := s.port p
  let hit (l : List Packet) : Bool := l.any fun k => k.flowKind == key
  (x.buffer.any fun f => hit f.pkts) || (x.streams.any fun t => hit t.2.pkts) || hit x.parked

/-- Give a packet to a port: in RETRAIN it waits there. -/
def State.toPort (s : State) (p : Nat) (k : Packet) : State :=
  let s1 := (s.setFabric fun r => { r with flowPort := kset 0 r.flowPort k.flowKind (p + 1) })
  if s1.portState p = portUP then s1.pushPacket p k
  else s1.setPort p { s1.port p with parked := (s1.port p).parked ++ [k] }

/-- Send a packet on a chosen port; a flow that moves back to its slot waits until its substitute is acknowledged (R234). -/
def State.sendChosen (s : State) (k : Packet) (o : Option Nat) : State :=
  match o with
  | none => s
  | some p =>
    let last := kget 0 s.fabric.flowPort k.flowKind
    let waits := s.fabric.parked.any fun x => x.key == k.flowKind
    if waits || (last != 0 && last != p + 1 && s.flowOn (last - 1) k.flowKind) then
      s.setFabric fun r => { r with parked := r.parked ++ [⟨k.flowKind, p, k⟩] }
    else s.toPort p k

/-- Send a packet on the bundle of a direction (R231, R234). -/
def State.toBundle (s : State) (dir : Nat) (k : Packet) : State := s.sendChosen k (s.choosePort dir k)

/-! ### Discards (R233, R236) -/

/-- Discard a packet at die d: counted; a request, a management packet too, is answered UNREACHABLE to its issuer, a response is
dropped. -/
def State.dropPacket (s : State) (d : Nat) (k : Packet) : State :=
  let s1 := s.addF DROPPED_PACKETS_COUNT d 0 1
  if k.rsp then s1 else s1.sendPacket .response d (k.head.reply k.answersData s.job stUNREACHABLE false) [] []

/-! ### Routing (R225, R226, R235, R236) -/

/-- The dimension that a packet moves along next. -/
def State.routeDim (s : State) (r : Nat) : Option Nat :=
  (List.range 3).find? fun dim => s.coordOf s.device dim != routeCoord r dim

/-- Whether the link that a packet came over from the direction of port DIR `dir` is its dimension's dateline: it came in at
coordinate 0 going plus, or at n − 1 going minus (R226). -/
def State.cameOverDateline (s : State) (dir : Nat) : Bool :=
  let dim := dir / 2
  let a := s.coordOf s.device dim
  -- a port of direction minus receives what travels plus
  if dir % 2 = 1 then a == 0 else a + 1 == s.dimSize dim

/-- Where a packet goes at its destination (R225): the die that holds a request's target address, the die that a response names, the
Camp die for management packets. -/
def packetDie (k : Packet) : Nat :=
  if 0x80 ≤ k.op then campDie else if k.rsp then k.head.dst / 16384 else addressDie k.head.address

/-- A packet whose route word counts its next hop goes along a dimension: on the bundle of its sign with a VC half, round the other way
with half 0 where that bundle is dead (R235), or it is discarded. -/
def State.alongDim (s : State) (d dim half : Nat) (k : Packet) : State :=
  let r := k.route.toNat
  let sign := routeSign r dim
  let dir := 2 * dim + (if sign = 2 then 1 else 0)
  if !s.bundleDead dir then s.toBundle dir { k with vc := k.vc / 2 * 2 + half }
  else if routeTurned r dim ∨ s.bundleDead (dir ^^^ 1) then s.dropPacket d k
  else
    let lo := 47 - 2 * dim
    let r1 := r - sign * 2 ^ lo + (3 - sign) * 2 ^ lo + 2 ^ (42 - dim)
    s.toBundle (dir ^^^ 1) { k with route := BitVec.ofNat 64 r1, vc := k.vc / 2 * 2 }

/-- Forward a packet at this package: `from` is the DIR of the port it came in on, if any. -/
def State.forward (s : State) (d : Nat) (from_ : Option Nat) (k : Packet) : State :=
  let r := k.route.toNat
  match s.routeDim r with
  | none =>
    if routeHops r = 255 then s.dropPacket d k
    else s.emit .other s.device [0, packetDie k, k.vc, b2n k.rsp] k.bytes
  | some dim =>
    let half := match from_ with
      | some dir => if dir / 2 = dim then (if s.cameOverDateline dir then 1 else k.vc % 2) else 0
      | none => 0
    s.alongDim d dim half { k with route := BitVec.ofNat 64 (if routeHops r = 255 then r else r + 2 ^ 32) }

/-! ### Reports, roles at the ports' events (R237, R241) -/

/-- Broadcast ELECT (Table 8.9). -/
def State.sendElect (s : State) : State :=
  (s.mgmt 0x81 0x3FFF [s.device, s.sec.serial, s.fabric.termSeen])

/-- The package becomes CANDIDATE (R241). -/
def State.becomeCandidate (s : State) : State :=
  let s1 := s.setRole 1
  ((s1.setFabric fun r => { r with
      heard := false, lowerHeard := false, aloneSince := s1.fabricNow, nextBeat := s1.fabricNow + 1000000 })).sendElect

/-- An ALONE package whose ports are all UP or FAILED, and that heard no HEARTBEAT, stands as candidate; a port assignment that
breaks R223 is never admitted. -/
def State.tryCandidate (s : State) : State :=
  if s.role ≠ 0 ∨ s.fabric.heard ∨ s.fabric.joinAt.isSome then s
  else if !s.assignmentOk then s.setF MEMBER_STATE_CAUSE 0 0 1
  else
    let ps := (List.range 16).filter fun p => s.dirSet p != 6
    if !ps.isEmpty && ps.all (fun p => s.portState p == portUP || s.portState p == portFAILED) then s.becomeCandidate else s

/-! ### Failure and return of a port -/

/-- Packets that a port holds and that have no unacknowledged flit: they may move to another port whole (R233, assumption 67). -/
def Port.unsent (x : Port) : List Packet :=
  let sent := x.buffer.flatMap (·.pkts)
  let held := (x.streams.flatMap fun t => t.2.pkts) ++ x.parked
  (held.filter fun k => !sent.contains k).eraseDups

/-- Empty a port: packets with a flit unacknowledged are discarded, the others move to another port of the bundle (R233,
R227), or, where the bundle is dead now, turn by R235; so do those that wait to move back to it. Their HOPS counts this hop already. `x` is
the port as it stood. -/
def State.spillPort (s : State) (p : Nat) (x : Port) : State :=
  let lost := (x.buffer.flatMap (·.pkts)).eraseDups
  let s1 := lost.foldl (fun u k => u.dropPacket (p / 4) k) s
  let back := (s1.fabric.parked.filter fun y => y.port == p).map (·.pkt)
  let s2 := s1.setFabric fun r => { r with parked := r.parked.filter fun y => y.port != p }
  (x.unsent ++ back).foldl (fun u k => if u.bundleDead x.dir then u.alongDim (p / 4) (x.dir / 2) (k.vc % 2) k else u.toBundle x.dir k) s2

/-- A port becomes FAILED for a cause (R233, R237). -/
def State.failPort (s : State) (p cause : Nat) : State :=
  let x := s.port p
  let s1 := (((s.setPortF PORT_STATE_STATE p portFAILED).setPortF PORT_STATE_CAUSE p cause).setPortF PORT_STATE_WIDTH p 0).setPort p
    x.emptied
  ((s1.spillPort p x).noteHealth.linkReport p).tryCandidate

/-- A port becomes UP (R239): a bundle that comes back is reported. -/
def State.raisePort (s : State) (p : Nat) : State :=
  let dead := s.bundleDead (s.port p).dir
  let s1 := s.setPortF PORT_STATE_STATE p portUP
  (s1.noteHealth.linkTell p dead).tryCandidate

/-- Whether the keys that REQUIRE asks for are installed on a port (R486). -/
def State.keysReady (s : State) (p : Nat) : Bool :=
  !(s.getF CRYPT_EXPERT_REQUIRE (p / 4) 0).testBit (p % 4) ||
  ((s.txSlot p).isSome && s.portF KEY_CTRL_RX_VALID p != 0)

/-- A port in TRAILHEAD whose exchange has passed becomes UP once its keys are there. -/
def State.tryRaise (s : State) (p : Nat) : State :=
  if s.portState p = portTRAILHEAD ∧ (s.port p).verified ∧ s.keysReady p then s.raisePort p else s

/-- A port enters RETRAIN (R232): its calibration image is restored. -/
def State.retrain (s : State) (p : Nat) : State :=
  let x := s.port p
  ((s.restoreShells (portShells p)).setPort p { x with
    keepWidth := s.portF PORT_STATE_WIDTH p
    deadline := s.fabricNow + max 1 (s.getF RIDGE_EXPERT_RETRAIN_US (p / 4) 0) * 1000 }).setPortF PORT_STATE_STATE p portRETRAIN |>.noteHealth

/-- Replay the retry buffer from a SEQ on, as it is stored (R218, R484). -/
def State.replay (s : State) (p seq : Nat) : State :=
  let again := (s.port p).buffer.dropWhile fun f => f.seq != seq
  (s.sends (again.map fun f => f.msg p)).satF PORT_ERRORS_REPLAYS (p / 4) (p % 4) again.length

/-- A NAK names a SEQ (R218): replay; RETRY_LIMIT replays in succession that begin at one flit begin RETRAIN (assumption 118). -/
def State.takeNak (s : State) (p seq : Nat) : State :=
  let x := s.port p
  if !x.buffer.any (fun f => f.seq == seq) then s
  else
    let n := if x.replaySeq = seq ∧ x.replays ≠ 0 then x.replays + 1 else 1
    let s1 := s.setPort p { x with replaySeq := seq, replays := n }
    let s2 := s1.replay p seq
    if max 1 (s2.getF RIDGE_EXPERT_RETRY_LIMIT (p / 4) 0) ≤ n then s2.retrain p else s2

/-- An ACK covers flits up to a SEQ (R218). -/
def State.takeAck (s : State) (p ack : Nat) : State :=
  let x := s.port p
  if x.buffer.any fun f => f.seq == ack then
    let left := (x.buffer.dropWhile fun f => f.seq != ack).drop 1
    s.setPort p { x with buffer := left, replays := 0 }
  else s

/-! ### Receiving (R216 to R219, R483 to R485) -/

/-- The fields of a received flit (Table 8.2, R483). -/
def Flit.ofBytes (raw : List Byte) : Flit :=
  let h := leNat (raw.take 4)
  let c := leNat ((raw.drop 4).take 4)
  ⟨bits h 31 20, bits h 19 8, bits h 7 4, bits h 3 0, bits c 31 28, c.testBit 27, bits c 26 16, c.testBit 1, bits c 0 0⟩

/-- Whether a received flit passes its CRC and has a KIND that is not reserved (R10, R216). -/
def flitIntact (raw : List Byte) : Bool :=
  leNat (raw.drop 252) == crc32 (raw.take 252) && decide ((Flit.ofBytes raw).kind ≤ 4)

/-- Received bytes past the zeros that fill a flit up: on a link the upper half of a route word is never 0, since its HOPS is 1 or more
(assumption 33). -/
def pastFill : Nat → List Byte → List Byte
  | 0, bs => bs
  | fuel + 1, bs =>
    if 8 ≤ bs.length ∧ leNat ((bs.drop 4).take 4) = 0 then pastFill fuel (bs.drop 4) else bs

/-- Take whole packets off received bytes: packets and the rest (R217). -/
def takePackets (vc : Nat) (rsp : Bool) : Nat → List Byte → List Packet × List Byte
  | 0, bs => ([], bs)
  | fuel + 1, bs0 =>
    let bs := pastFill (bs0.length / 4) bs0
    if bs.length < 40 then ([], bs)
    else
      let k : Packet := ⟨BitVec.ofNat 64 (leNat (bs.take 8)), vc, rsp, (bs.drop 8).take 32, []⟩
      let n := payloadLen k
      if bs.length < 40 + n then ([], bs)
      else
        let r := takePackets vc rsp fuel (bs.drop (40 + n))
        ({ k with payload := (bs.drop 40).take n } :: r.1, r.2)

/-- A pool that has taken a flit, which brought whole packets and left `rest` (R219): a flit counts to the last packet that has bytes
in it. -/
def RxPool.took (y : RxPool) (ks : List Packet) (rest : List Byte) : RxPool :=
  if ks.isEmpty then { y with bytes := rest, opened := y.opened + 1 }
  else
    let ends := decide (rest.length ≤ 4)
    let new := ks.zipIdx.map fun e =>
      (⟨e.1, (if e.2 = 0 then y.opened else 0) + (if e.2 + 1 = ks.length ∧ ends then 1 else 0), false⟩ : RxPacket)
    ⟨rest, if ends then 0 else 1, y.held ++ new⟩

/-- Accept a REQ or RSP flit: its bytes join their stream, and whole packets come in (R217, R219). -/
def State.acceptFlit (s : State) (p vc : Nat) (rsp : Bool) (payload : List Byte) : State :=
  let x := s.port p
  let key := pool vc rsp
  let y := kget RxPool.zero x.rx key
  let bs := y.bytes ++ payload
  let r := takePackets vc rsp (bs.length / 40 + 1) bs
  let s1 := s.setPort p { x with rxNext := (x.rxNext + 1) % 4096, rx := kset RxPool.zero x.rx key (y.took r.1 r.2) }
  r.1.foldl (fun u k => u.emit .other (65536 + p) [1, k.vc, b2n k.rsp] k.bytes) s1

/-- A flit that a receiver refuses: one NAK, whose ACK + 1 is the expected SEQ (R218, assumption 58). -/
def State.sendNak (s : State) (p : Nat) : State := s.sends [s.bareFlit p 4 0]

/-! ### The receive buffer (R219) -/

/-- Whether a packet that came in still waits for its next port. -/
def State.packetWaits (s : State) (k : Packet) : Bool :=
  let hit (l : List Packet) : Bool := l.any fun x => x.header == k.header && x.payload == k.payload && x.rsp == k.rsp
  (s.fabric.ports.any fun e => hit e.2.parked || e.2.streams.any fun t => hit t.2.pkts) || hit (s.fabric.parked.map (·.pkt))

/-- The first packet of a pool that has not been forwarded. -/
def RxPool.first (y : RxPool) : Option Packet := (y.held.find? fun h => !h.taken).map (·.pkt)

/-- The first packet of a pool is forwarded. -/
def RxPool.take (y : RxPool) : RxPool :=
  let done := y.held.takeWhile (·.taken)
  { y with held := done ++ match y.held.drop done.length with
    | h :: rest => { h with taken := true } :: rest
    | [] => [] }

/-- Flits of packets that have left the package leave port p's receive buffer, and their credits go back (R219): a flit's with
the last packet that has bytes in it (assumption 118). -/
def State.giveCredits (s : State) (p : Nat) : State :=
  (s.port p).rx.foldl (fun u e =>
    let gone := e.2.held.takeWhile fun h => h.taken && !s.packetWaits h.pkt
    let n := (gone.map (·.flits)).foldl (· + ·) 0
    let x := u.port p
    let v := u.setPort p { x with rx := kset RxPool.zero x.rx e.1 { e.2 with held := e.2.held.drop gone.length } }
    if n = 0 then v else v.sends [v.bareFlit p 3 (flitCredit (e.1 / 2) (e.1 % 2 == 1) n)]) s

/-- The same for every port that is UP. -/
def State.giveAllCredits (s : State) : State :=
  (List.range 16).foldl (fun u p => if u.portState p = portUP then u.giveCredits p else u) s

/-- The packets of `from` that may move to the port they hash to now (R234). -/
def State.flowsReturn (s : State) (p : Nat) : State :=
  let mine := s.fabric.parked.filter fun x => x.port == p
  mine.foldl (fun u x =>
    let last := kget 0 u.fabric.flowPort x.key
    if !u.fabric.parked.contains x ∨ (last ≠ p + 1 ∧ last ≠ 0 ∧ u.flowOn (last - 1) x.key) then u
    else ((u.setFabric fun r => { r with parked := r.parked.erase x })).toPort p x.pkt) s

end Sys2Proof.Machine
end

