-- ==== Sys2Proof/Machine/MassifOps.lean ====
section
/-!
DEFINITION. Roles and membership as shared operations (R241 to R245): joining, becoming the summit, leaving a role, reports to
a new summit, the admission policy.
-/
namespace Sys2Proof.Machine

open Sys2Proof

/-- CONTOUR_REPORT to the summit (Table 9.2). -/
def State.sendReport (s : State) : State :=
  let cur := max (max (s.contourOf 0) (s.contourOf 1)) (max (s.contourOf 2) (s.contourOf 3))
  let s1 := s.mgmt 0x91 (s.getF SUMMIT_INFO_SUMMIT_ID 0 0) [s.job, s.packagePos, cur]
  (s1.setContour fun r => { r with reported := s1.packagePos, nextReport := s1.fabricNow + 5000 })

/-- STEP_STATE as it stands (R327). -/
def State.sendState (s : State) : State :=
  if s.job = 0 then s
  else s.sendStepState (if s.corState = 3 then 1 else if s.corState = 5 then 3 else 4) stDONE 0 0

/-- Follow a HEARTBEAT's summit. -/
def State.followSummit (s : State) (term summit standby : Nat) : State :=
  let s1 := ((s.setF MEMBER_STATE_TERM 0 0 term).setF SUMMIT_INFO_SUMMIT_ID 0 0 summit).setF SUMMIT_INFO_STANDBY_ID 0 0 standby
  (s1.setFabric fun r => { r with
      heard := true, lastBeat := s1.fabricNow, beats := r.beats + 1, termSeen := max r.termSeen term, beatTerm := term })

/-- The package becomes JOINING once a summit is known, and asks for its report's signature (R241, R481); one whose port assignment breaks
R223 is never admitted, and asks for none. -/
def State.startJoin (s : State) (version : Nat) : State :=
  if !s.assignmentOk then s.setF MEMBER_STATE_CAUSE 0 0 1 else
  let s1 := s.setRole 2
  ((s1.setFabric fun r => { r with version := version, joinAt := none })).wantSign .join

/-- The roles' timers at a new summit: heartbeats, PRESENT, the idle contour; and the link map known so far as the ends' reports
(R237, R243). -/
def State.startSummit (s : State) (term : Nat) : State :=
  let now := s.fabricNow
  let s1 := ((s.setRole 5).setF MEMBER_STATE_TERM 0 0 term).setF SUMMIT_INFO_SUMMIT_ID 0 0 s.device
  let s2 := s1.setFabric fun r => { r with
    nextBeat := now, termSeen := max r.termSeen term, heard := true, lastBeat := now, reports := s1.mapReports }
  let s3 := s2.setSummit fun x => { x with
    jobs := [], idle := max x.idle (stepOfValue (kget 0 x.heardValues 0 - 1)), idleAt := now + 100000000, lastSent := now
    takeover := none }
  s3.setTest fun x => { x with slots := [], graceUntil := now }

/-- A candidate becomes the summit (R241): TERM, itself as the one member, membership and generation published. -/
def State.electSelf (s : State) : State :=
  let s1 := s.startSummit (s.fabric.termSeen + 1)
  (s1.publishMembers [⟨s1.device, s1.sec.serial, s1.job, s1.fabricNow, none⟩]).publishMap

/-- The standby takes over (R243): TERM + 1, a membership without the old summit, a new generation, the contour in 100 µs (R253).
Every other job's contour resumes from what this package heard. -/
def State.takeOver (s : State) : State :=
  let old := s.getF SUMMIT_INFO_SUMMIT_ID 0 0
  let s1 := s.startSummit (s.term + 1)
  let now := s1.fabricNow
  let ms := (s1.fabric.members.filter fun m => m.device != old).map fun m => { m with present := now }
  let jobs := ((ms.map (·.job)).filter (· != 0)).eraseDups
  let s2 := s1.setSummit fun m => { m with
    jobs := jobs.map s1.freshJob
    takeover := some (now + 100000) }
  let s3 := (s2.setTest fun r => { r with
    graceUntil := now + max 1 (s2.getF ST_EXPERT_SLOT_MS 0 0) * 1000000 })
  (s3.publishMembers ms).publishMap

/-- The NONCE of the report that a JOIN of a package with a serial number carries to a summit (R481). -/
def joinNonce (summit term version serial : Nat) : List Byte :=
  sha256 (leBytes 2 summit ++ leBytes 2 term ++ leBytes 4 version ++ leBytes 8 serial)

/-- Whether the proof of a joiner's evidence holds at this summit (R474, R481): the identity proof over the report, and the report's NONCE for the
TERM and membership version that the JOIN names. -/
def State.joinProof (s : State) (term version : Nat) (evidence : List Byte) : Bool :=
  let report := evidence.take 208
  (report.drop 16).take 32 == joinNonce s.device term version (fieldOf report 8 8) &&
    proofHolds s.sec.issuerKeys (fieldOf report 4 4) (fieldOf report 8 8) report (evidence.drop 208)

/-- Whether a joiner's report (Table 19.7) passes the admission policy (R481). -/
def State.policyPass (s : State) (report : List Byte) : Bool :=
  let partA := fieldOf report 4 4 == partCode false
  !s.flag SEC_EXPERT_POLICY_EN 0 0 ||
  (match s.sec.policy with
   | none => partA
   | some y =>
     (partA || y.allowE) &&
     (List.range 5).all fun i => !y.required.testBit i || y.pairs.contains (i, fieldOf report (0x30 + 32 * i) 32))

end Sys2Proof.Machine
end

