-- ==== Sys2Proof/Machine/FenceOps.lean ====
section
/-!
DEFINITION. Fencing and rejoining a die as shared operations (R425, R426, R430 to R435, R39, R188, R207, R260, R342), and the
end of a self-test slot (R488 to R492).
-/
namespace Sys2Proof.Machine

open Sys2Proof

def State.setFence (s : State) (d : Nat) (x : DieFence) : State := { s with fences := kset DieFence.zero s.fences d x }

/-- The two Saddle links of a die (Table 16.1). -/
def dieLinks (d : Nat) : List Nat := [linkOf d (ringNext d), linkOf d (ringPrev d)]

/-- The die at the other end of a link. -/
def otherEnd (l d : Nat) : Nat := let e := linkEnds l; if e.1 = d then e.2 else e.1

/-- Whether the ledger of a link still holds a width (R423, Table 16.2). -/
def State.ledgerLive (s : State) (l : Nat) : Bool := s.getF SADDLE_LEDGER_WIDTH 0 l != 3

/-! ### Self-test slots (R488 to R492) -/

/-- The die code of a target (Table 20.1): a Crest die, or 4 for the Camp die. -/
def targetDie (t : Nat) : Nat :=
  let i := t % 256
  match t / 256 with
  | 1 => i / 4
  | 2 => i / 4
  | 3 => let e := linkEnds (i / 2); if i % 2 = 0 then e.1 else e.2
  | 4 => i / 3
  | 5 => if i < 4 then i else 4
  | 6 => if 8 ≤ i ∧ i < 12 then i - 8 else 4
  | _ => if i < 4 then i else 4

/-- A slot ends (R489, R491): RESULT, counts, the SELFTEST record, TEST_DONE to the summit and the peer. -/
def State.endTest (s : State) (result margin : Nat) (ratio : Nat) : State :=
  let t := s.getF ST_STATUS_TARGET 0 0
  let s1 := ((s.setF ST_STATUS_STATE 0 0 0).setF ST_STATUS_RESULT 0 0 result).setF ST_STATUS_MARGIN 0 0 margin
  let s2 := if result = 0 then s1.satF ST_COUNTS_PASSES 0 0 1
    else if result = 2 then s1.satF ST_COUNTS_ABORTS 0 0 1 else s1.satF ST_COUNTS_FAILS 0 0 1
  let s3 := s2.raise 0 0x60 (targetDie t) (t % 256) result t margin ratio
  let s4 := s3.mgmt 0x9A (s3.getF SUMMIT_INFO_SUMMIT_ID 0 0) [t, result]
  let s5 := if t / 256 = 2 then s4.mgmt 0x9A s4.selftest.peer [t, result] else s4
  (s5.setTest fun r => { r with draining := false, slotEnds := none })

/-- A test of a target on die d is aborted by the die's fencing (Table 20.3); a tested stack goes to self-refresh with the die's
others, and its image is restored when the die rejoins. -/
def State.abortTest (s : State) (d : Nat) : State :=
  let t := s.getF ST_STATUS_TARGET 0 0
  if s.getF ST_STATUS_STATE 0 0 = 3 ∧ targetDie t = d then
    let s1 := s.endTest 2 0 0
    if t / 256 = 4 ∧ s.stackState (t % 256) = 1 then s1.setF STACK_STATE_STATE d (t % 256 % 3) 2 else s1
  else s

/-! ### Connection of the dies (R426) -/

/-- The dies reachable from a set over live links, one crossing further. -/
def State.spread (s : State) (set : List Nat) : List Nat :=
  (List.range 4).filter fun d => s.dieRunning d &&
    (set.contains d || (dieLinks d).any fun l => s.linkLive l && set.contains (otherEnd l d))

/-- The connected set of a die. -/
def State.component (s : State) (d : Nat) : List Nat := s.spread (s.spread (s.spread [d]))

/-- The set that is kept: the largest, and of two the one with the lowest die. -/
def State.keptSet (s : State) : List Nat :=
  s.liveDies.foldl (fun b d => let c := s.component d; if b.length < c.length then c else b) []

/-! ### Fencing -/

/-- What a die loses in a die reset (Table 18.3): cores, mailboxes and flag words, queues, engines, tracker, fields with D. Responses that
come later to the operations it had issued are still discarded (R188). -/
def State.resetDie (s : State) (d : Nat) : State :=
  let rings := ((s.tracker d).entries.map (·.req) ++ (s.tracker d).waiters).filterMap fun r =>
    match r.who with | .ring h => some h | _ => none
  let exps := s.upd.exports.filter fun x => x.die == d
  let t := s.tracker d
  let s1 := s.setTracker d { Tracker.zero with late := t.late ++ t.entries.flatMap s.unanswered }
  let s2 := (rings ++ exps.filterMap (·.handle)).eraseDups.foldl (fun u h => u.descDone h stUNREACHABLE 0 0) s1
  let s3 := s2.setUpd fun u => { u with exports := u.exports.filter fun x => x.die != d }
  let s4 := s3.setArrivals (s3.arrivals.filter fun w => match w.what with | .store e _ _ _ _ => e != d | _ => true)
  let s5 := s4.queueReset d
  let s6 := { s5 with
    cores := kfilter (fun k => k / 96 != d) s5.cores
    switchbacks := kfilter (· != d) s5.switchbacks
    traverses := kfilter (· != d) s5.traverses }
  let base := 0x800000000000 + d * 0x10000000 + 0x8000000
  let off (k : Nat) : Bool := !(decide (base ≤ k) && decide (k < base + 0x4000000))
  let s7 := { s6 with mem := kfilter off s6.mem, poison := kfilter (fun k => off (4 * k)) s6.poison }
  s7.resetDieRegs d

/-- Operations of other dies to and from die d that have not left complete UNREACHABLE, as does what waits for the die; its stacks
keep their contents (R39, R431, Table 6.4). -/
def State.cutDie (s : State) (d : Nat) : State :=
  let toN (a : Nat) : Bool := decide (place a ≠ .unmapped) && (place a).die == d
  let s1 := (List.range 4).foldl (fun u e =>
    u.endWhere e stUNREACHABLE fun x => x.phase.unsent && (u.ownExtents x.req).any fun y => toN y.1) s
  ((List.range 3).foldl (fun u i => u.selfRefresh (3 * d + i)) s1).releaseAll

/-- Ports of a fenced die stop; this package shows them FAILED (R431); their keys go (R486). -/
def State.stopPorts (s : State) (d : Nat) : State :=
  (List.range 4).foldl (fun u i =>
    let p := 4 * d + i
    let x := u.port p
    let live := u.portState p == portUP || u.portState p == portRETRAIN || u.portState p == portTRAINING || u.portState p == portTRAILHEAD
    let u1 := (u.clearKeys p).setPort p { x.emptied with rx := [] }
    let u2 := if x.dir < 6 then u1.setPortF PORT_STATE_STATE p portFAILED else u1
    let u3 := u2.spillPort p x
    if live then u3.linkReport p else u3) s

/-- The records and reports of a fence (R432). -/
def State.fenceReport (s : State) (d cause : Nat) : State := (s.raise 2 0x50 d 0 0 cause 0 0).sendState

/-- Everything stops when no die runs (R435). -/
def State.tryFatal (s : State) : State :=
  if s.power.stopped.isSome ∨ !s.liveDies.isEmpty then s
  else
    let s1 := s.sendLeave.raise 3 0x51 campDie 0 0 15 0 0
    (s1.setPower fun x => { x with stopped := some 0x51 }).setPins fun x => { x with faultLow := true }

/-- A die fenced while the package collapses owes the collapse's steps, and the package no longer waits for it (R342). -/
def State.oweCollapse (s : State) (d : Nat) : State :=
  if s.corState = 4 ∧ (s.cor.draining.contains d ∨ s.cor.restoring.contains d) then
    (s.setCor fun c => { c with
      draining := c.draining.filter (· != d), restoring := c.restoring.filter (· != d), owed := c.owed ++ [d] }).collapseReport
  else s

/-- Every die takes the DEAD_WIRE_DEGRADE that its links train with next. -/
def State.takeDegrade (s : State) (x : Bool) : State :=
  (List.range 4).foldl (fun u k => u.setFence k { u.fenceOf k with degrade := x }) s

/-- A Saddle link goes DOWN: nothing waits at its ends. -/
def State.saddleDown (s : State) (l : Nat) : State :=
  ((s.setSaddle (2 * l) { s.saddle (2 * l) with hold := [] }).setSaddle (2 * l + 1) { s.saddle (2 * l + 1) with hold := [] }).setF
    SADDLE_STATUS_STATE 0 l 3

/-- The Col link and the Saddle links of die d go DOWN. -/
def State.linksDown (s : State) (d : Nat) : State :=
  (dieLinks d).foldl (fun u l => u.saddleDown l) ({ s with cols := kset ColLink.zero s.cols d ColLink.zero }.setF COL_STATUS_STATE 0 d 3)

/-- A die goes to FENCED for a cause, with its count, the settings its rejoin uses, and its links (R430, R431). -/
def State.fenceMark (s : State) (d cause : Nat) : State :=
  let f := s.fenceOf d
  let causes := if f.causes.contains cause then f.causes else f.causes ++ [cause]
  let s1 := ((s.setF DIE_STATE_STATE 0 d 1).setF DIE_STATE_CAUSE 0 d cause).satF DIE_STATE_FENCES 0 d 1
  let s2 := s1.setFence d { f with
    causes := causes, auto := s.flag PKG_EXPERT_AUTO_REJOIN 0 0, stableMs := max 1 (s.getF PKG_EXPERT_CLOCK_STABLE_MS 0 0) }
  (s2.takeDegrade (s.flag PKG_EXPERT_DEAD_WIRE_DEGRADE 0 0)).linksDown d

/-- What a running die leaves behind when it is fenced (R39, R188, R342, R431, Table 18.3). -/
def State.fenceStop (s : State) (d : Nat) : State := ((((s.redFence d).updFence d).abortTest d).cutDie d).resetDie d

/-- A fenced die goes to HELD where AUTO_REJOIN was 0 at its fence, else to RESETTING once its causes have all cleared; one with both
links DOWN stays (R433; assumption 35). -/
def State.advanceDie (s : State) (d : Nat) : State :=
  if s.power.stopped.isSome ∨ s.dieState d ≠ 1 ∨ !(dieLinks d).any s.ledgerLive then s
  else if !(s.fenceOf d).auto then s.setF DIE_STATE_STATE 0 d 4
  else if (s.fenceOf d).causes.isEmpty then s.setF DIE_STATE_STATE 0 d 2
  else s

/-- Fence one die for a cause (R430 to R433). A further cause of a die that is fenced joins the others. -/
def State.fenceOne (s : State) (d cause : Nat) : State :=
  let f := s.fenceOf d
  let causes := if f.causes.contains cause then f.causes else f.causes ++ [cause]
  let st := s.dieState d
  if st = 1 ∨ st = 4 then (s.setFence d { f with causes := causes }).setF DIE_STATE_CAUSE 0 d cause
  else
    let s3 := s.fenceMark d cause
    let s4 := if s.dieRunning d then ((s3.fenceStop d).stopPorts d).oweCollapse d else s3
    ((s4.fenceReport d cause).repath.advanceDie d).noteHealth

/-- Dies outside the kept set are fenced with CAUSE 5 (R426). -/
def State.isolate (s : State) : State :=
  let kept := s.keptSet
  (s.liveDies.filter fun d => !kept.contains d).foldl (fun u d => u.fenceOne d 5) s

/-- A cause clears. -/
def State.clearCause (s : State) (d cause : Nat) : State :=
  let f := s.fenceOf d
  (s.setFence d { f with causes := f.causes.filter (· != cause) }).advanceDie d

/-- Dies fenced as isolated that a running die reaches again (R426). -/
def State.reconnect (s : State) : State :=
  (List.range 4).foldl (fun u d =>
    if (u.fenceOf d).causes.contains 5 && (dieLinks d).any fun l => u.ledgerLive l && u.dieRunning (otherEnd l d)
    then u.clearCause d 5 else u) s

/-- Fence a die, and what follows: isolation, the package's end, and what was due. -/
def State.fence (s : State) (d cause : Nat) : State := ((s.fenceOne d cause).isolate.tryFatal).afterWork

/-- A rejoining die runs, with its link map's generation, its position at its contour's step and its gate words (R434); what the package
position rises by from there is reported again (R250). -/
def State.rejoinEnter (s : State) (d : Nat) : State :=
  let s1 := s.setF DIE_STATE_STATE 0 d 0
  let s2 := (s1.setF TRAIL_STATUS_GEN d 0 s1.fabric.gen).enterPos d
  let s2 := s2.setContour fun r => { r with reported := min r.reported s2.packagePos }
  s2.showGates d

/-- Restores of R434 steps 1 to 4 on die d once it runs; `refused` lists the stacks (0 to 2) whose restore their shell refuses (R44). The
journal is recovered at once with AUTO_RECOVER = 1, or where the die owes a collapse (R317, R342); what follows it waits for its writes
(R331, R341). -/
def State.rejoinWork (s3 : State) (d : Nat) (refused : List Nat) : State :=
  let s4 := (List.range 3).foldl (fun u i => u.leaveRefresh (3 * d + i) (refused.contains i)) s3
  let s5 := if s4.flag UPD_EXPERT_AUTO_RECOVER 0 0 then s4.recoverDie d
    else
      let w := s4.setUpd fun u => { u with waitRecover := if u.waitRecover.contains d then u.waitRecover else u.waitRecover ++ [d] }
      if w.cor.owed.contains d then w.recover d else w
  let s7 := (s5.setCor fun c => { c with rejoin := kset 0 c.rejoin d 1 }).rejoinNext d
  let s8 := if s7.red.launched.isSome ∧ s7.cor.sealedStep ≠ s7.red.launched then s7.redRejoin d else s7
  s8.actEntries d

/-- DEADLINE entries of a rejoined die that are past due when LATE_FIRE is 0 lapse (R260). -/
def State.lapseEntries (s : State) (d : Nat) : State :=
  if s.flag CONTOUR_EXPERT_LATE_FIRE d 0 then s.fireDue d
  else
    (List.range 256).foldl (fun u e =>
      if u.entryIsDue d e then
        ((u.setF EVENT_CTRL_ARMED d e 0).setF EVENT_CTRL_PENDING d e 0).setF EVENT_CTRL_STATUS d e stTIMEOUT
      else u) s

end Sys2Proof.Machine
end

