-- ==== Sys2Proof/Machine/Calibration.lean ====
section
/-!
DEFINITION. Calibration images of the analogue shells (Table 1.9, R43 to R45).
-/
namespace Sys2Proof.Machine

open Sys2Proof

/-- How many images the package has for each kind, by the row of Table 1.9: those of the DRAM arrays are in their PHYs' (Table 6.6); a
regulator image for each of 8 converters and 5 dies, a sensor image for each of 5 dies (Table 17.9, assumption 50). -/
def shellCount : Nat → Nat
  | 0 => 64
  | 1 => 1
  | 2 => 8
  | 3 => 8
  | 4 => 12
  | 5 => 0
  | 6 => 6
  | 7 => 13
  | _ => 5

/-- Whether a shell carries traffic (R45): a lane of a port that is UP, the CXL PHY while its link is up, a link end whose link is UP, a
stack that is ACTIVE; a PLL, regulator or sensor carries none (assumption 50). -/
def State.shellBusy (s : State) (kind inst : Nat) : Bool :=
  match kind with
  | 0 => s.portState (inst / 4) == portUP
  | 1 => s.host.linkUp
  | 2 => s.getF SADDLE_STATUS_STATE 0 (inst / 2) == 0
  | 3 => s.getF COL_STATUS_STATE 0 (inst / 2) == 0
  | 4 => s.stackState inst == 2
  | _ => false

/-- The image of a shell with a body: the header of Table 1.10, then the body (R43). -/
def State.shellImage (s : State) (kind inst : Nat) (body : List Byte) : List Byte :=
  leBytes 2 (Config.shellKind kind).toNat ++ leBytes 2 inst ++ leBytes 2 (Config.shellVersion kind).toNat ++
  leBytes 2 (s.sec.serial % 65536) ++ leBytes 4 body.length ++ leBytes 4 (crc32 body) ++ body

/-- Whether a shell takes an image (R44). An image whose body has not the stated length has no body that the CRC could match. -/
def State.imageOk (s : State) (kind inst : Nat) (image : List Byte) : Bool :=
  let h := s.shellImage kind inst []
  let body := image.drop 16
  image.take 8 == h.take 8 && leNat ((image.drop 8).take 4) == body.length && leNat ((image.drop 12).take 4) == crc32 body

/-- The body of the calibration that a shell works with. -/
def State.calibration (s : State) (kind inst : Nat) : List Byte := (s.shell (shellKey kind inst)).present.body (shellKey kind inst)

/-- CALIBRATION_SAVE: a shell's present calibration leaves as an image (R43, R45). -/
def execCalibrationSave (kind : Fin 9) (inst : Fin 64) (s : State) : Host.Outcome State Fault Refusal :=
  if shellCount kind ≤ inst.val then .next s
  else .next (s.emit .other 131077 [0, kind, inst, stDONE] (s.shellImage kind inst (s.calibration kind inst)))

/-- CALIBRATION_RESTORE: refused with NO_RESOURCE while the shell carries traffic; an image that fails its checks leaves the
calibration, sets the alarm and the default start point, and completes INVALID_DESCRIPTOR (R44, R45; the spec gives that status nowhere,
assumption 90). -/
def execCalibrationRestore (kind : Fin 9) (inst : Fin 64) (image : List Byte) (s : State) : Host.Outcome State Fault Refusal :=
  if shellCount kind ≤ inst.val then .next s
  else
    let k := shellKey kind inst
    let x := s.shell k
    if s.shellBusy kind inst then .next (s.emit .other 131077 [1, kind, inst, stNORES] [])
    else if s.imageOk kind inst image then
      .next ((s.setShell k { x with present := .image (image.drop 16), defaultStart := false }).emit .other 131077 [1, kind, inst, stDONE] [])
    else .next ((s.shellRefuse kind inst).emit .other 131077 [1, kind, inst, stINVALID] [])

end Sys2Proof.Machine
end

