-- ==== Sys2Proof/Machine/Contour.lean ====
section
/-!
DEFINITION. Meanings of the commands of the contour and the event table (chapter 09).
-/
namespace Sys2Proof.Machine

open Sys2Proof

/-- CONTOUR: a contour publication arrives (R248, R249, R252 to R255); a package outside the membership takes fabric time and, in job
0x0000, the idle contour. -/
def execContour (job term : Fin 65536) (delay value sendAt : Nat) (s : State) : Host.Outcome State Fault Refusal :=
  if s.deaf then .next s else
  if 3 ≤ s.role ∧ term.val < s.term then .next (s.satF SUMMIT_INFO_STALE_TERM 0 0 1)
  else
    let s1 := if s.isSummit then
        (List.range 4).foldl (fun u d => u.setF CONTOUR_BLK_STATUS_FTIME_VALID d 0 1)
          (s.setContour fun r => { r with lastPacket := some s.fabricNow })
      else s.takeClock sendAt delay
    let s1 := s1.noteTerm term
    let s2 := (s1.setSummit fun r => { r with heardValues := kset 0 r.heardValues job (value + 1) })
    let s3 := (if s2.moveDue job value then s2.moveJob job else s2).noteSeal job value
    if job.val = s3.job then .next ((s3.takeContour value sendAt).wakeByEntry) else .next s3

/-- DEADLINE_FIRE: a PENDING entry reaches its due time; it fires with the die's other entries that are due, in ascending number (R257,
R259). In Bivouac the package first wakes (R460). -/
def execDeadlineFire (d : Fin 4) (e : Fin 256) (s : State) : Host.Outcome State Fault Refusal :=
  if !(s.flag EVENT_CTRL_PENDING d e && s.flag EVENT_CTRL_ENABLE d e && s.flag EVENT_CTRL_ARMED d e) ∨ !s.dieRunning d then .next s
  else
    let t := s.timeTo (s.entryDue d e)
    if t.awake then .next (t.fireDue d).afterWork
    else if t.getF STATE_STATUS_STATE 0 0 = 2 then .next (t.setF STATE_STATUS_STATE 0 0 3)
    else .next t

/-- LOCAL_POS_WRITE: a Spur core or the host writes a die's position (R250). -/
def execLocalPosWrite (d : Fin 4) (v : Word) (s : State) : Host.Outcome State Fault Refusal :=
  if s.dieRunning d then .next (s.writePos d v.toNat) else .next s

/-- CONTOUR_REPORT: the package position has risen, and goes to the summit (R250). -/
def execContourReport (s : State) : Host.Outcome State Fault Refusal :=
  if s.role < 3 ∨ s.liveDies.isEmpty ∨ s.packagePos ≤ s.contour.reported then .next s
  else .next ((s.timeTo s.contour.nextReport).sendReport)

/-- CONTOUR_REPORT_RECEIVE: the summit records a member's position and publishes what is due (R251, R253). -/
def execContourReportReceive (device : Fin 10240) (job : Fin 65536) (position lastSeen : Nat) (s : State) :
    Host.Outcome State Fault Refusal :=
  if s.deaf then .next s else
  if s.isSummit ∧ (s.memberOf device).isSome ∧ job.val = 0 then
    .next (s.setSummit fun m => if m.takeover.isSome then { m with idle := max m.idle (stepOfValue lastSeen) } else m)
  else
  match s.memberOf device, s.sumJob job with
  | some m, some x =>
    if !s.isSummit ∨ m.job ≠ job.val then .next s
    else
      let bwd := x.phase == 2 && x.restored.contains device.val && stepOfValue position == stepOfValue x.contour && phaseOf position == phBWD
      let s1 := s.setSumJob { x with
        positions := kset 0 x.positions device (position + 1)
        seen := kset 0 x.seen device (lastSeen + 1)
        bwd := if bwd && !x.bwd.contains device.val then x.bwd ++ [device.val] else x.bwd }
      if s1.summit.takeover.isSome then .next s1 else .next (s1.driveFrom job)
  | _, _ => .next s

/-- IDLE_CONTOUR_TICK: the idle contour advances one step every 100 ms (R248). -/
def execIdleContourTick (s : State) : Host.Outcome State Fault Refusal :=
  if !s.isSummit then .next s
  else
    let t := s.timeTo s.summit.idleAt
    let n := t.summit.idle + 1
    .next ((t.setSummit fun m => { m with idle := n, idleAt := t.fabricNow + 100000000 }).sendContour 0 0 (contourAt n 0))

/-- CONTOUR_REPEAT_TICK: 1 ms without a CONTOUR packet, and the idle contour goes again with REPEAT (R252). -/
def execContourRepeatTick (s : State) : Host.Outcome State Fault Refusal :=
  if !s.isSummit then .next s
  else .next ((s.timeTo (s.summit.lastSent + 1000000)).sendContour 0 1 (contourAt s.summit.idle 0))

/-- One job at a takeover: the larger of the last value heard and every LAST_SEEN; a collapse that members told of goes out
again, unless one of them reported FINAL for its TRY or the step is sealed (R253, Table 12.6; assumption 36). A DRAIN whose SEAL the contour has passed has
taken effect (R344). -/
def State.resumeJob (s : State) (x : SumJob) : State :=
  let v := (x.seen.map fun e => e.2 - 1).foldl max x.contour
  let n := stepOfValue v
  let sealed_ := phaseOf v == phSEAL
  let here := if sealed_ then [] else x.told.filter fun t => t.step == n
  let try_ := here.foldl (fun a t => max a t.try_) 0
  let cur := here.filter fun t => t.try_ == try_
  let told (state : Nat) : List Nat := ((cur.filter fun t => t.state == state).map (·.device)).eraseDups
  let again := try_ != 0 && (told 1).isEmpty
  let x := { x with
    epoch := match x.drain with | some e => (if contourAt e.1 phSEAL ≤ v then e.2 else x.epoch) | none => x.epoch
    drain := match x.drain with | some e => (if contourAt e.1 phSEAL ≤ v then none else x.drain) | none => none }
  let y := { x with
    contour := v
    published := true
    phase := if again then 2 else if !sealed_ && decide (contourAt n phLAUNCH ≤ v) then 1 else 0
    tried := try_
    count := try_
    halt := again && cur.any (·.halted)
    cause := if again then 1 else 0
    finals := told 1
    restored := told 3
    bwd := (told 3).filter fun d => kget 0 x.positions d == contourAt n phBWD + 1
    acked := if again then (cur.map (·.device)).eraseDups else []
    resumeAsked := x.resumeAsked && again && cur.any (·.halted)
    asked := none
    told := [] }
  let s1 := (s.setSumJob y).publish x.job v
  let s2 := if again then s1.sendCollapse y else s1
  let faulted (status : Nat) : Bool := cur.any fun t => t.state == 2 && t.status == status
  if faulted stCHECK then s2.orderCollapse y 1 none
  else if faulted stUNREACHABLE then s2.orderCollapse y 2 none
  else s2

/-- A new summit goes on with every job: its collapses, then the re-shard asked for meanwhile, then what is due (R253, R344). -/
def State.resumeAll (s : State) : State :=
  (s.summit.jobs.foldl (fun (u : State) (x : SumJob) =>
    match x.asked, u.sumJob x.job with
    | some mode, some y => u.takeReshard y mode
    | _, _ => u) (s.summit.jobs.foldl (fun (u : State) (x : SumJob) => u.resumeJob x) s)).driveJobs

/-- TAKEOVER_PUBLISH: 100 µs after its takeover the new summit publishes every job's contour, the idle one too (R253). -/
def execTakeoverPublish (s : State) : Host.Outcome State Fault Refusal :=
  match s.summit.takeover with
  | none => .next s
  | some t =>
    if !s.isSummit then .next s
    else
      let s0 := (s.timeTo t).setSummit fun m => { m with takeover := none }
      let s1 := s0.sendContour 0 0 (contourAt s0.summit.idle 0)
      .next s1.resumeAll

/-- FTIME_VALID_EXPIRY: 2 ms without a CONTOUR packet (R254). -/
def execFtimeValidExpiry (s : State) : Host.Outcome State Fault Refusal :=
  match s.contour.lastPacket with
  | none => .next s
  | some t =>
    let s1 := s.timeTo (t + 2000000)
    .next ((List.range 4).foldl (fun u d => u.setF CONTOUR_BLK_STATUS_FTIME_VALID d 0 0) s1)

/-! ### Event entries -/

/-- Whether a write to EVENT_CTRL is refused (R258). -/
def State.entryRefused (s : State) (d e action : Nat) (camp : Bool) : Bool :=
  decide (6 < action) || (action == 5 && !camp) ||
  (action == 6 && (d != 0 || phaseOf (s.reg THRESHOLD d e).toNat != 0))

/-- A write to EVENT_CTRL of entry e (R257, R258). -/
def State.writeEventCtrl (s : State) (d e : Nat) (w : Word) (camp : Bool) : State :=
  let v := w.toNat
  if s.entryRefused d e (bits v 55 52) camp then
    let s1 := s.setF CONTOUR_BLK_STATUS_ENTRY_ERR d 0 1
    if s1.flag CONTOUR_EXPERT_RECORD_REFUSED d 0 then s1.raise 0 0x21 d e 0 e (bits v 55 52) 0 else s1
  else
    let s1 := ((((s.setF EVENT_CTRL_ENABLE d e (bits v 63 63)).setF EVENT_CTRL_ARMED d e (bits v 62 62)).setF EVENT_CTRL_MODE d e
      (bits v 56 56)).setF EVENT_CTRL_ACTION d e (bits v 55 52)).setF EVENT_CTRL_OFFSET_US d e (bits v 31 0)
    let s2 := if v.testBit 61 then s1.setF EVENT_CTRL_FIRED d e 0 else s1
    let s3 := if v.testBit 63 && v.testBit 62 then s2 else s2.setF EVENT_CTRL_PENDING d e 0
    s3.actEntry d e

/-- A write to THRESHOLD of entry e (R257). -/
def State.writeThreshold (s : State) (d e : Nat) (w : Word) : State :=
  (s.setReg THRESHOLD d e w).actEntry d e

/-- EVENT_CTRL_WRITE: a write to register r (0 EVENT_CTRL, 1 THRESHOLD, 2 to 4 ARG0 to ARG2) of an event entry; `camp` tells a
write of the Camp die (R256 to R259). -/
def execEventCtrlWrite (d : Fin 4) (e : Fin 256) (r : Fin 5) (w : Word) (camp : Bool) (s : State) :
    Host.Outcome State Fault Refusal :=
  if !s.dieRunning d then .next s
  else
    match r.val with
    | 0 => .next ((s.writeEventCtrl d e w camp).afterWork)
    | 1 => .next ((s.writeThreshold d e w).afterWork)
    | 2 => .next (s.setReg ARG0 d e w)
    | 3 => .next (s.setReg ARG1 d e w)
    | _ => .next (s.setReg ARG2 d e w)

/-- PREFETCH_COMPLETE: the oldest completed GET of a PREFETCH action writes its STATUS (R258). -/
def execPrefetchComplete (d : Fin 4) (s : State) : Host.Outcome State Fault Refusal :=
  match s.takeDone d (fun w => match w with | .mover _ _ => true | _ => false) with
  | some (x, t) =>
    match x.who with
    | .mover _ e => .next (t.entryStatus d e x.status)
    | _ => .next t
  | none => .next s

end Sys2Proof.Machine
end

