-- ==== Sys2Proof/Machine/Cornice.lean ====
section
/-!
DEFINITION. Meanings of the cornice's commands: step states, seal, collapse, resume, re-shard (chapter 12).
-/
namespace Sys2Proof.Machine

open Sys2Proof

/-- Take the mask of fenced dies that a member's report of a step shows; each die is noted when it is first reported in that step
(R329). -/
def SumJob.noteFenced (x : SumJob) (device mask step now : Nat) : SumJob :=
  let new := (List.range 4).filter fun k =>
    mask.testBit k && !x.firsts.any fun f => f.device == device && f.die == k && f.step == step
  { x with masks := kset 0 x.masks device mask, firsts := x.firsts ++ new.map fun k => ⟨device, k, step, now, false⟩ }

/-- Add a device to a list once. -/
def addOnce (l : List Nat) (d : Nat) : List Nat := if l.contains d then l else l ++ [d]

/-- STEP_STATE: the summit takes a member's report: state 1 FINAL, 2 FAULT, 3 RESTORED, 4 REPORT (R328, R329, R337, Tables 12.2,
12.3). -/
def execStepState (device : Fin 10240) (job : Fin 65536) (step try_ : Nat) (state : Fin 5) (fenced : Fin 16) (status : Fin 256)
    (halted : Bool) (s : State) : Host.Outcome State Fault Refusal :=
  if s.deaf then .next s else
  match s.memberOf device, s.sumJob job with
  | some m, some x0 =>
    if !s.isSummit ∨ m.job ≠ job.val then .next s
    else
      let x := x0.noteFenced device fenced step s.fabricNow
      let here := step == stepOfValue x.contour && phaseOf x.contour != phSEAL
      if s.summit.takeover.isSome then
        .next (s.setSumJob { x with told := x.told ++ [⟨device, step, try_, state, status, halted⟩] })
      else if !here ∨ try_ ≠ x.tried then .next ((s.setSumJob x).driveFrom job)
      else
        let y := { x with acked := addOnce x.acked device }
        match state.val with
        | 1 => .next ((s.setSumJob { y with finals := addOnce y.finals device, phase := if y.phase = 2 then 1 else y.phase }).driveFrom job)
        | 2 =>
          if status.val = stCHECK then .next (s.orderCollapse y 1 none)
          else if status.val = stUNREACHABLE then .next (s.orderCollapse y 2 none)
          else .next (s.setSumJob y)
        | 3 =>
          if y.phase = 2 then .next ((s.setSumJob { y with restored := addOnce y.restored device }).driveFrom job)
          else .next ((s.setSumJob y).driveFrom job)
        | _ => .next ((s.setSumJob y).driveFrom job)
  | _, _ => .next s

/-- REJOIN_HOLD_EXPIRY: REJOIN_HOLD_MS has passed since a member first reported a die fenced in the job's step (R329). -/
def execRejoinHoldExpiry (job : Fin 65536) (device : Fin 10240) (die : Fin 4) (s : State) : Host.Outcome State Fault Refusal :=
  match s.sumJob job with
  | none => .next s
  | some x =>
    match x.firsts.find? fun f => f.device == device.val && f.die == die.val && f.step == stepOfValue x.contour with
    | none => .next s
    | some f =>
      if !s.isSummit then .next s
      else
        let t := s.timeTo (f.time + s.corSet CORNICE_EXPERT_REJOIN_HOLD_MS * 1000000)
        .next ((t.setSumJob { x with firsts := x.firsts.map fun g => if g = f then { f with passed := true } else g }).driveFrom job)

/-- COLLAPSE: a member adopts COLLAPSE(n), steps 1 to 3 of R340, or ignores it; a gated package first wakes (R327, R340, R350, R356, R460). -/
def execCollapse (job : Fin 65536) (step try_ cause : Nat) (halt : Bool) (epoch : Option (Fin 65536)) (s : State) :
    Host.Outcome State Fault Refusal :=
  if s.deaf then .next s else
  let s0 := match epoch with
    | some e => (s.setSummit fun r => { r with heardEpochs := kset 0 r.heardEpochs job e, heardDrains := kset none r.heardDrains job none }).moveJob job
    | none => s
  if s0.role < 3 ∨ job.val ≠ s0.job ∨ s0.job = 0 then .next s0
  else if !s0.awake then .next (s0.holdOrder (.collapse step try_ cause halt (epoch.map (·.val))))
  else .next (s0.memberCollapse step try_ cause halt (epoch.map (·.val)))

/-- COLLAPSE_RESEND_TICK: COLLAPSE goes again every 1 ms until every present member has reported for its TRY (R339). -/
def execCollapseResendTick (job : Fin 65536) (s : State) : Host.Outcome State Fault Refusal :=
  match s.sumJob job with
  | none => .next s
  | some x =>
    if !s.isSummit ∨ x.phase ≠ 2 ∨ (s.jobDevices job).all (fun d => x.acked.contains d) then .next s
    else .next ((s.timeTo x.resendAt).sendCollapse x)

/-- COLLAPSE_DRAIN_DONE: the drain of R340 is over on die d, and it restores: the journal, then the store (R317, R340). -/
def execCollapseDrainDone (d : Fin 4) (s : State) : Host.Outcome State Fault Refusal :=
  if s.corState ≠ 4 ∨ !s.cor.draining.contains d.val ∨ !s.dieRunning d ∨ !s.drainOver d ∨ s.journalHeld d ∨ s.storeHeld d s.corStep then .next s
  else
    let s1 := s.setCor fun c => { c with draining := c.draining.filter (· != d.val), restoring := c.restoring ++ [d.val] }
    .next (s1.collapseRestore d)

/-- COLLAPSE_RESTORE_DONE: the restores of die d have landed, tags are written, the step is reset; with the last die RESTORED is
reported (R340, R341). -/
def execCollapseRestoreDone (d : Fin 4) (s : State) : Host.Outcome State Fault Refusal :=
  let s1 := (s.collectOuter d).settleRestores d
  if s1.corState ≠ 4 ∨ !s1.cor.restoring.contains d.val ∨ !(s1.engBlocks d 3).isEmpty then .next s1
  else
    let s2 := (s1.collapseReset d).setCor fun c => { c with restoring := c.restoring.filter (· != d.val) }
    .next s2.collapseReport

/-- RESUME: a member in RESTORED(n) relaunches the step; a gated package first wakes (R343, R460, Table 12.1). -/
def execResume (job : Fin 65536) (step try_ : Nat) (sendAt : Nat) (s : State) : Host.Outcome State Fault Refusal :=
  if s.deaf then .next s else
  if s.role < 3 ∨ job.val ≠ s.job ∨ s.job = 0 then .next s
  else if !s.awake then .next (s.holdOrder (.resume step try_ sendAt))
  else .next (s.memberResume step try_ sendAt)

/-- The START or ABSENT that goes again first: those of dies that do not run wait, and none goes outside a step (R340). -/
def State.nextResend (s : State) : Option RedSent :=
  if s.corState = 0 ∨ s.corState = 4 ∨ s.corState = 5 ∨ !s.awake then none
  else
    (s.red.sent.filter fun x => x.resendAt.isSome && s.dieRunning x.die).foldl (fun best x =>
      match best with
      | none => some x
      | some y => if x.resendAt.getD 0 < y.resendAt.getD 0 then some x else some y) none

/-- REDUCE_CONTROL_RESEND: a START or ABSENT that was answered COLLAPSED, or UNREACHABLE, goes again 10 µs later with its own step, while
its shard is open (R340 step 3; assumption 114). -/
def execReduceControlResend (s : State) : Host.Outcome State Fault Refusal :=
  match s.nextResend with
  | none => .next s
  | some x =>
    let t := s.timeTo (x.resendAt.getD 0)
    let u := t.setRed fun r => { r with sent := r.sent.erase x }
    .next (if (t.shardRun x.bucket x.shard).any fun y => y.status.isSome then u else u.redIssue { x with resendAt := none })

/-- RESHARD_REQ: the summit schedules a DRAIN, or orders a collapse with CAUSE 3 (mode 1 ABORT; R344, Table 12.8). One that comes while a
takeover waits to publish is kept until then (R253; assumption 113). -/
def execReshardReq (job : Fin 65536) (mode : Fin 2) (s : State) : Host.Outcome State Fault Refusal :=
  if s.deaf then .next s else
  match s.sumJob job with
  | none => .next s
  | some x =>
    if !s.isSummit ∨ job.val = 0 then .next s
    else if s.summit.takeover.isSome then .next (s.setSumJob { x with asked := some (max mode.val (x.asked.getD 0)) })
    else .next (s.takeReshard x mode)

/-- RESHARD: a member notes the pending DRAIN (R344, R349). -/
def execReshard (job : Fin 65536) (mode : Fin 2) (effective : Nat) (epoch : Fin 65536) (s : State) :
    Host.Outcome State Fault Refusal :=
  if s.deaf then .next s else
  let s0 := (if mode.val = 1 then s else s.setSummit fun r => { r with heardDrains := kset none r.heardDrains job (some (effective, epoch)) }).noteReshard
    job effective
  if s0.role < 3 ∨ job.val ≠ s0.job ∨ s0.job = 0 ∨ mode.val = 1 then .next s0
  else .next (((s0.wakeByOrder.setF CORNICE_STATUS_RESHARD_PENDING 0 0 1).setCor fun c => { c with drain := some (effective, epoch) }).afterWork)

/-- What a write of RESHARD to CORNICE_CMD does (R344). -/
def State.reshardCmd (s : State) (mode : Nat) : State :=
  if s.job = 0 then (s.setF CORNICE_BLK_STATUS_CMD_ERR 0 0 1)
  else (s.mgmt 0x95 (s.getF SUMMIT_INFO_SUMMIT_ID 0 0) [s.job, mode])

/-- RESHARD_CMD: a write of RESHARD to CORNICE_CMD (R344). A package in no job has none to re-shard: refused. -/
def execReshardCmd (mode : Fin 2) (s : State) : Host.Outcome State Fault Refusal :=
  .next (s.reshardCmd mode)

/-- What a write of RESUME to CORNICE_CMD does (R346). -/
def State.resumeCmd (s : State) : State :=
  if s.flag CORNICE_STATUS_HALTED 0 0 then (s.mgmt 0x93 (s.getF SUMMIT_INFO_SUMMIT_ID 0 0) [s.job])
  else (s.setF CORNICE_BLK_STATUS_CMD_ERR 0 0 1)

/-- RESUME_CMD: a write of RESUME to CORNICE_CMD (R346). -/
def execResumeCmd (s : State) : Host.Outcome State Fault Refusal :=
  .next s.resumeCmd

/-- RESUME_REQUEST: the summit takes a member's resume request (R346, Table 12.2). -/
def execResumeRequest (job : Fin 65536) (s : State) : Host.Outcome State Fault Refusal :=
  if s.deaf then .next s else
  match s.sumJob job with
  | none => .next s
  | some x =>
    if !s.isSummit then .next s
    else if s.summit.takeover.isSome then .next (s.setSumJob { x with resumeAsked := true })
    else if x.phase ≠ 2 ∨ !x.halt then .next s
    else .next ((s.setSumJob { x with resumeAsked := true }).driveFrom job)

/-- What a write of CLEAR_STALE to CORNICE_CMD does (R331). -/
def State.clearStale (s : State) (dies : Nat) : State :=
  let old := s.getF CORNICE_STATUS_STALE 0 0
  (s.setF CORNICE_STATUS_STALE 0 0 (old ^^^ (old &&& dies)))

/-- CLEAR_STALE: a write of CLEAR_STALE to CORNICE_CMD (R331). -/
def execClearStale (dies : Fin 16) (s : State) : Host.Outcome State Fault Refusal :=
  .next (s.clearStale dies)

end Sys2Proof.Machine
end

