-- ==== Sys2Proof/Machine/Couloir.lean ====
section
/-!
DEFINITION. Meanings of the commands of the Couloir queues (chapter 13, R360 to R370).
-/
namespace Sys2Proof.Machine

open Sys2Proof

/-- ENQUEUE_RESERVATION: listed, answered, or refused back where the die's list is full (R362). -/
def execEnqueueReservation (g : Segment) (s : State) : Host.Outcome State Fault Refusal := .next (s.enqueueArrive true g)

/-- RESERVATION_GRANT: the oldest reservation of a queue is granted where the ring has room (R362). -/
def execReservationGrant (d : Fin 4) (q : Fin 64) (s : State) : Host.Outcome State Fault Refusal :=
  if s.dieRunning d && s.awake then .next (s.grant d q).afterWork else .next s

/-- RESERVATION_RESEND: a reservation refused back goes again after 10 µs, then those of the die that waited behind it
(R362). -/
def execReservationResend (d : Fin 4) (id : Fin 4096) (s : State) : Host.Outcome State Fault Refusal :=
  match (s.tracker d).entries.find? fun e => e.id == id.val with
  | none => .next s
  | some e =>
    match e.phase with
    | .refused t =>
      if s.doorWaits d e.req then .next s else
      let s1 := (s.timeTo t).sendReservation d e
      .next (((s1.tracker d).entries.filter fun x => decide (x.phase = .behind) && x.req.ptr == e.req.ptr).foldl (fun u x =>
        if u.refusedAhead d x then u else u.sendReservation d x) s1).afterWork
    | _ => .next s

/-- ENQUEUE_SEGMENT (R204, R363, R364). -/
def execEnqueueSegment (g : Segment) (s : State) : Host.Outcome State Fault Refusal := .next (s.enqueueArrive false g).afterWork

/-- COMMIT_TIMEOUT: COMMIT_US passes after a grant without commit, and the packet is rewound (R364). -/
def execCommitTimeout (d : Fin 4) (q : Fin 64) (s : State) : Host.Outcome State Fault Refusal :=
  let granted := (s.queue d q).packets.filter fun p => decide (p.phase = .granted)
  match granted.find? fun p => granted.all fun y => decide (p.deadline ≤ y.deadline) with
  | none => .next s
  | some p => if s.dieRunning d then .next ((s.timeTo p.deadline).rewind d q p stPOISONED).afterWork else .next s

/-- QUEUE_READ: one line of the read window takes the next visible word, or underruns (R365, R366); it waits while the ring's stack holds
accesses (Table 6.3). -/
def execQueueRead (d : Fin 4) (q : Fin 64) (s : State) : Host.Outcome State Fault Refusal :=
  if !s.dieRunning d ∨ s.ringHeld d q then .next s
  else
    let r := s.readQueueWord d q
    .next (r.1.emit .queueData (d * 64 + q) [b2n (r.2.2.any id)] r.2.1)

/-- Discard the unread words of the open packet (R367). -/
def State.dropRest (s : State) (d q : Nat) : State :=
  let x := s.queue d q
  match x.visible with
  | p :: _ => if x.opened then s.setQueue d q { x with packets := x.packets.filter (· != p), opened := false } else s
  | [] => s

/-- DROP_REST (R367). -/
def execDropRest (d : Fin 4) (q : Fin 64) (s : State) : Host.Outcome State Fault Refusal :=
  if s.dieRunning d then .next (s.dropRest d q) else .next s

/-- HIGH_WATER takes the present occupancy (R370). -/
def State.queueClearHw (s : State) (d q : Nat) : State := s.setF Q_HIGH_WATER_HIGH_WATER d q (s.queue d q).occupied

/-- QUEUE_CLEAR_HW (R370). -/
def execQueueClearHw (d : Fin 4) (q : Fin 64) (s : State) : Host.Outcome State Fault Refusal :=
  if s.dieRunning d then .next (s.queueClearHw d q) else .next s

end Sys2Proof.Machine
end

