-- ==== Sys2Proof/Machine/Crest.lean ====
section
/-!
DEFINITION. Meanings of VEC_RUN and of the crest instructions on the vector engines, and of the Spur core's summary reads
(chapter 05).
-/
namespace Sys2Proof.Machine

open Sys2Proof

/-! ### Runs -/

/-- A vector fault (R161, R162): VEC_FAULT takes the first, each is recorded where the run's RECORD_FAULT is 1, and the
Spur core is interrupted. -/
def State.vecFault (s : State) (d g : Nat) (r : VecRun) (code pc : Nat) : State :=
  let prog := r.entry.f 52 40
  let s1 :=
    if s.flag VEC_FAULT_VALID d g then s
    else ((((s.setF VEC_FAULT_VALID d g 1).setF VEC_FAULT_ITER d g r.iter).setF VEC_FAULT_PROG d g prog).setF
      VEC_FAULT_PC d g pc).setF VEC_FAULT_CODE d g code
  let s2 := if r.record then s1.raise 0 0x02 d g 0 (s1.reg VEC_FAULT d g).toNat 0 0 else s1
  s2.spurInterrupt d g

/-- The run at the head of the vector pipe leaves it: VEC_RUNS counts it, its event counter increments (R135, R161); an MMA that waits
behind it starts (R80). -/
def State.endRun (s : State) (d g : Nat) (r : VecRun) : State :=
  ((s.addF VEC_RUNS_COUNT d g 1).updCore d g fun c =>
    { c with vec := c.vec.drop 1, vecDone := c.vecDone + 1 }.complete r.entry).settlePipes d g

/-- Replace the run at the head of the vector pipe. -/
def Core.setRun (c : Core) (r : VecRun) : Core := { c with vec := r :: c.vec.drop 1 }

/-- VEC_RUN: the head word enters the vector pipe (R62, R63). -/
def execVecRun (d : Fin 4) (g : Fin 96) (s : State) : Host.Outcome State Fault Refusal :=
  .next (s.issue d g 0x18 fun e =>
    if 2 ≤ (s.coreOf d g).vec.length then none
    else
      let r := VecRun.enter e (s.flag VEC_EXPERT_SKIP_AFTER_FAULT d 0) (s.flag VEC_EXPERT_RECORD_FAULT d 0) none
      some (s.updCore d g fun c => { c with vec := c.vec ++ [r] }))

/-- The fault of an image and its instructions with the index it is found at (R161, Table 5.13), of several the first in this order
(assumption 20). -/
def State.imageFault (s : State) (d g prog : Nat) : Option (Nat × Nat) :=
  let a := coreBase d g + prog * 256
  let len := (s.byte a).toNat
  if len = 0 ∨ 64 < len then some (1, 0)
  else if 0x200000 < prog * 256 + 0x80 + 4 * len then some (9, 0)
  else if (s.bytes (a + 2) 62).any (fun b => b != 0) then some (3, 0)
  else programFault (s.byte (a + 1)).toNat 0 ((List.range len).map fun i => s.readN (a + 0x80 + 4 * i) 4) []

/-- The run with its image read (R131). -/
def State.loadImage (s : State) (d g : Nat) (r : VecRun) : VecRun :=
  let a := coreBase d g + r.entry.f 52 40 * 256
  { r with
    begun := true
    base := s.time / 10
    code := (List.range (s.byte a).toNat).map fun i => s.readN (a + 0x80 + 4 * i) 4
    outmask := (s.byte (a + 1)).toNat
    offsets := (List.range 8).map fun i => s.readN (a + 0x40 + 8 * i) 4
    strides := (List.range 8).map fun i => s.readN (a + 0x44 + 8 * i) 4 }

/-- VEC_RUN_BEGIN: the run at the head of the vector pipe begins issuing, is discarded (R162), or faults in the check of
R161. -/
def execVecRunBegin (d : Fin 4) (g : Fin 96) (s : State) : Host.Outcome State Fault Refusal :=
  if !s.pipeLive d g then .next s
  else match (s.coreOf d g).vec with
    | [] => .next s
    | r :: _ =>
      if r.begun || r.mma.isSome then .next s
      else if r.skip && s.flag VEC_FAULT_VALID d g then
        .next ((s.satF VEC_FAULT_SKIPPED d g 1).endRun d g r)
      else match s.imageFault d g (r.entry.f 52 40) with
        | some f =>
          .next ((s.vecFault d g r f.1 f.2).updCore d g fun c =>
            c.setRun { r with begun := true, faulted := true, done := true })
        | none => .next (s.updCore d g fun c => c.setRun (s.loadImage d g r))

/-- VEC_RUN_COMPLETE: the last effect of the run has landed; slots latch unless it faulted, its flags are set, counters
count (R135, R161). -/
def execVecRunComplete (d : Fin 4) (g : Fin 96) (s : State) : Host.Outcome State Fault Refusal :=
  if !s.pipeLive d g then .next s
  else match (s.coreOf d g).vec with
    | [] => .next s
    | r :: _ =>
      if !(r.begun && r.done) then .next s
      else
        let latch (c : Core) : Core :=
          if r.faulted then c
          else { c with regs := { c.regs with
            slots := r.work.foldl (fun m x => kset Slot.zero m x.1 x.2) c.regs.slots } }
        let s1 := (s.updCore d g latch).vecFlags d g r.flags
        .next ((s1.addF VEC_STALL_CYCLES d g (r.endCycle - r.issued)).endRun d g r)

/-! ### Issue -/

/-- The cycle in which a word issues at duty 1/k, counted from the run's first: the first that R158 allows whose array cycle count is a
multiple of k (R444). -/
def VecRun.issueCycle (r : VecRun) (w k : Nat) : Nat :=
  ceilDiv (r.base + (crestSrcs w ++ crestDests w).foldl (fun m x => max m (kget 0 r.land x)) r.ready) k * k - r.base

/-- The run after word w has issued: scoreboard, cycle counts, and the next index (R131, R157 to R159). -/
def VecRun.advance (r : VecRun) (w : Nat) (cluster : Bool) (k : Nat) : VecRun :=
  let c := r.issueCycle w k
  let l := c + crestLat w cluster
  let last := decide (r.code.length ≤ r.pc + 1)
  { r with
    ready := c + crestOcc (cOP w)
    land := (crestDests w).foldl (fun m x => kset 0 m x l) r.land
    issued := r.issued + 1
    endCycle := max r.endCycle (l + 1)
    pc := if last then 0 else r.pc + 1
    iter := if last && decide (r.iter < r.entry.f 31 12) then r.iter + 1 else r.iter
    done := last && decide (r.entry.f 31 12 ≤ r.iter) }

/-- What an instruction sees (R136). -/
def VecRun.ctx (r : VecRun) (w : Nat) : CrestCtx :=
  ⟨w, r.pc, r.iter, r.entry.job, r.entry.srstep, (r.entry.srblock + r.iter) % 2 ^ 32⟩

/-- Issue the next instruction of the run of (d, g) where its opcode is op; `eff` gives the state after it, and whether it
accessed cluster scratch, or the code of an access fault. -/
def State.crestStep (s : State) (d g op : Nat) (eff : VecRun → Nat → (Nat ⊕ (State × VecRun × Bool))) : State :=
  if !s.pipeLive d g then s
  else match (s.coreOf d g).vec with
    | [] => s
    | r :: _ =>
      if !r.begun || r.done then s
      else
        let w := r.code.getD r.pc 0
        if cOP w ≠ op then s
        else match eff r w with
          | .inl code =>
            (s.vecFault d g r code r.pc).updCore d g fun c => c.setRun { r with faulted := true, done := true }
          | .inr x =>
            (x.1.addF VEC_ACTIVE_CYCLES d g 1).updCore d g fun c => c.setRun (x.2.1.advance w x.2.2 (s.pace d))

/-- Issue a register operation. -/
def State.crestIssue (s : State) (d g op : Nat) (fn : CrestFn) : State :=
  s.crestStep d g op fun r w =>
    let x := fn (r.ctx w) (s.coreOf d g).regs r.work
    .inr (s.updCore d g fun c => { c with regs := x.regs }, { r with work := x.work, flags := r.flags ||| x.flags }, false)

/-- The address of an LD or ST (R132). -/
def VecRun.address (r : VecRun) (w : Nat) : Nat :=
  let k := cSTREAM w
  let base := if r.outmask.testBit k then r.entry.taOf (r.entry.f 35 32) else r.entry.taOf (r.entry.f 39 36)
  (base.toNat + r.offsets.getD k 0 + r.iter * r.strides.getD k 0 + cOFF w * 4) % 2 ^ 64

/-- The access fault of an LD or ST on a vector engine (R132, R141). -/
def accessFaultOf (d g a n : Nat) : Option Nat :=
  if !(inScratch d g a n || inCluster d g a n) then some 6
  else if a % min n 64 ≠ 0 then some 7
  else none

/-- VADD: a + b (R142, R143). -/
def execVadd (d : Fin 4) (g : Fin 96) (s : State) : Host.Outcome State Fault Refusal :=
  .next (s.crestIssue d g 0x01 opVadd)

/-- VSUB: a − b (R142, R143). -/
def execVsub (d : Fin 4) (g : Fin 96) (s : State) : Host.Outcome State Fault Refusal :=
  .next (s.crestIssue d g 0x02 opVsub)

/-- VMUL: a × b (R142, R143). -/
def execVmul (d : Fin 4) (g : Fin 96) (s : State) : Host.Outcome State Fault Refusal :=
  .next (s.crestIssue d g 0x03 opVmul)

/-- VFMA: a × b + c, rounded once (R142). -/
def execVfma (d : Fin 4) (g : Fin 96) (s : State) : Host.Outcome State Fault Refusal :=
  .next (s.crestIssue d g 0x04 opVfma)

/-- VFNMA: c − a × b, rounded once (R142). -/
def execVfnma (d : Fin 4) (g : Fin 96) (s : State) : Host.Outcome State Fault Refusal :=
  .next (s.crestIssue d g 0x05 opVfnma)

/-- VMIN: the smaller lane (R143). -/
def execVmin (d : Fin 4) (g : Fin 96) (s : State) : Host.Outcome State Fault Refusal :=
  .next (s.crestIssue d g 0x06 opVmin)

/-- VMAX: the larger lane (R143). -/
def execVmax (d : Fin 4) (g : Fin 96) (s : State) : Host.Outcome State Fault Refusal :=
  .next (s.crestIssue d g 0x07 opVmax)

/-- VABS: |a| (R143). -/
def execVabs (d : Fin 4) (g : Fin 96) (s : State) : Host.Outcome State Fault Refusal :=
  .next (s.crestIssue d g 0x08 opVabs)

/-- VNEG: −a (R143). -/
def execVneg (d : Fin 4) (g : Fin 96) (s : State) : Host.Outcome State Fault Refusal :=
  .next (s.crestIssue d g 0x09 opVneg)

/-- VRCP: 1 / a (R144). -/
def execVrcp (d : Fin 4) (g : Fin 96) (s : State) : Host.Outcome State Fault Refusal :=
  .next (s.crestIssue d g 0x0A opVrcp)

/-- VRSQRT: 1 / √a (R144). -/
def execVrsqrt (d : Fin 4) (g : Fin 96) (s : State) : Host.Outcome State Fault Refusal :=
  .next (s.crestIssue d g 0x0B opVrsqrt)

/-- VEXP2: 2 to the a (R144). -/
def execVexp2 (d : Fin 4) (g : Fin 96) (s : State) : Host.Outcome State Fault Refusal :=
  .next (s.crestIssue d g 0x0C opVexp2)

/-- VLOG2: the logarithm of a to base 2 (R144). -/
def execVlog2 (d : Fin 4) (g : Fin 96) (s : State) : Host.Outcome State Fault Refusal :=
  .next (s.crestIssue d g 0x0D opVlog2)

/-- VAND: bitwise and (Table 5.4). -/
def execVand (d : Fin 4) (g : Fin 96) (s : State) : Host.Outcome State Fault Refusal :=
  .next (s.crestIssue d g 0x10 opVand)

/-- VOR: bitwise or (Table 5.4). -/
def execVor (d : Fin 4) (g : Fin 96) (s : State) : Host.Outcome State Fault Refusal :=
  .next (s.crestIssue d g 0x11 opVor)

/-- VXOR: bitwise exclusive or (Table 5.4). -/
def execVxor (d : Fin 4) (g : Fin 96) (s : State) : Host.Outcome State Fault Refusal :=
  .next (s.crestIssue d g 0x12 opVxor)

/-- VSHL: shift left by b mod 32 (Table 5.4). -/
def execVshl (d : Fin 4) (g : Fin 96) (s : State) : Host.Outcome State Fault Refusal :=
  .next (s.crestIssue d g 0x13 opVshl)

/-- VSHR: shift right by b mod 32, arithmetic for I32 (Table 5.4). -/
def execVshr (d : Fin 4) (g : Fin 96) (s : State) : Host.Outcome State Fault Refusal :=
  .next (s.crestIssue d g 0x14 opVshr)

/-- VCMP: compare into a predicate (R146). -/
def execVcmp (d : Fin 4) (g : Fin 96) (s : State) : Host.Outcome State Fault Refusal :=
  .next (s.crestIssue d g 0x18 opVcmp)

/-- VSEL: select by a predicate (Table 5.4). -/
def execVsel (d : Fin 4) (g : Fin 96) (s : State) : Host.Outcome State Fault Refusal :=
  .next (s.crestIssue d g 0x19 opVsel)

/-- PLOG: predicate logic (R147). -/
def execPlog (d : Fin 4) (g : Fin 96) (s : State) : Host.Outcome State Fault Refusal :=
  .next (s.crestIssue d g 0x1A opPlog)

/-- PACK: narrowing conversion (R148). -/
def execPack (d : Fin 4) (g : Fin 96) (s : State) : Host.Outcome State Fault Refusal :=
  .next (s.crestIssue d g 0x20 opPack)

/-- UNPACK: widening conversion (R149). -/
def execUnpack (d : Fin 4) (g : Fin 96) (s : State) : Host.Outcome State Fault Refusal :=
  .next (s.crestIssue d g 0x21 opUnpack)

/-- MXPACK: MX encoding (R150). -/
def execMxpack (d : Fin 4) (g : Fin 96) (s : State) : Host.Outcome State Fault Refusal :=
  .next (s.crestIssue d g 0x22 opMxpack)

/-- MXUNPACK: MX decoding (R150). -/
def execMxunpack (d : Fin 4) (g : Fin 96) (s : State) : Host.Outcome State Fault Refusal :=
  .next (s.crestIssue d g 0x23 opMxunpack)

/-- M8ENC: M8 encoding (R151). -/
def execM8enc (d : Fin 4) (g : Fin 96) (s : State) : Host.Outcome State Fault Refusal :=
  .next (s.crestIssue d g 0x24 opM8enc)

/-- M8DEC: M8 decoding (R151). -/
def execM8dec (d : Fin 4) (g : Fin 96) (s : State) : Host.Outcome State Fault Refusal :=
  .next (s.crestIssue d g 0x25 opM8dec)

/-- VPERM: permute by index (R152). -/
def execVperm (d : Fin 4) (g : Fin 96) (s : State) : Host.Outcome State Fault Refusal :=
  .next (s.crestIssue d g 0x28 opVperm)

/-- VSHUF: fixed shuffle (R152). -/
def execVshuf (d : Fin 4) (g : Fin 96) (s : State) : Host.Outcome State Fault Refusal :=
  .next (s.crestIssue d g 0x29 opVshuf)

/-- VRED: lane-group reduction (R152). -/
def execVred (d : Fin 4) (g : Fin 96) (s : State) : Host.Outcome State Fault Refusal :=
  .next (s.crestIssue d g 0x2A opVred)

/-- VIOTA: the lane number (Table 5.4). -/
def execViota (d : Fin 4) (g : Fin 96) (s : State) : Host.Outcome State Fault Refusal :=
  .next (s.crestIssue d g 0x30 opViota)

/-- VITER: the iteration (Table 5.4). -/
def execViter (d : Fin 4) (g : Fin 96) (s : State) : Host.Outcome State Fault Refusal :=
  .next (s.crestIssue d g 0x31 opViter)

/-- VMOVH: an immediate in bits 31 to 16 (R145). -/
def execVmovh (d : Fin 4) (g : Fin 96) (s : State) : Host.Outcome State Fault Refusal :=
  .next (s.crestIssue d g 0x32 opVmovh)

/-- VMOVL: an immediate in bits 15 to 0 (R145). -/
def execVmovl (d : Fin 4) (g : Fin 96) (s : State) : Host.Outcome State Fault Refusal :=
  .next (s.crestIssue d g 0x33 opVmovl)

/-- SUM: fold into a working summary slot (R153, R154). -/
def execSum (d : Fin 4) (g : Fin 96) (s : State) : Host.Outcome State Fault Refusal :=
  .next (s.crestIssue d g 0x3C opSum)

/-- What LD does, or the code of its access fault. -/
def State.crestLoad (s : State) (d g : Nat) (r : VecRun) (w : Nat) : Option Nat → Nat ⊕ (State × VecRun × Bool)
  | some code => .inl code
  | none =>
    .inr (s.updCore d g fun c => { c with
      regs := c.regs.setV (cVD w)
        (ldReg (cSZ w) (s.bytes (r.address w) (accessBytes (cSZ w))) (s.marks (r.address w) (accessBytes (cSZ w)))) },
      r, inCluster d g (r.address w) (accessBytes (cSZ w)))

/-- LD (R132, R133, R141). -/
def execLd (d : Fin 4) (g : Fin 96) (s : State) : Host.Outcome State Fault Refusal :=
  .next (s.crestStep d g 0x38 fun r w => s.crestLoad d g r w (accessFaultOf d g (r.address w) (accessBytes (cSZ w))))

/-- What ST does, or the code of its access fault. -/
def State.crestStore (s : State) (d g : Nat) (r : VecRun) (w : Nat) : Option Nat → Nat ⊕ (State × VecRun × Bool)
  | some code => .inl code
  | none =>
    let b := stBytes (cSZ w) ((s.coreOf d g).regs.vreg (cVD w))
    .inr (s.writeMarked (r.address w) b.1 b.2, r, false)

/-- ST (R132, R133, R141, R168). -/
def execSt (d : Fin 4) (g : Fin 96) (s : State) : Host.Outcome State Fault Refusal :=
  .next (s.crestStep d g 0x39 fun r w => s.crestStore d g r w (accessFaultOf d g (r.address w) (accessBytes (cSZ w))))

/-! ### Summary reads of the Spur core -/

/-- x[rd] takes slot n; a poisoned slot raises a load access fault (Table 20.5a). -/
def State.readSlot (s : State) (d g rd n : Nat) : State :=
  let x := kget Slot.zero (s.coreOf d g).regs.slots n
  if x.pois then s.spurTrap d g 5 else s.updCore d g fun c => c.setX rd x.data

/-- VS_RD: another funct3 or funct7, or an rs2 field of 8 or more, raises an illegal-instruction exception (R155). -/
def execVsRd (d : Fin 4) (g : Fin 96) (insn : BitVec 32) (s : State) : Host.Outcome State Fault Refusal :=
  if !s.spurReady d g then .next s
  else if !spurIs insn 0x2B 0 ∨ 8 ≤ spurRs2 insn then .next (s.spurTrap d g 2)
  else .next (s.readSlot d g (spurRd insn) (spurRs2 insn))

/-- VS_RDW: read once every VEC_RUN pushed before it has completed, else stall (R155, R156). -/
def execVsRdw (d : Fin 4) (g : Fin 96) (insn : BitVec 32) (s : State) : Host.Outcome State Fault Refusal :=
  let c := s.coreOf d g
  if !s.spurReady d g then .next s
  else if !spurIs insn 0x2B 1 ∨ 8 ≤ spurRs2 insn then .next (s.spurTrap d g 2)
  else if c.vecPushed ≤ c.vecDone ∨ s.tqStopped d g then .next (s.readSlot d g (spurRd insn) (spurRs2 insn))
  else .next (s.updCore d g fun c => { c with stall := some (.rdw (spurRd insn) (spurRs2 insn) c.vecPushed) })

/-- VS_RDW_RETURN: the stall ends, by the runs' completion, a stopped queue or a TQ.CLEAR (R155, R156). -/
def execVsRdwReturn (d : Fin 4) (g : Fin 96) (s : State) : Host.Outcome State Fault Refusal :=
  let c := s.coreOf d g
  match c.stall with
  | some (.rdw rd n upTo) =>
    if s.coreLive d g && (decide (upTo ≤ c.vecDone) || s.tqStopped d g) then
      .next ((s.updCore d g fun c => { c with stall := none }).readSlot d g rd n)
    else .next s
  | _ => .next s

end Sys2Proof.Machine
end

