-- ==== Sys2Proof/Machine/Cube.lean ====
section
/-!
DEFINITION. Meanings of the accumulator-pipe instructions (chapters 02 to 04). `errs` are the ECC errors that the instruction's reads
of the accumulator file meet (R114).
-/
namespace Sys2Proof.Machine

open Sys2Proof

/-- MMA (R48 to R55, R76, R80 to R82): into the accumulator pipe, or on the vector engine with the same bits and its own flag set. -/
def execMma (d : Fin 4) (g : Fin 96) (errs : List AccErr) (s : State) : Host.Outcome State Fault Refusal :=
  .next (s.issue d g 0x08 fun e => if s.vectorRoute d e then s.routeEnter d g e errs else s.accEnter d g e errs)

/-- MMA_CONV (R56, R57, R77). -/
def execMmaConv (d : Fin 4) (g : Fin 96) (errs : List AccErr) (s : State) : Host.Outcome State Fault Refusal :=
  .next (s.issue d g 0x09 fun e => s.accEnter d g e errs)

/-- MMA_PAIR3 (R69, R76, R104). -/
def execMmaPair3 (d : Fin 4) (g : Fin 96) (errs : List AccErr) (s : State) : Host.Outcome State Fault Refusal :=
  .next (s.issue d g 0x0A fun e => s.accEnter d g e errs)

/-- ACC_RD (R70, R97, R98, R124 to R127). -/
def execAccRd (d : Fin 4) (g : Fin 96) (errs : List AccErr) (s : State) : Host.Outcome State Fault Refusal :=
  .next (s.issue d g 0x10 fun e => s.accEnter d g e errs)

/-- ACC_WR (Table 2.10, R70, R109); it reads no accumulator. -/
def execAccWr (d : Fin 4) (g : Fin 96) (s : State) : Host.Outcome State Fault Refusal :=
  .next (s.issue d g 0x11 fun e => s.accEnter d g e [])

/-- TILE_ADD (R71, R123). -/
def execTileAdd (d : Fin 4) (g : Fin 96) (errs : List AccErr) (s : State) : Host.Outcome State Fault Refusal :=
  .next (s.issue d g 0x12 fun e => s.accEnter d g e errs)

end Sys2Proof.Machine
end

