-- ==== Sys2Proof/Machine/ErrOps.lean ====
section
/-!
DEFINITION. Error records as shared operations (R495 to R500): what a raised record does, the ring, the holding buffer,
coalescing.
-/
namespace Sys2Proof.Machine

open Sys2Proof

/-- Slots of the error ring. -/
def State.errSize (s : State) : Nat := 2 ^ s.getF ERR_RING_CFG_LOG2 0 0

/-- Whether a record may be written to the ring now (R498). -/
def State.errReady (s : State) : Bool :=
  s.attached && s.flag ERR_RING_CFG_EN 0 0 && decide ((s.err.ringCount + 2 ^ 32 - s.err.consumed) % 2 ^ 32 < s.errSize)

/-- The 64 bytes of a record (Table 20.5). -/
def ErrRec.bytes (r : ErrRec) (phase : Nat) : List Byte :=
  leBytes 1 r.cls ++ leBytes 1 r.kind ++ leBytes 1 r.die ++ leBytes 1 r.status ++ leBytes 2 r.unit ++ leBytes 2 r.count ++
  leBytes 5 r.step ++ leBytes 1 (phase + 2 * b2n r.held + 4 * b2n r.persisted) ++ leBytes 2 0 ++ leBytes 8 r.ftime ++
  leBytes 8 r.arg0 ++ leBytes 8 r.arg1 ++ leBytes 8 r.arg2 ++ leBytes 8 r.seq ++ leBytes 8 0

/-- Write a record to the ring, and signal it as due (R496); a persisted one is marked delivered (R499). -/
def State.writeRecord (s : State) (r : ErrRec) : State :=
  let c := s.err.ringCount
  let s1 := s.emit .hostWrite (s.getF ERR_RING_BASE_BASE 0 0 * 4096 + c % s.errSize * 64) [] (r.bytes (1 - c / s.errSize % 2))
  let n := s.err.unsignalled + 1
  let send := decide (0 < r.cls) || decide (max 1 (s.getF ERR_RING_CFG_MOD_COUNT 0 0) ≤ n)
  let s2 := s1.setErr fun e => { e with
    ringCount := c + 1
    unsignalled := if send then 0 else n
    persistent := if r.persisted then e.persistent.filter fun x => x.1.seq != r.seq else e.persistent }
  if send then s2.sendMsix (s.getF ERR_RING_CFG_VECTOR 0 0) else s2

/-- The holding buffer with HELD (Table 20.11). -/
def State.setHolding (s : State) (l : List ErrRec) : State :=
  (s.setErr fun e => { e with holding := l }).setF ERR_HOLD_HELD 0 0 l.length

/-- One record is dropped (R498). -/
def State.dropRecord (s : State) : State :=
  (s.setErr fun e => { e with drops := e.drops + 1 }).satF ERR_HOLD_HOLD_DROPPED 0 0 1

/-- A list without its first record of class 0; none where it has none. -/
def dropClass0 : List ErrRec → Option (List ErrRec)
  | [] => none
  | r :: l => if r.cls = 0 then some l else (dropClass0 l).map (r :: ·)

/-- A record waits in the holding buffer, or is dropped (R498). -/
def State.holdRecord (s : State) (r : ErrRec) : State :=
  let h := { r with held := true }
  if s.err.holding.length < 4096 then s.setHolding (s.err.holding ++ [h])
  else if r.cls = 0 then s.dropRecord
  else
    match dropClass0 s.err.holding with
    | some l => (s.setHolding (l ++ [h])).dropRecord
    | none => s.dropRecord

/-- Make a record: its SEQ, then the ring or the holding buffer (R495, R498). -/
def State.placeRecord (s : State) (r : ErrRec) : State :=
  let x := { r with seq := s.err.nextSeq }
  let s1 := s.setErr fun e => { e with nextSeq := e.nextSeq + 1 }
  if s1.errReady && s1.err.holding.isEmpty then s1.writeRecord x else s1.holdRecord x

/-- ERR_FIRST_DEFERRED or ERR_FIRST_FATAL keeps the first record of its classes (R500). -/
def State.firstRecord (s : State) (r : ErrRec) : State :=
  let keep (u : State) (valid kind die cls unit seq : Fld) : State :=
    if u.flag valid 0 0 then u
    else (((((u.setF valid 0 0 1).setF kind 0 0 r.kind).setF die 0 0 r.die).setF cls 0 0 r.cls).setF unit 0 0 r.unit).setF
      seq 0 0 s.err.nextSeq
  match r.cls with
  | 0 => s
  | 1 => keep s ERR_FIRST_DEFERRED_VALID ERR_FIRST_DEFERRED_KIND ERR_FIRST_DEFERRED_DIE ERR_FIRST_DEFERRED_CLASS
      ERR_FIRST_DEFERRED_UNIT ERR_FIRST_DEFERRED_SEQ
  | _ => keep s ERR_FIRST_FATAL_VALID ERR_FIRST_FATAL_KIND ERR_FIRST_FATAL_DIE ERR_FIRST_FATAL_CLASS ERR_FIRST_FATAL_UNIT
      ERR_FIRST_FATAL_SEQ

/-- ERR_COUNTS (Table 20.11). -/
def State.countRecord (s : State) (cls : Nat) : State :=
  match cls with
  | 0 => s.satF ERR_COUNTS_CORRECTED 0 0 1
  | 1 => s.satF ERR_COUNTS_DEFERRED 0 0 1
  | 2 => s.satF ERR_COUNTS_FATAL_DIE 0 0 1
  | _ => s.satF ERR_COUNTS_FATAL_PKG 0 0 1

/-- Whether a record goes to the persistent store, for after the next boot (R499). -/
def ErrRec.stored (r : ErrRec) : Bool :=
  decide (r.cls = 3) && (r.kind == 0x41 || r.kind == 0x44 || r.kind == 0x45 || r.kind == 0x46)

/-- A record as the persistent store holds it: with the CRC-32 of its bytes (R10). -/
def ErrRec.kept (r : ErrRec) : ErrRec × Nat := (r, crc32 (r.bytes 0))

/-- What one raised record does (R496 to R500). -/
def State.processRecord (s : State) (r : ErrRec) : State :=
  if r.stored then s.setErr fun e => { e with persistent := e.persistent ++ [r.kept] }
  else
    let s1 := (s.firstRecord r).countRecord r.cls
    if r.cls ≠ 0 then s1.placeRecord r
    else
      let mine (w : ErrWindow) : Bool := w.kind == r.kind && w.die == r.die && w.unit == r.unit
      let ms := s.getF ERR_EXPERT_RECORD_WINDOW_MS 0 0
      if s1.err.windows.any mine then
        s1.setErr fun e => { e with windows := e.windows.map fun w => if mine w then { w with count := w.count + 1, last := r } else w }
      else
        let s2 := if ms = 0 ∨ 256 ≤ s1.err.windows.length then s1
          else s1.setErr fun e => { e with windows := e.windows ++ [⟨r.kind, r.die, r.unit, s.fabricNow + ms * 1000000, 0, r⟩] }
        s2.placeRecord r

/-- Every raised record is processed: no record outlives a reset unmade. -/
def State.flushRecords (s : State) : State :=
  s.err.raised.foldl (fun u r => u.processRecord r) (s.setErr fun e => { e with raised := [] })

/-- A reset that empties the spill area empties the holding buffer and forgets the drops (R498). -/
def State.emptyHolding (s : State) : State := (s.setHolding []).setErr fun e => { e with drops := 0 }

/-- The persistent store's records whose CRC-32 holds are placed in the holding buffer after a boot, with PERSISTED and a new SEQ (R10,
R499). -/
def State.deliverPersistent (s : State) : State :=
  (s.err.persistent.filter fun p => p.1.kept.2 == p.2).foldl (fun u p =>
    let x : ErrRec := { p.1 with persisted := true, seq := u.err.nextSeq }
    let u1 := (u.firstRecord x).countRecord x.cls
    let u2 := u1.setErr fun e => { e with nextSeq := e.nextSeq + 1, persistent := e.persistent ++ [x.kept] }
    u2.holdRecord x) (s.setErr fun e => { e with persistent := [] })

end Sys2Proof.Machine
end

