-- ==== Sys2Proof/Machine/PackageOps.lean ====
section
/-!
DEFINITION. Saddle links as shared operations (R417 to R424), PKG_HEALTH (Table 16.12), the sideband (R429).
-/
namespace Sys2Proof.Machine

open Sys2Proof

/-- ERRORS_A or ERRORS_B of a link, by receiving end. -/
def saddleCorrected (e : Nat) : Fld := if e = 0 then SADDLE_ERRORS_A_CORRECTED else SADDLE_ERRORS_B_CORRECTED
def saddleUncorrected (e : Nat) : Fld := if e = 0 then SADDLE_ERRORS_A_UNCORRECTED else SADDLE_ERRORS_B_UNCORRECTED
def saddleDeadMask (e : Nat) : Fld := if e = 0 then SADDLE_ERRORS_A_DEAD_MASK else SADDLE_ERRORS_B_DEAD_MASK

/-- Groups in use at a setting (Table 16.2). -/
def saddleGroups (width sel : Nat) : List Nat :=
  match width with
  | 0 => List.range 16
  | 1 => rangeFrom (8 * (sel % 2)) 8
  | 2 => rangeFrom (4 * (sel % 4)) 4
  | _ => []

/-- A link goes to training at both ends (R420, R421). -/
def State.trainLink (s : State) (l : Nat) : State := s.setF SADDLE_STATUS_STATE 0 l 1

/-- The twenty symbols of a word (R164, R418): data bit i lies in symbol i / 4, in beat i mod 4; symbols 16 to 19 are check symbols. -/
def wordSymbols (v : Nat) : List Nat :=
  (List.range 16).map (fun j => v / 16 ^ j % 16) ++ (List.range 4).map fun j => (Config.checkBits (BitVec.ofNat 64 v)).toNat / 16 ^ j % 16

/-- Beats of symbol j of word w that arrive flipped. -/
def flippedBeats (errs : List SymErr) (w j : Nat) : Nat :=
  (errs.filter fun e => e.word == w && e.symbol == j).foldl (fun m e => m ^^^ e.flip.toNat) 0

/-- The data bits of word w as they arrive. -/
def arrivedWord (errs : List SymErr) (w v : Nat) : Nat :=
  (((wordSymbols v).take 16).zipIdx).foldl (fun m x => m + (x.1 ^^^ flippedBeats errs w x.2) * 16 ^ x.2) 0

/-- The result of decoding one word: clean, one symbol corrected, uncorrectable, or miscorrected to another word. -/
inductive SaddleWord where
  | clean
  | corrected (symbol : Nat)
  | bad
  | miscorrected (data : Word)
  deriving DecidableEq, Repr

/-- The word that is delivered, and whether with poison (R167, R421). -/
def SaddleWord.delivered (x : SaddleWord) (errs : List SymErr) (w sent : Nat) : List Byte × Bool :=
  match x with
  | .bad => (leBytes 8 (arrivedWord errs w sent), true)
  | .miscorrected v => (leBytes 8 v.toNat, false)
  | _ => (leBytes 8 sent, false)

/-- Decode word w of a group (R167, R421): a dead wire's symbol is a known erasure. Three or more bad symbols are detected or
miscorrected by a free value, and a miscorrected word is a free value. -/
def State.saddleDecode (s : State) (x : SaddleEnd) (g w : Nat) (symbols : List Nat) : State × SaddleWord :=
  match x.dead.find? fun p => p.1 == g && p.2 / 20 == w with
  | some p => if (symbols.filter (· != p.2 % 20)).isEmpty then (s, .clean) else (s, .bad)
  | none =>
    match symbols with
    | [] => (s, .clean)
    | [j] => (s, .corrected j)
    | [_, _] => (s, .bad)
    | _ =>
      let f := s.takeFree
      if f.1.getLsbD 0 then (f.2, .bad) else let v := f.2.takeFree; (v.2, .miscorrected v.1)

/-- One word of a flit received at an end: counts, dead wires, how it was decoded, and whether the link must degrade (R421). -/
def State.saddleWord (s : State) (l e g w : Nat) (symbols : List Nat) : State × SaddleWord × Bool :=
  let k := 2 * l + e
  let x := s.saddle k
  let r := s.saddleDecode x g w symbols
  match r.2 with
  | .clean => (r.1.setSaddle k { x with streaks := kset (0, 0) x.streaks (4 * g + w) (0, 0) }, .clean, false)
  | .miscorrected v => (r.1.setSaddle k { x with streaks := kset (0, 0) x.streaks (4 * g + w) (0, 0) }, .miscorrected v, false)
  | .bad =>
    let die := if e = 0 then (linkEnds l).1 else (linkEnds l).2
    (((r.1.satF (saddleUncorrected e) 0 l 1).raise 1 0x14 die l 0 l g 0).setSaddle k
      { x with streaks := kset (0, 0) x.streaks (4 * g + w) (0, 0) }, .bad, true)
  | .corrected j =>
    let old := kget (0, 0) x.streaks (4 * g + w)
    let n := if old.1 = j then old.2 + 1 else 1
    let s1 := r.1.satF (saddleCorrected e) 0 l 1
    if n < 64 then (s1.setSaddle k { x with streaks := kset (0, 0) x.streaks (4 * g + w) (j, n) }, .corrected j, false)
    else
      let second := x.dead.any fun p => p.1 == g
      let s2 := s1.setSaddle k { x with
        dead := x.dead ++ [(g, 20 * w + j)], streaks := kset (0, 0) x.streaks (4 * g + w) (0, 0) }
      (s2.setF (saddleDeadMask e) 0 l (s2.getF (saddleDeadMask e) 0 l ||| 2 ^ g),
        .corrected j, second || (s2.fenceOf 0).degrade)

/-! ### Hold buffers and delivery (R418, R420, R421) -/

/-- The hold buffer of the sender at end e of a link (R420): flits of the last 64 cycles, at most 64, and those that the receiver
discarded. -/
def State.holdFlit (s : State) (l e : Nat) (x : SaddleFlit) : State :=
  let k := 2 * l + e
  let y := s.saddle k
  let kept := (y.hold ++ [x]).filter fun f => f.discarded || decide (s.time < f.sentAt + 640)
  s.setSaddle k { y with hold := kept.drop (kept.length - 64) }

/-- A flit's 512 bytes land at an address, with the poison that its words had already and that of uncorrectable ones (R421). -/
def State.landFlit (s : State) (a : Nat) (words : List (List Byte × Bool)) : State :=
  if s.extentReach a 512 ≠ .ok then s
  else
    let marks := (words.zipIdx).flatMap fun x => (List.range 2).map fun h => x.1.2 || s.poisoned (a + 8 * x.2 + 4 * h) 4
    s.writeMarked a (words.flatMap (·.1)) marks

/-- The words of a flit are decoded at end e of a link and delivered: word w of the group that carries the k-th 32 bytes holds flit bytes
32k + 8w to 32k + 8w + 7 (R418, R421). The second part tells whether the link must degrade. -/
def State.deliverFlit (s : State) (l e : Nat) (groups : List Nat) (x : SaddleFlit) (errs : List SymErr) : State × Bool :=
  let r := (List.range 64).foldl (fun (y : State × List (List Byte × Bool) × Bool) i =>
    let z := y.1.saddleWord l e (groups.getD (i / 4 % max 1 groups.length) 0) (i % 4) (badSymbols errs i)
    (z.1, y.2.1 ++ [z.2.1.delivered errs i (leNat ((x.data.drop (8 * i)).take 8))], y.2.2 || z.2.2)) (s, [], false)
  (match x.dst with | some a => r.1.landFlit a r.2.1 | none => r.1, r.2.2)

/-- After a training the senders at both ends send again what the receivers discarded (R420); with the link DOWN it goes another way
(R425). -/
def State.resendFlits (s : State) (l : Nat) : State :=
  let groups := saddleGroups (s.getF SADDLE_STATUS_WIDTH 0 l) (s.getF SADDLE_STATUS_SEL 0 l)
  (List.range 2).foldl (fun u e =>
    let k := 2 * l + e
    let again := (u.saddle k).hold.filter (·.discarded)
    let u1 := u.setSaddle k { u.saddle k with hold := ((u.saddle k).hold.filter fun f => !f.discarded) }
    again.foldl (fun v f =>
      if groups.isEmpty then
        match f.dst with
        | some a => v.landFlit a ((List.range 64).map fun i => ((f.data.drop (8 * i)).take 8, false))
        | none => v
      else ((v.deliverFlit l (1 - e) groups f []).1).holdFlit l e { f with sentAt := v.time, discarded := false }) u1) s

/-- Settings that a training of link l tries, in order (R422). -/
def State.saddleSettings (s : State) (l : Nat) : List (Nat × Nat) :=
  let w := s.getF SADDLE_LEDGER_WIDTH 0 l
  let q := s.getF SADDLE_LEDGER_SEL 0 l
  let all : List (Nat × Nat) := [(0, 0), (1, 0), (1, 1), (2, 0), (2, 1), (2, 2), (2, 3)]
  let own := all.filter fun p => p.1 == w
  (own.filter fun p => p.2 == q) ++ (own.filter fun p => p.2 != q) ++ (all.filter fun p => decide (w < p.1))

/-- The first setting that passes: no group in it has a dead mark at either end or failed its pattern (R422). -/
def State.saddleResult (s : State) (l : Nat) (failed : List Nat) : Option (Nat × Nat) :=
  (s.saddleSettings l).find? fun p => (saddleGroups p.1 p.2).all fun g =>
    !failed.contains g && !(s.getF SADDLE_ERRORS_A_DEAD_MASK 0 l).testBit g && !(s.getF SADDLE_ERRORS_B_DEAD_MASK 0 l).testBit g

/-- An answer over the sideband: message type, then its fields; none while its signals float (R519). -/
def State.sideband (s : State) (fields : List Nat) : State := if s.pins.floating then s else s.emit .other 131072 fields []

/-- Whether the package is in recovery (R468). -/
def State.inRecovery (s : State) : Bool := s.flag BOOT_STATUS_RECOVERY 0 0

/-- Whether the sideband serves no command: in recovery (R468), where it answers that it does not, and while its signals float (R519). -/
def State.muted (s : State) : Bool := s.inRecovery || s.pins.floating

end Sys2Proof.Machine
end

