-- ==== Sys2Proof/Machine/Remote.lean ====
section
/-!
DEFINITION. Meanings of the remote operations (chapter 07) and of the pooled tier (chapter 06, R179 to R182): issue from the
tile queue, arrival at the target, responses, deadlines.
-/
namespace Sys2Proof.Machine

open Sys2Proof

/-! ### Issue from the tile queue (R75, Tables 2.15, 2.16) -/

/-- The request of a PUT or GET word of core g of die d. -/
def State.tileRequest (s : State) (d g : Nat) (e : TqEntry) : RemReq :=
  let ptr := e.taOf (e.f 48 45)
  let loc := (e.taOf (e.f 52 49)).toNat
  let kind : RemKind := if e.opc = 0x22 then .get else if decide (ptrSpace ptr < 2) && isPort (ptrAddr ptr) then .enqueue else .put
  ⟨.core g, kind, e.opc, ptr, loc % 2 ^ 48, (e.f 41 14 + 1) * 64, e.f 44 42, 0, false, [], [], 0, e.f 57 57 == 1,
   e.f 56 53, e.srstep, s.job, e.f 13 13 == 1, decide (loc / 2 ^ 48 ≠ 0), (s.coreOf d g).moveSeq⟩

/-- Whether an address lies on a flag word. -/
def isFlagWord (a : Nat) : Bool :=
  match place a with
  | .flagWord _ _ _ => true
  | _ => false

/-- The request of an ATOMIC word, with its operand read (R200). -/
def State.atomicRequest (s : State) (d g : Nat) (e : TqEntry) : State × RemReq :=
  let ptr := e.taOf (e.f 52 49)
  let aop := e.f 41 38
  let x := s.localRead d g (e.taOf (e.f 48 45)).toNat (if aop = 2 then 16 else 8)
  let kind : RemKind := if decide (ptrSpace ptr < 2) && isFlagWord (ptrAddr ptr) then .notify else .atomic
  (x.1, ⟨.core g, kind, e.opc, ptr, 0, 64, e.f 44 42, aop, e.f 37 37 == 1, x.2.1, x.2.2,
    (e.taOf (e.f 36 33)).toNat, e.f 57 57 == 1, e.f 56 53, e.srstep, s.job, e.f 32 32 == 1, false, (s.coreOf d g).moveSeq⟩)

/-- A remote operation takes a place in the move pipe, and asks the tracker for an entry. -/
def State.startRemote (s : State) (d g : Nat) (e : TqEntry) (r : RemReq) : Option State :=
  if 16 ≤ (s.coreOf d g).moves.length then none
  else
    let t := s.updCore d g fun c => { c with moves := c.moves ++ [⟨e, true, true, c.moveSeq⟩], moveSeq := c.moveSeq + 1 }
    some (t.remoteIssue State.fireTrigger d r)

/-- PUT, or ENQUEUE where it names a queue port (R75, R197, R203). -/
def execPut (d : Fin 4) (g : Fin 96) (s : State) : Host.Outcome State Fault Refusal :=
  .next (s.issue d g 0x21 fun e => s.startRemote d g e (s.tileRequest d g e)).afterWork

/-- GET (R197). -/
def execGet (d : Fin 4) (g : Fin 96) (s : State) : Host.Outcome State Fault Refusal :=
  .next (s.issue d g 0x22 fun e => s.startRemote d g e (s.tileRequest d g e)).afterWork

/-- ATOMIC, or NOTIFY where it names a flag word (R75, R200, R205). -/
def execAtomic (d : Fin 4) (g : Fin 96) (s : State) : Host.Outcome State Fault Refusal :=
  .next (s.issue d g 0x23 fun e => let x := s.atomicRequest d g e; x.1.startRemote d g e x.2).afterWork

/-- TRACKER_GRANT: a free entry goes to the next waiting requester in turn (R187). -/
def execTrackerGrant (d : Fin 4) (s : State) : Host.Outcome State Fault Refusal :=
  let t := s.tracker d
  if !s.dieRunning d ∨ s.trackerRoom d ≤ t.entries.length then .next s
  else
    match t.nextWaiter with
    | none => .next s
    | some r =>
      let s1 := s.setTracker d { t with waiters := t.waiters.erase r, turn := (r.who.index + 1) % 112 }
      .next (s1.grantWaiter d r).afterWork

/-- The entry of a tracker. -/
def State.entryOf (s : State) (d id : Nat) : Option TrackEntry := (s.tracker d).entries.find? fun e => e.id == id

/-- FENCE_RELEASE: an operation behind a FENCE goes once every earlier one of its core has completed (R194). -/
def execFenceRelease (d : Fin 4) (id : Fin 4096) (s : State) : Host.Outcome State Fault Refusal :=
  match s.entryOf d id with
  | none => .next s
  | some e =>
    if e.phase ≠ .fenced ∨ (s.tracker d).fenced e.req e.order then .next s
    else .next (s.sendEntry State.fireTrigger d e).afterWork

/-! ### Arrival -/

/-- PUT_ARRIVE (R197, R198). -/
def execPutArrive (g : Segment) (s : State) : Host.Outcome State Fault Refusal := .next (s.arrive State.fireTrigger 1 g)

/-- GET_ARRIVE (R197, R198). -/
def execGetArrive (g : Segment) (s : State) : Host.Outcome State Fault Refusal := .next (s.arrive State.fireTrigger 2 g)

/-- ATOMIC_ARRIVE (R196, R200, R202). -/
def execAtomicArrive (g : Segment) (s : State) : Host.Outcome State Fault Refusal := .next (s.arrive State.fireTrigger 3 g)

/-- NOTIFY: an atomic on a flag word, which may fire its trigger (R205). -/
def execNotify (g : Segment) (s : State) : Host.Outcome State Fault Refusal := .next (s.arrive State.fireTrigger 6 g).afterWork

/-! ### Responses -/

/-- A completion from the host or a pooled range that no operation awaits any more (R181, R212). -/
def State.dropLateHost (s : State) (d id : Nat) : State :=
  s.setTracker d { s.tracker d with late := (s.tracker d).late.filter fun l => !(l.1 == id && l.2.2 == hostSeg) }

/-- REMOTE_RESPONSE: an ACK or DATA response to entry `id` of die d with step tag `step` and SEG64 (R190, R213). For a
reservation (SEG64 0x0FFF_FFFF) it grants the credits, or refuses it back (R362). A response that no operation awaits is
discarded (R188, R212). -/
def execRemoteResponse (d : Fin 4) (id : Fin 4096) (step seg64 status : Nat) (refused : Bool) (data : List Byte)
    (marks : List Bool) (s : State) : Host.Outcome State Fault Refusal :=
  if (s.tracker d).late.contains (id.val, step, seg64) then .next (s.dropLate d (id, step, seg64))
  else
    match s.entryOf d id with
    | none => .next s
    | some e =>
      if !s.dieRunning d ∨ e.req.step ≠ step then .next s
      else if e.phase = .reserving ∧ !s.ptrOwn e.req.ptr then
        if seg64 ≠ 0x0FFFFFFF then .next s
        else if refused then .next (s.updEntry d id fun x => { x with phase := .refused (s.fabricNow + 10000) })
        else if status = stDONE then .next (s.sendGranted d e).afterWork
        else .next (s.finish d id status []).afterWork
      else .next (s.landResponse d id step seg64 status data marks).afterWork

/-- REMOTE_TIMEOUT: the deadline of an operation on the fabric or to the host passes (R212). -/
def execRemoteTimeout (d : Fin 4) (id : Fin 4096) (s : State) : Host.Outcome State Fault Refusal :=
  match s.entryOf d id with
  | none => .next s
  | some e =>
    if (e.phase ≠ .sent ∧ e.phase ≠ .host) ∨ !s.dieRunning d then .next s
    else
      let t := s.timeTo e.deadline
      let t1 := if statusMax e.status stTIMEOUT = stTIMEOUT then t.addF TIMEOUT_COUNT_COUNT d 0 1 else t
      .next (t1.abandon d id stTIMEOUT).afterWork

/-- CLEAR_HW: HIGH_WATER takes IN_USE (Table 7.12). -/
def State.clearHw (s : State) (d : Nat) : State :=
  s.setF TRACKER_STATUS_HIGH_WATER d 0 (s.getF TRACKER_STATUS_IN_USE d 0)

/-- CLEAR_HW: a write of CLEAR_HW to TRACKER_STATUS. -/
def execClearHw (d : Fin 4) (s : State) : Host.Outcome State Fault Refusal :=
  if s.dieRunning d then .next (s.clearHw d) else .next s

/-! ### The pooled tier (R179 to R182) -/

/-- A range entry becomes LOST: cause, count, record; requests in flight to it complete UNREACHABLE (R180, R181). -/
def State.loseRange (s : State) (n cause : Nat) : State :=
  if s.rangeState n ≠ 1 then s
  else
    let s1 := ((s.setF RANGE_STATE_STATE 0 n 2).setF RANGE_STATE_CAUSE 0 n cause).addF POOL_LOSS_COUNT_COUNT 0 0 1
    let s2 := s1.raise 1 0x13 campDie n 0 (s1.reg RANGE_BASE 0 n).toNat (s1.reg RANGE_SIZE 0 n).toNat cause
    (List.range 4).foldl (fun u d => u.endWhere d stUNREACHABLE fun e => match e.phase with | .uio m _ => m == n | _ => false) s2

/-- POOLED_ACCESS: the Camp die serves a SPACE 0b10 access by the range entry that contains it (R179), where its local extent still answers
(R39); it waits while that is held (R175). -/
def execPooledAccess (d : Fin 4) (id : Fin 4096) (s : State) : Host.Outcome State Fault Refusal :=
  match s.entryOf d id with
  | none => .next s
  | some e =>
    if e.phase ≠ .camp ∨ s.requestHeld d e.req then .next s
    else
      let a := ptrAddr62 e.req.ptr
      let st := statusMax (s.localSide e.req) (s.poolStatus a e.req.len)
      match s.rangeOf a e.req.len with
      | none => .next (s.finish d id st []).afterWork
      | some n =>
        if st ≠ stDONE then .next (s.finish d id st []).afterWork
        else
          let t := if e.req.kind = .put ∧ !e.req.staged then s.meetErrs e.req.loc e.req.len false else s
          let p := t.putBytes e.req
          .next ((t.updEntry d id fun x => { x with
            phase := .uio n (s.flag POOL_EXPERT_LOSS_ON_POISON 0 0)
            deadline := s.fabricNow + s.getF POOL_EXPERT_UIO_TIMEOUT_US 0 0 * 1000
            status := if p.2.contains true then statusMax x.status stPOISONED else x.status }).emit .uio n
              ([d.val, id.val, e.req.kind.op, a, e.req.len] ++ poisonedUnits p.2) p.1)

/-- How a UIO request ended: 0 completed, 1 with Unsupported Request or Completer Abort, 2 with poison. LOSS_ON_POISON acts as it stood when
the request started (R22, R180). -/
def execUioCompletion (d : Fin 4) (id : Fin 4096) (result : Fin 3) (data : List Byte) (marks : List Bool) (s : State) :
    Host.Outcome State Fault Refusal :=
  if (s.tracker d).late.any fun l => l.1 == id.val && l.2.2 == hostSeg then .next (s.dropLateHost d id)
  else
    match s.entryOf d id with
    | none => .next s
    | some e =>
    match e.phase with
    | .uio n loss =>
      match result.val with
      | 0 => .next (s.landData d id e.order stDONE data marks).afterWork
      | 1 => .next ((s.finish d id stUNREACHABLE []).loseRange n 2).afterWork
      | _ =>
        let s1 := s.landData d id e.order stPOISONED data marks
        .next (if loss then s1.loseRange n 4 else s1).afterWork
    | _ => .next s

/-- UIO_TIMEOUT: a UIO request's time passes; it completes TIMEOUT, and its range is LOST (R180, R181). -/
def execUioTimeout (d : Fin 4) (id : Fin 4096) (s : State) : Host.Outcome State Fault Refusal :=
  match s.entryOf d id with
  | none => .next s
  | some e =>
    match e.phase with
    | .uio n _ =>
      let t := (s.timeTo e.deadline).addF TIMEOUT_COUNT_COUNT d 0 1
      .next ((t.abandon d id stTIMEOUT).loseRange n 1).afterWork
    | _ => .next s

/-- EXPANDER_REMOVED: the fabric manager reports the expander behind a range entry removed (R180). -/
def execExpanderRemoved (n : Fin 32) (s : State) : Host.Outcome State Fault Refusal := .next (s.loseRange n 3).afterWork

/-- Whether a range entry overlaps another that is VALID or LOST (R179). -/
def State.rangeClash (s : State) (n : Nat) : Bool :=
  (List.range 32).any fun m =>
    m != n && s.rangeState m != 0 && decide (s.rangeBase n < s.rangeBase m + s.rangeSize m) &&
    decide (s.rangeBase m < s.rangeBase n + s.rangeSize n)

/-- A write of v to STATE of a range entry (R179, R182, Table 6.16). -/
def State.writeRangeState (s : State) (n v : Nat) : State :=
  if 2 ≤ v ∨ (v = 1 ∧ s.rangeClash n) then s.setF POOL_BLK_STATUS_RANGE_ERR 0 0 1
  else (s.setF RANGE_STATE_STATE 0 n v).setF RANGE_STATE_CAUSE 0 n 0

/-- RANGE_STATE_WRITE (R179). -/
def execRangeStateWrite (n : Fin 32) (v : Fin 4) (s : State) : Host.Outcome State Fault Refusal :=
  .next (s.writeRangeState n v)

end Sys2Proof.Machine
end

