-- ==== Sys2Proof/Machine/SecOps.lean ====
section
/-!
DEFINITION. Sideband commands and measurements as shared operations (R476, R477, R479).
-/
namespace Sys2Proof.Machine

open Sys2Proof

/-- Refuse a sideband command with a reason (R477): 1 signature, 2 sequence, 3 no operator key, 4 malformed. -/
def State.refuseCommand (s : State) (reason : Nat) : State :=
  (s.setF SEC_BLK_STATUS_CMD_REFUSED 0 0 1).sideband [stINVALID, reason]

/-- The reason a signed command is refused for, 0 where none is (R477; assumption 42 orders the reasons). -/
def State.commandReason (s : State) (c : Option SideCommand) : Nat :=
  match c, s.sec.operatorKey with
  | none, _ => 4
  | some _, none => 3
  | some x, some key =>
    if !hssVerify key x.covered x.signature then 1
    else if x.seq ≤ s.sec.lastSeq then 2
    else 0

/-- The last accepted SEQ is persisted (R477). -/
def State.keepSeq (s : State) (seq : Nat) : State :=
  s.setSec fun x => { x with seqRecord := some (.of "command sequence" (leBytes 8 seq)) }

/-- A signed command: refused, or SEQ is kept, the command answered, and its effect by its BODY taken (R477). In recovery the sideband serves
none (R468). -/
def State.signedCommand (s : State) (c : Option SideCommand) (act : List Byte → State → State) : State :=
  if s.muted then s.sideband [255]
  else
    match s.commandReason c, c with
    | 0, some x => act x.body ((s.keepSeq x.seq).sideband [stDONE])
    | r, _ => s.refuseCommand r

/-- Put four words into measurement m. -/
def State.setMeasure (s : State) (m : Nat) (v : Nat) : State :=
  (List.range 4).foldl (fun u w => u.setReg MEASURE 0 (4 * m + w) (BitVec.ofNat 64 (v / 2 ^ (64 * w)))) s

/-- M4: the digest of the operator key, admission policy and massif plan records (R479). -/
def State.measureRecords (s : State) : State := s.setMeasure 4 (leNat (sha256 s.sec.recordBytes))

end Sys2Proof.Machine
end

