-- ==== Sys2Proof/Machine/LinkOps.lean ====
section
/-!
DEFINITION. The CXL link as shared operations: leaving a low-power state (R457, R460), the end of a binding (R393 to R395), doorbells (R398 to R401).
-/
namespace Sys2Proof.Machine

open Sys2Proof

/-- An entry into a low-power state ends: the package is RUNNING, and what was held meanwhile acts (R457, R460). -/
def State.endEntry (s : State) : State := (s.setF STATE_STATUS_STATE 0 0 0).takeOrders

/-- WAKE (R460, R463): Bivouac is left, Refuge resumes; an entry under way ends (assumption 43). -/
def State.wake (s : State) : State :=
  match s.powerState with
  | 1 => s.endEntry
  | 2 => s.setF STATE_STATUS_STATE 0 0 3
  | 4 => s.endEntry
  | 5 => s.setF STATE_STATUS_STATE 0 0 6
  | _ => s

/-- A reset other than power-on and package: held by a low-power state, which it leaves, else acting at once, after it ended an
entry (R457). A power-on or package reset contains it (R456). -/
def State.gateReset (s : State) (r : HeldReset) (act : State → State) : State :=
  if s.power.inReset then s
  else match s.powerState with
  | 0 => act s
  | 1 => act s.wake
  | 4 => act s.wake
  | _ =>
    let s1 := s.wake
    (s1.setLow fun y => { y with heldResets := y.heldResets ++ [r] })

/-! ### The binding (R393 to R395) -/

/-- BOUND falls: what R395 says, and every operation in flight to the host completes UNREACHABLE. -/
def State.endBinding (s : State) : State :=
  if !s.bound then s
  else (List.range 4).foldl (fun u d => u.endWhere d stUNREACHABLE fun e => decide (e.phase = .host)) s.unbind

/-- A host-directed request ended: four failures in succession end the binding (R394). -/
def State.hostResult (s : State) (failed : Bool) : State :=
  if failed then
    let n := s.host.failedRun + 1
    let s1 := (s.setHost fun r => { r with failedRun := n })
    if 4 ≤ n then s1.endBinding else s1
  else (s.setHost fun r => { r with failedRun := 0 })

/-- The CXL link goes down (R394, Table 6.16): BOUND falls and every VALID pooled range is LOST with CAUSE 5. -/
def State.cxlDown (s : State) : State :=
  let s1 := (s.setHost fun r => { r with linkUp := false })
  ((List.range 32).foldl (fun u n => u.loseRange n 5) s1.endBinding).releaseAll

/-! ### Doorbells (R398 to R401) -/

/-- A ring enters ERROR (R401). -/
def State.ringError (s : State) (r cause : Nat) : State :=
  if s.getF RING_STATE_STATE 0 r = 0 then s
  else ((s.setF RING_STATE_STATE 0 r 3).setF RING_STATE_CAUSE 0 r cause).setF HOST_BLK_STATUS_RING_ERR 0 0 1

/-- Whether a ring reads its doorbell line. -/
def State.ringOn (s : State) (r : Nat) : Bool := s.flag RING_CFG_SQ_EN 0 r || s.flag RING_CFG_CQ_EN 0 r

/-- The host address of a ring's doorbell line; that of ring 64 is the error ring's (R398, R496). -/
def State.doorbellAddr (s : State) (r : Nat) : Nat := (if r = 64 then s.getF ERR_DB_ADDR_ADDR 0 0 else s.getF DB_ADDR_ADDR 0 r) * 64

/-- SQ_TAIL and CQ_HEAD of a doorbell line (Table 15.2). -/
def lineTail (line : List Byte) : Nat := leNat (line.take 4)
def lineHead (line : List Byte) : Nat := leNat ((line.drop 4).take 4)

/-- The doorbell line of ring r is read (R398, R401); that of ring 64 is the error ring's (R496). -/
def State.readDoorbell (s : State) (r : Nat) (line : List Byte) : State :=
  let sqTail := lineTail line
  let cqHead := lineHead line
  if r = 64 then s.setErr fun e => { e with consumed := sqTail }
  else if !s.ringOn r then s
  else
    let s1 := s.setRing r { s.ring r with sqTail := sqTail, cqHead := cqHead }
    if s.getF RING_STATE_STATE 0 r = 3 then s1
    else if s.flag RING_CFG_SQ_EN 0 r && decide (s.sqSize r < (sqTail + 2 ^ 32 - s.getF RING_COUNTS_FETCHED 0 r) % 2 ^ 32) then
      s1.ringError r 1
    else
      let ahead := (cqHead + 2 ^ 32 - s.getF RING_COUNTS_POSTED 0 r) % 2 ^ 32
      if s.flag RING_CFG_CQ_EN 0 r && decide (0 < ahead ∧ ahead < 2 ^ 31) then s1.ringError r 3 else s1

end Sys2Proof.Machine
end

