-- ==== Sys2Proof/Machine/ResetOps.lean ====
section
/-!
DEFINITION. Resets as shared operations (chapter 18): what power-on and package reset leave, the boot (chapter 19), the start of
the Crest dies, function, die and port reset, FAULT# (R521).
-/
namespace Sys2Proof.Machine

open Sys2Proof

/-- Whether an address lies in a core or cluster memory, which a package reset keeps (Table 18.3). -/
def inSram (a : Nat) : Bool := decide (0x400000000000 ≤ a) && decide (a < 0x400400000000)

/-- What a power-on reset (`power`) or a package reset leaves beside the registers: memory lost or kept, work in flight gone, the
calibration images of the stacks dropped, the error unit's sticky state kept where its letters say so (R456, Tables 6.4 and 18.3). -/
def State.clearParts (s : State) (power : Bool) : State :=
  { s with
    mem := if power then [] else kfilter inSram s.mem
    poison := if power then [] else kfilter (fun k => inSram (4 * k)) s.poison
    cores := []
    trackers := []
    arrivals := []
    talusCtl := []
    shells := if power then [] else kfilter (fun k => k / 256 != 4) s.shells
    paths := []
    saddles := []
    cols := []
    clock := ⟨0, s.time, 0⟩
    contour := Contour.zero
    red := Reduction.zero
    upd := Update.zero
    cor := Cornice.zero
    summit := Summit.zero
    fabric := Fabric.zero
    queues := []
    reserves := []
    switchbacks := []
    traverses := []
    host := HostLink.zero
    fences := []
    sec := { s.sec with wanted := [], signing := none, waiting := [] }
    err := { s.err with
      windows := [], unsignalled := 0, ringCount := 0, consumed := 0
      nextSeq := if power then 0 else s.err.nextSeq }
    selftest := SelfTest.zero
    low := LowPower.zero
    power := { s.power with due := 0, watts := [], underMs := 0, offRun := [], excluded := [], thermal := [], sensorPace := [],
                             easedAt := [], hotAt := [], coolSince := none, unforce := false, waits := [], convPace := none } }

/-- A power-on reset (`power`) or a package reset: registers by their letters (R456), the parts, the profile in effect shown (R17). -/
def State.resetParts (s : State) (power : Bool) : State :=
  let s0 := s.flushRecords
  let s1 := ((if power then s0.resetPowerRegs else s0.resetPackageRegs).emptyHolding).clearParts power
  s1.setF PROFILE_STATE_CURRENT 0 0 (min 2 s1.effective)

/-- Whether the package has shut down until a power-on reset (R439, R440, R442). -/
def State.shutDown (s : State) : Bool :=
  match s.power.stopped with
  | some k => k == 0x41 || k == 0x45 || k == 0x46
  | none => false

/-- Every stack goes into self-refresh. -/
def State.refreshStacks (s : State) : State := (List.range 12).foldl (fun u t => u.selfRefresh t) s

/-- Whether any sensor, of a junction, a converter or a stack, read 90 °C or more the last time (R452). -/
def State.tooHot (s : State) : Bool := s.power.temps.any fun e => decide (90 ≤ e.2)

/-! ### Boot (R468 to R470, R478, R479) -/

/-- One slot by number. -/
def Security.slot (x : Security) (i : Nat) : BootSlot := if i = 0 then x.slotA else x.slotB

/-- What a finished update and a verified manifest change at a package reset (R470). -/
def State.takeUpdates (s : State) : State :=
  s.setSec fun x =>
    let y := { x with active := if x.switchSlot then 1 - x.active else x.active, switchSlot := false }
    match x.staged with
    | some (ok, digest, records) => { y with manifestOk := ok, manifestDigest := digest, manifest := records, staged := none }
    | none => y

/-- Whether the Camp image of a slot passes (Table 19.2, R469). -/
def Security.campPasses (x : Security) (i : Nat) : Bool := (x.slot i).campOk && decide (x.svnFuse ≤ (x.slot i).campSvn)

/-- The stages of the Camp die (Table 19.2), which check the firmware, the identity certificate and the manifest: the slot booted,
BOOT_STATUS, the measurements, the massif plan, an interrupted tree build. Recovery leaves the Crest dies off. -/
def State.bootCamp (s : State) : State :=
  let s1 := s.takeUpdates
  let x := s1.sec
  let first := x.active
  let slot := if x.campPasses first then some first else if x.campPasses (1 - first) then some (1 - first) else none
  let b := x.slot (slot.getD first)
  let ok := slot.isSome && b.crestOk && decide (x.svnFuse ≤ b.crestSvn) && x.manifestOk && certHolds x.issuerKeys x.certificate
  let s2 := (((s1.setF BOOT_STATUS_SVN_FUSE 0 0 x.svnFuse).setF BOOT_STATUS_CAMP_SVN 0 0 b.campSvn).setF BOOT_STATUS_CREST_SVN 0 0
    b.crestSvn).setF BOOT_STATUS_RECOVERY 0 0 (b2n (!ok))
  let s3 := (s2.setF BOOT_STATUS_FALLBACK 0 0 (b2n (slot.isSome && slot != some first))).setF BOOT_STATUS_ACTIVE_SLOT 0 0 first
  let s3 := s3.setF ID_VERSION_FW_BUILD 0 0 b.campBuild
  let s4 := ((((s3.setMeasure 0 (leNat (sha256 (Config.romFuses x.serial x.svnFuse)))).setMeasure 1 b.campDigest).setMeasure 2
    b.crestDigest).setMeasure 3 x.manifestDigest).measureRecords
  let s5 := match x.plan with
    | some (dims, coord) => (s4.setReg MASSIF_DIMS 0 0 (BitVec.ofNat 64 dims)).setReg MASSIF_COORD 0 0 (BitVec.ofNat 64 coord)
    | none => s4
  let s5 := s5.firstGen
  let next := s5.getF SIG_STATUS_NEXT_INDEX 0 0
  let tree := next / 1048576
  let build := decide (tree < 1024) && ((x.cached tree).isNone ||
    ((x.cached (tree + 1)).isNone && decide (tree < 1023) && decide (1048576 - next % 1048576 < 4096)))
  (s5.setF SIG_STATUS_BUILDING 0 0 (b2n build)).setPower fun p => { p with stopped := if ok then none else some 0 }

/-- Whether stack t is qualified (R478). -/
def State.qualified (s : State) (t : Nat) : Bool :=
  s.sec.manifestOk && s.sec.manifest.any fun r => r.position.val == t && r.serial.toNat == s.sec.stackSerials.getD t 0

/-- The Crest dies start (Table 19.2, R215, R418, Table 6.4): stacks and links train; a die whose image fails is fenced with CAUSE 4;
FAULT# is released; SVN_FUSE rises to the lower of the two versions booted (R469, assumption 44). -/
def State.startCrest (s : State) : State :=
  let s1 := s.setPower fun p => { p with stopped := none }
  let s2 := (List.range 12).foldl (fun u t =>
    if u.qualified t then (u.setF STACK_STATE_STATE (t / 3) (t % 3) 1).setStack t { Stack.zero with training := .boot }
    else (u.setF STACK_STATE_STATE (t / 3) (t % 3) 0).setF STACK_STATE_CAUSE (t / 3) (t % 3) 1) s1
  let s3 := (List.range 4).foldl (fun u l => u.trainLink l) s2
  let s4 := (List.range 16).foldl (fun u p => u.trainPort p) s3
  let s5 := (List.range 4).foldl (fun u d => if s.pins.badLoad.testBit d then u.fenceOne d 4 else u) s4
  let v := min (s5.getF BOOT_STATUS_CAMP_SVN 0 0) (s5.getF BOOT_STATUS_CREST_SVN 0 0)
  let raise := decide (s5.sec.svnFuse < v) && decide (s5.sec.svnRaises < 64) && !s5.liveDies.isEmpty
  let s6 := if raise then
      (s5.setSec fun x => { x with svnFuse := v, svnRaises := x.svnRaises + 1 }).setF BOOT_STATUS_SVN_FUSE 0 0 v
    else s5
  ((s6.setPins fun p => { p with faultLow := s6.liveDies.isEmpty }).isolate.tryFatal).applyProfile

/-- A power-on or package reset completes (R452, R468, R523, R526): not without SYS_REFCLK, nor while PERST# is low, a boundary-scan
instruction holds it or the package is shut down. -/
def State.completeReset (s : State) (b : BootInputs) : State :=
  let held := s.pins.perstLow || s.pins.tapIr == 0x00 || s.pins.tapIr == 0x08 || s.pins.tapIr == 0x09
  let s0 := (s.setPins fun p => { p with
    sysClk := b.sysClk, sris := b.sris, badLoad := b.badLoad
    floating := p.floating && (!b.sysClk || held || s.shutDown) }).setSec fun x => { x with stackSerials := b.serials.map (·.toNat) }
  if !b.sysClk || held then s0
  else if s0.shutDown then s0.setPower fun p => { p with inReset := false }
  else
    let tripped := decide (s0.power.stopped = some 0x44 ∨ s0.power.stopped = some 0x144)
    let s1 := (s0.setPower fun p => { p with inReset := false }).bootCamp
    let s2 := if s1.inRecovery then s1.setPins fun p => { p with faultLow := true }
      else if tripped && s1.tooHot then s1.setPower fun p => { p with stopped := some 0x144 }
      else s1.startCrest
    s2.deliverPersistent

/-- A package reset begins (R455, R457): what it resets, and its source; it stays held until completeReset. -/
def State.beginPackageReset (s : State) (source : Nat) : State :=
  ((s.resetParts false).setF STATE_STATUS_LAST_RESET 0 0 source).setPower fun p => { p with inReset := true }

/-- A package reset that nothing holds. -/
def State.packageReset (s : State) (source : Nat) (b : BootInputs) : State := (s.beginPackageReset source).completeReset b

/-! ### Function, die and port reset -/

/-- A function reset (R416, Table 18.3): rings detach and stop, descriptors that were not forwarded go, the others run with their
completions discarded, the spill area and the holding buffer empty, fields with F return, and so do SRSTEP and SRBLOCK. The cornice goes on
with its expert fields as latched until the next step boundary. -/
def State.functionReset (s : State) : State :=
  let s1 := (s.flushRecords.resetFunctionRegs).emptyHolding
  let keep := s.host.descs.filter fun d => d.started && !(s.host.due.any fun c => c.kind == 0 && c.uid == d.uid)
  let s2 := s1.setHost fun h => { h with
    chains := [], due := [], spill := [], turn := 0, msix := [], pending := []
    rings := h.rings.map fun p => (p.1, { RingPair.zero with orders := p.2.orders, chained := p.2.chained }) }
  let s3 := (List.range 384).foldl (fun (u : State) (g : Nat) => u.setCore g { u.core g with srstep := 0, srblock := 0 }) s2
  let s5 := s3.setErr fun e => { e with ringCount := 0, consumed := 0, unsignalled := 0 }
  s5.setDescs (keep.map fun d => { d with discard := true })

/-- Whether a RESET of the dies of a mask is refused: it would leave no die RUNNING (R435). -/
def State.dieResetRefused (s : State) (mask : Nat) : Bool := (s.liveDies.filter fun d => !mask.testBit d).isEmpty

/-- A write of RESET to DIE_CMD (Table 16.12, R433, R435). -/
def State.dieReset (s : State) (mask : Nat) : State :=
  let named := (List.range 4).filter fun d => mask.testBit d
  if s.dieResetRefused mask then s.setF PKG_BLK_STATUS_DIE_CMD_ERR 0 0 1
  else
    let run := named.filter s.dieRunning
    let fatal := named.filter fun d => s.dieState d == 1 && (s.fenceOf d).causes.contains 4
    let s1 := run.foldl (fun u d => if u.dieRunning d then u.fenceOne d 1 else u) s
    let s2 := s1.isolate.tryFatal
    let s3 := run.foldl (fun u d => u.clearCause d 1) s2
    (fatal.foldl (fun u d => u.clearCause d 4) s3).afterWork

/-- A write of RESET to PORT_CTRL (Table 8.14, R233, R486). -/
def State.portReset (s : State) (p : Nat) : State :=
  if !s.dieRunning (p / 4) then s
  else
    let x := s.port p
    let s1 := ((s.resetPortRegs (p / 4) (p % 4)).clearKeys p).setPort p x.emptied
    let s2 := s1.spillPort p x
    let s3 := if s.portState p = portUP ∨ s.portState p = portRETRAIN then (s2.setPort p x.emptied).linkReport p else s2
    s3.trainPort p

/-- A fence by a cause of Table 16.5, in a package that has not stopped. -/
def State.fenceCause (s : State) (d cause : Nat) : State :=
  if s.power.stopped.isSome ∨ s.power.inReset then s else s.fence d cause

/-- A held reset acts (R457). -/
def State.doHeldReset (s : State) (r : HeldReset) : State :=
  match r with
  | .function => s.functionReset
  | .dies mask => s.dieReset mask
  | .port p => s.portReset p
  | .fence d cause => s.fenceCause d cause

/-- A fence that a low-power state holds (R457). -/
def State.gateFence (s : State) (d cause : Nat) : State := s.gateReset (.fence d cause) fun u => u.fenceCause d cause

/-- Dies outside the kept set are fenced with CAUSE 5, which a low-power state holds (R426, R457). -/
def State.gateIsolate (s : State) : State :=
  if s.powerState = 0 then s.isolate
  else
    let kept := s.keptSet
    (s.liveDies.filter fun d => !kept.contains d).foldl (fun u d => u.gateFence d 5) s

/-- What the Crest dies lose when they are powered off, for Refuge (Table 18.3) or at a trip (R452): only Talus keeps its contents; what is
lost, accumulators included, reads as never written (assumption 55). -/
def State.powerOffCrest (s : State) : State :=
  let s1 := (List.range 16).foldl (fun u p => ((u.clearKeys p).setPort p Port.zero).setPortF PORT_STATE_STATE p portOFF) s
  { s1 with
    mem := kfilter (fun k => decide (k < 0xC000000000)) s1.mem
    poison := kfilter (fun k => decide (4 * k < 0xC000000000)) s1.poison
    cores := []
    trackers := []
    contour := Contour.zero
    red := Reduction.zero
    upd := Update.zero
    queues := []
    reserves := []
    switchbacks := []
    traverses := [] }

/-! ### Shutdown (R435, R439, R440, R442, R452) -/

/-- The package stops for a reason, the KIND of its record with its UNIT and arguments: Crest issue stops, the record is made, LEAVE goes if a port is up, FAULT#
is low. A shutdown already under way stays. -/
def State.shutdown (s : State) (kind unit a0 a1 : Nat) : State :=
  if s.shutDown then s
  else
    let s1 := s.raise 3 kind campDie unit 0 a0 a1 0
    let s2 := if s1.anyPortUp then s1.sendLeave else s1
    (s2.setPower fun p => { p with stopped := some kind }).setPins fun p => { p with faultLow := true }

/-- An error of class fatal-package (R435): the package stops and departs, FAULT# is low. -/
def State.packageFatal (s : State) : State :=
  if s.power.inReset ∨ s.power.stopped.isSome then s
  else
    let mask := (List.range 4).foldl (fun m d => if s.dieRunning d then m else m + 2 ^ d) 0
    let s1 := (s.sendLeave.raise 3 0x51 campDie 0 0 mask 0 0).setPower fun p => { p with stopped := some 0x51 }
    s1.setPins fun p => { p with faultLow := true }

/-- A trip (R452): a running self-test is aborted, stacks go into self-refresh, the Crest dies are powered off. `sensor` is die × 16 +
junction sensor, or 80 + stack. It acts during a held reset too (R529). -/
def State.trip (s : State) (sensor reading : Nat) : State :=
  if s.shutDown ∨ s.power.stopped = some 0x44 ∨ s.power.stopped = some 0x144 then s
  else
    let s1 := if s.getF ST_STATUS_STATE 0 0 = 3 then s.endTest 2 0 0 else s
    (s1.refreshStacks.shutdown 0x44 0 sensor reading).powerOffCrest

end Sys2Proof.Machine
end

