-- ==== Sys2Proof/Machine/ErrorCmd.lean ====
section
/-!
DEFINITION. Meanings of the commands of error reporting (R495 to R500).
-/
namespace Sys2Proof.Machine

open Sys2Proof

/-- ERROR_RECORD: the oldest raised record is counted, coalesced, written to the ring, held, or kept in the persistent store (R496 to
R500). -/
def execErrorRecord (s : State) : Host.Outcome State Fault Refusal :=
  match s.err.raised with
  | [] => .next s
  | r :: rest => .next ((s.setErr fun e => { e with raised := rest }).processRecord r)

/-- RECORD_WINDOW_EXPIRY: the n-th open window closes; with occurrences counted in it, one record with their number and the latest one's
arguments is made (R497), and has the step and fabric time at which it is made (R495). -/
def execRecordWindowExpiry (n : Fin 256) (s : State) : Host.Outcome State Fault Refusal :=
  match s.err.windows[n.val]? with
  | none => .next s
  | some w =>
    let t := (s.timeTo w.closes).setErr fun e => { e with windows := e.windows.eraseIdx n.val }
    .next (if w.count = 0 then t else t.placeRecord { w.last with
      count := min 65535 w.count, step := t.stepOf w.die, ftime := t.fabricNow })

/-- HOLD_DRAIN: the oldest held record is written to the ring (R498). -/
def execHoldDrain (s : State) : Host.Outcome State Fault Refusal :=
  match s.err.holding with
  | [] => .next s
  | r :: rest => if s.errReady then .next ((s.setHolding rest).writeRecord r) else .next s

/-- HOLD_OVERFLOW: the holding buffer has room after drops: a record with their number is placed (R498). -/
def execHoldOverflow (s : State) : Host.Outcome State Fault Refusal :=
  if s.err.drops = 0 ∨ 4096 ≤ s.err.holding.length then .next s
  else
    let r : ErrRec := ⟨0, 0x61, campDie, 0, 0, 1, s.stepOf campDie, false, false, s.fabricNow, s.err.drops, 0, 0, 0⟩
    .next (((s.countRecord 0).setErr fun e => { e with drops := 0 }).placeRecord r)

end Sys2Proof.Machine
end

