-- ==== Sys2Proof/Machine/Host.lean ====
section
/-!
DEFINITION. Meanings of the commands of the host link (chapter 15): binding, rings, descriptors, completions, device memory.
-/
namespace Sys2Proof.Machine

open Sys2Proof

/-! ### Binding (R394 to R396) -/

/-- HOST_ENUMERATE: the host enumerates the function, commits its HDM decoder (in units of 256 MiB) and sets Bus Master Enable
(R391, R394). -/
def execHostEnumerate (hdm : Fin 3073) (s : State) : Host.Outcome State Fault Refusal :=
  if !s.host.linkUp ∨ s.power.inReset then .next s
  else
    .next ((s.setHost fun r => { r with hdmSize := hdm * 0x10000000, failedRun := 0 }).setF HOST_BLK_STATUS_BOUND 0 0 1)

/-- UNBIND_NOTICE: a signed sideband command ends the binding (R394, R395, R477). -/
def execUnbindNotice (msg : List Byte) (s : State) : Host.Outcome State Fault Refusal :=
  .next ((s.signedCommand (sideCommand 0x0005 List.isEmpty msg) fun _ u => u.endBinding).releaseAll)

/-- CXL_LINK_DOWN (R394, Table 6.16). -/
def execCxlLinkDown (s : State) : Host.Outcome State Fault Refusal := .next s.cxlDown

/-- CXL_LINK_UP: the link trains to a width (1, 2, 4, 8 lanes by code) and a rate (8, 16, 32, 64 GT/s by code) (R387). -/
def execCxlLinkUp (width rate : Fin 4) (s : State) : Host.Outcome State Fault Refusal :=
  if s.power.inReset then .next s
  else .next (s.setHost fun r => { r with linkUp := true, linkWidth := 2 ^ width.val, linkRate := 8 * 2 ^ rate.val })

/-- Whether ATTACH is refused: no host is bound, or the package is in recovery (Table 15.11, R471). -/
def State.attachRefused (s : State) : Bool := !s.bound || s.inRecovery

/-- What a write of ATTACH to HOST_CMD does (R396). -/
def State.attach (s : State) : State :=
  if s.attachRefused then (s.setF HOST_BLK_STATUS_CFG_ERR 0 0 1)
  else
    ((List.range 64).foldl (fun u r => u.setRing r { u.ring r with unsignalled := 0 }) (s.setF HOST_BLK_STATUS_ATTACHED 0 0 1))

/-- ATTACH (R394, R396, R415); refused while BOUND is 0 and in recovery (R468). -/
def execAttach (s : State) : Host.Outcome State Fault Refusal :=
  .next s.attach

/-- What a write of DETACH to HOST_CMD does (R394). -/
def State.detach (s : State) : State := (s.setF HOST_BLK_STATUS_ATTACHED 0 0 0)

/-- DETACH (R394). -/
def execDetach (s : State) : Host.Outcome State Fault Refusal :=
  .next s.detach

/-- IDE_KM: keys are installed while BOUND is 1 (R387, R390, R482): kind 0 of a selective stream on CXL.io, 1 of CXL.cachemem IDE in
containment mode, 2 in skid mode. -/
def execIdeKm (kind : Fin 3) (stream : Fin 256) (key : BitVec 256) (s : State) : Host.Outcome State Fault Refusal :=
  if !s.bound then .next s
  else
    .next (s.setHost fun r =>
      if kind.val = 0 then { r with ide := (r.ide.filter fun x => x / 2 ^ 256 != stream.val) ++ [stream.val * 2 ^ 256 + key.toNat] }
      else { r with cxlIde := some (kind.val == 2, key.toNat) })

/-! ### Rings (R397 to R401) -/

/-- What a write to RING_CFG does (R397, Table 15.11). -/
def State.ringCfg (s : State) (r : Nat) (sqEn cqEn : Bool) (sqLog cqLog : Nat) (vector : Nat) (modUs modCount : Nat) : State :=
  let sq := s.flag RING_CFG_SQ_EN 0 r
  let cq := s.flag RING_CFG_CQ_EN 0 r
  let bad (n : Nat) : Bool := decide (n < 6) || decide (16 < n)
  if bad sqLog || bad cqLog || (sq && sqLog != s.getF RING_CFG_SQ_LOG2 0 r) || (cq && cqLog != s.getF RING_CFG_CQ_LOG2 0 r)
  then (s.setF HOST_BLK_STATUS_CFG_ERR 0 0 1)
  else
    let s1 := ((((s.setF RING_CFG_SQ_EN 0 r (b2n sqEn)).setF RING_CFG_CQ_EN 0 r (b2n cqEn)).setF RING_CFG_SQ_LOG2 0 r sqLog).setF
      RING_CFG_CQ_LOG2 0 r cqLog).setF RING_CFG_VECTOR 0 r vector
    let s2 := (s1.setF RING_CFG_MOD_US 0 r modUs).setF RING_CFG_MOD_COUNT 0 r (max 1 modCount)
    let s3 := if sqEn && !sq then (s2.setF RING_COUNTS_FETCHED 0 r 0).setRing r { s2.ring r with sqTail := 0 } else s2
    let s4 := if cqEn && !cq then
        (s3.setF RING_COUNTS_POSTED 0 r 0).setRing r { s3.ring r with cqHead := 0, unsignalled := 0 }
      else s3
    let st := s4.getF RING_STATE_STATE 0 r
    (if !sqEn && !cqEn then (s4.setF RING_STATE_STATE 0 r 0).setF RING_STATE_CAUSE 0 r 0
      else if st = 0 then s4.setF RING_STATE_STATE 0 r 1 else s4)

/-- RING_CFG_WRITE: a write of RING_CFG (R397, Table 15.11). A size outside 6 to 16, or a new size of a part that is enabled, refuses
the write. -/
def execRingCfgWrite (r : Fin 64) (sqEn cqEn : Bool) (sqLog cqLog : Fin 32) (vector : Fin 64) (modUs modCount : Fin 65536)
    (s : State) : Host.Outcome State Fault Refusal :=
  .next (s.ringCfg r sqEn cqEn sqLog cqLog vector modUs modCount)

/-- The Camp die reads the doorbell line of ring r, line 64 being the error ring's (R398, R399, R496), where it is in force: the read succeeded
(R394). `stored` tells that the host stored to it, which may wake a package in Bivouac (R460). -/
def State.takeDoorbell (s : State) (r : Nat) (line : List Byte) (stored : Bool) : State :=
  let s1 := ((s.emit .hostRead (s.doorbellAddr r) [r] []).readDoorbell r line).hostResult false
  if stored && s.powerState == 2 && s.wakesOn STATE_EXPERT_WAKE_ON_DOORBELL && decide (r < 64) && s.ringOn r then s1.wake else s1

/-- DOORBELL_INVALIDATE: a host store to a held doorbell line, which the Camp die reads again: the 64 bytes at DB_ADDR (R398, R399, R401). -/
def execDoorbellInvalidate (r : Fin 65) (line : List Byte) (s : State) : Host.Outcome State Fault Refusal :=
  if !s.bound ∨ s.flag HOST_EXPERT_DOORBELL_MODE 0 0 then .next s else .next (s.takeDoorbell r line true)

/-- DOORBELL_POLL: the Camp die reads a doorbell line by a CXL.io read (R398, R399, R401, R496); other pointers than at the last read tell that
the host stored to it meanwhile (R460). -/
def execDoorbellPoll (r : Fin 65) (line : List Byte) (s : State) : Host.Outcome State Fault Refusal :=
  if !s.bound ∨ !s.flag HOST_EXPERT_DOORBELL_MODE 0 0 then .next s
  else .next (s.takeDoorbell r line (lineTail line != (s.ring r).sqTail || lineHead line != (s.ring r).cqHead))

/-- A ring that has descriptors to fetch (R394, R400, R401). -/
def State.fetchable (s : State) (r : Nat) : Bool :=
  s.flag RING_CFG_SQ_EN 0 r && s.getF RING_STATE_STATE 0 r == 1 && (s.ring r).sqTail != s.getF RING_COUNTS_FETCHED 0 r

/-- The ring that is served next: the first with descriptors, from the turn on (R400). -/
def State.nextRing (s : State) : Option Nat :=
  ((List.range 64).map fun i => (s.host.turn + i) % 64).find? s.fetchable

/-- A descriptor takes a handle; one that breaks a rule completes INVALID_DESCRIPTOR (R402, R407). -/
def State.takeDesc (s : State) (bs : List Byte) (handle ring : Nat) : State :=
  let x := s.ring ring
  let d := descOf bs s.host.uids handle ring x.orders
  let s1 := ((s.setRing ring { x with orders := x.orders + 1 }).setHost fun y => { y with uids := y.uids + 1 }).setDescs (s.host.descs ++ [d])
  if descOk bs d then s1 else s1.descDone d.uid stINVALID 0 0

/-- Fetch up to n descriptors of a ring from the bytes that were read, while handles are free. -/
def State.fetchDescs (s : State) (r : Nat) (data : List Byte) : Nat → State
  | 0 => s
  | n + 1 =>
    let f := s.getF RING_COUNTS_FETCHED 0 r
    if !s.handleFree || !s.fetchable r || decide (data.length < 64) then s
    else
      let s0 := s.emit .hostRead (s.getF SQ_BASE_BASE 0 r * 4096 + f % s.sqSize r * 64) [r] []
      let s1 := (s0.setF RING_COUNTS_FETCHED 0 r (f + 1)).takeDesc (data.take 64) (r * 2 ^ 26 + f % 2 ^ 25) r
      s1.fetchDescs r (data.drop 64) n

/-- RING_FETCH: the ring front serves the next ring in turn, with up to FETCH_BURST descriptors, which the host's memory gives (R400,
R407, R408). -/
def execRingFetch (data : List Byte) (s : State) : Host.Outcome State Fault Refusal :=
  if !s.attached ∨ !s.awake ∨ s.power.inReset ∨ s.power.stopped.isSome then .next s
  else
    match s.nextRing with
    | none => .next s
    | some r =>
      let n := min 64 (max 1 (s.getF HOST_EXPERT_FETCH_BURST 0 0))
      let s1 := s.fetchDescs r data n
      -- with no handle free, or nothing read, the turn stays (R408)
      if s1.getF RING_COUNTS_FETCHED 0 r = s.getF RING_COUNTS_FETCHED 0 r then .next s
      else .next (s1.setHost fun y => { y with turn := (r + 1) % 64, failedRun := 0 })

/-- CHAIN_READ: chain n reads its next descriptor from package memory once a handle is free (R405, R408). A descriptor that cannot be
read ends the chain with CHAIN_ERR (assumption 40). -/
def execChainRead (n : Fin 1024) (s : State) : Host.Outcome State Fault Refusal :=
  match s.host.chains[n.val]? with
  | none => .next s
  | some c =>
    if !s.handleFree ∨ !s.awake ∨ s.power.inReset ∨ s.power.stopped.isSome ∨ s.accessHeld c.addr 64 false then .next s
    else
      let put (u : State) (l : List Chain) : State := (u.setHost fun r => { r with chains := l })
      let rest := s.host.chains.eraseIdx n.val
      if s.extentReach c.addr 64 ≠ .ok ∨ s.poisoned c.addr 64 then .next ((put s rest).setF HOST_BLK_STATUS_CHAIN_ERR 0 0 1)
      else
        let bs := s.bytes c.addr 64
        let x := s.ring c.ring
        let s1 := s.setRing c.ring { x with chained := x.chained + 1 }
        let s2 := s1.takeDesc bs (c.ring * 2 ^ 26 + 2 ^ 25 + x.chained % 2 ^ 25) c.ring
        let last := (bs.getD 1 0).toNat.testBit 7
        if last then .next (put s2 rest)
        else if 4096 ≤ c.count + 1 then .next ((put s2 rest).setF HOST_BLK_STATUS_CHAIN_ERR 0 0 1)
        else .next (put s2 (s.host.chains.set n.val ⟨c.addr + 64, c.ring, c.count + 1⟩))

/-! ### Descriptors (R403, R404, Table 15.4) -/

/-- Whether a descriptor of the same ring, fetched earlier, may start and has not (R404). -/
def State.startsBefore (s : State) (d : Desc) : Bool :=
  s.host.descs.any fun x => x.ring == d.ring && decide (x.order < d.order) && x.released && !x.started && !s.completed x.uid

/-- The descriptor of a handle that may start now: of the opcode, not behind ORDER, not started, next of its ring in fetch order, its die's
Col link up unless the die is fenced. -/
def State.startable (s : State) (handle opcode : Nat) : Option Desc :=
  s.host.descs.find? fun d =>
    d.handle == handle && d.opcode == opcode && d.released && !d.started && !s.completed d.uid && s.awake && !s.startsBefore d &&
    (!s.dieRunning d.die || s.getF COL_STATUS_STATE 0 d.die == 0)

/-- Descriptor number `uid` starts. -/
def State.startDesc (s : State) (uid : Nat) : State :=
  (s.setHost fun r => { r with descs := r.descs.map fun d => if d.uid = uid then { d with started := true } else d })

/-- Run a descriptor on its die: COLLAPSED where its step is collapsed (R406), UNREACHABLE where its die is fenced (R403), unless what its
own work would fail with, `check`, takes precedence (R27). -/
def State.runDesc (s : State) (handle : BitVec 32) (opcode : Nat) (check : State → Desc → Nat) (act : State → Desc → State) :
    Host.Outcome State Fault Refusal :=
  match s.startable handle.toNat opcode with
  | none => .next s
  | some d =>
    let s1 := s.startDesc d.uid
    let coll := if s.collapseDiscards d.step 0 then stCOLLAPSED else stDONE
    let gone := if s.dieRunning d.die then stDONE else stUNREACHABLE
    if statusMax coll gone ≠ stDONE then .next (s1.descDone d.uid (statusMax (check s1 d) (statusMax coll gone)) 0 0)
    else .next (act s1 d).afterWork

/-- A descriptor whose work has no failure of its own. -/
def noCheck : State → Desc → Nat := fun _ _ => stDONE

/-- NOP. -/
def execNopDesc (handle : BitVec 32) (s : State) : Host.Outcome State Fault Refusal :=
  s.runDesc handle 0 noCheck fun u d => u.descDone d.uid stDONE 0 0

/-- The operation of a COPY: a MOVE, a GET or a PUT, an ENQUEUE where it names a queue port (Table 15.4, Table 7.1). -/
def State.copyRequest (s : State) (d : Desc) : RemReq :=
  let src := BitVec.ofNat 64 d.a0
  let dst := BitVec.ofNat 64 d.a1
  let req (kind : RemKind) (ptr : Word) (loc : Nat) : RemReq :=
    ⟨.ring d.uid, kind, 0, ptr, loc % 2 ^ 48, d.a2, d.cls, 0, false, [], [], 0, false, 0, d.step, s.job, false,
     decide (loc / 2 ^ 48 ≠ 0), 0⟩
  if ptrSpace src ≠ 0 then req .get src d.a1
  else if ptrSpace dst ≠ 0 then
    req (if decide (ptrSpace dst < 2) && isPort (ptrAddr dst) then .enqueue else .put) dst d.a0
  else req .move src d.a1

/-- COPY. -/
def execCopy (handle : BitVec 32) (s : State) : Host.Outcome State Fault Refusal :=
  s.runDesc handle 1 (fun u d => u.sourceStatus d.die (u.copyRequest d)) fun u d => u.remoteIssue noFire d.die (u.copyRequest d)

/-- The operation of an ATOMIC, a NOTIFY where it names a flag word (Table 15.4, R75). -/
def State.descAtomic (s : State) (d : Desc) : RemReq :=
  let ptr := BitVec.ofNat 64 d.a0
  let kind : RemKind := if isFlagWord (ptrAddr ptr) then .notify else .atomic
  ⟨.ring d.uid, kind, 0, ptr, 0, 64, d.cls, d.a3 % 16, d.a3.testBit 4, leBytes 8 d.a1 ++ leBytes 8 d.a2, [], 0, false, 0,
   d.step, s.job, false, false, 0⟩

/-- ATOMIC. -/
def execDescAtomic (handle : BitVec 32) (s : State) : Host.Outcome State Fault Refusal :=
  s.runDesc handle 2 (fun u d => u.sourceStatus d.die (u.descAtomic d)) fun u d => u.remoteIssue State.fireTrigger d.die (u.descAtomic d)

/-- The cores that a LAUNCH names. -/
def Desc.cores (d : Desc) : List Nat := (List.range 96).filter fun g => d.a1.testBit (g / 12) && d.a2.testBit (g % 12)

/-- What a LAUNCH fails with: an entry address that nothing backs (R40, R39, R171), or a named core that runs (Table 15.4). -/
def State.launchStatus (s : State) (d : Desc) : Nat :=
  statusMax (s.extentReach d.a0 2).status (if d.cores.any fun g => s.flag CORE_CTRL_RUN d.die g then stNORES else stDONE)

/-- LAUNCH. -/
def execLaunch (handle : BitVec 32) (s : State) : Host.Outcome State Fault Refusal :=
  s.runDesc handle 3 State.launchStatus fun u d =>
    if u.launchStatus d ≠ stDONE then u.descDone d.uid (u.launchStatus d) 0 0
    else
      let u1 := d.cores.foldl (fun v g => (v.setF SPUR_ENTRY_ENTRY d.die g (d.a0 / 2)).coreRun d.die g true) u
      u1.descDone d.uid stDONE 0 0

/-- Dies of a mask that do not run. -/
def State.deadMask (s : State) (mask : Nat) : Nat :=
  (List.range 4).foldl (fun m d => if mask.testBit d && !s.dieRunning d then m + 2 ^ d else m) 0

/-- A POSITION or STEP_READY on each die of its mask that runs; DONE_DEGRADED with the others in DETAIL (R403). -/
def State.runMasked (s : State) (handle : BitVec 32) (opcode : Nat) (act : State → Desc → Nat → State) :
    Host.Outcome State Fault Refusal :=
  match s.startable handle.toNat opcode with
  | none => .next s
  | some d =>
    let s1 := s.startDesc d.uid
    if s.collapseDiscards d.step 0 then .next (s1.descDone d.uid stCOLLAPSED 0 0)
    else
      let s2 := ((List.range 4).filter fun k => d.mask.testBit k && s.dieRunning k).foldl (fun u k => act u d k) s1
      let dead := s.deadMask d.mask
      .next (s2.descDone d.uid (if dead = 0 then stDONE else stDEGRADED) 0 dead).afterWork

/-- POSITION (R250). -/
def execPosition (handle : BitVec 32) (s : State) : Host.Outcome State Fault Refusal :=
  s.runMasked handle 4 fun u d k => u.writePos k d.a0

/-- STEP_READY as a descriptor (R266). -/
def execDescStepReady (handle : BitVec 32) (s : State) : Host.Outcome State Fault Refusal :=
  s.runMasked handle 5 fun u d k => u.stepReady k d.a0

/-- UPDATE: the request is registered (R300). -/
def execUpdate (handle : BitVec 32) (s : State) : Host.Outcome State Fault Refusal :=
  s.runDesc handle 6 noCheck fun u d => (u.requestUpdate (d.a0 % 4096)).descDone d.uid stDONE 0 0

/-- What an EXPORT fails with at once: a descriptor address that is no multiple of 64 bytes (R321), or that nothing backs (R40). -/
def State.exportStatus (s : State) (d : Desc) : Nat := if d.a0 % 64 ≠ 0 then stINVALID else (s.extentReach d.a0 64).status

/-- EXPORT: the export waits for EXPORT_START (R322). -/
def execExportDesc (handle : BitVec 32) (s : State) : Host.Outcome State Fault Refusal :=
  s.runDesc handle 7 State.exportStatus fun u d =>
    if u.exportStatus d ≠ stDONE then u.descDone d.uid (u.exportStatus d) 0 0
    else
    let x : ExportRun := ⟨u.upd.seq, d.die, none, some d.uid, d.a0 % 2 ^ 48, d.step, false, 0, stDONE, 0, [], 0, []⟩
    u.setUpd fun v => { v with exports := v.exports ++ [x], seq := v.seq + 1 }

/-- ORDER_RELEASE: a descriptor with ORDER = 1 may start once every one fetched earlier from its ring has completed (R404). -/
def execOrderRelease (handle : BitVec 32) (s : State) : Host.Outcome State Fault Refusal :=
  match s.host.descs.find? fun d => d.handle == handle.toNat && !d.released with
  | none => .next s
  | some d =>
    if s.host.descs.any fun x => x.ring == d.ring && decide (x.order < d.order) && !s.completed x.uid then .next s
    else
      .next (s.setHost fun r => { r with descs := r.descs.map fun x => if x.uid = d.uid then { x with released := true } else x })

/-! ### Completions (R409 to R415) -/

/-- The lowest slot of the spill area that no completion holds. -/
def lowestFree (used : List Nat) : Nat → Nat → Nat
  | 0, n => n
  | fuel + 1, n => if used.contains n then lowestFree used fuel (n + 1) else n

/-- The address of a slot of the spill area (R411). -/
def State.spillAddr (s : State) (slot : Nat) : Nat := s.getF SPILL_BASE_BASE 0 0 * 2 ^ 26 + slot * 32

/-- A completion enters the spill area: its 32 bytes are written at SPILL_BASE, at the lowest free slot (R411; assumption 41). -/
def State.spillTo (s : State) (c : Completion) : State :=
  let n := lowestFree (s.host.spill.map (·.slot)) s.host.spill.length 0
  (s.setSpill (s.host.spill ++ [{ c with slot := n }]) c.cq).post campDie 109 (s.spillAddr n) (c.bytes 0 true) []

/-- Place one completion: in its ring or the spill area; none where it must wait (R410, R411). -/
def State.placeCompletion (s : State) (c : Completion) : Option State :=
  let free (t : State) : State := if c.kind = 0 then t.freeHandle c.uid else t
  if !s.mustSpill c then some (free (s.writeCompletion c false))
  else if !s.spillFull then some (free (s.spillTo c))
  else if c.kind = 0 then none
  else
    some ((s.satF SPILL_STATUS_LOST 0 0 1).setRing c.cq { s.ring c.cq with lost := (s.ring c.cq).lost + 1 })

/-- The first waiting completion that may be placed, placed. -/
def State.postFirst (s : State) : List Completion → List Completion → State
  | _, [] => s
  | before, c :: after =>
    match s.placeCompletion c with
    | some t => (t.setHost fun r => { r with due := before ++ after })
    | none => s.postFirst (before ++ [c]) after

/-- COMPLETION_POST: a waiting completion goes to its ring or to the spill area; where that is full, one of a descriptor waits and
others are dropped (R410, R411). -/
def execCompletionPost (s : State) : Host.Outcome State Fault Refusal := .next (s.postFirst [] s.host.due)

/-- SPILL_DRAIN: the oldest spilled completion of a ring is read back and written once the ring has room (R396, R410); it waits while its slot
is held (R175). -/
def execSpillDrain (r : Fin 64) (s : State) : Host.Outcome State Fault Refusal :=
  match s.host.spill.find? fun c => c.cq == r.val with
  | none => .next s
  | some c =>
    let a := s.spillAddr c.slot
    if s.cqReady r && !s.engineHeld campDie a 32 false then
      .next (((s.look campDie 109 a 32).setSpill (s.host.spill.erase c) r).writeCompletion c true)
    else .next s

/-- SPILL_LOSS: the spill area has room after drops: one completion of KIND 3 for each ring that lost any (R412). -/
def execSpillLoss (s : State) : Host.Outcome State Fault Refusal :=
  .next ((List.range 64).foldl (fun u r =>
    let x := u.ring r
    if x.lost = 0 ∨ u.spillFull then u
    else
      let c : Completion := ⟨0, 0, 0, 0, 3, 0, !u.bound, x.lost, 0, r, 0, u.fabricNow, false⟩
      (u.setRing r { x with lost := 0 }).spillTo c) s)

/-- MSI_MOD_TIMEOUT: MOD_US have passed since the oldest completion not signalled was written (R414). -/
def execMsiModTimeout (r : Fin 64) (s : State) : Host.Outcome State Fault Refusal :=
  let us := s.getF RING_CFG_MOD_US 0 r
  if (s.ring r).unsignalled = 0 ∨ us = 0 then .next s
  else .next ((s.timeTo ((s.ring r).oldest + us * 1000)).signalRing r)

/-- What a write of CLEAR_HW to HANDLE_COUNT does (Table 15.11). -/
def State.handleClearHw (s : State) : State :=
  (s.setF HANDLE_COUNT_HIGH_WATER 0 0 (s.getF HANDLE_COUNT_IN_FLIGHT 0 0))

/-- HANDLE_CLEAR_HW: a write of CLEAR_HW to HANDLE_COUNT (Table 15.11). -/
def execHandleClearHw (s : State) : Host.Outcome State Fault Refusal :=
  .next s.handleClearHw

/-! ### Device memory (R391, R392, R460, R462) -/

/-- HDM_ACCESS: a host access to a line of HDM within the decoder's committed size: kind 0 a read that keeps no copy, 1 a read of a shared
copy, 2 a read of a copy the host may modify, 3 a write that gives the line back. -/
def execHdmAccess (line : Fin 12884901888) (kind : Fin 4) (data : List Byte) (pois : Bool) (s : State) :
    Host.Outcome State Fault Refusal :=
  if !s.bound ∨ !s.host.linkUp ∨ s.host.hdmSize < line.val * 64 + 64 ∨ s.power.inReset then .next s
  else .next (s.hdmAccess ⟨line, kind, data, pois⟩)

/-- BISNP_COMPLETE: a back-invalidation of a line completes, with the line's bytes where the host held it modified; what waited for it
goes on (R392). Which access asked for it is kept only where it makes room for a grant (assumption 117). -/
def execBisnpComplete (line : Fin 12884901888) (data : List Byte) (pois : Bool) (s : State) : Host.Outcome State Fault Refusal :=
  match s.host.snoop.find? fun l => l.1 == line.val with
  | none => .next s
  | some l =>
    let s1 := if l.2 && !data.isEmpty then s.takeLine line data pois else s
    let s2 := s1.setSnoop (s.host.snoop.filter fun x => x.1 != line.val)
    .next (if s.host.victim = some line.val then s2.setHost fun r => { r with victim := none } else s2.addF SF_STATUS_BISNP 0 0 1).releaseAll

/-! ### Host-directed requests (R42, R394, R401) -/

/-- HOST_REQUEST_COMPLETION: how a host-directed request ended: 0 completed, 1 Unsupported Request, 2 Completer Abort, 3 timeout. It is the
operation of entry `id` of die d, or, where `ring` names one, the read of that ring's descriptors. -/
def execHostRequestCompletion (ring : Option (Fin 64)) (d : Fin 4) (id : Fin 4096) (result : Fin 4) (data : List Byte)
    (marks : List Bool) (s : State) : Host.Outcome State Fault Refusal :=
  let failed := result.val != 0
  match ring with
  | some r =>
    let s1 := if failed && s.bound then s.ringError r 2 else s
    .next ((s1.hostResult failed).releaseAll)
  | none =>
    if (s.tracker d).late.any fun l => l.1 == id.val && l.2.2 == hostSeg then .next (s.dropLateHost d id)
    else
      match s.entryOf d id with
      | none => .next s
      | some e =>
        if e.phase ≠ .host then .next s
        else
          let st := if result.val = 3 then stTIMEOUT else if failed then stUNREACHABLE
            else if decide (e.req.kind = .get) && marks.contains true then stPOISONED else stDONE
          let s1 := if result.val = 3 then s.addF TIMEOUT_COUNT_COUNT d 0 1 else s
          .next (((s1.landData d id e.order st data marks).hostResult failed).releaseAll)

end Sys2Proof.Machine
end

