-- ==== Sys2Proof/Machine/Massif.lean ====
section
/-!
DEFINITION. Meanings of the commands of massif membership (chapter 08, R237 to R245).
-/
namespace Sys2Proof.Machine

open Sys2Proof

/-- TRAILHEAD_WAIT_EXPIRY: TRAILHEAD_WAIT_MS passes with no HEARTBEAT (R241). -/
def execTrailheadWaitExpiry (s : State) : Host.Outcome State Fault Refusal :=
  if s.role ≠ 0 ∨ s.fabric.heard ∨ s.fabric.joinAt.isSome ∨ !s.awake then .next s
  else
    let t := s.timeTo (s.fabric.aloneSince + s.getF MASSIF_EXPERT_TRAILHEAD_WAIT_MS 0 0 * 1000000)
    if t.assignmentOk then .next t.becomeCandidate else .next (t.setF MEMBER_STATE_CAUSE 0 0 1)

/-- ELECT_TICK: a CANDIDATE broadcasts ELECT every 1 ms (R241). -/
def execElectTick (s : State) : Host.Outcome State Fault Refusal :=
  if s.role ≠ 1 then .next s
  else
    let t := s.timeTo s.fabric.nextBeat
    .next ((t.setFabric fun r => { r with nextBeat := t.fabricNow + 1000000 })).sendElect

/-- ELECT: a candidacy is heard; a lower identifier, or the same with a lower serial number, sends the package to JOINING (R241).
JOIN follows once a summit is known. -/
def execElect (device : Fin 10240) (serial term : Nat) (s : State) : Host.Outcome State Fault Refusal :=
  if s.deaf then .next s else
  let s1 := (s.setFabric fun r => { r with termSeen := max r.termSeen term })
  let lower := decide (device.val < s.device) || (device.val == s.device && decide (serial < s.sec.serial))
  if lower ∧ (s1.role = 0 ∨ s1.role = 1) ∧ s1.fabric.joinAt.isNone then
    if !s1.assignmentOk then .next (s1.setF MEMBER_STATE_CAUSE 0 0 1) else
    .next ((s1.setRole 2).setFabric fun r => { r with heard := false, lowerHeard := true })
  else .next s1

/-- ELECT_QUIET_EXPIRY: ELECT_QUIET_MS passes with no lower identifier heard (R241). -/
def execElectQuietExpiry (s : State) : Host.Outcome State Fault Refusal :=
  if s.role ≠ 1 ∨ s.fabric.lowerHeard then .next s
  else
    let t := s.timeTo (s.fabric.aloneSince + max 1 (s.getF MASSIF_EXPERT_ELECT_QUIET_MS 0 0) * 1000000)
    if t.assignmentOk then .next t.electSelf else .next (t.setF MEMBER_STATE_CAUSE 0 0 1)

/-- JOIN: the summit admits or refuses a package (R242, R474, R481). Of two packages with one identifier the one with the higher serial number
is refused, also where it was admitted before; the summit itself never is (R241; assumption 113). `evidence` are the 208 bytes of its report
with the identity proof over them; SERIAL, PART and the measurements are the report's, whose NONCE binds it to this summit (R480, R481). -/
def execJoin (device : Fin 10240) (dims term version : Nat) (evidence : List Byte) (s : State) :
    Host.Outcome State Fault Refusal :=
  let serial := fieldOf evidence 8 8
  if s.deaf then .next s else
  if !s.isSummit then .next s
  else if dims ≠ s.dims then .next (s.mgmt 0x83 device [device, 1])
  else if s.fabric.members.any fun m => m.device == device.val && (decide (m.serial < serial) || (m.device == s.device && m.serial != serial)) then
    .next (s.mgmt 0x83 device [device, 2])
  else if !s.joinProof term version evidence ∨ term ≠ s.term ∨ version + 16 < s.fabric.version ∨ !s.policyPass evidence then
    .next (s.mgmt 0x83 device [device, 3])
  else
    let rest := s.fabric.members.filter fun m => m.device != device.val
    let other := s.fabric.members.any fun m => m.device == device.val && m.serial != serial
    let s0 := if other then s.mgmt 0x83 device [device, 2] else s
    let s1 := s0.mgmt 0x83 device [device, 0]
    .next ((s1.publishMembers (rest ++ [⟨device, serial, 0, s1.fabricNow, none⟩])).publishMap).driveJobs

/-- ADMIT: admission (cause 0) with job 0x0000 (R242), or a refusal with its cause; JOIN goes again after 1 s (R241). Fabric time is taken whole from
the first CONTOUR packet (R254). -/
def execAdmitReply (cause : Fin 4) (s : State) : Host.Outcome State Fault Refusal :=
  if s.deaf then .next s else
  if s.role ≠ 2 then .next s
  else if cause.val = 0 then
    let s1 := ((s.setRole 3).setF MEMBER_STATE_CAUSE 0 0 0).changeJob 0
    .next ((s1.setContour fun c => { c with enter := true }).setFabric fun r =>
      { r with members := [⟨s1.device, s1.sec.serial, 0, 0, none⟩], version := 0, memberTerm := 0 })
  else
    let s1 := (s.setRole 0).setF MEMBER_STATE_CAUSE 0 0 cause
    .next (s1.setFabric fun r => { r with joinAt := some (s1.fabricNow + 1000000000) })

/-- JOIN_RETRY: one second after a refusal the package sends JOIN again (R241). -/
def execJoinRetry (s : State) : Host.Outcome State Fault Refusal :=
  if s.deaf then .next s else
  match s.fabric.joinAt with
  | some t => if s.role = 0 then .next ((s.timeTo t).startJoin s.fabric.version) else .next s
  | none => .next s

/-- HEARTBEAT_TICK: the summit broadcasts HEARTBEAT every 100 µs (R243). With the first one of its TERM it reports as every member does, to
itself (R253, R327; assumption 17). -/
def execHeartbeatTick (s : State) : Host.Outcome State Fault Refusal :=
  if !s.isSummit then .next s
  else
    let t := s.timeTo s.fabric.nextBeat
    let u := (t.setFabric fun r => { r with nextBeat := t.fabricNow + 100000, lastBeat := t.fabricNow, beatTerm := t.term })
    let v := u.mgmt 0x84 0x3FFF [u.term, u.device, standbyOf u.device u.fabric.members, u.fabric.version, u.fabric.gen]
    .next (if t.fabric.beatTerm < t.term then v.sendReport.sendState else v)

/-- A member hears HEARTBEAT (R243); the first one of a new TERM makes it report (R253, R327). -/
def State.memberBeat (s : State) (term summit standby version gen : Nat) : State :=
  if term < s.term then s.satF SUMMIT_INFO_STALE_TERM 0 0 1
  else
    let new := decide (s.fabric.beatTerm < term)
    let s1 := s.followSummit term summit standby
    let s2 := if new then s1.sendReport.sendState else s1
    let s3 := if s2.fabric.beats % 16 = 0 then s2.mgmt 0x85 summit [s2.device] else s2
    if s3.fabric.memberTerm < term ∨ s3.fabric.version < version ∨ s3.fabric.gen < gen then s3.mgmt 0x89 summit [s3.device] else s3

/-- HEARTBEAT (R241, R243, R244, R253, R327). A refused package notes it and keeps to its retry (R242, assumption 119). -/
def execHeartbeat (term : Fin 65536) (summit standby : Fin 16384) (version gen : Nat) (s : State) :
    Host.Outcome State Fault Refusal :=
  if s.deaf then .next s else
  match s.role with
  | 5 => if s.term < term.val then .next ((s.noteTerm term).aloneAgain true) else .next s
  | 2 =>
    let t := s.followSummit term summit standby
    if s.fabric.heard then .next (t.setFabric fun r => { r with version := version }) else .next (t.startJoin version)
  | 3 => .next (s.memberBeat term summit standby version gen)
  | 4 => .next (s.memberBeat term summit standby version gen)
  | _ =>
    if s.fabric.joinAt.isSome then
      .next (s.setFabric fun r => { r with heard := true, version := version, termSeen := max r.termSeen term })
    else .next ((s.followSummit term summit standby).startJoin version)

/-- STANDBY_TAKEOVER: 2 ms with no HEARTBEAT of its TERM (R241, R243). -/
def execStandbyTakeover (s : State) : Host.Outcome State Fault Refusal :=
  if s.role ≠ 4 then .next s else .next ((s.timeTo (s.fabric.lastBeat + 2000000)).takeOver)

/-- MEMBER_SILENCE_TIMEOUT: a member hears no HEARTBEAT for the larger of ELECT_QUIET_MS and 3 ms (R241). -/
def execMemberSilenceTimeout (s : State) : Host.Outcome State Fault Refusal :=
  if s.role ≠ 3 then .next s
  else
    let wait := max (max 1 (s.getF MASSIF_EXPERT_ELECT_QUIET_MS 0 0) * 1000000) 3000000
    .next ((s.timeTo (s.fabric.lastBeat + wait)).becomeCandidate)

/-- PRESENT: the summit hears a member (R244). -/
def execPresent (device : Fin 10240) (s : State) : Host.Outcome State Fault Refusal :=
  if s.deaf then .next s else
  if !s.isSummit then .next s
  else
    .next (s.setFabric fun r => { r with
      members := r.members.map fun m => if m.device = device.val then { m with present := s.fabricNow } else m })

/-- MEMBER_TIMEOUT: no PRESENT of a member for MEMBER_TIMEOUT_MS (R244). -/
def execMemberTimeout (device : Fin 10240) (s : State) : Host.Outcome State Fault Refusal :=
  if !s.isSummit ∨ device.val = s.device then .next s
  else
    match s.memberOf device with
    | none => .next s
    | some m =>
      .next ((s.timeTo (m.present + max 2 (s.getF MASSIF_EXPERT_MEMBER_TIMEOUT_MS 0 0) * 1000000)).depart [device]).driveJobs

/-- A member takes MEMBERSHIP (R243): of one TERM, each version once and in order (assumption 113). -/
def State.memberAdopt (s : State) (term version summit standby : Nat) (list : List Member) : State :=
  if term < s.term then s.satF SUMMIT_INFO_STALE_TERM 0 0 1
  else if term = s.fabric.memberTerm ∧ version ≤ s.fabric.version then s
  else (s.noteTerm term).adoptMembers version summit standby list

/-- MEMBERSHIP: a publication of members (device, serial number, job), their summit and standby (R241, R243, R244). -/
def execMembership (term : Fin 65536) (version : Nat) (summit standby : Fin 16384) (ms : List (Nat × Nat × Nat)) (s : State) :
    Host.Outcome State Fault Refusal :=
  if s.deaf then .next s else
  let list : List Member := ms.map fun m => ⟨m.1, m.2.1, m.2.2, 0, none⟩
  match s.role with
  | 5 => if s.term < term.val then .next ((s.noteTerm term).aloneAgain true) else .next s
  | 3 => .next (s.memberAdopt term version summit standby list).tryCandidate
  | 4 => .next (s.memberAdopt term version summit standby list).tryCandidate
  | _ => .next s

/-- SYNC: the summit sends a member the present membership and map (R243). -/
def execSync (device : Fin 10240) (s : State) : Host.Outcome State Fault Refusal :=
  if s.deaf then .next s else
  if s.isSummit && (s.memberOf device).isSome then .next ((s.sendMembers device).sendMap device) else .next s

/-- LEAVE: a member departs (R244). -/
def execLeave (device : Fin 10240) (s : State) : Host.Outcome State Fault Refusal :=
  if s.deaf then .next s else
  if s.isSummit && device.val != s.device then .next (s.depart [device]).driveJobs else .next s

/-- PARTITION_RECEIVE: the summit takes job assignments (device, job); each takes effect at the job's next re-shard, or at once
where the package is in no job and the job has no member yet (R47, R242, R245; assumption 34). -/
def execPartitionReceive (assign : List (Nat × Nat)) (s : State) : Host.Outcome State Fault Refusal :=
  if s.deaf then .next s else
  if !s.isSummit then .next s
  else
    let free (j : Nat) : Bool := (s.jobMembers j).isEmpty
    let ms := s.fabric.members.map fun m =>
      match assign.find? fun a => a.1 == m.device with
      | some a =>
        let j := a.2 % 65536
        if j = m.job then { m with nextJob := none }
        else if m.job = 0 ∧ free j then { m with job := j, nextJob := none } else { m with nextJob := some j }
      | none => m
    if ms.any fun m => s.fabric.members.any fun x => x.device == m.device && x.job != m.job then
      .next (s.publishMembers ms).driveJobs
    else .next (s.setFabric fun r => { r with members := ms })

end Sys2Proof.Machine
end

