-- ==== Sys2Proof/Machine/Package.lean ====
section
/-!
DEFINITION. Meanings of the commands of the Saddle and Col links, of fencing and rejoining a die, and of the sideband (chapter
16); the release of requests held by a path change (R31).
-/
namespace Sys2Proof.Machine

open Sys2Proof

/-- SADDLE_FLIT: a flit with its sender's WIDTH and SEL reaches end e of a link (R418 to R421). `data` is its 512 bytes, which the
sender's hold buffer keeps; `errs` gives its symbol errors by word, word 4k + w being word w of the flit's k-th 32 bytes; `dst` is where
they land, in the memory written or where read data go (none for a flit of requests). One that arrives during training, or with another
setting, is discarded and sent again. -/
def execSaddleFlit (l : Fin 4) (e : Fin 2) (width sel : Fin 4) (data : List Byte) (errs : List SymErr) (dst : Option (BitVec 48))
    (s : State) : Host.Outcome State Fault Refusal :=
  let x : SaddleFlit := ⟨data, dst.map (·.toNat), s.time, false⟩
  let st := s.getF SADDLE_STATUS_STATE 0 l
  if 2 ≤ st then .next s
  else if st = 1 then .next (s.holdFlit l (1 - e.val) { x with discarded := true })
  else if width.val ≠ s.getF SADDLE_STATUS_WIDTH 0 l ∨ sel.val ≠ s.getF SADDLE_STATUS_SEL 0 l then
    .next (((s.satF SADDLE_STATUS_WIDTH_MISMATCHES 0 l 1).holdFlit l (1 - e.val) { x with discarded := true }).trainLink l)
  else
    let r := (s.holdFlit l (1 - e.val) x).deliverFlit l e (saddleGroups width sel) x errs
    .next (if r.2 then r.1.trainLink l else r.1)

/-- SADDLE_TRAINING_DONE: a training of link l ends; `failed` are the groups whose pattern failed (R422 to R426). -/
def execSaddleTrainingDone (l : Fin 4) (failed : List (Fin 16)) (s : State) : Host.Outcome State Fault Refusal :=
  if s.getF SADDLE_STATUS_STATE 0 l ≠ 1 then .next s
  else
    let old := s.getF SADDLE_LEDGER_WIDTH 0 l
    let r := s.saddleResult l (failed.map (·.val))
    let w := match r with | some p => p.1 | none => 3
    let q := match r with | some p => p.2 | none => 0
    let lowered := decide (old < w)
    let again := (s.saddle (2 * l.val)).trained
    let s1 := ((s.setF SADDLE_STATUS_WIDTH 0 l w).setF SADDLE_STATUS_SEL 0 l q).setF SADDLE_STATUS_STATE 0 l (if w = 3 then 2 else 0)
    let s2 := if lowered then
        ((s1.setF SADDLE_LEDGER_WIDTH 0 l w).setF SADDLE_LEDGER_SEL 0 l q).setF PKG_BLK_STATUS_LEDGER_LOWERED 0 0 1
      else s1
    let s3 := if again || lowered then s2.satF SADDLE_STATUS_RETRAINS 0 l 1 else s2
    let s4 := (s3.setSaddle (2 * l.val) { s3.saddle (2 * l.val) with trained := true }).trainShells [(2, 2 * l.val), (2, 2 * l.val + 1)]
    .next ((((((s4.resendFlits l).noteHealth).repath).gateIsolate).reconnect.tryFatal).releaseAll)

/-- Whether a 64-byte Col flit passes the CRC-32 over its header and payload (R10, R427). -/
def colIntact (raw : List Byte) : Bool := leNat (raw.drop 60) == crc32 (raw.take 60)

def State.setCol (s : State) (d : Nat) (x : ColLink) : State := { s with cols := kset ColLink.zero s.cols d x }

def State.col (s : State) (d : Nat) : ColLink := kget ColLink.zero s.cols d

/-- One direction of a Col link. -/
def ColLink.dir (x : ColLink) (up : Bool) : ColDir := if up then x.up else x.down
def ColLink.setDir (x : ColLink) (up : Bool) (y : ColDir) : ColLink := if up then { x with up := y } else { x with down := y }

/-- The first of a list of waiting flits with the smallest kind, and the others (R428). -/
def firstKind : List (Nat × List Byte) → Option ((Nat × List Byte) × List (Nat × List Byte))
  | [] => none
  | x :: l =>
    match firstKind l with
    | none => some (x, [])
    | some (y, rest) => if x.1 ≤ y.1 then some (x, l) else some (y, x :: rest)

/-- What the sender sends at a flit slot: the flit to be sent again, or the first of the highest kind that waits (R427, R428), which its
replay buffer of 64 flits keeps. -/
def ColDir.slot (x : ColDir) : Option (List Byte × ColDir) :=
  match x.again, x.sent.getLast? with
  | true, some f => some (f, x)
  | _, _ =>
    match firstKind x.queue with
    | none => none
    | some (f, rest) => some (f.2, { x with queue := rest, sent := (x.sent ++ [f.2]).drop ((x.sent.length + 1) - 64) })

/-- Bytes with the bits of a list of places flipped. -/
def flipBits (bs : List Byte) (places : List Nat) : List Byte :=
  bs.zipIdx.map fun b => places.foldl (fun v p => if p / 8 = b.2 then v ^^^ BitVec.ofNat 8 (2 ^ (p % 8)) else v) b.1

/-- COL_FLIT: a flit slot of the Col link of die d, towards the Camp die (`up`) or the Crest die: `offered` joins what waits at the sender,
each flit's header and payload with its kind (R428); one flit goes with its CRC-32 and arrives with the bits `flips` flipped. One that
fails its CRC is sent again, the sixteenth time in succession the link retrains (R427). While it retrains, the sender holds. -/
def execColFlit (d : Fin 4) (up : Bool) (offered : List (Fin 4 × List Byte)) (flips : List (Fin 512)) (s : State) :
    Host.Outcome State Fault Refusal :=
  let st := s.getF COL_STATUS_STATE 0 d
  if 2 ≤ st then .next s
  else
    let c := s.col d
    let x := { c.dir up with queue := (c.dir up).queue ++ offered.map fun f => (f.1.val, f.2) }
    match if st = 1 then none else x.slot with
    | none => .next (s.setCol d (c.setDir up x))
    | some (f, y) =>
      if colIntact (flipBits (f ++ leBytes 4 (crc32 f)) (flips.map (·.val))) then
        .next (s.setCol d (c.setDir up { y with again := false, streak := 0 }))
      else
        let n := y.streak + 1
        let s1 := s.satF COL_STATUS_REPLAYS 0 d 1
        if n < 16 then .next (s1.setCol d (c.setDir up { y with again := true, streak := n }))
        else .next ((s1.setCol d (c.setDir up { y with again := true, streak := 0 })).setF COL_STATUS_STATE 0 d 1)

/-- COL_RETRAIN_TIMEOUT: a Col link does not retrain within 10 µs: it is DOWN and its die is fenced (R427). -/
def execColRetrainTimeout (d : Fin 4) (s : State) : Host.Outcome State Fault Refusal :=
  if s.getF COL_STATUS_STATE 0 d = 1 then .next ((s.setF COL_STATUS_STATE 0 d 2).gateFence d 3) else .next s

/-- COL_LINK_TRAINED: the Col link of die d trains; the cause COL_DOWN clears (R427, R433). -/
def execColLinkTrained (d : Fin 4) (s : State) : Host.Outcome State Fault Refusal :=
  if s.getF COL_STATUS_STATE 0 d = 1 then .next ((s.setF COL_STATUS_STATE 0 d 0).trainShells [(3, 2 * d.val), (3, 2 * d.val + 1)])
  else if (s.fenceOf d).causes.contains 3 then .next (s.clearCause d 3)
  else .next s

/-- What a write of REJOIN to DIE_CMD does (Table 16.6, Table 16.12). -/
def State.rejoinCmd (s : State) (dies : Nat) : State :=
  let named := (List.range 4).filter fun d => dies.testBit d
  (named.foldl (fun u d =>
    if u.dieState d ≠ 4 then u.setF PKG_BLK_STATUS_DIE_CMD_ERR 0 0 1
    else if (u.fenceOf d).causes.isEmpty && (dieLinks d).any u.ledgerLive then u.setF DIE_STATE_STATE 0 d 2
    else u) s)

/-- REJOIN: a write of REJOIN to DIE_CMD (Table 16.6). A HELD die whose cause has not cleared stays HELD. -/
def execRejoin (dies : Fin 16) (s : State) : Host.Outcome State Fault Refusal :=
  .next (s.rejoinCmd dies)

/-- CLOCK_STABLE_EXPIRY: a die's clock has been stable for CLOCK_STABLE_MS (R433). -/
def execClockStableExpiry (d : Fin 4) (s : State) : Host.Outcome State Fault Refusal :=
  if (s.fenceOf d).causes.contains 2 then .next (s.clearCause d 2) else .next s

/-- DIE_STARTUP_DONE: start-up completes: images restored, the Col link trained, Saddle links to train under the ledger (Table
16.6, R424). A link whose other die is still fenced stays FENCED. -/
def execDieStartupDone (d : Fin 4) (s : State) : Host.Outcome State Fault Refusal :=
  if s.dieState d ≠ 2 then .next s
  else
    let s1 := ((s.setF DIE_STATE_STATE 0 d 3).setF COL_STATUS_STATE 0 d 0).trainShells [(3, 2 * d.val), (3, 2 * d.val + 1)]
    .next ((dieLinks d).foldl (fun u l =>
      let o := u.dieState (otherEnd l d)
      if !u.ledgerLive l then u.setF SADDLE_STATUS_STATE 0 l 2
      else if o = 0 ∨ o = 3 then u.trainLink l else u) s1).noteHealth

/-- DIE_RESTORE_COMPLETE: the restores of R434 complete and the die runs; its ports train. `refused` lists the stacks of the die
whose restore is refused (R44). -/
def execDieRestoreComplete (d : Fin 4) (refused : List (Fin 3)) (s : State) : Host.Outcome State Fault Refusal :=
  if s.dieState d ≠ 3 ∨ s.power.stopped.isSome then .next s
  else
    let s1 := ((s.rejoinEnter d).rejoinWork d (refused.map (·.val))).lapseEntries d
    let s2 := s1.sendState.repath.isolate.reconnect
    let s3 := (List.range 4).foldl (fun u i => u.trainPort (4 * d.val + i)) s2
    .next s3.noteHealth.releaseAll

/-- PATH_HOLD_RELEASE: every request that die a sent to die b on the old path has been delivered or has completed; held ones go
on the new path (R31, R425). -/
def execPathHoldRelease (a b : Fin 4) (s : State) : Host.Outcome State Fault Refusal :=
  let x := s.pairPath a b
  if !x.waiting then .next s
  else
    let s1 := { s with paths := kset PairPath.zero s.paths (a.val * 4 + b.val) { x with waiting := false } }
    .next s1.releaseAll

/-- MCTP_CONTROL: the sideband answers an MCTP control message of a command code, and a message of a type that Table 16.4 does not list
(`other`) with an MCTP error (R429). -/
def execMctpControl (other : Bool) (code : Fin 256) (s : State) : Host.Outcome State Fault Refusal :=
  .next (s.sideband [if other then 254 else 0, code])

/-- What PLDM for platform monitoring reads: PKG_HEALTH, the hottest junction of each die, the stack temperatures, input power and its
averages, input current, ENERGY, input voltage, and the supply's state and working converters (R429, R436, R454). -/
def State.pldmSensors (s : State) : List Nat :=
  s.pkgHealth :: ((List.range 4).map fun d => s.getF DIE_THERMAL_HOTTEST_C 0 d) ++
    ((List.range 12).map fun t => s.getF STACK_TEMP_TEMP (t / 3) (t % 3)) ++
    [s.getF INPUT_POWER_INST_W 0 0, s.getF INPUT_POWER_AVG10_W 0 0, s.getF INPUT_POWER_AVG100_W 0 0, s.getF INPUT_POWER_INPUT_I 0 0,
     s.getF ENERGY_MJ 0 0, s.getF SUPPLY_INPUT_MV 0 0, s.getF SUPPLY_STATE 0 0, s.getF SUPPLY_CONVERTERS_OK 0 0]

/-- PLDM_MONITOR: the sideband answers with the events that wait, the changes of PKG_HEALTH, and the sensors (R429, R436, R454); in recovery
it serves no such request (R468). -/
def execPldmMonitor (s : State) : Host.Outcome State Fault Refusal :=
  if s.muted then .next (s.sideband [255])
  else
    let t := s.noteHealth
    .next ((t.setPins fun r => { r with healthEvents := [] }).sideband
      (1 :: t.pins.healthEvents.length :: (t.pins.healthEvents ++ t.pldmSensors)))

/-- PLDM_FIRMWARE_UPDATE: a transfer to the inactive slot, or of the manifest, ends (R470). One that did not complete leaves the
inactive slot failing its check; one that completes and verifies takes effect at the next package reset. -/
def execPldmFirmwareUpdate (manifest complete ok : Bool) (campSvn crestSvn : Fin 256) (campDigest crestDigest : Nat)
    (campBuild : Fin 4294967296) (records : List ManifestRecord) (s : State) : Host.Outcome State Fault Refusal :=
  if s.pins.floating then .next s
  else if manifest then
    if complete && ok then
      .next ((s.setSec fun x => { x with staged := some (true, campDigest, records) }).sideband [2, 0])
    else .next (s.sideband [2, 1])
  else
    let good := complete && ok
    let slot : BootSlot := ⟨good, good, campSvn, crestSvn, campDigest, crestDigest, campBuild⟩
    .next ((s.setSec fun x => { x with
      slotA := if x.active = 1 then slot else x.slotA
      slotB := if x.active = 1 then x.slotB else slot
      switchSlot := good }).sideband [2, b2n (!good)])

end Sys2Proof.Machine
end

