-- ==== Sys2Proof/Machine/PinsCmd.lean ====
section
/-!
DEFINITION. Meanings of the commands of the test access port (R527 to R529).
-/
namespace Sys2Proof.Machine

open Sys2Proof

/-- Whether an instruction code holds the package in package reset (R529). -/
def holdsReset (code : Nat) : Bool := code == 0x00 || code == 0x08 || code == 0x09

/-- Load a boundary-scan instruction that holds the package in package reset (R529). -/
def State.loadExtest (s : State) (code : Nat) : State :=
  let s1 := s.setPins fun p => { p with tapIr := code }
  if s.power.inReset then s1 else s1.beginPackageReset 5

/-- Load another instruction: a reset that a boundary-scan instruction held completes (R529). -/
def State.loadOther (s : State) (code : Nat) (b : BootInputs) : State :=
  let s1 := s.setPins fun p => { p with tapIr := code }
  if s.power.inReset && holdsReset s.pins.tapIr then s1.completeReset b else s1

/-- EXTEST. -/
def execExtest (s : State) : Host.Outcome State Fault Refusal := .next (s.loadExtest 0x00)

/-- EXTEST_PULSE. -/
def execExtestPulse (s : State) : Host.Outcome State Fault Refusal := .next (s.loadExtest 0x08)

/-- EXTEST_TRAIN. -/
def execExtestTrain (s : State) : Host.Outcome State Fault Refusal := .next (s.loadExtest 0x09)

/-- The levels that boundary scan captures of the signals that State holds: PERST#, FAULT#, SMB_ALERT#, CXL_SRIS, SB_ADDR; an open-drain
output that floats is high (R519, R528, Table 22.3). -/
def State.scanLevels (s : State) : List Nat :=
  [b2n (!s.pins.perstLow), b2n (!s.pins.faultLow), b2n (s.pins.healthEvents.isEmpty || s.pins.floating), b2n s.pins.sris, s.pins.sbAddr]

/-- What TDO shows: the code of the instruction, then what its register captured; nothing while it floats (R519). -/
def State.tapOut (s : State) (fields : List Nat) : State := if s.pins.floating then s else s.emit .other 131074 fields []

/-- SAMPLE/PRELOAD: the boundary-scan register is selected, and captures the signals' levels. -/
def execSamplePreload (b : BootInputs) (s : State) : Host.Outcome State Fault Refusal :=
  .next ((s.loadOther 0x01 b).tapOut (0x01 :: s.scanLevels))

/-- IDCODE: the identification register is selected, and captures 0x1019_C5A3 (R527). -/
def execIdcode (b : BootInputs) (s : State) : Host.Outcome State Fault Refusal :=
  .next ((s.loadOther 0x02 b).tapOut [0x02, 0x1019C5A3])

/-- BYPASS, or a code that Table 22.6 does not list: the bypass register is selected (R527). -/
def execBypass (code : Fin 256) (b : BootInputs) (s : State) : Host.Outcome State Fault Refusal :=
  let c := if holdsReset code || code.val == 0x01 || code.val == 0x02 then 0xFF else code.val
  .next ((s.loadOther c b).tapOut [c, 0])

/-- TRST: TRST# goes low: test logic reset selects IDCODE, and a held reset completes (R527, R529). -/
def execTrst (b : BootInputs) (s : State) : Host.Outcome State Fault Refusal := .next (s.loadOther 0x02 b)

end Sys2Proof.Machine
end

