-- ==== Sys2Proof/Machine/PowerCmd.lean ====
section
/-!
DEFINITION. Meanings of the commands of the supply, regulators, pacing, profiles and cooling (chapter 17).
-/
namespace Sys2Proof.Machine

open Sys2Proof

/-! ### Supply (R437 to R443) -/

/-- WARNING is entered (R438, Table 17.2); the first entry writes a record. -/
def State.warn (s : State) (record : Bool) : State :=
  let s1 := ((s.setF SUPPLY_STATE 0 0 1).satF PACE_EVENTS_SUPPLY_EVENTS 0 0 1).setF PWR_BLK_STATUS_SUPPLY_EVENT 0 0 1
  (if record then s1.raise 0 0x40 campDie 0 0 s1.power.minMv 0 0 else s1).refreshDuty

/-- The input voltage is noted: its register, since when it is within the operating range (Table 17.1), and below 38.0 V the test access
port loses its instruction (R529). -/
def State.noteInput (s : State) (mv : Nat) : State :=
  let s1 := (s.setF SUPPLY_INPUT_MV 0 0 mv).setPower fun p => { p with
    inRange := if 44000 ≤ mv ∧ mv ≤ 58000 then (match p.inRange with | some t => some t | none => some s.time) else none
    lowAt := if mv < 38000 then some (p.lowAt.getD s.time) else none }
  if mv < 38000 then s1.setPins fun p => { p with tapIr := 0x02 } else s1

/-- Below 30.0 V the low-speed signals float (R519); where the input falls so within 1 ms of the brownout, its record may be lost, as a free
value says (R439). -/
def State.lowInput (s : State) (mv : Nat) : State :=
  if 30000 ≤ mv then s
  else
    let s1 := s.setPins fun p => { p with floating := true, faultLow := false }
    match s.power.lowAt with
    | none => s1
    | some t =>
      if t + msTicks ≤ s.time then s1
      else
        let f := s1.takeFree
        if f.1.getLsbD 0 then f.2.setErr fun e => { e with
          raised := e.raised.filter fun r => r.kind != 0x45
          persistent := e.persistent.filter fun r => r.1.kind != 0x45 || r.1.persisted }
        else f.2

/-- INPUT_SAMPLE: the input voltage in mV against the thresholds of Table 17.1 (R437 to R440, Table 17.2). During a held reset brownout and
over-voltage act (R529). -/
def execInputSample (mv : Fin 65536) (s : State) : Host.Outcome State Fault Refusal :=
  let s1 := s.noteInput mv
  if s.shutDown then .next (s1.lowInput mv)
  else
    let st := s1.getF SUPPLY_STATE 0 0
    let dip := if st = 0 then mv.val else min mv.val s1.power.minMv
    let s2 := s1.setPower fun p => { p with minMv := dip }
    if mv.val < 38000 then .next ((s2.shutdown 0x45 0 dip 0).lowInput mv)
    else if 60000 < mv.val then .next (s2.shutdown 0x46 0 mv 0)
    else if s.power.inReset then .next s1
    else if mv.val < 42000 ∧ st ≠ 1 then .next (s2.warn (st == 0))
    else if 43000 < mv.val ∧ st = 1 then
      .next ((s2.setF SUPPLY_STATE 0 0 2).setPower fun p => { p with due := s2.time + 10 * msTicks }).refreshDuty
    else .next s2

/-- HOLD_EXPIRY: 10 ms of HOLD are over (Table 17.2). -/
def execHoldExpiry (s : State) : Host.Outcome State Fault Refusal :=
  if s.getF SUPPLY_STATE 0 0 ≠ 2 then .next s
  else
    let t := s.tickTo s.power.due
    .next ((t.setF SUPPLY_STATE 0 0 3).setPower fun p => { p with due := t.time + msTicks }).refreshDuty

/-- RAMP_EXPIRY: 1 ms of RAMP is over (Table 17.2). -/
def execRampExpiry (s : State) : Host.Outcome State Fault Refusal :=
  if s.getF SUPPLY_STATE 0 0 ≠ 3 then .next s else .next ((s.tickTo s.power.due).setF SUPPLY_STATE 0 0 0).refreshDuty

/-- A stage-1 converter leaves its limits and is isolated: every die is paced to 1/4 for the 5 µs that the profile limit takes (R442,
assumption 83). -/
def State.isolateConverter (s : State) (k : Nat) : State :=
  let ok := s.getF SUPPLY_CONVERTERS_OK 0 0
  if !ok.testBit k then s
  else
    let left := ok - 2 ^ k
    let n := ((List.range 8).filter left.testBit).length
    let s1 := s.setF SUPPLY_CONVERTERS_OK 0 0 left
    if n ≤ 3 then s1.shutdown 0x41 k k left
    else
      let s2 := (s1.setPower fun p => { p with convPace := some (s.time + 5 * usTicks) }).refreshDuty
      ((s2.setF PROFILE_STATE_CONVERTER_LIMIT 0 0 (if 6 ≤ n then 1 else 2)).raise 0 0x41 campDie k 0 k left 0).applyProfile

/-- CONVERTER (R442). -/
def execConverter (k : Fin 8) (s : State) : Host.Outcome State Fault Refusal := .next (s.isolateConverter k)

/-- STAGE2_FAULT: on Crest die 0 to 3, on the Camp die (4), or on the base die of stack t (5 + t) (R443). -/
def execStage2Fault (unit : Fin 17) (s : State) : Host.Outcome State Fault Refusal :=
  if unit.val < 4 then .next (s.gateFence unit 4)
  else if unit.val = 4 then .next s.packageFatal
  else .next (s.gateFence ((unit.val - 5) / 3) 4)

/-! ### Telemetry and the power cap (R445, R446, R454) -/

/-- The mean of the first n readings, or of all where there are fewer. -/
def meanOf (n : Nat) (l : List Nat) : Nat := (l.take n).foldl (· + ·) 0 / max 1 (min n l.length)

/-- Power cap pacing applies or, after 10 ms below 90 % of the limit, releases (Table 17.4). -/
def State.capStep (s : State) : State :=
  let avg := s.getF INPUT_POWER_AVG10_W 0 0
  let limit := profileLimit (s.getF PROFILE_STATE_CURRENT 0 0)
  if !s.flag PWR_EXPERT_POWER_CAP 0 0 || !s.flag PROFILE_STATE_CAP_ACTIVE 0 0 then s.capNow
  else if avg * 10 < limit * 9 then
    if s.power.underMs + 1 < 10 then s.setPower fun p => { p with underMs := p.underMs + 1 }
    else (s.setF PROFILE_STATE_CAP_ACTIVE 0 0 0).setPower fun p => { p with underMs := 0 }
  else s.setPower fun p => { p with underMs := 0 }

/-- TELEMETRY_TICK: every 1 ms the input power in W and the input current in 10 mA are read (R454, Table 17.12). -/
def execTelemetryTick (watts amps : Fin 65536) (s : State) : Host.Outcome State Fault Refusal :=
  let l := (watts.val :: s.power.watts).take 100
  let s1 := (s.setPower fun p => { p with watts := l }).addF ENERGY_MJ 0 0 watts
  let s2 := (((s1.setF INPUT_POWER_INST_W 0 0 watts).setF INPUT_POWER_AVG10_W 0 0 (meanOf 10 l)).setF INPUT_POWER_AVG100_W 0 0
    (meanOf 100 l)).setF INPUT_POWER_INPUT_I 0 0 amps
  let s3 := (List.range 4).foldl (fun u d =>
    if u.getF DIE_THERMAL_DUTY 0 d = 0 then u else u.satF DIE_THERMAL_PACED_MS 0 d 1) s2
  .next s3.capStep.convStep.refreshDuty.noteHealth

/-! ### Cooling (R445, R450 to R453) -/

/-- Insert a reading into a rising list. -/
def insertSorted (x : Nat) : List Nat → List Nat
  | [] => [x]
  | y :: l => if x ≤ y then x :: y :: l else y :: insertSorted x l

/-- Twice the median of a list: of an even count, the sum of the two middle ones (assumption 45). -/
def median2 (l : List Nat) : Nat :=
  let o := l.foldl (fun a x => insertSorted x a) []
  let n := o.length
  o.getD ((n - 1) / 2) 0 + o.getD (n / 2) 0

/-- A sensor is excluded (R453). -/
def State.excludeSensor (s : State) (d i : Nat) : State :=
  let s1 := s.setPower fun p => { p with excluded := kset false p.excluded (d * 16 + i) true }
  let s2 := (s1.setF PWR_BLK_STATUS_SENSOR_EXCLUDED 0 0 1).raise 0 0x43 d i 0 i (s.junction d i) 0
  if d = 4 then s2
  else
    let left := (s2.sensorsOf d).length
    (s2.setF DIE_THERMAL_SENSORS_OUT 0 d (min 15 (16 - left))).setPower fun p => { p with
      sensorPace := kset false p.sensorPace d (decide (left < 8)) }

/-- One read of a die's sensors against their median: ten reads off it in succession exclude a sensor (R453). -/
def State.checkSensors (s : State) (d : Nat) : State :=
  let used := s.sensorsOf d
  let m := median2 (used.map (s.junction d))
  used.foldl (fun u i =>
    let t := 2 * s.junction d i
    let n := if m + 16 < t ∨ t + 16 < m then kget 0 u.power.offRun (d * 16 + i) + 1 else 0
    let u1 := u.setPower fun p => { p with offRun := kset 0 p.offRun (d * 16 + i) n }
    if 10 ≤ n then u1.excludeSensor d i else u1) s

/-- What the readings of junctions and stacks do (R445, R450 to R452). -/
def State.thermalStep (s : State) : State :=
  let s1 := (List.range 4).foldl (fun u d => (u.setF DIE_THERMAL_HOTTEST_C 0 d (u.hottest d)).paceDie d) s
  let all := (List.range 5).flatMap fun d => (s1.sensorsOf d).map fun i => (d * 16 + i, s1.junction d i)
  let crest := all.filter fun x => decide (x.1 < 64)
  let s2 := s1.setPower fun p => { p with
    hotAt := crest.foldl (fun m x =>
      kset 0 m x.1 (if x.2 ≤ 100 then 0 else if kget 0 p.hotAt x.1 = 0 then s1.time + 1 else kget 0 p.hotAt x.1)) []
    coolSince := if all.all fun x => decide (x.2 < 95) then (match p.coolSince with | some t => some t | none => some s1.time) else none }
  let talusCtl := (List.range 12).map fun t => (80 + t, s2.getF STACK_TEMP_TEMP (t / 3) (t % 3))
  let overF := (all.filter fun x => decide (110 ≤ x.2)) ++ talusCtl.filter fun x => decide (105 ≤ x.2)
  match overF with
  | [] => s2.refreshDuty
  | x :: _ => s2.refreshDuty.trip x.1 x.2

/-- After a trip and a package reset the Crest dies start once every sensor reads below 90 °C (R452). -/
def State.startCooled (s : State) : State :=
  if s.power.stopped = some 0x144 ∧ !s.power.inReset ∧ !s.tooHot then s.startCrest else s

/-- SENSOR_READ: every 100 µs the junction sensors are read: sixteen of each Crest die, then four of the Camp die, then that of each stage-1
converter (R445, R450 to R453). -/
def execSensorRead (temps : List (Fin 256)) (s : State) : Host.Outcome State Fault Refusal :=
  let s1 := s.setPower fun p => { p with temps := ((temps.take 76).zipIdx).foldl (fun m x => kset 0 m x.2 x.1.val) p.temps }
  let s2 := (List.range 5).foldl (fun u d => u.checkSensors d) s1
  .next s2.thermalStep.startCooled

/-- STACK_TEMP_UPDATE (R174, R445, R452, Table 6.13). -/
def execStackTempUpdate (t : Fin 12) (temp : Fin 256) (s : State) : Host.Outcome State Fault Refusal :=
  let s := s.setPower fun p => { p with temps := kset 0 p.temps (80 + t.val) temp.val }
  .next ((s.setStkF STACK_TEMP_TEMP t temp).setStkF STACK_TEMP_REFRESH_2X t (b2n (decide (85 < temp.val)))).thermalStep.startCooled

/-- PACING_RELEASE: the release condition of the row of Table 17.4 that paces a die has held for 10 ms; its level falls by one (Table 17.4). -/
def execPacingRelease (d : Fin 4) (s : State) : Host.Outcome State Fault Refusal :=
  let key := 2 * d.val + (kget 0 s.power.thermal d - 1)
  let since := kget 0 s.power.easedAt key
  if since = 0 then .next s
  else
    let t := s.tickTo (since - 1 + 10 * msTicks)
    .next ((t.setPower fun p => { p with
      thermal := kset 0 p.thermal d (kget 0 p.thermal d - 1), easedAt := kset 0 p.easedAt key 0 }).paceDie d).refreshDuty

/-- THERMAL_FORCED: a Crest junction has stayed above 100 °C for 1 s (R450). -/
def execThermalForced (s : State) : Host.Outcome State Fault Refusal :=
  match s.power.hotAt with
  | [] => .next s
  | x :: rest =>
    if s.flag PROFILE_STATE_FORCED 0 0 then .next s
    else
      let t := s.tickTo ((rest.foldl (fun m e => min m e.2) x.2) - 1 + 1000 * msTicks)
      let hot := ((List.range 4).map t.hottest).foldl max 0
      let s1 := ((t.setF PROFILE_STATE_FORCED 0 0 1).satF PACE_EVENTS_THERMAL_EVENTS 0 0 1).setF PWR_BLK_STATUS_THERMAL_EVENT 0 0 1
      .next (s1.raise 0 0x42 campDie 0 0 hot 0 0).applyProfile

/-- THERMAL_FORCE_CLEAR: every junction has stayed below 95 °C for 1 s (R451). The profile returns at the next contour value whose phase
is OPEN. -/
def execThermalForceClear (s : State) : Host.Outcome State Fault Refusal :=
  match s.power.coolSince with
  | none => .next s
  | some since =>
    if !s.flag PROFILE_STATE_FORCED 0 0 then .next s
    else .next (((s.tickTo (since + 1000 * msTicks)).setF PROFILE_STATE_FORCED 0 0 0).setPower fun p => { p with unforce := true })

/-- CLUSTER_RESUME: a cluster that returned to service issues again 20 µs later (R448). -/
def execClusterResume (d : Fin 4) (c : Fin 8) (s : State) : Host.Outcome State Fault Refusal :=
  let k := d.val * 8 + c.val
  let w := kget 0 s.power.waits k
  if w = 0 then .next s
  else .next ((s.tickTo w).setPower fun p => { p with waits := kset 0 p.waits k 0 })

end Sys2Proof.Machine
end

