-- ==== Sys2Proof/Machine/Resets.lean ====
section
/-!
DEFINITION. Meanings of the commands of resets and low-power states (chapter 18, R523 to R526), and of the commands that a
low-power state holds or that release held work: die and port reset, fence causes, the ends of a stack's training.
-/
namespace Sys2Proof.Machine

open Sys2Proof

/-! ### Power-on and package reset -/

/-- POWER_ON_RESET: the input has been in range for 10 ms with SYS_REFCLK present (R455, R456, R525). After a shutdown or a trip it is a
restart, which comes 10 ms after the sample with which the input was within the operating range (Table 17.1); LAST_RESET tells it. At power-up the test access
port selects IDCODE (R527); at a restart it keeps its instruction (R529), as the input sample below 38.0 V has left it. The low-speed
signals float until the Camp die leaves the reset (R519). The strap SB_ADDR is read (Table 22.3). -/
def execPowerOnReset (b : BootInputs) (s : State) : Host.Outcome State Fault Refusal :=
  let restart := s.shutDown || s.power.stopped == some 0x44 || s.power.stopped == some 0x144
  if restart && s.power.inRange.isNone then .next s
  else
  let s := if restart then s.tickTo (s.power.inRange.getD 0 + 10 * msTicks) else s
  let source := b2n restart
  let s1 := ((s.resetParts true).setF STATE_STATUS_LAST_RESET 0 0 source).setPower fun p => { p with
    inReset := true, minMv := 0, stopped := if s.shutDown then none else p.stopped }
  .next ((s1.setPins fun p => { p with
    tapIr := if restart then p.tapIr else 0x02, healthSeen := 0, healthEvents := [], sbAddr := b.sbAddr, floating := true }).completeReset b)

/-- PERST_ASSERT: PERST# has been low for 1 µs (R526). During a reset it only holds its completion. -/
def execPerstAssert (s : State) : Host.Outcome State Fault Refusal :=
  let s1 := s.setPins fun p => { p with perstLow := true }
  .next (if s.power.inReset then s1 else s1.beginPackageReset 2)

/-- PERST_RELEASE: PERST# goes high, and a held reset completes (R526). -/
def execPerstRelease (b : BootInputs) (s : State) : Host.Outcome State Fault Refusal :=
  let s1 := s.setPins fun p => { p with perstLow := false }
  .next (if s.power.inReset then s1.completeReset b else s1)

/-- CXL_CONVENTIONAL_RESET (Table 18.1); without effect during a reset that contains it (R456). -/
def execCxlConventionalReset (b : BootInputs) (s : State) : Host.Outcome State Fault Refusal :=
  .next (if s.power.inReset then s else s.packageReset 3 b)

/-! ### Reference clocks (R523, R524) -/

/-- SYS_REFCLK_LOSS: no edge for 10 µs: an error of class fatal-package; Crest issue stops, the package departs, FAULT# is low. -/
def execSysRefclkLoss (s : State) : Host.Outcome State Fault Refusal :=
  .next (s.setPins fun p => { p with sysClk := false }).packageFatal

/-- RDG_REFCLK_LOSS: every port that is UP enters RETRAIN. -/
def execRdgRefclkLoss (s : State) : Host.Outcome State Fault Refusal :=
  .next ((List.range 16).foldl (fun u p => if u.portState p = portUP ∧ u.dieRunning (p / 4) then u.retrain p else u) s)

/-- CXL_REFCLK_LOSS: the CXL link goes down. -/
def execCxlRefclkLoss (s : State) : Host.Outcome State Fault Refusal := .next s.cxlDown

/-! ### Bivouac and Refuge (R458 to R463) -/

/-- Whether work is in flight that keeps a package from entering a low-power state (R458). -/
def State.workInFlight (s : State) : Bool :=
  !s.host.descs.isEmpty || s.red.buckets.any (fun b => b.inFlight) || s.upd.buckets.any (fun b => !b.ended) ||
  (List.range 4).any fun d =>
    decide ((s.traverse d).busy ≠ 0) || !(s.sb d).flights.isEmpty

/-- Whether a write of BIVOUAC or REFUGE is refused (R458, R461). -/
def State.sleepRefused (s : State) : Bool :=
  !s.awake || !((List.range 4).all s.dieRunning) || s.workInFlight

/-- Whether every pipe is idle and every tracker empty (R458). -/
def State.pipesIdle (s : State) : Bool :=
  (s.cores.all fun p => p.2.moves.isEmpty && p.2.vec.isEmpty && p.2.acc.all fun o => o.begun && decide (o.final < s.time)) &&
  (List.range 4).all fun d => (s.tracker d).entries.isEmpty && (s.tracker d).waiters.isEmpty

/-- Resets that waited act, in order (R457). -/
def State.actHeldResets (s : State) : State :=
  s.low.heldResets.foldl (fun u r => u.doHeldReset r) (s.setLow fun r => { r with heldResets := [] })

/-- What a write of BIVOUAC to STATE_CMD does (R458). -/
def State.bivouacCmd (s : State) : State :=
  if s.sleepRefused then (s.setF STATE_BLK_STATUS_CMD_ERR 0 0 1) else ((s.setLow fun r => { r with expert := s.reg STATE_EXPERT 0 0 }).setF STATE_STATUS_STATE 0 0 1)

/-- BIVOUAC: a write of BIVOUAC to STATE_CMD. -/
def execBivouac (s : State) : Host.Outcome State Fault Refusal :=
  .next s.bivouacCmd

/-- BIVOUAC_ENTRY_DONE: the drain is over; stacks go into self-refresh. What came during the entry may wake the package at once (R460). -/
def execBivouacEntryDone (s : State) : Host.Outcome State Fault Refusal :=
  if s.powerState ≠ 1 ∨ !s.pipesIdle then .next s
  else
    let t := ((s.refreshStacks.satF STATE_STATUS_BIVOUACS 0 0 1).setF STATE_STATUS_STATE 0 0 2).wakeByEntry
    .next (if t.low.orders.any HeldOrder.wakes then t.wakeByOrder else t)

/-- What a write of WAKE to STATE_CMD does (R460, R463, R466). -/
def State.wakeCmd (s : State) : State :=
  if s.awake then (s.setF STATE_BLK_STATUS_CMD_ERR 0 0 1) else s.wake

/-- WAKE: a write of WAKE to STATE_CMD; refused while STATE is RUNNING (R466). -/
def execWake (s : State) : Host.Outcome State Fault Refusal :=
  .next s.wakeCmd

/-- BIVOUAC_EXIT_DONE: the package runs; `refused` are the stacks whose restore their shell refuses. What was adopted
meanwhile acts, due entries fire, held requests and host accesses are performed, held resets act (R457, R459, R460). -/
def execBivouacExitDone (refused : List (Fin 12)) (s : State) : Host.Outcome State Fault Refusal :=
  if s.powerState ≠ 3 then .next s
  else
    let s1 := s.setF STATE_STATUS_STATE 0 0 0
    let s2 := (List.range 12).foldl (fun u t => u.leaveRefresh t (refused.any fun x => x.val == t)) s1
    .next s2.takeOrders.releaseAll.actHeldResets

/-- What a write of REFUGE to STATE_CMD does (R461). -/
def State.refugeCmd (s : State) : State :=
  if s.sleepRefused then (s.setF STATE_BLK_STATUS_CMD_ERR 0 0 1) else (s.setF STATE_STATUS_STATE 0 0 4)

/-- REFUGE: a write of REFUGE to STATE_CMD. -/
def execRefuge (s : State) : Host.Outcome State Fault Refusal :=
  .next s.refugeCmd

/-- Whether a register lies in a Crest die's block. -/
def crestReg (offset : Nat) : Bool :=
  match findReg offset with
  | some (row, _, _) => row.reg.perDie
  | none => false

/-- REFUGE_ENTRY_DONE: the drain is over: LEAVE is sent, the Crest registers are kept in the retention image, stacks go into
self-refresh, the Crest dies are powered off. -/
def execRefugeEntryDone (s : State) : Host.Outcome State Fault Refusal :=
  if s.powerState ≠ 4 ∨ !s.pipesIdle then .next s
  else
    let s1 := ((s.sendLeave.aloneAgain false).refreshStacks).saveShells crestShells
    let s2 := (s1.setLow fun r => { r with image := kfilter crestReg s1.regs, orders := [] })
    .next (((s2.powerOffCrest).satF STATE_STATUS_REFUGES 0 0 1).setF STATE_STATUS_STATE 0 0 5)

/-- The retention image comes back into the registers, but for the fields with G (R463). -/
def State.restoreImage (s : State) : State :=
  { s with
    regs := s.low.image.foldl (fun m p =>
      match findReg p.1 with
      | some (row, d, _) => kset (row.reg.initOf d) m p.1 p.2
      | none => m) (kfilter (fun k => !crestReg k) s.regs)
    low := { s.low with image := [] } }

/-- A shell other than a stack's trains again after it refused its image: the links train, ports and PLLs with the resume (R44, R463). -/
def State.retrainShell (s : State) (x : Nat × Nat) : State :=
  match x.1 with
  | 0 => s
  | 2 => s.trainLink (x.2 / 2)
  | 3 => s.setF COL_STATUS_STATE 0 (x.2 / 2) 1
  | _ => s.shellTrain x.1 x.2

/-- REFUGE_RESUME_DONE: the retention image comes back but for the fields with G, stacks leave self-refresh, the ports train, and the
package is RUNNING as ALONE (R463). `refused` are the stacks, and `shells` the other Crest-side shells (row of Table 1.9, number), that refuse
their image: they are trained again (R44). -/
def execRefugeResumeDone (refused : List (Fin 12)) (shells : List (Fin 9 × Fin 64)) (s : State) : Host.Outcome State Fault Refusal :=
  if s.powerState ≠ 6 then .next s
  else
    let bad := (shells.map fun x => (x.1.val, x.2.val)).filter fun x => x.1 != 4 && crestShells.contains x
    let s1 := s.restoreImage.resetRefugeRegs.setF STATE_STATUS_STATE 0 0 0
    let s2 := (List.range 12).foldl (fun u t => u.leaveRefresh t (refused.any fun x => x.val == t))
      (s1.restoreShells ((crestShells.filter fun x => x.1 != 4).filter fun x => !bad.contains x))
    let s2 := bad.foldl (fun u x => (u.refuseShells [x]).retrainShell x) s2
    let s3 := (List.range 16).foldl (fun u p => u.trainPort p) s2.aloneAnew
    .next s3.releaseAll.actHeldResets

/-! ### Resets and fences that a low-power state holds (R457) -/

/-- FUNCTION_RESET: a CXL function-level reset (R416). -/
def execFunctionReset (s : State) : Host.Outcome State Fault Refusal :=
  if s.power.inReset then .next s else .next (s.gateReset .function State.functionReset)

/-- DIE_RESET: a write of RESET to DIE_CMD (Table 16.12, R433, R435). -/
def execDieReset (dies : Fin 16) (s : State) : Host.Outcome State Fault Refusal :=
  .next (s.gateReset (.dies dies) fun u => u.dieReset dies)

/-- PORT_RESET: a write of RESET to PORT_CTRL (Table 8.14, R233, R486). -/
def execPortReset (p : Fin 16) (s : State) : Host.Outcome State Fault Refusal :=
  .next (s.gateReset (.port p) fun u => u.portReset p)

/-- CLOCK_LOSS: a die's array clock stops or drifts (Table 16.5). -/
def execClockLoss (d : Fin 4) (s : State) : Host.Outcome State Fault Refusal := .next (s.gateFence d 2)

/-- FATAL_DIE: an error of class fatal-die on die d (Table 16.5). -/
def execFatalDie (d : Fin 4) (s : State) : Host.Outcome State Fault Refusal := .next (s.gateFence d 4)

/-! ### Stacks -/

/-- What a write of RETIRE to STACK_CTRL does (R170). -/
def State.retireCmd (s : State) (t : Nat) : State :=
  if s.stackState t = 2 then (s.retireStack t 5).releaseAll else s

/-- RETIRE: software retires an ACTIVE stack with CAUSE 5 (R170, Table 6.4). -/
def execRetire (t : Fin 12) (s : State) : Host.Outcome State Fault Refusal :=
  .next (s.retireCmd t)

/-- STACK_TRAINING_COMPLETE: training at boot or after a refused restore ends (Table 6.4). `wires` are the wires (0 to
319) that failed it: each is marked dead by R169, and R170 may then retire the stack. What waited for the stack goes on. -/
def execStackTrainingComplete (t : Fin 12) (pass : Bool) (wires : List (Fin 320)) (s : State) :
    Host.Outcome State Fault Refusal :=
  if s.stackState t ≠ 1 ∨ (s.stack t).training = .selftest then .next s
  else if !pass then .next (s.retireStack t 2).releaseAll
  else
    let s1 := wires.foldl (fun u w =>
      if u.stackState t = 4 then u else u.markDead t (w.val / 20) (w.val % 20)) s
    .next (if s1.stackState t = 4 then s1 else (s1.shellTrain 4 t).stackActive t).releaseAll

end Sys2Proof.Machine
end

