-- ==== Sys2Proof/Machine/Ridge.lean ====
section
/-!
DEFINITION. Meanings of the Ridge port and routing commands (chapter 08, R214 to R240).
-/
namespace Sys2Proof.Machine

open Sys2Proof

/-- The width and the lanes of a port (R215). -/
def State.setLanes (s : State) (p : Nat) (lanes : List Nat) (margins : Word) : State :=
  ((s.setPortF PORT_STATE_WIDTH p lanes.length).setReg LANE_MARGIN (p / 4) (p % 4) margins).setPort p { s.port p with lanes := lanes }

/-- PORT_TRAINED: a training of R215 ends; `lanes` are the lanes on which both ends train. The port takes the widest set in the rule's
order and asks for its first TRAILHEAD's signature, with a fresh nonce (R238). Where no lane trains it trains on. -/
def execPortTrained (p : Fin 16) (lanes : Fin 16) (margins : Word) (s : State) : Host.Outcome State Fault Refusal :=
  if s.portState p ≠ portTRAINING ∨ !s.dieRunning (p / 4) then .next s
  else
    match trainLanes lanes 4 with
    | none => .next s
    | some l =>
      let a := s.takeFree
      let b := a.2.takeFree
      let nonce := a.1.toNat * 2 ^ 64 + b.1.toNat
      let s1 := (b.2.setPortF PORT_STATE_STATE p portTRAILHEAD).setLanes p l margins
      .next ((((s1.setPort p { s1.port p with nonceOwn := nonce }).trainShells (portShells p)).saveShells (portShells p)).wantSign
        (.trailhead p false))

/-- What an intact flit in order does (R218, R219, R484): its ACK and its returned credits first; REQ and RSP bytes are accepted, a NAK
replays from the SEQ it names. -/
def State.takeFlit (s : State) (p : Nat) (f : Flit) (payload : List Byte) : State :=
  let s1 := s.takeAck p f.ack
  let x := s1.port p
  let k := pool f.cvc f.crsp
  let s2 := s1.setPort p { x with used := kset 0 x.used k (kget 0 x.used k - f.ccount) }
  let key := p * 4 + 2 + f.slot
  let ks := kget KeySlot.zero s2.fabric.keys key
  let data := f.kind == 1 || f.kind == 2
  let s3 := if data && f.enc then
      s2.setFabric fun r => { r with keys := kset KeySlot.zero r.keys key { ks with count := ks.count + 1 } }
    else s2
  let s4 := if data then s3.acceptFlit p f.vc (f.kind == 2) payload else if f.kind = 4 then s3.takeNak p ((f.ack + 1) % 4096) else s3
  (s4.pumpAll p).giveAllCredits

/-- The packet bytes of an encrypted flit that came in on port p, by the key slot it names and the flits accepted under it; none where no key is
there or the tag fails (R483 to R485). -/
def State.openFlit (s : State) (p : Nat) (f : Flit) (raw : List Byte) : Option (List Byte) :=
  let ks := kget KeySlot.zero s.fabric.keys (p * 4 + 2 + f.slot)
  if (s.portF KEY_CTRL_RX_VALID p).testBit f.slot then gcmOpen ks.bytes ks.iv (raw.take 8) ((raw.drop 8).take 244) else none

/-- RIDGE_FLIT: the 256 bytes of a flit arrive (R216 to R219, R483 to R485). `fec` is how many symbols the FEC corrected, `uncorrectable`
whether it failed. VC 12 to 15, which no packet has, are answered as a failed check is (assumption 118). -/
def execRidgeFlit (p : Fin 16) (raw : List Byte) (fec : Nat) (uncorrectable : Bool) (s : State) :
    Host.Outcome State Fault Refusal :=
  if s.portState p ≠ portUP then .next s
  else
    let f := Flit.ofBytes raw
    let s1 := s.addF PORT_FEC_CORRECTED (p / 4) (p % 4) fec
    let s2 := if uncorrectable then s1.satF PORT_ERRORS_UNCORRECTED (p / 4) (p % 4) 1 else s1
    let data := f.kind == 1 || f.kind == 2
    if uncorrectable || !flitIntact raw || f.seq != (s2.port p).rxNext || (data && decide (11 < f.vc)) then .next (s2.sendNak p)
    else if data && !f.enc && (s2.getF CRYPT_EXPERT_REQUIRE (p / 4) 0).testBit (p % 4) then
      .next ((s2.addF AUTH_FAIL_COUNT (p / 4) (p % 4) 1).sendNak p)
    else if !(data && f.enc) then .next (s2.takeFlit p f ((raw.drop 8).take 244))
    else
      match s2.openFlit p f raw with
      | some bytes => .next (s2.takeFlit p f bytes)
      | none => .next ((s2.addF AUTH_FAIL_COUNT (p / 4) (p % 4) 1).sendNak p)

/-- NAK: the peer names the SEQ it expects (R218). -/
def execNak (p : Fin 16) (seq : Fin 4096) (s : State) : Host.Outcome State Fault Refusal :=
  if s.portState p = portUP then .next (s.takeNak p seq) else .next s

/-- LANE_LOCK_LOSS: a lane of a port that is UP loses lock (R232); in TRAILHEAD nothing follows (assumption 118). -/
def execLaneLockLoss (p : Fin 16) (_lane : Fin 4) (s : State) : Host.Outcome State Fault Refusal :=
  if s.portState p = portUP then .next (s.retrain p) else .next s

/-- RETRAIN_DONE: a bundle that comes back with it is reported (R237). The port trains again, to the widest set of the healthy lanes that is no wider than before; its retry buffer is
replayed and packets that waited for it go (R232). After a self-test, its own or its peer's, the port is back in its slot (R488). -/
def execRetrainDone (p : Fin 16) (lanes : Fin 16) (margins : Word) (s : State) : Host.Outcome State Fault Refusal :=
  if s.portState p ≠ portRETRAIN then .next s
  else
    match trainLanes (lanes.val &&& (15 - (s.port p).excluded)) (s.port p).keepWidth with
    | none => .next s
    | some l =>
      let s0 := (s.setPortF PORT_STATE_STATE p portUP).setLanes p l margins
      let s1 := s0.setTest fun y => { y with heldPorts := y.heldPorts.filter fun h => h.1 != p }
      let x := s1.port p
      let s2 := match x.buffer with
        | f :: _ => s1.replay p f.seq
        | [] => s1
      let s3 := s2.setPort p { x with parked := [], replays := 0, away := false }
      let s4 := (s3.trainShells (portShells p)).saveShells (portShells p)
      .next (((x.parked.foldl (fun u k => u.pushPacket p k) (s4.linkTell p (s.bundleDead (s.port p).dir))).pumpAll p).giveAllCredits)

/-- RETRAIN_TIMEOUT: RETRAIN_US passes and the port becomes FAILED (R232, R233); a peer's self-test suspends the timer
(R488). -/
def execRetrainTimeout (p : Fin 16) (s : State) : Host.Outcome State Fault Refusal :=
  if s.portState p ≠ portRETRAIN ∨ s.portTested p then .next s
  else .next ((s.timeTo (s.port p).deadline).failPort p 3)

/-- What a write of CLEAR_COUNTS to PORT_CTRL does (Table 8.14). -/
def State.portClear (s : State) (p : Nat) : State :=
  if s.dieRunning (p / 4) then
    ((s.setReg PORT_ERRORS (p / 4) (p % 4) 0).setReg PORT_FEC (p / 4) (p % 4) 0)
  else s

/-- PORT_CLEAR_COUNTS: a write of CLEAR_COUNTS to PORT_CTRL (Table 8.14). -/
def execPortClearCounts (p : Fin 16) (s : State) : Host.Outcome State Fault Refusal :=
  .next (s.portClear p)

/-- FLOW_RETURN: flows whose traffic on a substitute port is acknowledged move back to port p (R234). -/
def execFlowReturn (p : Fin 16) (s : State) : Host.Outcome State Fault Refusal :=
  if s.portSlot p then .next (s.flowsReturn p).giveAllCredits else .next s

/-- PACKET_FORWARD: a packet issued at die d, or the first of its VC and kind that came in on a port of die d, is forwarded by its route
word (R225 to R227, R235, R236). The flits of one that has left are given back (R219). -/
def execPacketForward (d : Fin 4) (from_ : Option (Fin 16)) (k : Packet) (s : State) : Host.Outcome State Fault Refusal :=
  if !s.dieRunning d then .next s
  else
    match from_ with
    | none => .next (s.forward d none k)
    | some p =>
      let x := s.port p
      let key := pool k.vc k.rsp
      let y := kget RxPool.zero x.rx key
      if p.val / 4 ≠ d.val ∨ y.first ≠ some k then .next s
      else .next ((s.setPort p { x with rx := kset RxPool.zero x.rx key y.take }).forward d (some x.dir) k).giveAllCredits

/-- Coordinates of the package that a port's DIR leads to (R223, R239). -/
def State.peerCoord (s : State) (p : Nat) : List Nat :=
  let dir := (s.port p).dir
  let dim := dir / 2
  let n := s.dimSize dim
  let own := [s.coordOf s.device 0, s.coordOf s.device 1, s.coordOf s.device 2]
  let a := own.getD dim 0
  own.set dim (if dir % 2 = 0 then (a + 1) % n else (a + n - 1) % n)

/-- Coordinates as a TRAILHEAD packet holds them: the layout of MASSIF_COORD (Table 8.9). -/
def coordWord (c : List Nat) : Nat := c.getD 0 0 + 32 * c.getD 1 0 + 1024 * c.getD 2 0

/-- TRAILHEAD: the peer's exchange packet on port p (R238, R239, R475): the 56 bytes of Table 8.8 before SIGNATURE, then the identity proof over
them. `delay` is the delay of the port in ns that the exchange's round trip has measured (R254). One whose NONCE_PEER is zero is answered with the
second TRAILHEAD, whatever the port has received before. -/
def execTrailhead (p : Fin 16) (body : List Byte) (delay : Nat) (s : State) : Host.Outcome State Fault Refusal :=
  let serial := fieldOf body 0 8
  let summit := fieldOf body 18 6
  let noncePeer := fieldOf body 40 16
  if s.portState p ≠ portTRAILHEAD ∧ s.portState p ≠ portUP then .next s
  else if !proofHolds s.sec.issuerKeys (fieldOf body 8 4) serial (body.take 56) (body.drop 56) then .next (s.failPort p 5)
  else
    let x := s.port p
    let c := s.peerCoord p
    if fieldOf body 12 2 ≠ s.dims ∨ fieldOf body 14 2 ≠ coordWord c ∨ fieldOf body 17 1 ≠ (x.dir ^^^ 1) then .next (s.failPort p 4)
    else if noncePeer ≠ 0 ∧ noncePeer ≠ x.nonceOwn then .next s
    else
      let s1 := if summit = 2 ^ 48 - 1 then s else s.setFabric fun r => { r with termSeen := max r.termSeen (summit / 2 ^ 16) }
      let y := { x with
        noncePeer := fieldOf body 24 16, peerSerial := some serial, delay := delay
        peerDevice := s.deviceAt (c.getD 0 0) (c.getD 1 0) (c.getD 2 0) }
      if noncePeer = 0 then .next ((s1.setPort p y).wantSign (.trailhead p true))
      else .next ((s1.setPort p { y with verified := true }).tryRaise p)

/-- LINK_REPORT_RECEIVE: the summit takes a member's report of a bundle, and publishes a generation; a member with every
bundle that leads to it dead departs (R229, R237, R244). -/
def execLinkReportReceive (device : Fin 10240) (dir : Fin 6) (dead : Bool) (s : State) : Host.Outcome State Fault Refusal :=
  if s.deaf then .next s else
  if !s.isSummit ∨ (s.memberOf device).isNone then .next s
  else
    let before := s.deadLinks
    let key := device.val * 8 + dir.val
    let rs := s.fabric.reports.filter (· != key)
    let s1 := (s.setFabric fun r => { r with reports := if dead then rs ++ [key] else rs })
    if s1.deadLinks = before then .next s1
    else
      let cut (m : Member) : Bool :=
        let links := ((List.range 6).filter fun k => decide (1 < s1.dimSize (k / 2))).map fun k => s1.bundleLink m.device k
        m.device != s1.device && !links.isEmpty && links.all fun l => s1.deadLinks.contains l
      let gone := (s1.fabric.members.filter cut).map (·.device)
      let s2 := if gone.isEmpty then s1
        else s1.publishMembers (s1.fabric.members.filter fun m => !gone.contains m.device)
      .next ((s2.fitMap 1024).publishMap).driveJobs

/-- LINK_MAP: a member receives a published generation and installs it (R229, R231). -/
def execLinkMap (term gen : Nat) (admitted : List Nat) (dead : List (Nat × Nat × Nat × Nat)) (s : State) :
    Host.Outcome State Fault Refusal :=
  if s.deaf then .next s else
  if s.role < 3 then .next s
  else if term < s.term then .next (s.satF SUMMIT_INFO_STALE_TERM 0 0 1)
  else if gen ≤ s.fabric.gen then .next (s.noteTerm term)
  else .next ((s.noteTerm term).installGen gen admitted (dead.map fun l => ⟨l.1, l.2.1, l.2.2.1, l.2.2.2⟩))

/-- TRAIL_SIGN_SWITCH: every operation that die d sent under a destination's old signs has completed (R231). -/
def execTrailSignSwitch (d : Fin 4) (dst : Fin 10240) (s : State) : Host.Outcome State Fault Refusal :=
  if (s.tracker d).entries.any fun e => e.dest == dst.val && ptrSpace e.req.ptr == 1 then .next s
  else .next (s.setFabric fun r => { r with oldSigns := kset 0 r.oldSigns (d.val * 16384 + dst.val) 0 })

/-- One copy of a broadcast: out on a bundle for n further packages, after `skip` that it passes over. Over a dead bundle its remainder
is handed to the other way round the ring, past the packages that other copies reach (R240, assumption 97). -/
def State.castOn (s : State) (dir skip n op : Nat) (fields : List Nat) : State :=
  if n = 0 then s
  else if !s.bundleDead dir then s.emit .broadcast (65536 + dir) (op :: skip :: n :: fields) []
  else if !s.bundleDead (dir ^^^ 1) && skip == 0 then
    s.emit .broadcast (65536 + (dir ^^^ 1)) (op :: (s.dimSize (dir / 2) - 1 - n) :: n :: fields) []
  else s

/-- Both copies of a broadcast along a dimension from here. -/
def State.castDim (s : State) (dim op : Nat) (fields : List Nat) : State :=
  let n := s.dimSize dim
  (s.castOn (2 * dim) 0 (n / 2) op fields).castOn (2 * dim + 1) 0 (n - 1 - n / 2) op fields

/-- BROADCAST_FORWARD: a broadcast that starts here, or came in on port `from_` with `left` packages of its copy still to reach
after this one, goes on along its dimension and starts the later ones (R240). A copy that still has packages to pass over (`skip`,
this one among them) only goes on. A CONTOUR packet's DELAY_NS, its fourth field, grows by the package's own forwarding time
(`delay`) and the measured delay of the port it came in on (R254). -/
def execBroadcastForward (from_ : Option (Fin 16)) (skip left op : Nat) (fields : List Nat) (delay : Nat) (s : State) :
    Host.Outcome State Fault Refusal :=
  if s.deaf then .next s else
  if !s.anyPortUp then .next s
  else
    let wait := match from_ with | some p => (s.port p).delay | none => 0
    let fs := if op = 0x90 ∧ from_.isSome then fields.set 3 (fields.getD 3 0 + delay + wait) else fields
    match from_ with
    | none => .next (((s.castDim 0 op fs).castDim 1 op fs).castDim 2 op fs)
    | some p =>
      let dir := (s.port p).dir
      if skip ≠ 0 then .next (s.castOn (dir ^^^ 1) (skip - 1) left op fs)
      else
        let s1 := s.castOn (dir ^^^ 1) 0 left op fs
        let s2 := if dir < 2 then s1.castDim 1 op fs else s1
        .next (if dir < 4 then s2.castDim 2 op fs else s2)

end Sys2Proof.Machine
end

