-- ==== Sys2Proof/Machine/Security.lean ====
section
/-!
DEFINITION. Meanings of the commands of boot identity, operator authority and link keys (chapter 19).
-/
namespace Sys2Proof.Machine

open Sys2Proof

/-! ### The signer (R471 to R473) -/

/-- Whether the SIGN_RATE budget of the last second allows a signature (R472). -/
def State.signBudget (s : State) : Bool :=
  decide ((s.sec.signed.filter fun t => decide (s.time < t + 1000 * msTicks)).length < max 1 (s.getF SEC_EXPERT_SIGN_RATE 0 0))

/-- The signer takes a request: NEXT_INDEX is reserved by an append of NEXT_INDEX + 1 to the index log, so no later signature uses it (R472); with 4,096
indices left in the tree the next tree's build begins, and the last index sets EXHAUSTED (R473). -/
def State.reserveIndex (s : State) (j : SignJob) : State :=
  let i := s.getF SIG_STATUS_NEXT_INDEX 0 0
  let tree := i / 1048576
  let s1 := (s.setF SIG_STATUS_NEXT_INDEX 0 0 (i + 1)).setSec fun x => { x with
    signing := some (i, j)
    indexLog := (i + 1) :: x.indexLog
    signed := s.time :: x.signed.filter fun t => decide (s.time < t + 1000 * msTicks) }
  let s2 := if 1048576 - i % 1048576 ≤ 4096 ∧ (s.sec.cached (tree + 1)).isNone ∧ tree < 1023 then s1.setF SIG_STATUS_BUILDING 0 0 1 else s1
  if i + 1 = 2 ^ 30 then s2.setF SIG_STATUS_EXHAUSTED 0 0 1 else s2

/-- SIGN_REQUEST: the oldest request goes to the signer, waits for the rate, or, with the key exhausted, is refused (R472, R473). -/
def execSignRequest (s : State) : Host.Outcome State Fault Refusal :=
  match s.sec.wanted with
  | [] => .next s
  | j :: rest =>
    let s1 := s.setSec fun x => { x with wanted := rest }
    if s.flag SIG_STATUS_EXHAUSTED 0 0 then .next s1
    else if s.sec.signing.isSome then .next s
    else if s.sec.waiting.isEmpty && s.signBudget then .next (s1.reserveIndex j)
    else .next (s1.setSec fun x => { x with waiting := x.waiting ++ [j] })

/-- SIGN_RATE_RELEASE: the oldest request that waits for the rate goes to the signer (R472). -/
def execSignRateRelease (s : State) : Host.Outcome State Fault Refusal :=
  match s.sec.waiting with
  | [] => .next s
  | j :: rest =>
    let s1 := s.setSec fun x => { x with waiting := rest }
    if s.flag SIG_STATUS_EXHAUSTED 0 0 then .next s1
    else if s.sec.signing.isSome || !s.signBudget then .next s
    else .next (s1.reserveIndex j)

/-- PART (Table 19.4). -/
def State.part (s : State) : Nat := partCode s.sec.partE

/-- The measurements M0 to M4 as bytes (Table 19.6). -/
def State.measureBytes (s : State) : List Byte :=
  (List.range 20).flatMap fun i => leBytes 8 (s.reg MEASURE 0 i).toNat

/-- The 208 signed bytes of a report (Table 19.7). -/
def State.attestReport (s : State) (nonce : List Byte) : List Byte :=
  let low := decide (2 ^ 30 - s.getF SIG_STATUS_NEXT_INDEX 0 0 < 1048576)
  leBytes 2 1 ++ leBytes 2 (b2n low + 2 * (s.pkgHealth % 2) + 4 * s.getF BOOT_STATUS_FALLBACK 0 0) ++ leBytes 4 s.part ++
  leBytes 8 s.sec.serial ++ nonce ++ s.measureBytes

/-- SUMMIT of a TRAILHEAD (Table 8.8). -/
def State.summitField (s : State) : Nat :=
  if 3 ≤ s.role ∨ s.fabric.heard then s.getF SUMMIT_INFO_SUMMIT_ID 0 0 + s.term * 2 ^ 16 else 2 ^ 48 - 1

/-- The fields of a TRAILHEAD that its SIGNATURE covers, 56 bytes (Table 8.8); the second one carries the nonce received (R475). -/
def State.trailheadBytes (s : State) (p : Nat) (second : Bool) : List Byte :=
  let x := s.port p
  leBytes 8 s.sec.serial ++ leBytes 4 s.part ++ leBytes 2 s.dims ++ leBytes 2 ((s.reg MASSIF_COORD 0 0).toNat % 2 ^ 15) ++
  leBytes 1 p ++ leBytes 1 x.dir ++ leBytes 6 s.summitField ++ leBytes 16 x.nonceOwn ++ leBytes 16 (if second then x.noncePeer else 0)

/-- Signed bytes with the identity proof over them: the certificate, then the HSS signature with one-time index i (R474). -/
def State.proved (s : State) (i : Nat) (signed : List Byte) : List Byte :=
  let upper := ((s.sec.cached (i / 1048576)).map (·.upper)).getD []
  signed ++ s.sec.certificate ++ hssSign s.sec.seed upper i signed

/-- What a computed signature lets go: a TRAILHEAD on its port, the second one also where the port is UP by now (R475), a JOIN to the
summit, an attestation report (R472, R474, R480, R481). -/
def State.sendSigned (s : State) (i : Nat) (j : SignJob) : State :=
  match j with
  | .trailhead p second =>
    if s.portState p = portTRAILHEAD ∨ (second = true ∧ s.portState p = portUP) then
      s.mgmtPort p 0x80 ((s.proved i (s.trailheadBytes p second)).map (·.toNat))
    else s
  | .join =>
    if s.role ≠ 2 then s
    else
      let summit := s.getF SUMMIT_INFO_SUMMIT_ID 0 0
      let report := s.attestReport (joinNonce summit s.term s.fabric.version s.sec.serial)
      s.mgmt 0x82 summit ([s.device, s.dims, s.term, s.fabric.version] ++ (s.proved i report).map (·.toNat))
  | .attest mctp nonce => s.emit .other (if mctp then 131072 else 131076) [] (s.proved i (s.attestReport nonce))

/-- INDEX_RESERVED: the index log is programmed; the signature is computed, once its tree is stored (R472, R473). -/
def execIndexReserved (s : State) : Host.Outcome State Fault Refusal :=
  match s.sec.signing with
  | none => .next s
  | some (i, j) =>
    if (s.sec.cached (i / 1048576)).isNone then .next s
    else .next ((s.setSec fun x => { x with signing := none }).sendSigned i j)

/-- The level-2 tree that is being built: that of NEXT_INDEX where it is not stored, else the one after it (R473). -/
def State.treeBuilt (s : State) : Nat :=
  let t := s.getF SIG_STATUS_NEXT_INDEX 0 0 / 1048576
  if (s.sec.cached t).isSome then t + 1 else t

/-- TREE_BUILD_DONE: the next level-2 tree is stored with its level-1 signature, beside the current one (R473). -/
def execTreeBuildDone (s : State) : Host.Outcome State Fault Refusal :=
  if s.flag SIG_STATUS_BUILDING 0 0 then
    let t := s.treeBuilt
    .next ((s.setF SIG_STATUS_BUILDING 0 0 0).setSec fun x => { x with
      trees := (x.trees.filter fun c => c.tree + 1 == t) ++ [⟨t, treeSignature x.seed t⟩] })
  else .next s

/-! ### Sideband commands (R476, R477, Table 19.5) -/

/-- OPERATOR_KEY_SET (R476, R520): signed by the current key, or, with none installed, unsigned while ENROL is low. -/
def execOperatorKeySet (enrolLow : Bool) (msg : List Byte) (s : State) : Host.Outcome State Fault Refusal :=
  let c := sideCommand 0x0001 keyForm msg
  let act (body : List Byte) (u : State) : State :=
    (u.setSec fun x => { x with keyRecord := some (.of "operator key" body) }).measureRecords
  match c with
  | some x =>
    if s.sec.operatorKey.isNone && enrolLow && !s.muted then
      .next (act x.body ((s.keepSeq (max s.sec.lastSeq x.seq)).sideband [stDONE]))
    else .next (s.signedCommand c act)
  | none => .next (s.signedCommand c act)

/-- POLICY_SET: ALLOW_E, the REQUIRE mask, and up to 64 pairs of measurement and digest (R481). -/
def execPolicySet (msg : List Byte) (s : State) : Host.Outcome State Fault Refusal :=
  .next (s.signedCommand (sideCommand 0x0002 policyForm msg) fun body u =>
    (u.setSec fun x => { x with policyRecord := some (.of "admission policy" body) }).measureRecords)

/-- MASSIF_PLAN_SET: applies at the next package reset (Table 19.5). -/
def execMassifPlanSet (msg : List Byte) (s : State) : Host.Outcome State Fault Refusal :=
  .next (s.signedCommand (sideCommand 0x0003 planForm msg) fun body u =>
    (u.setSec fun x => { x with planRecord := some (.of "massif plan" body) }).measureRecords)

/-- The body of PARTITION: device and job of each assignment, of 2 bytes each (R245; assumption 127). -/
def partitionForm (body : List Byte) : Bool := body.length % 4 == 0

/-- PARTITION: a member forwards the assignments (device, job) to the summit (R245). -/
def execPartition (msg : List Byte) (s : State) : Host.Outcome State Fault Refusal :=
  .next (s.signedCommand (sideCommand 0x0004 partitionForm msg) fun body u =>
    if u.role < 3 then u
    else u.mgmt 0x8B (u.getF SUMMIT_INFO_SUMMIT_ID 0 0) ((chunk 2 (body.length / 2) body).map leNat))

/-- PACKAGE_RESET: a package reset over the sideband (Table 18.1); without further effect during a reset that contains it (R456). -/
def execPackageReset (msg : List Byte) (b : BootInputs) (s : State) : Host.Outcome State Fault Refusal :=
  .next (s.signedCommand (sideCommand 0x0006 List.isEmpty msg) fun _ u => if u.power.inReset then u else u.packageReset 4 b)

/-- STATE_WAKE: acts as WAKE; in RUNNING it changes nothing (Table 19.5). -/
def execStateWake (msg : List Byte) (s : State) : Host.Outcome State Fault Refusal :=
  .next (s.signedCommand (sideCommand 0x0007 List.isEmpty msg) fun _ u => u.wake)

/-- The NONCE of an attestation request (R480): the BODY of an ATTEST message, which carries no signature, or the DOE data object; none where
it is malformed. -/
def attestNonce (mctp : Bool) (msg : List Byte) : Option (List Byte) :=
  if mctp then ((sideCommand 0x0010 (fun b => b.length == 32) msg).filter fun c => c.signature.isEmpty).map (·.body)
  else if msg.length = 32 then some msg
  else none

/-- ATTEST: a request with a 32-byte nonce over MCTP or DOE asks for a report (R480). An exhausted key answers none (R473). A malformed message is
refused with reason 4 (R477), a malformed data object discarded (assumption 127). -/
def execAttest (mctp : Bool) (msg : List Byte) (s : State) : Host.Outcome State Fault Refusal :=
  if mctp && s.muted then .next (s.sideband [255])
  else
    match attestNonce mctp msg with
    | none => .next (if mctp then s.refuseCommand 4 else s)
    | some nonce => if s.flag SIG_STATUS_EXHAUSTED 0 0 then .next s else .next (s.wantSign (.attest mctp nonce))

/-! ### Link keys (R482 to R486) -/

/-- Install a staged key: direction 0 send, 1 receive. -/
def State.installKey (s : State) (p dir slot : Nat) (words : List Reg) (salt : Fld) (valid : Fld) : State :=
  let k : KeySlot := ⟨words.map fun r => (s.reg r (p / 4) (p % 4)).toNat, s.portF salt p, 0⟩
  let s1 := (s.setFabric fun r => { r with keys := kset KeySlot.zero r.keys (p * 4 + dir * 2 + slot) k })
  (s1.setPortF valid p (s.portF valid p ||| 2 ^ slot)).tryRaise p

/-- INSTALL_TX: refused for the slot that is ACTIVE_TX (R484). -/
def State.installTx (s : State) (p slot : Nat) : State :=
  if !s.dieRunning (p / 4) then s
  else if slot = s.portF KEY_CTRL_ACTIVE_TX p then s.setF CRYPT_BLK_STATUS_CFG_ERR (p / 4) 0 1
  else s.installKey p 0 slot [TX_KEY0, TX_KEY1, TX_KEY2, TX_KEY3] SALTS_TX_SALT KEY_CTRL_TX_VALID

/-- INSTALL_RX (R484). -/
def State.installRx (s : State) (p slot : Nat) : State :=
  if !s.dieRunning (p / 4) then s
  else s.installKey p 1 slot [RX_KEY0, RX_KEY1, RX_KEY2, RX_KEY3] SALTS_RX_SALT KEY_CTRL_RX_VALID

/-- INSTALL_TX: a write of INSTALL_TX to KEY_CTRL. -/
def execInstallTx (p : Fin 16) (slot : Fin 2) (s : State) : Host.Outcome State Fault Refusal := .next (s.installTx p slot)

/-- INSTALL_RX: a write of INSTALL_RX to KEY_CTRL. -/
def execInstallRx (p : Fin 16) (slot : Fin 2) (s : State) : Host.Outcome State Fault Refusal := .next (s.installRx p slot)

end Sys2Proof.Machine
end

