-- ==== Sys2Proof/Machine/SelftestCmd.lean ====
section
/-!
DEFINITION. Meanings of the commands of self-test (R487 to R492).
-/
namespace Sys2Proof.Machine

open Sys2Proof

/-- SLOT_MS in ns. -/
def State.slotNs (s : State) : Nat := max 1 (s.getF ST_EXPERT_SLOT_MS 0 0) * 1000000

/-- Targets of Table 20.1 of a kind, in ascending order. -/
def targetsOf (kind : Nat) : List Nat :=
  ((List.range 16).map fun i => kind * 256 + i).filter targetOk

/-- The peer's device of a KIND 2 target (Table 20.2). -/
def State.testPeer (s : State) (t : Nat) : Nat := if t / 256 = 2 then (s.port (t % 256)).peerDevice else 0

/-- Send TEST_REQ for a target (R491). -/
def State.requestTest (s : State) (t : Nat) : State :=
  let s1 := (s.setF ST_STATUS_STATE 0 0 1).setF ST_STATUS_TARGET 0 0 t
  (s1.setTest fun x => { x with retryAt := none, peer := s.testPeer t }).mgmt 0x97 (s.getF SUMMIT_INFO_SUMMIT_ID 0 0)
    [s.device, t, s.testPeer t]

/-- A write of REQUEST to ST_CMD (Table 20.11). -/
def State.testCommand (s : State) (t : Nat) : State :=
  if s.getF ST_STATUS_STATE 0 0 ≠ 0 ∨ !targetOk t ∨ s.savesItself t then s.setF ST_BLK_STATUS_CMD_ERR 0 0 1
  else s.requestTest t

/-- REQUEST: a write of REQUEST to ST_CMD (R491). -/
def execRequest (t : Fin 65536) (s : State) : Host.Outcome State Fault Refusal := .next (s.testCommand t)

/-- SELFTEST_SCHEDULE_TICK: once per PERIOD_H every target of each kind in KIND_MASK, in ascending code, one request outstanding at a
time (Table 20.8). -/
def execSelftestScheduleTick (s : State) : Host.Outcome State Fault Refusal :=
  let hours := s.getF ST_EXPERT_PERIOD_H 0 0
  if hours = 0 ∨ s.getF ST_STATUS_STATE 0 0 ≠ 0 ∨ !s.awake then .next s
  else
    let mask := s.getF ST_EXPERT_KIND_MASK 0 0
    let s1 := if s.selftest.round.isEmpty then
        let t := s.timeTo s.selftest.roundAt
        t.setTest fun x => { x with
          roundAt := t.fabricNow + hours * 3600000000000
          round := (rangeFrom 1 7).flatMap fun k => if mask.testBit k then targetsOf k else [] }
      else s
    match s1.selftest.round with
    | [] => .next s1
    | t :: rest =>
      let s2 := s1.setTest fun x => { x with round := rest }
      .next (if s2.savesItself t then s2 else s2.requestTest t)

/-! ### The summit (R490, R491) -/

/-- Slots in use: a far-end test counts twice. -/
def State.slotsUsed (s : State) : Nat :=
  (s.selftest.slots.map fun x => if x.2.1 / 256 = 2 then 2 else 1).foldl (· + ·) 0

/-- The step of the contour that a package follows: its job's, or the idle contour (R248). -/
def State.stepOfDevice (s : State) (device : Nat) : Nat :=
  let job := match s.memberOf device with | some m => m.job | none => 0
  if job = 0 then s.summit.idle
  else match s.sumJob job with
    | some x => x.contour / 2 ^ 24
    | none => 0

/-- The threshold of a grant: (n + 1, OPEN) of the requester's job, or the next idle contour step (R491). -/
def State.testThreshold (s : State) (device : Nat) : Nat := (s.stepOfDevice device + 1) * 2 ^ 24

/-- Whether a package holds a slot: its own, or the peer's part of a far-end test (R490). -/
def State.slotOf (s : State) (device : Nat) : Bool :=
  s.selftest.slots.any fun x => x.1 == device || (x.2.1 / 256 == 2 && x.2.2.1 == device)

/-- Whether a test of the own package meets a condition of R490: a port whose bundle has no other port UP, a Saddle test while one of the links is not
UP, a die that is not RUNNING. -/
def State.testBlocked (s : State) (t : Nat) : Bool :=
  let p := t % 256
  ((t / 256 == 1 || t / 256 == 2) && !((s.bundle (s.port p).dir).any fun q => q != p && s.portState q == portUP)) ||
  (t / 256 == 3 && (List.range 4).any fun l => s.getF SADDLE_STATUS_STATE 0 l != 0) ||
  !((List.range 4).all s.dieRunning)

/-- TEST_REQ: the summit grants, or refuses with a cause: 1 limit, 2 a condition of R490, 3 an invalid target. The conditions of its own package
are its own state's; of another package `blocked` tells whether one holds there, which no packet carries (assumption 128). It grants none for
SLOT_MS after a takeover (Table 20.3). -/
def execTestReq (device : Fin 10240) (target : Fin 65536) (peer : Fin 16384) (blocked : Bool) (s : State) :
    Host.Outcome State Fault Refusal :=
  if s.deaf then .next s else
  if !s.isSummit then .next s
  else
    let t := target.val
    let weight := if t / 256 = 2 then 2 else 1
    let limit := max 1 (s.fabric.members.length / 16)
    let refuse (cause : Nat) : State := s.mgmt 0x98 device [device, t, 1, cause]
    if !targetOk t then .next (refuse 3)
    else if (if device.val = s.device then s.testBlocked t else blocked) then .next (refuse 2)
    else if s.fabricNow < s.selftest.graceUntil ∨ limit < s.slotsUsed + weight ∨
        s.slotOf device || (t / 256 == 2 && s.slotOf peer) then .next (refuse 1)
    else
      let th := s.testThreshold device
      let s1 := (s.setTest fun x => { x with slots := x.slots ++ [(device.val, t, peer.val, th)] }).mgmt 0x98 device [device, t, 0, th]
      .next (if t / 256 = 2 then s1.mgmt 0x98 peer [device, t, 0, th] else s1)

/-! ### The requester (R488, R491) -/

/-- The event entry that a grant takes: the highest that is not enabled (assumption 47). -/
def State.freeEntry (s : State) (d : Nat) : Option Nat :=
  ((List.range 256).map fun i => 255 - i).find? fun e => !s.flag EVENT_CTRL_ENABLE d e

/-- A grant takes an entry of the contour table (R491; assumption 47). -/
def State.writeGrant (s : State) (d target threshold : Nat) (entry : Option Nat) : State :=
  match entry with
  | none => s
  | some e =>
    let ctrl : Word := BitVec.ofNat 64 (2 ^ 63 + 2 ^ 62 + 5 * 2 ^ 52)
    let s1 := ((s.setReg EVENT_CTRL d e ctrl).setReg THRESHOLD d e (BitVec.ofNat 64 threshold)).setReg ARG0 d e
      (BitVec.ofNat 64 target)
    if s1.dieRunning d then s1.actEntry d e else s1

/-- TEST_GRANT: a grant arms a SELFTEST entry at its threshold in the table of the target's die, or of die 0; a refusal is asked again
after 1 s (R491). -/
def execTestGrant (device : Fin 10240) (target : Fin 65536) (refused : Option (Fin 4)) (threshold : Nat) (s : State) :
    Host.Outcome State Fault Refusal :=
  if s.deaf then .next s else
  if device.val ≠ s.device ∨ s.getF ST_STATUS_STATE 0 0 ≠ 1 ∨ s.getF ST_STATUS_TARGET 0 0 ≠ target.val then .next s
  else
    match refused with
    | some _ => .next (s.setTest fun x => { x with retryAt := some (s.fabricNow + 1000000000) })
    | none =>
      let d := if targetDie target < 4 then targetDie target else 0
      let s1 := (s.setF ST_STATUS_STATE 0 0 2).setTest fun x => { x with threshold := threshold, slotEnds := none }
      .next (s1.writeGrant d target threshold (s1.freeEntry d))

/-- TEST_REQ_RETRY: a refused request goes again after 1 s (R491). -/
def execTestReqRetry (s : State) : Host.Outcome State Fault Refusal :=
  match s.selftest.retryAt with
  | none => .next s
  | some t =>
    if s.getF ST_STATUS_STATE 0 0 ≠ 1 then .next s
    else .next ((s.timeTo t).requestTest (s.getF ST_STATUS_TARGET 0 0))

/-- The hold that the test of a neighbouring package has put on a port of this one. -/
def State.heldFor (s : State) (device : Nat) : Option (Nat × Nat) :=
  s.selftest.heldPorts.find? fun h => (s.port h.1).peerDevice == device

/-- TEST_HOLD: the peer of a tested port drains its own end, whose RETRAIN_US timer is suspended until TEST_DONE or SLOT_MS (R488). -/
def execTestHold (p : Fin 16) (target : Fin 65536) (s : State) : Host.Outcome State Fault Refusal :=
  if s.deaf then .next s else
  if target.val / 256 ≠ 1 ∧ target.val / 256 ≠ 2 then .next s
  else
    let s1 := s.setTest fun x => { x with heldPorts := (x.heldPorts.filter fun h => h.1 != p.val) ++ [(p.val, s.fabricNow + s.slotNs)] }
    .next (s1.linkTell p (s.bundleDead (s.port p).dir))

/-- Copy n bytes of memory with their poison from a to b. -/
def State.copyRegion (s : State) (a b n : Nat) : State :=
  let inR (lo k : Nat) : Bool := decide (lo ≤ k) && decide (k < lo + n)
  let m := (s.mem.filter fun e => inR a e.1).foldl (fun m e => kset 0 m (e.1 - a + b) e.2) (kfilter (fun k => !inR b k) s.mem)
  let p := (s.poison.filter fun e => inR a (4 * e.1)).foldl (fun m e => kset false m ((4 * e.1 - a + b) / 4) e.2)
    (kfilter (fun k => !inR b (4 * k)) s.poison)
  { s with mem := m, poison := p }

/-- The test region of a stack, and its die's save area (R488). -/
def testRegion (t : Nat) : Nat := t * 0x1000000000 + 0xFFFF00000
def State.saveArea (s : State) (d : Nat) : Nat := s.getF ST_SAVE_BASE_BASE 0 d * 1048576

/-- Whether a port has sent all it holds and the peer has acknowledged every flit (R488). -/
def Port.drained (x : Port) : Bool := x.buffer.isEmpty && x.parked.isEmpty && x.streams.all fun t => t.2.bytes.isEmpty

/-- SELFTEST_DRAIN_DONE: the target has drained: a port once the peer has acknowledged every flit. Its image is saved, a stack's test
region copied to the save area, and the test runs (R488). -/
def execSelftestDrainDone (s : State) : Host.Outcome State Fault Refusal :=
  let t := s.getF ST_STATUS_TARGET 0 0
  let i := t % 256
  if s.getF ST_STATUS_STATE 0 0 ≠ 3 ∨ !s.selftest.draining then .next s
  else if (t / 256 = 1 ∨ t / 256 = 2) ∧ !(s.port i).drained then .next s
  else
    let s1 := (s.setTest fun x => { x with draining := false }).saveShells (testShells t)
    .next (if t / 256 = 4 then s1.copyRegion (testRegion i) (s1.saveArea (i / 3)) 1048576 else s1)

/-- Lanes as a mask. -/
def laneMask (l : List Nat) : Nat := l.foldl (fun m i => m ||| 2 ^ (i % 4)) 0

/-- A port returns from a test by a retrain that leaves out the failing lanes; it takes back its slot when it is UP (R488, R489, R232,
R234). -/
def State.returnPort (s : State) (p : Nat) (bad : List Nat) : State :=
  if s.portState p ≠ portUP ∧ s.portState p ≠ portRETRAIN then s
  else
    let s1 := s.retrain p
    s1.setPort p { s1.port p with away := true, excluded := (s1.port p).excluded ||| laneMask bad }

/-- The hold of a peer's test ends: the held port retrains (R488). -/
def State.endHold (s : State) (p : Nat) : State := (s.setTest fun x => { x with heldPorts := x.heldPorts.filter fun h => h.1 != p }).returnPort p []

/-- A target returns to service, and what a test found acts through its shell's own rules (R488, R489). `bad` are the failing lanes,
wires (a Saddle wire as group × 80 + wire), or sensors; `saved` is whether the target had drained, so that a stack's test region was saved. -/
def State.returnTarget (s : State) (t : Nat) (saved fail refused : Bool) (bad : List Nat) : State :=
  let i := t % 256
  match t / 256 with
  | 1 => s.returnPort i bad
  | 2 => s.returnPort i bad
  | 3 =>
    let s1 := bad.foldl (fun u w =>
      let x := u.saddle i
      (u.setSaddle i { x with dead := if x.dead.contains (w / 80, w % 80) then x.dead else x.dead ++ [(w / 80, w % 80)] }).setF
        (saddleDeadMask (i % 2)) 0 (i / 2) (u.getF (saddleDeadMask (i % 2)) 0 (i / 2) ||| 2 ^ (w / 80))) s
    s1.trainLink (i / 2)
  | 4 =>
    if s.stackState i ≠ 1 ∨ (s.stack i).training ≠ .selftest then s
    else
      let s1 := if saved then s.copyRegion (s.saveArea (i / 3)) (testRegion i) 1048576 else s
      let s2 := bad.foldl (fun u w => if u.stackState i = 4 then u else u.markDead i (w / 20) (w % 20)) s1
      if s2.stackState i = 4 then s2
      else if refused then s2.setStack i { s2.stack i with training := .restoreRefused }
      else s2.stackActive i
  | 6 => if fail ∧ i < 8 then s.isolateConverter i else s
  | 7 => (bad.filter fun x => decide (x < 16)).foldl (fun u x => u.excludeSensor i x) s
  | _ => s

/-- The slot of this package ends (R489, R491): the image of a target that had drained is restored; KINDs 5 to 7 saved none (R488). -/
def State.closeSlot (s : State) (result margin ratio : Nat) (fail refused : Bool) (bad : List Nat) : State :=
  let t := s.getF ST_STATUS_TARGET 0 0
  let saved := !s.selftest.draining && decide (t / 256 ≤ 4)
  let s1 := s.endTest result margin ratio
  let s2 := if !saved then s1 else if refused then s1.refuseShells (testShells t) else s1.restoreShells (testShells t)
  (s2.returnTarget t saved fail refused bad).releaseAll

/-- 1 × 10^-5 as FP64, the bit error ratio that a lane may reach (Table 20.1). -/
def berLimit : Nat := 0x3EE4F8B588E368F1

/-- Whether a reading of a target's part keeps the pass limits of Table 20.1. -/
def readingPasses (t : Nat) (r : TestReading) : Bool :=
  match t / 256 with
  | 1 => decide (r.ratio.toNat ≤ berLimit) && r.errors == 0 && decide (150 ≤ r.margin.val)
  | 2 => decide (r.ratio.toNat ≤ berLimit) && r.errors == 0 && decide (150 ≤ r.margin.val)
  | 3 => decide (200 ≤ r.margin.val)
  | 4 => r.errors == 0 && decide (150 ≤ r.margin.val)
  | 5 => decide (r.margin.val ≤ 50)
  | 6 =>
    if t % 256 < 8 then decide (100 * r.margin.val ≤ 3 * r.nominal) && decide (r.errors ≤ 60)
    else decide (100 * r.margin.val ≤ 2 * r.nominal) && decide (r.errors ≤ 20)
  | _ => if r.part.val < 16 then decide (r.margin.val ≤ 4) else decide (100 * r.margin.val ≤ r.nominal)

/-- The parts that the test of a target measures (Table 20.1): four lanes, the wires of the ledger's groups, a stack's 320 wires, the target itself,
the sensors of a die that are in use. -/
def State.testParts (s : State) (t : Nat) : List Nat :=
  let l := t % 256 / 2
  match t / 256 with
  | 1 => List.range 4
  | 2 => List.range 4
  | 3 => (saddleGroups (s.getF SADDLE_LEDGER_WIDTH 0 l) (s.getF SADDLE_LEDGER_SEL 0 l)).flatMap fun g => rangeFrom (80 * g) 80
  | 4 => List.range 320
  | 7 => s.sensorsOf (t % 256) ++ [16, 17]
  | _ => [0]

/-- The readings of a test, one for each part it measures; a part without one reads all 0. -/
def State.testReadings (s : State) (t : Nat) (readings : List TestReading) : List TestReading :=
  (s.testParts t).map fun i =>
    ((readings.find? fun r => r.part.val == i).getD ⟨Fin.ofNat 1280 i, 0, 0, 0, 0⟩)

/-- The worst margin of a test: the least one of KINDs 1 to 4, the greatest deviation of the others (Table 20.11). -/
def worstMargin (t : Nat) (rs : List TestReading) : Nat :=
  let ms := rs.map (·.margin.val)
  if t / 256 ≤ 4 then ms.foldl min 65535 else ms.foldl max 0

/-- The worst bit error ratio of a test, 0 where its KIND measures none (Table 20.6). -/
def worstRatio (rs : List TestReading) : Nat := (rs.map (·.ratio.toNat)).foldl max 0

/-- SELFTEST_TEST_DONE: the test ends with what it measured (Table 20.1). A part that breaches a pass limit makes the result FAIL and acts
through its shell's own rules; `refused` is whether the shell refuses its image, and the result then reads RESTORE_REFUSED (R487 to R489). -/
def execSelftestTestDone (readings : List TestReading) (refused : Bool) (s : State) : Host.Outcome State Fault Refusal :=
  let t := s.getF ST_STATUS_TARGET 0 0
  if s.getF ST_STATUS_STATE 0 0 ≠ 3 ∨ s.selftest.draining then .next s
  else
    let rs := s.testReadings t readings
    let bad := (rs.filter fun r => !readingPasses t r).map (·.part.val)
    let refusedHere := refused && decide (t / 256 ≤ 4)
    .next (s.closeSlot (if refusedHere then 3 else if bad.isEmpty then 0 else 1) (worstMargin t rs) (worstRatio rs) (!bad.isEmpty)
      refusedHere bad)

/-- TEST_DONE: the summit's slot ends; at the peer of a tested port its own end retrains (R488, R491). -/
def execTestDone (device : Fin 10240) (target : Fin 65536) (s : State) : Host.Outcome State Fault Refusal :=
  if s.deaf then .next s else
  let s1 := s.setTest fun x => { x with slots := x.slots.filter fun y => !(y.1 == device.val && y.2.1 == target.val) }
  match s.heldFor device with
  | none => .next s1
  | some h => .next (if device.val = s.device then s1 else s1.endHold h.1)

/-- Whether the threshold of the own grant has been published: a die has adopted it (R491). -/
def State.grantOpen (s : State) : Bool :=
  (List.range 4).any fun d => decide (s.selftest.threshold ≤ (s.reg CONTOUR_VALUE d 0).toNat)

/-- SELFTEST_SLOT_EXPIRY: SLOT_MS after the threshold's publication: this package's slot ends, a test in progress as ABORTED; so do the
hold of a peer's test and, at the summit, the slot of `device`, once its threshold is published (R491). -/
def execSelftestSlotExpiry (device : Fin 10240) (s : State) : Host.Outcome State Fault Refusal :=
  let s1 := s.setTest fun x => { x with
    slots := x.slots.filter fun y => y.1 != device.val || decide (s.stepOfDevice device * 2 ^ 24 < y.2.2.2) }
  if device.val = s.device then
    let s2 := match s.selftest.slotEnds with | some t => s1.timeTo t | none => s1
    .next (match s.getF ST_STATUS_STATE 0 0 with
      | 2 => if s.grantOpen then s2.setF ST_STATUS_STATE 0 0 0 else s1
      | 3 => s2.closeSlot 2 0 0 false false []
      | _ => s2)
  else
    match s.heldFor device with
    | some h => .next ((s1.timeTo h.2).endHold h.1)
    | none => .next s1

end Sys2Proof.Machine
end

