-- ==== Sys2Proof/Machine/RegView.lean ====
section
/-!
DEFINITION. What a read of a set-up register returns (R503 to R508): the stored fields, and those that the block computes.
-/
namespace Sys2Proof.Machine

open Sys2Proof

/-- The low n bits of p as a mask. -/
def maskOf (n : Nat) (p : Nat → Bool) : Nat := (List.range n).foldl (fun m i => m + b2n (p i) * 2 ^ i) 0

/-- CORE_STATUS (Table 2.29): the stored fields with the queue and the pipes as they stand. -/
def State.coreStatus (s : State) (d g : Nat) : Word :=
  let c := s.coreOf d g
  let v := s.reg CORE_STATUS d g
  CORE_STATUS_ACC_BUSY.put (CORE_STATUS_VEC_BUSY.put (CORE_STATUS_MOVE_OUT.put (CORE_STATUS_TQ_OCC.put v c.tq.length) c.moves.length)
    (b2n (!c.vec.isEmpty))) (b2n (!s.accIdle d g))

/-- FLAG_SUMMARY (Table 3.11). -/
def State.flagSummary (s : State) (d : Nat) : Word :=
  let core (g : Nat) : Nat := (s.reg CORE_FLAGS d g).toNat
  let eng := (s.reg DIE_ENGINE_FLAGS d 0).toNat
  let any := maskOf 8 fun c => (List.range 12).any fun k => core (c * 12 + k) != 0
  let all := (List.range 96).foldl (fun m g => m ||| bits (core g) 4 0 ||| bits (core g) 9 5) 0
  let engs := (List.range 5).foldl (fun m i => m ||| bits eng (5 * i + 4) (5 * i)) 0
  FLAG_SUMMARY_ANY.put (FLAG_SUMMARY_CLUSTER_ANY.put (s.reg FLAG_SUMMARY d 0) any) (all ||| engs)

/-- The packet that Q_HEAD and Q_SRC describe (R367): the open packet is the oldest visible one. -/
def State.described (s : State) (d q : Nat) : Option QPacket := (s.queue d q).visible.head?

/-- Q_STATUS (Table 13.10). -/
def State.queueStatus (s : State) (d q : Nat) : Word :=
  let x := s.queue d q
  let n := x.unread
  let v := Q_STATUS_EMPTY.put (s.reg Q_STATUS d q) (b2n (n == 0))
  Q_STATUS_WORDS.put (Q_STATUS_PACKETS.put v (min 65535 x.visible.length)) n

/-- Q_HEAD (R367). -/
def State.queueHead (s : State) (d q : Nat) : Word :=
  match s.described d q with
  | none => s.reg Q_HEAD d q
  | some p =>
    let v := Q_HEAD_STEP.put (s.reg Q_HEAD d q) p.step
    Q_HEAD_REMAIN.put (Q_HEAD_OPEN.put v (b2n (s.queue d q).opened)) (p.words - p.read)

/-- Q_SRC: the header SRC of the described packet. -/
def State.queueSrc (s : State) (d q : Nat) : Word :=
  match s.described d q with
  | none => s.reg Q_SRC d q
  | some p => Q_SRC_SRC.put (s.reg Q_SRC d q) (p.srcDev + p.srcDie * 16384)

/-- SUMMIT_INFO with HEARTBEAT_AGE_US (Table 8.17). -/
def State.summitInfo (s : State) : Word :=
  SUMMIT_INFO_HEARTBEAT_AGE_US.put (s.reg SUMMIT_INFO 0 0) (min 65535 ((s.fabricNow - s.fabric.lastBeat) / 1000))

/-- TRAIL_ACCESS with the trail entry at INDEX (Table 8.14). -/
def State.trailAccess (s : State) (d : Nat) : Word :=
  let v := s.reg TRAIL_ACCESS d 0
  TRAIL_ACCESS_ENTRY.put v (s.trailOf d (TRAIL_ACCESS_INDEX.get v))

/-- RING_STATE: an enabled ring shows STALLED while the spill area is full (R411). -/
def State.ringState (s : State) (r : Nat) : Word :=
  let v := s.reg RING_STATE 0 r
  if RING_STATE_STATE.get v = 1 ∧ 2097152 ≤ s.host.spill.length then RING_STATE_STATE.put v 2 else v

/-- A register with the fields that its block computes. -/
def State.view (s : State) (r : Reg) (d i : Nat) : Word :=
  if r = ID_PART then ID_PART_CODE.put (s.reg ID_PART 0 0) (if s.sec.partE then 0x45 else 0x41)
  else if r = ID_SERIAL then BitVec.ofNat 64 s.sec.serial
  else if r = MASSIF_COORD then MASSIF_COORD_DEVICE.put (s.reg MASSIF_COORD 0 0) s.device
  else if r = SUMMIT_INFO then s.summitInfo
  else if r = PKG_HEALTH then BitVec.ofNat 64 s.pkgHealth
  else if r = RING_STATE then s.ringState i
  else if r = CORE_STATUS then s.coreStatus d i
  else if r = FLAG_SUMMARY then s.flagSummary d
  else if r = FABRIC_TIME then BitVec.ofNat 64 s.fabricNow
  else if r = Q_STATUS then s.queueStatus d i
  else if r = Q_HEAD then s.queueHead d i
  else if r = Q_SRC then s.queueSrc d i
  else if r = TRAIL_ACCESS then s.trailAccess d
  else s.reg r d i

/-- A value with its WO fields at 0, as a read returns them (Table 0.3). -/
def clearWo (rows : List FldRow) (v : Word) : Word :=
  rows.foldl (fun v f => if f.acc = .wo then (⟨MODE_GLB, f.hi, f.lo⟩ : Fld).put v 0 else v) v

/-- What an 8-byte read of the register at an offset below 0x100000 returns: 0 where nothing is mapped, the broadcast window among it,
and all ones in the region of a die that is not RUNNING (R503, R506, R508). -/
def State.readReg (s : State) (offset : Nat) : Word :=
  if 0x80000 ≤ offset ∧ offset < 0x100000 ∧ !s.dieRunning (dieOfOffset offset) then BitVec.allOnes 64
  else
    match findReg offset with
    | some (row, d, i) => clearWo row.rows (s.view row.reg d i)
    | none => 0

end Sys2Proof.Machine
end

