-- ==== Sys2Proof/Machine/Switchback.lean ====
section
/-!
DEFINITION. Meanings of the commands of the switchback engines (chapter 13, R347 to R359).
-/
namespace Sys2Proof.Machine

open Sys2Proof

/-- A write of START to SB_CMD (R351). -/
def State.sbStart (s : State) (d bank step entry : Nat) : State :=
  if s.sbState d ≠ 0 then s.setF SB_BLK_STATUS_CMD_ERR d 0 1
  else
    let s1 := s.setSb d { Switchback.zero with hints := (s.sb d).hints }
    let s2 := (((s1.setF SB_STATUS_STEP d 0 step).setF SB_STATUS_PTR d 0 entry).setF SB_STATUS_ACTIVE_BANK d 0 bank).setF
      SB_STATUS_STATE d 0 1
    (List.range 8).foldl (fun u c => u.writeN (flagWordAddr d (u.getF SB_EXPERT_SB_FLAG d 0 + c)) 8 0) s2

/-- A write of STOP to SB_CMD (R351). -/
def State.sbStop (s : State) (d : Nat) : State :=
  if s.sbState d = 0 then s else (s.setSb d { s.sb d with stopping := true }).sbDone d

/-- A write of CONTINUE to SB_CMD (R350, R358). -/
def State.sbContinue (s : State) (d : Nat) : State :=
  match s.sbState d with
  | 2 => s.setF SB_STATUS_STATE d 0 1
  | 3 =>
    let failed := match s.sbHead d with | some f => f.prefetch.getD stDONE != stDONE | none => false
    (s.setSb d { s.sb d with passFault := failed }).setF SB_STATUS_STATE d 0 1
  | _ => s.setF SB_BLK_STATUS_CMD_ERR d 0 1

/-- SB_START. -/
def execSbStart (d : Fin 4) (bank : Fin 2) (step : BitVec 40) (entry : Fin 4096) (s : State) :
    Host.Outcome State Fault Refusal :=
  if s.dieRunning d then .next (s.sbStart d bank step.toNat entry) else .next s

/-- SB_STOP. -/
def execSbStop (d : Fin 4) (s : State) : Host.Outcome State Fault Refusal :=
  if s.dieRunning d then .next (s.sbStop d) else .next s

/-- CONTINUE. -/
def execSbContinue (d : Fin 4) (s : State) : Host.Outcome State Fault Refusal :=
  if s.dieRunning d then .next (s.sbContinue d) else .next s

/-- SB_ENTRY_READ: the engine reads the next entry within PREFETCH_AHEAD of PTR, and issues its prefetch (R347, R357), whether or not its
IN_Q is enabled yet. -/
def execSbEntryRead (d : Fin 4) (s : State) : Host.Outcome State Fault Refusal :=
  match s.sbNextRead d with
  | none => .next s
  | some i =>
    let a := s.sbEntryAddr d i
    if !s.dieRunning d ∨ !s.awake ∨ s.engineHeld d a 16 false then .next s
    else
      let r := s.localRead d 110 a 16
      -- an entry that reads as poison is taken for one of the reserved KIND
      let w0 := if r.2.2.any id then 3 * 2 ^ 62 else leNat (r.2.1.take 8)
      let w1 := leNat (r.2.1.drop 8)
      let x := r.1.sb d
      let s1 := r.1.setSb d { x with fetched := x.fetched ++ [⟨i, w0, w1, none, s.reg SB_EXPERT d 0⟩] }
      if sbPass w0 && s.hintHeld d (sbPre w1) then .next s
      else if sbPass w0 && sbPre w1 != 255 then
        .next (s1.issueHint d i w0 (sbPre w1) (s1.sbStep d) true).afterWork
      else .next s1

/-- SB_DISPATCH: the entry at PTR is dispatched where its conditions hold; a malformed one, or one whose prefetch failed under
HINT_FAIL_STOP, faults the engine (R352, R353, R358). -/
def execSbDispatch (d : Fin 4) (s : State) : Host.Outcome State Fault Refusal :=
  let x := s.sb d
  match s.sbHead d with
  | none => .next s
  | some f =>
    if s.sbState d ≠ 1 ∨ x.stopping ∨ x.settle.isSome ∨ !s.dieRunning d ∨ !s.awake ∨ sbKind f.word0 = 2 then .next s
    else if s.sbBad d f.word0 then .next ((s.sbFail d f.index 255 1 0).setF SB_STATUS_STATE d 0 3)
    else if s.sbBlocked d f ≠ 0 then .next s
    else if SB_EXPERT_HINT_FAIL_STOP.get f.expert == 1 && f.prefetch.getD stDONE != stDONE && !x.passFault then
      .next (s.setF SB_STATUS_STATE d 0 3)
    else .next (s.sbDispatch d f)

/-- HINT_COMPLETE: a hint operation's completion reaches the engine (R358). -/
def execHintComplete (d : Fin 4) (s : State) : Host.Outcome State Fault Refusal :=
  match s.takeDone d (fun w => match w with | .switchback _ _ _ _ => true | _ => false) with
  | some (x, t) =>
    match x.who with
    | .switchback e h pre n => .next (t.hintDone d e h pre n x.status)
    | _ => .next t
  | none => .next s

/-- Whether the bank changes at the END that die d's engine stands at: a DRAIN re-shard takes effect with its step (R349). -/
def State.sbDrains (s : State) (d : Nat) : Bool :=
  (match s.cor.drain with | some x => x.1 == s.sbStep d | none => false) || s.cor.drained == some (s.sbStep d)

/-- SB_STEP_END: every dispatched entry of the step is done, and the next step begins at entry 0 (R355). -/
def execSbStepEnd (d : Fin 4) (s : State) : Host.Outcome State Fault Refusal :=
  if s.sbAtEnd d && s.dieRunning d && s.awake && !s.sbDrains d then .next (s.sbRestart d (s.sbStep d + 1)) else .next s

/-- SB_BANK_SWITCH: at the END of the DRAIN step, after its seal, the pending bank becomes active (R349). -/
def execSbBankSwitch (d : Fin 4) (s : State) : Host.Outcome State Fault Refusal :=
  if s.sbAtEnd d && s.dieRunning d && s.awake && s.sbDrains d && s.isSealed (s.sbStep d) then
    .next ((s.sbSwitchBank d).sbRestart d (s.sbStep d + 1))
  else .next s

/-- SB_COLLAPSE_SETTLE: after a collapse, with every dispatched entry done, the engine starts over at entry 0, or holds with
the pending bank active (R350, R356). -/
def execSbCollapseSettle (d : Fin 4) (s : State) : Host.Outcome State Fault Refusal :=
  let x := s.sb d
  if !x.flights.isEmpty ∨ !s.dieRunning d ∨ s.sbState d = 0 then .next s
  else
    match x.settle with
    | none => .next s
    | some (.restart n) => .next (s.sbRestart d n)
    | some (.reshard n) => .next (((s.sbSwitchBank d).sbRestart d n).setF SB_STATUS_STATE d 0 2)

end Sys2Proof.Machine
end

