-- ==== Sys2Proof/Machine/Tile.lean ====
section
/-!
DEFINITION. Meanings of the Spur core's tile queue instructions, WAIT and SIGNAL, the local move-pipe instructions, and
the start and reset of a core (chapter 02).
-/
namespace Sys2Proof.Machine

open Sys2Proof

/-- TQ_PUSH: push x[rs1], the word w, or stall on a full queue (R59, R60); another funct3 or funct7 raises an illegal-instruction
exception (R58). -/
def execTqPush (d : Fin 4) (g : Fin 96) (insn : BitVec 32) (w : Word) (s : State) : Host.Outcome State Fault Refusal :=
  if !s.spurReady d g then .next s
  else if !spurIs insn 0x0B 0 then .next (s.spurTrap d g 2)
  else if (s.coreOf d g).tq.length < 32 then
    let t := s.updCore d g fun c => c.enqueue w s.job
    .next (if (s.coreOf d g).tq.isEmpty then t.settleHead d g else t)
  else .next (s.updCore d g fun c => { c with stall := some (.push w) })

/-- TQ_SETA: set TA[rd] to x[rs1], the value v, or raise an illegal-instruction exception, for rd of 16 or more too (R58, R59). -/
def execTqSeta (d : Fin 4) (g : Fin 96) (insn : BitVec 32) (v : Word) (s : State) : Host.Outcome State Fault Refusal :=
  if !s.spurReady d g then .next s
  else if !spurIs insn 0x0B 1 ∨ 16 ≤ spurRd insn then .next (s.spurTrap d g 2)
  else .next (s.updCore d g fun c => { c with ta := kset 0 c.ta (spurRd insn) v })

/-- TQ_STAT: x[rd] takes the queue status (Table 2.5, R58). -/
def execTqStat (d : Fin 4) (g : Fin 96) (insn : BitVec 32) (s : State) : Host.Outcome State Fault Refusal :=
  if !s.spurReady d g then .next s
  else if !spurIs insn 0x0B 2 then .next (s.spurTrap d g 2)
  else .next (s.updCore d g fun c => c.setX (spurRd insn) (s.tqStatus d g))

/-- TQ_ECRD: x[rd] takes an event counter, or an illegal-instruction exception, for an index of 16 or more too (R58, R59). -/
def execTqEcrd (d : Fin 4) (g : Fin 96) (insn : BitVec 32) (s : State) : Host.Outcome State Fault Refusal :=
  if !s.spurReady d g then .next s
  else if !spurIs insn 0x0B 3 ∨ 16 ≤ spurRs2 insn then .next (s.spurTrap d g 2)
  else .next (s.updCore d g fun c => c.setX (spurRd insn) (BitVec.ofNat 64 (c.ecOf (spurRs2 insn))))

/-- TQ_CLEAR: discard every queued word, clear TQ_FAULT, resume (R83); discarded VEC_RUNs are no longer waited for, and a VS.RDW that
stalls may return (R156), so that alone among the stalls does not keep it out. -/
def execTqClear (d : Fin 4) (g : Fin 96) (insn : BitVec 32) (s : State) : Host.Outcome State Fault Refusal :=
  if !s.coreLive d g ∨ !s.flag CORE_CTRL_RUN d g then .next s
  else
    let clear (u : State) (st : Option SpurStall) : State := (u.setF CORE_STATUS_TQ_FAULT d g 0).updCore d g fun c =>
      { c with tq := [], held := false, stall := st, vecPushed := c.vecDone + (c.vec.filter fun r => r.mma.isNone).length }
    match (s.coreOf d g).stall with
    | none => .next (if spurIs insn 0x0B 4 then clear s none else s.spurTrap d g 2)
    | some (.rdw rd slot _) => .next (if spurIs insn 0x0B 4 then clear s (some (.rdw rd slot 0)) else s)
    | some _ => .next s

/-- WAIT: leave the head where its condition holds, else hold issue (R66). -/
def execWait (d : Fin 4) (g : Fin 96) (s : State) : Host.Outcome State Fault Refusal :=
  let c := s.coreOf d g
  match c.tq with
  | e :: _ =>
    if e.opc = 0x30 ∧ s.coreLive d g ∧ !s.tqStopped d g ∧ !c.held ∧ (s.tqFault d g e).isNone ∧ !s.waitHolds d g e then
      .next (s.updCore d g fun c => { c with held := true })
    else .next (s.issue d g 0x30 fun _ => some s)
  | [] => .next s

/-- WAIT_SATISFIED: the condition of the held WAIT holds, and the queue resumes (R66). -/
def execWaitSatisfied (d : Fin 4) (g : Fin 96) (s : State) : Host.Outcome State Fault Refusal :=
  let c := s.coreOf d g
  match c.tq with
  | e :: _ =>
    if s.coreLive d g && !s.tqStopped d g && c.held && e.opc == 0x30 && s.waitHolds d g e then .next (s.popHead d g)
    else .next s
  | [] => .next s

/-- SIGNAL: add INC to a counter of a core in the cluster, at once or once the pipes are idle (R65). -/
def execSignal (d : Fin 4) (g : Fin 96) (s : State) : Host.Outcome State Fault Refusal :=
  let c := s.coreOf d g
  match c.tq with
  | e :: _ =>
    if e.opc = 0x31 ∧ s.coreLive d g ∧ !s.tqStopped d g ∧ !c.held ∧ (s.tqFault d g e).isNone ∧
        e.f 49 49 = 1 ∧ !s.coreIdle d g then
      .next (s.updCore d g fun c => { c with held := true })
    else .next (s.issue d g 0x31 fun e => some (s.signalEc d g e))
  | [] => .next s

/-- SIGNAL_AFTER_IDLE: every pipe of the core is idle, and the held SIGNAL adds its increment (R65). -/
def execSignalAfterIdle (d : Fin 4) (g : Fin 96) (s : State) : Host.Outcome State Fault Refusal :=
  let c := s.coreOf d g
  match c.tq with
  | e :: _ =>
    if s.coreLive d g && !s.tqStopped d g && c.held && e.opc == 0x31 && s.coreIdle d g then
      .next ((s.signalEc d g e).popHead d g)
    else .next s
  | [] => .next s

/-! ### Local moves -/

/-- LD_TILE (R72). -/
def execLdTile (d : Fin 4) (g : Fin 96) (s : State) : Host.Outcome State Fault Refusal :=
  .next (s.issue d g 0x01 fun e => s.startMove d g e)

/-- ST_TILE (R72). -/
def execStTile (d : Fin 4) (g : Fin 96) (s : State) : Host.Outcome State Fault Refusal :=
  .next (s.issue d g 0x02 fun e => s.startMove d g e)

/-- PERMUTE (R73). -/
def execPermute (d : Fin 4) (g : Fin 96) (s : State) : Host.Outcome State Fault Refusal :=
  .next (s.issue d g 0x19 fun e => s.startMove d g e)

/-- MOVE (R74). -/
def execMove (d : Fin 4) (g : Fin 96) (s : State) : Host.Outcome State Fault Refusal :=
  .next (s.issue d g 0x20 fun e => s.startMove d g e)

/-- LOCAL_MOVE_COMPLETE: the n-th outstanding move-pipe instruction, a local one, completes (R65). One whose accesses are held
completes once they have been performed, in the order of arrival (R166, Table 6.3). -/
def execLocalMoveComplete (d : Fin 4) (g : Fin 96) (n : Fin 16) (s : State) : Host.Outcome State Fault Refusal :=
  match (s.coreOf d g).moves[n.val]? with
  | none => .next s
  | some m =>
    if m.remote || !s.dieRunning d then .next s
    else
      let t := if m.copied then s else s.releaseAll
      match (t.coreOf d g).moves[n.val]? with
      | some m1 =>
        if m1.copied then .next (t.updCore d g fun c => { c with moves := c.moves.eraseIdx n.val }.complete m.entry) else .next t
      | none => .next t

/-- CORE_RUN: a write to CORE_CTRL RUN (Table 2.27). -/
def execCoreRun (d : Fin 4) (g : Fin 96) (run : Bool) (s : State) : Host.Outcome State Fault Refusal :=
  if s.dieRunning d then .next (s.coreRun d g run) else .next s

/-- Whether CORE_RESET is refused (R466). -/
def State.coreResetRefused (s : State) (d core : Nat) : Bool := decide (96 ≤ core) || !s.dieRunning d || !s.awake

/-- What a write of CORE_RESET to STATE_CMD does (R466). -/
def State.coreResetCmd (s : State) (d : Nat) (core : Nat) : State :=
  if s.coreResetRefused d core then (s.setF STATE_BLK_STATUS_CMD_ERR 0 0 1)
  else (s.resetCore d core)

/-- CORE_RESET: reset one core, or refuse with CMD_ERR (R466). -/
def execCoreReset (d : Fin 4) (core : Nat) (s : State) : Host.Outcome State Fault Refusal :=
  .next (if s.power.inReset then s else s.coreResetCmd d core)

end Sys2Proof.Machine
end

