-- ==== Sys2Proof/Machine/Update.lean ====
section
/-!
DEFINITION. Meanings of the commands of the update engines (chapter 11): requests, outer-tier state, the life of a block
(Table 11.8), recovery, export.
-/
namespace Sys2Proof.Machine

open Sys2Proof

/-- START_CMD: a write of START to UPD_CMD (R300). -/
def execStartCmd (b : Fin 4096) (s : State) : Host.Outcome State Fault Refusal :=
  .next (s.requestUpdate b).afterWork

/-! ### Blocks -/

/-- Whether die d's engines may run blocks (R306, R317, R342). -/
def State.engineLive (s : State) (d : Nat) : Bool :=
  s.dieRunning d && s.awake && s.restored d

/-- A block whose fetch failed ends with the fetch's status (Table 11.8); one that came poisoned with the record of R312. -/
def State.endFetchFailed (s : State) (r : UpdRun) (j b status : Nat) : State :=
  let x : BlkRun := ⟨r.bucket, b, r.step, .snap, 256, [], [], 0, stDONE⟩
  let s := if status = stPOISONED then s.raise 1 0x32 r.die j 0 r.bucket b 0 else s
  (s.setUpdRun { r.started b with waiting := r.waiting.filter (· != b) }).endBlock r.die j x status

/-- One answer comes for a block's oldest fetches that still wait; a dead one goes with its last. -/
def landFetch (bucket block status : Nat) : List BlkFetch → List BlkFetch
  | [] => []
  | f :: fs =>
    if f.bucket = bucket ∧ f.block = block ∧ 0 < f.left then
      let g := { f with left := f.left - 1, status := statusMax f.status status }
      if g.dead && g.left == 0 then fs else g :: fs
    else f :: landFetch bucket block status fs

/-- STATE_FETCH_LAND: an answer to one of engine j's fetches; with the last of a block's, the block leaves FETCH_WAIT, or ends
where the fetch failed (R318, R319). -/
def execStateFetchLand (d : Fin 4) (j : Fin 3) (s : State) : Host.Outcome State Fault Refusal :=
  let mine (w : Requester) : Bool := match w with | .update k n => k == j.val && n % 2 == 0 | _ => false
  match s.takeDone d mine with
  | none => .next s
  | some (x, t) =>
    match x.who with
    | .update _ n =>
      let b := n / 16 / 2 ^ 20
      let block := n / 16 % 2 ^ 20
      let u := t.setEngFetches d j (landFetch b block x.status (t.engFetches d j))
      match u.updRunOpen b d, u.fetchOf d j b block with
      | some r, some f =>
        if f.left ≠ 0 then .next u
        else if f.status ≠ stDONE ∧ r.nextBlock j = some block then .next (u.endFetchFailed r j block f.status).afterWork
        else .next (u.setUpdRun { r with waiting := r.waiting.filter (· != block) })
      | _, _ => .next u.afterWork
    | _ => .next t

/-- Streams 1 to 5 of a block before its update, with whether a word was poisoned: from memory, or from the fetch window. -/
def State.readStreams (s : State) (r : UpdRun) (j b : Nat) : State × List (List Byte) × Bool :=
  [1, 2, 3, 4, 5].foldl (fun (a : State × List (List Byte) × Bool) k =>
    if k = 5 ∧ !r.avg then (a.1, a.2.1 ++ [List.replicate 256 0], a.2.2)
    else
      let addr :=
        if r.tier = 0 then r.streamPtr k b % 2 ^ 48
        else
          match s.fetchOf r.die j r.bucket b with
          | some f => s.windowBody r.die j f.slot + bodyOffset k
          | none => 0
      let x := a.1.localRead r.die (106 + j) addr (streamBytes k)
      (x.1, a.2.1 ++ [x.2.1], a.2.2 || x.2.2.any id)) (s, [], false)

/-- The flag set of engine j (R109). -/
def updFlagSet (j : Nat) : Fld :=
  if j = 0 then DIE_ENGINE_FLAGS_UPD0 else if j = 1 then DIE_ENGINE_FLAGS_UPD1 else DIE_ENGINE_FLAGS_UPD2

/-- The working summary slots of engine j in a run. -/
def UpdRun.workOf (r : UpdRun) (j : Nat) : KMap Slot :=
  (r.slots.filter fun p => p.1 / 16 == j).map fun p => (p.1 % 16, ⟨p.2.getD 0, false⟩)

/-- The run with engine j's working slots replaced. -/
def UpdRun.withWork (r : UpdRun) (j : Nat) (w : KMap Slot) : UpdRun :=
  { r with slots := w.foldl (fun m p => kset none m (j * 16 + p.1) (some p.2.data)) (r.slots.filter fun p => p.1 / 16 != j) }

/-- Run a run's program on block b, with its inputs (R308 to R311); the block then waits for its snapshot. A block that the working slots
hold from an earlier attempt is not folded again (R303). -/
def State.runBlock (s : State) (r : UpdRun) (j b slot : Nat) (grad : List Byte) (old : List (List Byte)) : State :=
  let regs := s.freshRegs r.code
  let ctx (w pc : Nat) : CrestCtx := ⟨w, pc, b, s.job, r.step, r.bucket * 2 ^ 20 + b⟩
  let e := updRunBlock ((grad :: old) ++ [r.hyper]) r.avg ctx r.code ⟨regs.1, r.workOf j, 0, old⟩
  let s1 := regs.2.orFlags (updFlagSet j) r.die 0 (106 + j) (3 + j) e.flags
  let x : BlkRun := ⟨r.bucket, b, r.step, .snap, slot, old, e.stage, 0, stDONE⟩
  let r1 := r.started b
  let r2 := if r.folded.contains b then { r1 with folded := r1.folded.filter (· != b) } else r1.withWork j e.work
  (s1.setUpdRun r2).setEngBlocks r.die j (s1.engBlocks r.die j ++ [x])

/-- Block b of a bucket is read, in journal slot `slot`, and computed; poison in its inputs ends it (R312, R319). -/
def State.beginBlock (s : State) (r : UpdRun) (j b slot : Nat) : State :=
  let g := s.localRead r.die (106 + j) (r.buf + 512 * b) 512
  let o := g.1.readStreams r j b
  if r.hyperPois || g.2.2.any id || o.2.2 then
    let x : BlkRun := ⟨r.bucket, b, r.step, .snap, 256, [], [], 0, stDONE⟩
    ((o.1.raise 1 0x32 r.die j 0 r.bucket b 0).setUpdRun (r.started b)).endBlock r.die j x stPOISONED
  else o.1.runBlock r j b slot g.2.1 o.2.1

/-- Engine j meets the block b that it may start next: the block waits for its outer-tier streams, ends with a fetch that failed, waits for
what holds its memory, and for a journal slot and store room (R299, R316). -/
def State.tryBlock (s : State) (r : UpdRun) (j b : Nat) : State :=
  let f := s.fetchOf r.die j r.bucket b
  let st := fetchStatus f
  let slot := s.freeSlot r.die j
  if !(r.tier == 0 || fetchLanded f) then s.noteWaits r
  else if st ≠ stDONE then (s.endFetchFailed r j b st).afterWork
  else if s.engineHeld r.die (r.buf + 512 * b) 512 false || s.streamsHeld r b false [1, 2, 3, 4, 5] || slot.isNone ||
      (s.storeUsed r.step && !s.storeFree r.die) then s
  else (s.beginBlock r j b (slot.getD 0)).afterWork

/-- BLOCK_RUN: engine j of die d starts the next block of a bucket, once its inputs are present and a journal slot and store
room are free; poison in them ends it (R299, R312, R316, R319). -/
def execBlockRun (d : Fin 4) (j : Fin 3) (bucket : Fin 4096) (s : State) : Host.Outcome State Fault Refusal :=
  match s.updRunOpen bucket d with
  | none => .next s
  | some r =>
    match r.nextBlock j with
    | none => .next s
    | some b => .next (if !s.engineLive d ∨ s.collapsing r.step ∨ 4 ≤ (s.engBlocks d j).length then s else s.tryBlock r j b)

/-- The k-th block in flight of an engine that lives, where it stands in a given phase. -/
def State.blockAt (s : State) (d j k : Nat) (ph : BlkPhase) : Option BlkRun :=
  if !s.dieRunning d then none
  else
    match (s.engBlocks d j)[k]? with
    | some x => if x.phase = ph then some x else none
    | none => none

/-- The run a block belongs to. -/
def State.runOf (s : State) (d : Nat) (x : BlkRun) : UpdRun := s.entryRun x.bucket d x.step

/-- SNAP: the k-th block in flight of an engine writes its snapshot and slot header (R314 step 1). -/
def execSnap (d : Fin 4) (j : Fin 3) (k : Fin 4) (s : State) : Host.Outcome State Fault Refusal :=
  match s.blockAt d j k .snap with
  | none => .next s
  | some x =>
    if s.snapHeld d j x then .next s
    else .next ((s.writeSnap d j x).setBlk d j { x with phase := .moments })

/-- Write some streams of a block's new state, and go on to a phase. -/
def State.writeNew (s : State) (d j : Nat) (x : BlkRun) (ks : List Nat) (ph : BlkPhase) : State :=
  let r := s.runOf d x
  let w := s.writeStreams r j x.block x.new ks
  w.1.setBlk d j { x with phase := ph, outer := w.2 }

/-- MOMENTS: streams 3 and 4 are written (R314 step 2). -/
def execMoments (d : Fin 4) (j : Fin 3) (k : Fin 4) (s : State) : Host.Outcome State Fault Refusal :=
  match s.blockAt d j k .moments with
  | none => .next s
  | some x =>
    if s.streamsHeld (s.runOf d x) x.block true [3, 4] then .next s
    else .next (s.writeNew d j x [3, 4] .weights).afterWork

/-- WEIGHTS: the moments have landed, and streams 1, 2 and 5 are written; or an outer write failed, and the block ends with
its slot VALID and its tag old (R314 step 3, R320). -/
def execWeights (d : Fin 4) (j : Fin 3) (k : Fin 4) (s : State) : Host.Outcome State Fault Refusal :=
  let s := s.collectOuter d
  match s.blockAt d j k .weights with
  | none => .next s
  | some x =>
    if x.outer ≠ 0 then .next s
    else if x.outerStatus ≠ stDONE then .next (s.endBlock d j x x.outerStatus).afterWork
    else if s.streamsHeld (s.runOf d x) x.block true [1, 2, 5] then .next s
    else .next (s.writeNew d j x [1, 2, 5] .tag).afterWork

/-- TAG: the weights have landed, and the commit tag is written, in ascending block within a bucket; or an outer write failed
(R299, R314 step 4, R320). -/
def execTag (d : Fin 4) (j : Fin 3) (k : Fin 4) (s : State) : Host.Outcome State Fault Refusal :=
  let s := s.collectOuter d
  match s.blockAt d j k .tag with
  | none => .next s
  | some x =>
    let r := s.runOf d x
    let before := (s.engBlocks d j).any fun y =>
      y.bucket == x.bucket && y.step == x.step && decide (y.block < x.block) && !decide (y.phase = .done)
    let a := r.commit + 2 * x.block
    if x.outer ≠ 0 then .next s
    else if x.outerStatus ≠ stDONE then .next (s.endBlock d j x x.outerStatus).afterWork
    else if before || s.engineHeld d a 2 true then .next s
    else .next ((s.localWrite d (106 + j) a (leBytes 2 (x.step % 65536)) []).setBlk d j { x with phase := .done })

/-- BLOCK_DONE: the commit tag has landed, the slot is freed, the block finishes (R302, R315). -/
def execBlockDone (d : Fin 4) (j : Fin 3) (k : Fin 4) (s : State) : Host.Outcome State Fault Refusal :=
  match s.blockAt d j k .done with
  | none => .next s
  | some x =>
    if s.engineHeld d (s.slotAddr d j x.slot) 1 true then .next s
    else .next (((s.freeJournal d j x.slot).endBlock d j x stDONE).afterWork)

/-- Whether any update engine holds a block in flight, a restore whose writes are pending included, while which RECOVER is
refused (R317, assumption 124). -/
def State.enginesBusy (s : State) : Bool := (List.range 16).any fun i => !(s.engBlocks (i / 4) (i % 4)).isEmpty

/-- What a write of RECOVER to UPD_CMD does (R317). -/
def State.recoverCmd (s : State) : State :=
  if s.enginesBusy then (s.setF UPD_BLK_STATUS_CMD_ERR 0 0 1)
  else (s.liveDies.foldl (fun u d => u.recoverDie d) s).afterWork

/-- RECOVER: a write of RECOVER to UPD_CMD runs recovery on every die that runs, or is refused while an engine holds a block
in flight (R317). -/
def execRecover (s : State) : Host.Outcome State Fault Refusal :=
  .next s.recoverCmd

/-! ### Export (R321 to R325) -/

/-- An export descriptor (Table 11.10). -/
structure ExportDesc where
  dest : Nat
  destLen : Nat
  map : Nat
  ctrl : Nat
  count : Nat
  ref : Nat
  doneAt : Nat
  spare : Nat
  deriving DecidableEq, Repr

/-- A segment map entry (R321). -/
structure ExportSeg where
  first : Nat
  count : Nat
  tensor : Nat
  run : Nat
  offset : Nat
  lstride : Nat
  deriving DecidableEq, Repr

def State.exportDesc (s : State) (a : Nat) : ExportDesc :=
  ⟨s.seenN a 8, s.seenN (a + 8) 8, s.seenN (a + 0x10) 8, s.seenN (a + 0x18) 4, s.seenN (a + 0x1C) 4, s.seenN (a + 0x20) 8,
   s.seenN (a + 0x28) 8, s.seenN (a + 0x30) 16⟩

def State.exportSeg (s : State) (a : Nat) : ExportSeg :=
  ⟨s.seenN a 4, s.seenN (a + 4) 4, s.seenN (a + 8) 4, s.seenN (a + 12) 4, s.seenN (a + 16) 8, s.seenN (a + 24) 8⟩

def ExportDesc.bucket (x : ExportDesc) : Nat := bits x.ctrl 31 20
def ExportDesc.format (x : ExportDesc) : Nat := bits x.ctrl 19 16

/-- Whether an address is a SPACE 0b00 address in mapped memory, aligned. -/
def State.spaceOk (s : State) (a align n : Nat) : Bool :=
  decide (a < 2 ^ 48) && a % align == 0 && !decide (s.extentReach a n = .unmapped)

/-- Whether a descriptor keeps the rules of R321; L is the bucket's elements. -/
def State.exportOk (s : State) (x : ExportDesc) (segs : List ExportSeg) (elems : Nat) : Bool :=
  decide (x.format ≤ 1) && bits x.ctrl 12 0 == 0 && x.spare == 0 && x.dest % 64 == 0 && x.destLen % 64 == 0 &&
  s.spaceOk x.map 32 (32 * x.count) && s.spaceOk x.doneAt 8 8 && (x.format != 1 || s.spaceOk x.ref 1 (2 * elems)) &&
  segs.all (fun g => decide (0 < g.run) && decide (g.first + g.count ≤ elems)) &&
  (segs.zip (segs.drop 1)).all fun p => decide (p.1.first + p.1.count ≤ p.2.first)

/-- Bytes of state array i of a bucket, with whether any is poisoned or out of reach: from memory for TIER 0, else from `outer`,
the arrays as the fabric returned them, in pointer order (assumption 37). -/
def State.stateBytes (s : State) (r : UpdRun) (outer : List Byte) (i o n : Nat) : List Byte × Bool :=
  if r.tier = 0 then
    let a := r.ptrs.getD i 0 % 2 ^ 48 + o
    (s.seen a n, s.seenPois a n)
  else
    let base := (r.extents.take i).foldl (· + ·) 0
    ((outer.drop (base + o)).take n, false)

/-- The status that an export's own reads get before it sends anything: of its descriptor, its map, its reference copy and, in the near
tier, the arrays it reads (R39, R40, R171). A retired stack's part of an array reads as poison. -/
def State.exportReach (s : State) (a : Nat) (x : ExportDesc) (r : UpdRun) : Nat :=
  let one (a n : Nat) : Nat := statusMax (s.extentReach a n).status (if s.seenPois a n then stPOISONED else stDONE)
  let own := statusMax (one a 64) (one x.map (32 * x.count))
  let ref := if x.format = 1 then (s.extentReach x.ref (2 * r.len)).status else stDONE
  let arrays := if r.tier = 0 ∧ (List.range 4).any fun i =>
      decide (s.extentReach (r.ptrs.getD i 0 % 2 ^ 48) (r.extents.getD i 0) = .unreachable) then stUNREACHABLE else stDONE
  statusMax (statusMax own ref) arrays

/-- Whether something that an export reads is held. -/
def State.exportHeld (s : State) (d a : Nat) (x : ExportDesc) (r : UpdRun) : Bool :=
  s.engineHeld d a 64 false || s.engineHeld d x.map (32 * x.count) false || s.engineHeld d (s.stateAddr x.bucket) 64 false ||
  s.engineHeld d (s.bucketAddr x.bucket) 32 false || (x.format == 1 && s.engineHeld d x.ref (2 * r.len) true) ||
  (r.tier == 0 && (List.range 4).any fun i => s.engineHeld d (r.ptrs.getD i 0 % 2 ^ 48) (r.extents.getD i 0) false)

/-- What an export's reading of its descriptor, map and tables leaves behind (R40). -/
def State.exportLook (s : State) (d a : Nat) (x : ExportDesc) : State :=
  (((s.look d 111 a 64).look d 111 x.map (32 * x.count)).look d 111 (s.stateAddr x.bucket) 64).look d 111 (s.bucketAddr x.bucket) 32

/-- One FP32 moment pair (m, v) of element e. The flags of the rounding of v go to no set (R107, assumption 102). -/
def State.momentOf (s : State) (r : UpdRun) (outer : List Byte) (e : Nat) : (Nat × Nat) × Bool :=
  let b := e / 128
  let cm := s.stateBytes r outer 2 (b * 256 + e % 128) 1
  let cv := s.stateBytes r outer 2 (b * 256 + 128 + e % 128) 1
  let sc := s.stateBytes r outer 2 (r.len / 128 * 256 + 4 * b) 4
  ((m8DecodeM (leNat (sc.1.take 2)) (leNat cm.1), (m8DecodeV (leNat (sc.1.drop 2)) (leNat cv.1)).1), cm.2 || cv.2 || sc.2)

/-- The payload of a record of one KIND (R323, R324), with whether it holds poison. -/
def State.exportPayload (s : State) (x : ExportDesc) (r : UpdRun) (outer : List Byte) (g : ExportSeg) (kind : Nat) :
    List Byte × Bool :=
  let arr (i : Nat) : List Byte × Bool := s.stateBytes r outer i (2 * g.first) (2 * g.count)
  match kind with
  | 1 => ((arr 0).1 ++ (arr 1).1, (arr 0).2 || (arr 1).2)
  | 2 =>
    let ms := (rangeFrom g.first g.count).map fun e => s.momentOf r outer e
    (ms.flatMap (fun m => leBytes 4 m.1.1) ++ ms.flatMap (fun m => leBytes 4 m.1.2), ms.any (·.2))
  | 3 => arr 3
  | _ =>
    let hi := arr 0
    let old := s.seen (x.ref + 2 * g.first) (2 * g.count)
    let groups := (List.range ((g.count + 63) / 64)).flatMap fun k =>
      let n := min 64 (g.count - 64 * k)
      let word (bs : List Byte) (i : Nat) : List Byte := (bs.drop (2 * (64 * k + i))).take 2
      let changed := (List.range n).filter fun i => word hi.1 i != word old i
      leBytes 8 (changed.foldl (fun m i => m + 2 ^ i) 0) ++ changed.flatMap (word hi.1)
    (groups, hi.2)

/-- A record or frame: the 48-byte header, the payload, zeros to a multiple of 64 bytes (R323). -/
def exportRecord (g : ExportSeg) (kind step : Nat) (payload : List Byte) : List Byte :=
  let body := leBytes 2 kind ++ leBytes 2 0 ++ leBytes 4 g.tensor ++ leBytes 8 step ++ leBytes 8 g.offset ++ leBytes 8 g.lstride ++
    leBytes 4 g.run ++ leBytes 4 g.count ++ leBytes 4 payload.length ++ leBytes 4 0 ++ payload
  body ++ List.replicate ((64 - body.length % 64) % 64) 0

/-- The records an export writes, in order: segment by segment, and within a segment the selected arrays by KIND. -/
def ExportDesc.plan (x : ExportDesc) (segs : List ExportSeg) : List (ExportSeg × Nat) :=
  segs.flatMap fun g =>
    if x.format = 1 then [(g, 0x11)]
    else
      (if x.ctrl.testBit 13 then [(g, 1)] else []) ++ (if x.ctrl.testBit 14 then [(g, 2)] else []) ++
      (if x.ctrl.testBit 15 then [(g, 3)] else [])

/-- Send one record of export `e`, unless an earlier one did not fit (R325): a PUT on GEN. A frame's new hi words wait for its answer, to
go to the reference copy once it is written (R324). -/
def State.sendRecord (s : State) (id : Nat) (x : ExportDesc) (r : UpdRun) (outer : List Byte) (p : ExportSeg × Nat) : State :=
  match s.upd.exports.find? fun e => e.id == id with
  | none => s
  | some e =>
    let put (u : State) (y : ExportRun) : State :=
      u.setUpd fun v => { v with exports := v.exports.map fun z => if z.id = id then y else z }
    if e.status = stSHORT then s
    else
      let load := s.exportPayload x r outer p.1 p.2
      let rec_ := exportRecord p.1 p.2 e.step load.1
      if x.destLen < e.written + rec_.length then put s { e with status := stSHORT }
      else
        let q : RemReq := ⟨.event e.written id, .put, 0, BitVec.ofNat 64 (x.dest + e.written), 0, rec_.length, 1, 0, false, rec_,
          List.replicate (rec_.length / 4) load.2, 0,
          false, 0, e.step, s.job, false, false, 0⟩
        let hi := r.ptrs.getD 0 0 % 2 ^ 48 + 2 * p.1.first
        let frame := (e.written, x.ref + 2 * p.1.first, (s.stateBytes r outer 0 (2 * p.1.first) (2 * p.1.count)).1,
          if r.tier = 0 then (List.range ((p.1.count + 1) / 2)).map fun i => s.seenPois (hi + 4 * i) 4 else [])
        let s1 := put s { e with
          written := e.written + rec_.length
          left := e.left + 1
          puts := kset 0 e.puts e.written rec_.length
          frames := if p.2 = 0x11 then e.frames ++ [frame] else e.frames }
        s1.remoteIssue noFire e.die q

/-- EXPORT_START: a waiting export begins once its step is sealed and the bucket's update of that step is over (R322). For a bucket in an
outer tier `outer` and `status` are what its reads returned (assumption 37): a failed read ends the export with its status, and so does a
descriptor, a map or an array that does not answer (R39, R40, R258). -/
def execExportStart (id : Nat) (outer : List Byte) (status : Fin 256) (s : State) : Host.Outcome State Fault Refusal :=
  match s.upd.exports.find? fun e => e.id == id with
  | none => .next s
  | some e =>
    let x := s.exportDesc e.addr
    let overF := s.upd.buckets.any fun b => b.bucket == x.bucket && b.step == e.step && b.ended
    if e.started ∨ !s.isSealed e.step ∨ !overF ∨ !s.dieRunning e.die ∨ !s.awake then .next s
    else
      let segs := (List.range x.count).map fun i => s.exportSeg (x.map + 32 * i)
      let r := s.openRun x.bucket e.die e.step
      let put (u : State) (y : ExportRun) : State :=
        u.setUpd fun v => { v with exports := v.exports.map fun z => if z.id = id then y else z }
      let st := statusMax (if s.exportOk x segs r.len then stDONE else stINVALID) (s.exportReach e.addr x r)
      if s.exportHeld e.die e.addr x r then .next s
      else
        let s := s.exportLook e.die e.addr x
        if st ≠ stDONE then
          let s1 := put s { e with started := true, status := st }
          .next (match e.entry with
            | some k => s1.entryStatus e.die k st
            | none => s1)
        else if r.tier ≠ 0 ∧ status.val ≠ stDONE then .next (put s { e with started := true, status := status })
        else
          .next (((x.plan segs).foldl (fun u p => u.sendRecord id x r outer p) (put s { e with started := true })).afterWork)

/-- The reference copy takes the new hi words of the frame that a PUT has written (R324). -/
def State.frameWritten (s : State) (e : ExportRun) (who : Requester) : State :=
  match who with
  | .event k _ =>
    match e.frames.find? fun f => f.1 == k with
    | some f => s.post e.die 111 f.2.1 f.2.2.1 f.2.2.2
    | none => s
  | _ => s

/-- The bytes that an answered PUT of an export has written (R197, R325). -/
def ExportRun.wrote (e : ExportRun) (x : RemDone) : Nat :=
  match x.who with
  | .event k _ => if x.status = stDONE ∨ x.status = stPOISONED then kget 0 e.puts k else 0
  | _ => 0

/-- EXPORT_DONE: the answers to an export's PUTs are taken; with the last, its completion word is written and a handle
completes (R325, Table 15.4). -/
def execExportDone (id : Nat) (s : State) : Host.Outcome State Fault Refusal :=
  match s.upd.exports.find? fun e => e.id == id with
  | none => .next s
  | some e =>
    if !e.started then .next s
    else
      let mine (w : Requester) : Bool := match w with | .event _ n => n == id | _ => false
      let done := (s.tracker e.die).done.filter fun r => mine r.who
      let s0 := s.setTracker e.die { s.tracker e.die with done := (s.tracker e.die).done.filter fun r => !mine r.who }
      let s1 := done.foldl (fun u r => if r.status = stDONE ∨ r.status = stPOISONED then u.frameWritten e r.who else u) s0
      let y := { e with
        left := e.left - done.length
        status := done.foldl (fun a r => statusMax a r.status) e.status
        landed := done.foldl (fun a r => a + e.wrote r) e.landed }
      if y.left ≠ 0 then
        .next (s1.setUpd fun v => { v with exports := v.exports.map fun z => if z.id = id then y else z })
      else
        let x := s1.exportDesc e.addr
        let s2 := s1.setUpd fun v => { v with exports := v.exports.filter fun z => z.id != id }
        let s3 := if s2.spaceOk x.doneAt 8 8 then s2.post e.die 111 x.doneAt (leBytes 8 (y.status + y.landed * 65536)) [] else s2
        .next ((match e.handle with
          | some h => s3.descDone h y.status y.landed 0
          | none => s3).afterWork)

end Sys2Proof.Machine
end

