-- ==== Sys2Proof/Machine/SetupOps.lean ====
section
/-!
DEFINITION. What a write to a set-up register does, block by block (R11 to R23, R502 to R513, R533): fields by their access codes,
writes that are refused, values treated as others, actions.
-/
namespace Sys2Proof.Machine

open Sys2Proof

/-! ### Fields by their access codes (Table 0.3) -/

/-- The field of a row. -/
def FldRow.fld (r : FldRow) : Fld := ⟨MODE_GLB, r.hi, r.lo⟩

/-- What one field takes of a written value: RW the value, W1C loses the bits written 1, every other code nothing. -/
def FldRow.written (r : FldRow) (old w : Word) : Nat :=
  match r.acc with
  | .rw => r.fld.get w
  | .w1c => r.fld.get old &&& (2 ^ (r.hi + 1 - r.lo) - 1 - r.fld.get w)
  | _ => r.fld.get old

/-- The register value after a write by the access codes. -/
def writeFields (rows : List FldRow) (old w : Word) : Word :=
  rows.foldl (fun v r => r.fld.put v (r.written old w)) old

/-- Whether a written value keeps every RSV field at 0 (R12). -/
def rsvClean (rows : List FldRow) (w : Word) : Bool :=
  rows.all fun r => r.acc != .rsv || r.fld.get w == 0

/-- A write that only sets fields. -/
def State.plainWrite (s : State) (row : RegRow) (d i : Nat) (w : Word) : State :=
  s.setReg row.reg d i (writeFields row.rows (s.reg row.reg d i) w)

/-- Bit n of a written value. -/
def wbit (w : Word) (n : Nat) : Bool := w.toNat.testBit n

/-- Field [hi:lo] of a written value. -/
def wfld (w : Word) (hi lo : Nat) : Nat := bits w.toNat hi lo

/-! ### MODE and the expert fields (R18 to R23, R510) -/

/-- A field with a written value below `n` treated as n. -/
def atLeast (f : Fld) (n : Nat) (w : Word) : Word := f.put w (max n (f.get w))
/-- A field with a written value above `n` treated as n. -/
def atMost (f : Fld) (n : Nat) (w : Word) : Word := f.put w (min n (f.get w))

/-- What a block's expert register takes of a written value: the value, fields treated as another value with that one, or the error
bit of a refusal (R533, the Meaning columns). -/
def Blk.expertValue (b : Blk) (w : Word) : Except Fld Word :=
  match b with
  | .core => if CORE_EXPERT_CUBE_MASK.get w = 0 then .error CORE_BLK_STATUS_MASK_ERR else .ok w
  | .tal => .ok (atLeast TALUS_EXPERT_DEAD_WIRE_RUN 1 w)
  | .pool => .ok (atLeast POOL_EXPERT_UIO_TIMEOUT_US 1 w)
  | .rem => .ok (atLeast REMOTE_EXPERT_TIMEOUT_US 1 w)
  | .rdg =>
    if (List.range 4).any fun p => wfld w (3 * p + 2) (3 * p) == 7 then .error RIDGE_BLK_STATUS_DIR_ERR
    else .ok (atLeast RIDGE_EXPERT_RETRAIN_US 1 (atLeast RIDGE_EXPERT_RETRY_LIMIT 1 w))
  | .mas => .ok (atLeast MASSIF_EXPERT_ELECT_QUIET_MS 1 (atLeast MASSIF_EXPERT_MEMBER_TIMEOUT_MS 2 w))
  | .red => if RED_EXPERT_AVERAGE.get w = 3 then .error RED_BLK_STATUS_CFG_ERR else .ok (atLeast RED_EXPERT_DEADLINE_US 1 w)
  | .cor =>
    if 3840 < CORNICE_EXPERT_GATE_FLAG.get w then .error CORNICE_BLK_STATUS_CFG_ERR
    else .ok (atLeast CORNICE_EXPERT_COLLAPSE_LIMIT 1 w)
  | .sb =>
    if 3832 < SB_EXPERT_SB_FLAG.get w then .error SB_BLK_STATUS_CFG_ERR
    else .ok (atMost SB_EXPERT_PREFETCH_AHEAD 64 (atLeast SB_EXPERT_PREFETCH_AHEAD 1
      (atMost SB_EXPERT_DEPTH 32 (atLeast SB_EXPERT_DEPTH 1 w))))
  | .upd => .ok (atMost UPD_EXPERT_PREFETCH_DEPTH 64 (atLeast UPD_EXPERT_PREFETCH_DEPTH 1 w))
  | .clr => .ok (atLeast COULOIR_EXPERT_COMMIT_US 1 w)
  | .trv => .ok (atLeast TRAV_EXPERT_RETURN_US 1 w)
  | .host => .ok (atLeast HOST_EXPERT_POLL_US 1 (atMost HOST_EXPERT_FETCH_BURST 64 (atLeast HOST_EXPERT_FETCH_BURST 1 w)))
  | .pkg => .ok (atLeast PKG_EXPERT_CLOCK_STABLE_MS 1 w)
  | .sec => .ok (atLeast SEC_EXPERT_SIGN_RATE 1 w)
  | .st => .ok (atLeast ST_EXPERT_SLOT_MS 1 w)
  | .pwr =>
    if PWR_EXPERT_PACE_START_C.get w < 80 ∨ 95 < PWR_EXPERT_PACE_START_C.get w then .error PWR_BLK_STATUS_CFG_ERR else .ok w
  | _ => .ok w

/-- What follows at once from a change of a block's expert fields: ports whose requirement is met may come UP (R485), the power
limits act under the new settings (chapter 17). -/
def State.expertChanged (s : State) (b : Blk) (d : Nat) : State :=
  match b with
  | .cry => (List.range 4).foldl (fun u p => u.tryRaise (4 * d + p)) s
  | .pwr => s.powerExpert
  | _ => s

/-- EXPERT of a block. -/
def State.expertOn (s : State) (b : Blk) (d : Nat) : Bool := wbit (s.reg b.mode d 0) 16

/-- A write to the expert register of a block: ignored while EXPERT is 0 (R19), refused whole where a field refuses its value (R533). -/
def State.writeExpert (s : State) (b : Blk) (r : Reg) (d : Nat) (w : Word) : State :=
  if !s.expertOn b d then s
  else
    match b.expertValue w with
    | .error f => s.setF f d 0 1
    | .ok v => (s.setReg r d 0 v).expertChanged b d

/-- A write to the MODE register of a block (R18 to R23, R510): PRESET, then EXPERT; an unlisted PRESET changes neither. -/
def State.writeMode (s : State) (b : Blk) (d : Nat) (w : Word) : State :=
  match (b.presets d).find? fun p => p.1 == wfld w 7 0 with
  | none => s.setF b.presetErr d 0 1
  | some p =>
    let s1 := s.setReg b.mode d 0 w
    match b.expert with
    | none => s1
    | some e => (s1.setReg e d 0 (BitVec.ofNat 64 p.2)).expertChanged b d

/-! ### Package blocks -/

/-- GLB (Table 21.4). -/
def State.writeGlb (s : State) (row : RegRow) (w : Word) : State :=
  let s1 := s.plainWrite row 0 0 w
  if row.reg = GLOBAL_CTRL then
    -- a write of 0 while the field is 1 is ignored
    if wbit w 0 then s.setF GLOBAL_CTRL_SETUP_LOCK 0 0 1 else s
  else if row.reg = GLOBAL_STATUS ∧ wbit w 63 then s1.setF GLOBAL_STATUS_FIRST_OFFSET 0 0 0
  else s1

/-- MAS (Table 8.17): DIMS and COORD are refused while ROLE is not ALONE, or out of range. -/
def State.writeMas (s : State) (row : RegRow) (w : Word) : State :=
  let x := wfld w 4 0
  let y := wfld w 9 5
  let z := wfld w 14 10
  let bad :=
    (row.reg == MASSIF_DIMS && (s.getF MEMBER_STATE_ROLE 0 0 != 0 || decide (10240 < (x + 1) * (y + 1) * (z + 1)))) ||
    (row.reg == MASSIF_COORD && (s.getF MEMBER_STATE_ROLE 0 0 != 0 || decide (s.getF MASSIF_DIMS_XM1 0 0 < x) ||
      decide (s.getF MASSIF_DIMS_YM1 0 0 < y) || decide (s.getF MASSIF_DIMS_ZM1 0 0 < z)))
  if bad then s.setF MASSIF_BLK_STATUS_PLAN_ERR 0 0 1 else s.plainWrite row 0 0 w

/-- POOL (Table 6.16, R179). -/
def State.writePool (s : State) (row : RegRow) (i : Nat) (w : Word) : State :=
  let st := s.getF RANGE_STATE_STATE 0 i
  if row.reg = RANGE_STATE then s.writeRangeState i (wfld w 1 0)
  else if (row.reg = RANGE_BASE ∨ row.reg = RANGE_SIZE) ∧ (st = 1 ∨ st = 2) then s.setF POOL_BLK_STATUS_RANGE_ERR 0 0 1
  else s.plainWrite row 0 i w

/-- PKG (Table 16.12). A RESET that is refused refuses the write (R435, R533). -/
def State.writePkg (s : State) (row : RegRow) (i : Nat) (w : Word) : State :=
  if row.reg = DIE_CMD then
    let m := wfld w 3 0
    if wbit w 63 && s.dieResetRefused m then s.setF PKG_BLK_STATUS_DIE_CMD_ERR 0 0 1
    else
      let s1 := if wbit w 63 then s.gateReset (.dies m) (fun u => u.dieReset m) else s
      if wbit w 62 then s1.rejoinCmd m else s1
  else s.plainWrite row 0 i w

/-- STA (Table 18.6): a write of which any command is refused does nothing (R533); else its commands act in the order of their bits,
highest first (assumption 48). -/
def State.writeSta (s : State) (row : RegRow) (w : Word) : State :=
  if row.reg = STATE_CMD then
    if ((wbit w 63 || wbit w 62) && s.sleepRefused) || (wbit w 61 && s.awake) ||
        (wbit w 60 && s.coreResetRefused (wfld w 8 7) (wfld w 6 0)) then s.setF STATE_BLK_STATUS_CMD_ERR 0 0 1
    else
      let s1 := if wbit w 63 then s.bivouacCmd else s
      let s2 := if wbit w 62 then s1.refugeCmd else s1
      let s3 := if wbit w 61 then s2.wakeCmd else s2
      if wbit w 60 then s3.coreResetCmd (wfld w 8 7) (wfld w 6 0) else s3
  else s.plainWrite row 0 0 w

/-- ST (Table 20.11). -/
def State.writeSt (s : State) (row : RegRow) (i : Nat) (w : Word) : State :=
  if row.reg = ST_CMD then (if wbit w 63 then s.testCommand (wfld w 15 0) else s) else s.plainWrite row 0 i w

/-- ERR (Table 20.11, R496): the ring's addresses are refused while EN is 1, sizes outside 6 to 16 always. -/
def State.writeErr (s : State) (row : RegRow) (i : Nat) (w : Word) : State :=
  let on := s.flag ERR_RING_CFG_EN 0 0
  let log := wfld w 52 48
  if (row.reg = ERR_RING_BASE ∨ row.reg = ERR_DB_ADDR) ∧ on then s
  else if row.reg = ERR_RING_CFG ∧ (log < 6 ∨ 16 < log) then s
  else
    let s1 := s.plainWrite row 0 i (if row.reg = ERR_RING_CFG then atLeast ERR_RING_CFG_MOD_COUNT 1 w else w)
    if row.reg = ERR_RING_CFG ∧ wbit w 63 ∧ !on then s1.setErr fun e => { e with ringCount := 0, consumed := 0, unsignalled := 0 }
    else s1

/-- Whether a written GROUP_CFG is refused (Table 10.16): its group has buckets in flight, or ENABLE = 1 with a value out of range. -/
def State.groupRefused (s : State) (g : Nat) (w : Word) : Bool :=
  let n := wfld w 61 48
  s.getF GROUP_STATUS_IN_FLIGHT 0 g != 0 ||
  (wbit w 63 && (decide (n < 1) || decide (10240 < n) || decide (n ≤ wfld w 47 34) || wfld w 23 22 == 3))

/-- RED (Table 10.16, R266). -/
def State.writeRed (s : State) (row : RegRow) (i : Nat) (w : Word) : State :=
  if row.reg = STEP_READY then s.stepReady i (wfld w 39 0)
  else if row.reg = GROUP_CFG ∧ s.groupRefused i w then s.setF RED_BLK_STATUS_CFG_ERR 0 0 1
  else s.plainWrite row 0 i w

/-- UPD (Table 11.13). -/
def State.writeUpd (s : State) (row : RegRow) (i : Nat) (w : Word) : State :=
  if row.reg = UPD_CMD then
    if wbit w 63 && s.enginesBusy then s.setF UPD_BLK_STATUS_CMD_ERR 0 0 1
    else
      let s1 := if wbit w 63 then s.recoverCmd else s
      if wbit w 62 then (s1.requestUpdate (wfld w 11 0)).afterWork else s1
  else s.plainWrite row 0 i w

/-- COR (Table 12.12). -/
def State.writeCor (s : State) (row : RegRow) (i : Nat) (w : Word) : State :=
  if row.reg = CORNICE_CMD then
    if (wbit w 63 && decide (s.job = 0)) || (wbit w 61 && !s.flag CORNICE_STATUS_HALTED 0 0) then
      s.setF CORNICE_BLK_STATUS_CMD_ERR 0 0 1
    else
      let s1 := if wbit w 63 then s.reshardCmd (wfld w 62 62) else s
      let s2 := if wbit w 61 then s1.resumeCmd else s1
      if wbit w 60 then s2.clearStale (wfld w 3 0) else s2
  else if row.reg = CSTORE_SIZE ∧ s.getF CSTORE_USE_USED 0 i ≠ 0 then s.setF CORNICE_BLK_STATUS_CFG_ERR 0 0 1
  else s.plainWrite row 0 i w

/-- HOST (Table 15.11, R397). -/
def State.writeHost (s : State) (row : RegRow) (i : Nat) (w : Word) : State :=
  let sq := s.flag RING_CFG_SQ_EN 0 i
  let cq := s.flag RING_CFG_CQ_EN 0 i
  if row.reg = RING_CFG then
    s.ringCfg i (wbit w 63) (wbit w 62) (wfld w 52 48) (wfld w 44 40) (wfld w 37 32) (wfld w 31 16) (wfld w 15 0)
  else if row.reg = HOST_CMD then
    if wbit w 63 && s.attachRefused then s.setF HOST_BLK_STATUS_CFG_ERR 0 0 1
    else
      let s1 := if wbit w 63 then s.attach else s
      if wbit w 62 then s1.detach else s1
  else if row.reg = HANDLE_COUNT then (if wbit w 63 then s.handleClearHw else s)
  else if (row.reg = SQ_BASE ∧ sq) ∨ (row.reg = DB_ADDR ∧ sq) ∨ (row.reg = CQ_BASE ∧ cq) ∨
      (row.reg = SPILL_BASE ∧ s.getF SPILL_STATUS_ENTRIES 0 0 ≠ 0) then s.setF HOST_BLK_STATUS_CFG_ERR 0 0 1
  else s.plainWrite row 0 i w

/-! ### Die blocks -/

/-- CORE (Table 2.27). -/
def State.writeCore (s : State) (row : RegRow) (d i : Nat) (w : Word) : State :=
  if row.reg = CORE_CTRL then s.coreRun d i (wbit w 0) else s.plainWrite row d i w

/-- TAL (Table 6.13). -/
def State.writeTal (s : State) (row : RegRow) (d i : Nat) (w : Word) : State :=
  if row.reg = STACK_CTRL then
    let s1 := if wbit w 1 then s.stackClear (3 * d + i) else s
    if wbit w 0 then s1.retireCmd (3 * d + i) else s1
  else s.plainWrite row d i w

/-- VEC (Table 5.17): a write of 1 to VALID also clears SKIPPED. -/
def State.writeVec (s : State) (row : RegRow) (d i : Nat) (w : Word) : State :=
  let s1 := s.plainWrite row d i w
  if row.reg = VEC_FAULT ∧ wbit w 63 then s1.setF VEC_FAULT_SKIPPED d i 0 else s1

/-- CON (Table 9.7, R250, R257, R258); `camp` tells a write of the Camp die. -/
def State.writeCon (s : State) (row : RegRow) (d i : Nat) (w : Word) (camp : Bool) : State :=
  if row.reg = LOCAL_POS then s.writePos d w.toNat
  else if row.reg = EVENT_CTRL then (s.writeEventCtrl d i w camp).afterWork
  else if row.reg = THRESHOLD then (s.writeThreshold d i w).afterWork
  else s.plainWrite row d i w

/-- REM (Table 7.12, R213). -/
def State.writeRem (s : State) (row : RegRow) (d i : Nat) (w : Word) : State :=
  let s1 := s.plainWrite row d i w
  if row.reg = TRACKER_STATUS then (if wbit w 63 then s.clearHw d else s)
  else if row.reg = REMOTE_FAIL ∧ wbit w 63 then s1.setF REMOTE_FAIL_COUNT d i 0
  else s1

/-- RDG (Table 8.14). -/
def State.writeRdg (s : State) (row : RegRow) (d i : Nat) (w : Word) : State :=
  if row.reg = PORT_CTRL then
    let p := 4 * d + i
    let s1 := if wbit w 1 then s.portClear p else s
    if wbit w 0 then s1.gateReset (.port p) (fun u => u.portReset p) else s1
  else s.plainWrite row d i w

/-- CRY (Table 19.12, R484): an install into the slot that is ACTIVE_TX refuses the whole write; staged words are kept for an
install. -/
def State.writeCry (s : State) (row : RegRow) (d i : Nat) (w : Word) : State :=
  let p := 4 * d + i
  if row.reg = KEY_CTRL then
    let slot := wfld w 6 6
    if wbit w 8 ∧ slot = s.portF KEY_CTRL_ACTIVE_TX p then s.setF CRYPT_BLK_STATUS_CFG_ERR d 0 1
    else
      let s1 := if wbit w 8 then s.installTx p slot else s
      let s2 := if wbit w 7 then s1.installRx p slot else s1
      (s2.setPortF KEY_CTRL_ACTIVE_TX p (wfld w 5 5)).tryRaise p
  else if row.rows.any fun f => f.acc == .wo then s.setReg row.reg d i w
  else s.plainWrite row d i w

/-- SB (Table 13.8). -/
def State.writeSb (s : State) (row : RegRow) (d i : Nat) (w : Word) : State :=
  let bank := s.getF SB_STATUS_ACTIVE_BANK d 0
  let live := s.sbState d == 1 || s.sbState d == 2
  if row.reg = SB_CMD then
    if (wbit w 63 && s.sbState d != 0) || (wbit w 61 && s.sbState d != 2 && s.sbState d != 3) then
      s.setF SB_BLK_STATUS_CMD_ERR d 0 1
    else
      let s1 := if wbit w 63 then s.sbStart d (wfld w 60 60) (wfld w 51 12) (wfld w 11 0) else s
      let s2 := if wbit w 62 then s1.sbStop d else s1
      if wbit w 61 then s2.sbContinue d else s2
  else if live ∧ ((row.reg = SB_BANK0 ∧ bank = 0) ∨ (row.reg = SB_BANK1 ∧ bank = 1)) then s.setF SB_BLK_STATUS_CFG_ERR d 0 1
  else s.plainWrite row d i w

/-- TRV (Table 14.10). -/
def State.writeTrv (s : State) (row : RegRow) (d i : Nat) (w : Word) : State :=
  if (row.reg = EXPERT_MAP ∨ row.reg = TRAV_RING) ∧ s.getF TRAV_TAIL_IN_PROGRESS d 0 ≠ 0 then
    s.setF TRAV_BLK_STATUS_CFG_ERR d 0 1
  else s.plainWrite row d i w

/-- Whether a ring of n 4 KiB units at a base lies wholly in the die's own stacks, in either view, or in one of its cluster scratches
(R360). -/
def ringPlaced (d base n : Nat) : Bool :=
  let a := base * 4096
  let e := a + n * 4096
  let inside (lo hi : Nat) : Bool := decide (lo ≤ a ∧ e ≤ hi)
  inside (3 * d * 0x1000000000) ((3 * d + 3) * 0x1000000000) ||
  inside (0x100000000000 + d * 0x3000000000) (0x100000000000 + (d + 1) * 0x3000000000) ||
  (List.range 8).any fun c => inside (clusterBase d c) (clusterBase d c + 0x1000000)

/-- Whether a write to Q_CFG or Q_SIZE is refused (R360, Table 13.10). -/
def State.queueRefused (s : State) (r : Reg) (d q : Nat) (w : Word) : Bool :=
  let size := if r = Q_SIZE then wfld w 20 0 else s.getF Q_SIZE_SIZE d q
  let base := if r = Q_CFG then wfld w 47 12 else s.getF Q_CFG_BASE d q
  (s.queue d q).occupied != 0 || ((s.reserveList d).any fun x => x.queue == q) || decide (size < 16) || decide (1048576 < size) ||
  !ringPlaced d base size

/-- CLR (Table 13.10, R360, R367, R370). -/
def State.writeClr (s : State) (row : RegRow) (d i : Nat) (w : Word) : State :=
  if row.reg = Q_CMD then (if wbit w 63 then s.dropRest d i else s)
  else if row.reg = Q_HIGH_WATER then (if wbit w 63 then s.queueClearHw d i else s)
  else if (row.reg = Q_CFG ∨ row.reg = Q_SIZE) ∧ s.queueRefused row.reg d i w then s.setF COULOIR_BLK_STATUS_CFG_ERR d 0 1
  else s.plainWrite row d i w

/-! ### One register -/

/-- A write that is neither locked nor sent to a die that does not run: the register's block performs it. -/
def State.writeRow (s : State) (row : RegRow) (d i : Nat) (w : Word) : State :=
  let b := row.reg.blk
  if row.reg = b.mode then s.writeMode b d w
  else if b.expert = some row.reg then s.writeExpert b row.reg d w
  else
    match b with
    | .glb => s.writeGlb row w
    | .mas => s.writeMas row w
    | .pool => s.writePool row i w
    | .pkg => s.writePkg row i w
    | .pwr => s.plainWrite row 0 i w
    | .sta => s.writeSta row w
    | .sec => s.plainWrite row 0 i w
    | .st => s.writeSt row i w
    | .err => s.writeErr row i w
    | .red => s.writeRed row i w
    | .upd => s.writeUpd row i w
    | .cor => s.writeCor row i w
    | .host => s.writeHost row i w
    | .core => s.writeCore row d i w
    | .flag => s.plainWrite row d i w
    | .tal => s.writeTal row d i w
    | .vec => s.writeVec row d i w
    | .con => s.writeCon row d i w false
    | .rem => s.writeRem row d i w
    | .rdg => s.writeRdg row d i w
    | .cry => s.writeCry row d i w
    | .sb => s.writeSb row d i w
    | .trv => s.writeTrv row d i w
    | .clr => s.writeClr row d i w

/-- An access error with the first offset recorded (R503, R506, R512). -/
def State.accessError (s : State) (f : Fld) (offset : Nat) : State :=
  let s1 := s.setF f 0 0 1
  if s1.flag GLOBAL_STATUS_FIRST_VALID 0 0 then s1
  else (s1.setF GLOBAL_STATUS_FIRST_VALID 0 0 1).setF GLOBAL_STATUS_FIRST_OFFSET 0 0 offset

/-- Whether SETUP_LOCK refuses a write to a register (R512). -/
def State.setupLocked (s : State) (r : Reg) : Bool :=
  s.flag GLOBAL_CTRL_SETUP_LOCK 0 0 && (r == r.blk.mode || r.blk.expert == some r)

/-- Whether the die that holds an offset takes accesses: the lower half belongs to the Camp die (R502, R506). -/
def State.regionLive (s : State) (offset : Nat) : Bool := decide (offset < 0x80000) || s.dieRunning (dieOfOffset offset)

/-- An 8-byte write to a BAR0 offset outside the windows with layouts of their own (R503, R505, R506, R512). -/
def State.writeReg (s : State) (offset : Nat) (w : Word) : Host.Outcome State Fault Refusal :=
  if !s.regionLive offset then .next (s.accessError GLOBAL_STATUS_DIE_ACCESS_ERR offset)
  else
    match findReg offset with
    | none => .next (s.accessError GLOBAL_STATUS_ACCESS_ERR offset)
    | some (row, d, i) =>
      if s.setupLocked row.reg then .next (s.accessError GLOBAL_STATUS_LOCK_ERR offset)
      else if !rsvClean row.rows w then .fault .reservedFieldWritten
      else .next (s.writeRow row d i w)

/-! ### The broadcast window (R508) -/

/-- Write offset x of every die region: each RUNNING die in ascending order; the others set DIE_ACCESS_ERR. -/
def State.broadcast (s : State) (x : Nat) (w : Word) : Host.Outcome State Fault Refusal :=
  match findReg (0x80000 + x) with
  | none => .next (s.accessError GLOBAL_STATUS_ACCESS_ERR (0x60000 + x))
  | some (row, _, i) =>
    if s.setupLocked row.reg then .next (s.accessError GLOBAL_STATUS_LOCK_ERR (0x60000 + x))
    else if !rsvClean row.rows w && (List.range 4).any s.dieRunning then .fault .reservedFieldWritten
    else
      .next ((List.range 4).foldl (fun (u : State) (d : Nat) =>
        if u.dieRunning d then u.writeRow row d i w else u.accessError GLOBAL_STATUS_DIE_ACCESS_ERR (0x60000 + x)) s)

/-! ### The MSI-X table (R504, R513) -/

/-- One 4-byte word of the MSI-X table: unmasking a vector whose message is pending sends it. -/
def State.writeMsixWord (s : State) (k x : Nat) : State :=
  let s1 : State := (s.setHost fun r => { r with msix := kset (if k % 4 = 3 then 1 else 0) r.msix k x })
  if k % 4 = 3 ∧ x.testBit 0 = false ∧ kget false s.host.pending (k / 4) then
    State.sendMsix (s1.setHost fun r => { r with pending := kset false r.pending (k / 4) false }) (k / 4)
  else s1

/-- A write of 4 or 8 aligned bytes to the MSI-X table. -/
def State.writeMsix (s : State) (o size : Nat) (w : Word) : State :=
  let k := (o - 0x28000) / 4
  let s1 := s.writeMsixWord k (wfld w 31 0)
  if size = 8 then s1.writeMsixWord (k + 1) (wfld w 63 32) else s1

end Sys2Proof.Machine
end

