-- ==== Sys2Proof/Machine/Setup.lean ====
section
/-!
DEFINITION. The set-up space commands (R502 to R513): a register write, a MODE write, a broadcast write, and the set-up lock.
-/
namespace Sys2Proof.Machine

open Sys2Proof

/-- REGISTER_WRITE: the host writes `size` bytes at a BAR0 offset (R502 to R508, R512, R513). Offsets of the broadcast window and of
registers that have a row of their own act as those rows do. -/
def execRegisterWrite (offset : Fin 0x100000) (size : Fin 65) (value : Word) (s : State) : Host.Outcome State Fault Refusal :=
  let o := offset.val
  let n := size.val
  if s.power.inReset then .next s
  else if 0x40000 ≤ o ∧ o < 0x50000 then .refused .cxlComponentRegister
  else if 0x28000 ≤ o ∧ o < 0x28400 ∧ (n = 4 ∨ n = 8) ∧ o % n = 0 then .next (s.writeMsix o n value)
  else if 0x28800 ≤ o ∧ o < 0x28808 ∧ (n = 4 ∨ n = 8) ∧ o % n = 0 then .next s
  else if n ≠ 8 ∨ o % 8 ≠ 0 then .next (s.accessError GLOBAL_STATUS_ACCESS_ERR o)
  else if 0x60000 ≤ o ∧ o < 0x80000 then s.broadcast (o - 0x60000) value
  else s.writeReg o value

/-- MODE_WRITE: PRESET and EXPERT of a block (R510). `die` names the die of a die block. -/
def execModeWrite (block : Blk) (die : Fin 4) (expert : Bool) (preset : Fin 256) (s : State) : Host.Outcome State Fault Refusal :=
  let d := if block.mode.perDie then die.val else 0
  let o := block.mode.addr d 0
  if s.power.inReset then .next s
  else if !s.regionLive o then .next (s.accessError GLOBAL_STATUS_DIE_ACCESS_ERR o)
  else if s.setupLocked block.mode then .next (s.accessError GLOBAL_STATUS_LOCK_ERR o)
  else .next (s.writeMode block d (BitVec.ofNat 64 (b2n expert * 65536 + preset.val)))

/-- BROADCAST_WRITE: an 8-byte write to the die broadcast window (R508). -/
def execBroadcastWrite (offset : Fin 0x4000) (value : Word) (s : State) : Host.Outcome State Fault Refusal :=
  if s.power.inReset then .next s else s.broadcast (offset.val * 8) value

/-- SETUP_LOCK: a write of 1 to SETUP_LOCK (R512). -/
def execSetupLock (s : State) : Host.Outcome State Fault Refusal :=
  if s.power.inReset then .next s else .next (s.setF GLOBAL_CTRL_SETUP_LOCK 0 0 1)

end Sys2Proof.Machine
end

