-- ==== Sys2Proof/Machine/Spur.lean ====
section
/-!
DEFINITION. Loads, stores and CSR writes of a Spur core (R38 to R40, R206, R213, R361, R494, R507, Table 3.6). The instructions of
RV64IMAC themselves have no row.
-/
namespace Sys2Proof.Machine

open Sys2Proof

/-- A load of n bytes through a window (R361, R507). -/
def State.spurWindowLoad (s : State) (d g rd a n : Nat) (sign : Bool) (o : Nat) : State :=
  let v := (s.readReg o).toNat / 2 ^ (8 * (a % 8))
  if !s.dieRunning (dieOfOffset o) then s.spurTrap d g 5 else s.updCore d g fun c => c.setX rd (spurExtend n sign (v % 2 ^ (8 * n)))

/-- Whether a value may be stored in a register that a window shows: its RSV fields must be 0 (R12). -/
def windowClean (o : Nat) (v : Word) : Bool :=
  match findReg o with
  | none => true
  | some (row, _, _) => rsvClean row.rows v

/-- A store of 8 bytes through a window (R361, R507). -/
def State.spurWindowStore (s : State) (o : Nat) (v : Word) : State :=
  match findReg o with
  | none => s
  | some (row, dw, i) => if s.dieRunning dw then s.writeRow row dw i v else s

/-- A Spur load or store (R31, R38 to R40, R206, R361, R507). Behind a path change it stalls the Spur core. -/
def State.spurAccess (s : State) (d g : Nat) (store : Bool) (n : Nat) (sign : Bool) (rd a : Nat) (v : Word) : State :=
  match spurPlace a n store with
  | .nothing => if store then s.addressFault d g a else (s.addressFault d g a).spurTrap d g 5
  | .window o =>
    if s.pairWaits d a then s.updCore d g fun c => { c with stall := some (.access store n sign rd a v) }
    else
      let t := s.updCore d g fun c => { c with stall := none }
      if store then t.spurWindowStore o v else t.spurWindowLoad d g rd a n sign o
  | .memory => s.spurMemory d g store n sign rd a v

/-- SPUR_LOAD_STORE: a Spur core reads or writes 2^size bytes at a package address. One that its controller, a tile-instruction boundary or
a path change holds stalls the core and goes on in its turn (Table 6.3, R31, R38, R392). -/
def execSpurLoadStore (d : Fin 4) (g : Fin 96) (store : Bool) (size : Fin 4) (sign : Bool) (rd : Fin 32) (addr : BitVec 48)
    (value : Word) (s : State) : Host.Outcome State Fault Refusal :=
  let a := addr.toNat
  let n := 2 ^ size.val
  if !s.spurReady d g then .next s
  else if (match spurPlace a n store with | .window o => store && s.dieRunning (dieOfOffset o) && !windowClean o value | _ => false) then
    .fault .reservedFieldWritten
  else .next (s.spurAccess d g store n sign rd a value).afterWork

/-- A Spur core that stalls on a window behind a path change goes on once that has passed (R31). -/
def State.resumeSpur (s : State) (d g : Nat) : State :=
  match (s.coreOf d g).stall with
  | some (.access store n sign rd a v) =>
    match spurPlace a n store with
    | .window _ => if s.coreLive d g then s.spurAccess d g store n sign rd a v else s
    | _ => s
  | _ => s

/-- SPUR_CSR_WRITE: a value is written to custom CSR 0x7C0 + csr (Table 3.6, R213). -/
def execSpurCsrWrite (d : Fin 4) (g : Fin 96) (csr : Fin 4) (value : Word) (s : State) : Host.Outcome State Fault Refusal :=
  let v := value.toNat
  if !s.spurReady d g then .next s
  else
    match csr.val with
    | 0 =>
      if v < 2 ^ 40 then .next (s.updCore d g fun c => { c with srstep := v }) else .fault .reservedFieldWritten
    | 1 =>
      if v < 2 ^ 32 then .next (s.updCore d g fun c => { c with srblock := v }) else .fault .reservedFieldWritten
    | 2 =>
      if v < 2 ^ 10 then .next (s.setF CORE_FLAGS_VEC d g (s.getF CORE_FLAGS_VEC d g &&& (31 - bits v 9 5)) |>.setF CORE_FLAGS_ARR d g
        (s.getF CORE_FLAGS_ARR d g &&& (31 - bits v 4 0)))
      else .fault .reservedFieldWritten
    | _ =>
      if bits v 62 56 ≠ 0 ∨ bits v 41 32 ≠ 0 then .fault .reservedFieldWritten
      else if v.testBit 63 then .next ((s.setF REMOTE_FAIL_VALID d g 0).setF REMOTE_FAIL_COUNT d g 0)
      else .next s

end Sys2Proof.Machine
end

