-- ==== Sys2Proof/Machine/Traverse.lean ====
section
/-!
DEFINITION. Meanings of the commands of the traverse engines (chapter 14).
-/
namespace Sys2Proof.Machine

open Sys2Proof

/-- TRAV_HEAD_WRITE: software advances TRAV_HEAD (R374). -/
def execTravHeadWrite (d : Fin 4) (head : Fin 256) (s : State) : Host.Outcome State Fault Refusal :=
  if s.dieRunning d then .next (s.setF TRAV_HEAD_HEAD d 0 head) else .next s

/-- Whether the engine of die d may start work. -/
def State.travLive (s : State) (d : Nat) : Bool := s.dieRunning d && s.awake

/-- DISPATCH: the descriptor at the head of the ring, a DISPATCH, starts where it can (R374 to R379). -/
def execDispatch (d : Fin 4) (s : State) : Host.Outcome State Fault Refusal :=
  if s.travLive d then .next (s.travStart d 1).afterWork else .next s

/-- COMBINE: the descriptor at the head of the ring, a COMBINE, starts where it can (R374, R375, R381). -/
def execCombine (d : Fin 4) (s : State) : Host.Outcome State Fault Refusal :=
  if s.travLive d then .next (s.travStart d 2).afterWork else .next s

/-- RETURN: the engine reads the oldest visible packet of a return queue (R382). -/
def execReturnRows (d : Fin 4) (q : Fin 64) (s : State) : Host.Outcome State Fault Refusal :=
  if s.travLive d then .next (s.travReturn d q) else .next s

/-- RETURN_TIMEOUT: RETURN_US passes after a DISPATCH completes, and its batch's returns are complete (R383). -/
def execReturnTimeout (d : Fin 4) (batch : Fin 65536) (s : State) : Host.Outcome State Fault Refusal :=
  match (s.traverse d).batch batch with
  | none => .next s
  | some b =>
    match b.completed with
    | none => .next s
    | some t =>
      let u := s.timeTo (t + max 1 (TRAV_EXPERT_RETURN_US.get b.desc.expert) * 1000)
      let v := u.traverse d
      .next (u.setTraverse d { v with batches := v.batches.map fun y => if y.desc.batch = batch.val then { y with expired := true } else y })

/-- COMBINE_COMPUTE: a COMBINE whose batch's returns are complete sums every token's rows and writes its status record; one
whose batch another COMBINE closed completes NO_RESOURCE (R375, R384, R385). -/
def execCombineCompute (d : Fin 4) (batch : Fin 65536) (s : State) : Host.Outcome State Fault Refusal :=
  let v := s.traverse d
  match v.combines.find? fun x => x.batch == batch.val with
  | none => .next s
  | some x =>
    if !s.dieRunning d then .next s
    else
      match v.batch batch with
      | none => .next ((s.setTraverse d { v with combines := v.combines.erase x }).travRefuse d x stNORES).afterWork
      | some b => if b.complete && !s.extentsHeld d (b.combineExtents x) then .next (s.combine d x b).afterWork else .next s

end Sys2Proof.Machine
end

