-- ==== Sys2Proof/Machine/Dispatch.lean ====
section
/-!
DEFINITION. The dispatch of a command to its meaning, one arm for each constructor.
-/
namespace Sys2Proof.Machine

open Sys2Proof

/-- The effect of one command on everything but the queue. -/
def exec (i : Instr) (s : State) : Host.Outcome State Fault Refusal :=
  match i with
  | .registerWrite offset size value => Sys2Proof.Machine.execRegisterWrite offset size value s
  | .modeWrite block die expert preset => Sys2Proof.Machine.execModeWrite block die expert preset s
  | .broadcastWrite offset value => Sys2Proof.Machine.execBroadcastWrite offset value s
  | .setupLock => Sys2Proof.Machine.execSetupLock s
  | .pathHoldRelease a b => Sys2Proof.Machine.execPathHoldRelease a b s
  | .calibrationSave kind inst => Sys2Proof.Machine.execCalibrationSave kind inst s
  | .calibrationRestore kind inst image => Sys2Proof.Machine.execCalibrationRestore kind inst image s
  | .tqPush d g insn w => Sys2Proof.Machine.execTqPush d g insn w s
  | .tqSeta d g insn v => Sys2Proof.Machine.execTqSeta d g insn v s
  | .tqStat d g insn => Sys2Proof.Machine.execTqStat d g insn s
  | .tqEcrd d g insn => Sys2Proof.Machine.execTqEcrd d g insn s
  | .tqClear d g insn => Sys2Proof.Machine.execTqClear d g insn s
  | .ldTile d g => Sys2Proof.Machine.execLdTile d g s
  | .stTile d g => Sys2Proof.Machine.execStTile d g s
  | .mma d g errs => Sys2Proof.Machine.execMma d g errs s
  | .mmaConv d g errs => Sys2Proof.Machine.execMmaConv d g errs s
  | .mmaPair3 d g errs => Sys2Proof.Machine.execMmaPair3 d g errs s
  | .accRd d g errs => Sys2Proof.Machine.execAccRd d g errs s
  | .accWr d g => Sys2Proof.Machine.execAccWr d g s
  | .tileAdd d g errs => Sys2Proof.Machine.execTileAdd d g errs s
  | .permute d g => Sys2Proof.Machine.execPermute d g s
  | .move d g => Sys2Proof.Machine.execMove d g s
  | .put d g => Sys2Proof.Machine.execPut d g s
  | .get d g => Sys2Proof.Machine.execGet d g s
  | .atomic d g => Sys2Proof.Machine.execAtomic d g s
  | .localMoveComplete d g n => Sys2Proof.Machine.execLocalMoveComplete d g n s
  | .wait d g => Sys2Proof.Machine.execWait d g s
  | .waitSatisfied d g => Sys2Proof.Machine.execWaitSatisfied d g s
  | .signal d g => Sys2Proof.Machine.execSignal d g s
  | .signalAfterIdle d g => Sys2Proof.Machine.execSignalAfterIdle d g s
  | .coreRun d g run => Sys2Proof.Machine.execCoreRun d g run s
  | .coreReset d core => Sys2Proof.Machine.execCoreReset d core s
  | .vecRun d g => Sys2Proof.Machine.execVecRun d g s
  | .vecRunBegin d g => Sys2Proof.Machine.execVecRunBegin d g s
  | .vecRunComplete d g => Sys2Proof.Machine.execVecRunComplete d g s
  | .vadd d g => Sys2Proof.Machine.execVadd d g s
  | .vsub d g => Sys2Proof.Machine.execVsub d g s
  | .vmul d g => Sys2Proof.Machine.execVmul d g s
  | .vfma d g => Sys2Proof.Machine.execVfma d g s
  | .vfnma d g => Sys2Proof.Machine.execVfnma d g s
  | .vmin d g => Sys2Proof.Machine.execVmin d g s
  | .vmax d g => Sys2Proof.Machine.execVmax d g s
  | .vabs d g => Sys2Proof.Machine.execVabs d g s
  | .vneg d g => Sys2Proof.Machine.execVneg d g s
  | .vrcp d g => Sys2Proof.Machine.execVrcp d g s
  | .vrsqrt d g => Sys2Proof.Machine.execVrsqrt d g s
  | .vexp2 d g => Sys2Proof.Machine.execVexp2 d g s
  | .vlog2 d g => Sys2Proof.Machine.execVlog2 d g s
  | .vand d g => Sys2Proof.Machine.execVand d g s
  | .vor d g => Sys2Proof.Machine.execVor d g s
  | .vxor d g => Sys2Proof.Machine.execVxor d g s
  | .vshl d g => Sys2Proof.Machine.execVshl d g s
  | .vshr d g => Sys2Proof.Machine.execVshr d g s
  | .vcmp d g => Sys2Proof.Machine.execVcmp d g s
  | .vsel d g => Sys2Proof.Machine.execVsel d g s
  | .plog d g => Sys2Proof.Machine.execPlog d g s
  | .pack d g => Sys2Proof.Machine.execPack d g s
  | .unpack d g => Sys2Proof.Machine.execUnpack d g s
  | .mxpack d g => Sys2Proof.Machine.execMxpack d g s
  | .mxunpack d g => Sys2Proof.Machine.execMxunpack d g s
  | .m8enc d g => Sys2Proof.Machine.execM8enc d g s
  | .m8dec d g => Sys2Proof.Machine.execM8dec d g s
  | .vperm d g => Sys2Proof.Machine.execVperm d g s
  | .vshuf d g => Sys2Proof.Machine.execVshuf d g s
  | .vred d g => Sys2Proof.Machine.execVred d g s
  | .viota d g => Sys2Proof.Machine.execViota d g s
  | .viter d g => Sys2Proof.Machine.execViter d g s
  | .vmovh d g => Sys2Proof.Machine.execVmovh d g s
  | .vmovl d g => Sys2Proof.Machine.execVmovl d g s
  | .ld d g => Sys2Proof.Machine.execLd d g s
  | .st d g => Sys2Proof.Machine.execSt d g s
  | .sum d g => Sys2Proof.Machine.execSum d g s
  | .vsRd d g insn => Sys2Proof.Machine.execVsRd d g insn s
  | .vsRdw d g insn => Sys2Proof.Machine.execVsRdw d g insn s
  | .vsRdwReturn d g => Sys2Proof.Machine.execVsRdwReturn d g s
  | .talusRead t granule errs => Sys2Proof.Machine.execTalusRead t granule errs s
  | .talusWrite t granule first data poison errs => Sys2Proof.Machine.execTalusWrite t granule first data poison errs s
  | .retire t => Sys2Proof.Machine.execRetire t s
  | .clearCounts t => Sys2Proof.Machine.execClearCounts t s
  | .scrubRead t errs => Sys2Proof.Machine.execScrubRead t errs s
  | .stackTempUpdate t temp => Sys2Proof.Machine.execStackTempUpdate t temp s
  | .stackTrainingComplete t pass wires => Sys2Proof.Machine.execStackTrainingComplete t pass wires s
  | .pooledAccess d id => Sys2Proof.Machine.execPooledAccess d id s
  | .uioCompletion d id result data marks => Sys2Proof.Machine.execUioCompletion d id result data marks s
  | .uioTimeout d id => Sys2Proof.Machine.execUioTimeout d id s
  | .expanderRemoved n => Sys2Proof.Machine.execExpanderRemoved n s
  | .rangeStateWrite n v => Sys2Proof.Machine.execRangeStateWrite n v s
  | .trackerGrant d => Sys2Proof.Machine.execTrackerGrant d s
  | .fenceRelease d id => Sys2Proof.Machine.execFenceRelease d id s
  | .putArrive g => Sys2Proof.Machine.execPutArrive g s
  | .getArrive g => Sys2Proof.Machine.execGetArrive g s
  | .atomicArrive g => Sys2Proof.Machine.execAtomicArrive g s
  | .notify g => Sys2Proof.Machine.execNotify g s
  | .remoteResponse d id step seg64 status refused data marks => Sys2Proof.Machine.execRemoteResponse d id step seg64 status refused data marks s
  | .remoteTimeout d id => Sys2Proof.Machine.execRemoteTimeout d id s
  | .clearHw d => Sys2Proof.Machine.execClearHw d s
  | .portTrained p lanes margins => Sys2Proof.Machine.execPortTrained p lanes margins s
  | .ridgeFlit p raw fec uncorrectable => Sys2Proof.Machine.execRidgeFlit p raw fec uncorrectable s
  | .nak p seq => Sys2Proof.Machine.execNak p seq s
  | .laneLockLoss p _lane => Sys2Proof.Machine.execLaneLockLoss p _lane s
  | .retrainDone p lanes margins => Sys2Proof.Machine.execRetrainDone p lanes margins s
  | .retrainTimeout p => Sys2Proof.Machine.execRetrainTimeout p s
  | .portReset p => Sys2Proof.Machine.execPortReset p s
  | .portClearCounts p => Sys2Proof.Machine.execPortClearCounts p s
  | .flowReturn p => Sys2Proof.Machine.execFlowReturn p s
  | .packetForward d from_ k => Sys2Proof.Machine.execPacketForward d from_ k s
  | .trailhead p body delay => Sys2Proof.Machine.execTrailhead p body delay s
  | .linkReportReceive device dir dead => Sys2Proof.Machine.execLinkReportReceive device dir dead s
  | .linkMap term gen admitted dead => Sys2Proof.Machine.execLinkMap term gen admitted dead s
  | .trailSignSwitch d dst => Sys2Proof.Machine.execTrailSignSwitch d dst s
  | .broadcastForward from_ skip left op fields delay => Sys2Proof.Machine.execBroadcastForward from_ skip left op fields delay s
  | .trailheadWaitExpiry => Sys2Proof.Machine.execTrailheadWaitExpiry s
  | .electTick => Sys2Proof.Machine.execElectTick s
  | .elect device serial term => Sys2Proof.Machine.execElect device serial term s
  | .electQuietExpiry => Sys2Proof.Machine.execElectQuietExpiry s
  | .join device dims term version evidence => Sys2Proof.Machine.execJoin device dims term version evidence s
  | .admitReply cause => Sys2Proof.Machine.execAdmitReply cause s
  | .joinRetry => Sys2Proof.Machine.execJoinRetry s
  | .heartbeatTick => Sys2Proof.Machine.execHeartbeatTick s
  | .heartbeat term summit standby version gen => Sys2Proof.Machine.execHeartbeat term summit standby version gen s
  | .standbyTakeover => Sys2Proof.Machine.execStandbyTakeover s
  | .memberSilenceTimeout => Sys2Proof.Machine.execMemberSilenceTimeout s
  | .present device => Sys2Proof.Machine.execPresent device s
  | .memberTimeout device => Sys2Proof.Machine.execMemberTimeout device s
  | .membership term version summit standby ms => Sys2Proof.Machine.execMembership term version summit standby ms s
  | .sync device => Sys2Proof.Machine.execSync device s
  | .leave device => Sys2Proof.Machine.execLeave device s
  | .partitionReceive assign => Sys2Proof.Machine.execPartitionReceive assign s
  | .contour job term delay value sendAt => Sys2Proof.Machine.execContour job term delay value sendAt s
  | .deadlineFire d e => Sys2Proof.Machine.execDeadlineFire d e s
  | .localPosWrite d v => Sys2Proof.Machine.execLocalPosWrite d v s
  | .contourReport => Sys2Proof.Machine.execContourReport s
  | .contourReportReceive device job position lastSeen => Sys2Proof.Machine.execContourReportReceive device job position lastSeen s
  | .idleContourTick => Sys2Proof.Machine.execIdleContourTick s
  | .contourRepeatTick => Sys2Proof.Machine.execContourRepeatTick s
  | .takeoverPublish => Sys2Proof.Machine.execTakeoverPublish s
  | .ftimeValidExpiry => Sys2Proof.Machine.execFtimeValidExpiry s
  | .eventCtrlWrite d e r w camp => Sys2Proof.Machine.execEventCtrlWrite d e r w camp s
  | .chainRead n => Sys2Proof.Machine.execChainRead n s
  | .prefetchComplete d => Sys2Proof.Machine.execPrefetchComplete d s
  | .stepReady d step => Sys2Proof.Machine.execStepReady d step s
  | .bucketAdmit b d => Sys2Proof.Machine.execBucketAdmit b d s
  | .quarantineScanDone b => Sys2Proof.Machine.execQuarantineScanDone b s
  | .start epoch g => Sys2Proof.Machine.execStart epoch g s
  | .go epoch g => Sys2Proof.Machine.execGo epoch g s
  | .partialBlocks epoch g => Sys2Proof.Machine.execPartialBlocks epoch g s
  | .blockAdd b sh => Sys2Proof.Machine.execBlockAdd b sh s
  | .result epoch g => Sys2Proof.Machine.execResult epoch g s
  | .absent epoch g => Sys2Proof.Machine.execAbsent epoch g s
  | .resend epoch g => Sys2Proof.Machine.execResend epoch g s
  | .ownReq epoch g => Sys2Proof.Machine.execOwnReq epoch g s
  | .own epoch g => Sys2Proof.Machine.execOwn epoch g s
  | .bypassed epoch g => Sys2Proof.Machine.execBypassed epoch g s
  | .fetchReq epoch g => Sys2Proof.Machine.execFetchReq epoch g s
  | .resultFp32 epoch g => Sys2Proof.Machine.execResultFp32 epoch g s
  | .shardDeadline b sh => Sys2Proof.Machine.execShardDeadline b sh s
  | .partialStall b sh p => Sys2Proof.Machine.execPartialStall b sh p s
  | .startCmd b => Sys2Proof.Machine.execStartCmd b s
  | .stateFetchLand d j => Sys2Proof.Machine.execStateFetchLand d j s
  | .blockRun d j bucket => Sys2Proof.Machine.execBlockRun d j bucket s
  | .snap d j k => Sys2Proof.Machine.execSnap d j k s
  | .moments d j k => Sys2Proof.Machine.execMoments d j k s
  | .weights d j k => Sys2Proof.Machine.execWeights d j k s
  | .tag d j k => Sys2Proof.Machine.execTag d j k s
  | .blockDone d j k => Sys2Proof.Machine.execBlockDone d j k s
  | .recover => Sys2Proof.Machine.execRecover s
  | .exportStart id outer status => Sys2Proof.Machine.execExportStart id outer status s
  | .exportDone id => Sys2Proof.Machine.execExportDone id s
  | .stepState device job step try_ state fenced status halted => Sys2Proof.Machine.execStepState device job step try_ state fenced status halted s
  | .rejoinHoldExpiry job device die => Sys2Proof.Machine.execRejoinHoldExpiry job device die s
  | .collapse job step try_ cause halt epoch => Sys2Proof.Machine.execCollapse job step try_ cause halt epoch s
  | .collapseResendTick job => Sys2Proof.Machine.execCollapseResendTick job s
  | .collapseDrainDone d => Sys2Proof.Machine.execCollapseDrainDone d s
  | .collapseRestoreDone d => Sys2Proof.Machine.execCollapseRestoreDone d s
  | .resume job step try_ sendAt => Sys2Proof.Machine.execResume job step try_ sendAt s
  | .reduceControlResend => Sys2Proof.Machine.execReduceControlResend s
  | .reshardReq job mode => Sys2Proof.Machine.execReshardReq job mode s
  | .reshard job mode effective epoch => Sys2Proof.Machine.execReshard job mode effective epoch s
  | .reshardCmd mode => Sys2Proof.Machine.execReshardCmd mode s
  | .resumeCmd => Sys2Proof.Machine.execResumeCmd s
  | .clearStale dies => Sys2Proof.Machine.execClearStale dies s
  | .sbStart d bank step entry => Sys2Proof.Machine.execSbStart d bank step entry s
  | .sbStop d => Sys2Proof.Machine.execSbStop d s
  | .sbContinue d => Sys2Proof.Machine.execSbContinue d s
  | .sbEntryRead d => Sys2Proof.Machine.execSbEntryRead d s
  | .sbDispatch d => Sys2Proof.Machine.execSbDispatch d s
  | .hintComplete d => Sys2Proof.Machine.execHintComplete d s
  | .sbStepEnd d => Sys2Proof.Machine.execSbStepEnd d s
  | .sbBankSwitch d => Sys2Proof.Machine.execSbBankSwitch d s
  | .sbCollapseSettle d => Sys2Proof.Machine.execSbCollapseSettle d s
  | .enqueueReservation g => Sys2Proof.Machine.execEnqueueReservation g s
  | .reservationGrant d q => Sys2Proof.Machine.execReservationGrant d q s
  | .reservationResend d id => Sys2Proof.Machine.execReservationResend d id s
  | .enqueueSegment g => Sys2Proof.Machine.execEnqueueSegment g s
  | .commitTimeout d q => Sys2Proof.Machine.execCommitTimeout d q s
  | .queueRead d q => Sys2Proof.Machine.execQueueRead d q s
  | .dropRest d q => Sys2Proof.Machine.execDropRest d q s
  | .queueClearHw d q => Sys2Proof.Machine.execQueueClearHw d q s
  | .travHeadWrite d head => Sys2Proof.Machine.execTravHeadWrite d head s
  | .dispatch d => Sys2Proof.Machine.execDispatch d s
  | .combine d => Sys2Proof.Machine.execCombine d s
  | .returnRows d q => Sys2Proof.Machine.execReturnRows d q s
  | .returnTimeout d batch => Sys2Proof.Machine.execReturnTimeout d batch s
  | .combineCompute d batch => Sys2Proof.Machine.execCombineCompute d batch s
  | .hostEnumerate hdm => Sys2Proof.Machine.execHostEnumerate hdm s
  | .unbindNotice msg => Sys2Proof.Machine.execUnbindNotice msg s
  | .cxlLinkDown => Sys2Proof.Machine.execCxlLinkDown s
  | .attach => Sys2Proof.Machine.execAttach s
  | .detach => Sys2Proof.Machine.execDetach s
  | .ringCfgWrite r sqEn cqEn sqLog cqLog vector modUs modCount => Sys2Proof.Machine.execRingCfgWrite r sqEn cqEn sqLog cqLog vector modUs modCount s
  | .doorbellInvalidate r line => Sys2Proof.Machine.execDoorbellInvalidate r line s
  | .doorbellPoll r line => Sys2Proof.Machine.execDoorbellPoll r line s
  | .ringFetch data => Sys2Proof.Machine.execRingFetch data s
  | .nopDesc handle => Sys2Proof.Machine.execNopDesc handle s
  | .copy handle => Sys2Proof.Machine.execCopy handle s
  | .descAtomic handle => Sys2Proof.Machine.execDescAtomic handle s
  | .launch handle => Sys2Proof.Machine.execLaunch handle s
  | .position handle => Sys2Proof.Machine.execPosition handle s
  | .descStepReady handle => Sys2Proof.Machine.execDescStepReady handle s
  | .update handle => Sys2Proof.Machine.execUpdate handle s
  | .exportDesc handle => Sys2Proof.Machine.execExportDesc handle s
  | .orderRelease handle => Sys2Proof.Machine.execOrderRelease handle s
  | .completionPost => Sys2Proof.Machine.execCompletionPost s
  | .spillDrain r => Sys2Proof.Machine.execSpillDrain r s
  | .spillLoss => Sys2Proof.Machine.execSpillLoss s
  | .msiModTimeout r => Sys2Proof.Machine.execMsiModTimeout r s
  | .hdmAccess line kind data pois => Sys2Proof.Machine.execHdmAccess line kind data pois s
  | .bisnpComplete line data pois => Sys2Proof.Machine.execBisnpComplete line data pois s
  | .ideKm kind stream key => Sys2Proof.Machine.execIdeKm kind stream key s
  | .functionReset => Sys2Proof.Machine.execFunctionReset s
  | .handleClearHw => Sys2Proof.Machine.execHandleClearHw s
  | .saddleFlit l e width sel data errs dst => Sys2Proof.Machine.execSaddleFlit l e width sel data errs dst s
  | .saddleTrainingDone l failed => Sys2Proof.Machine.execSaddleTrainingDone l failed s
  | .colFlit d up offered flips => Sys2Proof.Machine.execColFlit d up offered flips s
  | .colRetrainTimeout d => Sys2Proof.Machine.execColRetrainTimeout d s
  | .clockLoss d => Sys2Proof.Machine.execClockLoss d s
  | .dieReset dies => Sys2Proof.Machine.execDieReset dies s
  | .rejoin dies => Sys2Proof.Machine.execRejoin dies s
  | .clockStableExpiry d => Sys2Proof.Machine.execClockStableExpiry d s
  | .dieStartupDone d => Sys2Proof.Machine.execDieStartupDone d s
  | .dieRestoreComplete d refused => Sys2Proof.Machine.execDieRestoreComplete d refused s
  | .fatalDie d => Sys2Proof.Machine.execFatalDie d s
  | .mctpControl other code => Sys2Proof.Machine.execMctpControl other code s
  | .pldmMonitor => Sys2Proof.Machine.execPldmMonitor s
  | .pldmFirmwareUpdate manifest complete ok campSvn crestSvn campDigest crestDigest campBuild records => Sys2Proof.Machine.execPldmFirmwareUpdate manifest complete ok campSvn crestSvn campDigest crestDigest campBuild records s
  | .inputSample mv => Sys2Proof.Machine.execInputSample mv s
  | .holdExpiry => Sys2Proof.Machine.execHoldExpiry s
  | .rampExpiry => Sys2Proof.Machine.execRampExpiry s
  | .converter k => Sys2Proof.Machine.execConverter k s
  | .stage2Fault unit => Sys2Proof.Machine.execStage2Fault unit s
  | .telemetryTick watts amps => Sys2Proof.Machine.execTelemetryTick watts amps s
  | .sensorRead temps => Sys2Proof.Machine.execSensorRead temps s
  | .pacingRelease d => Sys2Proof.Machine.execPacingRelease d s
  | .thermalForced => Sys2Proof.Machine.execThermalForced s
  | .thermalForceClear => Sys2Proof.Machine.execThermalForceClear s
  | .clusterResume d c => Sys2Proof.Machine.execClusterResume d c s
  | .powerOnReset b => Sys2Proof.Machine.execPowerOnReset b s
  | .perstAssert => Sys2Proof.Machine.execPerstAssert s
  | .perstRelease b => Sys2Proof.Machine.execPerstRelease b s
  | .cxlConventionalReset b => Sys2Proof.Machine.execCxlConventionalReset b s
  | .sysRefclkLoss => Sys2Proof.Machine.execSysRefclkLoss s
  | .rdgRefclkLoss => Sys2Proof.Machine.execRdgRefclkLoss s
  | .cxlRefclkLoss => Sys2Proof.Machine.execCxlRefclkLoss s
  | .bivouac => Sys2Proof.Machine.execBivouac s
  | .bivouacEntryDone => Sys2Proof.Machine.execBivouacEntryDone s
  | .wake => Sys2Proof.Machine.execWake s
  | .bivouacExitDone refused => Sys2Proof.Machine.execBivouacExitDone refused s
  | .refuge => Sys2Proof.Machine.execRefuge s
  | .refugeEntryDone => Sys2Proof.Machine.execRefugeEntryDone s
  | .refugeResumeDone refused shells => Sys2Proof.Machine.execRefugeResumeDone refused shells s
  | .signRequest => Sys2Proof.Machine.execSignRequest s
  | .indexReserved => Sys2Proof.Machine.execIndexReserved s
  | .treeBuildDone => Sys2Proof.Machine.execTreeBuildDone s
  | .operatorKeySet enrolLow msg => Sys2Proof.Machine.execOperatorKeySet enrolLow msg s
  | .policySet msg => Sys2Proof.Machine.execPolicySet msg s
  | .massifPlanSet msg => Sys2Proof.Machine.execMassifPlanSet msg s
  | .partition msg => Sys2Proof.Machine.execPartition msg s
  | .packageReset msg b => Sys2Proof.Machine.execPackageReset msg b s
  | .stateWake msg => Sys2Proof.Machine.execStateWake msg s
  | .attest mctp msg => Sys2Proof.Machine.execAttest mctp msg s
  | .installTx p slot => Sys2Proof.Machine.execInstallTx p slot s
  | .installRx p slot => Sys2Proof.Machine.execInstallRx p slot s
  | .request t => Sys2Proof.Machine.execRequest t s
  | .selftestScheduleTick => Sys2Proof.Machine.execSelftestScheduleTick s
  | .testReq device target peer blocked => Sys2Proof.Machine.execTestReq device target peer blocked s
  | .testGrant device target refused threshold => Sys2Proof.Machine.execTestGrant device target refused threshold s
  | .testReqRetry => Sys2Proof.Machine.execTestReqRetry s
  | .testHold p target => Sys2Proof.Machine.execTestHold p target s
  | .selftestDrainDone => Sys2Proof.Machine.execSelftestDrainDone s
  | .selftestTestDone readings refused => Sys2Proof.Machine.execSelftestTestDone readings refused s
  | .testDone device target => Sys2Proof.Machine.execTestDone device target s
  | .selftestSlotExpiry device => Sys2Proof.Machine.execSelftestSlotExpiry device s
  | .errorRecord => Sys2Proof.Machine.execErrorRecord s
  | .recordWindowExpiry n => Sys2Proof.Machine.execRecordWindowExpiry n s
  | .holdDrain => Sys2Proof.Machine.execHoldDrain s
  | .holdOverflow => Sys2Proof.Machine.execHoldOverflow s
  | .extest => Sys2Proof.Machine.execExtest s
  | .extestPulse => Sys2Proof.Machine.execExtestPulse s
  | .extestTrain => Sys2Proof.Machine.execExtestTrain s
  | .samplePreload b => Sys2Proof.Machine.execSamplePreload b s
  | .idcode b => Sys2Proof.Machine.execIdcode b s
  | .bypass code b => Sys2Proof.Machine.execBypass code b s
  | .trst b => Sys2Proof.Machine.execTrst b s
  | .resumeRequest job => Sys2Proof.Machine.execResumeRequest job s
  | .hostRequestCompletion ring d id result data marks => Sys2Proof.Machine.execHostRequestCompletion ring d id result data marks s
  | .colLinkTrained d => Sys2Proof.Machine.execColLinkTrained d s
  | .spurLoadStore d g store size sign rd addr value => Sys2Proof.Machine.execSpurLoadStore d g store size sign rd addr value s
  | .spurCsrWrite d g csr value => Sys2Proof.Machine.execSpurCsrWrite d g csr value s
  | .cxlLinkUp width rate => Sys2Proof.Machine.execCxlLinkUp width rate s
  | .signRateRelease => Sys2Proof.Machine.execSignRateRelease s

end Sys2Proof.Machine
end

