-- ==== Sys2Proof/Machine/Tick.lean ====
section
/-!
DEFINITION. What one array cycle does when no command waits (assumption 2): time advances, and the counters that count
cycles of waiting count.
-/
namespace Sys2Proof.Machine

open Sys2Proof

/-- Count the cycle in a counter register where a condition holds. -/
def State.countIf (s : State) (p : Bool) (f : Fld) (d i : Nat) : State := if p then s.addF f d i 1 else s

/-- The accumulator pipe and the vector route of every core move on (R62, R80). -/
def State.tickPipes (s : State) : State :=
  s.cores.foldl (fun (u : State) (c : Nat × Core) =>
    if u.pipeLive (c.1 / 96) (c.1 % 96) then u.settlePipes (c.1 / 96) (c.1 % 96) else u) s

/-- ISSUE_STALL of every core whose queue is not empty (Table 2.30): the head word did not issue in this cycle. -/
def State.tickCores (s : State) : State :=
  s.cores.foldl (fun (u : State) (c : Nat × Core) =>
    let d := c.1 / 96
    let g := c.1 % 96
    u.countIf (!c.2.tq.isEmpty && s.coreLive d g && !s.tqStopped d g) ISSUE_STALL_CYCLES d g) s

/-- Whether a shard that die d handles waits for admission (R267). -/
def State.admitWaits (s : State) (d : Nat) : Bool :=
  s.red.shards.any fun x => shardDie x.shard == d && !x.admitted && !x.fetching && x.status.isNone

/-- The started runs of a die that still have blocks to do. -/
def State.dieRuns (s : State) (d : Nat) : List UpdRun := s.upd.runs.filter fun r => r.die == d && !r.finished && !r.code.isEmpty

/-- Whether the next block of an engine is in FETCH_WAIT (R319). -/
def State.fetchWaits (s : State) (d j : Nat) : Bool :=
  (s.dieRuns d).any fun r => match r.nextBlock j with | some b => r.waiting.contains b | none => false

/-- Whether an engine stalls with a block to start, which is not in FETCH_WAIT, and no free slot, or no store room (R316). -/
def State.journalStalls (s : State) (d j : Nat) : Bool :=
  decide ((s.engBlocks d j).length < 4) &&
  (s.dieRuns d).any fun r => (match r.nextBlock j with | some b => !r.waiting.contains b | none => false) &&
    ((s.freeSlot d j).isNone || (s.storeUsed r.step && !s.storeFree d))

/-- The counters of the update engines of die d. -/
def State.tickUpdate (s : State) (d : Nat) : State :=
  (List.range 3).foldl (fun (u : State) (j : Nat) =>
    (u.countIf (s.fetchWaits d j) FETCH_WAIT_CYCLES_CYCLES 0 (d * 4 + j)).countIf (s.journalStalls d j) JOURNAL_STALL_CYCLES 0
      (d * 4 + j)) s

/-- What keeps the entry at PTR from dispatch (R352); 0 for nothing. -/
def State.sbWaits (s : State) (d : Nat) : Nat :=
  match s.sbHead d with
  | some f => if s.sbState d = 1 ∧ !(s.sb d).stopping ∧ sbKind f.word0 ≠ 2 then s.sbBlocked d f else 0
  | none => 0

/-- The switchback counters of die d: of several conditions the first that fails counts (R352). -/
def State.tickSb (s : State) (d : Nat) : State :=
  let k := s.sbWaits d
  (((s.countIf (k == 1) SB_WAIT_INPUT_CYCLES d 0).countIf (k == 2) SB_WAIT_GATE_CYCLES d 0).countIf (k == 3) SB_WAIT_HINT_CYCLES d
    0).countIf (k == 4) SB_WAIT_DEPTH_CYCLES d 0

/-- Q_GRANT_WAIT of every queue with a reservation that waits (R362). -/
def State.tickQueues (s : State) (d : Nat) : State :=
  (((s.reserveList d).map (·.queue)).eraseDups).foldl (fun u q => u.addF Q_GRANT_WAIT_CYCLES d q 1) s

/-- Whether a DISPATCH at the ring head waits for one of 16 open batches to close (R381). -/
def State.openStalls (s : State) (d : Nat) : Bool :=
  match (s.travNext d 256).1 with
  | some t => (s.travDesc d (s.travSlot d t)).op == 1 && decide (16 ≤ (s.traverse d).batches.length)
  | none => false

/-- The counters of one die that runs. -/
def State.tickDie (s : State) (d : Nat) : State :=
  let s1 := s.countIf (!(s.tracker d).waiters.isEmpty) TRACKER_STALL_CYCLES d 0
  let s2 := s1.countIf (s.admitWaits d) ADMIT_STALL_CYCLES 0 d
  (((s2.tickUpdate d).tickSb d).tickQueues d).countIf (s.openStalls d) OPEN_STALL_CYCLES d 0

/-- What waits goes on where it may: accesses that arrived, and Spur cores that stall on a window (Table 6.3, R31, R38). -/
def State.tickWaits (s : State) : State :=
  let s1 := if s.arrivals.isEmpty then s else s.releaseAll
  s1.cores.foldl (fun (u : State) (c : Nat × Core) => if c.2.stall.isSome then u.resumeSpur (c.1 / 96) (c.1 % 96) else u) s1

/-- One array cycle: ten ticks of 1/17 ns (R7). -/
def idleCycle (s : State) : State :=
  let s1 := s.tickCores
  let s2 := (List.range 4).foldl (fun (u : State) (d : Nat) => if u.dieRunning d && u.awake then u.tickDie d else u) s1
  ({ s2 with time := s2.time + 10 } : State).tickPipes.convStep.tickWaits

end Sys2Proof.Machine
end

