-- ==== Sys2Proof/Safety.lean ====
section
/-!
DEFINITION. What a command may do to the state: the fields of State by name, the relation Moves (which fields may change,
and what no command breaks), and the invariant of every step.
-/
namespace Sys2Proof.Machine

open Sys2Proof

/-- The fields of State, but for the queue. -/
inductive Field where
  | time | free | out | regs | mem | poison | cores | trackers | arrivals | talusCtl | shells | paths | saddles | cols | clock
  | contour | red | upd | cor | summit | fabric | queues | reserves | switchbacks | traverses | host | fences | sec | err
  | selftest | low | power | pins
  deriving DecidableEq, Repr

/-- Two states agree in a field. -/
def Field.Same : Field → State → State → Prop
  | .time, s, t => t.time = s.time
  | .free, s, t => t.free = s.free
  | .out, s, t => t.out = s.out
  | .regs, s, t => t.regs = s.regs
  | .mem, s, t => t.mem = s.mem
  | .poison, s, t => t.poison = s.poison
  | .cores, s, t => t.cores = s.cores
  | .trackers, s, t => t.trackers = s.trackers
  | .arrivals, s, t => t.arrivals = s.arrivals
  | .talusCtl, s, t => t.talusCtl = s.talusCtl
  | .shells, s, t => t.shells = s.shells
  | .paths, s, t => t.paths = s.paths
  | .saddles, s, t => t.saddles = s.saddles
  | .cols, s, t => t.cols = s.cols
  | .clock, s, t => t.clock = s.clock
  | .contour, s, t => t.contour = s.contour
  | .red, s, t => t.red = s.red
  | .upd, s, t => t.upd = s.upd
  | .cor, s, t => t.cor = s.cor
  | .summit, s, t => t.summit = s.summit
  | .fabric, s, t => t.fabric = s.fabric
  | .queues, s, t => t.queues = s.queues
  | .reserves, s, t => t.reserves = s.reserves
  | .switchbacks, s, t => t.switchbacks = s.switchbacks
  | .traverses, s, t => t.traverses = s.traverses
  | .host, s, t => t.host = s.host
  | .fences, s, t => t.fences = s.fences
  | .sec, s, t => t.sec = s.sec
  | .err, s, t => t.err = s.err
  | .selftest, s, t => t.selftest = s.selftest
  | .low, s, t => t.low = s.low
  | .power, s, t => t.power = s.power
  | .pins, s, t => t.pins = s.pins

/-- A field's place in a footprint. -/
def Field.bit : Field → Nat
  | .time => 0 | .free => 1 | .out => 2 | .regs => 3 | .mem => 4 | .poison => 5 | .cores => 6 | .trackers => 7
  | .arrivals => 8 | .talusCtl => 9 | .shells => 10 | .paths => 11 | .saddles => 12 | .cols => 13 | .clock => 14
  | .contour => 15 | .red => 16 | .upd => 17 | .cor => 18 | .summit => 19 | .fabric => 20 | .queues => 21
  | .reserves => 22 | .switchbacks => 23 | .traverses => 24 | .host => 25 | .fences => 26 | .sec => 27 | .err => 28
  | .selftest => 29 | .low => 30 | .power => 31 | .pins => 32

/-- From s to t: only fields whose bit stands in the footprint m change; the queue stays; time and the count of free
values never fall; what was sent stays sent; memory and the register file keep their canonical form. -/
structure Moves (m : Nat) (s t : State) : Prop where
  pending : t.pending = s.pending
  time : s.time ≤ t.time
  free : s.free ≤ t.free
  out : s.out <+: t.out
  mem : Memory.wf s.mem = true → Memory.wf t.mem = true
  regs : kRising 0 s.regs = true → kRising 0 t.regs = true
  same : ∀ f : Field, m.testBit f.bit = false → f.Same s t

/-- What holds in every state the block can be in: memory lists its bytes in canonical form and the register file lists its
registers by strictly rising offset. -/
def State.Inv (s : State) : Prop := Memory.wf s.mem = true ∧ kRising 0 s.regs = true

/-- Command c completes from s in a next state of which P holds. -/
def Completes (c : Instr) (s : State) (P : State → Prop) : Prop := ∃ t, exec c s = .next t ∧ P t

/-- Command c answers from s the state that `after` makes of some state of which P holds: the command's own effect, and then the
work that it lets go on. -/
def CompletesThen (c : Instr) (s : State) (after : State → State) (P : State → Prop) : Prop :=
  ∃ t, exec c s = .next (after t) ∧ P t

/-- Byte address b is none of the n byte addresses from a. -/
def Outside (b a n : Nat) : Prop := ∀ i < n, memKey b ≠ memKey (a + i)

/-- No error stands in the stacks or in an accumulator file: reads find what was stored (R114, R167). -/
def State.NoErrs (s : State) : Prop := s.quiet = true ∧ ∀ k, (s.core k).ecc = []

/-- A tile queue instruction of opcode opc stands at the head of the queue of core g of die d and may issue: the core may act,
the queue is neither stopped nor held, no window access waits for the boundary, and the word breaks no rule (R38, R61 to R63, R83, R84). -/
def State.MayIssue (s : State) (d g opc : Nat) (e : TqEntry) : Prop :=
  s.coreLive d g = true ∧ s.tqStopped d g = false ∧ (s.coreOf d g).held = false ∧ s.windowWaits d g = false ∧
  (s.coreOf d g).tq.head? = some e ∧ e.opc = opc ∧ s.tqFault d g e = none

/-- A request r of die d that asks the tracker now is admitted and sent at once: nothing waits, an entry is free, no FENCE, no
controller and no path change holds it, no earlier one has still to leave, its source finds no fault, and no error stands in memory
(R184 to R187, R192, R194). -/
def State.GoesAtOnce (s : State) (d : Nat) (r : RemReq) : Prop :=
  (s.tracker d).waiters = [] ∧ (s.tracker d).entries.length < s.trackerRoom d ∧
  (s.tracker d).fenced r (s.tracker d).orders = false ∧ s.sourceStatus d r = stDONE ∧ s.requestHeld d r = false ∧
  s.NoErrs ∧ ∀ x ∈ (s.tracker d).entries, x.phase.kept = false

/-- An engine of die d writes n bytes at a at once, and in full: nothing holds them, no earlier access to their granules waits, they are
mapped and within reach (R31, R40, R166, R171, R175). -/
def State.PostsNow (s : State) (d a n : Nat) : Prop :=
  s.engineHeld d a n true = false ∧ s.behind a n true = false ∧ s.extentReach a n = .ok

/-- The package takes a request in at once: it runs, is out of reset and was not stopped, no earlier request of the same die and class waits,
and nothing holds the extents `ext` that it touches (R192, R460). -/
def State.MeetsNow (s : State) (g : Segment) (ext : List (Nat × Nat × Bool)) : Prop :=
  s.getF STATE_STATUS_STATE 0 0 < 2 ∧ s.power.stopped = none ∧ s.power.inReset = false ∧ s.queuedBehind g = false ∧
  ∀ x ∈ ext, s.accessHeld x.1 x.2.1 x.2.2 = false

/-- The package takes a segment of header OP op in at once. -/
def State.TakesNow (s : State) (op : Nat) (g : Segment) : Prop := s.MeetsNow g (s.segExtents op g)

/-- Operation e holds entry id of die d's tracker and was sent. -/
def State.InFlight (s : State) (d id : Nat) (e : TrackEntry) : Prop :=
  s.entryOf d id = some e ∧ s.dieRunning d = true ∧ e.phase = .sent

/-- A REDUCE_PUT segment of a KIND takes effect on shard x of bucket br (R209, R276, R294). -/
def State.Reduces (s : State) (kind epoch : Nat) (g : Segment) (br : BucketRun) (x : ShardRun) : Prop :=
  s.MeetsNow g (s.reduceExtents g) ∧ locKind g.address = kind ∧ g.job = s.job ∧ s.job ≠ 0 ∧ s.reduceStatus epoch g = stDONE ∧ s.red.launched = some g.step ∧
  s.bucketRun (locBucket g.address) = some br ∧ s.shardRun (locBucket g.address) (locShard g.address) = some x

/-- The ACK that a REDUCE_PUT segment gets once it took effect on its shard (R190, R288, R291): CHECK_FAILED where the shard has failed
here. -/
def State.reduceAck (s : State) (g : Segment) : State :=
  s.answerAt (shardDie (locShard g.address)) 4 g
    (if (s.shardRun (locBucket g.address) (locShard g.address)).any fun x => x.status == some stCHECK then stCHECK
     else if g.marks.any id then stPOISONED else stDONE) [] []

/-- The commands by which REDUCE_PUTs of one KIND arrive (Table 10.6): KIND, command, whether other work may then be due. -/
def reduceCommands : List (Nat × (Fin 65536 → Segment → Instr) × Bool) :=
  [(0, .partialBlocks, false), (1, .result, true), (2, .start, false), (3, .absent, true), (4, .go, true), (5, .resend, true),
   (6, .ownReq, true), (7, .own, false), (8, .bypassed, false), (9, .fetchReq, false), (10, .resultFp32, true)]

/-- Word w of run r is the next that the vector engine of core g of die d issues, and its opcode is op (R131, R135). -/
def State.CrestNext (s : State) (d g op : Nat) (r : VecRun) (w : Nat) : Prop :=
  s.pipeLive d g = true ∧ (s.coreOf d g).vec.head? = some r ∧ r.begun = true ∧ r.done = false ∧
  w = r.code.getD r.pc 0 ∧ cOP w = op

/-- The register operations of the vector engine (Tables 5.5, 5.6): each command with its opcode and what it does. -/
def crestRegisterOps : List ((Fin 4 → Fin 96 → Instr) × Nat × CrestFn) :=
  [(.vadd, 0x01, opVadd), (.vsub, 0x02, opVsub), (.vmul, 0x03, opVmul), (.vfma, 0x04, opVfma),
   (.vfnma, 0x05, opVfnma), (.vmin, 0x06, opVmin), (.vmax, 0x07, opVmax), (.vabs, 0x08, opVabs),
   (.vneg, 0x09, opVneg), (.vrcp, 0x0A, opVrcp), (.vrsqrt, 0x0B, opVrsqrt), (.vexp2, 0x0C, opVexp2),
   (.vlog2, 0x0D, opVlog2), (.vand, 0x10, opVand), (.vor, 0x11, opVor), (.vxor, 0x12, opVxor),
   (.vshl, 0x13, opVshl), (.vshr, 0x14, opVshr), (.vcmp, 0x18, opVcmp), (.vsel, 0x19, opVsel),
   (.plog, 0x1A, opPlog), (.pack, 0x20, opPack), (.unpack, 0x21, opUnpack), (.mxpack, 0x22, opMxpack),
   (.mxunpack, 0x23, opMxunpack), (.m8enc, 0x24, opM8enc), (.m8dec, 0x25, opM8dec), (.vperm, 0x28, opVperm),
   (.vshuf, 0x29, opVshuf), (.vred, 0x2A, opVred), (.viota, 0x30, opViota), (.viter, 0x31, opViter),
   (.vmovh, 0x32, opVmovh), (.vmovl, 0x33, opVmovl), (.sum, 0x3C, opSum)]

end Sys2Proof.Machine
end

