-- ==== Sys2Proof/Certificates/Slice0/Obligations.lean ====
section
/-!
DEFINITION. The statements for the provers.
-/

open Sys2Proof Sys2Proof.Machine

/-! ### Spur instructions and the tile queue (chapters 02, 04) -/

/-- TQ.PUSH, TQ.SETA, TQ.STAT, TQ.ECRD and TQ.CLEAR on a Spur core that may act (R58 to R60, R83, R156): a push appends the word with
what it captured, or, on a queue of 32, stalls the core until a word leaves; another funct3 or funct7 and an index of 16 or more raise
exception 2; CLEAR empties the queue and clears TQ_FAULT, and lets a stalled VS.RDW return. -/
def Obligations.SpurQueueInstructions : Prop :=
  (∀ (d : Fin 4) (g : Fin 96) (s : State) w, (s.coreOf d g).stall = some (.push w) →
    ((s.popHead d g).coreOf d g).stall = none ∧
    ((s.popHead d g).coreOf d g).tq = (s.coreOf d g).tq.drop 1 ++ [(s.coreOf d g).capture w s.job]) ∧
  (∀ (d : Fin 4) (g : Fin 96) (s : State) (insn : BitVec 32) rd slot upTo,
    s.coreLive d g = true → s.flag CORE_CTRL_RUN d g = true → (s.coreOf d g).stall = some (.rdw rd slot upTo) →
    spurIs insn 0x0B 4 = true →
      Completes (.tqClear d g insn) s fun t =>
        (t.coreOf d g).tq = [] ∧ t.tqStopped d g = false ∧ (t.coreOf d g).stall = some (.rdw rd slot 0)) ∧
  ∀ (d : Fin 4) (g : Fin 96) (s : State) (insn : BitVec 32), s.spurReady d g = true →
    (∀ w, spurIs insn 0x0B 0 = true → (s.coreOf d g).tq.length < 32 →
      Completes (.tqPush d g insn w) s fun t =>
        (t.coreOf d g).tq = (s.coreOf d g).tq ++ [(s.coreOf d g).capture w s.job] ∧
        (t.coreOf d g).srblock = ((s.coreOf d g).srblock + srAdvance w) % 2 ^ 32) ∧
    (∀ w, spurIs insn 0x0B 0 = true → 32 ≤ (s.coreOf d g).tq.length →
      exec (.tqPush d g insn w) s = .next (s.updCore d g fun c => { c with stall := some (.push w) })) ∧
    (∀ v : Word, spurIs insn 0x0B 1 = true → spurRd insn < 16 →
      exec (.tqSeta d g insn v) s = .next (s.updCore d g fun c => { c with ta := kset 0 c.ta (spurRd insn) v })) ∧
    (spurIs insn 0x0B 2 = true →
      exec (.tqStat d g insn) s = .next (s.updCore d g fun c => c.setX (spurRd insn) (s.tqStatus d g))) ∧
    (spurIs insn 0x0B 3 = true → spurRs2 insn < 16 →
      exec (.tqEcrd d g insn) s =
        .next (s.updCore d g fun c => c.setX (spurRd insn) (BitVec.ofNat 64 ((s.coreOf d g).ecOf (spurRs2 insn))))) ∧
    (∀ w v : Word,
      (spurIs insn 0x0B 0 = false → exec (.tqPush d g insn w) s = .next (s.spurTrap d g 2)) ∧
      (spurIs insn 0x0B 1 = false ∨ 16 ≤ spurRd insn → exec (.tqSeta d g insn v) s = .next (s.spurTrap d g 2)) ∧
      (spurIs insn 0x0B 2 = false → exec (.tqStat d g insn) s = .next (s.spurTrap d g 2)) ∧
      (spurIs insn 0x0B 3 = false ∨ 16 ≤ spurRs2 insn → exec (.tqEcrd d g insn) s = .next (s.spurTrap d g 2)) ∧
      (spurIs insn 0x0B 4 = false → exec (.tqClear d g insn) s = .next (s.spurTrap d g 2))) ∧
    (spurIs insn 0x0B 4 = true → Completes (.tqClear d g insn) s fun t =>
      (t.coreOf d g).tq = [] ∧ (t.coreOf d g).held = false ∧ t.tqStopped d g = false ∧
      (t.coreOf d g).ta = (s.coreOf d g).ta ∧ (t.coreOf d g).ec = (s.coreOf d g).ec)

/-- WAIT, SIGNAL, their held forms, and VEC_RUN from the head of the queue (R62, R63, R65, R66); a SIGNAL adds INC to one counter
of one core of its own cluster, modulo 65,536, and to nothing else. -/
def Obligations.QueueControlInstructions : Prop :=
  ∀ (d : Fin 4) (g : Fin 96) (s : State) (e : TqEntry),
    (s.MayIssue d g 0x30 e → s.waitHolds d g e = true → exec (.wait d g) s = .next (s.popHead d g)) ∧
    (s.MayIssue d g 0x30 e → s.waitHolds d g e = false →
      exec (.wait d g) s = .next (s.updCore d g fun c => { c with held := true })) ∧
    (s.MayIssue d g 0x31 e → (e.f 49 49 = 0 ∨ s.coreIdle d g = true) →
      exec (.signal d g) s = .next ((s.signalEc d g e).popHead d g)) ∧
    (s.MayIssue d g 0x31 e → e.f 49 49 = 1 → s.coreIdle d g = false →
      exec (.signal d g) s = .next (s.updCore d g fun c => { c with held := true })) ∧
    (s.coreLive d g = true → s.tqStopped d g = false → (s.coreOf d g).held = true →
      (s.coreOf d g).tq.head? = some e →
        (e.opc = 0x30 → s.waitHolds d g e = true → exec (.waitSatisfied d g) s = .next (s.popHead d g)) ∧
        (e.opc = 0x31 → s.coreIdle d g = true →
          exec (.signalAfterIdle d g) s = .next ((s.signalEc d g e).popHead d g))) ∧
    (s.MayIssue d g 0x18 e → (s.coreOf d g).vec.length < 2 →
      exec (.vecRun d g) s = .next ((s.updCore d g fun c => { c with vec := c.vec ++
        [VecRun.enter e (s.flag VEC_EXPERT_SKIP_AFTER_FAULT d 0) (s.flag VEC_EXPERT_RECORD_FAULT d 0) none] }).popHead d g)) ∧
    (s.MayIssue d g 0x31 e → e.f 49 49 = 0 → e.f 53 50 < 12 →
      Completes (.signal d g) s fun t =>
        (t.coreOf d (g.val / 12 * 12 + e.f 53 50)).ecOf (e.f 57 54) =
          ((s.coreOf d (g.val / 12 * 12 + e.f 53 50)).ecOf (e.f 57 54) + e.f 48 33) % 65536 ∧
        (∀ k n, (k, n) ≠ (g.val / 12 * 12 + e.f 53 50, e.f 57 54) → (t.coreOf d k).ecOf n = (s.coreOf d k).ecOf n) ∧
        (∀ a, t.byte a = s.byte a))

/-- The instructions of the accumulator pipe (R48 to R57, R62, R69 to R71, R76, R77, R80, R114): one for which the pipe has room enters it
and leaves the queue, one for which it has none stays at the head; into an empty pipe it starts at once, and memory, poison and the
array flags become what the instruction makes of them, with the ECC errors that its reads meet. An MMA on the vector route enters the
vector pipe in the same way. -/
def Obligations.AccumulatorInstructions : Prop :=
  ∀ (d : Fin 4) (g : Fin 96) (s : State) (e : TqEntry) (errs : List AccErr),
    (∀ p ∈ [(Instr.mma d g errs, 0x08), (Instr.mmaConv d g errs, 0x09), (Instr.mmaPair3 d g errs, 0x0A),
        (Instr.accRd d g errs, 0x10), (Instr.accWr d g, 0x11), (Instr.tileAdd d g errs, 0x12)],
      s.MayIssue d g p.2 e → (p.2 = 0x08 → s.vectorRoute d e = false) →
      let es := if p.2 = 0x11 then [] else errs
      let o : AccOp := ⟨{ e with job := s.job }, es, s.accCycles d e, false, 0, 0⟩
      let u := s.updCore d g fun c => { c with acc := c.acc ++ [o] }
      (s.accRoom d g = true → exec p.1 s = .next ((u.settlePipes d g).popHead d g)) ∧
      (s.accRoom d g = false → exec p.1 s = .next s) ∧
      ((s.coreOf d g).acc = [] → (s.coreOf d g).vec = [] →
        CompletesThen p.1 s (State.popHead · d g) fun t =>
          t.mem = (u.accRun d g { e with job := s.job } es).1.mem ∧
          t.poison = (u.accRun d g { e with job := s.job } es).1.poison ∧
          t.getF CORE_FLAGS_ARR d g =
            (s.getF CORE_FLAGS_ARR d g ||| (u.accRun d g { e with job := s.job } es).2) % 32 ∧
          (t.coreOf d g).tq = (s.coreOf d g).tq ∧ ∃ o', (t.coreOf d g).acc = [o'] ∧ o'.begun = true ∧ o'.entry = o.entry)) ∧
    (s.MayIssue d g 0x08 e → s.vectorRoute d e = true →
      ((s.coreOf d g).vec.length < 2 →
        exec (.mma d g errs) s = .next (((s.updCore d g fun c => { c with vec := c.vec ++
          [VecRun.enter e false false (some ⟨e, errs, e.routeCycles, false, 0, 0⟩)] }).settlePipes d g).popHead d g)) ∧
      (2 ≤ (s.coreOf d g).vec.length → exec (.mma d g errs) s = .next s))

/-- LD_TILE, ST_TILE, PERMUTE and MOVE issue into the move pipe where it holds fewer than 16, and copy their rows, or wait among the
accesses that arrived where something holds them, and copy in their turn; LOCAL_MOVE_COMPLETE ends one that has copied (R62, R65, R72 to
R74, R166). -/
def Obligations.LocalMoveInstructions : Prop :=
  ∀ (d : Fin 4) (g : Fin 96) (s : State) (e : TqEntry),
    (∀ p ∈ [(Instr.ldTile d g, 0x01), (Instr.stTile d g, 0x02), (Instr.permute d g, 0x19), (Instr.move d g, 0x20)],
      s.MayIssue d g p.2 e → (s.coreOf d g).moves.length < 16 →
        (s.moveHeld d g e = false →
          exec p.1 s = .next (((s.moveBytes d g e).updCore d g fun c =>
            { c with moves := c.moves ++ [⟨e, false, true, c.moveSeq⟩], moveSeq := c.moveSeq + 1 }).popHead d g)) ∧
        (s.moveHeld d g e = true →
          exec p.1 s = .next (((s.updCore d g fun c =>
            { c with moves := c.moves ++ [⟨e, false, false, c.moveSeq⟩], moveSeq := c.moveSeq + 1 }).parkMove d g
              (s.coreOf d g).moveSeq e).popHead d g))) ∧
    (∀ (n : Fin 16) (m : MoveOp), (s.coreOf d g).moves[n.val]? = some m → m.remote = false → s.dieRunning d = true →
      m.copied = true →
        exec (.localMoveComplete d g n) s = .next (s.updCore d g fun c =>
          { c with moves := c.moves.eraseIdx n.val }.complete m.entry)) ∧
    (∀ (n : Fin 16) (m : MoveOp), (s.coreOf d g).moves[n.val]? = some m → m.remote = false → s.dieRunning d = true →
      m.copied = false → ∀ m', (s.releaseAll.coreOf d g).moves[n.val]? = some m' →
        (m'.copied = true →
          exec (.localMoveComplete d g n) s = .next (s.releaseAll.updCore d g fun c =>
            { c with moves := c.moves.eraseIdx n.val }.complete m.entry)) ∧
        (m'.copied = false → exec (.localMoveComplete d g n) s = .next s.releaseAll)) ∧
    (∀ uid (m : MoveOp), ((s.coreOf d g).moves.find? fun x => !x.remote && !x.copied && x.uid == uid) = some m →
      (s.moveHeld d g m.entry = false →
        (s.retryMove d g uid).mem = (s.moveBytes d g m.entry).mem ∧ (s.retryMove d g uid).arrivals = (s.moveBytes d g m.entry).arrivals) ∧
      (s.moveHeld d g m.entry = true → s.retryMove d g uid = s.parkMove d g uid m.entry))

/-- A word that breaks a rule stops the queue when its turn comes: TQ_FAULT, its code and the word are latched, the Spur core is
interrupted, and the word stays at the head (R83, R84). -/
def Obligations.QueueFaults : Prop :=
  ∀ (d : Fin 4) (g : Fin 96) (s : State) (e : TqEntry) (code : Nat),
    s.coreLive d g = true → s.tqStopped d g = false → (s.coreOf d g).held = false → s.windowWaits d g = false →
    (s.coreOf d g).tq.head? = some e → s.tqFault d g e = some code → ∀ errs,
    ∀ p ∈ [(Instr.ldTile d g, 0x01), (Instr.stTile d g, 0x02), (Instr.mma d g errs, 0x08), (Instr.mmaConv d g errs, 0x09),
        (Instr.mmaPair3 d g errs, 0x0A), (Instr.accRd d g errs, 0x10), (Instr.accWr d g, 0x11), (Instr.tileAdd d g errs, 0x12),
        (Instr.vecRun d g, 0x18), (Instr.permute d g, 0x19), (Instr.move d g, 0x20)],
      e.opc = p.2 →
      Completes p.1 s fun t =>
        t.tqStopped d g = true ∧ t.getF CORE_STATUS_FAULT_CODE d g = code % 256 ∧
        t.getF TQ_FAULT_WORD_WORD d g = e.word.toNat ∧ (t.coreOf d g).tq = (s.coreOf d g).tq ∧ (t.coreOf d g).extIrq = true ∧
        t.mem = s.mem

/-- CORE_RUN and CORE_RESET (Table 2.27, R85, R466): a start fetches from SPUR_ENTRY, a halt stops; a reset returns the core's
queue, counters and registers to 0 and keeps memory; a reset of a core that is not there sets CMD_ERR, and a held package reset contains
either (R456). -/
def Obligations.CoreRunAndReset : Prop :=
  ∀ (d : Fin 4) (g : Fin 96) (s : State),
    (s.dieRunning d = true → s.flag CORE_CTRL_RUN d g = false →
      Completes (.coreRun d g true) s fun t =>
        t.flag CORE_CTRL_RUN d g = true ∧ t.flag CORE_STATUS_SPUR_HALTED d g = false ∧
        (t.coreOf d g).pc = s.getF SPUR_ENTRY_ENTRY d g * 2) ∧
    (s.dieRunning d = true →
      Completes (.coreRun d g false) s fun t =>
        t.flag CORE_CTRL_RUN d g = false ∧ t.flag CORE_STATUS_SPUR_HALTED d g = true ∧ t.cores = s.cores) ∧
    (s.dieRunning d = true → s.awake = true → s.power.inReset = false →
      Completes (.coreReset d g) s fun t => t.coreOf d g = Core.zero ∧ t.mem = s.mem ∧ t.poison = s.poison) ∧
    (∀ n, 96 ≤ n → s.power.inReset = false → exec (.coreReset d n) s = .next (s.setF STATE_BLK_STATUS_CMD_ERR 0 0 1)) ∧
    (∀ n, s.power.inReset = true → exec (.coreReset d n) s = .next s)

/-! ### The vector engine (chapter 05) -/

/-- Every register operation issues from the run at the head of the vector pipe, in index order: registers and working slots
take what the operation gives, its flags join the run's, the run advances, and memory stays (R131, R135, R142 to R154). -/
def Obligations.CrestRegisterOperations : Prop :=
  ∀ (d : Fin 4) (g : Fin 96) (s : State) (r : VecRun) (w : Nat), ∀ row ∈ crestRegisterOps, s.CrestNext d g row.2.1 r w →
    Completes (row.1 d g) s fun t =>
      (t.coreOf d g).regs = (row.2.2 (r.ctx w) (s.coreOf d g).regs r.work).regs ∧
      (t.coreOf d g).vec =
        ({ r with
            work := (row.2.2 (r.ctx w) (s.coreOf d g).regs r.work).work
            flags := r.flags ||| (row.2.2 (r.ctx w) (s.coreOf d g).regs r.work).flags }.advance w false (s.pace d)) ::
          (s.coreOf d g).vec.drop 1 ∧
      t.getF VEC_ACTIVE_CYCLES d g = (s.getF VEC_ACTIVE_CYCLES d g + 1) % 2 ^ 64 ∧
      t.mem = s.mem ∧ t.poison = s.poison

/-- LD and ST (R132, R133, R141, R161): an access inside the core's scratch or the cluster's, aligned, moves its bytes with their
poison; another stops the run on fault 6 or 7 and touches no memory. A store changes no byte outside its access. -/
def Obligations.CrestLoadStore : Prop :=
  ∀ (d : Fin 4) (g : Fin 96) (s : State) (r : VecRun) (w : Nat),
    (s.CrestNext d g 0x38 r w → accessFaultOf d g (r.address w) (accessBytes (cSZ w)) = none →
      Completes (.ld d g) s fun t =>
        (t.coreOf d g).regs = (s.coreOf d g).regs.setV (cVD w)
          (ldReg (cSZ w) (s.bytes (r.address w) (accessBytes (cSZ w))) (s.marks (r.address w) (accessBytes (cSZ w)))) ∧
        t.mem = s.mem ∧ t.poison = s.poison) ∧
    (s.CrestNext d g 0x39 r w → accessFaultOf d g (r.address w) (accessBytes (cSZ w)) = none →
      Completes (.st d g) s fun t =>
        (∀ a, t.byte a = (s.writeMarked (r.address w) (stBytes (cSZ w) ((s.coreOf d g).regs.vreg (cVD w))).1
          (stBytes (cSZ w) ((s.coreOf d g).regs.vreg (cVD w))).2).byte a) ∧
        (∀ a, Outside a (r.address w) (accessBytes (cSZ w)) → t.byte a = s.byte a) ∧
        (t.coreOf d g).regs = (s.coreOf d g).regs) ∧
    (∀ p ∈ [(Instr.ld d g, 0x38), (Instr.st d g, 0x39)], s.CrestNext d g p.2 r w →
      ∀ code, accessFaultOf d g (r.address w) (accessBytes (cSZ w)) = some code →
        Completes p.1 s fun t =>
          t.flag VEC_FAULT_VALID d g = true ∧ t.mem = s.mem ∧ (t.coreOf d g).regs = (s.coreOf d g).regs ∧
          (t.coreOf d g).vec = { r with faulted := true, done := true } :: (s.coreOf d g).vec.drop 1)

/-- The life of a run (R131, R135, R161, R162): it begins with its whole image read, faults before its first issue, or is
discarded while VEC_FAULT is VALID; at its completion slots latch unless it faulted, and it leaves the pipe, where an MMA on the
vector route that stood behind it then starts (R80). -/
def Obligations.VectorRunLifecycle : Prop :=
  ∀ (d : Fin 4) (g : Fin 96) (s : State) (r : VecRun), s.pipeLive d g = true → (s.coreOf d g).vec.head? = some r → r.mma = none →
    let out (t : State) : Prop :=
      (t.coreOf d g).vec.length + 1 = (s.coreOf d g).vec.length ∧ (t.coreOf d g).vecDone = (s.coreOf d g).vecDone + 1 ∧
      ((∀ x ∈ (s.coreOf d g).vec, x.mma = none) → (t.coreOf d g).vec = (s.coreOf d g).vec.drop 1)
    (r.begun = false → (r.skip = false ∨ s.flag VEC_FAULT_VALID d g = false) →
      s.imageFault d g (r.entry.f 52 40) = none →
        exec (.vecRunBegin d g) s = .next (s.updCore d g fun c => c.setRun (s.loadImage d g r))) ∧
    (r.begun = false → (r.skip = false ∨ s.flag VEC_FAULT_VALID d g = false) →
      ∀ f, s.imageFault d g (r.entry.f 52 40) = some f →
        Completes (.vecRunBegin d g) s fun t =>
          t.flag VEC_FAULT_VALID d g = true ∧
          (s.flag VEC_FAULT_VALID d g = false → t.getF VEC_FAULT_CODE d g = f.1 % 256) ∧
          (s.flag VEC_FAULT_VALID d g = true → t.reg VEC_FAULT d g = s.reg VEC_FAULT d g) ∧
          (t.coreOf d g).vec.head? = some { r with begun := true, faulted := true, done := true } ∧ t.mem = s.mem) ∧
    (r.begun = false → r.skip = true → s.flag VEC_FAULT_VALID d g = true →
      Completes (.vecRunBegin d g) s out) ∧
    (r.begun = true → r.done = true →
      Completes (.vecRunComplete d g) s fun t =>
        out t ∧
        (t.coreOf d g).regs.slots = (if r.faulted then (s.coreOf d g).regs.slots
          else r.work.foldl (fun m x => kset Slot.zero m x.1 x.2) (s.coreOf d g).regs.slots) ∧
        (r.entry.f 57 57 = 1 → (t.coreOf d g).ecOf (r.entry.f 56 53) = ((s.coreOf d g).ecOf (r.entry.f 56 53) + 1) % 65536))

/-- Spur reads and writes outside the tile queue (R38 to R40, R155, R156, R165, R494, R507, Tables 2.4, 3.6): loads and stores of memory and
of the windows, one that is held stalls the core among the accesses that wait, custom CSRs, and VS.RD and VS.RDW: the slot, an exception for another funct3 or funct7, an index of 8 or more or a
poisoned slot, and the stall of a VS.RDW until every run pushed before it has completed or the queue has stopped. -/
def Obligations.SpurReadsAndWrites : Prop :=
  ∀ (d : Fin 4) (g : Fin 96) (s : State) (rd : Fin 32),
    (∀ insn : BitVec 32, s.spurReady d g = true →
      (spurIs insn 0x2B 0 = false ∨ 8 ≤ spurRs2 insn → exec (.vsRd d g insn) s = .next (s.spurTrap d g 2)) ∧
      (spurIs insn 0x2B 1 = false ∨ 8 ≤ spurRs2 insn → exec (.vsRdw d g insn) s = .next (s.spurTrap d g 2)) ∧
      (spurRs2 insn < 8 →
        let x := kget Slot.zero (s.coreOf d g).regs.slots (spurRs2 insn)
        let read := if x.pois then s.spurTrap d g 5 else s.updCore d g fun c => c.setX (spurRd insn) x.data
        (spurIs insn 0x2B 0 = true → exec (.vsRd d g insn) s = .next read) ∧
        (spurIs insn 0x2B 1 = true →
          ((s.coreOf d g).vecPushed ≤ (s.coreOf d g).vecDone ∨ s.tqStopped d g = true →
            exec (.vsRdw d g insn) s = .next read) ∧
          ((s.coreOf d g).vecDone < (s.coreOf d g).vecPushed → s.tqStopped d g = false →
            exec (.vsRdw d g insn) s = .next (s.updCore d g fun c =>
              { c with stall := some (.rdw (spurRd insn) (spurRs2 insn) (s.coreOf d g).vecPushed) }))))) ∧
    (∀ n upTo, (s.coreOf d g).stall = some (.rdw rd.val n upTo) → s.coreLive d g = true →
      (upTo ≤ (s.coreOf d g).vecDone ∨ s.tqStopped d g = true) →
      (kget Slot.zero (s.coreOf d g).regs.slots n).pois = false →
        Completes (.vsRdwReturn d g) s fun t =>
          (t.coreOf d g).stall = none ∧
          (rd.val ≠ 0 → kget 0 (t.coreOf d g).x rd.val = (kget Slot.zero (s.coreOf d g).regs.slots n).data)) ∧
    (s.spurReady d g = true →
      (∀ (size : Fin 4) sign (addr : BitVec 48) v,
        let n := 2 ^ size.val
        let a := addr.toNat
        let u := s.updCore d g fun c => { c with stall := none }
        (spurPlace a n true = .memory → s.spurHeld d a n true = false →
          exec (.spurLoadStore d g true size sign rd addr v) s = .next (u.localWrite d g a (leBytes n v.toNat) []).afterWork) ∧
        (spurPlace a n true = .memory → s.spurHeld d a n true = false → s.extentReach a n = .ok → s.NoErrs →
          CompletesThen (.spurLoadStore d g true size sign rd addr v) s State.afterWork fun t =>
            t.bytes a n = leBytes n v.toNat ∧ (∀ b, Outside b a n → t.byte b = s.byte b) ∧
            (∀ e k, t.coreOf e k = s.coreOf e k) ∧ t.regs = s.regs) ∧
        (spurPlace a n false = .memory → s.spurHeld d a n false = false →
          exec (.spurLoadStore d g false size sign rd addr v) s = .next (u.spurRead d g rd a n sign).afterWork) ∧
        (spurPlace a n false = .memory → s.spurHeld d a n false = false → s.extentReach a n = .ok → s.NoErrs →
          (s.poisoned a n = true →
            exec (.spurLoadStore d g false size sign rd addr v) s = .next (u.spurTrap d g 5).afterWork) ∧
          (s.poisoned a n = false →
            exec (.spurLoadStore d g false size sign rd addr v) s =
              .next (u.updCore d g fun c => c.setX rd (spurExtend n sign (leNat (s.bytes a n)))).afterWork)) ∧
        (∀ store : Bool, spurPlace a n store = .memory → s.spurHeld d a n store = true →
          exec (.spurLoadStore d g store size sign rd addr v) s =
            .next ((s.updCore d g fun c => { c with stall := some (.access store n sign rd a v) }).park
              (if s.pairWaits d a then [] else [(a, n, store)]) (.spur d g)).afterWork) ∧
        (spurPlace a n true = .nothing →
          exec (.spurLoadStore d g true size sign rd addr v) s = .next (s.addressFault d g a).afterWork) ∧
        (spurPlace a n false = .nothing →
          exec (.spurLoadStore d g false size sign rd addr v) s = .next ((s.addressFault d g a).spurTrap d g 5).afterWork) ∧
        (∀ o row dw i, spurPlace a n true = .window o → findReg o = some (row, dw, i) → s.dieRunning (dieOfOffset o) = true →
          (rsvClean row.rows v = false →
            exec (.spurLoadStore d g true size sign rd addr v) s = .fault .reservedFieldWritten) ∧
          (rsvClean row.rows v = true → s.pairWaits d a = false → s.dieRunning dw = true →
            exec (.spurLoadStore d g true size sign rd addr v) s = .next (u.writeRow row dw i v).afterWork)) ∧
        (∀ o, spurPlace a n false = .window o → s.pairWaits d a = false →
          (s.dieRunning (dieOfOffset o) = true →
            exec (.spurLoadStore d g false size sign rd addr v) s = .next (u.updCore d g fun c => c.setX rd
              (spurExtend n sign ((u.readReg o).toNat / 2 ^ (8 * (a % 8)) % 2 ^ (8 * n)))).afterWork) ∧
          (s.dieRunning (dieOfOffset o) = false →
            exec (.spurLoadStore d g false size sign rd addr v) s = .next (u.spurTrap d g 5).afterWork))) ∧
      (∀ v : Word,
        (v.toNat < 2 ^ 40 → exec (.spurCsrWrite d g 0 v) s = .next (s.updCore d g fun c => { c with srstep := v.toNat })) ∧
        (v.toNat < 2 ^ 32 → exec (.spurCsrWrite d g 1 v) s = .next (s.updCore d g fun c => { c with srblock := v.toNat })) ∧
        (v.toNat < 2 ^ 10 → Completes (.spurCsrWrite d g 2 v) s fun t =>
          (∀ k, k < 5 → (t.getF CORE_FLAGS_ARR d g).testBit k = ((s.getF CORE_FLAGS_ARR d g).testBit k && !v.toNat.testBit k)) ∧
          (∀ k, k < 5 → (t.getF CORE_FLAGS_VEC d g).testBit k =
            ((s.getF CORE_FLAGS_VEC d g).testBit k && !v.toNat.testBit (5 + k)))) ∧
        (bits v.toNat 62 56 = 0 → bits v.toNat 41 32 = 0 →
          (v.toNat.testBit 63 = true → exec (.spurCsrWrite d g 3 v) s =
            .next ((s.setF REMOTE_FAIL_VALID d g 0).setF REMOTE_FAIL_COUNT d g 0)) ∧
          (v.toNat.testBit 63 = false → exec (.spurCsrWrite d g 3 v) s = .next s))))

/-! ### The Talus controllers (chapter 06) -/

/-- A granule read that meets no symbol error (R163, R165, R166, R167, Table 6.3): the words memory holds, a poisoned one as zeros with
its mask bit; where its stack holds accesses, or an earlier one to the granule waits, it waits; a retired or fenced stack or an
unmapped position returns zeros with poison. -/
def Obligations.TalusReads : Prop :=
  ∀ (t : Fin 12) (granule : Fin 536870912) (s : State),
    (∀ errs, s.stackHeld (granuleAddr t granule) 128 false = true →
      exec (.talusRead t granule errs) s =
        .next (s.setArrivals (s.arrivals ++ [⟨[(granuleAddr t granule, 128, false)], .talus t (.read granule errs)⟩]))) ∧
    (s.stackHeld (granuleAddr t granule) 128 false = false →
      (s.stackReach t = .ok → s.granuleErrs t granule = [] → Completes (.talusRead t granule []) s fun u =>
        u.out = s.out ++ [⟨.talusData, t,
          [granule,
            ((List.range 16).filter fun w => s.poisoned (granuleAddr t granule + 8 * w) 8).foldl (fun m w => m + 2 ^ w) 0,
            if s.poisoned (granuleAddr t granule) 128 then stPOISONED else stDONE],
          (List.range 16).flatMap fun w =>
            if s.poisoned (granuleAddr t granule + 8 * w) 8 then List.replicate 8 0
            else s.bytes (granuleAddr t granule + 8 * w) 8⟩] ∧
        (∀ a, u.byte a = s.byte a) ∧ u.poison = s.poison ∧ u.regs = s.regs) ∧
      (∀ errs, s.stackReach t = .retired →
        exec (.talusRead t granule errs) s =
          .next (s.emit .talusData t [granule, 0xFFFF, stPOISONED] (List.replicate 128 0))) ∧
      (∀ errs, s.stackReach t = .unreachable →
        exec (.talusRead t granule errs) s =
          .next (s.emit .talusData t [granule, 0xFFFF, stUNREACHABLE] (List.replicate 128 0))) ∧
      (∀ errs, s.stackReach t = .unmapped →
        exec (.talusRead t granule errs) s = .next ((s.addressFault (t / 3) 0 (granuleAddr t granule)).emit .talusData t
          [granule, 0xFFFF, stDONE] (List.replicate 128 0))))

/-- What the symbol code does (R167 to R170) to a word of a granule in which no other error stands: one wrong symbol of a word is corrected
and counted, and stands on, for a read writes nothing back; two are detected: the word is poisoned in memory and counted, and the count may
retire the stack; a wrong symbol on a dead wire is no error. -/
def Obligations.TalusSymbolErrors : Prop :=
  ∀ (t : Fin 12) (granule : Fin 536870912) (s : State) (w j k : Nat) (f f' : BitVec 4),
    s.stackReach t = .ok → s.stackHeld (granuleAddr t granule) 128 false = false → s.poisoned (granuleAddr t granule) 128 = false →
    s.granuleErrs t granule = [] → w < 16 → j < 20 → k < 20 → f ≠ 0 → f' ≠ 0 →
    (s.deadSymbol t w = none →
      Completes (.talusRead t granule [⟨w, j, f⟩]) s fun u =>
        u.out = s.out ++ [⟨.talusData, t, [granule, 0, stDONE], s.bytes (granuleAddr t granule) 128⟩] ∧
        u.stkF CE_COUNT_COUNT t = min (2 ^ 32 - 1) (s.stkF CE_COUNT_COUNT t + 1) ∧
        u.err.raised.length = s.err.raised.length + 1 ∧ (∀ a, u.byte a = s.byte a) ∧ u.poison = s.poison ∧
        u.granuleErrs t granule = [⟨w, j, f⟩]) ∧
    (s.deadSymbol t w = some j →
      Completes (.talusRead t granule [⟨w, j, f⟩]) s fun u =>
        u.out = s.out ++ [⟨.talusData, t, [granule, 0, stDONE], s.bytes (granuleAddr t granule) 128⟩] ∧
        (∀ a, u.byte a = s.byte a) ∧ u.poison = s.poison ∧ u.regs = s.regs ∧ u.err = s.err) ∧
    (s.deadSymbol t w = none → j ≠ k →
      Completes (.talusRead t granule [⟨w, j, f⟩, ⟨w, k, f'⟩]) s fun u =>
        (∃ data, u.out.getLast? = some ⟨.talusData, t, [granule, 2 ^ w, stPOISONED], data⟩) ∧
        u.poisoned (granuleAddr t granule + 8 * w) 8 = true ∧
        u.stkF UE_COUNT_COUNT t = min (2 ^ 32 - 1) (s.stkF UE_COUNT_COUNT t + 1) ∧ (∀ a, u.byte a = s.byte a) ∧
        u.granuleErrs t granule = [] ∧
        (s.getF TALUS_EXPERT_UE_RETIRE_LIMIT (t / 3) 0 ≠ 0 →
          s.getF TALUS_EXPERT_UE_RETIRE_LIMIT (t / 3) 0 ≤ u.stkF UE_COUNT_COUNT t → u.stackState t = 4))

/-- A granule write (R165, R166, R168, R171): a whole granule or a part of one takes its bytes and nothing else changes; a whole granule
written without poison carries none; where its stack holds accesses, or an earlier one to the granule waits, it waits; at a retired or
fenced stack or an unmapped position it is not performed. -/
def Obligations.TalusWrites : Prop :=
  ∀ (t : Fin 12) (granule : Fin 536870912) (first : Fin 128) (data : List Byte) (poison : Bool) (s : State),
    (∀ errs, s.stackHeld (granuleAddr t granule) 128 true = true →
      exec (.talusWrite t granule first data poison errs) s = .next (s.setArrivals (s.arrivals ++
        [⟨[(granuleAddr t granule, 128, true)], .talus t (.write granule first data poison errs)⟩]))) ∧
    (s.stackHeld (granuleAddr t granule) 128 true = false →
      (s.stackReach t = .ok → s.granuleErrs t granule = [] →
        Completes (.talusWrite t granule first data poison []) s fun u =>
          u.bytes (granuleAddr t granule + first) (data.take (128 - first)).length = data.take (128 - first) ∧
          (∀ a, Outside a (granuleAddr t granule + first) (data.take (128 - first)).length → u.byte a = s.byte a) ∧
          u.out = s.out ++ [⟨.talusData, t, [granule, 0, stDONE], []⟩] ∧
          (first.val = 0 → data.length = 128 → u.poisoned (granuleAddr t granule) 128 = poison)) ∧
      (∀ errs, s.stackReach t = .ok → Completes (.talusWrite t granule first data poison errs) s fun u => u.granuleErrs t granule = []) ∧
      (∀ errs, s.stackReach t = .ok →
        Completes (.talusWrite t granule first data poison errs) s fun u =>
          ∀ a, Outside a (granuleAddr t granule) 128 → u.byte a = s.byte a) ∧
      (∀ errs, s.stackReach t = .retired →
        exec (.talusWrite t granule first data poison errs) s = .next (s.emit .talusData t [granule, 0, stPOISONED] [])) ∧
      (∀ errs, s.stackReach t = .unreachable →
        exec (.talusWrite t granule first data poison errs) s = .next (s.emit .talusData t [granule, 0, stUNREACHABLE] [])) ∧
      (∀ errs, s.stackReach t = .unmapped →
        exec (.talusWrite t granule first data poison errs) s =
          .next ((s.addressFault (t / 3) 0 (granuleAddr t granule)).emit .talusData t [granule, 0, stDONE] [])))

/-- The commands of one stack (R170, R172 to R174, Tables 6.4, 6.13): the scrub reads the next granule and changes no byte; counts
clear; software retires an ACTIVE stack, training ends in ACTIVE or in retirement with its cause; temperatures are held. -/
def Obligations.TalusStackCommands : Prop :=
  ∀ (t : Fin 12) (s : State),
    (s.stackState t = 2 → s.dieRunning (t / 3) = true → s.getF TALUS_EXPERT_SCRUB_HOURS (t / 3) 0 ≠ 0 →
      s.stackHeld (granuleAddr t (s.stkF SCRUB_POS_NEXT_GRANULE t)) 128 false = false →
      s.granuleErrs t (s.stkF SCRUB_POS_NEXT_GRANULE t) = [] →
      Completes (.scrubRead t []) s fun u =>
        u.stkF SCRUB_POS_NEXT_GRANULE t = (s.stkF SCRUB_POS_NEXT_GRANULE t + 1) % 2 ^ 29 ∧
        (∀ a, u.byte a = s.byte a) ∧ u.poison = s.poison ∧ u.out = s.out) ∧
    (∀ errs, s.stackState t = 2 → s.dieRunning (t / 3) = true → s.getF TALUS_EXPERT_SCRUB_HOURS (t / 3) 0 ≠ 0 →
      s.stackHeld (granuleAddr t (s.stkF SCRUB_POS_NEXT_GRANULE t)) 128 (!errs.isEmpty) = false →
      Completes (.scrubRead t errs) s fun u => u.granuleErrs t (s.stkF SCRUB_POS_NEXT_GRANULE t) = []) ∧
    Completes (.clearCounts t) s (fun u =>
      u.stkF CE_COUNT_COUNT t = 0 ∧ u.stkF UE_COUNT_COUNT t = 0 ∧ u.mem = s.mem ∧ u.stackState t = s.stackState t) ∧
    (s.stackState t = 2 →
      CompletesThen (.retire t) s State.releaseAll fun u =>
        u.stackState t = 4 ∧ u.stkF STACK_STATE_CAUSE t = 5 ∧ u.arrivals = s.arrivals ∧
        u.err.raised.length = s.err.raised.length + 1 ∧ u.mem = s.mem) ∧
    (s.stackState t ≠ 2 → exec (.retire t) s = .next s) ∧
    (s.stackState t = 1 → (s.stack t).training ≠ .selftest →
      (∀ wires, CompletesThen (.stackTrainingComplete t false wires) s State.releaseAll fun u =>
        u.stackState t = 4 ∧ u.stkF STACK_STATE_CAUSE t = 2 ∧ u.arrivals = s.arrivals) ∧
      exec (.stackTrainingComplete t true []) s = .next ((s.shellTrain 4 t).stackActive t).releaseAll) ∧
    ∀ temp : Fin 256, CompletesThen (.stackTempUpdate t temp) s (fun u => u.thermalStep.startCooled) fun u =>
      u.stkF STACK_TEMP_TEMP t = temp ∧ u.stkF STACK_TEMP_REFRESH_2X t = b2n (decide (85 < temp.val)) ∧ u.mem = s.mem

/-! ### Remote operations (chapter 07) -/

/-- PUT, GET and ATOMIC from the head of a tile queue (R75, R184 to R189, R211 to R213): the word takes a place in the move pipe
and asks the tracker. A request that its source refuses ends with that status in REMOTE_FAIL; one to another package is sent;
without a free entry it waits. A PUT or GET whose pointer names the own package copies its bytes with their poison and leaves every
other byte, counts for its core, and frees its entry (R42, R197). -/
def Obligations.RemoteIssue : Prop :=
  ∀ (d : Fin 4) (g : Fin 96) (s : State) (e : TqEntry), (s.coreOf d g).moves.length < 16 →
    (∀ p ∈ [(Instr.put d g, 0x21, s.tileRequest d g e), (Instr.get d g, 0x22, s.tileRequest d g e),
         (Instr.atomic d g, 0x23, (s.atomicRequest d g e).2)],
       s.MayIssue d g p.2.1 e →
       (p.2.1 = 0x23 → (s.atomicRequest d g e).1 = s) →
       (((s.tracker d).waiters ≠ [] ∨ s.trackerRoom d ≤ (s.tracker d).entries.length) →
         CompletesThen p.1 s (fun u => (u.popHead d g).afterWork) fun u =>
           (u.tracker d).waiters = (s.tracker d).waiters ++ [p.2.2] ∧ (u.tracker d).entries = (s.tracker d).entries ∧
           u.mem = s.mem ∧ u.out = s.out) ∧
       ((s.tracker d).waiters = [] → (s.tracker d).entries.length < s.trackerRoom d →
         (s.tracker d).fenced p.2.2 (s.tracker d).orders = false → s.sourceStatus d p.2.2 ≠ stDONE →
           CompletesThen p.1 s (fun u => (u.popHead d g).afterWork) fun u =>
             u.flag REMOTE_FAIL_VALID d g = true ∧
             (s.flag REMOTE_FAIL_VALID d g = false → u.getF REMOTE_FAIL_CODE d g = s.sourceStatus d p.2.2) ∧
             u.mem = s.mem ∧ u.out = s.out) ∧
       (s.GoesAtOnce d p.2.2 → ptrSpace p.2.2.ptr = 1 → s.ptrOwn p.2.2.ptr = false → p.2.2.kind ≠ .enqueue →
         CompletesThen p.1 s (fun u => (u.popHead d g).afterWork) fun u =>
           u.mem = s.mem ∧ (u.tracker d).entries.length = (s.tracker d).entries.length + 1 ∧
           ∀ x ∈ (u.tracker d).entries.getLast?, x.req = p.2.2 ∧ x.phase = .sent ∧
             x.deadline = s.fabricNow + s.getF REMOTE_EXPERT_TIMEOUT_US d 0 * 1000 ∧
             u.out = s.out ++ (List.range (segCount p.2.2.len)).map fun i =>
               s.packetMsg .request d (s.header d x (decide (i + 1 = segCount p.2.2.len)) ((s.segPayload x i).2.any id) (i * 64))
                 (s.segPayload x i).1 (s.segPayload x i).2)) ∧
    (s.GoesAtOnce d (s.tileRequest d g e) → s.ptrOwn (s.tileRequest d g e).ptr = true →
     ∀ p ∈ [(Instr.put d g, 0x21, (s.tileRequest d g e).loc, ptrAddr (s.tileRequest d g e).ptr),
         (Instr.get d g, 0x22, ptrAddr (s.tileRequest d g e).ptr, (s.tileRequest d g e).loc)],
       s.MayIssue d g p.2.1 e → (s.tileRequest d g e).kind ≠ .enqueue →
       CompletesThen p.1 s (fun u => (u.popHead d g).afterWork) fun u =>
         u.mem = (s.writeMarked p.2.2.2 (s.bytes p.2.2.1 (s.tileRequest d g e).len)
           (s.marks p.2.2.1 (s.tileRequest d g e).len)).mem ∧
         (∀ a, Outside a p.2.2.2 (s.tileRequest d g e).len → u.byte a = s.byte a) ∧
         (u.tracker d).entries = (s.tracker d).entries ∧
         (e.f 57 57 = 1 → (u.coreOf d g).ecOf (e.f 56 53) = ((s.coreOf d g).ecOf (e.f 56 53) + 1) % 65536) ∧
         (s.poisoned p.2.2.1 (s.tileRequest d g e).len = false → u.reg REMOTE_FAIL d g = s.reg REMOTE_FAIL d g))

/-- Arrival of PUT, GET, ATOMIC and NOTIFY segments (R27, R190, R192, R197, R198, R200, R209): a segment of another job is counted and
answered UNREACHABLE, or INVALID where its form is wrong, one that fails a check is answered its status, another is performed and answered,
here where no error stands in memory; one that must wait
is held; a package in Bivouac wakes for it or answers UNREACHABLE; one in Refuge or stopped does not answer. The answer is a packet
whose header exchanges source and destination and names the package's job. -/
def Obligations.SegmentArrivals : Prop :=
  ∀ (g : Segment) (s : State),
    (∀ p ∈ [(Instr.putArrive g, 1), (Instr.getArrive g, 2), (Instr.atomicArrive g, 3)],
       (s.TakesNow p.2 g → (g.job ≠ s.job ∨ s.job = 0) → exec p.1 s = .next ((s.jobReject g).answer p.2 g (statusMax stUNREACHABLE (s.segmentForm p.2 g)) [] [])) ∧
       (s.TakesNow p.2 g → g.job = s.job → s.job ≠ 0 → s.segmentStatus p.2 g ≠ stDONE →
         exec p.1 s = .next (s.answer p.2 g (s.segmentStatus p.2 g) [] [])) ∧
       (s.TakesNow p.2 g → g.job = s.job → s.job ≠ 0 → s.segmentStatus p.2 g = stDONE → s.NoErrs →
         (p.2 = 1 → Completes p.1 s fun t =>
           t.mem = (s.writeMarked (g.address + g.seg64 * 64) g.payload g.marks).mem ∧
           (∀ a, Outside a (g.address + g.seg64 * 64) g.payload.length → t.byte a = s.byte a) ∧
           t.out = s.out ++ [s.packetMsg .response (addressDie g.address) ((g.head 1 s.device).reply false s.job
             (if g.marks.any id then stPOISONED else stDONE) false) [] []]) ∧
         (p.2 = 2 → Completes p.1 s fun t =>
           let a := g.address + g.seg64 * 64
           let n := min 4096 ((g.len64 + 1) * 64 - g.seg64 * 64)
           t.mem = s.mem ∧ t.out = s.out ++ [s.packetMsg .response (addressDie g.address) ((g.head 2 s.device).reply true s.job
             (if s.poisoned a n then stPOISONED else stDONE) ((s.marks a n).any id)) (s.bytes a n) (s.marks a n)]) ∧
         (p.2 = 3 → g.marks.any id = false → (∀ d f o, place g.address ≠ .flagWord d f o) →
           s.poisoned g.address (if g.w64 then 8 else 4) = false →
           Completes p.1 s fun t =>
             t.readN g.address (if g.w64 then 8 else 4) =
               atomicAfter g.aop (if g.w64 then 64 else 32) (s.readN g.address (if g.w64 then 8 else 4))
                 (leNat (g.payload.take (if g.w64 then 8 else 4))) (leNat ((g.payload.drop 8).take (if g.w64 then 8 else 4))) %
               2 ^ (if g.w64 then 64 else 32) ∧
             (∀ a, Outside a g.address (if g.w64 then 8 else 4) → t.byte a = s.byte a))) ∧
       (s.power.stopped = none → s.power.inReset = false → s.getF STATE_STATUS_STATE 0 0 < 2 → s.queuedBehind g = false →
         ((s.segExtents p.2 g).any fun x => s.accessHeld x.1 x.2.1 x.2.2) = true →
         exec p.1 s = .next (s.park (s.segExtents p.2 g) (.segment p.2 g))) ∧
       (s.power.stopped = none → s.power.inReset = false →
         (s.getF STATE_STATUS_STATE 0 0 = 3 ∨ s.getF STATE_STATUS_STATE 0 0 < 2 ∧ s.queuedBehind g = true) →
         exec p.1 s = .next (s.park [] (.segment p.2 g))) ∧
       (s.getF STATE_STATUS_STATE 0 0 = 2 → s.power.stopped = none → s.power.inReset = false →
         s.wakesOn STATE_EXPERT_WAKE_ON_REQUEST = false →
         exec p.1 s = .next (s.answer p.2 g stUNREACHABLE [] [])) ∧
       ((s.power.stopped ≠ none ∨ s.power.inReset = true ∨ s.getF STATE_STATUS_STATE 0 0 = 5 ∨
           s.getF STATE_STATUS_STATE 0 0 = 6) → exec p.1 s = .next s) ∧
       (s.getF STATE_STATUS_STATE 0 0 = 2 → s.power.stopped = none → s.power.inReset = false →
         s.wakesOn STATE_EXPERT_WAKE_ON_REQUEST = true →
         Completes p.1 s fun t => t.getF STATE_STATUS_STATE 0 0 = 3 ∧ t.arrivals = s.arrivals ++ [⟨[], .segment p.2 g⟩] ∧ t.mem = s.mem)) ∧
    (∀ d f o, s.TakesNow 6 g → g.job = s.job → s.job ≠ 0 → s.segmentStatus 6 g = stDONE → s.NoErrs →
    g.marks.any id = false → place g.address = .flagWord d f o → s.poisoned g.address (if g.w64 then 8 else 4) = false →
    exec (.notify g) s = .next (((State.fireTrigger
      (s.writeN g.address (if g.w64 then 8 else 4) (atomicAfter g.aop (if g.w64 then 64 else 32)
        (s.readN g.address (if g.w64 then 8 else 4)) (leNat (g.payload.take (if g.w64 then 8 else 4)))
        (leNat ((g.payload.drop 8).take (if g.w64 then 8 else 4))))) d f
      (s.readN g.address (if g.w64 then 8 else 4) % 2 ^ 32)
      (atomicAfter g.aop (if g.w64 then 64 else 32) (s.readN g.address (if g.w64 then 8 else 4))
        (leNat (g.payload.take (if g.w64 then 8 else 4))) (leNat ((g.payload.drop 8).take (if g.w64 then 8 else 4))) %
          2 ^ 32)).answer 6 g stDONE
      (if atomicFetches g.aop then leBytes 64 (s.readN g.address (if g.w64 then 8 else 4)) else []) []).afterWork))

/-- Responses and deadlines (R187, R188, R190, R194, R211 to R213): a response that nothing awaits is discarded; the last one frees
the entry; an answer waits where what it writes at the source is held; a deadline, on the fabric or to the host, ends the operation TIMEOUT, is counted, and its
later responses will be discarded; a waiter is granted, a fenced operation released. -/
def Obligations.TrackerEvents : Prop :=
  ∀ (d : Fin 4) (id : Fin 4096) (s : State),
    (∀ e, s.InFlight d id e →
      (∀ seg64 status refused data marks, (s.tracker d).late.contains (id.val, e.req.step, seg64) = false →
        let st := s.landStatus e.req (e.req.loc + seg64 * 64) data.length status
        seg64 % 64 = 0 → seg64 / 64 < e.total → e.answered.contains (seg64 / 64) = false →
        (e.req.kind = .enqueue → s.ptrOwn e.req.ptr = false) →
        (((e.req.landing seg64 data.length).any fun x => s.accessHeld x.1 x.2.1 x.2.2) = true →
          exec (.remoteResponse d id e.req.step seg64 status refused data marks) s =
            .next (s.park (e.req.landing seg64 data.length) (.response d id e.req.step seg64 status data marks)).afterWork) ∧
        (((e.req.landing seg64 data.length).any fun x => s.accessHeld x.1 x.2.1 x.2.2) = false →
          (e.answered.length + 1 ≠ e.total →
            exec (.remoteResponse d id e.req.step seg64 status refused data marks) s =
              .next ((s.takeAnswer d e seg64 status data marks).updEntry d id fun x =>
                { x with answered := x.answered ++ [seg64 / 64], status := statusMax x.status st }).afterWork) ∧
          (e.answered.length + 1 = e.total →
            CompletesThen (.remoteResponse d id e.req.step seg64 status refused data marks) s State.afterWork fun u =>
              (u.tracker d).entries = (s.tracker d).entries.filter (fun x => x.id != id.val) ∧
              u.mem = (s.takeAnswer d e seg64 status data marks).mem ∧
              (∀ g : Fin 96, e.req.who = .core g →
                statusMax e.status st ≠ stDONE →
                u.flag REMOTE_FAIL_VALID d g = true)))) ∧
      (∀ step seg64 status refused data marks, step ≠ e.req.step → (s.tracker d).late.contains (id.val, step, seg64) = false →
        exec (.remoteResponse d id step seg64 status refused data marks) s = .next s)) ∧
    (∀ e, s.entryOf d id = some e → s.dieRunning d = true → (e.phase = .sent ∨ e.phase = .host) →
      CompletesThen (.remoteTimeout d id) s State.afterWork fun u =>
        (u.tracker d).entries = (s.tracker d).entries.filter (fun x => x.id != id.val) ∧
        (u.tracker d).late = (s.tracker d).late ++ s.unanswered e ∧
        e.deadline ≤ u.fabricNow ∧ u.mem = s.mem ∧
        (statusMax e.status stTIMEOUT = stTIMEOUT →
          u.getF TIMEOUT_COUNT_COUNT d 0 = (s.getF TIMEOUT_COUNT_COUNT d 0 + 1) % 2 ^ 64)) ∧
    (∀ step seg64 status refused data marks,
      (s.entryOf d id = none → (s.tracker d).late.contains (id.val, step, seg64) = false →
        exec (.remoteResponse d id step seg64 status refused data marks) s = .next s) ∧
      ((s.tracker d).late.contains (id.val, step, seg64) = true →
        exec (.remoteResponse d id step seg64 status refused data marks) s = .next (s.dropLate d (id.val, step, seg64)))) ∧
    (∀ e, s.entryOf d id = some e → e.phase = .fenced → (s.tracker d).fenced e.req e.order = false →
      exec (.fenceRelease d id) s = .next (s.sendEntry State.fireTrigger d e).afterWork) ∧
    (∀ r, s.dieRunning d = true → (s.tracker d).entries.length < s.trackerRoom d → (s.tracker d).nextWaiter = some r →
      let t := s.setTracker d { s.tracker d with
        waiters := (s.tracker d).waiters.erase r, turn := (r.who.index + 1) % 112 }
      ((∀ n, r.who ≠ .traverse n) → exec (.trackerGrant d) s = .next (t.admitRemote State.fireTrigger d r).afterWork) ∧
      (∀ n, r.who = .traverse n →
        ((t.travReaim d r).2 = none → exec (.trackerGrant d) s = .next (t.travReaim d r).1.afterWork) ∧
        (∀ q, (t.travReaim d r).2 = some q →
          exec (.trackerGrant d) s = .next ((t.travReaim d r).1.admitRemote State.fireTrigger d q).afterWork))) ∧
    (s.dieRunning d = true → Completes (.clearHw d) s fun t =>
      t.getF TRACKER_STATUS_HIGH_WATER d 0 = s.getF TRACKER_STATUS_IN_USE d 0 ∧
      t.getF TRACKER_STATUS_IN_USE d 0 = s.getF TRACKER_STATUS_IN_USE d 0 ∧ t.trackers = s.trackers)

/-- The pooled tier (R27, R39, R179 to R182): an access in a VALID range goes to its expander, in a LOST one ends UNREACHABLE, in none
INVALID, or with what its local extent answers where that goes before; it waits while that extent is held; a UIO request's completion, failure, poison or deadline ends it, and the range is
LOST as LOSS_ON_POISON stood when the request started; a removed expander loses its range and what is in flight to
it; a range that overlaps another, or a value that is neither EMPTY nor VALID, is refused with RANGE_ERR. -/
def Obligations.PooledTier : Prop :=
  ∀ (d : Fin 4) (id : Fin 4096) (s : State) (e : TrackEntry), s.entryOf d id = some e →
    (e.phase = .camp → s.requestHeld d e.req = true → exec (.pooledAccess d id) s = .next s) ∧
    (e.phase = .camp → s.requestHeld d e.req = false →
      let hit (n : Nat) : Bool := s.rangeState n != 0 &&
        decide (s.rangeBase n ≤ ptrAddr62 e.req.ptr ∧ ptrAddr62 e.req.ptr + e.req.len ≤ s.rangeBase n + s.rangeSize n)
      ((∀ n, n < 32 → hit n = false) →
        exec (.pooledAccess d id) s = .next (s.finish d id (statusMax (s.localSide e.req) stINVALID) []).afterWork) ∧
      ∀ n, n < 32 → hit n = true → (∀ m, m < n → hit m = false) →
        (s.rangeState n = 2 →
          exec (.pooledAccess d id) s = .next (s.finish d id (statusMax (s.localSide e.req) stUNREACHABLE) []).afterWork) ∧
        (s.rangeState n ≠ 2 → statusMax (s.localSide e.req) stDONE ≠ stDONE →
          exec (.pooledAccess d id) s = .next (s.finish d id (statusMax (s.localSide e.req) stDONE) []).afterWork) ∧
        (s.rangeState n ≠ 2 → s.localSide e.req = stDONE → s.NoErrs → CompletesThen (.pooledAccess d id) s State.afterWork fun u =>
          u.mem = s.mem ∧ u.out.length = s.out.length + 1 ∧
          ∀ x ∈ u.entryOf d id, x.phase = .uio n (s.flag POOL_EXPERT_LOSS_ON_POISON 0 0) ∧
            x.deadline = s.fabricNow + s.getF POOL_EXPERT_UIO_TIMEOUT_US 0 0 * 1000)) ∧
    (∀ (n : Fin 32) (loss : Bool) (data : List Byte) (marks : List Bool), e.phase = .uio n loss →
      (((s.tracker d).late.any fun l => l.1 == id.val && l.2.2 == hostSeg) = false →
        ((e.req.kind = .get → s.accessHeld e.req.loc data.length true = false) →
          CompletesThen (.uioCompletion d id 0 data marks) s State.afterWork (fun u =>
            (u.tracker d).entries = (s.tracker d).entries.filter (fun x => x.id != id.val) ∧ u.rangeState n = s.rangeState n ∧
            u.mem = (if e.req.kind = .get then s.localWrite d e.req.who.index e.req.loc data marks else s).mem) ∧
          (s.rangeState n = 1 → CompletesThen (.uioCompletion d id 2 data marks) s State.afterWork (fun u =>
            (u.tracker d).entries.all (fun x => x.id != id.val) = true ∧ u.rangeState n = (if loss then 2 else 1) ∧
            u.mem = (if e.req.kind = .get then s.localWrite d e.req.who.index e.req.loc data marks else s).mem))) ∧
        (s.rangeState n = 1 → CompletesThen (.uioCompletion d id 1 data marks) s State.afterWork fun u =>
          u.rangeState n = 2 ∧ u.getF RANGE_STATE_CAUSE 0 n = 2 ∧ u.mem = s.mem)) ∧
      (s.rangeState n = 1 → CompletesThen (.uioTimeout d id) s State.afterWork fun u =>
        u.rangeState n = 2 ∧ u.getF RANGE_STATE_CAUSE 0 n = 1 ∧ e.deadline ≤ u.fabricNow ∧ u.mem = s.mem)) ∧
    ∀ n : Fin 32,
      (s.rangeState n = 1 → CompletesThen (.expanderRemoved n) s State.afterWork fun u =>
        u.rangeState n = 2 ∧ u.getF RANGE_STATE_CAUSE 0 n = 3 ∧
        u.getF POOL_LOSS_COUNT_COUNT 0 0 = (s.getF POOL_LOSS_COUNT_COUNT 0 0 + 1) % 2 ^ 64 ∧
        ∀ k, k < 4 → ∀ x ∈ (u.tracker k).entries, ∀ loss, x.phase ≠ .uio n loss) ∧
      ∀ v : Fin 4,
        (2 ≤ v.val ∨ v.val = 1 ∧ s.rangeClash n = true →
          Completes (.rangeStateWrite n v) s fun t =>
            t.flag POOL_BLK_STATUS_RANGE_ERR 0 0 = true ∧ t.rangeState n = s.rangeState n) ∧
        (v.val = 0 ∨ v.val = 1 ∧ s.rangeClash n = false →
          Completes (.rangeStateWrite n v) s fun t =>
            t.rangeState n = v ∧ t.getF RANGE_STATE_CAUSE 0 n = 0)

/-! ### Ridge ports, flits and routes (chapter 08) -/

/-- The life of a port (R43, R215, R232 to R234, R238, Tables 8.7, 8.14): training ends in TRAILHEAD on the widest set of the lanes that train,
with a nonce to sign; a lost lane begins RETRAIN with its deadline and restores the lanes' calibration; RETRAIN ends UP, no wider than before,
or FAILED with CAUSE 3. -/
def Obligations.PortLifecycle : Prop :=
  ∀ (p : Fin 16) (s : State),
    (∀ (lanes : Fin 16) (margins : Word), s.portState p = portTRAINING → s.dieRunning (p / 4) = true →
      (∀ l ∈ trainLanes lanes 4, Completes (.portTrained p lanes margins) s fun t =>
        t.portState p = portTRAILHEAD ∧ t.portF PORT_STATE_WIDTH p = l.length ∧ (t.port p).lanes = l ∧
        t.reg LANE_MARGIN (p / 4) (p % 4) = margins ∧ t.free = s.free + 2 ∧
        (t.port p).nonceOwn = (Config.freeValue s.free).toNat * 2 ^ 64 + (Config.freeValue (s.free + 1)).toNat ∧
        t.sec.wanted = s.sec.wanted ++ [.trailhead p false]) ∧
      (trainLanes lanes 4 = none → exec (.portTrained p lanes margins) s = .next s)) ∧
    trainLanes 0 4 = none ∧ (∀ lanes : Fin 16, lanes.val ≠ 0 → ∃ l, trainLanes lanes 4 = some l ∧ (∀ i ∈ l, lanes.val.testBit i = true) ∧
      (lanes.val.testBit 0 = true → lanes.val.testBit 1 = true → lanes.val ≠ 15 → l = [0, 1]) ∧ (lanes.val = 15 → l = [0, 1, 2, 3]) ∧
      (l.length = 1 → ∀ i, i < 4 → lanes.val.testBit i = true → ∀ k ∈ l, k ≤ i)) ∧
    (∀ lane, s.portState p = portUP →
      Completes (.laneLockLoss p lane) s fun t =>
        t.portState p = portRETRAIN ∧ (t.port p).keepWidth = s.portF PORT_STATE_WIDTH p ∧
        (t.port p).deadline = s.fabricNow + max 1 (s.getF RIDGE_EXPERT_RETRAIN_US (p / 4) 0) * 1000 ∧
        (t.port p).buffer = (s.port p).buffer ∧ t.out = s.out ∧ t.shells = (s.restoreShells (portShells p)).shells) ∧
    (∀ lane, s.portState p ≠ portUP → exec (.laneLockLoss p lane) s = .next s) ∧
    (∀ (lanes : Fin 16) (margins : Word), s.portState p = portRETRAIN →
      (∀ l ∈ trainLanes (lanes.val &&& (15 - (s.port p).excluded)) (s.port p).keepWidth,
        Completes (.retrainDone p lanes margins) s fun t =>
          t.portState p = portUP ∧ t.portF PORT_STATE_WIDTH p = l.length ∧ l.length ≤ (s.port p).keepWidth ∧ (t.port p).lanes = l ∧
          (t.port p).parked = [] ∧ (t.port p).away = false ∧ (∀ h ∈ t.selftest.heldPorts, h.1 ≠ p.val) ∧
          t.reg LANE_MARGIN (p / 4) (p % 4) = margins ∧ t.mem = s.mem) ∧
      (trainLanes (lanes.val &&& (15 - (s.port p).excluded)) (s.port p).keepWidth = none →
        exec (.retrainDone p lanes margins) s = .next s)) ∧
    (s.portState p = portRETRAIN → s.portTested p = true → exec (.retrainTimeout p) s = .next s) ∧
    (s.portState p = portRETRAIN → s.portTested p = false →
      CompletesThen (.retrainTimeout p) s (fun u => ((u.spillPort p (s.port p)).noteHealth.linkReport p).tryCandidate) fun u =>
        u.portState p = portFAILED ∧ u.portF PORT_STATE_CAUSE p = 3 ∧ u.portF PORT_STATE_WIDTH p = 0 ∧
        (u.port p).buffer = [] ∧ (s.port p).deadline ≤ u.fabricNow) ∧
    (s.dieRunning (p / 4) = true → Completes (.portClearCounts p) s fun t =>
      t.reg PORT_ERRORS (p / 4) (p % 4) = 0 ∧ t.reg PORT_FEC (p / 4) (p % 4) = 0 ∧ t.fabric = s.fabric) ∧
    (s.portSlot p = true → exec (.flowReturn p) s = .next (s.flowsReturn p).giveAllCredits) ∧
    (s.awake = true → s.power.inReset = false → s.dieRunning (p / 4) = true → Completes (.portReset p) s fun t =>
      (t.portState p = portOFF ∨ t.portState p = portTRAINING) ∧ (t.port p).buffer = [] ∧ (t.port p).streams = [] ∧
      (t.port p).parked = [] ∧ (t.port p).verified = false ∧ (t.port p).away = false ∧ (t.port p).excluded = 0 ∧ t.mem = s.mem)

/-- What a port does with the 256 bytes of an arriving flit, and with a NAK (R10, R216 to R219, R232, R483 to R485): one whose CRC, KIND, SEQ,
VC, encryption or tag is wrong is answered by a NAK and changes nothing else of the port; a good one is accepted, and its whole packets come in; an
ACK drops what it covers and a CREDIT flit's count returns; a NAK replays the retry buffer, and too many replays of one flit begin
RETRAIN. -/
def Obligations.PortFlits : Prop :=
  ∀ (p : Fin 16) (raw : List Byte) (fec : Nat) (s : State), s.portState p = portUP →
    let f := Flit.ofBytes raw
    let nak (t : State) : Prop :=
      t.out = s.out ++ [⟨.flit, p, [], flitBytes (flitHead (s.port p).txNext ((s.port p).rxNext + 4095) 0 4) 0 []⟩] ∧
      t.fabric = s.fabric ∧ t.mem = s.mem
    (∀ unc, unc = true ∨ flitIntact raw = false ∨ f.seq ≠ (s.port p).rxNext ∨ (f.kind = 1 ∨ f.kind = 2) ∧ 11 < f.vc →
      Completes (.ridgeFlit p raw fec unc) s fun t =>
        nak t ∧ t.portF PORT_FEC_CORRECTED p = (s.portF PORT_FEC_CORRECTED p + fec) % 2 ^ 64) ∧
    (flitIntact raw = true → f.seq = (s.port p).rxNext → (f.kind = 1 ∨ f.kind = 2) → f.vc ≤ 11 →
      (f.enc = false → (s.getF CRYPT_EXPERT_REQUIRE (p / 4) 0).testBit (p % 4) = true →
        Completes (.ridgeFlit p raw fec false) s fun t =>
          nak t ∧ t.getF AUTH_FAIL_COUNT (p / 4) (p % 4) = (s.getF AUTH_FAIL_COUNT (p / 4) (p % 4) + 1) % 2 ^ 64) ∧
      ((s.portF KEY_CTRL_RX_VALID p).testBit f.slot = false → s.openFlit p f raw = none) ∧
      (f.enc = true → s.openFlit p f raw = none →
        Completes (.ridgeFlit p raw fec false) s fun t =>
          nak t ∧ t.getF AUTH_FAIL_COUNT (p / 4) (p % 4) = (s.getF AUTH_FAIL_COUNT (p / 4) (p % 4) + 1) % 2 ^ 64) ∧
      ∀ area, (f.enc = false ∧ (s.getF CRYPT_EXPERT_REQUIRE (p / 4) 0).testBit (p % 4) = false ∧ area = (raw.drop 8).take 244) ∨
          (f.enc = true ∧ s.openFlit p f raw = some area) →
        let bs := (kget RxPool.zero (s.port p).rx (pool f.vc (f.kind == 2))).bytes ++ area
        let r := takePackets f.vc (f.kind == 2) (bs.length / 40 + 1) bs
        Completes (.ridgeFlit p raw fec false) s fun t =>
          (t.port p).rxNext = ((s.port p).rxNext + 1) % 4096 ∧ t.mem = s.mem ∧
          (kget RxPool.zero (t.port p).rx (pool f.vc (f.kind == 2))).bytes = r.2 ∧
          ∀ k ∈ r.1, (⟨.other, 65536 + p, [1, k.vc, b2n k.rsp], k.bytes⟩ : Msg) ∈ t.out) ∧
    (flitIntact raw = true → f.seq = (s.port p).rxNext → (f.kind = 0 ∨ f.kind = 3) → (s.port p).streams = [] →
      Completes (.ridgeFlit p raw fec false) s fun t =>
        (t.port p).buffer = (if (s.port p).buffer.any (fun x => x.seq == f.ack) then
          ((s.port p).buffer.dropWhile fun x => x.seq != f.ack).drop 1 else (s.port p).buffer) ∧
        kget 0 (t.port p).used (pool f.cvc f.crsp) = kget 0 (s.port p).used (pool f.cvc f.crsp) - f.ccount ∧
        (t.port p).rxNext = (s.port p).rxNext ∧ t.mem = s.mem) ∧
    ∀ seq : Fin 4096,
      ((s.port p).buffer.any (fun x => x.seq == seq.val) = false → exec (.nak p seq) s = .next s) ∧
      ((s.port p).buffer.any (fun x => x.seq == seq.val) = true →
        let n := if (s.port p).replaySeq = seq.val ∧ (s.port p).replays ≠ 0 then (s.port p).replays + 1 else 1
        let again := (s.port p).buffer.dropWhile fun x => x.seq != seq.val
        Completes (.nak p seq) s fun t =>
          t.out = s.out ++ again.map (fun x => x.msg p) ∧
          t.portF PORT_ERRORS_REPLAYS p = min (2 ^ 32 - 1) (s.portF PORT_ERRORS_REPLAYS p + again.length) ∧
          (t.port p).buffer = (s.port p).buffer ∧
          t.portState p = if max 1 (s.getF RIDGE_EXPERT_RETRY_LIMIT (p / 4) 0) ≤ n then portRETRAIN else portUP)

/-- Forwarding by the route word (R219, R225, R226, R235, R236, R240): the first packet of a pool that came in on a port is taken, and its flits go
back once it has left; at its destination a packet goes to its die; else to the bundle of the first dimension still to go, its HOPS one more (or kept at
255); over a dead bundle it turns once, its sign reversed and TURNED set; where it may not, it is discarded, counted, and a request is
answered UNREACHABLE. A copy of a broadcast that meets a dead bundle goes on the other way round the ring. -/
def Obligations.PacketRouting : Prop :=
  ∀ (d : Fin 4) (k : Packet) (s : State),
    (s.dieRunning d = true →
      exec (.packetForward d none k) s = .next (s.forward d none k) ∧
      ∀ p : Fin 16,
        let y := kget RxPool.zero (s.port p).rx (pool k.vc k.rsp)
        (p.val / 4 = d.val → y.first = some k → exec (.packetForward d (some p) k) s =
          .next ((s.setPort p { s.port p with rx := kset RxPool.zero (s.port p).rx (pool k.vc k.rsp) y.take }).forward d
            (some (s.port p).dir) k).giveAllCredits) ∧
        (p.val / 4 ≠ d.val ∨ y.first ≠ some k → exec (.packetForward d (some p) k) s = .next s)) ∧
    (∀ o, s.routeDim k.route.toNat = none →
      (routeHops k.route.toNat ≠ 255 → s.forward d o k = s.emit .other s.device [0, packetDie k, k.vc, b2n k.rsp] k.bytes) ∧
      (routeHops k.route.toNat = 255 → s.forward d o k = s.dropPacket d k)) ∧
    (∀ o dim, s.routeDim k.route.toNat = some dim →
      let sign := routeSign k.route.toNat dim
      let dir := 2 * dim + (if sign = 2 then 1 else 0)
      (s.bundleDead dir = false → ∃ k' : Packet,
        s.forward d o k = s.toBundle dir k' ∧
        routeHops k'.route.toNat = min 255 (routeHops k.route.toNat + 1) ∧ k'.vc / 2 = k.vc / 2 ∧
        routeSign k'.route.toNat dim = sign ∧ k'.header = k.header ∧ k'.payload = k.payload ∧ k'.rsp = k.rsp) ∧
      (s.bundleDead dir = true → s.bundleDead (dir ^^^ 1) = false → routeTurned k.route.toNat dim = false →
        (sign = 1 ∨ sign = 2) → ∃ k' : Packet,
          s.forward d o k = s.toBundle (dir ^^^ 1) k' ∧
          routeHops k'.route.toNat = min 255 (routeHops k.route.toNat + 1) ∧ k'.vc = k.vc / 2 * 2 ∧
          routeTurned k'.route.toNat dim = true ∧ routeSign k'.route.toNat dim = 3 - sign ∧ k'.header = k.header ∧
          k'.payload = k.payload) ∧
      (s.bundleDead dir = true → (s.bundleDead (dir ^^^ 1) = true ∨ routeTurned k.route.toNat dim = true) →
        s.forward d o k = s.dropPacket d k)) ∧
    ((s.dropPacket d k).getF DROPPED_PACKETS_COUNT d 0 = (s.getF DROPPED_PACKETS_COUNT d 0 + 1) % 2 ^ 64 ∧
      (s.dropPacket d k).fabric = s.fabric ∧ (s.dropPacket d k).out = s.out ++ (if k.rsp then [] else
        [s.packetMsg .response d (k.head.reply k.answersData s.job stUNREACHABLE false) [] []])) ∧
    (s.anyPortUp = true → s.deaf = false → ∀ skip left op fields delay,
      exec (.broadcastForward none skip left op fields delay) s =
        .next (((s.castDim 0 op fields).castDim 1 op fields).castDim 2 op fields) ∧
      ∀ p : Fin 16,
        (op ≠ 0x90 → skip ≠ 0 → exec (.broadcastForward (some p) skip left op fields delay) s =
          .next (s.castOn ((s.port p).dir ^^^ 1) (skip - 1) left op fields)) ∧
        ((s.port p).dir = 4 ∨ (s.port p).dir = 5 →
          (op ≠ 0x90 → exec (.broadcastForward (some p) 0 left op fields delay) s =
            .next (s.castOn ((s.port p).dir ^^^ 1) 0 left op fields)) ∧
          exec (.broadcastForward (some p) 0 left 0x90 fields delay) s =
            .next (s.castOn ((s.port p).dir ^^^ 1) 0 left 0x90 (fields.set 3 (fields.getD 3 0 + delay + (s.port p).delay))))) ∧
    (∀ dir skip n op fields, n ≠ 0 →
      (s.bundleDead dir = false → s.castOn dir skip n op fields = s.emit .broadcast (65536 + dir) (op :: skip :: n :: fields) []) ∧
      (s.bundleDead dir = true → s.bundleDead (dir ^^^ 1) = false → s.castOn dir 0 n op fields =
        s.emit .broadcast (65536 + (dir ^^^ 1)) (op :: (s.dimSize (dir / 2) - 1 - n) :: n :: fields) [])) ∧
    (s.anyPortUp = false ∨ s.deaf = true → ∀ o skip left op fields delay, exec (.broadcastForward o skip left op fields delay) s = .next s)

/-- The trailhead exchange and the link map (R229 to R231, R237 to R239, R243, R244, R462, R475, Table 8.8): a bad proof fails the port with
CAUSE 5, a wrong geometry with CAUSE 4; a first half is answered, also where the port is UP already; a good second half verifies it; the
summit publishes a new generation when a bundle dies; a member installs a later generation and follows its TERM; a package whose ports are
off hears nothing; the signs of the old one end with the last operation under them. -/
def Obligations.TrailheadAndLinkMap : Prop :=
  ∀ (p : Fin 16) (s : State),
    (∀ (body : List Byte) delay,
      let after (u : State) : State := ((u.spillPort p (s.port p)).noteHealth.linkReport p).tryCandidate
      let proof := proofHolds s.sec.issuerKeys (fieldOf body 8 4) (fieldOf body 0 8) (body.take 56) (body.drop 56)
      let fits := fieldOf body 12 2 = (s.reg MASSIF_DIMS 0 0).toNat % 2 ^ 15 ∧ fieldOf body 14 2 = coordWord (s.peerCoord p) ∧
        fieldOf body 17 1 = ((s.port p).dir ^^^ 1)
      let mine := fieldOf body 40 16
      (s.portState p ≠ portTRAILHEAD → s.portState p ≠ portUP → exec (.trailhead p body delay) s = .next s) ∧
      ((s.portState p = portTRAILHEAD ∨ s.portState p = portUP) →
        (proof = false → CompletesThen (.trailhead p body delay) s after fun u =>
          u.portState p = portFAILED ∧ u.portF PORT_STATE_CAUSE p = 5) ∧
        (proof = true → ¬ fits → CompletesThen (.trailhead p body delay) s after fun u =>
          u.portState p = portFAILED ∧ u.portF PORT_STATE_CAUSE p = 4) ∧
        (proof = true → fits →
          (mine ≠ 0 → mine ≠ (s.port p).nonceOwn → exec (.trailhead p body delay) s = .next s) ∧
          (mine = 0 → Completes (.trailhead p body delay) s fun t =>
            t.sec.wanted = s.sec.wanted ++ [.trailhead p true] ∧ (t.port p).noncePeer = fieldOf body 24 16 ∧
            (t.port p).peerSerial = some (fieldOf body 0 8) ∧ (t.port p).delay = delay ∧ t.portState p = s.portState p) ∧
          (mine ≠ 0 → mine = (s.port p).nonceOwn →
            CompletesThen (.trailhead p body delay) s (State.tryRaise · p) fun u =>
              (u.port p).verified = true ∧ (u.port p).peerSerial = some (fieldOf body 0 8) ∧ u.portState p = s.portState p)))) ∧
    (s.deaf = true →
      (∀ device dir dead, exec (.linkReportReceive device dir dead) s = .next s) ∧
      ∀ term gen admitted dead, exec (.linkMap term gen admitted dead) s = .next s) ∧
    (∀ (device : Fin 10240) (dir : Fin 6) (dead : Bool), s.deaf = false → s.isSummit = true → (s.memberOf device).isSome = true →
      let reports := s.fabric.reports.filter (· != device.val * 8 + dir.val)
      let u := s.setFabric fun r => { r with reports := if dead then reports ++ [device.val * 8 + dir.val] else reports }
      (u.deadLinks = s.deadLinks → exec (.linkReportReceive device dir dead) s = .next u) ∧
      (u.deadLinks ≠ s.deadLinks → u.deadLinks.length ≤ 1024 →
        (∀ m ∈ u.fabric.members, ∃ k, k < 6 ∧ 1 < u.dimSize (k / 2) ∧ u.deadLinks.contains (u.bundleLink m.device k) = false) →
        CompletesThen (.linkReportReceive device dir dead) s State.driveJobs fun t =>
          t.fabric.gen = s.fabric.gen + 1 ∧ t.fabric.dead = u.deadLinks ∧ t.fabric.members = s.fabric.members ∧
          t.out.length = s.out.length + 1)) ∧
    (∀ term gen admitted dead, s.deaf = false → 3 ≤ s.role → s.term ≤ term → gen ≤ s.fabric.gen →
      exec (.linkMap term gen admitted dead) s = .next (s.noteTerm term)) ∧
    (∀ term gen admitted dead, s.deaf = false → 3 ≤ s.role → s.term ≤ term → s.fabric.gen < gen →
      Completes (.linkMap term gen admitted dead) s fun t =>
        t.fabric.gen = gen ∧ t.fabric.admitted = admitted ∧ t.fabric.dead = dead.map (fun l => ⟨l.1, l.2.1, l.2.2.1, l.2.2.2⟩) ∧
        (∀ d : Fin 4, t.getF TRAIL_STATUS_GEN d 0 = gen % 2 ^ 32) ∧ t.mem = s.mem ∧
        (term < 2 ^ 16 → (s.role = 3 ∨ s.role = 4) → t.term = term)) ∧
    (∀ term gen admitted dead, s.deaf = false → 3 ≤ s.role → term < s.term →
      exec (.linkMap term gen admitted dead) s = .next (s.satF SUMMIT_INFO_STALE_TERM 0 0 1)) ∧
    ∀ (d : Fin 4) (dst : Fin 10240),
      (∀ x ∈ (s.tracker d).entries, ¬ (x.dest = dst.val ∧ ptrSpace x.req.ptr = 1)) →
      Completes (.trailSignSwitch d dst) s fun t => t.trailOf d dst = s.trailNew dst ∧ t.trackers = s.trackers

/-! ### Membership of the massif (chapter 08) -/

/-- Standing for summit and following one (R241, R243): each role's timer makes the package stand, elect itself, join again or take
over; a candidacy of a lower identifier sends it to JOINING; TERM grows by one with a takeover; a package whose port assignment breaks R223
stays as it is with CAUSE 1; one whose ports are off hears no candidacy and sends no JOIN (R462). -/
def Obligations.SummitElection : Prop :=
  ∀ s : State,
    (s.role = 0 → s.fabric.heard = false → s.fabric.joinAt = none → s.awake = true → s.assignmentOk = true →
      Completes .trailheadWaitExpiry s fun t =>
        t.role = 1 ∧ t.out = s.out ++ s.mgmtOut 0x81 0x3FFF [s.device, s.sec.serial, s.fabric.termSeen] ∧
        s.fabric.aloneSince + s.getF MASSIF_EXPERT_TRAILHEAD_WAIT_MS 0 0 * 1000000 ≤ t.fabricNow) ∧
    (s.role = 0 → s.fabric.heard = false → s.fabric.joinAt = none → s.awake = true → s.assignmentOk = false →
      Completes .trailheadWaitExpiry s fun t => t.role = 0 ∧ t.getF MEMBER_STATE_CAUSE 0 0 = 1 ∧ t.out = s.out) ∧
    (s.role = 1 →
      Completes .electTick s (fun t =>
        t.role = 1 ∧ t.out = s.out ++ s.mgmtOut 0x81 0x3FFF [s.device, s.sec.serial, s.fabric.termSeen] ∧
        s.fabric.nextBeat ≤ t.fabricNow ∧ t.fabric.nextBeat = t.fabricNow + 1000000) ∧
      (s.fabric.lowerHeard = false →
        let t := s.timeTo (s.fabric.aloneSince + max 1 (s.getF MASSIF_EXPERT_ELECT_QUIET_MS 0 0) * 1000000)
        (t.assignmentOk = true → exec .electQuietExpiry s = .next t.electSelf) ∧
        (t.assignmentOk = false → exec .electQuietExpiry s = .next (t.setF MEMBER_STATE_CAUSE 0 0 1)))) ∧
    (∀ (device : Fin 10240) (serial term : Nat), s.deaf = true → exec (.elect device serial term) s = .next s) ∧
    (s.deaf = true → exec .joinRetry s = .next s) ∧
    (∀ (device : Fin 10240) (serial term : Nat), s.deaf = false →
      Completes (.elect device serial term) s fun t =>
        t.fabric.termSeen = max s.fabric.termSeen term ∧ t.out = s.out ∧
        t.role = if (device.val < s.device ∨ device.val = s.device ∧ serial < s.sec.serial) ∧ (s.role = 0 ∨ s.role = 1) ∧
          s.fabric.joinAt = none ∧ s.assignmentOk = true then 2 else s.role) ∧
    (∀ at_, s.deaf = false → s.fabric.joinAt = some at_ → s.role = 0 → s.assignmentOk = true →
      Completes .joinRetry s fun t =>
        t.role = 2 ∧ t.fabric.joinAt = none ∧ t.sec.wanted = s.sec.wanted ++ [.join] ∧ at_ ≤ t.fabricNow) ∧
    (s.role = 3 → Completes .memberSilenceTimeout s fun t =>
      t.role = 1 ∧ t.out = s.out ++ s.mgmtOut 0x81 0x3FFF [s.device, s.sec.serial, s.fabric.termSeen]) ∧
    (s.role = 4 → CompletesThen .standbyTakeover s State.takeOver fun u =>
      u.role = 4 ∧ s.fabric.lastBeat + 2000000 ≤ u.fabricNow ∧ u.fabric = s.fabric)

/-- Admission, presence and departure at the summit, and the answer at the joiner (R47, R241 to R245, R474, R481): ADMIT carries the
cause of Table 8.11, of two packages with one identifier the higher serial number being refused; an admission adds the member and publishes;
a departure removes it and publishes; a package whose ports are off hears none of it (R462). -/
def Obligations.SummitMembers : Prop :=
  ∀ s : State,
    (∀ (device : Fin 10240) dims term version (evidence : List Byte), s.deaf = false → s.isSummit = true →
      let serial := fieldOf evidence 8 8
      let older := s.fabric.members.any fun m => m.device == device.val && (decide (m.serial < serial) || (m.device == s.device && m.serial != serial))
      let other := s.fabric.members.any fun m => m.device == device.val && m.serial != serial
      (dims ≠ (s.reg MASSIF_DIMS 0 0).toNat % 2 ^ 15 →
        exec (.join device dims term version evidence) s = .next (s.mgmt 0x83 device [device, 1])) ∧
      (dims = (s.reg MASSIF_DIMS 0 0).toNat % 2 ^ 15 →
        (older = true → exec (.join device dims term version evidence) s = .next (s.mgmt 0x83 device [device, 2])) ∧
        (older = false →
          (s.joinProof term version evidence = false ∨ term ≠ s.term ∨ version + 16 < s.fabric.version ∨ s.policyPass evidence = false →
            exec (.join device dims term version evidence) s = .next (s.mgmt 0x83 device [device, 3])) ∧
          (s.joinProof term version evidence = true → term = s.term → s.fabric.version ≤ version + 16 → s.policyPass evidence = true →
            let u := (if other then s.mgmt 0x83 device [device, 2] else s).mgmt 0x83 device [device, 0]
            exec (.join device dims term version evidence) s =
              .next ((u.publishMembers ((s.fabric.members.filter fun m => m.device != device.val) ++
                [⟨device, serial, 0, s.fabricNow, none⟩])).publishMap).driveJobs)))) ∧
    (s.deaf = true →
      (∀ device dims term version evidence, exec (.join device dims term version evidence) s = .next s) ∧
      (∀ cause, exec (.admitReply cause) s = .next s) ∧
      (∀ device, exec (.present device) s = .next s ∧ exec (.leave device) s = .next s ∧ exec (.sync device) s = .next s) ∧
      ∀ assign, exec (.partitionReceive assign) s = .next s) ∧
    (s.deaf = false → s.role = 2 →
      Completes (.admitReply 0) s (fun t =>
        t.role = 3 ∧ t.getF MEMBER_STATE_CAUSE 0 0 = 0 ∧ t.contour.enter = true ∧ t.job = 0 ∧
        t.fabric.members = [⟨s.device, s.sec.serial, 0, 0, none⟩]) ∧
      ∀ cause : Fin 4, cause ≠ 0 → Completes (.admitReply cause) s fun t =>
        t.role = 0 ∧ t.getF MEMBER_STATE_CAUSE 0 0 = cause ∧ t.fabric.joinAt = some (s.fabricNow + 1000000000)) ∧
    (s.deaf = false → s.isSummit = true →
      (∀ device : Fin 10240, Completes (.present device) s fun t =>
        t.fabric.members.length = s.fabric.members.length ∧
        ∀ m ∈ t.fabric.members, m.device = device.val → m.present = s.fabricNow) ∧
      (∀ (device : Fin 10240) m, device.val ≠ s.device → s.memberOf device = some m →
        exec (.memberTimeout device) s = .next ((s.timeTo (m.present +
          max 2 (s.getF MASSIF_EXPERT_MEMBER_TIMEOUT_MS 0 0) * 1000000)).depart [device]).driveJobs) ∧
      (∀ device : Fin 10240, device.val ≠ s.device →
        exec (.leave device) s = .next (s.depart [device]).driveJobs ∧
        (s.fabric.members.any (fun m => m.device == device.val) = true →
          s.depart [device] = (s.publishMembers (s.fabric.members.filter fun m => !([device.val].contains m.device))).publishMap)) ∧
      (∀ device : Fin 10240, (s.memberOf device).isSome = true →
        Completes (.sync device) s fun t =>
          t.out = s.out ++ s.mgmtOut 0x86 device (memberFields s.term s.fabric.version s.device
            (standbyOf s.device s.fabric.members) s.fabric.members) ++ s.mgmtOut 0x88 device s.mapFields ∧
          t.regs = s.regs ∧ t.fabric = s.fabric) ∧
      (∀ (device : Fin 10240) (job : Nat) (m : Member), s.fabric.members = [m] → m.device = device.val → m.job ≠ 0 →
        job % 65536 ≠ m.job →
        Completes (.partitionReceive [(device, job)]) s fun t =>
          t.fabric.members = [{ m with nextJob := some (job % 65536) }] ∧ t.regs = s.regs))

/-- HEARTBEAT and MEMBERSHIP (R241, R243, R244): the summit's beat every 100 µs; a member follows a TERM at least its own and counts
an older one, and reports at the first beat of a new TERM, as the summit itself does with its own; a summit that hears a higher TERM becomes
ALONE and remembers it; a membership is adopted only with a later version or TERM (assumption 113); a package whose ports are off hears
neither (R462). -/
def Obligations.HeartbeatsAndMembership : Prop :=
  ∀ s : State,
    (s.isSummit = true → s.fabric.beatTerm < s.term →
      CompletesThen .heartbeatTick s (fun u => u.sendReport.sendState) fun u =>
        u.out = s.out ++ s.mgmtOut 0x84 0x3FFF [s.term, s.device, standbyOf s.device s.fabric.members, s.fabric.version,
          s.fabric.gen] ∧ u.fabric.beatTerm = s.term) ∧
    (s.isSummit = true → s.term ≤ s.fabric.beatTerm → Completes .heartbeatTick s fun t =>
      t.out = s.out ++ s.mgmtOut 0x84 0x3FFF [s.term, s.device, standbyOf s.device s.fabric.members, s.fabric.version,
        s.fabric.gen] ∧ s.fabric.nextBeat ≤ t.fabricNow ∧ t.fabric.nextBeat = t.fabricNow + 100000) ∧
    ∀ (term : Fin 65536) (summit standby : Fin 16384) (version gen : Nat),
      (s.deaf = true → exec (.heartbeat term summit standby version gen) s = .next s ∧
        ∀ ms, exec (.membership term version summit standby ms) s = .next s) ∧
      (s.deaf = false →
      ((s.role = 3 ∨ s.role = 4) → term.val < s.term →
        exec (.heartbeat term summit standby version gen) s = .next (s.satF SUMMIT_INFO_STALE_TERM 0 0 1) ∧
        ∀ ms, exec (.membership term version summit standby ms) s = .next (s.satF SUMMIT_INFO_STALE_TERM 0 0 1)) ∧
      ((s.role = 3 ∨ s.role = 4) → s.term ≤ term.val → s.fabric.beatTerm < term.val →
        Completes (.heartbeat term summit standby version gen) s fun t =>
          t.term = term ∧ t.fabric.beatTerm = term ∧ t.contour.reported = s.packagePos) ∧
      ((s.role = 3 ∨ s.role = 4) → term.val = s.term → term.val ≤ s.fabric.beatTerm → term.val ≤ s.fabric.memberTerm →
        version ≤ s.fabric.version → gen ≤ s.fabric.gen →
        Completes (.heartbeat term summit standby version gen) s (fun t =>
          t.getF SUMMIT_INFO_SUMMIT_ID 0 0 = summit ∧ t.getF SUMMIT_INFO_STANDBY_ID 0 0 = standby ∧
          t.fabric.lastBeat = s.fabricNow ∧ t.fabric.beats = s.fabric.beats + 1 ∧ t.term = s.term ∧ t.role = s.role ∧
          t.out = s.out ++ (if (s.fabric.beats + 1) % 16 = 0 then s.mgmtOut 0x85 summit [s.device] else []))) ∧
      ((s.role = 3 ∨ s.role = 4) → s.term ≤ term.val → term.val = s.fabric.memberTerm → version ≤ s.fabric.version → ∀ ms,
        exec (.membership term version summit standby ms) s = .next s) ∧
      ((s.role = 3 ∨ s.role = 4) → s.term ≤ term.val → (term.val ≠ s.fabric.memberTerm ∨ s.fabric.version < version) → ∀ ms,
        exec (.membership term version summit standby ms) s = .next ((s.noteTerm term).adoptMembers version
          summit standby (ms.map fun m => ⟨m.1, m.2.1, m.2.2, 0, none⟩)).tryCandidate) ∧
      (s.role = 5 → s.term < term.val →
        Completes (.heartbeat term summit standby version gen) s (fun t =>
          t.role = 0 ∧ t.fabric.heard = true ∧ t.fabric.joinAt = none ∧ t.out = s.out ∧
          t.fabric.termSeen = max s.fabric.termSeen term) ∧
        ∀ ms, Completes (.membership term version summit standby ms) s fun t =>
          t.role = 0 ∧ t.out = s.out ∧ t.fabric.termSeen = max s.fabric.termSeen term) ∧
      (s.role = 2 → s.fabric.heard = false → s.assignmentOk = true → Completes (.heartbeat term summit standby version gen) s fun t =>
        t.role = 2 ∧ t.sec.wanted = s.sec.wanted ++ [.join] ∧ t.term = term ∧ t.fabric.version = version))

/-! ### The contour and the event table (chapter 09) -/

/-- The contour at a member, its clock and its position (R243, R249, R250, R254, R459, R462): an older TERM is counted, a newer one followed,
another job's value changes no contour, an older value is counted and not adopted, a newer one is adopted, by a gated package without its
dies' acting on it; a package whose ports are off hears none; a package outside the membership takes the clock too; a position that falls, skips a step or names a phase
that members may not report is refused; a risen package position is reported; 2 ms without a packet clears FTIME_VALID. -/
def Obligations.ContourAtMember : Prop :=
  ∀ s : State,
    (∀ job term delay value sendAt, s.deaf = true → exec (.contour job term delay value sendAt) s = .next s) ∧
    (∀ (job term : Fin 65536) delay value sendAt, s.deaf = false →
      (3 ≤ s.role → term.val < s.term →
        exec (.contour job term delay value sendAt) s = .next (s.satF SUMMIT_INFO_STALE_TERM 0 0 1)) ∧
      ((s.role < 3 ∨ s.term ≤ term.val) → s.isSummit = false → s.fabric.moveTo = none →
        (job.val ≠ s.job → Completes (.contour job term delay value sendAt) s fun t =>
          (∀ d : Fin 4, t.reg CONTOUR_VALUE d 0 = s.reg CONTOUR_VALUE d 0) ∧ t.contour.lastPacket = some t.fabricNow ∧
          kget 0 t.summit.heardValues job = value + 1 ∧ t.mem = s.mem ∧ ((s.role = 3 ∨ s.role = 4) → t.term = term)) ∧
        (job.val = s.job →
          let u := (((s.takeClock sendAt delay).noteTerm term).setSummit fun r =>
            { r with heardValues := kset 0 r.heardValues job (value + 1) }).noteSeal job value
          let last := max (max (s.contourOf 0) (s.contourOf 1)) (max (s.contourOf 2) (s.contourOf 3))
          ((s.contour.newJob = true ∨ last < value) →
            (s.awake = true → exec (.contour job term delay value sendAt) s = .next ((u.adopt value sendAt).afterWork).wakeByEntry) ∧
            (s.awake = false → exec (.contour job term delay value sendAt) s = .next (u.adoptGated value sendAt).wakeByEntry)) ∧
          (s.contour.newJob = false → value < last →
            CompletesThen (.contour job term delay value sendAt) s State.wakeByEntry fun v =>
              ∀ d : Fin 4, v.reg CONTOUR_VALUE d 0 = s.reg CONTOUR_VALUE d 0 ∧
                v.getF CONTOUR_BLK_STATUS_STALE_CONTOUR d 0 =
                  min 65535 (s.getF CONTOUR_BLK_STATUS_STALE_CONTOUR d 0 + 1))))) ∧
    (∀ at_, s.contour.lastPacket = some at_ → Completes .ftimeValidExpiry s fun t =>
      at_ + 2000000 ≤ t.fabricNow ∧ ∀ d : Fin 4, t.flag CONTOUR_BLK_STATUS_FTIME_VALID d 0 = false) ∧
    (∀ (d : Fin 4) (v : Word), s.dieRunning d = true →
      (reportable v.toNat = false ∨ v.toNat < s.localPos d ∨ stepOfValue (s.localPos d) + 1 < stepOfValue v.toNat →
        Completes (.localPosWrite d v) s fun t =>
          t.flag CONTOUR_BLK_STATUS_POS_ERR d 0 = true ∧ t.localPos d = s.localPos d ∧ t.aheadPos d = s.aheadPos d) ∧
      (reportable v.toNat = true → s.localPos d ≤ v.toNat →
        (stepOfValue v.toNat = stepOfValue (s.localPos d) → s.aheadPos d = 0 →
          Completes (.localPosWrite d v) s fun t => t.localPos d = v.toNat ∧ t.aheadPos d = 0) ∧
        (stepOfValue v.toNat = stepOfValue (s.localPos d) + 1 →
          Completes (.localPosWrite d v) s fun t =>
            if s.posOpen d then t.localPos d = v.toNat
            else t.aheadPos d = max v.toNat (s.aheadPos d) ∧ t.localPos d = s.localPos d))) ∧
    (3 ≤ s.role → s.liveDies ≠ [] → s.contour.reported < s.packagePos →
      Completes .contourReport s fun t =>
        t.out = (s.mgmt 0x91 (s.getF SUMMIT_INFO_SUMMIT_ID 0 0) [s.job, s.packagePos,
          max (max (s.contourOf 0) (s.contourOf 1)) (max (s.contourOf 2) (s.contourOf 3))]).out ∧
        t.contour.reported = s.packagePos ∧ s.contour.nextReport ≤ t.fabricNow ∧ t.contour.nextReport = t.fabricNow + 5000)

/-- The summit's contour (R248, R251 to R253): a member's position is recorded and drives its job; the idle contour advances a step,
or goes again with REPEAT; a new summit publishes the idle contour and every job once its 100 µs are over, from what members of job 0x0000 saw
last. -/
def Obligations.ContourAtSummit : Prop :=
  ∀ s : State, s.isSummit = true →
    (∀ (device : Fin 10240) (job : Fin 65536) (position lastSeen : Nat) m x, s.deaf = false → s.memberOf device = some m → m.job = job.val →
      job.val ≠ 0 → s.sumJob job = some x → s.summit.takeover = none →
      CompletesThen (.contourReportReceive device job position lastSeen) s (State.driveFrom · job) fun u =>
        ∃ y, u.sumJob job = some y ∧ kget 0 y.positions device = position + 1 ∧ kget 0 y.seen device = lastSeen + 1 ∧
          y.contour = x.contour ∧ u.out = s.out) ∧
    (∀ device job position lastSeen, s.deaf = true → exec (.contourReportReceive device job position lastSeen) s = .next s) ∧
    (∀ (device : Fin 10240) position lastSeen, s.deaf = false → (s.memberOf device).isSome = true → s.summit.takeover.isSome = true →
      Completes (.contourReportReceive device 0 position lastSeen) s fun t =>
        t.summit.idle = max s.summit.idle (stepOfValue lastSeen) ∧ t.out = s.out) ∧
    Completes .idleContourTick s (fun t =>
      t.summit.idle = s.summit.idle + 1 ∧ t.summit.idleAt = t.fabricNow + 100000000 ∧ s.summit.idleAt ≤ t.fabricNow ∧
      t.out = s.out ++ s.mgmtOut 0x90 0x3FFF [0, s.term, 0, 0, contourAt (s.summit.idle + 1) 0, t.fabricNow]) ∧
    Completes .contourRepeatTick s (fun t =>
      t.summit.idle = s.summit.idle ∧ s.summit.lastSent + 1000000 ≤ t.fabricNow ∧ t.summit.lastSent = t.fabricNow ∧
      t.out = s.out ++ s.mgmtOut 0x90 0x3FFF [0, s.term, 1, 0, contourAt s.summit.idle 0, t.fabricNow]) ∧
    ∀ at_, s.summit.takeover = some at_ →
      CompletesThen .takeoverPublish s State.resumeAll fun u =>
        u.summit.takeover = none ∧ at_ ≤ u.fabricNow ∧
        u.out = s.out ++ s.mgmtOut 0x90 0x3FFF [0, s.term, 0, 0, contourAt s.summit.idle 0, u.fabricNow]

/-- Event entries (R256 to R258, R260, Table 9.4): a refused write sets ENTRY_ERR and leaves the entry; a disabled entry takes what
is written; ARG registers are plain; at a deadline the die's due entries fire, each once, with its counts and its time; a prefetch's end is its
STATUS. -/
def Obligations.EventEntries : Prop :=
  ∀ (d : Fin 4) (e : Fin 256) (s : State), s.dieRunning d = true →
    (∀ w camp, s.entryRefused d e (bits w.toNat 55 52) camp = true →
      CompletesThen (.eventCtrlWrite d e 0 w camp) s State.afterWork fun u =>
        u.flag CONTOUR_BLK_STATUS_ENTRY_ERR d 0 = true ∧ u.reg EVENT_CTRL d e = s.reg EVENT_CTRL d e) ∧
    (∀ w camp, s.entryRefused d e (bits w.toNat 55 52) camp = false → w.toNat.testBit 63 = false →
      CompletesThen (.eventCtrlWrite d e 0 w camp) s State.afterWork fun u =>
        u.flag EVENT_CTRL_ENABLE d e = false ∧ u.getF EVENT_CTRL_ARMED d e = bits w.toNat 62 62 ∧
        u.getF EVENT_CTRL_MODE d e = bits w.toNat 56 56 ∧ u.getF EVENT_CTRL_ACTION d e = bits w.toNat 55 52 ∧
        u.getF EVENT_CTRL_OFFSET_US d e = bits w.toNat 31 0 ∧ u.flag EVENT_CTRL_PENDING d e = false ∧
        u.getF EVENT_CTRL_FIRE_COUNT d e = s.getF EVENT_CTRL_FIRE_COUNT d e ∧ u.mem = s.mem) ∧
    (∀ w camp,
      exec (.eventCtrlWrite d e 2 w camp) s = .next (s.setReg ARG0 d e w) ∧
      exec (.eventCtrlWrite d e 3 w camp) s = .next (s.setReg ARG1 d e w) ∧
      exec (.eventCtrlWrite d e 4 w camp) s = .next (s.setReg ARG2 d e w)) ∧
    (∀ w camp, s.flag EVENT_CTRL_ENABLE d e = false →
      CompletesThen (.eventCtrlWrite d e 1 w camp) s State.afterWork fun u =>
        u.reg THRESHOLD d e = w ∧ u.reg EVENT_CTRL d e = s.reg EVENT_CTRL d e) ∧
    ((s.flag EVENT_CTRL_PENDING d e && s.flag EVENT_CTRL_ENABLE d e && s.flag EVENT_CTRL_ARMED d e) = false →
      exec (.deadlineFire d e) s = .next s) ∧
    (s.flag EVENT_CTRL_PENDING d e = true → s.flag EVENT_CTRL_ENABLE d e = true → s.flag EVENT_CTRL_ARMED d e = true → s.awake = true →
      exec (.deadlineFire d e) s = .next ((s.timeTo (s.entryDue d e)).fireDue d).afterWork) ∧
    (s.flag EVENT_CTRL_PENDING d e = true → s.flag EVENT_CTRL_ENABLE d e = true → s.flag EVENT_CTRL_ARMED d e = true → s.awake = true →
      s.getF EVENT_CTRL_ACTION d e = 0 → (∀ k, k < 256 → k ≠ e.val → s.flag EVENT_CTRL_PENDING d k = false) →
      CompletesThen (.deadlineFire d e) s State.afterWork fun u =>
        u.flag EVENT_CTRL_PENDING d e = false ∧ u.flag EVENT_CTRL_ARMED d e = false ∧ u.flag EVENT_CTRL_FIRED d e = true ∧
        u.getF EVENT_CTRL_FIRE_COUNT d e = (s.getF EVENT_CTRL_FIRE_COUNT d e + 1) % 256 ∧
        u.getF EVENT_CTRL_STATUS d e = stDONE ∧ s.entryDue d e ≤ u.fabricNow ∧
        u.reg FIRED_FTIME d e = BitVec.ofNat 64 u.fabricNow) ∧
    (s.flag EVENT_CTRL_PENDING d e = true → s.flag EVENT_CTRL_ENABLE d e = true → s.flag EVENT_CTRL_ARMED d e = true →
      s.getF STATE_STATUS_STATE 0 0 = 2 →
      Completes (.deadlineFire d e) s fun t =>
        t.getF STATE_STATUS_STATE 0 0 = 3 ∧ t.flag EVENT_CTRL_PENDING d e = true) ∧
    ∀ c st data, (s.tracker d).done = [⟨.mover c e, st, data⟩] → st < 256 →
      Completes (.prefetchComplete d) s fun t => t.getF EVENT_CTRL_STATUS d e = st ∧ (t.tracker d).done = []

/-! ### The cornice (chapter 12) -/

/-- Seal, collapse, resume and re-shard at a member (R327, R331, R340, R343, R344, R346, R349, R460, R462): an order of another job, step
or TRY is ignored; COLLAPSE enters COLLAPSING; each die drains, then restores; RESUME relaunches from RESTORED; a gated package keeps an
order and wakes for it, one whose fabric is off takes none; the START or ABSENT due first goes again with its own step, unless its shard has
ended; the commands of CORNICE_CMD ask the summit or are refused. -/
def Obligations.CorniceAtMember : Prop :=
  ∀ s : State,
    (∀ (job : Fin 65536) step try_ cause halt, s.deaf = false → s.awake = true → 3 ≤ s.role → job.val = s.job → s.job ≠ 0 →
      (s.collapseTaken step try_ = false →
        exec (.collapse job step try_ cause halt none) s = .next (s.satF CORNICE_BLK_STATUS_IGNORED_ORDERS 0 0 1)) ∧
      (s.collapseTaken step try_ = true →
        CompletesThen (.collapse job step try_ cause halt none) s
          (fun u => ((u.collapseStop step none).collapseFlush step cause).afterWork) fun u =>
            u.corState = 4 ∧ u.corStep = step % 2 ^ 40 ∧ u.getF CORNICE_STATUS_TRY 0 0 = try_ % 256 ∧
            u.flag CORNICE_STATUS_HALTED 0 0 = halt ∧ u.getF COLLAPSE_INFO_CAUSE 0 0 = cause % 256 ∧
            u.getF COLLAPSE_INFO_STEP 0 0 = step % 2 ^ 40)) ∧
    (∀ (job : Fin 65536) step try_ cause halt sendAt (mode : Fin 2) effective epoch e,
      (s.deaf = true → exec (.collapse job step try_ cause halt e) s = .next s ∧ exec (.resume job step try_ sendAt) s = .next s ∧
        exec (.reshard job mode effective epoch) s = .next s) ∧
      (s.deaf = false → s.awake = false → 3 ≤ s.role → job.val = s.job → s.job ≠ 0 →
        exec (.collapse job step try_ cause halt none) s = .next (s.holdOrder (.collapse step try_ cause halt none)) ∧
        exec (.resume job step try_ sendAt) s = .next (s.holdOrder (.resume step try_ sendAt)))) ∧
    (∀ d : Fin 4, s.corState = 4 → s.cor.draining.contains d.val = true → s.dieRunning d = true → s.drainOver d = true →
      s.journalHeld d = false → s.storeHeld d s.corStep = false →
      CompletesThen (.collapseDrainDone d) s (State.collapseRestore · d) fun u =>
        u.cor.draining = s.cor.draining.filter (· != d.val) ∧ u.cor.restoring = s.cor.restoring ++ [d.val] ∧ u.mem = s.mem) ∧
    (∀ d : Fin 4,
      let u := (s.collectOuter d).settleRestores d
      (u.corState ≠ 4 ∨ u.cor.restoring.contains d.val = false ∨ u.engBlocks d 3 ≠ [] →
        exec (.collapseRestoreDone d) s = .next u) ∧
      (u.corState = 4 → u.cor.restoring.contains d.val = true → u.engBlocks d 3 = [] →
        CompletesThen (.collapseRestoreDone d) s State.collapseReport fun v =>
          v.cor.restoring = u.cor.restoring.filter (· != d.val) ∧ v.corState = 4 ∧
          v.localPos d = contourAt u.corStep 0xEFFFFF % 2 ^ 64 ∧ v.aheadPos d = 0 ∧ v.getF CSTORE_USE_USED 0 d = 0)) ∧
    (∀ (job : Fin 65536) step try_ sendAt, s.deaf = false → s.awake = true → 3 ≤ s.role → job.val = s.job → s.job ≠ 0 →
      (s.corState = 5 → s.corStep = step → s.getF CORNICE_STATUS_TRY 0 0 = try_ →
        exec (.resume job step try_ sendAt) s = .next (s.resumeStep step sendAt).afterWork) ∧
      (s.corState ≠ 5 ∨ s.corStep ≠ step ∨ s.getF CORNICE_STATUS_TRY 0 0 ≠ try_ →
        exec (.resume job step try_ sendAt) s = .next s)) ∧
    (∀ x, s.nextResend = some x →
      let u := (s.timeTo (x.resendAt.getD 0)).setRed fun r => { r with sent := r.sent.erase x }
      (x.resendAt.isSome = true ∧ s.dieRunning x.die = true ∧ x ∈ s.red.sent ∧
        ∀ y ∈ s.red.sent, y.resendAt.isSome = true → s.dieRunning y.die = true → x.resendAt.getD 0 ≤ y.resendAt.getD 0) ∧
      ((∀ run, s.shardRun x.bucket x.shard = some run → run.status = none) →
        exec .reduceControlResend s = .next (u.redIssue { x with resendAt := none })) ∧
      (∀ run, s.shardRun x.bucket x.shard = some run → run.status ≠ none → exec .reduceControlResend s = .next u)) ∧
    (∀ (job : Fin 65536) effective (epoch : Fin 65536), s.deaf = false → 3 ≤ s.role → job.val = s.job → s.job ≠ 0 →
      CompletesThen (.reshard job 0 effective epoch) s State.afterWork fun u =>
        u.flag CORNICE_STATUS_RESHARD_PENDING 0 0 = true ∧ u.cor.drain = some (effective, epoch.val) ∧
        kget none u.summit.heardDrains job = some (effective, epoch.val) ∧ u.corState = s.corState) ∧
    (∀ mode : Fin 2,
      (s.job = 0 → exec (.reshardCmd mode) s = .next (s.setF CORNICE_BLK_STATUS_CMD_ERR 0 0 1)) ∧
      (s.job ≠ 0 →
        exec (.reshardCmd mode) s = .next (s.mgmt 0x95 (s.getF SUMMIT_INFO_SUMMIT_ID 0 0) [s.job, mode]))) ∧
    (s.flag CORNICE_STATUS_HALTED 0 0 = true →
      exec .resumeCmd s = .next (s.mgmt 0x93 (s.getF SUMMIT_INFO_SUMMIT_ID 0 0) [s.job])) ∧
    (s.flag CORNICE_STATUS_HALTED 0 0 = false → exec .resumeCmd s = .next (s.setF CORNICE_BLK_STATUS_CMD_ERR 0 0 1)) ∧
    ∀ dies : Fin 16, Completes (.clearStale dies) s fun t =>
      (∀ d, d < 4 → (t.getF CORNICE_STATUS_STALE 0 0).testBit d =
        ((s.getF CORNICE_STATUS_STALE 0 0).testBit d && !dies.val.testBit d)) ∧
      t.corState = s.corState ∧ t.corStep = s.corStep

/-- The summit's side of a step (R328, R329, R337 to R339, R344, R346): reports are recorded by TRY; a FAULT orders a collapse with the
next TRY; a new summit keeps what it is told, re-shard and resume requests among it, until it publishes (R253); COLLAPSE goes again while a
member is missing; a fenced die's hold passes; a re-shard is scheduled, or ordered at once. -/
def Obligations.CorniceAtSummit : Prop :=
  ∀ (job : Fin 65536) (x : SumJob) (s : State), s.isSummit = true → s.deaf = false → s.sumJob job = some x →
    (∀ (device : Fin 10240) m step try_ (fenced : Fin 16) (status : Fin 256) halted, s.memberOf device = some m → m.job = job.val →
      let x1 := x.noteFenced device fenced step s.fabricNow
      (s.summit.takeover.isSome = true → ∀ state, exec (.stepState device job step try_ state fenced status halted) s =
        .next (s.setSumJob { x1 with told := x1.told ++ [⟨device, step, try_, state, status, halted⟩] })) ∧
      (s.summit.takeover = none →
      ((step ≠ stepOfValue x.contour ∨ phaseOf x.contour = phSEAL ∨ try_ ≠ x.tried) → ∀ state,
        exec (.stepState device job step try_ state fenced status halted) s = .next ((s.setSumJob x1).driveFrom job)) ∧
      (step = stepOfValue x.contour → phaseOf x.contour ≠ phSEAL → try_ = x.tried →
        CompletesThen (.stepState device job step try_ 1 fenced status halted) s (State.driveFrom · job) (fun u =>
          ∃ y, u.sumJob job = some y ∧ y.finals.contains device.val = true ∧ y.acked.contains device.val = true ∧
            y.phase = if x.phase = 2 then 1 else x.phase) ∧
        (status.val = stCHECK ∨ status.val = stUNREACHABLE →
          Completes (.stepState device job step try_ 2 fenced status halted) s fun t =>
            ∃ y, t.sumJob job = some y ∧ y.phase = 2 ∧ y.tried = x.tried + 1 ∧ y.count = x.count + 1 ∧
              y.cause = (if status.val = stCHECK then 1 else 2) ∧ y.acked = [] ∧ y.restored = [] ∧ y.finals = [] ∧
              t.out.length = s.out.length + 1) ∧
        (x.phase = 2 →
          CompletesThen (.stepState device job step try_ 3 fenced status halted) s (State.driveFrom · job) fun u =>
            ∃ y, u.sumJob job = some y ∧ y.restored.contains device.val = true ∧ y.phase = 2)))) ∧
    (∀ (device : Fin 10240) (die : Fin 4) f,
      x.firsts.find? (fun g => g.device == device.val && g.die == die.val && g.step == stepOfValue x.contour) = some f →
      CompletesThen (.rejoinHoldExpiry job device die) s (State.driveFrom · job) fun u =>
        f.time + s.corSet CORNICE_EXPERT_REJOIN_HOLD_MS * 1000000 ≤ u.fabricNow ∧
        ∃ y, u.sumJob job = some y ∧ y.holdOver (stepOfValue x.contour) device die = true ∧ y.contour = x.contour) ∧
    (x.phase = 2 → (s.jobDevices job).all (fun d => x.acked.contains d) = false →
      Completes (.collapseResendTick job) s fun t =>
        x.resendAt ≤ t.fabricNow ∧ t.out = s.out ++ s.mgmtOut 0x92 0x3FFF [x.job, stepOfValue x.contour, x.tried, x.cause,
          b2n x.halt + 2 * b2n x.newEpoch.isSome, x.newEpoch.getD 0, t.fabricNow]) ∧
    (job.val ≠ 0 →
      (s.summit.takeover.isSome = true → ∀ mode : Fin 2,
        exec (.reshardReq job mode) s = .next (s.setSumJob { x with asked := some (max mode (x.asked.getD 0)) })) ∧
      (s.summit.takeover = none → x.phase ≠ 2 → x.drain = none →
        Completes (.reshardReq job 0) s fun t =>
          t.out = s.out ++ s.mgmtOut 0x96 0x3FFF [job, 0, stepOfValue x.contour + 1, (x.epoch + 1) % 65536] ∧
          ∃ y, t.sumJob job = some y ∧ y.drain = some (stepOfValue x.contour + 1, (x.epoch + 1) % 65536) ∧ y.phase = x.phase) ∧
      (∀ mode : Fin 2, s.summit.takeover = none → mode.val = 1 ∨ x.phase = 2 → CompletesThen (.reshardReq job mode) s (fun u => (u.applyPartition x.job).driveJobs) fun u =>
        ∃ y, u.sumJob job = some y ∧ y.phase = 2 ∧ y.cause = 3 ∧ y.tried = x.tried + 1 ∧ y.count = 0 ∧ y.halt = false ∧
          y.epoch = (x.epoch + 1) % 65536 ∧ y.drain = none)) ∧
    (s.summit.takeover.isSome = true → exec (.resumeRequest job) s = .next (s.setSumJob { x with resumeAsked := true })) ∧
    (s.summit.takeover = none → x.phase = 2 → x.halt = true →
      CompletesThen (.resumeRequest job) s (State.driveFrom · job) fun u =>
        ∃ y, u.sumJob job = some y ∧ y.resumeAsked = true ∧ y.phase = 2)

/-! ### Gradient reduction (chapter 10) -/

/-- REDUCE_PUTs of every KIND that are refused (R27, R184, R209, R276, R294), or that find no reduction of their step; what the control
packets of the reduction do to their shard (R278, R284 to R288, Table 10.6). -/
def Obligations.ReductionControl : Prop :=
  (∀ row ∈ reduceCommands, ∀ (epoch : Fin 65536) (g : Segment) (s : State), locKind g.address = row.1 →
     let due (u : State) : State := if row.2.2 then u.afterWork else u
     let d := shardDie (locShard g.address)
     let answer (st : Nat) : Msg := s.packetMsg .response d ((g.head 4 s.device).reply false s.job st false) [] []
     let plain : Nat := if g.marks.any id then stPOISONED else stDONE
     s.MeetsNow g (s.reduceExtents g) →
     ((g.job ≠ s.job ∨ s.job = 0) →
       CompletesThen (row.2.1 epoch g) s due fun u =>
         u.red = s.red ∧ u.mem = s.mem ∧
         u.getF JOB_REJECT_COUNT_COUNT d 0 = (s.getF JOB_REJECT_COUNT_COUNT d 0 + 1) % 2 ^ 64 ∧
         u.out = s.out ++ [answer (s.reduceStatus epoch g)]) ∧
     (g.job = s.job → s.job ≠ 0 → s.reduceStatus epoch g ≠ stDONE →
       CompletesThen (row.2.1 epoch g) s due fun u =>
         u.red = s.red ∧ u.mem = s.mem ∧ u.regs = s.regs ∧
         u.out = s.out ++ [answer (s.reduceStatus epoch g)]) ∧
     (g.job = s.job → s.job ≠ 0 → s.reduceStatus epoch g = stDONE → s.red.launched ≠ some g.step →
       (((row.1 = 2 ∨ row.1 = 3) → s.isSealed g.step = true ∨ g.step < s.red.launched.getD 0) →
         exec (row.2.1 epoch g) s = .next (due (s.answerAt d 4 g plain [] []))) ∧
       ((row.1 = 2 ∨ row.1 = 3) → s.isSealed g.step = false → s.red.launched.getD 0 ≤ g.step →
         exec (row.2.1 epoch g) s = .next (due ((s.setRed fun r => { r with
           early := r.early ++ [(g.step, row.1, g.address, g.srcDev, leNat (g.payload.take 1))] }).answerAt d 4 g plain [] []))))) ∧
  ∀ (epoch : Fin 65536) (g : Segment) (s : State) (br : BucketRun) (x : ShardRun),
    (∀ n, s.Reduces 2 epoch g br x → s.nodeOf br x g.srcDev false = some n → n.missing = false →
      leNat (g.payload.take 1) % 2 = 0 →
      CompletesThen (.start epoch g) s (State.reduceAck · g) fun u =>
        ∃ y m, u.shardRun br.bucket x.shard = some y ∧ y.node n.pos = some m ∧ m.started = true ∧ m.heldAbsent = false ∧
          (x.admitted = true → m.goSent = true)) ∧
    (∀ n, s.Reduces 3 epoch g br x → x.nodes.find? (fun m => m.missing && m.ownFrom == some g.srcDev) = none →
      (x.pos = 0 ∨ s.posDevice br.cfg.group x.shard 0 ≠ g.srcDev) →
      s.nodeOf br x g.srcDev false = some n → n.missing = false →
      (leNat (g.payload.take 1) = 2 → exec (.absent epoch g) s = .next ((s.shardFailed br x.shard).reduceAck g).afterWork) ∧
      (s.straggler br.cfg.group = 0 → leNat (g.payload.take 1) ≠ 1 → leNat (g.payload.take 1) ≠ 2 →
        exec (.absent epoch g) s = .next ((s.setShardRun (x.setNode
          { n with heldAbsent := true, started := false, goSent := false })).reduceAck g).afterWork) ∧
      (leNat (g.payload.take 1) = 1 ∨ (s.straggler br.cfg.group ≠ 0 ∧ leNat (g.payload.take 1) ≠ 2) →
        CompletesThen (.absent epoch g) s (fun u => (u.reduceAck g).afterWork) fun u =>
          ∃ y m, u.shardRun br.bucket x.shard = some y ∧ y.node n.pos = some m ∧ m.missing = true)) ∧
    (s.Reduces 4 epoch g br x → x.pos ≠ 0 → x.status = none →
      s.posDevice br.cfg.group x.shard (heapParent x.pos) = g.srcDev → x.next = 0 → x.nodes ≠ [] →
      exec (.go epoch g) s = .next ((s.setShardRun { x with goGot := true }).reduceAck g).afterWork) ∧
    (s.Reduces 5 epoch g br x → (s.resultTargets br x).contains g.srcDev = false → x.next = 0 → x.nodes ≠ [] →
      exec (.resend epoch g) s = .next ((s.setShardRun { x with
        asked := x.asked ++ [(g.srcDev, locBlock g.address, min (blockCount g.payload) (br.cfg.blocks - locBlock g.address))] }).reduceAck g).afterWork) ∧
    (s.Reduces 6 epoch g br x → s.ownBlock br x.shard (locBlock g.address) = none → locBlock g.address < br.cfg.blocks →
      CompletesThen (.ownReq epoch g) s (fun u => (u.reduceAck g).afterWork) fun u =>
        ∃ y, u.shardRun br.bucket x.shard = some y ∧ y.withheld = some .poison) ∧
    (∀ o, s.Reduces 6 epoch g br x → leNat (g.payload.take 2) = 1 → s.ownBlock br x.shard (locBlock g.address) = some o →
      o.2.2.2 = false → locBlock g.address + 1 < br.cfg.blocks →
      exec (.ownReq epoch g) s = .next (((s.orFlags DIE_ENGINE_FLAGS_RED (shardDie x.shard) 0 br.cfg.group 2 o.2.1).redSend
        (shardDie x.shard) g.srcDev 7 br.bucket x.shard (locBlock g.address) o.1.bytes).reduceAck g).afterWork) ∧
    (s.Reduces 8 epoch g br x → x.withheld = none → x.status = none →
      exec (.bypassed epoch g) s = .next ((s.setShardRun { x with withheld := some .bypassed }).reduceAck g)) ∧
    (s.Reduces 9 epoch g br x →
      (x.status = none → exec (.fetchReq epoch g) s =
        .next ((s.setShardRun { x with fetchers := x.fetchers ++ [g.srcDev] }).reduceAck g)) ∧
      (x.status ≠ none → x.nextResult = br.cfg.blocks → exec (.fetchReq epoch g) s = .next ((s.sendFinals br x g.srcDev).reduceAck g)) ∧
      (x.status ≠ none → x.nextResult ≠ br.cfg.blocks → exec (.fetchReq epoch g) s = .next (s.reduceAck g)))

/-- What the data packets of the reduction do to their shard (R275, R278, R281, R285, R286, R289): partial and own blocks land in
the slots of their sender; a result block out of turn is kept, one that fails its check is asked for again; fetched final
values are written and counted, and the noise trailer after the last, in whichever segment it falls, ends the shard (R285). -/
def Obligations.ReductionData : Prop :=
  ∀ (epoch : Fin 65536) (g : Segment) (s : State) (br : BucketRun) (x : ShardRun),
    (∀ n, s.Reduces 0 epoch g br x → s.nodeOf br x g.srcDev false = some n → n.missing = false →
      CompletesThen (.partialBlocks epoch g) s (State.reduceAck · g) fun u =>
        u.mem = s.mem ∧ ∃ y m, u.shardRun br.bucket x.shard = some y ∧ y.node n.pos = some m ∧ m.lastAt = s.fabricNow ∧
          ∀ e ∈ (s.segRecords br g).2.1, kget none m.blocks e.1 = some e.2) ∧
    (∀ n, s.Reduces 7 epoch g br x → x.nodes.find? (fun m => m.missing && m.ownFrom == some g.srcDev) = some n →
      CompletesThen (.own epoch g) s (State.reduceAck · g) fun u =>
        u.mem = s.mem ∧ ∃ y m, u.shardRun br.bucket x.shard = some y ∧ y.node n.pos = some m ∧
          ∀ e ∈ (s.segRecords br g).2.1, kget none m.owns e.1 = some e.2) ∧
    (∀ e, s.Reduces 1 epoch g br x → x.status = none → (s.segRecords br g).2.1 = [e] → x.nextResult < e.1 →
      e.1 + 1 ≠ br.cfg.blocks →
      (blockChecks br.cfg.wire e.2 = true → kget none x.results x.nextResult = none →
        CompletesThen (.result epoch g) s (fun u => (u.reduceAck g).afterWork) fun u =>
          u.mem = s.mem ∧ ∃ y, u.shardRun br.bucket x.shard = some y ∧ y.nextResult = x.nextResult ∧
            kget none y.results e.1 = some e.2 ∧ y.status = none) ∧
      (blockChecks br.cfg.wire e.2 = false → kget none x.results x.nextResult = none →
        kget 0 x.checks (2 ^ 40 + e.1) = 0 →
        CompletesThen (.result epoch g) s (fun u => (u.reduceAck g).afterWork) fun u =>
          u.mem = s.mem ∧ ∃ y, u.shardRun br.bucket x.shard = some y ∧ kget 0 y.checks (2 ^ 40 + e.1) = 1 ∧
            y.nextResult = x.nextResult)) ∧
    (s.Reduces 10 epoch g br x → x.fetching = true → x.status = none →
      let b0 := locBlock g.address + g.seg64 / 4
      let n := min (g.payload.length / 256) (br.cfg.blocks - b0)
      let tail := g.payload.drop (n * 256)
      (b0 + n < br.cfg.blocks ∨ tail.length < 24 → s.NoErrs →
        CompletesThen (.resultFp32 epoch g) s (fun u => (u.reduceAck g).afterWork) fun u =>
          ∃ y, u.shardRun br.bucket x.shard = some y ∧ y.nextResult = (if n = 0 then x.nextResult else b0 + n) ∧ y.carried = true ∧
            y.status = none) ∧
      (br.cfg.blocks ≤ b0 + n → 24 ≤ tail.length → s.NoErrs →
        CompletesThen (.resultFp32 epoch g) s (fun u => ((u.shardFinal br x.shard).reduceAck g).afterWork) fun u =>
          ∃ y, u.shardRun br.bucket x.shard = some y ∧ y.trailer = some (readTrailer tail) ∧ y.count = (readTrailer tail).2.2 ∧
            y.carried = true ∧ y.status = none)) ∧
    (s.Reduces 10 epoch g br x → (x.fetching = false ∨ x.status ≠ none) →
      exec (.resultFp32 epoch g) s = .next (s.reduceAck g).afterWork)

/-- Readiness, admission, additions and deadlines of the reduction (R266, R267, R272, R277, R284, R287, R458): STEP_READY must rise; nothing is admitted, scanned or folded by a gated package;
a shard is admitted with its whole reservation; a bucket enters flight once; a scan that finds a NaN withholds the bucket; an adder folds when it may; under WAIT a deadline
declares nobody missing. -/
def Obligations.ReductionProgress : Prop :=
  ∀ s : State,
    (∀ (d : Fin 4) (step : BitVec 40),
      (s.dieRunning d = false ∨ step.toNat + 1 ≤ kget 0 s.red.ready d →
        Completes (.stepReady d step) s fun t => t.flag RED_BLK_STATUS_CFG_ERR 0 0 = true ∧ t.red = s.red) ∧
      (s.dieRunning d = true → kget 0 s.red.ready d ≤ step.toNat →
        exec (.stepReady d step) s = .next ((s.setRed fun r => { r with ready := kset 0 r.ready d (step.toNat + 1) }).writePos d
          (contourAt step.toNat phBWD)))) ∧
    (∀ (b : Fin 4096) (d : Fin 4) br, s.bucketRun b = some br → br.status = none → br.counted = [] → s.dieRunning d = true → s.awake = true → s.mayFly br = true →
      s.reserveShards br d ≠ s →
      CompletesThen (.bucketAdmit b d) s (fun u => (u.openShards b d).afterWork) fun u =>
        (∀ x ∈ u.red.shards, x.admitted = true → x ∈ s.red.shards ∨ x.reserved = br.cfg.stage) ∧
        (∃ c, u.bucketRun b = some c ∧ c.inFlight = true) ∧
        (br.inFlight = true → u.regs = s.regs) ∧ u.mem = s.mem) ∧
    (∀ (b : Fin 4096) (d : Fin 4) br, s.bucketRun b = some br → s.dieRunning d = true → s.awake = true → s.lateDie br d = true → s.reserveShards br d ≠ s →
      exec (.bucketAdmit b d) s = .next ((s.reserveShards br d).openShards b d).afterWork) ∧
    (∀ (b : Fin 4096) br, s.bucketRun b = some br →
      let dies := s.liveDies.filter fun d => br.scan.contains d
      dies ≠ [] → s.awake = true →
      ((∀ d ∈ dies, s.rangeHasNan br d = false) →
        exec (.quarantineScanDone b) s = .next ((List.range 4).foldl (fun u d => u.startShards b d)
          (s.setBucketRun { br with scan := br.scan.filter fun d => !dies.contains d })).afterWork) ∧
      ((∃ d ∈ dies, s.rangeHasNan br d = true) →
        CompletesThen (.quarantineScanDone b) s (fun u => ((List.range 4).foldl (fun v d => v.startShards b d) u).afterWork) fun u =>
          ∃ c, u.bucketRun b = some c ∧ c.quarantined = true ∧ c.scan = br.scan.filter fun d => !dies.contains d)) ∧
    (∀ (b : Fin 4096) (sh : Fin 16) br x, s.bucketRun b = some br → s.shardRun b sh = some x →
      (s.awake = false → ∀ d : Fin 4, exec (.blockAdd b sh) s = .next s ∧ exec (.bucketAdmit b d) s = .next s ∧
        exec (.quarantineScanDone b) s = .next s) ∧
      (s.awake = true → s.folds br x = true → ∀ c y, (s.foldNext br x).bucketRun b = some c → (s.foldNext br x).shardRun b sh = some y →
        exec (.blockAdd b sh) s = .next ((s.foldNext br x).drainResults c sh (c.cfg.blocks - y.nextResult)).afterWork) ∧
      (s.awake = true → s.folds br x = false → exec (.blockAdd b sh) s = .next (s.drainResults br sh (br.cfg.blocks - x.nextResult)).afterWork) ∧
      (x.status = none → br.status = none →
        (s.straggler br.cfg.group = 0 → Completes (.shardDeadline b sh) s fun t =>
          t.red = s.red ∧ t.out = s.out ∧ s.red.base + s.red.deadlineUs * 1000 ≤ t.fabricNow) ∧
        (∀ n, s.straggler br.cfg.group ≠ 0 → s.dieRunning (shardDie sh) = true → x.nodes = [n] → n.started = false →
          n.missing = false →
          exec (.shardDeadline b sh) s =
            .next ((s.timeTo (s.red.base + s.red.deadlineUs * 1000)).declareMissing br x n.pos).afterWork)) ∧
      ∀ (p : Fin 10240) n, x.node p = some n → x.status = none → s.dieRunning (shardDie sh) = true →
        (n.missing = true → n.ownFrom.isSome = true → n.suspect = false → kget none n.owns x.next = none →
          exec (.partialStall b sh p) s =
            .next ((s.timeTo (n.lastAt + s.red.deadlineUs * 1000)).setShardRun (x.setNode { n with ownFrom := none })).afterWork) ∧
        (n.goSent = true → n.missing = false → kget none n.blocks x.next = none →
          (s.straggler br.cfg.group = 0 → Completes (.partialStall b sh p) s fun t =>
            t.red = s.red ∧ n.lastAt + s.red.deadlineUs * 1000 ≤ t.fabricNow) ∧
          (s.straggler br.cfg.group ≠ 0 → exec (.partialStall b sh p) s =
            .next (((s.timeTo (n.lastAt + s.red.deadlineUs * 1000)).declareMissing br x p).redSendPos br sh p 8 0 []).afterWork)))

/-! ### The update engines (chapter 11) -/

/-- A request, the fetches of an outer tier, and the start of a block (R299 to R301, R316, R318, R319): one request a bucket a step;
a block starts with a journal slot, in flight once, and changes no memory; poison in its inputs ends it POISONED. -/
def Obligations.UpdateStart : Prop :=
  ∀ s : State,
    (∀ b : Fin 4096,
      (∀ n, s.red.launched = some n → s.upd.buckets.any (fun u => u.bucket == b.val && u.step == n) = false →
        exec (.startCmd b) s = .next (s.setUpd fun r => { r with
          buckets := r.buckets ++ [⟨b, n, true, false, stDONE, false, none, [], []⟩] }).afterWork) ∧
      (∀ n, s.red.launched = some n → s.upd.buckets.any (fun u => u.bucket == b.val && u.step == n) = true →
        exec (.startCmd b) s = .next (s.satF UPD_BLK_STATUS_DUP_START 0 0 1).afterWork) ∧
      (s.red.launched = none → s.upd.early.contains b.val = false →
        exec (.startCmd b) s = .next (s.setUpd fun r => { r with early := r.early ++ [b.val] }).afterWork)) ∧
    (∀ (d : Fin 4) (j : Fin 3) n f r data, n % 2 = 0 → (s.tracker d).done = [⟨.update j n, stDONE, data⟩] →
      s.engFetches d j = [f] → f.bucket = n / 16 / 2 ^ 20 → f.block = n / 16 % 2 ^ 20 → f.status = stDONE → f.dead = false →
      s.updRunOpen f.bucket d = some r →
      (1 < f.left → Completes (.stateFetchLand d j) s fun t =>
        t.engFetches d j = [{ f with left := f.left - 1 }] ∧ (t.tracker d).done = [] ∧ t.upd.runs = s.upd.runs) ∧
      (f.left = 1 → Completes (.stateFetchLand d j) s fun t =>
        t.engFetches d j = [{ f with left := 0 }] ∧ (t.tracker d).done = [] ∧
        ∃ q, t.updRunOpen f.bucket d = some q ∧ q.waiting = r.waiting.filter (· != f.block))) ∧
    ∀ (d : Fin 4) (j : Fin 3) (bucket : Fin 4096) r b, s.updRunOpen bucket d = some r → r.nextBlock j = some b →
      (s.engineLive d = false ∨ s.collapsing r.step = true ∨ 4 ≤ (s.engBlocks d j).length → exec (.blockRun d j bucket) s = .next s) ∧
      (s.engineLive d = true → s.collapsing r.step = false → (s.engBlocks d j).length < 4 → r.tier ≠ 0 →
        ((∀ f ∈ s.fetchOf d j bucket b, f.left ≠ 0) → exec (.blockRun d j bucket) s = .next (s.noteWaits r)) ∧
        (∀ f, s.fetchOf d j bucket b = some f → f.left = 0 → f.status ≠ stDONE →
          exec (.blockRun d j bucket) s = .next (s.endFetchFailed r j b f.status).afterWork)) ∧
      (∀ slot, s.engineLive d = true → s.collapsing r.step = false → (s.engBlocks d j).length < 4 → r.tier = 0 →
        s.fetchOf d j bucket b = none → s.engineHeld d (r.buf + 512 * b) 512 false = false → s.streamsHeld r b false [1, 2, 3, 4, 5] = false →
        s.freeSlot d j = some slot → (s.storeUsed r.step = true → s.storeFree d = true) →
        s.NoErrs →
        let g := s.localRead d (106 + j) (r.buf + 512 * b) 512
        let o := g.1.readStreams r j b
        (r.hyperPois = false → g.2.2.any id = false → o.2.2 = false →
          CompletesThen (.blockRun d j bucket) s State.afterWork fun t =>
            (∃ x, t.engBlocks d j = s.engBlocks d j ++ [x] ∧ x.bucket = r.bucket ∧ x.block = b ∧ x.step = r.step ∧
              x.phase = .snap ∧ x.slot = slot ∧ x.old = o.2.1) ∧ t.mem = s.mem ∧ t.poison = s.poison) ∧
        ((r.hyperPois = true ∨ g.2.2.any id = true ∨ o.2.2 = true) →
          exec (.blockRun d j bucket) s = .next (((o.1.raise 1 0x32 d j 0 bucket b 0).setUpdRun (r.started b)).endBlock d j
            ⟨bucket, b, r.step, .snap, 256, [], [], 0, stDONE⟩ stPOISONED).afterWork))

/-- The life of a block (R299, R314, R315, R317, Table 11.8), where no access is held and what it writes is mapped and within reach: the snapshot and a VALID header, then the moments, the weights, the
commit tag, and the slot is free again; each stage waits for the one before; recovery is refused while a block is in flight. -/
def Obligations.UpdateBlockStages : Prop :=
  ∀ (d : Fin 4) (j : Fin 3) (k : Fin 4) (s : State) (x : BlkRun),
    (s.blockAt d j k .snap = some x → s.snapHeld d j x = true → exec (.snap d j k) s = .next s) ∧
    (s.blockAt d j k .snap = some x → s.snapHeld d j x = false → s.NoErrs → s.extentReach (s.slotAddr d j x.slot) 64 = .ok →
      s.extentReach (s.slotAddr d j x.slot + 64) 1088 = .ok →
      Completes (.snap d j k) s fun t =>
        (t.byte (s.slotAddr d j x.slot)).toNat = 1 ∧
        t.engBlocks d j = (s.engBlocks d j).map (fun y =>
          if y.bucket = x.bucket ∧ y.block = x.block ∧ y.step = x.step then { x with phase := .moments } else y) ∧
        (s.storeUsed x.step = false → (x.old.flatMap id).length = 1028 →
          ∀ a, Outside a (s.slotAddr d j x.slot) 1152 → t.byte a = s.byte a) ∧
        (s.storeUsed x.step = true → t.getF CSTORE_USE_USED 0 d = (s.getF CSTORE_USE_USED 0 d + 1) % 2 ^ 32)) ∧
    (s.blockAt d j k .moments = some x → s.streamsHeld (s.runOf d x) x.block true [3, 4] = false →
      exec (.moments d j k) s = .next (s.writeNew d j x [3, 4] .weights).afterWork) ∧
    (∀ u, u = s.collectOuter d →
      (u.blockAt d j k .weights = some x →
        (x.outer ≠ 0 → exec (.weights d j k) s = .next u) ∧
        (x.outer = 0 → x.outerStatus ≠ stDONE →
          exec (.weights d j k) s = .next (u.endBlock d j x x.outerStatus).afterWork) ∧
        (x.outer = 0 → x.outerStatus = stDONE → u.streamsHeld (u.runOf d x) x.block true [1, 2, 5] = false →
          exec (.weights d j k) s = .next (u.writeNew d j x [1, 2, 5] .tag).afterWork)) ∧
      (u.blockAt d j k .tag = some x → x.outer = 0 → x.outerStatus = stDONE →
        (∀ y ∈ u.engBlocks d j, y.bucket = x.bucket → y.step = x.step → y.block < x.block → y.phase = .done) →
        u.extentReach ((u.runOf d x).commit + 2 * x.block) 2 = .ok →
        u.engineHeld d ((u.runOf d x).commit + 2 * x.block) 2 true = false → u.NoErrs →
        Completes (.tag d j k) s fun t =>
          t.readN ((u.runOf d x).commit + 2 * x.block) 2 = x.step % 65536 ∧
          (∀ a, Outside a ((u.runOf d x).commit + 2 * x.block) 2 → t.byte a = s.byte a) ∧
          t.engBlocks d j = (u.engBlocks d j).map (fun y =>
            if y.bucket = x.bucket ∧ y.block = x.block ∧ y.step = x.step then { x with phase := .done } else y))) ∧
    (s.blockAt d j k .done = some x → s.engineHeld d (s.slotAddr d j x.slot) 1 true = false → s.NoErrs →
      s.extentReach (s.slotAddr d j x.slot) 1 = .ok →
      CompletesThen (.blockDone d j k) s (fun u => (u.endBlock d j x stDONE).afterWork) fun u =>
        (u.byte (s.slotAddr d j x.slot)).toNat = 0 ∧ u.engBlocks d j = s.engBlocks d j ∧
        ∀ a, Outside a (s.slotAddr d j x.slot) 1 → u.byte a = s.byte a) ∧
    ((∃ i, i < 16 ∧ s.engBlocks (i / 4) (i % 4) ≠ []) → exec .recover s = .next (s.setF UPD_BLK_STATUS_CMD_ERR 0 0 1)) ∧
    ((∀ i, i < 16 → s.engBlocks (i / 4) (i % 4) = []) →
      exec .recover s = .next (s.liveDies.foldl (fun u e => u.recoverDie e) s).afterWork)

/-- Exports (R39, R40, R321, R322, R324, R325): one begins once its step is sealed and its bucket's update is over; a descriptor that breaks
a rule or reads that do not answer end it, a failed read of an outer tier with its status; the reference copy takes the words of a frame once
it is written; it ends with its last answer, the bytes written are counted, and its completion word is written or its handle completes. -/
def Obligations.Exports : Prop :=
  ∀ (id : Nat) (s : State) (e : ExportRun), s.upd.exports.find? (fun z => z.id == id) = some e →
    (e.started = false → s.isSealed e.step = true → s.dieRunning e.die = true → s.awake = true → ∀ outer status,
      s.upd.buckets.any (fun b => b.bucket == (s.exportDesc e.addr).bucket && b.step == e.step && b.ended) = true →
      let x := s.exportDesc e.addr
      let segs := (List.range x.count).map fun i => s.exportSeg (x.map + 32 * i)
      let r := s.openRun x.bucket e.die e.step
      let st := statusMax (if s.exportOk x segs r.len then stDONE else stINVALID) (s.exportReach e.addr x r)
      (s.exportHeld e.die e.addr x r = true → exec (.exportStart id outer status) s = .next s) ∧
      (s.exportHeld e.die e.addr x r = false → st ≠ stDONE → e.entry = none → s.NoErrs →
        Completes (.exportStart id outer status) s fun t =>
          (∃ y, t.upd.exports.find? (fun z => z.id == id) = some y ∧ y.started = true ∧ y.status = st) ∧ t.mem = s.mem) ∧
      (s.exportHeld e.die e.addr x r = false → st = stDONE → s.NoErrs → r.tier ≠ 0 → status.val ≠ stDONE →
        Completes (.exportStart id outer status) s fun t => t.mem = s.mem ∧ t.out = s.out ∧
          ∃ y, t.upd.exports.find? (fun z => z.id == id) = some y ∧ y.started = true ∧ y.status = status) ∧
      (s.exportHeld e.die e.addr x r = false → st = stDONE → (r.tier ≠ 0 → status.val = stDONE) →
        CompletesThen (.exportStart id outer status) s
          (fun u => ((x.plan segs).foldl (fun v p => v.sendRecord id x r outer p) u).afterWork) fun u =>
            ∃ y, u.upd.exports.find? (fun z => z.id == id) = some y ∧ y.started = true ∧ y.written = e.written)) ∧
    (e.started = true →
      let done := (s.tracker e.die).done.filter fun r => match r.who with | .event _ n => n == id | _ => false
      let status := done.foldl (fun a r => statusMax a r.status) e.status
      let landed := done.foldl (fun a r => a + e.wrote r) e.landed
      (done.length < e.left → Completes (.exportDone id) s fun t =>
        ∃ y, t.upd.exports.find? (fun z => z.id == id) = some y ∧ y.left = e.left - done.length ∧ y.status = status ∧ y.landed = landed) ∧
      (∀ k f data, done = [⟨.event k id, stDONE, data⟩] → e.frames.find? (fun z => z.1 == k) = some f → 1 < e.left →
        s.PostsNow e.die f.2.1 f.2.2.1.length → s.NoErrs →
        Completes (.exportDone id) s fun t => t.mem = (s.writeMarked f.2.1 f.2.2.1 f.2.2.2).mem) ∧
      (e.left ≤ done.length → e.frames = [] → s.spaceOk (s.exportDesc e.addr).doneAt 8 8 = true →
        s.PostsNow e.die (s.exportDesc e.addr).doneAt 8 → s.NoErrs →
        CompletesThen (.exportDone id) s
          (fun u => (match e.handle with | some h => u.descDone h status landed 0 | none => u).afterWork) fun u =>
          u.upd.exports.find? (fun z => z.id == id) = none ∧
          u.readN (s.exportDesc e.addr).doneAt 8 = (status + landed * 65536) % 2 ^ 64 ∧
          ∀ a, Outside a (s.exportDesc e.addr).doneAt 8 → u.byte a = s.byte a))

/-! ### The switchback engines (chapter 13) -/

/-- SB_CMD and the steps of an engine (R349 to R351, R355, R356, R358): START clears the done words and begins at its entry; STOP
ends at once or when what is in flight is done; CONTINUE leaves HELD or FAULTED; at END the next step begins, with the other bank
at a DRAIN; after a collapse the engine starts over, or holds with the pending bank active. -/
def Obligations.SwitchbackControl : Prop :=
  ∀ (d : Fin 4) (s : State), s.dieRunning d = true →
    (∀ (bank : Fin 2) (step : BitVec 40) (entry : Fin 4096),
      (s.sbState d = 0 → Completes (.sbStart d bank step entry) s fun t =>
        t.sbState d = 1 ∧ t.sbStep d = step.toNat ∧ t.sbPtr d = entry ∧ t.getF SB_STATUS_ACTIVE_BANK d 0 = bank ∧
        (t.sb d).flights = [] ∧ (t.sb d).fetched = [] ∧ (t.sb d).hints = (s.sb d).hints ∧
        (∀ c, c < 8 → t.readN (flagWordAddr d (s.getF SB_EXPERT_SB_FLAG d 0 + c)) 8 = 0) ∧
        (∀ a, (∀ c, c < 8 → Outside a (flagWordAddr d (s.getF SB_EXPERT_SB_FLAG d 0 + c)) 8) → t.byte a = s.byte a)) ∧
      (s.sbState d ≠ 0 → exec (.sbStart d bank step entry) s = .next (s.setF SB_BLK_STATUS_CMD_ERR d 0 1))) ∧
    ((s.sb d).flights = [] → s.sbState d ≠ 0 → Completes (.sbStop d) s fun t =>
      t.sbState d = 0 ∧ (t.sb d).stopping = false ∧ (t.sb d).hints = (s.sb d).hints ∧ t.mem = s.mem) ∧
    ((s.sb d).flights ≠ [] → s.sbState d ≠ 0 → (∀ y ∈ (s.sb d).flights, s.flightDone d y = false ∨ s.hintHeld d (sbOff y.word1) = true) →
      Completes (.sbStop d) s fun t =>
        t.sbState d = s.sbState d ∧ (t.sb d).stopping = true ∧ (t.sb d).flights = (s.sb d).flights ∧ t.mem = s.mem) ∧
    (s.sbState d = 0 → exec (.sbStop d) s = .next s) ∧
    (s.sbState d = 2 → exec (.sbContinue d) s = .next (s.setF SB_STATUS_STATE d 0 1)) ∧
    (s.sbState d = 3 → Completes (.sbContinue d) s fun t =>
      t.sbState d = 1 ∧ t.reg SB_FAULT d 0 = s.reg SB_FAULT d 0 ∧ (t.sb d).fetched = (s.sb d).fetched ∧
      ((t.sb d).passFault = true ↔ ∃ f st, s.sbHead d = some f ∧ f.prefetch = some st ∧ st ≠ stDONE)) ∧
    (s.sbState d < 2 → exec (.sbContinue d) s = .next (s.setF SB_BLK_STATUS_CMD_ERR d 0 1)) ∧
    (∀ f, s.sbHead d = some f → sbKind f.word0 = 2 → exec (.sbDispatch d) s = .next s) ∧
    (s.sbState d = 1 → (s.sb d).settle = none → (s.sb d).stopping = false → s.awake = true →
      ((s.sb d).ended = true ∨ ∃ f, s.sbHead d = some f ∧ sbKind f.word0 = 2) →
      ((s.sb d).flights ≠ [] → exec (.sbStepEnd d) s = .next s ∧ exec (.sbBankSwitch d) s = .next s) ∧
      ((s.sb d).flights = [] → s.sbDrains d = false → Completes (.sbStepEnd d) s fun t =>
        t.sbStep d = (s.sbStep d + 1) % 2 ^ 40 ∧ t.sbPtr d = 0 ∧ t.sbState d = 1 ∧ (t.sb d).fetched = [] ∧
        t.getF SB_STATUS_ACTIVE_BANK d 0 = s.getF SB_STATUS_ACTIVE_BANK d 0 ∧ t.mem = s.mem) ∧
      ((s.sb d).flights = [] → s.sbDrains d = true →
        exec (.sbStepEnd d) s = .next s ∧
        (s.isSealed (s.sbStep d) = false → exec (.sbBankSwitch d) s = .next s) ∧
        (s.isSealed (s.sbStep d) = true → Completes (.sbBankSwitch d) s fun t =>
          t.sbStep d = (s.sbStep d + 1) % 2 ^ 40 ∧ t.sbPtr d = 0 ∧ t.sbState d = 1 ∧
          t.getF SB_STATUS_ACTIVE_BANK d 0 = 1 - s.getF SB_STATUS_ACTIVE_BANK d 0))) ∧
    ((s.sb d).flights = [] → s.sbState d ≠ 0 → ∀ n,
      ((s.sb d).settle = some (.restart n) → Completes (.sbCollapseSettle d) s fun t =>
        t.sbStep d = n % 2 ^ 40 ∧ t.sbPtr d = 0 ∧ t.sbState d = s.sbState d ∧ (t.sb d).settle = none ∧
        t.getF SB_STATUS_ACTIVE_BANK d 0 = s.getF SB_STATUS_ACTIVE_BANK d 0) ∧
      ((s.sb d).settle = some (.reshard n) → Completes (.sbCollapseSettle d) s fun t =>
        t.sbStep d = n % 2 ^ 40 ∧ t.sbPtr d = 0 ∧ t.sbState d = 2 ∧ (t.sb d).settle = none ∧
        t.getF SB_STATUS_ACTIVE_BANK d 0 = 1 - s.getF SB_STATUS_ACTIVE_BANK d 0))

/-- Entries (R347, R348, R352, R353, R357, R358): the next entry within PREFETCH_AHEAD is read and its prefetch issued, once neither is
held; one that reads as poison is taken for malformed; at PTR a malformed entry faults the engine, one whose conditions do not hold waits, another is dispatched: its record in the mailbox of each of its
clusters, a count on EC 15 of their cores, its input claimed; a hint that failed goes to SB_FAULT. -/
def Obligations.SwitchbackEntries : Prop :=
  ∀ (d : Fin 4) (s : State), s.dieRunning d = true → s.awake = true →
    (∀ i, s.sbNextRead d = some i → s.engineHeld d (s.sbEntryAddr d i) 16 false = true → exec (.sbEntryRead d) s = .next s) ∧
    (∀ i, s.sbNextRead d = some i → s.engineHeld d (s.sbEntryAddr d i) 16 false = false → s.NoErrs →
      let w0 := s.readN (s.sbEntryAddr d i) 8
      let w1 := s.readN (s.sbEntryAddr d i + 8) 8
      (s.extentReach (s.sbEntryAddr d i) 16 = .ok → (s.marks (s.sbEntryAddr d i) 16).any id = false →
        (sbPass w0 = true → s.hintHeld d (sbPre w1) = true → exec (.sbEntryRead d) s = .next s) ∧
        ((sbPass w0 = false ∨ sbPre w1 = 255) → (sbPass w0 = true → s.hintHeld d (sbPre w1) = false) →
          Completes (.sbEntryRead d) s fun t =>
          (t.sb d).fetched = (s.sb d).fetched ++ [⟨i, w0, w1, none, s.reg SB_EXPERT d 0⟩] ∧ t.mem = s.mem ∧
          t.reg SB_STATUS d 0 = s.reg SB_STATUS d 0) ∧
        (sbPass w0 = true → sbPre w1 ≠ 255 → s.hintHeld d (sbPre w1) = false →
          CompletesThen (.sbEntryRead d) s (fun u => (u.issueHint d i w0 (sbPre w1) (u.sbStep d) true).afterWork) fun u =>
            (u.sb d).fetched = (s.sb d).fetched ++ [⟨i, w0, w1, none, s.reg SB_EXPERT d 0⟩] ∧ u.mem = s.mem ∧
            u.sbStep d = s.sbStep d)) ∧
      ((s.localRead d 110 (s.sbEntryAddr d i) 16).2.2.any id = true → Completes (.sbEntryRead d) s fun t =>
        (∃ w, (t.sb d).fetched = (s.sb d).fetched ++ [⟨i, 3 * 2 ^ 62, w, none, s.reg SB_EXPERT d 0⟩] ∧ t.sbBad d (3 * 2 ^ 62) = true) ∧
        t.mem = s.mem)) ∧
    (∀ f, s.sbHead d = some f → s.sbState d = 1 → (s.sb d).stopping = false → (s.sb d).settle = none → sbKind f.word0 ≠ 2 →
      (s.sbBad d f.word0 = true → Completes (.sbDispatch d) s fun t =>
        t.sbState d = 3 ∧ t.flag SB_FAULT_VALID d 0 = true ∧
        (s.flag SB_FAULT_VALID d 0 = false → t.getF SB_FAULT_ENTRY d 0 = f.index % 4096 ∧ t.getF SB_FAULT_CAUSE d 0 = 1) ∧
        t.sbPtr d = s.sbPtr d ∧ t.mem = s.mem) ∧
      (s.sbBad d f.word0 = false → s.sbBlocked d f ≠ 0 → exec (.sbDispatch d) s = .next s) ∧
      (s.sbBad d f.word0 = false → s.sbBlocked d f = 0 →
        (SB_EXPERT_HINT_FAIL_STOP.get f.expert = 1 → f.prefetch.getD stDONE ≠ stDONE → (s.sb d).passFault = false →
          exec (.sbDispatch d) s = .next (s.setF SB_STATUS_STATE d 0 3)) ∧
        (SB_EXPERT_HINT_FAIL_STOP.get f.expert = 0 ∨ f.prefetch.getD stDONE = stDONE ∨ (s.sb d).passFault = true →
          let claim := if sbInEn f.word0 then s.unclaimed d (sbInQ f.word0) else none
          Completes (.sbDispatch d) s fun t =>
            t.sbPtr d = (f.index + 1) % 4096 ∧ t.sbState d = 1 ∧ (t.sb d).ended = (f.index == 4095) ∧
            (∃ fl, (t.sb d).flights = (s.sb d).flights ++ [fl] ∧ fl.index = f.index ∧
              fl.upTo = (sbClusters f.word0).map fun c => (c, kget 0 (s.sb d).counts c + 1)) ∧
            (∀ c ∈ sbClusters f.word0,
              t.bytes (dispatchAddr d c (kget 0 (s.sb d).counts c)) 32 =
                leBytes 8 f.word0 ++ leBytes 8 f.word1 ++ leBytes 5 (s.sbStep d) ++
                leBytes 1 (b2n (f.prefetch.getD 0 != 0) + 2 * b2n claim.isSome) ++ leBytes 2 f.index ++
                leBytes 4 ((claim.map (·.words)).getD 0) ++ leBytes 1 (f.prefetch.getD 0) ++ leBytes 3 0 ∧
              ∀ k, k < 12 → (t.coreOf d (c * 12 + k)).ecOf 15 = ((s.coreOf d (c * 12 + k)).ecOf 15 + 1) % 65536) ∧
            (∀ a, (∀ c ∈ sbClusters f.word0, Outside a (dispatchAddr d c (kget 0 (s.sb d).counts c)) 32) → t.byte a = s.byte a) ∧
            (∀ p, claim = some p → (t.queue d (sbInQ f.word0)).packets =
              (s.queue d (sbInQ f.word0)).packets.map fun y => if y = p then { y with claimed := true } else y)))) ∧
    ∀ e h pre n st data, (s.tracker d).done = [⟨.switchback e h pre n, st, data⟩] → st < 256 →
      Completes (.hintComplete d) s fun t =>
        (t.tracker d).done = [] ∧
        (pre = false → (t.sb d).fetched = (s.sb d).fetched) ∧
        (pre = true → (∀ y ∈ (s.sb d).hints, y.1 = e → y.2.2.1 = true → y.2.2.2 ≤ n) → (t.sb d).fetched = (s.sb d).fetched.map fun f =>
          if f.index = e ∧ sbPre f.word1 = h ∧ f.prefetch = none then { f with prefetch := some st } else f) ∧
        (st = stDONE → t.reg SB_FAULT d 0 = s.reg SB_FAULT d 0) ∧
        (st ≠ stDONE → t.flag SB_FAULT_VALID d 0 = true ∧ (s.flag SB_FAULT_VALID d 0 = false →
          t.getF SB_FAULT_STATUS d 0 = st ∧ t.getF SB_FAULT_ENTRY d 0 = e % 4096 ∧
          t.getF SB_FAULT_CAUSE d 0 = if pre then 2 else 3)) ∧
        t.mem = s.mem

/-! ### The Couloir queues (chapter 13) -/

/-- Reservations and grants (R46, R190, R204, R209, R362): a reservation or segment of another job is counted and answered UNREACHABLE, or as a status before it in R27, a
reservation that its queue refuses is answered that status, another is listed, or refused back from a list of 1,024 as a packet with
source and destination exchanged; the oldest of a queue is granted where its words fit, with its packet, its deadline and its
answer; an own producer whose source answers and is not held then moves its words at once, formed now where they are a dispatch packet's
(R376), and its ENQUEUE ends, POISONED where a word is poisoned; a refused one goes again. -/
def Obligations.QueueReservations : Prop :=
  ∀ (s : State),
    (∀ g : Segment,
      ((g.job ≠ s.job ∨ s.job = 0) →
        (s.MeetsNow g [] → exec (.enqueueReservation g) s = .next ((s.jobReject g).answer 5 g (statusMax stUNREACHABLE (s.enqueueForm g)) [] [])) ∧
        (s.MeetsNow g (s.enqExtents g) →
          exec (.enqueueSegment g) s = .next ((s.jobReject g).answer 5 g (statusMax stUNREACHABLE (s.enqueueForm g)) [] []).afterWork)) ∧
      (s.MeetsNow g [] → g.job = s.job → s.job ≠ 0 →
        (s.enqueueStatus g ≠ stDONE → exec (.enqueueReservation g) s = .next (s.answer 5 g (s.enqueueStatus g) [] [])) ∧
        (s.enqueueStatus g = stDONE → ∀ d q off, place g.address = .queuePort d q off →
          ((s.reserveList d).length < 1024 → Completes (.enqueueReservation g) s fun t =>
            t.reserveList d = s.reserveList d ++
              [⟨q, g.srcDev, g.srcDie, g.cls, g.tag, g.step, g.len64 + 1, false, s.reg COULOIR_EXPERT d 0⟩] ∧
            t.queues = s.queues ∧ t.out = s.out ∧ t.mem = s.mem) ∧
          (1024 ≤ (s.reserveList d).length → Completes (.enqueueReservation g) s fun t =>
            t.getF RES_REFUSED_COUNT d 0 = (s.getF RES_REFUSED_COUNT d 0 + 1) % 2 ^ 64 ∧ t.reserves = s.reserves ∧
            t.out = s.out ++ [s.packetMsg .reserve d { g.head 5 s.device with
              src := s.device, dst := hostOf g.srcDev g.srcDie, job := s.job } [] []])))) ∧
    (∀ (d : Fin 4) (q : Fin 64), s.dieRunning d = true → s.awake = true →
      (s.grantable d q = none → exec (.reservationGrant d q) s = .next s.afterWork) ∧
      (∀ r, s.grantable d q = some r → r.own = false →
        CompletesThen (.reservationGrant d q) s State.afterWork fun u =>
          u.reserveList d = (s.reserveList d).erase r ∧ u.mem = s.mem ∧
          u.out = s.out ++ [s.packetMsg .response d ((enqHead d q s.device r.cls r.srcDev r.srcDie r.tag r.step r.words
            0x0FFFFFFF).reply false s.job stDONE false) [] []] ∧
          ∃ p, (u.queue d q).packets = (s.queue d q).packets ++ [p] ∧ p.words = r.words ∧ p.tag = r.tag ∧ p.step = r.step ∧
            p.srcDev = r.srcDev ∧ p.srcDie = r.srcDie ∧ p.read = 0 ∧ p.landed = [] ∧ p.phase = .granted ∧
            p.deadline = s.fabricNow + max 1 (COULOIR_EXPERT_COMMIT_US.get r.expert) * 1000 ∧
            (u.queue d q).occupied = (s.queue d q).occupied + r.words) ∧
      (∀ r e off, s.grantable d q = some r → r.own = true → s.NoErrs →
        (s.tracker r.srcDie).entries.find? (fun e => e.id == r.tag && e.req.step == r.step && decide (e.phase = .reserving)) = some e →
        (s.tracker r.srcDie).late.contains (r.tag, r.step, doorSeg) = false →
        s.ptrOwn e.req.ptr = true → place (ptrAddr e.req.ptr) = .queuePort d q off →
        s.localSide e.req = stDONE → s.requestHeld r.srcDie e.req = false → s.heldAhead r.srcDie e = false → s.ringHeld d q = false →
        (∀ x ∈ s.gatherExtents r.srcDie e.req, s.extentReach x.1 x.2.1 = .ok ∧ s.engineHeld r.srcDie x.1 x.2.1 false = false) →
        (∀ p ∈ (s.queue d q).packets, p.phase = .visible) →
        CompletesThen (.reservationGrant d q) s State.afterWork fun u =>
          (u.tracker r.srcDie).entries = (s.tracker r.srcDie).entries.filter (fun x => x.id != r.tag) ∧
          ((s.enqBytes (s.gather r.srcDie e).2.req).2.any id = false →
            ∃ p, (u.queue d q).packets = (s.queue d q).packets ++ [p] ∧ p.words = r.words ∧ p.phase = .visible ∧ p.read = 0) ∧
          ((s.enqBytes (s.gather r.srcDie e).2.req).2.any id = true → (u.queue d q).packets = (s.queue d q).packets ∧
            u.getF Q_REWINDS_REWINDS d q = min (2 ^ 32 - 1) (s.getF Q_REWINDS_REWINDS d q + 1)))) ∧
    ∀ (d : Fin 4) (id : Fin 4096) (e : TrackEntry) at_, s.entryOf d id = some e → e.phase = .refused at_ →
      s.ptrOwn e.req.ptr = false → (∀ x ∈ (s.tracker d).entries, x.phase ≠ .behind) →
      CompletesThen (.reservationResend d id) s State.afterWork fun u =>
        at_ ≤ u.fabricNow ∧ u.out.length = s.out.length + 1 ∧ (u.entryOf d id).map (·.phase) = some .reserving ∧
        (u.tracker d).entries.length = (s.tracker d).entries.length ∧ u.mem = s.mem

/-- Packets (R204, R363 to R367, R370): segments land in the granted space, the last to land commits the packet, and it becomes
visible behind every earlier one; a poisoned segment or a late commit rewinds it, and each of its later segments is answered with that
status; the read window takes the next visible word or underruns, once its ring is not held; DROP_REST discards the rest of the
open packet; HIGH_WATER starts again. -/
def Obligations.QueuePackets : Prop :=
  ∀ (d : Fin 4) (q : Fin 64) (s : State), s.dieRunning d = true →
    (∀ (g : Segment) off, s.MeetsNow g (s.enqExtents g) → g.job = s.job → s.job ≠ 0 → place g.address = .queuePort d q off →
      let ack (seg status : Nat) : Msg :=
        s.packetMsg .response d { (g.head 5 s.device).reply false s.job status false with seg64 := seg } [] []
      (∀ p, s.packetOf d q g.srcDev g.srcDie g.tag false = some p → g.seg64 + g.payload.length / 64 ≤ p.words →
        g.payload.length % 64 = 0 → 
        (g.marks.any id = true → p.left ≠ 0 →
          (∀ r ∈ (s.queue d q).rewound, ¬ (r.1 = g.srcDev ∧ r.2.1 = g.srcDie ∧ r.2.2.1 = g.tag)) →
          CompletesThen (.enqueueSegment g) s State.afterWork fun u =>
            p ∉ (u.queue d q).packets ∧ u.mem = s.mem ∧
            u.getF Q_REWINDS_REWINDS d q = min (2 ^ 32 - 1) (s.getF Q_REWINDS_REWINDS d q + 1) ∧
            u.out.getLast? = some (ack g.seg64 stPOISONED)) ∧
        (g.marks.any id = false →
          ((if p.landed.contains (g.seg64 / 64) then p.landed else p.landed ++ [g.seg64 / 64]).length < (p.words + 63) / 64 →
            ((s.queue d q).packets.find? fun y => !decide (y.phase = .visible)).map (·.phase) = some .granted →
            CompletesThen (.enqueueSegment g) s State.afterWork fun u =>
              u.mem = (s.storeWords d q p (g.seg64 / 64 * 64) g.payload g.marks (g.payload.length / 64)).mem ∧
              (∃ y ∈ (u.queue d q).packets, y.tag = p.tag ∧ y.phase = .granted ∧ y.landed.contains (g.seg64 / 64) = true) ∧
              (u.queue d q).visible = (s.queue d q).visible ∧
              u.out = s.out ++ (if g.seg64 = lastSeg p.words then [] else [ack g.seg64 stDONE])) ∧
          ((p.landed ++ [g.seg64 / 64]).length = (p.words + 63) / 64 → p.landed.contains (g.seg64 / 64) = false →
            (s.queue d q).packets = (s.queue d q).visible ++ [p] → p.phase = .granted → g.seg64 = lastSeg p.words →
            CompletesThen (.enqueueSegment g) s State.afterWork fun u =>
              (u.queue d q).visible.length = (s.queue d q).visible.length + 1 ∧ (u.queue d q).packets = (u.queue d q).visible ∧
              u.out = s.out ++ [s.packetMsg .response d ((enqHead d q s.device p.cls p.srcDev p.srcDie p.tag p.step p.words
                (lastSeg p.words)).reply false s.job stDONE false) [] []]))) ∧
      (∀ r, s.packetOf d q g.srcDev g.srcDie g.tag false = none →
        (s.queue d q).rewound.find? (fun r => r.1 == g.srcDev && r.2.1 == g.srcDie && r.2.2.1 == g.tag) = some r →
        CompletesThen (.enqueueSegment g) s State.afterWork fun u =>
          u.mem = s.mem ∧ (u.queue d q).packets = (s.queue d q).packets ∧ u.out = s.out ++ [ack g.seg64 r.2.2.2.1] ∧
          (r.2.2.2.2 ≤ 1 → (u.queue d q).rewound = (s.queue d q).rewound.erase r))) ∧
    (∀ p, ((s.queue d q).packets.filter fun p => decide (p.phase = .granted)).find? (fun p =>
        ((s.queue d q).packets.filter fun p => decide (p.phase = .granted)).all fun y => decide (p.deadline ≤ y.deadline)) = some p →
      p.left ≠ 0 →
      CompletesThen (.commitTimeout d q) s State.afterWork fun u =>
        p.deadline ≤ u.fabricNow ∧ p ∉ (u.queue d q).packets ∧
        (p.own = false → u.mem = s.mem ∧
          (u.queue d q).rewound = (s.queue d q).rewound ++ [(p.srcDev, p.srcDie, p.tag, stPOISONED, p.left)]) ∧
        (p.own = true → (s.tracker p.srcDie).late.contains (p.tag, p.step, doorSeg) = false →
          (u.tracker p.srcDie).entries = (s.tracker p.srcDie).entries.filter fun x => x.id != p.tag) ∧
        u.getF Q_REWINDS_REWINDS d q = min (2 ^ 32 - 1) (s.getF Q_REWINDS_REWINDS d q + 1)) ∧
    (s.ringHeld d q = true → exec (.queueRead d q) s = .next s) ∧
    (s.ringHeld d q = false →
      (∀ p rest, (s.queue d q).visible = p :: rest →
        let r := s.localRead d 110 (s.ringAddr d q p p.read) 64
        exec (.queueRead d q) s = .next ((r.1.setQueue d q ((s.queue d q).advance p r.2.1)).emit
          .queueData (d * 64 + q) [b2n (r.2.2.any id)] r.2.1)) ∧
      ((s.queue d q).visible = [] → Completes (.queueRead d q) s fun t =>
        t.flag Q_STATUS_UNDERRUN d q = true ∧
        t.getF Q_REWINDS_UNDERRUNS d q = min (2 ^ 32 - 1) (s.getF Q_REWINDS_UNDERRUNS d q + 1) ∧ t.queues = s.queues ∧
        t.out = s.out ++ [⟨.queueData, d * 64 + q, [0],
          if (s.queue d q).last.isEmpty then List.replicate 64 0 else (s.queue d q).last⟩])) ∧
    (∀ p rest, (s.queue d q).visible = p :: rest → (s.queue d q).opened = true →
      Completes (.dropRest d q) s fun t =>
        (t.queue d q).packets = (s.queue d q).packets.filter (· != p) ∧ (t.queue d q).opened = false ∧
        (t.queue d q).last = (s.queue d q).last ∧ t.mem = s.mem) ∧
    ((s.queue d q).opened = false → exec (.dropRest d q) s = .next s) ∧
    exec (.queueClearHw d q) s = .next (s.setF Q_HIGH_WATER_HIGH_WATER d q (s.queue d q).occupied)

/-! ### The traverse engines (chapter 14) -/

/-- The descriptor ring (R374 to R379, R381, R383, R493): software moves HEAD; a descriptor is read once its slot is not held; one
that may not run ends with its status in its record, of the precedence of R27, or nowhere where its DONE_ADDR breaks the rule, one that reads as
poison POISONED; a DISPATCH
opens its batch with one packet an expert, and every choice of every token is sent or counted as dropped; a COMBINE waits for its
batch; four at once. -/
def Obligations.TraverseDescriptors : Prop :=
  ∀ (d : Fin 4) (s : State), s.dieRunning d = true →
    (∀ head : Fin 256, exec (.travHeadWrite d head) s = .next (s.setF TRAV_HEAD_HEAD d 0 head)) ∧
    (s.awake = true → s.getF TRAV_TAIL_TAIL d 0 = s.getF TRAV_HEAD_HEAD d 0 →
      exec (.dispatch d) s = .next s.afterWork ∧ exec (.combine d) s = .next s.afterWork) ∧
    (s.awake = true → (s.traverse d).dead = [] → s.getF TRAV_TAIL_TAIL d 0 ≠ s.getF TRAV_HEAD_HEAD d 0 →
      let a := s.travSlot d (s.getF TRAV_TAIL_TAIL d 0)
      let x := s.travDesc d a
      let v := s.traverse d
      let pop := s.setF TRAV_TAIL_TAIL d 0 (s.getF TRAV_TAIL_TAIL d 0 + 1)
      let form := travFormOk (s.bytes a 128) x
      let ext := if form then travExtents x ((v.batch x.batch).map (·.desc)) else [(x.doneAddr, 64, true)]
      let bad (o n : Nat) : Bool := (((s.marks a 128).drop (o / 4)).take (n / 4)).any id
      let ends (c : Instr) (st : Nat) : Prop := x.flags.testBit 0 = false → s.NoErrs →
        (travAddrOk x.doneAddr = true → s.extentReach x.doneAddr 64 = .ok → CompletesThen c s State.afterWork fun u =>
          u.getF TRAV_TAIL_TAIL d 0 = (s.getF TRAV_TAIL_TAIL d 0 + 1) % 256 ∧ u.traverses = s.traverses ∧
          u.readN x.doneAddr 1 = st ∧ u.readN (x.doneAddr + 1) 1 = x.op ∧ u.readN (x.doneAddr + 2) 2 = x.batch ∧
          (∀ b, Outside b x.doneAddr 64 → u.byte b = s.byte b)) ∧
        (travAddrOk x.doneAddr = false → CompletesThen c s State.afterWork fun u =>
          u.getF TRAV_TAIL_TAIL d 0 = (s.getF TRAV_TAIL_TAIL d 0 + 1) % 256 ∧ u.traverses = s.traverses ∧ u.mem = s.mem)
      (s.engineHeld d a 128 false = true →
        exec (.dispatch d) s = .next s.afterWork ∧ exec (.combine d) s = .next s.afterWork) ∧
      (s.engineHeld d a 128 false = false → s.extentReach a 128 = .ok → s.NoErrs →
        (∀ p ∈ [(Instr.dispatch d, 1), (Instr.combine d, 2)],
          ((x.op = 1 ∨ x.op = 2) ∧ x.op ≠ p.2 ∨ 4 ≤ v.busy → exec p.1 s = .next s.afterWork) ∧
          (x.op = p.2 ∨ ¬ (x.op = 1 ∨ x.op = 2) → v.busy < 4 →
            (bad 0 128 = true →
              ((bad 0 8 || bad 0x18 8 || bad 0x58 8) = true → exec p.1 s = .next pop.afterWork) ∧
              ((bad 0 8 || bad 0x18 8 || bad 0x58 8) = false → ends p.1 stPOISONED)) ∧
            (bad 0 128 = false →
              (s.extentsHeld d ext = true → exec p.1 s = .next s.afterWork) ∧
              (s.extentsHeld d ext = false → s.travVerdict d (s.bytes a 128) x ≠ stDONE →
                ends p.1 (s.travVerdict d (s.bytes a 128) x) ∧
                exec p.1 s = .next (pop.travRefuse d x (s.travVerdict d (s.bytes a 128) x)).afterWork)))) ∧
        (v.busy < 4 → bad 0 128 = false → s.extentsHeld d ext = false → s.travVerdict d (s.bytes a 128) x = stDONE →
          (x.op = 2 →
            exec (.combine d) s = .next (pop.setTraverse d { v with combines := v.combines ++ [x] }).afterWork) ∧
          (x.op = 1 →
            ((16 ≤ v.batches.length ∨ s.travSending d = true) → exec (.dispatch d) s = .next s.afterWork) ∧
            (v.batches.length < 16 → s.travSending d = false →
              ((s.localRead d 105 x.experts (x.nexperts * 2)).2.2.any id = true → ends (.dispatch d) stPOISONED) ∧
              ((s.localRead d 105 x.experts (x.nexperts * 2)).2.2.any id = false →
                (s.extentsHeld d (s.travInputs d x) = true → exec (.dispatch d) s = .next s.afterWork) ∧
                (s.extentsHeld d (s.travInputs d x) = false →
                  ((s.travReadAll d (s.travInputs d x)).2 = true → ends (.dispatch d) stPOISONED) ∧
                  ((s.travReadAll d (s.travInputs d x)).2 = false →
                    CompletesThen (.dispatch d) s (fun u => (u.travAnswers d).afterWork) fun u =>
                      u.getF TRAV_TAIL_TAIL d 0 = (s.getF TRAV_TAIL_TAIL d 0 + 1) % 256 ∧
                      ∃ b, (u.traverse d).batches = v.batches ++ [b] ∧ b.desc = x ∧ b.completed = none ∧ b.expired = false ∧
                        b.rerouted = (s.travAssign x).rerouted ∧ b.dropSource = (s.travAssign x).dropSource ∧
                        b.dropUnmapped = (s.travAssign x).dropUnmapped ∧
                        b.packets.map (fun k => (k.expert, k.recs)) =
                          (s.travList x).map fun e => (e, kget [] (s.travAssign x).recs e))))))))) ∧
    (∀ x : TravDesc, (s.travList x).Nodup → x.flags.testBit 2 = false →
      ((s.travList x).map fun e => (s.travAssign x).count e).sum + (s.travAssign x).dropSource +
        (s.travAssign x).dropUnmapped = x.tokens * x.k)

/-- Returns and combines (R375, R382 to R385): a packet of a return queue that matches an open batch lands its rows in the batch's
buffer, another, or one whose header reads as poison, is stray; what is held waits; RETURN_US closes the wait; a COMBINE whose batch
is complete closes it and writes its status, one whose batch is gone completes NO_RESOURCE. -/
def Obligations.TraverseReturns : Prop :=
  ∀ (d : Fin 4) (s : State), s.dieRunning d = true →
    (∀ q : Fin 64, s.awake = true →
      ((s.traverse d).batches.any (fun b => b.desc.retQ == q.val) = false ∨ (s.queue d q).visible = [] →
        exec (.returnRows d q) s = .next s) ∧
      (∀ p rest, (s.traverse d).batches.any (fun b => b.desc.retQ == q.val) = true → (s.queue d q).visible = p :: rest → s.NoErrs →
        let h := s.found (s.ringAddr d q p p.read) 64
        let fits (b : TravBatch) : Bool := b.desc.retQ == q.val && b.desc.batch == leNat ((h.1.drop 2).take 2) && !b.expired &&
          leNat (h.1.take 1) == 2 && !h.2.any id
        let hit (k : TravPacket) : Bool := k.expert == leNat ((h.1.drop 16).take 2) && !k.returned &&
          (k.status.isNone || k.status == some stDONE)
        let held := (rangeFrom p.read (p.words - p.read)).any fun i => s.engineHeld d (s.ringAddr d q p i) 64 false
        (held = true → exec (.returnRows d q) s = .next s) ∧
        (held = false → (∀ b ∈ (s.traverse d).batches, (fits b && b.packets.any hit) = false) →
          Completes (.returnRows d q) s fun t =>
            (t.queue d q).packets = (s.queue d q).packets.drop 1 ∧ (t.queue d q).opened = false ∧ t.mem = s.mem ∧
            t.getF TRAV_ERRS_STRAY d 0 = min (2 ^ 32 - 1) (s.getF TRAV_ERRS_STRAY d 0 + 1) ∧ t.traverses = s.traverses) ∧
        (∀ b k, held = false → (s.traverse d).batches.find? (fun b => fits b && b.packets.any hit) = some b →
          b.packets.find? hit = some k →
          (s.engineHeld d b.desc.retBuf (b.desc.tokens * b.desc.k * b.desc.retRow) true = true →
            exec (.returnRows d q) s = .next s) ∧
          (s.engineHeld d b.desc.retBuf (b.desc.tokens * b.desc.k * b.desc.retRow) true = false →
          Completes (.returnRows d q) s fun t =>
            (t.queue d q).packets = (s.queue d q).packets.drop 1 ∧
            ∃ b' k', b' ∈ (t.traverse d).batches ∧ k' ∈ b'.packets ∧ b'.desc = b.desc ∧ k'.returned = true ∧
              k'.expert = k.expert ∧ k'.recs = k.recs ∧ k'.got.Nodup ∧
              (∀ m ∈ k'.got, ∃ c ∈ k.recs, c.tok * 8 + c.rank = m) ∧
              (∀ a, (∀ m ∈ k'.got, Outside a (b.desc.retBuf + (m / 8 * b.desc.k + m % 8) * b.desc.retRow)
                (b.desc.retRow / 64 * 64)) → t.byte a = s.byte a))))) ∧
    (∀ (batch : Fin 65536) b at_, (s.traverse d).batch batch = some b → b.completed = some at_ →
      Completes (.returnTimeout d batch) s fun t =>
        at_ + max 1 (TRAV_EXPERT_RETURN_US.get b.desc.expert) * 1000 ≤ t.fabricNow ∧
        (∀ y ∈ (t.traverse d).batches, y.desc.batch = batch.val → y.expired = true) ∧
        (t.traverse d).batches.length = (s.traverse d).batches.length ∧ t.mem = s.mem) ∧
    (∀ (batch : Fin 65536) x, (s.traverse d).combines.find? (fun x => x.batch == batch.val) = some x →
      x.flags.testBit 0 = false → travAddrOk x.doneAddr = true → s.extentReach x.doneAddr 64 = .ok → s.NoErrs →
      ((s.traverse d).batch batch = none →
        CompletesThen (.combineCompute d batch) s State.afterWork fun u =>
          (u.traverse d).combines = (s.traverse d).combines.erase x ∧ u.readN x.doneAddr 1 = stNORES ∧
          ∀ a, Outside a x.doneAddr 64 → u.byte a = s.byte a) ∧
      (∀ b, (s.traverse d).batch batch = some b →
        (b.complete = false ∨ s.extentsHeld d (b.combineExtents x) = true → exec (.combineCompute d batch) s = .next s) ∧
        (b.complete = true → s.extentsHeld d (b.combineExtents x) = false → x.op = 2 →
         CompletesThen (.combineCompute d batch) s State.afterWork fun u =>
          (u.traverse d).batches = (s.traverse d).batches.filter (· != b) ∧
          (u.traverse d).combines = (s.traverse d).combines.filter (· != x) ∧
          u.readN x.doneAddr 1 = statusMax (s.extentsStatus (b.combineExtents x)) (if b.dropUnmapped + b.counts.getD 1 0 +
            b.counts.getD 2 0 + b.counts.getD 3 0 + b.counts.getD 4 0 = 0 then stDONE else stDEGRADED))))

/-! ### The host link (chapter 15) -/

/-- The binding and the rings (R387, R390, R393 to R401, R414, R415, R460, R477, R482): enumeration binds, a signed notice, a link or clock
failure or the host's end unbinds; ATTACH and DETACH; IDE keys of a stream or of CXL.cachemem; RING_CFG starts and stops a ring or is refused; a
doorbell line, of 64 bytes, moves the ring's pointers or its error, and a store to one may wake a package in Bivouac; the interrupt of a ring is sent, or pends while masked. -/
def Obligations.HostRings : Prop :=
  ∀ s : State,
    (∀ hdm : Fin 3073, s.host.linkUp = true → s.power.inReset = false → Completes (.hostEnumerate hdm) s fun t =>
      t.bound = true ∧ t.host.hdmSize = hdm * 0x10000000 ∧ t.attached = s.attached ∧ t.host.rings = s.host.rings) ∧
    (∀ msg : List Byte,
      let c := sideCommand 0x0005 List.isEmpty msg
      (s.muted = true → exec (.unbindNotice msg) s = .next (s.sideband [255]).releaseAll) ∧
      (∀ x, s.muted = false → c = some x → s.commandReason c = 0 → s.bound = true → CompletesThen (.unbindNotice msg) s State.releaseAll fun u =>
        u.bound = false ∧ u.attached = false ∧ u.sec.lastSeq = x.seq ∧ u.host.snoop = [] ∧ u.host.ide = [] ∧ u.host.cxlIde = none ∧
        ∀ r, r < 64 → u.flag RING_CFG_SQ_EN 0 r = false ∧ u.flag RING_CFG_CQ_EN 0 r = false ∧ u.getF RING_STATE_STATE 0 r = 0) ∧
      (s.muted = false → s.commandReason c ≠ 0 →
        exec (.unbindNotice msg) s = .next (s.refuseCommand (s.commandReason c)).releaseAll)) ∧
    (∀ c ∈ [Instr.cxlLinkDown, Instr.cxlRefclkLoss], CompletesThen c s State.releaseAll fun u =>
      u.host.linkUp = false ∧ u.bound = false ∧
      ∀ n, n < 32 → s.rangeState n = 1 → u.rangeState n = 2 ∧ u.getF RANGE_STATE_CAUSE 0 n = 5) ∧
    (∀ width rate : Fin 4, s.power.inReset = false →
      exec (.cxlLinkUp width rate) s = .next (s.setHost fun r =>
        { r with linkUp := true, linkWidth := 2 ^ width.val, linkRate := 8 * 2 ^ rate.val })) ∧
    ((s.bound = false ∨ s.inRecovery = true) → exec .attach s = .next (s.setF HOST_BLK_STATUS_CFG_ERR 0 0 1)) ∧
    (s.bound = true → s.inRecovery = false → Completes .attach s fun t =>
      t.attached = true ∧ t.bound = true ∧ ∀ r, r < 64 → (t.ring r).unsignalled = 0) ∧
    exec .detach s = .next (s.setF HOST_BLK_STATUS_ATTACHED 0 0 0) ∧
    (∀ (kind : Fin 3) (stream : Fin 256) (key : BitVec 256),
      (s.bound = true → Completes (.ideKm kind stream key) s fun t =>
        (kind.val = 0 → t.host.ide = (s.host.ide.filter fun x => x / 2 ^ 256 != stream.val) ++ [stream.val * 2 ^ 256 + key.toNat] ∧
          t.host.cxlIde = s.host.cxlIde) ∧
        (kind.val ≠ 0 → t.host.ide = s.host.ide ∧ t.host.cxlIde = some (kind.val == 2, key.toNat)) ∧ t.regs = s.regs) ∧
      (s.bound = false → exec (.ideKm kind stream key) s = .next s)) ∧
    (∀ (r : Fin 64) (sqEn cqEn : Bool) (sqLog cqLog : Fin 32) (vector : Fin 64) (modUs modCount : Fin 65536),
      let sq := s.flag RING_CFG_SQ_EN 0 r
      let cq := s.flag RING_CFG_CQ_EN 0 r
      (sqLog.val < 6 ∨ 16 < sqLog.val ∨ cqLog.val < 6 ∨ 16 < cqLog.val ∨ sq = true ∧ sqLog.val ≠ s.getF RING_CFG_SQ_LOG2 0 r ∨
        cq = true ∧ cqLog.val ≠ s.getF RING_CFG_CQ_LOG2 0 r →
        exec (.ringCfgWrite r sqEn cqEn sqLog cqLog vector modUs modCount) s =
          .next (s.setF HOST_BLK_STATUS_CFG_ERR 0 0 1)) ∧
      (6 ≤ sqLog.val → sqLog.val ≤ 16 → 6 ≤ cqLog.val → cqLog.val ≤ 16 →
        (sq = true → sqLog.val = s.getF RING_CFG_SQ_LOG2 0 r) → (cq = true → cqLog.val = s.getF RING_CFG_CQ_LOG2 0 r) →
        Completes (.ringCfgWrite r sqEn cqEn sqLog cqLog vector modUs modCount) s fun t =>
          t.flag RING_CFG_SQ_EN 0 r = sqEn ∧ t.flag RING_CFG_CQ_EN 0 r = cqEn ∧ t.getF RING_CFG_SQ_LOG2 0 r = sqLog ∧
          t.getF RING_CFG_CQ_LOG2 0 r = cqLog ∧ t.getF RING_CFG_VECTOR 0 r = vector ∧ t.getF RING_CFG_MOD_US 0 r = modUs ∧
          t.getF RING_CFG_MOD_COUNT 0 r = max 1 modCount.val ∧
          t.getF RING_COUNTS_FETCHED 0 r = (if sqEn && !sq then 0 else s.getF RING_COUNTS_FETCHED 0 r) ∧
          t.getF RING_COUNTS_POSTED 0 r = (if cqEn && !cq then 0 else s.getF RING_COUNTS_POSTED 0 r) ∧
          t.getF RING_STATE_STATE 0 r = (if !sqEn && !cqEn then 0
            else if s.getF RING_STATE_STATE 0 r = 0 then 1 else s.getF RING_STATE_STATE 0 r))) ∧
    (∀ (r : Fin 65) (line : List Byte), s.bound = true →
      let sqTail := leNat (line.take 4)
      let cqHead := leNat ((line.drop 4).take 4)
      ∀ p ∈ [(Instr.doorbellInvalidate r line, false), (Instr.doorbellPoll r line, true)],
        (s.flag HOST_EXPERT_DOORBELL_MODE 0 0 ≠ p.2 → exec p.1 s = .next s) ∧
        (s.flag HOST_EXPERT_DOORBELL_MODE 0 0 = p.2 → s.powerState = 2 → r.val ≠ 64 → s.ringOn r = true → Completes p.1 s fun t =>
          t.powerState = if s.wakesOn STATE_EXPERT_WAKE_ON_DOORBELL = true ∧
            (p.2 = false ∨ sqTail ≠ (s.ring r).sqTail ∨ cqHead ≠ (s.ring r).cqHead) then 3 else 2) ∧
        (s.flag HOST_EXPERT_DOORBELL_MODE 0 0 = p.2 → s.powerState ≠ 2 →
          (r.val = 64 → Completes p.1 s fun t =>
            t.err.consumed = sqTail ∧ t.host.failedRun = 0 ∧ t.regs = s.regs ∧ t.host.rings = s.host.rings ∧
            t.out = s.out ++ [⟨.hostRead, s.getF ERR_DB_ADDR_ADDR 0 0 * 64, [64], []⟩]) ∧
          (r.val ≠ 64 → s.ringOn r = true → Completes p.1 s fun t =>
            (t.ring r).sqTail = sqTail ∧ (t.ring r).cqHead = cqHead ∧ t.host.failedRun = 0 ∧
            t.out = s.out ++ [⟨.hostRead, s.getF DB_ADDR_ADDR 0 r * 64, [r.val], []⟩] ∧
            (t.getF RING_STATE_STATE 0 r, t.getF RING_STATE_CAUSE 0 r) =
              (let sqBad := s.flag RING_CFG_SQ_EN 0 r &&
                decide (s.sqSize r < (sqTail + 2 ^ 32 - s.getF RING_COUNTS_FETCHED 0 r) % 2 ^ 32)
               let ahead := (cqHead + 2 ^ 32 - s.getF RING_COUNTS_POSTED 0 r) % 2 ^ 32
               let cqBad := s.flag RING_CFG_CQ_EN 0 r && decide (0 < ahead ∧ ahead < 2 ^ 31)
               if s.getF RING_STATE_STATE 0 r = 3 ∨ s.getF RING_STATE_STATE 0 r = 0 then
                 (s.getF RING_STATE_STATE 0 r, s.getF RING_STATE_CAUSE 0 r)
               else if sqBad then (3, 1) else if cqBad then (3, 3)
               else (s.getF RING_STATE_STATE 0 r, s.getF RING_STATE_CAUSE 0 r))))) ∧
    (∀ r : Fin 64, (s.ring r).unsignalled ≠ 0 → s.getF RING_CFG_MOD_US 0 r ≠ 0 →
      let v := s.getF RING_CFG_VECTOR 0 r
      Completes (.msiModTimeout r) s fun t =>
        (t.ring r).unsignalled = 0 ∧ (s.ring r).oldest + s.getF RING_CFG_MOD_US 0 r * 1000 ≤ t.fabricNow ∧
        ((kget 1 s.host.msix (4 * v + 3)).testBit 0 = true → kget false t.host.pending v = true ∧ t.out = s.out) ∧
        ((kget 1 s.host.msix (4 * v + 3)).testBit 0 = false → t.out = s.out ++ [⟨.msix, v,
          [kget 0 s.host.msix (4 * v), kget 0 s.host.msix (4 * v + 1), kget 0 s.host.msix (4 * v + 2)], []⟩])) ∧
    exec .handleClearHw s = .next (s.setF HANDLE_COUNT_HIGH_WATER 0 0 (s.getF HANDLE_COUNT_IN_FLIGHT 0 0))

/-- Descriptors (R27, R400, R402 to R408, R428, Table 15.4): the next ring in turn is fetched, up to FETCH_BURST while handles are free (where
none is, the turn stays), and a
chain read, each descriptor with its handle, INVALID where it breaks a rule; one that starts, in fetch order, acts on its die, or
completes with what precedes of COLLAPSED, UNREACHABLE and what its own work would fail with; ORDER waits for every earlier one of
its ring. -/
def Obligations.HostDescriptors : Prop :=
  ∀ s : State,
    (∀ data, s.attached = false ∨ s.awake = false ∨ s.power.inReset = true ∨ s.power.stopped ≠ none ∨ s.nextRing = none →
      exec (.ringFetch data) s = .next s) ∧
    (∀ data r, s.attached = true → s.awake = true → s.power.inReset = false → s.power.stopped = none → s.nextRing = some r →
      let f := s.getF RING_COUNTS_FETCHED 0 r
      let burst := min 64 (max 1 (s.getF HOST_EXPERT_FETCH_BURST 0 0))
      let d := descOf (data.take 64) s.host.uids (r * 2 ^ 26 + f % 2 ^ 25) r (s.ring r).orders
      (Completes (.ringFetch data) s fun t => ∃ k ≤ min burst (data.length / 64),
        t.getF RING_COUNTS_FETCHED 0 r = (f + k) % 2 ^ 32 ∧ t.host.turn = (if k = 0 then s.host.turn else (r + 1) % 64) ∧
        t.host.failedRun = (if k = 0 then s.host.failedRun else 0) ∧ t.out.length = s.out.length + k ∧
        t.mem = s.mem ∧ (k = min burst (data.length / 64) ∨ t.handleFree = false ∨ t.fetchable r = false)) ∧
      (s.handleFree = true → data.length = 64 →
        Completes (.ringFetch data) s fun t =>
          t.getF RING_COUNTS_FETCHED 0 r = (f + 1) % 2 ^ 32 ∧
          t.out = s.out ++ [⟨.hostRead, s.getF SQ_BASE_BASE 0 r * 4096 + f % s.sqSize r * 64, [r], []⟩] ∧
          (descOk data d = true → t.host.descs = s.host.descs ++ [d] ∧ t.host.due = s.host.due) ∧
          (descOk data d = false → ∃ u : State, u.host.descs = s.host.descs ++ [d] ∧ u.host.due = s.host.due ∧
            t.host.descs = (u.descDone d.uid stINVALID 0 0).host.descs ∧ t.host.due = (u.descDone d.uid stINVALID 0 0).host.due))) ∧
    (∀ (n : Fin 1024) c, s.host.chains[n.val]? = some c → s.handleFree = true → s.awake = true → s.power.inReset = false →
      s.power.stopped = none → s.accessHeld c.addr 64 false = false →
      ((s.extentReach c.addr 64 ≠ .ok ∨ s.poisoned c.addr 64 = true) → Completes (.chainRead n) s fun t =>
        t.host.chains = s.host.chains.eraseIdx n.val ∧ t.flag HOST_BLK_STATUS_CHAIN_ERR 0 0 = true ∧
        t.host.descs = s.host.descs) ∧
      (s.extentReach c.addr 64 = .ok → s.poisoned c.addr 64 = false →
        let d := descOf (s.bytes c.addr 64) s.host.uids (c.ring * 2 ^ 26 + 2 ^ 25 + (s.ring c.ring).chained % 2 ^ 25) c.ring
          (s.ring c.ring).orders
        Completes (.chainRead n) s fun t =>
        (descOk (s.bytes c.addr 64) d = true → t.host.descs = s.host.descs ++ [d] ∧ t.host.due = s.host.due) ∧
        (descOk (s.bytes c.addr 64) d = false → ∃ u : State, u.host.descs = s.host.descs ++ [d] ∧ u.host.due = s.host.due ∧
          t.host.descs = (u.descDone d.uid stINVALID 0 0).host.descs ∧ t.host.due = (u.descDone d.uid stINVALID 0 0).host.due) ∧
        t.host.chains = (if ((s.bytes c.addr 64).getD 1 0).toNat.testBit 7 ∨ 4096 ≤ c.count + 1 then s.host.chains.eraseIdx n.val
          else s.host.chains.set n.val ⟨c.addr + 64, c.ring, c.count + 1⟩) ∧
        (((s.bytes c.addr 64).getD 1 0).toNat.testBit 7 = false → 4096 ≤ c.count + 1 →
          t.flag HOST_BLK_STATUS_CHAIN_ERR 0 0 = true))) ∧
    (∀ (handle : BitVec 32) (d : Desc),
      (∀ p ∈ [(Instr.nopDesc handle, 0, noCheck), (Instr.copy handle, 1, fun u d => u.sourceStatus d.die (u.copyRequest d)),
          (Instr.descAtomic handle, 2, fun u d => u.sourceStatus d.die (u.descAtomic d)),
          (Instr.launch handle, 3, State.launchStatus), (Instr.update handle, 6, noCheck),
          (Instr.exportDesc handle, 7, State.exportStatus)],
        (s.startable handle.toNat p.2.1 = none → exec p.1 s = .next s) ∧
        (s.startable handle.toNat p.2.1 = some d → (s.collapseDiscards d.step 0 = true ∨ s.dieRunning d.die = false) →
          exec p.1 s = .next ((s.startDesc d.uid).descDone d.uid (statusMax (p.2.2 (s.startDesc d.uid) d)
            (statusMax (if s.collapseDiscards d.step 0 then stCOLLAPSED else stDONE)
              (if s.dieRunning d.die then stDONE else stUNREACHABLE))) 0 0))) ∧
      (∀ p ∈ [(Instr.position handle, 4), (Instr.descStepReady handle, 5)],
        (s.startable handle.toNat p.2 = none → exec p.1 s = .next s) ∧
        (s.startable handle.toNat p.2 = some d → s.collapseDiscards d.step 0 = true →
          exec p.1 s = .next ((s.startDesc d.uid).descDone d.uid stCOLLAPSED 0 0))) ∧
      (s.collapseDiscards d.step 0 = false → s.dieRunning d.die = true →
        let u := s.startDesc d.uid
        (s.startable handle.toNat 0 = some d →
          exec (.nopDesc handle) s = .next (u.descDone d.uid stDONE 0 0).afterWork) ∧
        (s.startable handle.toNat 1 = some d →
          exec (.copy handle) s = .next (u.remoteIssue noFire d.die (u.copyRequest d)).afterWork) ∧
        (s.startable handle.toNat 2 = some d →
          exec (.descAtomic handle) s = .next (u.remoteIssue State.fireTrigger d.die (u.descAtomic d)).afterWork) ∧
        (s.startable handle.toNat 3 = some d →
          let named (g : Nat) : Bool := decide (g < 96) && d.a1.testBit (g / 12) && d.a2.testBit (g % 12)
          (s.extentReach d.a0 2 = .ok → (∃ g, named g = true ∧ s.flag CORE_CTRL_RUN d.die g = true) →
            exec (.launch handle) s = .next (u.descDone d.uid stNORES 0 0).afterWork) ∧
          (s.extentReach d.a0 2 = .unmapped →
            exec (.launch handle) s = .next (u.descDone d.uid stINVALID 0 0).afterWork) ∧
          ((s.extentReach d.a0 2 = .ok ∨ s.extentReach d.a0 2 = .held) →
            (∀ g, named g = true → s.flag CORE_CTRL_RUN d.die g = false) →
            CompletesThen (.launch handle) s (fun v => (v.descDone d.uid stDONE 0 0).afterWork) fun v =>
              (∀ g, named g = true → v.flag CORE_CTRL_RUN d.die g = true ∧ v.flag CORE_STATUS_SPUR_HALTED d.die g = false ∧
                (v.coreOf d.die g).pc = d.a0 / 2 % 2 ^ 47 * 2) ∧
              (∀ g, g < 96 → named g = false → v.coreOf d.die g = s.coreOf d.die g) ∧ v.mem = s.mem)) ∧
        (s.startable handle.toNat 6 = some d →
          exec (.update handle) s = .next ((u.requestUpdate (d.a0 % 4096)).descDone d.uid stDONE 0 0).afterWork) ∧
        (s.startable handle.toNat 7 = some d →
          (u.exportStatus d ≠ stDONE →
            exec (.exportDesc handle) s = .next (u.descDone d.uid (u.exportStatus d) 0 0).afterWork) ∧
          (u.exportStatus d = stDONE → CompletesThen (.exportDesc handle) s State.afterWork fun v =>
            v.upd.exports = s.upd.exports ++
              [⟨s.upd.seq, d.die, none, some d.uid, d.a0 % 2 ^ 48, d.step, false, 0, stDONE, 0, [], 0, []⟩] ∧
            v.host.due = s.host.due ∧ v.mem = s.mem))) ∧
      (s.collapseDiscards d.step 0 = false →
        let dies := (List.range 4).filter fun k => d.mask.testBit k && s.dieRunning k
        let st := if s.deadMask d.mask = 0 then stDONE else stDEGRADED
        (s.startable handle.toNat 4 = some d →
          exec (.position handle) s = .next (((dies.foldl (fun u k => u.writePos k d.a0) (s.startDesc d.uid)).descDone
            d.uid st 0 (s.deadMask d.mask)).afterWork)) ∧
        (s.startable handle.toNat 5 = some d →
          exec (.descStepReady handle) s = .next (((dies.foldl (fun u k => u.stepReady k d.a0) (s.startDesc d.uid)).descDone
            d.uid st 0 (s.deadMask d.mask)).afterWork))) ∧
      (∀ e, s.host.descs.any (fun x => x.ring == e.ring && decide (x.order < e.order) && x.released && !x.started &&
          !s.completed x.uid) = true → ∀ op, s.startable e.handle op ≠ some e) ∧
      (∀ e : Desc, s.dieRunning e.die = true → s.getF COL_STATUS_STATE 0 e.die ≠ 0 → ∀ op, s.startable e.handle op ≠ some e) ∧
      (s.host.descs.find? (fun d => d.handle == handle.toNat && !d.released) = some d →
        (s.host.descs.any (fun x => x.ring == d.ring && decide (x.order < d.order) && !s.completed x.uid) = true →
          exec (.orderRelease handle) s = .next s) ∧
        (s.host.descs.any (fun x => x.ring == d.ring && decide (x.order < d.order) && !s.completed x.uid) = false →
          Completes (.orderRelease handle) s fun t =>
            (∀ x ∈ t.host.descs, x.uid = d.uid → x.released = true) ∧
            t.host.descs.length = s.host.descs.length ∧ t.regs = s.regs)))

/-- Completions (R403, R409 to R412, Table 15.6): a descriptor's end waits to be placed, or frees its handle where it succeeded
without a wish for one; placed, it is written to its ring, goes to the lowest free slot of the spill area where the ring is not ready, its
bytes written there, or waits; spilled ones are written in order, and losses are reported. -/
def Obligations.HostCompletions : Prop :=
  ∀ s : State,
    (∀ uid status result detail d, s.completed uid = false →
      s.host.descs.find? (fun d => d.uid == uid) = some d →
      (d.discard = true ∨ status = stDONE ∧ d.flags.testBit 2 = true →
        s.descDone uid status result detail = s.setDescs (s.host.descs.filter fun d => d.uid != uid)) ∧
      (d.discard = false → (status ≠ stDONE ∨ d.flags.testBit 2 = false) →
        s.descDone uid status result detail = s.setHost fun r => { r with due := r.due ++ [⟨uid, 0, d.handle, status, 0, d.opcode,
          !s.bound, result, d.step, d.cq, detail, s.fabricNow, d.flags.testBit 1⟩] })) ∧
    (s.host.due = [] → exec .completionPost s = .next s) ∧
    (∀ c rest, s.host.due = c :: rest → c.cq < 64 →
      (s.cqReady c.cq = true → (∀ x ∈ s.host.spill, x.cq ≠ c.cq) →
        let n := s.getF RING_COUNTS_POSTED 0 c.cq
        Completes .completionPost s fun t =>
          t.host.due = rest ∧ t.host.spill = s.host.spill ∧ t.getF RING_COUNTS_POSTED 0 c.cq = (n + 1) % 2 ^ 32 ∧
          (∃ more, t.out = s.out ++ ⟨.hostWrite, s.getF CQ_BASE_BASE 0 c.cq * 4096 + n % s.cqSize c.cq * 32, [],
            c.bytes (1 - n / s.cqSize c.cq % 2) false⟩ :: more) ∧
          (c.kind = 0 → t.host.descs = s.host.descs.filter fun d => d.uid != c.uid)) ∧
      ((s.cqReady c.cq = false ∨ ∃ x ∈ s.host.spill, x.cq = c.cq) → s.spillFull = false →
        let n := lowestFree (s.host.spill.map (·.slot)) s.host.spill.length 0
        Completes .completionPost s fun t =>
          t.host.due = rest ∧ t.host.spill = s.host.spill ++ [{ c with slot := n }] ∧ t.out = s.out ∧
          ((s.host.spill.map (·.slot)).Nodup → (t.host.spill.map (·.slot)).Nodup) ∧
          (s.PostsNow campDie (s.spillAddr n) 32 → s.NoErrs → t.bytes (s.spillAddr n) 32 = c.bytes 0 true ∧
            ∀ a, Outside a (s.spillAddr n) 32 → t.byte a = s.byte a) ∧
          (c.kind = 0 → t.host.descs = s.host.descs.filter fun d => d.uid != c.uid)) ∧
      ((s.cqReady c.cq = false ∨ ∃ x ∈ s.host.spill, x.cq = c.cq) → s.spillFull = true → rest = [] →
        (c.kind = 0 → exec .completionPost s = .next s) ∧
        (c.kind ≠ 0 → Completes .completionPost s fun t =>
          t.host.due = [] ∧ t.host.spill = s.host.spill ∧ (t.ring c.cq).lost = (s.ring c.cq).lost + 1 ∧
          t.getF SPILL_STATUS_LOST 0 0 = min (2 ^ 32 - 1) (s.getF SPILL_STATUS_LOST 0 0 + 1)))) ∧
    (∀ (r : Fin 64) c, s.host.spill.find? (fun c => c.cq == r.val) = some c →
      let a := s.spillAddr c.slot
      (s.cqReady r = false ∨ s.engineHeld campDie a 32 false = true → exec (.spillDrain r) s = .next s) ∧
      (s.cqReady r = true → s.engineHeld campDie a 32 false = false →
        exec (.spillDrain r) s = .next (((s.look campDie 109 a 32).setSpill (s.host.spill.erase c) r).writeCompletion c true))) ∧
    (s.spillFull = true → exec .spillLoss s = .next s) ∧
    (let losers := (List.range 64).filter fun r => (s.ring r).lost != 0
     s.host.spill.length + losers.length ≤ 2097152 → Completes .spillLoss s fun t =>
      (∀ r, r < 64 → (t.ring r).lost = 0) ∧ t.out = s.out ∧
      t.host.spill.map (fun c => { c with slot := 0 }) = s.host.spill.map (fun c => { c with slot := 0 }) ++
        losers.map fun r => ⟨0, 0, 0, 0, 3, 0, !s.bound, (s.ring r).lost, 0, r, 0, s.fabricNow, false⟩)

/-- Device memory and requests to the host (R391, R392, R394, R401, R460, R462, R39, R40, R171, R175): an access in the committed size is
performed with its poison and joins the snoop filter, waits, or is refused; a full filter has its oldest grant back-invalidated; a
back-invalidation brings the line's bytes back and frees it; a failed request counts, and the fourth in succession ends the binding. -/
def Obligations.HostMemory : Prop :=
  ∀ s : State,
    (∀ (line : Fin 12884901888) (kind : Fin 4) data pois,
      let w : HdmAccess := ⟨line, kind, data, pois⟩
      let a := line.val * 64
      let later := (s.makeRoom w).setArrivals (s.arrivals ++ [⟨[(a, 64, decide (kind.val ≠ 0))], .hdm w⟩])
      (s.bound = false ∨ s.host.linkUp = false ∨ s.host.hdmSize < a + 64 ∨ s.power.inReset = true →
        exec (.hdmAccess line kind data pois) s = .next s) ∧
      (s.bound = true → s.host.linkUp = true → a + 64 ≤ s.host.hdmSize → s.power.inReset = false →
        (s.powerState < 2 →
          (s.extentReach a 64 = .ok → s.NoErrs →
            (kind.val = 0 → exec (.hdmAccess line kind data pois) s = .next (if s.behind a 64 false then later
              else s.hdmAnswer line (if s.poisoned a 64 then stPOISONED else stDONE) (s.marks a 64) (s.bytes a 64))) ∧
            (kind.val = 1 ∨ kind.val = 2 →
              (s.behind a 64 true = true ∨ 262144 ≤ (s.host.snoop.filter fun l => l.1 != line.val).length →
                exec (.hdmAccess line kind data pois) s = .next later) ∧
              (∀ l rest, (s.host.snoop.filter fun l => l.1 != line.val) = l :: rest → 262144 ≤ rest.length + 1 → s.host.victim = none →
                Completes (.hdmAccess line kind data pois) s fun t => t.host.victim = some l.1 ∧ t.host.snoop = s.host.snoop ∧
                  t.getF SF_STATUS_BISNP 0 0 = (s.getF SF_STATUS_BISNP 0 0 + 1) % 2 ^ 32 ∧
                  t.out = s.out ++ [⟨.other, 131075, [l.1], []⟩]) ∧
              (s.behind a 64 true = false → (s.host.snoop.filter fun l => l.1 != line.val).length < 262144 →
                Completes (.hdmAccess line kind data pois) s fun t =>
                  t.host.snoop = (s.host.snoop.filter fun l => l.1 != line.val) ++ [(line.val, kind.val == 2)] ∧ t.mem = s.mem ∧
                  t.out = s.out ++ [⟨.other, 131073, line.val :: (if s.poisoned a 64 then stPOISONED else stDONE) ::
                    (s.marks a 64).map b2n, s.bytes a 64⟩])) ∧
            (kind.val = 3 → data.length = 64 → Completes (.hdmAccess line kind data pois) s fun t =>
              t.bytes a 64 = data ∧ t.poisoned a 64 = pois ∧ (∀ b, Outside b a 64 → t.byte b = s.byte b) ∧
              t.host.snoop = (s.host.snoop.filter fun l => l.1 != line.val) ∧
              t.out = s.out ++ [⟨.other, 131073, [line.val, stDONE], []⟩])) ∧
          (s.extentReach a 64 = .held →
            (kind.val ≠ 3 → exec (.hdmAccess line kind data pois) s = .next later) ∧
            (kind.val = 3 → exec (.hdmAccess line kind data pois) s =
              .next (s.setArrivals (⟨[(a, 64, true)], .hdm w⟩ :: s.arrivals)))) ∧
          (s.extentReach a 64 = .retired ∨ s.extentReach a 64 = .unreachable →
            exec (.hdmAccess line kind data pois) s = .next (s.hdmAnswer line (s.extentReach a 64).status
              (if kind.val = 3 then [] else List.replicate 16 true) (if kind.val = 3 then [] else List.replicate 64 0)))) ∧
        (s.powerState = 3 ∨ s.powerState = 6 → exec (.hdmAccess line kind data pois) s = .next (s.park [] (.hdm w))) ∧
        (s.powerState = 2 → exec (.hdmAccess line kind data pois) s = .next
          ((if s.wakesOn STATE_EXPERT_WAKE_ON_REQUEST then s.setF STATE_STATUS_STATE 0 0 3 else s).park [] (.hdm w))) ∧
        (s.powerState = 5 → exec (.hdmAccess line kind data pois) s =
          .next ((s.hdmAnswer line stUNREACHABLE (if kind.val = 3 then [] else List.replicate 16 true)
            (if kind.val = 3 then [] else List.replicate 64 0)).satF STATE_STATUS_HDM_REFUSED 0 0 1)))) ∧
    (∀ (line : Fin 12884901888) data pois,
      (s.host.snoop.find? (fun l => l.1 == line.val) = none → exec (.bisnpComplete line data pois) s = .next s) ∧
      (∀ l, s.host.snoop.find? (fun l => l.1 == line.val) = some l → s.NoErrs →
        CompletesThen (.bisnpComplete line data pois) s State.releaseAll fun u =>
          u.host.snoop = s.host.snoop.filter (fun x => x.1 != line.val) ∧
          u.getF SF_STATUS_BISNP 0 0 =
            (if s.host.victim = some line.val then s.getF SF_STATUS_BISNP 0 0 else (s.getF SF_STATUS_BISNP 0 0 + 1) % 2 ^ 32) ∧
          u.host.victim ≠ some line.val ∧
          (∀ a, Outside a (line * 64) 64 → u.byte a = s.byte a) ∧
          ((l.2 = false ∨ data = [] ∨ s.extentReach (line * 64) 64 ≠ .ok) → u.mem = s.mem) ∧
          (l.2 = true → data.length = 64 →
            (s.extentReach (line * 64) 64 = .ok → u.bytes (line * 64) 64 = data ∧ u.poisoned (line * 64) 64 = pois) ∧
            (s.extentReach (line * 64) 64 = .held →
              u.arrivals = ⟨[(line.val * 64, 64, true)], .line line data pois⟩ :: s.arrivals)))) ∧
    ∀ (result : Fin 4) data marks,
      (∀ (r : Fin 64) (d : Fin 4) (id : Fin 4096), s.host.failedRun < 3 →
        CompletesThen (.hostRequestCompletion (some r) d id result data marks) s State.releaseAll fun u =>
          u.host.failedRun = (if result.val = 0 then 0 else s.host.failedRun + 1) ∧ u.bound = s.bound ∧
          (result.val ≠ 0 → s.bound = true → s.getF RING_STATE_STATE 0 r ≠ 0 →
            u.getF RING_STATE_STATE 0 r = 3 ∧ u.getF RING_STATE_CAUSE 0 r = 2 ∧ u.flag HOST_BLK_STATUS_RING_ERR 0 0 = true)) ∧
      (∀ (d : Fin 4) (id : Fin 4096),
        ((s.tracker d).late.any (fun l => l.1 == id.val && l.2.2 == hostSeg) = true →
          exec (.hostRequestCompletion none d id result data marks) s = .next (s.dropLateHost d id)) ∧
        (∀ e, (s.tracker d).late.any (fun l => l.1 == id.val && l.2.2 == hostSeg) = false → s.entryOf d id = some e →
          e.phase = .host →
          (s.host.failedRun < 3 →
            CompletesThen (.hostRequestCompletion none d id result data marks) s State.releaseAll fun u =>
              u.host.failedRun = (if result.val = 0 then 0 else s.host.failedRun + 1) ∧ u.bound = s.bound ∧
              (e.req.kind = .get ∧ result.val = 0 ∧ s.accessHeld e.req.loc data.length true = true →
                (u.entryOf d id).map (·.phase) = some .landing ∧ u.mem = s.mem) ∧
              (¬ (e.req.kind = .get ∧ result.val = 0 ∧ s.accessHeld e.req.loc data.length true = true) → u.entryOf d id = none) ∧
              (result.val = 3 → u.getF TIMEOUT_COUNT_COUNT d 0 = (s.getF TIMEOUT_COUNT_COUNT d 0 + 1) % 2 ^ 64)) ∧
          (3 ≤ s.host.failedRun → result.val ≠ 0 →
            CompletesThen (.hostRequestCompletion none d id result data marks) s State.releaseAll fun u =>
              u.bound = false ∧ (s.bound = true → u.attached = false))))

/-! ### The package (chapter 16) -/

/-- Saddle and Col links and the paths over them (R30, R31, R417 to R428, R433): a clean flit lands as it was sent and changes no count,
one wrong symbol is corrected and counted, two send the link to training and poison what they land in, 64 in succession mark a dead wire;
a flit that finds the link in training, or at another setting, is discarded and kept by its sender, and goes again after the training,
which ends at the best setting that passes, or the link is DOWN, and the ledger keeps a loss; a Col link sends the highest kind that
waits, sends a flit that fails its CRC again, and retrains after sixteen failures of one direction; a path change releases what waited. -/
def Obligations.PackageLinks : Prop :=
  ∀ (s : State),
    (∀ (l : Fin 4) (e : Fin 2) (width sel : Fin 4) (data : List Byte) dst,
      let kept (t : State) : Prop := t.mem = s.mem ∧ t.poison = s.poison ∧
        ∃ f ∈ (t.saddle (2 * l + (1 - e))).hold, f.discarded = true ∧ f.data = data ∧ f.dst = dst.map (·.toNat)
      (∀ errs, s.getF SADDLE_STATUS_STATE 0 l = 1 →
        Completes (.saddleFlit l e width sel data errs dst) s fun t => t.regs = s.regs ∧ kept t) ∧
      (∀ errs, s.getF SADDLE_STATUS_STATE 0 l = 0 →
        width.val ≠ s.getF SADDLE_STATUS_WIDTH 0 l ∨ sel.val ≠ s.getF SADDLE_STATUS_SEL 0 l →
        Completes (.saddleFlit l e width sel data errs dst) s fun t =>
          t.getF SADDLE_STATUS_STATE 0 l = 1 ∧ kept t ∧
          t.getF SADDLE_STATUS_WIDTH_MISMATCHES 0 l = min 65535 (s.getF SADDLE_STATUS_WIDTH_MISMATCHES 0 l + 1)) ∧
      (s.getF SADDLE_STATUS_STATE 0 l = 0 → width.val = s.getF SADDLE_STATUS_WIDTH 0 l → sel.val = s.getF SADDLE_STATUS_SEL 0 l →
        Completes (.saddleFlit l e width sel data [] dst) s (fun t => t.regs = s.regs ∧ t.out = s.out ∧
          (dst = none → t.mem = s.mem ∧ t.poison = s.poison) ∧
          ∀ a, dst = some a → s.extentReach a.toNat 512 = .ok → data.length = 512 →
            t.bytes a.toNat 512 = data ∧ ∀ b, Outside b a.toNat 512 → t.byte b = s.byte b) ∧
        ∀ (i j k : Nat) (f f' : BitVec 4), i < 64 → j < 20 → k < 20 → j ≠ k → f ≠ 0 → f' ≠ 0 → width.val = 0 →
          (∀ p ∈ (s.saddle (2 * l + e)).dead, p.1 ≠ i / 4) →
          ((kget (0, 0) (s.saddle (2 * l + e)).streaks i ≠ (j, 63) → (kget (0, 0) (s.saddle (2 * l + e)).streaks i).2 < 64 →
            Completes (.saddleFlit l e width sel data [⟨i, j, f⟩] dst) s fun t =>
              t.getF (saddleCorrected e) 0 l = min (2 ^ 32 - 1) (s.getF (saddleCorrected e) 0 l + 1) ∧
              t.getF SADDLE_STATUS_STATE 0 l = 0 ∧ (t.saddle (2 * l + e)).dead = (s.saddle (2 * l + e)).dead)) ∧
          (kget (0, 0) (s.saddle (2 * l + e)).streaks i = (j, 63) →
            Completes (.saddleFlit l e width sel data [⟨i, j, f⟩] dst) s fun t =>
              (t.saddle (2 * l + e)).dead = (s.saddle (2 * l + e)).dead ++ [(i / 4, 20 * (i % 4) + j)] ∧
              (t.getF (saddleDeadMask e) 0 l).testBit (i / 4) = true ∧
              t.getF SADDLE_STATUS_STATE 0 l = b2n (s.fenceOf 0).degrade) ∧
          Completes (.saddleFlit l e width sel data [⟨i, j, f⟩, ⟨i, k, f'⟩] dst) s fun t =>
            t.getF (saddleUncorrected e) 0 l = min 65535 (s.getF (saddleUncorrected e) 0 l + 1) ∧
            t.getF SADDLE_STATUS_STATE 0 l = 1 ∧ t.err.raised.length = s.err.raised.length + 1 ∧
            (dst = none → t.mem = s.mem ∧ t.poison = s.poison) ∧
            ∀ a, dst = some a → s.extentReach a.toNat 512 = .ok → t.poisoned (a.toNat + 8 * i) 8 = true)) ∧
    (∀ (l : Fin 4) (e : Fin 2), ∀ f ∈ ((s.resendFlits l).saddle (2 * l + e)).hold, f.discarded = false) ∧
    (∀ (l : Fin 4) (failed : List (Fin 16)),
      (s.getF SADDLE_STATUS_STATE 0 l ≠ 1 → exec (.saddleTrainingDone l failed) s = .next s) ∧
      (s.getF SADDLE_STATUS_STATE 0 l = 1 →
        let old := s.getF SADDLE_LEDGER_WIDTH 0 l
        let w := match s.saddleResult l (failed.map (·.val)) with | some p => p.1 | none => 3
        let q := match s.saddleResult l (failed.map (·.val)) with | some p => p.2 | none => 0
        CompletesThen (.saddleTrainingDone l failed) s
          (fun u => ((((((u.resendFlits l).noteHealth).repath).gateIsolate).reconnect.tryFatal).releaseAll)) fun u =>
            u.getF SADDLE_STATUS_WIDTH 0 l = w ∧ u.getF SADDLE_STATUS_SEL 0 l = q ∧
            u.getF SADDLE_STATUS_STATE 0 l = (if w = 3 then 2 else 0) ∧
            u.getF SADDLE_LEDGER_WIDTH 0 l = (if old < w then w else old) ∧
            (old < w → u.flag PKG_BLK_STATUS_LEDGER_LOWERED 0 0 = true) ∧ (u.saddle (2 * l)).trained = true ∧
            u.getF SADDLE_STATUS_RETRAINS 0 l = (if (s.saddle (2 * l)).trained = true ∨ old < w then
              min (2 ^ 32 - 1) (s.getF SADDLE_STATUS_RETRAINS 0 l + 1) else s.getF SADDLE_STATUS_RETRAINS 0 l))) ∧
    (∀ d : Fin 4,
      (∀ (up : Bool) (offered : List (Fin 4 × List Byte)),
        let c := s.col d
        let x := { c.dir up with queue := (c.dir up).queue ++ offered.map fun f => (f.1.val, f.2) }
        (∀ flips, s.getF COL_STATUS_STATE 0 d = 1 ∨ (s.getF COL_STATUS_STATE 0 d = 0 ∧ x.slot = none) →
          exec (.colFlit d up offered flips) s = .next (s.setCol d (c.setDir up x))) ∧
        ∀ f y, s.getF COL_STATUS_STATE 0 d = 0 → x.slot = some (f, y) →
          (x.again = false → f ∈ y.sent ∧ ∃ k, (k, f) ∈ x.queue ∧ ∀ q ∈ x.queue, k ≤ q.1) ∧
          (f.length = 60 → Completes (.colFlit d up offered []) s fun t =>
            t.regs = s.regs ∧ t.mem = s.mem ∧ ((t.col d).dir up).streak = 0 ∧ ((t.col d).dir up).again = false ∧
            (t.col d).dir (!up) = c.dir (!up)) ∧
          ∀ flips : List (Fin 512), colIntact (flipBits (f ++ leBytes 4 (crc32 f)) (flips.map (·.val))) = false →
            Completes (.colFlit d up offered flips) s fun t =>
              t.getF COL_STATUS_REPLAYS 0 d = min (2 ^ 32 - 1) (s.getF COL_STATUS_REPLAYS 0 d + 1) ∧ t.mem = s.mem ∧
              ((t.col d).dir up).again = true ∧ (t.col d).dir (!up) = c.dir (!up) ∧
              (y.streak + 1 < 16 → t.getF COL_STATUS_STATE 0 d = 0 ∧ ((t.col d).dir up).streak = y.streak + 1) ∧
              (16 ≤ y.streak + 1 → t.getF COL_STATUS_STATE 0 d = 1)) ∧
      (s.getF COL_STATUS_STATE 0 d = 1 →
        exec (.colLinkTrained d) s = .next ((s.setF COL_STATUS_STATE 0 d 0).trainShells [(3, 2 * d.val), (3, 2 * d.val + 1)]) ∧
        exec (.colRetrainTimeout d) s = .next ((s.setF COL_STATUS_STATE 0 d 2).gateFence d 3)) ∧
      (s.getF COL_STATUS_STATE 0 d ≠ 1 →
        exec (.colRetrainTimeout d) s = .next s ∧
        (3 ∈ (s.fenceOf d).causes → exec (.colLinkTrained d) s = .next (s.clearCause d 3)) ∧
        (3 ∉ (s.fenceOf d).causes → exec (.colLinkTrained d) s = .next s))) ∧
    ∀ a b : Fin 4,
      ((s.pairPath a b).waiting = false → exec (.pathHoldRelease a b) s = .next s) ∧
      ((s.pairPath a b).waiting = true →
        CompletesThen (.pathHoldRelease a b) s State.releaseAll fun u =>
          (u.pairPath a b).waiting = false ∧ (u.pairPath a b).path = (s.pairPath a b).path ∧ u.regs = s.regs ∧ u.mem = s.mem)

/-- The fence of a die and its return (R39, R42, R424, R426, R430 to R435, R457): a cause fences a running die, whose cores, queues,
tracker and engines start from nothing; a further cause is kept; a low-power state holds the fence and ends; when its causes have
cleared, a die is reset, starts up, and runs again with its restores. -/
def Obligations.DieFenceAndReturn : Prop :=
  ∀ (d : Fin 4) (s : State),
    (s.powerState = 0 → s.power.stopped = none → s.power.inReset = false →
      ∀ p ∈ [(Instr.clockLoss d, 2), (Instr.fatalDie d, 4)],
        (s.dieState d ≠ 1 → s.dieState d ≠ 4 →
          CompletesThen p.1 s (fun u => (((((if s.dieRunning d then ((u.fenceStop d).stopPorts d).oweCollapse d
            else u).fenceReport d p.2).repath).advanceDie d).noteHealth.isolate.tryFatal).afterWork) fun u =>
              u.dieState d = 1 ∧ u.getF DIE_STATE_CAUSE 0 d = p.2 ∧
              u.getF DIE_STATE_FENCES 0 d = min 65535 (s.getF DIE_STATE_FENCES 0 d + 1) ∧ u.getF COL_STATUS_STATE 0 d = 3 ∧
              (∀ l ∈ dieLinks d, u.getF SADDLE_STATUS_STATE 0 l = 3) ∧ p.2 ∈ (u.fenceOf d).causes ∧
              (u.fenceOf d).auto = s.flag PKG_EXPERT_AUTO_REJOIN 0 0 ∧ u.mem = s.mem) ∧
        (s.dieRunning d = true →
          CompletesThen p.1 s (fun u =>
            (((((u.stopPorts d).oweCollapse d).fenceReport d p.2).repath.advanceDie d).noteHealth.isolate.tryFatal).afterWork)
            fun u => (∀ g, g < 96 → u.coreOf d g = Core.zero) ∧ (u.tracker d).entries = [] ∧ (u.tracker d).waiters = [] ∧
              (u.tracker d).done = [] ∧ u.reserveList d = [] ∧
              (∀ q, q < 64 → u.queue d q = Queue.zero) ∧ u.traverse d = Traverse.zero ∧
              kget Switchback.zero u.switchbacks d = Switchback.zero) ∧
        (s.dieState d = 1 ∨ s.dieState d = 4 →
          CompletesThen p.1 s (fun u => u.isolate.tryFatal.afterWork) fun u =>
            u.dieState d = s.dieState d ∧ u.getF DIE_STATE_CAUSE 0 d = p.2 ∧ p.2 ∈ (u.fenceOf d).causes ∧
            u.cores = s.cores ∧ u.mem = s.mem)) ∧
    (∀ (dies : Fin 16) (p : Fin 16), ∀ q ∈ [(Instr.clockLoss d, HeldReset.fence d 2), (Instr.fatalDie d, HeldReset.fence d 4),
        (Instr.dieReset dies, HeldReset.dies dies), (Instr.portReset p, HeldReset.port p)],
      s.power.inReset = false → (s.powerState = 2 ∨ s.powerState = 3 ∨ s.powerState = 5 ∨ s.powerState = 6) →
        Completes q.1 s fun t =>
          t.low.heldResets = s.low.heldResets ++ [q.2] ∧ t.mem = s.mem ∧
          t.powerState = if s.powerState = 2 then 3 else if s.powerState = 5 then 6 else s.powerState) ∧
    (s.powerState = 0 → s.power.inReset = false →
      (∀ dies : Fin 16, (∀ k, k < 4 → s.dieRunning k = true → dies.val.testBit k = true) →
        exec (.dieReset dies) s = .next (s.setF PKG_BLK_STATUS_DIE_CMD_ERR 0 0 1)) ∧
      (∀ k, k < 4 → k ≠ d.val → s.dieRunning k = true → s.dieRunning d = true → ∀ dies : Fin 16, dies.val = 2 ^ d.val →
        exec (.dieReset dies) s = .next (((s.fenceOne d 1).isolate.tryFatal.clearCause d 1).afterWork))) ∧
    (∀ dies : Fin 16, Completes (.rejoin dies) s fun t =>
      (∀ k, k < 4 → t.dieState k = if dies.val.testBit k = true ∧ s.dieState k = 4 ∧ (s.fenceOf k).causes = [] ∧
        (dieLinks k).any s.ledgerLive = true then 2 else s.dieState k) ∧
      (∀ k, k < 4 → dies.val.testBit k = true → s.dieState k ≠ 4 → t.flag PKG_BLK_STATUS_DIE_CMD_ERR 0 0 = true)) ∧
    (2 ∈ (s.fenceOf d).causes → Completes (.clockStableExpiry d) s fun t =>
      (t.fenceOf d).causes = (s.fenceOf d).causes.filter (· != 2) ∧
      t.dieState d = (if s.power.stopped = none ∧ s.dieState d = 1 ∧ (dieLinks d).any s.ledgerLive = true then
        (if (s.fenceOf d).auto = false then 4 else if ∀ c ∈ (s.fenceOf d).causes, c = 2 then 2 else 1) else s.dieState d)) ∧
    (2 ∉ (s.fenceOf d).causes → exec (.clockStableExpiry d) s = .next s) ∧
    (s.dieState d = 2 → Completes (.dieStartupDone d) s fun t =>
      t.dieState d = 3 ∧ t.getF COL_STATUS_STATE 0 d = 0 ∧ t.mem = s.mem ∧
      ∀ l ∈ dieLinks d, t.getF SADDLE_STATUS_STATE 0 l =
        if s.ledgerLive l = false then 2 else if s.dieState (otherEnd l d) = 0 ∨ s.dieState (otherEnd l d) = 3 then 1
        else s.getF SADDLE_STATUS_STATE 0 l) ∧
    (s.dieState d = 3 → s.power.stopped = none → ∀ refused : List (Fin 3),
      CompletesThen (.dieRestoreComplete d refused) s (fun u => ((List.range 4).foldl (fun v i => v.trainPort (4 * d.val + i))
        ((((u.rejoinWork d (refused.map (·.val))).lapseEntries d).sendState.repath).isolate.reconnect)).noteHealth.releaseAll) fun u =>
          u.dieState d = 0 ∧ u.getF TRAIL_STATUS_GEN d 0 = s.fabric.gen % 2 ^ 32 ∧ u.aheadPos d = 0 ∧
          u.localPos d = contourAt (stepOfValue (s.contourOf d)) 0 % 2 ^ 64 ∧
          ∀ g, g < 256 → u.readN (flagWordAddr d (s.gateFlag g)) 8 = s.gateValue g % 2 ^ 64)

/-! ### Resets, clocks and low-power states (chapter 18) -/

/-- Resets and reference clocks (R416, R437, R455 to R457, R464, R468, R523 to R529, Table 18.3): a power-on reset leaves no memory and no
work, and after a shutdown it comes 10 ms after the input was in range; a package reset keeps only the core and cluster memories; both
wait for PERST# and SYS_REFCLK, and contain the smaller resets; the test access port shows nothing while its signals float (R519); a function reset keeps all but the rings' work, the cornice and its settings
among it; the loss of SYS_REFCLK stops the package, of a link's clock the link. -/
def Obligations.PackageResets : Prop :=
  ∀ (s : State) (b : BootInputs),
    let restart := s.shutDown = true ∨ s.power.stopped = some 0x44 ∨ s.power.stopped = some 0x144
    (restart → s.power.inRange = none → exec (.powerOnReset b) s = .next s) ∧
    ((restart → s.power.inRange ≠ none) → CompletesThen (.powerOnReset b) s (fun u => u.completeReset b) fun u =>
      u.mem = [] ∧ u.poison = [] ∧ u.cores = [] ∧ u.trackers = [] ∧ u.queues = [] ∧ u.host = HostLink.zero ∧
      u.fabric = Fabric.zero ∧ u.red = Reduction.zero ∧ u.power.inReset = true ∧
      u.pins.floating = true ∧
      (restart → u.pins.tapIr = s.pins.tapIr ∧ u.getF STATE_STATUS_LAST_RESET 0 0 = 1 ∧
        ∀ t, s.power.inRange = some t → t + 10 * msTicks ≤ u.time) ∧
      (¬ restart → u.pins.tapIr = 0x02 ∧ u.getF STATE_STATUS_LAST_RESET 0 0 = 0 ∧ u.time = s.time)) ∧
    (s.power.inReset = true → exec .perstAssert s = .next (s.setPins fun p => { p with perstLow := true })) ∧
    (s.power.inReset = false → Completes .perstAssert s fun t =>
      t.pins.perstLow = true ∧ t.power.inReset = true ∧ t.getF STATE_STATUS_LAST_RESET 0 0 = 2 ∧
      (∀ a, t.byte a = if inSram (memKey a) then s.byte a else 0) ∧
      t.cores = [] ∧ t.trackers = [] ∧ t.queues = [] ∧ t.host = HostLink.zero ∧ t.low.heldResets = []) ∧
    (s.power.inReset = false → exec (.perstRelease b) s = .next (s.setPins fun p => { p with perstLow := false })) ∧
    (s.power.inReset = true →
      exec (.perstRelease b) s = .next ((s.setPins fun p => { p with perstLow := false }).completeReset b) ∧
      (b.sysClk = false → Completes (.perstRelease b) s fun t =>
        t.power.inReset = true ∧ t.pins.perstLow = false ∧ t.pins.sysClk = false ∧ t.regs = s.regs ∧ t.mem = s.mem ∧
        t.sec.stackSerials = b.serials.map (·.toNat))) ∧
    (s.power.inReset = true → ∀ c ∈ [Instr.cxlConventionalReset b, .functionReset], exec c s = .next s) ∧
    (s.power.inReset = true → ∀ (dies p : Fin 16) (d : Fin 4),
      ∀ c ∈ [Instr.dieReset dies, .portReset p, .clockLoss d, .fatalDie d], exec c s = .next s) ∧
    (s.power.inReset = false → CompletesThen (.cxlConventionalReset b) s (fun u => u.completeReset b) fun u =>
      u.power.inReset = true ∧ u.getF STATE_STATUS_LAST_RESET 0 0 = 3 ∧ u.trackers = [] ∧
      (∀ a, u.byte a = if inSram (memKey a) then s.byte a else 0)) ∧
    (s.power.inReset = false → s.powerState = 0 → Completes .functionReset s fun t =>
      t.host.due = [] ∧ t.host.spill = [] ∧ t.host.chains = [] ∧ (∀ d ∈ t.host.descs, d.started = true ∧ d.discard = true) ∧
      (∀ r, (t.ring r).sqTail = 0 ∧ (t.ring r).cqHead = 0 ∧ (t.ring r).unsignalled = 0) ∧
      (∀ g, g < 384 → (t.core g).srstep = 0 ∧ (t.core g).srblock = 0 ∧ (t.core g).tq = (s.core g).tq) ∧
      t.mem = s.mem ∧ t.trackers = s.trackers ∧ t.queues = s.queues ∧ t.upd = s.upd ∧ t.cor = s.cor) ∧
    (s.power.inReset = false → (s.powerState = 2 ∨ s.powerState = 5) → Completes .functionReset s fun t =>
      t.low.heldResets = s.low.heldResets ++ [.function] ∧ t.powerState = s.powerState + 1 ∧ t.host = s.host) ∧
    (s.power.inReset = false → s.power.stopped = none → Completes .sysRefclkLoss s fun t =>
      t.power.stopped = some 0x51 ∧ t.pins.faultLow = true ∧ t.pins.sysClk = false ∧
      t.err.raised.length = s.err.raised.length + 1 ∧ t.mem = s.mem) ∧
    Completes .rdgRefclkLoss s (fun t => ∀ p, p < 16 →
      t.portState p = if s.portState p = portUP ∧ s.dieRunning (p / 4) = true then portRETRAIN else s.portState p) ∧
    CompletesThen .cxlRefclkLoss s State.releaseAll (fun u => u.host.linkUp = false ∧ u.bound = false) ∧
    exec .cxlRefclkLoss s = exec .cxlLinkDown s ∧
    (∀ fields, s.tapOut fields = if s.pins.floating = true then s else s.emit .other 131074 fields []) ∧
    (∀ p ∈ [(Instr.extest, 0x00), (Instr.extestPulse, 0x08), (Instr.extestTrain, 0x09)],
      (s.power.inReset = true → exec p.1 s = .next (s.setPins fun x => { x with tapIr := p.2 })) ∧
      (s.power.inReset = false → Completes p.1 s fun t =>
        t.pins.tapIr = p.2 ∧ t.power.inReset = true ∧ t.getF STATE_STATUS_LAST_RESET 0 0 = 5 ∧ t.trackers = [] ∧ t.queues = [] ∧
        t.host = HostLink.zero ∧ ∀ a, t.byte a = if inSram (memKey a) then s.byte a else 0)) ∧
    (let load (n : Nat) : State := s.setPins fun x => { x with tapIr := n }
     let levels := [b2n (!s.pins.perstLow), b2n (!s.pins.faultLow), b2n (s.pins.healthEvents.isEmpty || s.pins.floating),
       b2n s.pins.sris, s.pins.sbAddr]
     ∀ code : Fin 256, code.val ∉ [0x00, 0x01, 0x02, 0x08, 0x09] →
      (s.power.inReset = true → s.pins.tapIr ∈ [0x00, 0x08, 0x09] →
        exec (.samplePreload b) s = .next (((load 1).completeReset b).tapOut (1 :: levels)) ∧
        exec (.idcode b) s = .next (((load 2).completeReset b).tapOut [2, 0x1019C5A3]) ∧
        exec (.bypass code b) s = .next (((load code).completeReset b).tapOut [code, 0]) ∧
        exec (.trst b) s = .next ((load 2).completeReset b)) ∧
      (s.power.inReset = false ∨ s.pins.tapIr ∉ [0x00, 0x08, 0x09] →
        exec (.samplePreload b) s = .next ((load 1).tapOut (1 :: levels)) ∧
        exec (.idcode b) s = .next ((load 2).tapOut [2, 0x1019C5A3]) ∧
        exec (.bypass code b) s = .next ((load code).tapOut [code, 0]) ∧
        exec (.trst b) s = .next (load 2)))

/-- Bivouac and Refuge (R44, R457 to R463, R466, Table 18.4): each command is refused while a die does not run or work is in flight, else
the state is entered once the pipes are idle, with every ACTIVE stack in self-refresh, and Bivouac is left at once where an entry is due
or an order of the cornice is held; Refuge keeps Talus alone; WAKE leaves, or ends an entry; on return the stacks run, a shell that
refuses its image trains, and what was held acts. -/
def Obligations.LowPowerStates : Prop :=
  ∀ s : State,
    (∀ p ∈ [(Instr.bivouac, 1), (Instr.refuge, 4)],
      (s.sleepRefused = true → exec p.1 s = .next (s.setF STATE_BLK_STATUS_CMD_ERR 0 0 1)) ∧
      (s.sleepRefused = false → Completes p.1 s fun t =>
        t.powerState = p.2 ∧ t.mem = s.mem ∧ t.cores = s.cores ∧ (p.2 = 1 → t.low.expert = s.reg STATE_EXPERT 0 0))) ∧
    (∀ p ∈ [(Instr.bivouacEntryDone, 1), (Instr.refugeEntryDone, 4)],
      s.powerState ≠ p.2 ∨ s.pipesIdle = false → exec p.1 s = .next s) ∧
    (s.powerState = 1 → s.pipesIdle = true → Completes .bivouacEntryDone s fun t =>
      t.powerState = (if (s.job ≠ 0 ∧ ((List.range 4).any fun d => (List.range 256).any fun e => s.entryPast d e) = true) ∨
        s.low.orders.any HeldOrder.wakes = true then 3 else 2) ∧ t.low = s.low ∧
      t.getF STATE_STATUS_BIVOUACS 0 0 = min 65535 (s.getF STATE_STATUS_BIVOUACS 0 0 + 1) ∧
      (∀ k, k < 12 → t.stackState k = if s.stackState k = 2 then 3 else s.stackState k) ∧ t.mem = s.mem ∧ t.cores = s.cores) ∧
    (s.powerState = 4 → s.pipesIdle = true → Completes .refugeEntryDone s fun t =>
      t.powerState = 5 ∧ t.getF STATE_STATUS_REFUGES 0 0 = min 65535 (s.getF STATE_STATUS_REFUGES 0 0 + 1) ∧
      (∀ a, t.byte a = if memKey a < 0xC000000000 then s.byte a else 0) ∧ t.cores = [] ∧ t.trackers = [] ∧ t.queues = [] ∧
      t.low.orders = [] ∧ t.low.heldResets = s.low.heldResets ∧ ∀ p, p < 16 → t.portState p = portOFF) ∧
    (s.powerState = 0 → exec .wake s = .next (s.setF STATE_BLK_STATUS_CMD_ERR 0 0 1)) ∧
    (s.powerState = 1 ∨ s.powerState = 4 → CompletesThen .wake s State.takeOrders fun u =>
        u.powerState = 0 ∧ u.mem = s.mem ∧ u.cores = s.cores ∧ u.low = s.low) ∧
    (s.powerState = 2 → exec .wake s = .next (s.setF STATE_STATUS_STATE 0 0 3)) ∧
    (s.powerState = 5 → exec .wake s = .next (s.setF STATE_STATUS_STATE 0 0 6)) ∧
    (∀ (refused : List (Fin 12)) (shells : List (Fin 9 × Fin 64)),
      (s.powerState ≠ 3 → exec (.bivouacExitDone refused) s = .next s) ∧
      (s.powerState = 3 →
        CompletesThen (.bivouacExitDone refused) s (fun u => ((List.range 12).foldl (fun v k =>
            v.leaveRefresh k (refused.any fun x => x.val == k)) u).takeOrders.releaseAll.actHeldResets) (fun u =>
              u.powerState = 0 ∧ u.low = s.low ∧ u.mem = s.mem) ∧
        CompletesThen (.bivouacExitDone refused) s (fun u => u.takeOrders.releaseAll.actHeldResets) fun u =>
            ∀ k : Fin 12, u.stackState k = if s.stackState k = 3 then (if k ∈ refused then 1 else 2) else s.stackState k) ∧
      (s.powerState ≠ 6 → exec (.refugeResumeDone refused shells) s = .next s) ∧
      (s.powerState = 6 →
        let bad := (shells.map fun x => (x.1.val, x.2.val)).filter fun x => x.1 != 4 && crestShells.contains x
        CompletesThen (.refugeResumeDone refused shells) s (fun u => ((List.range 16).foldl (fun v p => v.trainPort p)
          (bad.foldl (fun v x => (v.refuseShells [x]).retrainShell x)
            ((List.range 12).foldl (fun v k => v.leaveRefresh k (refused.any fun x => x.val == k))
              (u.restoreShells ((crestShells.filter fun x => x.1 != 4).filter fun x => !bad.contains x)))).aloneAnew).releaseAll.actHeldResets)
            (fun u => u.powerState = 0 ∧ u.low.image = [] ∧ u.low.heldResets = s.low.heldResets ∧ u.mem = s.mem) ∧
        CompletesThen (.refugeResumeDone refused shells) s (fun u =>
          ((List.range 16).foldl (fun v p => v.trainPort p) u.aloneAnew).releaseAll.actHeldResets) (fun u => ∀ i, i < 8 →
            ((2, i) ∈ bad → u.getF SADDLE_STATUS_STATE 0 (i / 2) = 1) ∧ ((3, i) ∈ bad → u.getF COL_STATUS_STATE 0 (i / 2) = 1)) ∧
        CompletesThen (.refugeResumeDone refused shells) s (fun u => u.releaseAll.actHeldResets) fun u =>
          u.role = 0 ∧ u.job = 0 ∧ u.fabric.members = [] ∧ u.fabric.gen = 0))

/-! ### Power and cooling (chapter 17) -/

/-- The input, the converters and the power cap (R435, R437 to R446, R454, R529): each sample against the thresholds of Table 17.1 moves
the supply's sequence or shuts the package down, in a held reset too, and below 30.0 V the signals float (R519); HOLD and RAMP end; a lost converter paces every die and limits the
profile, or shuts down; a second-stage fault is fatal to its die or to the package; the means of the power readings drive the cap. -/
def Obligations.SupplyAndPower : Prop :=
  ∀ s : State,
    (∀ mv : Fin 65536,
      (s.noteInput mv).getF SUPPLY_INPUT_MV 0 0 = mv ∧
      (s.noteInput mv).power.inRange = (if 44000 ≤ mv.val ∧ mv.val ≤ 58000 then some (s.power.inRange.getD s.time) else none) ∧
      (s.shutDown = true → exec (.inputSample mv) s = .next ((s.noteInput mv).lowInput mv)) ∧
      (s.noteInput mv).power.lowAt = (if mv.val < 38000 then some (s.power.lowAt.getD s.time) else none) ∧
      (30000 ≤ mv.val → s.lowInput mv = s) ∧
      (mv.val < 30000 → (s.lowInput mv).pins.floating = true ∧ (s.lowInput mv).pins.faultLow = false ∧ (s.lowInput mv).mem = s.mem ∧
        (s.lowInput mv).regs = s.regs ∧ (s.lowInput mv).err.holding = s.err.holding ∧
        (∀ r ∈ s.err.raised, r.kind ≠ 0x45 → r ∈ (s.lowInput mv).err.raised) ∧
        ((∀ t, s.power.lowAt = some t → t + msTicks ≤ s.time) → (s.lowInput mv).err = s.err)) ∧
      (s.power.inReset = true → 38000 ≤ mv.val → mv.val ≤ 60000 → exec (.inputSample mv) s = .next (s.noteInput mv)) ∧
      (s.shutDown = false → mv.val < 38000 → Completes (.inputSample mv) s fun t =>
        t.power.stopped = some 0x45 ∧ t.pins.faultLow = decide (30000 ≤ mv.val) ∧ t.getF SUPPLY_INPUT_MV 0 0 = mv ∧ t.pins.tapIr = 0x02) ∧
      (s.shutDown = false → 60000 < mv.val → Completes (.inputSample mv) s fun t =>
        t.power.stopped = some 0x46 ∧ t.pins.faultLow = true ∧ t.getF SUPPLY_INPUT_MV 0 0 = mv)) ∧
    (∀ mv : Fin 65536, s.shutDown = false → s.power.inReset = false →
      let st := s.getF SUPPLY_STATE 0 0
      (38000 ≤ mv.val → mv.val < 42000 → st ≠ 1 → CompletesThen (.inputSample mv) s State.refreshDuty fun u =>
        u.getF SUPPLY_STATE 0 0 = 1 ∧ u.getF SUPPLY_INPUT_MV 0 0 = mv ∧ u.flag PWR_BLK_STATUS_SUPPLY_EVENT 0 0 = true ∧
        u.getF PACE_EVENTS_SUPPLY_EVENTS 0 0 = min (2 ^ 32 - 1) (s.getF PACE_EVENTS_SUPPLY_EVENTS 0 0 + 1) ∧
        u.err.raised.length = s.err.raised.length + (if st = 0 then 1 else 0)) ∧
      (43000 < mv.val → mv.val ≤ 60000 → st = 1 → CompletesThen (.inputSample mv) s State.refreshDuty fun u =>
        u.getF SUPPLY_STATE 0 0 = 2 ∧ u.power.due = s.time + 170000000 ∧ u.getF SUPPLY_INPUT_MV 0 0 = mv) ∧
      (38000 ≤ mv.val → mv.val ≤ 60000 → (mv.val < 42000 → st = 1) → (43000 < mv.val → st ≠ 1) →
        Completes (.inputSample mv) s fun t =>
          t.regs = (s.setF SUPPLY_INPUT_MV 0 0 mv).regs ∧ t.power.stopped = s.power.stopped)) ∧
    (s.getF SUPPLY_STATE 0 0 = 2 → CompletesThen .holdExpiry s State.refreshDuty fun u =>
      u.getF SUPPLY_STATE 0 0 = 3 ∧ s.power.due ≤ u.time ∧ u.power.due = u.time + 17000000) ∧
    (s.getF SUPPLY_STATE 0 0 = 3 → CompletesThen .rampExpiry s State.refreshDuty fun u =>
      u.getF SUPPLY_STATE 0 0 = 0 ∧ s.power.due ≤ u.time) ∧
    (∀ d, d < 4 → s.getF PROFILE_STATE_CAP_ACTIVE 0 0 ≤ 1 → kget 0 s.power.thermal d ≤ 2 →
      s.refreshDuty.getF DIE_THERMAL_DUTY 0 d = max (max (max (match s.getF SUPPLY_STATE 0 0 with | 0 => 0 | 3 => 1 | _ => 2)
        (s.getF PROFILE_STATE_CAP_ACTIVE 0 0)) (if s.power.convPace.isSome then 2 else 0)) (max (kget 0 s.power.thermal d) (b2n (kget false s.power.sensorPace d)))) ∧
    (∀ k : Fin 8,
      let ok := s.getF SUPPLY_CONVERTERS_OK 0 0
      let n := ((List.range 8).filter (ok - 2 ^ k.val).testBit).length
      (ok.testBit k = false → exec (.converter k) s = .next s) ∧
      (ok.testBit k = true → n ≤ 3 → s.shutDown = false → Completes (.converter k) s fun t =>
        t.power.stopped = some 0x41 ∧ t.pins.faultLow = true ∧ t.getF SUPPLY_CONVERTERS_OK 0 0 = ok - 2 ^ k.val ∧
        ∃ r ∈ t.err.raised, r.kind = 0x41 ∧ r.unit = k.val) ∧
      (ok.testBit k = true → 4 ≤ n → CompletesThen (.converter k) s State.applyProfile fun u =>
        u.getF SUPPLY_CONVERTERS_OK 0 0 = ok - 2 ^ k.val ∧ u.getF PROFILE_STATE_CONVERTER_LIMIT 0 0 = (if 6 ≤ n then 1 else 2) ∧
        u.err.raised.length = s.err.raised.length + 1 ∧ u.power.convPace = some (s.time + 5 * usTicks) ∧
        ∀ d, d < 4 → kget 0 s.power.thermal d ≤ 2 → u.getF DIE_THERMAL_DUTY 0 d = 2)) ∧
    (∀ t, s.power.convPace = some t → t ≤ s.time → s.convStep.power.convPace = none) ∧
    (∀ d : Fin 4, exec (.stage2Fault ⟨d.val, by omega⟩) s = exec (.fatalDie d) s) ∧
    (∀ t : Fin 12, exec (.stage2Fault ⟨t.val + 5, by omega⟩) s = exec (.fatalDie ⟨t.val / 3, by omega⟩) s) ∧
    (s.power.inReset = false → s.power.stopped = none → Completes (.stage2Fault 4) s fun t =>
      t.power.stopped = some 0x51 ∧ t.pins.faultLow = true ∧ t.err.raised.length = s.err.raised.length + 1) ∧
    (∀ watts amps : Fin 65536,
      let l := (watts.val :: s.power.watts).take 100
      CompletesThen (.telemetryTick watts amps) s (fun u => u.capStep.convStep.refreshDuty.noteHealth) fun u =>
        u.power.watts = l ∧ u.getF ENERGY_MJ 0 0 = (s.getF ENERGY_MJ 0 0 + watts) % 2 ^ 64 ∧
        u.getF INPUT_POWER_INST_W 0 0 = watts ∧ u.getF INPUT_POWER_INPUT_I 0 0 = amps ∧
        u.getF INPUT_POWER_AVG10_W 0 0 = meanOf 10 l % 65536 ∧ u.getF INPUT_POWER_AVG100_W 0 0 = meanOf 100 l % 65536) ∧
    (s.flag PWR_EXPERT_POWER_CAP 0 0 = true →
      (s.flag PROFILE_STATE_CAP_ACTIVE 0 0 = false →
        s.capStep = s.capNow ∧ s.capNow.flag PROFILE_STATE_CAP_ACTIVE 0 0 =
          decide (profileLimit (s.getF PROFILE_STATE_CURRENT 0 0) < s.getF INPUT_POWER_AVG10_W 0 0)) ∧
      (s.flag PROFILE_STATE_CAP_ACTIVE 0 0 = true →
        s.capStep.flag PROFILE_STATE_CAP_ACTIVE 0 0 =
          !(decide (s.getF INPUT_POWER_AVG10_W 0 0 * 10 < profileLimit (s.getF PROFILE_STATE_CURRENT 0 0) * 9) &&
            decide (10 ≤ s.power.underMs + 1)))) ∧
    (s.flag PWR_EXPERT_POWER_CAP 0 0 = false → s.capNow.flag PROFILE_STATE_CAP_ACTIVE 0 0 = false)

/-- Cooling and profiles (R445, R447, R448, R450 to R453): the sensors are read, each die shows its hottest; one at 110 °C, or a stack
at 105, trips the package, whose Crest dies lose what they hold; pacing eases, a forced Plateau begins and ends after a second; the profile in force is the lightest
asked for, and clusters that return wait. -/
def Obligations.CoolingAndProfiles : Prop :=
  ∀ s : State,
    (∀ temps : List (Fin 256), s.power.stopped = none → temps.length ≤ 76 →
      CompletesThen (.sensorRead temps) s (fun u => u.thermalStep.startCooled) fun u =>
        (∀ (k : Nat) (v : Fin 256), temps[k]? = some v → kget 0 u.power.temps k = v) ∧ u.mem = s.mem ∧
        u.power.stopped = none) ∧
    (let d5 (d : Nat) : Nat := if d = 4 then 4 else 16
     (∀ d i, d < 5 → i < d5 d → kget false s.power.excluded (d * 16 + i) = false → s.junction d i < 110) →
     (∀ t, t < 12 → s.getF STACK_TEMP_TEMP (t / 3) (t % 3) < 105) →
      s.thermalStep.power.stopped = s.power.stopped ∧
      ∀ d, d < 4 → s.thermalStep.getF DIE_THERMAL_HOTTEST_C 0 d = s.hottest d % 256) ∧
    (s.power.stopped = none →
      ((∃ d i, (d < 4 ∧ i < 16 ∨ d = 4 ∧ i < 4) ∧ kget false s.power.excluded (d * 16 + i) = false ∧ 110 ≤ s.junction d i) ∨
        ∃ t, t < 12 ∧ 105 ≤ s.getF STACK_TEMP_TEMP (t / 3) (t % 3)) →
      s.thermalStep.power.stopped = some 0x44 ∧ s.thermalStep.pins.faultLow = true ∧
      s.thermalStep.cores = [] ∧ (∀ a, s.thermalStep.byte a = if memKey a < 0xC000000000 then s.byte a else 0) ∧
      ∀ t, t < 12 → s.thermalStep.stackState t ≠ 2) ∧
    (∀ d : Fin 4,
      let row := 2 * d.val + (kget 0 s.power.thermal d - 1)
      (kget 0 s.power.easedAt row = 0 → exec (.pacingRelease d) s = .next s) ∧
      (kget 0 s.power.easedAt row ≠ 0 →
        CompletesThen (.pacingRelease d) s (fun u => (u.paceDie d).refreshDuty) fun u =>
          kget 0 u.power.thermal d = kget 0 s.power.thermal d - 1 ∧ kget 0 u.power.easedAt row = 0 ∧
          kget 0 s.power.easedAt row - 1 + 170000000 ≤ u.time)) ∧
    (s.power.hotAt = [] ∨ s.flag PROFILE_STATE_FORCED 0 0 = true → exec .thermalForced s = .next s) ∧
    (∀ k v, s.power.hotAt = [(k, v)] → s.flag PROFILE_STATE_FORCED 0 0 = false →
      CompletesThen .thermalForced s State.applyProfile fun u =>
        u.flag PROFILE_STATE_FORCED 0 0 = true ∧ u.flag PWR_BLK_STATUS_THERMAL_EVENT 0 0 = true ∧
        u.getF PACE_EVENTS_THERMAL_EVENTS 0 0 = min 65535 (s.getF PACE_EVENTS_THERMAL_EVENTS 0 0 + 1) ∧
        u.err.raised.length = s.err.raised.length + 1 ∧ v - 1 + 17000000000 ≤ u.time) ∧
    (∀ since, s.power.coolSince = some since → s.flag PROFILE_STATE_FORCED 0 0 = true →
      Completes .thermalForceClear s fun t =>
        t.flag PROFILE_STATE_FORCED 0 0 = false ∧ t.power.unforce = true ∧ since + 17000000000 ≤ t.time ∧
        t.getF PROFILE_STATE_CURRENT 0 0 = s.getF PROFILE_STATE_CURRENT 0 0) ∧
    (s.power.coolSince = none ∨ s.flag PROFILE_STATE_FORCED 0 0 = false → exec .thermalForceClear s = .next s) ∧
    (∀ (d : Fin 4) (c : Fin 8), Completes (.clusterResume d c) s fun t =>
      kget 0 t.power.waits (d.val * 8 + c.val) = 0 ∧ kget 0 s.power.waits (d.val * 8 + c.val) ≤ t.time ∧ t.regs = s.regs) ∧
    s.applyProfile.getF PROFILE_STATE_CURRENT 0 0 = min 2 (max (max (s.getF PROFILE_STATE_SELECTED 0 0)
      (if s.flag PROFILE_STATE_FORCED 0 0 = true ∨ s.power.unforce = true then 2 else 0))
      (s.getF PROFILE_STATE_CONVERTER_LIMIT 0 0))

/-! ### Identity, keys and the outside (chapters 01, 16, 19, 22) -/

/-- Signed sideband commands with their records and M4, the signer with its index log and tree cache, attestation reports, link keys, the
sideband's own messages, none while its signals float, and calibration images (R43 to R45, R429, R436, R454, R467, R468, R470 to R474,
R476, R477, R479 to R481, R484, R519, Table 19.5). -/
def Obligations.IdentityAndKeys : Prop :=
  ∀ s : State,
    (∀ (x : SideCommand),
      s.commandReason none = 4 ∧ (s.sec.operatorKey = none → s.commandReason (some x) = 3) ∧
      ∀ key, s.sec.operatorKey = some key →
        (hssVerify key x.covered x.signature = false → s.commandReason (some x) = 1) ∧
        (hssVerify key x.covered x.signature = true → s.commandReason (some x) = if x.seq ≤ s.sec.lastSeq then 2 else 0)) ∧
    (∀ (enrolLow : Bool) (msg : List Byte) (b : BootInputs),
      let c1 := sideCommand 0x0001 keyForm msg
      let m4 (t : State) : Prop := ∀ w, w < 4 →
        t.reg MEASURE 0 (16 + w) = BitVec.ofNat 64 (leNat (sha256 t.sec.recordBytes) / 2 ^ (64 * w))
      (∀ p ∈ [(Instr.policySet msg, sideCommand 0x0002 policyForm msg), (Instr.massifPlanSet msg, sideCommand 0x0003 planForm msg),
          (Instr.partition msg, sideCommand 0x0004 partitionForm msg), (Instr.packageReset msg b, sideCommand 0x0006 List.isEmpty msg),
          (Instr.stateWake msg, sideCommand 0x0007 List.isEmpty msg)],
        (s.muted = true → exec p.1 s = .next (s.sideband [255])) ∧
        (s.muted = false → s.commandReason p.2 ≠ 0 → exec p.1 s = .next (s.refuseCommand (s.commandReason p.2)))) ∧
      (s.muted = true → exec (.operatorKeySet enrolLow msg) s = .next (s.sideband [255])) ∧
      (s.muted = false → s.commandReason c1 ≠ 0 → (c1 = none ∨ s.sec.operatorKey.isSome = true ∨ enrolLow = false) →
        exec (.operatorKeySet enrolLow msg) s = .next (s.refuseCommand (s.commandReason c1))) ∧
      ∀ x, s.muted = false →
        let u := (s.keepSeq x.seq).sideband [stDONE]
        (c1 = some x → s.sec.operatorKey = none → enrolLow = true → Completes (.operatorKeySet enrolLow msg) s fun t =>
          t.sec.operatorKey = some x.body ∧ t.sec.lastSeq = max s.sec.lastSeq x.seq % 2 ^ 64 ∧ m4 t) ∧
        (s.commandReason (some x) = 0 →
          (c1 = some x → Completes (.operatorKeySet enrolLow msg) s fun t =>
            t.sec.operatorKey = some x.body ∧ t.sec.lastSeq = x.seq ∧ m4 t) ∧
          (sideCommand 0x0002 policyForm msg = some x → Completes (.policySet msg) s fun t =>
            t.sec.policy = some (policyOf x.body) ∧ t.sec.operatorKey = s.sec.operatorKey ∧ t.sec.lastSeq = x.seq ∧ m4 t ∧
            t.out = s.out ++ [⟨.other, 131072, [stDONE], []⟩]) ∧
          (sideCommand 0x0003 planForm msg = some x → Completes (.massifPlanSet msg) s fun t =>
            t.sec.plan = some (fieldOf x.body 0 2, fieldOf x.body 2 2) ∧ t.sec.lastSeq = x.seq ∧ m4 t ∧
            t.reg MASSIF_DIMS 0 0 = s.reg MASSIF_DIMS 0 0) ∧
          (sideCommand 0x0004 partitionForm msg = some x → exec (.partition msg) s = .next (if s.role < 3 then u
            else u.mgmt 0x8B (s.getF SUMMIT_INFO_SUMMIT_ID 0 0) ((chunk 2 (x.body.length / 2) x.body).map leNat))) ∧
          (sideCommand 0x0006 List.isEmpty msg = some x →
            (s.power.inReset = true → exec (.packageReset msg b) s = .next u) ∧
            (s.power.inReset = false → CompletesThen (.packageReset msg b) s (State.completeReset · b) fun v =>
              v.power.inReset = true ∧ v.getF STATE_STATUS_LAST_RESET 0 0 = 4 ∧ v.sec.lastSeq = x.seq ∧ v.trackers = [])) ∧
          (sideCommand 0x0007 List.isEmpty msg = some x → exec (.stateWake msg) s = .next u.wake))) ∧
    (∀ j rest, s.sec.wanted = j :: rest →
      let i := s.getF SIG_STATUS_NEXT_INDEX 0 0
      (s.flag SIG_STATUS_EXHAUSTED 0 0 = true →
        exec .signRequest s = .next (s.setSec fun x => { x with wanted := rest })) ∧
      (s.flag SIG_STATUS_EXHAUSTED 0 0 = false →
        (s.sec.signing.isSome = true → exec .signRequest s = .next s) ∧
        (s.sec.signing = none → s.sec.waiting = [] → s.signBudget = true → Completes .signRequest s fun t =>
          t.sec.wanted = rest ∧ t.sec.signing = some (i, j) ∧ t.sec.indexLog = (i + 1) :: s.sec.indexLog ∧ t.getF SIG_STATUS_NEXT_INDEX 0 0 = (i + 1) % 2 ^ 32 ∧
          (t.flag SIG_STATUS_EXHAUSTED 0 0 = decide (i + 1 = 2 ^ 30)) ∧ t.out = s.out) ∧
        (s.sec.signing = none → (s.sec.waiting ≠ [] ∨ s.signBudget = false) → Completes .signRequest s fun t =>
          t.sec.wanted = rest ∧ t.sec.waiting = s.sec.waiting ++ [j] ∧ t.regs = s.regs))) ∧
    (∀ j rest, s.sec.waiting = j :: rest → s.flag SIG_STATUS_EXHAUSTED 0 0 = false →
      (s.sec.signing = none → s.signBudget = true → Completes .signRateRelease s fun t =>
        t.sec.waiting = rest ∧ t.sec.signing = some (s.getF SIG_STATUS_NEXT_INDEX 0 0, j)) ∧
      (s.sec.signing.isSome = true ∨ s.signBudget = false → exec .signRateRelease s = .next s)) ∧
    (∀ i j, s.sec.signing = some (i, j) →
      (s.sec.cached (i / 1048576) = none → exec .indexReserved s = .next s) ∧
      ∀ c, s.sec.cached (i / 1048576) = some c →
        exec .indexReserved s = .next ((s.setSec fun x => { x with signing := none }).sendSigned i j) ∧
        ∀ mctp nonce, j = .attest mctp nonce → Completes .indexReserved s fun t =>
          t.sec.signing = none ∧ t.regs = s.regs ∧ t.out = s.out ++ [⟨.other, if mctp then 131072 else 131076, [],
            s.attestReport nonce ++ s.sec.certificate ++ hssSign s.sec.seed c.upper i (s.attestReport nonce)⟩]) ∧
    (∀ nonce : List Byte, nonce.length = 32 → (s.attestReport nonce).length = 208) ∧
    (s.flag SIG_STATUS_BUILDING 0 0 = false → exec .treeBuildDone s = .next s) ∧
    (s.flag SIG_STATUS_BUILDING 0 0 = true → Completes .treeBuildDone s fun t =>
      t.flag SIG_STATUS_BUILDING 0 0 = false ∧ t.sec.cached s.treeBuilt = some ⟨s.treeBuilt, treeSignature s.sec.seed s.treeBuilt⟩ ∧
      (∀ n, n + 1 = s.treeBuilt → t.sec.cached n = s.sec.cached n)) ∧
    (∀ msg, s.muted = true → exec (.attest true msg) s = .next (s.sideband [255])) ∧
    (∀ mctp msg, (mctp = false ∨ s.muted = false) →
      (attestNonce mctp msg = none → exec (.attest mctp msg) s = .next (if mctp then s.refuseCommand 4 else s)) ∧
      ∀ nonce, attestNonce mctp msg = some nonce → nonce.length = 32 ∧
        (s.flag SIG_STATUS_EXHAUSTED 0 0 = true → exec (.attest mctp msg) s = .next s) ∧
        (s.flag SIG_STATUS_EXHAUSTED 0 0 = false → Completes (.attest mctp msg) s fun t =>
          t.sec.wanted = s.sec.wanted ++ [.attest mctp nonce] ∧ t.regs = s.regs)) ∧
    (∀ (p : Fin 16) (slot : Fin 2), s.dieRunning (p / 4) = true →
      (slot.val = s.portF KEY_CTRL_ACTIVE_TX p →
        exec (.installTx p slot) s = .next (s.setF CRYPT_BLK_STATUS_CFG_ERR (p / 4) 0 1)) ∧
      (slot.val ≠ s.portF KEY_CTRL_ACTIVE_TX p → CompletesThen (.installTx p slot) s (State.tryRaise · p) fun u =>
        kget KeySlot.zero u.fabric.keys (p * 4 + slot) = ⟨[TX_KEY0, TX_KEY1, TX_KEY2, TX_KEY3].map fun r =>
          (s.reg r (p / 4) (p % 4)).toNat, s.portF SALTS_TX_SALT p, 0⟩ ∧
        (u.portF KEY_CTRL_TX_VALID p).testBit slot = true) ∧
      CompletesThen (.installRx p slot) s (State.tryRaise · p) fun u =>
        kget KeySlot.zero u.fabric.keys (p * 4 + 2 + slot) = ⟨[RX_KEY0, RX_KEY1, RX_KEY2, RX_KEY3].map fun r =>
          (s.reg r (p / 4) (p % 4)).toNat, s.portF SALTS_RX_SALT p, 0⟩ ∧
        (u.portF KEY_CTRL_RX_VALID p).testBit slot = true) ∧
    s.muted = (s.inRecovery || s.pins.floating) ∧
    (∀ fields, s.sideband fields = if s.pins.floating = true then s else s.emit .other 131072 fields []) ∧
    (∀ (other : Bool) (code : Fin 256), exec (.mctpControl other code) s = .next (s.sideband [if other then 254 else 0, code])) ∧
    (s.muted = true → exec .pldmMonitor s = .next (s.sideband [255])) ∧
    (s.muted = false → Completes .pldmMonitor s fun t =>
      let l := s.pins.healthEvents ++ (if s.pkgHealth = s.pins.healthSeen then [] else [s.pkgHealth])
      t.pins.healthEvents = [] ∧ t.pins.healthSeen = s.pkgHealth ∧ t.regs = s.regs ∧
      t.out = s.out ++ [⟨.other, 131072, 1 :: l.length :: (l ++ s.pldmSensors), []⟩]) ∧
    (∀ manifest complete ok campSvn crestSvn campDigest crestDigest campBuild records, s.pins.floating = true →
      exec (.pldmFirmwareUpdate manifest complete ok campSvn crestSvn campDigest crestDigest campBuild records) s = .next s) ∧
    (∀ complete ok campSvn crestSvn campDigest crestDigest campBuild records, s.pins.floating = false →
      (complete = true → ok = true →
        Completes (.pldmFirmwareUpdate true complete ok campSvn crestSvn campDigest crestDigest campBuild records) s fun t =>
          t.sec.staged = some (true, campDigest, records) ∧ t.sec.slotA = s.sec.slotA ∧
          t.sec.slotB = s.sec.slotB ∧ t.regs = s.regs) ∧
      Completes (.pldmFirmwareUpdate false complete ok campSvn crestSvn campDigest crestDigest campBuild records) s fun t =>
        t.sec.switchSlot = (complete && ok) ∧
        (s.sec.active = 1 → t.sec.slotB = s.sec.slotB ∧ t.sec.slotA.campOk = (complete && ok)) ∧
        (s.sec.active ≠ 1 → t.sec.slotA = s.sec.slotA ∧ t.sec.slotB.campOk = (complete && ok)) ∧ t.sec.active = s.sec.active) ∧
    ∀ (kind : Fin 9) (inst : Fin 64) (image : List Byte),
      let k := kind.val * 256 + inst.val
      (shellCount kind ≤ inst.val →
        exec (.calibrationSave kind inst) s = .next s ∧ exec (.calibrationRestore kind inst image) s = .next s) ∧
      (inst.val < shellCount kind →
        exec (.calibrationSave kind inst) s = .next (s.emit .other 131077 [0, kind, inst, stDONE]
          (s.shellImage kind inst ((s.shell k).present.body k))) ∧
        (s.shellBusy kind inst = true →
          exec (.calibrationRestore kind inst image) s = .next (s.emit .other 131077 [1, kind, inst, stNORES] [])) ∧
        (s.shellBusy kind inst = false → s.imageOk kind inst image = true →
          Completes (.calibrationRestore kind inst image) s fun t =>
            (t.shell k).present = .image (image.drop 16) ∧ (t.shell k).defaultStart = false ∧
            t.out = s.out ++ [⟨.other, 131077, [1, kind, inst, stDONE], []⟩]) ∧
        (s.shellBusy kind inst = false → s.imageOk kind inst image = false →
          Completes (.calibrationRestore kind inst image) s fun t =>
            (t.shell k).present = (s.shell k).present ∧ (t.shell k).refused = true ∧ (t.shell k).defaultStart = true ∧
            t.out = s.out ++ [⟨.other, 131077, [1, kind, inst, stINVALID], []⟩]))

/-! ### Self-test and error reporting (chapter 20) -/

/-- Self-test from request to result (R487 to R492, Tables 20.8, 20.11): a request that breaks a rule sets CMD_ERR, another asks the
summit, which grants or refuses with its cause; a granted target drains where its KIND needs it, is saved, and returns with the result that
its readings give against the pass limits of Table 20.1; slots expire; a package whose ports carry nothing takes no packet of a test. -/
def Obligations.SelfTests : Prop :=
  ∀ s : State,
    (∀ t : Fin 65536,
      (s.getF ST_STATUS_STATE 0 0 ≠ 0 ∨ targetOk t = false ∨ s.savesItself t = true →
        exec (.request t) s = .next (s.setF ST_BLK_STATUS_CMD_ERR 0 0 1)) ∧
      (s.getF ST_STATUS_STATE 0 0 = 0 → targetOk t = true → s.savesItself t = false →
        CompletesThen (.request t) s (fun u => u.mgmt 0x97 (s.getF SUMMIT_INFO_SUMMIT_ID 0 0) [s.device, t, s.testPeer t]) fun u =>
          u.getF ST_STATUS_STATE 0 0 = 1 ∧ u.getF ST_STATUS_TARGET 0 0 = t ∧ u.selftest.peer = s.testPeer t ∧ u.out = s.out ∧
          u.mem = s.mem)) ∧
    (s.getF ST_EXPERT_PERIOD_H 0 0 = 0 ∨ s.getF ST_STATUS_STATE 0 0 ≠ 0 ∨ s.awake = false →
      exec .selftestScheduleTick s = .next s) ∧
    (s.getF ST_EXPERT_PERIOD_H 0 0 ≠ 0 → s.getF ST_STATUS_STATE 0 0 = 0 → s.awake = true →
      (∀ t rest, s.selftest.round = t :: rest → t < 65536 → s.savesItself t = false → Completes .selftestScheduleTick s fun u =>
        u.selftest.round = rest ∧ u.getF ST_STATUS_STATE 0 0 = 1 ∧ u.getF ST_STATUS_TARGET 0 0 = t) ∧
      (s.selftest.round = [] → Completes .selftestScheduleTick s fun u =>
        s.selftest.roundAt ≤ u.fabricNow ∧
        u.selftest.roundAt = u.fabricNow + s.getF ST_EXPERT_PERIOD_H 0 0 * 3600000000000)) ∧
    (∀ (device : Fin 10240) (target : Fin 65536) peer blocked, s.deaf = false → s.isSummit = true →
      let unfit := if device.val = s.device then s.testBlocked target else blocked
      let weight := if target.val / 256 = 2 then 2 else 1
      let refuse (cause : Nat) : State := s.mgmt 0x98 device [device, target, 1, cause]
      (targetOk target = false → exec (.testReq device target peer blocked) s = .next (refuse 3)) ∧
      (targetOk target = true → unfit = true → exec (.testReq device target peer blocked) s = .next (refuse 2)) ∧
      (targetOk target = true → unfit = false →
        (s.fabricNow < s.selftest.graceUntil ∨ max 1 (s.fabric.members.length / 16) < s.slotsUsed + weight ∨
          s.slotOf device = true ∨ target.val / 256 = 2 ∧ s.slotOf peer = true →
          exec (.testReq device target peer blocked) s = .next (refuse 1)) ∧
        (s.selftest.graceUntil ≤ s.fabricNow → s.slotsUsed + weight ≤ max 1 (s.fabric.members.length / 16) →
          s.slotOf device = false → (target.val / 256 = 2 → s.slotOf peer = false) →
          let grant := [device.val, target.val, 0, s.testThreshold device]
          CompletesThen (.testReq device target peer blocked) s (fun u => let v := u.mgmt 0x98 device grant
            if target.val / 256 = 2 then v.mgmt 0x98 peer grant else v) fun u =>
              u.selftest.slots = s.selftest.slots ++ [(device.val, target.val, peer.val, s.testThreshold device)] ∧
              u.out = s.out ∧ u.regs = s.regs))) ∧
    (∀ (device : Fin 10240) (target : Fin 65536) refused threshold, s.deaf = false →
      (device.val ≠ s.device ∨ s.getF ST_STATUS_STATE 0 0 ≠ 1 ∨ s.getF ST_STATUS_TARGET 0 0 ≠ target.val →
        exec (.testGrant device target refused threshold) s = .next s) ∧
      (device.val = s.device → s.getF ST_STATUS_STATE 0 0 = 1 → s.getF ST_STATUS_TARGET 0 0 = target.val →
        (∀ cause, Completes (.testGrant device target (some cause) threshold) s fun u =>
          u.selftest.retryAt = some (s.fabricNow + 1000000000) ∧ u.regs = s.regs) ∧
        (let d := if targetDie target < 4 then targetDie target else 0
         CompletesThen (.testGrant device target none threshold) s (fun u => u.writeGrant d target threshold (u.freeEntry d))
          fun u => u.getF ST_STATUS_STATE 0 0 = 2 ∧ u.selftest.threshold = threshold ∧ u.selftest.slotEnds = none ∧ u.mem = s.mem))) ∧
    (∀ at_, s.selftest.retryAt = some at_ → s.getF ST_STATUS_STATE 0 0 = 1 →
      let t := s.getF ST_STATUS_TARGET 0 0
      CompletesThen .testReqRetry s (fun u => u.mgmt 0x97 (s.getF SUMMIT_INFO_SUMMIT_ID 0 0) [s.device, t, s.testPeer t]) fun u =>
        at_ ≤ u.fabricNow ∧ u.selftest.retryAt = none ∧ u.getF ST_STATUS_STATE 0 0 = 1 ∧ u.out = s.out) ∧
    (∀ t : Nat, t < 65536 → t / 256 ≠ 3 → (s.startSelftest t).selftest.draining = decide (t / 256 ≤ 4) ∧
      (s.startSelftest t).getF ST_STATUS_STATE 0 0 = 3 ∧ (s.startSelftest t).getF ST_STATUS_TARGET 0 0 = t) ∧
    (∀ (p : Fin 16) (target : Fin 65536), s.deaf = false → target.val / 256 = 1 ∨ target.val / 256 = 2 →
      CompletesThen (.testHold p target) s (fun u => u.linkTell p (s.bundleDead (s.port p).dir)) fun u =>
        u.selftest.heldPorts = (s.selftest.heldPorts.filter fun h => h.1 != p.val) ++
          [(p.val, s.fabricNow + max 1 (s.getF ST_EXPERT_SLOT_MS 0 0) * 1000000)] ∧ u.regs = s.regs) ∧
    (∀ (p : Fin 16) (target : Fin 65536), target.val / 256 ≠ 1 → target.val / 256 ≠ 2 → exec (.testHold p target) s = .next s) ∧
    (let t := s.getF ST_STATUS_TARGET 0 0
     s.getF ST_STATUS_STATE 0 0 = 3 → s.selftest.draining = true →
      ((t / 256 = 1 ∨ t / 256 = 2) → (s.port (t % 256)).drained = false → exec .selftestDrainDone s = .next s) ∧
      (t / 256 = 4 → s.Inv → s.saveArea (t % 256 / 3) < 0xC000000000 → Completes .selftestDrainDone s fun u =>
        u.selftest.draining = false ∧
        (∀ i, i < 1048576 → kget 0 u.mem (s.saveArea (t % 256 / 3) + i) = kget 0 s.mem (testRegion (t % 256) + i)) ∧
        ∀ a, (∀ i, i < 1048576 → a ≠ s.saveArea (t % 256 / 3) + i) → kget 0 u.mem a = kget 0 s.mem a) ∧
      (t / 256 ≠ 4 → ((t / 256 = 1 ∨ t / 256 = 2) → (s.port (t % 256)).drained = true) → Completes .selftestDrainDone s fun u =>
        u.selftest.draining = false ∧ u.mem = s.mem ∧
        ∀ x ∈ testShells t, (u.shell (shellKey x.1 x.2)).saved = some (s.shell (shellKey x.1 x.2)).present)) ∧
    (∀ (readings : List TestReading) (refused : Bool),
      (s.getF ST_STATUS_STATE 0 0 ≠ 3 ∨ s.selftest.draining = true →
        exec (.selftestTestDone readings refused) s = .next s) ∧
      (s.getF ST_STATUS_STATE 0 0 = 3 → s.selftest.draining = false →
        let t := s.getF ST_STATUS_TARGET 0 0
        let rs := s.testReadings t readings
        let bad := (rs.filter fun r => !readingPasses t r).map (·.part.val)
        let no := refused && decide (t / 256 ≤ 4)
        let result := if no then 3 else if bad.isEmpty then 0 else 1
        CompletesThen (.selftestTestDone readings refused) s
          (fun u => (u.returnTarget t (decide (t / 256 ≤ 4)) (!bad.isEmpty) no bad).releaseAll) fun u =>
            u.getF ST_STATUS_STATE 0 0 = 0 ∧ u.getF ST_STATUS_RESULT 0 0 = result ∧ u.getF ST_STATUS_MARGIN 0 0 = worstMargin t rs ∧
            (result = 0 → u.getF ST_COUNTS_PASSES 0 0 = min (2 ^ 32 - 1) (s.getF ST_COUNTS_PASSES 0 0 + 1)) ∧
            (result ≠ 0 → u.getF ST_COUNTS_FAILS 0 0 = min 65535 (s.getF ST_COUNTS_FAILS 0 0 + 1)) ∧
            u.err.raised.length = s.err.raised.length + 1 ∧ u.mem = s.mem ∧
            (4 < t / 256 → u.shells = s.shells) ∧
            (t / 256 ≤ 4 → ∀ x ∈ testShells t,
              let a := s.shell (shellKey x.1 x.2)
              let b := u.shell (shellKey x.1 x.2)
              (no = true → b.present = a.present ∧ b.refused = true ∧ b.defaultStart = true) ∧
              (no = false → b.present = a.saved.getD a.present ∧ b.defaultStart = false)))) ∧
    (∀ (device : Fin 10240) (target t16 : Fin 65536) peer blocked refused threshold (p : Fin 16), s.deaf = true →
      ∀ c ∈ [Instr.testReq device target peer blocked, .testGrant device target refused threshold, .testHold p t16,
        .testDone device target], exec c s = .next s) ∧
    (∀ (device : Fin 10240) (target : Fin 65536), s.deaf = false → s.heldFor device = none ∨ device.val = s.device →
      Completes (.testDone device target) s fun u =>
        u.selftest.slots = (s.selftest.slots.filter fun y => !(y.1 == device.val && y.2.1 == target.val)) ∧ u.regs = s.regs) ∧
    (∀ (device : Fin 10240) (target : Fin 65536) h, s.deaf = false → s.heldFor device = some h → device.val ≠ s.device →
      CompletesThen (.testDone device target) s (fun u => u.returnPort h.1 []) fun u =>
        u.selftest.heldPorts = (s.selftest.heldPorts.filter fun x => x.1 != h.1) ∧ u.regs = s.regs) ∧
    ∀ device : Fin 10240,
      let kept := s.selftest.slots.filter fun y => y.1 != device.val || decide (s.stepOfDevice device * 2 ^ 24 < y.2.2.2)
      (device.val = s.device → s.getF ST_STATUS_STATE 0 0 = 2 → s.grantOpen = false →
        Completes (.selftestSlotExpiry device) s fun u => u.selftest.slots = kept ∧ u.regs = s.regs ∧ u.time = s.time) ∧
      (device.val = s.device → s.getF ST_STATUS_STATE 0 0 = 2 → s.grantOpen = true → Completes (.selftestSlotExpiry device) s fun u =>
        u.getF ST_STATUS_STATE 0 0 = 0 ∧ u.selftest.slots = kept ∧ ∀ at_, s.selftest.slotEnds = some at_ → at_ ≤ u.fabricNow) ∧
      (device.val = s.device → s.getF ST_STATUS_STATE 0 0 = 3 →
        let saved := !s.selftest.draining && decide (s.getF ST_STATUS_TARGET 0 0 / 256 ≤ 4)
        CompletesThen (.selftestSlotExpiry device) s (fun u => (u.returnTarget (s.getF ST_STATUS_TARGET 0 0) saved
          false false []).releaseAll) fun u =>
            u.getF ST_STATUS_STATE 0 0 = 0 ∧ u.getF ST_STATUS_RESULT 0 0 = 2 ∧ u.selftest.slots = kept ∧ u.mem = s.mem ∧
            (saved = false → u.shells = s.shells)) ∧
      (device.val ≠ s.device → s.heldFor device = none →
        Completes (.selftestSlotExpiry device) s fun u => u.selftest.slots = kept ∧ u.regs = s.regs) ∧
      (device.val ≠ s.device → ∀ h, s.heldFor device = some h →
        CompletesThen (.selftestSlotExpiry device) s (fun u => u.returnPort h.1 []) fun u =>
          u.selftest.heldPorts = (s.selftest.heldPorts.filter fun x => x.1 != h.1) ∧ u.selftest.slots = kept ∧ h.2 ≤ u.fabricNow)

/-- Error records (R495 to R500): a raised record is counted and gets the next SEQ; it goes to the ring where that is ready and nothing
is held, else to the holding buffer; one of class 0 opens its window, or joins it; held ones drain in order, and drops are told. -/
def Obligations.ErrorRecords : Prop :=
  ∀ s : State,
    (s.err.raised = [] → exec .errorRecord s = .next s) ∧
    (∀ r rest, s.err.raised = r :: rest →
      (r.stored = true → Completes .errorRecord s fun t =>
        t.err.persistent = s.err.persistent ++ [(r, crc32 (r.bytes 0))] ∧ t.err.raised = rest ∧ t.out = s.out ∧ t.regs = s.regs) ∧
      (r.stored = false → r.cls ≠ 0 →
        (s.errReady = true → s.err.holding = [] → Completes .errorRecord s fun t =>
          t.err.raised = rest ∧ t.err.nextSeq = s.err.nextSeq + 1 ∧ t.err.ringCount = s.err.ringCount + 1 ∧ t.err.holding = [] ∧
          ∃ more, t.out = s.out ++ ⟨.hostWrite, s.getF ERR_RING_BASE_BASE 0 0 * 4096 + s.err.ringCount % s.errSize * 64, [],
            ErrRec.bytes { r with seq := s.err.nextSeq } (1 - s.err.ringCount / s.errSize % 2)⟩ :: more) ∧
        ((s.errReady = false ∨ s.err.holding ≠ []) → s.err.holding.length < 4096 → Completes .errorRecord s fun t =>
          t.err.raised = rest ∧ t.err.nextSeq = s.err.nextSeq + 1 ∧ t.out = s.out ∧
          t.err.holding = s.err.holding ++ [{ r with seq := s.err.nextSeq, held := true }] ∧
          t.getF ERR_HOLD_HELD 0 0 = s.err.holding.length + 1)) ∧
      (r.cls = 0 →
        (s.err.windows.any (fun w => w.kind == r.kind && w.die == r.die && w.unit == r.unit) = true →
          Completes .errorRecord s fun t =>
            t.err.raised = rest ∧ t.err.windows.length = s.err.windows.length ∧ t.err.nextSeq = s.err.nextSeq ∧
            t.err.holding = s.err.holding ∧ t.out = s.out ∧
            t.getF ERR_COUNTS_CORRECTED 0 0 = min (2 ^ 32 - 1) (s.getF ERR_COUNTS_CORRECTED 0 0 + 1)) ∧
        (s.err.windows.any (fun w => w.kind == r.kind && w.die == r.die && w.unit == r.unit) = false →
          s.err.windows.length < 256 → s.getF ERR_EXPERT_RECORD_WINDOW_MS 0 0 ≠ 0 →
          CompletesThen .errorRecord s (State.placeRecord · r) fun u =>
            u.err.raised = rest ∧ u.err.windows = s.err.windows ++ [⟨r.kind, r.die, r.unit,
              s.fabricNow + s.getF ERR_EXPERT_RECORD_WINDOW_MS 0 0 * 1000000, 0, r⟩]) ∧
        (s.err.windows.any (fun w => w.kind == r.kind && w.die == r.die && w.unit == r.unit) = false →
          (256 ≤ s.err.windows.length ∨ s.getF ERR_EXPERT_RECORD_WINDOW_MS 0 0 = 0) →
          CompletesThen .errorRecord s (State.placeRecord · r) fun u =>
            u.err.raised = rest ∧ u.err.windows = s.err.windows))) ∧
    (∀ (n : Fin 256) w, s.err.windows[n.val]? = some w →
      (w.count = 0 → Completes (.recordWindowExpiry n) s fun t =>
        t.err.windows = s.err.windows.eraseIdx n.val ∧ w.closes ≤ t.fabricNow ∧ t.out = s.out ∧
        t.err.nextSeq = s.err.nextSeq) ∧
      (w.count ≠ 0 → CompletesThen (.recordWindowExpiry n) s
        (fun u => u.placeRecord { w.last with count := min 65535 w.count, step := u.stepOf w.die, ftime := u.fabricNow }) fun u =>
          u.err.windows = s.err.windows.eraseIdx n.val ∧ w.closes ≤ u.fabricNow ∧ u.out = s.out)) ∧
    (s.err.holding = [] ∨ s.errReady = false → exec .holdDrain s = .next s) ∧
    (∀ r rest, s.err.holding = r :: rest → s.errReady = true → Completes .holdDrain s fun t =>
      t.err.holding = rest ∧ t.err.ringCount = s.err.ringCount + 1 ∧
      ∃ more, t.out = s.out ++ ⟨.hostWrite, s.getF ERR_RING_BASE_BASE 0 0 * 4096 + s.err.ringCount % s.errSize * 64, [],
        r.bytes (1 - s.err.ringCount / s.errSize % 2)⟩ :: more) ∧
    (s.err.drops = 0 ∨ 4096 ≤ s.err.holding.length → exec .holdOverflow s = .next s) ∧
    (s.err.drops ≠ 0 → s.err.holding.length < 4096 → Completes .holdOverflow s fun t =>
      t.err.drops = 0 ∧ t.err.nextSeq = s.err.nextSeq + 1 ∧
      t.err.holding.length + t.out.length > s.err.holding.length + s.out.length)

/-! ### Set-up space (chapter 21) -/

/-- Set-up writes (R12, R18 to R23, R502 to R512, Table 0.3): nothing is taken in reset; a write that is misplaced, misshapen, locked
or meant for a die that does not run sets its error bit and the first offset, and changes nothing else; a MODE write loads a listed
preset and refuses another; a broadcast reaches every die; a plain register takes each field by its access code. -/
def Obligations.SetupWrites : Prop :=
  ∀ (s : State) (v : Word),
    (s.power.inReset = true → ∀ o n blk die e p x, exec (.registerWrite o n v) s = .next s ∧
      exec (.modeWrite blk die e p) s = .next s ∧ exec (.broadcastWrite x v) s = .next s ∧ exec .setupLock s = .next s) ∧
    (s.power.inReset = false →
      let refused (c : Instr) (f : Fld) (o : Nat) : Prop := Completes c s fun t =>
        t.flag f 0 0 = true ∧ t.flag GLOBAL_STATUS_FIRST_VALID 0 0 = true ∧
        t.getF GLOBAL_STATUS_FIRST_OFFSET 0 0 =
          (if s.flag GLOBAL_STATUS_FIRST_VALID 0 0 then s.getF GLOBAL_STATUS_FIRST_OFFSET 0 0 else o) ∧
        (∀ r d i, Reg.addr r d i ≠ GLOBAL_STATUS.addr 0 0 → t.reg r d i = s.reg r d i) ∧ t.mem = s.mem ∧ t.out = s.out
      (Completes .setupLock s fun t => t.flag GLOBAL_CTRL_SETUP_LOCK 0 0 = true ∧ t.mem = s.mem ∧ t.out = s.out ∧
        ∀ r d i, Reg.addr r d i ≠ GLOBAL_CTRL.addr 0 0 → t.reg r d i = s.reg r d i) ∧
      (∀ (o : Fin 0x100000) (n : Fin 65), (o.val < 0x40000 ∨ 0x50000 ≤ o.val) → (o.val < 0x28000 ∨ 0x28808 ≤ o.val) →
        n.val ≠ 8 ∨ o.val % 8 ≠ 0 → refused (.registerWrite o n v) GLOBAL_STATUS_ACCESS_ERR o) ∧
      (∀ (o : Fin 0x100000) (n : Fin 65), 0x40000 ≤ o.val → o.val < 0x50000 →
        exec (.registerWrite o n v) s = .refused .cxlComponentRegister) ∧
      (∀ k : Fin 256, k.val % 4 ≠ 3 → ∀ o : Fin 0x100000, o.val = 0x28000 + 4 * k.val → Completes (.registerWrite o 4 v) s fun t =>
        kget 0 t.host.msix k = wfld v 31 0 ∧ (∀ j, j ≠ k.val → j % 4 ≠ 3 → kget 0 t.host.msix j = kget 0 s.host.msix j) ∧
        t.host.pending = s.host.pending ∧ t.regs = s.regs ∧ t.mem = s.mem ∧ t.out = s.out) ∧
      (∀ o : Fin 0x100000, 0x60000 ≤ o.val → o.val < 0x80000 → o.val % 8 = 0 → ∀ x : Fin 0x4000, x.val = (o.val - 0x60000) / 8 →
        exec (.registerWrite o 8 v) s = exec (.broadcastWrite x v) s) ∧
      (∀ o : Fin 0x100000, o.val % 8 = 0 → (o.val < 0x28000 ∨ 0x28808 ≤ o.val) → (o.val < 0x40000 ∨ 0x50000 ≤ o.val) →
        (o.val < 0x60000 ∨ 0x80000 ≤ o.val) →
        (s.regionLive o = false → refused (.registerWrite o 8 v) GLOBAL_STATUS_DIE_ACCESS_ERR o) ∧
        (s.regionLive o = true →
          (findReg o = none → refused (.registerWrite o 8 v) GLOBAL_STATUS_ACCESS_ERR o) ∧
          ∀ row d i, findReg o = some (row, d, i) →
            (s.setupLocked row.reg = true → refused (.registerWrite o 8 v) GLOBAL_STATUS_LOCK_ERR o) ∧
            (s.setupLocked row.reg = false →
              ((∃ f ∈ row.rows, f.acc = .rsv ∧ f.fld.get v ≠ 0) →
                exec (.registerWrite o 8 v) s = .fault .reservedFieldWritten) ∧
              ((∀ f ∈ row.rows, f.acc = .rsv → f.fld.get v = 0) →
                exec (.registerWrite o 8 v) s = .next (s.writeRow row d i v) ∧
                ((row.reg.blk ∈ [.flag, .sec, .pwr] ∧ row.reg ≠ row.reg.blk.mode ∧ row.reg.blk.expert ≠ some row.reg) ∨
                  row.reg ∈ [SPUR_ENTRY, ARG0, ARG1, ARG2, TRAIL_ACCESS, HINT_TABLE, TRAV_HEAD, ST_SAVE_BASE] →
                  Completes (.registerWrite o 8 v) s fun t =>
                    (∀ f ∈ row.rows, f.fld.get (t.reg row.reg d i) = match f.acc with
                      | .rw => f.fld.get v
                      | .w1c => f.fld.get (s.reg row.reg d i) &&& (2 ^ (f.hi + 1 - f.lo) - 1 - f.fld.get v)
                      | _ => f.fld.get (s.reg row.reg d i)) ∧
                    (∀ r d' i', Reg.addr r d' i' ≠ row.reg.addr d i → t.reg r d' i' = s.reg r d' i') ∧ t.mem = s.mem))))) ∧
      (∀ (blk : Blk) (die : Fin 4) e (p : Fin 256),
        let d := if blk.mode.perDie then die.val else 0
        (s.regionLive (blk.mode.addr d 0) = false →
          refused (.modeWrite blk die e p) GLOBAL_STATUS_DIE_ACCESS_ERR (blk.mode.addr d 0)) ∧
        (s.regionLive (blk.mode.addr d 0) = true → s.setupLocked blk.mode = true →
          refused (.modeWrite blk die e p) GLOBAL_STATUS_LOCK_ERR (blk.mode.addr d 0)) ∧
        (s.regionLive (blk.mode.addr d 0) = true → s.setupLocked blk.mode = false →
          ((∀ x ∈ blk.presets d, x.1 ≠ p.val) → Completes (.modeWrite blk die e p) s fun t =>
            t.flag blk.presetErr d 0 = true ∧ t.reg blk.mode d 0 = s.reg blk.mode d 0 ∧ t.mem = s.mem ∧ t.out = s.out ∧
            ∀ r, blk.expert = some r → t.reg r d 0 = s.reg r d 0) ∧
          (∀ x, (blk.presets d).find? (fun y => y.1 == p.val) = some x →
            CompletesThen (.modeWrite blk die e p) s (fun t => t.expertChanged blk d) fun t =>
              t.reg blk.mode d 0 = BitVec.ofNat 64 (b2n e * 65536 + p.val) ∧
              (∀ r, blk.expert = some r → t.reg r d 0 = BitVec.ofNat 64 x.2) ∧ t.mem = s.mem ∧ t.out = s.out))) ∧
      (∀ x : Fin 0x4000, let o := 0x60000 + x.val * 8
        (findReg (0x80000 + x.val * 8) = none → refused (.broadcastWrite x v) GLOBAL_STATUS_ACCESS_ERR o) ∧
        ∀ row d i, findReg (0x80000 + x.val * 8) = some (row, d, i) →
          (s.setupLocked row.reg = true → refused (.broadcastWrite x v) GLOBAL_STATUS_LOCK_ERR o) ∧
          (s.setupLocked row.reg = false → (∀ f ∈ row.rows, f.acc = .rsv → f.fld.get v = 0) →
            ((∀ d < 4, s.dieRunning d = false) → refused (.broadcastWrite x v) GLOBAL_STATUS_DIE_ACCESS_ERR o) ∧
            (row.reg ∈ [SPUR_ENTRY, ARG0, ARG1, ARG2, HINT_TABLE, TRAV_HEAD] → ∃ t, exec (.broadcastWrite x v) s = .next t ∧
              ∀ d < 4, s.dieRunning d = true → ∀ f ∈ row.rows, f.acc = .rw → f.fld.get (t.reg row.reg d i) = f.fld.get v))))

/-! ### The whole block -/

/-- A step runs the command at the front of the queue on the queue's rest (the block's way of taking commands); on an empty queue one
array cycle of ten ticks passes (R7; the model's choice, assumption 2). -/
def Obligations.StepRunsFront : Prop :=
  ∀ s : State,
    (∀ c rest, s.pending = c :: rest → step s = exec c { s with pending := rest }) ∧
    (s.pending = [] → ∃ t, step s = .next t ∧ t.pending = [] ∧ s.time + 10 ≤ t.time)

/-- The block before power-on (R14, R15, R456): nothing waits, every register reads its reset value, every byte reads as never
written, and the invariant of every step holds. -/
def Obligations.ResetState : Prop :=
  State.reset.Inv ∧ State.reset.pending = [] ∧ State.reset.out = [] ∧ State.reset.err.raised = [] ∧
  State.reset.trackers = [] ∧ State.reset.host.descs = [] ∧
  (∀ r d i, State.reset.reg r d i = r.initOf d) ∧ (∀ a, State.reset.byte a = 0) ∧
  (∀ d < 4, State.reset.dieRunning d = true) ∧ (∀ t, State.reset.stackState t = 0) ∧ State.reset.awake = true

/-- The invariant of the block: memory and the register file keep their canonical form through every step, from every state. -/
def Obligations.EveryStepKeepsInv : Prop :=
  ∀ s t : State, s.Inv → step s = .next t → t.Inv

/-- What no step undoes: it takes at most the command at the front of the queue and adds none, time does not go back, what was sent
stays sent, and no free value is used twice. -/
def Obligations.StepOnlyAdds : Prop :=
  ∀ s t : State, step s = .next t →
    t.pending = s.pending.tail ∧ s.time ≤ t.time ∧ s.out <+: t.out ∧ s.free ≤ t.free
end

