-- ==== Sys2Proof/Laws/Crypto.lean ====
section
/-!
SUPPORT. Laws of byte strings and signatures: a number reads back from its bytes, a digest has 32 bytes, a key and a signature read back
from theirs, and a key whose root is the one that a signature leads to verifies it.
-/
set_option Elab.async false
namespace Sys2Proof.Machine

open Sys2Proof

@[simp] theorem leBytes_length (n x : Nat) : (leBytes n x).length = n := by
  induction n generalizing x with
  | zero => rfl
  | succ n ih => simp [leBytes, ih]

theorem leNat_leBytes (n x : Nat) (h : x < 256 ^ n) : leNat (leBytes n x) = x := by
  induction n generalizing x with
  | zero => simp at h; simp [leBytes, leNat, h]
  | succ n ih =>
    have : x / 256 < 256 ^ n := by rw [Nat.div_lt_iff_lt_mul (by norm_num)]; rwa [pow_succ] at h
    simp [leBytes, leNat, ih _ this, Nat.mod_add_div]

@[simp] theorem beBytes_length (n x : Nat) : (beBytes n x).length = n := by simp [beBytes]

theorem beNat_append (l : List Byte) (b : Byte) : beNat (l ++ [b]) = beNat l * 256 + b.toNat := by simp [beNat]

theorem beNat_reverse (l : List Byte) : beNat l.reverse = leNat l := by
  induction l with
  | nil => rfl
  | cons b l ih => rw [List.reverse_cons, beNat_append, ih, leNat]; ring

theorem beNat_beBytes (n x : Nat) (h : x < 256 ^ n) : beNat (beBytes n x) = x := by
  rw [beBytes, beNat_reverse, leNat_leBytes n x h]

/-- The part of length n that starts behind a prefix of length m. -/
theorem take_drop_append (a b c : List Byte) : ((a ++ (b ++ c)).drop a.length).take b.length = b := by simp

@[simp] theorem sha256_length (m : List Byte) : (sha256 m).length = 32 := by simp [sha256]

theorem lmsClimb_length (id : List Byte) (r : Nat) (x : List Byte) (ys : List (List Byte)) (h : x.length = 32) :
    (lmsClimb id r x ys).length = 32 := by
  induction ys generalizing r x with
  | nil => simpa [lmsClimb]
  | cons y ys ih => rw [lmsClimb]; exact ih _ _ (sha256_length _)

/-- A signature of known types, whose parts have the lengths of RFC 8554. -/
structure LmsSig.Sound (g : LmsSig) (w p shift h : Nat) : Prop where
  ots : otsParams g.ots = some (w, p, shift)
  lms : lmsHeight g.lms = some h
  c : g.c.length = 32
  y : g.y.length = 32 * p
  path : g.path.length = 32 * h
  q : g.q < 2 ^ h

theorem otsParams_small {n : Nat} {x} (h : otsParams n = some x) : n < 256 := by
  unfold otsParams at h; split at h <;> simp_all
theorem lmsHeight_small {n x : Nat} (h : lmsHeight n = some x) : n < 256 ∧ x ≤ 25 := by
  unfold lmsHeight at h; split at h <;> simp_all <;> omega

theorem LmsSig.Sound.root_length {g : LmsSig} {w p shift h : Nat} (s : g.Sound w p shift h) (id msg : List Byte) :
    (g.root id msg).length = 32 := by
  rw [LmsSig.root, s.ots, s.lms]; exact lmsClimb_length _ _ _ _ (sha256_length _)

theorem LmsKey.parse_bytes (k : LmsKey) (rest : List Byte) (h1 : k.lms < 2 ^ 32) (h2 : k.ots < 2 ^ 32) (h3 : k.id.length = 16)
    (h4 : k.root.length = 32) : LmsKey.parse (k.bytes ++ rest) = k := by
  have e1 := beNat_beBytes 4 k.lms (by norm_num at *; omega)
  have e2 := beNat_beBytes 4 k.ots (by norm_num at *; omega)
  cases k
  simp only [LmsKey.parse, LmsKey.bytes, LmsKey.mk.injEq] at *
  refine ⟨?_, ?_, ?_, ?_⟩
  · rw [List.append_assoc, List.append_assoc, List.append_assoc, List.take_left' (by simp)]; exact e1
  · rw [List.append_assoc, List.append_assoc, List.append_assoc, List.drop_left' (by simp), List.take_left' (by simp)]; exact e2
  · simp only [List.append_assoc]
    rw [← List.append_assoc (beBytes 4 _) (beBytes 4 _), List.drop_left' (by simp), List.take_left' h3]
  · rw [List.append_assoc, List.drop_left' (by simp [h3]), List.take_left' h4]

theorem LmsKey.bytes_length (k : LmsKey) (h3 : k.id.length = 16) (h4 : k.root.length = 32) : k.bytes.length = 56 := by
  simp [LmsKey.bytes, h3, h4]

theorem LmsSig.Sound.bytes_length {g : LmsSig} {w p shift h : Nat} (s : g.Sound w p shift h) :
    g.bytes.length = 44 + 32 * p + 32 * h := by
  simp [LmsSig.bytes, s.c, s.y, s.path]; omega

theorem LmsSig.parse_bytes {g : LmsSig} {w p shift h : Nat} (s : g.Sound w p shift h) (rest : List Byte) :
    LmsSig.parse (g.bytes ++ rest) = some (g, rest) := by
  have hl := s.bytes_length
  obtain ⟨hots, hlms, hc, hy, hp, hq⟩ := s
  have hq' : g.q < 256 ^ 4 := lt_of_lt_of_le hq (le_trans (Nat.pow_le_pow_right (by norm_num) (lmsHeight_small hlms).2) (by norm_num))
  have e0 : beNat ((g.bytes ++ rest).take 4) = g.q := by
    rw [LmsSig.bytes]; simp only [List.append_assoc]
    rw [List.take_left' (by simp)]; exact beNat_beBytes 4 _ hq'
  have e1 : beNat (((g.bytes ++ rest).drop 4).take 4) = g.ots := by
    rw [LmsSig.bytes]; simp only [List.append_assoc]
    rw [List.drop_left' (by simp), List.take_left' (by simp)]
    exact beNat_beBytes 4 _ (by have := otsParams_small hots; norm_num; omega)
  have e2 : ((g.bytes ++ rest).drop 8).take 32 = g.c := by
    rw [LmsSig.bytes]; simp only [List.append_assoc]; rw [← List.append_assoc (beBytes 4 g.q)]
    rw [List.drop_left' (by simp), List.take_left' hc]
  have e3 : ((g.bytes ++ rest).drop 40).take (32 * p) = g.y := by
    rw [LmsSig.bytes]; simp only [List.append_assoc]; rw [← List.append_assoc (beBytes 4 g.q), ← List.append_assoc]
    rw [List.drop_left' (by simp [hc]), List.take_left' hy]
  have e4 : (g.bytes ++ rest).drop (40 + 32 * p) = beBytes 4 g.lms ++ (g.path ++ rest) := by
    rw [LmsSig.bytes, List.append_assoc, List.append_assoc]
    exact List.drop_left' (by simp [hc, hy]; omega)
  have e5 : beNat ((beBytes 4 g.lms ++ (g.path ++ rest)).take 4) = g.lms := by
    rw [List.take_left' (by simp)]; exact beNat_beBytes 4 _ (by have := (lmsHeight_small hlms).1; norm_num; omega)
  have e6 : ((beBytes 4 g.lms ++ (g.path ++ rest)).drop 4).take (32 * h) = g.path := by
    rw [List.drop_left' (by simp), List.take_left' hp]
  have e7 : (beBytes 4 g.lms ++ (g.path ++ rest)).drop (4 + 32 * h) = rest := by
    rw [← List.append_assoc]; exact List.drop_left' (by simp [hp])
  unfold LmsSig.parse
  rw [e1]; simp only [hots, e4, e5, hlms]
  rw [if_neg (by rw [List.length_append, hl]; omega), e0, e2, e3, e6, e7]

/-- The key under which a signature verifies: its root is the one that the signature leads to. -/
def LmsSig.key (g : LmsSig) (id msg : List Byte) : LmsKey := ⟨g.lms, g.ots, id, g.root id msg⟩

theorem LmsSig.Sound.verify {g : LmsSig} {w p shift h : Nat} (s : g.Sound w p shift h) (id msg : List Byte) :
    (g.key id msg).verify msg g = true := by
  simp only [LmsKey.verify, LmsSig.key, s.lms, Option.getD_some, beq_self_eq_true, Bool.true_and, Bool.and_true, decide_eq_true_eq]
  exact s.q

theorem LmsSig.Sound.parse_key {g : LmsSig} {w p shift h : Nat} (s : g.Sound w p shift h) (id msg rest : List Byte) (hid : id.length = 16) :
    LmsKey.parse ((g.key id msg).bytes ++ rest) = g.key id msg :=
  LmsKey.parse_bytes _ _ (lt_of_lt_of_le (lmsHeight_small s.lms).1 (by norm_num)) (lt_of_lt_of_le (otsParams_small s.ots) (by norm_num))
    hid (s.root_length id msg)

theorem LmsSig.Sound.key_length {g : LmsSig} {w p shift h : Nat} (s : g.Sound w p shift h) (id msg : List Byte) (hid : id.length = 16) :
    (g.key id msg).bytes.length = 56 := LmsKey.bytes_length _ hid (s.root_length id msg)

/-- An HSS key of one level verifies the signature that its root was taken from. -/
theorem hssVerify_key {g : LmsSig} {w p shift h : Nat} (s : g.Sound w p shift h) (id msg : List Byte) (hid : id.length = 16) :
    hssVerify (beBytes 4 1 ++ (g.key id msg).bytes) msg (beBytes 4 0 ++ g.bytes) = true := by
  have hk : LmsKey.parse ((beBytes 4 1 ++ (g.key id msg).bytes).drop 4) = g.key id msg := by
    rw [List.drop_left' (by simp), ← List.append_nil (g.key id msg).bytes]; exact s.parse_key id msg [] hid
  have hp : LmsSig.parse ((beBytes 4 0 ++ g.bytes).drop 4) = some (g, []) := by
    rw [List.drop_left' (by simp), ← List.append_nil g.bytes]; exact LmsSig.parse_bytes s []
  have hl : (beBytes 4 1 ++ (g.key id msg).bytes).length = 60 := by rw [List.length_append, s.key_length id msg hid]; rfl
  have h1 : beNat ((beBytes 4 1 ++ (g.key id msg).bytes).take 4) = 1 := by
    rw [List.take_left' (by simp)]; exact beNat_beBytes 4 1 (by norm_num)
  have h0 : beNat ((beBytes 4 0 ++ g.bytes).take 4) = 0 := by
    rw [List.take_left' (by simp)]; exact beNat_beBytes 4 0 (by norm_num)
  unfold hssVerify
  simp only [hl, h1, h0, hk, Nat.sub_self, hssCheck, hp, s.verify]
  simp

/-- An HSS key of two levels verifies a signature whose lower key, and then its own root, were taken from the two LMS signatures. -/
theorem hssVerify_key₂ {g g' : LmsSig} {w p shift h w' p' shift' h' : Nat} (s : g.Sound w p shift h) (s' : g'.Sound w' p' shift' h')
    (id id' msg : List Byte) (hid : id.length = 16) (hid' : id'.length = 16) :
    let lower := (g'.key id' msg).bytes
    hssVerify (beBytes 4 2 ++ (g.key id lower).bytes) msg (beBytes 4 1 ++ (g.bytes ++ (lower ++ g'.bytes))) = true := by
  intro lower
  have hll : lower.length = 56 := s'.key_length id' msg hid'
  have hk : LmsKey.parse ((beBytes 4 2 ++ (g.key id lower).bytes).drop 4) = g.key id lower := by
    rw [List.drop_left' (by simp), ← List.append_nil (g.key id lower).bytes]; exact s.parse_key id lower [] hid
  have hp : LmsSig.parse ((beBytes 4 1 ++ (g.bytes ++ (lower ++ g'.bytes))).drop 4) = some (g, lower ++ g'.bytes) := by
    rw [List.drop_left' (by simp)]; exact LmsSig.parse_bytes s _
  have hk' : LmsKey.parse (lower ++ g'.bytes) = g'.key id' msg := s'.parse_key id' msg _ hid'
  have hp' : LmsSig.parse ((lower ++ g'.bytes).drop 56) = some (g', []) := by
    rw [List.drop_left' hll, ← List.append_nil g'.bytes]; exact LmsSig.parse_bytes s' []
  have hl : (beBytes 4 2 ++ (g.key id lower).bytes).length = 60 := by rw [List.length_append, s.key_length id lower hid]; rfl
  have h1 : beNat ((beBytes 4 2 ++ (g.key id lower).bytes).take 4) = 2 := by
    rw [List.take_left' (by simp)]; exact beNat_beBytes 4 2 (by norm_num)
  have h0 : beNat ((beBytes 4 1 ++ (g.bytes ++ (lower ++ g'.bytes))).take 4) = 1 := by
    rw [List.take_left' (by simp)]; exact beNat_beBytes 4 1 (by norm_num)
  have ht : (lower ++ g'.bytes).take 56 = lower := List.take_left' hll
  have hm : 56 ≤ (lower ++ g'.bytes).length := by rw [List.length_append, hll]; omega
  unfold hssVerify
  simp only [hl, h1, h0, hk, show 2 - 1 = 1 from rfl, hssCheck, hp, hk', hp', ht, s.verify, s'.verify, hm]
  simp

/-! ### Records, commands and the certificate as manufactured -/

@[simp] theorem StoreRecord.read_of (kind : String) (bs : List Byte) : (StoreRecord.of kind bs).read = some bs := by
  simp [StoreRecord.of, StoreRecord.read]

theorem fieldOf_append (a b c : List Byte) (off n : Nat) (ha : a.length = off) (hb : b.length = n) :
    fieldOf (a ++ (b ++ c)) off n = leNat b := by
  rw [fieldOf, List.drop_left' ha, List.take_left' hb]

/-- A field that lies in the first part. -/
theorem fieldOf_left (a b : List Byte) (off n : Nat) (h : off + n ≤ a.length) : fieldOf (a ++ b) off n = fieldOf a off n := by
  rw [fieldOf, fieldOf, List.drop_append_of_le_length (by omega), List.take_append_of_le_length (by rw [List.length_drop]; omega)]

/-- The bytes of a sideband command: COMMAND, LENGTH, SEQ, BODY, SIGNATURE (R477). -/
def sideBytes (code seq : Nat) (body sig : List Byte) : List Byte :=
  leBytes 2 code ++ (leBytes 2 body.length ++ (leBytes 8 seq ++ (body ++ sig)))

/-- The bytes that a command's signature covers. -/
def sideCovered (code seq : Nat) (body : List Byte) : List Byte :=
  leBytes 2 code ++ leBytes 2 body.length ++ leBytes 8 seq ++ body

theorem sideCommand_bytes (code seq : Nat) (form : List Byte → Bool) (body sig : List Byte) (hc : code < 65536)
    (hs : seq < 2 ^ 64) (hb : body.length < 65536) (hf : form body = true) :
    sideCommand code form (sideBytes code seq body sig) = some ⟨seq, body, sideCovered code seq body, sig⟩ := by
  have e1 : fieldOf (sideBytes code seq body sig) 0 2 = code := by
    rw [fieldOf, List.drop_zero, sideBytes, List.take_left' (by simp)]; exact leNat_leBytes 2 _ (by norm_num; exact hc)
  have e2 : fieldOf (sideBytes code seq body sig) 2 2 = body.length := by
    rw [sideBytes, fieldOf_append _ _ _ _ _ (by simp) (by simp)]; exact leNat_leBytes 2 _ (by norm_num; exact hb)
  have e3 : fieldOf (sideBytes code seq body sig) 4 8 = seq := by
    rw [sideBytes, ← List.append_assoc, fieldOf_append _ _ _ _ _ (by simp) (by simp)]
    exact leNat_leBytes 8 _ (by norm_num at *; omega)
  have e4 : (sideBytes code seq body sig).drop 12 = body ++ sig := by
    rw [sideBytes, ← List.append_assoc, ← List.append_assoc]; exact List.drop_left' (by simp)
  have e5 : sideBytes code seq body sig = sideCovered code seq body ++ sig := by simp [sideBytes, sideCovered]
  have e6 : (sideCovered code seq body).length = 12 + body.length := by simp [sideCovered]; omega
  unfold sideCommand
  simp only [e1, e2, e3, e4, List.take_left' rfl, hf]
  rw [if_neg (by rw [e5, List.length_append, e6]; simp), e5, List.take_left' e6, List.drop_left' e6]

theorem factorySig_sound : factorySig.Sound 1 265 7 5 where
  ots := rfl
  lms := rfl
  c := List.length_replicate
  y := List.length_replicate
  path := List.length_replicate
  q := by decide

theorem factoryCert_length : factoryCert.length = 0x54 := by
  simp [factoryCert, certBody, identityKey, identityTree, LmsKey.bytes]

/-- The certificate of an identity key with its issuer signature. -/
def certOf (g : LmsSig) (part serial : Nat) (idPubkey : List Byte) : List Byte :=
  certBody (4 + g.bytes.length) part serial idPubkey 0 0 ++ (beBytes 4 0 ++ g.bytes)

theorem certBody_length (n part serial issued issuer : Nat) (pub : List Byte) (h : pub.length = 60) :
    (certBody n part serial pub issued issuer).length = 0x54 := by simp [certBody, h]

/-- A field of 2 to 8 bytes at the front of a certificate. -/
theorem certOf_fields (g : LmsSig) (part serial : Nat) (pub rest : List Byte) (h : pub.length = 60) (hg : 0x58 + g.bytes.length < 65536)
    (hp : part < 2 ^ 32) (hs : serial < 2 ^ 64) :
    let c := certOf g part serial pub ++ rest
    fieldOf c 0 2 = 1 ∧ fieldOf c 2 2 = 0x58 + g.bytes.length ∧ fieldOf c 4 4 = part ∧ fieldOf c 8 8 = serial ∧
      (c.drop 0x10).take 60 = pub ∧ fieldOf c 0x50 4 = 0 := by
  intro c
  have e : c = leBytes 2 1 ++ (leBytes 2 (0x54 + (4 + g.bytes.length)) ++ (leBytes 4 part ++ (leBytes 8 serial ++ (pub ++
      (leBytes 4 0 ++ (leBytes 4 0 ++ ((beBytes 4 0 ++ g.bytes) ++ rest))))))) := by simp [c, certOf, certBody]
  have k (n x : Nat) (h : x < 256 ^ n) : leNat (leBytes n x) = x := leNat_leBytes n x h
  refine ⟨?_, ?_, ?_, ?_, ?_, ?_⟩
  · rw [fieldOf, e, List.drop_zero, List.take_left' (by simp)]; rfl
  · rw [e, fieldOf_append _ _ _ _ _ (by simp) (by simp), k _ _ (by norm_num; omega)]; omega
  · rw [e, ← List.append_assoc, fieldOf_append _ _ _ _ _ (by simp) (by simp), k _ _ (by norm_num at *; omega)]
  · rw [e, ← List.append_assoc, ← List.append_assoc, fieldOf_append _ _ _ _ _ (by simp) (by simp), k _ _ (by norm_num at *; omega)]
  · rw [e, ← List.append_assoc, ← List.append_assoc, ← List.append_assoc, List.drop_left' (by simp), List.take_left' h]
  · rw [e, ← List.append_assoc, ← List.append_assoc, ← List.append_assoc, ← List.append_assoc, ← List.append_assoc,
      fieldOf_append _ _ _ _ _ (by simp [h]) (by simp)]; rfl

theorem certOf_length (g : LmsSig) (part serial : Nat) (pub : List Byte) (h : pub.length = 60) :
    (certOf g part serial pub).length = 0x58 + g.bytes.length := by
  rw [certOf, List.length_append, certBody_length _ _ _ _ _ _ h, List.length_append, beBytes_length]; omega

/-- The issuing key under which the issuer signature of a certificate verifies. -/
def issuerOf (g : LmsSig) (id : List Byte) (part serial : Nat) (pub : List Byte) : List Byte :=
  beBytes 4 1 ++ (g.key id (certBody (4 + g.bytes.length) part serial pub 0 0)).bytes

/-- Such a certificate is one of Table 19.4, and its issuing key verifies it. -/
theorem certHolds_of {g : LmsSig} {w p shift h : Nat} (s : g.Sound w p shift h) (id : List Byte) (part serial : Nat) (pub : List Byte)
    (hid : id.length = 16) (hpub : pub.length = 60) (hg : 0x58 + g.bytes.length < 65536) (hp : part < 2 ^ 32) (hs : serial < 2 ^ 64) :
    certHolds [issuerOf g id part serial pub] (certOf g part serial pub) = true := by
  obtain ⟨e0, e1, -, -, -, e5⟩ := by simpa using certOf_fields g part serial pub [] hpub hg hp hs
  have hb := certBody_length (4 + g.bytes.length) part serial 0 0 pub hpub
  have hv := hssVerify_key s id (certBody (4 + g.bytes.length) part serial pub 0 0) hid
  have et : (certOf g part serial pub).take 0x54 = certBody (4 + g.bytes.length) part serial pub 0 0 := List.take_left' hb
  have ed : (certOf g part serial pub).drop 0x54 = beBytes 4 0 ++ g.bytes := List.drop_left' hb
  unfold certHolds
  simp only [e0, e1, e5, et, ed, certOf_length _ _ _ _ hpub, List.getD_cons_zero, issuerOf, hv]
  simp

theorem factoryCert_bytes : factoryCert ++ beBytes 4 0 ++ factorySig.bytes = certOf factorySig (partCode false) 0 (identityKey 0) := by
  rw [List.append_assoc]; rfl

theorem identityKey_length (seed : BitVec 256) : (identityKey seed).length = 60 := by
  simp [identityKey, identityTree, LmsKey.bytes]

/-- The certificate as manufactured is one of Table 19.4, and its issuing key verifies it. -/
theorem certHolds_factory : certHolds [factoryKey] (factoryCert ++ beBytes 4 0 ++ factorySig.bytes) = true := by
  rw [factoryCert_bytes]
  exact certHolds_of factorySig_sound _ _ _ _ List.length_replicate (identityKey_length 0)
    (by rw [factorySig_sound.bytes_length]; norm_num) (by decide) (by decide)

/-- A signature of Table 19.3 at one level, its values all 0. -/
def plainSig (lms h : Nat) : LmsSig := ⟨0, 3, List.replicate 32 0, List.replicate 2144 0, lms, List.replicate (32 * h) 0⟩

theorem plainSig_sound {lms h : Nat} (e : lmsHeight lms = some h) : (plainSig lms h).Sound 4 67 4 h where
  ots := rfl
  lms := e
  c := List.length_replicate
  y := List.length_replicate
  path := List.length_replicate
  q := Nat.two_pow_pos h

/-- Sixteen zero bytes, the identifier of the trees of these keys. -/
def zeroId : List Byte := List.replicate 16 0

/-- An identity key that signs a message, and its identity proof, with the issuing key of its certificate. -/
def proofLower (signed : List Byte) : List Byte := ((plainSig 8 20).key zeroId signed).bytes
def proofPub (signed : List Byte) : List Byte := beBytes 4 2 ++ ((plainSig 6 10).key zeroId (proofLower signed)).bytes
def proofIssuer (part serial : Nat) (signed : List Byte) : List Byte := issuerOf factorySig zeroId part serial (proofPub signed)
def proofOf (part serial : Nat) (signed : List Byte) : List Byte :=
  certOf factorySig part serial (proofPub signed) ++
    (beBytes 4 1 ++ ((plainSig 6 10).bytes ++ (proofLower signed ++ (plainSig 8 20).bytes)))

/-- Such a proof holds (R474): no message lacks a key and a certificate that prove it. -/
theorem proofHolds_of (part serial : Nat) (signed : List Byte) (hp : part < 2 ^ 32) (hs : serial < 2 ^ 64) :
    proofHolds [proofIssuer part serial signed] part serial signed (proofOf part serial signed) = true := by
  have s1 := plainSig_sound (show lmsHeight 6 = some 10 from rfl)
  have s2 := plainSig_sound (show lmsHeight 8 = some 20 from rfl)
  have hz : zeroId.length = 16 := List.length_replicate
  have hll : (proofLower signed).length = 56 := s2.key_length zeroId signed hz
  have hpub : (proofPub signed).length = 60 := by
    rw [proofPub, List.length_append, s1.key_length zeroId _ hz]; rfl
  have hg : 0x58 + factorySig.bytes.length < 65536 := by rw [factorySig_sound.bytes_length]; norm_num
  obtain ⟨-, e1, e2, e3, e4, -⟩ := certOf_fields factorySig part serial (proofPub signed)
    (beBytes 4 1 ++ ((plainSig 6 10).bytes ++ (proofLower signed ++ (plainSig 8 20).bytes))) hpub hg hp hs
  obtain ⟨-, -, f2, f3, f4, -⟩ := by simpa using certOf_fields factorySig part serial (proofPub signed) [] hpub hg hp hs
  have hc := certHolds_of factorySig_sound zeroId part serial (proofPub signed) hz hpub hg hp hs
  have hv := hssVerify_key₂ s1 s2 zeroId zeroId signed hz hz
  have et : (proofOf part serial signed).take (fieldOf (proofOf part serial signed) 2 2) = certOf factorySig part serial (proofPub signed) := by
    rw [proofOf, e1]; exact List.take_left' (certOf_length _ _ _ _ hpub)
  have ed : (proofOf part serial signed).drop (fieldOf (proofOf part serial signed) 2 2) =
      beBytes 4 1 ++ ((plainSig 6 10).bytes ++ (proofLower signed ++ (plainSig 8 20).bytes)) := by
    rw [proofOf, e1]; exact List.drop_left' (certOf_length _ _ _ _ hpub)
  have hl : (beBytes 4 1 ++ ((plainSig 6 10).bytes ++ (proofLower signed ++ (plainSig 8 20).bytes))).length = 5396 := by
    rw [List.length_append, List.length_append, List.length_append, s1.bytes_length, s2.bytes_length, hll, beBytes_length]
  unfold proofHolds
  simp only [et, ed, hl, f2, f3, f4]
  rw [proofIssuer, hc, proofPub]
  simp only [proofLower] at hv ⊢
  rw [hv]
  simp

end Sys2Proof.Machine
end

