-- ==== Sys2Proof/Laws/KMap.lean ====
section
/-!
SUPPORT. Laws of keyed maps: what a read finds after a write, and that every operation keeps the canonical form.
-/
set_option Elab.async false
namespace Sys2Proof.Machine

variable {α : Type} {d : α}

@[simp] theorem kget_nil (k : Nat) : kget d ([] : KMap α) k = d := rfl

theorem kRising_mono {a b : Nat} (h : a ≤ b) : ∀ {m : KMap α}, kRising b m = true → kRising a m = true
  | [], _ => rfl
  | (j, v) :: m, hm => by
    simp only [kRising, Bool.and_eq_true, decide_eq_true_eq] at hm ⊢
    exact ⟨Nat.le_trans h hm.1, hm.2⟩

theorem kRising_erase {b k : Nat} {m : KMap α} (h : kRising b m = true) : kRising b (kerase m k) = true := by
  induction m generalizing b with
  | nil => rfl
  | cons p m ih =>
    obtain ⟨j, v⟩ := p
    simp only [kRising, Bool.and_eq_true, decide_eq_true_eq] at h
    unfold kerase
    split
    · exact kRising_mono (Nat.le_trans h.1 (Nat.le_succ j)) (ih h.2)
    · simp only [kRising, Bool.and_eq_true, decide_eq_true_eq]
      exact ⟨h.1, ih h.2⟩

/-- After an erase no entry has the key. -/
theorem kerase_absent (m : KMap α) (k : Nat) : ∀ p ∈ kerase m k, p.1 ≠ k := by
  induction m with
  | nil => intro p hp; cases hp
  | cons q m ih =>
    obtain ⟨j, v⟩ := q
    intro p hp
    unfold kerase at hp
    split at hp
    · exact ih p hp
    · rcases List.mem_cons.1 hp with rfl | hp
      · assumption
      · exact ih p hp

theorem kRising_insert {b k : Nat} {v : α} {m : KMap α} (hb : b ≤ k) (hk : ∀ p ∈ m, p.1 ≠ k) (h : kRising b m = true) :
    kRising b (kinsert m k v) = true := by
  induction m generalizing b with
  | nil => simp [kinsert, kRising, hb]
  | cons p m ih =>
    obtain ⟨j, w⟩ := p
    simp only [kRising, Bool.and_eq_true, decide_eq_true_eq] at h
    have hj : j ≠ k := hk (j, w) (List.mem_cons_self ..)
    unfold kinsert
    split
    · simp only [kRising, Bool.and_eq_true, decide_eq_true_eq]
      exact ⟨hb, by omega, h.2⟩
    · simp only [kRising, Bool.and_eq_true, decide_eq_true_eq]
      exact ⟨h.1, ih (by omega) (fun p hp => hk p (List.mem_cons_of_mem _ hp)) h.2⟩

theorem kRising_kset [DecidableEq α] {k : Nat} {v : α} {m : KMap α} (h : kRising 0 m = true) : kRising 0 (kset d m k v) = true := by
  unfold kset
  split
  · exact kRising_erase h
  · exact kRising_insert (Nat.zero_le k) (kerase_absent m k) (kRising_erase h)

theorem mem_kerase {p : Nat × α} {k : Nat} : ∀ {m : KMap α}, p ∈ kerase m k → p ∈ m
  | [], hp => by cases hp
  | (j, w) :: m, hp => by
    unfold kerase at hp
    split at hp
    · exact List.mem_cons_of_mem _ (mem_kerase hp)
    · rcases List.mem_cons.1 hp with rfl | hp
      · exact List.mem_cons_self ..
      · exact List.mem_cons_of_mem _ (mem_kerase hp)

theorem mem_kinsert {p : Nat × α} {k : Nat} {v : α} : ∀ {m : KMap α}, p ∈ kinsert m k v → p = (k, v) ∨ p ∈ m
  | [], hp => by
    simp only [kinsert, List.mem_singleton] at hp
    exact .inl hp
  | (j, w) :: m, hp => by
    unfold kinsert at hp
    split at hp
    · exact List.mem_cons.1 hp
    · rcases List.mem_cons.1 hp with rfl | hp
      · exact .inr (List.mem_cons_self ..)
      · exact (mem_kinsert hp).imp id (List.mem_cons_of_mem _)

/-- A write keeps the canonical form. -/
theorem kwf_kset [DecidableEq α] {k : Nat} {v : α} {m : KMap α} (h : kwf d m = true) : kwf d (kset d m k v) = true := by
  simp only [kwf, Bool.and_eq_true, List.all_eq_true] at h ⊢
  refine ⟨kRising_kset h.1, ?_⟩
  intro p hp
  unfold kset at hp
  split at hp
  · exact h.2 p (mem_kerase hp)
  · rcases mem_kinsert hp with rfl | hp
    · simpa using ‹¬v = d›
    · exact h.2 p (mem_kerase hp)

theorem kRising_filter {b : Nat} {m : KMap α} (p : Nat × α → Bool) (h : kRising b m = true) : kRising b (m.filter p) = true := by
  induction m generalizing b with
  | nil => rfl
  | cons q m ih =>
    obtain ⟨j, v⟩ := q
    simp only [kRising, Bool.and_eq_true, decide_eq_true_eq] at h
    simp only [List.filter_cons]
    split
    · simp only [kRising, Bool.and_eq_true, decide_eq_true_eq]
      exact ⟨h.1, ih h.2⟩
    · exact kRising_mono (Nat.le_trans h.1 (Nat.le_succ j)) (ih h.2)

/-- Dropping entries keeps the canonical form. -/
theorem kwf_kfilter [DecidableEq α] {m : KMap α} (p : Nat → Bool) (h : kwf d m = true) : kwf d (kfilter p m) = true := by
  simp only [kwf, Bool.and_eq_true, List.all_eq_true] at h ⊢
  exact ⟨kRising_filter _ h.1, fun q hq => h.2 q ((List.mem_filter.1 hq).1)⟩

theorem kget_kerase (m : KMap α) (k j : Nat) : kget d (kerase m k) j = if j = k then d else kget d m j := by
  induction m with
  | nil => simp [kerase]
  | cons q m ih =>
    obtain ⟨i, v⟩ := q
    simp only [kerase, kget]
    by_cases hik : i = k
    · subst hik
      simp only [if_true, ih]
      by_cases hj : j = i
      · simp [hj]
      · simp [hj, Ne.symm hj]
    · simp only [if_neg hik, kget, ih]
      by_cases hij : i = j
      · subst hij; simp [hik]
      · simp [hij]

theorem kget_kinsert (m : KMap α) (k j : Nat) (v : α) (hk : ∀ p ∈ m, p.1 ≠ k) :
    kget d (kinsert m k v) j = if j = k then v else kget d m j := by
  induction m with
  | nil => simp [kinsert, kget, eq_comm]
  | cons q m ih =>
    obtain ⟨i, w⟩ := q
    have hi : i ≠ k := hk (i, w) (List.mem_cons_self ..)
    unfold kinsert
    split
    · simp only [kget, eq_comm]
    · simp only [kget, ih (fun p hp => hk p (List.mem_cons_of_mem _ hp))]
      by_cases hij : i = j
      · subst hij; simp [hi]
      · simp [hij]

/-- A read after a write: the written key gives the value, every other key what it gave before. -/
theorem kget_kset [DecidableEq α] (m : KMap α) (k j : Nat) (v : α) : kget d (kset d m k v) j = if j = k then v else kget d m j := by
  unfold kset
  split
  · rename_i h; subst h; exact kget_kerase m k j
  · rw [kget_kinsert _ _ _ _ (kerase_absent m k), kget_kerase]
    split <;> rfl

@[simp] theorem kget_kset_same [DecidableEq α] (m : KMap α) (k : Nat) (v : α) : kget d (kset d m k v) k = v := by
  simp [kget_kset]

theorem kget_kset_ne [DecidableEq α] (m : KMap α) {k j : Nat} (v : α) (h : j ≠ k) : kget d (kset d m k v) j = kget d m j := by
  simp [kget_kset, h]

/-- The same where the two values of an unlisted key differ. -/
theorem kget_kset_cross [DecidableEq α] {c : α} {m : KMap α} {k j : Nat} {v : α} (h : j ≠ k) :
    kget c (kset d m k v) j = kget c m j := by
  unfold kset
  split
  · rw [kget_kerase, if_neg h]
  · rw [kget_kinsert _ _ _ _ (kerase_absent m k), if_neg h, kget_kerase, if_neg h]

end Sys2Proof.Machine
end

