-- ==== Sys2Proof/Laws/Moves.lean ====
section
/-!
SUPPORT. Laws of Moves: how it composes over the shapes that meanings are written in, and the operations that it is built
from.
-/
set_option Elab.async false
namespace Sys2Proof.Machine

open Sys2Proof

theorem Field.Same.refl (f : Field) (s : State) : f.Same s s := by cases f <;> exact rfl

theorem Field.Same.trans {f : Field} {s t u : State} (h : f.Same s t) (k : f.Same t u) : f.Same s u := by
  cases f <;> exact Eq.trans k h

theorem Moves.refl {m : Nat} (s : State) : Moves m s s :=
  ⟨rfl, Nat.le_refl _, Nat.le_refl _, List.prefix_rfl, id, id, fun f _ => Field.Same.refl f s⟩

theorem testBit_sub {m M i : Nat} (h : m &&& M = m) (hi : M.testBit i = false) : m.testBit i = false := by
  rw [← h, Nat.testBit_and, hi, Bool.and_false]

/-- A footprint within a footprint within a third. -/
theorem sub_trans {a b c : Nat} (h : a &&& b = a) (k : b &&& c = b) : a &&& c = a := by
  rw [← h, Nat.and_assoc, k]

/-- Composition; the first part's footprint may be the smaller. -/
theorem Moves.step {m M : Nat} {s t u : State} (k : Moves m t u) (hm : m &&& M = m) (h : Moves M s t) : Moves M s u :=
  ⟨k.pending.trans h.pending, Nat.le_trans h.time k.time, Nat.le_trans h.free k.free, h.out.trans k.out,
    fun w => k.mem (h.mem w), fun w => k.regs (h.regs w),
    fun f hf => (h.same f hf).trans (k.same f (testBit_sub hm hf))⟩

theorem Moves.mono {m M : Nat} {s t : State} (hm : m &&& M = m) (k : Moves m s t) : Moves M s t := k.step hm (Moves.refl s)

theorem Moves.ite {m : Nat} {c : Prop} [Decidable c] {s a b : State} (ha : c → Moves m s a) (hb : ¬c → Moves m s b) :
    Moves m s (if c then a else b) := by
  split <;> simp_all

theorem Moves.foldl {m : Nat} {α : Type} {s t : State} (l : List α) (f : State → α → State)
    (hf : ∀ u x, Moves m u (f u x)) (h : Moves m s t) : Moves m s (l.foldl f t) := by
  induction l generalizing t with
  | nil => exact h
  | cons x l ih => exact ih ((hf t x).step (Nat.and_self m) h)

theorem Moves.foldl₁ {m : Nat} {α β : Type} {s : State} {p : State × β} (l : List α) (f : State × β → α → State × β)
    (hf : ∀ u x, Moves m u.1 (f u x).1) (h : Moves m s p.1) : Moves m s (l.foldl f p).1 := by
  induction l generalizing p with
  | nil => exact h
  | cons x l ih => exact ih ((hf p x).step (Nat.and_self m) h)

theorem Moves.foldl₂ {m : Nat} {α β : Type} {s : State} {p : β × State} (l : List α) (f : β × State → α → β × State)
    (hf : ∀ u x, Moves m u.2 (f u x).2) (h : Moves m s p.2) : Moves m s (l.foldl f p).2 := by
  induction l generalizing p with
  | nil => exact h
  | cons x l ih => exact ih ((hf p x).step (Nat.and_self m) h)

theorem Moves.fst {m : Nat} {β : Type} {s t : State} {b : β} {p : State × β} (e : p = (t, b)) (h : Moves m s p.1) :
    Moves m s t := by subst e; exact h

theorem Moves.snd {m : Nat} {β : Type} {s t : State} {b : β} {p : β × State} (e : p = (b, t)) (h : Moves m s p.2) :
    Moves m s t := by subst e; exact h

/-- Moves at an answer: any next state it gives. -/
def MovesO (m : Nat) (s : State) (o : Host.Outcome State Fault Refusal) : Prop := ∀ t, o = .next t → Moves m s t

theorem MovesO.next {m : Nat} {s t : State} (h : Moves m s t) : MovesO m s (.next t) := by
  intro u e; injection e with e; subst e; exact h

theorem MovesO.mono {m M : Nat} {s : State} {o : Host.Outcome State Fault Refusal} (k : MovesO m s o)
    (hm : m &&& M = m) : MovesO M s o := fun t e => (k t e).mono hm

theorem MovesO.fault {m : Nat} {s : State} {r : Fault} : MovesO m s (.fault r) := fun _ e => nomatch e
theorem MovesO.refused {m : Nat} {s : State} {r : Refusal} : MovesO m s (.refused r) := fun _ e => nomatch e

theorem MovesO.ite {m : Nat} {c : Prop} [Decidable c] {s : State} {a b : Host.Outcome State Fault Refusal}
    (ha : c → MovesO m s a) (hb : ¬c → MovesO m s b) : MovesO m s (if c then a else b) := by
  split <;> simp_all

/-- Moves at an optional state: the state where there is one. -/
abbrev MovesP (m : Nat) (s : State) (o : Option State) : Prop := ∀ t, o = some t → Moves m s t

theorem MovesP.some {m : Nat} {s t : State} (h : Moves m s t) : MovesP m s (some t) := by
  intro u e; injection e with e; subst e; exact h

theorem MovesP.none {m : Nat} {s : State} : MovesP m s none := fun _ e => nomatch e

theorem MovesP.mono {m n : Nat} {s : State} {o : Option State} (h : MovesP m s o) (hm : m &&& n = m) : MovesP n s o :=
  fun t e => (h t e).mono hm

theorem MovesP.ite {m : Nat} {c : Prop} [Decidable c] {s : State} {a b : Option State}
    (ha : c → MovesP m s a) (hb : ¬c → MovesP m s b) : MovesP m s (if c then a else b) := by
  split
  · exact ha ‹_›
  · exact hb ‹_›

/-- Moves spelled over the fields of the second state, so that a record update shows which it changes. -/
def MovesF (m : Nat) (s : State) (pending : List Instr) (time free : Nat) (out : List Msg) (regs : KMap Word)
    (mem : List Host.Cell) (poison : KMap Bool) (cores : KMap Core) (trackers : KMap Tracker)
    (arrivals : List Waiting) (talusCtl : KMap Stack) (shells : KMap Shell) (paths : KMap PairPath)
    (saddles : KMap SaddleEnd) (cols : KMap ColLink) (clock : FtClock) (contour : Contour) (red : Reduction)
    (upd : Update) (cor : Cornice) (summit : Summit) (fabric : Fabric) (queues : KMap Queue)
    (reserves : KMap (List QReserve)) (switchbacks : KMap Switchback) (traverses : KMap Traverse) (host : HostLink)
    (fences : KMap DieFence) (sec : Security) (err : ErrUnit) (selftest : SelfTest) (low : LowPower) (power : Power)
    (pins : Pins) : Prop :=
  Moves m s ⟨pending, time, free, out, regs, mem, poison, cores, trackers, arrivals, talusCtl, shells, paths, saddles, cols,
    clock, contour, red, upd, cor, summit, fabric, queues, reserves, switchbacks, traverses, host, fences, sec, err,
    selftest, low, power, pins⟩

theorem Moves.ofF {m : Nat} {s t : State} (h : MovesF m s t.pending t.time t.free t.out t.regs t.mem t.poison t.cores
    t.trackers t.arrivals t.talusCtl t.shells t.paths t.saddles t.cols t.clock t.contour t.red t.upd t.cor t.summit t.fabric
    t.queues t.reserves t.switchbacks t.traverses t.host t.fences t.sec t.err t.selftest t.low t.power t.pins) :
    Moves m s t := h

/-- A record update that leaves the queue, time, the free values, the outputs, the register file and memory alone. -/
theorem MovesF.upd {m : Nat} {s t : State} {poison : KMap Bool} {cores : KMap Core} {trackers : KMap Tracker}
    {arrivals : List Waiting} {talusCtl : KMap Stack} {shells : KMap Shell} {paths : KMap PairPath}
    {saddles : KMap SaddleEnd} {cols : KMap ColLink} {clock : FtClock} {contour : Contour} {red : Reduction}
    {upd : Update} {cor : Cornice} {summit : Summit} {fabric : Fabric} {queues : KMap Queue}
    {reserves : KMap (List QReserve)} {switchbacks : KMap Switchback} {traverses : KMap Traverse} {host : HostLink}
    {fences : KMap DieFence} {sec : Security} {err : ErrUnit} {selftest : SelfTest} {low : LowPower} {power : Power}
    {pins : Pins} (h : Moves m s t)
    (c5 : poison = t.poison ∨ m.testBit 5 = true := by with_reducible first | exact .inr (by decide) | exact .inl rfl) (c6 : cores = t.cores ∨ m.testBit 6 = true := by first | exact .inl rfl | exact .inr (by decide))
    (c7 : trackers = t.trackers ∨ m.testBit 7 = true := by with_reducible first | exact .inr (by decide) | exact .inl rfl) (c8 : arrivals = t.arrivals ∨ m.testBit 8 = true := by first | exact .inl rfl | exact .inr (by decide))
    (c9 : talusCtl = t.talusCtl ∨ m.testBit 9 = true := by with_reducible first | exact .inr (by decide) | exact .inl rfl) (c10 : shells = t.shells ∨ m.testBit 10 = true := by first | exact .inl rfl | exact .inr (by decide))
    (c11 : paths = t.paths ∨ m.testBit 11 = true := by with_reducible first | exact .inr (by decide) | exact .inl rfl) (c12 : saddles = t.saddles ∨ m.testBit 12 = true := by first | exact .inl rfl | exact .inr (by decide))
    (c13 : cols = t.cols ∨ m.testBit 13 = true := by with_reducible first | exact .inr (by decide) | exact .inl rfl) (c14 : clock = t.clock ∨ m.testBit 14 = true := by first | exact .inl rfl | exact .inr (by decide))
    (c15 : contour = t.contour ∨ m.testBit 15 = true := by with_reducible first | exact .inr (by decide) | exact .inl rfl) (c16 : red = t.red ∨ m.testBit 16 = true := by first | exact .inl rfl | exact .inr (by decide))
    (c17 : upd = t.upd ∨ m.testBit 17 = true := by with_reducible first | exact .inr (by decide) | exact .inl rfl) (c18 : cor = t.cor ∨ m.testBit 18 = true := by first | exact .inl rfl | exact .inr (by decide))
    (c19 : summit = t.summit ∨ m.testBit 19 = true := by with_reducible first | exact .inr (by decide) | exact .inl rfl) (c20 : fabric = t.fabric ∨ m.testBit 20 = true := by first | exact .inl rfl | exact .inr (by decide))
    (c21 : queues = t.queues ∨ m.testBit 21 = true := by with_reducible first | exact .inr (by decide) | exact .inl rfl) (c22 : reserves = t.reserves ∨ m.testBit 22 = true := by first | exact .inl rfl | exact .inr (by decide))
    (c23 : switchbacks = t.switchbacks ∨ m.testBit 23 = true := by with_reducible first | exact .inr (by decide) | exact .inl rfl) (c24 : traverses = t.traverses ∨ m.testBit 24 = true := by first | exact .inl rfl | exact .inr (by decide))
    (c25 : host = t.host ∨ m.testBit 25 = true := by with_reducible first | exact .inr (by decide) | exact .inl rfl) (c26 : fences = t.fences ∨ m.testBit 26 = true := by first | exact .inl rfl | exact .inr (by decide))
    (c27 : sec = t.sec ∨ m.testBit 27 = true := by with_reducible first | exact .inr (by decide) | exact .inl rfl) (c28 : err = t.err ∨ m.testBit 28 = true := by first | exact .inl rfl | exact .inr (by decide))
    (c29 : selftest = t.selftest ∨ m.testBit 29 = true := by with_reducible first | exact .inr (by decide) | exact .inl rfl) (c30 : low = t.low ∨ m.testBit 30 = true := by first | exact .inl rfl | exact .inr (by decide))
    (c31 : power = t.power ∨ m.testBit 31 = true := by with_reducible first | exact .inr (by decide) | exact .inl rfl) (c32 : pins = t.pins ∨ m.testBit 32 = true := by first | exact .inl rfl | exact .inr (by decide)) :
    MovesF m s t.pending t.time t.free t.out t.regs t.mem poison cores trackers arrivals talusCtl shells paths saddles cols
      clock contour red upd cor summit fabric queues reserves switchbacks traverses host fences sec err selftest low power
      pins := by
  refine ⟨h.pending, h.time, h.free, h.out, h.mem, h.regs, ?_⟩
  intro f hf
  refine (h.same f hf).trans ?_
  cases f
  case time | free | out | regs | mem => exact rfl
  all_goals
    simp only [Field.bit] at hf
    simp_all [Field.Same]

/-- The same for an update of the special fields as well, each with its own part of Moves. -/
theorem Moves.special {m : Nat} {s t : State} {time free : Nat} {out : List Msg} {regs : KMap Word} {mem : List Host.Cell}
    (h : Moves m s t) (h0 : t.time ≤ time) (h1 : t.free ≤ free) (h2 : t.out <+: out)
    (h3 : kRising 0 t.regs = true → kRising 0 regs = true) (h4 : Memory.wf t.mem = true → Memory.wf mem = true)
    (c0 : time = t.time ∨ m.testBit 0 = true) (c1 : free = t.free ∨ m.testBit 1 = true)
    (c2 : out = t.out ∨ m.testBit 2 = true) (c3 : regs = t.regs ∨ m.testBit 3 = true)
    (c4 : mem = t.mem ∨ m.testBit 4 = true) :
    Moves m s { t with time := time, free := free, out := out, regs := regs, mem := mem } := by
  refine ⟨h.pending, Nat.le_trans h.time h0, Nat.le_trans h.free h1, h.out.trans h2, fun w => h4 (h.mem w),
    fun w => h3 (h.regs w), ?_⟩
  intro f hf
  refine (h.same f hf).trans ?_
  cases f <;> first
    | exact rfl
    | (simp only [Field.bit] at hf
       simp_all [Field.Same])

end Sys2Proof.Machine
end

