-- ==== Sys2Proof/Laws/MovesOps.lean ====
section
/-!
SUPPORT. What each definition of Machine/Ops.lean may change: one Moves lemma each.
-/
set_option Elab.async false
set_option linter.all false

namespace Sys2Proof.Machine

open Sys2Proof

theorem State.setReg_moves (s : State) (r : Reg) (d i : Nat) (v : Word) : Moves 0x8 s (s.setReg r d i v) :=
  (Moves.refl s).special (Nat.le_refl _) (Nat.le_refl _) List.prefix_rfl (fun h => kRising_kset h) id
    (.inl rfl) (.inl rfl) (.inl rfl) (.inr rfl) (.inl rfl)

theorem State.setF_moves (s : State) (f : Fld) (d i x : Nat) : Moves 0x8 s (State.setF s f d i x) := by
  unfold State.setF; with_reducible repeat' first | exact .refl _ | (apply Moves.step; apply State.setReg_moves; decide) | dsimp only

theorem State.addF_moves (s : State) (f : Fld) (d i n : Nat) : Moves 0x8 s (State.addF s f d i n) := by
  unfold State.addF; with_reducible repeat' first | exact .refl _ | (apply Moves.step; apply State.setF_moves; decide) | dsimp only

theorem State.satF_moves (s : State) (f : Fld) (d i n : Nat) : Moves 0x8 s (State.satF s f d i n) := by
  unfold State.satF; with_reducible repeat' first | exact .refl _ | (apply Moves.step; apply State.setF_moves; decide) | dsimp only

theorem State.setCore_moves (s : State) (g : Nat) (c : Core) : Moves 0x40 s (State.setCore s g c) := by
  unfold State.setCore; with_reducible repeat' first | exact .refl _ | (apply Moves.ofF; dsimp only; refine MovesF.upd ?_) | dsimp only

theorem State.setTracker_moves (s : State) (d : Nat) (t : Tracker) : Moves 0x80 s (State.setTracker s d t) := by
  unfold State.setTracker; with_reducible repeat' first | exact .refl _ | (apply Moves.ofF; dsimp only; refine MovesF.upd ?_) | dsimp only

theorem State.setStack_moves (s : State) (t : Nat) (x : Stack) : Moves 0x200 s (State.setStack s t x) := by
  unfold State.setStack; with_reducible repeat' first | exact .refl _ | (apply Moves.ofF; dsimp only; refine MovesF.upd ?_) | dsimp only

theorem State.setShell_moves (s : State) (k : Nat) (x : Shell) : Moves 0x400 s (State.setShell s k x) := by
  unfold State.setShell; with_reducible repeat' first | exact .refl _ | (apply Moves.ofF; dsimp only; refine MovesF.upd ?_) | dsimp only

theorem State.setCor_moves (s : State) (f : Cornice → Cornice) : Moves 0x40000 s (State.setCor s f) := by
  unfold State.setCor; with_reducible repeat' first | exact .refl _ | (apply Moves.ofF; dsimp only; refine MovesF.upd ?_) | dsimp only

theorem State.setErr_moves (s : State) (f : ErrUnit → ErrUnit) : Moves 0x10000000 s (State.setErr s f) := by
  unfold State.setErr; with_reducible repeat' first | exact .refl _ | (apply Moves.ofF; dsimp only; refine MovesF.upd ?_) | dsimp only

theorem State.setPins_moves (s : State) (f : Pins → Pins) : Moves 0x100000000 s (State.setPins s f) := by
  unfold State.setPins; with_reducible repeat' first | exact .refl _ | (apply Moves.ofF; dsimp only; refine MovesF.upd ?_) | dsimp only

theorem State.setPower_moves (s : State) (f : Power → Power) : Moves 0x80000000 s (State.setPower s f) := by
  unfold State.setPower; with_reducible repeat' first | exact .refl _ | (apply Moves.ofF; dsimp only; refine MovesF.upd ?_) | dsimp only

theorem State.setSec_moves (s : State) (f : Security → Security) : Moves 0x8000000 s (State.setSec s f) := by
  unfold State.setSec; with_reducible repeat' first | exact .refl _ | (apply Moves.ofF; dsimp only; refine MovesF.upd ?_) | dsimp only

theorem State.setTest_moves (s : State) (f : SelfTest → SelfTest) : Moves 0x20000000 s (State.setTest s f) := by
  unfold State.setTest; with_reducible repeat' first | exact .refl _ | (apply Moves.ofF; dsimp only; refine MovesF.upd ?_) | dsimp only

theorem State.setSummit_moves (s : State) (f : Summit → Summit) : Moves 0x80000 s (State.setSummit s f) := by
  unfold State.setSummit; with_reducible repeat' first | exact .refl _ | (apply Moves.ofF; dsimp only; refine MovesF.upd ?_) | dsimp only

theorem State.setUpd_moves (s : State) (f : Update → Update) : Moves 0x20000 s (State.setUpd s f) := by
  unfold State.setUpd; with_reducible repeat' first | exact .refl _ | (apply Moves.ofF; dsimp only; refine MovesF.upd ?_) | dsimp only

theorem State.setContour_moves (s : State) (f : Contour → Contour) : Moves 0x8000 s (State.setContour s f) := by
  unfold State.setContour; with_reducible repeat' first | exact .refl _ | (apply Moves.ofF; dsimp only; refine MovesF.upd ?_) | dsimp only

theorem State.setRed_moves (s : State) (f : Reduction → Reduction) : Moves 0x10000 s (State.setRed s f) := by
  unfold State.setRed; with_reducible repeat' first | exact .refl _ | (apply Moves.ofF; dsimp only; refine MovesF.upd ?_) | dsimp only

theorem State.setFabric_moves (s : State) (f : Fabric → Fabric) : Moves 0x100000 s (State.setFabric s f) := by
  unfold State.setFabric; with_reducible repeat' first | exact .refl _ | (apply Moves.ofF; dsimp only; refine MovesF.upd ?_) | dsimp only

theorem State.setHost_moves (s : State) (f : HostLink → HostLink) : Moves 0x2000000 s (State.setHost s f) := by
  unfold State.setHost; with_reducible repeat' first | exact .refl _ | (apply Moves.ofF; dsimp only; refine MovesF.upd ?_) | dsimp only

theorem State.setArrivals_moves (s : State) (l : List Waiting) : Moves 0x100 s (State.setArrivals s l) := by
  unfold State.setArrivals; with_reducible repeat' first | exact .refl _ | (apply Moves.ofF; dsimp only; refine MovesF.upd ?_) | dsimp only

theorem State.setLow_moves (s : State) (f : LowPower → LowPower) : Moves 0x40000000 s (State.setLow s f) := by
  unfold State.setLow; with_reducible repeat' first | exact .refl _ | (apply Moves.ofF; dsimp only; refine MovesF.upd ?_) | dsimp only

theorem State.park_moves (s : State) (extents : List (Nat × Nat × Bool)) (x : Arrival) : Moves 0x100 s (State.park s extents x) := by
  unfold State.park; with_reducible repeat' first | exact .refl _ | (apply Moves.step; apply State.setArrivals_moves; decide) | dsimp only

theorem State.shellTrain_moves (s : State) (kind inst : Nat) : Moves 0x400 s (State.shellTrain s kind inst) := by
  unfold State.shellTrain; with_reducible repeat' first | exact .refl _ | (apply Moves.step; apply State.setShell_moves; decide) | dsimp only | extract_lets | split

theorem State.shellSave_moves (s : State) (kind inst : Nat) : Moves 0x400 s (State.shellSave s kind inst) := by
  unfold State.shellSave; with_reducible repeat' first | exact .refl _ | (apply Moves.step; apply State.setShell_moves; decide) | dsimp only | extract_lets | split

theorem State.shellRestore_moves (s : State) (kind inst : Nat) : Moves 0x400 s (State.shellRestore s kind inst) := by
  unfold State.shellRestore; with_reducible repeat' first | exact .refl _ | (apply Moves.step; apply State.setShell_moves; decide) | dsimp only | extract_lets | split

theorem State.shellRefuse_moves (s : State) (kind inst : Nat) : Moves 0x400 s (State.shellRefuse s kind inst) := by
  unfold State.shellRefuse; with_reducible repeat' first | exact .refl _ | (apply Moves.step; apply State.setShell_moves; decide) | dsimp only | extract_lets | split

theorem State.trainShells_moves (s : State) (l : List (Nat × Nat)) : Moves 0x400 s (State.trainShells s l) := by
  unfold State.trainShells; with_reducible repeat' first | exact .refl _ | (apply Moves.step; apply State.shellTrain_moves; decide) | refine Moves.foldl _ _ (fun _ _ => ?_) ?_ | refine Moves.foldl₁ _ _ (fun _ _ => ?_) ?_ | dsimp only

theorem State.saveShells_moves (s : State) (l : List (Nat × Nat)) : Moves 0x400 s (State.saveShells s l) := by
  unfold State.saveShells; with_reducible repeat' first | exact .refl _ | (apply Moves.step; apply State.shellSave_moves; decide) | refine Moves.foldl _ _ (fun _ _ => ?_) ?_ | refine Moves.foldl₁ _ _ (fun _ _ => ?_) ?_ | dsimp only

theorem State.restoreShells_moves (s : State) (l : List (Nat × Nat)) : Moves 0x400 s (State.restoreShells s l) := by
  unfold State.restoreShells; with_reducible repeat' first | exact .refl _ | (apply Moves.step; apply State.shellRestore_moves; decide) | refine Moves.foldl _ _ (fun _ _ => ?_) ?_ | refine Moves.foldl₁ _ _ (fun _ _ => ?_) ?_ | dsimp only

theorem State.refuseShells_moves (s : State) (l : List (Nat × Nat)) : Moves 0x400 s (State.refuseShells s l) := by
  unfold State.refuseShells; with_reducible repeat' first | exact .refl _ | (apply Moves.step; apply State.shellRefuse_moves; decide) | refine Moves.foldl _ _ (fun _ _ => ?_) ?_ | refine Moves.foldl₁ _ _ (fun _ _ => ?_) ?_ | dsimp only

theorem State.emit_moves (s : State) (kind : MsgKind) (dst : Nat) (args : List Nat) (data : List Byte) :
    Moves 0x4 s (s.emit kind dst args data) :=
  (Moves.refl s).special (Nat.le_refl _) (Nat.le_refl _) (List.prefix_append ..) id id
    (.inl rfl) (.inl rfl) (.inr rfl) (.inl rfl) (.inl rfl)

theorem State.sends_moves (s : State) (l : List Msg) : Moves 0x4 s (s.sends l) :=
  (Moves.refl s).special (Nat.le_refl _) (Nat.le_refl _) (List.prefix_append ..) id id
    (.inl rfl) (.inl rfl) (.inr rfl) (.inl rfl) (.inl rfl)

theorem State.takeFree_moves (s : State) : Moves 0x2 s s.takeFree.2 :=
  (Moves.refl s).special (Nat.le_refl _) (Nat.le_succ _) List.prefix_rfl id id
    (.inl rfl) (.inr rfl) (.inl rfl) (.inl rfl) (.inl rfl)

/-- Time moved forward. -/
theorem Moves.forward {s : State} {t : Nat} (h : s.time ≤ t) : Moves 0x1 s { s with time := t } :=
  (Moves.refl s).special h (Nat.le_refl _) List.prefix_rfl id id
    (.inr rfl) (.inl rfl) (.inl rfl) (.inl rfl) (.inl rfl)

theorem State.timeTo_moves (s : State) (ft : Nat) : Moves 0x1 s (s.timeTo ft) := by
  unfold State.timeTo
  split
  · exact .forward (Nat.le_max_left ..)
  · exact .refl s

theorem State.correctClock_moves (s : State) (estimate : Nat) (enter : Bool) : Moves 0x4000 s (State.correctClock s estimate enter) := by
  unfold State.correctClock; with_reducible repeat' first | exact .refl _ | refine Moves.ite (fun _ => ?_) (fun _ => ?_) | (apply Moves.ofF; dsimp only; refine MovesF.upd ?_) | dsimp only | extract_lets | split

theorem State.tickTo_moves (s : State) (t : Nat) : Moves 0x1 s (s.tickTo t) := by
  unfold State.tickTo
  split
  · exact .forward (by omega)
  · exact .refl s

theorem State.raise_moves (s : State) (cls kind die unit status a0 a1 a2 : Nat) : Moves 0x10000000 s (State.raise s cls kind die unit status a0 a1 a2) := by
  unfold State.raise; with_reducible repeat' first | exact .refl _ | (apply Moves.step; apply State.setErr_moves; decide) | dsimp only | extract_lets | split

theorem raiseFlags_moves (s : State) (d unit set rising : Nat) : Moves 0x10000000 s (raiseFlags s d unit set rising) := by
  unfold raiseFlags; with_reducible repeat' first | exact .refl _ | (apply Moves.step; apply State.raise_moves; decide) | refine Moves.ite (fun _ => ?_) (fun _ => ?_) | refine Moves.foldl _ _ (fun _ _ => ?_) ?_ | refine Moves.foldl₁ _ _ (fun _ _ => ?_) ?_ | dsimp only | split

theorem State.orFlags_moves (s : State) (f : Fld) (d i unit set fl : Nat) : Moves 0x10000008 s (State.orFlags s f d i unit set fl) := by
  unfold State.orFlags; with_reducible repeat' first | exact .refl _ | (apply Moves.step; (first | apply State.setF_moves | apply raiseFlags_moves); decide) | dsimp only | extract_lets | split

theorem State.arrFlags_moves (s : State) (d g fl : Nat) : Moves 0x10000008 s (State.arrFlags s d g fl) := by
  unfold State.arrFlags; with_reducible repeat' first | exact .refl _ | (apply Moves.step; apply State.orFlags_moves; decide) | dsimp only

theorem State.vecFlags_moves (s : State) (d g fl : Nat) : Moves 0x10000008 s (State.vecFlags s d g fl) := by
  unfold State.vecFlags; with_reducible repeat' first | exact .refl _ | (apply Moves.step; apply State.orFlags_moves; decide) | dsimp only

theorem State.setByte_moves (s : State) (a : Nat) (b : Byte) : Moves 0x10 s (s.setByte a b) :=
  (Moves.refl s).special (Nat.le_refl _) (Nat.le_refl _) List.prefix_rfl id (fun h => kwf_kset h)
    (.inl rfl) (.inl rfl) (.inl rfl) (.inl rfl) (.inr rfl)

theorem State.setPoison_moves (s : State) (a n : Nat) (p : Bool) : Moves 0x20 s (State.setPoison s a n p) := by
  unfold State.setPoison; with_reducible repeat' first | exact .refl _ | refine Moves.foldl _ _ (fun _ _ => ?_) ?_ | refine Moves.foldl₁ _ _ (fun _ _ => ?_) ?_ | (apply Moves.ofF; dsimp only; refine MovesF.upd ?_) | dsimp only | extract_lets | split

theorem State.clearCovered_moves (s : State) (w a n : Nat) : Moves 0x20 s (State.clearCovered s w a n) := by
  unfold State.clearCovered; with_reducible repeat' first | exact .refl _ | (apply Moves.step; apply State.setPoison_moves; decide) | refine Moves.ite (fun _ => ?_) (fun _ => ?_) | dsimp only | extract_lets | split

theorem State.storeBytes_moves (s : State) (a : Nat) (bs : List Byte) : Moves 0x10 s (s.storeBytes a bs) := by
  induction bs generalizing s a with
  | nil => exact .refl s
  | cons b bs ih => exact (ih _ _).step rfl (s.setByte_moves a b)

theorem State.write_moves (s : State) (a : Nat) (bs : List Byte) : Moves 0x30 s (State.write s a bs) := by
  unfold State.write; with_reducible repeat' first | exact .refl _ | (apply Moves.step; (first | apply State.clearCovered_moves | apply State.storeBytes_moves); decide) | dsimp only

theorem State.writeN_moves (s : State) (a n x : Nat) : Moves 0x30 s (State.writeN s a n x) := by
  unfold State.writeN; with_reducible repeat' first | exact .refl _ | (apply Moves.step; apply State.write_moves; decide) | dsimp only

theorem State.writePoisoned_moves (s : State) (a : Nat) (bs : List Byte) : Moves 0x30 s (State.writePoisoned s a bs) := by
  unfold State.writePoisoned; with_reducible repeat' first | exact .refl _ | (apply Moves.step; (first | apply State.setPoison_moves | apply State.write_moves); decide) | dsimp only

theorem State.writeMarked_moves (s : State) (a : Nat) (bs : List Byte) (ps : List Bool) : Moves 0x30 s (State.writeMarked s a bs ps) := by
  unfold State.writeMarked; with_reducible repeat' first | exact .refl _ | (apply Moves.step; (first | apply State.setPoison_moves | apply State.write_moves); decide) | refine Moves.ite (fun _ => ?_) (fun _ => ?_) | refine Moves.foldl _ _ (fun _ _ => ?_) ?_ | refine Moves.foldl₁ _ _ (fun _ _ => ?_) ?_ | dsimp only | split

theorem State.addressFault_moves (s : State) (d unit a : Nat) : Moves 0x10000000 s (State.addressFault s d unit a) := by
  unfold State.addressFault; with_reducible repeat' first | exact .refl _ | (apply Moves.step; apply State.raise_moves; decide) | dsimp only

theorem State.writeOpen_moves (s : State) (a : Nat) (bs : List Byte) (ps : List Bool) : Moves 0x30 s (State.writeOpen s a bs ps) := by
  unfold State.writeOpen; with_reducible repeat' first | exact .refl _ | (apply Moves.step; (first | apply State.setByte_moves | apply State.setPoison_moves); decide) | refine Moves.ite (fun _ => ?_) (fun _ => ?_) | refine Moves.foldl _ _ (fun _ _ => ?_) ?_ | refine Moves.foldl₁ _ _ (fun _ _ => ?_) ?_ | dsimp only | extract_lets | split

theorem State.setStkF_moves (s : State) (f : Fld) (t x : Nat) : Moves 0x8 s (State.setStkF s f t x) := by
  unfold State.setStkF; with_reducible repeat' first | exact .refl _ | (apply Moves.step; apply State.setF_moves; decide) | dsimp only

theorem State.setDead_moves (s : State) (t w j : Nat) : Moves 0x8 s (State.setDead s t w j) := by
  unfold State.setDead; with_reducible repeat' first | exact .refl _ | (apply Moves.step; apply State.setReg_moves; decide) | refine Moves.ite (fun _ => ?_) (fun _ => ?_) | dsimp only | extract_lets | split

theorem State.setPortF_moves (s : State) (f : Fld) (p x : Nat) : Moves 0x8 s (State.setPortF s f p x) := by
  unfold State.setPortF; with_reducible repeat' first | exact .refl _ | (apply Moves.step; apply State.setF_moves; decide) | dsimp only

theorem State.noteHealth_moves (s : State) : Moves 0x100000000 s (State.noteHealth s) := by
  unfold State.noteHealth; with_reducible repeat' first | exact .refl _ | (apply Moves.step; apply State.setPins_moves; decide) | refine Moves.ite (fun _ => ?_) (fun _ => ?_) | dsimp only | extract_lets | split

theorem State.retireStack_moves (s : State) (t cause : Nat) : Moves 0x110000008 s (State.retireStack s t cause) := by
  unfold State.retireStack; with_reducible repeat' first | exact .refl _ | (apply Moves.step; (first | apply State.noteHealth_moves | apply State.raise_moves | apply State.setStkF_moves); decide) | dsimp only

theorem State.markDead_moves (s : State) (t w j : Nat) : Moves 0x110000008 s (State.markDead s t w j) := by
  unfold State.markDead; with_reducible repeat' first | exact .refl _ | (apply Moves.step; (first | apply State.retireStack_moves | apply State.setDead_moves); decide) | refine Moves.ite (fun _ => ?_) (fun _ => ?_) | (apply Moves.fst; assumption) | (apply Moves.snd; assumption) | dsimp only | split

theorem State.countCorrected_moves (s : State) (t granule w j : Nat) : Moves 0x110000208 s (State.countCorrected s t granule w j) := by
  unfold State.countCorrected; with_reducible repeat' first | exact .refl _ | (apply Moves.step; (first | apply State.markDead_moves | apply State.raise_moves | apply State.satF_moves | apply State.setStack_moves); decide) | refine Moves.ite (fun _ => ?_) (fun _ => ?_) | dsimp only | extract_lets | split

theorem State.countUncorrectable_moves (s : State) (t granule w : Nat) : Moves 0x110000028 s (State.countUncorrectable s t granule w) := by
  unfold State.countUncorrectable; with_reducible repeat' first | exact .refl _ | (apply Moves.step; (first | apply State.raise_moves | apply State.retireStack_moves | apply State.satF_moves | apply State.setPoison_moves); decide) | refine Moves.ite (fun _ => ?_) (fun _ => ?_) | dsimp only | extract_lets | split

theorem State.decodeStored_moves (s : State) (t granule w : Nat) (errs : List SymErr) (pois : Bool) (stored : Nat) : Moves 0x11000022a s (State.decodeStored s t granule w errs pois stored).1 := by
  unfold State.decodeStored; with_reducible repeat' first | exact .refl _ | dsimp only | (apply Moves.step; (first | apply State.countCorrected_moves | apply State.countUncorrectable_moves | apply State.takeFree_moves); decide) | refine Moves.ite (fun _ => ?_) (fun _ => ?_) | (apply Moves.fst; assumption) | (apply Moves.snd; assumption) | extract_lets | split

theorem State.decodeWord_moves (s : State) (t granule w : Nat) (errs : List SymErr) : Moves 0x11000022a s (State.decodeWord s t granule w errs).1 := by
  unfold State.decodeWord; with_reducible repeat' first | exact .refl _ | dsimp only | (apply Moves.step; apply State.decodeStored_moves; decide)

theorem State.decodeGranule_moves (s : State) (t granule : Nat) (errs : List SymErr) :
    Moves 0x11000022e s (s.decodeGranule t granule errs).1 := by
  have key (u : State × List TalusWord) (y : State × TalusWord) (h : Moves 0x11000022e u.1 y.1) :
      Moves 0x11000022e u.1 (let y := y; (y.1, u.2 ++ [y.2])).1 := h
  exact .foldl₁ _ _ (fun u w => key u _ ((State.decodeWord_moves ..).mono (by decide))) (.refl s)

theorem State.keepWords_moves (s : State) (t granule : Nat) (ws : List TalusWord) : Moves 0x10 s (State.keepWords s t granule ws) := by
  unfold State.keepWords; with_reducible repeat' first | exact .refl _ | (apply Moves.step; apply State.storeBytes_moves; decide) | refine Moves.ite (fun _ => ?_) (fun _ => ?_) | refine Moves.foldl _ _ (fun _ _ => ?_) ?_ | refine Moves.foldl₁ _ _ (fun _ _ => ?_) ?_ | dsimp only | split

theorem State.setGranuleErrs_moves (s : State) (t granule : Nat) (errs : List SymErr) : Moves 0x200 s (State.setGranuleErrs s t granule errs) := by
  unfold State.setGranuleErrs; with_reducible repeat' first | exact .refl _ | (apply Moves.step; apply State.setStack_moves; decide) | dsimp only

theorem State.readCells_moves (s : State) (t granule : Nat) (errs : List SymErr) : Moves 0x11000023e s (State.readCells s t granule errs).1 := by
  unfold State.readCells; with_reducible repeat' first | exact .refl _ | dsimp only | (apply Moves.step; (first | apply State.decodeGranule_moves | apply State.keepWords_moves | apply State.setGranuleErrs_moves); decide) | extract_lets | split

theorem State.freshen_moves (s : State) (t granule : Nat) (errs : List SymErr) (full : Bool) : Moves 0x11000023e s (State.freshen s t granule errs full) := by
  unfold State.freshen; with_reducible repeat' first | exact .refl _ | (apply Moves.step; (first | apply State.readCells_moves | apply State.setGranuleErrs_moves); decide) | refine Moves.ite (fun _ => ?_) (fun _ => ?_) | dsimp only | split

theorem State.meetGranule_moves (s : State) (t granule : Nat) (write full : Bool) : Moves 0x11000023e s (State.meetGranule s t granule write full) := by
  unfold State.meetGranule; with_reducible repeat' first | exact .refl _ | (apply Moves.step; (first | apply State.freshen_moves | apply State.readCells_moves); decide) | refine Moves.ite (fun _ => ?_) (fun _ => ?_) | dsimp only | split

theorem State.meetPairs_moves (s : State) (k lo hi : Nat) (covered : Nat → Bool) : Moves 0x10000060 s (State.meetPairs s k lo hi covered) := by
  unfold State.meetPairs; with_reducible repeat' first | exact .refl _ | (apply Moves.step; (first | apply State.raise_moves | apply State.setCore_moves | apply State.setPoison_moves); decide) | refine Moves.ite (fun _ => ?_) (fun _ => ?_) | refine Moves.foldl _ _ (fun _ _ => ?_) ?_ | refine Moves.foldl₁ _ _ (fun _ _ => ?_) ?_ | dsimp only | extract_lets | split

theorem State.meetErrs_moves (s : State) (a n : Nat) (write : Bool) : Moves 0x11000027e s (State.meetErrs s a n write) := by
  unfold State.meetErrs; with_reducible repeat' first | exact .refl _ | (apply Moves.step; (first | apply State.meetGranule_moves | apply State.meetPairs_moves); decide) | refine Moves.foldl _ _ (fun _ _ => ?_) ?_ | refine Moves.foldl₁ _ _ (fun _ _ => ?_) ?_ | (apply Moves.fst; assumption) | (apply Moves.snd; assumption) | dsimp only | extract_lets | split

theorem State.localRead_moves (s : State) (d unit a n : Nat) : Moves 0x11000027e s (State.localRead s d unit a n).1 := by
  unfold State.localRead; with_reducible repeat' first | exact .refl _ | dsimp only | (apply Moves.step; (first | apply State.addressFault_moves | apply State.meetErrs_moves); decide) | (apply Moves.fst; assumption) | (apply Moves.snd; assumption) | extract_lets | split

theorem State.look_moves (s : State) (d unit a n : Nat) : Moves 0x11000027e s (State.look s d unit a n) := by
  unfold State.look; with_reducible repeat' first | exact .refl _ | (apply Moves.step; (first | apply State.addressFault_moves | apply State.meetErrs_moves); decide) | (apply Moves.fst; assumption) | (apply Moves.snd; assumption) | dsimp only | split

theorem State.localWrite_moves (s : State) (d unit a : Nat) (bs : List Byte) (ps : List Bool) : Moves 0x11000027e s (State.localWrite s d unit a bs ps) := by
  unfold State.localWrite; with_reducible repeat' first | exact .refl _ | (apply Moves.step; (first | apply State.addressFault_moves | apply State.meetErrs_moves | apply State.writeMarked_moves | apply State.writeOpen_moves); decide) | (apply Moves.fst; assumption) | (apply Moves.snd; assumption) | dsimp only | split

end Sys2Proof.Machine
end

