-- ==== Sys2Proof/Laws/Regs.lean ====
section
/-!
SUPPORT. Laws of register fields: what a field reads after a field, or a whole register, is written.
-/
set_option Elab.async false
namespace Sys2Proof.Machine

open Sys2Proof

/-! ### Numbers cut into low part, field and high part -/

theorem put_parts (v lo w y : Nat) :
    v - v / 2 ^ lo % 2 ^ w * 2 ^ lo + y * 2 ^ lo = v % 2 ^ lo + y * 2 ^ lo + v / 2 ^ lo / 2 ^ w * 2 ^ w * 2 ^ lo := by
  have h1 : v = v % 2 ^ lo + v / 2 ^ lo * 2 ^ lo := by
    have := Nat.div_add_mod v (2 ^ lo); rw [Nat.mul_comm] at this; omega
  have h2 : v / 2 ^ lo = v / 2 ^ lo % 2 ^ w + v / 2 ^ lo / 2 ^ w * 2 ^ w := by
    have := Nat.div_add_mod (v / 2 ^ lo) (2 ^ w); rw [Nat.mul_comm] at this; omega
  have h3 : v / 2 ^ lo * 2 ^ lo = v / 2 ^ lo % 2 ^ w * 2 ^ lo + v / 2 ^ lo / 2 ^ w * 2 ^ w * 2 ^ lo := by
    rw [← Nat.add_mul, ← h2]
  omega

theorem parts_div (a y c lo w : Nat) (ha : a < 2 ^ lo) :
    (a + y * 2 ^ lo + c * 2 ^ w * 2 ^ lo) / 2 ^ lo = y + c * 2 ^ w := by
  have p : 0 < 2 ^ lo := Nat.pow_pos (by decide)
  have e : a + y * 2 ^ lo + c * 2 ^ w * 2 ^ lo = a + (y + c * 2 ^ w) * 2 ^ lo := by rw [Nat.add_mul]; omega
  rw [e, Nat.add_mul_div_right _ _ p, Nat.div_eq_of_lt ha, Nat.zero_add]

theorem parts_mod (a y c lo w : Nat) (ha : a < 2 ^ lo) :
    (a + y * 2 ^ lo + c * 2 ^ w * 2 ^ lo) % 2 ^ lo = a := by
  have e : a + y * 2 ^ lo + c * 2 ^ w * 2 ^ lo = a + (y + c * 2 ^ w) * 2 ^ lo := by rw [Nat.add_mul]; omega
  rw [e, Nat.add_mul_mod_self_right, Nat.mod_eq_of_lt ha]

theorem parts_lt (v lo w y : Nat) (hv : v < 2 ^ 64) (hy : y < 2 ^ w) (hw : lo + w ≤ 64) :
    v % 2 ^ lo + y * 2 ^ lo + v / 2 ^ lo / 2 ^ w * 2 ^ w * 2 ^ lo < 2 ^ 64 := by
  obtain ⟨k, hk⟩ : ∃ k, 64 = lo + w + k := ⟨64 - lo - w, by omega⟩
  have pl : 0 < 2 ^ lo := Nat.pow_pos (by decide)
  have pw : 0 < 2 ^ w := Nat.pow_pos (by decide)
  have e : (2 : Nat) ^ 64 = 2 ^ k * 2 ^ w * 2 ^ lo := by
    rw [← Nat.pow_add, ← Nat.pow_add]; congr 1; omega
  have hc : v / 2 ^ lo / 2 ^ w < 2 ^ k := by
    rw [Nat.div_lt_iff_lt_mul pw, Nat.div_lt_iff_lt_mul pl, ← e]; exact hv
  have ha : v % 2 ^ lo < 2 ^ lo := Nat.mod_lt _ pl
  have h1 : (v / 2 ^ lo / 2 ^ w + 1) * 2 ^ w ≤ 2 ^ k * 2 ^ w := Nat.mul_le_mul_right _ hc
  have h2 : y + v / 2 ^ lo / 2 ^ w * 2 ^ w + 1 ≤ 2 ^ k * 2 ^ w := by rw [Nat.add_mul, Nat.one_mul] at h1; omega
  have h3 : (y + v / 2 ^ lo / 2 ^ w * 2 ^ w + 1) * 2 ^ lo ≤ 2 ^ k * 2 ^ w * 2 ^ lo := Nat.mul_le_mul_right _ h2
  rw [Nat.add_mul, Nat.add_mul, Nat.one_mul] at h3
  rw [e]; omega

theorem low_bits (x g gw lo : Nat) (h : g + gw ≤ lo) : x % 2 ^ lo / 2 ^ g % 2 ^ gw = x / 2 ^ g % 2 ^ gw := by
  obtain ⟨k, rfl⟩ : ∃ k, lo = g + (gw + k) := ⟨lo - g - gw, by omega⟩
  rw [Nat.pow_add, Nat.mod_mul_right_div_self, Nat.mod_mod_of_dvd]
  exact ⟨2 ^ k, by rw [Nat.pow_add]⟩

/-! ### Fields -/

/-- A field lies within the 64 bits of its register. -/
def Fld.fits (f : Fld) : Bool := decide (f.lo ≤ f.hi) && decide (f.hi < 64)

/-- Two fields share no bit. -/
def Fld.apart (f g : Fld) : Bool := decide (f.hi < g.lo) || decide (g.hi < f.lo)

theorem Fld.put_toNat (f : Fld) (v : Word) (x : Nat) (h : f.fits = true) :
    (f.put v x).toNat = v.toNat % 2 ^ f.lo + x % 2 ^ (f.hi + 1 - f.lo) * 2 ^ f.lo +
      v.toNat / 2 ^ f.lo / 2 ^ (f.hi + 1 - f.lo) * 2 ^ (f.hi + 1 - f.lo) * 2 ^ f.lo := by
  simp only [Fld.fits, Bool.and_eq_true, decide_eq_true_eq] at h
  unfold Fld.put bits
  rw [Nat.shiftRight_eq_div_pow, put_parts, BitVec.toNat_ofNat]
  exact Nat.mod_eq_of_lt (parts_lt _ _ _ _ v.isLt (Nat.mod_lt _ (Nat.pow_pos (by decide))) (by omega))

/-- A field reads what was put into it. -/
theorem Fld.get_put (f : Fld) (v : Word) (x : Nat) (h : f.fits = true) :
    f.get (f.put v x) = x % 2 ^ (f.hi + 1 - f.lo) := by
  unfold Fld.get bits
  rw [Fld.put_toNat f v x h, Nat.shiftRight_eq_div_pow, parts_div _ _ _ _ _ (Nat.mod_lt _ (Nat.pow_pos (by decide))),
    Nat.add_mul_mod_self_right, Nat.mod_mod]

/-- A field apart from the one put reads as before. -/
theorem Fld.get_put_apart (f g : Fld) (v : Word) (x : Nat) (h : f.fits = true) (hg : g.fits = true)
    (ha : f.apart g = true) : g.get (f.put v x) = g.get v := by
  have hp := Fld.put_toNat f v x h
  simp only [Fld.fits, Fld.apart, Bool.and_eq_true, Bool.or_eq_true, decide_eq_true_eq] at h hg ha
  have pl : 0 < 2 ^ f.lo := Nat.pow_pos (by decide)
  unfold Fld.get bits
  rw [hp, Nat.shiftRight_eq_div_pow, Nat.shiftRight_eq_div_pow]
  rcases ha with ha | ha
  · obtain ⟨k, hk⟩ : ∃ k, g.lo = f.lo + (f.hi + 1 - f.lo) + k := ⟨g.lo - (f.hi + 1), by omega⟩
    have e : (2 : Nat) ^ g.lo = 2 ^ f.lo * 2 ^ (f.hi + 1 - f.lo) * 2 ^ k := by rw [hk, Nat.pow_add, Nat.pow_add]
    have pw : 0 < 2 ^ (f.hi + 1 - f.lo) := Nat.pow_pos (by decide)
    rw [e, ← Nat.div_div_eq_div_mul, ← Nat.div_div_eq_div_mul, ← Nat.div_div_eq_div_mul, ← Nat.div_div_eq_div_mul,
      parts_div _ _ _ _ _ (Nat.mod_lt _ pl), Nat.add_mul_div_right _ _ pw,
      Nat.div_eq_of_lt (Nat.mod_lt _ pw), Nat.zero_add]
  · have hl : g.lo + (g.hi + 1 - g.lo) ≤ f.lo := by omega
    rw [← low_bits _ _ _ _ hl, parts_mod _ _ _ _ _ (Nat.mod_lt _ pl), low_bits _ _ _ _ hl]

/-! ### Registers in the state -/

theorem State.reg_setReg (s : State) (r : Reg) (d i : Nat) (v : Word) : (s.setReg r d i v).reg r d i = v :=
  kget_kset_same ..

theorem State.reg_setReg_ne (s : State) (r q : Reg) (d i e j : Nat) (v : Word) (h : q.addr e j ≠ r.addr d i) :
    (s.setReg r d i v).reg q e j = s.reg q e j := by
  exact kget_kset_cross h

/-- A field set reads its value, cut to its width. -/
theorem State.getF_setF (s : State) (f : Fld) (d i x : Nat) (h : f.fits = true) :
    (s.setF f d i x).getF f d i = x % 2 ^ (f.hi + 1 - f.lo) := by
  unfold State.getF State.setF
  rw [State.reg_setReg, Fld.get_put f _ x h]

/-- Another field of the same register reads as before. -/
theorem State.getF_setF_apart (s : State) (f g : Fld) (d i x : Nat) (hr : g.reg = f.reg) (h : f.fits = true)
    (hg : g.fits = true) (ha : f.apart g = true) : (s.setF f d i x).getF g d i = s.getF g d i := by
  unfold State.getF State.setF
  rw [hr, State.reg_setReg, Fld.get_put_apart f g _ x h hg ha]

/-- A field of another register reads as before. -/
theorem State.getF_setF_ne (s : State) (f g : Fld) (d i e j x : Nat) (h : g.reg.addr e j ≠ f.reg.addr d i) :
    (s.setF f d i x).getF g e j = s.getF g e j := by
  unfold State.getF State.setF
  rw [State.reg_setReg_ne _ _ _ _ _ _ _ _ h]

end Sys2Proof.Machine
end

