-- ==== Sys2Proof/Laws/State.lean ====
section
/-!
SUPPORT. One lemma per field of State per update: what each basic update leaves alone and what it sets.
-/
set_option Elab.async false
namespace Sys2Proof.Machine

open Sys2Proof

/-! ### setReg -/

@[simp] theorem State.setReg_pending (s : State) (r : Reg) (d i : Nat) (v : Word) : (s.setReg r d i v).pending = s.pending := (rfl)
@[simp] theorem State.setReg_time (s : State) (r : Reg) (d i : Nat) (v : Word) : (s.setReg r d i v).time = s.time := (rfl)
@[simp] theorem State.setReg_free (s : State) (r : Reg) (d i : Nat) (v : Word) : (s.setReg r d i v).free = s.free := (rfl)
@[simp] theorem State.setReg_out (s : State) (r : Reg) (d i : Nat) (v : Word) : (s.setReg r d i v).out = s.out := (rfl)
@[simp] theorem State.setReg_regs (s : State) (r : Reg) (d i : Nat) (v : Word) : (s.setReg r d i v).regs = kset (r.initOf d) s.regs (r.addr d i) v := (rfl)
@[simp] theorem State.setReg_mem (s : State) (r : Reg) (d i : Nat) (v : Word) : (s.setReg r d i v).mem = s.mem := (rfl)
@[simp] theorem State.setReg_poison (s : State) (r : Reg) (d i : Nat) (v : Word) : (s.setReg r d i v).poison = s.poison := (rfl)
@[simp] theorem State.setReg_cores (s : State) (r : Reg) (d i : Nat) (v : Word) : (s.setReg r d i v).cores = s.cores := (rfl)
@[simp] theorem State.setReg_trackers (s : State) (r : Reg) (d i : Nat) (v : Word) : (s.setReg r d i v).trackers = s.trackers := (rfl)
@[simp] theorem State.setReg_arrivals (s : State) (r : Reg) (d i : Nat) (v : Word) : (s.setReg r d i v).arrivals = s.arrivals := (rfl)
@[simp] theorem State.setReg_talusCtl (s : State) (r : Reg) (d i : Nat) (v : Word) : (s.setReg r d i v).talusCtl = s.talusCtl := (rfl)
@[simp] theorem State.setReg_shells (s : State) (r : Reg) (d i : Nat) (v : Word) : (s.setReg r d i v).shells = s.shells := (rfl)
@[simp] theorem State.setReg_paths (s : State) (r : Reg) (d i : Nat) (v : Word) : (s.setReg r d i v).paths = s.paths := (rfl)
@[simp] theorem State.setReg_saddles (s : State) (r : Reg) (d i : Nat) (v : Word) : (s.setReg r d i v).saddles = s.saddles := (rfl)
@[simp] theorem State.setReg_cols (s : State) (r : Reg) (d i : Nat) (v : Word) : (s.setReg r d i v).cols = s.cols := (rfl)
@[simp] theorem State.setReg_clock (s : State) (r : Reg) (d i : Nat) (v : Word) : (s.setReg r d i v).clock = s.clock := (rfl)
@[simp] theorem State.setReg_contour (s : State) (r : Reg) (d i : Nat) (v : Word) : (s.setReg r d i v).contour = s.contour := (rfl)
@[simp] theorem State.setReg_red (s : State) (r : Reg) (d i : Nat) (v : Word) : (s.setReg r d i v).red = s.red := (rfl)
@[simp] theorem State.setReg_upd (s : State) (r : Reg) (d i : Nat) (v : Word) : (s.setReg r d i v).upd = s.upd := (rfl)
@[simp] theorem State.setReg_cor (s : State) (r : Reg) (d i : Nat) (v : Word) : (s.setReg r d i v).cor = s.cor := (rfl)
@[simp] theorem State.setReg_summit (s : State) (r : Reg) (d i : Nat) (v : Word) : (s.setReg r d i v).summit = s.summit := (rfl)
@[simp] theorem State.setReg_fabric (s : State) (r : Reg) (d i : Nat) (v : Word) : (s.setReg r d i v).fabric = s.fabric := (rfl)
@[simp] theorem State.setReg_queues (s : State) (r : Reg) (d i : Nat) (v : Word) : (s.setReg r d i v).queues = s.queues := (rfl)
@[simp] theorem State.setReg_reserves (s : State) (r : Reg) (d i : Nat) (v : Word) : (s.setReg r d i v).reserves = s.reserves := (rfl)
@[simp] theorem State.setReg_switchbacks (s : State) (r : Reg) (d i : Nat) (v : Word) : (s.setReg r d i v).switchbacks = s.switchbacks := (rfl)
@[simp] theorem State.setReg_traverses (s : State) (r : Reg) (d i : Nat) (v : Word) : (s.setReg r d i v).traverses = s.traverses := (rfl)
@[simp] theorem State.setReg_host (s : State) (r : Reg) (d i : Nat) (v : Word) : (s.setReg r d i v).host = s.host := (rfl)
@[simp] theorem State.setReg_fences (s : State) (r : Reg) (d i : Nat) (v : Word) : (s.setReg r d i v).fences = s.fences := (rfl)
@[simp] theorem State.setReg_sec (s : State) (r : Reg) (d i : Nat) (v : Word) : (s.setReg r d i v).sec = s.sec := (rfl)
@[simp] theorem State.setReg_err (s : State) (r : Reg) (d i : Nat) (v : Word) : (s.setReg r d i v).err = s.err := (rfl)
@[simp] theorem State.setReg_selftest (s : State) (r : Reg) (d i : Nat) (v : Word) : (s.setReg r d i v).selftest = s.selftest := (rfl)
@[simp] theorem State.setReg_low (s : State) (r : Reg) (d i : Nat) (v : Word) : (s.setReg r d i v).low = s.low := (rfl)
@[simp] theorem State.setReg_power (s : State) (r : Reg) (d i : Nat) (v : Word) : (s.setReg r d i v).power = s.power := (rfl)
@[simp] theorem State.setReg_pins (s : State) (r : Reg) (d i : Nat) (v : Word) : (s.setReg r d i v).pins = s.pins := (rfl)
@[simp] theorem State.setReg_core (s : State) (r : Reg) (d i : Nat) (v : Word) (z : Nat) : (s.setReg r d i v).core z = s.core z := (rfl)
@[simp] theorem State.setReg_byte (s : State) (r : Reg) (d i : Nat) (v : Word) (z : Nat) : (s.setReg r d i v).byte z = s.byte z := (rfl)

/-! ### setF -/

@[simp] theorem State.setF_pending (s : State) (f : Fld) (d i x : Nat) : (s.setF f d i x).pending = s.pending := (rfl)
@[simp] theorem State.setF_time (s : State) (f : Fld) (d i x : Nat) : (s.setF f d i x).time = s.time := (rfl)
@[simp] theorem State.setF_free (s : State) (f : Fld) (d i x : Nat) : (s.setF f d i x).free = s.free := (rfl)
@[simp] theorem State.setF_out (s : State) (f : Fld) (d i x : Nat) : (s.setF f d i x).out = s.out := (rfl)
@[simp] theorem State.setF_mem (s : State) (f : Fld) (d i x : Nat) : (s.setF f d i x).mem = s.mem := (rfl)
@[simp] theorem State.setF_poison (s : State) (f : Fld) (d i x : Nat) : (s.setF f d i x).poison = s.poison := (rfl)
@[simp] theorem State.setF_cores (s : State) (f : Fld) (d i x : Nat) : (s.setF f d i x).cores = s.cores := (rfl)
@[simp] theorem State.setF_trackers (s : State) (f : Fld) (d i x : Nat) : (s.setF f d i x).trackers = s.trackers := (rfl)
@[simp] theorem State.setF_arrivals (s : State) (f : Fld) (d i x : Nat) : (s.setF f d i x).arrivals = s.arrivals := (rfl)
@[simp] theorem State.setF_talusCtl (s : State) (f : Fld) (d i x : Nat) : (s.setF f d i x).talusCtl = s.talusCtl := (rfl)
@[simp] theorem State.setF_shells (s : State) (f : Fld) (d i x : Nat) : (s.setF f d i x).shells = s.shells := (rfl)
@[simp] theorem State.setF_paths (s : State) (f : Fld) (d i x : Nat) : (s.setF f d i x).paths = s.paths := (rfl)
@[simp] theorem State.setF_saddles (s : State) (f : Fld) (d i x : Nat) : (s.setF f d i x).saddles = s.saddles := (rfl)
@[simp] theorem State.setF_cols (s : State) (f : Fld) (d i x : Nat) : (s.setF f d i x).cols = s.cols := (rfl)
@[simp] theorem State.setF_clock (s : State) (f : Fld) (d i x : Nat) : (s.setF f d i x).clock = s.clock := (rfl)
@[simp] theorem State.setF_contour (s : State) (f : Fld) (d i x : Nat) : (s.setF f d i x).contour = s.contour := (rfl)
@[simp] theorem State.setF_red (s : State) (f : Fld) (d i x : Nat) : (s.setF f d i x).red = s.red := (rfl)
@[simp] theorem State.setF_upd (s : State) (f : Fld) (d i x : Nat) : (s.setF f d i x).upd = s.upd := (rfl)
@[simp] theorem State.setF_cor (s : State) (f : Fld) (d i x : Nat) : (s.setF f d i x).cor = s.cor := (rfl)
@[simp] theorem State.setF_summit (s : State) (f : Fld) (d i x : Nat) : (s.setF f d i x).summit = s.summit := (rfl)
@[simp] theorem State.setF_fabric (s : State) (f : Fld) (d i x : Nat) : (s.setF f d i x).fabric = s.fabric := (rfl)
@[simp] theorem State.setF_queues (s : State) (f : Fld) (d i x : Nat) : (s.setF f d i x).queues = s.queues := (rfl)
@[simp] theorem State.setF_reserves (s : State) (f : Fld) (d i x : Nat) : (s.setF f d i x).reserves = s.reserves := (rfl)
@[simp] theorem State.setF_switchbacks (s : State) (f : Fld) (d i x : Nat) : (s.setF f d i x).switchbacks = s.switchbacks := (rfl)
@[simp] theorem State.setF_traverses (s : State) (f : Fld) (d i x : Nat) : (s.setF f d i x).traverses = s.traverses := (rfl)
@[simp] theorem State.setF_host (s : State) (f : Fld) (d i x : Nat) : (s.setF f d i x).host = s.host := (rfl)
@[simp] theorem State.setF_fences (s : State) (f : Fld) (d i x : Nat) : (s.setF f d i x).fences = s.fences := (rfl)
@[simp] theorem State.setF_sec (s : State) (f : Fld) (d i x : Nat) : (s.setF f d i x).sec = s.sec := (rfl)
@[simp] theorem State.setF_err (s : State) (f : Fld) (d i x : Nat) : (s.setF f d i x).err = s.err := (rfl)
@[simp] theorem State.setF_selftest (s : State) (f : Fld) (d i x : Nat) : (s.setF f d i x).selftest = s.selftest := (rfl)
@[simp] theorem State.setF_low (s : State) (f : Fld) (d i x : Nat) : (s.setF f d i x).low = s.low := (rfl)
@[simp] theorem State.setF_power (s : State) (f : Fld) (d i x : Nat) : (s.setF f d i x).power = s.power := (rfl)
@[simp] theorem State.setF_pins (s : State) (f : Fld) (d i x : Nat) : (s.setF f d i x).pins = s.pins := (rfl)
@[simp] theorem State.setF_core (s : State) (f : Fld) (d i x : Nat) (z : Nat) : (s.setF f d i x).core z = s.core z := (rfl)
@[simp] theorem State.setF_byte (s : State) (f : Fld) (d i x : Nat) (z : Nat) : (s.setF f d i x).byte z = s.byte z := (rfl)

/-! ### addF -/

@[simp] theorem State.addF_pending (s : State) (f : Fld) (d i n : Nat) : (s.addF f d i n).pending = s.pending := (rfl)
@[simp] theorem State.addF_time (s : State) (f : Fld) (d i n : Nat) : (s.addF f d i n).time = s.time := (rfl)
@[simp] theorem State.addF_free (s : State) (f : Fld) (d i n : Nat) : (s.addF f d i n).free = s.free := (rfl)
@[simp] theorem State.addF_out (s : State) (f : Fld) (d i n : Nat) : (s.addF f d i n).out = s.out := (rfl)
@[simp] theorem State.addF_mem (s : State) (f : Fld) (d i n : Nat) : (s.addF f d i n).mem = s.mem := (rfl)
@[simp] theorem State.addF_poison (s : State) (f : Fld) (d i n : Nat) : (s.addF f d i n).poison = s.poison := (rfl)
@[simp] theorem State.addF_cores (s : State) (f : Fld) (d i n : Nat) : (s.addF f d i n).cores = s.cores := (rfl)
@[simp] theorem State.addF_trackers (s : State) (f : Fld) (d i n : Nat) : (s.addF f d i n).trackers = s.trackers := (rfl)
@[simp] theorem State.addF_arrivals (s : State) (f : Fld) (d i n : Nat) : (s.addF f d i n).arrivals = s.arrivals := (rfl)
@[simp] theorem State.addF_talusCtl (s : State) (f : Fld) (d i n : Nat) : (s.addF f d i n).talusCtl = s.talusCtl := (rfl)
@[simp] theorem State.addF_shells (s : State) (f : Fld) (d i n : Nat) : (s.addF f d i n).shells = s.shells := (rfl)
@[simp] theorem State.addF_paths (s : State) (f : Fld) (d i n : Nat) : (s.addF f d i n).paths = s.paths := (rfl)
@[simp] theorem State.addF_saddles (s : State) (f : Fld) (d i n : Nat) : (s.addF f d i n).saddles = s.saddles := (rfl)
@[simp] theorem State.addF_cols (s : State) (f : Fld) (d i n : Nat) : (s.addF f d i n).cols = s.cols := (rfl)
@[simp] theorem State.addF_clock (s : State) (f : Fld) (d i n : Nat) : (s.addF f d i n).clock = s.clock := (rfl)
@[simp] theorem State.addF_contour (s : State) (f : Fld) (d i n : Nat) : (s.addF f d i n).contour = s.contour := (rfl)
@[simp] theorem State.addF_red (s : State) (f : Fld) (d i n : Nat) : (s.addF f d i n).red = s.red := (rfl)
@[simp] theorem State.addF_upd (s : State) (f : Fld) (d i n : Nat) : (s.addF f d i n).upd = s.upd := (rfl)
@[simp] theorem State.addF_cor (s : State) (f : Fld) (d i n : Nat) : (s.addF f d i n).cor = s.cor := (rfl)
@[simp] theorem State.addF_summit (s : State) (f : Fld) (d i n : Nat) : (s.addF f d i n).summit = s.summit := (rfl)
@[simp] theorem State.addF_fabric (s : State) (f : Fld) (d i n : Nat) : (s.addF f d i n).fabric = s.fabric := (rfl)
@[simp] theorem State.addF_queues (s : State) (f : Fld) (d i n : Nat) : (s.addF f d i n).queues = s.queues := (rfl)
@[simp] theorem State.addF_reserves (s : State) (f : Fld) (d i n : Nat) : (s.addF f d i n).reserves = s.reserves := (rfl)
@[simp] theorem State.addF_switchbacks (s : State) (f : Fld) (d i n : Nat) : (s.addF f d i n).switchbacks = s.switchbacks := (rfl)
@[simp] theorem State.addF_traverses (s : State) (f : Fld) (d i n : Nat) : (s.addF f d i n).traverses = s.traverses := (rfl)
@[simp] theorem State.addF_host (s : State) (f : Fld) (d i n : Nat) : (s.addF f d i n).host = s.host := (rfl)
@[simp] theorem State.addF_fences (s : State) (f : Fld) (d i n : Nat) : (s.addF f d i n).fences = s.fences := (rfl)
@[simp] theorem State.addF_sec (s : State) (f : Fld) (d i n : Nat) : (s.addF f d i n).sec = s.sec := (rfl)
@[simp] theorem State.addF_err (s : State) (f : Fld) (d i n : Nat) : (s.addF f d i n).err = s.err := (rfl)
@[simp] theorem State.addF_selftest (s : State) (f : Fld) (d i n : Nat) : (s.addF f d i n).selftest = s.selftest := (rfl)
@[simp] theorem State.addF_low (s : State) (f : Fld) (d i n : Nat) : (s.addF f d i n).low = s.low := (rfl)
@[simp] theorem State.addF_power (s : State) (f : Fld) (d i n : Nat) : (s.addF f d i n).power = s.power := (rfl)
@[simp] theorem State.addF_pins (s : State) (f : Fld) (d i n : Nat) : (s.addF f d i n).pins = s.pins := (rfl)
@[simp] theorem State.addF_core (s : State) (f : Fld) (d i n : Nat) (z : Nat) : (s.addF f d i n).core z = s.core z := (rfl)
@[simp] theorem State.addF_byte (s : State) (f : Fld) (d i n : Nat) (z : Nat) : (s.addF f d i n).byte z = s.byte z := (rfl)

/-! ### satF -/

@[simp] theorem State.satF_pending (s : State) (f : Fld) (d i n : Nat) : (s.satF f d i n).pending = s.pending := (rfl)
@[simp] theorem State.satF_time (s : State) (f : Fld) (d i n : Nat) : (s.satF f d i n).time = s.time := (rfl)
@[simp] theorem State.satF_free (s : State) (f : Fld) (d i n : Nat) : (s.satF f d i n).free = s.free := (rfl)
@[simp] theorem State.satF_out (s : State) (f : Fld) (d i n : Nat) : (s.satF f d i n).out = s.out := (rfl)
@[simp] theorem State.satF_mem (s : State) (f : Fld) (d i n : Nat) : (s.satF f d i n).mem = s.mem := (rfl)
@[simp] theorem State.satF_poison (s : State) (f : Fld) (d i n : Nat) : (s.satF f d i n).poison = s.poison := (rfl)
@[simp] theorem State.satF_cores (s : State) (f : Fld) (d i n : Nat) : (s.satF f d i n).cores = s.cores := (rfl)
@[simp] theorem State.satF_trackers (s : State) (f : Fld) (d i n : Nat) : (s.satF f d i n).trackers = s.trackers := (rfl)
@[simp] theorem State.satF_arrivals (s : State) (f : Fld) (d i n : Nat) : (s.satF f d i n).arrivals = s.arrivals := (rfl)
@[simp] theorem State.satF_talusCtl (s : State) (f : Fld) (d i n : Nat) : (s.satF f d i n).talusCtl = s.talusCtl := (rfl)
@[simp] theorem State.satF_shells (s : State) (f : Fld) (d i n : Nat) : (s.satF f d i n).shells = s.shells := (rfl)
@[simp] theorem State.satF_paths (s : State) (f : Fld) (d i n : Nat) : (s.satF f d i n).paths = s.paths := (rfl)
@[simp] theorem State.satF_saddles (s : State) (f : Fld) (d i n : Nat) : (s.satF f d i n).saddles = s.saddles := (rfl)
@[simp] theorem State.satF_cols (s : State) (f : Fld) (d i n : Nat) : (s.satF f d i n).cols = s.cols := (rfl)
@[simp] theorem State.satF_clock (s : State) (f : Fld) (d i n : Nat) : (s.satF f d i n).clock = s.clock := (rfl)
@[simp] theorem State.satF_contour (s : State) (f : Fld) (d i n : Nat) : (s.satF f d i n).contour = s.contour := (rfl)
@[simp] theorem State.satF_red (s : State) (f : Fld) (d i n : Nat) : (s.satF f d i n).red = s.red := (rfl)
@[simp] theorem State.satF_upd (s : State) (f : Fld) (d i n : Nat) : (s.satF f d i n).upd = s.upd := (rfl)
@[simp] theorem State.satF_cor (s : State) (f : Fld) (d i n : Nat) : (s.satF f d i n).cor = s.cor := (rfl)
@[simp] theorem State.satF_summit (s : State) (f : Fld) (d i n : Nat) : (s.satF f d i n).summit = s.summit := (rfl)
@[simp] theorem State.satF_fabric (s : State) (f : Fld) (d i n : Nat) : (s.satF f d i n).fabric = s.fabric := (rfl)
@[simp] theorem State.satF_queues (s : State) (f : Fld) (d i n : Nat) : (s.satF f d i n).queues = s.queues := (rfl)
@[simp] theorem State.satF_reserves (s : State) (f : Fld) (d i n : Nat) : (s.satF f d i n).reserves = s.reserves := (rfl)
@[simp] theorem State.satF_switchbacks (s : State) (f : Fld) (d i n : Nat) : (s.satF f d i n).switchbacks = s.switchbacks := (rfl)
@[simp] theorem State.satF_traverses (s : State) (f : Fld) (d i n : Nat) : (s.satF f d i n).traverses = s.traverses := (rfl)
@[simp] theorem State.satF_host (s : State) (f : Fld) (d i n : Nat) : (s.satF f d i n).host = s.host := (rfl)
@[simp] theorem State.satF_fences (s : State) (f : Fld) (d i n : Nat) : (s.satF f d i n).fences = s.fences := (rfl)
@[simp] theorem State.satF_sec (s : State) (f : Fld) (d i n : Nat) : (s.satF f d i n).sec = s.sec := (rfl)
@[simp] theorem State.satF_err (s : State) (f : Fld) (d i n : Nat) : (s.satF f d i n).err = s.err := (rfl)
@[simp] theorem State.satF_selftest (s : State) (f : Fld) (d i n : Nat) : (s.satF f d i n).selftest = s.selftest := (rfl)
@[simp] theorem State.satF_low (s : State) (f : Fld) (d i n : Nat) : (s.satF f d i n).low = s.low := (rfl)
@[simp] theorem State.satF_power (s : State) (f : Fld) (d i n : Nat) : (s.satF f d i n).power = s.power := (rfl)
@[simp] theorem State.satF_pins (s : State) (f : Fld) (d i n : Nat) : (s.satF f d i n).pins = s.pins := (rfl)
@[simp] theorem State.satF_core (s : State) (f : Fld) (d i n : Nat) (z : Nat) : (s.satF f d i n).core z = s.core z := (rfl)
@[simp] theorem State.satF_byte (s : State) (f : Fld) (d i n : Nat) (z : Nat) : (s.satF f d i n).byte z = s.byte z := (rfl)

/-! ### setCore -/

@[simp] theorem State.setCore_pending (s : State) (g : Nat) (c : Core) : (s.setCore g c).pending = s.pending := (rfl)
@[simp] theorem State.setCore_time (s : State) (g : Nat) (c : Core) : (s.setCore g c).time = s.time := (rfl)
@[simp] theorem State.setCore_free (s : State) (g : Nat) (c : Core) : (s.setCore g c).free = s.free := (rfl)
@[simp] theorem State.setCore_out (s : State) (g : Nat) (c : Core) : (s.setCore g c).out = s.out := (rfl)
@[simp] theorem State.setCore_regs (s : State) (g : Nat) (c : Core) : (s.setCore g c).regs = s.regs := (rfl)
@[simp] theorem State.setCore_mem (s : State) (g : Nat) (c : Core) : (s.setCore g c).mem = s.mem := (rfl)
@[simp] theorem State.setCore_poison (s : State) (g : Nat) (c : Core) : (s.setCore g c).poison = s.poison := (rfl)
@[simp] theorem State.setCore_cores (s : State) (g : Nat) (c : Core) : (s.setCore g c).cores = kset Core.zero s.cores g c := (rfl)
@[simp] theorem State.setCore_trackers (s : State) (g : Nat) (c : Core) : (s.setCore g c).trackers = s.trackers := (rfl)
@[simp] theorem State.setCore_arrivals (s : State) (g : Nat) (c : Core) : (s.setCore g c).arrivals = s.arrivals := (rfl)
@[simp] theorem State.setCore_talusCtl (s : State) (g : Nat) (c : Core) : (s.setCore g c).talusCtl = s.talusCtl := (rfl)
@[simp] theorem State.setCore_shells (s : State) (g : Nat) (c : Core) : (s.setCore g c).shells = s.shells := (rfl)
@[simp] theorem State.setCore_paths (s : State) (g : Nat) (c : Core) : (s.setCore g c).paths = s.paths := (rfl)
@[simp] theorem State.setCore_saddles (s : State) (g : Nat) (c : Core) : (s.setCore g c).saddles = s.saddles := (rfl)
@[simp] theorem State.setCore_cols (s : State) (g : Nat) (c : Core) : (s.setCore g c).cols = s.cols := (rfl)
@[simp] theorem State.setCore_clock (s : State) (g : Nat) (c : Core) : (s.setCore g c).clock = s.clock := (rfl)
@[simp] theorem State.setCore_contour (s : State) (g : Nat) (c : Core) : (s.setCore g c).contour = s.contour := (rfl)
@[simp] theorem State.setCore_red (s : State) (g : Nat) (c : Core) : (s.setCore g c).red = s.red := (rfl)
@[simp] theorem State.setCore_upd (s : State) (g : Nat) (c : Core) : (s.setCore g c).upd = s.upd := (rfl)
@[simp] theorem State.setCore_cor (s : State) (g : Nat) (c : Core) : (s.setCore g c).cor = s.cor := (rfl)
@[simp] theorem State.setCore_summit (s : State) (g : Nat) (c : Core) : (s.setCore g c).summit = s.summit := (rfl)
@[simp] theorem State.setCore_fabric (s : State) (g : Nat) (c : Core) : (s.setCore g c).fabric = s.fabric := (rfl)
@[simp] theorem State.setCore_queues (s : State) (g : Nat) (c : Core) : (s.setCore g c).queues = s.queues := (rfl)
@[simp] theorem State.setCore_reserves (s : State) (g : Nat) (c : Core) : (s.setCore g c).reserves = s.reserves := (rfl)
@[simp] theorem State.setCore_switchbacks (s : State) (g : Nat) (c : Core) : (s.setCore g c).switchbacks = s.switchbacks := (rfl)
@[simp] theorem State.setCore_traverses (s : State) (g : Nat) (c : Core) : (s.setCore g c).traverses = s.traverses := (rfl)
@[simp] theorem State.setCore_host (s : State) (g : Nat) (c : Core) : (s.setCore g c).host = s.host := (rfl)
@[simp] theorem State.setCore_fences (s : State) (g : Nat) (c : Core) : (s.setCore g c).fences = s.fences := (rfl)
@[simp] theorem State.setCore_sec (s : State) (g : Nat) (c : Core) : (s.setCore g c).sec = s.sec := (rfl)
@[simp] theorem State.setCore_err (s : State) (g : Nat) (c : Core) : (s.setCore g c).err = s.err := (rfl)
@[simp] theorem State.setCore_selftest (s : State) (g : Nat) (c : Core) : (s.setCore g c).selftest = s.selftest := (rfl)
@[simp] theorem State.setCore_low (s : State) (g : Nat) (c : Core) : (s.setCore g c).low = s.low := (rfl)
@[simp] theorem State.setCore_power (s : State) (g : Nat) (c : Core) : (s.setCore g c).power = s.power := (rfl)
@[simp] theorem State.setCore_pins (s : State) (g : Nat) (c : Core) : (s.setCore g c).pins = s.pins := (rfl)
@[simp] theorem State.setCore_reg (s : State) (g : Nat) (c : Core) (y : Reg) (e j : Nat) : (s.setCore g c).reg y e j = s.reg y e j := (rfl)
@[simp] theorem State.setCore_getF (s : State) (g : Nat) (c : Core) (y : Fld) (e j : Nat) : (s.setCore g c).getF y e j = s.getF y e j := (rfl)
@[simp] theorem State.setCore_flag (s : State) (g : Nat) (c : Core) (y : Fld) (e j : Nat) : (s.setCore g c).flag y e j = s.flag y e j := (rfl)
@[simp] theorem State.setCore_byte (s : State) (g : Nat) (c : Core) (z : Nat) : (s.setCore g c).byte z = s.byte z := (rfl)

/-! ### setTracker -/

@[simp] theorem State.setTracker_pending (s : State) (d : Nat) (t : Tracker) : (s.setTracker d t).pending = s.pending := (rfl)
@[simp] theorem State.setTracker_time (s : State) (d : Nat) (t : Tracker) : (s.setTracker d t).time = s.time := (rfl)
@[simp] theorem State.setTracker_free (s : State) (d : Nat) (t : Tracker) : (s.setTracker d t).free = s.free := (rfl)
@[simp] theorem State.setTracker_out (s : State) (d : Nat) (t : Tracker) : (s.setTracker d t).out = s.out := (rfl)
@[simp] theorem State.setTracker_regs (s : State) (d : Nat) (t : Tracker) : (s.setTracker d t).regs = s.regs := (rfl)
@[simp] theorem State.setTracker_mem (s : State) (d : Nat) (t : Tracker) : (s.setTracker d t).mem = s.mem := (rfl)
@[simp] theorem State.setTracker_poison (s : State) (d : Nat) (t : Tracker) : (s.setTracker d t).poison = s.poison := (rfl)
@[simp] theorem State.setTracker_cores (s : State) (d : Nat) (t : Tracker) : (s.setTracker d t).cores = s.cores := (rfl)
@[simp] theorem State.setTracker_trackers (s : State) (d : Nat) (t : Tracker) : (s.setTracker d t).trackers = kset Tracker.zero s.trackers d t := (rfl)
@[simp] theorem State.setTracker_arrivals (s : State) (d : Nat) (t : Tracker) : (s.setTracker d t).arrivals = s.arrivals := (rfl)
@[simp] theorem State.setTracker_talusCtl (s : State) (d : Nat) (t : Tracker) : (s.setTracker d t).talusCtl = s.talusCtl := (rfl)
@[simp] theorem State.setTracker_shells (s : State) (d : Nat) (t : Tracker) : (s.setTracker d t).shells = s.shells := (rfl)
@[simp] theorem State.setTracker_paths (s : State) (d : Nat) (t : Tracker) : (s.setTracker d t).paths = s.paths := (rfl)
@[simp] theorem State.setTracker_saddles (s : State) (d : Nat) (t : Tracker) : (s.setTracker d t).saddles = s.saddles := (rfl)
@[simp] theorem State.setTracker_cols (s : State) (d : Nat) (t : Tracker) : (s.setTracker d t).cols = s.cols := (rfl)
@[simp] theorem State.setTracker_clock (s : State) (d : Nat) (t : Tracker) : (s.setTracker d t).clock = s.clock := (rfl)
@[simp] theorem State.setTracker_contour (s : State) (d : Nat) (t : Tracker) : (s.setTracker d t).contour = s.contour := (rfl)
@[simp] theorem State.setTracker_red (s : State) (d : Nat) (t : Tracker) : (s.setTracker d t).red = s.red := (rfl)
@[simp] theorem State.setTracker_upd (s : State) (d : Nat) (t : Tracker) : (s.setTracker d t).upd = s.upd := (rfl)
@[simp] theorem State.setTracker_cor (s : State) (d : Nat) (t : Tracker) : (s.setTracker d t).cor = s.cor := (rfl)
@[simp] theorem State.setTracker_summit (s : State) (d : Nat) (t : Tracker) : (s.setTracker d t).summit = s.summit := (rfl)
@[simp] theorem State.setTracker_fabric (s : State) (d : Nat) (t : Tracker) : (s.setTracker d t).fabric = s.fabric := (rfl)
@[simp] theorem State.setTracker_queues (s : State) (d : Nat) (t : Tracker) : (s.setTracker d t).queues = s.queues := (rfl)
@[simp] theorem State.setTracker_reserves (s : State) (d : Nat) (t : Tracker) : (s.setTracker d t).reserves = s.reserves := (rfl)
@[simp] theorem State.setTracker_switchbacks (s : State) (d : Nat) (t : Tracker) : (s.setTracker d t).switchbacks = s.switchbacks := (rfl)
@[simp] theorem State.setTracker_traverses (s : State) (d : Nat) (t : Tracker) : (s.setTracker d t).traverses = s.traverses := (rfl)
@[simp] theorem State.setTracker_host (s : State) (d : Nat) (t : Tracker) : (s.setTracker d t).host = s.host := (rfl)
@[simp] theorem State.setTracker_fences (s : State) (d : Nat) (t : Tracker) : (s.setTracker d t).fences = s.fences := (rfl)
@[simp] theorem State.setTracker_sec (s : State) (d : Nat) (t : Tracker) : (s.setTracker d t).sec = s.sec := (rfl)
@[simp] theorem State.setTracker_err (s : State) (d : Nat) (t : Tracker) : (s.setTracker d t).err = s.err := (rfl)
@[simp] theorem State.setTracker_selftest (s : State) (d : Nat) (t : Tracker) : (s.setTracker d t).selftest = s.selftest := (rfl)
@[simp] theorem State.setTracker_low (s : State) (d : Nat) (t : Tracker) : (s.setTracker d t).low = s.low := (rfl)
@[simp] theorem State.setTracker_power (s : State) (d : Nat) (t : Tracker) : (s.setTracker d t).power = s.power := (rfl)
@[simp] theorem State.setTracker_pins (s : State) (d : Nat) (t : Tracker) : (s.setTracker d t).pins = s.pins := (rfl)
@[simp] theorem State.setTracker_reg (s : State) (d : Nat) (t : Tracker) (y : Reg) (e j : Nat) : (s.setTracker d t).reg y e j = s.reg y e j := (rfl)
@[simp] theorem State.setTracker_getF (s : State) (d : Nat) (t : Tracker) (y : Fld) (e j : Nat) : (s.setTracker d t).getF y e j = s.getF y e j := (rfl)
@[simp] theorem State.setTracker_flag (s : State) (d : Nat) (t : Tracker) (y : Fld) (e j : Nat) : (s.setTracker d t).flag y e j = s.flag y e j := (rfl)
@[simp] theorem State.setTracker_core (s : State) (d : Nat) (t : Tracker) (z : Nat) : (s.setTracker d t).core z = s.core z := (rfl)
@[simp] theorem State.setTracker_byte (s : State) (d : Nat) (t : Tracker) (z : Nat) : (s.setTracker d t).byte z = s.byte z := (rfl)

/-! ### setStack -/

@[simp] theorem State.setStack_pending (s : State) (t : Nat) (x : Stack) : (s.setStack t x).pending = s.pending := (rfl)
@[simp] theorem State.setStack_time (s : State) (t : Nat) (x : Stack) : (s.setStack t x).time = s.time := (rfl)
@[simp] theorem State.setStack_free (s : State) (t : Nat) (x : Stack) : (s.setStack t x).free = s.free := (rfl)
@[simp] theorem State.setStack_out (s : State) (t : Nat) (x : Stack) : (s.setStack t x).out = s.out := (rfl)
@[simp] theorem State.setStack_regs (s : State) (t : Nat) (x : Stack) : (s.setStack t x).regs = s.regs := (rfl)
@[simp] theorem State.setStack_mem (s : State) (t : Nat) (x : Stack) : (s.setStack t x).mem = s.mem := (rfl)
@[simp] theorem State.setStack_poison (s : State) (t : Nat) (x : Stack) : (s.setStack t x).poison = s.poison := (rfl)
@[simp] theorem State.setStack_cores (s : State) (t : Nat) (x : Stack) : (s.setStack t x).cores = s.cores := (rfl)
@[simp] theorem State.setStack_trackers (s : State) (t : Nat) (x : Stack) : (s.setStack t x).trackers = s.trackers := (rfl)
@[simp] theorem State.setStack_arrivals (s : State) (t : Nat) (x : Stack) : (s.setStack t x).arrivals = s.arrivals := (rfl)
@[simp] theorem State.setStack_talusCtl (s : State) (t : Nat) (x : Stack) : (s.setStack t x).talusCtl = kset Stack.zero s.talusCtl t x := (rfl)
@[simp] theorem State.setStack_shells (s : State) (t : Nat) (x : Stack) : (s.setStack t x).shells = s.shells := (rfl)
@[simp] theorem State.setStack_paths (s : State) (t : Nat) (x : Stack) : (s.setStack t x).paths = s.paths := (rfl)
@[simp] theorem State.setStack_saddles (s : State) (t : Nat) (x : Stack) : (s.setStack t x).saddles = s.saddles := (rfl)
@[simp] theorem State.setStack_cols (s : State) (t : Nat) (x : Stack) : (s.setStack t x).cols = s.cols := (rfl)
@[simp] theorem State.setStack_clock (s : State) (t : Nat) (x : Stack) : (s.setStack t x).clock = s.clock := (rfl)
@[simp] theorem State.setStack_contour (s : State) (t : Nat) (x : Stack) : (s.setStack t x).contour = s.contour := (rfl)
@[simp] theorem State.setStack_red (s : State) (t : Nat) (x : Stack) : (s.setStack t x).red = s.red := (rfl)
@[simp] theorem State.setStack_upd (s : State) (t : Nat) (x : Stack) : (s.setStack t x).upd = s.upd := (rfl)
@[simp] theorem State.setStack_cor (s : State) (t : Nat) (x : Stack) : (s.setStack t x).cor = s.cor := (rfl)
@[simp] theorem State.setStack_summit (s : State) (t : Nat) (x : Stack) : (s.setStack t x).summit = s.summit := (rfl)
@[simp] theorem State.setStack_fabric (s : State) (t : Nat) (x : Stack) : (s.setStack t x).fabric = s.fabric := (rfl)
@[simp] theorem State.setStack_queues (s : State) (t : Nat) (x : Stack) : (s.setStack t x).queues = s.queues := (rfl)
@[simp] theorem State.setStack_reserves (s : State) (t : Nat) (x : Stack) : (s.setStack t x).reserves = s.reserves := (rfl)
@[simp] theorem State.setStack_switchbacks (s : State) (t : Nat) (x : Stack) : (s.setStack t x).switchbacks = s.switchbacks := (rfl)
@[simp] theorem State.setStack_traverses (s : State) (t : Nat) (x : Stack) : (s.setStack t x).traverses = s.traverses := (rfl)
@[simp] theorem State.setStack_host (s : State) (t : Nat) (x : Stack) : (s.setStack t x).host = s.host := (rfl)
@[simp] theorem State.setStack_fences (s : State) (t : Nat) (x : Stack) : (s.setStack t x).fences = s.fences := (rfl)
@[simp] theorem State.setStack_sec (s : State) (t : Nat) (x : Stack) : (s.setStack t x).sec = s.sec := (rfl)
@[simp] theorem State.setStack_err (s : State) (t : Nat) (x : Stack) : (s.setStack t x).err = s.err := (rfl)
@[simp] theorem State.setStack_selftest (s : State) (t : Nat) (x : Stack) : (s.setStack t x).selftest = s.selftest := (rfl)
@[simp] theorem State.setStack_low (s : State) (t : Nat) (x : Stack) : (s.setStack t x).low = s.low := (rfl)
@[simp] theorem State.setStack_power (s : State) (t : Nat) (x : Stack) : (s.setStack t x).power = s.power := (rfl)
@[simp] theorem State.setStack_pins (s : State) (t : Nat) (x : Stack) : (s.setStack t x).pins = s.pins := (rfl)
@[simp] theorem State.setStack_reg (s : State) (t : Nat) (x : Stack) (y : Reg) (e j : Nat) : (s.setStack t x).reg y e j = s.reg y e j := (rfl)
@[simp] theorem State.setStack_getF (s : State) (t : Nat) (x : Stack) (y : Fld) (e j : Nat) : (s.setStack t x).getF y e j = s.getF y e j := (rfl)
@[simp] theorem State.setStack_flag (s : State) (t : Nat) (x : Stack) (y : Fld) (e j : Nat) : (s.setStack t x).flag y e j = s.flag y e j := (rfl)
@[simp] theorem State.setStack_core (s : State) (t : Nat) (x : Stack) (z : Nat) : (s.setStack t x).core z = s.core z := (rfl)
@[simp] theorem State.setStack_byte (s : State) (t : Nat) (x : Stack) (z : Nat) : (s.setStack t x).byte z = s.byte z := (rfl)

/-! ### setShell -/

@[simp] theorem State.setShell_pending (s : State) (k : Nat) (x : Shell) : (s.setShell k x).pending = s.pending := (rfl)
@[simp] theorem State.setShell_time (s : State) (k : Nat) (x : Shell) : (s.setShell k x).time = s.time := (rfl)
@[simp] theorem State.setShell_free (s : State) (k : Nat) (x : Shell) : (s.setShell k x).free = s.free := (rfl)
@[simp] theorem State.setShell_out (s : State) (k : Nat) (x : Shell) : (s.setShell k x).out = s.out := (rfl)
@[simp] theorem State.setShell_regs (s : State) (k : Nat) (x : Shell) : (s.setShell k x).regs = s.regs := (rfl)
@[simp] theorem State.setShell_mem (s : State) (k : Nat) (x : Shell) : (s.setShell k x).mem = s.mem := (rfl)
@[simp] theorem State.setShell_poison (s : State) (k : Nat) (x : Shell) : (s.setShell k x).poison = s.poison := (rfl)
@[simp] theorem State.setShell_cores (s : State) (k : Nat) (x : Shell) : (s.setShell k x).cores = s.cores := (rfl)
@[simp] theorem State.setShell_trackers (s : State) (k : Nat) (x : Shell) : (s.setShell k x).trackers = s.trackers := (rfl)
@[simp] theorem State.setShell_arrivals (s : State) (k : Nat) (x : Shell) : (s.setShell k x).arrivals = s.arrivals := (rfl)
@[simp] theorem State.setShell_talusCtl (s : State) (k : Nat) (x : Shell) : (s.setShell k x).talusCtl = s.talusCtl := (rfl)
@[simp] theorem State.setShell_shells (s : State) (k : Nat) (x : Shell) : (s.setShell k x).shells = kset Shell.zero s.shells k x := (rfl)
@[simp] theorem State.setShell_paths (s : State) (k : Nat) (x : Shell) : (s.setShell k x).paths = s.paths := (rfl)
@[simp] theorem State.setShell_saddles (s : State) (k : Nat) (x : Shell) : (s.setShell k x).saddles = s.saddles := (rfl)
@[simp] theorem State.setShell_cols (s : State) (k : Nat) (x : Shell) : (s.setShell k x).cols = s.cols := (rfl)
@[simp] theorem State.setShell_clock (s : State) (k : Nat) (x : Shell) : (s.setShell k x).clock = s.clock := (rfl)
@[simp] theorem State.setShell_contour (s : State) (k : Nat) (x : Shell) : (s.setShell k x).contour = s.contour := (rfl)
@[simp] theorem State.setShell_red (s : State) (k : Nat) (x : Shell) : (s.setShell k x).red = s.red := (rfl)
@[simp] theorem State.setShell_upd (s : State) (k : Nat) (x : Shell) : (s.setShell k x).upd = s.upd := (rfl)
@[simp] theorem State.setShell_cor (s : State) (k : Nat) (x : Shell) : (s.setShell k x).cor = s.cor := (rfl)
@[simp] theorem State.setShell_summit (s : State) (k : Nat) (x : Shell) : (s.setShell k x).summit = s.summit := (rfl)
@[simp] theorem State.setShell_fabric (s : State) (k : Nat) (x : Shell) : (s.setShell k x).fabric = s.fabric := (rfl)
@[simp] theorem State.setShell_queues (s : State) (k : Nat) (x : Shell) : (s.setShell k x).queues = s.queues := (rfl)
@[simp] theorem State.setShell_reserves (s : State) (k : Nat) (x : Shell) : (s.setShell k x).reserves = s.reserves := (rfl)
@[simp] theorem State.setShell_switchbacks (s : State) (k : Nat) (x : Shell) : (s.setShell k x).switchbacks = s.switchbacks := (rfl)
@[simp] theorem State.setShell_traverses (s : State) (k : Nat) (x : Shell) : (s.setShell k x).traverses = s.traverses := (rfl)
@[simp] theorem State.setShell_host (s : State) (k : Nat) (x : Shell) : (s.setShell k x).host = s.host := (rfl)
@[simp] theorem State.setShell_fences (s : State) (k : Nat) (x : Shell) : (s.setShell k x).fences = s.fences := (rfl)
@[simp] theorem State.setShell_sec (s : State) (k : Nat) (x : Shell) : (s.setShell k x).sec = s.sec := (rfl)
@[simp] theorem State.setShell_err (s : State) (k : Nat) (x : Shell) : (s.setShell k x).err = s.err := (rfl)
@[simp] theorem State.setShell_selftest (s : State) (k : Nat) (x : Shell) : (s.setShell k x).selftest = s.selftest := (rfl)
@[simp] theorem State.setShell_low (s : State) (k : Nat) (x : Shell) : (s.setShell k x).low = s.low := (rfl)
@[simp] theorem State.setShell_power (s : State) (k : Nat) (x : Shell) : (s.setShell k x).power = s.power := (rfl)
@[simp] theorem State.setShell_pins (s : State) (k : Nat) (x : Shell) : (s.setShell k x).pins = s.pins := (rfl)
@[simp] theorem State.setShell_reg (s : State) (k : Nat) (x : Shell) (y : Reg) (e j : Nat) : (s.setShell k x).reg y e j = s.reg y e j := (rfl)
@[simp] theorem State.setShell_getF (s : State) (k : Nat) (x : Shell) (y : Fld) (e j : Nat) : (s.setShell k x).getF y e j = s.getF y e j := (rfl)
@[simp] theorem State.setShell_flag (s : State) (k : Nat) (x : Shell) (y : Fld) (e j : Nat) : (s.setShell k x).flag y e j = s.flag y e j := (rfl)
@[simp] theorem State.setShell_core (s : State) (k : Nat) (x : Shell) (z : Nat) : (s.setShell k x).core z = s.core z := (rfl)
@[simp] theorem State.setShell_byte (s : State) (k : Nat) (x : Shell) (z : Nat) : (s.setShell k x).byte z = s.byte z := (rfl)

/-! ### emit -/

@[simp] theorem State.emit_pending (s : State) (k : MsgKind) (dst : Nat) (args : List Nat) (data : List Byte) : (s.emit k dst args data).pending = s.pending := (rfl)
@[simp] theorem State.emit_time (s : State) (k : MsgKind) (dst : Nat) (args : List Nat) (data : List Byte) : (s.emit k dst args data).time = s.time := (rfl)
@[simp] theorem State.emit_free (s : State) (k : MsgKind) (dst : Nat) (args : List Nat) (data : List Byte) : (s.emit k dst args data).free = s.free := (rfl)
@[simp] theorem State.emit_out (s : State) (k : MsgKind) (dst : Nat) (args : List Nat) (data : List Byte) : (s.emit k dst args data).out = s.out ++ [⟨k, dst, args, data⟩] := (rfl)
@[simp] theorem State.emit_regs (s : State) (k : MsgKind) (dst : Nat) (args : List Nat) (data : List Byte) : (s.emit k dst args data).regs = s.regs := (rfl)
@[simp] theorem State.emit_mem (s : State) (k : MsgKind) (dst : Nat) (args : List Nat) (data : List Byte) : (s.emit k dst args data).mem = s.mem := (rfl)
@[simp] theorem State.emit_poison (s : State) (k : MsgKind) (dst : Nat) (args : List Nat) (data : List Byte) : (s.emit k dst args data).poison = s.poison := (rfl)
@[simp] theorem State.emit_cores (s : State) (k : MsgKind) (dst : Nat) (args : List Nat) (data : List Byte) : (s.emit k dst args data).cores = s.cores := (rfl)
@[simp] theorem State.emit_trackers (s : State) (k : MsgKind) (dst : Nat) (args : List Nat) (data : List Byte) : (s.emit k dst args data).trackers = s.trackers := (rfl)
@[simp] theorem State.emit_arrivals (s : State) (k : MsgKind) (dst : Nat) (args : List Nat) (data : List Byte) : (s.emit k dst args data).arrivals = s.arrivals := (rfl)
@[simp] theorem State.emit_talusCtl (s : State) (k : MsgKind) (dst : Nat) (args : List Nat) (data : List Byte) : (s.emit k dst args data).talusCtl = s.talusCtl := (rfl)
@[simp] theorem State.emit_shells (s : State) (k : MsgKind) (dst : Nat) (args : List Nat) (data : List Byte) : (s.emit k dst args data).shells = s.shells := (rfl)
@[simp] theorem State.emit_paths (s : State) (k : MsgKind) (dst : Nat) (args : List Nat) (data : List Byte) : (s.emit k dst args data).paths = s.paths := (rfl)
@[simp] theorem State.emit_saddles (s : State) (k : MsgKind) (dst : Nat) (args : List Nat) (data : List Byte) : (s.emit k dst args data).saddles = s.saddles := (rfl)
@[simp] theorem State.emit_cols (s : State) (k : MsgKind) (dst : Nat) (args : List Nat) (data : List Byte) : (s.emit k dst args data).cols = s.cols := (rfl)
@[simp] theorem State.emit_clock (s : State) (k : MsgKind) (dst : Nat) (args : List Nat) (data : List Byte) : (s.emit k dst args data).clock = s.clock := (rfl)
@[simp] theorem State.emit_contour (s : State) (k : MsgKind) (dst : Nat) (args : List Nat) (data : List Byte) : (s.emit k dst args data).contour = s.contour := (rfl)
@[simp] theorem State.emit_red (s : State) (k : MsgKind) (dst : Nat) (args : List Nat) (data : List Byte) : (s.emit k dst args data).red = s.red := (rfl)
@[simp] theorem State.emit_upd (s : State) (k : MsgKind) (dst : Nat) (args : List Nat) (data : List Byte) : (s.emit k dst args data).upd = s.upd := (rfl)
@[simp] theorem State.emit_cor (s : State) (k : MsgKind) (dst : Nat) (args : List Nat) (data : List Byte) : (s.emit k dst args data).cor = s.cor := (rfl)
@[simp] theorem State.emit_summit (s : State) (k : MsgKind) (dst : Nat) (args : List Nat) (data : List Byte) : (s.emit k dst args data).summit = s.summit := (rfl)
@[simp] theorem State.emit_fabric (s : State) (k : MsgKind) (dst : Nat) (args : List Nat) (data : List Byte) : (s.emit k dst args data).fabric = s.fabric := (rfl)
@[simp] theorem State.emit_queues (s : State) (k : MsgKind) (dst : Nat) (args : List Nat) (data : List Byte) : (s.emit k dst args data).queues = s.queues := (rfl)
@[simp] theorem State.emit_reserves (s : State) (k : MsgKind) (dst : Nat) (args : List Nat) (data : List Byte) : (s.emit k dst args data).reserves = s.reserves := (rfl)
@[simp] theorem State.emit_switchbacks (s : State) (k : MsgKind) (dst : Nat) (args : List Nat) (data : List Byte) : (s.emit k dst args data).switchbacks = s.switchbacks := (rfl)
@[simp] theorem State.emit_traverses (s : State) (k : MsgKind) (dst : Nat) (args : List Nat) (data : List Byte) : (s.emit k dst args data).traverses = s.traverses := (rfl)
@[simp] theorem State.emit_host (s : State) (k : MsgKind) (dst : Nat) (args : List Nat) (data : List Byte) : (s.emit k dst args data).host = s.host := (rfl)
@[simp] theorem State.emit_fences (s : State) (k : MsgKind) (dst : Nat) (args : List Nat) (data : List Byte) : (s.emit k dst args data).fences = s.fences := (rfl)
@[simp] theorem State.emit_sec (s : State) (k : MsgKind) (dst : Nat) (args : List Nat) (data : List Byte) : (s.emit k dst args data).sec = s.sec := (rfl)
@[simp] theorem State.emit_err (s : State) (k : MsgKind) (dst : Nat) (args : List Nat) (data : List Byte) : (s.emit k dst args data).err = s.err := (rfl)
@[simp] theorem State.emit_selftest (s : State) (k : MsgKind) (dst : Nat) (args : List Nat) (data : List Byte) : (s.emit k dst args data).selftest = s.selftest := (rfl)
@[simp] theorem State.emit_low (s : State) (k : MsgKind) (dst : Nat) (args : List Nat) (data : List Byte) : (s.emit k dst args data).low = s.low := (rfl)
@[simp] theorem State.emit_power (s : State) (k : MsgKind) (dst : Nat) (args : List Nat) (data : List Byte) : (s.emit k dst args data).power = s.power := (rfl)
@[simp] theorem State.emit_pins (s : State) (k : MsgKind) (dst : Nat) (args : List Nat) (data : List Byte) : (s.emit k dst args data).pins = s.pins := (rfl)
@[simp] theorem State.emit_reg (s : State) (k : MsgKind) (dst : Nat) (args : List Nat) (data : List Byte) (y : Reg) (e j : Nat) : (s.emit k dst args data).reg y e j = s.reg y e j := (rfl)
@[simp] theorem State.emit_getF (s : State) (k : MsgKind) (dst : Nat) (args : List Nat) (data : List Byte) (y : Fld) (e j : Nat) : (s.emit k dst args data).getF y e j = s.getF y e j := (rfl)
@[simp] theorem State.emit_flag (s : State) (k : MsgKind) (dst : Nat) (args : List Nat) (data : List Byte) (y : Fld) (e j : Nat) : (s.emit k dst args data).flag y e j = s.flag y e j := (rfl)
@[simp] theorem State.emit_core (s : State) (k : MsgKind) (dst : Nat) (args : List Nat) (data : List Byte) (z : Nat) : (s.emit k dst args data).core z = s.core z := (rfl)
@[simp] theorem State.emit_byte (s : State) (k : MsgKind) (dst : Nat) (args : List Nat) (data : List Byte) (z : Nat) : (s.emit k dst args data).byte z = s.byte z := (rfl)

/-! ### sends -/

@[simp] theorem State.sends_pending (s : State) (l : List Msg) : (s.sends l).pending = s.pending := (rfl)
@[simp] theorem State.sends_time (s : State) (l : List Msg) : (s.sends l).time = s.time := (rfl)
@[simp] theorem State.sends_free (s : State) (l : List Msg) : (s.sends l).free = s.free := (rfl)
@[simp] theorem State.sends_out (s : State) (l : List Msg) : (s.sends l).out = s.out ++ l := (rfl)
@[simp] theorem State.sends_regs (s : State) (l : List Msg) : (s.sends l).regs = s.regs := (rfl)
@[simp] theorem State.sends_mem (s : State) (l : List Msg) : (s.sends l).mem = s.mem := (rfl)
@[simp] theorem State.sends_poison (s : State) (l : List Msg) : (s.sends l).poison = s.poison := (rfl)
@[simp] theorem State.sends_cores (s : State) (l : List Msg) : (s.sends l).cores = s.cores := (rfl)
@[simp] theorem State.sends_trackers (s : State) (l : List Msg) : (s.sends l).trackers = s.trackers := (rfl)
@[simp] theorem State.sends_arrivals (s : State) (l : List Msg) : (s.sends l).arrivals = s.arrivals := (rfl)
@[simp] theorem State.sends_talusCtl (s : State) (l : List Msg) : (s.sends l).talusCtl = s.talusCtl := (rfl)
@[simp] theorem State.sends_shells (s : State) (l : List Msg) : (s.sends l).shells = s.shells := (rfl)
@[simp] theorem State.sends_paths (s : State) (l : List Msg) : (s.sends l).paths = s.paths := (rfl)
@[simp] theorem State.sends_saddles (s : State) (l : List Msg) : (s.sends l).saddles = s.saddles := (rfl)
@[simp] theorem State.sends_cols (s : State) (l : List Msg) : (s.sends l).cols = s.cols := (rfl)
@[simp] theorem State.sends_clock (s : State) (l : List Msg) : (s.sends l).clock = s.clock := (rfl)
@[simp] theorem State.sends_contour (s : State) (l : List Msg) : (s.sends l).contour = s.contour := (rfl)
@[simp] theorem State.sends_red (s : State) (l : List Msg) : (s.sends l).red = s.red := (rfl)
@[simp] theorem State.sends_upd (s : State) (l : List Msg) : (s.sends l).upd = s.upd := (rfl)
@[simp] theorem State.sends_cor (s : State) (l : List Msg) : (s.sends l).cor = s.cor := (rfl)
@[simp] theorem State.sends_summit (s : State) (l : List Msg) : (s.sends l).summit = s.summit := (rfl)
@[simp] theorem State.sends_fabric (s : State) (l : List Msg) : (s.sends l).fabric = s.fabric := (rfl)
@[simp] theorem State.sends_queues (s : State) (l : List Msg) : (s.sends l).queues = s.queues := (rfl)
@[simp] theorem State.sends_reserves (s : State) (l : List Msg) : (s.sends l).reserves = s.reserves := (rfl)
@[simp] theorem State.sends_switchbacks (s : State) (l : List Msg) : (s.sends l).switchbacks = s.switchbacks := (rfl)
@[simp] theorem State.sends_traverses (s : State) (l : List Msg) : (s.sends l).traverses = s.traverses := (rfl)
@[simp] theorem State.sends_host (s : State) (l : List Msg) : (s.sends l).host = s.host := (rfl)
@[simp] theorem State.sends_fences (s : State) (l : List Msg) : (s.sends l).fences = s.fences := (rfl)
@[simp] theorem State.sends_sec (s : State) (l : List Msg) : (s.sends l).sec = s.sec := (rfl)
@[simp] theorem State.sends_err (s : State) (l : List Msg) : (s.sends l).err = s.err := (rfl)
@[simp] theorem State.sends_selftest (s : State) (l : List Msg) : (s.sends l).selftest = s.selftest := (rfl)
@[simp] theorem State.sends_low (s : State) (l : List Msg) : (s.sends l).low = s.low := (rfl)
@[simp] theorem State.sends_power (s : State) (l : List Msg) : (s.sends l).power = s.power := (rfl)
@[simp] theorem State.sends_pins (s : State) (l : List Msg) : (s.sends l).pins = s.pins := (rfl)
@[simp] theorem State.sends_reg (s : State) (l : List Msg) (y : Reg) (e j : Nat) : (s.sends l).reg y e j = s.reg y e j := (rfl)
@[simp] theorem State.sends_getF (s : State) (l : List Msg) (y : Fld) (e j : Nat) : (s.sends l).getF y e j = s.getF y e j := (rfl)
@[simp] theorem State.sends_flag (s : State) (l : List Msg) (y : Fld) (e j : Nat) : (s.sends l).flag y e j = s.flag y e j := (rfl)
@[simp] theorem State.sends_core (s : State) (l : List Msg) (z : Nat) : (s.sends l).core z = s.core z := (rfl)
@[simp] theorem State.sends_byte (s : State) (l : List Msg) (z : Nat) : (s.sends l).byte z = s.byte z := (rfl)

/-! ### setByte -/

@[simp] theorem State.setByte_pending (s : State) (a : Nat) (b : Byte) : (s.setByte a b).pending = s.pending := (rfl)
@[simp] theorem State.setByte_time (s : State) (a : Nat) (b : Byte) : (s.setByte a b).time = s.time := (rfl)
@[simp] theorem State.setByte_free (s : State) (a : Nat) (b : Byte) : (s.setByte a b).free = s.free := (rfl)
@[simp] theorem State.setByte_out (s : State) (a : Nat) (b : Byte) : (s.setByte a b).out = s.out := (rfl)
@[simp] theorem State.setByte_regs (s : State) (a : Nat) (b : Byte) : (s.setByte a b).regs = s.regs := (rfl)
@[simp] theorem State.setByte_mem (s : State) (a : Nat) (b : Byte) : (s.setByte a b).mem = kset 0 s.mem (memKey a) b := (rfl)
@[simp] theorem State.setByte_poison (s : State) (a : Nat) (b : Byte) : (s.setByte a b).poison = s.poison := (rfl)
@[simp] theorem State.setByte_cores (s : State) (a : Nat) (b : Byte) : (s.setByte a b).cores = s.cores := (rfl)
@[simp] theorem State.setByte_trackers (s : State) (a : Nat) (b : Byte) : (s.setByte a b).trackers = s.trackers := (rfl)
@[simp] theorem State.setByte_arrivals (s : State) (a : Nat) (b : Byte) : (s.setByte a b).arrivals = s.arrivals := (rfl)
@[simp] theorem State.setByte_talusCtl (s : State) (a : Nat) (b : Byte) : (s.setByte a b).talusCtl = s.talusCtl := (rfl)
@[simp] theorem State.setByte_shells (s : State) (a : Nat) (b : Byte) : (s.setByte a b).shells = s.shells := (rfl)
@[simp] theorem State.setByte_paths (s : State) (a : Nat) (b : Byte) : (s.setByte a b).paths = s.paths := (rfl)
@[simp] theorem State.setByte_saddles (s : State) (a : Nat) (b : Byte) : (s.setByte a b).saddles = s.saddles := (rfl)
@[simp] theorem State.setByte_cols (s : State) (a : Nat) (b : Byte) : (s.setByte a b).cols = s.cols := (rfl)
@[simp] theorem State.setByte_clock (s : State) (a : Nat) (b : Byte) : (s.setByte a b).clock = s.clock := (rfl)
@[simp] theorem State.setByte_contour (s : State) (a : Nat) (b : Byte) : (s.setByte a b).contour = s.contour := (rfl)
@[simp] theorem State.setByte_red (s : State) (a : Nat) (b : Byte) : (s.setByte a b).red = s.red := (rfl)
@[simp] theorem State.setByte_upd (s : State) (a : Nat) (b : Byte) : (s.setByte a b).upd = s.upd := (rfl)
@[simp] theorem State.setByte_cor (s : State) (a : Nat) (b : Byte) : (s.setByte a b).cor = s.cor := (rfl)
@[simp] theorem State.setByte_summit (s : State) (a : Nat) (b : Byte) : (s.setByte a b).summit = s.summit := (rfl)
@[simp] theorem State.setByte_fabric (s : State) (a : Nat) (b : Byte) : (s.setByte a b).fabric = s.fabric := (rfl)
@[simp] theorem State.setByte_queues (s : State) (a : Nat) (b : Byte) : (s.setByte a b).queues = s.queues := (rfl)
@[simp] theorem State.setByte_reserves (s : State) (a : Nat) (b : Byte) : (s.setByte a b).reserves = s.reserves := (rfl)
@[simp] theorem State.setByte_switchbacks (s : State) (a : Nat) (b : Byte) : (s.setByte a b).switchbacks = s.switchbacks := (rfl)
@[simp] theorem State.setByte_traverses (s : State) (a : Nat) (b : Byte) : (s.setByte a b).traverses = s.traverses := (rfl)
@[simp] theorem State.setByte_host (s : State) (a : Nat) (b : Byte) : (s.setByte a b).host = s.host := (rfl)
@[simp] theorem State.setByte_fences (s : State) (a : Nat) (b : Byte) : (s.setByte a b).fences = s.fences := (rfl)
@[simp] theorem State.setByte_sec (s : State) (a : Nat) (b : Byte) : (s.setByte a b).sec = s.sec := (rfl)
@[simp] theorem State.setByte_err (s : State) (a : Nat) (b : Byte) : (s.setByte a b).err = s.err := (rfl)
@[simp] theorem State.setByte_selftest (s : State) (a : Nat) (b : Byte) : (s.setByte a b).selftest = s.selftest := (rfl)
@[simp] theorem State.setByte_low (s : State) (a : Nat) (b : Byte) : (s.setByte a b).low = s.low := (rfl)
@[simp] theorem State.setByte_power (s : State) (a : Nat) (b : Byte) : (s.setByte a b).power = s.power := (rfl)
@[simp] theorem State.setByte_pins (s : State) (a : Nat) (b : Byte) : (s.setByte a b).pins = s.pins := (rfl)
@[simp] theorem State.setByte_reg (s : State) (a : Nat) (b : Byte) (y : Reg) (e j : Nat) : (s.setByte a b).reg y e j = s.reg y e j := (rfl)
@[simp] theorem State.setByte_getF (s : State) (a : Nat) (b : Byte) (y : Fld) (e j : Nat) : (s.setByte a b).getF y e j = s.getF y e j := (rfl)
@[simp] theorem State.setByte_flag (s : State) (a : Nat) (b : Byte) (y : Fld) (e j : Nat) : (s.setByte a b).flag y e j = s.flag y e j := (rfl)
@[simp] theorem State.setByte_core (s : State) (a : Nat) (b : Byte) (z : Nat) : (s.setByte a b).core z = s.core z := (rfl)

/-! ### raise -/

@[simp] theorem State.raise_pending (s : State) (cls kind die unit status a0 a1 a2 : Nat) : (s.raise cls kind die unit status a0 a1 a2).pending = s.pending := (rfl)
@[simp] theorem State.raise_time (s : State) (cls kind die unit status a0 a1 a2 : Nat) : (s.raise cls kind die unit status a0 a1 a2).time = s.time := (rfl)
@[simp] theorem State.raise_free (s : State) (cls kind die unit status a0 a1 a2 : Nat) : (s.raise cls kind die unit status a0 a1 a2).free = s.free := (rfl)
@[simp] theorem State.raise_out (s : State) (cls kind die unit status a0 a1 a2 : Nat) : (s.raise cls kind die unit status a0 a1 a2).out = s.out := (rfl)
@[simp] theorem State.raise_regs (s : State) (cls kind die unit status a0 a1 a2 : Nat) : (s.raise cls kind die unit status a0 a1 a2).regs = s.regs := (rfl)
@[simp] theorem State.raise_mem (s : State) (cls kind die unit status a0 a1 a2 : Nat) : (s.raise cls kind die unit status a0 a1 a2).mem = s.mem := (rfl)
@[simp] theorem State.raise_poison (s : State) (cls kind die unit status a0 a1 a2 : Nat) : (s.raise cls kind die unit status a0 a1 a2).poison = s.poison := (rfl)
@[simp] theorem State.raise_cores (s : State) (cls kind die unit status a0 a1 a2 : Nat) : (s.raise cls kind die unit status a0 a1 a2).cores = s.cores := (rfl)
@[simp] theorem State.raise_trackers (s : State) (cls kind die unit status a0 a1 a2 : Nat) : (s.raise cls kind die unit status a0 a1 a2).trackers = s.trackers := (rfl)
@[simp] theorem State.raise_arrivals (s : State) (cls kind die unit status a0 a1 a2 : Nat) : (s.raise cls kind die unit status a0 a1 a2).arrivals = s.arrivals := (rfl)
@[simp] theorem State.raise_talusCtl (s : State) (cls kind die unit status a0 a1 a2 : Nat) : (s.raise cls kind die unit status a0 a1 a2).talusCtl = s.talusCtl := (rfl)
@[simp] theorem State.raise_shells (s : State) (cls kind die unit status a0 a1 a2 : Nat) : (s.raise cls kind die unit status a0 a1 a2).shells = s.shells := (rfl)
@[simp] theorem State.raise_paths (s : State) (cls kind die unit status a0 a1 a2 : Nat) : (s.raise cls kind die unit status a0 a1 a2).paths = s.paths := (rfl)
@[simp] theorem State.raise_saddles (s : State) (cls kind die unit status a0 a1 a2 : Nat) : (s.raise cls kind die unit status a0 a1 a2).saddles = s.saddles := (rfl)
@[simp] theorem State.raise_cols (s : State) (cls kind die unit status a0 a1 a2 : Nat) : (s.raise cls kind die unit status a0 a1 a2).cols = s.cols := (rfl)
@[simp] theorem State.raise_clock (s : State) (cls kind die unit status a0 a1 a2 : Nat) : (s.raise cls kind die unit status a0 a1 a2).clock = s.clock := (rfl)
@[simp] theorem State.raise_contour (s : State) (cls kind die unit status a0 a1 a2 : Nat) : (s.raise cls kind die unit status a0 a1 a2).contour = s.contour := (rfl)
@[simp] theorem State.raise_red (s : State) (cls kind die unit status a0 a1 a2 : Nat) : (s.raise cls kind die unit status a0 a1 a2).red = s.red := (rfl)
@[simp] theorem State.raise_upd (s : State) (cls kind die unit status a0 a1 a2 : Nat) : (s.raise cls kind die unit status a0 a1 a2).upd = s.upd := (rfl)
@[simp] theorem State.raise_cor (s : State) (cls kind die unit status a0 a1 a2 : Nat) : (s.raise cls kind die unit status a0 a1 a2).cor = s.cor := (rfl)
@[simp] theorem State.raise_summit (s : State) (cls kind die unit status a0 a1 a2 : Nat) : (s.raise cls kind die unit status a0 a1 a2).summit = s.summit := (rfl)
@[simp] theorem State.raise_fabric (s : State) (cls kind die unit status a0 a1 a2 : Nat) : (s.raise cls kind die unit status a0 a1 a2).fabric = s.fabric := (rfl)
@[simp] theorem State.raise_queues (s : State) (cls kind die unit status a0 a1 a2 : Nat) : (s.raise cls kind die unit status a0 a1 a2).queues = s.queues := (rfl)
@[simp] theorem State.raise_reserves (s : State) (cls kind die unit status a0 a1 a2 : Nat) : (s.raise cls kind die unit status a0 a1 a2).reserves = s.reserves := (rfl)
@[simp] theorem State.raise_switchbacks (s : State) (cls kind die unit status a0 a1 a2 : Nat) : (s.raise cls kind die unit status a0 a1 a2).switchbacks = s.switchbacks := (rfl)
@[simp] theorem State.raise_traverses (s : State) (cls kind die unit status a0 a1 a2 : Nat) : (s.raise cls kind die unit status a0 a1 a2).traverses = s.traverses := (rfl)
@[simp] theorem State.raise_host (s : State) (cls kind die unit status a0 a1 a2 : Nat) : (s.raise cls kind die unit status a0 a1 a2).host = s.host := (rfl)
@[simp] theorem State.raise_fences (s : State) (cls kind die unit status a0 a1 a2 : Nat) : (s.raise cls kind die unit status a0 a1 a2).fences = s.fences := (rfl)
@[simp] theorem State.raise_sec (s : State) (cls kind die unit status a0 a1 a2 : Nat) : (s.raise cls kind die unit status a0 a1 a2).sec = s.sec := (rfl)
@[simp] theorem State.raise_selftest (s : State) (cls kind die unit status a0 a1 a2 : Nat) : (s.raise cls kind die unit status a0 a1 a2).selftest = s.selftest := (rfl)
@[simp] theorem State.raise_low (s : State) (cls kind die unit status a0 a1 a2 : Nat) : (s.raise cls kind die unit status a0 a1 a2).low = s.low := (rfl)
@[simp] theorem State.raise_power (s : State) (cls kind die unit status a0 a1 a2 : Nat) : (s.raise cls kind die unit status a0 a1 a2).power = s.power := (rfl)
@[simp] theorem State.raise_pins (s : State) (cls kind die unit status a0 a1 a2 : Nat) : (s.raise cls kind die unit status a0 a1 a2).pins = s.pins := (rfl)
@[simp] theorem State.raise_reg (s : State) (cls kind die unit status a0 a1 a2 : Nat) (y : Reg) (e j : Nat) : (s.raise cls kind die unit status a0 a1 a2).reg y e j = s.reg y e j := (rfl)
@[simp] theorem State.raise_getF (s : State) (cls kind die unit status a0 a1 a2 : Nat) (y : Fld) (e j : Nat) : (s.raise cls kind die unit status a0 a1 a2).getF y e j = s.getF y e j := (rfl)
@[simp] theorem State.raise_flag (s : State) (cls kind die unit status a0 a1 a2 : Nat) (y : Fld) (e j : Nat) : (s.raise cls kind die unit status a0 a1 a2).flag y e j = s.flag y e j := (rfl)
@[simp] theorem State.raise_core (s : State) (cls kind die unit status a0 a1 a2 : Nat) (z : Nat) : (s.raise cls kind die unit status a0 a1 a2).core z = s.core z := (rfl)
@[simp] theorem State.raise_byte (s : State) (cls kind die unit status a0 a1 a2 : Nat) (z : Nat) : (s.raise cls kind die unit status a0 a1 a2).byte z = s.byte z := (rfl)

/-! ### setArrivals -/

@[simp] theorem State.setArrivals_pending (s : State) (l : List Waiting) : (s.setArrivals l).pending = s.pending := (rfl)
@[simp] theorem State.setArrivals_time (s : State) (l : List Waiting) : (s.setArrivals l).time = s.time := (rfl)
@[simp] theorem State.setArrivals_free (s : State) (l : List Waiting) : (s.setArrivals l).free = s.free := (rfl)
@[simp] theorem State.setArrivals_out (s : State) (l : List Waiting) : (s.setArrivals l).out = s.out := (rfl)
@[simp] theorem State.setArrivals_regs (s : State) (l : List Waiting) : (s.setArrivals l).regs = s.regs := (rfl)
@[simp] theorem State.setArrivals_mem (s : State) (l : List Waiting) : (s.setArrivals l).mem = s.mem := (rfl)
@[simp] theorem State.setArrivals_poison (s : State) (l : List Waiting) : (s.setArrivals l).poison = s.poison := (rfl)
@[simp] theorem State.setArrivals_cores (s : State) (l : List Waiting) : (s.setArrivals l).cores = s.cores := (rfl)
@[simp] theorem State.setArrivals_trackers (s : State) (l : List Waiting) : (s.setArrivals l).trackers = s.trackers := (rfl)
@[simp] theorem State.setArrivals_arrivals (s : State) (l : List Waiting) : (s.setArrivals l).arrivals = l := (rfl)
@[simp] theorem State.setArrivals_talusCtl (s : State) (l : List Waiting) : (s.setArrivals l).talusCtl = s.talusCtl := (rfl)
@[simp] theorem State.setArrivals_shells (s : State) (l : List Waiting) : (s.setArrivals l).shells = s.shells := (rfl)
@[simp] theorem State.setArrivals_paths (s : State) (l : List Waiting) : (s.setArrivals l).paths = s.paths := (rfl)
@[simp] theorem State.setArrivals_saddles (s : State) (l : List Waiting) : (s.setArrivals l).saddles = s.saddles := (rfl)
@[simp] theorem State.setArrivals_cols (s : State) (l : List Waiting) : (s.setArrivals l).cols = s.cols := (rfl)
@[simp] theorem State.setArrivals_clock (s : State) (l : List Waiting) : (s.setArrivals l).clock = s.clock := (rfl)
@[simp] theorem State.setArrivals_contour (s : State) (l : List Waiting) : (s.setArrivals l).contour = s.contour := (rfl)
@[simp] theorem State.setArrivals_red (s : State) (l : List Waiting) : (s.setArrivals l).red = s.red := (rfl)
@[simp] theorem State.setArrivals_upd (s : State) (l : List Waiting) : (s.setArrivals l).upd = s.upd := (rfl)
@[simp] theorem State.setArrivals_cor (s : State) (l : List Waiting) : (s.setArrivals l).cor = s.cor := (rfl)
@[simp] theorem State.setArrivals_summit (s : State) (l : List Waiting) : (s.setArrivals l).summit = s.summit := (rfl)
@[simp] theorem State.setArrivals_fabric (s : State) (l : List Waiting) : (s.setArrivals l).fabric = s.fabric := (rfl)
@[simp] theorem State.setArrivals_queues (s : State) (l : List Waiting) : (s.setArrivals l).queues = s.queues := (rfl)
@[simp] theorem State.setArrivals_reserves (s : State) (l : List Waiting) : (s.setArrivals l).reserves = s.reserves := (rfl)
@[simp] theorem State.setArrivals_switchbacks (s : State) (l : List Waiting) : (s.setArrivals l).switchbacks = s.switchbacks := (rfl)
@[simp] theorem State.setArrivals_traverses (s : State) (l : List Waiting) : (s.setArrivals l).traverses = s.traverses := (rfl)
@[simp] theorem State.setArrivals_host (s : State) (l : List Waiting) : (s.setArrivals l).host = s.host := (rfl)
@[simp] theorem State.setArrivals_fences (s : State) (l : List Waiting) : (s.setArrivals l).fences = s.fences := (rfl)
@[simp] theorem State.setArrivals_sec (s : State) (l : List Waiting) : (s.setArrivals l).sec = s.sec := (rfl)
@[simp] theorem State.setArrivals_err (s : State) (l : List Waiting) : (s.setArrivals l).err = s.err := (rfl)
@[simp] theorem State.setArrivals_selftest (s : State) (l : List Waiting) : (s.setArrivals l).selftest = s.selftest := (rfl)
@[simp] theorem State.setArrivals_low (s : State) (l : List Waiting) : (s.setArrivals l).low = s.low := (rfl)
@[simp] theorem State.setArrivals_power (s : State) (l : List Waiting) : (s.setArrivals l).power = s.power := (rfl)
@[simp] theorem State.setArrivals_pins (s : State) (l : List Waiting) : (s.setArrivals l).pins = s.pins := (rfl)
@[simp] theorem State.setArrivals_reg (s : State) (l : List Waiting) (y : Reg) (e j : Nat) : (s.setArrivals l).reg y e j = s.reg y e j := (rfl)
@[simp] theorem State.setArrivals_getF (s : State) (l : List Waiting) (y : Fld) (e j : Nat) : (s.setArrivals l).getF y e j = s.getF y e j := (rfl)
@[simp] theorem State.setArrivals_flag (s : State) (l : List Waiting) (y : Fld) (e j : Nat) : (s.setArrivals l).flag y e j = s.flag y e j := (rfl)
@[simp] theorem State.setArrivals_core (s : State) (l : List Waiting) (z : Nat) : (s.setArrivals l).core z = s.core z := (rfl)
@[simp] theorem State.setArrivals_byte (s : State) (l : List Waiting) (z : Nat) : (s.setArrivals l).byte z = s.byte z := (rfl)

/-! ### setCor -/

@[simp] theorem State.setCor_pending (s : State) (f : Cornice → Cornice) : (s.setCor f).pending = s.pending := (rfl)
@[simp] theorem State.setCor_time (s : State) (f : Cornice → Cornice) : (s.setCor f).time = s.time := (rfl)
@[simp] theorem State.setCor_free (s : State) (f : Cornice → Cornice) : (s.setCor f).free = s.free := (rfl)
@[simp] theorem State.setCor_out (s : State) (f : Cornice → Cornice) : (s.setCor f).out = s.out := (rfl)
@[simp] theorem State.setCor_regs (s : State) (f : Cornice → Cornice) : (s.setCor f).regs = s.regs := (rfl)
@[simp] theorem State.setCor_mem (s : State) (f : Cornice → Cornice) : (s.setCor f).mem = s.mem := (rfl)
@[simp] theorem State.setCor_poison (s : State) (f : Cornice → Cornice) : (s.setCor f).poison = s.poison := (rfl)
@[simp] theorem State.setCor_cores (s : State) (f : Cornice → Cornice) : (s.setCor f).cores = s.cores := (rfl)
@[simp] theorem State.setCor_trackers (s : State) (f : Cornice → Cornice) : (s.setCor f).trackers = s.trackers := (rfl)
@[simp] theorem State.setCor_arrivals (s : State) (f : Cornice → Cornice) : (s.setCor f).arrivals = s.arrivals := (rfl)
@[simp] theorem State.setCor_talusCtl (s : State) (f : Cornice → Cornice) : (s.setCor f).talusCtl = s.talusCtl := (rfl)
@[simp] theorem State.setCor_shells (s : State) (f : Cornice → Cornice) : (s.setCor f).shells = s.shells := (rfl)
@[simp] theorem State.setCor_paths (s : State) (f : Cornice → Cornice) : (s.setCor f).paths = s.paths := (rfl)
@[simp] theorem State.setCor_saddles (s : State) (f : Cornice → Cornice) : (s.setCor f).saddles = s.saddles := (rfl)
@[simp] theorem State.setCor_cols (s : State) (f : Cornice → Cornice) : (s.setCor f).cols = s.cols := (rfl)
@[simp] theorem State.setCor_clock (s : State) (f : Cornice → Cornice) : (s.setCor f).clock = s.clock := (rfl)
@[simp] theorem State.setCor_contour (s : State) (f : Cornice → Cornice) : (s.setCor f).contour = s.contour := (rfl)
@[simp] theorem State.setCor_red (s : State) (f : Cornice → Cornice) : (s.setCor f).red = s.red := (rfl)
@[simp] theorem State.setCor_upd (s : State) (f : Cornice → Cornice) : (s.setCor f).upd = s.upd := (rfl)
@[simp] theorem State.setCor_cor (s : State) (f : Cornice → Cornice) : (s.setCor f).cor = f s.cor := (rfl)
@[simp] theorem State.setCor_summit (s : State) (f : Cornice → Cornice) : (s.setCor f).summit = s.summit := (rfl)
@[simp] theorem State.setCor_fabric (s : State) (f : Cornice → Cornice) : (s.setCor f).fabric = s.fabric := (rfl)
@[simp] theorem State.setCor_queues (s : State) (f : Cornice → Cornice) : (s.setCor f).queues = s.queues := (rfl)
@[simp] theorem State.setCor_reserves (s : State) (f : Cornice → Cornice) : (s.setCor f).reserves = s.reserves := (rfl)
@[simp] theorem State.setCor_switchbacks (s : State) (f : Cornice → Cornice) : (s.setCor f).switchbacks = s.switchbacks := (rfl)
@[simp] theorem State.setCor_traverses (s : State) (f : Cornice → Cornice) : (s.setCor f).traverses = s.traverses := (rfl)
@[simp] theorem State.setCor_host (s : State) (f : Cornice → Cornice) : (s.setCor f).host = s.host := (rfl)
@[simp] theorem State.setCor_fences (s : State) (f : Cornice → Cornice) : (s.setCor f).fences = s.fences := (rfl)
@[simp] theorem State.setCor_sec (s : State) (f : Cornice → Cornice) : (s.setCor f).sec = s.sec := (rfl)
@[simp] theorem State.setCor_err (s : State) (f : Cornice → Cornice) : (s.setCor f).err = s.err := (rfl)
@[simp] theorem State.setCor_selftest (s : State) (f : Cornice → Cornice) : (s.setCor f).selftest = s.selftest := (rfl)
@[simp] theorem State.setCor_low (s : State) (f : Cornice → Cornice) : (s.setCor f).low = s.low := (rfl)
@[simp] theorem State.setCor_power (s : State) (f : Cornice → Cornice) : (s.setCor f).power = s.power := (rfl)
@[simp] theorem State.setCor_pins (s : State) (f : Cornice → Cornice) : (s.setCor f).pins = s.pins := (rfl)
@[simp] theorem State.setCor_reg (s : State) (f : Cornice → Cornice) (y : Reg) (e j : Nat) : (s.setCor f).reg y e j = s.reg y e j := (rfl)
@[simp] theorem State.setCor_getF (s : State) (f : Cornice → Cornice) (y : Fld) (e j : Nat) : (s.setCor f).getF y e j = s.getF y e j := (rfl)
@[simp] theorem State.setCor_flag (s : State) (f : Cornice → Cornice) (y : Fld) (e j : Nat) : (s.setCor f).flag y e j = s.flag y e j := (rfl)
@[simp] theorem State.setCor_core (s : State) (f : Cornice → Cornice) (z : Nat) : (s.setCor f).core z = s.core z := (rfl)
@[simp] theorem State.setCor_byte (s : State) (f : Cornice → Cornice) (z : Nat) : (s.setCor f).byte z = s.byte z := (rfl)

/-! ### setErr -/

@[simp] theorem State.setErr_pending (s : State) (f : ErrUnit → ErrUnit) : (s.setErr f).pending = s.pending := (rfl)
@[simp] theorem State.setErr_time (s : State) (f : ErrUnit → ErrUnit) : (s.setErr f).time = s.time := (rfl)
@[simp] theorem State.setErr_free (s : State) (f : ErrUnit → ErrUnit) : (s.setErr f).free = s.free := (rfl)
@[simp] theorem State.setErr_out (s : State) (f : ErrUnit → ErrUnit) : (s.setErr f).out = s.out := (rfl)
@[simp] theorem State.setErr_regs (s : State) (f : ErrUnit → ErrUnit) : (s.setErr f).regs = s.regs := (rfl)
@[simp] theorem State.setErr_mem (s : State) (f : ErrUnit → ErrUnit) : (s.setErr f).mem = s.mem := (rfl)
@[simp] theorem State.setErr_poison (s : State) (f : ErrUnit → ErrUnit) : (s.setErr f).poison = s.poison := (rfl)
@[simp] theorem State.setErr_cores (s : State) (f : ErrUnit → ErrUnit) : (s.setErr f).cores = s.cores := (rfl)
@[simp] theorem State.setErr_trackers (s : State) (f : ErrUnit → ErrUnit) : (s.setErr f).trackers = s.trackers := (rfl)
@[simp] theorem State.setErr_arrivals (s : State) (f : ErrUnit → ErrUnit) : (s.setErr f).arrivals = s.arrivals := (rfl)
@[simp] theorem State.setErr_talusCtl (s : State) (f : ErrUnit → ErrUnit) : (s.setErr f).talusCtl = s.talusCtl := (rfl)
@[simp] theorem State.setErr_shells (s : State) (f : ErrUnit → ErrUnit) : (s.setErr f).shells = s.shells := (rfl)
@[simp] theorem State.setErr_paths (s : State) (f : ErrUnit → ErrUnit) : (s.setErr f).paths = s.paths := (rfl)
@[simp] theorem State.setErr_saddles (s : State) (f : ErrUnit → ErrUnit) : (s.setErr f).saddles = s.saddles := (rfl)
@[simp] theorem State.setErr_cols (s : State) (f : ErrUnit → ErrUnit) : (s.setErr f).cols = s.cols := (rfl)
@[simp] theorem State.setErr_clock (s : State) (f : ErrUnit → ErrUnit) : (s.setErr f).clock = s.clock := (rfl)
@[simp] theorem State.setErr_contour (s : State) (f : ErrUnit → ErrUnit) : (s.setErr f).contour = s.contour := (rfl)
@[simp] theorem State.setErr_red (s : State) (f : ErrUnit → ErrUnit) : (s.setErr f).red = s.red := (rfl)
@[simp] theorem State.setErr_upd (s : State) (f : ErrUnit → ErrUnit) : (s.setErr f).upd = s.upd := (rfl)
@[simp] theorem State.setErr_cor (s : State) (f : ErrUnit → ErrUnit) : (s.setErr f).cor = s.cor := (rfl)
@[simp] theorem State.setErr_summit (s : State) (f : ErrUnit → ErrUnit) : (s.setErr f).summit = s.summit := (rfl)
@[simp] theorem State.setErr_fabric (s : State) (f : ErrUnit → ErrUnit) : (s.setErr f).fabric = s.fabric := (rfl)
@[simp] theorem State.setErr_queues (s : State) (f : ErrUnit → ErrUnit) : (s.setErr f).queues = s.queues := (rfl)
@[simp] theorem State.setErr_reserves (s : State) (f : ErrUnit → ErrUnit) : (s.setErr f).reserves = s.reserves := (rfl)
@[simp] theorem State.setErr_switchbacks (s : State) (f : ErrUnit → ErrUnit) : (s.setErr f).switchbacks = s.switchbacks := (rfl)
@[simp] theorem State.setErr_traverses (s : State) (f : ErrUnit → ErrUnit) : (s.setErr f).traverses = s.traverses := (rfl)
@[simp] theorem State.setErr_host (s : State) (f : ErrUnit → ErrUnit) : (s.setErr f).host = s.host := (rfl)
@[simp] theorem State.setErr_fences (s : State) (f : ErrUnit → ErrUnit) : (s.setErr f).fences = s.fences := (rfl)
@[simp] theorem State.setErr_sec (s : State) (f : ErrUnit → ErrUnit) : (s.setErr f).sec = s.sec := (rfl)
@[simp] theorem State.setErr_err (s : State) (f : ErrUnit → ErrUnit) : (s.setErr f).err = f s.err := (rfl)
@[simp] theorem State.setErr_selftest (s : State) (f : ErrUnit → ErrUnit) : (s.setErr f).selftest = s.selftest := (rfl)
@[simp] theorem State.setErr_low (s : State) (f : ErrUnit → ErrUnit) : (s.setErr f).low = s.low := (rfl)
@[simp] theorem State.setErr_power (s : State) (f : ErrUnit → ErrUnit) : (s.setErr f).power = s.power := (rfl)
@[simp] theorem State.setErr_pins (s : State) (f : ErrUnit → ErrUnit) : (s.setErr f).pins = s.pins := (rfl)
@[simp] theorem State.setErr_reg (s : State) (f : ErrUnit → ErrUnit) (y : Reg) (e j : Nat) : (s.setErr f).reg y e j = s.reg y e j := (rfl)
@[simp] theorem State.setErr_getF (s : State) (f : ErrUnit → ErrUnit) (y : Fld) (e j : Nat) : (s.setErr f).getF y e j = s.getF y e j := (rfl)
@[simp] theorem State.setErr_flag (s : State) (f : ErrUnit → ErrUnit) (y : Fld) (e j : Nat) : (s.setErr f).flag y e j = s.flag y e j := (rfl)
@[simp] theorem State.setErr_core (s : State) (f : ErrUnit → ErrUnit) (z : Nat) : (s.setErr f).core z = s.core z := (rfl)
@[simp] theorem State.setErr_byte (s : State) (f : ErrUnit → ErrUnit) (z : Nat) : (s.setErr f).byte z = s.byte z := (rfl)

/-! ### setPins -/

@[simp] theorem State.setPins_pending (s : State) (f : Pins → Pins) : (s.setPins f).pending = s.pending := (rfl)
@[simp] theorem State.setPins_time (s : State) (f : Pins → Pins) : (s.setPins f).time = s.time := (rfl)
@[simp] theorem State.setPins_free (s : State) (f : Pins → Pins) : (s.setPins f).free = s.free := (rfl)
@[simp] theorem State.setPins_out (s : State) (f : Pins → Pins) : (s.setPins f).out = s.out := (rfl)
@[simp] theorem State.setPins_regs (s : State) (f : Pins → Pins) : (s.setPins f).regs = s.regs := (rfl)
@[simp] theorem State.setPins_mem (s : State) (f : Pins → Pins) : (s.setPins f).mem = s.mem := (rfl)
@[simp] theorem State.setPins_poison (s : State) (f : Pins → Pins) : (s.setPins f).poison = s.poison := (rfl)
@[simp] theorem State.setPins_cores (s : State) (f : Pins → Pins) : (s.setPins f).cores = s.cores := (rfl)
@[simp] theorem State.setPins_trackers (s : State) (f : Pins → Pins) : (s.setPins f).trackers = s.trackers := (rfl)
@[simp] theorem State.setPins_arrivals (s : State) (f : Pins → Pins) : (s.setPins f).arrivals = s.arrivals := (rfl)
@[simp] theorem State.setPins_talusCtl (s : State) (f : Pins → Pins) : (s.setPins f).talusCtl = s.talusCtl := (rfl)
@[simp] theorem State.setPins_shells (s : State) (f : Pins → Pins) : (s.setPins f).shells = s.shells := (rfl)
@[simp] theorem State.setPins_paths (s : State) (f : Pins → Pins) : (s.setPins f).paths = s.paths := (rfl)
@[simp] theorem State.setPins_saddles (s : State) (f : Pins → Pins) : (s.setPins f).saddles = s.saddles := (rfl)
@[simp] theorem State.setPins_cols (s : State) (f : Pins → Pins) : (s.setPins f).cols = s.cols := (rfl)
@[simp] theorem State.setPins_clock (s : State) (f : Pins → Pins) : (s.setPins f).clock = s.clock := (rfl)
@[simp] theorem State.setPins_contour (s : State) (f : Pins → Pins) : (s.setPins f).contour = s.contour := (rfl)
@[simp] theorem State.setPins_red (s : State) (f : Pins → Pins) : (s.setPins f).red = s.red := (rfl)
@[simp] theorem State.setPins_upd (s : State) (f : Pins → Pins) : (s.setPins f).upd = s.upd := (rfl)
@[simp] theorem State.setPins_cor (s : State) (f : Pins → Pins) : (s.setPins f).cor = s.cor := (rfl)
@[simp] theorem State.setPins_summit (s : State) (f : Pins → Pins) : (s.setPins f).summit = s.summit := (rfl)
@[simp] theorem State.setPins_fabric (s : State) (f : Pins → Pins) : (s.setPins f).fabric = s.fabric := (rfl)
@[simp] theorem State.setPins_queues (s : State) (f : Pins → Pins) : (s.setPins f).queues = s.queues := (rfl)
@[simp] theorem State.setPins_reserves (s : State) (f : Pins → Pins) : (s.setPins f).reserves = s.reserves := (rfl)
@[simp] theorem State.setPins_switchbacks (s : State) (f : Pins → Pins) : (s.setPins f).switchbacks = s.switchbacks := (rfl)
@[simp] theorem State.setPins_traverses (s : State) (f : Pins → Pins) : (s.setPins f).traverses = s.traverses := (rfl)
@[simp] theorem State.setPins_host (s : State) (f : Pins → Pins) : (s.setPins f).host = s.host := (rfl)
@[simp] theorem State.setPins_fences (s : State) (f : Pins → Pins) : (s.setPins f).fences = s.fences := (rfl)
@[simp] theorem State.setPins_sec (s : State) (f : Pins → Pins) : (s.setPins f).sec = s.sec := (rfl)
@[simp] theorem State.setPins_err (s : State) (f : Pins → Pins) : (s.setPins f).err = s.err := (rfl)
@[simp] theorem State.setPins_selftest (s : State) (f : Pins → Pins) : (s.setPins f).selftest = s.selftest := (rfl)
@[simp] theorem State.setPins_low (s : State) (f : Pins → Pins) : (s.setPins f).low = s.low := (rfl)
@[simp] theorem State.setPins_power (s : State) (f : Pins → Pins) : (s.setPins f).power = s.power := (rfl)
@[simp] theorem State.setPins_pins (s : State) (f : Pins → Pins) : (s.setPins f).pins = f s.pins := (rfl)
@[simp] theorem State.setPins_reg (s : State) (f : Pins → Pins) (y : Reg) (e j : Nat) : (s.setPins f).reg y e j = s.reg y e j := (rfl)
@[simp] theorem State.setPins_getF (s : State) (f : Pins → Pins) (y : Fld) (e j : Nat) : (s.setPins f).getF y e j = s.getF y e j := (rfl)
@[simp] theorem State.setPins_flag (s : State) (f : Pins → Pins) (y : Fld) (e j : Nat) : (s.setPins f).flag y e j = s.flag y e j := (rfl)
@[simp] theorem State.setPins_core (s : State) (f : Pins → Pins) (z : Nat) : (s.setPins f).core z = s.core z := (rfl)
@[simp] theorem State.setPins_byte (s : State) (f : Pins → Pins) (z : Nat) : (s.setPins f).byte z = s.byte z := (rfl)

/-! ### setPower -/

@[simp] theorem State.setPower_pending (s : State) (f : Power → Power) : (s.setPower f).pending = s.pending := (rfl)
@[simp] theorem State.setPower_time (s : State) (f : Power → Power) : (s.setPower f).time = s.time := (rfl)
@[simp] theorem State.setPower_free (s : State) (f : Power → Power) : (s.setPower f).free = s.free := (rfl)
@[simp] theorem State.setPower_out (s : State) (f : Power → Power) : (s.setPower f).out = s.out := (rfl)
@[simp] theorem State.setPower_regs (s : State) (f : Power → Power) : (s.setPower f).regs = s.regs := (rfl)
@[simp] theorem State.setPower_mem (s : State) (f : Power → Power) : (s.setPower f).mem = s.mem := (rfl)
@[simp] theorem State.setPower_poison (s : State) (f : Power → Power) : (s.setPower f).poison = s.poison := (rfl)
@[simp] theorem State.setPower_cores (s : State) (f : Power → Power) : (s.setPower f).cores = s.cores := (rfl)
@[simp] theorem State.setPower_trackers (s : State) (f : Power → Power) : (s.setPower f).trackers = s.trackers := (rfl)
@[simp] theorem State.setPower_arrivals (s : State) (f : Power → Power) : (s.setPower f).arrivals = s.arrivals := (rfl)
@[simp] theorem State.setPower_talusCtl (s : State) (f : Power → Power) : (s.setPower f).talusCtl = s.talusCtl := (rfl)
@[simp] theorem State.setPower_shells (s : State) (f : Power → Power) : (s.setPower f).shells = s.shells := (rfl)
@[simp] theorem State.setPower_paths (s : State) (f : Power → Power) : (s.setPower f).paths = s.paths := (rfl)
@[simp] theorem State.setPower_saddles (s : State) (f : Power → Power) : (s.setPower f).saddles = s.saddles := (rfl)
@[simp] theorem State.setPower_cols (s : State) (f : Power → Power) : (s.setPower f).cols = s.cols := (rfl)
@[simp] theorem State.setPower_clock (s : State) (f : Power → Power) : (s.setPower f).clock = s.clock := (rfl)
@[simp] theorem State.setPower_contour (s : State) (f : Power → Power) : (s.setPower f).contour = s.contour := (rfl)
@[simp] theorem State.setPower_red (s : State) (f : Power → Power) : (s.setPower f).red = s.red := (rfl)
@[simp] theorem State.setPower_upd (s : State) (f : Power → Power) : (s.setPower f).upd = s.upd := (rfl)
@[simp] theorem State.setPower_cor (s : State) (f : Power → Power) : (s.setPower f).cor = s.cor := (rfl)
@[simp] theorem State.setPower_summit (s : State) (f : Power → Power) : (s.setPower f).summit = s.summit := (rfl)
@[simp] theorem State.setPower_fabric (s : State) (f : Power → Power) : (s.setPower f).fabric = s.fabric := (rfl)
@[simp] theorem State.setPower_queues (s : State) (f : Power → Power) : (s.setPower f).queues = s.queues := (rfl)
@[simp] theorem State.setPower_reserves (s : State) (f : Power → Power) : (s.setPower f).reserves = s.reserves := (rfl)
@[simp] theorem State.setPower_switchbacks (s : State) (f : Power → Power) : (s.setPower f).switchbacks = s.switchbacks := (rfl)
@[simp] theorem State.setPower_traverses (s : State) (f : Power → Power) : (s.setPower f).traverses = s.traverses := (rfl)
@[simp] theorem State.setPower_host (s : State) (f : Power → Power) : (s.setPower f).host = s.host := (rfl)
@[simp] theorem State.setPower_fences (s : State) (f : Power → Power) : (s.setPower f).fences = s.fences := (rfl)
@[simp] theorem State.setPower_sec (s : State) (f : Power → Power) : (s.setPower f).sec = s.sec := (rfl)
@[simp] theorem State.setPower_err (s : State) (f : Power → Power) : (s.setPower f).err = s.err := (rfl)
@[simp] theorem State.setPower_selftest (s : State) (f : Power → Power) : (s.setPower f).selftest = s.selftest := (rfl)
@[simp] theorem State.setPower_low (s : State) (f : Power → Power) : (s.setPower f).low = s.low := (rfl)
@[simp] theorem State.setPower_power (s : State) (f : Power → Power) : (s.setPower f).power = f s.power := (rfl)
@[simp] theorem State.setPower_pins (s : State) (f : Power → Power) : (s.setPower f).pins = s.pins := (rfl)
@[simp] theorem State.setPower_reg (s : State) (f : Power → Power) (y : Reg) (e j : Nat) : (s.setPower f).reg y e j = s.reg y e j := (rfl)
@[simp] theorem State.setPower_getF (s : State) (f : Power → Power) (y : Fld) (e j : Nat) : (s.setPower f).getF y e j = s.getF y e j := (rfl)
@[simp] theorem State.setPower_flag (s : State) (f : Power → Power) (y : Fld) (e j : Nat) : (s.setPower f).flag y e j = s.flag y e j := (rfl)
@[simp] theorem State.setPower_core (s : State) (f : Power → Power) (z : Nat) : (s.setPower f).core z = s.core z := (rfl)
@[simp] theorem State.setPower_byte (s : State) (f : Power → Power) (z : Nat) : (s.setPower f).byte z = s.byte z := (rfl)

/-! ### setSec -/

@[simp] theorem State.setSec_pending (s : State) (f : Security → Security) : (s.setSec f).pending = s.pending := (rfl)
@[simp] theorem State.setSec_time (s : State) (f : Security → Security) : (s.setSec f).time = s.time := (rfl)
@[simp] theorem State.setSec_free (s : State) (f : Security → Security) : (s.setSec f).free = s.free := (rfl)
@[simp] theorem State.setSec_out (s : State) (f : Security → Security) : (s.setSec f).out = s.out := (rfl)
@[simp] theorem State.setSec_regs (s : State) (f : Security → Security) : (s.setSec f).regs = s.regs := (rfl)
@[simp] theorem State.setSec_mem (s : State) (f : Security → Security) : (s.setSec f).mem = s.mem := (rfl)
@[simp] theorem State.setSec_poison (s : State) (f : Security → Security) : (s.setSec f).poison = s.poison := (rfl)
@[simp] theorem State.setSec_cores (s : State) (f : Security → Security) : (s.setSec f).cores = s.cores := (rfl)
@[simp] theorem State.setSec_trackers (s : State) (f : Security → Security) : (s.setSec f).trackers = s.trackers := (rfl)
@[simp] theorem State.setSec_arrivals (s : State) (f : Security → Security) : (s.setSec f).arrivals = s.arrivals := (rfl)
@[simp] theorem State.setSec_talusCtl (s : State) (f : Security → Security) : (s.setSec f).talusCtl = s.talusCtl := (rfl)
@[simp] theorem State.setSec_shells (s : State) (f : Security → Security) : (s.setSec f).shells = s.shells := (rfl)
@[simp] theorem State.setSec_paths (s : State) (f : Security → Security) : (s.setSec f).paths = s.paths := (rfl)
@[simp] theorem State.setSec_saddles (s : State) (f : Security → Security) : (s.setSec f).saddles = s.saddles := (rfl)
@[simp] theorem State.setSec_cols (s : State) (f : Security → Security) : (s.setSec f).cols = s.cols := (rfl)
@[simp] theorem State.setSec_clock (s : State) (f : Security → Security) : (s.setSec f).clock = s.clock := (rfl)
@[simp] theorem State.setSec_contour (s : State) (f : Security → Security) : (s.setSec f).contour = s.contour := (rfl)
@[simp] theorem State.setSec_red (s : State) (f : Security → Security) : (s.setSec f).red = s.red := (rfl)
@[simp] theorem State.setSec_upd (s : State) (f : Security → Security) : (s.setSec f).upd = s.upd := (rfl)
@[simp] theorem State.setSec_cor (s : State) (f : Security → Security) : (s.setSec f).cor = s.cor := (rfl)
@[simp] theorem State.setSec_summit (s : State) (f : Security → Security) : (s.setSec f).summit = s.summit := (rfl)
@[simp] theorem State.setSec_fabric (s : State) (f : Security → Security) : (s.setSec f).fabric = s.fabric := (rfl)
@[simp] theorem State.setSec_queues (s : State) (f : Security → Security) : (s.setSec f).queues = s.queues := (rfl)
@[simp] theorem State.setSec_reserves (s : State) (f : Security → Security) : (s.setSec f).reserves = s.reserves := (rfl)
@[simp] theorem State.setSec_switchbacks (s : State) (f : Security → Security) : (s.setSec f).switchbacks = s.switchbacks := (rfl)
@[simp] theorem State.setSec_traverses (s : State) (f : Security → Security) : (s.setSec f).traverses = s.traverses := (rfl)
@[simp] theorem State.setSec_host (s : State) (f : Security → Security) : (s.setSec f).host = s.host := (rfl)
@[simp] theorem State.setSec_fences (s : State) (f : Security → Security) : (s.setSec f).fences = s.fences := (rfl)
@[simp] theorem State.setSec_sec (s : State) (f : Security → Security) : (s.setSec f).sec = f s.sec := (rfl)
@[simp] theorem State.setSec_err (s : State) (f : Security → Security) : (s.setSec f).err = s.err := (rfl)
@[simp] theorem State.setSec_selftest (s : State) (f : Security → Security) : (s.setSec f).selftest = s.selftest := (rfl)
@[simp] theorem State.setSec_low (s : State) (f : Security → Security) : (s.setSec f).low = s.low := (rfl)
@[simp] theorem State.setSec_power (s : State) (f : Security → Security) : (s.setSec f).power = s.power := (rfl)
@[simp] theorem State.setSec_pins (s : State) (f : Security → Security) : (s.setSec f).pins = s.pins := (rfl)
@[simp] theorem State.setSec_reg (s : State) (f : Security → Security) (y : Reg) (e j : Nat) : (s.setSec f).reg y e j = s.reg y e j := (rfl)
@[simp] theorem State.setSec_getF (s : State) (f : Security → Security) (y : Fld) (e j : Nat) : (s.setSec f).getF y e j = s.getF y e j := (rfl)
@[simp] theorem State.setSec_flag (s : State) (f : Security → Security) (y : Fld) (e j : Nat) : (s.setSec f).flag y e j = s.flag y e j := (rfl)
@[simp] theorem State.setSec_core (s : State) (f : Security → Security) (z : Nat) : (s.setSec f).core z = s.core z := (rfl)
@[simp] theorem State.setSec_byte (s : State) (f : Security → Security) (z : Nat) : (s.setSec f).byte z = s.byte z := (rfl)

/-! ### setTest -/

@[simp] theorem State.setTest_pending (s : State) (f : SelfTest → SelfTest) : (s.setTest f).pending = s.pending := (rfl)
@[simp] theorem State.setTest_time (s : State) (f : SelfTest → SelfTest) : (s.setTest f).time = s.time := (rfl)
@[simp] theorem State.setTest_free (s : State) (f : SelfTest → SelfTest) : (s.setTest f).free = s.free := (rfl)
@[simp] theorem State.setTest_out (s : State) (f : SelfTest → SelfTest) : (s.setTest f).out = s.out := (rfl)
@[simp] theorem State.setTest_regs (s : State) (f : SelfTest → SelfTest) : (s.setTest f).regs = s.regs := (rfl)
@[simp] theorem State.setTest_mem (s : State) (f : SelfTest → SelfTest) : (s.setTest f).mem = s.mem := (rfl)
@[simp] theorem State.setTest_poison (s : State) (f : SelfTest → SelfTest) : (s.setTest f).poison = s.poison := (rfl)
@[simp] theorem State.setTest_cores (s : State) (f : SelfTest → SelfTest) : (s.setTest f).cores = s.cores := (rfl)
@[simp] theorem State.setTest_trackers (s : State) (f : SelfTest → SelfTest) : (s.setTest f).trackers = s.trackers := (rfl)
@[simp] theorem State.setTest_arrivals (s : State) (f : SelfTest → SelfTest) : (s.setTest f).arrivals = s.arrivals := (rfl)
@[simp] theorem State.setTest_talusCtl (s : State) (f : SelfTest → SelfTest) : (s.setTest f).talusCtl = s.talusCtl := (rfl)
@[simp] theorem State.setTest_shells (s : State) (f : SelfTest → SelfTest) : (s.setTest f).shells = s.shells := (rfl)
@[simp] theorem State.setTest_paths (s : State) (f : SelfTest → SelfTest) : (s.setTest f).paths = s.paths := (rfl)
@[simp] theorem State.setTest_saddles (s : State) (f : SelfTest → SelfTest) : (s.setTest f).saddles = s.saddles := (rfl)
@[simp] theorem State.setTest_cols (s : State) (f : SelfTest → SelfTest) : (s.setTest f).cols = s.cols := (rfl)
@[simp] theorem State.setTest_clock (s : State) (f : SelfTest → SelfTest) : (s.setTest f).clock = s.clock := (rfl)
@[simp] theorem State.setTest_contour (s : State) (f : SelfTest → SelfTest) : (s.setTest f).contour = s.contour := (rfl)
@[simp] theorem State.setTest_red (s : State) (f : SelfTest → SelfTest) : (s.setTest f).red = s.red := (rfl)
@[simp] theorem State.setTest_upd (s : State) (f : SelfTest → SelfTest) : (s.setTest f).upd = s.upd := (rfl)
@[simp] theorem State.setTest_cor (s : State) (f : SelfTest → SelfTest) : (s.setTest f).cor = s.cor := (rfl)
@[simp] theorem State.setTest_summit (s : State) (f : SelfTest → SelfTest) : (s.setTest f).summit = s.summit := (rfl)
@[simp] theorem State.setTest_fabric (s : State) (f : SelfTest → SelfTest) : (s.setTest f).fabric = s.fabric := (rfl)
@[simp] theorem State.setTest_queues (s : State) (f : SelfTest → SelfTest) : (s.setTest f).queues = s.queues := (rfl)
@[simp] theorem State.setTest_reserves (s : State) (f : SelfTest → SelfTest) : (s.setTest f).reserves = s.reserves := (rfl)
@[simp] theorem State.setTest_switchbacks (s : State) (f : SelfTest → SelfTest) : (s.setTest f).switchbacks = s.switchbacks := (rfl)
@[simp] theorem State.setTest_traverses (s : State) (f : SelfTest → SelfTest) : (s.setTest f).traverses = s.traverses := (rfl)
@[simp] theorem State.setTest_host (s : State) (f : SelfTest → SelfTest) : (s.setTest f).host = s.host := (rfl)
@[simp] theorem State.setTest_fences (s : State) (f : SelfTest → SelfTest) : (s.setTest f).fences = s.fences := (rfl)
@[simp] theorem State.setTest_sec (s : State) (f : SelfTest → SelfTest) : (s.setTest f).sec = s.sec := (rfl)
@[simp] theorem State.setTest_err (s : State) (f : SelfTest → SelfTest) : (s.setTest f).err = s.err := (rfl)
@[simp] theorem State.setTest_selftest (s : State) (f : SelfTest → SelfTest) : (s.setTest f).selftest = f s.selftest := (rfl)
@[simp] theorem State.setTest_low (s : State) (f : SelfTest → SelfTest) : (s.setTest f).low = s.low := (rfl)
@[simp] theorem State.setTest_power (s : State) (f : SelfTest → SelfTest) : (s.setTest f).power = s.power := (rfl)
@[simp] theorem State.setTest_pins (s : State) (f : SelfTest → SelfTest) : (s.setTest f).pins = s.pins := (rfl)
@[simp] theorem State.setTest_reg (s : State) (f : SelfTest → SelfTest) (y : Reg) (e j : Nat) : (s.setTest f).reg y e j = s.reg y e j := (rfl)
@[simp] theorem State.setTest_getF (s : State) (f : SelfTest → SelfTest) (y : Fld) (e j : Nat) : (s.setTest f).getF y e j = s.getF y e j := (rfl)
@[simp] theorem State.setTest_flag (s : State) (f : SelfTest → SelfTest) (y : Fld) (e j : Nat) : (s.setTest f).flag y e j = s.flag y e j := (rfl)
@[simp] theorem State.setTest_core (s : State) (f : SelfTest → SelfTest) (z : Nat) : (s.setTest f).core z = s.core z := (rfl)
@[simp] theorem State.setTest_byte (s : State) (f : SelfTest → SelfTest) (z : Nat) : (s.setTest f).byte z = s.byte z := (rfl)

/-! ### setSummit -/

@[simp] theorem State.setSummit_pending (s : State) (f : Summit → Summit) : (s.setSummit f).pending = s.pending := (rfl)
@[simp] theorem State.setSummit_time (s : State) (f : Summit → Summit) : (s.setSummit f).time = s.time := (rfl)
@[simp] theorem State.setSummit_free (s : State) (f : Summit → Summit) : (s.setSummit f).free = s.free := (rfl)
@[simp] theorem State.setSummit_out (s : State) (f : Summit → Summit) : (s.setSummit f).out = s.out := (rfl)
@[simp] theorem State.setSummit_regs (s : State) (f : Summit → Summit) : (s.setSummit f).regs = s.regs := (rfl)
@[simp] theorem State.setSummit_mem (s : State) (f : Summit → Summit) : (s.setSummit f).mem = s.mem := (rfl)
@[simp] theorem State.setSummit_poison (s : State) (f : Summit → Summit) : (s.setSummit f).poison = s.poison := (rfl)
@[simp] theorem State.setSummit_cores (s : State) (f : Summit → Summit) : (s.setSummit f).cores = s.cores := (rfl)
@[simp] theorem State.setSummit_trackers (s : State) (f : Summit → Summit) : (s.setSummit f).trackers = s.trackers := (rfl)
@[simp] theorem State.setSummit_arrivals (s : State) (f : Summit → Summit) : (s.setSummit f).arrivals = s.arrivals := (rfl)
@[simp] theorem State.setSummit_talusCtl (s : State) (f : Summit → Summit) : (s.setSummit f).talusCtl = s.talusCtl := (rfl)
@[simp] theorem State.setSummit_shells (s : State) (f : Summit → Summit) : (s.setSummit f).shells = s.shells := (rfl)
@[simp] theorem State.setSummit_paths (s : State) (f : Summit → Summit) : (s.setSummit f).paths = s.paths := (rfl)
@[simp] theorem State.setSummit_saddles (s : State) (f : Summit → Summit) : (s.setSummit f).saddles = s.saddles := (rfl)
@[simp] theorem State.setSummit_cols (s : State) (f : Summit → Summit) : (s.setSummit f).cols = s.cols := (rfl)
@[simp] theorem State.setSummit_clock (s : State) (f : Summit → Summit) : (s.setSummit f).clock = s.clock := (rfl)
@[simp] theorem State.setSummit_contour (s : State) (f : Summit → Summit) : (s.setSummit f).contour = s.contour := (rfl)
@[simp] theorem State.setSummit_red (s : State) (f : Summit → Summit) : (s.setSummit f).red = s.red := (rfl)
@[simp] theorem State.setSummit_upd (s : State) (f : Summit → Summit) : (s.setSummit f).upd = s.upd := (rfl)
@[simp] theorem State.setSummit_cor (s : State) (f : Summit → Summit) : (s.setSummit f).cor = s.cor := (rfl)
@[simp] theorem State.setSummit_summit (s : State) (f : Summit → Summit) : (s.setSummit f).summit = f s.summit := (rfl)
@[simp] theorem State.setSummit_fabric (s : State) (f : Summit → Summit) : (s.setSummit f).fabric = s.fabric := (rfl)
@[simp] theorem State.setSummit_queues (s : State) (f : Summit → Summit) : (s.setSummit f).queues = s.queues := (rfl)
@[simp] theorem State.setSummit_reserves (s : State) (f : Summit → Summit) : (s.setSummit f).reserves = s.reserves := (rfl)
@[simp] theorem State.setSummit_switchbacks (s : State) (f : Summit → Summit) : (s.setSummit f).switchbacks = s.switchbacks := (rfl)
@[simp] theorem State.setSummit_traverses (s : State) (f : Summit → Summit) : (s.setSummit f).traverses = s.traverses := (rfl)
@[simp] theorem State.setSummit_host (s : State) (f : Summit → Summit) : (s.setSummit f).host = s.host := (rfl)
@[simp] theorem State.setSummit_fences (s : State) (f : Summit → Summit) : (s.setSummit f).fences = s.fences := (rfl)
@[simp] theorem State.setSummit_sec (s : State) (f : Summit → Summit) : (s.setSummit f).sec = s.sec := (rfl)
@[simp] theorem State.setSummit_err (s : State) (f : Summit → Summit) : (s.setSummit f).err = s.err := (rfl)
@[simp] theorem State.setSummit_selftest (s : State) (f : Summit → Summit) : (s.setSummit f).selftest = s.selftest := (rfl)
@[simp] theorem State.setSummit_low (s : State) (f : Summit → Summit) : (s.setSummit f).low = s.low := (rfl)
@[simp] theorem State.setSummit_power (s : State) (f : Summit → Summit) : (s.setSummit f).power = s.power := (rfl)
@[simp] theorem State.setSummit_pins (s : State) (f : Summit → Summit) : (s.setSummit f).pins = s.pins := (rfl)
@[simp] theorem State.setSummit_reg (s : State) (f : Summit → Summit) (y : Reg) (e j : Nat) : (s.setSummit f).reg y e j = s.reg y e j := (rfl)
@[simp] theorem State.setSummit_getF (s : State) (f : Summit → Summit) (y : Fld) (e j : Nat) : (s.setSummit f).getF y e j = s.getF y e j := (rfl)
@[simp] theorem State.setSummit_flag (s : State) (f : Summit → Summit) (y : Fld) (e j : Nat) : (s.setSummit f).flag y e j = s.flag y e j := (rfl)
@[simp] theorem State.setSummit_core (s : State) (f : Summit → Summit) (z : Nat) : (s.setSummit f).core z = s.core z := (rfl)
@[simp] theorem State.setSummit_byte (s : State) (f : Summit → Summit) (z : Nat) : (s.setSummit f).byte z = s.byte z := (rfl)

/-! ### setUpd -/

@[simp] theorem State.setUpd_pending (s : State) (f : Update → Update) : (s.setUpd f).pending = s.pending := (rfl)
@[simp] theorem State.setUpd_time (s : State) (f : Update → Update) : (s.setUpd f).time = s.time := (rfl)
@[simp] theorem State.setUpd_free (s : State) (f : Update → Update) : (s.setUpd f).free = s.free := (rfl)
@[simp] theorem State.setUpd_out (s : State) (f : Update → Update) : (s.setUpd f).out = s.out := (rfl)
@[simp] theorem State.setUpd_regs (s : State) (f : Update → Update) : (s.setUpd f).regs = s.regs := (rfl)
@[simp] theorem State.setUpd_mem (s : State) (f : Update → Update) : (s.setUpd f).mem = s.mem := (rfl)
@[simp] theorem State.setUpd_poison (s : State) (f : Update → Update) : (s.setUpd f).poison = s.poison := (rfl)
@[simp] theorem State.setUpd_cores (s : State) (f : Update → Update) : (s.setUpd f).cores = s.cores := (rfl)
@[simp] theorem State.setUpd_trackers (s : State) (f : Update → Update) : (s.setUpd f).trackers = s.trackers := (rfl)
@[simp] theorem State.setUpd_arrivals (s : State) (f : Update → Update) : (s.setUpd f).arrivals = s.arrivals := (rfl)
@[simp] theorem State.setUpd_talusCtl (s : State) (f : Update → Update) : (s.setUpd f).talusCtl = s.talusCtl := (rfl)
@[simp] theorem State.setUpd_shells (s : State) (f : Update → Update) : (s.setUpd f).shells = s.shells := (rfl)
@[simp] theorem State.setUpd_paths (s : State) (f : Update → Update) : (s.setUpd f).paths = s.paths := (rfl)
@[simp] theorem State.setUpd_saddles (s : State) (f : Update → Update) : (s.setUpd f).saddles = s.saddles := (rfl)
@[simp] theorem State.setUpd_cols (s : State) (f : Update → Update) : (s.setUpd f).cols = s.cols := (rfl)
@[simp] theorem State.setUpd_clock (s : State) (f : Update → Update) : (s.setUpd f).clock = s.clock := (rfl)
@[simp] theorem State.setUpd_contour (s : State) (f : Update → Update) : (s.setUpd f).contour = s.contour := (rfl)
@[simp] theorem State.setUpd_red (s : State) (f : Update → Update) : (s.setUpd f).red = s.red := (rfl)
@[simp] theorem State.setUpd_upd (s : State) (f : Update → Update) : (s.setUpd f).upd = f s.upd := (rfl)
@[simp] theorem State.setUpd_cor (s : State) (f : Update → Update) : (s.setUpd f).cor = s.cor := (rfl)
@[simp] theorem State.setUpd_summit (s : State) (f : Update → Update) : (s.setUpd f).summit = s.summit := (rfl)
@[simp] theorem State.setUpd_fabric (s : State) (f : Update → Update) : (s.setUpd f).fabric = s.fabric := (rfl)
@[simp] theorem State.setUpd_queues (s : State) (f : Update → Update) : (s.setUpd f).queues = s.queues := (rfl)
@[simp] theorem State.setUpd_reserves (s : State) (f : Update → Update) : (s.setUpd f).reserves = s.reserves := (rfl)
@[simp] theorem State.setUpd_switchbacks (s : State) (f : Update → Update) : (s.setUpd f).switchbacks = s.switchbacks := (rfl)
@[simp] theorem State.setUpd_traverses (s : State) (f : Update → Update) : (s.setUpd f).traverses = s.traverses := (rfl)
@[simp] theorem State.setUpd_host (s : State) (f : Update → Update) : (s.setUpd f).host = s.host := (rfl)
@[simp] theorem State.setUpd_fences (s : State) (f : Update → Update) : (s.setUpd f).fences = s.fences := (rfl)
@[simp] theorem State.setUpd_sec (s : State) (f : Update → Update) : (s.setUpd f).sec = s.sec := (rfl)
@[simp] theorem State.setUpd_err (s : State) (f : Update → Update) : (s.setUpd f).err = s.err := (rfl)
@[simp] theorem State.setUpd_selftest (s : State) (f : Update → Update) : (s.setUpd f).selftest = s.selftest := (rfl)
@[simp] theorem State.setUpd_low (s : State) (f : Update → Update) : (s.setUpd f).low = s.low := (rfl)
@[simp] theorem State.setUpd_power (s : State) (f : Update → Update) : (s.setUpd f).power = s.power := (rfl)
@[simp] theorem State.setUpd_pins (s : State) (f : Update → Update) : (s.setUpd f).pins = s.pins := (rfl)
@[simp] theorem State.setUpd_reg (s : State) (f : Update → Update) (y : Reg) (e j : Nat) : (s.setUpd f).reg y e j = s.reg y e j := (rfl)
@[simp] theorem State.setUpd_getF (s : State) (f : Update → Update) (y : Fld) (e j : Nat) : (s.setUpd f).getF y e j = s.getF y e j := (rfl)
@[simp] theorem State.setUpd_flag (s : State) (f : Update → Update) (y : Fld) (e j : Nat) : (s.setUpd f).flag y e j = s.flag y e j := (rfl)
@[simp] theorem State.setUpd_core (s : State) (f : Update → Update) (z : Nat) : (s.setUpd f).core z = s.core z := (rfl)
@[simp] theorem State.setUpd_byte (s : State) (f : Update → Update) (z : Nat) : (s.setUpd f).byte z = s.byte z := (rfl)

/-! ### setContour -/

@[simp] theorem State.setContour_pending (s : State) (f : Contour → Contour) : (s.setContour f).pending = s.pending := (rfl)
@[simp] theorem State.setContour_time (s : State) (f : Contour → Contour) : (s.setContour f).time = s.time := (rfl)
@[simp] theorem State.setContour_free (s : State) (f : Contour → Contour) : (s.setContour f).free = s.free := (rfl)
@[simp] theorem State.setContour_out (s : State) (f : Contour → Contour) : (s.setContour f).out = s.out := (rfl)
@[simp] theorem State.setContour_regs (s : State) (f : Contour → Contour) : (s.setContour f).regs = s.regs := (rfl)
@[simp] theorem State.setContour_mem (s : State) (f : Contour → Contour) : (s.setContour f).mem = s.mem := (rfl)
@[simp] theorem State.setContour_poison (s : State) (f : Contour → Contour) : (s.setContour f).poison = s.poison := (rfl)
@[simp] theorem State.setContour_cores (s : State) (f : Contour → Contour) : (s.setContour f).cores = s.cores := (rfl)
@[simp] theorem State.setContour_trackers (s : State) (f : Contour → Contour) : (s.setContour f).trackers = s.trackers := (rfl)
@[simp] theorem State.setContour_arrivals (s : State) (f : Contour → Contour) : (s.setContour f).arrivals = s.arrivals := (rfl)
@[simp] theorem State.setContour_talusCtl (s : State) (f : Contour → Contour) : (s.setContour f).talusCtl = s.talusCtl := (rfl)
@[simp] theorem State.setContour_shells (s : State) (f : Contour → Contour) : (s.setContour f).shells = s.shells := (rfl)
@[simp] theorem State.setContour_paths (s : State) (f : Contour → Contour) : (s.setContour f).paths = s.paths := (rfl)
@[simp] theorem State.setContour_saddles (s : State) (f : Contour → Contour) : (s.setContour f).saddles = s.saddles := (rfl)
@[simp] theorem State.setContour_cols (s : State) (f : Contour → Contour) : (s.setContour f).cols = s.cols := (rfl)
@[simp] theorem State.setContour_clock (s : State) (f : Contour → Contour) : (s.setContour f).clock = s.clock := (rfl)
@[simp] theorem State.setContour_contour (s : State) (f : Contour → Contour) : (s.setContour f).contour = f s.contour := (rfl)
@[simp] theorem State.setContour_red (s : State) (f : Contour → Contour) : (s.setContour f).red = s.red := (rfl)
@[simp] theorem State.setContour_upd (s : State) (f : Contour → Contour) : (s.setContour f).upd = s.upd := (rfl)
@[simp] theorem State.setContour_cor (s : State) (f : Contour → Contour) : (s.setContour f).cor = s.cor := (rfl)
@[simp] theorem State.setContour_summit (s : State) (f : Contour → Contour) : (s.setContour f).summit = s.summit := (rfl)
@[simp] theorem State.setContour_fabric (s : State) (f : Contour → Contour) : (s.setContour f).fabric = s.fabric := (rfl)
@[simp] theorem State.setContour_queues (s : State) (f : Contour → Contour) : (s.setContour f).queues = s.queues := (rfl)
@[simp] theorem State.setContour_reserves (s : State) (f : Contour → Contour) : (s.setContour f).reserves = s.reserves := (rfl)
@[simp] theorem State.setContour_switchbacks (s : State) (f : Contour → Contour) : (s.setContour f).switchbacks = s.switchbacks := (rfl)
@[simp] theorem State.setContour_traverses (s : State) (f : Contour → Contour) : (s.setContour f).traverses = s.traverses := (rfl)
@[simp] theorem State.setContour_host (s : State) (f : Contour → Contour) : (s.setContour f).host = s.host := (rfl)
@[simp] theorem State.setContour_fences (s : State) (f : Contour → Contour) : (s.setContour f).fences = s.fences := (rfl)
@[simp] theorem State.setContour_sec (s : State) (f : Contour → Contour) : (s.setContour f).sec = s.sec := (rfl)
@[simp] theorem State.setContour_err (s : State) (f : Contour → Contour) : (s.setContour f).err = s.err := (rfl)
@[simp] theorem State.setContour_selftest (s : State) (f : Contour → Contour) : (s.setContour f).selftest = s.selftest := (rfl)
@[simp] theorem State.setContour_low (s : State) (f : Contour → Contour) : (s.setContour f).low = s.low := (rfl)
@[simp] theorem State.setContour_power (s : State) (f : Contour → Contour) : (s.setContour f).power = s.power := (rfl)
@[simp] theorem State.setContour_pins (s : State) (f : Contour → Contour) : (s.setContour f).pins = s.pins := (rfl)
@[simp] theorem State.setContour_reg (s : State) (f : Contour → Contour) (y : Reg) (e j : Nat) : (s.setContour f).reg y e j = s.reg y e j := (rfl)
@[simp] theorem State.setContour_getF (s : State) (f : Contour → Contour) (y : Fld) (e j : Nat) : (s.setContour f).getF y e j = s.getF y e j := (rfl)
@[simp] theorem State.setContour_flag (s : State) (f : Contour → Contour) (y : Fld) (e j : Nat) : (s.setContour f).flag y e j = s.flag y e j := (rfl)
@[simp] theorem State.setContour_core (s : State) (f : Contour → Contour) (z : Nat) : (s.setContour f).core z = s.core z := (rfl)
@[simp] theorem State.setContour_byte (s : State) (f : Contour → Contour) (z : Nat) : (s.setContour f).byte z = s.byte z := (rfl)

/-! ### setRed -/

@[simp] theorem State.setRed_pending (s : State) (f : Reduction → Reduction) : (s.setRed f).pending = s.pending := (rfl)
@[simp] theorem State.setRed_time (s : State) (f : Reduction → Reduction) : (s.setRed f).time = s.time := (rfl)
@[simp] theorem State.setRed_free (s : State) (f : Reduction → Reduction) : (s.setRed f).free = s.free := (rfl)
@[simp] theorem State.setRed_out (s : State) (f : Reduction → Reduction) : (s.setRed f).out = s.out := (rfl)
@[simp] theorem State.setRed_regs (s : State) (f : Reduction → Reduction) : (s.setRed f).regs = s.regs := (rfl)
@[simp] theorem State.setRed_mem (s : State) (f : Reduction → Reduction) : (s.setRed f).mem = s.mem := (rfl)
@[simp] theorem State.setRed_poison (s : State) (f : Reduction → Reduction) : (s.setRed f).poison = s.poison := (rfl)
@[simp] theorem State.setRed_cores (s : State) (f : Reduction → Reduction) : (s.setRed f).cores = s.cores := (rfl)
@[simp] theorem State.setRed_trackers (s : State) (f : Reduction → Reduction) : (s.setRed f).trackers = s.trackers := (rfl)
@[simp] theorem State.setRed_arrivals (s : State) (f : Reduction → Reduction) : (s.setRed f).arrivals = s.arrivals := (rfl)
@[simp] theorem State.setRed_talusCtl (s : State) (f : Reduction → Reduction) : (s.setRed f).talusCtl = s.talusCtl := (rfl)
@[simp] theorem State.setRed_shells (s : State) (f : Reduction → Reduction) : (s.setRed f).shells = s.shells := (rfl)
@[simp] theorem State.setRed_paths (s : State) (f : Reduction → Reduction) : (s.setRed f).paths = s.paths := (rfl)
@[simp] theorem State.setRed_saddles (s : State) (f : Reduction → Reduction) : (s.setRed f).saddles = s.saddles := (rfl)
@[simp] theorem State.setRed_cols (s : State) (f : Reduction → Reduction) : (s.setRed f).cols = s.cols := (rfl)
@[simp] theorem State.setRed_clock (s : State) (f : Reduction → Reduction) : (s.setRed f).clock = s.clock := (rfl)
@[simp] theorem State.setRed_contour (s : State) (f : Reduction → Reduction) : (s.setRed f).contour = s.contour := (rfl)
@[simp] theorem State.setRed_red (s : State) (f : Reduction → Reduction) : (s.setRed f).red = f s.red := (rfl)
@[simp] theorem State.setRed_upd (s : State) (f : Reduction → Reduction) : (s.setRed f).upd = s.upd := (rfl)
@[simp] theorem State.setRed_cor (s : State) (f : Reduction → Reduction) : (s.setRed f).cor = s.cor := (rfl)
@[simp] theorem State.setRed_summit (s : State) (f : Reduction → Reduction) : (s.setRed f).summit = s.summit := (rfl)
@[simp] theorem State.setRed_fabric (s : State) (f : Reduction → Reduction) : (s.setRed f).fabric = s.fabric := (rfl)
@[simp] theorem State.setRed_queues (s : State) (f : Reduction → Reduction) : (s.setRed f).queues = s.queues := (rfl)
@[simp] theorem State.setRed_reserves (s : State) (f : Reduction → Reduction) : (s.setRed f).reserves = s.reserves := (rfl)
@[simp] theorem State.setRed_switchbacks (s : State) (f : Reduction → Reduction) : (s.setRed f).switchbacks = s.switchbacks := (rfl)
@[simp] theorem State.setRed_traverses (s : State) (f : Reduction → Reduction) : (s.setRed f).traverses = s.traverses := (rfl)
@[simp] theorem State.setRed_host (s : State) (f : Reduction → Reduction) : (s.setRed f).host = s.host := (rfl)
@[simp] theorem State.setRed_fences (s : State) (f : Reduction → Reduction) : (s.setRed f).fences = s.fences := (rfl)
@[simp] theorem State.setRed_sec (s : State) (f : Reduction → Reduction) : (s.setRed f).sec = s.sec := (rfl)
@[simp] theorem State.setRed_err (s : State) (f : Reduction → Reduction) : (s.setRed f).err = s.err := (rfl)
@[simp] theorem State.setRed_selftest (s : State) (f : Reduction → Reduction) : (s.setRed f).selftest = s.selftest := (rfl)
@[simp] theorem State.setRed_low (s : State) (f : Reduction → Reduction) : (s.setRed f).low = s.low := (rfl)
@[simp] theorem State.setRed_power (s : State) (f : Reduction → Reduction) : (s.setRed f).power = s.power := (rfl)
@[simp] theorem State.setRed_pins (s : State) (f : Reduction → Reduction) : (s.setRed f).pins = s.pins := (rfl)
@[simp] theorem State.setRed_reg (s : State) (f : Reduction → Reduction) (y : Reg) (e j : Nat) : (s.setRed f).reg y e j = s.reg y e j := (rfl)
@[simp] theorem State.setRed_getF (s : State) (f : Reduction → Reduction) (y : Fld) (e j : Nat) : (s.setRed f).getF y e j = s.getF y e j := (rfl)
@[simp] theorem State.setRed_flag (s : State) (f : Reduction → Reduction) (y : Fld) (e j : Nat) : (s.setRed f).flag y e j = s.flag y e j := (rfl)
@[simp] theorem State.setRed_core (s : State) (f : Reduction → Reduction) (z : Nat) : (s.setRed f).core z = s.core z := (rfl)
@[simp] theorem State.setRed_byte (s : State) (f : Reduction → Reduction) (z : Nat) : (s.setRed f).byte z = s.byte z := (rfl)

/-! ### setFabric -/

@[simp] theorem State.setFabric_pending (s : State) (f : Fabric → Fabric) : (s.setFabric f).pending = s.pending := (rfl)
@[simp] theorem State.setFabric_time (s : State) (f : Fabric → Fabric) : (s.setFabric f).time = s.time := (rfl)
@[simp] theorem State.setFabric_free (s : State) (f : Fabric → Fabric) : (s.setFabric f).free = s.free := (rfl)
@[simp] theorem State.setFabric_out (s : State) (f : Fabric → Fabric) : (s.setFabric f).out = s.out := (rfl)
@[simp] theorem State.setFabric_regs (s : State) (f : Fabric → Fabric) : (s.setFabric f).regs = s.regs := (rfl)
@[simp] theorem State.setFabric_mem (s : State) (f : Fabric → Fabric) : (s.setFabric f).mem = s.mem := (rfl)
@[simp] theorem State.setFabric_poison (s : State) (f : Fabric → Fabric) : (s.setFabric f).poison = s.poison := (rfl)
@[simp] theorem State.setFabric_cores (s : State) (f : Fabric → Fabric) : (s.setFabric f).cores = s.cores := (rfl)
@[simp] theorem State.setFabric_trackers (s : State) (f : Fabric → Fabric) : (s.setFabric f).trackers = s.trackers := (rfl)
@[simp] theorem State.setFabric_arrivals (s : State) (f : Fabric → Fabric) : (s.setFabric f).arrivals = s.arrivals := (rfl)
@[simp] theorem State.setFabric_talusCtl (s : State) (f : Fabric → Fabric) : (s.setFabric f).talusCtl = s.talusCtl := (rfl)
@[simp] theorem State.setFabric_shells (s : State) (f : Fabric → Fabric) : (s.setFabric f).shells = s.shells := (rfl)
@[simp] theorem State.setFabric_paths (s : State) (f : Fabric → Fabric) : (s.setFabric f).paths = s.paths := (rfl)
@[simp] theorem State.setFabric_saddles (s : State) (f : Fabric → Fabric) : (s.setFabric f).saddles = s.saddles := (rfl)
@[simp] theorem State.setFabric_cols (s : State) (f : Fabric → Fabric) : (s.setFabric f).cols = s.cols := (rfl)
@[simp] theorem State.setFabric_clock (s : State) (f : Fabric → Fabric) : (s.setFabric f).clock = s.clock := (rfl)
@[simp] theorem State.setFabric_contour (s : State) (f : Fabric → Fabric) : (s.setFabric f).contour = s.contour := (rfl)
@[simp] theorem State.setFabric_red (s : State) (f : Fabric → Fabric) : (s.setFabric f).red = s.red := (rfl)
@[simp] theorem State.setFabric_upd (s : State) (f : Fabric → Fabric) : (s.setFabric f).upd = s.upd := (rfl)
@[simp] theorem State.setFabric_cor (s : State) (f : Fabric → Fabric) : (s.setFabric f).cor = s.cor := (rfl)
@[simp] theorem State.setFabric_summit (s : State) (f : Fabric → Fabric) : (s.setFabric f).summit = s.summit := (rfl)
@[simp] theorem State.setFabric_fabric (s : State) (f : Fabric → Fabric) : (s.setFabric f).fabric = f s.fabric := (rfl)
@[simp] theorem State.setFabric_queues (s : State) (f : Fabric → Fabric) : (s.setFabric f).queues = s.queues := (rfl)
@[simp] theorem State.setFabric_reserves (s : State) (f : Fabric → Fabric) : (s.setFabric f).reserves = s.reserves := (rfl)
@[simp] theorem State.setFabric_switchbacks (s : State) (f : Fabric → Fabric) : (s.setFabric f).switchbacks = s.switchbacks := (rfl)
@[simp] theorem State.setFabric_traverses (s : State) (f : Fabric → Fabric) : (s.setFabric f).traverses = s.traverses := (rfl)
@[simp] theorem State.setFabric_host (s : State) (f : Fabric → Fabric) : (s.setFabric f).host = s.host := (rfl)
@[simp] theorem State.setFabric_fences (s : State) (f : Fabric → Fabric) : (s.setFabric f).fences = s.fences := (rfl)
@[simp] theorem State.setFabric_sec (s : State) (f : Fabric → Fabric) : (s.setFabric f).sec = s.sec := (rfl)
@[simp] theorem State.setFabric_err (s : State) (f : Fabric → Fabric) : (s.setFabric f).err = s.err := (rfl)
@[simp] theorem State.setFabric_selftest (s : State) (f : Fabric → Fabric) : (s.setFabric f).selftest = s.selftest := (rfl)
@[simp] theorem State.setFabric_low (s : State) (f : Fabric → Fabric) : (s.setFabric f).low = s.low := (rfl)
@[simp] theorem State.setFabric_power (s : State) (f : Fabric → Fabric) : (s.setFabric f).power = s.power := (rfl)
@[simp] theorem State.setFabric_pins (s : State) (f : Fabric → Fabric) : (s.setFabric f).pins = s.pins := (rfl)
@[simp] theorem State.setFabric_reg (s : State) (f : Fabric → Fabric) (y : Reg) (e j : Nat) : (s.setFabric f).reg y e j = s.reg y e j := (rfl)
@[simp] theorem State.setFabric_getF (s : State) (f : Fabric → Fabric) (y : Fld) (e j : Nat) : (s.setFabric f).getF y e j = s.getF y e j := (rfl)
@[simp] theorem State.setFabric_flag (s : State) (f : Fabric → Fabric) (y : Fld) (e j : Nat) : (s.setFabric f).flag y e j = s.flag y e j := (rfl)
@[simp] theorem State.setFabric_core (s : State) (f : Fabric → Fabric) (z : Nat) : (s.setFabric f).core z = s.core z := (rfl)
@[simp] theorem State.setFabric_byte (s : State) (f : Fabric → Fabric) (z : Nat) : (s.setFabric f).byte z = s.byte z := (rfl)

/-! ### setHost -/

@[simp] theorem State.setHost_pending (s : State) (f : HostLink → HostLink) : (s.setHost f).pending = s.pending := (rfl)
@[simp] theorem State.setHost_time (s : State) (f : HostLink → HostLink) : (s.setHost f).time = s.time := (rfl)
@[simp] theorem State.setHost_free (s : State) (f : HostLink → HostLink) : (s.setHost f).free = s.free := (rfl)
@[simp] theorem State.setHost_out (s : State) (f : HostLink → HostLink) : (s.setHost f).out = s.out := (rfl)
@[simp] theorem State.setHost_regs (s : State) (f : HostLink → HostLink) : (s.setHost f).regs = s.regs := (rfl)
@[simp] theorem State.setHost_mem (s : State) (f : HostLink → HostLink) : (s.setHost f).mem = s.mem := (rfl)
@[simp] theorem State.setHost_poison (s : State) (f : HostLink → HostLink) : (s.setHost f).poison = s.poison := (rfl)
@[simp] theorem State.setHost_cores (s : State) (f : HostLink → HostLink) : (s.setHost f).cores = s.cores := (rfl)
@[simp] theorem State.setHost_trackers (s : State) (f : HostLink → HostLink) : (s.setHost f).trackers = s.trackers := (rfl)
@[simp] theorem State.setHost_arrivals (s : State) (f : HostLink → HostLink) : (s.setHost f).arrivals = s.arrivals := (rfl)
@[simp] theorem State.setHost_talusCtl (s : State) (f : HostLink → HostLink) : (s.setHost f).talusCtl = s.talusCtl := (rfl)
@[simp] theorem State.setHost_shells (s : State) (f : HostLink → HostLink) : (s.setHost f).shells = s.shells := (rfl)
@[simp] theorem State.setHost_paths (s : State) (f : HostLink → HostLink) : (s.setHost f).paths = s.paths := (rfl)
@[simp] theorem State.setHost_saddles (s : State) (f : HostLink → HostLink) : (s.setHost f).saddles = s.saddles := (rfl)
@[simp] theorem State.setHost_cols (s : State) (f : HostLink → HostLink) : (s.setHost f).cols = s.cols := (rfl)
@[simp] theorem State.setHost_clock (s : State) (f : HostLink → HostLink) : (s.setHost f).clock = s.clock := (rfl)
@[simp] theorem State.setHost_contour (s : State) (f : HostLink → HostLink) : (s.setHost f).contour = s.contour := (rfl)
@[simp] theorem State.setHost_red (s : State) (f : HostLink → HostLink) : (s.setHost f).red = s.red := (rfl)
@[simp] theorem State.setHost_upd (s : State) (f : HostLink → HostLink) : (s.setHost f).upd = s.upd := (rfl)
@[simp] theorem State.setHost_cor (s : State) (f : HostLink → HostLink) : (s.setHost f).cor = s.cor := (rfl)
@[simp] theorem State.setHost_summit (s : State) (f : HostLink → HostLink) : (s.setHost f).summit = s.summit := (rfl)
@[simp] theorem State.setHost_fabric (s : State) (f : HostLink → HostLink) : (s.setHost f).fabric = s.fabric := (rfl)
@[simp] theorem State.setHost_queues (s : State) (f : HostLink → HostLink) : (s.setHost f).queues = s.queues := (rfl)
@[simp] theorem State.setHost_reserves (s : State) (f : HostLink → HostLink) : (s.setHost f).reserves = s.reserves := (rfl)
@[simp] theorem State.setHost_switchbacks (s : State) (f : HostLink → HostLink) : (s.setHost f).switchbacks = s.switchbacks := (rfl)
@[simp] theorem State.setHost_traverses (s : State) (f : HostLink → HostLink) : (s.setHost f).traverses = s.traverses := (rfl)
@[simp] theorem State.setHost_host (s : State) (f : HostLink → HostLink) : (s.setHost f).host = f s.host := (rfl)
@[simp] theorem State.setHost_fences (s : State) (f : HostLink → HostLink) : (s.setHost f).fences = s.fences := (rfl)
@[simp] theorem State.setHost_sec (s : State) (f : HostLink → HostLink) : (s.setHost f).sec = s.sec := (rfl)
@[simp] theorem State.setHost_err (s : State) (f : HostLink → HostLink) : (s.setHost f).err = s.err := (rfl)
@[simp] theorem State.setHost_selftest (s : State) (f : HostLink → HostLink) : (s.setHost f).selftest = s.selftest := (rfl)
@[simp] theorem State.setHost_low (s : State) (f : HostLink → HostLink) : (s.setHost f).low = s.low := (rfl)
@[simp] theorem State.setHost_power (s : State) (f : HostLink → HostLink) : (s.setHost f).power = s.power := (rfl)
@[simp] theorem State.setHost_pins (s : State) (f : HostLink → HostLink) : (s.setHost f).pins = s.pins := (rfl)
@[simp] theorem State.setHost_reg (s : State) (f : HostLink → HostLink) (y : Reg) (e j : Nat) : (s.setHost f).reg y e j = s.reg y e j := (rfl)
@[simp] theorem State.setHost_getF (s : State) (f : HostLink → HostLink) (y : Fld) (e j : Nat) : (s.setHost f).getF y e j = s.getF y e j := (rfl)
@[simp] theorem State.setHost_flag (s : State) (f : HostLink → HostLink) (y : Fld) (e j : Nat) : (s.setHost f).flag y e j = s.flag y e j := (rfl)
@[simp] theorem State.setHost_core (s : State) (f : HostLink → HostLink) (z : Nat) : (s.setHost f).core z = s.core z := (rfl)
@[simp] theorem State.setHost_byte (s : State) (f : HostLink → HostLink) (z : Nat) : (s.setHost f).byte z = s.byte z := (rfl)

/-! ### setLow -/

@[simp] theorem State.setLow_pending (s : State) (f : LowPower → LowPower) : (s.setLow f).pending = s.pending := (rfl)
@[simp] theorem State.setLow_time (s : State) (f : LowPower → LowPower) : (s.setLow f).time = s.time := (rfl)
@[simp] theorem State.setLow_free (s : State) (f : LowPower → LowPower) : (s.setLow f).free = s.free := (rfl)
@[simp] theorem State.setLow_out (s : State) (f : LowPower → LowPower) : (s.setLow f).out = s.out := (rfl)
@[simp] theorem State.setLow_regs (s : State) (f : LowPower → LowPower) : (s.setLow f).regs = s.regs := (rfl)
@[simp] theorem State.setLow_mem (s : State) (f : LowPower → LowPower) : (s.setLow f).mem = s.mem := (rfl)
@[simp] theorem State.setLow_poison (s : State) (f : LowPower → LowPower) : (s.setLow f).poison = s.poison := (rfl)
@[simp] theorem State.setLow_cores (s : State) (f : LowPower → LowPower) : (s.setLow f).cores = s.cores := (rfl)
@[simp] theorem State.setLow_trackers (s : State) (f : LowPower → LowPower) : (s.setLow f).trackers = s.trackers := (rfl)
@[simp] theorem State.setLow_arrivals (s : State) (f : LowPower → LowPower) : (s.setLow f).arrivals = s.arrivals := (rfl)
@[simp] theorem State.setLow_talusCtl (s : State) (f : LowPower → LowPower) : (s.setLow f).talusCtl = s.talusCtl := (rfl)
@[simp] theorem State.setLow_shells (s : State) (f : LowPower → LowPower) : (s.setLow f).shells = s.shells := (rfl)
@[simp] theorem State.setLow_paths (s : State) (f : LowPower → LowPower) : (s.setLow f).paths = s.paths := (rfl)
@[simp] theorem State.setLow_saddles (s : State) (f : LowPower → LowPower) : (s.setLow f).saddles = s.saddles := (rfl)
@[simp] theorem State.setLow_cols (s : State) (f : LowPower → LowPower) : (s.setLow f).cols = s.cols := (rfl)
@[simp] theorem State.setLow_clock (s : State) (f : LowPower → LowPower) : (s.setLow f).clock = s.clock := (rfl)
@[simp] theorem State.setLow_contour (s : State) (f : LowPower → LowPower) : (s.setLow f).contour = s.contour := (rfl)
@[simp] theorem State.setLow_red (s : State) (f : LowPower → LowPower) : (s.setLow f).red = s.red := (rfl)
@[simp] theorem State.setLow_upd (s : State) (f : LowPower → LowPower) : (s.setLow f).upd = s.upd := (rfl)
@[simp] theorem State.setLow_cor (s : State) (f : LowPower → LowPower) : (s.setLow f).cor = s.cor := (rfl)
@[simp] theorem State.setLow_summit (s : State) (f : LowPower → LowPower) : (s.setLow f).summit = s.summit := (rfl)
@[simp] theorem State.setLow_fabric (s : State) (f : LowPower → LowPower) : (s.setLow f).fabric = s.fabric := (rfl)
@[simp] theorem State.setLow_queues (s : State) (f : LowPower → LowPower) : (s.setLow f).queues = s.queues := (rfl)
@[simp] theorem State.setLow_reserves (s : State) (f : LowPower → LowPower) : (s.setLow f).reserves = s.reserves := (rfl)
@[simp] theorem State.setLow_switchbacks (s : State) (f : LowPower → LowPower) : (s.setLow f).switchbacks = s.switchbacks := (rfl)
@[simp] theorem State.setLow_traverses (s : State) (f : LowPower → LowPower) : (s.setLow f).traverses = s.traverses := (rfl)
@[simp] theorem State.setLow_host (s : State) (f : LowPower → LowPower) : (s.setLow f).host = s.host := (rfl)
@[simp] theorem State.setLow_fences (s : State) (f : LowPower → LowPower) : (s.setLow f).fences = s.fences := (rfl)
@[simp] theorem State.setLow_sec (s : State) (f : LowPower → LowPower) : (s.setLow f).sec = s.sec := (rfl)
@[simp] theorem State.setLow_err (s : State) (f : LowPower → LowPower) : (s.setLow f).err = s.err := (rfl)
@[simp] theorem State.setLow_selftest (s : State) (f : LowPower → LowPower) : (s.setLow f).selftest = s.selftest := (rfl)
@[simp] theorem State.setLow_low (s : State) (f : LowPower → LowPower) : (s.setLow f).low = f s.low := (rfl)
@[simp] theorem State.setLow_power (s : State) (f : LowPower → LowPower) : (s.setLow f).power = s.power := (rfl)
@[simp] theorem State.setLow_pins (s : State) (f : LowPower → LowPower) : (s.setLow f).pins = s.pins := (rfl)
@[simp] theorem State.setLow_reg (s : State) (f : LowPower → LowPower) (y : Reg) (e j : Nat) : (s.setLow f).reg y e j = s.reg y e j := (rfl)
@[simp] theorem State.setLow_getF (s : State) (f : LowPower → LowPower) (y : Fld) (e j : Nat) : (s.setLow f).getF y e j = s.getF y e j := (rfl)
@[simp] theorem State.setLow_flag (s : State) (f : LowPower → LowPower) (y : Fld) (e j : Nat) : (s.setLow f).flag y e j = s.flag y e j := (rfl)
@[simp] theorem State.setLow_core (s : State) (f : LowPower → LowPower) (z : Nat) : (s.setLow f).core z = s.core z := (rfl)
@[simp] theorem State.setLow_byte (s : State) (f : LowPower → LowPower) (z : Nat) : (s.setLow f).byte z = s.byte z := (rfl)

/-! ### Reads of what was set -/

@[simp] theorem State.core_setCore (s : State) (g : Nat) (c : Core) : (s.setCore g c).core g = c := kget_kset_same ..

theorem State.core_setCore_ne (s : State) (g k : Nat) (c : Core) (h : k ≠ g) : (s.setCore g c).core k = s.core k :=
  kget_kset_ne _ _ h

@[simp] theorem State.tracker_setTracker (s : State) (d : Nat) (t : Tracker) : (s.setTracker d t).tracker d = t :=
  kget_kset_same ..

@[simp] theorem State.stack_setStack (s : State) (t : Nat) (x : Stack) : (s.setStack t x).stack t = x := kget_kset_same ..

@[simp] theorem State.shell_setShell (s : State) (k : Nat) (x : Shell) : (s.setShell k x).shell k = x := kget_kset_same ..

/-- A byte stored reads back; a byte elsewhere reads as before. -/
theorem State.byte_setByte (s : State) (a b : Nat) (x : Byte) :
    (s.setByte a x).byte b = if memKey b = memKey a then x else s.byte b := kget_kset ..

end Sys2Proof.Machine
end

