-- ==== Sys2Proof/Laws/Memory.lean ====
section
/-!
SUPPORT. Laws of memory: a store reads back and leaves every byte outside it alone; every operation keeps the canonical form
(the Moves lemmas give that for each of them).
-/
set_option Elab.async false
namespace Sys2Proof.Machine

open Sys2Proof

theorem State.byte_of_mem {s t : State} (h : t.mem = s.mem) (a : Nat) : t.byte a = s.byte a := by
  unfold State.byte; rw [h]

theorem State.byte_storeBytes_ne (s : State) (a b : Nat) (bs : List Byte) (h : Outside b a bs.length) :
    (s.storeBytes a bs).byte b = s.byte b := by
  induction bs generalizing s a with
  | nil => rfl
  | cons x bs ih =>
    rw [State.storeBytes, ih]
    · rw [State.byte_setByte, if_neg (by simpa using h 0 (Nat.zero_lt_succ _))]
    · intro i hi
      have := h (i + 1) (Nat.succ_lt_succ hi)
      rwa [show a + (i + 1) = a + 1 + i by omega] at this

theorem State.mem_write (s : State) (a : Nat) (bs : List Byte) : (s.write a bs).mem = (s.storeBytes a bs).mem :=
  (State.clearCovered_moves ..).same .mem (by decide)

/-- A store leaves every byte outside it. -/
theorem State.byte_write_ne (s : State) (a b : Nat) (bs : List Byte) (h : Outside b a bs.length) :
    (s.write a bs).byte b = s.byte b := by
  rw [State.byte_of_mem (State.mem_write ..), State.byte_storeBytes_ne _ _ _ _ h]

theorem State.mem_writeMarked (s : State) (a : Nat) (bs : List Byte) (ps : List Bool) :
    (s.writeMarked a bs ps).mem = (s.write a bs).mem := by
  unfold State.writeMarked
  have h (l : List (Bool × Nat)) (t : State) :
      (l.foldl (fun (s : State) (p : Bool × Nat) => if p.1 then s.setPoison (a + 4 * p.2) 1 true else s) t).mem = t.mem := by
    induction l generalizing t with
    | nil => rfl
    | cons x l ih =>
      rw [List.foldl_cons, ih]
      split
      · exact (State.setPoison_moves ..).same .mem (by decide)
      · rfl
  exact h ..

theorem State.byte_writeMarked_ne (s : State) (a b : Nat) (bs : List Byte) (ps : List Bool) (h : Outside b a bs.length) :
    (s.writeMarked a bs ps).byte b = s.byte b := by
  rw [State.byte_of_mem (State.mem_writeMarked ..), State.byte_write_ne _ _ _ _ h]

/-- A fold of steps that each leave one byte leaves that byte. -/
theorem State.byte_foldl {α : Type} (b : Nat) (f : State → α → State) (l : List α) (s : State)
    (h : ∀ x ∈ l, ∀ t, (f t x).byte b = t.byte b) : (l.foldl f s).byte b = s.byte b := by
  induction l generalizing s with
  | nil => rfl
  | cons x l ih => rw [List.foldl_cons, ih _ fun y hy => h y (.tail _ hy), h x (.head _)]

theorem State.byte_setPoison (s : State) (a n b : Nat) (p : Bool) : (s.setPoison a n p).byte b = s.byte b :=
  State.byte_of_mem ((State.setPoison_moves ..).same .mem (by decide)) b

theorem State.byte_writeOpen_ne (s : State) (a b : Nat) (bs : List Byte) (ps : List Bool) (h : Outside b a bs.length) :
    (s.writeOpen a bs ps).byte b = s.byte b := by
  unfold State.writeOpen
  extract_lets s1 s2
  have h1 : s1.byte b = s.byte b := by
    refine State.byte_foldl _ _ _ _ fun x hx t => ?_
    have hi : x.2 < bs.length := by
      have := List.snd_lt_of_mem_zipIdx hx
      omega
    split
    · rfl
    · rw [State.byte_setByte, if_neg (h x.2 hi)]
  have h2 : s2.byte b = s1.byte b := by
    refine State.byte_foldl _ _ _ _ fun x _ t => ?_
    split
    · rfl
    · exact State.byte_setPoison ..
  rw [State.byte_foldl, h2, h1]
  intro x _ t
  split
  · exact State.byte_setPoison ..
  · rfl

/-- Where no errors stand in the stacks, an access meets none in Talus: it leaves every byte. -/
theorem State.byte_meetErrs (s : State) (a n b : Nat) (w : Bool) (hq : s.quiet = true) : (s.meetErrs a n w).byte b = s.byte b := by
  unfold State.meetErrs
  split
  · exact State.byte_of_mem ((State.meetPairs_moves ..).same .mem (by decide)) b
  · refine State.byte_foldl _ _ _ _ fun k hk t => ?_
    have he : k.2.errs = [] := by simpa using List.all_eq_true.mp hq k hk
    rw [he]; rfl
  · rfl

theorem State.byte_localWrite_ne (s : State) (d unit a b : Nat) (bs : List Byte) (ps : List Bool) (hq : s.quiet = true)
    (h : Outside b a bs.length) : (s.localWrite d unit a bs ps).byte b = s.byte b := by
  unfold State.localWrite
  split
  · exact State.byte_of_mem ((State.addressFault_moves ..).same .mem (by decide)) b
  · exact (State.byte_writeOpen_ne _ _ _ _ _ h).trans (s.byte_meetErrs _ _ _ _ hq)
  · rfl
  · exact (State.byte_writeMarked_ne _ _ _ _ _ h).trans (s.byte_meetErrs _ _ _ _ hq)

/-- A store reads back, where no two of its addresses name one byte. -/
theorem State.byte_storeBytes (s : State) (a i : Nat) (bs : List Byte) (hi : i < bs.length)
    (hk : ∀ j k, j < bs.length → k < bs.length → memKey (a + j) = memKey (a + k) → j = k) :
    (s.storeBytes a bs).byte (a + i) = bs[i] := by
  induction bs generalizing s a i with
  | nil => cases hi
  | cons x bs ih =>
    rw [State.storeBytes]
    cases i with
    | zero =>
      rw [State.byte_storeBytes_ne]
      · rw [Nat.add_zero, State.byte_setByte, if_pos rfl]; rfl
      · intro j hj h
        have := hk 0 (j + 1) (Nat.zero_lt_succ _) (Nat.succ_lt_succ hj)
          (by rw [h]; congr 1; omega)
        omega
    | succ i =>
      have hi' : i < bs.length := Nat.lt_of_succ_lt_succ hi
      have := ih (s.setByte a x) (a + 1) i hi' (fun j k hj hk' h => by
        have := hk (j + 1) (k + 1) (Nat.succ_lt_succ hj) (Nat.succ_lt_succ hk')
          (by rw [show a + (j + 1) = a + 1 + j by omega, show a + (k + 1) = a + 1 + k by omega]; exact h)
        omega)
      rw [show a + (i + 1) = a + 1 + i by omega, this]; rfl

theorem State.byte_write (s : State) (a i : Nat) (bs : List Byte) (hi : i < bs.length)
    (hk : ∀ j k, j < bs.length → k < bs.length → memKey (a + j) = memKey (a + k) → j = k) :
    (s.write a bs).byte (a + i) = bs[i] := by
  rw [State.byte_of_mem (State.mem_write ..), State.byte_storeBytes _ _ _ _ hi hk]

end Sys2Proof.Machine
end

