-- ==== Sys2Proof/Laws/MovesOperands.lean ====
section
/-!
SUPPORT. What each definition of Machine/Operands.lean may change: one Moves lemma each.
-/
set_option Elab.async false
set_option linter.all false

namespace Sys2Proof.Machine

open Sys2Proof

theorem State.accWrite_moves (s : State) (d g acc m n i j : Nat) (comp : Bool) (x : AccEl) : Moves 0x30 s (State.accWrite s d g acc m n i j comp x) := by
  unfold State.accWrite; with_reducible repeat' first | exact .refl _ | (apply Moves.step; (first | apply State.setPoison_moves | apply State.storeBytes_moves); decide) | refine Moves.ite (fun _ => ?_) (fun _ => ?_) | dsimp only | extract_lets | split

end Sys2Proof.Machine
end

