-- ==== Sys2Proof/Laws/MovesAccOps.lean ====
section
/-!
SUPPORT. What each definition of Machine/AccOps.lean may change: one Moves lemma each.
-/
set_option Elab.async false
set_option linter.all false

namespace Sys2Proof.Machine

open Sys2Proof

theorem State.updCore_moves (s : State) (d g : Nat) (f : Core → Core) : Moves 0x40 s (State.updCore s d g f) := by
  unfold State.updCore; with_reducible repeat' first | exact .refl _ | (apply Moves.step; apply State.setCore_moves; decide) | dsimp only

theorem State.foldTile_moves (s : State) (d g acc m n : Nat) (md : AccMode) (levels : Nat) (overF : Bool) (slices : Nat → Nat → List Slice) : Moves 0x30 s (State.foldTile s d g acc m n md levels overF slices).1 := by
  unfold State.foldTile; with_reducible repeat' first | exact .refl _ | dsimp only | (apply Moves.step; apply State.accWrite_moves; decide) | refine Moves.foldl _ _ (fun _ _ => ?_) ?_ | refine Moves.foldl₁ _ _ (fun _ _ => ?_) ?_ | extract_lets | split

theorem State.zeroTile_moves (s : State) (d g acc m n : Nat) (comp : Bool) : Moves 0x30 s (State.zeroTile s d g acc m n comp) := by
  unfold State.zeroTile; with_reducible repeat' first | exact .refl _ | (apply Moves.step; apply State.accWrite_moves; decide) | refine Moves.foldl _ _ (fun _ _ => ?_) ?_ | refine Moves.foldl₁ _ _ (fun _ _ => ?_) ?_ | dsimp only

theorem State.mmaTile_moves (s : State) (d g : Nat) (e : TqEntry) : Moves 0x30 s (State.mmaTile s d g e).1 := by
  unfold State.mmaTile; with_reducible repeat' first | exact .refl _ | dsimp only | (apply Moves.step; (first | apply State.foldTile_moves | apply State.zeroTile_moves); decide) | refine Moves.ite (fun _ => ?_) (fun _ => ?_) | refine Moves.foldl _ _ (fun _ _ => ?_) ?_ | refine Moves.foldl₁ _ _ (fun _ _ => ?_) ?_ | extract_lets | split

theorem State.pair3Tile_moves (s : State) (d g : Nat) (e : TqEntry) : Moves 0x30 s (State.pair3Tile s d g e).1 := by
  unfold State.pair3Tile; with_reducible repeat' first | exact .refl _ | dsimp only | (apply Moves.step; (first | apply State.foldTile_moves | apply State.zeroTile_moves); decide) | refine Moves.ite (fun _ => ?_) (fun _ => ?_) | refine Moves.foldl _ _ (fun _ _ => ?_) ?_ | refine Moves.foldl₁ _ _ (fun _ _ => ?_) ?_ | extract_lets | split

theorem State.convTile_moves (s : State) (d g : Nat) (e : TqEntry) : Moves 0x30 s (State.convTile s d g e).1 := by
  unfold State.convTile; with_reducible repeat' first | exact .refl _ | dsimp only | (apply Moves.step; (first | apply State.foldTile_moves | apply State.zeroTile_moves); decide) | refine Moves.ite (fun _ => ?_) (fun _ => ?_) | refine Moves.foldl _ _ (fun _ _ => ?_) ?_ | refine Moves.foldl₁ _ _ (fun _ _ => ?_) ?_ | extract_lets | split

theorem State.outPoison_moves (s : State) (e : TqEntry) (m n i j second : Nat) : Moves 0x20 s (State.outPoison s e m n i j second) := by
  unfold State.outPoison; with_reducible repeat' first | exact .refl _ | (apply Moves.step; apply State.setPoison_moves; decide) | refine Moves.ite (fun _ => ?_) (fun _ => ?_) | dsimp only | extract_lets | split

theorem State.outArray_moves (s : State) (e : TqEntry) (m n base : Nat) (code : Nat → Nat → Nat) (scale : Nat → Nat → Nat) : Moves 0x30 s (State.outArray s e m n base code scale) := by
  unfold State.outArray; with_reducible repeat' first | exact .refl _ | (apply Moves.step; apply State.write_moves; decide) | refine Moves.foldl _ _ (fun _ _ => ?_) ?_ | refine Moves.foldl₁ _ _ (fun _ _ => ?_) ?_ | (apply Moves.fst; assumption) | (apply Moves.snd; assumption) | dsimp only | extract_lets | split

theorem State.accRdTile_moves (s : State) (d g : Nat) (e : TqEntry) : Moves 0x30 s (State.accRdTile s d g e).1 := by
  unfold State.accRdTile; with_reducible repeat' first | exact .refl _ | dsimp only | (apply Moves.step; (first | apply State.outArray_moves | apply State.outPoison_moves | apply State.zeroTile_moves); decide) | refine Moves.ite (fun _ => ?_) (fun _ => ?_) | refine Moves.foldl _ _ (fun _ _ => ?_) ?_ | refine Moves.foldl₁ _ _ (fun _ _ => ?_) ?_ | extract_lets | split

theorem State.accWrTile_moves (s : State) (d g : Nat) (e : TqEntry) : Moves 0x30 s (State.accWrTile s d g e).1 := by
  unfold State.accWrTile; with_reducible repeat' first | exact .refl _ | dsimp only | (apply Moves.step; apply State.accWrite_moves; decide) | refine Moves.ite (fun _ => ?_) (fun _ => ?_) | refine Moves.foldl _ _ (fun _ _ => ?_) ?_ | refine Moves.foldl₁ _ _ (fun _ _ => ?_) ?_ | extract_lets | split

theorem State.tileAddAll_moves (s : State) (d g : Nat) (e : TqEntry) : Moves 0x30 s (State.tileAddAll s d g e).1 := by
  unfold State.tileAddAll; with_reducible repeat' first | exact .refl _ | dsimp only | (apply Moves.step; apply State.accWrite_moves; decide) | refine Moves.foldl _ _ (fun _ _ => ?_) ?_ | refine Moves.foldl₁ _ _ (fun _ _ => ?_) ?_ | extract_lets | split

theorem State.addEcc_moves (s : State) (d g : Nat) (errs : List AccErr) : Moves 0x40 s (State.addEcc s d g errs) := by
  unfold State.addEcc; with_reducible repeat' first | exact .refl _ | (apply Moves.step; apply State.updCore_moves; decide) | refine Moves.ite (fun _ => ?_) (fun _ => ?_) | dsimp only | split

theorem State.dropEcc_moves (s : State) (d g : Nat) (blocks : List (Nat × Nat)) : Moves 0x40 s (State.dropEcc s d g blocks) := by
  unfold State.dropEcc; with_reducible repeat' first | exact .refl _ | (apply Moves.step; apply State.updCore_moves; decide) | dsimp only

theorem State.eccErrors_moves (s : State) (d g : Nat) (blocks : List (Nat × Nat)) : Moves 0x10000060 s (State.eccErrors s d g blocks) := by
  unfold State.eccErrors; with_reducible repeat' first | exact .refl _ | (apply Moves.step; (first | apply State.dropEcc_moves | apply State.raise_moves | apply State.setPoison_moves); decide) | refine Moves.ite (fun _ => ?_) (fun _ => ?_) | refine Moves.foldl _ _ (fun _ _ => ?_) ?_ | refine Moves.foldl₁ _ _ (fun _ _ => ?_) ?_ | dsimp only | split

theorem State.accEffect_moves (s : State) (d g : Nat) (e : TqEntry) : Moves 0x30 s (State.accEffect s d g e).1 := by
  unfold State.accEffect; with_reducible repeat' first | exact .refl _ | dsimp only | (apply Moves.step; (first | apply State.accRdTile_moves | apply State.accWrTile_moves | apply State.convTile_moves | apply State.mmaTile_moves | apply State.pair3Tile_moves | apply State.tileAddAll_moves); decide) | (apply Moves.fst; assumption) | (apply Moves.snd; assumption) | split

theorem State.eccSpread_moves (s : State) (d g : Nat) (e : TqEntry) (errs : List AccErr) : Moves 0x20 s (State.eccSpread s d g e errs) := by
  unfold State.eccSpread; with_reducible repeat' first | exact .refl _ | (apply Moves.step; apply State.setPoison_moves; decide) | refine Moves.ite (fun _ => ?_) (fun _ => ?_) | refine Moves.foldl _ _ (fun _ _ => ?_) ?_ | refine Moves.foldl₁ _ _ (fun _ _ => ?_) ?_ | dsimp only | extract_lets | split

theorem State.dropWritten_moves (s : State) (d g : Nat) (e : TqEntry) : Moves 0x40 s (State.dropWritten s d g e) := by
  unfold State.dropWritten; with_reducible repeat' first | exact .refl _ | (apply Moves.step; apply State.dropEcc_moves; decide) | refine Moves.ite (fun _ => ?_) (fun _ => ?_) | dsimp only | split

theorem State.accRun_moves (s : State) (d g : Nat) (e : TqEntry) (errs : List AccErr) : Moves 0x10000070 s (State.accRun s d g e errs).1 := by
  unfold State.accRun; with_reducible repeat' first | exact .refl _ | dsimp only | (apply Moves.step; (first | apply State.accEffect_moves | apply State.addEcc_moves | apply State.dropWritten_moves | apply State.eccErrors_moves | apply State.eccSpread_moves); decide) | refine Moves.ite (fun _ => ?_) (fun _ => ?_) | extract_lets | split

theorem State.repaceDie_moves (s : State) (d k k' : Nat) : Moves 0x40 s (State.repaceDie s d k k') := by
  unfold State.repaceDie; with_reducible repeat' first | exact .refl _ | (apply Moves.step; apply State.setCore_moves; decide) | refine Moves.ite (fun _ => ?_) (fun _ => ?_) | refine Moves.foldl _ _ (fun _ _ => ?_) ?_ | refine Moves.foldl₁ _ _ (fun _ _ => ?_) ?_ | dsimp only | split

theorem State.startRouted_moves (s : State) (d g : Nat) (r : VecRun) (o : AccOp) : Moves 0x10000078 s (State.startRouted s d g r o) := by
  unfold State.startRouted; with_reducible repeat' first | exact .refl _ | (apply Moves.step; (first | apply State.accRun_moves | apply State.updCore_moves | apply State.vecFlags_moves); decide) | refine Moves.foldl _ _ (fun _ _ => ?_) ?_ | refine Moves.foldl₁ _ _ (fun _ _ => ?_) ?_ | dsimp only | extract_lets | split

theorem State.settleVec_moves (s : State) (d g : Nat) : Moves 0x10000078 s (State.settleVec s d g) := by
  unfold State.settleVec; with_reducible repeat' first | exact .refl _ | (apply Moves.step; (first | apply State.startRouted_moves | apply State.updCore_moves); decide) | refine Moves.ite (fun _ => ?_) (fun _ => ?_) | (apply Moves.fst; assumption) | (apply Moves.snd; assumption) | dsimp only | split

theorem State.settleAcc_moves (s : State) (d g : Nat) : Moves 0x10000078 s (State.settleAcc s d g) := by
  unfold State.settleAcc; with_reducible repeat' first | exact .refl _ | (apply Moves.step; (first | apply State.accRun_moves | apply State.addF_moves | apply State.arrFlags_moves | apply State.updCore_moves); decide) | refine Moves.ite (fun _ => ?_) (fun _ => ?_) | refine Moves.foldl _ _ (fun _ _ => ?_) ?_ | refine Moves.foldl₁ _ _ (fun _ _ => ?_) ?_ | (apply Moves.fst; assumption) | (apply Moves.snd; assumption) | dsimp only | extract_lets | split

theorem State.retireAcc_moves (s : State) (d g : Nat) : Moves 0x40 s (State.retireAcc s d g) := by
  unfold State.retireAcc; with_reducible repeat' first | exact .refl _ | (apply Moves.step; apply State.updCore_moves; decide) | refine Moves.ite (fun _ => ?_) (fun _ => ?_) | dsimp only | split

theorem State.settlePipes_moves (s : State) (d g : Nat) : Moves 0x10000078 s (State.settlePipes s d g) := by
  unfold State.settlePipes; with_reducible repeat' first | exact .refl _ | (apply Moves.step; (first | apply State.retireAcc_moves | apply State.settleAcc_moves | apply State.settleVec_moves); decide) | dsimp only

theorem State.accEnter_moves (s : State) (d g : Nat) (e : TqEntry) (errs : List AccErr) : MovesP 0x10000078 s (State.accEnter s d g e errs) := by
  unfold State.accEnter; with_reducible repeat' first | exact .refl _ | refine MovesP.some ?_ | exact MovesP.none | refine MovesP.ite (fun _ => ?_) (fun _ => ?_) | (apply Moves.step; (first | apply State.settlePipes_moves | apply State.updCore_moves); decide) | refine Moves.ite (fun _ => ?_) (fun _ => ?_) | dsimp only | split

theorem State.routeEnter_moves (s : State) (d g : Nat) (e : TqEntry) (errs : List AccErr) : MovesP 0x10000078 s (State.routeEnter s d g e errs) := by
  unfold State.routeEnter; with_reducible repeat' first | exact .refl _ | refine MovesP.some ?_ | exact MovesP.none | refine MovesP.ite (fun _ => ?_) (fun _ => ?_) | (apply Moves.step; (first | apply State.settlePipes_moves | apply State.updCore_moves); decide) | refine Moves.ite (fun _ => ?_) (fun _ => ?_) | dsimp only | split

end Sys2Proof.Machine
end

