-- ==== Sys2Proof/Laws/MovesRegOps.lean ====
section
/-!
SUPPORT. What each definition of Machine/RegOps.lean may change: one Moves lemma each.
-/
set_option Elab.async false
set_option linter.all false

namespace Sys2Proof.Machine

open Sys2Proof

theorem kRising_foldl {m : KMap Word} {α : Type} (l : List α) (f : KMap Word → α → KMap Word)
    (hf : ∀ u x, kRising 0 u = true → kRising 0 (f u x) = true) (h : kRising 0 m = true) : kRising 0 (l.foldl f m) = true := by
  induction l generalizing m with
  | nil => exact h
  | cons x l ih => exact ih (hf m x h)

theorem State.resetRegs_moves (s : State) (ls : List ResetLetter) (scope : RegRow → Nat → Nat → Bool) :
    Moves 0x8 s (State.resetRegs s ls scope) := by
  refine (Moves.refl s).special (Nat.le_refl _) (Nat.le_refl _) List.prefix_rfl (fun h => ?_) id
    (.inl rfl) (.inl rfl) (.inl rfl) (.inr rfl) (.inl rfl)
  refine kRising_foldl _ _ (fun u x hu => ?_) h
  split
  · split
    · exact kRising_kset hu
    · exact hu
  · exact hu

theorem State.resetCoreRegs_moves (s : State) (d g : Nat) : Moves 0x8 s (State.resetCoreRegs s d g) := by
  unfold State.resetCoreRegs; with_reducible repeat' first | exact .refl _ | (apply Moves.step; apply State.resetRegs_moves; decide) | dsimp only

theorem State.resetPortRegs_moves (s : State) (d p : Nat) : Moves 0x8 s (State.resetPortRegs s d p) := by
  unfold State.resetPortRegs; with_reducible repeat' first | exact .refl _ | (apply Moves.step; apply State.resetRegs_moves; decide) | dsimp only

theorem State.resetDieRegs_moves (s : State) (d : Nat) : Moves 0x8 s (State.resetDieRegs s d) := by
  unfold State.resetDieRegs; with_reducible repeat' first | exact .refl _ | (apply Moves.step; apply State.resetRegs_moves; decide) | dsimp only

theorem State.resetFunctionRegs_moves (s : State) : Moves 0x8 s (State.resetFunctionRegs s) := by
  unfold State.resetFunctionRegs; with_reducible repeat' first | exact .refl _ | (apply Moves.step; apply State.resetRegs_moves; decide) | dsimp only

theorem State.resetPackageRegs_moves (s : State) : Moves 0x8 s (State.resetPackageRegs s) := by
  unfold State.resetPackageRegs; with_reducible repeat' first | exact .refl _ | (apply Moves.step; apply State.resetRegs_moves; decide) | dsimp only

theorem State.resetPowerRegs_moves (s : State) : Moves 0x8 s (State.resetPowerRegs s) := by
  unfold State.resetPowerRegs; with_reducible repeat' first | exact .refl _ | (apply Moves.step; apply State.resetRegs_moves; decide) | dsimp only

theorem State.resetRefugeRegs_moves (s : State) : Moves 0x8 s (State.resetRefugeRegs s) := by
  unfold State.resetRefugeRegs; with_reducible repeat' first | exact .refl _ | (apply Moves.step; apply State.resetRegs_moves; decide) | dsimp only

end Sys2Proof.Machine
end

