-- ==== Sys2Proof/Laws/MovesTileQueue.lean ====
section
/-!
SUPPORT. What each definition of Machine/TileQueue.lean may change: one Moves lemma each.
-/
set_option Elab.async false
set_option linter.all false

namespace Sys2Proof.Machine

open Sys2Proof

theorem State.spurTrap_moves (s : State) (d g cause : Nat) : Moves 0x40 s (State.spurTrap s d g cause) := by
  unfold State.spurTrap; with_reducible repeat' first | exact .refl _ | (apply Moves.step; apply State.updCore_moves; decide) | dsimp only

theorem State.spurInterrupt_moves (s : State) (d g : Nat) : Moves 0x44 s (State.spurInterrupt s d g) := by
  unfold State.spurInterrupt; with_reducible repeat' first | exact .refl _ | (apply Moves.step; (first | apply State.emit_moves | apply State.updCore_moves); decide) | dsimp only

theorem State.tqStop_moves (s : State) (d g : Nat) (e : TqEntry) (code : Nat) : Moves 0x4c s (State.tqStop s d g e code) := by
  unfold State.tqStop; with_reducible repeat' first | exact .refl _ | (apply Moves.step; (first | apply State.setF_moves | apply State.spurInterrupt_moves); decide) | dsimp only

theorem State.settleHead_moves (s : State) (d g : Nat) : Moves 0x4c s (State.settleHead s d g) := by
  unfold State.settleHead; with_reducible repeat' first | exact .refl _ | (apply Moves.step; apply State.tqStop_moves; decide) | refine Moves.ite (fun _ => ?_) (fun _ => ?_) | (apply Moves.fst; assumption) | (apply Moves.snd; assumption) | dsimp only | split

theorem State.popHead_moves (s : State) (d g : Nat) : Moves 0x4c s (State.popHead s d g) := by
  unfold State.popHead; with_reducible repeat' first | exact .refl _ | (apply Moves.step; (first | apply State.settleHead_moves | apply State.updCore_moves); decide) | (apply Moves.fst; assumption) | (apply Moves.snd; assumption) | dsimp only | extract_lets | split

theorem State.issue_moves {m : Nat} (s : State) (d g opc : Nat) (run : TqEntry → Option State)
    (hr : ∀ e t, run e = some t → Moves m s t) (hm : 0x4c &&& m = 0x4c) : Moves m s (s.issue d g opc run) := by
  unfold State.issue
  split
  · exact .refl s
  · split
    · exact .refl s
    · refine .ite (fun _ => .refl s) (fun _ => ?_)
      split
      · exact (State.tqStop_moves ..).mono hm
      · split
        · exact (State.popHead_moves ..).step hm (hr _ _ ‹_›)
        · exact .refl s

theorem State.signalEc_moves (s : State) (d g : Nat) (e : TqEntry) : Moves 0x40 s (State.signalEc s d g e) := by
  unfold State.signalEc; with_reducible repeat' first | exact .refl _ | (apply Moves.step; apply State.updCore_moves; decide) | dsimp only

theorem State.coreRun_moves (s : State) (d g : Nat) (run : Bool) : Moves 0x48 s (State.coreRun s d g run) := by
  unfold State.coreRun; with_reducible repeat' first | exact .refl _ | (apply Moves.step; (first | apply State.setF_moves | apply State.updCore_moves); decide) | refine Moves.ite (fun _ => ?_) (fun _ => ?_) | dsimp only | split

end Sys2Proof.Machine
end

