-- ==== Sys2Proof/Laws/MovesCrest.lean ====
section
/-!
SUPPORT. What each definition of Machine/Crest.lean may change: one Moves lemma each.
-/
set_option Elab.async false
set_option linter.all false

namespace Sys2Proof.Machine

open Sys2Proof

theorem State.vecFault_moves (s : State) (d g : Nat) (r : VecRun) (code pc : Nat) : Moves 0x1000004c s (State.vecFault s d g r code pc) := by
  unfold State.vecFault; with_reducible repeat' first | exact .refl _ | (apply Moves.step; (first | apply State.raise_moves | apply State.setF_moves | apply State.spurInterrupt_moves); decide) | refine Moves.ite (fun _ => ?_) (fun _ => ?_) | dsimp only | extract_lets | split

theorem State.endRun_moves (s : State) (d g : Nat) (r : VecRun) : Moves 0x10000078 s (State.endRun s d g r) := by
  unfold State.endRun; with_reducible repeat' first | exact .refl _ | (apply Moves.step; (first | apply State.addF_moves | apply State.settlePipes_moves | apply State.updCore_moves); decide) | dsimp only

theorem execVecRun_moves (d : Fin 4) (g : Fin 96) (s : State) : MovesO 0x4c s (execVecRun d g s) := by
  unfold execVecRun; with_reducible repeat' first | exact .refl _ | apply MovesO.next | refine MovesO.ite (fun _ => ?_) (fun _ => ?_) | refine MovesP.some ?_ | exact MovesP.none | refine MovesP.ite (fun _ => ?_) (fun _ => ?_) | refine State.issue_moves _ _ _ _ _ (fun _ => ?_) (by decide) | (apply Moves.step; apply State.updCore_moves; decide) | refine Moves.ite (fun _ => ?_) (fun _ => ?_) | dsimp only | extract_lets | split

theorem execVecRunBegin_moves (d : Fin 4) (g : Fin 96) (s : State) : MovesO 0x1000007c s (execVecRunBegin d g s) := by
  unfold execVecRunBegin; with_reducible repeat' first | exact .refl _ | apply MovesO.next | refine MovesO.ite (fun _ => ?_) (fun _ => ?_) | (apply Moves.step; (first | apply State.endRun_moves | apply State.satF_moves | apply State.updCore_moves | apply State.vecFault_moves); decide) | refine Moves.ite (fun _ => ?_) (fun _ => ?_) | (apply Moves.fst; assumption) | (apply Moves.snd; assumption) | dsimp only | split

theorem execVecRunComplete_moves (d : Fin 4) (g : Fin 96) (s : State) : MovesO 0x10000078 s (execVecRunComplete d g s) := by
  unfold execVecRunComplete; with_reducible repeat' first | exact .refl _ | apply MovesO.next | refine MovesO.ite (fun _ => ?_) (fun _ => ?_) | apply MovesO.fault | (apply Moves.step; (first | apply State.addF_moves | apply State.endRun_moves | apply State.updCore_moves | apply State.vecFlags_moves); decide) | refine Moves.ite (fun _ => ?_) (fun _ => ?_) | refine Moves.foldl _ _ (fun _ _ => ?_) ?_ | refine Moves.foldl₁ _ _ (fun _ _ => ?_) ?_ | (apply Moves.fst; assumption) | (apply Moves.snd; assumption) | dsimp only | extract_lets | split

theorem State.crestStep_moves {m : Nat} (s : State) (d g op : Nat)
    (eff : VecRun → Nat → (Nat ⊕ (State × VecRun × Bool))) (ha : ∀ r w x, eff r w = .inr x → Moves m s x.1)
    (hm : 0x1000004c &&& m = 0x1000004c) : Moves m s (s.crestStep d g op eff) := by
  unfold State.crestStep
  refine .ite (fun _ => .refl s) (fun _ => ?_)
  split
  · exact .refl s
  · refine .ite (fun _ => .refl s) (fun _ => ?_)
    extract_lets w
    refine .ite (fun _ => .refl s) (fun _ => ?_)
    split
    · exact (State.updCore_moves ..).step (sub_trans (by decide) hm) ((State.vecFault_moves ..).mono (sub_trans (by decide) hm))
    · exact (State.updCore_moves ..).step (sub_trans (by decide) hm)
        ((State.addF_moves ..).step (sub_trans (by decide) hm) (ha _ _ _ ‹_›))

theorem State.crestIssue_moves (s : State) (d g op : Nat) (fn : CrestFn) : Moves 0x1000004c s (s.crestIssue d g op fn) := by
  unfold State.crestIssue
  refine State.crestStep_moves (m := 0x1000004c) _ _ _ _ _ (fun r w x h => ?_) (by decide)
  injection h with h; subst h
  dsimp only; exact .mono (m := 0x40) (by decide) (State.updCore_moves ..)

theorem execVadd_moves (d : Fin 4) (g : Fin 96) (s : State) : MovesO 0x1000004c s (execVadd d g s) := by
  unfold execVadd; with_reducible repeat' first | exact .refl _ | apply MovesO.next | (apply Moves.step; apply State.crestIssue_moves; decide) | dsimp only

theorem execVsub_moves (d : Fin 4) (g : Fin 96) (s : State) : MovesO 0x1000004c s (execVsub d g s) := by
  unfold execVsub; with_reducible repeat' first | exact .refl _ | apply MovesO.next | (apply Moves.step; apply State.crestIssue_moves; decide) | dsimp only

theorem execVmul_moves (d : Fin 4) (g : Fin 96) (s : State) : MovesO 0x1000004c s (execVmul d g s) := by
  unfold execVmul; with_reducible repeat' first | exact .refl _ | apply MovesO.next | (apply Moves.step; apply State.crestIssue_moves; decide) | dsimp only

theorem execVfma_moves (d : Fin 4) (g : Fin 96) (s : State) : MovesO 0x1000004c s (execVfma d g s) := by
  unfold execVfma; with_reducible repeat' first | exact .refl _ | apply MovesO.next | (apply Moves.step; apply State.crestIssue_moves; decide) | dsimp only

theorem execVfnma_moves (d : Fin 4) (g : Fin 96) (s : State) : MovesO 0x1000004c s (execVfnma d g s) := by
  unfold execVfnma; with_reducible repeat' first | exact .refl _ | apply MovesO.next | (apply Moves.step; apply State.crestIssue_moves; decide) | dsimp only

theorem execVmin_moves (d : Fin 4) (g : Fin 96) (s : State) : MovesO 0x1000004c s (execVmin d g s) := by
  unfold execVmin; with_reducible repeat' first | exact .refl _ | apply MovesO.next | (apply Moves.step; apply State.crestIssue_moves; decide) | dsimp only

theorem execVmax_moves (d : Fin 4) (g : Fin 96) (s : State) : MovesO 0x1000004c s (execVmax d g s) := by
  unfold execVmax; with_reducible repeat' first | exact .refl _ | apply MovesO.next | (apply Moves.step; apply State.crestIssue_moves; decide) | dsimp only

theorem execVabs_moves (d : Fin 4) (g : Fin 96) (s : State) : MovesO 0x1000004c s (execVabs d g s) := by
  unfold execVabs; with_reducible repeat' first | exact .refl _ | apply MovesO.next | (apply Moves.step; apply State.crestIssue_moves; decide) | dsimp only

theorem execVneg_moves (d : Fin 4) (g : Fin 96) (s : State) : MovesO 0x1000004c s (execVneg d g s) := by
  unfold execVneg; with_reducible repeat' first | exact .refl _ | apply MovesO.next | (apply Moves.step; apply State.crestIssue_moves; decide) | dsimp only

theorem execVrcp_moves (d : Fin 4) (g : Fin 96) (s : State) : MovesO 0x1000004c s (execVrcp d g s) := by
  unfold execVrcp; with_reducible repeat' first | exact .refl _ | apply MovesO.next | (apply Moves.step; apply State.crestIssue_moves; decide) | dsimp only

theorem execVrsqrt_moves (d : Fin 4) (g : Fin 96) (s : State) : MovesO 0x1000004c s (execVrsqrt d g s) := by
  unfold execVrsqrt; with_reducible repeat' first | exact .refl _ | apply MovesO.next | (apply Moves.step; apply State.crestIssue_moves; decide) | dsimp only

theorem execVexp2_moves (d : Fin 4) (g : Fin 96) (s : State) : MovesO 0x1000004c s (execVexp2 d g s) := by
  unfold execVexp2; with_reducible repeat' first | exact .refl _ | apply MovesO.next | (apply Moves.step; apply State.crestIssue_moves; decide) | dsimp only

theorem execVlog2_moves (d : Fin 4) (g : Fin 96) (s : State) : MovesO 0x1000004c s (execVlog2 d g s) := by
  unfold execVlog2; with_reducible repeat' first | exact .refl _ | apply MovesO.next | (apply Moves.step; apply State.crestIssue_moves; decide) | dsimp only

theorem execVand_moves (d : Fin 4) (g : Fin 96) (s : State) : MovesO 0x1000004c s (execVand d g s) := by
  unfold execVand; with_reducible repeat' first | exact .refl _ | apply MovesO.next | (apply Moves.step; apply State.crestIssue_moves; decide) | dsimp only

theorem execVor_moves (d : Fin 4) (g : Fin 96) (s : State) : MovesO 0x1000004c s (execVor d g s) := by
  unfold execVor; with_reducible repeat' first | exact .refl _ | apply MovesO.next | (apply Moves.step; apply State.crestIssue_moves; decide) | dsimp only

theorem execVxor_moves (d : Fin 4) (g : Fin 96) (s : State) : MovesO 0x1000004c s (execVxor d g s) := by
  unfold execVxor; with_reducible repeat' first | exact .refl _ | apply MovesO.next | (apply Moves.step; apply State.crestIssue_moves; decide) | dsimp only

theorem execVshl_moves (d : Fin 4) (g : Fin 96) (s : State) : MovesO 0x1000004c s (execVshl d g s) := by
  unfold execVshl; with_reducible repeat' first | exact .refl _ | apply MovesO.next | (apply Moves.step; apply State.crestIssue_moves; decide) | dsimp only

theorem execVshr_moves (d : Fin 4) (g : Fin 96) (s : State) : MovesO 0x1000004c s (execVshr d g s) := by
  unfold execVshr; with_reducible repeat' first | exact .refl _ | apply MovesO.next | (apply Moves.step; apply State.crestIssue_moves; decide) | dsimp only

theorem execVcmp_moves (d : Fin 4) (g : Fin 96) (s : State) : MovesO 0x1000004c s (execVcmp d g s) := by
  unfold execVcmp; with_reducible repeat' first | exact .refl _ | apply MovesO.next | (apply Moves.step; apply State.crestIssue_moves; decide) | dsimp only

theorem execVsel_moves (d : Fin 4) (g : Fin 96) (s : State) : MovesO 0x1000004c s (execVsel d g s) := by
  unfold execVsel; with_reducible repeat' first | exact .refl _ | apply MovesO.next | (apply Moves.step; apply State.crestIssue_moves; decide) | dsimp only

theorem execPlog_moves (d : Fin 4) (g : Fin 96) (s : State) : MovesO 0x1000004c s (execPlog d g s) := by
  unfold execPlog; with_reducible repeat' first | exact .refl _ | apply MovesO.next | (apply Moves.step; apply State.crestIssue_moves; decide) | dsimp only

theorem execPack_moves (d : Fin 4) (g : Fin 96) (s : State) : MovesO 0x1000004c s (execPack d g s) := by
  unfold execPack; with_reducible repeat' first | exact .refl _ | apply MovesO.next | (apply Moves.step; apply State.crestIssue_moves; decide) | dsimp only

theorem execUnpack_moves (d : Fin 4) (g : Fin 96) (s : State) : MovesO 0x1000004c s (execUnpack d g s) := by
  unfold execUnpack; with_reducible repeat' first | exact .refl _ | apply MovesO.next | (apply Moves.step; apply State.crestIssue_moves; decide) | dsimp only

theorem execMxpack_moves (d : Fin 4) (g : Fin 96) (s : State) : MovesO 0x1000004c s (execMxpack d g s) := by
  unfold execMxpack; with_reducible repeat' first | exact .refl _ | apply MovesO.next | (apply Moves.step; apply State.crestIssue_moves; decide) | dsimp only

theorem execMxunpack_moves (d : Fin 4) (g : Fin 96) (s : State) : MovesO 0x1000004c s (execMxunpack d g s) := by
  unfold execMxunpack; with_reducible repeat' first | exact .refl _ | apply MovesO.next | (apply Moves.step; apply State.crestIssue_moves; decide) | dsimp only

theorem execM8enc_moves (d : Fin 4) (g : Fin 96) (s : State) : MovesO 0x1000004c s (execM8enc d g s) := by
  unfold execM8enc; with_reducible repeat' first | exact .refl _ | apply MovesO.next | (apply Moves.step; apply State.crestIssue_moves; decide) | dsimp only

theorem execM8dec_moves (d : Fin 4) (g : Fin 96) (s : State) : MovesO 0x1000004c s (execM8dec d g s) := by
  unfold execM8dec; with_reducible repeat' first | exact .refl _ | apply MovesO.next | (apply Moves.step; apply State.crestIssue_moves; decide) | dsimp only

theorem execVperm_moves (d : Fin 4) (g : Fin 96) (s : State) : MovesO 0x1000004c s (execVperm d g s) := by
  unfold execVperm; with_reducible repeat' first | exact .refl _ | apply MovesO.next | (apply Moves.step; apply State.crestIssue_moves; decide) | dsimp only

theorem execVshuf_moves (d : Fin 4) (g : Fin 96) (s : State) : MovesO 0x1000004c s (execVshuf d g s) := by
  unfold execVshuf; with_reducible repeat' first | exact .refl _ | apply MovesO.next | (apply Moves.step; apply State.crestIssue_moves; decide) | dsimp only

theorem execVred_moves (d : Fin 4) (g : Fin 96) (s : State) : MovesO 0x1000004c s (execVred d g s) := by
  unfold execVred; with_reducible repeat' first | exact .refl _ | apply MovesO.next | (apply Moves.step; apply State.crestIssue_moves; decide) | dsimp only

theorem execViota_moves (d : Fin 4) (g : Fin 96) (s : State) : MovesO 0x1000004c s (execViota d g s) := by
  unfold execViota; with_reducible repeat' first | exact .refl _ | apply MovesO.next | (apply Moves.step; apply State.crestIssue_moves; decide) | dsimp only

theorem execViter_moves (d : Fin 4) (g : Fin 96) (s : State) : MovesO 0x1000004c s (execViter d g s) := by
  unfold execViter; with_reducible repeat' first | exact .refl _ | apply MovesO.next | (apply Moves.step; apply State.crestIssue_moves; decide) | dsimp only

theorem execVmovh_moves (d : Fin 4) (g : Fin 96) (s : State) : MovesO 0x1000004c s (execVmovh d g s) := by
  unfold execVmovh; with_reducible repeat' first | exact .refl _ | apply MovesO.next | (apply Moves.step; apply State.crestIssue_moves; decide) | dsimp only

theorem execVmovl_moves (d : Fin 4) (g : Fin 96) (s : State) : MovesO 0x1000004c s (execVmovl d g s) := by
  unfold execVmovl; with_reducible repeat' first | exact .refl _ | apply MovesO.next | (apply Moves.step; apply State.crestIssue_moves; decide) | dsimp only

theorem execSum_moves (d : Fin 4) (g : Fin 96) (s : State) : MovesO 0x1000004c s (execSum d g s) := by
  unfold execSum; with_reducible repeat' first | exact .refl _ | apply MovesO.next | (apply Moves.step; apply State.crestIssue_moves; decide) | dsimp only

theorem State.crestLoad_moves {s : State} {d g : Nat} {r : VecRun} {w : Nat} {o : Option Nat} {x : State × VecRun × Bool}
    (h : s.crestLoad d g r w o = .inr x) : Moves 0x40 s x.1 := by
  cases o with
  | some code => cases h
  | none => injection h with h; subst h; dsimp only; exact .mono (m := 0x40) (by decide) (State.updCore_moves ..)

theorem execLd_moves (d : Fin 4) (g : Fin 96) (s : State) : MovesO 0x1000004c s (execLd d g s) :=
  .next (State.crestStep_moves (m := 0x1000004c) _ _ _ _ _
    (fun _ _ _ h => (State.crestLoad_moves h).mono (by decide)) (by decide))

theorem State.crestStore_moves {s : State} {d g : Nat} {r : VecRun} {w : Nat} {o : Option Nat} {x : State × VecRun × Bool}
    (h : s.crestStore d g r w o = .inr x) : Moves 0x30 s x.1 := by
  cases o with
  | some code => cases h
  | none => injection h with h; subst h; dsimp only; exact .mono (m := 0x30) (by decide) (State.writeMarked_moves ..)

theorem execSt_moves (d : Fin 4) (g : Fin 96) (s : State) : MovesO 0x1000007c s (execSt d g s) :=
  .next (State.crestStep_moves (m := 0x1000007c) _ _ _ _ _
    (fun _ _ _ h => (State.crestStore_moves h).mono (by decide)) (by decide))

theorem State.readSlot_moves (s : State) (d g rd n : Nat) : Moves 0x40 s (State.readSlot s d g rd n) := by
  unfold State.readSlot; with_reducible repeat' first | exact .refl _ | (apply Moves.step; (first | apply State.spurTrap_moves | apply State.updCore_moves); decide) | refine Moves.ite (fun _ => ?_) (fun _ => ?_) | dsimp only | extract_lets | split

theorem execVsRd_moves (d : Fin 4) (g : Fin 96) (insn : BitVec 32) (s : State) : MovesO 0x40 s (execVsRd d g insn s) := by
  unfold execVsRd; with_reducible repeat' first | exact .refl _ | apply MovesO.next | refine MovesO.ite (fun _ => ?_) (fun _ => ?_) | (apply Moves.step; (first | apply State.readSlot_moves | apply State.spurTrap_moves); decide) | refine Moves.ite (fun _ => ?_) (fun _ => ?_) | dsimp only | split

theorem execVsRdw_moves (d : Fin 4) (g : Fin 96) (insn : BitVec 32) (s : State) : MovesO 0x40 s (execVsRdw d g insn s) := by
  unfold execVsRdw; with_reducible repeat' first | exact .refl _ | apply MovesO.next | refine MovesO.ite (fun _ => ?_) (fun _ => ?_) | (apply Moves.step; (first | apply State.readSlot_moves | apply State.spurTrap_moves | apply State.updCore_moves); decide) | refine Moves.ite (fun _ => ?_) (fun _ => ?_) | dsimp only | extract_lets | split

theorem execVsRdwReturn_moves (d : Fin 4) (g : Fin 96) (s : State) : MovesO 0x40 s (execVsRdwReturn d g s) := by
  unfold execVsRdwReturn; with_reducible repeat' first | exact .refl _ | apply MovesO.next | refine MovesO.ite (fun _ => ?_) (fun _ => ?_) | (apply Moves.step; (first | apply State.readSlot_moves | apply State.updCore_moves); decide) | refine Moves.ite (fun _ => ?_) (fun _ => ?_) | (apply Moves.fst; assumption) | (apply Moves.snd; assumption) | dsimp only | extract_lets | split

end Sys2Proof.Machine
end

