-- ==== Sys2Proof/Laws/TileQueue.lean ====
section
/-!
SUPPORT. Laws of the tile queue: what changing one core, settling the head and popping it leave alone.
-/
set_option Elab.async false
namespace Sys2Proof.Machine

open Sys2Proof

@[simp] theorem State.coreOf_updCore (s : State) (d g : Nat) (f : Core → Core) :
    (s.updCore d g f).coreOf d g = f (s.coreOf d g) := State.core_setCore ..

theorem State.coreOf_updCore_ne (s : State) (d g k : Nat) (f : Core → Core) (h : k ≠ g) :
    (s.updCore d g f).coreOf d k = s.coreOf d k :=
  State.core_setCore_ne _ _ _ _ (by unfold globalCore; omega)

@[simp] theorem State.getF_updCore (s : State) (d g : Nat) (f : Core → Core) (x : Fld) (e j : Nat) :
    (s.updCore d g f).getF x e j = s.getF x e j := (rfl)
@[simp] theorem State.flag_updCore (s : State) (d g : Nat) (f : Core → Core) (x : Fld) (e j : Nat) :
    (s.updCore d g f).flag x e j = s.flag x e j := (rfl)
@[simp] theorem State.reg_updCore (s : State) (d g : Nat) (f : Core → Core) (x : Reg) (e j : Nat) :
    (s.updCore d g f).reg x e j = s.reg x e j := (rfl)
@[simp] theorem State.mem_updCore (s : State) (d g : Nat) (f : Core → Core) : (s.updCore d g f).mem = s.mem := (rfl)
@[simp] theorem State.byte_updCore (s : State) (d g : Nat) (f : Core → Core) (a : Nat) :
    (s.updCore d g f).byte a = s.byte a := (rfl)
@[simp] theorem State.coreOf_setF (s : State) (f : Fld) (d i x e g : Nat) : (s.setF f d i x).coreOf e g = s.coreOf e g := (rfl)
@[simp] theorem State.coreOf_emit (s : State) (k : MsgKind) (dst : Nat) (args : List Nat) (data : List Byte) (e g : Nat) :
    (s.emit k dst args data).coreOf e g = s.coreOf e g := (rfl)

/-- What a stop on a fault does to the core: only its interrupt rises. -/
theorem State.coreOf_tqStop (s : State) (d g : Nat) (e : TqEntry) (code : Nat) :
    (s.tqStop d g e code).coreOf d g = { s.coreOf d g with extIrq := true } := by
  simp [State.tqStop, State.spurInterrupt]

theorem State.coreOf_tqStop_ne (s : State) (d g k : Nat) (e : TqEntry) (code : Nat) (h : k ≠ g) :
    (s.tqStop d g e code).coreOf d k = s.coreOf d k := by
  simp [State.tqStop, State.spurInterrupt, State.coreOf_updCore_ne _ _ _ _ _ h]

@[simp] theorem State.mem_tqStop (s : State) (d g : Nat) (e : TqEntry) (code : Nat) : (s.tqStop d g e code).mem = s.mem :=
  (State.tqStop_moves ..).same .mem (by decide)
@[simp] theorem State.byte_tqStop (s : State) (d g : Nat) (e : TqEntry) (code a : Nat) :
    (s.tqStop d g e code).byte a = s.byte a := by unfold State.byte; rw [State.mem_tqStop]

/-- Settling the head changes a core at most in its interrupt. -/
theorem State.coreOf_settleHead (s : State) (d g k : Nat) :
    (s.settleHead d g).coreOf d k = s.coreOf d k ∨ (s.settleHead d g).coreOf d k = { s.coreOf d k with extIrq := true } := by
  unfold State.settleHead
  split
  · exact .inl rfl
  · split
    · exact .inl rfl
    · split
      · by_cases h : k = g
        · subst h; exact .inr (State.coreOf_tqStop ..)
        · exact .inl (State.coreOf_tqStop_ne _ _ _ _ _ _ h)
      · exact .inl rfl

@[simp] theorem State.mem_settleHead (s : State) (d g : Nat) : (s.settleHead d g).mem = s.mem :=
  (State.settleHead_moves ..).same .mem (by decide)

@[simp] theorem State.tq_settleHead (s : State) (d g k : Nat) : ((s.settleHead d g).coreOf d k).tq = (s.coreOf d k).tq := by
  rcases State.coreOf_settleHead s d g k with h | h <;> rw [h]
@[simp] theorem State.ec_settleHead (s : State) (d g k : Nat) : ((s.settleHead d g).coreOf d k).ec = (s.coreOf d k).ec := by
  rcases State.coreOf_settleHead s d g k with h | h <;> rw [h]
@[simp] theorem State.srblock_settleHead (s : State) (d g k : Nat) :
    ((s.settleHead d g).coreOf d k).srblock = (s.coreOf d k).srblock := by
  rcases State.coreOf_settleHead s d g k with h | h <;> rw [h]

@[simp] theorem State.mem_popHead (s : State) (d g : Nat) : (s.popHead d g).mem = s.mem :=
  (State.popHead_moves ..).same .mem (by decide)

/-- Popping the head leaves every event counter. -/
@[simp] theorem State.ec_popHead (s : State) (d g k : Nat) : ((s.popHead d g).coreOf d k).ec = (s.coreOf d k).ec := by
  unfold State.popHead
  simp only [State.ec_settleHead]
  by_cases h : k = g
  · subst h
    simp only [State.coreOf_updCore]
    split <;> rfl
  · rw [State.coreOf_updCore_ne _ _ _ _ _ h]

theorem State.head_cons {α : Type} {l : List α} {e : α} (h : l.head? = some e) : ∃ rest, l = e :: rest := by
  cases l with
  | nil => cases h
  | cons a l => injection h with h; subst h; exact ⟨l, rfl⟩

/-- What `issue` does with a word that may issue. -/
theorem State.issue_of (s : State) (d g opc : Nat) (e : TqEntry) (run : TqEntry → Option State) (t : State)
    (hl : s.coreLive d g = true) (hs : s.tqStopped d g = false) (hh : (s.coreOf d g).held = false)
    (hw : s.windowWaits d g = false) (hq : (s.coreOf d g).tq.head? = some e) (ho : e.opc = opc) (hf : s.tqFault d g e = none) (hr : run e = some t) :
    s.issue d g opc run = t.popHead d g := by
  obtain ⟨rest, hq⟩ := State.head_cons hq
  simp [State.issue, hl, hs, hh, hw, hq, ho, hf, hr]

/-- What `issue` does with a word that breaks a rule. -/
theorem State.issue_fault (s : State) (d g opc code : Nat) (e : TqEntry) (run : TqEntry → Option State)
    (hl : s.coreLive d g = true) (hs : s.tqStopped d g = false) (hh : (s.coreOf d g).held = false)
    (hw : s.windowWaits d g = false) (hq : (s.coreOf d g).tq.head? = some e) (ho : e.opc = opc) (hf : s.tqFault d g e = some code) :
    s.issue d g opc run = s.tqStop d g e code := by
  obtain ⟨rest, hq⟩ := State.head_cons hq
  simp [State.issue, hl, hs, hh, hw, hq, ho, hf]

end Sys2Proof.Machine
end

