-- ==== Sys2Proof/Laws/Crest.lean ====
section
/-!
SUPPORT. Laws of the vector engine: what the next instruction of a run does, and what a vector fault does.
-/
set_option Elab.async false
namespace Sys2Proof.Machine

open Sys2Proof

/-- The next instruction takes effect. -/
theorem State.crestStep_of {s : State} {d g op : Nat} {r : VecRun} {w : Nat} (h : s.CrestNext d g op r w)
    (eff : VecRun → Nat → (Nat ⊕ (State × VecRun × Bool))) (x : State × VecRun × Bool) (hx : eff r w = .inr x) :
    s.crestStep d g op eff = (x.1.addF VEC_ACTIVE_CYCLES d g 1).updCore d g fun c => c.setRun (x.2.1.advance w x.2.2 (s.pace d)) := by
  obtain ⟨hp, hv, hb, hd, hw, ho⟩ := h
  obtain ⟨rest, hv⟩ := State.head_cons hv
  have hw := hw.symm
  unfold State.crestStep
  simp only [hp, hv, hb, hd, hw, ho, hx]
  simp

/-- The next instruction faults at its access. -/
theorem State.crestStep_fault {s : State} {d g op : Nat} {r : VecRun} {w : Nat} (h : s.CrestNext d g op r w)
    (eff : VecRun → Nat → (Nat ⊕ (State × VecRun × Bool))) (code : Nat) (hx : eff r w = .inl code) :
    s.crestStep d g op eff =
      (s.vecFault d g r code r.pc).updCore d g fun c => c.setRun { r with faulted := true, done := true } := by
  obtain ⟨hp, hv, hb, hd, hw, ho⟩ := h
  obtain ⟨rest, hv⟩ := State.head_cons hv
  have hw := hw.symm
  unfold State.crestStep
  simp only [hp, hv, hb, hd, hw, ho, hx]
  simp

@[simp] theorem State.coreOf_writeMarked (s : State) (a : Nat) (bs : List Byte) (ps : List Bool) (d g : Nat) :
    (s.writeMarked a bs ps).coreOf d g = s.coreOf d g := by
  have h : (s.writeMarked a bs ps).cores = s.cores := (State.writeMarked_moves ..).same .cores (by decide)
  unfold State.coreOf State.core; rw [h]

@[simp] theorem State.coreOf_addF (s : State) (f : Fld) (d i n e g : Nat) : (s.addF f d i n).coreOf e g = s.coreOf e g := (rfl)
@[simp] theorem State.coreOf_satF (s : State) (f : Fld) (d i n e g : Nat) : (s.satF f d i n).coreOf e g = s.coreOf e g := (rfl)

@[simp] theorem State.coreOf_raise (s : State) (a b c e f x y z d g : Nat) :
    (s.raise a b c e f x y z).coreOf d g = s.coreOf d g := (rfl)

/-- A vector fault changes of a core only its interrupt. -/
theorem State.coreOf_vecFault (s : State) (d g : Nat) (r : VecRun) (code pc : Nat) :
    (s.vecFault d g r code pc).coreOf d g = { s.coreOf d g with extIrq := true } := by
  unfold State.vecFault
  dsimp only
  repeat' split
  all_goals simp [State.spurInterrupt]

end Sys2Proof.Machine
end

