-- ==== Sys2Proof/Laws/MovesPacketOps.lean ====
section
/-!
SUPPORT. What each definition of Machine/PacketOps.lean may change: one Moves lemma each.
-/
set_option Elab.async false
set_option linter.all false

namespace Sys2Proof.Machine

open Sys2Proof

theorem State.sendPacket_moves (s : State) (kind : MsgKind) (d : Nat) (h : Header) (payload : List Byte) (marks : List Bool) : Moves 0x4 s (State.sendPacket s kind d h payload marks) := by
  unfold State.sendPacket; with_reducible repeat' first | exact .refl _ | (apply Moves.step; apply State.sends_moves; decide) | dsimp only

theorem State.mgmt_moves (s : State) (op dst : Nat) (fields : List Nat) : Moves 0x4 s (State.mgmt s op dst fields) := by
  unfold State.mgmt; with_reducible repeat' first | exact .refl _ | (apply Moves.step; apply State.sends_moves; decide) | dsimp only

theorem State.setPort_moves (s : State) (p : Nat) (x : Port) : Moves 0x100000 s (State.setPort s p x) := by
  unfold State.setPort; with_reducible repeat' first | exact .refl _ | (apply Moves.step; apply State.setFabric_moves; decide) | dsimp only

theorem State.noteTerm_moves (s : State) (term : Nat) : Moves 0x100008 s (State.noteTerm s term) := by
  unfold State.noteTerm; with_reducible repeat' first | exact .refl _ | (apply Moves.step; (first | apply State.setF_moves | apply State.setFabric_moves); decide) | refine Moves.ite (fun _ => ?_) (fun _ => ?_) | dsimp only | extract_lets | split

theorem State.linkReport_moves (s : State) (p : Nat) : Moves 0x4 s (State.linkReport s p) := by
  unfold State.linkReport; with_reducible repeat' first | exact .refl _ | (apply Moves.step; apply State.mgmt_moves; decide) | refine Moves.ite (fun _ => ?_) (fun _ => ?_) | dsimp only | split

theorem State.linkTell_moves (s : State) (p : Nat) (dead : Bool) : Moves 0x4 s (State.linkTell s p dead) := by
  unfold State.linkTell; with_reducible repeat' first | exact .refl _ | (apply Moves.step; apply State.linkReport_moves; decide) | refine Moves.ite (fun _ => ?_) (fun _ => ?_) | dsimp only | split

end Sys2Proof.Machine
end

