-- ==== Sys2Proof/Laws/MovesFabricOps.lean ====
section
/-!
SUPPORT. What each definition of Machine/FabricOps.lean may change: one Moves lemma each.
-/
set_option Elab.async false
set_option linter.all false

namespace Sys2Proof.Machine

open Sys2Proof

theorem State.firstGen_moves (s : State) : Moves 0x100000 s (State.firstGen s) := by
  unfold State.firstGen; with_reducible repeat' first | exact .refl _ | (apply Moves.step; apply State.setFabric_moves; decide) | dsimp only

end Sys2Proof.Machine
end

