-- ==== Sys2Proof/Laws/MovesHostOps.lean ====
section
/-!
SUPPORT. What each definition of Machine/HostOps.lean may change: one Moves lemma each.
-/
set_option Elab.async false
set_option linter.all false

namespace Sys2Proof.Machine

open Sys2Proof

theorem State.setRing_moves (s : State) (r : Nat) (x : RingPair) : Moves 0x2000000 s (State.setRing s r x) := by
  unfold State.setRing; with_reducible repeat' first | exact .refl _ | (apply Moves.step; apply State.setHost_moves; decide) | dsimp only

theorem State.setDescs_moves (s : State) (ds : List Desc) : Moves 0x2000008 s (State.setDescs s ds) := by
  unfold State.setDescs; with_reducible repeat' first | exact .refl _ | (apply Moves.step; (first | apply State.setF_moves | apply State.setHost_moves); decide) | dsimp only | extract_lets | split

theorem State.postDue_moves (s : State) (c : Completion) : Moves 0x2000000 s (State.postDue s c) := by
  unfold State.postDue; with_reducible repeat' first | exact .refl _ | (apply Moves.step; apply State.setHost_moves; decide) | dsimp only

theorem State.postKind_moves (s : State) (kind id status result step cq : Nat) : Moves 0x2000000 s (State.postKind s kind id status result step cq) := by
  unfold State.postKind; with_reducible repeat' first | exact .refl _ | (apply Moves.step; apply State.postDue_moves; decide) | refine Moves.ite (fun _ => ?_) (fun _ => ?_) | dsimp only | split

theorem State.freeHandle_moves (s : State) (uid : Nat) : Moves 0x2000008 s (State.freeHandle s uid) := by
  unfold State.freeHandle; with_reducible repeat' first | exact .refl _ | (apply Moves.step; apply State.setDescs_moves; decide) | dsimp only

theorem State.descDone_moves (s : State) (uid status result detail : Nat) : Moves 0x2000008 s (State.descDone s uid status result detail) := by
  unfold State.descDone; with_reducible repeat' first | exact .refl _ | (apply Moves.step; (first | apply State.freeHandle_moves | apply State.postDue_moves); decide) | refine Moves.ite (fun _ => ?_) (fun _ => ?_) | (apply Moves.fst; assumption) | (apply Moves.snd; assumption) | dsimp only | split

theorem State.sendMsix_moves (s : State) (v : Nat) : Moves 0x2000004 s (State.sendMsix s v) := by
  unfold State.sendMsix; with_reducible repeat' first | exact .refl _ | (apply Moves.step; (first | apply State.emit_moves | apply State.setHost_moves); decide) | refine Moves.ite (fun _ => ?_) (fun _ => ?_) | dsimp only | split

theorem State.signalRing_moves (s : State) (r : Nat) : Moves 0x2000004 s (State.signalRing s r) := by
  unfold State.signalRing; with_reducible repeat' first | exact .refl _ | (apply Moves.step; (first | apply State.sendMsix_moves | apply State.setRing_moves); decide) | dsimp only

theorem State.writeCompletion_moves (s : State) (c : Completion) (spilled : Bool) : Moves 0x200000c s (State.writeCompletion s c spilled) := by
  unfold State.writeCompletion; with_reducible repeat' first | exact .refl _ | (apply Moves.step; (first | apply State.emit_moves | apply State.setF_moves | apply State.setRing_moves | apply State.signalRing_moves); decide) | refine Moves.ite (fun _ => ?_) (fun _ => ?_) | dsimp only | extract_lets | split

theorem State.setSpill_moves (s : State) (l : List Completion) (r : Nat) : Moves 0x2000008 s (State.setSpill s l r) := by
  unfold State.setSpill; with_reducible repeat' first | exact .refl _ | (apply Moves.step; (first | apply State.setF_moves | apply State.setHost_moves); decide) | dsimp only | extract_lets | split

theorem State.startChain_moves (s : State) (addr ring : Nat) : Moves 0x2000000 s (State.startChain s addr ring) := by
  unfold State.startChain; with_reducible repeat' first | exact .refl _ | (apply Moves.step; apply State.setHost_moves; decide) | dsimp only

theorem State.ringOff_moves (s : State) (r : Nat) : Moves 0x8 s (State.ringOff s r) := by
  unfold State.ringOff; with_reducible repeat' first | exact .refl _ | (apply Moves.step; apply State.setF_moves; decide) | dsimp only

theorem State.unbind_moves (s : State) : Moves 0x2000108 s s.unbind := by
  unfold State.unbind
  extract_lets s1 s2
  have h : Moves 0x2000108 s s1 := by
    refine .foldl _ _ (fun u r => ?_) ?_
    · exact (State.setRing_moves ..).step (by decide) ((State.ringOff_moves ..).mono (by decide))
    · exact (State.setF_moves ..).step (by decide) ((State.setF_moves ..).mono (by decide))
  have h2 : Moves 0x2000108 s s2 := (State.setArrivals_moves ..).step (by decide) h
  clear_value s2
  exact (State.setHost_moves ..).step (by decide) ((State.setF_moves ..).step (by decide) h2)

theorem State.setSnoop_moves (s : State) (l : List (Nat × Bool)) : Moves 0x2000008 s (State.setSnoop s l) := by
  unfold State.setSnoop; with_reducible repeat' first | exact .refl _ | (apply Moves.step; (first | apply State.setF_moves | apply State.setHost_moves); decide) | dsimp only

end Sys2Proof.Machine
end

