-- ==== Sys2Proof/Laws/MovesPathOps.lean ====
section
/-!
SUPPORT. What each definition of Machine/PathOps.lean may change: one Moves lemma each.
-/
set_option Elab.async false
set_option linter.all false

namespace Sys2Proof.Machine

open Sys2Proof

theorem State.setSaddle_moves (s : State) (k : Nat) (x : SaddleEnd) : Moves 0x1000 s (State.setSaddle s k x) := by
  unfold State.setSaddle; with_reducible repeat' first | exact .refl _ | (apply Moves.ofF; dsimp only; refine MovesF.upd ?_) | dsimp only

theorem State.repath_moves (s : State) : Moves 0x800 s (State.repath s) := by
  unfold State.repath; with_reducible repeat' first | exact .refl _ | refine Moves.ite (fun _ => ?_) (fun _ => ?_) | refine Moves.foldl _ _ (fun _ _ => ?_) ?_ | refine Moves.foldl₁ _ _ (fun _ _ => ?_) ?_ | (apply Moves.ofF; dsimp only; refine MovesF.upd ?_) | dsimp only | extract_lets | split

end Sys2Proof.Machine
end

