-- ==== Sys2Proof/Laws/MovesQueueOps.lean ====
section
/-!
SUPPORT. What each definition of Machine/QueueOps.lean may change: one Moves lemma each.
-/
set_option Elab.async false
set_option linter.all false

namespace Sys2Proof.Machine

open Sys2Proof

theorem State.setQueue_moves (s : State) (d q : Nat) (x : Queue) : Moves 0x200000 s (State.setQueue s d q x) := by
  unfold State.setQueue; with_reducible repeat' first | exact .refl _ | (apply Moves.ofF; dsimp only; refine MovesF.upd ?_) | dsimp only

theorem State.setReserveList_moves (s : State) (d : Nat) (l : List QReserve) : Moves 0x400000 s (State.setReserveList s d l) := by
  unfold State.setReserveList; with_reducible repeat' first | exact .refl _ | (apply Moves.ofF; dsimp only; refine MovesF.upd ?_) | dsimp only

theorem State.noteOccupied_moves (s : State) (d q : Nat) : Moves 0x8 s (State.noteOccupied s d q) := by
  unfold State.noteOccupied; with_reducible repeat' first | exact .refl _ | (apply Moves.step; apply State.setF_moves; decide) | dsimp only

theorem State.readQueueWord_moves (s : State) (d q : Nat) : Moves 0x11020027e s (State.readQueueWord s d q).1 := by
  unfold State.readQueueWord; with_reducible repeat' first | exact .refl _ | dsimp only | (apply Moves.step; (first | apply State.localRead_moves | apply State.satF_moves | apply State.setF_moves | apply State.setQueue_moves); decide) | refine Moves.ite (fun _ => ?_) (fun _ => ?_) | (apply Moves.fst; assumption) | (apply Moves.snd; assumption) | extract_lets | split

theorem State.readQueueWords_moves (s : State) (d q n : Nat) : Moves 0x11020027e s (s.readQueueWords d q n).1 := by
  induction n with
  | zero => exact .refl s
  | succ n ih => exact (State.readQueueWord_moves ..).step (by decide) ih

end Sys2Proof.Machine
end

