-- ==== Sys2Proof/Laws/MovesRemoteOps.lean ====
section
/-!
SUPPORT. What each definition of Machine/RemoteOps.lean may change: one Moves lemma each.
-/
set_option Elab.async false
set_option linter.all false

namespace Sys2Proof.Machine

open Sys2Proof

theorem noFire_moves (s : State) (d f before after : Nat) : Moves 0x0 s (noFire s d f before after) := .refl s

theorem State.atomicAt_moves_no (s : State) (a aop : Nat) (w64 : Bool) (operand : List Byte) : Moves 0x11000027e s (State.atomicAt noFire s a aop w64 operand).1 := by
  unfold State.atomicAt; with_reducible repeat' first | exact .refl _ | dsimp only | (apply Moves.step; (first | apply State.meetErrs_moves | apply State.writeN_moves | apply noFire_moves); decide) | refine Moves.ite (fun _ => ?_) (fun _ => ?_) | (apply Moves.fst; assumption) | (apply Moves.snd; assumption) | extract_lets | split

theorem State.post_moves (s : State) (d unit a : Nat) (bs : List Byte) (ps : List Bool) : Moves 0x11000037e s (State.post s d unit a bs ps) := by
  unfold State.post; with_reducible repeat' first | exact .refl _ | (apply Moves.step; (first | apply State.localWrite_moves | apply State.park_moves); decide) | refine Moves.ite (fun _ => ?_) (fun _ => ?_) | dsimp only | split

theorem State.setEntries_moves (s : State) (d : Nat) (es : List TrackEntry) : Moves 0x88 s (State.setEntries s d es) := by
  unfold State.setEntries; with_reducible repeat' first | exact .refl _ | (apply Moves.step; (first | apply State.setF_moves | apply State.setTracker_moves); decide) | dsimp only | extract_lets | split

theorem State.updEntry_moves (s : State) (d id : Nat) (f : TrackEntry → TrackEntry) : Moves 0x80 s (State.updEntry s d id f) := by
  unfold State.updEntry; with_reducible repeat' first | exact .refl _ | (apply Moves.step; apply State.setTracker_moves; decide) | refine Moves.ite (fun _ => ?_) (fun _ => ?_) | dsimp only | split

theorem State.remoteFail_moves (s : State) (d g : Nat) (r : RemReq) (status : Nat) : Moves 0x8 s (State.remoteFail s d g r status) := by
  unfold State.remoteFail; with_reducible repeat' first | exact .refl _ | (apply Moves.step; (first | apply State.satF_moves | apply State.setF_moves | apply State.setReg_moves); decide) | refine Moves.ite (fun _ => ?_) (fun _ => ?_) | dsimp only | extract_lets | split

theorem State.deliver_moves (s : State) (d : Nat) (r : RemReq) (status : Nat) (data : List Byte) : Moves 0x20000c8 s (State.deliver s d r status data) := by
  unfold State.deliver; with_reducible repeat' first | exact .refl _ | (apply Moves.step; (first | apply State.descDone_moves | apply State.remoteFail_moves | apply State.setTracker_moves | apply State.updCore_moves); decide) | refine Moves.ite (fun _ => ?_) (fun _ => ?_) | (apply Moves.fst; assumption) | (apply Moves.snd; assumption) | dsimp only | extract_lets | split

theorem State.unpark_moves (s : State) (d id : Nat) : Moves 0x100 s (State.unpark s d id) := by
  unfold State.unpark; with_reducible repeat' first | exact .refl _ | (apply Moves.step; apply State.setArrivals_moves; decide) | (apply Moves.fst; assumption) | (apply Moves.snd; assumption) | dsimp only | split

theorem State.finish_moves (s : State) (d id status : Nat) (data : List Byte) : Moves 0x20001c8 s (State.finish s d id status data) := by
  unfold State.finish; with_reducible repeat' first | exact .refl _ | (apply Moves.step; (first | apply State.deliver_moves | apply State.setEntries_moves | apply State.unpark_moves); decide) | (apply Moves.fst; assumption) | (apply Moves.snd; assumption) | dsimp only | extract_lets | split

theorem State.abandon_moves (s : State) (d id status : Nat) : Moves 0x20001c8 s (State.abandon s d id status) := by
  unfold State.abandon; with_reducible repeat' first | exact .refl _ | (apply Moves.step; (first | apply State.finish_moves | apply State.setTracker_moves); decide) | (apply Moves.fst; assumption) | (apply Moves.snd; assumption) | dsimp only | split

theorem State.dropLate_moves (s : State) (d : Nat) (l : Nat × Nat × Nat) : Moves 0x80 s (State.dropLate s d l) := by
  unfold State.dropLate; with_reducible repeat' first | exact .refl _ | (apply Moves.step; apply State.setTracker_moves; decide) | dsimp only

theorem State.answerOwn_moves (s : State) (d id step status : Nat) : Moves 0x20001c8 s (State.answerOwn s d id step status) := by
  unfold State.answerOwn; with_reducible repeat' first | exact .refl _ | (apply Moves.step; (first | apply State.dropLate_moves | apply State.finish_moves); decide) | refine Moves.ite (fun _ => ?_) (fun _ => ?_) | dsimp only | split

theorem State.takeDone_moves {s t : State} {d : Nat} {p : Requester → Bool} {x : RemDone}
    (h : s.takeDone d p = some (x, t)) : Moves 0x80 s t := by
  unfold State.takeDone at h
  split at h
  · cases h
  · injection h with h; injection h with _ h; subst h
    exact State.setTracker_moves ..

theorem State.copyBytes_moves (s : State) (src dst n : Nat) : Moves 0x11000027e s (State.copyBytes s src dst n).1 := by
  unfold State.copyBytes; with_reducible repeat' first | exact .refl _ | dsimp only | (apply Moves.step; (first | apply State.meetErrs_moves | apply State.writeMarked_moves); decide) | refine Moves.ite (fun _ => ?_) (fun _ => ?_) | extract_lets | split

theorem State.copyWords_moves (s : State) (unit d q dst n : Nat) : Moves 0x11020027e s (State.copyWords s unit d q dst n).1 := by
  unfold State.copyWords; with_reducible repeat' first | exact .refl _ | dsimp only | (apply Moves.step; (first | apply State.localWrite_moves | apply State.readQueueWords_moves); decide) | refine Moves.ite (fun _ => ?_) (fun _ => ?_) | extract_lets | split

theorem State.writeFetched_moves (s : State) (d : Nat) (r : RemReq) (old : Nat) : Moves 0x11000027e s (State.writeFetched s d r old) := by
  unfold State.writeFetched; with_reducible repeat' first | exact .refl _ | (apply Moves.step; apply State.localWrite_moves; decide) | refine Moves.ite (fun _ => ?_) (fun _ => ?_) | dsimp only | split

theorem State.performOwn_moves_no (s : State) (d : Nat) (e : TrackEntry) : Moves 0x1122003fe s (State.performOwn noFire s d e) := by
  unfold State.performOwn; with_reducible repeat' first | exact .refl _ | (apply Moves.step; (first | apply State.atomicAt_moves_no | apply State.copyBytes_moves | apply State.copyWords_moves | apply State.finish_moves | apply State.localWrite_moves | apply State.writeFetched_moves | apply noFire_moves); decide) | refine Moves.ite (fun _ => ?_) (fun _ => ?_) | (apply Moves.fst; assumption) | (apply Moves.snd; assumption) | dsimp only | extract_lets | split

theorem State.sendSegment_moves (s : State) (d : Nat) (e : TrackEntry) (i : Nat) : Moves 0x4 s (State.sendSegment s d e i) := by
  unfold State.sendSegment; with_reducible repeat' first | exact .refl _ | (apply Moves.step; apply State.sendPacket_moves; decide) | dsimp only | extract_lets | split

theorem State.sendSegments_moves (s : State) (d : Nat) (e : TrackEntry) : Moves 0x1100002fe s (State.sendSegments s d e) := by
  unfold State.sendSegments; with_reducible repeat' first | exact .refl _ | (apply Moves.step; (first | apply State.meetErrs_moves | apply State.sendSegment_moves | apply State.updEntry_moves); decide) | refine Moves.ite (fun _ => ?_) (fun _ => ?_) | refine Moves.foldl _ _ (fun _ _ => ?_) ?_ | refine Moves.foldl₁ _ _ (fun _ _ => ?_) ?_ | dsimp only | extract_lets | split

theorem State.reserve_listed {s t : State} {qd : Nat} {x : QReserve} (h : s.reserve qd x = .listed t) :
    Moves 0x400008 s t := by
  unfold State.reserve at h
  repeat' split at h
  all_goals first | (cases h; exact (State.setReserveList_moves ..).mono (by decide)) | cases h

theorem State.reserve_refused {s t : State} {qd : Nat} {x : QReserve} (h : s.reserve qd x = .refused t) :
    Moves 0x400008 s t := by
  unfold State.reserve at h
  repeat' split at h
  all_goals first | (cases h; exact (State.addF_moves ..).mono (by decide)) | cases h

theorem State.sendReservation_moves (s : State) (d : Nat) (e : TrackEntry) : Moves 0x24001cc s (State.sendReservation s d e) := by
  unfold State.sendReservation; with_reducible repeat' first | exact .refl _ | (apply Moves.step; (first | apply State.finish_moves | apply State.sendPacket_moves | apply State.updEntry_moves | (apply State.reserve_listed; assumption) | (apply State.reserve_refused; assumption)); decide) | refine Moves.ite (fun _ => ?_) (fun _ => ?_) | (apply Moves.fst; assumption) | (apply Moves.snd; assumption) | dsimp only | extract_lets | split

theorem State.sendEntry_moves_no (s : State) (d : Nat) (e : TrackEntry) : Moves 0x1126003fe s (State.sendEntry noFire s d e) := by
  unfold State.sendEntry; with_reducible repeat' first | exact .refl _ | (apply Moves.step; (first | apply State.emit_moves | apply State.finish_moves | apply State.meetErrs_moves | apply State.park_moves | apply State.performOwn_moves_no | apply State.sendReservation_moves | apply State.sendSegments_moves | apply State.updEntry_moves | apply noFire_moves); decide) | refine Moves.ite (fun _ => ?_) (fun _ => ?_) | dsimp only | extract_lets | split

theorem State.admitRemote_moves_no (s : State) (d : Nat) (r : RemReq) : Moves 0x1126003fe s (State.admitRemote noFire s d r) := by
  unfold State.admitRemote; with_reducible repeat' first | exact .refl _ | (apply Moves.step; (first | apply State.sendEntry_moves_no | apply State.setEntries_moves | apply State.setTracker_moves | apply noFire_moves); decide) | refine Moves.ite (fun _ => ?_) (fun _ => ?_) | dsimp only | extract_lets | split

theorem State.remoteIssue_moves_no (s : State) (d : Nat) (r : RemReq) : Moves 0x1126003fe s (State.remoteIssue noFire s d r) := by
  unfold State.remoteIssue; with_reducible repeat' first | exact .refl _ | (apply Moves.step; (first | apply State.admitRemote_moves_no | apply State.setTracker_moves | apply noFire_moves); decide) | refine Moves.ite (fun _ => ?_) (fun _ => ?_) | dsimp only | extract_lets | split

theorem State.performSegment_moves_no (s : State) (op : Nat) (g : Segment) : Moves 0x11000027e s (State.performSegment noFire s op g).1 := by
  unfold State.performSegment; with_reducible repeat' first | exact .refl _ | dsimp only | (apply Moves.step; (first | apply State.atomicAt_moves_no | apply State.meetErrs_moves | apply State.writeMarked_moves | apply noFire_moves); decide) | refine Moves.ite (fun _ => ?_) (fun _ => ?_) | (apply Moves.fst; assumption) | (apply Moves.snd; assumption) | extract_lets | split

theorem State.answerAt_moves (s : State) (d op : Nat) (g : Segment) (status : Nat) (data : List Byte) (marks : List Bool) : Moves 0x4 s (State.answerAt s d op g status data marks) := by
  unfold State.answerAt; with_reducible repeat' first | exact .refl _ | (apply Moves.step; apply State.sendPacket_moves; decide) | dsimp only

theorem State.answer_moves (s : State) (op : Nat) (g : Segment) (status : Nat) (data : List Byte) (marks : List Bool) : Moves 0x4 s (State.answer s op g status data marks) := by
  unfold State.answer; with_reducible repeat' first | exact .refl _ | (apply Moves.step; apply State.answerAt_moves; decide) | dsimp only

theorem State.jobRejectAt_moves (s : State) (d : Nat) (g : Segment) : Moves 0x10000008 s (State.jobRejectAt s d g) := by
  unfold State.jobRejectAt; with_reducible repeat' first | exact .refl _ | (apply Moves.step; (first | apply State.addF_moves | apply State.raise_moves); decide) | refine Moves.ite (fun _ => ?_) (fun _ => ?_) | dsimp only | extract_lets | split

theorem State.jobReject_moves (s : State) (g : Segment) : Moves 0x10000008 s (State.jobReject s g) := by
  unfold State.jobReject; with_reducible repeat' first | exact .refl _ | (apply Moves.step; apply State.jobRejectAt_moves; decide) | dsimp only

theorem State.segmentArrive_moves_no (s : State) (op : Nat) (g : Segment) : Moves 0x11000027e s (State.segmentArrive noFire s op g) := by
  unfold State.segmentArrive; with_reducible repeat' first | exact .refl _ | (apply Moves.step; (first | apply State.answer_moves | apply State.jobReject_moves | apply State.performSegment_moves_no | apply noFire_moves); decide) | refine Moves.ite (fun _ => ?_) (fun _ => ?_) | dsimp only | extract_lets | split

theorem State.meet_moves (s : State) (d op : Nat) (g : Segment) (what : Arrival) (ext : List (Nat × Nat × Bool)) : Moves 0x10c s (State.meet s d op g what ext).1 := by
  unfold State.meet; with_reducible repeat' first | exact .refl _ | dsimp only | (apply Moves.step; (first | apply State.answerAt_moves | apply State.park_moves | apply State.setF_moves); decide) | refine Moves.ite (fun _ => ?_) (fun _ => ?_) | extract_lets | split

theorem State.arrive_moves (s : State) (op : Nat) (g : Segment) : Moves 0x11000037e s (State.arrive noFire s op g) := by
  unfold State.arrive; with_reducible repeat' first | exact .refl _ | (apply Moves.step; (first | apply State.meet_moves | apply State.segmentArrive_moves_no | apply noFire_moves); decide) | refine Moves.ite (fun _ => ?_) (fun _ => ?_) | dsimp only | extract_lets | split

theorem State.arrive_moves_no (s : State) (op : Nat) (g : Segment) : Moves 0x11000037e s (State.arrive noFire s op g) := by
  unfold State.arrive; with_reducible repeat' first | exact .refl _ | (apply Moves.step; (first | apply State.meet_moves | apply State.segmentArrive_moves_no | apply noFire_moves); decide) | refine Moves.ite (fun _ => ?_) (fun _ => ?_) | dsimp only | extract_lets | split

theorem State.endWhere_moves (s : State) (d status : Nat) (p : TrackEntry → Bool) : Moves 0x20001c8 s (State.endWhere s d status p) := by
  unfold State.endWhere; with_reducible repeat' first | exact .refl _ | (apply Moves.step; apply State.abandon_moves; decide) | refine Moves.foldl _ _ (fun _ _ => ?_) ?_ | refine Moves.foldl₁ _ _ (fun _ _ => ?_) ?_ | dsimp only

theorem State.dropWaiters_moves (s : State) (d : Nat) (p : RemReq → Bool) (status : Nat) : Moves 0x20000c8 s (State.dropWaiters s d p status) := by
  unfold State.dropWaiters; with_reducible repeat' first | exact .refl _ | (apply Moves.step; (first | apply State.deliver_moves | apply State.setTracker_moves); decide) | refine Moves.foldl _ _ (fun _ _ => ?_) ?_ | refine Moves.foldl₁ _ _ (fun _ _ => ?_) ?_ | dsimp only

theorem State.endDeparted_moves (s : State) (gone : List Nat) : Moves 0x20001c8 s (State.endDeparted s gone) := by
  unfold State.endDeparted; with_reducible repeat' first | exact .refl _ | (apply Moves.step; apply State.endWhere_moves; decide) | refine Moves.foldl _ _ (fun _ _ => ?_) ?_ | refine Moves.foldl₁ _ _ (fun _ _ => ?_) ?_ | dsimp only

theorem State.resetCore_moves (s : State) (d g : Nat) : Moves 0x20001c8 s (State.resetCore s d g) := by
  unfold State.resetCore; with_reducible repeat' first | exact .refl _ | (apply Moves.step; (first | apply State.dropWaiters_moves | apply State.endWhere_moves | apply State.resetCoreRegs_moves | apply State.setArrivals_moves | apply State.setCore_moves); decide) | (apply Moves.fst; assumption) | (apply Moves.snd; assumption) | dsimp only | extract_lets | split

theorem State.takeAnswer_moves (s : State) (d : Nat) (e : TrackEntry) (seg64 status : Nat) (data : List Byte) (marks : List Bool) : Moves 0x11000027e s (State.takeAnswer s d e seg64 status data marks) := by
  unfold State.takeAnswer; with_reducible repeat' first | exact .refl _ | (apply Moves.step; (first | apply State.localWrite_moves | apply State.writeFetched_moves); decide) | refine Moves.ite (fun _ => ?_) (fun _ => ?_) | (apply Moves.fst; assumption) | (apply Moves.snd; assumption) | dsimp only | extract_lets | split

theorem State.landResponse_moves (s : State) (d id step seg64 status : Nat) (data : List Byte) (marks : List Bool) : Moves 0x1120003fe s (State.landResponse s d id step seg64 status data marks) := by
  unfold State.landResponse; with_reducible repeat' first | exact .refl _ | (apply Moves.step; (first | apply State.finish_moves | apply State.park_moves | apply State.takeAnswer_moves | apply State.updEntry_moves); decide) | refine Moves.ite (fun _ => ?_) (fun _ => ?_) | (apply Moves.fst; assumption) | (apply Moves.snd; assumption) | dsimp only | extract_lets | split

theorem State.landData_moves (s : State) (d id order status : Nat) (data : List Byte) (marks : List Bool) : Moves 0x1120003fe s (State.landData s d id order status data marks) := by
  unfold State.landData; with_reducible repeat' first | exact .refl _ | (apply Moves.step; (first | apply State.finish_moves | apply State.localWrite_moves | apply State.park_moves | apply State.updEntry_moves); decide) | refine Moves.ite (fun _ => ?_) (fun _ => ?_) | (apply Moves.fst; assumption) | (apply Moves.snd; assumption) | dsimp only | split

end Sys2Proof.Machine
end

