-- ==== Sys2Proof/Laws/MovesTravRows.lean ====
section
/-!
SUPPORT. What each definition of Machine/TravRows.lean may change: one Moves lemma each.
-/
set_option Elab.async false
set_option linter.all false

namespace Sys2Proof.Machine

open Sys2Proof

theorem State.setTraverse_moves (s : State) (d : Nat) (x : Traverse) : Moves 0x1000008 s (State.setTraverse s d x) := by
  unfold State.setTraverse; with_reducible repeat' first | exact .refl _ | (apply Moves.step; apply State.setF_moves; decide) | (apply Moves.ofF; dsimp only; refine MovesF.upd ?_) | dsimp only | extract_lets | split

theorem State.gather_moves (s : State) (d : Nat) (e : TrackEntry) : Moves 0x11000027e s (State.gather s d e).1 := by
  unfold State.gather; with_reducible repeat' first | exact .refl _ | dsimp only | (apply Moves.step; (first | apply State.look_moves | apply State.orFlags_moves); decide) | refine Moves.foldl _ _ (fun _ _ => ?_) ?_ | refine Moves.foldl₁ _ _ (fun _ _ => ?_) ?_ | (apply Moves.fst; assumption) | (apply Moves.snd; assumption) | extract_lets | split

end Sys2Proof.Machine
end

