-- ==== Sys2Proof/Laws/MovesEnqOps.lean ====
section
/-!
SUPPORT. What each definition of Machine/EnqOps.lean may change: one Moves lemma each.
-/
set_option Elab.async false
set_option linter.all false

namespace Sys2Proof.Machine

open Sys2Proof

theorem State.enqAnswer_moves (s : State) (d q : Nat) (own : Bool) (cls srcDev srcDie tag step words seg status : Nat) : Moves 0x20001cc s (State.enqAnswer s d q own cls srcDev srcDie tag step words seg status) := by
  unfold State.enqAnswer; with_reducible repeat' first | exact .refl _ | (apply Moves.step; (first | apply State.answerOwn_moves | apply State.sendPacket_moves); decide) | refine Moves.ite (fun _ => ?_) (fun _ => ?_) | dsimp only | split

theorem State.answerReserve_moves (s : State) (d : Nat) (r : QReserve) (status : Nat) : Moves 0x20001cc s (State.answerReserve s d r status) := by
  unfold State.answerReserve; with_reducible repeat' first | exact .refl _ | (apply Moves.step; apply State.enqAnswer_moves; decide) | dsimp only

theorem State.answerPacket_moves (s : State) (d q : Nat) (p : QPacket) (seg status : Nat) : Moves 0x20001cc s (State.answerPacket s d q p seg status) := by
  unfold State.answerPacket; with_reducible repeat' first | exact .refl _ | (apply Moves.step; apply State.enqAnswer_moves; decide) | dsimp only

theorem State.visiblePass_moves (s : State) (d q fuel : Nat) : Moves 0x22001cc s (s.visiblePass d q fuel) := by
  induction fuel generalizing s with
  | zero => exact .refl s
  | succ fuel ih =>
    unfold State.visiblePass
    split
    · exact .refl s
    · refine .ite (fun _ => ?_) (fun _ => .refl s)
      extract_lets x mark s1
      exact (ih _).step (by decide) ((State.enqAnswer_moves ..).step (by decide) ((State.setQueue_moves ..).mono (by decide)))

theorem State.showVisible_moves (s : State) (d q : Nat) : Moves 0x22001cc s (State.showVisible s d q) := by
  unfold State.showVisible; with_reducible repeat' first | exact .refl _ | (apply Moves.step; apply State.visiblePass_moves; decide) | dsimp only

theorem State.unwind_moves (s : State) (d q : Nat) (p : QPacket) (status : Nat) : Moves 0x122001cc s (State.unwind s d q p status) := by
  unfold State.unwind; with_reducible repeat' first | exact .refl _ | (apply Moves.step; (first | apply State.answerPacket_moves | apply State.raise_moves | apply State.satF_moves | apply State.setQueue_moves); decide) | refine Moves.ite (fun _ => ?_) (fun _ => ?_) | dsimp only | extract_lets | split

theorem State.rewind_moves (s : State) (d q : Nat) (p : QPacket) (status : Nat) : Moves 0x122001cc s (State.rewind s d q p status) := by
  unfold State.rewind; with_reducible repeat' first | exact .refl _ | (apply Moves.step; (first | apply State.showVisible_moves | apply State.unwind_moves); decide) | dsimp only

theorem State.storeWords_moves (s : State) (d q : Nat) (p : QPacket) (i : Nat) (bs : List Byte) (ms : List Bool) (n : Nat) :
    Moves 0x11000027e s (s.storeWords d q p i bs ms n) := by
  induction n generalizing s i bs ms with
  | zero => exact .refl s
  | succ n ih => exact (ih _ _ _ _).step (by decide) ((State.localWrite_moves ..).mono (by decide))

theorem State.landWords_moves (s : State) (d q : Nat) (p : QPacket) (seg : Nat) (bs : List Byte) (ms : List Bool) : Moves 0x1122003fe s (State.landWords s d q p seg bs ms) := by
  unfold State.landWords; with_reducible repeat' first | exact .refl _ | (apply Moves.step; (first | apply State.setQueue_moves | apply State.showVisible_moves | apply State.storeWords_moves); decide) | refine Moves.ite (fun _ => ?_) (fun _ => ?_) | dsimp only | extract_lets | split

theorem State.landOwn_moves (s : State) (d q die : Nat) (e : TrackEntry) : Moves 0x1122003fe s (State.landOwn s d q die e) := by
  unfold State.landOwn; with_reducible repeat' first | exact .refl _ | (apply Moves.step; (first | apply State.meetErrs_moves | apply State.rewind_moves | apply State.setQueue_moves | apply State.showVisible_moves | apply State.storeWords_moves | apply State.updEntry_moves); decide) | refine Moves.ite (fun _ => ?_) (fun _ => ?_) | (apply Moves.fst; assumption) | (apply Moves.snd; assumption) | dsimp only | extract_lets | split

theorem State.sendGranted_moves (s : State) (d : Nat) (e : TrackEntry) : Moves 0x1122003fe s (State.sendGranted s d e) := by
  unfold State.sendGranted; with_reducible repeat' first | exact .refl _ | (apply Moves.step; (first | apply State.abandon_moves | apply State.gather_moves | apply State.landOwn_moves | apply State.park_moves | apply State.sendSegments_moves | apply State.updEntry_moves); decide) | refine Moves.ite (fun _ => ?_) (fun _ => ?_) | refine Moves.foldl _ _ (fun _ _ => ?_) ?_ | refine Moves.foldl₁ _ _ (fun _ _ => ?_) ?_ | (apply Moves.fst; assumption) | (apply Moves.snd; assumption) | dsimp only | extract_lets | split

theorem State.grant_moves (s : State) (d q : Nat) : Moves 0x1126003fe s (State.grant s d q) := by
  unfold State.grant; with_reducible repeat' first | exact .refl _ | (apply Moves.step; (first | apply State.answerReserve_moves | apply State.noteOccupied_moves | apply State.sendGranted_moves | apply State.setQueue_moves | apply State.setReserveList_moves); decide) | refine Moves.ite (fun _ => ?_) (fun _ => ?_) | (apply Moves.fst; assumption) | (apply Moves.snd; assumption) | dsimp only | extract_lets | split

theorem State.queueDiscard_moves (s : State) (d step : Nat) : Moves 0x126001cc s (State.queueDiscard s d step) := by
  unfold State.queueDiscard; with_reducible repeat' first | exact .refl _ | (apply Moves.step; (first | apply State.answerReserve_moves | apply State.setQueue_moves | apply State.setReserveList_moves | apply State.showVisible_moves | apply State.unwind_moves); decide) | refine Moves.ite (fun _ => ?_) (fun _ => ?_) | refine Moves.foldl _ _ (fun _ _ => ?_) ?_ | refine Moves.foldl₁ _ _ (fun _ _ => ?_) ?_ | (apply Moves.fst; assumption) | (apply Moves.snd; assumption) | dsimp only | extract_lets | split

theorem State.queueReset_moves (s : State) (d : Nat) : Moves 0x26001c8 s (State.queueReset s d) := by
  unfold State.queueReset; with_reducible repeat' first | exact .refl _ | (apply Moves.step; (first | apply State.answerOwn_moves | apply State.setQueue_moves | apply State.setReserveList_moves); decide) | refine Moves.ite (fun _ => ?_) (fun _ => ?_) | refine Moves.foldl _ _ (fun _ _ => ?_) ?_ | refine Moves.foldl₁ _ _ (fun _ _ => ?_) ?_ | dsimp only | extract_lets | split

theorem State.answerRewound_moves (s : State) (d q : Nat) (g : Segment) : Moves 0x200004 s (State.answerRewound s d q g) := by
  unfold State.answerRewound; with_reducible repeat' first | exact .refl _ | (apply Moves.step; (first | apply State.answerAt_moves | apply State.setQueue_moves); decide) | refine Moves.ite (fun _ => ?_) (fun _ => ?_) | (apply Moves.fst; assumption) | (apply Moves.snd; assumption) | dsimp only | extract_lets | split

theorem State.takeSegment_moves (s : State) (d q : Nat) (g : Segment) : Moves 0x1122003fe s (State.takeSegment s d q g) := by
  unfold State.takeSegment; with_reducible repeat' first | exact .refl _ | (apply Moves.step; (first | apply State.answerAt_moves | apply State.answerRewound_moves | apply State.landWords_moves | apply State.rewind_moves); decide) | refine Moves.ite (fun _ => ?_) (fun _ => ?_) | (apply Moves.fst; assumption) | (apply Moves.snd; assumption) | dsimp only | extract_lets | split

theorem State.takeReservation_moves (s : State) (g : Segment) : Moves 0x40000c s (State.takeReservation s g) := by
  unfold State.takeReservation; with_reducible repeat' first | exact .refl _ | (apply Moves.step; (first | apply State.answer_moves | apply State.sendPacket_moves | (apply State.reserve_listed; assumption) | (apply State.reserve_refused; assumption)); decide) | refine Moves.ite (fun _ => ?_) (fun _ => ?_) | (apply Moves.fst; assumption) | (apply Moves.snd; assumption) | dsimp only | extract_lets | split

theorem State.takeEnqueue_moves (s : State) (reservation : Bool) (g : Segment) : Moves 0x1126003fe s (State.takeEnqueue s reservation g) := by
  unfold State.takeEnqueue; with_reducible repeat' first | exact .refl _ | (apply Moves.step; (first | apply State.answer_moves | apply State.jobReject_moves | apply State.takeReservation_moves | apply State.takeSegment_moves); decide) | refine Moves.ite (fun _ => ?_) (fun _ => ?_) | (apply Moves.fst; assumption) | (apply Moves.snd; assumption) | dsimp only | split

theorem State.enqueueArrive_moves (s : State) (reservation : Bool) (g : Segment) : Moves 0x1126003fe s (State.enqueueArrive s reservation g) := by
  unfold State.enqueueArrive; with_reducible repeat' first | exact .refl _ | (apply Moves.step; (first | apply State.meet_moves | apply State.takeEnqueue_moves); decide) | refine Moves.ite (fun _ => ?_) (fun _ => ?_) | dsimp only | extract_lets | split

end Sys2Proof.Machine
end

