-- ==== Sys2Proof/Laws/MovesLocalOps.lean ====
section
/-!
SUPPORT. What each definition of Machine/LocalOps.lean may change: one Moves lemma each.
-/
set_option Elab.async false
set_option linter.all false

namespace Sys2Proof.Machine

open Sys2Proof

theorem State.copyRow_moves (s : State) (d g opc src dst n : Nat) : Moves 0x11020027e s (State.copyRow s d g opc src dst n) := by
  unfold State.copyRow; with_reducible repeat' first | exact .refl _ | (apply Moves.step; (first | apply State.addressFault_moves | apply State.localRead_moves | apply State.localWrite_moves | apply State.readQueueWords_moves); decide) | refine Moves.ite (fun _ => ?_) (fun _ => ?_) | (apply Moves.fst; assumption) | (apply Moves.snd; assumption) | dsimp only | extract_lets | split

theorem State.moveBytes_moves (s : State) (d g : Nat) (e : TqEntry) : Moves 0x11020027e s (State.moveBytes s d g e) := by
  unfold State.moveBytes; with_reducible repeat' first | exact .refl _ | (apply Moves.step; (first | apply State.copyRow_moves | apply State.localWrite_moves); decide) | refine Moves.ite (fun _ => ?_) (fun _ => ?_) | refine Moves.foldl _ _ (fun _ _ => ?_) ?_ | refine Moves.foldl₁ _ _ (fun _ _ => ?_) ?_ | (apply Moves.fst; assumption) | (apply Moves.snd; assumption) | dsimp only | extract_lets | split

theorem State.parkMove_moves (s : State) (d g uid : Nat) (e : TqEntry) : Moves 0x100 s (State.parkMove s d g uid e) := by
  unfold State.parkMove; with_reducible repeat' first | exact .refl _ | (apply Moves.step; apply State.park_moves; decide) | refine Moves.ite (fun _ => ?_) (fun _ => ?_) | dsimp only | split

theorem State.retryMove_moves (s : State) (d g uid : Nat) : Moves 0x11020037e s (State.retryMove s d g uid) := by
  unfold State.retryMove; with_reducible repeat' first | exact .refl _ | (apply Moves.step; (first | apply State.moveBytes_moves | apply State.parkMove_moves | apply State.updCore_moves); decide) | refine Moves.ite (fun _ => ?_) (fun _ => ?_) | (apply Moves.fst; assumption) | (apply Moves.snd; assumption) | dsimp only | split

theorem State.spurRead_moves (s : State) (d g rd a n : Nat) (sign : Bool) : Moves 0x11000027e s (State.spurRead s d g rd a n sign) := by
  unfold State.spurRead; with_reducible repeat' first | exact .refl _ | (apply Moves.step; (first | apply State.localRead_moves | apply State.spurTrap_moves | apply State.updCore_moves); decide) | refine Moves.ite (fun _ => ?_) (fun _ => ?_) | dsimp only | extract_lets | split

theorem State.spurMemory_moves (s : State) (d g : Nat) (store : Bool) (n : Nat) (sign : Bool) (rd a : Nat) (v : Word) : Moves 0x11000037e s (State.spurMemory s d g store n sign rd a v) := by
  unfold State.spurMemory; with_reducible repeat' first | exact .refl _ | (apply Moves.step; (first | apply State.localWrite_moves | apply State.park_moves | apply State.spurRead_moves | apply State.updCore_moves); decide) | refine Moves.ite (fun _ => ?_) (fun _ => ?_) | dsimp only | extract_lets | split

theorem State.retrySpur_moves (s : State) (d g : Nat) : Moves 0x11000037e s (State.retrySpur s d g) := by
  unfold State.retrySpur; with_reducible repeat' first | exact .refl _ | (apply Moves.step; (first | apply State.park_moves | apply State.spurMemory_moves); decide) | refine Moves.ite (fun _ => ?_) (fun _ => ?_) | (apply Moves.fst; assumption) | (apply Moves.snd; assumption) | dsimp only | split

end Sys2Proof.Machine
end

