-- ==== Sys2Proof/Laws/MovesPowerOps.lean ====
section
/-!
SUPPORT. What each definition of Machine/PowerOps.lean may change: one Moves lemma each.
-/
set_option Elab.async false
set_option linter.all false

namespace Sys2Proof.Machine

open Sys2Proof

theorem State.refreshDuty_moves (s : State) : Moves 0x48 s (State.refreshDuty s) := by
  unfold State.refreshDuty; with_reducible repeat' first | exact .refl _ | (apply Moves.step; (first | apply State.repaceDie_moves | apply State.setF_moves); decide) | refine Moves.ite (fun _ => ?_) (fun _ => ?_) | refine Moves.foldl _ _ (fun _ _ => ?_) ?_ | refine Moves.foldl₁ _ _ (fun _ _ => ?_) ?_ | dsimp only | extract_lets | split

theorem State.capNow_moves (s : State) : Moves 0x80000048 s (State.capNow s) := by
  unfold State.capNow; with_reducible repeat' first | exact .refl _ | (apply Moves.step; (first | apply State.refreshDuty_moves | apply State.satF_moves | apply State.setF_moves | apply State.setPower_moves); decide) | refine Moves.ite (fun _ => ?_) (fun _ => ?_) | dsimp only | split

theorem State.applyProfile_moves (s : State) : Moves 0x80000048 s (State.applyProfile s) := by
  unfold State.applyProfile; with_reducible repeat' first | exact .refl _ | (apply Moves.step; (first | apply State.capNow_moves | apply State.setF_moves | apply State.setPower_moves); decide) | refine Moves.foldl _ _ (fun _ _ => ?_) ?_ | refine Moves.foldl₁ _ _ (fun _ _ => ?_) ?_ | dsimp only | extract_lets | split

theorem State.selectProfile_moves (s : State) (p : Nat) : Moves 0x80000048 s (State.selectProfile s p) := by
  unfold State.selectProfile; with_reducible repeat' first | exact .refl _ | (apply Moves.step; (first | apply State.applyProfile_moves | apply State.setF_moves); decide) | dsimp only

theorem State.openProfile_moves (s : State) (v : Nat) : Moves 0x80000048 s (State.openProfile s v) := by
  unfold State.openProfile; with_reducible repeat' first | exact .refl _ | (apply Moves.step; (first | apply State.applyProfile_moves | apply State.setPower_moves); decide) | refine Moves.ite (fun _ => ?_) (fun _ => ?_) | dsimp only | split

theorem State.convStep_moves (s : State) : Moves 0x80000048 s (State.convStep s) := by
  unfold State.convStep; with_reducible repeat' first | exact .refl _ | (apply Moves.step; (first | apply State.refreshDuty_moves | apply State.setPower_moves); decide) | refine Moves.ite (fun _ => ?_) (fun _ => ?_) | (apply Moves.fst; assumption) | (apply Moves.snd; assumption) | dsimp only | split

theorem State.paceDie_moves (s : State) (d : Nat) : Moves 0x80000000 s (State.paceDie s d) := by
  unfold State.paceDie; with_reducible repeat' first | exact .refl _ | (apply Moves.step; apply State.setPower_moves; decide) | refine Moves.ite (fun _ => ?_) (fun _ => ?_) | dsimp only | extract_lets | split

theorem State.powerExpert_moves (s : State) : Moves 0x80000048 s (State.powerExpert s) := by
  unfold State.powerExpert; with_reducible repeat' first | exact .refl _ | (apply Moves.step; (first | apply State.capNow_moves | apply State.paceDie_moves | apply State.refreshDuty_moves); decide) | refine Moves.foldl _ _ (fun _ _ => ?_) ?_ | refine Moves.foldl₁ _ _ (fun _ _ => ?_) ?_ | dsimp only

theorem State.sendLeave_moves (s : State) : Moves 0x4 s (State.sendLeave s) := by
  unfold State.sendLeave; with_reducible repeat' first | exact .refl _ | (apply Moves.step; apply State.mgmt_moves; decide) | refine Moves.ite (fun _ => ?_) (fun _ => ?_) | dsimp only | split

end Sys2Proof.Machine
end

