-- ==== Sys2Proof/Laws/MovesEventOps.lean ====
section
/-!
SUPPORT. What each definition of Machine/EventOps.lean may change: one Moves lemma each.
-/
set_option Elab.async false
set_option linter.all false

namespace Sys2Proof.Machine

open Sys2Proof

theorem State.requestUpdate_moves (s : State) (b : Nat) : Moves 0x20008 s (State.requestUpdate s b) := by
  unfold State.requestUpdate; with_reducible repeat' first | exact .refl _ | (apply Moves.step; (first | apply State.satF_moves | apply State.setUpd_moves); decide) | refine Moves.ite (fun _ => ?_) (fun _ => ?_) | (apply Moves.fst; assumption) | (apply Moves.snd; assumption) | dsimp only | extract_lets | split

theorem State.mgmtPort_moves (s : State) (port op : Nat) (fields : List Nat) : Moves 0x4 s (State.mgmtPort s port op fields) := by
  unfold State.mgmtPort; with_reducible repeat' first | exact .refl _ | (apply Moves.step; apply State.emit_moves; decide) | dsimp only

theorem State.startSelftest_moves (s : State) (t : Nat) : Moves 0x120000a0c s (State.startSelftest s t) := by
  unfold State.startSelftest; with_reducible repeat' first | exact .refl _ | (apply Moves.step; (first | apply State.linkTell_moves | apply State.mgmtPort_moves | apply State.noteHealth_moves | apply State.repath_moves | apply State.setF_moves | apply State.setStack_moves | apply State.setTest_moves); decide) | refine Moves.ite (fun _ => ?_) (fun _ => ?_) | (apply Moves.fst; assumption) | (apply Moves.snd; assumption) | dsimp only | extract_lets | split

theorem State.entryStatus_moves (s : State) (d e status : Nat) : Moves 0x10000008 s (State.entryStatus s d e status) := by
  unfold State.entryStatus; with_reducible repeat' first | exact .refl _ | (apply Moves.step; (first | apply State.raise_moves | apply State.setF_moves); decide) | refine Moves.ite (fun _ => ?_) (fun _ => ?_) | dsimp only | extract_lets | split

theorem State.startAction_moves (s : State) (d e step : Nat) : Moves 0x1b2620bfe s (State.startAction s d e step).1 := by
  unfold State.startAction; with_reducible repeat' first | exact .refl _ | dsimp only | (apply Moves.step; (first | apply State.remoteIssue_moves_no | apply State.requestUpdate_moves | apply State.selectProfile_moves | apply State.setUpd_moves | apply State.startChain_moves | apply State.startSelftest_moves | apply noFire_moves); decide) | refine Moves.ite (fun _ => ?_) (fun _ => ?_) | (apply Moves.fst; assumption) | (apply Moves.snd; assumption) | extract_lets | split

theorem State.runEntry_moves (s : State) (d e step : Nat) : Moves 0x1b2620bfe s (State.runEntry s d e step) := by
  unfold State.runEntry; with_reducible repeat' first | exact .refl _ | (apply Moves.step; (first | apply State.addF_moves | apply State.entryStatus_moves | apply State.setF_moves | apply State.setReg_moves | apply State.startAction_moves); decide) | dsimp only | extract_lets | split

theorem State.fireEntry_moves (s : State) (d e : Nat) : Moves 0x1b2620bfe s (State.fireEntry s d e) := by
  unfold State.fireEntry; with_reducible repeat' first | exact .refl _ | (apply Moves.step; (first | apply State.runEntry_moves | apply State.setF_moves); decide) | dsimp only

theorem State.actEntry_moves (s : State) (d e : Nat) : Moves 0x1b2620bfe s (State.actEntry s d e) := by
  unfold State.actEntry; with_reducible repeat' first | exact .refl _ | (apply Moves.step; (first | apply State.fireEntry_moves | apply State.setF_moves | apply State.setReg_moves); decide) | refine Moves.ite (fun _ => ?_) (fun _ => ?_) | dsimp only | split

theorem State.actEntries_moves (s : State) (d : Nat) : Moves 0x1b2620bfe s (State.actEntries s d) := by
  unfold State.actEntries; with_reducible repeat' first | exact .refl _ | (apply Moves.step; apply State.actEntry_moves; decide) | refine Moves.ite (fun _ => ?_) (fun _ => ?_) | refine Moves.foldl _ _ (fun _ _ => ?_) ?_ | refine Moves.foldl₁ _ _ (fun _ _ => ?_) ?_ | dsimp only | split

theorem State.disarm_moves (s : State) (d e : Nat) : Moves 0x8 s (State.disarm s d e) := by
  unfold State.disarm; with_reducible repeat' first | exact .refl _ | (apply Moves.step; apply State.setF_moves; decide) | refine Moves.ite (fun _ => ?_) (fun _ => ?_) | dsimp only | split

theorem State.fireDue_moves (s : State) (d : Nat) : Moves 0x1b2620bfe s (State.fireDue s d) := by
  unfold State.fireDue; with_reducible repeat' first | exact .refl _ | (apply Moves.step; apply State.fireEntry_moves; decide) | refine Moves.ite (fun _ => ?_) (fun _ => ?_) | refine Moves.foldl _ _ (fun _ _ => ?_) ?_ | refine Moves.foldl₁ _ _ (fun _ _ => ?_) ?_ | dsimp only | split

theorem State.fireTrigger_moves (s : State) (d f before after : Nat) :
    Moves 0x1b2620bfe s (State.fireTrigger s d f before after) := by
  unfold State.fireTrigger
  extract_lets t th
  refine .ite (fun _ => ?_) (fun _ => .refl s)
  have h : Moves 0x1b2620bfe s (if t.testBit 41 then (let e := bits t 49 42; if s.flag EVENT_CTRL_ENABLE d e then s.runEntry d e (s.stepOf d) else s) else s) :=
    .ite (fun _ => .ite (fun _ => (State.runEntry_moves ..).mono (by decide)) (fun _ => .refl s)) (fun _ => .refl s)
  exact .ite (fun _ => (State.updCore_moves ..).step (by decide) h) (fun _ => h)

theorem State.showGates_moves (s : State) (d : Nat) : Moves 0x30 s (State.showGates s d) := by
  unfold State.showGates; with_reducible repeat' first | exact .refl _ | (apply Moves.step; apply State.writeN_moves; decide) | refine Moves.foldl _ _ (fun _ _ => ?_) ?_ | refine Moves.foldl₁ _ _ (fun _ _ => ?_) ?_ | dsimp only

theorem State.atomicAt_moves_fire (s : State) (a aop : Nat) (w64 : Bool) (operand : List Byte) : Moves 0x1b2620bfe s (State.atomicAt State.fireTrigger s a aop w64 operand).1 := by
  unfold State.atomicAt; with_reducible repeat' first | exact .refl _ | dsimp only | (apply Moves.step; (first | apply State.meetErrs_moves | apply State.writeN_moves | apply State.fireTrigger_moves); decide) | refine Moves.ite (fun _ => ?_) (fun _ => ?_) | (apply Moves.fst; assumption) | (apply Moves.snd; assumption) | extract_lets | split

theorem State.performOwn_moves_fire (s : State) (d : Nat) (e : TrackEntry) : Moves 0x1b2620bfe s (State.performOwn State.fireTrigger s d e) := by
  unfold State.performOwn; with_reducible repeat' first | exact .refl _ | (apply Moves.step; (first | apply State.atomicAt_moves_fire | apply State.copyBytes_moves | apply State.copyWords_moves | apply State.finish_moves | apply State.localWrite_moves | apply State.writeFetched_moves | apply State.fireTrigger_moves); decide) | refine Moves.ite (fun _ => ?_) (fun _ => ?_) | (apply Moves.fst; assumption) | (apply Moves.snd; assumption) | dsimp only | extract_lets | split

theorem State.sendEntry_moves_fire (s : State) (d : Nat) (e : TrackEntry) : Moves 0x1b2620bfe s (State.sendEntry State.fireTrigger s d e) := by
  unfold State.sendEntry; with_reducible repeat' first | exact .refl _ | (apply Moves.step; (first | apply State.emit_moves | apply State.finish_moves | apply State.meetErrs_moves | apply State.park_moves | apply State.performOwn_moves_fire | apply State.sendReservation_moves | apply State.sendSegments_moves | apply State.updEntry_moves | apply State.fireTrigger_moves); decide) | refine Moves.ite (fun _ => ?_) (fun _ => ?_) | dsimp only | extract_lets | split

theorem State.admitRemote_moves_fire (s : State) (d : Nat) (r : RemReq) : Moves 0x1b2620bfe s (State.admitRemote State.fireTrigger s d r) := by
  unfold State.admitRemote; with_reducible repeat' first | exact .refl _ | (apply Moves.step; (first | apply State.sendEntry_moves_fire | apply State.setEntries_moves | apply State.setTracker_moves | apply State.fireTrigger_moves); decide) | refine Moves.ite (fun _ => ?_) (fun _ => ?_) | dsimp only | extract_lets | split

theorem State.remoteIssue_moves_fire (s : State) (d : Nat) (r : RemReq) : Moves 0x1b2620bfe s (State.remoteIssue State.fireTrigger s d r) := by
  unfold State.remoteIssue; with_reducible repeat' first | exact .refl _ | (apply Moves.step; (first | apply State.admitRemote_moves_fire | apply State.setTracker_moves | apply State.fireTrigger_moves); decide) | refine Moves.ite (fun _ => ?_) (fun _ => ?_) | dsimp only | extract_lets | split

theorem State.performSegment_moves_fire (s : State) (op : Nat) (g : Segment) : Moves 0x1b2620bfe s (State.performSegment State.fireTrigger s op g).1 := by
  unfold State.performSegment; with_reducible repeat' first | exact .refl _ | dsimp only | (apply Moves.step; (first | apply State.atomicAt_moves_fire | apply State.meetErrs_moves | apply State.writeMarked_moves | apply State.fireTrigger_moves); decide) | refine Moves.ite (fun _ => ?_) (fun _ => ?_) | (apply Moves.fst; assumption) | (apply Moves.snd; assumption) | extract_lets | split

theorem State.segmentArrive_moves_fire (s : State) (op : Nat) (g : Segment) : Moves 0x1b2620bfe s (State.segmentArrive State.fireTrigger s op g) := by
  unfold State.segmentArrive; with_reducible repeat' first | exact .refl _ | (apply Moves.step; (first | apply State.answer_moves | apply State.jobReject_moves | apply State.performSegment_moves_fire | apply State.fireTrigger_moves); decide) | refine Moves.ite (fun _ => ?_) (fun _ => ?_) | dsimp only | extract_lets | split

theorem State.arrive_moves_fire (s : State) (op : Nat) (g : Segment) : Moves 0x1b2620bfe s (State.arrive State.fireTrigger s op g) := by
  unfold State.arrive; with_reducible repeat' first | exact .refl _ | (apply Moves.step; (first | apply State.meet_moves | apply State.segmentArrive_moves_fire | apply State.fireTrigger_moves); decide) | refine Moves.ite (fun _ => ?_) (fun _ => ?_) | dsimp only | extract_lets | split

theorem State.raiseGate_moves (s : State) (g v : Nat) : Moves 0x1b2660bfe s (State.raiseGate s g v) := by
  unfold State.raiseGate; with_reducible repeat' first | exact .refl _ | (apply Moves.step; (first | apply State.atomicAt_moves_fire | apply State.fireTrigger_moves | apply State.setCor_moves); decide) | refine Moves.ite (fun _ => ?_) (fun _ => ?_) | refine Moves.foldl _ _ (fun _ _ => ?_) ?_ | refine Moves.foldl₁ _ _ (fun _ _ => ?_) ?_ | dsimp only | extract_lets | split

theorem State.lowerGate_moves (s : State) (g v : Nat) : Moves 0x40030 s (State.lowerGate s g v) := by
  unfold State.lowerGate; with_reducible repeat' first | exact .refl _ | (apply Moves.step; (first | apply State.setCor_moves | apply State.writeN_moves); decide) | refine Moves.ite (fun _ => ?_) (fun _ => ?_) | refine Moves.foldl _ _ (fun _ _ => ?_) ?_ | refine Moves.foldl₁ _ _ (fun _ _ => ?_) ?_ | dsimp only | extract_lets | split

end Sys2Proof.Machine
end

