-- ==== Sys2Proof/Laws/MovesRedOps.lean ====
section
/-!
SUPPORT. What each definition of Machine/RedOps.lean may change: one Moves lemma each.
-/
set_option Elab.async false
set_option linter.all false

namespace Sys2Proof.Machine

open Sys2Proof

theorem State.setBucketRun_moves (s : State) (x : BucketRun) : Moves 0x10000 s (State.setBucketRun s x) := by
  unfold State.setBucketRun; with_reducible repeat' first | exact .refl _ | (apply Moves.step; apply State.setRed_moves; decide) | refine Moves.ite (fun _ => ?_) (fun _ => ?_) | dsimp only | split

theorem State.setShardRun_moves (s : State) (x : ShardRun) : Moves 0x10000 s (State.setShardRun s x) := by
  unfold State.setShardRun; with_reducible repeat' first | exact .refl _ | (apply Moves.step; apply State.setRed_moves; decide) | refine Moves.ite (fun _ => ?_) (fun _ => ?_) | dsimp only | split

theorem State.updShard_moves (s : State) (b sh : Nat) (f : ShardRun → ShardRun) : Moves 0x10000 s (State.updShard s b sh f) := by
  unfold State.updShard; with_reducible repeat' first | exact .refl _ | (apply Moves.step; apply State.setShardRun_moves; decide) | (apply Moves.fst; assumption) | (apply Moves.snd; assumption) | dsimp only | split

theorem State.redIssue_moves (s : State) (x : RedSent) : Moves 0x1126103fe s (State.redIssue s x) := by
  unfold State.redIssue; with_reducible repeat' first | exact .refl _ | (apply Moves.step; (first | apply State.remoteIssue_moves_no | apply State.setRed_moves | apply noFire_moves); decide) | dsimp only | extract_lets | split

theorem State.redSendMarked_moves (s : State) (die dst kind b sh block : Nat) (data : List Byte) (marks : List Bool) : Moves 0x1126103fe s (State.redSendMarked s die dst kind b sh block data marks) := by
  unfold State.redSendMarked; with_reducible repeat' first | exact .refl _ | (apply Moves.step; (first | apply State.redIssue_moves | apply State.setRed_moves); decide) | refine Moves.ite (fun _ => ?_) (fun _ => ?_) | (apply Moves.fst; assumption) | (apply Moves.snd; assumption) | dsimp only | extract_lets | split

theorem State.redSend_moves (s : State) (die dst kind b sh block : Nat) (data : List Byte) : Moves 0x1126103fe s (State.redSend s die dst kind b sh block data) := by
  unfold State.redSend; with_reducible repeat' first | exact .refl _ | (apply Moves.step; apply State.redSendMarked_moves; decide) | dsimp only

theorem State.redSendPos_moves (s : State) (br : BucketRun) (sh p kind block : Nat) (data : List Byte) : Moves 0x1126103fe s (State.redSendPos s br sh p kind block data) := by
  unfold State.redSendPos; with_reducible repeat' first | exact .refl _ | (apply Moves.step; apply State.redSend_moves; decide) | dsimp only

theorem State.shardEnd_moves (s : State) (b sh status : Nat) : Moves 0x10000 s (State.shardEnd s b sh status) := by
  unfold State.shardEnd; with_reducible repeat' first | exact .refl _ | (apply Moves.step; apply State.updShard_moves; decide) | refine Moves.ite (fun _ => ?_) (fun _ => ?_) | dsimp only | split

theorem State.sendStepState_moves (s : State) (state status group bucket : Nat) : Moves 0x4 s (State.sendStepState s state status group bucket) := by
  unfold State.sendStepState; with_reducible repeat' first | exact .refl _ | (apply Moves.step; apply State.mgmt_moves; decide) | refine Moves.foldl _ _ (fun _ _ => ?_) ?_ | refine Moves.foldl₁ _ _ (fun _ _ => ?_) ?_ | dsimp only

theorem State.lookBlock_moves (s : State) (c : BucketCfg) (d : Nat) (carry : Bool) (e0 : Nat) : Moves 0x11000027e s (State.lookBlock s c d carry e0) := by
  unfold State.lookBlock; with_reducible repeat' first | exact .refl _ | (apply Moves.step; apply State.look_moves; decide) | refine Moves.foldl _ _ (fun _ _ => ?_) ?_ | refine Moves.foldl₁ _ _ (fun _ _ => ?_) ?_ | dsimp only

theorem State.shardFailed_moves (s : State) (br : BucketRun) (sh : Nat) : Moves 0x1126103fe s (State.shardFailed s br sh) := by
  unfold State.shardFailed; with_reducible repeat' first | exact .refl _ | (apply Moves.step; (first | apply State.redSend_moves | apply State.satF_moves | apply State.shardEnd_moves); decide) | refine Moves.ite (fun _ => ?_) (fun _ => ?_) | refine Moves.foldl _ _ (fun _ _ => ?_) ?_ | refine Moves.foldl₁ _ _ (fun _ _ => ?_) ?_ | (apply Moves.fst; assumption) | (apply Moves.snd; assumption) | dsimp only | split

theorem State.checkFailed_moves (s : State) (br : BucketRun) (sh : Nat) : Moves 0x1126103fe s (State.checkFailed s br sh) := by
  unfold State.checkFailed; with_reducible repeat' first | exact .refl _ | (apply Moves.step; (first | apply State.sendStepState_moves | apply State.shardFailed_moves); decide) | dsimp only

theorem State.nanFound_moves (s : State) (br : BucketRun) (d elem : Nat) : Moves 0x10010008 s (State.nanFound s br d elem) := by
  unfold State.nanFound; with_reducible repeat' first | exact .refl _ | (apply Moves.step; (first | apply State.orFlags_moves | apply State.raise_moves | apply State.setBucketRun_moves); decide) | refine Moves.ite (fun _ => ?_) (fun _ => ?_) | dsimp only | extract_lets | split

theorem State.sendResult_moves (s : State) (br : BucketRun) (x : ShardRun) (b : Nat) (r : BlockRec) (toN : List Nat) : Moves 0x1126103fe s (State.sendResult s br x b r toN) := by
  unfold State.sendResult; with_reducible repeat' first | exact .refl _ | (apply Moves.step; apply State.redSend_moves; decide) | refine Moves.ite (fun _ => ?_) (fun _ => ?_) | refine Moves.foldl _ _ (fun _ _ => ?_) ?_ | refine Moves.foldl₁ _ _ (fun _ _ => ?_) ?_ | dsimp only | extract_lets | split

theorem State.fillMissing_moves (s : State) (br : BucketRun) (x : ShardRun) (ownFrom : Option Nat) (fuel p : Nat) :
    Moves 0x1126103fe s (s.fillMissing br x ownFrom fuel p).1 := by
  induction fuel generalizing s x ownFrom p with
  | zero => exact .refl s
  | succ fuel ih =>
    unfold State.fillMissing
    extract_lets g n x1 left ended s1
    refine .foldl₁ _ _ (fun u q => ?_) ?_
    · split
      · exact .refl _
      · extract_lets y
        split
        · dsimp only
          exact .ite (fun _ => .refl _) (fun _ => (State.redSendPos_moves ..).mono (by decide))
        · exact ih ..
    · dsimp only [s1]
      split
      · exact .ite (fun _ => .refl _) (fun _ => (State.redSend_moves ..).mono (by decide))
      · exact .refl s

theorem State.fillAt_moves (s : State) (br : BucketRun) (x : ShardRun) (ownFrom : Option Nat) (p : Nat) : Moves 0x1126103fe s (State.fillAt s br x ownFrom p) := by
  unfold State.fillAt; with_reducible repeat' first | exact .refl _ | (apply Moves.step; (first | apply State.fillMissing_moves | apply State.sendResult_moves | apply State.setShardRun_moves); decide) | refine Moves.foldl _ _ (fun _ _ => ?_) ?_ | refine Moves.foldl₁ _ _ (fun _ _ => ?_) ?_ | (apply Moves.fst; assumption) | (apply Moves.snd; assumption) | dsimp only | extract_lets | split

theorem State.declareMissing_moves (s : State) (br : BucketRun) (x : ShardRun) (p : Nat) : Moves 0x1126103fe s (State.declareMissing s br x p) := by
  unfold State.declareMissing; with_reducible repeat' first | exact .refl _ | (apply Moves.step; apply State.fillAt_moves; decide) | refine Moves.ite (fun _ => ?_) (fun _ => ?_) | (apply Moves.fst; assumption) | (apply Moves.snd; assumption) | dsimp only | extract_lets | split

theorem State.electTop_moves (s : State) (br : BucketRun) (x : ShardRun) : Moves 0x1126103fe s (State.electTop s br x) := by
  unfold State.electTop; with_reducible repeat' first | exact .refl _ | (apply Moves.step; apply State.fillAt_moves; decide) | refine Moves.ite (fun _ => ?_) (fun _ => ?_) | dsimp only | extract_lets | split

theorem State.sendGo_moves (s : State) (br : BucketRun) (x : ShardRun) (n : RedNode) : Moves 0x1126103fe s (State.sendGo s br x n) := by
  unfold State.sendGo; with_reducible repeat' first | exact .refl _ | (apply Moves.step; (first | apply State.redSendPos_moves | apply State.setShardRun_moves); decide) | refine Moves.ite (fun _ => ?_) (fun _ => ?_) | dsimp only | split

theorem State.takeStart_moves (s : State) (br : BucketRun) (x : ShardRun) (dev : Nat) (backup : Bool) : Moves 0x1126103fe s (State.takeStart s br x dev backup) := by
  unfold State.takeStart; with_reducible repeat' first | exact .refl _ | (apply Moves.step; (first | apply State.redSendPos_moves | apply State.sendGo_moves | apply State.setShardRun_moves); decide) | refine Moves.ite (fun _ => ?_) (fun _ => ?_) | (apply Moves.fst; assumption) | (apply Moves.snd; assumption) | dsimp only | extract_lets | split

theorem State.takeAbsent_moves (s : State) (br : BucketRun) (x : ShardRun) (dev code : Nat) : Moves 0x1126103fe s (State.takeAbsent s br x dev code) := by
  unfold State.takeAbsent; with_reducible repeat' first | exact .refl _ | (apply Moves.step; (first | apply State.declareMissing_moves | apply State.electTop_moves | apply State.setShardRun_moves | apply State.shardFailed_moves); decide) | refine Moves.ite (fun _ => ?_) (fun _ => ?_) | (apply Moves.fst; assumption) | (apply Moves.snd; assumption) | dsimp only | extract_lets | split

theorem State.takeEarly_moves (s : State) (n : Nat) : Moves 0x1126103fe s (State.takeEarly s n) := by
  unfold State.takeEarly; with_reducible repeat' first | exact .refl _ | (apply Moves.step; (first | apply State.setRed_moves | apply State.takeAbsent_moves | apply State.takeStart_moves); decide) | refine Moves.ite (fun _ => ?_) (fun _ => ?_) | refine Moves.foldl _ _ (fun _ _ => ?_) ?_ | refine Moves.foldl₁ _ _ (fun _ _ => ?_) ?_ | (apply Moves.fst; assumption) | (apply Moves.snd; assumption) | dsimp only | extract_lets | split

theorem State.launchShards_moves (s : State) (br : BucketRun) (d : Nat) : Moves 0x10000 s (State.launchShards s br d) := by
  unfold State.launchShards; with_reducible repeat' first | exact .refl _ | (apply Moves.step; apply State.setRed_moves; decide) | refine Moves.ite (fun _ => ?_) (fun _ => ?_) | refine Moves.foldl _ _ (fun _ _ => ?_) ?_ | refine Moves.foldl₁ _ _ (fun _ _ => ?_) ?_ | dsimp only | extract_lets | split

theorem State.launchDie_moves (s : State) (d : Nat) : Moves 0x10000 s (State.launchDie s d) := by
  unfold State.launchDie; with_reducible repeat' first | exact .refl _ | (apply Moves.step; (first | apply State.launchShards_moves | apply State.setBucketRun_moves); decide) | refine Moves.ite (fun _ => ?_) (fun _ => ?_) | refine Moves.foldl _ _ (fun _ _ => ?_) ?_ | refine Moves.foldl₁ _ _ (fun _ _ => ?_) ?_ | dsimp only | extract_lets | split

theorem State.lookTables_moves (s : State) : Moves 0x11000027e s (State.lookTables s) := by
  unfold State.lookTables; with_reducible repeat' first | exact .refl _ | (apply Moves.step; apply State.look_moves; decide) | refine Moves.ite (fun _ => ?_) (fun _ => ?_) | refine Moves.foldl _ _ (fun _ _ => ?_) ?_ | refine Moves.foldl₁ _ _ (fun _ _ => ?_) ?_ | dsimp only | extract_lets | split

theorem State.requestEarly_moves (s : State) : Moves 0x20008 s (State.requestEarly s) := by
  unfold State.requestEarly; with_reducible repeat' first | exact .refl _ | (apply Moves.step; (first | apply State.requestUpdate_moves | apply State.setUpd_moves); decide) | refine Moves.foldl _ _ (fun _ _ => ?_) ?_ | refine Moves.foldl₁ _ _ (fun _ _ => ?_) ?_ | dsimp only

theorem State.launchRecord_moves (s : State) (n base : Nat) (resume : Bool) : Moves 0x10000 s (State.launchRecord s n base resume) := by
  unfold State.launchRecord; with_reducible repeat' first | exact .refl _ | (apply Moves.step; apply State.setRed_moves; decide) | refine Moves.ite (fun _ => ?_) (fun _ => ?_) | refine Moves.foldl _ _ (fun _ _ => ?_) ?_ | refine Moves.foldl₁ _ _ (fun _ _ => ?_) ?_ | dsimp only | split

theorem State.sendStart_moves (s : State) (br : BucketRun) (x : ShardRun) : Moves 0x1126103fe s (State.sendStart s br x) := by
  unfold State.sendStart; with_reducible repeat' first | exact .refl _ | (apply Moves.step; (first | apply State.redSendPos_moves | apply State.setShardRun_moves); decide) | refine Moves.ite (fun _ => ?_) (fun _ => ?_) | dsimp only | extract_lets | split

theorem State.sendGos_moves (s : State) (br : BucketRun) (sh : Nat) : Moves 0x1126103fe s (State.sendGos s br sh) := by
  unfold State.sendGos; with_reducible repeat' first | exact .refl _ | (apply Moves.step; apply State.sendGo_moves; decide) | refine Moves.foldl _ _ (fun _ _ => ?_) ?_ | refine Moves.foldl₁ _ _ (fun _ _ => ?_) ?_ | (apply Moves.fst; assumption) | (apply Moves.snd; assumption) | dsimp only | split

theorem State.withhold_moves (s : State) (br : BucketRun) (x : ShardRun) (why : Withheld) : Moves 0x1126103fe s (State.withhold s br x why) := by
  unfold State.withhold; with_reducible repeat' first | exact .refl _ | (apply Moves.step; (first | apply State.redSendPos_moves | apply State.setShardRun_moves); decide) | refine Moves.ite (fun _ => ?_) (fun _ => ?_) | (apply Moves.fst; assumption) | (apply Moves.snd; assumption) | dsimp only | extract_lets | split

theorem State.lookShard_moves (s : State) (br : BucketRun) (sh : Nat) : Moves 0x11000027e s (State.lookShard s br sh) := by
  unfold State.lookShard; with_reducible repeat' first | exact .refl _ | (apply Moves.step; apply State.look_moves; decide) | refine Moves.foldl _ _ (fun _ _ => ?_) ?_ | refine Moves.foldl₁ _ _ (fun _ _ => ?_) ?_ | dsimp only | extract_lets | split

theorem State.releaseStart_moves (s : State) (b sh : Nat) : Moves 0x1126103fe s (State.releaseStart s b sh) := by
  unfold State.releaseStart; with_reducible repeat' first | exact .refl _ | (apply Moves.step; (first | apply State.lookShard_moves | apply State.sendStart_moves | apply State.withhold_moves); decide) | refine Moves.ite (fun _ => ?_) (fun _ => ?_) | (apply Moves.fst; assumption) | (apply Moves.snd; assumption) | dsimp only | extract_lets | split

theorem State.startShards_moves (s : State) (b d : Nat) : Moves 0x1126103fe s (State.startShards s b d) := by
  unfold State.startShards; with_reducible repeat' first | exact .refl _ | (apply Moves.step; apply State.releaseStart_moves; decide) | refine Moves.foldl _ _ (fun _ _ => ?_) ?_ | refine Moves.foldl₁ _ _ (fun _ _ => ?_) ?_ | dsimp only

theorem State.startAll_moves (s : State) : Moves 0x1126103fe s (State.startAll s) := by
  unfold State.startAll; with_reducible repeat' first | exact .refl _ | (apply Moves.step; apply State.startShards_moves; decide) | refine Moves.foldl _ _ (fun _ _ => ?_) ?_ | refine Moves.foldl₁ _ _ (fun _ _ => ?_) ?_ | dsimp only

theorem State.saveRange_moves (s : State) (bucket a n : Nat) : Moves 0x10000 s (State.saveRange s bucket a n) := by
  unfold State.saveRange; with_reducible repeat' first | exact .refl _ | (apply Moves.step; apply State.setRed_moves; decide) | refine Moves.ite (fun _ => ?_) (fun _ => ?_) | (apply Moves.fst; assumption) | (apply Moves.snd; assumption) | dsimp only | split

theorem State.keepShard_moves (s : State) (br : BucketRun) (sh : Nat) : Moves 0x10000 s (State.keepShard s br sh) := by
  unfold State.keepShard; with_reducible repeat' first | exact .refl _ | (apply Moves.step; apply State.setRed_moves; decide) | refine Moves.ite (fun _ => ?_) (fun _ => ?_) | refine Moves.foldl _ _ (fun _ _ => ?_) ?_ | refine Moves.foldl₁ _ _ (fun _ _ => ?_) ?_ | (apply Moves.fst; assumption) | (apply Moves.snd; assumption) | dsimp only | extract_lets | split

theorem State.copyCarry_moves (s : State) (br : BucketRun) (sh from_ : Nat) : Moves 0x11001027e s (State.copyCarry s br sh from_) := by
  unfold State.copyCarry; with_reducible repeat' first | exact .refl _ | (apply Moves.step; (first | apply State.localRead_moves | apply State.localWrite_moves | apply State.saveRange_moves | apply State.setF_moves | apply State.setRed_moves); decide) | refine Moves.ite (fun _ => ?_) (fun _ => ?_) | dsimp only | extract_lets | split

theorem State.writeValues_moves (s : State) (br : BucketRun) (sh b : Nat) (ws : List Nat) (ps : List Bool) : Moves 0x11001027e s (State.writeValues s br sh b ws ps) := by
  unfold State.writeValues; with_reducible repeat' first | exact .refl _ | (apply Moves.step; (first | apply State.localWrite_moves | apply State.saveRange_moves); decide) | refine Moves.ite (fun _ => ?_) (fun _ => ?_) | dsimp only | extract_lets | split

theorem State.writeResult_moves (s : State) (br : BucketRun) (sh b : Nat) (r : BlockRec) : Moves 0x11001027e s (State.writeResult s br sh b r) := by
  unfold State.writeResult; with_reducible repeat' first | exact .refl _ | (apply Moves.step; (first | apply State.orFlags_moves | apply State.writeValues_moves); decide) | refine Moves.foldl _ _ (fun _ _ => ?_) ?_ | refine Moves.foldl₁ _ _ (fun _ _ => ?_) ?_ | dsimp only | extract_lets | split

theorem State.sendFinals_moves (s : State) (br : BucketRun) (x : ShardRun) (dev : Nat) : Moves 0x1126103fe s (State.sendFinals s br x dev) := by
  unfold State.sendFinals; with_reducible repeat' first | exact .refl _ | (apply Moves.step; (first | apply State.localRead_moves | apply State.redSendMarked_moves); decide) | refine Moves.ite (fun _ => ?_) (fun _ => ?_) | refine Moves.foldl _ _ (fun _ _ => ?_) ?_ | refine Moves.foldl₁ _ _ (fun _ _ => ?_) ?_ | dsimp only | extract_lets | split

theorem State.shardFinal_moves (s : State) (br : BucketRun) (sh : Nat) : Moves 0x1126103fe s (State.shardFinal s br sh) := by
  unfold State.shardFinal; with_reducible repeat' first | exact .refl _ | (apply Moves.step; (first | apply State.sendFinals_moves | apply State.setRed_moves | apply State.shardEnd_moves | apply State.updShard_moves); decide) | refine Moves.ite (fun _ => ?_) (fun _ => ?_) | refine Moves.foldl _ _ (fun _ _ => ?_) ?_ | refine Moves.foldl₁ _ _ (fun _ _ => ?_) ?_ | (apply Moves.fst; assumption) | (apply Moves.snd; assumption) | dsimp only | extract_lets | split

theorem State.takeResult_moves (s : State) (br : BucketRun) (sh b : Nat) (r : BlockRec) (trailer : Option (Nat × Nat × Nat)) : Moves 0x1126103fe s (State.takeResult s br sh b r trailer) := by
  unfold State.takeResult; with_reducible repeat' first | exact .refl _ | (apply Moves.step; (first | apply State.copyCarry_moves | apply State.keepShard_moves | apply State.sendResult_moves | apply State.setShardRun_moves | apply State.shardFinal_moves | apply State.writeResult_moves); decide) | refine Moves.ite (fun _ => ?_) (fun _ => ?_) | refine Moves.foldl _ _ (fun _ _ => ?_) ?_ | refine Moves.foldl₁ _ _ (fun _ _ => ?_) ?_ | (apply Moves.fst; assumption) | (apply Moves.snd; assumption) | dsimp only | extract_lets | split

theorem State.suspectHop_moves (s : State) (br : BucketRun) (sh p : Nat) : Moves 0x10010008 s (State.suspectHop s br sh p) := by
  unfold State.suspectHop; with_reducible repeat' first | exact .refl _ | (apply Moves.step; (first | apply State.raise_moves | apply State.satF_moves | apply State.setBucketRun_moves); decide) | dsimp only | extract_lets | split

theorem State.mismatch_moves (s : State) (br : BucketRun) (x : ShardRun) (p b : Nat) (own : Bool) : Moves 0x1126103fe s (State.mismatch s br x p b own) := by
  unfold State.mismatch; with_reducible repeat' first | exact .refl _ | (apply Moves.step; (first | apply State.checkFailed_moves | apply State.fillAt_moves | apply State.redSend_moves | apply State.redSendPos_moves | apply State.satF_moves | apply State.setShardRun_moves | apply State.suspectHop_moves); decide) | refine Moves.ite (fun _ => ?_) (fun _ => ?_) | (apply Moves.fst; assumption) | (apply Moves.snd; assumption) | dsimp only | extract_lets | split

theorem State.normUnits_moves (s : State) (x : Nat) : Moves 0x2 s (State.normUnits s x).1 := by
  unfold State.normUnits; with_reducible repeat' first | exact .refl _ | dsimp only | (apply Moves.step; apply State.takeFree_moves; decide) | (apply Moves.fst; assumption) | (apply Moves.snd; assumption) | extract_lets | split

theorem State.putOutput_moves (s : State) (br : BucketRun) (x : ShardRun) (b : Nat) (r : BlockRec) : Moves 0x1126103fe s (State.putOutput s br x b r) := by
  unfold State.putOutput; with_reducible repeat' first | exact .refl _ | (apply Moves.step; (first | apply State.redSend_moves | apply State.setShardRun_moves | apply State.takeResult_moves); decide) | refine Moves.ite (fun _ => ?_) (fun _ => ?_) | refine Moves.foldl _ _ (fun _ _ => ?_) ?_ | refine Moves.foldl₁ _ _ (fun _ _ => ?_) ?_ | dsimp only | extract_lets | split

theorem State.foldNext_moves (s : State) (br : BucketRun) (x : ShardRun) : Moves 0x1126103fe s (State.foldNext s br x) := by
  unfold State.foldNext; with_reducible repeat' first | exact .refl _ | (apply Moves.step; (first | apply State.lookBlock_moves | apply State.mismatch_moves | apply State.nanFound_moves | apply State.normUnits_moves | apply State.orFlags_moves | apply State.putOutput_moves | apply State.setRed_moves | apply State.withhold_moves); decide) | refine Moves.ite (fun _ => ?_) (fun _ => ?_) | refine Moves.foldl _ _ (fun _ _ => ?_) ?_ | refine Moves.foldl₁ _ _ (fun _ _ => ?_) ?_ | (apply Moves.fst; assumption) | (apply Moves.snd; assumption) | dsimp only | extract_lets | split

theorem State.shardDepartures_moves (s : State) (br : BucketRun) (x : ShardRun) : Moves 0x1126103fe s (State.shardDepartures s br x) := by
  unfold State.shardDepartures; with_reducible repeat' first | exact .refl _ | (apply Moves.step; (first | apply State.declareMissing_moves | apply State.electTop_moves | apply State.sendStepState_moves | apply State.setShardRun_moves | apply State.shardEnd_moves | apply State.withhold_moves); decide) | refine Moves.ite (fun _ => ?_) (fun _ => ?_) | refine Moves.foldl _ _ (fun _ _ => ?_) ?_ | refine Moves.foldl₁ _ _ (fun _ _ => ?_) ?_ | (apply Moves.fst; assumption) | (apply Moves.snd; assumption) | dsimp only | extract_lets | split

theorem State.redDepartures_moves (s : State) : Moves 0x1126103fe s (State.redDepartures s) := by
  unfold State.redDepartures; with_reducible repeat' first | exact .refl _ | (apply Moves.step; apply State.shardDepartures_moves; decide) | refine Moves.foldl _ _ (fun _ _ => ?_) ?_ | refine Moves.foldl₁ _ _ (fun _ _ => ?_) ?_ | (apply Moves.fst; assumption) | (apply Moves.snd; assumption) | dsimp only | split

theorem State.launchStep_moves (s : State) (n base : Nat) (resume : Bool) : Moves 0x1126303fe s (State.launchStep s n base resume) := by
  unfold State.launchStep; with_reducible repeat' first | exact .refl _ | (apply Moves.step; (first | apply State.launchDie_moves | apply State.launchRecord_moves | apply State.lookTables_moves | apply State.redDepartures_moves | apply State.requestEarly_moves | apply State.setF_moves | apply State.startAll_moves | apply State.takeEarly_moves); decide) | refine Moves.ite (fun _ => ?_) (fun _ => ?_) | refine Moves.foldl _ _ (fun _ _ => ?_) ?_ | refine Moves.foldl₁ _ _ (fun _ _ => ?_) ?_ | dsimp only | extract_lets | split

theorem State.redFence_moves (s : State) (d : Nat) : Moves 0x1126103fe s (State.redFence s d) := by
  unfold State.redFence; with_reducible repeat' first | exact .refl _ | (apply Moves.step; (first | apply State.redSend_moves | apply State.setRed_moves); decide) | refine Moves.ite (fun _ => ?_) (fun _ => ?_) | refine Moves.foldl _ _ (fun _ _ => ?_) ?_ | refine Moves.foldl₁ _ _ (fun _ _ => ?_) ?_ | (apply Moves.fst; assumption) | (apply Moves.snd; assumption) | dsimp only | extract_lets | split

theorem State.recallShard_moves (s : State) (br : BucketRun) (x : ShardRun) : Moves 0x1126103fe s (State.recallShard s br x) := by
  unfold State.recallShard; with_reducible repeat' first | exact .refl _ | (apply Moves.step; (first | apply State.declareMissing_moves | apply State.electTop_moves | apply State.setShardRun_moves); decide) | refine Moves.ite (fun _ => ?_) (fun _ => ?_) | refine Moves.foldl _ _ (fun _ _ => ?_) ?_ | refine Moves.foldl₁ _ _ (fun _ _ => ?_) ?_ | (apply Moves.fst; assumption) | (apply Moves.snd; assumption) | dsimp only | extract_lets | split

theorem State.laterDepartures_moves (s : State) (b sh : Nat) : Moves 0x1126103fe s (State.laterDepartures s b sh) := by
  unfold State.laterDepartures; with_reducible repeat' first | exact .refl _ | (apply Moves.step; apply State.shardDepartures_moves; decide) | (apply Moves.fst; assumption) | (apply Moves.snd; assumption) | dsimp only | split

theorem State.redRejoin_moves (s : State) (d : Nat) : Moves 0x1126103fe s (State.redRejoin s d) := by
  unfold State.redRejoin; with_reducible repeat' first | exact .refl _ | (apply Moves.step; (first | apply State.laterDepartures_moves | apply State.launchDie_moves | apply State.recallShard_moves | apply State.redSendPos_moves | apply State.releaseStart_moves | apply State.setShardRun_moves); decide) | refine Moves.ite (fun _ => ?_) (fun _ => ?_) | refine Moves.foldl _ _ (fun _ _ => ?_) ?_ | refine Moves.foldl₁ _ _ (fun _ _ => ?_) ?_ | (apply Moves.fst; assumption) | (apply Moves.snd; assumption) | dsimp only | extract_lets | split

theorem State.withdraw_moves (s : State) (b sh : Nat) : Moves 0x20101c8 s (State.withdraw s b sh) := by
  unfold State.withdraw; with_reducible repeat' first | exact .refl _ | (apply Moves.step; (first | apply State.dropWaiters_moves | apply State.endWhere_moves | apply State.setRed_moves); decide) | refine Moves.foldl _ _ (fun _ _ => ?_) ?_ | refine Moves.foldl₁ _ _ (fun _ _ => ?_) ?_ | (apply Moves.fst; assumption) | (apply Moves.snd; assumption) | dsimp only | extract_lets | split

theorem State.redAnswers_moves (s : State) (d : Nat) : Moves 0x1126103fe s (State.redAnswers s d) := by
  unfold State.redAnswers; with_reducible repeat' first | exact .refl _ | (apply Moves.step; (first | apply State.setRed_moves | apply State.setTracker_moves | apply State.shardEnd_moves | apply State.shardFailed_moves | apply State.withdraw_moves); decide) | refine Moves.ite (fun _ => ?_) (fun _ => ?_) | refine Moves.foldl _ _ (fun _ _ => ?_) ?_ | refine Moves.foldl₁ _ _ (fun _ _ => ?_) ?_ | (apply Moves.fst; assumption) | (apply Moves.snd; assumption) | dsimp only | extract_lets | split

theorem State.bucketReport_moves (s : State) (br : BucketRun) (status : Nat) : Moves 0x11200037e s (State.bucketReport s br status) := by
  unfold State.bucketReport; with_reducible repeat' first | exact .refl _ | (apply Moves.step; (first | apply State.post_moves | apply State.postKind_moves); decide) | refine Moves.ite (fun _ => ?_) (fun _ => ?_) | dsimp only | extract_lets | split

theorem State.finalizeBucket_moves (s : State) (br : BucketRun) (status : Nat) : Moves 0x11203037e s (State.finalizeBucket s br status) := by
  unfold State.finalizeBucket; with_reducible repeat' first | exact .refl _ | (apply Moves.step; (first | apply State.addF_moves | apply State.bucketReport_moves | apply State.requestUpdate_moves | apply State.setBucketRun_moves | apply State.setF_moves | apply State.setRed_moves); decide) | refine Moves.ite (fun _ => ?_) (fun _ => ?_) | dsimp only | extract_lets | split

theorem State.settleBuckets_moves (s : State) : Moves 0x11203037e s (State.settleBuckets s) := by
  unfold State.settleBuckets; with_reducible repeat' first | exact .refl _ | (apply Moves.step; (first | apply State.bucketReport_moves | apply State.finalizeBucket_moves | apply State.setBucketRun_moves); decide) | refine Moves.ite (fun _ => ?_) (fun _ => ?_) | refine Moves.foldl _ _ (fun _ _ => ?_) ?_ | refine Moves.foldl₁ _ _ (fun _ _ => ?_) ?_ | dsimp only | extract_lets | split

theorem State.settleNoise_moves (s : State) : Moves 0x11001037e s (State.settleNoise s) := by
  unfold State.settleNoise; with_reducible repeat' first | exact .refl _ | (apply Moves.step; (first | apply State.post_moves | apply State.setRed_moves); decide) | refine Moves.ite (fun _ => ?_) (fun _ => ?_) | refine Moves.foldl _ _ (fun _ _ => ?_) ?_ | refine Moves.foldl₁ _ _ (fun _ _ => ?_) ?_ | (apply Moves.fst; assumption) | (apply Moves.snd; assumption) | dsimp only | extract_lets | split

end Sys2Proof.Machine
end

