-- ==== Sys2Proof/Laws/MovesPosOps.lean ====
section
/-!
SUPPORT. What each definition of Machine/PosOps.lean may change: one Moves lemma each.
-/
set_option Elab.async false
set_option linter.all false

namespace Sys2Proof.Machine

open Sys2Proof

theorem State.advancePos_moves (s : State) (d : Nat) : Moves 0x8 s (State.advancePos s d) := by
  unfold State.advancePos; with_reducible repeat' first | exact .refl _ | (apply Moves.step; apply State.setReg_moves; decide) | refine Moves.ite (fun _ => ?_) (fun _ => ?_) | dsimp only | split

theorem State.writePos_moves (s : State) (d v : Nat) : Moves 0x8 s (State.writePos s d v) := by
  unfold State.writePos; with_reducible repeat' first | exact .refl _ | (apply Moves.step; (first | apply State.advancePos_moves | apply State.setF_moves | apply State.setReg_moves); decide) | refine Moves.ite (fun _ => ?_) (fun _ => ?_) | dsimp only | extract_lets | split

theorem State.enterPos_moves (s : State) (d : Nat) : Moves 0x10008 s (State.enterPos s d) := by
  unfold State.enterPos; with_reducible repeat' first | exact .refl _ | (apply Moves.step; (first | apply State.setRed_moves | apply State.setReg_moves); decide) | dsimp only | extract_lets | split

end Sys2Proof.Machine
end

