-- ==== Sys2Proof/Laws/MovesUpdProg.lean ====
section
/-!
SUPPORT. What each definition of Machine/UpdProg.lean may change: one Moves lemma each.
-/
set_option Elab.async false
set_option linter.all false

namespace Sys2Proof.Machine

open Sys2Proof

theorem State.freeNat_moves (s : State) (k : Nat) : Moves 0x2 s (s.freeNat k).2 := by
  induction k with
  | zero => exact .refl s
  | succ k ih => exact (State.takeFree_moves _).step (by decide) ih

theorem State.freshRegs_moves (s : State) (ws : List Nat) : Moves 0x2 s (s.freshRegs ws).2 := by
  unfold State.freshRegs
  refine Moves.foldl₂ _ _ (fun u r => ?_) (.refl _)
  dsimp only
  split <;> exact State.freeNat_moves ..

end Sys2Proof.Machine
end

