-- ==== Sys2Proof/Laws/MovesUpdOps.lean ====
section
/-!
SUPPORT. What each definition of Machine/UpdOps.lean may change: one Moves lemma each.
-/
set_option Elab.async false
set_option linter.all false

namespace Sys2Proof.Machine

open Sys2Proof

theorem State.setUpdRun_moves (s : State) (x : UpdRun) : Moves 0x20000 s (State.setUpdRun s x) := by
  unfold State.setUpdRun; with_reducible repeat' first | exact .refl _ | (apply Moves.step; apply State.setUpd_moves; decide) | refine Moves.ite (fun _ => ?_) (fun _ => ?_) | dsimp only | extract_lets | split

theorem State.setEngBlocks_moves (s : State) (d j : Nat) (l : List BlkRun) : Moves 0x20008 s (State.setEngBlocks s d j l) := by
  unfold State.setEngBlocks; with_reducible repeat' first | exact .refl _ | (apply Moves.step; (first | apply State.setF_moves | apply State.setUpd_moves); decide) | refine Moves.ite (fun _ => ?_) (fun _ => ?_) | dsimp only | extract_lets | split

theorem State.setBlk_moves (s : State) (d j : Nat) (x : BlkRun) : Moves 0x20008 s (State.setBlk s d j x) := by
  unfold State.setBlk; with_reducible repeat' first | exact .refl _ | (apply Moves.step; apply State.setEngBlocks_moves; decide) | refine Moves.ite (fun _ => ?_) (fun _ => ?_) | dsimp only | split

theorem State.dropBlk_moves (s : State) (d j : Nat) (x : BlkRun) : Moves 0x20008 s (State.dropBlk s d j x) := by
  unfold State.dropBlk; with_reducible repeat' first | exact .refl _ | (apply Moves.step; apply State.setEngBlocks_moves; decide) | dsimp only

theorem State.setEngFetches_moves (s : State) (d j : Nat) (l : List BlkFetch) : Moves 0x20008 s (State.setEngFetches s d j l) := by
  unfold State.setEngFetches; with_reducible repeat' first | exact .refl _ | (apply Moves.step; (first | apply State.setF_moves | apply State.setUpd_moves); decide) | dsimp only

theorem State.noteUpdFault_moves (s : State) (d b slot code pc : Nat) : Moves 0x8 s (State.noteUpdFault s d b slot code pc) := by
  unfold State.noteUpdFault; with_reducible repeat' first | exact .refl _ | (apply Moves.step; apply State.setF_moves; decide) | refine Moves.ite (fun _ => ?_) (fun _ => ?_) | refine Moves.foldl _ _ (fun _ _ => ?_) ?_ | refine Moves.foldl₁ _ _ (fun _ _ => ?_) ?_ | dsimp only | extract_lets | split

theorem State.fetchBlock_moves (s : State) (r : UpdRun) (j b : Nat) : Moves 0x1126203fe s (State.fetchBlock s r j b) := by
  unfold State.fetchBlock; with_reducible repeat' first | exact .refl _ | (apply Moves.step; (first | apply State.remoteIssue_moves_no | apply State.setEngFetches_moves | apply noFire_moves); decide) | refine Moves.foldl _ _ (fun _ _ => ?_) ?_ | refine Moves.foldl₁ _ _ (fun _ _ => ?_) ?_ | (apply Moves.fst; assumption) | (apply Moves.snd; assumption) | dsimp only | extract_lets | split

theorem State.fetchAhead_moves (s : State) (r : UpdRun) : Moves 0x1126203fe s (State.fetchAhead s r) := by
  unfold State.fetchAhead; with_reducible repeat' first | exact .refl _ | (apply Moves.step; apply State.fetchBlock_moves; decide) | refine Moves.ite (fun _ => ?_) (fun _ => ?_) | refine Moves.foldl _ _ (fun _ _ => ?_) ?_ | refine Moves.foldl₁ _ _ (fun _ _ => ?_) ?_ | dsimp only | split

theorem State.dropFetches_moves (s : State) (d : Nat) (p : BlkFetch → Bool) : Moves 0x20008 s (State.dropFetches s d p) := by
  unfold State.dropFetches; with_reducible repeat' first | exact .refl _ | (apply Moves.step; apply State.setEngFetches_moves; decide) | refine Moves.ite (fun _ => ?_) (fun _ => ?_) | refine Moves.foldl _ _ (fun _ _ => ?_) ?_ | refine Moves.foldl₁ _ _ (fun _ _ => ?_) ?_ | dsimp only | split

theorem State.noteWaits_moves (s : State) (r : UpdRun) : Moves 0x20008 s (State.noteWaits s r) := by
  unfold State.noteWaits; with_reducible repeat' first | exact .refl _ | (apply Moves.step; (first | apply State.addF_moves | apply State.setUpdRun_moves); decide) | refine Moves.ite (fun _ => ?_) (fun _ => ?_) | refine Moves.foldl _ _ (fun _ _ => ?_) ?_ | refine Moves.foldl₁ _ _ (fun _ _ => ?_) ?_ | (apply Moves.fst; assumption) | (apply Moves.snd; assumption) | dsimp only | split

theorem State.prefetchRequest_moves (s : State) (b step : Nat) : Moves 0x1126203fe s (State.prefetchRequest s b step) := by
  unfold State.prefetchRequest; with_reducible repeat' first | exact .refl _ | (apply Moves.step; (first | apply State.fetchAhead_moves | apply State.setUpdRun_moves); decide) | refine Moves.ite (fun _ => ?_) (fun _ => ?_) | refine Moves.foldl _ _ (fun _ _ => ?_) ?_ | refine Moves.foldl₁ _ _ (fun _ _ => ?_) ?_ | dsimp only | extract_lets | split

theorem State.armLook_moves (s : State) (b d : Nat) : Moves 0x11000027e s (State.armLook s b d) := by
  unfold State.armLook; with_reducible repeat' first | exact .refl _ | (apply Moves.step; apply State.look_moves; decide) | refine Moves.ite (fun _ => ?_) (fun _ => ?_) | dsimp only | extract_lets | split

theorem State.armRun_moves (s : State) (b d step : Nat) (lost : Bool) : Moves 0x1126203fe s (State.armRun s b d step lost) := by
  unfold State.armRun; with_reducible repeat' first | exact .refl _ | (apply Moves.step; (first | apply State.armLook_moves | apply State.dropFetches_moves | apply State.fetchAhead_moves | apply State.localRead_moves | apply State.noteUpdFault_moves | apply State.noteWaits_moves | apply State.setUpd_moves | apply State.setUpdRun_moves); decide) | refine Moves.ite (fun _ => ?_) (fun _ => ?_) | (apply Moves.fst; assumption) | (apply Moves.snd; assumption) | dsimp only | extract_lets | split

theorem State.noteJournal_moves (s : State) (d j : Nat) : Moves 0x8 s (State.noteJournal s d j) := by
  unfold State.noteJournal; with_reducible repeat' first | exact .refl _ | (apply Moves.step; apply State.setF_moves; decide) | dsimp only

theorem State.writeSnap_moves (s : State) (d j : Nat) (x : BlkRun) : Moves 0x11000027e s (State.writeSnap s d j x) := by
  unfold State.writeSnap; with_reducible repeat' first | exact .refl _ | (apply Moves.step; (first | apply State.localWrite_moves | apply State.noteJournal_moves | apply State.setF_moves); decide) | refine Moves.ite (fun _ => ?_) (fun _ => ?_) | dsimp only | extract_lets | split

theorem State.writeStreams_moves (s : State) (r : UpdRun) (j block : Nat) (state : List (List Byte)) (ks : List Nat) : Moves 0x1126003fe s (State.writeStreams s r j block state ks).1 := by
  unfold State.writeStreams; with_reducible repeat' first | exact .refl _ | dsimp only | (apply Moves.step; (first | apply State.localWrite_moves | apply State.remoteIssue_moves_no | apply noFire_moves); decide) | refine Moves.ite (fun _ => ?_) (fun _ => ?_) | refine Moves.foldl _ _ (fun _ _ => ?_) ?_ | refine Moves.foldl₁ _ _ (fun _ _ => ?_) ?_ | extract_lets | split

theorem State.freeJournal_moves (s : State) (d j slot : Nat) : Moves 0x11000027e s (State.freeJournal s d j slot) := by
  unfold State.freeJournal; with_reducible repeat' first | exact .refl _ | (apply Moves.step; (first | apply State.localWrite_moves | apply State.noteJournal_moves); decide) | dsimp only

theorem State.endBlock_moves (s : State) (d j : Nat) (x : BlkRun) (outcome : Nat) : Moves 0x1126203fe s (State.endBlock s d j x outcome) := by
  unfold State.endBlock; with_reducible repeat' first | exact .refl _ | (apply Moves.step; (first | apply State.addF_moves | apply State.dropBlk_moves | apply State.fetchAhead_moves | apply State.noteWaits_moves | apply State.setEngFetches_moves | apply State.setUpdRun_moves); decide) | refine Moves.ite (fun _ => ?_) (fun _ => ?_) | refine Moves.foldl _ _ (fun _ _ => ?_) ?_ | refine Moves.foldl₁ _ _ (fun _ _ => ?_) ?_ | (apply Moves.fst; assumption) | (apply Moves.snd; assumption) | dsimp only | extract_lets | split

theorem State.collectOuter_moves (s : State) (d : Nat) : Moves 0x20088 s (State.collectOuter s d) := by
  unfold State.collectOuter; with_reducible repeat' first | exact .refl _ | (apply Moves.step; (first | apply State.setBlk_moves | apply State.setTracker_moves); decide) | refine Moves.ite (fun _ => ?_) (fun _ => ?_) | refine Moves.foldl _ _ (fun _ _ => ?_) ?_ | refine Moves.foldl₁ _ _ (fun _ _ => ?_) ?_ | (apply Moves.fst; assumption) | (apply Moves.snd; assumption) | dsimp only | extract_lets | split

theorem State.requeue_moves (s : State) (b d step block : Nat) : Moves 0x20000 s (State.requeue s b d step block) := by
  unfold State.requeue; with_reducible repeat' first | exact .refl _ | (apply Moves.step; apply State.setUpdRun_moves; decide) | (apply Moves.fst; assumption) | (apply Moves.snd; assumption) | dsimp only | split

theorem State.restoreLanded_moves (s : State) (d : Nat) (x : BlkRun) : Moves 0x11002027e s (State.restoreLanded s d x) := by
  unfold State.restoreLanded; with_reducible repeat' first | exact .refl _ | (apply Moves.step; (first | apply State.freeJournal_moves | apply State.localWrite_moves | apply State.requeue_moves); decide) | refine Moves.ite (fun _ => ?_) (fun _ => ?_) | dsimp only | split

theorem State.restoreBlock_moves (s : State) (d j b block step slot snap : Nat) : Moves 0x1126203fe s (State.restoreBlock s d j b block step slot snap) := by
  unfold State.restoreBlock; with_reducible repeat' first | exact .refl _ | (apply Moves.step; (first | apply State.localRead_moves | apply State.restoreLanded_moves | apply State.setEngBlocks_moves | apply State.writeStreams_moves); decide) | refine Moves.ite (fun _ => ?_) (fun _ => ?_) | dsimp only | extract_lets | split

theorem State.recoverSlot_moves (s : State) (d j slot : Nat) : Moves 0x1126203fe s (State.recoverSlot s d j slot) := by
  unfold State.recoverSlot; with_reducible repeat' first | exact .refl _ | (apply Moves.step; (first | apply State.freeJournal_moves | apply State.look_moves | apply State.restoreBlock_moves); decide) | refine Moves.ite (fun _ => ?_) (fun _ => ?_) | dsimp only | extract_lets | split

theorem State.recoverJournals_moves (s : State) (d : Nat) : Moves 0x1126203fe s (State.recoverJournals s d) := by
  unfold State.recoverJournals; with_reducible repeat' first | exact .refl _ | (apply Moves.step; (first | apply State.look_moves | apply State.recoverSlot_moves); decide) | refine Moves.foldl _ _ (fun _ _ => ?_) ?_ | refine Moves.foldl₁ _ _ (fun _ _ => ?_) ?_ | dsimp only

theorem State.recover_moves (s : State) (d : Nat) : Moves 0x1126203fe s (State.recover s d) := by
  unfold State.recover; with_reducible repeat' first | exact .refl _ | (apply Moves.step; (first | apply State.recoverJournals_moves | apply State.setUpd_moves); decide) | refine Moves.ite (fun _ => ?_) (fun _ => ?_) | dsimp only | extract_lets | split

theorem State.recoverDie_moves (s : State) (d : Nat) : Moves 0x1126203fe s (State.recoverDie s d) := by
  unfold State.recoverDie; with_reducible repeat' first | exact .refl _ | (apply Moves.step; (first | apply State.recover_moves | apply State.setUpd_moves); decide) | dsimp only

theorem State.settleRecover_moves (s : State) (d : Nat) : Moves 0x1126203fe s (State.settleRecover s d) := by
  unfold State.settleRecover; with_reducible repeat' first | exact .refl _ | (apply Moves.step; apply State.recover_moves; decide) | refine Moves.ite (fun _ => ?_) (fun _ => ?_) | dsimp only | split

theorem State.restoreStore_moves (s : State) (d step : Nat) : Moves 0x1126203fe s (State.restoreStore s d step) := by
  unfold State.restoreStore; with_reducible repeat' first | exact .refl _ | (apply Moves.step; (first | apply State.look_moves | apply State.restoreBlock_moves); decide) | refine Moves.foldl _ _ (fun _ _ => ?_) ?_ | refine Moves.foldl₁ _ _ (fun _ _ => ?_) ?_ | dsimp only | extract_lets | split

theorem State.settleRestores_moves (s : State) (d : Nat) : Moves 0x11002027e s (State.settleRestores s d) := by
  unfold State.settleRestores; with_reducible repeat' first | exact .refl _ | (apply Moves.step; (first | apply State.restoreLanded_moves | apply State.setEngBlocks_moves); decide) | refine Moves.ite (fun _ => ?_) (fun _ => ?_) | refine Moves.foldl _ _ (fun _ _ => ?_) ?_ | refine Moves.foldl₁ _ _ (fun _ _ => ?_) ?_ | dsimp only | extract_lets | split

theorem State.updFence_moves (s : State) (d : Nat) : Moves 0x20008 s (State.updFence s d) := by
  unfold State.updFence; with_reducible repeat' first | exact .refl _ | (apply Moves.step; (first | apply State.dropBlk_moves | apply State.requeue_moves | apply State.setEngBlocks_moves | apply State.setEngFetches_moves | apply State.setUpd_moves | apply State.setUpdRun_moves); decide) | refine Moves.ite (fun _ => ?_) (fun _ => ?_) | refine Moves.foldl _ _ (fun _ _ => ?_) ?_ | refine Moves.foldl₁ _ _ (fun _ _ => ?_) ?_ | (apply Moves.fst; assumption) | (apply Moves.snd; assumption) | dsimp only | extract_lets | split

theorem State.endUpdate_moves (s : State) (x : UpdBucket) (status : Nat) : Moves 0x11202037e s (State.endUpdate s x status) := by
  unfold State.endUpdate; with_reducible repeat' first | exact .refl _ | (apply Moves.step; (first | apply State.post_moves | apply State.postKind_moves | apply State.setUpd_moves); decide) | refine Moves.ite (fun _ => ?_) (fun _ => ?_) | refine Moves.foldl _ _ (fun _ _ => ?_) ?_ | refine Moves.foldl₁ _ _ (fun _ _ => ?_) ?_ | (apply Moves.fst; assumption) | (apply Moves.snd; assumption) | dsimp only | extract_lets | split

theorem State.noteFinal_moves (s : State) (x : UpdBucket) : Moves 0x20000 s (State.noteFinal s x) := by
  unfold State.noteFinal; with_reducible repeat' first | exact .refl _ | (apply Moves.step; apply State.setUpd_moves; decide) | refine Moves.ite (fun _ => ?_) (fun _ => ?_) | (apply Moves.fst; assumption) | (apply Moves.snd; assumption) | dsimp only | extract_lets | split

theorem State.endUnrun_moves (s : State) (x : UpdBucket) (status : Nat) : Moves 0x11202037e s (State.endUnrun s x status) := by
  unfold State.endUnrun; with_reducible repeat' first | exact .refl _ | (apply Moves.step; (first | apply State.dropFetches_moves | apply State.endUpdate_moves | apply State.setUpd_moves); decide) | refine Moves.foldl _ _ (fun _ _ => ?_) ?_ | refine Moves.foldl₁ _ _ (fun _ _ => ?_) ?_ | dsimp only | extract_lets | split

theorem State.tryStart_moves (s : State) (x : UpdBucket) : Moves 0x11202037e s (State.tryStart s x) := by
  unfold State.tryStart; with_reducible repeat' first | exact .refl _ | (apply Moves.step; (first | apply State.endUnrun_moves | apply State.look_moves | apply State.setUpd_moves); decide) | refine Moves.ite (fun _ => ?_) (fun _ => ?_) | (apply Moves.fst; assumption) | (apply Moves.snd; assumption) | dsimp only | extract_lets | split

theorem State.armRuns_moves (s : State) (x : UpdBucket) : Moves 0x1126203fe s (State.armRuns s x) := by
  unfold State.armRuns; with_reducible repeat' first | exact .refl _ | (apply Moves.step; apply State.armRun_moves; decide) | refine Moves.ite (fun _ => ?_) (fun _ => ?_) | refine Moves.foldl _ _ (fun _ _ => ?_) ?_ | refine Moves.foldl₁ _ _ (fun _ _ => ?_) ?_ | (apply Moves.fst; assumption) | (apply Moves.snd; assumption) | dsimp only | extract_lets | split

theorem State.tryFinish_moves (s : State) (x : UpdBucket) : Moves 0x11202037e s (State.tryFinish s x) := by
  unfold State.tryFinish; with_reducible repeat' first | exact .refl _ | (apply Moves.step; apply State.endUpdate_moves; decide) | refine Moves.ite (fun _ => ?_) (fun _ => ?_) | refine Moves.foldl _ _ (fun _ _ => ?_) ?_ | refine Moves.foldl₁ _ _ (fun _ _ => ?_) ?_ | (apply Moves.fst; assumption) | (apply Moves.snd; assumption) | dsimp only | extract_lets | split

theorem State.settleFetches_moves (s : State) : Moves 0x1126203fe s (State.settleFetches s) := by
  unfold State.settleFetches; with_reducible repeat' first | exact .refl _ | (apply Moves.step; (first | apply State.fetchAhead_moves | apply State.noteWaits_moves); decide) | refine Moves.ite (fun _ => ?_) (fun _ => ?_) | refine Moves.foldl _ _ (fun _ _ => ?_) ?_ | refine Moves.foldl₁ _ _ (fun _ _ => ?_) ?_ | (apply Moves.fst; assumption) | (apply Moves.snd; assumption) | dsimp only | split

theorem State.settleUpdates_moves (s : State) : Moves 0x1126203fe s (State.settleUpdates s) := by
  unfold State.settleUpdates; with_reducible repeat' first | exact .refl _ | (apply Moves.step; (first | apply State.armRuns_moves | apply State.collectOuter_moves | apply State.noteFinal_moves | apply State.settleFetches_moves | apply State.settleRestores_moves | apply State.tryFinish_moves | apply State.tryStart_moves); decide) | refine Moves.foldl _ _ (fun _ _ => ?_) ?_ | refine Moves.foldl₁ _ _ (fun _ _ => ?_) ?_ | dsimp only | extract_lets | split

theorem State.settleDone_moves (s : State) : Moves 0x20008 s (State.settleDone s) := by
  unfold State.settleDone; with_reducible repeat' first | exact .refl _ | (apply Moves.step; (first | apply State.setUpd_moves | apply State.writePos_moves); decide) | refine Moves.ite (fun _ => ?_) (fun _ => ?_) | refine Moves.foldl _ _ (fun _ _ => ?_) ?_ | refine Moves.foldl₁ _ _ (fun _ _ => ?_) ?_ | (apply Moves.fst; assumption) | (apply Moves.snd; assumption) | dsimp only | split

end Sys2Proof.Machine
end

