-- ==== Sys2Proof/Laws/MovesCorOps.lean ====
section
/-!
SUPPORT. What each definition of Machine/CorOps.lean may change: one Moves lemma each.
-/
set_option Elab.async false
set_option linter.all false

namespace Sys2Proof.Machine

open Sys2Proof

theorem State.setStep_moves (s : State) (st n : Nat) : Moves 0xc s (State.setStep s st n) := by
  unfold State.setStep; with_reducible repeat' first | exact .refl _ | (apply Moves.step; (first | apply State.sendStepState_moves | apply State.setF_moves); decide) | refine Moves.ite (fun _ => ?_) (fun _ => ?_) | dsimp only | extract_lets | split

theorem State.openGates_moves (s : State) (n : Nat) (launched : List Nat) : Moves 0x1b2660bfe s (State.openGates s n launched) := by
  unfold State.openGates; with_reducible repeat' first | exact .refl _ | (apply Moves.step; apply State.raiseGate_moves; decide) | refine Moves.ite (fun _ => ?_) (fun _ => ?_) | refine Moves.foldl _ _ (fun _ _ => ?_) ?_ | refine Moves.foldl₁ _ _ (fun _ _ => ?_) ?_ | dsimp only | extract_lets | split

theorem State.settleGates_moves (s : State) : Moves 0x1b2660bfe s (State.settleGates s) := by
  unfold State.settleGates; with_reducible repeat' first | exact .refl _ | (apply Moves.step; apply State.openGates_moves; decide) | (apply Moves.fst; assumption) | (apply Moves.snd; assumption) | dsimp only | extract_lets | split

theorem State.settleFinal_moves (s : State) : Moves 0xc s (State.settleFinal s) := by
  unfold State.settleFinal; with_reducible repeat' first | exact .refl _ | (apply Moves.step; apply State.setStep_moves; decide) | refine Moves.ite (fun _ => ?_) (fun _ => ?_) | dsimp only | split

theorem State.settlePrefetch_moves (s : State) : Moves 0x1126203fe s (State.settlePrefetch s) := by
  unfold State.settlePrefetch; with_reducible repeat' first | exact .refl _ | (apply Moves.step; apply State.prefetchRequest_moves; decide) | refine Moves.ite (fun _ => ?_) (fun _ => ?_) | refine Moves.foldl _ _ (fun _ _ => ?_) ?_ | refine Moves.foldl₁ _ _ (fun _ _ => ?_) ?_ | dsimp only | split

theorem State.collapseResetDie_moves (s : State) (d : Nat) : Moves 0x30008 s (State.collapseResetDie s d) := by
  unfold State.collapseResetDie; with_reducible repeat' first | exact .refl _ | (apply Moves.step; (first | apply State.setF_moves | apply State.setRed_moves | apply State.setReg_moves | apply State.setUpd_moves); decide) | dsimp only | extract_lets | split

theorem State.noteStale_moves (s : State) (d : Nat) : Moves 0x40008 s (State.noteStale s d) := by
  unfold State.noteStale; with_reducible repeat' first | exact .refl _ | (apply Moves.step; (first | apply State.setCor_moves | apply State.setF_moves); decide) | refine Moves.ite (fun _ => ?_) (fun _ => ?_) | dsimp only | split

theorem State.rejoinNext_moves (s : State) (d : Nat) : Moves 0x1126703fe s (State.rejoinNext s d) := by
  unfold State.rejoinNext; with_reducible repeat' first | exact .refl _ | (apply Moves.step; (first | apply State.collapseResetDie_moves | apply State.noteStale_moves | apply State.recover_moves | apply State.restoreStore_moves | apply State.setCor_moves); decide) | refine Moves.ite (fun _ => ?_) (fun _ => ?_) | dsimp only | extract_lets | split

theorem State.settleRejoins_moves (s : State) : Moves 0x1126703fe s (State.settleRejoins s) := by
  unfold State.settleRejoins; with_reducible repeat' first | exact .refl _ | (apply Moves.step; (first | apply State.collectOuter_moves | apply State.rejoinNext_moves | apply State.settleRecover_moves | apply State.settleRestores_moves); decide) | refine Moves.foldl _ _ (fun _ _ => ?_) ?_ | refine Moves.foldl₁ _ _ (fun _ _ => ?_) ?_ | dsimp only

theorem State.settleOnce_moves (s : State) : Moves 0x1b2670bfe s (State.settleOnce s) := by
  unfold State.settleOnce; with_reducible repeat' first | exact .refl _ | (apply Moves.step; (first | apply State.settleBuckets_moves | apply State.settleDone_moves | apply State.settleFinal_moves | apply State.settleGates_moves | apply State.settleNoise_moves | apply State.settlePrefetch_moves | apply State.settleRejoins_moves | apply State.settleUpdates_moves); decide) | dsimp only

theorem State.settle_moves (s : State) : Moves 0x1b2670bfe s (State.settle s) := by
  unfold State.settle; with_reducible repeat' first | exact .refl _ | (apply Moves.step; apply State.settleOnce_moves; decide) | dsimp only

theorem State.missSeal_moves (s : State) (d : Nat) : Moves 0x10000 s (State.missSeal s d) := by
  unfold State.missSeal; with_reducible repeat' first | exact .refl _ | (apply Moves.step; apply State.setRed_moves; decide) | refine Moves.ite (fun _ => ?_) (fun _ => ?_) | refine Moves.foldl _ _ (fun _ _ => ?_) ?_ | refine Moves.foldl₁ _ _ (fun _ _ => ?_) ?_ | dsimp only | extract_lets | split

theorem State.sealStep_moves (s : State) (n : Nat) : Moves 0x1b2670bfe s (State.sealStep s n) := by
  unfold State.sealStep; with_reducible repeat' first | exact .refl _ | (apply Moves.step; (first | apply State.missSeal_moves | apply State.raiseGate_moves | apply State.setCor_moves | apply State.setF_moves | apply State.setRed_moves | apply State.setStep_moves); decide) | refine Moves.ite (fun _ => ?_) (fun _ => ?_) | refine Moves.foldl _ _ (fun _ _ => ?_) ?_ | refine Moves.foldl₁ _ _ (fun _ _ => ?_) ?_ | (apply Moves.fst; assumption) | (apply Moves.snd; assumption) | dsimp only | extract_lets | split

theorem State.redRestore_moves (s : State) : Moves 0x10030 s (State.redRestore s) := by
  unfold State.redRestore; with_reducible repeat' first | exact .refl _ | (apply Moves.step; (first | apply State.setRed_moves | apply State.writeOpen_moves); decide) | refine Moves.foldl _ _ (fun _ _ => ?_) ?_ | refine Moves.foldl₁ _ _ (fun _ _ => ?_) ?_ | dsimp only | extract_lets | split

theorem State.redStop_moves (s : State) : Moves 0x11201037e s (State.redStop s) := by
  unfold State.redStop; with_reducible repeat' first | exact .refl _ | (apply Moves.step; (first | apply State.bucketReport_moves | apply State.redRestore_moves | apply State.setBucketRun_moves | apply State.setF_moves | apply State.setRed_moves); decide) | refine Moves.ite (fun _ => ?_) (fun _ => ?_) | refine Moves.foldl _ _ (fun _ _ => ?_) ?_ | refine Moves.foldl₁ _ _ (fun _ _ => ?_) ?_ | dsimp only | extract_lets | split

theorem State.updStop_moves (s : State) (n : Nat) : Moves 0x11202037e s (State.updStop s n) := by
  unfold State.updStop; with_reducible repeat' first | exact .refl _ | (apply Moves.step; (first | apply State.dropFetches_moves | apply State.endUpdate_moves | apply State.setEngBlocks_moves | apply State.setUpd_moves); decide) | refine Moves.ite (fun _ => ?_) (fun _ => ?_) | refine Moves.foldl _ _ (fun _ _ => ?_) ?_ | refine Moves.foldl₁ _ _ (fun _ _ => ?_) ?_ | dsimp only | extract_lets | split

theorem State.dropWaiting_moves (s : State) (n : Nat) : Moves 0x120201c8 s (State.dropWaiting s n) := by
  unfold State.dropWaiting; with_reducible repeat' first | exact .refl _ | (apply Moves.step; (first | apply State.descDone_moves | apply State.dropWaiters_moves | apply State.endWhere_moves | apply State.entryStatus_moves | apply State.setUpd_moves); decide) | refine Moves.foldl _ _ (fun _ _ => ?_) ?_ | refine Moves.foldl₁ _ _ (fun _ _ => ?_) ?_ | (apply Moves.fst; assumption) | (apply Moves.snd; assumption) | dsimp only | extract_lets | split

theorem State.collapseEnter_moves (s : State) (n t cause : Nat) (halt : Bool) (epoch : Option Nat) : Moves 0x1b2660bfe s (State.collapseEnter s n t cause halt epoch) := by
  unfold State.collapseEnter; with_reducible repeat' first | exact .refl _ | (apply Moves.step; (first | apply State.lowerGate_moves | apply State.raiseGate_moves | apply State.satF_moves | apply State.setF_moves | apply State.setStep_moves); decide) | refine Moves.ite (fun _ => ?_) (fun _ => ?_) | refine Moves.foldl _ _ (fun _ _ => ?_) ?_ | refine Moves.foldl₁ _ _ (fun _ _ => ?_) ?_ | (apply Moves.fst; assumption) | (apply Moves.snd; assumption) | dsimp only | extract_lets | split

theorem State.collapseStop_moves (s : State) (n : Nat) (epoch : Option Nat) : Moves 0x1120703fe s (State.collapseStop s n epoch) := by
  unfold State.collapseStop; with_reducible repeat' first | exact .refl _ | (apply Moves.step; (first | apply State.dropWaiting_moves | apply State.redStop_moves | apply State.setCor_moves | apply State.updStop_moves); decide) | refine Moves.ite (fun _ => ?_) (fun _ => ?_) | dsimp only | extract_lets | split

theorem State.collapseBegin_moves (s : State) (n t cause : Nat) (halt : Bool) (epoch : Option Nat) : Moves 0x1b2670bfe s (State.collapseBegin s n t cause halt epoch) := by
  unfold State.collapseBegin; with_reducible repeat' first | exact .refl _ | (apply Moves.step; (first | apply State.collapseEnter_moves | apply State.collapseStop_moves); decide) | dsimp only

theorem State.collapseRestore_moves (s : State) (d : Nat) : Moves 0x1126203fe s (State.collapseRestore s d) := by
  unfold State.collapseRestore; with_reducible repeat' first | exact .refl _ | (apply Moves.step; (first | apply State.recoverJournals_moves | apply State.restoreStore_moves); decide) | dsimp only

theorem State.collapseReset_moves (s : State) (d : Nat) : Moves 0x30008 s (State.collapseReset s d) := by
  unfold State.collapseReset; with_reducible repeat' first | exact .refl _ | (apply Moves.step; (first | apply State.collapseResetDie_moves | apply State.setUpd_moves); decide) | dsimp only

theorem State.collapseReport_moves (s : State) : Moves 0x1b2668bfe s (State.collapseReport s) := by
  unfold State.collapseReport; with_reducible repeat' first | exact .refl _ | (apply Moves.step; (first | apply State.raiseGate_moves | apply State.setContour_moves | apply State.setStep_moves); decide) | refine Moves.ite (fun _ => ?_) (fun _ => ?_) | dsimp only | extract_lets | split

theorem State.resumeStep_moves (s : State) (n sendAt : Nat) : Moves 0x1126303fe s (State.resumeStep s n sendAt) := by
  unfold State.resumeStep; with_reducible repeat' first | exact .refl _ | (apply Moves.step; (first | apply State.launchStep_moves | apply State.setF_moves | apply State.setStep_moves); decide) | dsimp only

end Sys2Proof.Machine
end

