-- ==== Sys2Proof/Laws/MovesSbOps.lean ====
section
/-!
SUPPORT. What each definition of Machine/SbOps.lean may change: one Moves lemma each.
-/
set_option Elab.async false
set_option linter.all false

namespace Sys2Proof.Machine

open Sys2Proof

theorem State.setSb_moves (s : State) (d : Nat) (x : Switchback) : Moves 0x800008 s (State.setSb s d x) := by
  unfold State.setSb; with_reducible repeat' first | exact .refl _ | (apply Moves.step; apply State.setF_moves; decide) | (apply Moves.ofF; dsimp only; refine MovesF.upd ?_) | dsimp only

theorem State.sbFail_moves (s : State) (d entry hint cause status : Nat) : Moves 0x10000008 s (State.sbFail s d entry hint cause status) := by
  unfold State.sbFail; with_reducible repeat' first | exact .refl _ | (apply Moves.step; (first | apply State.raise_moves | apply State.setF_moves); decide) | refine Moves.ite (fun _ => ?_) (fun _ => ?_) | dsimp only | extract_lets | split

theorem State.hintDone_moves (s : State) (d entry hint : Nat) (pre : Bool) (seq status : Nat) : Moves 0x10800008 s (State.hintDone s d entry hint pre seq status) := by
  unfold State.hintDone; with_reducible repeat' first | exact .refl _ | (apply Moves.step; (first | apply State.sbFail_moves | apply State.setSb_moves); decide) | refine Moves.ite (fun _ => ?_) (fun _ => ?_) | (apply Moves.fst; assumption) | (apply Moves.snd; assumption) | dsimp only | extract_lets | split

theorem State.issueHint_moves (s : State) (d entry w0 hint step : Nat) (pre : Bool) : Moves 0x112e003fe s (State.issueHint s d entry w0 hint step pre) := by
  unfold State.issueHint; with_reducible repeat' first | exact .refl _ | (apply Moves.step; (first | apply State.hintDone_moves | apply State.localRead_moves | apply State.remoteIssue_moves_no | apply State.setSb_moves | apply noFire_moves); decide) | refine Moves.ite (fun _ => ?_) (fun _ => ?_) | refine Moves.foldl _ _ (fun _ _ => ?_) ?_ | refine Moves.foldl₁ _ _ (fun _ _ => ?_) ?_ | dsimp only | extract_lets | split

theorem State.sbDispatch_moves (s : State) (d : Nat) (f : SbFetched) : Moves 0xa00078 s (State.sbDispatch s d f) := by
  unfold State.sbDispatch; with_reducible repeat' first | exact .refl _ | (apply Moves.step; (first | apply State.setF_moves | apply State.setQueue_moves | apply State.setSb_moves | apply State.updCore_moves | apply State.write_moves); decide) | refine Moves.ite (fun _ => ?_) (fun _ => ?_) | refine Moves.foldl _ _ (fun _ _ => ?_) ?_ | refine Moves.foldl₁ _ _ (fun _ _ => ?_) ?_ | (apply Moves.fst; assumption) | (apply Moves.snd; assumption) | dsimp only | extract_lets | split

theorem State.sbDone_moves (s : State) (d : Nat) : Moves 0x112e003fe s (State.sbDone s d) := by
  unfold State.sbDone; with_reducible repeat' first | exact .refl _ | (apply Moves.step; (first | apply State.issueHint_moves | apply State.setF_moves | apply State.setSb_moves); decide) | refine Moves.ite (fun _ => ?_) (fun _ => ?_) | refine Moves.foldl _ _ (fun _ _ => ?_) ?_ | refine Moves.foldl₁ _ _ (fun _ _ => ?_) ?_ | dsimp only | extract_lets | split

theorem State.sbRestart_moves (s : State) (d step : Nat) : Moves 0x800008 s (State.sbRestart s d step) := by
  unfold State.sbRestart; with_reducible repeat' first | exact .refl _ | (apply Moves.step; (first | apply State.setF_moves | apply State.setSb_moves); decide) | dsimp only

theorem State.sbSwitchBank_moves (s : State) (d : Nat) : Moves 0x8 s (State.sbSwitchBank s d) := by
  unfold State.sbSwitchBank; with_reducible repeat' first | exact .refl _ | (apply Moves.step; apply State.setF_moves; decide) | dsimp only

theorem State.releaseClaims_moves (s : State) (d : Nat) : Moves 0x200000 s (State.releaseClaims s d) := by
  unfold State.releaseClaims; with_reducible repeat' first | exact .refl _ | (apply Moves.step; apply State.setQueue_moves; decide) | refine Moves.ite (fun _ => ?_) (fun _ => ?_) | refine Moves.foldl _ _ (fun _ _ => ?_) ?_ | refine Moves.foldl₁ _ _ (fun _ _ => ?_) ?_ | dsimp only | extract_lets | split

theorem State.sbCollapse_moves (s : State) (d n cause : Nat) : Moves 0xa00008 s (State.sbCollapse s d n cause) := by
  unfold State.sbCollapse; with_reducible repeat' first | exact .refl _ | (apply Moves.step; (first | apply State.releaseClaims_moves | apply State.setSb_moves); decide) | refine Moves.ite (fun _ => ?_) (fun _ => ?_) | dsimp only | split

end Sys2Proof.Machine
end

