-- ==== Sys2Proof/Laws/MovesTravOps.lean ====
section
/-!
SUPPORT. What each definition of Machine/TravOps.lean may change: one Moves lemma each.
-/
set_option Elab.async false
set_option linter.all false

namespace Sys2Proof.Machine

open Sys2Proof

theorem State.travReadAll_moves (s : State) (d : Nat) (l : List (Nat × Nat × Bool)) : Moves 0x11000027e s (State.travReadAll s d l).1 := by
  unfold State.travReadAll; with_reducible repeat' first | exact .refl _ | dsimp only | (apply Moves.step; apply State.localRead_moves; decide) | refine Moves.foldl _ _ (fun _ _ => ?_) ?_ | refine Moves.foldl₁ _ _ (fun _ _ => ?_) ?_ | extract_lets | split

theorem State.travBegin_moves (s : State) (d : Nat) (r : RemReq) (k : TravPacket) (place : Option (Nat × Nat × Nat × Bool)) : Moves 0x1b2620bfe s (State.travBegin s d r k place).1 := by
  unfold State.travBegin; with_reducible repeat' first | exact .refl _ | dsimp only | (apply Moves.step; (first | apply State.addF_moves | apply State.fireTrigger_moves | apply State.remoteIssue_moves_fire); decide) | (apply Moves.fst; assumption) | (apply Moves.snd; assumption) | split

theorem State.travSend_moves (s : State) (d : Nat) (x : TravDesc) (e : Nat) (rs : List TravRec) : Moves 0x1b3620bfe s (State.travSend s d x e rs).1 := by
  unfold State.travSend; with_reducible repeat' first | exact .refl _ | dsimp only | (apply Moves.step; (first | apply State.fireTrigger_moves | apply State.look_moves | apply State.remoteIssue_moves_fire | apply State.setTraverse_moves | apply State.travBegin_moves); decide) | refine Moves.ite (fun _ => ?_) (fun _ => ?_) | extract_lets | split

theorem State.travAim_moves (s : State) (d n : Nat) (r : RemReq) (k : TravPacket) (place : Option (Nat × Nat × Nat × Bool)) : Moves 0x1000008 s (State.travAim s d n r k place).1 := by
  unfold State.travAim; with_reducible repeat' first | exact .refl _ | dsimp only | (apply Moves.step; (first | apply State.addF_moves | apply State.setTraverse_moves); decide) | (apply Moves.fst; assumption) | (apply Moves.snd; assumption) | split

theorem State.travReaim_moves (s : State) (d : Nat) (r : RemReq) : Moves 0x11100027e s (State.travReaim s d r).1 := by
  unfold State.travReaim; with_reducible repeat' first | exact .refl _ | dsimp only | (apply Moves.step; (first | apply State.look_moves | apply State.travAim_moves); decide) | (apply Moves.fst; assumption) | (apply Moves.snd; assumption) | extract_lets | split

theorem State.grantWaiter_moves (s : State) (d : Nat) (r : RemReq) : Moves 0x1b3620bfe s (State.grantWaiter s d r) := by
  unfold State.grantWaiter; with_reducible repeat' first | exact .refl _ | (apply Moves.step; (first | apply State.admitRemote_moves_fire | apply State.fireTrigger_moves | apply State.travReaim_moves); decide) | (apply Moves.fst; assumption) | (apply Moves.snd; assumption) | dsimp only | extract_lets | split

theorem State.travStatus_moves (s : State) (d op flags batch doneFlag doneAddr status : Nat) (words : List Nat) : Moves 0x1b2620bfe s (State.travStatus s d op flags batch doneFlag doneAddr status words) := by
  unfold State.travStatus; with_reducible repeat' first | exact .refl _ | (apply Moves.step; (first | apply State.atomicAt_moves_fire | apply State.fireTrigger_moves | apply State.localWrite_moves); decide) | refine Moves.ite (fun _ => ?_) (fun _ => ?_) | dsimp only | extract_lets | split

theorem State.travRefuse_moves (s : State) (d : Nat) (x : TravDesc) (status : Nat) : Moves 0x1b2620bfe s (State.travRefuse s d x status) := by
  unfold State.travRefuse; with_reducible repeat' first | exact .refl _ | (apply Moves.step; apply State.travStatus_moves; decide) | dsimp only

theorem State.travFinish_moves (s : State) (d : Nat) (x : TravDesc) (b : TravBatch) (reach : Nat) : Moves 0x1b2620bfe s (State.travFinish s d x b reach) := by
  unfold State.travFinish; with_reducible repeat' first | exact .refl _ | (apply Moves.step; (first | apply State.raise_moves | apply State.travStatus_moves); decide) | refine Moves.ite (fun _ => ?_) (fun _ => ?_) | dsimp only | extract_lets | split

theorem State.travTotals_moves (s : State) (d : Nat) (b : TravBatch) : Moves 0x8 s (State.travTotals s d b) := by
  unfold State.travTotals; with_reducible repeat' first | exact .refl _ | (apply Moves.step; apply State.satF_moves; decide) | dsimp only | extract_lets | split

theorem State.travAnswers_moves (s : State) (d : Nat) : Moves 0x1b3620bfe s (State.travAnswers s d) := by
  unfold State.travAnswers; with_reducible repeat' first | exact .refl _ | (apply Moves.step; (first | apply State.setTracker_moves | apply State.setTraverse_moves | apply State.travFinish_moves | apply State.travTotals_moves); decide) | refine Moves.ite (fun _ => ?_) (fun _ => ?_) | refine Moves.foldl _ _ (fun _ _ => ?_) ?_ | refine Moves.foldl₁ _ _ (fun _ _ => ?_) ?_ | (apply Moves.fst; assumption) | (apply Moves.snd; assumption) | dsimp only | extract_lets | split

theorem State.travNext_moves (s : State) (d fuel : Nat) : Moves 0x1000008 s (s.travNext d fuel).2 := by
  induction fuel generalizing s with
  | zero => exact .refl s
  | succ fuel ih =>
    unfold State.travNext
    extract_lets t
    split
    · exact .refl s
    · split
      · exact (ih _).step (by decide) ((State.setF_moves ..).step (by decide) ((State.setTraverse_moves ..).mono (by decide)))
      · exact .refl s

theorem State.travDispatch_moves (s : State) (d : Nat) (x : TravDesc) : Moves 0x1b3620bfe s (State.travDispatch s d x) := by
  unfold State.travDispatch; with_reducible repeat' first | exact .refl _ | (apply Moves.step; (first | apply State.setTraverse_moves | apply State.travSend_moves); decide) | refine Moves.foldl _ _ (fun _ _ => ?_) ?_ | refine Moves.foldl₁ _ _ (fun _ _ => ?_) ?_ | dsimp only | extract_lets | split

theorem State.travStart_moves (s : State) (d op : Nat) : Moves 0x1b3620bfe s (State.travStart s d op) := by
  unfold State.travStart; with_reducible repeat' first | exact .refl _ | (apply Moves.step; (first | apply State.localRead_moves | apply State.setF_moves | apply State.setTraverse_moves | apply State.travAnswers_moves | apply State.travDispatch_moves | apply State.travNext_moves | apply State.travReadAll_moves | apply State.travRefuse_moves); decide) | refine Moves.ite (fun _ => ?_) (fun _ => ?_) | (apply Moves.fst; assumption) | (apply Moves.snd; assumption) | dsimp only | extract_lets | split

theorem State.travReturn_moves (s : State) (d q : Nat) : Moves 0x11120027e s (State.travReturn s d q) := by
  unfold State.travReturn; with_reducible repeat' first | exact .refl _ | (apply Moves.step; (first | apply State.localWrite_moves | apply State.look_moves | apply State.satF_moves | apply State.setQueue_moves | apply State.setTraverse_moves); decide) | refine Moves.ite (fun _ => ?_) (fun _ => ?_) | refine Moves.foldl _ _ (fun _ _ => ?_) ?_ | refine Moves.foldl₁ _ _ (fun _ _ => ?_) ?_ | (apply Moves.fst; assumption) | (apply Moves.snd; assumption) | dsimp only | extract_lets | split

theorem State.combine_moves (s : State) (d : Nat) (x : TravDesc) (b : TravBatch) : Moves 0x1b3620bfe s (State.combine s d x b) := by
  unfold State.combine; with_reducible repeat' first | exact .refl _ | (apply Moves.step; (first | apply State.localWrite_moves | apply State.look_moves | apply State.orFlags_moves | apply State.setTraverse_moves | apply State.travFinish_moves); decide) | refine Moves.ite (fun _ => ?_) (fun _ => ?_) | refine Moves.foldl _ _ (fun _ _ => ?_) ?_ | refine Moves.foldl₁ _ _ (fun _ _ => ?_) ?_ | dsimp only | extract_lets | split

theorem State.travCollapse_moves (s : State) (d step : Nat) : Moves 0x1b3620bfe s (State.travCollapse s d step) := by
  unfold State.travCollapse; with_reducible repeat' first | exact .refl _ | (apply Moves.step; (first | apply State.setTraverse_moves | apply State.travRefuse_moves); decide) | refine Moves.foldl _ _ (fun _ _ => ?_) ?_ | refine Moves.foldl₁ _ _ (fun _ _ => ?_) ?_ | dsimp only | extract_lets | split

end Sys2Proof.Machine
end

