-- ==== Sys2Proof/Laws/MovesContourOps.lean ====
section
/-!
SUPPORT. What each definition of Machine/ContourOps.lean may change: one Moves lemma each.
-/
set_option Elab.async false
set_option linter.all false

namespace Sys2Proof.Machine

open Sys2Proof

theorem State.afterWork_moves (s : State) : Moves 0x1b3e70bfe s (State.afterWork s) := by
  unfold State.afterWork; with_reducible repeat' first | exact .refl _ | (apply Moves.step; (first | apply State.redAnswers_moves | apply State.sbDone_moves | apply State.settle_moves | apply State.travAnswers_moves); decide) | refine Moves.ite (fun _ => ?_) (fun _ => ?_) | refine Moves.foldl _ _ (fun _ _ => ?_) ?_ | refine Moves.foldl₁ _ _ (fun _ _ => ?_) ?_ | dsimp only | extract_lets | split

theorem State.takeClock_moves (s : State) (sendAt delay : Nat) : Moves 0xc008 s (State.takeClock s sendAt delay) := by
  unfold State.takeClock; with_reducible repeat' first | exact .refl _ | (apply Moves.step; (first | apply State.correctClock_moves | apply State.setContour_moves | apply State.setF_moves); decide) | refine Moves.foldl _ _ (fun _ _ => ?_) ?_ | refine Moves.foldl₁ _ _ (fun _ _ => ?_) ?_ | dsimp only | extract_lets | split

theorem State.enterJob_moves (s : State) (v : Nat) : Moves 0x1b2670bfe s (State.enterJob s v) := by
  unfold State.enterJob; with_reducible repeat' first | exact .refl _ | (apply Moves.step; (first | apply State.disarm_moves | apply State.enterPos_moves | apply State.lowerGate_moves | apply State.raiseGate_moves | apply State.setF_moves | apply State.setStep_moves); decide) | refine Moves.ite (fun _ => ?_) (fun _ => ?_) | refine Moves.foldl _ _ (fun _ _ => ?_) ?_ | refine Moves.foldl₁ _ _ (fun _ _ => ?_) ?_ | dsimp only | extract_lets | split

theorem State.latchExpert_moves (s : State) : Moves 0x40030 s (State.latchExpert s) := by
  unfold State.latchExpert; with_reducible repeat' first | exact .refl _ | (apply Moves.step; (first | apply State.setCor_moves | apply State.showGates_moves); decide) | refine Moves.ite (fun _ => ?_) (fun _ => ?_) | refine Moves.foldl _ _ (fun _ _ => ?_) ?_ | refine Moves.foldl₁ _ _ (fun _ _ => ?_) ?_ | dsimp only | extract_lets | split

theorem State.adoptValue_moves (s : State) (v pub : Nat) : Moves 0x80000048 s (State.adoptValue s v pub) := by
  unfold State.adoptValue; with_reducible repeat' first | exact .refl _ | (apply Moves.step; (first | apply State.openProfile_moves | apply State.setReg_moves); decide) | refine Moves.foldl _ _ (fun _ _ => ?_) ?_ | refine Moves.foldl₁ _ _ (fun _ _ => ?_) ?_ | dsimp only

theorem State.adoptWork_moves (s : State) (v pub last : Nat) (fresh : Bool) : Moves 0x1b2678bfe s (State.adoptWork s v pub last fresh) := by
  unfold State.adoptWork; with_reducible repeat' first | exact .refl _ | (apply Moves.step; (first | apply State.actEntries_moves | apply State.advancePos_moves | apply State.enterJob_moves | apply State.latchExpert_moves | apply State.launchStep_moves | apply State.sealStep_moves | apply State.setContour_moves | apply State.setStep_moves); decide) | refine Moves.ite (fun _ => ?_) (fun _ => ?_) | refine Moves.foldl _ _ (fun _ _ => ?_) ?_ | refine Moves.foldl₁ _ _ (fun _ _ => ?_) ?_ | dsimp only | extract_lets | split

theorem State.adopt_moves (s : State) (v pub : Nat) : Moves 0x1b2678bfe s (State.adopt s v pub) := by
  unfold State.adopt; with_reducible repeat' first | exact .refl _ | (apply Moves.step; (first | apply State.adoptValue_moves | apply State.adoptWork_moves); decide) | dsimp only

theorem State.adoptGated_moves (s : State) (v pub : Nat) : Moves 0x1f2628bfe s (State.adoptGated s v pub) := by
  unfold State.adoptGated; with_reducible repeat' first | exact .refl _ | (apply Moves.step; (first | apply State.actEntries_moves | apply State.adoptValue_moves | apply State.setContour_moves | apply State.setLow_moves); decide) | refine Moves.ite (fun _ => ?_) (fun _ => ?_) | refine Moves.foldl _ _ (fun _ _ => ?_) ?_ | refine Moves.foldl₁ _ _ (fun _ _ => ?_) ?_ | dsimp only | extract_lets | split

theorem State.wakeByEntry_moves (s : State) : Moves 0x8 s (State.wakeByEntry s) := by
  unfold State.wakeByEntry; with_reducible repeat' first | exact .refl _ | (apply Moves.step; apply State.setF_moves; decide) | refine Moves.ite (fun _ => ?_) (fun _ => ?_) | dsimp only | extract_lets | split

theorem State.wakeByOrder_moves (s : State) : Moves 0x8 s (State.wakeByOrder s) := by
  unfold State.wakeByOrder; with_reducible repeat' first | exact .refl _ | (apply Moves.step; apply State.setF_moves; decide) | refine Moves.ite (fun _ => ?_) (fun _ => ?_) | dsimp only | split

theorem State.takeContour_moves (s : State) (v pub : Nat) : Moves 0x1f3e78bfe s (State.takeContour s v pub) := by
  unfold State.takeContour; with_reducible repeat' first | exact .refl _ | (apply Moves.step; (first | apply State.adopt_moves | apply State.adoptGated_moves | apply State.afterWork_moves | apply State.satF_moves); decide) | refine Moves.ite (fun _ => ?_) (fun _ => ?_) | refine Moves.foldl _ _ (fun _ _ => ?_) ?_ | refine Moves.foldl₁ _ _ (fun _ _ => ?_) ?_ | dsimp only | split

theorem State.ignoreOrder_moves (s : State) : Moves 0x8 s (State.ignoreOrder s) := by
  unfold State.ignoreOrder; with_reducible repeat' first | exact .refl _ | (apply Moves.step; apply State.satF_moves; decide) | dsimp only

theorem State.collapseFlush_moves (s : State) (step cause : Nat) : Moves 0x1b3e20bfe s (State.collapseFlush s step cause) := by
  unfold State.collapseFlush; with_reducible repeat' first | exact .refl _ | (apply Moves.step; (first | apply State.queueDiscard_moves | apply State.sbCollapse_moves | apply State.travCollapse_moves); decide) | refine Moves.foldl _ _ (fun _ _ => ?_) ?_ | refine Moves.foldl₁ _ _ (fun _ _ => ?_) ?_ | dsimp only

theorem State.memberCollapse_moves (s : State) (step try_ cause : Nat) (halt : Bool) (epoch : Option Nat) : Moves 0x1b3e70bfe s (State.memberCollapse s step try_ cause halt epoch) := by
  unfold State.memberCollapse; with_reducible repeat' first | exact .refl _ | (apply Moves.step; (first | apply State.afterWork_moves | apply State.collapseBegin_moves | apply State.collapseFlush_moves | apply State.ignoreOrder_moves | apply State.setF_moves); decide) | refine Moves.ite (fun _ => ?_) (fun _ => ?_) | dsimp only | extract_lets | split

theorem State.memberResume_moves (s : State) (step try_ sendAt : Nat) : Moves 0x1b3e70bfe s (State.memberResume s step try_ sendAt) := by
  unfold State.memberResume; with_reducible repeat' first | exact .refl _ | (apply Moves.step; (first | apply State.afterWork_moves | apply State.resumeStep_moves); decide) | refine Moves.ite (fun _ => ?_) (fun _ => ?_) | dsimp only | split

theorem State.holdOrder_moves (s : State) (o : HeldOrder) : Moves 0x40000008 s (State.holdOrder s o) := by
  unfold State.holdOrder; with_reducible repeat' first | exact .refl _ | (apply Moves.step; (first | apply State.setLow_moves | apply State.wakeByOrder_moves); decide) | dsimp only

theorem State.takeOrders_moves (s : State) : Moves 0x1f3e78bfe s (State.takeOrders s) := by
  unfold State.takeOrders; with_reducible repeat' first | exact .refl _ | (apply Moves.step; (first | apply State.actEntries_moves | apply State.adoptWork_moves | apply State.afterWork_moves | apply State.fireDue_moves | apply State.memberCollapse_moves | apply State.memberResume_moves | apply State.setLow_moves); decide) | refine Moves.ite (fun _ => ?_) (fun _ => ?_) | refine Moves.foldl _ _ (fun _ _ => ?_) ?_ | refine Moves.foldl₁ _ _ (fun _ _ => ?_) ?_ | (apply Moves.fst; assumption) | (apply Moves.snd; assumption) | dsimp only | extract_lets | split

theorem State.setRole_moves (s : State) (r : Nat) : Moves 0x8 s (State.setRole s r) := by
  unfold State.setRole; with_reducible repeat' first | exact .refl _ | (apply Moves.step; apply State.setF_moves; decide) | dsimp only

theorem State.changeJob_moves (s : State) (job : Nat) : Moves 0x4005800c s (State.changeJob s job) := by
  unfold State.changeJob; with_reducible repeat' first | exact .refl _ | (apply Moves.step; (first | apply State.sendStepState_moves | apply State.setContour_moves | apply State.setCor_moves | apply State.setF_moves | apply State.setLow_moves | apply State.setRed_moves); decide) | refine Moves.ite (fun _ => ?_) (fun _ => ?_) | dsimp only | extract_lets | split

theorem State.noteSeal_moves (s : State) (job value : Nat) : Moves 0x80000 s (State.noteSeal s job value) := by
  unfold State.noteSeal; with_reducible repeat' first | exact .refl _ | (apply Moves.step; apply State.setSummit_moves; decide) | refine Moves.ite (fun _ => ?_) (fun _ => ?_) | (apply Moves.fst; assumption) | (apply Moves.snd; assumption) | dsimp only | split

theorem State.noteReshard_moves (s : State) (job effective : Nat) : Moves 0x100000 s (State.noteReshard s job effective) := by
  unfold State.noteReshard; with_reducible repeat' first | exact .refl _ | (apply Moves.step; apply State.setFabric_moves; decide) | refine Moves.ite (fun _ => ?_) (fun _ => ?_) | (apply Moves.fst; assumption) | (apply Moves.snd; assumption) | dsimp only | split

theorem State.countMembers_moves (s : State) : Moves 0x8 s (State.countMembers s) := by
  unfold State.countMembers; with_reducible repeat' first | exact .refl _ | (apply Moves.step; apply State.setF_moves; decide) | dsimp only

theorem State.aloneAgain_moves (s : State) (heard : Bool) : Moves 0x100008 s (State.aloneAgain s heard) := by
  unfold State.aloneAgain; with_reducible repeat' first | exact .refl _ | (apply Moves.step; (first | apply State.setFabric_moves | apply State.setRole_moves); decide) | dsimp only | extract_lets | split

theorem State.aloneAnew_moves (s : State) : Moves 0x4015800c s (State.aloneAnew s) := by
  unfold State.aloneAnew; with_reducible repeat' first | exact .refl _ | (apply Moves.step; (first | apply State.aloneAgain_moves | apply State.changeJob_moves | apply State.countMembers_moves | apply State.firstGen_moves | apply State.setF_moves | apply State.setFabric_moves); decide) | refine Moves.foldl _ _ (fun _ _ => ?_) ?_ | refine Moves.foldl₁ _ _ (fun _ _ => ?_) ?_ | dsimp only | extract_lets | split

theorem State.takeJob_moves (s : State) (job : Nat) : Moves 0x4015800c s (State.takeJob s job) := by
  unfold State.takeJob; with_reducible repeat' first | exact .refl _ | (apply Moves.step; (first | apply State.changeJob_moves | apply State.setFabric_moves); decide) | refine Moves.ite (fun _ => ?_) (fun _ => ?_) | dsimp only | split

theorem State.moveJob_moves (s : State) (job : Nat) : Moves 0x4015800c s (State.moveJob s job) := by
  unfold State.moveJob; with_reducible repeat' first | exact .refl _ | (apply Moves.step; (first | apply State.changeJob_moves | apply State.setFabric_moves); decide) | refine Moves.ite (fun _ => ?_) (fun _ => ?_) | (apply Moves.fst; assumption) | (apply Moves.snd; assumption) | dsimp only | split

theorem State.adoptMembers_moves (s : State) (version summitId standby : Nat) (ms : List Member) : Moves 0x1f3f78bfe s (State.adoptMembers s version summitId standby ms) := by
  unfold State.adoptMembers; with_reducible repeat' first | exact .refl _ | (apply Moves.step; (first | apply State.afterWork_moves | apply State.aloneAgain_moves | apply State.countMembers_moves | apply State.endDeparted_moves | apply State.redDepartures_moves | apply State.setF_moves | apply State.setFabric_moves | apply State.setRole_moves | apply State.takeJob_moves); decide) | refine Moves.ite (fun _ => ?_) (fun _ => ?_) | (apply Moves.fst; assumption) | (apply Moves.snd; assumption) | dsimp only | extract_lets | split

theorem State.installGen_moves (s : State) (gen : Nat) (admitted : List Nat) (dead : List TorusLink) : Moves 0x100008 s (State.installGen s gen admitted dead) := by
  unfold State.installGen; with_reducible repeat' first | exact .refl _ | (apply Moves.step; (first | apply State.addF_moves | apply State.setF_moves | apply State.setFabric_moves); decide) | refine Moves.ite (fun _ => ?_) (fun _ => ?_) | refine Moves.foldl _ _ (fun _ _ => ?_) ?_ | refine Moves.foldl₁ _ _ (fun _ _ => ?_) ?_ | dsimp only | extract_lets | split

end Sys2Proof.Machine
end

