-- ==== Sys2Proof/Laws/MovesReduction.lean ====
section
/-!
SUPPORT. What each definition of Machine/Reduction.lean may change: one Moves lemma each.
-/
set_option Elab.async false
set_option linter.all false

namespace Sys2Proof.Machine

open Sys2Proof

theorem State.segRecords_moves (s : State) (br : BucketRun) (g : Segment) : Moves 0x10000 s (State.segRecords s br g).1 := by
  unfold State.segRecords; with_reducible repeat' first | exact .refl _ | dsimp only | (apply Moves.step; apply State.setRed_moves; decide) | refine Moves.ite (fun _ => ?_) (fun _ => ?_) | extract_lets | split

theorem State.addBlock_moves (s : State) (b sh : Nat) : Moves 0x1126103fe s (State.addBlock s b sh) := by
  unfold State.addBlock; with_reducible repeat' first | exact .refl _ | (apply Moves.step; apply State.foldNext_moves; decide) | refine Moves.ite (fun _ => ?_) (fun _ => ?_) | refine Moves.foldl _ _ (fun _ _ => ?_) ?_ | refine Moves.foldl₁ _ _ (fun _ _ => ?_) ?_ | (apply Moves.fst; assumption) | (apply Moves.snd; assumption) | dsimp only | split

theorem State.addAll_moves (s : State) (b sh fuel : Nat) : Moves 0x1126103fe s (s.addAll b sh fuel) := by
  induction fuel generalizing s with
  | zero => exact .refl s
  | succ fuel ih => exact (ih _).step (by decide) ((State.addBlock_moves ..).mono (by decide))

theorem State.addLeaf_moves (s : State) (br : BucketRun) (x : ShardRun) : Moves 0x1126103fe s (State.addLeaf s br x) := by
  unfold State.addLeaf; with_reducible repeat' first | exact .refl _ | (apply Moves.step; apply State.addAll_moves; decide) | refine Moves.ite (fun _ => ?_) (fun _ => ?_) | dsimp only | split

theorem State.stepReady_moves (s : State) (d step : Nat) : Moves 0x10008 s (State.stepReady s d step) := by
  unfold State.stepReady; with_reducible repeat' first | exact .refl _ | (apply Moves.step; (first | apply State.setF_moves | apply State.setRed_moves | apply State.writePos_moves); decide) | refine Moves.ite (fun _ => ?_) (fun _ => ?_) | dsimp only | split

theorem execStepReady_moves (d : Fin 4) (step : BitVec 40) (s : State) : MovesO 0x10008 s (execStepReady d step s) := by
  unfold execStepReady; with_reducible repeat' first | exact .refl _ | apply MovesO.next | (apply Moves.step; apply State.stepReady_moves; decide) | dsimp only

theorem State.reserveShards_moves (s : State) (br : BucketRun) (d : Nat) : Moves 0x10000 s (State.reserveShards s br d) := by
  unfold State.reserveShards; with_reducible repeat' first | exact .refl _ | (apply Moves.step; apply State.setShardRun_moves; decide) | refine Moves.ite (fun _ => ?_) (fun _ => ?_) | refine Moves.foldl _ _ (fun _ _ => ?_) ?_ | refine Moves.foldl₁ _ _ (fun _ _ => ?_) ?_ | (apply Moves.fst; assumption) | (apply Moves.snd; assumption) | dsimp only | split

theorem State.flyBucket_moves (s : State) (br : BucketRun) : Moves 0x10008 s (State.flyBucket s br) := by
  unfold State.flyBucket; with_reducible repeat' first | exact .refl _ | (apply Moves.step; (first | apply State.addF_moves | apply State.setBucketRun_moves); decide) | refine Moves.ite (fun _ => ?_) (fun _ => ?_) | dsimp only | split

theorem State.openShards_moves (s : State) (b d : Nat) : Moves 0x1126103fe s (State.openShards s b d) := by
  unfold State.openShards; with_reducible repeat' first | exact .refl _ | (apply Moves.step; (first | apply State.addLeaf_moves | apply State.sendGos_moves); decide) | refine Moves.ite (fun _ => ?_) (fun _ => ?_) | refine Moves.foldl _ _ (fun _ _ => ?_) ?_ | refine Moves.foldl₁ _ _ (fun _ _ => ?_) ?_ | (apply Moves.fst; assumption) | (apply Moves.snd; assumption) | dsimp only | extract_lets | split

theorem execBucketAdmit_moves (b : Fin 4096) (d : Fin 4) (s : State) : MovesO 0x1b3e70bfe s (execBucketAdmit b d s) := by
  unfold execBucketAdmit; with_reducible repeat' first | exact .refl _ | apply MovesO.next | refine MovesO.ite (fun _ => ?_) (fun _ => ?_) | (apply Moves.step; (first | apply State.afterWork_moves | apply State.flyBucket_moves | apply State.openShards_moves | apply State.reserveShards_moves); decide) | refine Moves.ite (fun _ => ?_) (fun _ => ?_) | (apply Moves.fst; assumption) | (apply Moves.snd; assumption) | dsimp only | extract_lets | split

theorem execQuarantineScanDone_moves (b : Fin 4096) (s : State) : MovesO 0x1b3e70bfe s (execQuarantineScanDone b s) := by
  unfold execQuarantineScanDone; with_reducible repeat' first | exact .refl _ | apply MovesO.next | refine MovesO.ite (fun _ => ?_) (fun _ => ?_) | (apply Moves.step; (first | apply State.afterWork_moves | apply State.nanFound_moves | apply State.setBucketRun_moves | apply State.startShards_moves); decide) | refine Moves.ite (fun _ => ?_) (fun _ => ?_) | refine Moves.foldl _ _ (fun _ _ => ?_) ?_ | refine Moves.foldl₁ _ _ (fun _ _ => ?_) ?_ | (apply Moves.fst; assumption) | (apply Moves.snd; assumption) | dsimp only | extract_lets | split

theorem State.onStart_moves (u : State) (g : Segment) (br : BucketRun) (x : ShardRun) : Moves 0x1126103fe u (State.onStart u g br x) := by
  unfold State.onStart; with_reducible repeat' first | exact .refl _ | (apply Moves.step; apply State.takeStart_moves; decide) | dsimp only

theorem State.onAbsent_moves (u : State) (g : Segment) (br : BucketRun) (x : ShardRun) : Moves 0x1126103fe u (State.onAbsent u g br x) := by
  unfold State.onAbsent; with_reducible repeat' first | exact .refl _ | (apply Moves.step; apply State.takeAbsent_moves; decide) | dsimp only

theorem State.sendOutput_moves (s : State) (br : BucketRun) (x : ShardRun) (b dev : Nat) : Moves 0x1126103fe s (State.sendOutput s br x b dev) := by
  unfold State.sendOutput; with_reducible repeat' first | exact .refl _ | (apply Moves.step; apply State.redSend_moves; decide) | refine Moves.ite (fun _ => ?_) (fun _ => ?_) | (apply Moves.fst; assumption) | (apply Moves.snd; assumption) | dsimp only | extract_lets | split

theorem State.onGo_moves (u : State) (g : Segment) (br : BucketRun) (x : ShardRun) : Moves 0x1126103fe u (State.onGo u g br x) := by
  unfold State.onGo; with_reducible repeat' first | exact .refl _ | (apply Moves.step; (first | apply State.addLeaf_moves | apply State.sendOutput_moves | apply State.setShardRun_moves); decide) | refine Moves.ite (fun _ => ?_) (fun _ => ?_) | refine Moves.foldl _ _ (fun _ _ => ?_) ?_ | refine Moves.foldl₁ _ _ (fun _ _ => ?_) ?_ | dsimp only | extract_lets | split

theorem State.onResend_moves (u : State) (g : Segment) (br : BucketRun) (x : ShardRun) : Moves 0x1126103fe u (State.onResend u g br x) := by
  unfold State.onResend; with_reducible repeat' first | exact .refl _ | (apply Moves.step; (first | apply State.addLeaf_moves | apply State.sendOutput_moves | apply State.sendResult_moves | apply State.setShardRun_moves); decide) | refine Moves.ite (fun _ => ?_) (fun _ => ?_) | refine Moves.foldl _ _ (fun _ _ => ?_) ?_ | refine Moves.foldl₁ _ _ (fun _ _ => ?_) ?_ | (apply Moves.fst; assumption) | (apply Moves.snd; assumption) | dsimp only | extract_lets | split

theorem State.onOwnReq_moves (u : State) (g : Segment) (br : BucketRun) (x : ShardRun) : Moves 0x1126103fe u (State.onOwnReq u g br x) := by
  unfold State.onOwnReq; with_reducible repeat' first | exact .refl _ | (apply Moves.step; (first | apply State.nanFound_moves | apply State.normUnits_moves | apply State.orFlags_moves | apply State.redSend_moves | apply State.setShardRun_moves); decide) | refine Moves.ite (fun _ => ?_) (fun _ => ?_) | refine Moves.foldl _ _ (fun _ _ => ?_) ?_ | refine Moves.foldl₁ _ _ (fun _ _ => ?_) ?_ | (apply Moves.fst; assumption) | (apply Moves.snd; assumption) | dsimp only | extract_lets | split

theorem State.onBypassed_moves (u : State) (g : Segment) (_br : BucketRun) (x : ShardRun) : Moves 0x10000 u (State.onBypassed u g _br x) := by
  unfold State.onBypassed; with_reducible repeat' first | exact .refl _ | (apply Moves.step; apply State.setShardRun_moves; decide) | refine Moves.ite (fun _ => ?_) (fun _ => ?_) | dsimp only | split

theorem State.onPartial_moves (u : State) (g : Segment) (br : BucketRun) (x : ShardRun) : Moves 0x10000 u (State.onPartial u g br x) := by
  unfold State.onPartial; with_reducible repeat' first | exact .refl _ | (apply Moves.step; (first | apply State.segRecords_moves | apply State.setShardRun_moves); decide) | refine Moves.ite (fun _ => ?_) (fun _ => ?_) | refine Moves.foldl _ _ (fun _ _ => ?_) ?_ | refine Moves.foldl₁ _ _ (fun _ _ => ?_) ?_ | (apply Moves.fst; assumption) | (apply Moves.snd; assumption) | dsimp only | extract_lets | split

theorem State.onOwn_moves (u : State) (g : Segment) (br : BucketRun) (x : ShardRun) : Moves 0x10000 u (State.onOwn u g br x) := by
  unfold State.onOwn; with_reducible repeat' first | exact .refl _ | (apply Moves.step; (first | apply State.segRecords_moves | apply State.setShardRun_moves); decide) | refine Moves.ite (fun _ => ?_) (fun _ => ?_) | refine Moves.foldl _ _ (fun _ _ => ?_) ?_ | refine Moves.foldl₁ _ _ (fun _ _ => ?_) ?_ | (apply Moves.fst; assumption) | (apply Moves.snd; assumption) | dsimp only | extract_lets | split

theorem State.resultMismatch_moves (s : State) (br : BucketRun) (x : ShardRun) (b src : Nat) : Moves 0x1126103fe s (State.resultMismatch s br x b src) := by
  unfold State.resultMismatch; with_reducible repeat' first | exact .refl _ | (apply Moves.step; (first | apply State.checkFailed_moves | apply State.redSend_moves | apply State.satF_moves | apply State.setShardRun_moves | apply State.suspectHop_moves); decide) | refine Moves.ite (fun _ => ?_) (fun _ => ?_) | dsimp only | extract_lets | split

theorem State.drainResults_moves (s : State) (br : BucketRun) (sh fuel : Nat) :
    Moves 0x1126103fe s (s.drainResults br sh fuel) := by
  induction fuel generalizing s with
  | zero => exact .refl s
  | succ fuel ih =>
    unfold State.drainResults
    split
    · exact .refl s
    · split
      · exact .ite (fun _ => .refl s) (fun _ => (ih _).step (by decide) ((State.takeResult_moves ..).mono (by decide)))
      · exact .refl s

theorem execBlockAdd_moves (b : Fin 4096) (sh : Fin 16) (s : State) : MovesO 0x1b3e70bfe s (execBlockAdd b sh s) := by
  unfold execBlockAdd; with_reducible repeat' first | exact .refl _ | apply MovesO.next | refine MovesO.ite (fun _ => ?_) (fun _ => ?_) | (apply Moves.step; (first | apply State.addBlock_moves | apply State.afterWork_moves | apply State.drainResults_moves); decide) | refine Moves.ite (fun _ => ?_) (fun _ => ?_) | (apply Moves.fst; assumption) | (apply Moves.snd; assumption) | dsimp only | extract_lets | split

theorem State.onResult_moves (u : State) (g : Segment) (br : BucketRun) (x : ShardRun) : Moves 0x1126103fe u (State.onResult u g br x) := by
  unfold State.onResult; with_reducible repeat' first | exact .refl _ | (apply Moves.step; (first | apply State.drainResults_moves | apply State.resultMismatch_moves | apply State.segRecords_moves | apply State.setShardRun_moves); decide) | refine Moves.ite (fun _ => ?_) (fun _ => ?_) | refine Moves.foldl _ _ (fun _ _ => ?_) ?_ | refine Moves.foldl₁ _ _ (fun _ _ => ?_) ?_ | (apply Moves.fst; assumption) | (apply Moves.snd; assumption) | dsimp only | extract_lets | split

theorem State.onFetch_moves (u : State) (g : Segment) (br : BucketRun) (x : ShardRun) : Moves 0x1126103fe u (State.onFetch u g br x) := by
  unfold State.onFetch; with_reducible repeat' first | exact .refl _ | (apply Moves.step; (first | apply State.sendFinals_moves | apply State.setShardRun_moves); decide) | refine Moves.ite (fun _ => ?_) (fun _ => ?_) | dsimp only | split

theorem State.onResultFp32_moves (u : State) (g : Segment) (br : BucketRun) (x : ShardRun) : Moves 0x1126103fe u (State.onResultFp32 u g br x) := by
  unfold State.onResultFp32; with_reducible repeat' first | exact .refl _ | (apply Moves.step; (first | apply State.copyCarry_moves | apply State.keepShard_moves | apply State.setShardRun_moves | apply State.shardFinal_moves | apply State.writeValues_moves); decide) | refine Moves.ite (fun _ => ?_) (fun _ => ?_) | refine Moves.foldl _ _ (fun _ _ => ?_) ?_ | refine Moves.foldl₁ _ _ (fun _ _ => ?_) ?_ | dsimp only | extract_lets | split

theorem State.reduceEffect_moves (s : State) (kind : Nat) (g : Segment) (br : BucketRun) (x : ShardRun) : Moves 0x1126103fe s (State.reduceEffect s kind g br x) := by
  unfold State.reduceEffect; with_reducible repeat' first | exact .refl _ | (apply Moves.step; (first | apply State.onAbsent_moves | apply State.onBypassed_moves | apply State.onFetch_moves | apply State.onGo_moves | apply State.onOwn_moves | apply State.onOwnReq_moves | apply State.onPartial_moves | apply State.onResend_moves | apply State.onResult_moves | apply State.onResultFp32_moves | apply State.onStart_moves); decide) | (apply Moves.fst; assumption) | (apply Moves.snd; assumption) | dsimp only | split

theorem State.takeReduce_moves (s : State) (kind epoch : Nat) (g : Segment) : Moves 0x1126103fe s (State.takeReduce s kind epoch g) := by
  unfold State.takeReduce; with_reducible repeat' first | exact .refl _ | (apply Moves.step; (first | apply State.answerAt_moves | apply State.jobRejectAt_moves | apply State.reduceEffect_moves | apply State.setRed_moves); decide) | refine Moves.ite (fun _ => ?_) (fun _ => ?_) | (apply Moves.fst; assumption) | (apply Moves.snd; assumption) | dsimp only | extract_lets | split

theorem State.reduceArrive_moves (s : State) (kind epoch : Nat) (g : Segment) : Moves 0x1126103fe s (State.reduceArrive s kind epoch g) := by
  unfold State.reduceArrive; with_reducible repeat' first | exact .refl _ | (apply Moves.step; (first | apply State.meet_moves | apply State.takeReduce_moves); decide) | refine Moves.ite (fun _ => ?_) (fun _ => ?_) | dsimp only | extract_lets | split

theorem execStart_moves (epoch : Fin 65536) (g : Segment) (s : State) : MovesO 0x1126103fe s (execStart epoch g s) := by
  unfold execStart; with_reducible repeat' first | exact .refl _ | apply MovesO.next | (apply Moves.step; apply State.reduceArrive_moves; decide) | dsimp only

theorem execAbsent_moves (epoch : Fin 65536) (g : Segment) (s : State) : MovesO 0x1b3e70bfe s (execAbsent epoch g s) := by
  unfold execAbsent; with_reducible repeat' first | exact .refl _ | apply MovesO.next | (apply Moves.step; (first | apply State.afterWork_moves | apply State.reduceArrive_moves); decide) | dsimp only

theorem execGo_moves (epoch : Fin 65536) (g : Segment) (s : State) : MovesO 0x1b3e70bfe s (execGo epoch g s) := by
  unfold execGo; with_reducible repeat' first | exact .refl _ | apply MovesO.next | (apply Moves.step; (first | apply State.afterWork_moves | apply State.reduceArrive_moves); decide) | dsimp only

theorem execResend_moves (epoch : Fin 65536) (g : Segment) (s : State) : MovesO 0x1b3e70bfe s (execResend epoch g s) := by
  unfold execResend; with_reducible repeat' first | exact .refl _ | apply MovesO.next | (apply Moves.step; (first | apply State.afterWork_moves | apply State.reduceArrive_moves); decide) | dsimp only

theorem execOwnReq_moves (epoch : Fin 65536) (g : Segment) (s : State) : MovesO 0x1b3e70bfe s (execOwnReq epoch g s) := by
  unfold execOwnReq; with_reducible repeat' first | exact .refl _ | apply MovesO.next | (apply Moves.step; (first | apply State.afterWork_moves | apply State.reduceArrive_moves); decide) | dsimp only

theorem execBypassed_moves (epoch : Fin 65536) (g : Segment) (s : State) : MovesO 0x1126103fe s (execBypassed epoch g s) := by
  unfold execBypassed; with_reducible repeat' first | exact .refl _ | apply MovesO.next | (apply Moves.step; apply State.reduceArrive_moves; decide) | dsimp only

theorem execPartialBlocks_moves (epoch : Fin 65536) (g : Segment) (s : State) : MovesO 0x1126103fe s (execPartialBlocks epoch g s) := by
  unfold execPartialBlocks; with_reducible repeat' first | exact .refl _ | apply MovesO.next | (apply Moves.step; apply State.reduceArrive_moves; decide) | dsimp only

theorem execOwn_moves (epoch : Fin 65536) (g : Segment) (s : State) : MovesO 0x1126103fe s (execOwn epoch g s) := by
  unfold execOwn; with_reducible repeat' first | exact .refl _ | apply MovesO.next | (apply Moves.step; apply State.reduceArrive_moves; decide) | dsimp only

theorem execResult_moves (epoch : Fin 65536) (g : Segment) (s : State) : MovesO 0x1b3e70bfe s (execResult epoch g s) := by
  unfold execResult; with_reducible repeat' first | exact .refl _ | apply MovesO.next | (apply Moves.step; (first | apply State.afterWork_moves | apply State.reduceArrive_moves); decide) | dsimp only

theorem execFetchReq_moves (epoch : Fin 65536) (g : Segment) (s : State) : MovesO 0x1126103fe s (execFetchReq epoch g s) := by
  unfold execFetchReq; with_reducible repeat' first | exact .refl _ | apply MovesO.next | (apply Moves.step; apply State.reduceArrive_moves; decide) | dsimp only

theorem execResultFp32_moves (epoch : Fin 65536) (g : Segment) (s : State) : MovesO 0x1b3e70bfe s (execResultFp32 epoch g s) := by
  unfold execResultFp32; with_reducible repeat' first | exact .refl _ | apply MovesO.next | (apply Moves.step; (first | apply State.afterWork_moves | apply State.reduceArrive_moves); decide) | dsimp only

theorem execShardDeadline_moves (b : Fin 4096) (sh : Fin 16) (s : State) : MovesO 0x1b3e70bff s (execShardDeadline b sh s) := by
  unfold execShardDeadline; with_reducible repeat' first | exact .refl _ | apply MovesO.next | refine MovesO.ite (fun _ => ?_) (fun _ => ?_) | (apply Moves.step; (first | apply State.afterWork_moves | apply State.declareMissing_moves | apply State.timeTo_moves); decide) | refine Moves.ite (fun _ => ?_) (fun _ => ?_) | refine Moves.foldl _ _ (fun _ _ => ?_) ?_ | refine Moves.foldl₁ _ _ (fun _ _ => ?_) ?_ | (apply Moves.fst; assumption) | (apply Moves.snd; assumption) | dsimp only | extract_lets | split

theorem execPartialStall_moves (b : Fin 4096) (sh : Fin 16) (p : Fin 10240) (s : State) : MovesO 0x1b3e70bff s (execPartialStall b sh p s) := by
  unfold execPartialStall; with_reducible repeat' first | exact .refl _ | apply MovesO.next | refine MovesO.ite (fun _ => ?_) (fun _ => ?_) | (apply Moves.step; (first | apply State.afterWork_moves | apply State.declareMissing_moves | apply State.redSendPos_moves | apply State.setShardRun_moves | apply State.timeTo_moves); decide) | refine Moves.ite (fun _ => ?_) (fun _ => ?_) | (apply Moves.fst; assumption) | (apply Moves.snd; assumption) | dsimp only | extract_lets | split

end Sys2Proof.Machine
end

