-- ==== Sys2Proof/Laws/MovesTalus.lean ====
section
/-!
SUPPORT. What each definition of Machine/Talus.lean may change: one Moves lemma each.
-/
set_option Elab.async false
set_option linter.all false

namespace Sys2Proof.Machine

open Sys2Proof

theorem State.readGranule_moves (s : State) (t granule : Nat) (errs : List SymErr) : Moves 0x11000023e s (State.readGranule s t granule errs) := by
  unfold State.readGranule; with_reducible repeat' first | exact .refl _ | (apply Moves.step; (first | apply State.emit_moves | apply State.readCells_moves); decide) | refine Moves.ite (fun _ => ?_) (fun _ => ?_) | dsimp only | extract_lets | split

theorem State.writeGranule_moves (s : State) (t granule first : Nat) (data : List Byte) (poison : Bool) (errs : List SymErr) : Moves 0x11000023e s (State.writeGranule s t granule first data poison errs) := by
  unfold State.writeGranule; with_reducible repeat' first | exact .refl _ | (apply Moves.step; (first | apply State.emit_moves | apply State.freshen_moves | apply State.write_moves | apply State.writePoisoned_moves); decide) | refine Moves.ite (fun _ => ?_) (fun _ => ?_) | dsimp only | extract_lets | split

theorem State.refuseGranule_moves (s : State) (t : Nat) (h : HeldAccess) (status : Nat) : Moves 0x4 s (State.refuseGranule s t h status) := by
  unfold State.refuseGranule; with_reducible repeat' first | exact .refl _ | (apply Moves.step; apply State.emit_moves; decide) | refine Moves.ite (fun _ => ?_) (fun _ => ?_) | dsimp only | split

theorem State.talusAccess_moves (s : State) (t : Nat) (h : HeldAccess) : Moves 0x11000033e s (State.talusAccess s t h) := by
  unfold State.talusAccess; with_reducible repeat' first | exact .refl _ | (apply Moves.step; (first | apply State.addressFault_moves | apply State.park_moves | apply State.readGranule_moves | apply State.refuseGranule_moves | apply State.writeGranule_moves); decide) | refine Moves.ite (fun _ => ?_) (fun _ => ?_) | (apply Moves.fst; assumption) | (apply Moves.snd; assumption) | dsimp only | extract_lets | split

theorem State.stackActive_moves (s : State) (t : Nat) : Moves 0x8 s (State.stackActive s t) := by
  unfold State.stackActive; with_reducible repeat' first | exact .refl _ | (apply Moves.step; apply State.setStkF_moves; decide) | dsimp only

theorem State.selfRefresh_moves (s : State) (t : Nat) : Moves 0x408 s (State.selfRefresh s t) := by
  unfold State.selfRefresh; with_reducible repeat' first | exact .refl _ | (apply Moves.step; (first | apply State.setStkF_moves | apply State.shellSave_moves); decide) | refine Moves.ite (fun _ => ?_) (fun _ => ?_) | dsimp only | split

theorem State.leaveRefresh_moves (s : State) (t : Nat) (refused : Bool) : Moves 0x608 s (State.leaveRefresh s t refused) := by
  unfold State.leaveRefresh; with_reducible repeat' first | exact .refl _ | (apply Moves.step; (first | apply State.setStack_moves | apply State.setStkF_moves | apply State.shellRefuse_moves | apply State.shellRestore_moves | apply State.stackActive_moves); decide) | refine Moves.ite (fun _ => ?_) (fun _ => ?_) | dsimp only | split

theorem execTalusRead_moves (t : Fin 12) (granule : Fin 536870912) (errs : List SymErr) (s : State) : MovesO 0x11000033e s (execTalusRead t granule errs s) := by
  unfold execTalusRead; with_reducible repeat' first | exact .refl _ | apply MovesO.next | (apply Moves.step; apply State.talusAccess_moves; decide) | dsimp only

theorem execTalusWrite_moves (t : Fin 12) (granule : Fin 536870912) (first : Fin 128) (data : List Byte) (poison : Bool) (errs : List SymErr) (s : State) : MovesO 0x11000033e s (execTalusWrite t granule first data poison errs s) := by
  unfold execTalusWrite; with_reducible repeat' first | exact .refl _ | apply MovesO.next | (apply Moves.step; apply State.talusAccess_moves; decide) | dsimp only

theorem State.stackClear_moves (s : State) (t : Nat) : Moves 0x8 s (State.stackClear s t) := by
  unfold State.stackClear; with_reducible repeat' first | exact .refl _ | (apply Moves.step; apply State.setStkF_moves; decide) | dsimp only

theorem execClearCounts_moves (t : Fin 12) (s : State) : MovesO 0x8 s (execClearCounts t s) := by
  unfold execClearCounts; with_reducible repeat' first | exact .refl _ | apply MovesO.next | (apply Moves.step; apply State.stackClear_moves; decide) | dsimp only

theorem execScrubRead_moves (t : Fin 12) (errs : List SymErr) (s : State) : MovesO 0x11000023e s (execScrubRead t errs s) := by
  unfold execScrubRead; with_reducible repeat' first | exact .refl _ | apply MovesO.next | refine MovesO.ite (fun _ => ?_) (fun _ => ?_) | (apply Moves.step; (first | apply State.freshen_moves | apply State.setStkF_moves); decide) | refine Moves.ite (fun _ => ?_) (fun _ => ?_) | dsimp only | extract_lets | split

end Sys2Proof.Machine
end

