-- ==== Sys2Proof/Laws/MovesArrivalOps.lean ====
section
/-!
SUPPORT. What each definition of Machine/ArrivalOps.lean may change: one Moves lemma each.
-/
set_option Elab.async false
set_option linter.all false

namespace Sys2Proof.Machine

open Sys2Proof

theorem State.hdmAnswer_moves (s : State) (line status : Nat) (marks : List Bool) (data : List Byte) : Moves 0x4 s (State.hdmAnswer s line status marks data) := by
  unfold State.hdmAnswer; with_reducible repeat' first | exact .refl _ | (apply Moves.step; apply State.emit_moves; decide) | refine Moves.ite (fun _ => ?_) (fun _ => ?_) | dsimp only | split

theorem State.hdmRefuse_moves (s : State) (w : HdmAccess) (status : Nat) : Moves 0x4 s (State.hdmRefuse s w status) := by
  unfold State.hdmRefuse; with_reducible repeat' first | exact .refl _ | (apply Moves.step; apply State.hdmAnswer_moves; decide) | refine Moves.ite (fun _ => ?_) (fun _ => ?_) | dsimp only | split

theorem State.giveBack_moves (s : State) (line : Nat) (data : List Byte) (pois : Bool) : Moves 0x11000027e s (State.giveBack s line data pois) := by
  unfold State.giveBack; with_reducible repeat' first | exact .refl _ | (apply Moves.step; (first | apply State.meetErrs_moves | apply State.write_moves | apply State.writePoisoned_moves); decide) | refine Moves.ite (fun _ => ?_) (fun _ => ?_) | dsimp only | split

theorem State.hdmPerform_moves {s t : State} {w : HdmAccess} (h : s.hdmPerform w = some t) :
    Moves 0x11200027e s t := by
  unfold State.hdmPerform at h
  extract_lets a others st at h
  split at h
  · cases h
  · injection h with h; subst h
    exact (State.hdmRefuse_moves ..).step (by decide) ((State.addressFault_moves ..).mono (by decide))
  · split at h
    · injection h with h; subst h
      exact (State.hdmAnswer_moves ..).step (by decide) ((State.setSnoop_moves ..).step (by decide)
        ((State.giveBack_moves ..).mono (by decide)))
    · split at h
      · cases h
      · split at h
        · split at h
          · cases h
          · injection h with h; subst h
            exact (State.hdmAnswer_moves ..).step (by decide) ((State.setSnoop_moves ..).step (by decide)
              ((State.meetErrs_moves ..).mono (by decide)))
        · injection h with h; subst h
          exact (State.hdmAnswer_moves ..).step (by decide) ((State.meetErrs_moves ..).mono (by decide))
  · injection h with h; subst h
    exact (State.hdmRefuse_moves ..).mono (by decide)

theorem State.makeRoom_moves (s : State) (w : HdmAccess) : Moves 0x200000c s (State.makeRoom s w) := by
  unfold State.makeRoom; with_reducible repeat' first | exact .refl _ | (apply Moves.step; (first | apply State.addF_moves | apply State.emit_moves | apply State.setHost_moves); decide) | refine Moves.ite (fun _ => ?_) (fun _ => ?_) | (apply Moves.fst; assumption) | (apply Moves.snd; assumption) | dsimp only | extract_lets | split

theorem State.hdmAccess_moves (s : State) (w : HdmAccess) : Moves 0x11200037e s (State.hdmAccess s w) := by
  unfold State.hdmAccess; with_reducible repeat' first | exact .refl _ | (apply Moves.step; (first | (apply State.hdmPerform_moves; assumption) | apply State.hdmRefuse_moves | apply State.makeRoom_moves | apply State.park_moves | apply State.satF_moves | apply State.setArrivals_moves | apply State.setF_moves); decide) | refine Moves.ite (fun _ => ?_) (fun _ => ?_) | (apply Moves.fst; assumption) | (apply Moves.snd; assumption) | dsimp only | extract_lets | split

theorem State.takeLine_moves (s : State) (line : Nat) (data : List Byte) (pois : Bool) : Moves 0x11000037e s (State.takeLine s line data pois) := by
  unfold State.takeLine; with_reducible repeat' first | exact .refl _ | (apply Moves.step; (first | apply State.giveBack_moves | apply State.setArrivals_moves); decide) | refine Moves.ite (fun _ => ?_) (fun _ => ?_) | dsimp only | split

theorem State.retry_moves (s : State) (x : Arrival) : Moves 0x1b2630bfe s (State.retry s x) := by
  unfold State.retry; with_reducible repeat' first | exact .refl _ | (apply Moves.step; (first | apply State.arrive_moves_fire | apply State.enqueueArrive_moves | apply State.fireTrigger_moves | apply State.hdmAccess_moves | apply State.landData_moves | apply State.landResponse_moves | apply State.post_moves | apply State.reduceArrive_moves | apply State.retryMove_moves | apply State.retrySpur_moves | apply State.sendEntry_moves_fire | apply State.sendGranted_moves | apply State.takeLine_moves | apply State.talusAccess_moves); decide) | refine Moves.ite (fun _ => ?_) (fun _ => ?_) | (apply Moves.fst; assumption) | (apply Moves.snd; assumption) | dsimp only | split

theorem State.releaseAll_moves (s : State) : Moves 0x1b3e70bfe s (State.releaseAll s) := by
  unfold State.releaseAll; with_reducible repeat' first | exact .refl _ | (apply Moves.step; (first | apply State.afterWork_moves | apply State.retry_moves | apply State.setArrivals_moves); decide) | refine Moves.foldl _ _ (fun _ _ => ?_) ?_ | refine Moves.foldl₁ _ _ (fun _ _ => ?_) ?_ | dsimp only

end Sys2Proof.Machine
end

