-- ==== Sys2Proof/Laws/MovesSummitOps.lean ====
section
/-!
SUPPORT. What each definition of Machine/SummitOps.lean may change: one Moves lemma each.
-/
set_option Elab.async false
set_option linter.all false

namespace Sys2Proof.Machine

open Sys2Proof

theorem State.setSumJob_moves (s : State) (x : SumJob) : Moves 0x80000 s (State.setSumJob s x) := by
  unfold State.setSumJob; with_reducible repeat' first | exact .refl _ | (apply Moves.step; apply State.setSummit_moves; decide) | refine Moves.ite (fun _ => ?_) (fun _ => ?_) | dsimp only | split

theorem State.updSumJob_moves (s : State) (job : Nat) (f : SumJob → SumJob) : Moves 0x80000 s (State.updSumJob s job f) := by
  unfold State.updSumJob; with_reducible repeat' first | exact .refl _ | (apply Moves.step; apply State.setSumJob_moves; decide) | (apply Moves.fst; assumption) | (apply Moves.snd; assumption) | dsimp only | split

theorem State.sendMembers_moves (s : State) (dst : Nat) : Moves 0x4 s (State.sendMembers s dst) := by
  unfold State.sendMembers; with_reducible repeat' first | exact .refl _ | (apply Moves.step; apply State.mgmt_moves; decide) | dsimp only

theorem State.sendMap_moves (s : State) (dst : Nat) : Moves 0x4 s (State.sendMap s dst) := by
  unfold State.sendMap; with_reducible repeat' first | exact .refl _ | (apply Moves.step; apply State.mgmt_moves; decide) | dsimp only

theorem State.publishMap_moves (s : State) : Moves 0x10000c s (State.publishMap s) := by
  unfold State.publishMap; with_reducible repeat' first | exact .refl _ | (apply Moves.step; (first | apply State.installGen_moves | apply State.sendMap_moves); decide) | dsimp only | extract_lets | split

theorem State.publishMembers_moves (s : State) (ms : List Member) : Moves 0x1f3ff8bfe s (State.publishMembers s ms) := by
  unfold State.publishMembers; with_reducible repeat' first | exact .refl _ | (apply Moves.step; (first | apply State.adoptMembers_moves | apply State.sendMembers_moves | apply State.setSumJob_moves | apply State.setSummit_moves); decide) | refine Moves.ite (fun _ => ?_) (fun _ => ?_) | refine Moves.foldl _ _ (fun _ _ => ?_) ?_ | refine Moves.foldl₁ _ _ (fun _ _ => ?_) ?_ | dsimp only | extract_lets | split

theorem State.depart_moves (s : State) (gone : List Nat) : Moves 0x1f3ff8bfe s (State.depart s gone) := by
  unfold State.depart; with_reducible repeat' first | exact .refl _ | (apply Moves.step; (first | apply State.publishMap_moves | apply State.publishMembers_moves); decide) | refine Moves.ite (fun _ => ?_) (fun _ => ?_) | dsimp only | split

theorem State.fitMap_moves (s : State) (fuel : Nat) : Moves 0x1f3ff8bfe s (s.fitMap fuel) := by
  induction fuel generalizing s with
  | zero => exact .refl s
  | succ fuel ih =>
    unfold State.fitMap
    refine .ite (fun _ => .refl s) (fun _ => ?_)
    split
    · exact .refl s
    · rename_i d _
      extract_lets t
      have ht : Moves 0x1f3ff8bfe s t := (State.setFabric_moves ..).mono (by decide)
      exact (ih _).step (by decide) ((State.publishMembers_moves ..).step (by decide) ht)

theorem State.sendContour_moves (s : State) (job flags value : Nat) : Moves 0x80004 s (State.sendContour s job flags value) := by
  unfold State.sendContour; with_reducible repeat' first | exact .refl _ | (apply Moves.step; (first | apply State.mgmt_moves | apply State.setSummit_moves); decide) | dsimp only

theorem State.publish_moves (s : State) (job value : Nat) : Moves 0x80004 s (State.publish s job value) := by
  unfold State.publish; with_reducible repeat' first | exact .refl _ | (apply Moves.step; (first | apply State.sendContour_moves | apply State.updSumJob_moves); decide) | dsimp only

theorem State.applyPartition_moves (s : State) (job : Nat) : Moves 0x1f3ff8bfe s (State.applyPartition s job) := by
  unfold State.applyPartition; with_reducible repeat' first | exact .refl _ | (apply Moves.step; apply State.publishMembers_moves; decide) | refine Moves.ite (fun _ => ?_) (fun _ => ?_) | (apply Moves.fst; assumption) | (apply Moves.snd; assumption) | dsimp only | extract_lets | split

theorem State.advanceJob_moves (s : State) (job : Nat) : Moves 0x1f3ff8bfe s (State.advanceJob s job) := by
  unfold State.advanceJob; with_reducible repeat' first | exact .refl _ | (apply Moves.step; (first | apply State.applyPartition_moves | apply State.publish_moves | apply State.updSumJob_moves); decide) | refine Moves.ite (fun _ => ?_) (fun _ => ?_) | (apply Moves.fst; assumption) | (apply Moves.snd; assumption) | dsimp only | extract_lets | split

theorem State.sendCollapse_moves (s : State) (x : SumJob) : Moves 0x80004 s (State.sendCollapse s x) := by
  unfold State.sendCollapse; with_reducible repeat' first | exact .refl _ | (apply Moves.step; (first | apply State.mgmt_moves | apply State.updSumJob_moves); decide) | dsimp only

theorem State.orderCollapse_moves (s : State) (x : SumJob) (cause : Nat) (epoch : Option Nat) : Moves 0x80004 s (State.orderCollapse s x cause epoch) := by
  unfold State.orderCollapse; with_reducible repeat' first | exact .refl _ | (apply Moves.step; (first | apply State.sendCollapse_moves | apply State.setSumJob_moves); decide) | refine Moves.ite (fun _ => ?_) (fun _ => ?_) | dsimp only | extract_lets | split

theorem State.tryResume_moves (s : State) (job : Nat) : Moves 0x80004 s (State.tryResume s job) := by
  unfold State.tryResume; with_reducible repeat' first | exact .refl _ | (apply Moves.step; (first | apply State.mgmt_moves | apply State.setSumJob_moves); decide) | refine Moves.ite (fun _ => ?_) (fun _ => ?_) | (apply Moves.fst; assumption) | (apply Moves.snd; assumption) | dsimp only | extract_lets | split

theorem State.driveJob_moves (s : State) (job : Nat) : Moves 0x1f3ff8bfe s (State.driveJob s job) := by
  unfold State.driveJob; with_reducible repeat' first | exact .refl _ | (apply Moves.step; (first | apply State.advanceJob_moves | apply State.tryResume_moves); decide) | dsimp only | extract_lets | split

theorem State.drivePass_moves (s : State) : Moves 0x1f3ff8bfe s (State.drivePass s) := by
  unfold State.drivePass; with_reducible repeat' first | exact .refl _ | (apply Moves.step; apply State.driveJob_moves; decide) | refine Moves.foldl _ _ (fun _ _ => ?_) ?_ | refine Moves.foldl₁ _ _ (fun _ _ => ?_) ?_ | dsimp only

theorem State.driveFrom_moves (s : State) (job : Nat) : Moves 0x1f3ff8bfe s (State.driveFrom s job) := by
  unfold State.driveFrom; with_reducible repeat' first | exact .refl _ | (apply Moves.step; (first | apply State.driveJob_moves | apply State.drivePass_moves); decide) | refine Moves.ite (fun _ => ?_) (fun _ => ?_) | dsimp only | extract_lets | split

theorem State.driveJobs_moves (s : State) : Moves 0x1f3ff8bfe s (State.driveJobs s) := by
  unfold State.driveJobs; with_reducible repeat' first | exact .refl _ | (apply Moves.step; apply State.drivePass_moves; decide) | refine Moves.ite (fun _ => ?_) (fun _ => ?_) | dsimp only | extract_lets | split

theorem State.takeReshard_moves (s : State) (x : SumJob) (mode : Nat) : Moves 0x1f3ff8bfe s (State.takeReshard s x mode) := by
  unfold State.takeReshard; with_reducible repeat' first | exact .refl _ | (apply Moves.step; (first | apply State.applyPartition_moves | apply State.driveJobs_moves | apply State.mgmt_moves | apply State.orderCollapse_moves | apply State.setSumJob_moves); decide) | refine Moves.ite (fun _ => ?_) (fun _ => ?_) | dsimp only | extract_lets | split

end Sys2Proof.Machine
end

