-- ==== Sys2Proof/Laws/MovesRidgeOps.lean ====
section
/-!
SUPPORT. What each definition of Machine/RidgeOps.lean may change: one Moves lemma each.
-/
set_option Elab.async false
set_option linter.all false

namespace Sys2Proof.Machine

open Sys2Proof

theorem State.clearKeys_moves (s : State) (p : Nat) : Moves 0x100000 s (State.clearKeys s p) := by
  unfold State.clearKeys; with_reducible repeat' first | exact .refl _ | (apply Moves.step; apply State.setFabric_moves; decide) | dsimp only

theorem State.trainPort_moves (s : State) (p : Nat) : Moves 0x100008 s (State.trainPort s p) := by
  unfold State.trainPort; with_reducible repeat' first | exact .refl _ | (apply Moves.step; (first | apply State.setPort_moves | apply State.setPortF_moves); decide) | refine Moves.ite (fun _ => ?_) (fun _ => ?_) | dsimp only | extract_lets | split

theorem State.wantSign_moves (s : State) (j : SignJob) : Moves 0x8000000 s (State.wantSign s j) := by
  unfold State.wantSign; with_reducible repeat' first | exact .refl _ | (apply Moves.step; apply State.setSec_moves; decide) | dsimp only

theorem State.sendFlit_moves (s : State) (p : Nat) (f : TxFlit) : Moves 0x100004 s (State.sendFlit s p f) := by
  unfold State.sendFlit; with_reducible repeat' first | exact .refl _ | (apply Moves.step; (first | apply State.sends_moves | apply State.setFabric_moves | apply State.setPort_moves); decide) | (apply Moves.fst; assumption) | (apply Moves.snd; assumption) | dsimp only | extract_lets | split

theorem State.pump_moves (s : State) (p fuel : Nat) : Moves 0x100004 s (s.pump p fuel) := by
  induction fuel generalizing s with
  | zero => exact .refl s
  | succ fuel ih =>
    unfold State.pump
    dsimp only
    refine .ite (fun _ => .refl s) (fun _ => ?_)
    split
    · exact .refl s
    · exact (ih _).step (by decide) (State.sendFlit_moves ..)

theorem State.pumpAll_moves (s : State) (p : Nat) : Moves 0x100004 s (State.pumpAll s p) := by
  unfold State.pumpAll; with_reducible repeat' first | exact .refl _ | (apply Moves.step; apply State.pump_moves; decide) | dsimp only

theorem State.pushPacket_moves (s : State) (p : Nat) (k : Packet) : Moves 0x100004 s (State.pushPacket s p k) := by
  unfold State.pushPacket; with_reducible repeat' first | exact .refl _ | (apply Moves.step; (first | apply State.pumpAll_moves | apply State.setPort_moves); decide) | dsimp only | extract_lets | split

theorem State.toPort_moves (s : State) (p : Nat) (k : Packet) : Moves 0x100004 s (State.toPort s p k) := by
  unfold State.toPort; with_reducible repeat' first | exact .refl _ | (apply Moves.step; (first | apply State.pushPacket_moves | apply State.setFabric_moves | apply State.setPort_moves); decide) | refine Moves.ite (fun _ => ?_) (fun _ => ?_) | dsimp only | extract_lets | split

theorem State.sendChosen_moves (s : State) (k : Packet) (o : Option Nat) : Moves 0x100004 s (State.sendChosen s k o) := by
  unfold State.sendChosen; with_reducible repeat' first | exact .refl _ | (apply Moves.step; (first | apply State.setFabric_moves | apply State.toPort_moves); decide) | refine Moves.ite (fun _ => ?_) (fun _ => ?_) | (apply Moves.fst; assumption) | (apply Moves.snd; assumption) | dsimp only | extract_lets | split

theorem State.toBundle_moves (s : State) (dir : Nat) (k : Packet) : Moves 0x100004 s (State.toBundle s dir k) := by
  unfold State.toBundle; with_reducible repeat' first | exact .refl _ | (apply Moves.step; apply State.sendChosen_moves; decide) | dsimp only

theorem State.dropPacket_moves (s : State) (d : Nat) (k : Packet) : Moves 0xc s (State.dropPacket s d k) := by
  unfold State.dropPacket; with_reducible repeat' first | exact .refl _ | (apply Moves.step; (first | apply State.addF_moves | apply State.sendPacket_moves); decide) | refine Moves.ite (fun _ => ?_) (fun _ => ?_) | dsimp only | extract_lets | split

theorem State.alongDim_moves (s : State) (d dim half : Nat) (k : Packet) : Moves 0x10000c s (State.alongDim s d dim half k) := by
  unfold State.alongDim; with_reducible repeat' first | exact .refl _ | (apply Moves.step; (first | apply State.dropPacket_moves | apply State.toBundle_moves); decide) | refine Moves.ite (fun _ => ?_) (fun _ => ?_) | dsimp only | extract_lets | split

theorem State.forward_moves (s : State) (d : Nat) (from_ : Option Nat) (k : Packet) : Moves 0x10000c s (State.forward s d from_ k) := by
  unfold State.forward; with_reducible repeat' first | exact .refl _ | (apply Moves.step; (first | apply State.alongDim_moves | apply State.dropPacket_moves | apply State.emit_moves); decide) | refine Moves.ite (fun _ => ?_) (fun _ => ?_) | (apply Moves.fst; assumption) | (apply Moves.snd; assumption) | dsimp only | extract_lets | split

theorem State.sendElect_moves (s : State) : Moves 0x4 s (State.sendElect s) := by
  unfold State.sendElect; with_reducible repeat' first | exact .refl _ | (apply Moves.step; apply State.mgmt_moves; decide) | dsimp only

theorem State.becomeCandidate_moves (s : State) : Moves 0x10000c s (State.becomeCandidate s) := by
  unfold State.becomeCandidate; with_reducible repeat' first | exact .refl _ | (apply Moves.step; (first | apply State.sendElect_moves | apply State.setFabric_moves | apply State.setRole_moves); decide) | dsimp only | extract_lets | split

theorem State.tryCandidate_moves (s : State) : Moves 0x10000c s (State.tryCandidate s) := by
  unfold State.tryCandidate; with_reducible repeat' first | exact .refl _ | (apply Moves.step; (first | apply State.becomeCandidate_moves | apply State.setF_moves); decide) | refine Moves.ite (fun _ => ?_) (fun _ => ?_) | dsimp only | extract_lets | split

theorem State.spillPort_moves (s : State) (p : Nat) (x : Port) : Moves 0x10000c s (State.spillPort s p x) := by
  unfold State.spillPort; with_reducible repeat' first | exact .refl _ | (apply Moves.step; (first | apply State.alongDim_moves | apply State.dropPacket_moves | apply State.setFabric_moves | apply State.toBundle_moves); decide) | refine Moves.ite (fun _ => ?_) (fun _ => ?_) | refine Moves.foldl _ _ (fun _ _ => ?_) ?_ | refine Moves.foldl₁ _ _ (fun _ _ => ?_) ?_ | dsimp only | extract_lets | split

theorem State.failPort_moves (s : State) (p cause : Nat) : Moves 0x10010000c s (State.failPort s p cause) := by
  unfold State.failPort; with_reducible repeat' first | exact .refl _ | (apply Moves.step; (first | apply State.linkReport_moves | apply State.noteHealth_moves | apply State.setPort_moves | apply State.setPortF_moves | apply State.spillPort_moves | apply State.tryCandidate_moves); decide) | dsimp only | extract_lets | split

theorem State.raisePort_moves (s : State) (p : Nat) : Moves 0x10010000c s (State.raisePort s p) := by
  unfold State.raisePort; with_reducible repeat' first | exact .refl _ | (apply Moves.step; (first | apply State.linkTell_moves | apply State.noteHealth_moves | apply State.setPortF_moves | apply State.tryCandidate_moves); decide) | dsimp only | extract_lets | split

theorem State.tryRaise_moves (s : State) (p : Nat) : Moves 0x10010000c s (State.tryRaise s p) := by
  unfold State.tryRaise; with_reducible repeat' first | exact .refl _ | (apply Moves.step; apply State.raisePort_moves; decide) | refine Moves.ite (fun _ => ?_) (fun _ => ?_) | dsimp only | split

theorem State.retrain_moves (s : State) (p : Nat) : Moves 0x100100408 s (State.retrain s p) := by
  unfold State.retrain; with_reducible repeat' first | exact .refl _ | (apply Moves.step; (first | apply State.noteHealth_moves | apply State.restoreShells_moves | apply State.setPort_moves | apply State.setPortF_moves); decide) | dsimp only | extract_lets | split

theorem State.replay_moves (s : State) (p seq : Nat) : Moves 0xc s (State.replay s p seq) := by
  unfold State.replay; with_reducible repeat' first | exact .refl _ | (apply Moves.step; (first | apply State.satF_moves | apply State.sends_moves); decide) | dsimp only | extract_lets | split

theorem State.takeNak_moves (s : State) (p seq : Nat) : Moves 0x10010040c s (State.takeNak s p seq) := by
  unfold State.takeNak; with_reducible repeat' first | exact .refl _ | (apply Moves.step; (first | apply State.replay_moves | apply State.retrain_moves | apply State.setPort_moves); decide) | refine Moves.ite (fun _ => ?_) (fun _ => ?_) | dsimp only | extract_lets | split

theorem State.takeAck_moves (s : State) (p ack : Nat) : Moves 0x100000 s (State.takeAck s p ack) := by
  unfold State.takeAck; with_reducible repeat' first | exact .refl _ | (apply Moves.step; apply State.setPort_moves; decide) | refine Moves.ite (fun _ => ?_) (fun _ => ?_) | dsimp only | extract_lets | split

theorem State.acceptFlit_moves (s : State) (p vc : Nat) (rsp : Bool) (payload : List Byte) : Moves 0x100004 s (State.acceptFlit s p vc rsp payload) := by
  unfold State.acceptFlit; with_reducible repeat' first | exact .refl _ | (apply Moves.step; (first | apply State.emit_moves | apply State.setPort_moves); decide) | refine Moves.foldl _ _ (fun _ _ => ?_) ?_ | refine Moves.foldl₁ _ _ (fun _ _ => ?_) ?_ | dsimp only | extract_lets | split

theorem State.sendNak_moves (s : State) (p : Nat) : Moves 0x4 s (State.sendNak s p) := by
  unfold State.sendNak; with_reducible repeat' first | exact .refl _ | (apply Moves.step; apply State.sends_moves; decide) | dsimp only

theorem State.giveCredits_moves (s : State) (p : Nat) : Moves 0x100004 s (State.giveCredits s p) := by
  unfold State.giveCredits; with_reducible repeat' first | exact .refl _ | (apply Moves.step; (first | apply State.sends_moves | apply State.setPort_moves); decide) | refine Moves.ite (fun _ => ?_) (fun _ => ?_) | refine Moves.foldl _ _ (fun _ _ => ?_) ?_ | refine Moves.foldl₁ _ _ (fun _ _ => ?_) ?_ | dsimp only | extract_lets | split

theorem State.giveAllCredits_moves (s : State) : Moves 0x100004 s (State.giveAllCredits s) := by
  unfold State.giveAllCredits; with_reducible repeat' first | exact .refl _ | (apply Moves.step; apply State.giveCredits_moves; decide) | refine Moves.ite (fun _ => ?_) (fun _ => ?_) | refine Moves.foldl _ _ (fun _ _ => ?_) ?_ | refine Moves.foldl₁ _ _ (fun _ _ => ?_) ?_ | dsimp only | split

theorem State.flowsReturn_moves (s : State) (p : Nat) : Moves 0x100004 s (State.flowsReturn s p) := by
  unfold State.flowsReturn; with_reducible repeat' first | exact .refl _ | (apply Moves.step; (first | apply State.setFabric_moves | apply State.toPort_moves); decide) | refine Moves.ite (fun _ => ?_) (fun _ => ?_) | refine Moves.foldl _ _ (fun _ _ => ?_) ?_ | refine Moves.foldl₁ _ _ (fun _ _ => ?_) ?_ | dsimp only | extract_lets | split

end Sys2Proof.Machine
end

