-- ==== Sys2Proof/Laws/MovesMassifOps.lean ====
section
/-!
SUPPORT. What each definition of Machine/MassifOps.lean may change: one Moves lemma each.
-/
set_option Elab.async false
set_option linter.all false

namespace Sys2Proof.Machine

open Sys2Proof

theorem State.sendReport_moves (s : State) : Moves 0x8004 s (State.sendReport s) := by
  unfold State.sendReport; with_reducible repeat' first | exact .refl _ | (apply Moves.step; (first | apply State.mgmt_moves | apply State.setContour_moves); decide) | dsimp only | extract_lets | split

theorem State.sendState_moves (s : State) : Moves 0x4 s (State.sendState s) := by
  unfold State.sendState; with_reducible repeat' first | exact .refl _ | (apply Moves.step; apply State.sendStepState_moves; decide) | refine Moves.ite (fun _ => ?_) (fun _ => ?_) | dsimp only | split

theorem State.followSummit_moves (s : State) (term summit standby : Nat) : Moves 0x100008 s (State.followSummit s term summit standby) := by
  unfold State.followSummit; with_reducible repeat' first | exact .refl _ | (apply Moves.step; (first | apply State.setF_moves | apply State.setFabric_moves); decide) | dsimp only | extract_lets | split

theorem State.startJoin_moves (s : State) (version : Nat) : Moves 0x8100008 s (State.startJoin s version) := by
  unfold State.startJoin; with_reducible repeat' first | exact .refl _ | (apply Moves.step; (first | apply State.setF_moves | apply State.setFabric_moves | apply State.setRole_moves | apply State.wantSign_moves); decide) | refine Moves.ite (fun _ => ?_) (fun _ => ?_) | dsimp only | extract_lets | split

theorem State.startSummit_moves (s : State) (term : Nat) : Moves 0x20180008 s (State.startSummit s term) := by
  unfold State.startSummit; with_reducible repeat' first | exact .refl _ | (apply Moves.step; (first | apply State.setF_moves | apply State.setFabric_moves | apply State.setRole_moves | apply State.setSummit_moves | apply State.setTest_moves); decide) | dsimp only | extract_lets | split

theorem State.electSelf_moves (s : State) : Moves 0x1f3ff8bfe s (State.electSelf s) := by
  unfold State.electSelf; with_reducible repeat' first | exact .refl _ | (apply Moves.step; (first | apply State.publishMap_moves | apply State.publishMembers_moves | apply State.startSummit_moves); decide) | dsimp only | extract_lets | split

theorem State.takeOver_moves (s : State) : Moves 0x1f3ff8bfe s (State.takeOver s) := by
  unfold State.takeOver; with_reducible repeat' first | exact .refl _ | (apply Moves.step; (first | apply State.publishMap_moves | apply State.publishMembers_moves | apply State.setSummit_moves | apply State.setTest_moves | apply State.startSummit_moves); decide) | dsimp only | extract_lets | split

end Sys2Proof.Machine
end

