-- ==== Sys2Proof/Laws/MovesFenceOps.lean ====
section
/-!
SUPPORT. What each definition of Machine/FenceOps.lean may change: one Moves lemma each.
-/
set_option Elab.async false
set_option linter.all false

namespace Sys2Proof.Machine

open Sys2Proof

theorem State.setFence_moves (s : State) (d : Nat) (x : DieFence) : Moves 0x4000000 s (State.setFence s d x) := by
  unfold State.setFence; with_reducible repeat' first | exact .refl _ | (apply Moves.ofF; dsimp only; refine MovesF.upd ?_) | dsimp only

theorem State.endTest_moves (s : State) (result margin : Nat) (ratio : Nat) : Moves 0x3000000c s (State.endTest s result margin ratio) := by
  unfold State.endTest; with_reducible repeat' first | exact .refl _ | (apply Moves.step; (first | apply State.mgmt_moves | apply State.raise_moves | apply State.satF_moves | apply State.setF_moves | apply State.setTest_moves); decide) | refine Moves.ite (fun _ => ?_) (fun _ => ?_) | dsimp only | extract_lets | split

theorem State.abortTest_moves (s : State) (d : Nat) : Moves 0x3000000c s (State.abortTest s d) := by
  unfold State.abortTest; with_reducible repeat' first | exact .refl _ | (apply Moves.step; (first | apply State.endTest_moves | apply State.setF_moves); decide) | refine Moves.ite (fun _ => ?_) (fun _ => ?_) | dsimp only | extract_lets | split

theorem State.resetDie_moves (s : State) (d : Nat) : Moves 0x3e201f8 s (s.resetDie d) := by
  unfold State.resetDie
  extract_lets rings exps t0 z s1 s2 s3 s4 s5 s6 base off s7
  have h2 : Moves 0x3e201f8 s s2 :=
    .foldl _ _ (fun _ _ => (State.descDone_moves ..).mono (by decide)) ((State.setTracker_moves ..).mono (by decide))
  have h5 : Moves 0x3e201f8 s s5 :=
    (State.queueReset_moves ..).step (by decide) ((State.setArrivals_moves ..).step (by decide)
      ((State.setUpd_moves ..).step (by decide) h2))
  clear_value s5
  have h6 : Moves 0x3e201f8 s s6 := .ofF (.upd (t := s5) h5)
  clear_value s6
  have h7 : Moves 0x3e201f8 s { s6 with mem := kfilter off s6.mem } :=
    h6.special (Nat.le_refl _) (Nat.le_refl _) List.prefix_rfl id (fun h => kwf_kfilter off h)
      (.inl rfl) (.inl rfl) (.inl rfl) (.inl rfl) (.inr (by decide))
  have h8 : Moves 0x3e201f8 s s7 :=
    .ofF (.upd (t := { s6 with mem := kfilter off s6.mem }) h7)
  exact (State.resetDieRegs_moves ..).step (by decide) h8

theorem State.cutDie_moves (s : State) (d : Nat) : Moves 0x1b3e70ffe s (State.cutDie s d) := by
  unfold State.cutDie; with_reducible repeat' first | exact .refl _ | (apply Moves.step; (first | apply State.endWhere_moves | apply State.releaseAll_moves | apply State.selfRefresh_moves); decide) | refine Moves.foldl _ _ (fun _ _ => ?_) ?_ | refine Moves.foldl₁ _ _ (fun _ _ => ?_) ?_ | dsimp only | extract_lets | split

theorem State.stopPorts_moves (s : State) (d : Nat) : Moves 0x10000c s (State.stopPorts s d) := by
  unfold State.stopPorts; with_reducible repeat' first | exact .refl _ | (apply Moves.step; (first | apply State.clearKeys_moves | apply State.linkReport_moves | apply State.setPort_moves | apply State.setPortF_moves | apply State.spillPort_moves); decide) | refine Moves.ite (fun _ => ?_) (fun _ => ?_) | refine Moves.foldl _ _ (fun _ _ => ?_) ?_ | refine Moves.foldl₁ _ _ (fun _ _ => ?_) ?_ | dsimp only | extract_lets | split

theorem State.fenceReport_moves (s : State) (d cause : Nat) : Moves 0x10000004 s (State.fenceReport s d cause) := by
  unfold State.fenceReport; with_reducible repeat' first | exact .refl _ | (apply Moves.step; (first | apply State.raise_moves | apply State.sendState_moves); decide) | dsimp only

theorem State.tryFatal_moves (s : State) : Moves 0x190000004 s (State.tryFatal s) := by
  unfold State.tryFatal; with_reducible repeat' first | exact .refl _ | (apply Moves.step; (first | apply State.raise_moves | apply State.sendLeave_moves | apply State.setPins_moves | apply State.setPower_moves); decide) | refine Moves.ite (fun _ => ?_) (fun _ => ?_) | dsimp only | extract_lets | split

theorem State.oweCollapse_moves (s : State) (d : Nat) : Moves 0x1b2668bfe s (State.oweCollapse s d) := by
  unfold State.oweCollapse; with_reducible repeat' first | exact .refl _ | (apply Moves.step; (first | apply State.collapseReport_moves | apply State.setCor_moves); decide) | refine Moves.ite (fun _ => ?_) (fun _ => ?_) | dsimp only | split

theorem State.takeDegrade_moves (s : State) (x : Bool) : Moves 0x4000000 s (State.takeDegrade s x) := by
  unfold State.takeDegrade; with_reducible repeat' first | exact .refl _ | (apply Moves.step; apply State.setFence_moves; decide) | refine Moves.foldl _ _ (fun _ _ => ?_) ?_ | refine Moves.foldl₁ _ _ (fun _ _ => ?_) ?_ | dsimp only

theorem State.saddleDown_moves (s : State) (l : Nat) : Moves 0x1008 s (State.saddleDown s l) := by
  unfold State.saddleDown; with_reducible repeat' first | exact .refl _ | (apply Moves.step; (first | apply State.setF_moves | apply State.setSaddle_moves); decide) | dsimp only

theorem State.linksDown_moves (s : State) (d : Nat) : Moves 0x3008 s (State.linksDown s d) := by
  unfold State.linksDown; with_reducible repeat' first | exact .refl _ | (apply Moves.step; (first | apply State.saddleDown_moves | apply State.setF_moves); decide) | refine Moves.foldl _ _ (fun _ _ => ?_) ?_ | refine Moves.foldl₁ _ _ (fun _ _ => ?_) ?_ | (apply Moves.ofF; dsimp only; refine MovesF.upd ?_) | dsimp only

theorem State.fenceMark_moves (s : State) (d cause : Nat) : Moves 0x4003008 s (State.fenceMark s d cause) := by
  unfold State.fenceMark; with_reducible repeat' first | exact .refl _ | (apply Moves.step; (first | apply State.linksDown_moves | apply State.satF_moves | apply State.setF_moves | apply State.setFence_moves | apply State.takeDegrade_moves); decide) | refine Moves.ite (fun _ => ?_) (fun _ => ?_) | dsimp only | extract_lets | split

theorem State.fenceStop_moves (s : State) (d : Nat) : Moves 0x1b3e70ffe s (State.fenceStop s d) := by
  unfold State.fenceStop; with_reducible repeat' first | exact .refl _ | (apply Moves.step; (first | apply State.abortTest_moves | apply State.cutDie_moves | apply State.redFence_moves | apply State.resetDie_moves | apply State.updFence_moves); decide) | dsimp only

theorem State.advanceDie_moves (s : State) (d : Nat) : Moves 0x8 s (State.advanceDie s d) := by
  unfold State.advanceDie; with_reducible repeat' first | exact .refl _ | (apply Moves.step; apply State.setF_moves; decide) | refine Moves.ite (fun _ => ?_) (fun _ => ?_) | dsimp only | split

theorem State.fenceOne_moves (s : State) (d cause : Nat) : Moves 0x1b7f7bffe s (State.fenceOne s d cause) := by
  unfold State.fenceOne; with_reducible repeat' first | exact .refl _ | (apply Moves.step; (first | apply State.advanceDie_moves | apply State.fenceMark_moves | apply State.fenceReport_moves | apply State.fenceStop_moves | apply State.noteHealth_moves | apply State.oweCollapse_moves | apply State.repath_moves | apply State.setF_moves | apply State.setFence_moves | apply State.stopPorts_moves); decide) | refine Moves.ite (fun _ => ?_) (fun _ => ?_) | dsimp only | extract_lets | split

theorem State.isolate_moves (s : State) : Moves 0x1b7f7bffe s (State.isolate s) := by
  unfold State.isolate; with_reducible repeat' first | exact .refl _ | (apply Moves.step; apply State.fenceOne_moves; decide) | refine Moves.foldl _ _ (fun _ _ => ?_) ?_ | refine Moves.foldl₁ _ _ (fun _ _ => ?_) ?_ | dsimp only | extract_lets | split

theorem State.clearCause_moves (s : State) (d cause : Nat) : Moves 0x4000008 s (State.clearCause s d cause) := by
  unfold State.clearCause; with_reducible repeat' first | exact .refl _ | (apply Moves.step; (first | apply State.advanceDie_moves | apply State.setFence_moves); decide) | dsimp only | extract_lets | split

theorem State.reconnect_moves (s : State) : Moves 0x4000008 s (State.reconnect s) := by
  unfold State.reconnect; with_reducible repeat' first | exact .refl _ | (apply Moves.step; apply State.clearCause_moves; decide) | refine Moves.ite (fun _ => ?_) (fun _ => ?_) | refine Moves.foldl _ _ (fun _ _ => ?_) ?_ | refine Moves.foldl₁ _ _ (fun _ _ => ?_) ?_ | dsimp only | split

theorem State.fence_moves (s : State) (d cause : Nat) : Moves 0x1b7f7bffe s (State.fence s d cause) := by
  unfold State.fence; with_reducible repeat' first | exact .refl _ | (apply Moves.step; (first | apply State.afterWork_moves | apply State.fenceOne_moves | apply State.isolate_moves | apply State.tryFatal_moves); decide) | dsimp only

theorem State.rejoinEnter_moves (s : State) (d : Nat) : Moves 0x18038 s (State.rejoinEnter s d) := by
  unfold State.rejoinEnter; with_reducible repeat' first | exact .refl _ | (apply Moves.step; (first | apply State.enterPos_moves | apply State.setContour_moves | apply State.setF_moves | apply State.showGates_moves); decide) | dsimp only | extract_lets | split

theorem State.rejoinWork_moves (s3 : State) (d : Nat) (refused : List Nat) : Moves 0x1b2670ffe s3 (State.rejoinWork s3 d refused) := by
  unfold State.rejoinWork; with_reducible repeat' first | exact .refl _ | (apply Moves.step; (first | apply State.actEntries_moves | apply State.leaveRefresh_moves | apply State.recover_moves | apply State.recoverDie_moves | apply State.redRejoin_moves | apply State.rejoinNext_moves | apply State.setCor_moves | apply State.setUpd_moves); decide) | refine Moves.ite (fun _ => ?_) (fun _ => ?_) | refine Moves.foldl _ _ (fun _ _ => ?_) ?_ | refine Moves.foldl₁ _ _ (fun _ _ => ?_) ?_ | dsimp only | extract_lets | split

theorem State.lapseEntries_moves (s : State) (d : Nat) : Moves 0x1b2620bfe s (State.lapseEntries s d) := by
  unfold State.lapseEntries; with_reducible repeat' first | exact .refl _ | (apply Moves.step; (first | apply State.fireDue_moves | apply State.setF_moves); decide) | refine Moves.ite (fun _ => ?_) (fun _ => ?_) | refine Moves.foldl _ _ (fun _ _ => ?_) ?_ | refine Moves.foldl₁ _ _ (fun _ _ => ?_) ?_ | dsimp only | split

end Sys2Proof.Machine
end

