-- ==== Sys2Proof/Laws/MovesCalibration.lean ====
section
/-!
SUPPORT. What each definition of Machine/Calibration.lean may change: one Moves lemma each.
-/
set_option Elab.async false
set_option linter.all false

namespace Sys2Proof.Machine

open Sys2Proof

theorem execCalibrationSave_moves (kind : Fin 9) (inst : Fin 64) (s : State) : MovesO 0x4 s (execCalibrationSave kind inst s) := by
  unfold execCalibrationSave; with_reducible repeat' first | exact .refl _ | apply MovesO.next | refine MovesO.ite (fun _ => ?_) (fun _ => ?_) | (apply Moves.step; apply State.emit_moves; decide) | refine Moves.ite (fun _ => ?_) (fun _ => ?_) | dsimp only | split

theorem execCalibrationRestore_moves (kind : Fin 9) (inst : Fin 64) (image : List Byte) (s : State) : MovesO 0x404 s (execCalibrationRestore kind inst image s) := by
  unfold execCalibrationRestore; with_reducible repeat' first | exact .refl _ | apply MovesO.next | refine MovesO.ite (fun _ => ?_) (fun _ => ?_) | (apply Moves.step; (first | apply State.emit_moves | apply State.setShell_moves | apply State.shellRefuse_moves); decide) | refine Moves.ite (fun _ => ?_) (fun _ => ?_) | dsimp only | extract_lets | split

end Sys2Proof.Machine
end

