-- ==== Sys2Proof/Laws/MovesContour.lean ====
section
/-!
SUPPORT. What each definition of Machine/Contour.lean may change: one Moves lemma each.
-/
set_option Elab.async false
set_option linter.all false

namespace Sys2Proof.Machine

open Sys2Proof

theorem execContour_moves (job term : Fin 65536) (delay value sendAt : Nat) (s : State) : MovesO 0x1f3ffcbfe s (execContour job term delay value sendAt s) := by
  unfold execContour; with_reducible repeat' first | exact .refl _ | apply MovesO.next | refine MovesO.ite (fun _ => ?_) (fun _ => ?_) | (apply Moves.step; (first | apply State.moveJob_moves | apply State.noteSeal_moves | apply State.noteTerm_moves | apply State.satF_moves | apply State.setContour_moves | apply State.setF_moves | apply State.setSummit_moves | apply State.takeClock_moves | apply State.takeContour_moves | apply State.wakeByEntry_moves); decide) | refine Moves.ite (fun _ => ?_) (fun _ => ?_) | refine Moves.foldl _ _ (fun _ _ => ?_) ?_ | refine Moves.foldl₁ _ _ (fun _ _ => ?_) ?_ | dsimp only | extract_lets | split

theorem execDeadlineFire_moves (d : Fin 4) (e : Fin 256) (s : State) : MovesO 0x1b3e70bff s (execDeadlineFire d e s) := by
  unfold execDeadlineFire; with_reducible repeat' first | exact .refl _ | apply MovesO.next | refine MovesO.ite (fun _ => ?_) (fun _ => ?_) | (apply Moves.step; (first | apply State.afterWork_moves | apply State.fireDue_moves | apply State.setF_moves | apply State.timeTo_moves); decide) | refine Moves.ite (fun _ => ?_) (fun _ => ?_) | dsimp only | extract_lets | split

theorem execLocalPosWrite_moves (d : Fin 4) (v : Word) (s : State) : MovesO 0x8 s (execLocalPosWrite d v s) := by
  unfold execLocalPosWrite; with_reducible repeat' first | exact .refl _ | apply MovesO.next | refine MovesO.ite (fun _ => ?_) (fun _ => ?_) | (apply Moves.step; apply State.writePos_moves; decide) | refine Moves.ite (fun _ => ?_) (fun _ => ?_) | dsimp only | split

theorem execContourReport_moves (s : State) : MovesO 0x8005 s (execContourReport s) := by
  unfold execContourReport; with_reducible repeat' first | exact .refl _ | apply MovesO.next | refine MovesO.ite (fun _ => ?_) (fun _ => ?_) | (apply Moves.step; (first | apply State.sendReport_moves | apply State.timeTo_moves); decide) | refine Moves.ite (fun _ => ?_) (fun _ => ?_) | dsimp only | split

theorem execContourReportReceive_moves (device : Fin 10240) (job : Fin 65536) (position lastSeen : Nat) (s : State) : MovesO 0x1f3ff8bfe s (execContourReportReceive device job position lastSeen s) := by
  unfold execContourReportReceive; with_reducible repeat' first | exact .refl _ | apply MovesO.next | refine MovesO.ite (fun _ => ?_) (fun _ => ?_) | (apply Moves.step; (first | apply State.driveFrom_moves | apply State.setSumJob_moves | apply State.setSummit_moves); decide) | refine Moves.ite (fun _ => ?_) (fun _ => ?_) | (apply Moves.fst; assumption) | (apply Moves.snd; assumption) | dsimp only | extract_lets | split

theorem execIdleContourTick_moves (s : State) : MovesO 0x80005 s (execIdleContourTick s) := by
  unfold execIdleContourTick; with_reducible repeat' first | exact .refl _ | apply MovesO.next | refine MovesO.ite (fun _ => ?_) (fun _ => ?_) | (apply Moves.step; (first | apply State.sendContour_moves | apply State.setSummit_moves | apply State.timeTo_moves); decide) | refine Moves.ite (fun _ => ?_) (fun _ => ?_) | dsimp only | extract_lets | split

theorem execContourRepeatTick_moves (s : State) : MovesO 0x80005 s (execContourRepeatTick s) := by
  unfold execContourRepeatTick; with_reducible repeat' first | exact .refl _ | apply MovesO.next | refine MovesO.ite (fun _ => ?_) (fun _ => ?_) | (apply Moves.step; (first | apply State.sendContour_moves | apply State.timeTo_moves); decide) | refine Moves.ite (fun _ => ?_) (fun _ => ?_) | dsimp only | split

theorem State.resumeJob_moves (s : State) (x : SumJob) : Moves 0x80004 s (State.resumeJob s x) := by
  unfold State.resumeJob; with_reducible repeat' first | exact .refl _ | (apply Moves.step; (first | apply State.orderCollapse_moves | apply State.publish_moves | apply State.sendCollapse_moves | apply State.setSumJob_moves); decide) | refine Moves.ite (fun _ => ?_) (fun _ => ?_) | refine Moves.foldl _ _ (fun _ _ => ?_) ?_ | refine Moves.foldl₁ _ _ (fun _ _ => ?_) ?_ | (apply Moves.fst; assumption) | (apply Moves.snd; assumption) | dsimp only | extract_lets | split

theorem State.resumeAll_moves (s : State) : Moves 0x1f3ff8bfe s (State.resumeAll s) := by
  unfold State.resumeAll; with_reducible repeat' first | exact .refl _ | (apply Moves.step; (first | apply State.driveJobs_moves | apply State.resumeJob_moves | apply State.takeReshard_moves); decide) | refine Moves.foldl _ _ (fun _ _ => ?_) ?_ | refine Moves.foldl₁ _ _ (fun _ _ => ?_) ?_ | (apply Moves.fst; assumption) | (apply Moves.snd; assumption) | dsimp only | split

theorem execTakeoverPublish_moves (s : State) : MovesO 0x1f3ff8bff s (execTakeoverPublish s) := by
  unfold execTakeoverPublish; with_reducible repeat' first | exact .refl _ | apply MovesO.next | refine MovesO.ite (fun _ => ?_) (fun _ => ?_) | (apply Moves.step; (first | apply State.resumeAll_moves | apply State.sendContour_moves | apply State.setSummit_moves | apply State.timeTo_moves); decide) | refine Moves.ite (fun _ => ?_) (fun _ => ?_) | (apply Moves.fst; assumption) | (apply Moves.snd; assumption) | dsimp only | extract_lets | split

theorem execFtimeValidExpiry_moves (s : State) : MovesO 0x9 s (execFtimeValidExpiry s) := by
  unfold execFtimeValidExpiry; with_reducible repeat' first | exact .refl _ | apply MovesO.next | (apply Moves.step; (first | apply State.setF_moves | apply State.timeTo_moves); decide) | refine Moves.foldl _ _ (fun _ _ => ?_) ?_ | refine Moves.foldl₁ _ _ (fun _ _ => ?_) ?_ | (apply Moves.fst; assumption) | (apply Moves.snd; assumption) | dsimp only | extract_lets | split

theorem State.writeEventCtrl_moves (s : State) (d e : Nat) (w : Word) (camp : Bool) : Moves 0x1b2620bfe s (State.writeEventCtrl s d e w camp) := by
  unfold State.writeEventCtrl; with_reducible repeat' first | exact .refl _ | (apply Moves.step; (first | apply State.actEntry_moves | apply State.raise_moves | apply State.setF_moves); decide) | refine Moves.ite (fun _ => ?_) (fun _ => ?_) | dsimp only | extract_lets | split

theorem State.writeThreshold_moves (s : State) (d e : Nat) (w : Word) : Moves 0x1b2620bfe s (State.writeThreshold s d e w) := by
  unfold State.writeThreshold; with_reducible repeat' first | exact .refl _ | (apply Moves.step; (first | apply State.actEntry_moves | apply State.setReg_moves); decide) | dsimp only

theorem execEventCtrlWrite_moves (d : Fin 4) (e : Fin 256) (r : Fin 5) (w : Word) (camp : Bool) (s : State) : MovesO 0x1b3e70bfe s (execEventCtrlWrite d e r w camp s) := by
  unfold execEventCtrlWrite; with_reducible repeat' first | exact .refl _ | apply MovesO.next | refine MovesO.ite (fun _ => ?_) (fun _ => ?_) | (apply Moves.step; (first | apply State.afterWork_moves | apply State.setReg_moves | apply State.writeEventCtrl_moves | apply State.writeThreshold_moves); decide) | refine Moves.ite (fun _ => ?_) (fun _ => ?_) | (apply Moves.fst; assumption) | (apply Moves.snd; assumption) | dsimp only | split

theorem execPrefetchComplete_moves (d : Fin 4) (s : State) : MovesO 0x10000088 s (execPrefetchComplete d s) := by
  unfold execPrefetchComplete; with_reducible repeat' first | exact .refl _ | apply MovesO.next | (apply Moves.step; (first | apply State.entryStatus_moves | (apply State.takeDone_moves; assumption)); decide) | (apply Moves.fst; assumption) | (apply Moves.snd; assumption) | dsimp only | split

end Sys2Proof.Machine
end

