-- ==== Sys2Proof/Laws/MovesCornice.lean ====
section
/-!
SUPPORT. What each definition of Machine/Cornice.lean may change: one Moves lemma each.
-/
set_option Elab.async false
set_option linter.all false

namespace Sys2Proof.Machine

open Sys2Proof

theorem execStepState_moves (device : Fin 10240) (job : Fin 65536) (step try_ : Nat) (state : Fin 5) (fenced : Fin 16) (status : Fin 256) (halted : Bool) (s : State) : MovesO 0x1f3ff8bfe s (execStepState device job step try_ state fenced status halted s) := by
  unfold execStepState; with_reducible repeat' first | exact .refl _ | apply MovesO.next | refine MovesO.ite (fun _ => ?_) (fun _ => ?_) | (apply Moves.step; (first | apply State.driveFrom_moves | apply State.orderCollapse_moves | apply State.setSumJob_moves); decide) | refine Moves.ite (fun _ => ?_) (fun _ => ?_) | (apply Moves.fst; assumption) | (apply Moves.snd; assumption) | dsimp only | extract_lets | split

theorem execRejoinHoldExpiry_moves (job : Fin 65536) (device : Fin 10240) (die : Fin 4) (s : State) : MovesO 0x1f3ff8bff s (execRejoinHoldExpiry job device die s) := by
  unfold execRejoinHoldExpiry; with_reducible repeat' first | exact .refl _ | apply MovesO.next | refine MovesO.ite (fun _ => ?_) (fun _ => ?_) | (apply Moves.step; (first | apply State.driveFrom_moves | apply State.setSumJob_moves | apply State.timeTo_moves); decide) | refine Moves.ite (fun _ => ?_) (fun _ => ?_) | (apply Moves.fst; assumption) | (apply Moves.snd; assumption) | dsimp only | extract_lets | split

theorem execCollapse_moves (job : Fin 65536) (step try_ cause : Nat) (halt : Bool) (epoch : Option (Fin 65536)) (s : State) : MovesO 0x1f3ff8bfe s (execCollapse job step try_ cause halt epoch s) := by
  unfold execCollapse; with_reducible repeat' first | exact .refl _ | apply MovesO.next | refine MovesO.ite (fun _ => ?_) (fun _ => ?_) | (apply Moves.step; (first | apply State.holdOrder_moves | apply State.memberCollapse_moves | apply State.moveJob_moves | apply State.setSummit_moves); decide) | refine Moves.ite (fun _ => ?_) (fun _ => ?_) | (apply Moves.fst; assumption) | (apply Moves.snd; assumption) | dsimp only | extract_lets | split

theorem execCollapseResendTick_moves (job : Fin 65536) (s : State) : MovesO 0x80005 s (execCollapseResendTick job s) := by
  unfold execCollapseResendTick; with_reducible repeat' first | exact .refl _ | apply MovesO.next | refine MovesO.ite (fun _ => ?_) (fun _ => ?_) | (apply Moves.step; (first | apply State.sendCollapse_moves | apply State.timeTo_moves); decide) | refine Moves.ite (fun _ => ?_) (fun _ => ?_) | (apply Moves.fst; assumption) | (apply Moves.snd; assumption) | dsimp only | split

theorem execCollapseDrainDone_moves (d : Fin 4) (s : State) : MovesO 0x1126603fe s (execCollapseDrainDone d s) := by
  unfold execCollapseDrainDone; with_reducible repeat' first | exact .refl _ | apply MovesO.next | refine MovesO.ite (fun _ => ?_) (fun _ => ?_) | (apply Moves.step; (first | apply State.collapseRestore_moves | apply State.setCor_moves); decide) | refine Moves.ite (fun _ => ?_) (fun _ => ?_) | dsimp only | extract_lets | split

theorem execCollapseRestoreDone_moves (d : Fin 4) (s : State) : MovesO 0x1b2678bfe s (execCollapseRestoreDone d s) := by
  unfold execCollapseRestoreDone; with_reducible repeat' first | exact .refl _ | apply MovesO.next | refine MovesO.ite (fun _ => ?_) (fun _ => ?_) | (apply Moves.step; (first | apply State.collapseReport_moves | apply State.collapseReset_moves | apply State.collectOuter_moves | apply State.setCor_moves | apply State.settleRestores_moves); decide) | refine Moves.ite (fun _ => ?_) (fun _ => ?_) | dsimp only | extract_lets | split

theorem execResume_moves (job : Fin 65536) (step try_ : Nat) (sendAt : Nat) (s : State) : MovesO 0x1f3e70bfe s (execResume job step try_ sendAt s) := by
  unfold execResume; with_reducible repeat' first | exact .refl _ | apply MovesO.next | refine MovesO.ite (fun _ => ?_) (fun _ => ?_) | (apply Moves.step; (first | apply State.holdOrder_moves | apply State.memberResume_moves); decide) | refine Moves.ite (fun _ => ?_) (fun _ => ?_) | dsimp only | split

theorem execReduceControlResend_moves (s : State) : MovesO 0x1126103ff s (execReduceControlResend s) := by
  unfold execReduceControlResend; with_reducible repeat' first | exact .refl _ | apply MovesO.next | refine MovesO.ite (fun _ => ?_) (fun _ => ?_) | (apply Moves.step; (first | apply State.redIssue_moves | apply State.setRed_moves | apply State.timeTo_moves); decide) | refine Moves.ite (fun _ => ?_) (fun _ => ?_) | (apply Moves.fst; assumption) | (apply Moves.snd; assumption) | dsimp only | extract_lets | split

theorem execReshardReq_moves (job : Fin 65536) (mode : Fin 2) (s : State) : MovesO 0x1f3ff8bfe s (execReshardReq job mode s) := by
  unfold execReshardReq; with_reducible repeat' first | exact .refl _ | apply MovesO.next | refine MovesO.ite (fun _ => ?_) (fun _ => ?_) | (apply Moves.step; (first | apply State.setSumJob_moves | apply State.takeReshard_moves); decide) | refine Moves.ite (fun _ => ?_) (fun _ => ?_) | (apply Moves.fst; assumption) | (apply Moves.snd; assumption) | dsimp only | split

theorem execReshard_moves (job : Fin 65536) (mode : Fin 2) (effective : Nat) (epoch : Fin 65536) (s : State) : MovesO 0x1b3ff0bfe s (execReshard job mode effective epoch s) := by
  unfold execReshard; with_reducible repeat' first | exact .refl _ | apply MovesO.next | refine MovesO.ite (fun _ => ?_) (fun _ => ?_) | (apply Moves.step; (first | apply State.afterWork_moves | apply State.noteReshard_moves | apply State.setCor_moves | apply State.setF_moves | apply State.setSummit_moves | apply State.wakeByOrder_moves); decide) | refine Moves.ite (fun _ => ?_) (fun _ => ?_) | dsimp only | extract_lets | split

theorem State.reshardCmd_moves (s : State) (mode : Nat) : Moves 0xc s (State.reshardCmd s mode) := by
  unfold State.reshardCmd; with_reducible repeat' first | exact .refl _ | (apply Moves.step; (first | apply State.mgmt_moves | apply State.setF_moves); decide) | refine Moves.ite (fun _ => ?_) (fun _ => ?_) | dsimp only | split

theorem execReshardCmd_moves (mode : Fin 2) (s : State) : MovesO 0xc s (execReshardCmd mode s) := by
  unfold execReshardCmd; with_reducible repeat' first | exact .refl _ | apply MovesO.next | (apply Moves.step; apply State.reshardCmd_moves; decide) | dsimp only

theorem State.resumeCmd_moves (s : State) : Moves 0xc s (State.resumeCmd s) := by
  unfold State.resumeCmd; with_reducible repeat' first | exact .refl _ | (apply Moves.step; (first | apply State.mgmt_moves | apply State.setF_moves); decide) | refine Moves.ite (fun _ => ?_) (fun _ => ?_) | dsimp only | split

theorem execResumeCmd_moves (s : State) : MovesO 0xc s (execResumeCmd s) := by
  unfold execResumeCmd; with_reducible repeat' first | exact .refl _ | apply MovesO.next | (apply Moves.step; apply State.resumeCmd_moves; decide) | dsimp only

theorem execResumeRequest_moves (job : Fin 65536) (s : State) : MovesO 0x1f3ff8bfe s (execResumeRequest job s) := by
  unfold execResumeRequest; with_reducible repeat' first | exact .refl _ | apply MovesO.next | refine MovesO.ite (fun _ => ?_) (fun _ => ?_) | (apply Moves.step; (first | apply State.driveFrom_moves | apply State.setSumJob_moves); decide) | refine Moves.ite (fun _ => ?_) (fun _ => ?_) | (apply Moves.fst; assumption) | (apply Moves.snd; assumption) | dsimp only | split

theorem State.clearStale_moves (s : State) (dies : Nat) : Moves 0x8 s (State.clearStale s dies) := by
  unfold State.clearStale; with_reducible repeat' first | exact .refl _ | (apply Moves.step; apply State.setF_moves; decide) | dsimp only | extract_lets | split

theorem execClearStale_moves (dies : Fin 16) (s : State) : MovesO 0x8 s (execClearStale dies s) := by
  unfold execClearStale; with_reducible repeat' first | exact .refl _ | apply MovesO.next | (apply Moves.step; apply State.clearStale_moves; decide) | dsimp only

end Sys2Proof.Machine
end

