-- ==== Sys2Proof/Laws/MovesCouloir.lean ====
section
/-!
SUPPORT. What each definition of Machine/Couloir.lean may change: one Moves lemma each.
-/
set_option Elab.async false
set_option linter.all false

namespace Sys2Proof.Machine

open Sys2Proof

theorem execEnqueueReservation_moves (g : Segment) (s : State) : MovesO 0x1126003fe s (execEnqueueReservation g s) := by
  unfold execEnqueueReservation; with_reducible repeat' first | exact .refl _ | apply MovesO.next | (apply Moves.step; apply State.enqueueArrive_moves; decide) | dsimp only

theorem execReservationGrant_moves (d : Fin 4) (q : Fin 64) (s : State) : MovesO 0x1b3e70bfe s (execReservationGrant d q s) := by
  unfold execReservationGrant; with_reducible repeat' first | exact .refl _ | apply MovesO.next | refine MovesO.ite (fun _ => ?_) (fun _ => ?_) | (apply Moves.step; (first | apply State.afterWork_moves | apply State.grant_moves); decide) | refine Moves.ite (fun _ => ?_) (fun _ => ?_) | dsimp only | split

theorem execReservationResend_moves (d : Fin 4) (id : Fin 4096) (s : State) : MovesO 0x1b3e70bff s (execReservationResend d id s) := by
  unfold execReservationResend; with_reducible repeat' first | exact .refl _ | apply MovesO.next | refine MovesO.ite (fun _ => ?_) (fun _ => ?_) | apply MovesO.refused | (apply Moves.step; (first | apply State.afterWork_moves | apply State.sendReservation_moves | apply State.timeTo_moves); decide) | refine Moves.ite (fun _ => ?_) (fun _ => ?_) | refine Moves.foldl _ _ (fun _ _ => ?_) ?_ | refine Moves.foldl₁ _ _ (fun _ _ => ?_) ?_ | (apply Moves.fst; assumption) | (apply Moves.snd; assumption) | dsimp only | extract_lets | split

theorem execEnqueueSegment_moves (g : Segment) (s : State) : MovesO 0x1b3e70bfe s (execEnqueueSegment g s) := by
  unfold execEnqueueSegment; with_reducible repeat' first | exact .refl _ | apply MovesO.next | (apply Moves.step; (first | apply State.afterWork_moves | apply State.enqueueArrive_moves); decide) | dsimp only

theorem execCommitTimeout_moves (d : Fin 4) (q : Fin 64) (s : State) : MovesO 0x1b3e70bff s (execCommitTimeout d q s) := by
  unfold execCommitTimeout; with_reducible repeat' first | exact .refl _ | apply MovesO.next | refine MovesO.ite (fun _ => ?_) (fun _ => ?_) | (apply Moves.step; (first | apply State.afterWork_moves | apply State.rewind_moves | apply State.timeTo_moves); decide) | refine Moves.ite (fun _ => ?_) (fun _ => ?_) | (apply Moves.fst; assumption) | (apply Moves.snd; assumption) | dsimp only | extract_lets | split

theorem execQueueRead_moves (d : Fin 4) (q : Fin 64) (s : State) : MovesO 0x11020027e s (execQueueRead d q s) := by
  unfold execQueueRead; with_reducible repeat' first | exact .refl _ | apply MovesO.next | refine MovesO.ite (fun _ => ?_) (fun _ => ?_) | (apply Moves.step; (first | apply State.emit_moves | apply State.readQueueWord_moves); decide) | refine Moves.ite (fun _ => ?_) (fun _ => ?_) | dsimp only | extract_lets | split

theorem State.dropRest_moves (s : State) (d q : Nat) : Moves 0x200000 s (State.dropRest s d q) := by
  unfold State.dropRest; with_reducible repeat' first | exact .refl _ | (apply Moves.step; apply State.setQueue_moves; decide) | refine Moves.ite (fun _ => ?_) (fun _ => ?_) | (apply Moves.fst; assumption) | (apply Moves.snd; assumption) | dsimp only | extract_lets | split

theorem execDropRest_moves (d : Fin 4) (q : Fin 64) (s : State) : MovesO 0x200000 s (execDropRest d q s) := by
  unfold execDropRest; with_reducible repeat' first | exact .refl _ | apply MovesO.next | refine MovesO.ite (fun _ => ?_) (fun _ => ?_) | (apply Moves.step; apply State.dropRest_moves; decide) | refine Moves.ite (fun _ => ?_) (fun _ => ?_) | dsimp only | split

theorem State.queueClearHw_moves (s : State) (d q : Nat) : Moves 0x8 s (State.queueClearHw s d q) := by
  unfold State.queueClearHw; with_reducible repeat' first | exact .refl _ | (apply Moves.step; apply State.setF_moves; decide) | dsimp only

theorem execQueueClearHw_moves (d : Fin 4) (q : Fin 64) (s : State) : MovesO 0x8 s (execQueueClearHw d q s) := by
  unfold execQueueClearHw; with_reducible repeat' first | exact .refl _ | apply MovesO.next | refine MovesO.ite (fun _ => ?_) (fun _ => ?_) | (apply Moves.step; apply State.queueClearHw_moves; decide) | refine Moves.ite (fun _ => ?_) (fun _ => ?_) | dsimp only | split

end Sys2Proof.Machine
end

