-- ==== Sys2Proof/Laws/MovesCube.lean ====
section
/-!
SUPPORT. What each definition of Machine/Cube.lean may change: one Moves lemma each.
-/
set_option Elab.async false
set_option linter.all false

namespace Sys2Proof.Machine

open Sys2Proof

theorem execMma_moves (d : Fin 4) (g : Fin 96) (errs : List AccErr) (s : State) : MovesO 0x1000007c s (execMma d g errs s) :=
  .next (State.issue_moves _ _ _ _ _ (fun _ => MovesP.ite (fun _ => MovesP.mono (State.routeEnter_moves _ _ _ _ _) (by decide))
    (fun _ => MovesP.mono (State.accEnter_moves _ _ _ _ _) (by decide))) (by decide))

theorem execMmaConv_moves (d : Fin 4) (g : Fin 96) (errs : List AccErr) (s : State) : MovesO 0x1000007c s (execMmaConv d g errs s) :=
  .next (State.issue_moves _ _ _ _ _ (fun _ => MovesP.mono (State.accEnter_moves _ _ _ _ _) (by decide)) (by decide))

theorem execMmaPair3_moves (d : Fin 4) (g : Fin 96) (errs : List AccErr) (s : State) : MovesO 0x1000007c s (execMmaPair3 d g errs s) :=
  .next (State.issue_moves _ _ _ _ _ (fun _ => MovesP.mono (State.accEnter_moves _ _ _ _ _) (by decide)) (by decide))

theorem execAccRd_moves (d : Fin 4) (g : Fin 96) (errs : List AccErr) (s : State) : MovesO 0x1000007c s (execAccRd d g errs s) :=
  .next (State.issue_moves _ _ _ _ _ (fun _ => MovesP.mono (State.accEnter_moves _ _ _ _ _) (by decide)) (by decide))

theorem execAccWr_moves (d : Fin 4) (g : Fin 96) (s : State) : MovesO 0x1000007c s (execAccWr d g s) :=
  .next (State.issue_moves _ _ _ _ _ (fun _ => MovesP.mono (State.accEnter_moves _ _ _ _ _) (by decide)) (by decide))

theorem execTileAdd_moves (d : Fin 4) (g : Fin 96) (errs : List AccErr) (s : State) : MovesO 0x1000007c s (execTileAdd d g errs s) :=
  .next (State.issue_moves _ _ _ _ _ (fun _ => MovesP.mono (State.accEnter_moves _ _ _ _ _) (by decide)) (by decide))

end Sys2Proof.Machine
end

