-- ==== Sys2Proof/Laws/MovesErrOps.lean ====
section
/-!
SUPPORT. What each definition of Machine/ErrOps.lean may change: one Moves lemma each.
-/
set_option Elab.async false
set_option linter.all false

namespace Sys2Proof.Machine

open Sys2Proof

theorem State.writeRecord_moves (s : State) (r : ErrRec) : Moves 0x12000004 s (State.writeRecord s r) := by
  unfold State.writeRecord; with_reducible repeat' first | exact .refl _ | (apply Moves.step; (first | apply State.emit_moves | apply State.sendMsix_moves | apply State.setErr_moves); decide) | refine Moves.ite (fun _ => ?_) (fun _ => ?_) | dsimp only | extract_lets | split

theorem State.setHolding_moves (s : State) (l : List ErrRec) : Moves 0x10000008 s (State.setHolding s l) := by
  unfold State.setHolding; with_reducible repeat' first | exact .refl _ | (apply Moves.step; (first | apply State.setErr_moves | apply State.setF_moves); decide) | dsimp only

theorem State.dropRecord_moves (s : State) : Moves 0x10000008 s (State.dropRecord s) := by
  unfold State.dropRecord; with_reducible repeat' first | exact .refl _ | (apply Moves.step; (first | apply State.satF_moves | apply State.setErr_moves); decide) | dsimp only

theorem State.holdRecord_moves (s : State) (r : ErrRec) : Moves 0x10000008 s (State.holdRecord s r) := by
  unfold State.holdRecord; with_reducible repeat' first | exact .refl _ | (apply Moves.step; (first | apply State.dropRecord_moves | apply State.setHolding_moves); decide) | refine Moves.ite (fun _ => ?_) (fun _ => ?_) | (apply Moves.fst; assumption) | (apply Moves.snd; assumption) | dsimp only | extract_lets | split

theorem State.placeRecord_moves (s : State) (r : ErrRec) : Moves 0x1200000c s (State.placeRecord s r) := by
  unfold State.placeRecord; with_reducible repeat' first | exact .refl _ | (apply Moves.step; (first | apply State.holdRecord_moves | apply State.setErr_moves | apply State.writeRecord_moves); decide) | refine Moves.ite (fun _ => ?_) (fun _ => ?_) | dsimp only | extract_lets | split

theorem State.firstRecord_moves (s : State) (r : ErrRec) : Moves 0x8 s (State.firstRecord s r) := by
  unfold State.firstRecord; with_reducible repeat' first | exact .refl _ | (apply Moves.step; apply State.setF_moves; decide) | refine Moves.ite (fun _ => ?_) (fun _ => ?_) | (apply Moves.fst; assumption) | (apply Moves.snd; assumption) | dsimp only | extract_lets | split

theorem State.countRecord_moves (s : State) (cls : Nat) : Moves 0x8 s (State.countRecord s cls) := by
  unfold State.countRecord; with_reducible repeat' first | exact .refl _ | (apply Moves.step; apply State.satF_moves; decide) | (apply Moves.fst; assumption) | (apply Moves.snd; assumption) | dsimp only | split

theorem State.processRecord_moves (s : State) (r : ErrRec) : Moves 0x1200000c s (State.processRecord s r) := by
  unfold State.processRecord; with_reducible repeat' first | exact .refl _ | (apply Moves.step; (first | apply State.countRecord_moves | apply State.firstRecord_moves | apply State.placeRecord_moves | apply State.setErr_moves); decide) | refine Moves.ite (fun _ => ?_) (fun _ => ?_) | dsimp only | extract_lets | split

theorem State.flushRecords_moves (s : State) : Moves 0x1200000c s (State.flushRecords s) := by
  unfold State.flushRecords; with_reducible repeat' first | exact .refl _ | (apply Moves.step; (first | apply State.processRecord_moves | apply State.setErr_moves); decide) | refine Moves.foldl _ _ (fun _ _ => ?_) ?_ | refine Moves.foldl₁ _ _ (fun _ _ => ?_) ?_ | dsimp only

theorem State.emptyHolding_moves (s : State) : Moves 0x10000008 s (State.emptyHolding s) := by
  unfold State.emptyHolding; with_reducible repeat' first | exact .refl _ | (apply Moves.step; (first | apply State.setErr_moves | apply State.setHolding_moves); decide) | dsimp only

theorem State.deliverPersistent_moves (s : State) : Moves 0x10000008 s (State.deliverPersistent s) := by
  unfold State.deliverPersistent; with_reducible repeat' first | exact .refl _ | (apply Moves.step; (first | apply State.countRecord_moves | apply State.firstRecord_moves | apply State.holdRecord_moves | apply State.setErr_moves); decide) | refine Moves.foldl _ _ (fun _ _ => ?_) ?_ | refine Moves.foldl₁ _ _ (fun _ _ => ?_) ?_ | dsimp only | extract_lets | split

end Sys2Proof.Machine
end

