-- ==== Sys2Proof/Laws/MovesPackageOps.lean ====
section
/-!
SUPPORT. What each definition of Machine/PackageOps.lean may change: one Moves lemma each.
-/
set_option Elab.async false
set_option linter.all false

namespace Sys2Proof.Machine

open Sys2Proof

theorem State.trainLink_moves (s : State) (l : Nat) : Moves 0x8 s (State.trainLink s l) := by
  unfold State.trainLink; with_reducible repeat' first | exact .refl _ | (apply Moves.step; apply State.setF_moves; decide) | dsimp only

theorem State.saddleDecode_moves (s : State) (x : SaddleEnd) (g w : Nat) (symbols : List Nat) : Moves 0x2 s (State.saddleDecode s x g w symbols).1 := by
  unfold State.saddleDecode; with_reducible repeat' first | exact .refl _ | dsimp only | (apply Moves.step; apply State.takeFree_moves; decide) | refine Moves.ite (fun _ => ?_) (fun _ => ?_) | (apply Moves.fst; assumption) | (apply Moves.snd; assumption) | extract_lets | split

theorem State.saddleWord_moves (s : State) (l e g w : Nat) (symbols : List Nat) : Moves 0x1000100a s (State.saddleWord s l e g w symbols).1 := by
  unfold State.saddleWord; with_reducible repeat' first | exact .refl _ | dsimp only | (apply Moves.step; (first | apply State.raise_moves | apply State.saddleDecode_moves | apply State.satF_moves | apply State.setF_moves | apply State.setSaddle_moves); decide) | refine Moves.ite (fun _ => ?_) (fun _ => ?_) | (apply Moves.fst; assumption) | (apply Moves.snd; assumption) | extract_lets | split

theorem State.holdFlit_moves (s : State) (l e : Nat) (x : SaddleFlit) : Moves 0x1000 s (State.holdFlit s l e x) := by
  unfold State.holdFlit; with_reducible repeat' first | exact .refl _ | (apply Moves.step; apply State.setSaddle_moves; decide) | dsimp only | extract_lets | split

theorem State.landFlit_moves (s : State) (a : Nat) (words : List (List Byte × Bool)) : Moves 0x30 s (State.landFlit s a words) := by
  unfold State.landFlit; with_reducible repeat' first | exact .refl _ | (apply Moves.step; apply State.writeMarked_moves; decide) | refine Moves.ite (fun _ => ?_) (fun _ => ?_) | dsimp only | extract_lets | split

theorem State.deliverFlit_moves (s : State) (l e : Nat) (groups : List Nat) (x : SaddleFlit) (errs : List SymErr) : Moves 0x1000103a s (State.deliverFlit s l e groups x errs).1 := by
  unfold State.deliverFlit; with_reducible repeat' first | exact .refl _ | dsimp only | (apply Moves.step; (first | apply State.landFlit_moves | apply State.saddleWord_moves); decide) | refine Moves.foldl _ _ (fun _ _ => ?_) ?_ | refine Moves.foldl₁ _ _ (fun _ _ => ?_) ?_ | (apply Moves.fst; assumption) | (apply Moves.snd; assumption) | extract_lets | split

theorem State.resendFlits_moves (s : State) (l : Nat) : Moves 0x1000103a s (State.resendFlits s l) := by
  unfold State.resendFlits; with_reducible repeat' first | exact .refl _ | (apply Moves.step; (first | apply State.deliverFlit_moves | apply State.holdFlit_moves | apply State.landFlit_moves | apply State.setSaddle_moves); decide) | refine Moves.ite (fun _ => ?_) (fun _ => ?_) | refine Moves.foldl _ _ (fun _ _ => ?_) ?_ | refine Moves.foldl₁ _ _ (fun _ _ => ?_) ?_ | (apply Moves.fst; assumption) | (apply Moves.snd; assumption) | dsimp only | extract_lets | split

theorem State.sideband_moves (s : State) (fields : List Nat) : Moves 0x4 s (State.sideband s fields) := by
  unfold State.sideband; with_reducible repeat' first | exact .refl _ | (apply Moves.step; apply State.emit_moves; decide) | refine Moves.ite (fun _ => ?_) (fun _ => ?_) | dsimp only | split

end Sys2Proof.Machine
end

