-- ==== Sys2Proof/Laws/MovesRemote.lean ====
section
/-!
SUPPORT. What each definition of Machine/Remote.lean may change: one Moves lemma each.
-/
set_option Elab.async false
set_option linter.all false

namespace Sys2Proof.Machine

open Sys2Proof

theorem State.atomicRequest_moves (s : State) (d g : Nat) (e : TqEntry) : Moves 0x11000027e s (State.atomicRequest s d g e).1 := by
  unfold State.atomicRequest; with_reducible repeat' first | exact .refl _ | dsimp only | (apply Moves.step; apply State.localRead_moves; decide) | refine Moves.ite (fun _ => ?_) (fun _ => ?_) | extract_lets | split

theorem State.startRemote_moves {s t : State} {d g : Nat} {e : TqEntry} {r : RemReq} (h : s.startRemote d g e r = some t) :
    Moves 0x1b2620bfe s t := by
  unfold State.startRemote at h
  split at h
  · cases h
  · injection h with h; subst h
    exact (State.remoteIssue_moves_fire ..).step (by decide) ((State.updCore_moves ..).mono (by decide))

theorem execPut_moves (d : Fin 4) (g : Fin 96) (s : State) : MovesO 0x1b3e70bfe s (execPut d g s) := by
  unfold execPut; with_reducible repeat' first | exact .refl _ | apply MovesO.next | refine MovesP.some ?_ | exact MovesP.none | refine State.issue_moves _ _ _ _ _ (fun _ => ?_) (by decide) | (intro t h; apply Moves.step; (apply State.startRemote_moves; assumption); decide) | (apply Moves.step; (first | apply State.afterWork_moves | (apply State.startRemote_moves; assumption)); decide) | dsimp only

theorem execGet_moves (d : Fin 4) (g : Fin 96) (s : State) : MovesO 0x1b3e70bfe s (execGet d g s) := by
  unfold execGet; with_reducible repeat' first | exact .refl _ | apply MovesO.next | refine MovesP.some ?_ | exact MovesP.none | refine State.issue_moves _ _ _ _ _ (fun _ => ?_) (by decide) | (intro t h; apply Moves.step; (apply State.startRemote_moves; assumption); decide) | (apply Moves.step; (first | apply State.afterWork_moves | (apply State.startRemote_moves; assumption)); decide) | dsimp only

theorem execAtomic_moves (d : Fin 4) (g : Fin 96) (s : State) : MovesO 0x1b3e70bfe s (execAtomic d g s) := by
  unfold execAtomic; with_reducible repeat' first | exact .refl _ | apply MovesO.next | refine MovesP.some ?_ | exact MovesP.none | refine State.issue_moves _ _ _ _ _ (fun _ => ?_) (by decide) | (intro t h; apply Moves.step; (apply State.startRemote_moves; assumption); decide) | (apply Moves.step; (first | apply State.afterWork_moves | apply State.atomicRequest_moves | (apply State.startRemote_moves; assumption)); decide) | dsimp only | extract_lets | split

theorem execTrackerGrant_moves (d : Fin 4) (s : State) : MovesO 0x1b3e70bfe s (execTrackerGrant d s) := by
  unfold execTrackerGrant; with_reducible repeat' first | exact .refl _ | apply MovesO.next | refine MovesO.ite (fun _ => ?_) (fun _ => ?_) | (apply Moves.step; (first | apply State.afterWork_moves | apply State.grantWaiter_moves | apply State.setTracker_moves); decide) | refine Moves.ite (fun _ => ?_) (fun _ => ?_) | (apply Moves.fst; assumption) | (apply Moves.snd; assumption) | dsimp only | extract_lets | split

theorem execFenceRelease_moves (d : Fin 4) (id : Fin 4096) (s : State) : MovesO 0x1b3e70bfe s (execFenceRelease d id s) := by
  unfold execFenceRelease; with_reducible repeat' first | exact .refl _ | apply MovesO.next | refine MovesO.ite (fun _ => ?_) (fun _ => ?_) | (apply Moves.step; (first | apply State.afterWork_moves | apply State.fireTrigger_moves | apply State.sendEntry_moves_fire); decide) | refine Moves.ite (fun _ => ?_) (fun _ => ?_) | (apply Moves.fst; assumption) | (apply Moves.snd; assumption) | dsimp only | split

theorem execPutArrive_moves (g : Segment) (s : State) : MovesO 0x1b2620bfe s (execPutArrive g s) := by
  unfold execPutArrive; with_reducible repeat' first | exact .refl _ | apply MovesO.next | (apply Moves.step; (first | apply State.arrive_moves_fire | apply State.fireTrigger_moves); decide) | dsimp only

theorem execGetArrive_moves (g : Segment) (s : State) : MovesO 0x1b2620bfe s (execGetArrive g s) := by
  unfold execGetArrive; with_reducible repeat' first | exact .refl _ | apply MovesO.next | (apply Moves.step; (first | apply State.arrive_moves_fire | apply State.fireTrigger_moves); decide) | dsimp only

theorem execAtomicArrive_moves (g : Segment) (s : State) : MovesO 0x1b2620bfe s (execAtomicArrive g s) := by
  unfold execAtomicArrive; with_reducible repeat' first | exact .refl _ | apply MovesO.next | (apply Moves.step; (first | apply State.arrive_moves_fire | apply State.fireTrigger_moves); decide) | dsimp only

theorem execNotify_moves (g : Segment) (s : State) : MovesO 0x1b3e70bfe s (execNotify g s) := by
  unfold execNotify; with_reducible repeat' first | exact .refl _ | apply MovesO.next | (apply Moves.step; (first | apply State.afterWork_moves | apply State.arrive_moves_fire | apply State.fireTrigger_moves); decide) | dsimp only

theorem State.dropLateHost_moves (s : State) (d id : Nat) : Moves 0x80 s (State.dropLateHost s d id) := by
  unfold State.dropLateHost; with_reducible repeat' first | exact .refl _ | (apply Moves.step; apply State.setTracker_moves; decide) | dsimp only

theorem execRemoteResponse_moves (d : Fin 4) (id : Fin 4096) (step seg64 status : Nat) (refused : Bool) (data : List Byte) (marks : List Bool) (s : State) : MovesO 0x1b3e70bfe s (execRemoteResponse d id step seg64 status refused data marks s) := by
  unfold execRemoteResponse; with_reducible repeat' first | exact .refl _ | apply MovesO.next | refine MovesO.ite (fun _ => ?_) (fun _ => ?_) | apply MovesO.refused | (apply Moves.step; (first | apply State.afterWork_moves | apply State.dropLate_moves | apply State.finish_moves | apply State.landResponse_moves | apply State.sendGranted_moves | apply State.updEntry_moves); decide) | refine Moves.ite (fun _ => ?_) (fun _ => ?_) | (apply Moves.fst; assumption) | (apply Moves.snd; assumption) | dsimp only | split

theorem execRemoteTimeout_moves (d : Fin 4) (id : Fin 4096) (s : State) : MovesO 0x1b3e70bff s (execRemoteTimeout d id s) := by
  unfold execRemoteTimeout; with_reducible repeat' first | exact .refl _ | apply MovesO.next | refine MovesO.ite (fun _ => ?_) (fun _ => ?_) | (apply Moves.step; (first | apply State.abandon_moves | apply State.addF_moves | apply State.afterWork_moves | apply State.timeTo_moves); decide) | refine Moves.ite (fun _ => ?_) (fun _ => ?_) | (apply Moves.fst; assumption) | (apply Moves.snd; assumption) | dsimp only | extract_lets | split

theorem State.clearHw_moves (s : State) (d : Nat) : Moves 0x8 s (State.clearHw s d) := by
  unfold State.clearHw; with_reducible repeat' first | exact .refl _ | (apply Moves.step; apply State.setF_moves; decide) | dsimp only

theorem execClearHw_moves (d : Fin 4) (s : State) : MovesO 0x8 s (execClearHw d s) := by
  unfold execClearHw; with_reducible repeat' first | exact .refl _ | apply MovesO.next | refine MovesO.ite (fun _ => ?_) (fun _ => ?_) | (apply Moves.step; apply State.clearHw_moves; decide) | refine Moves.ite (fun _ => ?_) (fun _ => ?_) | dsimp only | split

theorem State.loseRange_moves (s : State) (n cause : Nat) : Moves 0x120001c8 s (State.loseRange s n cause) := by
  unfold State.loseRange; with_reducible repeat' first | exact .refl _ | (apply Moves.step; (first | apply State.addF_moves | apply State.endWhere_moves | apply State.raise_moves | apply State.setF_moves); decide) | refine Moves.ite (fun _ => ?_) (fun _ => ?_) | refine Moves.foldl _ _ (fun _ _ => ?_) ?_ | refine Moves.foldl₁ _ _ (fun _ _ => ?_) ?_ | (apply Moves.fst; assumption) | (apply Moves.snd; assumption) | dsimp only | extract_lets | split

theorem execPooledAccess_moves (d : Fin 4) (id : Fin 4096) (s : State) : MovesO 0x1b3e70bfe s (execPooledAccess d id s) := by
  unfold execPooledAccess; with_reducible repeat' first | exact .refl _ | apply MovesO.next | refine MovesO.ite (fun _ => ?_) (fun _ => ?_) | (apply Moves.step; (first | apply State.afterWork_moves | apply State.emit_moves | apply State.finish_moves | apply State.meetErrs_moves | apply State.updEntry_moves); decide) | refine Moves.ite (fun _ => ?_) (fun _ => ?_) | (apply Moves.fst; assumption) | (apply Moves.snd; assumption) | dsimp only | extract_lets | split

theorem execUioCompletion_moves (d : Fin 4) (id : Fin 4096) (result : Fin 3) (data : List Byte) (marks : List Bool) (s : State) : MovesO 0x1b3e70bfe s (execUioCompletion d id result data marks s) := by
  unfold execUioCompletion; with_reducible repeat' first | exact .refl _ | apply MovesO.next | refine MovesO.ite (fun _ => ?_) (fun _ => ?_) | (apply Moves.step; (first | apply State.afterWork_moves | apply State.dropLateHost_moves | apply State.finish_moves | apply State.landData_moves | apply State.loseRange_moves); decide) | refine Moves.ite (fun _ => ?_) (fun _ => ?_) | (apply Moves.fst; assumption) | (apply Moves.snd; assumption) | dsimp only | extract_lets | split

theorem execUioTimeout_moves (d : Fin 4) (id : Fin 4096) (s : State) : MovesO 0x1b3e70bff s (execUioTimeout d id s) := by
  unfold execUioTimeout; with_reducible repeat' first | exact .refl _ | apply MovesO.next | (apply Moves.step; (first | apply State.abandon_moves | apply State.addF_moves | apply State.afterWork_moves | apply State.loseRange_moves | apply State.timeTo_moves); decide) | (apply Moves.fst; assumption) | (apply Moves.snd; assumption) | dsimp only | extract_lets | split

theorem execExpanderRemoved_moves (n : Fin 32) (s : State) : MovesO 0x1b3e70bfe s (execExpanderRemoved n s) := by
  unfold execExpanderRemoved; with_reducible repeat' first | exact .refl _ | apply MovesO.next | (apply Moves.step; (first | apply State.afterWork_moves | apply State.loseRange_moves); decide) | dsimp only

theorem State.writeRangeState_moves (s : State) (n v : Nat) : Moves 0x8 s (State.writeRangeState s n v) := by
  unfold State.writeRangeState; with_reducible repeat' first | exact .refl _ | (apply Moves.step; apply State.setF_moves; decide) | refine Moves.ite (fun _ => ?_) (fun _ => ?_) | dsimp only | split

theorem execRangeStateWrite_moves (n : Fin 32) (v : Fin 4) (s : State) : MovesO 0x8 s (execRangeStateWrite n v s) := by
  unfold execRangeStateWrite; with_reducible repeat' first | exact .refl _ | apply MovesO.next | (apply Moves.step; apply State.writeRangeState_moves; decide) | dsimp only

end Sys2Proof.Machine
end

