-- ==== Sys2Proof/Laws/MovesSecOps.lean ====
section
/-!
SUPPORT. What each definition of Machine/SecOps.lean may change: one Moves lemma each.
-/
set_option Elab.async false
set_option linter.all false

namespace Sys2Proof.Machine

open Sys2Proof

theorem State.refuseCommand_moves (s : State) (reason : Nat) : Moves 0xc s (State.refuseCommand s reason) := by
  unfold State.refuseCommand; with_reducible repeat' first | exact .refl _ | (apply Moves.step; (first | apply State.setF_moves | apply State.sideband_moves); decide) | dsimp only

theorem State.keepSeq_moves (s : State) (seq : Nat) : Moves 0x8000000 s (State.keepSeq s seq) := by
  unfold State.keepSeq; with_reducible repeat' first | exact .refl _ | (apply Moves.step; apply State.setSec_moves; decide) | dsimp only

theorem State.signedCommand_moves {m : Nat} (s : State) (c : Option SideCommand) (act : List Byte → State → State)
    (ha : ∀ b u, Moves m u (act b u)) (hm : 0x800000c &&& m = 0x800000c) :
    Moves m s (s.signedCommand c act) := by
  unfold State.signedCommand
  refine .ite (fun _ => (State.sideband_moves ..).mono (sub_trans (by decide) hm)) (fun _ => ?_)
  split
  · exact (ha _ _).step (Nat.and_self m) ((State.sideband_moves ..).step (sub_trans (by decide) hm)
      ((State.keepSeq_moves ..).mono (sub_trans (by decide) hm)))
  · exact (State.refuseCommand_moves ..).mono (sub_trans (by decide) hm)

theorem State.setMeasure_moves (s : State) (m : Nat) (v : Nat) : Moves 0x8 s (State.setMeasure s m v) := by
  unfold State.setMeasure; with_reducible repeat' first | exact .refl _ | (apply Moves.step; apply State.setReg_moves; decide) | refine Moves.foldl _ _ (fun _ _ => ?_) ?_ | refine Moves.foldl₁ _ _ (fun _ _ => ?_) ?_ | dsimp only

theorem State.measureRecords_moves (s : State) : Moves 0x8 s (State.measureRecords s) := by
  unfold State.measureRecords; with_reducible repeat' first | exact .refl _ | (apply Moves.step; apply State.setMeasure_moves; decide) | dsimp only

end Sys2Proof.Machine
end

