-- ==== Sys2Proof/Laws/MovesLinkOps.lean ====
section
/-!
SUPPORT. What each definition of Machine/LinkOps.lean may change: one Moves lemma each.
-/
set_option Elab.async false
set_option linter.all false

namespace Sys2Proof.Machine

open Sys2Proof

theorem State.endEntry_moves (s : State) : Moves 0x1f3e78bfe s (State.endEntry s) := by
  unfold State.endEntry; with_reducible repeat' first | exact .refl _ | (apply Moves.step; (first | apply State.setF_moves | apply State.takeOrders_moves); decide) | dsimp only

theorem State.wake_moves (s : State) : Moves 0x1f3e78bfe s (State.wake s) := by
  unfold State.wake; with_reducible repeat' first | exact .refl _ | (apply Moves.step; (first | apply State.endEntry_moves | apply State.setF_moves); decide) | (apply Moves.fst; assumption) | (apply Moves.snd; assumption) | dsimp only | split

theorem State.gateReset_moves {m : Nat} (s : State) (r : HeldReset) (act : State → State) (ha : ∀ u, Moves m u (act u))
    (hm : 0x1f3e78bfe &&& m = 0x1f3e78bfe) : Moves m s (s.gateReset r act) := by
  have hw : Moves m s s.wake := (State.wake_moves s).mono (sub_trans (by decide) hm)
  unfold State.gateReset
  refine .ite (fun _ => .refl s) (fun _ => ?_)
  split
  · exact ha s
  · exact (ha _).step (Nat.and_self m) hw
  · exact (ha _).step (Nat.and_self m) hw
  · extract_lets s1
    exact (State.setLow_moves ..).step (sub_trans (by decide) hm) hw

theorem State.endBinding_moves (s : State) : Moves 0x20001c8 s (State.endBinding s) := by
  unfold State.endBinding; with_reducible repeat' first | exact .refl _ | (apply Moves.step; (first | apply State.endWhere_moves | apply State.unbind_moves); decide) | refine Moves.ite (fun _ => ?_) (fun _ => ?_) | refine Moves.foldl _ _ (fun _ _ => ?_) ?_ | refine Moves.foldl₁ _ _ (fun _ _ => ?_) ?_ | dsimp only | split

theorem State.hostResult_moves (s : State) (failed : Bool) : Moves 0x20001c8 s (State.hostResult s failed) := by
  unfold State.hostResult; with_reducible repeat' first | exact .refl _ | (apply Moves.step; (first | apply State.endBinding_moves | apply State.setHost_moves); decide) | refine Moves.ite (fun _ => ?_) (fun _ => ?_) | dsimp only | extract_lets | split

theorem State.cxlDown_moves (s : State) : Moves 0x1b3e70bfe s (State.cxlDown s) := by
  unfold State.cxlDown; with_reducible repeat' first | exact .refl _ | (apply Moves.step; (first | apply State.endBinding_moves | apply State.loseRange_moves | apply State.releaseAll_moves | apply State.setHost_moves); decide) | refine Moves.foldl _ _ (fun _ _ => ?_) ?_ | refine Moves.foldl₁ _ _ (fun _ _ => ?_) ?_ | dsimp only | extract_lets | split

theorem State.ringError_moves (s : State) (r cause : Nat) : Moves 0x8 s (State.ringError s r cause) := by
  unfold State.ringError; with_reducible repeat' first | exact .refl _ | (apply Moves.step; apply State.setF_moves; decide) | refine Moves.ite (fun _ => ?_) (fun _ => ?_) | dsimp only | split

theorem State.readDoorbell_moves (s : State) (r : Nat) (line : List Byte) : Moves 0x12000008 s (State.readDoorbell s r line) := by
  unfold State.readDoorbell; with_reducible repeat' first | exact .refl _ | (apply Moves.step; (first | apply State.ringError_moves | apply State.setErr_moves | apply State.setRing_moves); decide) | refine Moves.ite (fun _ => ?_) (fun _ => ?_) | dsimp only | extract_lets | split

end Sys2Proof.Machine
end

