-- ==== Sys2Proof/Laws/MovesResetOps.lean ====
section
/-!
SUPPORT. What each definition of Machine/ResetOps.lean may change: one Moves lemma each.
-/
set_option Elab.async false
set_option linter.all false

namespace Sys2Proof.Machine

open Sys2Proof

theorem State.clearParts_moves (s : State) (power : Bool) : Moves 0xfffffffc s (s.clearParts power) := by
  unfold State.clearParts
  have h2 : Moves 0xfffffffc s { s with mem := if power then [] else kfilter inSram s.mem } :=
    (Moves.refl s).special (Nat.le_refl _) (Nat.le_refl _) List.prefix_rfl id
      (fun h => by split; exact rfl; exact kwf_kfilter inSram h)
      (.inl rfl) (.inl rfl) (.inl rfl) (.inl rfl) (.inr (by decide))
  exact .ofF (.upd (t := { s with mem := if power then [] else kfilter inSram s.mem }) h2)

theorem State.resetParts_moves (s : State) (power : Bool) : Moves 0xfffffffc s (State.resetParts s power) := by
  unfold State.resetParts; with_reducible repeat' first | exact .refl _ | (apply Moves.step; (first | apply State.clearParts_moves | apply State.emptyHolding_moves | apply State.flushRecords_moves | apply State.resetPackageRegs_moves | apply State.resetPowerRegs_moves | apply State.setF_moves); decide) | refine Moves.ite (fun _ => ?_) (fun _ => ?_) | dsimp only | extract_lets | split

theorem State.refreshStacks_moves (s : State) : Moves 0x408 s (State.refreshStacks s) := by
  unfold State.refreshStacks; with_reducible repeat' first | exact .refl _ | (apply Moves.step; apply State.selfRefresh_moves; decide) | refine Moves.foldl _ _ (fun _ _ => ?_) ?_ | refine Moves.foldl₁ _ _ (fun _ _ => ?_) ?_ | dsimp only

theorem State.takeUpdates_moves (s : State) : Moves 0x8000000 s (State.takeUpdates s) := by
  unfold State.takeUpdates; with_reducible repeat' first | exact .refl _ | (apply Moves.step; apply State.setSec_moves; decide) | refine Moves.ite (fun _ => ?_) (fun _ => ?_) | (apply Moves.fst; assumption) | (apply Moves.snd; assumption) | dsimp only | extract_lets | split

theorem State.bootCamp_moves (s : State) : Moves 0x88100008 s (State.bootCamp s) := by
  unfold State.bootCamp; with_reducible repeat' first | exact .refl _ | (apply Moves.step; (first | apply State.firstGen_moves | apply State.measureRecords_moves | apply State.setF_moves | apply State.setMeasure_moves | apply State.setPower_moves | apply State.setReg_moves | apply State.takeUpdates_moves); decide) | refine Moves.ite (fun _ => ?_) (fun _ => ?_) | (apply Moves.fst; assumption) | (apply Moves.snd; assumption) | dsimp only | extract_lets | split

theorem State.startCrest_moves (s : State) : Moves 0x1bff7bffe s (State.startCrest s) := by
  unfold State.startCrest; with_reducible repeat' first | exact .refl _ | (apply Moves.step; (first | apply State.applyProfile_moves | apply State.fenceOne_moves | apply State.isolate_moves | apply State.setF_moves | apply State.setPins_moves | apply State.setPower_moves | apply State.setSec_moves | apply State.setStack_moves | apply State.trainLink_moves | apply State.trainPort_moves | apply State.tryFatal_moves); decide) | refine Moves.ite (fun _ => ?_) (fun _ => ?_) | refine Moves.foldl _ _ (fun _ _ => ?_) ?_ | refine Moves.foldl₁ _ _ (fun _ _ => ?_) ?_ | dsimp only | extract_lets | split

theorem State.completeReset_moves (s : State) (b : BootInputs) : Moves 0x1bff7bffe s (State.completeReset s b) := by
  unfold State.completeReset; with_reducible repeat' first | exact .refl _ | (apply Moves.step; (first | apply State.bootCamp_moves | apply State.deliverPersistent_moves | apply State.setPins_moves | apply State.setPower_moves | apply State.setSec_moves | apply State.startCrest_moves); decide) | refine Moves.ite (fun _ => ?_) (fun _ => ?_) | dsimp only | extract_lets | split

theorem State.beginPackageReset_moves (s : State) (source : Nat) : Moves 0xfffffffc s (State.beginPackageReset s source) := by
  unfold State.beginPackageReset; with_reducible repeat' first | exact .refl _ | (apply Moves.step; (first | apply State.resetParts_moves | apply State.setF_moves | apply State.setPower_moves); decide) | dsimp only

theorem State.packageReset_moves (s : State) (source : Nat) (b : BootInputs) : Moves 0x1fffffffe s (State.packageReset s source b) := by
  unfold State.packageReset; with_reducible repeat' first | exact .refl _ | (apply Moves.step; (first | apply State.beginPackageReset_moves | apply State.completeReset_moves); decide) | dsimp only

theorem State.functionReset_moves (s : State) : Moves 0x1200004c s (State.functionReset s) := by
  unfold State.functionReset; with_reducible repeat' first | exact .refl _ | (apply Moves.step; (first | apply State.emptyHolding_moves | apply State.flushRecords_moves | apply State.resetFunctionRegs_moves | apply State.setCore_moves | apply State.setDescs_moves | apply State.setErr_moves | apply State.setHost_moves); decide) | refine Moves.foldl _ _ (fun _ _ => ?_) ?_ | refine Moves.foldl₁ _ _ (fun _ _ => ?_) ?_ | dsimp only | extract_lets | split

theorem State.dieReset_moves (s : State) (mask : Nat) : Moves 0x1b7f7bffe s (State.dieReset s mask) := by
  unfold State.dieReset; with_reducible repeat' first | exact .refl _ | (apply Moves.step; (first | apply State.afterWork_moves | apply State.clearCause_moves | apply State.fenceOne_moves | apply State.isolate_moves | apply State.setF_moves | apply State.tryFatal_moves); decide) | refine Moves.ite (fun _ => ?_) (fun _ => ?_) | refine Moves.foldl _ _ (fun _ _ => ?_) ?_ | refine Moves.foldl₁ _ _ (fun _ _ => ?_) ?_ | dsimp only | extract_lets | split

theorem State.portReset_moves (s : State) (p : Nat) : Moves 0x10000c s (State.portReset s p) := by
  unfold State.portReset; with_reducible repeat' first | exact .refl _ | (apply Moves.step; (first | apply State.clearKeys_moves | apply State.linkReport_moves | apply State.resetPortRegs_moves | apply State.setPort_moves | apply State.spillPort_moves | apply State.trainPort_moves); decide) | refine Moves.ite (fun _ => ?_) (fun _ => ?_) | dsimp only | extract_lets | split

theorem State.fenceCause_moves (s : State) (d cause : Nat) : Moves 0x1b7f7bffe s (State.fenceCause s d cause) := by
  unfold State.fenceCause; with_reducible repeat' first | exact .refl _ | (apply Moves.step; apply State.fence_moves; decide) | refine Moves.ite (fun _ => ?_) (fun _ => ?_) | dsimp only | split

theorem State.doHeldReset_moves (s : State) (r : HeldReset) : Moves 0x1b7f7bffe s (State.doHeldReset s r) := by
  unfold State.doHeldReset; with_reducible repeat' first | exact .refl _ | (apply Moves.step; (first | apply State.dieReset_moves | apply State.fenceCause_moves | apply State.functionReset_moves | apply State.portReset_moves); decide) | (apply Moves.fst; assumption) | (apply Moves.snd; assumption) | dsimp only | split

theorem State.gateFence_moves (s : State) (d cause : Nat) : Moves 0x1f7f7bffe s (State.gateFence s d cause) := by
  unfold State.gateFence; with_reducible repeat' first | exact .refl _ | refine State.gateReset_moves _ _ _ (fun _ => ?_) (by decide) | refine Moves.step (State.gateReset_moves (m := 0x1f7f7bffe) _ _ _ (fun _ => ?_) (by decide)) (by decide) ?_ | (apply Moves.step; apply State.fenceCause_moves; decide) | dsimp only

theorem State.gateIsolate_moves (s : State) : Moves 0x1f7f7bffe s (State.gateIsolate s) := by
  unfold State.gateIsolate; with_reducible repeat' first | exact .refl _ | (apply Moves.step; (first | apply State.gateFence_moves | apply State.isolate_moves); decide) | refine Moves.ite (fun _ => ?_) (fun _ => ?_) | refine Moves.foldl _ _ (fun _ _ => ?_) ?_ | refine Moves.foldl₁ _ _ (fun _ _ => ?_) ?_ | dsimp only | extract_lets | split

theorem State.powerOffCrest_moves (s : State) : Moves 0x1f380f8 s s.powerOffCrest := by
  unfold State.powerOffCrest
  extract_lets s1
  have h1 : Moves 0x1f380f8 s s1 := .foldl _ _ (fun _ _ => (State.setPortF_moves ..).step (by decide)
    ((State.setPort_moves ..).step (by decide) ((State.clearKeys_moves ..).mono (by decide)))) (.refl s)
  clear_value s1
  have h2 : Moves 0x1f380f8 s { s1 with mem := kfilter (fun k => decide (k < 0xC000000000)) s1.mem } :=
    h1.special (Nat.le_refl _) (Nat.le_refl _) List.prefix_rfl id (fun h => kwf_kfilter _ h)
      (.inl rfl) (.inl rfl) (.inl rfl) (.inl rfl) (.inr (by decide))
  exact .ofF (.upd (t := { s1 with mem := kfilter (fun k => decide (k < 0xC000000000)) s1.mem }) h2)

theorem State.shutdown_moves (s : State) (kind unit a0 a1 : Nat) : Moves 0x190000004 s (State.shutdown s kind unit a0 a1) := by
  unfold State.shutdown; with_reducible repeat' first | exact .refl _ | (apply Moves.step; (first | apply State.raise_moves | apply State.sendLeave_moves | apply State.setPins_moves | apply State.setPower_moves); decide) | refine Moves.ite (fun _ => ?_) (fun _ => ?_) | dsimp only | extract_lets | split

theorem State.packageFatal_moves (s : State) : Moves 0x190000004 s (State.packageFatal s) := by
  unfold State.packageFatal; with_reducible repeat' first | exact .refl _ | (apply Moves.step; (first | apply State.raise_moves | apply State.sendLeave_moves | apply State.setPins_moves | apply State.setPower_moves); decide) | refine Moves.ite (fun _ => ?_) (fun _ => ?_) | refine Moves.foldl _ _ (fun _ _ => ?_) ?_ | refine Moves.foldl₁ _ _ (fun _ _ => ?_) ?_ | dsimp only | extract_lets | split

theorem State.trip_moves (s : State) (sensor reading : Nat) : Moves 0x1b1f384fc s (State.trip s sensor reading) := by
  unfold State.trip; with_reducible repeat' first | exact .refl _ | (apply Moves.step; (first | apply State.endTest_moves | apply State.powerOffCrest_moves | apply State.refreshStacks_moves | apply State.shutdown_moves); decide) | refine Moves.ite (fun _ => ?_) (fun _ => ?_) | dsimp only | extract_lets | split

end Sys2Proof.Machine
end

