-- ==== Sys2Proof/Laws/MovesErrorCmd.lean ====
section
/-!
SUPPORT. What each definition of Machine/ErrorCmd.lean may change: one Moves lemma each.
-/
set_option Elab.async false
set_option linter.all false

namespace Sys2Proof.Machine

open Sys2Proof

theorem execErrorRecord_moves (s : State) : MovesO 0x1200000c s (execErrorRecord s) := by
  unfold execErrorRecord; with_reducible repeat' first | exact .refl _ | apply MovesO.next | (apply Moves.step; (first | apply State.processRecord_moves | apply State.setErr_moves); decide) | (apply Moves.fst; assumption) | (apply Moves.snd; assumption) | dsimp only | split

theorem execRecordWindowExpiry_moves (n : Fin 256) (s : State) : MovesO 0x1200000d s (execRecordWindowExpiry n s) := by
  unfold execRecordWindowExpiry; with_reducible repeat' first | exact .refl _ | apply MovesO.next | refine MovesO.ite (fun _ => ?_) (fun _ => ?_) | (apply Moves.step; (first | apply State.placeRecord_moves | apply State.setErr_moves | apply State.timeTo_moves); decide) | refine Moves.ite (fun _ => ?_) (fun _ => ?_) | (apply Moves.fst; assumption) | (apply Moves.snd; assumption) | dsimp only | extract_lets | split

theorem execHoldDrain_moves (s : State) : MovesO 0x1200000c s (execHoldDrain s) := by
  unfold execHoldDrain; with_reducible repeat' first | exact .refl _ | apply MovesO.next | refine MovesO.ite (fun _ => ?_) (fun _ => ?_) | (apply Moves.step; (first | apply State.setHolding_moves | apply State.writeRecord_moves); decide) | refine Moves.ite (fun _ => ?_) (fun _ => ?_) | (apply Moves.fst; assumption) | (apply Moves.snd; assumption) | dsimp only | split

theorem execHoldOverflow_moves (s : State) : MovesO 0x1200000c s (execHoldOverflow s) := by
  unfold execHoldOverflow; with_reducible repeat' first | exact .refl _ | apply MovesO.next | refine MovesO.ite (fun _ => ?_) (fun _ => ?_) | (apply Moves.step; (first | apply State.countRecord_moves | apply State.placeRecord_moves | apply State.setErr_moves); decide) | refine Moves.ite (fun _ => ?_) (fun _ => ?_) | dsimp only | extract_lets | split

end Sys2Proof.Machine
end

