-- ==== Sys2Proof/Laws/MovesHost.lean ====
section
/-!
SUPPORT. What each definition of Machine/Host.lean may change: one Moves lemma each.
-/
set_option Elab.async false
set_option linter.all false

namespace Sys2Proof.Machine

open Sys2Proof

theorem execHostEnumerate_moves (hdm : Fin 3073) (s : State) : MovesO 0x2000008 s (execHostEnumerate hdm s) := by
  unfold execHostEnumerate; with_reducible repeat' first | exact .refl _ | apply MovesO.next | refine MovesO.ite (fun _ => ?_) (fun _ => ?_) | (apply Moves.step; (first | apply State.setF_moves | apply State.setHost_moves); decide) | refine Moves.ite (fun _ => ?_) (fun _ => ?_) | dsimp only | split

theorem execUnbindNotice_moves (msg : List Byte) (s : State) : MovesO 0x1bbe70bfe s (execUnbindNotice msg s) := by
  unfold execUnbindNotice; with_reducible repeat' first | exact .refl _ | apply MovesO.next | (apply Moves.step; (first | apply State.endBinding_moves | apply State.releaseAll_moves); decide) | refine State.signedCommand_moves _ _ _ (fun _ _ => ?_) (by decide) | dsimp only

theorem execCxlLinkDown_moves (s : State) : MovesO 0x1b3e70bfe s (execCxlLinkDown s) := by
  unfold execCxlLinkDown; with_reducible repeat' first | exact .refl _ | apply MovesO.next | (apply Moves.step; apply State.cxlDown_moves; decide) | dsimp only

theorem execCxlLinkUp_moves (width rate : Fin 4) (s : State) : MovesO 0x2000000 s (execCxlLinkUp width rate s) := by
  unfold execCxlLinkUp; with_reducible repeat' first | exact .refl _ | apply MovesO.next | refine MovesO.ite (fun _ => ?_) (fun _ => ?_) | (apply Moves.step; apply State.setHost_moves; decide) | refine Moves.ite (fun _ => ?_) (fun _ => ?_) | dsimp only | split

theorem State.attach_moves (s : State) : Moves 0x2000008 s (State.attach s) := by
  unfold State.attach; with_reducible repeat' first | exact .refl _ | (apply Moves.step; (first | apply State.setF_moves | apply State.setRing_moves); decide) | refine Moves.ite (fun _ => ?_) (fun _ => ?_) | refine Moves.foldl _ _ (fun _ _ => ?_) ?_ | refine Moves.foldl₁ _ _ (fun _ _ => ?_) ?_ | dsimp only | split

theorem execAttach_moves (s : State) : MovesO 0x2000008 s (execAttach s) := by
  unfold execAttach; with_reducible repeat' first | exact .refl _ | apply MovesO.next | (apply Moves.step; apply State.attach_moves; decide) | dsimp only

theorem State.detach_moves (s : State) : Moves 0x8 s (State.detach s) := by
  unfold State.detach; with_reducible repeat' first | exact .refl _ | (apply Moves.step; apply State.setF_moves; decide) | dsimp only

theorem execDetach_moves (s : State) : MovesO 0x8 s (execDetach s) := by
  unfold execDetach; with_reducible repeat' first | exact .refl _ | apply MovesO.next | (apply Moves.step; apply State.detach_moves; decide) | dsimp only

theorem execIdeKm_moves (kind : Fin 3) (stream : Fin 256) (key : BitVec 256) (s : State) : MovesO 0x2000000 s (execIdeKm kind stream key s) := by
  unfold execIdeKm; with_reducible repeat' first | exact .refl _ | apply MovesO.next | refine MovesO.ite (fun _ => ?_) (fun _ => ?_) | (apply Moves.step; apply State.setHost_moves; decide) | refine Moves.ite (fun _ => ?_) (fun _ => ?_) | dsimp only | split

theorem State.ringCfg_moves (s : State) (r : Nat) (sqEn cqEn : Bool) (sqLog cqLog : Nat) (vector : Nat) (modUs modCount : Nat) : Moves 0x2000008 s (State.ringCfg s r sqEn cqEn sqLog cqLog vector modUs modCount) := by
  unfold State.ringCfg; with_reducible repeat' first | exact .refl _ | (apply Moves.step; (first | apply State.setF_moves | apply State.setRing_moves); decide) | refine Moves.ite (fun _ => ?_) (fun _ => ?_) | dsimp only | extract_lets | split

theorem execRingCfgWrite_moves (r : Fin 64) (sqEn cqEn : Bool) (sqLog cqLog : Fin 32) (vector : Fin 64) (modUs modCount : Fin 65536) (s : State) : MovesO 0x2000008 s (execRingCfgWrite r sqEn cqEn sqLog cqLog vector modUs modCount s) := by
  unfold execRingCfgWrite; with_reducible repeat' first | exact .refl _ | apply MovesO.next | (apply Moves.step; apply State.ringCfg_moves; decide) | dsimp only

theorem State.takeDoorbell_moves (s : State) (r : Nat) (line : List Byte) (stored : Bool) : Moves 0x1f3e78bfe s (State.takeDoorbell s r line stored) := by
  unfold State.takeDoorbell; with_reducible repeat' first | exact .refl _ | (apply Moves.step; (first | apply State.emit_moves | apply State.hostResult_moves | apply State.readDoorbell_moves | apply State.wake_moves); decide) | refine Moves.ite (fun _ => ?_) (fun _ => ?_) | dsimp only | extract_lets | split

theorem execDoorbellInvalidate_moves (r : Fin 65) (line : List Byte) (s : State) : MovesO 0x1f3e78bfe s (execDoorbellInvalidate r line s) := by
  unfold execDoorbellInvalidate; with_reducible repeat' first | exact .refl _ | apply MovesO.next | refine MovesO.ite (fun _ => ?_) (fun _ => ?_) | (apply Moves.step; apply State.takeDoorbell_moves; decide) | refine Moves.ite (fun _ => ?_) (fun _ => ?_) | dsimp only | split

theorem execDoorbellPoll_moves (r : Fin 65) (line : List Byte) (s : State) : MovesO 0x1f3e78bfe s (execDoorbellPoll r line s) := by
  unfold execDoorbellPoll; with_reducible repeat' first | exact .refl _ | apply MovesO.next | refine MovesO.ite (fun _ => ?_) (fun _ => ?_) | (apply Moves.step; apply State.takeDoorbell_moves; decide) | refine Moves.ite (fun _ => ?_) (fun _ => ?_) | dsimp only | split

theorem State.takeDesc_moves (s : State) (bs : List Byte) (handle ring : Nat) : Moves 0x2000008 s (State.takeDesc s bs handle ring) := by
  unfold State.takeDesc; with_reducible repeat' first | exact .refl _ | (apply Moves.step; (first | apply State.descDone_moves | apply State.setDescs_moves | apply State.setHost_moves | apply State.setRing_moves); decide) | refine Moves.ite (fun _ => ?_) (fun _ => ?_) | dsimp only | extract_lets | split

theorem State.fetchDescs_moves (s : State) (r : Nat) (data : List Byte) (n : Nat) :
    Moves 0x200000c s (s.fetchDescs r data n) := by
  induction n generalizing s data with
  | zero => exact .refl s
  | succ n ih =>
    unfold State.fetchDescs
    extract_lets f
    refine .ite (fun _ => .refl s) (fun _ => ?_)
    exact (ih _ _).step (by decide) ((State.takeDesc_moves ..).step (by decide)
      ((State.setF_moves ..).step (by decide) ((State.emit_moves ..).mono (by decide))))

theorem execRingFetch_moves (data : List Byte) (s : State) : MovesO 0x200000c s (execRingFetch data s) := by
  unfold execRingFetch; with_reducible repeat' first | exact .refl _ | apply MovesO.next | refine MovesO.ite (fun _ => ?_) (fun _ => ?_) | (apply Moves.step; (first | apply State.fetchDescs_moves | apply State.setHost_moves); decide) | refine Moves.ite (fun _ => ?_) (fun _ => ?_) | (apply Moves.fst; assumption) | (apply Moves.snd; assumption) | dsimp only | extract_lets | split

theorem execChainRead_moves (n : Fin 1024) (s : State) : MovesO 0x2000008 s (execChainRead n s) := by
  unfold execChainRead; with_reducible repeat' first | exact .refl _ | apply MovesO.next | refine MovesO.ite (fun _ => ?_) (fun _ => ?_) | (apply Moves.step; (first | apply State.setF_moves | apply State.setHost_moves | apply State.setRing_moves | apply State.takeDesc_moves); decide) | refine Moves.ite (fun _ => ?_) (fun _ => ?_) | (apply Moves.fst; assumption) | (apply Moves.snd; assumption) | dsimp only | extract_lets | split

theorem State.startDesc_moves (s : State) (uid : Nat) : Moves 0x2000000 s (State.startDesc s uid) := by
  unfold State.startDesc; with_reducible repeat' first | exact .refl _ | (apply Moves.step; apply State.setHost_moves; decide) | refine Moves.ite (fun _ => ?_) (fun _ => ?_) | dsimp only | split

theorem State.runDesc_moves {m : Nat} (s : State) (handle : BitVec 32) (opcode : Nat) (check : State → Desc → Nat)
    (act : State → Desc → State) (ha : ∀ u d, Moves m u (act u d)) (hm : 0x1b3e70bfe &&& m = 0x1b3e70bfe) :
    MovesO m s (s.runDesc handle opcode check act) := by
  have hs (d : Nat) : Moves m s (s.startDesc d) := (State.startDesc_moves ..).mono (sub_trans (by decide) hm)
  unfold State.runDesc
  split
  · exact .next (.refl s)
  · extract_lets s1 coll gone
    refine .ite (fun _ => .next ?_) (fun _ => .next ?_)
    · exact (State.descDone_moves ..).step (sub_trans (by decide) hm) (hs _)
    · exact (State.afterWork_moves ..).step (sub_trans (by decide) hm) ((ha _ _).step (Nat.and_self m) (hs _))

theorem execNopDesc_moves (handle : BitVec 32) (s : State) : MovesO 0x1b3e70bfe s (execNopDesc handle s) := by
  unfold execNopDesc; with_reducible repeat' first | exact .refl _ | apply MovesO.next | refine State.runDesc_moves _ _ _ _ _ (fun _ _ => ?_) (by decide) | (apply Moves.step; apply State.descDone_moves; decide) | dsimp only

theorem execCopy_moves (handle : BitVec 32) (s : State) : MovesO 0x1b3e70bfe s (execCopy handle s) := by
  unfold execCopy; with_reducible repeat' first | exact .refl _ | apply MovesO.next | refine State.runDesc_moves _ _ _ _ _ (fun _ _ => ?_) (by decide) | (apply Moves.step; (first | apply State.remoteIssue_moves_no | apply noFire_moves); decide) | dsimp only

theorem execDescAtomic_moves (handle : BitVec 32) (s : State) : MovesO 0x1b3e70bfe s (execDescAtomic handle s) := by
  unfold execDescAtomic; with_reducible repeat' first | exact .refl _ | apply MovesO.next | refine State.runDesc_moves _ _ _ _ _ (fun _ _ => ?_) (by decide) | (apply Moves.step; (first | apply State.fireTrigger_moves | apply State.remoteIssue_moves_fire); decide) | dsimp only

theorem execLaunch_moves (handle : BitVec 32) (s : State) : MovesO 0x1b3e70bfe s (execLaunch handle s) := by
  unfold execLaunch; with_reducible repeat' first | exact .refl _ | apply MovesO.next | refine MovesO.ite (fun _ => ?_) (fun _ => ?_) | refine State.runDesc_moves _ _ _ _ _ (fun _ _ => ?_) (by decide) | (apply Moves.step; (first | apply State.coreRun_moves | apply State.descDone_moves | apply State.setF_moves); decide) | refine Moves.ite (fun _ => ?_) (fun _ => ?_) | refine Moves.foldl _ _ (fun _ _ => ?_) ?_ | refine Moves.foldl₁ _ _ (fun _ _ => ?_) ?_ | dsimp only | extract_lets | split

theorem State.runMasked_moves {m : Nat} (s : State) (handle : BitVec 32) (opcode : Nat) (act : State → Desc → Nat → State)
    (ha : ∀ u d k, Moves m u (act u d k)) (hm : 0x1b3e70bfe &&& m = 0x1b3e70bfe) :
    MovesO m s (s.runMasked handle opcode act) := by
  have hs (d : Nat) : Moves m s (s.startDesc d) := (State.startDesc_moves ..).mono (sub_trans (by decide) hm)
  unfold State.runMasked
  split
  · exact .next (.refl s)
  · extract_lets s1
    refine .ite (fun _ => .next ?_) (fun _ => .next ?_)
    · exact (State.descDone_moves ..).step (sub_trans (by decide) hm) (hs _)
    · exact (State.afterWork_moves ..).step (sub_trans (by decide) hm)
        ((State.descDone_moves ..).step (sub_trans (by decide) hm) (.foldl _ _ (fun u k => ha _ _ _) (hs _)))

theorem execPosition_moves (handle : BitVec 32) (s : State) : MovesO 0x1b3e70bfe s (execPosition handle s) := by
  unfold execPosition; with_reducible repeat' first | exact .refl _ | apply MovesO.next | refine State.runMasked_moves _ _ _ _ (fun _ _ _ => ?_) (by decide) | (apply Moves.step; apply State.writePos_moves; decide) | dsimp only

theorem execDescStepReady_moves (handle : BitVec 32) (s : State) : MovesO 0x1b3e70bfe s (execDescStepReady handle s) := by
  unfold execDescStepReady; with_reducible repeat' first | exact .refl _ | apply MovesO.next | refine State.runMasked_moves _ _ _ _ (fun _ _ _ => ?_) (by decide) | (apply Moves.step; apply State.stepReady_moves; decide) | dsimp only

theorem execUpdate_moves (handle : BitVec 32) (s : State) : MovesO 0x1b3e70bfe s (execUpdate handle s) := by
  unfold execUpdate; with_reducible repeat' first | exact .refl _ | apply MovesO.next | refine State.runDesc_moves _ _ _ _ _ (fun _ _ => ?_) (by decide) | (apply Moves.step; (first | apply State.descDone_moves | apply State.requestUpdate_moves); decide) | dsimp only

theorem execExportDesc_moves (handle : BitVec 32) (s : State) : MovesO 0x1b3e70bfe s (execExportDesc handle s) := by
  unfold execExportDesc; with_reducible repeat' first | exact .refl _ | apply MovesO.next | refine MovesO.ite (fun _ => ?_) (fun _ => ?_) | refine State.runDesc_moves _ _ _ _ _ (fun _ _ => ?_) (by decide) | (apply Moves.step; (first | apply State.descDone_moves | apply State.setUpd_moves); decide) | refine Moves.ite (fun _ => ?_) (fun _ => ?_) | dsimp only | extract_lets | split

theorem execOrderRelease_moves (handle : BitVec 32) (s : State) : MovesO 0x2000000 s (execOrderRelease handle s) := by
  unfold execOrderRelease; with_reducible repeat' first | exact .refl _ | apply MovesO.next | refine MovesO.ite (fun _ => ?_) (fun _ => ?_) | (apply Moves.step; apply State.setHost_moves; decide) | refine Moves.ite (fun _ => ?_) (fun _ => ?_) | (apply Moves.fst; assumption) | (apply Moves.snd; assumption) | dsimp only | split

theorem State.spillTo_moves (s : State) (c : Completion) : Moves 0x11200037e s (State.spillTo s c) := by
  unfold State.spillTo; with_reducible repeat' first | exact .refl _ | (apply Moves.step; (first | apply State.post_moves | apply State.setSpill_moves); decide) | dsimp only | extract_lets | split

theorem State.placeCompletion_moves {s t : State} {c : Completion} (h : s.placeCompletion c = some t) :
    Moves 0x11200037e s t := by
  have hfree (u : State) : Moves 0x11200037e u (if c.kind = 0 then u.freeHandle c.uid else u) :=
    .ite (fun _ => (State.freeHandle_moves ..).mono (by decide)) (fun _ => .refl _)
  unfold State.placeCompletion at h
  dsimp only at h
  split at h
  · injection h with h; subst h
    exact (hfree _).step (by decide) ((State.writeCompletion_moves ..).mono (by decide))
  · split at h
    · injection h with h; subst h
      exact (hfree _).step (by decide) ((State.spillTo_moves ..).mono (by decide))
    · split at h
      · cases h
      · injection h with h; subst h
        exact (State.setRing_moves ..).step (by decide) ((State.satF_moves ..).mono (by decide))

theorem State.postFirst_moves (s : State) (before after : List Completion) :
    Moves 0x11200037e s (s.postFirst before after) := by
  induction after generalizing before with
  | nil => exact .refl s
  | cons c after ih =>
    unfold State.postFirst
    split
    · rename_i t h
      exact (State.setHost_moves ..).step (by decide) ((State.placeCompletion_moves h).mono (by decide))
    · exact ih _

theorem execCompletionPost_moves (s : State) : MovesO 0x11200037e s (execCompletionPost s) := by
  unfold execCompletionPost; with_reducible repeat' first | exact .refl _ | apply MovesO.next | (apply Moves.step; apply State.postFirst_moves; decide) | dsimp only

theorem execSpillDrain_moves (r : Fin 64) (s : State) : MovesO 0x11200027e s (execSpillDrain r s) := by
  unfold execSpillDrain; with_reducible repeat' first | exact .refl _ | apply MovesO.next | refine MovesO.ite (fun _ => ?_) (fun _ => ?_) | (apply Moves.step; (first | apply State.look_moves | apply State.setSpill_moves | apply State.writeCompletion_moves); decide) | refine Moves.ite (fun _ => ?_) (fun _ => ?_) | (apply Moves.fst; assumption) | (apply Moves.snd; assumption) | dsimp only | extract_lets | split

theorem execSpillLoss_moves (s : State) : MovesO 0x11200037e s (execSpillLoss s) := by
  unfold execSpillLoss; with_reducible repeat' first | exact .refl _ | apply MovesO.next | refine MovesO.ite (fun _ => ?_) (fun _ => ?_) | (apply Moves.step; (first | apply State.setRing_moves | apply State.spillTo_moves); decide) | refine Moves.ite (fun _ => ?_) (fun _ => ?_) | refine Moves.foldl _ _ (fun _ _ => ?_) ?_ | refine Moves.foldl₁ _ _ (fun _ _ => ?_) ?_ | dsimp only | extract_lets | split

theorem execMsiModTimeout_moves (r : Fin 64) (s : State) : MovesO 0x2000005 s (execMsiModTimeout r s) := by
  unfold execMsiModTimeout; with_reducible repeat' first | exact .refl _ | apply MovesO.next | refine MovesO.ite (fun _ => ?_) (fun _ => ?_) | (apply Moves.step; (first | apply State.signalRing_moves | apply State.timeTo_moves); decide) | refine Moves.ite (fun _ => ?_) (fun _ => ?_) | dsimp only | extract_lets | split

theorem State.handleClearHw_moves (s : State) : Moves 0x8 s (State.handleClearHw s) := by
  unfold State.handleClearHw; with_reducible repeat' first | exact .refl _ | (apply Moves.step; apply State.setF_moves; decide) | dsimp only

theorem execHandleClearHw_moves (s : State) : MovesO 0x8 s (execHandleClearHw s) := by
  unfold execHandleClearHw; with_reducible repeat' first | exact .refl _ | apply MovesO.next | (apply Moves.step; apply State.handleClearHw_moves; decide) | dsimp only

theorem execHdmAccess_moves (line : Fin 12884901888) (kind : Fin 4) (data : List Byte) (pois : Bool) (s : State) : MovesO 0x11200037e s (execHdmAccess line kind data pois s) := by
  unfold execHdmAccess; with_reducible repeat' first | exact .refl _ | apply MovesO.next | refine MovesO.ite (fun _ => ?_) (fun _ => ?_) | (apply Moves.step; (first | apply State.hdmAccess_moves | (apply State.hdmPerform_moves; assumption)); decide) | refine Moves.ite (fun _ => ?_) (fun _ => ?_) | dsimp only | split

theorem execBisnpComplete_moves (line : Fin 12884901888) (data : List Byte) (pois : Bool) (s : State) : MovesO 0x1b3e70bfe s (execBisnpComplete line data pois s) := by
  unfold execBisnpComplete; with_reducible repeat' first | exact .refl _ | apply MovesO.next | refine MovesO.ite (fun _ => ?_) (fun _ => ?_) | (apply Moves.step; (first | apply State.addF_moves | apply State.releaseAll_moves | apply State.setHost_moves | apply State.setSnoop_moves | apply State.takeLine_moves); decide) | refine Moves.ite (fun _ => ?_) (fun _ => ?_) | (apply Moves.fst; assumption) | (apply Moves.snd; assumption) | dsimp only | extract_lets | split

theorem execHostRequestCompletion_moves (ring : Option (Fin 64)) (d : Fin 4) (id : Fin 4096) (result : Fin 4) (data : List Byte) (marks : List Bool) (s : State) : MovesO 0x1b3e70bfe s (execHostRequestCompletion ring d id result data marks s) := by
  unfold execHostRequestCompletion; with_reducible repeat' first | exact .refl _ | apply MovesO.next | refine MovesO.ite (fun _ => ?_) (fun _ => ?_) | (apply Moves.step; (first | apply State.addF_moves | apply State.dropLateHost_moves | apply State.hostResult_moves | apply State.landData_moves | apply State.releaseAll_moves | apply State.ringError_moves); decide) | refine Moves.ite (fun _ => ?_) (fun _ => ?_) | (apply Moves.fst; assumption) | (apply Moves.snd; assumption) | dsimp only | extract_lets | split

end Sys2Proof.Machine
end

