-- ==== Sys2Proof/Laws/MovesMassif.lean ====
section
/-!
SUPPORT. What each definition of Machine/Massif.lean may change: one Moves lemma each.
-/
set_option Elab.async false
set_option linter.all false

namespace Sys2Proof.Machine

open Sys2Proof

theorem execTrailheadWaitExpiry_moves (s : State) : MovesO 0x10000d s (execTrailheadWaitExpiry s) := by
  unfold execTrailheadWaitExpiry; with_reducible repeat' first | exact .refl _ | apply MovesO.next | refine MovesO.ite (fun _ => ?_) (fun _ => ?_) | (apply Moves.step; (first | apply State.becomeCandidate_moves | apply State.setF_moves | apply State.timeTo_moves); decide) | refine Moves.ite (fun _ => ?_) (fun _ => ?_) | dsimp only | extract_lets | split

theorem execElectTick_moves (s : State) : MovesO 0x100005 s (execElectTick s) := by
  unfold execElectTick; with_reducible repeat' first | exact .refl _ | apply MovesO.next | refine MovesO.ite (fun _ => ?_) (fun _ => ?_) | (apply Moves.step; (first | apply State.sendElect_moves | apply State.setFabric_moves | apply State.timeTo_moves); decide) | refine Moves.ite (fun _ => ?_) (fun _ => ?_) | dsimp only | extract_lets | split

theorem execElect_moves (device : Fin 10240) (serial term : Nat) (s : State) : MovesO 0x100008 s (execElect device serial term s) := by
  unfold execElect; with_reducible repeat' first | exact .refl _ | apply MovesO.next | refine MovesO.ite (fun _ => ?_) (fun _ => ?_) | (apply Moves.step; (first | apply State.setF_moves | apply State.setFabric_moves | apply State.setRole_moves); decide) | refine Moves.ite (fun _ => ?_) (fun _ => ?_) | dsimp only | extract_lets | split

theorem execElectQuietExpiry_moves (s : State) : MovesO 0x1f3ff8bff s (execElectQuietExpiry s) := by
  unfold execElectQuietExpiry; with_reducible repeat' first | exact .refl _ | apply MovesO.next | refine MovesO.ite (fun _ => ?_) (fun _ => ?_) | (apply Moves.step; (first | apply State.electSelf_moves | apply State.setF_moves | apply State.timeTo_moves); decide) | refine Moves.ite (fun _ => ?_) (fun _ => ?_) | dsimp only | extract_lets | split

theorem execJoin_moves (device : Fin 10240) (dims term version : Nat) (evidence : List Byte) (s : State) : MovesO 0x1f3ff8bfe s (execJoin device dims term version evidence s) := by
  unfold execJoin; with_reducible repeat' first | exact .refl _ | apply MovesO.next | refine MovesO.ite (fun _ => ?_) (fun _ => ?_) | (apply Moves.step; (first | apply State.driveJobs_moves | apply State.mgmt_moves | apply State.publishMap_moves | apply State.publishMembers_moves); decide) | refine Moves.ite (fun _ => ?_) (fun _ => ?_) | dsimp only | extract_lets | split

theorem execAdmitReply_moves (cause : Fin 4) (s : State) : MovesO 0x4015800c s (execAdmitReply cause s) := by
  unfold execAdmitReply; with_reducible repeat' first | exact .refl _ | apply MovesO.next | refine MovesO.ite (fun _ => ?_) (fun _ => ?_) | (apply Moves.step; (first | apply State.changeJob_moves | apply State.setContour_moves | apply State.setF_moves | apply State.setFabric_moves | apply State.setRole_moves); decide) | refine Moves.ite (fun _ => ?_) (fun _ => ?_) | dsimp only | extract_lets | split

theorem execJoinRetry_moves (s : State) : MovesO 0x8100009 s (execJoinRetry s) := by
  unfold execJoinRetry; with_reducible repeat' first | exact .refl _ | apply MovesO.next | refine MovesO.ite (fun _ => ?_) (fun _ => ?_) | (apply Moves.step; (first | apply State.startJoin_moves | apply State.timeTo_moves); decide) | refine Moves.ite (fun _ => ?_) (fun _ => ?_) | (apply Moves.fst; assumption) | (apply Moves.snd; assumption) | dsimp only | split

theorem execHeartbeatTick_moves (s : State) : MovesO 0x108005 s (execHeartbeatTick s) := by
  unfold execHeartbeatTick; with_reducible repeat' first | exact .refl _ | apply MovesO.next | refine MovesO.ite (fun _ => ?_) (fun _ => ?_) | (apply Moves.step; (first | apply State.mgmt_moves | apply State.sendReport_moves | apply State.sendState_moves | apply State.setFabric_moves | apply State.timeTo_moves); decide) | refine Moves.ite (fun _ => ?_) (fun _ => ?_) | dsimp only | extract_lets | split

theorem State.memberBeat_moves (s : State) (term summit standby version gen : Nat) : Moves 0x10800c s (State.memberBeat s term summit standby version gen) := by
  unfold State.memberBeat; with_reducible repeat' first | exact .refl _ | (apply Moves.step; (first | apply State.followSummit_moves | apply State.mgmt_moves | apply State.satF_moves | apply State.sendReport_moves | apply State.sendState_moves); decide) | refine Moves.ite (fun _ => ?_) (fun _ => ?_) | dsimp only | extract_lets | split

theorem execHeartbeat_moves (term : Fin 65536) (summit standby : Fin 16384) (version gen : Nat) (s : State) : MovesO 0x810800c s (execHeartbeat term summit standby version gen s) := by
  unfold execHeartbeat; with_reducible repeat' first | exact .refl _ | apply MovesO.next | refine MovesO.ite (fun _ => ?_) (fun _ => ?_) | (apply Moves.step; (first | apply State.aloneAgain_moves | apply State.followSummit_moves | apply State.memberBeat_moves | apply State.noteTerm_moves | apply State.setFabric_moves | apply State.startJoin_moves); decide) | refine Moves.ite (fun _ => ?_) (fun _ => ?_) | (apply Moves.fst; assumption) | (apply Moves.snd; assumption) | dsimp only | extract_lets | split

theorem execStandbyTakeover_moves (s : State) : MovesO 0x1f3ff8bff s (execStandbyTakeover s) := by
  unfold execStandbyTakeover; with_reducible repeat' first | exact .refl _ | apply MovesO.next | refine MovesO.ite (fun _ => ?_) (fun _ => ?_) | (apply Moves.step; (first | apply State.takeOver_moves | apply State.timeTo_moves); decide) | refine Moves.ite (fun _ => ?_) (fun _ => ?_) | dsimp only | split

theorem execMemberSilenceTimeout_moves (s : State) : MovesO 0x10000d s (execMemberSilenceTimeout s) := by
  unfold execMemberSilenceTimeout; with_reducible repeat' first | exact .refl _ | apply MovesO.next | refine MovesO.ite (fun _ => ?_) (fun _ => ?_) | (apply Moves.step; (first | apply State.becomeCandidate_moves | apply State.timeTo_moves); decide) | refine Moves.ite (fun _ => ?_) (fun _ => ?_) | dsimp only | extract_lets | split

theorem execPresent_moves (device : Fin 10240) (s : State) : MovesO 0x100000 s (execPresent device s) := by
  unfold execPresent; with_reducible repeat' first | exact .refl _ | apply MovesO.next | refine MovesO.ite (fun _ => ?_) (fun _ => ?_) | (apply Moves.step; apply State.setFabric_moves; decide) | refine Moves.ite (fun _ => ?_) (fun _ => ?_) | dsimp only | split

theorem execMemberTimeout_moves (device : Fin 10240) (s : State) : MovesO 0x1f3ff8bff s (execMemberTimeout device s) := by
  unfold execMemberTimeout; with_reducible repeat' first | exact .refl _ | apply MovesO.next | refine MovesO.ite (fun _ => ?_) (fun _ => ?_) | (apply Moves.step; (first | apply State.depart_moves | apply State.driveJobs_moves | apply State.timeTo_moves); decide) | refine Moves.ite (fun _ => ?_) (fun _ => ?_) | (apply Moves.fst; assumption) | (apply Moves.snd; assumption) | dsimp only | split

theorem State.memberAdopt_moves (s : State) (term version summit standby : Nat) (list : List Member) : Moves 0x1f3f78bfe s (State.memberAdopt s term version summit standby list) := by
  unfold State.memberAdopt; with_reducible repeat' first | exact .refl _ | (apply Moves.step; (first | apply State.adoptMembers_moves | apply State.noteTerm_moves | apply State.satF_moves); decide) | refine Moves.ite (fun _ => ?_) (fun _ => ?_) | dsimp only | split

theorem execMembership_moves (term : Fin 65536) (version : Nat) (summit standby : Fin 16384) (ms : List (Nat × Nat × Nat)) (s : State) : MovesO 0x1f3f78bfe s (execMembership term version summit standby ms s) := by
  unfold execMembership; with_reducible repeat' first | exact .refl _ | apply MovesO.next | refine MovesO.ite (fun _ => ?_) (fun _ => ?_) | (apply Moves.step; (first | apply State.aloneAgain_moves | apply State.memberAdopt_moves | apply State.noteTerm_moves | apply State.tryCandidate_moves); decide) | refine Moves.ite (fun _ => ?_) (fun _ => ?_) | (apply Moves.fst; assumption) | (apply Moves.snd; assumption) | dsimp only | extract_lets | split

theorem execSync_moves (device : Fin 10240) (s : State) : MovesO 0x4 s (execSync device s) := by
  unfold execSync; with_reducible repeat' first | exact .refl _ | apply MovesO.next | refine MovesO.ite (fun _ => ?_) (fun _ => ?_) | (apply Moves.step; (first | apply State.sendMap_moves | apply State.sendMembers_moves); decide) | refine Moves.ite (fun _ => ?_) (fun _ => ?_) | dsimp only | split

theorem execLeave_moves (device : Fin 10240) (s : State) : MovesO 0x1f3ff8bfe s (execLeave device s) := by
  unfold execLeave; with_reducible repeat' first | exact .refl _ | apply MovesO.next | refine MovesO.ite (fun _ => ?_) (fun _ => ?_) | (apply Moves.step; (first | apply State.depart_moves | apply State.driveJobs_moves); decide) | refine Moves.ite (fun _ => ?_) (fun _ => ?_) | dsimp only | split

theorem execPartitionReceive_moves (assign : List (Nat × Nat)) (s : State) : MovesO 0x1f3ff8bfe s (execPartitionReceive assign s) := by
  unfold execPartitionReceive; with_reducible repeat' first | exact .refl _ | apply MovesO.next | refine MovesO.ite (fun _ => ?_) (fun _ => ?_) | (apply Moves.step; (first | apply State.driveJobs_moves | apply State.publishMembers_moves | apply State.setFabric_moves); decide) | refine Moves.ite (fun _ => ?_) (fun _ => ?_) | (apply Moves.fst; assumption) | (apply Moves.snd; assumption) | dsimp only | extract_lets | split

end Sys2Proof.Machine
end

