-- ==== Sys2Proof/Laws/MovesPackage.lean ====
section
/-!
SUPPORT. What each definition of Machine/Package.lean may change: one Moves lemma each.
-/
set_option Elab.async false
set_option linter.all false

namespace Sys2Proof.Machine

open Sys2Proof

theorem execSaddleFlit_moves (l : Fin 4) (e : Fin 2) (width sel : Fin 4) (data : List Byte) (errs : List SymErr) (dst : Option (BitVec 48)) (s : State) : MovesO 0x1000103a s (execSaddleFlit l e width sel data errs dst s) := by
  unfold execSaddleFlit; with_reducible repeat' first | exact .refl _ | apply MovesO.next | refine MovesO.ite (fun _ => ?_) (fun _ => ?_) | (apply Moves.step; (first | apply State.deliverFlit_moves | apply State.holdFlit_moves | apply State.satF_moves | apply State.trainLink_moves); decide) | refine Moves.ite (fun _ => ?_) (fun _ => ?_) | dsimp only | extract_lets | split

theorem execSaddleTrainingDone_moves (l : Fin 4) (failed : List (Fin 16)) (s : State) : MovesO 0x1f7f7bffe s (execSaddleTrainingDone l failed s) := by
  unfold execSaddleTrainingDone; with_reducible repeat' first | exact .refl _ | apply MovesO.next | refine MovesO.ite (fun _ => ?_) (fun _ => ?_) | (apply Moves.step; (first | apply State.gateIsolate_moves | apply State.noteHealth_moves | apply State.reconnect_moves | apply State.releaseAll_moves | apply State.repath_moves | apply State.resendFlits_moves | apply State.satF_moves | apply State.setF_moves | apply State.setSaddle_moves | apply State.trainShells_moves | apply State.tryFatal_moves); decide) | refine Moves.ite (fun _ => ?_) (fun _ => ?_) | (apply Moves.fst; assumption) | (apply Moves.snd; assumption) | dsimp only | extract_lets | split

theorem State.setCol_moves (s : State) (d : Nat) (x : ColLink) : Moves 0x2000 s (State.setCol s d x) := by
  unfold State.setCol; with_reducible repeat' first | exact .refl _ | (apply Moves.ofF; dsimp only; refine MovesF.upd ?_) | dsimp only

theorem execColFlit_moves (d : Fin 4) (up : Bool) (offered : List (Fin 4 × List Byte)) (flips : List (Fin 512)) (s : State) : MovesO 0x2008 s (execColFlit d up offered flips s) := by
  unfold execColFlit; with_reducible repeat' first | exact .refl _ | apply MovesO.next | refine MovesO.ite (fun _ => ?_) (fun _ => ?_) | (apply Moves.step; (first | apply State.satF_moves | apply State.setCol_moves | apply State.setF_moves); decide) | refine Moves.ite (fun _ => ?_) (fun _ => ?_) | (apply Moves.fst; assumption) | (apply Moves.snd; assumption) | dsimp only | extract_lets | split

theorem execColRetrainTimeout_moves (d : Fin 4) (s : State) : MovesO 0x1f7f7bffe s (execColRetrainTimeout d s) := by
  unfold execColRetrainTimeout; with_reducible repeat' first | exact .refl _ | apply MovesO.next | refine MovesO.ite (fun _ => ?_) (fun _ => ?_) | (apply Moves.step; (first | apply State.gateFence_moves | apply State.setF_moves); decide) | refine Moves.ite (fun _ => ?_) (fun _ => ?_) | dsimp only | split

theorem execColLinkTrained_moves (d : Fin 4) (s : State) : MovesO 0x4000408 s (execColLinkTrained d s) := by
  unfold execColLinkTrained; with_reducible repeat' first | exact .refl _ | apply MovesO.next | refine MovesO.ite (fun _ => ?_) (fun _ => ?_) | (apply Moves.step; (first | apply State.clearCause_moves | apply State.setF_moves | apply State.trainShells_moves); decide) | refine Moves.ite (fun _ => ?_) (fun _ => ?_) | dsimp only | split

theorem State.rejoinCmd_moves (s : State) (dies : Nat) : Moves 0x8 s (State.rejoinCmd s dies) := by
  unfold State.rejoinCmd; with_reducible repeat' first | exact .refl _ | (apply Moves.step; apply State.setF_moves; decide) | refine Moves.ite (fun _ => ?_) (fun _ => ?_) | refine Moves.foldl _ _ (fun _ _ => ?_) ?_ | refine Moves.foldl₁ _ _ (fun _ _ => ?_) ?_ | dsimp only | extract_lets | split

theorem execRejoin_moves (dies : Fin 16) (s : State) : MovesO 0x8 s (execRejoin dies s) := by
  unfold execRejoin; with_reducible repeat' first | exact .refl _ | apply MovesO.next | (apply Moves.step; apply State.rejoinCmd_moves; decide) | dsimp only

theorem execClockStableExpiry_moves (d : Fin 4) (s : State) : MovesO 0x4000008 s (execClockStableExpiry d s) := by
  unfold execClockStableExpiry; with_reducible repeat' first | exact .refl _ | apply MovesO.next | refine MovesO.ite (fun _ => ?_) (fun _ => ?_) | (apply Moves.step; apply State.clearCause_moves; decide) | refine Moves.ite (fun _ => ?_) (fun _ => ?_) | dsimp only | split

theorem execDieStartupDone_moves (d : Fin 4) (s : State) : MovesO 0x100000408 s (execDieStartupDone d s) := by
  unfold execDieStartupDone; with_reducible repeat' first | exact .refl _ | apply MovesO.next | refine MovesO.ite (fun _ => ?_) (fun _ => ?_) | (apply Moves.step; (first | apply State.noteHealth_moves | apply State.setF_moves | apply State.trainLink_moves | apply State.trainShells_moves); decide) | refine Moves.ite (fun _ => ?_) (fun _ => ?_) | refine Moves.foldl _ _ (fun _ _ => ?_) ?_ | refine Moves.foldl₁ _ _ (fun _ _ => ?_) ?_ | dsimp only | extract_lets | split

theorem execDieRestoreComplete_moves (d : Fin 4) (refused : List (Fin 3)) (s : State) : MovesO 0x1b7f7bffe s (execDieRestoreComplete d refused s) := by
  unfold execDieRestoreComplete; with_reducible repeat' first | exact .refl _ | apply MovesO.next | refine MovesO.ite (fun _ => ?_) (fun _ => ?_) | (apply Moves.step; (first | apply State.isolate_moves | apply State.lapseEntries_moves | apply State.noteHealth_moves | apply State.reconnect_moves | apply State.rejoinEnter_moves | apply State.rejoinWork_moves | apply State.releaseAll_moves | apply State.repath_moves | apply State.sendState_moves | apply State.trainPort_moves); decide) | refine Moves.ite (fun _ => ?_) (fun _ => ?_) | refine Moves.foldl _ _ (fun _ _ => ?_) ?_ | refine Moves.foldl₁ _ _ (fun _ _ => ?_) ?_ | dsimp only | extract_lets | split

theorem execPathHoldRelease_moves (a b : Fin 4) (s : State) : MovesO 0x1b3e70bfe s (execPathHoldRelease a b s) := by
  unfold execPathHoldRelease; with_reducible repeat' first | exact .refl _ | apply MovesO.next | refine MovesO.ite (fun _ => ?_) (fun _ => ?_) | (apply Moves.step; apply State.releaseAll_moves; decide) | refine Moves.ite (fun _ => ?_) (fun _ => ?_) | (apply Moves.ofF; dsimp only; refine MovesF.upd ?_) | dsimp only | extract_lets | split

theorem execMctpControl_moves (other : Bool) (code : Fin 256) (s : State) : MovesO 0x4 s (execMctpControl other code s) := by
  unfold execMctpControl; with_reducible repeat' first | exact .refl _ | apply MovesO.next | refine MovesO.ite (fun _ => ?_) (fun _ => ?_) | (apply Moves.step; apply State.sideband_moves; decide) | refine Moves.ite (fun _ => ?_) (fun _ => ?_) | dsimp only | split

theorem execPldmMonitor_moves (s : State) : MovesO 0x100000004 s (execPldmMonitor s) := by
  unfold execPldmMonitor; with_reducible repeat' first | exact .refl _ | apply MovesO.next | refine MovesO.ite (fun _ => ?_) (fun _ => ?_) | (apply Moves.step; (first | apply State.noteHealth_moves | apply State.setPins_moves | apply State.sideband_moves); decide) | refine Moves.ite (fun _ => ?_) (fun _ => ?_) | dsimp only | extract_lets | split

theorem execPldmFirmwareUpdate_moves (manifest complete ok : Bool) (campSvn crestSvn : Fin 256) (campDigest crestDigest : Nat) (campBuild : Fin 4294967296) (records : List ManifestRecord) (s : State) : MovesO 0x8000004 s (execPldmFirmwareUpdate manifest complete ok campSvn crestSvn campDigest crestDigest campBuild records s) := by
  unfold execPldmFirmwareUpdate; with_reducible repeat' first | exact .refl _ | apply MovesO.next | refine MovesO.ite (fun _ => ?_) (fun _ => ?_) | (apply Moves.step; (first | apply State.setSec_moves | apply State.sideband_moves); decide) | refine Moves.ite (fun _ => ?_) (fun _ => ?_) | dsimp only | extract_lets | split

end Sys2Proof.Machine
end

