-- ==== Sys2Proof/Laws/MovesPinsCmd.lean ====
section
/-!
SUPPORT. What each definition of Machine/PinsCmd.lean may change: one Moves lemma each.
-/
set_option Elab.async false
set_option linter.all false

namespace Sys2Proof.Machine

open Sys2Proof

theorem State.loadExtest_moves (s : State) (code : Nat) : Moves 0x1fffffffc s (State.loadExtest s code) := by
  unfold State.loadExtest; with_reducible repeat' first | exact .refl _ | (apply Moves.step; (first | apply State.beginPackageReset_moves | apply State.setPins_moves); decide) | refine Moves.ite (fun _ => ?_) (fun _ => ?_) | dsimp only | extract_lets | split

theorem State.loadOther_moves (s : State) (code : Nat) (b : BootInputs) : Moves 0x1bff7bffe s (State.loadOther s code b) := by
  unfold State.loadOther; with_reducible repeat' first | exact .refl _ | (apply Moves.step; (first | apply State.completeReset_moves | apply State.setPins_moves); decide) | refine Moves.ite (fun _ => ?_) (fun _ => ?_) | dsimp only | extract_lets | split

theorem execExtest_moves (s : State) : MovesO 0x1fffffffc s (execExtest s) := by
  unfold execExtest; with_reducible repeat' first | exact .refl _ | apply MovesO.next | (apply Moves.step; apply State.loadExtest_moves; decide) | dsimp only

theorem execExtestPulse_moves (s : State) : MovesO 0x1fffffffc s (execExtestPulse s) := by
  unfold execExtestPulse; with_reducible repeat' first | exact .refl _ | apply MovesO.next | (apply Moves.step; apply State.loadExtest_moves; decide) | dsimp only

theorem execExtestTrain_moves (s : State) : MovesO 0x1fffffffc s (execExtestTrain s) := by
  unfold execExtestTrain; with_reducible repeat' first | exact .refl _ | apply MovesO.next | (apply Moves.step; apply State.loadExtest_moves; decide) | dsimp only

theorem State.tapOut_moves (s : State) (fields : List Nat) : Moves 0x4 s (State.tapOut s fields) := by
  unfold State.tapOut; with_reducible repeat' first | exact .refl _ | (apply Moves.step; apply State.emit_moves; decide) | refine Moves.ite (fun _ => ?_) (fun _ => ?_) | dsimp only | split

theorem execSamplePreload_moves (b : BootInputs) (s : State) : MovesO 0x1bff7bffe s (execSamplePreload b s) := by
  unfold execSamplePreload; with_reducible repeat' first | exact .refl _ | apply MovesO.next | (apply Moves.step; (first | apply State.loadOther_moves | apply State.tapOut_moves); decide) | dsimp only

theorem execIdcode_moves (b : BootInputs) (s : State) : MovesO 0x1bff7bffe s (execIdcode b s) := by
  unfold execIdcode; with_reducible repeat' first | exact .refl _ | apply MovesO.next | (apply Moves.step; (first | apply State.loadOther_moves | apply State.tapOut_moves); decide) | dsimp only

theorem execBypass_moves (code : Fin 256) (b : BootInputs) (s : State) : MovesO 0x1bff7bffe s (execBypass code b s) := by
  unfold execBypass; with_reducible repeat' first | exact .refl _ | apply MovesO.next | refine MovesO.ite (fun _ => ?_) (fun _ => ?_) | (apply Moves.step; (first | apply State.loadOther_moves | apply State.tapOut_moves); decide) | refine Moves.ite (fun _ => ?_) (fun _ => ?_) | dsimp only | extract_lets | split

theorem execTrst_moves (b : BootInputs) (s : State) : MovesO 0x1bff7bffe s (execTrst b s) := by
  unfold execTrst; with_reducible repeat' first | exact .refl _ | apply MovesO.next | (apply Moves.step; apply State.loadOther_moves; decide) | dsimp only

end Sys2Proof.Machine
end

