-- ==== Sys2Proof/Laws/MovesPowerCmd.lean ====
section
/-!
SUPPORT. What each definition of Machine/PowerCmd.lean may change: one Moves lemma each.
-/
set_option Elab.async false
set_option linter.all false

namespace Sys2Proof.Machine

open Sys2Proof

theorem State.warn_moves (s : State) (record : Bool) : Moves 0x10000048 s (State.warn s record) := by
  unfold State.warn; with_reducible repeat' first | exact .refl _ | (apply Moves.step; (first | apply State.raise_moves | apply State.refreshDuty_moves | apply State.satF_moves | apply State.setF_moves); decide) | refine Moves.ite (fun _ => ?_) (fun _ => ?_) | dsimp only | extract_lets | split

theorem State.noteInput_moves (s : State) (mv : Nat) : Moves 0x180000008 s (State.noteInput s mv) := by
  unfold State.noteInput; with_reducible repeat' first | exact .refl _ | (apply Moves.step; (first | apply State.setF_moves | apply State.setPins_moves | apply State.setPower_moves); decide) | refine Moves.ite (fun _ => ?_) (fun _ => ?_) | (apply Moves.fst; assumption) | (apply Moves.snd; assumption) | dsimp only | extract_lets | split

theorem State.lowInput_moves (s : State) (mv : Nat) : Moves 0x110000002 s (State.lowInput s mv) := by
  unfold State.lowInput; with_reducible repeat' first | exact .refl _ | (apply Moves.step; (first | apply State.setErr_moves | apply State.setPins_moves | apply State.takeFree_moves); decide) | refine Moves.ite (fun _ => ?_) (fun _ => ?_) | (apply Moves.fst; assumption) | (apply Moves.snd; assumption) | dsimp only | extract_lets | split

theorem execInputSample_moves (mv : Fin 65536) (s : State) : MovesO 0x19000004e s (execInputSample mv s) := by
  unfold execInputSample; with_reducible repeat' first | exact .refl _ | apply MovesO.next | refine MovesO.ite (fun _ => ?_) (fun _ => ?_) | (apply Moves.step; (first | apply State.lowInput_moves | apply State.noteInput_moves | apply State.refreshDuty_moves | apply State.setF_moves | apply State.setPower_moves | apply State.shutdown_moves | apply State.warn_moves); decide) | refine Moves.ite (fun _ => ?_) (fun _ => ?_) | dsimp only | extract_lets | split

theorem execHoldExpiry_moves (s : State) : MovesO 0x80000049 s (execHoldExpiry s) := by
  unfold execHoldExpiry; with_reducible repeat' first | exact .refl _ | apply MovesO.next | refine MovesO.ite (fun _ => ?_) (fun _ => ?_) | (apply Moves.step; (first | apply State.refreshDuty_moves | apply State.setF_moves | apply State.setPower_moves | apply State.tickTo_moves); decide) | refine Moves.ite (fun _ => ?_) (fun _ => ?_) | dsimp only | extract_lets | split

theorem execRampExpiry_moves (s : State) : MovesO 0x49 s (execRampExpiry s) := by
  unfold execRampExpiry; with_reducible repeat' first | exact .refl _ | apply MovesO.next | refine MovesO.ite (fun _ => ?_) (fun _ => ?_) | (apply Moves.step; (first | apply State.refreshDuty_moves | apply State.setF_moves | apply State.tickTo_moves); decide) | refine Moves.ite (fun _ => ?_) (fun _ => ?_) | dsimp only | split

theorem State.isolateConverter_moves (s : State) (k : Nat) : Moves 0x19000004c s (State.isolateConverter s k) := by
  unfold State.isolateConverter; with_reducible repeat' first | exact .refl _ | (apply Moves.step; (first | apply State.applyProfile_moves | apply State.raise_moves | apply State.refreshDuty_moves | apply State.setF_moves | apply State.setPower_moves | apply State.shutdown_moves); decide) | refine Moves.ite (fun _ => ?_) (fun _ => ?_) | dsimp only | extract_lets | split

theorem execConverter_moves (k : Fin 8) (s : State) : MovesO 0x19000004c s (execConverter k s) := by
  unfold execConverter; with_reducible repeat' first | exact .refl _ | apply MovesO.next | (apply Moves.step; apply State.isolateConverter_moves; decide) | dsimp only

theorem execStage2Fault_moves (unit : Fin 17) (s : State) : MovesO 0x1f7f7bffe s (execStage2Fault unit s) := by
  unfold execStage2Fault; with_reducible repeat' first | exact .refl _ | apply MovesO.next | refine MovesO.ite (fun _ => ?_) (fun _ => ?_) | (apply Moves.step; (first | apply State.gateFence_moves | apply State.packageFatal_moves); decide) | refine Moves.ite (fun _ => ?_) (fun _ => ?_) | dsimp only | split

theorem State.capStep_moves (s : State) : Moves 0x80000048 s (State.capStep s) := by
  unfold State.capStep; with_reducible repeat' first | exact .refl _ | (apply Moves.step; (first | apply State.capNow_moves | apply State.setF_moves | apply State.setPower_moves); decide) | refine Moves.ite (fun _ => ?_) (fun _ => ?_) | dsimp only | extract_lets | split

theorem execTelemetryTick_moves (watts amps : Fin 65536) (s : State) : MovesO 0x180000048 s (execTelemetryTick watts amps s) := by
  unfold execTelemetryTick; with_reducible repeat' first | exact .refl _ | apply MovesO.next | refine MovesO.ite (fun _ => ?_) (fun _ => ?_) | (apply Moves.step; (first | apply State.addF_moves | apply State.capStep_moves | apply State.convStep_moves | apply State.noteHealth_moves | apply State.refreshDuty_moves | apply State.satF_moves | apply State.setF_moves | apply State.setPower_moves); decide) | refine Moves.ite (fun _ => ?_) (fun _ => ?_) | refine Moves.foldl _ _ (fun _ _ => ?_) ?_ | refine Moves.foldl₁ _ _ (fun _ _ => ?_) ?_ | dsimp only | extract_lets | split

theorem State.excludeSensor_moves (s : State) (d i : Nat) : Moves 0x90000008 s (State.excludeSensor s d i) := by
  unfold State.excludeSensor; with_reducible repeat' first | exact .refl _ | (apply Moves.step; (first | apply State.raise_moves | apply State.setF_moves | apply State.setPower_moves); decide) | refine Moves.ite (fun _ => ?_) (fun _ => ?_) | dsimp only | extract_lets | split

theorem State.checkSensors_moves (s : State) (d : Nat) : Moves 0x90000008 s (State.checkSensors s d) := by
  unfold State.checkSensors; with_reducible repeat' first | exact .refl _ | (apply Moves.step; (first | apply State.excludeSensor_moves | apply State.setPower_moves); decide) | refine Moves.ite (fun _ => ?_) (fun _ => ?_) | refine Moves.foldl _ _ (fun _ _ => ?_) ?_ | refine Moves.foldl₁ _ _ (fun _ _ => ?_) ?_ | dsimp only | extract_lets | split

theorem State.thermalStep_moves (s : State) : Moves 0x1b1f384fc s (State.thermalStep s) := by
  unfold State.thermalStep; with_reducible repeat' first | exact .refl _ | (apply Moves.step; (first | apply State.paceDie_moves | apply State.refreshDuty_moves | apply State.setF_moves | apply State.setPower_moves | apply State.trip_moves); decide) | refine Moves.ite (fun _ => ?_) (fun _ => ?_) | refine Moves.foldl _ _ (fun _ _ => ?_) ?_ | refine Moves.foldl₁ _ _ (fun _ _ => ?_) ?_ | (apply Moves.fst; assumption) | (apply Moves.snd; assumption) | dsimp only | extract_lets | split

theorem State.startCooled_moves (s : State) : Moves 0x1bff7bffe s (State.startCooled s) := by
  unfold State.startCooled; with_reducible repeat' first | exact .refl _ | (apply Moves.step; apply State.startCrest_moves; decide) | refine Moves.ite (fun _ => ?_) (fun _ => ?_) | dsimp only | split

theorem execSensorRead_moves (temps : List (Fin 256)) (s : State) : MovesO 0x1bff7bffe s (execSensorRead temps s) := by
  unfold execSensorRead; with_reducible repeat' first | exact .refl _ | apply MovesO.next | (apply Moves.step; (first | apply State.checkSensors_moves | apply State.setPower_moves | apply State.startCooled_moves | apply State.thermalStep_moves); decide) | refine Moves.foldl _ _ (fun _ _ => ?_) ?_ | refine Moves.foldl₁ _ _ (fun _ _ => ?_) ?_ | dsimp only | extract_lets | split

theorem execStackTempUpdate_moves (t : Fin 12) (temp : Fin 256) (s : State) : MovesO 0x1bff7bffe s (execStackTempUpdate t temp s) := by
  unfold execStackTempUpdate; with_reducible repeat' first | exact .refl _ | apply MovesO.next | (apply Moves.step; (first | apply State.setPower_moves | apply State.setStkF_moves | apply State.startCooled_moves | apply State.thermalStep_moves); decide) | dsimp only | extract_lets | split

theorem execPacingRelease_moves (d : Fin 4) (s : State) : MovesO 0x80000049 s (execPacingRelease d s) := by
  unfold execPacingRelease; with_reducible repeat' first | exact .refl _ | apply MovesO.next | refine MovesO.ite (fun _ => ?_) (fun _ => ?_) | (apply Moves.step; (first | apply State.paceDie_moves | apply State.refreshDuty_moves | apply State.setPower_moves | apply State.tickTo_moves); decide) | refine Moves.ite (fun _ => ?_) (fun _ => ?_) | dsimp only | extract_lets | split

theorem execThermalForced_moves (s : State) : MovesO 0x90000049 s (execThermalForced s) := by
  unfold execThermalForced; with_reducible repeat' first | exact .refl _ | apply MovesO.next | refine MovesO.ite (fun _ => ?_) (fun _ => ?_) | (apply Moves.step; (first | apply State.applyProfile_moves | apply State.raise_moves | apply State.satF_moves | apply State.setF_moves | apply State.tickTo_moves); decide) | refine Moves.ite (fun _ => ?_) (fun _ => ?_) | refine Moves.foldl _ _ (fun _ _ => ?_) ?_ | refine Moves.foldl₁ _ _ (fun _ _ => ?_) ?_ | (apply Moves.fst; assumption) | (apply Moves.snd; assumption) | dsimp only | extract_lets | split

theorem execThermalForceClear_moves (s : State) : MovesO 0x80000009 s (execThermalForceClear s) := by
  unfold execThermalForceClear; with_reducible repeat' first | exact .refl _ | apply MovesO.next | refine MovesO.ite (fun _ => ?_) (fun _ => ?_) | (apply Moves.step; (first | apply State.setF_moves | apply State.setPower_moves | apply State.tickTo_moves); decide) | refine Moves.ite (fun _ => ?_) (fun _ => ?_) | (apply Moves.fst; assumption) | (apply Moves.snd; assumption) | dsimp only | split

theorem execClusterResume_moves (d : Fin 4) (c : Fin 8) (s : State) : MovesO 0x80000001 s (execClusterResume d c s) := by
  unfold execClusterResume; with_reducible repeat' first | exact .refl _ | apply MovesO.next | refine MovesO.ite (fun _ => ?_) (fun _ => ?_) | (apply Moves.step; (first | apply State.setPower_moves | apply State.tickTo_moves); decide) | refine Moves.ite (fun _ => ?_) (fun _ => ?_) | dsimp only | extract_lets | split

end Sys2Proof.Machine
end

