-- ==== Sys2Proof/Laws/MovesResets.lean ====
section
/-!
SUPPORT. What each definition of Machine/Resets.lean may change: one Moves lemma each.
-/
set_option Elab.async false
set_option linter.all false

namespace Sys2Proof.Machine

open Sys2Proof

theorem execPowerOnReset_moves (b : BootInputs) (s : State) : MovesO 0x1ffffffff s (execPowerOnReset b s) := by
  unfold execPowerOnReset; with_reducible repeat' first | exact .refl _ | apply MovesO.next | refine MovesO.ite (fun _ => ?_) (fun _ => ?_) | (apply Moves.step; (first | apply State.completeReset_moves | apply State.resetParts_moves | apply State.setF_moves | apply State.setPins_moves | apply State.setPower_moves | apply State.tickTo_moves); decide) | refine Moves.ite (fun _ => ?_) (fun _ => ?_) | dsimp only | extract_lets | split

theorem execPerstAssert_moves (s : State) : MovesO 0x1fffffffc s (execPerstAssert s) := by
  unfold execPerstAssert; with_reducible repeat' first | exact .refl _ | apply MovesO.next | refine MovesO.ite (fun _ => ?_) (fun _ => ?_) | (apply Moves.step; (first | apply State.beginPackageReset_moves | apply State.setPins_moves); decide) | refine Moves.ite (fun _ => ?_) (fun _ => ?_) | dsimp only | extract_lets | split

theorem execPerstRelease_moves (b : BootInputs) (s : State) : MovesO 0x1bff7bffe s (execPerstRelease b s) := by
  unfold execPerstRelease; with_reducible repeat' first | exact .refl _ | apply MovesO.next | refine MovesO.ite (fun _ => ?_) (fun _ => ?_) | (apply Moves.step; (first | apply State.completeReset_moves | apply State.setPins_moves); decide) | refine Moves.ite (fun _ => ?_) (fun _ => ?_) | dsimp only | extract_lets | split

theorem execCxlConventionalReset_moves (b : BootInputs) (s : State) : MovesO 0x1fffffffe s (execCxlConventionalReset b s) := by
  unfold execCxlConventionalReset; with_reducible repeat' first | exact .refl _ | apply MovesO.next | refine MovesO.ite (fun _ => ?_) (fun _ => ?_) | (apply Moves.step; apply State.packageReset_moves; decide) | refine Moves.ite (fun _ => ?_) (fun _ => ?_) | dsimp only | split

theorem execSysRefclkLoss_moves (s : State) : MovesO 0x190000004 s (execSysRefclkLoss s) := by
  unfold execSysRefclkLoss; with_reducible repeat' first | exact .refl _ | apply MovesO.next | (apply Moves.step; (first | apply State.packageFatal_moves | apply State.setPins_moves); decide) | dsimp only

theorem execRdgRefclkLoss_moves (s : State) : MovesO 0x100100408 s (execRdgRefclkLoss s) := by
  unfold execRdgRefclkLoss; with_reducible repeat' first | exact .refl _ | apply MovesO.next | refine MovesO.ite (fun _ => ?_) (fun _ => ?_) | (apply Moves.step; apply State.retrain_moves; decide) | refine Moves.ite (fun _ => ?_) (fun _ => ?_) | refine Moves.foldl _ _ (fun _ _ => ?_) ?_ | refine Moves.foldl₁ _ _ (fun _ _ => ?_) ?_ | dsimp only | split

theorem execCxlRefclkLoss_moves (s : State) : MovesO 0x1b3e70bfe s (execCxlRefclkLoss s) := by
  unfold execCxlRefclkLoss; with_reducible repeat' first | exact .refl _ | apply MovesO.next | (apply Moves.step; apply State.cxlDown_moves; decide) | dsimp only

theorem State.actHeldResets_moves (s : State) : Moves 0x1f7f7bffe s (State.actHeldResets s) := by
  unfold State.actHeldResets; with_reducible repeat' first | exact .refl _ | (apply Moves.step; (first | apply State.doHeldReset_moves | apply State.setLow_moves); decide) | refine Moves.foldl _ _ (fun _ _ => ?_) ?_ | refine Moves.foldl₁ _ _ (fun _ _ => ?_) ?_ | dsimp only

theorem State.bivouacCmd_moves (s : State) : Moves 0x40000008 s (State.bivouacCmd s) := by
  unfold State.bivouacCmd; with_reducible repeat' first | exact .refl _ | (apply Moves.step; (first | apply State.setF_moves | apply State.setLow_moves); decide) | refine Moves.ite (fun _ => ?_) (fun _ => ?_) | dsimp only | split

theorem execBivouac_moves (s : State) : MovesO 0x40000008 s (execBivouac s) := by
  unfold execBivouac; with_reducible repeat' first | exact .refl _ | apply MovesO.next | (apply Moves.step; apply State.bivouacCmd_moves; decide) | dsimp only

theorem execBivouacEntryDone_moves (s : State) : MovesO 0x408 s (execBivouacEntryDone s) := by
  unfold execBivouacEntryDone; with_reducible repeat' first | exact .refl _ | apply MovesO.next | refine MovesO.ite (fun _ => ?_) (fun _ => ?_) | (apply Moves.step; (first | apply State.refreshStacks_moves | apply State.satF_moves | apply State.setF_moves | apply State.wakeByEntry_moves | apply State.wakeByOrder_moves); decide) | refine Moves.ite (fun _ => ?_) (fun _ => ?_) | dsimp only | extract_lets | split

theorem State.wakeCmd_moves (s : State) : Moves 0x1f3e78bfe s (State.wakeCmd s) := by
  unfold State.wakeCmd; with_reducible repeat' first | exact .refl _ | (apply Moves.step; (first | apply State.setF_moves | apply State.wake_moves); decide) | refine Moves.ite (fun _ => ?_) (fun _ => ?_) | dsimp only | split

theorem execWake_moves (s : State) : MovesO 0x1f3e78bfe s (execWake s) := by
  unfold execWake; with_reducible repeat' first | exact .refl _ | apply MovesO.next | (apply Moves.step; apply State.wakeCmd_moves; decide) | dsimp only

theorem execBivouacExitDone_moves (refused : List (Fin 12)) (s : State) : MovesO 0x1f7f7bffe s (execBivouacExitDone refused s) := by
  unfold execBivouacExitDone; with_reducible repeat' first | exact .refl _ | apply MovesO.next | refine MovesO.ite (fun _ => ?_) (fun _ => ?_) | (apply Moves.step; (first | apply State.actHeldResets_moves | apply State.leaveRefresh_moves | apply State.releaseAll_moves | apply State.setF_moves | apply State.takeOrders_moves); decide) | refine Moves.ite (fun _ => ?_) (fun _ => ?_) | refine Moves.foldl _ _ (fun _ _ => ?_) ?_ | refine Moves.foldl₁ _ _ (fun _ _ => ?_) ?_ | dsimp only | extract_lets | split

theorem State.refugeCmd_moves (s : State) : Moves 0x8 s (State.refugeCmd s) := by
  unfold State.refugeCmd; with_reducible repeat' first | exact .refl _ | (apply Moves.step; apply State.setF_moves; decide) | refine Moves.ite (fun _ => ?_) (fun _ => ?_) | dsimp only | split

theorem execRefuge_moves (s : State) : MovesO 0x8 s (execRefuge s) := by
  unfold execRefuge; with_reducible repeat' first | exact .refl _ | apply MovesO.next | (apply Moves.step; apply State.refugeCmd_moves; decide) | dsimp only

theorem execRefugeEntryDone_moves (s : State) : MovesO 0x41f384fc s (execRefugeEntryDone s) := by
  unfold execRefugeEntryDone; with_reducible repeat' first | exact .refl _ | apply MovesO.next | refine MovesO.ite (fun _ => ?_) (fun _ => ?_) | (apply Moves.step; (first | apply State.aloneAgain_moves | apply State.powerOffCrest_moves | apply State.refreshStacks_moves | apply State.satF_moves | apply State.saveShells_moves | apply State.sendLeave_moves | apply State.setF_moves | apply State.setLow_moves); decide) | refine Moves.ite (fun _ => ?_) (fun _ => ?_) | dsimp only | extract_lets | split

theorem State.restoreImage_moves (s : State) : Moves 0x40000008 s s.restoreImage := by
  unfold State.restoreImage
  have h0 (rs : KMap Word) (lp : LowPower) (hr : kRising 0 s.regs = true → kRising 0 rs = true) :
      Moves 0x40000008 s { s with regs := rs, low := lp } := by
    have h : Moves 0x40000008 s { s with regs := rs } :=
      (Moves.refl s).special (Nat.le_refl _) (Nat.le_refl _) List.prefix_rfl hr id
        (.inl rfl) (.inl rfl) (.inl rfl) (.inr (by decide)) (.inl rfl)
    exact .ofF (.upd (t := { s with regs := rs }) h)
  refine h0 _ _ (fun h => kRising_foldl _ _ (fun u x hu => ?_) (kRising_filter _ h))
  split
  · exact kRising_kset hu
  · exact hu

theorem State.retrainShell_moves (s : State) (x : Nat × Nat) : Moves 0x408 s (State.retrainShell s x) := by
  unfold State.retrainShell; with_reducible repeat' first | exact .refl _ | (apply Moves.step; (first | apply State.setF_moves | apply State.shellTrain_moves | apply State.trainLink_moves); decide) | (apply Moves.fst; assumption) | (apply Moves.snd; assumption) | dsimp only | split

theorem execRefugeResumeDone_moves (refused : List (Fin 12)) (shells : List (Fin 9 × Fin 64)) (s : State) : MovesO 0x1f7f7bffe s (execRefugeResumeDone refused shells s) := by
  unfold execRefugeResumeDone; with_reducible repeat' first | exact .refl _ | apply MovesO.next | refine MovesO.ite (fun _ => ?_) (fun _ => ?_) | (apply Moves.step; (first | apply State.actHeldResets_moves | apply State.aloneAnew_moves | apply State.leaveRefresh_moves | apply State.refuseShells_moves | apply State.releaseAll_moves | apply State.resetRefugeRegs_moves | apply State.restoreImage_moves | apply State.restoreShells_moves | apply State.retrainShell_moves | apply State.setF_moves | apply State.trainPort_moves); decide) | refine Moves.ite (fun _ => ?_) (fun _ => ?_) | refine Moves.foldl _ _ (fun _ _ => ?_) ?_ | refine Moves.foldl₁ _ _ (fun _ _ => ?_) ?_ | dsimp only | extract_lets | split

theorem execFunctionReset_moves (s : State) : MovesO 0x1f3e78bfe s (execFunctionReset s) := by
  unfold execFunctionReset
  exact .ite (fun _ => .next (.refl s)) (fun _ => .next (State.gateReset_moves _ _ _ (fun u => (State.functionReset_moves u).mono (by decide)) (by decide)))

theorem execDieReset_moves (dies : Fin 16) (s : State) : MovesO 0x1f7f7bffe s (execDieReset dies s) := by
  unfold execDieReset; with_reducible repeat' first | exact .refl _ | apply MovesO.next | refine State.gateReset_moves _ _ _ (fun _ => ?_) (by decide) | refine Moves.step (State.gateReset_moves (m := 0x1f7f7bffe) _ _ _ (fun _ => ?_) (by decide)) (by decide) ?_ | (apply Moves.step; apply State.dieReset_moves; decide) | dsimp only

theorem execPortReset_moves (p : Fin 16) (s : State) : MovesO 0x1f3f78bfe s (execPortReset p s) := by
  unfold execPortReset; with_reducible repeat' first | exact .refl _ | apply MovesO.next | refine State.gateReset_moves _ _ _ (fun _ => ?_) (by decide) | refine Moves.step (State.gateReset_moves (m := 0x1f3f78bfe) _ _ _ (fun _ => ?_) (by decide)) (by decide) ?_ | (apply Moves.step; apply State.portReset_moves; decide) | dsimp only

theorem execClockLoss_moves (d : Fin 4) (s : State) : MovesO 0x1f7f7bffe s (execClockLoss d s) := by
  unfold execClockLoss; with_reducible repeat' first | exact .refl _ | apply MovesO.next | (apply Moves.step; apply State.gateFence_moves; decide) | dsimp only

theorem execFatalDie_moves (d : Fin 4) (s : State) : MovesO 0x1f7f7bffe s (execFatalDie d s) := by
  unfold execFatalDie; with_reducible repeat' first | exact .refl _ | apply MovesO.next | (apply Moves.step; apply State.gateFence_moves; decide) | dsimp only

theorem State.retireCmd_moves (s : State) (t : Nat) : Moves 0x1b3e70bfe s (State.retireCmd s t) := by
  unfold State.retireCmd; with_reducible repeat' first | exact .refl _ | (apply Moves.step; (first | apply State.releaseAll_moves | apply State.retireStack_moves); decide) | refine Moves.ite (fun _ => ?_) (fun _ => ?_) | dsimp only | split

theorem execRetire_moves (t : Fin 12) (s : State) : MovesO 0x1b3e70bfe s (execRetire t s) := by
  unfold execRetire; with_reducible repeat' first | exact .refl _ | apply MovesO.next | (apply Moves.step; apply State.retireCmd_moves; decide) | dsimp only

theorem execStackTrainingComplete_moves (t : Fin 12) (pass : Bool) (wires : List (Fin 320)) (s : State) : MovesO 0x1b3e70ffe s (execStackTrainingComplete t pass wires s) := by
  unfold execStackTrainingComplete; with_reducible repeat' first | exact .refl _ | apply MovesO.next | refine MovesO.ite (fun _ => ?_) (fun _ => ?_) | (apply Moves.step; (first | apply State.markDead_moves | apply State.releaseAll_moves | apply State.retireStack_moves | apply State.shellTrain_moves | apply State.stackActive_moves); decide) | refine Moves.ite (fun _ => ?_) (fun _ => ?_) | refine Moves.foldl _ _ (fun _ _ => ?_) ?_ | refine Moves.foldl₁ _ _ (fun _ _ => ?_) ?_ | dsimp only | extract_lets | split

end Sys2Proof.Machine
end

