-- ==== Sys2Proof/Laws/MovesRidge.lean ====
section
/-!
SUPPORT. What each definition of Machine/Ridge.lean may change: one Moves lemma each.
-/
set_option Elab.async false
set_option linter.all false

namespace Sys2Proof.Machine

open Sys2Proof

theorem State.setLanes_moves (s : State) (p : Nat) (lanes : List Nat) (margins : Word) : Moves 0x100008 s (State.setLanes s p lanes margins) := by
  unfold State.setLanes; with_reducible repeat' first | exact .refl _ | (apply Moves.step; (first | apply State.setPort_moves | apply State.setPortF_moves | apply State.setReg_moves); decide) | dsimp only

theorem execPortTrained_moves (p : Fin 16) (lanes : Fin 16) (margins : Word) (s : State) : MovesO 0x810040a s (execPortTrained p lanes margins s) := by
  unfold execPortTrained; with_reducible repeat' first | exact .refl _ | apply MovesO.next | refine MovesO.ite (fun _ => ?_) (fun _ => ?_) | (apply Moves.step; (first | apply State.saveShells_moves | apply State.setLanes_moves | apply State.setPort_moves | apply State.setPortF_moves | apply State.takeFree_moves | apply State.trainShells_moves | apply State.wantSign_moves); decide) | refine Moves.ite (fun _ => ?_) (fun _ => ?_) | (apply Moves.fst; assumption) | (apply Moves.snd; assumption) | dsimp only | extract_lets | split

theorem State.takeFlit_moves (s : State) (p : Nat) (f : Flit) (payload : List Byte) : Moves 0x10010040c s (State.takeFlit s p f payload) := by
  unfold State.takeFlit; with_reducible repeat' first | exact .refl _ | (apply Moves.step; (first | apply State.acceptFlit_moves | apply State.giveAllCredits_moves | apply State.pumpAll_moves | apply State.setFabric_moves | apply State.setPort_moves | apply State.takeAck_moves | apply State.takeNak_moves); decide) | refine Moves.ite (fun _ => ?_) (fun _ => ?_) | dsimp only | extract_lets | split

theorem execRidgeFlit_moves (p : Fin 16) (raw : List Byte) (fec : Nat) (uncorrectable : Bool) (s : State) : MovesO 0x10010040c s (execRidgeFlit p raw fec uncorrectable s) := by
  unfold execRidgeFlit; with_reducible repeat' first | exact .refl _ | apply MovesO.next | refine MovesO.ite (fun _ => ?_) (fun _ => ?_) | (apply Moves.step; (first | apply State.addF_moves | apply State.satF_moves | apply State.sendNak_moves | apply State.takeFlit_moves); decide) | refine Moves.ite (fun _ => ?_) (fun _ => ?_) | (apply Moves.fst; assumption) | (apply Moves.snd; assumption) | dsimp only | extract_lets | split

theorem execNak_moves (p : Fin 16) (seq : Fin 4096) (s : State) : MovesO 0x10010040c s (execNak p seq s) := by
  unfold execNak; with_reducible repeat' first | exact .refl _ | apply MovesO.next | refine MovesO.ite (fun _ => ?_) (fun _ => ?_) | (apply Moves.step; apply State.takeNak_moves; decide) | refine Moves.ite (fun _ => ?_) (fun _ => ?_) | dsimp only | split

theorem execLaneLockLoss_moves (p : Fin 16) (_lane : Fin 4) (s : State) : MovesO 0x100100408 s (execLaneLockLoss p _lane s) := by
  unfold execLaneLockLoss; with_reducible repeat' first | exact .refl _ | apply MovesO.next | refine MovesO.ite (fun _ => ?_) (fun _ => ?_) | (apply Moves.step; apply State.retrain_moves; decide) | refine Moves.ite (fun _ => ?_) (fun _ => ?_) | dsimp only | split

theorem execRetrainDone_moves (p : Fin 16) (lanes : Fin 16) (margins : Word) (s : State) : MovesO 0x2010040c s (execRetrainDone p lanes margins s) := by
  unfold execRetrainDone; with_reducible repeat' first | exact .refl _ | apply MovesO.next | refine MovesO.ite (fun _ => ?_) (fun _ => ?_) | (apply Moves.step; (first | apply State.giveAllCredits_moves | apply State.linkTell_moves | apply State.pumpAll_moves | apply State.pushPacket_moves | apply State.replay_moves | apply State.saveShells_moves | apply State.setLanes_moves | apply State.setPort_moves | apply State.setPortF_moves | apply State.setTest_moves | apply State.trainShells_moves); decide) | refine Moves.ite (fun _ => ?_) (fun _ => ?_) | refine Moves.foldl _ _ (fun _ _ => ?_) ?_ | refine Moves.foldl₁ _ _ (fun _ _ => ?_) ?_ | (apply Moves.fst; assumption) | (apply Moves.snd; assumption) | dsimp only | extract_lets | split

theorem execRetrainTimeout_moves (p : Fin 16) (s : State) : MovesO 0x10010000d s (execRetrainTimeout p s) := by
  unfold execRetrainTimeout; with_reducible repeat' first | exact .refl _ | apply MovesO.next | refine MovesO.ite (fun _ => ?_) (fun _ => ?_) | (apply Moves.step; (first | apply State.failPort_moves | apply State.timeTo_moves); decide) | refine Moves.ite (fun _ => ?_) (fun _ => ?_) | dsimp only | split

theorem State.portClear_moves (s : State) (p : Nat) : Moves 0x8 s (State.portClear s p) := by
  unfold State.portClear; with_reducible repeat' first | exact .refl _ | (apply Moves.step; apply State.setReg_moves; decide) | refine Moves.ite (fun _ => ?_) (fun _ => ?_) | dsimp only | split

theorem execPortClearCounts_moves (p : Fin 16) (s : State) : MovesO 0x8 s (execPortClearCounts p s) := by
  unfold execPortClearCounts; with_reducible repeat' first | exact .refl _ | apply MovesO.next | (apply Moves.step; apply State.portClear_moves; decide) | dsimp only

theorem execFlowReturn_moves (p : Fin 16) (s : State) : MovesO 0x100004 s (execFlowReturn p s) := by
  unfold execFlowReturn; with_reducible repeat' first | exact .refl _ | apply MovesO.next | refine MovesO.ite (fun _ => ?_) (fun _ => ?_) | (apply Moves.step; (first | apply State.flowsReturn_moves | apply State.giveAllCredits_moves); decide) | refine Moves.ite (fun _ => ?_) (fun _ => ?_) | dsimp only | split

theorem execPacketForward_moves (d : Fin 4) (from_ : Option (Fin 16)) (k : Packet) (s : State) : MovesO 0x10000c s (execPacketForward d from_ k s) := by
  unfold execPacketForward; with_reducible repeat' first | exact .refl _ | apply MovesO.next | refine MovesO.ite (fun _ => ?_) (fun _ => ?_) | (apply Moves.step; (first | apply State.forward_moves | apply State.giveAllCredits_moves | apply State.setPort_moves); decide) | refine Moves.ite (fun _ => ?_) (fun _ => ?_) | (apply Moves.fst; assumption) | (apply Moves.snd; assumption) | dsimp only | extract_lets | split

theorem execTrailhead_moves (p : Fin 16) (body : List Byte) (delay : Nat) (s : State) : MovesO 0x10810000c s (execTrailhead p body delay s) := by
  unfold execTrailhead; with_reducible repeat' first | exact .refl _ | apply MovesO.next | refine MovesO.ite (fun _ => ?_) (fun _ => ?_) | (apply Moves.step; (first | apply State.failPort_moves | apply State.setFabric_moves | apply State.setPort_moves | apply State.tryRaise_moves | apply State.wantSign_moves); decide) | refine Moves.ite (fun _ => ?_) (fun _ => ?_) | dsimp only | extract_lets | split

theorem execLinkReportReceive_moves (device : Fin 10240) (dir : Fin 6) (dead : Bool) (s : State) : MovesO 0x1f3ff8bfe s (execLinkReportReceive device dir dead s) := by
  unfold execLinkReportReceive; with_reducible repeat' first | exact .refl _ | apply MovesO.next | refine MovesO.ite (fun _ => ?_) (fun _ => ?_) | (apply Moves.step; (first | apply State.driveJobs_moves | apply State.fitMap_moves | apply State.publishMap_moves | apply State.publishMembers_moves | apply State.setFabric_moves); decide) | refine Moves.ite (fun _ => ?_) (fun _ => ?_) | dsimp only | extract_lets | split

theorem execLinkMap_moves (term gen : Nat) (admitted : List Nat) (dead : List (Nat × Nat × Nat × Nat)) (s : State) : MovesO 0x100008 s (execLinkMap term gen admitted dead s) := by
  unfold execLinkMap; with_reducible repeat' first | exact .refl _ | apply MovesO.next | refine MovesO.ite (fun _ => ?_) (fun _ => ?_) | (apply Moves.step; (first | apply State.installGen_moves | apply State.noteTerm_moves | apply State.satF_moves); decide) | refine Moves.ite (fun _ => ?_) (fun _ => ?_) | dsimp only | split

theorem execTrailSignSwitch_moves (d : Fin 4) (dst : Fin 10240) (s : State) : MovesO 0x100000 s (execTrailSignSwitch d dst s) := by
  unfold execTrailSignSwitch; with_reducible repeat' first | exact .refl _ | apply MovesO.next | refine MovesO.ite (fun _ => ?_) (fun _ => ?_) | (apply Moves.step; apply State.setFabric_moves; decide) | refine Moves.ite (fun _ => ?_) (fun _ => ?_) | dsimp only | split

theorem State.castOn_moves (s : State) (dir skip n op : Nat) (fields : List Nat) : Moves 0x4 s (State.castOn s dir skip n op fields) := by
  unfold State.castOn; with_reducible repeat' first | exact .refl _ | (apply Moves.step; apply State.emit_moves; decide) | refine Moves.ite (fun _ => ?_) (fun _ => ?_) | dsimp only | split

theorem State.castDim_moves (s : State) (dim op : Nat) (fields : List Nat) : Moves 0x4 s (State.castDim s dim op fields) := by
  unfold State.castDim; with_reducible repeat' first | exact .refl _ | (apply Moves.step; apply State.castOn_moves; decide) | dsimp only | extract_lets | split

theorem execBroadcastForward_moves (from_ : Option (Fin 16)) (skip left op : Nat) (fields : List Nat) (delay : Nat) (s : State) : MovesO 0x4 s (execBroadcastForward from_ skip left op fields delay s) := by
  unfold execBroadcastForward; with_reducible repeat' first | exact .refl _ | apply MovesO.next | refine MovesO.ite (fun _ => ?_) (fun _ => ?_) | (apply Moves.step; (first | apply State.castDim_moves | apply State.castOn_moves); decide) | refine Moves.ite (fun _ => ?_) (fun _ => ?_) | (apply Moves.fst; assumption) | (apply Moves.snd; assumption) | dsimp only | extract_lets | split

end Sys2Proof.Machine
end

