-- ==== Sys2Proof/Laws/MovesSecurity.lean ====
section
/-!
SUPPORT. What each definition of Machine/Security.lean may change: one Moves lemma each.
-/
set_option Elab.async false
set_option linter.all false

namespace Sys2Proof.Machine

open Sys2Proof

theorem State.reserveIndex_moves (s : State) (j : SignJob) : Moves 0x8000008 s (State.reserveIndex s j) := by
  unfold State.reserveIndex; with_reducible repeat' first | exact .refl _ | (apply Moves.step; (first | apply State.setF_moves | apply State.setSec_moves); decide) | refine Moves.ite (fun _ => ?_) (fun _ => ?_) | dsimp only | extract_lets | split

theorem execSignRequest_moves (s : State) : MovesO 0x8000008 s (execSignRequest s) := by
  unfold execSignRequest; with_reducible repeat' first | exact .refl _ | apply MovesO.next | refine MovesO.ite (fun _ => ?_) (fun _ => ?_) | (apply Moves.step; (first | apply State.reserveIndex_moves | apply State.setSec_moves); decide) | refine Moves.ite (fun _ => ?_) (fun _ => ?_) | (apply Moves.fst; assumption) | (apply Moves.snd; assumption) | dsimp only | extract_lets | split

theorem execSignRateRelease_moves (s : State) : MovesO 0x8000008 s (execSignRateRelease s) := by
  unfold execSignRateRelease; with_reducible repeat' first | exact .refl _ | apply MovesO.next | refine MovesO.ite (fun _ => ?_) (fun _ => ?_) | (apply Moves.step; (first | apply State.reserveIndex_moves | apply State.setSec_moves); decide) | refine Moves.ite (fun _ => ?_) (fun _ => ?_) | (apply Moves.fst; assumption) | (apply Moves.snd; assumption) | dsimp only | extract_lets | split

theorem State.sendSigned_moves (s : State) (i : Nat) (j : SignJob) : Moves 0x4 s (State.sendSigned s i j) := by
  unfold State.sendSigned; with_reducible repeat' first | exact .refl _ | (apply Moves.step; (first | apply State.emit_moves | apply State.mgmt_moves | apply State.mgmtPort_moves); decide) | refine Moves.ite (fun _ => ?_) (fun _ => ?_) | (apply Moves.fst; assumption) | (apply Moves.snd; assumption) | dsimp only | extract_lets | split

theorem execIndexReserved_moves (s : State) : MovesO 0x8000004 s (execIndexReserved s) := by
  unfold execIndexReserved; with_reducible repeat' first | exact .refl _ | apply MovesO.next | refine MovesO.ite (fun _ => ?_) (fun _ => ?_) | (apply Moves.step; (first | apply State.sendSigned_moves | apply State.setSec_moves); decide) | refine Moves.ite (fun _ => ?_) (fun _ => ?_) | (apply Moves.fst; assumption) | (apply Moves.snd; assumption) | dsimp only | split

theorem execTreeBuildDone_moves (s : State) : MovesO 0x8000008 s (execTreeBuildDone s) := by
  unfold execTreeBuildDone; with_reducible repeat' first | exact .refl _ | apply MovesO.next | refine MovesO.ite (fun _ => ?_) (fun _ => ?_) | (apply Moves.step; (first | apply State.setF_moves | apply State.setSec_moves); decide) | refine Moves.ite (fun _ => ?_) (fun _ => ?_) | dsimp only | extract_lets | split

theorem execOperatorKeySet_moves (enrolLow : Bool) (msg : List Byte) (s : State) : MovesO 0x800000c s (execOperatorKeySet enrolLow msg s) := by
  unfold execOperatorKeySet; with_reducible repeat' first | exact .refl _ | apply MovesO.next | refine MovesO.ite (fun _ => ?_) (fun _ => ?_) | refine State.signedCommand_moves _ _ _ (fun _ _ => ?_) (by decide) | refine Moves.step (State.signedCommand_moves (m := 0x800000c) _ _ _ (fun _ _ => ?_) (by decide)) (by decide) ?_ | (apply Moves.step; (first | apply State.keepSeq_moves | apply State.measureRecords_moves | apply State.setSec_moves | apply State.sideband_moves); decide) | refine Moves.ite (fun _ => ?_) (fun _ => ?_) | (apply Moves.fst; assumption) | (apply Moves.snd; assumption) | dsimp only | extract_lets | split

theorem execPolicySet_moves (msg : List Byte) (s : State) : MovesO 0x800000c s (execPolicySet msg s) := by
  unfold execPolicySet; with_reducible repeat' first | exact .refl _ | apply MovesO.next | refine State.signedCommand_moves _ _ _ (fun _ _ => ?_) (by decide) | refine Moves.step (State.signedCommand_moves (m := 0x800000c) _ _ _ (fun _ _ => ?_) (by decide)) (by decide) ?_ | (apply Moves.step; (first | apply State.measureRecords_moves | apply State.setSec_moves); decide) | dsimp only

theorem execMassifPlanSet_moves (msg : List Byte) (s : State) : MovesO 0x800000c s (execMassifPlanSet msg s) := by
  unfold execMassifPlanSet; with_reducible repeat' first | exact .refl _ | apply MovesO.next | refine State.signedCommand_moves _ _ _ (fun _ _ => ?_) (by decide) | refine Moves.step (State.signedCommand_moves (m := 0x800000c) _ _ _ (fun _ _ => ?_) (by decide)) (by decide) ?_ | (apply Moves.step; (first | apply State.measureRecords_moves | apply State.setSec_moves); decide) | dsimp only

theorem execPartition_moves (msg : List Byte) (s : State) : MovesO 0x800000c s (execPartition msg s) := by
  unfold execPartition; with_reducible repeat' first | exact .refl _ | apply MovesO.next | refine MovesO.ite (fun _ => ?_) (fun _ => ?_) | refine State.signedCommand_moves _ _ _ (fun _ _ => ?_) (by decide) | refine Moves.step (State.signedCommand_moves (m := 0x800000c) _ _ _ (fun _ _ => ?_) (by decide)) (by decide) ?_ | (apply Moves.step; apply State.mgmt_moves; decide) | refine Moves.ite (fun _ => ?_) (fun _ => ?_) | dsimp only | split

theorem execPackageReset_moves (msg : List Byte) (b : BootInputs) (s : State) : MovesO 0x1fffffffe s (execPackageReset msg b s) := by
  unfold execPackageReset; with_reducible repeat' first | exact .refl _ | apply MovesO.next | refine MovesO.ite (fun _ => ?_) (fun _ => ?_) | refine State.signedCommand_moves _ _ _ (fun _ _ => ?_) (by decide) | refine Moves.step (State.signedCommand_moves (m := 0x1fffffffe) _ _ _ (fun _ _ => ?_) (by decide)) (by decide) ?_ | (apply Moves.step; apply State.packageReset_moves; decide) | refine Moves.ite (fun _ => ?_) (fun _ => ?_) | dsimp only | split

theorem execStateWake_moves (msg : List Byte) (s : State) : MovesO 0x1fbe78bfe s (execStateWake msg s) := by
  unfold execStateWake; with_reducible repeat' first | exact .refl _ | apply MovesO.next | refine State.signedCommand_moves _ _ _ (fun _ _ => ?_) (by decide) | refine Moves.step (State.signedCommand_moves (m := 0x1fbe78bfe) _ _ _ (fun _ _ => ?_) (by decide)) (by decide) ?_ | (apply Moves.step; apply State.wake_moves; decide) | dsimp only

theorem execAttest_moves (mctp : Bool) (msg : List Byte) (s : State) : MovesO 0x800000c s (execAttest mctp msg s) := by
  unfold execAttest; with_reducible repeat' first | exact .refl _ | apply MovesO.next | refine MovesO.ite (fun _ => ?_) (fun _ => ?_) | (apply Moves.step; (first | apply State.refuseCommand_moves | apply State.sideband_moves | apply State.wantSign_moves); decide) | refine Moves.ite (fun _ => ?_) (fun _ => ?_) | (apply Moves.fst; assumption) | (apply Moves.snd; assumption) | dsimp only | split

theorem State.installKey_moves (s : State) (p dir slot : Nat) (words : List Reg) (salt : Fld) (valid : Fld) : Moves 0x10010000c s (State.installKey s p dir slot words salt valid) := by
  unfold State.installKey; with_reducible repeat' first | exact .refl _ | (apply Moves.step; (first | apply State.setFabric_moves | apply State.setPortF_moves | apply State.tryRaise_moves); decide) | dsimp only | extract_lets | split

theorem State.installTx_moves (s : State) (p slot : Nat) : Moves 0x10010000c s (State.installTx s p slot) := by
  unfold State.installTx; with_reducible repeat' first | exact .refl _ | (apply Moves.step; (first | apply State.installKey_moves | apply State.setF_moves); decide) | refine Moves.ite (fun _ => ?_) (fun _ => ?_) | dsimp only | split

theorem State.installRx_moves (s : State) (p slot : Nat) : Moves 0x10010000c s (State.installRx s p slot) := by
  unfold State.installRx; with_reducible repeat' first | exact .refl _ | (apply Moves.step; apply State.installKey_moves; decide) | refine Moves.ite (fun _ => ?_) (fun _ => ?_) | dsimp only | split

theorem execInstallTx_moves (p : Fin 16) (slot : Fin 2) (s : State) : MovesO 0x10010000c s (execInstallTx p slot s) := by
  unfold execInstallTx; with_reducible repeat' first | exact .refl _ | apply MovesO.next | (apply Moves.step; apply State.installTx_moves; decide) | dsimp only

theorem execInstallRx_moves (p : Fin 16) (slot : Fin 2) (s : State) : MovesO 0x10010000c s (execInstallRx p slot s) := by
  unfold execInstallRx; with_reducible repeat' first | exact .refl _ | apply MovesO.next | (apply Moves.step; apply State.installRx_moves; decide) | dsimp only

end Sys2Proof.Machine
end

