-- ==== Sys2Proof/Laws/MovesSelftestCmd.lean ====
section
/-!
SUPPORT. What each definition of Machine/SelftestCmd.lean may change: one Moves lemma each.
-/
set_option Elab.async false
set_option linter.all false

namespace Sys2Proof.Machine

open Sys2Proof

theorem State.requestTest_moves (s : State) (t : Nat) : Moves 0x2000000c s (State.requestTest s t) := by
  unfold State.requestTest; with_reducible repeat' first | exact .refl _ | (apply Moves.step; (first | apply State.mgmt_moves | apply State.setF_moves | apply State.setTest_moves); decide) | dsimp only | extract_lets | split

theorem State.testCommand_moves (s : State) (t : Nat) : Moves 0x2000000c s (State.testCommand s t) := by
  unfold State.testCommand; with_reducible repeat' first | exact .refl _ | (apply Moves.step; (first | apply State.requestTest_moves | apply State.setF_moves); decide) | refine Moves.ite (fun _ => ?_) (fun _ => ?_) | dsimp only | split

theorem execRequest_moves (t : Fin 65536) (s : State) : MovesO 0x2000000c s (execRequest t s) := by
  unfold execRequest; with_reducible repeat' first | exact .refl _ | apply MovesO.next | (apply Moves.step; apply State.testCommand_moves; decide) | dsimp only

theorem execSelftestScheduleTick_moves (s : State) : MovesO 0x2000000d s (execSelftestScheduleTick s) := by
  unfold execSelftestScheduleTick; with_reducible repeat' first | exact .refl _ | apply MovesO.next | refine MovesO.ite (fun _ => ?_) (fun _ => ?_) | (apply Moves.step; (first | apply State.requestTest_moves | apply State.setTest_moves | apply State.timeTo_moves); decide) | refine Moves.ite (fun _ => ?_) (fun _ => ?_) | (apply Moves.fst; assumption) | (apply Moves.snd; assumption) | dsimp only | extract_lets | split

theorem execTestReq_moves (device : Fin 10240) (target : Fin 65536) (peer : Fin 16384) (blocked : Bool) (s : State) : MovesO 0x20000004 s (execTestReq device target peer blocked s) := by
  unfold execTestReq; with_reducible repeat' first | exact .refl _ | apply MovesO.next | refine MovesO.ite (fun _ => ?_) (fun _ => ?_) | (apply Moves.step; (first | apply State.mgmt_moves | apply State.setTest_moves); decide) | refine Moves.ite (fun _ => ?_) (fun _ => ?_) | dsimp only | extract_lets | split

theorem State.writeGrant_moves (s : State) (d target threshold : Nat) (entry : Option Nat) : Moves 0x1b2620bfe s (State.writeGrant s d target threshold entry) := by
  unfold State.writeGrant; with_reducible repeat' first | exact .refl _ | (apply Moves.step; (first | apply State.actEntry_moves | apply State.setReg_moves); decide) | refine Moves.ite (fun _ => ?_) (fun _ => ?_) | (apply Moves.fst; assumption) | (apply Moves.snd; assumption) | dsimp only | extract_lets | split

theorem execTestGrant_moves (device : Fin 10240) (target : Fin 65536) (refused : Option (Fin 4)) (threshold : Nat) (s : State) : MovesO 0x1b2620bfe s (execTestGrant device target refused threshold s) := by
  unfold execTestGrant; with_reducible repeat' first | exact .refl _ | apply MovesO.next | refine MovesO.ite (fun _ => ?_) (fun _ => ?_) | (apply Moves.step; (first | apply State.setF_moves | apply State.setTest_moves | apply State.writeGrant_moves); decide) | refine Moves.ite (fun _ => ?_) (fun _ => ?_) | (apply Moves.fst; assumption) | (apply Moves.snd; assumption) | dsimp only | extract_lets | split

theorem execTestReqRetry_moves (s : State) : MovesO 0x2000000d s (execTestReqRetry s) := by
  unfold execTestReqRetry; with_reducible repeat' first | exact .refl _ | apply MovesO.next | refine MovesO.ite (fun _ => ?_) (fun _ => ?_) | (apply Moves.step; (first | apply State.requestTest_moves | apply State.timeTo_moves); decide) | refine Moves.ite (fun _ => ?_) (fun _ => ?_) | (apply Moves.fst; assumption) | (apply Moves.snd; assumption) | dsimp only | split

theorem execTestHold_moves (p : Fin 16) (target : Fin 65536) (s : State) : MovesO 0x20000004 s (execTestHold p target s) := by
  unfold execTestHold; with_reducible repeat' first | exact .refl _ | apply MovesO.next | refine MovesO.ite (fun _ => ?_) (fun _ => ?_) | (apply Moves.step; (first | apply State.linkTell_moves | apply State.setTest_moves); decide) | refine Moves.ite (fun _ => ?_) (fun _ => ?_) | dsimp only | extract_lets | split

theorem kwf_foldl {m : List Host.Cell} {α : Type} (l : List α) (f : List Host.Cell → α → List Host.Cell)
    (hf : ∀ u x, kwf 0 u = true → kwf 0 (f u x) = true) (h : kwf 0 m = true) : kwf 0 (l.foldl f m) = true := by
  induction l generalizing m with
  | nil => exact h
  | cons x l ih => exact ih (hf m x h)

theorem State.copyRegion_moves (s : State) (a b n : Nat) : Moves 0x30 s (s.copyRegion a b n) := by
  unfold State.copyRegion
  extract_lets inR m p
  have h : Moves 0x30 s { s with mem := m } :=
    (Moves.refl s).special (Nat.le_refl _) (Nat.le_refl _) List.prefix_rfl id
      (fun h => kwf_foldl _ _ (fun _ _ hu => kwf_kset hu) (kwf_kfilter _ h))
      (.inl rfl) (.inl rfl) (.inl rfl) (.inl rfl) (.inr (by decide))
  exact .ofF (.upd (t := { s with mem := m }) h)

theorem execSelftestDrainDone_moves (s : State) : MovesO 0x20000430 s (execSelftestDrainDone s) := by
  unfold execSelftestDrainDone; with_reducible repeat' first | exact .refl _ | apply MovesO.next | refine MovesO.ite (fun _ => ?_) (fun _ => ?_) | (apply Moves.step; (first | apply State.copyRegion_moves | apply State.saveShells_moves | apply State.setTest_moves); decide) | refine Moves.ite (fun _ => ?_) (fun _ => ?_) | dsimp only | extract_lets | split

theorem State.returnPort_moves (s : State) (p : Nat) (bad : List Nat) : Moves 0x100100408 s (State.returnPort s p bad) := by
  unfold State.returnPort; with_reducible repeat' first | exact .refl _ | (apply Moves.step; (first | apply State.retrain_moves | apply State.setPort_moves); decide) | refine Moves.ite (fun _ => ?_) (fun _ => ?_) | dsimp only | extract_lets | split

theorem State.endHold_moves (s : State) (p : Nat) : Moves 0x120100408 s (State.endHold s p) := by
  unfold State.endHold; with_reducible repeat' first | exact .refl _ | (apply Moves.step; (first | apply State.returnPort_moves | apply State.setTest_moves); decide) | dsimp only

theorem State.returnTarget_moves (s : State) (t : Nat) (saved fail refused : Bool) (bad : List Nat) : Moves 0x19010167c s (State.returnTarget s t saved fail refused bad) := by
  unfold State.returnTarget; with_reducible repeat' first | exact .refl _ | (apply Moves.step; (first | apply State.copyRegion_moves | apply State.excludeSensor_moves | apply State.isolateConverter_moves | apply State.markDead_moves | apply State.returnPort_moves | apply State.setF_moves | apply State.setSaddle_moves | apply State.setStack_moves | apply State.stackActive_moves | apply State.trainLink_moves); decide) | refine Moves.ite (fun _ => ?_) (fun _ => ?_) | refine Moves.foldl _ _ (fun _ _ => ?_) ?_ | refine Moves.foldl₁ _ _ (fun _ _ => ?_) ?_ | (apply Moves.fst; assumption) | (apply Moves.snd; assumption) | dsimp only | extract_lets | split

theorem State.closeSlot_moves (s : State) (result margin ratio : Nat) (fail refused : Bool) (bad : List Nat) : Moves 0x1b3f71ffe s (State.closeSlot s result margin ratio fail refused bad) := by
  unfold State.closeSlot; with_reducible repeat' first | exact .refl _ | (apply Moves.step; (first | apply State.endTest_moves | apply State.refuseShells_moves | apply State.releaseAll_moves | apply State.restoreShells_moves | apply State.returnTarget_moves); decide) | refine Moves.ite (fun _ => ?_) (fun _ => ?_) | dsimp only | extract_lets | split

theorem execSelftestTestDone_moves (readings : List TestReading) (refused : Bool) (s : State) : MovesO 0x1b3f71ffe s (execSelftestTestDone readings refused s) := by
  unfold execSelftestTestDone; with_reducible repeat' first | exact .refl _ | apply MovesO.next | refine MovesO.ite (fun _ => ?_) (fun _ => ?_) | (apply Moves.step; apply State.closeSlot_moves; decide) | refine Moves.ite (fun _ => ?_) (fun _ => ?_) | dsimp only | extract_lets | split

theorem execTestDone_moves (device : Fin 10240) (target : Fin 65536) (s : State) : MovesO 0x120100408 s (execTestDone device target s) := by
  unfold execTestDone; with_reducible repeat' first | exact .refl _ | apply MovesO.next | refine MovesO.ite (fun _ => ?_) (fun _ => ?_) | (apply Moves.step; (first | apply State.endHold_moves | apply State.setTest_moves); decide) | refine Moves.ite (fun _ => ?_) (fun _ => ?_) | (apply Moves.fst; assumption) | (apply Moves.snd; assumption) | dsimp only | extract_lets | split

theorem execSelftestSlotExpiry_moves (device : Fin 10240) (s : State) : MovesO 0x1b3f71fff s (execSelftestSlotExpiry device s) := by
  unfold execSelftestSlotExpiry; with_reducible repeat' first | exact .refl _ | apply MovesO.next | refine MovesO.ite (fun _ => ?_) (fun _ => ?_) | (apply Moves.step; (first | apply State.closeSlot_moves | apply State.endHold_moves | apply State.setF_moves | apply State.setTest_moves | apply State.timeTo_moves); decide) | refine Moves.ite (fun _ => ?_) (fun _ => ?_) | (apply Moves.fst; assumption) | (apply Moves.snd; assumption) | dsimp only | extract_lets | split

end Sys2Proof.Machine
end

