-- ==== Sys2Proof/Laws/MovesSwitchback.lean ====
section
/-!
SUPPORT. What each definition of Machine/Switchback.lean may change: one Moves lemma each.
-/
set_option Elab.async false
set_option linter.all false

namespace Sys2Proof.Machine

open Sys2Proof

theorem State.sbStart_moves (s : State) (d bank step entry : Nat) : Moves 0x800038 s (State.sbStart s d bank step entry) := by
  unfold State.sbStart; with_reducible repeat' first | exact .refl _ | (apply Moves.step; (first | apply State.setF_moves | apply State.setSb_moves | apply State.writeN_moves); decide) | refine Moves.ite (fun _ => ?_) (fun _ => ?_) | refine Moves.foldl _ _ (fun _ _ => ?_) ?_ | refine Moves.foldl₁ _ _ (fun _ _ => ?_) ?_ | dsimp only | extract_lets | split

theorem State.sbStop_moves (s : State) (d : Nat) : Moves 0x112e003fe s (State.sbStop s d) := by
  unfold State.sbStop; with_reducible repeat' first | exact .refl _ | (apply Moves.step; (first | apply State.sbDone_moves | apply State.setSb_moves); decide) | refine Moves.ite (fun _ => ?_) (fun _ => ?_) | dsimp only | split

theorem State.sbContinue_moves (s : State) (d : Nat) : Moves 0x800008 s (State.sbContinue s d) := by
  unfold State.sbContinue; with_reducible repeat' first | exact .refl _ | (apply Moves.step; (first | apply State.setF_moves | apply State.setSb_moves); decide) | (apply Moves.fst; assumption) | (apply Moves.snd; assumption) | dsimp only | extract_lets | split

theorem execSbStart_moves (d : Fin 4) (bank : Fin 2) (step : BitVec 40) (entry : Fin 4096) (s : State) : MovesO 0x800038 s (execSbStart d bank step entry s) := by
  unfold execSbStart; with_reducible repeat' first | exact .refl _ | apply MovesO.next | refine MovesO.ite (fun _ => ?_) (fun _ => ?_) | (apply Moves.step; apply State.sbStart_moves; decide) | refine Moves.ite (fun _ => ?_) (fun _ => ?_) | dsimp only | split

theorem execSbStop_moves (d : Fin 4) (s : State) : MovesO 0x112e003fe s (execSbStop d s) := by
  unfold execSbStop; with_reducible repeat' first | exact .refl _ | apply MovesO.next | refine MovesO.ite (fun _ => ?_) (fun _ => ?_) | (apply Moves.step; apply State.sbStop_moves; decide) | refine Moves.ite (fun _ => ?_) (fun _ => ?_) | dsimp only | split

theorem execSbContinue_moves (d : Fin 4) (s : State) : MovesO 0x800008 s (execSbContinue d s) := by
  unfold execSbContinue; with_reducible repeat' first | exact .refl _ | apply MovesO.next | refine MovesO.ite (fun _ => ?_) (fun _ => ?_) | (apply Moves.step; apply State.sbContinue_moves; decide) | refine Moves.ite (fun _ => ?_) (fun _ => ?_) | dsimp only | split

theorem execSbEntryRead_moves (d : Fin 4) (s : State) : MovesO 0x1b3e70bfe s (execSbEntryRead d s) := by
  unfold execSbEntryRead; with_reducible repeat' first | exact .refl _ | apply MovesO.next | refine MovesO.ite (fun _ => ?_) (fun _ => ?_) | (apply Moves.step; (first | apply State.afterWork_moves | apply State.issueHint_moves | apply State.localRead_moves | apply State.setSb_moves); decide) | refine Moves.ite (fun _ => ?_) (fun _ => ?_) | (apply Moves.fst; assumption) | (apply Moves.snd; assumption) | dsimp only | extract_lets | split

theorem execSbDispatch_moves (d : Fin 4) (s : State) : MovesO 0x1b2e70bfe s (execSbDispatch d s) := by
  unfold execSbDispatch; with_reducible repeat' first | exact .refl _ | apply MovesO.next | refine MovesO.ite (fun _ => ?_) (fun _ => ?_) | (apply Moves.step; (first | apply State.sbDispatch_moves | apply State.sbFail_moves | apply State.setF_moves | apply State.settle_moves); decide) | refine Moves.ite (fun _ => ?_) (fun _ => ?_) | (apply Moves.fst; assumption) | (apply Moves.snd; assumption) | dsimp only | extract_lets | split

theorem execHintComplete_moves (d : Fin 4) (s : State) : MovesO 0x10800088 s (execHintComplete d s) := by
  unfold execHintComplete; with_reducible repeat' first | exact .refl _ | apply MovesO.next | (apply Moves.step; (first | apply State.hintDone_moves | (apply State.takeDone_moves; assumption)); decide) | (apply Moves.fst; assumption) | (apply Moves.snd; assumption) | dsimp only | split

theorem execSbStepEnd_moves (d : Fin 4) (s : State) : MovesO 0x800008 s (execSbStepEnd d s) := by
  unfold execSbStepEnd; with_reducible repeat' first | exact .refl _ | apply MovesO.next | refine MovesO.ite (fun _ => ?_) (fun _ => ?_) | (apply Moves.step; apply State.sbRestart_moves; decide) | refine Moves.ite (fun _ => ?_) (fun _ => ?_) | dsimp only | split

theorem execSbBankSwitch_moves (d : Fin 4) (s : State) : MovesO 0x800008 s (execSbBankSwitch d s) := by
  unfold execSbBankSwitch; with_reducible repeat' first | exact .refl _ | apply MovesO.next | refine MovesO.ite (fun _ => ?_) (fun _ => ?_) | (apply Moves.step; (first | apply State.sbRestart_moves | apply State.sbSwitchBank_moves); decide) | refine Moves.ite (fun _ => ?_) (fun _ => ?_) | dsimp only | split

theorem execSbCollapseSettle_moves (d : Fin 4) (s : State) : MovesO 0x1b2e70bfe s (execSbCollapseSettle d s) := by
  unfold execSbCollapseSettle; with_reducible repeat' first | exact .refl _ | apply MovesO.next | refine MovesO.ite (fun _ => ?_) (fun _ => ?_) | (apply Moves.step; (first | apply State.sbRestart_moves | apply State.sbSwitchBank_moves | apply State.setF_moves | apply State.settle_moves); decide) | refine Moves.ite (fun _ => ?_) (fun _ => ?_) | (apply Moves.fst; assumption) | (apply Moves.snd; assumption) | dsimp only | extract_lets | split

end Sys2Proof.Machine
end

