-- ==== Sys2Proof/Laws/MovesTile.lean ====
section
/-!
SUPPORT. What each definition of Machine/Tile.lean may change: one Moves lemma each.
-/
set_option Elab.async false
set_option linter.all false

namespace Sys2Proof.Machine

open Sys2Proof

theorem execTqPush_moves (d : Fin 4) (g : Fin 96) (insn : BitVec 32) (w : Word) (s : State) : MovesO 0x4c s (execTqPush d g insn w s) := by
  unfold execTqPush; with_reducible repeat' first | exact .refl _ | apply MovesO.next | refine MovesO.ite (fun _ => ?_) (fun _ => ?_) | (apply Moves.step; (first | apply State.settleHead_moves | apply State.spurTrap_moves | apply State.updCore_moves); decide) | refine Moves.ite (fun _ => ?_) (fun _ => ?_) | dsimp only | extract_lets | split

theorem execTqSeta_moves (d : Fin 4) (g : Fin 96) (insn : BitVec 32) (v : Word) (s : State) : MovesO 0x40 s (execTqSeta d g insn v s) := by
  unfold execTqSeta; with_reducible repeat' first | exact .refl _ | apply MovesO.next | refine MovesO.ite (fun _ => ?_) (fun _ => ?_) | (apply Moves.step; (first | apply State.spurTrap_moves | apply State.updCore_moves); decide) | refine Moves.ite (fun _ => ?_) (fun _ => ?_) | dsimp only | split

theorem execTqStat_moves (d : Fin 4) (g : Fin 96) (insn : BitVec 32) (s : State) : MovesO 0x40 s (execTqStat d g insn s) := by
  unfold execTqStat; with_reducible repeat' first | exact .refl _ | apply MovesO.next | refine MovesO.ite (fun _ => ?_) (fun _ => ?_) | (apply Moves.step; (first | apply State.spurTrap_moves | apply State.updCore_moves); decide) | refine Moves.ite (fun _ => ?_) (fun _ => ?_) | dsimp only | split

theorem execTqEcrd_moves (d : Fin 4) (g : Fin 96) (insn : BitVec 32) (s : State) : MovesO 0x40 s (execTqEcrd d g insn s) := by
  unfold execTqEcrd; with_reducible repeat' first | exact .refl _ | apply MovesO.next | refine MovesO.ite (fun _ => ?_) (fun _ => ?_) | (apply Moves.step; (first | apply State.spurTrap_moves | apply State.updCore_moves); decide) | refine Moves.ite (fun _ => ?_) (fun _ => ?_) | dsimp only | split

theorem execTqClear_moves (d : Fin 4) (g : Fin 96) (insn : BitVec 32) (s : State) : MovesO 0x48 s (execTqClear d g insn s) := by
  unfold execTqClear; with_reducible repeat' first | exact .refl _ | apply MovesO.next | refine MovesO.ite (fun _ => ?_) (fun _ => ?_) | (apply Moves.step; (first | apply State.setF_moves | apply State.spurTrap_moves | apply State.updCore_moves); decide) | refine Moves.ite (fun _ => ?_) (fun _ => ?_) | (apply Moves.fst; assumption) | (apply Moves.snd; assumption) | dsimp only | extract_lets | split

theorem execWait_moves (d : Fin 4) (g : Fin 96) (s : State) : MovesO 0x4c s (execWait d g s) := by
  unfold execWait; with_reducible repeat' first | exact .refl _ | apply MovesO.next | refine MovesO.ite (fun _ => ?_) (fun _ => ?_) | refine MovesP.some ?_ | exact MovesP.none | refine MovesP.ite (fun _ => ?_) (fun _ => ?_) | refine State.issue_moves _ _ _ _ _ (fun _ => ?_) (by decide) | (apply Moves.step; apply State.updCore_moves; decide) | refine Moves.ite (fun _ => ?_) (fun _ => ?_) | (apply Moves.fst; assumption) | (apply Moves.snd; assumption) | dsimp only | extract_lets | split

theorem execWaitSatisfied_moves (d : Fin 4) (g : Fin 96) (s : State) : MovesO 0x4c s (execWaitSatisfied d g s) := by
  unfold execWaitSatisfied; with_reducible repeat' first | exact .refl _ | apply MovesO.next | refine MovesO.ite (fun _ => ?_) (fun _ => ?_) | (apply Moves.step; apply State.popHead_moves; decide) | refine Moves.ite (fun _ => ?_) (fun _ => ?_) | (apply Moves.fst; assumption) | (apply Moves.snd; assumption) | dsimp only | extract_lets | split

theorem execSignal_moves (d : Fin 4) (g : Fin 96) (s : State) : MovesO 0x4c s (execSignal d g s) := by
  unfold execSignal; with_reducible repeat' first | exact .refl _ | apply MovesO.next | refine MovesO.ite (fun _ => ?_) (fun _ => ?_) | refine MovesP.some ?_ | exact MovesP.none | refine MovesP.ite (fun _ => ?_) (fun _ => ?_) | refine State.issue_moves _ _ _ _ _ (fun _ => ?_) (by decide) | (apply Moves.step; (first | apply State.signalEc_moves | apply State.updCore_moves); decide) | refine Moves.ite (fun _ => ?_) (fun _ => ?_) | (apply Moves.fst; assumption) | (apply Moves.snd; assumption) | dsimp only | extract_lets | split

theorem execSignalAfterIdle_moves (d : Fin 4) (g : Fin 96) (s : State) : MovesO 0x4c s (execSignalAfterIdle d g s) := by
  unfold execSignalAfterIdle; with_reducible repeat' first | exact .refl _ | apply MovesO.next | refine MovesO.ite (fun _ => ?_) (fun _ => ?_) | (apply Moves.step; (first | apply State.popHead_moves | apply State.signalEc_moves); decide) | refine Moves.ite (fun _ => ?_) (fun _ => ?_) | (apply Moves.fst; assumption) | (apply Moves.snd; assumption) | dsimp only | extract_lets | split

theorem State.startMove_moves {s t : State} {d g : Nat} {e : TqEntry} (h : s.startMove d g e = some t) :
    Moves 0x11020037e s t := by
  unfold State.startMove at h
  split at h
  · cases h
  · extract_lets held u v at h
    injection h with h; subst h
    have hu : Moves 0x11020037e s v := (State.updCore_moves ..).step (by decide)
      (.ite (fun _ => .refl s) (fun _ => (State.moveBytes_moves ..).mono (by decide)))
    exact .ite (fun _ => (State.parkMove_moves ..).step (by decide) hu) (fun _ => hu)

theorem execLdTile_moves (d : Fin 4) (g : Fin 96) (s : State) : MovesO 0x11020037e s (execLdTile d g s) := by
  unfold execLdTile; with_reducible repeat' first | exact .refl _ | apply MovesO.next | refine MovesP.some ?_ | exact MovesP.none | refine State.issue_moves _ _ _ _ _ (fun _ => ?_) (by decide) | (intro t h; apply Moves.step; (apply State.startMove_moves; assumption); decide) | (apply Moves.step; (apply State.startMove_moves; assumption); decide) | dsimp only

theorem execStTile_moves (d : Fin 4) (g : Fin 96) (s : State) : MovesO 0x11020037e s (execStTile d g s) := by
  unfold execStTile; with_reducible repeat' first | exact .refl _ | apply MovesO.next | refine MovesP.some ?_ | exact MovesP.none | refine State.issue_moves _ _ _ _ _ (fun _ => ?_) (by decide) | (intro t h; apply Moves.step; (apply State.startMove_moves; assumption); decide) | (apply Moves.step; (apply State.startMove_moves; assumption); decide) | dsimp only

theorem execPermute_moves (d : Fin 4) (g : Fin 96) (s : State) : MovesO 0x11020037e s (execPermute d g s) := by
  unfold execPermute; with_reducible repeat' first | exact .refl _ | apply MovesO.next | refine MovesP.some ?_ | exact MovesP.none | refine State.issue_moves _ _ _ _ _ (fun _ => ?_) (by decide) | (intro t h; apply Moves.step; (apply State.startMove_moves; assumption); decide) | (apply Moves.step; (apply State.startMove_moves; assumption); decide) | dsimp only

theorem execMove_moves (d : Fin 4) (g : Fin 96) (s : State) : MovesO 0x11020037e s (execMove d g s) := by
  unfold execMove; with_reducible repeat' first | exact .refl _ | apply MovesO.next | refine MovesP.some ?_ | exact MovesP.none | refine State.issue_moves _ _ _ _ _ (fun _ => ?_) (by decide) | (intro t h; apply Moves.step; (apply State.startMove_moves; assumption); decide) | (apply Moves.step; (apply State.startMove_moves; assumption); decide) | dsimp only

theorem execLocalMoveComplete_moves (d : Fin 4) (g : Fin 96) (n : Fin 16) (s : State) : MovesO 0x1b3e70bfe s (execLocalMoveComplete d g n s) := by
  unfold execLocalMoveComplete; with_reducible repeat' first | exact .refl _ | apply MovesO.next | refine MovesO.ite (fun _ => ?_) (fun _ => ?_) | (apply Moves.step; (first | apply State.releaseAll_moves | apply State.updCore_moves); decide) | refine Moves.ite (fun _ => ?_) (fun _ => ?_) | (apply Moves.fst; assumption) | (apply Moves.snd; assumption) | dsimp only | extract_lets | split

theorem execCoreRun_moves (d : Fin 4) (g : Fin 96) (run : Bool) (s : State) : MovesO 0x48 s (execCoreRun d g run s) := by
  unfold execCoreRun; with_reducible repeat' first | exact .refl _ | apply MovesO.next | refine MovesO.ite (fun _ => ?_) (fun _ => ?_) | (apply Moves.step; apply State.coreRun_moves; decide) | refine Moves.ite (fun _ => ?_) (fun _ => ?_) | dsimp only | split

theorem State.coreResetCmd_moves (s : State) (d : Nat) (core : Nat) : Moves 0x20001c8 s (State.coreResetCmd s d core) := by
  unfold State.coreResetCmd; with_reducible repeat' first | exact .refl _ | (apply Moves.step; (first | apply State.resetCore_moves | apply State.setF_moves); decide) | refine Moves.ite (fun _ => ?_) (fun _ => ?_) | dsimp only | split

theorem execCoreReset_moves (d : Fin 4) (core : Nat) (s : State) : MovesO 0x20001c8 s (execCoreReset d core s) := by
  unfold execCoreReset; with_reducible repeat' first | exact .refl _ | apply MovesO.next | refine MovesO.ite (fun _ => ?_) (fun _ => ?_) | (apply Moves.step; apply State.coreResetCmd_moves; decide) | refine Moves.ite (fun _ => ?_) (fun _ => ?_) | dsimp only | split

end Sys2Proof.Machine
end

