-- ==== Sys2Proof/Laws/MovesUpdate.lean ====
section
/-!
SUPPORT. What each definition of Machine/Update.lean may change: one Moves lemma each.
-/
set_option Elab.async false
set_option linter.all false

namespace Sys2Proof.Machine

open Sys2Proof

theorem execStartCmd_moves (b : Fin 4096) (s : State) : MovesO 0x1b3e70bfe s (execStartCmd b s) := by
  unfold execStartCmd; with_reducible repeat' first | exact .refl _ | apply MovesO.next | (apply Moves.step; (first | apply State.afterWork_moves | apply State.requestUpdate_moves); decide) | dsimp only

theorem State.endFetchFailed_moves (s : State) (r : UpdRun) (j b status : Nat) : Moves 0x1126203fe s (State.endFetchFailed s r j b status) := by
  unfold State.endFetchFailed; with_reducible repeat' first | exact .refl _ | (apply Moves.step; (first | apply State.endBlock_moves | apply State.raise_moves | apply State.setUpdRun_moves); decide) | refine Moves.ite (fun _ => ?_) (fun _ => ?_) | dsimp only | extract_lets | split

theorem execStateFetchLand_moves (d : Fin 4) (j : Fin 3) (s : State) : MovesO 0x1b3e70bfe s (execStateFetchLand d j s) := by
  unfold execStateFetchLand; with_reducible repeat' first | exact .refl _ | apply MovesO.next | refine MovesO.ite (fun _ => ?_) (fun _ => ?_) | (apply Moves.step; (first | apply State.afterWork_moves | apply State.endFetchFailed_moves | apply State.setEngFetches_moves | apply State.setUpdRun_moves | (apply State.takeDone_moves; assumption)); decide) | refine Moves.ite (fun _ => ?_) (fun _ => ?_) | (apply Moves.fst; assumption) | (apply Moves.snd; assumption) | dsimp only | extract_lets | split

theorem State.readStreams_moves (s : State) (r : UpdRun) (j b : Nat) : Moves 0x11000027e s (State.readStreams s r j b).1 := by
  unfold State.readStreams; with_reducible repeat' first | exact .refl _ | dsimp only | (apply Moves.step; apply State.localRead_moves; decide) | refine Moves.ite (fun _ => ?_) (fun _ => ?_) | refine Moves.foldl _ _ (fun _ _ => ?_) ?_ | refine Moves.foldl₁ _ _ (fun _ _ => ?_) ?_ | (apply Moves.fst; assumption) | (apply Moves.snd; assumption) | extract_lets | split

theorem State.runBlock_moves (s : State) (r : UpdRun) (j b slot : Nat) (grad : List Byte) (old : List (List Byte)) : Moves 0x1002000a s (State.runBlock s r j b slot grad old) := by
  unfold State.runBlock; with_reducible repeat' first | exact .refl _ | (apply Moves.step; (first | apply State.freshRegs_moves | apply State.orFlags_moves | apply State.setEngBlocks_moves | apply State.setUpdRun_moves); decide) | refine Moves.ite (fun _ => ?_) (fun _ => ?_) | refine Moves.foldl _ _ (fun _ _ => ?_) ?_ | refine Moves.foldl₁ _ _ (fun _ _ => ?_) ?_ | dsimp only | extract_lets | split

theorem State.beginBlock_moves (s : State) (r : UpdRun) (j b slot : Nat) : Moves 0x1126203fe s (State.beginBlock s r j b slot) := by
  unfold State.beginBlock; with_reducible repeat' first | exact .refl _ | (apply Moves.step; (first | apply State.endBlock_moves | apply State.localRead_moves | apply State.raise_moves | apply State.readStreams_moves | apply State.runBlock_moves | apply State.setUpdRun_moves); decide) | refine Moves.ite (fun _ => ?_) (fun _ => ?_) | dsimp only | extract_lets | split

theorem State.tryBlock_moves (s : State) (r : UpdRun) (j b : Nat) : Moves 0x1b3e70bfe s (State.tryBlock s r j b) := by
  unfold State.tryBlock; with_reducible repeat' first | exact .refl _ | (apply Moves.step; (first | apply State.afterWork_moves | apply State.beginBlock_moves | apply State.endFetchFailed_moves | apply State.noteWaits_moves); decide) | refine Moves.ite (fun _ => ?_) (fun _ => ?_) | dsimp only | extract_lets | split

theorem execBlockRun_moves (d : Fin 4) (j : Fin 3) (bucket : Fin 4096) (s : State) : MovesO 0x1b3e70bfe s (execBlockRun d j bucket s) := by
  unfold execBlockRun; with_reducible repeat' first | exact .refl _ | apply MovesO.next | refine MovesO.ite (fun _ => ?_) (fun _ => ?_) | (apply Moves.step; apply State.tryBlock_moves; decide) | refine Moves.ite (fun _ => ?_) (fun _ => ?_) | (apply Moves.fst; assumption) | (apply Moves.snd; assumption) | dsimp only | split

theorem execSnap_moves (d : Fin 4) (j : Fin 3) (k : Fin 4) (s : State) : MovesO 0x11002027e s (execSnap d j k s) := by
  unfold execSnap; with_reducible repeat' first | exact .refl _ | apply MovesO.next | refine MovesO.ite (fun _ => ?_) (fun _ => ?_) | (apply Moves.step; (first | apply State.setBlk_moves | apply State.writeSnap_moves); decide) | refine Moves.ite (fun _ => ?_) (fun _ => ?_) | (apply Moves.fst; assumption) | (apply Moves.snd; assumption) | dsimp only | split

theorem State.writeNew_moves (s : State) (d j : Nat) (x : BlkRun) (ks : List Nat) (ph : BlkPhase) : Moves 0x1126203fe s (State.writeNew s d j x ks ph) := by
  unfold State.writeNew; with_reducible repeat' first | exact .refl _ | (apply Moves.step; (first | apply State.setBlk_moves | apply State.writeStreams_moves); decide) | dsimp only | extract_lets | split

theorem execMoments_moves (d : Fin 4) (j : Fin 3) (k : Fin 4) (s : State) : MovesO 0x1b3e70bfe s (execMoments d j k s) := by
  unfold execMoments; with_reducible repeat' first | exact .refl _ | apply MovesO.next | refine MovesO.ite (fun _ => ?_) (fun _ => ?_) | (apply Moves.step; (first | apply State.afterWork_moves | apply State.writeNew_moves); decide) | refine Moves.ite (fun _ => ?_) (fun _ => ?_) | (apply Moves.fst; assumption) | (apply Moves.snd; assumption) | dsimp only | split

theorem execWeights_moves (d : Fin 4) (j : Fin 3) (k : Fin 4) (s : State) : MovesO 0x1b3e70bfe s (execWeights d j k s) := by
  unfold execWeights; with_reducible repeat' first | exact .refl _ | apply MovesO.next | refine MovesO.ite (fun _ => ?_) (fun _ => ?_) | (apply Moves.step; (first | apply State.afterWork_moves | apply State.collectOuter_moves | apply State.endBlock_moves | apply State.writeNew_moves); decide) | refine Moves.ite (fun _ => ?_) (fun _ => ?_) | (apply Moves.fst; assumption) | (apply Moves.snd; assumption) | dsimp only | extract_lets | split

theorem execTag_moves (d : Fin 4) (j : Fin 3) (k : Fin 4) (s : State) : MovesO 0x1b3e70bfe s (execTag d j k s) := by
  unfold execTag; with_reducible repeat' first | exact .refl _ | apply MovesO.next | refine MovesO.ite (fun _ => ?_) (fun _ => ?_) | (apply Moves.step; (first | apply State.afterWork_moves | apply State.collectOuter_moves | apply State.endBlock_moves | apply State.localWrite_moves | apply State.setBlk_moves); decide) | refine Moves.ite (fun _ => ?_) (fun _ => ?_) | (apply Moves.fst; assumption) | (apply Moves.snd; assumption) | dsimp only | extract_lets | split

theorem execBlockDone_moves (d : Fin 4) (j : Fin 3) (k : Fin 4) (s : State) : MovesO 0x1b3e70bfe s (execBlockDone d j k s) := by
  unfold execBlockDone; with_reducible repeat' first | exact .refl _ | apply MovesO.next | refine MovesO.ite (fun _ => ?_) (fun _ => ?_) | (apply Moves.step; (first | apply State.afterWork_moves | apply State.endBlock_moves | apply State.freeJournal_moves); decide) | refine Moves.ite (fun _ => ?_) (fun _ => ?_) | (apply Moves.fst; assumption) | (apply Moves.snd; assumption) | dsimp only | split

theorem State.recoverCmd_moves (s : State) : Moves 0x1b3e70bfe s (State.recoverCmd s) := by
  unfold State.recoverCmd; with_reducible repeat' first | exact .refl _ | (apply Moves.step; (first | apply State.afterWork_moves | apply State.recoverDie_moves | apply State.setF_moves); decide) | refine Moves.ite (fun _ => ?_) (fun _ => ?_) | refine Moves.foldl _ _ (fun _ _ => ?_) ?_ | refine Moves.foldl₁ _ _ (fun _ _ => ?_) ?_ | dsimp only | split

theorem execRecover_moves (s : State) : MovesO 0x1b3e70bfe s (execRecover s) := by
  unfold execRecover; with_reducible repeat' first | exact .refl _ | apply MovesO.next | (apply Moves.step; apply State.recoverCmd_moves; decide) | dsimp only

theorem State.exportLook_moves (s : State) (d a : Nat) (x : ExportDesc) : Moves 0x11000027e s (State.exportLook s d a x) := by
  unfold State.exportLook; with_reducible repeat' first | exact .refl _ | (apply Moves.step; apply State.look_moves; decide) | dsimp only

theorem State.sendRecord_moves (s : State) (id : Nat) (x : ExportDesc) (r : UpdRun) (outer : List Byte) (p : ExportSeg × Nat) : Moves 0x1126203fe s (State.sendRecord s id x r outer p) := by
  unfold State.sendRecord; with_reducible repeat' first | exact .refl _ | (apply Moves.step; (first | apply State.remoteIssue_moves_no | apply State.setUpd_moves | apply noFire_moves); decide) | refine Moves.ite (fun _ => ?_) (fun _ => ?_) | (apply Moves.fst; assumption) | (apply Moves.snd; assumption) | dsimp only | extract_lets | split

theorem execExportStart_moves (id : Nat) (outer : List Byte) (status : Fin 256) (s : State) : MovesO 0x1b3e70bfe s (execExportStart id outer status s) := by
  unfold execExportStart; with_reducible repeat' first | exact .refl _ | apply MovesO.next | refine MovesO.ite (fun _ => ?_) (fun _ => ?_) | (apply Moves.step; (first | apply State.afterWork_moves | apply State.entryStatus_moves | apply State.exportLook_moves | apply State.sendRecord_moves | apply State.setUpd_moves); decide) | refine Moves.ite (fun _ => ?_) (fun _ => ?_) | refine Moves.foldl _ _ (fun _ _ => ?_) ?_ | refine Moves.foldl₁ _ _ (fun _ _ => ?_) ?_ | (apply Moves.fst; assumption) | (apply Moves.snd; assumption) | dsimp only | extract_lets | split

theorem State.frameWritten_moves (s : State) (e : ExportRun) (who : Requester) : Moves 0x11000037e s (State.frameWritten s e who) := by
  unfold State.frameWritten; with_reducible repeat' first | exact .refl _ | (apply Moves.step; apply State.post_moves; decide) | (apply Moves.fst; assumption) | (apply Moves.snd; assumption) | dsimp only | split

theorem execExportDone_moves (id : Nat) (s : State) : MovesO 0x1b3e70bfe s (execExportDone id s) := by
  unfold execExportDone; with_reducible repeat' first | exact .refl _ | apply MovesO.next | refine MovesO.ite (fun _ => ?_) (fun _ => ?_) | (apply Moves.step; (first | apply State.afterWork_moves | apply State.descDone_moves | apply State.frameWritten_moves | apply State.post_moves | apply State.setTracker_moves | apply State.setUpd_moves); decide) | refine Moves.ite (fun _ => ?_) (fun _ => ?_) | refine Moves.foldl _ _ (fun _ _ => ?_) ?_ | refine Moves.foldl₁ _ _ (fun _ _ => ?_) ?_ | (apply Moves.fst; assumption) | (apply Moves.snd; assumption) | dsimp only | extract_lets | split

end Sys2Proof.Machine
end

