-- ==== Sys2Proof/Laws/MovesSetupOps.lean ====
section
/-!
SUPPORT. What each definition of Machine/SetupOps.lean may change: one Moves lemma each.
-/
set_option Elab.async false
set_option linter.all false

namespace Sys2Proof.Machine

open Sys2Proof

theorem State.plainWrite_moves (s : State) (row : RegRow) (d i : Nat) (w : Word) : Moves 0x8 s (State.plainWrite s row d i w) := by
  unfold State.plainWrite; with_reducible repeat' first | exact .refl _ | (apply Moves.step; apply State.setReg_moves; decide) | dsimp only

theorem State.expertChanged_moves (s : State) (b : Blk) (d : Nat) : Moves 0x18010004c s (State.expertChanged s b d) := by
  unfold State.expertChanged; with_reducible repeat' first | exact .refl _ | (apply Moves.step; (first | apply State.powerExpert_moves | apply State.tryRaise_moves); decide) | refine Moves.foldl _ _ (fun _ _ => ?_) ?_ | refine Moves.foldl₁ _ _ (fun _ _ => ?_) ?_ | (apply Moves.fst; assumption) | (apply Moves.snd; assumption) | dsimp only | split

theorem State.writeExpert_moves (s : State) (b : Blk) (r : Reg) (d : Nat) (w : Word) : Moves 0x18010004c s (State.writeExpert s b r d w) := by
  unfold State.writeExpert; with_reducible repeat' first | exact .refl _ | (apply Moves.step; (first | apply State.expertChanged_moves | apply State.setF_moves | apply State.setReg_moves); decide) | refine Moves.ite (fun _ => ?_) (fun _ => ?_) | (apply Moves.fst; assumption) | (apply Moves.snd; assumption) | dsimp only | split

theorem State.writeMode_moves (s : State) (b : Blk) (d : Nat) (w : Word) : Moves 0x18010004c s (State.writeMode s b d w) := by
  unfold State.writeMode; with_reducible repeat' first | exact .refl _ | (apply Moves.step; (first | apply State.expertChanged_moves | apply State.setF_moves | apply State.setReg_moves); decide) | (apply Moves.fst; assumption) | (apply Moves.snd; assumption) | dsimp only | extract_lets | split

theorem State.writeGlb_moves (s : State) (row : RegRow) (w : Word) : Moves 0x8 s (State.writeGlb s row w) := by
  unfold State.writeGlb; with_reducible repeat' first | exact .refl _ | (apply Moves.step; (first | apply State.plainWrite_moves | apply State.setF_moves); decide) | refine Moves.ite (fun _ => ?_) (fun _ => ?_) | dsimp only | extract_lets | split

theorem State.writeMas_moves (s : State) (row : RegRow) (w : Word) : Moves 0x8 s (State.writeMas s row w) := by
  unfold State.writeMas; with_reducible repeat' first | exact .refl _ | (apply Moves.step; (first | apply State.plainWrite_moves | apply State.setF_moves); decide) | refine Moves.ite (fun _ => ?_) (fun _ => ?_) | dsimp only | extract_lets | split

theorem State.writePool_moves (s : State) (row : RegRow) (i : Nat) (w : Word) : Moves 0x8 s (State.writePool s row i w) := by
  unfold State.writePool; with_reducible repeat' first | exact .refl _ | (apply Moves.step; (first | apply State.plainWrite_moves | apply State.setF_moves | apply State.writeRangeState_moves); decide) | refine Moves.ite (fun _ => ?_) (fun _ => ?_) | dsimp only | extract_lets | split

theorem State.writePkg_moves (s : State) (row : RegRow) (i : Nat) (w : Word) : Moves 0x1f7f7bffe s (State.writePkg s row i w) := by
  unfold State.writePkg; with_reducible repeat' first | exact .refl _ | refine State.gateReset_moves _ _ _ (fun _ => ?_) (by decide) | refine Moves.step (State.gateReset_moves (m := 0x1f7f7bffe) _ _ _ (fun _ => ?_) (by decide)) (by decide) ?_ | (apply Moves.step; (first | apply State.dieReset_moves | apply State.plainWrite_moves | apply State.rejoinCmd_moves | apply State.setF_moves); decide) | refine Moves.ite (fun _ => ?_) (fun _ => ?_) | dsimp only | extract_lets | split

theorem State.writeSta_moves (s : State) (row : RegRow) (w : Word) : Moves 0x1f3e78bfe s (State.writeSta s row w) := by
  unfold State.writeSta; with_reducible repeat' first | exact .refl _ | (apply Moves.step; (first | apply State.bivouacCmd_moves | apply State.coreResetCmd_moves | apply State.plainWrite_moves | apply State.refugeCmd_moves | apply State.setF_moves | apply State.wakeCmd_moves); decide) | refine Moves.ite (fun _ => ?_) (fun _ => ?_) | dsimp only | extract_lets | split

theorem State.writeSt_moves (s : State) (row : RegRow) (i : Nat) (w : Word) : Moves 0x2000000c s (State.writeSt s row i w) := by
  unfold State.writeSt; with_reducible repeat' first | exact .refl _ | (apply Moves.step; (first | apply State.plainWrite_moves | apply State.testCommand_moves); decide) | refine Moves.ite (fun _ => ?_) (fun _ => ?_) | dsimp only | split

theorem State.writeErr_moves (s : State) (row : RegRow) (i : Nat) (w : Word) : Moves 0x10000008 s (State.writeErr s row i w) := by
  unfold State.writeErr; with_reducible repeat' first | exact .refl _ | (apply Moves.step; (first | apply State.plainWrite_moves | apply State.setErr_moves); decide) | refine Moves.ite (fun _ => ?_) (fun _ => ?_) | dsimp only | extract_lets | split

theorem State.writeRed_moves (s : State) (row : RegRow) (i : Nat) (w : Word) : Moves 0x10008 s (State.writeRed s row i w) := by
  unfold State.writeRed; with_reducible repeat' first | exact .refl _ | (apply Moves.step; (first | apply State.plainWrite_moves | apply State.setF_moves | apply State.stepReady_moves); decide) | refine Moves.ite (fun _ => ?_) (fun _ => ?_) | dsimp only | split

theorem State.writeUpd_moves (s : State) (row : RegRow) (i : Nat) (w : Word) : Moves 0x1b3e70bfe s (State.writeUpd s row i w) := by
  unfold State.writeUpd; with_reducible repeat' first | exact .refl _ | (apply Moves.step; (first | apply State.afterWork_moves | apply State.plainWrite_moves | apply State.recoverCmd_moves | apply State.requestUpdate_moves | apply State.setF_moves); decide) | refine Moves.ite (fun _ => ?_) (fun _ => ?_) | dsimp only | extract_lets | split

theorem State.writeCor_moves (s : State) (row : RegRow) (i : Nat) (w : Word) : Moves 0xc s (State.writeCor s row i w) := by
  unfold State.writeCor; with_reducible repeat' first | exact .refl _ | (apply Moves.step; (first | apply State.clearStale_moves | apply State.plainWrite_moves | apply State.reshardCmd_moves | apply State.resumeCmd_moves | apply State.setF_moves); decide) | refine Moves.ite (fun _ => ?_) (fun _ => ?_) | dsimp only | extract_lets | split

theorem State.writeHost_moves (s : State) (row : RegRow) (i : Nat) (w : Word) : Moves 0x2000008 s (State.writeHost s row i w) := by
  unfold State.writeHost; with_reducible repeat' first | exact .refl _ | (apply Moves.step; (first | apply State.attach_moves | apply State.detach_moves | apply State.handleClearHw_moves | apply State.plainWrite_moves | apply State.ringCfg_moves | apply State.setF_moves); decide) | refine Moves.ite (fun _ => ?_) (fun _ => ?_) | dsimp only | extract_lets | split

theorem State.writeCore_moves (s : State) (row : RegRow) (d i : Nat) (w : Word) : Moves 0x48 s (State.writeCore s row d i w) := by
  unfold State.writeCore; with_reducible repeat' first | exact .refl _ | (apply Moves.step; (first | apply State.coreRun_moves | apply State.plainWrite_moves); decide) | refine Moves.ite (fun _ => ?_) (fun _ => ?_) | dsimp only | split

theorem State.writeTal_moves (s : State) (row : RegRow) (d i : Nat) (w : Word) : Moves 0x1b3e70bfe s (State.writeTal s row d i w) := by
  unfold State.writeTal; with_reducible repeat' first | exact .refl _ | (apply Moves.step; (first | apply State.plainWrite_moves | apply State.retireCmd_moves | apply State.stackClear_moves); decide) | refine Moves.ite (fun _ => ?_) (fun _ => ?_) | dsimp only | extract_lets | split

theorem State.writeVec_moves (s : State) (row : RegRow) (d i : Nat) (w : Word) : Moves 0x8 s (State.writeVec s row d i w) := by
  unfold State.writeVec; with_reducible repeat' first | exact .refl _ | (apply Moves.step; (first | apply State.plainWrite_moves | apply State.setF_moves); decide) | refine Moves.ite (fun _ => ?_) (fun _ => ?_) | dsimp only | extract_lets | split

theorem State.writeCon_moves (s : State) (row : RegRow) (d i : Nat) (w : Word) (camp : Bool) : Moves 0x1b3e70bfe s (State.writeCon s row d i w camp) := by
  unfold State.writeCon; with_reducible repeat' first | exact .refl _ | (apply Moves.step; (first | apply State.afterWork_moves | apply State.plainWrite_moves | apply State.writeEventCtrl_moves | apply State.writePos_moves | apply State.writeThreshold_moves); decide) | refine Moves.ite (fun _ => ?_) (fun _ => ?_) | dsimp only | split

theorem State.writeRem_moves (s : State) (row : RegRow) (d i : Nat) (w : Word) : Moves 0x8 s (State.writeRem s row d i w) := by
  unfold State.writeRem; with_reducible repeat' first | exact .refl _ | (apply Moves.step; (first | apply State.clearHw_moves | apply State.plainWrite_moves | apply State.setF_moves); decide) | refine Moves.ite (fun _ => ?_) (fun _ => ?_) | dsimp only | extract_lets | split

theorem State.writeRdg_moves (s : State) (row : RegRow) (d i : Nat) (w : Word) : Moves 0x1f3f78bfe s (State.writeRdg s row d i w) := by
  unfold State.writeRdg; with_reducible repeat' first | exact .refl _ | refine State.gateReset_moves _ _ _ (fun _ => ?_) (by decide) | refine Moves.step (State.gateReset_moves (m := 0x1f3f78bfe) _ _ _ (fun _ => ?_) (by decide)) (by decide) ?_ | (apply Moves.step; (first | apply State.plainWrite_moves | apply State.portClear_moves | apply State.portReset_moves); decide) | refine Moves.ite (fun _ => ?_) (fun _ => ?_) | dsimp only | extract_lets | split

theorem State.writeCry_moves (s : State) (row : RegRow) (d i : Nat) (w : Word) : Moves 0x10010000c s (State.writeCry s row d i w) := by
  unfold State.writeCry; with_reducible repeat' first | exact .refl _ | (apply Moves.step; (first | apply State.installRx_moves | apply State.installTx_moves | apply State.plainWrite_moves | apply State.setF_moves | apply State.setPortF_moves | apply State.setReg_moves | apply State.tryRaise_moves); decide) | refine Moves.ite (fun _ => ?_) (fun _ => ?_) | dsimp only | extract_lets | split

theorem State.writeSb_moves (s : State) (row : RegRow) (d i : Nat) (w : Word) : Moves 0x112e003fe s (State.writeSb s row d i w) := by
  unfold State.writeSb; with_reducible repeat' first | exact .refl _ | (apply Moves.step; (first | apply State.plainWrite_moves | apply State.sbContinue_moves | apply State.sbStart_moves | apply State.sbStop_moves | apply State.setF_moves); decide) | refine Moves.ite (fun _ => ?_) (fun _ => ?_) | dsimp only | extract_lets | split

theorem State.writeTrv_moves (s : State) (row : RegRow) (d i : Nat) (w : Word) : Moves 0x8 s (State.writeTrv s row d i w) := by
  unfold State.writeTrv; with_reducible repeat' first | exact .refl _ | (apply Moves.step; (first | apply State.plainWrite_moves | apply State.setF_moves); decide) | refine Moves.ite (fun _ => ?_) (fun _ => ?_) | dsimp only | split

theorem State.writeClr_moves (s : State) (row : RegRow) (d i : Nat) (w : Word) : Moves 0x200008 s (State.writeClr s row d i w) := by
  unfold State.writeClr; with_reducible repeat' first | exact .refl _ | (apply Moves.step; (first | apply State.dropRest_moves | apply State.plainWrite_moves | apply State.queueClearHw_moves | apply State.setF_moves); decide) | refine Moves.ite (fun _ => ?_) (fun _ => ?_) | dsimp only | split

theorem State.writeRow_moves (s : State) (row : RegRow) (d i : Nat) (w : Word) : Moves 0x1f7f7bffe s (State.writeRow s row d i w) := by
  unfold State.writeRow; with_reducible repeat' first | exact .refl _ | (apply Moves.step; (first | apply State.plainWrite_moves | apply State.writeClr_moves | apply State.writeCon_moves | apply State.writeCor_moves | apply State.writeCore_moves | apply State.writeCry_moves | apply State.writeErr_moves | apply State.writeExpert_moves | apply State.writeGlb_moves | apply State.writeHost_moves | apply State.writeMas_moves | apply State.writeMode_moves | apply State.writePkg_moves | apply State.writePool_moves | apply State.writeRdg_moves | apply State.writeRed_moves | apply State.writeRem_moves | apply State.writeSb_moves | apply State.writeSt_moves | apply State.writeSta_moves | apply State.writeTal_moves | apply State.writeTrv_moves | apply State.writeUpd_moves | apply State.writeVec_moves); decide) | refine Moves.ite (fun _ => ?_) (fun _ => ?_) | (apply Moves.fst; assumption) | (apply Moves.snd; assumption) | dsimp only | extract_lets | split

theorem State.accessError_moves (s : State) (f : Fld) (offset : Nat) : Moves 0x8 s (State.accessError s f offset) := by
  unfold State.accessError; with_reducible repeat' first | exact .refl _ | (apply Moves.step; apply State.setF_moves; decide) | refine Moves.ite (fun _ => ?_) (fun _ => ?_) | dsimp only | extract_lets | split

theorem State.writeReg_moves (s : State) (offset : Nat) (w : Word) : MovesO 0x1f7f7bffe s (State.writeReg s offset w) := by
  unfold State.writeReg; with_reducible repeat' first | exact .refl _ | apply MovesO.next | refine MovesO.ite (fun _ => ?_) (fun _ => ?_) | apply MovesO.fault | (apply Moves.step; (first | apply State.accessError_moves | apply State.writeRow_moves); decide) | refine Moves.ite (fun _ => ?_) (fun _ => ?_) | (apply Moves.fst; assumption) | (apply Moves.snd; assumption) | dsimp only | split

theorem State.broadcast_moves (s : State) (x : Nat) (w : Word) : MovesO 0x1f7f7bffe s (State.broadcast s x w) := by
  unfold State.broadcast; with_reducible repeat' first | exact .refl _ | apply MovesO.next | refine MovesO.ite (fun _ => ?_) (fun _ => ?_) | apply MovesO.fault | (apply Moves.step; (first | apply State.accessError_moves | apply State.writeRow_moves); decide) | refine Moves.ite (fun _ => ?_) (fun _ => ?_) | refine Moves.foldl _ _ (fun _ _ => ?_) ?_ | refine Moves.foldl₁ _ _ (fun _ _ => ?_) ?_ | (apply Moves.fst; assumption) | (apply Moves.snd; assumption) | dsimp only | split

theorem State.writeMsixWord_moves (s : State) (k x : Nat) : Moves 0x2000004 s (State.writeMsixWord s k x) := by
  unfold State.writeMsixWord; with_reducible repeat' first | exact .refl _ | (apply Moves.step; (first | apply State.sendMsix_moves | apply State.setHost_moves); decide) | refine Moves.ite (fun _ => ?_) (fun _ => ?_) | dsimp only | extract_lets | split

theorem State.writeMsix_moves (s : State) (o size : Nat) (w : Word) : Moves 0x2000004 s (State.writeMsix s o size w) := by
  unfold State.writeMsix; with_reducible repeat' first | exact .refl _ | (apply Moves.step; apply State.writeMsixWord_moves; decide) | refine Moves.ite (fun _ => ?_) (fun _ => ?_) | dsimp only | extract_lets | split

end Sys2Proof.Machine
end

