-- ==== Sys2Proof/Laws/MovesSetup.lean ====
section
/-!
SUPPORT. What each definition of Machine/Setup.lean may change: one Moves lemma each.
-/
set_option Elab.async false
set_option linter.all false

namespace Sys2Proof.Machine

open Sys2Proof

theorem execRegisterWrite_moves (offset : Fin 0x100000) (size : Fin 65) (value : Word) (s : State) : MovesO 0x1f7f7bffe s (execRegisterWrite offset size value s) := by
  unfold execRegisterWrite; with_reducible repeat' first | exact .refl _ | apply MovesO.next | refine MovesO.ite (fun _ => ?_) (fun _ => ?_) | apply MovesO.refused | (apply MovesO.mono; apply State.broadcast_moves; decide) | (apply MovesO.mono; apply State.writeReg_moves; decide) | (apply Moves.step; (first | apply State.accessError_moves | apply State.writeMsix_moves); decide) | refine Moves.ite (fun _ => ?_) (fun _ => ?_) | dsimp only | extract_lets | split

theorem execModeWrite_moves (block : Blk) (die : Fin 4) (expert : Bool) (preset : Fin 256) (s : State) : MovesO 0x18010004c s (execModeWrite block die expert preset s) := by
  unfold execModeWrite; with_reducible repeat' first | exact .refl _ | apply MovesO.next | refine MovesO.ite (fun _ => ?_) (fun _ => ?_) | (apply Moves.step; (first | apply State.accessError_moves | apply State.writeMode_moves); decide) | refine Moves.ite (fun _ => ?_) (fun _ => ?_) | dsimp only | extract_lets | split

theorem execBroadcastWrite_moves (offset : Fin 0x4000) (value : Word) (s : State) : MovesO 0x1f7f7bffe s (execBroadcastWrite offset value s) := by
  unfold execBroadcastWrite; with_reducible repeat' first | exact .refl _ | apply MovesO.next | refine MovesO.ite (fun _ => ?_) (fun _ => ?_) | (apply MovesO.mono; apply State.broadcast_moves; decide) | refine Moves.ite (fun _ => ?_) (fun _ => ?_) | dsimp only | split

theorem execSetupLock_moves (s : State) : MovesO 0x8 s (execSetupLock s) := by
  unfold execSetupLock; with_reducible repeat' first | exact .refl _ | apply MovesO.next | refine MovesO.ite (fun _ => ?_) (fun _ => ?_) | (apply Moves.step; apply State.setF_moves; decide) | refine Moves.ite (fun _ => ?_) (fun _ => ?_) | dsimp only | split

end Sys2Proof.Machine
end

