-- ==== Sys2Proof/Laws/MovesSpur.lean ====
section
/-!
SUPPORT. What each definition of Machine/Spur.lean may change: one Moves lemma each.
-/
set_option Elab.async false
set_option linter.all false

namespace Sys2Proof.Machine

open Sys2Proof

theorem State.spurWindowLoad_moves (s : State) (d g rd a n : Nat) (sign : Bool) (o : Nat) : Moves 0x40 s (State.spurWindowLoad s d g rd a n sign o) := by
  unfold State.spurWindowLoad; with_reducible repeat' first | exact .refl _ | (apply Moves.step; (first | apply State.spurTrap_moves | apply State.updCore_moves); decide) | refine Moves.ite (fun _ => ?_) (fun _ => ?_) | dsimp only | extract_lets | split

theorem State.spurWindowStore_moves (s : State) (o : Nat) (v : Word) : Moves 0x1f7f7bffe s (State.spurWindowStore s o v) := by
  unfold State.spurWindowStore; with_reducible repeat' first | exact .refl _ | (apply Moves.step; apply State.writeRow_moves; decide) | refine Moves.ite (fun _ => ?_) (fun _ => ?_) | (apply Moves.fst; assumption) | (apply Moves.snd; assumption) | dsimp only | split

theorem State.spurAccess_moves (s : State) (d g : Nat) (store : Bool) (n : Nat) (sign : Bool) (rd a : Nat) (v : Word) : Moves 0x1f7f7bffe s (State.spurAccess s d g store n sign rd a v) := by
  unfold State.spurAccess; with_reducible repeat' first | exact .refl _ | (apply Moves.step; (first | apply State.addressFault_moves | apply State.spurMemory_moves | apply State.spurTrap_moves | apply State.spurWindowLoad_moves | apply State.spurWindowStore_moves | apply State.updCore_moves); decide) | refine Moves.ite (fun _ => ?_) (fun _ => ?_) | (apply Moves.fst; assumption) | (apply Moves.snd; assumption) | dsimp only | extract_lets | split

theorem execSpurLoadStore_moves (d : Fin 4) (g : Fin 96) (store : Bool) (size : Fin 4) (sign : Bool) (rd : Fin 32) (addr : BitVec 48) (value : Word) (s : State) : MovesO 0x1f7f7bffe s (execSpurLoadStore d g store size sign rd addr value s) := by
  unfold execSpurLoadStore; with_reducible repeat' first | exact .refl _ | apply MovesO.next | exact MovesO.fault | refine MovesO.ite (fun _ => ?_) (fun _ => ?_) | (apply MovesO.mono; apply State.spurStore_moves; decide) | (apply Moves.step; (first | apply State.afterWork_moves | apply State.spurAccess_moves); decide) | refine Moves.ite (fun _ => ?_) (fun _ => ?_) | (apply Moves.fst; assumption) | (apply Moves.snd; assumption) | dsimp only | extract_lets | split

theorem State.resumeSpur_moves (s : State) (d g : Nat) : Moves 0x1f7f7bffe s (State.resumeSpur s d g) := by
  unfold State.resumeSpur; with_reducible repeat' first | exact .refl _ | (apply Moves.step; apply State.spurAccess_moves; decide) | refine Moves.ite (fun _ => ?_) (fun _ => ?_) | (apply Moves.fst; assumption) | (apply Moves.snd; assumption) | dsimp only | split

theorem execSpurCsrWrite_moves (d : Fin 4) (g : Fin 96) (csr : Fin 4) (value : Word) (s : State) : MovesO 0x48 s (execSpurCsrWrite d g csr value s) := by
  unfold execSpurCsrWrite; with_reducible repeat' first | exact .refl _ | apply MovesO.next | refine MovesO.ite (fun _ => ?_) (fun _ => ?_) | apply MovesO.fault | (apply Moves.step; (first | apply State.setF_moves | apply State.updCore_moves); decide) | refine Moves.ite (fun _ => ?_) (fun _ => ?_) | (apply Moves.fst; assumption) | (apply Moves.snd; assumption) | dsimp only | extract_lets | split

end Sys2Proof.Machine
end

