-- ==== Sys2Proof/Laws/MovesTraverse.lean ====
section
/-!
SUPPORT. What each definition of Machine/Traverse.lean may change: one Moves lemma each.
-/
set_option Elab.async false
set_option linter.all false

namespace Sys2Proof.Machine

open Sys2Proof

theorem execTravHeadWrite_moves (d : Fin 4) (head : Fin 256) (s : State) : MovesO 0x8 s (execTravHeadWrite d head s) := by
  unfold execTravHeadWrite; with_reducible repeat' first | exact .refl _ | apply MovesO.next | refine MovesO.ite (fun _ => ?_) (fun _ => ?_) | (apply Moves.step; apply State.setF_moves; decide) | refine Moves.ite (fun _ => ?_) (fun _ => ?_) | dsimp only | split

theorem execDispatch_moves (d : Fin 4) (s : State) : MovesO 0x1b3e70bfe s (execDispatch d s) := by
  unfold execDispatch; with_reducible repeat' first | exact .refl _ | apply MovesO.next | refine MovesO.ite (fun _ => ?_) (fun _ => ?_) | (apply Moves.step; (first | apply State.afterWork_moves | apply State.travStart_moves); decide) | refine Moves.ite (fun _ => ?_) (fun _ => ?_) | dsimp only | split

theorem execCombine_moves (d : Fin 4) (s : State) : MovesO 0x1b3e70bfe s (execCombine d s) := by
  unfold execCombine; with_reducible repeat' first | exact .refl _ | apply MovesO.next | refine MovesO.ite (fun _ => ?_) (fun _ => ?_) | (apply Moves.step; (first | apply State.afterWork_moves | apply State.travStart_moves); decide) | refine Moves.ite (fun _ => ?_) (fun _ => ?_) | dsimp only | split

theorem execReturnRows_moves (d : Fin 4) (q : Fin 64) (s : State) : MovesO 0x11120027e s (execReturnRows d q s) := by
  unfold execReturnRows; with_reducible repeat' first | exact .refl _ | apply MovesO.next | refine MovesO.ite (fun _ => ?_) (fun _ => ?_) | (apply Moves.step; apply State.travReturn_moves; decide) | refine Moves.ite (fun _ => ?_) (fun _ => ?_) | dsimp only | split

theorem execReturnTimeout_moves (d : Fin 4) (batch : Fin 65536) (s : State) : MovesO 0x1000009 s (execReturnTimeout d batch s) := by
  unfold execReturnTimeout; with_reducible repeat' first | exact .refl _ | apply MovesO.next | refine MovesO.ite (fun _ => ?_) (fun _ => ?_) | (apply Moves.step; (first | apply State.setTraverse_moves | apply State.timeTo_moves); decide) | refine Moves.ite (fun _ => ?_) (fun _ => ?_) | (apply Moves.fst; assumption) | (apply Moves.snd; assumption) | dsimp only | extract_lets | split

theorem execCombineCompute_moves (d : Fin 4) (batch : Fin 65536) (s : State) : MovesO 0x1b3e70bfe s (execCombineCompute d batch s) := by
  unfold execCombineCompute; with_reducible repeat' first | exact .refl _ | apply MovesO.next | refine MovesO.ite (fun _ => ?_) (fun _ => ?_) | (apply Moves.step; (first | apply State.afterWork_moves | apply State.combine_moves | apply State.setTraverse_moves | apply State.travRefuse_moves); decide) | refine Moves.ite (fun _ => ?_) (fun _ => ?_) | (apply Moves.fst; assumption) | (apply Moves.snd; assumption) | dsimp only | extract_lets | split

end Sys2Proof.Machine
end

