-- ==== Sys2Proof/Laws/MovesTick.lean ====
section
/-!
SUPPORT. What each definition of Machine/Tick.lean may change: one Moves lemma each.
-/
set_option Elab.async false
set_option linter.all false

namespace Sys2Proof.Machine

open Sys2Proof

theorem State.countIf_moves (s : State) (p : Bool) (f : Fld) (d i : Nat) : Moves 0x8 s (State.countIf s p f d i) := by
  unfold State.countIf; with_reducible repeat' first | exact .refl _ | (apply Moves.step; apply State.addF_moves; decide) | refine Moves.ite (fun _ => ?_) (fun _ => ?_) | dsimp only | split

theorem State.tickPipes_moves (s : State) : Moves 0x10000078 s (State.tickPipes s) := by
  unfold State.tickPipes; with_reducible repeat' first | exact .refl _ | (apply Moves.step; apply State.settlePipes_moves; decide) | refine Moves.ite (fun _ => ?_) (fun _ => ?_) | refine Moves.foldl _ _ (fun _ _ => ?_) ?_ | refine Moves.foldl₁ _ _ (fun _ _ => ?_) ?_ | dsimp only | split

theorem State.tickCores_moves (s : State) : Moves 0x8 s (State.tickCores s) := by
  unfold State.tickCores; with_reducible repeat' first | exact .refl _ | (apply Moves.step; apply State.countIf_moves; decide) | refine Moves.foldl _ _ (fun _ _ => ?_) ?_ | refine Moves.foldl₁ _ _ (fun _ _ => ?_) ?_ | dsimp only | extract_lets | split

theorem State.tickUpdate_moves (s : State) (d : Nat) : Moves 0x8 s (State.tickUpdate s d) := by
  unfold State.tickUpdate; with_reducible repeat' first | exact .refl _ | (apply Moves.step; apply State.countIf_moves; decide) | refine Moves.foldl _ _ (fun _ _ => ?_) ?_ | refine Moves.foldl₁ _ _ (fun _ _ => ?_) ?_ | dsimp only

theorem State.tickSb_moves (s : State) (d : Nat) : Moves 0x8 s (State.tickSb s d) := by
  unfold State.tickSb; with_reducible repeat' first | exact .refl _ | (apply Moves.step; apply State.countIf_moves; decide) | dsimp only | extract_lets | split

theorem State.tickQueues_moves (s : State) (d : Nat) : Moves 0x8 s (State.tickQueues s d) := by
  unfold State.tickQueues; with_reducible repeat' first | exact .refl _ | (apply Moves.step; apply State.addF_moves; decide) | refine Moves.foldl _ _ (fun _ _ => ?_) ?_ | refine Moves.foldl₁ _ _ (fun _ _ => ?_) ?_ | dsimp only

theorem State.tickDie_moves (s : State) (d : Nat) : Moves 0x8 s (State.tickDie s d) := by
  unfold State.tickDie; with_reducible repeat' first | exact .refl _ | (apply Moves.step; (first | apply State.countIf_moves | apply State.tickQueues_moves | apply State.tickSb_moves | apply State.tickUpdate_moves); decide) | dsimp only | extract_lets | split

theorem State.tickWaits_moves (s : State) : Moves 0x1f7f7bffe s (State.tickWaits s) := by
  unfold State.tickWaits; with_reducible repeat' first | exact .refl _ | (apply Moves.step; (first | apply State.releaseAll_moves | apply State.resumeSpur_moves); decide) | refine Moves.ite (fun _ => ?_) (fun _ => ?_) | refine Moves.foldl _ _ (fun _ _ => ?_) ?_ | refine Moves.foldl₁ _ _ (fun _ _ => ?_) ?_ | dsimp only | extract_lets | split

theorem idleCycle_moves (s : State) : Moves 0x1f7f7bfff s (idleCycle s) := by
  unfold idleCycle
  extract_lets s1 s2
  have h2 : Moves 0x1f7f7bfff s s2 :=
    .foldl _ _ (fun _ _ => .ite (fun _ => (State.tickDie_moves ..).mono (by decide)) (fun _ => .refl _))
      ((State.tickCores_moves ..).mono (by decide))
  clear_value s2
  have h3 : Moves 0x1f7f7bfff s ({ s2 with time := s2.time + 10 } : State) := (Moves.forward (Nat.le_add_right ..)).step (by decide) h2
  exact (State.tickWaits_moves ..).step (by decide) ((State.convStep_moves ..).step (by decide)
    ((State.tickPipes_moves ..).step (by decide) h3))

end Sys2Proof.Machine
end

