-- ==== Sys2Proof/WellFormed.lean ====
section
/-!
DEFINITION. Which commands are well formed: every operand that a type does not already bound fits the field the spec gives it.
-/
namespace Sys2Proof

/-- A number that fits w bits. -/
def fits (w n : Nat) : Bool := decide (n < 2 ^ w)

/-- A symbol error names one of the granule's or the flit's words, and one of a word's 20 symbols (R164, R417). -/
def SymErr.wellFormed (words : Nat) (e : SymErr) : Bool := decide (e.word < words) && decide (e.symbol < 20)

/-- A segment's fields fit Table 7.2, its payload is at most 4,096 bytes with one mark for each 4 (R189). -/
def Segment.wellFormed (g : Segment) : Bool :=
  fits 3 g.cls && fits 16 g.job && fits 14 g.srcDev && fits 2 g.srcDie && fits 12 g.tag && fits 4 g.aop && fits 40 g.step &&
  fits 48 g.address && fits 28 g.len64 && fits 28 g.seg64 && decide (g.payload.length ≤ 4096) &&
  decide (g.marks.length * 4 ≤ g.payload.length + 3)

/-- A packet has a 32-byte header, at most 4,096 bytes of payload, and a VC of Table 8.1. -/
def Packet.wellFormed (k : Packet) : Bool :=
  decide (k.vc < 12) && decide (k.header.length = 32) && decide (k.payload.length ≤ 4096)

/-- Whether a 32-bit instruction word is the custom instruction of an opcode with this funct3 and funct7 = 0, or one whose funct3 (above
`top`) or funct7 makes it illegal under that opcode (R58, R155). -/
def customOf (w : BitVec 32) (opc f3 top : Nat) : Bool :=
  let x := w.toNat
  let f := x / 4096 % 8
  let f7 := x / 2 ^ 25
  x % 128 == opc && ((f7 == 0 && f == f3) || f7 != 0 || decide (top < f))

/-- Whether a sideband message carries the COMMAND code of its row (Table 19.5). -/
def carries (code : Nat) (msg : List Byte) : Bool := msg.take 2 == [BitVec.ofNat 8 code, 0]

/-- Whether a command is well formed. -/
def Instr.wellFormed : Instr → Bool
  | .registerWrite _ _ _ => true
  | .modeWrite _ _ _ _ => true
  | .broadcastWrite _ _ => true
  | .setupLock => true
  | .pathHoldRelease _ _ => true
  | .calibrationSave _ _ => true
  | .calibrationRestore _ _ _ => true
  | .tqPush _ _ insn _ => customOf insn 0x0B 0 4
  | .tqSeta _ _ insn _ => customOf insn 0x0B 1 4
  | .tqStat _ _ insn => customOf insn 0x0B 2 4
  | .tqEcrd _ _ insn => customOf insn 0x0B 3 4
  | .tqClear _ _ insn => customOf insn 0x0B 4 4
  | .ldTile _ _ => true
  | .stTile _ _ => true
  | .mma _ _ _ => true
  | .mmaConv _ _ _ => true
  | .mmaPair3 _ _ _ => true
  | .accRd _ _ _ => true
  | .accWr _ _ => true
  | .tileAdd _ _ _ => true
  | .permute _ _ => true
  | .move _ _ => true
  | .put _ _ => true
  | .get _ _ => true
  | .atomic _ _ => true
  | .localMoveComplete _ _ _ => true
  | .wait _ _ => true
  | .waitSatisfied _ _ => true
  | .signal _ _ => true
  | .signalAfterIdle _ _ => true
  | .coreRun _ _ _ => true
  | .coreReset _ core => fits 7 core
  | .vecRun _ _ => true
  | .vecRunBegin _ _ => true
  | .vecRunComplete _ _ => true
  | .vadd _ _ => true
  | .vsub _ _ => true
  | .vmul _ _ => true
  | .vfma _ _ => true
  | .vfnma _ _ => true
  | .vmin _ _ => true
  | .vmax _ _ => true
  | .vabs _ _ => true
  | .vneg _ _ => true
  | .vrcp _ _ => true
  | .vrsqrt _ _ => true
  | .vexp2 _ _ => true
  | .vlog2 _ _ => true
  | .vand _ _ => true
  | .vor _ _ => true
  | .vxor _ _ => true
  | .vshl _ _ => true
  | .vshr _ _ => true
  | .vcmp _ _ => true
  | .vsel _ _ => true
  | .plog _ _ => true
  | .pack _ _ => true
  | .unpack _ _ => true
  | .mxpack _ _ => true
  | .mxunpack _ _ => true
  | .m8enc _ _ => true
  | .m8dec _ _ => true
  | .vperm _ _ => true
  | .vshuf _ _ => true
  | .vred _ _ => true
  | .viota _ _ => true
  | .viter _ _ => true
  | .vmovh _ _ => true
  | .vmovl _ _ => true
  | .ld _ _ => true
  | .st _ _ => true
  | .sum _ _ => true
  | .vsRd _ _ insn => customOf insn 0x2B 0 1
  | .vsRdw _ _ insn => customOf insn 0x2B 1 1
  | .vsRdwReturn _ _ => true
  | .talusRead _ _ errs => (errs.all (SymErr.wellFormed 16))
  | .talusWrite _ _ _ data _ errs => decide (data.length ≤ 128) && (errs.all (SymErr.wellFormed 16))
  | .retire _ => true
  | .clearCounts _ => true
  | .scrubRead _ errs => (errs.all (SymErr.wellFormed 16))
  | .stackTempUpdate _ _ => true
  | .stackTrainingComplete _ _ wires => decide (wires.length ≤ 320)
  | .pooledAccess _ _ => true
  | .uioCompletion _ _ _ data marks => decide (data.length ≤ 4096) && decide (marks.length ≤ 1024)
  | .uioTimeout _ _ => true
  | .expanderRemoved _ => true
  | .rangeStateWrite _ _ => true
  | .trackerGrant _ => true
  | .fenceRelease _ _ => true
  | .putArrive g => g.wellFormed
  | .getArrive g => g.wellFormed
  | .atomicArrive g => g.wellFormed
  | .notify g => g.wellFormed
  | .remoteResponse _ _ step seg64 status _ data marks => fits 40 step && fits 28 seg64 && fits 8 status && decide (data.length ≤ 4096) && decide (marks.length ≤ 1024)
  | .remoteTimeout _ _ => true
  | .clearHw _ => true
  | .portTrained _ _ _ => true
  | .ridgeFlit _ raw fec _ => decide (raw.length = 256) && fits 64 fec
  | .nak _ _ => true
  | .laneLockLoss _ _ => true
  | .retrainDone _ _ _ => true
  | .retrainTimeout _ => true
  | .portReset _ => true
  | .portClearCounts _ => true
  | .flowReturn _ => true
  | .packetForward _ _ k => k.wellFormed
  | .trailhead _ _ delay => fits 32 delay
  | .linkReportReceive _ _ _ => true
  | .linkMap term gen admitted dead => fits 16 term && fits 32 gen && admitted.all (fits 14) && (dead.all fun x => fits 14 x.1 && decide (x.2.1 < 6))
  | .trailSignSwitch _ _ => true
  | .broadcastForward _ skip left op fields delay => fits 14 skip && fits 14 left && fits 8 op && decide (fields.length ≤ 4096) && fits 64 delay
  | .trailheadWaitExpiry => true
  | .electTick => true
  | .elect _ serial term => fits 64 serial && fits 16 term
  | .electQuietExpiry => true
  | .join _ dims term version _ => fits 15 dims && fits 16 term && fits 32 version
  | .admitReply _ => true
  | .joinRetry => true
  | .heartbeatTick => true
  | .heartbeat _ _ _ version gen => fits 32 version && fits 32 gen
  | .standbyTakeover => true
  | .memberSilenceTimeout => true
  | .present _ => true
  | .memberTimeout _ => true
  | .membership _ version _ _ ms => fits 32 version && (ms.all fun m => fits 14 m.1 && fits 64 m.2.1 && fits 16 m.2.2)
  | .sync _ => true
  | .leave _ => true
  | .partitionReceive assign => (assign.all fun a => fits 14 a.1 && fits 16 a.2)
  | .contour _ _ delay value sendAt => fits 64 delay && fits 64 value && fits 64 sendAt
  | .deadlineFire _ _ => true
  | .localPosWrite _ _ => true
  | .contourReport => true
  | .contourReportReceive _ _ positionV lastSeen => fits 64 positionV && fits 64 lastSeen
  | .idleContourTick => true
  | .contourRepeatTick => true
  | .takeoverPublish => true
  | .ftimeValidExpiry => true
  | .eventCtrlWrite _ _ _ _ _ => true
  | .chainRead _ => true
  | .prefetchComplete _ => true
  | .stepReady _ _ => true
  | .bucketAdmit _ _ => true
  | .quarantineScanDone _ => true
  | .start _ g => g.wellFormed
  | .go _ g => g.wellFormed
  | .partialBlocks _ g => g.wellFormed
  | .blockAdd _ _ => true
  | .result _ g => g.wellFormed
  | .absent _ g => g.wellFormed
  | .resend _ g => g.wellFormed
  | .ownReq _ g => g.wellFormed
  | .own _ g => g.wellFormed
  | .bypassed _ g => g.wellFormed
  | .fetchReq _ g => g.wellFormed
  | .resultFp32 _ g => g.wellFormed
  | .shardDeadline _ _ => true
  | .partialStall _ _ _ => true
  | .startCmd _ => true
  | .stateFetchLand _ _ => true
  | .blockRun _ _ _ => true
  | .snap _ _ _ => true
  | .moments _ _ _ => true
  | .weights _ _ _ => true
  | .tag _ _ _ => true
  | .blockDone _ _ _ => true
  | .recover => true
  | .exportStart id _ _ => fits 32 id
  | .exportDone id => fits 32 id
  | .stepState _ _ step try_ _ _ _ _ => fits 40 step && fits 8 try_
  | .rejoinHoldExpiry _ _ _ => true
  | .collapse _ step try_ cause _ _ => fits 40 step && fits 8 try_ && fits 8 cause
  | .collapseResendTick _ => true
  | .collapseDrainDone _ => true
  | .collapseRestoreDone _ => true
  | .resume _ step try_ sendAt => fits 40 step && fits 8 try_ && fits 64 sendAt
  | .reduceControlResend => true
  | .reshardReq _ _ => true
  | .reshard _ _ effective _ => fits 40 effective
  | .reshardCmd _ => true
  | .resumeCmd => true
  | .clearStale _ => true
  | .sbStart _ _ _ _ => true
  | .sbStop _ => true
  | .sbContinue _ => true
  | .sbEntryRead _ => true
  | .sbDispatch _ => true
  | .hintComplete _ => true
  | .sbStepEnd _ => true
  | .sbBankSwitch _ => true
  | .sbCollapseSettle _ => true
  | .enqueueReservation g => g.wellFormed
  | .reservationGrant _ _ => true
  | .reservationResend _ _ => true
  | .enqueueSegment g => g.wellFormed
  | .commitTimeout _ _ => true
  | .queueRead _ _ => true
  | .dropRest _ _ => true
  | .queueClearHw _ _ => true
  | .travHeadWrite _ _ => true
  | .dispatch _ => true
  | .combine _ => true
  | .returnRows _ _ => true
  | .returnTimeout _ _ => true
  | .combineCompute _ _ => true
  | .hostEnumerate _ => true
  | .unbindNotice msg => carries 0x05 msg
  | .cxlLinkDown => true
  | .attach => true
  | .detach => true
  | .ringCfgWrite _ _ _ _ _ _ _ _ => true
  | .doorbellInvalidate _ line => decide (line.length = 64)
  | .doorbellPoll _ line => decide (line.length = 64)
  | .ringFetch data => decide (data.length ≤ 4096)
  | .nopDesc _ => true
  | .copy _ => true
  | .descAtomic _ => true
  | .launch _ => true
  | .position _ => true
  | .descStepReady _ => true
  | .update _ => true
  | .exportDesc _ => true
  | .orderRelease _ => true
  | .completionPost => true
  | .spillDrain _ => true
  | .spillLoss => true
  | .msiModTimeout _ => true
  | .hdmAccess _ _ data _ => decide (data.length = 0 ∨ data.length = 64)
  | .bisnpComplete _ data _ => decide (data.length = 0 ∨ data.length = 64)
  | .ideKm _ _ _ => true
  | .functionReset => true
  | .handleClearHw => true
  | .saddleFlit _ _ _ _ data errs _ => decide (data.length = 512) && (errs.all (SymErr.wellFormed 64))
  | .saddleTrainingDone _ _ => true
  | .colFlit _ _ offered _ => (offered.all fun f => decide (f.2.length = 60))
  | .colRetrainTimeout _ => true
  | .clockLoss _ => true
  | .dieReset _ => true
  | .rejoin _ => true
  | .clockStableExpiry _ => true
  | .dieStartupDone _ => true
  | .dieRestoreComplete _ _ => true
  | .fatalDie _ => true
  | .mctpControl _ _ => true
  | .pldmMonitor => true
  | .pldmFirmwareUpdate _ _ _ _ _ campDigest crestDigest _ _ => fits 256 campDigest && fits 256 crestDigest
  | .inputSample _ => true
  | .holdExpiry => true
  | .rampExpiry => true
  | .converter _ => true
  | .stage2Fault _ => true
  | .telemetryTick _ _ => true
  | .sensorRead temps => decide (temps.length = 76)
  | .pacingRelease _ => true
  | .thermalForced => true
  | .thermalForceClear => true
  | .clusterResume _ _ => true
  | .powerOnReset b => decide (b.serials.length = 12)
  | .perstAssert => true
  | .perstRelease b => decide (b.serials.length = 12)
  | .cxlConventionalReset b => decide (b.serials.length = 12)
  | .sysRefclkLoss => true
  | .rdgRefclkLoss => true
  | .cxlRefclkLoss => true
  | .bivouac => true
  | .bivouacEntryDone => true
  | .wake => true
  | .bivouacExitDone _ => true
  | .refuge => true
  | .refugeEntryDone => true
  | .refugeResumeDone _ _ => true
  | .signRequest => true
  | .indexReserved => true
  | .treeBuildDone => true
  | .operatorKeySet _ msg => carries 0x01 msg
  | .policySet msg => carries 0x02 msg
  | .massifPlanSet msg => carries 0x03 msg
  | .partition msg => carries 0x04 msg
  | .packageReset msg b => carries 0x06 msg && decide (b.serials.length = 12)
  | .stateWake msg => carries 0x07 msg
  | .attest mctp msg => !mctp || carries 0x10 msg
  | .installTx _ _ => true
  | .installRx _ _ => true
  | .request _ => true
  | .selftestScheduleTick => true
  | .testReq _ _ _ _ => true
  | .testGrant _ _ _ threshold => fits 64 threshold
  | .testReqRetry => true
  | .testHold _ _ => true
  | .selftestDrainDone => true
  | .selftestTestDone readings _ => readings.all fun r => fits 32 r.errors && fits 32 r.nominal
  | .testDone _ _ => true
  | .selftestSlotExpiry _ => true
  | .errorRecord => true
  | .recordWindowExpiry _ => true
  | .holdDrain => true
  | .holdOverflow => true
  | .extest => true
  | .extestPulse => true
  | .extestTrain => true
  | .samplePreload b => decide (b.serials.length = 12)
  | .idcode b => decide (b.serials.length = 12)
  | .bypass _ b => decide (b.serials.length = 12)
  | .trst b => decide (b.serials.length = 12)
  | .resumeRequest _ => true
  | .hostRequestCompletion _ _ _ _ data marks => decide (data.length ≤ 4096) && decide (marks.length ≤ 1024)
  | .colLinkTrained _ => true
  | .spurLoadStore _ _ _ _ _ _ _ _ => true
  | .spurCsrWrite _ _ _ _ => true
  | .cxlLinkUp _ _ => true
  | .signRateRelease => true

end Sys2Proof
end

