-- ==== Sys2Proof/Tests/Slice0.lean ====
section
/-!
SUPPORT. Small tests: commands that are not well formed, and for each statement states and operands that meet its hypotheses.
-/
set_option Elab.async false
namespace Sys2Proof.Tests

open Sys2Proof Sys2Proof.Machine

/-! ### Ill-formed commands: WellFormed refuses each -/

/-- A segment whose fields all fit. -/
def goodSeg : Segment := ⟨1, false, true, 7, 3, 0, 5, 0, 2, 0x1000, 0, 0, [], []⟩

/-- A packet that fits, and the words of TQ.STAT and VS.RD. -/
def goodPacket : Packet := ⟨0, 1, false, List.replicate 32 0, []⟩
def insnStat : BitVec 32 := 0x200B
def insnVsRd : BitVec 32 := 0x2B

theorem test_wf_good : (Instr.putArrive goodSeg).wellFormed = true ∧ (Instr.packetForward 0 none goodPacket).wellFormed = true ∧
    (Instr.tqStat 0 0 insnStat).wellFormed = true ∧ (Instr.tqStat 0 0 (insnStat ||| 0x2000000)).wellFormed = true ∧
    (Instr.vsRd 0 0 insnVsRd).wellFormed = true ∧ Instr.bivouac.wellFormed = true := by decide

/-- An instruction of another opcode, or another one of its own opcode, is not the command's (Tables 2.4, 5.18). -/
theorem test_wf_spur :
    ([Instr.tqPush 0 0 0x33 0, .tqPush 0 0 0x100B 0, .tqSeta 0 0 0x200B 0, .tqStat 0 0 0x300B, .tqEcrd 0 0 0x400B, .tqClear 0 0 0x0B,
      .vsRd 0 0 0x102B, .vsRdw 0 0 0x2B].all fun c => !c.wellFormed) = true := by decide

theorem test_wf_segment_fields :
    ([{ goodSeg with cls := 8 }, { goodSeg with job := 65536 }, { goodSeg with srcDev := 16384 }, { goodSeg with srcDie := 4 },
      { goodSeg with tag := 4096 }, { goodSeg with aop := 16 }, { goodSeg with step := 2 ^ 40 }, { goodSeg with address := 2 ^ 48 },
      { goodSeg with len64 := 2 ^ 28 }, { goodSeg with seg64 := 2 ^ 28 }, { goodSeg with marks := [true] }].all
        fun g => !g.wellFormed) = true := by decide

theorem test_wf_segment_payload : ({ goodSeg with payload := List.replicate 4097 0 } : Segment).wellFormed = false := by
  simp [Segment.wellFormed, -List.reduceReplicate]

theorem test_wf_packet :
    ([{ goodPacket with vc := 12 }, { goodPacket with header := [] }].all fun k => !k.wellFormed) = true := by decide

theorem test_wf_packet_payload : ({ goodPacket with payload := List.replicate 4097 0 } : Packet).wellFormed = false := by
  simp [Packet.wellFormed, -List.reduceReplicate]

theorem test_wf_flit :
    (Instr.ridgeFlit 0 [] 0 false).wellFormed = false ∧
    (Instr.ridgeFlit 0 (List.replicate 256 0) 0 false).wellFormed = true ∧
    (Instr.ridgeFlit 0 (List.replicate 256 0) (2 ^ 64) false).wellFormed = false ∧
    (Instr.colFlit 0 true [(0, [])] []).wellFormed = false ∧ (Instr.saddleFlit 0 0 0 0 [] [] none).wellFormed = false := by
  simp [Instr.wellFormed, fits, -List.reduceReplicate]

theorem test_wf_segment_commands :
    let g : Segment := { goodSeg with cls := 8 }
    ([Instr.putArrive g, .getArrive g, .atomicArrive g, .notify g, .start 0 g, .go 0 g, .partialBlocks 0 g, .result 0 g, .absent 0 g,
      .resend 0 g, .ownReq 0 g, .own 0 g, .bypassed 0 g, .fetchReq 0 g, .resultFp32 0 g, .enqueueReservation g,
      .enqueueSegment g].all fun c => !c.wellFormed) = true := by decide

theorem test_wf_talus :
    ([Instr.talusRead 0 0 [⟨16, 0, 1⟩], .talusRead 0 0 [⟨0, 20, 1⟩], .talusWrite 0 0 0 [] false [⟨16, 0, 1⟩],
      .scrubRead 0 [⟨0, 20, 1⟩], .saddleFlit 0 0 0 0 [] [⟨32, 0, 1⟩] none].all
        fun c => !c.wellFormed) = true := by decide

theorem test_wf_long_data :
    (Instr.talusWrite 0 0 0 (List.replicate 129 0) false []).wellFormed = false ∧
    (Instr.stackTrainingComplete 0 true (List.replicate 321 0)).wellFormed = false ∧
    (Instr.uioCompletion 0 0 0 (List.replicate 4097 0) []).wellFormed = false ∧
    (Instr.uioCompletion 0 0 0 [] (List.replicate 1025 true)).wellFormed = false ∧
    (Instr.remoteResponse 0 0 0 0 0 false (List.replicate 4097 0) []).wellFormed = false ∧
    (Instr.remoteResponse 0 0 0 0 0 false [] (List.replicate 1025 true)).wellFormed = false ∧
    (Instr.hostRequestCompletion none 0 0 0 (List.replicate 4097 0) []).wellFormed = false ∧
    (Instr.hostRequestCompletion none 0 0 0 [] (List.replicate 1025 true)).wellFormed = false ∧
    (Instr.ringFetch (List.replicate 4097 0)).wellFormed = false ∧
    (Instr.broadcastForward none 0 0 0 (List.replicate 4097 0) 0).wellFormed = false := by
  simp [Instr.wellFormed, -List.reduceReplicate]

theorem test_wf_remote :
    ([Instr.remoteResponse 0 0 (2 ^ 40) 0 0 false [] [], .remoteResponse 0 0 0 (2 ^ 28) 0 false [] [],
      .remoteResponse 0 0 0 0 256 false [] [],
      .packetForward 0 none { goodPacket with vc := 12 }, .coreReset 0 128].all fun c => !c.wellFormed) = true := by decide

theorem test_wf_fabric :
    ([Instr.trailhead 0 [] (2 ^ 32),
      .linkMap (2 ^ 16) 0 [] [], .linkMap 0 (2 ^ 32) [] [], .linkMap 0 0 [2 ^ 14] [], .linkMap 0 0 [] [(2 ^ 14, 0, 0, 0)],
      .linkMap 0 0 [] [(0, 6, 0, 0)], .broadcastForward none (2 ^ 14) 0 0 [] 0, .broadcastForward none 0 (2 ^ 14) 0 [] 0,
      .broadcastForward none 0 0 256 [] 0, .broadcastForward none 0 0 0 [] (2 ^ 64), .elect 0 (2 ^ 64) 0, .elect 0 0 (2 ^ 16)].all fun c => !c.wellFormed) = true := by decide

theorem test_wf_membership :
    ([Instr.join 0 (2 ^ 15) 0 0 [], .join 0 0 (2 ^ 16) 0 [],
      .join 0 0 0 (2 ^ 32) [], .heartbeat 0 0 0 (2 ^ 32) 0, .heartbeat 0 0 0 0 (2 ^ 32),
      .membership 0 (2 ^ 32) 0 0 [], .membership 0 0 0 0 [(2 ^ 14, 0, 0)], .membership 0 0 0 0 [(0, 2 ^ 64, 0)],
      .membership 0 0 0 0 [(0, 0, 2 ^ 16)], .partitionReceive [(2 ^ 14, 0)], .partitionReceive [(0, 2 ^ 16)]].all
        fun c => !c.wellFormed) = true := by decide

/-- A sideband message is the command of the code it carries (R477, Table 19.5). -/
theorem test_wf_sideband :
    (Instr.policySet [0x02, 0x00]).wellFormed = true ∧
    ([Instr.operatorKeySet true [2, 0], .policySet [3, 0], .massifPlanSet [4, 0], .partition [5, 0], .unbindNotice [6, 0],
      .packageReset [7, 0] ⟨0, true, false, 0, List.replicate 12 0⟩, .stateWake [0x10, 0], .attest true [1, 0]].all
        fun c => !c.wellFormed) = true := by decide

theorem test_wf_steps :
    ([Instr.contour 0 0 (2 ^ 64) 0 0, .contour 0 0 0 (2 ^ 64) 0, .contour 0 0 0 0 (2 ^ 64), .contourReportReceive 0 0 (2 ^ 64) 0,
      .contourReportReceive 0 0 0 (2 ^ 64), .exportStart (2 ^ 32) [] 0, .exportDone (2 ^ 32), .stepState 0 0 (2 ^ 40) 0 0 0 0 false,
      .stepState 0 0 0 256 0 0 0 false, .collapse 0 (2 ^ 40) 0 0 false none, .collapse 0 0 256 0 false none,
      .collapse 0 0 0 256 false none, .resume 0 (2 ^ 40) 0 0, .resume 0 0 256 0, .resume 0 0 0 (2 ^ 64),
      .reshard 0 0 (2 ^ 40) 0].all fun c => !c.wellFormed) = true := by decide

theorem test_wf_package :
    (Instr.hdmAccess 0 0 [0] false).wellFormed = false ∧ (Instr.bisnpComplete 0 [0] false).wellFormed = false ∧
    (Instr.sensorRead []).wellFormed = false ∧
    (Instr.testGrant 0 0 none (2 ^ 64)).wellFormed = false ∧
    (Instr.pldmFirmwareUpdate true true true 0 0 (2 ^ 256) 0 0 []).wellFormed = false ∧
    (Instr.pldmFirmwareUpdate true true true 0 0 0 (2 ^ 256) 0 []).wellFormed = false ∧
    (Instr.doorbellInvalidate 0 []).wellFormed = false ∧ (Instr.doorbellPoll 0 []).wellFormed = false ∧
    (Instr.powerOnReset ⟨0, true, false, 0, []⟩).wellFormed = false ∧
    (Instr.selftestTestDone [⟨0, 0, 0, 2 ^ 32, 0⟩] false).wellFormed = false := by decide

/-! ### Witnesses: a state and operands for the hypotheses of each statement, clause by clause -/

/-- Core 3 of die C0 with its queue: TA 0 own scratch, TA 1 own ledge, TA 2 Talus of stack T0, the rest own scratch. -/
def tas : List Word := [0x400001C00000, 0x400001E40000, 0] ++ List.replicate 13 0x400001C00000
def entry (w : Word) : TqEntry := ⟨w, tas, 0, 0, 0⟩
def live : State := State.reset.setF CORE_CTRL_RUN 0 3 1
def onCore (f : Core → Core) (s : State := live) : State := s.updCore 0 3 f
def head (w : Word) : State := onCore fun c => { c with tq := [entry w] }

/-- Words written out from Tables 2.7 to 2.19: OPC in bits 63 to 58. -/
def wMma : Word := 0x2000000000000002          -- M = N = 1, K = 0, TAB = 1
def wMmaVec : Word := 0x2000000040000003       -- K = 1, TAB = 1, NROUTE
def wConv : Word := 0x2400000000000220         -- TAA = TAB = 1
def wPair3 : Word := 0x2800000037400002        -- FMTA = FMTB = 0xD, TAB = 1
def wAccRd : Word := 0x4000000000000000
def wAccWr : Word := 0x4400000000000000
def wTileAdd : Word := 0x4800000000000000
def wLdTile : Word := 0x0400000000000000
def wLdTalus : Word := 0x0404000000000000      -- TAS = 2
def wStTile : Word := 0x0800000000000000
def wVecRun : Word := 0x6000000000000000
def wPermute : Word := 0x6400200000000000      -- TAD = 1
def wMove : Word := 0x8000000000000000
def wWait0 : Word := 0xC000000000000000        -- KIND 0, EC 0, VALUE 0
def wWait1 : Word := 0xC000001000000000        -- VALUE 1
def wSignal : Word := 0xC400000000000000
def wSignalAfter : Word := 0xC402000000000000  -- AFTER

def mayIssueB (s : State) (opc : Nat) (w : Word) : Bool :=
  s.coreLive 0 3 && !s.tqStopped 0 3 && !(s.coreOf 0 3).held && !s.windowWaits 0 3 && (s.coreOf 0 3).tq.head? == some (entry w) &&
  (entry w).opc == opc && s.tqFault 0 3 (entry w) == none

/-- No error stands in the stacks or in an accumulator file, by the lists that hold them. -/
def noErrsB (s : State) : Bool := s.quiet && s.cores.all fun c => c.2.ecc.isEmpty

theorem kget_mem {α : Type} (d : α) (m : KMap α) (k : Nat) : kget d m k = d ∨ ∃ p ∈ m, p.2 = kget d m k := by
  induction m with
  | nil => exact .inl rfl
  | cons p m ih =>
    obtain ⟨j, v⟩ := p
    unfold kget
    split
    · exact .inr ⟨(j, v), by simp, rfl⟩
    · exact ih.imp id fun ⟨p, h, e⟩ => ⟨p, by simp [h], e⟩

theorem noErrs_of {s : State} (h : noErrsB s = true) : s.NoErrs := by
  simp only [noErrsB, Bool.and_eq_true, List.all_eq_true, List.isEmpty_iff] at h
  refine ⟨h.1, fun k => ?_⟩
  rcases kget_mem Core.zero s.cores k with e | ⟨p, hp, e⟩
  · rw [State.core, e]; rfl
  · rw [State.core, ← e]; exact h.2 p hp

theorem mayIssue_of {s : State} {opc : Nat} {w : Word} (h : mayIssueB s opc w = true) : s.MayIssue 0 3 opc (entry w) := by
  simpa [mayIssueB, State.MayIssue, and_assoc] using h

theorem witness_SpurQueueInstructions :
    live.spurReady 0 3 = true ∧ (live.coreOf 0 3).tq.length < 32 ∧
    (onCore fun c => { c with tq := List.replicate 32 (entry 0) }).spurReady 0 3 = true ∧
    32 ≤ ((onCore fun c => { c with tq := List.replicate 32 (entry 0) }).coreOf 0 3).tq.length ∧
    ((onCore fun c => { c with stall := some (.push 5) }).coreOf 0 3).stall = some (.push 5) ∧
    (let s := onCore fun c => { c with stall := some (.rdw 5 7 1) }
     s.coreLive 0 3 = true ∧ s.flag CORE_CTRL_RUN 0 3 = true ∧ (s.coreOf 0 3).stall = some (.rdw 5 7 1)) ∧
    (∀ p ∈ [((0x0B : BitVec 32), 0), (0x100B, 1), (0x200B, 2), (0x300B, 3), (0x400B, 4)],
      spurIs p.1 0x0B p.2 = true ∧ spurIs (p.1 ||| 0x80000000) 0x0B p.2 = false ∧ spurIs 0x500B 0x0B p.2 = false) ∧
    (spurIs 0x178B 0x0B 1 = true ∧ spurRd 0x178B = 15 ∧ spurIs 0x180B 0x0B 1 = true ∧ spurRd 0x180B = 16) ∧
    spurIs 0xF0300B 0x0B 3 = true ∧ spurRs2 0xF0300B = 15 ∧ spurIs 0x100300B 0x0B 3 = true ∧ spurRs2 0x100300B = 16 := by decide

theorem witness_QueueControlInstructions :
    (head wWait0).MayIssue 0 3 0x30 (entry wWait0) ∧ (head wWait0).waitHolds 0 3 (entry wWait0) = true ∧
    (head wWait1).MayIssue 0 3 0x30 (entry wWait1) ∧ (head wWait1).waitHolds 0 3 (entry wWait1) = false ∧
    (head wSignal).MayIssue 0 3 0x31 (entry wSignal) ∧ (entry wSignal).f 49 49 = 0 ∧ (entry wSignal).f 53 50 < 12 ∧
    (head wVecRun).MayIssue 0 3 0x18 (entry wVecRun) ∧ ((head wVecRun).coreOf 0 3).vec.length < 2 :=
  ⟨mayIssue_of (by decide), by decide, mayIssue_of (by decide), by decide, mayIssue_of (by decide), by decide, by decide,
    mayIssue_of (by decide), by decide⟩

/-- A run of the vector pipe. -/
def run0 (e : TqEntry) : VecRun := { VecRun.enter e false true none with skip := true }

theorem witness_QueueControlInstructions_held :
    (let s := onCore (fun c => { c with vec := [run0 (entry wVecRun)] }) (head wSignalAfter)
     s.MayIssue 0 3 0x31 (entry wSignalAfter) ∧ (entry wSignalAfter).f 49 49 = 1 ∧ s.coreIdle 0 3 = false) ∧
    (let s := onCore (fun c => { c with held := true }) (head wWait0)
     s.coreLive 0 3 = true ∧ s.tqStopped 0 3 = false ∧ (s.coreOf 0 3).held = true ∧
     (s.coreOf 0 3).tq.head? = some (entry wWait0) ∧ (entry wWait0).opc = 0x30 ∧
     s.waitHolds 0 3 (entry wWait0) = true) ∧
    (let s := onCore (fun c => { c with held := true }) (head wSignalAfter)
     s.coreLive 0 3 = true ∧ s.tqStopped 0 3 = false ∧ (s.coreOf 0 3).held = true ∧
     (s.coreOf 0 3).tq.head? = some (entry wSignalAfter) ∧ (entry wSignalAfter).opc = 0x31 ∧
     s.coreIdle 0 3 = true) :=
  ⟨⟨mayIssue_of (by decide), by decide, by decide⟩, by decide, by decide⟩

theorem witness_AccumulatorInstructions :
    ((head wMma).MayIssue 0 3 0x08 (entry wMma) ∧ (head wMma).vectorRoute 0 (entry wMma) = false) ∧
    ((head wMmaVec).MayIssue 0 3 0x08 (entry wMmaVec) ∧ (head wMmaVec).vectorRoute 0 (entry wMmaVec) = true ∧
      ((head wMmaVec).coreOf 0 3).vec.length < 2) ∧
    (head wConv).MayIssue 0 3 0x09 (entry wConv) ∧ (head wPair3).MayIssue 0 3 0x0A (entry wPair3) ∧
    (head wAccRd).MayIssue 0 3 0x10 (entry wAccRd) ∧ (head wAccWr).MayIssue 0 3 0x11 (entry wAccWr) ∧
    (head wTileAdd).MayIssue 0 3 0x12 (entry wTileAdd) :=
  ⟨⟨mayIssue_of (by decide), by decide⟩, ⟨mayIssue_of (by decide), by decide, by decide⟩, mayIssue_of (by decide),
    mayIssue_of (by decide), mayIssue_of (by decide), mayIssue_of (by decide), mayIssue_of (by decide)⟩

/-- The worked MMA of chapter 17 (R444): its 4,096 slices at duty 1/4 have their last issue 16,380 cycles after the first;
at a duty below 1/1 an issue waits for the next cycle whose count is a multiple of k. -/
theorem test_pacing_worked_example :
    lastIssue 4 0 4096 = 163800 ∧ lastIssue 1 0 4096 = 40950 ∧
    lastIssue 4 40 1 = 40 ∧ lastIssue 4 41 1 = 80 := by decide


/-- An accumulator instruction that has not started. -/
def accOf (w : Word) : AccOp := ⟨entry w, [], 64, false, 0, 0⟩

theorem witness_AccumulatorInstructions_room :
    ((head wMma).accRoom 0 3 = true ∧ ((head wMma).coreOf 0 3).acc = [] ∧ ((head wMma).coreOf 0 3).vec = []) ∧
    (let s := onCore (fun c => { c with acc := [accOf wMma, accOf wMma] }) (head wMma)
     s.accRoom 0 3 = false ∧ mayIssueB s 0x08 wMma = true) ∧
    (let s := onCore (fun c => { c with vec := [run0 (entry wVecRun), run0 (entry wVecRun)] }) (head wMmaVec)
     2 ≤ (s.coreOf 0 3).vec.length ∧ mayIssueB s 0x08 wMmaVec = true ∧ s.vectorRoute 0 (entry wMmaVec) = true) := by decide

theorem witness_LocalMoveInstructions :
    (∀ p ∈ [(wLdTile, 0x01), (wStTile, 0x02), (wPermute, 0x19), (wMove, 0x20)],
      mayIssueB (head p.1) p.2 p.1 = true ∧ ((head p.1).coreOf 0 3).moves.length < 16 ∧
      (head p.1).moveHeld 0 3 (entry p.1) = false) ∧
    (let s := (head wLdTalus).setF STACK_STATE_STATE 0 0 1
     mayIssueB s 0x01 wLdTalus = true ∧ (s.coreOf 0 3).moves.length < 16 ∧ s.moveHeld 0 3 (entry wLdTalus) = true) ∧
    (let s := onCore fun c => { c with moves := [⟨entry wMove, false, true, 0⟩] }
     (s.coreOf 0 3).moves[0]? = some ⟨entry wMove, false, true, 0⟩ ∧ s.dieRunning 0 = true) ∧
    (∀ p ∈ [(State.reset, false), (State.reset.setF STACK_STATE_STATE 0 0 1, true)],
      let s := onCore (fun c => { c with moves := [⟨entry wLdTalus, false, false, 0⟩] }) p.1
      (s.coreOf 0 3).moves[0]? = some ⟨entry wLdTalus, false, false, 0⟩ ∧ s.dieRunning 0 = true ∧
      s.moveHeld 0 3 (entry wLdTalus) = p.2) := by decide

/-- A move that waited for its stack: what releaseAll makes of it where the stack runs, and where it still trains (R166, R175). -/
def parkedMove (st : Nat) : State :=
  (onCore (fun c => { c with moves := [⟨entry wLdTalus, false, false, 0⟩] }) (State.reset.setF STACK_STATE_STATE 0 0 st)).parkMove 0 3 0
    (entry wLdTalus)

theorem witness_LocalMoveInstructions_waiting :
    (∀ p ∈ [(2, true), (1, false)],
      let s := parkedMove p.1
      s.dieRunning 0 = true ∧ (s.coreOf 0 3).moves[0]? = some ⟨entry wLdTalus, false, false, 0⟩ ∧
      (s.releaseAll.coreOf 0 3).moves[0]? = some ⟨entry wLdTalus, false, p.2, 0⟩) ∧
    ((parkedMove 1).coreOf 0 3).moves.find? (fun x => !x.remote && !x.copied && x.uid == 0) = some ⟨entry wLdTalus, false, false, 0⟩ ∧
    (parkedMove 1).moveHeld 0 3 (entry wLdTalus) = true ∧
    ((parkedMove 2).setArrivals []).moveHeld 0 3 (entry wLdTalus) = false := by decide +kernel

theorem witness_QueueFaults :
    (let w : Word := 0x2000000080000002 ||| 0x40000000000  -- N = 2, RSV clear, TAA = TA 0
     let s := onCore fun c => { c with tq := [{ entry w with ta := List.replicate 16 1 }] }
     s.coreLive 0 3 = true ∧ s.tqStopped 0 3 = false ∧ (s.coreOf 0 3).held = false ∧ s.windowWaits 0 3 = false ∧
     s.tqFault 0 3 { entry w with ta := List.replicate 16 1 } = some 5 ∧
     (entry w).opc = 0x08) := by decide

theorem witness_CoreRunAndReset :
    State.reset.dieRunning 0 = true ∧ State.reset.flag CORE_CTRL_RUN 0 3 = false ∧ State.reset.awake = true ∧ 96 ≤ 96 ∧
    State.reset.power.inReset = false ∧ (State.reset.setPower fun p => { p with inReset := true }).power.inReset = true := by
  decide

/-- A run that has begun, with one word of code. -/
def runOf (w : Nat) : VecRun := { run0 (entry wVecRun) with begun := true, code := [w] }
def vecState (r : VecRun) : State := onCore fun c => { c with vec := [r] }

theorem witness_CrestRegisterOperations : ∀ row ∈ crestRegisterOps,
    (vecState (runOf (row.2.1 * 2 ^ 26))).CrestNext 0 3 row.2.1 (runOf (row.2.1 * 2 ^ 26)) (row.2.1 * 2 ^ 26) := by
  intro row h
  simp only [crestRegisterOps, List.mem_cons, List.not_mem_nil, or_false] at h
  rcases h with rfl | rfl | rfl | rfl | rfl | rfl | rfl | rfl | rfl | rfl | rfl | rfl | rfl | rfl | rfl | rfl | rfl | rfl |
    rfl | rfl | rfl | rfl | rfl | rfl | rfl | rfl | rfl | rfl | rfl | rfl | rfl | rfl | rfl | rfl | rfl <;>
  exact ⟨by decide, by decide, rfl, rfl, rfl, by decide⟩

/-- A run whose stream 0 starts at an offset in own scratch. -/
def memRun (op : Nat) (a : Nat) : VecRun := { runOf (op * 2 ^ 26) with offsets := [a], strides := [0] }

theorem witness_CrestLoadStore :
    (∀ op ∈ [0x38, 0x39],
      ((vecState (memRun op 0)).pipeLive 0 3 = true ∧ ((vecState (memRun op 0)).coreOf 0 3).vec.head? = some (memRun op 0) ∧
        cOP (op * 2 ^ 26) = op ∧ accessFaultOf 0 3 ((memRun op 0).address (op * 2 ^ 26)) (accessBytes (cSZ (op * 2 ^ 26))) = none) ∧
      accessFaultOf 0 3 ((memRun op 0x40000000).address (op * 2 ^ 26)) (accessBytes (cSZ (op * 2 ^ 26))) ≠ none) := by decide

/-! #### Vector runs, Spur accesses, the Talus controllers -/

/-- The base of core 3's own scratch on die C0, where these runs' image stands. -/
def img : Nat := 0x400001C00000

theorem witness_VectorRunLifecycle :
    (let s := ((vecState (run0 (entry wVecRun))).setByte img 1).setByte (img + 0x83) 4  -- LEN 1, one VADD
     s.pipeLive 0 3 = true ∧ (s.coreOf 0 3).vec.head? = some (run0 (entry wVecRun)) ∧ s.imageFault 0 3 0 = none) ∧
    (let s := vecState (run0 (entry wVecRun))
     s.pipeLive 0 3 = true ∧ s.imageFault 0 3 0 = some (1, 0) ∧ s.flag VEC_FAULT_VALID 0 3 = false) ∧
    (let s := (vecState (run0 (entry wVecRun))).setF VEC_FAULT_VALID 0 3 1
     s.pipeLive 0 3 = true ∧ s.imageFault 0 3 0 = some (1, 0) ∧ s.flag VEC_FAULT_VALID 0 3 = true) ∧
    (let r := { run0 (entry wVecRun) with skip := true }
     let s := (vecState r).setF VEC_FAULT_VALID 0 3 1
     s.pipeLive 0 3 = true ∧ (s.coreOf 0 3).vec.head? = some r ∧ r.begun = false ∧ s.flag VEC_FAULT_VALID 0 3 = true) ∧
    (let r := { runOf 0 with done := true, work := [(2, ⟨7, false⟩)] }
     (vecState r).pipeLive 0 3 = true ∧ ((vecState r).coreOf 0 3).vec.head? = some r) := by decide

theorem witness_SpurReadsAndWrites :
    live.spurReady 0 3 = true ∧
    (spurIs 0x70002B 0x2B 0 = true ∧ spurRs2 0x70002B = 7 ∧ spurIs 0x80002B 0x2B 0 = true ∧ spurRs2 0x80002B = 8 ∧
      spurIs 0x70102B 0x2B 1 = true ∧ spurRs2 0x70102B = 7 ∧ spurIs 0x70202B 0x2B 0 = false ∧ spurIs 0x70202B 0x2B 1 = false) ∧
    (live.coreOf 0 3).vecPushed ≤ (live.coreOf 0 3).vecDone ∧
    (let s := onCore fun c => { c with vecPushed := 1 }
     s.spurReady 0 3 = true ∧ (s.coreOf 0 3).vecDone < (s.coreOf 0 3).vecPushed ∧ s.tqStopped 0 3 = false) ∧
    (let s := onCore fun c => { c with vecPushed := 1, vecDone := 1, stall := some (.rdw 5 7 1) }
     (s.coreOf 0 3).stall = some (.rdw 5 7 1) ∧ s.coreLive 0 3 = true ∧
     (kget Slot.zero (s.coreOf 0 3).regs.slots 7).pois = false) ∧
    (∀ store : Bool, live.spurHeld 0 img 8 store = false ∧ spurPlace img 8 store = .memory ∧ live.extentReach img 8 = .ok ∧
      live.poisoned img 8 = false ∧ spurPlace 0x800004000001 8 store = .nothing ∧
      spurPlace 0x800004000000 8 store = .window 0x88000 ∧ live.pairWaits 0 0x800004000000 = false ∧
      live.dieRunning (dieOfOffset 0x88000) = true ∧ (live.setF DIE_STATE_STATE 0 0 1).dieRunning (dieOfOffset 0x88000) = false) ∧
    (let s := live.setPoison img 8 true
     s.poisoned img 8 = true ∧ s.spurHeld 0 img 8 false = false ∧ s.extentReach img 8 = .ok) := by decide

theorem witness_SpurReadsAndWrites_reach :
    live.NoErrs ∧ (live.setPoison img 8 true).NoErrs ∧
    (∀ store : Bool, let s := live.setF STACK_STATE_STATE 0 0 1
      s.spurReady 0 3 = true ∧ spurPlace 0 8 store = .memory ∧ s.spurHeld 0 0 8 store = true) :=
  ⟨noErrs_of (by decide), noErrs_of (by decide), by decide⟩

/-- The rows of a register found by its offset accept a value with no reserved bit set, and refuse another. -/
theorem witness_SpurReadsAndWrites_window :
    spurPlace 0x800004000000 8 true = .window 0x88000 ∧
    (findReg 0x88000).map (fun x => (rsvClean x.1.rows 0, x.2)) = some (true, (0, 0)) ∧
    (findReg 0x88000).map (fun x => rsvClean x.1.rows 0xFFFFFFFFFFFFFFFF) = some false ∧
    State.reset.dieRunning (dieOfOffset 0x88000) = true := by decide +kernel

theorem witness_SpurReadsAndWrites_csr :
    (0xFFFFFFFFFF : Word).toNat < 2 ^ 40 ∧ (0xFFFFFFFF : Word).toNat < 2 ^ 32 ∧ (0x3FF : Word).toNat < 2 ^ 10 ∧
    (∀ v ∈ [(0x8000000000000000 : Word), 0], bits v.toNat 62 56 = 0 ∧ bits v.toNat 41 32 = 0) := by simp [bits]

/-- Stack T0 in the states of Table 6.4, and behind a die that does not run. -/
def stackIn (st : Nat) : State := State.reset.setF STACK_STATE_STATE 0 0 st
def stackCut : State := (stackIn 2).setF DIE_STATE_STATE 0 0 1

/-- A stack as a controller finds it: free, behind an earlier write to the granule, or in a state of its own. -/
def stackBehind : State := (stackIn 2).setArrivals [⟨[(granuleAddr 0 0, 128, true)], .talus 0 (.read 0 [])⟩]

theorem witness_TalusReads : ∀ write : Bool, ∀ granule ∈ [0, 0x1FFFFFFF],
    ((stackIn 2).stackReach 0 = .ok ∧ (stackIn 2).granuleErrs 0 granule = [] ∧
      (stackIn 2).stackHeld (granuleAddr 0 granule) 128 write = false) ∧
    (stackIn 1).stackHeld (granuleAddr 0 granule) 128 write = true ∧
    stackBehind.stackHeld (granuleAddr 0 0) 128 write = true ∧
    ((stackIn 4).stackReach 0 = .retired ∧ (stackIn 4).stackHeld (granuleAddr 0 granule) 128 write = false) ∧
    (stackCut.stackReach 0 = .unreachable ∧ stackCut.stackHeld (granuleAddr 0 granule) 128 write = false) ∧
    ((stackIn 0).stackReach 0 = .unmapped ∧ (stackIn 0).stackHeld (granuleAddr 0 granule) 128 write = false) := by decide

theorem witness_TalusSymbolErrors :
    ((stackIn 2).stackReach 0 = .ok ∧ (stackIn 2).stackHeld (granuleAddr 0 0) 128 false = false ∧
      (stackIn 2).poisoned (granuleAddr 0 0) 128 = false ∧ (stackIn 2).granuleErrs 0 0 = [] ∧ (stackIn 2).deadSymbol 0 15 = none) ∧
    (let s := (stackIn 2).setDead 0 15 19
     s.stackReach 0 = .ok ∧ s.stackHeld (granuleAddr 0 0) 128 false = false ∧ s.poisoned (granuleAddr 0 0) 128 = false ∧
     s.granuleErrs 0 0 = [] ∧ s.deadSymbol 0 15 = some 19) ∧
    (let s := (stackIn 2).setF TALUS_EXPERT_UE_RETIRE_LIMIT 0 0 1
     s.stackReach 0 = .ok ∧ s.deadSymbol 0 0 = none ∧ s.getF TALUS_EXPERT_UE_RETIRE_LIMIT 0 0 = 1) := by decide +kernel

/-- The answers of a controller to a write are those to a read (witness_TalusReads); and a whole granule of bytes. -/
theorem witness_TalusWrites : (stackIn 2).stackReach 11 = .unmapped ∧ (stackIn 2).stackHeld (granuleAddr 11 5) 128 true = false ∧
    (List.replicate 128 (0 : Byte)).length = 128 ∧ (0 : Fin 128).val = 0 := ⟨by decide, by decide, by simp, rfl⟩

theorem witness_TalusStackCommands :
    ((stackIn 2).stackState 0 = 2 ∧ (stackIn 2).dieRunning 0 = true ∧ (stackIn 2).getF TALUS_EXPERT_SCRUB_HOURS 0 0 ≠ 0 ∧
      (stackIn 2).granuleErrs 0 ((stackIn 2).stkF SCRUB_POS_NEXT_GRANULE 0) = [] ∧
      ∀ write : Bool, (stackIn 2).stackHeld (granuleAddr 0 ((stackIn 2).stkF SCRUB_POS_NEXT_GRANULE 0)) 128 write = false) ∧
    (stackIn 4).stackState 0 ≠ 2 ∧ (stackIn 1).stackState 0 = 1 ∧ ((stackIn 1).stack 0).training ≠ .selftest := by decide

/-! #### Remote operations and the pooled tier -/

/-- Packages 0 and 1 of a massif, both in job 7; this is package 0. -/
def peers (s : State := State.reset) : State :=
  let t := (s.setF MASSIF_DIMS_XM1 0 0 1).setF MEMBER_STATE_JOB 0 0 7
  { t with fabric := { t.fabric with members := [⟨0, 10, 7, 0, none⟩, ⟨1, 11, 7, 0, none⟩] } }.firstGen

/-- PUT, GET and ATOMIC of class 1 between TA 0 (own scratch) and the pointer in TA 3; TA 3 names package 1. -/
def wPut : Word := 0x8400640000000000
def wGet : Word := 0x8800640000000000
def wAtomic : Word := 0x8C06040000000000
def remEntry (w p : Word) : TqEntry := { entry w with ta := [0x400001C00000, 0x400001C00000, 0, p] ++ List.replicate 12 0x400001C00000 }
def remHead (w p : Word) (s : State := State.reset) : State := onCore (fun c => { c with tq := [remEntry w p] }) s
def far : Word := 0x4001000000000000
def near : Word := 0x400001C00040

def mayIssueR (s : State) (opc : Nat) (e : TqEntry) : Bool :=
  s.coreLive 0 3 && !s.tqStopped 0 3 && !(s.coreOf 0 3).held && !s.windowWaits 0 3 && (s.coreOf 0 3).tq.head? == some e &&
  e.opc == opc && s.tqFault 0 3 e == none

def goesB (s : State) (r : RemReq) : Bool :=
  (s.tracker 0).waiters.isEmpty && decide ((s.tracker 0).entries.length < s.trackerRoom 0) &&
  !(s.tracker 0).fenced r (s.tracker 0).orders && s.sourceStatus 0 r == stDONE && !s.requestHeld 0 r &&
  noErrsB s && (s.tracker 0).entries.all fun x => !x.phase.kept

theorem mayIssueR_of {s : State} {opc : Nat} {e : TqEntry} (h : mayIssueR s opc e = true) : s.MayIssue 0 3 opc e := by
  simpa [mayIssueR, State.MayIssue, and_assoc] using h

theorem goesAtOnce_of {s : State} {r : RemReq} (h : goesB s r = true) : s.GoesAtOnce 0 r := by
  simp only [goesB, Bool.and_eq_true, and_assoc] at h
  obtain ⟨h1, h2, h3, h4, h5, h6, h7⟩ := h
  exact ⟨by simpa using h1, by simpa using h2, by simpa using h3, by simpa using h4, by simpa using h5, noErrs_of h6, by simpa using h7⟩

/-- The three words at the head of the queue: sent to package 1; refused because it is no member; waiting for an entry; and a
copy inside the own package. -/
theorem witness_RemoteIssue :
    (let e := remEntry wPut far
     let s := remHead wPut far (peers)
     mayIssueR s 0x21 e = true ∧ goesB s (s.tileRequest 0 3 e) = true ∧ ptrSpace (s.tileRequest 0 3 e).ptr = 1 ∧
     s.ptrOwn (s.tileRequest 0 3 e).ptr = false ∧ (s.tileRequest 0 3 e).kind ≠ .enqueue) ∧
    (let e := remEntry wGet far
     let s := remHead wGet far (peers)
     mayIssueR s 0x22 e = true ∧ goesB s (s.tileRequest 0 3 e) = true) ∧
    (let e := remEntry wAtomic far
     let s := remHead wAtomic far (peers)
     mayIssueR s 0x23 e = true ∧ goesB s (s.atomicRequest 0 3 e).2 = true ∧
     ptrSpace (s.atomicRequest 0 3 e).2.ptr = 1 ∧ s.ptrOwn (s.atomicRequest 0 3 e).2.ptr = false) ∧
    (let e := remEntry wPut far
     let s := remHead wPut far
     mayIssueR s 0x21 e = true ∧ s.sourceStatus 0 (s.tileRequest 0 3 e) ≠ stDONE) ∧
    (let e := remEntry wPut far
     let s := (remHead wPut far).setTracker 0 { Tracker.zero with waiters := [(State.reset).tileRequest 0 3 e] }
     mayIssueR s 0x21 e = true ∧ (s.tracker 0).waiters ≠ []) ∧
    (∀ p ∈ [(wPut, 0x21), (wGet, 0x22)],
      let e := remEntry p.1 near
      let s := remHead p.1 near
      mayIssueR s p.2 e = true ∧ goesB s (s.tileRequest 0 3 e) = true ∧ s.ptrOwn (s.tileRequest 0 3 e).ptr = true ∧
      (s.tileRequest 0 3 e).kind ≠ .enqueue ∧ s.poisoned (s.tileRequest 0 3 e).loc 64 = false) := by
  refine ⟨?_, ?_, ?_, ?_, ?_, ?_⟩ <;> decide +kernel

/-- An ATOMIC of one result reads its operand and changes nothing. -/
theorem witness_RemoteIssue_atomic :
    ((remHead wAtomic far (peers)).atomicRequest 0 3 (remEntry wAtomic far)).1 = remHead wAtomic far (peers) := by
  have ha : ((remEntry wAtomic far).taOf ((remEntry wAtomic far).f 48 45)).toNat = img := by decide
  have hr : ∀ n ∈ [8, 16], (remHead wAtomic far (peers)).extentReach img n = .ok := by decide
  have hp : place img = .coreScratch 0 3 0 := by decide
  simp only [State.atomicRequest, ha]
  split <;> simp only [State.localRead, hr _ (List.mem_cons_self ..), hr _ (List.mem_cons_of_mem _ (List.mem_cons_self ..)), State.meetErrs, hp]

/-- A segment of 64 bytes of job 7 at an address; an ATOMIC or NOTIFY segment. -/
def seg (a : Nat) (job : Nat := 7) : Segment := ⟨1, false, true, job, 1, 0, 5, 0, 0, a, 0, 0, List.replicate 64 1, List.replicate 16 false⟩
def meetsB (s : State) (g : Segment) (ext : List (Nat × Nat × Bool)) : Bool :=
  decide (s.getF STATE_STATUS_STATE 0 0 < 2) && s.power.stopped.isNone && !s.power.inReset && !s.queuedBehind g &&
  ext.all fun x => !s.accessHeld x.1 x.2.1 x.2.2
def takesB (s : State) (op : Nat) (g : Segment) : Bool := meetsB s g (s.segExtents op g)

theorem meetsNow_of {s : State} {g : Segment} {ext : List (Nat × Nat × Bool)} (h : meetsB s g ext = true) : s.MeetsNow g ext := by
  simpa [meetsB, State.MeetsNow, and_assoc] using h

theorem takesNow_of {s : State} {op : Nat} {g : Segment} (h : takesB s op g = true) : s.TakesNow op g := meetsNow_of h

theorem witness_SegmentArrivals :
    (∀ op ∈ [1, 2, 3],
      (takesB peers op (seg img 8) = true ∧ (seg img 8).job ≠ (peers).job) ∧
      (takesB State.reset op (seg img 0) = true ∧ State.reset.job = 0) ∧
      (takesB peers op (seg 1) = true ∧ (seg 1).job = (peers).job ∧ (peers).segmentStatus op (seg 1) ≠ stDONE) ∧
      (takesB peers op (seg img) = true ∧ (peers).job ≠ 0 ∧ (peers).segmentStatus op (seg img) = stDONE) ∧
      (let s := (peers).setArrivals [⟨[], .segment op (seg img)⟩]
       s.getF STATE_STATUS_STATE 0 0 < 2 ∧ s.power.stopped = none ∧ s.power.inReset = false ∧ s.queuedBehind (seg img) = true) ∧
      (let s := peers (stackIn 1)
       s.getF STATE_STATUS_STATE 0 0 < 2 ∧ s.queuedBehind (seg 0) = false ∧
       ((s.segExtents op (seg 0)).any fun x => s.accessHeld x.1 x.2.1 x.2.2) = true)) ∧
    (seg img).marks.any id = false ∧ (∀ d f o, place (seg img).address ≠ .flagWord d f o) ∧
    (peers).poisoned img 4 = false ∧
    ((peers).setF STATE_STATUS_STATE 0 0 5).getF STATE_STATUS_STATE 0 0 = 5 ∧
    (let s := (peers).setF STATE_STATUS_STATE 0 0 2
     s.getF STATE_STATUS_STATE 0 0 = 2 ∧ s.power.stopped = none ∧ s.power.inReset = false ∧
     s.wakesOn STATE_EXPERT_WAKE_ON_REQUEST = true ∧
     (s.setLow fun r => { r with expert := 0 }).wakesOn STATE_EXPERT_WAKE_ON_REQUEST = false) ∧
    (let g := seg (flagWordAddr 2 5)
     takesB peers 6 g = true ∧ g.job = (peers).job ∧ (peers).segmentStatus 6 g = stDONE ∧
     place g.address = .flagWord 2 5 0 ∧ (peers).poisoned g.address 4 = false) :=
  ⟨by decide, by decide, fun d f o h => (nomatch (by decide : place img = .coreScratch 0 3 0).symm.trans h), by decide, by decide, by decide, by decide +kernel⟩

/-- Memory without errors for the segments that are performed; and a segment of another job whose form is wrong (R27). -/
theorem witness_SegmentArrivals_clean :
    (peers).NoErrs ∧ ((seg 1 8).job ≠ (peers).job ∧ (peers).segmentForm 1 (seg 1 8) = stINVALID ∧ takesB peers 1 (seg 1 8) = true) ∧
    ((peers).segmentForm 1 (seg img 8) = stDONE) := ⟨noErrs_of (by decide), by decide, by decide⟩

/-- A request of core 3 that waits for an answer in entry 9, and its entry in a phase. -/
def req (who : Requester := .core 3) (ptr : Word := far) : RemReq :=
  ⟨who, .get, 0x22, ptr, img, 128, 1, 0, false, [], [], 0, false, 0, 3, 7, false, false, 0⟩
def ent (ph : RemPhase) (r : RemReq := req) (total : Nat := 1) : TrackEntry := ⟨9, r, 0, ph, total, [], stDONE, 4000, 1, 4⟩
def tracked (es : List TrackEntry) (ws : List RemReq := []) : State :=
  (peers).setTracker 0 { Tracker.zero with entries := es, waiters := ws, orders := es.length }

theorem witness_TrackerEvents :
    ((tracked [ent .sent]).InFlight 0 9 (ent .sent) ∧ 0 / 64 < (ent .sent).total ∧
      (ent .sent).answered.contains (0 / 64) = false ∧ (ent .sent).answered.length + 1 = (ent .sent).total ∧
      ((ent .sent).req.landing 0 64).all (fun x => !(tracked [ent .sent]).accessHeld x.1 x.2.1 x.2.2) = true ∧ (ent .sent).status = stDONE ∧
      statusMax (ent .sent).status stPOISONED ≠ stDONE ∧ (4 : Nat) ≠ (ent .sent).req.step) ∧
    ((tracked [ent .sent req 2]).InFlight 0 9 (ent .sent req 2) ∧
      (ent .sent req 2).answered.length + 1 ≠ (ent .sent req 2).total ∧ 64 % 64 = 0 ∧ 64 / 64 < 2) ∧
    (tracked []).entryOf 0 9 = none ∧
    ((tracked [ent .fenced]).entryOf 0 9 = some (ent .fenced) ∧ ((tracked [ent .fenced]).tracker 0).fenced req 0 = false) ∧
    ((tracked [] [req]).dieRunning 0 = true ∧ ((tracked [] [req]).tracker 0).entries.length < (tracked [] [req]).trackerRoom 0 ∧
      ((tracked [] [req]).tracker 0).nextWaiter = some req) :=
  ⟨⟨⟨by decide, by decide, by decide⟩, by decide⟩, ⟨⟨by decide, by decide, by decide⟩, by decide⟩, by decide, by decide, by decide⟩

/-- A response that is not expected any more, one whose local extent is held, and an operation in flight to the host. -/
theorem witness_TrackerEvents_late :
    (let s := (peers).setTracker 0 { Tracker.zero with late := [(9, 3, 64)] }
     (s.tracker 0).late.contains (9, 3, 64) = true ∧ (s.tracker 0).late.contains (9, 3, 0) = false ∧ s.entryOf 0 9 = none) ∧
    (let e := ent .sent { req with loc := 0 }
     let s := (peers (stackIn 1)).setTracker 0 { Tracker.zero with entries := [e] }
     s.entryOf 0 9 = some e ∧ e.phase = .sent ∧ e.req.kind = .get ∧
     ((e.req.landing 0 128).any fun x => s.accessHeld x.1 x.2.1 x.2.2) = true) ∧
    ((tracked [ent .host]).entryOf 0 9 = some (ent .host) ∧ (ent .host).phase = .host ∧ (tracked [ent .host]).dieRunning 0 = true) := by
  decide

/-- A pooled request of 128 bytes at 0x1000, and range n of 4096 bytes from 0x1000 in a STATE. -/
def pooled (ph : RemPhase) : TrackEntry := ent ph (req (.core 3) 0x8000000000001000)
def ranged (n st : Nat) (s : State) : State := ((s.setF RANGE_BASE_BASE 0 n 1).setF RANGE_SIZE_SIZE 0 n 1).setF RANGE_STATE_STATE 0 n st
def rangeHit (s : State) (e : TrackEntry) (n : Nat) : Bool :=
  s.rangeState n != 0 && decide (s.rangeBase n ≤ ptrAddr62 e.req.ptr ∧ ptrAddr62 e.req.ptr + e.req.len ≤ s.rangeBase n + s.rangeSize n)

theorem witness_PooledTier :
    ((tracked [pooled .camp]).entryOf 0 9 = some (pooled .camp) ∧ ∀ n < 32, rangeHit (tracked [pooled .camp]) (pooled .camp) n = false) ∧
    (∀ st ∈ [1, 2],
      let s := ranged 31 st (tracked [pooled .camp])
      s.entryOf 0 9 = some (pooled .camp) ∧ rangeHit s (pooled .camp) 31 = true ∧ s.rangeState 31 = st ∧
      ∀ m < 31, rangeHit s (pooled .camp) m = false) ∧
    (let s := ranged 31 1 (tracked [pooled (.uio 31 true)])
     s.entryOf 0 9 = some (pooled (.uio 31 true)) ∧ s.rangeState 31 = 1 ∧
     ((s.tracker 0).late.any fun l => l.1 == 9 && l.2.2 == hostSeg) = false ∧ s.accessHeld (req).loc 128 true = false) ∧
    (tracked [pooled .camp]).requestHeld 0 (pooled .camp).req = false ∧
    (let e := ent .camp { req (.mover 0 0) 0x8000000000001000 with loc := 0 }
     let s := (stackIn 1).setTracker 0 { Tracker.zero with entries := [e] }
     s.entryOf 0 9 = some e ∧ s.requestHeld 0 e.req = true) ∧
    (let s := ranged 31 1 (ranged 30 1 State.reset)
     s.rangeClash 31 = true ∧ s.rangeClash 29 = false) := by decide

/-- The local extent of a pooled access answers, or answers UNMAPPED where no memory lies there. -/
theorem witness_PooledTier_local :
    ((ranged 31 1 (tracked [pooled .camp])).localSide (pooled .camp).req = stDONE) ∧ (ranged 31 1 (tracked [pooled .camp])).NoErrs ∧
    (let r := { (pooled .camp).req with loc := 0x300000000000 }
     let s := ranged 31 1 (tracked [ent .camp r])
     s.entryOf 0 9 = some (ent .camp r) ∧ s.rangeState 31 = 1 ∧ statusMax (s.localSide r) stDONE ≠ stDONE) :=
  ⟨by decide, noErrs_of (by decide), by decide⟩

/-! #### Ridge: ports, flits, routes, membership -/

/-- Port 5 (die C1, port 1) in a state, its DIR the given one. -/
def portIn (st : Nat) (dir : Nat := 0) (s : State := peers) : State :=
  (s.setPortF PORT_STATE_STATE 5 st).setPort 5 { Port.zero with dir := dir, rxNext := 3, buffer := [⟨8, 0, 0, false, [], [], none⟩] }

theorem witness_PortLifecycle :
    ((portIn portTRAINING).portState 5 = portTRAINING ∧ (portIn portTRAINING).dieRunning (5 / 4) = true) ∧
    (portIn portUP).portState 5 = portUP ∧ (portIn portOFF).portState 5 ≠ portUP ∧
    ((portIn portRETRAIN).portState 5 = portRETRAIN ∧ (portIn portRETRAIN).portTested 5 = false) ∧
    (let s := (portIn portRETRAIN).setTest fun x => { x with heldPorts := [(5, 9)] }
     s.portState 5 = portRETRAIN ∧ s.portTested 5 = true) ∧
    (trainLanes 15 4 = some [0, 1, 2, 3] ∧ trainLanes 7 4 = some [0, 1] ∧ trainLanes 0 4 = none ∧
      trainLanes (10 &&& (15 - ((portIn portRETRAIN).port 5).excluded)) 2 = some [1] ∧ trainLanes 15 ((portIn portRETRAIN).port 5).keepWidth = none) ∧
    (portIn portUP).portSlot 5 = true ∧ (portIn portUP).awake = true ∧ (portIn portUP).power.inReset = false := by decide

/-- The bytes of a flit that port 5 expects next (SEQ 3) and that acknowledges 8: of a KIND, encrypted or not (bit 1 of the credit word). -/
def flitIn (kind credit : Nat) : List Byte := flitBytes (flitHead 3 8 0 kind) credit []

theorem witness_PortFlits :
    (portIn portUP).portState 5 = portUP ∧ flitIntact ((flitIn 1 0).set 9 1) = false ∧
    (∀ kind ∈ [0, 1, 2, 3], flitIntact (flitIn kind 0) = true ∧ (Flit.ofBytes (flitIn kind 0)).seq = ((portIn portUP).port 5).rxNext ∧
      (Flit.ofBytes (flitIn kind 0)).kind = kind ∧ (Flit.ofBytes (flitIn kind 0)).vc ≤ 11 ∧ (Flit.ofBytes (flitIn kind 0)).enc = false) ∧
    (flitIntact (flitIn 1 2) = true ∧ (Flit.ofBytes (flitIn 1 2)).enc = true ∧ (Flit.ofBytes (flitIn 1 2)).slot = 0) ∧
    (let s := (portIn portUP).setF CRYPT_EXPERT_REQUIRE 1 0 2
     s.portState 5 = portUP ∧ (s.getF CRYPT_EXPERT_REQUIRE 1 0).testBit (5 % 4) = true) ∧
    ((portIn portUP).getF CRYPT_EXPERT_REQUIRE 1 0).testBit (5 % 4) = false ∧
    ((portIn portUP).portF KEY_CTRL_RX_VALID 5).testBit 0 = false ∧
    (let s := (portIn portUP).setPortF KEY_CTRL_RX_VALID 5 1
     s.portState 5 = portUP ∧ (s.portF KEY_CTRL_RX_VALID 5).testBit 0 = true) ∧
    ((portIn portUP).port 5).streams = [] ∧ ((portIn portUP).port 5).buffer.any (fun x => x.seq == 8) = true ∧
    ((portIn portUP).port 5).buffer.any (fun x => x.seq == 9) = false := by decide +kernel

/-- The digest of "abc" (the example of FIPS 180-4). -/
theorem test_sha256_abc : beNat (sha256 [0x61, 0x62, 0x63]) =
    0xba7816bf8f01cfea414140de5dae2223b00361a396177a9cb410ff61f20015ad := by decide +kernel

/-- AES-256-GCM of 16 zero bytes under the zero key and IV (test case 14 of the GCM specification). -/
theorem test_gcm_zero : beNat (gcmSeal (List.replicate 32 0) (List.replicate 12 0) [] (List.replicate 16 0)) =
    0xcea7403d4d606b6e074ec5d3baf39d18d0d1c8a799996bf0265b98b5d48ab919 := by decide +kernel

/-- A flit sealed under the key of slot 0 opens; one under no key does not (R483). -/
def keyedPort : State := ((portIn portUP).setPortF KEY_CTRL_RX_VALID 5 1).setFabric fun r =>
  { r with keys := kset KeySlot.zero r.keys 22 ⟨[1, 2, 3, 4], 5, 0⟩ }
def sealedFlit : List Byte :=
  let k := kget KeySlot.zero keyedPort.fabric.keys 22
  flitBytes (flitHead 3 8 0 1) 2 (gcmSeal k.bytes k.iv (leBytes 4 (flitHead 3 8 0 1) ++ leBytes 4 2) (List.replicate 228 7))

theorem witness_PortFlits_sealed :
    keyedPort.portState 5 = portUP ∧ flitIntact sealedFlit = true ∧ (Flit.ofBytes sealedFlit).seq = (keyedPort.port 5).rxNext ∧
    (Flit.ofBytes sealedFlit).kind = 1 ∧ (Flit.ofBytes sealedFlit).vc = 0 ∧ (Flit.ofBytes sealedFlit).enc = true ∧
    keyedPort.openFlit 5 (Flit.ofBytes sealedFlit) sealedFlit = some (List.replicate 228 7) ∧
    keyedPort.openFlit 5 (Flit.ofBytes (flitIn 1 2)) (flitIn 1 2) = none ∧
    (portIn portUP).openFlit 5 (Flit.ofBytes (flitIn 1 2)) (flitIn 1 2) = none := by decide +kernel

/-- A packet to coordinate (x, 0, 0) whose signs are plus (1), not TURNED unless said. -/
def packet (x hops : Nat) (turned : Bool := false) (rsp : Bool := false) : Packet :=
  ⟨BitVec.ofNat 64 (x * 2 ^ 59 + 2 ^ 47 + (if turned then 2 ^ 42 else 0) + hops * 2 ^ 32), 0, rsp, [], []⟩

/-- A package in Refuge, whose ports carry nothing (R462). -/
def deafState : State := (peers).setF STATE_STATUS_STATE 0 0 5

theorem witness_PacketRouting :
    State.reset.dieRunning 0 = true ∧ (peers).dieRunning 0 = true ∧
    (let s := (portIn portUP).setPort 5 { (portIn portUP).port 5 with
       rx := kset RxPool.zero [] (pool 0 false) ⟨[], 0, [⟨packet 1 0, 1, false⟩]⟩ }
     (kget RxPool.zero (s.port 5).rx (pool 0 false)).first = some (packet 1 0) ∧ s.dieRunning 1 = true ∧
     (kget RxPool.zero (s.port 4).rx (pool 0 false)).first = none) ∧
    ((peers).routeDim (packet 0 0).route.toNat = none ∧ routeHops (packet 0 0).route.toNat ≠ 255) ∧
    ((peers).routeDim (packet 0 255).route.toNat = none ∧ routeHops (packet 0 255).route.toNat = 255) ∧
    ((peers).routeDim (packet 1 0).route.toNat = some 0 ∧ routeSign (packet 1 0).route.toNat 0 = 1) ∧
    (portIn portUP 0).bundleDead 0 = false ∧
    ((portIn portUP 1).bundleDead 0 = true ∧ (portIn portUP 1).bundleDead (0 ^^^ 1) = false ∧
      routeTurned (packet 1 0).route.toNat 0 = false) ∧
    (peers).bundleDead 1 = true ∧ routeTurned (packet 1 0 true).route.toNat 0 = true ∧
    (portIn portUP).anyPortUp = true ∧ (portIn portUP).deaf = false ∧ (deafState).deaf = true ∧ ((portIn portUP 4).port 5).dir = 4 ∧ (peers).anyPortUp = false := by decide

def summit (s : State := peers) : State := (s.setRole 5).setFabric fun r => { r with members := [⟨0, 10, 7, 0, none⟩, ⟨1, 11, 7, 0, none⟩] }

theorem witness_TrailheadAndLinkMap :
    (let s := portIn portTRAILHEAD
     s.portState 5 = portTRAILHEAD ∧ (s.port 5).verified = false ∧ (s.reg MASSIF_DIMS 0 0).toNat % 2 ^ 15 = 1 ∧
     coordWord (s.peerCoord 5) = 1 ∧ ((s.port 5).dir ^^^ 1) = 1 ∧ (s.port 5).nonceOwn = 0) ∧
    (let s := (portIn portTRAILHEAD).setPort 5 { Port.zero with dir := 0, nonceOwn := 77 }
     s.portState 5 = portTRAILHEAD ∧ (s.port 5).verified = false ∧ (s.port 5).nonceOwn = 77) ∧
    ((summit).isSummit = true ∧ ((summit).memberOf 1).isSome = true) ∧
    (let s := summit
     let u (dead : Bool) := s.setFabric fun r => { r with reports := if dead then [8] else [] }
     (u false).deadLinks = s.deadLinks ∧ (u true).deadLinks ≠ s.deadLinks ∧ (u true).deadLinks.length ≤ 1024 ∧
     ∀ m ∈ (u true).fabric.members, ∃ k, k < 6 ∧ 1 < (u true).dimSize (k / 2) ∧
       (u true).deadLinks.contains ((u true).bundleLink m.device k) = false) ∧
    (3 ≤ (summit).role ∧ (summit).term ≤ 0 ∧ (summit).fabric.gen < 1) ∧
    ((let s := (summit).setF MEMBER_STATE_TERM 0 0 4
      3 ≤ s.role ∧ 3 < s.term) ∧
     ∀ x ∈ ((peers).tracker 0).entries, ¬ (x.dest = 1 ∧ ptrSpace x.req.ptr = 1)) := by decide

/-- The report of a joiner of PART A under a serial number, for the summit, TERM and membership version that its JOIN names (Table 19.7). -/
def joinReport (serial : Nat) : List Byte :=
  leBytes 2 1 ++ leBytes 2 0 ++ leBytes 4 (partCode false) ++ leBytes 8 serial ++ joinNonce 0 0 0 serial ++ List.replicate 160 0
def joinEvidence (serial : Nat) : List Byte := joinReport serial ++ proofOf (partCode false) serial (joinReport serial)

/-- A summit that holds the issuing key of the joiner's certificate. -/
def provenSummit (serial : Nat) : State :=
  (summit).setSec fun x => { x with issuerKeys := [proofIssuer (partCode false) serial (joinReport serial)] }

theorem joinReport_length (serial : Nat) : (joinReport serial).length = 208 := by
  simp [joinReport, joinNonce, leBytes_length, sha256_length, -List.reduceReplicate]

/-- A proof that holds: of a package that joins for the first time, of one that its identifier's member is older than, and of the very member
that joins again (R241, R474, R481). -/
theorem witness_SummitMembers_join : ∀ serial ∈ [9, 11, 99],
    (provenSummit serial).isSummit = true ∧ (provenSummit serial).deaf = false ∧ fieldOf (joinEvidence serial) 8 8 = serial ∧
    (provenSummit serial).joinProof 0 0 (joinEvidence serial) = true ∧ (provenSummit serial).policyPass (joinEvidence serial) = true ∧
    (provenSummit serial).term = 0 ∧ (provenSummit serial).fabric.version ≤ 0 + 16 := by
  intro serial h
  have hs : serial < 2 ^ 64 := by
    simp only [List.mem_cons, List.not_mem_nil, or_false] at h; rcases h with rfl | rfl | rfl <;> norm_num
  have l := joinReport_length serial
  have hp : fieldOf (joinReport serial) 4 4 = partCode false := by
    rw [joinReport]; simp only [List.append_assoc]
    rw [← List.append_assoc, fieldOf_append _ _ _ 4 4 (by simp [leBytes_length]) (by simp [leBytes_length])]; rfl
  have h8 : fieldOf (joinReport serial) 8 8 = serial := by
    rw [joinReport]; simp only [List.append_assoc]
    rw [← List.append_assoc, ← List.append_assoc, fieldOf_append _ _ _ 8 8 (by simp [leBytes_length]) (by simp [leBytes_length]), leNat_leBytes _ _ (by simpa using hs)]
  have hn : ((joinReport serial).drop 16).take 32 = joinNonce 0 0 0 serial := by
    rw [joinReport]
    simp only [List.append_assoc]
    rw [← List.append_assoc, ← List.append_assoc, ← List.append_assoc, List.drop_left' (by simp [leBytes_length]),
      List.take_left' (by simp [joinNonce, sha256_length])]
  have e : fieldOf (joinEvidence serial) 8 8 = serial := by rw [joinEvidence, fieldOf_left _ _ 8 8 (by omega), h8]
  have t : (joinEvidence serial).take 208 = joinReport serial := List.take_left' l
  have dr : (joinEvidence serial).drop 208 = proofOf (partCode false) serial (joinReport serial) := List.drop_left' l
  have st : ∀ n ∈ [9, 11, 99], (provenSummit n).isSummit = true ∧ (provenSummit n).deaf = false ∧ (provenSummit n).term = 0 ∧
      (provenSummit n).fabric.version ≤ 0 + 16 ∧ (provenSummit n).device = 0 := by decide
  obtain ⟨s1, s2, s3, s4, s5⟩ := st serial h
  have e4 : fieldOf (joinEvidence serial) 4 4 = partCode false := by rw [joinEvidence, fieldOf_left _ _ 4 4 (by omega), hp]
  refine ⟨s1, s2, e, ?_, ?_, s3, s4⟩
  case refine_2 => rw [State.policyPass, e4, show (provenSummit serial).sec.policy = none from rfl]; simp
  simp only [State.joinProof, t, dr, hn, h8, hp]
  rw [show (provenSummit serial).sec.issuerKeys = [proofIssuer (partCode false) serial (joinReport serial)] from rfl,
    proofHolds_of (partCode false) serial _ (by decide) hs, s5]
  simp

/-- A TRAILHEAD of the package with serial number 20 at X = 1 to port 5, and the fields that differ. -/
def headerOf (dims peer : Nat) : List Byte :=
  leBytes 8 20 ++ leBytes 4 (partCode false) ++ leBytes 2 dims ++ leBytes 2 1 ++ leBytes 1 3 ++ leBytes 1 1 ++ leBytes 6 (2 ^ 48 - 1) ++
    leBytes 16 8 ++ leBytes 16 peer
def trailBody (dims peer : Nat) : List Byte := headerOf dims peer ++ proofOf (partCode false) 20 (headerOf dims peer)
def provenPort (dims peer st : Nat) : State :=
  ((portIn st).setSec fun x => { x with issuerKeys := [proofIssuer (partCode false) 20 (headerOf dims peer)] }).setPort 5
    { Port.zero with dir := 0, nonceOwn := 77 }

/-- Port 5 in TRAILHEAD and UP, and a TRAILHEAD whose proof holds: with the own massif's dimensions and with others, and with NONCE_PEER zero,
the port's own and another one; and one without a proof (R239, R474, R475). -/
theorem witness_TrailheadAndLinkMap_proof : ∀ st ∈ [portTRAILHEAD, portUP], ∀ p ∈ [(1, 0), (1, 77), (1, 78), (2, 0)],
    let s := provenPort p.1 p.2 st
    let body := trailBody p.1 p.2
    s.portState 5 = st ∧ s.deaf = false ∧ (s.port 5).nonceOwn = 77 ∧
    proofHolds s.sec.issuerKeys (fieldOf body 8 4) (fieldOf body 0 8) (body.take 56) (body.drop 56) = true ∧
    fieldOf body 40 16 = p.2 ∧ fieldOf body 12 2 = p.1 ∧ (s.reg MASSIF_DIMS 0 0).toNat % 2 ^ 15 = 1 ∧
    fieldOf body 14 2 = coordWord (s.peerCoord 5) ∧ fieldOf body 17 1 = ((s.port 5).dir ^^^ 1) := by
  intro st hst p hp
  have l : (headerOf p.1 p.2).length = 56 := by simp [headerOf, leBytes_length]
  have f (off n : Nat) (h : off + n ≤ 56) : fieldOf (trailBody p.1 p.2) off n = fieldOf (headerOf p.1 p.2) off n := by
    rw [trailBody, fieldOf_left _ _ off n (by omega)]
  have t : (trailBody p.1 p.2).take 56 = headerOf p.1 p.2 := List.take_left' l
  have dr : (trailBody p.1 p.2).drop 56 = proofOf (partCode false) 20 (headerOf p.1 p.2) := List.drop_left' l
  have g := proofHolds_of (partCode false) 20 (headerOf p.1 p.2) (by decide) (by norm_num)
  simp only [f _ _ (show 8 + 4 ≤ 56 by omega), f _ _ (show 0 + 8 ≤ 56 by omega), f _ _ (show 40 + 16 ≤ 56 by omega),
    f _ _ (show 12 + 2 ≤ 56 by omega), f _ _ (show 14 + 2 ≤ 56 by omega), f _ _ (show 17 + 1 ≤ 56 by omega), t, dr]
  rw [show (provenPort p.1 p.2 st).sec.issuerKeys = [proofIssuer (partCode false) 20 (headerOf p.1 p.2)] from rfl]
  have hp' : (fieldOf (headerOf p.1 p.2) 8 4 = partCode false ∧ fieldOf (headerOf p.1 p.2) 0 8 = 20) ∧
      fieldOf (headerOf p.1 p.2) 40 16 = p.2 ∧ fieldOf (headerOf p.1 p.2) 12 2 = p.1 ∧ fieldOf (headerOf p.1 p.2) 14 2 = 1 ∧
      fieldOf (headerOf p.1 p.2) 17 1 = 1 := by
    clear f t dr g l hst st
    revert p; decide +kernel
  rw [hp'.1.1, hp'.1.2, g]
  have ss : ∀ st ∈ [portTRAILHEAD, portUP], ∀ p ∈ [(1, 0), (1, 77), (1, 78), (2, 0)],
      (provenPort p.1 p.2 st).portState 5 = st ∧ (provenPort p.1 p.2 st).deaf = false ∧ ((provenPort p.1 p.2 st).port 5).nonceOwn = 77 ∧
      ((provenPort p.1 p.2 st).reg MASSIF_DIMS 0 0).toNat % 2 ^ 15 = 1 ∧ coordWord ((provenPort p.1 p.2 st).peerCoord 5) = 1 ∧
      (((provenPort p.1 p.2 st).port 5).dir ^^^ 1) = 1 := by clear f t dr g l hp' hp hst st; decide
  obtain ⟨s1, s2, s3, s4, s5, s6⟩ := ss st hst p hp
  exact ⟨s1, s2, s3, rfl, hp'.2.1, hp'.2.2.1, s4, by rw [s5]; exact hp'.2.2.2.1, by rw [s6]; exact hp'.2.2.2.2⟩

def roleIn0 (r : Nat) : State := (peers).setRole r

theorem witness_TrailheadAndLinkMap_none : (portIn portUP).portState 5 = portUP ∧ proofHolds [] 0 0 [] [] = false ∧
    (portIn portOFF).portState 5 ≠ portTRAILHEAD ∧ (portIn portOFF).portState 5 ≠ portUP ∧ (deafState).deaf = true ∧
    (summit).deaf = false ∧ (summit).term ≤ 3 ∧ (roleIn0 3).role = 3 := by decide

/-- A package of an elected role; ports 0 and 1 assigned to X where the massif has two packages. -/
def roleIn (r : Nat) (s : State := peers) : State := s.setRole r
def assigned : State :=
  [1, 2, 3].foldl (fun s d => s.setReg RIDGE_EXPERT d 0 0xDB6) ((peers).setReg RIDGE_EXPERT 0 0 0xD88)

theorem witness_SummitElection :
    ((roleIn 0 State.reset).role = 0 ∧ State.reset.fabric.heard = false ∧ State.reset.fabric.joinAt = none ∧ State.reset.awake = true) ∧
    ((roleIn 0).assignmentOk = false ∧ (roleIn 0 assigned).assignmentOk = true ∧ (roleIn 0 assigned).role = 0) ∧
    ((roleIn 1).role = 1 ∧ (roleIn 1).fabric.lowerHeard = false) ∧
    (let s := (roleIn 0 assigned).setFabric fun r => { r with joinAt := some 5 }
     s.fabric.joinAt = some 5 ∧ s.role = 0 ∧ s.assignmentOk = true ∧ s.deaf = false) ∧
    (deafState).deaf = true ∧ (roleIn 3).role = 3 ∧ (roleIn 4).role = 4 := by decide

theorem witness_SummitMembers :
    (summit).isSummit = true ∧ (1 : Nat) = ((summit).reg MASSIF_DIMS 0 0).toNat % 2 ^ 15 ∧
    (∀ p ∈ [(99, true, true), (9, false, true), (11, false, false)],
      (summit).fabric.members.any (fun m => m.device == 1 && (decide (m.serial < p.1) || (m.device == (summit).device && m.serial != p.1))) = p.2.1 ∧
      (summit).fabric.members.any (fun m => m.device == 1 && m.serial != p.1) = p.2.2) ∧
    (summit).term = 0 ∧ (summit).fabric.version ≤ 0 + 16 ∧ (summit).policyPass [] = false ∧ (roleIn 2).role = 2 ∧
    (summit).deaf = false ∧ (roleIn 2).deaf = false ∧ (deafState).deaf = true ∧ (summit).joinProof 0 0 [] = false ∧
    (1 ≠ (summit).device ∧ (summit).memberOf 1 = some ⟨1, 11, 7, 0, none⟩ ∧ ((summit).memberOf 1).isSome = true) ∧
    (summit).fabric.members.any (fun m => m.device == 1) = true ∧
    (let s := (summit).setFabric fun r => { r with members := [⟨0, 10, 7, 0, none⟩] }
     s.isSummit = true ∧ s.fabric.members = [⟨0, 10, 7, 0, none⟩] ∧ 8 % 65536 ≠ 7) := by decide

/-! #### Heartbeats, contour, events, the cornice -/

def following (r : Nat) (s : State := peers) : State := ((roleIn r s).setF MEMBER_STATE_TERM 0 0 4).setFabric fun f => { f with version := 2 }

theorem witness_HeartbeatsAndMembership :
    (summit).isSummit = true ∧
    (∀ r ∈ [3, 4], (following r).role = r ∧ (3 : Fin 65536).val < (following r).term ∧
      (4 : Fin 65536).val = (following r).term ∧ (following r).fabric.beatTerm < (4 : Fin 65536).val ∧
      (4 : Fin 65536).val ≤ ((following r).setFabric fun f => { f with beatTerm := 4 }).fabric.beatTerm ∧
      2 ≤ (following r).fabric.version ∧ 0 ≤ (following r).fabric.gen ∧
      (following r).fabric.version < 3 ∧ (following r).term < (5 : Fin 65536).val ∧ (following r).deaf = false ∧
      (4 : Fin 65536).val ≠ (following r).fabric.memberTerm ∧
      (let s := (following r).setFabric fun f => { f with beatTerm := 4, memberTerm := 4 }
       (4 : Fin 65536).val = s.term ∧ (4 : Fin 65536).val ≤ s.fabric.beatTerm ∧ (4 : Fin 65536).val = s.fabric.memberTerm ∧ s.fabric.version = 2 ∧ s.role = r)) ∧
    ((summit).fabric.beatTerm < ((summit).setF MEMBER_STATE_TERM 0 0 1).term ∧ ((summit).setF MEMBER_STATE_TERM 0 0 1).isSummit = true ∧
      (summit).term ≤ (summit).fabric.beatTerm ∧ (summit).deaf = false ∧ (deafState).deaf = true) ∧
    ((summit).role = 5 ∧ (summit).term < (1 : Fin 65536).val) ∧
    ((roleIn 2 assigned).role = 2 ∧ (roleIn 2 assigned).fabric.heard = false ∧ (roleIn 2 assigned).assignmentOk = true) := by decide

def stepNow (n : Nat) (s : State := following 3) : State :=
  [0, 1, 2, 3].foldl (fun u d => u.setReg CONTOUR_VALUE d 0 (BitVec.ofNat 64 (contourAt n 0))) s

theorem witness_ContourAtMember :
    (3 ≤ (stepNow 6).role ∧ (stepNow 6).term = 4 ∧ (stepNow 6).isSummit = false ∧ (stepNow 6).fabric.moveTo = none ∧
      (roleIn 0).role < 3 ∧ (roleIn 0).isSummit = false ∧ (7 : Fin 65536).val = (stepNow 6).job ∧
      (8 : Fin 65536).val ≠ (stepNow 6).job ∧ (stepNow 6).contour.newJob = false ∧ (stepNow 6).contourOf 3 = contourAt 6 0 ∧
      contourAt 6 0 < contourAt 7 0 ∧ contourAt 5 0 < contourAt 6 0 ∧ (stepNow 6).deaf = false ∧ (stepNow 6).awake = true) ∧
    (let s := (stepNow 6).setF STATE_STATUS_STATE 0 0 2
     s.deaf = false ∧ s.awake = false ∧ 3 ≤ s.role ∧ s.isSummit = false ∧ s.contour.newJob = false ∧ s.job = 7) ∧
    (deafState).deaf = true ∧
    ((following 3).setContour fun r => { r with lastPacket := some 100 }).contour.lastPacket = some 100 ∧
    (State.reset.dieRunning 0 = true ∧ reportable 0xF40000 = false ∧ reportable 0xF80000 = true ∧ State.reset.localPos 0 = 0 ∧
      stepOfValue (State.reset.localPos 0) + 1 < stepOfValue (contourAt 2 0) ∧ stepOfValue 5 = stepOfValue (State.reset.localPos 0) ∧
      State.reset.aheadPos 0 = 0 ∧ reportable (contourAt 1 5) = true ∧
      stepOfValue (contourAt 1 5) = stepOfValue (State.reset.localPos 0) + 1 ∧ State.reset.posOpen 0 = false) ∧
    (let s := ((following 3).setReg LOCAL_POS 0 0 9).setF DIE_STATE_STATE 0 1 1
     let t := (s.setF DIE_STATE_STATE 0 2 1).setF DIE_STATE_STATE 0 3 1
     3 ≤ t.role ∧ t.job ≠ 0 ∧ t.liveDies ≠ [] ∧ t.contour.reported < t.packagePos) := by decide

/-- The summit with one job, 7, at a contour, and what it keeps for it. -/
def job7 (f : SumJob → SumJob := id) : SumJob := f { SumJob.fresh 7 with contour := contourAt 6 phLAUNCH, published := true, tried := 2 }
def summitOf (f : SumJob → SumJob := id) : State := (summit).setSummit fun m => { m with jobs := [job7 f] }

theorem witness_ContourAtSummit :
    ((summitOf).isSummit = true ∧ (summitOf).memberOf 1 = some ⟨1, 11, 7, 0, none⟩ ∧ (summitOf).sumJob 7 = some (job7) ∧
      (summitOf).summit.takeover = none ∧ (summitOf).deaf = false ∧ ((summitOf).setF STATE_STATUS_STATE 0 0 5).deaf = true ∧
      ((summitOf).setF STATE_STATUS_STATE 0 0 5).isSummit = true) ∧
    (let s := (summitOf).setSummit fun m => { m with takeover := some 50 }
     s.isSummit = true ∧ s.summit.takeover = some 50 ∧ (s.memberOf 1).isSome = true) := by decide

/-- Entry 255 of die C1 is due: ENABLE, ARMED and PENDING. -/
def pendingEntry : State := ((State.reset.setF EVENT_CTRL_PENDING 1 255 1).setF EVENT_CTRL_ENABLE 1 255 1).setF EVENT_CTRL_ARMED 1 255 1

theorem witness_EventEntries :
    State.reset.dieRunning 1 = true ∧ State.reset.entryRefused 1 255 7 false = true ∧
    State.reset.entryRefused 1 255 6 true = true ∧ State.reset.entryRefused 0 255 6 true = false ∧
    State.reset.entryRefused 1 255 5 false = true ∧ State.reset.entryRefused 1 255 4 false = false ∧
    bits (0x0040000000000000 : Word).toNat 55 52 = 4 ∧ (0x0040000000000000 : Word).toNat.testBit 63 = false ∧
    State.reset.flag EVENT_CTRL_ENABLE 1 255 = false ∧
    ((pendingEntry).flag EVENT_CTRL_PENDING 1 255 = true ∧ (pendingEntry).flag EVENT_CTRL_ENABLE 1 255 = true ∧
      (pendingEntry).flag EVENT_CTRL_ARMED 1 255 = true ∧ (pendingEntry).awake = true ∧ (State.reset.flag EVENT_CTRL_PENDING 1 255 &&
      State.reset.flag EVENT_CTRL_ENABLE 1 255 && State.reset.flag EVENT_CTRL_ARMED 1 255) = false ∧
      (pendingEntry).getF EVENT_CTRL_ACTION 1 255 = 0 ∧ (pendingEntry).dieRunning 1 = true ∧
      ∀ k < 256, k ≠ 255 → (pendingEntry).flag EVENT_CTRL_PENDING 1 k = false) ∧
    (let s := (pendingEntry).setF STATE_STATUS_STATE 0 0 2
     s.flag EVENT_CTRL_PENDING 1 255 = true ∧ s.getF STATE_STATUS_STATE 0 0 = 2 ∧ s.dieRunning 1 = true) ∧
    (let s := State.reset.setTracker 1 { Tracker.zero with done := [⟨.mover 2 255, 3, []⟩] }
     (s.tracker 1).done = [⟨.mover 2 255, 3, []⟩] ∧ s.dieRunning 1 = true) := by decide +kernel

/-- The step state of a member of job 7, its step and TRY, and what its cornice owes. -/
def stepState (st n : Nat) (f : Cornice → Cornice := id) : State :=
  (((following 3).setF CORNICE_STATUS_STATE 0 0 st).setF CORNICE_STATUS_STEP 0 0 n).setCor f

theorem witness_CorniceAtMember :
    (3 ≤ (stepState 2 6).role ∧ (7 : Fin 65536).val = (stepState 2 6).job ∧ (stepState 2 6).job ≠ 0 ∧
      (stepState 2 6).collapseTaken 6 0 = false ∧ (stepState 2 6).collapseTaken 6 1 = true ∧
      (stepState 2 6).collapseTaken 5 1 = false) ∧
    (let s := stepState 4 6 fun r => { r with draining := [2] }
     s.corState = 4 ∧ s.cor.draining.contains 2 = true ∧ s.dieRunning 2 = true ∧ s.drainOver 2 = true ∧
     s.journalHeld 2 = false ∧ s.storeHeld 2 s.corStep = false) ∧
    (let s := stepState 4 6 fun r => { r with restoring := [2] }
     let u := (s.collectOuter 2).settleRestores 2
     u.corState = 4 ∧ u.cor.restoring.contains 2 = true ∧ u.engBlocks 2 3 = []) ∧
    (let s := stepState 4 6
     let u := (s.collectOuter 2).settleRestores 2
     u.cor.restoring.contains 2 = false) ∧
    ((stepState 5 6).corState = 5 ∧ (stepState 5 6).corStep = 6 ∧ (stepState 5 6).getF CORNICE_STATUS_TRY 0 0 = 0 ∧
      (stepState 2 6).corState ≠ 5) ∧
    (∀ st ∈ [none, some stABORTED],
      let x : RedSent := ⟨0, 1, 1, 2, 4, 0, 0, [], [], 6, 1, some 9⟩
      let run : ShardRun := { ShardRun.fresh 4 0 0 [1] with status := st }
      let s := (stepState 2 6).setRed fun r => { r with sent := [{ x with resendAt := some 10 }, x], shards := [run] }
      s.nextResend = some x ∧ s.shardRun x.bucket x.shard = some run ∧ run.status = st) ∧
    ((stepState 2 6).deaf = false ∧ (stepState 2 6).awake = true ∧ (deafState).deaf = true) ∧
    (let s := (stepState 2 6).setF STATE_STATUS_STATE 0 0 2
     s.deaf = false ∧ s.awake = false ∧ 3 ≤ s.role ∧ s.job = 7) ∧
    State.reset.job = 0 ∧ (stepState 2 6).flag CORNICE_STATUS_HALTED 0 0 = false ∧
    ((stepState 5 6).setF CORNICE_STATUS_HALTED 0 0 1).flag CORNICE_STATUS_HALTED 0 0 = true := by decide +kernel

theorem witness_CorniceAtSummit :
    ((summitOf).isSummit = true ∧ (summitOf).sumJob 7 = some (job7) ∧ (summitOf).memberOf 1 = some ⟨1, 11, 7, 0, none⟩ ∧
      (summitOf).summit.takeover = none ∧ 5 ≠ stepOfValue (job7).contour ∧ 6 = stepOfValue (job7).contour ∧
      phaseOf (job7).contour ≠ phSEAL ∧ 2 = (job7).tried ∧ (stCHECK < 256) ∧ stUNREACHABLE < 256 ∧ (summitOf).deaf = false) ∧
    (let s := (summitOf).setSummit fun m => { m with takeover := some 50 }
     s.isSummit = true ∧ s.deaf = false ∧ s.sumJob 7 = some (job7) ∧ s.summit.takeover.isSome = true ∧ s.memberOf 1 = some ⟨1, 11, 7, 0, none⟩) ∧
    (let x := job7 fun y => { y with phase := 2 }
     (summitOf fun y => { y with phase := 2 }).sumJob 7 = some x ∧ x.phase = 2 ∧
     ((summitOf fun y => { y with phase := 2 }).jobDevices 7).all (fun d => x.acked.contains d) = false) ∧
    (let f : SumJob → SumJob := fun y => { y with firsts := [⟨1, 3, 6, 40, false⟩] }
     (summitOf f).sumJob 7 = some (job7 f) ∧
     (job7 f).firsts.find? (fun g => g.device == 1 && g.die == 3 && g.step == stepOfValue (job7 f).contour) = some ⟨1, 3, 6, 40, false⟩) ∧
    ((job7).phase ≠ 2 ∧ (job7).drain = none) ∧
    (let f : SumJob → SumJob := fun y => { y with phase := 2, halt := true }
     (summitOf f).sumJob 7 = some (job7 f) ∧ (job7 f).phase = 2 ∧ (job7 f).halt = true) := by decide

/-! #### Gradient reduction, updates, exports -/

def br4 (f : BucketRun → BucketRun := id) : BucketRun :=
  f ⟨4, ⟨0, 0, false, false, 0, false, false, 1, 16⟩, true, [], false, 0, [], [], none⟩

/-- Package 0 of job 7 in step 6: group 1 of packages 0 and 1 (rank table at 0: this package ranks where the shard says), bucket 4 VALID (bucket table at 0), one shard's run. -/
def reducing (x : ShardRun) (br : BucketRun := br4) (f : State → State := id) (s : State := following 3 (peers (stackIn 2))) : State :=
  let t := f ((s.setF GROUP_CFG_ENABLE 0 1 1).setF GROUP_CFG_NRANKS 0 1 2)
  ((t.setByte (if x.pos = 0 then 4 else 0) 1).setByte 147 0x80).setRed fun r =>
    { r with launched := some 6, buckets := [br], shards := [x], groups := [(1, t.reg GROUP_CFG 0 1)] }
def waits (s : State) : State := s.setF GROUP_CFG_STRAGGLER 0 1 0
def groupOff (s : State) : State := s.setF GROUP_CFG_ENABLE 0 1 0

def redSeg (kind sh : Nat) (payload : List Byte := List.replicate 64 0) (job : Nat := 7) (step : Nat := 6) (block : Nat := 3) : Segment :=
  ⟨2, false, true, job, 1, 0, 5, 0, step, locator 4 sh kind 1 block, 0, 0, payload, List.replicate 16 false⟩

def reducesB (s : State) (kind : Nat) (g : Segment) (br : BucketRun) (x : ShardRun) : Bool :=
  meetsB s g (s.reduceExtents g) && locKind g.address == kind && g.job == s.job && s.job != 0 && s.reduceStatus 0 g == stDONE &&
  s.red.launched == some g.step && s.bucketRun (locBucket g.address) == some br && s.shardRun (locBucket g.address) (locShard g.address) == some x

theorem reduces_of {s : State} {kind : Nat} {g : Segment} {br : BucketRun} {x : ShardRun} (h : reducesB s kind g br x = true) :
    s.Reduces kind 0 g br x := by
  simpa [reducesB, meetsB, State.Reduces, State.MeetsNow, and_assoc] using h

/-- Shard 0 of a tree rooted at this package, package 1 below it; shard 8 of one rooted at package 1, an input below this one. -/
def root (f : ShardRun → ShardRun := id) : ShardRun := f (ShardRun.fresh 4 0 0 [1])
def leaf (f : ShardRun → ShardRun := id) : ShardRun := f (ShardRun.fresh 4 8 1 [3])

theorem witness_ReductionControl_refused : ∀ row ∈ reduceCommands,
    (let g := redSeg row.1 0 (job := 9)
     locKind g.address = row.1 ∧ g.job ≠ (reducing root).job ∧ meetsB (reducing root) g ((reducing root).reduceExtents g) = true) ∧
    (let g := redSeg row.1 0
     let s := reducing root (f := groupOff)
     meetsB s g (s.reduceExtents g) = true ∧ g.job = s.job ∧ s.job ≠ 0 ∧ s.reduceStatus 0 g ≠ stDONE) ∧
    (let g := redSeg row.1 0 (step := 5)
     let s := reducing root
     meetsB s g (s.reduceExtents g) = true ∧ g.job = s.job ∧ s.reduceStatus 0 g = stDONE ∧ s.red.launched ≠ some g.step ∧
     g.step < s.red.launched.getD 0) ∧
    (let g := redSeg row.1 0 (step := 7)
     let s := reducing root
     meetsB s g (s.reduceExtents g) = true ∧ g.job = s.job ∧ s.red.launched ≠ some g.step ∧ s.isSealed g.step = false ∧
     s.red.launched.getD 0 ≤ g.step) := by
  intro row h
  simp only [reduceCommands, List.mem_cons, List.not_mem_nil, or_false] at h
  rcases h with rfl | rfl | rfl | rfl | rfl | rfl | rfl | rfl | rfl | rfl | rfl <;> decide

theorem witness_ReductionControl :
    (let s := reducing root
     reducesB s 2 (redSeg 2 0) br4 root = true ∧ s.nodeOf br4 root 1 false = some (RedNode.fresh 1) ∧
     (RedNode.fresh 1).missing = false ∧ leNat ((redSeg 2 0).payload.take 1) % 2 = 0) ∧
    (let s := reducing root (f := waits)
     reducesB s 3 (redSeg 3 0) br4 root = true ∧ s.straggler 1 = 0 ∧ leNat ((redSeg 3 0).payload.take 1) ≠ 1 ∧
     (root).nodes.find? (fun m => m.missing && m.ownFrom == some 1) = none) ∧
    (let s := reducing root
     reducesB s 3 (redSeg 3 0) br4 root = true ∧ s.straggler 1 ≠ 0) ∧
    (∀ b ∈ [1, 2],
      let g := redSeg 3 0 (b :: List.replicate 63 0)
      reducesB (reducing root) 3 g br4 root = true ∧ leNat (g.payload.take 1) = b.toNat ∧ (root).pos = 0) ∧
    (let s := reducing leaf
     reducesB s 4 (redSeg 4 8) br4 leaf = true ∧ (leaf).pos ≠ 0 ∧ (leaf).status = none ∧
     s.posDevice 1 8 (heapParent (leaf).pos) = 1 ∧ (leaf).next = 0 ∧ (leaf).nodes ≠ []) ∧
    (let s := (reducing root).setFabric fun r => { r with members := [] }
     reducesB s 5 (redSeg 5 0) br4 root = true ∧ (s.resultTargets br4 root).contains 1 = false ∧ (root).next = 0 ∧ (root).nodes ≠ []) ∧
    (let s := reducing leaf (s := following 3)
     let g := redSeg 6 8 (1 :: List.replicate 63 0)
     reducesB s 6 g br4 leaf = true ∧ s.ownBlock br4 8 (locBlock g.address) = none ∧ locBlock g.address < (br4).cfg.blocks) ∧
    (∀ n ∈ [0, 256],
      let x := root fun y => { y with status := some stDONE, nextResult := n }
      reducesB (reducing x) 9 (redSeg 9 0) br4 x = true ∧ x.status ≠ none ∧ decide (x.nextResult = (br4).cfg.blocks) = (n == 256)) ∧
    (reducesB (reducing root) 9 (redSeg 9 0) br4 root = true ∧ reducesB (reducing leaf) 8 (redSeg 8 8) br4 leaf = true ∧
     (leaf).withheld = none ∧ (leaf).status = none) := by decide

theorem witness_ReductionControl_own :
    (let s := (reducing leaf).setF STACK_STATE_STATE 0 0 2
     let g := redSeg 6 8 (1 :: List.replicate 63 0)
     reducesB s 6 g br4 leaf = true ∧ leNat (g.payload.take 2) = 1 ∧ (s.ownBlock br4 8 (locBlock g.address)).isSome = true ∧
     (∀ o ∈ s.ownBlock br4 8 (locBlock g.address), o.2.2.2 = false) ∧ locBlock g.address + 1 < (br4).cfg.blocks) := by
  decide +kernel

/-- One block record of 64 BF16 zeros with a cairn word, as a result block's payload. -/
def record (cairn : Byte) : List Byte := [0, 0, 128, 0, 0, 0, 0, 0, cairn] ++ List.replicate 183 0

theorem witness_ReductionData :
    (let s := reducing root
     reducesB s 0 (redSeg 0 0 (record 0)) br4 root = true ∧ s.nodeOf br4 root 1 false = some (RedNode.fresh 1) ∧
     (s.segRecords br4 (redSeg 0 0 (record 0))).2.1.length = 1) ∧
    (let n := { RedNode.fresh 1 with missing := true, ownFrom := some 1 }
     let x := root fun y => { y with nodes := [n] }
     reducesB (reducing x) 7 (redSeg 7 0 (record 0)) br4 x = true ∧
     x.nodes.find? (fun m => m.missing && m.ownFrom == some 1) = some n) ∧
    (let s := reducing leaf
     ∀ p ∈ [((0 : Byte), true), (1, false)],
       let e : Nat × BlockRec := (3, ⟨false, BitVec.ofNat 64 p.1.toNat, List.replicate 128 0⟩)
       reducesB s 1 (redSeg 1 8 (record p.1)) br4 leaf = true ∧ (s.segRecords br4 (redSeg 1 8 (record p.1))).2.1 = [e] ∧
       (leaf).nextResult < e.1 ∧ e.1 + 1 ≠ (br4).cfg.blocks ∧ blockChecks (br4).cfg.wire e.2 = p.2 ∧
       kget none (leaf).results (leaf).nextResult = none ∧ kget 0 (leaf).checks (2 ^ 40 + e.1) = 0) ∧
    (∀ p ∈ [(3, 256, 0, false), (254, 256, 0, false), (255, 256, 0, true), (255, 320, 0, true), (255, 64, 4, true)],
      let x := leaf fun y => { y with fetching := true }
      let g := { redSeg 10 8 (List.replicate p.2.1 0) (block := p.1) with seg64 := p.2.2.1 }
      let b0 := locBlock g.address + g.seg64 / 4
      let n := min (g.payload.length / 256) ((br4).cfg.blocks - b0)
      reducesB (reducing x) 10 g br4 x = true ∧ noErrsB (reducing x) = true ∧ x.fetching = true ∧ x.status = none ∧
      decide ((br4).cfg.blocks ≤ b0 + n) = p.2.2.2 ∧
      decide (24 ≤ (g.payload.drop (n * 256)).length) = (p.2.2.2 && p.2.1 != 256)) ∧
    (reducesB (reducing leaf) 10 (redSeg 10 8) br4 leaf = true ∧ (leaf).fetching = false) := by decide +kernel

/-- Bucket 4 with the QUARANTINE scan of every die still to end. -/
def scanBr : BucketRun := br4 fun b => { b with scan := [0, 1, 2, 3] }
def scanned : State := State.reset.setRed fun r => { r with buckets := [scanBr] }

theorem witness_ReductionProgress :
    ((reducing root).dieRunning 0 = true ∧ kget 0 (reducing root).red.ready 0 ≤ 0 ∧
      1 ≤ kget 0 ((reducing root).setRed fun r => { r with ready := kset 0 r.ready 0 1 }).red.ready 0) ∧
    (∀ fly : Bool,
      let br := br4 fun b => { b with inFlight := fly }
      let s := (reducing root br).setF STAGE_SIZE_SIZE 0 0 64
      s.bucketRun 4 = some br ∧ br.status = none ∧ br.counted = [] ∧ s.dieRunning 0 = true ∧ s.awake = true ∧ s.mayFly br = true ∧ s.reserveShards br 0 ≠ s) ∧
    ((scanned).awake = true ∧ (scanned).bucketRun 4 = some scanBr ∧ ((scanned).liveDies.filter fun d => scanBr.scan.contains d) ≠ []) ∧  -- and witness_ReductionProgress_scan
    (let br := br4 fun b => { b with counted := [1], status := some stDONE }
     let s := (reducing root br).setF STAGE_SIZE_SIZE 0 0 64
     s.bucketRun 4 = some br ∧ s.dieRunning 0 = true ∧ s.lateDie br 0 = true ∧ s.reserveShards br 0 ≠ s) ∧
    (let x := root fun y => { y with admitted := true }
     (reducing x).folds br4 x = true ∧ (reducing root).folds br4 root = false ∧ (reducing root).shardRun 4 0 = some (root) ∧
     (((reducing x).foldNext br4 x).bucketRun 4).isSome = true ∧ (((reducing x).foldNext br4 x).shardRun 4 0).isSome = true ∧
     (reducing x).awake = true ∧ ((reducing x).setF STATE_STATUS_STATE 0 0 2).awake = false) ∧
    (let s := reducing root
     (root).status = none ∧ (br4).status = none ∧ s.straggler 1 ≠ 0 ∧ (reducing root (f := waits)).straggler 1 = 0 ∧
     (root).nodes = [RedNode.fresh 1] ∧ (RedNode.fresh 1).started = false ∧ (RedNode.fresh 1).missing = false) ∧
    (let n := { RedNode.fresh 1 with goSent := true }
     let x := root fun y => { y with nodes := [n] }
     (reducing x).shardRun 4 0 = some x ∧ x.node 1 = some n ∧ n.goSent = true ∧ kget none n.blocks x.next = none ∧
     (reducing x).dieRunning (shardDie 0) = true) ∧
    (let n := { RedNode.fresh 1 with missing := true, ownFrom := some 1 }
     let x := root fun y => { y with nodes := [n] }
     x.node 1 = some n ∧ x.status = none ∧ n.missing = true ∧ n.ownFrom.isSome = true ∧ n.suspect = false ∧ kget none n.owns x.next = none) := by
  decide +kernel

/-- With no byte of memory written, every buffer word is zero and no die's range holds a NaN. -/
theorem witness_ReductionProgress_scan (d : Nat) : (scanned).rangeHasNan scanBr d = false := by
  have z : ∀ a, (scanned).readN a 4 = 0 := fun a => by
    have b : (scanned).byte = fun _ => 0 := funext fun x => rfl
    simp only [State.readN, State.bytes, rangeFrom, b]
    rfl
  have n : (exactSum [fp32.decode 0]).1.isNan = false := by decide
  have c : ∀ sh, (scanned).carryHeld 4 sh = false := fun sh => rfl
  simp [State.rangeHasNan, c, scanBr, br4, State.elemWords, z, n]

/-- A NaN in the first word of the buffer of die 0. -/
def nanScanned : State := ((scanned).setF STACK_STATE_STATE 0 0 2).setByte 2 0xC0 |>.setByte 3 0x7F

theorem witness_ReductionProgress_nan : (nanScanned).bucketRun 4 = some scanBr ∧ (nanScanned).awake = true ∧
    0 ∈ (nanScanned).liveDies.filter (fun d => scanBr.scan.contains d) ∧ (nanScanned).rangeHasNan scanBr 0 = true := by decide +kernel

/-! #### Updates and exports -/

def dieOff (s : State) : State := s.setF DIE_STATE_STATE 0 0 1

/-- Bucket 4's update on die 0 in step 6: 16 blocks a shard, its arrays and buffer in stack T0, journal and commit word there too. -/
def run4 (f : UpdRun → UpdRun := id) : UpdRun :=
  f { bucket := 4, die := 0, step := 6, len := 0x8000, ptrs := [0x100000, 0x200000, 0x300000, 0x400000], commit := 0x500000,
      buf := 0x600000, tier := 0, avg := true, prog := 0, code := [1], hyper := [], hyperPois := false, next := [0, 0, 0],
      requeued := [], waiting := [], doneBlocks := 0, committed := 0, missed := 0, outcome := stDONE, slots := [], finished := false,
      depth := 8, ring := none, failed := [], folded := [] }
def updating (r : UpdRun := run4) (s : State := stackIn 2) : State :=
  ((s.setF JOURNAL_BASE_BASE 0 0 0x800).setF CSTORE_SIZE_SIZE 0 0 16).setUpd fun u => { u with runs := [r] }

theorem witness_UpdateStart :
    (let s := State.reset.setRed fun r => { r with launched := some 6 }
     s.red.launched = some 6 ∧ s.upd.buckets.any (fun u => u.bucket == 4 && u.step == 6) = false ∧
     (s.setUpd fun r => { r with buckets := [⟨4, 6, true, false, stDONE, false, none, [], []⟩] }).upd.buckets.any
       (fun u => u.bucket == 4 && u.step == 6) = true) ∧
    (State.reset.red.launched = none ∧ State.reset.upd.early.contains 4 = false) ∧
    (∀ left ∈ [1, 2],
      let f : BlkFetch := ⟨4, 3, 0, left, stDONE, false⟩
      let n := updTag 4 3 1 0
      let s := ((updating (run4 fun r => { r with tier := 1 })).setEngFetches 0 0 [f]).setTracker 0
        { Tracker.zero with done := [⟨.update 0 n, stDONE, []⟩] }
      n % 2 = 0 ∧ (s.tracker 0).done = [⟨.update 0 n, stDONE, []⟩] ∧ s.engFetches 0 0 = [f] ∧ f.bucket = n / 16 / 2 ^ 20 ∧
      f.block = n / 16 % 2 ^ 20 ∧ s.updRunOpen 4 0 = some (run4 fun r => { r with tier := 1 })) ∧
    ((updating).updRunOpen 4 0 = some (run4) ∧ (run4).nextBlock 0 = some 0 ∧ (updating).engineLive 0 = true ∧
      ((updating).engBlocks 0 0).length < 4 ∧ (updating).fetchOf 0 0 4 0 = none ∧
      (updating).collapsing (run4).step = false ∧ (updating).engineHeld 0 ((run4).buf + 512 * 0) 512 false = false ∧ (updating).streamsHeld (run4) 0 false [1, 2, 3, 4, 5] = false ∧
      (updating).freeSlot 0 0 = some 0 ∧ ((updating).storeUsed 6 = true → (updating).storeFree 0 = true) ∧ noErrsB (updating) = true) ∧
    (∀ left ∈ [0, 1],
      let r := run4 fun r => { r with tier := 1 }
      let f : BlkFetch := ⟨4, 0, 0, left, stTIMEOUT, false⟩
      let s := (updating r).setEngFetches 0 0 [f]
      s.engineLive 0 = true ∧ s.collapsing r.step = false ∧ s.updRunOpen 4 0 = some r ∧ r.nextBlock 0 = some 0 ∧ r.tier ≠ 0 ∧
      s.fetchOf 0 0 4 0 = some f ∧ f.status ≠ stDONE) ∧
    (updating (s := dieOff (stackIn 2))).engineLive 0 = false := by decide +kernel

/-- The buffer block reads clean, and with a poisoned word it does not; so do the streams, and the hyperparameters. -/
theorem witness_UpdateStart_inputs :
    (let s := updating
     let g := s.localRead 0 106 ((run4).buf + 512 * 0) 512
     g.2.2.any id = false ∧ (g.1.readStreams (run4) 0 0).2.2 = false ∧ (run4).hyperPois = false) ∧
    (let s := (updating).setPoison 0x600000 8 true
     (s.localRead 0 106 ((run4).buf + 512 * 0) 512).2.2.any id = true ∧ s.freeSlot 0 0 = some 0 ∧ s.engineLive 0 = true ∧
     noErrsB s = true) := by
  decide +kernel

/-- One block of engine 0 in a phase. -/
def blk (ph : BlkPhase) (outer : Nat := 0) (st : Nat := stDONE) : BlkRun := ⟨4, 0, 6, ph, 0, [], [], outer, st⟩
def inPhase (x : BlkRun) : State := (updating).setEngBlocks 0 0 [x]

theorem witness_UpdateBlockStages :
    ((inPhase (blk .snap)).blockAt 0 0 0 .snap = some (blk .snap) ∧
      (inPhase (blk .snap)).snapHeld 0 0 (blk .snap) = false ∧ noErrsB (inPhase (blk .snap)) = true ∧
      ((inPhase (blk .snap)).setF STACK_STATE_STATE 0 0 1).snapHeld 0 0 (blk .snap) = true ∧
      (inPhase (blk .snap)).extentReach ((inPhase (blk .snap)).slotAddr 0 0 0) 64 = .ok ∧
      (inPhase (blk .snap)).extentReach ((inPhase (blk .snap)).slotAddr 0 0 0 + 64) 1088 = .ok ∧
      (inPhase (blk .snap)).storeUsed 6 = true) ∧
    (let x := { blk .snap with old := List.replicate 4 (List.replicate 257 0) }
     let s := (inPhase x).setCor fun r => { r with sealedStep := some 6 }
     s.blockAt 0 0 0 .snap = some x ∧ s.storeUsed x.step = false ∧ (x.old.flatMap id).length = 1028) ∧
    ((inPhase (blk .moments)).blockAt 0 0 0 .moments = some (blk .moments) ∧
      (inPhase (blk .moments)).streamsHeld ((inPhase (blk .moments)).runOf 0 (blk .moments)) 0 true [3, 4] = false) ∧
    (∀ x ∈ [blk .weights, blk .weights 1, blk .weights 0 stPOISONED],
      let u := (inPhase x).collectOuter 0
      u.blockAt 0 0 0 .weights = some x ∧ u.streamsHeld (u.runOf 0 x) 0 true [1, 2, 5] = false) ∧
    (let u := (inPhase (blk .tag)).collectOuter 0
     u.blockAt 0 0 0 .tag = some (blk .tag) ∧ (blk .tag).outer = 0 ∧ (blk .tag).outerStatus = stDONE ∧
     (∀ y ∈ u.engBlocks 0 0, y.bucket = 4 → y.step = 6 → y.block < 0 → y.phase = .done) ∧
     u.extentReach ((u.runOf 0 (blk .tag)).commit + 2 * 0) 2 = .ok ∧
     u.engineHeld 0 ((u.runOf 0 (blk .tag)).commit + 2 * 0) 2 true = false ∧ noErrsB u = true) ∧
    ((inPhase (blk .done)).blockAt 0 0 0 .done = some (blk .done) ∧
      (inPhase (blk .done)).engineHeld 0 ((inPhase (blk .done)).slotAddr 0 0 0) 1 true = false ∧ noErrsB (inPhase (blk .done)) = true ∧
      (inPhase (blk .done)).extentReach ((inPhase (blk .done)).slotAddr 0 0 0) 1 = .ok) ∧
    (inPhase (blk .done)).engBlocks (0 / 4) (0 % 4) ≠ [] ∧ (∀ i < 16, (updating).engBlocks (i / 4) (i % 4) = []) := by
  decide +kernel

/-- Export 1 of die 0, its descriptor at 0x700000 with no segment, its completion word at 0x700100; bucket 0's update is over. -/
def exporting (x : ExportRun) (ctrl : Byte := 0) : State :=
  let s := (((stackIn 2).setByte 0x700028 0).setByte 0x700029 1).setByte 0x70002A 0x70
  ((s.setByte 0x700018 ctrl).setCor fun r => { r with sealedStep := some 6 }).setUpd fun u =>
    { u with exports := [x], buckets := [⟨0, 6, false, true, stDONE, true, none, [], []⟩] }
def exp (started : Bool) (left : Nat := 0) : ExportRun := ⟨1, 0, none, none, 0x700000, 6, started, 5, stDONE, left, [(5, 8)], 0, []⟩

/-- What the start of an export finds of its descriptor: whether something holds it, and its status. -/
def exportFound (s : State) : Bool × Nat :=
  let x := s.exportDesc 0x700000
  let r := s.openRun x.bucket 0 6
  (s.exportHeld 0 0x700000 x r,
    statusMax (if s.exportOk x ((List.range x.count).map fun i => s.exportSeg (x.map + 32 * i)) r.len then stDONE else stINVALID)
      (s.exportReach 0x700000 x r))

theorem witness_Exports :
    (∀ p ∈ [((0 : Byte), stDONE), (1, stINVALID)],
      let s := exporting (exp false) p.1
      let x := s.exportDesc 0x700000
      s.upd.exports.find? (fun z => z.id == 1) = some (exp false) ∧ s.isSealed 6 = true ∧ s.dieRunning 0 = true ∧ s.awake = true ∧
      s.upd.buckets.any (fun b => b.bucket == x.bucket && b.step == 6 && b.ended) = true ∧ (exp false).entry = none ∧
      exportFound s = (false, p.2) ∧ noErrsB s = true ∧ (s.openRun x.bucket 0 6).tier = 0) ∧
    exportFound ((exporting (exp false)).setPoison 0x700000 8 true) = (false, stPOISONED) ∧
    exportFound ((exporting (exp false)).setF STACK_STATE_STATE 0 0 1) = (true, stDONE) := by decide +kernel

/-- The frame that export 1 of die 0 waits for, its answer come. -/
def framed : ExportRun := { exp true 2 with frames := [(5, 0x2000, [1], [])] }

theorem witness_Exports_done :
    ((exp true 1).handle = none ∧ ((exporting (exp true 1)).tracker 0).done = [] ∧ 0 < (exp true 1).left) ∧
    ((exp true).left ≤ 0 ∧ (exp true).frames = [] ∧
      (exporting (exp true)).spaceOk ((exporting (exp true)).exportDesc 0x700000).doneAt 8 8 = true ∧
      ((exporting (exp true)).exportDesc 0x700000).doneAt = 0x700100 ∧ noErrsB (exporting (exp true)) = true) ∧
    (exporting (exp true)).PostsNow 0 0x700100 8 ∧
    (let s := (exporting framed).setTracker 0 { Tracker.zero with done := [⟨.event 5 1, stDONE, []⟩] }
     s.upd.exports.find? (fun z => z.id == 1) = some framed ∧ (s.tracker 0).done = [⟨.event 5 1, stDONE, []⟩] ∧
     (framed.frames.find? fun z => z.1 == 5).isSome = true ∧ 1 < framed.left ∧ s.PostsNow 0 0x2000 1 ∧ noErrsB s = true) := by
  refine ⟨by decide, by decide +kernel, ⟨?_, ?_, ?_⟩, ?_, ?_, ?_, ?_, ⟨?_, ?_, ?_⟩, ?_⟩ <;> decide +kernel

/-- An export of a bucket whose table entry names the first outer tier. -/
theorem witness_Exports_outer :
    (let s := (exporting (exp false)).setByte 0x33 0x20
     let x := s.exportDesc 0x700000
     (s.openRun x.bucket 0 6).tier ≠ 0 ∧ exportFound s = (false, stDONE) ∧ noErrsB s = true ∧ stTIMEOUT < 256 ∧ stTIMEOUT ≠ stDONE) := by
  decide +kernel

/-! #### Switchback engines, Couloir queues, traverse engines -/

/-- The switchback engine of die 0 in a state, with what it holds. -/
def sbIn (st : Nat) (x : Switchback := Switchback.zero) (s : State := stackIn 2) : State := (s.setSb 0 x).setF SB_STATUS_STATE 0 0 st
def fetched (w0 : Nat) (f : SbFetched → SbFetched := id) : SbFetched := f ⟨0, w0, 0xFFFFFFFFFF000000, none, 0x1000⟩
def wEnd : Nat := 2 * 2 ^ 62
def wRun : Nat := 2 ^ 9
def flight : SbFlight := ⟨0, wRun, 0, 0, [(0, 1)], 0⟩

theorem witness_SwitchbackControl :
    (sbIn 0).dieRunning 0 = true ∧ (sbIn 0).sbState 0 = 0 ∧ (sbIn 1).sbState 0 ≠ 0 ∧ ((sbIn 1).sb 0).flights = [] ∧
    (let s := sbIn 1 { Switchback.zero with flights := [flight] }
     (s.sb 0).flights ≠ [] ∧ s.sbState 0 ≠ 0 ∧ ∀ y ∈ (s.sb 0).flights, s.flightDone 0 y = false) ∧
    (let s := (sbIn 1 { Switchback.zero with flights := [{ flight with word1 := 0 }] }).setF STACK_STATE_STATE 0 0 1
     s.sbState 0 ≠ 0 ∧ ∀ y ∈ (s.sb 0).flights, s.hintHeld 0 (sbOff y.word1) = true) ∧
    (sbIn 2).sbState 0 = 2 ∧ (sbIn 3).sbState 0 = 3 ∧
    (∀ fl ∈ [[], [flight]],
      let s := sbIn 1 { Switchback.zero with fetched := [fetched wEnd], flights := fl }
      s.sbHead 0 = some (fetched wEnd) ∧ sbKind wEnd = 2 ∧ s.sbState 0 = 1 ∧ (s.sb 0).settle = none ∧
      (s.sb 0).stopping = false ∧ s.awake = true ∧ (s.sb 0).flights = fl ∧ s.sbDrains 0 = false) ∧
    (∀ k ∈ [none, some 0],
      let s := (sbIn 1 { Switchback.zero with ended := true }).setCor fun r => { r with drain := some (0, 1), sealedStep := k }
      (s.sb 0).ended = true ∧ s.sbDrains 0 = true ∧ s.isSealed (s.sbStep 0) = k.isSome) ∧
    (∀ x ∈ [SbSettle.restart 9, .reshard 9],
      let s := sbIn 1 { Switchback.zero with settle := some x }
      (s.sb 0).flights = [] ∧ s.sbState 0 ≠ 0 ∧ (s.sb 0).settle = some x) := by decide +kernel

theorem witness_SwitchbackEntries :
    (let s := sbIn 1
     s.dieRunning 0 = true ∧ s.awake = true ∧ s.sbNextRead 0 = some 0 ∧ s.engineHeld 0 (s.sbEntryAddr 0 0) 16 false = false ∧
     s.extentReach (s.sbEntryAddr 0 0) 16 = .ok ∧ (s.marks (s.sbEntryAddr 0 0) 16).any id = false ∧
     s.sbBad 0 (s.readN (s.sbEntryAddr 0 0) 8) = true ∧ s.hintHeld 0 (sbPre (s.readN (s.sbEntryAddr 0 0 + 8) 8)) = false) ∧
    (let s := (sbIn 1).setByte 1 2
     sbKind (s.readN (s.sbEntryAddr 0 0) 8) < 2 ∧ sbPre (s.readN (s.sbEntryAddr 0 0 + 8) 8) ≠ 255 ∧
     s.sbBad 0 (s.readN (s.sbEntryAddr 0 0) 8) = false ∧ s.extentReach (s.sbEntryAddr 0 0) 16 = .ok ∧
     s.hintHeld 0 (sbPre (s.readN (s.sbEntryAddr 0 0 + 8) 8)) = false) ∧
    (let s := sbIn 1 (s := State.reset)
     s.sbNextRead 0 = some 0 ∧ s.engineHeld 0 (s.sbEntryAddr 0 0) 16 false = false ∧
     (s.localRead 0 110 (s.sbEntryAddr 0 0) 16).2.2.any id = true) ∧
    (let s := sbIn 1 (s := stackIn 1)
     s.sbNextRead 0 = some 0 ∧ s.engineHeld 0 (s.sbEntryAddr 0 0) 16 false = true) ∧
    (let s := (((sbIn 1).setByte 1 2).setF HINT_TABLE_BASE 0 0 (granuleAddr 1 0 / 8192)).setF STACK_STATE_STATE 0 1 1
     sbKind (s.readN (s.sbEntryAddr 0 0) 8) < 2 ∧ s.hintHeld 0 (sbPre (s.readN (s.sbEntryAddr 0 0 + 8) 8)) = true ∧
     s.engineHeld 0 (s.sbEntryAddr 0 0) 16 false = false) ∧
    (∀ p ∈ [(0, true), (wRun, false)],
      let f := fetched p.1
      let s := sbIn 1 { Switchback.zero with fetched := [f] }
      s.sbHead 0 = some f ∧ s.sbState 0 = 1 ∧ (s.sb 0).stopping = false ∧ (s.sb 0).settle = none ∧ sbKind f.word0 ≠ 2 ∧
      s.sbBad 0 f.word0 = p.2 ∧ (p.2 = false → s.sbBlocked 0 f = 0)) ∧
    (let f := fetched wRun fun f => { f with word1 := 0xFFFF000000 }
     let s := sbIn 1 { Switchback.zero with fetched := [f] }
     s.sbHead 0 = some f ∧ s.sbBad 0 f.word0 = false ∧ (s.setF SB_STATUS_STEP 0 0 1).sbBlocked 0 f ≠ 0) ∧
    (let f := fetched wRun fun f => { f with prefetch := some stTIMEOUT, expert := SB_EXPERT_HINT_FAIL_STOP.put (BitVec.ofNat 64 f.expert.toNat) 1 }
     let s := sbIn 1 { Switchback.zero with fetched := [f] }
     s.sbHead 0 = some f ∧ s.sbBad 0 f.word0 = false ∧ s.sbBlocked 0 f = 0 ∧ SB_EXPERT_HINT_FAIL_STOP.get f.expert = 1 ∧
     f.prefetch.getD stDONE ≠ stDONE ∧ (s.sb 0).passFault = false) ∧
    (∀ st ∈ [stDONE, stTIMEOUT],
      let f := fetched wRun fun f => { f with index := 5, word1 := 2 ^ 40 }
      let s := (sbIn 1 { Switchback.zero with fetched := [f], hints := [(5, 1, true, 1)] }).setTracker 0
        { Tracker.zero with done := [⟨.switchback 5 1 true 1, st, []⟩] }
      (s.tracker 0).done = [⟨.switchback 5 1 true 1, st, []⟩] ∧ st < 256 ∧ s.dieRunning 0 = true ∧ s.awake = true ∧
      ∀ y ∈ (s.sb 0).hints, y.1 = 5 → y.2.2.1 = true → y.2.2.2 ≤ 1) := by
  decide +kernel

/-- Queue 3 of die 0, 64 words at 0x1000 in stack T0, in the package of job 7, with its packets and reservations. -/
def queued (x : Queue := Queue.zero) (rs : List QReserve := []) : State :=
  let s := (((peers (stackIn 2)).setF Q_CFG_ENABLE 0 3 1).setF Q_CFG_BASE 0 3 1).setF Q_SIZE_SIZE 0 3 1
  (s.setQueue 0 3 x).setReserveList 0 rs
def port3 : Nat := 0x800000300000
def enq (f : Segment → Segment := id) : Segment := f { seg port3 with len64 := 0 }
def reserve (words : Nat := 1) : QReserve := ⟨3, 1, 0, 0, 5, 0, words, false, 0⟩

theorem witness_QueueReservations :
    (meetsB queued (enq) [] = true ∧ meetsB queued (seg port3 8) ((queued).enqExtents (seg port3 8)) = true ∧
      (seg port3 8).job ≠ (queued).job ∧ (enq).job = (queued).job ∧ (queued).job ≠ 0) ∧
    (queued).enqueueStatus (enq fun g => { g with cls := 2 }) ≠ stDONE ∧ 
    ((queued).enqueueStatus (enq) = stDONE ∧ place (enq).address = .queuePort 0 3 0 ∧ ((queued).reserveList 0).length < 1024) ∧
    ((queued).dieRunning 0 = true ∧ (queued).awake = true ∧ (queued).grantable 0 3 = none) ∧
    ((queued Queue.zero [reserve]).grantable 0 3 = some (reserve) ∧ (reserve).own = false) ∧
    (queued Queue.zero [reserve 65]).grantable 0 3 = none ∧
    (let e := ent (.refused 77)
     (tracked [e]).entryOf 0 9 = some e ∧ (tracked [e]).ptrOwn e.req.ptr = false ∧
     ∀ x ∈ ((tracked [e]).tracker 0).entries, x.phase ≠ .behind) := by decide +kernel

/-- A reservation or segment of another job, its form right and wrong (R27). -/
theorem witness_QueueReservations_form : (queued).enqueueForm (seg port3 8) = stDONE ∧ (queued).enqueueForm (seg (port3 + 1) 8) ≠ stDONE ∧
    meetsB queued (seg (port3 + 1) 8) [] = true := by decide +kernel

/-- An own producer that reserves room for one word of queue 3. -/
def ownEnt : TrackEntry := ent .reserving { req with kind := .enqueue, ptr := BitVec.ofNat 64 port3, len := 64 }
def ownRes : QReserve := { reserve with own := true, srcDie := 0, tag := 9, step := ownEnt.req.step }
def ownQueued : State := (queued Queue.zero [ownRes]).setTracker 0 ((tracked [ownEnt]).tracker 0)

theorem witness_QueueReservations_own :
    ownQueued.grantable 0 3 = some ownRes ∧ ownRes.own = true ∧ noErrsB ownQueued = true ∧
    (ownQueued.tracker 0).entries.find? (fun e => e.id == ownRes.tag && e.req.step == ownRes.step && decide (e.phase = .reserving)) =
      some ownEnt ∧
    (ownQueued.tracker 0).late.contains (ownRes.tag, ownRes.step, doorSeg) = false ∧ ownQueued.ptrOwn ownEnt.req.ptr = true ∧
    place (ptrAddr ownEnt.req.ptr) = .queuePort 0 3 0 ∧ ownQueued.localSide ownEnt.req = stDONE ∧
    ownQueued.requestHeld 0 ownEnt.req = false ∧ ownQueued.heldAhead 0 ownEnt = false ∧ ownQueued.ringHeld 0 3 = false ∧
    ownQueued.gatherExtents 0 ownEnt.req = [] ∧ (ownQueued.enqBytes (ownQueued.gather 0 ownEnt).2.req).2.any id = false ∧
    (ownQueued.queue 0 3).packets = [] := by decide +kernel

theorem witness_QueueReservations_full :
    1024 ≤ ((queued Queue.zero (List.replicate 1024 (reserve))).reserveList 0).length ∧
    (queued Queue.zero (List.replicate 1024 (reserve))).enqueueStatus (enq) = stDONE := by decide +kernel

/-- A packet of the producer that `enq` names. -/
def pkt (words : Nat) (ph : QPhase) (f : QPacket → QPacket := id) : QPacket :=
  f ⟨1, 0, 0, 5, 0, words, [(0, words)], [], 0, ph, false, 9000, false, true⟩
def qOf (ps : List QPacket) (opened : Bool := false) : Queue := { Queue.zero with packets := ps, opened := opened }

theorem witness_QueuePackets :
    (∀ p ∈ [pkt 65 .granted, pkt 1 .granted],
      let s := queued (qOf [p])
      s.dieRunning 0 = true ∧ meetsB s (enq) (s.enqExtents (enq)) = true ∧ (enq).job = s.job ∧ s.job ≠ 0 ∧
      place (enq).address = .queuePort 0 3 0 ∧ s.packetOf 0 3 1 0 5 false = some p ∧ p.left ≠ 0 ∧ (enq).seg64 + (enq).payload.length / 64 ≤ p.words ∧ (enq).payload.length % 64 = 0 ∧
      ((s.queue 0 3).packets.find? fun y => !decide (y.phase = .visible)).map (·.phase) = some .granted ∧
      (s.queue 0 3).packets = (s.queue 0 3).visible ++ [p] ∧ p.landed.contains 0 = false) ∧
    ((enq).marks.any id = false ∧ (enq fun g => { g with marks := [true] }).marks.any id = true ∧
      ([0] : List Nat).length < (65 + 63) / 64 ∧ ([] ++ [0] : List Nat).length = (1 + 63) / 64 ∧ (enq).seg64 = lastSeg 1) ∧
    (let r := (1, 0, 5, stPOISONED, 1)
     let s := queued { Queue.zero with rewound := [r] }
     s.packetOf 0 3 1 0 5 false = none ∧ meetsB s (enq) (s.enqExtents (enq)) = true ∧
     (s.queue 0 3).rewound.find? (fun r => r.1 == 1 && r.2.1 == 0 && r.2.2.1 == 5) = some r) ∧
    (let due := ((queued (qOf [pkt 1 .granted])).queue 0 3).packets.filter fun p => decide (p.phase = .granted)
     due.find? (fun p => due.all fun y => decide (p.deadline ≤ y.deadline)) = some (pkt 1 .granted) ∧ (pkt 1 .granted).own = false) ∧
    (let p := pkt 1 .granted fun p => { p with own := true, tag := 9 }
     ((queued (qOf [p])).tracker p.srcDie).late.contains (p.tag, p.step, doorSeg) = false ∧ p.own = true ∧
     ((queued (qOf [p])).queue 0 3).packets.filter (fun p => decide (p.phase = .granted)) = [p]) ∧
    (((queued (qOf [pkt 2 .visible] true)).queue 0 3).visible = [pkt 2 .visible] ∧
      ((queued (qOf [pkt 2 .visible] true)).queue 0 3).opened = true ∧ (queued (qOf [pkt 2 .visible] true)).ringHeld 0 3 = false) ∧
    ((queued (qOf [pkt 2 .visible])).setF STACK_STATE_STATE 0 0 1).ringHeld 0 3 = true ∧
    (((queued).queue 0 3).visible = [] ∧ ((queued).queue 0 3).opened = false) := by decide +kernel

/-- The traverse ring at 0 in stack T0: slot 0 holds a DISPATCH (op 1) or a COMBINE (op 2), its record at 0x1000. -/
def bytesAt (s : State) (l : List (Nat × Byte)) : State := l.foldl (fun u p => u.setByte p.1 p.2) s
def travState (op : Byte) (v : Traverse := Traverse.zero) (s : State := queued) : State :=
  let disp : List (Nat × Byte) := [(9, 1), (0xA, 1), (0xC, 1), (0x10, 64), (0x14, 64), (0x19, 3), (0x1C, 1), (0x39, 0x30)]
  ((bytesAt s ([(0, op), (2, 5), (0x59, 0x10)] ++ if op = 1 then disp else [])).setF TRAV_HEAD_HEAD 0 0 1).setTraverse 0 v
def batch5 (f : TravBatch → TravBatch := id) : TravBatch :=
  f ⟨{ (travState 1).travDesc 0 0 with doneAddr := 0x1000 }, [], 0, 0, 0, none, false⟩

/-- The slot of the descriptor can be read; so can what a DISPATCH reads and what its verdict looks at. -/
def slotFree (s : State) : Bool := !s.engineHeld 0 0 128 false && decide (s.extentReach 0 128 = .ok)
def verdictOf (s : State) : Nat := s.travVerdict 0 (s.bytes 0 128) (s.travDesc 0 0)
def extOf (s : State) : List (Nat × Nat × Bool) := travExtents (s.travDesc 0 0) (((s.traverse 0).batch (s.travDesc 0 0).batch).map (·.desc))
def waitOn (a : Nat) (s : State) : State := s.setArrivals [⟨[(a, 128, true)], .talus 0 (.read 0 [])⟩]

theorem witness_TraverseDescriptors :
    (∀ s ∈ [travState 1, travState 2 { Traverse.zero with batches := [batch5] }],
      s.dieRunning 0 = true ∧ s.awake = true ∧ (s.traverse 0).dead = [] ∧ s.getF TRAV_TAIL_TAIL 0 0 ≠ s.getF TRAV_HEAD_HEAD 0 0 ∧
      s.travSlot 0 (s.getF TRAV_TAIL_TAIL 0 0) = 0 ∧ slotFree s = true ∧ (s.traverse 0).busy < 4 ∧ (s.marks 0 128).any id = false ∧
      s.extentsHeld 0 (extOf s) = false ∧ verdictOf s = stDONE) ∧
    (travState 1).engineHeld 0 0 128 false = false ∧ ((travState 1).setF STACK_STATE_STATE 0 0 1).engineHeld 0 0 128 false = true ∧
    ((travState 1).travDesc 0 0).op = 1 ∧ ((travState 2).travDesc 0 0).op = 2 ∧ ((travState 1).travDesc 0 0).flags.testBit 0 = false ∧
    (travState 1).extentReach ((travState 1).travDesc 0 0).doneAddr 64 = .ok ∧ travAddrOk ((travState 1).travDesc 0 0).doneAddr = true ∧
    noErrsB (travState 1) = true ∧
    (let s := bytesAt (travState 1) [(0x58, 1)]
     travAddrOk (s.travDesc 0 0).doneAddr = false ∧ verdictOf s = stINVALID ∧ slotFree s = true ∧
     travFormOk (s.bytes 0 128) (s.travDesc 0 0) = false ∧ s.extentsHeld 0 [((s.travDesc 0 0).doneAddr, 64, true)] = false) ∧
    (∀ p ∈ [(0x20, false), (0x18, true)],
      let s := (travState 1).setPoison p.1 8 true
      slotFree s = true ∧ (s.marks 0 128).any id = true ∧
      ((((s.marks 0 128).drop (0x18 / 4)).take (8 / 4)).any id = p.2 ∧ ((s.marks 0 128).take 2).any id = false ∧
        (((s.marks 0 128).drop (0x58 / 4)).take (8 / 4)).any id = false)) ∧
    (let s := waitOn 0x2000 (travState 1)
     slotFree s = true ∧ s.extentsHeld 0 (extOf s) = true) ∧
    (∀ s ∈ [travState 2, (travState 1).setF Q_CFG_ENABLE 0 3 0], verdictOf s = stNORES ∧ slotFree s = true ∧ s.extentsHeld 0 (extOf s) = false) ∧
    (let s := travState 3
     ¬ ((s.travDesc 0 0).op = 1 ∨ (s.travDesc 0 0).op = 2) ∧ verdictOf s = stINVALID ∧ slotFree s = true ∧
     s.extentsHeld 0 [((s.travDesc 0 0).doneAddr, 64, true)] = false) := by decide +kernel

theorem witness_TraverseDescriptors_inputs :
    (let s := travState 1
     let x := s.travDesc 0 0
     (s.traverse 0).batches.length < 16 ∧ s.travSending 0 = false ∧ (s.localRead 0 105 x.experts (x.nexperts * 2)).2.2.any id = false ∧
     s.extentsHeld 0 (s.travInputs 0 x) = false ∧ (s.travReadAll 0 (s.travInputs 0 x)).2 = false ∧ (s.travList x).Nodup ∧
     x.flags.testBit 2 = false ∧ x.tokens * x.k = 1) ∧
    (let s := (travState 1).setPoison 0x3000 8 true
     let x := s.travDesc 0 0
     (s.localRead 0 105 x.experts (x.nexperts * 2)).2.2.any id = true ∧ verdictOf s = stDONE ∧ slotFree s = true) ∧
    (let s := waitOn 0x80000 ((travState 1).setF EXPERT_MAP_BASE 0 0 1)
     let x := s.travDesc 0 0
     s.extentsHeld 0 (s.travInputs 0 x) = true ∧ s.extentsHeld 0 (extOf s) = false ∧ verdictOf s = stDONE ∧
     (s.localRead 0 105 x.experts (x.nexperts * 2)).2.2.any id = false) ∧
    (let s := ((travState 1).setF EXPERT_MAP_BASE 0 0 1).setPoison 0x80000 8 true
     let x := s.travDesc 0 0
     s.extentsHeld 0 (s.travInputs 0 x) = false ∧ (s.travReadAll 0 (s.travInputs 0 x)).2 = true ∧ verdictOf s = stDONE) ∧
    4 ≤ ({ Traverse.zero with batches := List.replicate 4 (batch5) } : Traverse).busy ∧
    16 ≤ ({ Traverse.zero with batches := List.replicate 16 (batch5 fun b => { b with completed := some 3 }) } : Traverse).batches.length ∧
    (let s := (travState 1).setTracker 0 { Tracker.zero with waiters := [req (.traverse 5)] }
     s.travSending 0 = true ∧ verdictOf s = stDONE) := by decide +kernel

/-- A waiting send of the traverse engine, whose packet still has a home or has none. -/
theorem witness_TrackerEvents_traverse :
    let r := req (.traverse 1)
    let s := tracked [] [r]
    let u := s.setTraverse 0 { Traverse.zero with batches := [batch5 fun b => { b with packets := [⟨6, 1, 1, [], 1, none, false, false, false, []⟩] }] }
    (s.tracker 0).nextWaiter = some r ∧ s.dieRunning 0 = true ∧ (s.tracker 0).entries.length < s.trackerRoom 0 ∧
    (s.travReaim 0 r).2 = some r ∧ (u.tracker 0).nextWaiter = some r ∧ (u.travReaim 0 r).2 = none := by
  decide +kernel


/-- A return queue whose oldest packet is one RETURN header (OP 2, batch 5, expert 6) of one word, and the batch it may match. -/
def returned (expert : Byte) (b : TravBatch := batch5 fun b => { b with packets := [⟨6, 1, 1, [⟨0, 0, 6, 0, false⟩], 1, none, false, false, false, []⟩] }) :
    State :=
  (bytesAt (queued (qOf [pkt 1 .visible])) [(0x1000, 2), (0x1002, 5), (0x1010, expert)]).setTraverse 0
    { Traverse.zero with batches := [b] }

theorem witness_TraverseReturns :
    (∀ p ∈ [((6 : Byte), true), (7, false)],
      let s := returned p.1
      let h := (s.found (s.ringAddr 0 3 (pkt 1 .visible) 0) 64).1
      s.dieRunning 0 = true ∧ s.awake = true ∧ (s.traverse 0).batches.any (fun b => b.desc.retQ == 3) = true ∧
      (s.queue 0 3).visible = [pkt 1 .visible] ∧ s.engineHeld 0 (s.ringAddr 0 3 (pkt 1 .visible) 0) 64 false = false ∧
      (s.found (s.ringAddr 0 3 (pkt 1 .visible) 0) 64).2.any id = false ∧ noErrsB s = true ∧
      ((s.traverse 0).batches.any fun b => b.desc.retQ == 3 && b.desc.batch == leNat ((h.drop 2).take 2) && !b.expired &&
        leNat (h.take 1) == 2 && b.packets.any fun k => k.expert == leNat ((h.drop 16).take 2) && !k.returned &&
          (k.status.isNone || k.status == some stDONE)) = p.2) := by decide +kernel

theorem witness_TraverseReturns_combine :
    (queued).awake = true ∧ (queued).traverse 0 = Traverse.zero ∧
    (let s := (returned 6).setPoison 0x1000 8 true
     (s.found (s.ringAddr 0 3 (pkt 1 .visible) 0) 64).2.any id = true ∧ s.engineHeld 0 (s.ringAddr 0 3 (pkt 1 .visible) 0) 64 false = false) ∧
    (let s := waitOn 0x1000 (returned 6)
     s.engineHeld 0 (s.ringAddr 0 3 (pkt 1 .visible) 0) 64 false = true) ∧
    (let s := waitOn 0x2000 (returned 6 (batch5 fun b => { b with desc := { b.desc with retBuf := 0x2000 }, packets := [⟨6, 1, 1, [], 1, none, false, false, false, []⟩] }))
     s.engineHeld 0 0x2000 64 true = true ∧ s.engineHeld 0 (s.ringAddr 0 3 (pkt 1 .visible) 0) 64 false = false) ∧
    (let x := { (batch5).desc with op := 2 }
     let s := (queued).setTraverse 0 { Traverse.zero with batches := [batch5 fun b => { b with completed := some 50 }], combines := [x] }
     ((s.traverse 0).batch 5).isSome = true ∧ s.extentsHeld 0 ((batch5).combineExtents x) = false ∧
     ((s.setF STACK_STATE_STATE 0 0 1).extentsHeld 0 ((batch5).combineExtents x)) = true ∧ x.op = 2) ∧
    (let b := batch5 fun b => { b with completed := some 50 }
     let s := (queued).setTraverse 0 { Traverse.zero with batches := [b] }
     (s.traverse 0).batch 5 = some b ∧ b.completed = some 50 ∧ b.complete = true ∧ (batch5).complete = false) ∧
    (let x := { (batch5).desc with op := 2 }
     let s := (queued).setTraverse 0 { Traverse.zero with combines := [x] }
     (s.traverse 0).combines.find? (fun y => y.batch == 5) = some x ∧ x.flags.testBit 0 = false ∧
     travAddrOk x.doneAddr = true ∧ noErrsB s = true ∧ s.extentReach x.doneAddr 64 = .ok ∧ (s.traverse 0).batch 5 = none) := by
  decide +kernel

/-! #### The host link -/

/-- A bound, attached package with ring 2 of 64 entries either way, stack T0 ACTIVE. -/
def hosted (f : HostLink → HostLink := id) (s : State := stackIn 2) : State :=
  let t := (((s.setF HOST_BLK_STATUS_BOUND 0 0 1).setF HOST_BLK_STATUS_ATTACHED 0 0 1).setF RING_CFG_SQ_EN 0 2 1).setF RING_CFG_CQ_EN 0 2 1
  (((t.setF RING_CFG_SQ_LOG2 0 2 6).setF RING_CFG_CQ_LOG2 0 2 6).setF RING_STATE_STATE 0 2 1).setHost f
def linked (f : HostLink → HostLink := id) : State := hosted fun r => f { r with linkUp := true, hdmSize := 0x10000000 }

/-! Signed sideband commands (R477): an operator key of one level that signed a message, and the message. -/

def operatorSig : LmsSig := plainSig 6 10
def commandKey (code seq : Nat) (body : List Byte) : List Byte :=
  beBytes 4 1 ++ (operatorSig.key zeroId (sideCovered code seq body)).bytes
def commandMsg (code seq : Nat) (body : List Byte) : List Byte := sideBytes code seq body (beBytes 4 0 ++ operatorSig.bytes)
/-- The state that holds that key, its last accepted SEQ 4. -/
def withKey (code seq : Nat) (body : List Byte) (s : State) : State := s.setSec fun x => { x with
  keyRecord := some (.of "operator key" (commandKey code seq body)), seqRecord := some (.of "command sequence" (leBytes 8 4)) }

/-- A message that its key signed is accepted, with SEQ above the last one; with SEQ at it, or without its signature, it is refused. -/
theorem commandMsg_holds (code seq : Nat) (form : List Byte → Bool) (body : List Byte) (s : State) (hc : code < 65536) (hs : seq < 2 ^ 64)
    (hb : body.length < 65536) (hf : form body = true) :
    ∃ x, sideCommand code form (commandMsg code seq body) = some x ∧ x.seq = seq ∧ x.body = body ∧
      (withKey code seq body s).sec.operatorKey = some (commandKey code seq body) ∧ (withKey code seq body s).sec.lastSeq = 4 ∧
      hssVerify (commandKey code seq body) x.covered x.signature = true ∧
      (4 < seq → (withKey code seq body s).commandReason (some x) = 0) ∧
      (seq ≤ 4 → (withKey code seq body s).commandReason (some x) = 2) := by
  have k : (withKey code seq body s).sec.operatorKey = some (commandKey code seq body) := by
    simp only [Security.operatorKey, withKey, State.setSec, Option.bind_some, StoreRecord.read_of]
  have l : (withKey code seq body s).sec.lastSeq = 4 := by
    simp only [Security.lastSeq, withKey, State.setSec, Option.bind_some, StoreRecord.read_of, Option.map_some, Option.getD_some]
    exact leNat_leBytes 8 4 (by norm_num)
  have v : hssVerify (commandKey code seq body) (sideCovered code seq body) (beBytes 4 0 ++ operatorSig.bytes) = true :=
    hssVerify_key (plainSig_sound rfl) zeroId _ List.length_replicate
  refine ⟨_, sideCommand_bytes code seq form body _ hc hs hb hf, rfl, rfl, k, l, v, fun h => ?_, fun h => ?_⟩ <;>
    simp only [State.commandReason, k, l, v] <;> simp <;> omega

/-- Without its signature no message verifies. -/
theorem hssVerify_none (key msg : List Byte) : hssVerify key msg [] = false := by simp [hssVerify]

/-- A notice that unbinds, signed by the operator key. -/
theorem witness_HostRings_notice : (withKey 5 9 [] hosted).inRecovery = false ∧ (withKey 5 9 [] hosted).bound = true ∧
    ∃ x, sideCommand 0x0005 List.isEmpty (commandMsg 5 9 []) = some x ∧ (withKey 5 9 [] hosted).commandReason (some x) = 0 := by
  obtain ⟨x, e, -, -, -, -, -, h, -⟩ := commandMsg_holds 5 9 List.isEmpty [] hosted (by norm_num) (by norm_num) (by norm_num) rfl
  exact ⟨by decide, by decide, x, e, h (by norm_num)⟩

theorem witness_HostRings :
    ((linked).host.linkUp = true ∧ (linked).power.inReset = false) ∧
    sideCommand 0x0005 List.isEmpty [] = none ∧ (hosted).commandReason none = 4 ∧
    ((ranged 31 1 (hosted)).rangeState 31 = 1 ∧ State.reset.power.inReset = false) ∧
    (State.reset.bound = false ∧ (hosted).bound = true ∧ (hosted).inRecovery = false ∧
      ((hosted).setF BOOT_STATUS_RECOVERY 0 0 1).inRecovery = true) ∧
    ((5 : Fin 32).val < 6 ∧ 16 < (17 : Fin 32).val ∧ (hosted).flag RING_CFG_SQ_EN 0 2 = true ∧ 7 ≠ (hosted).getF RING_CFG_SQ_LOG2 0 2 ∧
      6 = (hosted).getF RING_CFG_SQ_LOG2 0 2 ∧ (hosted).flag RING_CFG_CQ_EN 0 2 = true ∧ 6 = (hosted).getF RING_CFG_CQ_LOG2 0 2 ∧
      State.reset.flag RING_CFG_SQ_EN 0 63 = false ∧ State.reset.flag RING_CFG_CQ_EN 0 63 = false) ∧
    (∀ w : Bool,
      let s := (((hosted).setF STATE_STATUS_STATE 0 0 2).setLow fun r => { r with expert := if w then BitVec.allOnes 64 else 0 }).setRing 2
        { RingPair.zero with sqTail := 3 }
      s.bound = true ∧ s.powerState = 2 ∧ s.ringOn 2 = true ∧ s.wakesOn STATE_EXPERT_WAKE_ON_DOORBELL = w ∧
      (leNat ((3 :: List.replicate 63 0 : List Byte).take 4) = (s.ring 2).sqTail) ∧
      (leNat ((4 :: List.replicate 63 0 : List Byte).take 4) ≠ (s.ring 2).sqTail)) ∧
    ((hosted).powerState ≠ 2 ∧ (hosted).ringOn 2 = true ∧
      ∀ m ∈ [0, 1], ((hosted).setF HOST_EXPERT_DOORBELL_MODE 0 0 m).flag HOST_EXPERT_DOORBELL_MODE 0 0 = (m == 1)) ∧
    (let s := ((hosted).setF RING_CFG_MOD_US 0 2 9).setRing 2 { RingPair.zero with unsignalled := 3 }
     (s.ring 2).unsignalled ≠ 0 ∧ s.getF RING_CFG_MOD_US 0 2 ≠ 0 ∧ (kget 1 s.host.msix 3).testBit 0 = true) ∧
    (let s := (((hosted).setF RING_CFG_MOD_US 0 2 9).setRing 2 { RingPair.zero with unsignalled := 3 }).setHost fun r =>
       { r with msix := kset 1 r.msix 3 0 }
     (kget 1 s.host.msix (4 * s.getF RING_CFG_VECTOR 0 2 + 3)).testBit 0 = false) := by decide +kernel

def desc (op : Nat) (f : Desc → Desc := id) : Desc := f ⟨5, 77, 2, 1, op, 0, 2, 1, 0, 1, 6, 0, 0, 0, 0, true, false, false⟩
def holding (ds : List Desc) (due : List Completion := []) : State := hosted fun r => { r with descs := ds, due := due }
def complet (f : Completion → Completion := id) : Completion := f ⟨5, 0, 77, stDONE, 0, 0, false, 0, 6, 2, 0, 0, false⟩

theorem witness_HostDescriptors :
    State.reset.attached = false ∧
    (let s := (hosted).setRing 2 { RingPair.zero with sqTail := 1 }
     s.attached = true ∧ s.awake = true ∧ s.power.inReset = false ∧ s.power.stopped = none ∧ s.nextRing = some 2 ∧
     s.handleFree = true ∧ (List.replicate 64 (0 : Byte)).length = 64 ∧ s.host.descs = [] ∧
     descOk (List.replicate 64 0) (descOf (List.replicate 64 0) 0 (2 * 2 ^ 26) 2 0) = true ∧
     descOk (9 :: List.replicate 63 0) (descOf (9 :: List.replicate 63 0) 0 (2 * 2 ^ 26) 2 0) = false) ∧
    (∀ p ∈ [(0x1000, true), (0x2000000000, false)],
      let s := hosted fun r => { r with chains := [⟨p.1, 2, 4095⟩] }
      s.host.chains[0]? = some ⟨p.1, 2, 4095⟩ ∧ s.handleFree = true ∧ s.awake = true ∧ s.accessHeld p.1 64 false = false ∧
      decide (s.extentReach p.1 64 = .ok) = p.2 ∧ s.poisoned p.1 64 = false ∧ ((s.bytes p.1 64).getD 1 0).toNat.testBit 7 = false) ∧
    (∀ op < 8,
      (holding [desc op]).startable 77 op = some (desc op) ∧ (holding []).startable 77 op = none ∧
      (holding [desc op]).collapseDiscards 6 0 = false ∧ (holding [desc op]).dieRunning 0 = true ∧
      (let s := ((holding [desc op]).setF CORNICE_STATUS_STATE 0 0 4).setF CORNICE_STATUS_STEP 0 0 5
       s.startable 77 op = some (desc op) ∧ s.collapseDiscards (desc op).step 0 = true) ∧
      (let s := (holding [desc op]).setF DIE_STATE_STATE 0 0 1
       s.startable 77 op = some (desc op) ∧ s.collapseDiscards (desc op).step 0 = false ∧ s.dieRunning 0 = false)) ∧
    (let d := desc 3 fun d => { d with a1 := 1, a2 := 1 }
     (holding [d]).startable 77 3 = some d ∧ (holding [d]).flag CORE_CTRL_RUN 0 0 = false ∧
     ((holding [d]).setF CORE_CTRL_RUN 0 0 1).flag CORE_CTRL_RUN 0 0 = true ∧ d.a1.testBit 0 = true ∧ d.a2.testBit 0 = true ∧
     (holding [d]).extentReach d.a0 2 = .ok ∧ ((holding [d]).setF STACK_STATE_STATE 0 0 1).extentReach d.a0 2 = .held ∧
     (holding [d]).extentReach 0x2000000000 2 = .unmapped) ∧
    ((holding [desc 7]).exportStatus (desc 7) = stDONE ∧
      (holding [desc 7]).exportStatus (desc 7 fun d => { d with a0 := 1 }) ≠ stDONE) ∧
    (let s := (hosted fun r => { r with chains := [⟨0x1000, 2, 0⟩] }).setPoison 0x1000 8 true
     s.extentReach 0x1000 64 = .ok ∧ s.poisoned 0x1000 64 = true ∧ s.accessHeld 0x1000 64 false = false) ∧
    (let e := desc 0 fun d => { d with uid := 6, handle := 78, order := 0 }
     let s := holding [desc 0, e]
     s.host.descs.find? (fun d => d.handle == 77) = some (desc 0) ∧
     s.host.descs.any (fun x => x.ring == 2 && decide (x.order < 1) && !s.completed x.uid) = true ∧
     (holding [desc 0]).host.descs.any (fun x => x.ring == 2 && decide (x.order < 1) && !(holding [desc 0]).completed x.uid) = false) := by
  decide +kernel

theorem witness_HostCompletions :
    ((holding [desc 0]).completed 5 = false ∧ (holding [desc 0]).host.descs.find? (fun d => d.uid == 5) = some (desc 0) ∧
      (desc 0).discard = false ∧ (desc 0).flags.testBit 2 = false ∧ (desc 0 fun d => { d with flags := 4 }).flags.testBit 2 = true) ∧
    (holding []).host.due = [] ∧
    (let s := holding [desc 0] [complet]
     s.host.due = [complet] ∧ (complet).cq < 64 ∧ s.cqReady 2 = true ∧ (∀ x ∈ s.host.spill, x.cq ≠ 2) ∧
     (s.setF RING_CFG_CQ_EN 0 2 0).cqReady 2 = false ∧ s.spillFull = false ∧ noErrsB s = true) ∧
    (holding [desc 0] [complet]).PostsNow campDie ((holding [desc 0] [complet]).spillAddr 0) 32 ∧
    (let s := (holding []).setRing 2 { RingPair.zero with lost := 3 }
     s.host.spill.length + ((List.range 64).filter fun r => (s.ring r).lost != 0).length ≤ 2097152) ∧
    (∀ en ∈ [0, 1],
      let s := (hosted fun r => { r with spill := [complet] }).setF RING_CFG_CQ_EN 0 2 en
      s.host.spill.find? (fun c => c.cq == 2) = some (complet) ∧ s.cqReady 2 = (en == 1) ∧
      s.engineHeld campDie (s.spillAddr (complet).slot) 32 false = false ∧
      (s.setF STACK_STATE_STATE 0 0 1).engineHeld campDie (s.spillAddr (complet).slot) 32 false = true) := by
  refine ⟨by decide, by decide, by decide +kernel, ⟨?_, ?_, ?_⟩, by decide +kernel, by decide +kernel⟩ <;> decide +kernel

theorem witness_HostCompletions_full :
    let s := holding [] [complet] |>.setHost fun r => { r with spill := List.replicate 2097152 (complet) }
    s.spillFull = true ∧ s.host.due = [complet] ∧ ∃ x ∈ s.host.spill, x.cq = (complet).cq := by
  refine ⟨?_, rfl, complet, ?_, rfl⟩
  · simp [State.spillFull, State.setHost, -List.reduceReplicate]
  · simp [State.setHost, -List.reduceReplicate]

theorem witness_HostMemory :
    (State.reset.bound = false ∧ (linked).bound = true ∧ (linked).host.linkUp = true ∧ 0 * 64 + 64 ≤ (linked).host.hdmSize ∧
      (linked).host.hdmSize < 0x400000 * 64 + 64 ∧ (linked).power.inReset = false ∧ (linked).powerState = 0 ∧
      (∀ w : Bool, (linked).behind 0 64 w = false ∧ (waitOn 0 linked).behind 0 64 w = true) ∧
      (linked).extentReach (0 * 64) 64 = .ok ∧ ((linked).host.snoop.filter fun l => l.1 != 0).length < 262144) ∧
    (∀ p ∈ [(1, Reach.held), (4, .retired)], ((linked).setF STACK_STATE_STATE 0 0 p.1).extentReach 0 64 = p.2) ∧
    ((linked).setF DIE_STATE_STATE 0 0 1).extentReach 0 64 = .unreachable ∧
    (∀ st ∈ [2, 3, 5, 6], ((linked).setF STATE_STATUS_STATE 0 0 st).powerState = st ∧ ((linked).setF STATE_STATUS_STATE 0 0 st).bound = true) ∧
    (∀ m : Bool,
      let s := linked fun r => { r with snoop := [(0, m)] }
      s.host.snoop.find? (fun l => l.1 == 0) = some (0, m) ∧ s.extentReach (0 * 64) 64 = .ok ∧
      (s.setF STACK_STATE_STATE 0 0 1).extentReach (0 * 64) 64 = .held) ∧
    ((hosted).host.failedRun < 3 ∧ (hosted).getF RING_STATE_STATE 0 2 ≠ 0) ∧
    (∀ n ∈ [2, 3],
      let s := (tracked [ent .host]).setHost fun r => { r with failedRun := n }
      s.entryOf 0 9 = some (ent .host) ∧ s.host.failedRun = n ∧ (s.tracker 0).late = [] ∧
      (ent .host).req.kind = .get ∧ s.accessHeld (ent .host).req.loc 128 true = false ∧
      ((s.setTracker 0 { s.tracker 0 with late := [(9, 4, hostSeg)] }).tracker 0).late.any (fun l => l.1 == 9 && l.2.2 == hostSeg) = true) ∧
    (let e := ent .host { req with loc := 0 }
     let s := (tracked [e]).setF STACK_STATE_STATE 0 0 1
     s.entryOf 0 9 = some e ∧ s.accessHeld e.req.loc 64 true = true ∧ s.host.failedRun = 0) := by decide +kernel

theorem witness_HostMemory_filter :
    262144 ≤ ((linked fun r => { r with snoop := List.replicate 262144 (1, false) }).host.snoop.filter fun l => l.1 != 0).length := by
  have h : (linked fun r => { r with snoop := List.replicate 262144 (1, false) }).host.snoop = List.replicate 262144 (1, false) := rfl
  rw [h]
  simp [-List.reduceReplicate]

/-- A full filter of lines that the host holds: the oldest grant is the next to be taken back (R392). -/
theorem witness_HostMemory_victim :
    let s := linked fun r => { r with snoop := List.replicate 262144 (1, false) }
    (∃ rest, (s.host.snoop.filter fun l => l.1 != 0) = (1, false) :: rest ∧ 262144 ≤ rest.length + 1) ∧ s.host.victim = none := by
  intro s
  have h : s.host.snoop = List.replicate 262144 (1, false) := rfl
  refine ⟨⟨List.replicate 262143 (1, false), ?_, by rw [List.length_replicate]⟩, rfl⟩
  rw [h, List.filter_eq_self.mpr fun x hx => by rw [List.eq_of_mem_replicate hx]; rfl]
  exact List.replicate_succ

theorem witness_HostMemory_clean : (linked).NoErrs ∧ (∀ m v, (linked fun r => { r with snoop := [(0, m)], victim := v }).NoErrs) ∧
    (List.replicate 64 (0 : Byte)).length = 64 :=
  ⟨noErrs_of (by decide), fun _ _ => noErrs_of rfl, List.length_replicate⟩

/-! #### The package: links, fences, resets, low power, supply, cooling -/

/-- The 60 bytes of a Col flit. -/
def flitOf : List Byte := List.replicate 60 7

theorem witness_PackageLinks :
    (let s := State.reset.setF SADDLE_STATUS_WIDTH 0 1 0
     s.getF SADDLE_STATUS_STATE 0 1 = 0 ∧ 1 ≠ s.getF SADDLE_STATUS_WIDTH 0 1 ∧ 0 = s.getF SADDLE_STATUS_WIDTH 0 1 ∧
     s.getF SADDLE_STATUS_SEL 0 1 < 4 ∧ (s.saddle 3).dead = [] ∧ (kget (0, 0) (s.saddle 3).streaks 63).2 < 64 ∧
     kget (0, 0) (s.saddle 3).streaks 63 ≠ (19, 63) ∧
     kget (0, 0) (kset (0, 0) (s.saddle 3).streaks 63 (19, 63)) 63 = (19, 63)) ∧
    (stackIn 2).extentReach 0 512 = .ok ∧ (stackIn 2).getF SADDLE_STATUS_STATE 0 1 = 0 ∧ (List.replicate 512 (0 : Byte)).length = 512 ∧
    (4 : BitVec 4) ≠ 0 ∧ (∀ f ∈ [flitOf], f.length = 60 ∧ colIntact (flipBits (f ++ leBytes 4 (crc32 f)) [3]) = false) ∧
    (State.reset.setF SADDLE_STATUS_STATE 0 1 1).getF SADDLE_STATUS_STATE 0 1 = 1 ∧ State.reset.getF SADDLE_STATUS_STATE 0 1 ≠ 1 ∧
    (State.reset.getF COL_STATUS_STATE 0 2 = 0 ∧ (State.reset.col 2).up.slot = none ∧
      (∀ n ∈ [14, 15],
        let x : ColDir := { ColDir.zero with queue := [(2, []), (1, flitOf)], streak := n }
        let y : ColDir := { x with queue := [(2, [])], sent := [flitOf] }
        x.slot = some (flitOf, y) ∧ x.again = false ∧ decide (y.streak + 1 < 16) = (n == 14)) ∧
      (let x : ColDir := { ColDir.zero with queue := [(2, [])], sent := [flitOf], again := true }
       x.slot = some (flitOf, x))) ∧
    (State.reset.setF COL_STATUS_STATE 0 2 1).getF COL_STATUS_STATE 0 2 = 1 ∧ State.reset.getF COL_STATUS_STATE 0 2 ≠ 1 ∧
    (3 ∈ ((State.reset.setFence 2 ⟨[3], true, 1, false⟩).fenceOf 2).causes ∧ 3 ∉ (State.reset.fenceOf 2).causes) ∧
    (State.reset.pairPath 0 1).waiting = false ∧
    (({ State.reset with paths := [(0 * 4 + 1, ⟨[3, 2, 1], true⟩)] } : State).pairPath 0 1).waiting = true := by decide +kernel

def dieIn (d st : Nat) (f : DieFence := DieFence.zero) : State := (State.reset.setF DIE_STATE_STATE 0 d st).setFence d f

theorem witness_DieFenceAndReturn :
    (State.reset.powerState = 0 ∧ State.reset.power.stopped = none ∧ State.reset.power.inReset = false ∧ State.reset.dieState 3 ≠ 1 ∧
      State.reset.dieState 3 ≠ 4 ∧ State.reset.dieRunning 3 = true) ∧
    (∀ st ∈ [1, 2, 3, 4], (dieIn 3 st).dieState 3 = st ∧ (dieIn 3 st).powerState = 0) ∧
    (∀ st ∈ [2, 3, 5, 6], (State.reset.setF STATE_STATUS_STATE 0 0 st).powerState = st) ∧
    (∀ k < 4, State.reset.dieRunning k = true ∧ (15 : Fin 16).val.testBit k = true) ∧
    ((8 : Fin 16).val = 2 ^ 3 ∧ State.reset.dieRunning 0 = true) ∧
    ((dieIn 3 4).dieState 3 = 4 ∧ ((dieIn 3 4).fenceOf 3).causes = [] ∧ (dieLinks 3).any (dieIn 3 4).ledgerLive = true) ∧
    (2 ∈ ((dieIn 3 1 ⟨[2], true, 1, false⟩).fenceOf 3).causes ∧ ∀ c ∈ ((dieIn 3 1 ⟨[2], true, 1, false⟩).fenceOf 3).causes, c = 2) ∧
    2 ∉ (State.reset.fenceOf 3).causes ∧
    (∀ auto : Bool, let s := dieIn 3 1 ⟨[2], auto, 1, false⟩
      s.power.stopped = none ∧ s.power.inReset = false ∧ (s.fenceOf 3).auto = auto ∧ (dieLinks 3).any s.ledgerLive = true) := by
  decide +kernel

def inReset : State := State.reset.setPower fun p => { p with inReset := true }

/-- The reset state with its low-speed signals floating (R519). -/
def afloat : State := State.reset.setPins fun p => { p with floating := true }

/-- The sideband is mute in recovery and while the signals float, and served otherwise. -/
theorem witness_muted :
    (afloat).muted = true ∧ (afloat).pins.floating = true ∧ (State.reset.setF BOOT_STATUS_RECOVERY 0 0 1).muted = true ∧
    (withKey 5 9 [] hosted).muted = false ∧ State.reset.muted = false ∧ State.reset.pins.floating = false := by decide +kernel

theorem witness_PackageResets :
    (inReset).power.inReset = true ∧ State.reset.power.inReset = false ∧ (⟨0, false, false, 0, []⟩ : BootInputs).sysClk = false ∧
    State.reset.powerState = 0 ∧ (∀ st ∈ [2, 5], (State.reset.setF STATE_STATUS_STATE 0 0 st).powerState = st ∧
      (State.reset.setF STATE_STATUS_STATE 0 0 st).power.inReset = false) ∧ State.reset.power.stopped = none ∧ State.reset.shutDown = false ∧
    (∀ t ∈ [none, some 9], let s := State.reset.setPower fun p => { p with stopped := some 0x41, inRange := t }
      s.shutDown = true ∧ s.power.inRange = t) ∧
    (∀ k ∈ [0x44, 0x144], let s := State.reset.setPower fun p => { p with stopped := some k }
      s.power.stopped = some k ∧ s.power.inRange = none) ∧
    (0x55 : Fin 256).val ∉ [0x00, 0x01, 0x02, 0x08, 0x09] ∧ (inReset.setPins fun p => { p with tapIr := 8 }).pins.tapIr ∈ [0x00, 0x08, 0x09] ∧
    State.reset.pins.tapIr ∉ [0x00, 0x08, 0x09] := by decide +kernel

/-- An entry into Bivouac with an order of the cornice that wakes the package, or with none. -/
theorem witness_LowPowerStates_orders : ∀ o ∈ [[], [HeldOrder.collapse 6 1 2 false none]],
    let s := (State.reset.setF STATE_STATUS_STATE 0 0 1).setLow fun r => { r with orders := o }
    s.powerState = 1 ∧ s.pipesIdle = true ∧ s.low.orders.any HeldOrder.wakes = !o.isEmpty := by decide +kernel

theorem witness_LowPowerStates :
    ((State.reset.setF DIE_STATE_STATE 0 1 1).sleepRefused = true ∧ State.reset.sleepRefused = false) ∧
    (∀ st ∈ [1, 2, 3, 4, 5, 6],
      let s := State.reset.setF STATE_STATUS_STATE 0 0 st
      s.powerState = st ∧ s.pipesIdle = true) ∧
    (tracked [ent .sent]).pipesIdle = false ∧ State.reset.powerState = 0 := by decide +kernel

theorem witness_SupplyAndPower :
    (State.reset.shutDown = false ∧ State.reset.power.inReset = false ∧ State.reset.getF SUPPLY_STATE 0 0 ≠ 1) ∧
    (∀ st ∈ [1, 2, 3], (State.reset.setF SUPPLY_STATE 0 0 st).getF SUPPLY_STATE 0 0 = st) ∧
    State.reset.getF PROFILE_STATE_CAP_ACTIVE 0 0 ≤ 1 ∧ kget 0 State.reset.power.thermal 0 ≤ 2 ∧
    (let ok := State.reset.getF SUPPLY_CONVERTERS_OK 0 0
     ok.testBit 7 = true ∧ 4 ≤ ((List.range 8).filter (ok - 2 ^ 7).testBit).length) ∧
    (let s := State.reset.setF SUPPLY_CONVERTERS_OK 0 0 0x0F
     let ok := s.getF SUPPLY_CONVERTERS_OK 0 0
     ok.testBit 7 = false ∧ ok.testBit 3 = true ∧ ((List.range 8).filter (ok - 2 ^ 3).testBit).length ≤ 3 ∧ s.shutDown = false) ∧
    State.reset.power.stopped = none ∧ (State.reset.setF PWR_EXPERT_POWER_CAP 0 0 0).flag PWR_EXPERT_POWER_CAP 0 0 = false ∧
    (let s := State.reset.setPower fun p => { p with inReset := true }
     s.power.inReset = true ∧ s.shutDown = false) ∧
    (let s := State.reset.setPower fun p => { p with stopped := some 0x45 }
     s.shutDown = true) ∧
    (let s := State.reset.setPower fun p => { p with convPace := some 7 }
     s.power.convPace = some 7 ∧ (s.tickTo 8).power.convPace = some 7 ∧ 7 ≤ (s.tickTo 8).time) ∧
    ((29999 : Fin 65536).val < 30000 ∧ 30000 ≤ (30000 : Fin 65536).val ∧ (37999 : Fin 65536).val < 38000 ∧ 38000 ≤ (38000 : Fin 65536).val ∧
      State.reset.power.lowAt = none) ∧
    (let s := (State.reset.tickTo (9 + msTicks)).setPower fun p => { p with lowAt := some 9 }
     s.power.lowAt = some 9 ∧ 9 + msTicks ≤ s.time) ∧
    (∀ on ∈ [0, 1],
      let s := (State.reset.setF PWR_EXPERT_POWER_CAP 0 0 1).setF PROFILE_STATE_CAP_ACTIVE 0 0 on
      s.flag PWR_EXPERT_POWER_CAP 0 0 = true ∧ s.flag PROFILE_STATE_CAP_ACTIVE 0 0 = (on == 1)) := by decide +kernel

theorem witness_CoolingAndProfiles :
    (State.reset.power.stopped = none ∧ (List.replicate 76 (40 : Fin 256)).length = 76) ∧
    (∀ t < 12, State.reset.getF STACK_TEMP_TEMP (t / 3) (t % 3) < 105) ∧
    (let s := State.reset.setPower fun p => { p with temps := [(67, 110)] }
     4 = 4 ∧ kget false s.power.excluded (4 * 16 + 3) = false ∧ 110 ≤ s.junction 4 3 ∧ s.power.inReset = false) ∧
    105 ≤ (State.reset.setF STACK_TEMP_TEMP 3 2 105).getF STACK_TEMP_TEMP (11 / 3) (11 % 3) ∧
    (∀ n ∈ [1, 2],
      let s := State.reset.setPower fun p => { p with thermal := [(1, n)], easedAt := [(2 * 1 + (n - 1), 9)] }
      kget 0 State.reset.power.easedAt 2 = 0 ∧ kget 0 s.power.easedAt (2 * 1 + (kget 0 s.power.thermal 1 - 1)) = 9) ∧
    State.reset.power.hotAt = [] ∧
    (let s := State.reset.setPower fun p => { p with hotAt := [(3, 8)] }
     s.power.hotAt = [(3, 8)] ∧ s.flag PROFILE_STATE_FORCED 0 0 = false) ∧
    (let s := (State.reset.setF PROFILE_STATE_FORCED 0 0 1).setPower fun p => { p with coolSince := some 9 }
     s.power.coolSince = some 9 ∧ s.flag PROFILE_STATE_FORCED 0 0 = true) ∧ State.reset.power.coolSince = none := by decide +kernel

/-- Every junction of the reset state reads 0 (assumption 32 names the temperatures at reset). -/
theorem witness_CoolingAndProfiles_cold : ∀ d i, State.reset.junction d i < 110 := fun _ _ => (by decide : 0 < 110)

/-! #### Identity, self-test, error records, set-up space -/

def sec (f : Security → Security) (s : State := State.reset) : State := s.setSec f

/-- The command with each code that its key signed, its BODY, and the state that accepts it (R477, Table 19.5). -/
def commandBodies : List (Nat × (List Byte → Bool) × List Byte) :=
  [(1, keyForm, beBytes 4 1 ++ (beBytes 4 6 ++ (beBytes 4 3 ++ List.replicate 48 0))), (2, policyForm, [1, 0, 0, 0]),
   (3, planForm, [1, 0, 1, 0]), (4, partitionForm, [1, 0, 8, 0]), (6, List.isEmpty, []), (7, List.isEmpty, [])]

theorem witness_IdentityAndKeys_commands : ∀ c ∈ commandBodies, ∀ seq ∈ [4, 5],
    ∃ x, sideCommand c.1 c.2.1 (commandMsg c.1 seq c.2.2) = some x ∧
      (withKey c.1 seq c.2.2 State.reset).commandReason (some x) = (if seq = 5 then 0 else 2) ∧
      (withKey c.1 seq c.2.2 State.reset).sec.operatorKey.isSome = true ∧
      (withKey c.1 seq c.2.2 State.reset).commandReason (some { x with signature := [] }) = 1 ∧
      State.reset.commandReason (some x) = 3 := by
  intro c hc seq hq
  have hf : c.1 < 65536 ∧ c.2.2.length < 65536 ∧ c.2.1 c.2.2 = true := by
    simp only [commandBodies, List.mem_cons, List.not_mem_nil, or_false] at hc
    rcases hc with rfl | rfl | rfl | rfl | rfl | rfl <;> decide +kernel
  have hs : seq = 4 ∨ seq = 5 := by simpa using hq
  obtain ⟨x, e, -, -, k, -, v, h0, h2⟩ := commandMsg_holds c.1 seq c.2.1 c.2.2 State.reset hf.1 (by omega) hf.2.1 hf.2.2
  refine ⟨x, e, ?_, by rw [k]; rfl, ?_, rfl⟩
  · rcases hs with rfl | rfl
    · exact h2 (by norm_num)
    · exact h0 (by norm_num)
  · simp only [State.commandReason, k, hssVerify_none]; rfl

theorem witness_IdentityAndKeys :
    ((State.reset.setF BOOT_STATUS_RECOVERY 0 0 1).inRecovery = true ∧ State.reset.inRecovery = false ∧
      State.reset.commandReason none = 4 ∧ State.reset.sec.operatorKey = none ∧ keyForm [] = false ∧ sideCommand 1 keyForm [] = none) ∧
    (∀ ex ∈ [0, 1],
      let s := (sec fun x => { x with wanted := [.join], waiting := [.trailhead 3 true] }).setF SIG_STATUS_EXHAUSTED 0 0 ex
      s.sec.wanted = [.join] ∧ s.sec.waiting = [.trailhead 3 true] ∧ s.flag SIG_STATUS_EXHAUSTED 0 0 = (ex == 1) ∧
      s.sec.signing = none ∧ s.sec.waiting ≠ []) ∧
    ((sec fun x => { x with wanted := [.join] }).sec.waiting = [] ∧ (sec fun x => { x with wanted := [.join] }).signBudget = true ∧
      (sec fun x => { x with signed := List.replicate 1000 0 }).signBudget = false) ∧
    (let s := sec fun x => { x with signing := some (1048576, .join) }
     s.sec.signing = some (1048576, .join) ∧ s.sec.cached (1048576 / 1048576) = none ∧ s.sec.signing.isSome = true) ∧
    (let s := sec fun x => { x with signing := some (0, .attest true (List.replicate 32 3)) }
     s.sec.signing = some (0, .attest true (List.replicate 32 3)) ∧ (s.sec.cached (0 / 1048576)).isSome = true) ∧
    (State.reset.flag SIG_STATUS_BUILDING 0 0 = false ∧ (State.reset.setF SIG_STATUS_BUILDING 0 0 1).flag SIG_STATUS_BUILDING 0 0 = true ∧
      0 + 1 = (State.reset.setF SIG_STATUS_BUILDING 0 0 1).treeBuilt) ∧
    (attestNonce true [] = none ∧ attestNonce false [] = none ∧ attestNonce false (List.replicate 32 3) = some (List.replicate 32 3) ∧
      attestNonce true (sideBytes 16 1 (List.replicate 32 3) []) = some (List.replicate 32 3)) ∧
    (State.reset.dieRunning (15 / 4) = true ∧ State.reset.portF KEY_CTRL_ACTIVE_TX 15 = 0 ∧ State.reset.sec.active ≠ 1 ∧
      (sec fun x => { x with active := 1 }).sec.active = 1) ∧
    ((5 : Fin 64).val < shellCount 6 ∧ ¬ (6 : Fin 64).val < shellCount 6 ∧ (0 : Fin 64).val < shellCount 1 ∧ (4 : Fin 64).val < shellCount 8 ∧
      State.reset.shellBusy 2 0 = true ∧ State.reset.shellBusy 8 4 = false ∧ State.reset.imageOk 8 4 [] = false) := by
  refine ⟨by decide, by decide +kernel, ⟨by decide, by decide, by decide +kernel⟩, ⟨rfl, by decide, rfl⟩, ⟨rfl, by decide⟩, by decide,
    ⟨by decide, by decide, by decide, by decide +kernel⟩, by decide, by decide⟩

/-- An image that a shell saved itself, of an empty body, is one it takes. -/
theorem witness_IdentityAndKeys_image : State.reset.imageOk 8 4 (State.reset.shellImage 8 4 []) = true := by
  simp [State.imageOk, State.shellImage, leBytes, leNat, crc32]

def testing (st target : Nat) (f : SelfTest → SelfTest := id) (s : State := stackIn 2) : State :=
  ((s.setF ST_STATUS_STATE 0 0 st).setF ST_STATUS_TARGET 0 0 target).setTest f

theorem witness_SelfTests_request :
    ((testing 0 0).getF ST_STATUS_STATE 0 0 = 0 ∧ (testing 1 0).getF ST_STATUS_STATE 0 0 ≠ 0 ∧ targetOk 0x404 = true ∧ targetOk 0x400 = true ∧
      targetOk 0x40C = false ∧ targetOk 0 = false ∧ (testing 0 0).savesItself 0x404 = false ∧ (testing 0 0).savesItself 0x400 = true) ∧
    ((State.reset.setF ST_EXPERT_PERIOD_H 0 0 0).getF ST_EXPERT_PERIOD_H 0 0 = 0 ∧
      ((testing 0 0).setF ST_EXPERT_PERIOD_H 0 0 24).getF ST_EXPERT_PERIOD_H 0 0 ≠ 0 ∧ (testing 0 0).awake = true ∧
      (testing 0 0 fun x => { x with round := [0x404] }).selftest.round = [0x404] ∧ (testing 0 0).selftest.round = []) ∧
    ((summit).isSummit = true ∧ (summit).selftest.graceUntil ≤ (summit).fabricNow ∧
      (summit).slotsUsed + 1 ≤ max 1 ((summit).fabric.members.length / 16) ∧ (summit).slotOf 1 = false ∧ (0x404 : Fin 65536).val / 256 ≠ 2 ∧
      (summit).deaf = false ∧ (summit).testBlocked 0x404 = false ∧ (summit).testBlocked 0x105 = true ∧ (summit).device = 0 ∧
      (deafState).deaf = true ∧ targetOk 0x105 = true ∧ targetOk 0x205 = true ∧
      (let s := (summit).setTest fun x => { x with graceUntil := 5 }
       s.fabricNow < s.selftest.graceUntil ∧ s.isSummit = true) ∧
      (let s := (summit).setTest fun x => { x with slots := [(1, 0x205, 2, 0)] }
       s.slotOf 1 = true ∧ s.slotOf 2 = true ∧ s.slotsUsed = 2)) := by decide +kernel

theorem witness_SelfTests_run :
    (1 ≠ (testing 1 0x404).device ∧ 0 = (testing 1 0x404).device ∧ (testing 1 0x404).getF ST_STATUS_TARGET 0 0 = 0x404 ∧
      (testing 1 0x404).getF ST_STATUS_STATE 0 0 = 1) ∧
    (testing 1 0x404).deaf = false ∧ (testing 1 0x404 fun x => { x with retryAt := some 9 }).selftest.retryAt = some 9 ∧
    0x10F / 256 = 1 ∧ 0x20F / 256 = 2 ∧ 0x404 / 256 ≠ 3 ∧
    (∀ t ∈ [0x105, 0x404, 0x500],
      let s := testing 3 t fun x => { x with draining := true }
      s.getF ST_STATUS_STATE 0 0 = 3 ∧ s.selftest.draining = true ∧ s.getF ST_STATUS_TARGET 0 0 = t ∧ (s.port 5).drained = true ∧
      s.saveArea (t % 256 / 3) < 0xC000000000) ∧
    (let s := testing 3 0x105 (fun x => { x with draining := true }) (portIn portUP)
     s.getF ST_STATUS_STATE 0 0 = 3 ∧ s.selftest.draining = true ∧ (s.port 5).drained = false) ∧
    ((testing 3 0x404).selftest.draining = false ∧ (testing 2 0x404).getF ST_STATUS_STATE 0 0 = 2) ∧
    ((testing 0 0).heldFor 7 = none ∧ (∀ x ∈ [testing 0 0 fun x => { x with heldPorts := [(3, 8), (5, 9)] }],
      x.heldFor 7 = none ∧ (x.setPort 5 { x.port 5 with peerDevice := 7 }).heldFor 7 = some (5, 9))) ∧
    (testing 3 0x404).getF ST_STATUS_STATE 0 0 = 3 := by decide +kernel

theorem witness_SelfTests_slot :
    (∀ p ∈ [(0, true), (2 ^ 40, false)],
      let s := testing 2 0x404 fun x => { x with threshold := p.1, slotEnds := some 9 }
      s.grantOpen = p.2 ∧ s.getF ST_STATUS_STATE 0 0 = 2 ∧ s.selftest.slotEnds = some 9) ∧
    (∀ dr : Bool, (testing 3 0x404 fun x => { x with draining := dr }).selftest.draining = dr) := by decide +kernel

/-- A stack's margin of 15 % of a UI passes, and one below it does not (Table 20.1). -/
theorem test_readingPasses : readingPasses 0x404 ⟨0, 149, 0, 0, 0⟩ = false ∧ readingPasses 0x404 ⟨0, 150, 0, 0, 0⟩ = true := by decide

theorem witness_SelfTests_inv : (testing 3 0x404 fun x => { x with draining := true }).Inv := ⟨by decide, by decide⟩

def errRec (cls kind : Nat) : ErrRec := ⟨cls, kind, 0, 0, 7, 0, 0, false, false, 0, 0, 0, 0, 0⟩
def erring (f : ErrUnit → ErrUnit) (s : State := hosted) : State :=
  ((s.setF ERR_RING_CFG_EN 0 0 1).setF ERR_RING_CFG_LOG2 0 0 6).setErr f
def window (n : Nat) : ErrWindow := ⟨0x10, 0, 7, 90, n, errRec 0 0x10⟩

theorem witness_ErrorRecords :
    State.reset.err.raised = [] ∧
    (∀ r ∈ [errRec 3 0x41, errRec 3 0x51, errRec 1 0x03, errRec 0 0x10],
      (erring fun e => { e with raised := [r] }).err.raised = [r] ∧ (erring fun e => { e with raised := [r] }).errReady = true ∧
      (erring fun e => { e with raised := [r] }).err.holding = []) ∧
    ((errRec 3 0x41).stored = true ∧ (errRec 3 0x51).stored = false ∧ (errRec 1 0x03).cls ≠ 0 ∧ State.reset.errReady = false ∧
      State.reset.err.holding.length < 4096) ∧
    ((erring fun e => { e with windows := [window 0] }).err.windows.any (fun w => w.kind == 0x10 && w.die == 0 && w.unit == 7) = true ∧
      (erring fun e => { e with windows := [window 0] }).err.windows.any (fun w => w.kind == 0x10 && w.die == 0 && w.unit == 8) = false ∧
      State.reset.getF ERR_EXPERT_RECORD_WINDOW_MS 0 0 ≠ 0 ∧ (State.reset.setF ERR_EXPERT_RECORD_WINDOW_MS 0 0 0).getF
        ERR_EXPERT_RECORD_WINDOW_MS 0 0 = 0 ∧ State.reset.err.windows.length < 256 ∧
      256 ≤ (erring fun e => { e with windows := List.replicate 256 (window 0) }).err.windows.length) ∧
    (∀ n ∈ [0, 2], (erring fun e => { e with windows := [window n] }).err.windows[0]? = some (window n)) ∧
    ((erring fun e => { e with holding := [errRec 1 3] }).err.holding = [errRec 1 3] ∧
      (erring fun e => { e with holding := [errRec 1 3] }).errReady = true) ∧
    (State.reset.err.drops = 0 ∧ (erring fun e => { e with drops := 2 }).err.drops ≠ 0 ∧
      (erring fun e => { e with drops := 2 }).err.holding.length < 4096) := by decide +kernel

/-- Whether the register at an offset is r, takes the zero word, and has a reserved field that all ones would write. -/
def rowHas (o : Nat) (r : Reg) : Bool :=
  match findReg o with
  | some (row, _, _) => row.reg == r && (row.rows.all fun f => decide (f.acc = .rsv → f.fld.get 0 = 0)) &&
      row.rows.any fun f => decide (f.acc = .rsv ∧ f.fld.get (BitVec.allOnes 64) ≠ 0)
  | none => false

theorem witness_SetupWrites :
    (inReset).power.inReset = true ∧ State.reset.power.inReset = false ∧
    ((4 : Fin 65).val ≠ 8 ∧ (0x12345 : Fin 0x100000).val % 8 ≠ 0 ∧ (0x12345 : Fin 0x100000).val < 0x28000) ∧
    (0x40000 ≤ (0x4FFFF : Fin 0x100000).val ∧ (0x4FFFF : Fin 0x100000).val < 0x50000) ∧
    ((254 : Fin 256).val % 4 ≠ 3 ∧ (0x283F8 : Fin 0x100000).val = 0x28000 + 4 * 254) ∧
    (0x60000 ≤ (0x7FFF8 : Fin 0x100000).val ∧ (0x7FFF8 : Fin 0x100000).val % 8 = 0 ∧ (0x3FFF : Fin 0x4000).val = (0x7FFF8 - 0x60000) / 8) ∧
    (State.reset.regionLive 0x1000 = true ∧ (State.reset.setF DIE_STATE_STATE 0 0 1).regionLive 0x80000 = false) ∧
    ((State.reset.setF GLOBAL_CTRL_SETUP_LOCK 0 0 1).setupLocked Blk.red.mode = true ∧ State.reset.setupLocked Blk.red.mode = false) ∧
    (∀ x ∈ Blk.red.presets 0, x.1 ≠ 255) ∧ (Blk.red.presets 0).find? (fun y => y.1 == 0) ≠ none ∧
    ((State.reset.setF DIE_STATE_STATE 0 2 1).regionLive (Blk.tal.mode.addr 2 0) = false) ∧
    (rowHas (SPUR_ENTRY.addr 0 5) SPUR_ENTRY = true ∧ findReg 0xFFFF8 = none ∧ State.reset.setupLocked SPUR_ENTRY = false ∧
      (SPUR_ENTRY.addr 0 5 - 0x80000) / 8 < 0x4000 ∧ ∀ d < 4, State.reset.dieRunning d = true) := by decide +kernel

/-- One command waits. -/
def oneWaits : State := { State.reset with pending := [.handleClearHw] }

theorem witness_StepRunsFront : (oneWaits).pending = [.handleClearHw] ∧ State.reset.pending = [] := ⟨rfl, rfl⟩

theorem witness_EveryStepKeepsInv : (oneWaits).Inv ∧ ∃ t, step (oneWaits) = .next t := ⟨⟨by decide, by decide⟩, _, rfl⟩

theorem witness_StepOnlyAdds : ∃ t, step (oneWaits) = .next t := ⟨_, rfl⟩

end Sys2Proof.Tests
end

