-- ==== Sys2Proof/Proofs/StepFrame.lean ====
section
/-!
PROOFS. What every command moves, and with it what a step moves; the statements about the whole block.
-/
namespace Sys2Proof.Machine

open Sys2Proof

/-- No command takes from the queue, sets time back, withdraws an output or gives a free value back: the frame law of each command. -/
theorem exec_moves (c : Instr) (s : State) : MovesO 0x1ffffffff s (exec c s) := by
  match c with
  | .registerWrite .. => exact MovesO.mono (execRegisterWrite_moves _ _ _ s) (by decide)
  | .modeWrite .. => exact MovesO.mono (execModeWrite_moves _ _ _ _ s) (by decide)
  | .broadcastWrite .. => exact MovesO.mono (execBroadcastWrite_moves _ _ s) (by decide)
  | .setupLock => exact MovesO.mono (execSetupLock_moves s) (by decide)
  | .pathHoldRelease .. => exact MovesO.mono (execPathHoldRelease_moves _ _ s) (by decide)
  | .calibrationSave .. => exact MovesO.mono (execCalibrationSave_moves _ _ s) (by decide)
  | .calibrationRestore .. => exact MovesO.mono (execCalibrationRestore_moves _ _ _ s) (by decide)
  | .tqPush .. => exact MovesO.mono (execTqPush_moves _ _ _ _ s) (by decide)
  | .tqSeta .. => exact MovesO.mono (execTqSeta_moves _ _ _ _ s) (by decide)
  | .tqStat .. => exact MovesO.mono (execTqStat_moves _ _ _ s) (by decide)
  | .tqEcrd .. => exact MovesO.mono (execTqEcrd_moves _ _ _ s) (by decide)
  | .tqClear .. => exact MovesO.mono (execTqClear_moves _ _ _ s) (by decide)
  | .ldTile .. => exact MovesO.mono (execLdTile_moves _ _ s) (by decide)
  | .stTile .. => exact MovesO.mono (execStTile_moves _ _ s) (by decide)
  | .mma .. => exact MovesO.mono (execMma_moves _ _ _ s) (by decide)
  | .mmaConv .. => exact MovesO.mono (execMmaConv_moves _ _ _ s) (by decide)
  | .mmaPair3 .. => exact MovesO.mono (execMmaPair3_moves _ _ _ s) (by decide)
  | .accRd .. => exact MovesO.mono (execAccRd_moves _ _ _ s) (by decide)
  | .accWr .. => exact MovesO.mono (execAccWr_moves _ _ s) (by decide)
  | .tileAdd .. => exact MovesO.mono (execTileAdd_moves _ _ _ s) (by decide)
  | .permute .. => exact MovesO.mono (execPermute_moves _ _ s) (by decide)
  | .move .. => exact MovesO.mono (execMove_moves _ _ s) (by decide)
  | .put .. => exact MovesO.mono (execPut_moves _ _ s) (by decide)
  | .get .. => exact MovesO.mono (execGet_moves _ _ s) (by decide)
  | .atomic .. => exact MovesO.mono (execAtomic_moves _ _ s) (by decide)
  | .localMoveComplete .. => exact MovesO.mono (execLocalMoveComplete_moves _ _ _ s) (by decide)
  | .wait .. => exact MovesO.mono (execWait_moves _ _ s) (by decide)
  | .waitSatisfied .. => exact MovesO.mono (execWaitSatisfied_moves _ _ s) (by decide)
  | .signal .. => exact MovesO.mono (execSignal_moves _ _ s) (by decide)
  | .signalAfterIdle .. => exact MovesO.mono (execSignalAfterIdle_moves _ _ s) (by decide)
  | .coreRun .. => exact MovesO.mono (execCoreRun_moves _ _ _ s) (by decide)
  | .coreReset .. => exact MovesO.mono (execCoreReset_moves _ _ s) (by decide)
  | .vecRun .. => exact MovesO.mono (execVecRun_moves _ _ s) (by decide)
  | .vecRunBegin .. => exact MovesO.mono (execVecRunBegin_moves _ _ s) (by decide)
  | .vecRunComplete .. => exact MovesO.mono (execVecRunComplete_moves _ _ s) (by decide)
  | .vadd .. => exact MovesO.mono (execVadd_moves _ _ s) (by decide)
  | .vsub .. => exact MovesO.mono (execVsub_moves _ _ s) (by decide)
  | .vmul .. => exact MovesO.mono (execVmul_moves _ _ s) (by decide)
  | .vfma .. => exact MovesO.mono (execVfma_moves _ _ s) (by decide)
  | .vfnma .. => exact MovesO.mono (execVfnma_moves _ _ s) (by decide)
  | .vmin .. => exact MovesO.mono (execVmin_moves _ _ s) (by decide)
  | .vmax .. => exact MovesO.mono (execVmax_moves _ _ s) (by decide)
  | .vabs .. => exact MovesO.mono (execVabs_moves _ _ s) (by decide)
  | .vneg .. => exact MovesO.mono (execVneg_moves _ _ s) (by decide)
  | .vrcp .. => exact MovesO.mono (execVrcp_moves _ _ s) (by decide)
  | .vrsqrt .. => exact MovesO.mono (execVrsqrt_moves _ _ s) (by decide)
  | .vexp2 .. => exact MovesO.mono (execVexp2_moves _ _ s) (by decide)
  | .vlog2 .. => exact MovesO.mono (execVlog2_moves _ _ s) (by decide)
  | .vand .. => exact MovesO.mono (execVand_moves _ _ s) (by decide)
  | .vor .. => exact MovesO.mono (execVor_moves _ _ s) (by decide)
  | .vxor .. => exact MovesO.mono (execVxor_moves _ _ s) (by decide)
  | .vshl .. => exact MovesO.mono (execVshl_moves _ _ s) (by decide)
  | .vshr .. => exact MovesO.mono (execVshr_moves _ _ s) (by decide)
  | .vcmp .. => exact MovesO.mono (execVcmp_moves _ _ s) (by decide)
  | .vsel .. => exact MovesO.mono (execVsel_moves _ _ s) (by decide)
  | .plog .. => exact MovesO.mono (execPlog_moves _ _ s) (by decide)
  | .pack .. => exact MovesO.mono (execPack_moves _ _ s) (by decide)
  | .unpack .. => exact MovesO.mono (execUnpack_moves _ _ s) (by decide)
  | .mxpack .. => exact MovesO.mono (execMxpack_moves _ _ s) (by decide)
  | .mxunpack .. => exact MovesO.mono (execMxunpack_moves _ _ s) (by decide)
  | .m8enc .. => exact MovesO.mono (execM8enc_moves _ _ s) (by decide)
  | .m8dec .. => exact MovesO.mono (execM8dec_moves _ _ s) (by decide)
  | .vperm .. => exact MovesO.mono (execVperm_moves _ _ s) (by decide)
  | .vshuf .. => exact MovesO.mono (execVshuf_moves _ _ s) (by decide)
  | .vred .. => exact MovesO.mono (execVred_moves _ _ s) (by decide)
  | .viota .. => exact MovesO.mono (execViota_moves _ _ s) (by decide)
  | .viter .. => exact MovesO.mono (execViter_moves _ _ s) (by decide)
  | .vmovh .. => exact MovesO.mono (execVmovh_moves _ _ s) (by decide)
  | .vmovl .. => exact MovesO.mono (execVmovl_moves _ _ s) (by decide)
  | .ld .. => exact MovesO.mono (execLd_moves _ _ s) (by decide)
  | .st .. => exact MovesO.mono (execSt_moves _ _ s) (by decide)
  | .sum .. => exact MovesO.mono (execSum_moves _ _ s) (by decide)
  | .vsRd .. => exact MovesO.mono (execVsRd_moves _ _ _ s) (by decide)
  | .vsRdw .. => exact MovesO.mono (execVsRdw_moves _ _ _ s) (by decide)
  | .vsRdwReturn .. => exact MovesO.mono (execVsRdwReturn_moves _ _ s) (by decide)
  | .talusRead .. => exact MovesO.mono (execTalusRead_moves _ _ _ s) (by decide)
  | .talusWrite .. => exact MovesO.mono (execTalusWrite_moves _ _ _ _ _ _ s) (by decide)
  | .retire .. => exact MovesO.mono (execRetire_moves _ s) (by decide)
  | .clearCounts .. => exact MovesO.mono (execClearCounts_moves _ s) (by decide)
  | .scrubRead .. => exact MovesO.mono (execScrubRead_moves _ _ s) (by decide)
  | .stackTempUpdate .. => exact MovesO.mono (execStackTempUpdate_moves _ _ s) (by decide)
  | .stackTrainingComplete .. => exact MovesO.mono (execStackTrainingComplete_moves _ _ _ s) (by decide)
  | .pooledAccess .. => exact MovesO.mono (execPooledAccess_moves _ _ s) (by decide)
  | .uioCompletion .. => exact MovesO.mono (execUioCompletion_moves _ _ _ _ _ s) (by decide)
  | .uioTimeout .. => exact MovesO.mono (execUioTimeout_moves _ _ s) (by decide)
  | .expanderRemoved .. => exact MovesO.mono (execExpanderRemoved_moves _ s) (by decide)
  | .rangeStateWrite .. => exact MovesO.mono (execRangeStateWrite_moves _ _ s) (by decide)
  | .trackerGrant .. => exact MovesO.mono (execTrackerGrant_moves _ s) (by decide)
  | .fenceRelease .. => exact MovesO.mono (execFenceRelease_moves _ _ s) (by decide)
  | .putArrive .. => exact MovesO.mono (execPutArrive_moves _ s) (by decide)
  | .getArrive .. => exact MovesO.mono (execGetArrive_moves _ s) (by decide)
  | .atomicArrive .. => exact MovesO.mono (execAtomicArrive_moves _ s) (by decide)
  | .notify .. => exact MovesO.mono (execNotify_moves _ s) (by decide)
  | .remoteResponse .. => exact MovesO.mono (execRemoteResponse_moves _ _ _ _ _ _ _ _ s) (by decide)
  | .remoteTimeout .. => exact MovesO.mono (execRemoteTimeout_moves _ _ s) (by decide)
  | .clearHw .. => exact MovesO.mono (execClearHw_moves _ s) (by decide)
  | .portTrained .. => exact MovesO.mono (execPortTrained_moves _ _ _ s) (by decide)
  | .ridgeFlit .. => exact MovesO.mono (execRidgeFlit_moves _ _ _ _ s) (by decide)
  | .nak .. => exact MovesO.mono (execNak_moves _ _ s) (by decide)
  | .laneLockLoss _ lane => exact MovesO.mono (execLaneLockLoss_moves _ lane s) (by decide)
  | .retrainDone .. => exact MovesO.mono (execRetrainDone_moves _ _ _ s) (by decide)
  | .retrainTimeout .. => exact MovesO.mono (execRetrainTimeout_moves _ s) (by decide)
  | .portReset .. => exact MovesO.mono (execPortReset_moves _ s) (by decide)
  | .portClearCounts .. => exact MovesO.mono (execPortClearCounts_moves _ s) (by decide)
  | .flowReturn .. => exact MovesO.mono (execFlowReturn_moves _ s) (by decide)
  | .packetForward .. => exact MovesO.mono (execPacketForward_moves _ _ _ s) (by decide)
  | .trailhead .. => exact MovesO.mono (execTrailhead_moves _ _ _ s) (by decide)
  | .linkReportReceive .. => exact MovesO.mono (execLinkReportReceive_moves _ _ _ s) (by decide)
  | .linkMap .. => exact MovesO.mono (execLinkMap_moves _ _ _ _ s) (by decide)
  | .trailSignSwitch .. => exact MovesO.mono (execTrailSignSwitch_moves _ _ s) (by decide)
  | .broadcastForward .. => exact MovesO.mono (execBroadcastForward_moves _ _ _ _ _ _ s) (by decide)
  | .trailheadWaitExpiry => exact MovesO.mono (execTrailheadWaitExpiry_moves s) (by decide)
  | .electTick => exact MovesO.mono (execElectTick_moves s) (by decide)
  | .elect .. => exact MovesO.mono (execElect_moves _ _ _ s) (by decide)
  | .electQuietExpiry => exact MovesO.mono (execElectQuietExpiry_moves s) (by decide)
  | .join .. => exact MovesO.mono (execJoin_moves _ _ _ _ _ s) (by decide)
  | .admitReply .. => exact MovesO.mono (execAdmitReply_moves _ s) (by decide)
  | .joinRetry => exact MovesO.mono (execJoinRetry_moves s) (by decide)
  | .heartbeatTick => exact MovesO.mono (execHeartbeatTick_moves s) (by decide)
  | .heartbeat .. => exact MovesO.mono (execHeartbeat_moves _ _ _ _ _ s) (by decide)
  | .standbyTakeover => exact MovesO.mono (execStandbyTakeover_moves s) (by decide)
  | .memberSilenceTimeout => exact MovesO.mono (execMemberSilenceTimeout_moves s) (by decide)
  | .present .. => exact MovesO.mono (execPresent_moves _ s) (by decide)
  | .memberTimeout .. => exact MovesO.mono (execMemberTimeout_moves _ s) (by decide)
  | .membership .. => exact MovesO.mono (execMembership_moves _ _ _ _ _ s) (by decide)
  | .sync .. => exact MovesO.mono (execSync_moves _ s) (by decide)
  | .leave .. => exact MovesO.mono (execLeave_moves _ s) (by decide)
  | .partitionReceive .. => exact MovesO.mono (execPartitionReceive_moves _ s) (by decide)
  | .contour .. => exact MovesO.mono (execContour_moves _ _ _ _ _ s) (by decide)
  | .deadlineFire .. => exact MovesO.mono (execDeadlineFire_moves _ _ s) (by decide)
  | .localPosWrite .. => exact MovesO.mono (execLocalPosWrite_moves _ _ s) (by decide)
  | .contourReport => exact MovesO.mono (execContourReport_moves s) (by decide)
  | .contourReportReceive .. => exact MovesO.mono (execContourReportReceive_moves _ _ _ _ s) (by decide)
  | .idleContourTick => exact MovesO.mono (execIdleContourTick_moves s) (by decide)
  | .contourRepeatTick => exact MovesO.mono (execContourRepeatTick_moves s) (by decide)
  | .takeoverPublish => exact MovesO.mono (execTakeoverPublish_moves s) (by decide)
  | .ftimeValidExpiry => exact MovesO.mono (execFtimeValidExpiry_moves s) (by decide)
  | .eventCtrlWrite .. => exact MovesO.mono (execEventCtrlWrite_moves _ _ _ _ _ s) (by decide)
  | .chainRead .. => exact MovesO.mono (execChainRead_moves _ s) (by decide)
  | .prefetchComplete .. => exact MovesO.mono (execPrefetchComplete_moves _ s) (by decide)
  | .stepReady .. => exact MovesO.mono (execStepReady_moves _ _ s) (by decide)
  | .bucketAdmit .. => exact MovesO.mono (execBucketAdmit_moves _ _ s) (by decide)
  | .quarantineScanDone .. => exact MovesO.mono (execQuarantineScanDone_moves _ s) (by decide)
  | .start .. => exact MovesO.mono (execStart_moves _ _ s) (by decide)
  | .go .. => exact MovesO.mono (execGo_moves _ _ s) (by decide)
  | .partialBlocks .. => exact MovesO.mono (execPartialBlocks_moves _ _ s) (by decide)
  | .blockAdd .. => exact MovesO.mono (execBlockAdd_moves _ _ s) (by decide)
  | .result .. => exact MovesO.mono (execResult_moves _ _ s) (by decide)
  | .absent .. => exact MovesO.mono (execAbsent_moves _ _ s) (by decide)
  | .resend .. => exact MovesO.mono (execResend_moves _ _ s) (by decide)
  | .ownReq .. => exact MovesO.mono (execOwnReq_moves _ _ s) (by decide)
  | .own .. => exact MovesO.mono (execOwn_moves _ _ s) (by decide)
  | .bypassed .. => exact MovesO.mono (execBypassed_moves _ _ s) (by decide)
  | .fetchReq .. => exact MovesO.mono (execFetchReq_moves _ _ s) (by decide)
  | .resultFp32 .. => exact MovesO.mono (execResultFp32_moves _ _ s) (by decide)
  | .shardDeadline .. => exact MovesO.mono (execShardDeadline_moves _ _ s) (by decide)
  | .partialStall .. => exact MovesO.mono (execPartialStall_moves _ _ _ s) (by decide)
  | .startCmd .. => exact MovesO.mono (execStartCmd_moves _ s) (by decide)
  | .stateFetchLand .. => exact MovesO.mono (execStateFetchLand_moves _ _ s) (by decide)
  | .blockRun .. => exact MovesO.mono (execBlockRun_moves _ _ _ s) (by decide)
  | .snap .. => exact MovesO.mono (execSnap_moves _ _ _ s) (by decide)
  | .moments .. => exact MovesO.mono (execMoments_moves _ _ _ s) (by decide)
  | .weights .. => exact MovesO.mono (execWeights_moves _ _ _ s) (by decide)
  | .tag .. => exact MovesO.mono (execTag_moves _ _ _ s) (by decide)
  | .blockDone .. => exact MovesO.mono (execBlockDone_moves _ _ _ s) (by decide)
  | .recover => exact MovesO.mono (execRecover_moves s) (by decide)
  | .exportStart .. => exact MovesO.mono (execExportStart_moves _ _ _ s) (by decide)
  | .exportDone .. => exact MovesO.mono (execExportDone_moves _ s) (by decide)
  | .stepState .. => exact MovesO.mono (execStepState_moves _ _ _ _ _ _ _ _ s) (by decide)
  | .rejoinHoldExpiry .. => exact MovesO.mono (execRejoinHoldExpiry_moves _ _ _ s) (by decide)
  | .collapse .. => exact MovesO.mono (execCollapse_moves _ _ _ _ _ _ s) (by decide)
  | .collapseResendTick .. => exact MovesO.mono (execCollapseResendTick_moves _ s) (by decide)
  | .collapseDrainDone .. => exact MovesO.mono (execCollapseDrainDone_moves _ s) (by decide)
  | .collapseRestoreDone .. => exact MovesO.mono (execCollapseRestoreDone_moves _ s) (by decide)
  | .resume .. => exact MovesO.mono (execResume_moves _ _ _ _ s) (by decide)
  | .reduceControlResend => exact MovesO.mono (execReduceControlResend_moves s) (by decide)
  | .reshardReq .. => exact MovesO.mono (execReshardReq_moves _ _ s) (by decide)
  | .reshard .. => exact MovesO.mono (execReshard_moves _ _ _ _ s) (by decide)
  | .reshardCmd .. => exact MovesO.mono (execReshardCmd_moves _ s) (by decide)
  | .resumeCmd => exact MovesO.mono (execResumeCmd_moves s) (by decide)
  | .clearStale .. => exact MovesO.mono (execClearStale_moves _ s) (by decide)
  | .sbStart .. => exact MovesO.mono (execSbStart_moves _ _ _ _ s) (by decide)
  | .sbStop .. => exact MovesO.mono (execSbStop_moves _ s) (by decide)
  | .sbContinue .. => exact MovesO.mono (execSbContinue_moves _ s) (by decide)
  | .sbEntryRead .. => exact MovesO.mono (execSbEntryRead_moves _ s) (by decide)
  | .sbDispatch .. => exact MovesO.mono (execSbDispatch_moves _ s) (by decide)
  | .hintComplete .. => exact MovesO.mono (execHintComplete_moves _ s) (by decide)
  | .sbStepEnd .. => exact MovesO.mono (execSbStepEnd_moves _ s) (by decide)
  | .sbBankSwitch .. => exact MovesO.mono (execSbBankSwitch_moves _ s) (by decide)
  | .sbCollapseSettle .. => exact MovesO.mono (execSbCollapseSettle_moves _ s) (by decide)
  | .enqueueReservation .. => exact MovesO.mono (execEnqueueReservation_moves _ s) (by decide)
  | .reservationGrant .. => exact MovesO.mono (execReservationGrant_moves _ _ s) (by decide)
  | .reservationResend .. => exact MovesO.mono (execReservationResend_moves _ _ s) (by decide)
  | .enqueueSegment .. => exact MovesO.mono (execEnqueueSegment_moves _ s) (by decide)
  | .commitTimeout .. => exact MovesO.mono (execCommitTimeout_moves _ _ s) (by decide)
  | .queueRead .. => exact MovesO.mono (execQueueRead_moves _ _ s) (by decide)
  | .dropRest .. => exact MovesO.mono (execDropRest_moves _ _ s) (by decide)
  | .queueClearHw .. => exact MovesO.mono (execQueueClearHw_moves _ _ s) (by decide)
  | .travHeadWrite .. => exact MovesO.mono (execTravHeadWrite_moves _ _ s) (by decide)
  | .dispatch .. => exact MovesO.mono (execDispatch_moves _ s) (by decide)
  | .combine .. => exact MovesO.mono (execCombine_moves _ s) (by decide)
  | .returnRows .. => exact MovesO.mono (execReturnRows_moves _ _ s) (by decide)
  | .returnTimeout .. => exact MovesO.mono (execReturnTimeout_moves _ _ s) (by decide)
  | .combineCompute .. => exact MovesO.mono (execCombineCompute_moves _ _ s) (by decide)
  | .hostEnumerate .. => exact MovesO.mono (execHostEnumerate_moves _ s) (by decide)
  | .unbindNotice .. => exact MovesO.mono (execUnbindNotice_moves _ s) (by decide)
  | .cxlLinkDown => exact MovesO.mono (execCxlLinkDown_moves s) (by decide)
  | .attach => exact MovesO.mono (execAttach_moves s) (by decide)
  | .detach => exact MovesO.mono (execDetach_moves s) (by decide)
  | .ringCfgWrite .. => exact MovesO.mono (execRingCfgWrite_moves _ _ _ _ _ _ _ _ s) (by decide)
  | .doorbellInvalidate .. => exact MovesO.mono (execDoorbellInvalidate_moves _ _ s) (by decide)
  | .doorbellPoll .. => exact MovesO.mono (execDoorbellPoll_moves _ _ s) (by decide)
  | .ringFetch .. => exact MovesO.mono (execRingFetch_moves _ s) (by decide)
  | .nopDesc .. => exact MovesO.mono (execNopDesc_moves _ s) (by decide)
  | .copy .. => exact MovesO.mono (execCopy_moves _ s) (by decide)
  | .descAtomic .. => exact MovesO.mono (execDescAtomic_moves _ s) (by decide)
  | .launch .. => exact MovesO.mono (execLaunch_moves _ s) (by decide)
  | .position .. => exact MovesO.mono (execPosition_moves _ s) (by decide)
  | .descStepReady .. => exact MovesO.mono (execDescStepReady_moves _ s) (by decide)
  | .update .. => exact MovesO.mono (execUpdate_moves _ s) (by decide)
  | .exportDesc .. => exact MovesO.mono (execExportDesc_moves _ s) (by decide)
  | .orderRelease .. => exact MovesO.mono (execOrderRelease_moves _ s) (by decide)
  | .completionPost => exact MovesO.mono (execCompletionPost_moves s) (by decide)
  | .spillDrain .. => exact MovesO.mono (execSpillDrain_moves _ s) (by decide)
  | .spillLoss => exact MovesO.mono (execSpillLoss_moves s) (by decide)
  | .msiModTimeout .. => exact MovesO.mono (execMsiModTimeout_moves _ s) (by decide)
  | .hdmAccess .. => exact MovesO.mono (execHdmAccess_moves _ _ _ _ s) (by decide)
  | .bisnpComplete .. => exact MovesO.mono (execBisnpComplete_moves _ _ _ s) (by decide)
  | .ideKm .. => exact MovesO.mono (execIdeKm_moves _ _ _ s) (by decide)
  | .functionReset => exact MovesO.mono (execFunctionReset_moves s) (by decide)
  | .handleClearHw => exact MovesO.mono (execHandleClearHw_moves s) (by decide)
  | .saddleFlit .. => exact MovesO.mono (execSaddleFlit_moves _ _ _ _ _ _ _ s) (by decide)
  | .saddleTrainingDone .. => exact MovesO.mono (execSaddleTrainingDone_moves _ _ s) (by decide)
  | .colFlit .. => exact MovesO.mono (execColFlit_moves _ _ _ _ s) (by decide)
  | .colRetrainTimeout .. => exact MovesO.mono (execColRetrainTimeout_moves _ s) (by decide)
  | .clockLoss .. => exact MovesO.mono (execClockLoss_moves _ s) (by decide)
  | .dieReset .. => exact MovesO.mono (execDieReset_moves _ s) (by decide)
  | .rejoin .. => exact MovesO.mono (execRejoin_moves _ s) (by decide)
  | .clockStableExpiry .. => exact MovesO.mono (execClockStableExpiry_moves _ s) (by decide)
  | .dieStartupDone .. => exact MovesO.mono (execDieStartupDone_moves _ s) (by decide)
  | .dieRestoreComplete .. => exact MovesO.mono (execDieRestoreComplete_moves _ _ s) (by decide)
  | .fatalDie .. => exact MovesO.mono (execFatalDie_moves _ s) (by decide)
  | .mctpControl .. => exact MovesO.mono (execMctpControl_moves _ _ s) (by decide)
  | .pldmMonitor => exact MovesO.mono (execPldmMonitor_moves s) (by decide)
  | .pldmFirmwareUpdate .. => exact MovesO.mono (execPldmFirmwareUpdate_moves _ _ _ _ _ _ _ _ _ s) (by decide)
  | .inputSample .. => exact MovesO.mono (execInputSample_moves _ s) (by decide)
  | .holdExpiry => exact MovesO.mono (execHoldExpiry_moves s) (by decide)
  | .rampExpiry => exact MovesO.mono (execRampExpiry_moves s) (by decide)
  | .converter .. => exact MovesO.mono (execConverter_moves _ s) (by decide)
  | .stage2Fault .. => exact MovesO.mono (execStage2Fault_moves _ s) (by decide)
  | .telemetryTick .. => exact MovesO.mono (execTelemetryTick_moves _ _ s) (by decide)
  | .sensorRead .. => exact MovesO.mono (execSensorRead_moves _ s) (by decide)
  | .pacingRelease .. => exact MovesO.mono (execPacingRelease_moves _ s) (by decide)
  | .thermalForced => exact MovesO.mono (execThermalForced_moves s) (by decide)
  | .thermalForceClear => exact MovesO.mono (execThermalForceClear_moves s) (by decide)
  | .clusterResume .. => exact MovesO.mono (execClusterResume_moves _ _ s) (by decide)
  | .powerOnReset .. => exact MovesO.mono (execPowerOnReset_moves _ s) (by decide)
  | .perstAssert => exact MovesO.mono (execPerstAssert_moves s) (by decide)
  | .perstRelease .. => exact MovesO.mono (execPerstRelease_moves _ s) (by decide)
  | .cxlConventionalReset .. => exact MovesO.mono (execCxlConventionalReset_moves _ s) (by decide)
  | .sysRefclkLoss => exact MovesO.mono (execSysRefclkLoss_moves s) (by decide)
  | .rdgRefclkLoss => exact MovesO.mono (execRdgRefclkLoss_moves s) (by decide)
  | .cxlRefclkLoss => exact MovesO.mono (execCxlRefclkLoss_moves s) (by decide)
  | .bivouac => exact MovesO.mono (execBivouac_moves s) (by decide)
  | .bivouacEntryDone => exact MovesO.mono (execBivouacEntryDone_moves s) (by decide)
  | .wake => exact MovesO.mono (execWake_moves s) (by decide)
  | .bivouacExitDone .. => exact MovesO.mono (execBivouacExitDone_moves _ s) (by decide)
  | .refuge => exact MovesO.mono (execRefuge_moves s) (by decide)
  | .refugeEntryDone => exact MovesO.mono (execRefugeEntryDone_moves s) (by decide)
  | .refugeResumeDone .. => exact MovesO.mono (execRefugeResumeDone_moves _ _ s) (by decide)
  | .signRequest => exact MovesO.mono (execSignRequest_moves s) (by decide)
  | .indexReserved => exact MovesO.mono (execIndexReserved_moves s) (by decide)
  | .treeBuildDone => exact MovesO.mono (execTreeBuildDone_moves s) (by decide)
  | .operatorKeySet .. => exact MovesO.mono (execOperatorKeySet_moves _ _ s) (by decide)
  | .policySet .. => exact MovesO.mono (execPolicySet_moves _ s) (by decide)
  | .massifPlanSet .. => exact MovesO.mono (execMassifPlanSet_moves _ s) (by decide)
  | .partition .. => exact MovesO.mono (execPartition_moves _ s) (by decide)
  | .packageReset .. => exact MovesO.mono (execPackageReset_moves _ _ s) (by decide)
  | .stateWake .. => exact MovesO.mono (execStateWake_moves _ s) (by decide)
  | .attest .. => exact MovesO.mono (execAttest_moves _ _ s) (by decide)
  | .installTx .. => exact MovesO.mono (execInstallTx_moves _ _ s) (by decide)
  | .installRx .. => exact MovesO.mono (execInstallRx_moves _ _ s) (by decide)
  | .request .. => exact MovesO.mono (execRequest_moves _ s) (by decide)
  | .selftestScheduleTick => exact MovesO.mono (execSelftestScheduleTick_moves s) (by decide)
  | .testReq .. => exact MovesO.mono (execTestReq_moves _ _ _ _ s) (by decide)
  | .testGrant .. => exact MovesO.mono (execTestGrant_moves _ _ _ _ s) (by decide)
  | .testReqRetry => exact MovesO.mono (execTestReqRetry_moves s) (by decide)
  | .testHold .. => exact MovesO.mono (execTestHold_moves _ _ s) (by decide)
  | .selftestDrainDone => exact MovesO.mono (execSelftestDrainDone_moves s) (by decide)
  | .selftestTestDone .. => exact MovesO.mono (execSelftestTestDone_moves _ _ s) (by decide)
  | .testDone .. => exact MovesO.mono (execTestDone_moves _ _ s) (by decide)
  | .selftestSlotExpiry .. => exact MovesO.mono (execSelftestSlotExpiry_moves _ s) (by decide)
  | .errorRecord => exact MovesO.mono (execErrorRecord_moves s) (by decide)
  | .recordWindowExpiry .. => exact MovesO.mono (execRecordWindowExpiry_moves _ s) (by decide)
  | .holdDrain => exact MovesO.mono (execHoldDrain_moves s) (by decide)
  | .holdOverflow => exact MovesO.mono (execHoldOverflow_moves s) (by decide)
  | .extest => exact MovesO.mono (execExtest_moves s) (by decide)
  | .extestPulse => exact MovesO.mono (execExtestPulse_moves s) (by decide)
  | .extestTrain => exact MovesO.mono (execExtestTrain_moves s) (by decide)
  | .samplePreload .. => exact MovesO.mono (execSamplePreload_moves _ s) (by decide)
  | .idcode .. => exact MovesO.mono (execIdcode_moves _ s) (by decide)
  | .bypass .. => exact MovesO.mono (execBypass_moves _ _ s) (by decide)
  | .trst .. => exact MovesO.mono (execTrst_moves _ s) (by decide)
  | .resumeRequest .. => exact MovesO.mono (execResumeRequest_moves _ s) (by decide)
  | .hostRequestCompletion .. => exact MovesO.mono (execHostRequestCompletion_moves _ _ _ _ _ _ s) (by decide)
  | .colLinkTrained .. => exact MovesO.mono (execColLinkTrained_moves _ s) (by decide)
  | .spurLoadStore .. => exact MovesO.mono (execSpurLoadStore_moves _ _ _ _ _ _ _ _ s) (by decide)
  | .spurCsrWrite .. => exact MovesO.mono (execSpurCsrWrite_moves _ _ _ _ s) (by decide)
  | .cxlLinkUp .. => exact MovesO.mono (execCxlLinkUp_moves _ _ s) (by decide)
  | .signRateRelease => exact MovesO.mono (execSignRateRelease_moves s) (by decide)
/-- The array cycle adds its ten ticks, and nothing it lets go on takes them back (R7). -/
theorem idleCycle_time (s : State) : s.time + 10 ≤ (idleCycle s).time := by
  unfold idleCycle
  extract_lets s1 s2
  have h2 : s.time ≤ s2.time := by
    have m : Moves 0x1ffffffff s s2 :=
      .foldl _ _ (fun _ _ => .ite (fun _ => (State.tickDie_moves ..).mono (by decide)) (fun _ => .refl _))
        ((State.tickCores_moves ..).mono (by decide))
    exact m.time
  have h3 := (State.tickPipes_moves { s2 with time := s2.time + 10 }).time
  have h4 := (State.convStep_moves ({ s2 with time := s2.time + 10 } : State).tickPipes).time
  have h5 := (State.tickWaits_moves ({ s2 with time := s2.time + 10 } : State).tickPipes.convStep).time
  exact (Nat.add_le_add_right h2 10).trans (h3.trans (h4.trans h5))

/-- Settles O57: the two branches of a step; an array cycle keeps the empty queue and its ten ticks are not taken back. -/
theorem stepRunsFront : Obligations.StepRunsFront := by
  refine fun s => ⟨fun c rest h => by simp only [step, h], fun h => ⟨idleCycle s, by simp only [step, h], ?_, ?_⟩⟩
  · exact (idleCycle_moves s).pending.trans h
  · exact idleCycle_time s

/-- Settles O60: an idle step and a command each have a frame law, which keeps the rest of the queue and all that was sent. -/
theorem stepOnlyAdds : Obligations.StepOnlyAdds := by
  intro s t e
  match h : s.pending with
  | [] =>
    have m := idleCycle_moves s
    obtain rfl : idleCycle s = t := by simpa only [step, h, Host.Outcome.next.injEq] using e
    exact ⟨m.pending.trans h, m.time, m.out, m.free⟩
  | c :: rest =>
    have m := exec_moves c { s with pending := rest } t (by simpa only [step, h] using e)
    exact ⟨m.pending, m.time, m.out, m.free⟩

/-- Where the register file is empty a register reads its reset value. -/
theorem reset_reg (r : Reg) (d i : Nat) : State.reset.reg r d i = r.initOf d := rfl

/-- Settles O58: the register file and memory are empty at reset, so each read gives its default (R14, R15). -/
theorem resetState : Obligations.ResetState :=
  ⟨⟨rfl, rfl⟩, rfl, rfl, rfl, rfl, rfl, reset_reg, fun _ => rfl, by decide, fun _ => rfl, by decide⟩

end Sys2Proof.Machine
end

