-- ==== Sys2Proof/Proofs/MemoryReads.lean ====
section
/-!
PROOFS. What reads find: bytes and numbers read back where they were stored, and where no error stands in memory an access leaves the
whole state alone.
-/
namespace Sys2Proof.Machine

open Sys2Proof

/-- The number of n little-endian bytes is the number cut to n bytes. -/
theorem leNat_leBytes_mod (n x : Nat) : leNat (leBytes n x) = x % 256 ^ n := by
  induction n generalizing x with
  | zero => simp [leBytes, leNat, Nat.mod_one]
  | succ n ih => simp [leBytes, leNat, ih, pow_succ', Nat.mod_mul]

/-- Within a page byte i from an address lies i behind it in memory: the views change at pages only (R36). -/
theorem memKey_add (a i : Nat) (h : a % 4096 + i < 4096) : memKey (a + i) = memKey a + i := by
  unfold memKey
  split <;> split
  · have h1 : (a + i - 0x100000000000) / 0x3000000000 = (a - 0x100000000000) / 0x3000000000 := by omega
    have h2 : (a + i - 0x100000000000) % 0x3000000000 = (a - 0x100000000000) % 0x3000000000 + i := by omega
    rw [h1, h2]
    have h3 : (a - 0x100000000000) % 0x3000000000 % 4096 + i < 4096 := by omega
    generalize (a - 0x100000000000) % 0x3000000000 = x at h3 ⊢
    unfold spreadHome
    dsimp only
    rw [show (x + i) / 4096 = x / 4096 by omega, show (x + i) % 4096 = x % 4096 + i by omega]
    omega
  all_goals omega

/-- Bytes stored within a page read back. -/
theorem State.bytes_write (s : State) (a : Nat) (bs : List Byte) (h : a % 4096 + bs.length ≤ 4096) :
    (s.write a bs).bytes a bs.length = bs := by
  refine List.ext_getElem (by simp [State.bytes, rangeFrom]) fun i _ hi => ?_
  have hk : ∀ j k, j < bs.length → k < bs.length → memKey (a + j) = memKey (a + k) → j = k := fun j k hj hk e => by
    rw [memKey_add _ _ (by omega), memKey_add _ _ (by omega)] at e
    omega
  simpa [State.bytes, rangeFrom] using s.byte_write a i bs hi hk

/-- A number stored within a page reads back, cut to its width. -/
theorem State.readN_writeN (s : State) (a n x : Nat) (h : a % 4096 + n ≤ 4096) : (s.writeN a n x).readN a n = x % 256 ^ n := by
  have hb := s.bytes_write a (leBytes n x) (by simpa using h)
  rw [leBytes_length] at hb
  rw [State.readN, State.writeN, hb, leNat_leBytes_mod]

theorem State.NoErrs.meetPairs_eq {s : State} (h : s.NoErrs) (k lo hi : Nat) (c : Nat → Bool) : s.meetPairs k lo hi c = s := by
  simp [State.meetPairs, h.2 k]

/-- Where no error stands an access meets none (R114, R167). -/
theorem State.NoErrs.meetErrs_eq {s : State} (h : s.NoErrs) (a n : Nat) (w : Bool) : s.meetErrs a n w = s := by
  unfold State.meetErrs
  split
  · exact h.meetPairs_eq ..
  · rw [List.foldl_ext (g := fun u _ => u)]
    · exact List.foldl_fixed ..
    · intro u k hk
      have he : k.2.errs = [] := by simpa using List.all_eq_true.mp h.1 k hk
      rw [he]; rfl
  · rfl

end Sys2Proof.Machine
end

