-- ==== Sys2Proof/Proofs/SegmentArrivals.lean ====
section
/-!
PROOFS. How a request segment meets the package, and what each kind of segment does there.
-/
namespace Sys2Proof.Machine

open Sys2Proof

/-! ### Packets -/

/-- What a packet carries comes from the registers and the link map alone (R217, R225). -/
theorem State.packetMsg_congr {s t : State} (hr : t.regs = s.regs) (hf : t.fabric = s.fabric) (kind : MsgKind) (d : Nat) (h : Header)
    (data : List Byte) (marks : List Bool) : t.packetMsg kind d h data marks = s.packetMsg kind d h data marks := by
  cases s; cases t; subst hr hf; rfl

/-- An answer is one packet, which exchanges source and destination and names the package's job (R190). -/
theorem State.answer_out (s : State) (op : Nat) (g : Segment) (st : Nat) (data : List Byte) (marks : List Bool) :
    (s.answer op g st data marks).out = s.out ++ [s.packetMsg .response (addressDie g.address)
      ((g.head op s.device).reply (answersData op g) s.job st (marks.any id)) data marks] := rfl

@[simp] theorem State.answer_mem (s : State) (op : Nat) (g : Segment) (st : Nat) (data : List Byte) (marks : List Bool) :
    (s.answer op g st data marks).mem = s.mem := rfl

/-- After work that left the registers, the link map and the outputs alone, an answer is the packet that it would have been before. -/
theorem State.answer_out_of {s t : State} (hr : t.regs = s.regs) (hf : t.fabric = s.fabric) (ho : t.out = s.out) (op : Nat)
    (g : Segment) (st : Nat) (data : List Byte) (marks : List Bool) :
    (t.answer op g st data marks).out = (s.answer op g st data marks).out := by
  have hd : t.device = s.device := by cases s; cases t; subst hr; rfl
  have hj : t.job = s.job := by cases s; cases t; subst hr; rfl
  rw [State.answer_out, State.answer_out, State.packetMsg_congr hr hf, ho, hd, hj]

/-! ### Meeting the package -/

section
variable {s : State} {d op : Nat} {g : Segment} {what : Arrival} {ext : List (Nat × Nat × Bool)}

theorem State.MeetsNow.meet_eq (h : s.MeetsNow g ext) : s.meet d op g what ext = (s, true) := by
  obtain ⟨hst, hstop, hres, hq, hx⟩ := h
  have ha : (ext.any fun x => s.accessHeld x.1 x.2.1 x.2.2) = false := by simpa using hx
  unfold State.meet
  dsimp only
  rw [if_neg (by simp [hstop, hres]; omega), if_neg (by omega), if_neg (by simp [hq]; omega), ha, if_neg Bool.false_ne_true,
    if_neg (by omega)]

theorem State.meet_silent (h : s.power.stopped ≠ none ∨ s.power.inReset = true ∨ s.getF STATE_STATUS_STATE 0 0 = 5 ∨
    s.getF STATE_STATUS_STATE 0 0 = 6) : s.meet d op g what ext = (s, false) := by
  unfold State.meet
  dsimp only
  rw [if_pos (by rw [Option.isSome_iff_ne_none]; tauto)]

section
variable (hstop : s.power.stopped = none) (hres : s.power.inReset = false)
include hstop hres

theorem State.meet_asleep (hst : s.getF STATE_STATUS_STATE 0 0 = 2) (hw : s.wakesOn STATE_EXPERT_WAKE_ON_REQUEST = false) :
    s.meet d op g what ext = (s.answerAt d op g stUNREACHABLE [] [], false) := by
  simp [State.meet, hst, hstop, hres, hw]

theorem State.meet_wakes (hst : s.getF STATE_STATUS_STATE 0 0 = 2) (hw : s.wakesOn STATE_EXPERT_WAKE_ON_REQUEST = true) :
    s.meet d op g what ext = ((s.setF STATE_STATUS_STATE 0 0 3).park [] what, false) := by
  simp [State.meet, hst, hstop, hres, hw]

theorem State.meet_queued (hst : s.getF STATE_STATUS_STATE 0 0 = 3 ∨ s.getF STATE_STATUS_STATE 0 0 < 2 ∧ s.queuedBehind g = true) :
    s.meet d op g what ext = (s.park [] what, false) := by
  unfold State.meet
  dsimp only
  rw [if_neg (by simp [hstop, hres]; omega), if_neg (by omega), if_pos (by tauto), if_neg (by omega)]

theorem State.meet_held (hst : s.getF STATE_STATUS_STATE 0 0 < 2) (hq : s.queuedBehind g = false)
    (hx : (ext.any fun x => s.accessHeld x.1 x.2.1 x.2.2) = true) : s.meet d op g what ext = (s.park ext what, false) := by
  unfold State.meet
  dsimp only
  rw [if_neg (by simp [hstop, hres]; omega), if_neg (by omega), if_neg (by simp [hq]; omega), if_pos hx, if_neg (by omega)]

end
end

/-- A package that wakes stands at STATE 3 (Table 18.6). -/
theorem State.getF_woken (s : State) (ext : List (Nat × Nat × Bool)) (x : Arrival) :
    ((s.setF STATE_STATUS_STATE 0 0 3).park ext x).getF STATE_STATUS_STATE 0 0 = 3 := by
  show (s.setF STATE_STATUS_STATE 0 0 3).getF STATE_STATUS_STATE 0 0 = 3
  rw [State.getF_setF _ _ _ _ _ rfl]; rfl

/-! ### What a segment does -/

section
variable {s : State} {op : Nat} {g : Segment} {fire : FireFn}

theorem State.TakesNow.arrive_eq (h : s.TakesNow op g) : s.arrive fire op g = s.segmentArrive fire op g := by
  simp only [State.arrive, State.MeetsNow.meet_eq h, if_true]

theorem State.arrive_of_meet {t : State}
    (h : s.meet (addressDie g.address) op g (.segment op g) (s.segExtents op g) = (t, false)) : s.arrive fire op g = t := by
  simp [State.arrive, h]

/-- A segment whose checks pass is performed and answered. -/
theorem State.segmentArrive_done (hj : g.job = s.job) (h0 : s.job ≠ 0) (hd : s.segmentStatus op g = stDONE) :
    s.segmentArrive fire op g = (s.performSegment fire op g).1.answer op g (s.performSegment fire op g).2.1
      (s.performSegment fire op g).2.2.1 (s.performSegment fire op g).2.2.2 := by
  simp [State.segmentArrive, hj, h0, hd]

/-- INVALID precedes every other status (Table 0.5). -/
theorem statusMax_invalid (a : Nat) : statusMax a stINVALID = stINVALID := by
  unfold statusMax
  split
  · rfl
  · next h =>
    by_contra ha
    refine h ?_
    unfold statusRank
    rw [if_pos rfl, if_neg ha]
    split_ifs <;> decide

/-- The word that an atomic segment names is aligned where its form is right (R200). -/
theorem State.aligned_of_segmentStatus (hop : op = 3 ∨ op = 6) (hd : s.segmentStatus op g = stDONE) :
    g.address % (if g.w64 then 8 else 4) = 0 := by
  by_contra hna
  have hbad : s.segmentForm op g = stINVALID := by
    unfold State.segmentForm
    refine if_pos ?_
    rcases hop with rfl | rfl
    · simp [hna]
    · have : g.address % 8 ≠ 0 := by cases hw : g.w64 <;> simp [hw] at hna <;> omega
      simp [this]
  rw [State.segmentStatus, hbad, statusMax_invalid] at hd
  exact absurd hd (by decide)

/-- The word that an atomic operation stores (R200). -/
def State.atomicResult (s : State) (a aop : Nat) (w64 : Bool) (operand : List Byte) : Nat :=
  atomicAfter aop (if w64 then 64 else 32) (s.readN a (if w64 then 8 else 4)) (leNat (operand.take (if w64 then 8 else 4)))
    (leNat ((operand.drop 8).take (if w64 then 8 else 4)))

section
variable (h : s.NoErrs) (a aop : Nat) (w64 : Bool) (operand : List Byte) (hp : s.poisoned a (if w64 then 8 else 4) = false)
include h hp

/-- An atomic operation on a word of memory without poison stores its result and answers the old word (R196, R200). -/
theorem State.NoErrs.atomicAt_memory (ha : ∀ d f o, place a ≠ .flagWord d f o) :
    s.atomicAt fire a aop w64 operand =
      (s.writeN a (if w64 then 8 else 4) (s.atomicResult a aop w64 operand), s.readN a (if w64 then 8 else 4), stDONE) := by
  unfold State.atomicAt
  dsimp only
  rw [h.meetErrs_eq, hp, if_neg Bool.false_ne_true]
  split
  · next d f o e => exact absurd e (ha d f o)
  · cases w64 <;> rfl

/-- On a flag word it fires the trigger as well (R205). -/
theorem State.NoErrs.atomicAt_flagWord {d f o : Nat} (ha : place a = .flagWord d f o) :
    s.atomicAt fire a aop w64 operand =
      (fire (s.writeN a (if w64 then 8 else 4) (s.atomicResult a aop w64 operand)) d f
        (s.readN a (if w64 then 8 else 4) % 2 ^ 32) (s.atomicResult a aop w64 operand % 2 ^ 32),
       s.readN a (if w64 then 8 else 4), stDONE) := by
  unfold State.atomicAt
  dsimp only
  rw [h.meetErrs_eq, hp, if_neg Bool.false_ne_true]
  split
  · next d' f' o' e =>
    obtain ⟨rfl, rfl, -⟩ : d' = d ∧ f' = f ∧ o' = o := by simpa [e] using ha
    cases w64 <;> rfl
  · next e => exact absurd ha (e d f o)

end
end

/-! ### The three kinds of segment -/

section
variable {s : State} {g : Segment} {fire : FireFn} (hj : g.job = s.job) (h0 : s.job ≠ 0)
include hj h0

/-- A segment of the package's job that fails a check is answered its status and does nothing (R198). -/
theorem State.segmentArrive_refused {op : Nat} (hd : s.segmentStatus op g ≠ stDONE) :
    s.segmentArrive fire op g = s.answer op g (s.segmentStatus op g) [] [] := by
  simp [State.segmentArrive, hj, h0, hd]

/-- A PUT stores its payload with its poison and nothing else (R197). -/
theorem State.segmentArrive_put (ht : s.NoErrs) (hd : s.segmentStatus 1 g = stDONE) :
    (s.segmentArrive fire 1 g).mem = (s.writeMarked (g.address + g.seg64 * 64) g.payload g.marks).mem ∧
    (s.segmentArrive fire 1 g).out = s.out ++ [s.packetMsg .response (addressDie g.address) ((g.head 1 s.device).reply false s.job
      (if g.marks.any id then stPOISONED else stDONE) false) [] []] := by
  have e : s.performSegment fire 1 g =
      (s.writeMarked (g.address + g.seg64 * 64) g.payload g.marks, if g.marks.any id then stPOISONED else stDONE, [], []) := by
    simp only [State.performSegment, ht.meetErrs_eq]
  rw [State.segmentArrive_done hj h0 hd, e]
  have m := s.writeMarked_moves (g.address + g.seg64 * 64) g.payload g.marks
  exact ⟨rfl, State.answer_out_of (m.same .regs (by decide)) (m.same .fabric (by decide)) (m.same .out (by decide)) ..⟩

/-- A GET reads and changes no memory (R197). -/
theorem State.segmentArrive_get (ht : s.NoErrs) (hd : s.segmentStatus 2 g = stDONE) :
    s.segmentArrive fire 2 g =
      s.answer 2 g (if s.poisoned (g.address + g.seg64 * 64) (min 4096 ((g.len64 + 1) * 64 - g.seg64 * 64)) then stPOISONED else stDONE)
        (s.bytes (g.address + g.seg64 * 64) (min 4096 ((g.len64 + 1) * 64 - g.seg64 * 64)))
        (s.marks (g.address + g.seg64 * 64) (min 4096 ((g.len64 + 1) * 64 - g.seg64 * 64))) := by
  rw [State.segmentArrive_done hj h0 hd]
  simp only [State.performSegment, ht.meetErrs_eq]

/-- An ATOMIC or NOTIFY without poison is its atomic operation, and the old word goes back where it is asked for (R200, R202). -/
theorem State.segmentArrive_atomic {op : Nat} (hop : op = 3 ∨ op = 6) (hm : g.marks.any id = false) (hd : s.segmentStatus op g = stDONE)
    {t : State} {old : Nat} (e : s.atomicAt fire g.address g.aop g.w64 g.payload = (t, old, stDONE)) :
    s.segmentArrive fire op g = t.answer op g stDONE (if atomicFetches g.aop then leBytes 64 old else []) [] := by
  rw [State.segmentArrive_done hj h0 hd]
  rcases hop with rfl | rfl <;> simp [State.performSegment, hm, e]

end

/-- Settles O16: each clause is a branch of the segment's meeting with the package, or what its kind does there. -/
theorem segmentArrivals : Obligations.SegmentArrivals := by
  intro g s
  refine ⟨fun p hp => ?_, fun d f o ht hj h0 hd hq hm ha hpois => ?_⟩
  · have e : exec p.1 s = .next (s.arrive State.fireTrigger p.2 g) := by
      simp only [List.mem_cons, List.not_mem_nil, or_false] at hp
      rcases hp with rfl | rfl | rfl <;> rfl
    refine ⟨fun ht hj => ?_, fun ht hj h0 hd => ?_, fun ht hj h0 hd hq => ⟨fun h1 => ?_, fun h2 => ?_, fun h3 hm ha hpois => ?_⟩,
      fun hs hr hst hb hx => ?_, fun hs hr hst => ?_, fun hst hs hr hw => ?_, fun h => ?_, fun hst hs hr hw => ?_⟩
    · rw [e, ht.arrive_eq, State.segmentArrive, if_pos hj]
    · rw [e, ht.arrive_eq, State.segmentArrive_refused hj h0 hd]
    · rw [ht.arrive_eq] at e
      rw [h1] at e hd
      obtain ⟨hmem, hout⟩ := State.segmentArrive_put (fire := State.fireTrigger) hj h0 hq hd
      exact ⟨_, e, hmem, fun a ha => by rw [State.byte_of_mem hmem, State.byte_writeMarked_ne _ _ _ _ _ ha], hout⟩
    · rw [ht.arrive_eq] at e
      rw [h2] at e hd
      rw [State.segmentArrive_get hj h0 hq hd] at e
      exact ⟨_, e, rfl, rfl⟩
    · rw [ht.arrive_eq] at e
      rw [h3] at e hd
      rw [State.segmentArrive_atomic hj h0 (.inl rfl) hm hd (hq.atomicAt_memory _ _ _ _ hpois ha)] at e
      have hal := State.aligned_of_segmentStatus (.inl rfl) hd
      refine ⟨_, e, ?_, fun a ha => State.byte_write_ne _ _ _ _ ?_⟩
      · have hr := s.readN_writeN g.address (if g.w64 then 8 else 4) (s.atomicResult g.address g.aop g.w64 g.payload)
          (by cases hw : g.w64 <;> simp [hw] at hal ⊢ <;> omega)
        refine hr.trans ?_
        cases g.w64 <;> rfl
      · simpa using ha
    · rw [e, State.arrive_of_meet (State.meet_held hs hr hst hb hx)]
    · rw [e, State.arrive_of_meet (State.meet_queued hs hr hst)]
    · rw [e, State.arrive_of_meet (State.meet_asleep hs hr hst hw)]; rfl
    · rw [e, State.arrive_of_meet (State.meet_silent h)]
    · rw [State.arrive_of_meet (State.meet_wakes hs hr hst hw)] at e
      exact ⟨_, e, s.getF_woken _ _, rfl, rfl⟩
  · have e : exec (.notify g) s = .next (s.arrive State.fireTrigger 6 g).afterWork := rfl
    rw [e, ht.arrive_eq, State.segmentArrive_atomic hj h0 (.inr rfl) hm hd (hq.atomicAt_flagWord _ _ _ _ hpois ha)]
    rfl

end Sys2Proof.Machine
end

