-- ==== Sys2Proof/Proofs/PooledTier.lean ====
section
/-!
PROOFS. The pooled tier: an access that goes to its expander answers without the work that the statement has follow it.
-/
namespace Sys2Proof.Machine

open Sys2Proof

/-- Whether the step waits to become FINAL: REDUCING with a die that runs and every bucket final (Table 12.1). -/
def State.finalDue (s : State) : Bool := s.corState == 2 && !s.liveDies.isEmpty && s.red.buckets.all fun b => !b.counted.isEmpty

theorem State.setStep_corState (s : State) (n : Nat) : (s.setStep 3 n).corState = 3 := by
  have h : ((s.setF CORNICE_STATUS_STATE 0 0 3).setF CORNICE_STATUS_STEP 0 0 n).corState = 3 := by
    rw [State.corState, State.getF_setF_apart _ CORNICE_STATUS_STEP CORNICE_STATUS_STATE _ _ _ rfl rfl rfl rfl, State.getF_setF _ _ _ _ _ rfl]; rfl
  unfold State.setStep
  dsimp only
  split
  · exact h
  · rw [State.corState, State.getF, State.reg, (State.sendStepState_moves ..).same .regs (by decide)]
    exact h

/-- Once other work has settled no step still waits to become FINAL (Table 12.1). -/
theorem State.settleFinal_finalDue (s : State) : s.settleFinal.finalDue = false := by
  unfold State.settleFinal
  split
  · rw [State.finalDue, State.setStep_corState]; rfl
  · next h => exact Bool.eq_false_iff.mpr h

theorem State.afterWork_finalDue (s : State) : s.afterWork.finalDue = false := State.settleFinal_finalDue _

/-- An ATOMIC of 64 bytes at address 0 of the pooled tier, which waits for its range. -/
def campEntry : TrackEntry :=
  ⟨9, ⟨.ring 0, .atomic, 0, 0x8000000000000000, 0, 64, 1, 0, false, [], [], 0, false, 0, 3, 7, false, false, 0⟩, 0, .camp, 1, [], stDONE,
   0, 0, 0⟩

/-- The range that holds it is VALID, and a step of no bucket stands at REDUCING. -/
def campState : State :=
  (((State.reset.setTracker 0 { Tracker.zero with entries := [campEntry] }).setF RANGE_SIZE_SIZE 0 0 1).setF RANGE_STATE_STATE 0 0
    1).setF CORNICE_STATUS_STATE 0 0 2

/-- The state in which the access goes to its expander. -/
def campSent : State :=
  (campState.updEntry 0 9 fun x => { x with
    phase := .uio 0 (campState.flag POOL_EXPERT_LOSS_ON_POISON 0 0)
    deadline := campState.getF POOL_EXPERT_UIO_TIMEOUT_US 0 0 * 1000 }).emit .uio 0 [0, 9, 3, 0, 64] []

theorem exec_campState : exec (.pooledAccess 0 9) campState = .next campSent := rfl

/-- Refutes O18: the access that goes to its VALID range answers the state in which a step without buckets still waits to become FINAL,
and no work leaves such a state. -/
theorem not_pooledTier : ¬ Obligations.PooledTier := by
  intro h
  obtain ⟨-, hcamp, -⟩ := h 0 9 campState campEntry (by decide)
  obtain ⟨-, hhit⟩ := hcamp rfl (by decide)
  obtain ⟨-, -, hgo⟩ := hhit 0 (by decide) (by decide) (by omega)
  obtain ⟨u, hu, -⟩ := hgo (by decide) (by decide) ⟨by decide, fun _ => rfl⟩
  have e : campSent = u.afterWork := by
    rw [exec_campState] at hu
    injection hu
  have hd : campSent.finalDue = true := by decide
  rw [e, State.afterWork_finalDue] at hd
  exact Bool.false_ne_true hd

end Sys2Proof.Machine
end

