-- ==== Sys2Proof/Proofs/PortFlits.lean ====
section
/-!
PROOFS. What a port keeps while flits come and go: its receive buffer, its sequence numbers; and what an arriving flit does.
-/
namespace Sys2Proof.Machine

open Sys2Proof

/-! ### Maps and ports -/

/-- What a map holds after an entry is set: that entry, and the entries of other keys. -/
theorem mem_kset {α : Type} [DecidableEq α] {d v : α} {m : KMap α} {k : Nat} {e : Nat × α} (h : e ∈ kset d m k v) :
    e = (k, v) ∨ e ∈ m ∧ e.1 ≠ k := by
  have old : e ∈ kerase m k → e ∈ m ∧ e.1 ≠ k := fun h => ⟨mem_kerase h, kerase_absent m k e h⟩
  unfold kset at h
  split at h
  · exact .inr (old h)
  · exact (mem_kinsert h).imp id old

@[simp] theorem State.port_setPort (s : State) (p : Nat) (x : Port) : (s.setPort p x).port p = x := kget_kset_same ..

theorem State.port_setPort_ne (s : State) {p q : Nat} (x : Port) (h : q ≠ p) : (s.setPort p x).port q = s.port q := kget_kset_ne _ _ h

/-- A port is what the fabric keeps of it. -/
theorem State.port_congr {s t : State} (h : t.fabric = s.fabric) (p : Nat) : t.port p = s.port p := by
  unfold State.port; rw [h]

theorem State.portF_congr {s t : State} (h : t.regs = s.regs) (f : Fld) (p : Nat) : t.portF f p = s.portF f p := by
  unfold State.portF State.getF State.reg; rw [h]

/-- A counter that saturates. -/
theorem State.getF_satF (s : State) (f : Fld) (d i n : Nat) (h : f.fits = true) :
    (s.satF f d i n).getF f d i = min (2 ^ (f.hi + 1 - f.lo) - 1) (s.getF f d i + n) := by
  rw [State.satF, State.getF_setF _ _ _ _ _ h, satAdd]
  have := Nat.pow_pos (n := f.hi + 1 - f.lo) (show 0 < 2 by decide)
  split
  · next hlt => rw [Nat.mod_eq_of_lt hlt]; omega
  · rw [Nat.mod_eq_of_lt (by omega)]; omega

/-! ### Credits that go back -/

/-- Pool k of a receive buffer holds the bytes B of an unfinished packet, in every entry that it has. -/
def RxKeeps (rx : KMap RxPool) (k : Nat) (B : List Byte) : Prop :=
  (kget RxPool.zero rx k).bytes = B ∧ ∀ e ∈ rx, e.1 = k → e.2.bytes = B

theorem RxKeeps.kset {rx : KMap RxPool} {k j : Nat} {B : List Byte} {y : RxPool} (h : RxKeeps rx k B) (hy : j = k → y.bytes = B) :
    RxKeeps (kset RxPool.zero rx j y) k B := by
  refine ⟨?_, fun e he hk => ?_⟩
  · rw [kget_kset]
    split
    · next e => exact hy e.symm
    · exact h.1
  · rcases mem_kset he with rfl | ⟨he, -⟩
    · exact hy hk
    · exact h.2 e he hk

theorem rxKeeps_kset (rx : KMap RxPool) (k : Nat) (y : RxPool) : RxKeeps (kset RxPool.zero rx k y) k y.bytes := by
  refine ⟨by rw [kget_kset_same], fun e he hk => ?_⟩
  rcases mem_kset he with rfl | ⟨-, hne⟩
  · rfl
  · exact absurd hk hne

/-- Between two states port p changes at most its receive buffer, and no unfinished packet there. -/
def State.KeepsPort (s t : State) (p : Nat) : Prop :=
  t.port p = { s.port p with rx := (t.port p).rx } ∧ ∀ k B, RxKeeps (s.port p).rx k B → RxKeeps (t.port p).rx k B

/-- What stays of a pool of port p's receive buffer once the flits of packets that left the package have gone. -/
def State.poolLeft (s : State) (y : RxPool) : RxPool :=
  { y with held := y.held.drop (y.held.takeWhile fun h => h.taken && !s.packetWaits h.pkt).length }

/-- Giving credits back changes nothing of the ports but the pools of this one. -/
theorem State.giveCredits_ports (s : State) (q : Nat) : ∃ f : State → Nat × RxPool → State,
    s.giveCredits q = (s.port q).rx.foldl f s ∧ ∀ u e, (f u e).fabric =
      (u.setPort q { u.port q with rx := kset RxPool.zero (u.port q).rx e.1 (s.poolLeft e.2) }).fabric := by
  refine ⟨_, rfl, fun u e => ?_⟩
  dsimp only
  split <;> rfl

section
variable {s t u : State} {p : Nat}

theorem State.KeepsPort.refl : s.KeepsPort s p := ⟨rfl, fun _ _ => id⟩

theorem State.KeepsPort.trans (h : s.KeepsPort t p) (h' : t.KeepsPort u p) : s.KeepsPort u p :=
  ⟨by rw [h'.1, h.1], fun k B hk => h'.2 k B (h.2 k B hk)⟩

theorem State.KeepsPort.congr (h : s.KeepsPort t p) (e : u.fabric = t.fabric) : s.KeepsPort u p := by
  unfold State.KeepsPort
  rw [State.port_congr e]
  exact h

/-- A pool of one port's receive buffer is set to what keeps its unfinished packet. -/
theorem State.KeepsPort.setPool (h : s.KeepsPort t p) {q j : Nat} {y : RxPool}
    (hy : q = p → ∀ B, RxKeeps (s.port p).rx j B → y.bytes = B) :
    s.KeepsPort (t.setPort q { t.port q with rx := kset RxPool.zero (t.port q).rx j y }) p := by
  unfold State.KeepsPort
  by_cases hq : q = p
  · subst hq
    rw [State.port_setPort]
    exact ⟨by rw [h.1], fun k B hk => (h.2 k B hk).kset fun hj => hy rfl B (hj ▸ hk)⟩
  · rw [State.port_setPort_ne _ _ (Ne.symm hq)]
    exact h

/-- Credits that go back leave every unfinished packet (R219). -/
theorem State.giveCredits_keepsPort (s : State) (p q : Nat) : s.KeepsPort (s.giveCredits q) p := by
  obtain ⟨f, e, hf⟩ := s.giveCredits_ports q
  rw [e]
  have fold : ∀ (l : KMap RxPool) (u : State), l ⊆ (s.port q).rx → s.KeepsPort u p → s.KeepsPort (l.foldl f u) p := by
    intro l
    induction l with
    | nil => exact fun u _ hu => hu
    | cons e l ih =>
      intro u hl hu
      obtain ⟨he, hl⟩ := List.cons_subset.mp hl
      exact ih _ hl ((hu.setPool (y := s.poolLeft e.2) fun hq B hB => hB.2 e (hq ▸ he) rfl).congr (hf u e))
  exact fold _ _ (List.Subset.refl _) .refl

theorem State.giveAllCredits_keepsPort (s : State) (p : Nat) : s.KeepsPort s.giveAllCredits p := by
  unfold State.giveAllCredits
  generalize List.range 16 = l
  induction l generalizing s with
  | nil => exact .refl
  | cons q l ih =>
    rw [List.foldl_cons]
    split
    · exact (s.giveCredits_keepsPort p q).trans (ih _)
    · exact ih _

end

/-! ### Flits that go out, and one that comes in -/

@[simp] theorem State.port_sends (s : State) (l : List Msg) (p : Nat) : (s.sends l).port p = s.port p := rfl

theorem State.sendFlit_sent (s : State) (p : Nat) (f : TxFlit) : ∃ cap g, (s.sendFlit p f).port p = (s.port p).sent cap g := by
  unfold State.sendFlit
  dsimp only
  split
  · exact ⟨_, _, by rw [State.port_sends, State.port_setPort]⟩
  · exact ⟨_, _, State.port_setPort ..⟩

/-- A flit that goes out leaves what the port receives (R218). -/
theorem State.sendFlit_port (s : State) (p : Nat) (f : TxFlit) :
    ((s.sendFlit p f).port p).rx = (s.port p).rx ∧ ((s.sendFlit p f).port p).rxNext = (s.port p).rxNext := by
  obtain ⟨cap, g, e⟩ := s.sendFlit_sent p f
  rw [e]
  exact ⟨rfl, rfl⟩

theorem State.pump_port (s : State) (p n : Nat) :
    ((s.pump p n).port p).rx = (s.port p).rx ∧ ((s.pump p n).port p).rxNext = (s.port p).rxNext := by
  induction n generalizing s with
  | zero => exact ⟨rfl, rfl⟩
  | succ n ih =>
    unfold State.pump
    dsimp only
    split
    · exact ⟨rfl, rfl⟩
    · split
      · exact ⟨rfl, rfl⟩
      · next f _ =>
        obtain ⟨h1, h2⟩ := ih (s.sendFlit p f)
        obtain ⟨h3, h4⟩ := s.sendFlit_port p f
        exact ⟨h1.trans h3, h2.trans h4⟩

/-- A port without waiting bytes sends nothing. -/
theorem State.pumpAll_idle (s : State) (p : Nat) (h : (s.port p).streams = []) : s.pumpAll p = s := by
  unfold State.pumpAll Port.backlog
  rw [h]; rfl

/-- Packets that came in go on to the forwarding in turn. -/
def State.handPackets (s : State) (p : Nat) (ks : List Packet) : State :=
  ks.foldl (fun u k => u.emit .other (65536 + p) [1, k.vc, b2n k.rsp] k.bytes) s

theorem State.handPackets_eq (s : State) (p : Nat) (ks : List Packet) :
    s.handPackets p ks = s.sends (ks.map fun k => ⟨.other, 65536 + p, [1, k.vc, b2n k.rsp], k.bytes⟩) := by
  unfold State.handPackets
  induction ks generalizing s with
  | nil => simp [State.sends]
  | cons k ks ih =>
    rw [List.foldl_cons, ih]
    simp [State.emit, State.sends]

theorem RxPool.took_bytes (y : RxPool) (ks : List Packet) (rest : List Byte) : (y.took ks rest).bytes = rest := by
  unfold RxPool.took
  split <;> rfl

/-- An accepted flit moves the sequence number on and leaves in its pool the bytes of the packet that is not whole yet; the whole packets
come in (R217, R218). -/
theorem State.acceptFlit_spec (s : State) (p vc : Nat) (rsp : Bool) (payload : List Byte) :
    let bs := (kget RxPool.zero (s.port p).rx (pool vc rsp)).bytes ++ payload
    let r := takePackets vc rsp (bs.length / 40 + 1) bs
    ((s.acceptFlit p vc rsp payload).port p).rxNext = ((s.port p).rxNext + 1) % 4096 ∧
    RxKeeps ((s.acceptFlit p vc rsp payload).port p).rx (pool vc rsp) r.2 ∧
    ∀ k ∈ r.1, (⟨.other, 65536 + p, [1, k.vc, b2n k.rsp], k.bytes⟩ : Msg) ∈ (s.acceptFlit p vc rsp payload).out := by
  intro bs r
  let y := kget RxPool.zero (s.port p).rx (pool vc rsp)
  have e : s.acceptFlit p vc rsp payload = (s.setPort p { s.port p with
      rxNext := ((s.port p).rxNext + 1) % 4096
      rx := kset RxPool.zero (s.port p).rx (pool vc rsp) (y.took r.1 r.2) }).sends
        (r.1.map fun k => ⟨.other, 65536 + p, [1, k.vc, b2n k.rsp], k.bytes⟩) := State.handPackets_eq ..
  rw [e]
  refine ⟨?_, ?_, fun k hk => ?_⟩
  · exact congrArg Port.rxNext (State.port_setPort ..)
  · refine (congrArg (RxKeeps ·.rx (pool vc rsp) r.2) (State.port_setPort ..)).mpr ?_
    have hk := rxKeeps_kset (s.port p).rx (pool vc rsp) (y.took r.1 r.2)
    rwa [RxPool.took_bytes] at hk
  · exact List.mem_append_right _ (List.mem_map_of_mem hk)

/-! ### What a flit in order does -/

/-- A flit in order has its ACK and its returned credits taken first (R218, R219). -/
def State.ackFlit (s : State) (p : Nat) (f : Flit) : State :=
  let s1 := s.takeAck p f.ack
  s1.setPort p { s1.port p with
    used := kset 0 (s1.port p).used (pool f.cvc f.crsp) (kget 0 (s1.port p).used (pool f.cvc f.crsp) - f.ccount) }

theorem State.takeAck_port (s : State) (p ack : Nat) : ∃ n, (s.takeAck p ack).port p = { s.port p with
    buffer := if (s.port p).buffer.any (fun x => x.seq == ack) then ((s.port p).buffer.dropWhile fun x => x.seq != ack).drop 1
      else (s.port p).buffer
    replays := n } := by
  unfold State.takeAck
  dsimp only
  split
  · exact ⟨0, by rw [State.port_setPort]⟩
  · exact ⟨(s.port p).replays, rfl⟩

/-- An ACK drops what it covers, a CREDIT flit's count returns, and the port keeps the rest. -/
theorem State.ackFlit_port (s : State) (p : Nat) (f : Flit) : ∃ n, (s.ackFlit p f).port p = { s.port p with
    buffer := if (s.port p).buffer.any (fun x => x.seq == f.ack) then ((s.port p).buffer.dropWhile fun x => x.seq != f.ack).drop 1
      else (s.port p).buffer
    replays := n
    used := kset 0 (s.port p).used (pool f.cvc f.crsp) (kget 0 (s.port p).used (pool f.cvc f.crsp) - f.ccount) } := by
  obtain ⟨n, h⟩ := s.takeAck_port p f.ack
  refine ⟨n, ?_⟩
  unfold State.ackFlit
  dsimp only
  rw [State.port_setPort, h]

section
variable (s : State) (p : Nat) (f : Flit) (area : List Byte)

/-- A REQ or RSP flit is accepted, and its whole packets come in (R217, R219). -/
theorem State.takeFlit_data (hk : f.kind = 1 ∨ f.kind = 2) :
    let bs := (kget RxPool.zero (s.port p).rx (pool f.vc (f.kind == 2))).bytes ++ area
    let r := takePackets f.vc (f.kind == 2) (bs.length / 40 + 1) bs
    let t := s.takeFlit p f area
    (t.port p).rxNext = ((s.port p).rxNext + 1) % 4096 ∧
    (kget RxPool.zero (t.port p).rx (pool f.vc (f.kind == 2))).bytes = r.2 ∧
    ∀ k ∈ r.1, (⟨.other, 65536 + p, [1, k.vc, b2n k.rsp], k.bytes⟩ : Msg) ∈ t.out := by
  intro bs r t
  obtain ⟨u, hu, e⟩ : ∃ u : State, u.port p = (s.ackFlit p f).port p ∧
      t = ((u.acceptFlit p f.vc (f.kind == 2) area).pumpAll p).giveAllCredits := by
    have hd : (f.kind == 1 || f.kind == 2) = true := by simpa using hk
    refine ⟨_, ?_, by simp only [t, State.takeFlit, hd, if_true]; rfl⟩
    split <;> rfl
  obtain ⟨n, hp⟩ := s.ackFlit_port p f
  rw [hp] at hu
  obtain ⟨hseq, hrx, hmsg⟩ := u.acceptFlit_spec p f.vc (f.kind == 2) area
  rw [hu] at hseq hrx hmsg
  obtain ⟨hrx', hseq'⟩ := (u.acceptFlit p f.vc (f.kind == 2) area).pump_port p ((u.acceptFlit p f.vc (f.kind == 2) area).port p).backlog
  obtain ⟨hport, hrx''⟩ := ((u.acceptFlit p f.vc (f.kind == 2) area).pumpAll p).giveAllCredits_keepsPort p
  rw [← e] at hport hrx''
  refine ⟨?_, (hrx'' _ _ (hrx'.symm ▸ hrx)).1, fun k hk => ?_⟩
  · rw [hport]
    exact hseq'.trans hseq
  · have ho : (u.acceptFlit p f.vc (f.kind == 2) area).out <+: t.out := by
      rw [e]
      exact (State.pumpAll_moves ..).out.trans (State.giveAllCredits_moves ..).out
    exact ho.subset (hmsg k hk)

/-- A flit that brings no packet bytes to a port without waiting bytes changes what its ACK and its credits say (R218, R219). -/
theorem State.takeFlit_bare (hk : f.kind = 0 ∨ f.kind = 3) (hs : (s.port p).streams = []) :
    let t := s.takeFlit p f area
    (t.port p).buffer = (if (s.port p).buffer.any (fun x => x.seq == f.ack) then
      ((s.port p).buffer.dropWhile fun x => x.seq != f.ack).drop 1 else (s.port p).buffer) ∧
    kget 0 (t.port p).used (pool f.cvc f.crsp) = kget 0 (s.port p).used (pool f.cvc f.crsp) - f.ccount ∧
    (t.port p).rxNext = (s.port p).rxNext := by
  intro t
  obtain ⟨n, hp⟩ := s.ackFlit_port p f
  have e : t = (s.ackFlit p f).giveAllCredits := by
    have hd : (f.kind == 1 || f.kind == 2) = false := by rcases hk with h | h <;> simp [h]
    have h4 : f.kind ≠ 4 := by omega
    have hi : (s.ackFlit p f).pumpAll p = s.ackFlit p f := State.pumpAll_idle _ _ (by rw [hp]; exact hs)
    rw [← hi]
    simp only [t, State.takeFlit, hd, if_neg h4, Bool.false_and, Bool.false_eq_true, if_false]
    rfl
  have hport := ((s.ackFlit p f).giveAllCredits_keepsPort p).1
  rw [e, hport, hp]
  exact ⟨rfl, kget_kset_same .., rfl⟩

end

/-! ### Arriving flits and NAKs -/

section
variable (s : State) (p : Fin 16)

/-- The FEC's count is a register of its own among those of port p's die (Table 8.14). -/
theorem State.getF_addFec (fec d i : Nat) (f : Fld) (h : f.reg.addr d i ≠ PORT_FEC.addr (p / 4) (p % 4)) :
    (s.addF PORT_FEC_CORRECTED (p / 4) (p % 4) fec).getF f d i = s.getF f d i := State.getF_setF_ne _ _ _ _ _ _ _ _ h

theorem State.addFec_corrected (fec : Nat) : (s.addF PORT_FEC_CORRECTED (p / 4) (p % 4) fec).portF PORT_FEC_CORRECTED p =
    (s.portF PORT_FEC_CORRECTED p + fec) % 2 ^ 64 := State.getF_setF _ _ _ _ _ rfl

theorem State.addFec_require (fec : Nat) : (s.addF PORT_FEC_CORRECTED (p / 4) (p % 4) fec).getF CRYPT_EXPERT_REQUIRE (p / 4) 0 =
    s.getF CRYPT_EXPERT_REQUIRE (p / 4) 0 := s.getF_addFec p _ _ _ _ (by simp [Reg.addr, CRYPT_EXPERT_REQUIRE, CRYPT_EXPERT, PORT_FEC]; omega)

theorem State.addFec_openFlit (fec : Nat) (f : Flit) (raw : List Byte) :
    (s.addF PORT_FEC_CORRECTED (p / 4) (p % 4) fec).openFlit p f raw = s.openFlit p f raw := by
  have h : (s.addF PORT_FEC_CORRECTED (p / 4) (p % 4) fec).portF KEY_CTRL_RX_VALID p = s.portF KEY_CTRL_RX_VALID p :=
    s.getF_addFec p _ _ _ _ (by simp [Reg.addr, KEY_CTRL_RX_VALID, KEY_CTRL, PORT_FEC]; omega)
  simp only [State.openFlit, h, State.addF_fabric]

/-- An authentication failure is counted next to the FEC's count (R485). -/
theorem State.addAuthFail_count (fec : Nat) :
    ((s.addF PORT_FEC_CORRECTED (p / 4) (p % 4) fec).addF AUTH_FAIL_COUNT (p / 4) (p % 4) 1).getF AUTH_FAIL_COUNT (p / 4) (p % 4) =
      (s.getF AUTH_FAIL_COUNT (p / 4) (p % 4) + 1) % 2 ^ 64 := by
  have h := s.getF_addFec p fec (p / 4) (p % 4) AUTH_FAIL_COUNT (by simp [Reg.addr, AUTH_FAIL_COUNT, AUTH_FAIL, PORT_FEC]; omega)
  rw [State.addF, State.getF_setF _ _ _ _ _ rfl, h]
  rfl

variable {s p}
variable {raw : List Byte} {fec : Nat} (hup : s.portState p = portUP)
include hup

/-- A flit whose CRC, KIND, SEQ or VC is wrong, or that the FEC gives up, has one NAK (R218). -/
theorem execRidgeFlit_wrong {unc : Bool} (h : unc = true ∨ flitIntact raw = false ∨ (Flit.ofBytes raw).seq ≠ (s.port p).rxNext ∨
    ((Flit.ofBytes raw).kind = 1 ∨ (Flit.ofBytes raw).kind = 2) ∧ 11 < (Flit.ofBytes raw).vc) :
    exec (.ridgeFlit p raw fec unc) s = .next ((if unc then (s.addF PORT_FEC_CORRECTED (p / 4) (p % 4) fec).satF PORT_ERRORS_UNCORRECTED
      (p / 4) (p % 4) 1 else s.addF PORT_FEC_CORRECTED (p / 4) (p % 4) fec).sendNak p) := by
  show execRidgeFlit p raw fec unc s = _
  unfold execRidgeFlit
  rw [if_neg (by simp [hup])]
  dsimp only
  refine if_pos ?_
  have hx : ((if unc then (s.addF PORT_FEC_CORRECTED (p / 4) (p % 4) fec).satF PORT_ERRORS_UNCORRECTED
      (p / 4) (p % 4) 1 else s.addF PORT_FEC_CORRECTED (p / 4) (p % 4) fec).port p).rxNext = (s.port p).rxNext := by
    refine congrArg Port.rxNext (State.port_congr ?_ p)
    split
    · exact (State.satF_fabric ..).trans (State.addF_fabric ..)
    · exact State.addF_fabric ..
  rw [hx]
  simpa [or_assoc] using h

section
variable (hi : flitIntact raw = true) (hq : (Flit.ofBytes raw).seq = (s.port p).rxNext)
  (hv : (Flit.ofBytes raw).kind = 1 ∨ (Flit.ofBytes raw).kind = 2 → (Flit.ofBytes raw).vc ≤ 11)
include hi hq hv

/-- A flit that is intact and in order goes on to its decryption (R483 to R485). -/
theorem execRidgeFlit_inOrder :
    let f := Flit.ofBytes raw
    let data := f.kind == 1 || f.kind == 2
    let s1 := s.addF PORT_FEC_CORRECTED (p / 4) (p % 4) fec
    exec (.ridgeFlit p raw fec false) s =
      if data && !f.enc && (s.getF CRYPT_EXPERT_REQUIRE (p / 4) 0).testBit (p % 4) then
        .next ((s1.addF AUTH_FAIL_COUNT (p / 4) (p % 4) 1).sendNak p)
      else if !(data && f.enc) then .next (s1.takeFlit p f ((raw.drop 8).take 244))
      else (s.openFlit p f raw).elim (.next ((s1.addF AUTH_FAIL_COUNT (p / 4) (p % 4) 1).sendNak p)) fun bytes => .next (s1.takeFlit p f bytes) := by
  intro f data s1
  show execRidgeFlit p raw fec false s = _
  unfold execRidgeFlit
  rw [if_neg (by simp [hup])]
  dsimp only
  have hx : (s1.port p).rxNext = (s.port p).rxNext := congrArg Port.rxNext (State.port_congr rfl p)
  rw [if_neg Bool.false_ne_true, hx, if_neg (by simp [hi, hq]; exact hv), s.addFec_require, s.addFec_openFlit]
  refine if_congr Iff.rfl rfl (if_congr Iff.rfl rfl ?_)
  cases s.openFlit p f raw <;> rfl

/-- Packet bytes in clear are refused where REQUIRE asks for keys (R486). -/
theorem execRidgeFlit_unsealed (hk : (Flit.ofBytes raw).kind = 1 ∨ (Flit.ofBytes raw).kind = 2) (he : (Flit.ofBytes raw).enc = false)
    (hr : (s.getF CRYPT_EXPERT_REQUIRE (p / 4) 0).testBit (p % 4) = true) :
    exec (.ridgeFlit p raw fec false) s =
      .next (((s.addF PORT_FEC_CORRECTED (p / 4) (p % 4) fec).addF AUTH_FAIL_COUNT (p / 4) (p % 4) 1).sendNak p) :=
  (execRidgeFlit_inOrder hup hi hq hv).trans (if_pos (by simp [hk, he, hr]))

/-- A flit in clear that needs no key is taken as it stands. -/
theorem execRidgeFlit_clear (h : (Flit.ofBytes raw).enc = false ∧ (s.getF CRYPT_EXPERT_REQUIRE (p / 4) 0).testBit (p % 4) = false ∨
    (Flit.ofBytes raw).kind ≠ 1 ∧ (Flit.ofBytes raw).kind ≠ 2) : exec (.ridgeFlit p raw fec false) s =
      .next ((s.addF PORT_FEC_CORRECTED (p / 4) (p % 4) fec).takeFlit p (Flit.ofBytes raw) ((raw.drop 8).take 244)) := by
  refine (execRidgeFlit_inOrder hup hi hq hv).trans ((if_neg ?_).trans (if_pos ?_))
  · rcases h with ⟨-, hr⟩ | ⟨h1, h2⟩
    · simp [hr]
    · simp [h1, h2]
  · rcases h with ⟨he, -⟩ | ⟨h1, h2⟩
    · simp [he]
    · simp [h1, h2]

/-- An encrypted flit is taken where its tag holds, else refused (R484, R485). -/
theorem execRidgeFlit_sealed (hk : (Flit.ofBytes raw).kind = 1 ∨ (Flit.ofBytes raw).kind = 2) (he : (Flit.ofBytes raw).enc = true) :
    exec (.ridgeFlit p raw fec false) s = (s.openFlit p (Flit.ofBytes raw) raw).elim
      (.next (((s.addF PORT_FEC_CORRECTED (p / 4) (p % 4) fec).addF AUTH_FAIL_COUNT (p / 4) (p % 4) 1).sendNak p))
      fun bytes => .next ((s.addF PORT_FEC_CORRECTED (p / 4) (p % 4) fec).takeFlit p (Flit.ofBytes raw) bytes) :=
  (execRidgeFlit_inOrder hup hi hq hv).trans ((if_neg (by simp [he])).trans (if_neg (by simp [he]; omega)))

end
end

/-! ### A NAK -/

/-- RETRAIN is entered with what the port holds, and nothing is sent (R232). -/
theorem State.retrain_spec (s : State) (p : Nat) :
    (s.retrain p).out = s.out ∧ ((s.retrain p).port p).buffer = (s.port p).buffer ∧
    (s.retrain p).portF PORT_ERRORS_REPLAYS p = s.portF PORT_ERRORS_REPLAYS p ∧ (s.retrain p).portState p = portRETRAIN := by
  let x : Port := { s.port p with
    keepWidth := s.portF PORT_STATE_WIDTH p
    deadline := s.fabricNow + max 1 (s.getF RIDGE_EXPERT_RETRAIN_US (p / 4) 0) * 1000 }
  let u := (s.restoreShells (portShells p)).setPort p x
  let v := u.setPortF PORT_STATE_STATE p portRETRAIN
  have hv : s.retrain p = v.noteHealth := rfl
  have hu : u.regs = s.regs := (State.restoreShells_moves ..).same .regs (by decide)
  have hn : v.noteHealth.regs = v.regs := (State.noteHealth_moves v).same .regs (by decide)
  have hf : v.noteHealth.fabric = v.fabric := (State.noteHealth_moves v).same .fabric (by decide)
  have hvu : v.fabric = u.fabric := State.setF_fabric ..
  refine ⟨(State.retrain_moves s p).same .out (by decide), ?_, ?_, ?_⟩
  · rw [hv, State.port_congr (hf.trans hvu), State.port_setPort]
  · rw [hv, State.portF_congr hn]
    refine (State.getF_setF_ne u _ _ _ _ _ _ _ ?_).trans (State.portF_congr hu _ _)
    simp [Reg.addr, PORT_ERRORS_REPLAYS, PORT_ERRORS, PORT_STATE_STATE, PORT_STATE]
  · rw [State.portState, hv, State.portF_congr hn]
    exact State.getF_setF _ _ _ _ _ rfl

/-- A replay sends the buffer from a flit on, counts its flits, and leaves the port (R218). -/
theorem State.replay_spec (s : State) (p seq : Nat) :
    let again := (s.port p).buffer.dropWhile fun f => f.seq != seq
    (s.replay p seq).out = s.out ++ again.map (fun x => x.msg p) ∧ (s.replay p seq).fabric = s.fabric ∧
    (s.replay p seq).portF PORT_ERRORS_REPLAYS p = min (2 ^ 32 - 1) (s.portF PORT_ERRORS_REPLAYS p + again.length) ∧
    (s.replay p seq).portState p = s.portState p ∧
    (s.replay p seq).getF RIDGE_EXPERT_RETRY_LIMIT (p / 4) 0 = s.getF RIDGE_EXPERT_RETRY_LIMIT (p / 4) 0 := by
  intro again
  refine ⟨rfl, rfl, ?_, State.getF_setF_ne _ _ _ _ _ _ _ _ ?_, State.getF_setF_ne _ _ _ _ _ _ _ _ ?_⟩
  · exact State.getF_satF _ _ _ _ _ rfl
  · simp [Reg.addr, PORT_STATE_STATE, PORT_ERRORS_REPLAYS, PORT_ERRORS, PORT_STATE]
  · simp [Reg.addr, RIDGE_EXPERT_RETRY_LIMIT, PORT_ERRORS_REPLAYS, PORT_ERRORS, RIDGE_EXPERT]
    omega

/-- A NAK of a flit that stands in the retry buffer replays from there, and begins RETRAIN after too many replays of it (R218). -/
theorem State.takeNak_spec (s : State) (p seq : Nat) (h : (s.port p).buffer.any (fun x => x.seq == seq) = true) :
    let n := if (s.port p).replaySeq = seq ∧ (s.port p).replays ≠ 0 then (s.port p).replays + 1 else 1
    let again := (s.port p).buffer.dropWhile fun x => x.seq != seq
    (s.takeNak p seq).out = s.out ++ again.map (fun x => x.msg p) ∧
    (s.takeNak p seq).portF PORT_ERRORS_REPLAYS p = min (2 ^ 32 - 1) (s.portF PORT_ERRORS_REPLAYS p + again.length) ∧
    ((s.takeNak p seq).port p).buffer = (s.port p).buffer ∧
    (s.takeNak p seq).portState p =
      if max 1 (s.getF RIDGE_EXPERT_RETRY_LIMIT (p / 4) 0) ≤ n then portRETRAIN else s.portState p := by
  intro n again
  let u := s.setPort p { s.port p with replaySeq := seq, replays := n }
  have hup : u.port p = { s.port p with replaySeq := seq, replays := n } := State.port_setPort ..
  obtain ⟨ho, hf, hr, hs, hl⟩ := u.replay_spec p seq
  have hlim : u.getF RIDGE_EXPERT_RETRY_LIMIT (p / 4) 0 = s.getF RIDGE_EXPERT_RETRY_LIMIT (p / 4) 0 := rfl
  have e : s.takeNak p seq = if max 1 (s.getF RIDGE_EXPERT_RETRY_LIMIT (p / 4) 0) ≤ n then (u.replay p seq).retrain p else u.replay p seq := by
    rw [← hlim, ← hl]
    exact if_neg (by simp [h])
  have hb : ((u.replay p seq).port p).buffer = (s.port p).buffer := by rw [State.port_congr hf, hup]
  rw [hup] at ho hr
  rw [e]
  split
  · obtain ⟨ho', hb', hr', hs'⟩ := (u.replay p seq).retrain_spec p
    exact ⟨ho'.trans ho, hr'.trans hr, hb'.trans hb, hs'⟩
  · exact ⟨ho, hr, hb, hs⟩

/-- Settles O20: each way that a flit goes wrong sends one NAK, and each part of a good one is what the port takes in. -/
theorem portFlits : Obligations.PortFlits := by
  intro p raw fec s hup f nak
  have hnak : ∀ t : State, t.fabric = s.fabric → t.out = s.out → t.mem = s.mem → nak (t.sendNak p) := by
    intro t hf ho hm
    refine ⟨?_, hf, hm⟩
    show t.out ++ [t.bareFlit p 4 0] = _
    rw [ho, State.bareFlit, State.port_congr hf]
  have hauth : nak (((s.addF PORT_FEC_CORRECTED (p / 4) (p % 4) fec).addF AUTH_FAIL_COUNT (p / 4) (p % 4) 1).sendNak p) :=
    hnak _ (by simp) (by simp) (by simp)
  have hport : (s.addF PORT_FEC_CORRECTED (p / 4) (p % 4) fec).port p = s.port p := State.port_congr (State.addF_fabric ..) p
  have hmem (area : List Byte) : ((s.addF PORT_FEC_CORRECTED (p / 4) (p % 4) fec).takeFlit p f area).mem = s.mem :=
    (State.takeFlit_moves (s.addF PORT_FEC_CORRECTED (p / 4) (p % 4) fec) p f area).same .mem (by decide)
  refine ⟨fun unc h => ⟨_, execRidgeFlit_wrong hup h, ?_⟩, fun hi hq hk hv => ?_, fun hi hq hk hs => ?_, fun seq => ?_⟩
  · cases unc
    · exact ⟨hnak _ (by simp) (by simp) (by simp), s.addFec_corrected p fec⟩
    · refine ⟨hnak _ (by simp) (by simp) (by simp), (State.getF_setF_ne _ _ _ _ _ _ _ _ ?_).trans (s.addFec_corrected p fec)⟩
      simp [Reg.addr, PORT_FEC_CORRECTED, PORT_FEC, PORT_ERRORS_UNCORRECTED, PORT_ERRORS]
  · refine ⟨fun he hr => ?_, fun h => ?_, fun he ho => ?_, fun area ha => ?_⟩
    · exact ⟨_, execRidgeFlit_unsealed hup hi hq (fun _ => hv) hk he hr, hauth, s.addAuthFail_count p fec⟩
    · rw [State.openFlit, h]; rfl
    · have e := execRidgeFlit_sealed (fec := fec) hup hi hq (fun _ => hv) hk he
      rw [ho] at e
      exact ⟨_, e, hauth, s.addAuthFail_count p fec⟩
    · have e : exec (.ridgeFlit p raw fec false) s = .next ((s.addF PORT_FEC_CORRECTED (p / 4) (p % 4) fec).takeFlit p f area) := by
        rcases ha with ⟨he, hr, rfl⟩ | ⟨he, ho⟩
        · exact execRidgeFlit_clear hup hi hq (fun _ => hv) (.inl ⟨he, hr⟩)
        · rw [execRidgeFlit_sealed hup hi hq (fun _ => hv) hk he, ho]; rfl
      obtain ⟨hseq, hbytes, hmsg⟩ := State.takeFlit_data (s.addF PORT_FEC_CORRECTED (p / 4) (p % 4) fec) p f area hk
      rw [hport] at hseq hbytes hmsg
      exact ⟨_, e, hseq, hmem area, hbytes, hmsg⟩
  · have hk' : f.kind ≠ 1 ∧ f.kind ≠ 2 := by omega
    obtain ⟨hbuf, hused, hseq⟩ := State.takeFlit_bare (s.addF PORT_FEC_CORRECTED (p / 4) (p % 4) fec) p f ((raw.drop 8).take 244) hk
      (by rw [hport]; exact hs)
    rw [hport] at hbuf hused hseq
    exact ⟨_, execRidgeFlit_clear hup hi hq (fun h => absurd h (not_or.mpr hk')) (.inr hk'), hbuf, hused, hseq, hmem _⟩
  · have e : exec (.nak p seq) s = .next (s.takeNak p seq) := if_pos hup
    refine ⟨fun h => ?_, fun h => ?_⟩
    · rw [e, State.takeNak]
      exact congrArg _ (if_pos (by simp [h]))
    · obtain ⟨hout, hcount, hbuf, hstate⟩ := s.takeNak_spec p seq h
      rw [hup] at hstate
      exact ⟨_, e, hout, hcount, hbuf, hstate⟩

end Sys2Proof.Machine
end

