-- ==== Sys2Proof/Proofs/ReductionControl.lean ====
section
/-!
PROOFS. How a REDUCE_PUT meets its shard, what is answered where it has no effect, and what the control packets do.
-/
namespace Sys2Proof.Machine

open Sys2Proof

/-! ### Answers after a refusal by job -/

/-- Of the registers a packet needs MASSIF_DIMS only (R225). -/
theorem State.packetMsg_of_dims {s t : State} (hr : t.reg MASSIF_DIMS 0 0 = s.reg MASSIF_DIMS 0 0) (hf : t.fabric = s.fabric)
    (kind : MsgKind) (d : Nat) (h : Header) (data : List Byte) (marks : List Bool) :
    t.packetMsg kind d h data marks = s.packetMsg kind d h data marks := by
  have ht (dst : Nat) : t.trailOf d dst = s.trailOf d dst := by cases s; cases t; subst hf; rfl
  have hc : t.coordOf = s.coordOf := by unfold State.coordOf State.dims; rw [hr]
  simp only [State.packetMsg, State.routeWord, ht, hc]

/-- A refusal by job counts at its die, and leaves every register below the die regions (R209). -/
theorem State.jobRejectAt_reg (s : State) (d : Nat) (g : Segment) (q : Reg) (e j : Nat) (h : q.addr e j < 0x90028) :
    (s.jobRejectAt d g).reg q e j = s.reg q e j := by
  have h1 : (s.addF JOB_REJECT_COUNT_COUNT d 0 1).reg q e j = s.reg q e j :=
    State.reg_setReg_ne _ _ _ _ _ _ _ _ (by simp [Reg.addr, JOB_REJECT_COUNT_COUNT, JOB_REJECT_COUNT] at h ⊢; omega)
  unfold State.jobRejectAt
  dsimp only
  split <;> exact h1

theorem State.jobRejectAt_count (s : State) (d : Nat) (g : Segment) :
    (s.jobRejectAt d g).getF JOB_REJECT_COUNT_COUNT d 0 = (s.getF JOB_REJECT_COUNT_COUNT d 0 + 1) % 2 ^ 64 := by
  have h1 : (s.addF JOB_REJECT_COUNT_COUNT d 0 1).getF JOB_REJECT_COUNT_COUNT d 0 = (s.getF JOB_REJECT_COUNT_COUNT d 0 + 1) % 2 ^ 64 :=
    State.getF_setF _ _ _ _ _ rfl
  unfold State.jobRejectAt
  dsimp only
  split <;> exact h1

/-- The answer that a segment gets from die d as state s knows the fabric (R190). -/
theorem State.answerAt_out (s : State) (d op : Nat) (g : Segment) (st : Nat) (data : List Byte) (marks : List Bool) :
    (s.answerAt d op g st data marks).out = s.out ++ [s.packetMsg .response d
      ((g.head op s.device).reply (answersData op g) s.job st (marks.any id)) data marks] := rfl

theorem State.jobRejectAt_answer_out (s : State) (d op : Nat) (g : Segment) (st : Nat) :
    ((s.jobRejectAt d g).answerAt d op g st [] []).out = (s.answerAt d op g st [] []).out := by
  have m := s.jobRejectAt_moves d g
  have hreg (q : Reg) (h : q.addr 0 0 < 0x90028) := s.jobRejectAt_reg d g q 0 0 h
  have hd : (s.jobRejectAt d g).device = s.device := by
    unfold State.device State.getF
    rw [hreg MASSIF_COORD_X.reg (by decide), hreg MASSIF_DIMS_XM1.reg (by decide), hreg MASSIF_COORD_Y.reg (by decide),
      hreg MASSIF_DIMS_YM1.reg (by decide), hreg MASSIF_COORD_Z.reg (by decide)]
  have hj : (s.jobRejectAt d g).job = s.job := congrArg MEMBER_STATE_JOB.get (hreg _ (by decide))
  rw [State.answerAt_out, State.answerAt_out, m.same .out (by decide),
    State.packetMsg_of_dims (hreg _ (by decide)) (m.same .fabric (by decide)), hd, hj]

/-! ### REDUCE_PUTs that have no effect -/

/-- What an arrival answers once the work that may be due has been done: KINDs 0, 2, 7, 8 and 9 make none due (Table 10.6). -/
theorem exec_reduceCommands {row : Nat × (Fin 65536 → Segment → Instr) × Bool} (h : row ∈ reduceCommands) (epoch : Fin 65536) (g : Segment)
    (s : State) : exec (row.2.1 epoch g) s = .next (if row.2.2 then (s.reduceArrive row.1 epoch g).afterWork else s.reduceArrive row.1 epoch g) := by
  simp only [reduceCommands, List.mem_cons, List.not_mem_nil, or_false] at h
  rcases h with rfl | rfl | rfl | rfl | rfl | rfl | rfl | rfl | rfl | rfl | rfl
  all_goals
    simp only [if_true, Bool.false_eq_true, if_false]
    rfl

section
variable {s : State} {g : Segment} {kind epoch : Nat}

theorem State.MeetsNow.reduceArrive_eq (h : s.MeetsNow g (s.reduceExtents g)) :
    s.reduceArrive kind epoch g = s.takeReduce kind epoch g := by
  simp only [State.reduceArrive, h.meet_eq, if_true]

variable (hk : locKind g.address = kind)
include hk

/-- Another job's segment is counted and answered (R209). -/
theorem State.takeReduce_foreign (hj : g.job ≠ s.job ∨ s.job = 0) : s.takeReduce kind epoch g =
    (s.jobRejectAt (shardDie (locShard g.address)) g).answerAt (shardDie (locShard g.address)) 4 g (s.reduceStatus epoch g) [] [] := by
  unfold State.takeReduce
  dsimp only
  rw [if_neg (by omega), if_pos hj]

variable (hj : g.job = s.job) (h0 : s.job ≠ 0)
include hj h0

/-- A segment that fails a check is answered its status (R276). -/
theorem State.takeReduce_refused (hd : s.reduceStatus epoch g ≠ stDONE) : s.takeReduce kind epoch g =
    s.answerAt (shardDie (locShard g.address)) 4 g (s.reduceStatus epoch g) [] [] := by
  unfold State.takeReduce
  dsimp only
  rw [if_neg (by omega), if_neg (by tauto), if_pos hd]

variable (hd : s.reduceStatus epoch g = stDONE)
include hd

/-- A segment of a step that is not being reduced has no effect, but START and ABSENT of a step still to come are kept (R278, R284). -/
theorem State.takeReduce_otherStep (hl : s.red.launched ≠ some g.step) : s.takeReduce kind epoch g =
    (if (kind = 2 ∨ kind = 3) ∧ !s.isSealed g.step ∧ s.red.launched.getD 0 ≤ g.step then
      s.setRed fun r => { r with early := r.early ++ [(g.step, kind, g.address, g.srcDev, leNat (g.payload.take 1))] }
     else s).answerAt (shardDie (locShard g.address)) 4 g (if g.marks.any id then stPOISONED else stDONE) [] [] := by
  have hb : (s.red.launched == some g.step) = false := by simpa using hl
  unfold State.takeReduce
  dsimp only
  rw [if_neg (by omega), if_neg (by tauto), if_neg (by simp [hd]), if_neg hl, hk, hb, Bool.and_false, if_neg Bool.false_ne_true]

/-- A segment of the step being reduced takes effect on its shard and is answered (R276, R291). -/
theorem State.takeReduce_effect {br : BucketRun} {x : ShardRun} (hl : s.red.launched = some g.step)
    (hb : s.bucketRun (locBucket g.address) = some br) (hx : s.shardRun (locBucket g.address) (locShard g.address) = some x) :
    s.takeReduce kind epoch g = (s.reduceEffect kind g br x).reduceAck g := by
  unfold State.takeReduce
  dsimp only
  rw [if_neg (by omega), if_neg (by tauto), if_neg (by simp [hd]), if_pos hl, hb, hx]
  simp only [hl, beq_self_eq_true, Bool.and_true]
  rfl

end

/-- The effect of a REDUCE_PUT of one KIND, and its answer. -/
theorem State.Reduces.arrive_eq {s : State} {g : Segment} {kind epoch : Nat} {br : BucketRun} {x : ShardRun} (h : s.Reduces kind epoch g br x) :
    s.reduceArrive kind epoch g = (s.reduceEffect kind g br x).reduceAck g := by
  obtain ⟨hm, hk, hj, h0, hd, hl, hb, hx⟩ := h
  rw [hm.reduceArrive_eq, State.takeReduce_effect hk hj h0 hd hl hb hx]

/-- The shard and the bucket that a REDUCE_PUT names. -/
theorem State.Reduces.named {s : State} {g : Segment} {kind epoch : Nat} {br : BucketRun} {x : ShardRun} (h : s.Reduces kind epoch g br x) :
    br.bucket = locBucket g.address ∧ x.bucket = locBucket g.address ∧ x.shard = locShard g.address := by
  obtain ⟨-, -, -, -, -, -, hb, hx⟩ := h
  have h1 := List.find?_some hb
  have h2 := List.find?_some hx
  simp only [beq_iff_eq, Bool.and_eq_true] at h1 h2
  exact ⟨h1, h2⟩

/-! ### Shards and their nodes -/

/-- Where the elements that p finds are all replaced by a, which p finds too, a is found first. -/
theorem find?_map_replace {α : Type} (p : α → Bool) (f : α → α) (l : List α) (a : α) (h : ∃ x ∈ l, p x = true) (hf : ∀ x, p x = true → f x = a)
    (hn : ∀ x, p x = false → f x = x) (ha : p a = true) : (l.map f).find? p = some a := by
  induction l with
  | nil => simp at h
  | cons x l ih =>
    cases hx : p x with
    | true => simp [hf x hx, ha]
    | false =>
      rw [List.map_cons, hn x hx, List.find?_cons_of_neg (by simp [hx])]
      exact ih (by simpa [hx] using h)

/-- A shard's run reads back where the shard had one. -/
theorem State.shardRun_setShardRun (s : State) {b sh : Nat} {x y : ShardRun} (hx : s.shardRun b sh = some x) (hb : y.bucket = b)
    (hs : y.shard = sh) : (s.setShardRun y).shardRun b sh = some y := by
  subst hb hs
  have hp := List.find?_some hx
  refine find?_map_replace _ _ _ _ ⟨x, List.mem_of_find?_eq_some hx, hp⟩ (fun z hz => if_pos ?_) (fun z hz => if_neg ?_) (by simp)
  · simpa using hz
  · simpa using hz

/-- A node that is set reads back. -/
theorem ShardRun.node_setNode (x : ShardRun) (n m : RedNode) (h : n ∈ x.nodes) (hp : m.pos = n.pos) : (x.setNode m).node n.pos = some m :=
  find?_map_replace _ _ _ _ ⟨n, h, by simp⟩ (fun z hz => if_pos (by simpa [hp] using hz)) (fun z hz => if_neg (by simpa [hp] using hz)) (by simpa using hp)

/-- Sending one REDUCE_PUT leaves the shards as they are. -/
theorem State.redSend_red (s : State) (die dst kind b sh block : Nat) (data : List Byte) :
    (s.redSend die dst kind b sh block data).red.shards = s.red.shards := by
  have hi (t : State) (x : RedSent) : (t.redIssue x).red.shards = t.red.shards := by
    unfold State.redIssue
    exact Eq.trans (congrArg Reduction.shards ((State.remoteIssue_moves_no ..).same .red (by decide))) rfl
  unfold State.redSend State.redSendMarked
  split
  · rfl
  · dsimp only
    split
    · rfl
    · exact hi _ _

theorem State.shardRun_congr {s t : State} (h : t.red.shards = s.red.shards) (b sh : Nat) : t.shardRun b sh = s.shardRun b sh := by
  unfold State.shardRun; rw [h]

theorem State.shardRun_redSend (s : State) (die dst kind b sh block : Nat) (data : List Byte) (c k : Nat) :
    (s.redSend die dst kind b sh block data).shardRun c k = s.shardRun c k := State.shardRun_congr (s.redSend_red ..) c k

theorem State.shardRun_sendResult (s : State) (br : BucketRun) (x : ShardRun) (b : Nat) (r : BlockRec) (ds : List Nat) (c k : Nat) :
    (s.sendResult br x b r ds).shardRun c k = s.shardRun c k := by
  unfold State.sendResult
  dsimp only
  generalize r.bytes ++ _ = bs
  induction ds generalizing s with
  | nil => rfl
  | cons dev ds ih => rw [List.foldl_cons, ih, State.shardRun_redSend]

/-! ### START, ABSENT -/

section
variable {s : State} {br : BucketRun} {x : ShardRun} {n : RedNode} {dev : Nat}

/-- The node of a device is the first of its position. -/
theorem State.node_of_nodeOf (h : s.nodeOf br x dev false = some n) : x.node n.pos = some n := by
  obtain ⟨hp, as, bs, e, hbefore⟩ := List.find?_eq_some_iff_append.mp h
  refine List.find?_eq_some_iff_append.mpr ⟨by simp, as, bs, e, fun a ha => ?_⟩
  have hne := hbefore a ha
  simp only [Bool.false_eq_true, if_false] at hp hne
  by_contra hpos
  have hpos : a.pos = n.pos := by simpa using hpos
  rw [hpos, hp] at hne
  exact absurd hne (by decide)

/-- START sets the node of its sender, and GO goes out where the reservation is held (R278). -/
theorem State.takeStart_spec (hx : s.shardRun br.bucket x.shard = some x) (hb : x.bucket = br.bucket) (h : s.nodeOf br x dev false = some n)
    (hm : n.missing = false) :
    ∃ y m, (s.takeStart br x dev false).shardRun br.bucket x.shard = some y ∧ y.node n.pos = some m ∧ m.started = true ∧
      m.heldAbsent = false ∧ (x.admitted = true → m.goSent = true) := by
  let m : RedNode := { n with started := true, heldAbsent := false, goSent := false }
  have hn : n ∈ x.nodes := List.mem_of_find?_eq_some h
  have e : s.takeStart br x dev false = (s.setShardRun (x.setNode m)).sendGo br (x.setNode m) m := by
    unfold State.takeStart
    rw [h]
    exact (if_neg Bool.false_ne_true).trans (if_neg (by simp [hm]))
  have h1 : (s.setShardRun (x.setNode m)).shardRun br.bucket x.shard = some (x.setNode m) := State.shardRun_setShardRun s hx hb rfl
  rw [e, State.sendGo]
  split
  · next hg =>
    refine ⟨_, m, h1, x.node_setNode n m hn rfl, rfl, rfl, fun ha => ?_⟩
    rw [show m.missing = false from hm, show (x.setNode m).admitted = true from ha] at hg
    exact absurd hg Bool.false_ne_true
  · let k : RedNode := { m with goSent := true, lastAt := (s.setShardRun (x.setNode m)).fabricNow }
    refine ⟨(x.setNode m).setNode k, k, ?_, ?_, rfl, rfl, fun _ => rfl⟩
    · rw [State.redSendPos, State.shardRun_redSend]
      exact State.shardRun_setShardRun _ h1 hb rfl
    · refine ShardRun.node_setNode (x.setNode m) m k ?_ rfl
      exact List.mem_of_find?_eq_some (x.node_setNode n m hn rfl)

end

/-! ### A missing position is filled (R286) -/

/-- A rank is declared missing at position p of a shard. -/
def ShardRun.Missing (x : ShardRun) (p : Nat) : Prop := ∃ m, x.node p = some m ∧ m.missing = true

/-- Filling keeps the shards in place, the shard's names, and every position that is missing already. -/
structure FillKeeps (s : State) (x : ShardRun) (a : State × ShardRun) : Prop where
  shards : a.1.red.shards = s.red.shards
  bucket : a.2.bucket = x.bucket
  shard : a.2.shard = x.shard
  missing : ∀ p, x.Missing p → a.2.Missing p

theorem FillKeeps.refl (s : State) (x : ShardRun) : FillKeeps s x (s, x) := ⟨rfl, rfl, rfl, fun _ => id⟩

theorem FillKeeps.trans {s : State} {x : ShardRun} {a b : State × ShardRun} (h : FillKeeps s x a) (k : FillKeeps a.1 a.2 b) :
    FillKeeps s x b :=
  ⟨k.shards.trans h.shards, k.bucket.trans h.bucket, k.shard.trans h.shard, fun p hp => k.missing p (h.missing p hp)⟩

/-- A node that is set missing is missing, and so is every other that was. -/
theorem ShardRun.Missing.setNode {x : ShardRun} {p : Nat} (h : x.Missing p) {n : RedNode} (hn : n.missing = true) : (x.setNode n).Missing p := by
  obtain ⟨m, hm, hmiss⟩ := h
  have hpos : m.pos = p := by simpa using List.find?_some hm
  have hmem := List.mem_of_find?_eq_some hm
  by_cases hp : n.pos = p
  · refine ⟨n, ?_, hn⟩
    rw [← hpos]
    exact x.node_setNode m n hmem (hp.trans hpos.symm)
  · refine ⟨m, ?_, hmiss⟩
    have hpos' (k : RedNode) : ((if k.pos = n.pos then n else k).pos == p) = (k.pos == p) := by
      split
      · next e => rw [e]
      · rfl
    have hfix : (if m.pos = n.pos then n else m) = m := if_neg (by rw [hpos]; exact Ne.symm hp)
    show (x.nodes.map fun k => if k.pos = n.pos then n else k).find? (fun k => k.pos == p) = some m
    rw [List.find?_map, show (fun k : RedNode => k.pos == p) ∘ (fun k => if k.pos = n.pos then n else k) = fun k => k.pos == p from
      funext hpos', show x.nodes.find? (fun k => k.pos == p) = some m from hm, Option.map_some, hfix]

theorem ShardRun.Missing.append {x y : ShardRun} {p : Nat} (h : x.Missing p) (l : List RedNode) (hy : y.nodes = x.nodes ++ l) : y.Missing p := by
  obtain ⟨m, hm, hmiss⟩ := h
  refine ⟨m, ?_, hmiss⟩
  unfold ShardRun.node at *
  rw [hy, List.find?_append, hm]; rfl

theorem FillKeeps.foldl {F : State × ShardRun → Nat → State × ShardRun} (h : ∀ a q, FillKeeps a.1 a.2 (F a q)) (l : List Nat)
    (a : State × ShardRun) : FillKeeps a.1 a.2 (l.foldl F a) := by
  induction l generalizing a with
  | nil => exact .refl ..
  | cons q l ih => exact (h a q).trans (ih _)

/-- A position that is filled has its node set missing, and its children's nodes added. -/
theorem State.fillMissing_keeps (br : BucketRun) (fuel : Nat) : ∀ (s : State) (x : ShardRun) (o : Option Nat) (p : Nat),
    FillKeeps s x (s.fillMissing br x o fuel p) ∧
    (fuel ≠ 0 → (x.node p).isSome = true → (s.fillMissing br x o fuel p).2.Missing p) := by
  induction fuel with
  | zero => exact fun s x o p => ⟨.refl s x, fun h => absurd rfl h⟩
  | succ fuel ih =>
    intro s x o p
    let n : RedNode := { (x.node p).getD (RedNode.fresh p) with missing := true, ownFrom := o, blocks := [], lastAt := s.fabricNow }
    obtain ⟨s1, hs1, F, hF, e⟩ : ∃ s1 : State, s1.red.shards = s.red.shards ∧ ∃ F : State × ShardRun → Nat → State × ShardRun,
        (∀ a q, FillKeeps a.1 a.2 (F a q)) ∧
        s.fillMissing br x o (fuel + 1) p = (heapChildren (s.groupN br.cfg.group) p).foldl F (s1, x.setNode n) := by
      refine ⟨_, ?_, _, fun a q => ?_, rfl⟩
      · split
        · split
          · rfl
          · exact State.redSend_red ..
        · rfl
      · split
        · exact .refl ..
        · let y : ShardRun := { a.2 with
            nodes := a.2.nodes ++ [{ RedNode.fresh q with started := true, goSent := true, lastAt := s.fabricNow }] }
          have hy : FillKeeps a.1 a.2 (a.1, y) := ⟨rfl, rfl, rfl, fun p hp => hp.append _ rfl⟩
          split
          · refine hy.trans ⟨?_, rfl, rfl, fun _ => id⟩
            dsimp only
            split
            · rfl
            · exact State.redSend_red ..
          · exact hy.trans (ih a.1 y _ q).1
    have hfold := FillKeeps.foldl hF (heapChildren (s.groupN br.cfg.group) p) (s1, x.setNode n)
    have hset : FillKeeps s x (s1, x.setNode n) := ⟨hs1, rfl, rfl, fun p hp => hp.setNode rfl⟩
    rw [e]
    refine ⟨hset.trans hfold, fun _ hsome => hfold.missing p ?_⟩
    obtain ⟨k, hk⟩ := Option.isSome_iff_exists.mp hsome
    have hpos : k.pos = p := by simpa using List.find?_some hk
    have hnp : n.pos = p := by simp only [n, hk, Option.getD_some, hpos]
    exact ⟨n, by rw [← hpos]; exact x.node_setNode k n (List.mem_of_find?_eq_some hk) (hnp.trans hpos.symm), rfl⟩

section
variable {s : State} {br : BucketRun} {x : ShardRun} {n : RedNode} {dev : Nat}

/-- A position that is filled stays missing in the shard's run, whatever result blocks go out from here. -/
theorem State.fillAt_spec (hx : s.shardRun br.bucket x.shard = some x) (hb : x.bucket = br.bucket) (o : Option Nat) {p : Nat}
    (hp : (x.node p).isSome = true) : ∃ y, (s.fillAt br x o p).shardRun br.bucket x.shard = some y ∧ y.Missing p := by
  obtain ⟨hk, hm⟩ := s.fillMissing_keeps br 16 x o p
  refine ⟨(s.fillMissing br x o 16 p).2, ?_, hm (by decide) hp⟩
  have h1 : (s.fillMissing br x o 16 p).1.shardRun br.bucket x.shard = some x := (State.shardRun_congr hk.shards ..).trans hx
  have h2 := State.shardRun_setShardRun _ h1 (hk.bucket.trans hb) hk.shard
  unfold State.fillAt
  dsimp only
  refine Eq.trans ?_ h2
  generalize List.filter _ _ = new
  generalize (s.fillMissing br x o 16 p).1.setShardRun (s.fillMissing br x o 16 p).2 = u
  induction List.range x.nextResult generalizing u with
  | nil => rfl
  | cons b l ih =>
    rw [List.foldl_cons, ih]
    split
    · exact State.shardRun_sendResult ..
    · rfl

/-- ABSENT of a present child, not held, has its position filled (R284, R286). -/
theorem State.takeAbsent_spec {code : Nat} (hx : s.shardRun br.bucket x.shard = some x) (hb : x.bucket = br.bucket)
    (hown : x.nodes.find? (fun m => m.missing && m.ownFrom == some dev) = none) (hroot : x.pos = 0 ∨ s.posDevice br.cfg.group x.shard 0 ≠ dev)
    (h : s.nodeOf br x dev false = some n) (hm : n.missing = false)
    (hc : code = 1 ∨ s.straggler br.cfg.group ≠ 0 ∧ code ≠ 2) :
    ∃ y m, (s.takeAbsent br x dev code).shardRun br.bucket x.shard = some y ∧ y.node n.pos = some m ∧ m.missing = true := by
  have hnode := State.node_of_nodeOf h
  have hheld : (s.straggler br.cfg.group == 0 && code != 1) = false := by
    rcases hc with rfl | ⟨h, -⟩
    · simp
    · simp [h]
  have e : s.takeAbsent br x dev code = s.declareMissing br x n.pos := by
    unfold State.takeAbsent
    dsimp only
    rw [if_neg (by omega), hown, hheld]
    dsimp only
    rw [if_neg (by tauto), h]
    exact (if_neg (by simp [hm])).trans (if_neg Bool.false_ne_true)
  obtain ⟨y, hy, m, hm', hmiss⟩ := State.fillAt_spec hx hb
    (if (n.backup || heapParent n.pos != x.pos) then s.backupAt br.cfg.group x.shard n.pos else none) (p := n.pos) (by rw [hnode]; rfl)
  refine ⟨y, m, ?_, hm', hmiss⟩
  rw [e, ← hy]
  unfold State.declareMissing
  rw [hnode]
  exact congrArg (State.shardRun · br.bucket x.shard) (if_neg (by simp [hm]))

end

/-! ### GO, RESEND, OWN_REQ -/

section
variable {s : State} {g : Segment} {br : BucketRun} {x : ShardRun}

theorem State.addLeaf_of_nodes (y : ShardRun) (h : y.nodes ≠ []) : s.addLeaf br y = s := if_neg (by simpa using h)

/-- GO of the parent, before anything is folded, opens the shard (R278). -/
theorem State.onGo_eq (hp : x.pos ≠ 0) (hs : x.status = none) (hd : s.posDevice br.cfg.group x.shard (heapParent x.pos) = g.srcDev)
    (hn : x.next = 0) (hc : x.nodes ≠ []) : s.onGo g br x = s.setShardRun { x with goGot := true } := by
  unfold State.onGo
  rw [if_neg (by simp [hp, hs, hd]), hn]
  exact State.addLeaf_of_nodes _ hc

/-- A RESEND for what is not folded yet is kept (R283). -/
theorem State.onResend_eq (hr : (s.resultTargets br x).contains g.srcDev = false) (hn : x.next = 0) (hc : x.nodes ≠ []) :
    s.onResend g br x = s.setShardRun { x with
      asked := x.asked ++ [(g.srcDev, locBlock g.address, min (blockCount g.payload) (br.cfg.blocks - locBlock g.address))] } := by
  have hf (l : List Nat) (y : ShardRun) (u : State) :
      l.foldl (fun v b => if b < x.next then v.sendOutput br y b g.srcDev else v) u = u := by
    rw [hn]
    exact List.foldl_fixed' (fun b => if_neg (Nat.not_lt_zero b)) l
  unfold State.onResend
  dsimp only
  rw [hr, if_neg Bool.false_ne_true, hf]
  exact State.addLeaf_of_nodes _ hc

theorem blockCount_pos (bs : List Byte) : 0 < blockCount bs := by
  unfold blockCount
  dsimp only
  split <;> omega

theorem blockCount_eq {bs : List Byte} {n : Nat} (h : leNat (bs.take 2) = n) (hn : n ≠ 0) : blockCount bs = n := by
  simp [blockCount, h, hn]

/-- A rank that cannot form a block asked for withholds its contribution (R286, R288). -/
theorem State.onOwnReq_none (hx : s.shardRun br.bucket x.shard = some x) (hb : x.bucket = br.bucket)
    (h : s.ownBlock br x.shard (locBlock g.address) = none) (hl : locBlock g.address < br.cfg.blocks) :
    ∃ y, (s.onOwnReq g br x).shardRun br.bucket x.shard = some y ∧ y.withheld = some .poison := by
  have hpos := blockCount_pos g.payload
  have hmem : locBlock g.address ∈ rangeFrom (locBlock g.address) (min (blockCount g.payload) (br.cfg.blocks - locBlock g.address)) := by
    simp only [rangeFrom, List.mem_map, List.mem_range]
    exact ⟨0, by omega, by omega⟩
  refine ⟨{ x with withheld := some .poison }, ?_, rfl⟩
  unfold State.onOwnReq
  dsimp only
  rw [if_pos (List.any_eq_true.mpr ⟨_, hmem, by rw [h]; rfl⟩), State.shardRun_redSend]
  exact State.shardRun_setShardRun s hx hb rfl

/-- One block that is asked for goes out, with its flags (R286, R288). -/
theorem State.onOwnReq_one {o : BlockRec × Nat × Nat × Bool} (h1 : leNat (g.payload.take 2) = 1)
    (h : s.ownBlock br x.shard (locBlock g.address) = some o) (hnan : o.2.2.2 = false) (hl : locBlock g.address + 1 < br.cfg.blocks) :
    s.onOwnReq g br x = (s.orFlags DIE_ENGINE_FLAGS_RED (shardDie x.shard) 0 br.cfg.group 2 o.2.1).redSend
      (shardDie x.shard) g.srcDev 7 br.bucket x.shard (locBlock g.address) o.1.bytes := by
  have hr : rangeFrom (locBlock g.address) (min (blockCount g.payload) (br.cfg.blocks - locBlock g.address)) = [locBlock g.address] := by
    rw [blockCount_eq h1 one_ne_zero, Nat.min_eq_left (by omega)]; rfl
  unfold State.onOwnReq
  dsimp only
  rw [hr, if_neg (by simp [h]), List.foldl_cons, List.foldl_nil, h]
  dsimp only
  rw [hnan, if_neg Bool.false_ne_true, if_neg (by omega)]

end

/-- What a REDUCE_PUT of one KIND does to its shard, under its command. -/
theorem State.Reduces.exec_eq {s : State} {g : Segment} {kind : Nat} {cmd : Fin 65536 → Segment → Instr} {due : Bool} {epoch : Fin 65536}
    {br : BucketRun} {x : ShardRun} (h : s.Reduces kind epoch g br x) (hrow : (kind, cmd, due) ∈ reduceCommands) :
    exec (cmd epoch g) s = .next (if due then ((s.reduceEffect kind g br x).reduceAck g).afterWork
      else (s.reduceEffect kind g br x).reduceAck g) := by
  rw [exec_reduceCommands hrow, h.arrive_eq]

/-- Settles O31: the refusals are the checks of a REDUCE_PUT in their order; the control packets are its effects by KIND. -/
theorem reductionControl : Obligations.ReductionControl := by
  refine ⟨fun row hrow epoch g s hk => ?_, fun epoch g s br x => ?_⟩
  · intro due d answer plain hm
    have e : exec (row.2.1 epoch g) s = .next (due (s.takeReduce row.1 epoch g)) := by
      rw [exec_reduceCommands hrow, hm.reduceArrive_eq]
    refine ⟨fun hj => ?_, fun hj h0 hd => ?_, fun hj h0 hd hl => ⟨fun hs => ?_, fun hr hs hle => ?_⟩⟩
    · rw [State.takeReduce_foreign hk hj] at e
      refine ⟨_, e, ?_, ?_, s.jobRejectAt_count d g, s.jobRejectAt_answer_out d 4 g _⟩
      · exact (s.jobRejectAt_moves d g).same .red (by decide)
      · exact (s.jobRejectAt_moves d g).same .mem (by decide)
    · rw [State.takeReduce_refused hk hj h0 hd] at e
      exact ⟨_, e, rfl, rfl, rfl, rfl⟩
    · rw [e, State.takeReduce_otherStep hk hj h0 hd hl, if_neg]
      rintro ⟨hr, hsealed, hle⟩
      rcases hs hr with h | h
      · simp [h] at hsealed
      · omega
    · rw [e, State.takeReduce_otherStep hk hj h0 hd hl, if_pos ⟨hr, by simp [hs], hle⟩]
  · have shard {kind : Nat} (h : s.Reduces kind epoch g br x) : s.shardRun br.bucket x.shard = some x ∧ x.bucket = br.bucket := by
      obtain ⟨hb, hxb, hxs⟩ := h.named
      obtain ⟨-, -, -, -, -, -, -, hx⟩ := h
      exact ⟨by rw [hb, hxs]; exact hx, hxb.trans hb.symm⟩
    refine ⟨fun n h hn hm hb => ?_, fun n h hown hroot hn hm => ⟨fun hc => ?_, fun hw h1 h2 => ?_, fun hc => ?_⟩, fun h hp hs hd hn hc => ?_,
      fun h hr hn hc => ?_, fun h ho hl => ?_, fun o h h1 ho hnan hl => ?_, fun h hw hs => ?_,
      fun h => ⟨fun hs => ?_, fun hs hr => ?_, fun hs hr => ?_⟩⟩
    · obtain ⟨hx, hxb⟩ := shard h
      have e := h.exec_eq (due := false) (cmd := .start) (by simp [reduceCommands])
      refine ⟨s.takeStart br x g.srcDev false, ?_, State.takeStart_spec hx hxb hn hm⟩
      rw [e]
      have hb' : (leNat (g.payload.take 1) % 2 == 1) = false := by simp [hb]
      simp only [State.reduceEffect, State.onStart, hb']
      rfl
    · rw [h.exec_eq (due := true) (cmd := .absent) (by simp [reduceCommands])]
      simp only [State.reduceEffect, State.onAbsent, State.takeAbsent, hc, if_true]
    · rw [h.exec_eq (due := true) (cmd := .absent) (by simp [reduceCommands])]
      have hheld : (s.straggler br.cfg.group == 0 && leNat (g.payload.take 1) != 1) = true := by simp [hw, h1]
      have hr : ¬(x.pos ≠ 0 ∧ s.posDevice br.cfg.group x.shard 0 = g.srcDev) := by tauto
      simp only [State.reduceEffect, State.onAbsent, State.takeAbsent, hheld, h2, hown, hr, hn, hm, if_true, if_false, Bool.false_eq_true]
    · obtain ⟨hx, hxb⟩ := shard h
      refine ⟨s.takeAbsent br x g.srcDev (leNat (g.payload.take 1)), ?_, State.takeAbsent_spec hx hxb hown hroot hn hm hc⟩
      exact (h.exec_eq (due := true) (cmd := .absent) (by simp [reduceCommands])).trans (congrArg _ (if_pos rfl))
    · rw [h.exec_eq (due := true) (cmd := .go) (by simp [reduceCommands])]
      simp only [State.reduceEffect, State.onGo_eq hp hs hd hn hc, if_true]
    · rw [h.exec_eq (due := true) (cmd := .resend) (by simp [reduceCommands])]
      simp only [State.reduceEffect, State.onResend_eq hr hn hc, if_true]
    · obtain ⟨hx, hxb⟩ := shard h
      exact ⟨s.onOwnReq g br x, (h.exec_eq (due := true) (cmd := .ownReq) (by simp [reduceCommands])).trans (congrArg _ (if_pos rfl)),
        State.onOwnReq_none hx hxb ho hl⟩
    · rw [h.exec_eq (due := true) (cmd := .ownReq) (by simp [reduceCommands])]
      simp only [State.reduceEffect, State.onOwnReq_one h1 ho hnan hl, if_true]
    · rw [h.exec_eq (due := false) (cmd := .bypassed) (by simp [reduceCommands])]
      simp [State.reduceEffect, State.onBypassed, hw, hs]
    · rw [h.exec_eq (due := false) (cmd := .fetchReq) (by simp [reduceCommands])]
      simp [State.reduceEffect, State.onFetch, hs]
    · rw [h.exec_eq (due := false) (cmd := .fetchReq) (by simp [reduceCommands])]
      simp [State.reduceEffect, State.onFetch, Option.isSome_iff_ne_none.mpr hs, hr]
    · rw [h.exec_eq (due := false) (cmd := .fetchReq) (by simp [reduceCommands])]
      simp [State.reduceEffect, State.onFetch, Option.isSome_iff_ne_none.mpr hs, hr]

end Sys2Proof.Machine
end

