-- ==== Sys2Proof/Proofs/TraverseAssign.lean ====
section
/-!
PROOFS. The assignment of a DISPATCH: every choice of every token is put into a packet or counted as dropped (R377).
-/
namespace Sys2Proof.Machine

open Sys2Proof

theorem TravAssign.count_push (a : TravAssign) (r : TravRec) (e : Nat) :
    (a.push r).count e = a.count e + if e = r.expert then 1 else 0 := by
  unfold TravAssign.count TravAssign.push kmodify
  rw [kget_kset]
  split
  · next h => rw [h, List.length_append]; rfl
  · rfl

/-- The choices that an assignment has settled, for the experts of a list. -/
def TravAssign.settled (a : TravAssign) (experts : List Nat) : Nat :=
  (experts.map a.count).sum + a.dropSource + a.dropUnmapped

theorem TravAssign.settled_unmapped (a : TravAssign) (l : List Nat) :
    TravAssign.settled { a with dropUnmapped := a.dropUnmapped + 1 } l = a.settled l + 1 := rfl

theorem TravAssign.settled_dropped (a : TravAssign) (l : List Nat) :
    TravAssign.settled { a with dropSource := a.dropSource + 1 } l = a.settled l + 1 := by
  show (l.map a.count).sum + (a.dropSource + 1) + a.dropUnmapped = (l.map a.count).sum + a.dropSource + a.dropUnmapped + 1
  omega

/-- A record put into the packet of an expert of the list settles one choice. -/
theorem TravAssign.settled_push (a : TravAssign) (r : TravRec) {l : List Nat} (hn : l.Nodup) (he : r.expert ∈ l) :
    (a.push r).settled l = a.settled l + 1 := by
  have hits : ∀ l : List Nat, (l.map fun e => if e = r.expert then 1 else 0).sum = l.count r.expert := fun l => by
    induction l with
    | nil => rfl
    | cons e l ih =>
      rw [List.map_cons, List.sum_cons, List.count_cons, ih, add_comm]
      simp only [beq_iff_eq]
  have sum : (l.map (a.push r).count).sum = (l.map a.count).sum + 1 := by
    simp only [funext (a.count_push r), List.sum_map_add, hits, List.count_eq_one_of_mem hn he]
  show (l.map (a.push r).count).sum + a.dropSource + a.dropUnmapped = (l.map a.count).sum + a.dropSource + a.dropUnmapped + 1
  omega

/-- One choice of a token that no mask leaves out settles one choice more (R377). -/
theorem State.travChoice_settled (s : State) (x : TravDesc) {experts : List Nat} (hn : experts.Nodup) (hm : x.flags.testBit 2 = false)
    (reroute : Bool) (mask t : Nat) (st : TravAssign × List Nat) (r : Nat) :
    (s.travChoice x experts reroute mask t st r).1.settled experts = st.1.settled experts + 1 := by
  unfold State.travChoice
  dsimp only
  rw [if_neg (by simp [hm])]
  split
  · exact st.1.settled_unmapped experts
  · next hc =>
    have hmem : (s.travRoute x t r).1 ∈ experts := by simpa using hc
    split
    · split
      · exact st.1.settled_dropped experts
      · next j hj =>
        have hfree := List.find?_some hj
        simp only [Bool.and_eq_true, List.contains_iff_mem] at hfree
        exact st.1.settled_push ⟨t, r, (s.travRoute x t j).1, (s.travRoute x t j).2, true⟩ hn hfree.1.2
    · split
      · exact st.1.settled_dropped experts
      · exact st.1.settled_push ⟨t, r, (s.travRoute x t r).1, (s.travRoute x t r).2, false⟩ hn hmem

/-- A fold whose every step adds c to a count adds c for each element. -/
theorem foldl_count {α β : Type} (f : α → β → α) (m : α → Nat) (c : Nat) (h : ∀ a b, m (f a b) = m a + c) (l : List β) (a : α) :
    m (l.foldl f a) = m a + l.length * c := by
  induction l generalizing a with
  | nil => simp
  | cons b l ih => rw [List.foldl_cons, ih, h, List.length_cons]; ring

/-- Every choice of every token is sent or counted as dropped (R377). -/
theorem State.travAssign_settled (s : State) (x : TravDesc) (hn : (s.travList x).Nodup) (hm : x.flags.testBit 2 = false) :
    (s.travAssign x).settled (s.travList x) = x.tokens * x.k := by
  have token (a : TravAssign) (t : Nat) : ((List.range x.k).foldl (s.travChoice x (s.travList x) (TRAV_EXPERT_OVERFLOW.get x.expert == 1)
      (s.readN (x.mask + t) 1) t) (a, [])).1.settled (s.travList x) = a.settled (s.travList x) + x.k := by
    have := foldl_count _ (fun st : TravAssign × List Nat => st.1.settled (s.travList x)) 1
      (fun st r => s.travChoice_settled x hn hm (TRAV_EXPERT_OVERFLOW.get x.expert == 1) (s.readN (x.mask + t) 1) t st r)
      (List.range x.k) (a, [])
    simpa using this
  have := foldl_count _ (fun a : TravAssign => a.settled (s.travList x)) x.k token (List.range x.tokens) ⟨[], 0, 0, 0⟩
  have h0 : TravAssign.settled ⟨[], 0, 0, 0⟩ (s.travList x) = 0 := by
    have hc : TravAssign.count ⟨[], 0, 0, 0⟩ = fun _ => 0 := rfl
    simp [TravAssign.settled, hc]
  rw [h0, List.length_range, Nat.zero_add] at this
  exact this

end Sys2Proof.Machine
end

