-- ==== Sys2Proof/Proofs/TraverseSend.lean ====
section
/-!
PROOFS. What the sending of dispatch packets leaves alone: the ring's tail, the batches, memory's errors (R376, R379).
-/
namespace Sys2Proof.Machine

open Sys2Proof

/-- Errors stand in Talus and in the cores alone. -/
theorem State.NoErrs.of_eq {s t : State} (ht : t.talusCtl = s.talusCtl) (hc : t.cores = s.cores) (hs : s.NoErrs) : t.NoErrs := by
  refine ⟨?_, fun k => ?_⟩
  · rw [State.quiet, ht]; exact hs.1
  · rw [State.core, hc]; exact hs.2 k

/-- What the ENQUEUE of a dispatch packet leaves alone: the tail of the ring, the traverse engines, and the errors that stand. -/
structure SendKeeps (s t : State) : Prop where
  tail : ∀ d, t.getF TRAV_TAIL_TAIL d 0 = s.getF TRAV_TAIL_TAIL d 0
  traverses : t.traverses = s.traverses
  cores : t.cores = s.cores
  talus : t.talusCtl = s.talusCtl

namespace SendKeeps
variable {s t u : State}

theorem refl (s : State) : SendKeeps s s := ⟨fun _ => rfl, rfl, rfl, rfl⟩

theorem trans (h : SendKeeps s t) (k : SendKeeps t u) : SendKeeps s u :=
  ⟨fun d => (k.tail d).trans (h.tail d), k.traverses.trans h.traverses, k.cores.trans h.cores, k.talus.trans h.talus⟩

theorem noErrs (h : SendKeeps s t) (hs : s.NoErrs) : t.NoErrs := hs.of_eq h.talus h.cores

theorem traverse (h : SendKeeps s t) (d : Nat) : t.traverse d = s.traverse d := by
  unfold State.traverse; rw [h.traverses]

/-- A field of a register at another place of the die regions is set. -/
theorem setF (s : State) (f : Fld) (d i x : Nat) (h : ∀ e, TRAV_TAIL.addr e 0 ≠ f.reg.addr d i) : SendKeeps s (s.setF f d i x) :=
  ⟨fun e => State.getF_setF_ne _ _ _ _ _ _ _ _ (h e), rfl, rfl, rfl⟩

theorem setTracker (s : State) (d : Nat) (t : Tracker) : SendKeeps s (s.setTracker d t) := ⟨fun _ => rfl, rfl, rfl, rfl⟩

theorem updEntry (s : State) (d id : Nat) (f : TrackEntry → TrackEntry) : SendKeeps s (s.updEntry d id f) := setTracker ..

theorem park (s : State) (ext : List (Nat × Nat × Bool)) (x : Arrival) : SendKeeps s (s.park ext x) := ⟨fun _ => rfl, rfl, rfl, rfl⟩

theorem setEntries (s : State) (d : Nat) (es : List TrackEntry) : SendKeeps s (s.setEntries d es) := by
  have h (f : Fld) (hf : f.reg = TRACKER_STATUS) (e : Nat) : TRAV_TAIL.addr e 0 ≠ f.reg.addr d 0 := by
    rw [hf]; simp [Reg.addr, TRAV_TAIL, TRACKER_STATUS]; omega
  exact ((setTracker s d _).trans (setF _ _ _ _ _ (h _ rfl))).trans (setF _ _ _ _ _ (h _ rfl))

end SendKeeps

/-- The entries of a tracker once they are set. -/
theorem State.tracker_setEntries (s : State) (d : Nat) (es : List TrackEntry) :
    (s.setEntries d es).tracker d = { s.tracker d with entries := es } := kget_kset_same ..

/-- The entry number that a new operation takes is free while the tracker has room (R186). -/
theorem Tracker.freeId_free (t : Tracker) (step : Nat) (h : t.entries.length < 4096) : ∀ e ∈ t.entries, e.id ≠ t.freeId step := by
  obtain ⟨i, hi, hfree⟩ : ∃ i ∈ List.range 4096, i ∉ t.entries.map (·.id) := by
    by_contra hall
    push Not at hall
    have := (List.nodup_range.subperm hall).length_le
    rw [List.length_range, List.length_map] at this
    omega
  unfold Tracker.freeId
  cases h1 : (List.range 4096).find? (t.idFree step) with
  | some k =>
    have hk := List.find?_some h1
    simp only [Tracker.idFree, Bool.and_eq_true, List.all_eq_true, bne_iff_ne] at hk
    exact hk.1
  | none =>
    cases h2 : (List.range 4096).find? fun i => t.entries.all fun e => e.id != i with
    | some k =>
      have hk := List.find?_some h2
      simpa using hk
    | none =>
      have := List.find?_eq_none.mp h2 i hi
      simp only [List.all_eq_true, bne_iff_ne] at this
      exact absurd (fun e he heq => hfree (List.mem_map.mpr ⟨e, he, heq⟩)) this

section
variable {s : State} {d : Nat} {e : TrackEntry} {n : Nat}

/-- The operation of a dispatch packet ends at its tracker (R213, R379). -/
theorem State.finish_keeps {id : Nat} (he : (s.tracker d).entries.find? (fun x => x.id == id) = some e) (hw : e.req.who = .traverse n)
    (st : Nat) (data : List Byte) : SendKeeps s (s.finish d id st data) := by
  unfold State.finish
  rw [he]
  dsimp only
  unfold State.deliver
  rw [hw]
  have h1 : SendKeeps s (s.unpark d id) := ⟨fun _ => rfl, rfl, rfl, rfl⟩
  exact (h1.trans (.setEntries ..)).trans (.setTracker ..)

theorem State.sendPacket_keeps (s : State) (kind : MsgKind) (d : Nat) (h : Header) (data : List Byte) (marks : List Bool) :
    SendKeeps s (s.sendPacket kind d h data marks) := ⟨fun _ => rfl, rfl, rfl, rfl⟩

/-- The reservation of a dispatch packet is listed, answered or sent (R362). -/
theorem State.sendReservation_keeps (he : (s.tracker d).entries.find? (fun x => x.id == e.id) = some e) (hw : e.req.who = .traverse n) :
    SendKeeps s (s.sendReservation d e) := by
  unfold State.sendReservation
  dsimp only
  split
  · split
    · next qd q off hp =>
      cases hr : s.reserve qd ⟨q, s.device, d, e.req.cls, e.id, e.req.step, e.req.len / 64, true, s.reg COULOIR_EXPERT qd 0⟩ with
      | listed t =>
        have ht : SendKeeps s t := by
          unfold State.reserve at hr
          split_ifs at hr
          cases hr
          exact ⟨fun _ => rfl, rfl, rfl, rfl⟩
        exact ht.trans (.updEntry ..)
      | status c => exact State.finish_keeps he hw ..
      | refused t =>
        have ht : SendKeeps s t := by
          unfold State.reserve at hr
          split_ifs at hr
          cases hr
          exact .setF _ _ _ _ _ fun e => by simp [Reg.addr, TRAV_TAIL, RES_REFUSED_COUNT, RES_REFUSED]; omega
        exact ht.trans (.updEntry ..)
    · exact State.finish_keeps he hw ..
  · exact (SendKeeps.updEntry ..).trans (State.sendPacket_keeps ..)

/-- The ENQUEUE of a dispatch packet that no FENCE holds back is sent or waits. -/
theorem State.sendEntry_keeps (he : (s.tracker d).entries.find? (fun x => x.id == e.id) = some e) (hw : e.req.who = .traverse n)
    (hk : e.req.kind = .enqueue) (fire : FireFn) : SendKeeps s (s.sendEntry fire d e) := by
  unfold State.sendEntry
  dsimp only
  rw [if_pos hk]
  split
  · exact State.finish_keeps he hw ..
  · split
    · exact (SendKeeps.updEntry ..).trans (.park ..)
    · split
      · exact .updEntry ..
      · exact State.sendReservation_keeps he hw

end

section
variable (s : State) (d : Nat) {r : RemReq} {n : Nat} (hw : r.who = .traverse n) (hk : r.kind = .enqueue) (fire : FireFn)
include hw hk

theorem State.admitRemote_keeps (h : (s.tracker d).entries.length < 4096) : SendKeeps s (s.admitRemote fire d r) := by
  unfold State.admitRemote
  dsimp only
  have hc : r.who.isCore = false := by rw [hw]; rfl
  rw [hc, Bool.false_and, if_neg Bool.false_ne_true, if_neg Bool.false_ne_true]
  refine ((SendKeeps.setTracker ..).trans (.setEntries ..)).trans (State.sendEntry_keeps (n := n) ?_ hw hk fire)
  rw [State.tracker_setEntries]
  have hfree := (s.tracker d).freeId_free r.step h
  dsimp only
  rw [List.find?_append, List.find?_eq_none.mpr fun e he => by simpa using hfree e he]
  simp

/-- A dispatch packet asks the tracker for an entry (R187). -/
theorem State.remoteIssue_keeps : SendKeeps s (s.remoteIssue fire d r) := by
  unfold State.remoteIssue
  dsimp only
  split
  · next h =>
    have hlen : (s.tracker d).entries.length < s.trackerRoom d := by simp at h; exact h.2
    exact s.admitRemote_keeps d hw hk fire (by unfold State.trackerRoom at hlen; omega)
  · exact .setTracker ..

end

/-! ### Dispatch packets -/

theorem State.look_keeps {s : State} (hs : s.NoErrs) (d unit a n : Nat) : SendKeeps s (s.look d unit a n) := by
  unfold State.look
  split
  · exact ⟨fun _ => rfl, rfl, rfl, rfl⟩
  · exact .refl s
  · rw [hs.meetErrs_eq]; exact .refl s

/-- The next operation number of a die's traverse engine, and nothing else of it, moves on with a packet. -/
structure PacketKeeps (s t : State) : Prop where
  tail : ∀ d, t.getF TRAV_TAIL_TAIL d 0 = s.getF TRAV_TAIL_TAIL d 0
  batches : ∀ d, (t.traverse d).batches = (s.traverse d).batches
  errs : s.NoErrs → t.NoErrs

theorem SendKeeps.packet {s t : State} (h : SendKeeps s t) : PacketKeeps s t :=
  ⟨h.tail, fun d => by rw [h.traverse d], h.noErrs⟩

theorem PacketKeeps.trans {s t u : State} (h : PacketKeeps s t) (k : PacketKeeps t u) : PacketKeeps s u :=
  ⟨fun d => (k.tail d).trans (h.tail d), fun d => (k.batches d).trans (h.batches d), fun hs => k.errs (h.errs hs)⟩

section
variable (s : State) (d : Nat) (t : Traverse)

theorem State.setTraverse_traverses : (s.setTraverse d t).traverses = kset Traverse.zero s.traverses d t := by
  unfold State.setTraverse
  rw [State.setF_traverses, State.setF_traverses]

@[simp] theorem State.traverse_setTraverse : (s.setTraverse d t).traverse d = t := by
  rw [State.traverse, State.setTraverse_traverses, kget_kset_same]

theorem State.traverse_setTraverse_ne {e : Nat} (h : e ≠ d) : (s.setTraverse d t).traverse e = s.traverse e := by
  rw [State.traverse, State.setTraverse_traverses, kget_kset_ne _ _ h]; rfl

theorem State.setTraverse_noErrs (hs : s.NoErrs) : (s.setTraverse d t).NoErrs := by
  have ht : (s.setTraverse d t).talusCtl = s.talusCtl := by
    unfold State.setTraverse
    rw [State.setF_talusCtl, State.setF_talusCtl]
  have hc : (s.setTraverse d t).cores = s.cores := by
    unfold State.setTraverse
    rw [State.setF_cores, State.setF_cores]
  exact hs.of_eq ht hc

end

/-- OPEN and IN_PROGRESS stand beside the tail in its register (Table 14.10). -/
theorem State.setTraverse_tail (s : State) (d e : Nat) (t : Traverse) :
    (s.setTraverse d t).getF TRAV_TAIL_TAIL e 0 = s.getF TRAV_TAIL_TAIL e 0 := by
  have beside (u : State) (f : Fld) (x : Nat) (hr : TRAV_TAIL_TAIL.reg = f.reg) (hf : f.fits = true) (ha : f.apart TRAV_TAIL_TAIL = true) :
      (u.setF f d 0 x).getF TRAV_TAIL_TAIL e 0 = u.getF TRAV_TAIL_TAIL e 0 := by
    by_cases he : e = d
    · subst he
      exact u.getF_setF_apart f TRAV_TAIL_TAIL _ _ _ hr hf rfl ha
    · exact u.getF_setF_ne _ _ _ _ _ _ _ (by rw [← hr]; simp [Reg.addr, TRAV_TAIL_TAIL, TRAV_TAIL]; omega)
  unfold State.setTraverse
  dsimp only
  rw [beside _ TRAV_TAIL_IN_PROGRESS _ rfl rfl rfl, beside _ TRAV_TAIL_OPEN _ rfl rfl rfl]
  rfl

theorem State.setTraverse_packet (s : State) (d : Nat) {t : Traverse} (h : t.batches = (s.traverse d).batches) :
    PacketKeeps s (s.setTraverse d t) := by
  refine ⟨fun e => State.setTraverse_tail .., fun e => ?_, s.setTraverse_noErrs d t⟩
  by_cases he : e = d
  · subst he
    rw [State.traverse_setTraverse, h]
  · rw [s.traverse_setTraverse_ne d t he]

/-- Where a tracker entry is free, a dispatch packet goes to the place that its expert has now, with the records it was formed with. -/
theorem State.travBegin_spec (s : State) (d : Nat) {r : RemReq} {n : Nat} (hw : r.who = .traverse n) (hk : r.kind = .enqueue) (k : TravPacket)
    (place : Option (Nat × Nat × Nat × Bool)) :
    SendKeeps s (s.travBegin d r k place).1 ∧ (s.travBegin d r k place).2.expert = k.expert ∧ (s.travBegin d r k place).2.recs = k.recs := by
  cases place with
  | none => exact ⟨.refl s, rfl, rfl⟩
  | some p =>
    have h1 := s.remoteIssue_keeps d (r := { r with ptr := inboxPtr p.1 p.2.1 p.2.2.1 }) hw hk State.fireTrigger
    exact ⟨h1.trans (.setF _ _ _ _ _ fun e => by simp [Reg.addr, TRAV_TAIL, TRAV_SENT_RECORDS, TRAV_SENT]; omega), rfl, rfl⟩

/-- The packet of an expert carries its records, wherever it goes (R376, R379). -/
theorem State.travSend_spec {s : State} (hs : s.NoErrs) (d : Nat) (x : TravDesc) (e : Nat) (rs : List TravRec) :
    PacketKeeps s (s.travSend d x e rs).1 ∧ (s.travSend d x e rs).2.expert = e ∧ (s.travSend d x e rs).2.recs = rs := by
  have h1 : PacketKeeps s ((s.look d 105 (s.expertEntry d e) 8).setTraverse d { s.traverse d with seq := (s.traverse d).seq + 1 }) := by
    have hl := State.look_keeps hs d 105 (s.expertEntry d e) 8
    exact hl.packet.trans (State.setTraverse_packet _ _ (by rw [hl.traverse]))
  unfold State.travSend
  dsimp only
  split
  · obtain ⟨hk, he, hr⟩ := ((s.look d 105 (s.expertEntry d e) 8).setTraverse d { s.traverse d with seq := (s.traverse d).seq + 1 }).travBegin_spec
      d (r := s.travRequest d x e rs 0) rfl rfl
      ⟨e, s.travCap x e, s.travCapWord x e, rs, (s.traverse d).seq, none, false, false, false, []⟩ (s.travDest d e)
    exact ⟨h1.trans hk.packet, he, hr⟩
  · exact ⟨h1.trans (State.remoteIssue_keeps (n := (s.traverse d).seq) _ d (r := s.travRequest d x e rs 0) rfl rfl State.fireTrigger).packet, rfl, rfl⟩

/-- A DISPATCH that starts opens a batch with one packet an expert, with the assignment's counts (R374 to R377). -/
theorem State.travDispatch_spec {s : State} (hs : s.NoErrs) (d : Nat) (x : TravDesc) :
    (s.travDispatch d x).getF TRAV_TAIL_TAIL d 0 = s.getF TRAV_TAIL_TAIL d 0 ∧
    ∃ b, ((s.travDispatch d x).traverse d).batches = (s.traverse d).batches ++ [b] ∧ b.desc = x ∧ b.completed = none ∧ b.expired = false ∧
      b.rerouted = (s.travAssign x).rerouted ∧ b.dropSource = (s.travAssign x).dropSource ∧
      b.dropUnmapped = (s.travAssign x).dropUnmapped ∧
      b.packets.map (fun k => (k.expert, k.recs)) = (s.travList x).map fun e => (e, kget [] (s.travAssign x).recs e) := by
  have fold (l : List Nat) : ∀ (u : State) (ks : List TravPacket), u.NoErrs →
      let r := l.foldl (fun (st : State × List TravPacket) e =>
        let y := st.1.travSend d x e (kget [] (s.travAssign x).recs e)
        (y.1, st.2 ++ [y.2])) (u, ks)
      PacketKeeps u r.1 ∧ r.2.map (fun k => (k.expert, k.recs)) =
        ks.map (fun k => (k.expert, k.recs)) ++ l.map fun e => (e, kget [] (s.travAssign x).recs e) := by
    induction l with
    | nil => exact fun u ks _ => ⟨(SendKeeps.refl u).packet, by simp⟩
    | cons e l ih =>
      intro u ks hu
      obtain ⟨hk, he, hr⟩ := State.travSend_spec hu d x e (kget [] (s.travAssign x).recs e)
      obtain ⟨hk', hm⟩ := ih _ (ks ++ [(u.travSend d x e (kget [] (s.travAssign x).recs e)).2]) (hk.errs hu)
      refine ⟨hk.trans hk', ?_⟩
      simp only [List.foldl_cons]
      rw [hm]
      simp [he, hr]
  obtain ⟨hk, hm⟩ := fold (s.travList x) s [] hs
  unfold State.travDispatch
  dsimp only at hk hm ⊢
  rw [State.setTraverse_tail, State.traverse_setTraverse]
  exact ⟨hk.tail d, _, congrArg (· ++ _) (hk.batches d), rfl, rfl, rfl, rfl, rfl, rfl, hm⟩

end Sys2Proof.Machine
end

