-- ==== Sys2Proof/Proofs/TraverseDescriptors.lean ====
section
/-!
PROOFS. The descriptor ring of a traverse engine: what decides whether the descriptor at its head starts, and how one that may not run ends
(R374 to R379, R381, R383).
-/
namespace Sys2Proof.Machine

open Sys2Proof

/-! ### Reach -/

/-- Every place of the address map lies on one of the four Crest dies (R35). -/
theorem place_die (a : Nat) : (place a).die < 4 := by
  have sram (d o : Nat) (h : d < 4) : (sramPlace d o).die < 4 := by
    unfold sramPlace
    dsimp only
    split_ifs <;> simp only [Place.die] <;> omega
  have window (d o : Nat) (h : d < 4) : (windowPlace d o).die < 4 := by
    unfold windowPlace
    dsimp only
    split_ifs <;> simp only [Place.die] <;> omega
  unfold place
  split_ifs
  · simp only [Place.die]; omega
  · decide
  · simp only [Place.die, spreadHome]; omega
  · decide
  · exact sram _ _ (by omega)
  · decide
  · exact window _ _ (by omega)
  · decide

section
variable {s t : State}

/-- The states of the Crest dies and of the stacks decide how an access fares (R39, Table 6.3). -/
theorem State.reachAt_congr (hd : ∀ d < 4, t.dieRunning d = s.dieRunning d) (hk : ∀ k, t.stackState k = s.stackState k) (a : Nat) :
    t.reachAt a = s.reachAt a := by
  have hp := place_die a
  unfold State.reachAt
  split
  · rfl
  · next k o hk' =>
    rw [hk'] at hp
    unfold State.stackReach
    rw [hk k, hd (k / 3) hp]
  · rfl
  · rw [hd _ hp]

theorem State.extentReach_congr (hd : ∀ d < 4, t.dieRunning d = s.dieRunning d) (hk : ∀ k, t.stackState k = s.stackState k) (a n : Nat) :
    t.extentReach a n = s.extentReach a n := by
  unfold State.extentReach
  rw [funext (State.reachAt_congr hd hk)]

end

/-- The ring's tail decides nothing about an access. -/
theorem State.extentReach_setTail (s : State) (d x a n : Nat) : (s.setF TRAV_TAIL_TAIL d 0 x).extentReach a n = s.extentReach a n := by
  refine State.extentReach_congr (fun e he => ?_) (fun k => ?_) a n
  · unfold State.dieRunning
    rw [State.getF_setF_ne (h := by simp [Reg.addr, DIE_STATE_STATE, DIE_STATE, TRAV_TAIL_TAIL, TRAV_TAIL]; omega),
      State.getF_setF_ne (h := by simp [Reg.addr, STATE_STATUS_STATE, STATE_STATUS, TRAV_TAIL_TAIL, TRAV_TAIL]; omega),
      State.setF_power]
  · exact s.getF_setF_ne _ _ _ _ _ _ _ (by simp [Reg.addr, STACK_STATE_STATE, STACK_STATE, TRAV_TAIL_TAIL, TRAV_TAIL]; omega)

/-! ### What an engine reads where no error stands -/

section
variable {s : State} (hs : s.NoErrs)
include hs

/-- A local read within reach changes nothing and finds the bytes and marks that stand. -/
theorem State.NoErrs.localRead_eq (d unit : Nat) {a n : Nat} (h : s.extentReach a n = .ok) :
    s.localRead d unit a n = (s, s.bytes a n, s.marks a n) := by
  unfold State.localRead
  rw [h]
  dsimp only
  rw [hs.meetErrs_eq]
  unfold State.found
  rw [h]

/-- A local read records an address fault at most. -/
theorem State.NoErrs.localRead_raises (d unit a n : Nat) : Moves 0x10000000 s (s.localRead d unit a n).1 := by
  unfold State.localRead
  split
  · exact State.addressFault_moves ..
  · exact .refl s
  · dsimp only
    rw [hs.meetErrs_eq]
    exact .refl s

omit hs in
/-- The records of errors are no part of memory: no error stands after they grew. -/
theorem State.NoErrs.of_raises {t : State} (h : Moves 0x10000000 s t) (hs : s.NoErrs) : t.NoErrs :=
  hs.of_eq (h.same .talusCtl (by decide)) (h.same .cores (by decide))

/-- Reading a DISPATCH's inputs records address faults at most. -/
theorem State.NoErrs.travReadAll_raises (d : Nat) (l : List (Nat × Nat × Bool)) : Moves 0x10000000 s (s.travReadAll d l).1 := by
  have fold (l : List (Nat × Nat × Bool)) : ∀ (u : State) (p : Bool), u.NoErrs →
      Moves 0x10000000 u (l.foldl (fun st e => let r := st.1.localRead d 105 e.1 e.2.1; (r.1, st.2 || r.2.2.any id)) (u, p)).1 := by
    induction l with
    | nil => exact fun u _ _ => .refl u
    | cons e l ih =>
      intro u p hu
      have h1 := hu.localRead_raises d 105 e.1 e.2.1
      exact (ih _ _ (hu.of_raises h1)).step (by decide) h1
  exact fold l s false hs

/-- A local write within reach stores its bytes. -/
theorem State.NoErrs.localWrite_eq (d unit : Nat) {a : Nat} {bs : List Byte} (h : s.extentReach a bs.length = .ok) :
    s.localWrite d unit a bs [] = s.write a bs := by
  unfold State.localWrite
  rw [h]
  dsimp only
  rw [hs.meetErrs_eq]
  rfl

end

/-! ### A descriptor that ends without running -/

/-- The record of a descriptor that did not run: status, OP, BATCH and zeros (Table 14.6). -/
def unrunRecord (x : TravDesc) (st : Nat) : List Byte :=
  leBytes 1 st ++ leBytes 1 x.op ++ leBytes 2 x.batch ++ (List.replicate 10 0).flatMap (leBytes 4) ++ List.replicate 20 0

theorem unrunRecord_length (x : TravDesc) (st : Nat) : (unrunRecord x st).length = 64 := by simp [unrunRecord]

/-- A descriptor without DONE_FLAG that ends unrun leaves its record at a DONE_ADDR that keeps its rule, and nothing else. -/
theorem State.travRefuse_eq (s : State) (d : Nat) {x : TravDesc} (st : Nat) (hf : x.flags.testBit 0 = false) :
    s.travRefuse d x st = if travAddrOk x.doneAddr then s.localWrite d 105 x.doneAddr (unrunRecord x st) [] else s := by
  unfold State.travRefuse State.travStatus
  dsimp only
  rw [hf, Bool.false_and, if_neg Bool.false_ne_true]
  cases travAddrOk x.doneAddr <;> rfl

/-- Part of what stands at an address is what stands at the part's own address. -/
theorem State.bytes_part (s : State) (a n o k : Nat) (h : o + k ≤ n) : s.bytes (a + o) k = ((s.bytes a n).drop o).take k := by
  refine List.ext_getElem ?_ fun i h1 h2 => ?_
  · simp [State.bytes, rangeFrom]; omega
  · simp [State.bytes, rangeFrom, Nat.add_assoc]

section
variable {s t : State} {d : Nat} {x : TravDesc} {st : Nat} (hs : s.NoErrs) (ht : Moves 0x10000000 s t)
  (hf : x.flags.testBit 0 = false)
include ht hf

/-- One that breaks the rule of DONE_ADDR is popped, and nothing is written. -/
theorem State.travRefuse_nowhere (ha : travAddrOk x.doneAddr = false) (i : Nat) :
    let u := (t.setF TRAV_TAIL_TAIL d 0 (i + 1)).travRefuse d x st
    u.getF TRAV_TAIL_TAIL d 0 = (i + 1) % 256 ∧ u.traverses = s.traverses ∧ u.mem = s.mem := by
  intro u
  have hu : u = t.setF TRAV_TAIL_TAIL d 0 (i + 1) := by
    rw [show u = _ from State.travRefuse_eq _ d st hf, ha, if_neg Bool.false_ne_true]
  rw [hu]
  exact ⟨State.getF_setF _ _ _ _ _ rfl, ht.same .traverses (by decide), ht.same .mem (by decide)⟩

include hs

/-- One that keeps it is popped, and its record stands at DONE_ADDR. -/
theorem State.travRefuse_record (hop : x.op < 256) (hb : x.batch < 65536) (hst : st < 256)
    (ha : travAddrOk x.doneAddr = true) (hr : s.extentReach x.doneAddr 64 = .ok) (i : Nat) :
    let u := (t.setF TRAV_TAIL_TAIL d 0 (i + 1)).travRefuse d x st
    u.getF TRAV_TAIL_TAIL d 0 = (i + 1) % 256 ∧ u.traverses = s.traverses ∧
      u.readN x.doneAddr 1 = st ∧ u.readN (x.doneAddr + 1) 1 = x.op ∧ u.readN (x.doneAddr + 2) 2 = x.batch ∧
      ∀ b, Outside b x.doneAddr 64 → u.byte b = s.byte b := by
  intro u
  have hreach : (t.setF TRAV_TAIL_TAIL d 0 (i + 1)).extentReach x.doneAddr (unrunRecord x st).length = .ok := by
    have hregs : t.regs = s.regs := ht.same .regs (by decide)
    have hpow : t.power = s.power := ht.same .power (by decide)
    rw [State.extentReach_setTail, unrunRecord_length, ← hr]
    refine State.extentReach_congr (fun e _ => ?_) (fun k => ?_) _ _
    · unfold State.dieRunning State.getF State.reg; rw [hregs, hpow]
    · unfold State.stackState State.getF State.reg; rw [hregs]
  have hne : (t.setF TRAV_TAIL_TAIL d 0 (i + 1)).NoErrs := (hs.of_raises ht).of_eq (State.setF_talusCtl ..) (State.setF_cores ..)
  have hu : u = (t.setF TRAV_TAIL_TAIL d 0 (i + 1)).write x.doneAddr (unrunRecord x st) := by
    rw [show u = _ from State.travRefuse_eq _ d st hf, ha, if_pos rfl, hne.localWrite_eq d 105 hreach]
  clear_value u
  have hregs : u.regs = (t.setF TRAV_TAIL_TAIL d 0 (i + 1)).regs := by rw [hu]; exact (State.write_moves ..).same .regs (by decide)
  have htrav : u.traverses = t.traverses := by
    have hw : u.traverses = (t.setF TRAV_TAIL_TAIL d 0 (i + 1)).traverses := by rw [hu]; exact (State.write_moves ..).same .traverses (by decide)
    rw [hw, State.setF_traverses]
  have halign : x.doneAddr % 64 = 0 := by simp [travAddrOk] at ha; exact ha.2
  have hbytes : u.bytes x.doneAddr 64 = unrunRecord x st := by
    rw [hu]
    exact unrunRecord_length x st ▸ State.bytes_write _ _ _ (by rw [unrunRecord_length]; omega)
  have part (o k y : Nat) (h : ((unrunRecord x st).drop o).take k = leBytes k y) (hk : o + k ≤ 64) (hy : y < 256 ^ k) :
      u.readN (x.doneAddr + o) k = y := by
    rw [State.readN, u.bytes_part _ 64 _ _ hk, hbytes, h, leNat_leBytes_mod, Nat.mod_eq_of_lt hy]
  have hop' : u.readN (x.doneAddr + 1) 1 = x.op := part 1 1 x.op (by simp [unrunRecord, leBytes]) (by decide) (by omega)
  have hb' : u.readN (x.doneAddr + 2) 2 = x.batch := part 2 2 x.batch (by simp [unrunRecord, leBytes]) (by decide) (by omega)
  refine ⟨?_, htrav.trans (ht.same .traverses (by decide)), part 0 1 st ?_ (by decide) (by omega), hop', hb', fun b hob => ?_⟩
  · unfold State.getF State.reg
    rw [hregs]
    exact State.getF_setF _ _ _ _ _ rfl
  · simp [unrunRecord, leBytes]
  · rw [hu, State.byte_write_ne _ _ _ _ (by rw [unrunRecord_length]; exact hob), State.setF_byte,
      State.byte_of_mem (ht.same .mem (by decide))]

end

/-! ### The descriptor at the head of the ring -/

/-- A number of n bytes is less than the n-th power of 256. -/
theorem leNat_take_lt (bs : List Byte) (n : Nat) : leNat (bs.take n) < 256 ^ n := by
  induction n generalizing bs with
  | zero => simp [leNat]
  | succ n ih =>
    cases bs with
    | nil => simp [leNat]
    | cons b bs =>
      have hb := b.isLt
      have := ih bs
      rw [List.take_succ_cons, leNat, pow_succ']
      omega

theorem State.travDesc_op_lt (s : State) (d a : Nat) : (s.travDesc d a).op < 256 := leNat_take_lt _ 1

theorem State.travDesc_batch_lt (s : State) (d a : Nat) : (s.travDesc d a).batch < 65536 := leNat_take_lt _ 2

theorem statusMax_lt {a b n : Nat} (ha : a < n) (hb : b < n) : statusMax a b < n := by
  unfold statusMax
  split_ifs
  · exact hb
  · exact ha

theorem Reach.status_lt (r : Reach) : r.status < 256 := by cases r <;> decide

/-- The status of a descriptor is one byte (Table 1.10). -/
theorem State.travVerdict_lt (s : State) (d : Nat) (bs : List Byte) (x : TravDesc) : s.travVerdict d bs x < 256 := by
  have hext (l : List (Nat × Nat × Bool)) : ∀ st < 256, l.foldl (fun st e => statusMax st (s.extentReach e.1 e.2.1).status) st < 256 := by
    induction l with
    | nil => exact fun _ h => h
    | cons e l ih => exact fun st h => ih _ (statusMax_lt h (Reach.status_lt _))
  have two (c : Bool) (n : Nat) (h : n < 256) : (if c then n else stDONE) < 256 := by cases c <;> simp [stDONE, h]
  have two' (c : Bool) (n : Nat) (h : n < 256) : (if c then stDONE else n) < 256 := by cases c <;> simp [stDONE, h]
  unfold State.travVerdict
  dsimp only
  split
  · decide
  · exact statusMax_lt (two _ _ (by decide)) (statusMax_lt (two' _ _ (by decide)) (statusMax_lt (two _ _ (by decide)) (hext _ _ (by decide))))

/-- The assignment is made from what memory holds. -/
theorem State.travAssign_congr {s t : State} (h : t.mem = s.mem) (x : TravDesc) :
    t.travAssign x = s.travAssign x ∧ t.travList x = s.travList x := by
  have hr : t.readN = s.readN := by
    funext a n
    unfold State.readN State.bytes
    rw [show t.byte = s.byte from funext (State.byte_of_mem h)]
  have hl : t.travList x = s.travList x := by unfold State.travList; rw [hr]
  have hroute : t.travRoute = s.travRoute := by funext y i j; unfold State.travRoute; rw [hr]
  have hcap : t.travCap = s.travCap := by funext y e; unfold State.travCap State.travCapacity; rw [hr]
  have hchoice : t.travChoice x = s.travChoice x := by
    funext l b m k st r
    unfold State.travChoice
    rw [hroute, hcap]
  refine ⟨?_, hl⟩
  unfold State.travAssign
  rw [hl, hchoice, hr]

section
variable {s : State} {d : Nat}

/-- With its tail at its head the ring holds no descriptor. -/
theorem State.travStart_empty (h : s.getF TRAV_TAIL_TAIL d 0 = s.getF TRAV_HEAD_HEAD d 0) (op : Nat) : s.travStart d op = s := by
  have hn : s.travNext d 256 = (none, s) := by rw [State.travNext, if_pos h]
  unfold State.travStart
  rw [hn]

/-- With no descriptor that a collapse completed, the tail's is next. -/
theorem State.travNext_tail (hd : (s.traverse d).dead = []) (h : s.getF TRAV_TAIL_TAIL d 0 ≠ s.getF TRAV_HEAD_HEAD d 0) :
    s.travNext d 256 = (some (s.getF TRAV_TAIL_TAIL d 0), s) := by
  rw [State.travNext, if_neg h, hd]
  rfl

/-- The state whose ring is past its tail. -/
def State.travPop (s : State) (d : Nat) : State := s.setF TRAV_TAIL_TAIL d 0 (s.getF TRAV_TAIL_TAIL d 0 + 1)

/-- The address of the descriptor at the tail. -/
def State.travAt (s : State) (d : Nat) : Nat := s.travSlot d (s.getF TRAV_TAIL_TAIL d 0)

/-- The descriptor at the tail. -/
def State.travHead (s : State) (d : Nat) : TravDesc := s.travDesc d (s.travAt d)

/-- Whether one of the n bytes at offset o of the descriptor at the tail reads as poison. -/
def State.travBad (s : State) (d o n : Nat) : Bool := (((s.marks (s.travAt d) 128).drop (o / 4)).take (n / 4)).any id

/-- Whether an extent of the descriptor at the tail is held: of one whose form breaks a rule, DONE_ADDR alone. -/
def State.travWaits (s : State) (d : Nat) : Bool :=
  s.extentsHeld d (if travFormOk (s.bytes (s.travAt d) 128) (s.travHead d) then
    travExtents (s.travHead d) (((s.traverse d).batch (s.travHead d).batch).map (·.desc)) else [((s.travHead d).doneAddr, 64, true)])

/-- The status that the descriptor at the tail ends with before it runs. -/
def State.travEnd (s : State) (d : Nat) : Nat := s.travVerdict d (s.bytes (s.travAt d) 128) (s.travHead d)

section
variable (hd : (s.traverse d).dead = []) (h : s.getF TRAV_TAIL_TAIL d 0 ≠ s.getF TRAV_HEAD_HEAD d 0)
include hd h

/-- While the descriptor's slot is held it is not read. -/
theorem State.travStart_held (hh : s.engineHeld d (s.travAt d) 128 false = true) (op : Nat) : s.travStart d op = s := by
  unfold State.travStart
  rw [State.travNext_tail hd h]
  exact if_pos hh

variable (hh : s.engineHeld d (s.travAt d) 128 false = false) (hr : s.extentReach (s.travAt d) 128 = .ok) (hs : s.NoErrs)
include hh hr hs

/-- What becomes of a descriptor that is read. -/
theorem State.travStart_read (op : Nat) : s.travStart d op =
    if ((s.travHead d).op = 1 ∨ (s.travHead d).op = 2) ∧ (s.travHead d).op ≠ op then s
    else if 4 ≤ (s.traverse d).busy then s
    else if s.travBad d 0 128 then
      if s.travBad d 0 8 || s.travBad d 0x18 8 || s.travBad d 0x58 8 then s.travPop d
      else (s.travPop d).travRefuse d (s.travHead d) stPOISONED
    else if s.travWaits d then s
    else if s.travEnd d ≠ stDONE then (s.travPop d).travRefuse d (s.travHead d) (s.travEnd d)
    else if (s.travHead d).op = 2 then
      (s.travPop d).setTraverse d { s.traverse d with combines := (s.traverse d).combines ++ [s.travHead d] }
    else if 16 ≤ (s.traverse d).batches.length ∨ s.travSending d then s
    else if (s.localRead d 105 (s.travHead d).experts ((s.travHead d).nexperts * 2)).2.2.any id then
      (s.travPop d).travRefuse d (s.travHead d) stPOISONED
    else if s.extentsHeld d (s.travInputs d (s.travHead d)) then s
    else if (s.travReadAll d (s.travInputs d (s.travHead d))).2 then
      (((s.travReadAll d (s.travInputs d (s.travHead d))).1).setF TRAV_TAIL_TAIL d 0 (s.getF TRAV_TAIL_TAIL d 0 + 1)).travRefuse d (s.travHead d)
        stPOISONED
    else
      ((((s.travReadAll d (s.travInputs d (s.travHead d))).1).setF TRAV_TAIL_TAIL d 0 (s.getF TRAV_TAIL_TAIL d 0 + 1)).travDispatch d
        (s.travHead d)).travAnswers d := by
  have hx : s.travHead d = travDescOf (s.bytes (s.travAt d) 128) (s.reg TRAV_EXPERT d 0) := by
    unfold State.travHead State.travDesc State.seen
    rw [hr]
  unfold State.travStart
  rw [State.travNext_tail hd h]
  dsimp only
  rw [if_neg (by rw [Bool.not_eq_true]; exact hh), ← State.travAt, hs.localRead_eq d 105 hr]
  dsimp only
  rw [← hx]
  rfl

/-- A descriptor of the other command, or one past the fourth in progress, stays. -/
theorem State.travStart_stays {op : Nat}
    (ho : ((s.travHead d).op = 1 ∨ (s.travHead d).op = 2) ∧ (s.travHead d).op ≠ op ∨ 4 ≤ (s.traverse d).busy) : s.travStart d op = s := by
  rw [State.travStart_read hd h hh hr hs]
  split
  · rfl
  · next hn => rw [if_pos (ho.resolve_left hn)]

section
variable {op : Nat} (ho : (s.travHead d).op = op ∨ ¬ ((s.travHead d).op = 1 ∨ (s.travHead d).op = 2)) (hb : (s.traverse d).busy < 4)
include ho hb

/-- One that reads as poison completes POISONED, or nowhere where its own DONE words do (R493). -/
theorem State.travStart_poison (hp : s.travBad d 0 128 = true) : s.travStart d op =
    if s.travBad d 0 8 || s.travBad d 0x18 8 || s.travBad d 0x58 8 then s.travPop d
    else (s.travPop d).travRefuse d (s.travHead d) stPOISONED := by
  rw [State.travStart_read hd h hh hr hs, if_neg (fun hn => ho.elim hn.2 (· hn.1)), if_neg (Nat.not_le.mpr hb), if_pos hp]

variable (hp : s.travBad d 0 128 = false)
include hp

/-- One whose extents are held waits. -/
theorem State.travStart_waits (hw : s.travWaits d = true) : s.travStart d op = s := by
  rw [State.travStart_read hd h hh hr hs, if_neg (fun hn => ho.elim hn.2 (· hn.1)), if_neg (Nat.not_le.mpr hb), if_neg (Bool.eq_false_iff.mp hp), if_pos hw]

variable (hw : s.travWaits d = false)
include hw

/-- One that may not run ends with its status. -/
theorem State.travStart_ends (he : s.travEnd d ≠ stDONE) : s.travStart d op = (s.travPop d).travRefuse d (s.travHead d) (s.travEnd d) := by
  rw [State.travStart_read hd h hh hr hs, if_neg (fun hn => ho.elim hn.2 (· hn.1)), if_neg (Nat.not_le.mpr hb), if_neg (Bool.eq_false_iff.mp hp), if_neg (Bool.eq_false_iff.mp hw), if_pos he]

/-- What becomes of one that may run. -/
theorem State.travStart_runs (he : s.travEnd d = stDONE) : s.travStart d op =
    if (s.travHead d).op = 2 then
      (s.travPop d).setTraverse d { s.traverse d with combines := (s.traverse d).combines ++ [s.travHead d] }
    else if 16 ≤ (s.traverse d).batches.length ∨ s.travSending d then s
    else if (s.localRead d 105 (s.travHead d).experts ((s.travHead d).nexperts * 2)).2.2.any id then
      (s.travPop d).travRefuse d (s.travHead d) stPOISONED
    else if s.extentsHeld d (s.travInputs d (s.travHead d)) then s
    else if (s.travReadAll d (s.travInputs d (s.travHead d))).2 then
      (((s.travReadAll d (s.travInputs d (s.travHead d))).1).setF TRAV_TAIL_TAIL d 0 (s.getF TRAV_TAIL_TAIL d 0 + 1)).travRefuse d (s.travHead d)
        stPOISONED
    else
      ((((s.travReadAll d (s.travInputs d (s.travHead d))).1).setF TRAV_TAIL_TAIL d 0 (s.getF TRAV_TAIL_TAIL d 0 + 1)).travDispatch d
        (s.travHead d)).travAnswers d := by
  rw [State.travStart_read hd h hh hr hs, if_neg (fun hn => ho.elim hn.2 (· hn.1)), if_neg (Nat.not_le.mpr hb), if_neg (Bool.eq_false_iff.mp hp), if_neg (Bool.eq_false_iff.mp hw),
    if_neg (not_not.mpr he)]

end

end

/-- A command that refuses the descriptor at the tail ends it: with its status in its record, or nowhere. -/
theorem State.travHead_ends {t : State} (ht : Moves 0x10000000 s t) {st : Nat} (hst : st < 256) {c : Instr}
    (hc : exec c s = .next ((t.setF TRAV_TAIL_TAIL d 0 (s.getF TRAV_TAIL_TAIL d 0 + 1)).travRefuse d (s.travHead d) st).afterWork)
    (hf : (s.travHead d).flags.testBit 0 = false) (hs : s.NoErrs) :
    (travAddrOk (s.travHead d).doneAddr = true → s.extentReach (s.travHead d).doneAddr 64 = .ok → CompletesThen c s State.afterWork fun u =>
      u.getF TRAV_TAIL_TAIL d 0 = (s.getF TRAV_TAIL_TAIL d 0 + 1) % 256 ∧ u.traverses = s.traverses ∧
      u.readN (s.travHead d).doneAddr 1 = st ∧ u.readN ((s.travHead d).doneAddr + 1) 1 = (s.travHead d).op ∧
      u.readN ((s.travHead d).doneAddr + 2) 2 = (s.travHead d).batch ∧
      (∀ b, Outside b (s.travHead d).doneAddr 64 → u.byte b = s.byte b)) ∧
    (travAddrOk (s.travHead d).doneAddr = false → CompletesThen c s State.afterWork fun u =>
      u.getF TRAV_TAIL_TAIL d 0 = (s.getF TRAV_TAIL_TAIL d 0 + 1) % 256 ∧ u.traverses = s.traverses ∧ u.mem = s.mem) :=
  ⟨fun ha hr => ⟨_, hc, State.travRefuse_record hs ht hf (s.travDesc_op_lt ..) (s.travDesc_batch_lt ..) hst ha hr _⟩,
    fun ha => ⟨_, hc, State.travRefuse_nowhere ht hf ha _⟩⟩

/-- A DISPATCH that starts is popped and opens its batch, whatever its inputs' address faults. -/
theorem State.travDispatch_opens {t : State} (ht : Moves 0x10000000 s t) (hs : s.NoErrs) (i : Nat) (x : TravDesc) :
    let u := (t.setF TRAV_TAIL_TAIL d 0 (i + 1)).travDispatch d x
    u.getF TRAV_TAIL_TAIL d 0 = (i + 1) % 256 ∧
      ∃ b, (u.traverse d).batches = (s.traverse d).batches ++ [b] ∧ b.desc = x ∧ b.completed = none ∧ b.expired = false ∧
        b.rerouted = (s.travAssign x).rerouted ∧ b.dropSource = (s.travAssign x).dropSource ∧
        b.dropUnmapped = (s.travAssign x).dropUnmapped ∧
        b.packets.map (fun k => (k.expert, k.recs)) = (s.travList x).map fun e => (e, kget [] (s.travAssign x).recs e) := by
  have hne : (t.setF TRAV_TAIL_TAIL d 0 (i + 1)).NoErrs := (hs.of_raises ht).of_eq (State.setF_talusCtl ..) (State.setF_cores ..)
  obtain ⟨htail, b, hb, hrest⟩ := State.travDispatch_spec hne d x
  have hm : (t.setF TRAV_TAIL_TAIL d 0 (i + 1)).mem = s.mem := (State.setF_mem ..).trans (ht.same .mem (by decide))
  obtain ⟨ha, hl⟩ := State.travAssign_congr hm x
  have htr : (t.setF TRAV_TAIL_TAIL d 0 (i + 1)).traverse d = s.traverse d := by
    unfold State.traverse
    rw [State.setF_traverses]
    exact congrArg (kget Traverse.zero · d) (ht.same .traverses (by decide))
  rw [ha, hl] at hrest
  rw [htr] at hb
  exact ⟨htail.trans (State.getF_setF _ _ _ _ _ rfl), b, hb, hrest⟩

end

/-- Settles O41: each clause is a branch of the start of the descriptor at the tail; the last is the count of the assignment. -/
theorem traverseDescriptors : Obligations.TraverseDescriptors := by
  unfold Obligations.TraverseDescriptors
  intro d s hrun
  have hD (haw : s.awake = true) : exec (.dispatch d) s = .next (s.travStart d 1).afterWork := if_pos (by simp [State.travLive, hrun, haw])
  have hC (haw : s.awake = true) : exec (.combine d) s = .next (s.travStart d 2).afterWork := if_pos (by simp [State.travLive, hrun, haw])
  have next {u v : State} (huv : u = v) : (.next u.afterWork : Host.Outcome State Fault Refusal) = .next v.afterWork := by rw [huv]
  refine ⟨fun head => if_pos hrun, fun haw htail => ?_, fun haw hdead hne => ⟨fun hheld => ?_, fun hfree hreach hs => ⟨fun p hp => ?_, ?_⟩⟩,
    State.travAssign_settled s⟩
  · rw [hD haw, hC haw, State.travStart_empty htail, State.travStart_empty htail]
    exact ⟨rfl, rfl⟩
  · rw [hD haw, hC haw, State.travStart_held hdead hne hheld, State.travStart_held hdead hne hheld]
    exact ⟨rfl, rfl⟩
  · have hx : exec p.1 s = .next (s.travStart d p.2).afterWork := by
      simp only [List.mem_cons, List.not_mem_nil, or_false] at hp
      obtain rfl | rfl := hp
      · exact hD haw
      · exact hC haw
    refine ⟨fun ho => ?_, fun ho hb => ⟨fun hp => ⟨fun hw => ?_, fun hw => ?_⟩, fun hp => ⟨fun hw => ?_, fun hw he => ?_⟩⟩⟩
    · rw [hx, State.travStart_stays hdead hne hfree hreach hs ho]
    · rw [hx, State.travStart_poison hdead hne hfree hreach hs ho hb hp]
      exact next (if_pos hw)
    · refine State.travHead_ends (.refl s) (by decide) (hx.trans ?_)
      rw [State.travStart_poison hdead hne hfree hreach hs ho hb hp]
      exact next (if_neg (Bool.eq_false_iff.mp hw))
    · rw [hx, State.travStart_waits hdead hne hfree hreach hs ho hb hp hw]
    · have hr := hx.trans (next (State.travStart_ends hdead hne hfree hreach hs ho hb hp hw he))
      exact ⟨State.travHead_ends (.refl s) (State.travVerdict_lt ..) hr, hr⟩
  · intro hb hp hw he
    refine ⟨fun hop => ?_, fun hop => ?_⟩
    · rw [hC haw, State.travStart_runs hdead hne hfree hreach hs (.inl hop) hb hp hw he]
      exact next (if_pos hop)
    · have hr := (hD haw).trans (next (State.travStart_runs hdead hne hfree hreach hs (.inl hop) hb hp hw he))
      have hop2 : ¬ (s.travHead d).op = 2 := fun h2 => by rw [show (s.travHead d).op = 1 from hop] at h2; cases h2
      rw [if_neg hop2] at hr
      refine ⟨fun hfull => ?_, fun hroom hsend => ?_⟩
      · rw [hr, if_pos hfull]
      have hr1 := hr.trans (next (if_neg (by rintro (h | h); exacts [by omega, Bool.eq_false_iff.mp hsend h])))
      refine ⟨fun hl => State.travHead_ends (.refl s) (by decide) (hr1.trans (next (if_pos hl))), fun hl => ?_⟩
      have hr2 := hr1.trans (next (if_neg (Bool.eq_false_iff.mp hl)))
      refine ⟨fun hi => hr2.trans (next (if_pos hi)), fun hi => ?_⟩
      have hr3 := hr2.trans (next (if_neg (Bool.eq_false_iff.mp hi)))
      exact ⟨fun hq => State.travHead_ends (hs.travReadAll_raises ..) (by decide) (hr3.trans (next (if_pos hq))), fun hq =>
        ⟨_, hr3.trans (next (if_neg (Bool.eq_false_iff.mp hq))), State.travDispatch_opens (hs.travReadAll_raises ..) hs _ _⟩⟩

end Sys2Proof.Machine
end

