-- ==== Sys2Proof/Proofs/DescriptorFetch.lean ====
section
/-!
PROOFS. Descriptors come in: from a ring of the host, and from a chain in package memory (R400, R402, R405, R407, R408).
-/
namespace Sys2Proof.Machine

open Sys2Proof

/-- A field's value keeps within its width. -/
theorem State.getF_lt (s : State) (f : Fld) (d i : Nat) : s.getF f d i < 2 ^ (f.hi + 1 - f.lo) := by
  unfold State.getF Fld.get bits
  exact Nat.mod_lt _ (by positivity)

/-- A field set to what fits it is that. -/
theorem State.flag_setF_one (s : State) (f : Fld) (d i : Nat) (h : f.fits = true) : (s.setF f d i 1).flag f d i = true := by
  have hw : f.lo ≤ f.hi := by simp [Fld.fits] at h; omega
  rw [State.flag, State.getF_setF _ _ _ _ _ h, Nat.mod_eq_of_lt (Nat.one_lt_two_pow (by omega))]
  rfl

/-! ### What a descriptor that comes in leaves alone -/

/-- What the list of descriptors and of completions due does not touch: outputs, memory, the turn of the rings, the rings' registers. -/
structure DescKeeps (s t : State) : Prop where
  out : t.out = s.out
  mem : t.mem = s.mem
  turn : t.host.turn = s.host.turn
  failedRun : t.host.failedRun = s.host.failedRun
  rings : ∀ f : Fld, 0x21000 ≤ f.reg.off → ∀ e j, t.getF f e j = s.getF f e j

namespace DescKeeps
variable {s t u : State}

theorem refl (s : State) : DescKeeps s s := ⟨rfl, rfl, rfl, rfl, fun _ _ _ _ => rfl⟩

theorem trans (h : DescKeeps s t) (k : DescKeeps t u) : DescKeeps s u :=
  ⟨k.out.trans h.out, k.mem.trans h.mem, k.turn.trans h.turn, k.failedRun.trans h.failedRun,
    fun f hf e j => (k.rings f hf e j).trans (h.rings f hf e j)⟩

/-- A field of a package register below the rings' is set. -/
theorem setF (s : State) (f : Fld) (x : Nat) (h : f.reg.off < 0x21000) (hd : f.reg.perDie = false) : DescKeeps s (s.setF f 0 0 x) :=
  ⟨s.setF_out .., s.setF_mem .., congrArg HostLink.turn (s.setF_host ..), congrArg HostLink.failedRun (s.setF_host ..),
    fun g hg e j => s.getF_setF_ne _ _ _ _ _ _ _ (by simp only [Reg.addr, hd]; simp; omega)⟩

theorem setDescs (s : State) (ds : List Desc) : DescKeeps s (s.setDescs ds) := by
  have h1 : DescKeeps s (s.setHost fun r => { r with descs := ds }) := ⟨rfl, rfl, rfl, rfl, fun _ _ _ _ => rfl⟩
  exact ((h1.trans (setF _ _ _ (by decide) rfl)).trans (setF _ _ _ (by decide) rfl)).trans (setF _ _ _ (by decide) rfl)

theorem setRing (s : State) (r : Nat) (x : RingPair) : DescKeeps s (s.setRing r x) := ⟨rfl, rfl, rfl, rfl, fun _ _ _ _ => rfl⟩

theorem postDue (s : State) (c : Completion) : DescKeeps s (s.postDue c) := ⟨rfl, rfl, rfl, rfl, fun _ _ _ _ => rfl⟩

theorem descDone (s : State) (uid status result detail : Nat) : DescKeeps s (s.descDone uid status result detail) := by
  unfold State.descDone
  split
  · exact refl s
  · split
    · exact refl s
    · split
      · exact setDescs ..
      · exact postDue ..

theorem takeDesc (s : State) (bs : List Byte) (handle ring : Nat) : DescKeeps s (s.takeDesc bs handle ring) := by
  have h1 : DescKeeps s ((s.setRing ring { s.ring ring with orders := (s.ring ring).orders + 1 }).setHost fun y => { y with uids := y.uids + 1 }) :=
    ⟨rfl, rfl, rfl, rfl, fun _ _ _ _ => rfl⟩
  unfold State.takeDesc
  dsimp only
  split
  · exact h1.trans (setDescs ..)
  · exact (h1.trans (setDescs ..)).trans (descDone ..)

end DescKeeps

/-! ### The descriptor taken -/

theorem State.setDescs_host (s : State) (ds : List Desc) : (s.setDescs ds).host = { s.host with descs := ds } := by
  unfold State.setDescs
  dsimp only
  rw [State.setF_host, State.setF_host, State.setF_host]
  rfl

section
variable (s : State) (bs : List Byte) (handle ring : Nat)

/-- One that keeps the rules joins the descriptors. -/
theorem State.takeDesc_ok (h : descOk bs (descOf bs s.host.uids handle ring (s.ring ring).orders) = true) :
    (s.takeDesc bs handle ring).host.descs = s.host.descs ++ [descOf bs s.host.uids handle ring (s.ring ring).orders] ∧
    (s.takeDesc bs handle ring).host.due = s.host.due := by
  unfold State.takeDesc
  dsimp only
  rw [if_pos h, State.setDescs_host]
  exact ⟨rfl, rfl⟩

/-- One that breaks a rule joins them and completes INVALID_DESCRIPTOR. -/
theorem State.takeDesc_bad (h : descOk bs (descOf bs s.host.uids handle ring (s.ring ring).orders) = false) :
    ∃ u : State, u.host.descs = s.host.descs ++ [descOf bs s.host.uids handle ring (s.ring ring).orders] ∧ u.host.due = s.host.due ∧
      s.takeDesc bs handle ring = u.descDone (descOf bs s.host.uids handle ring (s.ring ring).orders).uid stINVALID 0 0 := by
  unfold State.takeDesc
  dsimp only
  rw [if_neg (Bool.eq_false_iff.mp h)]
  refine ⟨_, ?_, ?_, rfl⟩
  · rw [State.setDescs_host]
  · rw [State.setDescs_host]; rfl

end

/-! ### The fetch of a ring (R400) -/

/-- One descriptor of ring r is read and taken. -/
def State.fetchOne (s : State) (r : Nat) (data : List Byte) : State :=
  let f := s.getF RING_COUNTS_FETCHED 0 r
  ((s.emit .hostRead (s.getF SQ_BASE_BASE 0 r * 4096 + f % s.sqSize r * 64) [r] []).setF RING_COUNTS_FETCHED 0 r (f + 1)).takeDesc
    (data.take 64) (r * 2 ^ 26 + f % 2 ^ 25) r

theorem State.fetchDescs_succ (s : State) (r : Nat) (data : List Byte) (n : Nat) : s.fetchDescs r data (n + 1) =
    if !s.handleFree || !s.fetchable r || decide (data.length < 64) then s
    else (s.fetchOne r data).fetchDescs r (data.drop 64) n := rfl

/-- What a read leaves shorter than a descriptor is none. -/
theorem State.fetchDescs_short (s : State) (r : Nat) {data : List Byte} (h : data.length < 64) (n : Nat) : s.fetchDescs r data n = s := by
  cases n with
  | zero => rfl
  | succ n => rw [State.fetchDescs_succ, if_pos (by simp [h])]

theorem State.fetchOne_keeps (s : State) (r : Nat) (data : List Byte) :
    (s.fetchOne r data).getF RING_COUNTS_FETCHED 0 r = (s.getF RING_COUNTS_FETCHED 0 r + 1) % 2 ^ 32 ∧
    (s.fetchOne r data).out = s.out ++ [⟨.hostRead, s.getF SQ_BASE_BASE 0 r * 4096 +
      s.getF RING_COUNTS_FETCHED 0 r % s.sqSize r * 64, [r], []⟩] ∧
    (s.fetchOne r data).mem = s.mem ∧ (s.fetchOne r data).host.turn = s.host.turn ∧
    (s.fetchOne r data).host.failedRun = s.host.failedRun := by
  unfold State.fetchOne
  dsimp only
  have hk := fun u : State => DescKeeps.takeDesc u (data.take 64) (r * 2 ^ 26 + s.getF RING_COUNTS_FETCHED 0 r % 2 ^ 25) r
  refine ⟨?_, ?_, ?_, ?_, ?_⟩
  · rw [(hk _).rings _ (by decide), State.getF_setF _ _ _ _ _ rfl]; rfl
  · rw [(hk _).out, State.setF_out]; rfl
  · rw [(hk _).mem, State.setF_mem]; rfl
  · rw [(hk _).turn, State.setF_host]; rfl
  · rw [(hk _).failedRun, State.setF_host]; rfl

/-- Descriptors are fetched until the burst or the bytes end, or no handle is free, or the ring holds none. -/
theorem State.fetchDescs_spec (r n : Nat) : ∀ (s : State) (data : List Byte), ∃ k ≤ min n (data.length / 64),
    (s.fetchDescs r data n).getF RING_COUNTS_FETCHED 0 r = (s.getF RING_COUNTS_FETCHED 0 r + k) % 2 ^ 32 ∧
    (s.fetchDescs r data n).host.turn = s.host.turn ∧ (s.fetchDescs r data n).host.failedRun = s.host.failedRun ∧
    (s.fetchDescs r data n).out.length = s.out.length + k ∧ (s.fetchDescs r data n).mem = s.mem ∧
    (k = min n (data.length / 64) ∨ (s.fetchDescs r data n).handleFree = false ∨ (s.fetchDescs r data n).fetchable r = false) ∧
    (k = 0 → s.fetchDescs r data n = s) := by
  have stay (s : State) : s.getF RING_COUNTS_FETCHED 0 r = (s.getF RING_COUNTS_FETCHED 0 r + 0) % 2 ^ 32 :=
    (Nat.mod_eq_of_lt (s.getF_lt RING_COUNTS_FETCHED 0 r)).symm
  induction n with
  | zero => exact fun s data => ⟨0, Nat.zero_le _, stay s, rfl, rfl, rfl, rfl, .inl (Nat.zero_min _).symm, fun _ => rfl⟩
  | succ n ih =>
    intro s data
    rw [State.fetchDescs_succ]
    split
    · next h =>
      refine ⟨0, Nat.zero_le _, stay s, rfl, rfl, rfl, rfl, ?_, fun _ => rfl⟩
      simp only [Bool.or_eq_true, Bool.not_eq_true', decide_eq_true_eq] at h
      obtain (h | h) | h := h
      · exact .inr (.inl h)
      · exact .inr (.inr h)
      · exact .inl (by rw [Nat.div_eq_of_lt h, Nat.min_zero])
    · next h =>
      simp only [Bool.or_eq_true, Bool.not_eq_true', decide_eq_true_eq, not_or, not_lt] at h
      obtain ⟨k, hk, hf, ht, hr, ho, hm, hend, -⟩ := ih (s.fetchOne r data) (data.drop 64)
      obtain ⟨hf1, ho1, hm1, ht1, hr1⟩ := s.fetchOne_keeps r data
      have hlen : (data.drop 64).length / 64 + 1 = data.length / 64 := by rw [List.length_drop]; omega
      refine ⟨k + 1, by omega, ?_, ht.trans ht1, hr.trans hr1, ?_, hm.trans hm1, ?_, fun h => absurd h (by omega)⟩
      · rw [hf, hf1]; omega
      · rw [ho, ho1, List.length_append, List.length_singleton]; omega
      · exact hend.imp_left fun h => by omega

section
variable {s : State} {data : List Byte} {r : Nat} (ha : s.attached = true) (hw : s.awake = true) (hr : s.power.inReset = false)
  (hs : s.power.stopped = none) (hn : s.nextRing = some r)
include ha hw hr hs hn

theorem execRingFetch_eq : exec (.ringFetch data) s =
    if (s.fetchDescs r data (min 64 (max 1 (s.getF HOST_EXPERT_FETCH_BURST 0 0)))).getF RING_COUNTS_FETCHED 0 r =
      s.getF RING_COUNTS_FETCHED 0 r then .next s
    else .next ((s.fetchDescs r data (min 64 (max 1 (s.getF HOST_EXPERT_FETCH_BURST 0 0)))).setHost fun y =>
      { y with turn := (r + 1) % 64, failedRun := 0 }) := by
  show execRingFetch data s = _
  unfold execRingFetch
  rw [if_neg (by simp [ha, hw, hr, hs]), hn]

/-- The ring in turn is served up to FETCH_BURST descriptors; with none fetched the turn stays. -/
theorem ringFetch_completes : Completes (.ringFetch data) s fun t =>
    ∃ k ≤ min (min 64 (max 1 (s.getF HOST_EXPERT_FETCH_BURST 0 0))) (data.length / 64),
      t.getF RING_COUNTS_FETCHED 0 r = (s.getF RING_COUNTS_FETCHED 0 r + k) % 2 ^ 32 ∧
      t.host.turn = (if k = 0 then s.host.turn else (r + 1) % 64) ∧
      t.host.failedRun = (if k = 0 then s.host.failedRun else 0) ∧ t.out.length = s.out.length + k ∧
      t.mem = s.mem ∧ (k = min (min 64 (max 1 (s.getF HOST_EXPERT_FETCH_BURST 0 0))) (data.length / 64) ∨
        t.handleFree = false ∨ t.fetchable r = false) := by
  obtain ⟨k, hk, hf, -, -, ho, hm, hend, h0⟩ := State.fetchDescs_spec r (min 64 (max 1 (s.getF HOST_EXPERT_FETCH_BURST 0 0))) s data
  rw [Completes, execRingFetch_eq ha hw hr hs hn]
  have hlt : s.getF RING_COUNTS_FETCHED 0 r < 2 ^ 32 := s.getF_lt RING_COUNTS_FETCHED 0 r
  by_cases hz : k = 0
  · rw [h0 hz] at hf ho hend ⊢
    exact ⟨s, if_pos rfl, k, hk, hf, (if_pos hz).symm, (if_pos hz).symm, ho, rfl, hend⟩
  · exact ⟨_, if_neg (by rw [hf]; omega), k, hk, hf, (if_neg hz).symm, (if_neg hz).symm, ho, hm, hend⟩

/-- Where the read gave one descriptor, it is taken. -/
theorem ringFetch_one (hh : s.handleFree = true) (hd : data.length = 64) :
    exec (.ringFetch data) s = .next ((s.fetchOne r data).setHost fun y => { y with turn := (r + 1) % 64, failedRun := 0 }) := by
  have hfetch : s.fetchable r = true := List.find?_some hn
  obtain ⟨m, hm⟩ : ∃ m, min 64 (max 1 (s.getF HOST_EXPERT_FETCH_BURST 0 0)) = m + 1 := ⟨_, (Nat.succ_pred (by omega)).symm⟩
  have hone : s.fetchDescs r data (m + 1) = s.fetchOne r data := by
    rw [State.fetchDescs_succ, if_neg (by simp [hh, hfetch, hd]), State.fetchDescs_short _ _ (by simp [hd])]
  have hlt : s.getF RING_COUNTS_FETCHED 0 r < 2 ^ 32 := s.getF_lt RING_COUNTS_FETCHED 0 r
  rw [execRingFetch_eq ha hw hr hs hn, hm, hone, if_neg (by rw [(s.fetchOne_keeps r data).1]; omega)]

end

/-- The descriptor that a fetch takes. -/
theorem State.fetchOne_desc (s : State) (r : Nat) (data : List Byte) :
    let d := descOf (data.take 64) s.host.uids (r * 2 ^ 26 + s.getF RING_COUNTS_FETCHED 0 r % 2 ^ 25) r (s.ring r).orders
    (descOk (data.take 64) d = true → (s.fetchOne r data).host.descs = s.host.descs ++ [d] ∧ (s.fetchOne r data).host.due = s.host.due) ∧
    (descOk (data.take 64) d = false → ∃ u : State, u.host.descs = s.host.descs ++ [d] ∧ u.host.due = s.host.due ∧
      s.fetchOne r data = u.descDone d.uid stINVALID 0 0) := by
  have hh : ((s.emit .hostRead (s.getF SQ_BASE_BASE 0 r * 4096 + s.getF RING_COUNTS_FETCHED 0 r % s.sqSize r * 64) [r] []).setF
      RING_COUNTS_FETCHED 0 r (s.getF RING_COUNTS_FETCHED 0 r + 1)).host = s.host := State.setF_host ..
  unfold State.fetchOne
  dsimp only
  generalize (s.emit .hostRead (s.getF SQ_BASE_BASE 0 r * 4096 + s.getF RING_COUNTS_FETCHED 0 r % s.sqSize r * 64) [r] []).setF
      RING_COUNTS_FETCHED 0 r (s.getF RING_COUNTS_FETCHED 0 r + 1) = w at hh ⊢
  have hr : w.ring r = s.ring r := by rw [State.ring, hh]; rfl
  have hok := w.takeDesc_ok (data.take 64) (r * 2 ^ 26 + s.getF RING_COUNTS_FETCHED 0 r % 2 ^ 25) r
  have hbad := w.takeDesc_bad (data.take 64) (r * 2 ^ 26 + s.getF RING_COUNTS_FETCHED 0 r % 2 ^ 25) r
  rw [hr, hh] at hok hbad
  exact ⟨hok, hbad⟩

/-! ### The read of a chain (R405) -/

/-- The descriptor that chain c reads is taken. -/
def State.chainTake (s : State) (c : Chain) : State :=
  (s.setRing c.ring { s.ring c.ring with chained := (s.ring c.ring).chained + 1 }).takeDesc (s.bytes c.addr 64)
    (c.ring * 2 ^ 26 + 2 ^ 25 + (s.ring c.ring).chained % 2 ^ 25) c.ring

theorem State.chainTake_desc (s : State) (c : Chain) :
    let d := descOf (s.bytes c.addr 64) s.host.uids (c.ring * 2 ^ 26 + 2 ^ 25 + (s.ring c.ring).chained % 2 ^ 25) c.ring (s.ring c.ring).orders
    (descOk (s.bytes c.addr 64) d = true → (s.chainTake c).host.descs = s.host.descs ++ [d] ∧ (s.chainTake c).host.due = s.host.due) ∧
    (descOk (s.bytes c.addr 64) d = false → ∃ u : State, u.host.descs = s.host.descs ++ [d] ∧ u.host.due = s.host.due ∧
      s.chainTake c = u.descDone d.uid stINVALID 0 0) := by
  have hring : (s.setRing c.ring { s.ring c.ring with chained := (s.ring c.ring).chained + 1 }).ring c.ring =
      { s.ring c.ring with chained := (s.ring c.ring).chained + 1 } := by
    unfold State.ring State.setRing
    rw [State.setHost_host, kget_kset_same]
  have hok := State.takeDesc_ok (s.setRing c.ring { s.ring c.ring with chained := (s.ring c.ring).chained + 1 }) (s.bytes c.addr 64)
    (c.ring * 2 ^ 26 + 2 ^ 25 + (s.ring c.ring).chained % 2 ^ 25) c.ring
  have hbad := State.takeDesc_bad (s.setRing c.ring { s.ring c.ring with chained := (s.ring c.ring).chained + 1 }) (s.bytes c.addr 64)
    (c.ring * 2 ^ 26 + 2 ^ 25 + (s.ring c.ring).chained % 2 ^ 25) c.ring
  rw [hring] at hok hbad
  exact ⟨hok, hbad⟩

section
variable {s : State} {n : Fin 1024} {c : Chain} (hc : s.host.chains[n.val]? = some c) (hh : s.handleFree = true) (hw : s.awake = true)
  (hr : s.power.inReset = false) (hs : s.power.stopped = none) (hf : s.accessHeld c.addr 64 false = false)
include hc hh hw hr hs hf

/-- A chain whose descriptor cannot be read ends with CHAIN_ERR. -/
theorem chainRead_broken (h : s.extentReach c.addr 64 ≠ .ok ∨ s.poisoned c.addr 64 = true) : Completes (.chainRead n) s fun t =>
    t.host.chains = s.host.chains.eraseIdx n.val ∧ t.flag HOST_BLK_STATUS_CHAIN_ERR 0 0 = true ∧ t.host.descs = s.host.descs := by
  refine ⟨(s.setHost fun r => { r with chains := s.host.chains.eraseIdx n.val }).setF HOST_BLK_STATUS_CHAIN_ERR 0 0 1, ?_, ?_, ?_, ?_⟩
  · show execChainRead n s = _
    unfold execChainRead
    rw [hc]
    dsimp only
    rw [if_neg (by simp [hh, hw, hr, hs, hf]), if_pos h]
  · rw [State.setF_host, State.setHost_host]
  · exact State.flag_setF_one _ _ _ _ rfl
  · rw [State.setF_host, State.setHost_host]

/-- A descriptor of a chain is taken; with LAST, and at the limit of records, the chain ends. -/
theorem chainRead_taken (h : s.extentReach c.addr 64 = .ok) (hp : s.poisoned c.addr 64 = false) :
    let d := descOf (s.bytes c.addr 64) s.host.uids (c.ring * 2 ^ 26 + 2 ^ 25 + (s.ring c.ring).chained % 2 ^ 25) c.ring (s.ring c.ring).orders
    Completes (.chainRead n) s fun t =>
      (descOk (s.bytes c.addr 64) d = true → t.host.descs = s.host.descs ++ [d] ∧ t.host.due = s.host.due) ∧
      (descOk (s.bytes c.addr 64) d = false → ∃ u : State, u.host.descs = s.host.descs ++ [d] ∧ u.host.due = s.host.due ∧
        t.host.descs = (u.descDone d.uid stINVALID 0 0).host.descs ∧ t.host.due = (u.descDone d.uid stINVALID 0 0).host.due) ∧
      t.host.chains = (if ((s.bytes c.addr 64).getD 1 0).toNat.testBit 7 ∨ 4096 ≤ c.count + 1 then s.host.chains.eraseIdx n.val
        else s.host.chains.set n.val ⟨c.addr + 64, c.ring, c.count + 1⟩) ∧
      (((s.bytes c.addr 64).getD 1 0).toNat.testBit 7 = false → 4096 ≤ c.count + 1 → t.flag HOST_BLK_STATUS_CHAIN_ERR 0 0 = true) := by
  intro d
  obtain ⟨hok, hbad⟩ := s.chainTake_desc c
  -- whatever becomes of the chain, the descriptors and completions are those of the descriptor taken
  suffices hsuff : ∃ t, exec (.chainRead n) s = .next t ∧ t.host.descs = (s.chainTake c).host.descs ∧ t.host.due = (s.chainTake c).host.due ∧
      t.host.chains = (if ((s.bytes c.addr 64).getD 1 0).toNat.testBit 7 ∨ 4096 ≤ c.count + 1 then s.host.chains.eraseIdx n.val
        else s.host.chains.set n.val ⟨c.addr + 64, c.ring, c.count + 1⟩) ∧
      (((s.bytes c.addr 64).getD 1 0).toNat.testBit 7 = false → 4096 ≤ c.count + 1 → t.flag HOST_BLK_STATUS_CHAIN_ERR 0 0 = true) by
    obtain ⟨t, ht, hd, he, hrest⟩ := hsuff
    refine ⟨t, ht, fun h => by rw [hd, he]; exact hok h, fun h => ?_, hrest⟩
    obtain ⟨u, h1, h2, h3⟩ := hbad h
    exact ⟨u, h1, h2, hd.trans (h3 ▸ rfl), he.trans (h3 ▸ rfl)⟩
  have hx : exec (.chainRead n) s =
      if ((s.bytes c.addr 64).getD 1 0).toNat.testBit 7 then
        .next ((s.chainTake c).setHost fun r => { r with chains := s.host.chains.eraseIdx n.val })
      else if 4096 ≤ c.count + 1 then
        .next (((s.chainTake c).setHost fun r => { r with chains := s.host.chains.eraseIdx n.val }).setF HOST_BLK_STATUS_CHAIN_ERR 0 0 1)
      else .next ((s.chainTake c).setHost fun r => { r with chains := s.host.chains.set n.val ⟨c.addr + 64, c.ring, c.count + 1⟩ }) := by
    show execChainRead n s = _
    unfold execChainRead
    rw [hc]
    dsimp only
    rw [if_neg (by simp [hh, hw, hr, hs, hf]), if_neg (by simp [h, hp])]
    rfl
  split at hx
  · next hl => exact ⟨_, hx, rfl, rfl, (if_pos (.inl hl)).symm, fun hn => by rw [hl] at hn; cases hn⟩
  next hl =>
  split at hx
  · next hm =>
    refine ⟨_, hx, ?_, ?_, ?_, fun _ _ => State.flag_setF_one _ _ _ _ rfl⟩
    · rw [State.setF_host]; rfl
    · rw [State.setF_host]; rfl
    · rw [State.setF_host, if_pos (.inr hm)]; rfl
  · next hm => exact ⟨_, hx, rfl, rfl, (if_neg (not_or.mpr ⟨hl, hm⟩)).symm, fun _ h4 => absurd h4 hm⟩

end

end Sys2Proof.Machine
end

