-- ==== Sys2Proof/Proofs/HostDescriptors.lean ====
section
/-!
PROOFS. Descriptors start: which may, what their dies do, and how one that fails ends (R27, R403, R404, R406, Table 15.4).
-/
namespace Sys2Proof.Machine

open Sys2Proof

/-! ### Which descriptor starts -/

section
variable {s : State} {h : BitVec 32} {op : Nat} {d : Desc} {check : State → Desc → Nat} {act : State → Desc → State}

theorem State.runDesc_none (hd : s.startable h.toNat op = none) : s.runDesc h op check act = .next s := by
  unfold State.runDesc
  rw [hd]

section
variable (hd : s.startable h.toNat op = some d)
include hd

/-- A descriptor of a collapsed step, or of a fenced die, completes with what precedes (R27, R403, R406). -/
theorem State.runDesc_fails (hf : s.collapseDiscards d.step 0 = true ∨ s.dieRunning d.die = false) :
    s.runDesc h op check act = .next ((s.startDesc d.uid).descDone d.uid (statusMax (check (s.startDesc d.uid) d)
      (statusMax (if s.collapseDiscards d.step 0 then stCOLLAPSED else stDONE) (if s.dieRunning d.die then stDONE else stUNREACHABLE))) 0 0) := by
  have hne : statusMax (if s.collapseDiscards d.step 0 then stCOLLAPSED else stDONE) (if s.dieRunning d.die then stDONE else stUNREACHABLE) ≠
      stDONE := by
    cases hc : s.collapseDiscards d.step 0 <;> cases hr : s.dieRunning d.die <;> simp_all <;> decide
  unfold State.runDesc
  rw [hd]
  exact if_pos hne

/-- Any other is acted on. -/
theorem State.runDesc_acts (hc : s.collapseDiscards d.step 0 = false) (hr : s.dieRunning d.die = true) :
    s.runDesc h op check act = .next (act (s.startDesc d.uid) d).afterWork := by
  unfold State.runDesc
  rw [hd]
  dsimp only
  rw [hc, hr]
  exact if_neg (by decide)

end

variable {act : State → Desc → Nat → State}

theorem State.runMasked_none (hd : s.startable h.toNat op = none) : s.runMasked h op act = .next s := by
  unfold State.runMasked
  rw [hd]

theorem State.runMasked_collapsed (hd : s.startable h.toNat op = some d) (hc : s.collapseDiscards d.step 0 = true) :
    s.runMasked h op act = .next ((s.startDesc d.uid).descDone d.uid stCOLLAPSED 0 0) := by
  unfold State.runMasked
  rw [hd]
  exact if_pos hc

/-- One for dies of a mask acts on those that run, and tells the others (R403). -/
theorem State.runMasked_acts (hd : s.startable h.toNat op = some d) (hc : s.collapseDiscards d.step 0 = false) :
    s.runMasked h op act = .next (((((List.range 4).filter fun k => d.mask.testBit k && s.dieRunning k).foldl (fun u k => act u d k)
      (s.startDesc d.uid)).descDone d.uid (if s.deadMask d.mask = 0 then stDONE else stDEGRADED) 0 (s.deadMask d.mask)).afterWork) := by
  unfold State.runMasked
  rw [hd]
  exact if_neg (Bool.eq_false_iff.mp hc)

end

section
variable (s : State) (e : Desc) (op : Nat)

/-- While an earlier one of its ring may start and has not, a descriptor does not start (R404). -/
theorem State.not_startable_of_earlier (h : s.startsBefore e = true) : s.startable e.handle op ≠ some e := by
  intro hs
  have := List.find?_some hs
  simp [h] at this

/-- Nor while the Col link of its die is down (R403). -/
theorem State.not_startable_of_col (hr : s.dieRunning e.die = true) (h : s.getF COL_STATUS_STATE 0 e.die ≠ 0) :
    s.startable e.handle op ≠ some e := by
  intro hs
  have := List.find?_some hs
  simp [hr, h] at this

end

/-! ### LAUNCH (Table 15.4) -/

/-- Whether core g is named by the masks of LAUNCH. -/
def Desc.named (d : Desc) (g : Nat) : Bool := decide (g < 96) && d.a1.testBit (g / 12) && d.a2.testBit (g % 12)

theorem Desc.mem_cores (d : Desc) (g : Nat) : g ∈ d.cores ↔ d.named g = true := by
  simp [Desc.cores, Desc.named, and_assoc]

/-- A core starts at an entry (Table 2.27). -/
def State.launchAt (s : State) (d e g : Nat) : State := (s.setF SPUR_ENTRY_ENTRY d g e).coreRun d g true

/-- What a core that a LAUNCH names has come to: it runs, at the entry. -/
structure State.Launched (s : State) (d e g : Nat) : Prop where
  runs : s.flag CORE_CTRL_RUN d g = true
  halted : s.flag CORE_STATUS_SPUR_HALTED d g = false
  pc : (s.coreOf d g).pc = e % 2 ^ 47 * 2

/-- Core g of die d is as it was. -/
structure CoreKeeps (d g : Nat) (s t : State) : Prop where
  run : t.flag CORE_CTRL_RUN d g = s.flag CORE_CTRL_RUN d g
  halted : t.flag CORE_STATUS_SPUR_HALTED d g = s.flag CORE_STATUS_SPUR_HALTED d g
  core : t.coreOf d g = s.coreOf d g

section
variable (s : State) (d e : Nat) {g : Nat}

/-- The registers of a start that is not refused. -/
def State.launchRegs (s : State) (d e g : Nat) : State :=
  ((s.setF SPUR_ENTRY_ENTRY d g e).setF CORE_CTRL_RUN d g 1).setF CORE_STATUS_SPUR_HALTED d g 0

theorem State.launchRegs_core (s : State) (d e g k : Nat) : (s.launchRegs d e g).core k = s.core k := by
  unfold State.launchRegs
  rw [State.setF_core, State.setF_core, State.setF_core]

theorem State.launchRegs_mem (s : State) (d e g : Nat) : (s.launchRegs d e g).mem = s.mem := by
  unfold State.launchRegs
  rw [State.setF_mem, State.setF_mem, State.setF_mem]

/-- A flag of another register, or of another core, stays. -/
theorem State.flag_setF_ne (s : State) (f k : Fld) (d i j x : Nat) (h : k.reg.addr d j ≠ f.reg.addr d i) :
    (s.setF f d i x).flag k d j = s.flag k d j := by
  rw [State.flag, State.getF_setF_ne (h := h)]
  rfl

theorem State.launchAt_eq (h : s.flag CORE_CTRL_RUN d g = false) :
    s.launchAt d e g = (s.launchRegs d e g).setCore (globalCore d g) { s.core (globalCore d g) with pc := e % 2 ^ 47 * 2 } := by
  have hrun : (s.setF SPUR_ENTRY_ENTRY d g e).flag CORE_CTRL_RUN d g = false := by
    rw [State.flag_setF_ne (h := by simp [Reg.addr, CORE_CTRL_RUN, CORE_CTRL, SPUR_ENTRY_ENTRY, SPUR_ENTRY])]
    exact h
  unfold State.launchAt State.coreRun
  rw [if_pos rfl, if_neg (Bool.eq_false_iff.mp hrun), State.getF_setF _ _ _ _ _ rfl, State.updCore, State.coreOf, ← State.launchRegs,
    State.launchRegs_core]
  rfl

theorem State.launchAt_launched (h : s.flag CORE_CTRL_RUN d g = false) : (s.launchAt d e g).Launched d e g := by
  rw [s.launchAt_eq d e h]
  refine ⟨?_, ?_, ?_⟩
  · rw [State.setCore_flag, State.launchRegs,
      State.flag_setF_ne (h := by simp [Reg.addr, CORE_CTRL_RUN, CORE_CTRL, CORE_STATUS_SPUR_HALTED, CORE_STATUS])]
    exact State.flag_setF_one _ _ _ _ rfl
  · rw [State.setCore_flag, State.launchRegs, State.flag, State.getF_setF _ _ _ _ _ rfl]
    rfl
  · rw [State.coreOf, State.core_setCore]

/-- The start of a core leaves the others of its die, and memory, alone. -/
theorem State.launchAt_keeps (h : s.flag CORE_CTRL_RUN d g = false) {k : Nat} (hk : k ≠ g) :
    CoreKeeps d k s (s.launchAt d e g) := by
  rw [s.launchAt_eq d e h]
  refine ⟨?_, ?_, ?_⟩
  · rw [State.setCore_flag, State.launchRegs,
      State.flag_setF_ne (h := by simp [Reg.addr, CORE_CTRL_RUN, CORE_CTRL, CORE_STATUS_SPUR_HALTED, CORE_STATUS]; omega),
      State.flag_setF_ne (h := by simp [Reg.addr, CORE_CTRL_RUN, CORE_CTRL]; omega),
      State.flag_setF_ne (h := by simp [Reg.addr, CORE_CTRL_RUN, CORE_CTRL, SPUR_ENTRY_ENTRY, SPUR_ENTRY]; omega)]
  · rw [State.setCore_flag, State.launchRegs,
      State.flag_setF_ne (h := by simp [Reg.addr, CORE_STATUS_SPUR_HALTED, CORE_STATUS]; omega),
      State.flag_setF_ne (h := by simp [Reg.addr, CORE_CTRL_RUN, CORE_CTRL, CORE_STATUS_SPUR_HALTED, CORE_STATUS]; omega),
      State.flag_setF_ne (h := by simp [Reg.addr, CORE_STATUS_SPUR_HALTED, CORE_STATUS, SPUR_ENTRY_ENTRY, SPUR_ENTRY]; omega)]
  · have hne : globalCore d k ≠ globalCore d g := by unfold globalCore; omega
    rw [State.coreOf, State.core_setCore_ne _ _ _ _ hne, State.launchRegs_core, State.coreOf]

theorem State.launchAt_mem (h : s.flag CORE_CTRL_RUN d g = false) : (s.launchAt d e g).mem = s.mem := by
  rw [s.launchAt_eq d e h, State.setCore_mem, State.launchRegs_mem]

end

theorem CoreKeeps.launched {d e g : Nat} {s t : State} (k : CoreKeeps d g s t) (h : s.Launched d e g) : t.Launched d e g :=
  ⟨k.run.trans h.runs, k.halted.trans h.halted, by rw [k.core]; exact h.pc⟩

/-- Every core of a list starts, and no other. -/
theorem State.launch_spec (d e : Nat) : ∀ (l : List Nat) (s : State), l.Nodup → (∀ g ∈ l, s.flag CORE_CTRL_RUN d g = false) →
    (∀ g ∈ l, (l.foldl (fun v g => v.launchAt d e g) s).Launched d e g) ∧
    (∀ g ∉ l, CoreKeeps d g s (l.foldl (fun v g => v.launchAt d e g) s)) ∧ (l.foldl (fun v g => v.launchAt d e g) s).mem = s.mem := by
  intro l
  induction l with
  | nil => exact fun s _ _ => ⟨fun _ h => absurd h List.not_mem_nil, fun _ _ => ⟨rfl, rfl, rfl⟩, rfl⟩
  | cons g l ih =>
    intro s hn hl
    obtain ⟨hgl, hn⟩ := List.nodup_cons.mp hn
    have hrun := hl g List.mem_cons_self
    have keeps (k : Nat) (hne : k ≠ g) := s.launchAt_keeps d e hrun hne
    obtain ⟨h1, h2, h3⟩ := ih (s.launchAt d e g) hn fun k hk =>
      (keeps k fun h => hgl (h ▸ hk)).run.trans (hl k (List.mem_cons_of_mem _ hk))
    refine ⟨fun k hk => ?_, fun k hkl => ?_, h3.trans (s.launchAt_mem d e hrun)⟩
    · obtain rfl | hk := List.mem_cons.mp hk
      · exact (h2 k hgl).launched (s.launchAt_launched d e hrun)
      · exact h1 k hk
    · obtain ⟨hne, hkl⟩ := not_or.mp fun h => hkl (List.mem_cons.mpr h)
      have a := keeps k hne
      have b := h2 k hkl
      exact ⟨b.run.trans a.run, b.halted.trans a.halted, b.core.trans a.core⟩

/-- That a descriptor has started decides nothing about what a LAUNCH fails with. -/
theorem State.launchStatus_startDesc (s : State) (d : Desc) (uid : Nat) : (s.startDesc uid).launchStatus d = s.launchStatus d := by
  unfold State.launchStatus
  rw [State.extentReach_congr (s := s) (t := s.startDesc uid) (fun _ _ => rfl) (fun _ => rfl)]
  rfl

/-- A named core that runs refuses a LAUNCH whose entry is reached. -/
theorem State.launchStatus_running {s : State} {d : Desc} (hr : s.extentReach d.a0 2 = .ok)
    (h : ∃ g, d.named g = true ∧ s.flag CORE_CTRL_RUN d.die g = true) : s.launchStatus d = stNORES := by
  obtain ⟨g, hg, hrun⟩ := h
  have hany : (d.cores.any fun g => s.flag CORE_CTRL_RUN d.die g) = true := List.any_eq_true.mpr ⟨g, (d.mem_cores g).mpr hg, hrun⟩
  rw [State.launchStatus, hr, hany]
  rfl

theorem State.launchStatus_unmapped {s : State} {d : Desc} (hr : s.extentReach d.a0 2 = .unmapped) : s.launchStatus d = stINVALID := by
  rw [State.launchStatus, hr]
  cases d.cores.any fun g => s.flag CORE_CTRL_RUN d.die g <;> rfl

theorem State.launchStatus_done {s : State} {d : Desc} (hr : s.extentReach d.a0 2 = .ok ∨ s.extentReach d.a0 2 = .held)
    (h : ∀ g, d.named g = true → s.flag CORE_CTRL_RUN d.die g = false) : s.launchStatus d = stDONE := by
  have hany : (d.cores.any fun g => s.flag CORE_CTRL_RUN d.die g) = false := by
    rw [List.any_eq_false]
    exact fun g hg => by rw [h g ((d.mem_cores g).mp hg)]; exact Bool.false_ne_true
  rw [State.launchStatus, hany]
  obtain hr | hr := hr <;> rw [hr] <;> rfl

/-! ### The commands that run descriptors -/

section
variable (h : BitVec 32) (s : State)

theorem exec_nopDesc : exec (.nopDesc h) s = s.runDesc h 0 noCheck fun u d => u.descDone d.uid stDONE 0 0 := rfl

theorem exec_copy : exec (.copy h) s = s.runDesc h 1 (fun u d => u.sourceStatus d.die (u.copyRequest d)) fun u d =>
    u.remoteIssue noFire d.die (u.copyRequest d) := rfl

theorem exec_descAtomic : exec (.descAtomic h) s = s.runDesc h 2 (fun u d => u.sourceStatus d.die (u.descAtomic d)) fun u d =>
    u.remoteIssue State.fireTrigger d.die (u.descAtomic d) := rfl

theorem exec_launch : exec (.launch h) s = s.runDesc h 3 State.launchStatus fun u d =>
    if u.launchStatus d ≠ stDONE then u.descDone d.uid (u.launchStatus d) 0 0
    else (d.cores.foldl (fun v g => v.launchAt d.die (d.a0 / 2) g) u).descDone d.uid stDONE 0 0 := rfl

theorem exec_update : exec (.update h) s = s.runDesc h 6 noCheck fun u d =>
    (u.requestUpdate (d.a0 % 4096)).descDone d.uid stDONE 0 0 := rfl

theorem exec_exportDesc : exec (.exportDesc h) s = s.runDesc h 7 State.exportStatus fun u d =>
    if u.exportStatus d ≠ stDONE then u.descDone d.uid (u.exportStatus d) 0 0
    else u.setUpd fun v => { v with
      exports := v.exports ++ [⟨u.upd.seq, d.die, none, some d.uid, d.a0 % 2 ^ 48, d.step, false, 0, stDONE, 0, [], 0, []⟩]
      seq := v.seq + 1 } := rfl

theorem exec_position : exec (.position h) s = s.runMasked h 4 fun u d k => u.writePos k d.a0 := rfl

theorem exec_descStepReady : exec (.descStepReady h) s = s.runMasked h 5 fun u d k => u.stepReady k d.a0 := rfl

end

/-- A LAUNCH with a failure of its own completes with it. -/
theorem launch_fails {s : State} {h : BitVec 32} {d : Desc} (hd : s.startable h.toNat 3 = some d) (hc : s.collapseDiscards d.step 0 = false)
    (hr : s.dieRunning d.die = true) {st : Nat} (hst : s.launchStatus d = st) (hne : st ≠ stDONE) :
    exec (.launch h) s = .next ((s.startDesc d.uid).descDone d.uid st 0 0).afterWork := by
  have hu : (s.startDesc d.uid).launchStatus d = st := (s.launchStatus_startDesc d d.uid).trans hst
  refine ((exec_launch h s).trans (State.runDesc_acts hd hc hr)).trans ?_
  rw [hu, if_pos hne]

/-- A LAUNCH that nothing refuses starts the cores that its masks name. -/
theorem launch_completes {s : State} {h : BitVec 32} {d : Desc} (hd : s.startable h.toNat 3 = some d) (hc : s.collapseDiscards d.step 0 = false)
    (hr : s.dieRunning d.die = true) (he : s.extentReach d.a0 2 = .ok ∨ s.extentReach d.a0 2 = .held)
    (hn : ∀ g, d.named g = true → s.flag CORE_CTRL_RUN d.die g = false) :
    CompletesThen (.launch h) s (fun v => (v.descDone d.uid stDONE 0 0).afterWork) fun v =>
      (∀ g, d.named g = true → v.flag CORE_CTRL_RUN d.die g = true ∧ v.flag CORE_STATUS_SPUR_HALTED d.die g = false ∧
        (v.coreOf d.die g).pc = d.a0 / 2 % 2 ^ 47 * 2) ∧
      (∀ g, g < 96 → d.named g = false → v.coreOf d.die g = s.coreOf d.die g) ∧ v.mem = s.mem := by
  obtain ⟨h1, h2, h3⟩ := State.launch_spec d.die (d.a0 / 2) d.cores (s.startDesc d.uid) (List.nodup_range.filter _) fun g hg =>
    hn g ((d.mem_cores g).mp hg)
  have hst : (s.startDesc d.uid).launchStatus d = stDONE := by rw [s.launchStatus_startDesc, State.launchStatus_done he hn]
  have hx := (exec_launch h s).trans (State.runDesc_acts hd hc hr)
  rw [if_neg (not_not.mpr hst)] at hx
  refine ⟨d.cores.foldl (fun v g => v.launchAt d.die (d.a0 / 2) g) (s.startDesc d.uid), hx, fun g hg => ?_, fun g _ hng => ?_, h3⟩
  · obtain ⟨hrun, hhalt, hpc⟩ := h1 g ((d.mem_cores g).mpr hg)
    exact ⟨hrun, hhalt, hpc⟩
  · exact (h2 g fun hm => by rw [(d.mem_cores g).mp hm] at hng; cases hng).core

/-- A command that runs a descriptor: nothing where none may start, and how one fails. -/
theorem exec_runDesc {s : State} {c : Instr} {h : BitVec 32} {op : Nat} {check : State → Desc → Nat} {act : State → Desc → State}
    (hx : exec c s = s.runDesc h op check act) (d : Desc) :
    (s.startable h.toNat op = none → exec c s = .next s) ∧
    (s.startable h.toNat op = some d → (s.collapseDiscards d.step 0 = true ∨ s.dieRunning d.die = false) →
      exec c s = .next ((s.startDesc d.uid).descDone d.uid (statusMax (check (s.startDesc d.uid) d)
        (statusMax (if s.collapseDiscards d.step 0 then stCOLLAPSED else stDONE)
          (if s.dieRunning d.die then stDONE else stUNREACHABLE))) 0 0)) :=
  ⟨fun hd => hx.trans (State.runDesc_none hd), fun hd hf => hx.trans (State.runDesc_fails hd hf)⟩

/-- ORDER waits for every earlier descriptor of its ring (R404). -/
theorem orderRelease_spec {s : State} {h : BitVec 32} {d : Desc} (hd : s.host.descs.find? (fun d => d.handle == h.toNat && !d.released) = some d) :
    (s.host.descs.any (fun x => x.ring == d.ring && decide (x.order < d.order) && !s.completed x.uid) = true →
      exec (.orderRelease h) s = .next s) ∧
    (s.host.descs.any (fun x => x.ring == d.ring && decide (x.order < d.order) && !s.completed x.uid) = false →
      Completes (.orderRelease h) s fun t =>
        (∀ x ∈ t.host.descs, x.uid = d.uid → x.released = true) ∧ t.host.descs.length = s.host.descs.length ∧ t.regs = s.regs) := by
  have hx : exec (.orderRelease h) s =
      if s.host.descs.any fun x => x.ring == d.ring && decide (x.order < d.order) && !s.completed x.uid then .next s
      else .next (s.setHost fun r => { r with descs := r.descs.map fun x => if x.uid = d.uid then { x with released := true } else x }) := by
    show execOrderRelease h s = _
    unfold execOrderRelease
    rw [hd]
  refine ⟨fun hw => hx.trans (if_pos hw), fun hw => ⟨_, hx.trans (if_neg (Bool.eq_false_iff.mp hw)), fun x hm hu => ?_, List.length_map .., rfl⟩⟩
  obtain ⟨y, -, rfl⟩ := List.mem_map.mp hm
  by_cases hy : y.uid = d.uid
  · rw [if_pos hy]
  · rw [if_neg hy] at hu
    exact absurd hu hy

/-- Settles O44: the clauses on fetch, chains, start and LAUNCH are lemmas; the others are branches of `runDesc` and `runMasked`. -/
theorem hostDescriptors : Obligations.HostDescriptors := by
  unfold Obligations.HostDescriptors
  intro s
  refine ⟨fun data hno => ?_, fun data r ha hw hr hs hn => ⟨ringFetch_completes ha hw hr hs hn, fun hh hd => ?_⟩,
    fun n c hc hh hw hr hs hf => ⟨chainRead_broken hc hh hw hr hs hf, chainRead_taken hc hh hw hr hs hf⟩,
    fun h d => ⟨fun p hp => ?_, fun p hp => ?_, fun hc hr => ⟨?_, ?_, ?_, ?_, ?_, ?_⟩, fun hc => ⟨fun hd => ?_, fun hd => ?_⟩,
      fun e he op => s.not_startable_of_earlier e op he, fun e hr he op => s.not_startable_of_col e op hr he, orderRelease_spec⟩⟩
  · show execRingFetch data s = .next s
    unfold execRingFetch
    split
    · rfl
    · next h =>
      obtain h1 | h1 | h1 | h1 | h1 := hno
      · simp [h1] at h
      · simp [h1] at h
      · simp [h1] at h
      · exact absurd (by simp [Option.isSome_iff_ne_none.mpr h1]) h
      · rw [h1]
  · obtain ⟨hf, ho, -, -, -⟩ := s.fetchOne_keeps r data
    obtain ⟨hok, hbad⟩ := s.fetchOne_desc r data
    rw [List.take_of_length_le (Nat.le_of_eq hd)] at hok hbad ⊢
    refine ⟨_, ringFetch_one ha hw hr hs hn hh hd, hf, ho, hok, fun h => ?_⟩
    obtain ⟨u, h1, h2, h3⟩ := hbad h
    exact ⟨u, h1, h2, (congrArg (fun t : State => t.host.descs) h3 :), (congrArg (fun t : State => t.host.due) h3 :)⟩
  · simp only [List.mem_cons, List.not_mem_nil, or_false] at hp
    obtain rfl | rfl | rfl | rfl | rfl | rfl := hp
    · exact exec_runDesc (exec_nopDesc h s) d
    · exact exec_runDesc (exec_copy h s) d
    · exact exec_runDesc (exec_descAtomic h s) d
    · exact exec_runDesc (exec_launch h s) d
    · exact exec_runDesc (exec_update h s) d
    · exact exec_runDesc (exec_exportDesc h s) d
  · simp only [List.mem_cons, List.not_mem_nil, or_false] at hp
    obtain rfl | rfl := hp
    · exact ⟨fun hd => (exec_position h s).trans (State.runMasked_none hd), fun hd hc => (exec_position h s).trans (State.runMasked_collapsed hd hc)⟩
    · exact ⟨fun hd => (exec_descStepReady h s).trans (State.runMasked_none hd),
        fun hd hc => (exec_descStepReady h s).trans (State.runMasked_collapsed hd hc)⟩
  · exact fun hd => (exec_nopDesc h s).trans (State.runDesc_acts hd hc hr)
  · exact fun hd => (exec_copy h s).trans (State.runDesc_acts hd hc hr)
  · exact fun hd => (exec_descAtomic h s).trans (State.runDesc_acts hd hc hr)
  · exact fun hd => ⟨fun he hg => launch_fails hd hc hr (State.launchStatus_running he hg) (by decide),
      fun he => launch_fails hd hc hr (State.launchStatus_unmapped he) (by decide), launch_completes hd hc hr⟩
  · exact fun hd => (exec_update h s).trans (State.runDesc_acts hd hc hr)
  · refine fun hd => ⟨fun he => ((exec_exportDesc h s).trans (State.runDesc_acts hd hc hr)).trans ?_, fun he =>
      ⟨_, (exec_exportDesc h s).trans (State.runDesc_acts hd hc hr), ?_⟩⟩
    · rw [if_pos he]
    · rw [if_neg (not_not.mpr he)]
      exact ⟨rfl, rfl, rfl⟩
  · exact (exec_position h s).trans (State.runMasked_acts hd hc)
  · exact (exec_descStepReady h s).trans (State.runMasked_acts hd hc)

end Sys2Proof.Machine
end

