-- ==== Sys2Proof/Proofs/RegisterFields.lean ====
section
/-!
PROOFS. What a plain write to a set-up register stores, field by field, and what an access error records (R11, R12, R503, Table 0.3).
-/
namespace Sys2Proof.Machine

open Sys2Proof

/-! ### Fields by their access codes -/

/-- The fields of a register table fit their register and share no bit. -/
def RegRow.tiled (r : RegRow) : Bool :=
  (r.rows.all fun f => f.fld.fits) && decide (r.rows.Pairwise fun f g => f.fld.apart g.fld = true)

theorem regTable_tiled : ∀ r ∈ regTable, r.tiled = true := by decide +kernel

theorem Fld.apart_comm (f g : Fld) : f.apart g = g.apart f := Bool.or_comm ..

/-- What a field takes fits it. -/
theorem FldRow.written_lt (r : FldRow) (old w : Word) : r.written old w < 2 ^ (r.hi + 1 - r.lo) := by
  have h (v : Word) : r.fld.get v < 2 ^ (r.hi + 1 - r.lo) := by
    unfold Fld.get bits
    exact Nat.mod_lt _ (by positivity)
  unfold FldRow.written
  split
  · exact h w
  · exact lt_of_le_of_lt Nat.and_le_left (h old)
  · exact h old

/-- Each field of a written register holds what it takes. -/
theorem writeFields_get {rows : List FldRow} (hf : ∀ f ∈ rows, f.fld.fits = true)
    (ha : rows.Pairwise fun f g => f.fld.apart g.fld = true) (old w : Word) :
    ∀ f ∈ rows, f.fld.get (writeFields rows old w) = f.written old w := by
  -- a field that no later one touches keeps what it holds
  have keep (l : List FldRow) (g : FldRow) (hg : g.fld.fits = true) : (∀ f ∈ l, f.fld.fits = true ∧ f.fld.apart g.fld = true) →
      ∀ v, g.fld.get (l.foldl (fun v r => r.fld.put v (r.written old w)) v) = g.fld.get v := by
    induction l with
    | nil => exact fun _ _ => rfl
    | cons f l ih =>
      intro hl v
      obtain ⟨hf, ha⟩ := hl f List.mem_cons_self
      rw [List.foldl_cons, ih (fun k hk => hl k (List.mem_cons_of_mem _ hk)), Fld.get_put_apart _ _ _ _ hf hg ha]
  have main (l : List FldRow) : (∀ f ∈ l, f.fld.fits = true) → l.Pairwise (fun f g => f.fld.apart g.fld = true) → ∀ v, ∀ f ∈ l,
      f.fld.get (l.foldl (fun v r => r.fld.put v (r.written old w)) v) = f.written old w := by
    induction l with
    | nil => exact fun _ _ _ _ h => absurd h List.not_mem_nil
    | cons g l ih =>
      intro hfit hpair v f hm
      obtain ⟨hg, hpair⟩ := List.pairwise_cons.mp hpair
      rw [List.foldl_cons]
      obtain rfl | hm := List.mem_cons.mp hm
      · rw [keep l f (hfit f List.mem_cons_self) fun k hk => ⟨hfit k (List.mem_cons_of_mem _ hk), by rw [Fld.apart_comm]; exact hg k hk⟩,
          Fld.get_put _ _ _ (hfit f List.mem_cons_self)]
        exact Nat.mod_eq_of_lt (f.written_lt old w)
      · exact ih (fun k hk => hfit k (List.mem_cons_of_mem _ hk)) hpair _ f hm
  exact main rows hf ha old

/-- A plain write stores in every field of its register what the field takes, and changes no other register. -/
theorem State.plainWrite_spec (s : State) {row : RegRow} (hrow : row ∈ regTable) (d i : Nat) (w : Word) :
    (∀ f ∈ row.rows, f.fld.get ((s.plainWrite row d i w).reg row.reg d i) = f.written (s.reg row.reg d i) w) ∧
    (∀ r e j, Reg.addr r e j ≠ row.reg.addr d i → (s.plainWrite row d i w).reg r e j = s.reg r e j) := by
  have ht := regTable_tiled row hrow
  simp only [RegRow.tiled, Bool.and_eq_true, List.all_eq_true, decide_eq_true_eq] at ht
  obtain ⟨hf, ha⟩ := ht
  refine ⟨fun f hm => ?_, fun r e j h => s.reg_setReg_ne _ _ _ _ _ _ _ h⟩
  unfold State.plainWrite
  rw [State.reg_setReg]
  exact writeFields_get hf ha _ _ f hm

/-! ### Access errors (R503, R506, R512) -/

/-- A refused write's error bit, and its offset where none was recorded yet, and nothing else. -/
structure State.Refuses (f : Fld) (o : Nat) (s t : State) : Prop where
  err : t.flag f 0 0 = true
  valid : t.flag GLOBAL_STATUS_FIRST_VALID 0 0 = true
  first : t.getF GLOBAL_STATUS_FIRST_OFFSET 0 0 =
    if s.flag GLOBAL_STATUS_FIRST_VALID 0 0 then s.getF GLOBAL_STATUS_FIRST_OFFSET 0 0 else o
  regs : ∀ r d i, Reg.addr r d i ≠ GLOBAL_STATUS.addr 0 0 → t.reg r d i = s.reg r d i
  mem : t.mem = s.mem
  out : t.out = s.out
  power : t.power = s.power

/-- An error bit of GLOBAL_STATUS: below the first offset. -/
structure Fld.IsAccessError (f : Fld) : Prop where
  reg : f.reg = GLOBAL_STATUS
  fits : f.fits = true
  low : f.hi < 32

namespace State
variable {s t : State} {f : Fld} {o : Nat}

/-- Another flag of a register is as it was. -/
theorem flag_setF_apart (s : State) (f g : Fld) (d i x : Nat) (hr : g.reg = f.reg) (hf : f.fits = true) (hg : g.fits = true)
    (ha : f.apart g = true) : (s.setF f d i x).flag g d i = s.flag g d i := by
  rw [State.flag, s.getF_setF_apart f g d i x hr hf hg ha]
  rfl

theorem accessError_refuses (s : State) (hf : f.IsAccessError) (ho : o < 0x100000) : s.Refuses f o (s.accessError f o) := by
  obtain ⟨hr, hfit, hlow⟩ := hf
  have apart (g : Fld) (hg : 32 ≤ g.lo) : f.apart g = true := by
    simp only [Fld.apart, Bool.or_eq_true, decide_eq_true_eq]
    omega
  have apart' (g : Fld) (hg : 32 ≤ g.lo) : g.apart f = true := by rw [Fld.apart_comm]; exact apart g hg
  have hvalid : (s.setF f 0 0 1).flag GLOBAL_STATUS_FIRST_VALID 0 0 = s.flag GLOBAL_STATUS_FIRST_VALID 0 0 :=
    s.flag_setF_apart _ _ _ _ _ hr.symm hfit rfl (apart _ (by decide))
  have hother (u : State) (g : Fld) (x : Nat) (hg : g.reg = GLOBAL_STATUS) (r : Reg) (d i : Nat) (h : r.addr d i ≠ GLOBAL_STATUS.addr 0 0) :
      (u.setF g 0 0 x).reg r d i = u.reg r d i := u.reg_setReg_ne _ _ _ _ _ _ _ (by rw [hg]; exact h)
  unfold State.accessError
  dsimp only
  rw [hvalid]
  cases hv : s.flag GLOBAL_STATUS_FIRST_VALID 0 0 with
  | true =>
    rw [if_pos rfl]
    exact ⟨flag_setF_one _ _ _ _ hfit, hvalid.trans hv, by
      rw [hv, if_pos rfl]
      exact s.getF_setF_apart _ _ _ _ _ hr.symm hfit rfl (apart _ (by decide)), fun r d i h => hother _ _ _ hr r d i h,
      State.setF_mem .., State.setF_out .., State.setF_power ..⟩
  | false =>
    rw [if_neg Bool.false_ne_true]
    refine ⟨?_, ?_, ?_, fun r d i h => ?_, ?_, ?_, ?_⟩
    · rw [flag_setF_apart _ _ _ _ _ _ hr rfl hfit (apart' _ (by decide)), flag_setF_apart _ _ _ _ _ _ hr rfl hfit (apart' _ (by decide))]
      exact flag_setF_one _ _ _ _ hfit
    · rw [flag_setF_apart _ GLOBAL_STATUS_FIRST_OFFSET GLOBAL_STATUS_FIRST_VALID _ _ _ rfl rfl rfl rfl]
      exact flag_setF_one _ _ _ _ rfl
    · rw [hv, if_neg Bool.false_ne_true, State.getF_setF _ _ _ _ _ rfl]
      exact Nat.mod_eq_of_lt ho
    · rw [hother _ _ _ rfl r d i h, hother _ _ _ rfl r d i h, hother _ _ _ hr r d i h]
    · rw [State.setF_mem, State.setF_mem, State.setF_mem]
    · rw [State.setF_out, State.setF_out, State.setF_out]
    · rw [State.setF_power, State.setF_power, State.setF_power]

/-- A second error at the same offset records nothing more. -/
theorem Refuses.trans {u : State} (h : s.Refuses f o t) (k : t.Refuses f o u) : s.Refuses f o u where
  err := k.err
  valid := k.valid
  first := by rw [k.first, h.valid, if_pos rfl, h.first]
  regs r d i hr := (k.regs r d i hr).trans (h.regs r d i hr)
  mem := k.mem.trans h.mem
  out := k.out.trans h.out
  power := k.power.trans h.power

/-- The states of the dies are no part of GLOBAL_STATUS. -/
theorem Refuses.dieRunning (h : s.Refuses f o t) {d : Nat} : t.dieRunning d = s.dieRunning d := by
  unfold State.dieRunning State.getF
  rw [h.regs _ _ _ (by simp [Reg.addr, DIE_STATE_STATE, DIE_STATE, GLOBAL_STATUS]; omega),
    h.regs _ _ _ (by simp [Reg.addr, STATE_STATUS_STATE, STATE_STATUS, GLOBAL_STATUS]), h.power]

/-- A command that answers with an access error completes so. -/
theorem Refuses.completes {c : Instr} (h : s.Refuses f o t) (hc : exec c s = .next t) : Completes c s fun t =>
    t.flag f 0 0 = true ∧ t.flag GLOBAL_STATUS_FIRST_VALID 0 0 = true ∧
    t.getF GLOBAL_STATUS_FIRST_OFFSET 0 0 =
      (if s.flag GLOBAL_STATUS_FIRST_VALID 0 0 then s.getF GLOBAL_STATUS_FIRST_OFFSET 0 0 else o) ∧
    (∀ r d i, Reg.addr r d i ≠ GLOBAL_STATUS.addr 0 0 → t.reg r d i = s.reg r d i) ∧ t.mem = s.mem ∧ t.out = s.out :=
  ⟨t, hc, h.err, h.valid, h.first, h.regs, h.mem, h.out⟩

end State

theorem accessErr_isAccessError : GLOBAL_STATUS_ACCESS_ERR.IsAccessError := ⟨rfl, rfl, by decide⟩

theorem dieAccessErr_isAccessError : GLOBAL_STATUS_DIE_ACCESS_ERR.IsAccessError := ⟨rfl, rfl, by decide⟩

theorem lockErr_isAccessError : GLOBAL_STATUS_LOCK_ERR.IsAccessError := ⟨rfl, rfl, by decide⟩

end Sys2Proof.Machine
end

