-- ==== Sys2Proof/Proofs/SetupWrites.lean ====
section
/-!
PROOFS. Set-up writes: what is taken, what is refused and how, MODE presets, the broadcast window (R12, R18 to R23, R502 to R512).
-/
namespace Sys2Proof.Machine

open Sys2Proof

/-! ### Register writes -/

section
variable {s : State} {v : Word} (hr : s.power.inReset = false)
include hr

/-- A write outside the windows with layouts of their own that is not 8 aligned bytes is an access error (R503). -/
theorem registerWrite_misshapen {o : Fin 0x100000} {n : Fin 65} (hc : o.val < 0x40000 ∨ 0x50000 ≤ o.val) (hm : o.val < 0x28000 ∨ 0x28808 ≤ o.val)
    (h : n.val ≠ 8 ∨ o.val % 8 ≠ 0) : exec (.registerWrite o n v) s = .next (s.accessError GLOBAL_STATUS_ACCESS_ERR o) := by
  show execRegisterWrite o n v s = _
  unfold execRegisterWrite
  dsimp only
  rw [if_neg (Bool.eq_false_iff.mp hr), if_neg (by omega), if_neg (by omega), if_neg (by omega), if_pos h]

/-- The component registers of the link are no part of the model. -/
theorem registerWrite_component {o : Fin 0x100000} {n : Fin 65} (h1 : 0x40000 ≤ o.val) (h2 : o.val < 0x50000) :
    exec (.registerWrite o n v) s = .refused .cxlComponentRegister := by
  show execRegisterWrite o n v s = _
  unfold execRegisterWrite
  dsimp only
  rw [if_neg (Bool.eq_false_iff.mp hr), if_pos ⟨h1, h2⟩]

/-- An 8-byte write of the broadcast window is a broadcast write (R508). -/
theorem registerWrite_broadcast {o : Fin 0x100000} (h1 : 0x60000 ≤ o.val) (h2 : o.val < 0x80000) (h8 : o.val % 8 = 0) {x : Fin 0x4000}
    (hx : x.val = (o.val - 0x60000) / 8) : exec (.registerWrite o 8 v) s = exec (.broadcastWrite x v) s := by
  have hoff : o.val - 0x60000 = x.val * 8 := by omega
  show execRegisterWrite o 8 v s = execBroadcastWrite x v s
  have h8' : (8 : Fin 65).val = 8 := rfl
  unfold execRegisterWrite execBroadcastWrite
  dsimp only
  rw [if_neg (Bool.eq_false_iff.mp hr), if_neg (by omega), if_neg (by omega), if_neg (by omega), if_neg (by omega), if_pos ⟨h1, h2⟩,
    if_neg (Bool.eq_false_iff.mp hr), hoff]

/-- Any other is a write of one register. -/
theorem registerWrite_register {o : Fin 0x100000} (h8 : o.val % 8 = 0) (hm : o.val < 0x28000 ∨ 0x28808 ≤ o.val)
    (hc : o.val < 0x40000 ∨ 0x50000 ≤ o.val) (hb : o.val < 0x60000 ∨ 0x80000 ≤ o.val) :
    exec (.registerWrite o 8 v) s = s.writeReg o v := by
  have h8' : (8 : Fin 65).val = 8 := rfl
  show execRegisterWrite o 8 v s = _
  unfold execRegisterWrite
  dsimp only
  rw [if_neg (Bool.eq_false_iff.mp hr), if_neg (by omega), if_neg (by omega), if_neg (by omega), if_neg (by omega), if_neg (by omega)]

/-- A word of the MSI-X table other than a vector control is stored (R504). -/
theorem registerWrite_msix {k : Fin 256} (hk : k.val % 4 ≠ 3) {o : Fin 0x100000} (ho : o.val = 0x28000 + 4 * k.val) :
    exec (.registerWrite o 4 v) s = .next (s.setHost fun r => { r with msix := kset 0 r.msix k.val (wfld v 31 0) }) := by
  have h4 : (4 : Fin 65).val = 4 := rfl
  have hk' : (o.val - 0x28000) / 4 = k.val := by omega
  show execRegisterWrite o 4 v s = _
  unfold execRegisterWrite
  dsimp only
  rw [if_neg (Bool.eq_false_iff.mp hr), if_neg (by omega), if_pos (by rw [h4]; omega), State.writeMsix, if_neg (by omega), hk', State.writeMsixWord,
    if_neg (fun h => hk h.1), if_neg hk]

end

/-! ### One register -/

section
variable {s : State} {o : Nat} {v : Word}

/-- A register of a die that does not run is not reached (R506). -/
theorem State.writeReg_dead (h : s.regionLive o = false) : s.writeReg o v = .next (s.accessError GLOBAL_STATUS_DIE_ACCESS_ERR o) := by
  unfold State.writeReg
  rw [h]
  rfl

variable (h : s.regionLive o = true)
include h

/-- An offset that no register has is an access error (R503). -/
theorem State.writeReg_unmapped (hf : findReg o = none) : s.writeReg o v = .next (s.accessError GLOBAL_STATUS_ACCESS_ERR o) := by
  unfold State.writeReg
  rw [h, hf]
  rfl

variable {row : RegRow} {d i : Nat} (hf : findReg o = some (row, d, i))
include hf

/-- A locked register refuses (R512). -/
theorem State.writeReg_locked (hl : s.setupLocked row.reg = true) : s.writeReg o v = .next (s.accessError GLOBAL_STATUS_LOCK_ERR o) := by
  unfold State.writeReg
  rw [h, hf]
  exact if_pos hl

/-- A reserved field written other than 0 faults, and else the register's block takes the write (R12). -/
theorem State.writeReg_open (hl : s.setupLocked row.reg = false) :
    s.writeReg o v = if rsvClean row.rows v then .next (s.writeRow row d i v) else .fault .reservedFieldWritten := by
  unfold State.writeReg
  rw [h, hf]
  dsimp only
  rw [if_neg (by decide), if_neg (Bool.eq_false_iff.mp hl)]
  cases rsvClean row.rows v <;> rfl

end

theorem rsvClean_iff (rows : List FldRow) (v : Word) : rsvClean rows v = true ↔ ∀ f ∈ rows, f.acc = .rsv → f.fld.get v = 0 := by
  simp only [rsvClean, List.all_eq_true, Bool.or_eq_true, bne_iff_ne, beq_iff_eq, ne_eq, ← imp_iff_not_or]

/-- The registers of other blocks whose writes only set fields. -/
def plainRegs : List Reg := [SPUR_ENTRY, ARG0, ARG1, ARG2, TRAIL_ACCESS, HINT_TABLE, TRAV_HEAD, ST_SAVE_BASE]

/-- A register of the table, with its die and index. -/
theorem findReg_spec {o : Nat} {row : RegRow} {d i : Nat} (h : findReg o = some (row, d, i)) :
    row ∈ regTable ∧ d = dieOfOffset o ∧ (row.reg.perDie = true ∨ o < 0x80000) := by
  unfold findReg at h
  dsimp only at h
  split at h
  · cases h
  · obtain ⟨e, he, hi⟩ := Option.bind_eq_some_iff.mp h
    have hm := List.mem_of_find?_eq_some he
    have hp := List.find?_some he
    simp only [Bool.and_eq_true, Bool.or_eq_true, decide_eq_true_eq] at hp
    split at hi
    · split at hi
      · cases hi
      · cases hi
        exact ⟨hm, rfl, hp.1⟩
    · cases hi

/-- Registers of the security, power and self-test blocks are the package's. -/
theorem regTable_package : ∀ r ∈ regTable, r.reg.blk ∈ [.sec, .pwr, .st] → r.reg.perDie = false := by decide +kernel

theorem findReg_package {o : Nat} {row : RegRow} {d i : Nat} (h : findReg o = some (row, d, i)) (hb : row.reg.blk ∈ [.sec, .pwr, .st]) :
    d = 0 := by
  obtain ⟨hrow, hd, ho⟩ := findReg_spec h
  rw [regTable_package row hrow hb] at ho
  obtain ho | ho := ho
  · cases ho
  · rw [hd, dieOfOffset, if_neg (by omega)]

/-- Writes of these registers set their fields and do nothing else. -/
theorem State.writeRow_plain (s : State) {row : RegRow} {d i : Nat} (hzero : row.reg.blk ∈ [.sec, .pwr, .st] → d = 0) (v : Word)
    (hp : (row.reg.blk ∈ [.flag, .sec, .pwr] ∧ row.reg ≠ row.reg.blk.mode ∧ row.reg.blk.expert ≠ some row.reg) ∨ row.reg ∈ plainRegs) :
    s.writeRow row d i v = s.plainWrite row d i v := by
  obtain ⟨hb, hm, he⟩ | hr := hp
  · unfold State.writeRow
    dsimp only
    rw [if_neg hm, if_neg he]
    simp only [List.mem_cons, List.not_mem_nil, or_false] at hb
    obtain hb | hb | hb := hb
    · rw [hb]
    · rw [hzero (by simp [hb]), hb]
    · rw [hzero (by simp [hb]), hb]
  · simp only [plainRegs, List.mem_cons, List.not_mem_nil, or_false] at hr
    unfold State.writeRow
    dsimp only
    obtain hr | hr | hr | hr | hr | hr | hr | hr := hr <;> rw [hr, if_neg (by decide), if_neg (by decide)]
    · exact if_neg (by rw [hr]; decide)
    iterate 3
      · show s.writeCon row d i v false = _
        rw [State.writeCon, if_neg (by rw [hr]; decide), if_neg (by rw [hr]; decide), if_neg (by rw [hr]; decide)]
    · exact if_neg (by rw [hr]; decide)
    · show s.writeSb row d i v = _
      unfold State.writeSb
      dsimp only
      rw [if_neg (by rw [hr]; decide), if_neg (by rw [hr]; simp [HINT_TABLE, SB_BANK0, SB_BANK1])]
    · exact if_neg (by rw [hr]; simp [TRAV_HEAD, EXPERT_MAP, TRAV_RING])
    · rw [hzero (by simp [hr, ST_SAVE_BASE])]
      exact if_neg (by rw [hr]; decide)

/-! ### The broadcast window (R508) -/

/-- A broadcast write on one die: taken where the die runs. -/
def State.broadcastTo (row : RegRow) (i : Nat) (v : Word) (o : Nat) (s : State) (d : Nat) : State :=
  if s.dieRunning d then s.writeRow row d i v else s.accessError GLOBAL_STATUS_DIE_ACCESS_ERR o

section
variable {s : State} {x : Fin 0x4000} {v : Word} (hr : s.power.inReset = false)
include hr

theorem exec_broadcastWrite : exec (.broadcastWrite x v) s = s.broadcast (x.val * 8) v :=
  if_neg (Bool.eq_false_iff.mp hr)

/-- An offset that no register of a die region has is an access error. -/
theorem broadcastWrite_unmapped (hf : findReg (0x80000 + x.val * 8) = none) :
    exec (.broadcastWrite x v) s = .next (s.accessError GLOBAL_STATUS_ACCESS_ERR (0x60000 + x.val * 8)) := by
  rw [exec_broadcastWrite hr, State.broadcast, hf]

variable {row : RegRow} {d i : Nat} (hf : findReg (0x80000 + x.val * 8) = some (row, d, i))
include hf

theorem broadcastWrite_locked (hl : s.setupLocked row.reg = true) :
    exec (.broadcastWrite x v) s = .next (s.accessError GLOBAL_STATUS_LOCK_ERR (0x60000 + x.val * 8)) := by
  rw [exec_broadcastWrite hr, State.broadcast, hf]
  exact if_pos hl

/-- A value without reserved bits goes to each die in turn. -/
theorem broadcastWrite_open (hl : s.setupLocked row.reg = false) (hv : ∀ f ∈ row.rows, f.acc = .rsv → f.fld.get v = 0) :
    exec (.broadcastWrite x v) s = .next ((List.range 4).foldl (State.broadcastTo row i v (0x60000 + x.val * 8)) s) := by
  rw [exec_broadcastWrite hr, State.broadcast, hf]
  dsimp only
  rw [if_neg (Bool.eq_false_iff.mp hl), (rsvClean_iff _ _).mpr hv]
  rfl

end

/-- Where no die runs, each sets the error bit. -/
theorem State.broadcast_refuses {s : State} (hd : ∀ d < 4, s.dieRunning d = false) (row : RegRow) (i : Nat) (v : Word) {o : Nat}
    (ho : o < 0x100000) : s.Refuses GLOBAL_STATUS_DIE_ACCESS_ERR o ((List.range 4).foldl (State.broadcastTo row i v o) s) := by
  have step (u : State) {d : Nat} (h : u.dieRunning d = false) : u.Refuses GLOBAL_STATUS_DIE_ACCESS_ERR o (u.broadcastTo row i v o d) := by
    rw [State.broadcastTo, if_neg (Bool.eq_false_iff.mp h)]
    exact u.accessError_refuses dieAccessErr_isAccessError ho
  have fold (l : List Nat) : (∀ d ∈ l, d < 4) → ∀ u, s.Refuses GLOBAL_STATUS_DIE_ACCESS_ERR o u →
      s.Refuses GLOBAL_STATUS_DIE_ACCESS_ERR o (l.foldl (State.broadcastTo row i v o) u) := by
    induction l with
    | nil => exact fun _ _ h => h
    | cons d l ih =>
      intro hl u h
      exact ih (fun k hk => hl k (List.mem_cons_of_mem _ hk)) _
        (h.trans (step u (h.dieRunning.trans (hd d (hl d List.mem_cons_self)))))
  rw [show List.range 4 = 0 :: [1, 2, 3] from rfl, List.foldl_cons]
  exact fold [1, 2, 3] (by decide) _ (step s (hd 0 (by decide)))

/-- The registers of the die regions lie above the package's (R502). -/
theorem regTable_perDie : ∀ r ∈ regTable, r.reg.perDie = true → 0x80000 ≤ r.reg.off := by decide +kernel

/-- A plain register of the die regions takes a broadcast on each die that runs. -/
theorem State.broadcast_taken {s : State} {row : RegRow} (hrow : row ∈ regTable) (hp : row.reg.perDie = true) (i : Nat) (v : Word) {o : Nat}
    (ho : o < 0x100000) (hw : ∀ (u : State) (d : Nat), u.writeRow row d i v = u.plainWrite row d i v) :
    ∀ d < 4, s.dieRunning d = true → ∀ f ∈ row.rows, f.acc = .rw →
      f.fld.get (((List.range 4).foldl (State.broadcastTo row i v o) s).reg row.reg d i) = f.fld.get v := by
  have hoff := regTable_perDie row hrow hp
  have haddr (d : Nat) : 0x80000 ≤ row.reg.addr d i := by unfold Reg.addr; omega
  -- a die's write leaves the states of the dies, and the registers of the others
  have runs (u : State) (d e : Nat) (he : e < 4) : (u.broadcastTo row i v o d).dieRunning e = u.dieRunning e := by
    unfold State.broadcastTo
    split
    · have hd := haddr d
      obtain ⟨-, hreg⟩ := u.plainWrite_spec hrow d i v
      rw [hw]
      unfold State.dieRunning State.getF
      rw [hreg _ _ _ (by simp [Reg.addr, DIE_STATE_STATE, DIE_STATE] at hd ⊢; omega),
        hreg _ _ _ (by simp [Reg.addr, STATE_STATUS_STATE, STATE_STATUS] at hd ⊢; omega)]
      rfl
    · exact (u.accessError_refuses dieAccessErr_isAccessError ho).dieRunning
  have others (u : State) (d e : Nat) (he : e ≠ d) : (u.broadcastTo row i v o d).reg row.reg e i = u.reg row.reg e i := by
    unfold State.broadcastTo
    split
    · rw [hw]
      exact (u.plainWrite_spec hrow d i v).2 _ _ _ (by unfold Reg.addr; rw [hp]; simp; omega)
    · have hd := haddr e
      exact (u.accessError_refuses dieAccessErr_isAccessError ho).regs _ _ _ (by simp [Reg.addr, GLOBAL_STATUS] at hd ⊢; omega)
  have takes (u : State) (d : Nat) (hd : u.dieRunning d = true) : ∀ f ∈ row.rows, f.acc = .rw →
      f.fld.get ((u.broadcastTo row i v o d).reg row.reg d i) = f.fld.get v := by
    intro f hf ha
    rw [State.broadcastTo, if_pos hd, hw, (u.plainWrite_spec hrow d i v).1 f hf, FldRow.written, ha]
  have rest (l : List Nat) (e : Nat) (he : e ∉ l) : ∀ u : State,
      (l.foldl (State.broadcastTo row i v o) u).reg row.reg e i = u.reg row.reg e i := by
    induction l with
    | nil => exact fun _ => rfl
    | cons d l ih =>
      obtain ⟨hne, hl⟩ := not_or.mp fun h => he (List.mem_cons.mpr h)
      exact fun u => (ih hl _).trans (others u d e hne)
  have fold (l : List Nat) : l.Nodup → (∀ d ∈ l, d < 4) → ∀ u : State, ∀ d ∈ l, u.dieRunning d = true → ∀ f ∈ row.rows, f.acc = .rw →
      f.fld.get ((l.foldl (State.broadcastTo row i v o) u).reg row.reg d i) = f.fld.get v := by
    induction l with
    | nil => exact fun _ _ _ _ h => absurd h List.not_mem_nil
    | cons k l ih =>
      intro hn h4 u d hd hrun f hf ha
      obtain ⟨hk, hn⟩ := List.nodup_cons.mp hn
      rw [List.foldl_cons]
      obtain rfl | hd := List.mem_cons.mp hd
      · rw [rest l d hk]
        exact takes u d hrun f hf ha
      · have h4' := fun e he => h4 e (List.mem_cons_of_mem _ he)
        exact ih hn h4' _ d hd ((runs u k d (h4' d hd)).trans hrun) f hf ha
  exact fun d hd => fold (List.range 4) List.nodup_range (fun e he => List.mem_range.mp he) s d (List.mem_range.mpr hd)

/-! ### MODE presets (R18 to R23, R510) -/

namespace Blk

theorem mode_addr_lt (b : Blk) : ∀ d < 4, b.mode.addr d 0 < 0x100000 := by cases b <;> decide

theorem presetErr_fits (b : Blk) : b.presetErr.fits = true := by cases b <;> rfl

theorem mode_ne_presetErr (b : Blk) : ∀ d < 4, b.mode.addr d 0 ≠ b.presetErr.reg.addr d 0 := by cases b <;> decide

theorem expert_ne_presetErr (b : Blk) : ∀ d < 4, ∀ r ∈ b.expert, r.addr d 0 ≠ b.presetErr.reg.addr d 0 := by cases b <;> decide

theorem mode_ne_expert (b : Blk) : ∀ d < 4, ∀ r ∈ b.expert, b.mode.addr d 0 ≠ r.addr d 0 := by cases b <;> decide

end Blk

/-- A written MODE value of PRESET p and EXPERT e reads back its PRESET. -/
theorem wfld_mode (e : Bool) {p : Nat} (hp : p < 256) : wfld (BitVec.ofNat 64 (b2n e * 65536 + p)) 7 0 = p := by
  unfold wfld bits
  rw [BitVec.toNat_ofNat, Nat.shiftRight_zero]
  cases e <;> simp only [b2n, if_true, Bool.false_eq_true, if_false] <;> omega

/-- A listed preset in the MODE register, and in the expert register what it implies. -/
def State.loadPreset (s : State) (b : Blk) (d : Nat) (w : Word) (p : Nat) : State :=
  match b.expert with
  | none => s.setReg b.mode d 0 w
  | some e => (s.setReg b.mode d 0 w).setReg e d 0 (BitVec.ofNat 64 p)

section
variable (s : State) {b : Blk} {d : Nat} {w : Word} (hd : d < 4)
include hd

/-- An unlisted preset is refused, and changes neither register (R23). -/
theorem State.writeMode_unlisted (hx : ∀ x ∈ b.presets d, x.1 ≠ wfld w 7 0) :
    (s.writeMode b d w).flag b.presetErr d 0 = true ∧ (s.writeMode b d w).reg b.mode d 0 = s.reg b.mode d 0 ∧
    (s.writeMode b d w).mem = s.mem ∧ (s.writeMode b d w).out = s.out ∧
    ∀ r, b.expert = some r → (s.writeMode b d w).reg r d 0 = s.reg r d 0 := by
  have hn : ((b.presets d).find? fun p => p.1 == wfld w 7 0) = none := by
    rw [List.find?_eq_none]
    exact fun x hm => by simpa using hx x hm
  have hw : s.writeMode b d w = s.setF b.presetErr d 0 1 := by
    unfold State.writeMode
    rw [hn]
  rw [hw]
  exact ⟨State.flag_setF_one _ _ _ _ b.presetErr_fits, s.reg_setReg_ne _ _ _ _ _ _ _ (b.mode_ne_presetErr d hd), State.setF_mem ..,
    State.setF_out .., fun r hr => s.reg_setReg_ne _ _ _ _ _ _ _ (b.expert_ne_presetErr d hd r hr)⟩

omit hd in
/-- A listed one is loaded. -/
theorem State.writeMode_listed {x : Nat × Nat} (hx : (b.presets d).find? (fun p => p.1 == wfld w 7 0) = some x) :
    s.writeMode b d w = (s.loadPreset b d w x.2).expertChanged b d := by
  unfold State.writeMode State.loadPreset
  rw [hx]
  cases b <;> rfl

theorem State.loadPreset_spec (p : Nat) : (s.loadPreset b d w p).reg b.mode d 0 = w ∧
    (∀ r, b.expert = some r → (s.loadPreset b d w p).reg r d 0 = BitVec.ofNat 64 p) ∧ (s.loadPreset b d w p).mem = s.mem ∧
    (s.loadPreset b d w p).out = s.out := by
  unfold State.loadPreset
  split
  · next h =>
    refine ⟨State.reg_setReg .., fun r hr => ?_, State.setReg_mem .., State.setReg_out ..⟩
    rw [h] at hr
    cases hr
  · next e h =>
    refine ⟨?_, fun r hr => ?_, ?_, ?_⟩
    · rw [State.reg_setReg_ne _ _ _ _ _ _ _ _ (b.mode_ne_expert d hd e h), State.reg_setReg]
    · rw [h] at hr
      cases hr
      exact State.reg_setReg ..
    · rw [State.setReg_mem, State.setReg_mem]
    · rw [State.setReg_out, State.setReg_out]

end

/-- A MODE write is refused by the die, by the lock, or taken. -/
theorem exec_modeWrite {s : State} (hr : s.power.inReset = false) (b : Blk) (die : Fin 4) (e : Bool) (p : Fin 256) :
    exec (.modeWrite b die e p) s =
      let d := if b.mode.perDie then die.val else 0
      if !s.regionLive (b.mode.addr d 0) then .next (s.accessError GLOBAL_STATUS_DIE_ACCESS_ERR (b.mode.addr d 0))
      else if s.setupLocked b.mode then .next (s.accessError GLOBAL_STATUS_LOCK_ERR (b.mode.addr d 0))
      else .next (s.writeMode b d (BitVec.ofNat 64 (b2n e * 65536 + p.val))) := by
  show execModeWrite b die e p s = _
  unfold execModeWrite
  exact if_neg (Bool.eq_false_iff.mp hr)

/-- Settles O56: each clause is a refusal recorded by `accessError`, a register's plain write, a MODE preset, or a broadcast's fold. -/
theorem setupWrites : Obligations.SetupWrites := by
  unfold Obligations.SetupWrites
  intro s v
  refine ⟨fun hr o n b die e p x => ⟨if_pos hr, if_pos hr, if_pos hr, if_pos hr⟩, fun hr => ⟨?_, fun o n hc hm h => ?_,
    fun o n h1 h2 => registerWrite_component hr h1 h2, fun k hk o ho => ?_, fun o h1 h2 h8 x hx => registerWrite_broadcast hr h1 h2 h8 hx,
    fun o h8 hm hc hb => ⟨fun hl => ?_, fun hl => ⟨fun hf => ?_, fun row d i hf => ⟨fun hk => ?_, fun hk => ⟨fun hv => ?_, fun hv =>
      ⟨?_, fun hp => ?_⟩⟩⟩⟩⟩, fun b die e p => ?_, fun x => ⟨fun hf => ?_, fun row d i hf => ⟨fun hl => ?_, fun hl hv => ⟨fun hd => ?_,
      fun hp => ?_⟩⟩⟩⟩⟩
  · exact ⟨_, if_neg (Bool.eq_false_iff.mp hr), State.flag_setF_one _ _ _ _ rfl, State.setF_mem .., State.setF_out ..,
      fun r d i h => s.reg_setReg_ne _ _ _ _ _ _ _ h⟩
  · exact (s.accessError_refuses accessErr_isAccessError o.isLt).completes (registerWrite_misshapen hr hc hm h)
  · exact ⟨_, registerWrite_msix hr hk ho, kget_kset_same .., fun j hj _ => kget_kset_ne _ _ hj, rfl, rfl, rfl, rfl⟩
  · exact (s.accessError_refuses dieAccessErr_isAccessError o.isLt).completes
      ((registerWrite_register hr h8 hm hc hb).trans (State.writeReg_dead hl))
  · exact (s.accessError_refuses accessErr_isAccessError o.isLt).completes
      ((registerWrite_register hr h8 hm hc hb).trans (State.writeReg_unmapped hl hf))
  · exact (s.accessError_refuses lockErr_isAccessError o.isLt).completes
      ((registerWrite_register hr h8 hm hc hb).trans (State.writeReg_locked hl hf hk))
  · obtain ⟨f, hm', ha, hne⟩ := hv
    refine ((registerWrite_register hr h8 hm hc hb).trans (State.writeReg_open hl hf hk)).trans (if_neg fun hcl => ?_)
    exact hne ((rsvClean_iff _ _).mp hcl f hm' ha)
  · exact ((registerWrite_register hr h8 hm hc hb).trans (State.writeReg_open hl hf hk)).trans (if_pos ((rsvClean_iff _ _).mpr hv))
  · obtain ⟨hrow, -, -⟩ := findReg_spec hf
    obtain ⟨hget, hreg⟩ := s.plainWrite_spec hrow d i v
    refine ⟨s.plainWrite row d i v, ?_, hget, hreg, State.setReg_mem ..⟩
    rw [← s.writeRow_plain (findReg_package hf) v hp]
    exact ((registerWrite_register hr h8 hm hc hb).trans (State.writeReg_open hl hf hk)).trans (if_pos ((rsvClean_iff _ _).mpr hv))
  · intro d
    have hd : d < 4 := by
      by_cases hp : b.mode.perDie = true
      · exact (if_pos hp).trans_lt die.isLt
      · exact (if_neg hp).trans_lt (by decide)
    have hx := exec_modeWrite hr b die e p
    have hw := wfld_mode e p.isLt
    refine ⟨fun hl => ?_, fun hl hk => ?_, fun hl hk => ?_⟩
    · exact (s.accessError_refuses dieAccessErr_isAccessError (b.mode_addr_lt d hd)).completes (hx.trans (if_pos (by simp [hl, d])))
    all_goals replace hx := hx.trans (if_neg (by simp [hl, d]))
    · exact (s.accessError_refuses lockErr_isAccessError (b.mode_addr_lt d hd)).completes (hx.trans (if_pos hk))
    replace hx := hx.trans (if_neg (Bool.eq_false_iff.mp hk))
    refine ⟨fun hno => ⟨_, hx, s.writeMode_unlisted hd (by rw [hw]; exact hno)⟩, fun y hy => ?_⟩
    have hlisted := s.writeMode_listed (b := b) (d := d) (w := BitVec.ofNat 64 (b2n e * 65536 + p.val)) (x := y) (by rw [hw]; exact hy)
    exact ⟨_, hx.trans (congrArg _ hlisted), s.loadPreset_spec hd y.2⟩
  · exact (s.accessError_refuses accessErr_isAccessError (by omega)).completes (broadcastWrite_unmapped hr hf)
  · exact (s.accessError_refuses lockErr_isAccessError (by omega)).completes (broadcastWrite_locked hr hf hl)
  · exact (State.broadcast_refuses hd row i v (by omega)).completes (broadcastWrite_open hr hf hl hv)
  · obtain ⟨hrow, -, hper⟩ := findReg_spec hf
    have hplain : row.reg ∈ plainRegs := by
      simp only [plainRegs, List.mem_cons, List.not_mem_nil, or_false] at hp ⊢
      tauto
    have hblk : row.reg.blk ∉ [Blk.sec, .pwr, .st] := by
      simp only [List.mem_cons, List.not_mem_nil, or_false] at hp
      obtain hp | hp | hp | hp | hp | hp := hp <;> rw [hp] <;> decide
    refine ⟨_, broadcastWrite_open hr hf hl hv, State.broadcast_taken hrow (hper.resolve_right (by omega)) i v (by omega) fun u d => ?_⟩
    exact u.writeRow_plain (fun h => absurd h hblk) v (.inr hplain)

end Sys2Proof.Machine
end

