-- ==== Sys2Proof/Proofs/MemoryExtents.lean ====
section
/-!
PROOFS. Memory by extents: in an extent that is mapped as a whole no two addresses name one byte, so what is stored there reads back
(R36, R40); and the marks of an extent tell whether it is poisoned.
-/
namespace Sys2Proof.Machine

open Sys2Proof

/-! ### Mapped extents -/

/-- An extent that fares well as a whole stays within one run of mapped addresses. -/
theorem State.run_of_extentReach {s : State} {a n : Nat} (h : s.extentReach a n ≠ .unmapped) : a + n ≤ runEnd a ∨ n = 0 := by
  unfold State.extentReach at h
  split at h
  · exact .inr ‹_›
  · split at h
    · exact absurd rfl h
    · exact .inl (by omega)

/-- The spread view names each byte of the home view once (R36). -/
theorem spreadHome_inj {x y : Nat} (hx : x < 0xC000000000) (hy : y < 0xC000000000)
    (h : spreadHome (x / 0x3000000000) (x % 0x3000000000) = spreadHome (y / 0x3000000000) (y % 0x3000000000)) : x = y := by
  unfold spreadHome at h
  dsimp only at h
  omega

/-- A run of mapped addresses below the spread view ends below it. -/
theorem runEnd_home {a n : Nat} (h : a + n ≤ runEnd a) (ha : a < 0x100000000000) : n = 0 ∨ a + n ≤ 0xC000000000 := by
  by_cases hc : a < 0xC000000000
  · have : runEnd a = 0xC000000000 := by simp [runEnd, place, hc]
    omega
  · have : runEnd a = a := by simp [runEnd, place, hc, ha]
    omega

theorem runEnd_spread {a : Nat} (h1 : 0x100000000000 ≤ a) (h2 : a < 0x10C000000000) : runEnd a = 0x10C000000000 := by
  have h3 : ¬ a < 0xC000000000 := by omega
  have h4 : ¬ a < 0x100000000000 := by omega
  simp [runEnd, place, h3, h4, h2]

/-- In a mapped extent no two addresses name one byte. -/
theorem memKey_inj_of_run {a n i j : Nat} (h : a + n ≤ runEnd a) (hi : i < n) (hj : j < n) (e : memKey (a + i) = memKey (a + j)) : i = j := by
  by_cases hs : 0x100000000000 ≤ a ∧ a < 0x10C000000000
  · rw [runEnd_spread hs.1 hs.2] at h
    unfold memKey at e
    rw [if_pos (by omega), if_pos (by omega)] at e
    have := spreadHome_inj (by omega) (by omega) e
    omega
  · have hout (k : Nat) (hk : k < n) : memKey (a + k) = a + k := by
      unfold memKey
      refine if_neg ?_
      by_cases ha : a < 0x100000000000
      · have := runEnd_home h ha
        omega
      · omega
    rw [hout i hi, hout j hj] at e
    omega

/-- Bytes stored in a mapped extent read back. -/
theorem State.bytes_write_of_reach {s : State} {a : Nat} {bs : List Byte} {u : State} (h : u.extentReach a bs.length ≠ .unmapped) :
    (s.write a bs).bytes a bs.length = bs := by
  refine List.ext_getElem (by simp [State.bytes, rangeFrom]) fun i _ hi => ?_
  have hk : ∀ j k, j < bs.length → k < bs.length → memKey (a + j) = memKey (a + k) → j = k := fun j k hj hk e => by
    obtain hr | h0 := State.run_of_extentReach h
    · exact memKey_inj_of_run hr hj hk e
    · omega
  simpa [State.bytes, rangeFrom] using s.byte_write a i bs hi hk

theorem State.bytes_of_mem {s t : State} (h : t.mem = s.mem) (a n : Nat) : t.bytes a n = s.bytes a n := by
  unfold State.bytes
  rw [funext (State.byte_of_mem h)]

theorem State.bytes_writeMarked_of_reach {s u : State} {a : Nat} {bs : List Byte} {ps : List Bool}
    (h : u.extentReach a bs.length ≠ .unmapped) : (s.writeMarked a bs ps).bytes a bs.length = bs := by
  rw [State.bytes_of_mem (State.mem_writeMarked ..), State.bytes_write_of_reach h]

/-! ### Poison marks -/

/-- Every address of a 4-byte unit has the unit's mark. -/
theorem State.poisonAt_unit (s : State) (a : Nat) : s.poisonAt (a / 4 * 4) = s.poisonAt a := by
  have h := memKey_add (a / 4 * 4) (a % 4) (by omega)
  rw [show a / 4 * 4 + a % 4 = a by omega] at h
  have h4 : memKey (a / 4 * 4) % 4 = 0 := by
    unfold memKey
    split
    · unfold spreadHome
      dsimp only
      omega
    · omega
  unfold State.poisonAt
  rw [h, show (memKey (a / 4 * 4) + a % 4) / 4 = memKey (a / 4 * 4) / 4 by omega]

/-- A marked unit of an extent poisons it. -/
theorem State.poisoned_of_marks {s : State} {a n : Nat} (h : true ∈ s.marks a n) : s.poisoned a n = true := by
  obtain ⟨i, hi, hp⟩ : ∃ i < (n + 3) / 4, s.poisonAt (a + 4 * i) = true := by simpa [State.marks] using h
  unfold State.poisoned
  rw [List.any_eq_true]
  refine ⟨a / 4 + i, ?_, ?_⟩
  · simp only [rangeFrom, List.mem_map, List.mem_range]
    exact ⟨i, by omega, rfl⟩
  · rw [← s.poisonAt_unit, show (a + 4 * i) / 4 = a / 4 + i by omega] at hp
    exact hp

end Sys2Proof.Machine
end

