-- ==== Sys2Proof/Proofs/SpurAccess.lean ====
section
/-!
PROOFS. Loads, stores and CSR writes of a Spur core, and its reads of summary slots (R38 to R40, R155, R156, R494, Tables 2.4, 3.6).
-/
namespace Sys2Proof.Machine

open Sys2Proof

/-- What a command answers, written another way. -/
theorem exec_of_eq {c : Instr} {s t u : State} (h : exec c s = .next t) (e : t = u) : exec c s = .next u := h.trans (congrArg _ e)

/-! ### Summary slots -/

section
variable {s : State} {d : Fin 4} {g : Fin 96} (h : s.spurReady d g = true)
include h

theorem vsRd_traps {insn : BitVec 32} (hi : spurIs insn 0x2B 0 = false ∨ 8 ≤ spurRs2 insn) :
    exec (.vsRd d g insn) s = .next (s.spurTrap d g 2) := by
  show execVsRd d g insn s = _
  rw [execVsRd, h, if_neg (by simp), if_pos (by simpa using hi)]

theorem vsRd_reads {insn : BitVec 32} (hi : spurIs insn 0x2B 0 = true) (h8 : spurRs2 insn < 8) :
    exec (.vsRd d g insn) s = .next (s.readSlot d g (spurRd insn) (spurRs2 insn)) := by
  show execVsRd d g insn s = _
  rw [execVsRd, h, if_neg (by simp), if_neg (by simp [hi, h8])]

theorem vsRdw_traps {insn : BitVec 32} (hi : spurIs insn 0x2B 1 = false ∨ 8 ≤ spurRs2 insn) :
    exec (.vsRdw d g insn) s = .next (s.spurTrap d g 2) := by
  show execVsRdw d g insn s = _
  rw [execVsRdw, h]
  rw [if_neg (by simp), if_pos (by simpa using hi)]

/-- A VS.RDW of a slot reads at once or stalls until the runs before it have completed (R155, R156). -/
theorem vsRdw_waits {insn : BitVec 32} (hi : spurIs insn 0x2B 1 = true) (h8 : spurRs2 insn < 8) :
    exec (.vsRdw d g insn) s =
      if (s.coreOf d g).vecPushed ≤ (s.coreOf d g).vecDone ∨ s.tqStopped d g = true then
        .next (s.readSlot d g (spurRd insn) (spurRs2 insn))
      else .next (s.updCore d g fun c => { c with stall := some (.rdw (spurRd insn) (spurRs2 insn) c.vecPushed) }) := by
  show execVsRdw d g insn s = _
  rw [execVsRdw, h]
  rw [if_neg (by simp), if_neg (by simp [hi, h8])]

end

theorem Core.setX_x (c : Core) {rd : Nat} (v : Word) (h : rd ≠ 0) : kget 0 (c.setX rd v).x rd = v := by
  rw [Core.setX, if_neg h]
  exact kget_kset_same ..

theorem Core.setX_stall (c : Core) (rd : Nat) (v : Word) : (c.setX rd v).stall = c.stall := by
  unfold Core.setX
  split <;> rfl

/-- The stall of a VS.RDW ends with its slot's value (R155). -/
theorem vsRdwReturn_completes {s : State} {d : Fin 4} {g : Fin 96} {rd n upTo : Nat} (hst : (s.coreOf d g).stall = some (.rdw rd n upTo))
    (hl : s.coreLive d g = true) (hd : upTo ≤ (s.coreOf d g).vecDone ∨ s.tqStopped d g = true)
    (hp : (kget Slot.zero (s.coreOf d g).regs.slots n).pois = false) : Completes (.vsRdwReturn d g) s fun t =>
      (t.coreOf d g).stall = none ∧
      (rd ≠ 0 → kget 0 (t.coreOf d g).x rd = (kget Slot.zero (s.coreOf d g).regs.slots n).data) := by
  let u := s.updCore d g fun c => { c with stall := none }
  have hu : u.coreOf d g = { s.coreOf d g with stall := none } := State.coreOf_updCore ..
  have hr : u.readSlot d g rd n = u.updCore d g fun c => c.setX rd (kget Slot.zero (s.coreOf d g).regs.slots n).data := by
    unfold State.readSlot
    rw [hu]
    exact if_neg (by simp [hp])
  refine ⟨u.readSlot d g rd n, ?_, ?_⟩
  · show execVsRdwReturn d g s = _
    rw [execVsRdwReturn]
    rw [hst]
    exact if_pos (by simpa [hl] using hd)
  · have hc := State.coreOf_updCore u d g fun c => c.setX rd (kget Slot.zero (s.coreOf d g).regs.slots n).data
    rw [← hr] at hc
    dsimp only
    rw [hc, Core.setX_stall, hu]
    exact ⟨rfl, Core.setX_x _ _⟩

/-! ### Loads and stores -/

/-- A Spur core of which an access ends stalls no longer. -/
def State.unstall (s : State) (d g : Nat) : State := s.updCore d g fun c => { c with stall := none }

theorem State.NoErrs.unstall {s : State} (h : s.NoErrs) (d g : Nat) : (s.unstall d g).NoErrs := by
  refine ⟨h.1, fun k => ?_⟩
  by_cases hk : k = globalCore d g
  · rw [hk, State.unstall, State.updCore, State.core_setCore]
    exact h.2 _
  · rw [State.unstall, State.updCore, State.core_setCore_ne _ _ _ _ hk]
    exact h.2 _

/-- Clearing the stall of a core that stalls on nothing changes no core. -/
theorem State.core_unstall {s : State} {d g : Nat} (h : (s.coreOf d g).stall = none) (k : Nat) : (s.unstall d g).core k = s.core k := by
  by_cases hk : k = globalCore d g
  · rw [hk, State.unstall, State.updCore, State.core_setCore]
    show { s.coreOf d g with stall := none } = s.coreOf d g
    rw [← h]
  · rw [State.unstall, State.updCore, State.core_setCore_ne _ _ _ _ hk]

theorem State.stall_of_ready {s : State} {d g : Nat} (h : s.spurReady d g = true) : (s.coreOf d g).stall = none := by
  simp only [State.spurReady, Bool.and_eq_true, Option.isNone_iff_eq_none] at h
  exact h.2

section
variable {s : State} {d : Fin 4} {g : Fin 96} {store : Bool} {size : Fin 4} {sign : Bool} {rd : Fin 32} {addr : BitVec 48} {v : Word}

/-- An access that is no store to a register with RSV fields set is made, and other work follows. -/
theorem exec_spurLoadStore (h : s.spurReady d g = true)
    (hw : ∀ o, spurPlace addr.toNat (2 ^ size.val) store = .window o → store = true → s.dieRunning (dieOfOffset o) = true → windowClean o v = true) :
    exec (.spurLoadStore d g store size sign rd addr v) s =
      .next (s.spurAccess d g store (2 ^ size.val) sign rd addr.toNat v).afterWork := by
  show execSpurLoadStore d g store size sign rd addr v s = _
  rw [execSpurLoadStore]
  rw [h, if_neg (by simp), if_neg ?_]
  split
  · next o ho =>
    simp only [Bool.and_eq_true, Bool.not_eq_true', not_and, Bool.not_eq_false, and_imp]
    exact hw o ho
  · simp

theorem exec_spurMemory (h : s.spurReady d g = true) (hp : spurPlace addr.toNat (2 ^ size.val) store = .memory) :
    exec (.spurLoadStore d g store size sign rd addr v) s =
      .next (s.spurMemory d g store (2 ^ size.val) sign rd addr.toNat v).afterWork := by
  rw [exec_spurLoadStore h (by simp [hp]), State.spurAccess, hp]

theorem exec_spurMemory_free (h : s.spurReady d g = true) (hp : spurPlace addr.toNat (2 ^ size.val) store = .memory)
    (hh : s.spurHeld d addr.toNat (2 ^ size.val) store = false) :
    exec (.spurLoadStore d g store size sign rd addr v) s =
      .next (if store then (s.unstall d g).localWrite d g addr.toNat (leBytes (2 ^ size.val) v.toNat) []
        else (s.unstall d g).spurRead d g rd addr.toNat (2 ^ size.val) sign).afterWork := by
  rw [exec_spurMemory h hp, State.spurMemory, hh, if_neg Bool.false_ne_true]
  rfl

theorem exec_spurMemory_held (h : s.spurReady d g = true) (hp : spurPlace addr.toNat (2 ^ size.val) store = .memory)
    (hh : s.spurHeld d addr.toNat (2 ^ size.val) store = true) :
    exec (.spurLoadStore d g store size sign rd addr v) s =
      .next ((s.updCore d g fun c => { c with stall := some (.access store (2 ^ size.val) sign rd addr.toNat v) }).park
        (if s.pairWaits d addr.toNat then [] else [(addr.toNat, 2 ^ size.val, store)]) (.spur d g)).afterWork := by
  rw [exec_spurMemory h hp, State.spurMemory, if_pos hh]

theorem exec_spurNothing (h : s.spurReady d g = true) (hp : spurPlace addr.toNat (2 ^ size.val) store = .nothing) :
    exec (.spurLoadStore d g store size sign rd addr v) s =
      .next (if store then s.addressFault d g addr.toNat else (s.addressFault d g addr.toNat).spurTrap d g 5).afterWork := by
  rw [exec_spurLoadStore h (by simp [hp]), State.spurAccess, hp]

theorem exec_spurWindow {o : Nat} (h : s.spurReady d g = true) (hp : spurPlace addr.toNat (2 ^ size.val) store = .window o)
    (hw : store = true → s.dieRunning (dieOfOffset o) = true → windowClean o v = true) (hq : s.pairWaits d addr.toNat = false) :
    exec (.spurLoadStore d g store size sign rd addr v) s =
      .next (if store then (s.unstall d g).spurWindowStore o v
        else (s.unstall d g).spurWindowLoad d g rd addr.toNat (2 ^ size.val) sign o).afterWork := by
  rw [exec_spurLoadStore h (by rw [hp]; intro o' e; injection e with e; exact e ▸ hw), State.spurAccess, hp]
  dsimp only
  rw [hq, if_neg Bool.false_ne_true]
  rfl

theorem exec_spurWindow_unclean {o : Nat} (h : s.spurReady d g = true) (hp : spurPlace addr.toNat (2 ^ size.val) true = .window o)
    (hr : s.dieRunning (dieOfOffset o) = true) (hc : windowClean o v = false) :
    exec (.spurLoadStore d g true size sign rd addr v) s = .fault .reservedFieldWritten := by
  show execSpurLoadStore d g true size sign rd addr v s = _
  rw [execSpurLoadStore]
  rw [h, if_neg (by simp), hp]
  exact if_pos (by simp [hr, hc])

end

/-- A load of bytes that are reached traps on poison and else returns them (R40, R494). -/
theorem State.NoErrs.spurRead_eq {s : State} (hs : s.NoErrs) {d g rd a n : Nat} {sign : Bool} (h : s.extentReach a n = .ok) :
    s.spurRead d g rd a n sign = if s.poisoned a n then s.spurTrap d g 5
      else s.updCore d g fun c => c.setX rd (spurExtend n sign (leNat (s.bytes a n))) := by
  unfold State.spurRead
  rw [hs.localRead_eq _ _ h]
  dsimp only
  refine if_congr ?_ rfl rfl
  rw [Bool.or_eq_true, List.contains_iff_mem, or_iff_right_iff_imp]
  exact State.poisoned_of_marks

/-! ### CSR writes -/

/-- Cleared flags (R111): bit k of a mask clears bit k of the five. -/
theorem and_clear_testBit (x y k : Nat) (hy : y < 32) (hk : k < 5) : ((x &&& (31 - y)) % 32).testBit k = (x.testBit k && !y.testBit k) := by
  rw [show (32 : Nat) = 2 ^ 5 from rfl, Nat.testBit_mod_two_pow, Nat.testBit_and, show 31 - y = 2 ^ 5 - (y + 1) by omega,
    Nat.testBit_two_pow_sub_succ hy]
  simp [hk]

theorem bits_testBit (v hi lo k : Nat) (hk : k < hi + 1 - lo) : (bits v hi lo).testBit k = v.testBit (lo + k) := by
  rw [bits, Nat.testBit_mod_two_pow, Nat.testBit_shiftRight]
  simp [hk]

/-- A write of flag bits clears those of both sets (Table 3.6). -/
theorem spurCsrWrite_flags {s : State} {d : Fin 4} {g : Fin 96} (h : s.spurReady d g = true) {v : Word} (hv : v.toNat < 2 ^ 10) :
    Completes (.spurCsrWrite d g 2 v) s fun t =>
      (∀ k, k < 5 → (t.getF CORE_FLAGS_ARR d g).testBit k = ((s.getF CORE_FLAGS_ARR d g).testBit k && !v.toNat.testBit k)) ∧
      (∀ k, k < 5 → (t.getF CORE_FLAGS_VEC d g).testBit k =
        ((s.getF CORE_FLAGS_VEC d g).testBit k && !v.toNat.testBit (5 + k))) := by
  have lt (hi lo : Nat) (hw : hi + 1 - lo = 5) : bits v.toNat hi lo < 32 := by
    rw [bits, hw]
    exact Nat.mod_lt _ (by decide)
  refine ⟨(s.setF CORE_FLAGS_VEC d g (s.getF CORE_FLAGS_VEC d g &&& (31 - bits v.toNat 9 5))).setF CORE_FLAGS_ARR d g
    (s.getF CORE_FLAGS_ARR d g &&& (31 - bits v.toNat 4 0)), ?_, fun k hk => ?_, fun k hk => ?_⟩
  · show execSpurCsrWrite d g 2 v s = _
    rw [execSpurCsrWrite, h]
    exact if_pos hv
  · rw [State.getF_setF _ _ _ _ _ rfl]
    refine (and_clear_testBit _ _ k (lt 4 0 rfl) hk).trans ?_
    rw [bits_testBit _ _ _ _ hk, Nat.zero_add]
  · rw [State.getF_setF_apart _ CORE_FLAGS_ARR CORE_FLAGS_VEC _ _ _ rfl rfl rfl rfl, State.getF_setF _ _ _ _ _ rfl]
    refine (and_clear_testBit _ _ k (lt 9 5 rfl) hk).trans ?_
    rw [bits_testBit _ _ _ _ hk]

/-- A write of CLEAR clears REMOTE_FAIL (Table 3.6, R213). -/
theorem spurCsrWrite_fail {s : State} {d : Fin 4} {g : Fin 96} (h : s.spurReady d g = true) {v : Word} (h1 : bits v.toNat 62 56 = 0)
    (h2 : bits v.toNat 41 32 = 0) : exec (.spurCsrWrite d g 3 v) s =
      if v.toNat.testBit 63 = true then .next ((s.setF REMOTE_FAIL_VALID d g 0).setF REMOTE_FAIL_COUNT d g 0) else .next s := by
  show execSpurCsrWrite d g 3 v s = _
  rw [execSpurCsrWrite, h, if_neg (by simp)]
  exact if_neg (by simp [h1, h2])

/-- Settles O10: VS.RD and VS.RDW read a slot or trap, and an access goes by the place that its address names. -/
theorem spurReadsAndWrites : Obligations.SpurReadsAndWrites := by
  intro d g s rd
  refine ⟨fun insn h => ⟨vsRd_traps h, vsRdw_traps h, fun h8 => ?_⟩, fun n upTo hst hl hd hp => vsRdwReturn_completes hst hl hd hp,
    fun h => ⟨fun size sign addr v => ?_, fun v => ⟨fun hv => ?_, fun hv => ?_, spurCsrWrite_flags h, fun h1 h2 => ⟨fun h3 => ?_, fun h3 => ?_⟩⟩⟩⟩
  · refine ⟨fun hi => vsRd_reads h hi h8, fun hi => ⟨fun hd => ?_, fun hlt hs => ?_⟩⟩
    · exact (vsRdw_waits h hi h8).trans (if_pos hd)
    · exact (vsRdw_waits h hi h8).trans (if_neg (by simp [hs]; omega))
  · refine ⟨exec_spurMemory_free h, fun hp hh hr hs => ?_, exec_spurMemory_free h, fun hp hh hr hs => ?_,
      fun store => exec_spurMemory_held h, exec_spurNothing h, exec_spurNothing h, fun o row dw i hp hf hd => ⟨fun hc => ?_, fun hc hq hdw => ?_⟩,
      fun o hp hq => ?_⟩
    · have hw : ((s.unstall d g).localWrite d g addr.toNat (leBytes (2 ^ size.val) v.toNat) []) =
          (s.unstall d g).write addr.toNat (leBytes (2 ^ size.val) v.toNat) :=
        (hs.unstall d g).localWrite_eq _ _ (by rw [leBytes_length]; exact hr)
      have m := (s.unstall d g).write_moves addr.toNat (leBytes (2 ^ size.val) v.toNat)
      refine ⟨_, exec_spurMemory_free h hp hh, ?_, fun b hb => ?_, fun e k => ?_, ?_⟩
      all_goals rw [if_pos rfl, hw]
      · have := State.bytes_write_of_reach (s := s.unstall d g) (u := s) (a := addr.toNat) (bs := leBytes (2 ^ size.val) v.toNat)
          (by rw [leBytes_length, hr]; decide)
        rwa [leBytes_length] at this
      · exact State.byte_write_ne _ _ _ _ (by rwa [leBytes_length])
      · refine (congrArg (fun m => kget Core.zero m (globalCore e k)) (m.same .cores (by decide))).trans ?_
        exact State.core_unstall (State.stall_of_ready h) _
      · exact m.same .regs (by decide)
    · have e := exec_of_eq (exec_spurMemory_free (sign := sign) (rd := rd) (v := v) h hp hh)
        (congrArg State.afterWork ((hs.unstall d g).spurRead_eq (sign := sign) (d := d) (g := g) (rd := rd) hr))
      exact ⟨fun hq => exec_of_eq e (congrArg State.afterWork (if_pos hq)),
        fun hq => exec_of_eq e (congrArg State.afterWork (if_neg (Bool.not_eq_true _ ▸ hq)))⟩
    · exact exec_spurWindow_unclean h hp hd (by simp [windowClean, hf, hc])
    · refine exec_of_eq (exec_spurWindow h hp (fun _ _ => by simp [windowClean, hf, hc]) hq) (congrArg State.afterWork ?_)
      rw [if_pos rfl, State.spurWindowStore, hf]
      exact if_pos hdw
    · have e := exec_spurWindow (sign := sign) (rd := rd) (v := v) h hp (fun h => absurd h Bool.false_ne_true) hq
      rw [if_neg Bool.false_ne_true, State.spurWindowLoad] at e
      refine ⟨fun hd => exec_of_eq e (congrArg State.afterWork (if_neg ?_)), fun hd => exec_of_eq e (congrArg State.afterWork (if_pos ?_))⟩
      · show ¬(!s.dieRunning (dieOfOffset o)) = true
        simp [hd]
      · show (!s.dieRunning (dieOfOffset o)) = true
        simp [hd]
  · show execSpurCsrWrite d g 0 v s = _
    rw [execSpurCsrWrite, h]
    exact if_pos hv
  · show execSpurCsrWrite d g 1 v s = _
    rw [execSpurCsrWrite, h]
    exact if_pos hv
  · exact (spurCsrWrite_fail h h1 h2).trans (if_pos h3)
  · exact (spurCsrWrite_fail h h1 h2).trans (if_neg (by simp [h3]))

end Sys2Proof.Machine
end

