-- ==== Sys2Proof/Proofs/SummitMembers.lean ====
section
/-!
PROOFS. Admission, presence and departure at the summit, and the answer at the joiner (R47, R241 to R245, R474, R481).
-/
namespace Sys2Proof.Machine

open Sys2Proof

/-! ### A change of job -/

/-- The three registers that a change of job writes, one by one: the step's state, its pending re-shard, and the job. -/
def State.changeJobRegs (s : State) (job : Nat) : State :=
  ((s.setF CORNICE_STATUS_STATE 0 0 0).setF CORNICE_STATUS_RESHARD_PENDING 0 0 0).setF MEMBER_STATE_JOB 0 0 job

theorem State.changeJob_regs (s : State) {job : Nat} (h : s.job ≠ job) : (s.changeJob job).regs = (s.changeJobRegs job).regs := by
  unfold State.changeJob
  rw [if_neg h]
  extract_lets s1 s2 s3 s4
  have h2 : s2.regs = s1.regs := by
    simp only [s2]
    split
    · rfl
    · exact (State.sendStepState_moves ..).same .regs (by decide)
  show ((s2.setF CORNICE_STATUS_RESHARD_PENDING 0 0 0).setF MEMBER_STATE_JOB 0 0 job).regs = _
  simp only [State.changeJobRegs, State.setF, State.setReg, State.reg, h2, s1]

/-- A change of job leaves every register but the step's state and the membership (Table 12.1). -/
theorem State.changeJob_reg (s : State) (job : Nat) (q : Reg) (e j : Nat) (hc : q.addr e j ≠ CORNICE_STATUS.addr 0 0)
    (hm : q.addr e j ≠ MEMBER_STATE.addr 0 0) : (s.changeJob job).reg q e j = s.reg q e j := by
  by_cases h : s.job = job
  · rw [State.changeJob, if_pos h]
  · rw [State.reg, s.changeJob_regs h]
    exact ((State.reg_setReg_ne _ _ _ _ _ _ _ _ hm).trans (State.reg_setReg_ne _ _ _ _ _ _ _ _ hc)).trans (State.reg_setReg_ne _ _ _ _ _ _ _ _ hc)

/-- The other fields of MEMBER_STATE stay. -/
theorem State.changeJob_member (s : State) (job : Nat) (f : Fld) (hr : f.reg = MEMBER_STATE) (hf : f.fits = true)
    (ha : MEMBER_STATE_JOB.apart f = true) : (s.changeJob job).getF f 0 0 = s.getF f 0 0 := by
  by_cases h : s.job = job
  · rw [State.changeJob, if_pos h]
  · have hc : f.reg.addr 0 0 ≠ CORNICE_STATUS.addr 0 0 := by rw [hr]; decide
    rw [State.getF, State.reg, s.changeJob_regs h]
    refine (State.getF_setF_apart _ MEMBER_STATE_JOB f 0 0 job hr rfl hf ha).trans ?_
    exact (State.getF_setF_ne _ _ _ _ _ _ _ _ hc).trans (State.getF_setF_ne _ _ _ _ _ _ _ _ hc)

theorem State.changeJob_job (s : State) (job : Nat) (hj : job < 65536) : (s.changeJob job).job = job := by
  by_cases h : s.job = job
  · rw [State.changeJob, if_pos h, h]
  · rw [State.job, State.getF, State.reg, s.changeJob_regs h]
    exact (State.getF_setF _ MEMBER_STATE_JOB 0 0 job rfl).trans (Nat.mod_eq_of_lt hj)

/-! ### The answer at the joiner -/

/-- A package's identifier is in its place in the massif. -/
theorem State.device_congr {s t : State} (hc : t.reg MASSIF_COORD 0 0 = s.reg MASSIF_COORD 0 0)
    (hd : t.reg MASSIF_DIMS 0 0 = s.reg MASSIF_DIMS 0 0) : t.device = s.device := by
  have coord (f : Fld) (h : f.reg = MASSIF_COORD) : t.getF f 0 0 = s.getF f 0 0 := by rw [State.getF, State.getF, h, hc]
  have dims (f : Fld) (h : f.reg = MASSIF_DIMS) : t.getF f 0 0 = s.getF f 0 0 := by rw [State.getF, State.getF, h, hd]
  simp only [State.device, coord MASSIF_COORD_X rfl, coord MASSIF_COORD_Y rfl, coord MASSIF_COORD_Z rfl, dims MASSIF_DIMS_XM1 rfl,
    dims MASSIF_DIMS_YM1 rfl]

section
variable {s : State} (hd : s.deaf = false) (hr : s.role = 2)
include hd hr

/-- An admitted package is a member in job 0x0000 that knows itself (R242, R254). -/
theorem admitReply_admitted : Completes (.admitReply 0) s fun t =>
    t.role = 3 ∧ t.getF MEMBER_STATE_CAUSE 0 0 = 0 ∧ t.contour.enter = true ∧ t.job = 0 ∧
    t.fabric.members = [⟨s.device, s.sec.serial, 0, 0, none⟩] := by
  let u := (s.setRole 3).setF MEMBER_STATE_CAUSE 0 0 0
  let v := u.changeJob 0
  have hrole : u.getF MEMBER_STATE_ROLE 0 0 = 3 :=
    (State.getF_setF_apart _ MEMBER_STATE_CAUSE MEMBER_STATE_ROLE _ _ _ rfl rfl rfl rfl).trans (State.getF_setF _ _ _ _ _ rfl)
  have hcause : u.getF MEMBER_STATE_CAUSE 0 0 = 0 := State.getF_setF _ _ _ _ _ rfl
  have hreg (q : Reg) (h1 : q.addr 0 0 ≠ CORNICE_STATUS.addr 0 0) (h2 : q.addr 0 0 ≠ MEMBER_STATE.addr 0 0) : v.reg q 0 0 = s.reg q 0 0 :=
    (u.changeJob_reg 0 q 0 0 h1 h2).trans ((State.reg_setReg_ne _ _ _ _ _ _ _ _ h2).trans (State.reg_setReg_ne _ _ _ _ _ _ _ _ h2))
  have hdev : v.device = s.device := State.device_congr (hreg _ (by decide) (by decide)) (hreg _ (by decide) (by decide))
  have hsec : v.sec = s.sec := (State.changeJob_moves ..).same .sec (by decide)
  refine ⟨(v.setContour fun c => { c with enter := true }).setFabric fun r =>
      { r with members := [⟨v.device, v.sec.serial, 0, 0, none⟩], version := 0, memberTerm := 0 }, ?_,
    (u.changeJob_member 0 MEMBER_STATE_ROLE rfl rfl rfl).trans hrole,
    (u.changeJob_member 0 MEMBER_STATE_CAUSE rfl rfl rfl).trans hcause, rfl, u.changeJob_job 0 (by decide), ?_⟩
  · show execAdmitReply 0 s = _
    rw [execAdmitReply, if_neg (by simp [hd]), if_neg (by simp [hr])]
    exact if_pos rfl
  · show [(⟨v.device, v.sec.serial, 0, 0, none⟩ : Member)] = _
    rw [hdev, hsec]

/-- A refused package keeps the cause and sends JOIN again after a second (R241). -/
theorem admitReply_refused {cause : Fin 4} (hc : cause ≠ 0) : Completes (.admitReply cause) s fun t =>
    t.role = 0 ∧ t.getF MEMBER_STATE_CAUSE 0 0 = cause ∧ t.fabric.joinAt = some (s.fabricNow + 1000000000) := by
  let u := (s.setRole 0).setF MEMBER_STATE_CAUSE 0 0 cause
  have hnow : u.fabricNow = s.fabricNow := rfl
  have hrole : u.role = 0 :=
    (State.getF_setF_apart _ MEMBER_STATE_CAUSE MEMBER_STATE_ROLE _ _ _ rfl rfl rfl rfl).trans (State.getF_setF _ _ _ _ _ rfl)
  have hcause : u.getF MEMBER_STATE_CAUSE 0 0 = cause := by
    refine (State.getF_setF _ MEMBER_STATE_CAUSE 0 0 cause rfl).trans (Nat.mod_eq_of_lt ?_)
    exact cause.isLt.trans (by decide)
  refine ⟨u.setFabric fun r => { r with joinAt := some (u.fabricNow + 1000000000) }, ?_, hrole, hcause, by rw [← hnow]; rfl⟩
  show execAdmitReply cause s = _
  rw [execAdmitReply, if_neg (by simp [hd]), if_neg (by simp [hr])]
  exact if_neg fun h => hc (Fin.ext h)

end

/-! ### At the summit -/

section
variable {s : State} (hd : s.deaf = false) (hs : s.isSummit = true)
include hd hs

section
variable {device : Fin 10240} {dims term version : Nat} {evidence : List Byte}

theorem join_otherDims (h : dims ≠ s.dims) :
    exec (.join device dims term version evidence) s = .next (s.mgmt 0x83 device [device, 1]) := by
  show execJoin device dims term version evidence s = _
  rw [execJoin, if_neg (by simp [hd]), if_neg (by simp [hs])]
  exact if_pos h

/-- A package whose identifier a member of lower serial number has is refused (R241). -/
theorem join_older (h : dims = s.dims) (ho : (s.fabric.members.any fun m => m.device == device.val &&
    (decide (m.serial < fieldOf evidence 8 8) || (m.device == s.device && m.serial != fieldOf evidence 8 8))) = true) :
    exec (.join device dims term version evidence) s = .next (s.mgmt 0x83 device [device, 2]) := by
  show execJoin device dims term version evidence s = _
  rw [execJoin, if_neg (by simp [hd]), if_neg (by simp [hs])]
  exact (if_neg (not_not_intro h)).trans (if_pos ho)

variable (h : dims = s.dims) (ho : (s.fabric.members.any fun m => m.device == device.val &&
    (decide (m.serial < fieldOf evidence 8 8) || (m.device == s.device && m.serial != fieldOf evidence 8 8))) = false)
include h ho

theorem join_unproved (hp : s.joinProof term version evidence = false ∨ term ≠ s.term ∨ version + 16 < s.fabric.version ∨
    s.policyPass evidence = false) : exec (.join device dims term version evidence) s = .next (s.mgmt 0x83 device [device, 3]) := by
  show execJoin device dims term version evidence s = _
  rw [execJoin, if_neg (by simp [hd]), if_neg (by simp [hs])]
  refine (if_neg (not_not_intro h)).trans ((if_neg (Bool.not_eq_true _ ▸ ho)).trans (if_pos ?_))
  simpa using hp

/-- A package whose proof and report pass is admitted, and the member of its identifier before it is refused (R241, R242). -/
theorem join_admits (hp : s.joinProof term version evidence = true) (ht : term = s.term) (hv : s.fabric.version ≤ version + 16)
    (hy : s.policyPass evidence = true) :
    let u := (if s.fabric.members.any (fun m => m.device == device.val && m.serial != fieldOf evidence 8 8) then
      s.mgmt 0x83 device [device, 2] else s).mgmt 0x83 device [device, 0]
    exec (.join device dims term version evidence) s =
      .next ((u.publishMembers ((s.fabric.members.filter fun m => m.device != device.val) ++
        [⟨device, fieldOf evidence 8 8, 0, s.fabricNow, none⟩])).publishMap).driveJobs := by
  intro u
  have hnow : u.fabricNow = s.fabricNow := by
    simp only [u]
    split <;> rfl
  rw [← hnow]
  show execJoin device dims term version evidence s = _
  rw [execJoin, if_neg (by simp [hd]), if_neg (by simp [hs])]
  exact (if_neg (not_not_intro h)).trans ((if_neg (Bool.not_eq_true _ ▸ ho)).trans (if_neg (by subst ht; simp [hp, hv, hy])))

end

/-- PRESENT renews the time of every entry of its sender (R244). -/
theorem present_completes (device : Fin 10240) : Completes (.present device) s fun t =>
    t.fabric.members.length = s.fabric.members.length ∧ ∀ m ∈ t.fabric.members, m.device = device.val → m.present = s.fabricNow := by
  refine ⟨_, (if_neg (by simp [hd])).trans (if_neg (by simp [hs])), List.length_map _, fun m hm hdev => ?_⟩
  obtain ⟨x, -, rfl⟩ := List.mem_map.mp hm
  by_cases hx : x.device = device.val
  · rw [if_pos hx]
  · rw [if_neg hx] at hdev
    exact absurd hdev hx

omit hd in
theorem memberTimeout_departs {device : Fin 10240} {m : Member} (hne : device.val ≠ s.device) (hm : s.memberOf device = some m) :
    exec (.memberTimeout device) s = .next ((s.timeTo (m.present +
      max 2 (s.getF MASSIF_EXPERT_MEMBER_TIMEOUT_MS 0 0) * 1000000)).depart [device]).driveJobs := by
  show execMemberTimeout device s = _
  rw [execMemberTimeout, if_neg (by simp [hs, hne]), hm]

theorem leave_departs {device : Fin 10240} (hne : device.val ≠ s.device) :
    exec (.leave device) s = .next (s.depart [device]).driveJobs :=
  (if_neg (by simp [hd])).trans (if_pos (by simp [hs, hne]))

/-- SYNC answers with the membership and the link map (R243). -/
theorem sync_completes {device : Fin 10240} (hm : (s.memberOf device).isSome = true) : Completes (.sync device) s fun t =>
    t.out = s.out ++ s.mgmtOut 0x86 device (memberFields s.term s.fabric.version s.device
      (standbyOf s.device s.fabric.members) s.fabric.members) ++ s.mgmtOut 0x88 device s.mapFields ∧
    t.regs = s.regs ∧ t.fabric = s.fabric :=
  ⟨_, (if_neg (by simp [hd])).trans (if_pos (by simp [hs, hm])), rfl, rfl, rfl⟩

/-- A partition that moves a package out of its job waits for the next re-shard of the new one (R47, R245). -/
theorem partitionReceive_defers {device : Fin 10240} {job : Nat} {m : Member} (hm : s.fabric.members = [m]) (hdev : m.device = device.val)
    (h0 : m.job ≠ 0) (hj : job % 65536 ≠ m.job) : Completes (.partitionReceive [(device, job)]) s fun t =>
      t.fabric.members = [{ m with nextJob := some (job % 65536) }] ∧ t.regs = s.regs := by
  refine ⟨s.setFabric fun r => { r with members := [{ m with nextJob := some (job % 65536) }] }, ?_, rfl, rfl⟩
  show execPartitionReceive [(device, job)] s = _
  rw [execPartitionReceive, if_neg (by simp [hd]), if_neg (by simp [hs])]
  simp [hm, hdev, h0, hj]

end

/-- Settles O24: JOIN by its checks in their order, ADMIT by its cause, and each other packet by its own meaning. -/
theorem summitMembers : Obligations.SummitMembers := by
  intro s
  refine ⟨fun device dims term version evidence hd hs => ⟨join_otherDims hd hs, fun h => ⟨join_older hd hs h, fun ho =>
    ⟨join_unproved hd hs h ho, join_admits hd hs h ho⟩⟩⟩, fun hd => ⟨fun _ _ _ _ _ => if_pos hd, fun _ => if_pos hd, fun _ =>
    ⟨if_pos hd, if_pos hd, if_pos hd⟩, fun _ => if_pos hd⟩, fun hd hr => ⟨admitReply_admitted hd hr, fun cause => admitReply_refused hd hr⟩,
    fun hd hs => ⟨present_completes hd hs, fun device m hne => memberTimeout_departs hs hne, fun device hne =>
    ⟨leave_departs hd hs hne, fun h => if_pos ?_⟩, fun device => sync_completes hd hs, fun device job m => partitionReceive_defers hd hs⟩⟩
  simpa only [List.contains_cons, List.contains_nil, Bool.or_false] using h

end Sys2Proof.Machine
end

