-- ==== Sys2Proof/Proofs/PortLifecycle.lean ====
section
/-!
PROOFS. The life of a Ridge port: training, a lost lane, RETRAIN, and the writes to PORT_CTRL (R43, R215, R232 to R234, R238).
-/
namespace Sys2Proof.Machine

open Sys2Proof

/-! ### The clock reaches a deadline -/

/-- From the nanosecond that `reach` names on, a clock shows what was asked for (R254). -/
theorem FtClock.le_after_reach (c : FtClock) (need el : Nat) (h : c.reach need ≤ el) : c.base + need ≤ (c.after el).1 := by
  unfold FtClock.reach at h
  unfold FtClock.after
  dsimp only at h ⊢
  by_cases h0 : 0 ≤ c.corr
  · rw [if_pos h0] at h ⊢
    split at h <;> dsimp only <;> omega
  · rw [if_neg h0] at h ⊢
    by_cases h1 : -1000 ≤ c.corr
    · rw [if_pos h1]
      rw [if_pos (by omega)] at h
      dsimp only
      split at h <;> split at h <;> omega
    · rw [if_neg h1]
      rw [if_neg (by omega)] at h
      dsimp only
      omega

/-- A timer command carries the fabric time to its deadline (R254). -/
theorem State.le_fabricNow_timeTo (s : State) (ft : Nat) : ft ≤ (s.timeTo ft).fabricNow := by
  by_cases h : s.fabricNow < ft
  · rw [State.timeTo, if_pos h]
    have hr : s.clock.reach (ft - s.clock.base) ≤
        (max s.time (s.clock.anchor + 17 * s.clock.reach (ft - s.clock.base)) - s.clock.anchor) / 17 := by omega
    have := s.clock.le_after_reach _ _ hr
    exact Nat.le_trans (by omega) this
  · rw [State.timeTo, if_neg h]
    omega

theorem State.fabricNow_setPort (s : State) (p : Nat) (x : Port) : (s.setPort p x).fabricNow = s.fabricNow := rfl

theorem State.fabricNow_setPortF (s : State) (f : Fld) (p n : Nat) : (s.setPortF f p n).fabricNow = s.fabricNow := rfl

/-! ### The lanes that a port takes -/

/-- The lanes that a port takes train at both ends and are no more than the limit and than four (R215). -/
theorem trainLanes_spec {mask limit : Nat} {l : List Nat} (h : trainLanes mask limit = some l) :
    l.length ≤ limit ∧ l.length ≤ 4 ∧ ∀ i ∈ l, mask.testBit i = true := by
  unfold trainLanes at h
  have hp := List.find?_some h
  obtain ⟨hl, hb⟩ := Bool.and_eq_true_iff.mp hp
  have small : ∀ c ∈ [[0, 1, 2, 3], [0, 1], [2, 3], [0], [1], [2], [3]], c.length ≤ 4 := by decide
  exact ⟨of_decide_eq_true hl, small l (List.mem_of_find?_eq_some h), List.all_eq_true.mp hb⟩

/-- Of every set of lanes but the empty one a port takes some: the widest of the rule's order (R215). -/
theorem trainLanes_widest : ∀ lanes : Fin 16, lanes.val ≠ 0 → ∃ l, trainLanes lanes 4 = some l ∧
    (∀ i ∈ l, lanes.val.testBit i = true) ∧
    (lanes.val.testBit 0 = true → lanes.val.testBit 1 = true → lanes.val ≠ 15 → l = [0, 1]) ∧ (lanes.val = 15 → l = [0, 1, 2, 3]) ∧
    (l.length = 1 → ∀ i, i < 4 → lanes.val.testBit i = true → ∀ k ∈ l, k ≤ i) := by
  have found : ∀ lanes : Fin 16, lanes.val ≠ 0 → (trainLanes lanes 4).isSome = true := by decide
  have order : ∀ lanes : Fin 16, ∀ l ∈ trainLanes lanes 4,
      (lanes.val.testBit 0 = true → lanes.val.testBit 1 = true → lanes.val ≠ 15 → l = [0, 1]) ∧ (lanes.val = 15 → l = [0, 1, 2, 3]) ∧
      (l.length = 1 → ∀ i, i < 4 → lanes.val.testBit i = true → ∀ k ∈ l, k ≤ i) := by decide
  intro lanes h
  obtain ⟨l, hl⟩ := Option.isSome_iff_exists.mp (found lanes h)
  exact ⟨l, hl, (trainLanes_spec hl).2.2, order lanes l hl⟩

/-- A port's width, lanes and margins are those it trained to; its STATE stays (R215). -/
theorem State.setLanes_spec (s : State) (p : Nat) (l : List Nat) (margins : Word) (h : l.length ≤ 4) :
    (s.setLanes p l margins).portF PORT_STATE_WIDTH p = l.length ∧ (s.setLanes p l margins).portState p = s.portState p ∧
    (s.setLanes p l margins).reg LANE_MARGIN (p / 4) (p % 4) = margins ∧
    (s.setLanes p l margins).port p = { s.port p with lanes := l } := by
  have hne (f : Fld) (hr : f.reg = PORT_STATE) : f.reg.addr (p / 4) (p % 4) ≠ LANE_MARGIN.addr (p / 4) (p % 4) := by
    rw [hr]; simp [Reg.addr, LANE_MARGIN, PORT_STATE]
  refine ⟨?_, ?_, State.reg_setReg .., State.port_setPort ..⟩
  · refine (congrArg _ (State.reg_setReg_ne _ _ _ _ _ _ _ _ (hne PORT_STATE_WIDTH rfl))).trans ?_
    exact (State.getF_setF s PORT_STATE_WIDTH _ _ _ rfl).trans (Nat.mod_eq_of_lt (by show _ < 8; omega))
  · refine (congrArg _ (State.reg_setReg_ne _ _ _ _ _ _ _ _ (hne PORT_STATE_STATE rfl))).trans ?_
    exact State.getF_setF_apart s PORT_STATE_WIDTH PORT_STATE_STATE _ _ _ rfl rfl rfl rfl

/-! ### Training -/

theorem portTrained_spec {s : State} {p lanes : Fin 16} (margins : Word) {l : List Nat} (ht : s.portState p = portTRAINING)
    (hd : s.dieRunning (p / 4) = true) (hl : trainLanes lanes 4 = some l) :
    Completes (.portTrained p lanes margins) s fun t =>
      t.portState p = portTRAILHEAD ∧ t.portF PORT_STATE_WIDTH p = l.length ∧ (t.port p).lanes = l ∧
      t.reg LANE_MARGIN (p / 4) (p % 4) = margins ∧ t.free = s.free + 2 ∧
      (t.port p).nonceOwn = (Config.freeValue s.free).toNat * 2 ^ 64 + (Config.freeValue (s.free + 1)).toNat ∧
      t.sec.wanted = s.sec.wanted ++ [.trailhead p false] := by
  let nonce := (Config.freeValue s.free).toNat * 2 ^ 64 + (Config.freeValue (s.free + 1)).toNat
  let a : State := s.takeFree.2.takeFree.2.setPortF PORT_STATE_STATE p portTRAILHEAD
  let b := a.setLanes p l margins
  let c := b.setPort p { b.port p with nonceOwn := nonce }
  let t := (c.trainShells (portShells p)).saveShells (portShells p)
  have hexec : exec (.portTrained p lanes margins) s = .next (t.wantSign (.trailhead p false)) := by
    show execPortTrained p lanes margins s = _
    rw [execPortTrained, if_neg (by simp [ht, hd]), hl]
    rfl
  have ha : a.portState p = portTRAILHEAD := State.getF_setF _ _ _ _ _ rfl
  obtain ⟨hw, hs, hm, hp⟩ : b.portF PORT_STATE_WIDTH p = l.length ∧ b.portState p = a.portState p ∧
      b.reg LANE_MARGIN (p / 4) (p % 4) = margins ∧ b.port p = { a.port p with lanes := l } :=
    a.setLanes_spec p l margins (trainLanes_spec hl).2.1
  have hfree : b.free = s.free + 2 := rfl
  have hsec : b.sec = s.sec := rfl
  have hmoves : Moves 0x400 c t := (State.saveShells_moves ..).step (by decide) (State.trainShells_moves ..)
  clear_value a b t
  have hregs : t.regs = b.regs := hmoves.same .regs (by decide)
  have hfab : t.fabric = c.fabric := hmoves.same .fabric (by decide)
  have hport : t.port p = { b.port p with nonceOwn := nonce } := by rw [State.port_congr hfab, State.port_setPort]
  have hreg : t.reg LANE_MARGIN (p / 4) (p % 4) = b.reg LANE_MARGIN (p / 4) (p % 4) := by rw [State.reg, State.reg, hregs]
  have htfree : t.free = b.free := hmoves.same .free (by decide)
  have htsec : t.sec = b.sec := hmoves.same .sec (by decide)
  have hlanes : (t.port p).lanes = l := by rw [hport, hp]
  exact ⟨t.wantSign (.trailhead p false), hexec, (State.portF_congr hregs _ _).trans (hs.trans ha),
    (State.portF_congr hregs _ _).trans hw, hlanes, hreg.trans hm, htfree.trans hfree, congrArg Port.nonceOwn hport,
    congrArg (·.wanted ++ _) (htsec.trans hsec)⟩

/-! ### A lane is lost, and RETRAIN -/

theorem State.portF_setPort (s : State) (p q : Nat) (x : Port) (f : Fld) : (s.setPort q x).portF f p = s.portF f p := rfl

/-- What a port in RETRAIN keeps: its width and its deadline (R232). -/
def State.retraining (s : State) (p : Nat) : Port :=
  { s.port p with
    keepWidth := s.portF PORT_STATE_WIDTH p
    deadline := s.fabricNow + max 1 (s.getF RIDGE_EXPERT_RETRAIN_US (p / 4) 0) * 1000 }

theorem State.retrain_port (s : State) (p : Nat) :
    (s.retrain p).port p = s.retraining p ∧ (s.retrain p).shells = (s.restoreShells (portShells p)).shells := by
  let u := (s.restoreShells (portShells p)).setPort p (s.retraining p)
  let v := u.setPortF PORT_STATE_STATE p portRETRAIN
  have hv : s.retrain p = v.noteHealth := rfl
  have hf : v.noteHealth.fabric = v.fabric := (State.noteHealth_moves v).same .fabric (by decide)
  have hs : v.noteHealth.shells = v.shells := (State.noteHealth_moves v).same .shells (by decide)
  have hvu : v.fabric = u.fabric := State.setF_fabric ..
  rw [hv]
  exact ⟨by rw [State.port_congr (hf.trans hvu), State.port_setPort], hs⟩

/-- What traffic leaves of a port: its lanes, the packets that wait for it, and whether it is away for a self-test. -/
def Port.kept (x : Port) : List Nat × List Packet × Bool := (x.lanes, x.parked, x.away)

theorem Port.kept_rx (x : Port) (rx : KMap RxPool) : Port.kept { x with rx := rx } = x.kept := rfl

theorem State.pump_kept (s : State) (p n : Nat) : ((s.pump p n).port p).kept = (s.port p).kept := by
  induction n generalizing s with
  | zero => rfl
  | succ n ih =>
    unfold State.pump
    dsimp only
    split
    · rfl
    · split
      · rfl
      · next f _ =>
        obtain ⟨cap, g, e⟩ := s.sendFlit_sent p f
        rw [ih, e]
        rfl

theorem State.pushPacket_kept (s : State) (p : Nat) (k : Packet) : ((s.pushPacket p k).port p).kept = (s.port p).kept := by
  refine (State.pump_kept _ p _).trans ?_
  rw [State.port_setPort]
  rfl

/-- What follows once a port is back from RETRAIN: its shells train, the bundle is reported, and what waited goes (R232, R237). -/
def State.backUp (s : State) (p : Nat) (waited : List Packet) (dead : Bool) : State :=
  ((waited.foldl (fun u k => u.pushPacket p k)
    (((s.trainShells (portShells p)).saveShells (portShells p)).linkTell p dead)).pumpAll p).giveAllCredits

theorem State.backUp_moves (s : State) (p : Nat) (waited : List Packet) (dead : Bool) : Moves 0x100404 s (s.backUp p waited dead) := by
  have shells : Moves 0x100404 s ((s.trainShells (portShells p)).saveShells (portShells p)) :=
    (State.saveShells_moves ..).step (by decide) ((State.trainShells_moves ..).mono (by decide))
  have told := (State.linkTell_moves _ p dead).step (by decide) shells
  have pushed := Moves.foldl waited (fun u k => u.pushPacket p k) (fun u k => (State.pushPacket_moves u p k).mono (by decide)) told
  exact (State.giveAllCredits_moves _).step (by decide) ((State.pumpAll_moves _ p).step (by decide) pushed)

theorem State.backUp_kept (s : State) (p : Nat) (waited : List Packet) (dead : Bool) :
    ((s.backUp p waited dead).port p).kept = (s.port p).kept := by
  have push : ∀ (l : List Packet) (u : State), ((l.foldl (fun u k => u.pushPacket p k) u).port p).kept = (u.port p).kept := by
    intro l
    induction l with
    | nil => exact fun u => rfl
    | cons k l ih => exact fun u => (ih _).trans (u.pushPacket_kept p k)
  let u := ((s.trainShells (portShells p)).saveShells (portShells p)).linkTell p dead
  have shells : Moves 0x404 s u := (State.linkTell_moves _ p dead).step (by decide)
    ((State.saveShells_moves ..).step (by decide) ((State.trainShells_moves ..).mono (by decide)))
  have hu : u.fabric = s.fabric := shells.same .fabric (by decide)
  have credits : ∀ v : State, (v.giveAllCredits.port p).kept = (v.port p).kept :=
    fun v => (congrArg Port.kept (v.giveAllCredits_keepsPort p).1).trans (Port.kept_rx ..)
  calc ((s.backUp p waited dead).port p).kept
      = (((waited.foldl (fun u k => u.pushPacket p k) u).pumpAll p).port p).kept := credits _
    _ = ((waited.foldl (fun u k => u.pushPacket p k) u).port p).kept := State.pump_kept _ p _
    _ = (u.port p).kept := push waited u
    _ = (s.port p).kept := congrArg Port.kept (State.port_congr hu p)

/-- A port's retry buffer goes again from its first flit on (R232). -/
def State.replayAll (s : State) (p : Nat) : State :=
  match (s.port p).buffer with
  | f :: _ => s.replay p f.seq
  | [] => s

theorem State.replayAll_moves (s : State) (p : Nat) : Moves 0xc s (s.replayAll p) := by
  unfold State.replayAll
  split
  · exact State.replay_moves ..
  · exact .refl s

/-- A replay counts in PORT_ERRORS alone. -/
theorem State.replayAll_reg (s : State) (p : Nat) (q : Reg) (h : q.addr (p / 4) (p % 4) ≠ PORT_ERRORS.addr (p / 4) (p % 4)) :
    (s.replayAll p).reg q (p / 4) (p % 4) = s.reg q (p / 4) (p % 4) := by
  unfold State.replayAll
  split
  · exact State.reg_setReg_ne _ _ _ _ _ _ _ _ h
  · rfl

theorem retrainDone_spec {s : State} {p lanes : Fin 16} (margins : Word) {l : List Nat} (hr : s.portState p = portRETRAIN)
    (hl : trainLanes (lanes.val &&& (15 - (s.port p).excluded)) (s.port p).keepWidth = some l) :
    Completes (.retrainDone p lanes margins) s fun t =>
      t.portState p = portUP ∧ t.portF PORT_STATE_WIDTH p = l.length ∧ l.length ≤ (s.port p).keepWidth ∧ (t.port p).lanes = l ∧
      (t.port p).parked = [] ∧ (t.port p).away = false ∧ (∀ h ∈ t.selftest.heldPorts, h.1 ≠ p.val) ∧
      t.reg LANE_MARGIN (p / 4) (p % 4) = margins ∧ t.mem = s.mem := by
  obtain ⟨hkeep, hfour, -⟩ := trainLanes_spec hl
  let a := s.setPortF PORT_STATE_STATE p portUP
  let b := a.setLanes p l margins
  let c := b.setTest fun y => { y with heldPorts := y.heldPorts.filter fun h => h.1 != p.val }
  let e := (c.replayAll p).setPort p { c.port p with parked := [], replays := 0, away := false }
  let t := e.backUp p (c.port p).parked (s.bundleDead (s.port p).dir)
  have hexec : exec (.retrainDone p lanes margins) s = .next t := by
    show execRetrainDone p lanes margins s = _
    rw [execRetrainDone, if_neg (by simp [hr]), hl]
    rfl
  have ha : a.portState p = portUP ∧ (a.port p) = s.port p := ⟨State.getF_setF _ _ _ _ _ rfl, rfl⟩
  obtain ⟨hw, hs, hm, hp⟩ : b.portF PORT_STATE_WIDTH p = l.length ∧ b.portState p = a.portState p ∧
      b.reg LANE_MARGIN (p / 4) (p % 4) = margins ∧ b.port p = { a.port p with lanes := l } := a.setLanes_spec p l margins hfour
  have hb : b.selftest = s.selftest ∧ b.mem = s.mem := ⟨rfl, rfl⟩
  have hback := e.backUp_moves p (c.port p).parked (s.bundleDead (s.port p).dir)
  have hkept := e.backUp_kept p (c.port p).parked (s.bundleDead (s.port p).dir)
  change (t.port p).kept = _ at hkept
  change Moves _ e t at hback
  clear_value t a b
  have hregs : t.regs = (c.replayAll p).regs := hback.same .regs (by decide)
  have hreg (q : Reg) (h : q.addr (p / 4) (p % 4) ≠ PORT_ERRORS.addr (p / 4) (p % 4)) :
      t.reg q (p / 4) (p % 4) = b.reg q (p / 4) (p % 4) := by
    have := c.replayAll_reg p q h
    rw [State.reg] at this ⊢
    rw [hregs]
    exact this
  have hstate : t.reg PORT_STATE (p / 4) (p % 4) = b.reg PORT_STATE (p / 4) (p % 4) :=
    hreg PORT_STATE (by simp [Reg.addr, PORT_ERRORS, PORT_STATE])
  have hmargin : t.reg LANE_MARGIN (p / 4) (p % 4) = b.reg LANE_MARGIN (p / 4) (p % 4) :=
    hreg LANE_MARGIN (by simp [Reg.addr, PORT_ERRORS, LANE_MARGIN])
  have hfield (f : Fld) (h : f.reg = PORT_STATE) : t.portF f p = b.portF f p := by
    rw [State.portF, State.portF, State.getF, State.getF, h, hstate]
  have hport : (t.port p).kept = (l, [], false) := by
    refine hkept.trans ?_
    have hc : c.port p = { s.port p with lanes := l } := by rw [← ha.2]; exact hp
    have he : e.port p = { c.port p with parked := [], replays := 0, away := false } := State.port_setPort ..
    rw [he, hc]
    rfl
  obtain ⟨hlanes, hrest⟩ := Prod.mk.inj hport
  obtain ⟨hparked, haway⟩ := Prod.mk.inj hrest
  have htest : t.selftest = e.selftest := hback.same .selftest (by decide)
  have hetest : e.selftest = c.selftest := (c.replayAll_moves p).same .selftest (by decide)
  have hmem : t.mem = e.mem := hback.same .mem (by decide)
  have hemem : e.mem = c.mem := (c.replayAll_moves p).same .mem (by decide)
  have hheld : t.selftest.heldPorts = b.selftest.heldPorts.filter fun h => h.1 != p.val :=
    congrArg (·.heldPorts) ((htest.trans hetest : t.selftest = c.selftest))
  refine ⟨t, hexec, (hfield _ rfl).trans (hs.trans ha.1), (hfield _ rfl).trans hw, hkeep, hlanes, hparked, haway, ?_, hmargin.trans hm, ?_⟩
  · intro h hh
    rw [hheld] at hh
    exact bne_iff_ne.mp (List.mem_filter.mp hh).2
  · exact (hmem.trans hemem).trans hb.2

/-- RETRAIN that does not end in time leaves the port FAILED with CAUSE 3 (R232, R233). -/
theorem retrainTimeout_spec {s : State} {p : Fin 16} (hr : s.portState p = portRETRAIN) (ht : s.portTested p = false) :
    CompletesThen (.retrainTimeout p) s (fun u => ((u.spillPort p (s.port p)).noteHealth.linkReport p).tryCandidate) fun u =>
      u.portState p = portFAILED ∧ u.portF PORT_STATE_CAUSE p = 3 ∧ u.portF PORT_STATE_WIDTH p = 0 ∧
      (u.port p).buffer = [] ∧ (s.port p).deadline ≤ u.fabricNow := by
  have hv : (s.timeTo (s.port p).deadline).port p = s.port p := State.port_congr ((State.timeTo_moves ..).same .fabric (by decide)) p
  have hnow := s.le_fabricNow_timeTo (s.port p).deadline
  have hexec : exec (.retrainTimeout p) s = .next ((s.timeTo (s.port p).deadline).failPort p 3) := if_neg (by simp [hr, ht])
  generalize s.timeTo (s.port p).deadline = v at *
  let a := v.setPortF PORT_STATE_STATE p portFAILED
  let b := a.setPortF PORT_STATE_CAUSE p 3
  let u := (b.setPortF PORT_STATE_WIDTH p 0).setPort p (s.port p).emptied
  have hun : u.fabricNow = v.fabricNow := by rw [State.fabricNow_setPort, State.fabricNow_setPortF, State.fabricNow_setPortF,
    State.fabricNow_setPortF]
  have hu (f : Fld) : u.portF f p = (b.setPortF PORT_STATE_WIDTH p 0).portF f p :=
    State.portF_setPort ..
  have hs : u.portState p = portFAILED :=
    (hu _).trans <| (State.getF_setF_apart b PORT_STATE_WIDTH PORT_STATE_STATE _ _ _ rfl rfl rfl rfl).trans
      ((State.getF_setF_apart a PORT_STATE_CAUSE PORT_STATE_STATE _ _ _ rfl rfl rfl rfl).trans (State.getF_setF _ _ _ _ _ rfl))
  have hc : u.portF PORT_STATE_CAUSE p = 3 :=
    (hu _).trans <| (State.getF_setF_apart b PORT_STATE_WIDTH PORT_STATE_CAUSE _ _ _ rfl rfl rfl rfl).trans (State.getF_setF _ _ _ _ _ rfl)
  have hw : u.portF PORT_STATE_WIDTH p = 0 := (hu _).trans (State.getF_setF _ _ _ _ _ rfl)
  have hb : (u.port p).buffer = [] := by rw [State.port_setPort]; rfl
  refine ⟨u, hexec.trans ?_, hs, hc, hw, hb, hnow.trans_eq hun.symm⟩
  rw [State.failPort, hv]

/-! ### The writes to PORT_CTRL -/

theorem portClearCounts_spec {s : State} {p : Fin 16} (hd : s.dieRunning (p / 4) = true) :
    Completes (.portClearCounts p) s fun t =>
      t.reg PORT_ERRORS (p / 4) (p % 4) = 0 ∧ t.reg PORT_FEC (p / 4) (p % 4) = 0 ∧ t.fabric = s.fabric := by
  have ha : PORT_ERRORS.addr (p / 4) (p % 4) ≠ PORT_FEC.addr (p / 4) (p % 4) := by simp [Reg.addr, PORT_ERRORS, PORT_FEC]
  refine ⟨(s.setReg PORT_ERRORS (p / 4) (p % 4) 0).setReg PORT_FEC (p / 4) (p % 4) 0, ?_, ?_, State.reg_setReg .., rfl⟩
  · show execPortClearCounts p s = _
    rw [execPortClearCounts, State.portClear, if_pos hd]
  · exact (State.reg_setReg_ne _ _ _ _ _ _ _ _ ha).trans (State.reg_setReg ..)

/-- A port that begins a training holds nothing from before but its receive buffer, and is OFF where it is not used (R215, R473). -/
theorem State.trainPort_spec (s : State) (p : Nat) :
    ((s.trainPort p).portState p = portOFF ∨ (s.trainPort p).portState p = portTRAINING) ∧
    (s.trainPort p).port p = { Port.zero with dir := s.dirSet p, rx := (s.port p).emptied.rx } := by
  refine ⟨?_, State.port_setPort ..⟩
  let st := if s.dirSet p = 6 ∨ s.flag SIG_STATUS_EXHAUSTED 0 0 = true then portOFF else portTRAINING
  have h : (s.trainPort p).portState p = st % 2 ^ 3 := State.getF_setF _ PORT_STATE_STATE _ _ _ rfl
  rw [h]
  simp only [st]
  split
  · exact .inl rfl
  · exact .inr rfl

theorem portReset_spec {s : State} {p : Fin 16} (ha : s.awake = true) (hp : s.power.inReset = false)
    (hd : s.dieRunning (p / 4) = true) : Completes (.portReset p) s fun t =>
      (t.portState p = portOFF ∨ t.portState p = portTRAINING) ∧ (t.port p).buffer = [] ∧ (t.port p).streams = [] ∧
      (t.port p).parked = [] ∧ (t.port p).verified = false ∧ (t.port p).away = false ∧ (t.port p).excluded = 0 ∧ t.mem = s.mem := by
  let x := s.port p
  let s1 := ((s.resetPortRegs (p / 4) (p % 4)).clearKeys p).setPort p x.emptied
  let s2 := s1.spillPort p x
  let s3 := if s.portState p = portUP ∨ s.portState p = portRETRAIN then (s2.setPort p x.emptied).linkReport p else s2
  have hexec : exec (.portReset p) s = .next (s3.trainPort p) := by
    have h0 : s.powerState = 0 := eq_of_beq ha
    show execPortReset p s = _
    rw [execPortReset, State.gateReset, if_neg (by simp [hp]), h0]
    exact congrArg Host.Outcome.next (if_neg (by simp [hd]))
  have hmem : (s3.trainPort p).mem = s.mem := by
    have := (State.portReset_moves s p).same .mem (by decide)
    rwa [State.portReset, if_neg (by simp [hd])] at this
  obtain ⟨hs, hport⟩ := s3.trainPort_spec p
  exact ⟨s3.trainPort p, hexec, hs, congrArg Port.buffer hport, congrArg Port.streams hport, congrArg Port.parked hport,
    congrArg Port.verified hport, congrArg Port.away hport, congrArg Port.excluded hport, hmem⟩

/-- Settles O19: each event of a port's life by its own lemma above. -/
theorem portLifecycle : Obligations.PortLifecycle := by
  intro p s
  refine ⟨fun lanes margins ht hd => ⟨fun l hl => portTrained_spec margins ht hd hl, fun hl => ?_⟩, rfl, trainLanes_widest,
    fun lane hu => ?_, fun lane hu => ?_, fun lanes margins hr => ⟨fun l hl => retrainDone_spec margins hr hl, fun hl => ?_⟩,
    fun hr ht => ?_, retrainTimeout_spec, portClearCounts_spec, fun hs => ?_, portReset_spec⟩
  · show execPortTrained p lanes margins s = _
    rw [execPortTrained, if_neg (by simp [ht, hd]), hl]
  · obtain ⟨ho, hb, -, hs⟩ := s.retrain_spec p
    obtain ⟨hport, hshells⟩ := s.retrain_port p
    refine ⟨s.retrain p, ?_, hs, congrArg Port.keepWidth hport, congrArg Port.deadline hport, hb, ho, hshells⟩
    exact if_pos hu
  · exact if_neg hu
  · show execRetrainDone p lanes margins s = _
    rw [execRetrainDone, if_neg (by simp [hr]), hl]
  · exact if_pos (.inr ht)
  · exact if_pos hs
end Sys2Proof.Machine
end

