-- ==== Sys2Proof/Proofs/RemoteIssue.lean ====
section
/-!
PROOFS. PUT, GET and ATOMIC from the head of a tile queue: what admission to the tracker leaves alone, and what follows it (R75, R184 to
R189, R197, R211 to R213).
-/
namespace Sys2Proof.Machine

open Sys2Proof

/-! ### What admission leaves alone -/

/-- Every register but TRACKER_STATUS of die d reads as before. -/
def RegsKeep (d : Nat) (s t : State) : Prop := ∀ (q : Reg) (e i : Nat), q.addr e i ≠ TRACKER_STATUS.addr d 0 → t.reg q e i = s.reg q e i

/-- From s to t only the trackers, TRACKER_STATUS of die d, and of the cores what no access waits for has changed. -/
structure AdmitKeeps (d : Nat) (s t : State) : Prop where
  regs : RegsKeep d s t
  errs : s.NoErrs → t.NoErrs
  windows : ∀ a, t.windowBusy none a = s.windowBusy none a
  time : t.time = s.time
  clock : t.clock = s.clock
  out : t.out = s.out
  mem : t.mem = s.mem
  poison : t.poison = s.poison
  arrivals : t.arrivals = s.arrivals
  paths : t.paths = s.paths
  fabric : t.fabric = s.fabric
  host : t.host = s.host
  power : t.power = s.power

theorem RegsKeep.trans {d : Nat} {s t u : State} (h : RegsKeep d s t) (k : RegsKeep d t u) : RegsKeep d s u :=
  fun q e i hq => (k q e i hq).trans (h q e i hq)

theorem RegsKeep.of_regs {d : Nat} {s t : State} (h : t.regs = s.regs) : RegsKeep d s t := fun q e i _ => by rw [State.reg, State.reg, h]

theorem RegsKeep.setEntries (s : State) (d : Nat) (es : List TrackEntry) : RegsKeep d s (s.setEntries d es) := fun _ _ _ h =>
  (State.reg_setReg_ne _ TRACKER_STATUS _ _ _ _ _ _ h).trans (State.reg_setReg_ne _ TRACKER_STATUS _ _ _ _ _ _ h)

namespace AdmitKeeps
variable {d : Nat} {s t u : State}

theorem trans (h : AdmitKeeps d s t) (k : AdmitKeeps d t u) : AdmitKeeps d s u where
  regs := h.regs.trans k.regs
  errs := k.errs ∘ h.errs
  windows a := (k.windows a).trans (h.windows a)
  time := k.time.trans h.time
  clock := k.clock.trans h.clock
  out := k.out.trans h.out
  mem := k.mem.trans h.mem
  poison := k.poison.trans h.poison
  arrivals := k.arrivals.trans h.arrivals
  paths := k.paths.trans h.paths
  fabric := k.fabric.trans h.fabric
  host := k.host.trans h.host
  power := k.power.trans h.power

theorem setTracker (s : State) (d : Nat) (t : Tracker) : AdmitKeeps d s (s.setTracker d t) :=
  ⟨fun _ _ _ _ => rfl, id, fun _ => rfl, rfl, rfl, rfl, rfl, rfl, rfl, rfl, rfl, rfl, rfl⟩

theorem setEntries (s : State) (d : Nat) (es : List TrackEntry) : AdmitKeeps d s (s.setEntries d es) :=
  ⟨RegsKeep.setEntries s d es, id, fun _ => rfl, rfl, rfl, rfl, rfl, rfl, rfl, rfl, rfl, rfl, rfl⟩

section
variable (h : AdmitKeeps d s t)
include h

theorem getF {f : Fld} {e i : Nat} (hf : f.reg.addr e i ≠ TRACKER_STATUS.addr d 0) : t.getF f e i = s.getF f e i := by
  rw [State.getF, State.getF, h.regs _ _ _ hf]

theorem flag {f : Fld} {e i : Nat} (hf : f.reg.addr e i ≠ TRACKER_STATUS.addr d 0) : t.flag f e i = s.flag f e i := by
  rw [State.flag, State.flag, h.getF hf]

theorem fabricNow : t.fabricNow = s.fabricNow := by
  rw [State.fabricNow, State.fabricNow, State.sinceAnchor, State.sinceAnchor, h.time, h.clock]

theorem dieRunning (k : Nat) : t.dieRunning k = s.dieRunning k := by
  unfold State.dieRunning
  rw [h.power, h.getF (f := DIE_STATE_STATE) (by simp [Reg.addr, DIE_STATE_STATE, DIE_STATE, TRACKER_STATUS]; omega),
    h.getF (f := STATE_STATUS_STATE) (by simp [Reg.addr, STATE_STATUS_STATE, STATE_STATUS, TRACKER_STATUS]; omega)]

theorem stackState (k : Nat) : t.stackState k = s.stackState k :=
  h.getF (by simp [Reg.addr, STACK_STATE_STATE, STACK_STATE, TRACKER_STATUS]; omega)

theorem reachAt (a : Nat) : t.reachAt a = s.reachAt a := State.reachAt_congr (fun k _ => h.dieRunning k) h.stackState a

theorem extentReach (a n : Nat) : t.extentReach a n = s.extentReach a n :=
  State.extentReach_congr (fun k _ => h.dieRunning k) h.stackState a n

theorem device : t.device = s.device :=
  State.device_congr (h.regs _ _ _ (by simp [Reg.addr, MASSIF_COORD, TRACKER_STATUS]; omega))
    (h.regs _ _ _ (by simp [Reg.addr, MASSIF_DIMS, TRACKER_STATUS]; omega))

theorem ptrOwn (p : Word) : t.ptrOwn p = s.ptrOwn p := by rw [State.ptrOwn, State.ptrOwn, h.device]

theorem job : t.job = s.job := h.getF (by simp [Reg.addr, MEMBER_STATE_JOB, MEMBER_STATE, TRACKER_STATUS]; omega)

theorem jobPeer (dev : Nat) : t.jobPeer dev = s.jobPeer dev := by
  unfold State.jobPeer State.memberOf
  rw [h.job, h.fabric]

theorem trailOf (k dst : Nat) : t.trailOf k dst = s.trailOf k dst := by
  cases s; cases t
  obtain rfl : _ = _ := h.fabric
  rfl

theorem collapseDiscards (step cls : Nat) : t.collapseDiscards step cls = s.collapseDiscards step cls := by
  unfold State.collapseDiscards
  rw [h.getF (f := CORNICE_STATUS_STATE) (by simp [Reg.addr, CORNICE_STATUS_STATE, CORNICE_STATUS, TRACKER_STATUS]; omega),
    h.getF (f := CORNICE_STATUS_STEP) (by simp [Reg.addr, CORNICE_STATUS_STEP, CORNICE_STATUS, TRACKER_STATUS]; omega)]

theorem regionStatus (own : Bool) (a n : Nat) : t.regionStatus own a n = s.regionStatus own a n := by
  unfold State.regionStatus
  rw [h.extentReach]

theorem portStatus (a n : Nat) : t.portStatus a n = s.portStatus a n := by
  unfold State.portStatus State.ringWords
  split
  · next k q off _ =>
    rw [h.dieRunning, h.flag (f := Q_CFG_ENABLE) (by simp [Reg.addr, Q_CFG_ENABLE, Q_CFG, TRACKER_STATUS]; omega),
      h.getF (f := Q_SIZE_SIZE) (by simp [Reg.addr, Q_SIZE_SIZE, Q_SIZE, TRACKER_STATUS]; omega)]
  · rfl

theorem localSide (r : RemReq) : t.localSide r = s.localSide r := by
  unfold State.localSide
  rw [h.regionStatus]

theorem ownTarget (r : RemReq) : t.ownTarget r = s.ownTarget r := by
  unfold State.ownTarget
  simp only [h.portStatus, h.regionStatus, h.dieRunning]

theorem poolStatus (a n : Nat) : t.poolStatus a n = s.poolStatus a n := by
  have hb (i : Nat) : t.rangeBase i = s.rangeBase i :=
    congrArg (· * 4096) (h.getF (by simp [Reg.addr, RANGE_BASE_BASE, RANGE_BASE, TRACKER_STATUS]; omega))
  have hz (i : Nat) : t.rangeSize i = s.rangeSize i :=
    congrArg (· * 4096) (h.getF (by simp [Reg.addr, RANGE_SIZE_SIZE, RANGE_SIZE, TRACKER_STATUS]; omega))
  have hs (i : Nat) : t.rangeState i = s.rangeState i := h.getF (by simp [Reg.addr, RANGE_STATE_STATE, RANGE_STATE, TRACKER_STATUS]; omega)
  unfold State.poolStatus State.rangeOf
  simp only [hb, hz, hs]

/-- The status that a request gets at its source is the one it had before (Table 7.7). -/
theorem sourceStatus (k : Nat) (r : RemReq) : t.sourceStatus k r = s.sourceStatus k r := by
  unfold State.sourceStatus
  simp only [h.ptrOwn, h.ownTarget, h.jobPeer, h.trailOf, h.collapseDiscards, h.localSide, h.poolStatus,
    h.flag (f := HOST_BLK_STATUS_BOUND) (e := 0) (i := 0) (by simp [Reg.addr, HOST_BLK_STATUS_BOUND, HOST_BLK_STATUS, TRACKER_STATUS]; omega)]

theorem wayTrains (l : List Nat) (a : Nat) : t.wayTrains a l = s.wayTrains a l := by
  induction l generalizing a with
  | nil => rfl
  | cons b l ih =>
    rw [State.wayTrains, State.wayTrains, ih,
      h.getF (f := SADDLE_STATUS_STATE) (by simp [Reg.addr, SADDLE_STATUS_STATE, SADDLE_STATUS, TRACKER_STATUS]; omega)]

theorem pairWaits (k a : Nat) : t.pairWaits k a = s.pairWaits k a := by
  unfold State.pairWaits State.pathInUse State.pairPath
  simp only [h.paths, h.wayTrains]

theorem accessHeld (a n : Nat) (write : Bool) : t.accessHeld a n write = s.accessHeld a n write := by
  unfold State.accessHeld State.stackHeld State.snooped State.behind
  simp only [h.windows, h.extentReach, h.reachAt, h.host, h.arrivals]

theorem ringHeld (k q : Nat) : t.ringHeld k q = s.ringHeld k q := by
  unfold State.ringHeld State.ringWords
  rw [h.accessHeld, h.getF (f := Q_CFG_BASE) (by simp [Reg.addr, Q_CFG_BASE, Q_CFG, TRACKER_STATUS]; omega),
    h.getF (f := Q_SIZE_SIZE) (by simp [Reg.addr, Q_SIZE_SIZE, Q_SIZE, TRACKER_STATUS]; omega)]

/-- What holds a request held it before. -/
theorem requestHeld (k : Nat) (r : RemReq) : t.requestHeld k r = s.requestHeld k r := by
  unfold State.requestHeld State.pathHeld State.ownExtents
  simp only [h.ptrOwn, h.pairWaits, h.accessHeld, h.ringHeld]

theorem packetMsg (kind : MsgKind) (k : Nat) (x : Header) (data : List Byte) (marks : List Bool) :
    t.packetMsg kind k x data marks = s.packetMsg kind k x data marks := by
  have hd : t.dims = s.dims := by
    rw [State.dims, State.dims, h.regs _ _ _ (by simp [Reg.addr, MASSIF_DIMS, TRACKER_STATUS]; omega)]
  unfold State.packetMsg State.routeWord State.coordOf
  simp only [hd, h.trailOf]

theorem header (k : Nat) (e : TrackEntry) (last pois : Bool) (seg : Nat) : t.header k e last pois seg = s.header k e last pois seg := by
  unfold State.header
  simp only [h.device, h.getF (f := EPOCH_EPOCH) (e := 0) (i := 0) (by simp [Reg.addr, EPOCH_EPOCH, EPOCH, TRACKER_STATUS]; omega)]

theorem marks (a n : Nat) : t.marks a n = s.marks a n := by
  unfold State.marks State.poisonAt
  rw [h.poison]

theorem poisoned (a n : Nat) : t.poisoned a n = s.poisoned a n := by
  unfold State.poisoned State.poisonAt
  rw [h.poison]

theorem segPayload (e : TrackEntry) (i : Nat) : t.segPayload e i = s.segPayload e i := by
  unfold State.segPayload
  simp only [State.bytes_of_mem h.mem, h.marks]

end
end AdmitKeeps

/-! ### A place in the move pipe, and an entry -/

/-- A remote word takes a place in its core's move pipe. -/
def State.placeMove (s : State) (d g : Nat) (e : TqEntry) : State :=
  s.updCore d g fun c => { c with moves := c.moves ++ [⟨e, true, true, c.moveSeq⟩], moveSeq := c.moveSeq + 1 }

theorem State.startRemote_of_room {s : State} {d g : Nat} (h : (s.coreOf d g).moves.length < 16) (e : TqEntry) (r : RemReq) :
    s.startRemote d g e r = some ((s.placeMove d g e).remoteIssue State.fireTrigger d r) := if_neg (by omega)

/-- No access waits for a remote word in the move pipe (R38). -/
theorem AdmitKeeps.placeMove (s : State) (d g : Nat) (e : TqEntry) : AdmitKeeps d s (s.placeMove d g e) := by
  refine ⟨fun _ _ _ _ => rfl, fun hs => ⟨hs.1, fun k => ?_⟩, fun a => ?_, rfl, rfl, rfl, rfl, rfl, rfl, rfl, rfl, rfl, rfl⟩
  · by_cases hk : k = globalCore d g
    · subst hk
      exact (congrArg Core.ecc (State.core_setCore ..)).trans (hs.2 _)
    · exact (congrArg Core.ecc (State.core_setCore_ne _ _ _ _ hk)).trans (hs.2 _)
  · unfold State.windowBusy
    split
    · rfl
    · next k _ =>
      by_cases hk : k = globalCore d g
      · subst hk
        rw [show (s.placeMove d g e).core (globalCore d g) = _ from State.core_setCore ..]
        simp [State.coreOf]
      · rw [show (s.placeMove d g e).core k = _ from State.core_setCore_ne _ _ _ _ hk]

/-- The entry that a request gets which no FENCE holds. -/
def State.newEntry (s : State) (d : Nat) (r : RemReq) : TrackEntry :=
  ⟨(s.tracker d).freeId r.step, r, (s.tracker d).orders, .sent, segCount r.len, [], stDONE, 0, ptrDevice r.ptr,
    s.getF REMOTE_EXPERT_TIMEOUT_US d 0⟩

/-- The tracker with that entry. -/
def State.admitted (s : State) (d : Nat) (r : RemReq) : State :=
  (s.setTracker d { s.tracker d with orders := (s.tracker d).orders + 1 }).setEntries d ((s.tracker d).entries ++ [s.newEntry d r])

theorem AdmitKeeps.admitted (s : State) (d : Nat) (r : RemReq) : AdmitKeeps d s (s.admitted d r) := (setTracker ..).trans (setEntries ..)

theorem State.tracker_admitted (s : State) (d : Nat) (r : RemReq) : (s.admitted d r).tracker d =
    { s.tracker d with orders := (s.tracker d).orders + 1, entries := (s.tracker d).entries ++ [s.newEntry d r] } := by
  rw [State.admitted, State.tracker_setEntries, State.tracker_setTracker]

section
variable {s : State} {d : Nat} {r : RemReq}

/-- Without a free entry, or behind others, a request waits (R187). -/
theorem State.remoteIssue_waits (fire : FireFn) (h : (s.tracker d).waiters ≠ [] ∨ s.trackerRoom d ≤ (s.tracker d).entries.length) :
    s.remoteIssue fire d r = s.setTracker d { s.tracker d with waiters := (s.tracker d).waiters ++ [r] } := by
  refine if_neg ?_
  obtain h | h := h <;> simp [h]

variable (hw : (s.tracker d).waiters = []) (hn : (s.tracker d).entries.length < s.trackerRoom d)
include hw hn

theorem State.remoteIssue_admits (fire : FireFn) (hf : (s.tracker d).fenced r (s.tracker d).orders = false) :
    s.remoteIssue fire d r = (s.admitted d r).sendEntry fire d (s.newEntry d r) := by
  rw [State.remoteIssue, if_pos (by simp [hw, hn]), State.admitRemote, hf, Bool.and_false]
  rfl

omit hw

theorem State.newEntry_fresh : ∀ x ∈ (s.tracker d).entries, x.id ≠ (s.newEntry d r).id := by
  have hroom : (s.tracker d).entries.length < 4096 := by unfold State.trackerRoom at hn; omega
  have hfree := (s.tracker d).freeId_free r.step hroom
  simpa only [State.newEntry] using hfree

theorem State.find_newEntry : ((s.admitted d r).tracker d).entries.find? (fun x => x.id == (s.newEntry d r).id) = some (s.newEntry d r) := by
  rw [State.tracker_admitted, List.find?_append, List.find?_eq_none.mpr fun x hx => by simpa using State.newEntry_fresh hn x hx]
  simp

/-- An operation that ends frees its entry alone. -/
theorem State.filter_newEntry :
    ((s.admitted d r).tracker d).entries.filter (fun x => x.id != (s.newEntry d r).id) = (s.tracker d).entries := by
  rw [State.tracker_admitted, List.filter_append, List.filter_eq_self.mpr fun x hx => by simpa using State.newEntry_fresh hn x hx]
  simp

end

/-! ### The end of a tile queue's operation -/

/-- A tile queue hears of the end of its operation: the place in the move pipe is free, and its counter counts (R61, R211). -/
def State.heard (s : State) (d g : Nat) (r : RemReq) : State :=
  s.updCore d g fun c =>
    let c1 := { c with moves := c.moves.filter fun m => !(m.remote && m.uid == r.uid) }
    if r.ecEn then c1.addEc r.ec 1 else c1

theorem State.coreOf_heard (s : State) (d g : Nat) (r : RemReq) (h : r.ecEn = true) :
    ((s.heard d g r).coreOf d g).ecOf r.ec = ((s.coreOf d g).ecOf r.ec + 1) % 65536 := by
  rw [State.heard, State.coreOf_updCore, if_pos h]
  exact kget_kset_same ..

/-- A failure that REMOTE_FAIL records (R213). -/
theorem State.remoteFail_spec (s : State) (d g : Nat) (r : RemReq) {st : Nat} (hst : st < 256) :
    (s.remoteFail d g r st).flag REMOTE_FAIL_VALID d g = true ∧
    (s.flag REMOTE_FAIL_VALID d g = false → (s.remoteFail d g r st).getF REMOTE_FAIL_CODE d g = st) := by
  let a := s.setF REMOTE_FAIL_VALID d g 1
  let b := a.setF REMOTE_FAIL_CODE d g st
  let c := b.setF REMOTE_FAIL_OPC d g r.opc
  let e := c.setReg REMOTE_FAIL_PTR d g r.ptr
  have hfail : s.remoteFail d g r st = (if s.flag REMOTE_FAIL_VALID d g then s else e).satF REMOTE_FAIL_COUNT d g 1 := rfl
  have ha : REMOTE_FAIL.addr d g ≠ REMOTE_FAIL_PTR.addr d g := by simp [Reg.addr, REMOTE_FAIL, REMOTE_FAIL_PTR]
  have count (u : State) (f : Fld) (hr : f.reg = REMOTE_FAIL) (hf : f.fits = true) (hp : REMOTE_FAIL_COUNT.apart f = true) :
      (u.satF REMOTE_FAIL_COUNT d g 1).getF f d g = u.getF f d g := State.getF_setF_apart _ REMOTE_FAIL_COUNT f _ _ _ hr rfl hf hp
  have hec (f : Fld) (hr : f.reg = REMOTE_FAIL) : e.getF f d g = c.getF f d g := by
    rw [State.getF, State.getF, hr]
    exact congrArg _ (State.reg_setReg_ne _ _ _ _ _ _ _ _ ha)
  have hvalid : e.getF REMOTE_FAIL_VALID d g = 1 :=
    (hec _ rfl).trans <| (State.getF_setF_apart b REMOTE_FAIL_OPC REMOTE_FAIL_VALID _ _ _ rfl rfl rfl rfl).trans <|
      (State.getF_setF_apart a REMOTE_FAIL_CODE REMOTE_FAIL_VALID _ _ _ rfl rfl rfl rfl).trans (State.getF_setF _ _ _ _ _ rfl)
  have hcode : e.getF REMOTE_FAIL_CODE d g = st :=
    (hec _ rfl).trans <| (State.getF_setF_apart b REMOTE_FAIL_OPC REMOTE_FAIL_CODE _ _ _ rfl rfl rfl rfl).trans <|
      (State.getF_setF _ _ _ _ _ rfl).trans (Nat.mod_eq_of_lt hst)
  rw [hfail]
  refine ⟨?_, fun hv => ?_⟩
  · rw [State.flag, count _ _ rfl rfl rfl]
    split
    · next hv => exact hv
    · rw [hvalid]; rfl
  · rw [count _ _ rfl rfl rfl, hv]
    exact hcode

theorem remoteFail_apart (d g : Nat) : REMOTE_FAIL.addr d g ≠ TRACKER_STATUS.addr d 0 := by
  simp [Reg.addr, REMOTE_FAIL, TRACKER_STATUS]; omega

theorem State.deliver_core {s : State} {d g : Nat} {r : RemReq} (hw : r.who = .core g) (st : Nat) (data : List Byte) :
    s.deliver d r st data = if st = stDONE then s.heard d g r else (s.heard d g r).remoteFail d g r st := by
  unfold State.deliver
  rw [hw]
  rfl

/-! ### Statuses -/

/-- A code of Table 0.5: of it and DONE it is the one reported. -/
def StatusCode (n : Nat) : Prop := n < 256 ∧ statusMax stDONE n = n

theorem StatusCode.max {a b : Nat} (ha : StatusCode a) (hb : StatusCode b) : StatusCode (statusMax a b) := by
  unfold statusMax
  split
  · exact hb
  · exact ha

theorem StatusCode.done : StatusCode stDONE := ⟨by decide, by decide⟩
theorem StatusCode.invalid : StatusCode stINVALID := ⟨by decide, by decide⟩
theorem StatusCode.unreachable : StatusCode stUNREACHABLE := ⟨by decide, by decide⟩
theorem StatusCode.nores : StatusCode stNORES := ⟨by decide, by decide⟩
theorem StatusCode.poisoned : StatusCode stPOISONED := ⟨by decide, by decide⟩
theorem StatusCode.collapsed : StatusCode stCOLLAPSED := ⟨by decide, by decide⟩

theorem StatusCode.ite {c : Prop} [Decidable c] {a b : Nat} (ha : StatusCode a) (hb : StatusCode b) : StatusCode (if c then a else b) := by
  split
  · exact ha
  · exact hb

theorem State.regionStatus_code (s : State) (own : Bool) (a n : Nat) : StatusCode (s.regionStatus own a n) := by
  have hr : StatusCode (s.extentReach a n).status := by cases s.extentReach a n <;> exact ⟨by decide, by decide⟩
  unfold State.regionStatus
  split
  · exact .invalid
  · exact .invalid
  · exact .ite hr .invalid
  · exact hr

theorem State.portStatus_code (s : State) (a n : Nat) : StatusCode (s.portStatus a n) := by
  unfold State.portStatus
  split
  · exact .ite .invalid (.ite .unreachable (.ite .done .nores))
  · exact .invalid

theorem State.localSide_code (s : State) (r : RemReq) : StatusCode (s.localSide r) := by
  unfold State.localSide
  refine .ite .done ?_
  split
  · exact .done
  · exact .done
  · exact .done
  · exact s.regionStatus_code ..

theorem State.ownTarget_code (s : State) (r : RemReq) : StatusCode (s.ownTarget r) := by
  unfold State.ownTarget
  dsimp only
  split
  · exact s.portStatus_code ..
  · exact s.regionStatus_code ..
  · exact s.regionStatus_code ..
  · exact .invalid
  · split
    · exact .ite .done .unreachable
    · exact s.regionStatus_code ..

theorem State.poolStatus_code (s : State) (a n : Nat) : StatusCode (s.poolStatus a n) := by
  unfold State.poolStatus
  split
  · exact .invalid
  · exact .ite .unreachable .done

/-- What a request gets at its source is a code of Table 0.5. -/
theorem State.sourceStatus_code (s : State) (d : Nat) (r : RemReq) : StatusCode (s.sourceStatus d r) := by
  unfold State.sourceStatus
  dsimp only
  have hst : StatusCode (statusMax (statusMax (if s.collapseDiscards r.step r.cls then stCOLLAPSED else stDONE) (s.localSide r))
      (if s.ptrOwn r.ptr then s.ownTarget r
        else if ptrSpace r.ptr = 1 then
          (if s.jobPeer (ptrDevice r.ptr) && s.trailOf d (ptrDevice r.ptr) % 4 == 1 then stDONE else stUNREACHABLE)
        else if ptrSpace r.ptr = 3 then (if s.flag HOST_BLK_STATUS_BOUND 0 0 then stDONE else stUNREACHABLE)
        else stDONE)) :=
    .max (.max (.ite .collapsed .done) (s.localSide_code r))
      (.ite (s.ownTarget_code r) (.ite (.ite .done .unreachable) (.ite (.ite .done .unreachable) .done)))
  exact .ite .invalid (.ite (.max hst (s.poolStatus_code ..)) hst)

/-! ### The end of an operation just admitted -/

/-- A tile queue's operation ends: its entry and what waits for it go, and the queue hears. -/
def State.ended (s : State) (d g id : Nat) (r : RemReq) (es : List TrackEntry) : State := ((s.unpark d id).setEntries d es).heard d g r

section
variable {s v : State} {d g : Nat} {r : RemReq}

/-- The operation of an entry just made ends (R211, R213). -/
theorem State.finish_newEntry (hn : (s.tracker d).entries.length < s.trackerRoom d) (hv : v.tracker d = (s.admitted d r).tracker d)
    (hw : r.who = .core g) {st : Nat} (hst : StatusCode st) (data : List Byte) :
    let u := v.ended d g (s.newEntry d r).id r (s.tracker d).entries
    v.finish d (s.newEntry d r).id st data = if st = stDONE then u else u.remoteFail d g r st := by
  intro u
  have hmax : statusMax (s.newEntry d r).status st = st := hst.2
  unfold State.finish
  rw [hv, State.find_newEntry hn]
  dsimp only
  rw [State.filter_newEntry hn, hmax]
  exact State.deliver_core hw st data

end

theorem State.ended_spec (v : State) (d g id : Nat) (r : RemReq) (es : List TrackEntry) :
    (v.ended d g id r es).mem = v.mem ∧ (v.ended d g id r es).out = v.out ∧ RegsKeep d v (v.ended d g id r es) ∧
    ((v.ended d g id r es).tracker d).entries = es ∧
    (r.ecEn = true → ((v.ended d g id r es).coreOf d g).ecOf r.ec = ((v.coreOf d g).ecOf r.ec + 1) % 65536) :=
  ⟨rfl, rfl, RegsKeep.trans (t := v.unpark d id) (fun _ _ _ _ => rfl) (RegsKeep.setEntries (v.unpark d id) d es),
    congrArg (·.entries) (State.tracker_setEntries (v.unpark d id) d es), State.coreOf_heard ((v.unpark d id).setEntries d es) d g r⟩

/-! ### Segments -/

/-- The packet of segment i of an operation (R189). -/
def State.segMsg (s : State) (d : Nat) (e : TrackEntry) (i : Nat) : Msg :=
  s.packetMsg .request d (s.header d e (decide (i + 1 = e.total)) ((s.segPayload e i).2.any id) (i * 64)) (s.segPayload e i).1
    (s.segPayload e i).2

theorem State.foldl_sendSegment (s : State) (d : Nat) (e : TrackEntry) (l : List Nat) :
    l.foldl (fun u i => u.sendSegment d e i) s = s.sends (l.map (s.segMsg d e)) := by
  induction l generalizing s with
  | nil => simp [State.sends]
  | cons i l ih =>
    have hmsg : (s.sendSegment d e i).segMsg d e = s.segMsg d e := rfl
    rw [List.foldl_cons, ih, hmsg]
    simp [State.sendSegment, State.sendPacket, State.sends, State.segMsg]

/-- Without errors in memory an operation is sent segment by segment (R189, R212). -/
theorem State.NoErrs.sendSegments_eq {s : State} (hs : s.NoErrs) (d : Nat) (e : TrackEntry) :
    let v := s.updEntry d e.id fun x => { x with phase := .sent, deadline := s.fabricNow + x.limit * 1000 }
    s.sendSegments d e = v.sends ((List.range e.total).map (v.segMsg d e)) := by
  intro v
  unfold State.sendSegments
  rw [hs.meetErrs_eq, ite_self]
  exact v.foldl_sendSegment d e _

/-! ### A copy in the own package -/

theorem State.length_bytes (s : State) (a n : Nat) : (s.bytes a n).length = n := by simp [State.bytes, rangeFrom]

theorem State.mem_storeBytes_congr {s t : State} (h : t.mem = s.mem) (a : Nat) (bs : List Byte) :
    (t.storeBytes a bs).mem = (s.storeBytes a bs).mem := by
  induction bs generalizing s t a with
  | nil => exact h
  | cons b bs ih => exact ih (congrArg (fun m => kset 0 m (memKey a) b) h) (a + 1)

theorem State.mem_writeMarked_congr {s t : State} (h : t.mem = s.mem) (a : Nat) (bs : List Byte) (ps : List Bool) :
    (t.writeMarked a bs ps).mem = (s.writeMarked a bs ps).mem := by
  rw [State.mem_writeMarked, State.mem_writeMarked, State.mem_write, State.mem_write, State.mem_storeBytes_congr h]

theorem State.NoErrs.copyBytes_eq {s : State} (hs : s.NoErrs) (src dst n : Nat) : s.copyBytes src dst n =
    (s.writeMarked dst (s.bytes src n) (s.marks src n), if s.poisoned src n then stPOISONED else stDONE) := by
  unfold State.copyBytes
  rw [hs.meetErrs_eq, hs.meetErrs_eq]

/-! ### The cases of an issue -/

section
variable {s : State} {d g : Nat} {e : TqEntry} {r : RemReq} {c : Instr}
variable (hx : exec c s = .next (((s.placeMove d g e).remoteIssue State.fireTrigger d r).popHead d g).afterWork)
include hx

theorem issue_waits (h : (s.tracker d).waiters ≠ [] ∨ s.trackerRoom d ≤ (s.tracker d).entries.length) :
    CompletesThen c s (fun u => (u.popHead d g).afterWork) fun u =>
      (u.tracker d).waiters = (s.tracker d).waiters ++ [r] ∧ (u.tracker d).entries = (s.tracker d).entries ∧
      u.mem = s.mem ∧ u.out = s.out := by
  let m := s.placeMove d g e
  have hm : m.remoteIssue State.fireTrigger d r = m.setTracker d { s.tracker d with waiters := (s.tracker d).waiters ++ [r] } :=
    State.remoteIssue_waits State.fireTrigger h
  have ht := m.tracker_setTracker d { s.tracker d with waiters := (s.tracker d).waiters ++ [r] }
  exact ⟨_, hx, by rw [hm, ht], by rw [hm, ht], by rw [hm]; rfl, by rw [hm]; rfl⟩

section
variable (hw : (s.tracker d).waiters = []) (hn : (s.tracker d).entries.length < s.trackerRoom d)
variable (hf : (s.tracker d).fenced r (s.tracker d).orders = false)
include hw hn hf

theorem issue_admits : ∃ m : State, AdmitKeeps d s m ∧ m.tracker d = s.tracker d ∧ (m.tracker d).entries.length < m.trackerRoom d ∧
    m.coreOf d g = (s.placeMove d g e).coreOf d g ∧ m.newEntry d r = s.newEntry d r ∧ m.regs = s.regs ∧
    exec c s = .next ((((m.admitted d r).sendEntry State.fireTrigger d (s.newEntry d r)).popHead d g)).afterWork :=
  ⟨s.placeMove d g e, .placeMove s d g e, rfl, hn, rfl, rfl, rfl,
    hx.trans (by rw [State.remoteIssue_admits (s := s.placeMove d g e) hw hn State.fireTrigger hf]; rfl)⟩

theorem issue_refused (hwho : r.who = .core g) (hst : s.sourceStatus d r ≠ stDONE) :
    CompletesThen c s (fun u => (u.popHead d g).afterWork) fun u =>
      u.flag REMOTE_FAIL_VALID d g = true ∧
      (s.flag REMOTE_FAIL_VALID d g = false → u.getF REMOTE_FAIL_CODE d g = s.sourceStatus d r) ∧
      u.mem = s.mem ∧ u.out = s.out := by
  obtain ⟨m, hm, -, hroom, -, hnew, -, hexec⟩ := issue_admits hx hw hn hf
  have ha := hm.trans (AdmitKeeps.admitted m d r)
  have hcode := s.sourceStatus_code d r
  let w := (m.admitted d r).ended d g (s.newEntry d r).id r (m.tracker d).entries
  have hend : (m.admitted d r).sendEntry State.fireTrigger d (s.newEntry d r) = w.remoteFail d g r (s.sourceStatus d r) := by
    have h1 : (m.admitted d r).sourceStatus d (s.newEntry d r).req = s.sourceStatus d r := ha.sourceStatus d r
    have h2 := State.finish_newEntry (v := m.admitted d r) hroom rfl hwho hcode []
    rw [hnew] at h2
    rw [State.sendEntry, h1, if_pos hst]
    exact h2.trans (if_neg hst)
  obtain ⟨hv, hc⟩ := w.remoteFail_spec d g r hcode.1
  obtain ⟨hmem, hout, hregs, -, -⟩ := (m.admitted d r).ended_spec d g (s.newEntry d r).id r (m.tracker d).entries
  rw [hend] at hexec
  change w.mem = _ at hmem
  change w.out = _ at hout
  change RegsKeep d _ w at hregs
  clear_value w
  have hvalid : w.flag REMOTE_FAIL_VALID d g = s.flag REMOTE_FAIL_VALID d g := by
    have := (ha.regs.trans hregs) REMOTE_FAIL d g (remoteFail_apart d g)
    exact congrArg (fun v => REMOTE_FAIL_VALID.get v != 0) this
  have hmoves := State.remoteFail_moves w d g r (s.sourceStatus d r)
  have hmem' : (w.remoteFail d g r (s.sourceStatus d r)).mem = w.mem := hmoves.same .mem (by decide)
  have hout' : (w.remoteFail d g r (s.sourceStatus d r)).out = w.out := hmoves.same .out (by decide)
  exact ⟨_, hexec, hv, fun h => hc (hvalid.trans h), hmem'.trans (hmem.trans ha.mem), hout'.trans (hout.trans ha.out)⟩

end

variable (hg : s.GoesAtOnce d r) (hk : r.kind ≠ .enqueue)
include hg hk

/-- A request that goes at once meets nothing that holds it: it is performed here, or sent (R42, R184 to R189). -/
theorem issue_goes : ∃ m : State, AdmitKeeps d s m ∧ m.tracker d = s.tracker d ∧ (m.tracker d).entries.length < m.trackerRoom d ∧
    m.coreOf d g = (s.placeMove d g e).coreOf d g ∧ m.newEntry d r = s.newEntry d r ∧
    (s.ptrOwn r.ptr = true → exec c s =
      .next ((((m.admitted d r).performOwn State.fireTrigger d (s.newEntry d r)).popHead d g)).afterWork) ∧
    (s.ptrOwn r.ptr = false → ptrSpace r.ptr = 1 → exec c s =
      .next ((((m.admitted d r).sendSegments d (s.newEntry d r)).popHead d g)).afterWork) := by
  obtain ⟨hw, hn, hf, hst, hheld, -, hphase⟩ := hg
  obtain ⟨m, hm, htr, hroom, hcore, hnew, -, hexec⟩ := issue_admits hx hw hn hf
  have ha := hm.trans (AdmitKeeps.admitted m d r)
  have hent : ((m.admitted d r).tracker d).entries = (s.tracker d).entries ++ [s.newEntry d r] := by rw [State.tracker_admitted, htr, hnew]
  have hahead : (m.admitted d r).heldAhead d (s.newEntry d r) = false := by
    unfold State.heldAhead
    rw [hent, List.any_append, List.any_eq_false.mpr fun x hx => by simp [hphase x hx]]
    simp
  have hsend : (m.admitted d r).sendEntry State.fireTrigger d (s.newEntry d r) =
      if s.ptrOwn r.ptr then (m.admitted d r).performOwn State.fireTrigger d (s.newEntry d r)
      else if ptrSpace r.ptr = 1 then (m.admitted d r).sendSegments d (s.newEntry d r)
      else (m.admitted d r).sendEntry State.fireTrigger d (s.newEntry d r) := by
    have h1 : (m.admitted d r).sourceStatus d (s.newEntry d r).req = stDONE := (ha.sourceStatus d r).trans hst
    have h2 : (m.admitted d r).requestHeld d (s.newEntry d r).req = false := (ha.requestHeld d r).trans hheld
    have h3 : (m.admitted d r).ptrOwn (s.newEntry d r).req.ptr = s.ptrOwn r.ptr := ha.ptrOwn _
    have h4 : (s.newEntry d r).req.kind ≠ .enqueue := hk
    by_cases hown : s.ptrOwn r.ptr = true
    · rw [if_pos hown, State.sendEntry, h1, if_neg (not_not_intro rfl), if_neg h4, h2, hahead, if_neg (by decide), h3, if_pos hown]
    · rw [if_neg hown]
      split
      · next hsp =>
        rw [State.sendEntry, h1, if_neg (not_not_intro rfl), if_neg h4, h2, hahead, if_neg (by decide), h3, if_neg hown]
        exact if_pos hsp
      · rfl
  rw [hsend] at hexec
  exact ⟨m, hm, htr, hroom, hcore, hnew, fun hown => hexec.trans (by rw [if_pos hown]),
    fun hown hsp => hexec.trans (by rw [hown, if_neg (by decide), if_pos hsp])⟩

/-- A request to another package is sent, segment by segment (R189, R212). -/
theorem issue_sends (hsp : ptrSpace r.ptr = 1) (hown : s.ptrOwn r.ptr = false) :
    CompletesThen c s (fun u => (u.popHead d g).afterWork) fun u =>
      u.mem = s.mem ∧ (u.tracker d).entries.length = (s.tracker d).entries.length + 1 ∧
      ∀ x ∈ (u.tracker d).entries.getLast?, x.req = r ∧ x.phase = .sent ∧
        x.deadline = s.fabricNow + s.getF REMOTE_EXPERT_TIMEOUT_US d 0 * 1000 ∧
        u.out = s.out ++ (List.range (segCount r.len)).map fun i =>
          s.packetMsg .request d (s.header d x (decide (i + 1 = segCount r.len)) ((s.segPayload x i).2.any id) (i * 64))
            (s.segPayload x i).1 (s.segPayload x i).2 := by
  obtain ⟨m, hm, htr, -, -, hnew, -, hexec⟩ := issue_goes hx hg hk
  obtain ⟨-, -, -, -, -, herrs, -⟩ := hg
  have hexec := hexec hown hsp
  have ha := hm.trans (AdmitKeeps.admitted m d r)
  have hent : ((m.admitted d r).tracker d).entries = (s.tracker d).entries ++ [s.newEntry d r] := by rw [State.tracker_admitted, htr, hnew]
  rw [(ha.errs herrs).sendSegments_eq d (s.newEntry d r)] at hexec
  generalize m.admitted d r = a at *
  have hreq : (s.newEntry d r).req = r ∧ (s.newEntry d r).total = segCount r.len ∧
      (s.newEntry d r).limit = s.getF REMOTE_EXPERT_TIMEOUT_US d 0 := ⟨rfl, rfl, rfl⟩
  generalize s.newEntry d r = n at *
  let sent (x : TrackEntry) : TrackEntry := { x with phase := .sent, deadline := a.fabricNow + x.limit * 1000 }
  let v := a.updEntry d n.id sent
  have hv : AdmitKeeps d s v := ha.trans (AdmitKeeps.setTracker ..)
  have hvent : (v.tracker d).entries = (a.tracker d).entries.map fun x => if x.id = n.id then sent x else x :=
    congrArg (·.entries) (State.tracker_setTracker ..)
  have hlast : (v.tracker d).entries.getLast? = some (sent n) := by
    rw [hvent, hent, List.map_append]
    simp
  have hlen : (v.tracker d).entries.length = (s.tracker d).entries.length + 1 := by rw [hvent, hent]; simp
  have hmsg (i : Nat) : v.segMsg d n i = s.segMsg d (sent n) i := by
    rw [State.segMsg, hv.packetMsg, hv.header, hv.segPayload]
    rfl
  obtain ⟨hreq, htotal, hlimit⟩ := hreq
  have hnow : (sent n).deadline = s.fabricNow + s.getF REMOTE_EXPERT_TIMEOUT_US d 0 * 1000 := by rw [← ha.fabricNow, ← hlimit]
  refine ⟨v.sends ((List.range n.total).map (v.segMsg d n)), hexec, hv.mem, hlen, fun x hx => ?_⟩
  obtain rfl : sent n = x := Option.some.inj (hlast.symm.trans hx)
  refine ⟨hreq, rfl, hnow, ?_⟩
  rw [← htotal]
  exact congrArg₂ (· ++ ·) hv.out (List.map_congr_left fun i _ => hmsg i)

/-- Bytes of the own package are copied with their poison, and the operation ends (R42, R197). -/
theorem issue_copies (hwho : r.who = .core g) (hown : s.ptrOwn r.ptr = true) {src dst : Nat}
    (hcopy : ∀ a : State, a.performOwn State.fireTrigger d (s.newEntry d r) =
      (a.copyBytes src dst r.len).1.finish d (s.newEntry d r).id (a.copyBytes src dst r.len).2 []) :
    CompletesThen c s (fun u => (u.popHead d g).afterWork) fun u =>
      u.mem = (s.writeMarked dst (s.bytes src r.len) (s.marks src r.len)).mem ∧
      (∀ a, Outside a dst r.len → u.byte a = s.byte a) ∧ (u.tracker d).entries = (s.tracker d).entries ∧
      (r.ecEn = true → (u.coreOf d g).ecOf r.ec = ((s.coreOf d g).ecOf r.ec + 1) % 65536) ∧
      (s.poisoned src r.len = false → u.reg REMOTE_FAIL d g = s.reg REMOTE_FAIL d g) := by
  obtain ⟨m, hm, htr, hroom, hcore, hnew, hexec, -⟩ := issue_goes hx hg hk
  obtain ⟨-, -, -, -, -, herrs, -⟩ := hg
  have hexec := hexec hown
  have ha := hm.trans (AdmitKeeps.admitted m d r)
  have hacore : (m.admitted d r).coreOf d g = m.coreOf d g := rfl
  let v := (m.admitted d r).writeMarked dst (s.bytes src r.len) (s.marks src r.len)
  let st := if s.poisoned src r.len then stPOISONED else stDONE
  have hst : StatusCode st := .ite .poisoned .done
  have hv : v.tracker d = (m.admitted d r).tracker d :=
    congrArg (fun ts => kget Tracker.zero ts d) ((State.writeMarked_moves ..).same .trackers (by decide))
  have hvcore : v.coreOf d g = m.coreOf d g :=
    (congrArg (fun cs => kget Core.zero cs (globalCore d g)) ((State.writeMarked_moves ..).same .cores (by decide))).trans hacore
  have hvregs : RegsKeep d s v := ha.regs.trans (.of_regs ((State.writeMarked_moves ..).same .regs (by decide)))
  have hvmem : v.mem = (s.writeMarked dst (s.bytes src r.len) (s.marks src r.len)).mem := State.mem_writeMarked_congr ha.mem ..
  have hfin := State.finish_newEntry hroom hv hwho hst []
  have hspec := v.ended_spec d g (s.newEntry d r).id r (m.tracker d).entries
  rw [hcopy, (ha.errs herrs).copyBytes_eq, State.bytes_of_mem ha.mem, ha.marks, ha.poisoned] at hexec
  rw [hnew] at hfin
  change exec c s = .next (((v.finish d (s.newEntry d r).id st []).popHead d g).afterWork) at hexec
  clear_value v
  rw [hfin] at hexec
  obtain ⟨hmem, -, hregs, hent, hec⟩ := hspec
  generalize v.ended d g (s.newEntry d r).id r (m.tracker d).entries = w at *
  let u := if st = stDONE then w else w.remoteFail d g r st
  have hu : Moves 0x8 w u := .ite (fun _ => .refl w) fun _ => State.remoteFail_moves ..
  have humem : u.mem = (s.writeMarked dst (s.bytes src r.len) (s.marks src r.len)).mem := Eq.trans (hu.same .mem (by decide)) (hmem.trans hvmem)
  have hucore : u.coreOf d g = w.coreOf d g := congrArg (fun cs => kget Core.zero cs (globalCore d g)) (hu.same .cores (by decide))
  have hutr : u.tracker d = w.tracker d := congrArg (fun ts => kget Tracker.zero ts d) (hu.same .trackers (by decide))
  refine ⟨u, hexec, humem, fun b hb => ?_, by rw [hutr, hent, htr], fun he => ?_, fun hp => ?_⟩
  · rw [State.byte_of_mem humem, State.byte_writeMarked_ne]
    rwa [State.length_bytes]
  · rw [hucore, hec he, hvcore, hcore, State.placeMove, State.coreOf_updCore]
    rfl
  · have hdone : st = stDONE := if_neg (by simp [hp])
    rw [show u = w from if_pos hdone]
    exact (hvregs.trans hregs) REMOTE_FAIL d g (remoteFail_apart d g)

end

/-! ### The three commands -/

theorem State.tileRequest_put (s : State) {d g : Nat} {e : TqEntry} (h : e.opc = 0x21) (hk : (s.tileRequest d g e).kind ≠ .enqueue) :
    (s.tileRequest d g e).kind = .put := by
  unfold State.tileRequest at hk ⊢
  dsimp only at hk ⊢
  rw [if_neg (by omega)] at hk ⊢
  exact if_neg fun h => hk (if_pos h)

theorem State.tileRequest_get (s : State) {d g : Nat} {e : TqEntry} (h : e.opc = 0x22) : (s.tileRequest d g e).kind = .get := if_pos h

theorem State.performOwn_put (s : State) (fire : FireFn) (d : Nat) (x : TrackEntry) (hk : x.req.kind = .put) (hs : x.req.staged = false) :
    s.performOwn fire d x = (s.copyBytes x.req.loc (ptrAddr x.req.ptr) x.req.len).1.finish d x.id
      (s.copyBytes x.req.loc (ptrAddr x.req.ptr) x.req.len).2 [] := by
  rw [State.performOwn, hk]
  exact if_neg (by simp [hs])

theorem State.performOwn_get (s : State) (fire : FireFn) (d : Nat) (x : TrackEntry) (hk : x.req.kind = .get) :
    s.performOwn fire d x = (s.copyBytes (ptrAddr x.req.ptr) x.req.loc x.req.len).1.finish d x.id
      (s.copyBytes (ptrAddr x.req.ptr) x.req.loc x.req.len).2 [] := by
  rw [State.performOwn, hk]

section
variable {d : Fin 4} {g : Fin 96} {s : State} {e : TqEntry} (hroom : (s.coreOf d g).moves.length < 16)
include hroom

theorem exec_put_issues (h : s.MayIssue d g 0x21 e) : exec (.put d g) s =
    .next (((s.placeMove d g e).remoteIssue State.fireTrigger d (s.tileRequest d g e)).popHead d g).afterWork := by
  obtain ⟨hl, hs, hh, hw, hq, ho, hf⟩ := h
  exact congrArg (fun u : State => Host.Outcome.next u.afterWork)
    (s.issue_of d g 0x21 e _ _ hl hs hh hw hq ho hf (State.startRemote_of_room hroom e _))

theorem exec_get_issues (h : s.MayIssue d g 0x22 e) : exec (.get d g) s =
    .next (((s.placeMove d g e).remoteIssue State.fireTrigger d (s.tileRequest d g e)).popHead d g).afterWork := by
  obtain ⟨hl, hs, hh, hw, hq, ho, hf⟩ := h
  exact congrArg (fun u : State => Host.Outcome.next u.afterWork)
    (s.issue_of d g 0x22 e _ _ hl hs hh hw hq ho hf (State.startRemote_of_room hroom e _))

theorem exec_atomic_issues (h : s.MayIssue d g 0x23 e) (ha : (s.atomicRequest d g e).1 = s) : exec (.atomic d g) s =
    .next (((s.placeMove d g e).remoteIssue State.fireTrigger d (s.atomicRequest d g e).2).popHead d g).afterWork := by
  obtain ⟨hl, hs, hh, hw, hq, ho, hf⟩ := h
  have hstart : (s.atomicRequest d g e).1.startRemote d g e (s.atomicRequest d g e).2 =
      some ((s.placeMove d g e).remoteIssue State.fireTrigger d (s.atomicRequest d g e).2) := by
    rw [ha]
    exact State.startRemote_of_room hroom e _
  exact congrArg (fun u : State => Host.Outcome.next u.afterWork) (s.issue_of d g 0x23 e _ _ hl hs hh hw hq ho hf hstart)

end

/-- Settles O15: a word that issues takes its place and asks the tracker, and each answer of the tracker by its own lemma above. -/
theorem remoteIssue : Obligations.RemoteIssue := by
  intro d g s e hroom
  refine ⟨fun p hp hi ha => ?_, fun hg hown p hp hi hk => ?_⟩
  · have hx : exec p.1 s = .next (((s.placeMove d g e).remoteIssue State.fireTrigger d p.2.2).popHead d g).afterWork ∧ p.2.2.who = .core g := by
      simp only [List.mem_cons, List.not_mem_nil, or_false] at hp
      obtain rfl | rfl | rfl := hp
      · exact ⟨exec_put_issues hroom hi, rfl⟩
      · exact ⟨exec_get_issues hroom hi, rfl⟩
      · exact ⟨exec_atomic_issues hroom hi (ha rfl), rfl⟩
    exact ⟨issue_waits hx.1, fun hw hn hf => issue_refused hx.1 hw hn hf hx.2, fun hg hsp hown hk => issue_sends hx.1 hg hk hsp hown⟩
  · have hec : e.f 57 57 = 1 → (s.tileRequest d g e).ecEn = true := fun h => beq_iff_eq.mpr h
    have hopc : e.opc = p.2.1 := by
      obtain ⟨-, -, -, -, -, ho, -⟩ := hi
      exact ho
    simp only [List.mem_cons, List.not_mem_nil, or_false] at hp
    obtain rfl | rfl := hp
    · have hput := s.tileRequest_put hopc hk
      have hcopy (a : State) := a.performOwn_put State.fireTrigger d (s.newEntry d (s.tileRequest d g e)) hput (by simp [RemReq.staged, State.newEntry, State.tileRequest])
      obtain ⟨u, hx, hm, hb, he, hc, hf⟩ := issue_copies (exec_put_issues hroom hi) hg hk rfl hown hcopy
      exact ⟨u, hx, hm, hb, he, fun h => hc (hec h), hf⟩
    · have hcopy (a : State) := a.performOwn_get State.fireTrigger d (s.newEntry d (s.tileRequest d g e)) (s.tileRequest_get hopc)
      obtain ⟨u, hx, hm, hb, he, hc, hf⟩ := issue_copies (exec_get_issues hroom hi) hg hk rfl hown hcopy
      exact ⟨u, hx, hm, hb, he, fun h => hc (hec h), hf⟩

end Sys2Proof.Machine
end

