-- ==== Sys2Proof/Proofs/Exports.lean ====
section
/-!
PROOFS. Exports: their start, the answers to their PUTs and their end (R39, R40, R321, R322, R324, R325).
-/
namespace Sys2Proof.Machine

open Sys2Proof

/-! ### What an engine reads and writes where no error stands -/

/-- A look at memory where no error stands records an address fault at most (R40). -/
theorem State.NoErrs.look_raises {s : State} (hs : s.NoErrs) (d unit a n : Nat) : Moves 0x10000000 s (s.look d unit a n) := by
  unfold State.look
  split
  · exact State.addressFault_moves ..
  · exact .refl s
  · rw [hs.meetErrs_eq]
    exact .refl s

theorem State.NoErrs.exportLook_raises {s : State} (hs : s.NoErrs) (d a : Nat) (x : ExportDesc) : Moves 0x10000000 s (s.exportLook d a x) := by
  have h1 := hs.look_raises d 111 a 64
  have h2 := (hs.of_raises h1).look_raises d 111 x.map (32 * x.count)
  have h3 := ((hs.of_raises h1).of_raises h2).look_raises d 111 (s.stateAddr x.bucket) 64
  have h4 := (((hs.of_raises h1).of_raises h2).of_raises h3).look_raises d 111 (s.bucketAddr x.bucket) 32
  exact h4.step (by decide) (h3.step (by decide) (h2.step (by decide) h1))

/-- An engine's write that nothing holds lands with its marks (R40, R168). -/
theorem State.NoErrs.post_eq {s : State} (hs : s.NoErrs) {d a : Nat} {bs : List Byte} (h : s.PostsNow d a bs.length) (unit : Nat)
    (ps : List Bool) : s.post d unit a bs ps = s.writeMarked a bs ps := by
  obtain ⟨hh, hb, hr⟩ := h
  rw [State.post, hh, hb, if_neg (by decide), State.localWrite, hr]
  dsimp only
  rw [hs.meetErrs_eq]

/-- What an engine may write at once it may write still. -/
theorem AdmitKeeps.postsNow {k d : Nat} {s t : State} (h : AdmitKeeps k s t) {a n : Nat} (hp : s.PostsNow d a n) : t.PostsNow d a n := by
  unfold State.PostsNow State.engineHeld State.behind at hp ⊢
  rwa [h.pairWaits, h.accessHeld, h.extentReach, h.arrivals]

/-- The register of update work holds no access. -/
theorem AdmitKeeps.setUpd (k : Nat) (s : State) (f : Update → Update) : AdmitKeeps k s (s.setUpd f) :=
  ⟨fun _ _ _ _ => rfl, id, fun _ => rfl, rfl, rfl, rfl, rfl, rfl, rfl, rfl, rfl, rfl, rfl⟩

/-! ### An export's entry in the list -/

/-- An export's entry takes new contents. -/
def State.putExport (s : State) (id : Nat) (y : ExportRun) : State :=
  s.setUpd fun v => { v with exports := v.exports.map fun z => if z.id = id then y else z }

theorem State.find_putExport {s : State} {id : Nat} {e y : ExportRun} (h : s.upd.exports.find? (fun z => z.id == id) = some e)
    (hy : y.id = id) : (s.putExport id y).upd.exports.find? (fun z => z.id == id) = some y := by
  have hp := List.find?_some (p := fun z : ExportRun => z.id == id) h
  exact find?_map_replace (fun z => z.id == id) _ _ y ⟨e, List.mem_of_find?_eq_some h, hp⟩ (fun z hz => if_pos (beq_iff_eq.mp hz))
    (fun z hz => if_neg (beq_eq_false_iff_ne.mp hz)) (beq_iff_eq.mpr hy)

section
variable {s : State} {id : Nat} {e : ExportRun} (he : s.upd.exports.find? (fun z => z.id == id) = some e)
include he

theorem exportRun_id : e.id = id := beq_iff_eq.mp (List.find?_some (p := fun z : ExportRun => z.id == id) he)

/-! ### The start -/

section
variable (hst : e.started = false) (hse : s.isSealed e.step = true) (hd : s.dieRunning e.die = true) (ha : s.awake = true)
variable (ho : s.upd.buckets.any (fun b => b.bucket == (s.exportDesc e.addr).bucket && b.step == e.step && b.ended) = true)
include hst hse hd ha ho

/-- The ways an export whose bucket's update is over may begin (R322). -/
theorem exec_exportStart (outer : List Byte) (status : Fin 256) :
    let x := s.exportDesc e.addr
    let segs := (List.range x.count).map fun i => s.exportSeg (x.map + 32 * i)
    let r := s.openRun x.bucket e.die e.step
    let st := statusMax (if s.exportOk x segs r.len then stDONE else stINVALID) (s.exportReach e.addr x r)
    let v := s.exportLook e.die e.addr x
    exec (.exportStart id outer status) s =
      if s.exportHeld e.die e.addr x r then .next s
      else if st ≠ stDONE then
        .next (match e.entry with
          | some k => (v.putExport id { e with started := true, status := st }).entryStatus e.die k st
          | none => v.putExport id { e with started := true, status := st })
      else if r.tier ≠ 0 ∧ status.val ≠ stDONE then .next (v.putExport id { e with started := true, status := status })
      else .next ((x.plan segs).foldl (fun u p => u.sendRecord id x r outer p) (v.putExport id { e with started := true })).afterWork := by
  show execExportStart id outer status s = _
  unfold execExportStart
  rw [he]
  dsimp only
  rw [if_neg (by simp [hst, hse, hd, ha, ho])]
  rfl

theorem exportStart_spec (outer : List Byte) (status : Fin 256) :
    let x := s.exportDesc e.addr
    let segs := (List.range x.count).map fun i => s.exportSeg (x.map + 32 * i)
    let r := s.openRun x.bucket e.die e.step
    let st := statusMax (if s.exportOk x segs r.len then stDONE else stINVALID) (s.exportReach e.addr x r)
    (s.exportHeld e.die e.addr x r = true → exec (.exportStart id outer status) s = .next s) ∧
    (s.exportHeld e.die e.addr x r = false → st ≠ stDONE → e.entry = none → s.NoErrs →
      Completes (.exportStart id outer status) s fun t =>
        (∃ y, t.upd.exports.find? (fun z => z.id == id) = some y ∧ y.started = true ∧ y.status = st) ∧ t.mem = s.mem) ∧
    (s.exportHeld e.die e.addr x r = false → st = stDONE → s.NoErrs → r.tier ≠ 0 → status.val ≠ stDONE →
      Completes (.exportStart id outer status) s fun t => t.mem = s.mem ∧ t.out = s.out ∧
        ∃ y, t.upd.exports.find? (fun z => z.id == id) = some y ∧ y.started = true ∧ y.status = status) ∧
    (s.exportHeld e.die e.addr x r = false → st = stDONE → (r.tier ≠ 0 → status.val = stDONE) →
      CompletesThen (.exportStart id outer status) s
        (fun u => ((x.plan segs).foldl (fun v p => v.sendRecord id x r outer p) u).afterWork) fun u =>
          ∃ y, u.upd.exports.find? (fun z => z.id == id) = some y ∧ y.started = true ∧ y.written = e.written) := by
  have hexec := exec_exportStart he hst hse hd ha ho outer status
  have hid := exportRun_id he
  intro x segs r st
  dsimp only at hexec
  have hupd : (s.exportLook e.die e.addr x).upd = s.upd := (State.exportLook_moves ..).same .upd (by decide)
  have hfind : (s.exportLook e.die e.addr x).upd.exports.find? (fun z => z.id == id) = some e := by rw [hupd]; exact he
  refine ⟨fun hh => hexec.trans (if_pos hh), fun hh hne hent hs => ?_, fun hh hok hs ht hne => ?_, fun hh hok hok' => ?_⟩
  · have hmem : (s.exportLook e.die e.addr x).mem = s.mem := (hs.exportLook_raises ..).same .mem (by decide)
    refine ⟨(s.exportLook e.die e.addr x).putExport id { e with started := true, status := st }, ?_, ⟨_, State.find_putExport hfind hid, rfl, rfl⟩, hmem⟩
    rw [hexec, if_neg (by simp [x, r, hh]), if_pos hne, hent]
  · have hl := hs.exportLook_raises e.die e.addr x
    have hmem : (s.exportLook e.die e.addr x).mem = s.mem := hl.same .mem (by decide)
    have hout : (s.exportLook e.die e.addr x).out = s.out := hl.same .out (by decide)
    refine ⟨(s.exportLook e.die e.addr x).putExport id { e with started := true, status := status }, ?_, hmem, hout,
      _, State.find_putExport hfind hid, rfl, rfl⟩
    rw [hexec, if_neg (by simp [x, r, hh]), if_neg (not_not_intro hok), if_pos ⟨ht, hne⟩]
  · refine ⟨(s.exportLook e.die e.addr x).putExport id { e with started := true }, ?_, _, State.find_putExport hfind hid, rfl, rfl⟩
    rw [hexec, if_neg (by simp [x, r, hh]), if_neg (not_not_intro hok), if_neg fun h => h.2 (hok' h.1)]

end

/-! ### The answers to its PUTs -/

/-- The answers that the tracker holds for an export. -/
def State.exportAnswers (s : State) (id d : Nat) : List RemDone :=
  (s.tracker d).done.filter fun r => match r.who with | .event _ n => n == id | _ => false

/-- The tracker once an export has taken its answers. -/
def State.answersTaken (s : State) (id d : Nat) : State :=
  s.setTracker d { s.tracker d with done := (s.tracker d).done.filter fun r => !(match r.who with | .event _ n => n == id | _ => false) }

/-- What an export keeps of the answers that it took. -/
def ExportRun.took (e : ExportRun) (done : List RemDone) : ExportRun :=
  { e with
    left := e.left - done.length
    status := done.foldl (fun a r => statusMax a r.status) e.status
    landed := done.foldl (fun a r => a + e.wrote r) e.landed }

/-- The reference copy takes the frames that the answers say are written (R324). -/
def State.framesWritten (s : State) (e : ExportRun) (done : List RemDone) : State :=
  done.foldl (fun u r => if r.status = stDONE ∨ r.status = stPOISONED then u.frameWritten e r.who else u) s

omit he in
theorem State.framesWritten_moves (s : State) (e : ExportRun) (done : List RemDone) : Moves 0x11000037e s (s.framesWritten e done) :=
  .foldl _ _ (fun _ _ => .ite (fun _ => State.frameWritten_moves ..) fun _ => .refl _) (.refl s)

omit he in
/-- Without frames nothing goes to the reference copy. -/
theorem State.framesWritten_none (s : State) {e : ExportRun} (h : e.frames = []) (done : List RemDone) : s.framesWritten e done = s := by
  have one (who : Requester) : s.frameWritten e who = s := by
    unfold State.frameWritten
    rw [h]
    split <;> rfl
  unfold State.framesWritten
  induction done with
  | nil => rfl
  | cons r l ih => rw [List.foldl_cons, one, ite_self, ih]

/-- The last step of an export: its completion word is written (R325). -/
def State.exportEnd (s : State) (e y : ExportRun) (id : Nat) : State :=
  let x := s.exportDesc e.addr
  let s2 := s.setUpd fun v => { v with exports := v.exports.filter fun z => z.id != id }
  if s2.spaceOk x.doneAt 8 8 then s2.post e.die 111 x.doneAt (leBytes 8 (y.status + y.landed * 65536)) [] else s2

section
variable (hst : e.started = true)
include hst

theorem exec_exportDone :
    let y := e.took (s.exportAnswers id e.die)
    let s1 := (s.answersTaken id e.die).framesWritten e (s.exportAnswers id e.die)
    exec (.exportDone id) s = if y.left ≠ 0 then .next (s1.putExport id y)
      else .next (match e.handle with
        | some h => (s1.exportEnd e y id).descDone h y.status y.landed 0
        | none => s1.exportEnd e y id).afterWork := by
  show execExportDone id s = _
  unfold execExportDone
  rw [he]
  dsimp only
  rw [if_neg (by simp [hst])]
  rfl

theorem exportDone_waits (h : (s.exportAnswers id e.die).length < e.left) : Completes (.exportDone id) s fun t =>
    ∃ y, t.upd.exports.find? (fun z => z.id == id) = some y ∧ y.left = e.left - (s.exportAnswers id e.die).length ∧
      y.status = (s.exportAnswers id e.die).foldl (fun a r => statusMax a r.status) e.status ∧
      y.landed = (s.exportAnswers id e.die).foldl (fun a r => a + e.wrote r) e.landed := by
  have hupd := ((s.answersTaken id e.die).framesWritten_moves e (s.exportAnswers id e.die)).same .upd (by decide)
  have hleft : (e.took (s.exportAnswers id e.die)).left ≠ 0 := Nat.sub_ne_zero_of_lt h
  have hid : e.id = id := exportRun_id he
  refine ⟨_, (exec_exportDone he hst).trans (if_pos hleft), e.took (s.exportAnswers id e.die), State.find_putExport (e := e) ?_ hid, rfl, rfl, rfl⟩
  rw [show (State.framesWritten ..).upd = (s.answersTaken id e.die).upd from hupd]
  exact he

theorem exportDone_frame {k : Nat} {f : Nat × Nat × List Byte × List Bool} {data : List Byte}
    (hdone : s.exportAnswers id e.die = [⟨.event k id, stDONE, data⟩]) (hf : e.frames.find? (fun z => z.1 == k) = some f) (hl : 1 < e.left)
    (hp : s.PostsNow e.die f.2.1 f.2.2.1.length) (hs : s.NoErrs) :
    Completes (.exportDone id) s fun t => t.mem = (s.writeMarked f.2.1 f.2.2.1 f.2.2.2).mem := by
  have hleft : (e.took (s.exportAnswers id e.die)).left ≠ 0 := by
    rw [hdone]
    exact Nat.sub_ne_zero_of_lt hl
  have hp' : (s.answersTaken id e.die).PostsNow e.die f.2.1 f.2.2.1.length := (AdmitKeeps.setTracker s e.die _).postsNow hp
  have hs' : (s.answersTaken id e.die).NoErrs := hs
  have hone : (s.answersTaken id e.die).framesWritten e (s.exportAnswers id e.die) =
      (s.answersTaken id e.die).writeMarked f.2.1 f.2.2.1 f.2.2.2 := by
    rw [hdone, State.framesWritten, List.foldl_cons, if_pos (.inl rfl), State.frameWritten, hf]
    exact hs'.post_eq hp' 111 f.2.2.2
  refine ⟨_, (exec_exportDone he hst).trans (if_pos hleft), ?_⟩
  rw [hone]
  exact State.mem_writeMarked_congr (s := s) (t := s.answersTaken id e.die) rfl ..

theorem exportDone_last (hl : e.left ≤ (s.exportAnswers id e.die).length) (hf : e.frames = [])
    (ho : s.spaceOk (s.exportDesc e.addr).doneAt 8 8 = true) (hp : s.PostsNow e.die (s.exportDesc e.addr).doneAt 8) (hs : s.NoErrs) :
    let status := (s.exportAnswers id e.die).foldl (fun a r => statusMax a r.status) e.status
    let landed := (s.exportAnswers id e.die).foldl (fun a r => a + e.wrote r) e.landed
    CompletesThen (.exportDone id) s
      (fun u => (match e.handle with | some h => u.descDone h status landed 0 | none => u).afterWork) fun u =>
      u.upd.exports.find? (fun z => z.id == id) = none ∧
      u.readN (s.exportDesc e.addr).doneAt 8 = (status + landed * 65536) % 2 ^ 64 ∧
      ∀ a, Outside a (s.exportDesc e.addr).doneAt 8 → u.byte a = s.byte a := by
  intro status landed
  let y := e.took (s.exportAnswers id e.die)
  let v := (s.answersTaken id e.die).setUpd fun v => { v with exports := v.exports.filter fun z => z.id != id }
  let a := (s.exportDesc e.addr).doneAt
  let bs := leBytes 8 (status + landed * 65536)
  have hleft : y.left = 0 := Nat.sub_eq_zero_of_le hl
  have hlen : bs.length = 8 := leBytes_length ..
  have hp' : v.PostsNow e.die a bs.length := by
    rw [hlen]
    exact (AdmitKeeps.setUpd e.die (s.answersTaken id e.die) _).postsNow ((AdmitKeeps.setTracker s e.die _).postsNow hp)
  have hend : (s.answersTaken id e.die).exportEnd e y id = v.writeMarked a bs [] := by
    have hs' : v.NoErrs := hs
    exact (if_pos ho).trans (hs'.post_eq hp' 111 [])
  have hreach : v.extentReach a bs.length ≠ .unmapped := by
    obtain ⟨-, -, hr⟩ := hp'
    rw [hr]
    decide
  have hupd : (v.writeMarked a bs []).upd = v.upd := (State.writeMarked_moves ..).same .upd (by decide)
  refine ⟨v.writeMarked a bs [], ?_, ?_, ?_, fun b hb => ?_⟩
  · refine (exec_exportDone he hst).trans ((if_neg (not_not_intro hleft)).trans ?_)
    rw [State.framesWritten_none _ hf, hend]
    rfl
  · rw [hupd]
    exact List.find?_eq_none.mpr fun z hz hid => by
      have := (List.mem_filter.mp hz).2
      simp_all
  · have hb := State.bytes_writeMarked_of_reach (s := v) (ps := []) hreach
    rw [hlen] at hb
    rw [State.readN, hb, leNat_leBytes_mod]
    rfl
  · rw [State.byte_writeMarked_ne _ _ _ _ _ (by rwa [hlen])]
    rfl

end
end

/-- Settles O36: the ways an export begins, and the ways it takes the answers to its PUTs. -/
theorem exports : Obligations.Exports := by
  intro id s e he
  refine ⟨fun hst hse hd ha outer status ho => exportStart_spec he hst hse hd ha ho outer status, fun hst => ⟨?_, ?_, ?_⟩⟩
  · exact exportDone_waits he hst
  · exact fun k f data hdone hf hl hp hs => exportDone_frame he hst hdone hf hl hp hs
  · exact exportDone_last he hst

end Sys2Proof.Machine
end

