-- ==== Sys2Proof/Proofs/HostLines.lean ====
section
/-!
PROOFS. Lines of device memory: host accesses and back-invalidations (R391, R392, R460, R462, R39, R40, R171, R175).
-/
namespace Sys2Proof.Machine

open Sys2Proof

/-! ### A line's poison -/

theorem kget_foldl_kset (f : Nat → Nat) (p : Bool) (l : List Nat) (m : KMap Bool) (k : Nat) :
    kget false (l.foldl (fun m u => kset false m (f u) p) m) k = if k ∈ l.map f then p else kget false m k := by
  induction l generalizing m with
  | nil => simp
  | cons u l ih =>
    rw [List.foldl_cons, ih, kget_kset]
    by_cases h : k ∈ l.map f
    · simp [h]
    · simp [h]

theorem poisonWord_dvd (a : Nat) : poisonWord a ∣ 64 ∧ 0 < poisonWord a ∧ poisonWord a % 4 = 0 := by
  unfold poisonWord
  split <;> decide

/-- A line whose words are all marked, or all cleared, is so as a whole. -/
theorem State.poisoned_setPoison_line (s : State) (line : Nat) (p : Bool) :
    (s.setPoison (line * 64) 64 p).poisoned (line * 64) 64 = p := by
  have hunits : ((line * 64 + 64 + poisonWord (line * 64) - 1) / poisonWord (line * 64) * poisonWord (line * 64) -
      line * 64 / poisonWord (line * 64) * poisonWord (line * 64)) / 4 = 16 ∧
      line * 64 / poisonWord (line * 64) * poisonWord (line * 64) / 4 = line * 16 := by
    have hw : poisonWord (line * 64) = 4 ∨ poisonWord (line * 64) = 8 := by
      unfold poisonWord
      split
      · exact .inl rfl
      · exact .inr rfl
    obtain hw | hw := hw <;> rw [hw] <;> omega
  have hall : ∀ u ∈ rangeFrom (line * 16) 16, (s.setPoison (line * 64) 64 p).poisonAt (u * 4) = p := by
    intro u hu
    unfold State.poisonAt State.setPoison
    dsimp only
    rw [kget_foldl_kset (fun u => memKey (u * 4) / 4), hunits.1, hunits.2, if_pos (List.mem_map.mpr ⟨u, hu, rfl⟩)]
  unfold State.poisoned
  rw [show line * 64 / 4 = line * 16 by omega, show (line * 64 + 64 + 3) / 4 - line * 16 = 16 by omega]
  cases p with
  | false => exact List.any_eq_false.mpr fun u hu => by simp [hall u hu]
  | true => exact List.any_eq_true.mpr ⟨line * 16, by simp [rangeFrom], hall _ (by simp [rangeFrom])⟩

/-- A line written in full loses its marks (R168). -/
theorem State.write_line_clears (s : State) (line : Nat) {bs : List Byte} (h : bs.length = 64) :
    s.write (line * 64) bs = (s.storeBytes (line * 64) bs).setPoison (line * 64) 64 false := by
  have hw : poisonWord (line * 64) = 4 ∨ poisonWord (line * 64) = 8 := by
    unfold poisonWord
    split
    · exact .inl rfl
    · exact .inr rfl
  unfold State.write State.clearCovered
  dsimp only
  rw [h]
  obtain hw | hw := hw <;> rw [hw, if_pos (by omega)]
  · rw [show (line * 64 + 4 - 1) / 4 * 4 = line * 64 by omega, show ((line * 64 + 64) / 4 - (line * 64 + 4 - 1) / 4) * 4 = 64 by omega]
  · rw [show (line * 64 + 8 - 1) / 8 * 8 = line * 64 by omega, show ((line * 64 + 64) / 8 - (line * 64 + 8 - 1) / 8) * 8 = 64 by omega]

/-! ### What the host gives back -/

section
variable {s : State} (hs : s.NoErrs) (line : Nat) (data : List Byte) (pois : Bool)

theorem State.giveBack_unreached (h : s.extentReach (line * 64) 64 ≠ .ok) : s.giveBack line data pois = s := if_pos h

include hs

theorem State.NoErrs.giveBack_moves : Moves 0x30 s (s.giveBack line data pois) := by
  unfold State.giveBack
  rw [hs.meetErrs_eq]
  exact .ite (fun _ => .refl s) fun _ => .ite (fun _ => State.writePoisoned_moves ..) fun _ => State.write_moves ..

theorem State.NoErrs.byte_giveBack_ne {b : Nat} (hb : Outside b (line * 64) 64) : (s.giveBack line data pois).byte b = s.byte b := by
  have hb' : Outside b (line * 64) (data.take 64).length := fun i hi => hb i (by rw [List.length_take] at hi; omega)
  unfold State.giveBack
  rw [hs.meetErrs_eq]
  split
  · rfl
  · split
    · exact (State.byte_setPoison ..).trans (State.byte_write_ne _ _ _ _ hb')
    · exact State.byte_write_ne _ _ _ _ hb'

/-- The line's bytes stand as the host held them, poisoned or not (R40, R168). -/
theorem State.NoErrs.giveBack_spec (hr : s.extentReach (line * 64) 64 = .ok) (hl : data.length = 64) :
    (s.giveBack line data pois).bytes (line * 64) 64 = data ∧ (s.giveBack line data pois).poisoned (line * 64) 64 = pois := by
  have htake : data.take 64 = data := List.take_of_length_le (by omega)
  have hb : (s.write (line * 64) data).bytes (line * 64) data.length = data :=
    State.bytes_write_of_reach (u := s) (by rw [hl, hr]; decide)
  rw [hl] at hb
  unfold State.giveBack
  rw [if_neg (not_not_intro hr), hs.meetErrs_eq, htake]
  cases pois with
  | true =>
    refine ⟨(State.bytes_of_mem ?_ _ _).trans hb, ?_⟩
    · exact (State.setPoison_moves ..).same .mem (by decide)
    · show ((s.write (line * 64) data).setPoison (line * 64) data.length true).poisoned _ _ = _
      rw [hl]
      exact State.poisoned_setPoison_line ..
  | false =>
    refine ⟨hb, ?_⟩
    rw [if_neg Bool.false_ne_true, s.write_line_clears line hl]
    exact State.poisoned_setPoison_line ..

end

/-! ### Performing an access -/

/-- The snoop filter's lines but one. -/
def State.otherLines (s : State) (line : Nat) : List (Nat × Bool) := s.host.snoop.filter fun l => l.1 != line

theorem State.hdmAnswer_bound {s : State} (h : s.bound = true) (line status : Nat) (marks : List Bool) (data : List Byte) :
    s.hdmAnswer line status marks data = s.emit .other 131073 (line :: status :: marks.map b2n) data := if_pos h

theorem State.bound_setSnoop (s : State) (l : List (Nat × Bool)) : (s.setSnoop l).bound = s.bound :=
  congrArg (· != 0) (State.getF_setF_ne s SF_STATUS_OCCUPANCY HOST_BLK_STATUS_BOUND 0 0 0 0 _ (by decide))

section
variable {s : State} {w : HdmAccess}

theorem State.hdmPerform_held (h : s.extentReach (w.line * 64) 64 = .held) : s.hdmPerform w = none := by
  unfold State.hdmPerform
  dsimp only
  rw [h]

theorem State.hdmPerform_refused (h : s.extentReach (w.line * 64) 64 = .retired ∨ s.extentReach (w.line * 64) 64 = .unreachable) :
    s.hdmPerform w = some (s.hdmRefuse w (s.extentReach (w.line * 64) 64).status) := by
  unfold State.hdmPerform
  dsimp only
  obtain h | h := h <;> rw [h]

theorem State.hdmRefuse_eq (s : State) (w : HdmAccess) (status : Nat) : s.hdmRefuse w status = s.hdmAnswer w.line status
    (if w.kind = 3 then [] else List.replicate 16 true) (if w.kind = 3 then [] else List.replicate 64 0) := by
  unfold State.hdmRefuse
  split <;> rfl

section
variable (hr : s.extentReach (w.line * 64) 64 = .ok)
include hr

theorem State.hdmPerform_write (hk : w.kind = 3) : s.hdmPerform w =
    some (((s.giveBack w.line w.data w.pois).setSnoop (s.otherLines w.line)).hdmAnswer w.line stDONE [] []) := by
  unfold State.hdmPerform
  dsimp only
  rw [hr]
  exact if_pos hk

variable (hs : s.NoErrs)
include hs

theorem State.hdmPerform_read (hk : w.kind ≠ 3) : s.hdmPerform w =
    if s.behind (w.line * 64) 64 w.grants then none
    else if w.grants then
      if 262144 ≤ (s.otherLines w.line).length then none
      else some ((s.setSnoop (s.otherLines w.line ++ [(w.line, w.kind == 2)])).hdmAnswer w.line
        (if s.poisoned (w.line * 64) 64 then stPOISONED else stDONE) (s.marks (w.line * 64) 64) (s.bytes (w.line * 64) 64))
    else some (s.hdmAnswer w.line (if s.poisoned (w.line * 64) 64 then stPOISONED else stDONE) (s.marks (w.line * 64) 64)
      (s.bytes (w.line * 64) 64)) := by
  unfold State.hdmPerform
  dsimp only
  rw [hr]
  dsimp only
  rw [if_neg hk, hs.meetErrs_eq]
  rfl

end
end

/-! ### An access that meets the package -/

/-- A host access joins what waits, once room is made for it. -/
def State.hdmLater (s : State) (w : HdmAccess) : State :=
  (s.makeRoom w).setArrivals (s.arrivals ++ [⟨[(w.line * 64, 64, decide (w.kind ≠ 0))], .hdm w⟩])

theorem State.hdmAccess_running {s : State} (h : s.powerState < 2) (w : HdmAccess) : s.hdmAccess w =
    (s.hdmPerform w).getD ((s.makeRoom w).setArrivals
      (if w.kind = 3 then ⟨[(w.line * 64, 64, decide (w.kind ≠ 0))], .hdm w⟩ :: s.arrivals
       else s.arrivals ++ [⟨[(w.line * 64, 64, decide (w.kind ≠ 0))], .hdm w⟩])) := by
  unfold State.hdmAccess
  split
  · omega
  · omega
  · omega
  · omega
  · cases s.hdmPerform w <;> rfl

theorem State.makeRoom_ungranted {s : State} {w : HdmAccess} (h : w.grants = false) : s.makeRoom w = s := by
  unfold State.makeRoom
  dsimp only
  split
  · rfl
  · rw [h]; rfl

/-- A full filter has its oldest grant back-invalidated (R392). -/
theorem State.makeRoom_full {s : State} {w : HdmAccess} (h : w.grants = true) {l : Nat × Bool} {rest : List (Nat × Bool)}
    (hl : s.otherLines w.line = l :: rest) (hn : 262144 ≤ rest.length + 1) (hv : s.host.victim = none) :
    s.makeRoom w = ((s.setHost fun r => { r with victim := some l.1 }).addF SF_STATUS_BISNP 0 0 1).emit .other 131075 [l.1] [] := by
  have hl' : (s.host.snoop.filter fun l => l.1 != w.line) = l :: rest := hl
  unfold State.makeRoom
  dsimp only
  rw [hl']
  dsimp only
  rw [h, hv, List.length_cons]
  exact if_neg (by simp; omega)

section
variable {s : State} {line : Fin 12884901888} {kind : Fin 4} {data : List Byte} {pois : Bool}

theorem exec_hdmAccess (hb : s.bound = true) (hl : s.host.linkUp = true) (hz : line.val * 64 + 64 ≤ s.host.hdmSize)
    (hi : s.power.inReset = false) : exec (.hdmAccess line kind data pois) s = .next (s.hdmAccess ⟨line, kind, data, pois⟩) :=
  if_neg (by simp [hb, hl, hi]; omega)

section
variable (hb : s.bound = true)
variable (hx : exec (.hdmAccess line kind data pois) s = .next (s.hdmAccess ⟨line, kind, data, pois⟩)) (hp : s.powerState < 2)
include hx hp

theorem hdm_waits (hk : kind.val ≠ 3) (hw : s.hdmPerform ⟨line, kind, data, pois⟩ = none) :
    exec (.hdmAccess line kind data pois) s = .next (s.hdmLater ⟨line, kind, data, pois⟩) := by
  rw [hx, State.hdmAccess_running hp, hw, if_neg hk]
  rfl

theorem hdm_performed {t : State} (hw : s.hdmPerform ⟨line, kind, data, pois⟩ = some t) :
    exec (.hdmAccess line kind data pois) s = .next t := by
  rw [hx, State.hdmAccess_running hp, hw]
  rfl

theorem hdm_held (hr : s.extentReach (line.val * 64) 64 = .held) :
    (kind.val ≠ 3 → exec (.hdmAccess line kind data pois) s = .next (s.hdmLater ⟨line, kind, data, pois⟩)) ∧
    (kind.val = 3 → exec (.hdmAccess line kind data pois) s =
      .next (s.setArrivals (⟨[(line.val * 64, 64, true)], .hdm ⟨line, kind, data, pois⟩⟩ :: s.arrivals))) := by
  have hw : s.hdmPerform ⟨line, kind, data, pois⟩ = none := State.hdmPerform_held hr
  refine ⟨fun hk => hdm_waits hx hp hk hw, fun hk => ?_⟩
  rw [hx, State.hdmAccess_running hp, hw, State.makeRoom_ungranted (by simp [HdmAccess.grants, hk])]
  simp only [hk]
  rfl

section
variable (hr : s.extentReach (line.val * 64) 64 = .ok) (hs : s.NoErrs)
include hr hs

theorem hdm_reads (hk : kind.val = 0) : exec (.hdmAccess line kind data pois) s =
    .next (if s.behind (line.val * 64) 64 false then s.hdmLater ⟨line, kind, data, pois⟩
      else s.hdmAnswer line (if s.poisoned (line.val * 64) 64 then stPOISONED else stDONE) (s.marks (line.val * 64) 64)
        (s.bytes (line.val * 64) 64)) := by
  have hg : (⟨line, kind, data, pois⟩ : HdmAccess).grants = false := by simp [HdmAccess.grants, hk]
  have hw := State.hdmPerform_read (w := ⟨line, kind, data, pois⟩) hr hs (by simp [hk])
  rw [hg] at hw
  by_cases hh : s.behind (line.val * 64) 64 false = true
  · rw [if_pos hh]
    exact hdm_waits hx hp (by omega) (hw.trans (if_pos hh))
  · rw [if_neg hh]
    exact hdm_performed hx hp (hw.trans (if_neg hh))

section
variable (hk : kind.val = 1 ∨ kind.val = 2)
include hk

theorem hdm_grantWaits (hh : s.behind (line.val * 64) 64 true = true ∨ 262144 ≤ (s.otherLines line.val).length) :
    exec (.hdmAccess line kind data pois) s = .next (s.hdmLater ⟨line, kind, data, pois⟩) := by
  have hg : (⟨line, kind, data, pois⟩ : HdmAccess).grants = true := by simp [HdmAccess.grants, hk]
  have hw := State.hdmPerform_read (w := ⟨line, kind, data, pois⟩) hr hs (show kind.val ≠ 3 by omega)
  rw [hg] at hw
  refine hdm_waits hx hp (by omega) (hw.trans ?_)
  obtain hh | hh := hh
  · exact if_pos hh
  · rw [if_pos rfl, if_pos hh]
    exact ite_self _

theorem hdm_fullFilter {l : Nat × Bool} {rest : List (Nat × Bool)} (hl : s.otherLines line.val = l :: rest)
    (hn : 262144 ≤ rest.length + 1) (hv : s.host.victim = none) :
    Completes (.hdmAccess line kind data pois) s fun t => t.host.victim = some l.1 ∧ t.host.snoop = s.host.snoop ∧
      t.getF SF_STATUS_BISNP 0 0 = (s.getF SF_STATUS_BISNP 0 0 + 1) % 2 ^ 32 ∧ t.out = s.out ++ [⟨.other, 131075, [l.1], []⟩] := by
  have hg : (⟨line, kind, data, pois⟩ : HdmAccess).grants = true := by simp [HdmAccess.grants, hk]
  let v := s.setHost fun r => { r with victim := some l.1 }
  have hroom := State.makeRoom_full hg hl hn hv
  have hcount : (v.addF SF_STATUS_BISNP 0 0 1).getF SF_STATUS_BISNP 0 0 = (s.getF SF_STATUS_BISNP 0 0 + 1) % 2 ^ 32 :=
    State.getF_setF v SF_STATUS_BISNP _ _ _ rfl
  have hfull : 262144 ≤ (s.otherLines line.val).length := by rw [hl, List.length_cons]; exact hn
  refine ⟨_, hdm_grantWaits hx hp hr hs hk (.inr hfull), ?_, ?_, ?_, ?_⟩
  · rw [State.hdmLater, hroom, State.setArrivals_host, State.emit_host, State.addF_host]; rfl
  · rw [State.hdmLater, hroom, State.setArrivals_host, State.emit_host, State.addF_host]; rfl
  · rw [State.hdmLater, hroom, State.setArrivals_getF, State.emit_getF, hcount]
  · rw [State.hdmLater, hroom, State.setArrivals_out, State.emit_out, State.addF_out]; rfl

include hb

theorem hdm_grants (hh : s.behind (line.val * 64) 64 true = false) (hn : (s.otherLines line.val).length < 262144) :
    Completes (.hdmAccess line kind data pois) s fun t =>
      t.host.snoop = s.otherLines line.val ++ [(line.val, kind.val == 2)] ∧ t.mem = s.mem ∧
      t.out = s.out ++ [⟨.other, 131073, line.val :: (if s.poisoned (line.val * 64) 64 then stPOISONED else stDONE) ::
        (s.marks (line.val * 64) 64).map b2n, s.bytes (line.val * 64) 64⟩] := by
  have hg : (⟨line, kind, data, pois⟩ : HdmAccess).grants = true := by simp [HdmAccess.grants, hk]
  have hw := State.hdmPerform_read (w := ⟨line, kind, data, pois⟩) hr hs (show kind.val ≠ 3 by omega)
  rw [hg, if_neg (by simp [hh]), if_pos rfl, if_neg (by simpa using hn)] at hw
  let v := s.setSnoop (s.otherLines line.val ++ [(line.val, kind.val == 2)])
  have hv : v.bound = true := (State.bound_setSnoop ..).trans hb
  refine ⟨_, hdm_performed hx hp hw, ?_, ?_, ?_⟩
  · rw [State.hdmAnswer_bound hv]; rfl
  · rw [State.hdmAnswer_bound hv]; rfl
  · rw [State.hdmAnswer_bound hv]; rfl

end

include hb

theorem hdm_writes (hk : kind.val = 3) (hlen : data.length = 64) : Completes (.hdmAccess line kind data pois) s fun t =>
    t.bytes (line.val * 64) 64 = data ∧ t.poisoned (line.val * 64) 64 = pois ∧
    (∀ b, Outside b (line.val * 64) 64 → t.byte b = s.byte b) ∧ t.host.snoop = s.otherLines line.val ∧
    t.out = s.out ++ [⟨.other, 131073, [line.val, stDONE], []⟩] := by
  have hw := State.hdmPerform_write (w := ⟨line, kind, data, pois⟩) hr hk
  have hmoves := hs.giveBack_moves line data pois
  obtain ⟨hbytes, hpois⟩ := hs.giveBack_spec line data pois hr hlen
  have hbyte (b : Nat) := hs.byte_giveBack_ne line.val data pois (b := b)
  dsimp only at hw
  let u := s.giveBack line data pois
  have hub : u.bound = s.bound := by
    have : u.regs = s.regs := hmoves.same .regs (by decide)
    rw [State.bound, State.bound, State.flag, State.flag, State.getF, State.getF, State.reg, State.reg, this]
  have huo : u.out = s.out := hmoves.same .out (by decide)
  change s.hdmPerform _ = some ((u.setSnoop (s.otherLines line.val)).hdmAnswer line.val stDONE [] []) at hw
  change u.bytes _ _ = _ at hbytes
  change u.poisoned _ _ = _ at hpois
  change ∀ b, _ → u.byte b = _ at hbyte
  clear_value u
  have hv : (u.setSnoop (s.otherLines line.val)).bound = true := (State.bound_setSnoop ..).trans (hub.trans hb)
  rw [State.hdmAnswer_bound hv] at hw
  exact ⟨_, hdm_performed hx hp hw, hbytes, hpois, hbyte, rfl, congrArg (· ++ _) huo⟩

end
end
end

/-! ### A back-invalidation that completes -/

theorem State.NoErrs.takeLine_moves {s : State} (hs : s.NoErrs) (line : Nat) (data : List Byte) (pois : Bool) :
    Moves 0x130 s (s.takeLine line data pois) :=
  .ite (fun _ => (State.setArrivals_moves ..).mono (by decide)) fun _ => (hs.giveBack_moves line data pois).mono (by decide)

/-- The line's bytes come back only where the host held it modified. -/
def State.lineBack (s : State) (line : Nat) (held : Bool) (data : List Byte) (pois : Bool) : State :=
  if held && !data.isEmpty then s.takeLine line data pois else s

/-- The line is free, and what asked for it is forgotten or counted (R392). -/
def State.lineFreed (s : State) (line : Nat) (old : State) : State :=
  let s2 := s.setSnoop (old.otherLines line)
  if old.host.victim = some line then s2.setHost fun r => { r with victim := none } else s2.addF SF_STATUS_BISNP 0 0 1

theorem State.lineFreed_moves (s : State) (line : Nat) (old : State) : Moves 0x2000008 s (s.lineFreed line old) := by
  have h : Moves 0x2000008 s (s.setSnoop (old.otherLines line)) := (State.setSnoop_moves ..).mono (by decide)
  exact .ite (fun _ => (State.setHost_moves ..).step (by decide) h) fun _ => (State.addF_moves ..).step (by decide) h

theorem State.lineFreed_spec {s old : State} (hh : s.host = old.host) (hr : s.regs = old.regs) (line : Nat) :
    (s.lineFreed line old).host.snoop = old.otherLines line ∧
    (s.lineFreed line old).getF SF_STATUS_BISNP 0 0 =
      (if old.host.victim = some line then old.getF SF_STATUS_BISNP 0 0 else (old.getF SF_STATUS_BISNP 0 0 + 1) % 2 ^ 32) ∧
    (s.lineFreed line old).host.victim ≠ some line := by
  let u := s.setSnoop (old.otherLines line)
  have hu : u.getF SF_STATUS_BISNP 0 0 = old.getF SF_STATUS_BISNP 0 0 := by
    refine (State.getF_setF_apart s SF_STATUS_OCCUPANCY SF_STATUS_BISNP 0 0 _ rfl rfl rfl rfl).trans ?_
    rw [State.getF, State.getF, State.reg, State.reg, hr]
  have hsnoop : u.host.snoop = old.otherLines line := rfl
  have hsame : u.host.victim = s.host.victim := rfl
  have hvictim : u.host.victim = old.host.victim := hsame.trans (congrArg HostLink.victim hh)
  have hfreed : s.lineFreed line old =
    if old.host.victim = some line then u.setHost fun r => { r with victim := none } else u.addF SF_STATUS_BISNP 0 0 1 := rfl
  clear_value u
  rw [hfreed]
  split
  · exact ⟨hsnoop, hu, nofun⟩
  · next hne =>
    refine ⟨hsnoop, ?_, by rw [State.addF_host, hvictim]; exact hne⟩
    rw [State.addF, State.getF_setF _ _ _ _ _ rfl, hu]
    rfl

theorem bisnp_completes {s : State} (hs : s.NoErrs) {line : Fin 12884901888} (data : List Byte) (pois : Bool) {l : Nat × Bool}
    (hl : s.host.snoop.find? (fun l => l.1 == line.val) = some l) :
    CompletesThen (.bisnpComplete line data pois) s State.releaseAll fun u =>
      u.host.snoop = s.host.snoop.filter (fun x => x.1 != line.val) ∧
      u.getF SF_STATUS_BISNP 0 0 =
        (if s.host.victim = some line.val then s.getF SF_STATUS_BISNP 0 0 else (s.getF SF_STATUS_BISNP 0 0 + 1) % 2 ^ 32) ∧
      u.host.victim ≠ some line.val ∧
      (∀ a, Outside a (line.val * 64) 64 → u.byte a = s.byte a) ∧
      ((l.2 = false ∨ data = [] ∨ s.extentReach (line.val * 64) 64 ≠ .ok) → u.mem = s.mem) ∧
      (l.2 = true → data.length = 64 →
        (s.extentReach (line.val * 64) 64 = .ok → u.bytes (line.val * 64) 64 = data ∧ u.poisoned (line.val * 64) 64 = pois) ∧
        (s.extentReach (line.val * 64) 64 = .held →
          u.arrivals = ⟨[(line.val * 64, 64, true)], .line line.val data pois⟩ :: s.arrivals)) := by
  let v := s.lineBack line.val l.2 data pois
  have hv : Moves 0x130 s v := .ite (fun _ => hs.takeLine_moves ..) fun _ => .refl s
  have hf := v.lineFreed_moves line.val s
  obtain ⟨hsnoop, hbisnp, hvictim⟩ := State.lineFreed_spec (hv.same .host (by decide)) (hv.same .regs (by decide)) line.val
  have hmem : (v.lineFreed line.val s).mem = v.mem := hf.same .mem (by decide)
  have hpoison : (v.lineFreed line.val s).poison = v.poison := hf.same .poison (by decide)
  have harr : (v.lineFreed line.val s).arrivals = v.arrivals := hf.same .arrivals (by decide)
  have hexec : exec (.bisnpComplete line data pois) s = .next (v.lineFreed line.val s).releaseAll := by
    show execBisnpComplete line data pois s = _
    unfold execBisnpComplete
    rw [hl]
    rfl
  have hback : l.2 = true → data.length = 64 → v = s.takeLine line.val data pois := fun h hd =>
    if_pos (by rw [h]; cases data <;> simp_all)
  refine ⟨_, hexec, hsnoop, hbisnp, hvictim, fun b hb => ?_, fun h => hmem.trans ?_, fun h hd => ⟨fun hr => ?_, fun hr => ?_⟩⟩
  · rw [State.byte_of_mem hmem]
    show (if _ then _ else _ : State).byte b = _
    split
    · unfold State.takeLine
      split
      · rfl
      · exact hs.byte_giveBack_ne _ _ _ hb
    · rfl
  · show (if _ then _ else _ : State).mem = _
    split
    · next hc =>
      unfold State.takeLine
      split
      · rfl
      · obtain h | h | h := h
        · simp [h] at hc
        · simp [h] at hc
        · rw [State.giveBack_unreached _ _ _ h]
    · rfl
  · have htake : v = s.giveBack line.val data pois := (hback h hd).trans (if_neg (by rw [hr]; decide))
    obtain ⟨hb, hp⟩ := hs.giveBack_spec line.val data pois hr hd
    rw [← htake] at hb hp
    refine ⟨(State.bytes_of_mem hmem _ _).trans hb, Eq.trans ?_ hp⟩
    unfold State.poisoned State.poisonAt
    rw [hpoison]
  · rw [harr, hback h hd, State.takeLine, if_pos hr]
    rfl

end Sys2Proof.Machine
end

