-- ==== Sys2Proof/Proofs/HostMemory.lean ====
section
/-!
PROOFS. Requests to the host: their ends, the failures in succession that end the binding, and device memory as a whole (R391 to R394, R401).
-/
namespace Sys2Proof.Machine

open Sys2Proof

/-! ### What the end of an operation leaves of the binding -/

/-- The fields by which the host sees the binding, and the counts of timeouts of the dies in F. -/
def LinkField (F : Nat → Prop) (f : Fld) (d : Nat) : Prop :=
  d = 0 ∧ (f = HOST_BLK_STATUS_BOUND ∨ f = HOST_BLK_STATUS_ATTACHED) ∨ f = TIMEOUT_COUNT_COUNT ∧ F d

/-- The binding, the run of failures and those counts stay. -/
structure LinkKeeps (F : Nat → Prop) (s t : State) : Prop where
  failedRun : t.host.failedRun = s.host.failedRun
  fields : ∀ f d, LinkField F f d → t.getF f d 0 = s.getF f d 0

namespace LinkKeeps
variable {F : Nat → Prop} {s t u : State}

theorem refl (s : State) : LinkKeeps F s s := ⟨rfl, fun _ _ _ => rfl⟩

theorem trans (h : LinkKeeps F s t) (k : LinkKeeps F t u) : LinkKeeps F s u :=
  ⟨k.failedRun.trans h.failedRun, fun f d hf => (k.fields f d hf).trans (h.fields f d hf)⟩

theorem bound (h : LinkKeeps F s t) : t.bound = s.bound := congrArg (· != 0) (h.fields _ 0 (.inl ⟨rfl, .inl rfl⟩))

theorem attached (h : LinkKeeps F s t) : t.attached = s.attached := congrArg (· != 0) (h.fields _ 0 (.inl ⟨rfl, .inr rfl⟩))

/-- Registers and the host's side alone decide. -/
theorem of_eq (hr : t.regs = s.regs) (hh : t.host = s.host) : LinkKeeps F s t :=
  ⟨congrArg HostLink.failedRun hh, fun f d _ => by rw [State.getF, State.getF, State.reg, State.reg, hr]⟩

theorem of_moves {m : Nat} (h : Moves m s t) (hr : m.testBit 3 = false) (hh : m.testBit 25 = false) : LinkKeeps F s t :=
  of_eq (h.same .regs hr) (h.same .host hh)

/-- A register elsewhere is written. -/
theorem setReg (s : State) (q : Reg) (e i : Nat) (v : Word) (h0 : q.addr e i ≠ 0x20010) (h1 : ∀ d, F d → q.addr e i ≠ 0x90030 + d * 0x20000) :
    LinkKeeps F s (s.setReg q e i v) := by
  refine ⟨rfl, fun f d hf => congrArg f.get (State.reg_setReg_ne _ _ _ _ _ _ _ _ ?_)⟩
  obtain ⟨rfl, rfl | rfl⟩ | ⟨rfl, hd⟩ := hf
  · exact h0.symm
  · exact h0.symm
  · exact fun h => h1 d hd (h.symm.trans rfl)

theorem setF (s : State) (f : Fld) (e i x : Nat) (h0 : f.reg.addr e i ≠ 0x20010) (h1 : ∀ d, f.reg.addr e i ≠ 0x90030 + d * 0x20000) :
    LinkKeeps F s (s.setF f e i x) := setReg s f.reg e i _ h0 fun d _ => h1 d

/-- The registers of a stack: its state, its counters and its dead wires. -/
def stackRegs : List Reg := [STACK_STATE, CE_COUNT, UE_COUNT, DEAD_WIRES_A, DEAD_WIRES_B]

theorem setStack (s : State) (q : Reg) (k : Nat) (v : Word) (h : q ∈ stackRegs) : LinkKeeps F s (s.setReg q (k / 3) (k % 3) v) := by
  simp only [stackRegs, List.mem_cons, List.not_mem_nil, or_false] at h
  refine setReg s q _ _ v ?_ fun d _ => ?_
  · obtain rfl | rfl | rfl | rfl | rfl := h <;> simp [Reg.addr, STACK_STATE, CE_COUNT, UE_COUNT, DEAD_WIRES_A, DEAD_WIRES_B] <;> omega
  · obtain rfl | rfl | rfl | rfl | rfl := h <;> simp [Reg.addr, STACK_STATE, CE_COUNT, UE_COUNT, DEAD_WIRES_A, DEAD_WIRES_B] <;> omega

/-- Another field of the host's status is written. -/
theorem hostStatus (s : State) (f : Fld) (x : Nat) (hr : f.reg = HOST_BLK_STATUS) (hf : f.fits = true)
    (hb : f.apart HOST_BLK_STATUS_BOUND = true) (ha : f.apart HOST_BLK_STATUS_ATTACHED = true) : LinkKeeps F s (s.setF f 0 0 x) := by
  refine ⟨rfl, fun g d hg => ?_⟩
  obtain ⟨rfl, rfl | rfl⟩ | ⟨rfl, -⟩ := hg
  · exact State.getF_setF_apart s f _ _ _ _ hr.symm hf rfl hb
  · exact State.getF_setF_apart s f _ _ _ _ hr.symm hf rfl ha
  · refine State.getF_setF_ne _ _ _ _ _ _ _ _ ?_
    rw [hr]
    simp [Reg.addr, TIMEOUT_COUNT_COUNT, TIMEOUT_COUNT, HOST_BLK_STATUS]
    omega

theorem raise (s : State) (a b c e f x y z : Nat) : LinkKeeps F s (s.raise a b c e f x y z) :=
  of_moves (State.raise_moves ..) (by decide) (by decide)

theorem foldl {α : Type} (l : List α) (f : State → α → State) (hf : ∀ u x, LinkKeeps F u (f u x)) (s : State) : LinkKeeps F s (l.foldl f s) := by
  induction l generalizing s with
  | nil => exact refl s
  | cons x l ih => exact (hf s x).trans (ih _)

theorem foldl₁ {α β : Type} {p : State × β} (l : List α) (f : State × β → α → State × β) (hf : ∀ x a, LinkKeeps F x.1 (f x a).1)
    (h : LinkKeeps F s p.1) : LinkKeeps F s (l.foldl f p).1 := by
  induction l generalizing p with
  | nil => exact h
  | cons a l ih => exact ih (h.trans (hf p a))

/-! #### Errors that stand in memory -/

theorem retireStack (s : State) (t cause : Nat) : LinkKeeps F s (s.retireStack t cause) :=
  (((setStack s STACK_STATE t _ (by simp [stackRegs])).trans (setStack _ STACK_STATE t _ (by simp [stackRegs]))).trans (raise ..)).trans
    (of_moves (State.noteHealth_moves _) (by decide) (by decide))

theorem markDead (s : State) (t w j : Nat) : LinkKeeps F s (s.markDead t w j) := by
  unfold State.markDead
  split
  · exact setStack s _ t _ (by split <;> simp [stackRegs])
  · split
    · exact refl s
    · split
      · exact refl s
      · exact retireStack ..

theorem countCorrected (s : State) (t granule w j : Nat) : LinkKeeps F s (s.countCorrected t granule w j) := by
  have h1 : LinkKeeps F s ((s.satF CE_COUNT_COUNT (t / 3) (t % 3) 1).raise 0 0x10 (t / 3) t 0 granule j 0) :=
    (setStack s CE_COUNT t _ (by simp [stackRegs])).trans (raise ..)
  unfold State.countCorrected
  extract_lets s1 k wire n
  split
  · exact (h1.trans (of_moves (State.setStack_moves ..) (by decide) (by decide))).trans (markDead ..)
  · exact h1.trans (of_moves (State.setStack_moves ..) (by decide) (by decide))

theorem countUncorrectable (s : State) (t granule w : Nat) : LinkKeeps F s (s.countUncorrectable t granule w) := by
  have h1 : LinkKeeps F s (((s.setPoison (granuleAddr t granule + 8 * w) 8 true).satF UE_COUNT_COUNT (t / 3) (t % 3) 1).raise
      1 0x11 (t / 3) t 0 granule w 0) :=
    ((of_moves (State.setPoison_moves ..) (by decide) (by decide)).trans (setStack _ UE_COUNT t _ (by simp [stackRegs]))).trans (raise ..)
  unfold State.countUncorrectable
  dsimp only
  split
  · exact h1.trans (retireStack ..)
  · exact h1

theorem decodeStored (s : State) (t granule w : Nat) (errs : List SymErr) (pois : Bool) (stored : Nat) :
    LinkKeeps F s (s.decodeStored t granule w errs pois stored).1 := by
  have free (u : State) : LinkKeeps F u u.takeFree.2 := of_moves (State.takeFree_moves u) (by decide) (by decide)
  unfold State.decodeStored
  split
  · exact refl s
  · dsimp only
    split
    · split
      · exact refl s
      · exact countUncorrectable ..
    · split
      · exact refl s
      · exact countCorrected ..
      · exact countUncorrectable ..
      · split
        · exact (free s).trans (countUncorrectable ..)
        · exact (free s).trans (free _)

theorem decodeWord (s : State) (t granule w : Nat) (errs : List SymErr) : LinkKeeps F s (s.decodeWord t granule w errs).1 := by
  unfold State.decodeWord
  exact decodeStored ..

theorem decodeGranule (s : State) (t granule : Nat) (errs : List SymErr) : LinkKeeps F s (s.decodeGranule t granule errs).1 := by
  have key (u : State × List TalusWord) (y : State × TalusWord) (h : LinkKeeps F u.1 y.1) :
      LinkKeeps F u.1 (let y := y; (y.1, u.2 ++ [y.2])).1 := h
  exact foldl₁ _ _ (fun u w => key u _ (decodeWord u.1 t granule w errs)) (refl s)

theorem readCells (s : State) (t granule : Nat) (errs : List SymErr) : LinkKeeps F s (s.readCells t granule errs).1 :=
  ((decodeGranule ..).trans (of_moves (State.keepWords_moves ..) (by decide) (by decide))).trans
    (of_moves (State.setGranuleErrs_moves ..) (by decide) (by decide))

theorem meetGranule (s : State) (t granule : Nat) (write full : Bool) : LinkKeeps F s (s.meetGranule t granule write full) := by
  unfold State.meetGranule
  split
  · exact refl s
  · split
    · unfold State.freshen
      refine LinkKeeps.trans ?_ (of_moves (State.setGranuleErrs_moves ..) (by decide) (by decide))
      split
      · exact refl s
      · exact readCells ..
    · exact readCells ..

theorem meetErrs (s : State) (a n : Nat) (write : Bool) : LinkKeeps F s (s.meetErrs a n write) := by
  unfold State.meetErrs
  split
  · exact of_moves (State.meetPairs_moves ..) (by decide) (by decide)
  · refine foldl _ _ (fun u k => foldl _ _ (fun v g => ?_) u) s
    dsimp only
    split
    · exact meetGranule ..
    · exact refl v
  · exact refl s

theorem localWrite (s : State) (d unit a : Nat) (bs : List Byte) (ps : List Bool) : LinkKeeps F s (s.localWrite d unit a bs ps) := by
  unfold State.localWrite
  split
  · exact of_moves (State.addressFault_moves ..) (by decide) (by decide)
  · exact (meetErrs ..).trans (of_moves (State.writeOpen_moves ..) (by decide) (by decide))
  · exact refl s
  · exact (meetErrs ..).trans (of_moves (State.writeMarked_moves ..) (by decide) (by decide))

/-! #### The end of an operation -/

theorem setEntries (s : State) (d : Nat) (es : List TrackEntry) : LinkKeeps F s (s.setEntries d es) := by
  have hf (u : State) (f : Fld) (x : Nat) (h : f.reg = TRACKER_STATUS) : LinkKeeps F u (u.setF f d 0 x) := by
    refine setF u f d 0 x ?_ fun e => ?_ <;> rw [h] <;> simp [Reg.addr, TRACKER_STATUS] <;> omega
  exact ((of_eq rfl rfl : LinkKeeps F s (s.setTracker d _)).trans (hf _ TRACKER_STATUS_IN_USE _ rfl)).trans (hf _ TRACKER_STATUS_HIGH_WATER _ rfl)

theorem setDescs (s : State) (ds : List Desc) : LinkKeeps F s (s.setDescs ds) := by
  have h1 : LinkKeeps F s (s.setHost fun r => { r with descs := ds }) := ⟨rfl, fun _ _ _ => rfl⟩
  have hc (u : State) (f : Fld) (x : Nat) (h : f.reg = HANDLE_COUNT) : LinkKeeps F u (u.setF f 0 0 x) := by
    refine setF u f 0 0 x (by rw [h]; decide) fun e => ?_
    rw [h]
    simp [Reg.addr, HANDLE_COUNT]
    omega
  exact ((h1.trans (hc _ HANDLE_COUNT_IN_FLIGHT _ rfl)).trans (hc _ HANDLE_COUNT_HIGH_WATER _ rfl)).trans
    (hostStatus _ HOST_BLK_STATUS_HANDLES_FULL _ rfl rfl rfl rfl)

theorem descDone (s : State) (uid status result detail : Nat) : LinkKeeps F s (s.descDone uid status result detail) := by
  unfold State.descDone
  split
  · exact refl s
  · split
    · exact refl s
    · split
      · exact setDescs ..
      · exact ⟨rfl, fun _ _ _ => rfl⟩

section
variable (s : State) {d : Nat} (hF : ∀ e, F e → e = d)
include hF

theorem remoteFail (g : Nat) (r : RemReq) (status : Nat) : LinkKeeps F s (s.remoteFail d g r status) := by
  have hf (u : State) (q : Reg) (v : Word) (h : q = REMOTE_FAIL ∨ q = REMOTE_FAIL_PTR) : LinkKeeps F u (u.setReg q d g v) := by
    refine setReg u q d g v ?_ fun e he => ?_
    · obtain rfl | rfl := h <;> simp [Reg.addr, REMOTE_FAIL, REMOTE_FAIL_PTR] <;> omega
    · obtain rfl := hF e he
      obtain rfl | rfl := h <;> simp [Reg.addr, REMOTE_FAIL, REMOTE_FAIL_PTR] <;> omega
  unfold State.remoteFail
  dsimp only
  refine LinkKeeps.trans ?_ (hf _ REMOTE_FAIL _ (.inl rfl))
  split
  · exact refl s
  · exact (((hf _ REMOTE_FAIL _ (.inl rfl)).trans (hf _ REMOTE_FAIL _ (.inl rfl))).trans (hf _ REMOTE_FAIL _ (.inl rfl))).trans
      (hf _ REMOTE_FAIL_PTR _ (.inr rfl))

theorem deliver (r : RemReq) (status : Nat) (data : List Byte) : LinkKeeps F s (s.deliver d r status data) := by
  unfold State.deliver
  split
  · dsimp only
    split
    · exact of_moves (State.updCore_moves ..) (by decide) (by decide)
    · exact (of_moves (State.updCore_moves ..) (by decide) (by decide)).trans (remoteFail _ hF ..)
  · exact descDone ..
  · exact of_eq rfl rfl

theorem finish (id status : Nat) (data : List Byte) : LinkKeeps F s (s.finish d id status data) := by
  unfold State.finish
  split
  · exact refl s
  · exact ((of_eq rfl rfl : LinkKeeps F s (s.unpark d id)).trans (setEntries ..)).trans (deliver _ hF ..)

theorem abandon (id status : Nat) : LinkKeeps F s (s.abandon d id status) := by
  unfold State.abandon
  split
  · exact refl s
  · exact (of_eq rfl rfl : LinkKeeps F s (s.setTracker d _)).trans (finish _ hF ..)

theorem landData (id order status : Nat) (data : List Byte) (marks : List Bool) :
    LinkKeeps F s (s.landData d id order status data marks) := by
  unfold State.landData
  split
  · exact refl s
  · split
    · exact finish _ hF ..
    · split
      · exact of_eq rfl rfl
      · exact (localWrite ..).trans (finish _ hF ..)

end

end LinkKeeps

/-! ### The entry of an operation that the host answered -/

theorem State.entries_deliver (s : State) (d : Nat) (r : RemReq) (status : Nat) (data : List Byte) :
    ((s.deliver d r status data).tracker d).entries = (s.tracker d).entries := by
  have same {t : State} (h : t.trackers = s.trackers) : (t.tracker d).entries = (s.tracker d).entries := by
    rw [State.tracker, State.tracker, h]
  unfold State.deliver
  split
  · dsimp only
    split
    · rfl
    · exact same ((State.remoteFail_moves ..).same .trackers (by decide))
  · exact same ((State.descDone_moves ..).same .trackers (by decide))
  · rw [State.tracker_setTracker]

theorem State.entryOf_finish (s : State) (d id status : Nat) (data : List Byte) : (s.finish d id status data).entryOf d id = none := by
  unfold State.finish State.entryOf
  split
  · next h => exact h
  · dsimp only
    rw [State.entries_deliver, State.tracker_setEntries]
    refine List.find?_eq_none.mpr fun x hx hid => ?_
    have := (List.mem_filter.mp hx).2
    simp_all

section
variable {s : State} {d id : Nat} {e : TrackEntry} (he : s.entryOf d id = some e)
include he

theorem find_entryOf : (s.tracker d).entries.find? (fun x => x.id == id && x.order == e.order) = some e := by
  obtain ⟨hid, l, r, hl, hn⟩ := List.find?_eq_some_iff_append.mp he
  refine List.find?_eq_some_iff_append.mpr ⟨by simpa using hid, l, r, hl, fun x hx => ?_⟩
  have := hn x hx
  simp_all

/-- The bytes of a GET that the host answered wait for their extent (R175). -/
theorem State.landData_waits {status : Nat} {data : List Byte} (marks : List Bool) (hk : e.req.kind = .get)
    (hst : status = stDONE ∨ status = stPOISONED) (hh : s.accessHeld e.req.loc data.length true = true) :
    ((s.landData d id e.order status data marks).entryOf d id).map (·.phase) = some .landing ∧
    (s.landData d id e.order status data marks).mem = s.mem := by
  have hland : s.landData d id e.order status data marks = (s.updEntry d id fun x => { x with phase := .landing }).park
      [(e.req.loc, data.length, true)] (.landing d id e.order status data marks) := by
    unfold State.landData
    rw [find_entryOf he]
    dsimp only
    rw [if_neg (by simp [hk, hst]), if_pos hh]
  rw [hland]
  refine ⟨?_, rfl⟩
  have htr : (((s.updEntry d id fun x => { x with phase := .landing }).park [(e.req.loc, data.length, true)]
      (.landing d id e.order status data marks)).tracker d).entries =
      (s.tracker d).entries.map fun x => if x.id = id then { x with phase := .landing } else x :=
    congrArg (·.entries) (State.tracker_setTracker s d _)
  unfold State.entryOf
  rw [htr, List.find?_map]
  have hsame : ((fun x : TrackEntry => x.id == id) ∘ fun x : TrackEntry => if x.id = id then { x with phase := .landing } else x) =
      fun x => x.id == id := by
    funext x
    by_cases hx : x.id = id <;> simp [hx]
  have hid : e.id = id := beq_iff_eq.mp (List.find?_some (p := fun x : TrackEntry => x.id == id) he)
  rw [hsame, show (s.tracker d).entries.find? (fun x => x.id == id) = some e from he]
  simp [hid]

/-- Any other answer ends the operation. -/
theorem State.landData_ends {status : Nat} {data : List Byte} (marks : List Bool)
    (hn : ¬ (e.req.kind = .get ∧ (status = stDONE ∨ status = stPOISONED) ∧ s.accessHeld e.req.loc data.length true = true)) :
    (s.landData d id e.order status data marks).entryOf d id = none := by
  unfold State.landData
  rw [find_entryOf he]
  dsimp only
  split
  · exact State.entryOf_finish ..
  · next hk =>
    push Not at hk
    have hst : status = stDONE ∨ status = stPOISONED := by
      have h2 := hk.2
      by_cases hd : status = stDONE <;> simp_all
    rw [if_neg fun hh => hn ⟨hk.1, hst, hh⟩]
    exact State.entryOf_finish ..

end

/-! ### The run of failures -/

theorem State.hostResult_few (s : State) {failed : Bool} (h : s.host.failedRun < 3) :
    s.hostResult failed = s.setHost fun r => { r with failedRun := if failed then s.host.failedRun + 1 else 0 } := by
  unfold State.hostResult
  cases failed with
  | false => rfl
  | true => exact if_neg (show ¬ 4 ≤ s.host.failedRun + 1 by omega)

/-- A ring that goes off leaves the binding (R393). -/
theorem LinkKeeps.ringOff (s : State) (r : Nat) : LinkKeeps (fun _ => False) s (s.ringOff r) := by
  have ring (u : State) (f : Fld) (x : Nat) (h : f.reg = RING_CFG ∨ f.reg = RING_STATE) : LinkKeeps (fun _ => False) u (u.setF f 0 r x) := by
    refine LinkKeeps.setReg u f.reg 0 r _ ?_ fun _ hd => hd.elim
    obtain h | h := h <;> rw [h] <;> simp [Reg.addr, RING_CFG, RING_STATE] <;> omega
  exact ((ring s RING_CFG_SQ_EN 0 (.inl rfl)).trans (ring _ RING_CFG_CQ_EN 0 (.inl rfl))).trans (ring _ RING_STATE_STATE 0 (.inr rfl))

theorem LinkKeeps.setRing {F : Nat → Prop} (s : State) (r : Nat) (x : RingPair) : LinkKeeps F s (s.setRing r x) := ⟨rfl, fun _ _ _ => rfl⟩

theorem LinkKeeps.endWhere (s : State) (d status : Nat) (p : TrackEntry → Bool) : LinkKeeps (fun _ => False) s (s.endWhere d status p) :=
  LinkKeeps.foldl _ _ (fun u (e : TrackEntry) => LinkKeeps.abandon u (d := d) (fun _ h => False.elim h) e.id status) s

/-- BOUND and ATTACHED fall with the binding (R393, R395). -/
theorem State.unbind_fields (s : State) : s.unbind.bound = false ∧ s.unbind.attached = false := by
  let a := s.setF HOST_BLK_STATUS_BOUND 0 0 0
  let b := a.setF HOST_BLK_STATUS_ATTACHED 0 0 0
  have hb : b.getF HOST_BLK_STATUS_BOUND 0 0 = 0 :=
    (State.getF_setF_apart a HOST_BLK_STATUS_ATTACHED HOST_BLK_STATUS_BOUND _ _ _ rfl rfl rfl rfl).trans (State.getF_setF _ _ _ _ _ rfl)
  have ha : b.getF HOST_BLK_STATUS_ATTACHED 0 0 = 0 := State.getF_setF _ _ _ _ _ rfl
  obtain ⟨c, hc, hu⟩ : ∃ c, LinkKeeps (fun _ => False) b c ∧ ∀ f : Fld, f.reg = HOST_BLK_STATUS → s.unbind.getF f 0 0 = c.getF f 0 0 := by
    unfold State.unbind
    generalize List.range 64 = l
    refine ⟨_, LinkKeeps.foldl l (fun u r => (u.ringOff r).setRing r { u.ring r with sqTail := 0, cqHead := 0, unsignalled := 0 })
      (fun u r => (LinkKeeps.ringOff u r).trans (.setRing ..)) b, fun f hf => ?_⟩
    dsimp only
    rw [State.setHost_getF, State.getF_setF_ne _ SF_STATUS_OCCUPANCY f 0 0 0 0 0 (by rw [hf]; decide), State.setArrivals_getF]
  have hbound := (hu HOST_BLK_STATUS_BOUND rfl).trans ((hc.fields _ 0 (.inl ⟨rfl, .inl rfl⟩)).trans hb)
  have hattached := (hu HOST_BLK_STATUS_ATTACHED rfl).trans ((hc.fields _ 0 (.inl ⟨rfl, .inr rfl⟩)).trans ha)
  constructor
  · rw [State.bound, State.flag, hbound]
    decide
  · rw [State.attached, State.flag, hattached]
    decide

/-- The fourth failure in succession ends the binding (R394). -/
theorem State.hostResult_last (s : State) (h : 3 ≤ s.host.failedRun) :
    (s.hostResult true).bound = false ∧ (s.bound = true → (s.hostResult true).attached = false) := by
  let v := s.setHost fun r => { r with failedRun := s.host.failedRun + 1 }
  have hv : s.hostResult true = v.endBinding := if_pos (show 4 ≤ s.host.failedRun + 1 by omega)
  have hb : v.bound = s.bound := rfl
  rw [hv]
  clear_value v
  unfold State.endBinding
  cases hbound : v.bound with
  | false => exact ⟨hbound, fun h => by rw [← hb, hbound] at h; cases h⟩
  | true =>
    have ends := LinkKeeps.foldl (F := fun _ => False) (List.range 4)
      (fun u d => u.endWhere d stUNREACHABLE fun e => decide (e.phase = .host)) (fun u d => LinkKeeps.endWhere u d _ _) v.unbind
    obtain ⟨h1, h2⟩ := v.unbind_fields
    exact ⟨ends.bound.trans h1, fun _ => ends.attached.trans h2⟩

/-! ### HOST_REQUEST_COMPLETION -/

section
variable {s : State} (result : Fin 4) (data : List Byte) (marks : List Bool)

/-- A ring whose read failed enters ERROR (R401). -/
theorem State.ringError_spec (s : State) {r : Nat} (h : s.getF RING_STATE_STATE 0 r ≠ 0) :
    (s.ringError r 2).getF RING_STATE_STATE 0 r = 3 ∧ (s.ringError r 2).getF RING_STATE_CAUSE 0 r = 2 ∧
    (s.ringError r 2).flag HOST_BLK_STATUS_RING_ERR 0 0 = true := by
  let a := s.setF RING_STATE_STATE 0 r 3
  let b := a.setF RING_STATE_CAUSE 0 r 2
  have hne (f : Fld) (hf : f.reg = RING_STATE) : f.reg.addr 0 r ≠ HOST_BLK_STATUS_RING_ERR.reg.addr 0 0 := by
    rw [hf]
    simp [Reg.addr, RING_STATE, HOST_BLK_STATUS_RING_ERR, HOST_BLK_STATUS]
    omega
  rw [State.ringError, if_neg h]
  refine ⟨?_, ?_, State.flag_setF_one _ _ _ _ rfl⟩
  · exact (State.getF_setF_ne b _ _ _ _ _ _ _ (hne _ rfl)).trans
      ((State.getF_setF_apart a RING_STATE_CAUSE RING_STATE_STATE _ _ _ rfl rfl rfl rfl).trans (State.getF_setF _ _ _ _ _ rfl))
  · exact (State.getF_setF_ne b _ _ _ _ _ _ _ (hne _ rfl)).trans (State.getF_setF _ _ _ _ _ rfl)

theorem LinkKeeps.ringError (s : State) (r : Nat) : LinkKeeps (fun _ => False) s (s.ringError r 2) := by
  have ring (u : State) (f : Fld) (x : Nat) (h : f.reg = RING_STATE) : LinkKeeps (fun _ => False) u (u.setF f 0 r x) := by
    refine LinkKeeps.setReg u f.reg 0 r _ ?_ fun _ hd => hd.elim
    rw [h]
    simp [Reg.addr, RING_STATE]
    omega
  unfold State.ringError
  split
  · exact .refl s
  · exact ((ring s RING_STATE_STATE 3 rfl).trans (ring _ RING_STATE_CAUSE 2 rfl)).trans (.hostStatus _ HOST_BLK_STATUS_RING_ERR 1 rfl rfl rfl rfl)

theorem hostRequest_ring (r : Fin 64) (d : Fin 4) (id : Fin 4096) (h : s.host.failedRun < 3) :
    CompletesThen (.hostRequestCompletion (some r) d id result data marks) s State.releaseAll fun u =>
      u.host.failedRun = (if result.val = 0 then 0 else s.host.failedRun + 1) ∧ u.bound = s.bound ∧
      (result.val ≠ 0 → s.bound = true → s.getF RING_STATE_STATE 0 r ≠ 0 →
        u.getF RING_STATE_STATE 0 r = 3 ∧ u.getF RING_STATE_CAUSE 0 r = 2 ∧ u.flag HOST_BLK_STATUS_RING_ERR 0 0 = true) := by
  let v := if (result.val != 0) && s.bound then s.ringError r 2 else s
  have hv : LinkKeeps (fun _ => False) s v := by
    show LinkKeeps _ s (if _ then _ else _)
    split
    · exact LinkKeeps.ringError s r
    · exact .refl s
  have hexec : exec (.hostRequestCompletion (some r) d id result data marks) s = .next (v.hostResult (result.val != 0)).releaseAll := rfl
  have hring : result.val ≠ 0 → s.bound = true → v = s.ringError r 2 := fun hr hb => if_pos (by simp [hr, hb])
  clear_value v
  rw [v.hostResult_few (by rw [hv.failedRun]; exact h)] at hexec
  refine ⟨_, hexec, ?_, ?_, fun hr hb hs => ?_⟩
  · show (if (result.val != 0) = true then v.host.failedRun + 1 else 0) = _
    rw [hv.failedRun]
    by_cases hr : result.val = 0 <;> simp [hr]
  · exact hv.bound
  · rw [State.setHost_getF, State.setHost_getF, State.setHost_flag, hring hr hb]
    exact s.ringError_spec hs

section
variable {d : Fin 4} {id : Fin 4096} {e : TrackEntry}
variable (hl : (s.tracker d).late.any (fun l => l.1 == id.val && l.2.2 == hostSeg) = false) (he : s.entryOf d id = some e) (hp : e.phase = .host)

/-- The status of an operation that the host answered (R213, R394). -/
def hostStatus (result : Nat) (kind : RemKind) (marks : List Bool) : Nat :=
  if result = 3 then stTIMEOUT else if result != 0 then stUNREACHABLE
  else if decide (kind = .get) && marks.contains true then stPOISONED else stDONE

/-- A host's answer without a completion in time is counted. -/
def State.countTimeout (s : State) (d result : Nat) : State := if result = 3 then s.addF TIMEOUT_COUNT_COUNT d 0 1 else s

include hl he hp in
theorem exec_hostAnswer : exec (.hostRequestCompletion none d id result data marks) s =
    .next ((((s.countTimeout d result).landData d id e.order (hostStatus result e.req.kind marks) data marks).hostResult
      (result.val != 0)).releaseAll) := by
  show execHostRequestCompletion none d id result data marks s = _
  unfold execHostRequestCompletion
  dsimp only
  rw [hl, if_neg Bool.false_ne_true, he]
  dsimp only
  rw [if_neg (not_not_intro hp)]
  rfl

theorem hostStatus_code (result : Fin 4) (kind : RemKind) (marks : List Bool) :
    (hostStatus result kind marks = stDONE ∨ hostStatus result kind marks = stPOISONED) ↔ result.val = 0 := by
  unfold hostStatus
  by_cases h3 : result.val = 3
  · simp [h3, stTIMEOUT, stDONE, stPOISONED]
  · by_cases h0 : result.val = 0
    · rw [if_neg h3, if_neg (by simp [h0])]
      split <;> simp [h0]
    · rw [if_neg h3, if_pos (by simpa using h0)]
      simp [h0, stUNREACHABLE, stDONE, stPOISONED]

theorem State.countTimeout_linkKeeps (s : State) (d result : Nat) : LinkKeeps (fun _ => False) s (s.countTimeout d result) := by
  unfold State.countTimeout
  split
  · refine LinkKeeps.setReg s _ d 0 _ ?_ fun _ h => h.elim
    simp [Reg.addr, TIMEOUT_COUNT_COUNT, TIMEOUT_COUNT]
    omega
  · exact .refl s

theorem State.countTimeout_count (s : State) (d : Nat) :
    (s.countTimeout d 3).getF TIMEOUT_COUNT_COUNT d 0 = (s.getF TIMEOUT_COUNT_COUNT d 0 + 1) % 2 ^ 64 :=
  State.getF_setF s TIMEOUT_COUNT_COUNT _ _ _ rfl

theorem State.entryOf_countTimeout (s : State) (d result e id : Nat) : (s.countTimeout d result).entryOf e id = s.entryOf e id := by
  unfold State.countTimeout
  split <;> rfl

include hl he hp in
theorem hostAnswer_few (h : s.host.failedRun < 3) :
    CompletesThen (.hostRequestCompletion none d id result data marks) s State.releaseAll fun u =>
      u.host.failedRun = (if result.val = 0 then 0 else s.host.failedRun + 1) ∧ u.bound = s.bound ∧
      (e.req.kind = .get ∧ result.val = 0 ∧ s.accessHeld e.req.loc data.length true = true →
        (u.entryOf d id).map (·.phase) = some .landing ∧ u.mem = s.mem) ∧
      (¬ (e.req.kind = .get ∧ result.val = 0 ∧ s.accessHeld e.req.loc data.length true = true) → u.entryOf d id = none) ∧
      (result.val = 3 → u.getF TIMEOUT_COUNT_COUNT d 0 = (s.getF TIMEOUT_COUNT_COUNT d 0 + 1) % 2 ^ 64) := by
  have hexec := exec_hostAnswer result data marks hl he hp
  let w := s.countTimeout d result
  have hw : LinkKeeps (fun _ => False) s w := s.countTimeout_linkKeeps d result
  have hwe : w.entryOf d id = some e := (s.entryOf_countTimeout ..).trans he
  have hw0 : result.val = 0 → w = s := fun h0 => if_neg (by omega)
  have hw3 : result.val = 3 → w.getF TIMEOUT_COUNT_COUNT d 0 = (s.getF TIMEOUT_COUNT_COUNT d 0 + 1) % 2 ^ 64 := fun h3 => by
    show (s.countTimeout d result).getF _ _ _ = _
    rw [h3]
    exact s.countTimeout_count d
  change exec _ s = .next ((w.landData d id e.order (hostStatus result e.req.kind marks) data marks).hostResult _).releaseAll at hexec
  clear_value w
  have hst := hostStatus_code result e.req.kind marks
  generalize hostStatus result e.req.kind marks = st at hexec hst
  have hkeeps := LinkKeeps.landData w (F := fun k => k = d.val) (d := d) (fun _ h => h) id e.order st data marks
  have hkeeps0 := LinkKeeps.landData w (F := fun _ => False) (d := d) (fun _ h => False.elim h) id e.order st data marks
  have hwaits := State.landData_waits hwe (status := st) (data := data) marks
  have hends := State.landData_ends hwe (status := st) (data := data) marks
  generalize w.landData d id e.order st data marks = v at hexec hkeeps hkeeps0 hwaits hends
  have hrun : v.host.failedRun = s.host.failedRun := hkeeps0.failedRun.trans hw.failedRun
  rw [v.hostResult_few (by rw [hrun]; exact h)] at hexec
  refine ⟨_, hexec, ?_, hkeeps0.bound.trans hw.bound, fun ⟨hk, h0, hh⟩ => ?_, fun hn => ?_, fun h3 => ?_⟩
  · show (if (result.val != 0) = true then v.host.failedRun + 1 else 0) = _
    rw [hrun]
    by_cases hr : result.val = 0 <;> simp [hr]
  · obtain rfl := hw0 h0
    exact hwaits hk (hst.mpr h0) hh
  · refine hends fun ⟨hk, hs, hh⟩ => hn ⟨hk, hst.mp hs, ?_⟩
    rw [← hw0 (hst.mp hs)]
    exact hh
  · rw [State.setHost_getF, hkeeps.fields _ _ (.inr ⟨rfl, rfl⟩)]
    exact hw3 h3

include hl he hp in
theorem hostAnswer_last (h : 3 ≤ s.host.failedRun) (hr : result.val ≠ 0) :
    CompletesThen (.hostRequestCompletion none d id result data marks) s State.releaseAll fun u =>
      u.bound = false ∧ (s.bound = true → u.attached = false) := by
  have hexec := exec_hostAnswer result data marks hl he hp
  have hv : LinkKeeps (fun _ => False) s ((s.countTimeout d result).landData d id e.order (hostStatus result e.req.kind marks) data marks) :=
    (s.countTimeout_linkKeeps ..).trans (LinkKeeps.landData _ (fun _ h => False.elim h) ..)
  generalize (s.countTimeout d result).landData d id e.order (hostStatus result e.req.kind marks) data marks = v at hexec hv
  rw [show (result.val != 0) = true by simpa using hr] at hexec
  obtain ⟨h1, h2⟩ := v.hostResult_last (by rw [hv.failedRun]; exact h)
  exact ⟨_, hexec, h1, fun hb => h2 (hv.bound.trans hb)⟩

end
end

/-! ### An access that finds the package in another state -/

section
variable {s : State} {line : Fin 12884901888} {kind : Fin 4} {data : List Byte} {pois : Bool}

theorem hdm_unbound (h : s.bound = false ∨ s.host.linkUp = false ∨ s.host.hdmSize < line.val * 64 + 64 ∨ s.power.inReset = true) :
    exec (.hdmAccess line kind data pois) s = .next s := if_pos (by simpa using h)

section
variable (hx : exec (.hdmAccess line kind data pois) s = .next (s.hdmAccess ⟨line, kind, data, pois⟩))
include hx

theorem hdm_refused (hp : s.powerState < 2)
    (hr : s.extentReach (line.val * 64) 64 = .retired ∨ s.extentReach (line.val * 64) 64 = .unreachable) :
    exec (.hdmAccess line kind data pois) s = .next (s.hdmAnswer line (s.extentReach (line.val * 64) 64).status
      (if kind.val = 3 then [] else List.replicate 16 true) (if kind.val = 3 then [] else List.replicate 64 0)) := by
  have hw := State.hdmPerform_refused (s := s) (w := ⟨line, kind, data, pois⟩) hr
  rw [State.hdmRefuse_eq] at hw
  exact hdm_performed hx hp hw

theorem hdm_parks (hp : s.powerState = 3 ∨ s.powerState = 6) : exec (.hdmAccess line kind data pois) s =
    .next (s.park [] (.hdm ⟨line, kind, data, pois⟩)) := by
  rw [hx]
  unfold State.hdmAccess
  obtain hp | hp := hp <;> (rw [hp]; rfl)

theorem hdm_wakes (hp : s.powerState = 2) : exec (.hdmAccess line kind data pois) s = .next
    ((if s.wakesOn STATE_EXPERT_WAKE_ON_REQUEST then s.setF STATE_STATUS_STATE 0 0 3 else s).park [] (.hdm ⟨line, kind, data, pois⟩)) := by
  rw [hx]
  unfold State.hdmAccess
  rw [hp]
  rfl

theorem hdm_refuge (hp : s.powerState = 5) : exec (.hdmAccess line kind data pois) s =
    .next ((s.hdmAnswer line stUNREACHABLE (if kind.val = 3 then [] else List.replicate 16 true)
      (if kind.val = 3 then [] else List.replicate 64 0)).satF STATE_STATUS_HDM_REFUSED 0 0 1) := by
  rw [hx]
  unfold State.hdmAccess
  rw [hp]
  dsimp only
  rw [State.hdmRefuse_eq]
  rfl

end
end

/-- Settles O46: an access follows the reach of its line and the package's state, a back-invalidation gives the line back, and the answers
of the host are counted in succession. -/
theorem hostMemory : Obligations.HostMemory := by
  unfold Obligations.HostMemory
  refine fun s => ⟨fun line kind data pois => ⟨hdm_unbound, fun hb hl hz hi => ?_⟩, fun line data pois => ⟨fun hn => ?_, fun l hl hs => ?_⟩,
    fun result data marks => ⟨fun r d id => hostRequest_ring result data marks r d id, fun d id => ⟨fun hl => ?_, fun e hl he hp => ?_⟩⟩⟩
  · have hx : exec (.hdmAccess line kind data pois) s = _ := exec_hdmAccess hb hl hz hi
    refine ⟨fun hp => ⟨fun hr hs => ⟨?_, fun hk => ⟨?_, ?_, ?_⟩, ?_⟩, ?_, ?_⟩, hdm_parks hx, hdm_wakes hx, hdm_refuge hx⟩
    · exact hdm_reads hx hp hr hs
    · exact hdm_grantWaits hx hp hr hs hk
    · exact fun l rest => hdm_fullFilter hx hp hr hs hk
    · exact hdm_grants hb hx hp hr hs hk
    · exact hdm_writes hb hx hp hr hs
    · exact hdm_held hx hp
    · exact hdm_refused hx hp
  · show execBisnpComplete line data pois s = _
    rw [execBisnpComplete, hn]
  · exact bisnp_completes hs data pois hl
  · exact if_pos hl
  · exact ⟨hostAnswer_few result data marks hl he hp, hostAnswer_last result data marks hl he hp⟩

end Sys2Proof.Machine
end

