-- ==== Sys2Proof/Proofs/SaddleWords.lean ====
section
/-!
PROOFS. The words of a Saddle flit: how each is decoded, and where the flit lands (R418, R421).
-/
namespace Sys2Proof.Machine

open Sys2Proof

/-! ### Bytes of a flit -/

theorem leBytes_leNat (bs : List Byte) : leBytes bs.length (leNat bs) = bs := by
  induction bs with
  | nil => rfl
  | cons b bs ih =>
    have hb := b.isLt
    rw [List.length_cons, leNat, leBytes, show (b.toNat + 256 * leNat bs) / 256 = leNat bs by omega, ih]
    congr 1
    exact BitVec.eq_of_toNat_eq (by simp; omega)

/-- Word i of a flit as it was sent. -/
def sentWord (data : List Byte) (i : Nat) : List Byte := leBytes 8 (leNat ((data.drop (8 * i)).take 8))

/-- The words of a flit make up its bytes. -/
theorem flatMap_sentWord (data : List Byte) (n : Nat) (h : data.length = 8 * n) : (List.range n).flatMap (sentWord data) = data := by
  have hword : ∀ i ∈ List.range n, sentWord data i = (data.drop (8 * i)).take 8 := fun i hi => by
    have hl : ((data.drop (8 * i)).take 8).length = 8 := by
      have := List.mem_range.mp hi
      simp
      omega
    have := leBytes_leNat ((data.drop (8 * i)).take 8)
    rwa [hl] at this
  have htake : ∀ m, (List.range m).flatMap (fun i => (data.drop (8 * i)).take 8) = data.take (8 * m) := fun m => by
    induction m with
    | zero => rfl
    | succ m ih => rw [List.range_succ, List.flatMap_append, ih, Nat.mul_succ, List.take_add]; simp
  rw [List.flatMap_congr hword, htake, List.take_of_length_le (by omega)]

/-! ### The ends of a link -/

theorem State.saddle_setSaddle (s : State) (k : Nat) (x : SaddleEnd) : (s.setSaddle k x).saddle k = x := kget_kset_same ..

theorem State.saddle_setSaddle_ne (s : State) {k j : Nat} (x : SaddleEnd) (h : j ≠ k) : (s.setSaddle k x).saddle j = s.saddle j :=
  kget_kset_ne _ _ h

theorem State.saddle_congr {s t : State} (h : t.saddles = s.saddles) (k : Nat) : t.saddle k = s.saddle k := by
  rw [State.saddle, State.saddle, h]

/-- Nothing but runs of corrections at the units outside P of end k changes. -/
structure EndKeeps (k : Nat) (P : Nat → Prop) (s t : State) : Prop where
  moves : Moves 0x1000 s t
  dead : (t.saddle k).dead = (s.saddle k).dead
  hold : ∀ j, (t.saddle j).hold = (s.saddle j).hold
  streaks : ∀ u, P u → kget (0, 0) (t.saddle k).streaks u = kget (0, 0) (s.saddle k).streaks u

theorem EndKeeps.refl (k : Nat) (P : Nat → Prop) (s : State) : EndKeeps k P s s := ⟨.refl s, rfl, fun _ => rfl, fun _ _ => rfl⟩

theorem EndKeeps.trans {k : Nat} {P : Nat → Prop} {s t u : State} (h : EndKeeps k P s t) (j : EndKeeps k P t u) : EndKeeps k P s u :=
  ⟨j.moves.step (by decide) h.moves, j.dead.trans h.dead, fun i => (j.hold i).trans (h.hold i), fun i hi => (j.streaks i hi).trans (h.streaks i hi)⟩

/-- A run of corrections ends at unit u. -/
theorem State.endRun_keeps (s : State) (k u : Nat) (P : Nat → Prop) (h : ¬ P u) :
    EndKeeps k P s (s.setSaddle k { s.saddle k with streaks := kset (0, 0) (s.saddle k).streaks u (0, 0) }) := by
  refine ⟨State.setSaddle_moves .., by rw [State.saddle_setSaddle], fun j => ?_, fun v hv => ?_⟩
  · by_cases hj : j = k
    · rw [hj, State.saddle_setSaddle]
    · rw [State.saddle_setSaddle_ne _ _ hj]
  · have hne : v ≠ u := by
      rintro rfl
      exact h hv
    rw [State.saddle_setSaddle]
    exact kget_kset_ne (s.saddle k).streaks (0, 0) hne

/-! ### One word -/

theorem State.saddleDecode_clean (s : State) (x : SaddleEnd) (g w : Nat) : s.saddleDecode x g w [] = (s, .clean) := by
  unfold State.saddleDecode
  cases x.dead.find? fun p => p.1 == g && p.2 / 20 == w <;> rfl

section
variable {s : State} {x : SaddleEnd} {g : Nat} (w : Nat) (h : ∀ p ∈ x.dead, p.1 ≠ g)
include h

theorem find_dead : (x.dead.find? fun p => p.1 == g && p.2 / 20 == w) = none :=
  List.find?_eq_none.mpr fun p hp => by simp [h p hp]

theorem State.saddleDecode_one (j : Nat) : s.saddleDecode x g w [j] = (s, .corrected j) := by
  unfold State.saddleDecode
  rw [find_dead w h]

theorem State.saddleDecode_two (j k : Nat) : s.saddleDecode x g w [j, k] = (s, .bad) := by
  unfold State.saddleDecode
  rw [find_dead w h]

end

theorem State.saddleWord_clean (s : State) (l e g w : Nat) : s.saddleWord l e g w [] =
    (s.setSaddle (2 * l + e) { s.saddle (2 * l + e) with streaks := kset (0, 0) (s.saddle (2 * l + e)).streaks (4 * g + w) (0, 0) },
      .clean, false) := by
  unfold State.saddleWord
  dsimp only
  rw [State.saddleDecode_clean]

section
variable (s : State) (l e : Nat) {g : Nat} (w : Nat) (h : ∀ p ∈ (s.saddle (2 * l + e)).dead, p.1 ≠ g)
include h

theorem State.saddleWord_bad (j k : Nat) : s.saddleWord l e g w [j, k] =
    ((((s.satF (saddleUncorrected e) 0 l 1).raise 1 0x14 (if e = 0 then (linkEnds l).1 else (linkEnds l).2) l 0 l g 0).setSaddle (2 * l + e)
      { s.saddle (2 * l + e) with streaks := kset (0, 0) (s.saddle (2 * l + e)).streaks (4 * g + w) (0, 0) }), .bad, true) := by
  unfold State.saddleWord
  dsimp only
  rw [State.saddleDecode_two w h]

/-- A corrected word whose wire is not dead yet. -/
theorem State.saddleWord_corrected (j : Nat) (hne : kget (0, 0) (s.saddle (2 * l + e)).streaks (4 * g + w) ≠ (j, 63))
    (hlt : (kget (0, 0) (s.saddle (2 * l + e)).streaks (4 * g + w)).2 < 64) :
    ∃ x : SaddleEnd, x.dead = (s.saddle (2 * l + e)).dead ∧
      s.saddleWord l e g w [j] = ((s.satF (saddleCorrected e) 0 l 1).setSaddle (2 * l + e) x, .corrected j, false) := by
  unfold State.saddleWord
  dsimp only
  rw [State.saddleDecode_one w h]
  dsimp only
  refine ⟨_, ?_, if_pos ?_⟩
  · rfl
  · split
    · next hj =>
      have : (kget (0, 0) (s.saddle (2 * l + e)).streaks (4 * g + w)).2 ≠ 63 := fun h2 => hne (Prod.ext hj h2)
      omega
    · omega

/-- The sixty-fourth correction in succession marks the wire dead (R421). -/
theorem State.saddleWord_dead (j : Nat) (hrun : kget (0, 0) (s.saddle (2 * l + e)).streaks (4 * g + w) = (j, 63)) :
    ∃ x : SaddleEnd, ∃ v : Nat, x.dead = (s.saddle (2 * l + e)).dead ++ [(g, 20 * w + j)] ∧
      s.saddleWord l e g w [j] = (((s.satF (saddleCorrected e) 0 l 1).setSaddle (2 * l + e) x).setF (saddleDeadMask e) 0 l (v ||| 2 ^ g),
        .corrected j, (s.fenceOf 0).degrade) := by
  have hsecond : ((s.saddle (2 * l + e)).dead.any fun p => p.1 == g) = false := List.any_eq_false.mpr fun p hp => by simp [h p hp]
  unfold State.saddleWord
  dsimp only
  rw [State.saddleDecode_one w h]
  dsimp only
  rw [hrun]
  dsimp only
  rw [if_pos rfl, if_neg (by omega), hsecond, Bool.false_or]
  exact ⟨_, _, rfl, rfl⟩

end

/-! ### All words -/

/-- One word of a flit that is received: the state, the words delivered so far, and whether the link must degrade. -/
def deliverStep (l e : Nat) (groups : List Nat) (x : SaddleFlit) (errs : List SymErr) (y : State × List (List Byte × Bool) × Bool) (i : Nat) :
    State × List (List Byte × Bool) × Bool :=
  let z := y.1.saddleWord l e (groups.getD (i / 4 % max 1 groups.length) 0) (i % 4) (badSymbols errs i)
  (z.1, y.2.1 ++ [z.2.1.delivered errs i (leNat ((x.data.drop (8 * i)).take 8))], y.2.2 || z.2.2)

/-- A flit lands where it is due. -/
def State.landAt (s : State) (dst : Option Nat) (words : List (List Byte × Bool)) : State :=
  match dst with
  | some a => s.landFlit a words
  | none => s

theorem State.landAt_moves (s : State) (dst : Option Nat) (words : List (List Byte × Bool)) : Moves 0x30 s (s.landAt dst words) := by
  unfold State.landAt
  split
  · exact State.landFlit_moves ..
  · exact .refl s

theorem State.deliverFlit_eq (s : State) (l e : Nat) (groups : List Nat) (x : SaddleFlit) (errs : List SymErr) :
    s.deliverFlit l e groups x errs =
      (((List.range 64).foldl (deliverStep l e groups x errs) (s, [], false)).1.landAt x.dst
        ((List.range 64).foldl (deliverStep l e groups x errs) (s, [], false)).2.1,
       ((List.range 64).foldl (deliverStep l e groups x errs) (s, [], false)).2.2) := by
  unfold State.deliverFlit
  generalize List.range 64 = is
  rfl

section
variable (l e : Nat) (groups : List Nat) (x : SaddleFlit) {errs : List SymErr} (P : Nat → Prop)

/-- Words that arrive clean are delivered as sent. -/
theorem foldl_deliverStep_clean (is : List Nat) (hc : ∀ i ∈ is, badSymbols errs i = [])
    (hP : ∀ i ∈ is, ¬ P (4 * groups.getD (i / 4 % max 1 groups.length) 0 + i % 4)) (y : State × List (List Byte × Bool) × Bool) :
    EndKeeps (2 * l + e) P y.1 (is.foldl (deliverStep l e groups x errs) y).1 ∧
    (is.foldl (deliverStep l e groups x errs) y).2.1 = y.2.1 ++ is.map (fun i => (sentWord x.data i, false)) ∧
    (is.foldl (deliverStep l e groups x errs) y).2.2 = y.2.2 := by
  induction is generalizing y with
  | nil => exact ⟨.refl .., by simp, rfl⟩
  | cons i is ih =>
    have hstep : deliverStep l e groups x errs y i =
        (y.1.setSaddle (2 * l + e) { y.1.saddle (2 * l + e) with
          streaks := kset (0, 0) (y.1.saddle (2 * l + e)).streaks (4 * groups.getD (i / 4 % max 1 groups.length) 0 + i % 4) (0, 0) },
         y.2.1 ++ [(sentWord x.data i, false)], y.2.2) := by
      unfold deliverStep
      rw [hc i (by simp), State.saddleWord_clean]
      dsimp only
      rw [Bool.or_false]
      rfl
    obtain ⟨h1, h2, h3⟩ := ih (fun j hj => hc j (by simp [hj])) (fun j hj => hP j (by simp [hj])) (deliverStep l e groups x errs y i)
    rw [List.foldl_cons]
    rw [hstep] at h1 h2 h3 ⊢
    refine ⟨(y.1.endRun_keeps _ _ P (hP i (by simp))).trans h1, ?_, h3⟩
    rw [h2, List.map_cons, List.append_assoc]
    rfl

end

/-- A flit that arrives clean lands as it was sent, and changes nothing else (R421). -/
theorem State.deliverFlit_clean (s : State) (l e : Nat) (groups : List Nat) (x : SaddleFlit) : ∃ v,
    EndKeeps (2 * l + e) (fun _ => False) s v ∧
    s.deliverFlit l e groups x [] = (v.landAt x.dst ((List.range 64).map fun i => (sentWord x.data i, false)), false) := by
  obtain ⟨h1, h2, h3⟩ := foldl_deliverStep_clean l e groups x (errs := []) (fun _ => False) (List.range 64) (fun _ _ => rfl)
    (fun _ _ h => h) (s, [], false)
  refine ⟨_, h1, ?_⟩
  rw [State.deliverFlit_eq, h2, h3]
  rfl

/-- The words before a word and those after it. -/
theorem range_split {i n : Nat} (h : i < n) : List.range n = List.range i ++ i :: List.range' (i + 1) (n - 1 - i) := by
  rw [List.range_eq_range', List.range_eq_range', show n = i + ((n - 1 - i) + 1) by omega, ← List.range'_append, List.range'_succ]
  congr
  all_goals omega

/-- A flit of which one word arrives with errors, by a link at its full width. -/
theorem State.deliverFlit_word (s : State) (l e : Nat) (x : SaddleFlit) {errs : List SymErr} {i : Nat} (hi : i < 64)
    (hc : ∀ j, j ≠ i → badSymbols errs j = []) : ∃ u v words,
    EndKeeps (2 * l + e) (· = i) s u ∧
    EndKeeps (2 * l + e) (fun _ => False) (u.saddleWord l e (i / 4) (i % 4) (badSymbols errs i)).1 v ∧
    words[i]? = some ((u.saddleWord l e (i / 4) (i % 4) (badSymbols errs i)).2.1.delivered errs i (leNat ((x.data.drop (8 * i)).take 8))) ∧
    s.deliverFlit l e (List.range 16) x errs = (v.landAt x.dst words, (u.saddleWord l e (i / 4) (i % 4) (badSymbols errs i)).2.2) := by
  have hg (j : Nat) (hj : j < 64) : (List.range 16).getD (j / 4 % max 1 (List.range 16).length) 0 = j / 4 := by
    rw [List.length_range, show max 1 16 = 16 by rfl, Nat.mod_eq_of_lt (by omega), List.getD_eq_getElem _ _ (by simp; omega), List.getElem_range]
  obtain ⟨h1, h2, h3⟩ := foldl_deliverStep_clean l e (List.range 16) x (errs := errs) (· = i) (List.range i)
    (fun j hj => hc j (List.mem_range.mp hj).ne) (fun j hj => by have := List.mem_range.mp hj; rw [hg j (by omega)]; omega) (s, [], false)
  generalize hy : (List.range i).foldl (deliverStep l e (List.range 16) x errs) (s, [], false) = y at h1 h2 h3
  obtain ⟨k1, k2, k3⟩ := foldl_deliverStep_clean l e (List.range 16) x (errs := errs) (fun _ => False) (List.range' (i + 1) (64 - 1 - i))
    (fun j hj => hc j (by have := List.mem_range'.mp hj; omega)) (fun _ _ h => h) (deliverStep l e (List.range 16) x errs y i)
  have hfold : (List.range 64).foldl (deliverStep l e (List.range 16) x errs) (s, [], false) =
      (List.range' (i + 1) (64 - 1 - i)).foldl (deliverStep l e (List.range 16) x errs) (deliverStep l e (List.range 16) x errs y i) := by
    rw [range_split hi, List.foldl_append, hy, List.foldl_cons]
  generalize (List.range' (i + 1) (64 - 1 - i)).foldl (deliverStep l e (List.range 16) x errs) (deliverStep l e (List.range 16) x errs y i) = z
    at k1 k2 k3 hfold
  have hstep : deliverStep l e (List.range 16) x errs y i =
      ((y.1.saddleWord l e (i / 4) (i % 4) (badSymbols errs i)).1,
       y.2.1 ++ [(y.1.saddleWord l e (i / 4) (i % 4) (badSymbols errs i)).2.1.delivered errs i (leNat ((x.data.drop (8 * i)).take 8))],
       y.2.2 || (y.1.saddleWord l e (i / 4) (i % 4) (badSymbols errs i)).2.2) := by
    unfold deliverStep
    rw [hg i hi]
  rw [hstep] at k1 k2 k3
  refine ⟨y.1, z.1, z.2.1, h1, k1, ?_, ?_⟩
  · rw [k2, h2]
    simp
  · rw [State.deliverFlit_eq, hfold, k3, h3]
    rfl

/-! ### Landing -/

/-- Words already marked stay so. -/
theorem State.poisonAt_setPoison_true {s : State} {b : Nat} (h : s.poisonAt b = true) (a n : Nat) : (s.setPoison a n true).poisonAt b = true := by
  unfold State.poisonAt State.setPoison
  dsimp only
  rw [kget_foldl_kset (fun u => memKey (u * 4) / 4)]
  split
  · rfl
  · exact h

/-- The word that holds an address is marked. -/
theorem State.poisonAt_setPoison_self (s : State) (a : Nat) : (s.setPoison a 1 true).poisonAt (a / 4 * 4) = true := by
  unfold State.poisonAt State.setPoison
  dsimp only
  rw [kget_foldl_kset (fun u => memKey (u * 4) / 4), if_pos]
  refine List.mem_map.mpr ⟨a / 4, ?_, rfl⟩
  have hw : poisonWord a = 4 ∨ poisonWord a = 8 := by
    unfold poisonWord
    split
    · exact .inl rfl
    · exact .inr rfl
  simp only [rangeFrom, List.mem_map, List.mem_range]
  refine ⟨a / 4 - a / poisonWord a * poisonWord a / 4, ?_, ?_⟩ <;> obtain hw | hw := hw <;> rw [hw] <;> omega

/-- A marked unit of what is stored is poisoned (R168). -/
theorem State.poisonAt_writeMarked {s : State} {a : Nat} {bs : List Byte} {ps : List Bool} {i : Nat} (h : ps[i]? = some true) :
    (s.writeMarked a bs ps).poisonAt ((a + 4 * i) / 4 * 4) = true := by
  have hkeep : ∀ (l : List (Bool × Nat)) (u : State) (b : Nat), u.poisonAt b = true →
      (l.foldl (fun s p => if p.1 then s.setPoison (a + 4 * p.2) 1 true else s) u).poisonAt b = true := fun l => by
    induction l with
    | nil => exact fun _ _ h => h
    | cons p l ih =>
      refine fun u b hb => ih _ b ?_
      dsimp only
      split
      · exact State.poisonAt_setPoison_true hb ..
      · exact hb
  have hmem : (true, i) ∈ ps.zipIdx := by
    rw [List.mem_zipIdx_iff_getElem?]
    exact h
  obtain ⟨l, r, hl⟩ := List.append_of_mem hmem
  unfold State.writeMarked
  rw [hl, List.foldl_append, List.foldl_cons, if_pos rfl]
  exact hkeep _ _ _ (State.poisonAt_setPoison_self ..)

theorem getElem?_flatMap_pair {α β : Type} (f g : α → β) (l : List α) (i : Nat) :
    (l.flatMap fun x => [f x, g x])[2 * i]? = l[i]?.map f := by
  induction l generalizing i with
  | nil => simp
  | cons x l ih =>
    cases i with
    | zero => rfl
    | succ i => simpa [Nat.mul_succ] using ih i

theorem State.landFlit_reached {s : State} {a : Nat} (h : s.extentReach a 512 = .ok) (words : List (List Byte × Bool)) :
    ∃ marks, s.landFlit a words = s.writeMarked a (words.flatMap (·.1)) marks ∧
      ∀ i y, words[i]? = some y → y.2 = true → marks[2 * i]? = some true := by
  refine ⟨(words.zipIdx).flatMap fun x : (List Byte × Bool) × Nat => (List.range 2).map fun h => x.1.2 || s.poisoned (a + 8 * x.2 + 4 * h) 4,
    if_neg (not_not_intro h), fun i y hy hm => ?_⟩
  have hpair := getElem?_flatMap_pair (fun x : (List Byte × Bool) × Nat => x.1.2 || s.poisoned (a + 8 * x.2 + 4 * 0) 4)
    (fun x => x.1.2 || s.poisoned (a + 8 * x.2 + 4 * 1) 4) words.zipIdx i
  refine hpair.trans ?_
  simp [hy, hm]

end Sys2Proof.Machine
end

