-- ==== Sys2Proof/Proofs/SaddleFlits.lean ====
section
/-!
PROOFS. A flit at a Saddle link: what it leaves, counts and holds (R418 to R421).
-/
namespace Sys2Proof.Machine

open Sys2Proof

/-! ### Registers and extents -/

theorem State.getF_of_regs {s t : State} (h : t.regs = s.regs) (f : Fld) (d i : Nat) : t.getF f d i = s.getF f d i := by
  rw [State.getF, State.getF, State.reg, State.reg, h]

theorem State.extentReach_of_regs {s t : State} (h : t.regs = s.regs) (hp : t.power = s.power) (a n : Nat) :
    t.extentReach a n = s.extentReach a n := by
  refine State.extentReach_congr (fun e _ => ?_) (fun k => State.getF_of_regs h ..) a n
  unfold State.dieRunning
  rw [State.getF_of_regs h, State.getF_of_regs h, hp]

/-- The registers of a link decide nothing about an access. -/
theorem State.extentReach_setSaddle (s : State) (f : Fld) {l : Nat} (hl : l < 4) (x : Nat)
    (hf : f.reg = SADDLE_STATUS ∨ f.reg = SADDLE_ERRORS_A ∨ f.reg = SADDLE_ERRORS_B) (a n : Nat) :
    (s.setF f 0 l x).extentReach a n = s.extentReach a n := by
  have hne (g : Fld) (d i : Nat) (hg : d < 4 ∧ i = 0 ∧ g.reg = STATE_STATUS ∨ d = 0 ∧ i < 4 ∧ g.reg = DIE_STATE ∨ i < 3 ∧ g.reg = STACK_STATE) :
      (s.setF f 0 l x).getF g d i = s.getF g d i := by
    refine State.getF_setF_ne _ _ _ _ _ _ _ _ ?_
    obtain ⟨-, rfl, hg⟩ | ⟨rfl, hi, hg⟩ | ⟨hi, hg⟩ := hg <;> obtain hf | hf | hf := hf <;> rw [hf, hg] <;>
      simp [Reg.addr, STATE_STATUS, DIE_STATE, STACK_STATE, SADDLE_STATUS, SADDLE_ERRORS_A, SADDLE_ERRORS_B] <;> omega
  refine State.extentReach_congr (fun e he => ?_) (fun k => hne _ _ _ (.inr (.inr ⟨by omega, rfl⟩))) a n
  unfold State.dieRunning
  rw [hne _ _ _ (.inr (.inl ⟨rfl, he, rfl⟩)), hne _ _ _ (.inl ⟨by decide, rfl, rfl⟩), State.setF_power]

/-! ### The hold buffer -/

theorem State.holdFlit_ne (s : State) (l e : Nat) (x : SaddleFlit) {k : Nat} (h : k ≠ 2 * l + e) : (s.holdFlit l e x).saddle k = s.saddle k :=
  State.saddle_setSaddle_ne _ _ h

theorem State.holdFlit_hold (s : State) (l e : Nat) (x : SaddleFlit) : ∃ n, ((s.holdFlit l e x).saddle (2 * l + e)).hold =
    (((s.saddle (2 * l + e)).hold ++ [x]).filter fun f => f.discarded || decide (s.time < f.sentAt + 640)).drop
      (n - 64) ∧ n = (((s.saddle (2 * l + e)).hold ++ [x]).filter fun f => f.discarded || decide (s.time < f.sentAt + 640)).length :=
  ⟨_, congrArg SaddleEnd.hold (State.saddle_setSaddle ..), rfl⟩

theorem mem_drop_append_last {α : Type} (l : List α) (x : α) {n : Nat} (h : n < (l ++ [x]).length) : x ∈ (l ++ [x]).drop n := by
  rw [List.drop_append_of_le_length (by simpa [Nat.lt_succ_iff] using h)]
  simp

/-- A flit that the receiver discards stays with its sender (R420). -/
theorem State.holdFlit_keeps (s : State) (l e : Nat) {x : SaddleFlit} (h : x.discarded = true) :
    x ∈ ((s.holdFlit l e x).saddle (2 * l + e)).hold := by
  obtain ⟨n, hh, hn⟩ := s.holdFlit_hold l e x
  rw [hh]
  rw [List.filter_append, show ([x].filter fun f => f.discarded || decide (s.time < f.sentAt + 640)) = [x] by simp [h]] at hn ⊢
  refine mem_drop_append_last _ _ ?_
  rw [← hn]
  simp at hn
  omega

/-! ### A flit and the link's state (R420, R421) -/

section
variable {s : State} {l : Fin 4} {e : Fin 2} {width sel : Fin 4} (data : List Byte) (errs : List SymErr) (dst : Option (BitVec 48))

/-- A flit kept by its sender, to go again. -/
def KeptBySender (s : State) (l : Fin 4) (e : Fin 2) (data : List Byte) (dst : Option (BitVec 48)) (t : State) : Prop :=
  t.mem = s.mem ∧ t.poison = s.poison ∧
    ∃ f ∈ (t.saddle (2 * l + (1 - e))).hold, f.discarded = true ∧ f.data = data ∧ f.dst = dst.map (·.toNat)

theorem saddleFlit_training (h : s.getF SADDLE_STATUS_STATE 0 l = 1) :
    Completes (.saddleFlit l e width sel data errs dst) s fun t => t.regs = s.regs ∧ KeptBySender s l e data dst t := by
  refine ⟨s.holdFlit l (1 - e.val) ⟨data, dst.map (·.toNat), s.time, true⟩, ?_, rfl, rfl, rfl, _, s.holdFlit_keeps _ _ rfl, rfl, rfl, rfl⟩
  show execSaddleFlit l e width sel data errs dst s = _
  rw [execSaddleFlit, if_neg (by omega), if_pos h]

theorem saddleFlit_mismatch (h : s.getF SADDLE_STATUS_STATE 0 l = 0)
    (hw : width.val ≠ s.getF SADDLE_STATUS_WIDTH 0 l ∨ sel.val ≠ s.getF SADDLE_STATUS_SEL 0 l) :
    Completes (.saddleFlit l e width sel data errs dst) s fun t =>
      t.getF SADDLE_STATUS_STATE 0 l = 1 ∧ KeptBySender s l e data dst t ∧
      t.getF SADDLE_STATUS_WIDTH_MISMATCHES 0 l = min 65535 (s.getF SADDLE_STATUS_WIDTH_MISMATCHES 0 l + 1) := by
  let v := s.satF SADDLE_STATUS_WIDTH_MISMATCHES 0 l 1
  have hv : v.getF SADDLE_STATUS_WIDTH_MISMATCHES 0 l = min 65535 (s.getF SADDLE_STATUS_WIDTH_MISMATCHES 0 l + 1) :=
    s.getF_satF _ _ _ _ rfl
  let u := v.holdFlit l (1 - e.val) ⟨data, dst.map (·.toNat), s.time, true⟩
  have hexec : exec (.saddleFlit l e width sel data errs dst) s = .next (u.trainLink l) := by
    show execSaddleFlit l e width sel data errs dst s = _
    rw [execSaddleFlit, if_neg (by omega), if_neg (by omega), if_pos hw]
  have hm : Moves 0x1000 v u := State.holdFlit_moves ..
  have hmem : u.mem = s.mem := hm.same .mem (by decide)
  have hpois : u.poison = s.poison := hm.same .poison (by decide)
  have hregs : u.regs = v.regs := hm.same .regs (by decide)
  have hkeep := v.holdFlit_keeps l (1 - e.val) (x := ⟨data, dst.map (·.toNat), s.time, true⟩) rfl
  change _ ∈ (u.saddle _).hold at hkeep
  clear_value u v
  refine ⟨_, hexec, State.getF_setF _ _ _ _ _ rfl, ⟨hmem, hpois, _, hkeep, rfl, rfl, rfl⟩, ?_⟩
  rw [State.trainLink, State.getF_setF_apart u SADDLE_STATUS_STATE SADDLE_STATUS_WIDTH_MISMATCHES _ _ _ rfl rfl rfl rfl, State.getF_of_regs hregs, hv]

section
variable (h0 : s.getF SADDLE_STATUS_STATE 0 l = 0) (hw : width.val = s.getF SADDLE_STATUS_WIDTH 0 l) (hq : sel.val = s.getF SADDLE_STATUS_SEL 0 l)
include h0 hw hq

theorem exec_saddleFlit {t : State} {deg : Bool}
    (h : (s.holdFlit l (1 - e.val) ⟨data, dst.map (·.toNat), s.time, false⟩).deliverFlit l e (saddleGroups width sel)
      ⟨data, dst.map (·.toNat), s.time, false⟩ errs = (t, deg)) :
    exec (.saddleFlit l e width sel data errs dst) s = .next (if deg then t.trainLink l else t) := by
  show execSaddleFlit l e width sel data errs dst s = _
  rw [execSaddleFlit, if_neg (by omega), if_neg (by omega), if_neg (by omega), h]

theorem saddleFlit_clean : Completes (.saddleFlit l e width sel data [] dst) s fun t => t.regs = s.regs ∧ t.out = s.out ∧
    (dst = none → t.mem = s.mem ∧ t.poison = s.poison) ∧
    ∀ a, dst = some a → s.extentReach a.toNat 512 = .ok → data.length = 512 →
      t.bytes a.toNat 512 = data ∧ ∀ b, Outside b a.toNat 512 → t.byte b = s.byte b := by
  obtain ⟨v, hk, hd⟩ := (s.holdFlit l (1 - e.val) ⟨data, dst.map (·.toNat), s.time, false⟩).deliverFlit_clean l e (saddleGroups width sel)
    ⟨data, dst.map (·.toNat), s.time, false⟩
  have hm : Moves 0x1000 s v := hk.moves.step (by decide) (State.holdFlit_moves ..)
  have hexec := exec_saddleFlit data [] dst h0 hw hq hd
  rw [if_neg Bool.false_ne_true] at hexec
  generalize hws : (List.range 64).map (fun i => (sentWord data i, false)) = words at hexec
  have hland : Moves 0x1030 s (v.landAt (dst.map (·.toNat)) words) :=
    (State.landAt_moves ..).step (by decide) (hm.mono (by decide))
  refine ⟨_, hexec, hland.same .regs (by decide), hland.same .out (by decide), fun hn => ?_, fun a ha hr hl => ?_⟩
  · rw [hn]
    exact ⟨hm.same .mem (by decide), hm.same .poison (by decide)⟩
  · have hreach : v.extentReach a.toNat 512 = .ok :=
      (State.extentReach_of_regs (hm.same .regs (by decide)) (hm.same .power (by decide)) ..).trans hr
    obtain ⟨marks, hland, -⟩ := State.landFlit_reached hreach words
    have hbytes : words.flatMap (·.1) = data := by
      rw [← hws, List.flatMap_map]
      exact flatMap_sentWord data 64 hl
    rw [hbytes] at hland
    have hreach' : v.extentReach a.toNat data.length ≠ .unmapped := by
      rw [hl, hreach]
      decide
    have hb := State.bytes_writeMarked_of_reach (s := v) (ps := marks) hreach'
    have hout (b : Nat) (hb : Outside b a.toNat 512) : (v.writeMarked a.toNat data marks).byte b = v.byte b :=
      State.byte_writeMarked_ne _ _ _ _ _ (by rwa [hl])
    rw [hl] at hb
    rw [ha]
    show (v.landFlit a.toNat _).bytes _ _ = _ ∧ ∀ b, _ → (v.landFlit a.toNat _).byte b = _
    rw [hland]
    exact ⟨hb, fun b h => (hout b h).trans (State.byte_of_mem (hm.same .mem (by decide)) b)⟩

end
end

/-! ### A flit with bad symbols -/

theorem badSymbols_one {i j : Nat} {f : BitVec 4} (hj : j < 20) (hf : ¬ f = 0#4) (n : Nat) :
    badSymbols [⟨i, j, f⟩] n = if n = i then [j] else [] := by
  unfold badSymbols
  by_cases h : n = i
  · simp [h, hj, hf, List.eraseDups_cons]
  · simp [h, Ne.symm h]

theorem badSymbols_two {i j k : Nat} {f g : BitVec 4} (hj : j < 20) (hk : k < 20) (hne : j ≠ k) (hf : ¬ f = 0#4) (hg : ¬ g = 0#4) (n : Nat) :
    badSymbols [⟨i, j, f⟩, ⟨i, k, g⟩] n = if n = i then [j, k] else [] := by
  unfold badSymbols
  by_cases h : n = i
  · simp [h, hj, hk, hf, hg, List.eraseDups_cons, Ne.symm hne]
  · simp [h, Ne.symm h]

/-! #### The registers of an end -/

theorem saddleCorrected_reg (e : Nat) : (saddleCorrected e).reg = SADDLE_ERRORS_A ∨ (saddleCorrected e).reg = SADDLE_ERRORS_B := by
  unfold saddleCorrected
  split
  · exact .inl rfl
  · exact .inr rfl

theorem saddleUncorrected_reg (e : Nat) : (saddleUncorrected e).reg = SADDLE_ERRORS_A ∨ (saddleUncorrected e).reg = SADDLE_ERRORS_B := by
  unfold saddleUncorrected
  split
  · exact .inl rfl
  · exact .inr rfl

theorem saddleDeadMask_reg (e : Nat) : (saddleDeadMask e).reg = SADDLE_ERRORS_A ∨ (saddleDeadMask e).reg = SADDLE_ERRORS_B := by
  unfold saddleDeadMask
  split
  · exact .inl rfl
  · exact .inr rfl

theorem saddleStatus_ne {q : Reg} (h : q = SADDLE_ERRORS_A ∨ q = SADDLE_ERRORS_B) (l : Nat) : SADDLE_STATUS.addr 0 l ≠ q.addr 0 l := by
  obtain rfl | rfl := h <;> simp [Reg.addr, SADDLE_STATUS, SADDLE_ERRORS_A, SADDLE_ERRORS_B]

theorem State.getF_saddleCorrected (s : State) (e l : Nat) : (s.satF (saddleCorrected e) 0 l 1).getF (saddleCorrected e) 0 l =
    min (2 ^ 32 - 1) (s.getF (saddleCorrected e) 0 l + 1) := by
  unfold saddleCorrected
  split <;> exact State.getF_satF _ _ _ _ _ rfl

theorem State.getF_saddleUncorrected (s : State) (e l : Nat) : (s.satF (saddleUncorrected e) 0 l 1).getF (saddleUncorrected e) 0 l =
    min 65535 (s.getF (saddleUncorrected e) 0 l + 1) := by
  unfold saddleUncorrected
  split <;> exact State.getF_satF _ _ _ _ _ rfl

theorem State.getF_saddleDeadMask (s : State) (e l x : Nat) : (s.setF (saddleDeadMask e) 0 l x).getF (saddleDeadMask e) 0 l = x % 2 ^ 16 := by
  unfold saddleDeadMask
  split <;> exact State.getF_setF _ _ _ _ _ rfl

/-! #### One bad word -/

section
variable {s : State} {l : Fin 4} {e : Fin 2} {width sel : Fin 4} (data : List Byte) {errs : List SymErr} (dst : Option (BitVec 48))
variable (h0 : s.getF SADDLE_STATUS_STATE 0 l = 0) (hw : width.val = s.getF SADDLE_STATUS_WIDTH 0 l) (hq : sel.val = s.getF SADDLE_STATUS_SEL 0 l)
variable (hw0 : width.val = 0) {i : Nat} (hi : i < 64)
include h0 hw hq hw0 hi

/-- A flit with one bad word: the words before it leave the end as it is but for runs that end, those after it too, and it lands. -/
theorem exec_saddleFlit_word (hc : ∀ n, n ≠ i → badSymbols errs n = []) : ∃ u v words,
    Moves 0x1000 s u ∧ (u.saddle (2 * l + e)).dead = (s.saddle (2 * l + e)).dead ∧
    kget (0, 0) (u.saddle (2 * l + e)).streaks i = kget (0, 0) (s.saddle (2 * l + e)).streaks i ∧
    EndKeeps (2 * l + e) (fun _ => False) (u.saddleWord l e (i / 4) (i % 4) (badSymbols errs i)).1 v ∧
    words[i]? = some ((u.saddleWord l e (i / 4) (i % 4) (badSymbols errs i)).2.1.delivered errs i (leNat ((data.drop (8 * i)).take 8))) ∧
    exec (.saddleFlit l e width sel data errs dst) s = .next (if (u.saddleWord l e (i / 4) (i % 4) (badSymbols errs i)).2.2
      then (v.landAt (dst.map (·.toNat)) words).trainLink l else v.landAt (dst.map (·.toNat)) words) := by
  obtain ⟨u, v, words, hu, hv, hwords, hd⟩ := (s.holdFlit l (1 - e.val) ⟨data, dst.map (·.toNat), s.time, false⟩).deliverFlit_word l e
    ⟨data, dst.map (·.toNat), s.time, false⟩ hi hc
  have hne : 2 * l.val + e.val ≠ 2 * l.val + (1 - e.val) := by omega
  have hsaddle := s.holdFlit_ne l (1 - e.val) ⟨data, dst.map (·.toNat), s.time, false⟩ hne
  have hgroups : saddleGroups width sel = List.range 16 := by rw [hw0]; rfl
  rw [← hgroups] at hd
  exact ⟨u, v, words, hu.moves.step (by decide) (State.holdFlit_moves ..), hu.dead.trans (by rw [hsaddle]), (hu.streaks i rfl).trans (by rw [hsaddle]),
    hv, hwords, exec_saddleFlit data errs dst h0 hw hq hd⟩

variable (hd : ∀ p ∈ (s.saddle (2 * l + e)).dead, p.1 ≠ i / 4) {j : Nat} (hj : j < 20) {f : BitVec 4} (hf : f ≠ 0)
include hd hj hf

theorem saddleFlit_corrected (hne : kget (0, 0) (s.saddle (2 * l + e)).streaks i ≠ (j, 63))
    (hlt : (kget (0, 0) (s.saddle (2 * l + e)).streaks i).2 < 64) :
    Completes (.saddleFlit l e width sel data [⟨i, j, f⟩] dst) s fun t =>
      t.getF (saddleCorrected e) 0 l = min (2 ^ 32 - 1) (s.getF (saddleCorrected e) 0 l + 1) ∧
      t.getF SADDLE_STATUS_STATE 0 l = 0 ∧ (t.saddle (2 * l + e)).dead = (s.saddle (2 * l + e)).dead := by
  obtain ⟨u, v, words, hu, hdead, hrun, hv, -, hexec⟩ := exec_saddleFlit_word data dst h0 hw hq hw0 hi
    (errs := [⟨i, j, f⟩]) fun n hn => by rw [badSymbols_one hj hf, if_neg hn]
  rw [badSymbols_one hj hf, if_pos rfl] at hv hexec
  have hunit : 4 * (i / 4) + i % 4 = i := by omega
  obtain ⟨x, hx, hword⟩ := u.saddleWord_corrected l e (g := i / 4) (i % 4) (by rwa [hdead]) j (by rwa [hunit, hrun]) (by rwa [hunit, hrun])
  rw [hword] at hv hexec
  have hland := v.landAt_moves (dst.map (·.toNat)) words
  have hvregs : v.regs = (u.satF (saddleCorrected e) 0 l 1).regs := hv.moves.same .regs (by decide)
  have hregs : (v.landAt (dst.map (·.toNat)) words).regs = _ := Eq.trans (hland.same .regs (by decide)) hvregs
  have hsame : u.regs = s.regs := hu.same .regs (by decide)
  refine ⟨_, hexec, ?_, ?_, ?_⟩
  · exact (State.getF_of_regs hregs ..).trans ((u.getF_saddleCorrected e l).trans (by rw [State.getF_of_regs hsame]))
  · refine (State.getF_of_regs hregs ..).trans ((State.getF_setF_ne _ _ _ _ _ _ _ _ (saddleStatus_ne (saddleCorrected_reg e) l)).trans ?_)
    rw [State.getF_of_regs hsame, h0]
  · have hsad : (v.landAt (dst.map (·.toNat)) words).saddles = v.saddles := hland.same .saddles (by decide)
    have hend := hv.dead
    rw [State.saddle_setSaddle, hx, hdead] at hend
    exact (congrArg SaddleEnd.dead (State.saddle_congr hsad _)).trans hend

theorem saddleFlit_deadWire (hlast : kget (0, 0) (s.saddle (2 * l + e)).streaks i = (j, 63)) :
    Completes (.saddleFlit l e width sel data [⟨i, j, f⟩] dst) s fun t =>
      (t.saddle (2 * l + e)).dead = (s.saddle (2 * l + e)).dead ++ [(i / 4, 20 * (i % 4) + j)] ∧
      (t.getF (saddleDeadMask e) 0 l).testBit (i / 4) = true ∧ t.getF SADDLE_STATUS_STATE 0 l = b2n (s.fenceOf 0).degrade := by
  obtain ⟨u, v, words, hu, hdead, hrun, hv, -, hexec⟩ := exec_saddleFlit_word data dst h0 hw hq hw0 hi
    (errs := [⟨i, j, f⟩]) fun n hn => by rw [badSymbols_one hj hf, if_neg hn]
  rw [badSymbols_one hj hf, if_pos rfl] at hv hexec
  have hunit : 4 * (i / 4) + i % 4 = i := by omega
  obtain ⟨x, m, hx, hword⟩ := u.saddleWord_dead l e (g := i / 4) (i % 4) (by rwa [hdead]) j (by rwa [hunit, hrun])
  rw [hword] at hv hexec
  have hfences : u.fenceOf 0 = s.fenceOf 0 := by
    have : u.fences = s.fences := hu.same .fences (by decide)
    rw [State.fenceOf, State.fenceOf, this]
  have hsame : u.regs = s.regs := hu.same .regs (by decide)
  have hland := v.landAt_moves (dst.map (·.toNat)) words
  let w := ((u.satF (saddleCorrected e) 0 l 1).setSaddle (2 * l + e) x).setF (saddleDeadMask e) 0 l (m ||| 2 ^ (i / 4))
  have hmask : (w.getF (saddleDeadMask e) 0 l).testBit (i / 4) = true := by
    rw [State.getF_saddleDeadMask, Nat.testBit_mod_two_pow, Nat.testBit_or, Nat.testBit_two_pow_self]
    simp
    omega
  have hstate : w.getF SADDLE_STATUS_STATE 0 l = 0 := by
    have h1 : w.getF SADDLE_STATUS_STATE 0 l = (u.satF (saddleCorrected e) 0 l 1).getF SADDLE_STATUS_STATE 0 l :=
      State.getF_setF_ne _ _ _ _ _ _ _ _ (saddleStatus_ne (saddleDeadMask_reg e) l)
    rw [h1, State.satF, State.getF_setF_ne _ _ _ _ _ _ _ _ (saddleStatus_ne (saddleCorrected_reg e) l), State.getF_of_regs hsame, h0]
  have hwdead : (w.saddle (2 * l + e)).dead = (s.saddle (2 * l + e)).dead ++ [(i / 4, 20 * (i % 4) + j)] := by
    have h1 : w.saddle (2 * l + e) = x := State.saddle_setSaddle ..
    rw [h1, hx, hdead]
  change EndKeeps _ _ w v at hv
  clear_value w
  have hvregs : v.regs = w.regs := hv.moves.same .regs (by decide)
  have hregs : (v.landAt (dst.map (·.toNat)) words).regs = w.regs := Eq.trans (hland.same .regs (by decide)) hvregs
  have hsad : (v.landAt (dst.map (·.toNat)) words).saddles = v.saddles := hland.same .saddles (by decide)
  generalize v.landAt (dst.map (·.toNat)) words = t at hexec hregs hsad
  have htdead : (t.saddle (2 * l + e)).dead = (s.saddle (2 * l + e)).dead ++ [(i / 4, 20 * (i % 4) + j)] :=
    (congrArg SaddleEnd.dead (State.saddle_congr hsad _)).trans (hv.dead.trans hwdead)
  have htmask : (t.getF (saddleDeadMask e) 0 l).testBit (i / 4) = true := by rw [State.getF_of_regs hregs, hmask]
  rw [hfences] at hexec
  refine ⟨_, hexec, ?_⟩
  cases hg : (s.fenceOf 0).degrade with
  | false => exact ⟨htdead, htmask, (State.getF_of_regs hregs ..).trans hstate⟩
  | true =>
    refine ⟨htdead, ?_, State.getF_setF _ _ _ _ _ rfl⟩
    rw [if_pos rfl, State.trainLink, State.getF_setF_ne _ _ _ _ _ _ _ _ (saddleStatus_ne (saddleDeadMask_reg e) l).symm, htmask]

theorem saddleFlit_uncorrected {k : Nat} (hk : k < 20) (hjk : j ≠ k) {g : BitVec 4} (hg : g ≠ 0) :
    Completes (.saddleFlit l e width sel data [⟨i, j, f⟩, ⟨i, k, g⟩] dst) s fun t =>
      t.getF (saddleUncorrected e) 0 l = min 65535 (s.getF (saddleUncorrected e) 0 l + 1) ∧
      t.getF SADDLE_STATUS_STATE 0 l = 1 ∧ t.err.raised.length = s.err.raised.length + 1 ∧
      (dst = none → t.mem = s.mem ∧ t.poison = s.poison) ∧
      ∀ a, dst = some a → s.extentReach a.toNat 512 = .ok → t.poisoned (a.toNat + 8 * i) 8 = true := by
  obtain ⟨u, v, words, hu, hdead, hrun, hv, hbad, hexec⟩ := exec_saddleFlit_word data dst h0 hw hq hw0 hi
    (errs := [⟨i, j, f⟩, ⟨i, k, g⟩]) fun n hn => by rw [badSymbols_two hj hk hjk hf hg, if_neg hn]
  rw [badSymbols_two hj hk hjk hf hg, if_pos rfl] at hv hexec hbad
  have hword := u.saddleWord_bad l e (g := i / 4) (i % 4) (by rwa [hdead]) j k
  rw [hword] at hv hexec hbad
  have hsame : u.regs = s.regs := hu.same .regs (by decide)
  let c := u.satF (saddleUncorrected e) 0 l 1
  have hcount : c.getF (saddleUncorrected e) 0 l = min 65535 (s.getF (saddleUncorrected e) 0 l + 1) := by
    rw [u.getF_saddleUncorrected, State.getF_of_regs hsame]
  have hc : Moves 0x8 u c := State.satF_moves ..
  have hreach (a n : Nat) : c.extentReach a n = s.extentReach a n :=
    (u.extentReach_setSaddle _ l.isLt _ (.inr (saddleUncorrected_reg e)) a n).trans (State.extentReach_of_regs hsame (hu.same .power (by decide)) a n)
  change EndKeeps _ _ ((c.raise ..).setSaddle _ _) v at hv
  have hcs : Moves 0x1008 s c := hc.step (by decide) (hu.mono (by decide))
  clear_value c
  have hraised : v.err.raised.length = s.err.raised.length + 1 := by
    have h1 : v.err = _ := hv.moves.same .err (by decide)
    have h2 : c.err = s.err := hcs.same .err (by decide)
    rw [h1]
    show (c.err.raised ++ [_]).length = _
    rw [h2, List.length_append]
    rfl
  have hregs : v.regs = c.regs := hv.moves.same .regs (by decide)
  have hmem : v.mem = s.mem := Eq.trans (hv.moves.same .mem (by decide)) (hcs.same .mem (by decide))
  have hpois : v.poison = s.poison := Eq.trans (hv.moves.same .poison (by decide)) (hcs.same .poison (by decide))
  have hpower : v.power = c.power := hv.moves.same .power (by decide)
  have hland := v.landAt_moves (dst.map (·.toNat)) words
  refine ⟨_, hexec, ?_, State.getF_setF _ _ _ _ _ rfl, ?_, fun hn => ?_, fun a ha hr => ?_⟩
  · rw [if_pos rfl, State.trainLink, State.getF_setF_ne _ _ _ _ _ _ _ _ (saddleStatus_ne (saddleUncorrected_reg e) l).symm,
      State.getF_of_regs (hland.same .regs (by decide)), State.getF_of_regs hregs, hcount]
  · have h1 : (v.landAt (dst.map (·.toNat)) words).err = v.err := hland.same .err (by decide)
    show (v.landAt (dst.map (·.toNat)) words).err.raised.length = _
    rw [h1, hraised]
  · rw [hn]
    exact ⟨hmem, hpois⟩
  · obtain ⟨marks, hl, hmarks⟩ := State.landFlit_reached (s := v) (a := a.toNat)
      ((State.extentReach_of_regs hregs hpower ..).trans ((hreach ..).trans hr)) words
    have hm := hmarks i _ hbad rfl
    have hat := State.poisonAt_writeMarked (s := v) (a := a.toNat) (bs := words.flatMap (·.1)) hm
    rw [ha]
    show (v.landFlit a.toNat words).poisoned _ _ = _
    rw [hl]
    unfold State.poisoned
    refine List.any_eq_true.mpr ⟨(a.toNat + 4 * (2 * i)) / 4, ?_, hat⟩
    simp only [rangeFrom, List.mem_map, List.mem_range]
    exact ⟨0, by omega, by omega⟩

end

/-! ### After a training (R420) -/

theorem State.deliverFlit_hold (s : State) (l e : Nat) (groups : List Nat) (x : SaddleFlit) (k : Nat) :
    ((s.deliverFlit l e groups x []).1.saddle k).hold = (s.saddle k).hold := by
  obtain ⟨v, hv, hd⟩ := s.deliverFlit_clean l e groups x
  rw [hd]
  have hs : (v.landAt x.dst ((List.range 64).map fun i => (sentWord x.data i, false))).saddles = v.saddles :=
    (State.landAt_moves ..).same .saddles (by decide)
  rw [State.saddle_congr hs, hv.hold]

/-- No flit that a sender keeps waits to go again. -/
def NoneDiscarded (s : State) (k : Nat) : Prop := ∀ f ∈ (s.saddle k).hold, f.discarded = false

theorem NoneDiscarded.of_hold {s t : State} {k : Nat} (h : NoneDiscarded s k) (ht : (t.saddle k).hold = (s.saddle k).hold) : NoneDiscarded t k :=
  fun f hf => h f (by rwa [ht] at hf)

theorem NoneDiscarded.holdFlit {s : State} {k : Nat} (h : NoneDiscarded s k) (l e : Nat) {x : SaddleFlit} (hx : x.discarded = false) :
    NoneDiscarded (s.holdFlit l e x) k := by
  by_cases hk : k = 2 * l + e
  · subst hk
    obtain ⟨n, hh, -⟩ := s.holdFlit_hold l e x
    intro f hf
    rw [hh] at hf
    have := (List.mem_filter.mp (List.drop_subset _ _ hf)).1
    rw [List.mem_append, List.mem_singleton] at this
    obtain hf | rfl := this
    · exact h f hf
    · exact hx
  · exact h.of_hold (by rw [State.holdFlit_ne _ _ _ _ hk])

/-- A flit that was discarded goes again (R420), another way where the link is DOWN (R425). -/
def State.resendFlit (l e : Nat) (groups : List Nat) (v : State) (f : SaddleFlit) : State :=
  if groups.isEmpty then
    match f.dst with
    | some a => v.landFlit a ((List.range 64).map fun i => ((f.data.drop (8 * i)).take 8, false))
    | none => v
  else ((v.deliverFlit l (1 - e) groups f []).1).holdFlit l e { f with sentAt := v.time, discarded := false }

theorem NoneDiscarded.resendFlit {v : State} {k : Nat} (h : NoneDiscarded v k) (l e : Nat) (groups : List Nat) (f : SaddleFlit) :
    NoneDiscarded (v.resendFlit l e groups f) k := by
  unfold State.resendFlit
  split
  · split
    · exact h.of_hold (congrArg SaddleEnd.hold (State.saddle_congr ((State.landFlit_moves ..).same .saddles (by decide)) _))
    · exact h
  · exact (h.of_hold (State.deliverFlit_hold ..)).holdFlit l e rfl

/-- The sender at end e sends again. -/
def State.resendEnd (l : Nat) (groups : List Nat) (u : State) (e : Nat) : State :=
  ((u.saddle (2 * l + e)).hold.filter (·.discarded)).foldl (State.resendFlit l e groups)
    (u.setSaddle (2 * l + e) { u.saddle (2 * l + e) with hold := (u.saddle (2 * l + e)).hold.filter fun f => !f.discarded })

theorem NoneDiscarded.foldl_resendFlit (l e : Nat) (groups : List Nat) (fs : List SaddleFlit) {v : State} {k : Nat} (h : NoneDiscarded v k) :
    NoneDiscarded (fs.foldl (State.resendFlit l e groups) v) k := by
  induction fs generalizing v with
  | nil => exact h
  | cons f fs ih => exact ih (h.resendFlit l e groups f)

theorem NoneDiscarded.resendEnd {u : State} {k : Nat} (l e : Nat) (groups : List Nat) (h : k ≠ 2 * l + e → NoneDiscarded u k) :
    NoneDiscarded (u.resendEnd l groups e) k := by
  refine NoneDiscarded.foldl_resendFlit _ _ _ _ fun f hf => ?_
  by_cases hk : k = 2 * l + e
  · rw [hk, State.saddle_setSaddle] at hf
    simpa using (List.mem_filter.mp hf).2
  · rw [State.saddle_setSaddle_ne _ _ hk] at hf
    exact h hk f hf

theorem State.resendFlits_none (s : State) (l : Nat) (e : Fin 2) : NoneDiscarded (s.resendFlits l) (2 * l + e) := by
  have hr : s.resendFlits l = (s.resendEnd l (saddleGroups (s.getF SADDLE_STATUS_WIDTH 0 l) (s.getF SADDLE_STATUS_SEL 0 l)) 0).resendEnd l
      (saddleGroups (s.getF SADDLE_STATUS_WIDTH 0 l) (s.getF SADDLE_STATUS_SEL 0 l)) 1 := rfl
  rw [hr]
  refine NoneDiscarded.resendEnd _ _ _ fun h1 => NoneDiscarded.resendEnd _ _ _ fun h0 => ?_
  omega

end Sys2Proof.Machine
end

