-- ==== Sys2Proof/Proofs/PackageLinks.lean ====
section
/-!
PROOFS. The end of a Saddle link's training, the Col links, and the paths over them (R31, R422 to R428).
-/
namespace Sys2Proof.Machine

open Sys2Proof

/-! ### The end of a training (R422 to R424, R426) -/

/-- The setting at which a link comes out of training: x16 and group 0 stand for a link that is DOWN. -/
def State.trainedAt (s : State) (l : Nat) (w q : Nat) : State :=
  ((s.setF SADDLE_STATUS_WIDTH 0 l w).setF SADDLE_STATUS_SEL 0 l q).setF SADDLE_STATUS_STATE 0 l (if w = 3 then 2 else 0)

/-- The ledger keeps a narrower width. -/
def State.ledgerKeeps (s : State) (l : Nat) (lowered : Bool) (w q : Nat) : State :=
  if lowered then ((s.setF SADDLE_LEDGER_WIDTH 0 l w).setF SADDLE_LEDGER_SEL 0 l q).setF PKG_BLK_STATUS_LEDGER_LOWERED 0 0 1 else s

section
variable (s : State) (l : Nat) {w q : Nat}

theorem saddleLedger_ne (l : Nat) : SADDLE_LEDGER_WIDTH.reg.addr 0 l ≠ SADDLE_STATUS.addr 0 l := by
  simp [Reg.addr, SADDLE_LEDGER_WIDTH, SADDLE_LEDGER, SADDLE_STATUS]

theorem saddleLedgerLowered_ne {q : Reg} (h : q = SADDLE_STATUS ∨ q = SADDLE_LEDGER) (l : Nat) :
    PKG_BLK_STATUS_LEDGER_LOWERED.reg.addr 0 0 ≠ q.addr 0 l := by
  obtain rfl | rfl := h <;> simp [Reg.addr, SADDLE_STATUS, SADDLE_LEDGER, PKG_BLK_STATUS_LEDGER_LOWERED, PKG_BLK_STATUS] <;> omega

theorem State.trainedAt_spec (hw : w < 4) (hq : q < 16) :
    (s.trainedAt l w q).getF SADDLE_STATUS_WIDTH 0 l = w ∧ (s.trainedAt l w q).getF SADDLE_STATUS_SEL 0 l = q ∧
    (s.trainedAt l w q).getF SADDLE_STATUS_STATE 0 l = (if w = 3 then 2 else 0) ∧
    (s.trainedAt l w q).getF SADDLE_STATUS_RETRAINS 0 l = s.getF SADDLE_STATUS_RETRAINS 0 l ∧
    (s.trainedAt l w q).getF SADDLE_LEDGER_WIDTH 0 l = s.getF SADDLE_LEDGER_WIDTH 0 l := by
  have hst : (if w = 3 then 2 else 0) < 8 := by split <;> decide
  unfold State.trainedAt
  generalize (if w = 3 then 2 else 0) = x at hst ⊢
  refine ⟨?_, ?_, ?_, ?_, ?_⟩
  · rw [State.getF_setF_apart _ SADDLE_STATUS_STATE SADDLE_STATUS_WIDTH 0 l _ rfl rfl rfl rfl,
      State.getF_setF_apart _ SADDLE_STATUS_SEL SADDLE_STATUS_WIDTH 0 l _ rfl rfl rfl rfl, State.getF_setF _ SADDLE_STATUS_WIDTH 0 l _ rfl]
    exact Nat.mod_eq_of_lt hw
  · rw [State.getF_setF_apart _ SADDLE_STATUS_STATE SADDLE_STATUS_SEL 0 l _ rfl rfl rfl rfl, State.getF_setF _ SADDLE_STATUS_SEL 0 l _ rfl]
    exact Nat.mod_eq_of_lt hq
  · rw [State.getF_setF _ SADDLE_STATUS_STATE 0 l _ rfl]
    exact Nat.mod_eq_of_lt hst
  · rw [State.getF_setF_apart _ SADDLE_STATUS_STATE SADDLE_STATUS_RETRAINS 0 l _ rfl rfl rfl rfl,
      State.getF_setF_apart _ SADDLE_STATUS_SEL SADDLE_STATUS_RETRAINS 0 l _ rfl rfl rfl rfl,
      State.getF_setF_apart _ SADDLE_STATUS_WIDTH SADDLE_STATUS_RETRAINS 0 l _ rfl rfl rfl rfl]
  · rw [State.getF_setF_ne _ SADDLE_STATUS_STATE SADDLE_LEDGER_WIDTH 0 l 0 l _ (saddleLedger_ne l),
      State.getF_setF_ne _ SADDLE_STATUS_SEL SADDLE_LEDGER_WIDTH 0 l 0 l _ (saddleLedger_ne l),
      State.getF_setF_ne _ SADDLE_STATUS_WIDTH SADDLE_LEDGER_WIDTH 0 l 0 l _ (saddleLedger_ne l)]

theorem State.ledgerKeeps_spec (lowered : Bool) (hw : w < 4) :
    (s.ledgerKeeps l lowered w q).getF SADDLE_LEDGER_WIDTH 0 l = (if lowered = true then w else s.getF SADDLE_LEDGER_WIDTH 0 l) ∧
    (lowered = true → (s.ledgerKeeps l lowered w q).flag PKG_BLK_STATUS_LEDGER_LOWERED 0 0 = true) ∧
    ∀ f : Fld, f.reg = SADDLE_STATUS → (s.ledgerKeeps l lowered w q).getF f 0 l = s.getF f 0 l := by
  unfold State.ledgerKeeps
  cases lowered with
  | false => exact ⟨rfl, nofun, fun _ _ => rfl⟩
  | true =>
    rw [if_pos rfl, if_pos rfl]
    refine ⟨?_, fun _ => State.flag_setF_one _ PKG_BLK_STATUS_LEDGER_LOWERED 0 0 rfl, fun f hf => ?_⟩
    · rw [State.getF_setF_ne _ PKG_BLK_STATUS_LEDGER_LOWERED SADDLE_LEDGER_WIDTH 0 0 0 l _ (saddleLedgerLowered_ne (.inr rfl) l).symm,
        State.getF_setF_apart _ SADDLE_LEDGER_SEL SADDLE_LEDGER_WIDTH 0 l _ rfl rfl rfl rfl, State.getF_setF _ SADDLE_LEDGER_WIDTH 0 l _ rfl]
      exact Nat.mod_eq_of_lt hw
    · have hne : f.reg.addr 0 l ≠ SADDLE_LEDGER_WIDTH.reg.addr 0 l := by
        rw [hf]
        exact (saddleLedger_ne l).symm
      have hlow := (saddleLedgerLowered_ne (.inl rfl) l).symm
      rw [← hf] at hlow
      rw [State.getF_setF_ne _ PKG_BLK_STATUS_LEDGER_LOWERED f 0 0 0 l _ hlow, State.getF_setF_ne _ SADDLE_LEDGER_SEL f 0 l 0 l _ hne,
        State.getF_setF_ne _ SADDLE_LEDGER_WIDTH f 0 l 0 l _ hne]

/-- A retraining is counted. -/
def State.retrained (s : State) (l : Nat) (counted : Bool) : State := if counted then s.satF SADDLE_STATUS_RETRAINS 0 l 1 else s

theorem State.retrained_spec (counted : Bool) :
    (s.retrained l counted).getF SADDLE_STATUS_RETRAINS 0 l =
      (if counted = true then min (2 ^ 32 - 1) (s.getF SADDLE_STATUS_RETRAINS 0 l + 1) else s.getF SADDLE_STATUS_RETRAINS 0 l) ∧
    (∀ f : Fld, f.reg = SADDLE_STATUS → f.fits = true → SADDLE_STATUS_RETRAINS.apart f = true →
      (s.retrained l counted).getF f 0 l = s.getF f 0 l) ∧
    (s.retrained l counted).getF SADDLE_LEDGER_WIDTH 0 l = s.getF SADDLE_LEDGER_WIDTH 0 l ∧
    (s.retrained l counted).getF PKG_BLK_STATUS_LEDGER_LOWERED 0 0 = s.getF PKG_BLK_STATUS_LEDGER_LOWERED 0 0 := by
  unfold State.retrained
  cases counted with
  | false => exact ⟨rfl, fun _ _ _ _ => rfl, rfl, rfl⟩
  | true =>
    rw [if_pos rfl, if_pos rfl]
    refine ⟨State.getF_satF _ _ _ _ _ rfl, fun f hf h1 h2 => ?_, ?_, ?_⟩ <;> unfold State.satF
    · exact State.getF_setF_apart s SADDLE_STATUS_RETRAINS f 0 l _ hf rfl h1 h2
    · exact State.getF_setF_ne s SADDLE_STATUS_RETRAINS SADDLE_LEDGER_WIDTH 0 l 0 l _ (saddleLedger_ne l)
    · exact State.getF_setF_ne s SADDLE_STATUS_RETRAINS PKG_BLK_STATUS_LEDGER_LOWERED 0 l 0 0 _ (saddleLedgerLowered_ne (.inl rfl) l)

/-- A setting that a training tries has a width and a first group (Table 16.2). -/
theorem State.saddleResult_lt {failed : List Nat} {p : Nat × Nat} (h : s.saddleResult l failed = some p) : p.1 < 4 ∧ p.2 < 16 := by
  have hall : ∀ p ∈ [(0, 0), (1, 0), (1, 1), (2, 0), (2, 1), (2, 2), (2, 3)], p.1 < 4 ∧ p.2 < 16 := by decide
  have hp := List.mem_of_find?_eq_some h
  unfold State.saddleSettings at hp
  refine hall p ?_
  grind

end

section
variable {s : State} {l : Fin 4} {failed : List (Fin 16)}

/-- The state of a link that has trained at a setting, before its senders send again. -/
def State.afterTraining (s : State) (l w q : Nat) : State :=
  let old := s.getF SADDLE_LEDGER_WIDTH 0 l
  let s3 := ((s.trainedAt l w q).ledgerKeeps l (decide (old < w)) w q).retrained l ((s.saddle (2 * l)).trained || decide (old < w))
  (s3.setSaddle (2 * l) { s3.saddle (2 * l) with trained := true }).trainShells [(2, 2 * l), (2, 2 * l + 1)]

theorem State.afterTraining_spec (s : State) (l : Nat) {w q : Nat} (hw : w < 4) (hq : q < 16) :
    (s.afterTraining l w q).getF SADDLE_STATUS_WIDTH 0 l = w ∧ (s.afterTraining l w q).getF SADDLE_STATUS_SEL 0 l = q ∧
    (s.afterTraining l w q).getF SADDLE_STATUS_STATE 0 l = (if w = 3 then 2 else 0) ∧
    (s.afterTraining l w q).getF SADDLE_LEDGER_WIDTH 0 l = (if s.getF SADDLE_LEDGER_WIDTH 0 l < w then w else s.getF SADDLE_LEDGER_WIDTH 0 l) ∧
    (s.getF SADDLE_LEDGER_WIDTH 0 l < w → (s.afterTraining l w q).flag PKG_BLK_STATUS_LEDGER_LOWERED 0 0 = true) ∧
    ((s.afterTraining l w q).saddle (2 * l)).trained = true ∧
    (s.afterTraining l w q).getF SADDLE_STATUS_RETRAINS 0 l = (if (s.saddle (2 * l)).trained = true ∨ s.getF SADDLE_LEDGER_WIDTH 0 l < w then
      min (2 ^ 32 - 1) (s.getF SADDLE_STATUS_RETRAINS 0 l + 1) else s.getF SADDLE_STATUS_RETRAINS 0 l) := by
  obtain ⟨hw1, hq1, hs1, hr1, hl1⟩ := s.trainedAt_spec l hw hq
  unfold State.afterTraining
  generalize s.trainedAt l w q = a at hw1 hq1 hs1 hr1 hl1
  dsimp only
  obtain ⟨hl2, hlow2, hf2⟩ := a.ledgerKeeps_spec l (q := q) (decide (s.getF SADDLE_LEDGER_WIDTH 0 l < w)) hw
  generalize a.ledgerKeeps l (decide (s.getF SADDLE_LEDGER_WIDTH 0 l < w)) w q = b at hl2 hlow2 hf2
  obtain ⟨hr3, hf3, hl3, hlow3⟩ := b.retrained_spec l ((s.saddle (2 * l)).trained || decide (s.getF SADDLE_LEDGER_WIDTH 0 l < w))
  generalize b.retrained l ((s.saddle (2 * l)).trained || decide (s.getF SADDLE_LEDGER_WIDTH 0 l < w)) = c at hr3 hf3 hl3 hlow3
  have hshells := (c.setSaddle (2 * l) { c.saddle (2 * l) with trained := true }).trainShells_moves [(2, 2 * l), (2, 2 * l + 1)]
  have htrained : ((c.setSaddle (2 * l) { c.saddle (2 * l) with trained := true }).saddle (2 * l)).trained = true := by
    rw [State.saddle_setSaddle]
  have hcregs : (c.setSaddle (2 * l) { c.saddle (2 * l) with trained := true }).regs = c.regs := rfl
  generalize c.setSaddle (2 * l) { c.saddle (2 * l) with trained := true } = v at hshells htrained hcregs
  have hregs : (v.trainShells [(2, 2 * l), (2, 2 * l + 1)]).regs = c.regs := Eq.trans (hshells.same .regs (by decide)) hcregs
  have hsaddles : (v.trainShells [(2, 2 * l), (2, 2 * l + 1)]).saddles = v.saddles := hshells.same .saddles (by decide)
  generalize v.trainShells [(2, 2 * l), (2, 2 * l + 1)] = t at hregs hsaddles
  refine ⟨?_, ?_, ?_, ?_, fun hlt => ?_, ?_, ?_⟩
  · rw [State.getF_of_regs hregs, hf3 _ rfl rfl rfl, hf2 _ rfl, hw1]
  · rw [State.getF_of_regs hregs, hf3 _ rfl rfl rfl, hf2 _ rfl, hq1]
  · rw [State.getF_of_regs hregs, hf3 _ rfl rfl rfl, hf2 _ rfl, hs1]
  · rw [State.getF_of_regs hregs, hl3, hl2, hl1]
    simp
  · rw [State.flag, State.getF_of_regs hregs, hlow3]
    exact hlow2 (decide_eq_true hlt)
  · rw [State.saddle_congr hsaddles, htrained]
  · rw [State.getF_of_regs hregs, hr3, hf2 _ rfl, hr1]
    simp

theorem saddleTraining_spec (h : s.getF SADDLE_STATUS_STATE 0 l = 1) :
    let old := s.getF SADDLE_LEDGER_WIDTH 0 l
    let w := match s.saddleResult l (failed.map (·.val)) with | some p => p.1 | none => 3
    let q := match s.saddleResult l (failed.map (·.val)) with | some p => p.2 | none => 0
    CompletesThen (.saddleTrainingDone l failed) s
      (fun u => ((((((u.resendFlits l).noteHealth).repath).gateIsolate).reconnect.tryFatal).releaseAll)) fun u =>
        u.getF SADDLE_STATUS_WIDTH 0 l = w ∧ u.getF SADDLE_STATUS_SEL 0 l = q ∧
        u.getF SADDLE_STATUS_STATE 0 l = (if w = 3 then 2 else 0) ∧
        u.getF SADDLE_LEDGER_WIDTH 0 l = (if old < w then w else old) ∧
        (old < w → u.flag PKG_BLK_STATUS_LEDGER_LOWERED 0 0 = true) ∧ (u.saddle (2 * l)).trained = true ∧
        u.getF SADDLE_STATUS_RETRAINS 0 l = (if (s.saddle (2 * l)).trained = true ∨ old < w then
          min (2 ^ 32 - 1) (s.getF SADDLE_STATUS_RETRAINS 0 l + 1) else s.getF SADDLE_STATUS_RETRAINS 0 l) := by
  intro old w q
  have hwq : w < 4 ∧ q < 16 := by
    show (match s.saddleResult l (failed.map (·.val)) with | some p => p.1 | none => 3) < 4 ∧
      (match s.saddleResult l (failed.map (·.val)) with | some p => p.2 | none => 0) < 16
    cases hr : s.saddleResult l (failed.map (·.val)) with
    | none => decide
    | some p => exact s.saddleResult_lt l hr
  refine ⟨s.afterTraining l w q, ?_, s.afterTraining_spec l hwq.1 hwq.2⟩
  show execSaddleTrainingDone l failed s = _
  unfold execSaddleTrainingDone
  rw [if_neg (not_not_intro h)]
  rfl

end

/-! ### Col links (R427, R428) -/

/-- A flit of the smallest kind goes, one that waits. -/
theorem firstKind_spec {l : List (Nat × List Byte)} {f : Nat × List Byte} {rest : List (Nat × List Byte)} (h : firstKind l = some (f, rest)) :
    f ∈ l ∧ ∀ x ∈ l, f.1 ≤ x.1 := by
  induction l generalizing f rest with
  | nil => cases h
  | cons x l ih =>
    unfold firstKind at h
    cases hl : firstKind l with
    | none =>
      rw [hl] at h
      have hnil : l = [] := by
        cases l with
        | nil => rfl
        | cons y l =>
          unfold firstKind at hl
          split at hl
          · cases hl
          · split at hl <;> cases hl
      obtain ⟨rfl, -⟩ : x = f ∧ [] = rest := by simpa using h
      simp [hnil]
    | some p =>
      obtain ⟨y, r⟩ := p
      obtain ⟨hy, hmin⟩ := ih hl
      rw [hl] at h
      dsimp only at h
      split at h
      · next hle =>
        obtain ⟨rfl, -⟩ : x = f ∧ l = rest := by simpa using h
        refine ⟨by simp, fun z hz => ?_⟩
        obtain rfl | hz := List.mem_cons.mp hz
        · exact Nat.le_refl _
        · exact hle.trans (hmin z hz)
      · next hle =>
        obtain ⟨rfl, -⟩ : y = f ∧ x :: r = rest := by simpa using h
        refine ⟨by simp [hy], fun z hz => ?_⟩
        obtain rfl | hz := List.mem_cons.mp hz
        · omega
        · exact hmin z hz

/-- What a slot carries where nothing is to be sent again. -/
theorem ColDir.slot_first {x y : ColDir} {f : List Byte} (h : x.slot = some (f, y)) (ha : x.again = false) :
    f ∈ y.sent ∧ ∃ k, (k, f) ∈ x.queue ∧ ∀ q ∈ x.queue, k ≤ q.1 := by
  unfold ColDir.slot at h
  rw [ha] at h
  dsimp only at h
  cases hk : firstKind x.queue with
  | none => rw [hk] at h; cases h
  | some p =>
    obtain ⟨⟨k, g⟩, rest⟩ := p
    rw [hk] at h
    obtain ⟨rfl, rfl⟩ : g = f ∧ _ = y := by simpa using h
    obtain ⟨hmem, hmin⟩ := firstKind_spec hk
    refine ⟨mem_drop_append_last _ _ ?_, k, hmem, hmin⟩
    rw [List.length_append]
    simp

theorem crcBit_lt {c : Nat} (h : c < 2 ^ 32) : crcBit c < 2 ^ 32 := by
  unfold crcBit
  split
  · exact Nat.xor_lt_two_pow (by omega) (by decide)
  · omega

theorem crc32_lt (bs : List Byte) : crc32 bs < 2 ^ 32 := by
  have hfold : ∀ (l : List Byte) (c : Nat), c < 2 ^ 32 → l.foldl crcByte c < 2 ^ 32 := fun l => by
    induction l with
    | nil => exact fun _ h => h
    | cons b l ih =>
      refine fun c hc => ih _ ?_
      have hb : b.toNat < 2 ^ 32 := by have := b.isLt; omega
      exact crcBit_lt (crcBit_lt (crcBit_lt (crcBit_lt (crcBit_lt (crcBit_lt (crcBit_lt (crcBit_lt (Nat.xor_lt_two_pow hc hb))))))))
  exact Nat.xor_lt_two_pow (hfold bs _ (by decide)) (by decide)

theorem flipBits_nil (bs : List Byte) : flipBits bs [] = bs := by
  unfold flipBits
  exact List.zipIdx_map_fst ..

/-- A flit with its CRC passes (R427). -/
theorem colIntact_sent {f : List Byte} (h : f.length = 60) : colIntact (flipBits (f ++ leBytes 4 (crc32 f)) []) = true := by
  have hcrc : leNat (leBytes 4 (crc32 f)) = crc32 f := leNat_leBytes 4 _ (crc32_lt f)
  rw [flipBits_nil, colIntact, ← h, List.drop_left, List.take_left, hcrc]
  exact beq_self_eq_true _

section
variable {s : State} {d : Fin 4} {up : Bool} {offered : List (Fin 4 × List Byte)}

/-- What waits at a sender, with what joins it. -/
def State.colOffered (s : State) (d : Nat) (up : Bool) (offered : List (Fin 4 × List Byte)) : ColDir :=
  { (s.col d).dir up with queue := ((s.col d).dir up).queue ++ offered.map fun f => (f.1.val, f.2) }

@[simp] theorem State.col_setCol (s : State) (d : Nat) (x : ColLink) : (s.setCol d x).col d = x := kget_kset_same ..

theorem ColLink.dir_setDir (x : ColLink) (up : Bool) (y : ColDir) : (x.setDir up y).dir up = y := by cases up <;> rfl

theorem ColLink.dir_setDir_other (x : ColLink) (up : Bool) (y : ColDir) : (x.setDir up y).dir (!up) = x.dir (!up) := by cases up <;> rfl

theorem State.setCol_setDir (v : State) (c : ColLink) (d : Nat) (up : Bool) (y : ColDir) :
    ((v.setCol d (c.setDir up y)).col d).dir up = y ∧ ((v.setCol d (c.setDir up y)).col d).dir (!up) = c.dir (!up) ∧
    (v.setCol d (c.setDir up y)).regs = v.regs ∧ (v.setCol d (c.setDir up y)).mem = v.mem := by
  rw [State.col_setCol, ColLink.dir_setDir, ColLink.dir_setDir_other]
  exact ⟨rfl, rfl, rfl, rfl⟩

theorem colFlit_idle (flips : List (Fin 512))
    (h : s.getF COL_STATUS_STATE 0 d = 1 ∨ (s.getF COL_STATUS_STATE 0 d = 0 ∧ (s.colOffered d up offered).slot = none)) :
    exec (.colFlit d up offered flips) s = .next (s.setCol d ((s.col d).setDir up (s.colOffered d up offered))) := by
  show execColFlit d up offered flips s = _
  unfold execColFlit
  rw [if_neg (by omega)]
  have hnone : (if s.getF COL_STATUS_STATE 0 d = 1 then none else (s.colOffered d up offered).slot) = none := by
    obtain h | ⟨-, h⟩ := h
    · exact if_pos h
    · rw [h]
      exact ite_self _
  unfold State.colOffered at hnone ⊢
  dsimp only at hnone ⊢
  rw [hnone]

section
variable {f : List Byte} {y : ColDir} (h0 : s.getF COL_STATUS_STATE 0 d = 0) (hx : (s.colOffered d up offered).slot = some (f, y))
include h0 hx

theorem colFlit_intact (hl : f.length = 60) : Completes (.colFlit d up offered []) s fun t =>
    t.regs = s.regs ∧ t.mem = s.mem ∧ ((t.col d).dir up).streak = 0 ∧ ((t.col d).dir up).again = false ∧
    (t.col d).dir (!up) = (s.col d).dir (!up) := by
  have hexec : exec (.colFlit d up offered []) s = .next (s.setCol d ((s.col d).setDir up { y with again := false, streak := 0 })) := by
    show execColFlit d up offered [] s = _
    unfold execColFlit
    unfold State.colOffered at hx
    dsimp only
    rw [if_neg (by omega), if_neg (by omega), hx]
    exact if_pos (colIntact_sent hl)
  refine ⟨_, hexec, rfl, rfl, ?_⟩
  rw [State.col_setCol, ColLink.dir_setDir, ColLink.dir_setDir_other]
  exact ⟨rfl, rfl, rfl⟩

theorem exec_colFlit_damaged {flips : List (Fin 512)} (hi : colIntact (flipBits (f ++ leBytes 4 (crc32 f)) (flips.map (·.val))) = false) :
    exec (.colFlit d up offered flips) s = .next (if y.streak + 1 < 16
      then (s.satF COL_STATUS_REPLAYS 0 d 1).setCol d ((s.col d).setDir up { y with again := true, streak := y.streak + 1 })
      else ((s.satF COL_STATUS_REPLAYS 0 d 1).setCol d ((s.col d).setDir up { y with again := true, streak := 0 })).setF COL_STATUS_STATE 0 d 1) := by
  show execColFlit d up offered flips s = _
  unfold execColFlit
  unfold State.colOffered at hx
  dsimp only
  rw [if_neg (by omega), if_neg (by omega), hx]
  dsimp only
  rw [hi, if_neg Bool.false_ne_true]
  by_cases hn : y.streak + 1 < 16
  · rw [if_pos hn, if_pos hn]
  · rw [if_neg hn, if_neg hn]

theorem colFlit_damaged {flips : List (Fin 512)} (hi : colIntact (flipBits (f ++ leBytes 4 (crc32 f)) (flips.map (·.val))) = false) :
    Completes (.colFlit d up offered flips) s fun t =>
      t.getF COL_STATUS_REPLAYS 0 d = min (2 ^ 32 - 1) (s.getF COL_STATUS_REPLAYS 0 d + 1) ∧ t.mem = s.mem ∧
      ((t.col d).dir up).again = true ∧ (t.col d).dir (!up) = (s.col d).dir (!up) ∧
      (y.streak + 1 < 16 → t.getF COL_STATUS_STATE 0 d = 0 ∧ ((t.col d).dir up).streak = y.streak + 1) ∧
      (16 ≤ y.streak + 1 → t.getF COL_STATUS_STATE 0 d = 1) := by
  let v := s.satF COL_STATUS_REPLAYS 0 d 1
  have hcount : v.getF COL_STATUS_REPLAYS 0 d = min (2 ^ 32 - 1) (s.getF COL_STATUS_REPLAYS 0 d + 1) := s.getF_satF _ _ _ _ rfl
  have hstate : v.getF COL_STATUS_STATE 0 d = 0 :=
    (State.getF_setF_apart s COL_STATUS_REPLAYS COL_STATUS_STATE 0 d _ rfl rfl rfl rfl).trans h0
  have hmem : v.mem = s.mem := State.satF_mem ..
  have hexec := exec_colFlit_damaged h0 hx hi
  change exec _ s = .next (if y.streak + 1 < 16 then v.setCol .. else (v.setCol ..).setF ..) at hexec
  clear_value v
  by_cases hn : y.streak + 1 < 16
  · rw [if_pos hn] at hexec
    obtain ⟨hdir, hother, hregs, hm⟩ := v.setCol_setDir (s.col d) d up { y with again := true, streak := y.streak + 1 }
    generalize v.setCol d ((s.col d).setDir up { y with again := true, streak := y.streak + 1 }) = w at hexec hdir hother hregs hm
    refine ⟨w, hexec, ?_, hm.trans hmem, by rw [hdir], hother, fun _ => ⟨?_, by rw [hdir]⟩, fun h => absurd hn (Nat.not_lt.mpr h)⟩
    · rw [State.getF_of_regs hregs, hcount]
    · rw [State.getF_of_regs hregs, hstate]
  · rw [if_neg hn] at hexec
    obtain ⟨hdir, hother, hregs, hm⟩ := v.setCol_setDir (s.col d) d up { y with again := true, streak := 0 }
    generalize v.setCol d ((s.col d).setDir up { y with again := true, streak := 0 }) = w at hexec hdir hother hregs hm
    have hcol : (w.setF COL_STATUS_STATE 0 d 1).col d = w.col d := by rw [State.col, State.col, State.setF_cols]
    refine ⟨_, hexec, ?_, (State.setF_mem ..).trans (hm.trans hmem), ?_, ?_, fun h => absurd h hn, fun _ => State.getF_setF w COL_STATUS_STATE 0 d 1 rfl⟩
    · rw [State.getF_setF_apart w COL_STATUS_STATE COL_STATUS_REPLAYS 0 d _ rfl rfl rfl rfl, State.getF_of_regs hregs, hcount]
    · rw [hcol, hdir]
    · rw [hcol, hother]

end

theorem col_training (h : s.getF COL_STATUS_STATE 0 d = 1) :
    exec (.colLinkTrained d) s = .next ((s.setF COL_STATUS_STATE 0 d 0).trainShells [(3, 2 * d.val), (3, 2 * d.val + 1)]) ∧
    exec (.colRetrainTimeout d) s = .next ((s.setF COL_STATUS_STATE 0 d 2).gateFence d 3) := ⟨if_pos h, if_pos h⟩

theorem col_notTraining (h : s.getF COL_STATUS_STATE 0 d ≠ 1) :
    exec (.colRetrainTimeout d) s = .next s ∧
    (3 ∈ (s.fenceOf d).causes → exec (.colLinkTrained d) s = .next (s.clearCause d 3)) ∧
    (3 ∉ (s.fenceOf d).causes → exec (.colLinkTrained d) s = .next s) :=
  ⟨if_neg h, fun hc => (if_neg h).trans (if_pos (List.contains_iff_mem.mpr hc)),
    fun hc => (if_neg h).trans (if_neg fun hi => hc (List.contains_iff_mem.mp hi))⟩

end

/-! ### A path that changes (R31) -/

theorem pathHold_release {s : State} {a b : Fin 4} (h : (s.pairPath a b).waiting = true) :
    CompletesThen (.pathHoldRelease a b) s State.releaseAll fun u =>
      (u.pairPath a b).waiting = false ∧ (u.pairPath a b).path = (s.pairPath a b).path ∧ u.regs = s.regs ∧ u.mem = s.mem := by
  let u : State := { s with paths := kset PairPath.zero s.paths (a.val * 4 + b.val) { s.pairPath a b with waiting := false } }
  have hu : u.pairPath a b = { s.pairPath a b with waiting := false } := kget_kset_same ..
  exact ⟨u, if_neg (by simp [h]), (congrArg PairPath.waiting hu :), (congrArg PairPath.path hu :), rfl, rfl⟩

/-- Settles O47: a flit follows the state of its link and the errors of its words, a training ends at the best setting that passes, and a Col
link sends what waits first and again what is damaged. -/
theorem packageLinks : Obligations.PackageLinks := by
  unfold Obligations.PackageLinks
  refine fun s => ⟨fun l e width sel data dst => ⟨fun errs h => ?_, fun errs h hw => ?_, fun h0 hw hq => ⟨?_, ?_⟩⟩, fun l e => ?_,
    fun l failed => ⟨fun h => ?_, fun h => ?_⟩, fun d => ⟨fun up offered => ⟨fun flips h => ?_, fun f y h0 hx => ⟨?_, ?_, ?_⟩⟩, ?_, ?_⟩,
    fun a b => ⟨fun h => ?_, ?_⟩⟩
  · exact saddleFlit_training data errs dst h
  · exact saddleFlit_mismatch data errs dst h hw
  · exact saddleFlit_clean data dst h0 hw hq
  · exact fun i j k f f' hi hj hk hjk hf hf' hw0 hd => ⟨saddleFlit_corrected data dst h0 hw hq hw0 hi hd hj hf,
      saddleFlit_deadWire data dst h0 hw hq hw0 hi hd hj hf, saddleFlit_uncorrected data dst h0 hw hq hw0 hi hd hj hf hk hjk hf'⟩
  · exact s.resendFlits_none l e
  · exact if_pos h
  · exact saddleTraining_spec h
  · exact colFlit_idle flips h
  · exact ColDir.slot_first hx
  · exact colFlit_intact h0 hx
  · exact fun flips => colFlit_damaged h0 hx
  · exact col_training
  · exact col_notTraining
  · exact if_pos (by simp [h])
  · exact pathHold_release

end Sys2Proof.Machine
end

