-- ==== Sys2Proof/Proofs/DieFence.lean ====
section
/-!
PROOFS. The fence of a die: what it marks, and what the die leaves behind (R39, R188, R430, R431, Table 18.3).
-/
namespace Sys2Proof.Machine

open Sys2Proof

/-! ### The links of a fenced die -/

theorem State.saddleDown_getF (s : State) (l : Nat) {f : Fld} {d i : Nat} (h : f.reg.addr d i ≠ SADDLE_STATUS.addr 0 l) :
    (s.saddleDown l).getF f d i = s.getF f d i := by
  rw [State.saddleDown, State.getF_setF_ne _ SADDLE_STATUS_STATE f 0 l d i 3 h]
  exact State.getF_of_regs rfl ..

theorem State.saddleDown_state (s : State) (l : Nat) : (s.saddleDown l).getF SADDLE_STATUS_STATE 0 l = 3 :=
  State.getF_setF _ SADDLE_STATUS_STATE 0 l 3 rfl

theorem saddleStatus_inj {l k : Nat} (h : SADDLE_STATUS.addr 0 l = SADDLE_STATUS.addr 0 k) : l = k := by
  simp [Reg.addr, SADDLE_STATUS] at h
  omega

/-- Links that go DOWN: their states, and no other register. -/
theorem State.foldl_saddleDown (ls : List Nat) (s : State) :
    (∀ f d i, (∀ l ∈ ls, f.reg.addr d i ≠ SADDLE_STATUS.addr 0 l) → (ls.foldl State.saddleDown s).getF f d i = s.getF f d i) ∧
    ∀ l ∈ ls, (ls.foldl State.saddleDown s).getF SADDLE_STATUS_STATE 0 l = 3 := by
  induction ls generalizing s with
  | nil => exact ⟨fun _ _ _ _ => rfl, nofun⟩
  | cons k ls ih =>
    obtain ⟨h1, h2⟩ := ih (s.saddleDown k)
    rw [List.foldl_cons]
    refine ⟨fun f d i h => ?_, fun l hl => ?_⟩
    · rw [h1 f d i fun l hl => h l (by simp [hl]), State.saddleDown_getF _ _ (h k (by simp))]
    · by_cases hm : l ∈ ls
      · exact h2 l hm
      · obtain rfl : l = k := by simpa [hm] using hl
        rw [h1 SADDLE_STATUS_STATE 0 l fun j hj he => hm (saddleStatus_inj he ▸ hj), State.saddleDown_state]

theorem State.linksDown_spec (s : State) (d : Fin 4) :
    (∀ f, f.reg = DIE_STATE → (s.linksDown d).getF f 0 d = s.getF f 0 d) ∧ (s.linksDown d).getF COL_STATUS_STATE 0 d = 3 ∧
    ∀ l ∈ dieLinks d, (s.linksDown d).getF SADDLE_STATUS_STATE 0 l = 3 := by
  obtain ⟨h1, h2⟩ := State.foldl_saddleDown (dieLinks d) ({ s with cols := kset ColLink.zero s.cols d ColLink.zero }.setF COL_STATUS_STATE 0 d 3)
  have hd := d.isLt
  refine ⟨fun f hf => (h1 f 0 d fun l _ => ?_).trans ?_, (h1 _ 0 d fun l _ => ?_).trans (State.getF_setF _ COL_STATUS_STATE 0 d 3 rfl), h2⟩
  · rw [hf]
    simp [Reg.addr, DIE_STATE, SADDLE_STATUS]
    omega
  · rw [State.getF_setF_ne _ COL_STATUS_STATE f 0 d 0 d 3 (by rw [hf]; simp [Reg.addr, DIE_STATE, COL_STATUS_STATE, COL_STATUS])]
    exact State.getF_of_regs rfl ..
  · simp [Reg.addr, COL_STATUS_STATE, COL_STATUS, SADDLE_STATUS]
    omega

/-! ### What a fence keeps about a die -/

theorem State.fenceOf_setFence (s : State) (d : Nat) (x : DieFence) : (s.setFence d x).fenceOf d = x := kget_kset_same ..

theorem State.fenceOf_setFence_ne (s : State) {d k : Nat} (x : DieFence) (h : k ≠ d) : (s.setFence d x).fenceOf k = s.fenceOf k :=
  kget_kset_ne _ _ h

theorem State.fenceOf_congr {s t : State} (h : t.fences = s.fences) (d : Nat) : t.fenceOf d = s.fenceOf d := by
  rw [State.fenceOf, State.fenceOf, h]

theorem State.takeDegrade_fence (s : State) (x : Bool) (d : Nat) :
    ((s.takeDegrade x).fenceOf d).causes = (s.fenceOf d).causes ∧ ((s.takeDegrade x).fenceOf d).auto = (s.fenceOf d).auto := by
  unfold State.takeDegrade
  generalize List.range 4 = l
  induction l generalizing s with
  | nil => exact ⟨rfl, rfl⟩
  | cons k l ih =>
    obtain ⟨h1, h2⟩ := ih (s.setFence k { s.fenceOf k with degrade := x })
    rw [List.foldl_cons, h1, h2]
    by_cases hk : d = k
    · rw [hk, State.fenceOf_setFence]
      exact ⟨rfl, rfl⟩
    · rw [State.fenceOf_setFence_ne _ _ hk]
      exact ⟨rfl, rfl⟩

/-- What a fence keeps about its die for a rejoin (R430, R433). -/
def State.fenceRecord (s : State) (d cause : Nat) : DieFence :=
  { s.fenceOf d with
    causes := if (s.fenceOf d).causes.contains cause then (s.fenceOf d).causes else (s.fenceOf d).causes ++ [cause]
    auto := s.flag PKG_EXPERT_AUTO_REJOIN 0 0
    stableMs := max 1 (s.getF PKG_EXPERT_CLOCK_STABLE_MS 0 0) }

theorem mem_causes (l : List Nat) (c : Nat) : c ∈ (if l.contains c then l else l ++ [c]) := by
  split
  · next h => exact List.contains_iff_mem.mp h
  · simp

/-- A fence marks its die (R430, R431). -/
theorem State.fenceMark_spec (s : State) (d : Fin 4) {cause : Nat} (hc : cause < 256) :
    (s.fenceMark d cause).dieState d = 1 ∧ (s.fenceMark d cause).getF DIE_STATE_CAUSE 0 d = cause ∧
    (s.fenceMark d cause).getF DIE_STATE_FENCES 0 d = min 65535 (s.getF DIE_STATE_FENCES 0 d + 1) ∧
    (s.fenceMark d cause).getF COL_STATUS_STATE 0 d = 3 ∧ (∀ l ∈ dieLinks d, (s.fenceMark d cause).getF SADDLE_STATUS_STATE 0 l = 3) ∧
    cause ∈ ((s.fenceMark d cause).fenceOf d).causes ∧ ((s.fenceMark d cause).fenceOf d).auto = s.flag PKG_EXPERT_AUTO_REJOIN 0 0 ∧
    (s.fenceMark d cause).mem = s.mem := by
  let a := s.setF DIE_STATE_STATE 0 d 1
  let b := a.setF DIE_STATE_CAUSE 0 d cause
  let c := b.satF DIE_STATE_FENCES 0 d 1
  have hb : b.getF DIE_STATE_FENCES 0 d = s.getF DIE_STATE_FENCES 0 d := by
    show ((s.setF DIE_STATE_STATE 0 d 1).setF DIE_STATE_CAUSE 0 d cause).getF DIE_STATE_FENCES 0 d = _
    rw [State.getF_setF_apart _ DIE_STATE_CAUSE DIE_STATE_FENCES 0 d _ rfl rfl rfl rfl,
      State.getF_setF_apart _ DIE_STATE_STATE DIE_STATE_FENCES 0 d _ rfl rfl rfl rfl]
  have hstate : c.getF DIE_STATE_STATE 0 d = 1 := by
    show (((s.setF DIE_STATE_STATE 0 d 1).setF DIE_STATE_CAUSE 0 d cause).satF DIE_STATE_FENCES 0 d 1).getF DIE_STATE_STATE 0 d = _
    rw [State.satF, State.getF_setF_apart _ DIE_STATE_FENCES DIE_STATE_STATE 0 d _ rfl rfl rfl rfl,
      State.getF_setF_apart _ DIE_STATE_CAUSE DIE_STATE_STATE 0 d _ rfl rfl rfl rfl, State.getF_setF _ DIE_STATE_STATE 0 d 1 rfl]
    rfl
  have hcause : c.getF DIE_STATE_CAUSE 0 d = cause := by
    show (((s.setF DIE_STATE_STATE 0 d 1).setF DIE_STATE_CAUSE 0 d cause).satF DIE_STATE_FENCES 0 d 1).getF DIE_STATE_CAUSE 0 d = _
    rw [State.satF, State.getF_setF_apart _ DIE_STATE_FENCES DIE_STATE_CAUSE 0 d _ rfl rfl rfl rfl,
      State.getF_setF _ DIE_STATE_CAUSE 0 d cause rfl]
    exact Nat.mod_eq_of_lt hc
  have hcount : c.getF DIE_STATE_FENCES 0 d = min 65535 (s.getF DIE_STATE_FENCES 0 d + 1) := by
    have h := b.getF_satF DIE_STATE_FENCES 0 d 1 rfl
    rw [hb] at h
    exact h
  have hm : Moves 0x8 s c := (State.satF_moves ..).step (by decide) ((State.setF_moves ..).step (by decide) (State.setF_moves ..))
  have hmark : s.fenceMark d cause =
      ((c.setFence d (s.fenceRecord d cause)).takeDegrade (s.flag PKG_EXPERT_DEAD_WIRE_DEGRADE 0 0)).linksDown d := rfl
  have hmem : c.mem = s.mem := hm.same .mem (by decide)
  have hrec : cause ∈ (s.fenceRecord d cause).causes ∧ (s.fenceRecord d cause).auto = s.flag PKG_EXPERT_AUTO_REJOIN 0 0 := ⟨mem_causes .., rfl⟩
  clear_value c
  rw [hmark]
  generalize s.fenceRecord d cause = f at hrec
  generalize s.flag PKG_EXPERT_DEAD_WIRE_DEGRADE 0 0 = g
  obtain ⟨hcauses, hauto⟩ := (c.setFence d f).takeDegrade_fence g d
  rw [State.fenceOf_setFence] at hcauses hauto
  have hdegrade : Moves 0x4000000 c ((c.setFence d f).takeDegrade g) := (State.takeDegrade_moves ..).step (by decide) (State.setFence_moves ..)
  generalize (c.setFence d f).takeDegrade g = u at hcauses hauto hdegrade
  have hregs : u.regs = c.regs := hdegrade.same .regs (by decide)
  have humem : u.mem = c.mem := hdegrade.same .mem (by decide)
  obtain ⟨hdie, hcol, hsaddle⟩ := u.linksDown_spec d
  have hlinks := u.linksDown_moves d
  have hfences : (u.linksDown d).fences = u.fences := hlinks.same .fences (by decide)
  have hlmem : (u.linksDown d).mem = u.mem := hlinks.same .mem (by decide)
  refine ⟨?_, ?_, ?_, hcol, hsaddle, ?_, ?_, ?_⟩
  · rw [State.dieState, hdie _ rfl, State.getF_of_regs hregs, hstate]
  · rw [hdie _ rfl, State.getF_of_regs hregs, hcause]
  · rw [hdie _ rfl, State.getF_of_regs hregs, hcount]
  · rw [State.fenceOf_congr hfences, hcauses]
    exact hrec.1
  · rw [State.fenceOf_congr hfences, hauto, hrec.2]
  · rw [hlmem, humem, hmem]

/-! ### What a die loses (Table 18.3) -/

/-- Nothing of a tracker is left but responses that will be discarded. -/
def TrackerBare (d : Nat) (s : State) : Prop := (s.tracker d).entries = [] ∧ (s.tracker d).waiters = [] ∧ (s.tracker d).done = []

theorem TrackerBare.of_trackers {d : Nat} {s t : State} (h : TrackerBare d s) (ht : t.trackers = s.trackers) : TrackerBare d t := by
  unfold TrackerBare State.tracker at *
  rwa [ht]

theorem State.tracker_setTracker_ne (s : State) {d e : Nat} (t : Tracker) (h : d ≠ e) : (s.setTracker e t).tracker d = s.tracker d :=
  kget_kset_ne _ _ h

theorem State.tracker_deliver_ne (s : State) {d e : Nat} (h : d ≠ e) (r : RemReq) (status : Nat) (data : List Byte) :
    (s.deliver e r status data).tracker d = s.tracker d := by
  have same {t : State} (ht : t.trackers = s.trackers) : t.tracker d = s.tracker d := by rw [State.tracker, State.tracker, ht]
  unfold State.deliver
  split
  · dsimp only
    split
    · rfl
    · exact same ((State.remoteFail_moves ..).same .trackers (by decide))
  · exact same ((State.descDone_moves ..).same .trackers (by decide))
  · exact State.tracker_setTracker_ne _ _ h

theorem State.tracker_setEntries_ne (s : State) {d e : Nat} (es : List TrackEntry) (h : d ≠ e) : (s.setEntries e es).tracker d = s.tracker d := by
  unfold State.setEntries
  rw [State.tracker, State.setF_trackers, State.setF_trackers]
  exact kget_kset_ne _ _ h

theorem TrackerBare.finish {d e : Nat} {s : State} (h : TrackerBare d s) (id status : Nat) (data : List Byte) :
    TrackerBare d (s.finish e id status data) := by
  unfold State.finish
  by_cases he : d = e
  · subst he
    rw [h.1]
    exact h
  · cases hf : (s.tracker e).entries.find? fun x => x.id == id with
    | none => exact h
    | some x =>
      unfold TrackerBare
      rw [State.tracker_deliver_ne _ he, State.tracker_setEntries_ne _ _ he]
      exact h

theorem TrackerBare.answerOwn {d : Nat} {s : State} (h : TrackerBare d s) (e id step status : Nat) :
    TrackerBare d (s.answerOwn e id step status) := by
  unfold State.answerOwn
  split
  · unfold State.dropLate TrackerBare
    by_cases he : d = e
    · subst he
      rw [State.tracker_setTracker]
      exact h
    · rw [State.tracker_setTracker_ne _ _ he]
      exact h
  · exact h.finish ..

/-- Queues of a die that are reset hold nothing (R362, Table 18.3). -/
def QueuesBare (d n : Nat) (s : State) : Prop := ∀ q, q < n → s.queue d q = Queue.zero

theorem QueuesBare.of_queues {d n : Nat} {s t : State} (h : QueuesBare d n s) (ht : t.queues = s.queues) : QueuesBare d n t := fun q hq => by
  rw [State.queue, ht]
  exact h q hq

/-- Packets of a queue that had not become visible are answered. -/
def State.answerPackets (u : State) (ps : List QPacket) : State :=
  ps.foldl (fun v p => v.answerOwn p.srcDie p.tag p.step stUNREACHABLE) u

theorem State.answerPackets_bare (d : Nat) (ps : List QPacket) {u : State} (h : TrackerBare d u) :
    TrackerBare d (u.answerPackets ps) ∧ (u.answerPackets ps).queues = u.queues := by
  unfold State.answerPackets
  induction ps generalizing u with
  | nil => exact ⟨h, rfl⟩
  | cons p ps ih =>
    obtain ⟨h1, h2⟩ := ih (h.answerOwn p.srcDie p.tag p.step stUNREACHABLE)
    exact ⟨h1, h2.trans ((State.answerOwn_moves ..).same .queues (by decide))⟩

theorem State.answerReserves_bare {d : Nat} (rs : List QReserve) {u : State} (h : TrackerBare d u) : TrackerBare d
    (rs.foldl (fun u r => if r.own then u.answerOwn r.srcDie r.tag r.step stUNREACHABLE else u) u) := by
  induction rs generalizing u with
  | nil => exact h
  | cons r rs ih =>
    refine ih ?_
    dsimp only
    split
    · exact h.answerOwn ..
    · exact h

theorem State.queue_setQueue (s : State) (d q : Nat) (x : Queue) : (s.setQueue d q x).queue d q = x := kget_kset_same s.queues (d * 64 + q) x

theorem State.queue_setQueue_ne (s : State) (d : Nat) {q k : Nat} (x : Queue) (h : k ≠ q) : (s.setQueue d q x).queue d k = s.queue d k :=
  kget_kset_ne s.queues x (by omega)

/-- One queue is reset. -/
def State.emptyQueue (d : Nat) (u : State) (q : Nat) : State :=
  (u.setQueue d q Queue.zero).answerPackets ((u.queue d q).packets.filter fun p => p.own && !decide (p.phase = .visible))

theorem State.foldl_emptyQueue {d : Nat} {s : State} (h : TrackerBare d s) (n : Nat) :
    TrackerBare d ((List.range n).foldl (State.emptyQueue d) s) ∧ QueuesBare d n ((List.range n).foldl (State.emptyQueue d) s) := by
  induction n with
  | zero => exact ⟨h, nofun⟩
  | succ n ih =>
    rw [List.range_succ, List.foldl_append]
    generalize (List.range n).foldl (State.emptyQueue d) s = u at ih ⊢
    obtain ⟨h1, h2⟩ := State.answerPackets_bare d ((u.queue d n).packets.filter fun p => p.own && !decide (p.phase = .visible))
      (u := u.setQueue d n Queue.zero) (ih.1.of_trackers rfl)
    refine ⟨h1, QueuesBare.of_queues (fun q hq => ?_) h2⟩
    by_cases hn : q = n
    · rw [hn]
      exact State.queue_setQueue ..
    · rw [State.queue_setQueue_ne _ _ _ hn]
      exact ih.2 q (by omega)

theorem State.queueReset_bare {d : Nat} {s : State} (h : TrackerBare d s) :
    TrackerBare d (s.queueReset d) ∧ QueuesBare d 64 (s.queueReset d) ∧ (s.queueReset d).reserveList d = [] := by
  have hr := State.answerReserves_bare (s.reserveList d) h
  have heq : s.queueReset d = ((List.range 64).foldl (State.emptyQueue d) ((s.reserveList d).foldl (fun u r =>
      if r.own then u.answerOwn r.srcDie r.tag r.step stUNREACHABLE else u) s)).setReserveList d [] := by
    unfold State.queueReset
    generalize List.range 64 = l
    rfl
  obtain ⟨h1, h2⟩ := State.foldl_emptyQueue hr 64
  rw [heq]
  generalize List.foldl (State.emptyQueue d) _ (List.range 64) = u at h1 h2 ⊢
  exact ⟨h1.of_trackers rfl, h2.of_queues rfl, kget_kset_same u.reserves d []⟩

theorem kget_kfilter_out {α : Type} (c : α) (p : Nat → Bool) (m : KMap α) {k : Nat} (h : p k = false) : kget c (kfilter p m) k = c := by
  induction m with
  | nil => rfl
  | cons x m ih =>
    unfold kfilter at ih ⊢
    rw [List.filter_cons]
    split
    · next hx =>
      obtain ⟨j, v⟩ := x
      unfold kget
      rw [if_neg (by rintro rfl; simp [h] at hx)]
      exact ih
    · exact ih

/-- A die that a reset starts from nothing: its cores, queues, tracker and engines (Table 18.3). -/
def DieBare (d : Nat) (u : State) : Prop :=
  (∀ g, g < 96 → u.coreOf d g = Core.zero) ∧ (u.tracker d).entries = [] ∧ (u.tracker d).waiters = [] ∧ (u.tracker d).done = [] ∧
    u.reserveList d = [] ∧ (∀ q, q < 64 → u.queue d q = Queue.zero) ∧ u.traverse d = Traverse.zero ∧
    kget Switchback.zero u.switchbacks d = Switchback.zero

theorem State.resetDie_bare (s : State) (d : Nat) : DieBare d (s.resetDie d) := by
  unfold State.resetDie
  extract_lets rings exps t0 z s1 s2 s3 s4 s5 s6 base off s7
  have h1 : TrackerBare d s1 := by
    unfold TrackerBare
    rw [State.tracker_setTracker]
    exact ⟨rfl, rfl, rfl⟩
  have h12 : Moves 0x2000008 s1 s2 := .foldl _ _ (fun _ _ => State.descDone_moves ..) (.refl s1)
  have h4 : TrackerBare d s4 := (h1.of_trackers (h12.same .trackers (by decide))).of_trackers rfl
  obtain ⟨htracker, hqueues, hreserves⟩ : TrackerBare d s5 ∧ QueuesBare d 64 s5 ∧ s5.reserveList d = [] := State.queueReset_bare h4
  clear_value s5
  have hregs := s7.resetDieRegs_moves d
  have htr7 : s7.trackers = s5.trackers := rfl
  have hqu7 : s7.queues = s5.queues := rfl
  have hre7 : s7.reserves = s5.reserves := rfl
  have hco7 : s7.cores = kfilter (fun k => k / 96 != d) s5.cores := rfl
  have hsw7 : s7.switchbacks = kfilter (· != d) s5.switchbacks := rfl
  have htv7 : s7.traverses = kfilter (· != d) s5.traverses := rfl
  clear_value s7
  have htr : (s7.resetDieRegs d).trackers = _ := Eq.trans (hregs.same .trackers (by decide)) htr7
  have hqu : (s7.resetDieRegs d).queues = _ := Eq.trans (hregs.same .queues (by decide)) hqu7
  have hre : (s7.resetDieRegs d).reserves = _ := Eq.trans (hregs.same .reserves (by decide)) hre7
  have hco : (s7.resetDieRegs d).cores = _ := Eq.trans (hregs.same .cores (by decide)) hco7
  have hsw : (s7.resetDieRegs d).switchbacks = _ := Eq.trans (hregs.same .switchbacks (by decide)) hsw7
  have htv : (s7.resetDieRegs d).traverses = _ := Eq.trans (hregs.same .traverses (by decide)) htv7
  generalize s7.resetDieRegs d = t at htr hqu hre hco hsw htv
  obtain ⟨he, hw, hd⟩ := htracker.of_trackers htr
  refine ⟨fun g hg => ?_, he, hw, hd, ?_, hqueues.of_queues hqu, ?_, ?_⟩
  · rw [State.coreOf, State.core, hco]
    exact kget_kfilter_out _ _ _ (by simp [globalCore]; omega)
  · rw [State.reserveList, hre]
    exact hreserves
  · rw [State.traverse, htv]
    exact kget_kfilter_out _ _ _ (by simp)
  · rw [hsw]
    exact kget_kfilter_out _ _ _ (by simp)

end Sys2Proof.Machine
end

