-- ==== Sys2Proof/Proofs/DieReturn.lean ====
section
/-!
PROOFS. The causes of a fence, the low-power states that hold it, and a die's return (R433, R434, R457).
-/
namespace Sys2Proof.Machine

open Sys2Proof

/-! ### Causes (Table 16.5) -/

section
variable {d : Fin 4} {s : State}

theorem State.dieRunning_state (h : s.dieRunning d = true) : s.dieState d = 0 := by
  unfold State.dieRunning at h
  simp only [Bool.and_eq_true, beq_iff_eq] at h
  exact h.1.1.1

theorem State.gateReset_awake (h0 : s.powerState = 0) (hi : s.power.inReset = false) (r : HeldReset) (act : State → State) :
    s.gateReset r act = act s := by
  unfold State.gateReset
  rw [if_neg (by simp [hi]), h0]
  rfl

theorem exec_dieFence (h0 : s.powerState = 0) (hs : s.power.stopped = none) (hi : s.power.inReset = false) {p : Instr × Nat}
    (hp : p ∈ [(Instr.clockLoss d, 2), (Instr.fatalDie d, 4)]) : exec p.1 s = .next (s.fence d p.2) ∧ p.2 < 256 := by
  have hgate (c : Nat) : s.gateFence d c = s.fence d c := by
    have hcause : s.fenceCause d c = s.fence d c := if_neg (by simp [hs, hi])
    rw [State.gateFence, State.gateReset_awake h0 hi, hcause]
  simp only [List.mem_cons, List.not_mem_nil, or_false] at hp
  obtain rfl | rfl := hp
  · exact ⟨congrArg Host.Outcome.next (hgate 2), show 2 < 256 by decide⟩
  · exact ⟨congrArg Host.Outcome.next (hgate 4), show 4 < 256 by decide⟩

theorem State.fence_fresh (h1 : s.dieState d ≠ 1) (h4 : s.dieState d ≠ 4) (c : Nat) : s.fence d c =
    ((((((if s.dieRunning d then (((s.fenceMark d c).fenceStop d).stopPorts d).oweCollapse d else s.fenceMark d c).fenceReport d c).repath).advanceDie
      d).noteHealth).isolate.tryFatal).afterWork := by
  have hone : s.fenceOne d c = ((((if s.dieRunning d then (((s.fenceMark d c).fenceStop d).stopPorts d).oweCollapse d
      else s.fenceMark d c).fenceReport d c).repath).advanceDie d).noteHealth := if_neg (by simp [h1, h4])
  rw [State.fence, hone]

/-- A further cause joins the others (R430). -/
theorem State.fenceOne_more (h : s.dieState d = 1 ∨ s.dieState d = 4) (c : Nat) : s.fenceOne d c =
    (s.setFence d { s.fenceOf d with
      causes := if (s.fenceOf d).causes.contains c then (s.fenceOf d).causes else (s.fenceOf d).causes ++ [c] }).setF DIE_STATE_CAUSE 0 d c :=
  if_pos h

theorem State.addCause_spec (s : State) (d : Nat) (f : DieFence) {c : Nat} (hc : c < 256) (hm : c ∈ f.causes) :
    ((s.setFence d f).setF DIE_STATE_CAUSE 0 d c).dieState d = s.dieState d ∧
    ((s.setFence d f).setF DIE_STATE_CAUSE 0 d c).getF DIE_STATE_CAUSE 0 d = c ∧
    c ∈ (((s.setFence d f).setF DIE_STATE_CAUSE 0 d c).fenceOf d).causes ∧
    ((s.setFence d f).setF DIE_STATE_CAUSE 0 d c).cores = s.cores ∧ ((s.setFence d f).setF DIE_STATE_CAUSE 0 d c).mem = s.mem := by
  have hregs : (s.setFence d f).regs = s.regs := rfl
  have hcores : (s.setFence d f).cores = s.cores := rfl
  have hmem : (s.setFence d f).mem = s.mem := rfl
  have hfence := s.fenceOf_setFence d f
  generalize s.setFence d f = u at hregs hcores hmem hfence ⊢
  refine ⟨?_, ?_, ?_, ?_, ?_⟩
  · rw [State.dieState, State.getF_setF_apart u DIE_STATE_CAUSE DIE_STATE_STATE 0 d c rfl rfl rfl rfl, State.getF_of_regs hregs, State.dieState]
  · rw [State.getF_setF u DIE_STATE_CAUSE 0 d c rfl]
    exact Nat.mod_eq_of_lt hc
  · rw [State.fenceOf_congr (State.setF_fences ..), hfence]
    exact hm
  · rw [State.setF_cores, hcores]
  · rw [State.setF_mem, hmem]

end

/-! ### A low-power state holds a reset (R457) -/

theorem State.gateReset_holds {s : State} (hi : s.power.inReset = false)
    (hp : s.powerState = 2 ∨ s.powerState = 3 ∨ s.powerState = 5 ∨ s.powerState = 6) (r : HeldReset) (act : State → State) :
    (s.gateReset r act).low.heldResets = s.low.heldResets ++ [r] ∧ (s.gateReset r act).mem = s.mem ∧
    (s.gateReset r act).powerState = if s.powerState = 2 then 3 else if s.powerState = 5 then 6 else s.powerState := by
  have hgate : s.gateReset r act = s.wake.setLow fun y => { y with heldResets := y.heldResets ++ [r] } := by
    unfold State.gateReset
    rw [if_neg (by simp [hi])]
    obtain hp | hp | hp | hp := hp <;> (rw [hp]; rfl)
  have hwake : s.wake.low = s.low ∧ s.wake.mem = s.mem ∧
      s.wake.powerState = if s.powerState = 2 then 3 else if s.powerState = 5 then 6 else s.powerState := by
    have hstate (x : Nat) : (s.setF STATE_STATUS_STATE 0 0 x).powerState = x % 8 := State.getF_setF s STATE_STATUS_STATE 0 0 x rfl
    unfold State.wake
    obtain hp | hp | hp | hp := hp <;> rw [hp]
    · exact ⟨State.setF_low .., State.setF_mem .., hstate 3⟩
    · exact ⟨rfl, rfl, hp⟩
    · exact ⟨State.setF_low .., State.setF_mem .., hstate 6⟩
    · exact ⟨rfl, rfl, hp⟩
  obtain ⟨hlow, hmem, hstate⟩ := hwake
  rw [hgate]
  generalize s.wake = w at hlow hmem hstate ⊢
  exact ⟨congrArg (fun x : LowPower => x.heldResets ++ [r]) hlow, hmem, hstate⟩

/-! ### DIE_CMD (Table 16.12) -/

section
variable {d : Fin 4} {s : State}

theorem exec_dieReset (h0 : s.powerState = 0) (hi : s.power.inReset = false) (dies : Fin 16) : exec (.dieReset dies) s = .next (s.dieReset dies) := by
  show Host.Outcome.next (s.gateReset (.dies dies) fun u => u.dieReset dies) = _
  rw [State.gateReset_awake h0 hi]

theorem State.dieReset_refused {mask : Nat} (h : ∀ k, k < 4 → s.dieRunning k = true → mask.testBit k = true) :
    s.dieReset mask = s.setF PKG_BLK_STATUS_DIE_CMD_ERR 0 0 1 := by
  refine if_pos ?_
  unfold State.dieResetRefused State.liveDies
  rw [List.isEmpty_iff, List.filter_eq_nil_iff]
  intro k hk
  obtain ⟨h4, hr⟩ := List.mem_filter.mp hk
  simp [h k (List.mem_range.mp h4) hr]

theorem State.dieReset_one (hd : s.dieRunning d = true) {k : Nat} (hk : k < 4) (hne : k ≠ d.val) (hr : s.dieRunning k = true) :
    s.dieReset (2 ^ d.val) = ((s.fenceOne d 1).isolate.tryFatal.clearCause d 1).afterWork := by
  have hrefused : s.dieResetRefused (2 ^ d.val) = false := by
    unfold State.dieResetRefused State.liveDies
    rw [List.isEmpty_eq_false_iff_exists_mem]
    exact ⟨k, List.mem_filter.mpr ⟨List.mem_filter.mpr ⟨List.mem_range.mpr hk, hr⟩, by simp [Ne.symm hne]⟩⟩
  have hnamed : ((List.range 4).filter fun k => (2 ^ d.val).testBit k) = [d.val] := by
    have hall : ∀ d : Fin 4, ((List.range 4).filter fun k => (2 ^ d.val).testBit k) = [d.val] := by decide
    exact hall d
  unfold State.dieReset
  rw [if_neg (by simp [hrefused]), hnamed]
  have hstate := State.dieRunning_state hd
  simp [hd, hstate]

/-- What a write of REJOIN does with one die that it names. -/
def State.rejoinDie (u : State) (d : Nat) : State :=
  if u.dieState d ≠ 4 then u.setF PKG_BLK_STATUS_DIE_CMD_ERR 0 0 1
  else if (u.fenceOf d).causes.isEmpty && (dieLinks d).any u.ledgerLive then u.setF DIE_STATE_STATE 0 d 2
  else u

/-- A die that may leave HELD (R433). -/
def State.mayRejoin (s : State) (d : Nat) : Prop := s.dieState d = 4 ∧ (s.fenceOf d).causes = [] ∧ (dieLinks d).any s.ledgerLive = true

theorem dieState_inj {k d : Nat} (h : DIE_STATE.addr 0 k = DIE_STATE.addr 0 d) : k = d := by
  simp [Reg.addr, DIE_STATE] at h
  omega

theorem dieLinks_lt (d : Fin 4) : ∀ l ∈ dieLinks d, l < 4 := by
  revert d
  decide

/-- A register outside the ledgers leaves them. -/
theorem State.ledgerLive_setF (s : State) (f : Fld) (i x l : Nat) (h : SADDLE_LEDGER.addr 0 l ≠ f.reg.addr 0 i) :
    (s.setF f 0 i x).ledgerLive l = s.ledgerLive l := by
  rw [State.ledgerLive, State.getF_setF_ne s f SADDLE_LEDGER_WIDTH 0 i 0 l x h, State.ledgerLive]

/-- What REJOIN does to one die. -/
structure Rejoins (s : State) (d : Nat) (t : State) : Prop where
  fence : ∀ k, t.fenceOf k = s.fenceOf k
  ledger : ∀ l, l < 4 → t.ledgerLive l = s.ledgerLive l
  others : ∀ k, k < 4 → k ≠ d → t.dieState k = s.dieState k
  leaves : s.mayRejoin d → t.dieState d = 2
  stays : ¬ s.mayRejoin d → t.dieState d = s.dieState d
  refused : s.dieState d ≠ 4 ∨ s.flag PKG_BLK_STATUS_DIE_CMD_ERR 0 0 = true → t.flag PKG_BLK_STATUS_DIE_CMD_ERR 0 0 = true

theorem State.rejoinDie_spec (s : State) {d : Nat} (hd : d < 4) : Rejoins s d (s.rejoinDie d) := by
  unfold State.rejoinDie
  split
  · next h =>
    have hdie (k : Nat) (hk : k < 4) : (s.setF PKG_BLK_STATUS_DIE_CMD_ERR 0 0 1).dieState k = s.dieState k :=
      State.getF_setF_ne s PKG_BLK_STATUS_DIE_CMD_ERR DIE_STATE_STATE 0 0 0 k 1
        (by simp [Reg.addr, DIE_STATE_STATE, DIE_STATE, PKG_BLK_STATUS_DIE_CMD_ERR, PKG_BLK_STATUS]; omega)
    exact ⟨fun k => State.fenceOf_congr (State.setF_fences ..) k, fun l hl => State.ledgerLive_setF _ _ _ _ _
      (by simp [Reg.addr, SADDLE_LEDGER, PKG_BLK_STATUS_DIE_CMD_ERR, PKG_BLK_STATUS]; omega), fun k hk _ => hdie k hk,
      fun hm => absurd hm.1 h, fun _ => hdie d hd, fun _ => State.flag_setF_one s PKG_BLK_STATUS_DIE_CMD_ERR 0 0 rfl⟩
  · next h =>
    have h4 : s.dieState d = 4 := not_not.mp h
    split
    · next hm =>
      simp only [Bool.and_eq_true, List.isEmpty_iff] at hm
      have hmay : s.mayRejoin d := ⟨h4, hm.1, hm.2⟩
      refine ⟨fun k => State.fenceOf_congr (State.setF_fences ..) k, fun l hl => State.ledgerLive_setF _ _ _ _ _
        (by simp [Reg.addr, SADDLE_LEDGER, DIE_STATE_STATE, DIE_STATE]; omega), fun k _ hk => ?_, fun _ => ?_, fun hn => absurd hmay hn, fun hf => ?_⟩
      · exact State.getF_setF_ne s DIE_STATE_STATE DIE_STATE_STATE 0 d 0 k 2 fun h => hk (dieState_inj h)
      · exact State.getF_setF s DIE_STATE_STATE 0 d 2 rfl
      · rw [State.flag_setF_ne s DIE_STATE_STATE PKG_BLK_STATUS_DIE_CMD_ERR 0 d 0 2
          (by simp [Reg.addr, DIE_STATE_STATE, DIE_STATE, PKG_BLK_STATUS_DIE_CMD_ERR, PKG_BLK_STATUS]; omega)]
        exact hf.resolve_left (not_not.mpr h4)
    · next hm =>
      have hmay : ¬ s.mayRejoin d := fun ⟨_, h2, h3⟩ => hm (by simp [h2, h3])
      exact ⟨fun _ => rfl, fun _ _ => rfl, fun _ _ _ => rfl, fun h => absurd h hmay, fun _ => rfl, fun hf => hf.resolve_left (not_not.mpr h4)⟩

theorem Rejoins.anyLive {t : State} {j : Nat} (h : Rejoins s j t) (k : Fin 4) :
    (dieLinks k).any t.ledgerLive = (dieLinks k).any s.ledgerLive := by
  rw [Bool.eq_iff_iff, List.any_eq_true, List.any_eq_true]
  exact exists_congr fun l => and_congr_right fun hl => by rw [h.ledger l (dieLinks_lt k l hl)]

theorem Rejoins.mayRejoin_iff {t : State} {j : Nat} (h : Rejoins s j t) (k : Fin 4) (hk : k.val ≠ j) : t.mayRejoin k ↔ s.mayRejoin k := by
  unfold State.mayRejoin
  rw [h.others k k.isLt hk, h.fence, h.anyLive]

/-- Dies that REJOIN names, in turn. -/
theorem State.foldl_rejoinDie (ds : List Nat) (hds : ∀ d ∈ ds, d < 4) (s : State) :
    (∀ k : Fin 4, (k.val ∈ ds ∧ s.mayRejoin k → (ds.foldl State.rejoinDie s).dieState k = 2) ∧
      (¬ (k.val ∈ ds ∧ s.mayRejoin k) → (ds.foldl State.rejoinDie s).dieState k = s.dieState k)) ∧
    ((∃ k ∈ ds, s.dieState k ≠ 4) ∨ s.flag PKG_BLK_STATUS_DIE_CMD_ERR 0 0 = true →
      (ds.foldl State.rejoinDie s).flag PKG_BLK_STATUS_DIE_CMD_ERR 0 0 = true) := by
  induction ds generalizing s with
  | nil => exact ⟨fun _ => ⟨fun h => absurd h.1 (by simp), fun _ => rfl⟩, fun h => h.resolve_left (by simp)⟩
  | cons j ds ih =>
    have hj := s.rejoinDie_spec (hds j (by simp))
    obtain ⟨h1, h2⟩ := ih (fun d hd => hds d (by simp [hd])) (s.rejoinDie j)
    rw [List.foldl_cons]
    generalize s.rejoinDie j = u at hj h1 h2 ⊢
    refine ⟨fun k => ?_, fun h => h2 ?_⟩
    · by_cases hk : k.val = j
      · by_cases hm : s.mayRejoin k
        · have hu : u.dieState k = 2 := by rw [hk]; exact hj.leaves (hk ▸ hm)
          have hend := (h1 k).2 fun h => by rw [h.2.1] at hu; cases hu
          exact ⟨fun _ => hend.trans hu, fun h => absurd ⟨by simp [hk], hm⟩ h⟩
        · have hu : u.dieState k = s.dieState k := by rw [hk]; exact hj.stays (hk ▸ hm)
          have hend := (h1 k).2 fun ⟨_, h⟩ => hm ⟨hu ▸ h.1, hj.fence k ▸ h.2.1, hj.anyLive k ▸ h.2.2⟩
          exact ⟨fun h => absurd h.2 hm, fun _ => hend.trans hu⟩
      · rw [List.mem_cons, or_iff_right hk, ← hj.mayRejoin_iff k hk, ← hj.others k k.isLt hk]
        exact h1 k
    · obtain ⟨k, hk, hs⟩ | hf := h
      · by_cases hkj : k = j
        · exact .inr (hj.refused (.inl (hkj ▸ hs)))
        · refine .inl ⟨k, by simpa [hkj] using hk, ?_⟩
          rwa [hj.others k (hds k hk) hkj]
      · exact .inr (hj.refused (.inr hf))

theorem rejoin_completes (dies : Fin 16) (s : State) : Completes (.rejoin dies) s fun t =>
    (∀ k, k < 4 → t.dieState k = if dies.val.testBit k = true ∧ s.dieState k = 4 ∧ (s.fenceOf k).causes = [] ∧
      (dieLinks k).any s.ledgerLive = true then 2 else s.dieState k) ∧
    (∀ k, k < 4 → dies.val.testBit k = true → s.dieState k ≠ 4 → t.flag PKG_BLK_STATUS_DIE_CMD_ERR 0 0 = true) := by
  have hmem (k : Nat) (hk : k < 4) : k ∈ (List.range 4).filter (fun d => dies.val.testBit d) ↔ dies.val.testBit k = true := by
    simp [hk]
  obtain ⟨h1, h2⟩ := State.foldl_rejoinDie ((List.range 4).filter fun d => dies.val.testBit d)
    (fun d hd => List.mem_range.mp (List.mem_filter.mp hd).1) s
  refine ⟨((List.range 4).filter fun d => dies.val.testBit d).foldl State.rejoinDie s, rfl, fun k hk => ?_, fun k hk hb hs => h2 (.inl ⟨k, (hmem k hk).mpr hb, hs⟩)⟩
  obtain ⟨hin, hout⟩ := h1 ⟨k, hk⟩
  rw [hmem k hk] at hin hout
  split
  · next h => exact hin h
  · next h => exact hout h

/-! ### A cause that clears (R433) -/

theorem State.clearCause_fence (s : State) (d c : Nat) : ((s.clearCause d c).fenceOf d).causes = (s.fenceOf d).causes.filter (· != c) := by
  rw [State.clearCause, State.fenceOf_congr ((State.advanceDie_moves ..).same .fences (by decide)), State.fenceOf_setFence]

theorem State.clearCause_state (s : State) (d c : Nat) : (s.clearCause d c).dieState d =
    if s.power.stopped = none ∧ s.dieState d = 1 ∧ (dieLinks d).any s.ledgerLive = true then
      (if (s.fenceOf d).auto = false then 4 else if ∀ x ∈ (s.fenceOf d).causes, x = c then 2 else 1) else s.dieState d := by
  let u := s.setFence d { s.fenceOf d with causes := (s.fenceOf d).causes.filter (· != c) }
  have hclear : s.clearCause d c = u.advanceDie d := rfl
  have hfence : u.fenceOf d = { s.fenceOf d with causes := (s.fenceOf d).causes.filter (· != c) } := s.fenceOf_setFence ..
  have hregs : u.regs = s.regs := rfl
  have hpower : u.power = s.power := rfl
  have hset (x : Nat) : (u.setF DIE_STATE_STATE 0 d x).dieState d = x % 8 := State.getF_setF u DIE_STATE_STATE 0 d x rfl
  clear_value u
  have hstate : u.dieState d = s.dieState d := State.getF_of_regs hregs ..
  have hlive : u.ledgerLive = s.ledgerLive := funext fun l => by rw [State.ledgerLive, State.ledgerLive, State.getF_of_regs hregs]
  have hempty : ((s.fenceOf d).causes.filter (· != c)).isEmpty = true ↔ ∀ x ∈ (s.fenceOf d).causes, x = c := by
    simp [List.isEmpty_iff]
  rw [hclear]
  unfold State.advanceDie
  rw [hpower, hstate, hlive, hfence]
  by_cases hgo : s.power.stopped = none ∧ s.dieState d = 1 ∧ (dieLinks d).any s.ledgerLive = true
  · rw [if_pos hgo, if_neg (by simp [hgo])]
    dsimp only
    by_cases ha : (s.fenceOf d).auto = false
    · rw [if_pos ha, if_pos (by simp [ha]), hset]
    · rw [if_neg ha, if_neg (by simpa using ha)]
      by_cases hc : ∀ x ∈ (s.fenceOf d).causes, x = c
      · rw [if_pos hc, if_pos (hempty.mpr hc), hset]
      · rw [if_neg hc, if_neg fun h => hc (hempty.mp h), hstate]
        exact hgo.2.1
  · rw [if_neg hgo, if_pos ?_, hstate]
    by_contra hn
    push Not at hn
    exact hgo ⟨by simpa using hn.1, hn.2.1, by simpa using hn.2.2⟩

theorem clockStable_completes (h : 2 ∈ (s.fenceOf d).causes) : Completes (.clockStableExpiry d) s fun t =>
    (t.fenceOf d).causes = (s.fenceOf d).causes.filter (· != 2) ∧
    t.dieState d = (if s.power.stopped = none ∧ s.dieState d = 1 ∧ (dieLinks d).any s.ledgerLive = true then
      (if (s.fenceOf d).auto = false then 4 else if ∀ c ∈ (s.fenceOf d).causes, c = 2 then 2 else 1) else s.dieState d) :=
  ⟨s.clearCause d 2, if_pos (List.contains_iff_mem.mpr h), s.clearCause_fence d 2, s.clearCause_state d 2⟩

end

/-! ### Start-up (R424, Table 16.6) -/

/-- A link of a die that starts up: DOWN where the ledger has nothing, else to training where its other die runs or restores too. -/
def State.startLink (d : Nat) (u : State) (l : Nat) : State :=
  if !u.ledgerLive l then u.setF SADDLE_STATUS_STATE 0 l 2
  else if u.dieState (otherEnd l d) = 0 ∨ u.dieState (otherEnd l d) = 3 then u.trainLink l else u

/-- The state of a link that its die's start-up leaves. -/
def State.startState (s : State) (d l : Nat) : Nat :=
  if s.ledgerLive l = false then 2 else if s.dieState (otherEnd l d) = 0 ∨ s.dieState (otherEnd l d) = 3 then 1
  else s.getF SADDLE_STATUS_STATE 0 l

theorem State.startLink_spec (s : State) (d l : Nat) :
    (∀ f i, i < 4 → f.reg = SADDLE_LEDGER ∨ f.reg = DIE_STATE ∨ f.reg = COL_STATUS → (s.startLink d l).getF f 0 i = s.getF f 0 i) ∧
    (s.startLink d l).getF SADDLE_STATUS_STATE 0 l = s.startState d l ∧
    (∀ k, k ≠ l → (s.startLink d l).getF SADDLE_STATUS_STATE 0 k = s.getF SADDLE_STATUS_STATE 0 k) ∧ (s.startLink d l).mem = s.mem := by
  have hset (x : Nat) : (∀ f i, i < 4 → f.reg = SADDLE_LEDGER ∨ f.reg = DIE_STATE ∨ f.reg = COL_STATUS →
      (s.setF SADDLE_STATUS_STATE 0 l x).getF f 0 i = s.getF f 0 i) ∧
      (s.setF SADDLE_STATUS_STATE 0 l x).getF SADDLE_STATUS_STATE 0 l = x % 8 ∧
      (∀ k, k ≠ l → (s.setF SADDLE_STATUS_STATE 0 l x).getF SADDLE_STATUS_STATE 0 k = s.getF SADDLE_STATUS_STATE 0 k) ∧
      (s.setF SADDLE_STATUS_STATE 0 l x).mem = s.mem := by
    refine ⟨fun f i hi hf => State.getF_setF_ne s SADDLE_STATUS_STATE f 0 l 0 i x ?_, State.getF_setF s SADDLE_STATUS_STATE 0 l x rfl,
      fun k hk => State.getF_setF_ne s SADDLE_STATUS_STATE SADDLE_STATUS_STATE 0 l 0 k x fun h => hk (saddleStatus_inj h), State.setF_mem ..⟩
    obtain hf | hf | hf := hf <;> rw [hf] <;> simp [Reg.addr, SADDLE_LEDGER, DIE_STATE, COL_STATUS, SADDLE_STATUS_STATE, SADDLE_STATUS] <;> omega
  unfold State.startLink State.startState
  cases hlive : s.ledgerLive l with
  | false => exact hset 2
  | true =>
    rw [if_neg (show ¬ (!true) = true by decide), if_neg (show ¬ true = false by decide)]
    split
    · exact hset 1
    · exact ⟨fun _ _ _ _ => rfl, rfl, fun _ _ => rfl, rfl⟩

theorem State.startState_congr {s t : State} (h : ∀ f i, i < 4 → f.reg = SADDLE_LEDGER ∨ f.reg = DIE_STATE ∨ f.reg = COL_STATUS → t.getF f 0 i = s.getF f 0 i)
    {d l : Nat} (hl : l < 4) (ho : otherEnd l d < 4) (hs : t.getF SADDLE_STATUS_STATE 0 l = s.getF SADDLE_STATUS_STATE 0 l) :
    t.startState d l = s.startState d l := by
  unfold State.startState State.ledgerLive State.dieState
  rw [h _ _ hl (.inl rfl), h _ _ ho (.inr (.inl rfl)), hs]

theorem dieLinks_spec (d : Fin 4) : ∃ a b, dieLinks d = [a, b] ∧ a ≠ b ∧ a < 4 ∧ b < 4 ∧ otherEnd a d < 4 ∧ otherEnd b d < 4 ∧
    otherEnd a d ≠ d.val ∧ otherEnd b d ≠ d.val := by
  have hall : ∀ d : Fin 4, linkOf d (ringNext d) ≠ linkOf d (ringPrev d) ∧ linkOf d (ringNext d) < 4 ∧ linkOf d (ringPrev d) < 4 ∧
    otherEnd (linkOf d (ringNext d)) d < 4 ∧ otherEnd (linkOf d (ringPrev d)) d < 4 ∧ otherEnd (linkOf d (ringNext d)) d ≠ d.val ∧
    otherEnd (linkOf d (ringPrev d)) d ≠ d.val := by decide
  exact ⟨_, _, rfl, hall d⟩

/-- A die that has started up restores, its Col link trained (R433). -/
def State.dieStarted (s : State) (d : Nat) : State :=
  ((s.setF DIE_STATE_STATE 0 d 3).setF COL_STATUS_STATE 0 d 0).trainShells [(3, 2 * d), (3, 2 * d + 1)]

theorem State.dieStarted_spec (s : State) (d : Fin 4) :
    (s.dieStarted d).dieState d = 3 ∧ (s.dieStarted d).getF COL_STATUS_STATE 0 d = 0 ∧ (s.dieStarted d).mem = s.mem ∧
    (∀ k, k < 4 → k ≠ d.val → (s.dieStarted d).dieState k = s.dieState k) ∧
    ∀ f l, l < 4 → f.reg = SADDLE_LEDGER ∨ f.reg = SADDLE_STATUS → (s.dieStarted d).getF f 0 l = s.getF f 0 l := by
  have hd := d.isLt
  have hshells := ((s.setF DIE_STATE_STATE 0 d 3).setF COL_STATUS_STATE 0 d 0).trainShells_moves [(3, 2 * d.val), (3, 2 * d.val + 1)]
  have hregs : (s.dieStarted d).regs = ((s.setF DIE_STATE_STATE 0 d 3).setF COL_STATUS_STATE 0 d 0).regs := hshells.same .regs (by decide)
  have hmem : (s.dieStarted d).mem = ((s.setF DIE_STATE_STATE 0 d 3).setF COL_STATUS_STATE 0 d 0).mem := hshells.same .mem (by decide)
  generalize s.dieStarted d = t at hregs hmem ⊢
  refine ⟨?_, ?_, ?_, fun k hk hkd => ?_, fun f l hl hf => ?_⟩
  · rw [State.dieState, State.getF_of_regs hregs, State.getF_setF_ne _ COL_STATUS_STATE DIE_STATE_STATE 0 d 0 d 0
      (by simp [Reg.addr, COL_STATUS_STATE, COL_STATUS, DIE_STATE_STATE, DIE_STATE]), State.getF_setF s DIE_STATE_STATE 0 d 3 rfl]
    rfl
  · rw [State.getF_of_regs hregs, State.getF_setF _ COL_STATUS_STATE 0 d 0 rfl]
    rfl
  · rw [hmem, State.setF_mem, State.setF_mem]
  · rw [State.dieState, State.getF_of_regs hregs, State.getF_setF_ne _ COL_STATUS_STATE DIE_STATE_STATE 0 d 0 k 0
        (by simp [Reg.addr, COL_STATUS_STATE, COL_STATUS, DIE_STATE_STATE, DIE_STATE]; omega),
      State.getF_setF_ne s DIE_STATE_STATE DIE_STATE_STATE 0 d 0 k 3 fun h => hkd (dieState_inj h), State.dieState]
  · have hcol : f.reg.addr 0 l ≠ COL_STATUS_STATE.reg.addr 0 d := by
      obtain hf | hf := hf <;> rw [hf] <;> simp [Reg.addr, SADDLE_LEDGER, SADDLE_STATUS, COL_STATUS_STATE, COL_STATUS] <;> omega
    have hdie : f.reg.addr 0 l ≠ DIE_STATE_STATE.reg.addr 0 d := by
      obtain hf | hf := hf <;> rw [hf] <;> simp [Reg.addr, SADDLE_LEDGER, SADDLE_STATUS, DIE_STATE_STATE, DIE_STATE] <;> omega
    rw [State.getF_of_regs hregs, State.getF_setF_ne _ COL_STATUS_STATE f 0 d 0 l 0 hcol, State.getF_setF_ne s DIE_STATE_STATE f 0 d 0 l 3 hdie]

theorem dieStartup_completes {d : Fin 4} {s : State} (h : s.dieState d = 2) : Completes (.dieStartupDone d) s fun t =>
    t.dieState d = 3 ∧ t.getF COL_STATUS_STATE 0 d = 0 ∧ t.mem = s.mem ∧
    ∀ l ∈ dieLinks d, t.getF SADDLE_STATUS_STATE 0 l =
      if s.ledgerLive l = false then 2 else if s.dieState (otherEnd l d) = 0 ∨ s.dieState (otherEnd l d) = 3 then 1
      else s.getF SADDLE_STATUS_STATE 0 l := by
  have hexec : exec (.dieStartupDone d) s = .next ((dieLinks d).foldl (State.startLink d) (s.dieStarted d)).noteHealth := if_neg (not_not_intro h)
  obtain ⟨a, b, hlinks, hab, ha, hb, hoa, hob, hna, hnb⟩ := dieLinks_spec d
  rw [hlinks, List.foldl_cons, List.foldl_cons, List.foldl_nil] at hexec
  obtain ⟨hdie, hcol, hmem, hothers, hsaddle⟩ := s.dieStarted_spec d
  have hstart (l : Nat) (hl : l < 4) (ho : otherEnd l d < 4) (hn : otherEnd l d ≠ d.val) : (s.dieStarted d).startState d l = s.startState d l := by
    unfold State.startState State.ledgerLive
    rw [hothers _ ho hn, hsaddle _ _ hl (.inl rfl), hsaddle _ _ hl (.inr rfl)]
  generalize s.dieStarted d = u at hexec hdie hcol hmem hstart
  obtain ⟨hu, hus, huo, hum⟩ := u.startLink_spec d a
  generalize u.startLink d a = v at hexec hu hus huo hum
  obtain ⟨hv, hvs, hvo, hvm⟩ := v.startLink_spec d b
  generalize v.startLink d b = w at hexec hv hvs hvo hvm
  have hhealth := w.noteHealth_moves
  have hregs : w.noteHealth.regs = w.regs := hhealth.same .regs (by decide)
  have hwmem : w.noteHealth.mem = w.mem := hhealth.same .mem (by decide)
  generalize w.noteHealth = t at hexec hregs hwmem
  have hd := d.isLt
  refine ⟨t, hexec, ?_, ?_, ?_, fun l hl => ?_⟩
  · rw [State.dieState, State.getF_of_regs hregs, hv _ _ hd (.inr (.inl rfl)), hu _ _ hd (.inr (.inl rfl))]
    exact hdie
  · rw [State.getF_of_regs hregs, hv _ _ hd (.inr (.inr rfl)), hu _ _ hd (.inr (.inr rfl)), hcol]
  · rw [hwmem, hvm, hum, hmem]
  · rw [State.getF_of_regs hregs]
    show _ = s.startState d l
    rw [hlinks] at hl
    simp only [List.mem_cons, List.not_mem_nil, or_false] at hl
    obtain rfl | rfl := hl
    · rw [hvo _ hab, hus, hstart _ ha hoa hna]
    · rw [hvs, State.startState_congr hu hb hob (huo _ hab.symm), hstart _ hb hob hnb]

/-! ### The return (R434) -/

/-- Addresses behind the memory's views name themselves. -/
theorem memKey_self {a : Nat} (h : 0x10C000000000 ≤ a) : memKey a = a := by
  unfold memKey
  exact if_neg (by omega)

theorem flagWordAddr_ge (d f : Nat) : 0x10C000000000 ≤ flagWordAddr d f := by
  unfold flagWordAddr
  omega

theorem State.readN_writeN_ne (s : State) {a b : Nat} (ha : 0x10C000000000 ≤ a) (hb : 0x10C000000000 ≤ b) (h : a + 8 ≤ b ∨ b + 8 ≤ a) (x : Nat) :
    (s.writeN a 8 x).readN b 8 = s.readN b 8 := by
  have hsame : ∀ i ∈ rangeFrom b 8, (s.write a (leBytes 8 x)).byte i = s.byte i := fun i hi => by
    obtain ⟨j, hj, rfl⟩ : ∃ j < 8, b + j = i := by simpa [rangeFrom] using hi
    refine State.byte_write_ne _ _ _ _ fun k hk => ?_
    rw [leBytes_length] at hk
    rw [memKey_self (by omega), memKey_self (by omega)]
    omega
  rw [State.readN, State.readN, State.writeN, State.bytes, State.bytes, List.map_congr_left hsame]

theorem State.gate_congr {s t : State} (h : t.cor = s.cor) (g : Nat) : t.gateFlag g = s.gateFlag g ∧ t.gateValue g = s.gateValue g := by
  rw [State.gateFlag, State.gateFlag, State.corSet, State.corSet, State.gateValue, State.gateValue, h]
  exact ⟨rfl, rfl⟩

/-- The gate words show the gates' values (R332). -/
theorem State.foldl_showGate (s : State) (d n : Nat) :
    ((List.range n).foldl (fun u g => u.writeN (flagWordAddr d (u.gateFlag g)) 8 (u.gateValue g)) s).cor = s.cor ∧
    ∀ g, g < n → ((List.range n).foldl (fun u g => u.writeN (flagWordAddr d (u.gateFlag g)) 8 (u.gateValue g)) s).readN
      (flagWordAddr d (s.gateFlag g)) 8 = s.gateValue g % 2 ^ 64 := by
  induction n with
  | zero => exact ⟨rfl, nofun⟩
  | succ n ih =>
    rw [List.range_succ, List.foldl_append, List.foldl_cons, List.foldl_nil]
    generalize (List.range n).foldl (fun u g => u.writeN (flagWordAddr d (u.gateFlag g)) 8 (u.gateValue g)) s = u at ih ⊢
    obtain ⟨hcor, hwords⟩ := ih
    obtain ⟨hflag, hvalue⟩ := State.gate_congr hcor n
    refine ⟨Eq.trans ((State.writeN_moves ..).same .cor (by decide)) hcor, fun g hg => ?_⟩
    rw [hflag, hvalue]
    by_cases hgn : g = n
    · rw [hgn]
      exact State.readN_writeN _ _ 8 _ (by unfold flagWordAddr; omega)
    · rw [State.readN_writeN_ne _ (flagWordAddr_ge ..) (flagWordAddr_ge ..) (by unfold flagWordAddr State.gateFlag; omega)]
      exact hwords g (by omega)

theorem State.enterPos_spec (s : State) (d : Nat) :
    (∀ (q : Reg) (e i : Nat), q.addr e i ≠ LOCAL_POS.addr d 0 → q.addr e i ≠ AHEAD_POS.addr d 0 →
      (s.enterPos d).reg q e i = s.reg q e i) ∧
    (s.enterPos d).aheadPos d = 0 ∧ (s.enterPos d).localPos d = contourAt (stepOfValue (s.contourOf d)) 0 % 2 ^ 64 := by
  let u := s.setReg LOCAL_POS d 0 (BitVec.ofNat 64 (contourAt (stepOfValue (s.contourOf d)) 0))
  have hlocal : u.reg LOCAL_POS d 0 = BitVec.ofNat 64 (contourAt (stepOfValue (s.contourOf d)) 0) := State.reg_setReg ..
  have hu (q : Reg) (e i : Nat) (h : q.addr e i ≠ LOCAL_POS.addr d 0) : u.reg q e i = s.reg q e i := State.reg_setReg_ne _ _ _ _ _ _ _ _ h
  have heq : (s.enterPos d).regs = (u.setReg AHEAD_POS d 0 0).regs := rfl
  have hreg (q : Reg) (e i : Nat) : (s.enterPos d).reg q e i = (u.setReg AHEAD_POS d 0 0).reg q e i := by rw [State.reg, State.reg, heq]
  clear_value u
  refine ⟨fun q e i h1 h2 => ?_, ?_, ?_⟩
  · rw [hreg, State.reg_setReg_ne _ _ _ _ _ _ _ _ h2, hu _ _ _ h1]
  · rw [State.aheadPos, hreg, State.reg_setReg]
    rfl
  · rw [State.localPos, hreg, State.reg_setReg_ne u AHEAD_POS LOCAL_POS d 0 d 0 0 (by simp [Reg.addr, AHEAD_POS, LOCAL_POS]), hlocal,
      BitVec.toNat_ofNat]

/-- A die enters the package again (R434). -/
theorem State.rejoinEnter_spec (s : State) (d : Fin 4) :
    (s.rejoinEnter d).dieState d = 0 ∧ (s.rejoinEnter d).getF TRAIL_STATUS_GEN d 0 = s.fabric.gen % 2 ^ 32 ∧ (s.rejoinEnter d).aheadPos d = 0 ∧
    (s.rejoinEnter d).localPos d = contourAt (stepOfValue (s.contourOf d)) 0 % 2 ^ 64 ∧
    ∀ g, g < 256 → (s.rejoinEnter d).readN (flagWordAddr d (s.gateFlag g)) 8 = s.gateValue g % 2 ^ 64 := by
  have hd := d.isLt
  let a := s.setF DIE_STATE_STATE 0 d 0
  let b := a.setF TRAIL_STATUS_GEN d 0 a.fabric.gen
  have hab : a.fabric = s.fabric := State.setF_fabric ..
  have hgen : b.getF TRAIL_STATUS_GEN d 0 = s.fabric.gen % 2 ^ 32 := by
    show (a.setF TRAIL_STATUS_GEN d 0 a.fabric.gen).getF TRAIL_STATUS_GEN d 0 = _
    rw [State.getF_setF a TRAIL_STATUS_GEN d 0 _ rfl, hab]
    rfl
  have hstate : b.getF DIE_STATE_STATE 0 d = 0 := by
    show ((s.setF DIE_STATE_STATE 0 d 0).setF TRAIL_STATUS_GEN d 0 a.fabric.gen).getF DIE_STATE_STATE 0 d = _
    rw [State.getF_setF_ne _ TRAIL_STATUS_GEN DIE_STATE_STATE d 0 0 d _
      (by simp [Reg.addr, TRAIL_STATUS_GEN, TRAIL_STATUS, DIE_STATE_STATE, DIE_STATE]; omega), State.getF_setF s DIE_STATE_STATE 0 d 0 rfl]
    rfl
  have hcontour : b.contourOf d = s.contourOf d := by
    show (((s.setF DIE_STATE_STATE 0 d 0).setF TRAIL_STATUS_GEN d 0 a.fabric.gen).reg CONTOUR_VALUE d 0).toNat = _
    rw [State.setF, State.reg_setReg_ne _ TRAIL_STATUS_GEN.reg CONTOUR_VALUE d 0 d 0 _ (by simp [Reg.addr, TRAIL_STATUS_GEN, TRAIL_STATUS, CONTOUR_VALUE]),
      State.setF, State.reg_setReg_ne _ DIE_STATE_STATE.reg CONTOUR_VALUE 0 d d 0 _
        (by simp [Reg.addr, DIE_STATE_STATE, DIE_STATE, CONTOUR_VALUE]; omega), State.contourOf]
  have hcor : b.cor = s.cor := Eq.trans (State.setF_cor ..) (State.setF_cor ..)
  obtain ⟨hsame, hahead, hlocal⟩ := b.enterPos_spec d
  rw [hcontour] at hlocal
  have hpos := b.enterPos_moves d
  have hpcor : (b.enterPos d).cor = b.cor := hpos.same .cor (by decide)
  have hshow : ∃ f, s.rejoinEnter d = ((b.enterPos d).setContour f).showGates d := ⟨_, rfl⟩
  obtain ⟨f, hshow⟩ := hshow
  have hb0 : (b.enterPos d).getF DIE_STATE_STATE 0 d = 0 := by
    rw [State.getF, hsame _ _ _ (by simp [Reg.addr, DIE_STATE_STATE, DIE_STATE, LOCAL_POS]; omega)
      (by simp [Reg.addr, DIE_STATE_STATE, DIE_STATE, AHEAD_POS]; omega)]
    exact hstate
  have hbgen : (b.enterPos d).getF TRAIL_STATUS_GEN d 0 = s.fabric.gen % 2 ^ 32 := by
    rw [State.getF, hsame _ _ _ (by simp [Reg.addr, TRAIL_STATUS_GEN, TRAIL_STATUS, LOCAL_POS])
      (by simp [Reg.addr, TRAIL_STATUS_GEN, TRAIL_STATUS, AHEAD_POS])]
    exact hgen
  generalize b.enterPos d = u at hahead hlocal hpcor hshow hb0 hbgen
  have hvregs : (u.setContour f).regs = u.regs := rfl
  have hvcor : (u.setContour f).cor = s.cor := (State.setContour_cor ..).trans (hpcor.trans hcor)
  generalize u.setContour f = v at hshow hvregs hvcor
  have hgates := v.showGates_moves d
  have hregs : (v.showGates d).regs = u.regs := Eq.trans (hgates.same .regs (by decide)) hvregs
  have hwords := (v.foldl_showGate d 256).2
  have hreg (q : Reg) : (v.showGates d).reg q d 0 = u.reg q d 0 := by rw [State.reg, State.reg, hregs]
  rw [hshow]
  refine ⟨?_, ?_, ?_, ?_, fun g hg => ?_⟩
  · rw [State.dieState, State.getF_of_regs hregs, hb0]
  · rw [State.getF_of_regs hregs, hbgen]
  · rw [State.aheadPos, hreg]
    exact hahead
  · rw [State.localPos, hreg]
    exact hlocal
  · have hw := hwords g hg
    rw [(State.gate_congr hvcor g).1, (State.gate_congr hvcor g).2] at hw
    exact hw

/-- Settles O48: a fence marks its die and takes its work, a low-power state holds it, and the die comes back once its causes are gone. -/
theorem dieFenceAndReturn : Obligations.DieFenceAndReturn := by
  unfold Obligations.DieFenceAndReturn
  refine fun d s => ⟨fun h0 hs hi p hp => ?_, fun dies p q hq hi hp => ?_, fun h0 hi => ⟨fun dies h => ?_, fun k hk hne hr hd dies hm => ?_⟩,
    fun dies => rejoin_completes dies s, clockStable_completes, fun h => ?_, dieStartup_completes, fun h hs refused => ?_⟩
  · obtain ⟨hexec, hc⟩ := exec_dieFence h0 hs hi hp
    refine ⟨fun h1 h4 => ?_, fun hr => ?_, fun h => ?_⟩
    · rw [State.fence_fresh h1 h4] at hexec
      exact ⟨_, hexec, s.fenceMark_spec d hc⟩
    · have hstate := State.dieRunning_state hr
      rw [State.fence_fresh (by omega) (by omega), if_pos hr] at hexec
      exact ⟨_, hexec, State.resetDie_bare _ d⟩
    · rw [State.fence, State.fenceOne_more h] at hexec
      exact ⟨_, hexec, s.addCause_spec d _ hc (mem_causes ..)⟩
  · simp only [List.mem_cons, List.not_mem_nil, or_false] at hq
    obtain rfl | rfl | rfl | rfl := hq <;> exact ⟨_, rfl, State.gateReset_holds hi hp ..⟩
  · rw [exec_dieReset h0 hi, State.dieReset_refused h]
  · rw [exec_dieReset h0 hi, hm, State.dieReset_one hd hk hne hr]
  · exact if_neg fun hc => h (List.contains_iff_mem.mp hc)
  · exact ⟨s.rejoinEnter d, if_neg (by simp [h, hs]), s.rejoinEnter_spec d⟩

end Sys2Proof.Machine
end

