-- ==== Sys2Proof/Proofs/LowPower.lean ====
section
/-!
PROOFS. Bivouac and Refuge: entry, exit and resume (R44, R457 to R463, R466).
-/
namespace Sys2Proof.Machine

open Sys2Proof

/-! ### Stacks in self-refresh (Table 6.4) -/

theorem stackAddr_inj {k t : Nat} (h : STACK_STATE.addr (k / 3) (k % 3) = STACK_STATE.addr (t / 3) (t % 3)) : k = t := by
  simp [Reg.addr, STACK_STATE] at h
  omega

theorem State.stackState_setStkF (s : State) (t x : Nat) :
    (s.setStkF STACK_STATE_STATE t x).stackState t = x % 8 ∧ ∀ k, k ≠ t → (s.setStkF STACK_STATE_STATE t x).stackState k = s.stackState k :=
  ⟨State.getF_setF s STACK_STATE_STATE (t / 3) (t % 3) x rfl,
    fun _ hne => State.getF_setF_ne s STACK_STATE_STATE STACK_STATE_STATE _ _ _ _ x fun h => hne (stackAddr_inj h)⟩

theorem State.stackState_of_regs {s t : State} (h : t.regs = s.regs) (k : Nat) : t.stackState k = s.stackState k := State.getF_of_regs h ..

/-- A change of one stack at a time: stack t goes from state x to g t x. -/
def EachStack (f : State → Nat → State) (g : Nat → Nat → Nat) : Prop :=
  ∀ u t, (f u t).stackState t = g t (u.stackState t) ∧ ∀ k, k ≠ t → (f u t).stackState k = u.stackState k

theorem EachStack.foldl {f : State → Nat → State} {g : Nat → Nat → Nat} (h : EachStack f g) (n : Nat) (s : State) (k : Nat) :
    ((List.range n).foldl f s).stackState k = if k < n then g k (s.stackState k) else s.stackState k := by
  induction n with
  | zero => rfl
  | succ n ih =>
    rw [List.range_succ, List.foldl_append, List.foldl_cons, List.foldl_nil]
    obtain ⟨hn1, hn2⟩ := h ((List.range n).foldl f s) n
    by_cases hkn : k = n
    · rw [hkn] at ih ⊢
      rw [hn1, ih, if_neg (by omega), if_pos (by omega)]
    · rw [hn2 k hkn, ih]
      by_cases hlt : k < n
      · rw [if_pos hlt, if_pos (by omega)]
      · rw [if_neg hlt, if_neg (by omega)]

theorem selfRefresh_each : EachStack State.selfRefresh fun _ x => if x = 2 then 3 else x := by
  intro u t
  dsimp only
  unfold State.selfRefresh
  split
  · next h =>
    have hregs : ((u.setStkF STACK_STATE_STATE t 3).shellSave 4 t).regs = (u.setStkF STACK_STATE_STATE t 3).regs := rfl
    obtain ⟨h1, h2⟩ := u.stackState_setStkF t 3
    exact ⟨(State.stackState_of_regs hregs t).trans h1, fun k hne => (State.stackState_of_regs hregs k).trans (h2 k hne)⟩
  · exact ⟨rfl, fun _ _ => rfl⟩

theorem leaveRefresh_each (refused : Nat → Bool) :
    EachStack (fun v k => v.leaveRefresh k (refused k)) fun k x => if x = 3 then (if refused k then 1 else 2) else x := by
  intro u t
  dsimp only
  unfold State.leaveRefresh
  split
  · cases hr : refused t with
    | true =>
      obtain ⟨h1, h2⟩ := u.stackState_setStkF t 1
      have hregs : (((u.setStkF STACK_STATE_STATE t 1).setStack t { u.stack t with training := .restoreRefused }).shellRefuse 4 t).regs =
        (u.setStkF STACK_STATE_STATE t 1).regs := rfl
      rw [if_pos rfl, if_pos rfl]
      exact ⟨(State.stackState_of_regs hregs t).trans h1, fun k hne => (State.stackState_of_regs hregs k).trans (h2 k hne)⟩
    | false =>
      have hregs : (u.shellRestore 4 t).regs = u.regs := rfl
      rw [if_neg Bool.false_ne_true, if_neg Bool.false_ne_true]
      generalize u.shellRestore 4 t = v at hregs ⊢
      obtain ⟨h1, h2⟩ := v.stackState_setStkF t 2
      exact ⟨h1, fun k hne => (h2 k hne).trans (State.stackState_of_regs hregs k)⟩
  · exact ⟨rfl, fun _ _ => rfl⟩

/-- The registers that are no stack's state stay. -/
def StackRegsOnly (s t : State) : Prop :=
  ∀ (q : Reg) (e i : Nat), (∀ k, k < 12 → q.addr e i ≠ STACK_STATE.addr (k / 3) (k % 3)) → t.reg q e i = s.reg q e i

theorem State.foldl_selfRefresh_regs (l : List Nat) (hl : ∀ k ∈ l, k < 12) (s : State) : StackRegsOnly s (l.foldl State.selfRefresh s) := by
  induction l generalizing s with
  | nil => exact fun _ _ _ _ => rfl
  | cons k l ih =>
    refine fun q e i h => (ih (fun j hj => hl j (by simp [hj])) (s.selfRefresh k) q e i h).trans ?_
    unfold State.selfRefresh
    split
    · exact State.reg_setReg_ne s STACK_STATE q _ _ e i _ (h k (hl k (by simp)))
    · rfl

theorem State.refreshStacks_regs (s : State) : StackRegsOnly s s.refreshStacks :=
  State.foldl_selfRefresh_regs _ (fun _ hk => List.mem_range.mp hk) s

theorem StackRegsOnly.getF {s t : State} (h : StackRegsOnly s t) (f : Fld) (d i : Nat)
    (hf : ∀ k, k < 12 → f.reg.addr d i ≠ STACK_STATE.addr (k / 3) (k % 3)) : t.getF f d i = s.getF f d i := by
  rw [State.getF, State.getF, h _ _ _ hf]

/-! ### The commands (R458, R461, R466) -/

section
variable {s : State}

theorem State.powerState_set (s : State) (x : Nat) : (s.setF STATE_STATUS_STATE 0 0 x).powerState = x % 8 :=
  State.getF_setF s STATE_STATUS_STATE 0 0 x rfl

theorem sleep_refused (h : s.sleepRefused = true) {p : Instr × Nat} (hp : p ∈ [(Instr.bivouac, 1), (Instr.refuge, 4)]) :
    exec p.1 s = .next (s.setF STATE_BLK_STATUS_CMD_ERR 0 0 1) := by
  simp only [List.mem_cons, List.not_mem_nil, or_false] at hp
  obtain rfl | rfl := hp
  · exact congrArg Host.Outcome.next (if_pos h)
  · exact congrArg Host.Outcome.next (if_pos h)

theorem sleep_begins (h : s.sleepRefused = false) {p : Instr × Nat} (hp : p ∈ [(Instr.bivouac, 1), (Instr.refuge, 4)]) :
    Completes p.1 s fun t => t.powerState = p.2 ∧ t.mem = s.mem ∧ t.cores = s.cores ∧ (p.2 = 1 → t.low.expert = s.reg STATE_EXPERT 0 0) := by
  have hn : ¬ s.sleepRefused = true := by simp [h]
  simp only [List.mem_cons, List.not_mem_nil, or_false] at hp
  obtain rfl | rfl := hp
  · exact ⟨_, congrArg Host.Outcome.next (if_neg hn), State.powerState_set .., State.setF_mem .., State.setF_cores .., fun _ => rfl⟩
  · exact ⟨_, congrArg Host.Outcome.next (if_neg hn), State.powerState_set .., State.setF_mem .., State.setF_cores .., fun h => by cases h⟩

theorem entryDone_early {p : Instr × Nat} (hp : p ∈ [(Instr.bivouacEntryDone, 1), (Instr.refugeEntryDone, 4)])
    (h : s.powerState ≠ p.2 ∨ s.pipesIdle = false) : exec p.1 s = .next s := by
  simp only [List.mem_cons, List.not_mem_nil, or_false] at hp
  obtain rfl | rfl := hp
  · exact if_pos (by simpa using h)
  · exact if_pos (by simpa using h)

theorem wake_awake (h : s.powerState = 0) : exec .wake s = .next (s.setF STATE_BLK_STATUS_CMD_ERR 0 0 1) :=
  congrArg Host.Outcome.next (if_pos (beq_iff_eq.mpr h))

theorem exec_wake (h : s.powerState ≠ 0) : exec .wake s = .next s.wake :=
  congrArg Host.Outcome.next (if_neg fun hb => h (beq_iff_eq.mp hb))

theorem wake_entry (h : s.powerState = 1 ∨ s.powerState = 4) : CompletesThen .wake s State.takeOrders fun u =>
    u.powerState = 0 ∧ u.mem = s.mem ∧ u.cores = s.cores ∧ u.low = s.low := by
  have hwake : s.wake = (s.setF STATE_STATUS_STATE 0 0 0).takeOrders := by
    unfold State.wake
    obtain h | h := h <;> (rw [h]; rfl)
  refine ⟨s.setF STATE_STATUS_STATE 0 0 0, ?_, State.powerState_set .., State.setF_mem .., State.setF_cores .., State.setF_low ..⟩
  rw [exec_wake (by omega), hwake]

theorem wake_bivouac (h : s.powerState = 2) : exec .wake s = .next (s.setF STATE_STATUS_STATE 0 0 3) := by
  rw [exec_wake (by omega), State.wake, h]
  rfl

theorem wake_refuge (h : s.powerState = 5) : exec .wake s = .next (s.setF STATE_STATUS_STATE 0 0 6) := by
  rw [exec_wake (by omega), State.wake, h]
  rfl

end

/-! ### Entry into Bivouac (R458 to R460) -/

/-- An entry of the event tables is past its threshold. -/
def State.anyPast (s : State) : Bool := (List.range 4).any fun d => (List.range 256).any fun e => s.entryPast d e

theorem State.anyPast_congr {s t : State} (hc : ∀ d e, d < 4 → e < 256 → t.reg EVENT_CTRL d e = s.reg EVENT_CTRL d e)
    (ht : ∀ d e, d < 4 → e < 256 → t.reg THRESHOLD d e = s.reg THRESHOLD d e)
    (hv : ∀ d, d < 4 → t.reg CONTOUR_VALUE d 0 = s.reg CONTOUR_VALUE d 0) : t.anyPast = s.anyPast := by
  unfold State.anyPast
  rw [Bool.eq_iff_iff]
  simp only [List.any_eq_true, List.mem_range]
  refine exists_congr fun d => and_congr_right fun hd => exists_congr fun e => and_congr_right fun he => ?_
  unfold State.entryPast
  rw [hc d e hd he, ht d e hd he, hv d hd]

/-- The package in Bivouac, before what may end it at once. -/
def State.inBivouac (s : State) : State := (s.refreshStacks.satF STATE_STATUS_BIVOUACS 0 0 1).setF STATE_STATUS_STATE 0 0 2

theorem stateStatus_ne (q : Reg) (e i : Nat) (h : q.addr e i < 0x5020 ∨ 0x5028 ≤ q.addr e i) : q.addr e i ≠ STATE_STATUS.addr 0 0 := by
  simp [Reg.addr, STATE_STATUS] at h ⊢
  omega

theorem State.inBivouac_reg (s : State) (q : Reg) (e i : Nat) (hs : q.addr e i ≠ STATE_STATUS.addr 0 0)
    (hk : ∀ k, k < 12 → q.addr e i ≠ STACK_STATE.addr (k / 3) (k % 3)) : s.inBivouac.reg q e i = s.reg q e i :=
  (State.reg_setReg_ne _ STATE_STATUS q 0 0 e i _ hs).trans ((State.reg_setReg_ne _ STATE_STATUS q 0 0 e i _ hs).trans (s.refreshStacks_regs q e i hk))

theorem State.inBivouac_spec (s : State) : s.inBivouac.powerState = 2 ∧ s.inBivouac.job = s.job ∧ s.inBivouac.anyPast = s.anyPast ∧
    s.inBivouac.getF STATE_STATUS_BIVOUACS 0 0 = min 65535 (s.getF STATE_STATUS_BIVOUACS 0 0 + 1) ∧
    (∀ k, k < 12 → s.inBivouac.stackState k = if s.stackState k = 2 then 3 else s.stackState k) ∧
    s.inBivouac.low = s.low ∧ s.inBivouac.mem = s.mem ∧ s.inBivouac.cores = s.cores := by
  have hmoves : Moves 0x408 s s.inBivouac :=
    (State.setF_moves ..).step (by decide) ((State.satF_moves ..).step (by decide) s.refreshStacks_moves)
  refine ⟨State.powerState_set .., ?_, ?_, ?_, fun k hk => ?_, hmoves.same .low (by decide), hmoves.same .mem (by decide),
    hmoves.same .cores (by decide)⟩
  · rw [State.job, State.getF, s.inBivouac_reg _ _ _ (by decide) fun k hk => by simp [Reg.addr, MEMBER_STATE_JOB, MEMBER_STATE, STACK_STATE]; omega]
    rfl
  · refine State.anyPast_congr (fun d e _ _ => ?_) (fun d e _ _ => ?_) fun d _ => ?_
    · exact s.inBivouac_reg _ _ _ (by simp [Reg.addr, EVENT_CTRL, STATE_STATUS]; omega) fun k hk => by simp [Reg.addr, EVENT_CTRL, STACK_STATE]; omega
    · exact s.inBivouac_reg _ _ _ (by simp [Reg.addr, THRESHOLD, STATE_STATUS]; omega) fun k hk => by simp [Reg.addr, THRESHOLD, STACK_STATE]; omega
    · exact s.inBivouac_reg _ _ _ (by simp [Reg.addr, CONTOUR_VALUE, STATE_STATUS]; omega) fun k hk => by
        simp [Reg.addr, CONTOUR_VALUE, STACK_STATE]
        omega
  · rw [State.inBivouac, State.getF_setF_apart _ STATE_STATUS_STATE STATE_STATUS_BIVOUACS 0 0 2 rfl rfl rfl rfl,
      State.getF_satF _ STATE_STATUS_BIVOUACS 0 0 1 rfl,
      s.refreshStacks_regs.getF STATE_STATUS_BIVOUACS 0 0 fun k hk => by simp [Reg.addr, STATE_STATUS_BIVOUACS, STATE_STATUS, STACK_STATE]; omega]
    rfl
  · have hne (f : Fld) (x : Nat) (u : State) (hf : f.reg = STATE_STATUS) : (u.setF f 0 0 x).stackState k = u.stackState k := by
      refine State.getF_setF_ne u f STACK_STATE_STATE 0 0 _ _ x ?_
      rw [hf]
      simp [Reg.addr, STATE_STATUS, STACK_STATE_STATE, STACK_STATE]
      omega
    have hstack := selfRefresh_each.foldl 12 s k
    rw [if_pos hk] at hstack
    exact (hne _ _ _ rfl).trans ((hne _ _ _ rfl).trans hstack)

/-- A package in Bivouac leaves it where an entry is due in its job, or an order of the cornice is held (R460). -/
theorem State.leaveAtOnce_spec {u : State} (h2 : u.powerState = 2) :
    (if u.wakeByEntry.low.orders.any HeldOrder.wakes then u.wakeByEntry.wakeByOrder else u.wakeByEntry) = u ∧
      ¬ ((u.job ≠ 0 ∧ u.anyPast = true) ∨ u.low.orders.any HeldOrder.wakes = true) ∨
    (if u.wakeByEntry.low.orders.any HeldOrder.wakes then u.wakeByEntry.wakeByOrder else u.wakeByEntry) = u.setF STATE_STATUS_STATE 0 0 3 ∧
      ((u.job ≠ 0 ∧ u.anyPast = true) ∨ u.low.orders.any HeldOrder.wakes = true) := by
  have h2' : u.getF STATE_STATUS_STATE 0 0 = 2 := h2
  have hentry : u.wakeByEntry = if u.job ≠ 0 ∧ u.anyPast = true then u.setF STATE_STATUS_STATE 0 0 3 else u := by
    unfold State.wakeByEntry
    by_cases hd : u.job ≠ 0 ∧ u.anyPast = true
    · rw [if_pos hd]
      exact if_pos ⟨h2', hd⟩
    · rw [if_neg hd]
      exact if_neg fun h => hd h.2
  have horder (w : State) (h : w.getF STATE_STATUS_STATE 0 0 = 3) : w.wakeByOrder = w := if_neg (by omega)
  rw [hentry]
  by_cases hd : u.job ≠ 0 ∧ u.anyPast = true
  · rw [if_pos hd, horder _ (State.powerState_set u 3)]
    exact .inr ⟨ite_self _, .inl hd⟩
  · rw [if_neg hd]
    by_cases ho : u.low.orders.any HeldOrder.wakes = true
    · rw [if_pos ho]
      exact .inr ⟨if_pos h2', .inr ho⟩
    · rw [if_neg ho]
      exact .inl ⟨rfl, by tauto⟩

theorem State.anyPast_eq (s : State) : s.anyPast = (List.range 4).any fun d => (List.range 256).any fun e => s.entryPast d e := rfl

theorem bivouacEntry_completes {s : State} (h : s.powerState = 1) (hp : s.pipesIdle = true) : Completes .bivouacEntryDone s fun t =>
    t.powerState = (if (s.job ≠ 0 ∧ ((List.range 4).any fun d => (List.range 256).any fun e => s.entryPast d e) = true) ∨
      s.low.orders.any HeldOrder.wakes = true then 3 else 2) ∧ t.low = s.low ∧
    t.getF STATE_STATUS_BIVOUACS 0 0 = min 65535 (s.getF STATE_STATUS_BIVOUACS 0 0 + 1) ∧
    (∀ k, k < 12 → t.stackState k = if s.stackState k = 2 then 3 else s.stackState k) ∧ t.mem = s.mem ∧ t.cores = s.cores := by
  rw [← State.anyPast_eq]
  obtain ⟨hstate, hjob, hpast, hcount, hstacks, hlow, hmem, hcores⟩ := s.inBivouac_spec
  have hexec : exec .bivouacEntryDone s = .next (if s.inBivouac.wakeByEntry.low.orders.any HeldOrder.wakes
      then s.inBivouac.wakeByEntry.wakeByOrder else s.inBivouac.wakeByEntry) := by
    change execBivouacEntryDone s = _
    unfold execBivouacEntryDone
    rw [if_neg (by simp [h, hp]), ← State.inBivouac]
  have hleave := State.leaveAtOnce_spec hstate
  generalize s.inBivouac = u at hexec hstate hjob hpast hcount hstacks hlow hmem hcores hleave
  rw [hjob, hpast, hlow] at hleave
  generalize (if u.wakeByEntry.low.orders.any HeldOrder.wakes then u.wakeByEntry.wakeByOrder else u.wakeByEntry) = t at hexec hleave
  obtain ⟨rfl, hn⟩ | ⟨rfl, hy⟩ := hleave
  · rw [if_neg hn]
    exact ⟨t, hexec, hstate, hlow, hcount, hstacks, hmem, hcores⟩
  · rw [if_pos hy]
    have hset : (u.setF STATE_STATUS_STATE 0 0 3).powerState = 3 := State.powerState_set u 3
    refine ⟨u.setF STATE_STATUS_STATE 0 0 3, hexec, hset, ?_, ?_, fun k hk => ?_, ?_, ?_⟩
    · rw [State.setF_low, hlow]
    · rw [State.getF_setF_apart u STATE_STATUS_STATE STATE_STATUS_BIVOUACS 0 0 3 rfl rfl rfl rfl, hcount]
    · rw [← hstacks k hk]
      exact State.getF_setF_ne u STATE_STATUS_STATE STACK_STATE_STATE 0 0 _ _ 3 (by
        simp [Reg.addr, STATE_STATUS_STATE, STATE_STATUS, STACK_STATE_STATE, STACK_STATE]; omega)
    · rw [State.setF_mem, hmem]
    · rw [State.setF_cores, hcores]

/-! ### Exit from Bivouac (R44, R459, R460) -/

section
variable {s : State} (refused : List (Fin 12))

theorem exec_bivouacExit (h : s.powerState = 3) : exec (.bivouacExitDone refused) s =
    .next ((List.range 12).foldl (fun v k => v.leaveRefresh k (refused.any fun x => x.val == k))
      (s.setF STATE_STATUS_STATE 0 0 0)).takeOrders.releaseAll.actHeldResets := if_neg (not_not_intro h)

theorem bivouacExit_runs (h : s.powerState = 3) :
    CompletesThen (.bivouacExitDone refused) s (fun u => ((List.range 12).foldl (fun v k =>
      v.leaveRefresh k (refused.any fun x => x.val == k)) u).takeOrders.releaseAll.actHeldResets) fun u =>
        u.powerState = 0 ∧ u.low = s.low ∧ u.mem = s.mem :=
  ⟨s.setF STATE_STATUS_STATE 0 0 0, exec_bivouacExit refused h, State.powerState_set .., State.setF_low .., State.setF_mem ..⟩

theorem bivouacExit_stacks (h : s.powerState = 3) :
    CompletesThen (.bivouacExitDone refused) s (fun u => u.takeOrders.releaseAll.actHeldResets) fun u =>
      ∀ k : Fin 12, u.stackState k = if s.stackState k = 3 then (if k ∈ refused then 1 else 2) else s.stackState k := by
  refine ⟨_, exec_bivouacExit refused h, fun k => ?_⟩
  have hstate : (s.setF STATE_STATUS_STATE 0 0 0).stackState k = s.stackState k :=
    State.getF_setF_ne s STATE_STATUS_STATE STACK_STATE_STATE 0 0 _ _ 0 (by
      simp [Reg.addr, STATE_STATUS_STATE, STATE_STATUS, STACK_STATE_STATE, STACK_STATE]; omega)
  have hmem : (refused.any fun x => x.val == k.val) = decide (k ∈ refused) := by
    rw [Bool.eq_iff_iff]
    simp only [List.any_eq_true, beq_iff_eq, decide_eq_true_eq]
    exact ⟨fun ⟨x, hx, he⟩ => Fin.ext he ▸ hx, fun hk => ⟨k, hk, rfl⟩⟩
  rw [(leaveRefresh_each fun k => refused.any fun x => x.val == k).foldl 12 _ k, if_pos k.isLt, hstate, hmem]
  simp only [decide_eq_true_eq]

end

/-! ### Entry into Refuge (R461) -/

theorem kget_kfilter {α : Type} (c : α) (p : Nat → Bool) (m : KMap α) (k : Nat) : kget c (kfilter p m) k = if p k then kget c m k else c := by
  by_cases h : p k = true
  · rw [if_pos h]
    induction m with
    | nil => rfl
    | cons x m ih =>
      obtain ⟨j, v⟩ := x
      unfold kfilter at ih ⊢
      rw [List.filter_cons]
      by_cases hj : p j = true
      · rw [if_pos hj, kget, kget, ih]
      · rw [if_neg hj, ih, kget, if_neg (by rintro rfl; exact hj h)]
  · rw [if_neg h]
    exact kget_kfilter_out _ _ _ (by simpa using h)

/-- A port of a die that is powered off. -/
def State.portOff (u : State) (p : Nat) : State := ((u.clearKeys p).setPort p Port.zero).setPortF PORT_STATE_STATE p portOFF

theorem portAddr_inj {k p : Nat} (h : PORT_STATE.addr (k / 4) (k % 4) = PORT_STATE.addr (p / 4) (p % 4)) : k = p := by
  simp [Reg.addr, PORT_STATE] at h
  omega

theorem State.foldl_portOff (n : Nat) (s : State) :
    (∀ p, p < n → ((List.range n).foldl State.portOff s).portState p = portOFF) ∧
    (∀ f : Fld, f.reg = STATE_STATUS → ((List.range n).foldl State.portOff s).getF f 0 0 = s.getF f 0 0) ∧
    Moves 0x100008 s ((List.range n).foldl State.portOff s) := by
  induction n with
  | zero => exact ⟨nofun, fun _ _ => rfl, .refl s⟩
  | succ n ih =>
    rw [List.range_succ, List.foldl_append, List.foldl_cons, List.foldl_nil]
    generalize (List.range n).foldl State.portOff s = u at ih ⊢
    obtain ⟨hports, hstatus, hmoves⟩ := ih
    have hregs : ((u.clearKeys n).setPort n Port.zero).regs = u.regs := rfl
    have hset : Moves 0x100000 u ((u.clearKeys n).setPort n Port.zero) :=
      (State.setPort_moves ..).step (by decide) (State.clearKeys_moves ..)
    unfold State.portOff
    generalize (u.clearKeys n).setPort n Port.zero = v at hregs hset ⊢
    refine ⟨fun p hp => ?_, fun f hf => ?_, (State.setPortF_moves ..).step (by decide) (hset.step (by decide) hmoves)⟩
    · by_cases hpn : p = n
      · rw [hpn]
        exact State.getF_setF v PORT_STATE_STATE (n / 4) (n % 4) portOFF rfl
      · refine (State.getF_setF_ne v PORT_STATE_STATE PORT_STATE_STATE _ _ _ _ portOFF fun h => hpn (portAddr_inj h)).trans ?_
        exact (State.portF_congr hregs ..).trans (hports p (by omega))
    · refine (State.getF_setF_ne v PORT_STATE_STATE f _ _ 0 0 portOFF ?_).trans ((State.getF_of_regs hregs ..).trans (hstatus f hf))
      rw [hf]
      simp [Reg.addr, STATE_STATUS, PORT_STATE_STATE, PORT_STATE]
      omega

theorem State.powerOffCrest_spec (s : State) :
    (∀ a, s.powerOffCrest.byte a = if memKey a < 0xC000000000 then s.byte a else 0) ∧ s.powerOffCrest.cores = [] ∧
    s.powerOffCrest.trackers = [] ∧ s.powerOffCrest.queues = [] ∧ s.powerOffCrest.low = s.low ∧
    (∀ p, p < 16 → s.powerOffCrest.portState p = portOFF) ∧
    ∀ f : Fld, f.reg = STATE_STATUS → s.powerOffCrest.getF f 0 0 = s.getF f 0 0 := by
  obtain ⟨hports, hstatus, hmoves⟩ := State.foldl_portOff 16 s
  have hmem : ((List.range 16).foldl State.portOff s).mem = s.mem := hmoves.same .mem (by decide)
  have hoff : s.powerOffCrest.mem = kfilter (fun k => decide (k < 0xC000000000)) ((List.range 16).foldl State.portOff s).mem ∧
      s.powerOffCrest.regs = ((List.range 16).foldl State.portOff s).regs := by
    unfold State.powerOffCrest
    generalize List.range 16 = l
    exact ⟨rfl, rfl⟩
  obtain ⟨hm, hr⟩ := hoff
  refine ⟨fun a => ?_, rfl, rfl, rfl, ?_, fun p hp => ?_, fun f hf => ?_⟩
  · rw [State.byte, hm, kget_kfilter, hmem]
    simp only [decide_eq_true_eq, State.byte]
  · exact s.powerOffCrest_moves.same .low (by decide)
  · exact (State.portF_congr hr ..).trans (hports p hp)
  · rw [State.getF_of_regs hr, hstatus f hf]

theorem State.aloneAgain_getF (s : State) (heard : Bool) (f : Fld) (d i : Nat) (h : f.reg.addr d i ≠ MEMBER_STATE.addr 0 0) :
    (s.aloneAgain heard).getF f d i = s.getF f d i := by
  unfold State.aloneAgain
  dsimp only
  rw [State.setFabric_getF, State.setRole, State.getF_setF_ne s MEMBER_STATE_ROLE f 0 0 d i 0 h]

/-- The package on its way into Refuge: it has left the massif, its stacks are in self-refresh, its shells are saved. -/
def State.refugeReady (s : State) : State := ((s.sendLeave.aloneAgain false).refreshStacks).saveShells crestShells

theorem State.refugeReady_spec (s : State) : s.refugeReady.getF STATE_STATUS_REFUGES 0 0 = s.getF STATE_STATUS_REFUGES 0 0 ∧
    s.refugeReady.mem = s.mem ∧ s.refugeReady.low = s.low := by
  have hleave := State.sendLeave_moves s
  have halone := s.sendLeave.aloneAgain_moves false
  have hshells := (s.sendLeave.aloneAgain false).refreshStacks.saveShells_moves crestShells
  have hstacks := (s.sendLeave.aloneAgain false).refreshStacks_moves
  have hall : Moves 0x10040c s s.refugeReady := hshells.step (by decide) (hstacks.step (by decide) (halone.step (by decide) (hleave.mono (by decide))))
  have hregs : s.refugeReady.regs = (s.sendLeave.aloneAgain false).refreshStacks.regs := hshells.same .regs (by decide)
  have hleft : s.sendLeave.regs = s.regs := hleave.same .regs (by decide)
  refine ⟨?_, hall.same .mem (by decide), hall.same .low (by decide)⟩
  rw [State.getF_of_regs hregs, (s.sendLeave.aloneAgain false).refreshStacks_regs.getF STATE_STATUS_REFUGES 0 0 fun k _ => by
    simp [Reg.addr, STATE_STATUS_REFUGES, STATE_STATUS, STACK_STATE]; omega]
  rw [State.aloneAgain_getF _ _ _ _ _ (by decide), State.getF_of_regs hleft]

/-- The dies are off, and what Refuge keeps is kept aside. -/
def State.crestOff (s : State) : State := (s.setLow fun r => { r with image := kfilter crestReg s.regs, orders := [] }).powerOffCrest

theorem State.crestOff_spec (s : State) :
    (∀ a, s.crestOff.byte a = if memKey a < 0xC000000000 then s.byte a else 0) ∧ s.crestOff.cores = [] ∧
    s.crestOff.trackers = [] ∧ s.crestOff.queues = [] ∧ s.crestOff.low.orders = [] ∧ s.crestOff.low.heldResets = s.low.heldResets ∧
    (∀ p, p < 16 → s.crestOff.portState p = portOFF) ∧ ∀ f : Fld, f.reg = STATE_STATUS → s.crestOff.getF f 0 0 = s.getF f 0 0 := by
  obtain ⟨image, hoff⟩ : ∃ image, s.crestOff = (s.setLow fun r => { r with image := image, orders := [] }).powerOffCrest := ⟨_, rfl⟩
  obtain ⟨hbyte, hcores, htrackers, hqueues, hlow, hports, hstatus⟩ :=
    (s.setLow fun r => { r with image := image, orders := [] }).powerOffCrest_spec
  rw [hoff]
  refine ⟨fun a => ?_, hcores, htrackers, hqueues, by rw [hlow]; rfl, by rw [hlow]; rfl, hports, fun f hf => ?_⟩
  · rw [hbyte, State.byte_of_mem (State.setLow_mem ..)]
  · rw [hstatus f hf, State.setLow_getF]

theorem exec_refugeEntry {s : State} (h : s.powerState = 4) (hp : s.pipesIdle = true) : exec .refugeEntryDone s =
    .next ((s.refugeReady.crestOff.satF STATE_STATUS_REFUGES 0 0 1).setF STATE_STATUS_STATE 0 0 5) := if_neg (by simp [h, hp])

theorem refugeEntry_completes {s : State} (h : s.powerState = 4) (hp : s.pipesIdle = true) : Completes .refugeEntryDone s fun t =>
    t.powerState = 5 ∧ t.getF STATE_STATUS_REFUGES 0 0 = min 65535 (s.getF STATE_STATUS_REFUGES 0 0 + 1) ∧
    (∀ a, t.byte a = if memKey a < 0xC000000000 then s.byte a else 0) ∧ t.cores = [] ∧ t.trackers = [] ∧ t.queues = [] ∧
    t.low.orders = [] ∧ t.low.heldResets = s.low.heldResets ∧ ∀ p, p < 16 → t.portState p = portOFF := by
  have hexec := exec_refugeEntry h hp
  obtain ⟨hregs, hmem, hlow⟩ := s.refugeReady_spec
  generalize s.refugeReady = u at hexec hregs hmem hlow
  obtain ⟨hbyte, hcores, htrackers, hqueues, horders, hheld, hports, hstatus⟩ := u.crestOff_spec
  generalize u.crestOff = w at hexec hbyte hcores htrackers hqueues horders hheld hports hstatus
  have hport (f : Fld) (x : Nat) (z : State) (hf : f.reg = STATE_STATUS) (p : Nat) : (z.setF f 0 0 x).portState p = z.portState p := by
    refine State.getF_setF_ne z f PORT_STATE_STATE 0 0 _ _ x ?_
    rw [hf]
    simp [Reg.addr, STATE_STATUS, PORT_STATE_STATE, PORT_STATE]
    omega
  refine ⟨_, hexec, State.powerState_set .., ?_, fun b => ?_, ?_, ?_, ?_, ?_, ?_, fun p hp => ?_⟩
  · rw [State.getF_setF_apart _ STATE_STATUS_STATE STATE_STATUS_REFUGES 0 0 5 rfl rfl rfl rfl, State.getF_satF w STATE_STATUS_REFUGES 0 0 1 rfl,
      hstatus _ rfl, hregs]
    rfl
  · rw [State.byte_of_mem (State.setF_mem ..), State.byte_of_mem (State.satF_mem ..), hbyte, State.byte_of_mem hmem]
  · rw [State.setF_cores, State.satF_cores, hcores]
  · rw [State.setF_trackers, State.satF_trackers, htrackers]
  · rw [State.setF_queues, State.satF_queues, hqueues]
  · rw [State.setF_low, State.satF_low, horders]
  · rw [State.setF_low, State.satF_low, hheld, hlow]
  · exact (hport _ _ _ rfl p).trans ((hport _ _ _ rfl p).trans (hports p hp))

/-! ### Resume from Refuge (R463) -/

section
variable {s : State} (refused : List (Fin 12)) (shells : List (Fin 9 × Fin 64))

/-- The Crest-side shells that refuse their image, other than stacks. -/
def refusingShells (shells : List (Fin 9 × Fin 64)) : List (Nat × Nat) :=
  (shells.map fun x => (x.1.val, x.2.val)).filter fun x => x.1 != 4 && crestShells.contains x

/-- A shell refuses its image and trains again (R44). -/
def State.refuseShell (v : State) (x : Nat × Nat) : State := (v.refuseShells [x]).retrainShell x

/-- The state that resumes, with its image back. -/
def State.resumed (s : State) : State := s.restoreImage.resetRefugeRegs.setF STATE_STATUS_STATE 0 0 0

/-- Its shells and stacks restored, those that refuse training. -/
def State.resumedShells (s : State) (refused : List (Fin 12)) (bad : List (Nat × Nat)) : State :=
  bad.foldl State.refuseShell ((List.range 12).foldl (fun v k => v.leaveRefresh k (refused.any fun x => x.val == k))
    (s.restoreShells ((crestShells.filter fun x => x.1 != 4).filter fun x => !bad.contains x)))

theorem exec_refugeResume (h : s.powerState = 6) : exec (.refugeResumeDone refused shells) s =
    .next ((List.range 16).foldl (fun v p => v.trainPort p)
      (s.resumed.resumedShells refused (refusingShells shells)).aloneAnew).releaseAll.actHeldResets := if_neg (not_not_intro h)

theorem State.resumed_spec (s : State) : s.resumed.powerState = 0 ∧ s.resumed.low.image = [] ∧
    s.resumed.low.heldResets = s.low.heldResets ∧ s.resumed.mem = s.mem := by
  have hregs := s.restoreImage.resetRefugeRegs_moves
  have hlow : s.restoreImage.resetRefugeRegs.low = s.restoreImage.low := hregs.same .low (by decide)
  have hmem : s.restoreImage.resetRefugeRegs.mem = s.restoreImage.mem := hregs.same .mem (by decide)
  have himage : s.restoreImage.low.image = [] ∧ s.restoreImage.low.heldResets = s.low.heldResets ∧ s.restoreImage.mem = s.mem := ⟨rfl, rfl, rfl⟩
  unfold State.resumed
  generalize s.restoreImage.resetRefugeRegs = u at hlow hmem ⊢
  generalize s.restoreImage = v at hlow hmem himage
  obtain ⟨h1, h2, h3⟩ := himage
  refine ⟨State.powerState_set u 0, ?_, ?_, ?_⟩
  · rw [State.setF_low, hlow, h1]
  · rw [State.setF_low, hlow, h2]
  · rw [State.setF_mem, hmem, h3]

/-- A link that trains again after a refusal: a Saddle link, or a Col link. -/
def LinkTrains (v : State) (x : Nat × Nat) : Prop :=
  (x.1 = 2 → v.getF SADDLE_STATUS_STATE 0 (x.2 / 2) = 1) ∧ (x.1 = 3 → v.getF COL_STATUS_STATE 0 (x.2 / 2) = 1)

theorem colStatus_inj {l k : Nat} (h : COL_STATUS.addr 0 l = COL_STATUS.addr 0 k) : l = k := by
  simp [Reg.addr, COL_STATUS] at h
  omega

theorem State.retrainShell_spec (v : State) (x : Nat × Nat) :
    LinkTrains (v.retrainShell x) x ∧ ∀ y, LinkTrains v y → LinkTrains (v.retrainShell x) y := by
  have hsc (l k : Nat) : COL_STATUS.addr 0 l ≠ SADDLE_STATUS.addr 0 k := by
    simp [Reg.addr, SADDLE_STATUS, COL_STATUS]
    omega
  have hregs {w : State} (h : w.regs = v.regs) (y : Nat × Nat) (hy : LinkTrains v y) : LinkTrains w y :=
    ⟨fun h2 => (State.getF_of_regs h ..).trans (hy.1 h2), fun h3 => (State.getF_of_regs h ..).trans (hy.2 h3)⟩
  obtain ⟨kind, n⟩ := x
  unfold State.retrainShell
  dsimp only
  split
  · exact ⟨⟨nofun, nofun⟩, fun _ hy => hy⟩
  · refine ⟨⟨fun _ => State.getF_setF v SADDLE_STATUS_STATE 0 (n / 2) 1 rfl, nofun⟩, fun y hy => ⟨fun h2 => ?_, fun h3 => ?_⟩⟩
    · by_cases hn : y.2 / 2 = n / 2
      · rw [hn]
        exact State.getF_setF v SADDLE_STATUS_STATE 0 (n / 2) 1 rfl
      · exact (State.getF_setF_ne v SADDLE_STATUS_STATE SADDLE_STATUS_STATE 0 _ 0 _ 1 fun h => hn (saddleStatus_inj h)).trans (hy.1 h2)
    · exact (State.getF_setF_ne v SADDLE_STATUS_STATE COL_STATUS_STATE 0 _ 0 _ 1 (hsc _ _)).trans (hy.2 h3)
  · refine ⟨⟨nofun, fun _ => State.getF_setF v COL_STATUS_STATE 0 (n / 2) 1 rfl⟩, fun y hy => ⟨fun h2 => ?_, fun h3 => ?_⟩⟩
    · exact (State.getF_setF_ne v COL_STATUS_STATE SADDLE_STATUS_STATE 0 _ 0 _ 1 (hsc _ _).symm).trans (hy.1 h2)
    · by_cases hn : y.2 / 2 = n / 2
      · rw [hn]
        exact State.getF_setF v COL_STATUS_STATE 0 (n / 2) 1 rfl
      · exact (State.getF_setF_ne v COL_STATUS_STATE COL_STATUS_STATE 0 _ 0 _ 1 fun h => hn (colStatus_inj h)).trans (hy.2 h3)
  · next h0 h2 h3 => exact ⟨⟨fun h => absurd h h2, fun h => absurd h h3⟩, hregs rfl⟩

theorem State.refuseShell_spec (v : State) (x : Nat × Nat) :
    LinkTrains (v.refuseShell x) x ∧ ∀ y, LinkTrains v y → LinkTrains (v.refuseShell x) y := by
  have hregs : (v.refuseShells [x]).regs = v.regs := (v.refuseShells_moves [x]).same .regs (by decide)
  unfold State.refuseShell
  generalize v.refuseShells [x] = u at hregs ⊢
  obtain ⟨h1, h2⟩ := u.retrainShell_spec x
  exact ⟨h1, fun y hy => h2 y ⟨fun h => (State.getF_of_regs hregs ..).trans (hy.1 h), fun h => (State.getF_of_regs hregs ..).trans (hy.2 h)⟩⟩

/-- Every link whose shell refuses trains. -/
theorem State.foldl_refuseShell (bad : List (Nat × Nat)) (v : State) :
    (∀ x ∈ bad, LinkTrains (bad.foldl State.refuseShell v) x) ∧ ∀ y, LinkTrains v y → LinkTrains (bad.foldl State.refuseShell v) y := by
  induction bad generalizing v with
  | nil => exact ⟨nofun, fun _ hy => hy⟩
  | cons x bad ih =>
    obtain ⟨h1, h2⟩ := v.refuseShell_spec x
    obtain ⟨k1, k2⟩ := ih (v.refuseShell x)
    refine ⟨fun y hy => ?_, fun y hy => k2 y (h2 y hy)⟩
    obtain rfl | hy := List.mem_cons.mp hy
    · exact k2 _ h1
    · exact k1 y hy

/-- What is left of the massif and the job. -/
def AloneAgain (t : State) : Prop := t.role = 0 ∧ t.job = 0 ∧ t.fabric.members = [] ∧ t.fabric.gen = 0

theorem State.foldl_setGen (n : Nat) (s : State) :
    ((List.range n).foldl (fun u d => u.setF TRAIL_STATUS_GEN d 0 0) s).fabric = s.fabric ∧
    ∀ f : Fld, f.reg = MEMBER_STATE → ((List.range n).foldl (fun u d => u.setF TRAIL_STATUS_GEN d 0 0) s).getF f 0 0 = s.getF f 0 0 := by
  induction n with
  | zero => exact ⟨rfl, fun _ _ => rfl⟩
  | succ n ih =>
    rw [List.range_succ, List.foldl_append, List.foldl_cons, List.foldl_nil]
    generalize (List.range n).foldl (fun u d => u.setF TRAIL_STATUS_GEN d 0 0) s = u at ih ⊢
    refine ⟨(State.setF_fabric ..).trans ih.1, fun f hf => (State.getF_setF_ne u TRAIL_STATUS_GEN f n 0 0 0 0 ?_).trans (ih.2 f hf)⟩
    rw [hf]
    simp [Reg.addr, MEMBER_STATE, TRAIL_STATUS_GEN, TRAIL_STATUS]
    omega

theorem State.aloneAnew_spec (s : State) : AloneAgain s.aloneAnew := by
  let a := s.aloneAgain false
  have harole : a.getF MEMBER_STATE_ROLE 0 0 = 0 := (State.setFabric_getF ..).trans (State.getF_setF s MEMBER_STATE_ROLE 0 0 0 rfl)
  have hjob := a.changeJob_job 0 (by decide)
  have hrole := (a.changeJob_member 0 MEMBER_STATE_ROLE rfl rfl rfl).trans harole
  have heq : ∃ f, s.aloneAnew = ((List.range 4).foldl (fun u d => u.setF TRAIL_STATUS_GEN d 0 0)
      ((a.changeJob 0).firstGen.setFabric f)).countMembers ∧ (f (a.changeJob 0).firstGen.fabric).members = [] ∧
      (f (a.changeJob 0).firstGen.fabric).gen = 0 := ⟨fun r => { r with members := [], version := 0, memberTerm := 0, oldSigns := [] }, rfl, rfl, rfl⟩
  obtain ⟨f, heq, hmembers, hgen⟩ := heq
  have hfirst : (a.changeJob 0).firstGen.regs = (a.changeJob 0).regs := (State.firstGen_moves _).same .regs (by decide)
  clear_value a
  generalize a.changeJob 0 = b at hjob hrole heq hmembers hgen hfirst
  generalize b.firstGen = c at heq hmembers hgen hfirst
  obtain ⟨hfabric, hmember⟩ := State.foldl_setGen 4 (c.setFabric f)
  generalize (List.range 4).foldl (fun u d => u.setF TRAIL_STATUS_GEN d 0 0) (c.setFabric f) = e at heq hfabric hmember
  have hcount (g : Fld) (hg : g.reg = MEMBER_STATE) : e.countMembers.getF g 0 0 = b.getF g 0 0 := by
    have h1 : g.reg.addr 0 0 ≠ MEMBER_COUNTS.addr 0 0 := by rw [hg]; decide
    rw [State.countMembers, State.getF_setF_ne _ MEMBER_COUNTS_JOB_MEMBERS g 0 0 0 0 _ h1, State.getF_setF_ne _ MEMBER_COUNTS_ADMITTED g 0 0 0 0 _ h1,
      hmember g hg, State.setFabric_getF, State.getF_of_regs hfirst]
  have hcf : e.countMembers.fabric = e.fabric := e.countMembers_moves.same .fabric (by decide)
  have hset : (c.setFabric f).fabric = f c.fabric := State.setFabric_fabric ..
  rw [heq]
  refine ⟨(hcount _ rfl).trans hrole, (hcount _ rfl).trans hjob, ?_, ?_⟩
  · rw [hcf, hfabric, hset, hmembers]
  · rw [hcf, hfabric, hset, hgen]

theorem AloneAgain.trainPort {u : State} (h : AloneAgain u) (p : Nat) : AloneAgain (u.trainPort p) := by
  obtain ⟨hrole, hjob, hmembers, hgen⟩ := h
  obtain ⟨x, st, heq⟩ : ∃ x st, u.trainPort p = (u.setPort p x).setPortF PORT_STATE_STATE p st := ⟨_, _, rfl⟩
  have hport : (u.setPort p x).fabric.members = u.fabric.members ∧ (u.setPort p x).fabric.gen = u.fabric.gen := ⟨rfl, rfl⟩
  have hregs : (u.setPort p x).regs = u.regs := rfl
  rw [heq]
  generalize u.setPort p x = v at hport hregs ⊢
  have hmember (f : Fld) (hf : f.reg = MEMBER_STATE) : (v.setPortF PORT_STATE_STATE p st).getF f 0 0 = u.getF f 0 0 := by
    refine (State.getF_setF_ne v PORT_STATE_STATE f _ _ 0 0 st ?_).trans (State.getF_of_regs hregs ..)
    rw [hf]
    simp [Reg.addr, MEMBER_STATE, PORT_STATE_STATE, PORT_STATE]
    omega
  have hfabric : (v.setPortF PORT_STATE_STATE p st).fabric = v.fabric := State.setF_fabric ..
  exact ⟨(hmember _ rfl).trans hrole, (hmember _ rfl).trans hjob, by rw [hfabric, hport.1, hmembers], by rw [hfabric, hport.2, hgen]⟩

theorem AloneAgain.trainPorts {u : State} (h : AloneAgain u) (ps : List Nat) : AloneAgain (ps.foldl (fun v p => v.trainPort p) u) := by
  induction ps generalizing u with
  | nil => exact h
  | cons p ps ih => exact ih (h.trainPort p)

end

/-- Settles O50: each low-power state is entered from a package that runs with no work, keeps what its table says, and is left as it says. -/
theorem lowPowerStates : Obligations.LowPowerStates := by
  unfold Obligations.LowPowerStates
  refine fun s => ⟨fun p hp => ⟨fun h => sleep_refused h hp, fun h => sleep_begins h hp⟩, fun p hp h => entryDone_early hp h,
    bivouacEntry_completes, refugeEntry_completes, wake_awake, wake_entry, wake_bivouac, wake_refuge,
    fun refused shells => ⟨fun h => if_pos h, fun h => ⟨bivouacExit_runs refused h, bivouacExit_stacks refused h⟩, fun h => if_pos h, fun h => ?_⟩⟩
  have hexec := exec_refugeResume refused shells h
  refine ⟨⟨s.resumed, hexec, s.resumed_spec⟩, ⟨s.resumed.resumedShells refused (refusingShells shells), hexec, fun i _ => ?_⟩,
    ⟨_, hexec, (State.aloneAnew_spec _).trainPorts _⟩⟩
  obtain ⟨htrains, -⟩ := State.foldl_refuseShell (refusingShells shells) ((List.range 12).foldl
    (fun v k => v.leaveRefresh k (refused.any fun x => x.val == k)) (s.resumed.restoreShells
      ((crestShells.filter fun x => x.1 != 4).filter fun x => !(refusingShells shells).contains x)))
  exact ⟨fun hi => (htrains _ hi).1 rfl, fun hi => (htrains _ hi).2 rfl⟩

end Sys2Proof.Machine
end

