-- ==== Sys2Proof/Proofs/SidebandCommands.lean ====
section
/-!
PROOFS. Signed sideband commands, the records that they keep and measurement M4 (R468, R476, R477, R479, Table 19.5).
-/
namespace Sys2Proof.Machine

open Sys2Proof

/-! ### Which commands are served (R468, R477, R519) -/

theorem State.commandReason_noKey {s : State} (x : SideCommand) (h : s.sec.operatorKey = none) : s.commandReason (some x) = 3 := by
  unfold State.commandReason
  rw [h]

theorem State.commandReason_key {s : State} (x : SideCommand) {key : List Byte} (h : s.sec.operatorKey = some key) :
    (hssVerify key x.covered x.signature = false → s.commandReason (some x) = 1) ∧
    (hssVerify key x.covered x.signature = true → s.commandReason (some x) = if x.seq ≤ s.sec.lastSeq then 2 else 0) := by
  have he : s.commandReason (some x) = if !hssVerify key x.covered x.signature then 1 else if x.seq ≤ s.sec.lastSeq then 2 else 0 := by
    unfold State.commandReason
    rw [h]
  constructor <;> intro hv <;> simp [he, hv]

theorem State.operatorKey_of_commandReason {s : State} {x : SideCommand} (h : s.commandReason (some x) = 0) :
    s.sec.operatorKey.isSome = true := by
  cases hk : s.sec.operatorKey with
  | none => rw [State.commandReason_noKey x hk] at h; exact absurd h (by decide)
  | some _ => rfl

theorem State.signedCommand_muted {s : State} (h : s.muted = true) (c : Option SideCommand) (act : List Byte → State → State) :
    s.signedCommand c act = s.sideband [255] := if_pos h

theorem State.signedCommand_refused {s : State} (hm : s.muted = false) {c : Option SideCommand} (hr : s.commandReason c ≠ 0)
    (act : List Byte → State → State) : s.signedCommand c act = s.refuseCommand (s.commandReason c) := by
  unfold State.signedCommand
  rw [if_neg (by simp [hm])]
  split
  · next h0 => exact absurd h0 hr
  · rfl

theorem State.signedCommand_taken {s : State} (hm : s.muted = false) {x : SideCommand} (hr : s.commandReason (some x) = 0)
    (act : List Byte → State → State) : s.signedCommand (some x) act = act x.body ((s.keepSeq x.seq).sideband [stDONE]) := by
  unfold State.signedCommand
  rw [if_neg (by simp [hm]), hr]
  rfl

theorem sideCommand_some {code : Nat} {form : List Byte → Bool} {msg : List Byte} {x : SideCommand} (h : sideCommand code form msg = some x) :
    form x.body = true ∧ x.seq = fieldOf msg 4 8 := by
  unfold sideCommand at h
  dsimp only at h
  split at h
  · cases h
  · next hn =>
    cases h
    simp only [not_or, Bool.not_eq_false] at hn
    exact ⟨hn.2.2, rfl⟩

/-! ### SEQ (R477) -/

theorem State.keepSeq_lastSeq (s : State) (n : Nat) : (s.keepSeq n).sec.lastSeq = n % 2 ^ 64 := by
  simp [State.keepSeq, Security.lastSeq, leNat_leBytes_mod]

theorem sideCommand_seq_lt {code : Nat} {form : List Byte → Bool} {msg : List Byte} {x : SideCommand} (h : sideCommand code form msg = some x) :
    x.seq % 2 ^ 64 = x.seq := by
  rw [(sideCommand_some h).2]
  exact Nat.mod_eq_of_lt (leNat_take_lt (msg.drop 4) 8)

/-- A command that was taken: its SEQ is kept and it is answered. -/
structure Taken (s u : State) (seq : Nat) : Prop where
  lastSeq : u.sec.lastSeq = seq % 2 ^ 64
  key : u.sec.operatorKey = s.sec.operatorKey
  regs : u.regs = s.regs
  power : u.power = s.power
  out : s.muted = false → u.out = s.out ++ [⟨.other, 131072, [stDONE], []⟩]

theorem State.sideband_speaks {s : State} (h : s.pins.floating = false) (fields : List Nat) :
    s.sideband fields = s.emit .other 131072 fields [] := if_neg (by simp [h])

theorem State.floating_of_muted {s : State} (h : s.muted = false) : s.pins.floating = false := by
  simp only [State.muted, Bool.or_eq_false_iff] at h
  exact h.2

theorem State.keepSeq_taken (s : State) (seq : Nat) : Taken s ((s.keepSeq seq).sideband [stDONE]) seq := by
  have hm := State.sideband_moves (s.keepSeq seq) [stDONE]
  have hk := State.keepSeq_moves s seq
  have hsec : ((s.keepSeq seq).sideband [stDONE]).sec = (s.keepSeq seq).sec := hm.same .sec (by decide)
  have hmoves : Moves 0x8000004 s ((s.keepSeq seq).sideband [stDONE]) := hm.step (by decide) (hk.mono (by decide))
  refine ⟨by rw [hsec]; exact s.keepSeq_lastSeq seq, by rw [hsec]; rfl, hmoves.same .regs (by decide), hmoves.same .power (by decide),
    fun h => ?_⟩
  have hf : (s.keepSeq seq).pins.floating = false := by simpa [State.keepSeq] using State.floating_of_muted h
  rw [State.sideband_speaks hf]
  rfl

/-! ### Measurement M4 (R479) -/

theorem measureAddr_ne {a b : Nat} (h : a ≠ b) : MEASURE.addr 0 a ≠ MEASURE.addr 0 b := by
  simp [Reg.addr, MEASURE]
  omega

theorem massifDims_addr_ne (k : Nat) : MASSIF_DIMS.addr 0 0 ≠ MEASURE.addr 0 k := by
  simp [Reg.addr, MEASURE, MASSIF_DIMS]
  omega

/-- Writing the words of MEASURE from word k on. -/
theorem State.setMeasure_words (s : State) (k : Nat) (v : Nat → Word) (n : Nat) :
    (∀ w < n, ((List.range n).foldl (fun u w => u.setReg MEASURE 0 (k + w) (v w)) s).reg MEASURE 0 (k + w) = v w) ∧
    ∀ (q : Reg) (d i : Nat), (∀ j, q.addr d i ≠ MEASURE.addr 0 j) →
      ((List.range n).foldl (fun u w => u.setReg MEASURE 0 (k + w) (v w)) s).reg q d i = s.reg q d i := by
  induction n with
  | zero => exact ⟨fun w hw => absurd hw (by omega), fun _ _ _ _ => rfl⟩
  | succ n ih =>
    obtain ⟨ihm, iho⟩ := ih
    simp only [List.range_succ, List.foldl_append, List.foldl_cons, List.foldl_nil]
    refine ⟨fun w hw => ?_, fun q d i hq => ?_⟩
    · by_cases hwn : w = n
      · rw [hwn, State.reg_setReg]
      · rw [State.reg_setReg_ne _ _ _ _ _ _ _ _ (measureAddr_ne (by omega))]
        exact ihm w (by omega)
    · rw [State.reg_setReg_ne _ _ _ _ _ _ _ _ (hq _)]
      exact iho q d i hq

/-- M4 shows the digest of the operator records. -/
def State.M4Shown (t : State) : Prop :=
  ∀ w, w < 4 → t.reg MEASURE 0 (16 + w) = BitVec.ofNat 64 (leNat (sha256 t.sec.recordBytes) / 2 ^ (64 * w))

theorem State.measureRecords_sec (s : State) : s.measureRecords.sec = s.sec := (State.measureRecords_moves s).same .sec (by decide)

theorem State.measureRecords_m4 (s : State) : s.measureRecords.M4Shown := by
  intro w hw
  rw [State.measureRecords_sec, State.measureRecords]
  exact (s.setMeasure_words 16 (fun w => BitVec.ofNat 64 (leNat (sha256 s.sec.recordBytes) / 2 ^ (64 * w))) 4).1 w hw

theorem State.measureRecords_massifDims (s : State) : s.measureRecords.reg MASSIF_DIMS 0 0 = s.reg MASSIF_DIMS 0 0 :=
  (s.setMeasure_words 16 (fun w => BitVec.ofNat 64 (leNat (sha256 s.sec.recordBytes) / 2 ^ (64 * w))) 4).2 MASSIF_DIMS 0 0
    massifDims_addr_ne

/-! ### The records of the store (R476, R481, Table 8.17) -/

section
variable {s u : State} {seq : Nat} (h : Taken s u seq)
include h

theorem Taken.keyRecord (body : List Byte) :
    let t := (u.setSec fun x => { x with keyRecord := some (.of "operator key" body) }).measureRecords
    t.sec.operatorKey = some body ∧ t.sec.lastSeq = seq % 2 ^ 64 ∧ t.M4Shown := by
  refine ⟨?_, ?_, State.measureRecords_m4 _⟩
  · simp [State.measureRecords_sec, Security.operatorKey]
  · rw [State.measureRecords_sec]; exact h.lastSeq

theorem Taken.policyRecord (body : List Byte) :
    let t := (u.setSec fun x => { x with policyRecord := some (.of "admission policy" body) }).measureRecords
    t.sec.policy = some (policyOf body) ∧ t.sec.operatorKey = s.sec.operatorKey ∧ t.sec.lastSeq = seq % 2 ^ 64 ∧ t.M4Shown ∧
    t.out = u.out := by
  refine ⟨?_, ?_, ?_, State.measureRecords_m4 _, (State.measureRecords_moves _).same .out (by decide)⟩
  · simp [State.measureRecords_sec, Security.policy]
  · rw [State.measureRecords_sec]; exact h.key
  · rw [State.measureRecords_sec]; exact h.lastSeq

theorem Taken.planRecord (body : List Byte) :
    let t := (u.setSec fun x => { x with planRecord := some (.of "massif plan" body) }).measureRecords
    t.sec.plan = some (fieldOf body 0 2, fieldOf body 2 2) ∧ t.sec.lastSeq = seq % 2 ^ 64 ∧ t.M4Shown ∧
    t.reg MASSIF_DIMS 0 0 = s.reg MASSIF_DIMS 0 0 := by
  refine ⟨?_, ?_, State.measureRecords_m4 _, ?_⟩
  · simp [State.measureRecords_sec, Security.plan]
  · rw [State.measureRecords_sec]; exact h.lastSeq
  · rw [State.measureRecords_massifDims, State.setSec_reg, State.reg, State.reg, h.regs]

end

/-! ### PACKAGE_RESET (R455, R457) -/

theorem State.clearParts_seqRecord (s : State) (power : Bool) : (s.clearParts power).sec.seqRecord = s.sec.seqRecord := rfl

theorem State.resetParts_seqRecord (s : State) : (s.resetParts false).sec.seqRecord = s.sec.seqRecord := by
  have hm : Moves 0x1200000c s s.flushRecords.resetPackageRegs.emptyHolding :=
    (State.emptyHolding_moves _).step (by decide) ((State.resetPackageRegs_moves _).step (by decide) (State.flushRecords_moves s))
  have hsec : s.flushRecords.resetPackageRegs.emptyHolding.sec = s.sec := hm.same .sec (by decide)
  rw [State.resetParts, State.setF_sec, State.clearParts_seqRecord, if_neg Bool.false_ne_true, hsec]

theorem State.resetParts_trackers (s : State) : (s.resetParts false).trackers = [] := State.setF_trackers ..

/-- A package reset that begins is held, shows its source, keeps the command sequence and ends what was in flight. -/
theorem State.beginPackageReset_spec (s : State) (source : Nat) (h : source < 16) :
    (s.beginPackageReset source).power.inReset = true ∧ (s.beginPackageReset source).getF STATE_STATUS_LAST_RESET 0 0 = source ∧
    (s.beginPackageReset source).sec.lastSeq = s.sec.lastSeq ∧ (s.beginPackageReset source).trackers = [] := by
  unfold State.beginPackageReset
  refine ⟨rfl, ?_, ?_, ?_⟩
  · rw [State.setPower_getF, State.getF_setF _ _ _ _ _ rfl]
    exact Nat.mod_eq_of_lt h
  · rw [State.setPower_sec, State.setF_sec, Security.lastSeq, State.resetParts_seqRecord, Security.lastSeq]
  · rw [State.setPower_trackers, State.setF_trackers, State.resetParts_trackers]

/-! ### The commands -/

section
variable {s : State} (hm : s.muted = false) {msg : List Byte} {x : SideCommand}
include hm

theorem exec_operatorKeySet_enrol (hc : sideCommand 0x0001 keyForm msg = some x) (hk : s.sec.operatorKey = none) :
    Completes (.operatorKeySet true msg) s fun t =>
      t.sec.operatorKey = some x.body ∧ t.sec.lastSeq = max s.sec.lastSeq x.seq % 2 ^ 64 ∧ t.M4Shown := by
  have he : exec (.operatorKeySet true msg) s = .next ((((s.keepSeq (max s.sec.lastSeq x.seq)).sideband [stDONE]).setSec fun y =>
      { y with keyRecord := some (.of "operator key" x.body) }).measureRecords) := by
    change execOperatorKeySet true msg s = _
    unfold execOperatorKeySet
    simp only [hc, hk, hm]
    rfl
  exact ⟨_, he, (s.keepSeq_taken _).keyRecord x.body⟩

variable (hr : s.commandReason (some x) = 0)
include hr

theorem exec_operatorKeySet_signed (enrolLow : Bool) (hc : sideCommand 0x0001 keyForm msg = some x) :
    Completes (.operatorKeySet enrolLow msg) s fun t => t.sec.operatorKey = some x.body ∧ t.sec.lastSeq = x.seq ∧ t.M4Shown := by
  have hn : s.sec.operatorKey.isNone = false := by simpa using State.operatorKey_of_commandReason hr
  have he : exec (.operatorKeySet enrolLow msg) s = .next ((((s.keepSeq x.seq).sideband [stDONE]).setSec fun y =>
      { y with keyRecord := some (.of "operator key" x.body) }).measureRecords) := by
    change execOperatorKeySet enrolLow msg s = _
    unfold execOperatorKeySet
    simp only [hc, hn, Bool.false_and, Bool.false_eq_true, if_false]
    rw [State.signedCommand_taken hm hr]
  have h := (s.keepSeq_taken x.seq).keyRecord x.body
  rw [sideCommand_seq_lt hc] at h
  exact ⟨_, he, h⟩

theorem exec_policySet_taken (hc : sideCommand 0x0002 policyForm msg = some x) : Completes (.policySet msg) s fun t =>
    t.sec.policy = some (policyOf x.body) ∧ t.sec.operatorKey = s.sec.operatorKey ∧ t.sec.lastSeq = x.seq ∧ t.M4Shown ∧
    t.out = s.out ++ [⟨.other, 131072, [stDONE], []⟩] := by
  have hs := s.keepSeq_taken x.seq
  obtain ⟨hp, hk, hl, h4, ho⟩ := hs.policyRecord x.body
  refine ⟨_, ?_, hp, hk, hl.trans (sideCommand_seq_lt hc), h4, ho.trans (hs.out hm)⟩
  change Host.Outcome.next (s.signedCommand (sideCommand 0x0002 policyForm msg) _) = _
  rw [hc, State.signedCommand_taken hm hr]

theorem exec_massifPlanSet_taken (hc : sideCommand 0x0003 planForm msg = some x) : Completes (.massifPlanSet msg) s fun t =>
    t.sec.plan = some (fieldOf x.body 0 2, fieldOf x.body 2 2) ∧ t.sec.lastSeq = x.seq ∧ t.M4Shown ∧
    t.reg MASSIF_DIMS 0 0 = s.reg MASSIF_DIMS 0 0 := by
  obtain ⟨hp, hl, h4, hd⟩ := (s.keepSeq_taken x.seq).planRecord x.body
  refine ⟨_, ?_, hp, hl.trans (sideCommand_seq_lt hc), h4, hd⟩
  change Host.Outcome.next (s.signedCommand (sideCommand 0x0003 planForm msg) _) = _
  rw [hc, State.signedCommand_taken hm hr]

theorem exec_partition_taken (hc : sideCommand 0x0004 partitionForm msg = some x) :
    let u := (s.keepSeq x.seq).sideband [stDONE]
    exec (.partition msg) s = .next (if s.role < 3 then u
      else u.mgmt 0x8B (s.getF SUMMIT_INFO_SUMMIT_ID 0 0) ((chunk 2 (x.body.length / 2) x.body).map leNat)) := by
  intro u
  have hregs : u.regs = s.regs := (s.keepSeq_taken x.seq).regs
  have hrole : u.role = s.role := State.getF_of_regs hregs ..
  have he : exec (.partition msg) s = .next (if u.role < 3 then u
      else u.mgmt 0x8B (u.getF SUMMIT_INFO_SUMMIT_ID 0 0) ((chunk 2 (x.body.length / 2) x.body).map leNat)) := by
    change Host.Outcome.next (s.signedCommand (sideCommand 0x0004 partitionForm msg) _) = _
    rw [hc, State.signedCommand_taken hm hr]
  rw [he, hrole, State.getF_of_regs hregs]

theorem exec_packageReset_taken (b : BootInputs) (hc : sideCommand 0x0006 List.isEmpty msg = some x) :
    (s.power.inReset = true → exec (.packageReset msg b) s = .next ((s.keepSeq x.seq).sideband [stDONE])) ∧
    (s.power.inReset = false → CompletesThen (.packageReset msg b) s (State.completeReset · b) fun v =>
      v.power.inReset = true ∧ v.getF STATE_STATUS_LAST_RESET 0 0 = 4 ∧ v.sec.lastSeq = x.seq ∧ v.trackers = []) := by
  have hs := s.keepSeq_taken x.seq
  have he : exec (.packageReset msg b) s = .next (if ((s.keepSeq x.seq).sideband [stDONE]).power.inReset = true
      then (s.keepSeq x.seq).sideband [stDONE] else ((s.keepSeq x.seq).sideband [stDONE]).packageReset 4 b) := by
    change Host.Outcome.next (s.signedCommand (sideCommand 0x0006 List.isEmpty msg) _) = _
    rw [hc, State.signedCommand_taken hm hr]
  rw [hs.power] at he
  generalize (s.keepSeq x.seq).sideband [stDONE] = u at hs he ⊢
  constructor <;> intro hin
  · rw [he, if_pos hin]
  · obtain ⟨hi, hl, hq, ht⟩ := u.beginPackageReset_spec 4 (by decide)
    refine ⟨u.beginPackageReset 4, ?_, hi, hl, (hq.trans hs.lastSeq).trans (sideCommand_seq_lt hc), ht⟩
    rw [he, if_neg (by simp [hin]), State.packageReset]

theorem exec_stateWake_taken (hc : sideCommand 0x0007 List.isEmpty msg = some x) :
    exec (.stateWake msg) s = .next ((s.keepSeq x.seq).sideband [stDONE]).wake := by
  change Host.Outcome.next (s.signedCommand (sideCommand 0x0007 List.isEmpty msg) _) = _
  rw [hc, State.signedCommand_taken hm hr]

end

/-! ### Commands that are not taken -/

/-- The command c is the signed sideband command x, of which nothing but its effect is its own. -/
def IsSigned (c : Instr) (x : Option SideCommand) : Prop := ∃ act, ∀ s, exec c s = .next (s.signedCommand x act)

theorem IsSigned.notTaken {c : Instr} {x : Option SideCommand} (h : IsSigned c x) (s : State) :
    (s.muted = true → exec c s = .next (s.sideband [255])) ∧
    (s.muted = false → s.commandReason x ≠ 0 → exec c s = .next (s.refuseCommand (s.commandReason x))) := by
  obtain ⟨act, hact⟩ := h
  exact ⟨fun hm => by rw [hact, State.signedCommand_muted hm], fun hm hr => by rw [hact, State.signedCommand_refused hm hr]⟩

theorem isSigned_commands (msg : List Byte) (b : BootInputs) : ∀ p ∈ [(Instr.policySet msg, sideCommand 0x0002 policyForm msg),
    (Instr.massifPlanSet msg, sideCommand 0x0003 planForm msg), (Instr.partition msg, sideCommand 0x0004 partitionForm msg),
    (Instr.packageReset msg b, sideCommand 0x0006 List.isEmpty msg), (Instr.stateWake msg, sideCommand 0x0007 List.isEmpty msg)],
    IsSigned p.1 p.2 := by
  intro p hp
  simp only [List.mem_cons, List.not_mem_nil, or_false] at hp
  obtain rfl | rfl | rfl | rfl | rfl := hp <;> exact ⟨_, fun _ => rfl⟩

/-- OPERATOR_KEY_SET is a signed command but where it enrols the first key. -/
theorem exec_operatorKeySet_notEnrol {s : State} {enrolLow : Bool} {msg : List Byte}
    (h : sideCommand 0x0001 keyForm msg = none ∨ s.sec.operatorKey.isSome = true ∨ enrolLow = false ∨ s.muted = true) :
    ∃ act, exec (.operatorKeySet enrolLow msg) s = .next (s.signedCommand (sideCommand 0x0001 keyForm msg) act) := by
  refine ⟨fun body u => (u.setSec fun x => { x with keyRecord := some (.of "operator key" body) }).measureRecords, ?_⟩
  change execOperatorKeySet enrolLow msg s = _
  unfold execOperatorKeySet
  cases hc : sideCommand 0x0001 keyForm msg with
  | none => rfl
  | some x =>
    have hn : (s.sec.operatorKey.isNone && enrolLow && !s.muted) = false := by
      obtain h | h | h | h := h
      · rw [hc] at h; cases h
      · rw [Option.isNone_eq_false_iff.2 h]; rfl
      · simp [h]
      · simp [h]
    dsimp only
    rw [hn, if_neg (by decide)]

theorem exec_operatorKeySet_muted {s : State} (hm : s.muted = true) (enrolLow : Bool) (msg : List Byte) :
    exec (.operatorKeySet enrolLow msg) s = .next (s.sideband [255]) := by
  obtain ⟨act, hact⟩ := exec_operatorKeySet_notEnrol (enrolLow := enrolLow) (msg := msg) (.inr (.inr (.inr hm)))
  rw [hact, State.signedCommand_muted hm]

theorem exec_operatorKeySet_refused {s : State} {enrolLow : Bool} {msg : List Byte} (hm : s.muted = false)
    (hr : s.commandReason (sideCommand 0x0001 keyForm msg) ≠ 0)
    (h : sideCommand 0x0001 keyForm msg = none ∨ s.sec.operatorKey.isSome = true ∨ enrolLow = false) :
    exec (.operatorKeySet enrolLow msg) s = .next (s.refuseCommand (s.commandReason (sideCommand 0x0001 keyForm msg))) := by
  obtain ⟨act, hact⟩ := exec_operatorKeySet_notEnrol (enrolLow := enrolLow) (msg := msg) (s := s) (by tauto)
  rw [hact, State.signedCommand_refused hm hr]

end Sys2Proof.Machine
end

