-- ==== Sys2Proof/Proofs/IdentityKeys.lean ====
section
/-!
PROOFS. The signer, attestation reports, link keys, the sideband's own messages, calibration images (R43 to R45, R429, R436, R454, R470 to
R474, R480, R484, R519).
-/
namespace Sys2Proof.Machine

open Sys2Proof

/-! ### The signer (R472, R473) -/

theorem State.setF_ite_sec (u : State) (c : Prop) [Decidable c] (f : Fld) : (if c then u.setF f 0 0 1 else u).sec = u.sec := by
  split
  · exact State.setF_sec ..
  · rfl

theorem State.reserveIndex_sec (s : State) (j : SignJob) : (s.reserveIndex j).sec = { s.sec with
    signing := some (s.getF SIG_STATUS_NEXT_INDEX 0 0, j)
    indexLog := (s.getF SIG_STATUS_NEXT_INDEX 0 0 + 1) :: s.sec.indexLog
    signed := s.time :: s.sec.signed.filter fun t => decide (s.time < t + 1000 * msTicks) } := by
  unfold State.reserveIndex
  dsimp only
  rw [State.setF_ite_sec, State.setF_ite_sec, State.setSec_sec, State.setF_sec]

/-- Setting one of two other flags of SIG_STATUS where a condition asks for it. -/
theorem State.sigStatus_ite (u : State) (c : Prop) [Decidable c] (f g : Fld) (hr : g.reg = f.reg) (hf : f.fits = true) (hg : g.fits = true)
    (ha : f.apart g = true) : (if c then u.setF f 0 0 1 else u).getF g 0 0 = u.getF g 0 0 := by
  split
  · exact State.getF_setF_apart u f g 0 0 1 hr hf hg ha
  · rfl

theorem State.reserveIndex_nextIndex (s : State) (j : SignJob) :
    (s.reserveIndex j).getF SIG_STATUS_NEXT_INDEX 0 0 = (s.getF SIG_STATUS_NEXT_INDEX 0 0 + 1) % 2 ^ 32 := by
  unfold State.reserveIndex
  dsimp only
  rw [State.sigStatus_ite _ _ SIG_STATUS_EXHAUSTED SIG_STATUS_NEXT_INDEX rfl rfl rfl rfl,
    State.sigStatus_ite _ _ SIG_STATUS_BUILDING SIG_STATUS_NEXT_INDEX rfl rfl rfl rfl, State.setSec_getF, State.getF_setF _ _ _ _ _ rfl]
  rfl

theorem State.reserveIndex_exhausted (s : State) (j : SignJob) (h : s.flag SIG_STATUS_EXHAUSTED 0 0 = false) :
    (s.reserveIndex j).flag SIG_STATUS_EXHAUSTED 0 0 = decide (s.getF SIG_STATUS_NEXT_INDEX 0 0 + 1 = 2 ^ 30) := by
  unfold State.reserveIndex
  dsimp only
  split
  · next hl => rw [State.flag_setF_one _ _ _ _ rfl, decide_eq_true hl]
  · next hl =>
    rw [State.flag, State.sigStatus_ite _ _ SIG_STATUS_BUILDING SIG_STATUS_EXHAUSTED rfl rfl rfl rfl, State.setSec_getF,
      State.getF_setF_apart _ SIG_STATUS_NEXT_INDEX SIG_STATUS_EXHAUSTED 0 0 _ rfl rfl rfl rfl, decide_eq_false hl]
    exact h

section
variable {s : State} {j : SignJob} {rest : List SignJob}

theorem exec_signRequest_eq (hw : s.sec.wanted = j :: rest) : exec .signRequest s =
    if s.flag SIG_STATUS_EXHAUSTED 0 0 then .next (s.setSec fun x => { x with wanted := rest })
    else if s.sec.signing.isSome then .next s
    else if s.sec.waiting.isEmpty && s.signBudget then .next ((s.setSec fun x => { x with wanted := rest }).reserveIndex j)
    else .next ((s.setSec fun x => { x with wanted := rest }).setSec fun x => { x with waiting := x.waiting ++ [j] }) := by
  change execSignRequest s = _
  unfold execSignRequest
  rw [hw]

theorem exec_signRequest_taken (hw : s.sec.wanted = j :: rest) (hx : s.flag SIG_STATUS_EXHAUSTED 0 0 = false) (hs : s.sec.signing = none)
    (hq : s.sec.waiting = []) (hb : s.signBudget = true) :
    let i := s.getF SIG_STATUS_NEXT_INDEX 0 0
    Completes .signRequest s fun t =>
      t.sec.wanted = rest ∧ t.sec.signing = some (i, j) ∧ t.sec.indexLog = (i + 1) :: s.sec.indexLog ∧
      t.getF SIG_STATUS_NEXT_INDEX 0 0 = (i + 1) % 2 ^ 32 ∧ (t.flag SIG_STATUS_EXHAUSTED 0 0 = decide (i + 1 = 2 ^ 30)) ∧ t.out = s.out := by
  refine ⟨(s.setSec fun x => { x with wanted := rest }).reserveIndex j, ?_, ?_, ?_, ?_, State.reserveIndex_nextIndex _ _,
    State.reserveIndex_exhausted _ _ hx, (State.reserveIndex_moves _ _).same .out (by decide)⟩
  · rw [exec_signRequest_eq hw, hx, hs, hq, hb]; rfl
  all_goals rw [State.reserveIndex_sec]; rfl

theorem exec_signRequest_waits (hw : s.sec.wanted = j :: rest) (hx : s.flag SIG_STATUS_EXHAUSTED 0 0 = false) (hs : s.sec.signing = none)
    (hq : s.sec.waiting ≠ [] ∨ s.signBudget = false) : Completes .signRequest s fun t =>
      t.sec.wanted = rest ∧ t.sec.waiting = s.sec.waiting ++ [j] ∧ t.regs = s.regs := by
  have hc : (s.sec.waiting.isEmpty && s.signBudget) = false := by
    obtain h | h := hq
    · simp [h]
    · simp [h]
  refine ⟨(s.setSec fun x => { x with wanted := rest }).setSec fun x => { x with waiting := x.waiting ++ [j] }, ?_, rfl, rfl, rfl⟩
  rw [exec_signRequest_eq hw, hx, hs, hc]
  rfl

theorem exec_signRateRelease_eq (hw : s.sec.waiting = j :: rest) (hx : s.flag SIG_STATUS_EXHAUSTED 0 0 = false) : exec .signRateRelease s =
    if s.sec.signing.isSome || !s.signBudget then .next s
    else .next ((s.setSec fun x => { x with waiting := rest }).reserveIndex j) := by
  change execSignRateRelease s = _
  unfold execSignRateRelease
  rw [hw]
  dsimp only
  rw [hx, if_neg (by decide)]

theorem exec_signRateRelease_taken (hw : s.sec.waiting = j :: rest) (hx : s.flag SIG_STATUS_EXHAUSTED 0 0 = false)
    (hs : s.sec.signing = none) (hb : s.signBudget = true) : Completes .signRateRelease s fun t =>
      t.sec.waiting = rest ∧ t.sec.signing = some (s.getF SIG_STATUS_NEXT_INDEX 0 0, j) := by
  refine ⟨(s.setSec fun x => { x with waiting := rest }).reserveIndex j, ?_, ?_, ?_⟩
  · rw [exec_signRateRelease_eq hw hx, hs, hb]; rfl
  all_goals rw [State.reserveIndex_sec]; rfl

theorem exec_signRateRelease_waits (hw : s.sec.waiting = j :: rest) (hx : s.flag SIG_STATUS_EXHAUSTED 0 0 = false)
    (h : s.sec.signing.isSome = true ∨ s.signBudget = false) : exec .signRateRelease s = .next s := by
  have hc : (s.sec.signing.isSome || !s.signBudget) = true := by
    obtain h | h := h <;> simp [h]
  rw [exec_signRateRelease_eq hw hx, if_pos hc]

end

section
variable {s : State} {i : Nat} {j : SignJob} (hs : s.sec.signing = some (i, j))
include hs

theorem exec_indexReserved_noTree (hc : s.sec.cached (i / 1048576) = none) : exec .indexReserved s = .next s := by
  change execIndexReserved s = _
  unfold execIndexReserved
  rw [hs]
  dsimp only
  rw [hc]
  rfl

theorem exec_indexReserved_tree {c : CachedTree} (hc : s.sec.cached (i / 1048576) = some c) :
    exec .indexReserved s = .next ((s.setSec fun x => { x with signing := none }).sendSigned i j) := by
  change execIndexReserved s = _
  unfold execIndexReserved
  rw [hs]
  dsimp only
  rw [hc]
  rfl

theorem exec_indexReserved_attest {c : CachedTree} (hc : s.sec.cached (i / 1048576) = some c) {mctp : Bool} {nonce : List Byte}
    (hj : j = .attest mctp nonce) : Completes .indexReserved s fun t =>
      t.sec.signing = none ∧ t.regs = s.regs ∧ t.out = s.out ++ [⟨.other, if mctp then 131072 else 131076, [],
        s.attestReport nonce ++ s.sec.certificate ++ hssSign s.sec.seed c.upper i (s.attestReport nonce)⟩] := by
  let u := s.setSec fun x => { x with signing := none }
  have hp : u.proved i (u.attestReport nonce) =
      s.attestReport nonce ++ s.sec.certificate ++ hssSign s.sec.seed c.upper i (s.attestReport nonce) := by
    have hcu : u.sec.cached (i / 1048576) = some c := hc
    unfold State.proved
    rw [hcu]
    rfl
  refine ⟨_, exec_indexReserved_tree hs hc, ?_, ?_, ?_⟩ <;> subst hj
  · rfl
  · rfl
  · exact (State.emit_out ..).trans (congrArg (fun l => s.out ++ [⟨.other, if mctp then 131072 else 131076, [], l⟩]) hp)

end

theorem State.measureBytes_length (s : State) : s.measureBytes.length = 160 := by
  simp [State.measureBytes, List.length_flatMap]

theorem State.attestReport_length (s : State) (nonce : List Byte) (h : nonce.length = 32) : (s.attestReport nonce).length = 208 := by
  simp [State.attestReport, State.measureBytes_length, h]

/-! ### The tree cache (R473) -/

/-- The cache after tree n was built: the tree before it, where it stands there, and the new one. -/
theorem cachedTrees_built (l : List CachedTree) (n : Nat) (c : CachedTree) (hc : c.tree = n) :
    ((l.filter fun x => x.tree + 1 == n) ++ [c]).find? (fun x => x.tree == n) = some c ∧
    ∀ k, k + 1 = n → ((l.filter fun x => x.tree + 1 == n) ++ [c]).find? (fun x => x.tree == k) = l.find? fun x => x.tree == k := by
  constructor
  · have hnone : (l.filter fun x => x.tree + 1 == n).find? (fun x => x.tree == n) = none := by
      simp only [List.find?_eq_none, List.mem_filter, beq_iff_eq]
      rintro x ⟨-, hx⟩ he
      omega
    rw [List.find?_append, hnone]
    simp [hc]
  · intro k hk
    have hnot : ([c].find? fun x => x.tree == k) = none := by
      simp only [List.find?_eq_none, List.mem_singleton, forall_eq, beq_iff_eq]
      omega
    rw [List.find?_append, hnot, Option.or_none, List.find?_filter]
    congr 1
    funext x
    by_cases hx : x.tree = k
    · simp [hx, hk]
    · simp [hx]

theorem exec_treeBuildDone_idle {s : State} (h : s.flag SIG_STATUS_BUILDING 0 0 = false) : exec .treeBuildDone s = .next s := by
  change execTreeBuildDone s = _
  unfold execTreeBuildDone
  rw [if_neg (by simp [h])]

theorem exec_treeBuildDone_built {s : State} (h : s.flag SIG_STATUS_BUILDING 0 0 = true) : Completes .treeBuildDone s fun t =>
    t.flag SIG_STATUS_BUILDING 0 0 = false ∧ t.sec.cached s.treeBuilt = some ⟨s.treeBuilt, treeSignature s.sec.seed s.treeBuilt⟩ ∧
    (∀ n, n + 1 = s.treeBuilt → t.sec.cached n = s.sec.cached n) := by
  have he : exec .treeBuildDone s = .next ((s.setF SIG_STATUS_BUILDING 0 0 0).setSec fun x => { x with
      trees := (x.trees.filter fun c => c.tree + 1 == s.treeBuilt) ++ [⟨s.treeBuilt, treeSignature x.seed s.treeBuilt⟩] }) := by
    change execTreeBuildDone s = _
    unfold execTreeBuildDone
    rw [if_pos h]
  obtain ⟨hnew, hold⟩ := cachedTrees_built s.sec.trees s.treeBuilt ⟨s.treeBuilt, treeSignature s.sec.seed s.treeBuilt⟩ rfl
  refine ⟨_, he, ?_, hnew, hold⟩
  rw [State.setSec_flag, State.flag, State.getF_setF _ _ _ _ _ rfl]
  rfl

/-! ### Attestation requests (R480) -/

theorem attestNonce_length {mctp : Bool} {msg nonce : List Byte} (h : attestNonce mctp msg = some nonce) : nonce.length = 32 := by
  unfold attestNonce at h
  split at h
  · obtain ⟨c, hc, rfl⟩ := Option.map_eq_some_iff.1 h
    have hform := (sideCommand_some (Option.filter_eq_some_iff.1 hc).1).1
    simpa using hform
  · split at h
    · next hl => cases h; exact hl
    · cases h

theorem exec_attest_muted {s : State} (msg : List Byte) (h : s.muted = true) : exec (.attest true msg) s = .next (s.sideband [255]) := by
  change execAttest true msg s = _
  unfold execAttest
  rw [if_pos (by simp [h])]

section
variable {s : State} {mctp : Bool} {msg : List Byte} (h : mctp = false ∨ s.muted = false)
include h

theorem exec_attest_malformed (hn : attestNonce mctp msg = none) :
    exec (.attest mctp msg) s = .next (if mctp then s.refuseCommand 4 else s) := by
  change execAttest mctp msg s = _
  unfold execAttest
  rw [if_neg (by obtain h | h := h <;> simp [h]), hn]

theorem exec_attest_nonce {nonce : List Byte} (hn : attestNonce mctp msg = some nonce) : exec (.attest mctp msg) s =
    if s.flag SIG_STATUS_EXHAUSTED 0 0 then .next s else .next (s.wantSign (.attest mctp nonce)) := by
  change execAttest mctp msg s = _
  unfold execAttest
  rw [if_neg (by obtain h | h := h <;> simp [h]), hn]

theorem exec_attest_served : (attestNonce mctp msg = none → exec (.attest mctp msg) s = .next (if mctp then s.refuseCommand 4 else s)) ∧
    ∀ nonce, attestNonce mctp msg = some nonce → nonce.length = 32 ∧
      (s.flag SIG_STATUS_EXHAUSTED 0 0 = true → exec (.attest mctp msg) s = .next s) ∧
      (s.flag SIG_STATUS_EXHAUSTED 0 0 = false → Completes (.attest mctp msg) s fun t =>
        t.sec.wanted = s.sec.wanted ++ [.attest mctp nonce] ∧ t.regs = s.regs) := by
  refine ⟨exec_attest_malformed h, fun nonce hn => ⟨attestNonce_length hn, fun hx => ?_, fun hx => ?_⟩⟩
  · rw [exec_attest_nonce h hn, if_pos hx]
  · exact ⟨s.wantSign (.attest mctp nonce), by rw [exec_attest_nonce h hn, if_neg (by simp [hx])], rfl, rfl⟩

end

/-! ### Link keys (R484) -/

/-- Port p's slot after a key was installed: the staged words and salt, in the slot of a direction, which counts as valid. -/
theorem State.installKey_spec (s : State) (p dir slot : Nat) (words : List Reg) (salt valid : Fld) (hs : slot < 2)
    (hf : valid.fits = true) (hw : valid.hi + 1 - valid.lo = 2) :
    ∃ u : State, s.installKey p dir slot words salt valid = u.tryRaise p ∧
      kget KeySlot.zero u.fabric.keys (p * 4 + dir * 2 + slot) =
        ⟨words.map fun r => (s.reg r (p / 4) (p % 4)).toNat, s.portF salt p, 0⟩ ∧
      (u.portF valid p).testBit slot = true := by
  refine ⟨_, rfl, ?_, ?_⟩
  · rw [State.setPortF, State.setF_fabric, State.setFabric_fabric]
    exact kget_kset_same ..
  · rw [State.portF, State.setPortF, State.getF_setF _ _ _ _ _ hf, hw, Nat.testBit_mod_two_pow, Nat.testBit_or, Nat.testBit_two_pow_self]
    simp [hs]

section
variable {s : State} {p : Fin 16} (hd : s.dieRunning (p / 4) = true)
include hd

theorem exec_installTx_active (slot : Fin 2) (h : slot.val = s.portF KEY_CTRL_ACTIVE_TX p) :
    exec (.installTx p slot) s = .next (s.setF CRYPT_BLK_STATUS_CFG_ERR (p / 4) 0 1) := by
  change Host.Outcome.next (s.installTx p slot) = _
  unfold State.installTx
  rw [if_neg (by simp [hd]), if_pos h]

theorem exec_installTx_other (slot : Fin 2) (h : slot.val ≠ s.portF KEY_CTRL_ACTIVE_TX p) :
    CompletesThen (.installTx p slot) s (State.tryRaise · p) fun u =>
      kget KeySlot.zero u.fabric.keys (p * 4 + slot) = ⟨[TX_KEY0, TX_KEY1, TX_KEY2, TX_KEY3].map fun r =>
        (s.reg r (p / 4) (p % 4)).toNat, s.portF SALTS_TX_SALT p, 0⟩ ∧
      (u.portF KEY_CTRL_TX_VALID p).testBit slot = true := by
  obtain ⟨u, hu, hk, hv⟩ := s.installKey_spec p 0 slot [TX_KEY0, TX_KEY1, TX_KEY2, TX_KEY3] SALTS_TX_SALT KEY_CTRL_TX_VALID slot.isLt rfl rfl
  refine ⟨u, ?_, by simpa using hk, hv⟩
  change Host.Outcome.next (s.installTx p slot) = _
  unfold State.installTx
  rw [if_neg (by simp [hd]), if_neg h, hu]

theorem exec_installRx (slot : Fin 2) : CompletesThen (.installRx p slot) s (State.tryRaise · p) fun u =>
    kget KeySlot.zero u.fabric.keys (p * 4 + 2 + slot) = ⟨[RX_KEY0, RX_KEY1, RX_KEY2, RX_KEY3].map fun r =>
      (s.reg r (p / 4) (p % 4)).toNat, s.portF SALTS_RX_SALT p, 0⟩ ∧
    (u.portF KEY_CTRL_RX_VALID p).testBit slot = true := by
  obtain ⟨u, hu, hk, hv⟩ := s.installKey_spec p 1 slot [RX_KEY0, RX_KEY1, RX_KEY2, RX_KEY3] SALTS_RX_SALT KEY_CTRL_RX_VALID slot.isLt rfl rfl
  refine ⟨u, ?_, by simpa using hk, hv⟩
  change Host.Outcome.next (s.installRx p slot) = _
  unfold State.installRx
  rw [if_neg (by simp [hd]), hu]

end

/-! ### The sideband's own messages (R429, R436, R454, R470) -/

theorem State.noteHealth_eq (s : State) : s.noteHealth = if s.pkgHealth = s.pins.healthSeen then s
    else s.setPins fun r => { r with healthSeen := s.pkgHealth, healthEvents := r.healthEvents ++ [s.pkgHealth] } := rfl

theorem State.noteHealth_spec (s : State) : s.noteHealth.pins.healthSeen = s.pkgHealth ∧ s.noteHealth.regs = s.regs ∧
    s.noteHealth.out = s.out ∧ s.noteHealth.pins.floating = s.pins.floating ∧
    s.noteHealth.pins.healthEvents = s.pins.healthEvents ++ if s.pkgHealth = s.pins.healthSeen then [] else [s.pkgHealth] := by
  rw [State.noteHealth_eq]
  split
  · next h => exact ⟨h.symm, rfl, rfl, rfl, (List.append_nil _).symm⟩
  · simp only [State.setPins_pins, State.setPins_regs, State.setPins_out, and_self]

theorem State.pkgHealth_of_regs {s t : State} (h : t.regs = s.regs) : t.pkgHealth = s.pkgHealth := by
  have hg := State.getF_of_regs h
  have hr (r : Reg) (d i : Nat) : t.reg r d i = s.reg r d i := by rw [State.reg, State.reg, h]
  simp only [State.pkgHealth, State.dieState, State.stackState, State.dirSet, State.portState, State.portF, hg, hr]

theorem State.pldmSensors_of_regs {s t : State} (h : t.regs = s.regs) : t.pldmSensors = s.pldmSensors := by
  simp only [State.pldmSensors, State.pkgHealth_of_regs h, State.getF_of_regs h]

theorem exec_pldmMonitor_muted {s : State} (h : s.muted = true) : exec .pldmMonitor s = .next (s.sideband [255]) := by
  change execPldmMonitor s = _
  unfold execPldmMonitor
  rw [if_pos h]

theorem exec_pldmMonitor_eq {s : State} (h : s.muted = false) : exec .pldmMonitor s =
    .next ((s.noteHealth.setPins fun r => { r with healthEvents := [] }).sideband
      (1 :: s.noteHealth.pins.healthEvents.length :: (s.noteHealth.pins.healthEvents ++ s.noteHealth.pldmSensors))) :=
  if_neg (by simp [h])

theorem exec_pldmMonitor_served {s : State} (h : s.muted = false) : Completes .pldmMonitor s fun t =>
    let l := s.pins.healthEvents ++ (if s.pkgHealth = s.pins.healthSeen then [] else [s.pkgHealth])
    t.pins.healthEvents = [] ∧ t.pins.healthSeen = s.pkgHealth ∧ t.regs = s.regs ∧
    t.out = s.out ++ [⟨.other, 131072, 1 :: l.length :: (l ++ s.pldmSensors), []⟩] := by
  have he := exec_pldmMonitor_eq h
  obtain ⟨hseen, hregs, hout, hfl, hev⟩ := s.noteHealth_spec
  rw [State.pldmSensors_of_regs hregs, hev] at he
  generalize s.noteHealth = u at *
  have hf : (u.setPins fun r => { r with healthEvents := [] }).pins.floating = false := hfl.trans (State.floating_of_muted h)
  rw [State.sideband_speaks hf] at he
  refine ⟨_, he, ?_, ?_, ?_, ?_⟩
  · rw [State.emit_pins, State.setPins_pins]
  · rw [State.emit_pins, State.setPins_pins, hseen]
  · rw [State.emit_regs, State.setPins_regs, hregs]
  · rw [State.emit_out, State.setPins_out, hout]

section
variable {s : State} (complete ok : Bool) (campSvn crestSvn : Fin 256) (campDigest crestDigest : Nat) (campBuild : Fin 4294967296)
  (records : List ManifestRecord)

theorem exec_pldmFirmwareUpdate_floating (manifest : Bool) (h : s.pins.floating = true) :
    exec (.pldmFirmwareUpdate manifest complete ok campSvn crestSvn campDigest crestDigest campBuild records) s = .next s := by
  change execPldmFirmwareUpdate manifest complete ok campSvn crestSvn campDigest crestDigest campBuild records s = _
  unfold execPldmFirmwareUpdate
  rw [if_pos h]

variable (h : s.pins.floating = false)
include h

theorem exec_pldmFirmwareUpdate_manifest (hc : complete = true) (hk : ok = true) :
    Completes (.pldmFirmwareUpdate true complete ok campSvn crestSvn campDigest crestDigest campBuild records) s fun t =>
      t.sec.staged = some (true, campDigest, records) ∧ t.sec.slotA = s.sec.slotA ∧ t.sec.slotB = s.sec.slotB ∧ t.regs = s.regs := by
  have he : exec (.pldmFirmwareUpdate true complete ok campSvn crestSvn campDigest crestDigest campBuild records) s =
      .next ((s.setSec fun x => { x with staged := some (true, campDigest, records) }).sideband [2, 0]) := by
    change execPldmFirmwareUpdate true complete ok campSvn crestSvn campDigest crestDigest campBuild records s = _
    unfold execPldmFirmwareUpdate
    rw [if_neg (by simp [h]), hc, hk]
    rfl
  have hm := State.sideband_moves (s.setSec fun x => { x with staged := some (true, campDigest, records) }) [2, 0]
  have hsec := hm.same .sec (by decide)
  exact ⟨_, he, by rw [hsec]; rfl, by rw [hsec]; rfl, by rw [hsec]; rfl, hm.same .regs (by decide)⟩

theorem exec_pldmFirmwareUpdate_slot :
    Completes (.pldmFirmwareUpdate false complete ok campSvn crestSvn campDigest crestDigest campBuild records) s fun t =>
      t.sec.switchSlot = (complete && ok) ∧
      (s.sec.active = 1 → t.sec.slotB = s.sec.slotB ∧ t.sec.slotA.campOk = (complete && ok)) ∧
      (s.sec.active ≠ 1 → t.sec.slotA = s.sec.slotA ∧ t.sec.slotB.campOk = (complete && ok)) ∧ t.sec.active = s.sec.active := by
  let slot : BootSlot := ⟨complete && ok, complete && ok, campSvn, crestSvn, campDigest, crestDigest, campBuild⟩
  let u := s.setSec fun x => { x with
    slotA := if x.active = 1 then slot else x.slotA
    slotB := if x.active = 1 then x.slotB else slot
    switchSlot := complete && ok }
  have he : exec (.pldmFirmwareUpdate false complete ok campSvn crestSvn campDigest crestDigest campBuild records) s =
      .next (u.sideband [2, b2n (!(complete && ok))]) := by
    change execPldmFirmwareUpdate false complete ok campSvn crestSvn campDigest crestDigest campBuild records s = _
    unfold execPldmFirmwareUpdate
    rw [if_neg (by simp [h]), if_neg (by decide)]
  have hsec : (u.sideband [2, b2n (!(complete && ok))]).sec = u.sec := (State.sideband_moves u _).same .sec (by decide)
  refine ⟨_, he, ?_, fun ha => ?_, fun ha => ?_, ?_⟩ <;> rw [hsec]
  · rfl
  · exact ⟨if_pos ha, congrArg BootSlot.campOk (if_pos ha)⟩
  · exact ⟨if_neg ha, congrArg BootSlot.campOk (if_neg ha)⟩
  · rfl

end

/-! ### Calibration images (R43 to R45) -/

section
variable {s : State} {kind : Fin 9} {inst : Fin 64}

theorem exec_calibration_absent (h : shellCount kind ≤ inst.val) (image : List Byte) :
    exec (.calibrationSave kind inst) s = .next s ∧ exec (.calibrationRestore kind inst image) s = .next s :=
  ⟨if_pos h, if_pos h⟩

variable (h : inst.val < shellCount kind)
include h

theorem exec_calibrationSave_image : exec (.calibrationSave kind inst) s = .next (s.emit .other 131077 [0, kind, inst, stDONE]
    (s.shellImage kind inst ((s.shell (kind.val * 256 + inst.val)).present.body (kind.val * 256 + inst.val)))) :=
  if_neg (Nat.not_le.2 h)

theorem exec_calibrationRestore_busy (image : List Byte) (hb : s.shellBusy kind inst = true) :
    exec (.calibrationRestore kind inst image) s = .next (s.emit .other 131077 [1, kind, inst, stNORES] []) := by
  change execCalibrationRestore kind inst image s = _
  unfold execCalibrationRestore
  rw [if_neg (Nat.not_le.2 h)]
  dsimp only
  rw [if_pos hb]

theorem exec_calibrationRestore_taken {image : List Byte} (hb : s.shellBusy kind inst = false) (hi : s.imageOk kind inst image = true) :
    let k := kind.val * 256 + inst.val
    Completes (.calibrationRestore kind inst image) s fun t =>
      (t.shell k).present = .image (image.drop 16) ∧ (t.shell k).defaultStart = false ∧
      t.out = s.out ++ [⟨.other, 131077, [1, kind, inst, stDONE], []⟩] := by
  intro k
  have hu : ∀ x : Shell, ((s.setShell k x).emit .other 131077 [1, kind, inst, stDONE] []).shell k = x := State.shell_setShell s k
  refine ⟨(s.setShell k { s.shell k with present := .image (image.drop 16), defaultStart := false }).emit .other 131077
    [1, kind, inst, stDONE] [], ?_, by rw [hu], by rw [hu], rfl⟩
  change execCalibrationRestore kind inst image s = _
  unfold execCalibrationRestore
  rw [if_neg (Nat.not_le.2 h)]
  dsimp only
  rw [if_neg (by simp [hb]), if_pos hi]
  rfl

theorem exec_calibrationRestore_refused {image : List Byte} (hb : s.shellBusy kind inst = false) (hi : s.imageOk kind inst image = false) :
    let k := kind.val * 256 + inst.val
    Completes (.calibrationRestore kind inst image) s fun t =>
      (t.shell k).present = (s.shell k).present ∧ (t.shell k).refused = true ∧ (t.shell k).defaultStart = true ∧
      t.out = s.out ++ [⟨.other, 131077, [1, kind, inst, stINVALID], []⟩] := by
  intro k
  have hu : ((s.shellRefuse kind inst).emit .other 131077 [1, kind, inst, stINVALID] []).shell k =
      { s.shell k with refused := true, defaultStart := true } := State.shell_setShell ..
  refine ⟨(s.shellRefuse kind inst).emit .other 131077 [1, kind, inst, stINVALID] [], ?_, by rw [hu], by rw [hu], by rw [hu], rfl⟩
  change execCalibrationRestore kind inst image s = _
  unfold execCalibrationRestore
  rw [if_neg (Nat.not_le.2 h)]
  dsimp only
  rw [if_neg (by simp [hb]), if_neg (by simp [hi])]

end

/-- Settles O53: each command's rule is a lemma above or, for the signed commands, of the file before. -/
theorem identityAndKeys : Obligations.IdentityAndKeys := by
  unfold Obligations.IdentityAndKeys
  intro s
  refine ⟨fun x => ⟨rfl, State.commandReason_noKey x, fun key => State.commandReason_key x⟩, fun enrolLow msg b => ?_, fun j rest hw => ?_,
    fun j rest hw hx => ⟨exec_signRateRelease_taken hw hx, exec_signRateRelease_waits hw hx⟩, fun i j hs => ?_, s.attestReport_length,
    exec_treeBuildDone_idle, exec_treeBuildDone_built, fun msg => exec_attest_muted msg, fun mctp msg => exec_attest_served,
    fun p slot hd => ⟨exec_installTx_active hd slot, exec_installTx_other hd slot, exec_installRx hd slot⟩, rfl, fun _ => rfl,
    fun _ _ => rfl, exec_pldmMonitor_muted, exec_pldmMonitor_served, ?_, ?_, fun kind inst image => ?_⟩
  · refine ⟨fun p hp => (isSigned_commands msg b p hp).notTaken s, fun hm => exec_operatorKeySet_muted hm enrolLow msg,
      exec_operatorKeySet_refused, fun x hm => ⟨fun hc hk he => ?_, fun hr => ⟨exec_operatorKeySet_signed hm hr enrolLow,
        exec_policySet_taken hm hr, exec_massifPlanSet_taken hm hr, exec_partition_taken hm hr, exec_packageReset_taken hm hr b,
        exec_stateWake_taken hm hr⟩⟩⟩
    rw [he]
    exact exec_operatorKeySet_enrol hm hc hk
  · refine ⟨fun hx => ?_, fun hx => ⟨fun hs => ?_, exec_signRequest_taken hw hx, exec_signRequest_waits hw hx⟩⟩
    · rw [exec_signRequest_eq hw, if_pos hx]
    · rw [exec_signRequest_eq hw, if_neg (by simp [hx]), if_pos hs]
  · exact ⟨exec_indexReserved_noTree hs, fun c hc => ⟨exec_indexReserved_tree hs hc, fun _ _ => exec_indexReserved_attest hs hc⟩⟩
  · intro manifest complete ok campSvn crestSvn campDigest crestDigest campBuild records hf
    exact exec_pldmFirmwareUpdate_floating complete ok campSvn crestSvn campDigest crestDigest campBuild records manifest hf
  · intro complete ok campSvn crestSvn campDigest crestDigest campBuild records hf
    exact ⟨exec_pldmFirmwareUpdate_manifest complete ok campSvn crestSvn campDigest crestDigest campBuild records hf,
      exec_pldmFirmwareUpdate_slot complete ok campSvn crestSvn campDigest crestDigest campBuild records hf⟩
  · exact ⟨fun h => exec_calibration_absent h image, fun h => ⟨exec_calibrationSave_image h, exec_calibrationRestore_busy h image,
      exec_calibrationRestore_taken h, exec_calibrationRestore_refused h⟩⟩

end Sys2Proof.Machine
end

