-- ==== Sys2Proof/Proofs/QueueInstructions.lean ====
section
/-!
PROOFS. The tile queue: what the Spur core's instructions do to it, what its head does when it issues, waits or breaks a rule (R58 to R66,
R83, R84).
-/
namespace Sys2Proof.Machine

open Sys2Proof

/-! ### The Spur core's instructions (R58 to R60, R83, R156) -/

/-- Settling the head leaves what stalls a core. -/
@[simp] theorem State.stall_settleHead (s : State) (d g k : Nat) : ((s.settleHead d g).coreOf d k).stall = (s.coreOf d k).stall := by
  rcases State.coreOf_settleHead s d g k with h | h <;> rw [h]

/-- A flag set to 0 is clear. -/
theorem State.flag_setF_zero (s : State) (f : Fld) (d i : Nat) (h : f.fits = true) : (s.setF f d i 0).flag f d i = false := by
  rw [State.flag, State.getF_setF _ _ _ _ _ h, Nat.zero_mod]
  rfl

/-- The word that stalled on a full queue enters as the head leaves (R60). -/
theorem State.popHead_push {s : State} {d g : Nat} {w : Word} (h : (s.coreOf d g).stall = some (.push w)) :
    ((s.popHead d g).coreOf d g).stall = none ∧
    ((s.popHead d g).coreOf d g).tq = (s.coreOf d g).tq.drop 1 ++ [(s.coreOf d g).capture w s.job] := by
  unfold State.popHead
  rw [State.stall_settleHead, State.tq_settleHead, State.coreOf_updCore]
  simp only [h, true_and]
  rfl

/-- A word enters a queue that has room: what it captured stands behind the others, and SRBLOCK advances (R59, R102, R136). -/
def State.pushed (s : State) (d g : Nat) (w : Word) : State :=
  let t := s.updCore d g fun c => c.enqueue w s.job
  if (s.coreOf d g).tq.isEmpty then t.settleHead d g else t

theorem State.pushed_spec (s : State) (d g : Nat) (w : Word) :
    ((s.pushed d g w).coreOf d g).tq = (s.coreOf d g).tq ++ [(s.coreOf d g).capture w s.job] ∧
    ((s.pushed d g w).coreOf d g).srblock = ((s.coreOf d g).srblock + srAdvance w) % 2 ^ 32 := by
  unfold State.pushed
  dsimp only
  split
  · rw [State.tq_settleHead, State.srblock_settleHead, State.coreOf_updCore]
    exact ⟨rfl, rfl⟩
  · rw [State.coreOf_updCore]
    exact ⟨rfl, rfl⟩

/-- The queue cleared: no word, no fault, no hold, and `st` stalls the core (R83, R156). -/
def State.cleared (s : State) (d g : Nat) (st : Option SpurStall) : State :=
  (s.setF CORE_STATUS_TQ_FAULT d g 0).updCore d g fun c =>
    { c with tq := [], held := false, stall := st, vecPushed := c.vecDone + (c.vec.filter fun r => r.mma.isNone).length }

theorem State.coreOf_cleared (s : State) (d g : Nat) (st : Option SpurStall) : (s.cleared d g st).coreOf d g =
    { s.coreOf d g with
      tq := [], held := false, stall := st
      vecPushed := (s.coreOf d g).vecDone + ((s.coreOf d g).vec.filter fun r => r.mma.isNone).length } := by
  rw [State.cleared, State.coreOf_updCore, State.coreOf_setF]

theorem State.tqStopped_cleared (s : State) (d g : Nat) (st : Option SpurStall) : (s.cleared d g st).tqStopped d g = false := by
  rw [State.cleared, State.tqStopped, State.flag_updCore]
  exact State.flag_setF_zero _ _ _ _ rfl

theorem exec_tqClear_rdw {s : State} {d : Fin 4} {g : Fin 96} {insn : BitVec 32} {rd slot upTo : Nat} (hl : s.coreLive d g = true)
    (hr : s.flag CORE_CTRL_RUN d g = true) (hs : (s.coreOf d g).stall = some (.rdw rd slot upTo)) (hi : spurIs insn 0x0B 4 = true) :
    exec (.tqClear d g insn) s = .next (s.cleared d g (some (.rdw rd slot 0))) := by
  show execTqClear d g insn s = _
  rw [execTqClear, if_neg (by simp [hl, hr])]
  simp only [hs, hi, if_true]
  rfl

section
variable {s : State} {d : Fin 4} {g : Fin 96} {insn : BitVec 32} (h : s.spurReady d g = true)
include h

theorem exec_tqPush_enters {w : Word} (hi : spurIs insn 0x0B 0 = true) (hn : (s.coreOf d g).tq.length < 32) :
    exec (.tqPush d g insn w) s = .next (s.pushed d g w) := by
  show execTqPush d g insn w s = _
  rw [execTqPush, h, if_neg (by simp), if_neg (by simp [hi]), if_pos hn]
  rfl

theorem exec_tqPush_stalls {w : Word} (hi : spurIs insn 0x0B 0 = true) (hn : 32 ≤ (s.coreOf d g).tq.length) :
    exec (.tqPush d g insn w) s = .next (s.updCore d g fun c => { c with stall := some (.push w) }) := by
  show execTqPush d g insn w s = _
  rw [execTqPush, h, if_neg (by simp), if_neg (by simp [hi]), if_neg (Nat.not_lt.mpr hn)]

theorem exec_tqPush_traps {w : Word} (hi : spurIs insn 0x0B 0 = false) : exec (.tqPush d g insn w) s = .next (s.spurTrap d g 2) := by
  show execTqPush d g insn w s = _
  rw [execTqPush, h, if_neg (by simp), if_pos (by simp [hi])]

theorem exec_tqSeta_sets {v : Word} (hi : spurIs insn 0x0B 1 = true) (hn : spurRd insn < 16) :
    exec (.tqSeta d g insn v) s = .next (s.updCore d g fun c => { c with ta := kset 0 c.ta (spurRd insn) v }) := by
  show execTqSeta d g insn v s = _
  rw [execTqSeta, h, if_neg (by simp), if_neg (by simp [hi, hn])]

theorem exec_tqSeta_traps {v : Word} (hi : spurIs insn 0x0B 1 = false ∨ 16 ≤ spurRd insn) :
    exec (.tqSeta d g insn v) s = .next (s.spurTrap d g 2) := by
  show execTqSeta d g insn v s = _
  rw [execTqSeta, h, if_neg (by simp), if_pos (by simpa using hi)]

theorem exec_tqStat_reads (hi : spurIs insn 0x0B 2 = true) :
    exec (.tqStat d g insn) s = .next (s.updCore d g fun c => c.setX (spurRd insn) (s.tqStatus d g)) := by
  show execTqStat d g insn s = _
  rw [execTqStat, h, if_neg (by simp), if_neg (by simp [hi])]

theorem exec_tqStat_traps (hi : spurIs insn 0x0B 2 = false) : exec (.tqStat d g insn) s = .next (s.spurTrap d g 2) := by
  show execTqStat d g insn s = _
  rw [execTqStat, h, if_neg (by simp), if_pos (by simp [hi])]

theorem exec_tqEcrd_reads (hi : spurIs insn 0x0B 3 = true) (hn : spurRs2 insn < 16) :
    exec (.tqEcrd d g insn) s =
      .next (s.updCore d g fun c => c.setX (spurRd insn) (BitVec.ofNat 64 ((s.coreOf d g).ecOf (spurRs2 insn)))) := by
  show execTqEcrd d g insn s = _
  rw [execTqEcrd, h, if_neg (by simp), if_neg (by simp [hi, hn])]
  rfl

theorem exec_tqEcrd_traps (hi : spurIs insn 0x0B 3 = false ∨ 16 ≤ spurRs2 insn) :
    exec (.tqEcrd d g insn) s = .next (s.spurTrap d g 2) := by
  show execTqEcrd d g insn s = _
  rw [execTqEcrd, h, if_neg (by simp), if_pos (by simpa using hi)]

/-- A core that may act stalls on nothing: its TQ.CLEAR clears or traps. -/
theorem exec_tqClear_ready :
    exec (.tqClear d g insn) s = .next (if spurIs insn 0x0B 4 then s.cleared d g none else s.spurTrap d g 2) := by
  have hst := State.stall_of_ready h
  simp only [State.spurReady, Bool.and_eq_true] at h
  obtain ⟨⟨hl, hr⟩, -⟩ := h
  show execTqClear d g insn s = _
  rw [execTqClear, if_neg (by simp [hl, hr])]
  simp only [hst]
  rfl

end

/-- Settles O1: a word that leaves lets the stalled one in; each instruction does its own work, or traps where its word is another. -/
theorem spurQueueInstructions : Obligations.SpurQueueInstructions := by
  refine ⟨fun d g s w h => State.popHead_push h, fun d g s insn rd slot upTo hl hr hs hi => ?_, fun d g s insn h => ?_⟩
  · refine ⟨_, exec_tqClear_rdw hl hr hs hi, ?_, s.tqStopped_cleared _ _ _, ?_⟩ <;> rw [State.coreOf_cleared]
  · refine ⟨fun w hi hn => ⟨_, exec_tqPush_enters h hi hn, s.pushed_spec d g w⟩, fun w => exec_tqPush_stalls h, fun v => exec_tqSeta_sets h,
      exec_tqStat_reads h, exec_tqEcrd_reads h, fun w v => ⟨exec_tqPush_traps h, exec_tqSeta_traps h, exec_tqStat_traps h,
        exec_tqEcrd_traps h, fun hi => ?_⟩, fun hi => ?_⟩
    · rw [exec_tqClear_ready h, hi, if_neg Bool.false_ne_true]
    · refine ⟨_, exec_tqClear_ready h, ?_⟩
      dsimp only
      rw [if_pos hi, State.coreOf_cleared]
      exact ⟨rfl, rfl, s.tqStopped_cleared _ _ _, rfl, rfl⟩

/-! ### The head of the queue -/

section
variable {s : State} {d g opc : Nat} {e : TqEntry} (h : s.MayIssue d g opc e)
include h

theorem State.MayIssue.head : ∃ rest, (s.coreOf d g).tq = e :: rest := by
  obtain ⟨-, -, -, -, hq, -, -⟩ := h
  exact State.head_cons hq

/-- A word that may issue, and that its pipe takes, leaves the head. -/
theorem State.MayIssue.issue {run : TqEntry → Option State} {t : State} (hr : run e = some t) : s.issue d g opc run = t.popHead d g := by
  obtain ⟨hl, hs, hh, hw, hq, ho, hf⟩ := h
  exact s.issue_of d g opc e run t hl hs hh hw hq ho hf hr

/-- A word that may issue, and that its pipe cannot take, stays at the head (R62). -/
theorem State.MayIssue.issue_stays {run : TqEntry → Option State} (hr : run e = none) : s.issue d g opc run = s := by
  obtain ⟨hl, hs, hh, hw, hq, ho, hf⟩ := h
  obtain ⟨rest, hq⟩ := State.head_cons hq
  simp [State.issue, hl, hs, hh, hw, hq, ho, hf, hr]

end

section
variable {s : State} {d : Fin 4} {g : Fin 96} {e : TqEntry}

/-- A WAIT whose condition holds leaves the head (R66). -/
theorem exec_wait_passes (h : s.MayIssue d g 0x30 e) (hw : s.waitHolds d g e = true) : exec (.wait d g) s = .next (s.popHead d g) := by
  obtain ⟨rest, hq⟩ := h.head
  show execWait d g s = _
  rw [execWait]
  simp only [hq]
  rw [if_neg (by simp [hw]), h.issue rfl]

/-- A WAIT whose condition does not hold holds issue (R66). -/
theorem exec_wait_holds (h : s.MayIssue d g 0x30 e) (hw : s.waitHolds d g e = false) :
    exec (.wait d g) s = .next (s.updCore d g fun c => { c with held := true }) := by
  obtain ⟨hl, hs, hh, -, hq, ho, hf⟩ := h
  obtain ⟨rest, hq⟩ := State.head_cons hq
  show execWait d g s = _
  rw [execWait]
  simp only [hq]
  exact if_pos (by simp [hl, hs, hh, ho, hf, hw])

/-- A SIGNAL that need not wait, or finds the pipes idle, adds its increment (R65). -/
theorem exec_signal_adds (h : s.MayIssue d g 0x31 e) (hi : e.f 49 49 = 0 ∨ s.coreIdle d g = true) :
    exec (.signal d g) s = .next ((s.signalEc d g e).popHead d g) := by
  obtain ⟨rest, hq⟩ := h.head
  show execSignal d g s = _
  rw [execSignal]
  simp only [hq]
  rw [if_neg ?_, h.issue rfl]
  obtain hi | hi := hi <;> simp [hi]

/-- A SIGNAL that waits for the pipes holds issue (R65). -/
theorem exec_signal_holds (h : s.MayIssue d g 0x31 e) (ha : e.f 49 49 = 1) (hi : s.coreIdle d g = false) :
    exec (.signal d g) s = .next (s.updCore d g fun c => { c with held := true }) := by
  obtain ⟨hl, hs, hh, -, hq, ho, hf⟩ := h
  obtain ⟨rest, hq⟩ := State.head_cons hq
  show execSignal d g s = _
  rw [execSignal]
  simp only [hq]
  exact if_pos (by simp [hl, hs, hh, ho, hf, ha, hi])

/-- A VEC_RUN enters a vector pipe that holds fewer than two (R62, R63). -/
theorem exec_vecRun_enters (h : s.MayIssue d g 0x18 e) (hn : (s.coreOf d g).vec.length < 2) :
    exec (.vecRun d g) s = .next ((s.updCore d g fun c => { c with vec := c.vec ++
      [VecRun.enter e (s.flag VEC_EXPERT_SKIP_AFTER_FAULT d 0) (s.flag VEC_EXPERT_RECORD_FAULT d 0) none] }).popHead d g) :=
  congrArg Host.Outcome.next (h.issue (if_neg (Nat.not_le.mpr hn)))

variable (hl : s.coreLive d g = true) (hs : s.tqStopped d g = false) (hh : (s.coreOf d g).held = true)
  (hq : (s.coreOf d g).tq.head? = some e)
include hl hs hh hq

/-- The held WAIT leaves once its condition holds (R66). -/
theorem exec_waitSatisfied_passes (ho : e.opc = 0x30) (hw : s.waitHolds d g e = true) :
    exec (.waitSatisfied d g) s = .next (s.popHead d g) := by
  obtain ⟨rest, hq⟩ := State.head_cons hq
  show execWaitSatisfied d g s = _
  rw [execWaitSatisfied]
  simp only [hq]
  exact if_pos (by simp [hl, hs, hh, ho, hw])

/-- The held SIGNAL adds its increment once the pipes are idle (R65). -/
theorem exec_signalAfterIdle_adds (ho : e.opc = 0x31) (hi : s.coreIdle d g = true) :
    exec (.signalAfterIdle d g) s = .next ((s.signalEc d g e).popHead d g) := by
  obtain ⟨rest, hq⟩ := State.head_cons hq
  show execSignalAfterIdle d g s = _
  rw [execSignalAfterIdle]
  simp only [hq]
  exact if_pos (by simp [hl, hs, hh, ho, hi])

end

theorem Core.ecOf_addEc (c : Core) (m n inc : Nat) : (c.addEc n inc).ecOf m = if m = n then (c.ecOf n + inc) % 65536 else c.ecOf m :=
  kget_kset ..

/-- A SIGNAL adds to the counter it names of the core it names in its cluster (R65). -/
theorem State.ecOf_signalEc (s : State) (d g : Nat) (e : TqEntry) :
    ((s.signalEc d g e).coreOf d (g / 12 * 12 + e.f 53 50)).ecOf (e.f 57 54) =
      ((s.coreOf d (g / 12 * 12 + e.f 53 50)).ecOf (e.f 57 54) + e.f 48 33) % 65536 := by
  rw [State.signalEc, State.coreOf_updCore, Core.ecOf_addEc, if_pos rfl]

/-- A SIGNAL leaves every other counter of the die alone (R65). -/
theorem State.ecOf_signalEc_ne (s : State) (d g : Nat) (e : TqEntry) {k n : Nat} (h : (k, n) ≠ (g / 12 * 12 + e.f 53 50, e.f 57 54)) :
    ((s.signalEc d g e).coreOf d k).ecOf n = (s.coreOf d k).ecOf n := by
  by_cases hk : k = g / 12 * 12 + e.f 53 50
  · subst hk
    have hn : n ≠ e.f 57 54 := fun hn => h (by rw [hn])
    rw [State.signalEc, State.coreOf_updCore, Core.ecOf_addEc, if_neg hn]
  · rw [State.signalEc, State.coreOf_updCore_ne _ _ _ _ _ hk]

theorem State.ecOf_popHead (s : State) (d g k n : Nat) : ((s.popHead d g).coreOf d k).ecOf n = (s.coreOf d k).ecOf n := by
  rw [Core.ecOf, State.ec_popHead]
  rfl

/-- Settles O2: each instruction by its own lemma above; of a SIGNAL, popping the head leaves every counter and memory. -/
theorem queueControlInstructions : Obligations.QueueControlInstructions := by
  intro d g s e
  refine ⟨exec_wait_passes, exec_wait_holds, exec_signal_adds, exec_signal_holds, fun hl hs hh hq =>
    ⟨exec_waitSatisfied_passes hl hs hh hq, exec_signalAfterIdle_adds hl hs hh hq⟩, exec_vecRun_enters, fun h ha _ => ?_⟩
  refine ⟨_, exec_signal_adds h (.inl ha), ?_, fun k n hk => ?_, fun a => ?_⟩
  · rw [State.ecOf_popHead, State.ecOf_signalEc]
  · rw [State.ecOf_popHead, State.ecOf_signalEc_ne _ _ _ _ hk]
  · unfold State.byte
    rw [State.mem_popHead]
    rfl

/-! ### A word that breaks a rule (R83, R84) -/

theorem coreStatus_faultWord_addr_ne (d g : Nat) : CORE_STATUS.addr d g ≠ TQ_FAULT_WORD.addr d g := by
  simp [Reg.addr, CORE_STATUS, TQ_FAULT_WORD]

/-- What a stop on a word latches, and what it leaves alone. -/
theorem State.tqStop_spec (s : State) (d g : Nat) (e : TqEntry) (code : Nat) :
    (s.tqStop d g e code).tqStopped d g = true ∧ (s.tqStop d g e code).getF CORE_STATUS_FAULT_CODE d g = code % 256 ∧
    (s.tqStop d g e code).getF TQ_FAULT_WORD_WORD d g = e.word.toNat ∧
    ((s.tqStop d g e code).coreOf d g).tq = (s.coreOf d g).tq ∧ ((s.tqStop d g e code).coreOf d g).extIrq = true ∧
    (s.tqStop d g e code).mem = s.mem := by
  let a := s.setF CORE_STATUS_TQ_FAULT d g 1
  let b := a.setF CORE_STATUS_FAULT_CODE d g code
  let c := b.setF TQ_FAULT_WORD_WORD d g e.word.toNat
  have hreg (f : Fld) : (s.tqStop d g e code).getF f d g = c.getF f d g := by
    rw [State.tqStop, State.spurInterrupt, State.emit_getF, State.getF_updCore]
  have hword (f : Fld) (hf : f.reg = CORE_STATUS) : c.getF f d g = b.getF f d g :=
    b.getF_setF_ne _ _ _ _ _ _ _ (by rw [hf]; exact coreStatus_faultWord_addr_ne d g)
  refine ⟨?_, ?_, ?_, ?_, ?_, State.mem_tqStop ..⟩
  · rw [State.tqStopped, State.flag, hreg, hword _ rfl]
    exact (State.flag_setF_apart a CORE_STATUS_FAULT_CODE CORE_STATUS_TQ_FAULT _ _ _ rfl rfl rfl rfl).trans (State.flag_setF_one _ _ _ _ rfl)
  · rw [hreg, hword _ rfl]
    exact State.getF_setF _ _ _ _ _ rfl
  · rw [hreg]
    rw [State.getF_setF _ _ _ _ _ rfl]
    exact Nat.mod_eq_of_lt e.word.isLt
  · rw [State.coreOf_tqStop]
  · rw [State.coreOf_tqStop]

/-- Settles O5: the issue of each instruction stops on the fault of its word before it runs. -/
theorem queueFaults : Obligations.QueueFaults := by
  intro d g s e code hl hs hh hw hq hf errs p hp ho
  have hissue (run : TqEntry → Option State) : s.issue d g p.2 run = s.tqStop d g e code :=
    s.issue_fault d g p.2 code e run hl hs hh hw hq ho hf
  have hexec : exec p.1 s = .next (s.tqStop d g e code) := by
    simp only [List.mem_cons, List.not_mem_nil, or_false] at hp
    rcases hp with rfl | rfl | rfl | rfl | rfl | rfl | rfl | rfl | rfl | rfl | rfl <;> exact congrArg Host.Outcome.next (hissue _)
  exact ⟨_, hexec, s.tqStop_spec d g e code⟩

end Sys2Proof.Machine
end

