-- ==== Sys2Proof/Proofs/CoreStart.lean ====
section
/-!
PROOFS. The start, halt and reset of a core (Table 2.27, R85, R456, R466).
-/
namespace Sys2Proof.Machine

open Sys2Proof

/-- A core reset returns the queue, counters and registers of the core to 0, and keeps memory (R85). -/
theorem State.resetCore_spec (s : State) (d g : Nat) :
    (s.resetCore d g).coreOf d g = Core.zero ∧ (s.resetCore d g).mem = s.mem ∧ (s.resetCore d g).poison = s.poison := by
  refine ⟨?_, (s.resetCore_moves d g).same .mem (by decide), (s.resetCore_moves d g).same .poison (by decide)⟩
  unfold State.resetCore
  exact (congrArg (fun m => kget Core.zero m (globalCore d g)) ((State.resetCoreRegs_moves _ d g).same .cores (by decide))).trans
    (State.core_setCore ..)

section
variable {s : State} {d : Fin 4} {g : Fin 96}

theorem exec_coreRun (h : s.dieRunning d = true) (run : Bool) : exec (.coreRun d g run) s = .next (s.coreRun d g run) := if_pos h

theorem coreRun_status_addr_ne (d g : Nat) : CORE_CTRL.addr d g ≠ CORE_STATUS.addr d g := by simp [Reg.addr, CORE_CTRL, CORE_STATUS]

/-- A start sets RUN, ends the halt, and fetches from SPUR_ENTRY (Table 2.27). -/
theorem State.coreRun_start (h : s.flag CORE_CTRL_RUN d g = false) :
    (s.coreRun d g true).flag CORE_CTRL_RUN d g = true ∧ (s.coreRun d g true).flag CORE_STATUS_SPUR_HALTED d g = false ∧
    ((s.coreRun d g true).coreOf d g).pc = s.getF SPUR_ENTRY_ENTRY d g * 2 := by
  rw [State.coreRun, if_pos rfl, if_neg (Bool.eq_false_iff.mp h), State.flag_updCore, State.flag_updCore, State.coreOf_updCore]
  exact ⟨(State.flag_setF_ne _ _ _ _ _ _ _ (coreRun_status_addr_ne d g)).trans (State.flag_setF_one _ _ _ _ rfl),
    State.flag_setF_zero _ _ _ _ rfl, rfl⟩

/-- A halt clears RUN and shows the halt (Table 2.27). -/
theorem State.coreRun_halt (s : State) (d g : Nat) :
    (s.coreRun d g false).flag CORE_CTRL_RUN d g = false ∧ (s.coreRun d g false).flag CORE_STATUS_SPUR_HALTED d g = true ∧
    (s.coreRun d g false).cores = s.cores := by
  rw [State.coreRun, if_neg Bool.false_ne_true]
  exact ⟨(State.flag_setF_ne _ _ _ _ _ _ _ (coreRun_status_addr_ne d g)).trans (State.flag_setF_zero _ _ _ _ rfl),
    State.flag_setF_one _ _ _ _ rfl, (State.setF_cores ..).trans (State.setF_cores ..)⟩

theorem exec_coreReset_inReset {n : Nat} (h : s.power.inReset = true) : exec (.coreReset d n) s = .next s := by
  show execCoreReset d n s = _
  rw [execCoreReset, if_pos h]

theorem exec_coreReset_refused {n : Nat} (hr : s.power.inReset = false) (h : s.coreResetRefused d n = true) :
    exec (.coreReset d n) s = .next (s.setF STATE_BLK_STATUS_CMD_ERR 0 0 1) := by
  show execCoreReset d n s = _
  rw [execCoreReset, hr, if_neg Bool.false_ne_true, State.coreResetCmd, if_pos h]

theorem exec_coreReset_taken {n : Nat} (hr : s.power.inReset = false) (h : s.coreResetRefused d n = false) :
    exec (.coreReset d n) s = .next (s.resetCore d n) := by
  show execCoreReset d n s = _
  rw [execCoreReset, hr, if_neg Bool.false_ne_true, State.coreResetCmd, h, if_neg Bool.false_ne_true]

end

/-- Settles O6: a start and a halt by the two registers they write, a reset by what it keeps and by its refusal. -/
theorem coreRunAndReset : Obligations.CoreRunAndReset := by
  intro d g s
  refine ⟨fun hd hr => ⟨_, exec_coreRun hd true, State.coreRun_start hr⟩, fun hd => ⟨_, exec_coreRun hd false, s.coreRun_halt d g⟩,
    fun hd ha hr => ⟨_, exec_coreReset_taken hr ?_, s.resetCore_spec d g⟩, fun n hn hr => exec_coreReset_refused hr ?_,
    fun n hr => exec_coreReset_inReset hr⟩
  · simp [State.coreResetRefused, hd, ha, g.isLt]
  · simp [State.coreResetRefused, hn]

end Sys2Proof.Machine
end

