-- ==== Sys2Proof/Proofs/LocalMoves.lean ====
section
/-!
PROOFS. The local moves of a core: how each enters the move pipe, waits, meets its controllers again, and ends (R65, R72 to R74, R166).
-/
namespace Sys2Proof.Machine

open Sys2Proof

section
variable {s : State} {d g : Nat} {e : TqEntry}

/-- A move that nothing holds copies as it takes its place in the pipe (R72 to R74). -/
theorem State.startMove_copies (hn : (s.coreOf d g).moves.length < 16) (hh : s.moveHeld d g e = false) :
    s.startMove d g e = some ((s.moveBytes d g e).updCore d g fun c =>
      { c with moves := c.moves ++ [⟨e, false, true, c.moveSeq⟩], moveSeq := c.moveSeq + 1 }) := by
  rw [State.startMove, if_neg (Nat.not_le.mpr hn)]
  simp only [hh]
  rfl

/-- A move that something holds waits among the accesses that arrived (R166). -/
theorem State.startMove_waits (hn : (s.coreOf d g).moves.length < 16) (hh : s.moveHeld d g e = true) :
    s.startMove d g e = some ((s.updCore d g fun c =>
      { c with moves := c.moves ++ [⟨e, false, false, c.moveSeq⟩], moveSeq := c.moveSeq + 1 }).parkMove d g (s.coreOf d g).moveSeq e) := by
  rw [State.startMove, if_neg (Nat.not_le.mpr hn)]
  simp only [hh]
  rfl

/-- A move that nothing holds any more copies; one that is held still waits again (R166). -/
theorem State.retryMove_of_find {uid : Nat} {m : MoveOp}
    (h : ((s.coreOf d g).moves.find? fun x => !x.remote && !x.copied && x.uid == uid) = some m) :
    s.retryMove d g uid =
      if s.moveHeld d g m.entry then s.parkMove d g uid m.entry
      else (s.moveBytes d g m.entry).updCore d g fun c =>
        { c with moves := c.moves.map fun x => if x.uid = uid ∧ !x.remote then { x with copied := true } else x } := by
  rw [State.retryMove, h]

end

section
variable {s : State} {d : Fin 4} {g : Fin 96} {n : Fin 16} {m : MoveOp} (hm : (s.coreOf d g).moves[n.val]? = some m)
  (hr : m.remote = false) (hd : s.dieRunning d = true)
include hm hr hd

/-- A move that has copied leaves the pipe, and its counter counts (R65). -/
theorem exec_localMoveComplete_copied (hc : m.copied = true) :
    exec (.localMoveComplete d g n) s =
      .next (s.updCore d g fun c => { c with moves := c.moves.eraseIdx n.val }.complete m.entry) := by
  show execLocalMoveComplete d g n s = _
  rw [execLocalMoveComplete]
  simp only [hm]
  rw [if_neg (by simp [hr, hd])]
  simp only [hc, if_true, hm]

/-- One that has not yet copied ends if what waits lets it copy in its turn (R166). -/
theorem exec_localMoveComplete_waiting (hc : m.copied = false) {m' : MoveOp} (hm' : (s.releaseAll.coreOf d g).moves[n.val]? = some m') :
    exec (.localMoveComplete d g n) s =
      .next (if m'.copied then s.releaseAll.updCore d g fun c => { c with moves := c.moves.eraseIdx n.val }.complete m.entry
        else s.releaseAll) := by
  show execLocalMoveComplete d g n s = _
  rw [execLocalMoveComplete]
  simp only [hm]
  rw [if_neg (by simp [hr, hd])]
  simp only [hc, Bool.false_eq_true, if_false, hm']
  exact (apply_ite Host.Outcome.next _ _ _).symm

end

/-- Settles O4: each of the four instructions issues the same move; its end and its later turns follow from what holds it. -/
theorem localMoveInstructions : Obligations.LocalMoveInstructions := by
  intro d g s e
  refine ⟨fun p hp h hn => ?_, fun n m hm hr hd hc => exec_localMoveComplete_copied hm hr hd hc, fun n m hm hr hd hc m' hm' => ?_,
    fun uid m hf => ?_⟩
  · have hx : exec p.1 s = .next (s.issue d g p.2 fun e => s.startMove d g e) := by
      simp only [List.mem_cons, List.not_mem_nil, or_false] at hp
      rcases hp with rfl | rfl | rfl | rfl <;> rfl
    exact ⟨fun hh => hx.trans (congrArg _ (h.issue (State.startMove_copies hn hh))),
      fun hh => hx.trans (congrArg _ (h.issue (State.startMove_waits hn hh)))⟩
  · rw [exec_localMoveComplete_waiting hm hr hd hc hm']
    exact ⟨fun hc' => congrArg _ (if_pos hc'), fun hc' => congrArg _ (if_neg (Bool.eq_false_iff.mp hc'))⟩
  · rw [State.retryMove_of_find hf]
    refine ⟨fun hh => ?_, fun hh => if_pos hh⟩
    rw [if_neg (Bool.eq_false_iff.mp hh)]
    exact ⟨rfl, rfl⟩

end Sys2Proof.Machine
end

