-- ==== Sys2Proof/Proofs/AccumulatorPipe.lean ====
section
/-!
PROOFS. The instructions of the accumulator pipe: how each enters it, and what the start of one in an empty pipe leaves (R48 to R57, R62,
R76 to R80, R114).
-/
namespace Sys2Proof.Machine

open Sys2Proof

/-- What leaves every core alone leaves each. -/
theorem Moves.coreOf {m : Nat} {s t : State} (h : Moves m s t) (hm : m.testBit 6 = false) (d g : Nat) : t.coreOf d g = s.coreOf d g :=
  congrArg (fun cs => kget Core.zero cs (globalCore d g)) (h.same .cores hm)

/-- What leaves every register alone leaves each field. -/
theorem Moves.getF {m : Nat} {s t : State} (h : Moves m s t) (hm : m.testBit 3 = false) (f : Fld) (d i : Nat) : t.getF f d i = s.getF f d i :=
  congrArg (fun rs => f.get (kget (f.reg.initOf d) rs (f.reg.addr d i))) (h.same .regs hm)

/-! ### What an instruction does to its core -/

/-- From s to t core g of die d changes at most in the errors that stand in its accumulator file. -/
def EccOnly (d g : Nat) (s t : State) : Prop := ∃ ecc, t.coreOf d g = { s.coreOf d g with ecc := ecc }

section
variable {d g : Nat} {s t u : State}

theorem EccOnly.refl (s : State) : EccOnly d g s s := ⟨_, rfl⟩

theorem EccOnly.trans (h : EccOnly d g s t) (k : EccOnly d g t u) : EccOnly d g s u := by
  obtain ⟨a, ha⟩ := h
  obtain ⟨b, hb⟩ := k
  exact ⟨b, by rw [hb, ha]⟩

theorem EccOnly.ite {c : Prop} [Decidable c] (h : EccOnly d g s t) (k : EccOnly d g s u) : EccOnly d g s (if c then t else u) := by
  split
  · exact h
  · exact k

theorem EccOnly.of_moves {m : Nat} (h : Moves m s t) (hm : m.testBit 6 = false) : EccOnly d g s t := ⟨_, h.coreOf hm d g⟩

theorem EccOnly.acc (h : EccOnly d g s t) : (t.coreOf d g).acc = (s.coreOf d g).acc := by
  obtain ⟨a, ha⟩ := h
  rw [ha]

theorem EccOnly.tq (h : EccOnly d g s t) : (t.coreOf d g).tq = (s.coreOf d g).tq := by
  obtain ⟨a, ha⟩ := h
  rw [ha]

end

theorem State.addEcc_eccOnly (s : State) (d g : Nat) (errs : List AccErr) : EccOnly d g s (s.addEcc d g errs) :=
  .ite (.refl s) ⟨_, State.coreOf_updCore ..⟩

theorem State.dropEcc_eccOnly (s : State) (d g : Nat) (blocks : List (Nat × Nat)) : EccOnly d g s (s.dropEcc d g blocks) :=
  ⟨_, State.coreOf_updCore ..⟩

/-- The errors that reads meet leave the file; their marks and records touch no core (R114). -/
theorem State.eccErrors_eccOnly (s : State) (d g : Nat) (blocks : List (Nat × Nat)) : EccOnly d g s (s.eccErrors d g blocks) := by
  refine (s.dropEcc_eccOnly d g blocks).trans (.of_moves (m := 0x10000020) ?_ (by decide))
  refine .foldl _ _ (fun u x => .step (State.raise_moves ..) (by decide) (.ite (fun _ => ?_) fun _ => .refl u)) (.refl _)
  exact .mono (m := 0x20) (by decide) (State.setPoison_moves ..)

theorem State.accEffect_eccOnly (s : State) (d g : Nat) (e : TqEntry) : EccOnly d g s (s.accEffect d g e).1 :=
  .of_moves (s.accEffect_moves d g e) (by decide)

theorem State.eccSpread_eccOnly (s : State) (d g : Nat) (e : TqEntry) (errs : List AccErr) : EccOnly d g s (s.eccSpread d g e errs) :=
  .of_moves (s.eccSpread_moves d g e errs) (by decide)

theorem State.dropWritten_eccOnly (s : State) (d g : Nat) (e : TqEntry) : EccOnly d g s (s.dropWritten d g e) :=
  .ite (.refl s) (s.dropEcc_eccOnly d g _)

/-- An instruction that takes effect leaves its core alone but for the errors that stand. -/
theorem State.accRun_eccOnly (s : State) (d g : Nat) (e : TqEntry) (errs : List AccErr) : EccOnly d g s (s.accRun d g e errs).1 := by
  refine (s.addEcc_eccOnly d g errs).trans ?_
  unfold State.accRun
  dsimp only
  split
  · refine .trans (.trans ?_ (.ite (State.eccSpread_eccOnly ..) (.refl _))) (State.dropWritten_eccOnly ..)
    exact (State.accEffect_eccOnly ..).trans (.ite (.refl _) (State.eccErrors_eccOnly ..))
  · exact .trans (.trans (.ite (.refl _) (State.eccErrors_eccOnly ..)) (State.accEffect_eccOnly ..)) (State.dropWritten_eccOnly ..)

/-! ### The start in an empty pipe -/

section
variable {s : State} {d g : Nat}

/-- The array flags take in what rises (R109, R111). -/
theorem State.getF_arrFlags (s : State) (d g fl : Nat) :
    (s.arrFlags d g fl).getF CORE_FLAGS_ARR d g = (s.getF CORE_FLAGS_ARR d g ||| fl) % 32 :=
  ((raiseFlags_moves ..).getF (by decide) _ _ _).trans (State.getF_setF _ _ _ _ _ rfl)

theorem State.retireAcc_waiting (h : ∀ o ∈ (s.coreOf d g).acc, o.begun = false) : s.retireAcc d g = s :=
  if_pos (List.all_eq_true.mpr fun o ho => by simp [h o ho])

theorem State.settleVec_nil (h : (s.coreOf d g).vec = []) : s.settleVec d g = s := by
  rw [State.settleVec, h]

theorem State.settleAcc_begun (h : ∀ o ∈ (s.coreOf d g).acc, o.begun = true) : s.settleAcc d g = s := by
  have hf : (s.coreOf d g).acc.find? (fun o => !o.begun) = none := List.find?_eq_none.mpr fun o ho => by simp [h o ho]
  unfold State.settleAcc
  simp only [hf]

/-- An instruction that starts now, behind nothing, on a die at duty 1/k: its times (R62, R76 to R78, R444). -/
def AccOp.startedAt (o : AccOp) (now k : Nat) : AccOp :=
  let last := lastIssue (o.entry.spacing k) now o.cycles
  { o with begun := true, last := last, final := last + accLatency o.entry.opc * 10 }

/-- Instruction o of an empty pipe has started. -/
def State.accStarted (s : State) (d g : Nat) (o : AccOp) : State :=
  let x := s.accRun d g o.entry o.errs
  ((x.1.arrFlags d g x.2).addF CUBE_BUSY_CYCLES d g (if accFamily o.entry.opc && o.entry.depth != 0 then o.cycles else 0)).updCore d g
    fun c => { c with acc := [o.startedAt s.time (s.pace d)] }

/-- What the start of an instruction leaves: its own effect, its flags, and itself as the one in the pipe. -/
theorem State.accStarted_spec (s : State) (d g : Nat) (o : AccOp) :
    (s.accStarted d g o).mem = (s.accRun d g o.entry o.errs).1.mem ∧
    (s.accStarted d g o).poison = (s.accRun d g o.entry o.errs).1.poison ∧
    (s.accStarted d g o).getF CORE_FLAGS_ARR d g = (s.getF CORE_FLAGS_ARR d g ||| (s.accRun d g o.entry o.errs).2) % 32 ∧
    ((s.accStarted d g o).coreOf d g).tq = (s.coreOf d g).tq ∧
    ((s.accStarted d g o).coreOf d g).acc = [o.startedAt s.time (s.pace d)] := by
  have hflags (u : State) (fl : Nat) := u.arrFlags_moves d g fl
  unfold State.accStarted
  dsimp only
  refine ⟨(hflags ..).same .mem (by decide), (hflags ..).same .poison (by decide), ?_, ?_, ?_⟩
  · rw [State.getF_updCore]
    refine (State.getF_setF_ne _ _ _ _ _ _ _ _ (by simp [Reg.addr, CORE_FLAGS_ARR, CORE_FLAGS, CUBE_BUSY_CYCLES, CUBE_BUSY]; omega)).trans ?_
    rw [State.getF_arrFlags, (s.accRun_moves d g o.entry o.errs).getF (by decide)]
  · rw [State.coreOf_updCore, State.coreOf_addF, (hflags ..).coreOf (by decide)]
    exact (s.accRun_eccOnly d g o.entry o.errs).tq
  · rw [State.coreOf_updCore]

section
variable {o : AccOp} (ha : (s.coreOf d g).acc = [o]) (hb : o.begun = false) (hv : (s.coreOf d g).vec = [])
include ha hb hv

/-- The one instruction of the pipe, with nothing on the vector engine, starts (R62). -/
theorem State.settleAcc_alone : s.settleAcc d g = s.accStarted d g o := by
  have hacc (fl n : Nat) : ((((s.accRun d g o.entry o.errs).1.arrFlags d g fl).addF CUBE_BUSY_CYCLES d g n).coreOf d g).acc = [o] := by
    rw [State.coreOf_addF, (State.arrFlags_moves ..).coreOf (by decide), (s.accRun_eccOnly d g o.entry o.errs).acc, ha]
  unfold State.settleAcc
  simp only [ha, List.find?_cons, hb, Bool.not_false, Core.accBlocked, Core.routed, hv]
  unfold State.accStarted State.updCore
  simp only [hacc, List.takeWhile_cons, List.dropWhile_cons, List.filter_cons, hb]
  rfl

/-- An empty pipe starts the instruction that enters it, and no more. -/
theorem State.settlePipes_alone : s.settlePipes d g = s.accStarted d g o := by
  have hret : s.retireAcc d g = s := State.retireAcc_waiting (by simp [ha, hb])
  unfold State.settlePipes
  rw [hret, State.settleVec_nil hv, State.settleVec_nil hv, State.settleAcc_alone ha hb hv, State.settleAcc_begun]
  obtain ⟨-, -, -, -, hacc⟩ := s.accStarted_spec d g o
  intro p hp
  rw [hacc, List.mem_singleton] at hp
  rw [hp]
  rfl

end

end

/-! ### Issue -/

section
variable {s : State} {d g : Nat} {e : TqEntry} {errs : List AccErr}

theorem State.accEnter_room (h : s.accRoom d g = true) :
    s.accEnter d g e errs = some ((s.updCore d g fun c =>
      { c with acc := c.acc ++ [⟨{ e with job := s.job }, errs, s.accCycles d e, false, 0, 0⟩] }).settlePipes d g) := if_pos h

theorem State.accEnter_full (h : s.accRoom d g = false) : s.accEnter d g e errs = none := if_neg (Bool.eq_false_iff.mp h)

theorem State.accRoom_empty (h : (s.coreOf d g).acc = []) : s.accRoom d g = true := by simp [State.accRoom, h]

end

section
variable {s : State} {d : Fin 4} {g : Fin 96} {e : TqEntry} {errs : List AccErr} (h : s.MayIssue d g 0x08 e) (hr : s.vectorRoute d e = true)
include h hr

/-- An MMA on the vector route enters a vector pipe that holds fewer than two (R80). -/
theorem exec_mma_routed (hn : (s.coreOf d g).vec.length < 2) :
    exec (.mma d g errs) s = .next (((s.updCore d g fun c => { c with vec := c.vec ++
      [VecRun.enter e false false (some ⟨e, errs, e.routeCycles, false, 0, 0⟩)] }).settlePipes d g).popHead d g) :=
  congrArg Host.Outcome.next (h.issue ((if_pos hr).trans (if_neg (Nat.not_le.mpr hn))))

/-- An MMA on the vector route waits for room in the vector pipe (R62, R80). -/
theorem exec_mma_routed_waits (hn : 2 ≤ (s.coreOf d g).vec.length) : exec (.mma d g errs) s = .next s :=
  congrArg Host.Outcome.next (h.issue_stays ((if_pos hr).trans (if_pos hn)))

end

/-- Settles O3: each instruction issues by way of the same entry into its pipe, and an empty pipe starts what enters it. -/
theorem accumulatorInstructions : Obligations.AccumulatorInstructions := by
  intro d g s e errs
  refine ⟨fun p hp h hroute => ?_, fun h hr => ⟨exec_mma_routed h hr, exec_mma_routed_waits h hr⟩⟩
  intro es o u
  have hx : ∃ run, exec p.1 s = .next (s.issue d g p.2 run) ∧ run e = s.accEnter d g e es := by
    simp only [List.mem_cons, List.not_mem_nil, or_false] at hp
    obtain rfl | hp := hp
    · exact ⟨_, rfl, if_neg (Bool.eq_false_iff.mp (hroute rfl))⟩
    · rcases hp with rfl | rfl | rfl | rfl | rfl <;> exact ⟨_, rfl, rfl⟩
  obtain ⟨run, hx, hrun⟩ := hx
  have hroom (hroom : s.accRoom d g = true) : exec p.1 s = .next ((u.settlePipes d g).popHead d g) :=
    hx.trans (congrArg _ (h.issue (hrun.trans (State.accEnter_room hroom))))
  refine ⟨hroom, fun hfull => hx.trans (congrArg _ (h.issue_stays (hrun.trans (State.accEnter_full hfull)))), fun ha hv => ?_⟩
  have hu : u.coreOf d g = { s.coreOf d g with acc := [o] } := by
    rw [show u.coreOf d g = _ from State.coreOf_updCore .., ha]
    rfl
  obtain ⟨hmem, hpoison, hflags, htq, hacc⟩ := u.accStarted_spec d g o
  refine ⟨u.accStarted d g o, ?_, hmem, hpoison, hflags, htq.trans (by rw [hu]), _, hacc, rfl, rfl⟩
  rw [hroom (State.accRoom_empty ha), State.settlePipes_alone (by rw [hu]) rfl (by rw [hu]; exact hv)]

end Sys2Proof.Machine
end

