-- ==== Sys2Proof/Proofs/VectorRuns.lean ====
section
/-!
PROOFS. The vector pipe when a run leaves it: an MMA behind it that was final before leaves with it.
-/
namespace Sys2Proof.Machine

open Sys2Proof

/-- A run that has faulted and is done. -/
def doneRun : VecRun := { VecRun.enter ⟨0, [], 0, 0, 0⟩ false false none with begun := true, faulted := true, done := true }

/-- An MMA on the vector route whose tile was final at time 0. -/
def finalRun : VecRun := VecRun.enter ⟨0, [], 0, 0, 0⟩ false false (some ⟨⟨0, [], 0, 0, 0⟩, [], 0, true, 0, 0⟩)

/-- A cycle after reset, both stand in the vector pipe of core 0 of die 0, the run first. -/
def doneThenFinal : State := { (State.reset.updCore 0 0 fun c => { c with vec := [doneRun, finalRun] }) with time := 10 }

/-- The state in which the run leaves. -/
def runLeft : State := (((doneThenFinal.updCore 0 0 id).vecFlags 0 0 0).addF VEC_STALL_CYCLES 0 0 0).endRun 0 0 doneRun

theorem exec_doneThenFinal : exec (.vecRunComplete 0 0) doneThenFinal = .next runLeft := rfl

theorem runLeft_vec : (runLeft.coreOf 0 0).vec = [] := by decide

/-- Refutes O9: behind the run that completes stands an MMA whose tile is final already; it leaves with the run, and the pipe is shorter by
two, not by one. -/
theorem not_vectorRunLifecycle : ¬ Obligations.VectorRunLifecycle := by
  intro h
  obtain ⟨-, -, -, hdone⟩ := h 0 0 doneThenFinal doneRun (by decide) (by decide) rfl
  obtain ⟨t, ht, ⟨hlen, -⟩, -⟩ := hdone rfl rfl
  rw [exec_doneThenFinal] at ht
  injection ht with ht
  subst ht
  have hlen : (runLeft.coreOf 0 0).vec.length + 1 = 2 := hlen
  rw [runLeft_vec] at hlen
  exact absurd hlen (by decide)

end Sys2Proof.Machine
end

