-- ==== Sys2Proof/Proofs/CrestInstructions.lean ====
section
/-!
PROOFS. The crest instructions of the run at the head of the vector pipe: register operations, and LD and ST with their access faults
(R131 to R133, R135, R141 to R154, R161).
-/
namespace Sys2Proof.Machine

open Sys2Proof

/-! ### What an issue leaves -/

/-- State u after an instruction's own effect, once the issue is counted and the run at the head of the vector pipe has become r (R131). -/
def State.withHeadRun (u : State) (d g : Nat) (r : VecRun) : State :=
  (u.addF VEC_ACTIVE_CYCLES d g 1).updCore d g fun c => c.setRun r

/-- An issue counts itself and replaces the head of the pipe; the registers of the core, memory and poison stay. -/
theorem State.withHeadRun_spec (u : State) (d g : Nat) (r : VecRun) :
    ((u.withHeadRun d g r).coreOf d g).regs = (u.coreOf d g).regs ∧
    ((u.withHeadRun d g r).coreOf d g).vec = r :: (u.coreOf d g).vec.drop 1 ∧
    (u.withHeadRun d g r).getF VEC_ACTIVE_CYCLES d g = (u.getF VEC_ACTIVE_CYCLES d g + 1) % 2 ^ 64 ∧
    (u.withHeadRun d g r).mem = u.mem ∧ (u.withHeadRun d g r).poison = u.poison := by
  have hcore : (u.withHeadRun d g r).coreOf d g = (u.coreOf d g).setRun r := State.coreOf_updCore ..
  refine ⟨by rw [hcore]; rfl, by rw [hcore]; rfl, ?_, rfl, rfl⟩
  exact (State.getF_updCore ..).trans (State.getF_setF _ VEC_ACTIVE_CYCLES _ _ _ rfl)

/-- The registers of the vector engine of core g of die d become x. -/
def State.withRegs (s : State) (d g : Nat) (x : VecRegs) : State := s.updCore d g fun c => { c with regs := x }

/-- What an instruction leaves whose own effect is on the registers alone. -/
theorem State.withRegs_withHeadRun_spec (s : State) (d g : Nat) (x : VecRegs) (r : VecRun) :
    (((s.withRegs d g x).withHeadRun d g r).coreOf d g).regs = x ∧
    (((s.withRegs d g x).withHeadRun d g r).coreOf d g).vec = r :: (s.coreOf d g).vec.drop 1 ∧
    ((s.withRegs d g x).withHeadRun d g r).getF VEC_ACTIVE_CYCLES d g = (s.getF VEC_ACTIVE_CYCLES d g + 1) % 2 ^ 64 ∧
    ((s.withRegs d g x).withHeadRun d g r).mem = s.mem ∧ ((s.withRegs d g x).withHeadRun d g r).poison = s.poison := by
  have hcore : (s.withRegs d g x).coreOf d g = { s.coreOf d g with regs := x } := State.coreOf_updCore ..
  obtain ⟨hregs, hvec, hrest⟩ := (s.withRegs d g x).withHeadRun_spec d g r
  rw [hcore] at hregs hvec
  exact ⟨hregs, hvec, hrest⟩

/-- What an instruction leaves whose own effect is a store of n bytes: memory is as the store leaves it, and every byte outside as it was. -/
theorem State.writeMarked_withHeadRun_spec (s : State) (a : Nat) {bs : List Byte} {n : Nat} (hn : bs.length = n) (ps : List Bool)
    (d g : Nat) (r : VecRun) :
    (∀ b, ((s.writeMarked a bs ps).withHeadRun d g r).byte b = (s.writeMarked a bs ps).byte b) ∧
    (∀ b, Outside b a n → ((s.writeMarked a bs ps).withHeadRun d g r).byte b = s.byte b) ∧
    (((s.writeMarked a bs ps).withHeadRun d g r).coreOf d g).regs = (s.coreOf d g).regs := by
  obtain ⟨hregs, -, -, hmem, -⟩ := (s.writeMarked a bs ps).withHeadRun_spec d g r
  rw [State.coreOf_writeMarked] at hregs
  have hbyte := State.byte_of_mem hmem
  exact ⟨hbyte, fun b hout => (hbyte b).trans (State.byte_writeMarked_ne _ _ _ _ _ (hn ▸ hout)), hregs⟩

/-! ### Register operations -/

/-- Every row of the table of register operations issues by way of `crestIssue`, with the opcode and the function of the row. -/
theorem exec_crestRegisterOp {row : (Fin 4 → Fin 96 → Instr) × Nat × CrestFn} (h : row ∈ crestRegisterOps)
    (d : Fin 4) (g : Fin 96) (s : State) : exec (row.1 d g) s = .next (s.crestIssue d g row.2.1 row.2.2) := by
  simp only [crestRegisterOps, List.mem_cons, List.not_mem_nil, or_false] at h
  rcases h with rfl | rfl | rfl | rfl | rfl | rfl | rfl | rfl | rfl | rfl | rfl | rfl | rfl | rfl | rfl | rfl | rfl | rfl |
    rfl | rfl | rfl | rfl | rfl | rfl | rfl | rfl | rfl | rfl | rfl | rfl | rfl | rfl | rfl | rfl | rfl <;> rfl

/-- A register operation whose turn it is: registers, working slots and flags take its result, and the run advances. -/
theorem State.CrestNext.crestIssue {s : State} {d g op : Nat} {r : VecRun} {w : Nat} (h : s.CrestNext d g op r w) (fn : CrestFn) :
    s.crestIssue d g op fn = (s.withRegs d g (fn (r.ctx w) (s.coreOf d g).regs r.work).regs).withHeadRun d g
      ({ r with
          work := (fn (r.ctx w) (s.coreOf d g).regs r.work).work
          flags := r.flags ||| (fn (r.ctx w) (s.coreOf d g).regs r.work).flags }.advance w false (s.pace d)) := by
  unfold State.crestIssue
  rw [State.crestStep_of h _ _ rfl]
  rfl

/-- Settles O7: every row issues by way of `crestIssue`, which does for each of them the same with the function of the row. -/
theorem crestRegisterOperations : Obligations.CrestRegisterOperations := by
  intro d g s r w row hrow h
  exact ⟨_, (exec_crestRegisterOp hrow d g s).trans (congrArg _ (h.crestIssue _)), State.withRegs_withHeadRun_spec ..⟩

/-! ### LD and ST -/

theorem stBytes_length (sz : Nat) (x : VReg) : (stBytes sz x).1.length = accessBytes sz := leBytes_length ..

/-- State s after the run r at the head of the vector pipe has faulted with a code at its next word (R161). -/
def State.runFaulted (s : State) (d g : Nat) (r : VecRun) (code : Nat) : State :=
  (s.vecFault d g r code r.pc).updCore d g fun c => c.setRun { r with faulted := true, done := true }

section
variable {s : State} {d : Fin 4} {g : Fin 96} {r : VecRun} {w : Nat}

/-- An LD that may access fills its register from the bytes and marks it finds (R132, R133). -/
theorem exec_ld_of (h : s.CrestNext d g 0x38 r w) (ha : accessFaultOf d g (r.address w) (accessBytes (cSZ w)) = none) :
    exec (.ld d g) s = .next ((s.withRegs d g ((s.coreOf d g).regs.setV (cVD w)
        (ldReg (cSZ w) (s.bytes (r.address w) (accessBytes (cSZ w))) (s.marks (r.address w) (accessBytes (cSZ w)))))).withHeadRun d g
      (r.advance w (inCluster d g (r.address w) (accessBytes (cSZ w))) (s.pace d))) := by
  show execLd d g s = _
  unfold execLd
  rw [State.crestStep_of h _ _ (congrArg (s.crestLoad d g r w) ha)]
  rfl

/-- An ST that may access stores its register's bytes with their marks (R132, R133). -/
theorem exec_st_of (h : s.CrestNext d g 0x39 r w) (ha : accessFaultOf d g (r.address w) (accessBytes (cSZ w)) = none) :
    exec (.st d g) s = .next ((s.writeMarked (r.address w) (stBytes (cSZ w) ((s.coreOf d g).regs.vreg (cVD w))).1
        (stBytes (cSZ w) ((s.coreOf d g).regs.vreg (cVD w))).2).withHeadRun d g (r.advance w false (s.pace d))) := by
  show execSt d g s = _
  unfold execSt
  rw [State.crestStep_of h _ _ (congrArg (s.crestStore d g r w) ha)]
  rfl

/-- An LD or ST that may not access stops its run (R132, R141, R161). -/
theorem exec_ld_st_fault {p : Instr × Nat} (hp : p ∈ [(Instr.ld d g, 0x38), (Instr.st d g, 0x39)]) (h : s.CrestNext d g p.2 r w)
    {code : Nat} (ha : accessFaultOf d g (r.address w) (accessBytes (cSZ w)) = some code) :
    exec p.1 s = .next (s.runFaulted d g r code) := by
  simp only [List.mem_cons, List.not_mem_nil, or_false] at hp
  rcases hp with rfl | rfl
  · exact congrArg Host.Outcome.next (State.crestStep_fault h _ code (congrArg (s.crestLoad d g r w) ha))
  · exact congrArg Host.Outcome.next (State.crestStep_fault h _ code (congrArg (s.crestStore d g r w) ha))

end

/-- After a vector fault VALID is set: it stood already, or the fault sets it before the fields beside it (R161). -/
theorem State.vecFault_valid (s : State) (d g : Nat) (r : VecRun) (code pc : Nat) :
    (s.vecFault d g r code pc).flag VEC_FAULT_VALID d g = true := by
  unfold State.vecFault
  extract_lets prog s1 s2
  have hlatched : s1.flag VEC_FAULT_VALID d g = true := by
    by_cases hv : s.flag VEC_FAULT_VALID d g = true
    · rw [show s1 = s from if_pos hv, hv]
    · rw [show s1 = _ from if_neg hv,
        flag_setF_apart _ VEC_FAULT_CODE VEC_FAULT_VALID _ _ _ rfl rfl rfl rfl,
        flag_setF_apart _ VEC_FAULT_PC VEC_FAULT_VALID _ _ _ rfl rfl rfl rfl,
        flag_setF_apart _ VEC_FAULT_PROG VEC_FAULT_VALID _ _ _ rfl rfl rfl rfl,
        flag_setF_apart _ VEC_FAULT_ITER VEC_FAULT_VALID _ _ _ rfl rfl rfl rfl,
        State.flag_setF_one _ _ _ _ rfl]
  have hrecord : Moves 0x10000000 s1 s2 := Moves.ite (fun _ => State.raise_moves ..) fun _ => Moves.refl _
  have hmoves : Moves 0x10000044 s1 (s2.spurInterrupt d g) := (State.spurInterrupt_moves ..).step (by decide) (hrecord.mono (by decide))
  rw [State.flag, hmoves.getF (by decide)]
  exact hlatched

/-- What a fault of the run leaves: VALID set, memory and registers as they were, the run stopped at the head of the pipe (R161). -/
theorem State.runFaulted_spec (s : State) (d g : Nat) (r : VecRun) (code : Nat) :
    (s.runFaulted d g r code).flag VEC_FAULT_VALID d g = true ∧ (s.runFaulted d g r code).mem = s.mem ∧
    ((s.runFaulted d g r code).coreOf d g).regs = (s.coreOf d g).regs ∧
    ((s.runFaulted d g r code).coreOf d g).vec = { r with faulted := true, done := true } :: (s.coreOf d g).vec.drop 1 := by
  have hcore : (s.runFaulted d g r code).coreOf d g =
      { s.coreOf d g with extIrq := true }.setRun { r with faulted := true, done := true } :=
    (State.coreOf_updCore ..).trans (congrArg (Core.setRun · _) (State.coreOf_vecFault ..))
  exact ⟨State.vecFault_valid .., (State.vecFault_moves ..).same .mem (by decide), by rw [hcore]; rfl, by rw [hcore]; rfl⟩

/-- Settles O8: an access that may be made is its own effect and then an issue; another is a fault of the run, which leaves memory alone. -/
theorem crestLoadStore : Obligations.CrestLoadStore := by
  intro d g s r w
  refine ⟨fun h ha => ⟨_, exec_ld_of h ha, ?_⟩, fun h ha => ⟨_, exec_st_of h ha, ?_⟩,
    fun p hp h code ha => ⟨_, exec_ld_st_fault hp h ha, s.runFaulted_spec d g r code⟩⟩
  · exact And.imp_right (fun ⟨_, _, hmem⟩ => hmem) (State.withRegs_withHeadRun_spec ..)
  · exact State.writeMarked_withHeadRun_spec _ _ (stBytes_length ..) ..

end Sys2Proof.Machine
end

