-- ==== Sys2Proof/Proofs/TalusGranules.lean ====
section
/-!
PROOFS. A granule of a Talus stack: its bytes and its words' poison in memory, the errors that stand in it, and what a read of it finds
(R36, R165 to R168).
-/
namespace Sys2Proof.Machine

open Sys2Proof

/-! ### Poison by words of eight bytes -/

theorem State.poisoned_of_poison {s u : State} (h : u.poison = s.poison) (a n : Nat) : u.poisoned a n = s.poisoned a n := by
  unfold State.poisoned State.poisonAt
  rw [h]

theorem memKey_home {a : Nat} (h : a < 0xC000000000) : memKey a = a := if_neg (by omega)

theorem poisonWord_home {a : Nat} (h : a < 0xC000000000) : poisonWord a = 8 := by
  unfold poisonWord place
  rw [if_pos h]

/-- Marking or clearing whole words of the home view changes their marks and no other (R168). -/
theorem State.poisonAt_setPoison_home (s : State) {a n b : Nat} (p : Bool) (ha : a % 8 = 0) (hn : n % 8 = 0) (h0 : 0 < n)
    (hlast : a + n ≤ 0xC000000000) (hb : b < 0xC000000000) : (s.setPoison a n p).poisonAt b = if a ≤ b ∧ b < a + n then p else s.poisonAt b := by
  have hmem : b / 4 ∈ (rangeFrom (a / 4) (n / 4)).map (fun u => memKey (u * 4) / 4) ↔ a ≤ b ∧ b < a + n := by
    simp only [rangeFrom, List.map_map, List.mem_map, List.mem_range, Function.comp_apply]
    constructor
    · rintro ⟨i, hi, h⟩
      rw [memKey_home (by omega)] at h
      omega
    · intro h
      refine ⟨b / 4 - a / 4, by omega, ?_⟩
      rw [memKey_home (by omega)]
      omega
  unfold State.poisonAt State.setPoison
  dsimp only
  rw [kget_foldl_kset (fun u => memKey (u * 4) / 4), poisonWord_home (by omega), memKey_home hb,
    show a / 8 * 8 / 4 = a / 4 by omega, show ((a + n + 8 - 1) / 8 * 8 - a / 8 * 8) / 4 = n / 4 by omega]
  simp only [hmem]

/-- An extent of whole words is poisoned where a half of one of its words is. -/
theorem State.poisoned_iff (s : State) {a n : Nat} (ha : a % 8 = 0) (hn : n % 8 = 0) :
    s.poisoned a n = true ↔ ∃ b, b % 4 = 0 ∧ a ≤ b ∧ b < a + n ∧ s.poisonAt b = true := by
  simp only [State.poisoned, rangeFrom, List.any_map, List.any_eq_true, List.mem_range, Function.comp_apply]
  constructor
  · rintro ⟨i, hi, h⟩
    exact ⟨(a / 4 + i) * 4, by omega, by omega, by omega, h⟩
  · rintro ⟨b, h4, hl, hr, h⟩
    exact ⟨b / 4 - a / 4, by omega, by rwa [show (a / 4 + (b / 4 - a / 4)) * 4 = b by omega]⟩

/-! ### Where a granule lies (Table 1.5) -/

theorem granuleAddr_mod (t granule : Nat) : granuleAddr t granule % 128 = 0 := by
  unfold granuleAddr
  omega

/-- A granule that a stack has lies whole in the home view. -/
theorem granuleAddr_last {t granule : Nat} (ht : t < 12) (hg : granule < 536870912) : granuleAddr t granule + 128 ≤ 0xC000000000 := by
  unfold granuleAddr
  omega

/-- The granules of the package's stacks. -/
def IsGranule (t granule : Nat) : Prop := t < 12 ∧ granule < 536870912

theorem State.poisoned_granule (s : State) (t granule : Nat) :
    s.poisoned (granuleAddr t granule) 128 = true ↔ ∃ w < 16, s.poisoned (granuleAddr t granule + 8 * w) 8 = true := by
  have hm := granuleAddr_mod t granule
  rw [s.poisoned_iff (by omega) (by decide)]
  constructor
  · rintro ⟨b, h4, hl, hr, h⟩
    exact ⟨(b - granuleAddr t granule) / 8, by omega, (s.poisoned_iff (by omega) (by decide)).mpr ⟨b, h4, by omega, by omega, h⟩⟩
  · rintro ⟨w, hw, h⟩
    obtain ⟨b, h4, hl, hr, h⟩ := (s.poisoned_iff (by omega) (by decide)).mp h
    exact ⟨b, h4, by omega, by omega, h⟩

theorem State.not_poisoned_word {s : State} {t granule w : Nat} (h : s.poisoned (granuleAddr t granule) 128 = false) (hw : w < 16) :
    s.poisoned (granuleAddr t granule + 8 * w) 8 = false :=
  Bool.eq_false_iff.mpr fun hp => Bool.false_ne_true (h.symm.trans ((s.poisoned_granule t granule).mpr ⟨w, hw, hp⟩))

/-- A word of a granule that is marked is poisoned; the granule's other words are as they were. -/
theorem State.poisoned_setPoison_word (s : State) {t granule w v : Nat} (h : IsGranule t granule) (hw : w < 16) (hv : v < 16) :
    (s.setPoison (granuleAddr t granule + 8 * w) 8 true).poisoned (granuleAddr t granule + 8 * v) 8 =
      if v = w then true else s.poisoned (granuleAddr t granule + 8 * v) 8 := by
  have hm := granuleAddr_mod t granule
  have hl := granuleAddr_last h.1 h.2
  have hat {b : Nat} (hb : b < granuleAddr t granule + 128) := s.poisonAt_setPoison_home (a := granuleAddr t granule + 8 * w) (n := 8) (b := b)
    true (by omega) (by decide) (by decide) (by omega) (by omega)
  rw [Bool.eq_iff_iff, State.poisoned_iff _ (by omega) (by decide)]
  split
  · next e =>
    subst e
    exact ⟨fun _ => rfl, fun _ => ⟨granuleAddr t granule + 8 * v, by omega, by omega, by omega, by rw [hat (by omega), if_pos (by omega)]⟩⟩
  · next e =>
    rw [State.poisoned_iff _ (by omega) (by decide)]
    refine exists_congr fun b => and_congr_right fun _ => and_congr_right fun _ => and_congr_right fun _ => ?_
    rw [hat (by omega), if_neg (by omega)]

/-- A granule whose words are all marked, or all cleared, is so as a whole. -/
theorem State.poisoned_setPoison_granule (s : State) {t granule : Nat} (h : IsGranule t granule) (p : Bool) :
    (s.setPoison (granuleAddr t granule) 128 p).poisoned (granuleAddr t granule) 128 = p := by
  have hm := granuleAddr_mod t granule
  have hl := granuleAddr_last h.1 h.2
  have hat {b : Nat} (h1 : granuleAddr t granule ≤ b) (h2 : b < granuleAddr t granule + 128) :
      (s.setPoison (granuleAddr t granule) 128 p).poisonAt b = p := by
    rw [s.poisonAt_setPoison_home p (by omega) (by decide) (by decide) hl (by omega), if_pos ⟨h1, h2⟩]
  rw [Bool.eq_iff_iff, State.poisoned_iff _ (by omega) (by decide)]
  constructor
  · rintro ⟨b, -, h1, h2, hb⟩
    rwa [hat h1 h2] at hb
  · exact fun hp => ⟨granuleAddr t granule, by omega, by omega, by omega, by rw [hat (by omega) (by omega), hp]⟩

/-- A granule written in full loses its marks (R168). -/
theorem State.write_granule_clears (s : State) {t granule : Nat} (h : IsGranule t granule) {bs : List Byte} (hb : bs.length = 128) :
    s.write (granuleAddr t granule) bs = (s.storeBytes (granuleAddr t granule) bs).setPoison (granuleAddr t granule) 128 false := by
  have hm := granuleAddr_mod t granule
  have hl := granuleAddr_last h.1 h.2
  unfold State.write State.clearCovered
  dsimp only
  rw [hb, poisonWord_home (by omega), if_pos (by omega), show (granuleAddr t granule + 8 - 1) / 8 * 8 = granuleAddr t granule by omega,
    show ((granuleAddr t granule + 128) / 8 - (granuleAddr t granule + 8 - 1) / 8) * 8 = 128 by omega]

/-! ### A granule's bytes -/

theorem State.bytes_succ (s : State) (a n : Nat) : s.bytes a (n + 1) = s.byte a :: s.bytes (a + 1) n := by
  simp [State.bytes, rangeFrom, List.range_succ_eq_map, Function.comp_def, Nat.add_assoc, Nat.add_comm 1]

theorem State.bytes_add (s : State) (a m n : Nat) : s.bytes a (m + n) = s.bytes a m ++ s.bytes (a + m) n := by
  induction m generalizing a with
  | zero => simp [State.bytes, rangeFrom]
  | succ m ih => rw [Nat.succ_add_eq_add_succ, Nat.add_succ, s.bytes_succ, ih, s.bytes_succ, Nat.add_right_comm, Nat.add_assoc]; rfl

/-- The words of an extent make up its bytes. -/
theorem State.flatMap_words (s : State) (a n : Nat) : (List.range n).flatMap (fun w => s.bytes (a + 8 * w) 8) = s.bytes a (8 * n) := by
  induction n with
  | zero => rfl
  | succ n ih => rw [List.range_succ, List.flatMap_append, ih, Nat.mul_succ, s.bytes_add]; simp

theorem State.leBytes_readN (s : State) (a n : Nat) : leBytes n (s.readN a n) = s.bytes a n := by
  have h := leBytes_leNat (s.bytes a n)
  rwa [show (s.bytes a n).length = n by simp [State.bytes, rangeFrom]] at h

/-- Bytes stored where memory holds them already change nothing. -/
theorem State.byte_storeBytes_self (s : State) {u : State} (h : u.byte = s.byte) (a n : Nat) : (u.storeBytes a (s.bytes a n)).byte = s.byte := by
  induction n generalizing a u with
  | zero => exact h
  | succ n ih =>
    rw [s.bytes_succ]
    refine ih (funext fun b => ?_) (a + 1)
    rw [State.byte_setByte]
    split
    · next e => unfold State.byte; rw [e]
    · exact congrFun h b

/-! ### The errors that stand in a granule -/

theorem State.granuleErrs_setGranuleErrs (s : State) (t granule : Nat) (errs : List SymErr) :
    (s.setGranuleErrs t granule errs).granuleErrs t granule = errs := by
  have hnone : (((s.stack t).errs.filter fun e => e.1 != granule).filter fun e => e.1 == granule) = [] := by
    simp [List.filter_filter, List.filter_eq_nil_iff]
  rw [State.granuleErrs, State.setGranuleErrs, State.stack_setStack, List.filter_append, hnone]
  simp [List.filter_eq_self.mpr, Function.comp_def]

theorem State.granuleErrs_congr {s u : State} (h : u.talusCtl = s.talusCtl) (t granule : Nat) :
    u.granuleErrs t granule = s.granuleErrs t granule := by
  unfold State.granuleErrs State.stack
  rw [h]

theorem State.granuleErrs_freshen (s : State) (t granule : Nat) (errs : List SymErr) (full : Bool) :
    (s.freshen t granule errs full).granuleErrs t granule = [] := State.granuleErrs_setGranuleErrs ..

/-- An error alone in its word stands on after a read (R167). -/
theorem standing_one {w j : Nat} {f : BitVec 4} (hj : j < 20) (hf : f ≠ 0) : standing [⟨w, j, f⟩] = [⟨w, j, f⟩] := by
  simp [standing, badSymbols_one hj hf]

/-- Two errors of one word do not (R168). -/
theorem standing_two {w j k : Nat} {f g : BitVec 4} (hj : j < 20) (hk : k < 20) (hne : j ≠ k) (hf : f ≠ 0) (hg : g ≠ 0) :
    standing [⟨w, j, f⟩, ⟨w, k, g⟩] = [] := by
  simp [standing, badSymbols_two hj hk hne hf hg]

/-! ### Decoding -/

/-- A word of a granule as memory holds it: its number and its mark. -/
def State.storedWord (s : State) (t granule w : Nat) : TalusWord :=
  ⟨s.readN (granuleAddr t granule + 8 * w) 8, s.poisoned (granuleAddr t granule + 8 * w) 8⟩

section
variable {s : State} {t granule w : Nat} {errs : List SymErr}

/-- A word without a wrong symbol reads as it is stored. -/
theorem State.decodeWord_good (h : badSymbols errs w = []) : s.decodeWord t granule w errs = (s, s.storedWord t granule w) := by
  unfold State.decodeWord State.decodeStored State.storedWord
  dsimp only
  cases s.poisoned (granuleAddr t granule + 8 * w) 8 with
  | true => rfl
  | false => rw [h]; cases s.deadSymbol t w <;> rfl

variable (hp : s.poisoned (granuleAddr t granule + 8 * w) 8 = false)
include hp

/-- A wrong symbol on a dead wire is no error (R169). -/
theorem State.decodeWord_dead {j : Nat} (hd : s.deadSymbol t w = some j) (h : badSymbols errs w = [j]) :
    s.decodeWord t granule w errs = (s, ⟨s.readN (granuleAddr t granule + 8 * w) 8, false⟩) := by
  unfold State.decodeWord State.decodeStored
  dsimp only
  rw [hp, hd, h]
  simp

variable (hd : s.deadSymbol t w = none)
include hd

/-- One wrong symbol is corrected and counted (R167). -/
theorem State.decodeWord_one {j : Nat} (h : badSymbols errs w = [j]) : s.decodeWord t granule w errs =
    (s.countCorrected t granule w j, ⟨s.readN (granuleAddr t granule + 8 * w) 8, false⟩) := by
  unfold State.decodeWord State.decodeStored
  dsimp only
  rw [hp, hd, h]
  rfl

/-- Two wrong symbols are detected (R168). -/
theorem State.decodeWord_two {j k : Nat} (h : badSymbols errs w = [j, k]) : s.decodeWord t granule w errs =
    (s.countUncorrectable t granule w, ⟨s.readN (granuleAddr t granule + 8 * w) 8, true⟩) := by
  unfold State.decodeWord State.decodeStored
  dsimp only
  rw [hp, hd, h]
  rfl

end

/-- Where errors stand in one word at most, decoding does what it does for that word, and the others read as they are stored. -/
theorem State.decodeGranule_one {s u : State} {t granule w : Nat} {errs : List SymErr} {x : TalusWord} (hw : w < 16)
    (hbad : ∀ v, v ≠ w → badSymbols errs v = []) (hx : s.decodeWord t granule w errs = (u, x))
    (hkeep : ∀ v < 16, v ≠ w → u.storedWord t granule v = s.storedWord t granule v) :
    s.decodeGranule t granule errs = (u, (List.range 16).map fun v => if v = w then x else s.storedWord t granule v) := by
  have hfold (n : Nat) (hn : n ≤ 16) : (List.range n).foldl (fun (x : State × List TalusWord) v =>
      let y := x.1.decodeWord t granule v errs
      (y.1, x.2 ++ [y.2])) (s, []) =
      (if w < n then u else s, (List.range n).map fun v => if v = w then x else s.storedWord t granule v) := by
    induction n with
    | zero => rfl
    | succ n ih =>
      rw [List.range_succ, List.foldl_append, ih (by omega), List.map_append, List.foldl_cons, List.foldl_nil]
      dsimp only
      obtain hlt | rfl | hgt := Nat.lt_trichotomy w n
      · rw [if_pos hlt, if_pos (by omega), State.decodeWord_good (hbad n (by omega)), hkeep n (by omega) (by omega)]
        simp [show n ≠ w by omega]
      · rw [if_neg (Nat.lt_irrefl w), if_pos (Nat.lt_succ_self w), hx]
        simp
      · rw [if_neg (by omega), if_neg (by omega), State.decodeWord_good (hbad n (by omega))]
        simp [show n ≠ w by omega]
  rw [State.decodeGranule, hfold 16 (Nat.le_refl _), if_pos hw]

theorem State.decodeGranule_length (s : State) (t granule : Nat) (errs : List SymErr) : (s.decodeGranule t granule errs).2.length = 16 := by
  have hfold (l : List Nat) (p : State × List TalusWord) : (l.foldl (fun (x : State × List TalusWord) v =>
      let y := x.1.decodeWord t granule v errs
      (y.1, x.2 ++ [y.2])) p).2.length = p.2.length + l.length := by
    induction l generalizing p with
    | nil => rfl
    | cons v l ih => rw [List.foldl_cons, ih]; simp; omega
  exact (hfold _ _).trans (by simp)

/-! ### What a read leaves and returns -/

/-- The words of a granule with the bytes memory holds and given marks. -/
def State.markedWords (s : State) (t granule : Nat) (p : Nat → Bool) : List TalusWord :=
  (List.range 16).map fun w => ⟨s.readN (granuleAddr t granule + 8 * w) 8, p w⟩

/-- Words that are as memory holds them, or poisoned, are kept without a change of a byte. -/
theorem State.byte_keepWords {s u : State} (h : u.byte = s.byte) (t granule : Nat) (p : Nat → Bool) :
    (u.keepWords t granule (s.markedWords t granule p)).byte = s.byte := by
  have hwords : ∀ x ∈ (s.markedWords t granule p).zipIdx, leBytes 8 x.1.data = s.bytes (granuleAddr t granule + 8 * x.2) 8 := by
    rintro ⟨x, w⟩ hx
    rw [List.mem_zipIdx_iff_getElem?, State.markedWords, List.getElem?_map, Option.map_eq_some_iff] at hx
    obtain ⟨v, hv, rfl⟩ := hx
    obtain rfl : w = v := by simpa using (List.getElem?_eq_some_iff.mp hv).2
    exact s.leBytes_readN _ 8
  unfold State.keepWords
  generalize (s.markedWords t granule p).zipIdx = l at hwords ⊢
  induction l generalizing u with
  | nil => exact h
  | cons x l ih =>
    refine ih ?_ fun y hy => hwords y (.tail _ hy)
    dsimp only
    split
    · exact h
    · rw [hwords x (.head _)]
      exact s.byte_storeBytes_self h ..

/-- Decoded words are kept within their granule. -/
theorem State.byte_keepWords_ne (s : State) {t granule b : Nat} {ws : List TalusWord} (hws : ws.length = 16)
    (h : Outside b (granuleAddr t granule) 128) : (s.keepWords t granule ws).byte b = s.byte b := by
  refine State.byte_foldl _ _ _ _ fun x hx u => ?_
  have hi : x.2 < 16 := hws ▸ by simpa using List.snd_lt_of_mem_zipIdx hx
  split
  · rfl
  · refine State.byte_storeBytes_ne _ _ _ _ fun i hl => ?_
    rw [leBytes_length] at hl
    rw [Nat.add_assoc]
    exact h _ (by omega)

/-- Marks of the sixteen words as one number: bit w for word w (R163). -/
def markMask (p : Nat → Bool) : Nat := ((List.range 16).filter p).foldl (fun m w => m + 2 ^ w) 0

/-- The bytes that a granule's words are returned with: zeros for a word with a mark (R163, R168). -/
def State.markedBytes (s : State) (t granule : Nat) (p : Nat → Bool) : List Byte :=
  (List.range 16).flatMap fun w => if p w then List.replicate 8 0 else s.bytes (granuleAddr t granule + 8 * w) 8

theorem poisonMask_append (l : List TalusWord) (x : TalusWord) : poisonMask (l ++ [x]) = poisonMask l + 2 ^ l.length * b2n x.pois := by
  induction l with
  | nil => simp [poisonMask]
  | cons y l ih =>
    have h : poisonMask (y :: (l ++ [x])) = 2 * poisonMask (l ++ [x]) + b2n y.pois := rfl
    rw [List.cons_append, h, ih, List.length_cons, pow_succ']
    show _ = 2 * poisonMask l + b2n y.pois + _
    ring

theorem State.poisonMask_markedWords (s : State) (t granule : Nat) (p : Nat → Bool) : poisonMask (s.markedWords t granule p) = markMask p := by
  unfold State.markedWords markMask
  induction 16 with
  | zero => rfl
  | succ n ih =>
    rw [List.range_succ, List.map_append, List.map_singleton, poisonMask_append, ih, List.filter_append, List.foldl_append,
      List.length_map, List.length_range]
    cases h : p n <;> simp [h, b2n]

theorem State.wordBytes_markedWords (s : State) (t granule : Nat) (p : Nat → Bool) :
    wordBytes (s.markedWords t granule p) = s.markedBytes t granule p := by
  unfold wordBytes State.markedWords State.markedBytes
  rw [List.flatMap_map]
  refine List.flatMap_congr fun w _ => ?_
  dsimp only
  split
  · rfl
  · exact s.leBytes_readN _ 8

theorem markMask_eq_zero (p : Nat → Bool) : markMask p = 0 ↔ ∀ w < 16, p w = false := by
  have hfold (l : List Nat) (m : Nat) : l.foldl (fun m w => m + 2 ^ w) m = 0 ↔ m = 0 ∧ l = [] := by
    induction l generalizing m with
    | nil => simp
    | cons w l ih => simp [ih]
  rw [markMask, hfold, List.filter_eq_nil_iff]
  simp

theorem markMask_one {w : Nat} (h : w < 16) : markMask (fun v => decide (v = w)) = 2 ^ w := by
  have : ∀ w < 16, markMask (fun v => decide (v = w)) = 2 ^ w := by decide
  exact this w h

theorem State.markedBytes_none (s : State) (t granule : Nat) : s.markedBytes t granule (fun _ => false) = s.bytes (granuleAddr t granule) 128 :=
  s.flatMap_words _ 16

/-- A read of a granule in which `errs` have come to stand finds the bytes of memory with marks p. It leaves u, but that the words it
found are kept and that the errors of words with one wrong symbol stand on (R167). -/
def State.ReadsAs (s : State) (t granule : Nat) (errs : List SymErr) (u : State) (p : Nat → Bool) : Prop :=
  s.readCells t granule errs =
    ((u.keepWords t granule (s.markedWords t granule p)).setGranuleErrs t granule (standing (s.granuleErrs t granule ++ errs)),
      s.markedWords t granule p)

section
variable {s u : State} {t granule : Nat} {errs : List SymErr} {p : Nat → Bool} (h : s.ReadsAs t granule errs u p)
include h

theorem State.ReadsAs.moves : Moves 0x210 u (s.readCells t granule errs).1 := by
  rw [h]
  exact (State.setGranuleErrs_moves ..).step (by decide) ((State.keepWords_moves ..).mono (by decide))

/-- No byte changes. -/
theorem State.ReadsAs.byte (hu : u.byte = s.byte) (b : Nat) : (s.readCells t granule errs).1.byte b = s.byte b := by
  rw [h]
  exact (State.byte_of_mem ((State.setGranuleErrs_moves ..).same .mem (by decide)) b).trans
    (congrFun (State.byte_keepWords hu t granule p) b)

theorem State.ReadsAs.granuleErrs (h0 : s.granuleErrs t granule = []) :
    (s.readCells t granule errs).1.granuleErrs t granule = standing errs := by
  rw [h, State.granuleErrs_setGranuleErrs, h0, List.nil_append]

/-- The controller's answer: the marks' mask, POISONED where it is not 0, and the bytes (R163). -/
theorem State.ReadsAs.readGranule : s.readGranule t granule errs = (s.readCells t granule errs).1.emit .talusData t
    [granule, markMask p, if markMask p = 0 then stDONE else stPOISONED] (s.markedBytes t granule p) := by
  rw [State.readGranule, show (s.readCells t granule errs).2 = s.markedWords t granule p by rw [h], State.poisonMask_markedWords,
    State.wordBytes_markedWords]

theorem State.ReadsAs.readGranule_moves : Moves 0x214 u (s.readGranule t granule errs) := by
  rw [h.readGranule]
  exact (State.emit_moves ..).step (by decide) (h.moves.mono (by decide))

end

/-- A read where errors stand in word w at most. -/
theorem State.readsAs_one {s u : State} {t granule w : Nat} {errs : List SymErr} {q : Bool} (h0 : s.granuleErrs t granule = []) (hw : w < 16)
    (hbad : ∀ v, v ≠ w → badSymbols errs v = [])
    (hx : s.decodeWord t granule w errs = (u, ⟨s.readN (granuleAddr t granule + 8 * w) 8, q⟩)) (hmem : u.mem = s.mem)
    (hkeep : ∀ v < 16, v ≠ w → u.poisoned (granuleAddr t granule + 8 * v) 8 = s.poisoned (granuleAddr t granule + 8 * v) 8) :
    s.ReadsAs t granule errs u fun v => if v = w then q else s.poisoned (granuleAddr t granule + 8 * v) 8 := by
  have hword : ∀ v < 16, v ≠ w → u.storedWord t granule v = s.storedWord t granule v := fun v hv hne => by
    rw [State.storedWord, State.storedWord, hkeep v hv hne, State.readN, State.readN, State.bytes_of_mem hmem]
  have hwords : ((List.range 16).map fun v => if v = w then ⟨s.readN (granuleAddr t granule + 8 * w) 8, q⟩ else s.storedWord t granule v) =
      s.markedWords t granule fun v => if v = w then q else s.poisoned (granuleAddr t granule + 8 * v) 8 := by
    refine List.map_congr_left fun v _ => ?_
    dsimp only
    split
    · next e => rw [e]
    · rfl
  unfold State.ReadsAs State.readCells
  dsimp only
  rw [h0, List.nil_append, State.decodeGranule_one hw hbad hx hword, hwords]

/-- A read where no error stands changes no state, and each word keeps its mark. -/
theorem State.readsAs_none {s : State} {t granule : Nat} (h0 : s.granuleErrs t granule = []) :
    s.ReadsAs t granule [] s fun w => s.poisoned (granuleAddr t granule + 8 * w) 8 := by
  have h := State.readsAs_one (w := 0) (errs := []) h0 (by decide) (fun _ _ => rfl) (State.decodeWord_good rfl) rfl fun _ _ _ => rfl
  have hp : (fun v => if v = 0 then s.poisoned (granuleAddr t granule + 8 * 0) 8 else s.poisoned (granuleAddr t granule + 8 * v) 8) =
      fun v => s.poisoned (granuleAddr t granule + 8 * v) 8 := funext fun v => by
    split
    · next e => rw [e]
    · rfl
  rwa [hp] at h

/-- A read leaves every byte outside its granule. -/
theorem State.byte_readCells_ne (s : State) {t granule b : Nat} (errs : List SymErr) (h : Outside b (granuleAddr t granule) 128) :
    (s.readCells t granule errs).1.byte b = s.byte b := by
  refine (State.byte_of_mem ((State.setGranuleErrs_moves ..).same .mem (by decide)) b).trans
    ((State.byte_keepWords_ne _ (State.decodeGranule_length ..) h).trans ?_)
  exact State.byte_of_mem ((State.decodeGranule_moves ..).same .mem (by decide)) b

end Sys2Proof.Machine
end

