-- ==== Sys2Proof/Proofs/TalusAccess.lean ====
section
/-!
PROOFS. Accesses at a Talus controller: what holds them, what refuses them, and granule reads and writes (R163, R165, R166, R168, R171).
-/
namespace Sys2Proof.Machine

open Sys2Proof

/-! ### How a controller takes an access (Table 6.3) -/

section
variable {s : State} {t : Nat} {h : HeldAccess}

theorem State.talusAccess_held (hh : s.stackHeld (granuleAddr t h.granule) 128 h.writes = true) :
    s.talusAccess t h = s.setArrivals (s.arrivals ++ [⟨[(granuleAddr t h.granule, 128, h.writes)], .talus t h⟩]) := if_pos hh

variable (hh : s.stackHeld (granuleAddr t h.granule) 128 h.writes = false)
include hh

theorem State.talusAccess_retired (hr : s.stackReach t = .retired) : s.talusAccess t h = s.refuseGranule t h stPOISONED := by
  simp [State.talusAccess, hh, hr]

theorem State.talusAccess_unreachable (hr : s.stackReach t = .unreachable) : s.talusAccess t h = s.refuseGranule t h stUNREACHABLE := by
  simp [State.talusAccess, hh, hr]

theorem State.talusAccess_unmapped (hr : s.stackReach t = .unmapped) :
    s.talusAccess t h = (s.addressFault (t / 3) 0 (granuleAddr t h.granule)).refuseGranule t h stDONE := by
  simp [State.talusAccess, hh, hr]

end

section
variable {t : Fin 12} {granule : Fin 536870912} {s : State} {errs : List SymErr}

/-- A read that the stack takes at once is the controller's granule read. -/
theorem exec_talusRead_ok (hh : s.stackHeld (granuleAddr t granule) 128 false = false) (hr : s.stackReach t = .ok) :
    exec (.talusRead t granule errs) s = .next (s.readGranule t granule errs) := by
  have h : s.talusAccess t (.read granule errs) = s.readGranule t granule errs := by
    simp [State.talusAccess, HeldAccess.granule, HeldAccess.writes, hh, hr]
  exact congrArg Host.Outcome.next h

/-- A write that the stack takes at once is the controller's granule write. -/
theorem exec_talusWrite_ok {first : Fin 128} {data : List Byte} {poison : Bool}
    (hh : s.stackHeld (granuleAddr t granule) 128 true = false) (hr : s.stackReach t = .ok) :
    exec (.talusWrite t granule first data poison errs) s = .next (s.writeGranule t granule first data poison errs) := by
  have h : s.talusAccess t (.write granule first data poison errs) = s.writeGranule t granule first data poison errs := by
    simp [State.talusAccess, HeldAccess.granule, HeldAccess.writes, hh, hr]
  exact congrArg Host.Outcome.next h

end

/-! ### Reads -/

/-- The mask of a granule's words is 0 where none of them is poisoned. -/
theorem State.markMask_poisoned (s : State) (t granule : Nat) :
    (if markMask (fun w => s.poisoned (granuleAddr t granule + 8 * w) 8) = 0 then stDONE else stPOISONED) =
      if s.poisoned (granuleAddr t granule) 128 then stPOISONED else stDONE := by
  have h := s.poisoned_granule t granule
  split <;> split
  · next h0 hp =>
    obtain ⟨w, hw, hw'⟩ := h.mp hp
    exact absurd ((markMask_eq_zero _).mp h0 w hw) (by simp [hw'])
  · rfl
  · rfl
  · next h0 hp => exact absurd ((markMask_eq_zero _).mpr fun w hw => State.not_poisoned_word (Bool.eq_false_iff.mpr hp) hw) h0

/-- Settles O11: a read that is taken finds what memory holds, and each other one is a branch of the controller's answer. -/
theorem talusReads : Obligations.TalusReads := by
  intro t granule s
  refine ⟨fun errs hh => congrArg Host.Outcome.next (State.talusAccess_held (h := .read granule errs) hh), fun hh => ⟨fun hr h0 => ?_,
    fun errs hr => congrArg Host.Outcome.next (State.talusAccess_retired (h := .read granule errs) hh hr),
    fun errs hr => congrArg Host.Outcome.next (State.talusAccess_unreachable (h := .read granule errs) hh hr),
    fun errs hr => congrArg Host.Outcome.next (State.talusAccess_unmapped (h := .read granule errs) hh hr)⟩⟩
  have hread := State.readsAs_none h0
  have hmoves := hread.readGranule_moves
  refine ⟨_, exec_talusRead_ok hh hr, ?_, fun a => ?_, hmoves.same .poison (by decide), hmoves.same .regs (by decide)⟩
  · have hout : (s.readCells t granule []).1.out = s.out := hread.moves.same .out (by decide)
    rw [hread.readGranule, s.markMask_poisoned, State.emit_out, hout, markMask, State.markedBytes]
  · rw [hread.readGranule, State.emit_byte]
    exact hread.byte rfl a

/-! ### Writes -/

section
variable (s : State) (t granule first : Nat) (data : List Byte) (poison : Bool) (errs : List SymErr)

/-- The controller stores bytes, poisoned or not (R168). -/
def State.storeGranule (s : State) (a : Nat) (bs : List Byte) (poison : Bool) : State :=
  if poison then s.writePoisoned a bs else s.write a bs

theorem State.storeGranule_moves (a : Nat) (bs : List Byte) : Moves 0x30 s (s.storeGranule a bs poison) :=
  .ite (fun _ => State.writePoisoned_moves ..) fun _ => State.write_moves ..

theorem State.mem_storeGranule (a : Nat) (bs : List Byte) : (s.storeGranule a bs poison).mem = (s.write a bs).mem := by
  unfold State.storeGranule
  split
  · exact (State.setPoison_moves ..).same .mem (by decide)
  · rfl

theorem State.writeGranule_eq : s.writeGranule t granule first data poison errs =
    ((s.freshen t granule errs (first == 0 && (data.take (128 - first)).length == 128)).storeGranule (granuleAddr t granule + first)
      (data.take (128 - first)) poison).emit .talusData t [granule, 0, stDONE] [] := rfl

/-- A write of a whole granule and a read-modify-write leave no error (R165). -/
theorem State.granuleErrs_writeGranule : (s.writeGranule t granule first data poison errs).granuleErrs t granule = [] := by
  rw [State.writeGranule_eq]
  exact (State.granuleErrs_congr ((State.storeGranule_moves ..).same .talusCtl (by decide)) t granule).trans
    (State.granuleErrs_freshen ..)

/-- A write changes bytes of memory within what it stores, and as the read of the granule leaves it. -/
theorem State.byte_writeGranule {b : Nat} (h : Outside b (granuleAddr t granule + first) (data.take (128 - first)).length) :
    (s.writeGranule t granule first data poison errs).byte b =
      (s.freshen t granule errs (first == 0 && (data.take (128 - first)).length == 128)).byte b := by
  rw [State.writeGranule_eq]
  exact (State.byte_of_mem (State.mem_storeGranule ..) b).trans (State.byte_write_ne _ _ _ _ h)

/-- The bytes stored lie in one page, so they read back. -/
theorem State.bytes_writeGranule : (s.writeGranule t granule first data poison errs).bytes (granuleAddr t granule + first)
    (data.take (128 - first)).length = data.take (128 - first) := by
  have hlen : (data.take (128 - first)).length ≤ 128 - first := List.length_take_le ..
  rw [State.writeGranule_eq]
  refine (State.bytes_of_mem (State.mem_storeGranule ..) _ _).trans ?_
  by_cases h : first < 128
  · refine State.bytes_write _ _ _ ?_
    unfold granuleAddr
    omega
  · rw [show 128 - first = 0 by omega, List.take_zero]
    rfl

end

/-- Before the bytes of a write are stored no byte outside the granule changes. -/
theorem State.byte_freshen_ne (s : State) {t granule b : Nat} (errs : List SymErr) (full : Bool) (h : Outside b (granuleAddr t granule) 128) :
    (s.freshen t granule errs full).byte b = s.byte b := by
  refine (State.byte_of_mem ((State.setGranuleErrs_moves ..).same .mem (by decide)) b).trans ?_
  split
  · rfl
  · exact s.byte_readCells_ne errs h

section
variable {s : State} {t granule : Nat} (h0 : s.granuleErrs t granule = []) (full : Bool)
include h0

/-- Where no error stands, making a granule fresh changes neither bytes nor what else the state holds. -/
theorem State.byte_freshen_none (b : Nat) : (s.freshen t granule [] full).byte b = s.byte b := by
  refine (State.byte_of_mem ((State.setGranuleErrs_moves ..).same .mem (by decide)) b).trans ?_
  split
  · rfl
  · exact (State.readsAs_none h0).byte rfl b

theorem State.freshen_moves_none : Moves 0x210 s (s.freshen t granule [] full) :=
  (State.setGranuleErrs_moves ..).step (by decide) (.ite (fun _ => .refl s) fun _ => (State.readsAs_none h0).moves)

end

/-- A whole granule is poisoned as it was written (R168). -/
theorem State.poisoned_writeGranule (s : State) {t granule : Nat} (h : IsGranule t granule) {data : List Byte} (hl : data.length = 128)
    (poison : Bool) (errs : List SymErr) : (s.writeGranule t granule 0 data poison errs).poisoned (granuleAddr t granule) 128 = poison := by
  have hall : data.take (128 - 0) = data := List.take_of_length_le (by omega)
  rw [State.writeGranule_eq, hall, State.poisoned_of_poison (State.emit_poison ..), Nat.add_zero]
  cases poison with
  | true =>
    rw [State.storeGranule, if_pos rfl, State.writePoisoned, hl]
    exact State.poisoned_setPoison_granule _ h true
  | false =>
    rw [State.storeGranule, if_neg Bool.false_ne_true, State.write_granule_clears _ h hl]
    exact State.poisoned_setPoison_granule _ h false

/-- Settles O13: a write that is taken stores its bytes after the granule was made fresh; each other one is a branch of the controller's
answer. -/
theorem talusWrites : Obligations.TalusWrites := by
  intro t granule first data poison s
  refine ⟨fun errs hh => congrArg Host.Outcome.next (State.talusAccess_held (h := .write granule first data poison errs) hh),
    fun hh => ⟨fun hr h0 => ?_, fun errs hr => ⟨_, exec_talusWrite_ok hh hr, State.granuleErrs_writeGranule ..⟩, fun errs hr => ?_,
    fun errs hr => congrArg Host.Outcome.next (State.talusAccess_retired (h := .write granule first data poison errs) hh hr),
    fun errs hr => congrArg Host.Outcome.next (State.talusAccess_unreachable (h := .write granule first data poison errs) hh hr),
    fun errs hr => congrArg Host.Outcome.next (State.talusAccess_unmapped (h := .write granule first data poison errs) hh hr)⟩⟩
  · refine ⟨_, exec_talusWrite_ok hh hr, State.bytes_writeGranule .., fun a ha => ?_, ?_, fun hf hl => ?_⟩
    · exact (State.byte_writeGranule (h := ha) ..).trans (State.byte_freshen_none h0 _ a)
    · have hmoves := (State.storeGranule_moves _ poison (granuleAddr t granule + first) (data.take (128 - first))).step (by decide)
        ((State.freshen_moves_none h0 (first.val == 0 && (data.take (128 - first)).length == 128)).mono (M := 0x230) (by decide))
      rw [State.writeGranule_eq, State.emit_out]
      exact congrArg (· ++ _) (hmoves.same .out (by decide))
    · rw [hf]
      exact s.poisoned_writeGranule ⟨t.isLt, granule.isLt⟩ hl poison []
  · refine ⟨_, exec_talusWrite_ok hh hr, fun a ha => (State.byte_writeGranule (h := fun i hi => ?_) ..).trans
      (s.byte_freshen_ne errs _ ha)⟩
    have hlen : (data.take (128 - first.val)).length ≤ 128 - first.val := List.length_take_le ..
    rw [Nat.add_assoc]
    exact ha _ (by omega)

end Sys2Proof.Machine
end

