-- ==== Sys2Proof/Proofs/TalusStacks.lean ====
section
/-!
PROOFS. The commands of one Talus stack: scrub, counts, retirement, training, temperature (R170, R172 to R174, Tables 6.4, 6.13).
-/
namespace Sys2Proof.Machine

open Sys2Proof

/-! ### Fields of a stack -/

theorem State.stkF_setStkF (s : State) (f : Fld) (t x : Nat) (h : f.fits = true) :
    (s.setStkF f t x).stkF f t = x % 2 ^ (f.hi + 1 - f.lo) := State.getF_setF _ _ _ _ _ h

/-- Another field of the same register stays. -/
theorem State.stkF_setStkF_apart (s : State) (f k : Fld) (t x : Nat) (hr : k.reg = f.reg) (h : f.fits = true) (hk : k.fits = true)
    (ha : f.apart k = true) : (s.setStkF f t x).stkF k t = s.stkF k t := State.getF_setF_apart _ _ _ _ _ _ hr h hk ha

theorem State.stkF_of_regs {s u : State} (h : u.regs = s.regs) (f : Fld) (t : Nat) : u.stkF f t = s.stkF f t := State.getF_of_regs h ..

/-! ### Retirement (R170) -/

/-- A stack that retires is RETIRED with its cause. -/
theorem State.retireStack_state (s : State) (t cause : Nat) :
    (s.retireStack t cause).stackState t = 4 ∧ (s.retireStack t cause).stkF STACK_STATE_CAUSE t = cause % 16 := by
  have hregs : (s.retireStack t cause).regs = ((s.setStkF STACK_STATE_STATE t 4).setStkF STACK_STATE_CAUSE t cause).regs :=
    (State.noteHealth_moves _).same .regs (by decide)
  refine ⟨(State.stackState_of_regs hregs t).trans ?_, (State.stkF_of_regs hregs _ t).trans (State.stkF_setStkF _ _ _ _ rfl)⟩
  exact (State.stkF_setStkF_apart _ STACK_STATE_CAUSE STACK_STATE_STATE t cause rfl rfl rfl rfl).trans (State.stkF_setStkF s _ t 4 rfl)

/-- It raises one record. -/
theorem State.retireStack_raised (s : State) (t cause : Nat) : (s.retireStack t cause).err.raised.length = s.err.raised.length + 1 := by
  rw [State.retireStack, show ∀ u : State, u.noteHealth.err = u.err from fun u => (State.noteHealth_moves u).same .err (by decide)]
  exact List.length_append

/-! ### The commands -/

section
variable {t : Fin 12} {s : State}

/-- A scrub that is due makes its granule fresh after it has moved on to the next (R172, R173). -/
theorem exec_scrubRead {errs : List SymErr} (hs : s.stackState t = 2) (hd : s.dieRunning (t / 3) = true)
    (hh : s.getF TALUS_EXPERT_SCRUB_HOURS (t / 3) 0 ≠ 0)
    (hf : s.stackHeld (granuleAddr t (s.stkF SCRUB_POS_NEXT_GRANULE t)) 128 (!errs.isEmpty) = false) :
    exec (.scrubRead t errs) s = .next ((s.setStkF SCRUB_POS_NEXT_GRANULE t ((s.stkF SCRUB_POS_NEXT_GRANULE t + 1) % 536870912)).freshen t
      (s.stkF SCRUB_POS_NEXT_GRANULE t) errs false) := if_pos ⟨hs, hd, hh, by rw [hf]; rfl⟩

/-- Where no error stands the scrub moves on and changes no byte. -/
theorem scrub_of_no_errs {g : Nat} {u v : State} (hv : s.setStkF SCRUB_POS_NEXT_GRANULE t ((g + 1) % 536870912) = v)
    (hu : v.freshen t g [] false = u) (h0 : s.granuleErrs t g = []) :
    u.stkF SCRUB_POS_NEXT_GRANULE t = (g + 1) % 2 ^ 29 ∧ (∀ a, u.byte a = s.byte a) ∧ u.poison = s.poison ∧ u.out = s.out := by
  have hpos : v.stkF SCRUB_POS_NEXT_GRANULE t = (g + 1) % 536870912 % 536870912 := hv ▸ State.stkF_setStkF _ _ _ _ rfl
  have hmoves : Moves 0x8 s v := hv ▸ State.setStkF_moves ..
  have h0' : v.granuleErrs t g = [] := (State.granuleErrs_congr (hmoves.same .talusCtl (by decide)) t g).trans h0
  have hfresh : Moves 0x210 v u := hu ▸ State.freshen_moves_none h0' false
  have hbyte (a : Nat) : u.byte a = v.byte a := hu ▸ State.byte_freshen_none h0' false a
  refine ⟨?_, fun a => (hbyte a).trans (State.byte_of_mem (hmoves.same .mem (by decide)) a),
    (hmoves.same .poison (by decide)).trans (hfresh.same .poison (by decide)),
    (hmoves.same .out (by decide)).trans (hfresh.same .out (by decide))⟩
  rw [State.stkF_of_regs (hfresh.same .regs (by decide)), hpos]
  exact Nat.mod_mod ..

theorem State.stackClear_spec (s : State) (t : Nat) : (s.stackClear t).stkF CE_COUNT_COUNT t = 0 ∧ (s.stackClear t).stkF UE_COUNT_COUNT t = 0 ∧
    (s.stackClear t).mem = s.mem ∧ (s.stackClear t).stackState t = s.stackState t := by
  have hstate (u : State) (f : Fld) (hf : f.reg = CE_COUNT ∨ f.reg = UE_COUNT) : (u.setStkF f t 0).stackState t = u.stackState t :=
    State.getF_setF_ne _ _ _ _ _ _ _ _ (by obtain h | h := hf <;> rw [h] <;> simp [Reg.addr, STACK_STATE_STATE, STACK_STATE, CE_COUNT, UE_COUNT])
  refine ⟨?_, State.stkF_setStkF _ UE_COUNT_COUNT t 0 rfl, rfl, (hstate _ _ (.inr rfl)).trans (hstate _ _ (.inl rfl))⟩
  refine (State.getF_setF_ne _ _ _ _ _ _ _ _ ?_).trans (State.stkF_setStkF s CE_COUNT_COUNT t 0 rfl)
  simp [Reg.addr, CE_COUNT_COUNT, CE_COUNT, UE_COUNT_COUNT, UE_COUNT]

/-- Software retires an ACTIVE stack, and no other (R170). -/
theorem exec_retire (h : s.stackState t = 2) : exec (.retire t) s = .next (s.retireStack t 5).releaseAll :=
  congrArg Host.Outcome.next (if_pos h)

theorem exec_retire_other (h : s.stackState t ≠ 2) : exec (.retire t) s = .next s := congrArg Host.Outcome.next (if_neg h)

/-- A training that fails retires its stack (Table 6.4). -/
theorem exec_stackTrainingComplete_fail (h : s.stackState t = 1) (hk : (s.stack t).training ≠ .selftest) (wires : List (Fin 320)) :
    exec (.stackTrainingComplete t false wires) s = .next (s.retireStack t 2).releaseAll :=
  (if_neg (by simp [h, hk])).trans (if_pos rfl)

/-- One that passes on every wire makes it ACTIVE. -/
theorem exec_stackTrainingComplete_pass (h : s.stackState t = 1) (hk : (s.stack t).training ≠ .selftest) :
    exec (.stackTrainingComplete t true []) s = .next ((s.shellTrain 4 t).stackActive t).releaseAll := by
  refine (if_neg (by simp [h, hk])).trans ((if_neg (by decide)).trans (congrArg (fun u => Host.Outcome.next (State.releaseAll u)) (if_neg ?_)))
  rw [List.foldl_nil, h]
  decide

/-- A temperature update holds the temperature, and the refresh rate that follows from it (R174). -/
theorem exec_stackTempUpdate (temp : Fin 256) : CompletesThen (.stackTempUpdate t temp) s (fun u => u.thermalStep.startCooled) fun u =>
    u.stkF STACK_TEMP_TEMP t = temp ∧ u.stkF STACK_TEMP_REFRESH_2X t = b2n (decide (85 < temp.val)) ∧ u.mem = s.mem := by
  refine ⟨((s.setPower fun p => { p with temps := kset 0 p.temps (80 + t.val) temp.val }).setStkF STACK_TEMP_TEMP t temp).setStkF
    STACK_TEMP_REFRESH_2X t (b2n (decide (85 < temp.val))), rfl, ?_, ?_, rfl⟩
  · rw [State.stkF_setStkF_apart _ STACK_TEMP_REFRESH_2X STACK_TEMP_TEMP _ _ rfl rfl rfl rfl, State.stkF_setStkF _ _ _ _ rfl]
    exact Nat.mod_eq_of_lt temp.isLt
  · rw [State.stkF_setStkF _ _ _ _ rfl]
    cases decide (85 < temp.val) <;> rfl

end

/-- Settles O14: each command by what it does to the stack's registers; the scrub is a read-modify-write of its granule. -/
theorem talusStackCommands : Obligations.TalusStackCommands := by
  intro t s
  refine ⟨fun hs hd hh hf h0 => ⟨_, exec_scrubRead hs hd hh hf, scrub_of_no_errs rfl rfl h0⟩,
    fun errs hs hd hh hf => ⟨_, exec_scrubRead hs hd hh hf, State.granuleErrs_freshen ..⟩, ⟨_, rfl, s.stackClear_spec t⟩,
    fun h => ⟨_, exec_retire h, ?_⟩, exec_retire_other,
    fun h hk => ⟨fun wires => ⟨_, exec_stackTrainingComplete_fail h hk wires, ?_⟩, exec_stackTrainingComplete_pass h hk⟩,
    exec_stackTempUpdate⟩
  · obtain ⟨hstate, hcause⟩ := s.retireStack_state t 5
    have hmoves := s.retireStack_moves t 5
    exact ⟨hstate, hcause, hmoves.same .arrivals (by decide), s.retireStack_raised t 5, hmoves.same .mem (by decide)⟩
  · obtain ⟨hstate, hcause⟩ := s.retireStack_state t 2
    exact ⟨hstate, hcause, (s.retireStack_moves t 2).same .arrivals (by decide)⟩

end Sys2Proof.Machine
end

