-- ==== Sys2Proof/Proofs/TalusErrors.lean ====
section
/-!
PROOFS. Symbol errors in a granule: what a corrected word and an uncorrectable one count, and what a read makes of them (R167 to R170).
-/
namespace Sys2Proof.Machine

open Sys2Proof

/-! ### A corrected word -/

/-- The registers of dead wires decide which symbol of a group is dead (Table 6.13). -/
theorem State.deadSymbol_congr {s u : State} {t : Nat} (hA : u.reg DEAD_WIRES_A (t / 3) (t % 3) = s.reg DEAD_WIRES_A (t / 3) (t % 3))
    (hB : u.reg DEAD_WIRES_B (t / 3) (t % 3) = s.reg DEAD_WIRES_B (t / 3) (t % 3)) (w : Nat) : u.deadSymbol t w = s.deadSymbol t w := by
  unfold State.deadSymbol
  rw [hA, hB]

/-- The first wire of a group to die is recorded (R169). -/
theorem State.markDead_none {s : State} {t w : Nat} (h : s.deadSymbol t w = none) (j : Nat) : s.markDead t w j = s.setDead t w j := by
  rw [State.markDead, h]

theorem State.setDead_err (s : State) (t w j : Nat) : (s.setDead t w j).err = s.err := (State.setDead_moves ..).same .err (by decide)

theorem State.stkF_setDead (s : State) (t w j : Nat) : (s.setDead t w j).stkF CE_COUNT_COUNT t = s.stkF CE_COUNT_COUNT t := by
  refine congrArg CE_COUNT_COUNT.get (State.reg_setReg_ne _ _ _ _ _ _ _ _ ?_)
  split <;> simp [Reg.addr, CE_COUNT_COUNT, CE_COUNT, DEAD_WIRES_A, DEAD_WIRES_B]

/-- The correction of a symbol of a group without a dead wire: its count, its record, and the run that may make its wire dead (R167, R169). -/
theorem State.countCorrected_spec {s : State} {t w : Nat} (h : s.deadSymbol t w = none) (granule j : Nat) :
    (s.countCorrected t granule w j).stkF CE_COUNT_COUNT t = min (2 ^ 32 - 1) (s.stkF CE_COUNT_COUNT t + 1) ∧
    (s.countCorrected t granule w j).err.raised.length = s.err.raised.length + 1 := by
  unfold State.countCorrected
  extract_lets s1 x wire n
  have hcount (y : Stack) : (s1.setStack t y).stkF CE_COUNT_COUNT t = min (2 ^ 32 - 1) (s.stkF CE_COUNT_COUNT t + 1) :=
    s.getF_satF CE_COUNT_COUNT _ _ 1 rfl
  have hraised (y : Stack) : (s1.setStack t y).err.raised.length = s.err.raised.length + 1 := List.length_append
  have hdead (y : Stack) : (s1.setStack t y).deadSymbol t w = none := by
    refine (State.deadSymbol_congr ?_ ?_ w).trans h <;> refine State.reg_setReg_ne _ _ _ _ _ _ _ _ ?_ <;>
      simp [Reg.addr, CE_COUNT_COUNT, CE_COUNT, DEAD_WIRES_A, DEAD_WIRES_B]
  split
  · rw [State.markDead_none (hdead _), State.stkF_setDead, State.setDead_err]
    exact ⟨hcount _, hraised _⟩
  · exact ⟨hcount _, hraised _⟩

/-! ### An uncorrectable word -/

/-- A stack that retires keeps its other registers. -/
theorem State.retireStack_getF (s : State) (t cause : Nat) (f : Fld) (d i : Nat) (h : f.reg.addr d i ≠ STACK_STATE.addr (t / 3) (t % 3)) :
    (s.retireStack t cause).getF f d i = s.getF f d i := by
  have hregs : (s.retireStack t cause).regs = ((s.setStkF STACK_STATE_STATE t 4).setStkF STACK_STATE_CAUSE t cause).regs :=
    (State.noteHealth_moves _).same .regs (by decide)
  rw [State.getF_of_regs hregs, State.setStkF, State.getF_setF_ne _ STACK_STATE_CAUSE f _ _ _ _ _ h, State.setStkF,
    State.getF_setF_ne _ STACK_STATE_STATE f _ _ _ _ _ h]

/-- An uncorrectable word marked, counted and recorded. -/
def State.badWordCounted (s : State) (t granule w : Nat) : State :=
  ((s.setPoison (granuleAddr t granule + 8 * w) 8 true).satF UE_COUNT_COUNT (t / 3) (t % 3) 1).raise 1 0x11 (t / 3) t 0 granule w 0

/-- Its count may retire the stack (R170). -/
theorem State.countUncorrectable_eq (s : State) (t granule w : Nat) : s.countUncorrectable t granule w =
    if (s.badWordCounted t granule w).getF TALUS_EXPERT_UE_RETIRE_LIMIT (t / 3) 0 ≠ 0 ∧
        (s.badWordCounted t granule w).getF TALUS_EXPERT_UE_RETIRE_LIMIT (t / 3) 0 ≤ (s.badWordCounted t granule w).stkF UE_COUNT_COUNT t ∧
        (s.badWordCounted t granule w).stackState t ≠ 4
    then (s.badWordCounted t granule w).retireStack t 4 else s.badWordCounted t granule w := rfl

section
variable (s : State) (t granule w : Nat)

theorem State.poison_badWordCounted :
    (s.badWordCounted t granule w).poison = (s.setPoison (granuleAddr t granule + 8 * w) 8 true).poison := by
  rw [State.badWordCounted, State.raise_poison, State.satF_poison]

theorem State.stkF_badWordCounted : (s.badWordCounted t granule w).stkF UE_COUNT_COUNT t = min (2 ^ 32 - 1) (s.stkF UE_COUNT_COUNT t + 1) := by
  have hregs : (s.setPoison (granuleAddr t granule + 8 * w) 8 true).regs = s.regs := (State.setPoison_moves ..).same .regs (by decide)
  rw [State.badWordCounted, State.stkF, State.raise_getF, State.getF_satF _ _ _ _ _ rfl, State.getF_of_regs hregs]
  rfl

theorem State.limit_badWordCounted : (s.badWordCounted t granule w).getF TALUS_EXPERT_UE_RETIRE_LIMIT (t / 3) 0 =
    s.getF TALUS_EXPERT_UE_RETIRE_LIMIT (t / 3) 0 := by
  have hregs : (s.setPoison (granuleAddr t granule + 8 * w) 8 true).regs = s.regs := (State.setPoison_moves ..).same .regs (by decide)
  rw [State.badWordCounted, State.raise_getF, State.satF, State.getF_setF_ne, State.getF_of_regs hregs]
  simp [Reg.addr, TALUS_EXPERT_UE_RETIRE_LIMIT, TALUS_EXPERT, UE_COUNT_COUNT, UE_COUNT]
  omega

/-- An uncorrectable word is marked in memory and counted, and the count may retire the stack (R168, R170). -/
theorem State.countUncorrectable_spec :
    (s.countUncorrectable t granule w).poison = (s.setPoison (granuleAddr t granule + 8 * w) 8 true).poison ∧
    (s.countUncorrectable t granule w).stkF UE_COUNT_COUNT t = min (2 ^ 32 - 1) (s.stkF UE_COUNT_COUNT t + 1) ∧
    (s.getF TALUS_EXPERT_UE_RETIRE_LIMIT (t / 3) 0 ≠ 0 →
      s.getF TALUS_EXPERT_UE_RETIRE_LIMIT (t / 3) 0 ≤ (s.countUncorrectable t granule w).stkF UE_COUNT_COUNT t →
      (s.countUncorrectable t granule w).stackState t = 4) := by
  rw [State.countUncorrectable_eq, ← s.poison_badWordCounted, ← s.stkF_badWordCounted t granule w, ← s.limit_badWordCounted t granule w]
  generalize s.badWordCounted t granule w = u
  split
  · refine ⟨(State.retireStack_moves ..).same .poison (by decide), ?_, fun _ _ => (u.retireStack_state t 4).1⟩
    exact u.retireStack_getF t 4 UE_COUNT_COUNT _ _ (by simp [Reg.addr, UE_COUNT_COUNT, UE_COUNT, STACK_STATE])
  · next h => exact ⟨rfl, rfl, fun h0 hle => by_contra fun h4 => h ⟨h0, hle, h4⟩⟩

end

/-! ### Reads -/

section
variable {s : State} {t granule w : Nat} (hw : w < 16) (hp : s.poisoned (granuleAddr t granule) 128 = false)
  (h0 : s.granuleErrs t granule = [])
include hw hp h0

/-- Where errors stand in one word and nothing is poisoned, that word's mark is the only one. -/
theorem State.readsAs_word {u : State} {errs : List SymErr} {q : Bool} (hbad : ∀ v, v ≠ w → badSymbols errs v = [])
    (hx : s.decodeWord t granule w errs = (u, ⟨s.readN (granuleAddr t granule + 8 * w) 8, q⟩)) (hmem : u.mem = s.mem)
    (hkeep : ∀ v < 16, v ≠ w → u.poisoned (granuleAddr t granule + 8 * v) 8 = s.poisoned (granuleAddr t granule + 8 * v) 8) :
    s.ReadsAs t granule errs u fun v => decide (v = w) && q := by
  have h := State.readsAs_one h0 hw hbad hx hmem hkeep
  have hmarks : s.markedWords t granule (fun v => if v = w then q else s.poisoned (granuleAddr t granule + 8 * v) 8) =
      s.markedWords t granule fun v => decide (v = w) && q := by
    refine List.map_congr_left fun v hv => ?_
    by_cases e : v = w
    · simp [e]
    · simp [e, State.not_poisoned_word hp (List.mem_range.mp hv)]
  rwa [State.ReadsAs, hmarks] at h

variable {j : Nat} {f : BitVec 4} (hj : j < 20) (hf : f ≠ 0)
include hj hf

theorem State.readsAs_corrected (hd : s.deadSymbol t w = none) :
    s.ReadsAs t granule [⟨w, j, f⟩] (s.countCorrected t granule w j) fun _ => false := by
  have hmoves := s.countCorrected_moves t granule w j
  have h := s.readsAs_word hw hp h0 (q := false) (fun v hv => by rw [badSymbols_one hj hf, if_neg hv])
    (State.decodeWord_one (State.not_poisoned_word hp hw) hd (by rw [badSymbols_one hj hf, if_pos rfl])) (hmoves.same .mem (by decide))
    fun v _ _ => State.poisoned_of_poison (hmoves.same .poison (by decide)) _ _
  simpa using h

theorem State.readsAs_dead (hd : s.deadSymbol t w = some j) : s.ReadsAs t granule [⟨w, j, f⟩] s fun _ => false := by
  have h := s.readsAs_word hw hp h0 (q := false) (fun v hv => by rw [badSymbols_one hj hf, if_neg hv])
    (State.decodeWord_dead (State.not_poisoned_word hp hw) hd (by rw [badSymbols_one hj hf, if_pos rfl])) rfl fun _ _ _ => rfl
  simpa using h

theorem State.readsAs_uncorrectable {k : Nat} {f' : BitVec 4} (hg : IsGranule t granule) (hd : s.deadSymbol t w = none) (hk : k < 20)
    (hf' : f' ≠ 0) (hne : j ≠ k) : s.ReadsAs t granule [⟨w, j, f⟩, ⟨w, k, f'⟩] (s.countUncorrectable t granule w) fun v => decide (v = w) := by
  have hpoison := (s.countUncorrectable_spec t granule w).1
  have h := s.readsAs_word hw hp h0 (q := true) (fun v hv => by rw [badSymbols_two hj hk hne hf hf', if_neg hv])
    (State.decodeWord_two (State.not_poisoned_word hp hw) hd (by rw [badSymbols_two hj hk hne hf hf', if_pos rfl]))
    ((s.countUncorrectable_moves t granule w).same .mem (by decide)) fun v hv hvw => by
      rw [State.poisoned_of_poison hpoison, s.poisoned_setPoison_word hg hw hv, if_neg hvw]
  simpa using h

end

section
variable {s u : State} {t granule : Nat} {errs : List SymErr}

/-- A read whose words are all good returns the granule's bytes, DONE. -/
theorem State.ReadsAs.readGranule_good (h : s.ReadsAs t granule errs u fun _ => false) : s.readGranule t granule errs =
    (s.readCells t granule errs).1.emit .talusData t [granule, 0, stDONE] (s.bytes (granuleAddr t granule) 128) := by
  have hmask : markMask (fun _ => false) = 0 := (markMask_eq_zero _).mpr fun _ _ => rfl
  rw [h.readGranule, hmask, if_pos rfl, s.markedBytes_none]

theorem State.ReadsAs.out_readGranule_good (h : s.ReadsAs t granule errs u fun _ => false) (hu : u.out = s.out) :
    (s.readGranule t granule errs).out = s.out ++ [⟨.talusData, t, [granule, 0, stDONE], s.bytes (granuleAddr t granule) 128⟩] := by
  have hout : (s.readCells t granule errs).1.out = s.out := Eq.trans (h.moves.same .out (by decide)) hu
  rw [h.readGranule_good, State.emit_out, hout]

/-- One with word w poisoned returns its bit in the mask, POISONED (R163). -/
theorem State.ReadsAs.out_readGranule_poisoned {w : Nat} (h : s.ReadsAs t granule errs u fun v => decide (v = w)) (hw : w < 16) :
    ∃ data, (s.readGranule t granule errs).out.getLast? = some ⟨.talusData, t, [granule, 2 ^ w, stPOISONED], data⟩ := by
  have hmask := markMask_one hw
  refine ⟨s.markedBytes t granule fun v => decide (v = w), ?_⟩
  rw [h.readGranule, hmask, if_neg (Nat.pow_pos (by decide)).ne', State.emit_out, List.getLast?_concat]

theorem State.ReadsAs.byte_readGranule {p : Nat → Bool} (h : s.ReadsAs t granule errs u p) (hu : u.mem = s.mem) (a : Nat) :
    (s.readGranule t granule errs).byte a = s.byte a := by
  rw [h.readGranule, State.emit_byte]
  exact h.byte (funext (State.byte_of_mem hu)) a

theorem State.ReadsAs.granuleErrs_readGranule {p : Nat → Bool} (h : s.ReadsAs t granule errs u p) (h0 : s.granuleErrs t granule = []) :
    (s.readGranule t granule errs).granuleErrs t granule = standing errs := by
  rw [h.readGranule, State.granuleErrs_congr (State.emit_talusCtl ..)]
  exact h.granuleErrs h0

end

/-- Settles O12: each error is decoded in its own word, and the read leaves what the decoding of that word left. -/
theorem talusSymbolErrors : Obligations.TalusSymbolErrors := by
  intro t granule s w j k f f' hr hh hp h0 hw hj hk hf hf'
  refine ⟨fun hd => ⟨_, exec_talusRead_ok hh hr, ?_⟩, fun hd => ⟨_, exec_talusRead_ok hh hr, ?_⟩,
    fun hd hne => ⟨_, exec_talusRead_ok hh hr, ?_⟩⟩
  · have hread := State.readsAs_corrected hw hp h0 hj hf hd
    have hcount := s.countCorrected_moves t granule w j
    have hmoves := hread.readGranule_moves
    obtain ⟨hce, hraised⟩ := State.countCorrected_spec hd granule j
    have herr : (s.readGranule t granule [⟨w, j, f⟩]).err = (s.countCorrected t granule w j).err := hmoves.same .err (by decide)
    refine ⟨hread.out_readGranule_good (hcount.same .out (by decide)), (State.stkF_of_regs (hmoves.same .regs (by decide)) _ _).trans hce,
      by rw [herr, hraised], hread.byte_readGranule (hcount.same .mem (by decide)), ?_,
      (hread.granuleErrs_readGranule h0).trans (standing_one hj hf)⟩
    exact (hcount.same .poison (by decide)).trans (hmoves.same .poison (by decide))
  · have hread := State.readsAs_dead hw hp h0 hj hf hd
    have hmoves := hread.readGranule_moves
    exact ⟨hread.out_readGranule_good rfl, hread.byte_readGranule rfl, hmoves.same .poison (by decide), hmoves.same .regs (by decide),
      hmoves.same .err (by decide)⟩
  · have hg : IsGranule t granule := ⟨t.isLt, granule.isLt⟩
    have hread := State.readsAs_uncorrectable hw hp h0 hj hf hg hd hk hf' hne
    have hmoves := hread.readGranule_moves
    have hregs := hmoves.same .regs (by decide)
    obtain ⟨hpoison, hue, hretire⟩ := s.countUncorrectable_spec t granule w
    have hue' := State.stkF_of_regs hregs UE_COUNT_COUNT t
    refine ⟨hread.out_readGranule_poisoned hw, ?_, hue'.trans hue, hread.byte_readGranule ((s.countUncorrectable_moves ..).same .mem (by decide)),
      (hread.granuleErrs_readGranule h0).trans (standing_two hj hk hne hf hf'), fun hl hle => ?_⟩
    · rw [State.poisoned_of_poison (hmoves.same .poison (by decide)), State.poisoned_of_poison hpoison,
        s.poisoned_setPoison_word hg hw hw, if_pos rfl]
    · exact (State.stackState_of_regs hregs t).trans (hretire hl (hue' ▸ hle))

end Sys2Proof.Machine
end
